-- ==== Sys2Proof/Word.lean ====
section
/-! DEFINITION. The words of the machine: register words, counters, bytes and general registers, and the plain reading and
replacing of a bit field in a natural number (R18, R20, R25). -/
namespace Sys2Proof

/-- A 32-bit register word (R20). -/
abbrev Word := BitVec 32
/-- A 48-bit counter (R32). -/
abbrev Cnt := BitVec 48
/-- A byte of a frame, a memory or a host buffer (R19). -/
abbrev Byte := BitVec 8
/-- A Porros general register (R77). -/
abbrev Word64 := BitVec 64

/-- The bits `hi` down to `lo` of `x`, as the spec writes `x[hi:lo]`. -/
def bits (hi lo x : Nat) : Nat := x / 2 ^ lo % 2 ^ (hi + 1 - lo)

/-- `x` with its bits `hi` down to `lo` replaced by those of `v`. -/
def setBits (hi lo v x : Nat) : Nat :=
  x % 2 ^ lo + (v % 2 ^ (hi + 1 - lo)) * 2 ^ lo + x / 2 ^ (hi + 1) * 2 ^ (hi + 1)

end Sys2Proof
end

