-- ==== Sys2Proof/Syntax.lean ====
section
/-! DEFINITION. The commands the block takes, one constructor for each row of spec/opcode_table.json, and the plain operand
types they carry. -/
namespace Sys2Proof

/-- Who executes a Porros instruction: thread `t` of logical frame engine `n`, or a management core (R71, R111). -/
inductive Hart where
  | fe (n : Fin 64) (t : Fin 4)
  | mc (c : Fin 2)
  deriving DecidableEq, Repr

/-- The guard of an instruction: predicate `pg`, inverted when `pn` (R84). -/
structure Guard where
  pn : Bool
  pg : Fin 8
  deriving DecidableEq, Repr

abbrev GReg := Fin 32
abbrev PReg := Fin 8
abbrev TokId := Fin 8

/-- Who writes a register: a host domain (R430), a management core (R113), or the Darder link, which writes as a management
core (R507). The codes are those of EpStatus.HOLDER: 0 to 15 domain Dn, 16 the management cores. -/
abbrev Initiator := Fin 17


/-- What the memory checks report while a command reads a memory: how many words were corrected, and which words have an
uncorrectable error (R102, R207, R229). -/
structure Ecc where
  corrected : Nat := 0
  failing : List Nat := []
  deriving DecidableEq, Repr

/-- What a MAC finds of a frame as it ends on the wire (R261): the octets from the destination address to the last before the
FCS, the raw timestamp of its start in ns, and the errors seen; `frags` is how many mPackets carried it, `begun` says that its
reception began before the last QUIESCE of the port (R544), `stale` before the last RESUME of the BW die or reset of the receive
FIFO (R38, R230). -/
structure EthRx where
  bytes : List Byte
  time : Nat
  fcsBad : Bool := false
  codeErr : Bool := false
  align : Bool := false
  assErr : Bool := false
  smdErr : Bool := false
  frags : Nat := 0
  begun : Bool := false
  stale : Bool := false
  ecc : Ecc := {}
  deriving DecidableEq, Repr

/-- How a 10BASE-T1S port finds its medium at a frame boundary (R290): its own transmit opportunity opens, or for a CSMA/CD port
the medium is free; the medium is free outside it; another node sends. -/
inductive Medium where
  | own | other | busy
  deriving DecidableEq, Repr

/-- A valid frame on a CAN bus (R293, R303): kind 1 to 3, its flags as in the internal layout, the fields of the frame, its
data, the raw time of its start, whether its reception began before the last QUIESCE of the channel (R544), and before the last
RESUME of the BW die or reset of the receive FIFO (R38, R230). -/
structure CanRx where
  kind : Nat
  flags : Nat
  ident : Nat
  data : List Byte
  sdt : Nat
  vcid : Nat
  af : Nat
  time : Nat
  begun : Bool
  stale : Bool := false
  ecc : Ecc := {}
  deriving DecidableEq, Repr

/-- A response on a LIN bus (R319): identifier, data, 0 without an error or 1 checksum, 2 bit, 3 several responders; raw time.
Its frame is stale as in `CanRx`. -/
structure LinRx where
  ident : Nat
  data : List Byte
  err : Nat
  time : Nat
  stale : Bool := false
  ecc : Ecc := {}
  deriving DecidableEq, Repr

/-- A header on a LIN bus (R323): a break, sync or parity error in it, and the raw time at which its break field began (R339). -/
structure LinHeader where
  bad : Bool
  time : Nat := 0
  deriving DecidableEq, Repr

/-- A memory request to a BAR of a PCIe function (R430, R432): BAR2 rather than BAR0, the offset, the length in bytes, and
whether every byte enable is set. -/
structure HostReq where
  bar2 : Bool
  off : BitVec 24
  size : BitVec 13
  full : Bool
  deriving DecidableEq, Repr

/-- A request on the Darder link (R506) after its SYNC: CMD, TAG, TARGET, SUB, ADDR, the payload, whose length is LEN, and CRC. -/
structure DarderReq where
  cmd : BitVec 8
  tag : BitVec 8
  target : BitVec 8
  sub : BitVec 8
  addr : Word
  payload : List Byte
  crc : BitVec 16
  deriving DecidableEq, Repr

/-- A message received over a barrier link (R519): its sequence number, its payload and the CRC32C it carries. -/
structure BlMessage where
  seq : Byte
  payload : List Byte
  crc : Word
  deriving DecidableEq, Repr

/-- The straps of R518. -/
structure Straps where
  recovery : Bool
  sris0 : Bool
  sris1 : Bool
  ethOwner : Bool
  avs : Fin 4
  deriving DecidableEq, Repr

/-- A slot pair of a partition table (R485): KIND, TARGET, and where its halves A and B begin in flash, in units of 64 KiB. -/
structure PartPair where
  kind : BitVec 8
  target : Word
  a : BitVec 12
  b : BitVec 12
  deriving DecidableEq, Repr

/-- The fields of a partition table (R485): where the log area and the state area begin in flash, and its slot pairs. -/
structure PartTable where
  log : Word
  state : Word
  pairs : List PartPair
  deriving DecidableEq, Repr

/-- The sender of a recovery datagram with the port it sent to (R495). -/
structure RecovPeer where
  mac : BitVec 48
  ip : Word
  port : BitVec 16
  dst : BitVec 16
  deriving DecidableEq, Repr

/-- What a boot finds outside the device (R485 to R489): what the fields of the partition table and of its copy read, of which
the spec gives no layout, the halves whose flash read fails (pair, half), the register writes that the payload of a settings
block stands for with the format version the firmware expects, the units of the boot commit by directory index, whether the
entropy source passes its start-up tests, and whether the root bits programmed into banks A and B read back. -/
structure BootInput where
  table : PartTable
  copy : PartTable
  readErr : List (Fin 16 × Bool)
  settings : List (BitVec 24 × Word)
  expect : BitVec 16
  online : List (Fin 349)
  entropy : Bool
  fuseA : Bool
  fuseB : Bool
  deriving DecidableEq, Repr

/-- One of a port's two FIFOs: the transmit one rather than the receive one (R230). -/
structure PortFifo where
  port : Fin 96
  tx : Bool
  deriving DecidableEq, Repr

/-- What the end of a delivery's write brings (R248, R251): how many of its bytes were written, and what the ECC of its cells
showed. -/
structure RxWrite where
  wrote : BitVec 16
  ecc : Ecc
  deriving DecidableEq, Repr

/-- What an Ethernet port meets as it selects its next frame: the medium (R290) and the ECC of the frame's cells (R229). -/
structure EthTake where
  medium : Medium
  ecc : Ecc
  deriving DecidableEq, Repr

/-- A verify mPacket on a port (R270): a response rather than the partner's own request. -/
structure VerifyMpacket where
  port : Fin 20
  response : Bool
  deriving DecidableEq, Repr

/-- A CAN channel that takes a frame from its queues, and what the ECC of the frame's cells shows (R229, R305). -/
structure CanTake where
  chan : Fin 48
  ecc : Ecc
  deriving DecidableEq, Repr

/-- What the error that ends a CAN transmission brings: whether ISO exempts it from the error count (R301), and the delays
measured in the frame (R297). -/
structure CanTxErr where
  exempt : Bool
  tdcv : Option (BitVec 9)
  tdcvXl : Option (BitVec 9)
  deriving DecidableEq, Repr

/-- A LIN channel that takes a frame from its queues, and what the ECC of the frame's cells shows (R229, R320). -/
structure LinTake where
  chan : Fin 16
  ecc : Ecc
  deriving DecidableEq, Repr

/-- An edge on a capture input (R349): rising or falling, and for how many ns the input then held its level. -/
structure CapEdge where
  rising : Bool
  held : BitVec 16
  deriving DecidableEq, Repr

/-- The commands of the block: one constructor for each row of the opcode table, in the table's order. Rows that stand for
an event of the device or of its environment carry what the event brings (a port, a thread, the bytes that arrived). -/
inductive Instr where
  /-- REGISTER_WRITE (R25). A write to a register that has no row of its own stores each field according to its access code. -/
  | registerWrite (init : Initiator) (off : BitVec 24) (v : Word)
  /-- NOP (R33). The unit command NOP is accepted by every class and does nothing. -/
  | nop (u : Fin 349) (init : Initiator) (arg : BitVec 16) (tag : BitVec 8)
  /-- QUIESCE (R544). The unit stops admitting new work and begins to drain the in-flight work that its class names. -/
  | quiesce (u : Fin 349) (init : Initiator) (arg : BitVec 16) (tag : BitVec 8)
  /-- QUIESCE_DRAINED (R544). The draining in-flight work ends and the unit enters QUIESCED with RESULT OK. -/
  | quiesceDrained (u : Fin 349)
  /-- QUIESCE_TIMEOUT (R36). TMO_US expires before the drain ends, so admission re-opens and the command ends with RESULT
  TIMEOUT. -/
  | quiesceTimeout (u : Fin 349)
  /-- RESUME (R35). A QUIESCED unit re-enters RUN. -/
  | resume (u : Fin 349) (init : Initiator) (arg : BitVec 16) (tag : BitVec 8)
  /-- UPDATE (R35). A QUIESCED unit enters UPDATING and reboots with its most recently installed image. -/
  | update (u : Fin 349) (init : Initiator) (arg : BitVec 16) (tag : BitVec 8)
  /-- RECAL (R35). A QUIESCED unit enters UPDATING to recalibrate its analogue parts. -/
  | recal (u : Fin 349) (init : Initiator) (arg : BitVec 16) (tag : BitVec 8)
  /-- RESTART (R35). The unit resets and reboots with its current image, or a barrier link retrains. -/
  | restart (u : Fin 349) (init : Initiator) (arg : BitVec 16) (tag : BitVec 8)
  /-- REPLACE (R46). The device maps a spare physical resource in place of the unit's current one. -/
  | replace (u : Fin 349) (init : Initiator) (arg : BitVec 16) (tag : BitVec 8)
  /-- RETIRE (R35). The unit enters FAULTED with FAULT_CAUSE SOFTWARE. -/
  | retire (u : Fin 349) (init : Initiator) (arg : BitVec 16) (tag : BitVec 8)
  /-- TAKE_OFFLINE (R35). A QUIESCED or FAULTED unit enters OFFLINE. -/
  | takeOffline (u : Fin 349) (init : Initiator) (arg : BitVec 16) (tag : BitVec 8)
  /-- BRING_ONLINE (R36). An OFFLINE unit opens an implicit one-entry transaction that stages it to enter RUN at the next commit. -/
  | bringOnline (u : Fin 349) (init : Initiator) (arg : BitVec 16) (tag : BitVec 8)
  /-- UNIT_WORK_COMPLETE (R36). The work of an UPDATING unit ends, and the unit enters QUIESCED or, when its image check fails
  or no spare is found, FAULTED. -/
  | unitWorkComplete (u : Fin 349) (readErr : Bool)
  /-- UNIT_INTERNAL_FAULT (R36). An internal fault detected in a unit puts it into FAULTED, and its in-flight work is handled
  under R39. -/
  | unitInternalFault (u : Fin 349) (cause : Fin 16)
  /-- BUFFER_ROW_FREED (R48). Every cell of a row being replaced is free, so the lowest free spare row is mapped in and
  allocation resumes. -/
  | bufferRowFreed
  /-- STAGE_ENTRY_WRITE (R52). A write of an EpStageEntry word stores the value and records the writer, or is discarded while
  another initiator holds a transaction. -/
  | stageEntryWrite (init : Initiator) (n : Fin 1024) (w : Fin 4) (v : Word)
  /-- STAGE (R53). EpCmd STAGE opens a transaction and sends each stage entry to its target units. -/
  | stage (init : Initiator) (count : BitVec 11)
  /-- TARGET_STAGE_ANSWER (R53). A target answers STAGED or refuses an entry, and the transaction moves to READY or ABORTED once
  every target has answered. -/
  | targetStageAnswer (u : Fin 349)
  /-- STAGE_TIMEOUT (R53). EpStageTmo expires before every target has answered, so the transaction aborts with CAUSE TIMEOUT. -/
  | stageTimeout
  /-- COMMIT (R53). EpCmd COMMIT checks the targets, waits under the live limit, increments the epoch and sends the commit token. -/
  | commit (init : Initiator)
  /-- ABORT (R52). EpCmd ABORT ends the open transaction, and no target applies any value. -/
  | abort (init : Initiator)
  /-- LIVE_LIMIT_TIMEOUT (R53). EpCommitTmo expires while PHASE is WAITING, so the transaction aborts with CAUSE LIVE_LIMIT. -/
  | liveLimitTimeout
  /-- EPOCH_RETIRED (R50). The last frame or job stamped with an epoch leaves, so the epoch stops being live and its resources
  are released. -/
  | epochRetired
  /-- COMMIT_TOKEN_ARRIVAL (R54). The commit token reaches a unit, which applies its staged values and takes the new mode. -/
  | commitTokenArrival (u : Fin 349)
  /-- IMPLICIT_TXN_DISCARD (R57). An implicit transaction not staged within EpStageTmo plus EpCommitTmo is discarded and counted. -/
  | implicitTxnDiscard
  /-- SNAP (R58). EpCmd SNAP starts a snapshot token with the next SNAP_ID. -/
  | snap (init : Initiator)
  /-- SNAP_TOKEN_PASS (R58). The snapshot token passes a unit, which copies its live counters and gauges into their shadows. -/
  | snapTokenPass (u : Fin 349)
  /-- MODE_REQUEST (R64). A write of MdModeReq starts a mode-change transaction, or completes at once for the mode already in
  force. -/
  | modeRequest (init : Initiator) (m : Fin 4)
  /-- REGULATOR_SETTLED (R64). The regulator reports that it has settled at the faster mode's target, and the mode change
  commits. -/
  | regulatorSettled (mv : BitVec 16)
  /-- REGULATOR_FAULT (R64). The regulator reports a fault, so the mode change aborts with CAUSE REGULATOR and the previous
  target is restored. -/
  | regulatorFault
  /-- REGULATOR_SETTLE_TIMEOUT (R64). The regulator neither settles nor answers within 2 ms, so the mode change aborts with
  CAUSE REGULATOR. -/
  | regulatorSettleTimeout
  /-- MODE_DRAIN_TIMEOUT (R64). Epochs from before a slowing commit have not drained within EpCommitTmo, so LAST_RESULT becomes
  2 and the old target is held. -/
  | modeDrainTimeout
  /-- PACE_WINDOW (R65). A 1 µs pace window ends and each pace monitor updates PACE and MIN_SEEN. -/
  | paceWindow (paces : List (BitVec 16))
  /-- AVS_ADAPT_STEP (R66). On its at-most-1 ms tick, adaptive voltage control lowers or raises VCORE by 5 mV within the band. -/
  | avsAdaptStep
  /-- PACE_LOW_TIMEOUT (R66). A monitor has stayed below its floor for 10 µs with VCORE at the upper limit, so GUAR_LOST is set
  and the pace-low event is raised. -/
  | paceLowTimeout
  /-- PA_GRANT (R68). A waiting admission request at the head fits its budget and is granted. -/
  | paGrant (a : Fin 4)
  /-- PA_WAIT_TIMEOUT (R68). A request has waited MAX_WAIT_MS and is denied. -/
  | paWaitTimeout (a : Fin 4)
  /-- PA_LEASE_EXPIRY (R69). A LEAVE grant is reclaimed after LEASE_MS, counted in MdPaReclaimed, and the lease-expired event is
  raised. -/
  | paLeaseExpiry (handle : BitVec 16)
  /-- ADD (R122). Integer add of two registers. -/
  | add (h : Hart) (g : Guard) (rd ra rb : GReg)
  /-- SUB (R122). Integer subtract of two registers. -/
  | sub (h : Hart) (g : Guard) (rd ra rb : GReg)
  /-- AND (R122). Bitwise and of two registers. -/
  | and (h : Hart) (g : Guard) (rd ra rb : GReg)
  /-- OR (R122). Bitwise or of two registers. -/
  | or (h : Hart) (g : Guard) (rd ra rb : GReg)
  /-- XOR (R122). Bitwise xor of two registers. -/
  | xor (h : Hart) (g : Guard) (rd ra rb : GReg)
  /-- ANDN (R122). Bitwise and of a register with the complement of another. -/
  | andn (h : Hart) (g : Guard) (rd ra rb : GReg)
  /-- SHL (R122). Shift left by a register amount. -/
  | shl (h : Hart) (g : Guard) (rd ra rb : GReg)
  /-- SHR (R122). Logical shift right by a register amount. -/
  | shr (h : Hart) (g : Guard) (rd ra rb : GReg)
  /-- SAR (R122). Arithmetic shift right by a register amount. -/
  | sar (h : Hart) (g : Guard) (rd ra rb : GReg)
  /-- ROL (R122). Rotate left by a register amount. -/
  | rol (h : Hart) (g : Guard) (rd ra rb : GReg)
  /-- ROR (R122). Rotate right by a register amount. -/
  | ror (h : Hart) (g : Guard) (rd ra rb : GReg)
  /-- MUL (R122). Low 64 bits of a product. -/
  | mul (h : Hart) (g : Guard) (rd ra rb : GReg)
  /-- MULHU (R122). High 64 bits of an unsigned 128-bit product. -/
  | mulhu (h : Hart) (g : Guard) (rd ra rb : GReg)
  /-- MIN (R122). Signed minimum of two registers. -/
  | min (h : Hart) (g : Guard) (rd ra rb : GReg)
  /-- MAX (R122). Signed maximum of two registers. -/
  | max (h : Hart) (g : Guard) (rd ra rb : GReg)
  /-- MINU (R122). Unsigned minimum of two registers. -/
  | minu (h : Hart) (g : Guard) (rd ra rb : GReg)
  /-- MAXU (R122). Unsigned maximum of two registers. -/
  | maxu (h : Hart) (g : Guard) (rd ra rb : GReg)
  /-- POPC (R122). Count of 1 bits in a register. -/
  | popc (h : Hart) (g : Guard) (rd ra : GReg)
  /-- CLZ (R122). Count of leading zero bits. -/
  | clz (h : Hart) (g : Guard) (rd ra : GReg)
  /-- CTZ (R122). Count of trailing zero bits. -/
  | ctz (h : Hart) (g : Guard) (rd ra : GReg)
  /-- BSWAP (R122). Byte reversal of a register. -/
  | bswap (h : Hart) (g : Guard) (rd ra : GReg)
  /-- ADDI (R123). Add of a sign-extended 12-bit immediate. -/
  | addi (h : Hart) (g : Guard) (rd ra : GReg) (imm : BitVec 12)
  /-- ANDI (R123). And with a zero-extended 12-bit immediate. -/
  | andi (h : Hart) (g : Guard) (rd ra : GReg) (imm : BitVec 12)
  /-- ORI (R123). Or with a zero-extended 12-bit immediate. -/
  | ori (h : Hart) (g : Guard) (rd ra : GReg) (imm : BitVec 12)
  /-- XORI (R123). Xor with a zero-extended 12-bit immediate. -/
  | xori (h : Hart) (g : Guard) (rd ra : GReg) (imm : BitVec 12)
  /-- SHLI (R123). Shift left by an immediate amount. -/
  | shli (h : Hart) (g : Guard) (rd ra : GReg) (amt : Fin 64)
  /-- SHRI (R123). Logical shift right by an immediate amount. -/
  | shri (h : Hart) (g : Guard) (rd ra : GReg) (amt : Fin 64)
  /-- SARI (R123). Arithmetic shift right by an immediate amount. -/
  | sari (h : Hart) (g : Guard) (rd ra : GReg) (amt : Fin 64)
  /-- ROLI (R123). Rotate left by an immediate amount. -/
  | roli (h : Hart) (g : Guard) (rd ra : GReg) (amt : Fin 64)
  /-- RORI (R123). Rotate right by an immediate amount. -/
  | rori (h : Hart) (g : Guard) (rd ra : GReg) (amt : Fin 64)
  /-- MOVZ (R124). Places a 16-bit immediate in one lane and zeroes the rest of the register. -/
  | movz (h : Hart) (rd : GReg) (hw : Fin 4) (imm : BitVec 16)
  /-- MOVK (R124). Places a 16-bit immediate in one lane and keeps the rest of the register. -/
  | movk (h : Hart) (rd : GReg) (hw : Fin 4) (imm : BitVec 16)
  /-- EXTR (R125). Extracts a bit field zero-extended. -/
  | extr (h : Hart) (g : Guard) (rd ra : GReg) (pos lenm1 : Fin 64)
  /-- EXTRS (R125). Extracts a bit field sign-extended. -/
  | extrs (h : Hart) (g : Guard) (rd ra : GReg) (pos lenm1 : Fin 64)
  /-- INSR (R125). Inserts the low bits of a register as a field. -/
  | insr (h : Hart) (g : Guard) (rd ra : GReg) (pos lenm1 : Fin 64)
  /-- SEL (R126). Selects one of two registers by a predicate. -/
  | sel (h : Hart) (g : Guard) (rd ra rb : GReg) (ps : PReg)
  /-- CMP (R127). Compares two registers and writes a predicate and its complement. -/
  | cmp (h : Hart) (g : Guard) (pt pf : PReg) (ra rb : GReg) (cc : Fin 8)
  /-- CMPI (R127). Compares a register with a sign-extended immediate and writes a predicate and its complement. -/
  | cmpi (h : Hart) (g : Guard) (pt pf : PReg) (ra : GReg) (cc : Fin 8) (imm : BitVec 8)
  /-- PAND (R128). Predicate and. -/
  | pand (h : Hart) (g : Guard) (pt pa pb : PReg)
  /-- POR (R128). Predicate or. -/
  | por (h : Hart) (g : Guard) (pt pa pb : PReg)
  /-- PXOR (R128). Predicate xor. -/
  | pxor (h : Hart) (g : Guard) (pt pa pb : PReg)
  /-- PANDN (R128). Predicate and-not. -/
  | pandn (h : Hart) (g : Guard) (pt pa pb : PReg)
  /-- BR (R129). Branches relative to the PC. -/
  | br (h : Hart) (g : Guard) (off : BitVec 22)
  /-- CALL (R129). Branches relative to the PC and writes the link into g31. -/
  | call (h : Hart) (g : Guard) (off : BitVec 22)
  /-- JR (R130). Jumps to a register plus an offset, with an optional link. -/
  | jr (h : Hart) (g : Guard) (rd ra : GReg) (imm : BitVec 12)
  /-- LD (R131). Little-endian load zero-extended. -/
  | ld (h : Hart) (g : Guard) (rt ra : GReg) (sz : Fin 4) (off : BitVec 8) (ecc : Ecc)
  /-- LDS (R131). Little-endian load sign-extended. -/
  | lds (h : Hart) (g : Guard) (rt ra : GReg) (sz : Fin 4) (off : BitVec 8) (ecc : Ecc)
  /-- LDN (R131). Network-order load zero-extended. -/
  | ldn (h : Hart) (g : Guard) (rt ra : GReg) (sz : Fin 4) (off : BitVec 8) (ecc : Ecc)
  /-- LDNS (R131). Network-order load sign-extended. -/
  | ldns (h : Hart) (g : Guard) (rt ra : GReg) (sz : Fin 4) (off : BitVec 8) (ecc : Ecc)
  /-- ST (R131). Little-endian store. -/
  | st (h : Hart) (g : Guard) (rt ra : GReg) (sz : Fin 4) (off : BitVec 8)
  /-- STN (R131). Network-order store. -/
  | stn (h : Hart) (g : Guard) (rt ra : GReg) (sz : Fin 4) (off : BitVec 8)
  /-- AMOADD (R132). Atomic add on cluster shared data. -/
  | amoadd (h : Hart) (g : Guard) (rd ra rb : GReg) (wide : Bool) (ecc : Ecc)
  /-- AMOSWAP (R132). Atomic swap on cluster shared data. -/
  | amoswap (h : Hart) (g : Guard) (rd ra rb : GReg) (wide : Bool) (ecc : Ecc)
  /-- AMOOR (R132). Atomic or on cluster shared data. -/
  | amoor (h : Hart) (g : Guard) (rd ra rb : GReg) (wide : Bool) (ecc : Ecc)
  /-- AMOAND (R132). Atomic and on cluster shared data. -/
  | amoand (h : Hart) (g : Guard) (rd ra rb : GReg) (wide : Bool) (ecc : Ecc)
  /-- AMOCAS (R132). Atomic compare-and-swap on cluster shared data. -/
  | amocas (h : Hart) (g : Guard) (rd ra rb : GReg) (wide : Bool) (ecc : Ecc)
  /-- CSUM (R134). Adds a byte range into a running ones'-complement sum. -/
  | csum (h : Hart) (g : Guard) (rd ra rb : GReg) (ecc : Ecc)
  /-- CSUMR (R134). Incrementally updates a checksum for one changed word. -/
  | csumr (h : Hart) (g : Guard) (rd ra rb : GReg)
  /-- CSUMF (R134). Folds a running sum into a checksum field value. -/
  | csumf (h : Hart) (g : Guard) (rd ra : GReg)
  /-- CRC8 (R135). Updates a CRC-8 with polynomial 0x1D over a byte range. -/
  | crc8 (h : Hart) (g : Guard) (rd ra rb : GReg) (ecc : Ecc)
  /-- CRC8H (R135). Updates a CRC-8 with polynomial 0x2F over a byte range. -/
  | crc8h (h : Hart) (g : Guard) (rd ra rb : GReg) (ecc : Ecc)
  /-- CRC16 (R135). Updates a CRC-16 over a byte range. -/
  | crc16 (h : Hart) (g : Guard) (rd ra rb : GReg) (ecc : Ecc)
  /-- CRC32 (R135). Updates a reflected CRC-32 over a byte range. -/
  | crc32 (h : Hart) (g : Guard) (rd ra rb : GReg) (ecc : Ecc)
  /-- CRC32C (R135). Updates a reflected CRC-32C over a byte range. -/
  | crc32c (h : Hart) (g : Guard) (rd ra rb : GReg) (ecc : Ecc)
  /-- CRC32P4 (R135). Updates a reflected CRC-32P4 over a byte range. -/
  | crc32p4 (h : Hart) (g : Guard) (rd ra rb : GReg) (ecc : Ecc)
  /-- HMIX (R136). Mixes two values into a 64-bit hash. -/
  | hmix (h : Hart) (g : Guard) (rd ra rb : GReg)
  /-- CLMULL (R137). Low half of a carry-less product. -/
  | clmull (h : Hart) (g : Guard) (rd ra rb : GReg)
  /-- CLMULH (R137). High half of a carry-less product. -/
  | clmulh (h : Hart) (g : Guard) (rd ra rb : GReg)
  /-- MFS (R138). Reads a special register into a general register. -/
  | mfs (h : Hart) (g : Guard) (rd : GReg) (num : BitVec 12)
  /-- MTS (R138). Writes a special register from a general register. -/
  | mts (h : Hart) (g : Guard) (ra : GReg) (num : BitVec 12)
  /-- CNTADD (R139). Adds to a program counter FeProgCnt without holding the thread. -/
  | cntadd (h : Hart) (g : Guard) (ra rb : GReg)
  /-- YIELD (R140). Gives the next issue slot to another READY thread. -/
  | yield (h : Hart) (g : Guard)
  /-- FENCE (R140). Waits until the thread's earlier stores and AMOs are visible. -/
  | fence (h : Hart) (g : Guard)
  /-- BKPT (R115). Halts the thread when the Darder link has armed it, and acts as YIELD otherwise. -/
  | bkpt (h : Hart) (g : Guard)
  /-- SVREQ (R140). Raises SVREQ on a management core and ILLEGAL on a frame engine. -/
  | svreq (h : Hart) (g : Guard)
  /-- ADJH (R141). Prepends bytes to, or strips bytes from, the head of the output packet. -/
  | adjh (h : Hart) (g : Guard) (ra : GReg)
  /-- ADJT (R141). Sets the length of the output packet. -/
  | adjt (h : Hart) (g : Guard) (ra : GReg)
  /-- WMOV (R141). Moves the frame window to a new frame offset. -/
  | wmov (h : Hart) (g : Guard) (ra : GReg)
  /-- MATCH (R142). Issues a rule-set search on a token. -/
  | matchKey (h : Hart) (g : Guard) (rd ra : GReg) (set : Fin 16) (tk : TokId)
  /-- MATCH_ACT (R105). Searches a rule set and carries out the winning rule's action in hardware. -/
  | matchAct (h : Hart) (g : Guard) (rd ra : GReg) (set : Fin 16) (ecc : Ecc)
  /-- MATCH_DONE (R142). A rule search completes, writes its results and completes its token with OK, MISS or MEMORY. -/
  | matchDone (h : Hart) (tk : TokId) (ecc : Ecc)
  /-- LKUP (R143). Issues a table lookup on a token, optionally with learning. -/
  | lkup (h : Hart) (g : Guard) (rd ra : GReg) (table : Fin 16) (learn : Bool) (tk : TokId)
  /-- LKUP_DONE (R143). A table lookup completes, updates the entry state and writes its result. -/
  | lkupDone (h : Hart) (tk : TokId) (ecc : Ecc)
  /-- AESE (R146). Issues an AES encryption of one block under a key slot. -/
  | aese (h : Hart) (g : Guard) (rd ra : GReg) (tk : TokId)
  /-- AESD (R146). Issues an AES decryption of one block under a key slot. -/
  | aesd (h : Hart) (g : Guard) (rd ra : GReg) (tk : TokId)
  /-- AES_BLOCK_SCHEDULE (R351). The cipher scheduler gives a waiting block to a usable core. -/
  | aesBlockSchedule (h : Hart) (tk : TokId)
  /-- AES_BLOCK_DONE (R146). A core returns the result of a block and the token completes. -/
  | aesBlockDone (h : Hart) (tk : TokId)
  /-- MOR (R148). Issues a read of a message object. -/
  | mor (h : Hart) (g : Guard) (rd ra : GReg) (tk : TokId)
  /-- MOW (R148). Issues a write of a message object. -/
  | mow (h : Hart) (g : Guard) (rd ra : GReg) (tk : TokId)
  /-- MOACK (R148). Issues an acknowledgement of a message object. -/
  | moack (h : Hart) (g : Guard) (ra : GReg) (tk : TokId)
  /-- MO_OP_DONE (R149). A message object operation acts on the whole object and completes its token. -/
  | moOpDone (h : Hart) (tk : TokId)
  /-- LEAVE (R150). Asks the power admission unit for leave on a token. -/
  | leave (h : Hart) (g : Guard) (rd ra : GReg) (budget : Fin 4) (tk : TokId)
  /-- LEAVE_REL (R150). Releases a LEAVE grant by handle. -/
  | leaveRel (h : Hart) (g : Guard) (ra : GReg) (tk : TokId)
  /-- TNOW (R151). Reads the time of a domain. -/
  | tnow (h : Hart) (g : Guard) (rd : GReg) (td : Fin 4)
  /-- TARM (R152). Arms a token to complete at a domain deadline. -/
  | tarm (h : Hart) (g : Guard) (ra : GReg) (td : Fin 4) (rel : Bool) (tk : TokId)
  /-- TARM_EXPIRY (R96). The deadline of an armed TARM is reached and the token completes. -/
  | tarmExpiry (h : Hart) (tk : TokId)
  /-- WAIT (R153). Holds the thread until the named tokens are idle, then writes a predicate. -/
  | wait (h : Hart) (g : Guard) (tmask : BitVec 8) (pd : PReg)
  /-- EMIT (R154). Commits the output packet to one output queue and ends the job. -/
  | emit (h : Hart) (g : Guard) (ra : GReg) (cls : Option (Fin 8))
  /-- EMITM (R154). Commits one copy of the output packet to each port of a set and ends the job. -/
  | emitm (h : Hart) (g : Guard) (ra : GReg) (cls : Option (Fin 8))
  /-- DROP (R154). Rewinds the output packet with a reason and ends the job. -/
  | drop (h : Hart) (g : Guard) (reason : BitVec 8)
  /-- COPYH (R154). Commits the output packet to a host receive ring and ends the job. -/
  | copyh (h : Hart) (g : Guard) (ra : GReg) (dom ring : Fin 16)
  /-- MIRR (R156). Queues a copy of the output packet to a mirror session, and the job continues. -/
  | mirr (h : Hart) (g : Guard) (session : Fin 8)
  /-- REDIP (R176). Commits the output packet to the recirculation port for a second pass. -/
  | redip (h : Hart) (g : Guard)
  /-- TRAP (R154). Raises TRAP and sends the frame to the slow path with a trap code. -/
  | trap (h : Hart) (g : Guard) (code : BitVec 12)
  /-- MFSR (R157). Reads a management-core system register. -/
  | mfsr (h : Hart) (g : Guard) (rd : GReg) (num : BitVec 12)
  /-- MTSR (R157). Writes a management-core system register. -/
  | mtsr (h : Hart) (g : Guard) (ra : GReg) (num : BitVec 12)
  /-- ERET (R157). Restores IRQ_ON and LEVEL and continues at TRAPPC. -/
  | eret (h : Hart) (g : Guard)
  /-- WFI (R157). Holds the management core until an unmasked line is pending. -/
  | wfi (h : Hart) (g : Guard)
  /-- BUDGET_EXHAUSTED (R97). A job's instruction count reaches its budget, and the next instruction raises BUDGET. -/
  | budgetExhausted (n : Fin 64) (t : Fin 4)
  /-- WAIT_TMO (R101). A thread has stayed in WAIT or BLOCKED longer than FeWaitTmo and raises WAIT_TMO. -/
  | waitTmo (h : Hart)
  /-- THREAD_CELL_AVAILABLE (R83). A cell frees for a thread that is blocked building its output packet, and the thread
  continues. -/
  | threadCellAvailable (n : Fin 64) (t : Fin 4)
  /-- INTERRUPT_TAKEN (R115). A management core takes the lowest pending unmasked line between instructions. -/
  | interruptTaken (c : Fin 2)
  /-- ALARM_DUE (R114). TD0 time reaches ALARM, so line 31 becomes pending. -/
  | alarmDue (c : Fin 2)
  /-- FE_LOAD (R106). FeLoadCmd LOAD loads a program set image into a common free slot of every named cluster, or refuses it. -/
  | feLoad (init : Initiator) (clusters : BitVec 8) (ecc : Ecc)
  /-- FE_LOAD_COPY_DONE (R109). The copy of a program set completes, and its slot moves from LOADING to LOADED. -/
  | feLoadCopyDone
  /-- FE_FREE (R109). FeLoadCmd FREE frees a LOADED slot in every named cluster, or refuses with BAD_STATE. -/
  | feFree (init : Initiator) (clusters : BitVec 8) (slot : Fin 4)
  /-- ETH_FRAME_RECEIVED (R261). An Ethernet frame ends on the wire, is checked and counted, and is committed to the receive
  FIFO or rewound. -/
  | ethFrameReceived (p : Fin 20) (x : EthRx)
  /-- DISPATCH (R162). The dispatcher takes a committed frame, stamps it, and queues it to a cluster, diverts it to the slow
  path, or drops it. -/
  | dispatch (p : Fin 96)
  /-- JOB_HANDOVER (R167). A thread becomes idle and the dispatcher hands it the next frame, trigger or crypto job from the
  cluster queue. -/
  | jobHandover (c : Fin 8)
  /-- SLOW_BUCKET_REFILL (R181). A slow-path queue's rate bucket refills at RATE frames per ms. -/
  | slowBucketRefill (q : Fin 4)
  /-- RULE_WINDOW_WRITE (R171). A write through ClsRuleWin edits a rule, takes it into or out of service, or is discarded. -/
  | ruleWindowWrite (w : Fin 35) (v : Word)
  /-- ORDER_RELEASE (R184). Every lower sequence of the ingress port is resolved, so the order stage releases a frame to its
  queue or ring. -/
  | orderRelease (p : Fin 96)
  /-- ORDER_TIMEOUT (R186). A frame unresolved for FeOrderTmo is dropped, or its thread raises WAIT_TMO. -/
  | orderTimeout (p : Fin 96) (seq : Word)
  /-- TB_READ (R222). Table command READ copies one entry into TbData. -/
  | tbRead (i : Fin 2) (table : Fin 16) (index : BitVec 16) (ecc : Ecc)
  /-- TB_WRITE (R223). Table command WRITE writes one entry by index. -/
  | tbWrite (i : Fin 2) (table : Fin 16) (index : BitVec 16)
  /-- TB_INSERT (R196). Table command INSERT places or replaces an entry by key. -/
  | tbInsert (i : Fin 2) (table : Fin 16) (index : BitVec 16)
  /-- TB_DELETE (R222). Table command DELETE removes an entry by key or by index. -/
  | tbDelete (i : Fin 2) (table : Fin 16) (index : BitVec 16)
  /-- TB_SEARCH (R222). Table command SEARCH finds an exact key and returns the entry and its location. -/
  | tbSearch (i : Fin 2) (table : Fin 16) (index : BitVec 16) (ecc : Ecc)
  /-- FLUSH_MATCH (R223). Table command FLUSH_MATCH starts a pass that removes matching entries, and may flush a port's queues. -/
  | flushMatch (i : Fin 2) (table : Fin 16) (index : BitVec 16)
  /-- FLUSH_VISIT (R223). The flush visits one location and removes the entry there if it matches. -/
  | flushVisit (i : Fin 2)
  /-- PORT_QUEUE_FLUSH (R239). After the frame on the wire ends, every frame then in the port's queues is removed. -/
  | portQueueFlush (p : Fin 96)
  /-- SWEEP_NOW (R206). Table command SWEEP_NOW starts an aging pass at once. -/
  | sweepNow (i : Fin 2) (table : Fin 16) (index : BitVec 16)
  /-- REHASH (R209). Table command REHASH requests leave and rebuilds a hashed table under new seeds. -/
  | rehash (i : Fin 2) (table : Fin 16) (index : BitVec 16)
  /-- REHASH_PLACEMENT_DONE (R209). The rebuild finishes placing entries, and the alternate version is committed or the rehash
  fails. -/
  | rehashPlacementDone (t : Fin 16)
  /-- REBUILD (R216). Table command REBUILD builds a compacted alternate version of an LPM table. -/
  | rebuild (i : Fin 2) (table : Fin 16) (index : BitVec 16)
  /-- REBUILD_COPY_DONE (R216). The rebuild copy completes, and it is committed or held open. -/
  | rebuildCopyDone (t : Fin 16)
  /-- REBUILD_COMMIT (R216). Table command REBUILD_COMMIT commits the open alternate version. -/
  | rebuildCommit (i : Fin 2) (table : Fin 16) (index : BitVec 16)
  /-- BG_ABORT (R222). Table command BG_ABORT ends a running or open background operation. -/
  | bgAbort (i : Fin 2) (table : Fin 16) (index : BitVec 16)
  /-- LEARN_APPLY (R200). The learn unit applies a queued learn to the L2 database. -/
  | learnApply
  /-- LOCK_EXPIRY (R202). A flap lock record expires and the entry's LOCKED bit clears. -/
  | lockExpiry (key : BitVec 60)
  /-- SWEEP_PASS_START (R205). The SWEEP_S period ends and an aging pass starts. -/
  | sweepPassStart
  /-- SWEEP_VISIT (R205). The sweeper visits one location, clearing HIT, setting AGED or removing the entry. -/
  | sweepVisit (ecc : Ecc)
  /-- STREAM_GATE_ENTRY_START (R278). A stream gate's next list entry starts, setting OPEN and IOM_LEFT. -/
  | streamGateEntryStart (g : Fin 1024)
  /-- STREAM_GATE_BASE_WRITE (R278). A write of TbSgBase or TbSgCfg restarts every stream gate. -/
  | streamGateBaseWrite (w : Fin 4) (v : Word)
  /-- SEQ_RECOVERY_RESET (R281). No frame has been accepted for RESET_MS, so the recovery function resets and sets TAKE_ANY. -/
  | seqRecoveryReset (r : Fin 512)
  /-- RESIDENCE_SCAN (R235). The periodic scan drops queue heads whose residence exceeds MAX_RES_US. -/
  | residenceScan
  /-- LINK_LOST (R238). A port's link is lost, and it enters HOLD or is flushed to DOWN. -/
  | linkLost (p : Fin 96)
  /-- LINK_HOLD_EXPIRY (R238). The link-loss hold timer reaches LL_HOLD_MS and the port is flushed to DOWN. -/
  | linkHoldExpiry (p : Fin 96)
  /-- LINK_RESTORED (R238). A port's link is restored and it returns to UP. -/
  | linkRestored (p : Fin 96) (an : Fin 16)
  /-- FIFO_POINTER_ECC_ERROR (R230). An uncorrectable error in a FIFO's pointer state resets the FIFO and discards its frames. -/
  | fifoPointerEccError (x : PortFifo)
  /-- MIRROR_SESSION_WRITE (R242). A write of BqMirror configures a session and restarts its sampler, or is discarded. -/
  | mirrorSessionWrite (s : Fin 8) (w : Fin 2) (v : Word)
  /-- RX_TAIL_WRITE (R243). A write of a receive ring's TAIL posts buffers, or is discarded when it overfills the ring. -/
  | rxTailWrite (r : Fin 272) (v : Word)
  /-- RX_RING_CFG_WRITE (R245). A write of HrRxCfg configures the ring, and writing ENABLE 0 drops unclaimed deliveries. -/
  | rxRingCfgWrite (r : Fin 272) (v : Word)
  /-- RX_DELIVERY_CLAIM (R246). Enough descriptors are posted, so the head delivery claims them and its data writing begins. -/
  | rxDeliveryClaim (r : Fin 272) (bufs : List (BitVec 64))
  /-- RX_DELIVERY_WRITTEN (R248). A delivery's data has been written, and the device writes its completions. -/
  | rxDeliveryWritten (r : Fin 272) (x : RxWrite)
  /-- RX_HOLD_TIMEOUT (R247). The head delivery has waited HOLD_US and is dropped. -/
  | rxHoldTimeout (r : Fin 272)
  /-- RING_IRQ_TIMEOUT (R250). TIME_US has passed since an unannounced completion, so the ring's message is sent. -/
  | ringIrqTimeout (r : Fin 272) (tx : Bool)
  /-- TX_TAIL_WRITE (R253). A write of a transmit ring's TAIL posts descriptors. -/
  | txTailWrite (r : Fin 272) (v : Word)
  /-- TX_RING_CFG_WRITE (R254). A write of HrTxCfg configures the ring, and writing ENABLE 0 then 1 clears HALTED. -/
  | txRingCfgWrite (r : Fin 272) (v : Word)
  /-- TX_FRAME_CHECK (R254). The ring takes a fully posted frame and checks its descriptors. -/
  | txFrameCheck (r : Fin 272) (descs : List (BitVec 256))
  /-- TX_CELLS_CLAIMED (R255). The frame's cells are free and claimed, and the data read begins. -/
  | txCellsClaimed (r : Fin 272)
  /-- TX_DATA_READ_DONE (R255). The frame data has been read, and the frame is dispatched (ENGINE), admitted (DIRECT) or failed. -/
  | txDataReadDone (r : Fin 272) (err : Bool) (data : List Byte)
  /-- ETH_TX_SELECT (R268). At a frame boundary, the port selects the next eligible frame and starts it. -/
  | ethTxSelect (p : Fin 20) (x : EthTake)
  /-- ETH_TX_END (R263). A frame's transmission ends and it is counted. -/
  | ethTxEnd (p : Fin 20) (ecc : Ecc)
  /-- PAUSE_TIMER_EXPIRY (R266). A class's pause timer runs out and the class is no longer paused. -/
  | pauseTimerExpiry (p : Fin 20) (c : Fin 8)
  /-- PAUSE_WATCHDOG_EXPIRY (R267). A class has been paused for WDOG_MS, so its pause ends and hold-off starts. -/
  | pauseWatchdogExpiry (p : Fin 20) (c : Fin 8)
  /-- PAUSE_HOLDOFF_END (R267). HOLDOFF_MS ends and pause frames act on the class again. -/
  | pauseHoldoffEnd (p : Fin 20) (c : Fin 8)
  /-- LINK_LOSS_DETECTED (R259). A loss condition has held for LOSS_US, so the port reports link down. -/
  | linkLossDetected (p : Fin 20)
  /-- LINK_UP_DETECTED (R259). No loss condition has held for UP_MS, so the port reports link up. -/
  | linkUpDetected (p : Fin 20) (an : Fin 16)
  /-- PREEMPT_VERIFY_TIMER (R270). VERIFY_MS elapses and the port sends the next verify mPacket or ends verification. -/
  | preemptVerifyTimer (p : Fin 20)
  /-- VERIFY_MPACKET_RECEIVED (R270). A verify response mPacket arrives, so verification succeeds and preemption becomes ACTIVE. -/
  | verifyMpacketReceived (x : VerifyMpacket)
  /-- GATE_ENTRY_START (R272). The next entry or cycle of the operational gate list starts and sets the gate states. -/
  | gateEntryStart (p : Fin 20) (i : Fin 256)
  /-- CONFIG_CHANGE (R273). A write of CONFIG_CHANGE computes the change time and sets PENDING, or is refused. -/
  | configChange (p : Fin 20)
  /-- GATE_CANCEL (R273). A write of CANCEL withdraws the pending gate configuration change. -/
  | gateCancel (p : Fin 20)
  /-- GATE_CONFIG_APPLY (R274). The change time is reached, and the administrative gate list becomes operational. -/
  | gateConfigApply (p : Fin 20)
  /-- STEP_CAPS_TIMER (R282). The 1 s timer elapses and the port sends a CAPS step frame. -/
  | stepCapsTimer (p : Fin 20)
  /-- STEP_CAPS_RECEIVED (R282). A CAPS frame from the partner arrives and sets PEER_OK. -/
  | stepCapsReceived (p : Fin 20) (ceil floor : BitVec 8)
  /-- STEP_PEER_TIMEOUT (R282). No CAPS frame has arrived for 3 s, so PEER_OK clears. -/
  | stepPeerTimeout (p : Fin 20)
  /-- STEP_TRAIN_TIMEOUT (R282). No lock is found within 10 ms at link establishment, so the port tries the next lower rate. -/
  | stepTrainTimeout (p : Fin 20)
  /-- STEP_DOWN_WINDOW (R283). A 1 ms utilisation window ends and the port evaluates whether to request a step. -/
  | stepDownWindow (p : Fin 20)
  /-- STEP_REQ_RECEIVED (R286). A REQ step frame arrives and the partner answers ACK or NAK. -/
  | stepReqReceived (p : Fin 20) (txn rate : BitVec 8)
  /-- STEP_ACK_RECEIVED (R285). An ACK arrives, so the initiator finishes its frame, sends DONE and stops transmitting. -/
  | stepAckReceived (p : Fin 20) (txn rate : BitVec 8)
  /-- STEP_NAK_RECEIVED (R286). A NAK arrives and the initiator abandons its request. -/
  | stepNakReceived (p : Fin 20) (txn rate reason : BitVec 8)
  /-- STEP_DONE_RECEIVED (R285). A DONE arrives, and after sending its own DONE the port retrains the lane at the target. -/
  | stepDoneReceived (p : Fin 20) (txn rate : BitVec 8)
  /-- STEP_ACK_TIMEOUT (R285). No ACK or NAK arrives within 150 µs, so the initiator abandons with NO_ACK. -/
  | stepAckTimeout (p : Fin 20)
  /-- STEP_DONE_TIMEOUT (R285). A partner that sent ACK receives no DONE within 150 µs and resumes at the current rate. -/
  | stepDoneTimeout (p : Fin 20)
  /-- STEP_LANE_LOCKED (R285). The lane locks at the target rate, transmission resumes and the leave is released. -/
  | stepLaneLocked (p : Fin 20)
  /-- STEP_LOCK_TIMEOUT (R287). The lane does not lock within 30 µs, so both ends return to the previous rate, or the link is
  lost. -/
  | stepLockTimeout (p : Fin 20)
  /-- LPI_IDLE_TIMEOUT (R289). Every output queue has been empty for IDLE_US, so the MAC signals LPI. -/
  | lpiIdleTimeout (p : Fin 20)
  /-- LPI_WAKE_DONE (R289). TW_SYS_TX after LPI ends, the first octet may leave. -/
  | lpiWakeDone (p : Fin 20) (us : Word)
  /-- T1S_COLLISION (R290). A CSMA/CD collision on a 10BASE-T1S port causes back-off, or a drop at 16 collisions or a late
  collision. -/
  | t1sCollision (p : Fin 20) (late : Bool)
  /-- PLCA_BEACON_LOSS (R291). A PLCA follower stops receiving beacons, so PLCA_OK falls and the link is lost. -/
  | plcaBeaconLoss (p : Fin 20)
  /-- TS_FIFO_POP (R292). A write of POP removes the head entry of the egress timestamp FIFO. -/
  | tsFifoPop (p : Fin 20)
  /-- CAN_FRAME_RECEIVED (R303). A CAN frame becomes valid and the channel updates objects, checks foreign use, feeds monitors,
  makes a tunnel copy and commits it. -/
  | canFrameReceived (n : Fin 48) (x : CanRx)
  /-- CAN_RX_ERROR (R301). A bus error is detected, and the error counters and protocol state move under ISO 11898-1. -/
  | canRxError (n : Fin 48) (k : Fin 6) (up : Fin 9)
  /-- CAN_TX_LOAD (R305). A transmit buffer is free, so the channel loads the head frame of the highest eligible class. -/
  | canTxLoad (x : CanTake)
  /-- CAN_ARBITRATION_START (R306). The channel starts the ready buffer that ranks first in arbitration. -/
  | canArbitrationStart (n : Fin 48)
  /-- CAN_TX_SUCCESS (R304). A frame is transmitted successfully, and its buffer frees. -/
  | canTxSuccess (n : Fin 48) (tdcv tdcvXl : Option (BitVec 9))
  /-- CAN_TX_ERROR (R307). A transmission ends in an error, so the frame is retransmitted or, at RETRY, discarded. -/
  | canTxError (n : Fin 48) (k : Fin 6) (x : CanTxErr)
  /-- CAN_ARB_LOST (R306). A frame loses arbitration and stays in its buffer. -/
  | canArbLost (n : Fin 48)
  /-- CAN_INTEGRATION_DONE (R301). 11 consecutive recessive bits move an INTEGRATING channel to ERROR_ACTIVE. -/
  | canIntegrationDone (n : Fin 48)
  /-- CAN_BO_DELAY_EXPIRY (R301). BO_DELAY_MS elapses with AUTO_RECOV set, so the channel enters RECOVERING. -/
  | canBoDelayExpiry (n : Fin 48)
  /-- CAN_RECOVER (R301). A write of RECOVER starts recovery from BUS_OFF. -/
  | canRecover (n : Fin 48)
  /-- CAN_RECOVERY_DONE (R301). 128 occurrences of 11 recessive bits end recovery, so the channel is error-active and its link
  restored. -/
  | canRecoveryDone (n : Fin 48)
  /-- CAN_PTIME_REACHED (R308). The domain time reaches a held frame's PTIME, so the frame enters arbitration. -/
  | canPtimeReached (n : Fin 48) (b : Fin 64)
  /-- CAN_SCHED_WRITE (R310). A write of CanSched reserves or releases transmit buffer 56 + s. -/
  | canSchedWrite (n : Fin 48) (s : Fin 8) (v : Word)
  /-- MO_KEY_WRITE (R314). A write of MoWinKey puts a message object into or out of service, or is discarded. -/
  | moKeyWrite (w : Fin 17) (v : Word)
  /-- MO_ACK_WRITE (R316). A write of MoWinAck acknowledges the object when its SEQ matches, else is counted stale. -/
  | moAckWrite (w : Fin 17) (v : Word)
  /-- MO_PUBLISH (R316). A write of MoWinPub performs MOW with the staged data. -/
  | moPublish (w : Fin 17) (v : Word)
  /-- MO_FOREIGN_CLEAR (R312). A write of CLEAR sets the object's FOREIGN count to 0. -/
  | moForeignClear (w : Fin 17)
  /-- LIN_TICK (R321). A schedule tick starts the header of an entry or advances the commander's schedule. -/
  | linTick (n : Fin 16)
  /-- LIN_HEADER_RECEIVED (R323). A header arrives, and a responder sends its published response or nothing. -/
  | linHeaderReceived (n : Fin 16) (id : Fin 64) (x : LinHeader)
  /-- LIN_RESPONSE_RECEIVED (R319). A complete response is checked, written to the data buffer and committed, or counted as an
  error. -/
  | linResponseReceived (n : Fin 16) (x : LinRx)
  /-- LIN_NO_RESPONSE (R323). No complete response arrives in time for a subscribed identifier, and LinNoResp counts. -/
  | linNoResponse (n : Fin 16)
  /-- LIN_TX_TAKE (R320). The channel takes a frame from its queues and writes its data into the data buffer, or drops it. -/
  | linTxTake (x : LinTake)
  /-- LIN_SCHED_REQ (R322). A write of REQ requests a switch of schedule table at the end of the slot. -/
  | linSchedReq (n : Fin 16) (t : Fin 8)
  /-- LIN_SCHED_STOP (R322). A write of STOP ends the schedule at the end of the slot. -/
  | linSchedStop (n : Fin 16)
  /-- LIN_SCHED_ENTRY_WRITE (R322). A write of LinSchedEntry stores an entry, or is discarded for a running or requested table. -/
  | linSchedEntryWrite (n : Fin 16) (v : Word)
  /-- TUN_AGG_TIMEOUT (R325). AGG_US passes since the first message, so the open AVTPDU closes and is sent. -/
  | tunAggTimeout (s : Fin 32)
  /-- TUN_STREAM_WRITE (R325). A write of TunTxStream configures the stream, and ENABLE 0 closes its open AVTPDU. -/
  | tunStreamWrite (s : Fin 32) (w : Fin 8) (v : Word)
  /-- SET_RATE (R335). Domain command SET_RATE requests a new INC. -/
  | setRate (t : Fin 4)
  /-- DOMAIN_STEP (R335). Domain command STEP requests an offset adjustment. -/
  | domainStep (t : Fin 4)
  /-- SET_TIME (R335). Domain command SET_TIME requests a new domain time. -/
  | setTime (t : Fin 4)
  /-- DOMAIN_CMD_APPLY (R335). At the second reference edge, an accepted domain command takes effect and enters the parameter
  history. -/
  | domainCmdApply (t : Fin 4)
  /-- LATCH (R338). A write of LATCH records the raw counter and all four domain times at one instant. -/
  | latch
  /-- CONV_GO (R338). A write of GO starts converting a raw timestamp into a domain time. -/
  | convGo (t : Fin 4)
  /-- CONV_DONE (R338). A conversion completes, and its result and status are valid. -/
  | convDone
  /-- TT_CTL_WRITE (R343). A write of TmTtCtl applies the trigger's pending values and starts or stops it, or is discarded. -/
  | ttCtlWrite (n : Fin 32) (v : Word)
  /-- TT_FIRE_NONE (R342). A firing of a KIND 0 trigger does nothing but count. -/
  | ttFireNone (n : Fin 32)
  /-- TT_FIRE_SENSE (R342). A SENSE firing starts the conversion sequence of each named converter. -/
  | ttFireSense (n : Fin 32)
  /-- TT_FIRE_JOB (R345). A JOB firing starts a trigger job at the head of a cluster queue, or is skipped. -/
  | ttFireJob (n : Fin 32)
  /-- TT_FIRE_LIN (R342). A LIN firing gives one schedule tick to each named commander. -/
  | ttFireLin (n : Fin 32)
  /-- TT_FIRE_CAN (R309). A CAN firing builds a scheduled frame from a message object into buffer 56 + s. -/
  | ttFireCan (n : Fin 32)
  /-- TT_FIRE_TOUT (R348). A TOUT firing starts or restarts a pulse of WIDTH_NS on the output. -/
  | ttFireTout (n : Fin 32)
  /-- TOUT_PULSE_END (R348). WIDTH_NS elapses and the TOUT pulse ends. -/
  | toutPulseEnd (k : Fin 4)
  /-- TCAP_EDGE (R349). A filtered edge on a capture input is recorded in its FIFO, or lost. -/
  | tcapEdge (c : Fin 8) (x : CapEdge)
  /-- TCAP_POP (R349). A write of POP removes the head capture record. -/
  | tcapPop (c : Fin 8)
  /-- CRYPTO_JOB_SUBMIT (R360). A write of GO submits a crypto job with a snapshot of its arguments, or is discarded. -/
  | cryptoJobSubmit (u : Fin 17) (v : Word)
  /-- CRYPTO_JOB_START (R360). The previous job on the context completes, and the job is checked and starts. -/
  | cryptoJobStart (u : Fin 17)
  /-- CRYPTO_CHUNK_STAGE (R361). A staging slot is free, so a chunk is read in and dispatched as a crypto service job. -/
  | cryptoChunkStage (err : Bool) (data : List Byte)
  /-- CRYPTO_CHUNK_END (R362). A chunk's job ends, its state is copied back and its output handed on, or the job ends. -/
  | cryptoChunkEnd (u : Fin 17) (ecc : Ecc)
  /-- CRYPTO_DONE_POP (R364). A write of POP removes the head completion record. -/
  | cryptoDonePop (u : Fin 17)
  /-- CTX_SAVE (R367). Context command SAVE writes an image of the selected context to host memory. -/
  | ctxSave (u : Fin 17)
  /-- CTX_RESTORE (R367). Context command RESTORE reads and checks an image into the context. -/
  | ctxRestore (u : Fin 17) (err : Bool) (img : List Byte)
  /-- CTX_CLEAR (R367). Context command CLEAR zeroes the context. -/
  | ctxClear (u : Fin 17)
  /-- KS_LOAD (R376). Key command LOAD unwraps a blob into a slot. -/
  | ksLoad (u : Fin 17) (slot : BitVec 12)
  /-- GENERATE (R375). Key command GENERATE fills a slot with random key bytes. -/
  | generate (u : Fin 17) (slot : BitVec 12)
  /-- IMPORT (R375). Key command IMPORT loads a clear key into a slot. -/
  | import (u : Fin 17) (slot : BitVec 12)
  /-- DERIVE (R375). Key command DERIVE derives a key into a slot from an input slot. -/
  | derive (u : Fin 17) (slot aux : BitVec 12)
  /-- WRAP_OUT (R375). Key command WRAP_OUT returns a blob of an exportable slot. -/
  | wrapOut (u : Fin 17) (slot : BitVec 12)
  /-- ERASE (R377). Key command ERASE erases a slot. -/
  | erase (u : Fin 17) (slot : BitVec 12)
  /-- UNWRAP (R375). Key command UNWRAP unwraps a ciphertext into a slot under a key-encryption slot. -/
  | unwrap (u : Fin 17) (slot aux : BitVec 12)
  /-- READ_ATTR (R375). Key command READ_ATTR returns the attribute word of a slot. -/
  | readAttr (u : Fin 17) (slot : BitVec 12)
  /-- KEY_SWITCH_DRAINED (R377). Every block using a slot's old key has completed, so BUSY clears and the old key is zeroed. -/
  | keySwitchDrained (u : Fin 17)
  /-- REMASK_SWEEP_DUE (R378). PERIOD_MS elapses and a re-mask sweep asks for leave, or counts as late. -/
  | remaskSweepDue
  /-- REMASK_SWEEP_DONE (R378). A re-mask sweep completes and releases its leave. -/
  | remaskSweepDone
  /-- ENTROPY_HEALTH_FAIL (R370). A continuous health test fails, so the DRBG stops and the entropy-failure event is raised. -/
  | entropyHealthFail
  /-- ENTROPY_RETEST (R370). Every 100 ms the start-up tests repeat, and passing restores the DRBG. -/
  | entropyRetest (pass : Bool)
  /-- KS_QUOTA_WRITE (R374). A write of KsQuota sets a user's slot range, or is discarded on overlap. -/
  | ksQuotaWrite (u : Fin 18) (v : Word)
  /-- WRAP_GEN_WRITE (R376). A write of KsWrapGen.CUR moves the old generation to PREV. -/
  | wrapGenWrite (u : Fin 18) (v : Word)
  /-- LD_CTL_WRITE (R385). A write of ON in LdCtl turns a channel on or off under its state machine. -/
  | ldCtlWrite (init : Initiator) (n : Fin 96) (on : Bool)
  /-- LOAD_CLEAR (R394). A write of CLEAR releases a LATCHED channel when the cooling and wire conditions hold. -/
  | loadClear (init : Initiator) (n : Fin 96)
  /-- LOAD_RAMP_DONE (R387). The slew completes or the last profile phase ends, and the channel enters ON. -/
  | loadRampDone (n : Fin 96)
  /-- LOAD_PHASE_END (R388). A profile phase's DUR ends and the next phase starts. -/
  | loadPhaseEnd (n : Fin 96)
  /-- LOAD_THERMAL_TRIP (R393). A junction reaches shutdown, so the output turns off and the channel enters COOL or LATCHED. -/
  | loadThermalTrip (n : Fin 96) (temp : BitVec 16)
  /-- LOAD_OC_TRIP (R395). Continuous time in current limit reaches 5 ms, so the channel trips. -/
  | loadOcTrip (n : Fin 96)
  /-- WIRE_MODEL_UPDATE (R396). Every 100 µs the die updates each wire model from the protection current. -/
  | wireModelUpdate (p : Fin 3) (currents : List (BitVec 16))
  /-- LOAD_RETRY_RELOAD (R385). 10 s in ON without a trip reloads the retry counter. -/
  | loadRetryReload (n : Fin 96)
  /-- LOAD_COOLED (R385). Every junction has cooled 20 K below its trip, so a channel in COOL with ON turns on again. -/
  | loadCooled (n : Fin 96) (temps : List (BitVec 16))
  /-- LOAD_GRANT_RELEASE (R392). WINDOW_MS after RAMP started, the turn-on grant is released. -/
  | loadGrantRelease (n : Fin 96)
  /-- VBAT_UNDERVOLTAGE (R403). VBAT stays below 5.0 V for 1 ms, so active channels enter UV. -/
  | vbatUndervoltage (p : Fin 3)
  /-- VBAT_RECOVERED (R403). VBAT rises above 5.5 V, and channels leave UV. -/
  | vbatRecovered (p : Fin 3)
  /-- ADC_ENTRY_DONE (R398). A converter entry finishes its conversion, and its sample is stored with a timestamp. -/
  | adcEntryDone (p : Fin 3) (c : Fin 4) (value : BitVec 16) (sat : Bool)
  /-- OPEN_LOAD_OFF_CHECK (R401). Every 1 ms an OFF channel compares its output with the threshold for open load off-state. -/
  | openLoadOffCheck (n : Fin 96) (above : Bool)
  /-- AGG_AVERAGE_CHECK (R402). The 1 s average of a die's samples exceeds PdAggWarn, so AGG_OVER is set. -/
  | aggAverageCheck (p : Fin 3) (x : Unit)
  /-- LOSS_OF_CONTROL (R407). No heartbeat for LOC_MS, so the die orders every channel to its LOC_STATE. -/
  | lossOfControl (p : Fin 3)
  /-- LOC_ENDED (R408). The heartbeat returns, so LOC clears, LOC_SEEN is set and the event is raised. -/
  | locEnded (p : Fin 3)
  /-- DIE_STATE_REPORT (R384). After the link comes up, a power die reports its channels and the logic side copies each request
  into LdCtl. -/
  | dieStateReport (p : Fin 3)
  /-- SLEEP_CMD (R421). A write of SLEEP starts device sleep by arming the wake detectors and sleeping the segments. -/
  | sleepCmd (init : Initiator)
  /-- SLEEP_STEP_DONE (R421). A step of the sleep sequence completes and the next step begins. -/
  | sleepStepDone
  /-- CAN_WAKE_PATTERN (R415). An armed detector sees a CAN wake-up pattern and wakes the channel's segment and the device. -/
  | canWakePattern (n : Fin 48)
  /-- SWF_FRAME_DECODED (R416). A selective-wake decoder evaluates a classical frame, waking on a match or on the error counter. -/
  | swfFrameDecoded (k : Fin 8) (err ide : Bool) (ident : BitVec 29) (dlc : Fin 16) (data : List Byte)
  /-- LIN_WAKE (R415). A dominant LIN level longer than 150 µs wakes the channel's segment. -/
  | linWake (n : Fin 16)
  /-- T1S_WAKE (R415). A TC10 wake-up signal wakes the port's segment. -/
  | t1sWake (m : Fin 8)
  /-- WAKE_INPUT_ACTIVE (R417). A filtered WAKE input reaches its active level and wakes its segments, unless masked. -/
  | wakeInputActive (i : Fin 8)
  /-- WAKE_STUCK (R417). A WAKE input stays active beyond STUCK_S and is masked. -/
  | wakeStuck (i : Fin 8)
  /-- SEG_SLEEP (R418). Segment command SLEEP arms the segment's detectors and starts its drain. -/
  | segSleep (s : Fin 32)
  /-- SEG_WAKE (R418). Segment command WAKE wakes the segment with source 7. -/
  | segWake (s : Fin 32)
  /-- SEGMENT_DRAIN_DONE (R420). The segment's queues and buffers are empty, so its transceivers are commanded to sleep. -/
  | segmentDrainDone (s : Fin 32)
  /-- SEGMENT_DRAIN_TIMEOUT (R418). DRAIN_MS elapses, so the transceivers are commanded to sleep with frames held. -/
  | segmentDrainTimeout (s : Fin 32)
  /-- SEGMENT_ASLEEP (R418). Every transceiver of the segment is asleep and the segment enters ASLEEP. -/
  | segmentAsleep (s : Fin 32)
  /-- SEGMENT_PORTS_WRITE (R418). A write of BwSegPorts sets the segment's ports, or is discarded. -/
  | segmentPortsWrite (s : Fin 32) (w : Fin 3) (v : Word)
  /-- VBAT_POWER_ON (R412). VBAT is applied, and the always-on controller asserts PWR_EN with source POWER_ON. -/
  | vbatPowerOn
  /-- OFF_TIME_END (R517). The 10 ms off-time after PWR_EN fell ends, and a latched wake asserts PWR_EN. -/
  | offTimeEnd
  /-- HOST_READ (R432). A host memory read of BAR0 or BAR2 is checked and answered. -/
  | hostRead (dom : Fin 16) (x : HostReq)
  /-- HOST_WRITE (R432). A host memory write is checked for size and permission and applied, queued or discarded. -/
  | hostWrite (dom : Fin 16) (x : HostReq) (poisoned : Bool) (data : BitVec 64)
  /-- FAR_WRITE_ACK (R441). The far side acknowledges or refuses a far-side write, and the queue frees a place. -/
  | farWriteAck (w : Fin 7)
  /-- FAR_WRITE_TIMEOUT (R442). No acknowledgement arrives within TMO_US, so the write fails and the pair is latched. -/
  | farWriteTimeout (w : Fin 7)
  /-- FAR_LATCH_CLEAR (R443). A write of 1 to LATCHED clears the pair's error latch and record. -/
  | farLatchClear (init : Initiator) (dom : Fin 16) (w : Fin 7)
  /-- FUNCTION_LEVEL_RESET (R446). An FLR stops the domain's DMA and resets its rings, page, window and latches. -/
  | functionLevelReset (dom : Fin 16)
  /-- PCIE_CONFIG_WRITE (R447). A configuration write changes Bus Master, Memory Space, power state or VF enable of a function. -/
  | pcieConfigWrite (dom : Fin 16) (bme mse d3 vfEnable : Bool) (numVfs : Fin 8)
  /-- PCIE_LINK_CHANGE (R424). A PCIe endpoint's link trains or goes down. -/
  | pcieLinkChange (e : Fin 2) (up : Bool) (speed width : Fin 5)
  /-- DOM_BIND_WRITE (R428). A write of HbDomBind binds a domain, or is discarded. -/
  | domBindWrite (init : Initiator) (dom : Fin 16) (v : Word)
  /-- COE_READ (R450). A control-over-Ethernet READ request reads registers and a READ_RSP is sent. -/
  | coeRead (dom : Fin 16)
  /-- COE_WRITE (R450). A control-over-Ethernet WRITE request writes registers and a WRITE_RSP is sent. -/
  | coeWrite (dom : Fin 16)
  /-- COE_TX (R452). A control-over-Ethernet TX message takes one transmit descriptor of the ring. -/
  | coeTx (dom : Fin 16)
  /-- LOCKSTEP_MISMATCH (R456). Two halves of a PAIRED pair present differing requests, so the pair stops and its fault class is
  raised. -/
  | lockstepMismatch (k : Fin 33)
  /-- LOCKSTEP_COPY_TIMEOUT (R456). One half does not present its copy within 1 µs, which is a mismatch. -/
  | lockstepCopyTimeout (k : Fin 33)
  /-- PAIR_JOIN (R457). LsPair JOIN starts a join, or re-synchronises a FAULTED pair. -/
  | pairJoin (k : Fin 33) (init : Initiator)
  /-- PAIR_SPLIT (R457). LsPair SPLIT starts a split of a PAIRED pair. -/
  | pairSplit (k : Fin 33) (init : Initiator)
  /-- HANDOVER_DRAINED (R458). Every thread of the pair is IDLE, and the split or join completes. -/
  | handoverDrained (k : Fin 33) (differ : Bool)
  /-- HANDOVER_DRAIN_TIMEOUT (R458). DRAIN_US expires, so busy threads raise WAIT_TMO and the hand-over goes on with
  DRAIN_FORCED. -/
  | handoverDrainTimeout (k : Fin 33)
  /-- FAULT_ACTIVE_CLEAR (R462). A write of 1 to ACTIVE clears it, or it is set again at once for a level class. -/
  | faultActiveClear (c : Fin 16)
  /-- WATCHDOG_KICK (R464). A write of KICK restarts the watchdog period. -/
  | watchdogKick (init : Initiator) (v : Word)
  /-- WATCHDOG_EXPIRY (R464). A watchdog period passes without a kick and class WATCHDOG arises. -/
  | watchdogExpiry
  /-- SEPIA_ENTER (R465). The device enters Sepia through ENTER or a SEPIA reaction. -/
  | sepiaEnter (init : Initiator)
  /-- SEPIA_EXIT (R468). D0's EXIT ends Sepia when no SEPIA-class fault is active. -/
  | sepiaExit (init : Initiator)
  /-- REFCLK_LOSS (R461). No reference edge for 1 µs raises class REFCLK. -/
  | refclkLoss
  /-- MONITOR_SAMPLE_TICK (R470). SAMPLE_US elapses, and a supply or temperature monitor takes a sample. -/
  | monitorSampleTick (m : Fin 64) (v : Word)
  /-- MONITOR_CLEAR (R472). A write of CLEAR zeroes the bins and resets the minimum, maximum and flags. -/
  | monitorClear (m : Fin 64)
  /-- EV_SW_RAISE (R476). A write of EvSwRaise raises the named event source as a test. -/
  | evSwRaise (init : Initiator) (v : Word)
  /-- EVENT_STATUS_CLEAR (R474). A write of 1 clears a bit in an event status set. -/
  | eventStatusClear (set : Fin 18) (w : Fin 8) (v : Word)
  /-- BOOT_START (R487). The logic side leaves reset and runs the boot sequence through the boot commit. -/
  | bootStart (x : BootInput)
  /-- HASH_GO (R479). A write of GO starts a hash. -/
  | hashGo (init : Initiator) (v : Word)
  /-- HASH_DONE (R479). A hash completes and its digest is written. -/
  | hashDone
  /-- SENSOR_SAMPLE (R480). Every 100 µs the temperatures and supplies are read and alarms raised. -/
  | sensorSample (temps : List (BitVec 16)) (mvs : List (BitVec 16))
  /-- VERSION (R500). Mailbox command VERSION returns the ROM and image versions. -/
  | version (n : Fin 16)
  /-- ATTEST (R502). Mailbox command ATTEST writes a signed attestation report. -/
  | attest (n : Fin 16) (err : Bool)
  /-- LOG_READ (R500). Mailbox command LOG_READ copies log records to host memory. -/
  | logRead (n : Fin 16) (err : Bool)
  /-- FLASH_WRITE (R490). Mailbox command FLASH_WRITE copies a chunk into an inactive half. -/
  | flashWrite (n : Fin 16) (data : Option (List Byte))
  /-- MBOX_COMMIT (R490). Mailbox command COMMIT sets PENDING for a slot pair. -/
  | mboxCommit (n : Fin 16)
  /-- CONFIRM (R491). Mailbox command CONFIRM makes the trial half ACTIVE. -/
  | confirm (n : Fin 16)
  /-- SVN_RAISE (R484). Mailbox command SVN_RAISE raises a slot pair's SVN_MIN. -/
  | svnRaise (n : Fin 16) (readErr : Bool)
  /-- LIFECYCLE (R503). Mailbox command LIFECYCLE checks a container and moves the lifecycle state. -/
  | lifecycle (n : Fin 16) (data : Option (List Byte))
  /-- KEYSET (R503). Mailbox command KEYSET programs or revokes an owner key set. -/
  | keyset (n : Fin 16) (data : Option (List Byte))
  /-- MBOX_RESET (R500). Mailbox command RESET resets the device. -/
  | mboxReset (n : Fin 16)
  /-- LOG_APPEND (R499). A write of MgLogGo appends a chained log record, or loses it. -/
  | logAppend (init : Initiator)
  /-- LOG_FLUSH_TIMER (R499). 10 s or 4,096 unflushed records trigger a flush of the log to flash. -/
  | logFlushTimer
  /-- RECOV_CHUNK (R494). A write of MgRecovChunk copies a staged chunk of a recovery container. -/
  | recovChunk (v : Word)
  /-- RECOV_DONE (R494). A write of MgRecovDone checks the recovery container and writes it. -/
  | recovDone (v : Word)
  /-- RECOV_HELLO (R495). A HELLO datagram opens a recovery session and is answered by INFO. -/
  | recovHello (sender : RecovPeer)
  /-- RECOV_DATA (R495). A DATA datagram stores a block in order and is acknowledged. -/
  | recovData (sender : RecovPeer) (block : Word) (data : List Byte)
  /-- RECOV_END (R495). An END datagram checks the container and is answered by RESULT. -/
  | recovEnd (sender : RecovPeer) (total : Word)
  /-- RECOV_SESSION_TIMEOUT (R495). 10 s without a datagram ends the recovery session. -/
  | recovSessionTimeout
  /-- DARDER_IDCODE (R507). Darder command IDCODE returns the identity and lock state. -/
  | darderIdcode (q : DarderReq)
  /-- DARDER_CHALLENGE (R507). Darder command CHALLENGE issues a fresh challenge and ends any session. -/
  | darderChallenge (q : DarderReq)
  /-- DARDER_UNLOCK (R508). Darder command UNLOCK takes token bytes and checks a complete token. -/
  | darderUnlock (q : DarderReq)
  /-- DARDER_HALT (R509). Darder command HALT stops every thread of an engine or core. -/
  | darderHalt (q : DarderReq)
  /-- DARDER_RESUME (R507). Darder command RESUME restarts a halted engine or core. -/
  | darderResume (q : DarderReq)
  /-- DARDER_STEP (R507). Darder command STEP runs one instruction of a halted thread. -/
  | darderStep (q : DarderReq) (ecc : Ecc)
  /-- DARDER_BKPT (R507). Darder command BKPT sets a breakpoint. -/
  | darderBkpt (q : DarderReq)
  /-- DARDER_WATCH (R507). Darder command WATCH sets a watchpoint. -/
  | darderWatch (q : DarderReq)
  /-- DARDER_REGR (R507). Darder command REGR reads a register of a halted target. -/
  | darderRegr (q : DarderReq)
  /-- DARDER_REGW (R507). Darder command REGW writes a register of a halted target. -/
  | darderRegw (q : DarderReq)
  /-- DARDER_MEMR (R507). Darder command MEMR reads target memory or the register space. -/
  | darderMemr (q : DarderReq) (ecc : Ecc)
  /-- DARDER_MEMW (R507). Darder command MEMW writes target memory or the register space. -/
  | darderMemw (q : DarderReq)
  /-- DARDER_RESET (R507). Darder command RESET resets the device. -/
  | darderReset (q : DarderReq)
  /-- DARDER_RECOVER (R496). Darder command RECOVER checks a recovery container staged in SRAM. -/
  | darderRecover (q : DarderReq)
  /-- DARDER_STATUS (R507). Darder command STATUS returns halt state, lock state and grants. -/
  | darderStatus (q : DarderReq)
  /-- DARDER_LINK_RESET (R505). 64 DCK edges with DIO high reset the link and end any unlock session. -/
  | darderLinkReset
  /-- DEBUG_BREAKPOINT_HIT (R507). A breakpoint matches and halts the engine. -/
  | debugBreakpointHit (h : Hart) (i : Fin 4)
  /-- DEBUG_WATCHPOINT_HIT (R507). A watchpoint matches an access and halts the engine. -/
  | debugWatchpointHit (h : Hart) (i : Fin 2)
  /-- PWR_GOOD_RISE (R515). PWR_GOOD rises, so the straps are sampled and boot begins. -/
  | pwrGoodRise (straps : Straps) (vio33 : BitVec 9)
  /-- PWR_GOOD_FALL (R516). PWR_GOOD low holds the logic side in reset. -/
  | pwrGoodFall
  /-- RESET_N_PULSE (R516). RESET_N held low for at least 1 µs resets the logic side. -/
  | resetNPulse (straps : Straps)
  /-- SUPPLY_OUT_OF_RANGE (R517). A logic supply leaves its range before PWR_GOOD falls, so the logic side resets at once. -/
  | supplyOutOfRange
  /-- AOC_POWER_RESET (R515). VBAT_BW falls below 3.8 V and the always-on controller resets. -/
  | aocPowerReset
  /-- POWER_DIE_RESET (R515). A die's VBAT falls below 4.0 V, so it resets with every output off. -/
  | powerDieReset (p : Fin 3)
  /-- BL_MESSAGE_RECEIVED (R519). A barrier link message arrives, is checked and acknowledged, and its content delivered. -/
  | blMessageReceived (n : Fin 4) (x : BlMessage) (acks : Fin 17)
  /-- BL_RESEND_TIMEOUT (R519). A message has had no acknowledgement for 2 µs, so it is resent, or lost after four attempts. -/
  | blResendTimeout (n : Fin 4)
  /-- BL_HEARTBEAT_DUE (R519). 10 µs without a message sends a heartbeat. -/
  | blHeartbeatDue (n : Fin 4)
  /-- BL_LINK_LOST (R520). No valid message for 50 µs, so the link is declared lost and class LINK is raised. -/
  | blLinkLost (n : Fin 4)
  /-- BL_LINK_UP (R520). The link retrains and is up again. -/
  | blLinkUp (n : Fin 4)
  /-- PGND_LOSS (R531). Loss of PGND turns every output off within 100 µs. -/
  | pgndLoss
  /-- WAKE_INPUT_INACTIVE (R417). A filtered WAKE input leaves its active level, clearing BwWinStatus.LEVEL and ending a stuck
  mask by itself. -/
  | wakeInputInactive (i : Fin 8)
  /-- REFCLK_RESTORED (R461). Edges of the 25 MHz reference return, ending the level condition of fault class REFCLK. -/
  | refclkRestored
  /-- POWER_DIE_LEAVES_RESET (R515). A power die's VBAT rises above 4.5 V and the die leaves reset with every output off. -/
  | powerDieLeavesReset (p : Fin 3)
  /-- PCS_LINK_CONDITION_CHANGE (R259). PCS block lock, a local or remote fault sequence, or autonegotiation link status
  changes, updating EthLinkStatus and starting the LOSS_US or UP_MS timing. -/
  | pcsLinkConditionChange (p : Fin 20) (lock lf rf an : Bool)
  /-- PLCA_BEACON_RETURN (R291). Beacons resume for a PLCA follower, so PLCA_OK returns to 1. -/
  | plcaBeaconReturn (p : Fin 20)
  /-- LPI_RX_CHANGE (R264). The link partner enters or leaves low-power idle, setting or clearing LPI_RX and counting
  EthRxLpiEnter and EthRxLpiUs. -/
  | lpiRxChange (p : Fin 20) (on : Bool) (us : Word)
  deriving DecidableEq, Repr

end Sys2Proof
end

