-- ==== Sys2Proof/Machine/Sparse.lean ====
section
/-! DEFINITION. A sparse array: a list of (index, value) pairs with the indices strictly rising and no entry equal to what an
unlisted index reads as. Every array of the machine is one of these, so that equal arrays are equal lists. -/
namespace Sys2Proof.Machine

abbrev Sparse (α : Type) := List (Nat × α)

namespace Sparse

/-- The value at index `k`; `d` is what unlisted indices read as. -/
def get {α : Type} (d : Nat → α) : Sparse α → Nat → α
  | [], k => d k
  | (j, v) :: m, k => if j = k then v else get d m k

/-- The list without index `k`. -/
def erase {α : Type} (k : Nat) : Sparse α → Sparse α
  | [] => []
  | (j, v) :: m => if j = k then erase k m else (j, v) :: erase k m

/-- The list with `(k, v)` placed before the first larger index. -/
def insert {α : Type} (k : Nat) (v : α) : Sparse α → Sparse α
  | [] => [(k, v)]
  | (j, w) :: m => if k < j then (k, v) :: (j, w) :: m else (j, w) :: insert k v m

/-- Writing `v` at `k`; writing what an unlisted index reads as removes the entry. -/
def set {α : Type} [DecidableEq α] (d : Nat → α) (m : Sparse α) (k : Nat) (v : α) : Sparse α :=
  if v = d k then erase k m else insert k v (erase k m)

/-- Replacing the value at `k` by a function of it. -/
def upd {α : Type} [DecidableEq α] (d : Nat → α) (m : Sparse α) (k : Nat) (f : α → α) : Sparse α :=
  set d m k (f (get d m k))

/-- The canonical form: indices strictly rising, no entry equal to what an unlisted index reads as. -/
def wf {α : Type} [DecidableEq α] (d : Nat → α) : Sparse α → Bool
  | [] => true
  | (k, v) :: m => decide (v ≠ d k) && m.all (fun e => decide (k < e.1)) && wf d m

end Sparse

end Sys2Proof.Machine
end

