-- ==== Sys2Proof/Machine/Bytes.lean ====
section
/-! DEFINITION. Byte order and byte lists (R19): numbers in little-endian and network order, and slices that read 0 beyond the
end. -/
namespace Sys2Proof.Machine

/-- The byte of value `v mod 256`. -/
def byteOf (v : Nat) : Byte := BitVec.ofNat 8 v

/-- The `n` low bytes of `v`, least significant first. -/
def leBytes : Nat → Nat → List Byte
  | 0, _ => []
  | n + 1, v => byteOf v :: leBytes n (v / 256)

/-- The `n` low bytes of `v`, most significant first. -/
def beBytes (n v : Nat) : List Byte := (leBytes n v).reverse

/-- The number whose bytes, least significant first, are `bs`. -/
def leNat : List Byte → Nat
  | [] => 0
  | b :: bs => b.toNat + 256 * leNat bs

/-- The number whose bytes, most significant first, are `bs`. -/
def beNat (bs : List Byte) : Nat := leNat bs.reverse

/-- `n` bytes from offset `o`, with 0 beyond the end. -/
def slice (bs : List Byte) (o n : Nat) : List Byte :=
  let x := (bs.drop o).take n
  x ++ List.replicate (n - x.length) 0

/-- The big-endian number in the `n` bytes at offset `o`. -/
def beAt (bs : List Byte) (o n : Nat) : Nat := beNat (slice bs o n)

/-- The little-endian number in the `n` bytes at offset `o`. -/
def leAt (bs : List Byte) (o n : Nat) : Nat := leNat (slice bs o n)

/-- The bytes with those from offset `o` on replaced by `v`, the list lengthened with 0 where it must be. -/
def splice (bs : List Byte) (o : Nat) (v : List Byte) : List Byte :=
  slice bs 0 o ++ v ++ bs.drop (o + v.length)

/-- ceil(a / b). -/
def cdiv (a b : Nat) : Nat := (a + b - 1) / b

/-- Reading `n` bytes of a sparse byte memory. -/
def memGet (m : Sparse Byte) (a n : Nat) : List Byte :=
  (List.range n).map fun i => Sparse.get (fun _ => 0) m (a + i)

/-- Writing bytes into a sparse byte memory. -/
def memSet (m : Sparse Byte) (a : Nat) (bs : List Byte) : Sparse Byte :=
  (List.zip (List.range bs.length) bs).foldl (fun m e => Sparse.set (fun _ => 0) m (a + e.1) e.2) m

/-- Bit `i` of a number. -/
def bitAt (i v : Nat) : Bool := v / 2 ^ i % 2 == 1

/-! ### CRCs (R135) -/

/-- A CRC of R135: width, polynomial (already reflected when `refl`). -/
structure CrcKind where
  w : Nat
  poly : Nat
  refl : Bool
  deriving DecidableEq, Repr

def crc8 : CrcKind := ⟨8, 0x1D, false⟩
def crc8h : CrcKind := ⟨8, 0x2F, false⟩
def crc16 : CrcKind := ⟨16, 0x1021, false⟩
def crc32 : CrcKind := ⟨32, 0xEDB88320, true⟩
def crc32c : CrcKind := ⟨32, 0x82F63B78, true⟩
def crc32p4 : CrcKind := ⟨32, 0xC8DF352F, true⟩

/-- One bit of a CRC. -/
def crcBit (k : CrcKind) (r : Nat) : Nat :=
  if k.refl then (if r % 2 = 1 then r / 2 ^^^ k.poly else r / 2)
  else (if bitAt (k.w - 1) r then 2 * r ^^^ k.poly else 2 * r) % 2 ^ k.w

/-- One byte of a CRC. -/
def crcByte (k : CrcKind) (r : Nat) (b : Byte) : Nat :=
  (List.range 8).foldl (fun r _ => crcBit k r) (if k.refl then r ^^^ b.toNat else r ^^^ b.toNat * 2 ^ (k.w - 8))

/-- A CRC register after a byte range. -/
def crcRange (k : CrcKind) (r : Nat) (bs : List Byte) : Nat := bs.foldl (crcByte k) (r % 2 ^ k.w)

/-- CRC-32 of R135 with its usual initial value and final XOR (R485). -/
def crc32Of (bs : List Byte) : Nat := crcRange crc32 (2 ^ 32 - 1) bs ^^^ (2 ^ 32 - 1)

/-- Bytes with their CRC-32 after them, least significant byte first, and the check of such bytes. -/
def withCrc (bs : List Byte) : List Byte := bs ++ leBytes 4 (crc32Of bs)
def crcGood (bs : List Byte) : Bool := leAt bs (bs.length - 4) 4 == crc32Of (bs.take (bs.length - 4))

end Sys2Proof.Machine
end

