-- ==== Sys2Proof/Machine/Aes.lean ====
section
/-! DEFINITION. The block cipher AES under keys of 128, 192 and 256 bits (FIPS 197), which the cores run, and what the key store
builds from it: CMAC (SP 800-38B), the KDF of R371 and AES-KWP (SP 800-38F). Blocks are lists of 16 bytes. -/
namespace Sys2Proof.Machine

/-- Multiplication by x in GF(2^8). -/
def gfX (a : Nat) : Nat := 2 * a ^^^ a / 128 * 0x11B

/-- The product in GF(2^8), over the `n` low bits of the second factor. -/
def gfMulBits : Nat → Nat → Nat → Nat
  | 0, _, _ => 0
  | n + 1, a, b => b % 2 * a ^^^ gfMulBits n (gfX a) (b / 2)

/-- Byte `a` of a table of 16 rows of 16 bytes, the first byte of a row in its high bits. -/
def tableByte (t : List Nat) (a : Nat) : Nat := t.getD (a / 16) 0 / 2 ^ (8 * (15 - a % 16)) % 256

/-- SubBytes of one byte, and its inverse (FIPS 197, figures 7 and 14). -/
def sbox (a : Nat) : Nat :=
  tableByte [
    0x637C777BF26B6FC53001672BFED7AB76, 0xCA82C97DFA5947F0ADD4A2AF9CA472C0,
    0xB7FD9326363FF7CC34A5E5F171D83115, 0x04C723C31896059A071280E2EB27B275,
    0x09832C1A1B6E5AA0523BD6B329E32F84, 0x53D100ED20FCB15B6ACBBE394A4C58CF,
    0xD0EFAAFB434D338545F9027F503C9FA8, 0x51A3408F929D38F5BCB6DA2110FFF3D2,
    0xCD0C13EC5F974417C4A77E3D645D1973, 0x60814FDC222A908846EEB814DE5E0BDB,
    0xE0323A0A4906245CC2D3AC629195E479, 0xE7C8376D8DD54EA96C56F4EA657AAE08,
    0xBA78252E1CA6B4C6E8DD741F4BBD8B8A, 0x703EB5664803F60E613557B986C11D9E,
    0xE1F8981169D98E949B1E87E9CE5528DF, 0x8CA1890DBFE6426841992D0FB054BB16] a

def sboxInv (a : Nat) : Nat :=
  tableByte [
    0x52096AD53036A538BF40A39E81F3D7FB, 0x7CE339829B2FFF87348E4344C4DEE9CB,
    0x547B9432A6C2233DEE4C950B42FAC34E, 0x082EA16628D924B2765BA2496D8BD125,
    0x72F8F66486689816D4A45CCC5D65B692, 0x6C704850FDEDB9DA5E154657A78D9D84,
    0x90D8AB008CBCD30AF7E45805B8B34506, 0xD02C1E8FCA3F0F02C1AFBD0301138A6B,
    0x3A9111414F67DCEA97F2CFCEF0B4E673, 0x96AC7422E7AD3585E2F937E81C75DF6E,
    0x47F11A711D29C5896FB7620EAA18BE1B, 0xFC563E4BC6D279209ADBC0FE78CD5AF4,
    0x1FDDA8338807C731B11210592780EC5F, 0x60517FA919B54A0D2DE57A9F93C99CEF,
    0xA0E03B4DAE2AF5B0C8EBBB3C83539961, 0x172B047EBA77D626E169146355210C7D] a

/-- The round constant of step `n`, counted from 1. -/
def aesRcon : Nat → Nat
  | 0 => 0
  | 1 => 1
  | n + 2 => gfX (aesRcon (n + 1))

/-- The next word of a key schedule, from word `i - nk`, word `i - 1`. -/
def aesWord (nk i : Nat) (back prev : List Nat) : List Nat :=
  let t :=
    if i % nk = 0 then
      match (prev.drop 1 ++ prev.take 1).map sbox with
      | x :: xs => (x ^^^ aesRcon (i / nk)) :: xs
      | [] => []
    else if 6 < nk ∧ i % nk = 4 then prev.map sbox
    else prev
  List.zipWith (· ^^^ ·) back t

/-- `n` more words of a key schedule; `ws` holds the words so far, newest first. -/
def aesExpand (nk : Nat) : Nat → Nat → List (List Nat) → List (List Nat)
  | 0, _, ws => ws
  | n + 1, i, ws => aesExpand nk n (i + 1) (aesWord nk i (ws.getD (nk - 1) []) (ws.headD []) :: ws)

/-- The round keys of a key of 16, 24 or 32 bytes, each 16 bytes. -/
def aesKeys (key : List Nat) : List (List Nat) :=
  let nk := key.length / 4
  let first := (List.range nk).map fun k => (key.drop (4 * k)).take 4
  let ws := (aesExpand nk (4 * (nk + 7) - nk) nk first.reverse).reverse
  (List.range (nk + 7)).map fun r => ((ws.drop (4 * r)).take 4).flatten

def xorBytes (a b : List Nat) : List Nat := List.zipWith (· ^^^ ·) a b

/-- ShiftRows, rows shifted left by `k` times their number modulo 4. -/
def aesShift (k : Nat) (s : List Nat) : List Nat :=
  (List.range 16).map fun i => s.getD (4 * ((i / 4 + k * (i % 4)) % 4) + i % 4) 0

/-- MixColumns with the first row of its matrix. -/
def aesMix (m : List Nat) (s : List Nat) : List Nat :=
  (List.range 16).map fun i =>
    (List.range 4).foldl (fun a j => a ^^^ gfMulBits 4 (s.getD (i / 4 * 4 + j) 0) (m.getD ((j + 4 - i % 4) % 4) 0)) 0

/-- The rounds of encryption over the remaining round keys. -/
def aesRounds : List (List Nat) → List Nat → List Nat
  | [], s => s
  | [k], s => xorBytes (aesShift 1 (s.map sbox)) k
  | k :: ks, s => aesRounds ks (xorBytes (aesMix [2, 3, 1, 1] (aesShift 1 (s.map sbox))) k)

/-- The rounds of decryption over the remaining round keys. -/
def aesUnrounds : List (List Nat) → List Nat → List Nat
  | [], s => s
  | [k], s => xorBytes ((aesShift 3 s).map sboxInv) k
  | k :: ks, s => aesUnrounds ks (aesMix [14, 11, 13, 9] (xorBytes ((aesShift 3 s).map sboxInv) k))

/-- (PRESUMED: assumption 7) -/
def aesEncrypt (key block : List Nat) : List Nat :=
  match aesKeys key with
  | [] => block
  | k :: ks => aesRounds ks (xorBytes block k)

/-- (PRESUMED: assumption 7) -/
def aesDecrypt (key block : List Nat) : List Nat :=
  match (aesKeys key).reverse with
  | [] => block
  | k :: ks => aesUnrounds ks (xorBytes block k)

/-! ### Numbers and bytes -/

/-- `n` bytes of a number, most significant first, and back. -/
def beOctets (n v : Nat) : List Nat := (beBytes n v).map BitVec.toNat
def ofOctets (b : List Nat) : Nat := b.foldl (fun a x => a * 256 + x % 256) 0

/-! ### CMAC -/

/-- Doubling in GF(2^128). -/
def dbl128 (x : Nat) : Nat := if x < 2 ^ 127 then 2 * x else (2 * x - 2 ^ 128) ^^^ 0x87

/-- The chain of CMAC over the blocks after the first argument's state; the last block is masked with a subkey. -/
def cmacChain (key : List Nat) (k1 k2 : Nat) : Nat → List Nat → List Nat → List Nat
  | 0, acc, _ => acc
  | n + 1, acc, m =>
    if m.length ≤ 16 then
      let last := if m.length = 16 then xorBytes m (beOctets 16 k1)
        else xorBytes (m ++ 0x80 :: List.replicate (15 - m.length) 0) (beOctets 16 k2)
      aesEncrypt key (xorBytes acc last)
    else cmacChain key k1 k2 n (aesEncrypt key (xorBytes acc (m.take 16))) (m.drop 16)

/-- (PRESUMED: assumption 7) -/
def cmac (key m : List Nat) : List Nat :=
  let l := ofOctets (aesEncrypt key (List.replicate 16 0))
  cmacChain key (dbl128 l) (dbl128 (dbl128 l)) (m.length / 16 + 1) (List.replicate 16 0) m

/-- The first `l` bits of KDF(key, label, context, l), `l` a multiple of 8 (R371). (PRESUMED: assumption 7) -/
def kdf (key label context : List Nat) (l : Nat) : List Nat :=
  ((List.range (cdiv l 128)).flatMap fun i =>
    cmac key (beOctets 4 (i + 1) ++ label ++ 0 :: context ++ beOctets 4 l)).take (l / 8)

/-- The ASCII bytes of a label. -/
def ascii (s : String) : List Nat := s.toList.map Char.toNat

/-! ### AES-KWP -/

/-- One wrapping step on the register A and the semiblocks: block `i` of pass count `t`. -/
def kwStep (key : List Nat) (t : Nat) (a r : List Nat) : List Nat × List Nat :=
  let b := aesEncrypt key (a ++ r)
  (xorBytes (b.take 8) (beOctets 8 t), b.drop 8)

/-- A pass over the semiblocks; `t` counts the steps. -/
def kwPass (key : List Nat) : Nat → List Nat → List (List Nat) → List Nat × List (List Nat)
  | _, a, [] => (a, [])
  | t, a, r :: rs =>
    let (a, r) := kwStep key t a r
    let (a, rs) := kwPass key (t + 1) a rs
    (a, r :: rs)

/-- The inverse pass, over the semiblocks from the last. -/
def kwUnpass (key : List Nat) : Nat → List Nat → List (List Nat) → List Nat × List (List Nat)
  | _, a, [] => (a, [])
  | t, a, r :: rs =>
    let b := aesDecrypt key (xorBytes a (beOctets 8 t) ++ r)
    let (a, rs) := kwUnpass key (t - 1) (b.take 8) rs
    (a, b.drop 8 :: rs)

/-- The bytes of a list in groups of 8. -/
def semiblocks (b : List Nat) : List (List Nat) := (List.range (b.length / 8)).map fun k => (b.drop (8 * k)).take 8

/-- AES-KWP of at least 9 bytes. (PRESUMED: assumption 7) -/
def kwpWrap (key p : List Nat) : List Nat :=
  let padded := p ++ List.replicate ((8 - p.length % 8) % 8) 0
  let rs := semiblocks padded
  let a := beOctets 4 0xA65959A6 ++ beOctets 4 p.length
  let out := (List.range 6).foldl (fun (x : List Nat × List (List Nat)) j => kwPass key (j * rs.length + 1) x.1 x.2) (a, rs)
  out.1 ++ out.2.flatten

/-- Unwrapping, `none` where the check fails. (PRESUMED: assumption 7) -/
def kwpUnwrap (key c : List Nat) : Option (List Nat) :=
  let n := c.length / 8 - 1
  if c.length % 8 ≠ 0 ∨ n < 2 then none
  else
    let start := (c.take 8, (semiblocks (c.drop 8)).reverse)
    let out := (List.range 6).foldl (fun (x : List Nat × List (List Nat)) j => kwUnpass key ((6 - j) * n) x.1 x.2) start
    let p := out.2.reverse.flatten
    let mli := ofOctets (out.1.drop 4)
    if ofOctets (out.1.take 4) = 0xA65959A6 ∧ 8 * (n - 1) < mli ∧ mli ≤ 8 * n ∧ (p.drop mli).all (· == 0) then some (p.take mli)
    else none

end Sys2Proof.Machine
end

