-- ==== Sys2Proof/Config.lean ====
section
/-! DEFINITION. The constants the spec leaves open: none has a body, so nothing can be proved of its value. -/
namespace Sys2Proof

/-- The free value of width `w` that the `n`-th reading of an open value gives: any value at all. -/
opaque Config.freeValue (w n : Nat) : BitVec w

/-- Whether a domain may send to a port from its transmit rings (status PERMISSION of R249): the spec names the status and
no rule for it. -/
opaque Config.maySend (dom port : Nat) : Bool

/-- The digests of key sets 0 and 1 that the ROM holds (R481). -/
opaque Config.romDigest : Nat → Nat

/-- The public keys of the key set with a digest, in ascending octets: a debug token carries no key (R508), and the spec does not
say where the device keeps them. Ed25519, and ML-DSA-65. -/
opaque Config.edKeyOf : Nat → List Nat
opaque Config.mlKeyOf : Nat → List Nat

/-- The version the mailbox command VERSION returns for the ROM, and the ROM's self-hash (R487, R500). -/
opaque Config.romVersion : Nat
opaque Config.romHash : Nat

/-- Whether LIFECYCLES of a container accepts a device in RETIRED: the spec names a bit for DEVELOP and for PRODUCTION only. -/
opaque Config.retiredAccepts : Nat → Bool

/-- The place of a management core's header in the page of the lockstep block: the address map lists the cores beneath that
block and gives them no offset (R49). -/
opaque Config.mcHeader : Nat → BitVec 16

/-- The ROM of the management cores, byte by byte (R113): the spec names it and not its contents. -/
opaque Config.romByte : Nat → Byte

end Sys2Proof
end

