-- ==== Sys2Proof/Machine/Sha.lean ====
section
/-! DEFINITION. The hash functions that R479, R482, R497 and R502 name: SHA-2 as FIPS 180-4 and SHA-3 and SHAKE as FIPS 202
define them (PRESUMED: the spec names the standards and does not repeat them). Messages and digests are lists of octets. -/
namespace Sys2Proof.Machine

/-- Rotating a `w`-bit word right. -/
def rotR (w n x : Nat) : Nat := (x / 2 ^ n + x % 2 ^ n * 2 ^ (w - n)) % 2 ^ w

/-- The greatest number that differs from `r` in its low `n` bits and whose `e`-th power is at most `v`, found bit by bit. -/
def rootBits (e v : Nat) : Nat → Nat → Nat
  | 0, r => r
  | n + 1, r => rootBits e v n (if (r + 2 ^ n) ^ e ≤ v then r + 2 ^ n else r)

/-- The first 64 bits of the fractional part of the `e`-th root of a number below 2^12, as FIPS 180-4 obtains its constants. -/
def rootFraction (e x : Nat) : Nat := rootBits e (x * 2 ^ (64 * e)) 70 0 % 2 ^ 64

/-- The first 80 primes. -/
def shaPrimes : List Nat :=
  (List.range 410).filter fun n => decide (2 ≤ n) && (List.range 19).all fun d => n == d + 2 || n % (d + 2) != 0

/-- The round constants of SHA-512 (section 4.2.3 of the standard), and of SHA-256: the upper halves of the first 64. -/
def sha512K : List Nat := shaPrimes.map (rootFraction 3)
def sha256K : List Nat := (sha512K.take 64).map (· / 2 ^ 32)

/-- The initial hash values (section 5.3 of the standard). -/
def sha512H : List Nat := (shaPrimes.take 8).map (rootFraction 2)
def sha256H : List Nat := sha512H.map (· / 2 ^ 32)

/-- What SHA-256 and SHA-512 differ in: word width, constants, initial value, and the amounts of their four sigma
functions. -/
structure Sha2 where
  w : Nat
  k : List Nat
  h : List Nat
  big0 : Nat × Nat × Nat
  big1 : Nat × Nat × Nat
  small0 : Nat × Nat × Nat
  small1 : Nat × Nat × Nat

def sha2Short : Sha2 := ⟨32, sha256K, sha256H, (2, 13, 22), (6, 11, 25), (7, 18, 3), (17, 19, 10)⟩
def sha2Long : Sha2 := ⟨64, sha512K, sha512H, (28, 34, 39), (14, 18, 41), (1, 8, 7), (19, 61, 6)⟩

/-- The upper-case sigma functions, and the lower-case ones, whose third amount is a shift. -/
def shaBig (w : Nat) (r : Nat × Nat × Nat) (x : Nat) : Nat := rotR w r.1 x ^^^ rotR w r.2.1 x ^^^ rotR w r.2.2 x
def shaSmall (w : Nat) (r : Nat × Nat × Nat) (x : Nat) : Nat := rotR w r.1 x ^^^ rotR w r.2.1 x ^^^ x / 2 ^ r.2.2

/-- Splitting a list into pieces of `n` elements. -/
def chunksOf {α : Type} (n : Nat) (l : List α) : List (List α) :=
  (List.range ((l.length + n - 1) / n)).map fun i => (l.drop (n * i)).take n

/-- Octets as a number, most significant first, and back. -/
def ofOctetsBe (b : List Nat) : Nat := b.foldl (fun a x => 256 * a + x) 0
def toOctetsBe (n v : Nat) : List Nat := (List.range n).map fun i => v / 256 ^ (n - 1 - i) % 256

/-- The message schedule, newest word first. -/
def shaSchedule (p : Sha2) (m : List Nat) : Nat → List Nat
  | 0 => m.reverse
  | n + 1 =>
    let ws := shaSchedule p m n
    let x := shaSmall p.w p.small1 (ws.getD 1 0) + ws.getD 6 0 + shaSmall p.w p.small0 (ws.getD 14 0) + ws.getD 15 0
    x % 2 ^ p.w :: ws

/-- Bit by bit: the second word where the first has a 1, else the third; and what most of the three words have. -/
def shaChoice (x y z : Nat) : Nat := z ^^^ x &&& (y ^^^ z)
def shaMajority (x y z : Nat) : Nat := x &&& y ||| z &&& (x ||| y)

/-- One round over the eight working variables: all move on by one place, the first and the fifth get a sum. -/
def shaRound (p : Sha2) (v : List Nat) (kw : Nat) : List Nat :=
  let at' (i : Nat) : Nat := v.getD i 0
  let s := at' 7 + kw + shaChoice (at' 4) (at' 5) (at' 6) + shaBig p.w p.big1 (at' 4)
  let r := s + shaMajority (at' 0) (at' 1) (at' 2) + shaBig p.w p.big0 (at' 0)
  (r :: v.take 3 ++ (at' 3 + s) :: (v.drop 4).take 3).map (· % 2 ^ p.w)

/-- One block. -/
def shaBlock (p : Sha2) (h : List Nat) (m : List Nat) : List Nat :=
  let ws := (shaSchedule p m (p.k.length - 16)).reverse
  let v := (List.zipWith (· + ·) p.k ws).foldl (shaRound p) h
  List.zipWith (fun x y => (x + y) % 2 ^ p.w) h v

/-- The digest of a message. -/
def sha2 (p : Sha2) (msg : List Nat) : List Nat :=
  let n := p.w / 8
  let block := 16 * n
  let zeros := (block - (msg.length + 1 + 2 * n) % block) % block
  let padded := msg ++ 128 :: List.replicate zeros 0 ++ toOctetsBe (2 * n) (8 * msg.length)
  let words (b : List Nat) : List Nat := (chunksOf n b).map ofOctetsBe
  ((chunksOf block padded).foldl (fun h b => shaBlock p h (words b)) p.h).flatMap (toOctetsBe n)

/-- (PRESUMED: assumption 7) -/
def sha256 (msg : List Nat) : List Nat := sha2 sha2Short msg
/-- (PRESUMED: assumption 7) -/
def sha512 (msg : List Nat) : List Nat := sha2 sha2Long msg

/-- The round constants of Keccak-f[1600]. -/
def keccakRC : List Nat :=
  [0x0000000000000001, 0x0000000000008082, 0x800000000000808a, 0x8000000080008000,
   0x000000000000808b, 0x0000000080000001, 0x8000000080008081, 0x8000000000008009] ++
  [0x000000000000008a, 0x0000000000000088, 0x0000000080008009, 0x000000008000000a,
   0x000000008000808b, 0x800000000000008b, 0x8000000000008089, 0x8000000000008003] ++
  [0x8000000000008002, 0x8000000000000080, 0x000000000000800a, 0x800000008000000a,
   0x8000000080008081, 0x8000000000008080, 0x0000000080000001, 0x8000000080008008]

/-- The rotation amounts of lane x + 5y. -/
def keccakRot : List Nat :=
  [0, 1, 62, 28, 27, 36, 44, 6, 55, 20, 3, 10, 43,
   25, 39, 41, 45, 15, 21, 8, 18, 2, 61, 56, 14]

/-- Rotating a lane left. -/
def rotL (n x : Nat) : Nat := rotR 64 ((64 - n) % 64) x

/-- One round of Keccak-f[1600] over 25 lanes. -/
def keccakRound (a : List Nat) (rc : Nat) : List Nat :=
  let at' (l : List Nat) (i : Nat) : Nat := l.getD i 0
  let c := (List.range 5).map fun x => at' a x ^^^ at' a (x + 5) ^^^ at' a (x + 10) ^^^ at' a (x + 15) ^^^ at' a (x + 20)
  let d := (List.range 5).map fun x => at' c ((x + 4) % 5) ^^^ rotL 1 (at' c ((x + 1) % 5))
  let t := (List.range 25).map fun i => rotL (keccakRot.getD i 0) (at' a i ^^^ at' d (i % 5))
  -- lane (x, y) of the permuted state is lane (x + 3y, x) of the one before
  let b := (List.range 25).map fun i => at' t ((i % 5 + 3 * (i / 5)) % 5 + 5 * (i % 5))
  let e := (List.range 25).map fun i =>
    at' b i ^^^ ((2 ^ 64 - 1 - at' b ((i % 5 + 1) % 5 + 5 * (i / 5))) &&& at' b ((i % 5 + 2) % 5 + 5 * (i / 5)))
  (at' e 0 ^^^ rc) :: e.drop 1

def keccakF (a : List Nat) : List Nat := keccakRC.foldl keccakRound a

/-- The octets of a state, and those that `n` blocks of `rate` octets squeeze out of it. -/
def keccakOut (s : List Nat) : List Nat := s.flatMap fun l => (toOctetsBe 8 l).reverse
def keccakSqueeze (rate : Nat) : Nat → List Nat → List Nat
  | 0, _ => []
  | n + 1, s => (keccakOut s).take rate ++ keccakSqueeze rate n (keccakF s)

/-- A sponge with a rate in octets and a domain suffix. (PRESUMED: assumption 7) -/
def keccak (rate suffix out : Nat) (msg : List Nat) : List Nat :=
  let q := rate - msg.length % rate
  let pad := if q = 1 then [suffix + 128] else suffix :: List.replicate (q - 2) 0 ++ [128]
  let absorb (s : List Nat) (b : List Nat) : List Nat :=
    let lanes := (chunksOf 8 b).map fun l => ofOctetsBe l.reverse
    keccakF ((List.range 25).map fun i => s.getD i 0 ^^^ lanes.getD i 0)
  let s := (chunksOf rate (msg ++ pad)).foldl absorb (List.replicate 25 0)
  (keccakSqueeze rate ((out + rate - 1) / rate) s).take out

/-- The digest of MgHashCtl.ALG (R479); codes 6 and 7 have none. (PRESUMED: assumption 7) -/
def hashAlg (alg : Nat) (msg : List Nat) : List Nat :=
  match alg with
  | 0 => sha256 msg
  | 1 => sha512 msg
  | 2 => keccak 136 6 32 msg
  | 3 => keccak 72 6 64 msg
  | 4 => keccak 168 31 64 msg
  | _ => keccak 136 31 64 msg

end Sys2Proof.Machine
end

