-- ==== Sys2Proof/Machine/RegMap.lean ====
section
/-! DEFINITION. The register map of the XZ9640: every register, counter and field of the spec's register tables with its
offset formula, its field bits, its access code (R25) and its reset value (R28). -/
namespace Sys2Proof.Machine

/-- The access codes of R25. -/
inductive Access where
  | ro | rw | w1c | w1s | wo | rwl
  deriving DecidableEq, Repr

/-- One named 32-bit register layout of the spec (R20, R29). The first ten are the unit header of R31. -/
inductive Reg where
  | unitId | unitState | unitCmd | unitCmdStatus | unitEpoch | unitTree | unitChild | unitQuiesceTmo
  | unitSnap | unitImage | idChip | idDirCount | idDirA | idDirB | idFeMap | idFeFree | idFeRetired | idAcMap
  | idAcFree | idAcRetired | idRowMap | epCur | epOldest | epCmd | epStatus | epCtl | epStageTmo
  | epCommitTmo | epSnapStatus | epStageEntryOff | epStageEntryData | epStageEntryMask | epStageEntryCtl
  | mdModeReq | mdModeStatus | mdVcoreBand | mdVcoreNow | mdAvsCtl | mdPace | mdPaceFloor | mdUmberRate
  | mdPaBudget | mdPaWait | mdPaCfg | mdPaLease | feIsa | feBudgetDef | feWaitTmo | feLoadSrc | feLoadCmd
  | feLoadStatus | feSetSel | feCsLayout | feSetSlotState | feSetSlotPlace | feSetSlotVersion
  | feSetSlotEpochs | feEngRole | feThrState | feHashSeed | feRecircCfg | feSlowCause | feOrderTmo
  | feKnownEt | feSlowQCfg | feSlowQRate | feSlowQDepth | feDispCfg | feDispPcp | clsSetMap | clsSetUse
  | clsRuleSel | clsRuleWin | tbCmd | tbCmdStatus | tbCmdArg | tbCmdCount | tbData | tbBgStatus | tbSeedCur
  | tbSeedNew | tbL2Cfg | tbL2Hold | tbV6Lens | tbL2PortCfg | tbL2PortDyn | tbCount | tbLpmBlocks | bqReserve
  | bqFree | bqMirrorCfg | bqMirrorSample | bqPortLimit | bqPortCfg | bqQLimit | bqQDeLimit | bqQMark
  | bqQResid | hrRxBaseLo | hrRxBaseHi | hrRxCfg | hrRxTail | hrRxHead | hrRxIrq | hrTxBaseLo | hrTxBaseHi
  | hrTxCfg | hrTxTail | hrTxHead | hrTxIrq | hrRxQ | ethMacCfg | ethIntf | ethLinkStatus | ethLinkCfg
  | ethPauseCfg | ethPauseState | ethStepCfg | ethStepUp | ethStepStatus | ethLpiCfg | ethTsCorr | ethPreempt
  | ethGateCfg | ethGateStatus | ethPlcaCfg | ethPlcaTmr | ethTxTsStat | ethTxTsSeq | ethTxTsInfo | ethTxTsLo
  | ethTxTsHi | ethTxTsPop | ethSched | ethCbs | ethGateAdminBase | ethGateOperBase | ethGateChange
  | ethGateAdminCycle | ethGateAdminExt | ethGateOperCycle | ethGateOperExt | ethGateOperLen | ethMacAddr
  | ethCntEvt | ethGateAdminListOp | ethGateAdminListInterval | ethGateOperListOp | ethGateOperListInterval
  | tbSgCfg | tbSgBase | tbSfBlocked | tbSgInvLatched | tbSgGclCtl | tbSgGclInterval | canCtl | canBtNom
  | canBtData | canBtXl | canTdc | canTdcXl | canXlPwm | canErr | canTxCfg | canTxPt | canTxStatus
  | canForeignLast | canSched | moWinSel | moWinKey | moWinCfg | moWinHdr | moWinForeign | moWinPub
  | moWinSeq | moWinAck | moWinTime | moWinData | moWinStage | linCfg | linSchedCtl | linSchedStatus
  | linSchedSel | linSchedEntry | linFrame | linData | tunCfg | tunTxStreamCtl | tunTxStreamAgg
  | tunTxStreamPtOff | tunTxStreamDaLo | tunTxStreamDaHi | tunTxStreamSeq | tunTxStreamId | tunTxBindKey
  | tunTxBindMask | tunTxBindDest | tunRxStreamCtl | tunRxStreamId | tunRxStreamPtAdj | tunRxStreamBus
  | tunRxStreamExp | tmLatchCmd | tmLatchRaw | tmLatchDom | tmConvIn | tmConvCmd | tmConvOut | tmDomArg
  | tmDomCmd | tmDomInc | tmTtStart | tmTtPeriod | tmTtTarget | tmTtCtl | tmCapCfg | tmCapStat | tmCapHead
  | tmCapPop | cxSvcCfg | cxPin | cxCoreCfg | cxPageCfg | cxCtxSel | cxCtxMode | cxCtxCmd | cxCtxAddrLo
  | cxCtxAddrHi | cxJobAad | cxJobCtl | cxJobQ | cxDonePop | cxKsCmd | cxKsStatus | cxCtxState | cxDone
  | cxKsData | cxJobSrcLo | cxJobSrcHi | cxJobLen | cxJobOut | cxKsAttr | ksRoot | ksKcv | ksMaskCfg
  | ksQuota | ksWrapGen | ksIdSeed | ksSlotAttr | ldCtl | ldCfg | ldGroups | ldWire | ldStatus | ldSense
  | ldGangSense | ldI2t | ldTemp | ldSenseTime | pdGang | pdLoc | pdStatus | pdVbat | pdAdmit | pdAgg
  | pdAggWarn | pdAdcSeq | pdAdcStat | pdProfile | bwSleepCmd | bwSleepStatus | bwWakeSrc | bwSleepCur
  | bwSegPorts | bwSegCfg | bwSegCmd | bwSegStatus | bwSegRoute | bwWinCfg | bwWinStorm | bwWinStuck
  | bwWinSeg | bwWinStatus | bwCanWake | bwSwfCfg | bwSwfId | bwSwfIdMask | bwSwfData | bwLinWake | bwT1sWake
  | hbEp | hbSubsys | hbFarCfg | hbDomBind | hbEthHostCfg | hbEthHostPeerLo | hbEthHostPeerHi | hbFarErrLatch
  | hbFarErrSeq | hbFarErrNext | hbAccErrRec | hbAccErrBytes | hbPerm | hbPermFine | lsDrain | lsPair
  | lsFaultCfg | lsFaultStatus | lsSepiaCtl | lsSepiaCfg | lsSepiaCause | lsSepiaPorts | lsSepiaTrig
  | lsSepiaTime | lsWdogCfg | lsWdogKick | lsThermCfg | monCfg | monBase | monScale | monPeriod | monCtl
  | monStat | monMin | monMax | monHigh | monLow | evSwRaise | evMcStatus | evPinStatus | evMcRoute
  | evPinRoute | evDetail | evDomStatus | evRoute | mgBootStatus | mgLifecycle | mgSerial | mgTemp | mgSupply
  | mgHashCtl | mgHashOut | mgKeySet | mgLogStatus | mgLogSeq | mgLogAppend | mgLogGo | mgHashSrc | mgHashLen
  | mgSlotState | mgSlotVerA | mgSlotVerB | mgSlotSvn | mgMboxCmd | mgMboxStatus | mgMboxAddrLo
  | mgMboxAddrHi | mgMboxLen | mgMboxArg | mgMboxData | mgRecovChunk | mgRecovDone | mgRecovStatus
  | mgRecovWin | dbgLink | dbgHalted | bwLinkStatus
  deriving DecidableEq, Repr

/-- One named 48-bit counter or gauge of the spec (R32). -/
inductive Ctr where
  | unitRejWr | unitLockRef | unitRefused | mdPaDeferred | mdPaDenied | mdPaReclaimed | feExc | feProgCnt
  | feEccCorr | feEngInstr | feEngJobs | feRecircIn | feRecircDrop | feOrderExpired | feDropRsn | feSlowIn
  | feSlowDrop | feDispIn | feDispDrop | feDispSlow | clsRuleHits | tbLearnNew | tbLearnMove | tbLearnFlap
  | tbLearnStale | tbLearnLocked | tbLearnStatic | tbLearnLimit | tbLearnOvf | tbLockOvf | tbAged | tbNoRoom
  | tbPortFlushed | tbEccCorr | tbEccUncorr | bqGlobalFull | bqEccCorr | bqEccUncorr | bqMirCopies
  | bqMirDrop | bqMirSkipped | bqPortCells | bqPortDownDrop | bqPortGlobalFull | bqPortNoCell | bqPortEccDrop
  | bqPortFifoReset | bqPortFlushes | bqQCells | bqQFrames | bqQEnq | bqQLimDrop | bqQDeDrop | bqQMarked
  | bqQResDrop | bqQFlush | bqQDeq | hrRxFrames | hrRxHoldDrop | hrRxQDrop | hrRxErr | hrTxFrames
  | hrTxDropped | hrTxErr | ethCnt | tbSgNotPass | tbSfMatch | tbSfOversize | tbMtrRed | tbSrCnt
  | canRxFrames | canRxFd | canRxXl | canTxFrames | canErrBit | canErrStuff | canErrForm | canErrCrc
  | canErrAck | canArbLost | canTxRetry | canTxRetryDrop | canTxBadFrame | canTxAbort | canBusOff
  | canForeign | canSchedLate | canPtLate | canRxOvw | moAckStale | moXlSkip | linTxFrames | linRxFrames
  | linNoResp | linChkErr | linBitErr | linSyncErr | linCollision | linSlotOverrun | tunTxPdus | tunTxMsgs
  | tunTxDrop | tunRxPdus | tunRxMsgs | tunRxSeqGap | tunRxBadAcf | tunRxSkipped | tunRxNoBus
  | tunXlReasmDrop | tmTtFired | tmTtSkipped | tmCapLost | cxCoreBlocks | cxJobsOk | cxJobsErr | ksStaleKey
  | ksKeyDenied | ksRemaskLate | ksEntropyFail | ldOnCnt | ldThermTrip | ldOcTrip | ldWireTrip | ldOpenLoad
  | ldDenied | pdAdcOverrun | pdLocCnt | bwSegDrop | bwSegHoldDrop | bwSegWakes | bwWinWakes | hbCoeReq
  | hbCoeBad | hbCoeReplay | hbDenyRd | hbDenyWr | hbBadSize | hbFarDiscard | lsSepiaDrop | lsDebugDiscard
  | monBin | mgLogLost | bwLinkCrcErr | bwLinkRetry | bwLinkFail | bwLinkDown
  deriving DecidableEq, Repr

/-- A field of a register: its register, high bit and low bit. -/
structure RField where
  reg : Reg
  hi : Nat
  lo : Nat
  deriving DecidableEq, Repr

/-- One row of a register's field table: bits, access code and reset value. (DESIGN CHOICE: assumption 1) -/
structure FieldRow where
  hi : Nat
  lo : Nat
  acc : Access
  rst : Nat
  deriving DecidableEq, Repr

/-- Where a layout lies: first offset, the (stride, count) of each index from outermost to innermost, and the flat
instance number of the first. -/
structure Place (ρ : Type) where
  what : ρ
  base : Nat
  dims : List (Nat × Nat)
  inst0 : Nat
  deriving DecidableEq, Repr

abbrev unitId_CLASS : RField := ⟨.unitId, 31, 24⟩
abbrev unitId_REV : RField := ⟨.unitId, 23, 16⟩
abbrev unitId_INSTANCE : RField := ⟨.unitId, 15, 0⟩
abbrev unitState_MODE : RField := ⟨.unitState, 17, 16⟩
abbrev unitState_FAULT_CAUSE : RField := ⟨.unitState, 15, 12⟩
abbrev unitState_SPARE_MAPPED : RField := ⟨.unitState, 11, 11⟩
abbrev unitState_MIXED : RField := ⟨.unitState, 10, 10⟩
abbrev unitState_DRAINING : RField := ⟨.unitState, 9, 9⟩
abbrev unitState_GROUP : RField := ⟨.unitState, 8, 8⟩
abbrev unitState_PREV_STATE : RField := ⟨.unitState, 6, 4⟩
abbrev unitState_STATE : RField := ⟨.unitState, 2, 0⟩
abbrev unitCmd_ARG : RField := ⟨.unitCmd, 31, 16⟩
abbrev unitCmd_TAG : RField := ⟨.unitCmd, 15, 8⟩
abbrev unitCmd_CMD : RField := ⟨.unitCmd, 3, 0⟩
abbrev unitCmdStatus_BUSY : RField := ⟨.unitCmdStatus, 31, 31⟩
abbrev unitCmdStatus_TAG : RField := ⟨.unitCmdStatus, 15, 8⟩
abbrev unitCmdStatus_RESULT : RField := ⟨.unitCmdStatus, 3, 0⟩
abbrev unitEpoch_STAGED_EPOCH : RField := ⟨.unitEpoch, 31, 16⟩
abbrev unitEpoch_APPLIED_EPOCH : RField := ⟨.unitEpoch, 15, 0⟩
abbrev unitTree_CHILD_COUNT : RField := ⟨.unitTree, 25, 16⟩
abbrev unitTree_PARENT : RField := ⟨.unitTree, 9, 0⟩
abbrev unitChild_FIRST_CHILD : RField := ⟨.unitChild, 9, 0⟩
abbrev unitQuiesceTmo_TMO_US : RField := ⟨.unitQuiesceTmo, 19, 0⟩
abbrev unitSnap_SNAP_VALID : RField := ⟨.unitSnap, 16, 16⟩
abbrev unitSnap_SNAP_ID : RField := ⟨.unitSnap, 15, 0⟩
abbrev unitImage_IMAGE_VERSION : RField := ⟨.unitImage, 31, 0⟩
abbrev idChip_PART : RField := ⟨.idChip, 31, 16⟩
abbrev idChip_STEPPING : RField := ⟨.idChip, 15, 8⟩
abbrev idDirCount_COUNT : RField := ⟨.idDirCount, 10, 0⟩
abbrev idDirA_CLASS : RField := ⟨.idDirA, 31, 24⟩
abbrev idDirA_HDR_OFFSET : RField := ⟨.idDirA, 23, 0⟩
abbrev idDirB_GROUP : RField := ⟨.idDirB, 13, 13⟩
abbrev idDirB_STATE : RField := ⟨.idDirB, 12, 10⟩
abbrev idDirB_PARENT : RField := ⟨.idDirB, 9, 0⟩
abbrev idFeMap_PHYS : RField := ⟨.idFeMap, 6, 0⟩
abbrev idFeFree_PE_BITS : RField := ⟨.idFeFree, 31, 0⟩
abbrev idFeRetired_PE_BITS : RField := ⟨.idFeRetired, 31, 0⟩
abbrev idAcMap_PHYS : RField := ⟨.idAcMap, 3, 0⟩
abbrev idAcFree_AP_BITS : RField := ⟨.idAcFree, 13, 0⟩
abbrev idAcRetired_AP_BITS : RField := ⟨.idAcRetired, 13, 0⟩
abbrev idRowMap_USED : RField := ⟨.idRowMap, 31, 31⟩
abbrev idRowMap_ROW : RField := ⟨.idRowMap, 9, 0⟩
abbrev epCur_LIVE_COUNT : RField := ⟨.epCur, 18, 16⟩
abbrev epCur_CURRENT : RField := ⟨.epCur, 15, 0⟩
abbrev epOldest_OLDEST_LIVE : RField := ⟨.epOldest, 15, 0⟩
abbrev epCmd_COUNT : RField := ⟨.epCmd, 26, 16⟩
abbrev epCmd_CMD : RField := ⟨.epCmd, 3, 0⟩
abbrev epStatus_BUSY : RField := ⟨.epStatus, 31, 31⟩
abbrev epStatus_FAIL_UNIT : RField := ⟨.epStatus, 25, 16⟩
abbrev epStatus_CAUSE : RField := ⟨.epStatus, 11, 8⟩
abbrev epStatus_HOLDER : RField := ⟨.epStatus, 7, 3⟩
abbrev epStatus_PHASE : RField := ⟨.epStatus, 2, 0⟩
abbrev epCtl_AUTO_COMMIT : RField := ⟨.epCtl, 0, 0⟩
abbrev epStageTmo_TMO_US : RField := ⟨.epStageTmo, 19, 0⟩
abbrev epCommitTmo_TMO_MS : RField := ⟨.epCommitTmo, 9, 0⟩
abbrev epSnapStatus_BUSY : RField := ⟨.epSnapStatus, 31, 31⟩
abbrev epSnapStatus_DONE : RField := ⟨.epSnapStatus, 16, 16⟩
abbrev epSnapStatus_SNAP_ID : RField := ⟨.epSnapStatus, 15, 0⟩
abbrev epStageEntryOff_OFFSET : RField := ⟨.epStageEntryOff, 23, 0⟩
abbrev epStageEntryData_DATA : RField := ⟨.epStageEntryData, 31, 0⟩
abbrev epStageEntryMask_MASK : RField := ⟨.epStageEntryMask, 31, 0⟩
abbrev epStageEntryCtl_CLASS : RField := ⟨.epStageEntryCtl, 31, 24⟩
abbrev epStageEntryCtl_WRITER : RField := ⟨.epStageEntryCtl, 13, 9⟩
abbrev epStageEntryCtl_EXPAND : RField := ⟨.epStageEntryCtl, 8, 8⟩
abbrev epStageEntryCtl_RESULT : RField := ⟨.epStageEntryCtl, 3, 0⟩
abbrev mdModeReq_MODE : RField := ⟨.mdModeReq, 1, 0⟩
abbrev mdModeStatus_LAST_RESULT : RField := ⟨.mdModeStatus, 11, 8⟩
abbrev mdModeStatus_GUAR_LOST : RField := ⟨.mdModeStatus, 5, 5⟩
abbrev mdModeStatus_CHANGING : RField := ⟨.mdModeStatus, 4, 4⟩
abbrev mdModeStatus_TARGET : RField := ⟨.mdModeStatus, 3, 2⟩
abbrev mdModeStatus_MODE : RField := ⟨.mdModeStatus, 1, 0⟩
abbrev mdVcoreBand_HIGH_MV : RField := ⟨.mdVcoreBand, 25, 16⟩
abbrev mdVcoreBand_LOW_MV : RField := ⟨.mdVcoreBand, 9, 0⟩
abbrev mdVcoreNow_MEAS_MV : RField := ⟨.mdVcoreNow, 25, 16⟩
abbrev mdVcoreNow_CMD_MV : RField := ⟨.mdVcoreNow, 9, 0⟩
abbrev mdAvsCtl_ADAPT : RField := ⟨.mdAvsCtl, 8, 8⟩
abbrev mdAvsCtl_ADDR : RField := ⟨.mdAvsCtl, 6, 0⟩
abbrev mdPace_MIN_SEEN : RField := ⟨.mdPace, 31, 16⟩
abbrev mdPace_PACE : RField := ⟨.mdPace, 15, 0⟩
abbrev mdPaceFloor_FLOOR : RField := ⟨.mdPaceFloor, 15, 0⟩
abbrev mdUmberRate_SUM : RField := ⟨.mdUmberRate, 15, 0⟩
abbrev mdPaBudget_IN_USE_MW : RField := ⟨.mdPaBudget, 31, 16⟩
abbrev mdPaBudget_BUDGET_MW : RField := ⟨.mdPaBudget, 15, 0⟩
abbrev mdPaWait_HEAD_MW : RField := ⟨.mdPaWait, 31, 16⟩
abbrev mdPaWait_DEPTH : RField := ⟨.mdPaWait, 6, 0⟩
abbrev mdPaCfg_BURST_BLOCKS : RField := ⟨.mdPaCfg, 31, 16⟩
abbrev mdPaCfg_MAX_WAIT_MS : RField := ⟨.mdPaCfg, 9, 0⟩
abbrev mdPaLease_LEASE_MS : RField := ⟨.mdPaLease, 15, 0⟩
abbrev feIsa_ISA_REV : RField := ⟨.feIsa, 15, 8⟩
abbrev feIsa_THREADS : RField := ⟨.feIsa, 7, 0⟩
abbrev feBudgetDef_INSTR : RField := ⟨.feBudgetDef, 14, 0⟩
abbrev feWaitTmo_TMO_US : RField := ⟨.feWaitTmo, 15, 0⟩
abbrev feLoadSrc_ADDR : RField := ⟨.feLoadSrc, 31, 6⟩
abbrev feLoadCmd_CLUSTERS : RField := ⟨.feLoadCmd, 15, 8⟩
abbrev feLoadCmd_SLOT : RField := ⟨.feLoadCmd, 5, 4⟩
abbrev feLoadCmd_CMD : RField := ⟨.feLoadCmd, 3, 0⟩
abbrev feLoadStatus_BUSY : RField := ⟨.feLoadStatus, 31, 31⟩
abbrev feLoadStatus_FAIL_CLUSTER : RField := ⟨.feLoadStatus, 14, 12⟩
abbrev feLoadStatus_SLOT : RField := ⟨.feLoadStatus, 9, 8⟩
abbrev feLoadStatus_RESULT : RField := ⟨.feLoadStatus, 3, 0⟩
abbrev feSetSel_SLOT : RField := ⟨.feSetSel, 1, 0⟩
abbrev feCsLayout_TAG : RField := ⟨.feCsLayout, 31, 0⟩
abbrev feSetSlotState_STATE : RField := ⟨.feSetSlotState, 18, 16⟩
abbrev feSetSlotState_SET_ID : RField := ⟨.feSetSlotState, 15, 0⟩
abbrev feSetSlotPlace_BASE_KIB : RField := ⟨.feSetSlotPlace, 23, 16⟩
abbrev feSetSlotPlace_SIZE_KIB : RField := ⟨.feSetSlotPlace, 8, 0⟩
abbrev feSetSlotVersion_VERSION : RField := ⟨.feSetSlotVersion, 31, 0⟩
abbrev feSetSlotEpochs_LAST_EPOCH : RField := ⟨.feSetSlotEpochs, 31, 16⟩
abbrev feSetSlotEpochs_FIRST_EPOCH : RField := ⟨.feSetSlotEpochs, 15, 0⟩
abbrev feEngRole_CRYPTO : RField := ⟨.feEngRole, 2, 2⟩
abbrev feEngRole_TRIGGER : RField := ⟨.feEngRole, 1, 1⟩
abbrev feEngRole_FRAME : RField := ⟨.feEngRole, 0, 0⟩
abbrev feThrState_THREADS : RField := ⟨.feThrState, 15, 0⟩
abbrev feHashSeed_SEED : RField := ⟨.feHashSeed, 31, 0⟩
abbrev feRecircCfg_LIMIT : RField := ⟨.feRecircCfg, 12, 0⟩
abbrev feSlowCause_EXC : RField := ⟨.feSlowCause, 11, 10⟩
abbrev feSlowCause_UNKNOWN_ET : RField := ⟨.feSlowCause, 9, 8⟩
abbrev feSlowCause_BEYOND : RField := ⟨.feSlowCause, 7, 6⟩
abbrev feSlowCause_IPV6_EXT : RField := ⟨.feSlowCause, 5, 4⟩
abbrev feSlowCause_OPT : RField := ⟨.feSlowCause, 3, 2⟩
abbrev feSlowCause_FRAG : RField := ⟨.feSlowCause, 1, 0⟩
abbrev feOrderTmo_TMO_US : RField := ⟨.feOrderTmo, 16, 0⟩
abbrev feKnownEt_VALID : RField := ⟨.feKnownEt, 16, 16⟩
abbrev feKnownEt_ETYPE : RField := ⟨.feKnownEt, 15, 0⟩
abbrev feSlowQCfg_ENABLE : RField := ⟨.feSlowQCfg, 31, 31⟩
abbrev feSlowQCfg_SERVER : RField := ⟨.feSlowQCfg, 30, 30⟩
abbrev feSlowQCfg_DOMAIN : RField := ⟨.feSlowQCfg, 27, 24⟩
abbrev feSlowQCfg_RING : RField := ⟨.feSlowQCfg, 23, 20⟩
abbrev feSlowQCfg_LIMIT : RField := ⟨.feSlowQCfg, 12, 0⟩
abbrev feSlowQRate_BURST : RField := ⟨.feSlowQRate, 31, 16⟩
abbrev feSlowQRate_RATE : RField := ⟨.feSlowQRate, 15, 0⟩
abbrev feSlowQDepth_DEPTH : RField := ⟨.feSlowQDepth, 12, 0⟩
abbrev feDispCfg_CLUSTERS : RField := ⟨.feDispCfg, 31, 24⟩
abbrev feDispCfg_SM_UNKNOWN_ET : RField := ⟨.feDispCfg, 20, 20⟩
abbrev feDispCfg_SM_BEYOND : RField := ⟨.feDispCfg, 19, 19⟩
abbrev feDispCfg_SM_IPV6_EXT : RField := ⟨.feDispCfg, 18, 18⟩
abbrev feDispCfg_SM_OPT : RField := ⟨.feDispCfg, 17, 17⟩
abbrev feDispCfg_SM_FRAG : RField := ⟨.feDispCfg, 16, 16⟩
abbrev feDispCfg_DEFAULT_CLASS : RField := ⟨.feDispCfg, 10, 8⟩
abbrev feDispCfg_USE_PCP : RField := ⟨.feDispCfg, 7, 7⟩
abbrev feDispPcp_MAP : RField := ⟨.feDispPcp, 23, 0⟩
abbrev clsSetMap_PSETS : RField := ⟨.clsSetMap, 31, 0⟩
abbrev clsSetUse_DRAINING : RField := ⟨.clsSetUse, 31, 16⟩
abbrev clsSetUse_LIVE : RField := ⟨.clsSetUse, 15, 0⟩
abbrev clsRuleSel_INDEX : RField := ⟨.clsRuleSel, 12, 0⟩
abbrev clsRuleWin_KEY : RField := ⟨.clsRuleWin, 31, 0⟩
abbrev clsRuleWin_MASK : RField := ⟨.clsRuleWin, 31, 0⟩
abbrev clsRuleWin_ACTION : RField := ⟨.clsRuleWin, 31, 0⟩
abbrev clsRuleWin_VALID : RField := ⟨.clsRuleWin, 31, 31⟩
abbrev clsRuleWin_PSET : RField := ⟨.clsRuleWin, 27, 24⟩
abbrev clsRuleWin_PRIORITY : RField := ⟨.clsRuleWin, 15, 0⟩
abbrev tbCmd_BUSY : RField := ⟨.tbCmd, 31, 31⟩
abbrev tbCmd_TABLE : RField := ⟨.tbCmd, 27, 24⟩
abbrev tbCmd_INDEX : RField := ⟨.tbCmd, 19, 4⟩
abbrev tbCmd_OP : RField := ⟨.tbCmd, 3, 0⟩
abbrev tbCmdStatus_TABLE : RField := ⟨.tbCmdStatus, 27, 24⟩
abbrev tbCmdStatus_LOCATION : RField := ⟨.tbCmdStatus, 23, 8⟩
abbrev tbCmdStatus_RESULT : RField := ⟨.tbCmdStatus, 3, 0⟩
abbrev tbCmdArg_HOLD : RField := ⟨.tbCmdArg, 25, 25⟩
abbrev tbCmdArg_ALT : RField := ⟨.tbCmdArg, 24, 24⟩
abbrev tbCmdArg_FLUSH_Q : RField := ⟨.tbCmdArg, 23, 23⟩
abbrev tbCmdArg_STATIC_TOO : RField := ⟨.tbCmdArg, 22, 22⟩
abbrev tbCmdArg_MATCH_FID : RField := ⟨.tbCmdArg, 21, 21⟩
abbrev tbCmdArg_MATCH_PORT : RField := ⟨.tbCmdArg, 20, 20⟩
abbrev tbCmdArg_FID : RField := ⟨.tbCmdArg, 19, 8⟩
abbrev tbCmdArg_PORT : RField := ⟨.tbCmdArg, 6, 0⟩
abbrev tbCmdCount_COUNT : RField := ⟨.tbCmdCount, 16, 0⟩
abbrev tbData_DATA : RField := ⟨.tbData, 31, 0⟩
abbrev tbBgStatus_BUSY : RField := ⟨.tbBgStatus, 31, 31⟩
abbrev tbBgStatus_OPEN : RField := ⟨.tbBgStatus, 30, 30⟩
abbrev tbBgStatus_FROZEN : RField := ⟨.tbBgStatus, 29, 29⟩
abbrev tbBgStatus_OP : RField := ⟨.tbBgStatus, 19, 16⟩
abbrev tbBgStatus_RESULT : RField := ⟨.tbBgStatus, 3, 0⟩
abbrev tbSeedCur_SEED : RField := ⟨.tbSeedCur, 31, 0⟩
abbrev tbSeedNew_SEED : RField := ⟨.tbSeedNew, 31, 0⟩
abbrev tbL2Cfg_SWEEP_S : RField := ⟨.tbL2Cfg, 31, 22⟩
abbrev tbL2Cfg_MAX_RELOC : RField := ⟨.tbL2Cfg, 21, 18⟩
abbrev tbL2Cfg_FLAP_WIN_US : RField := ⟨.tbL2Cfg, 14, 0⟩
abbrev tbL2Hold_FLAP_HOLD_MS : RField := ⟨.tbL2Hold, 15, 0⟩
abbrev tbV6Lens_LENS : RField := ⟨.tbV6Lens, 31, 0⟩
abbrev tbL2PortCfg_FLUSH_ON_DOWN : RField := ⟨.tbL2PortCfg, 17, 17⟩
abbrev tbL2PortCfg_LIMIT : RField := ⟨.tbL2PortCfg, 15, 0⟩
abbrev tbL2PortDyn_COUNT : RField := ⟨.tbL2PortDyn, 16, 0⟩
abbrev tbCount_VALID_ENTRIES : RField := ⟨.tbCount, 16, 0⟩
abbrev tbLpmBlocks_CAP : RField := ⟨.tbLpmBlocks, 31, 16⟩
abbrev tbLpmBlocks_USED : RField := ⟨.tbLpmBlocks, 15, 0⟩
abbrev bqReserve_RESERVE : RField := ⟨.bqReserve, 18, 0⟩
abbrev bqFree_FREE : RField := ⟨.bqFree, 18, 0⟩
abbrev bqMirrorCfg_ENABLE : RField := ⟨.bqMirrorCfg, 31, 31⟩
abbrev bqMirrorCfg_SRC_KIND : RField := ⟨.bqMirrorCfg, 29, 28⟩
abbrev bqMirrorCfg_DEST_HOST : RField := ⟨.bqMirrorCfg, 27, 27⟩
abbrev bqMirrorCfg_SRC_PORT : RField := ⟨.bqMirrorCfg, 26, 20⟩
abbrev bqMirrorCfg_DEST_PORT : RField := ⟨.bqMirrorCfg, 19, 13⟩
abbrev bqMirrorCfg_CLASS : RField := ⟨.bqMirrorCfg, 12, 10⟩
abbrev bqMirrorCfg_DOMAIN : RField := ⟨.bqMirrorCfg, 9, 6⟩
abbrev bqMirrorCfg_RING : RField := ⟨.bqMirrorCfg, 5, 2⟩
abbrev bqMirrorSample_SAMPLE_N : RField := ⟨.bqMirrorSample, 31, 16⟩
abbrev bqMirrorSample_TRUNC : RField := ⟨.bqMirrorSample, 13, 0⟩
abbrev bqPortLimit_LIMIT : RField := ⟨.bqPortLimit, 18, 0⟩
abbrev bqPortCfg_STATE : RField := ⟨.bqPortCfg, 9, 8⟩
abbrev bqPortCfg_ECN_EN : RField := ⟨.bqPortCfg, 7, 7⟩
abbrev bqPortCfg_LL_HOLD_MS : RField := ⟨.bqPortCfg, 6, 0⟩
abbrev bqQLimit_LIMIT : RField := ⟨.bqQLimit, 18, 0⟩
abbrev bqQDeLimit_DE_LIMIT : RField := ⟨.bqQDeLimit, 18, 0⟩
abbrev bqQMark_MARK : RField := ⟨.bqQMark, 18, 0⟩
abbrev bqQResid_MAX_RES_US : RField := ⟨.bqQResid, 16, 0⟩
abbrev hrRxBaseLo_ADDR : RField := ⟨.hrRxBaseLo, 31, 0⟩
abbrev hrRxBaseHi_ADDR : RField := ⟨.hrRxBaseHi, 31, 0⟩
abbrev hrRxCfg_ENABLE : RField := ⟨.hrRxCfg, 31, 31⟩
abbrev hrRxCfg_BUF_SIZE : RField := ⟨.hrRxCfg, 25, 24⟩
abbrev hrRxCfg_SIZE_LOG2 : RField := ⟨.hrRxCfg, 23, 20⟩
abbrev hrRxCfg_VECTOR : RField := ⟨.hrRxCfg, 19, 14⟩
abbrev hrRxCfg_HOLD_US : RField := ⟨.hrRxCfg, 13, 0⟩
abbrev hrRxTail_TAIL : RField := ⟨.hrRxTail, 15, 0⟩
abbrev hrRxHead_HEAD : RField := ⟨.hrRxHead, 15, 0⟩
abbrev hrRxIrq_TIME_US : RField := ⟨.hrRxIrq, 31, 16⟩
abbrev hrRxIrq_COUNT : RField := ⟨.hrRxIrq, 15, 0⟩
abbrev hrTxBaseLo_ADDR : RField := ⟨.hrTxBaseLo, 31, 0⟩
abbrev hrTxBaseHi_ADDR : RField := ⟨.hrTxBaseHi, 31, 0⟩
abbrev hrTxCfg_ENABLE : RField := ⟨.hrTxCfg, 31, 31⟩
abbrev hrTxCfg_HALTED : RField := ⟨.hrTxCfg, 30, 30⟩
abbrev hrTxCfg_SIZE_LOG2 : RField := ⟨.hrTxCfg, 23, 20⟩
abbrev hrTxCfg_VECTOR : RField := ⟨.hrTxCfg, 19, 14⟩
abbrev hrTxTail_TAIL : RField := ⟨.hrTxTail, 15, 0⟩
abbrev hrTxHead_HEAD : RField := ⟨.hrTxHead, 15, 0⟩
abbrev hrTxIrq_TIME_US : RField := ⟨.hrTxIrq, 31, 16⟩
abbrev hrTxIrq_COUNT : RField := ⟨.hrTxIrq, 15, 0⟩
abbrev hrRxQ_DEPTH : RField := ⟨.hrRxQ, 26, 16⟩
abbrev hrRxQ_QLIMIT : RField := ⟨.hrRxQ, 10, 0⟩
abbrev ethMacCfg_TX_EN : RField := ⟨.ethMacCfg, 31, 31⟩
abbrev ethMacCfg_RX_EN : RField := ⟨.ethMacCfg, 30, 30⟩
abbrev ethMacCfg_MAX_LEN : RField := ⟨.ethMacCfg, 29, 16⟩
abbrev ethMacCfg_RX_PFC_EN : RField := ⟨.ethMacCfg, 9, 9⟩
abbrev ethMacCfg_RX_PAUSE_EN : RField := ⟨.ethMacCfg, 8, 8⟩
abbrev ethIntf_FEC : RField := ⟨.ethIntf, 11, 10⟩
abbrev ethIntf_AN_EN : RField := ⟨.ethIntf, 9, 9⟩
abbrev ethIntf_SPEED : RField := ⟨.ethIntf, 8, 6⟩
abbrev ethIntf_INTF : RField := ⟨.ethIntf, 2, 0⟩
abbrev ethLinkStatus_LINK : RField := ⟨.ethLinkStatus, 15, 15⟩
abbrev ethLinkStatus_SPEED : RField := ⟨.ethLinkStatus, 14, 12⟩
abbrev ethLinkStatus_LOCK : RField := ⟨.ethLinkStatus, 11, 11⟩
abbrev ethLinkStatus_LOCAL_FAULT : RField := ⟨.ethLinkStatus, 10, 10⟩
abbrev ethLinkStatus_REMOTE_FAULT : RField := ⟨.ethLinkStatus, 9, 9⟩
abbrev ethLinkStatus_PEER_OK : RField := ⟨.ethLinkStatus, 8, 8⟩
abbrev ethLinkStatus_STEPPING : RField := ⟨.ethLinkStatus, 7, 7⟩
abbrev ethLinkStatus_LPI_TX : RField := ⟨.ethLinkStatus, 6, 6⟩
abbrev ethLinkStatus_LPI_RX : RField := ⟨.ethLinkStatus, 5, 5⟩
abbrev ethLinkStatus_PLCA_OK : RField := ⟨.ethLinkStatus, 4, 4⟩
abbrev ethLinkCfg_UP_MS : RField := ⟨.ethLinkCfg, 31, 16⟩
abbrev ethLinkCfg_LOSS_US : RField := ⟨.ethLinkCfg, 13, 0⟩
abbrev ethPauseCfg_HOLDOFF_MS : RField := ⟨.ethPauseCfg, 31, 16⟩
abbrev ethPauseCfg_WDOG_MS : RField := ⟨.ethPauseCfg, 13, 0⟩
abbrev ethPauseState_HOLDOFF : RField := ⟨.ethPauseState, 15, 8⟩
abbrev ethPauseState_PAUSED : RField := ⟨.ethPauseState, 7, 0⟩
abbrev ethStepCfg_STEP_EN : RField := ⟨.ethStepCfg, 31, 31⟩
abbrev ethStepCfg_CEIL : RField := ⟨.ethStepCfg, 27, 26⟩
abbrev ethStepCfg_FLOOR : RField := ⟨.ethStepCfg, 25, 24⟩
abbrev ethStepCfg_DOWN_PCT : RField := ⟨.ethStepCfg, 23, 16⟩
abbrev ethStepCfg_DOWN_MS : RField := ⟨.ethStepCfg, 15, 0⟩
abbrev ethStepUp_UP_CELLS : RField := ⟨.ethStepUp, 18, 0⟩
abbrev ethStepStatus_RATE : RField := ⟨.ethStepStatus, 7, 6⟩
abbrev ethStepStatus_BUSY : RField := ⟨.ethStepStatus, 4, 4⟩
abbrev ethStepStatus_LAST : RField := ⟨.ethStepStatus, 3, 0⟩
abbrev ethLpiCfg_LPI_EN : RField := ⟨.ethLpiCfg, 31, 31⟩
abbrev ethLpiCfg_IDLE_US : RField := ⟨.ethLpiCfg, 25, 16⟩
abbrev ethLpiCfg_TW_SYS_TX : RField := ⟨.ethLpiCfg, 15, 0⟩
abbrev ethTsCorr_TX_NS : RField := ⟨.ethTsCorr, 31, 16⟩
abbrev ethTsCorr_RX_NS : RField := ⟨.ethTsCorr, 15, 0⟩
abbrev ethPreempt_EN : RField := ⟨.ethPreempt, 31, 31⟩
abbrev ethPreempt_VERIFY_DIS : RField := ⟨.ethPreempt, 30, 30⟩
abbrev ethPreempt_ADD_FRAG : RField := ⟨.ethPreempt, 29, 28⟩
abbrev ethPreempt_VERIFY_MS : RField := ⟨.ethPreempt, 23, 16⟩
abbrev ethPreempt_VERIFY_STATUS : RField := ⟨.ethPreempt, 12, 10⟩
abbrev ethPreempt_ACTIVE : RField := ⟨.ethPreempt, 9, 9⟩
abbrev ethPreempt_PREEMPTABLE : RField := ⟨.ethPreempt, 7, 0⟩
abbrev ethGateCfg_GATE_EN : RField := ⟨.ethGateCfg, 31, 31⟩
abbrev ethGateCfg_CONFIG_CHANGE : RField := ⟨.ethGateCfg, 30, 30⟩
abbrev ethGateCfg_CANCEL : RField := ⟨.ethGateCfg, 29, 29⟩
abbrev ethGateCfg_PENDING : RField := ⟨.ethGateCfg, 28, 28⟩
abbrev ethGateCfg_GATE_TD : RField := ⟨.ethGateCfg, 27, 26⟩
abbrev ethGateCfg_ADMIN_LEN : RField := ⟨.ethGateCfg, 25, 17⟩
abbrev ethGateCfg_RESTART_GATES : RField := ⟨.ethGateCfg, 15, 8⟩
abbrev ethGateStatus_RESTARTING : RField := ⟨.ethGateStatus, 24, 24⟩
abbrev ethGateStatus_GATES : RField := ⟨.ethGateStatus, 23, 16⟩
abbrev ethGateStatus_ENTRY : RField := ⟨.ethGateStatus, 8, 0⟩
abbrev ethPlcaCfg_NODE_COUNT : RField := ⟨.ethPlcaCfg, 15, 8⟩
abbrev ethPlcaCfg_NODE_ID : RField := ⟨.ethPlcaCfg, 7, 0⟩
abbrev ethPlcaTmr_BURST_TIMER : RField := ⟨.ethPlcaTmr, 23, 16⟩
abbrev ethPlcaTmr_MAX_BC : RField := ⟨.ethPlcaTmr, 15, 8⟩
abbrev ethPlcaTmr_TO_TIMER : RField := ⟨.ethPlcaTmr, 7, 0⟩
abbrev ethTxTsStat_COUNT : RField := ⟨.ethTxTsStat, 4, 0⟩
abbrev ethTxTsSeq_SEQ : RField := ⟨.ethTxTsSeq, 31, 0⟩
abbrev ethTxTsInfo_PORT : RField := ⟨.ethTxTsInfo, 14, 8⟩
abbrev ethTxTsInfo_CLASS : RField := ⟨.ethTxTsInfo, 2, 0⟩
abbrev ethTxTsLo_TIME : RField := ⟨.ethTxTsLo, 31, 0⟩
abbrev ethTxTsHi_TIME : RField := ⟨.ethTxTsHi, 31, 0⟩
abbrev ethTxTsPop_POP : RField := ⟨.ethTxTsPop, 0, 0⟩
abbrev ethSched_WRR : RField := ⟨.ethSched, 8, 8⟩
abbrev ethSched_WEIGHT : RField := ⟨.ethSched, 6, 0⟩
abbrev ethCbs_EN : RField := ⟨.ethCbs, 31, 31⟩
abbrev ethCbs_IDLE_KBPS : RField := ⟨.ethCbs, 24, 0⟩
abbrev ethGateAdminBase_BASE : RField := ⟨.ethGateAdminBase, 31, 0⟩
abbrev ethGateOperBase_BASE : RField := ⟨.ethGateOperBase, 31, 0⟩
abbrev ethGateChange_TIME : RField := ⟨.ethGateChange, 31, 0⟩
abbrev ethGateAdminCycle_CYCLE_NS : RField := ⟨.ethGateAdminCycle, 31, 0⟩
abbrev ethGateAdminExt_EXT_NS : RField := ⟨.ethGateAdminExt, 31, 0⟩
abbrev ethGateOperCycle_CYCLE_NS : RField := ⟨.ethGateOperCycle, 31, 0⟩
abbrev ethGateOperExt_EXT_NS : RField := ⟨.ethGateOperExt, 31, 0⟩
abbrev ethGateOperLen_LEN : RField := ⟨.ethGateOperLen, 8, 0⟩
abbrev ethMacAddr_ADDR : RField := ⟨.ethMacAddr, 31, 0⟩
abbrev ethCntEvt_CHANGED : RField := ⟨.ethCntEvt, 31, 0⟩
abbrev ethGateAdminListOp_OP : RField := ⟨.ethGateAdminListOp, 9, 8⟩
abbrev ethGateAdminListOp_GATES : RField := ⟨.ethGateAdminListOp, 7, 0⟩
abbrev ethGateAdminListInterval_INTERVAL_NS : RField := ⟨.ethGateAdminListInterval, 31, 0⟩
abbrev ethGateOperListOp_OP : RField := ⟨.ethGateOperListOp, 9, 8⟩
abbrev ethGateOperListOp_GATES : RField := ⟨.ethGateOperListOp, 7, 0⟩
abbrev ethGateOperListInterval_INTERVAL_NS : RField := ⟨.ethGateOperListInterval, 31, 0⟩
abbrev tbSgCfg_TD : RField := ⟨.tbSgCfg, 1, 0⟩
abbrev tbSgBase_BASE : RField := ⟨.tbSgBase, 31, 0⟩
abbrev tbSfBlocked_FLAGS : RField := ⟨.tbSfBlocked, 31, 0⟩
abbrev tbSgInvLatched_FLAGS : RField := ⟨.tbSgInvLatched, 31, 0⟩
abbrev tbSgGclCtl_OPEN : RField := ⟨.tbSgGclCtl, 31, 31⟩
abbrev tbSgGclCtl_IOM : RField := ⟨.tbSgGclCtl, 29, 0⟩
abbrev tbSgGclInterval_INTERVAL_NS : RField := ⟨.tbSgGclInterval, 31, 0⟩
abbrev canCtl_FD_EN : RField := ⟨.canCtl, 31, 31⟩
abbrev canCtl_XL_EN : RField := ⟨.canCtl, 30, 30⟩
abbrev canCtl_TRX_SIC : RField := ⟨.canCtl, 29, 29⟩
abbrev canCtl_AUTO_RECOV : RField := ⟨.canCtl, 28, 28⟩
abbrev canCtl_RECOVER : RField := ⟨.canCtl, 27, 27⟩
abbrev canCtl_BO_DELAY_MS : RField := ⟨.canCtl, 15, 0⟩
abbrev canBtNom_BRP_M1 : RField := ⟨.canBtNom, 31, 27⟩
abbrev canBtNom_TSEG1_M1 : RField := ⟨.canBtNom, 26, 19⟩
abbrev canBtNom_TSEG2_M1 : RField := ⟨.canBtNom, 18, 12⟩
abbrev canBtNom_SJW_M1 : RField := ⟨.canBtNom, 11, 5⟩
abbrev canBtData_BRP_M1 : RField := ⟨.canBtData, 31, 27⟩
abbrev canBtData_TSEG1_M1 : RField := ⟨.canBtData, 26, 22⟩
abbrev canBtData_TSEG2_M1 : RField := ⟨.canBtData, 21, 18⟩
abbrev canBtData_SJW_M1 : RField := ⟨.canBtData, 17, 14⟩
abbrev canBtXl_BRP_M1 : RField := ⟨.canBtXl, 31, 27⟩
abbrev canBtXl_TSEG1_M1 : RField := ⟨.canBtXl, 26, 22⟩
abbrev canBtXl_TSEG2_M1 : RField := ⟨.canBtXl, 21, 18⟩
abbrev canBtXl_SJW_M1 : RField := ⟨.canBtXl, 17, 14⟩
abbrev canTdc_EN : RField := ⟨.canTdc, 31, 31⟩
abbrev canTdc_TDCO : RField := ⟨.canTdc, 30, 24⟩
abbrev canTdc_TDCF : RField := ⟨.canTdc, 23, 17⟩
abbrev canTdc_TDCV : RField := ⟨.canTdc, 16, 8⟩
abbrev canTdcXl_EN : RField := ⟨.canTdcXl, 31, 31⟩
abbrev canTdcXl_TDCO : RField := ⟨.canTdcXl, 30, 24⟩
abbrev canTdcXl_TDCF : RField := ⟨.canTdcXl, 23, 17⟩
abbrev canTdcXl_TDCV : RField := ⟨.canTdcXl, 16, 8⟩
abbrev canXlPwm_PWM_EN : RField := ⟨.canXlPwm, 31, 31⟩
abbrev canXlPwm_ERRSIG : RField := ⟨.canXlPwm, 30, 30⟩
abbrev canXlPwm_PWMS : RField := ⟨.canXlPwm, 23, 18⟩
abbrev canXlPwm_PWML : RField := ⟨.canXlPwm, 17, 12⟩
abbrev canXlPwm_PWMO : RField := ⟨.canXlPwm, 11, 6⟩
abbrev canErr_STATE : RField := ⟨.canErr, 31, 29⟩
abbrev canErr_LEC : RField := ⟨.canErr, 28, 26⟩
abbrev canErr_TEC : RField := ⟨.canErr, 25, 17⟩
abbrev canErr_REC : RField := ⟨.canErr, 16, 8⟩
abbrev canTxCfg_PAD : RField := ⟨.canTxCfg, 31, 24⟩
abbrev canTxCfg_PAD_EN : RField := ⟨.canTxCfg, 23, 23⟩
abbrev canTxCfg_RETRY : RField := ⟨.canTxCfg, 19, 16⟩
abbrev canTxCfg_SERIAL : RField := ⟨.canTxCfg, 15, 8⟩
abbrev canTxCfg_PT_TD : RField := ⟨.canTxCfg, 7, 6⟩
abbrev canTxPt_LATE_US : RField := ⟨.canTxPt, 15, 0⟩
abbrev canTxStatus_RESERVED : RField := ⟨.canTxStatus, 22, 16⟩
abbrev canTxStatus_HELD : RField := ⟨.canTxStatus, 14, 8⟩
abbrev canTxStatus_USED : RField := ⟨.canTxStatus, 6, 0⟩
abbrev canForeignLast_VALID : RField := ⟨.canForeignLast, 31, 31⟩
abbrev canForeignLast_OBJ : RField := ⟨.canForeignLast, 13, 0⟩
abbrev canSched_EN : RField := ⟨.canSched, 31, 31⟩
abbrev canSched_OBJ : RField := ⟨.canSched, 13, 0⟩
abbrev moWinSel_OBJ : RField := ⟨.moWinSel, 13, 0⟩
abbrev moWinKey_VALID : RField := ⟨.moWinKey, 31, 31⟩
abbrev moWinKey_FMT : RField := ⟨.moWinKey, 30, 29⟩
abbrev moWinKey_ID : RField := ⟨.moWinKey, 28, 0⟩
abbrev moWinCfg_HM : RField := ⟨.moWinCfg, 16, 11⟩
abbrev moWinCfg_HM_EN : RField := ⟨.moWinCfg, 10, 10⟩
abbrev moWinCfg_TX_BRS : RField := ⟨.moWinCfg, 9, 9⟩
abbrev moWinCfg_TX_FDF : RField := ⟨.moWinCfg, 8, 8⟩
abbrev moWinCfg_OWNED : RField := ⟨.moWinCfg, 7, 7⟩
abbrev moWinCfg_CHANNEL : RField := ⟨.moWinCfg, 6, 0⟩
abbrev moWinHdr_ACKED : RField := ⟨.moWinHdr, 9, 9⟩
abbrev moWinHdr_OVERWRITTEN : RField := ⟨.moWinHdr, 8, 8⟩
abbrev moWinHdr_LEN : RField := ⟨.moWinHdr, 6, 0⟩
abbrev moWinForeign_CLEAR : RField := ⟨.moWinForeign, 31, 31⟩
abbrev moWinForeign_FOREIGN : RField := ⟨.moWinForeign, 15, 0⟩
abbrev moWinPub_LEN : RField := ⟨.moWinPub, 6, 0⟩
abbrev moWinSeq_SEQ : RField := ⟨.moWinSeq, 31, 0⟩
abbrev moWinAck_SEQ : RField := ⟨.moWinAck, 31, 0⟩
abbrev moWinTime_TIME : RField := ⟨.moWinTime, 31, 0⟩
abbrev moWinData_DATA : RField := ⟨.moWinData, 31, 0⟩
abbrev moWinStage_DATA : RField := ⟨.moWinStage, 31, 0⟩
abbrev linCfg_ROLE : RField := ⟨.linCfg, 31, 31⟩
abbrev linCfg_AUTOBAUD : RField := ⟨.linCfg, 30, 30⟩
abbrev linCfg_PULLUP : RField := ⟨.linCfg, 29, 29⟩
abbrev linCfg_BREAK_BITS : RField := ⟨.linCfg, 28, 24⟩
abbrev linCfg_BAUD_BPS : RField := ⟨.linCfg, 14, 0⟩
abbrev linSchedCtl_REQ : RField := ⟨.linSchedCtl, 31, 31⟩
abbrev linSchedCtl_STOP : RField := ⟨.linSchedCtl, 30, 30⟩
abbrev linSchedCtl_REQ_TABLE : RField := ⟨.linSchedCtl, 29, 27⟩
abbrev linSchedStatus_RUNNING : RField := ⟨.linSchedStatus, 31, 31⟩
abbrev linSchedStatus_PENDING : RField := ⟨.linSchedStatus, 30, 30⟩
abbrev linSchedStatus_COLLISION : RField := ⟨.linSchedStatus, 29, 29⟩
abbrev linSchedStatus_TABLE : RField := ⟨.linSchedStatus, 28, 26⟩
abbrev linSchedStatus_ENTRY : RField := ⟨.linSchedStatus, 25, 20⟩
abbrev linSchedSel_TABLE : RField := ⟨.linSchedSel, 8, 6⟩
abbrev linSchedSel_ENTRY : RField := ⟨.linSchedSel, 5, 0⟩
abbrev linSchedEntry_TYPE : RField := ⟨.linSchedEntry, 31, 29⟩
abbrev linSchedEntry_COLL_TABLE : RField := ⟨.linSchedEntry, 28, 26⟩
abbrev linSchedEntry_SLOT_TICKS : RField := ⟨.linSchedEntry, 23, 16⟩
abbrev linSchedEntry_ID : RField := ⟨.linSchedEntry, 5, 0⟩
abbrev linFrame_SEQ8 : RField := ⟨.linFrame, 31, 24⟩
abbrev linFrame_FRESH : RField := ⟨.linFrame, 23, 23⟩
abbrev linFrame_EVENT : RField := ⟨.linFrame, 8, 8⟩
abbrev linFrame_ENHANCED : RField := ⟨.linFrame, 7, 7⟩
abbrev linFrame_LEN : RField := ⟨.linFrame, 6, 3⟩
abbrev linFrame_DIR : RField := ⟨.linFrame, 1, 0⟩
abbrev linData_DATA : RField := ⟨.linData, 31, 0⟩
abbrev tunCfg_XL_TYPE : RField := ⟨.tunCfg, 6, 0⟩
abbrev tunTxStreamCtl_ENABLE : RField := ⟨.tunTxStreamCtl, 31, 31⟩
abbrev tunTxStreamCtl_TSCF : RField := ⟨.tunTxStreamCtl, 30, 30⟩
abbrev tunTxStreamCtl_VLAN_EN : RField := ⟨.tunTxStreamCtl, 29, 29⟩
abbrev tunTxStreamCtl_CLASS : RField := ⟨.tunTxStreamCtl, 28, 26⟩
abbrev tunTxStreamCtl_PORT : RField := ⟨.tunTxStreamCtl, 25, 19⟩
abbrev tunTxStreamCtl_TD : RField := ⟨.tunTxStreamCtl, 18, 17⟩
abbrev tunTxStreamCtl_MAX_MSGS : RField := ⟨.tunTxStreamCtl, 15, 8⟩
abbrev tunTxStreamAgg_AGG_US : RField := ⟨.tunTxStreamAgg, 31, 16⟩
abbrev tunTxStreamAgg_MAX_PDU : RField := ⟨.tunTxStreamAgg, 13, 0⟩
abbrev tunTxStreamPtOff_PT_OFFSET_NS : RField := ⟨.tunTxStreamPtOff, 31, 0⟩
abbrev tunTxStreamDaLo_DA_LO : RField := ⟨.tunTxStreamDaLo, 31, 0⟩
abbrev tunTxStreamDaHi_TCI : RField := ⟨.tunTxStreamDaHi, 31, 16⟩
abbrev tunTxStreamDaHi_DA_HI : RField := ⟨.tunTxStreamDaHi, 15, 0⟩
abbrev tunTxStreamSeq_SEQ : RField := ⟨.tunTxStreamSeq, 7, 0⟩
abbrev tunTxStreamId_STREAM_ID : RField := ⟨.tunTxStreamId, 31, 0⟩
abbrev tunTxBindKey_ENABLE : RField := ⟨.tunTxBindKey, 31, 31⟩
abbrev tunTxBindKey_FMT : RField := ⟨.tunTxBindKey, 30, 29⟩
abbrev tunTxBindKey_ID : RField := ⟨.tunTxBindKey, 28, 0⟩
abbrev tunTxBindMask_MASK : RField := ⟨.tunTxBindMask, 28, 0⟩
abbrev tunTxBindDest_BUS_ID : RField := ⟨.tunTxBindDest, 20, 16⟩
abbrev tunTxBindDest_STREAM : RField := ⟨.tunTxBindDest, 12, 8⟩
abbrev tunTxBindDest_CHANNEL : RField := ⟨.tunTxBindDest, 6, 0⟩
abbrev tunRxStreamCtl_ENABLE : RField := ⟨.tunRxStreamCtl, 31, 31⟩
abbrev tunRxStreamCtl_PT_EN : RField := ⟨.tunRxStreamCtl, 30, 30⟩
abbrev tunRxStreamId_STREAM_ID : RField := ⟨.tunRxStreamId, 31, 0⟩
abbrev tunRxStreamPtAdj_PT_ADJ_NS : RField := ⟨.tunRxStreamPtAdj, 31, 0⟩
abbrev tunRxStreamBus_BUS_MAP : RField := ⟨.tunRxStreamBus, 31, 0⟩
abbrev tunRxStreamExp_EXP_SEQ : RField := ⟨.tunRxStreamExp, 7, 0⟩
abbrev tmLatchCmd_LATCH : RField := ⟨.tmLatchCmd, 0, 0⟩
abbrev tmLatchRaw_RAW : RField := ⟨.tmLatchRaw, 31, 0⟩
abbrev tmLatchDom_TIME : RField := ⟨.tmLatchDom, 31, 0⟩
abbrev tmConvIn_RAW_NS : RField := ⟨.tmConvIn, 31, 0⟩
abbrev tmConvCmd_BUSY : RField := ⟨.tmConvCmd, 31, 31⟩
abbrev tmConvCmd_STATUS : RField := ⟨.tmConvCmd, 5, 4⟩
abbrev tmConvCmd_TD : RField := ⟨.tmConvCmd, 3, 2⟩
abbrev tmConvCmd_GO : RField := ⟨.tmConvCmd, 0, 0⟩
abbrev tmConvOut_TIME : RField := ⟨.tmConvOut, 31, 0⟩
abbrev tmDomArg_ARG : RField := ⟨.tmDomArg, 31, 0⟩
abbrev tmDomCmd_BUSY : RField := ⟨.tmDomCmd, 31, 31⟩
abbrev tmDomCmd_STEP_GEN : RField := ⟨.tmDomCmd, 15, 8⟩
abbrev tmDomCmd_RESULT : RField := ⟨.tmDomCmd, 5, 4⟩
abbrev tmDomCmd_CMD : RField := ⟨.tmDomCmd, 3, 0⟩
abbrev tmDomInc_INC : RField := ⟨.tmDomInc, 31, 0⟩
abbrev tmTtStart_START : RField := ⟨.tmTtStart, 31, 0⟩
abbrev tmTtPeriod_PERIOD_NS : RField := ⟨.tmTtPeriod, 31, 0⟩
abbrev tmTtTarget_TARGET : RField := ⟨.tmTtTarget, 31, 0⟩
abbrev tmTtCtl_EN : RField := ⟨.tmTtCtl, 31, 31⟩
abbrev tmTtCtl_PENDING : RField := ⟨.tmTtCtl, 30, 30⟩
abbrev tmTtCtl_TD : RField := ⟨.tmTtCtl, 29, 28⟩
abbrev tmTtCtl_KIND : RField := ⟨.tmTtCtl, 27, 25⟩
abbrev tmCapCfg_EN : RField := ⟨.tmCapCfg, 31, 31⟩
abbrev tmCapCfg_EDGE : RField := ⟨.tmCapCfg, 30, 29⟩
abbrev tmCapCfg_TD : RField := ⟨.tmCapCfg, 28, 27⟩
abbrev tmCapCfg_FILTER : RField := ⟨.tmCapCfg, 7, 0⟩
abbrev tmCapStat_RISING : RField := ⟨.tmCapStat, 8, 8⟩
abbrev tmCapStat_OVF : RField := ⟨.tmCapStat, 4, 4⟩
abbrev tmCapStat_COUNT : RField := ⟨.tmCapStat, 2, 0⟩
abbrev tmCapHead_TIME : RField := ⟨.tmCapHead, 31, 0⟩
abbrev tmCapPop_POP : RField := ⟨.tmCapPop, 0, 0⟩
abbrev cxSvcCfg_CLUSTERS : RField := ⟨.cxSvcCfg, 31, 24⟩
abbrev cxSvcCfg_SLOTS : RField := ⟨.cxSvcCfg, 20, 16⟩
abbrev cxSvcCfg_STAGE_OFF : RField := ⟨.cxSvcCfg, 9, 0⟩
abbrev cxPin_EN : RField := ⟨.cxPin, 31, 31⟩
abbrev cxPin_CORE : RField := ⟨.cxPin, 3, 0⟩
abbrev cxCoreCfg_POOL : RField := ⟨.cxCoreCfg, 1, 0⟩
abbrev cxPageCfg_VECTOR : RField := ⟨.cxPageCfg, 19, 14⟩
abbrev cxPageCfg_CLEAR_IMPORT : RField := ⟨.cxPageCfg, 5, 5⟩
abbrev cxPageCfg_CLEAR_CTX : RField := ⟨.cxPageCfg, 4, 4⟩
abbrev cxPageCfg_POOLS : RField := ⟨.cxPageCfg, 3, 0⟩
abbrev cxCtxSel_CTX : RField := ⟨.cxCtxSel, 2, 0⟩
abbrev cxCtxMode_BUSY : RField := ⟨.cxCtxMode, 31, 31⟩
abbrev cxCtxMode_MODE : RField := ⟨.cxCtxMode, 28, 24⟩
abbrev cxCtxMode_KEYREF : RField := ⟨.cxCtxMode, 19, 0⟩
abbrev cxCtxCmd_BUSY : RField := ⟨.cxCtxCmd, 31, 31⟩
abbrev cxCtxCmd_RESULT : RField := ⟨.cxCtxCmd, 7, 4⟩
abbrev cxCtxCmd_CMD : RField := ⟨.cxCtxCmd, 1, 0⟩
abbrev cxCtxAddrLo_ADDR : RField := ⟨.cxCtxAddrLo, 31, 0⟩
abbrev cxCtxAddrHi_ADDR : RField := ⟨.cxCtxAddrHi, 31, 0⟩
abbrev cxJobAad_TAG_LEN : RField := ⟨.cxJobAad, 20, 16⟩
abbrev cxJobAad_AAD_LEN : RField := ⟨.cxJobAad, 15, 0⟩
abbrev cxJobCtl_GO : RField := ⟨.cxJobCtl, 31, 31⟩
abbrev cxJobCtl_DECRYPT : RField := ⟨.cxJobCtl, 30, 30⟩
abbrev cxJobCtl_INIT : RField := ⟨.cxJobCtl, 29, 29⟩
abbrev cxJobCtl_FINAL : RField := ⟨.cxJobCtl, 28, 28⟩
abbrev cxJobCtl_RING : RField := ⟨.cxJobCtl, 27, 24⟩
abbrev cxJobCtl_CTX : RField := ⟨.cxJobCtl, 22, 20⟩
abbrev cxJobCtl_JOB_ID : RField := ⟨.cxJobCtl, 15, 0⟩
abbrev cxJobQ_QUEUED : RField := ⟨.cxJobQ, 4, 0⟩
abbrev cxDonePop_POP : RField := ⟨.cxDonePop, 0, 0⟩
abbrev cxKsCmd_SLOT : RField := ⟨.cxKsCmd, 27, 16⟩
abbrev cxKsCmd_AUX : RField := ⟨.cxKsCmd, 15, 4⟩
abbrev cxKsCmd_CMD : RField := ⟨.cxKsCmd, 3, 0⟩
abbrev cxKsStatus_BUSY : RField := ⟨.cxKsStatus, 31, 31⟩
abbrev cxKsStatus_GEN : RField := ⟨.cxKsStatus, 15, 8⟩
abbrev cxKsStatus_RESULT : RField := ⟨.cxKsStatus, 3, 0⟩
abbrev cxCtxState_STATE : RField := ⟨.cxCtxState, 31, 0⟩
abbrev cxDone_RECORD : RField := ⟨.cxDone, 31, 0⟩
abbrev cxKsData_DATA : RField := ⟨.cxKsData, 31, 0⟩
abbrev cxJobSrcLo_ADDR : RField := ⟨.cxJobSrcLo, 31, 0⟩
abbrev cxJobSrcHi_ADDR : RField := ⟨.cxJobSrcHi, 31, 0⟩
abbrev cxJobLen_LEN : RField := ⟨.cxJobLen, 20, 0⟩
abbrev cxJobOut_OUT_LEN : RField := ⟨.cxJobOut, 20, 0⟩
abbrev cxKsAttr_VALID : RField := ⟨.cxKsAttr, 31, 31⟩
abbrev cxKsAttr_OWNER : RField := ⟨.cxKsAttr, 30, 26⟩
abbrev cxKsAttr_USAGE : RField := ⟨.cxKsAttr, 25, 24⟩
abbrev cxKsAttr_EXPORT : RField := ⟨.cxKsAttr, 23, 23⟩
abbrev cxKsAttr_KLEN : RField := ⟨.cxKsAttr, 22, 21⟩
abbrev cxKsAttr_ENGINE : RField := ⟨.cxKsAttr, 20, 13⟩
abbrev cxKsAttr_GEN : RField := ⟨.cxKsAttr, 12, 5⟩
abbrev ksRoot_STATE : RField := ⟨.ksRoot, 2, 0⟩
abbrev ksKcv_KCV : RField := ⟨.ksKcv, 31, 0⟩
abbrev ksMaskCfg_PERIOD_MS : RField := ⟨.ksMaskCfg, 10, 0⟩
abbrev ksQuota_BASE : RField := ⟨.ksQuota, 27, 16⟩
abbrev ksQuota_COUNT : RField := ⟨.ksQuota, 12, 0⟩
abbrev ksWrapGen_PREV : RField := ⟨.ksWrapGen, 31, 16⟩
abbrev ksWrapGen_CUR : RField := ⟨.ksWrapGen, 15, 0⟩
abbrev ksIdSeed_SEED : RField := ⟨.ksIdSeed, 31, 0⟩
abbrev ksSlotAttr_VALID : RField := ⟨.ksSlotAttr, 31, 31⟩
abbrev ksSlotAttr_OWNER : RField := ⟨.ksSlotAttr, 30, 26⟩
abbrev ksSlotAttr_USAGE : RField := ⟨.ksSlotAttr, 25, 24⟩
abbrev ksSlotAttr_EXPORT : RField := ⟨.ksSlotAttr, 23, 23⟩
abbrev ksSlotAttr_KLEN : RField := ⟨.ksSlotAttr, 22, 21⟩
abbrev ksSlotAttr_ENGINE : RField := ⟨.ksSlotAttr, 20, 13⟩
abbrev ksSlotAttr_GEN : RField := ⟨.ksSlotAttr, 12, 5⟩
abbrev ldCtl_ON : RField := ⟨.ldCtl, 31, 31⟩
abbrev ldCtl_CLEAR : RField := ⟨.ldCtl, 30, 30⟩
abbrev ldCfg_LOC_STATE : RField := ⟨.ldCfg, 31, 30⟩
abbrev ldCfg_SEPIA : RField := ⟨.ldCfg, 29, 28⟩
abbrev ldCfg_SLEEP_RETAIN : RField := ⟨.ldCfg, 27, 27⟩
abbrev ldCfg_THERM_MODE : RField := ⟨.ldCfg, 26, 26⟩
abbrev ldCfg_RETRY_MAX : RField := ⟨.ldCfg, 25, 22⟩
abbrev ldCfg_PROFILE : RField := ⟨.ldCfg, 21, 18⟩
abbrev ldCfg_SLEW : RField := ⟨.ldCfg, 17, 12⟩
abbrev ldCfg_OL_OFF_EN : RField := ⟨.ldCfg, 11, 11⟩
abbrev ldCfg_OL_ON_EN : RField := ⟨.ldCfg, 10, 10⟩
abbrev ldCfg_OL_ON_TH : RField := ⟨.ldCfg, 9, 0⟩
abbrev ldGroups_GROUPS : RField := ⟨.ldGroups, 15, 0⟩
abbrev ldWire_WIRE : RField := ⟨.ldWire, 31, 28⟩
abbrev ldWire_IN_10MA : RField := ⟨.ldWire, 27, 16⟩
abbrev ldWire_TAU_100MS : RField := ⟨.ldWire, 12, 0⟩
abbrev ldStatus_LEADER : RField := ⟨.ldStatus, 31, 31⟩
abbrev ldStatus_GANG : RField := ⟨.ldStatus, 30, 29⟩
abbrev ldStatus_LEAD_CH : RField := ⟨.ldStatus, 28, 22⟩
abbrev ldStatus_STATE : RField := ⟨.ldStatus, 21, 19⟩
abbrev ldStatus_RETRIES : RField := ⟨.ldStatus, 18, 15⟩
abbrev ldStatus_CAUSE : RField := ⟨.ldStatus, 14, 12⟩
abbrev ldStatus_EXHAUSTED : RField := ⟨.ldStatus, 11, 11⟩
abbrev ldStatus_SEPIA_APPLIED : RField := ⟨.ldStatus, 10, 10⟩
abbrev ldStatus_LOC_APPLIED : RField := ⟨.ldStatus, 9, 9⟩
abbrev ldStatus_OUT_ON : RField := ⟨.ldStatus, 8, 8⟩
abbrev ldStatus_OPEN_OFF : RField := ⟨.ldStatus, 5, 5⟩
abbrev ldStatus_OPEN_ON : RField := ⟨.ldStatus, 4, 4⟩
abbrev ldStatus_DENIED : RField := ⟨.ldStatus, 3, 3⟩
abbrev ldStatus_WIRE_TRIP : RField := ⟨.ldStatus, 2, 2⟩
abbrev ldStatus_OC_TRIP : RField := ⟨.ldStatus, 1, 1⟩
abbrev ldStatus_THERM_TRIP : RField := ⟨.ldStatus, 0, 0⟩
abbrev ldSense_VALID : RField := ⟨.ldSense, 31, 31⟩
abbrev ldSense_SAT : RField := ⟨.ldSense, 30, 30⟩
abbrev ldSense_RANGE : RField := ⟨.ldSense, 29, 28⟩
abbrev ldSense_CODE : RField := ⟨.ldSense, 13, 0⟩
abbrev ldGangSense_MA : RField := ⟨.ldGangSense, 16, 0⟩
abbrev ldI2t_THETA : RField := ⟨.ldI2t, 17, 0⟩
abbrev ldTemp_TJ : RField := ⟨.ldTemp, 15, 0⟩
abbrev ldSenseTime_TIME : RField := ⟨.ldSenseTime, 31, 0⟩
abbrev pdGang_G8 : RField := ⟨.pdGang, 27, 24⟩
abbrev pdGang_G4 : RField := ⟨.pdGang, 23, 16⟩
abbrev pdGang_G2 : RField := ⟨.pdGang, 15, 0⟩
abbrev pdLoc_LOC_MS : RField := ⟨.pdLoc, 9, 0⟩
abbrev pdStatus_LINK : RField := ⟨.pdStatus, 31, 31⟩
abbrev pdStatus_LOC : RField := ⟨.pdStatus, 30, 30⟩
abbrev pdStatus_LOC_SEEN : RField := ⟨.pdStatus, 29, 29⟩
abbrev pdStatus_UV : RField := ⟨.pdStatus, 28, 28⟩
abbrev pdStatus_AGG_OVER : RField := ⟨.pdStatus, 27, 27⟩
abbrev pdVbat_MV : RField := ⟨.pdVbat, 15, 0⟩
abbrev pdAdmit_WINDOW_MS : RField := ⟨.pdAdmit, 9, 0⟩
abbrev pdAgg_MA : RField := ⟨.pdAgg, 16, 0⟩
abbrev pdAggWarn_MA : RField := ⟨.pdAggWarn, 16, 0⟩
abbrev pdAdcSeq_VALID : RField := ⟨.pdAdcSeq, 31, 31⟩
abbrev pdAdcSeq_RANGE : RField := ⟨.pdAdcSeq, 9, 8⟩
abbrev pdAdcSeq_KIND : RField := ⟨.pdAdcSeq, 7, 6⟩
abbrev pdAdcSeq_CH : RField := ⟨.pdAdcSeq, 4, 0⟩
abbrev pdAdcStat_BUSY : RField := ⟨.pdAdcStat, 31, 31⟩
abbrev pdAdcStat_ENTRY : RField := ⟨.pdAdcStat, 3, 0⟩
abbrev pdProfile_SLEW : RField := ⟨.pdProfile, 31, 26⟩
abbrev pdProfile_DUR : RField := ⟨.pdProfile, 25, 16⟩
abbrev pdProfile_LAST : RField := ⟨.pdProfile, 15, 15⟩
abbrev pdProfile_ILIM : RField := ⟨.pdProfile, 8, 0⟩
abbrev bwSleepCmd_SLEEP : RField := ⟨.bwSleepCmd, 0, 0⟩
abbrev bwSleepStatus_BUSY : RField := ⟨.bwSleepStatus, 31, 31⟩
abbrev bwSleepStatus_ABORTED : RField := ⟨.bwSleepStatus, 30, 30⟩
abbrev bwSleepStatus_STEP : RField := ⟨.bwSleepStatus, 2, 0⟩
abbrev bwWakeSrc_IN_TRANS : RField := ⟨.bwWakeSrc, 31, 31⟩
abbrev bwWakeSrc_SRC : RField := ⟨.bwWakeSrc, 27, 24⟩
abbrev bwWakeSrc_PORT : RField := ⟨.bwWakeSrc, 23, 17⟩
abbrev bwSleepCur_UA : RField := ⟨.bwSleepCur, 15, 0⟩
abbrev bwSegPorts_PORTS : RField := ⟨.bwSegPorts, 31, 0⟩
abbrev bwSegCfg_HOLD_LIMIT : RField := ⟨.bwSegCfg, 31, 16⟩
abbrev bwSegCfg_GTS_EN : RField := ⟨.bwSegCfg, 12, 12⟩
abbrev bwSegCfg_DRAIN_MS : RField := ⟨.bwSegCfg, 11, 0⟩
abbrev bwSegCmd_CMD : RField := ⟨.bwSegCmd, 1, 0⟩
abbrev bwSegStatus_WAKE_IN_TRANS : RField := ⟨.bwSegStatus, 31, 31⟩
abbrev bwSegStatus_STATE : RField := ⟨.bwSegStatus, 29, 28⟩
abbrev bwSegStatus_LAST_SRC : RField := ⟨.bwSegStatus, 27, 24⟩
abbrev bwSegStatus_LAST_PORT : RField := ⟨.bwSegStatus, 23, 17⟩
abbrev bwSegStatus_HELD : RField := ⟨.bwSegStatus, 12, 0⟩
abbrev bwSegRoute_POLICY : RField := ⟨.bwSegRoute, 31, 0⟩
abbrev bwWinCfg_EN : RField := ⟨.bwWinCfg, 31, 31⟩
abbrev bwWinCfg_LEVEL : RField := ⟨.bwWinCfg, 30, 30⟩
abbrev bwWinCfg_ACTIVE_HIGH : RField := ⟨.bwWinCfg, 29, 29⟩
abbrev bwWinCfg_FILTER : RField := ⟨.bwWinCfg, 12, 0⟩
abbrev bwWinStorm_STORM_N : RField := ⟨.bwWinStorm, 31, 24⟩
abbrev bwWinStorm_STORM_S : RField := ⟨.bwWinStorm, 15, 0⟩
abbrev bwWinStuck_STUCK_S : RField := ⟨.bwWinStuck, 15, 0⟩
abbrev bwWinSeg_SEGS : RField := ⟨.bwWinSeg, 31, 0⟩
abbrev bwWinStatus_LEVEL : RField := ⟨.bwWinStatus, 31, 31⟩
abbrev bwWinStatus_STORM_MASKED : RField := ⟨.bwWinStatus, 2, 2⟩
abbrev bwWinStatus_STUCK_MASKED : RField := ⟨.bwWinStatus, 1, 1⟩
abbrev bwWinStatus_WOKE : RField := ⟨.bwWinStatus, 0, 0⟩
abbrev bwCanWake_WUP_EN : RField := ⟨.bwCanWake, 31, 31⟩
abbrev bwCanWake_FILTER : RField := ⟨.bwCanWake, 23, 16⟩
abbrev bwCanWake_TIMEOUT : RField := ⟨.bwCanWake, 5, 0⟩
abbrev bwSwfCfg_EN : RField := ⟨.bwSwfCfg, 31, 31⟩
abbrev bwSwfCfg_IDE : RField := ⟨.bwSwfCfg, 30, 30⟩
abbrev bwSwfCfg_ERR_WAKE : RField := ⟨.bwSwfCfg, 29, 29⟩
abbrev bwSwfCfg_RATE : RField := ⟨.bwSwfCfg, 28, 27⟩
abbrev bwSwfCfg_CHANNEL : RField := ⟨.bwSwfCfg, 20, 16⟩
abbrev bwSwfCfg_DLC : RField := ⟨.bwSwfCfg, 3, 0⟩
abbrev bwSwfId_ID : RField := ⟨.bwSwfId, 28, 0⟩
abbrev bwSwfIdMask_ID_MASK : RField := ⟨.bwSwfIdMask, 28, 0⟩
abbrev bwSwfData_DATA_MASK : RField := ⟨.bwSwfData, 31, 0⟩
abbrev bwLinWake_EN : RField := ⟨.bwLinWake, 31, 31⟩
abbrev bwLinWake_SEND : RField := ⟨.bwLinWake, 30, 30⟩
abbrev bwLinWake_PULSE_US : RField := ⟨.bwLinWake, 12, 0⟩
abbrev bwT1sWake_EN : RField := ⟨.bwT1sWake, 31, 31⟩
abbrev bwT1sWake_SEND : RField := ⟨.bwT1sWake, 30, 30⟩
abbrev hbEp_LINK_UP : RField := ⟨.hbEp, 31, 31⟩
abbrev hbEp_SPEED : RField := ⟨.hbEp, 30, 28⟩
abbrev hbEp_WIDTH : RField := ⟨.hbEp, 27, 25⟩
abbrev hbEp_SRIS : RField := ⟨.hbEp, 24, 24⟩
abbrev hbEp_NUM_VFS : RField := ⟨.hbEp, 23, 20⟩
abbrev hbSubsys_SUBSYS_ID : RField := ⟨.hbSubsys, 31, 16⟩
abbrev hbSubsys_SUBSYS_VENDOR : RField := ⟨.hbSubsys, 15, 0⟩
abbrev hbFarCfg_TMO_US : RField := ⟨.hbFarCfg, 9, 0⟩
abbrev hbDomBind_ENABLED : RField := ⟨.hbDomBind, 31, 31⟩
abbrev hbDomBind_BIND : RField := ⟨.hbDomBind, 1, 0⟩
abbrev hbEthHostCfg_ENABLE : RField := ⟨.hbEthHostCfg, 31, 31⟩
abbrev hbEthHostCfg_PORT : RField := ⟨.hbEthHostCfg, 6, 0⟩
abbrev hbEthHostPeerLo_PEER_LO : RField := ⟨.hbEthHostPeerLo, 31, 0⟩
abbrev hbEthHostPeerHi_PEER_HI : RField := ⟨.hbEthHostPeerHi, 15, 0⟩
abbrev hbFarErrLatch_LATCHED : RField := ⟨.hbFarErrLatch, 31, 31⟩
abbrev hbFarErrLatch_CAUSE : RField := ⟨.hbFarErrLatch, 27, 24⟩
abbrev hbFarErrLatch_OFFSET : RField := ⟨.hbFarErrLatch, 23, 0⟩
abbrev hbFarErrSeq_SEQ : RField := ⟨.hbFarErrSeq, 31, 16⟩
abbrev hbFarErrSeq_DISCARDED : RField := ⟨.hbFarErrSeq, 15, 0⟩
abbrev hbFarErrNext_SEQ_NEXT : RField := ⟨.hbFarErrNext, 15, 0⟩
abbrev hbAccErrRec_VALID : RField := ⟨.hbAccErrRec, 31, 31⟩
abbrev hbAccErrRec_WRITE : RField := ⟨.hbAccErrRec, 30, 30⟩
abbrev hbAccErrRec_VIEW : RField := ⟨.hbAccErrRec, 29, 29⟩
abbrev hbAccErrRec_CAUSE : RField := ⟨.hbAccErrRec, 26, 24⟩
abbrev hbAccErrRec_OFFSET : RField := ⟨.hbAccErrRec, 23, 0⟩
abbrev hbAccErrBytes_BYTES : RField := ⟨.hbAccErrBytes, 12, 0⟩
abbrev hbPerm_PAGES : RField := ⟨.hbPerm, 31, 0⟩
abbrev hbPermFine_GRANULES : RField := ⟨.hbPermFine, 31, 0⟩
abbrev lsDrain_DRAIN_US : RField := ⟨.lsDrain, 9, 0⟩
abbrev lsPair_BUSY : RField := ⟨.lsPair, 31, 31⟩
abbrev lsPair_RESULT : RField := ⟨.lsPair, 30, 28⟩
abbrev lsPair_DEBUG_SPLIT : RField := ⟨.lsPair, 27, 27⟩
abbrev lsPair_STATE : RField := ⟨.lsPair, 25, 24⟩
abbrev lsPair_REQ : RField := ⟨.lsPair, 1, 0⟩
abbrev lsFaultCfg_REACTION : RField := ⟨.lsFaultCfg, 1, 0⟩
abbrev lsFaultStatus_ACTIVE : RField := ⟨.lsFaultStatus, 31, 31⟩
abbrev lsFaultStatus_COUNT : RField := ⟨.lsFaultStatus, 15, 0⟩
abbrev lsSepiaCtl_IN_SEPIA : RField := ⟨.lsSepiaCtl, 31, 31⟩
abbrev lsSepiaCtl_ENTER : RField := ⟨.lsSepiaCtl, 30, 30⟩
abbrev lsSepiaCtl_EXIT : RField := ⟨.lsSepiaCtl, 29, 29⟩
abbrev lsSepiaCfg_EN : RField := ⟨.lsSepiaCfg, 31, 31⟩
abbrev lsSepiaCfg_PAIR : RField := ⟨.lsSepiaCfg, 20, 16⟩
abbrev lsSepiaCfg_SLOT : RField := ⟨.lsSepiaCfg, 9, 8⟩
abbrev lsSepiaCause_VALID : RField := ⟨.lsSepiaCause, 31, 31⟩
abbrev lsSepiaCause_CLASS : RField := ⟨.lsSepiaCause, 19, 16⟩
abbrev lsSepiaPorts_PORTS : RField := ⟨.lsSepiaPorts, 31, 0⟩
abbrev lsSepiaTrig_TRIGGERS : RField := ⟨.lsSepiaTrig, 31, 0⟩
abbrev lsSepiaTime_TIME : RField := ⟨.lsSepiaTime, 31, 0⟩
abbrev lsWdogCfg_EN : RField := ⟨.lsWdogCfg, 31, 31⟩
abbrev lsWdogCfg_PERIOD_MS : RField := ⟨.lsWdogCfg, 15, 0⟩
abbrev lsWdogKick_KICK : RField := ⟨.lsWdogKick, 0, 0⟩
abbrev lsThermCfg_LIMIT : RField := ⟨.lsThermCfg, 7, 0⟩
abbrev monCfg_EN : RField := ⟨.monCfg, 31, 31⟩
abbrev monCfg_SOURCE : RField := ⟨.monCfg, 30, 28⟩
abbrev monCfg_LOG2 : RField := ⟨.monCfg, 27, 27⟩
abbrev monCfg_HIGH_EN : RField := ⟨.monCfg, 26, 26⟩
abbrev monCfg_LOW_EN : RField := ⟨.monCfg, 25, 25⟩
abbrev monCfg_SEL : RField := ⟨.monCfg, 23, 0⟩
abbrev monBase_BASE : RField := ⟨.monBase, 31, 0⟩
abbrev monScale_WIDTH : RField := ⟨.monScale, 31, 6⟩
abbrev monScale_SHIFT : RField := ⟨.monScale, 5, 0⟩
abbrev monPeriod_SAMPLE_US : RField := ⟨.monPeriod, 19, 0⟩
abbrev monCtl_CLEAR : RField := ⟨.monCtl, 0, 0⟩
abbrev monStat_HIGH_SEEN : RField := ⟨.monStat, 31, 31⟩
abbrev monStat_LOW_SEEN : RField := ⟨.monStat, 30, 30⟩
abbrev monMin_VALUE : RField := ⟨.monMin, 31, 0⟩
abbrev monMax_VALUE : RField := ⟨.monMax, 31, 0⟩
abbrev monHigh_LIMIT : RField := ⟨.monHigh, 31, 0⟩
abbrev monLow_LIMIT : RField := ⟨.monLow, 31, 0⟩
abbrev evSwRaise_SOURCE : RField := ⟨.evSwRaise, 7, 0⟩
abbrev evMcStatus_PEND : RField := ⟨.evMcStatus, 31, 0⟩
abbrev evPinStatus_PEND : RField := ⟨.evPinStatus, 31, 0⟩
abbrev evMcRoute_EN0 : RField := ⟨.evMcRoute, 7, 7⟩
abbrev evMcRoute_EN1 : RField := ⟨.evMcRoute, 15, 15⟩
abbrev evMcRoute_EN2 : RField := ⟨.evMcRoute, 23, 23⟩
abbrev evMcRoute_EN3 : RField := ⟨.evMcRoute, 31, 31⟩
abbrev evMcRoute_LINE0 : RField := ⟨.evMcRoute, 4, 0⟩
abbrev evMcRoute_LINE1 : RField := ⟨.evMcRoute, 12, 8⟩
abbrev evMcRoute_LINE2 : RField := ⟨.evMcRoute, 20, 16⟩
abbrev evMcRoute_LINE3 : RField := ⟨.evMcRoute, 28, 24⟩
abbrev evPinRoute_FAULT0 : RField := ⟨.evPinRoute, 4, 4⟩
abbrev evPinRoute_FAULT1 : RField := ⟨.evPinRoute, 12, 12⟩
abbrev evPinRoute_FAULT2 : RField := ⟨.evPinRoute, 20, 20⟩
abbrev evPinRoute_FAULT3 : RField := ⟨.evPinRoute, 28, 28⟩
abbrev evPinRoute_INT0 : RField := ⟨.evPinRoute, 3, 0⟩
abbrev evPinRoute_INT1 : RField := ⟨.evPinRoute, 11, 8⟩
abbrev evPinRoute_INT2 : RField := ⟨.evPinRoute, 19, 16⟩
abbrev evPinRoute_INT3 : RField := ⟨.evPinRoute, 27, 24⟩
abbrev evDetail_INST : RField := ⟨.evDetail, 31, 22⟩
abbrev evDetail_INFO : RField := ⟨.evDetail, 15, 0⟩
abbrev evDomStatus_PEND : RField := ⟨.evDomStatus, 31, 0⟩
abbrev evRoute_EN0 : RField := ⟨.evRoute, 7, 7⟩
abbrev evRoute_EN1 : RField := ⟨.evRoute, 15, 15⟩
abbrev evRoute_EN2 : RField := ⟨.evRoute, 23, 23⟩
abbrev evRoute_EN3 : RField := ⟨.evRoute, 31, 31⟩
abbrev evRoute_VECTOR0 : RField := ⟨.evRoute, 5, 0⟩
abbrev evRoute_VECTOR1 : RField := ⟨.evRoute, 13, 8⟩
abbrev evRoute_VECTOR2 : RField := ⟨.evRoute, 21, 16⟩
abbrev evRoute_VECTOR3 : RField := ⟨.evRoute, 29, 24⟩
abbrev mgBootStatus_RECOVERY : RField := ⟨.mgBootStatus, 31, 31⟩
abbrev mgBootStatus_TRIAL : RField := ⟨.mgBootStatus, 30, 30⟩
abbrev mgBootStatus_REASON : RField := ⟨.mgBootStatus, 29, 28⟩
abbrev mgBootStatus_BOOT_COUNT : RField := ⟨.mgBootStatus, 15, 0⟩
abbrev mgLifecycle_STATE : RField := ⟨.mgLifecycle, 1, 0⟩
abbrev mgSerial_SERIAL : RField := ⟨.mgSerial, 31, 0⟩
abbrev mgTemp_TEMP : RField := ⟨.mgTemp, 15, 0⟩
abbrev mgSupply_MV : RField := ⟨.mgSupply, 15, 0⟩
abbrev mgHashCtl_BUSY : RField := ⟨.mgHashCtl, 31, 31⟩
abbrev mgHashCtl_GO : RField := ⟨.mgHashCtl, 3, 3⟩
abbrev mgHashCtl_ALG : RField := ⟨.mgHashCtl, 2, 0⟩
abbrev mgHashOut_DIGEST : RField := ⟨.mgHashOut, 31, 0⟩
abbrev mgKeySet_REVOKED : RField := ⟨.mgKeySet, 1, 1⟩
abbrev mgKeySet_PROGRAMMED : RField := ⟨.mgKeySet, 0, 0⟩
abbrev mgLogStatus_UNFLUSHED : RField := ⟨.mgLogStatus, 31, 16⟩
abbrev mgLogSeq_NEXT : RField := ⟨.mgLogSeq, 31, 0⟩
abbrev mgLogAppend_BYTES : RField := ⟨.mgLogAppend, 31, 0⟩
abbrev mgLogGo_GO : RField := ⟨.mgLogGo, 0, 0⟩
abbrev mgHashSrc_ADDR : RField := ⟨.mgHashSrc, 31, 0⟩
abbrev mgHashLen_LEN : RField := ⟨.mgHashLen, 31, 0⟩
abbrev mgSlotState_KIND : RField := ⟨.mgSlotState, 31, 24⟩
abbrev mgSlotState_LAST_RESULT : RField := ⟨.mgSlotState, 23, 20⟩
abbrev mgSlotState_ACTIVE_B : RField := ⟨.mgSlotState, 15, 15⟩
abbrev mgSlotState_PENDING : RField := ⟨.mgSlotState, 14, 14⟩
abbrev mgSlotState_TRIAL : RField := ⟨.mgSlotState, 13, 13⟩
abbrev mgSlotState_BOOTED_B : RField := ⟨.mgSlotState, 12, 12⟩
abbrev mgSlotVerA_VERSION_A : RField := ⟨.mgSlotVerA, 31, 0⟩
abbrev mgSlotVerB_VERSION_B : RField := ⟨.mgSlotVerB, 31, 0⟩
abbrev mgSlotSvn_SVN_MIN : RField := ⟨.mgSlotSvn, 15, 0⟩
abbrev mgMboxCmd_GO : RField := ⟨.mgMboxCmd, 31, 31⟩
abbrev mgMboxCmd_TAG : RField := ⟨.mgMboxCmd, 15, 8⟩
abbrev mgMboxCmd_CMD : RField := ⟨.mgMboxCmd, 7, 0⟩
abbrev mgMboxStatus_BUSY : RField := ⟨.mgMboxStatus, 31, 31⟩
abbrev mgMboxStatus_TAG : RField := ⟨.mgMboxStatus, 15, 8⟩
abbrev mgMboxStatus_RESULT : RField := ⟨.mgMboxStatus, 7, 0⟩
abbrev mgMboxAddrLo_ADDR : RField := ⟨.mgMboxAddrLo, 31, 0⟩
abbrev mgMboxAddrHi_ADDR : RField := ⟨.mgMboxAddrHi, 31, 0⟩
abbrev mgMboxLen_LEN : RField := ⟨.mgMboxLen, 31, 0⟩
abbrev mgMboxArg_ARG : RField := ⟨.mgMboxArg, 31, 0⟩
abbrev mgMboxData_DATA : RField := ⟨.mgMboxData, 31, 0⟩
abbrev mgRecovChunk_LEN : RField := ⟨.mgRecovChunk, 31, 16⟩
abbrev mgRecovChunk_OFFSET : RField := ⟨.mgRecovChunk, 15, 0⟩
abbrev mgRecovDone_TOTAL : RField := ⟨.mgRecovDone, 31, 0⟩
abbrev mgRecovStatus_BUSY : RField := ⟨.mgRecovStatus, 31, 31⟩
abbrev mgRecovStatus_RESULT : RField := ⟨.mgRecovStatus, 7, 0⟩
abbrev mgRecovWin_DATA : RField := ⟨.mgRecovWin, 31, 0⟩
abbrev dbgLink_UNLOCKED : RField := ⟨.dbgLink, 31, 31⟩
abbrev dbgLink_LIFECYCLE : RField := ⟨.dbgLink, 29, 28⟩
abbrev dbgLink_GRANTS : RField := ⟨.dbgLink, 7, 0⟩
abbrev dbgHalted_HALTED : RField := ⟨.dbgHalted, 31, 0⟩
abbrev bwLinkStatus_UP : RField := ⟨.bwLinkStatus, 31, 31⟩
abbrev bwLinkStatus_TRAINING : RField := ⟨.bwLinkStatus, 30, 30⟩
abbrev bwLinkStatus_UNACKED : RField := ⟨.bwLinkStatus, 7, 0⟩

/-- The field rows of each register (reserved bits have none, R27). -/
def Reg.fields : Reg → List FieldRow
  | .unitId => [⟨31, 24, .ro, 0⟩, ⟨23, 16, .ro, 1⟩, ⟨15, 0, .ro, 0⟩]
  | .unitState => [⟨17, 16, .ro, 1⟩, ⟨15, 12, .ro, 0⟩, ⟨11, 11, .ro, 0⟩, ⟨10, 10, .ro, 0⟩, ⟨9, 9, .ro, 0⟩, ⟨8, 8, .ro, 0⟩, ⟨6, 4, .ro, 0⟩, ⟨2, 0, .ro, 0⟩]
  | .unitCmd => [⟨31, 16, .wo, 0⟩, ⟨15, 8, .wo, 0⟩, ⟨3, 0, .wo, 0⟩]
  | .unitCmdStatus => [⟨31, 31, .ro, 0⟩, ⟨15, 8, .ro, 0⟩, ⟨3, 0, .ro, 0⟩]
  | .unitEpoch => [⟨31, 16, .ro, 0⟩, ⟨15, 0, .ro, 0⟩]
  | .unitTree => [⟨25, 16, .ro, 0⟩, ⟨9, 0, .ro, 0⟩]
  | .unitChild => [⟨9, 0, .ro, 0⟩]
  | .unitQuiesceTmo => [⟨19, 0, .rw, 0x3e8⟩]
  | .unitSnap => [⟨16, 16, .ro, 0⟩, ⟨15, 0, .ro, 0⟩]
  | .unitImage => [⟨31, 0, .ro, 0⟩]
  | .idChip => [⟨31, 16, .ro, 0x9640⟩, ⟨15, 8, .ro, 1⟩]
  | .idDirCount => [⟨10, 0, .ro, 0⟩]
  | .idDirA => [⟨31, 24, .ro, 0⟩, ⟨23, 0, .ro, 0⟩]
  | .idDirB => [⟨13, 13, .ro, 0⟩, ⟨12, 10, .ro, 0⟩, ⟨9, 0, .ro, 0⟩]
  | .idFeMap => [⟨6, 0, .ro, 0⟩]
  | .idFeFree => [⟨31, 0, .ro, 0⟩]
  | .idFeRetired => [⟨31, 0, .ro, 0⟩]
  | .idAcMap => [⟨3, 0, .ro, 0⟩]
  | .idAcFree => [⟨13, 0, .ro, 0⟩]
  | .idAcRetired => [⟨13, 0, .ro, 0⟩]
  | .idRowMap => [⟨31, 31, .ro, 0⟩, ⟨9, 0, .ro, 0⟩]
  | .epCur => [⟨18, 16, .ro, 1⟩, ⟨15, 0, .ro, 0⟩]
  | .epOldest => [⟨15, 0, .ro, 0⟩]
  | .epCmd => [⟨26, 16, .wo, 0⟩, ⟨3, 0, .wo, 0⟩]
  | .epStatus => [⟨31, 31, .ro, 0⟩, ⟨25, 16, .ro, 0⟩, ⟨11, 8, .ro, 0⟩, ⟨7, 3, .ro, 0⟩, ⟨2, 0, .ro, 0⟩]
  | .epCtl => [⟨0, 0, .rw, 0⟩]
  | .epStageTmo => [⟨19, 0, .rw, 0x3e8⟩]
  | .epCommitTmo => [⟨9, 0, .rw, 0x64⟩]
  | .epSnapStatus => [⟨31, 31, .ro, 0⟩, ⟨16, 16, .ro, 0⟩, ⟨15, 0, .ro, 0⟩]
  | .epStageEntryOff => [⟨23, 0, .rw, 0⟩]
  | .epStageEntryData => [⟨31, 0, .rw, 0⟩]
  | .epStageEntryMask => [⟨31, 0, .rw, 0⟩]
  | .epStageEntryCtl => [⟨31, 24, .rw, 0⟩, ⟨13, 9, .ro, 0⟩, ⟨8, 8, .rw, 0⟩, ⟨3, 0, .ro, 0⟩]
  | .mdModeReq => [⟨1, 0, .rw, 1⟩]
  | .mdModeStatus => [⟨11, 8, .ro, 0⟩, ⟨5, 5, .w1c, 0⟩, ⟨4, 4, .ro, 0⟩, ⟨3, 2, .ro, 1⟩, ⟨1, 0, .ro, 1⟩]
  | .mdVcoreBand => [⟨25, 16, .ro, 0⟩, ⟨9, 0, .ro, 0⟩]
  | .mdVcoreNow => [⟨25, 16, .ro, 0⟩, ⟨9, 0, .ro, 0x2ee⟩]
  | .mdAvsCtl => [⟨8, 8, .rw, 1⟩, ⟨6, 0, .rw, 0⟩]
  | .mdPace => [⟨31, 16, .ro, 0xffff⟩, ⟨15, 0, .ro, 0⟩]
  | .mdPaceFloor => [⟨15, 0, .ro, 0⟩]
  | .mdUmberRate => [⟨15, 0, .ro, 0⟩]
  | .mdPaBudget => [⟨31, 16, .ro, 0⟩, ⟨15, 0, .rw, 0⟩]
  | .mdPaWait => [⟨31, 16, .ro, 0⟩, ⟨6, 0, .ro, 0⟩]
  | .mdPaCfg => [⟨31, 16, .rw, 0x1000⟩, ⟨9, 0, .rw, 0xa⟩]
  | .mdPaLease => [⟨15, 0, .rw, 0x3e8⟩]
  | .feIsa => [⟨15, 8, .ro, 1⟩, ⟨7, 0, .ro, 4⟩]
  | .feBudgetDef => [⟨14, 0, .rw, 0x400⟩]
  | .feWaitTmo => [⟨15, 0, .rw, 0x64⟩]
  | .feLoadSrc => [⟨31, 6, .rw, 0⟩]
  | .feLoadCmd => [⟨15, 8, .wo, 0⟩, ⟨5, 4, .wo, 0⟩, ⟨3, 0, .wo, 0⟩]
  | .feLoadStatus => [⟨31, 31, .ro, 0⟩, ⟨14, 12, .ro, 0⟩, ⟨9, 8, .ro, 0⟩, ⟨3, 0, .ro, 0⟩]
  | .feSetSel => [⟨1, 0, .rw, 0⟩]
  | .feCsLayout => [⟨31, 0, .ro, 0⟩]
  | .feSetSlotState => [⟨18, 16, .ro, 0⟩, ⟨15, 0, .ro, 0⟩]
  | .feSetSlotPlace => [⟨23, 16, .ro, 0⟩, ⟨8, 0, .ro, 0⟩]
  | .feSetSlotVersion => [⟨31, 0, .ro, 0⟩]
  | .feSetSlotEpochs => [⟨31, 16, .ro, 0⟩, ⟨15, 0, .ro, 0⟩]
  | .feEngRole => [⟨2, 2, .rwl, 1⟩, ⟨1, 1, .rwl, 1⟩, ⟨0, 0, .rwl, 1⟩]
  | .feThrState => [⟨15, 0, .ro, 0⟩]
  | .feHashSeed => [⟨31, 0, .rwl, 0⟩]
  | .feRecircCfg => [⟨12, 0, .rw, 0x200⟩]
  | .feSlowCause => [⟨11, 10, .rw, 1⟩, ⟨9, 8, .rw, 0⟩, ⟨7, 6, .rw, 0⟩, ⟨5, 4, .rw, 0⟩, ⟨3, 2, .rw, 0⟩, ⟨1, 0, .rw, 0⟩]
  | .feOrderTmo => [⟨16, 0, .rw, 0x3e8⟩]
  | .feKnownEt => [⟨16, 16, .rw, 0⟩, ⟨15, 0, .rw, 0⟩]
  | .feSlowQCfg => [⟨31, 31, .rw, 1⟩, ⟨30, 30, .rw, 0⟩, ⟨27, 24, .rw, 0⟩, ⟨23, 20, .rw, 0⟩, ⟨12, 0, .rw, 0x100⟩]
  | .feSlowQRate => [⟨31, 16, .rw, 0x40⟩, ⟨15, 0, .rw, 0x64⟩]
  | .feSlowQDepth => [⟨12, 0, .ro, 0⟩]
  | .feDispCfg => [⟨31, 24, .rw, 0xff⟩, ⟨20, 20, .rw, 0⟩, ⟨19, 19, .rw, 1⟩, ⟨18, 18, .rw, 1⟩, ⟨17, 17, .rw, 1⟩, ⟨16, 16, .rw, 1⟩, ⟨10, 8, .rw, 0⟩, ⟨7, 7, .rw, 1⟩]
  | .feDispPcp => [⟨23, 0, .rw, 0xfac688⟩]
  | .clsSetMap => [⟨31, 0, .rw, 0x76543210⟩]
  | .clsSetUse => [⟨31, 16, .ro, 0⟩, ⟨15, 0, .ro, 0⟩]
  | .clsRuleSel => [⟨12, 0, .rw, 0⟩]
  | .clsRuleWin => [⟨31, 0, .rw, 0⟩, ⟨31, 0, .rw, 0⟩, ⟨31, 0, .rw, 0⟩, ⟨31, 31, .rw, 0⟩, ⟨27, 24, .rw, 0⟩, ⟨15, 0, .rw, 0⟩]
  | .tbCmd => [⟨31, 31, .ro, 0⟩, ⟨27, 24, .rw, 0⟩, ⟨19, 4, .rw, 0⟩, ⟨3, 0, .wo, 0⟩]
  | .tbCmdStatus => [⟨27, 24, .ro, 0⟩, ⟨23, 8, .ro, 0⟩, ⟨3, 0, .ro, 0⟩]
  | .tbCmdArg => [⟨25, 25, .rw, 0⟩, ⟨24, 24, .rw, 0⟩, ⟨23, 23, .rw, 0⟩, ⟨22, 22, .rw, 0⟩, ⟨21, 21, .rw, 0⟩, ⟨20, 20, .rw, 0⟩, ⟨19, 8, .rw, 0⟩, ⟨6, 0, .rw, 0⟩]
  | .tbCmdCount => [⟨16, 0, .ro, 0⟩]
  | .tbData => [⟨31, 0, .rw, 0⟩]
  | .tbBgStatus => [⟨31, 31, .ro, 0⟩, ⟨30, 30, .ro, 0⟩, ⟨29, 29, .ro, 0⟩, ⟨19, 16, .ro, 0⟩, ⟨3, 0, .ro, 0⟩]
  | .tbSeedCur => [⟨31, 0, .ro, 0⟩]
  | .tbSeedNew => [⟨31, 0, .rw, 0⟩]
  | .tbL2Cfg => [⟨31, 22, .rw, 0x64⟩, ⟨21, 18, .rw, 8⟩, ⟨14, 0, .rw, 0x3e8⟩]
  | .tbL2Hold => [⟨15, 0, .rw, 0x3e8⟩]
  | .tbV6Lens => [⟨31, 0, .ro, 0⟩]
  | .tbL2PortCfg => [⟨17, 17, .rw, 1⟩, ⟨15, 0, .rw, 0⟩]
  | .tbL2PortDyn => [⟨16, 0, .ro, 0⟩]
  | .tbCount => [⟨16, 0, .ro, 0⟩]
  | .tbLpmBlocks => [⟨31, 16, .ro, 0⟩, ⟨15, 0, .ro, 0⟩]
  | .bqReserve => [⟨18, 0, .rw, 0x2000⟩]
  | .bqFree => [⟨18, 0, .ro, 0⟩]
  | .bqMirrorCfg => [⟨31, 31, .rw, 0⟩, ⟨29, 28, .rw, 0⟩, ⟨27, 27, .rw, 0⟩, ⟨26, 20, .rw, 0⟩, ⟨19, 13, .rw, 0⟩, ⟨12, 10, .rw, 0⟩, ⟨9, 6, .rw, 0⟩, ⟨5, 2, .rw, 0⟩]
  | .bqMirrorSample => [⟨31, 16, .rw, 1⟩, ⟨13, 0, .rw, 0⟩]
  | .bqPortLimit => [⟨18, 0, .rw, 0x10000⟩]
  | .bqPortCfg => [⟨9, 8, .ro, 0⟩, ⟨7, 7, .rw, 0⟩, ⟨6, 0, .rw, 0⟩]
  | .bqQLimit => [⟨18, 0, .rw, 0x4000⟩]
  | .bqQDeLimit => [⟨18, 0, .rw, 0x2000⟩]
  | .bqQMark => [⟨18, 0, .rw, 0⟩]
  | .bqQResid => [⟨16, 0, .rw, 0x186a0⟩]
  | .hrRxBaseLo => [⟨31, 0, .rw, 0⟩]
  | .hrRxBaseHi => [⟨31, 0, .rw, 0⟩]
  | .hrRxCfg => [⟨31, 31, .rw, 0⟩, ⟨25, 24, .rw, 0⟩, ⟨23, 20, .rw, 6⟩, ⟨19, 14, .rw, 0⟩, ⟨13, 0, .rw, 0⟩]
  | .hrRxTail => [⟨15, 0, .rw, 0⟩]
  | .hrRxHead => [⟨15, 0, .ro, 0⟩]
  | .hrRxIrq => [⟨31, 16, .rw, 0⟩, ⟨15, 0, .rw, 1⟩]
  | .hrTxBaseLo => [⟨31, 0, .rw, 0⟩]
  | .hrTxBaseHi => [⟨31, 0, .rw, 0⟩]
  | .hrTxCfg => [⟨31, 31, .rw, 0⟩, ⟨30, 30, .ro, 0⟩, ⟨23, 20, .rw, 6⟩, ⟨19, 14, .rw, 0⟩]
  | .hrTxTail => [⟨15, 0, .rw, 0⟩]
  | .hrTxHead => [⟨15, 0, .ro, 0⟩]
  | .hrTxIrq => [⟨31, 16, .rw, 0⟩, ⟨15, 0, .rw, 1⟩]
  | .hrRxQ => [⟨26, 16, .ro, 0⟩, ⟨10, 0, .rw, 0x100⟩]
  | .ethMacCfg => [⟨31, 31, .rw, 1⟩, ⟨30, 30, .rw, 1⟩, ⟨29, 16, .rw, 0x2600⟩, ⟨9, 9, .rw, 0⟩, ⟨8, 8, .rw, 1⟩]
  | .ethIntf => [⟨11, 10, .rwl, 0⟩, ⟨9, 9, .rwl, 1⟩, ⟨8, 6, .rwl, 5⟩, ⟨2, 0, .rwl, 0⟩]
  | .ethLinkStatus => [⟨15, 15, .ro, 0⟩, ⟨14, 12, .ro, 0⟩, ⟨11, 11, .ro, 0⟩, ⟨10, 10, .ro, 0⟩, ⟨9, 9, .ro, 0⟩, ⟨8, 8, .ro, 0⟩, ⟨7, 7, .ro, 0⟩, ⟨6, 6, .ro, 0⟩, ⟨5, 5, .ro, 0⟩, ⟨4, 4, .ro, 0⟩]
  | .ethLinkCfg => [⟨31, 16, .rw, 0xa⟩, ⟨13, 0, .rw, 0⟩]
  | .ethPauseCfg => [⟨31, 16, .rw, 0x3e8⟩, ⟨13, 0, .rw, 0x64⟩]
  | .ethPauseState => [⟨15, 8, .ro, 0⟩, ⟨7, 0, .ro, 0⟩]
  | .ethStepCfg => [⟨31, 31, .rw, 0⟩, ⟨27, 26, .rw, 3⟩, ⟨25, 24, .rw, 0⟩, ⟨23, 16, .rw, 0x14⟩, ⟨15, 0, .rw, 0xa⟩]
  | .ethStepUp => [⟨18, 0, .rw, 0x100⟩]
  | .ethStepStatus => [⟨7, 6, .ro, 0⟩, ⟨4, 4, .ro, 0⟩, ⟨3, 0, .ro, 0⟩]
  | .ethLpiCfg => [⟨31, 31, .rw, 0⟩, ⟨25, 16, .rw, 0x32⟩, ⟨15, 0, .rw, 0x1e⟩]
  | .ethTsCorr => [⟨31, 16, .rw, 0⟩, ⟨15, 0, .rw, 0⟩]
  | .ethPreempt => [⟨31, 31, .rwl, 0⟩, ⟨30, 30, .rwl, 0⟩, ⟨29, 28, .rwl, 0⟩, ⟨23, 16, .rw, 0xa⟩, ⟨12, 10, .ro, 0⟩, ⟨9, 9, .ro, 0⟩, ⟨7, 0, .rw, 0⟩]
  | .ethGateCfg => [⟨31, 31, .rw, 0⟩, ⟨30, 30, .w1s, 0⟩, ⟨29, 29, .w1s, 0⟩, ⟨28, 28, .ro, 0⟩, ⟨27, 26, .rwl, 0⟩, ⟨25, 17, .rw, 1⟩, ⟨15, 8, .rw, 0xff⟩]
  | .ethGateStatus => [⟨24, 24, .ro, 0⟩, ⟨23, 16, .ro, 0xff⟩, ⟨8, 0, .ro, 0⟩]
  | .ethPlcaCfg => [⟨15, 8, .rwl, 8⟩, ⟨7, 0, .rwl, 0xff⟩]
  | .ethPlcaTmr => [⟨23, 16, .rwl, 0x80⟩, ⟨15, 8, .rwl, 0⟩, ⟨7, 0, .rwl, 0x20⟩]
  | .ethTxTsStat => [⟨4, 0, .ro, 0⟩]
  | .ethTxTsSeq => [⟨31, 0, .ro, 0⟩]
  | .ethTxTsInfo => [⟨14, 8, .ro, 0⟩, ⟨2, 0, .ro, 0⟩]
  | .ethTxTsLo => [⟨31, 0, .ro, 0⟩]
  | .ethTxTsHi => [⟨31, 0, .ro, 0⟩]
  | .ethTxTsPop => [⟨0, 0, .wo, 0⟩]
  | .ethSched => [⟨8, 8, .rw, 0⟩, ⟨6, 0, .rw, 1⟩]
  | .ethCbs => [⟨31, 31, .rw, 0⟩, ⟨24, 0, .rw, 0⟩]
  | .ethGateAdminBase => [⟨31, 0, .rw, 0⟩]
  | .ethGateOperBase => [⟨31, 0, .ro, 0⟩]
  | .ethGateChange => [⟨31, 0, .ro, 0⟩]
  | .ethGateAdminCycle => [⟨31, 0, .rw, 0⟩]
  | .ethGateAdminExt => [⟨31, 0, .rw, 0⟩]
  | .ethGateOperCycle => [⟨31, 0, .ro, 0⟩]
  | .ethGateOperExt => [⟨31, 0, .ro, 0⟩]
  | .ethGateOperLen => [⟨8, 0, .ro, 0⟩]
  | .ethMacAddr => [⟨31, 0, .rw, 0⟩]
  | .ethCntEvt => [⟨31, 0, .w1c, 0⟩]
  | .ethGateAdminListOp => [⟨9, 8, .rw, 0⟩, ⟨7, 0, .rw, 0xff⟩]
  | .ethGateAdminListInterval => [⟨31, 0, .rw, 0⟩]
  | .ethGateOperListOp => [⟨9, 8, .ro, 0⟩, ⟨7, 0, .ro, 0xff⟩]
  | .ethGateOperListInterval => [⟨31, 0, .ro, 0⟩]
  | .tbSgCfg => [⟨1, 0, .rw, 0⟩]
  | .tbSgBase => [⟨31, 0, .rw, 0⟩]
  | .tbSfBlocked => [⟨31, 0, .w1c, 0⟩]
  | .tbSgInvLatched => [⟨31, 0, .w1c, 0⟩]
  | .tbSgGclCtl => [⟨31, 31, .rw, 0⟩, ⟨29, 0, .rw, 0⟩]
  | .tbSgGclInterval => [⟨31, 0, .rw, 0⟩]
  | .canCtl => [⟨31, 31, .rwl, 1⟩, ⟨30, 30, .rwl, 0⟩, ⟨29, 29, .rwl, 1⟩, ⟨28, 28, .rw, 1⟩, ⟨27, 27, .w1s, 0⟩, ⟨15, 0, .rw, 0x64⟩]
  | .canBtNom => [⟨31, 27, .rwl, 1⟩, ⟨26, 19, .rwl, 0x7e⟩, ⟨18, 12, .rwl, 0x1f⟩, ⟨11, 5, .rwl, 0x1f⟩]
  | .canBtData => [⟨31, 27, .rwl, 0⟩, ⟨26, 22, .rwl, 0xe⟩, ⟨21, 18, .rwl, 3⟩, ⟨17, 14, .rwl, 3⟩]
  | .canBtXl => [⟨31, 27, .rwl, 0⟩, ⟨26, 22, .rwl, 4⟩, ⟨21, 18, .rwl, 1⟩, ⟨17, 14, .rwl, 1⟩]
  | .canTdc => [⟨31, 31, .rwl, 1⟩, ⟨30, 24, .rwl, 0xf⟩, ⟨23, 17, .rwl, 0⟩, ⟨16, 8, .ro, 0⟩]
  | .canTdcXl => [⟨31, 31, .rwl, 1⟩, ⟨30, 24, .rwl, 5⟩, ⟨23, 17, .rwl, 0⟩, ⟨16, 8, .ro, 0⟩]
  | .canXlPwm => [⟨31, 31, .rwl, 0⟩, ⟨30, 30, .rwl, 1⟩, ⟨23, 18, .rwl, 2⟩, ⟨17, 12, .rwl, 6⟩, ⟨11, 6, .rwl, 1⟩]
  | .canErr => [⟨31, 29, .ro, 0⟩, ⟨28, 26, .ro, 0⟩, ⟨25, 17, .ro, 0⟩, ⟨16, 8, .ro, 0⟩]
  | .canTxCfg => [⟨31, 24, .rw, 0xcc⟩, ⟨23, 23, .rw, 1⟩, ⟨19, 16, .rw, 0⟩, ⟨15, 8, .rw, 0⟩, ⟨7, 6, .rw, 0⟩]
  | .canTxPt => [⟨15, 0, .rw, 0x3e8⟩]
  | .canTxStatus => [⟨22, 16, .ro, 0⟩, ⟨14, 8, .ro, 0⟩, ⟨6, 0, .ro, 0⟩]
  | .canForeignLast => [⟨31, 31, .ro, 0⟩, ⟨13, 0, .ro, 0⟩]
  | .canSched => [⟨31, 31, .rw, 0⟩, ⟨13, 0, .rw, 0⟩]
  | .moWinSel => [⟨13, 0, .rw, 0⟩]
  | .moWinKey => [⟨31, 31, .rw, 0⟩, ⟨30, 29, .rw, 0⟩, ⟨28, 0, .rw, 0⟩]
  | .moWinCfg => [⟨16, 11, .rw, 0⟩, ⟨10, 10, .rw, 0⟩, ⟨9, 9, .rw, 0⟩, ⟨8, 8, .rw, 0⟩, ⟨7, 7, .rw, 0⟩, ⟨6, 0, .rw, 0⟩]
  | .moWinHdr => [⟨9, 9, .ro, 0⟩, ⟨8, 8, .ro, 0⟩, ⟨6, 0, .ro, 0⟩]
  | .moWinForeign => [⟨31, 31, .wo, 0⟩, ⟨15, 0, .ro, 0⟩]
  | .moWinPub => [⟨6, 0, .wo, 0⟩]
  | .moWinSeq => [⟨31, 0, .ro, 0⟩]
  | .moWinAck => [⟨31, 0, .wo, 0⟩]
  | .moWinTime => [⟨31, 0, .ro, 0⟩]
  | .moWinData => [⟨31, 0, .ro, 0⟩]
  | .moWinStage => [⟨31, 0, .rw, 0⟩]
  | .linCfg => [⟨31, 31, .rwl, 0⟩, ⟨30, 30, .rwl, 0⟩, ⟨29, 29, .rwl, 1⟩, ⟨28, 24, .rwl, 0xd⟩, ⟨14, 0, .rwl, 0x4b00⟩]
  | .linSchedCtl => [⟨31, 31, .w1s, 0⟩, ⟨30, 30, .w1s, 0⟩, ⟨29, 27, .rw, 0⟩]
  | .linSchedStatus => [⟨31, 31, .ro, 0⟩, ⟨30, 30, .ro, 0⟩, ⟨29, 29, .ro, 0⟩, ⟨28, 26, .ro, 0⟩, ⟨25, 20, .ro, 0⟩]
  | .linSchedSel => [⟨8, 6, .rw, 0⟩, ⟨5, 0, .rw, 0⟩]
  | .linSchedEntry => [⟨31, 29, .rw, 6⟩, ⟨28, 26, .rw, 0⟩, ⟨23, 16, .rw, 1⟩, ⟨5, 0, .rw, 0⟩]
  | .linFrame => [⟨31, 24, .ro, 0⟩, ⟨23, 23, .ro, 0⟩, ⟨8, 8, .rw, 0⟩, ⟨7, 7, .rw, 1⟩, ⟨6, 3, .rw, 8⟩, ⟨1, 0, .rw, 0⟩]
  | .linData => [⟨31, 0, .ro, 0⟩]
  | .tunCfg => [⟨6, 0, .rwl, 0x7e⟩]
  | .tunTxStreamCtl => [⟨31, 31, .rw, 0⟩, ⟨30, 30, .rw, 0⟩, ⟨29, 29, .rw, 0⟩, ⟨28, 26, .rw, 0⟩, ⟨25, 19, .rw, 0⟩, ⟨18, 17, .rw, 0⟩, ⟨15, 8, .rw, 0x10⟩]
  | .tunTxStreamAgg => [⟨31, 16, .rw, 0⟩, ⟨13, 0, .rw, 0x5dc⟩]
  | .tunTxStreamPtOff => [⟨31, 0, .rw, 0⟩]
  | .tunTxStreamDaLo => [⟨31, 0, .rw, 0⟩]
  | .tunTxStreamDaHi => [⟨31, 16, .rw, 0⟩, ⟨15, 0, .rw, 0⟩]
  | .tunTxStreamSeq => [⟨7, 0, .ro, 0⟩]
  | .tunTxStreamId => [⟨31, 0, .rw, 0⟩]
  | .tunTxBindKey => [⟨31, 31, .rw, 0⟩, ⟨30, 29, .rw, 0⟩, ⟨28, 0, .rw, 0⟩]
  | .tunTxBindMask => [⟨28, 0, .rw, 0⟩]
  | .tunTxBindDest => [⟨20, 16, .rw, 0⟩, ⟨12, 8, .rw, 0⟩, ⟨6, 0, .rw, 0⟩]
  | .tunRxStreamCtl => [⟨31, 31, .rw, 0⟩, ⟨30, 30, .rw, 0⟩]
  | .tunRxStreamId => [⟨31, 0, .rw, 0⟩]
  | .tunRxStreamPtAdj => [⟨31, 0, .rw, 0⟩]
  | .tunRxStreamBus => [⟨31, 0, .rw, 0⟩]
  | .tunRxStreamExp => [⟨7, 0, .ro, 0⟩]
  | .tmLatchCmd => [⟨0, 0, .wo, 0⟩]
  | .tmLatchRaw => [⟨31, 0, .ro, 0⟩]
  | .tmLatchDom => [⟨31, 0, .ro, 0⟩]
  | .tmConvIn => [⟨31, 0, .rw, 0⟩]
  | .tmConvCmd => [⟨31, 31, .ro, 0⟩, ⟨5, 4, .ro, 0⟩, ⟨3, 2, .rw, 0⟩, ⟨0, 0, .wo, 0⟩]
  | .tmConvOut => [⟨31, 0, .ro, 0⟩]
  | .tmDomArg => [⟨31, 0, .rw, 0⟩]
  | .tmDomCmd => [⟨31, 31, .ro, 0⟩, ⟨15, 8, .ro, 0⟩, ⟨5, 4, .ro, 0⟩, ⟨3, 0, .wo, 0⟩]
  | .tmDomInc => [⟨31, 0, .ro, 0⟩]
  | .tmTtStart => [⟨31, 0, .rw, 0⟩]
  | .tmTtPeriod => [⟨31, 0, .rw, 0⟩]
  | .tmTtTarget => [⟨31, 0, .rw, 0⟩]
  | .tmTtCtl => [⟨31, 31, .rw, 0⟩, ⟨30, 30, .ro, 0⟩, ⟨29, 28, .rw, 0⟩, ⟨27, 25, .rw, 0⟩]
  | .tmCapCfg => [⟨31, 31, .rw, 0⟩, ⟨30, 29, .rw, 1⟩, ⟨28, 27, .rw, 0⟩, ⟨7, 0, .rw, 0⟩]
  | .tmCapStat => [⟨8, 8, .ro, 0⟩, ⟨4, 4, .w1c, 0⟩, ⟨2, 0, .ro, 0⟩]
  | .tmCapHead => [⟨31, 0, .ro, 0⟩]
  | .tmCapPop => [⟨0, 0, .wo, 0⟩]
  | .cxSvcCfg => [⟨31, 24, .rwl, 0x80⟩, ⟨20, 16, .rwl, 8⟩, ⟨9, 0, .rwl, 0x2f0⟩]
  | .cxPin => [⟨31, 31, .rw, 0⟩, ⟨3, 0, .rw, 0⟩]
  | .cxCoreCfg => [⟨1, 0, .rwl, 0⟩]
  | .cxPageCfg => [⟨19, 14, .rw, 0⟩, ⟨5, 5, .rw, 0⟩, ⟨4, 4, .rw, 0⟩, ⟨3, 0, .rw, 0xf⟩]
  | .cxCtxSel => [⟨2, 0, .rw, 0⟩]
  | .cxCtxMode => [⟨31, 31, .ro, 0⟩, ⟨28, 24, .rw, 0⟩, ⟨19, 0, .rw, 0⟩]
  | .cxCtxCmd => [⟨31, 31, .ro, 0⟩, ⟨7, 4, .ro, 0⟩, ⟨1, 0, .wo, 0⟩]
  | .cxCtxAddrLo => [⟨31, 0, .rw, 0⟩]
  | .cxCtxAddrHi => [⟨31, 0, .rw, 0⟩]
  | .cxJobAad => [⟨20, 16, .rw, 0⟩, ⟨15, 0, .rw, 0⟩]
  | .cxJobCtl => [⟨31, 31, .wo, 0⟩, ⟨30, 30, .wo, 0⟩, ⟨29, 29, .wo, 0⟩, ⟨28, 28, .wo, 0⟩, ⟨27, 24, .wo, 0⟩, ⟨22, 20, .wo, 0⟩, ⟨15, 0, .wo, 0⟩]
  | .cxJobQ => [⟨4, 0, .ro, 0⟩]
  | .cxDonePop => [⟨0, 0, .wo, 0⟩]
  | .cxKsCmd => [⟨27, 16, .wo, 0⟩, ⟨15, 4, .wo, 0⟩, ⟨3, 0, .wo, 0⟩]
  | .cxKsStatus => [⟨31, 31, .ro, 0⟩, ⟨15, 8, .ro, 0⟩, ⟨3, 0, .ro, 0⟩]
  | .cxCtxState => [⟨31, 0, .rw, 0⟩]
  | .cxDone => [⟨31, 0, .ro, 0⟩]
  | .cxKsData => [⟨31, 0, .rw, 0⟩]
  | .cxJobSrcLo => [⟨31, 0, .rw, 0⟩]
  | .cxJobSrcHi => [⟨31, 0, .rw, 0⟩]
  | .cxJobLen => [⟨20, 0, .rw, 0⟩]
  | .cxJobOut => [⟨20, 0, .rw, 0⟩]
  | .cxKsAttr => [⟨31, 31, .rw, 0⟩, ⟨30, 26, .rw, 0⟩, ⟨25, 24, .rw, 0⟩, ⟨23, 23, .rw, 0⟩, ⟨22, 21, .rw, 0⟩, ⟨20, 13, .rw, 0⟩, ⟨12, 5, .rw, 0⟩]
  | .ksRoot => [⟨2, 0, .ro, 0⟩]
  | .ksKcv => [⟨31, 0, .ro, 0⟩]
  | .ksMaskCfg => [⟨10, 0, .rw, 0x40⟩]
  | .ksQuota => [⟨27, 16, .rw, 0⟩, ⟨12, 0, .rw, 0⟩]
  | .ksWrapGen => [⟨31, 16, .ro, 0⟩, ⟨15, 0, .rw, 0⟩]
  | .ksIdSeed => [⟨31, 0, .ro, 0⟩]
  | .ksSlotAttr => [⟨31, 31, .ro, 0⟩, ⟨30, 26, .ro, 0⟩, ⟨25, 24, .ro, 0⟩, ⟨23, 23, .ro, 0⟩, ⟨22, 21, .ro, 0⟩, ⟨20, 13, .ro, 0⟩, ⟨12, 5, .ro, 0⟩]
  | .ldCtl => [⟨31, 31, .rw, 0⟩, ⟨30, 30, .w1s, 0⟩]
  | .ldCfg => [⟨31, 30, .rwl, 2⟩, ⟨29, 28, .rwl, 0⟩, ⟨27, 27, .rwl, 0⟩, ⟨26, 26, .rwl, 0⟩, ⟨25, 22, .rwl, 3⟩, ⟨21, 18, .rwl, 1⟩, ⟨17, 12, .rwl, 0xa⟩, ⟨11, 11, .rw, 0⟩, ⟨10, 10, .rw, 0⟩, ⟨9, 0, .rw, 0xa⟩]
  | .ldGroups => [⟨15, 0, .rw, 0⟩]
  | .ldWire => [⟨31, 28, .rwl, 3⟩, ⟨27, 16, .rwl, 0⟩, ⟨12, 0, .rwl, 0⟩]
  | .ldStatus => [⟨31, 31, .ro, 1⟩, ⟨30, 29, .ro, 0⟩, ⟨28, 22, .ro, 0⟩, ⟨21, 19, .ro, 0⟩, ⟨18, 15, .ro, 0⟩, ⟨14, 12, .ro, 0⟩, ⟨11, 11, .ro, 0⟩, ⟨10, 10, .ro, 0⟩, ⟨9, 9, .ro, 0⟩, ⟨8, 8, .ro, 0⟩, ⟨5, 5, .w1c, 0⟩, ⟨4, 4, .w1c, 0⟩, ⟨3, 3, .w1c, 0⟩, ⟨2, 2, .w1c, 0⟩, ⟨1, 1, .w1c, 0⟩, ⟨0, 0, .w1c, 0⟩]
  | .ldSense => [⟨31, 31, .ro, 0⟩, ⟨30, 30, .ro, 0⟩, ⟨29, 28, .ro, 0⟩, ⟨13, 0, .ro, 0⟩]
  | .ldGangSense => [⟨16, 0, .ro, 0⟩]
  | .ldI2t => [⟨17, 0, .ro, 0⟩]
  | .ldTemp => [⟨15, 0, .ro, 0⟩]
  | .ldSenseTime => [⟨31, 0, .ro, 0⟩]
  | .pdGang => [⟨27, 24, .rw, 0⟩, ⟨23, 16, .rw, 0⟩, ⟨15, 0, .rw, 0⟩]
  | .pdLoc => [⟨9, 0, .rw, 0x64⟩]
  | .pdStatus => [⟨31, 31, .ro, 0⟩, ⟨30, 30, .ro, 0⟩, ⟨29, 29, .w1c, 0⟩, ⟨28, 28, .ro, 0⟩, ⟨27, 27, .ro, 0⟩]
  | .pdVbat => [⟨15, 0, .ro, 0⟩]
  | .pdAdmit => [⟨9, 0, .rw, 0xfa⟩]
  | .pdAgg => [⟨16, 0, .ro, 0⟩]
  | .pdAggWarn => [⟨16, 0, .rw, 0x9c40⟩]
  | .pdAdcSeq => [⟨31, 31, .rw, 0⟩, ⟨9, 8, .rw, 0⟩, ⟨7, 6, .rw, 0⟩, ⟨4, 0, .rw, 0⟩]
  | .pdAdcStat => [⟨31, 31, .ro, 0⟩, ⟨3, 0, .ro, 0⟩]
  | .pdProfile => [⟨31, 26, .rw, 0⟩, ⟨25, 16, .rw, 0⟩, ⟨15, 15, .rw, 0⟩, ⟨8, 0, .rw, 0⟩]
  | .bwSleepCmd => [⟨0, 0, .wo, 0⟩]
  | .bwSleepStatus => [⟨31, 31, .ro, 0⟩, ⟨30, 30, .w1c, 0⟩, ⟨2, 0, .ro, 0⟩]
  | .bwWakeSrc => [⟨31, 31, .w1c, 0⟩, ⟨27, 24, .ro, 9⟩, ⟨23, 17, .ro, 0⟩]
  | .bwSleepCur => [⟨15, 0, .ro, 0⟩]
  | .bwSegPorts => [⟨31, 0, .rw, 0⟩]
  | .bwSegCfg => [⟨31, 16, .rw, 0x40⟩, ⟨12, 12, .rw, 0⟩, ⟨11, 0, .rw, 0xa⟩]
  | .bwSegCmd => [⟨1, 0, .wo, 0⟩]
  | .bwSegStatus => [⟨31, 31, .w1c, 0⟩, ⟨29, 28, .ro, 0⟩, ⟨27, 24, .ro, 0⟩, ⟨23, 17, .ro, 0⟩, ⟨12, 0, .ro, 0⟩]
  | .bwSegRoute => [⟨31, 0, .rw, 0⟩]
  | .bwWinCfg => [⟨31, 31, .rw, 0⟩, ⟨30, 30, .rw, 0⟩, ⟨29, 29, .rw, 1⟩, ⟨12, 0, .rw, 4⟩]
  | .bwWinStorm => [⟨31, 24, .rw, 8⟩, ⟨15, 0, .rw, 0xa⟩]
  | .bwWinStuck => [⟨15, 0, .rw, 0x1e⟩]
  | .bwWinSeg => [⟨31, 0, .rw, 0⟩]
  | .bwWinStatus => [⟨31, 31, .ro, 0⟩, ⟨2, 2, .w1c, 0⟩, ⟨1, 1, .ro, 0⟩, ⟨0, 0, .w1c, 0⟩]
  | .bwCanWake => [⟨31, 31, .rw, 1⟩, ⟨23, 16, .rw, 0x14⟩, ⟨5, 0, .rw, 0xa⟩]
  | .bwSwfCfg => [⟨31, 31, .rw, 0⟩, ⟨30, 30, .rw, 0⟩, ⟨29, 29, .rw, 1⟩, ⟨28, 27, .rw, 2⟩, ⟨20, 16, .rw, 0⟩, ⟨3, 0, .rw, 0⟩]
  | .bwSwfId => [⟨28, 0, .rw, 0⟩]
  | .bwSwfIdMask => [⟨28, 0, .rw, 0⟩]
  | .bwSwfData => [⟨31, 0, .rw, 0⟩]
  | .bwLinWake => [⟨31, 31, .rw, 1⟩, ⟨30, 30, .rw, 1⟩, ⟨12, 0, .rw, 0x3e8⟩]
  | .bwT1sWake => [⟨31, 31, .rw, 1⟩, ⟨30, 30, .rw, 1⟩]
  | .hbEp => [⟨31, 31, .ro, 0⟩, ⟨30, 28, .ro, 0⟩, ⟨27, 25, .ro, 0⟩, ⟨24, 24, .ro, 0⟩, ⟨23, 20, .ro, 0⟩]
  | .hbSubsys => [⟨31, 16, .rw, 0⟩, ⟨15, 0, .rw, 0x1f3d⟩]
  | .hbFarCfg => [⟨9, 0, .rw, 0x64⟩]
  | .hbDomBind => [⟨31, 31, .ro, 0⟩, ⟨1, 0, .rw, 0⟩]
  | .hbEthHostCfg => [⟨31, 31, .rw, 0⟩, ⟨6, 0, .rw, 0⟩]
  | .hbEthHostPeerLo => [⟨31, 0, .rw, 0⟩]
  | .hbEthHostPeerHi => [⟨15, 0, .rw, 0⟩]
  | .hbFarErrLatch => [⟨31, 31, .w1c, 0⟩, ⟨27, 24, .ro, 0⟩, ⟨23, 0, .ro, 0⟩]
  | .hbFarErrSeq => [⟨31, 16, .ro, 0⟩, ⟨15, 0, .ro, 0⟩]
  | .hbFarErrNext => [⟨15, 0, .ro, 0⟩]
  | .hbAccErrRec => [⟨31, 31, .w1c, 0⟩, ⟨30, 30, .ro, 0⟩, ⟨29, 29, .ro, 0⟩, ⟨26, 24, .ro, 0⟩, ⟨23, 0, .ro, 0⟩]
  | .hbAccErrBytes => [⟨12, 0, .ro, 0⟩]
  | .hbPerm => [⟨31, 0, .rw, 0⟩]
  | .hbPermFine => [⟨31, 0, .rw, 0⟩]
  | .lsDrain => [⟨9, 0, .rw, 0x14⟩]
  | .lsPair => [⟨31, 31, .ro, 0⟩, ⟨30, 28, .ro, 0⟩, ⟨27, 27, .ro, 0⟩, ⟨25, 24, .ro, 0⟩, ⟨1, 0, .wo, 0⟩]
  | .lsFaultCfg => [⟨1, 0, .rw, 0⟩]
  | .lsFaultStatus => [⟨31, 31, .w1c, 0⟩, ⟨15, 0, .ro, 0⟩]
  | .lsSepiaCtl => [⟨31, 31, .ro, 0⟩, ⟨30, 30, .w1s, 0⟩, ⟨29, 29, .w1s, 0⟩]
  | .lsSepiaCfg => [⟨31, 31, .rw, 0⟩, ⟨20, 16, .rw, 0x1f⟩, ⟨9, 8, .rw, 3⟩]
  | .lsSepiaCause => [⟨31, 31, .ro, 0⟩, ⟨19, 16, .ro, 0⟩]
  | .lsSepiaPorts => [⟨31, 0, .rw, 0⟩]
  | .lsSepiaTrig => [⟨31, 0, .rw, 0⟩]
  | .lsSepiaTime => [⟨31, 0, .ro, 0⟩]
  | .lsWdogCfg => [⟨31, 31, .rw, 1⟩, ⟨15, 0, .rw, 0x64⟩]
  | .lsWdogKick => [⟨0, 0, .wo, 0⟩]
  | .lsThermCfg => [⟨7, 0, .rw, 0x7d⟩]
  | .monCfg => [⟨31, 31, .rw, 0⟩, ⟨30, 28, .rw, 0⟩, ⟨27, 27, .rw, 0⟩, ⟨26, 26, .rw, 0⟩, ⟨25, 25, .rw, 0⟩, ⟨23, 0, .rw, 0⟩]
  | .monBase => [⟨31, 0, .rw, 0⟩]
  | .monScale => [⟨31, 6, .rw, 1⟩, ⟨5, 0, .rw, 0⟩]
  | .monPeriod => [⟨19, 0, .rw, 0x3e8⟩]
  | .monCtl => [⟨0, 0, .wo, 0⟩]
  | .monStat => [⟨31, 31, .w1c, 0⟩, ⟨30, 30, .w1c, 0⟩]
  | .monMin => [⟨31, 0, .ro, 0xffffffff⟩]
  | .monMax => [⟨31, 0, .ro, 0⟩]
  | .monHigh => [⟨31, 0, .rw, 0xffffffff⟩]
  | .monLow => [⟨31, 0, .rw, 0⟩]
  | .evSwRaise => [⟨7, 0, .wo, 0⟩]
  | .evMcStatus => [⟨31, 0, .w1c, 0⟩]
  | .evPinStatus => [⟨31, 0, .w1c, 0⟩]
  | .evMcRoute => [⟨7, 7, .rw, 0⟩, ⟨15, 15, .rw, 0⟩, ⟨23, 23, .rw, 0⟩, ⟨31, 31, .rw, 0⟩, ⟨4, 0, .rw, 0⟩, ⟨12, 8, .rw, 0⟩, ⟨20, 16, .rw, 0⟩, ⟨28, 24, .rw, 0⟩]
  | .evPinRoute => [⟨4, 4, .rw, 0⟩, ⟨12, 12, .rw, 0⟩, ⟨20, 20, .rw, 0⟩, ⟨28, 28, .rw, 0⟩, ⟨3, 0, .rw, 0⟩, ⟨11, 8, .rw, 0⟩, ⟨19, 16, .rw, 0⟩, ⟨27, 24, .rw, 0⟩]
  | .evDetail => [⟨31, 22, .ro, 0⟩, ⟨15, 0, .ro, 0⟩]
  | .evDomStatus => [⟨31, 0, .w1c, 0⟩]
  | .evRoute => [⟨7, 7, .rw, 0⟩, ⟨15, 15, .rw, 0⟩, ⟨23, 23, .rw, 0⟩, ⟨31, 31, .rw, 0⟩, ⟨5, 0, .rw, 0⟩, ⟨13, 8, .rw, 0⟩, ⟨21, 16, .rw, 0⟩, ⟨29, 24, .rw, 0⟩]
  | .mgBootStatus => [⟨31, 31, .ro, 0⟩, ⟨30, 30, .ro, 0⟩, ⟨29, 28, .ro, 0⟩, ⟨15, 0, .ro, 0⟩]
  | .mgLifecycle => [⟨1, 0, .ro, 0⟩]
  | .mgSerial => [⟨31, 0, .ro, 0⟩]
  | .mgTemp => [⟨15, 0, .ro, 0⟩]
  | .mgSupply => [⟨15, 0, .ro, 0⟩]
  | .mgHashCtl => [⟨31, 31, .ro, 0⟩, ⟨3, 3, .w1s, 0⟩, ⟨2, 0, .rw, 0⟩]
  | .mgHashOut => [⟨31, 0, .ro, 0⟩]
  | .mgKeySet => [⟨1, 1, .ro, 0⟩, ⟨0, 0, .ro, 0⟩]
  | .mgLogStatus => [⟨31, 16, .ro, 0⟩]
  | .mgLogSeq => [⟨31, 0, .ro, 0⟩]
  | .mgLogAppend => [⟨31, 0, .rw, 0⟩]
  | .mgLogGo => [⟨0, 0, .wo, 0⟩]
  | .mgHashSrc => [⟨31, 0, .rw, 0⟩]
  | .mgHashLen => [⟨31, 0, .rw, 0⟩]
  | .mgSlotState => [⟨31, 24, .ro, 0⟩, ⟨23, 20, .ro, 0⟩, ⟨15, 15, .ro, 0⟩, ⟨14, 14, .ro, 0⟩, ⟨13, 13, .ro, 0⟩, ⟨12, 12, .ro, 0⟩]
  | .mgSlotVerA => [⟨31, 0, .ro, 0⟩]
  | .mgSlotVerB => [⟨31, 0, .ro, 0⟩]
  | .mgSlotSvn => [⟨15, 0, .ro, 0⟩]
  | .mgMboxCmd => [⟨31, 31, .w1s, 0⟩, ⟨15, 8, .rw, 0⟩, ⟨7, 0, .rw, 0⟩]
  | .mgMboxStatus => [⟨31, 31, .ro, 0⟩, ⟨15, 8, .ro, 0⟩, ⟨7, 0, .ro, 0⟩]
  | .mgMboxAddrLo => [⟨31, 0, .rw, 0⟩]
  | .mgMboxAddrHi => [⟨31, 0, .rw, 0⟩]
  | .mgMboxLen => [⟨31, 0, .rw, 0⟩]
  | .mgMboxArg => [⟨31, 0, .rw, 0⟩]
  | .mgMboxData => [⟨31, 0, .rw, 0⟩]
  | .mgRecovChunk => [⟨31, 16, .wo, 0⟩, ⟨15, 0, .wo, 0⟩]
  | .mgRecovDone => [⟨31, 0, .wo, 0⟩]
  | .mgRecovStatus => [⟨31, 31, .ro, 0⟩, ⟨7, 0, .ro, 0⟩]
  | .mgRecovWin => [⟨31, 0, .rw, 0⟩]
  | .dbgLink => [⟨31, 31, .ro, 0⟩, ⟨29, 28, .ro, 0⟩, ⟨7, 0, .ro, 0⟩]
  | .dbgHalted => [⟨31, 0, .ro, 0⟩]
  | .bwLinkStatus => [⟨31, 31, .ro, 0⟩, ⟨30, 30, .ro, 0⟩, ⟨7, 0, .ro, 0⟩]

def regPlaces0 : List (Place Reg) := [
  ⟨.idChip, 0x60, [], 0⟩,
  ⟨.idDirCount, 0x64, [], 0⟩,
  ⟨.idDirA, 0x1000, [(0x8, 1024)], 0⟩,
  ⟨.idDirB, 0x1004, [(0x8, 1024)], 0⟩,
  ⟨.idFeMap, 0x100, [(0x4, 64)], 0⟩,
  ⟨.idFeFree, 0x200, [(0x4, 3)], 0⟩,
  ⟨.idFeRetired, 0x210, [(0x4, 3)], 0⟩,
  ⟨.idAcMap, 0x300, [(0x4, 12)], 0⟩,
  ⟨.idAcFree, 0x340, [], 0⟩,
  ⟨.idAcRetired, 0x344, [], 0⟩,
  ⟨.idRowMap, 0x400, [(0x4, 16)], 0⟩,
  ⟨.epCur, 0x10060, [], 0⟩,
  ⟨.epOldest, 0x10064, [], 0⟩,
  ⟨.epCmd, 0x10070, [], 0⟩,
  ⟨.epStatus, 0x10074, [], 0⟩,
  ⟨.epCtl, 0x10078, [], 0⟩,
  ⟨.epStageTmo, 0x1007c, [], 0⟩,
  ⟨.epCommitTmo, 0x10080, [], 0⟩,
  ⟨.epSnapStatus, 0x10088, [], 0⟩,
  ⟨.epStageEntryOff, 0x11000, [(0x10, 1024)], 0⟩,
  ⟨.epStageEntryData, 0x11004, [(0x10, 1024)], 0⟩,
  ⟨.epStageEntryMask, 0x11008, [(0x10, 1024)], 0⟩,
  ⟨.epStageEntryCtl, 0x1100c, [(0x10, 1024)], 0⟩,
  ⟨.mdModeReq, 0x20060, [], 0⟩]
def regPlaces1 : List (Place Reg) := [
  ⟨.mdModeStatus, 0x20064, [], 0⟩,
  ⟨.mdVcoreBand, 0x20070, [(0x4, 3)], 0⟩,
  ⟨.mdVcoreNow, 0x20080, [], 0⟩,
  ⟨.mdAvsCtl, 0x20084, [], 0⟩,
  ⟨.mdPace, 0x20100, [(0x4, 16)], 0⟩,
  ⟨.mdPaceFloor, 0x20140, [(0x4, 3)], 0⟩,
  ⟨.mdUmberRate, 0x20150, [], 0⟩,
  ⟨.mdPaBudget, 0x20200, [(0x4, 6)], 0⟩,
  ⟨.mdPaWait, 0x20220, [(0x4, 6)], 0⟩,
  ⟨.mdPaCfg, 0x20240, [], 0⟩,
  ⟨.mdPaLease, 0x20244, [], 0⟩,
  ⟨.feIsa, 0x200060, [], 0⟩,
  ⟨.feBudgetDef, 0x200064, [], 0⟩,
  ⟨.feWaitTmo, 0x200068, [], 0⟩,
  ⟨.feLoadSrc, 0x200070, [], 0⟩,
  ⟨.feLoadCmd, 0x200074, [], 0⟩,
  ⟨.feLoadStatus, 0x200078, [], 0⟩,
  ⟨.feSetSel, 0x208060, [(0x1000, 8)], 0⟩,
  ⟨.feCsLayout, 0x208064, [(0x1000, 8)], 0⟩,
  ⟨.feSetSlotState, 0x208080, [(0x1000, 8), (0x10, 4)], 0⟩,
  ⟨.feSetSlotPlace, 0x208084, [(0x1000, 8), (0x10, 4)], 0⟩,
  ⟨.feSetSlotVersion, 0x208088, [(0x1000, 8), (0x10, 4)], 0⟩,
  ⟨.feSetSlotEpochs, 0x20808c, [(0x1000, 8), (0x10, 4)], 0⟩,
  ⟨.feEngRole, 0x210060, [(0x400, 64)], 0⟩]
def regPlaces2 : List (Place Reg) := [
  ⟨.feThrState, 0x210064, [(0x400, 64)], 0⟩,
  ⟨.feHashSeed, 0x200080, [(0x4, 2)], 0⟩,
  ⟨.feRecircCfg, 0x200090, [], 0⟩,
  ⟨.feSlowCause, 0x200094, [], 0⟩,
  ⟨.feOrderTmo, 0x200098, [], 0⟩,
  ⟨.feKnownEt, 0x2000a0, [(0x4, 8)], 0⟩,
  ⟨.feSlowQCfg, 0x200400, [(0x40, 4)], 0⟩,
  ⟨.feSlowQRate, 0x200404, [(0x40, 4)], 0⟩,
  ⟨.feSlowQDepth, 0x200408, [(0x40, 4)], 0⟩,
  ⟨.feDispCfg, 0x202000, [(0x40, 96)], 0⟩,
  ⟨.feDispPcp, 0x202004, [(0x40, 96)], 0⟩,
  ⟨.clsSetMap, 0x280060, [(0x4, 2)], 0⟩,
  ⟨.clsSetUse, 0x280068, [], 0⟩,
  ⟨.clsRuleSel, 0x280070, [], 0⟩,
  ⟨.clsRuleWin, 0x280100, [(0x4, 35)], 0⟩,
  ⟨.tbCmd, 0x2c0100, [(0x100, 2)], 0⟩,
  ⟨.tbCmdStatus, 0x2c0104, [(0x100, 2)], 0⟩,
  ⟨.tbCmdArg, 0x2c0108, [(0x100, 2)], 0⟩,
  ⟨.tbCmdCount, 0x2c010c, [(0x100, 2)], 0⟩,
  ⟨.tbData, 0x2c0140, [(0x100, 2), (0x4, 16)], 0⟩,
  ⟨.tbBgStatus, 0x2c0300, [(0x4, 10)], 0⟩,
  ⟨.tbSeedCur, 0x2c0400, [(0x20, 3), (0x4, 4)], 0⟩,
  ⟨.tbSeedNew, 0x2c0410, [(0x20, 3), (0x4, 4)], 0⟩,
  ⟨.tbL2Cfg, 0x2c0060, [], 0⟩]
def regPlaces3 : List (Place Reg) := [
  ⟨.tbL2Hold, 0x2c0064, [], 0⟩,
  ⟨.tbV6Lens, 0x2c0068, [], 0⟩,
  ⟨.tbL2PortCfg, 0x2c0500, [(0x4, 25)], 0⟩,
  ⟨.tbL2PortDyn, 0x2c0580, [(0x4, 25)], 0⟩,
  ⟨.tbCount, 0x2c0600, [(0x4, 10)], 0⟩,
  ⟨.tbLpmBlocks, 0x2c0640, [(0x4, 8)], 0⟩,
  ⟨.bqReserve, 0x300060, [], 0⟩,
  ⟨.bqFree, 0x300064, [], 0⟩,
  ⟨.bqMirrorCfg, 0x301000, [(0x40, 8)], 0⟩,
  ⟨.bqMirrorSample, 0x301004, [(0x40, 8)], 0⟩,
  ⟨.bqPortLimit, 0x310000, [(0x1000, 96)], 0⟩,
  ⟨.bqPortCfg, 0x310004, [(0x1000, 96)], 0⟩,
  ⟨.bqQLimit, 0x310100, [(0x1000, 96), (0x100, 8)], 0⟩,
  ⟨.bqQDeLimit, 0x310104, [(0x1000, 96), (0x100, 8)], 0⟩,
  ⟨.bqQMark, 0x310108, [(0x1000, 96), (0x100, 8)], 0⟩,
  ⟨.bqQResid, 0x31010c, [(0x1000, 96), (0x100, 8)], 0⟩,
  ⟨.hrRxBaseLo, 0x90100, [(0x1000, 16), (0x40, 16)], 0⟩,
  ⟨.hrRxBaseLo, 0x74100, [(0x40, 16)], 256⟩,
  ⟨.hrRxBaseHi, 0x90104, [(0x1000, 16), (0x40, 16)], 0⟩,
  ⟨.hrRxBaseHi, 0x74104, [(0x40, 16)], 256⟩,
  ⟨.hrRxCfg, 0x90108, [(0x1000, 16), (0x40, 16)], 0⟩,
  ⟨.hrRxCfg, 0x74108, [(0x40, 16)], 256⟩,
  ⟨.hrRxTail, 0x90110, [(0x1000, 16), (0x40, 16)], 0⟩,
  ⟨.hrRxTail, 0x74110, [(0x40, 16)], 256⟩]
def regPlaces4 : List (Place Reg) := [
  ⟨.hrRxHead, 0x90114, [(0x1000, 16), (0x40, 16)], 0⟩,
  ⟨.hrRxHead, 0x74114, [(0x40, 16)], 256⟩,
  ⟨.hrRxIrq, 0x90118, [(0x1000, 16), (0x40, 16)], 0⟩,
  ⟨.hrRxIrq, 0x74118, [(0x40, 16)], 256⟩,
  ⟨.hrTxBaseLo, 0x90500, [(0x1000, 16), (0x40, 16)], 0⟩,
  ⟨.hrTxBaseLo, 0x74500, [(0x40, 16)], 256⟩,
  ⟨.hrTxBaseHi, 0x90504, [(0x1000, 16), (0x40, 16)], 0⟩,
  ⟨.hrTxBaseHi, 0x74504, [(0x40, 16)], 256⟩,
  ⟨.hrTxCfg, 0x90508, [(0x1000, 16), (0x40, 16)], 0⟩,
  ⟨.hrTxCfg, 0x74508, [(0x40, 16)], 256⟩,
  ⟨.hrTxTail, 0x90510, [(0x1000, 16), (0x40, 16)], 0⟩,
  ⟨.hrTxTail, 0x74510, [(0x40, 16)], 256⟩,
  ⟨.hrTxHead, 0x90514, [(0x1000, 16), (0x40, 16)], 0⟩,
  ⟨.hrTxHead, 0x74514, [(0x40, 16)], 256⟩,
  ⟨.hrTxIrq, 0x90518, [(0x1000, 16), (0x40, 16)], 0⟩,
  ⟨.hrTxIrq, 0x74518, [(0x40, 16)], 256⟩,
  ⟨.hrRxQ, 0x9010c, [(0x1000, 16), (0x40, 16)], 0⟩,
  ⟨.hrRxQ, 0x7410c, [(0x40, 16)], 256⟩,
  ⟨.ethMacCfg, 0x100060, [(0x2000, 20)], 0⟩,
  ⟨.ethIntf, 0x100064, [(0x2000, 20)], 0⟩,
  ⟨.ethLinkStatus, 0x100068, [(0x2000, 20)], 0⟩,
  ⟨.ethLinkCfg, 0x10006c, [(0x2000, 20)], 0⟩,
  ⟨.ethPauseCfg, 0x100070, [(0x2000, 20)], 0⟩,
  ⟨.ethPauseState, 0x100074, [(0x2000, 20)], 0⟩]
def regPlaces5 : List (Place Reg) := [
  ⟨.ethStepCfg, 0x100078, [(0x2000, 20)], 0⟩,
  ⟨.ethStepUp, 0x10007c, [(0x2000, 20)], 0⟩,
  ⟨.ethStepStatus, 0x100080, [(0x2000, 20)], 0⟩,
  ⟨.ethLpiCfg, 0x100084, [(0x2000, 20)], 0⟩,
  ⟨.ethTsCorr, 0x100094, [(0x2000, 20)], 0⟩,
  ⟨.ethPreempt, 0x100100, [(0x2000, 20)], 0⟩,
  ⟨.ethGateCfg, 0x100120, [(0x2000, 20)], 0⟩,
  ⟨.ethGateStatus, 0x100164, [(0x2000, 20)], 0⟩,
  ⟨.ethPlcaCfg, 0x100088, [(0x2000, 20)], 0⟩,
  ⟨.ethPlcaTmr, 0x10008c, [(0x2000, 20)], 0⟩,
  ⟨.ethTxTsStat, 0x100098, [(0x2000, 20)], 0⟩,
  ⟨.ethTxTsSeq, 0x10009c, [(0x2000, 20)], 0⟩,
  ⟨.ethTxTsInfo, 0x1000a0, [(0x2000, 20)], 0⟩,
  ⟨.ethTxTsLo, 0x1000a8, [(0x2000, 20)], 0⟩,
  ⟨.ethTxTsHi, 0x1000ac, [(0x2000, 20)], 0⟩,
  ⟨.ethTxTsPop, 0x1000b0, [(0x2000, 20)], 0⟩,
  ⟨.ethSched, 0x1000c0, [(0x2000, 20), (0x4, 8)], 0⟩,
  ⟨.ethCbs, 0x1000e0, [(0x2000, 20), (0x4, 8)], 0⟩,
  ⟨.ethGateAdminBase, 0x100124, [(0x2000, 20), (0x4, 3)], 0⟩,
  ⟨.ethGateOperBase, 0x100140, [(0x2000, 20), (0x4, 3)], 0⟩,
  ⟨.ethGateChange, 0x100158, [(0x2000, 20), (0x4, 3)], 0⟩,
  ⟨.ethGateAdminCycle, 0x100130, [(0x2000, 20)], 0⟩,
  ⟨.ethGateAdminExt, 0x100134, [(0x2000, 20)], 0⟩,
  ⟨.ethGateOperCycle, 0x10014c, [(0x2000, 20)], 0⟩]
def regPlaces6 : List (Place Reg) := [
  ⟨.ethGateOperExt, 0x100150, [(0x2000, 20)], 0⟩,
  ⟨.ethGateOperLen, 0x100154, [(0x2000, 20)], 0⟩,
  ⟨.ethMacAddr, 0x100168, [(0x2000, 20), (0x4, 2)], 0⟩,
  ⟨.ethCntEvt, 0x100170, [(0x2000, 20), (0x4, 3)], 0⟩,
  ⟨.ethGateAdminListOp, 0x101000, [(0x2000, 20), (0x8, 256)], 0⟩,
  ⟨.ethGateAdminListInterval, 0x101004, [(0x2000, 20), (0x8, 256)], 0⟩,
  ⟨.ethGateOperListOp, 0x101800, [(0x2000, 20), (0x8, 256)], 0⟩,
  ⟨.ethGateOperListInterval, 0x101804, [(0x2000, 20), (0x8, 256)], 0⟩,
  ⟨.tbSgCfg, 0x2c0a0c, [], 0⟩,
  ⟨.tbSgBase, 0x2c0a00, [(0x4, 3)], 0⟩,
  ⟨.tbSfBlocked, 0x2c0c00, [(0x4, 64)], 0⟩,
  ⟨.tbSgInvLatched, 0x2c0d00, [(0x4, 32)], 0⟩,
  ⟨.tbSgGclCtl, 0x2c4000, [(0x8, 4096)], 0⟩,
  ⟨.tbSgGclInterval, 0x2c4004, [(0x8, 4096)], 0⟩,
  ⟨.canCtl, 0x140060, [(0x800, 48)], 0⟩,
  ⟨.canBtNom, 0x140064, [(0x800, 48)], 0⟩,
  ⟨.canBtData, 0x140068, [(0x800, 48)], 0⟩,
  ⟨.canBtXl, 0x14006c, [(0x800, 48)], 0⟩,
  ⟨.canTdc, 0x140070, [(0x800, 48)], 0⟩,
  ⟨.canTdcXl, 0x140074, [(0x800, 48)], 0⟩,
  ⟨.canXlPwm, 0x140078, [(0x800, 48)], 0⟩,
  ⟨.canErr, 0x14007c, [(0x800, 48)], 0⟩,
  ⟨.canTxCfg, 0x140080, [(0x800, 48)], 0⟩,
  ⟨.canTxPt, 0x140084, [(0x800, 48)], 0⟩]
def regPlaces7 : List (Place Reg) := [
  ⟨.canTxStatus, 0x140088, [(0x800, 48)], 0⟩,
  ⟨.canForeignLast, 0x14008c, [(0x800, 48)], 0⟩,
  ⟨.canSched, 0x1400a0, [(0x800, 48), (0x4, 8)], 0⟩,
  ⟨.moWinSel, 0x161000, [(0x100, 17)], 0⟩,
  ⟨.moWinKey, 0x161004, [(0x100, 17)], 0⟩,
  ⟨.moWinCfg, 0x161008, [(0x100, 17)], 0⟩,
  ⟨.moWinHdr, 0x16100c, [(0x100, 17)], 0⟩,
  ⟨.moWinForeign, 0x161018, [(0x100, 17)], 0⟩,
  ⟨.moWinPub, 0x16101c, [(0x100, 17)], 0⟩,
  ⟨.moWinSeq, 0x161010, [(0x100, 17)], 0⟩,
  ⟨.moWinAck, 0x161014, [(0x100, 17)], 0⟩,
  ⟨.moWinTime, 0x161020, [(0x100, 17), (0x4, 2)], 0⟩,
  ⟨.moWinData, 0x161040, [(0x100, 17), (0x4, 16)], 0⟩,
  ⟨.moWinStage, 0x161080, [(0x100, 17), (0x4, 16)], 0⟩,
  ⟨.linCfg, 0x170060, [(0x400, 16)], 0⟩,
  ⟨.linSchedCtl, 0x170064, [(0x400, 16)], 0⟩,
  ⟨.linSchedStatus, 0x170068, [(0x400, 16)], 0⟩,
  ⟨.linSchedSel, 0x17006c, [(0x400, 16)], 0⟩,
  ⟨.linSchedEntry, 0x170070, [(0x400, 16)], 0⟩,
  ⟨.linFrame, 0x170100, [(0x400, 16), (0x4, 64)], 0⟩,
  ⟨.linData, 0x170200, [(0x400, 16), (0x8, 64), (0x4, 2)], 0⟩,
  ⟨.tunCfg, 0x180060, [], 0⟩,
  ⟨.tunTxStreamCtl, 0x181000, [(0x40, 32)], 0⟩,
  ⟨.tunTxStreamAgg, 0x181004, [(0x40, 32)], 0⟩]
def regPlaces8 : List (Place Reg) := [
  ⟨.tunTxStreamPtOff, 0x181008, [(0x40, 32)], 0⟩,
  ⟨.tunTxStreamDaLo, 0x18100c, [(0x40, 32)], 0⟩,
  ⟨.tunTxStreamDaHi, 0x181010, [(0x40, 32)], 0⟩,
  ⟨.tunTxStreamSeq, 0x18101c, [(0x40, 32)], 0⟩,
  ⟨.tunTxStreamId, 0x181014, [(0x40, 32), (0x4, 2)], 0⟩,
  ⟨.tunTxBindKey, 0x182000, [(0x10, 64)], 0⟩,
  ⟨.tunTxBindMask, 0x182004, [(0x10, 64)], 0⟩,
  ⟨.tunTxBindDest, 0x182008, [(0x10, 64)], 0⟩,
  ⟨.tunRxStreamCtl, 0x183000, [(0x40, 16)], 0⟩,
  ⟨.tunRxStreamId, 0x183004, [(0x40, 16), (0x4, 2)], 0⟩,
  ⟨.tunRxStreamPtAdj, 0x18300c, [(0x40, 16)], 0⟩,
  ⟨.tunRxStreamBus, 0x183010, [(0x40, 16), (0x4, 8)], 0⟩,
  ⟨.tunRxStreamExp, 0x183030, [(0x40, 16)], 0⟩,
  ⟨.tmLatchCmd, 0x40060, [], 0⟩,
  ⟨.tmLatchRaw, 0x40064, [(0x4, 3)], 0⟩,
  ⟨.tmLatchDom, 0x40070, [(0x10, 4), (0x4, 3)], 0⟩,
  ⟨.tmConvIn, 0x400b0, [(0x4, 2)], 0⟩,
  ⟨.tmConvCmd, 0x400b8, [], 0⟩,
  ⟨.tmConvOut, 0x400c0, [(0x4, 3)], 0⟩,
  ⟨.tmDomArg, 0x40100, [(0x40, 4), (0x4, 3)], 0⟩,
  ⟨.tmDomCmd, 0x4010c, [(0x40, 4)], 0⟩,
  ⟨.tmDomInc, 0x40110, [(0x40, 4), (0x4, 2)], 0⟩,
  ⟨.tmTtStart, 0x41000, [(0x20, 32), (0x4, 2)], 0⟩,
  ⟨.tmTtPeriod, 0x41008, [(0x20, 32)], 0⟩]
def regPlaces9 : List (Place Reg) := [
  ⟨.tmTtTarget, 0x4100c, [(0x20, 32)], 0⟩,
  ⟨.tmTtCtl, 0x41010, [(0x20, 32)], 0⟩,
  ⟨.tmCapCfg, 0x43000, [(0x40, 8)], 0⟩,
  ⟨.tmCapStat, 0x43004, [(0x40, 8)], 0⟩,
  ⟨.tmCapHead, 0x43008, [(0x40, 8), (0x4, 4)], 0⟩,
  ⟨.tmCapPop, 0x43018, [(0x40, 8)], 0⟩,
  ⟨.cxSvcCfg, 0x380060, [], 0⟩,
  ⟨.cxPin, 0x380064, [], 0⟩,
  ⟨.cxCoreCfg, 0x382060, [(0x100, 12)], 0⟩,
  ⟨.cxPageCfg, 0x390060, [(0x1000, 20)], 0⟩,
  ⟨.cxCtxSel, 0x390064, [(0x1000, 20)], 0⟩,
  ⟨.cxCtxMode, 0x390068, [(0x1000, 20)], 0⟩,
  ⟨.cxCtxCmd, 0x39006c, [(0x1000, 20)], 0⟩,
  ⟨.cxCtxAddrLo, 0x390070, [(0x1000, 20)], 0⟩,
  ⟨.cxCtxAddrHi, 0x390074, [(0x1000, 20)], 0⟩,
  ⟨.cxJobAad, 0x390110, [(0x1000, 20)], 0⟩,
  ⟨.cxJobCtl, 0x390114, [(0x1000, 20)], 0⟩,
  ⟨.cxJobQ, 0x390118, [(0x1000, 20)], 0⟩,
  ⟨.cxDonePop, 0x390130, [(0x1000, 20)], 0⟩,
  ⟨.cxKsCmd, 0x390200, [(0x1000, 20)], 0⟩,
  ⟨.cxKsStatus, 0x390208, [(0x1000, 20)], 0⟩,
  ⟨.cxCtxState, 0x390080, [(0x1000, 20), (0x4, 32)], 0⟩,
  ⟨.cxDone, 0x390120, [(0x1000, 20), (0x4, 4)], 0⟩,
  ⟨.cxKsData, 0x390240, [(0x1000, 20), (0x4, 16)], 0⟩]
def regPlaces10 : List (Place Reg) := [
  ⟨.cxJobSrcLo, 0x390100, [(0x1000, 20)], 0⟩,
  ⟨.cxJobSrcHi, 0x390104, [(0x1000, 20)], 0⟩,
  ⟨.cxJobLen, 0x390108, [(0x1000, 20)], 0⟩,
  ⟨.cxJobOut, 0x39010c, [(0x1000, 20)], 0⟩,
  ⟨.cxKsAttr, 0x390204, [(0x1000, 20)], 0⟩,
  ⟨.ksRoot, 0x3c0060, [], 0⟩,
  ⟨.ksKcv, 0x3c0064, [], 0⟩,
  ⟨.ksMaskCfg, 0x3c0068, [], 0⟩,
  ⟨.ksQuota, 0x3c0100, [(0x4, 18)], 0⟩,
  ⟨.ksWrapGen, 0x3c0180, [(0x4, 17)], 0⟩,
  ⟨.ksIdSeed, 0x3c0200, [(0x4, 16)], 0⟩,
  ⟨.ksSlotAttr, 0x3c4000, [(0x4, 4096)], 0⟩,
  ⟨.ldCtl, 0x400060, [(0x100, 96)], 0⟩,
  ⟨.ldCfg, 0x400064, [(0x100, 96)], 0⟩,
  ⟨.ldGroups, 0x400068, [(0x100, 96)], 0⟩,
  ⟨.ldWire, 0x40006c, [(0x100, 96)], 0⟩,
  ⟨.ldStatus, 0x400070, [(0x100, 96)], 0⟩,
  ⟨.ldSense, 0x400074, [(0x100, 96)], 0⟩,
  ⟨.ldGangSense, 0x400080, [(0x100, 96)], 0⟩,
  ⟨.ldI2t, 0x400084, [(0x100, 96)], 0⟩,
  ⟨.ldTemp, 0x400088, [(0x100, 96)], 0⟩,
  ⟨.ldSenseTime, 0x400078, [(0x100, 96), (0x4, 2)], 0⟩,
  ⟨.pdGang, 0x410060, [(0x10000, 3)], 0⟩,
  ⟨.pdLoc, 0x410064, [(0x10000, 3)], 0⟩]
def regPlaces11 : List (Place Reg) := [
  ⟨.pdStatus, 0x410068, [(0x10000, 3)], 0⟩,
  ⟨.pdVbat, 0x41006c, [(0x10000, 3)], 0⟩,
  ⟨.pdAdmit, 0x410074, [(0x10000, 3)], 0⟩,
  ⟨.pdAgg, 0x410070, [(0x10000, 3)], 0⟩,
  ⟨.pdAggWarn, 0x410078, [(0x10000, 3)], 0⟩,
  ⟨.pdAdcSeq, 0x410100, [(0x10000, 3), (0x40, 4), (0x4, 16)], 0⟩,
  ⟨.pdAdcStat, 0x410200, [(0x10000, 3), (0x4, 4)], 0⟩,
  ⟨.pdProfile, 0x410400, [(0x10000, 3), (0x20, 16), (0x4, 8)], 0⟩,
  ⟨.bwSleepCmd, 0x440060, [], 0⟩,
  ⟨.bwSleepStatus, 0x440064, [], 0⟩,
  ⟨.bwWakeSrc, 0x440068, [], 0⟩,
  ⟨.bwSleepCur, 0x44006c, [], 0⟩,
  ⟨.bwSegPorts, 0x441000, [(0x40, 32), (0x4, 3)], 0⟩,
  ⟨.bwSegCfg, 0x44100c, [(0x40, 32)], 0⟩,
  ⟨.bwSegCmd, 0x441010, [(0x40, 32)], 0⟩,
  ⟨.bwSegStatus, 0x441014, [(0x40, 32)], 0⟩,
  ⟨.bwSegRoute, 0x441018, [(0x40, 32), (0x4, 6)], 0⟩,
  ⟨.bwWinCfg, 0x442000, [(0x20, 8)], 0⟩,
  ⟨.bwWinStorm, 0x442004, [(0x20, 8)], 0⟩,
  ⟨.bwWinStuck, 0x442008, [(0x20, 8)], 0⟩,
  ⟨.bwWinSeg, 0x44200c, [(0x20, 8)], 0⟩,
  ⟨.bwWinStatus, 0x442010, [(0x20, 8)], 0⟩,
  ⟨.bwCanWake, 0x443000, [(0x10, 32)], 0⟩,
  ⟨.bwSwfCfg, 0x444000, [(0x40, 8)], 0⟩]
def regPlaces12 : List (Place Reg) := [
  ⟨.bwSwfId, 0x444004, [(0x40, 8)], 0⟩,
  ⟨.bwSwfIdMask, 0x444008, [(0x40, 8)], 0⟩,
  ⟨.bwSwfData, 0x44400c, [(0x40, 8), (0x4, 2)], 0⟩,
  ⟨.bwLinWake, 0x445000, [(0x4, 16)], 0⟩,
  ⟨.bwT1sWake, 0x445040, [(0x4, 8)], 0⟩,
  ⟨.hbEp, 0x80060, [(0x4, 2)], 0⟩,
  ⟨.hbSubsys, 0x80068, [], 0⟩,
  ⟨.hbFarCfg, 0x8006c, [], 0⟩,
  ⟨.hbDomBind, 0x80080, [(0x4, 16)], 0⟩,
  ⟨.hbEthHostCfg, 0x800c0, [(0x10, 2)], 0⟩,
  ⟨.hbEthHostPeerLo, 0x800c4, [(0x10, 2)], 0⟩,
  ⟨.hbEthHostPeerHi, 0x800c8, [(0x10, 2)], 0⟩,
  ⟨.hbFarErrLatch, 0x81000, [(0x100, 16), (0x10, 7)], 0⟩,
  ⟨.hbFarErrSeq, 0x81004, [(0x100, 16), (0x10, 7)], 0⟩,
  ⟨.hbFarErrNext, 0x81008, [(0x100, 16), (0x10, 7)], 0⟩,
  ⟨.hbAccErrRec, 0x81080, [(0x100, 16)], 0⟩,
  ⟨.hbAccErrBytes, 0x81084, [(0x100, 16)], 0⟩,
  ⟨.hbPerm, 0x84000, [(0x400, 16), (0x4, 256)], 0⟩,
  ⟨.hbPermFine, 0x88000, [(0x200, 16), (0x4, 80)], 0⟩,
  ⟨.lsDrain, 0x60060, [], 0⟩,
  ⟨.lsPair, 0x60080, [(0x4, 33)], 0⟩,
  ⟨.lsFaultCfg, 0x60140, [(0x4, 16)], 0⟩,
  ⟨.lsFaultStatus, 0x60180, [(0x4, 16)], 0⟩,
  ⟨.lsSepiaCtl, 0x60200, [], 0⟩]
def regPlaces13 : List (Place Reg) := [
  ⟨.lsSepiaCfg, 0x60204, [], 0⟩,
  ⟨.lsSepiaCause, 0x60208, [], 0⟩,
  ⟨.lsSepiaPorts, 0x60210, [(0x4, 3)], 0⟩,
  ⟨.lsSepiaTrig, 0x6021c, [], 0⟩,
  ⟨.lsSepiaTime, 0x60220, [(0x4, 2)], 0⟩,
  ⟨.lsWdogCfg, 0x60300, [], 0⟩,
  ⟨.lsWdogKick, 0x60304, [], 0⟩,
  ⟨.lsThermCfg, 0x60308, [], 0⟩,
  ⟨.monCfg, 0x51000, [(0x40, 64)], 0⟩,
  ⟨.monBase, 0x51004, [(0x40, 64)], 0⟩,
  ⟨.monScale, 0x51008, [(0x40, 64)], 0⟩,
  ⟨.monPeriod, 0x5100c, [(0x40, 64)], 0⟩,
  ⟨.monCtl, 0x51020, [(0x40, 64)], 0⟩,
  ⟨.monStat, 0x51024, [(0x40, 64)], 0⟩,
  ⟨.monMin, 0x51010, [(0x40, 64)], 0⟩,
  ⟨.monMax, 0x51014, [(0x40, 64)], 0⟩,
  ⟨.monHigh, 0x51018, [(0x40, 64)], 0⟩,
  ⟨.monLow, 0x5101c, [(0x40, 64)], 0⟩,
  ⟨.evSwRaise, 0x30060, [], 0⟩,
  ⟨.evMcStatus, 0x30100, [(0x4, 8)], 0⟩,
  ⟨.evPinStatus, 0x30120, [(0x4, 8)], 0⟩,
  ⟨.evMcRoute, 0x30200, [(0x4, 64)], 0⟩,
  ⟨.evPinRoute, 0x30300, [(0x4, 64)], 0⟩,
  ⟨.evDetail, 0x30400, [(0x4, 256)], 0⟩]
def regPlaces14 : List (Place Reg) := [
  ⟨.evDomStatus, 0x30800, [(0x4, 8)], 0⟩,
  ⟨.evDomStatus, 0x31000, [(0x1000, 15), (0x4, 8)], 8⟩,
  ⟨.evRoute, 0x30900, [(0x4, 64)], 0⟩,
  ⟨.evRoute, 0x31100, [(0x1000, 15), (0x4, 64)], 64⟩,
  ⟨.mgBootStatus, 0x70060, [], 0⟩,
  ⟨.mgLifecycle, 0x70064, [], 0⟩,
  ⟨.mgSerial, 0x70068, [(0x4, 2)], 0⟩,
  ⟨.mgTemp, 0x70100, [(0x4, 24)], 0⟩,
  ⟨.mgSupply, 0x70180, [(0x4, 16)], 0⟩,
  ⟨.mgHashCtl, 0x70200, [], 0⟩,
  ⟨.mgHashOut, 0x70240, [(0x4, 16)], 0⟩,
  ⟨.mgKeySet, 0x70500, [(0x4, 4)], 0⟩,
  ⟨.mgLogStatus, 0x70600, [], 0⟩,
  ⟨.mgLogSeq, 0x70604, [], 0⟩,
  ⟨.mgLogAppend, 0x70620, [(0x4, 6)], 0⟩,
  ⟨.mgLogGo, 0x70638, [], 0⟩,
  ⟨.mgHashSrc, 0x70204, [], 0⟩,
  ⟨.mgHashLen, 0x70208, [], 0⟩,
  ⟨.mgSlotState, 0x70400, [(0x10, 16)], 0⟩,
  ⟨.mgSlotVerA, 0x70404, [(0x10, 16)], 0⟩,
  ⟨.mgSlotVerB, 0x70408, [(0x10, 16)], 0⟩,
  ⟨.mgSlotSvn, 0x7040c, [(0x10, 16)], 0⟩,
  ⟨.mgMboxCmd, 0x71000, [(0x100, 16)], 0⟩,
  ⟨.mgMboxStatus, 0x71004, [(0x100, 16)], 0⟩]
def regPlaces15 : List (Place Reg) := [
  ⟨.mgMboxAddrLo, 0x71008, [(0x100, 16)], 0⟩,
  ⟨.mgMboxAddrHi, 0x7100c, [(0x100, 16)], 0⟩,
  ⟨.mgMboxLen, 0x71010, [(0x100, 16)], 0⟩,
  ⟨.mgMboxArg, 0x71014, [(0x100, 16)], 0⟩,
  ⟨.mgMboxData, 0x71040, [(0x100, 16), (0x4, 16)], 0⟩,
  ⟨.mgRecovChunk, 0x77000, [], 0⟩,
  ⟨.mgRecovDone, 0x77004, [], 0⟩,
  ⟨.mgRecovStatus, 0x77008, [], 0⟩,
  ⟨.mgRecovWin, 0x78000, [(0x4, 8192)], 0⟩,
  ⟨.dbgLink, 0x480060, [], 0⟩,
  ⟨.dbgHalted, 0x480064, [(0x4, 3)], 0⟩,
  ⟨.bwLinkStatus, 0x460060, [(0x1000, 4)], 0⟩]
/-- Offsets of every register outside the unit headers. -/
def regPlaces : List (Place Reg) :=
  regPlaces0 ++ regPlaces1 ++ regPlaces2 ++ regPlaces3 ++ regPlaces4 ++ regPlaces5 ++ regPlaces6 ++ regPlaces7 ++ regPlaces8 ++ regPlaces9 ++ regPlaces10 ++ regPlaces11 ++ regPlaces12 ++ regPlaces13 ++ regPlaces14 ++ regPlaces15

def ctrPlaces0 : List (Place Ctr) := [
  ⟨.mdPaDeferred, 0x20250, [], 0⟩,
  ⟨.mdPaDenied, 0x20260, [], 0⟩,
  ⟨.mdPaReclaimed, 0x20270, [], 0⟩,
  ⟨.feExc, 0x200100, [(0x10, 16)], 0⟩,
  ⟨.feProgCnt, 0x220000, [(0x10, 1024)], 0⟩,
  ⟨.feEccCorr, 0x2080c0, [(0x1000, 8)], 0⟩,
  ⟨.feEngInstr, 0x210080, [(0x400, 64)], 0⟩,
  ⟨.feEngJobs, 0x210090, [(0x400, 64)], 0⟩,
  ⟨.feRecircIn, 0x2000c0, [], 0⟩,
  ⟨.feRecircDrop, 0x2000d0, [], 0⟩,
  ⟨.feOrderExpired, 0x2000e0, [], 0⟩,
  ⟨.feDropRsn, 0x201000, [(0x10, 256)], 0⟩,
  ⟨.feSlowIn, 0x200410, [(0x40, 4)], 0⟩,
  ⟨.feSlowDrop, 0x200420, [(0x40, 4)], 0⟩,
  ⟨.feDispIn, 0x202010, [(0x40, 96)], 0⟩,
  ⟨.feDispDrop, 0x202020, [(0x40, 96)], 0⟩,
  ⟨.feDispSlow, 0x202030, [(0x40, 96)], 0⟩,
  ⟨.clsRuleHits, 0x2a0000, [(0x10, 8192)], 0⟩,
  ⟨.tbLearnNew, 0x2c0800, [], 0⟩,
  ⟨.tbLearnMove, 0x2c0810, [], 0⟩,
  ⟨.tbLearnFlap, 0x2c0820, [], 0⟩,
  ⟨.tbLearnStale, 0x2c0830, [], 0⟩,
  ⟨.tbLearnLocked, 0x2c0840, [], 0⟩,
  ⟨.tbLearnStatic, 0x2c0850, [], 0⟩]
def ctrPlaces1 : List (Place Ctr) := [
  ⟨.tbLearnLimit, 0x2c0860, [], 0⟩,
  ⟨.tbLearnOvf, 0x2c0870, [], 0⟩,
  ⟨.tbLockOvf, 0x2c0880, [], 0⟩,
  ⟨.tbAged, 0x2c0890, [], 0⟩,
  ⟨.tbNoRoom, 0x2c08a0, [], 0⟩,
  ⟨.tbPortFlushed, 0x2c08b0, [], 0⟩,
  ⟨.tbEccCorr, 0x2c08c0, [], 0⟩,
  ⟨.tbEccUncorr, 0x2c08d0, [], 0⟩,
  ⟨.bqGlobalFull, 0x300100, [], 0⟩,
  ⟨.bqEccCorr, 0x300110, [], 0⟩,
  ⟨.bqEccUncorr, 0x300120, [], 0⟩,
  ⟨.bqMirCopies, 0x301010, [(0x40, 8)], 0⟩,
  ⟨.bqMirDrop, 0x301020, [(0x40, 8)], 0⟩,
  ⟨.bqMirSkipped, 0x301030, [(0x40, 8)], 0⟩,
  ⟨.bqPortCells, 0x310010, [(0x1000, 96)], 0⟩,
  ⟨.bqPortDownDrop, 0x310020, [(0x1000, 96)], 0⟩,
  ⟨.bqPortGlobalFull, 0x310030, [(0x1000, 96)], 0⟩,
  ⟨.bqPortNoCell, 0x310040, [(0x1000, 96)], 0⟩,
  ⟨.bqPortEccDrop, 0x310050, [(0x1000, 96)], 0⟩,
  ⟨.bqPortFifoReset, 0x310060, [(0x1000, 96)], 0⟩,
  ⟨.bqPortFlushes, 0x310070, [(0x1000, 96)], 0⟩,
  ⟨.bqQCells, 0x310110, [(0x1000, 96), (0x100, 8)], 0⟩,
  ⟨.bqQFrames, 0x310120, [(0x1000, 96), (0x100, 8)], 0⟩,
  ⟨.bqQEnq, 0x310130, [(0x1000, 96), (0x100, 8)], 0⟩]
def ctrPlaces2 : List (Place Ctr) := [
  ⟨.bqQLimDrop, 0x310140, [(0x1000, 96), (0x100, 8)], 0⟩,
  ⟨.bqQDeDrop, 0x310150, [(0x1000, 96), (0x100, 8)], 0⟩,
  ⟨.bqQMarked, 0x310160, [(0x1000, 96), (0x100, 8)], 0⟩,
  ⟨.bqQResDrop, 0x310170, [(0x1000, 96), (0x100, 8)], 0⟩,
  ⟨.bqQFlush, 0x310180, [(0x1000, 96), (0x100, 8)], 0⟩,
  ⟨.bqQDeq, 0x310190, [(0x1000, 96), (0x100, 8)], 0⟩,
  ⟨.hrRxFrames, 0x90900, [(0x1000, 16), (0x40, 16)], 0⟩,
  ⟨.hrRxFrames, 0x74900, [(0x40, 16)], 256⟩,
  ⟨.hrRxHoldDrop, 0x90910, [(0x1000, 16), (0x40, 16)], 0⟩,
  ⟨.hrRxHoldDrop, 0x74910, [(0x40, 16)], 256⟩,
  ⟨.hrRxQDrop, 0x90920, [(0x1000, 16), (0x40, 16)], 0⟩,
  ⟨.hrRxQDrop, 0x74920, [(0x40, 16)], 256⟩,
  ⟨.hrRxErr, 0x90930, [(0x1000, 16), (0x40, 16)], 0⟩,
  ⟨.hrRxErr, 0x74930, [(0x40, 16)], 256⟩,
  ⟨.hrTxFrames, 0x90d00, [(0x1000, 16), (0x30, 16)], 0⟩,
  ⟨.hrTxFrames, 0x74d00, [(0x30, 16)], 256⟩,
  ⟨.hrTxDropped, 0x90d10, [(0x1000, 16), (0x30, 16)], 0⟩,
  ⟨.hrTxDropped, 0x74d10, [(0x30, 16)], 256⟩,
  ⟨.hrTxErr, 0x90d20, [(0x1000, 16), (0x30, 16)], 0⟩,
  ⟨.hrTxErr, 0x74d20, [(0x30, 16)], 256⟩,
  ⟨.ethCnt, 0x100400, [(0x2000, 20), (0x200, 3), (0x10, 32)], 0⟩,
  ⟨.tbSgNotPass, 0x2cc000, [(0x10, 1024)], 0⟩,
  ⟨.tbSfMatch, 0x2d0000, [(0x20, 2048)], 0⟩,
  ⟨.tbSfOversize, 0x2d0010, [(0x20, 2048)], 0⟩]
def ctrPlaces3 : List (Place Ctr) := [
  ⟨.tbMtrRed, 0x2e0000, [(0x10, 4096)], 0⟩,
  ⟨.tbSrCnt, 0x2f0000, [(0x80, 512), (0x10, 6)], 0⟩,
  ⟨.canRxFrames, 0x140100, [(0x800, 48)], 0⟩,
  ⟨.canRxFd, 0x140110, [(0x800, 48)], 0⟩,
  ⟨.canRxXl, 0x140120, [(0x800, 48)], 0⟩,
  ⟨.canTxFrames, 0x140130, [(0x800, 48)], 0⟩,
  ⟨.canErrBit, 0x140140, [(0x800, 48)], 0⟩,
  ⟨.canErrStuff, 0x140150, [(0x800, 48)], 0⟩,
  ⟨.canErrForm, 0x140160, [(0x800, 48)], 0⟩,
  ⟨.canErrCrc, 0x140170, [(0x800, 48)], 0⟩,
  ⟨.canErrAck, 0x140180, [(0x800, 48)], 0⟩,
  ⟨.canArbLost, 0x140190, [(0x800, 48)], 0⟩,
  ⟨.canTxRetry, 0x1401a0, [(0x800, 48)], 0⟩,
  ⟨.canTxRetryDrop, 0x1401b0, [(0x800, 48)], 0⟩,
  ⟨.canTxBadFrame, 0x1401c0, [(0x800, 48)], 0⟩,
  ⟨.canTxAbort, 0x1401d0, [(0x800, 48)], 0⟩,
  ⟨.canBusOff, 0x1401e0, [(0x800, 48)], 0⟩,
  ⟨.canForeign, 0x1401f0, [(0x800, 48)], 0⟩,
  ⟨.canSchedLate, 0x140200, [(0x800, 48)], 0⟩,
  ⟨.canPtLate, 0x140210, [(0x800, 48)], 0⟩,
  ⟨.canRxOvw, 0x140220, [(0x800, 48)], 0⟩,
  ⟨.moAckStale, 0x160100, [], 0⟩,
  ⟨.moXlSkip, 0x160110, [], 0⟩,
  ⟨.linTxFrames, 0x170080, [(0x400, 16)], 0⟩]
def ctrPlaces4 : List (Place Ctr) := [
  ⟨.linRxFrames, 0x170090, [(0x400, 16)], 0⟩,
  ⟨.linNoResp, 0x1700a0, [(0x400, 16)], 0⟩,
  ⟨.linChkErr, 0x1700b0, [(0x400, 16)], 0⟩,
  ⟨.linBitErr, 0x1700c0, [(0x400, 16)], 0⟩,
  ⟨.linSyncErr, 0x1700d0, [(0x400, 16)], 0⟩,
  ⟨.linCollision, 0x1700e0, [(0x400, 16)], 0⟩,
  ⟨.linSlotOverrun, 0x1700f0, [(0x400, 16)], 0⟩,
  ⟨.tunTxPdus, 0x180100, [], 0⟩,
  ⟨.tunTxMsgs, 0x180110, [], 0⟩,
  ⟨.tunTxDrop, 0x180120, [], 0⟩,
  ⟨.tunRxPdus, 0x180130, [], 0⟩,
  ⟨.tunRxMsgs, 0x180140, [], 0⟩,
  ⟨.tunRxSeqGap, 0x180150, [], 0⟩,
  ⟨.tunRxBadAcf, 0x180160, [], 0⟩,
  ⟨.tunRxSkipped, 0x180170, [], 0⟩,
  ⟨.tunRxNoBus, 0x180180, [], 0⟩,
  ⟨.tunXlReasmDrop, 0x180190, [], 0⟩,
  ⟨.tmTtFired, 0x42000, [(0x20, 32)], 0⟩,
  ⟨.tmTtSkipped, 0x42010, [(0x20, 32)], 0⟩,
  ⟨.tmCapLost, 0x43020, [(0x40, 8)], 0⟩,
  ⟨.cxCoreBlocks, 0x382080, [(0x100, 12)], 0⟩,
  ⟨.cxJobsOk, 0x390300, [(0x1000, 20)], 0⟩,
  ⟨.cxJobsErr, 0x390310, [(0x1000, 20)], 0⟩,
  ⟨.ksStaleKey, 0x3c0300, [], 0⟩]
def ctrPlaces5 : List (Place Ctr) := [
  ⟨.ksKeyDenied, 0x3c0310, [], 0⟩,
  ⟨.ksRemaskLate, 0x3c0320, [], 0⟩,
  ⟨.ksEntropyFail, 0x3c0330, [], 0⟩,
  ⟨.ldOnCnt, 0x4000a0, [(0x100, 96)], 0⟩,
  ⟨.ldThermTrip, 0x4000b0, [(0x100, 96)], 0⟩,
  ⟨.ldOcTrip, 0x4000c0, [(0x100, 96)], 0⟩,
  ⟨.ldWireTrip, 0x4000d0, [(0x100, 96)], 0⟩,
  ⟨.ldOpenLoad, 0x4000e0, [(0x100, 96)], 0⟩,
  ⟨.ldDenied, 0x4000f0, [(0x100, 96)], 0⟩,
  ⟨.pdAdcOverrun, 0x410300, [(0x10000, 3), (0x10, 4)], 0⟩,
  ⟨.pdLocCnt, 0x410340, [(0x10000, 3)], 0⟩,
  ⟨.bwSegDrop, 0x441800, [(0x40, 32)], 0⟩,
  ⟨.bwSegHoldDrop, 0x441810, [(0x40, 32)], 0⟩,
  ⟨.bwSegWakes, 0x441820, [(0x40, 32)], 0⟩,
  ⟨.bwWinWakes, 0x442800, [(0x10, 8)], 0⟩,
  ⟨.hbCoeReq, 0x80100, [(0x40, 2)], 0⟩,
  ⟨.hbCoeBad, 0x80110, [(0x40, 2)], 0⟩,
  ⟨.hbCoeReplay, 0x80120, [(0x40, 2)], 0⟩,
  ⟨.hbDenyRd, 0x81090, [(0x100, 16)], 0⟩,
  ⟨.hbDenyWr, 0x810a0, [(0x100, 16)], 0⟩,
  ⟨.hbBadSize, 0x810b0, [(0x100, 16)], 0⟩,
  ⟨.hbFarDiscard, 0x810c0, [(0x100, 16)], 0⟩,
  ⟨.lsSepiaDrop, 0x60240, [], 0⟩,
  ⟨.lsDebugDiscard, 0x60250, [], 0⟩]
def ctrPlaces6 : List (Place Ctr) := [
  ⟨.monBin, 0x58000, [(0x200, 64), (0x10, 32)], 0⟩,
  ⟨.mgLogLost, 0x70640, [], 0⟩,
  ⟨.bwLinkCrcErr, 0x460080, [(0x1000, 4)], 0⟩,
  ⟨.bwLinkRetry, 0x460090, [(0x1000, 4)], 0⟩,
  ⟨.bwLinkFail, 0x4600a0, [(0x1000, 4)], 0⟩,
  ⟨.bwLinkDown, 0x4600b0, [(0x1000, 4)], 0⟩]
/-- Offsets of every live counter outside the unit headers; the shadow lies 8 above (R32). -/
def ctrPlaces : List (Place Ctr) :=
  ctrPlaces0 ++ ctrPlaces1 ++ ctrPlaces2 ++ ctrPlaces3 ++ ctrPlaces4 ++ ctrPlaces5 ++ ctrPlaces6

/-- Every register layout, in the order of `Reg`. -/
def Reg.all : List Reg := [
  .unitId, .unitState, .unitCmd, .unitCmdStatus, .unitEpoch, .unitTree, .unitChild, .unitQuiesceTmo, .unitSnap, .unitImage, .idChip, .idDirCount, .idDirA, .idDirB, .idFeMap, .idFeFree, .idFeRetired, .idAcMap, .idAcFree, .idAcRetired, .idRowMap, .epCur, .epOldest, .epCmd, .epStatus, .epCtl, .epStageTmo, .epCommitTmo, .epSnapStatus, .epStageEntryOff, .epStageEntryData, .epStageEntryMask, .epStageEntryCtl, .mdModeReq, .mdModeStatus, .mdVcoreBand, .mdVcoreNow, .mdAvsCtl, .mdPace, .mdPaceFloor, .mdUmberRate, .mdPaBudget, .mdPaWait, .mdPaCfg, .mdPaLease, .feIsa, .feBudgetDef, .feWaitTmo, .feLoadSrc, .feLoadCmd, .feLoadStatus, .feSetSel, .feCsLayout, .feSetSlotState, .feSetSlotPlace, .feSetSlotVersion, .feSetSlotEpochs, .feEngRole, .feThrState, .feHashSeed, .feRecircCfg, .feSlowCause, .feOrderTmo, .feKnownEt, .feSlowQCfg, .feSlowQRate, .feSlowQDepth, .feDispCfg, .feDispPcp, .clsSetMap, .clsSetUse, .clsRuleSel, .clsRuleWin, .tbCmd, .tbCmdStatus, .tbCmdArg, .tbCmdCount, .tbData, .tbBgStatus, .tbSeedCur, .tbSeedNew, .tbL2Cfg, .tbL2Hold, .tbV6Lens, .tbL2PortCfg, .tbL2PortDyn, .tbCount, .tbLpmBlocks, .bqReserve, .bqFree, .bqMirrorCfg, .bqMirrorSample, .bqPortLimit, .bqPortCfg, .bqQLimit, .bqQDeLimit, .bqQMark, .bqQResid, .hrRxBaseLo, .hrRxBaseHi, .hrRxCfg, .hrRxTail, .hrRxHead, .hrRxIrq, .hrTxBaseLo, .hrTxBaseHi, .hrTxCfg, .hrTxTail, .hrTxHead, .hrTxIrq, .hrRxQ, .ethMacCfg, .ethIntf, .ethLinkStatus, .ethLinkCfg, .ethPauseCfg, .ethPauseState, .ethStepCfg, .ethStepUp, .ethStepStatus, .ethLpiCfg, .ethTsCorr, .ethPreempt, .ethGateCfg, .ethGateStatus, .ethPlcaCfg, .ethPlcaTmr, .ethTxTsStat, .ethTxTsSeq, .ethTxTsInfo, .ethTxTsLo, .ethTxTsHi, .ethTxTsPop, .ethSched, .ethCbs, .ethGateAdminBase, .ethGateOperBase, .ethGateChange, .ethGateAdminCycle, .ethGateAdminExt, .ethGateOperCycle, .ethGateOperExt, .ethGateOperLen, .ethMacAddr, .ethCntEvt, .ethGateAdminListOp, .ethGateAdminListInterval, .ethGateOperListOp, .ethGateOperListInterval, .tbSgCfg, .tbSgBase, .tbSfBlocked, .tbSgInvLatched, .tbSgGclCtl, .tbSgGclInterval, .canCtl, .canBtNom, .canBtData, .canBtXl, .canTdc, .canTdcXl, .canXlPwm, .canErr, .canTxCfg, .canTxPt, .canTxStatus, .canForeignLast, .canSched, .moWinSel, .moWinKey, .moWinCfg, .moWinHdr, .moWinForeign, .moWinPub, .moWinSeq, .moWinAck, .moWinTime, .moWinData, .moWinStage, .linCfg, .linSchedCtl, .linSchedStatus, .linSchedSel, .linSchedEntry, .linFrame, .linData, .tunCfg, .tunTxStreamCtl, .tunTxStreamAgg, .tunTxStreamPtOff, .tunTxStreamDaLo, .tunTxStreamDaHi, .tunTxStreamSeq, .tunTxStreamId, .tunTxBindKey, .tunTxBindMask, .tunTxBindDest, .tunRxStreamCtl, .tunRxStreamId, .tunRxStreamPtAdj, .tunRxStreamBus, .tunRxStreamExp, .tmLatchCmd, .tmLatchRaw, .tmLatchDom, .tmConvIn, .tmConvCmd, .tmConvOut, .tmDomArg, .tmDomCmd, .tmDomInc, .tmTtStart, .tmTtPeriod, .tmTtTarget, .tmTtCtl, .tmCapCfg, .tmCapStat, .tmCapHead, .tmCapPop, .cxSvcCfg, .cxPin, .cxCoreCfg, .cxPageCfg, .cxCtxSel, .cxCtxMode, .cxCtxCmd, .cxCtxAddrLo, .cxCtxAddrHi, .cxJobAad, .cxJobCtl, .cxJobQ, .cxDonePop, .cxKsCmd, .cxKsStatus, .cxCtxState, .cxDone, .cxKsData, .cxJobSrcLo, .cxJobSrcHi, .cxJobLen, .cxJobOut, .cxKsAttr, .ksRoot, .ksKcv, .ksMaskCfg, .ksQuota, .ksWrapGen, .ksIdSeed, .ksSlotAttr, .ldCtl, .ldCfg, .ldGroups, .ldWire, .ldStatus, .ldSense, .ldGangSense, .ldI2t, .ldTemp, .ldSenseTime, .pdGang, .pdLoc, .pdStatus, .pdVbat, .pdAdmit, .pdAgg, .pdAggWarn, .pdAdcSeq, .pdAdcStat, .pdProfile, .bwSleepCmd, .bwSleepStatus, .bwWakeSrc, .bwSleepCur, .bwSegPorts, .bwSegCfg, .bwSegCmd, .bwSegStatus, .bwSegRoute, .bwWinCfg, .bwWinStorm, .bwWinStuck, .bwWinSeg, .bwWinStatus, .bwCanWake, .bwSwfCfg, .bwSwfId, .bwSwfIdMask, .bwSwfData, .bwLinWake, .bwT1sWake, .hbEp, .hbSubsys, .hbFarCfg, .hbDomBind, .hbEthHostCfg, .hbEthHostPeerLo, .hbEthHostPeerHi, .hbFarErrLatch, .hbFarErrSeq, .hbFarErrNext, .hbAccErrRec, .hbAccErrBytes, .hbPerm, .hbPermFine, .lsDrain, .lsPair, .lsFaultCfg, .lsFaultStatus, .lsSepiaCtl, .lsSepiaCfg, .lsSepiaCause, .lsSepiaPorts, .lsSepiaTrig, .lsSepiaTime, .lsWdogCfg, .lsWdogKick, .lsThermCfg, .monCfg, .monBase, .monScale, .monPeriod, .monCtl, .monStat, .monMin, .monMax, .monHigh, .monLow, .evSwRaise, .evMcStatus, .evPinStatus, .evMcRoute, .evPinRoute, .evDetail, .evDomStatus, .evRoute, .mgBootStatus, .mgLifecycle, .mgSerial, .mgTemp, .mgSupply, .mgHashCtl, .mgHashOut, .mgKeySet, .mgLogStatus, .mgLogSeq, .mgLogAppend, .mgLogGo, .mgHashSrc, .mgHashLen, .mgSlotState, .mgSlotVerA, .mgSlotVerB, .mgSlotSvn, .mgMboxCmd, .mgMboxStatus, .mgMboxAddrLo, .mgMboxAddrHi, .mgMboxLen, .mgMboxArg, .mgMboxData, .mgRecovChunk, .mgRecovDone, .mgRecovStatus, .mgRecovWin, .dbgLink, .dbgHalted, .bwLinkStatus]

end Sys2Proof.Machine
end

