-- ==== Sys2Proof/Machine/AddressMap.lean ====
section
/-! DEFINITION. The address map of R49: the units of the device and their pages, the register or counter at an offset, and
the value each register holds after reset (R28). -/
namespace Sys2Proof.Machine

/-- The kinds of unit of R33 and R49, one for each run of equal pages. -/
inductive UKind where
  | id | ep | md | ev | tm | mon | ls | mg | hb | hr | eth | can | mo | lin | tun | fe | fc | eng | cls | tb | bq
  | cx | cp | ac | page | ks | ldb | ldg | ld | pd | bw | bl | mc | dbg
  deriving DecidableEq, Repr

/-- One run of units: kind, number of its first unit, first page, distance of pages, count, bytes of one page, class
code of R33, whether the unit is a group, and the place of its prefix among the unit-state events of R473. -/
structure URun where
  kind : UKind
  first : Nat
  base : Nat
  stride : Nat
  count : Nat
  size : Nat
  cls : Nat
  group : Bool
  ev : Nat
  deriving DecidableEq, Repr

/-- Every unit of the device. The order is that of a search by offset: pages that lie inside another unit's page range come
before it. The management cores have no page of their own: R49 lists them beneath the lockstep block, in whose page their
headers lie (`unitBase`); their numbers are 346 and 347. -/
def uRuns : List URun := [
  ⟨.id, 0, 0x000000, 0, 1, 0x10000, 0x01, true, 0⟩, ⟨.ep, 1, 0x010000, 0, 1, 0x10000, 0x02, false, 1⟩,
  ⟨.md, 2, 0x020000, 0, 1, 0x10000, 0x02, false, 2⟩, ⟨.ev, 3, 0x030000, 0, 1, 0x10000, 0x02, false, 3⟩,
  ⟨.tm, 4, 0x040000, 0, 1, 0x10000, 0x02, false, 4⟩, ⟨.mon, 5, 0x050000, 0, 1, 0x10000, 0x02, false, 5⟩,
  ⟨.ls, 6, 0x060000, 0, 1, 0x10000, 0x02, false, 6⟩, ⟨.mg, 7, 0x070000, 0, 1, 0x10000, 0x02, false, 7⟩,
  ⟨.hb, 8, 0x080000, 0, 1, 0x10000, 0x02, false, 8⟩, ⟨.hr, 9, 0x090000, 0x1000, 16, 0x1000, 0x13, false, 9⟩,
  ⟨.eth, 25, 0x100000, 0x2000, 20, 0x2000, 0x10, false, 10⟩, ⟨.can, 45, 0x140000, 0x800, 48, 0x800, 0x11, false, 11⟩,
  ⟨.mo, 93, 0x160000, 0, 1, 0x10000, 0x02, false, 12⟩, ⟨.lin, 94, 0x170000, 0x400, 16, 0x400, 0x12, false, 13⟩,
  ⟨.tun, 110, 0x180000, 0, 1, 0x10000, 0x02, false, 14⟩,
  ⟨.fc, 112, 0x208000, 0x1000, 8, 0x1000, 0x21, true, 15⟩, ⟨.eng, 120, 0x210000, 0x400, 64, 0x400, 0x22, false, 15⟩,
  ⟨.fe, 111, 0x200000, 0, 1, 0x80000, 0x20, true, 15⟩,
  ⟨.cls, 184, 0x280000, 0, 1, 0x40000, 0x02, false, 16⟩, ⟨.tb, 185, 0x2C0000, 0, 1, 0x40000, 0x02, false, 17⟩,
  ⟨.bq, 186, 0x300000, 0, 1, 0x80000, 0x30, false, 18⟩,
  ⟨.cp, 188, 0x381000, 0x100, 4, 0x100, 0x29, true, 19⟩, ⟨.ac, 192, 0x382000, 0x100, 12, 0x100, 0x2A, false, 19⟩,
  ⟨.cx, 187, 0x380000, 0, 1, 0x10000, 0x28, true, 19⟩, ⟨.page, 204, 0x390000, 0x1000, 20, 0x1000, 0x2B, false, 19⟩,
  ⟨.ks, 224, 0x3C0000, 0, 1, 0x40000, 0x02, false, 20⟩, ⟨.ldb, 225, 0x40F000, 0, 1, 0x100, 0x38, true, 21⟩,
  ⟨.ldg, 226, 0x408000, 0x100, 16, 0x100, 0x39, true, 21⟩, ⟨.ld, 242, 0x400000, 0x100, 96, 0x100, 0x3A, false, 21⟩,
  ⟨.pd, 338, 0x410000, 0x10000, 3, 0x10000, 0x3B, false, 22⟩,
  ⟨.bl, 342, 0x460000, 0x1000, 4, 0x1000, 0x3C, false, 23⟩, ⟨.bw, 341, 0x440000, 0, 1, 0x40000, 0x3D, false, 23⟩,
  ⟨.dbg, 348, 0x480000, 0, 1, 0x80000, 0x02, false, 24⟩, ⟨.mc, 346, 0x1000000, 0, 2, 0, 0x40, false, 6⟩]

/-- How many units the device has. -/
def unitCount : Nat := 349

/-- The run that holds unit number `u`. -/
def runOf (u : Nat) : URun :=
  (uRuns.find? fun r => decide (r.first ≤ u ∧ u < r.first + r.count)).getD ⟨.id, 0, 0, 0, 1, 0x10000, 0x01, true, 0⟩

def unitKind (u : Nat) : UKind := (runOf u).kind
/-- The number of unit `u` within its kind. -/
def unitInst (u : Nat) : Nat := u - (runOf u).first
/-- The first offset of unit `u`'s page (R31). The header of a management core lies in the page of the lockstep block (R49), at
a place the spec does not state. (DESIGN CHOICE: assumption 6) -/
def unitBase (u : Nat) : Nat :=
  if decide (346 ≤ u ∧ u ≤ 347) then 0x060000 + (Config.mcHeader (u - 346)).toNat
  else (runOf u).base + (runOf u).stride * unitInst u
def unitClass (u : Nat) : Nat := (runOf u).cls
def unitIsGroup (u : Nat) : Bool := (runOf u).group

/-- The number of unit `i` of a kind. -/
def unitNo (k : UKind) (i : Nat) : Nat :=
  match uRuns.find? fun r => decide (r.kind = k) with
  | some r => r.first + i
  | none => 0

abbrev uId : Nat := 0
abbrev uEp : Nat := 1
abbrev uMd : Nat := 2
abbrev uEv : Nat := 3
abbrev uTm : Nat := 4
abbrev uMon : Nat := 5
abbrev uLs : Nat := 6
abbrev uMg : Nat := 7
abbrev uHb : Nat := 8
abbrev uHr (n : Nat) : Nat := 9 + n
abbrev uEth (n : Nat) : Nat := 25 + n
abbrev uCan (n : Nat) : Nat := 45 + n
abbrev uMo : Nat := 93
abbrev uLin (n : Nat) : Nat := 94 + n
abbrev uTun : Nat := 110
abbrev uFe : Nat := 111
abbrev uFc (c : Nat) : Nat := 112 + c
abbrev uEng (n : Nat) : Nat := 120 + n
abbrev uCls : Nat := 184
abbrev uTb : Nat := 185
abbrev uBq : Nat := 186
abbrev uCx : Nat := 187
abbrev uCp (k : Nat) : Nat := 188 + k
abbrev uAc (n : Nat) : Nat := 192 + n
abbrev uPage (n : Nat) : Nat := 204 + n
abbrev uKs : Nat := 224
abbrev uLdb : Nat := 225
abbrev uLdg (g : Nat) : Nat := 226 + g
abbrev uLd (n : Nat) : Nat := 242 + n
abbrev uPd (n : Nat) : Nat := 338 + n
abbrev uBw : Nat := 341
abbrev uBl (n : Nat) : Nat := 342 + n
abbrev uMc (n : Nat) : Nat := 346 + n
abbrev uDbg : Nat := 348

/-- The block whose page holds an offset (R49); `none` where the address map names no block. -/
def pageAt (off : Nat) : Option Nat :=
  uRuns.findSome? fun r =>
    if off < r.base then none
    else if r.stride = 0 then (if off < r.base + r.size then some r.first else none)
    else
      let i := (off - r.base) / r.stride
      if decide (i < r.count) && decide ((off - r.base) % r.stride < r.size) then some (r.first + i) else none

/-- The flat instance at distance `x` from the first of a layout, and what is left of `x` below the innermost stride. -/
def flatInst : List (Nat × Nat) → Nat → Nat → Option (Nat × Nat)
  | [], acc, x => some (acc, x)
  | (st, n) :: ds, acc, x => if x / st < n then flatInst ds (acc * n + x / st) (x % st) else none

/-- The instance of a layout at an offset, with the byte of the register the offset points to. -/
def Place.at? {ρ : Type} (p : Place ρ) (off : Nat) : Option (Nat × Nat) :=
  if off < p.base then none
  else (flatInst p.dims 0 (off - p.base)).map fun (i, b) => (p.inst0 + i, b)

/-- Whether a block's own register or counter lies at an offset. -/
def placed (off : Nat) : Bool := (regPlaces.any fun p => (p.at? off).isSome) || ctrPlaces.any fun p => (p.at? off).isSome

/-- The management core whose header holds an offset. -/
def mcAt (off : Nat) : Option Nat :=
  [uMc 0, uMc 1].find? fun u => decide (unitBase u ≤ off ∧ off < unitBase u + 0x60)

/-- The unit to which an offset belongs (R31, R49); `none` where the address map names no block. -/
def unitAt (off : Nat) : Option Nat :=
  match pageAt off with
  | none => none
  | some u =>
    if u = uLs ∧ 0x060060 ≤ off ∧ placed off = false then some ((mcAt off).getD u) else some u

/-- The registers of the unit header in the order of their offsets (R31). -/
def hdrRegs : List Reg :=
  [.unitId, .unitState, .unitCmd, .unitCmdStatus, .unitEpoch, .unitTree, .unitChild, .unitQuiesceTmo, .unitSnap, .unitImage]

/-- Whether the spec reserves this instance of a register: such a register reads 0 and is not there to write
(FeDispCfg, BqPort pages, EthPlca, EthPreempt, LsFaultCfg; R27; the crypto pages U17, of which only POOLS is there, and U18 and
U19; R358). (DEDUCED: assumption 13) -/
def regRsv (r : Reg) (i : Nat) : Bool :=
  match r with
  | .feDispCfg | .feDispPcp => decide (26 ≤ i ∧ i ≤ 31)
  | .bqPortLimit | .bqPortCfg => decide ((20 ≤ i ∧ i ≤ 23) ∨ (25 ≤ i ∧ i ≤ 31))
  | .bqQLimit | .bqQDeLimit | .bqQMark | .bqQResid => decide ((160 ≤ i ∧ i ≤ 191) ∨ (200 ≤ i ∧ i ≤ 255))
  | .ethPlcaCfg | .ethPlcaTmr => decide (i < 12)
  | .ethPreempt => decide (12 ≤ i)
  | .canBtXl | .canTdcXl | .canXlPwm => decide (i < 32)
  | .lsFaultCfg | .lsFaultStatus => decide (11 ≤ i)
  | .cxPageCfg => decide (18 ≤ i)
  | .cxCtxSel | .cxCtxMode | .cxCtxCmd | .cxCtxAddrLo | .cxCtxAddrHi | .cxJobSrcLo | .cxJobSrcHi | .cxJobLen | .cxJobOut
  | .cxJobAad | .cxJobCtl | .cxJobQ | .cxDonePop | .cxKsCmd | .cxKsStatus | .cxKsAttr => decide (17 ≤ i)
  | .cxCtxState => decide (17 ≤ i / 32)
  | .cxDone => decide (17 ≤ i / 4)
  | .cxKsData => decide (17 ≤ i / 16)
  | _ => false

/-- The bits that an instance of a register has: the rest are RSV there (R17, R27, and the tables of the fields). Fields that
name XL are RSV on C0 to C31, and TRX_SIC on C32 to C47. -/
def regBits (r : Reg) (i : Nat) : Nat :=
  match r with
  | .ethGateAdminBase | .tbSgBase => if i % 3 = 0 then 0x3FFFFFFF else if i % 3 = 2 then 0xFFFF else 0xFFFFFFFF
  | .ethMacAddr => if i % 2 = 1 then 0xFFFF else 0xFFFFFFFF
  | .bqPortCfg => if i < 20 then 0xFFFFFFFF else 0xFFFFFF7F
  | .bwSegPorts | .lsSepiaPorts => if i % 3 = 0 then 0x03FFFFFF else 0xFFFFFFFF
  | .canCtl => if i < 32 then 0xBFFFFFFF else 0xDFFFFFFF
  | .cxPageCfg => if i = 17 then 0xF else 0xFFFFFFFF
  | _ => 0xFFFFFFFF

/-- Whether this instance of a counter exists (R264 lists the indices of each group; reserved port pages have none). -/
def ctrExists (c : Ctr) (i : Nat) : Bool :=
  match c with
  | .ethCnt => let g := i / 32 % 3; let k := i % 32
    decide ((g = 0 ∧ k < 28) ∨ (g = 1 ∧ k < 22) ∨ (g = 2 ∧ k < 13))
  | .feDispIn | .feDispDrop | .feDispSlow => !decide (26 ≤ i ∧ i ≤ 31)
  | .bqPortCells | .bqPortDownDrop | .bqPortGlobalFull | .bqPortNoCell | .bqPortEccDrop | .bqPortFifoReset
  | .bqPortFlushes => !decide ((20 ≤ i ∧ i ≤ 23) ∨ (25 ≤ i ∧ i ≤ 31))
  | .bqQCells | .bqQFrames | .bqQEnq | .bqQLimDrop | .bqQDeDrop | .bqQMarked | .bqQResDrop | .bqQFlush | .bqQDeq =>
    !decide ((160 ≤ i ∧ i ≤ 191) ∨ (200 ≤ i ∧ i ≤ 255))
  | _ => true

/-- The register at an aligned offset, with its flat instance (R49). -/
def regAt (off : Nat) : Option (Reg × Nat) :=
  if off % 4 = 0 then
    match unitAt off with
    | none => none
    | some u =>
      let x := off - unitBase u
      if x < 0x28 then
        match hdrRegs[x / 4]? with
        | some r => some (r, u)
        | none => none
      else if x < 0x60 then none
      else (regPlaces.findSome? fun p =>
        match p.at? off with
        | some (i, 0) => some (p.what, i)
        | _ => none)
  else none

/-- A half of a counter slot: which counter, its instance, whether the shadow, and whether the upper half (R22, R32). -/
structure CtrRef where
  ctr : Ctr
  inst : Nat
  snap : Bool
  high : Bool
  deriving DecidableEq, Repr

/-- The counter slot half at an aligned offset (R32). -/
def ctrAt (off : Nat) : Option CtrRef :=
  if off % 4 = 0 then
    match unitAt off with
    | none => none
    | some u =>
      let x := off - unitBase u
      let half (c : Ctr) (i b : Nat) : CtrRef := ⟨c, i, decide (8 ≤ b), decide (4 ≤ b % 8)⟩
      if x < 0x30 then none
      else if x < 0x40 then some (half .unitRejWr u (x - 0x30))
      else if x < 0x50 then some (half .unitLockRef u (x - 0x40))
      else if x < 0x60 then some (half .unitRefused u (x - 0x50))
      else ctrPlaces.findSome? fun p =>
        match p.at? off with
        | some (i, b) => if decide (b < 16) && ctrExists p.what i then some (half p.what i b) else none
        | none => none
  else none

/-- One phase word of a load profile: limit in 0.05 A, duration in 100 µs, slew in 0.1 V/µs, last phase (R389). -/
def phaseWord (ilim dur slew : Nat) (last : Bool) : Nat :=
  slew * 2 ^ 26 + dur * 2 ^ 16 + (if last then 0x8000 else 0) + ilim

/-- The phases of the ROM profiles of R390. -/
def romProfile : Nat → List Nat
  | 0 => [phaseWord 200 20 20 false, phaseWord 120 30 20 false, phaseWord 50 400 20 true]
  | 1 => [phaseWord 80 20 2 false, phaseWord 60 30 2 false, phaseWord 50 100 5 true]
  | 2 => [phaseWord 160 50 10 false, phaseWord 50 1000 10 true]
  | 3 => [phaseWord 50 10 5 true]
  | 4 => [phaseWord 40 5 1 false, phaseWord 30 50 1 true]
  | 5 => [phaseWord 100 20 50 false, phaseWord 50 200 50 true]
  | _ => []

/-- The default reactions of R461, by fault class. -/
def defaultReaction : List Nat := [1, 2, 2, 0, 1, 1, 1, 0, 1, 2, 1]

/-- Reset values that depend on the instance. The "fuse", "strap" and "per device" values are those of assumption 1.
(DESIGN CHOICE: assumption 1) -/
def instReset (r : Reg) (i : Nat) : Option Nat :=
  match r with
  | .idDirCount => some unitCount
  | .idFeMap => some i
  | .idFeFree => some (if i = 2 then 0xF else 0)
  | .idAcMap => some i
  | .idAcFree => some 0x3000
  | .mdVcoreBand => some (if i = 0 then 630 * 65536 + 550 else if i = 1 then 780 * 65536 + 725 else 880 * 65536 + 825)
  | .mdPaBudget => some (if i = 0 then 800 else if i = 1 then 2500 else if i = 2 then 4000 else 6000)
  | .feSlowQCfg => some (256 + if i < 2 then 0x80000000 else 0)
  | .clsSetMap => some (if i = 0 then 0x76543210 else 0xFEDCBA98)
  | .tbLpmBlocks => some ((if i < 2 then 2048 else 1024) * 65536)
  | .bqFree => some 262144
  | .ethIntf => some (if 12 ≤ i then 0x346 else 0x340)
  | .ethStepCfg => some (20 * 65536 + 10 + (if 4 ≤ i ∧ i < 12 then 2 else 3) * 2 ^ 26)
  | .tmDomInc => some (if i % 2 = 1 then 0x28 else 0)
  | .ldStatus => some (0x80000000 + i * 2 ^ 22)
  | .pdProfile => let p := i / 8 % 16
    if p < 8 then some ((romProfile p).getD (i % 8) 0) else some 0
  | .hbPerm => some (if i < 256 then 0xFFFFFFFF else 0)
  | .hbPermFine => some (if i < 80 then 0xFFFFFFFF else 0)
  | .lsFaultCfg => some (defaultReaction.getD i 0)
  | .lsPair => some (if i = 32 then 0x1000000 else 0)
  | _ => none

/-- The value of a register after reset: its instance's, else that of its field table (R28; a "load" field holds the
value in parentheses until the settings are applied). (DESIGN CHOICE: assumption 1) -/
def regReset (r : Reg) (i : Nat) : Word :=
  if regRsv r i then 0
  else match instReset r i with
    | some v => BitVec.ofNat 32 v
    | none => BitVec.ofNat 32 (r.fields.foldl (fun a f => a + f.rst * 2 ^ f.lo) 0 &&& regBits r i)

/-- The barrier link that a register offset lies behind: far-side windows 0 to 3 (R440). -/
def farLink (off : Nat) : Option Nat :=
  if 0x400000 ≤ off ∧ off < 0x402000 ∨ 0x410000 ≤ off ∧ off < 0x420000 then some 0
  else if 0x402000 ≤ off ∧ off < 0x404000 ∨ 0x420000 ≤ off ∧ off < 0x430000 then some 1
  else if 0x404000 ≤ off ∧ off < 0x406000 ∨ 0x430000 ≤ off ∧ off < 0x440000 then some 2
  else if 0x440000 ≤ off ∧ off < 0x480000 then some 3
  else none

/-- The far-side window of an offset for domain `n` (R440); a management core, 16, reaches every page's key store registers. -/
def farWindow (n off : Nat) : Option Nat :=
  match farLink off with
  | some w => some w
  | none =>
    match regAt off with
    | some (.cxKsCmd, i) | some (.cxKsAttr, i) => if n = 16 ∨ i = n then some 4 else none
    | some (.cxKsData, i) => if n = 16 ∨ i / 16 = n then some 4 else none
    | some (.tbCmd, i) | some (.tbCmdArg, i) => some (5 + i)
    | some (.tbData, i) => some (5 + i / 16)
    | _ => none

end Sys2Proof.Machine
end

