-- ==== Sys2Proof/Machine/CryptoTypes.lean ====
section
/-! DEFINITION. What the cipher scheduler, the crypto pages and the key store hold beside their registers (R350 to R380), as
plain data. Byte strings of fixed length are natural numbers, byte k in bits 8k + 7 down to 8k. -/
namespace Sys2Proof.Machine

/-- A live context of a page (R359). -/
structure CxCtx where
  mode : Nat := 0
  keyref : Nat := 0
  state : Nat := 0
  deriving DecidableEq, Repr

/-- Where a job stands: submitted, waiting for leave (R363), waiting for a staging slot (R361), its chunk running, the chunk's
program ended, its last output handed to its delivery. -/
inductive CxStage where
  | queued | leave | chunk | running | ended | delivering
  deriving DecidableEq, Repr

/-- A crypto job (R360 to R365): its number in the page, the snapshot of its arguments, payload offset of its next chunk,
output so far, the cluster and slot of its chunk, whether its delivery entered its ring, the exception of its program, its
final status with DETAIL and RESULT_WORD, and whether a reset of its function keeps it from host memory (R446). -/
structure CxJob where
  no : Nat
  id : Nat
  ctx : Nat
  decrypt : Bool
  init : Bool
  final : Bool
  ring : Nat
  src : Nat
  len : Nat
  outLen : Nat
  tag : Nat
  aad : Nat
  stage : CxStage := .queued
  off : Nat := 0
  out : List (BitVec 8) := []
  cluster : Nat := 0
  slot : Nat := 0
  delivered : Bool := false
  exc : Option Nat := none
  status : Nat := 0
  detail : Nat := 0
  word : Nat := 0
  cut : Bool := false
  deriving DecidableEq, Repr

/-- A completion record (R364). -/
structure CxRec where
  id : Nat
  status : Nat
  detail : Nat
  outLen : Nat
  word : Nat
  deriving DecidableEq, Repr

/-- A crypto user page (R358). -/
structure CxUser where
  ctxs : Sparse CxCtx := []
  jobs : List CxJob := []
  next : Nat := 0
  done : List CxRec := []
  deriving DecidableEq, Repr

/-- A key slot: the key XORed with its mask, the mask, old key material that blocks in flight still use with the attributes they
were issued under (R377, R378), and whether the slot holds no key because it was erased. -/
structure KeySlot where
  masked : Nat := 0
  mask : Nat := 0
  old : Option Nat := none
  oldAttr : Nat := 0
  erased : Bool := false
  deriving DecidableEq, Repr

/-- A bank of the antifuse array (R369): its 256 root bits once programmed, and CHECK once programmed. -/
structure FuseBank where
  bits : Option Nat := none
  check : Option Nat := none
  deriving DecidableEq, Repr

/-- The cipher hardware and the key store. `rr` is the page whose chunk was staged last (R361), `coreRr` for each core the page
whose block it took last (R351); `switching` the pages whose key command waits for its drain with its slot; `waiting` the commands
behind one on their slot, each with its page, slot and command word (R378); `sweep` is 0
idle, 1 waiting for leave, 2 running, and `due` says that another is due (R378); `drbg` that the DRBG runs (R370); `faulty` the
physical cores with a fault, which nothing reports (R47, R354). -/
structure Crypto where
  users : Sparse CxUser := []
  rr : Nat := 0
  coreRr : Sparse Nat := []
  keys : Sparse KeySlot := []
  switching : List (Nat × Nat) := []
  waiting : List (Nat × Nat × Nat) := []
  bankA : FuseBank := {}
  bankB : FuseBank := {}
  drbg : Bool := true
  sweep : Nat := 0
  due : Bool := false
  faulty : List Nat := []
  deriving DecidableEq, Repr

end Sys2Proof.Machine
end

