-- ==== Sys2Proof/Machine/FrameTypes.lean ====
section
/-! DEFINITION. The state of frames on their way through the device: frames, threads and tokens (R77 to R96), dispatch and
order (R162 to R186), queues (R231), rings (R243 to R256) and mirror sessions (R242). Plain data only. -/
namespace Sys2Proof.Machine

/-- A received or recirculated frame with the stamps of R162 and R176. -/
structure Frame where
  bytes : List Byte := []
  port : Nat := 0
  seq : Nat := 0
  epoch : Nat := 0
  pass : Nat := 0
  cls : Nat := 0
  rxTime : Nat := 0
  rxStatus : Nat := 0
  hash : Nat := 0
  grp : Nat := 0
  deriving DecidableEq, Repr

/-- The thread states that FeThrState shows (R76 end, FeThrState). -/
inductive ThrState where
  | idle | ready | interlock | wait | blocked | halted
  deriving DecidableEq, Repr

/-- The kinds of job of R71. -/
inductive JobKind where
  | frame | trigger | crypto
  deriving DecidableEq, Repr

/-- What a busy token waits for, with the operands read at issue (R92, R119). -/
inductive TokOp where
  /-- A rule search whose result was fixed when it began (R171). -/
  | ruleSearch (rd : Nat) (hit : Option Nat) (action : Nat)
  | lookup (rd table k0 k1 : Nat) (learn : Bool)
  | cipher (rd user slot key : Nat) (dec : Bool) (block : Nat) (core : Option Nat)
  | object (kind rd chan fmt ident : Nat) (words : List Nat)
  | leave (rd handle : Nat)
  | alarm (td deadline : Nat)
  deriving DecidableEq, Repr

/-- A token: busy bit, last status (R94) and the operation it stands for while busy. -/
structure Tok where
  busy : Bool := false
  status : Nat := 0
  op : Option TokOp := none
  deriving DecidableEq, Repr

/-- The register file of a thread or a management core (R77). Unlisted general registers read 0 and unlisted predicates
false; g0 and p0 are never listed. -/
structure RegFile where
  g : Sparse Word64 := []
  p : Sparse Bool := []
  pc : Word64 := 0
  tok : Sparse Tok := []
  deriving DecidableEq, Repr

/-- A thread of a frame engine with its job (R77, R78, R82). `slot` is the program-store slot the job runs; `src` is the frame
as it stood at the start of the pass and `out` the uncommitted output packet; `net` is the net count of R141; `user` the acting
user of R146; `needs` the registers an instruction not yet issued waits for (R75); `job` the trigger or the page and number of
the job; `start` the raw ns of the hand-over and `entry0` its entry (R470); `shadow` that the outputs are discarded (R460).
`outGrp` names the output packet's own cells, 0 while it shares those of `src`; `acted` the rule and action word of a MATCH with
ACT whose action waits for busy tokens (R95, R174). (DESIGN CHOICE: assumption 3) -/
structure Thread where
  st : ThrState := .idle
  halted : Option ThrState := none
  rf : RegFile := {}
  kind : JobKind := .frame
  src : Frame := {}
  out : List Byte := []
  outGrp : Nat := 0
  net : Int := 0
  fwBase : Nat := 0
  cls : Nat := 0
  entry : Nat := 0
  icount : Nat := 0
  budget : Nat := 0
  slot : Nat := 0
  mode : Nat := 0
  epoch : Nat := 0
  args : List Nat := []
  waitMask : Nat := 0
  waitPd : Nat := 0
  needs : List Nat := []
  held : Option Instr := none
  user : Nat := 17
  job : Option (Nat × Nat) := none
  start : Nat := 0
  entry0 : Nat := 0
  shadow : Bool := false
  acted : Option (Nat × Nat) := none
  deriving DecidableEq, Repr

/-- A management core (R111, R114). `far` names the core whose far-side store it waits for (R113): itself, or the one it was copied
from. (DESIGN CHOICE: assumption 3) -/
structure McCore where
  st : ThrState := .ready
  halted : Option ThrState := none
  rf : RegFile := { pc := 0x10000000 }
  ctl : Nat := 0x10
  trapBase : Nat := 0
  trapPc : Nat := 0
  trapWhy : Nat := 0
  trapAddr : Nat := 0
  spare0 : Word64 := 0
  spare1 : Word64 := 0
  irqMask : Nat := 0
  alarm : Nat := 0
  retCount : Word64 := 0
  winBase : Sparse Nat := []
  winCfg : Sparse Nat := []
  waitMask : Nat := 0
  waitPd : Nat := 0
  needs : List Nat := []
  held : Option Instr := none
  far : Option Nat := none
  deriving DecidableEq, Repr

/-- A resident program set of one cluster slot (R103): what its image holds beside the code, which lies in the program
store. -/
structure SetImage where
  entries : List Nat := []
  codeWords : Nat := 0
  constBytes : Nat := 0
  ldInit : List Byte := []
  budgetDef : Nat := 0
  deriving DecidableEq, Repr

/-- Work that waits for a thread of a cluster (R167, R345, R361). -/
inductive Work where
  | frame (f : Frame)
  | trigger (tt : Nat) (target : Nat) (args : List Nat)
  | crypto (page job : Nat)
  deriving DecidableEq, Repr

/-- Where the order stage releases a committed frame to (R184). -/
inductive Release where
  | queue (port cls : Nat)
  | ring (dom ring cls : Nat)
  deriving DecidableEq, Repr

/-- What became of a sequence number the order stage still holds (R185). `live` counts how the frame was resolved. -/
inductive OrderItem where
  | waiting
  | dropped
  | committed (f : Frame) (tos : List Release)
  deriving DecidableEq, Repr

/-- The frame a transmit ring is working on (R254, R255): index of its first descriptor, its descriptors as 256-bit
numbers, length, mode, port, class byte, timestamp request, the time of the descriptor read (R339), claimed cells. -/
structure TxCur where
  first : Nat := 0
  descs : List Nat := []
  len : Nat := 0
  direct : Bool := false
  port : Nat := 0
  cls : Nat := 0
  ts : Bool := false
  time : Nat := 0
  grp : Option Nat := none
  deriving DecidableEq, Repr

/-- A frame in an output queue (R231). `de` is its drop eligibility, `ce` the mark of R234, `mirror` says that it is a mirror
copy, `held` that it counts in HELD of a segment (R419), `direct` that it came by no epoch (R183), `enq` is its admission in raw
ns; `ts` names the transmit ring that waits for its egress timestamp (R255). `f.grp` names the cells it holds (R226). -/
structure QFrame where
  f : Frame := {}
  cells : Nat := 0
  de : Bool := false
  ce : Bool := false
  mirror : Bool := false
  held : Bool := false
  direct : Bool := false
  enq : Nat := 0
  ts : Option (Nat × TxCur) := none
  deriving DecidableEq, Repr

/-- A delivery in a ring queue (R244, R248): the frame it belongs to, its data with any trap record, and what its
completion shows. `copyh` says that COPYH or COPY_HOST made it (R448); `crypto` that it is crypto output (R361), which
is `ready` when its data is complete; `sq` names the slow-path queue it came through (R181), `job` the page and
number of a crypto job whose output it is (R363). -/
structure Delivery where
  f : Frame := {}
  bytes : List Byte := []
  trap : Bool := false
  mirror : Bool := false
  session : Nat := 0
  status : Nat := 0
  crypto : Bool := false
  ready : Bool := true
  copyh : Bool := false
  sq : Option Nat := none
  job : Option (Nat × Nat) := none
  wrote : Nat := 0
  deriving DecidableEq, Repr

/-- A delivery that has claimed its descriptors (R246): first index and their buffer addresses. -/
structure Claim where
  d : Delivery := {}
  first : Nat := 0
  bufs : List Nat := []
  deriving DecidableEq, Repr

/-- What a receive ring holds beside its registers. -/
structure RxRing where
  queue : List Delivery := []
  claims : List Claim := []
  unannounced : Nat := 0
  deriving DecidableEq, Repr

/-- What a transmit ring holds beside its registers: the frame in work and completions not yet announced. -/
structure TxRing where
  cur : Option TxCur := none
  unannounced : Nat := 0
  deriving DecidableEq, Repr

/-- A slow-path queue beside its registers: the frames its rate bucket still admits (R181). -/
structure SlowQ where
  bucket : Nat := 64
  deriving DecidableEq, Repr

/-- A classification rule (R169): 512-bit key and mask, action word, control word fields. -/
structure Rule where
  key : Nat := 0
  mask : Nat := 0
  action : Nat := 0
  valid : Bool := false
  pset : Nat := 0
  prio : Nat := 0
  deriving DecidableEq, Repr

/-- The sampler of a mirror session (R242): candidates still to skip before the next is taken. -/
abbrev MirrorSkip := Nat

end Sys2Proof.Machine
end

