-- ==== Sys2Proof/Machine/HostTypes.lean ====
section
/-! DEFINITION. What the host bridge holds beside its registers (R428 to R453), and what the device sends out, as plain data. -/
namespace Sys2Proof.Machine

/-- Something that leaves the device. `Dev.outs` is the model's own record of it: the spec gives the wire, not a register.
(DESIGN CHOICE: assumption 30) -/
inductive Output where
  /-- An MSI-X message of a domain's function: vector, address and data of its table entry (R444). -/
  | msix (dom vector addr data : Nat)
  /-- A write into the host memory of a domain (R248, R256, R361). -/
  | hostWrite (dom addr : Nat) (bytes : List Byte)
  /-- The answer to a host read: domain, bytes of the access, value; `none` for Unsupported Request (R432 to R436). -/
  | hostRead (dom size : Nat) (value : Option Nat)
  /-- A non-fatal error that a domain's function reports through Advanced Error Reporting (R433). -/
  | aer (dom : Nat)
  /-- A frame that an Ethernet port sends, without FCS; `bad` when it ends with the complement of its FCS (R229). -/
  | eth (port : Nat) (bytes : List Byte) (bad : Bool)
  /-- A MAC control or link signal of an Ethernet port: kind and value, as the rule that emits it says. -/
  | ethCtl (port kind value : Nat)
  /-- A frame that a CAN channel puts on its bus, in the internal layout. -/
  | can (ch : Nat) (bytes : List Byte)
  /-- A LIN frame or header: channel, protected identifier, response bytes. -/
  | lin (ch pid : Nat) (bytes : List Byte)
  /-- A command over a barrier link or to the supply side: kind, number, value. -/
  | link (bl kind value : Nat)
  /-- A message over a barrier link: its sequence number, kind and value (R519). -/
  | message (bl seq kind value : Nat)
  /-- A response on the Darder link (R506). -/
  | darder (bytes : List Byte)
  /-- A level or an edge at a pin: pin number as the rule that drives it says. -/
  | pin (kind n value : Nat)
  /-- A write to external flash: slot or area, offset, bytes (R478, R490). -/
  | flash (area off : Nat) (bytes : List Byte)
  deriving DecidableEq, Repr

/-- The state of a PCIe function that R429, R446 and R447 read. -/
structure PciFn where
  bme : Bool := false
  mse : Bool := false
  d3 : Bool := false
  vfEnable : Bool := false
  numVfs : Nat := 0
  deriving DecidableEq, Repr

/-- The identity a PCIe function reports in its configuration space (R2, R425, MgSerial). -/
structure PciIdent where
  vendor : Nat
  device : Nat
  revision : Nat
  classCode : Nat
  subVendor : Nat
  subDevice : Nat
  intPin : Nat
  serial : Nat
  deriving DecidableEq, Repr

/-- The capabilities a PCIe function may carry (R426). -/
inductive PciCap where
  | powerManagement | pciExpress | msix | advancedErrors | ari | sriov | serialNumber | secondary | physical16 | laneMargining
  deriving DecidableEq, Repr

/-- A completion timeout range of the PCI Express capability (R426). -/
inductive CplRange where
  | a | b | c | d
  deriving DecidableEq, Repr

/-- The options that the capabilities of a function support (R426): sizes in bytes, and where BAR2 holds the MSI-X table and the
pending bits. -/
structure PciOptions where
  d3hot : Bool
  maxPayload : Nat
  maxReadRequest : Nat
  extendedTags : Bool
  tenBitTags : Bool
  flr : Bool
  timeouts : List CplRange
  aspmL1 : Bool
  aspmL0s : Bool
  msixVectors : Nat
  msixTable : Nat
  msixPba : Nat
  ecrcGenerate : Bool
  ecrcCheck : Bool
  vfBar0 : Nat
  vfBar2 : Nat
  pageSizeMin : Nat
  deriving DecidableEq, Repr

/-- Who waits for the outcome of a far-side write: nobody for a posted write, a management core's store (R113) with the
four-byte writes it has still to make, a control-over-Ethernet request (R450), or a request of the Darder link with its further
writes (R507). -/
inductive FarSrc where
  | posted
  | core (c : Nat) (rest : List (Nat × Nat))
  | coe
  | darder (q : DarderReq) (rest : List (Nat × Nat))
  deriving DecidableEq, Repr

/-- A write that waits in a far-side window's queue (R441): domain (16 for a management core), its sequence number, offset,
value and who waits for it. `dead` marks a posted write that was here when its pair's latch was cleared: it takes no effect
(R443). -/
structure FarWrite where
  dom : Nat
  seq : Nat
  off : Nat
  value : Nat
  src : FarSrc := .posted
  dead : Bool := false
  deriving DecidableEq, Repr

/-- A control-over-Ethernet WRITE that waits for the outcome of a far-side write (R450): its SEQ and SIZE, whether an access was
denied, the number of the access that waits, the accesses after it, and whether that access entered its window's queue; one that
found the queue full leads `rest` (R441). -/
structure CoeRun where
  seq : Nat
  size : Nat
  denied : Bool
  access : Nat
  rest : List (Nat × Nat × Nat)
  queued : Bool := true
  deriving DecidableEq, Repr

/-- A request of a function that waits in the bridge behind a write that found its window's queue full (R438, R441), checked
as it arrived (R437): a register write, one to window `w` whose pair's latch was cleared meanwhile (R443), a write of the MSI-X
table, a unit command that was denied, or a read with the halves that are permitted. -/
inductive HeldAcc where
  | write (off value : Nat)
  | dead (w : Nat)
  | msix (entry word value : Nat)
  | deny (u value : Nat)
  | read (bar2 : Bool) (off size permitted : Nat)
  deriving DecidableEq, Repr

/-- What the control-over-Ethernet protocol keeps for a domain (R451): the next request number, the last 16 executed with
their responses (SEQ, type, status, detail, payload), and the requests that wait. A TX that has not completed has in DETAIL
1 + 65,536 × ring + descriptor index, and no payload. `run` is the WRITE that waits for a far side. -/
structure CoeDom where
  next : Option Nat := none
  replay : List (Nat × Nat × Nat × Nat × List Byte) := []
  reqs : List (List Byte) := []
  run : Option CoeRun := none
  deriving DecidableEq, Repr

/-- The bridge beside its registers. `dma` holds, oldest first, the host writes (domain, address, bytes) that wait for Bus Master
(R447), and `coreWait` and `dkWait` the writes of the cores
and of the Darder link that found a far-side window's queue full (R441). -/
structure Bridge where
  msix : Sparse Nat := []
  pba : Sparse Bool := []
  fns : Sparse PciFn := []
  far : Sparse (List FarWrite) := []
  held : Sparse (List HeldAcc) := []
  coe : Sparse CoeDom := []
  dma : List (Nat × Nat × List Byte) := []
  coreWait : List (Nat × List (Nat × Nat)) := []
  dkWait : List (DarderReq × List (Nat × Nat)) := []
  deriving DecidableEq, Repr

end Sys2Proof.Machine
end

