-- ==== Sys2Proof/Machine/LoadTypes.lean ====
section
/-! DEFINITION. What a power die holds for a load channel (R384, R385), as plain data. -/
namespace Sys2Proof.Machine

/-- The protection state of a leader or single channel on its die (R385), and the sensor record of every channel (R393).
States are coded as LdStatus.STATE. `theta` is the wire model in units of 2^-32; `grant` says that a turn-on grant is
held, `windowDone` that its window has ended; `phases` is the profile copied when RAMP started (R388), and `held` counts the grants
of turn-ons that have left ON and are held to the end of their window (R392). -/
structure LdCh where
  on : Bool := false
  st : Nat := 0
  retries : Nat := 0
  cause : Nat := 0
  exhausted : Bool := false
  sepia : Bool := false
  loc : Bool := false
  outOn : Bool := false
  openOff : Bool := false
  openOn : Bool := false
  denied : Bool := false
  wireTrip : Bool := false
  ocTrip : Bool := false
  thermTrip : Bool := false
  theta : Nat := 0
  grant : Bool := false
  windowDone : Bool := false
  phases : List Nat := []
  phase : Nat := 0
  tripTemp : Option Int := none
  olOn : Nat := 0
  olOff : Nat := 0
  held : Nat := 0
  deriving DecidableEq, Repr

/-- The average of a die's aggregate current (R402): its integral in mA × ns over the window that runs, when that began and up
to when it is integrated, in the time of the HV side. -/
structure AggMean where
  area : Nat := 0
  from' : Nat := 0
  seen : Nat := 0
  deriving DecidableEq, Repr

/-- The power dies: their channels, whether the logic side has a die's report (R384), the dies that have received SLEEP and
no heartbeat since the link returned (R421), the dies whose VBAT holds them in reset (R515), the conditions whose events wait for a
die's report (R445), the channels sampled since their die started (R399), and the averages of R402. -/
structure Loads where
  ch : Sparse LdCh := []
  reported : Sparse Bool := []
  asleep : List Nat := []
  down : List Nat := []
  notes : List (Nat × Nat) := []
  sampled : List Nat := []
  agg : Sparse AggMean := []
  deriving DecidableEq, Repr

/-- A message sent over a barrier link (R519): its sequence number, and what it carries. (DEDUCED: assumption 38) -/
structure LinkMsg where
  seq : Nat
  kind : Nat
  value : Nat
  deriving DecidableEq, Repr

/-- The logic side's end of a barrier link (R519 to R521): the sequence number of the next new message, the messages without
acknowledgement and those that wait for room among them, both oldest first, the attempts made again with the oldest, the
sequence number that the next new message from the die has and what the last one carried, and whether a loss is silent.
(DEDUCED: assumption 38) -/
structure LinkEnd where
  next : Nat := 0
  sent : List LinkMsg := []
  waiting : List LinkMsg := []
  tries : Nat := 0
  expect : Nat := 0
  last : List Byte := []
  silent : Bool := false
  deriving DecidableEq, Repr

/-- What the safety block holds beside its registers: the causes of level classes that last, as (class, instance) (R461);
the pairs a hand-over was accepted for with its request (R458); the engines and cores that resumed after a debug split
and whose outputs are discarded (R460); the logic side's ends of the barrier links (R519).
`bkpt` and `watch` are the breakpoints and watchpoints set, as (target, index, address, payload) (R507); `halt` why a hart is
halted. -/
structure Safe where
  levels : List (Nat × Nat) := []
  handover : Sparse Nat := []
  forced : List Nat := []
  discarded : List Nat := []
  links : Sparse LinkEnd := []
  bkpt : List (Nat × Nat × Nat × Nat) := []
  watch : List (Nat × Nat × Nat × Nat) := []
  halt : Sparse Nat := []
  deriving DecidableEq, Repr

end Sys2Proof.Machine
end

