-- ==== Sys2Proof/Machine/MgTypes.lean ====
section
/-! DEFINITION. What the management subsystem holds beside its registers (R477 to R509), as plain data. -/
namespace Sys2Proof.Machine

/-- An image that is running, as an attestation report lists it (R502): class and instance of the unit, KIND, slot pair and
half, SVN, VERSION, measurement. -/
structure RunImage where
  cls : Nat
  inst : Nat
  kind : Nat
  slot : Nat
  svn : Nat
  ver : Nat
  meas : List Nat
  deriving DecidableEq, Repr

/-- An antifuse programming that waits for its leave (R67): raising SVN_MIN of a slot pair (R484), moving the lifecycle state,
programming or revoking a key set (R503), programming the root secret with whether each bank will read back (R369). -/
inductive FuseOp where
  | svn (k v : Nat)
  | lifecycle (s : Nat)
  | keyset (s : Nat) (revoke : Bool) (digest : List Nat)
  | root (goodA goodB : Bool)
  deriving DecidableEq, Repr

/-- A flash erasure or programming that waits for its leave (R478): the erasure before the first chunk of an image, a chunk
(R490), COMMIT and CONFIRM with the record they write, the record of a slot pair or of the field retirements in the state area
(R485), a flush of the log, the flush before a lifecycle transition to `s` that has its antifuse leave (R499, R503), and the
erasure, the container and the record of a recovery (R493). -/
inductive FlashOp where
  | erase (k h : Nat) (data : List Byte)
  | chunk (k h off : Nat) (data : List Byte)
  | commit (k : Nat)
  | confirm (k : Nat)
  | record (k : Nat)
  | retired
  | log
  | lifecycle (s : Nat)
  | installErase (c : List Byte)
  | install (c : List Byte)
  | installed
  deriving DecidableEq, Repr

/-- The management subsystem. `straps` are the straps as sampled (R518), `good` the level of PWR_GOOD, `held` that it holds the
logic side in reset, `why` what REASON reads after the next start (R516), `part` the fields of the partition table in use
(R485), `vio33` the VIO banks found at 3.3 V (R513), `booted` that the firmware runs; `chain` and `flushed` the CHAIN of the
last record and of the last flushed one (R497), `lost` the records lost since the last LOST record; `digest` the owner sets'
digests (R481); `runs` the running images but for program sets, `sets` what a report lists of the set in each slot, at 4 ×
cluster + slot (R502); `hash` the arguments of the running hash; `challenge` the last challenge while it can be used, `token`
the token bytes received, each plus 256 (R508); `wdogAt` when the watchdog period began, in raw ns (R464); `recovH0` and
`recovE4` the bytes of a container that have come over H0 and E4 in recovery, `recovFrom` the sender of the E4 session,
`failedHalf` the half of slot pair 0 that failed its check last (R492 to R495), `restarted` that a join has restarted the
management pair from its ROM (R459, R491), `rootWait` that the creation of the root secret waits for the entropy source, with
what will become of each bank (R369). (DESIGN CHOICE: assumption 1; DESIGN CHOICE: assumption 10) -/
structure Mgmt where
  straps : Straps := ⟨false, false, false, false, 0⟩
  good : Bool := false
  held : Bool := false
  why : Nat := 1
  part : PartTable := ⟨0, 0, []⟩
  vio33 : Nat := 0
  booted : Bool := false
  chain : Nat := 0
  flushed : Nat := 0
  lost : Nat := 0
  digest : Sparse Nat := []
  runs : List RunImage := []
  sets : List (Nat × RunImage) := []
  fuse : Option FuseOp := none
  flashOps : List FlashOp := []
  hash : Option (Nat × Nat × Nat) := none
  challenge : Option Nat := none
  token : Sparse Nat := []
  wdogAt : Nat := 0
  recovH0 : List Byte := []
  recovE4 : List Byte := []
  recovFrom : Option RecovPeer := none
  failedHalf : Option Nat := none
  restarted : Bool := false
  rootWait : Option (Bool × Bool) := none
  deriving DecidableEq, Repr

end Sys2Proof.Machine
end

