-- ==== Sys2Proof/Machine/PortTypes.lean ====
section
/-! DEFINITION. The state of CAN and LIN channels, message objects and tunnel streams (R293 to R329), as plain data. -/
namespace Sys2Proof.Machine

/-- A CAN transmit buffer in use (R305 to R310): the frame, its class, its place in load order, the error transmissions it
has had, whether it still waits for its presentation time, the ring completion that waits for its egress time (R255), whether it
has started on the bus, and whether it counts in its segment's HELD (R419). -/
structure CanBuf where
  f : Frame := {}
  cls : Nat := 0
  sched : Bool := false
  order : Nat := 0
  tries : Nat := 0
  wait : Bool := false
  ts : Option (Nat × TxCur) := none
  started : Bool := false
  held : Bool := false
  deriving DecidableEq, Repr

/-- A CAN channel: its buffers by number, the buffer on the bus, and the next load number. Index 64 holds a scheduled frame
that is on the bus while a later one has taken its buffer (R309). -/
structure CanChan where
  bufs : Sparse CanBuf := []
  cur : Option Nat := none
  loads : Nat := 0
  deriving DecidableEq, Repr

/-- A message object (R147, R313). `cfg` is its MoWinCfg word; `lastRx` the raw time of its last valid reception (R317). -/
structure MsgObj where
  valid : Bool := false
  fmt : Nat := 0
  ident : Nat := 0
  cfg : Nat := 0
  data : List Byte := []
  seq : Nat := 0
  acked : Bool := false
  overwritten : Bool := false
  foreign : Nat := 0
  time : Nat := 0
  lastRx : Option Nat := none
  deriving DecidableEq, Repr

/-- A LIN channel: ticks left in the slot of its schedule, the tables and entries to return to from collision tables, the
innermost first, a collision table that starts at the next tick (R321, R322), the identifier whose frame is on the bus, a header
that waits for the bus, whether the go-to-sleep command is still to be sent, whether a table has ever run (`started` is 1,
R420), the ring completions that wait for the egress time of an identifier's next response (R255), whether the frame on the bus
belongs to the current slot, the collision table of the EVENT frame on the bus with the table and entry to return to, and whether
a go-to-sleep command has stopped a schedule (R321, R420). -/
structure LinChan where
  ticks : Nat := 0
  back : List (Nat × Nat) := []
  coll : Option Nat := none
  bus : Option Nat := none
  late : Bool := false
  gts : Bool := false
  started : Nat := 0
  ts : Sparse (List (Nat × TxCur)) := []
  own : Bool := false
  event : Option Nat := none
  eventAt : Option (Nat × Nat) := none
  slept : Bool := false
  deriving DecidableEq, Repr

/-- A tunnel stream's open AVTPDU (R325): its messages, their count, the first message's timestamp and channel, and the cells
it holds. -/
structure TunOpen where
  bytes : List Byte := []
  msgs : Nat := 0
  first : Nat := 0
  port : Nat := 0
  grp : Nat := 0
  deriving DecidableEq, Repr

/-- CAN XL fragments joined so far on a receive stream, and whether the rest of a frame already dropped is passed over (R328). -/
structure XlJoin where
  head : List Byte := []
  data : List Byte := []
  total : Nat := 0
  skip : Bool := false
  deriving DecidableEq, Repr

/-- An entry of an egress timestamp FIFO (R292). -/
structure TsEntry where
  seq : Nat
  port : Nat
  cls : Nat
  time : Nat
  deriving DecidableEq, Repr

/-- Where a rate step stands at one end (R285): nothing; the leave awaited for a REQ to target `t`; REQ sent with number
`txn`; a REQ received whose leave is awaited; ACK sent or received, with the number a DONE must carry to be this step's and
the number this end's DONE carries, DONE sent or received; the lane retraining at the target, or back at the previous
rate. -/
inductive StepPhase where
  | none
  | wantLeave (t : Nat)
  | reqSent (txn t : Nat)
  | partnerLeave (txn t : Nat)
  | agreed (txn back t : Nat) (sent received initiator : Bool)
  | training (t old : Nat)
  | falling (old : Nat)
  deriving DecidableEq, Repr

/-- An Ethernet port beside its registers. `wire` is the frame being sent with its class, `bad` says that its FCS will be
complemented (R229), `sent` how many of its octets earlier fragments carried, `start` when the present one began; `cut` is a
preempted frame with its class and the octets sent (R270). `credit` are the shaper credits in units of 10^-6 bit, up to
`creditAt` (R269); `deficit` and `drr` the deficit round robin (R268); `quanta` the pause timers as last set (R266); `verify`
the verification attempts made (R270); `running` that an operational gate list runs and `hold` that it holds the MAC (R272);
`ts` the egress timestamps; `coll` the collisions of the frame on the wire (R290); `lpiWait` that LPI has ended and the wake
time runs (R289); `low` the windows in a row below DOWN_PCT and `octets` the line octets of the window in progress (R283);
`peerCeil` the partner's CEIL, `txn` the last request number; `anDown` that autonegotiation reports link status 0 (R259); `ctl`
the step frames that wait for the frame on the wire to end (R284). On a 10BASE-T1S port `deferred` says that the next frame has
met a busy medium (R264), `burst` counts the frames sent in its transmit opportunity and `burstEnd` is when the last ended, and
`beaconAt` when a coordinator's next beacon is due (R290); `reqAt` is the port's gate time at which the pending
gate list was asked for (R274). -/
structure EthPort where
  wire : Option (QFrame × Nat) := none
  bad : Bool := false
  sent : Nat := 0
  start : Nat := 0
  cut : Option (QFrame × Nat × Nat) := none
  credit : Sparse Int := []
  creditAt : Nat := 0
  deficit : Sparse Nat := []
  drr : Option Nat := none
  quanta : Sparse Nat := []
  verify : Nat := 0
  running : Bool := false
  hold : Bool := false
  ts : List TsEntry := []
  coll : Nat := 0
  lpiWait : Bool := false
  low : Nat := 0
  octets : Nat := 0
  peerCeil : Nat := 0
  txn : Nat := 0
  step : StepPhase := .none
  anDown : Bool := false
  ctl : List (List Byte) := []
  deferred : Bool := false
  burst : Nat := 0
  burstEnd : Nat := 0
  beaconAt : Nat := 0
  reqAt : Nat := 0
  deriving DecidableEq, Repr

/-- The bus side of the device. `bwHeld` lists the ports and channels of the BW die that have met no frame boundary since its
RESUME (R38), `rxCut` those whose receive FIFO was reset with no frame ended on the wire since (R230), `wakeCut` those that a
frame on their bus has woken and that are still in it (R415). -/
structure Buses where
  eth : Sparse EthPort := []
  can : Sparse CanChan := []
  obj : Sparse MsgObj := []
  lin : Sparse LinChan := []
  linSched : Sparse Nat := []
  tun : Sparse TunOpen := []
  xl : Sparse XlJoin := []
  bwHeld : List Nat := []
  rxCut : List Nat := []
  wakeCut : List Nat := []
  deriving DecidableEq, Repr

end Sys2Proof.Machine
end

