-- ==== Sys2Proof/Machine/TableTypes.lean ====
section
/-! DEFINITION. The state of the forwarding tables (R190 to R224) and of transactions and epochs (R50 to R60, R64), as plain
data. A table entry is one natural number: word w of its TbData layout lies in bits 32w + 31 down to 32w. -/
namespace Sys2Proof.Machine

/-- One version of a table with storage for two (R192): its entries by location (prefix-store index for the LPM tables)
and the seeds it was built under (R194). -/
structure TbVer where
  ents : Sparse Nat := []
  seed0 : Nat := 0
  seed1 : Nat := 0
  deriving DecidableEq, Repr

/-- A versioned table: current version, the superseded one with the epoch that replaced it, the alternate one. The seeds
of the current version are those of TbSeedCur. `stage` is where a background operation stands: 0 none, 1 waiting for
leave, 2 building, 3 waiting for its commit, 4 open under R216; `iface` the interface that started it. `twin` says that
the host table's other version belongs to a REBUILD of table 3 (R216). -/
structure TbTable where
  cur : TbVer := {}
  frozen : Option (TbVer × Nat) := none
  alt : Option TbVer := none
  iface : Nat := 0
  stage : Nat := 0
  hold : Bool := false
  twin : Bool := false
  deriving DecidableEq, Repr

/-- A learn in the learn queue (R199): key, ingress port, stamp. -/
structure Learn where
  key : Nat
  port : Nat
  stamp : Nat
  deriving DecidableEq, Repr

/-- A flush that visits a table (R223). -/
structure Flush where
  iface : Nat
  table : Nat
  pos : Nat
  removed : Nat
  deriving DecidableEq, Repr

/-- What a meter keeps beside its entry (R220): raw time of the last lookup, and the fractions of its two buckets in
units of 1/8,000,000 byte. -/
structure MeterAux where
  last : Nat := 0
  fracC : Nat := 0
  fracE : Nat := 0
  deriving DecidableEq, Repr

/-- All forwarding tables. `t2` to `t9` and the L2 database `t0` have versions; the rest are direct arrays (R217, R219). -/
structure Tables where
  t0 : TbTable := {}
  t2 : TbTable := {}
  t3 : TbTable := {}
  t4 : TbTable := {}
  t9 : TbTable := {}
  vlan : Sparse Nat := []
  filter : Sparse Nat := []
  gate : Sparse Nat := []
  meter : Sparse Nat := []
  recovery : Sparse Nat := []
  meterAux : Sparse MeterAux := []
  gatePos : Sparse Nat := []
  learnQ : List Learn := []
  locks : List Nat := []
  sweep : Option Nat := none
  flushes : List Flush := []
  bad : Sparse Bool := []
  deriving DecidableEq, Repr

/-- One register value that a transaction carries to one unit (R53). -/
structure StageItem where
  unit : Nat
  off : Nat
  data : Nat
  mask : Nat
  entry : Nat
  deriving DecidableEq, Repr

/-- What opened a transaction: EpCmd STAGE, a window or broadcast write (R44), BRING_ONLINE (R36), a mode change (R64), or
the new version of a table (R192). -/
inductive TxnKind where
  | stage
  | window (win : Nat)
  | online (cmdUnit : Nat) (units : List Nat)
  | mode (m : Nat)
  | table (t : Nat)
  deriving DecidableEq, Repr

/-- A transaction (R52, R53): its holder, its items, the targets that have not answered, those that answered STAGED, the first
refusal with its cause, a COMMIT kept for step 5, whether the commit token has been issued, the units that have still to apply
it, the ports among them that it has reached during a frame (R51), whether the rebuild that it commits has failed (R210), and
the units that change state along with the leader of their gang (R383). -/
structure Txn where
  kind : TxnKind := .stage
  holder : Nat := 0
  items : List StageItem := []
  waiting : List Nat := []
  staged : List Nat := []
  refused : Option (Nat × Nat) := none
  keepCommit : Bool := false
  issued : Bool := false
  token : List Nat := []
  arrived : List Nat := []
  dead : Bool := false
  along : List Nat := []
  deriving DecidableEq, Repr

/-- Epochs (R50): the live ones, oldest first; the open transaction and the implicit ones that wait for it (R57); the units a
snapshot token has still to reach (R58); the epochs a slowing mode change still waits for (R64 step 5); the mode of each live
epoch; the values that committed registers of the per-epoch blocks had for epochs before a commit (R51), as (epoch of the
commit, register index, value), newest first; the supply target to go back to when a mode change aborts; `late`, that the epochs
before a slowing commit did not drain in time; `mute`, that the regulator has been found not to answer (R514). -/
structure Epochs where
  live : List Nat := [0]
  txn : Option Txn := none
  waiting : List Txn := []
  snapLeft : List Nat := []
  slowing : List Nat := []
  settling : Bool := false
  modeOf : Sparse Nat := []
  hist : List (Nat × Nat × Nat) := []
  prevMv : Nat := 0
  late : Bool := false
  mute : Bool := false
  deriving DecidableEq, Repr

/-- A unit command that runs (R36, R42): the unit it was written to, its code, ARG, TAG and initiator, the units that take part
with the state each had before it, and those that have not ended. -/
structure UnitOp where
  unit : Nat
  cmd : Nat
  arg : Nat
  tag : Nat
  init : Nat
  prev : List (Nat × Nat)
  wait : List Nat
  deriving DecidableEq, Repr

/-- Who asked for power leave (R67). -/
inductive PaFor where
  | token (hart tk : Nat)
  | gang (n : Nat)
  | rehash (t : Nat)
  | rebuild (t : Nat)
  | remask
  | antifuse
  | flash
  | retrain (port : Nat)
  | rateStep (port : Nat)
  | crypto (page job : Nat)
  | held
  deriving DecidableEq, Repr

/-- A request waiting for power, or a grant held (R68, R69): for whom, cost in mW, LEAVE handle. -/
structure PaItem where
  who : PaFor
  cost : Nat
  handle : Nat
  deriving DecidableEq, Repr

/-- One admission account: the VCORE account or a power die's (R70). -/
structure PaAcct where
  waiting : List PaItem := []
  grants : List PaItem := []
  deriving DecidableEq, Repr

end Sys2Proof.Machine
end

