-- ==== Sys2Proof/Machine/TimeTypes.lean ====
section
/-! DEFINITION. The state of the time unit (R333 to R349) and of the always-on controller (R412 to R422), as plain data. -/
namespace Sys2Proof.Machine

/-- A parameter set of a time domain (R333): ANCHOR in raw ns, OFFSET in units of 2^-32 ns, INC. -/
structure DomSet where
  anchor : Nat := 0
  off : Nat := 0
  inc : Nat := 0x2800000000
  deriving DecidableEq, Repr

/-- A time domain: its history, newest first (R337), and the command that waits for its edge (R335): code and the three
argument words, with the raw time in ns of the edge from which it may apply. -/
structure Domain where
  hist : List DomSet := [{}]
  cmd : Option (Nat × Nat × Nat × Nat) := none
  due : Nat := 0
  deriving DecidableEq, Repr

/-- A trigger as the last TmTtCtl write applied it (R342, R343). `next` is the next firing instant, `count` the instants
since that write (R345); `names` says that a one-shot TOUT trigger still names its output (R348). -/
structure Trig where
  start : Nat := 0
  period : Nat := 0
  target : Nat := 0
  kind : Nat := 0
  td : Nat := 0
  next : Option Nat := none
  count : Nat := 0
  names : Bool := false
  pulse : Bool := false
  deriving DecidableEq, Repr

/-- A capture record (R349). -/
structure CapRec where
  dom : Nat
  raw : Nat
  rising : Bool
  deriving DecidableEq, Repr

/-- The time unit. `sub` is the time since the last edge of the reference in whole ns (R331); `capLast` is the last recorded edge of
an input, and `capShort` that a pulse shorter than FILTER has begun there (R349). -/
structure TimeUnit where
  dom : Sparse Domain := []
  trig : Sparse Trig := []
  cap : Sparse (List CapRec) := []
  capLast : Sparse (Option Nat) := []
  capShort : Sparse Bool := []
  sub : Nat := 0
  deriving DecidableEq, Repr

/-- The device power states of R412. (DEDUCED: assumption 37) -/
inductive PowerState where
  | off | waking | active | sleepEntry | sleep
  deriving DecidableEq, Repr

/-- The always-on controller and the segments beside their registers: power state, off-time running (R517), a latched wake, the
segments whose transceivers have been commanded to sleep (R418), the time of the HV side in ns with the wakes of each WAKE
input in it (R417), the frame-error counter of each decoder's channel (R416), the BW die's copy of the raw counter in ns
(R332), and whether a boot since power-on has written the settings of the BW die (R413). (DEDUCED: assumption 37) -/
structure Sleep where
  power : PowerState := .off
  offTime : Bool := false
  latched : Bool := false
  drained : List Nat := []
  winWakes : Sparse (List Nat) := []
  swfErr : Sparse Nat := []
  bwRaw : Nat := 0
  time : Nat := 0
  settled : Bool := false
  deriving DecidableEq, Repr

end Sys2Proof.Machine
end

