-- ==== Sys2Proof/Machine/State.lean ====
section
/-! DEFINITION. The state of the device as plain data, the reasons a step can stop, and the state after reset. Registers and
counters the spec names live in `regs`, `ctrs` and `snaps`, keyed by their layout and instance; what a block holds beside
its registers lives in the structures below. -/
namespace Sys2Proof.Machine

/-- The frame engines, their memories and the management cores (R77 to R115). `bad` marks words with an uncorrectable
error (R102), by `badKey`. (DESIGN CHOICE: assumption 2) -/
structure Engines where
  threads : Sparse Thread := []
  ld : Sparse Byte := []
  cs : Sparse Byte := []
  ps : Sparse Byte := []
  sets : Sparse SetImage := []
  bad : Sparse Bool := []
  mc : Sparse McCore := []
  sram : Sparse Byte := []
  logSram : Sparse Byte := []
  flash : Sparse Byte := []
  lastIssued : Sparse Nat := []
  deriving DecidableEq, Repr

/-- The frame path between a port's receive FIFO and the order release (R158 to R187). -/
structure Path where
  rxFifo : Sparse (List Frame) := []
  nextSeq : Sparse Nat := []
  dispQ : Sparse (List Work) := []
  lastRecirc : Sparse Bool := []
  recircQ : List Frame := []
  rr : Sparse Nat := []
  slow : Sparse SlowQ := []
  orderNext : Sparse Nat := []
  order : Sparse (List (Nat × OrderItem)) := []
  rules : Sparse Rule := []
  deriving DecidableEq, Repr

/-- A group of cells and how many holders it has (R226). -/
structure CellGrp where
  cells : Nat := 0
  refs : Nat := 0
  deriving DecidableEq, Repr

/-- The packet buffer, its queues, rings and mirror samplers (R225 to R256). `rowOut` is the row being replaced and whether a
command asked for it, `rowDebt` how many of its 256 cells still hold frames that count as free cells go, and `rowWait` the rows
that reported an error meanwhile (R48); `txLast` is the transmit ring each domain served last (R253); `flushAfter` the ports
whose queues are flushed when the frame on the wire ends (R239). -/
structure Buf where
  queues : Sparse (List QFrame) := []
  grps : Sparse CellGrp := []
  nextGrp : Nat := 1
  rx : Sparse RxRing := []
  tx : Sparse TxRing := []
  mirSkip : Sparse Nat := []
  rowOut : Option (Nat × Bool) := none
  rowDebt : Nat := 0
  rowWait : List Nat := []
  txLast : Sparse Nat := []
  flushAfter : List Nat := []
  deriving DecidableEq, Repr

/-- The device, all but the queue of waiting commands. (DESIGN CHOICE: assumption 3; DESIGN CHOICE: assumption 5) -/
structure Dev where
  regs : Sparse Word := []
  ctrs : Sparse Cnt := []
  snaps : Sparse Cnt := []
  raw : Nat := 0
  free : Nat := 0
  ep : Epochs := {}
  ops : List UnitOp := []
  pa : Sparse PaAcct := []
  paNext : Nat := 1
  eng : Engines := {}
  path : Path := {}
  tab : Tables := {}
  buf : Buf := {}
  host : Bridge := {}
  load : Loads := {}
  safe : Safe := {}
  time : TimeUnit := {}
  sleep : Sleep := {}
  bus : Buses := {}
  cx : Crypto := {}
  mg : Mgmt := {}
  outs : List Output := []
  deriving DecidableEq, Repr

/-- Why a step stops with a fault. No meaning of this model ends in a fault: an access the spec does not provide for is
answered as the spec says (R49, R430, R433, R436). Safe. -/
inductive Fault where
  /-- Raised by no meaning; kept so that the type is inhabited. Safe: a run that stopped here would claim nothing. -/
  | none
  deriving DecidableEq, Repr

/-- Why a step is refused. -/
inductive Refusal where
  /-- The command has no meaning in this model. Safe: nothing is claimed of it. -/
  | notModelled (mnemonic : String)
  deriving DecidableEq, Repr

/-- The machine: the commands that wait, first in first out, and the device. -/
structure State where
  pending : List Instr := []
  dev : Dev := {}
  deriving DecidableEq, Repr

/-- The machine right after reset: nothing waits, every register at its reset value (R28, `regReset`), every counter 0.
(DESIGN CHOICE: assumption 3) -/
def State.reset : State := {}

end Sys2Proof.Machine
end

