-- ==== Sys2Proof/Machine/Ops.lean ====
section
/-! DEFINITION. The shared operations over the device: registers and their fields, counters, events and fault classes
(R461 to R476), outputs, unit states (R35, R36, R43) and free values. -/
namespace Sys2Proof.Machine

/-- The index of a register instance in `Dev.regs`. -/
def regKey (r : Reg) (i : Nat) : Nat := i * 1024 + r.ctorIdx

/-- What an unlisted register reads as: its reset value (R28). -/
def regDefault (k : Nat) : Word :=
  match Reg.all[k % 1024]? with
  | some r => regReset r (k / 1024)
  | none => 0

/-- The index of a counter instance in `Dev.ctrs` and `Dev.snaps`. -/
def ctrKey (c : Ctr) (i : Nat) : Nat := i * 1024 + c.ctorIdx

/-- What an unlisted account holds: nothing waits and nothing is granted. -/
def paDefault (_ : Nat) : PaAcct := {}

namespace Dev

/-- A raw timestamp of this instant: bits [79:16] of the raw counter, interpolated between the edges of its reference (R331, R332).
(DESIGN CHOICE: assumption 4; DEDUCED: assumption 34) -/
def ns (d : Dev) : Nat := (d.raw / 2 ^ 16 + d.time.sub) % 2 ^ 64

/-- The word a register holds. -/
def rd (d : Dev) (r : Reg) (i : Nat) : Word := Sparse.get regDefault d.regs (regKey r i)

/-- Storing a word in a register. -/
def wr (d : Dev) (r : Reg) (i : Nat) (v : Word) : Dev :=
  { d with regs := Sparse.set regDefault d.regs (regKey r i) v }

/-- The value of a field. -/
def f (d : Dev) (F : RField) (i : Nat) : Nat := bits F.hi F.lo (d.rd F.reg i).toNat

/-- Storing a field, the rest of the register unchanged. -/
def sf (d : Dev) (F : RField) (i : Nat) (v : Nat) : Dev :=
  d.wr F.reg i (BitVec.ofNat 32 (setBits F.hi F.lo v (d.rd F.reg i).toNat))

/-- Whether a one-bit field is 1. -/
def b (d : Dev) (F : RField) (i : Nat) : Bool := d.f F i == 1

/-- The live value of a counter. -/
def ctr (d : Dev) (c : Ctr) (i : Nat) : Cnt := Sparse.get (fun _ => 0) d.ctrs (ctrKey c i)

def setCtr (d : Dev) (c : Ctr) (i : Nat) (v : Cnt) : Dev :=
  { d with ctrs := Sparse.set (fun _ => 0) d.ctrs (ctrKey c i) v }

/-- Counting `n` in a counter, modulo 2^48. -/
def incBy (d : Dev) (c : Ctr) (i n : Nat) : Dev := d.setCtr c i (d.ctr c i + BitVec.ofNat 48 n)

/-- Counting one. -/
def inc (d : Dev) (c : Ctr) (i : Nat) : Dev := d.incBy c i 1

/-- The snapshot shadow of a counter. -/
def snap (d : Dev) (c : Ctr) (i : Nat) : Cnt := Sparse.get (fun _ => 0) d.snaps (ctrKey c i)

/-- Something the device sends out. (DESIGN CHOICE: assumption 30) -/
def emit (d : Dev) (o : Output) : Dev := { d with outs := d.outs ++ [o] }

/-- What the device sends out in order. (DESIGN CHOICE: assumption 30) -/
def emits (d : Dev) (l : List Output) : Dev := { d with outs := d.outs ++ l }

/-- The logic side's end of barrier link `n` (R519). -/
def link (d : Dev) (n : Nat) : LinkEnd := Sparse.get (fun _ => {}) d.safe.links n

/-- The end of barrier link `n` with its UNACKED shown. -/
def setLink (d : Dev) (n : Nat) (x : LinkEnd) : Dev :=
  ({ d with safe := { d.safe with links := Sparse.set (fun _ => {}) d.safe.links n x } }).sf bwLinkStatus_UNACKED n x.sent.length

/-- The messages that wait leave in order while fewer than 16 have no acknowledgement (R519, R521). -/
def linkFill (d : Dev) (n : Nat) : Dev :=
  let x := d.link n
  let go := x.waiting.take (16 - x.sent.length)
  (d.setLink n { x with sent := x.sent ++ go, waiting := x.waiting.drop (16 - x.sent.length) }).emits
    (go.map fun m => .message n m.seq m.kind m.value)

/-- A message over barrier link `n` (R519). (DEDUCED: assumption 38) -/
def linkSend (d : Dev) (n kind v : Nat) : Dev :=
  let x := d.link n
  (d.setLink n { x with next := (x.next + 1) % 256, waiting := x.waiting ++ [⟨x.next, kind, v⟩] }).linkFill n

/-- The next value of the model's own counter of open values: the free value of width `w`, and the device with the
counter advanced. (DESIGN CHOICE: assumption 5) -/
def fresh (d : Dev) (w : Nat) : Nat × Dev :=
  ((Config.freeValue w d.free).toNat, { d with free := d.free + 1 })

/-- Counting a rejected write in the header of unit `u` (R15, R31). (DESIGN CHOICE: assumption 14) -/
def rejWr (d : Dev) (u : Nat) : Dev := d.inc .unitRejWr u

/-- Counting a work item that unit `u` turned away (R31). -/
def refuse (d : Dev) (u : Nat) : Dev := d.inc .unitRefused u

/-! ### Domains and events -/

/-- Whether domain `n` is bound to a PCIe function, an Ethernet host or nothing (R428). -/
def bind (d : Dev) (n : Nat) : Nat := d.f hbDomBind_BIND n

/-- Whether domain `n` is enabled (R429). -/
def domEnabled (d : Dev) (n : Nat) : Bool :=
  match d.bind n with
  | 0 => if n % 8 = 0 then true else decide (n % 8 ≤ d.f hbEp_NUM_VFS (n / 8))
  | 1 => d.b hbEthHostCfg_ENABLE 0
  | 2 => d.b hbEthHostCfg_ENABLE 1
  | _ => false

/-- The byte of a route register array that serves source `s`. -/
def routeByte (d : Dev) (r : Reg) (base s : Nat) : Nat :=
  bits (8 * (s % 4) + 7) (8 * (s % 4)) (d.rd r (base + s / 4)).toNat

/-- What an unlisted MSI-X table entry reads as: masked, all else 0. -/
def msixDefault (_ : Nat) : Nat := 2 ^ 96

/-- A function as reset leaves it. -/
def fnDefault (_ : Nat) : PciFn := {}

/-- The function of domain `n`. -/
def fn (d : Dev) (n : Nat) : PciFn := Sparse.get fnDefault d.host.fns n

/-- A frame that the device itself places before the dispatcher of port `p`. -/
def pushRx (d : Dev) (p : Nat) (fr : Frame) : Dev :=
  { d with path := { d.path with rxFifo := Sparse.upd (fun _ => []) d.path.rxFifo p (· ++ [fr]) } }

/-- An outbound message of the control-over-Ethernet protocol from domain `n`, in clear, as a first pass of port 22 or
23 (R448, R449). -/
def coeSend (d : Dev) (n typ status seq detail : Nat) (payload : List Byte) : Dev :=
  let h := d.bind n - 1
  let port := d.f hbEthHostCfg_PORT h
  let peer := d.f hbEthHostPeerHi_PEER_HI h * 2 ^ 32 + d.f hbEthHostPeerLo_PEER_LO h
  let own := (d.rd .ethMacAddr (port * 2 + 1)).toNat * 2 ^ 32 + (d.rd .ethMacAddr (port * 2)).toNat
  let bytes := beBytes 6 peer ++ beBytes 6 own ++ [0x88, 0xB6, 1, byteOf typ, byteOf (n % 16), byteOf status]
    ++ beBytes 2 seq ++ beBytes 2 payload.length ++ beBytes 4 detail ++ payload
  d.pushRx (22 + h) { bytes := bytes, port := 22 + h, rxTime := d.ns }

/-- Sending vector `v` of domain `n`: an MSI-X message on a PCIe function, where Bus Master is off or the vector masked
a bit of the pending-bit array instead (R444, R447); an EVENT message on an Ethernet-bound domain (R449, R475). -/
def sendVector (d : Dev) (n v : Nat) : Dev :=
  match d.bind n with
  | 0 =>
    let e := Sparse.get msixDefault d.host.msix (n * 64 + v)
    if (d.fn n).bme && !bitAt 96 e then d.emit (.msix n v (bits 63 0 e) (bits 95 64 e))
    else { d with host := { d.host with pba := Sparse.set (fun _ => false) d.host.pba (n * 64 + v) true } }
  | 3 => d
  | _ => d.coeSend n 5 0 0 0 [byteOf v, 0, 0, 0]

/-- Setting bit `s` of a domain's status set; a change from 0 to 1 is an occurrence (R474, R475). -/
def raiseDom (d : Dev) (s n : Nat) : Dev :=
  let route := d.routeByte .evRoute (64 * n) s
  let forced := s = 4 ∨ s = 5
  let en := bits 7 7 route = 1
  if d.domEnabled n && (decide forced || decide en) then
    let w := d.rd .evDomStatus (8 * n + s / 32)
    if bits (s % 32) (s % 32) w.toNat = 1 then d
    else
      let d := d.wr .evDomStatus (8 * n + s / 32) (w ||| BitVec.ofNat 32 (2 ^ (s % 32)))
      d.sendVector n (if en then bits 5 0 route else 0)
  else d

/-- Setting bit `s` of status set 16 or 17, held in `r`. -/
def raiseSet (d : Dev) (r : Reg) (s : Nat) : Dev :=
  d.wr r (s / 32) (d.rd r (s / 32) ||| BitVec.ofNat 32 (2 ^ (s % 32)))

/-- Raising event source `s` with its detail (R473 to R475). -/
def raiseEvent (d : Dev) (s inst info : Nat) : Dev :=
  let d := d.wr .evDetail s (BitVec.ofNat 32 (inst % 1024 * 2 ^ 22 + info % 65536))
  let d := (List.range 16).foldl (fun d n => d.raiseDom s n) d
  let d := if s = 4 ∨ s = 5 ∨ bits 7 7 (d.routeByte .evMcRoute 0 s) = 1 then d.raiseSet .evMcStatus s else d
  if bits 4 0 (d.routeByte .evPinRoute 0 s) ≠ 0 then d.raiseSet .evPinStatus s else d

/-! ### Requests for leave (R67, R68) -/

/-- The operating mode in force for new frames. -/
def mode (d : Dev) : Nat := d.f mdModeStatus_MODE 0

/-- The MdPaBudget entry that shows account `a` (R70). -/
def paEntry (d : Dev) (a : Nat) : Nat := if a = 0 then d.mode else a + 2

def acct (d : Dev) (a : Nat) : PaAcct := Sparse.get paDefault d.pa a

def paBudget (d : Dev) (a : Nat) : Nat := d.f mdPaBudget_BUDGET_MW (d.paEntry a)

/-- Tokens granted and not released, in mW. -/
def paInUse (d : Dev) (a : Nat) : Nat := ((d.acct a).grants.map (·.cost)).sum

/-- Showing an account in MdPaBudget and MdPaWait; the VCORE entries of the other modes read 0 (R70). -/
def paShow (d : Dev) (a : Nat) : Dev :=
  let e := d.paEntry a
  let d := if a = 0 then [0, 1, 2].foldl (fun d i =>
      let d := d.sf mdPaBudget_IN_USE_MW i 0
      let d := d.sf mdPaWait_HEAD_MW i 0
      d.sf mdPaWait_DEPTH i 0) d else d
  let d := d.sf mdPaBudget_IN_USE_MW e (d.paInUse a)
  let d := d.sf mdPaWait_HEAD_MW e (match (d.acct a).waiting with | [] => 0 | x :: _ => x.cost)
  d.sf mdPaWait_DEPTH e (d.acct a).waiting.length

def setAcct (d : Dev) (a : Nat) (x : PaAcct) : Dev :=
  { d with pa := Sparse.set paDefault d.pa a x }.paShow a

/-- Whether a cost fits beside the grants of an account. (DEDUCED: assumption 17) -/
def paFits (d : Dev) (a cost : Nat) : Bool := decide (d.paInUse a + cost ≤ d.paBudget a)

/-- A request for leave (R67, R68). It joins the end of the waiting list, or is denied at once when its cost exceeds the
whole budget or 64 requests wait. Answers the handle, or `none` when denied. (DEDUCED: assumption 17) -/
def paRequest (d : Dev) (a : Nat) (who : PaFor) (cost : Nat) : Option Nat × Dev :=
  let x := d.acct a
  if decide (d.paBudget a < cost) || decide (64 ≤ x.waiting.length) then (none, d.inc .mdPaDenied 0)
  else
    let h := d.paNext
    let waits := !x.waiting.isEmpty || !d.paFits a cost
    let d := { d with paNext := h + 1 }
    let d := d.setAcct a { x with waiting := x.waiting ++ [⟨who, cost, h⟩] }
    (some h, if waits then d.inc .mdPaDeferred 0 else d)

/-- Asking for leave to erase or program flash (R67, R478): `false` when it is denied at once. -/
def flashQueue (d : Dev) (op : FlashOp) : Bool × Dev :=
  match d.paRequest 0 .flash 150 with
  | (none, d) => (false, d)
  | (some _, d) => (true, { d with mg := { d.mg with flashOps := d.mg.flashOps ++ [op] } })

/-- Asking for leave for a programming that one request serves as well as two, and that a denial leaves to the next occasion.
(DESIGN CHOICE: assumption 47) -/
def flashOnce (d : Dev) (op : FlashOp) : Dev := if d.mg.flashOps.contains op then d else (d.flashQueue op).2

/-! ### The log (R497 to R499) -/

/-- Log record codes. -/
def logBoot : Nat := 1
def logImageFail : Nat := 2
def logSettingsReset : Nat := 3
/-- (DEDUCED: assumption 44) -/
def logUnitFault : Nat := 4
def logStuck : Nat := 7
def logStorm : Nat := 8
def logLifecycle : Nat := 9
/-- (DEDUCED: assumption 44) -/
def logUnlock : Nat := 10
def logUpdate : Nat := 12
def logMismatch : Nat := 13
def logRollback : Nat := 14
def logSepiaEnter : Nat := 5
def logSepiaExit : Nat := 6
def logDebugSplit : Nat := 11
def logLost : Nat := 15
def logSvn : Nat := 16

/-- Record bytes 0x08 to 0x17: TIME, CODE, UNIT, DATA. (DEDUCED: assumption 44) -/
def logBody (time code unit data : Nat) : List Byte := leBytes 8 time ++ leBytes 2 code ++ leBytes 2 unit ++ leBytes 4 data

/-- Writing one record into the log ring with its SEQ, BOOT and CHAIN. (DEDUCED: assumption 44) -/
def logWrite (d : Dev) (body : List Byte) : Dev :=
  let seq := d.f mgLogSeq_NEXT 0
  let head := leBytes 4 seq ++ leBytes 4 (d.f mgBootStatus_BOOT_COUNT 0) ++ body
  let chain := (sha256 ((leBytes 8 d.mg.chain ++ head).map BitVec.toNat)).take 8
  let rec' := head ++ chain.map byteOf
  let d := { d with eng := { d.eng with logSram := memSet d.eng.logSram (32 * (seq % 8192)) rec' } }
  let d := { d with mg := { d.mg with chain := leNat (chain.map byteOf) } }
  (d.sf mgLogSeq_NEXT 0 (seq + 1)).sf mgLogStatus_UNFLUSHED 0 (d.f mgLogStatus_UNFLUSHED 0 + 1)

/-- The firmware has the log flushed when 4,096 records are unflushed (R499). -/
def logFull (d : Dev) : Dev := if d.mg.booted ∧ 4096 ≤ d.f mgLogStatus_UNFLUSHED 0 then d.flashOnce .log else d

/-- Appending a record (R499): lost when 8,192 are unflushed; after losses a LOST record goes before it, and the append
succeeds when both fit. (DEDUCED: assumption 44) -/
def logAppend (d : Dev) (body : List Byte) : Dev :=
  let n := d.mg.lost
  if 8192 < d.f mgLogStatus_UNFLUSHED 0 + (if n = 0 then 1 else 2) then
    (({ d with mg := { d.mg with lost := n + 1 } }).inc .mgLogLost 0).raiseEvent 157 0 2
  else if n = 0 then (d.logWrite body).logFull
  else
    let d := { d with mg := { d.mg with lost := 0 } }
    ((d.logWrite (logBody d.ns logLost 0 n)).logWrite body).logFull

/-- A record of the device's own or of its firmware. (DEDUCED: assumption 44) -/
def logPut (d : Dev) (code unit data : Nat) : Dev := d.logAppend (logBody d.ns code unit data)

/-- Raising event source `s`. The running firmware answers EV7, EV133 and EV134 with a log record (R499), and the events of
Sepia and of a debug split with theirs (R498). A logic side held in reset has no event unit that could take it (R516).
(DEDUCED: assumption 43; DEDUCED: assumption 44) -/
def raise (d : Dev) (s inst info : Nat) : Dev :=
  if d.mg.held then d
  else
    let d := d.raiseEvent s inst info
    if !d.mg.booted then d
    else match s with
    | 2 => d.logPut logDebugSplit 0 (inst % 64)
    | 4 => d.logPut logSepiaEnter 0 (info % 16)
    | 5 => d.logPut logSepiaExit 0 0
    | 7 => d.logPut logUnitFault inst info
    | 133 => d.logPut logStuck 0 inst
    | 134 => d.logPut logStorm 0 inst
    | _ => d

/-- Whether interrupt line `l`, 0 to 30, of the management cores is pending (R475). -/
def linePending (d : Dev) (l : Nat) : Bool :=
  (List.range 256).any fun s =>
    let byte := d.routeByte .evMcRoute 0 s
    bits 7 7 byte == 1 && bits 4 0 byte == l
      && bits (s % 32) (s % 32) (d.rd .evMcStatus (s / 32)).toNat == 1

/-- Whether INTk_N is driven low (R475). -/
def intLow (d : Dev) (k : Nat) : Bool :=
  (List.range 256).any fun s =>
    bits k k (d.routeByte .evPinRoute 0 s) == 1 && bits (s % 32) (s % 32) (d.rd .evPinStatus (s / 32)).toNat == 1

/-- Whether the device is in Sepia (R465). (DEDUCED: assumption 43) -/
def inSepia (d : Dev) : Bool := d.b lsSepiaCtl_IN_SEPIA 0

/-- Whether FAULT_N is driven low (R463). -/
def faultLow (d : Dev) : Bool :=
  d.inSepia
    || (List.range 11).any (fun c => d.b lsFaultStatus_ACTIVE c && d.f lsFaultCfg_REACTION c ≠ 0)
    || (List.range 256).any (fun s =>
        bits 4 4 (d.routeByte .evPinRoute 0 s) == 1
          && bits (s % 32) (s % 32) (d.rd .evPinStatus (s / 32)).toNat == 1)

/-! ### Units -/

def stOffline : Nat := 0
def stStaged : Nat := 1
def stRun : Nat := 2
def stQuiesced : Nat := 3
def stUpdating : Nat := 4
def stFaulted : Nat := 5

/-- The members of core pool `k`: the cores whose POOL names it (R350). -/
def poolCores (d : Dev) (k : Nat) : List Nat :=
  (List.range 12).filter fun n => d.f cxCoreCfg_POOL n = k

/-! ### Gangs -/

/-- The gang size that a PdGang value gives a die channel: G8 before G4 before G2 (R382). -/
def gangSizeOf (v c : Nat) : Nat :=
  if bitAt (24 + c / 8) v then 8 else if bitAt (16 + c / 4) v then 4 else if bitAt (c / 2) v then 2 else 1

def gangSize (d : Dev) (n : Nat) : Nat := gangSizeOf (d.rd .pdGang (n / 32)).toNat (n % 32)

/-- The leader of a channel's gang: its lowest-numbered channel (R383). (DEDUCED: assumption 36) -/
def leader (d : Dev) (n : Nat) : Nat := n / 32 * 32 + n % 32 / d.gangSize n * d.gangSize n

def isLeader (d : Dev) (n : Nat) : Bool := d.leader n == n

/-- The leaders and single channels. -/
def allLeaders (d : Dev) : List Nat := (List.range 96).filter d.isLeader

/-- The members of load group `g`, taken from LdGroups when asked (R34, R405): leaders and single channels whose bit is
set. -/
def groupChans (d : Dev) (g : Nat) : List Nat := d.allLeaders.filter fun n => bits g g (d.f ldGroups_GROUPS n) = 1

/-- The direct children of a unit in directory order (R34, R350, R405). The order of siblings is that of R49's offsets.
(DESIGN CHOICE: assumption 52) -/
def children (d : Dev) (u : Nat) : List Nat :=
  match unitKind u with
  | .id => [1, 2, 3, 4, 5, 6, 7, 8] ++ (List.range 16).map uHr ++ (List.range 20).map uEth ++ (List.range 48).map uCan
      ++ [uMo] ++ (List.range 16).map uLin ++ [uTun, uFe, uCls, uTb, uBq, uCx] ++ (List.range 20).map uPage
      ++ [uKs, uLdb] ++ (List.range 16).map uLdg ++ (List.range 3).map uPd ++ [uBw] ++ (List.range 4).map uBl ++ [uDbg]
  | .ls => [uMc 0, uMc 1]
  | .fe => (List.range 8).map uFc
  | .fc => (List.range 8).map fun k => uEng (8 * unitInst u + k)
  | .cx => (List.range 4).map uCp
  | .cp => (d.poolCores (unitInst u)).map uAc
  | .ldb => (List.range 96).map uLd
  | .ldg => (d.groupChans (unitInst u)).map uLd
  | _ => []

/-- The parent of a unit; the root is its own (R34). Units that no rule places beneath another have the root as parent.
(DESIGN CHOICE: assumption 52) -/
def parent (d : Dev) (u : Nat) : Nat :=
  match unitKind u with
  | .mc => uLs
  | .fc => uFe
  | .eng => uFc (unitInst u / 8)
  | .cp => uCx
  | .ac => uCp (d.f cxCoreCfg_POOL (unitInst u))
  | .ld => uLdb
  | _ => 0

/-- The stored STATE of a leaf unit. (DEDUCED: assumption 15) -/
def leafState (d : Dev) (u : Nat) : Nat := d.f unitState_STATE u

/-- The state a STAGED unit behaves as (R543): the one PREV_STATE records. -/
def actsAs (d : Dev) (u : Nat) : Nat :=
  if d.leafState u = stStaged then d.f unitState_PREV_STATE u else d.leafState u

/-- The common state of several units, in the order of R43 where they differ, and whether they differ (MIXED). Of no units it is
RUN, as R405 has it for load windows. (DESIGN CHOICE: assumption 52) -/
def common : List Nat → Nat × Bool
  | [] => (stRun, false)
  | x :: xs =>
    if xs.all (· == x) then (x, false)
    else
      let all := x :: xs
      match [stFaulted, stUpdating, stStaged, stQuiesced, stOffline].find? (all.contains ·) with
      | some s => (s, true)
      | none => (stRun, true)

/-- The leaves at most `n` levels below a unit: the unit itself when it is no group. -/
def leavesTo (d : Dev) : Nat → Nat → List Nat
  | 0, u => [u]
  | n + 1, u => if unitIsGroup u then (d.children u).flatMap (d.leavesTo n) else [u]

/-- The leaves below a unit; the tree is four levels deep (R34). -/
def leaves (d : Dev) (u : Nat) : List Nat := d.leavesTo 4 u

/-- The units whose states a group unit shows: its children, and of the load channel block the leaders and single channels (R43,
R405). -/
def stateParts (d : Dev) (u : Nat) : List Nat :=
  match unitKind u with
  | .ldb => d.allLeaders.map uLd
  | _ => d.children u

/-- STATE and MIXED of a unit over the tree's lower `n` levels. -/
def ustateTo (d : Dev) : Nat → Nat → Nat × Bool
  | 0, u => (d.leafState u, false)
  | n + 1, u => if unitIsGroup u then common ((d.stateParts u).map fun c => (d.ustateTo n c).1) else (d.leafState u, false)

/-- STATE and MIXED of a unit as its header shows them (R43). -/
def ustate (d : Dev) (u : Nat) : Nat × Bool := d.ustateTo 4 u

/-- Whether a unit admits work: in RUN, or STAGED from RUN, with no QUIESCE draining (R37, R543, R544). -/
def admits (d : Dev) (u : Nat) : Bool := d.actsAs u == stRun && !d.b unitState_DRAINING u

/-- Whether RWL fields of a unit may be written: QUIESCED or OFFLINE, a group when every child is (R25, R543, R545). -/
def unlocked (d : Dev) (u : Nat) : Bool :=
  (d.leaves u).all fun l => d.actsAs l == stQuiesced || d.actsAs l == stOffline

/-- The position of a unit in the depth-first directory (R34). Pools list their present members. -/
def dirIndex (d : Dev) (u : Nat) : Nat :=
  if u ≤ 6 then u
  else if 346 ≤ u ∧ u ≤ 347 then u - 339
  else if u ≤ 111 then u + 2
  else if u ≤ 183 then
    match unitKind u with
    | .fc => 114 + 9 * unitInst u
    | _ => 114 + 9 * (unitInst u / 8) + 1 + unitInst u % 8
  else if u ≤ 187 then u + 2
  else if u ≤ 203 then
    match unitKind u with
    | .cp => 190 + unitInst u + ((List.range 12).filter fun n => d.f cxCoreCfg_POOL n < unitInst u).length
    | _ =>
      let k := d.f cxCoreCfg_POOL (unitInst u)
      191 + k + ((List.range 12).filter fun n => d.f cxCoreCfg_POOL n < k
        ∨ (d.f cxCoreCfg_POOL n = k ∧ n < unitInst u)).length
  else if u ≤ 225 then u + 2
  else if u ≤ 241 then u - 226 + 324
  else if u ≤ 337 then u - 242 + 228
  else if u ≤ 345 then u + 2
  else 348

/-- The unit at a directory index. -/
def dirUnit (d : Dev) (i : Nat) : Option Nat :=
  (List.range unitCount).find? fun u => d.dirIndex u == i

/-- Moving a leaf unit to a state: PREV_STATE records the one it leaves, and the unit-state event is raised (R36). -/
def setState (d : Dev) (u s : Nat) : Dev :=
  let d := d.sf unitState_PREV_STATE u (d.leafState u)
  let d := d.sf unitState_STATE u s
  d.raise (32 + (runOf u).ev) (d.dirIndex u) s

end Dev

end Sys2Proof.Machine
end

