-- ==== Sys2Proof/Machine/Power.lean ====
section
/-! DEFINITION. Power admission (R67 to R70): requests, grants, releases, and the operating mode in force. Account 0 is the
VCORE account, accounts 1 to 3 those of the power dies P0 to P2. -/
namespace Sys2Proof.Machine

namespace Dev

/-- Taking a waiting request away without counting it (a withdrawal, R385). -/
def paWithdraw (d : Dev) (a : Nat) (who : PaFor) : Dev :=
  let x := d.acct a
  d.setAcct a { x with waiting := x.waiting.filter fun i => decide (i.who ≠ who) }

/-- Releasing the earliest grant of an asker, or its latest. -/
def paReleaseFirst (d : Dev) (a : Nat) (who : PaFor) : Dev :=
  let x := d.acct a
  d.setAcct a { x with grants := x.grants.eraseP (·.who == who) }
def paReleaseLast (d : Dev) (a : Nat) (who : PaFor) : Dev :=
  let x := d.acct a
  d.setAcct a { x with grants := (x.grants.reverse.eraseP (·.who == who)).reverse }

/-- Releasing every grant of an asker (R67). -/
def paRelease (d : Dev) (a : Nat) (who : PaFor) : Dev :=
  let x := d.acct a
  d.setAcct a { x with grants := x.grants.filter fun i => decide (i.who ≠ who) }

/-- Whether an asker holds a grant. -/
def paHolds (d : Dev) (a : Nat) (who : PaFor) : Bool := (d.acct a).grants.any fun i => decide (i.who = who)

/-- Granting the request at the head, when it fits (R68). -/
def paGrantHead (d : Dev) (a : Nat) : Option PaItem × Dev :=
  let x := d.acct a
  match x.waiting with
  | [] => (none, d)
  | h :: t =>
    if d.paFits a h.cost then (some h, d.setAcct a { waiting := t, grants := x.grants ++ [h] }) else (none, d)

/-- The first waiting request that a deadline can deny; a re-mask sweep is deferred, never skipped (R68). -/
def paExpired (d : Dev) (a : Nat) : Option PaItem := (d.acct a).waiting.find? fun i => decide (i.who ≠ .remask)

/-- The supply target of a mode in mV (R61). -/
def targetMv (m : Nat) : Nat := if m = 0 then 600 else if m = 1 then 750 else 850

end Dev

end Sys2Proof.Machine
end

