-- ==== Sys2Proof/Machine/Load.lean ====
section
/-! DEFINITION. Protected load channels (R381 to R411): gangs, the protection state machine, turn-on under power admission,
trips, the wire model, orders from Sepia and loss of control, and sampling. -/
namespace Sys2Proof.Machine

def ldOff : Nat := 0
def ldAdmit : Nat := 1
def ldRamp : Nat := 2
def ldOn : Nat := 3
def ldCool : Nat := 4
def ldLatched : Nat := 5
def ldUv : Nat := 6

def ldDefault (_ : Nat) : LdCh := {}
def aggDefault (_ : Nat) : AggMean := {}

/-- The signed value of a `w`-bit field. -/
def sext (w v : Nat) : Int := if bitAt (w - 1) v then (v : Int) - 2 ^ w else v

namespace Dev

def ld (d : Dev) (n : Nat) : LdCh := Sparse.get ldDefault d.load.ch n

/-- The channels of the gang that `n` leads. -/
def gang (d : Dev) (n : Nat) : List Nat := (List.range (d.gangSize n)).map (d.leader n + ·)

/-- The leaders and single channels of a die. -/
def dieLeaders (d : Dev) (p : Nat) : List Nat := ((List.range 32).map (32 * p + ·)).filter d.isLeader

/-- LdStatus as the die reports it for channel `n` of the gang that `l` leads (R383, R384). -/
def ldWord (d : Dev) (n : Nat) : Nat :=
  let l := d.leader n
  let c := d.ld l
  let bit (b : Bool) (i : Nat) : Nat := if b then 2 ^ i else 0
  bit (l == n) 31 + (match d.gangSize n with | 2 => 1 | 4 => 2 | 8 => 3 | _ => 0) * 2 ^ 29 + l * 2 ^ 22
    + c.st * 2 ^ 19 + c.retries % 16 * 2 ^ 15 + c.cause * 2 ^ 12 + bit c.exhausted 11 + bit c.sepia 10 + bit c.loc 9
    + bit c.outOn 8 + bit c.openOff 5 + bit c.openOn 4 + bit c.denied 3 + bit c.wireTrip 2 + bit c.ocTrip 1
    + bit c.thermTrip 0

def ldReported (d : Dev) (p : Nat) : Bool := Sparse.get (fun _ => false) d.load.reported p

/-- Updating the logic-side copy of a gang's registers, once the die has reported (R384, R445). -/
def ldShow (d : Dev) (l : Nat) : Dev :=
  if d.ldReported (l / 32) then
    (d.gang l).foldl (fun d n =>
      let d := d.wr .ldStatus n (BitVec.ofNat 32 (d.ldWord n))
      let th := if d.isLeader n then (d.ld n).theta / 2 ^ 16 else 0
      let d := d.sf ldI2t_THETA n th
      if d.isLeader n then d.sf ldCtl_ON n (if (d.ld n).on then 1 else 0) else d) d
  else d

/-- Changing what the die holds for a leader, and showing it. (DEDUCED: assumption 36) -/
def ldUpd (d : Dev) (l : Nat) (g : LdCh → LdCh) : Dev :=
  { d with load := { d.load with ch := Sparse.upd ldDefault d.load.ch l g } }.ldShow l

/-- A condition of a channel at its die (R385, R445, R473): its event follows the copy of the status that shows it, so it waits
while the logic side has no report of the die. -/
def ldEvent (d : Dev) (l what : Nat) : Dev :=
  if d.ldReported (l / 32) then d.raise (160 + l) l what
  else { d with load := { d.load with notes := d.load.notes.filter (· != (l, what)) ++ [(l, what)] } }

/-- The channel's fault event (R385, R473). -/
def ldFault (d : Dev) (l : Nat) : Dev := d.ldEvent l 1

/-! ### Profiles and cost -/

/-- The phases of a profile up to and with the first that has LAST, when the profile is valid (R389). -/
def ldPhases (d : Dev) (p prof : Nat) : Option (List Nat) :=
  let ws := (List.range 8).map fun i => (d.rd .pdProfile (128 * p + 8 * prof + i)).toNat
  match ws.findIdx? (fun w => bitAt 15 w) with
  | none => none
  | some k =>
    let ph := ws.take (k + 1)
    let okWord (w : Nat) : Bool := decide (1 ≤ bits 31 26 w ∧ bits 31 26 w ≤ 50 ∧ 1 ≤ bits 25 16 w
      ∧ 1 ≤ bits 8 0 w ∧ bits 8 0 w ≤ 200)
    let above := ((ph.filter fun w => decide (50 < bits 8 0 w)).map (bits 25 16)).sum
    if ph.all okWord && decide (above ≤ 50) && prof != 6 && prof != 7 then some ph else none

/-- ceil(a / b) of the cost of R391, in mW. -/
def ldCost (d : Dev) (l : Nat) (ph : List Nat) : Nat :=
  let v := d.f pdVbat_MV (l / 32)
  let w := d.f pdAdmit_WINDOW_MS (l / 32)
  let k := d.gangSize l
  if k = 2 then cdiv (v * v) (10000 * d.f ldCfg_SLEW l * w)
  else cdiv (v * k * (ph.map fun x => bits 8 0 x * bits 25 16 x).sum) (400 * w)

/-! ### The state machine of R385 -/

/-- The grant of a gang's turn-on ends, where it holds one: its latest. -/
def ldRelease (d : Dev) (l : Nat) : Dev :=
  if (d.ld l).grant then
    (d.paReleaseLast (1 + l / 32) (.gang l)).ldUpd l fun c => { c with grant := false, windowDone := false }
  else d

/-- A gang leaves the state it is in, by a trip or ON := 0: a request that waits is withdrawn, and a grant ends
in RAMP; in ON it is held to the end of its window (R392). -/
def ldLeave (d : Dev) (l : Nat) : Dev :=
  let d := d.paWithdraw (1 + l / 32) (.gang l)
  if (d.ld l).grant && (d.ld l).st == ldOn then d.ldUpd l fun c => { c with grant := false, windowDone := false, held := c.held + 1 }
  else d.ldRelease l

/-- Entering RAMP: the switch conducts, and a 4-gang or 8-gang copies its profile (R387, R388). -/
def ldStartRamp (d : Dev) (l : Nat) (grant : Bool) : Dev :=
  let ph := if 4 ≤ d.gangSize l then (d.ldPhases (l / 32) (d.f ldCfg_PROFILE l)).getD [] else []
  d.ldUpd l fun c => { c with
    st := ldRamp, outOn := true, phases := ph, phase := 0, grant := grant, windowDone := false, olOn := 0, olOff := 0 }

/-- Whether a die's barrier link carries a heartbeat. -/
def dieLink (d : Dev) (p : Nat) : Bool := d.b pdStatus_LINK p

/-- Whether power die `p` runs an image; without one it holds every output off (R488). -/
def dieRuns (d : Dev) (p : Nat) : Bool := d.mg.runs.any fun r => r.cls == 0x3B && r.inst == p

/-- A turn-on under a profile that is not valid (R389). -/
def ldBadProfile (d : Dev) (l : Nat) : Dev :=
  (d.ldUpd l fun c => { c with st := ldOff, on := false, cause := 6, outOn := false }).ldFault l

/-- "Turn on" of R385: ADMIT for a gang, RAMP for a single channel or without leave; BAD_PROFILE under R389, denial under
R68. -/
def ldTurnOn (d : Dev) (l : Nat) (leave : Bool) : Dev :=
  let k := d.gangSize l
  let ph := d.ldPhases (l / 32) (d.f ldCfg_PROFILE l)
  if !d.dieRuns (l / 32) then d
  else if 4 ≤ k ∧ ph = none then d.ldBadProfile l
  else if k = 1 ∨ leave = false ∨ d.dieLink (l / 32) = false then d.ldStartRamp l false
  else
    match d.paRequest (1 + l / 32) (.gang l) (d.ldCost l (ph.getD [])) with
    | (some _, d) => d.ldUpd l fun c => { c with st := ldAdmit }
    | (none, d) =>
      ((d.ldUpd l fun c => { c with st := ldOff, on := false, denied := true, cause := 5 }).inc .ldDenied l).ldFault l

/-- A grant for a gang in ADMIT (R385); RAMP takes the profile as it stands then (R388, R389). -/
def ldGranted (d : Dev) (l : Nat) : Dev :=
  if (d.ld l).st ≠ ldAdmit then d.paReleaseLast (1 + l / 32) (.gang l)
  else if 4 ≤ d.gangSize l ∧ d.ldPhases (l / 32) (d.f ldCfg_PROFILE l) = none then
    (d.paReleaseLast (1 + l / 32) (.gang l)).ldBadProfile l
  else d.ldStartRamp l true

/-- A denial of a gang in ADMIT (R385). -/
def ldDeniedBy (d : Dev) (l : Nat) : Dev :=
  if (d.ld l).st = ldAdmit then
    ((d.ldUpd l fun c => { c with st := ldOff, on := false, denied := true, cause := 5 }).inc .ldDenied l).ldFault l
  else d

/-- ON written 0. -/
def ldSwitchOff (d : Dev) (l : Nat) : Dev :=
  let d := d.ldUpd l fun c => { c with on := false }
  let s := (d.ld l).st
  if s = ldLatched ∨ s = ldOff then d
  else (d.ldLeave l).ldUpd l fun c => { c with st := ldOff, outOn := false, olOn := 0, olOff := 0 }

/-- ON written 1; `leave` says whether a gang asks for leave. -/
def ldSwitchOn (d : Dev) (l : Nat) (leave : Bool) : Dev :=
  let d := d.ldUpd l fun c => { c with on := true }
  if (d.ld l).st = ldOff then
    let d := d.ldUpd l fun c => { c with retries := d.f ldCfg_RETRY_MAX l }
    (d.inc .ldOnCnt l).ldTurnOn l leave
  else d

/-- Whether every junction of the gang has cooled 20 K below its trip temperature (R393, R394). A sensor without a record
of its own is held to the nominal shutdown point. Temperatures count in 0.25 °C. (DEDUCED: assumption 36) -/
def ldCooled (d : Dev) (l : Nat) : Bool :=
  (d.gang l).all fun n => decide (sext 16 (d.f ldTemp_TJ n) ≤ (d.ld n).tripTemp.getD 680 - 80)

/-- CLEAR (R394): accepted in LATCHED when the junctions have cooled and LdI2t.THETA is at most 0.5. (DEDUCED: assumption 36) -/
def ldClear (d : Dev) (l : Nat) : Dev :=
  if (d.ld l).st = ldLatched then
    if d.ldCooled l && decide ((d.ld l).theta / 2 ^ 16 ≤ 2 ^ 15) then
      let d := (d.gang l).foldl (fun d n => d.ldUpd n fun c => { c with tripTemp := none }) d
      let d := d.ldUpd l fun c => { c with exhausted := false }
      if (d.ld l).on then
        let d := d.ldUpd l fun c => { c with retries := d.f ldCfg_RETRY_MAX l }
        (d.inc .ldOnCnt l).ldTurnOn l true
      else d.ldUpd l fun c => { c with st := ldOff }
    else d.rejWr (uLd l)
  else d

/-- A thermal (1) or overcurrent (2) trip in RAMP or ON (R385, R394). -/
def ldTrip (d : Dev) (l cause : Nat) : Dev :=
  let s := (d.ld l).st
  if s = ldRamp ∨ s = ldOn then
    let d := d.ldLeave l
    let restart := !d.b ldCfg_THERM_MODE l
    let go := restart && decide (0 < (d.ld l).retries)
    let d := d.ldUpd l fun c => { c with
      st := if go then ldCool else ldLatched, outOn := false, cause := cause,
      retries := if go then c.retries - 1 else c.retries,
      exhausted := if go then c.exhausted else restart || c.exhausted,
      thermTrip := c.thermTrip || cause == 1, ocTrip := c.ocTrip || cause == 2, olOn := 0, olOff := 0 }
    (d.inc (if cause = 1 then .ldThermTrip else .ldOcTrip) l).ldFault l
  else d

/-- The time in current limit of R381 has passed; time inside the phases of a profile does not count (R388, R395). -/
def ldOverCurrent (d : Dev) (l : Nat) : Dev :=
  if (d.ld l).st = ldRamp ∧ (d.ld l).phases ≠ [] then d else d.ldTrip l 2

/-- A wire trip (R396): RAMP or ON to LATCHED. -/
def ldWireTripped (d : Dev) (l : Nat) : Dev :=
  let s := (d.ld l).st
  if s = ldRamp ∨ s = ldOn then
    let d := (d.ldLeave l).ldUpd l fun c => { c with
      st := ldLatched, outOn := false, cause := 3, wireTrip := true, olOn := 0, olOff := 0 }
    (d.inc .ldWireTrip l).ldFault l
  else d

/-- Rated current in 10 mA and time constant in 100 ms of a WIRE code (R397). -/
def wireModel (d : Dev) (l : Nat) : Nat × Nat :=
  match d.f ldWire_WIRE l with
  | 0 => (d.f ldWire_IN_10MA l, d.f ldWire_TAU_100MS l)
  | 1 => (250, 30) | 2 => (400, 50) | 3 => (600, 80) | 4 => (800, 110) | 5 => (1050, 150) | 6 => (1300, 190)
  | 7 => (1600, 260) | 8 => (2200, 380) | 9 => (3000, 550) | _ => (3800, 750)

/-- One step of the wire model (R396) from a current in 50 mA, in units of 2^-32, rounded down. (DEDUCED: assumption 36) -/
def wireStep (theta i50 inn tau : Nat) : Nat :=
  let q := (5 * i50) ^ 2 * 2 ^ 32 / (inn ^ 2)
  if theta ≤ q then theta + (q - theta) / (1000 * tau) else theta - cdiv (theta - q) (1000 * tau)

/-- The update of one leader or single channel; THETA saturates. -/
def wireUpdate (d : Dev) (l i50 : Nat) : Dev :=
  let (inn, tau) := d.wireModel l
  if inn = 0 ∨ tau = 0 then d
  else
    let th := min (wireStep (d.ld l).theta i50 inn tau) (2 ^ 34 - 1)
    let d := d.ldUpd l fun c => { c with theta := th }
    if 2 ^ 32 ≤ th then d.ldWireTripped l else d

/-! ### Writes, orders and reports -/

/-- Whether a write of a channel's LdCtl reaches its state machine, and the device after the count of a discarded one
(R38, R383, R384, R406, R409). -/
def ldCtlGate (d : Dev) (init n : Nat) : Bool × Dev :=
  if d.ldReported (n / 32) = false then (false, d.rejWr (uLd n))
  else if d.isLeader n = false then (false, d.rejWr (uLd n))
  else if d.inSepia ∧ init ≠ 0 then (false, d.rejWr (uLd n))
  else if d.actsAs (uPd (n / 32)) = stQuiesced ∨ d.actsAs (uLd n) = stQuiesced then (false, d.refuse (uLd n))
  else (true, d)

/-- A write of LdCtl: ON is stored first, then CLEAR is evaluated (R386). (DEDUCED: assumption 36) -/
def ldCtlWrite (d : Dev) (init n : Nat) (on clear : Bool) : Dev :=
  match d.ldCtlGate init n with
  | (false, d) => d
  | (true, d) =>
    let d := d.ldUpd n fun c => { c with sepia := false, loc := false }
    let d := if on then d.ldSwitchOn n true else d.ldSwitchOff n
    if clear then d.ldClear n else d

/-- An order of Sepia or loss of control (R407, R409): 0 OFF, 1 ON without leave, 2 HOLD. -/
def ldOrder (d : Dev) (l what : Nat) : Dev :=
  match what with
  | 0 => d.ldSwitchOff l
  | 1 => d.ldSwitchOn l false
  | _ => d

/-- Step 4 of R465: every leader and single channel ordered to its SEPIA value. -/
def ldSepia (d : Dev) : Dev :=
  ((List.range 96).filter d.isLeader).foldl (fun d l =>
    (d.ldOrder l (d.f ldCfg_SEPIA l)).ldUpd l fun c => { c with sepia := true }) d

/-- A channel that enters UV on undervoltage: a request that waits is withdrawn, and any grant is released (R385, R403). -/
def ldUnder (d : Dev) (l : Nat) : Dev :=
  let s := (d.ld l).st
  if s = ldAdmit ∨ s = ldRamp ∨ s = ldOn ∨ s = ldCool then
    let d := (d.paWithdraw (1 + l / 32) (.gang l)).paRelease (1 + l / 32) (.gang l)
    (d.ldUpd l fun c => { c with
      st := ldUv, outOn := false, cause := 4, olOn := 0, olOff := 0, grant := false, windowDone := false, held := 0 }).ldFault l
  else d

/-- A request withdrawn because the barrier link was lost (R385). (DEDUCED: assumption 36) -/
def ldLinkLost (d : Dev) (l : Nat) : Dev :=
  if (d.ld l).st = ldAdmit then
    (((d.ldLeave l).ldUpd l fun c => { c with st := ldOff, denied := true, cause := 5 }).inc .ldDenied l).ldFault l
  else d

/-- Every die receives SLEEP: its channels without SLEEP_RETAIN turn off (R410, R421). -/
def ldSleep (d : Dev) : Dev :=
  let d := { d with load := { d.load with asleep := [0, 1, 2] } }
  ((List.range 96).filter d.isLeader).foldl (fun d l =>
    if d.b ldCfg_SLEEP_RETAIN l then d else d.ldSwitchOff l) d

/-! ### Sampling -/

/-- The current of a channel's latest sample in 1/16,384 mA (R399). -/
def senseScaled (d : Dev) (n : Nat) : Nat :=
  if d.b ldSense_VALID n then d.f ldSense_CODE n * (if d.f ldSense_RANGE n = 1 then 50 else 12000) else 0

/-- LdGangSense of channel `n`: the sum over the gang that it leads; 0 of a member (R398). -/
def gangSense (d : Dev) (n : Nat) : Dev :=
  d.sf ldGangSense_MA n (if d.isLeader n then ((d.gang n).map d.senseScaled).sum / 16384 else 0)

/-- PdAgg of die `p` as it has been counts into the average, up to now (R402). -/
def aggFeed (d : Dev) (p : Nat) : Dev :=
  let x := Sparse.get aggDefault d.load.agg p
  let x := { x with area := x.area + d.f pdAgg_MA p * (d.sleep.time - x.seen), seen := d.sleep.time }
  { d with load := { d.load with agg := Sparse.set aggDefault d.load.agg p x } }

/-- Refreshing LdGangSense of a leader and PdAgg of its die. -/
def senseSums (d : Dev) (n : Nat) : Dev :=
  let d := (d.gangSense (d.leader n)).aggFeed (n / 32)
  d.sf pdAgg_MA (n / 32) ((((List.range 32).map (n / 32 * 32 + ·)).map d.senseScaled).sum / 16384)

/-- Open load on-state after a sample of channel `n` (R400). (DEDUCED: assumption 36) -/
def openLoadOn (d : Dev) (n : Nat) : Dev :=
  let l := d.leader n
  if d.b ldCfg_OL_ON_EN l && (d.ld l).st == ldOn then
    let fine (m : Nat) : Bool := d.b ldSense_VALID m && d.f ldSense_RANGE m == 1 && !d.b ldSense_SAT m
    let low := (d.gang l).all fine
      && decide (((d.gang l).map (d.f ldSense_CODE)).sum * 500 < d.f ldCfg_OL_ON_TH l * 16384)
    let k := if low then min ((d.ld l).olOn + 1) 4 else 0
    let d := d.ldUpd l fun c => { c with olOn := k }
    if k = 3 then
      ((d.ldUpd l fun c => { c with openOn := true }).inc .ldOpenLoad l).ldEvent l 2
    else d
  else d.ldUpd l fun c => { c with olOn := 0 }

end Dev

end Sys2Proof.Machine
end

