-- ==== Sys2Proof/Machine/Cells.lean ====
section
/-! DEFINITION. The cells of the packet buffer (R225, R226), the order stage's record of each sequence number (R184, R185),
and the frames that are dropped on the way. -/
namespace Sys2Proof.Machine

def grpDefault (_ : Nat) : CellGrp := {}

/-- The cells a frame of `l` bytes occupies (R225). -/
def cellsOf (l : Nat) : Nat := cdiv l 256

namespace Dev

def grp (d : Dev) (g : Nat) : CellGrp := Sparse.get grpDefault d.buf.grps g

def setGrp (d : Dev) (g : Nat) (c : CellGrp) : Dev :=
  { d with buf := { d.buf with grps := Sparse.set grpDefault d.buf.grps g c } }

def freeCells (d : Dev) : Nat := d.f bqFree_FREE 0

/-- Taking `k` cells for a new holder: its group number, or `none` when they are not free. -/
def alloc (d : Dev) (k : Nat) : Option Nat × Dev :=
  if k ≤ d.freeCells then
    let g := d.buf.nextGrp
    let d := d.sf bqFree_FREE 0 (d.freeCells - k)
    let d := { d with buf := { d.buf with nextGrp := g + 1 } }
    (some g, d.setGrp g ⟨k, 1⟩)
  else (none, d)

/-- One more holder of a group of cells. -/
def holdGrp (d : Dev) (g : Nat) : Dev :=
  if g = 0 then d else d.setGrp g { d.grp g with refs := (d.grp g).refs + 1 }

/-- Cells come back: those that a row out of service still owes do not become free (R48). -/
def giveCells (d : Dev) (k : Nat) : Dev :=
  let p := min k d.buf.rowDebt
  (if p = 0 then d else { d with buf := { d.buf with rowDebt := d.buf.rowDebt - p } }).sf bqFree_FREE 0 (d.freeCells + (k - p))

/-- A holder releases its cells; the last one returns them to the free pool (R226). -/
def release (d : Dev) (g : Nat) : Dev :=
  if g = 0 then d
  else
    let c := d.grp g
    if c.refs ≤ 1 then (d.setGrp g {}).giveCells c.cells
    else d.setGrp g { c with refs := c.refs - 1 }

/-- Changing the number of cells of a group with one holder, when they are free (R83, R226). -/
def resize (d : Dev) (g k : Nat) : Option Dev :=
  let c := d.grp g
  if k ≤ c.cells then some ((d.setGrp g { c with cells := k }).giveCells (c.cells - k))
  else if k - c.cells ≤ d.freeCells then
    some ((d.setGrp g { c with cells := k }).sf bqFree_FREE 0 (d.freeCells - (k - c.cells)))
  else none

/-! ### The order stage -/

def orderOf (d : Dev) (p : Nat) : List (Nat × OrderItem) := Sparse.get (fun _ => []) d.path.order p

def setOrder (d : Dev) (p : Nat) (l : List (Nat × OrderItem)) : Dev :=
  { d with path := { d.path with order := Sparse.set (fun _ => []) d.path.order p l } }

/-- Giving sequence number `q` of port `p` its outcome; numbers resolved as dropped leave the head of the list. -/
def resolve (d : Dev) (p q : Nat) (o : OrderItem) : Dev :=
  d.setOrder p (((d.orderOf p).map fun e => if e.1 = q then (q, o) else e).dropWhile fun e => decide (e.2 = .dropped))

/-- A frame that is dropped before it was committed: its cells are free and its number resolved as dropped. -/
def dropFrame (d : Dev) (fr : Frame) : Dev := (d.release fr.grp).resolve fr.port fr.seq .dropped

/-- The dispatch queue of a cluster. -/
def dispQ (d : Dev) (c : Nat) : List Work := Sparse.get (fun _ => []) d.path.dispQ c

def setDispQ (d : Dev) (c : Nat) (l : List Work) : Dev :=
  { d with path := { d.path with dispQ := Sparse.set (fun _ => []) d.path.dispQ c l } }

end Dev

end Sys2Proof.Machine
end

