-- ==== Sys2Proof/Machine/Faults.lean ====
section
/-! DEFINITION. Fault classes (R461 to R463), entry to Sepia (R465, R466) and the histogram monitors (R470 to R472). -/
namespace Sys2Proof.Machine

def fcFeLockstep : Nat := 0
def fcMcLockstep : Nat := 1
def fcSepiaPair : Nat := 2
def fcMemory : Nat := 3
def fcLink : Nat := 4
def fcSupply : Nat := 5
def fcThermal : Nat := 6
def fcPace : Nat := 7
def fcRefclk : Nat := 8
def fcWatchdog : Nat := 9
def fcDebugSplit : Nat := 10

namespace Dev

/-- Whether a port is set in a port bitmap of three words (R17). -/
def portSet (d : Dev) (r : Reg) (base p : Nat) : Bool := bitAt (p % 32) (d.rd r (base + p / 32)).toNat

/-- The cluster of the Sepia pair. (DEDUCED: assumption 43) -/
def sepiaCluster (d : Dev) : Nat := d.f lsSepiaCfg_PAIR 0 / 4

/-- Whether Sepia forwards at all: EN, the pair PAIRED and in RUN, its slot LOADED or CURRENT (R466). -/
def sepiaForwards (d : Dev) : Bool :=
  let k := d.f lsSepiaCfg_PAIR 0
  let s := d.f feSetSlotState_STATE (4 * d.sepiaCluster + d.f lsSepiaCfg_SLOT 0)
  d.b lsSepiaCfg_EN 0 && d.f lsPair_STATE k == 1 && d.actsAs (uEng (2 * k)) == stRun && (s == 2 || s == 3)

/-- Whether a frame that waits in the dispatch queue of cluster `c` may stay there in Sepia. -/
def sepiaKeeps (d : Dev) (c : Nat) : Work → Bool
  | .frame fr => c == d.sepiaCluster && d.sepiaForwards && d.portSet .lsSepiaPorts 0 fr.port
  | _ => true

/-- Dropping the frames that wait in dispatch queues for any other engine (R466). -/
def sepiaPurge (d : Dev) : Dev :=
  (List.range 8).foldl (fun d c =>
    let q := d.dispQ c
    let d := d.setDispQ c (q.filter (d.sepiaKeeps c))
    (q.filter fun w => !d.sepiaKeeps c w).foldl (fun d w =>
      match w with
      | .frame fr => (d.inc .lsSepiaDrop 0).dropFrame fr
      | _ => d) d) d

/-- Entering Sepia, by class `cls` or by ENTER (15): cause and time, IN_SEPIA, the dispatch of R466, EV4, and the orders
to the power dies (R465). In Sepia it changes nothing (R469). (DEDUCED: assumption 43; DESIGN CHOICE: assumption 52) -/
def sepiaEnter (d : Dev) (cls : Nat) : Dev :=
  if d.inSepia then d
  else
    let d := d.wr .lsSepiaCause 0 (BitVec.ofNat 32 (2 ^ 31 + cls % 16 * 2 ^ 16))
    let t := d.ns
    let d := d.wr .lsSepiaTime 0 (BitVec.ofNat 32 t)
    let d := d.wr .lsSepiaTime 1 (BitVec.ofNat 32 (t / 2 ^ 32))
    let d := d.sf lsSepiaCtl_IN_SEPIA 0 1
    let d := d.sf lsSepiaCtl_ENTER 0 0
    (d.sepiaPurge.raise 4 0 cls).ldSepia

/-- The reaction of a class (R461). -/
def reaction (d : Dev) (c : Nat) : Nat := d.f lsFaultCfg_REACTION c

/-- A fault class's condition arises (R462). (DEDUCED: assumption 43) -/
def faultRaise (d : Dev) (c : Nat) : Dev :=
  let d := d.sf lsFaultStatus_ACTIVE c 1
  let d := d.sf lsFaultStatus_COUNT c (min (d.f lsFaultStatus_COUNT c + 1) 65535)
  let d := d.raise 6 c (d.reaction c)
  if d.reaction c = 2 then d.sepiaEnter c else d

/-- The cause `i` of level class `c` begins. -/
def levelOn (d : Dev) (c i : Nat) : Dev :=
  if d.safe.levels.contains (c, i) then d
  else { d with safe := { d.safe with levels := (c, i) :: d.safe.levels } }.faultRaise c

/-- The cause `i` of level class `c` ends. -/
def levelOff (d : Dev) (c i : Nat) : Dev :=
  { d with safe := { d.safe with levels := d.safe.levels.filter fun e => decide (e ≠ (c, i)) } }

/-- Whether a level class's condition holds. -/
def levelHolds (d : Dev) (c : Nat) : Bool := d.safe.levels.any fun e => e.1 == c

/-- A write of 1 to ACTIVE (R462). -/
def faultClear (d : Dev) (c : Nat) : Dev := if d.levelHolds c then d else d.sf lsFaultStatus_ACTIVE c 0

/-- An uncorrectable memory error that raises event `ev`, 12, 14 or 15, and with it class MEMORY (R461). -/
def memoryError (d : Dev) (ev inst info : Nat) : Dev := (d.raise ev inst info).faultRaise fcMemory

/-! ### Histogram monitors -/

/-- The bin of a sample (R471). -/
def monBinOf (d : Dev) (m v : Nat) : Nat :=
  if d.b monCfg_LOG2 m then
    let s := d.f monScale_SHIFT m
    if v < 2 ^ s then 0 else min 31 (Nat.log2 v - s + 1)
  else
    let b := d.f monBase_BASE m
    if v < b then 0 else min 31 ((v - b) / d.f monScale_WIDTH m)

/-- One sample at monitor `m` (R471, R472). -/
def monSample (d : Dev) (m v : Nat) : Dev :=
  let d := d.inc .monBin (32 * m + d.monBinOf m v)
  let d := if v < d.f monMin_VALUE m then d.sf monMin_VALUE m v else d
  let d := if d.f monMax_VALUE m < v then d.sf monMax_VALUE m v else d
  let d := if d.b monCfg_HIGH_EN m ∧ d.f monHigh_LIMIT m < v then (d.sf monStat_HIGH_SEEN m 1).raise 150 m 1 else d
  if d.b monCfg_LOW_EN m ∧ v < d.f monLow_LIMIT m then (d.sf monStat_LOW_SEEN m 1).raise 150 m 2 else d

/-- A sample of source `src` at every enabled monitor whose SEL it fits (R470). -/
def monFeed (d : Dev) (src : Nat) (fits : Nat → Bool) (v : Nat) : Dev :=
  (List.range 64).foldl (fun d m =>
    if d.b monCfg_EN m ∧ d.f monCfg_SOURCE m = src ∧ fits (d.f monCfg_SEL m) then d.monSample m (v % 2 ^ 32) else d) d

/-- A write of CLEAR (R472). -/
def monClear (d : Dev) (m : Nat) : Dev :=
  let d := (List.range 32).foldl (fun d i => d.setCtr .monBin (32 * m + i) 0) d
  let d := d.sf monMin_VALUE m (2 ^ 32 - 1)
  let d := d.sf monMax_VALUE m 0
  (d.sf monStat_HIGH_SEEN m 0).sf monStat_LOW_SEEN m 0

end Dev

end Sys2Proof.Machine
end

