-- ==== Sys2Proof/Machine/Time.lean ====
section
/-! DEFINITION. Time domains (R333 to R338): conversion of raw timestamps, domain commands, and the schedules of triggers
(R342 to R346). -/
namespace Sys2Proof.Machine

def domDefault (_ : Nat) : Domain := {}
def trigDefault (_ : Nat) : Trig := {}

/-- Dx(r) of a parameter set, in units of 2^-32 ns (R333). -/
def DomSet.at (p : DomSet) (r : Nat) : Nat := p.off + (r - p.anchor) * p.inc / 40

/-- Whether two targets share something a trigger must have alone (R343). -/
def targetsClash (k1 t1 k2 t2 : Nat) : Bool :=
  k1 == k2 && match k1 with
    | 3 => (t1 &&& t2 &&& 0xFFFF) != 0
    | 4 => t1 % 128 == t2 % 128 && (bits 15 8 t1 &&& bits 15 8 t2) != 0
    | 5 => t1 % 4 == t2 % 4
    | _ => false

/-- Whether the values that a write of TmTtCtl applies are allowed in themselves (R343). -/
def trigOk (kind period target : Nat) : Bool :=
  decide (kind < 6) && !decide (0 < period ∧ period < 1000) && match kind with
    | 1 => target % 4 != 3
    | 4 => decide (32 ≤ target % 128 ∧ target % 128 ≤ 79)
    | 5 => decide (8 ≤ bits 31 8 target) && (period == 0 || decide (bits 31 8 target < period))
    | _ => true

namespace Dev

def dom (d : Dev) (t : Nat) : Domain := Sparse.get domDefault d.time.dom t

def setDom (d : Dev) (t : Nat) (x : Domain) : Dev :=
  { d with time := { d.time with dom := Sparse.set domDefault d.time.dom t x } }

/-- The set in force for a raw timestamp: the latest whose ANCHOR is not later (R337). -/
def domSet (d : Dev) (t r : Nat) : Option DomSet := (d.dom t).hist.find? fun p => decide (p.anchor ≤ r)

/-- D(r) in domain `t`; `none` for a timestamp older than the history (STALE). -/
def domTime? (d : Dev) (t r : Nat) : Option Nat := (d.domSet t r).map fun p => p.at r / 2 ^ 32 % 2 ^ 64

/-- D(r), 0 where it is STALE. -/
def domTime (d : Dev) (t r : Nat) : Nat := (d.domTime? t r).getD 0

/-- Domain time now (R334). -/
def domNow (d : Dev) (t : Nat) : Nat := d.domTime t d.ns

/-- Writing a domain time as the words NS, SEC_LO, SEC_HI from instance `i` on. -/
def wrTime (d : Dev) (r : Reg) (i x : Nat) : Dev :=
  let d := d.wr r i (BitVec.ofNat 32 (x % 1000000000))
  let d := d.wr r (i + 1) (BitVec.ofNat 32 (x / 1000000000))
  d.wr r (i + 2) (BitVec.ofNat 32 (x / 1000000000 / 2 ^ 32))

/-- The time that three words NS, SEC_LO, SEC_HI hold. -/
def rdTime (d : Dev) (r : Reg) (i : Nat) : Nat :=
  (((d.rd r (i + 2)).toNat * 2 ^ 32 + (d.rd r (i + 1)).toNat) * 1000000000) + (d.rd r i).toNat

/-! ### Triggers -/

def trig (d : Dev) (n : Nat) : Trig := Sparse.get trigDefault d.time.trig n

def setTrig (d : Dev) (n : Nat) (x : Trig) : Dev :=
  { d with time := { d.time with trig := Sparse.set trigDefault d.time.trig n x } }

/-- Whether TmTtCtl of trigger `n` may take `v` with the words written before it: legal in themselves, and EN only on a target
that no other enabled trigger names (R343). -/
def trigCtlOk (d : Dev) (n v : Nat) : Bool :=
  let kind := bits 27 25 v
  let target := (d.rd .tmTtTarget n).toNat
  let clash := bitAt 31 v && (List.range 32).any fun m =>
    m != n && d.b tmTtCtl_EN m && targetsClash kind target (d.trig m).kind (d.trig m).target
  trigOk kind (d.rd .tmTtPeriod n).toNat target && !clash

/-- The first instant START + k × PERIOD at or after `t`. -/
def nextInstant (start period t : Nat) : Option Nat :=
  if t ≤ start then some start
  else if period = 0 then none
  else some (start + cdiv (t - start) period * period)

/-- The first firing of an enabled trigger from now on (R344); a one-shot that is too late ends and counts as skipped. -/
def trigArm (d : Dev) (n : Nat) : Dev :=
  let x := d.trig n
  match nextInstant x.start x.period (d.domNow x.td + 2000) with
  | some t => d.setTrig n { x with next := some t }
  | none => ((d.setTrig n { x with next := none }).sf tmTtCtl_EN n 0).inc .tmTtSkipped n

/-- What a step from domain time `was` does to an enabled trigger (R346): the instants a forward step passed over count as skipped,
and among the instants %job_arg1 counts (R345). Those from the new time to 2 µs after it are not counted (R344). -/
def trigStep (d : Dev) (n was : Nat) : Dev :=
  let x := d.trig n
  match x.next with
  | none => d
  | some old =>
    let now := d.domNow x.td
    let passed := if now ≤ old ∨ now ≤ was ∨ x.period = 0 then 0 else cdiv (now - old) x.period
    ((d.incBy .tmTtSkipped n passed).setTrig n { x with count := x.count + passed }).trigArm n

/-- The event and generation of a step from domain time `was`, and the triggers of the domain (R336, R346). -/
def domStepped (d : Dev) (t was : Nat) : Dev :=
  let g := (d.f tmDomCmd_STEP_GEN t + 1) % 256
  let d := d.sf tmDomCmd_STEP_GEN t g
  let d := d.raise (27 + t) 0 g
  (List.range 32).foldl (fun d n => if d.b tmTtCtl_EN n ∧ (d.trig n).td = t then d.trigStep n was else d) d

/-- Entering a new parameter set into a domain's history (R337). -/
def domPush (d : Dev) (t : Nat) (p : DomSet) : Dev :=
  let d := d.setDom t { d.dom t with hist := (p :: (d.dom t).hist).take 8, cmd := none }
  let d := d.wr .tmDomInc (2 * t) (BitVec.ofNat 32 p.inc)
  let d := d.wr .tmDomInc (2 * t + 1) (BitVec.ofNat 32 (p.inc / 2 ^ 32))
  (d.sf tmDomCmd_BUSY t 0).sf tmDomCmd_RESULT t 0

end Dev

end Sys2Proof.Machine
end

