-- ==== Sys2Proof/Machine/Rings.lean ====
section
/-! DEFINITION. Host rings (R243 to R256). Ring `16 n + r` is ring r of domain Dn, rings 256 to 271 those of the management
cores (R501), whose addresses are SRAM addresses. -/
namespace Sys2Proof.Machine

def rxDefault (_ : Nat) : RxRing := {}
def txDefault (_ : Nat) : TxRing := {}
def coeDefault (_ : Nat) : CoeDom := {}

/-- Ports that EMIT may name (R154, R155, R231). -/
def emitPort (p : Nat) : Bool := decide (p ≤ 19 ∨ p = 24 ∨ (32 ≤ p ∧ p ≤ 95))

/-- Valid global port indices (R14). -/
def validPort (p : Nat) : Bool := decide (p ≤ 25 ∨ (32 ≤ p ∧ p ≤ 95))

namespace Dev

def rx (d : Dev) (i : Nat) : RxRing := Sparse.get rxDefault d.buf.rx i
def setRx (d : Dev) (i : Nat) (x : RxRing) : Dev :=
  let d := { d with buf := { d.buf with rx := Sparse.set rxDefault d.buf.rx i x } }
  d.sf hrRxQ_DEPTH i x.queue.length
def tx (d : Dev) (i : Nat) : TxRing := Sparse.get txDefault d.buf.tx i
def setTx (d : Dev) (i : Nat) (x : TxRing) : Dev :=
  { d with buf := { d.buf with tx := Sparse.set txDefault d.buf.tx i x } }
def coeDom (d : Dev) (n : Nat) : CoeDom := Sparse.get coeDefault d.host.coe n
def setCoe (d : Dev) (n : Nat) (x : CoeDom) : Dev :=
  { d with host := { d.host with coe := Sparse.set coeDefault d.host.coe n x } }

/-- Whether a domain speaks the control-over-Ethernet protocol. -/
def ethBound (d : Dev) (n : Nat) : Bool := decide (n < 16) && (d.bind n == 1 || d.bind n == 2)

/-- The unit that owns a ring's registers. -/
def ringUnit (i : Nat) : Nat := if i < 256 then uHr (i / 16) else uMg

/-- The state a ring set acts as; the management cores' set has no header of its own and runs. -/
def ringState (d : Dev) (i : Nat) : Nat := if i < 256 then d.actsAs (uHr (i / 16)) else stRun

/-- Whether Bus Master lets the device issue DMA for domain `n`; 16 stands for the management SRAM (R447). -/
def dmaGo (d : Dev) (n : Nat) : Bool := decide (16 ≤ n) || d.bind n != 0 || (d.fn n).bme

/-- A write to the memory of domain `n`: it goes out, or waits for Bus Master (R447). -/
def hostDma (d : Dev) (n addr : Nat) (bs : List Byte) : Dev :=
  if d.dmaGo n then d.emit (.hostWrite n addr bs)
  else { d with host := { d.host with dma := d.host.dma ++ [(n, addr, bs)] } }

/-- Whether the device may issue DMA for a ring: the ring set in RUN and not draining, and Bus Master on (R252, R447). -/
def ringRuns (d : Dev) (i : Nat) : Bool := if i < 256 then d.admits (uHr (i / 16)) && d.dmaGo (i / 16) else true

/-- Writing bytes to the memory a ring lives in: a host's, or the SRAM (R501). -/
def ringWrite (d : Dev) (i addr : Nat) (bs : List Byte) : Dev :=
  if i < 256 then d.hostDma (i / 16) addr bs
  else { d with eng := { d.eng with sram := memSet d.eng.sram (addr % 2 ^ 22) bs } }

def rxBase (d : Dev) (i : Nat) : Nat := (d.rd .hrRxBaseHi i).toNat * 2 ^ 32 + (d.rd .hrRxBaseLo i).toNat
/-- The bytes of the management SRAM, where rings 256 to 271 live (R501). -/
def sramGet (d : Dev) (addr n : Nat) : List Byte := memGet d.eng.sram (addr % 2 ^ 22) n

def txBase (d : Dev) (i : Nat) : Nat := (d.rd .hrTxBaseHi i).toNat * 2 ^ 32 + (d.rd .hrTxBaseLo i).toNat
def rxN (d : Dev) (i : Nat) : Nat := 2 ^ d.f hrRxCfg_SIZE_LOG2 i
def txN (d : Dev) (i : Nat) : Nat := 2 ^ d.f hrTxCfg_SIZE_LOG2 i

/-- The buffer size B of a receive ring. -/
def rxB (d : Dev) (i : Nat) : Nat := 2048 * 2 ^ d.f hrRxCfg_BUF_SIZE i

/-- Descriptors posted and not taken. -/
def rxPosted (d : Dev) (i : Nat) : Nat := (d.f hrRxTail_TAIL i + 65536 - d.f hrRxHead_HEAD i) % 65536
def txPosted (d : Dev) (i : Nat) : Nat := (d.f hrTxTail_TAIL i + 65536 - d.f hrTxHead_HEAD i) % 65536

/-- The descriptors a delivery of `n` bytes needs (R244). -/
def rxNeed (d : Dev) (i n : Nat) : Nat := cdiv n (d.rxB i)

/-- Sending a ring's message: MSI-X or EVENT; the management cores' rings have none. -/
def ringVector (d : Dev) (i v : Nat) : Dev := if i < 256 then d.sendVector (i / 16) v else d

/-- One more completion of a receive ring, and its message under R250. -/
def rxIrq (d : Dev) (i : Nat) : Dev :=
  let k := (d.rx i).unannounced + 1
  if max 1 (d.f hrRxIrq_COUNT i) ≤ k ∨ d.f hrRxIrq_TIME_US i = 0 then
    (d.setRx i { d.rx i with unannounced := 0 }).ringVector i (d.f hrRxCfg_VECTOR i)
  else d.setRx i { d.rx i with unannounced := k }

def txIrq (d : Dev) (i : Nat) : Dev :=
  let k := (d.tx i).unannounced + 1
  if max 1 (d.f hrTxIrq_COUNT i) ≤ k ∨ d.f hrTxIrq_TIME_US i = 0 then
    (d.setTx i { d.tx i with unannounced := 0 }).ringVector i (d.f hrTxCfg_VECTOR i)
  else d.setTx i { d.tx i with unannounced := k }

/-! ### Receive -/

/-- Whether the head delivery may claim its descriptors now (R246). -/
def rxCanClaim (d : Dev) (i : Nat) : Bool :=
  match (d.rx i).queue with
  | [] => false
  | dl :: _ => d.ringRuns i && decide (d.rxNeed i dl.bytes.length ≤ d.rxPosted i)

/-- Dropping the head delivery under R247. -/
def rxDropHead (d : Dev) (i : Nat) : Dev :=
  match (d.rx i).queue with
  | [] => d
  | dl :: t => ((d.setRx i { d.rx i with queue := t }).inc .hrRxHoldDrop i).release dl.f.grp

/-- Heads that cannot claim at once are dropped while HOLD_US is 0 (R247). (DESIGN CHOICE: assumption 30) -/
def rxHoldZero (d : Dev) (i : Nat) : Nat → Dev
  | 0 => d
  | k + 1 =>
    if (d.rx i).queue.isEmpty || d.f hrRxCfg_HOLD_US i != 0 || d.rxCanClaim i then d else (d.rxDropHead i).rxHoldZero i k

/-- Whether the bridge accepts a control-over-Ethernet delivery (R448), which carries a request (R449). -/
def coeAccepts (d : Dev) (n : Nat) (dl : Delivery) : Bool :=
  let h := d.bind n - 1
  dl.copyh && dl.f.port == d.f hbEthHostCfg_PORT h && beAt dl.bytes 12 2 == 0x88B6
    && decide (26 ≤ dl.bytes.length) && beAt dl.bytes 16 1 % 16 == n && [1, 3, 7].contains (beAt dl.bytes 15 1)

/-- A delivery for ring `i` (R245). Ring 15 of an Ethernet-bound domain is its request ring (R448); like any other it takes
nothing for a domain that is not enabled (R429). Answers whether the delivery was accepted. -/
def rxEnqueue (d : Dev) (i : Nat) (dl : Delivery) : Bool × Dev :=
  if i < 256 ∧ i % 16 = 15 ∧ d.ethBound (i / 16) then
    let n := i / 16
    let d := d.release dl.f.grp
    if !d.domEnabled n then (false, d.inc .hrRxQDrop i)
    else if d.coeAccepts n dl then
      (true, d.setCoe n { d.coeDom n with reqs := (d.coeDom n).reqs ++ [dl.bytes.drop 14] })
    else (false, d.inc .hbCoeBad (d.bind n - 1))
  else
    let st := d.ringState i
    if decide (d.f hrRxQ_QLIMIT i ≤ (d.rx i).queue.length) || decide (d.rxN i < d.rxNeed i dl.bytes.length)
        || !d.b hrRxCfg_ENABLE i || !(st == stRun || st == stQuiesced) || !(decide (256 ≤ i) || d.domEnabled (i / 16)) then
      (false, (d.inc .hrRxQDrop i).release dl.f.grp)
    else
      let d := d.setRx i { d.rx i with queue := (d.rx i).queue ++ [dl] }
      (true, d.rxHoldZero i 1)

/-- The 32 bytes of a completed receive descriptor (R248): bytes 0x00 to 0x1B, then CTL. -/
def rxCompletion (d : Dev) (i : Nat) (dl : Delivery) (idx k c st : Nat) : List Byte × List Byte :=
  let bad := st != 0
  let z (v : Nat) : Nat := if bad then 0 else v
  let b := d.rxB i
  let len := dl.bytes.length
  let bl := if k + 1 = c then len - b * (c - 1) else b
  let ctl := idx / d.rxN i % 2 * 2 ^ 31 + (if k = 0 then 2 ^ 30 else 0) + (if k + 1 = c then 2 ^ 29 else 0)
    + (if dl.trap then 2 ^ 28 else 0) + (if dl.mirror then 2 ^ 27 + dl.session * 2 ^ 24 else 0) + st
  (leBytes 8 (z (if dl.crypto then 0 else dl.f.rxTime)) ++ leBytes 4 (z dl.f.hash) ++ leBytes 4 (z dl.f.seq)
    ++ leBytes 4 (z dl.f.rxStatus) ++ leBytes 2 (z dl.f.epoch) ++ leBytes 2 (z len) ++ leBytes 2 (z bl)
    ++ [byteOf dl.f.port, byteOf dl.f.cls], leBytes 4 ctl)

/-- Writing the data of a claim into its buffers. -/
def rxData (d : Dev) (i : Nat) (bufs : List Nat) (data : List Byte) : Dev :=
  let b := d.rxB i
  (List.zip (List.range bufs.length) bufs).foldl (fun d e =>
    let part := (data.drop (e.1 * b)).take b
    if part.isEmpty then d else d.ringWrite i (e.2 / 64 * 64) part) d

/-- Completing the oldest claim: `mem` is how many bytes had been written when an uncorrectable cell error stopped it
(R229, R251), `none` without one. A failed delivery has zeros over the bytes it had written, and no others; that of a crypto job has
STATUS INTEGRITY_FAIL (R251, R365). -/
def rxComplete (d : Dev) (i : Nat) (mem : Option Nat) : Dev :=
  match (d.rx i).claims with
  | [] => d
  | cl :: rest =>
    let st := if mem.isSome then (if cl.d.job.isSome then 1 else 2) else cl.d.status
    let c := cl.bufs.length
    let idxs := (List.range c).map fun k => (k, (cl.first + k) % 65536)
    let d := d.setRx i { d.rx i with claims := rest }
    let d :=
      if i < 256 ∧ d.ethBound (i / 16) then
        idxs.foldl (fun d e =>
          let (body, ctl) := d.rxCompletion i cl.d e.2 e.1 c st
          let part := if st = 0 then (cl.d.bytes.drop (e.1 * d.rxB i)).take (d.rxB i) else []
          d.coeSend (i / 16) 6 0 0 0 ([byteOf (i % 16), 0, 0, 0] ++ body ++ ctl ++ part)) d
      else
        let d := if st = 0 then d.rxData i cl.bufs cl.d.bytes
          else
            let part := cl.d.bytes.take (mem.getD cl.d.wrote)
            (d.rxData i cl.bufs part).rxData i cl.bufs (List.replicate part.length 0)
        idxs.foldl (fun d e =>
          let (body, ctl) := d.rxCompletion i cl.d e.2 e.1 c st
          let a := d.rxBase i + 32 * (e.2 % d.rxN i)
          (d.ringWrite i a body).ringWrite i (a + 28) ctl) d
    let d := d.inc .hrRxFrames i
    let d := if st = 0 then d else d.inc .hrRxErr i
    (d.release cl.d.f.grp).rxIrq i

/-- Where the buffers of the `c` descriptors of ring `i` from index `h` on lie: as read from host memory, or in the SRAM as its
descriptors say (R244, R501). -/
def rxBufs (d : Dev) (i h c : Nat) (bufs : List Nat) : List Nat :=
  if i < 256 then (bufs ++ List.replicate c 0).take c
  else (List.range c).map fun k => leNat (d.sramGet (d.rxBase i + 32 * ((h + k) % d.rxN i)) 8)

/-- Claiming the descriptors of the head delivery, whose buffers in host memory are `bufs` (R246).
(DESIGN CHOICE: assumption 30) -/
def rxClaim (d : Dev) (i : Nat) (bufs : List Nat) : Dev :=
  match (d.rx i).queue with
  | [] => d
  | dl :: t =>
    let c := d.rxNeed i dl.bytes.length
    if d.rxCanClaim i then
      let h := d.f hrRxHead_HEAD i
      let d := d.sf hrRxHead_HEAD i ((h + c) % 65536)
      d.setRx i { d.rx i with queue := t, claims := (d.rx i).claims ++ [⟨dl, h, d.rxBufs i h c bufs⟩] }
    else d

/-- Dropping every delivery that has not claimed its descriptors (R245, R252). -/
def rxDropAll (d : Dev) (i : Nat) : Dev :=
  let q := (d.rx i).queue
  q.foldl (fun d dl => (d.inc .hrRxQDrop i).release dl.f.grp) (d.setRx i { d.rx i with queue := [] })

/-! ### Transmit -/

def descBits (hi lo x : Nat) : Nat := bits hi lo x

/-- Whether a descriptor keeps its reserved fields 0; FRAME_LEN is reserved but on the first (R253, R254). -/
def descRsvOk (first : Bool) (x : Nat) : Bool :=
  bits 191 112 x == 0 && bits 111 109 x == 0 && bits 255 255 x == 0 && bits 250 224 x == 0
    && (first || bits 95 80 x == 0)

/-- The check of a frame's descriptors in the order of R254: its STATUS, 0 when it passes. -/
def txCheck (dom : Nat) (ds : List Nat) : Nat :=
  match ds with
  | [] => 4
  | x :: rest =>
    let sum := (ds.map fun y => bits 79 64 y).sum
    let direct := bitAt 252 x
    let port := bits 103 96 x
    if !bitAt 254 x || !(ds.any fun y => bitAt 253 y) || (ds.any fun y => bits 79 64 y == 0) || bits 95 80 x != sum
        || !(descRsvOk true x && rest.all (descRsvOk false)) || (bitAt 251 x && !direct) then 4
    else if 9728 < sum then 8
    else if emitPort port = false then 5
    else if dom < 16 ∧ Config.maySend dom port = false then 6
    else 0

/-- A TX_DONE message: the response to the TX request that the descriptor came with (R449, R451). -/
def coeTxDone (d : Dev) (n ring idx : Nat) (payload : List Byte) : Dev :=
  let key := 1 + 65536 * ring + idx
  let x := d.coeDom n
  match x.replay.find? fun e => e.2.1 == 8 && e.2.2.2.1 == key with
  | some e =>
    let replay := x.replay.map fun y => if y = e then (e.1, 8, 0, 0, payload) else y
    (d.setCoe n { x with replay := replay }).coeSend n 8 0 e.1 0 payload
  | none => d.coeSend n 8 0 0 0 payload

/-- The completion of a transmit frame (R256). -/
def txFinish (d : Dev) (i : Nat) (x : TxCur) (time st : Nat) : Dev :=
  let n := d.txN i
  let d := (List.zip (List.range x.descs.length) x.descs).foldl (fun d e =>
    let idx := (x.first + e.1) % 65536
    let ctl := bits 254 228 e.2 * 16 + idx / n % 2 * 2 ^ 31 + st
    if i < 256 ∧ d.ethBound (i / 16) then
      d.coeTxDone (i / 16) (i % 16) idx
        ([byteOf (i % 16), 0, 0, 0] ++ leBytes 8 time ++ leBytes 20 (bits 223 64 e.2) ++ leBytes 4 ctl)
    else
      let a := d.txBase i + 32 * (idx % n)
      (d.ringWrite i a (leBytes 8 time)).ringWrite i (a + 28) (leBytes 4 ctl)) d
  let d := d.inc (if st = 0 then .hrTxFrames else if st = 3 then .hrTxDropped else .hrTxErr) i
  d.txIrq i

/-- The descriptors of one frame: up to the first with LAST, or 32. -/
def txFrameOf (ds : List Nat) : List Nat :=
  match ds.findIdx? (bitAt 253) with
  | some k => ds.take (k + 1)
  | none => ds

/-- Whether a transmit ring has descriptors that the device may fetch. -/
def txReady (d : Dev) (i : Nat) : Bool :=
  d.b hrTxCfg_ENABLE i && !d.b hrTxCfg_HALTED i && d.ringRuns i && (d.tx i).cur.isNone && d.txPosted i != 0

/-- Whether it is ring `i`'s turn: the first of its domain's rings with descriptors to fetch, after the one served last (R253).
(DESIGN CHOICE: assumption 30) -/
def txTurn (d : Dev) (i : Nat) : Bool :=
  let last := Sparse.get (fun _ => 15) d.buf.txLast (i / 16)
  ((List.range 16).map fun k => 16 * (i / 16) + (last + 1 + k) % 16).find? d.txReady == some i

/-- The descriptors of ring `i` from HEAD on: as read from host memory, `ds`, or from the SRAM (R253, R501). -/
def txDescs (d : Dev) (i : Nat) (ds : List Nat) : List Nat :=
  if i < 256 then ds
  else (List.range 32).map fun k => leNat (d.sramGet (d.txBase i + 32 * ((d.f hrTxHead_HEAD i + k) % d.txN i)) 32)

/-- The frame at HEAD of a transmit ring, in host memory read as `ds` (R253, R254), in the turn of its domain's rings. A ring
whose next frame is not all posted passes its turn on. (DESIGN CHOICE: assumption 30) -/
def txTake (d : Dev) (i : Nat) (ds : List Nat) : Dev :=
  let avail := ((d.txDescs i ds).take 32).take (d.txPosted i)
  let fr := txFrameOf avail
  let whole := fr.any (bitAt 253) || decide (32 ≤ fr.length)
  if !d.txTurn i then d
  else
  let d := { d with buf := { d.buf with txLast := Sparse.set (fun _ => 15) d.buf.txLast (i / 16) (i % 16) } }
  if !fr.isEmpty && whole then
    let h := d.f hrTxHead_HEAD i
    let d := d.sf hrTxHead_HEAD i ((h + fr.length) % 65536)
    let x := fr.headD 0
    let cur : TxCur := { first := h, descs := fr, len := bits 95 80 x, direct := bitAt 252 x, port := bits 103 96 x,
                         cls := bits 111 104 x, ts := bitAt 251 x, time := d.ns }
    match txCheck (i / 16) fr with
    | 0 => d.setTx i { d.tx i with cur := some cur }
    | 4 => ((d.txFinish i cur 0 4).sf hrTxCfg_HALTED i 1).raise 21 (i / 16) (i % 16)
    | st => d.txFinish i cur 0 st
  else d

/-- Claiming the cells of the ring's frame before any data is read (R255): a ring set that drains still finishes its frame
(R256). -/
def txClaim (d : Dev) (i : Nat) : Dev :=
  match (d.tx i).cur with
  | some x =>
    if x.grp.isSome ∨ d.ringState i ≠ stRun then d
    else match d.alloc (cellsOf x.len) with
      | (some g, d) => d.setTx i { d.tx i with cur := some { x with grp := some g } }
      | (none, d) => d
  | none => d

end Dev

end Sys2Proof.Machine
end

