-- ==== Sys2Proof/Machine/SleepOps.lean ====
section
/-! DEFINITION. Segments, wakes and the device power state (R412 to R422). -/
namespace Sys2Proof.Machine

/-- Output kinds at `Output.pin`: 0 TOUT, 1 PWR_EN, 2 wake pulse on a LIN channel, 3 TC10 wake-up signal on a T1S port. -/
def pinTout : Nat := 0
def pinPwrEn : Nat := 1
def pinLinWake : Nat := 2
def pinT1sWake : Nat := 3

/-- Orders at `Output.link`: 0 VCORE target, 1 transceivers of a segment to sleep, 2 to normal, 3 SLEEP to a power die,
4 arm the wake detectors, 5 flush the log, 6 image to a die, 7 retrain, 8 heartbeat, 9 message resent. -/
def ordVcore : Nat := 0
def ordSegSleep : Nat := 1
def ordSegNormal : Nat := 2
def ordDieSleep : Nat := 3
def ordArm : Nat := 4
def ordLogFlush : Nat := 5
def ordImage : Nat := 6
def ordRetrain : Nat := 7
def ordHeartbeat : Nat := 8

def canDefault (_ : Nat) : CanChan := {}
def linDefault (_ : Nat) : LinChan := {}

namespace Dev

def can (d : Dev) (n : Nat) : CanChan := Sparse.get canDefault d.bus.can n
def lin (d : Dev) (n : Nat) : LinChan := Sparse.get linDefault d.bus.lin n
def setLin (d : Dev) (n : Nat) (x : LinChan) : Dev :=
  { d with bus := { d.bus with lin := Sparse.set linDefault d.bus.lin n x } }

/-- The segment that holds a port (R418). -/
def segOf (d : Dev) (p : Nat) : Option Nat := (List.range 32).find? fun s => d.portSet .bwSegPorts (3 * s) p

def segState (d : Dev) (s : Nat) : Nat := d.f bwSegStatus_STATE s

/-- Whether a port's segment is not AWAKE. -/
def portSleepy (d : Dev) (p : Nat) : Bool :=
  match d.segOf p with
  | some s => d.segState s != 0
  | none => false

/-- Whether a port's transceiver sleeps: its segment ASLEEP, or DRAINING past its drain (R420). -/
def portAsleep (d : Dev) (p : Nat) : Bool :=
  match d.segOf p with
  | some s => d.segState s == 2 || (d.segState s == 1 && d.sleep.drained.contains s)
  | none => false

/-- The ports of a segment. -/
def segPorts (d : Dev) (s : Nat) : List Nat := (List.range 96).filter (d.portSet .bwSegPorts (3 * s))

/-- A segment changes state, which raises the segment event (R418). -/
def segSet (d : Dev) (s st : Nat) : Dev := (d.sf bwSegStatus_STATE s st).raise 132 s st

/-- A LIN channel after its bus has slept: a commander with SEND sends its pulse and resumes the table it last ran at entry 0
(R420). (DEDUCED: assumption 37) -/
def linWakeUp (d : Dev) (n : Nat) : Dev :=
  let sends := d.b bwLinWake_SEND n ∧ d.b linCfg_ROLE n = false
  let d := if sends then d.emit (.pin pinLinWake n (d.f bwLinWake_PULSE_US n)) else d
  let d := if d.mg.held then d else d.setLin n { d.lin n with gts := false, slept := false, ticks := 0, back := [], coll := none, late := false }
  if (d.lin n).started = 1 ∧ sends then
    ((d.sf linSchedStatus_RUNNING n 1).sf linSchedStatus_ENTRY n 0).sf linSchedStatus_COLLISION n 0
  else d

/-- What the wake of a sleeping segment does to its ports: CAN channels resynchronise from INTEGRATING, LIN commanders send
their pulse and resume, T1S ports send their signal (R420). -/
def segPortsWake (d : Dev) (s : Nat) : Dev :=
  (d.segPorts s).foldl (fun d p =>
    if 80 ≤ p then d.linWakeUp (p - 80)
    else if p ≤ 19 then
      if d.b bwT1sWake_SEND (p - 12) then d.emit (.pin pinT1sWake p 1) else d
    else d) d

/-- A wake before the transceivers were commanded to sleep (R422): a go-to-sleep command that is still to be sent is not sent,
and a bus that has had one is woken. (DEDUCED: assumption 37) -/
def segDrainStop (d : Dev) (s : Nat) : Dev :=
  ((d.segPorts s).filter (80 ≤ ·)).foldl (fun d p =>
    let n := p - 80
    if (d.lin n).gts then d.setLin n { d.lin n with gts := false }
    else if (d.lin n).slept then d.linWakeUp n else d) d

/-- A wake of segment `s` by source `src` (R418, R422). It is in transition while the segment drains, and in steps 2 to 5 of the
device's sleep, where the device raises the event. (DEDUCED: assumption 37) -/
def segWake (d : Dev) (src port s : Nat) : Dev :=
  let st := d.segState s
  if st = 0 then d
  else
    let slept := decide (st = 2) || d.sleep.drained.contains s
    let d := if slept then d.linkSend 3 ordSegNormal s else d
    let d := d.sf bwSegStatus_LAST_SRC s src
    let d := d.sf bwSegStatus_LAST_PORT s port
    let d := { d with sleep := { d.sleep with drained := d.sleep.drained.filter (· != s) } }
    let d := (d.inc .bwSegWakes s).segSet s 0
    let d := if slept then d.segPortsWake s else d.segDrainStop s
    let entry := d.sleep.power == .sleepEntry && decide (d.f bwSleepStatus_STEP 0 < 6)
    let d := if st = 1 ∨ entry then d.sf bwSegStatus_WAKE_IN_TRANS s 1 else d
    if st = 1 ∧ d.sleep.power ≠ .sleepEntry then d.raise 135 s src else d

/-- Recording the source of a device wake (BwWakeSrc). (DEDUCED: assumption 37) -/
def wakeRecord (d : Dev) (src port trans : Nat) : Dev :=
  let d := d.sf bwWakeSrc_SRC 0 src
  (d.sf bwWakeSrc_PORT 0 port).sf bwWakeSrc_IN_TRANS 0 trans

/-- The end of a loss of control: LOC cleared, LOC_SEEN set, the event (R408); the die reports anew (R384). -/
def locEnded (d : Dev) (p : Nat) : Dev :=
  let d := (d.sf pdStatus_LOC p 0).sf pdStatus_LOC_SEEN p 1
  let d := { d with load := { d.load with reported := Sparse.set (fun _ => false) d.load.reported p false } }
  d.raise (139 + p) 0 0

/-- What a wake does to the device (R412, R422, R423). One that step 6 has begun before lets PWR_EN fall and rise again after the
off-time. -/
def deviceWake (d : Dev) (src port seg : Nat) : Dev :=
  match d.sleep.power with
  | .sleepEntry =>
    if d.f bwSleepStatus_STEP 0 < 6 then
      let slept := d.load.asleep
      let d := { d with sleep := { d.sleep with power := .active }, load := { d.load with asleep := [] } }
      let d := ((d.sf bwSleepStatus_BUSY 0 0).sf bwSleepStatus_STEP 0 0).sf bwSleepStatus_ABORTED 0 1
      (slept.foldl (fun d p => d.locEnded p) d).raise 135 seg src
    else
      let d := { d with sleep := { d.sleep with power := .waking, offTime := true, latched := true }, mg := { d.mg with why := 3 } }
      let d := ((d.sf bwSleepStatus_BUSY 0 0).sf bwSleepStatus_STEP 0 0).wakeRecord src port 1
      (d.emit (.pin pinPwrEn 0 0)).raise 135 seg src
  | .sleep =>
    let d := { d with sleep := { d.sleep with power := .waking, latched := d.sleep.offTime }, mg := { d.mg with why := 3 } }
    let d := (d.wakeRecord src port 1).raise 135 seg src
    if d.sleep.offTime then d else d.emit (.pin pinPwrEn 0 1)
  | _ => d

/-- A latched wake: the segments it names, and the device (R415). While the device wakes, another is only counted (R422). -/
def wakeBy (d : Dev) (src port : Nat) (segs : List Nat) : Dev :=
  if d.sleep.power = .waking then segs.foldl (fun d s => if d.segState s = 0 then d else d.inc .bwSegWakes s) d
  else (segs.foldl (fun d s => d.segWake src port s) d).deviceWake src port (segs.headD 0)

/-- Whether the device is on its way into sleep or asleep. -/
def deviceSleepy (d : Dev) : Bool := d.sleep.power == .sleepEntry || d.sleep.power == .sleep

/-- Whether a detector that watches port `p` is armed, its enable aside: its segment is not AWAKE (R415, R421 step 2). -/
def portArmed (d : Dev) (p : Nat) : Bool := d.portSleepy p

/-- Whether a WAKE input is armed: the device in SLEEP_ENTRY or SLEEP, or a segment it wakes not AWAKE. -/
def winArmed (d : Dev) (i : Nat) : Bool :=
  d.b bwWinCfg_EN i && (d.deviceSleepy
    || (List.range 32).any fun s => bitAt s (d.rd .bwWinSeg i).toNat && d.segState s != 0)

/-- Whether a WAKE input is masked from wake (R417). -/
def winMasked (d : Dev) (i : Nat) : Bool := d.b bwWinStatus_STORM_MASKED i || d.b bwWinStatus_STUCK_MASKED i

/-- A wake by WAKE input `i`, with the storm limiter (R417). -/
def winWake (d : Dev) (i : Nat) : Dev :=
  let now := d.sleep.time
  let win := d.f bwWinStorm_STORM_S i * 1000000000
  let old := (Sparse.get (fun _ => []) d.sleep.winWakes i).filter fun t => decide (now < t + win)
  let d := { d with sleep := { d.sleep with winWakes := Sparse.set (fun _ => []) d.sleep.winWakes i (old ++ [now]) } }
  let d := d.inc .bwWinWakes i
  let d := if d.sleep.power = .waking then d else d.sf bwWinStatus_WOKE i 1
  let d := d.wakeBy 6 i ((List.range 32).filter fun s => bitAt s (d.rd .bwWinSeg i).toNat)
  let n := d.f bwWinStorm_STORM_N i
  if n ≠ 0 ∧ n < old.length + 1 then (d.sf bwWinStatus_STORM_MASKED i 1).raise 134 i 0 else d

/-- The software wake of a segment that is not AWAKE: BwSegCmd WAKE (R415, R418). -/
def segWakeCmd (d : Dev) (s : Nat) : Dev := if d.segState s = 0 then d else d.wakeBy 7 0 [s]

/-- A WAKE input in level mode wakes while it is active and armed (R417). -/
def winLevel (d : Dev) (i : Nat) : Dev :=
  if d.winArmed i && d.b bwWinCfg_LEVEL i && d.b bwWinStatus_LEVEL i && !d.winMasked i then d.winWake i else d

/-- The typical sleep current of the armed configuration in µA (R414). -/
def sleepCurrent (d : Dev) : Nat :=
  let cnt (n : Nat) (p : Nat → Bool) : Nat := ((List.range n).filter p).length
  let dev := d.deviceSleepy
  45 + 9 * cnt 32 (fun n => d.b bwCanWake_WUP_EN n && (dev || d.portArmed (32 + n)))
    + 350 * cnt 8 (fun n => d.b bwSwfCfg_EN n)
    + 4 * cnt 16 (fun n => d.b bwLinWake_EN n && (dev || d.portArmed (80 + n)))
    + 25 * cnt 8 (fun n => d.b bwT1sWake_EN n && (dev || d.portArmed (12 + n)))
    + 35 * cnt 96 (fun n => d.isLeader n && d.b ldCfg_SLEEP_RETAIN n)

end Dev

end Sys2Proof.Machine
end

