-- ==== Sys2Proof/Machine/Tables.lean ====
section
/-! DEFINITION. The forwarding tables (R190 to R223): hashing and insertion with relocation (R194 to R197, R214, R218), the
longest-prefix tables (R211 to R216), learning and aging (R199 to R207), the TSN tables (R219, R220, R277 to R281) and
the table commands (R221 to R223). A hashed table lists its valid entries by location, a prefix store its prefixes by
index. -/
namespace Sys2Proof.Machine

/-- The hash of R136. -/
def hmix (a b : Nat) : Nat :=
  let m := 2 ^ 64
  let x := a % m ^^^ (b % m / 2 ^ 32 + b % 2 ^ 32 * 2 ^ 32)
  let x := x ^^^ (x / 2 ^ 33)
  let x := x * 0xFF51AFD7ED558CCD % m
  let x := x ^^^ (x / 2 ^ 33)
  let x := x * 0xC4CEB9FE1A85EC53 % m
  x ^^^ (x / 2 ^ 33)

def tblL2 : Nat := 0
def tblVlan : Nat := 1
def tblV4 : Nat := 2
def tblV6 : Nat := 3
def tblCan : Nat := 4
def tblFilter : Nat := 5
def tblGate : Nat := 6
def tblMeter : Nat := 7
def tblSeq : Nat := 8
def tblHost : Nat := 9

def resOk : Nat := 0
def resReplaced : Nat := 1
def resNotFound : Nat := 2
def resNoRoom : Nat := 3
def resBadArg : Nat := 4
def resUnsupported : Nat := 5
def resBgBusy : Nat := 6
def resMemory : Nat := 7
def resNoPower : Nat := 8
def resNoLength : Nat := 9
def resNoBlock : Nat := 10
def resCommitFail : Nat := 11
def resAborted : Nat := 12

/-- How many entries a table has (R194, R212, R214, R218; the TSN sizes of the scope). -/
def tbSize (t : Nat) : Nat :=
  match t with
  | 0 => 65536 | 1 => 4096 | 2 => 32768 | 3 => 16384 | 4 => 32768
  | 5 => 2048 | 6 => 1024 | 7 => 4096 | 8 => 512 | _ => 8192

/-- Slots of a bucket, and buckets of a bank, of the hashed tables. -/
def tbSlots (t : Nat) : Nat := if t = 9 then 4 else 8
def tbNb (t : Nat) : Nat := if t = 0 then 4096 else if t = 4 then 2048 else 1024

/-- The bit that holds VALID in each layout. -/
def tbValidBit (t : Nat) : Nat :=
  match t with
  | 0 => 79 | 1 => 31 | 4 => 47 | 5 => 8 | 6 => 7 | 7 => 128 | 8 => 0 | _ => 143

/-- How many TbData words each layout has. -/
def tbWords (t : Nat) : Nat :=
  match t with
  | 0 => 4 | 1 => 3 | 4 => 6 | 5 => 3 | 6 => 3 | 8 => 3 | _ => 7

/-- The bits of each layout that a command stores: neither reserved (R27) nor RO (R219). -/
def tbMask (t : Nat) : Nat :=
  match t with
  | 0 => 0xFFFFFFFFFFFFFFFF0FFFFFFFFFFFFFFF
  | 1 => 0xFFFF1FFF000FFFFF81FFFFFF
  | 2 => 0xFFFFFFFFFFFFFFFF000080FF000000000000000000000000FFFFFFFF
  | 4 => 0xFFFFFFFFFFFFFFFFFFFFFFFFFFFFFFFF0000807F7FFFFFFF
  | 5 => 0x00003FFF03FFE7FF000005FF
  | 6 => 0x001F1FFF00000000000000FC
  | 7 => 0x00000003FFFFFFFFFFFFFFFFFFFFFFFFFFFFFFFF
  | 8 => 0xFFFF00FB
  | _ => 0xFFFFFFFFFFFFFFFF000080FFFFFFFFFFFFFFFFFFFFFFFFFFFFFFFFFF

/-- An entry's key: what makes two entries of a table the same entry. -/
def tbIdent (t e : Nat) : Nat :=
  if t = 0 then e % 2 ^ 60
  else if t = 4 then e % 2 ^ 31 + bits 38 32 e * 2 ^ 32
  else e % 2 ^ 136

/-- The key that R194 hashes, of an entry. -/
def tbHashKey (t e : Nat) : Nat :=
  if t = 9 then hmix (bits 127 64 e) (bits 63 0 e ^^^ bits 135 128 e) else tbIdent t e

/-- The first location of an entry's bucket in bank `b` under the seeds (R194). -/
def tbBucket (t : Nat) (seeds : Nat × Nat) (e b : Nat) : Nat :=
  let s := if b = 0 then seeds.1 else seeds.2
  (b * tbNb t + hmix (tbHashKey t e ^^^ s) b % tbNb t) * tbSlots t

/-- The locations of the bucket that begins at `l`. -/
def tbBucketLocs (t l : Nat) : List Nat := (List.range (tbSlots t)).map (l + ·)

/-- The candidate slots of an entry, in ascending order. -/
def tbCands (t : Nat) (seeds : Nat × Nat) (e : Nat) : List Nat :=
  tbBucketLocs t (tbBucket t seeds e 0) ++ tbBucketLocs t (tbBucket t seeds e 1)

/-- The entry at a location; 0 where there is none. -/
def tbEnt (ents : Sparse Nat) (l : Nat) : Nat := Sparse.get (fun _ => 0) ents l

def tbPut (ents : Sparse Nat) (l e : Nat) : Sparse Nat := Sparse.set (fun _ => 0) ents l e

/-- The lowest candidate slot that holds the key of `e`. -/
def tbFind (t : Nat) (seeds : Nat × Nat) (ents : Sparse Nat) (e : Nat) : Option Nat :=
  (tbCands t seeds e).find? fun l => tbEnt ents l ≠ 0 && tbIdent t (tbEnt ents l) == tbIdent t e

/-- The bank of a location. -/
def tbBank (t l : Nat) : Nat := l / (tbNb t * tbSlots t)

/-- The lowest free slot of the bucket at `l`. -/
def tbFree (t : Nat) (ents : Sparse Nat) (l : Nat) : Option Nat := (tbBucketLocs t l).find? fun x => tbEnt ents x = 0

/-- The lowest free slot of the other bucket of the occupant at location `l`. -/
def tbOther (t : Nat) (seeds : Nat × Nat) (ents : Sparse Nat) (l : Nat) : Option Nat :=
  tbFree t ents (tbBucket t seeds (tbEnt ents l) (1 - tbBank t l))

/-- A relocation chain that stands at step `k` in the bucket at `b` and must place `e` there (R196): the table after the whole
chain. Slot k mod 8 of a bucket of four slots is slot k mod 4. `placed` are the slots an earlier step of the chain placed an
entry in; the first argument bounds the moves. (DESIGN CHOICE: assumption 54) -/
def tbChain (t : Nat) (seeds : Nat × Nat) : Nat → Nat → Nat → Nat → Sparse Nat → List Nat → Option (Sparse Nat × Nat)
  | 0, _, _, _, _, _ => none
  | n + 1, k, b, e, ents, placed =>
    let locs := tbBucketLocs t b
    match locs.find? fun l => !placed.contains l && (tbOther t seeds ents l).isSome with
    | some l =>
      let x := tbEnt ents l
      some (tbPut (tbPut ents ((tbOther t seeds ents l).getD 0) x) l e, l)
    | none =>
      match (locs.rotateLeft (k % 8)).find? fun l => !placed.contains l with
      | none => none
      | some l =>
        let x := tbEnt ents l
        (tbChain t seeds n (k + 1) (tbBucket t seeds x (1 - tbBank t l)) x (tbPut ents l e) (l :: placed)).map
          fun r => (r.1, l)

/-- An insertion of a new key (R196): the table after it and the slot the entry took. -/
def tbPlace (t : Nat) (seeds : Nat × Nat) (max : Nat) (ents : Sparse Nat) (e : Nat) : Option (Sparse Nat × Nat) :=
  let b0 := tbBucket t seeds e 0
  let b1 := tbBucket t seeds e 1
  match tbFree t ents b0 with
  | some l => some (tbPut ents l e, l)
  | none =>
    match tbFree t ents b1 with
    | some l => some (tbPut ents l e, l)
    | none =>
      match tbChain t seeds max 0 b0 e ents [] with
      | some r => some r
      | none => tbChain t seeds max 0 b1 e ents []

/-! ### Longest-prefix tables -/

/-- The width of a prefix table's addresses. -/
def lpmWidth (t : Nat) : Nat := if t = 2 then 32 else 128

/-- Address and length of a prefix entry. -/
def lpmAddr (e : Nat) : Nat := e % 2 ^ 128
def lpmLen (e : Nat) : Nat := bits 135 128 e

/-- Whether LEN and the address bits past LEN suit the table (R215). -/
def lpmArgOk (t e : Nat) : Bool :=
  let n := lpmLen e
  (if t = 2 then decide (n ≤ 32) else if t = 3 then decide (n ≤ 64) else decide (65 ≤ n ∧ n ≤ 128))
    && lpmAddr e % 2 ^ (lpmWidth t - n) == 0

/-- The store index of a prefix. -/
def lpmFind (ents : Sparse Nat) (e : Nat) : Option Nat :=
  (ents.find? fun x => tbIdent 2 x.2 == tbIdent 2 e).map (·.1)

/-- The blocks in use at the stage whose regions have `n` bits: distinct regions that hold a longer prefix (R211, R212). -/
def lpmBlocks (t : Nat) (ents : Sparse Nat) (n : Nat) : Nat :=
  ((ents.filter fun x => decide (n < lpmLen x.2)).map fun x => lpmAddr x.2 / 2 ^ (lpmWidth t - n)).eraseDups.length

/-- The region lengths of a table's block stages, and the blocks each has. -/
def lpmStages (t : Nat) : List Nat := if t = 2 then [16, 24] else [16, 24, 32, 40, 48, 56]
def lpmPool (t : Nat) : Nat := if t = 2 then 2048 else 1024

/-- The `n`-th index, counted from `base`, that a list of rising indices leaves free. (DEDUCED: assumption 28) -/
def nthFree : Sparse Nat → Nat → Nat → Nat
  | [], base, n => base + n
  | (k, _) :: m, base, n => if n < k - base then base + n else nthFree m (k + 1) (n - (k - base))

/-- The longest prefix of a store that covers an address: its index and entry. -/
def lpmBest (t : Nat) (ents : Sparse Nat) (a : Nat) : Option (Nat × Nat) :=
  ents.foldl (fun best x =>
    let n := lpmLen x.2
    if a / 2 ^ (lpmWidth t - n) = lpmAddr x.2 / 2 ^ (lpmWidth t - n)
      ∧ (match best with | none => true | some y => decide (lpmLen y.2 < n)) = true then some x else best) none

/-- A prefix store as a compacted copy: the same prefixes in the same order from index 0 on (R216). -/
def lpmCompact (ents : Sparse Nat) : Sparse Nat := (List.range ents.length).zip (ents.map (·.2))

/-! ### Versions and memory errors -/

/-- Whether epoch `a` is earlier than epoch `b`, modulo 2^16 (R50). -/
def epochBefore (a b : Nat) : Bool :=
  decide (0 < (b + 65536 - a) % 65536 ∧ (b + 65536 - a) % 65536 < 32768)

namespace Dev

def tb (d : Dev) (t : Nat) : TbTable :=
  match t with
  | 0 => d.tab.t0 | 2 => d.tab.t2 | 3 => d.tab.t3 | 4 => d.tab.t4 | _ => d.tab.t9

def setTb (d : Dev) (t : Nat) (x : TbTable) : Dev :=
  { d with tab := match t with
    | 0 => { d.tab with t0 := x } | 2 => { d.tab with t2 := x } | 3 => { d.tab with t3 := x }
    | 4 => { d.tab with t4 := x } | _ => { d.tab with t9 := x } }

/-- The index of a table's seeds, and the pair of seeds in a register array. -/
def seedNo (t : Nat) : Nat := if t = 0 then 0 else if t = 4 then 1 else 2

def seedPair (d : Dev) (r : Reg) (t : Nat) : Nat × Nat :=
  let w (k : Nat) : Nat := (d.rd r (4 * seedNo t + k)).toNat
  (w 1 * 2 ^ 32 + w 0, w 3 * 2 ^ 32 + w 2)

/-- The seeds of the current version. -/
def tbSeeds (d : Dev) (t : Nat) : Nat × Nat := d.seedPair .tbSeedCur t

def maxReloc (d : Dev) : Nat := d.f tbL2Cfg_MAX_RELOC 0

/-- The version a job of epoch `e` looks up (R192): entries, seeds, whether it is the frozen one. -/
def tbVersion (d : Dev) (t e : Nat) : Sparse Nat × (Nat × Nat) × Bool :=
  match (d.tb t).frozen with
  | some (v, c) => if epochBefore e c then (v.ents, (v.seed0, v.seed1), true) else ((d.tb t).cur.ents, d.tbSeeds t, false)
  | none => ((d.tb t).cur.ents, d.tbSeeds t, false)

/-- The index of a location in `Tables.bad`; the superseded version of table `t` has its own marks, at `frozenMark t`. -/
def badKey (t l : Nat) : Nat := t * 2 ^ 17 + l
def frozenMark (t : Nat) : Nat := t + 16

/-- Whether a location fails (R207). (DEDUCED: assumption 21) -/
def tbBad (d : Dev) (t l : Nat) : Bool := Sparse.get (fun _ => false) d.tab.bad (badKey t l)

def setTbBad (d : Dev) (t l : Nat) (b : Bool) : Dev :=
  { d with tab := { d.tab with bad := Sparse.set (fun _ => false) d.tab.bad (badKey t l) b } }

/-- What the memory checks found while a version of table `t` was read, `frozen` for the superseded one: corrected errors counted,
failing locations marked, counted and reported (R207). -/
def tbEccIn (d : Dev) (t : Nat) (frozen : Bool) (e : Ecc) : Dev :=
  let k := if frozen then frozenMark t else t
  e.failing.foldl (fun d l => ((d.setTbBad k (l % tbSize t) true).inc .tbEccUncorr 0).memoryError 14 0 t)
    (d.incBy .tbEccCorr 0 e.corrected)

/-- The same of the current version. -/
def tbEcc (d : Dev) (t : Nat) (e : Ecc) : Dev := d.tbEccIn t false e

/-- The marks of table `k` when its current version becomes the superseded one. -/
def frozenMarks (bad : Sparse Bool) (k : Nat) : Sparse Bool :=
  let keep := bad.filter fun b => decide (b.1 / 2 ^ 17 ≠ k ∧ b.1 / 2 ^ 17 ≠ frozenMark k)
  (bad.filter fun b => decide (b.1 / 2 ^ 17 = k)).foldl
    (fun m b => Sparse.set (fun _ => false) m (badKey (frozenMark k) (b.1 % 2 ^ 17)) b.2) keep

/-- The entries of the current version. -/
def tbCur (d : Dev) (t : Nat) : Sparse Nat := (d.tb t).cur.ents

/-- The current version with other entries; a location that is rewritten no longer fails. -/
def setTbCur (d : Dev) (t : Nat) (ents : Sparse Nat) (l : Nat) : Dev :=
  let x := d.tb t
  (d.setTb t { x with cur := { x.cur with ents := ents } }).setTbBad t l false

/-- The tables a background operation of table `t` shows at: the host table shares the REBUILD of table 3 (R216). -/
def bgTables (t : Nat) : List Nat := if t = 3 then [3, 9] else [t]

/-- Showing where the background operation of table `t` stands (TbBgStatus). -/
def bgShow (d : Dev) (t : Nat) : Dev :=
  let st := (d.tb t).stage
  (bgTables t).foldl (fun d k =>
    let d := d.sf tbBgStatus_BUSY k (if st = 2 ∨ st = 3 ∨ (k = 0 ∧ d.tab.sweep.isSome = true) then 1 else 0)
    let d := d.sf tbBgStatus_OPEN k (if st = 4 then 1 else 0)
    d.sf tbBgStatus_FROZEN k (if (d.tb k).frozen.isSome then 1 else 0)) d

/-- Ending the use of the alternate version of table `t`. -/
def bgClear (d : Dev) (t : Nat) : Dev :=
  let d := d.setTb t { d.tb t with alt := none, stage := 0, hold := false }
  if t = 3 then d.setTb 9 { d.tb 9 with alt := none } else d

/-- A build that cannot go on (R210): the alternate version discarded, the grant released, the outcome shown. -/
def bgFail (d : Dev) (t res : Nat) : Dev :=
  let d := ((d.bgClear t).paRelease 0 (.rehash t)).paRelease 0 (.rebuild t)
  (d.bgShow t).sf tbBgStatus_RESULT t res

/-- The alternate version of table `t` becomes current for epoch `e` and later, the superseded one is frozen (R192, R209
step 6). -/
def tbCommit (d : Dev) (t e : Nat) : Dev :=
  let d := (bgTables t).foldl (fun d k =>
    let x := d.tb k
    match x.alt with
    | none => d
    | some v =>
      let s := d.tbSeeds k
      let old : TbVer := { x.cur with seed0 := s.1, seed1 := s.2 }
      let d := d.setTb k { x with cur := v, frozen := some (old, e), alt := none, twin := decide (k ≠ t) }
      let d := { d with tab := { d.tab with bad := frozenMarks d.tab.bad k } }
      if k = 2 ∨ k = 3 then d
      else
        let n := 4 * seedNo k
        let w (d : Dev) (i x : Nat) : Dev := d.wr .tbSeedCur (n + i) (BitVec.ofNat 32 x)
        w (w (w (w d 0 v.seed0) 1 (v.seed0 / 2 ^ 32)) 2 v.seed1) 3 (v.seed1 / 2 ^ 32)) d
  let d := ((d.bgClear t).paRelease 0 (.rehash t)).paRelease 0 (.rebuild t)
  d.bgShow t

/-- Releasing the superseded versions that no live epoch uses (R192, R209 step 7). -/
def tbReleaseFrozen (d : Dev) : Dev :=
  [0, 2, 3, 4, 9].foldl (fun d t =>
    let x := d.tb t
    match x.frozen with
    | none => d
    | some (_, c) =>
      if d.ep.live.any fun e => epochBefore e c then d
      else
        let d := d.setTb t { x with frozen := none, twin := false }
        let d := { d with tab := { d.tab with bad := d.tab.bad.filter fun b => decide (b.1 / 2 ^ 17 ≠ frozenMark t) } }
        let d := d.sf tbBgStatus_FROZEN t 0
        if x.twin then d else (d.sf tbBgStatus_RESULT t resOk).raise 20 0 t) d

/-- The rehash-request event and its count (R208). -/
def tbNoRoom (d : Dev) (t : Nat) : Dev := (d.inc .tbNoRoom 0).raise 19 0 t

/-- Whether changes of a table must reach its alternate version too: a rehash that has placed its entries, or a rebuild
that waits for its commit (R209 step 5). -/
def tbMirrors (d : Dev) (t : Nat) : Bool :=
  let own : Nat := if t = 9 ∧ (d.tb 9).stage = 0 then 3 else t
  (d.tb t).alt.isSome && (d.tb own).stage == 3 && !(d.tb own).hold

/-- The commit transaction of a failed build of table `t` ends (R210): one that waits leaves its place, an open one can only
abort. -/
def tableTxnDrop (d : Dev) (t : Nat) : Dev :=
  let mine (x : Txn) : Bool := match x.kind with | .table k => k == t && !x.issued | _ => false
  { d with ep := { d.ep with
    waiting := d.ep.waiting.filter fun x => !mine x
    txn := d.ep.txn.map fun x => if mine x then { x with dead := true } else x } }

/-- Bringing the alternate version in line with the current one for the key of `e` (R209 step 5, R210). -/
def tbSync (d : Dev) (t e : Nat) : Dev :=
  if d.tbMirrors t then
    let x := d.tb t
    match x.alt with
    | none => d
    | some v =>
      let own : Nat := if t = 9 ∧ x.stage = 0 then 3 else t
      let now : Option Nat := if t = 2 ∨ t = 3 then (lpmFind x.cur.ents e).map (tbEnt x.cur.ents)
        else (tbFind t (d.tbSeeds t) x.cur.ents e).map (tbEnt x.cur.ents)
      let seeds := (v.seed0, v.seed1)
      let put (ents : Sparse Nat) : Dev := d.setTb t { x with alt := some { v with ents := ents } }
      let old : Option Nat := if t = 2 ∨ t = 3 then lpmFind v.ents e else tbFind t seeds v.ents e
      match now, old with
      | none, none => d
      | none, some l => put (tbPut v.ents l 0)
      | some y, some l => put (tbPut v.ents l y)
      | some y, none =>
        if t = 2 ∨ t = 3 then put (tbPut v.ents (nthFree v.ents 0 0) y)
        else match tbPlace t seeds d.maxReloc v.ents y with
          | some r => put r.1
          | none => ((d.raise 19 0 t).tableTxnDrop own).bgFail own resNoRoom
  else d

/-- Emptying a location of a hashed table's current version; its lock record is released (R202). -/
def tbRemove (d : Dev) (t l : Nat) : Dev :=
  let e := tbEnt (d.tbCur t) l
  let d := d.setTbCur t (tbPut (d.tbCur t) l 0) l
  let d := if t = 0 ∧ e ≠ 0 then { d with tab := { d.tab with locks := d.tab.locks.filter (· != tbIdent 0 e) } } else d
  d.tbSync t e

/-- Rewriting the entry at a location with one of the same key. -/
def tbRewrite (d : Dev) (t l e : Nat) : Dev := (d.setTbCur t (tbPut (d.tbCur t) l e) l).tbSync t e

/-- The locations that a relocation chain rewrites on the way to `ents` fail no longer (R197, R207). An entry that stood in a
failing location moves whole, and its error mark stays behind. (DESIGN CHOICE: assumption 54) -/
def tbMoved (d : Dev) (t : Nat) (ents : Sparse Nat) : Dev :=
  let same (k : Nat) : Bool := decide (k / 2 ^ 17 ≠ t) || tbEnt (d.tbCur t) (k % 2 ^ 17) == tbEnt ents (k % 2 ^ 17)
  { d with tab := { d.tab with bad := d.tab.bad.filter fun b => same b.1 } }

/-- Inserting a new key into the current version (R196, R208): its location, or `none` when it finds no slot. -/
def tbInsertNew (d : Dev) (t e : Nat) : Option Nat × Dev :=
  match tbPlace t (d.tbSeeds t) d.maxReloc (d.tbCur t) e with
  | some r => (some r.2, ((d.tbMoved t r.1).setTbCur t r.1 r.2).tbSync t e)
  | none => (none, d.tbNoRoom t)

end Dev

/-! ### L2 entries and learning -/

def l2Port (e : Nat) : Nat := bits 70 64 e
def l2Static (e : Nat) : Bool := bitAt 71 e
def l2Locked (e : Nat) : Bool := bitAt 72 e
def l2Hit (e : Nat) : Bool := bitAt 73 e
def l2Aged (e : Nat) : Bool := bitAt 74 e
/-- (DEDUCED: assumption 28) -/
def l2Stamp (e : Nat) : Nat := bits 127 96 e
def l2Fid (e : Nat) : Nat := bits 59 48 e

/-- Whether an L2 entry may name a port (R222). -/
def l2PortOk (p : Nat) : Bool := decide (p ≤ 24 ∨ (32 ≤ p ∧ p ≤ 95))

/-- A stamp difference as a signed value (R199). -/
def stampDiff (a b : Nat) : Int :=
  let x : Nat := (a + 2 ^ 32 - b % 2 ^ 32) % 2 ^ 32
  if x < 2 ^ 31 then (x : Int) else (x : Int) - 2 ^ 32

namespace Dev

/-- Dynamic entries that name port `p` (R203, TbL2PortDyn). -/
def l2Dyn (d : Dev) (p : Nat) : Nat :=
  ((d.tbCur 0).filter fun x => l2Port x.2 == p && !l2Static x.2).length

/-- Submitting a learn (R144, R199). (DEDUCED: assumption 27) -/
def learnSubmit (d : Dev) (key port stamp : Nat) : Dev :=
  if 1024 ≤ d.tab.learnQ.length then (d.inc .tbLearnOvf 0).raise 17 0 0
  else { d with tab := { d.tab with learnQ := d.tab.learnQ ++ [⟨key, port, stamp⟩] } }

/-- The flap of R200: the entry takes the port of the earlier stamp, and a lock record if one is free (R202). -/
def learnFlap (d : Dev) (l e : Nat) (x : Learn) : Dev :=
  let dt := stampDiff x.stamp (l2Stamp e)
  let e := if dt < 0 then setBits 70 64 x.port (setBits 127 96 x.stamp e) else e
  let room := decide (d.tab.locks.length < 256)
  let d := if room then { d with tab := { d.tab with locks := d.tab.locks ++ [tbIdent 0 e] } } else d.inc .tbLockOvf 0
  ((d.tbRewrite 0 l (if room then setBits 72 72 1 e else e)).inc .tbLearnFlap 0).raise 18 0 0

/-- What the learn unit does with a learn (R200). -/
def learnApply (d : Dev) (x : Learn) : Dev :=
  match tbFind 0 (d.tbSeeds 0) (d.tbCur 0) x.key with
  | none =>
    let lim := d.f tbL2PortCfg_LIMIT x.port
    if x.port ≤ 24 ∧ lim ≠ 0 ∧ lim ≤ d.l2Dyn x.port then d.inc .tbLearnLimit 0
    else
      let e := x.key % 2 ^ 60 + x.port % 128 * 2 ^ 64 + 2 ^ 73 + 2 ^ 79 + x.stamp % 2 ^ 32 * 2 ^ 96
      match d.tbInsertNew 0 e with
      | (some _, d) => d.inc .tbLearnNew 0
      | (none, d) => d
  | some l =>
    let e := tbEnt (d.tbCur 0) l
    let dt := stampDiff x.stamp (l2Stamp e)
    if l2Static e then (if l2Port e = x.port then d else d.inc .tbLearnStatic 0)
    else if l2Port e = x.port then (if dt < 0 then d.tbRewrite 0 l (setBits 127 96 x.stamp e) else d)
    else if l2Locked e then d.inc .tbLearnLocked 0
    else if dt.natAbs * 1024 < d.f tbL2Cfg_FLAP_WIN_US 0 * 1000 then d.learnFlap l e x
    else if 0 < dt then
      (d.tbRewrite 0 l (setBits 70 64 x.port (setBits 127 96 x.stamp (setBits 74 74 0 e)))).inc .tbLearnMove 0
    else d.inc .tbLearnStale 0

/-- The learn at the head of the learn queue is applied (LEARN_APPLY). -/
def learnNext (d : Dev) : Dev :=
  match d.tab.learnQ with
  | [] => d
  | x :: q => { d with tab := { d.tab with learnQ := q } }.learnApply x

/-- A lock record expires (R202). -/
def lockExpire (d : Dev) (key : Nat) : Dev :=
  if d.tab.locks.contains key then
    let d := { d with tab := { d.tab with locks := d.tab.locks.filter (· != key) } }
    match tbFind 0 (d.tbSeeds 0) (d.tbCur 0) key with
    | some l => d.tbRewrite 0 l (setBits 72 72 0 (tbEnt (d.tbCur 0) l))
    | none => d
  else d

/-- Removing every dynamic entry of a port at its flush (R203). -/
def l2FlushPort (d : Dev) (p : Nat) : Dev :=
  if p ≤ 24 ∧ d.b tbL2PortCfg_FLUSH_ON_DOWN p then
    ((d.tbCur 0).filter fun x => l2Port x.2 == p && !l2Static x.2).foldl
      (fun d x => (d.tbRemove 0 x.1).inc .tbPortFlushed 0) d
  else d

/-- Starting a sweep pass (R205, R206). (DEDUCED: assumption 28) -/
def sweepStart (d : Dev) : Dev :=
  let d := { d with tab := { d.tab with sweep := some 0 } }
  (d.sf tbBgStatus_OP 0 7).bgShow 0

/-- The end of a pass. -/
def sweepEnd (d : Dev) (res : Nat) : Dev :=
  let d := { d with tab := { d.tab with sweep := none } }
  (d.bgShow 0).sf tbBgStatus_RESULT 0 res

/-- The stamp of this instant: bits [57:26] of the raw counter (R199). -/
def stampNow (d : Dev) : Nat := bits 41 10 d.ns

/-- A visit of the sweeper (R205); a failing location is cleared (R207). -/
def sweepVisit (d : Dev) (ecc : Ecc) : Dev :=
  match d.tab.sweep with
  | none => d
  | some l =>
    let d := d.tbEcc 0 { ecc with failing := if ecc.failing.isEmpty then [] else [l] }
    let e := tbEnt (d.tbCur 0) l
    let d :=
      if d.tbBad 0 l ∧ l2Static e = false then d.tbRemove 0 l
      else if d.tbBad 0 l ∨ e = 0 then d
      else
        let gone := !l2Static e && !l2Hit e && l2Aged e
        if gone then (d.tbRemove 0 l).inc .tbAged 0
        else
          let e' := if l2Static e then e
            else if l2Hit e then setBits 74 73 0 e
            else setBits 74 74 1 e
          let now := d.stampNow
          let e' := if stampDiff now (l2Stamp e') > 2 ^ 29 then setBits 127 96 (now + (2 ^ 32 - 2 ^ 29)) e' else e'
          if e' = e then d else d.tbRewrite 0 l e'
    if l + 1 < 65536 then { d with tab := { d.tab with sweep := some (l + 1) } } else d.sweepEnd resOk

end Dev

end Sys2Proof.Machine
end

