-- ==== Sys2Proof/Machine/Tsn.lean ====
section
/-! DEFINITION. The directly indexed tables (R217, R219, R220, R277 to R281) and what a lookup of each table answers
(R143 to R145). -/
namespace Sys2Proof.Machine

/-- The answer of a lookup: token status of R94, and the two result registers. -/
structure LookupResult where
  status : Nat := 1
  r0 : Nat := 0
  r1 : Nat := 0
  deriving DecidableEq, Repr

def lookupMiss : LookupResult := {}
/-- (DEDUCED: assumption 28) -/
def lookupMemory : LookupResult := { status := 8 }

/-- What an unlisted meter's internal state reads as. -/
def meterDefault (_ : Nat) : MeterAux := {}

namespace Dev

/-- The entries of a directly indexed table. -/
def direct (d : Dev) (t : Nat) : Sparse Nat :=
  match t with
  | 1 => d.tab.vlan | 5 => d.tab.filter | 6 => d.tab.gate | 7 => d.tab.meter | _ => d.tab.recovery

def directAt (d : Dev) (t k : Nat) : Nat := tbEnt (d.direct t) k

def setDirect (d : Dev) (t k e : Nat) : Dev :=
  let m := tbPut (d.direct t) k e
  { d with tab := match t with
    | 1 => { d.tab with vlan := m } | 5 => { d.tab with filter := m } | 6 => { d.tab with gate := m }
    | 7 => { d.tab with meter := m } | _ => { d.tab with recovery := m } }

/-! ### Stream gates (R278, R279) -/

def gateLen (e : Nat) : Nat := bits 84 80 e
def gateBase (e : Nat) : Nat := bits 76 64 e

/-- OPEN of a gate as lookups and READ see it. -/
def gateOpen (d : Dev) (g : Nat) : Bool :=
  let e := d.directAt 6 g
  (gateLen e == 0 || bitAt 0 e) && !bitAt (g % 32) (d.rd .tbSgInvLatched (g / 32)).toNat

/-- IOM_LEFT of a gate; a gate without a list has no limit. -/
def gateLeft (d : Dev) (g : Nat) : Nat :=
  let e := d.directAt 6 g
  if gateLen e = 0 then 0xFFFFFFFF else bits 63 32 e

/-- Setting OPEN and IOM_LEFT of a gate; an octet limit of 0 is no limit. -/
def gateSet (d : Dev) (g : Nat) (opn : Bool) (iom : Nat) : Dev :=
  let e := setBits 0 0 (if opn then 1 else 0) (d.directAt 6 g)
  d.setDirect 6 g (setBits 63 32 (if iom = 0 then 0xFFFFFFFF else iom) e)

def setGatePos (d : Dev) (g p : Nat) : Dev :=
  { d with tab := { d.tab with gatePos := Sparse.set (fun _ => 0) d.tab.gatePos g p } }

/-- The next entry of a gate's list starts (R278). Position `k + 1` stands for entry k, 0 for a gate whose first cycle has
not started. -/
def gateEntryStart (d : Dev) (g : Nat) : Dev :=
  let e := d.directAt 6 g
  let n := gateLen e
  if n = 0 then d
  else
    let k := Sparse.get (fun _ => 0) d.tab.gatePos g % n
    let i := gateBase e + k
    (d.setGatePos g (k + 1)).gateSet g (d.b tbSgGclCtl_OPEN i) (d.f tbSgGclCtl_IOM i)

/-- A gate goes back to before its first cycle: closed when it has a list (R278). -/
def gateRestart (d : Dev) (g : Nat) : Dev :=
  let d := d.setGatePos g 0
  if gateLen (d.directAt 6 g) = 0 then d
  else d.gateSet g false (d.f tbSgGclCtl_IOM (gateBase (d.directAt 6 g)))

/-- Every stream gate restarts. -/
def gateRestartAll (d : Dev) : Dev := (d.tab.gate.map (·.1)).foldl gateRestart d

/-! ### Entries as READ shows them and WRITE stores them -/

/-- The entry at an index of a directly indexed table with its RO fields (R219). -/
def directView (d : Dev) (t k : Nat) : Nat :=
  let e := d.directAt t k
  match t with
  | 5 => setBits 9 9 (if bitAt (k % 32) (d.rd .tbSfBlocked (k / 32)).toNat then 1 else 0) e
  | 6 =>
    let e := setBits 0 0 (if d.gateOpen k then 1 else 0) e
    let e := setBits 1 1 (if bitAt (k % 32) (d.rd .tbSgInvLatched (k / 32)).toNat then 1 else 0) e
    setBits 63 32 (d.gateLeft k) e
  | _ => e

/-- WRITE of a directly indexed table (R219): RO state is reset. -/
def directWrite (d : Dev) (t k w : Nat) : Dev :=
  let e := w &&& tbMask t
  let old := d.directAt t k
  let d := d.setTbBad t k false
  match t with
  | 6 => (d.setDirect 6 k e).gateRestart k
  | 7 =>
    let e := setBits 191 160 (bits 95 64 e) (setBits 223 192 (bits 127 96 e) e)
    let d := d.setDirect 7 k e
    { d with tab := { d.tab with meterAux := Sparse.set meterDefault d.tab.meterAux k { last := d.ns } } }
  | 8 => d.setDirect 8 k (setBits 48 48 1 (setBits 47 32 (bits 47 32 old) e))
  | _ => d.setDirect t k e

/-! ### Lookups -/

/-- LKUP of table 5 (R220, R277). -/
def filterLookup (d : Dev) (k k1 : Nat) : LookupResult × Dev :=
  let e := d.directAt 5 k
  if bitAt 8 e = false ∨ bitAt (k1 % 8) e = false then (lookupMiss, d)
  else
    let len := bits 29 16 k1
    let max := bits 77 64 e
    let tooLong := len ≠ 0 && max ≠ 0 && decide (max < len)
    let d := d.inc .tbSfMatch k
    let d := if tooLong then d.inc .tbSfOversize k else d
    let d := if tooLong && bitAt 10 e then
      d.wr .tbSfBlocked (k / 32) (d.rd .tbSfBlocked (k / 32) ||| BitVec.ofNat 32 (2 ^ (k % 32))) else d
    let blocked := if bitAt (k % 32) (d.rd .tbSfBlocked (k / 32)).toNat then 1 else 0
    let bo := if bitAt 10 e then 1 else 0
    ({ status := 0, r0 := bits 63 32 e + max * 2 ^ 32 + blocked * 2 ^ 48 + bo * 2 ^ 49 }, d)

/-- LKUP of table 6 (R220, R279). -/
def gateLookup (d : Dev) (g len : Nat) : LookupResult × Dev :=
  let e := d.directAt 6 g
  if bitAt 7 e = false then (lookupMiss, d)
  else
    let opn := d.gateOpen g
    let left := d.gateLeft g
    let pass := opn && decide (len ≤ left)
    let d := if pass && left != 0xFFFFFFFF then d.setDirect 6 g (setBits 63 32 (left - len) e) else d
    let d := if bitAt 6 e && !opn then
      d.wr .tbSgInvLatched (g / 32) (d.rd .tbSgInvLatched (g / 32) ||| BitVec.ofNat 32 (2 ^ (g % 32))) else d
    let d := if pass then d else d.inc .tbSgNotPass g
    let n (b : Bool) : Nat := if b then 1 else 0
    ({ status := 0, r0 := n pass + 2 * n opn + 4 * bits 4 2 e + 32 * n (bitAt 5 e) }, d)

/-- LKUP of table 7 (R220): buckets exact in units of 1/8,000,000 byte. -/
def meterLookup (d : Dev) (m len : Nat) : LookupResult × Dev :=
  let e := d.directAt 7 m
  if bitAt 128 e = false then ({ status := 0 }, d)
  else
    let u := 8000000
    let a := Sparse.get meterDefault d.tab.meterAux m
    let dt := d.ns - a.last
    let cir := bits 31 0 e
    let eir := bits 63 32 e
    let cbs := bits 95 64 e * u
    let ebs := bits 127 96 e * u
    let c0 := bits 191 160 e * u + a.fracC + cir * dt
    let spill := c0 - cbs
    let c := min cbs c0
    let x := min ebs (bits 223 192 e * u + a.fracE + eir * dt + if bitAt 129 e then spill else 0)
    let l := len * u
    let colour := if l ≤ c then 0 else if l ≤ x then 1 else 2
    let c := if colour = 0 then c - l else c
    let x := if colour = 1 then x - l else x
    let d := d.setDirect 7 m (setBits 191 160 (c / u) (setBits 223 192 (x / u) e))
    let d := { d with tab := { d.tab with
      meterAux := Sparse.set meterDefault d.tab.meterAux m { last := d.ns, fracC := c % u, fracE := x % u } } }
    ({ status := 0, r0 := colour }, if colour = 2 then d.inc .tbMtrRed m else d)

/-- The number of 0 bits of `h` at positions `hi` down to `lo`. -/
def zeros (h hi lo : Nat) : Nat := ((List.range (hi + 1 - lo)).filter fun i => !bitAt (lo + i) h).length

/-- LKUP of table 8 (R280). -/
def seqLookup (d : Dev) (r s0 : Nat) : LookupResult × Dev :=
  let e := d.directAt 8 r
  if bitAt 0 e = false then (lookupMiss, d)
  else
    let s := s0 % 65536
    let hlen : Nat := bits 7 3 e + 1
    let recov := bits 47 32 e
    let hist := bits 95 64 e
    let up : Nat := (s + 65536 - recov) % 65536
    let diff : Int := if up < 32768 then (up : Int) else (up : Int) - 65536
    let cnt (d : Dev) (k n : Nat) : Dev := d.incBy .tbSrCnt (6 * r + k) n
    let keep (d : Dev) (any sq h : Nat) : Dev := d.setDirect 8 r (setBits 48 48 any (setBits 47 32 sq (setBits 95 64 h e)))
    let yes (d : Dev) : LookupResult × Dev := ({ status := 0, r0 := 1 }, cnt d 0 1)
    let no (d : Dev) (k : Nat) : LookupResult × Dev := ({ status := 0 }, cnt d k 1)
    if bitAt 48 e then yes (keep d 0 s 1)
    else if bitAt 1 e = false then
      if s = recov then no d 1
      else yes (keep (if diff = 1 then d else cnt d 2 1) 0 s hist)
    else if diff ≥ hlen ∨ diff ≤ -(hlen : Int) then no d 3
    else if diff ≤ 0 then
      let i := diff.natAbs
      if bitAt i hist then no d 1 else yes (cnt (keep d 0 recov (setBits i i 1 hist)) 2 1)
    else
      let n := diff.natAbs
      let d := cnt d 4 (zeros hist (hlen - 1) (hlen - n))
      let d := keep d 0 s ((hist * 2 ^ n + 1) % 2 ^ hlen)
      yes (if diff = 1 then d else cnt d 2 1)

/-- The reset of a recovery function (R281). -/
def seqReset (d : Dev) (r : Nat) : Dev :=
  let e := d.directAt 8 r
  if bits 31 16 e = 0 then d
  else (d.setDirect 8 r (setBits 48 48 1 (setBits 95 64 0 e))).inc .tbSrCnt (6 * r + 5)

/-- A hashed table's lookup of a key: the location found in error-free memory, and whether a candidate fails. -/
def hashedProbe (d : Dev) (t epoch key : Nat) : Option (Nat × Nat × Bool) × Bool :=
  let (ents, seeds, frozen) := d.tbVersion t epoch
  let cands := tbCands t seeds key
  let bad (l : Nat) : Bool := d.tbBad (if frozen then frozenMark t else t) l
  let hit := cands.find? fun l => tbEnt ents l ≠ 0 && tbIdent t (tbEnt ents l) == tbIdent t key && !bad l
  (hit.map fun l => (l, tbEnt ents l, frozen), cands.any bad)

/-- Setting HIT in the version that was looked up (R143, R192). -/
def l2SetHit (d : Dev) (l e : Nat) (frozen : Bool) : Dev :=
  let x := d.tb 0
  let e := setBits 73 73 1 e
  match frozen, x.frozen with
  | true, some (v, c) => d.setTb 0 { x with frozen := some ({ v with ents := tbPut v.ents l e }, c) }
  | true, none => d
  | false, _ => d.setTb 0 { x with cur := { x.cur with ents := tbPut x.cur.ents l e } }

/-- The answer of a prefix table (R213, R215). -/
def lpmLookup (d : Dev) (t epoch a : Nat) : LookupResult :=
  let (ents, _, frozen) := d.tbVersion t epoch
  match lpmBest t ents a with
  | none => lookupMiss
  | some (i, e) =>
    if d.tbBad (if frozen then frozenMark t else t) i then lookupMemory
    else { status := 0, r0 := bits 191 160 e + lpmLen e * 2 ^ 32, r1 := bits 223 192 e }

/-- The lengths present in a host table, longest first (R214). -/
def hostLens (ents : Sparse Nat) : List Nat :=
  (List.range 64).filterMap fun i =>
    let n := 128 - i
    if ents.any fun x => lpmLen x.2 == n then some n else none

/-- The host table's answer: the first length that hits (R214). -/
def hostLookup (d : Dev) (epoch a : Nat) : List Nat → Bool → Option LookupResult × Bool
  | [], bad => (none, bad)
  | n :: ns, bad =>
    let addr := a / 2 ^ (128 - n) * 2 ^ (128 - n)
    match d.hashedProbe 9 epoch (addr + n * 2 ^ 128) with
    | (some (_, e, _), _) =>
      (some { status := 0, r0 := bits 191 160 e + n * 2 ^ 32 + 2 ^ 40, r1 := bits 223 192 e }, bad)
    | (none, b) => hostLookup d epoch a ns (bad || b)

/-- What LKUP answers for table `t` with the keys of R143, for a job of epoch `epoch` (R144, R145). -/
def lookup (d : Dev) (t epoch k0 k1 : Nat) : LookupResult × Dev :=
  match t with
  | 0 =>
    match d.hashedProbe 0 epoch (k0 % 2 ^ 60) with
    | (some (l, e, frozen), _) =>
      ({ status := 0, r0 := bits 95 64 (setBits 73 73 1 e) + l * 2 ^ 48 }, d.l2SetHit l e frozen)
    | (none, bad) => (if bad then lookupMemory else lookupMiss, d)
  | 1 =>
    let k := k0 % 4096
    let e := d.directAt 1 k
    if d.tbBad 1 k then (lookupMemory, d)
    else if bitAt 31 e then ({ status := 0, r0 := bits 63 0 e, r1 := bits 95 64 e }, d) else (lookupMiss, d)
  | 2 => (d.lpmLookup 2 epoch (k0 % 2 ^ 32), d)
  | 3 =>
    let a := k0 * 2 ^ 64 + k1
    match d.hostLookup epoch a (hostLens (d.tbVersion 9 epoch).1) false with
    | (some r, _) => (r, d)
    | (none, bad) =>
      let r := d.lpmLookup 3 epoch a
      (if bad && r.status == 1 then lookupMemory else r, d)
  | 4 =>
    let key := k0 % 2 ^ 31 + bits 38 32 k0 * 2 ^ 32
    if bits 30 29 k0 = 3 then (lookupMiss, d)
    else match d.hashedProbe 4 epoch key with
    | (some (_, e, _), _) => ({ status := 0, r0 := bits 127 64 e, r1 := bits 191 128 e }, d)
    | (none, bad) => (if bad then lookupMemory else lookupMiss, d)
  | _ =>
    if tbSize t ≤ k0 then (lookupMiss, d)
    else if d.tbBad t k0 then (lookupMemory, d)
    else match t with
      | 5 => d.filterLookup k0 k1
      | 6 => d.gateLookup k0 k1
      | 7 => d.meterLookup k0 k1
      | _ => d.seqLookup k0 k1

end Dev

end Sys2Proof.Machine
end

