-- ==== Sys2Proof/Machine/Queues.lean ====
section
/-! DEFINITION. Output queues (R231 to R236), their admission with the segment policy of R419, residence, flushes (R238,
R239), mirror sessions (R240 to R242), and the writes of ring registers (R243 to R256). -/
namespace Sys2Proof.Machine

/-- The byte that follows the addresses and at most two VLAN tags, the tags' count, and the EtherType found there (R160). -/
def etherType (b : List Byte) : Nat × Nat × Nat :=
  let tag (o : Nat) : Bool := beAt b o 2 == 0x8100 || beAt b o 2 == 0x88A8
  let o := 12
  if tag o then
    if tag (o + 4) then (o + 10, 2, beAt b (o + 8) 2) else (o + 6, 1, beAt b (o + 4) 2)
  else (o + 2, 0, beAt b o 2)

/-- Where the ECN field of an ECN-capable frame lies, as the offset of its IP header (R234). -/
def ecnOffset (b : List Byte) : Option Nat :=
  let (o, _, et) := etherType b
  if et = 0x0800 then
    let hl := 4 * (beAt b o 1 % 16)
    let ecn := beAt b (o + 1) 1 % 4
    if o + max 20 hl ≤ min b.length 512 ∧ (ecn = 1 ∨ ecn = 2) then some o else none
  else if et = 0x86DD then
    let ecn := bits 5 4 (beAt b (o + 1) 1)
    if o + 40 ≤ min b.length 512 ∧ (ecn = 1 ∨ ecn = 2) then some o else none
  else none

/-- The one's complement sum of two 16-bit numbers. -/
def ones16 (a b : Nat) : Nat := let s := a + b; s % 65536 + s / 65536

/-- A frame with its ECN field written as CE, and an IPv4 checksum updated under RFC 1624 (R234). -/
def ecnMark (b : List Byte) : List Byte :=
  match ecnOffset b with
  | none => b
  | some o =>
    if (etherType b).2.2 = 0x0800 then
      let old := beAt b o 2
      let new := old / 4 * 4 + 3
      let hc := beAt b (o + 10) 2
      let sum := ones16 (ones16 (65535 - hc) (65535 - old)) new
      splice (splice b o (beBytes 2 new)) (o + 10) (beBytes 2 (65535 - sum % 65536))
    else
      let w := beAt b (o + 1) 1
      splice b (o + 1) [byteOf (setBits 5 4 3 w)]

def ethDefault (_ : Nat) : EthPort := {}

/-- Link rates in kb/s by the code of EthIntf.SPEED, and by rate code of R284. -/
def speedKbps (s : Nat) : Nat := [10000, 100000, 1000000, 2500000, 5000000, 10000000, 25000000].getD s 0
namespace Dev

def eth (d : Dev) (p : Nat) : EthPort := Sparse.get ethDefault d.bus.eth p

def setEth (d : Dev) (p : Nat) (x : EthPort) : Dev :=
  { d with bus := { d.bus with eth := Sparse.set ethDefault d.bus.eth p x } }

def queue (d : Dev) (q : Nat) : List QFrame := Sparse.get (fun _ => []) d.buf.queues q

def putQueue (d : Dev) (q : Nat) (l : List QFrame) : Dev :=
  { d with buf := { d.buf with queues := Sparse.set (fun _ => []) d.buf.queues q l } }

/-- Queue number of class `c` of port `p`. -/
def qNo (p c : Nat) : Nat := 8 * p + c

/-- Current link rate in kb/s. -/
def rate (d : Dev) (p : Nat) : Nat := speedKbps (d.f ethLinkStatus_SPEED p)

/-! ### Shapers -/

/-- Bringing the credit of class `c` up to now (R269). (DEDUCED: assumption 29) -/
def creditStep (d : Dev) (p c : Nat) (x : EthPort) : EthPort :=
  if d.b ethCbs_EN (8 * p + c) then
    let now := d.ns
    let dt : Int := ((now - x.creditAt : Nat) : Int)
    let idle : Int := (d.f ethCbs_IDLE_KBPS (8 * p + c) : Int)
    let cr := Sparse.get (fun _ => (0 : Int)) x.credit c
    let opn := bitAt c (d.f ethGateStatus_GATES p)
    let sending := match x.wire with | some (_, k) => k == c | none => false
    let other := x.wire.isSome && !sending
    let q := d.queue (qNo p c)
    let waited : Int := match q with
      | [] => 0
      | h :: _ => ((now - max x.creditAt h.enq : Nat) : Int)
    let cr :=
      if !opn then cr
      else if sending then cr + (idle - (d.rate p : Int)) * dt
      else if other && !q.isEmpty then cr + idle * waited
      else if cr < 0 then min 0 (cr + idle * dt) else cr
    let cr := if q.isEmpty && !sending && decide (0 < cr) then 0 else cr
    { x with credit := Sparse.set (fun _ => 0) x.credit c cr }
  else { x with credit := Sparse.set (fun _ => 0) x.credit c 0 }

/-- Bringing every credit of a port up to now. -/
def creditUpdate (d : Dev) (p : Nat) : Dev :=
  let x := (List.range 8).foldl (fun x c => d.creditStep p c x) (d.eth p)
  d.setEth p { x with creditAt := d.ns }

/-- A class of an Ethernet port that has no eligible frame holds a deficit of 0 (R268). -/
def deficitClear (d : Dev) (p c : Nat) : Dev :=
  if Sparse.get (fun _ => 0) (d.eth p).deficit c = 0 then d
  else d.setEth p { d.eth p with deficit := Sparse.set (fun _ => 0) (d.eth p).deficit c 0 }

/-- The queue of an Ethernet class empties: its deficit is 0, and a positive credit ends (R268, R269). -/
def queueEmptied (d : Dev) (p c : Nat) : Dev :=
  let d := (if d.b ethCbs_EN (8 * p + c) then d.creditUpdate p else d).deficitClear p c
  if 0 < Sparse.get (fun _ => (0 : Int)) (d.eth p).credit c then
    d.setEth p { d.eth p with credit := Sparse.set (fun _ => 0) (d.eth p).credit c 0 }
  else d

/-- A queue's frames change. -/
def setQueue (d : Dev) (q : Nat) (l : List QFrame) : Dev :=
  (if l.isEmpty && !(d.queue q).isEmpty && decide (q < 160) then d.queueEmptied (q / 8) (q % 8) else d).putQueue q l

/-- Raising or lowering a gauge. -/
def gauge (d : Dev) (c : Ctr) (i : Nat) (up : Bool) (n : Nat) : Dev :=
  d.setCtr c i (if up then d.ctr c i + BitVec.ofNat 48 n else d.ctr c i - BitVec.ofNat 48 n)

/-- The charge of a frame that enters or leaves queue `q` (R233). -/
def charge (d : Dev) (q : Nat) (up : Bool) (k : Nat) : Dev :=
  ((d.gauge .bqQCells q up k).gauge .bqPortCells (q / 8) up k).gauge .bqQFrames q up 1

/-- A held frame leaves or joins the count of its segment (R419). -/
def heldCount (d : Dev) (p : Nat) (up : Bool) : Dev :=
  match d.segOf p with
  | some s => d.sf bwSegStatus_HELD s (if up then d.f bwSegStatus_HELD s + 1 else d.f bwSegStatus_HELD s - 1)
  | none => d

/-- What is undone when a frame leaves its queue: the charge and its place in HELD. -/
def unqueue (d : Dev) (q : Nat) (x : QFrame) : Dev :=
  let d := d.charge q false x.cells
  if x.held then d.heldCount (q / 8) false else d

/-- A frame that asked for an egress timestamp and leaves without one completes with status `st`. -/
def tsEnd (d : Dev) (x : QFrame) (st : Nat) : Dev :=
  match x.ts with
  | some (i, cur) => d.txFinish i cur 0 st
  | none => d

/-- Such a frame completes DROPPED when it is dropped (R255), and MEMORY when its cells fail (R229, R249). -/
def tsDropped (d : Dev) (x : QFrame) : Dev := d.tsEnd x 3
def tsMemory (d : Dev) (x : QFrame) : Dev := d.tsEnd x 2

/-- A frame of queue `q` is removed without being sent; its cells are released and counter `c` counts it. -/
def removeFrame (d : Dev) (q : Nat) (c : Ctr) (x : QFrame) : Dev :=
  (((d.unqueue q x).inc c q).release x.f.grp).tsDropped x

/-- The policy of R419 for a frame from ingress port `i` to port `p`: `none` when it does not apply. -/
def segPolicy (d : Dev) (p i : Nat) : Option (Nat × Nat) :=
  match d.segOf p with
  | some s => if d.segState s = 0 then none
    else some (s, bits (2 * (i % 16) + 1) (2 * (i % 16)) (d.rd .bwSegRoute (6 * s + i / 16)).toNat)
  | none => none

/-- The check that drops a frame of `k` cells at queue `q` (R232): the counters it counts in, `none` when admitted. -/
def admitDrop (d : Dev) (q k : Nat) (de : Bool) : Option (List (Ctr × Nat)) :=
  let p := q / 8
  let qc := (d.ctr .bqQCells q).toNat
  if d.f bqPortCfg_STATE p = 2 then some [(.bqPortDownDrop, p)]
  else if d.freeCells < d.f bqReserve_RESERVE 0 then some [(.bqPortGlobalFull, p), (.bqGlobalFull, 0)]
  else if d.f bqPortLimit_LIMIT p < (d.ctr .bqPortCells p).toNat + k then some [(.bqQLimDrop, q)]
  else if de ∧ d.f bqQDeLimit_DE_LIMIT q < qc + k then some [(.bqQDeDrop, q)]
  else if d.f bqQLimit_LIMIT q < qc + k then some [(.bqQLimDrop, q)]
  else none

/-- Whether a frame is to be marked CE (R234). -/
def ecnDecide (d : Dev) (q : Nat) (b : List Byte) : Bool :=
  decide (q / 8 ≤ 19) && d.b bqPortCfg_ECN_EN (q / 8) && d.f bqQMark_MARK q != 0
    && decide (d.f bqQMark_MARK q < (d.ctr .bqQCells q).toNat) && (ecnOffset b).isSome

/-- Admission of a frame to queue `c` of port `p` (R232, R419). Its cells are those of `x.f.grp`, which a drop releases. Answers
whether it was admitted. -/
def enqueue (d : Dev) (p c : Nat) (x : QFrame) : Bool × Dev :=
  let q := qNo p c
  let k := cellsOf x.f.bytes.length
  let pol := d.segPolicy p x.f.port
  let (stop, held, d) : Option Ctr × Bool × Dev :=
    match pol with
    | none => (none, false, d)
    | some (s, pol) =>
      if pol = 0 then (some .bwSegDrop, false, d.inc .bwSegDrop s)
      else if d.f bwSegStatus_HELD s < d.f bwSegCfg_HOLD_LIMIT s then (none, true, d)
      else (some .bwSegHoldDrop, false, d.inc .bwSegHoldDrop s)
  let (ok, d) : Bool × Dev :=
    if stop.isSome then (false, d.release x.f.grp)
    else
      match d.admitDrop q k x.de with
      | some cs => (false, (cs.foldl (fun d e => d.inc e.1 e.2) d).release x.f.grp)
      | none =>
        let ce := d.ecnDecide q x.f.bytes
        let x := { x with cells := k, ce := ce, held := held, enq := d.ns }
        let d := (d.charge q true k).inc .bqQEnq q
        let d := if held then d.heldCount p true else d
        (true, d.setQueue q (d.queue q ++ [x]))
  match pol with
  | some (s, 2) => (ok, d.wakeBy 8 p [s])
  | _ => (ok, d)

/-- Whether the residence of a queued frame exceeds its queue's limit (R235). -/
def residenceOver (d : Dev) (q : Nat) (x : QFrame) : Bool :=
  decide (d.f bqQResid_MAX_RES_US q * 1000 < d.ns - x.enq)

/-- Dropping the head frames of a queue whose residence exceeds the limit (R235). -/
def residenceDrop (d : Dev) (q : Nat) : Dev :=
  let l := d.queue q
  let gone := l.takeWhile (d.residenceOver q)
  if gone.isEmpty then d
  else gone.foldl (fun d x => d.removeFrame q .bqQResDrop x) (d.setQueue q (l.drop gone.length))

/-- The periodic scan of every queue head (R235). (DEDUCED: assumption 29) -/
def residenceScan (d : Dev) : Dev := (d.buf.queues.map (·.1)).foldl residenceDrop d

/-- Removing every frame of a port's eight queues (R238, R239). -/
def flushQueues (d : Dev) (p : Nat) : Dev :=
  (List.range 8).foldl (fun d c =>
    let q := qNo p c
    (d.queue q).foldl (fun d x => d.removeFrame q .bqQFlush x) (d.setQueue q [])) d

/-- The flush of R238: the queues, R203, and its count. -/
def portFlush (d : Dev) (p : Nat) : Dev := ((d.flushQueues p).l2FlushPort p).inc .bqPortFlushes p

/-- A frame that a port had taken from queue `q` is lost on the wire: its count moves from BqQDeq to BqQFlush, so that the
sum stated after R256's counters holds. (DEDUCED: assumption 29) -/
def lostOnWire (d : Dev) (q : Nat) (x : QFrame) : Dev :=
  (((d.gauge .bqQDeq q false 1).inc .bqQFlush q).release x.f.grp).tsDropped x

/-! ### Mirroring -/

/-- A copy of frame `fr` for session `s`, after the sampler has taken it (R227, R241, R242). -/
def mirrorCopy (d : Dev) (s : Nat) (fr : Frame) : Dev :=
  let tr := d.f bqMirrorSample_TRUNC s
  let b := if tr = 0 then fr.bytes else fr.bytes.take tr
  match d.alloc (cellsOf b.length) with
  | (none, d) => d.inc .bqMirDrop s
  | (some g, d) =>
    let fr := { fr with bytes := b, grp := g }
    let (ok, d) : Bool × Dev :=
      if d.b bqMirrorCfg_DEST_HOST s then
        d.rxEnqueue (16 * d.f bqMirrorCfg_DOMAIN s + d.f bqMirrorCfg_RING s) { f := fr, bytes := b, mirror := true, session := s }
      else d.enqueue (d.f bqMirrorCfg_DEST_PORT s) (d.f bqMirrorCfg_CLASS s) { f := fr, de := true, mirror := true }
    d.inc (if ok then .bqMirCopies else .bqMirDrop) s

/-- A candidate copy of an enabled session (R242). -/
def mirrorCandidate (d : Dev) (s : Nat) (fr : Frame) : Dev :=
  let left := Sparse.get (fun _ => 0) d.buf.mirSkip s
  let set (d : Dev) (n : Nat) : Dev := { d with buf := { d.buf with mirSkip := Sparse.set (fun _ => 0) d.buf.mirSkip s n } }
  if left = 0 then (set d (d.f bqMirrorSample_SAMPLE_N s - 1)).mirrorCopy s fr
  else (set d (left - 1)).inc .bqMirSkipped s

/-- The candidates of every enabled session of a source kind and port (R240). -/
def mirrorPort (d : Dev) (kind p : Nat) (fr : Frame) : Dev :=
  (List.range 8).foldl (fun d s =>
    if d.b bqMirrorCfg_ENABLE s ∧ d.f bqMirrorCfg_SRC_KIND s = kind ∧ d.f bqMirrorCfg_SRC_PORT s = p
    then d.mirrorCandidate s fr else d) d

/-- Whether a session takes copies from MIRR and rule actions (R240). -/
def mirrorRuleOn (d : Dev) (s : Nat) : Bool := d.b bqMirrorCfg_ENABLE s && d.f bqMirrorCfg_SRC_KIND s == 0

/-- A write of word 0 of BqMirror (R241, R242). -/
def mirrorCfgWrite (d : Dev) (s v : Nat) : Dev :=
  let kind := bits 29 28 v
  let host := bitAt 27 v
  let src := bits 26 20 v
  let dst := bits 19 13 v
  if kind = 3 ∨ 19 < dst ∨ emitPort src = false ∨ (32 ≤ src ∧ host = false) then d.rejWr uBq
  else
    let d := d.wr .bqMirrorCfg s (BitVec.ofNat 32 (v &&& 0xBFFFFFFC))
    if bitAt 31 v then { d with buf := { d.buf with mirSkip := Sparse.set (fun _ => 0) d.buf.mirSkip s 0 } } else d

/-- A write of word 1 of BqMirror. -/
def mirrorSampleWrite (d : Dev) (s v : Nat) : Dev :=
  let n := max 1 (bits 31 16 v)
  let t := bits 13 0 v
  if 9728 < t then d.rejWr uBq
  else
    let t := if t = 0 then 0 else max 64 t
    d.wr .bqMirrorSample s (BitVec.ofNat 32 (n * 65536 + t))

/-! ### Ring registers -/

/-- The domain number a ring's event shows; the management cores' rings show 16. -/
def ringDom (i : Nat) : Nat := i / 16

/-- Whether TAIL of a ring may take `v`: at most N ahead of HEAD (R243, R253). -/
def tailOk (d : Dev) (tx : Bool) (i v : Nat) : Bool :=
  decide ((v % 65536 + 65536 - d.f (if tx then hrTxHead_HEAD else hrRxHead_HEAD) i) % 65536 ≤ if tx then d.txN i else d.rxN i)

/-- A write of TAIL of a receive or transmit ring (R243, R253). -/
def tailWrite (d : Dev) (staged tx : Bool) (i v : Nat) : Dev :=
  let t := v % 65536
  if staged = false ∧ d.tailOk tx i v = false then (d.rejWr (ringUnit i)).raise 21 (ringDom i) (i % 16)
  else d.sf (if tx then hrTxTail_TAIL else hrRxTail_TAIL) i t

/-- Whether HrRxCfg may take `v`: its ranges, and no change but of ENABLE and VECTOR on an enabled ring (R245). -/
def rxCfgOk (d : Dev) (i v : Nat) : Bool :=
  let size := bits 23 20 v
  let old := (d.rd .hrRxCfg i).toNat
  decide (6 ≤ size ∧ size ≤ 15) && decide (bits 13 0 v ≤ 10000)
    && (!bitAt 31 old || (size == bits 23 20 old && bits 25 24 v == bits 25 24 old && bits 13 0 v == bits 13 0 old))

/-- A write of HrRxCfg (R245). -/
def rxCfgWrite (d : Dev) (staged : Bool) (i v : Nat) : Dev :=
  if staged = false ∧ d.rxCfgOk i v = false then d.rejWr (ringUnit i)
  else
    let d := d.wr .hrRxCfg i (BitVec.ofNat 32 (v &&& 0x83FFFFFF))
    if bitAt 31 v then d else d.rxDropAll i

/-- Whether HrTxCfg may take `v` (R253). -/
def txCfgOk (d : Dev) (i v : Nat) : Bool :=
  let size := bits 23 20 v
  let old := (d.rd .hrTxCfg i).toNat
  decide (6 ≤ size ∧ size ≤ 15) && (!bitAt 31 old || size == bits 23 20 old)

/-- A write of HrTxCfg: ENABLE 0 and then 1 clears HALTED (R254). -/
def txCfgWrite (d : Dev) (staged : Bool) (i v : Nat) : Dev :=
  let old := (d.rd .hrTxCfg i).toNat
  if staged = false ∧ d.txCfgOk i v = false then d.rejWr (ringUnit i)
  else
    let halted := bitAt 30 old && !(bitAt 31 v && !bitAt 31 old)
    d.wr .hrTxCfg i (BitVec.ofNat 32 ((v &&& 0x80FFC000) + if halted then 2 ^ 30 else 0))

/-- TIME_US has passed since an unannounced completion (R250). -/
def ringIrqTimeout (d : Dev) (i : Nat) (tx : Bool) : Dev :=
  if tx then
    if (d.tx i).unannounced = 0 then d
    else (d.setTx i { d.tx i with unannounced := 0 }).ringVector i (d.f hrTxCfg_VECTOR i)
  else if (d.rx i).unannounced = 0 then d
  else (d.setRx i { d.rx i with unannounced := 0 }).ringVector i (d.f hrRxCfg_VECTOR i)

/-- RESTART of a ring set (R252): a frame whose read a fault of the set cut short goes with its descriptors. -/
def ringSetRestart (d : Dev) (n : Nat) : Dev :=
  (List.range 16).foldl (fun d r =>
    let i := 16 * n + r
    let d := d.rxDropAll i
    let d := match (d.tx i).cur with
      | some x => (match x.grp with | some g => d.release g | none => d).setTx i { d.tx i with cur := none }
      | none => d
    let d := (d.sf hrRxHead_HEAD i 0).sf hrRxTail_TAIL i 0
    (d.sf hrTxHead_HEAD i 0).sf hrTxTail_TAIL i 0) d

end Dev

end Sys2Proof.Machine
end

