-- ==== Sys2Proof/Machine/Epochs.lean ====
section
/-! DEFINITION. The configuration of an epoch (R50, R51): the register values that a frame of a given epoch is processed
with, and the epoch's mode. -/
namespace Sys2Proof.Machine

/-- Replacing the bits of `old` that `mask` names by those of `v`. -/
def mergeBits (old v mask : Nat) : Nat := (old &&& (0xFFFFFFFF - mask % 2 ^ 32)) ||| (v &&& mask)

/-- Whether a unit holds per-epoch state (R51): the engine complex, classification, tables, tunnels and objects. -/
def perEpochUnit (u : Nat) : Bool :=
  match unitKind u with
  | .fe | .fc | .eng | .cls | .tb | .tun | .mo => true
  | _ => false

namespace Dev

/-- The current epoch. -/
def epoch (d : Dev) : Nat := d.f epCur_CURRENT 0

/-- The value that the issued but not yet arrived commit token brings register instance `k` (R51, R54). -/
def stagedValue (d : Dev) (k : Nat) (now : Word) : Word :=
  match d.ep.txn with
  | none => now
  | some t =>
    if t.issued then
      t.items.foldl (fun v it =>
        if t.token.contains it.unit && perEpochUnit it.unit then
          match regAt it.off with
          | some (r, i) => if regKey r i = k then BitVec.ofNat 32 (mergeBits v.toNat it.data it.mask) else v
          | none => v
        else v) now
    else now

/-- The word a register of a per-epoch block holds for a frame or job of epoch `e` (R51). -/
def rdE (d : Dev) (e : Nat) (r : Reg) (i : Nat) : Word :=
  let k := regKey r i
  match (d.ep.hist.filter fun h => decide (h.2.1 = k) && epochBefore e h.1).getLast? with
  | some h => BitVec.ofNat 32 h.2.2
  | none => if e = d.epoch then d.stagedValue k (d.rd r i) else d.rd r i

/-- A field of it. -/
def fE (d : Dev) (e : Nat) (F : RField) (i : Nat) : Nat := bits F.hi F.lo (d.rdE e F.reg i).toNat

def bE (d : Dev) (e : Nat) (F : RField) (i : Nat) : Bool := d.fE e F i == 1

/-- The operating mode of an epoch (R61, R71); `ep.modeOf` lists one more than the mode of an epoch that has another. -/
def modeOf (d : Dev) (e : Nat) : Nat :=
  match Sparse.get (fun _ => 0) d.ep.modeOf e with
  | 0 => d.mode
  | m + 1 => m

end Dev

end Sys2Proof.Machine
end

