-- ==== Sys2Proof/Machine/Parse.lean ====
section
/-! DEFINITION. The port parser (R160, R161, R549) and the flow hash (R164). -/
namespace Sys2Proof.Machine

/-- What the parser finds: the receive status of R160, and the protocol or last next-header value. -/
structure Parsed where
  status : Nat := 0
  proto : Nat := 0
  deriving DecidableEq, Repr

/-- EtherTypes known without FeKnownEt (R161). -/
def knownEt : List Nat := [0x0800, 0x86DD, 0x0806, 0x8100, 0x88A8, 0x88E5, 0x22F0, 0x88F7, 0x88CC, 0x88B5, 0x88B6]

def rxTagged : Nat := 1
def rxL3 (k off : Nat) : Nat := k * 2 + off * 2 ^ 13
def rxAvtp : Nat := 2 ^ 5
def rxMacsec : Nat := 2 ^ 6
def rxCsumBad : Nat := 2 ^ 7
def rxOpt : Nat := 2 ^ 8
def rxFrag : Nat := 2 ^ 9
def rxV6Ext : Nat := 2 ^ 10
def rxBeyond : Nat := 2 ^ 11
def rxUnknown : Nat := 2 ^ 12
def rxInjected : Nat := 2 ^ 31

/-- The L4 part of the status: kind and offset, and whether the header ends beyond 512 B (R549). `tcp`, `udp` and `icmp` are told
by kind 1, 2 and 3. -/
def l4Part (b : List Byte) (kind off : Nat) : Nat :=
  if kind = 0 then 0
  else
    let read := min b.length 512
    let n := if kind = 1 then (if off + 13 ≤ read then max 5 (beAt b (off + 12) 1 / 16) * 4 else 20) else 8
    let beyond := if 512 < off + n then rxBeyond else 0
    if b.length < off + n ∨ 512 ≤ off then beyond else kind * 8 + off * 2 ^ 22 + beyond

/-- The one's complement sum of `n` 16-bit words from offset `o`. -/
def sum16 (b : List Byte) (o n : Nat) : Nat :=
  (List.range n).foldl (fun a k => ones16 a (beAt b (o + 2 * k) 2)) 0

/-- The IPv4 header at `o`: status bits and protocol. A fragment keeps L4_KIND without L4_OFF, also where its frame ends before the
L4 header does (R549). (DESIGN CHOICE: assumption 54) -/
def parseV4 (b : List Byte) (o : Nat) : Parsed :=
  if b.length ≤ o then ⟨rxL3 1 o + rxCsumBad, 0⟩
  else
    let ihl := beAt b o 1 % 16
    if ihl < 5 then ⟨rxL3 1 o + rxCsumBad, if o + 10 ≤ b.length then beAt b (o + 9) 1 else 0⟩
    else
      let opt := if 5 < ihl then rxOpt else 0
      let fo := beAt b (o + 6) 2
      let isFrag := decide (o + 8 ≤ b.length) && (bitAt 13 fo || fo % 8192 != 0)
      let fr := if isFrag then rxFrag else 0
      let proto := beAt b (o + 9) 1
      if b.length < o + 4 * ihl then ⟨rxL3 1 o + rxCsumBad + opt + fr, proto⟩
      else
        let bad := if sum16 b o (2 * ihl) = 65535 then 0 else rxCsumBad
        let kind := if proto = 6 then 1 else if proto = 17 then 2 else if proto = 1 then 3 else 0
        let l4 := if isFrag then kind * 8 else l4Part b kind (o + 4 * ihl)
        ⟨rxL3 1 o + opt + fr + bad + l4, proto⟩

/-- The walk of the IPv6 extension chain (R161): status bits and the last next-header value. `k` is how many headers were
walked. A chain that the end of the frame cuts within the first 512 B sets neither IPV6_EXT nor BEYOND_WINDOW for that (R549); the
last value of the chain (R164) is 44 at a Fragment header, and that of the header where an unfinished chain stops.
(DESIGN CHOICE: assumption 54) -/
def walkV6 (b : List Byte) : Nat → Nat → Nat → Nat → Nat → Parsed
  | 0, _, nh, _, st => ⟨st, nh⟩
  | n + 1, k, nh, pos, st =>
    let common := nh == 0 || nh == 43 || nh == 60 || nh == 51
    let walked := common || nh == 135 || nh == 139 || nh == 140 || nh == 253 || nh == 254
    if walked then
      let st := if !common || decide (2 ≤ k) then st ||| rxV6Ext else st
      if 512 < pos + 2 then ⟨st ||| rxV6Ext ||| rxBeyond, nh⟩
      else if b.length < pos + 2 then ⟨st, nh⟩
      else
        let l := beAt b (pos + 1) 1
        let pos' := pos + if nh = 51 then 4 * (l + 2) else 8 * (l + 1)
        let nh' := beAt b pos 1
        if 512 < pos' then ⟨st ||| rxV6Ext ||| rxBeyond, nh⟩
        else if b.length < pos' then ⟨st, nh⟩
        else walkV6 b n (k + 1) nh' pos' st
    else if nh = 44 then
      let st := if 2 ≤ k then st ||| rxV6Ext else st
      let st := if 512 < pos + 8 then st ||| rxV6Ext ||| rxBeyond else st
      ⟨st ||| rxFrag, nh⟩
    else
      let kind := if nh = 6 then 1 else if nh = 17 then 2 else if nh = 58 then 3 else 0
      ⟨st ||| l4Part b kind pos, nh⟩

/-- The IPv6 header at `o`. -/
def parseV6 (b : List Byte) (o : Nat) : Parsed :=
  if b.length < o + 40 then ⟨rxL3 2 o, if o + 7 ≤ b.length then beAt b (o + 6) 1 else 0⟩
  else walkV6 b 80 0 (beAt b (o + 6) 1) (o + 40) (rxL3 2 o)

/-- The receive status of an Ethernet frame (R160). `extra` are the EtherTypes of FeKnownEt. -/
def parseEth (extra : List Nat) (b : List Byte) : Parsed :=
  let isTag (o : Nat) : Bool := beAt b o 2 == 0x8100 || beAt b o 2 == 0x88A8
  let tag0 := decide (14 ≤ b.length) && isTag 12
  let tag1 := tag0 && decide (18 ≤ b.length) && isTag 16
  let o := if tag1 then 20 else if tag0 then 16 else 12
  let tg := if tag0 then rxTagged else 0
  if b.length < o + 2 then ⟨tg + rxUnknown, 0⟩
  else
    let et := beAt b o 2
    let base := tg + (if knownEt.contains et || extra.contains et then 0 else rxUnknown)
      + (if et = 0x88E5 then rxMacsec else 0) + if et = 0x22F0 then rxAvtp else 0
    let p : Parsed :=
      if et = 0x0800 then parseV4 b (o + 2)
      else if et = 0x86DD then parseV6 b (o + 2)
      else if et = 0x0806 then ⟨rxL3 3 (o + 2), 0⟩
      else {}
    ⟨base + p.status, p.proto⟩

/-- The format a CAN or LIN frame is hashed with (R294). -/
def busFormat (b : List Byte) : Nat :=
  let kind := beAt b 0 1 % 8
  if kind = 4 then 0 else if kind = 3 then 2 else if bitAt 0 (beAt b 1 1) then 1 else 0

/-- The identifier of a frame in the internal layout (R293). -/
def busId (b : List Byte) : Nat := beAt b 4 4 % 2 ^ 29

/-- The flow hash of R164 under seed `s`. -/
def flowHash (s port : Nat) (p : Parsed) (b : List Byte) : Nat :=
  let st := p.status
  let l3 := bits 2 1 st
  let l4 := bits 4 3 st
  let o := bits 21 13 st
  let o4 := bits 30 22 st
  let ok := (l4 = 1 || l4 = 2) && !bitAt 9 st && decide (o4 + 4 ≤ min b.length 512)
  let sp := if ok then beAt b o4 2 else 0
  let dp := if ok then beAt b (o4 + 2) 2 else 0
  let mk := sp * 2 ^ 48 + dp * 2 ^ 32 + p.proto * 2 ^ 24
  let (a, x) : Nat × Nat :=
    if l3 = 1 then (beAt b (o + 12) 4 * 2 ^ 32 + beAt b (o + 16) 4, mk)
    else if l3 = 2 then
      (hmix (beAt b (o + 8) 8 ^^^ s) (beAt b (o + 16) 8) ^^^ hmix (beAt b (o + 24) 8) (beAt b (o + 32) 8), mk)
    else if 32 ≤ port then (busId b ||| busFormat b * 2 ^ 29, port)
    else (beAt b 0 6, beAt b 6 6 + if bitAt 0 st then beAt b 14 2 % 4096 * 2 ^ 48 else 0)
  let h := hmix (a ^^^ s) x
  h / 2 ^ 32 ^^^ h % 2 ^ 32

namespace Dev

/-- The EtherTypes that FeKnownEt adds (R161). -/
def extraEt (d : Dev) : List Nat :=
  (List.range 8).filterMap fun n => if d.b feKnownEt_VALID n then some (d.f feKnownEt_ETYPE n) else none

/-- What the parser finds in a frame that commits on port `p` (R160). -/
def parsed (d : Dev) (p : Nat) (b : List Byte) : Parsed := if 32 ≤ p then {} else parseEth d.extraEt b

end Dev

end Sys2Proof.Machine
end

