-- ==== Sys2Proof/Machine/Path.lean ====
section
/-! DEFINITION. The frame path: dispatch (R162 to R168), the classification rules (R169 to R173), the slow path (R180 to R182), the
order stage (R184 to R186), and injection (R183). -/
namespace Sys2Proof.Machine

/-- The fields of %frame_class (R78): [2:0] class, [3] drop eligible, [4] egress timestamp request, [5] express. -/
def clsClass (c : Nat) : Nat := c % 8
def clsDe (c : Nat) : Bool := bitAt 3 c
def clsExpress (c : Nat) : Bool := bitAt 5 c
def clsTs (c : Nat) : Bool := bitAt 4 c
/-- The CLASS byte of a transmit descriptor (R253), where [4] is express, in the layout of %frame_class. -/
def descCls (c : Nat) : Nat := c % 16 + if bitAt 4 c then 32 else 0

/-- What an unlisted rule and slow-path queue hold. -/
def ruleDefault (_ : Nat) : Rule := {}
def slowDefault (_ : Nat) : SlowQ := {}

/-- The number of a slow-path queue's ring: the management cores' set or a domain's (R181, R501). -/
def Dev.slowRing (d : Dev) (q : Nat) : Nat :=
  if d.b feSlowQCfg_SERVER q then 16 * d.f feSlowQCfg_DOMAIN q + d.f feSlowQCfg_RING q else 256 + d.f feSlowQCfg_RING q

namespace Dev

/-! ### Slow path -/

/-- The trap record of R182. -/
def trapRecord (kind exc code pc thread : Nat) (fr : Frame) : List Byte :=
  [byteOf kind, byteOf exc] ++ leBytes 2 (code % 4096) ++ leBytes 2 (if kind = 1 then 0 else pc)
    ++ [byteOf (if kind = 1 then 0 else fr.pass), byteOf fr.port] ++ leBytes 2 fr.epoch ++ leBytes 2 fr.bytes.length
    ++ leBytes 4 fr.seq ++ leBytes 8 fr.rxTime ++ leBytes 4 fr.rxStatus
    ++ [byteOf (if kind = 1 then 0xFF else thread), byteOf fr.cls, 0, 0]

/-- Frames of slow-path queue `q` that wait (FeSlowQ.DEPTH): its deliveries that have not claimed their descriptors. -/
def slowDepth (d : Dev) (q : Nat) : Nat :=
  (d.buf.rx.map fun x => (x.2.queue.filter fun dl => decide (dl.sq = some q)).length).sum

def slowQ (d : Dev) (q : Nat) : SlowQ := Sparse.get slowDefault d.path.slow q

def setSlowQ (d : Dev) (q : Nat) (x : SlowQ) : Dev :=
  { d with path := { d.path with slow := Sparse.set slowDefault d.path.slow q x } }

/-- A frame goes to slow-path queue `q` with its trap record (R181): accepted and delivered, or dropped. Either way it is
resolved for the order stage. (DEDUCED: assumption 25) -/
def slowPath (d : Dev) (q : Nat) (fr : Frame) (rec : List Byte) : Dev :=
  let rate := d.f feSlowQRate_RATE q
  let left := min (d.f feSlowQRate_BURST q) (d.slowQ q).bucket
  if d.b feSlowQCfg_ENABLE q = false ∨ d.f feSlowQCfg_LIMIT q ≤ d.slowDepth q ∨ (rate ≠ 0 ∧ left = 0) then
    (d.inc .feSlowDrop q).dropFrame fr
  else
    let d := if rate = 0 then d else d.setSlowQ q { bucket := left - 1 }
    let d := (d.inc .feSlowIn q).resolve fr.port fr.seq .dropped
    (d.rxEnqueue (d.slowRing q) { f := fr, bytes := rec ++ fr.bytes, trap := true, sq := some q }).2

/-- The rate bucket of a slow-path queue refills by one frame (R181). (DEDUCED: assumption 25) -/
def slowRefill (d : Dev) (q : Nat) : Dev :=
  if d.f feSlowQRate_RATE q = 0 then d
  else d.setSlowQ q { bucket := min (d.f feSlowQRate_BURST q) ((d.slowQ q).bucket + 1) }

/-! ### Dispatch -/

/-- Whether engine `n` takes frames now: its role and its state (R37, R166). One that a QUIESCE still drains admits no new work
and is no member. (DESIGN CHOICE: assumption 54) -/
def engTakes (d : Dev) (role : RField) (n : Nat) : Bool := d.b role n && d.admits (uEng n)

/-- Whether the state that cluster `c` acts in is RUN (R43); a STAGED engine goes on as before (R543). (DEDUCED: assumption 25) -/
def clusterRuns (d : Dev) (c : Nat) : Bool := (common ((d.children (uFc c)).map d.actsAs)).1 == stRun

/-- Whether cluster `c` is in RUN and holds an engine in RUN with a role (R166, R345). -/
def clusterTakes (d : Dev) (role : RField) (c : Nat) : Bool :=
  d.clusterRuns c && (List.range 8).any fun k => d.engTakes role (8 * c + k)

/-- The initial %frame_class (R163). -/
def initialClass (d : Dev) (p e : Nat) (b : List Byte) (st : Nat) : Nat :=
  if bitAt 0 st && d.bE e feDispCfg_USE_PCP p then
    let v := beAt b 14 1
    let pcp := v / 32
    bits (3 * pcp + 2) (3 * pcp) (d.fE e feDispPcp_MAP p) + if bitAt 4 v then 8 else 0
  else d.fE e feDispCfg_DEFAULT_CLASS p

def hashSeed (d : Dev) (e : Nat) : Nat := (d.rdE e .feHashSeed 1).toNat * 2 ^ 32 + (d.rdE e .feHashSeed 0).toNat

/-- The first cause of R165 that diverts a frame: its code and slow-path queue. -/
def divertCause (d : Dev) (p e st : Nat) : Option (Nat × Nat) :=
  if bitAt 31 st then none
  else if bitAt 9 st && d.bE e feDispCfg_SM_FRAG p then some (1, d.fE e feSlowCause_FRAG 0)
  else if bitAt 8 st && d.bE e feDispCfg_SM_OPT p then some (2, d.fE e feSlowCause_OPT 0)
  else if bitAt 10 st && d.bE e feDispCfg_SM_IPV6_EXT p then some (3, d.fE e feSlowCause_IPV6_EXT 0)
  else if bitAt 11 st && d.bE e feDispCfg_SM_BEYOND p then some (4, d.fE e feSlowCause_BEYOND 0)
  else if bitAt 12 st && d.bE e feDispCfg_SM_UNKNOWN_ET p then some (5, d.fE e feSlowCause_UNKNOWN_ET 0)
  else none

/-- Whether a work item is a frame of the first or of the second pass. -/
def isPass (pass : Nat) : Work → Bool
  | .frame f => f.pass == pass
  | _ => false

/-- Frames in the recirculation queue (R177). -/
def recircCount (d : Dev) : Nat := d.path.recircQ.length

/-- Frames in the dispatch queue of a cluster. -/
def dispFrames (d : Dev) (c : Nat) : Nat := ((d.dispQ c).filter fun w => isPass 0 w || isPass 1 w).length

/-- A frame waits for cluster `c`, or finds its queue full (R167). -/
def dispJoin (d : Dev) (cp c : Nat) (fr : Frame) : Dev :=
  if 1024 ≤ d.dispFrames c then (d.inc .feDispDrop cp).dropFrame fr else d.setDispQ c (d.dispQ c ++ [.frame fr])

/-- Choosing the cluster of a frame and queueing it (R166, R167, R466). `cp` is the port whose CLUSTERS and counters
apply. -/
def toCluster (d : Dev) (cp : Nat) (fr : Frame) : Dev :=
  if d.inSepia then
    if d.sepiaForwards && d.portSet .lsSepiaPorts 0 fr.port then d.dispJoin cp d.sepiaCluster fr
    else (d.inc .lsSepiaDrop 0).dropFrame fr
  else
    let cs := d.fE fr.epoch feDispCfg_CLUSTERS cp
    let members := (List.range 8).filter fun c => bitAt c cs && d.clusterTakes feEngRole_FRAME c
    match members[fr.hash % members.length]? with
    | none => (d.inc .feDispDrop cp).dropFrame fr
    | some c => d.dispJoin cp c fr

/-- A first pass is stamped and sent on its way (R162, R165); in Sepia it is diverted nowhere (R466). -/
def dispatchFirst (d : Dev) (p : Nat) (fr : Frame) : Dev :=
  let e := d.epoch
  let q := Sparse.get (fun _ => 0) d.path.nextSeq p
  let d := { d with path := { d.path with nextSeq := Sparse.set (fun _ => 0) d.path.nextSeq p ((q + 1) % 2 ^ 32) } }
  let pr := d.parsed p fr.bytes
  let fr := { fr with
    port := p, seq := q, epoch := e, pass := 0, cls := d.initialClass p e fr.bytes fr.rxStatus,
    hash := flowHash (d.hashSeed e) p pr fr.bytes }
  let d := d.setOrder p (d.orderOf p ++ [(q, .waiting)])
  if d.inSepia && !(d.sepiaForwards && d.portSet .lsSepiaPorts 0 p) then (d.inc .lsSepiaDrop 0).dropFrame fr
  else match if d.inSepia then none else d.divertCause p e fr.rxStatus with
    | some (code, sq) => (d.inc .feDispSlow p).slowPath sq fr (trapRecord 1 0 code 0 0xFF fr)
    | none => d.toCluster p fr

/-- A second pass at the dispatcher (R176): %flow_hash is recomputed, the cluster is chosen by global port index 25. A frame whose
status says nothing, as one in the internal layout that the tunnel block split out, has nothing parsed (R160). -/
def dispatchSecond (d : Dev) (fr : Frame) : Dev :=
  let pr := if fr.rxStatus % 2 ^ 31 = 0 then {} else d.parsed fr.port fr.bytes
  d.toCluster 25 { fr with hash := flowHash (d.hashSeed fr.epoch) fr.port pr fr.bytes }

/-- The dispatcher takes the next committed frame of port `p`, or of the recirculation queue for 25 (R162, R176). -/
def dispatch (d : Dev) (p : Nat) : Dev :=
  if p = 25 then
    match d.path.recircQ with
    | [] => d
    | fr :: q => { d with path := { d.path with recircQ := q } }.dispatchSecond fr
  else
    match Sparse.get (fun _ => []) d.path.rxFifo p with
    | [] => d
    | fr :: q => { d with path := { d.path with rxFifo := Sparse.set (fun _ => []) d.path.rxFifo p q } }.dispatchFirst p fr

/-- REDIP of a packet (R176, R177): the recirculation queue takes it, or it is dropped. The parser reads it anew, INJECTED
kept; as the hash does, it tells a CAN or LIN frame by %frame_port. (DEDUCED: assumption 25; DESIGN CHOICE: assumption 54) -/
def recirculate (d : Dev) (fr : Frame) : Dev :=
  if d.f feRecircCfg_LIMIT 0 ≤ d.recircCount then (d.inc .feRecircDrop 0).dropFrame fr
  else
    let st := (d.parsed fr.port fr.bytes).status + fr.rxStatus / 2 ^ 31 * 2 ^ 31
    let fr := { fr with pass := 1, rxStatus := st }
    { d with path := { d.path with recircQ := d.path.recircQ ++ [fr] } }.inc .feRecircIn 0

/-- A frame commits on port `p` (R158, R160): its ingress mirror copies are taken (R240), and the dispatcher may take it. -/
def commitRx (d : Dev) (p : Nat) (fr : Frame) : Dev :=
  let fr := { fr with port := p, rxStatus := fr.rxStatus / 2 ^ 31 * 2 ^ 31 + (d.parsed p fr.bytes).status }
  (d.mirrorPort 1 p fr).pushRx p fr

/-! ### Rules -/

def rule (d : Dev) (n : Nat) : Rule := Sparse.get ruleDefault d.path.rules n

/-- The physical set of logical set `s` for epoch `e` (R170). -/
def physSet (d : Dev) (e s : Nat) : Nat :=
  bits (4 * (s % 8) + 3) (4 * (s % 8)) (d.rdE e .clsSetMap (s / 8)).toNat

/-- The physical sets an epoch maps. -/
def epochSets (d : Dev) (e : Nat) : List Nat := (List.range 16).map (d.physSet e)

/-- ClsSetUse: sets mapped by a live epoch, and those mapped by live epochs other than the current one only (R170). -/
def setLive (d : Dev) (s : Nat) : Bool := d.ep.live.any fun e => (d.epochSets e).contains s
def setDraining (d : Dev) (s : Nat) : Bool := d.setLive s && !(d.epochSets d.epoch).contains s

/-- The rule that wins a search of physical set `s` with key `k` (R169). (DEDUCED: assumption 21) -/
def ruleMatch (d : Dev) (s k : Nat) : Option Nat :=
  (d.path.rules.foldl (fun (best : Option (Nat × Nat)) x =>
    let r := x.2
    if r.valid && r.pset == s && (r.key ^^^ k) &&& r.mask == 0
      && (match best with | none => true | some (_, p) => decide (p < r.prio)) then some (x.1, r.prio) else best) none).map (·.1)

/-- The control word of a rule as ClsRuleWin shows it. -/
def ruleCtl (r : Rule) : Nat := (if r.valid then 2 ^ 31 else 0) + r.pset * 2 ^ 24 + r.prio

/-- Word `w` of a rule as ClsRuleWin shows it. -/
def ruleWord (r : Rule) (w : Nat) : Nat :=
  if w < 16 then bits (32 * w + 31) (32 * w) r.key
  else if w < 32 then bits (32 * (w - 16) + 31) (32 * (w - 16)) r.mask
  else if w < 34 then bits (32 * (w - 32) + 31) (32 * (w - 32)) r.action
  else ruleCtl r

/-- Whether an action word's low half may be written (R15, R171, R173). -/
def actionOk (v : Nat) : Bool :=
  let a := v % 16
  decide (a ≤ 6) && validPort (bits 10 4 v) && (a != 2 || emitPort (bits 10 4 v))

/-- A write of word `w` of the rule window (R171). -/
def ruleWrite (d : Dev) (w v : Nat) : Dev :=
  let n := d.f clsRuleSel_INDEX 0
  let r := d.rule n
  let bad := d.setDraining r.pset || (decide (w = 34) && d.setDraining (bits 27 24 v))
    || (r.valid && !(decide (w = 34) && !bitAt 31 v)) || (decide (w = 32) && !actionOk v)
  if bad then d.rejWr uCls
  else
    let r' : Rule :=
      if w < 16 then { r with key := setBits (32 * w + 31) (32 * w) v r.key }
      else if w < 32 then { r with mask := setBits (32 * (w - 16) + 31) (32 * (w - 16)) v r.mask }
      else if w = 32 then { r with action := setBits 31 0 (v &&& 0xFFFF7FFF) r.action }
      else if w = 33 then { r with action := setBits 63 32 (v &&& 0xFFFFFF03) r.action }
      else { r with valid := bitAt 31 v, pset := bits 27 24 v, prio := v % 65536 }
    { d with path := { d.path with rules := Sparse.set ruleDefault d.path.rules n r' } }

/-! ### Order -/

/-- A committed frame for one destination of its release (R184). -/
def releaseTo (d : Dev) (fr : Frame) : Release → Dev
  | .queue p c => (d.enqueue p c { f := fr, de := clsDe fr.cls }).2
  | .ring dom r c => (d.rxEnqueue (16 * dom + r) { f := { fr with cls := fr.cls / 8 * 8 + c }, bytes := fr.bytes, copyh := true }).2

/-- Releasing the head of a port's order list when it is committed (R184). The copies of an EMITM share its cells. -/
def orderRelease (d : Dev) (p : Nat) : Dev :=
  match d.orderOf p with
  | (_, .committed fr tos) :: rest =>
    let d := d.setOrder p (rest.dropWhile fun e => decide (e.2 = .dropped))
    let d := (List.range (tos.length - 1)).foldl (fun d _ => d.holdGrp fr.grp) d
    tos.foldl (fun d t => d.releaseTo fr t) d
  | _ => d

/-- A frame commits to the order stage (R184, R185). -/
def commitFrame (d : Dev) (fr : Frame) (tos : List Release) : Dev :=
  if tos.isEmpty then d.dropFrame fr else d.resolve fr.port fr.seq (.committed fr tos)

/-- Whether a frame is one of the sequence number `q` of port `p`, as all frames of one tunnel split are (R329). -/
def ofSeq (p q : Nat) (f : Frame) : Bool := f.port == p && f.seq % 2 ^ 32 == q

/-- The frame of a work item, when it is one of that sequence number. -/
def workOfSeq (p q : Nat) : Work → Option Frame
  | .frame f => if ofSeq p q f then some f else none
  | _ => none

/-- The frames of a sequence number that wait in the dispatch queues and the recirculation queue. -/
def seqWaiting (d : Dev) (p q : Nat) : List Frame :=
  d.path.recircQ.filter (ofSeq p q) ++ (List.range 8).flatMap fun c => (d.dispQ c).filterMap (workOfSeq p q)

/-- Frames unresolved for FeOrderTmo that wait in a dispatch queue or the recirculation queue are dropped and counted (R186). -/
def orderExpireWaiting (d : Dev) (p q : Nat) : Dev :=
  let fs := d.seqWaiting p q
  let d := { d with path := { d.path with recircQ := d.path.recircQ.filter fun x => !ofSeq p q x } }
  let d := (List.range 8).foldl (fun d c => d.setDispQ c ((d.dispQ c).filter fun w => (workOfSeq p q w).isNone)) d
  fs.foldl (fun d f => (d.inc .feOrderExpired 0).dropFrame f) d

/-! ### Transmit rings -/

/-- An ENGINE-mode frame is dispatched as a new first pass at entry `p` with INJECTED = 1 (R183). -/
def inject (d : Dev) (p : Nat) (time : Nat) (g : Nat) (data : List Byte) : Dev :=
  let st := (d.parsed p data).status + rxInjected
  d.dispatchFirst p { bytes := data, rxTime := time, rxStatus := st, grp := g }

/-- The global port index of the host a ring belongs to: H0 and H1 by endpoint, H2 and H3, the management port (R13). -/
def hostPort (d : Dev) (i : Nat) : Nat :=
  if 256 ≤ i then 24
  else match d.bind (i / 16) with
    | 0 => 20 + i / 16 / 8
    | b => 21 + b

/-- The data of the frame of ring `i`: as read from host memory, or from the buffers in the SRAM (R255, R501). -/
def txBytes (d : Dev) (i : Nat) (x : TxCur) (data : List Byte) : List Byte :=
  if i < 256 then data else x.descs.flatMap fun e => d.sramGet (bits 63 0 e) (bits 79 64 e)

/-- The frame data of ring `i` has been read, in host memory as `data`, or the read failed (R255, R467). A management ring's
frame is stamped as it is injected (R339). (DESIGN CHOICE: assumption 30) -/
def txDataDone (d : Dev) (i : Nat) (err : Bool) (data : List Byte) : Dev :=
  match (d.tx i).cur with
  | none => d
  | some x =>
    match x.grp with
    | none => d
    | some g =>
      let d := d.setTx i { d.tx i with cur := none }
      let data := slice (d.txBytes i x data) 0 x.len
      let time := if i < 256 then x.time else d.ns
      if err then (d.release g).txFinish i x 0 7
      else if !x.direct then (d.inject x.port time g data).txFinish i x 0 0
      else if d.inSepia ∧ i / 16 ≠ 0 ∧ i < 256 then (d.release g).txFinish i x 0 3
      else
        let fr : Frame := { bytes := data, port := d.hostPort i, cls := descCls x.cls, rxTime := time, grp := g }
        let (ok, d) := d.enqueue x.port (clsClass x.cls)
          { f := fr, de := clsDe x.cls, direct := true, ts := if x.ts then some (i, x) else none }
        if ok then (if x.ts then d else d.txFinish i x 0 0) else d.txFinish i x 0 3

end Dev

end Sys2Proof.Machine
end

