-- ==== Sys2Proof/Machine/Eth.lean ====
section
/-! DEFINITION. Ethernet ports: counters (R264, R265), links (R257 to R260, R238), reception (R261, R262), pause (R266, R267),
and the row replacement and error reports of the buffer (R48, R229, R230). -/
namespace Sys2Proof.Machine

/-- Groups and indices of R264. -/
def gRx : Nat := 0
def gTx : Nat := 1
def gMisc : Nat := 2

/-- Kinds at `Output.ethCtl`: 0 LPI signalled or ended, 1 a verify mPacket, 2 a verify response, 3 the lane is trained at a rate,
4 the SerDes lane is powered or not, 5 a PLCA beacon for so many nodes, 6 a hold or release of the MAC, 7 a back-off of so
many slot times at most, as a power of two. -/
def ctlLpi : Nat := 0
def ctlVerify : Nat := 1
def ctlRespond : Nat := 2
def ctlTrain : Nat := 3
def ctlLane : Nat := 4
def ctlBeacon : Nat := 5
def ctlHold : Nat := 6
def ctlBackoff : Nat := 7

def rateSpeed (r : Nat) : Nat := r + 3

/-- The rates each interface allows, by port (R257). -/
def intfSpeeds (intf : Nat) : List Nat :=
  match intf with
  | 1 => [6] | 2 => [5] | 3 => [5, 4, 3, 2, 1, 0] | 4 => [3] | 5 => [2, 1, 0] | 6 => [0] | 7 => [6, 5, 4, 3] | _ => []

/-- Whether a port takes an interface, and with which rates (R257, R258). -/
def intfOk (n intf : Nat) : Bool :=
  match intf with
  | 0 => true
  | 1 => decide (n ≤ 3)
  | 2 | 3 | 7 => decide (n ≤ 11)
  | 4 | 5 => decide (4 ≤ n ∧ n ≤ 11)
  | 6 => decide (12 ≤ n)
  | _ => false

/-- Whether a value of EthIntf is a combination R258 allows. -/
def ethIntfOk (n v : Nat) : Bool :=
  let intf := bits 2 0 v
  let sp := bits 8 6 v
  let fec := bits 11 10 v
  intfOk n intf && (intf == 0 || ((intfSpeeds intf).contains sp && !(intf == 7 && sp == 6 && decide (4 ≤ n))))
    && (fec == 0 || intf == 1)

namespace Dev

/-- Counting `n` in counter `k` of group `g` of a port; a change of bit 47 sets its flag and raises the event (R265). -/
def ethAdd (d : Dev) (p g k n : Nat) : Dev :=
  let i := (3 * p + g) * 32 + k
  let old := (d.ctr .ethCnt i).toNat
  let d := d.incBy .ethCnt i n
  if bitAt 47 old = bitAt 47 (d.ctr .ethCnt i).toNat then d
  else
    let w := 3 * p + g
    (d.wr .ethCntEvt w (d.rd .ethCntEvt w ||| BitVec.ofNat 32 (2 ^ k))).raise (64 + p) p 2

def ethInc (d : Dev) (p g k : Nat) : Dev := d.ethAdd p g k 1

/-- The size bin of a wire length (R264). -/
def ethBin (w : Nat) : Nat :=
  if w ≤ 64 then 0 else if w ≤ 127 then 1 else if w ≤ 255 then 2 else if w ≤ 511 then 3 else if w ≤ 1023 then 4
  else if w ≤ 1518 then 5 else if w ≤ 2047 then 6 else if w ≤ 4095 then 7 else 8

/-- 0 unicast, 1 multicast, 2 broadcast, by the destination address. -/
def castOf (b : List Byte) : Nat :=
  if beAt b 0 6 = 0xFFFFFFFFFFFF then 2 else if bitAt 0 (beAt b 0 1) then 1 else 0

/-! ### Memory errors of the buffer -/

/-- Rows of the spare pool that are free: spare rows whose USED is 0 (R48). -/
def spareRow (d : Dev) : Option Nat := (List.range 16).find? fun n => !d.b idRowMap_USED n

/-- Taking a row out of service, by command or after an error (R48): 256 cells leave the count of free ones, those that hold a frame
as soon as cells come back. Which cells of the row are free is no state of the model. (DESIGN CHOICE: assumption 29) -/
def rowOutStart (d : Dev) (row : Nat) (cmd : Bool) : Dev :=
  { d with buf := { d.buf with rowOut := some (row, cmd), rowDebt := 256 - d.freeCells } }.sf bqFree_FREE 0 (d.freeCells - 256)

/-- A row reports an uncorrectable error: it is replaced when a spare row is free, after the row that is out now (R48).
(DEDUCED: assumption 29) -/
def rowFailed (d : Dev) (row : Nat) : Dev :=
  match d.buf.rowOut with
  | some x =>
    if x.1 = row ∨ d.buf.rowWait.contains row = true then d
    else { d with buf := { d.buf with rowWait := d.buf.rowWait ++ [row] } }
  | none => if d.spareRow.isSome then d.rowOutStart row false else d

/-- What the checks of the cells and FIFOs report (R229). Words 0 to 1,023 name the row of a failing cell, larger ones a
FIFO. -/
def bufEcc (d : Dev) (e : Ecc) : Dev :=
  let d := d.incBy .bqEccCorr 0 e.corrected
  e.failing.foldl (fun d r =>
    let d := (d.inc .bqEccUncorr 0).memoryError 15 0 0
    if r < 1024 then d.rowFailed r else d) d

/-! ### Links -/

/-- Whether the BW die runs an image; without one its transceivers stay in standby, its PHYs off and its bit engines idle (R488). -/
def bwRuns (d : Dev) : Bool := d.mg.runs.any fun r => r.cls == unitClass uBw

/-- Whether the port counts as present for traffic from its PHY: the BW die runs its image and is in RUN for E12 to E19
(R38, R488). -/
def ethPhyUp (d : Dev) (p : Nat) : Bool := decide (p < 12) || (d.bwRuns && d.actsAs uBw == stRun)

/-- A frame of port `p` has ended: its next frame is past a boundary (R38). -/
def bwPassed (d : Dev) (p : Nat) : Dev := { d with bus := { d.bus with bwHeld := d.bus.bwHeld.filter (· != p) } }

/-- The frame in reception at port `p` has ended. -/
def rxPassed (d : Dev) (p : Nat) : Dev :=
  { d.bwPassed p with bus := { (d.bwPassed p).bus with
    rxCut := d.bus.rxCut.filter (· != p), wakeCut := d.bus.wakeCut.filter (· != p) } }

/-- Whether port `p` of the BW die waits for its next frame boundary (R38): the frame in hand began before the die's RESUME. -/
def bwHolds (d : Dev) (p : Nat) (stale : Bool) : Bool := stale && d.bus.bwHeld.contains p

/-- Whether a reset of the port's receive FIFO has discarded the frame in hand, which began before it (R230). -/
def rxLost (d : Dev) (p : Nat) (stale : Bool) : Bool := stale && d.bus.rxCut.contains p

/-- RESUME of the BW die: its ports and channels go on at their next frame boundary (R38). A LIN channel with nothing on its bus
is at one. -/
def bwResume (d : Dev) : Dev :=
  let lins := (List.range 16).filter fun n => (d.lin n).bus.isSome
  { d with bus := { d.bus with
    bwHeld := (List.range 8).map (12 + ·) ++ (List.range 32).map (32 + ·) ++ lins.map (80 + ·) } }

/-- Whether a T1S port is a PLCA follower (R290). -/
def plcaFollower (d : Dev) (p : Nat) : Bool := d.f ethPlcaCfg_NODE_ID p != 0 && d.f ethPlcaCfg_NODE_ID p != 255

/-- A link-loss condition of R259 now. -/
def ethLossNow (d : Dev) (p : Nat) : Bool :=
  if 12 ≤ p then d.plcaFollower p && !d.b ethLinkStatus_PLCA_OK p
  else !d.b ethLinkStatus_LOCK p || d.b ethLinkStatus_LOCAL_FAULT p || d.b ethLinkStatus_REMOTE_FAULT p
    || ((d.f ethIntf_INTF p == 3 || d.f ethIntf_INTF p == 5) && (d.eth p).anDown)

/-- The link is gone: verification begins anew and preemption waits for it, unless it is skipped (R270, 802.3br Clause 99).
(PRESUMED: assumption 31) -/
def verifyRestart (d : Dev) (p : Nat) : Dev :=
  if d.b ethPreempt_EN p ∧ d.b ethPreempt_VERIFY_DIS p = false then
    ((d.setEth p { d.eth p with verify := 0, hold := false }).sf ethPreempt_ACTIVE p 0).sf ethPreempt_VERIFY_STATUS p 1
  else d

/-- Reporting link down (R259). -/
def ethLinkDown (d : Dev) (p : Nat) : Dev :=
  if d.b ethLinkStatus_LINK p then
    (((d.sf ethLinkStatus_LINK p 0).ethInc p gMisc 0).verifyRestart p).raise (64 + p) p 1
  else d

/-- Whether the port transmits: a frame of its own is on its wire or bus (R239). -/
def sending (d : Dev) (p : Nat) : Bool :=
  if p < 20 then (d.eth p).wire.isSome
  else if 32 ≤ p ∧ p < 80 then (d.can (p - 32)).cur.isSome
  else if 80 ≤ p ∧ p < 96 then (d.lin (p - 80)).bus.any fun id => d.f linFrame_DIR (64 * (p - 80) + id % 64) == 1
  else false

/-- The queues of a port are flushed by command (R239): nothing waits for that any longer. -/
def flushNow (d : Dev) (p : Nat) : Dev :=
  { d with buf := { d.buf with flushAfter := d.buf.flushAfter.filter (· != p) } }.flushQueues p

/-- The frame on the wire of port `p` is gone, however it ended: a flush that waited for that takes place (R239). -/
def flushDue (d : Dev) (p : Nat) : Dev := if d.buf.flushAfter.contains p && !d.sending p then d.flushNow p else d

/-- Every frame then in a port's queues is removed, on a port that transmits once the frame on the wire has ended (R239). -/
def portQueueFlush (d : Dev) (p : Nat) : Dev :=
  if d.sending p then { d with buf := { d.buf with flushAfter := p :: d.buf.flushAfter.filter (· != p) } } else d.flushNow p

/-- Frames on the wire and preempted are lost (R238). -/
def ethWireLost (d : Dev) (p : Nat) : Dev :=
  let d := d.creditUpdate p
  let x := d.eth p
  let d := d.setEth p { x with wire := none, cut := none, bad := false, sent := 0, ctl := [] }
  let d := match x.wire with | some (q, c) => d.lostOnWire (qNo p c) q | none => d
  (match x.cut with | some (q, c, _) => d.lostOnWire (qNo p c) q | none => d).flushDue p

/-- A CAN channel's frame on the bus, which R238 loses; the channel keeps its other buffers. -/
def canWireLost (d : Dev) (p : Nat) : Dev :=
  let n := p - 32
  let ch := d.can n
  match ch.cur with
  | none => d
  | some b =>
    match ch.bufs.find? fun e => e.1 = b with
    | none => d
    | some (_, x) =>
      let bufs := ch.bufs.filter fun e => decide (e.1 ≠ b)
      let d := { d with bus := { d.bus with can := Sparse.set canDefault d.bus.can n { ch with cur := none, bufs := bufs } } }
      let d := if x.held then d.heldCount p false else d
      (if x.sched then d
        else ((d.gauge .bqQDeq (qNo p x.cls) false 1).inc .bqQFlush (qNo p x.cls)).release x.f.grp).flushDue p

/-- A port's link is lost (R238), unless its segment sleeps (R420). -/
def linkLost (d : Dev) (p : Nat) : Dev :=
  if d.portAsleep p || d.f bqPortCfg_STATE p != 0 then d
  else
    let d := if p < 20 then d.ethWireLost p else d.canWireLost p
    if d.f bqPortCfg_LL_HOLD_MS p = 0 then (d.sf bqPortCfg_STATE p 2).portFlush p else d.sf bqPortCfg_STATE p 1

/-- The hold timer reaches LL_HOLD_MS (R238); not while the port's segment sleeps (R420). -/
def linkHoldExpired (d : Dev) (p : Nat) : Dev :=
  if d.f bqPortCfg_STATE p = 1 ∧ d.portAsleep p = false then (d.sf bqPortCfg_STATE p 2).portFlush p else d

/-- Whether a frame of class `c` is preemptable now (R270). -/
def preemptable (d : Dev) (p c : Nat) (x : QFrame) : Bool :=
  d.b ethPreempt_ACTIVE p && bitAt c (d.f ethPreempt_PREEMPTABLE p) && !clsExpress x.f.cls

/-- The wire length of a frame of `l` bytes (R263). -/
def wireLen (l : Nat) : Nat := max 60 l + 4

/-- The octets of a fragment, its mCRC among them, that go out before it may be cut (R270). -/
def fragMin (d : Dev) (p : Nat) : Nat := (d.f ethPreempt_ADD_FRAG p + 1) * 64

/-- The octets of the frame on the wire that have been sent: 8 octets of preamble go before each fragment (R263). -/
def octetsSent (d : Dev) (p : Nat) : Nat :=
  let x := d.eth p
  x.sent + ((d.ns - x.start) * d.rate p / 8000000 - 8)

/-- The frame on the wire is preempted where R270 allows it: enough of the fragment sent, and 64 octets of the frame left. -/
def preemptWire (d : Dev) (p : Nat) : Dev :=
  let x := d.eth p
  match x.wire with
  | some (w, c) =>
    let n := d.octetsSent p
    if d.preemptable p c w && x.cut.isNone && decide (d.fragMin p ≤ n - x.sent + 4)
        && decide (n + 64 ≤ wireLen w.f.bytes.length) then
      (d.setEth p { x with wire := none, cut := some (w, c, n), sent := 0, octets := x.octets + (n - x.sent) + 24 }).ethInc p gTx 16
    else d
  | none => d

/-- A preemptable frame on the wire whose gate is closed, or while the port holds, is preempted (R272, R276). -/
def gateCut (d : Dev) (p : Nat) : Dev :=
  let x := d.eth p
  match x.wire with
  | some (_, c) => if x.hold || !bitAt c (d.f ethGateStatus_GATES p) then d.preemptWire p else d
  | none => d

/-- The gate states of a port change, as EthGateStatus shows them (R272, R275); credits and deficits follow the states before
(R268, R269), and a frame whose gate has closed is preempted. -/
def gateShow (d : Dev) (p : Nat) : Dev :=
  let g := if d.b ethGateCfg_GATE_EN p = false then 0xFF
    else if d.b ethGateStatus_RESTARTING p then d.f ethGateCfg_RESTART_GATES p
    else d.f ethGateOperListOp_GATES (256 * p + d.f ethGateStatus_ENTRY p)
  let d := (d.creditUpdate p).sf ethGateStatus_GATES p g
  ((List.range 8).foldl (fun d c => if bitAt c g then d else d.deficitClear p c) d).gateCut p

/-- The port runs RESTART_GATES until the next cycle start (R275). -/
def gatesRestart (d : Dev) (p : Nat) : Dev :=
  if d.b ethGateCfg_GATE_EN p then
    let d := d.setEth p { d.eth p with hold := false }
    (d.sf ethGateStatus_RESTARTING p 1).gateShow p
  else d

/-- GATE_EN is cleared: every gate is open, nothing restarts and the port holds no longer (R272). -/
def gatesOff (d : Dev) (p : Nat) : Dev :=
  ((d.setEth p { d.eth p with hold := false }).sf ethGateStatus_RESTARTING p 0).gateShow p

/-- A port's link is restored (R238, R275). (DEDUCED: assumption 31) -/
def linkRestored (d : Dev) (p : Nat) : Dev :=
  let st := d.f bqPortCfg_STATE p
  let d := if st = 0 then d else d.sf bqPortCfg_STATE p 0
  if st = 1 ∧ p < 20 then d.gatesRestart p else d

/-- The rate at which a link comes up, as a code of EthIntf.SPEED (R257, R258): `an` is the rate that autonegotiation gives; an
interface of one rate has that; a stepping port the rate its lane has trained at. (DEDUCED: assumption 31) -/
def ethSpeed (d : Dev) (p an : Nat) : Nat :=
  let i := d.f ethIntf_INTF p
  if d.b ethIntf_AN_EN p ∧ (i = 3 ∨ i = 5) then an
  else if i = 7 ∧ d.b ethStepCfg_STEP_EN p then rateSpeed (d.f ethStepStatus_RATE p)
  else match intfSpeeds i with
    | [s] => s
    | _ => d.f ethIntf_SPEED p

/-! ### Reception -/

/-- The reception counters of a good frame (R262). -/
def ethRxCount (d : Dev) (p : Nat) (b : List Byte) : Dev :=
  let w := b.length + 4
  (((d.ethInc p gRx 1).ethAdd p gRx 0 w).ethInc p gRx (8 + ethBin w)).ethInc p gRx (2 + castOf b)

/-- Whether a port can see a non-integral number of octets: 10BASE-T1S, and SGMII at 10 or 100 Mb/s (R261). -/
def ethAligns (d : Dev) (p : Nat) : Bool :=
  decide (12 ≤ p) || (d.f ethIntf_INTF p == 5 && decide (d.f ethLinkStatus_SPEED p ≤ 1))

/-- The counter of the first check of R261 that a frame fails. -/
def ethRxError (d : Dev) (p : Nat) (x : EthRx) : Option Nat :=
  let w := x.bytes.length + 4
  let big := decide (d.f ethMacCfg_MAX_LEN p + 4 < w)
  if x.codeErr then some 23
  else if w < 64 ∧ x.fcsBad = false then some 17
  else if w < 64 then some 18
  else if big ∧ x.fcsBad = false then some 19
  else if big then some 20
  else if x.fcsBad ∧ x.align ∧ d.ethAligns p = true then some 22
  else if x.fcsBad then some 21
  else if x.assErr then some 24
  else if x.smdErr then some 25
  else none

/-- The pause timer of class `c` is set to `q` quanta (R266); a class in hold-off ignores it (R267). -/
def pauseSet (d : Dev) (p c q : Nat) : Dev :=
  if bitAt c (d.f ethPauseState_HOLDOFF p) ∨ 12 ≤ p then d
  else
    let d := d.setEth p { d.eth p with quanta := Sparse.set (fun _ => 0) (d.eth p).quanta c q }
    let d := if q = 0 then d else d.deficitClear p c
    d.sf ethPauseState_PAUSED p (setBits c c (if q = 0 then 0 else 1) (d.f ethPauseState_PAUSED p))

/-- The end of a class's pause. (DESIGN CHOICE: assumption 51) -/
def pauseEnd (d : Dev) (p c : Nat) : Dev :=
  let d := d.setEth p { d.eth p with quanta := Sparse.set (fun _ => 0) (d.eth p).quanta c 0 }
  d.sf ethPauseState_PAUSED p (setBits c c 0 (d.f ethPauseState_PAUSED p))

/-- PAUSED and HOLDOFF when a pause has lasted WDOG_MS (R267). -/
def pauseWatchdog (d : Dev) (p c : Nat) : Dev :=
  if bitAt c (d.f ethPauseState_PAUSED p) ∧ d.f ethPauseCfg_WDOG_MS p ≠ 0 then
    let d := d.pauseEnd p c
    let d := d.sf ethPauseState_HOLDOFF p (setBits c c 1 (d.f ethPauseState_HOLDOFF p))
    (d.ethInc p gMisc 1).raise (64 + p) p 4
  else d

def pauseHoldoffEnd (d : Dev) (p c : Nat) : Dev :=
  d.sf ethPauseState_HOLDOFF p (setBits c c 0 (d.f ethPauseState_HOLDOFF p))

/-- A MAC control frame is consumed (R262, R266). -/
def macControl (d : Dev) (p : Nat) (b : List Byte) : Dev :=
  let op := beAt b 14 2
  if op = 1 then
    let d := d.ethInc p gRx 5
    if d.b ethMacCfg_RX_PAUSE_EN p ∧ d.b ethMacCfg_RX_PFC_EN p = false then
      (List.range 8).foldl (fun d c => d.pauseSet p c (beAt b 16 2)) d
    else d
  else if op = 0x0101 then
    let d := d.ethInc p gRx 6
    if d.b ethMacCfg_RX_PFC_EN p then
      (List.range 8).foldl (fun d c => if bitAt c (beAt b 16 2) then d.pauseSet p c (beAt b (18 + 2 * c) 2) else d) d
    else d
  else d.ethInc p gRx 7

/-- The signed 16-bit correction `v` added to a time (R292). -/
def addSigned (t v : Nat) : Nat := ((t : Int) + sext 16 v).toNat % 2 ^ 64

/-- A good frame that the MAC does not consume: it commits, or is turned away (R37, R38, R227, R229). -/
def ethCommit (d : Dev) (p : Nat) (x : EthRx) : Dev :=
  if x.ecc.failing.isEmpty = false then d.inc .bqPortEccDrop p
  else if !(d.actsAs (uEth p) == stRun) || (d.b unitState_DRAINING (uEth p) && !x.begun) then d.refuse (uEth p)
  else if !d.ethPhyUp p || d.bwHolds p x.stale || d.rxLost p x.stale then d
  else match d.alloc (cellsOf x.bytes.length) with
    | (none, d) => d.inc .bqPortNoCell p
    | (some g, d) => d.commitRx p { bytes := x.bytes, rxTime := addSigned x.time (d.f ethTsCorr_RX_NS p), grp := g }

/-- An Ethernet frame ends on the wire (R261, R262, R271). In SLEEP the device receives nothing (R413). -/
def ethReceive (d : Dev) (p : Nat) (x : EthRx) : Dev :=
  if d.b ethMacCfg_RX_EN p = false ∨ d.f ethIntf_INTF p = 0 ∨ d.sleep.power = .sleep then d
  else
    let d := d.bufEcc x.ecc
    let d := if x.frags = 0 then d else d.ethAdd p gRx 27 x.frags
    match d.ethRxError p x with
    | some k => d.ethInc p gRx k
    | none =>
      let d := if x.frags = 0 then d else d.ethInc p gRx 26
      let d := d.ethRxCount p x.bytes
      let et := beAt x.bytes 12 2
      if et = 0x8808 then d.macControl p x.bytes
      else if et = 0x88B5 ∧ d.f ethIntf_INTF p = 7 then d
      else d.ethCommit p x

end Dev

end Sys2Proof.Machine
end

