-- ==== Sys2Proof/Machine/EthTx.lean ====
section
/-! DEFINITION. Transmission on Ethernet ports: shapers (R269), gate control lists (R272 to R276), selection (R268), preemption
(R270), the end of a frame (R263, R292), low-power idle (R289) and 10BASE-T1S (R290, R291). -/
namespace Sys2Proof.Machine

/-- A gate list as the scan of R276 reads it: base and cycle in ns, and each entry's gates, operation and interval. -/
structure GateList where
  base : Nat
  cycle : Nat
  ents : List (Nat × Nat × Nat)
  deriving DecidableEq, Repr

/-- The entry in force `off` ns into a cycle, and when the next entry or cycle begins; the last entry holds to the cycle's
end, which cuts the list (R272). -/
def gateEntryAt (cycle : Nat) : List (Nat × Nat × Nat) → Nat → Nat → (Nat × Nat) × Nat
  | [], _, _ => ((0xFF, 0), cycle)
  | [e], _, _ => ((e.1, e.2.1), cycle)
  | e :: es, start, off =>
    if off < start + e.2.2 then ((e.1, e.2.1), min cycle (start + e.2.2)) else gateEntryAt cycle es (start + e.2.2) off

/-- The deficit round robin of R268 over the classes that `w` gives a weight, from class `c`: the class that sends, and the
deficits. An eligible class that may not start now is passed over and keeps its deficit. -/
def drrPick (elig may : Nat → Bool) (len w : Nat → Nat) : Nat → Nat → Sparse Nat → Option (Nat × Sparse Nat)
  | 0, _, _ => none
  | n + 1, c, df =>
    let have' := Sparse.get (fun _ => 0) df c
    if may c && decide (len c ≤ have') then some (c, Sparse.set (fun _ => 0) df c (have' - len c))
    else
      let df := if elig c then df else Sparse.set (fun _ => 0) df c 0
      match ((List.range 8).map fun k => (c + 7 - k) % 8).find? fun k => w k != 0 && (may k || !elig k) with
      | none => none
      | some nx => drrPick elig may len w n nx (Sparse.set (fun _ => 0) df nx (Sparse.get (fun _ => 0) df nx + w nx * 256))

namespace Dev

/-- The time in ns that `n` octets of line take (R268). -/
def lineNs (d : Dev) (p n : Nat) : Nat := if d.rate p = 0 then 0 else cdiv (n * 8 * 1000000) (d.rate p)

/-! ### Gates -/

/-- The domain of a port's gates, and its time now. -/
def gateNow (d : Dev) (p : Nat) : Nat := d.domNow (d.f ethGateCfg_GATE_TD p)

/-- The operational and the administrative list. -/
def operList (d : Dev) (p : Nat) : GateList where
  base := d.rdTime .ethGateOperBase (3 * p)
  cycle := d.f ethGateOperCycle_CYCLE_NS p
  ents := (List.range (d.f ethGateOperLen_LEN p)).map fun i =>
    (d.f ethGateOperListOp_GATES (256 * p + i), d.f ethGateOperListOp_OP (256 * p + i), d.f ethGateOperListInterval_INTERVAL_NS (256 * p + i))

def adminList (d : Dev) (p : Nat) : GateList where
  base := d.rdTime .ethGateChange (3 * p)
  cycle := d.f ethGateAdminCycle_CYCLE_NS p
  ents := (List.range (d.f ethGateCfg_ADMIN_LEN p)).map fun i =>
    (d.f ethGateAdminListOp_GATES (256 * p + i), d.f ethGateAdminListOp_OP (256 * p + i), d.f ethGateAdminListInterval_INTERVAL_NS (256 * p + i))

/-- Whether the operational cycle that would start at `start` does not: it would be the last to start before the change time, by
less than the cycle extension, and the change was asked for before that start (R274). -/
def cycleOmitted (d : Dev) (p start : Nat) : Bool :=
  let l := d.operList p
  let ch := d.rdTime .ethGateChange (3 * p)
  d.b ethGateCfg_PENDING p && decide (l.base < start ∧ start < ch ∧ ch ≤ start + l.cycle
    ∧ ch - start < d.f ethGateOperExt_EXT_NS p ∧ (d.eth p).reqAt < start)

/-- The gates and operation in force at domain time `t`, and the next instant at which they may change (R272, R274, R275). -/
def gateState (d : Dev) (p : Nat) (restart : Option Nat) (t : Nat) : (Nat × Nat) × Nat :=
  let pend := d.b ethGateCfg_PENDING p
  let ch := d.rdTime .ethGateChange (3 * p)
  let far := t + 2 ^ 40
  let inList (l : GateList) (stop : Nat) : (Nat × Nat) × Nat :=
    if l.cycle = 0 then ((0xFF, 0), stop)
    else
      let k := (t - l.base) / l.cycle
      let off := (t - l.base) % l.cycle
      let (s, e) := gateEntryAt l.cycle l.ents 0 off
      (s, min stop (l.base + k * l.cycle + e))
  if pend ∧ ch ≤ t then inList (d.adminList p) far
  else
    let stop := if pend then ch else far
    let idle := (d.f ethGateCfg_RESTART_GATES p, 0)
    let l := d.operList p
    let start := t - (t - l.base) % max 1 l.cycle
    let before := match restart with
      | some s => decide (t < s) || (d.cycleOmitted p start && decide (start ≤ s))
      | none => !(d.eth p).running
    if before then (idle, if d.cycleOmitted p start then ch else match restart with | some s => min s stop | none => stop)
    else if d.cycleOmitted p start then ((gateEntryAt l.cycle l.ents 0 (l.cycle - 1)).1, ch)
    else inList l stop

/-- The next instant at which gate `c` closes or the port holds, as a delay from now; `none` when no such instant lies
within the list (R276). -/
def closeScan (d : Dev) (p c now : Nat) (restart : Option Nat) : Nat → Nat → Option Nat
  | 0, _ => none
  | n + 1, t =>
    let (_, nx) := d.gateState p restart t
    if nx ≤ t then none
    else
      let ((g, op), _) := d.gateState p restart nx
      if bitAt c g = false ∨ (op = 1 ∧ d.b ethPreempt_ACTIVE p) then some (nx - now) else closeScan d p c now restart n nx

/-- How long gate `c` stays open from now on (R276): 600 instants cover two cycles of the longest list; where it stays open
through them, the next that may close it is a pending change. -/
def gateLeft' (d : Dev) (p c : Nat) : Option Nat :=
  if d.b ethGateCfg_GATE_EN p = false then none
  else
    let now := d.gateNow p
    let l := d.operList p
    let restart := if d.b ethGateStatus_RESTARTING p ∧ (d.eth p).running then
      some (if now < l.base then l.base else l.base + ((now - l.base) / max 1 l.cycle + 1) * max 1 l.cycle) else none
    match d.closeScan p c now restart 600 now with
    | some t => some t
    | none =>
      let ch := d.rdTime .ethGateChange (3 * p)
      if d.b ethGateCfg_PENDING p && decide (now < ch) then
        let ((g, op), _) := d.gateState p restart ch
        if bitAt c g = false ∨ (op = 1 ∧ d.b ethPreempt_ACTIVE p) then some (ch - now) else d.closeScan p c now restart 600 ch
      else none

/-- Whether the cycle that would be in progress does not run, since a pending change follows its start by less than the cycle
extension: the cycle before it holds on (R274). -/
def gateExtended (d : Dev) (p : Nat) : Bool :=
  let l := d.operList p
  let now := d.gateNow p
  d.cycleOmitted p (now - (now - l.base) % max 1 l.cycle) && decide (now < d.rdTime .ethGateChange (3 * p))

/-- Operational entry `i` starts (R272, R275). Entry 0 is a cycle start and ends a restart. -/
def gateEntry (d : Dev) (p i : Nat) : Dev :=
  if (d.eth p).running = false ∨ d.f ethGateOperLen_LEN p ≤ i ∨ (d.b ethGateStatus_RESTARTING p ∧ i ≠ 0) ∨ d.gateExtended p then d
  else
    let d := d.creditUpdate p
    let d := (d.sf ethGateStatus_RESTARTING p 0).sf ethGateStatus_ENTRY p i
    let op := d.f ethGateOperListOp_OP (256 * p + i)
    let act := d.b ethPreempt_ACTIVE p && d.b ethGateCfg_GATE_EN p
    let d := if act && op == 1 then ((d.setEth p { d.eth p with hold := true }).ethInc p gTx 17).emit (.ethCtl p ctlHold 1)
      else if act && op == 2 then (d.setEth p { d.eth p with hold := false }).emit (.ethCtl p ctlHold 0) else d
    d.gateShow p

/-- The change time of R273. -/
def changeTime (base cycle now : Nat) : Nat :=
  if now + 50000 ≤ base then base else base + cdiv (now + 50000 - base) cycle * cycle

/-- A write of CONFIG_CHANGE = 1 (R273). -/
def configChange (d : Dev) (p : Nat) : Dev :=
  if d.b ethGateCfg_PENDING p then d.rejWr (uEth p)
  else
    let n := d.f ethGateCfg_ADMIN_LEN p
    let cyc := d.f ethGateAdminCycle_CYCLE_NS p
    let bad := n = 0 ∨ cyc < 1000
      ∨ ((List.range n).any fun i => d.f ethGateAdminListInterval_INTERVAL_NS (256 * p + i) = 0) = true
    if bad then d.ethInc p gMisc 11
    else
      let t := changeTime (d.rdTime .ethGateAdminBase (3 * p)) cyc (d.gateNow p)
      ((d.setEth p { d.eth p with reqAt := d.gateNow p }).wrTime .ethGateChange (3 * p) t).sf ethGateCfg_PENDING p 1

def gateCancel (d : Dev) (p : Nat) : Dev := d.sf ethGateCfg_PENDING p 0

/-- The administrative values become operational (R274). -/
def gateApply (d : Dev) (p : Nat) : Dev :=
  if d.b ethGateCfg_PENDING p then
    let n := d.f ethGateCfg_ADMIN_LEN p
    let d := (List.range 256).foldl (fun d i =>
      let k := 256 * p + i
      if i < n then
        (d.wr .ethGateOperListOp k (d.rd .ethGateAdminListOp k)).wr .ethGateOperListInterval k (d.rd .ethGateAdminListInterval k)
      else d) d
    let d := d.wrTime .ethGateOperBase (3 * p) (d.rdTime .ethGateChange (3 * p))
    let d := d.sf ethGateOperCycle_CYCLE_NS p (d.f ethGateAdminCycle_CYCLE_NS p)
    let d := d.sf ethGateOperExt_EXT_NS p (d.f ethGateAdminExt_EXT_NS p)
    let d := (d.sf ethGateOperLen_LEN p n).sf ethGateCfg_PENDING p 0
    let d := (d.setEth p { d.eth p with running := true }).ethInc p gMisc 10
    d.gateEntry p 0
  else d

/-! ### Selection -/

/-- Whether the head frame of class `c` ends in time (R276). -/
def endsInTime (d : Dev) (p c : Nat) (x : QFrame) : Bool :=
  match d.gateLeft' p c with
  | none => true
  | some left =>
    let w := wireLen x.f.bytes.length
    let n := if d.preemptable p c x then min w (d.fragMin p) else w
    decide (d.lineNs p (n + 20) ≤ left)

/-- Whether class `c` is eligible (R268, R276): while the port holds, no preemptable frame is. -/
def elig (d : Dev) (p c : Nat) : Bool :=
  match d.queue (qNo p c) with
  | [] => false
  | h :: _ =>
    let pre := d.preemptable p c h
    !bitAt c (d.f ethPauseState_PAUSED p) && bitAt c (d.f ethGateStatus_GATES p) && d.endsInTime p c h
      && (!d.b ethCbs_EN (8 * p + c) || decide (0 ≤ Sparse.get (fun _ => (0 : Int)) (d.eth p).credit c))
      && !(pre && (d.eth p).hold)

/-- Whether the head frame of class `c` may start now: where only an express frame is asked for, or a preempted frame waits to
resume, no preemptable one may (R270). -/
def mayStart (d : Dev) (p : Nat) (express : Bool) (c : Nat) : Bool :=
  d.elig p c && !((express || (d.eth p).cut.isSome) && ((d.queue (qNo p c)).head?.any fun h => d.preemptable p c h))

/-- The class that sends next, with the deficits of the group after the choice (R268). -/
def choose (d : Dev) (p : Nat) (express : Bool) : Option (Nat × Option (Sparse Nat)) :=
  let wrr (c : Nat) : Bool := d.b ethSched_WRR (8 * p + c)
  let top := [7, 6, 5, 4, 3, 2, 1, 0].find? wrr
  let x := d.eth p
  [7, 6, 5, 4, 3, 2, 1, 0].findSome? fun c =>
    if !wrr c then (if d.mayStart p express c then some (c, none) else none)
    else if top = some c ∧ ((List.range 8).any fun k => wrr k && d.mayStart p express k) = true then
      let len (k : Nat) : Nat := match d.queue (qNo p k) with | h :: _ => wireLen h.f.bytes.length | [] => 0
      let w (k : Nat) : Nat := if wrr k then d.f ethSched_WEIGHT (8 * p + k) else 0
      let start : Nat × Sparse Nat := match x.drr with
        | some k => (k, x.deficit)
        | none => (c, Sparse.set (fun _ => 0) x.deficit c (Sparse.get (fun _ => 0) x.deficit c + w c * 256))
      (drrPick (fun k => wrr k && d.elig p k) (fun k => wrr k && d.mayStart p express k) len w 400 start.1 start.2).map fun r => (r.1, some r.2)
    else none

/-- Whether a port may start a frame at all: its unit in RUN and not draining, its interface not Off, TX_EN, its link up and not in
HOLD, its segment's transceivers awake, no rate step under way (R233, R238, R257, R263, R285, R420). -/
def ethMaySend (d : Dev) (p : Nat) : Bool :=
  d.admits (uEth p) && d.f ethIntf_INTF p != 0 && d.b ethMacCfg_TX_EN p && d.b ethLinkStatus_LINK p && d.f bqPortCfg_STATE p == 0
    && !d.portAsleep p && !d.b ethLinkStatus_STEPPING p && d.ethPhyUp p && !(d.eth p).lpiWait

/-- Whether a 10BASE-T1S port may take the medium (R290): a CSMA/CD port while nobody sends, a PLCA node in its own transmit
opportunity, and there up to MAX_BC further frames, each within BURST_TIMER bit times of the one before.
(DESIGN CHOICE: assumption 31) -/
def mediumOpen (d : Dev) (p : Nat) (m : Medium) : Bool :=
  let x := d.eth p
  if p < 12 then true
  else if d.f ethPlcaCfg_NODE_ID p = 255 then m != .busy
  else match m with
    | .own => true
    | .busy => false
    | .other => x.burst != 0 && decide (x.burst ≤ d.f ethPlcaTmr_MAX_BC p)
        && decide (d.ns ≤ x.burstEnd + 100 * d.f ethPlcaTmr_BURST_TIMER p)

/-- A 10BASE-T1S port with a frame to send finds its medium taken: the frame counts once in EthTxDeferred (R264).
(DEDUCED: assumption 31) -/
def mediumWait (d : Dev) (p : Nat) (m : Medium) : Dev :=
  let x := d.eth p
  if m = .busy ∧ x.deferred = false ∧ x.wire.isNone = true then (d.setEth p { x with deferred := true }).ethInc p gTx 21 else d

/-- The bytes of a frame on the wire, padded to 60 (R263). -/
def padded (b : List Byte) : List Byte := b ++ List.replicate (60 - b.length) 0

/-- The egress timestamp of a frame that starts now (R292). -/
def egressTime (d : Dev) (p : Nat) : Nat := addSigned d.ns (d.f ethTsCorr_TX_NS p)

/-- The head of the timestamp FIFO in the port's registers (R292). -/
def tsShow (d : Dev) (p : Nat) : Dev :=
  let l := (d.eth p).ts
  let e := l.headD ⟨0, 0, 0, 0⟩
  let d := (d.sf ethTxTsStat_COUNT p l.length).sf ethTxTsSeq_SEQ p e.seq
  let d := (d.sf ethTxTsInfo_PORT p e.port).sf ethTxTsInfo_CLASS p e.cls
  (d.sf ethTxTsLo_TIME p e.time).sf ethTxTsHi_TIME p (e.time / 2 ^ 32)

/-- Recording an egress timestamp (R292, R255). -/
def tsRecord (d : Dev) (p c : Nat) (x : QFrame) : Dev :=
  let t := d.egressTime p
  match x.ts with
  | some (i, cur) => d.txFinish i cur t 0
  | none =>
    if clsTs x.f.cls ∧ x.direct = false ∧ x.mirror = false then
      if 16 ≤ (d.eth p).ts.length then d.ethInc p gMisc 9
      else (d.setEth p { d.eth p with ts := (d.eth p).ts ++ [⟨x.f.seq, x.f.port, c, t⟩] }).tsShow p
    else d

/-- The head frame of a queue is taken: its charge ends, its residence is sampled (R235, R470). -/
def takeHead (d : Dev) (q : Nat) : Option QFrame × Dev :=
  match d.queue q with
  | [] => (none, d)
  | x :: rest =>
    let d := ((d.setQueue q rest).unqueue q x).inc .bqQDeq q
    (some x, d.monFeed 1 (fun s => s % 128 == q / 8 && bits 10 8 s == q % 8) (d.ns - x.enq))

/-- Starting the head frame of class `c` (R229, R234, R240, R268, R292). A cell that fails before the first octet drops it. -/
def ethStart (d : Dev) (p c : Nat) (ecc : Ecc) : Dev :=
  match d.takeHead (qNo p c) with
  | (none, d) => d
  | (some x, d) =>
    let d := d.bufEcc ecc
    if ecc.failing.isEmpty = false then ((d.inc .bqPortEccDrop p).release x.f.grp).tsMemory x
    else
      let x := if x.ce then { x with f := { x.f with bytes := ecnMark x.f.bytes } } else x
      let d := if x.ce then d.inc .bqQMarked (qNo p c) else d
      let d := d.tsRecord p c x
      let x := { x with ts := none }
      let st := d.eth p
      let d := d.setEth p { st with wire := some (x, c), sent := 0, bad := false, coll := 0, start := d.ns, deferred := false,
                                    burst := st.burst + 1 }
      if x.mirror then d else d.mirrorPort 2 p { x.f with bytes := padded x.f.bytes }

/-- A head frame whose residence exceeds its limit is dropped when the port would take it (R235); the port then takes the next
eligible frame. The first argument bounds the frames dropped. -/
def ethPick (d : Dev) (p : Nat) (express : Bool) (ecc : Ecc) : Nat → Dev
  | 0 => d
  | n + 1 =>
    match d.choose p express with
    | none => d
    | some (c, df) =>
      let q := qNo p c
      match d.queue q with
      | [] => d
      | h :: rest =>
        if d.residenceOver q h then ethPick ((d.setQueue q rest).removeFrame q .bqQResDrop h) p express ecc n
        else
          let d := match df with
            | some l => d.setEth p { d.eth p with deficit := l, drr := some c }
            | none => d
          d.ethStart p c ecc

/-- The most frames a port's queues hold, to bound a pick. -/
def queued (d : Dev) (p : Nat) : Nat := ((List.range 8).map fun c => (d.queue (qNo p c)).length).sum

/-! ### Step frames (R284) -/

/-- Whether a port finishes its frames in progress before it sends its DONE (R285 step 4). -/
def stepUnsent (x : EthPort) : Bool :=
  match x.step with
  | .agreed _ _ _ sent _ _ => !sent
  | _ => false

/-- Whether a port has stopped transmitting for a step: from its DONE until the lane is trained (R285 steps 4 to 6). -/
def stepStopped (x : EthPort) : Bool :=
  match x.step with
  | .agreed _ _ _ sent _ _ => sent
  | .training _ _ | .falling _ => true
  | _ => false

/-- The transmission counters of a frame (R263). -/
def ethTxCount (d : Dev) (p : Nat) (b : List Byte) : Dev :=
  let w := wireLen b.length
  let d := ((d.ethInc p gTx 1).ethAdd p gTx 0 w).ethInc p gTx (6 + ethBin w)
  let d := d.ethInc p gTx (2 + castOf b)
  if beAt b 12 2 = 0x8808 then d.ethInc p gTx 5 else d

/-- The bytes of a step frame without its FCS (R284). -/
def stepBytes (d : Dev) (p typ txn rate reason : Nat) : List Byte :=
  let own := (d.rd .ethMacAddr (p * 2 + 1)).toNat * 2 ^ 32 + (d.rd .ethMacAddr (p * 2)).toNat
  beBytes 6 0x0180C200000E ++ beBytes 6 own ++ [0x88, 0xB5, 1, 1, byteOf typ, byteOf txn, byteOf rate,
    byteOf (d.f ethStepCfg_CEIL p), byteOf (d.f ethStepCfg_FLOOR p), byteOf reason] ++ List.replicate 38 0

/-- A step frame on the wire: counted as any transmitted frame (R263). -/
def stepEmit (d : Dev) (p : Nat) (b : List Byte) : Dev :=
  ((d.setEth p { d.eth p with octets := (d.eth p).octets + wireLen b.length + 20 }).ethTxCount p b).emit (.eth p b false)

/-- The step frames that wait go out once no frame is on the wire, ahead of the queues (R284); a port that transmits nothing
(R263) or has no link sends none of them. (DEDUCED: assumption 31) -/
def stepFlush (d : Dev) (p : Nat) : Dev :=
  if (d.eth p).wire.isSome || (d.eth p).ctl.isEmpty then d
  else
    let l := (d.eth p).ctl
    let d := d.setEth p { d.eth p with ctl := [] }
    if d.b ethMacCfg_TX_EN p && d.b ethLinkStatus_LINK p then l.foldl (fun d b => d.stepEmit p b) d else d

/-- Sending a step frame (R284): between frames, so after the one on the wire. A port that has sent its DONE transmits nothing
until its lane is trained (R285). -/
def stepSend (d : Dev) (p typ txn rate reason : Nat) : Dev :=
  if d.b ethMacCfg_TX_EN p && d.b ethLinkStatus_LINK p && !stepStopped (d.eth p) then
    (d.setEth p { d.eth p with ctl := (d.eth p).ctl ++ [d.stepBytes p typ txn rate reason] }).stepFlush p
  else d

/-- The classes that have no eligible frame at a frame boundary hold a deficit of 0 (R268). -/
def deficitsClear (d : Dev) (p : Nat) : Dev :=
  (List.range 8).foldl (fun d c => if d.elig p c then d else d.deficitClear p c) d

/-- At a frame boundary the port selects and starts its next frame; a preempted frame resumes when no express frame is eligible;
while a preemptable frame is on the wire, an eligible express frame preempts it where R270 allows it, and so does its gate once
closed (R276). Step frames that wait go first (R284). In LPI, an eligible frame ends it (R289). A 10BASE-T1S port starts a frame
only where its medium lets it (R290). -/
def ethSelect (d : Dev) (p : Nat) (m : Medium) (ecc : Ecc) : Dev :=
  let d := d.creditUpdate p
  let x := d.eth p
  match x.wire with
  | some _ =>
    let d' := if d.ethMaySend p && (d.choose p true).isSome then d.preemptWire p else d.gateCut p
    let d' := d'.stepFlush p
    if (d'.eth p).wire.isNone && d'.ethMaySend p then d'.ethPick p true ecc (d'.queued p + 1) else d'
  | none =>
    let d := (d.stepFlush p).deficitsClear p
    if !d.mediumOpen p m then (if d.ethMaySend p && (d.choose p false).isSome then d.mediumWait p m else d)
    else
    let d := if m = .own then d.setEth p { d.eth p with burst := 0 } else d
    let x := d.eth p
    if d.ethMaySend p && (d.choose p true).isSome && x.cut.isSome then d.ethPick p true ecc (d.queued p + 1)
    else match x.cut with
      | some (w, c, n) =>
        if (d.ethMaySend p || ((d.b unitState_DRAINING (uEth p) || stepUnsent x) && d.b ethLinkStatus_LINK p
            && d.b ethMacCfg_TX_EN p && d.f ethIntf_INTF p != 0)) && !x.hold
            && bitAt c (d.f ethGateStatus_GATES p) then
          d.setEth p { x with wire := some (w, c), cut := none, sent := n, start := d.ns }
        else d
      | none =>
        if !d.ethMaySend p then d
        else if d.b ethLinkStatus_LPI_TX p then
          if (d.choose p false).isSome then
            ((d.sf ethLinkStatus_LPI_TX p 0).setEth p { x with lpiWait := true }).emit (.ethCtl p ctlLpi 0)
          else d
        else d.ethPick p false ecc (d.queued p + 1)

/-! ### PLCA (R290) -/

/-- Whether the port sends beacons: a 10BASE-T1S port with node 0. -/
def plcaLeads (d : Dev) (p : Nat) : Bool :=
  decide (12 ≤ p) && d.f ethIntf_INTF p == 6 && d.f ethPlcaCfg_NODE_ID p == 0 && d.b ethMacCfg_TX_EN p && d.actsAs (uEth p) == stRun
    && d.ethPhyUp p

/-- A frame of `n` octets of line time makes the coordinator's cycle so much longer. -/
def plcaExtend (d : Dev) (p n : Nat) : Dev :=
  if d.plcaLeads p then d.setEth p { d.eth p with beaconAt := max (d.eth p).beaconAt d.ns + n * 800 } else d

/-- The coordinator's cycle is over: a beacon of 20 bit times, and an opportunity of TO_TIMER bit times for each of NODE_COUNT nodes
(Clause 148). (PRESUMED: assumption 31) -/
def plcaTick (d : Dev) (p : Nat) : Dev :=
  if d.plcaLeads p && (d.eth p).wire.isNone && decide ((d.eth p).beaconAt ≤ d.ns) then
    let n := d.f ethPlcaCfg_NODE_COUNT p
    (d.setEth p { d.eth p with beaconAt := d.ns + 100 * (20 + n * d.f ethPlcaTmr_TO_TIMER p) }).emit (.ethCtl p ctlBeacon n)
  else d

/-- The frame on the wire ends (R263). An uncorrectable error met after its first octet complements its FCS (R229). -/
def ethEnd (d : Dev) (p : Nat) (ecc : Ecc) : Dev :=
  let x := d.eth p
  match x.wire with
  | none => d
  | some (w, _) =>
    let d := (d.creditUpdate p).bufEcc ecc
    let bad := x.bad || !ecc.failing.isEmpty
    let d := if ecc.failing.isEmpty then d else d.inc .bqPortEccDrop p
    let d := if x.sent = 0 ∨ bad = true then d else d.ethInc p gTx 16
    let n := wireLen w.f.bytes.length - x.sent + 20
    let d := d.setEth p { (d.eth p) with wire := none, bad := false, sent := 0, octets := (d.eth p).octets + n, burstEnd := d.ns }
    let d := ((if bad then d.ethInc p gTx 15 else d.ethTxCount p w.f.bytes).plcaExtend p n).release w.f.grp
    d.emit (.eth p (padded w.f.bytes) bad)

/-- POP of the egress timestamp FIFO (R292). -/
def tsPop (d : Dev) (p : Nat) : Dev := (d.setEth p { d.eth p with ts := (d.eth p).ts.drop 1 }).tsShow p

/-! ### Preemption verification (R270) -/

/-- A write of EthPreempt has taken effect; before it verification was due or not. EN or VERIFY_DIS = 0 that makes verification due
begins it, and preemption waits for its success; with VERIFY_DIS = 1 preemption is active at once. -/
def preemptSet (d : Dev) (p : Nat) (due : Bool) : Dev :=
  if d.b ethPreempt_EN p then
    if d.b ethPreempt_VERIFY_DIS p then (d.sf ethPreempt_ACTIVE p 1).sf ethPreempt_VERIFY_STATUS p 0
    else if due then d else d.verifyRestart p
  else ((d.setEth p { d.eth p with hold := false }).sf ethPreempt_ACTIVE p 0).sf ethPreempt_VERIFY_STATUS p 0

/-- VERIFY_MS elapses: the next verify mPacket, at most three, or the end of verification. -/
def verifyTimer (d : Dev) (p : Nat) : Dev :=
  let st := d.f ethPreempt_VERIFY_STATUS p
  if d.b ethPreempt_EN p = false ∨ d.b ethPreempt_VERIFY_DIS p ∨ (st ≠ 1 ∧ st ≠ 2) ∨ d.b ethLinkStatus_LINK p = false
      ∨ d.b ethMacCfg_TX_EN p = false then d
  else if (d.eth p).verify < 3 then
    let d := d.setEth p { d.eth p with verify := (d.eth p).verify + 1 }
    (d.sf ethPreempt_VERIFY_STATUS p 2).emit (.ethCtl p ctlVerify ((d.eth p).verify))
  else d.sf ethPreempt_VERIFY_STATUS p 4

/-- A verify response arrives while verification runs. -/
def verifyResponse (d : Dev) (p : Nat) : Dev :=
  if d.b ethPreempt_EN p ∧ d.f ethPreempt_VERIFY_STATUS p = 2 then
    (d.sf ethPreempt_VERIFY_STATUS p 3).sf ethPreempt_ACTIVE p 1
  else d

/-- The partner's verify mPacket arrives: a port that takes part in preemption answers it (802.3br Clause 99).
(PRESUMED: assumption 31) -/
def verifyRequest (d : Dev) (p : Nat) : Dev :=
  if d.b ethPreempt_EN p && d.b ethMacCfg_TX_EN p && d.b ethLinkStatus_LINK p then d.emit (.ethCtl p ctlRespond 0) else d

/-! ### Low-power idle (R289) -/

/-- Every queue has been empty for IDLE_US. -/
def lpiIdle (d : Dev) (p : Nat) : Dev :=
  if d.b ethLpiCfg_LPI_EN p ∧ 2 ≤ d.f ethIntf_INTF p ∧ d.f ethIntf_INTF p ≤ 5 ∧ d.b ethLinkStatus_LPI_TX p = false
      ∧ d.queued p = 0 ∧ (d.eth p).wire.isNone ∧ (d.eth p).cut.isNone then
    ((d.sf ethLinkStatus_LPI_TX p 1).ethInc p gMisc 5).emit (.ethCtl p ctlLpi 1)
  else d

/-- A write that takes away LPI_EN or the interfaces LPI is available with ends an LPI the port signals; the first octet after it
waits TW_SYS_TX as after any other. (DEDUCED: assumption 31) -/
def lpiSettle (d : Dev) (p : Nat) : Dev :=
  if d.b ethLinkStatus_LPI_TX p
      && !(d.b ethLpiCfg_LPI_EN p && decide (2 ≤ d.f ethIntf_INTF p ∧ d.f ethIntf_INTF p ≤ 5)) then
    ((d.sf ethLinkStatus_LPI_TX p 0).setEth p { d.eth p with lpiWait := true }).emit (.ethCtl p ctlLpi 0)
  else d

/-- TW_SYS_TX after LPI ended, the first octet may leave; `us` is how long LPI had lasted. -/
def lpiWakeDone (d : Dev) (p us : Nat) : Dev :=
  if (d.eth p).lpiWait then (d.setEth p { d.eth p with lpiWait := false }).ethAdd p gMisc 7 us else d

/-- The partner enters or leaves low-power idle (R264); `us` is how long it had lasted. -/
def lpiRx (d : Dev) (p : Nat) (on : Bool) (us : Nat) : Dev :=
  if on = d.b ethLinkStatus_LPI_RX p then d
  else if on then (d.sf ethLinkStatus_LPI_RX p 1).ethInc p gMisc 6
  else (d.sf ethLinkStatus_LPI_RX p 0).ethAdd p gMisc 8 us

/-! ### 10BASE-T1S (R290) -/

/-- A collision on a CSMA/CD port: a late one, or the 16th, drops the frame, after which a flush that waited for it takes place
(R239); otherwise it backs off. -/
def t1sCollision (d : Dev) (p : Nat) (late : Bool) : Dev :=
  match (d.eth p).wire with
  | none => d
  | some (w, _) =>
    if d.f ethPlcaCfg_NODE_ID p ≠ 255 then d
    else
      let d := d.creditUpdate p
      let x := d.eth p
      let n := x.coll + 1
      let gone (d : Dev) (k : Nat) : Dev :=
        (((d.setEth p { x with wire := none, coll := 0 }).ethInc p gTx k).release w.f.grp).flushDue p
      if late then gone d 19
      else
        let d := d.ethInc p gTx 18
        if 16 ≤ n then gone d 20
        else (d.setEth p { x with coll := n, start := d.ns }).emit (.ethCtl p ctlBackoff (min n 10))

end Dev

end Sys2Proof.Machine
end

