-- ==== Sys2Proof/Machine/EthStep.lean ====
section
/-! DEFINITION. Rate stepping on XSTEP ports (R282 to R288), and the link conditions of every port (R259, R291). -/
namespace Sys2Proof.Machine

/-- Step frame types and the values of EthStepStatus.LAST (R284). -/
def stpCaps : Nat := 1
def stpReq : Nat := 2
def stpAck : Nat := 3
def stpNak : Nat := 4
def stpDone : Nat := 5

/-- The leave a rate step asks for, in mW (R285). -/
def stepMw : Nat := 180

namespace Dev

def setStep (d : Dev) (p : Nat) (x : StepPhase) : Dev := d.setEth p { d.eth p with step := x }

/-- Whether the port runs stepping at all, and whether with a partner (R282). -/
def stepOn (d : Dev) (p : Nat) : Bool := d.f ethIntf_INTF p == 7 && d.b ethStepCfg_STEP_EN p
def stepActive (d : Dev) (p : Nat) : Bool := d.stepOn p && d.b ethLinkStatus_PEER_OK p && d.b ethLinkStatus_LINK p

/-- The sum of the idle slopes of enabled shapers, in kb/s (R269). -/
def shaperSum (d : Dev) (p : Nat) : Nat :=
  ((List.range 8).map fun c => if d.b ethCbs_EN (8 * p + c) then d.f ethCbs_IDLE_KBPS (8 * p + c) else 0).sum

/-- Whether a lower target is allowed: at least FLOOR and the shaper sum (R283, R286). -/
def stepDownOk (d : Dev) (p t : Nat) : Bool :=
  decide (d.f ethStepCfg_FLOOR p ≤ t) && decide (d.shaperSum p ≤ speedKbps (rateSpeed t))

/-- The down condition of R283: utilisation below DOWN_PCT through DOWN_MS windows. -/
def stepIdle (d : Dev) (p : Nat) : Bool := decide (d.f ethStepCfg_DOWN_MS p ≤ (d.eth p).low)

/-- Ending a step or request: the leave is released, BUSY and STEPPING clear, LAST says how it ended. -/
def stepEnd (d : Dev) (p last : Nat) : Dev :=
  let d := (d.paWithdraw 0 (.rateStep p)).paRelease 0 (.rateStep p)
  let d := (d.sf ethLinkStatus_STEPPING p 0).sf ethStepStatus_BUSY p 0
  (d.sf ethStepStatus_LAST p last).setStep p .none

/-- Step 1 of R285: leave for a step to `t`; denied at once, no REQ is sent. -/
def stepRequest (d : Dev) (p t : Nat) : Dev :=
  match d.paRequest 0 (.rateStep p) stepMw with
  | (none, d) => d.sf ethStepStatus_LAST p 4
  | (some _, d) => d.setStep p (.wantLeave t)

/-- The step R283 asks for now. A CEIL below the current rate steps down at once. -/
def stepWish (d : Dev) (p : Nat) : Option Nat :=
  let r := d.f ethStepStatus_RATE p
  let up := min (d.f ethStepCfg_CEIL p) (d.eth p).peerCeil
  let full := (List.range 8).any fun c => decide (d.f ethStepUp_UP_CELLS p ≤ (d.ctr .bqQCells (qNo p c)).toNat)
  if d.f ethStepCfg_CEIL p < r then some (d.f ethStepCfg_CEIL p)
  else if full ∧ r < up then some up
  else if d.stepIdle p ∧ 0 < r ∧ d.stepDownOk p (r - 1) then some (r - 1)
  else none

/-- Evaluating R283 while no step is under way. -/
def stepEvaluate (d : Dev) (p : Nat) : Dev :=
  if d.stepActive p then
    match (d.eth p).step, d.stepWish p with
    | .none, some t => d.stepRequest p t
    | _, _ => d
  else d

/-- The end of a 1 ms window (R283): 1 ms at n kb/s is n bit times. (DEDUCED: assumption 31) -/
def stepWindow (d : Dev) (p : Nat) : Dev :=
  let x := d.eth p
  let low := decide (x.octets * 800 < d.f ethStepCfg_DOWN_PCT p * d.rate p)
  (d.setEth p { x with octets := 0, low := if low then x.low + 1 else 0 }).stepEvaluate p

/-- Sending DONE once no frame is in progress and the port transmits (R263), and retraining once DONE is sent and received (R285
steps 4 and 5). -/
def stepAdvance (d : Dev) (p : Nat) : Dev :=
  match (d.eth p).step with
  | .agreed txn back t sent received ini =>
    let may := (d.eth p).wire.isNone && (d.eth p).cut.isNone && d.b ethMacCfg_TX_EN p && d.b ethLinkStatus_LINK p
    let d := if !sent && may then (d.stepSend p stpDone back t 0).setStep p (.agreed txn back t true received ini) else d
    if (sent || may) && received then
      (d.setStep p (.training t (d.f ethStepStatus_RATE p))).emit (.ethCtl p ctlTrain t)
    else d
  | _ => d

/-- Both ends agree on a step: transmission stops after the frame in progress. -/
def stepAgree (d : Dev) (p txn back t : Nat) (ini : Bool) : Dev :=
  (((d.sf ethLinkStatus_STEPPING p 1).sf ethStepStatus_BUSY p 1).setStep p (.agreed txn back t false false ini)).stepAdvance p

/-- Leave is granted for a rate step (R285 steps 2 and 3). -/
def stepGranted (d : Dev) (p : Nat) : Dev :=
  match (d.eth p).step with
  | .wantLeave t =>
    let n := ((d.eth p).txn + 1) % 256
    let d := d.setEth p { d.eth p with txn := n, step := .reqSent n t }
    (d.sf ethStepStatus_BUSY p 1).stepSend p stpReq n t 0
  | .partnerLeave txn t => (d.stepSend p stpAck txn t 0).stepAgree p txn txn t false
  | _ => d.paRelease 0 (.rateStep p)

/-- Leave is denied for a rate step after it waited. -/
def stepDenied (d : Dev) (p : Nat) : Dev :=
  match (d.eth p).step with
  | .wantLeave _ => (d.sf ethStepStatus_LAST p 4).setStep p .none
  | .partnerLeave txn t => (d.stepSend p stpNak txn t 3).setStep p .none
  | _ => d

/-- Why the partner refuses a target: 2 POLICY, 4 RANGE; `none` where it accepts (R286). -/
def stepRefusal (d : Dev) (p t : Nat) : Option Nat :=
  let r := d.f ethStepStatus_RATE p
  if !d.stepOn p then some 2
  else if t < r then (if !d.stepDownOk p t then some 4 else if d.stepIdle p then none else some 2)
  else if r < t then (if t ≤ d.f ethStepCfg_CEIL p then none else some 4)
  else some 2

/-- A REQ arrives (R286). (DEDUCED: assumption 31) -/
def stepReq (d : Dev) (p txn t : Nat) : Dev :=
  match (d.eth p).step with
  | .reqSent own t' =>
    if t = t' then d.stepAgree p own txn t true
    else if t' < t then (d.stepSend p stpAck txn t 0).stepAgree p txn txn t false
    else d
  | .none =>
    match d.stepRefusal p t with
    | some why => d.stepSend p stpNak txn t why
    | none =>
      match d.paRequest 0 (.rateStep p) stepMw with
      | (none, d) => d.stepSend p stpNak txn t 3
      | (some _, d) => d.setStep p (.partnerLeave txn t)
  | .wantLeave _ =>
    match d.stepRefusal p t with
    | some why => d.stepSend p stpNak txn t why
    | none => d.setStep p (.partnerLeave txn t)
  | _ => d.stepSend p stpNak txn t 1

/-- An ACK arrives (R285): ignored unless it names the request in progress. (DESIGN CHOICE: assumption 51) -/
def stepAck (d : Dev) (p txn : Nat) : Dev :=
  match (d.eth p).step with
  | .reqSent own t => if own = txn then d.stepAgree p own own t true else d
  | _ => d

/-- A NAK arrives (R286). (DEDUCED: assumption 31) -/
def stepNak (d : Dev) (p txn : Nat) : Dev :=
  match (d.eth p).step with
  | .reqSent own _ => if own = txn then d.stepEnd p 2 else d
  | _ => d

/-- A DONE arrives (R285). -/
def stepDone (d : Dev) (p txn : Nat) : Dev :=
  match (d.eth p).step with
  | .agreed own back t sent _ ini =>
    if own = txn then (d.setStep p (.agreed own back t sent true ini)).stepAdvance p else d
  | _ => d

/-- A CAPS arrives (R282). -/
def stepCaps (d : Dev) (p ceil : Nat) : Dev :=
  (d.setEth p { d.eth p with peerCeil := ceil }).sf ethLinkStatus_PEER_OK p 1

/-- A step frame arrives: the MAC consumes it (R262) and acts on its type (R284). -/
def stepFrame (d : Dev) (p : Nat) (b : List Byte) : Dev :=
  let at' (o : Nat) : Nat := beAt b o 1
  if at' 14 = 1 ∧ at' 15 = 1 then
    match at' 16 with
    | 1 => d.stepCaps p (at' 19 % 4)
    | 2 => d.stepReq p (at' 17) (at' 18 % 4)
    | 3 => d.stepAck p (at' 17)
    | 4 => d.stepNak p (at' 17)
    | 5 => d.stepDone p (at' 17)
    | _ => d
  else d

/-- A step frame of 60 B from the partner, as its own row: received, counted and acted on. -/
def stepArrives (d : Dev) (p typ txn rate ceil floor reason : Nat) : Dev :=
  if d.b ethMacCfg_RX_EN p = false ∨ d.f ethIntf_INTF p ≠ 7 then d
  else
    let b := beBytes 6 0x0180C200000E ++ beBytes 6 0 ++ [0x88, 0xB5, 1, 1, byteOf typ, byteOf txn, byteOf rate, byteOf ceil,
      byteOf floor, byteOf reason] ++ List.replicate 38 0
    (d.ethRxCount p b).stepFrame p b

/-- No ACK or NAK within 150 µs: the initiator abandons (R285). -/
def stepAckTimeout (d : Dev) (p : Nat) : Dev :=
  match (d.eth p).step with
  | .reqSent _ _ => d.stepEnd p 3
  | _ => d

/-- No DONE within 150 µs of its ACK: the partner resumes at the current rate (R285). -/
def stepDoneTimeout (d : Dev) (p : Nat) : Dev :=
  match (d.eth p).step with
  | .agreed _ _ _ _ false false => (d.ethInc p gMisc 4).stepEnd p 3
  | _ => d

/-- The lane locks at the target, or again at the previous rate (R285 step 6, R287). -/
def stepLocked (d : Dev) (p : Nat) : Dev :=
  match (d.eth p).step with
  | .training t old =>
    let d := (d.sf ethStepStatus_RATE p t).sf ethLinkStatus_SPEED p (rateSpeed t)
    let d := d.ethInc p gMisc (if old < t then 2 else 3)
    (d.setEth p { d.eth p with low := 0, octets := 0 }).stepEnd p 1
  | .falling _ => d.stepEnd p 5
  | _ => d

/-- At link establishment a stepping port trains at CEIL (R282), a fixed one at the rate of SPEED (R258). -/
def stepEstablish (d : Dev) (p : Nat) : Dev :=
  if d.f ethIntf_INTF p = 7 ∧ d.b ethLinkStatus_LINK p = false then
    let c := if d.b ethStepCfg_STEP_EN p then d.f ethStepCfg_CEIL p else d.f ethIntf_SPEED p - 3
    (d.sf ethStepStatus_RATE p c).emit (.ethCtl p ctlTrain c)
  else d

/-- No lock within 10 ms at link establishment: the next lower rate, from 2.5 Gb/s back to CEIL (R282). -/
def stepTrainTimeout (d : Dev) (p : Nat) : Dev :=
  if d.stepOn p && !d.b ethLinkStatus_LINK p && !d.b ethLinkStatus_LOCK p then
    let r := d.f ethStepStatus_RATE p
    let n := if r = 0 then d.f ethStepCfg_CEIL p else r - 1
    (d.sf ethStepStatus_RATE p n).emit (.ethCtl p ctlTrain n)
  else d

/-- A port reports its link lost (R259, R238); a step under way ends with it. -/
def ethLost (d : Dev) (p : Nat) : Dev :=
  let d := match (d.eth p).step with
    | .none => d
    | _ => d.stepEnd p 6
  let up := d.b ethLinkStatus_LINK p
  let d := (d.ethLinkDown p).linkLost p
  if up then d.stepEstablish p else d

/-- Whether the loss condition counts: loss of lock during a rate step does not (R259), and a port whose segment sleeps reports none
(R420). -/
def lossCounts (d : Dev) (p : Nat) : Bool :=
  !d.portAsleep p && !(d.b ethLinkStatus_STEPPING p && !d.b ethLinkStatus_LOCAL_FAULT p && !d.b ethLinkStatus_REMOTE_FAULT p)

/-- LOSS_US of a loss condition have passed (R259). (DEDUCED: assumption 31) -/
def linkLossDetected (d : Dev) (p : Nat) : Dev := if d.lossCounts p then d.ethLost p else d

/-- A port that is not Off (R257) reports its link restored (R259, R238), at the rate of R258; a stepping port sends CAPS (R282).
(DEDUCED: assumption 31) -/
def ethUp (d : Dev) (p an : Nat) : Dev :=
  if d.leafState (uEth p) = stOffline ∨ d.f ethIntf_INTF p = 0 then d
  else
  let was := d.b ethLinkStatus_LINK p
  let d := (d.sf ethLinkStatus_LINK p 1).sf ethLinkStatus_SPEED p (d.ethSpeed p an)
  let d := if was then d else d.raise (64 + p) p 1
  let d := d.linkRestored p
  if d.stepOn p then d.stepSend p stpCaps 0 (d.f ethStepStatus_RATE p) 0 else d

/-- A link of any port is restored (R238); a LIN port and the management port have none to lose (R237). -/
def anyRestored (d : Dev) (p an : Nat) : Dev :=
  if p < 20 then d.ethUp p an else if 32 ≤ p ∧ p < 80 then d.linkRestored p else d

/-- The lane does not lock within 30 µs (R287). -/
def stepLockTimeout (d : Dev) (p : Nat) : Dev :=
  match (d.eth p).step with
  | .training _ old =>
    let d := (d.ethInc p gMisc 4).sf ethStepStatus_LAST p 5
    (d.setStep p (.falling old)).emit (.ethCtl p ctlTrain old)
  | .falling _ => d.ethLost p
  | _ => d

/-- The 1 s timer of CAPS (R282). -/
def stepCapsTimer (d : Dev) (p : Nat) : Dev :=
  if d.stepOn p then d.stepSend p stpCaps 0 (d.f ethStepStatus_RATE p) 0 else d

/-- No CAPS for 3 s (R282). -/
def stepPeerTimeout (d : Dev) (p : Nat) : Dev := d.sf ethLinkStatus_PEER_OK p 0

/-- The conditions the PCS reports (R259); with LOSS_US = 0 a loss is reported at once. -/
def pcsChange (d : Dev) (p : Nat) (lock lf rf an : Bool) : Dev :=
  let n (b : Bool) : Nat := if b then 1 else 0
  let d := ((d.sf ethLinkStatus_LOCK p (n lock)).sf ethLinkStatus_LOCAL_FAULT p (n lf)).sf ethLinkStatus_REMOTE_FAULT p (n rf)
  let d := d.setEth p { d.eth p with anDown := !an }
  if d.ethLossNow p && d.b ethLinkStatus_LINK p && d.f ethLinkCfg_LOSS_US p == 0 then d.linkLossDetected p else d

/-- A follower loses its beacons (R291). -/
def plcaLoss (d : Dev) (p : Nat) : Dev :=
  if d.plcaFollower p && d.b ethLinkStatus_PLCA_OK p then
    let d := (d.sf ethLinkStatus_PLCA_OK p 0).ethInc p gMisc 12
    if d.f ethLinkCfg_LOSS_US p = 0 then d.linkLossDetected p else d
  else d

/-- Beacons resume (R291). -/
def plcaReturn (d : Dev) (p : Nat) : Dev := d.sf ethLinkStatus_PLCA_OK p 1

/-- The frame on the wire ends, and a port that waited for it sends its DONE (R285). -/
def ethFrameEnd (d : Dev) (p : Nat) (ecc : Ecc) : Dev :=
  (((d.ethEnd p ecc).stepFlush p).stepAdvance p).flushDue p

/-- An Ethernet frame ends on the wire (R261); a step frame on an XSTEP port is acted on. -/
def ethFrameIn (d : Dev) (p : Nat) (x : EthRx) : Dev :=
  let good := d.b ethMacCfg_RX_EN p && (d.ethRxError p x).isNone && d.f ethIntf_INTF p == 7 && beAt x.bytes 12 2 == 0x88B5
  let d := (d.ethReceive p x).plcaExtend p (x.bytes.length + 24)
  if good then d.stepFrame p x.bytes else d

end Dev

end Sys2Proof.Machine
end

