-- ==== Sys2Proof/Machine/Can.lean ====
section
/-! DEFINITION. CAN channels (R293 to R312) and message objects (R147 to R149, R313 to R317). -/
namespace Sys2Proof.Machine

/-- The states CanErr.STATE shows (R301). -/
def canStopped : Nat := 0
def canIntegrating : Nat := 1
def canActive : Nat := 2
def canPassive : Nat := 3
def canBusOff : Nat := 4
def canRecovering : Nat := 5

def objDefault (_ : Nat) : MsgObj := {}

/-- Valid CAN FD lengths above 8 (R295). -/
def fdLens : List Nat := [12, 16, 20, 24, 32, 48, 64]

/-- The key in which bus arbitration ranks a frame of the internal layout: base identifier, RTR or SRR, IDE, extension (R306). -/
def arbKey (b : List Byte) : Nat :=
  let id := busId b
  let fl := beAt b 1 1
  let one (c : Bool) (n : Nat) : Nat := if c then n else 0
  if bitAt 0 fl && beAt b 0 1 % 8 != 3 then id / 2 ^ 18 % 2 ^ 11 * 2 ^ 21 + 2 ^ 20 + 2 ^ 19 + id % 2 ^ 18 * 2 + one (bitAt 1 fl) 1
  else id % 2 ^ 11 * 2 ^ 21 + one (bitAt 1 fl || (beAt b 0 1 % 8 == 3 && bitAt 6 fl)) (2 ^ 20)

/-- The bytes of a frame in the internal layout (R293). -/
def busFrame (kind flags chan sdt ident vcid af ptime : Nat) (data : List Byte) : List Byte :=
  [byteOf kind, byteOf flags, byteOf chan, byteOf sdt] ++ beBytes 4 (ident % 2 ^ 29) ++ beBytes 2 data.length
    ++ [byteOf vcid, 0] ++ beBytes 4 af ++ beBytes 8 ptime ++ data

namespace Dev

/-- The frame a transmitting channel may send for a packet, padded where R295 says so; `none` for a bad frame. -/
def canCheck (d : Dev) (n : Nat) (b : List Byte) : Option (List Byte) :=
  let kind := beAt b 0 1 % 8
  let fl := beAt b 1 1
  let id := busId b
  let len := beAt b 8 2
  let std := len ≤ 8 || fdLens.contains len
  if kind < 1 ∨ 3 < kind then none
  else if kind = 2 ∧ d.b canCtl_FD_EN n = false then none
  else if kind = 3 ∧ (d.b canCtl_XL_EN n = false ∨ n < 32) then none
  else if bitAt 1 fl ∧ kind ≠ 1 then none
  else if (bitAt 0 fl = false ∨ kind = 3) ∧ 0x7FF < id then none
  else if b.length ≠ 24 + len then none
  else if (kind = 1 ∧ 8 < len) ∨ (kind = 2 ∧ 64 < len) ∨ (kind = 3 ∧ (len = 0 ∨ 2048 < len)) then none
  else if kind = 2 ∧ std = false then
    if d.b canTxCfg_PAD_EN n then
      let full := (fdLens.find? fun x => decide (len ≤ x)).getD 64
      some (splice b 8 (beBytes 2 full) ++ List.replicate (full - len) (byteOf (d.f canTxCfg_PAD n)))
    else none
  else some b

def canState (d : Dev) (n : Nat) : Nat := d.f canErr_STATE n

/-- CanTxStatus after a change of the buffers (R305, R308, R310). -/
def canShow (d : Dev) (n : Nat) : Dev :=
  let bufs := (d.can n).bufs
  let live := bufs.filter fun e => decide (e.1 < 64)
  let res := (List.range 8).filter fun s => d.b canSched_EN (8 * n + s) || live.any fun e => e.1 == 56 + s && e.2.sched
  let d := (d.sf canTxStatus_USED n live.length).sf canTxStatus_RESERVED n res.length
  d.sf canTxStatus_HELD n (live.filter fun e => e.2.wait).length

def setCan (d : Dev) (n : Nat) (x : CanChan) : Dev :=
  { d with bus := { d.bus with can := Sparse.set canDefault d.bus.can n x } }.canShow n

/-- The buffer `b` of a channel, while it is in use. -/
def canBuf (d : Dev) (n b : Nat) : Option CanBuf := ((d.can n).bufs.find? fun e => decide (e.1 = b)).map (·.2)

/-- Putting a frame into buffer `b`. -/
def canPut (d : Dev) (n b : Nat) (x : CanBuf) : Dev :=
  let c := d.can n
  d.setCan n { c with bufs := Sparse.insert b { x with order := c.loads } (Sparse.erase b c.bufs), loads := c.loads + 1 }

/-- Freeing buffer `b` and the cells of its frame, and its place in HELD (R419); an egress time that a ring still waits for is
not to come (R255). (DEDUCED: assumption 32) -/
def canFree (d : Dev) (n b : Nat) : Dev :=
  let c := d.can n
  let x := (d.canBuf n b).getD {}
  let d := d.setCan n { c with bufs := Sparse.erase b c.bufs, cur := if c.cur = some b then none else c.cur }
  let d := match x.ts with | some (i, cur) => d.txFinish i cur 0 3 | none => d
  (if x.held then d.heldCount (32 + n) false else d).release x.f.grp

/-- A state change of the protocol machine, which raises the channel's state event (R301). -/
def canSet (d : Dev) (n st : Nat) : Dev :=
  if d.canState n = st then d else (d.sf canErr_STATE n st).raise (84 + n) (32 + n) 1

/-- Every transmit buffer is discarded and counted (R301). -/
def canDiscard (d : Dev) (n : Nat) : Dev :=
  ((d.can n).bufs.map (·.1)).foldl (fun d b => (d.inc .canTxAbort n).canFree n b) d

/-- The unit enters RUN (R301). -/
def canStart (d : Dev) (n : Nat) : Dev :=
  if d.canState n = canStopped then
    ((d.sf canErr_TEC n 0).sf canErr_REC n 0).canSet n canIntegrating
  else d

/-- The unit enters OFFLINE or FAULTED, or RESTART begins (R301). -/
def canStop (d : Dev) (n : Nat) : Dev :=
  if d.canState n = canStopped then d else ((d.canDiscard n).canSet n canStopped).flushDue (32 + n)

/-- Bus-off (R301): the link is lost, and the frame on the bus with it (R238); every transmit buffer, that frame's too, counts as
discarded. -/
def canGoOff (d : Dev) (n : Nat) : Dev :=
  let all := (d.can n).bufs.length
  let d := (d.linkLost (32 + n)).canShow n
  let d := (d.incBy .canTxAbort n (all - (d.can n).bufs.length)).canDiscard n
  ((d.canSet n canBusOff).inc .canBusOff n).flushDue (32 + n)

/-- The states that the error counters decide (R301). (DEDUCED: assumption 32) -/
def canConfine (d : Dev) (n : Nat) : Dev :=
  let st := d.canState n
  if st ≠ canActive ∧ st ≠ canPassive then d
  else if 255 < d.f canErr_TEC n then d.canGoOff n
  else d.canSet n (if 127 < d.f canErr_TEC n ∨ 127 < d.f canErr_REC n then canPassive else canActive)

/-- Adding to the error counters, whose registers hold nine bits. -/
def canErrAdd (d : Dev) (n tec rec : Nat) : Dev :=
  (d.sf canErr_TEC n (min 511 (d.f canErr_TEC n + tec))).sf canErr_REC n (min 511 (d.f canErr_REC n + rec))

/-- The counter of an error kind as LEC codes it. (DEDUCED: assumption 32) -/
def canErrCtr (k : Nat) : Ctr :=
  match k with
  | 1 => .canErrStuff | 2 => .canErrForm | 3 => .canErrAck | 4 => .canErrBit | _ => .canErrCrc

/-- An error is seen: LEC and its counter; code 0 is no error. -/
def canErrSeen (d : Dev) (n k : Nat) : Dev :=
  if k = 0 ∨ 5 < k then d else (d.sf canErr_LEC n k).inc (canErrCtr k) n

/-- Eleven recessive bits (R301). -/
def canIntegrated (d : Dev) (n : Nat) : Dev :=
  if d.canState n = canIntegrating ∧ d.portAsleep (32 + n) = false then
    ((d.canSet n canActive).linkRestored (32 + n)).canConfine n
  else d

/-- Recovery from BUS_OFF starts (R301), unless the segment sleeps (R420); RECOVER clears at once in any state. -/
def canRecover (d : Dev) (n : Nat) : Dev :=
  let d := d.sf canCtl_RECOVER n 0
  if d.canState n = canBusOff ∧ d.portAsleep (32 + n) = false then d.canSet n canRecovering else d

def canBoDelay (d : Dev) (n : Nat) : Dev := if d.b canCtl_AUTO_RECOV n then d.canRecover n else d

/-- 128 occurrences of eleven recessive bits (R301); recovery stands still while the segment sleeps (R420). -/
def canRecovered (d : Dev) (n : Nat) : Dev :=
  if d.canState n = canRecovering ∧ d.portAsleep (32 + n) = false then
    (((d.sf canErr_TEC n 0).sf canErr_REC n 0).canSet n canActive).linkRestored (32 + n)
  else d

/-- Whether the BW die serves a bus port: C0 to C31 and L0 to L15 need it in RUN with its
image, and BL3 up (R38, R488, chapter head). -/
def bwServes (d : Dev) (p : Nat) : Bool :=
  decide (64 ≤ p ∧ p < 80) || (d.bwRuns && d.actsAs uBw == stRun && d.b bwLinkStatus_UP 3)

/-! ### Message objects -/

def obj (d : Dev) (o : Nat) : MsgObj := Sparse.get objDefault d.bus.obj o
def setObj (d : Dev) (o : Nat) (x : MsgObj) : Dev :=
  { d with bus := { d.bus with obj := Sparse.set objDefault d.bus.obj o x } }

def objChan (x : MsgObj) : Nat := x.cfg % 128
def objOwned (x : MsgObj) : Bool := bitAt 7 x.cfg

/-- The valid object of a key (R313). -/
def objFind (d : Dev) (chan fmt ident : Nat) : Option Nat :=
  (d.bus.obj.find? fun e => e.2.valid && objChan e.2 == chan && e.2.fmt == fmt && e.2.ident == ident).map (·.1)

/-- The update of R148: new data, one more in SEQ, unacknowledged. -/
def objUpdate (d : Dev) (o : Nat) (data : List Byte) : Dev :=
  let x := d.obj o
  d.setObj o { x with data := data, seq := (x.seq + 1) % 2 ^ 32, acked := false, overwritten := x.overwritten || !x.acked }

/-- Acknowledging an object (R148). -/
def objAck (d : Dev) (o : Nat) : Dev := d.setObj o { d.obj o with acked := true, overwritten := false }

/-- The header word of an object (R147). -/
def objHeader (x : MsgObj) : Nat :=
  x.data.length + (if x.overwritten then 256 else 0) + (if x.acked then 512 else 0) + x.seq * 2 ^ 16

/-- Steps 1 to 3 of R303 for a frame from channel port `p`: the object update, the foreign-use check, the histogram. -/
def objReceive (d : Dev) (p : Nat) (b : List Byte) (time : Nat) : Dev :=
  match d.objFind p (busFormat b) (busId b) with
  | none => d
  | some o =>
    let x := d.obj o
    let n := p - 32
    let data := b.drop 24
    let rtr := bitAt 1 (beAt b 1 1)
    let d :=
      if objOwned x then
        let d := (d.inc .canForeign n).setObj o { x with foreign := min 65535 (x.foreign + 1) }
        (d.wr .canForeignLast n (BitVec.ofNat 32 (2 ^ 31 + o))).raise (84 + n) p 2
      else if rtr then d
      else if 64 < data.length then d.inc .moXlSkip 0
      else
        let d := if x.acked then d else d.inc .canRxOvw n
        let d := d.objUpdate o data
        d.setObj o { d.obj o with time := time }
    let m := bits 16 11 x.cfg
    let d := match x.lastRx with
      | some t => if bitAt 10 x.cfg ∧ d.b monCfg_EN m ∧ d.f monCfg_SOURCE m = 3
          then d.monSample m ((time - t) / 1000 % 2 ^ 32) else d
      | none => d
    d.setObj o { d.obj o with lastRx := some time }

/-- Whether MoWinKey of window `w` may take `v`: VALID only on an object that is not valid, with a CAN channel and a key that is
legal and no other object's (R314). -/
def objKeyOk (d : Dev) (w v : Nat) : Bool :=
  let x := d.obj (d.f moWinSel_OBJ w)
  let fmt := bits 30 29 v
  let id := v % 2 ^ 29
  let ch := objChan x
  !bitAt 31 v || !(x.valid || (d.objFind ch fmt id).isSome || decide (ch < 32 ∨ 79 < ch) || fmt == 3
    || ((fmt == 0 || fmt == 2) && decide (0x7FF < id)))

/-- A write of MoWinKey through window `w` (R314). -/
def objKeyWrite (d : Dev) (staged : Bool) (w v : Nat) : Dev :=
  let o := d.f moWinSel_OBJ w
  let x := d.obj o
  let fmt := bits 30 29 v
  let id := v % 2 ^ 29
  if bitAt 31 v then
    if staged = false ∧ d.objKeyOk w v = false then d.rejWr uMo
    else d.setObj o { x with valid := true, fmt := fmt, ident := id, data := [], seq := 0, acked := true, overwritten := false,
                             foreign := 0, lastRx := none }
  else d.setObj o { x with valid := false, fmt := fmt, ident := id }

/-- A write of MoWinCfg that is taken (R314). -/
def objCfgWrite (d : Dev) (w v : Nat) : Dev :=
  let o := d.f moWinSel_OBJ w
  d.setObj o { d.obj o with cfg := v % 2 ^ 17 }

/-- A write of MoWinAck (R316). -/
def objAckWrite (d : Dev) (w v : Nat) : Dev :=
  let o := d.f moWinSel_OBJ w
  if (d.obj o).valid && (d.obj o).seq == v then d.objAck o else d.inc .moAckStale 0

/-- A write of MoWinPub (R316): MOW with the staged bytes. -/
def objPublish (d : Dev) (w v : Nat) : Dev :=
  let o := d.f moWinSel_OBJ w
  let stage := (List.range 16).flatMap fun k => leBytes 4 (d.rd .moWinStage (16 * w + k)).toNat
  if (d.obj o).valid then d.objUpdate o (stage.take (min 64 (v % 128))) else d

/-- A write of CLEAR in MoWinForeign (R312). -/
def objForeignClear (d : Dev) (w : Nat) : Dev :=
  let o := d.f moWinSel_OBJ w
  d.setObj o { d.obj o with foreign := 0 }

/-! ### Transmission -/

/-- Whether buffer `b` takes a queued frame: free, and not reserved (R305, R310). -/
def canOpen (d : Dev) (n b : Nat) : Bool :=
  (d.canBuf n b).isNone && (decide (b < 56) || !d.b canSched_EN (8 * n + (b - 56)))

/-- Whether class `c` is eligible for loading (R305). -/
def canEligible (d : Dev) (n c : Nat) : Bool :=
  !(d.queue (qNo (32 + n) c)).isEmpty
    && !(bitAt c (d.f canTxCfg_SERIAL n) && (d.can n).bufs.any fun e => e.2.cls == c && !e.2.sched)

/-- Whether a channel loads buffers now (R302, R305, R420). -/
def canLoads (d : Dev) (n : Nat) : Bool :=
  let st := d.canState n
  (st == canIntegrating || st == canActive || st == canPassive) && d.admits (uCan n) && d.bwServes (32 + n)
    && !d.bwHolds (32 + n) (d.can n).cur.isSome
    && d.f bqPortCfg_STATE (32 + n) == 0 && !d.portAsleep (32 + n)

/-- A frame taken from a queue goes into buffer `b`, where it stays in HELD until it is sent or removed (R419), or is dropped
(R295, R308). (DEDUCED: assumption 32) -/
def canLoad (d : Dev) (n b c : Nat) (x : QFrame) : Dev :=
  let fr := x.f
  match d.canCheck n fr.bytes with
  | none => ((d.inc .canTxBadFrame n).release fr.grp).tsDropped x
  | some bs =>
    let pt := beAt bs 16 8
    let now := d.domNow (d.f canTxCfg_PT_TD n)
    let timed := bitAt 7 (beAt bs 0 1)
    if timed ∧ pt + d.f canTxPt_LATE_US n * 1000 < now then ((d.inc .canPtLate n).release fr.grp).tsDropped x
    else (if x.held then d.heldCount (32 + n) true else d).canPut n b { held := x.held, f := { fr with bytes := bs }, cls := c, wait := timed && decide (now < pt), ts := x.ts }

/-- A free buffer takes the head frame of the highest eligible class (R305); a head over its residence limit is dropped first
(R235), and one whose cells fail is dropped as it is loaded (R229). -/
def canTxLoad (d : Dev) (n : Nat) (ecc : Ecc) : Dev :=
  if d.canLoads n then
    match (List.range 64).find? (d.canOpen n) with
    | none => d
    | some b =>
      let d := (List.range 8).foldl (fun d c => d.residenceDrop (qNo (32 + n) c)) d
      match [7, 6, 5, 4, 3, 2, 1, 0].find? (d.canEligible n) with
      | none => d
      | some c =>
        match d.takeHead (qNo (32 + n) c) with
        | (none, d) => d
        | (some x, d) =>
          let d := d.bufEcc ecc
          if ecc.failing.isEmpty then d.canLoad n b c x
          else ((d.inc .bqPortEccDrop (32 + n)).release x.f.grp).tsMemory x
  else d

/-- The buffer that arbitration would rank first (R306). -/
def canBest (bufs : Sparse CanBuf) : Option Nat :=
  (bufs.foldl (fun (best : Option (Nat × CanBuf)) e =>
    if e.2.wait || decide (64 ≤ e.1) then best
    else match best with
      | none => some e
      | some (_, y) =>
        let k := arbKey e.2.f.bytes
        let k' := arbKey y.f.bytes
        if k < k' ∨ (k = k' ∧ e.2.order < y.order) then some e else best) none).map (·.1)

/-- The channel starts the ready buffer that ranks first (R306); the frame shows the channel's own error state in ESI (R294).
Its first start gives the egress time, at the SOF (R255, R339), and the copy of an EGRESS session (R240).
(DEDUCED: assumption 32) -/
def canArbStart (d : Dev) (n : Nat) : Dev :=
  let c := d.can n
  let st := d.canState n
  if c.cur.isNone && (st == canActive || st == canPassive) && d.admits (uCan n) && d.bwServes (32 + n) && !d.portAsleep (32 + n)
  then
    match canBest c.bufs with
    | none => d
    | some b =>
      let x := (d.canBuf n b).getD {}
      let fl := setBits 3 3 (if st = canPassive ∧ 2 ≤ beAt x.f.bytes 0 1 % 8 then 1 else 0) (beAt x.f.bytes 1 1)
      let bs := splice x.f.bytes 1 [byteOf fl]
      let bufs := Sparse.insert b { x with started := true, ts := none } (Sparse.erase b c.bufs)
      let d := d.setCan n { c with cur := some b, bufs := bufs }
      let d := match x.ts with | some (i, cur) => d.txFinish i cur (d.ns % 2 ^ 64) 0 | none => d
      (if x.started then d else d.mirrorPort 2 (32 + n) { x.f with bytes := bs }).emit (.can n bs)
  else d

/-- The loop delays measured in a frame that was sent (R297): an edge shorter than TDCF is ignored. -/
def canDelay (d : Dev) (n : Nat) (tdcv tdcvXl : Option Nat) : Dev :=
  let d := match tdcv with
    | some v => if d.b canTdc_EN n ∧ d.f canTdc_TDCF n ≤ v then d.sf canTdc_TDCV n v else d
    | none => d
  match tdcvXl with
  | some v => if d.b canTdcXl_EN n ∧ d.f canTdcXl_TDCF n ≤ v then d.sf canTdcXl_TDCV n v else d
  | none => d

/-- A frame was sent (R304): counted, its buffer free, the measured loop delays stored (R297). -/
def canTxDone (d : Dev) (n : Nat) (tdcv tdcvXl : Option Nat) : Dev :=
  match (d.can n).cur with
  | none => d
  | some b =>
    let d := d.canDelay n tdcv tdcvXl
    let d := (d.inc .canTxFrames n).sf canErr_TEC n (d.f canErr_TEC n - 1)
    ((d.canFree n b).canConfine n).flushDue (32 + n)

/-- The buffer of a transmission that ended in an error waits to be sent again, or is discarded at RETRY (R307). -/
def canRetry (d : Dev) (n b : Nat) : Dev :=
  let c := d.can n
  let d := d.setCan n { c with cur := none }
  match d.canBuf n b with
  | none => d
  | some x =>
    if b = 64 then d.canFree n b
    else if d.f canTxCfg_RETRY n ≠ 0 ∧ d.f canTxCfg_RETRY n ≤ x.tries + 1 then (d.inc .canTxRetryDrop n).canFree n b
    else d.setCan n { c with cur := none, bufs := Sparse.insert b { x with tries := x.tries + 1 } (Sparse.erase b c.bufs) }

/-- A transmission ends in an error (R307, R311), or an error in the flag that follows it raises TEC again (R301); `exempt` says
that ISO 11898-1 leaves TEC as it is. (DEDUCED: assumption 32) -/
def canTxErr (d : Dev) (n k : Nat) (exempt : Bool) (tdcv tdcvXl : Option Nat) : Dev :=
  let st := d.canState n
  if st ≠ canActive ∧ st ≠ canPassive then d
  else
    let d := (d.canErrSeen n k).canErrAdd n (if exempt then 0 else 8) 0
    match (d.can n).cur with
    | none => d.canConfine n
    | some b =>
      let d := (d.canDelay n tdcv tdcvXl).inc .canTxRetry n
      ((if 255 < d.f canErr_TEC n then d else d.canRetry n b).canConfine n).flushDue (32 + n)

/-- Arbitration is lost (R306); a scheduled frame that was replaced meanwhile goes (R309). -/
def canArbLose (d : Dev) (n : Nat) : Dev :=
  let c := d.can n
  match c.cur with
  | none => d
  | some b =>
    let d := (d.inc .canArbLost n).setCan n { c with cur := none }
    (if b = 64 then d.canFree n b else d).flushDue (32 + n)

/-- A receiver detects an error (R301): REC rises by what ISO 11898-1 gives for it. (DEDUCED: assumption 32) -/
def canRxErr (d : Dev) (n k up : Nat) : Dev :=
  let st := d.canState n
  if st = canActive ∨ st = canPassive then ((d.canErrSeen n k).canErrAdd n 0 up).canConfine n else d

/-- A held frame enters arbitration (R308). -/
def canPtime (d : Dev) (n b : Nat) : Dev :=
  match d.canBuf n b with
  | none => d
  | some x =>
    let c := d.can n
    d.setCan n { c with bufs := Sparse.insert b { x with wait := false } (Sparse.erase b c.bufs) }

/-- A write of CanSched s (R310). -/
def canSchedWrite (d : Dev) (n s v : Nat) : Dev :=
  (d.wr .canSched (8 * n + s) (BitVec.ofNat 32 (v &&& 0x80003FFF))).canShow n

/-- A firing for slot s builds a frame from the slot's object (R309), on a channel that loads transmit buffers: one that is QUIESCED
admits no work (R37, R302), and one of the BW die takes no load while the die does not serve it. (DEDUCED: assumption 32) -/
def canFire (d : Dev) (n s : Nat) : Dev :=
  if d.b canSched_EN (8 * n + s) = false ∨ d.canState n = canStopped ∨ d.admits (uCan n) = false
      ∨ d.bwServes (32 + n) = false then d
  else
    let x := d.obj (d.f canSched_OBJ (8 * n + s))
    let kind := if x.fmt = 2 then 3 else if bitAt 8 x.cfg then 2 else 1
    let flags := (if x.fmt = 1 then 1 else 0) + if bitAt 9 x.cfg then 4 else 0
    let bs := busFrame kind flags 0 0 x.ident 0 0 0 x.data
    if x.valid = false ∨ objChan x ≠ 32 + n then d.inc .canTxBadFrame n
    else match d.canCheck n bs with
      | none => d.inc .canTxBadFrame n
      | some bs =>
        let new : CanBuf := { f := { bytes := bs }, sched := true }
        match d.canBuf n (56 + s) with
        | none => d.canPut n (56 + s) new
        | some old =>
          if old.sched = false then d.inc .canSchedLate n
          else
            let c := d.can n
            let d := if c.cur = some (56 + s)
              then d.setCan n { c with cur := some 64, bufs := Sparse.insert 64 old (Sparse.erase (56 + s) c.bufs) } else d
            (d.inc .canSchedLate n).canPut n (56 + s) new

/-- The pointer state of a receive or transmit FIFO reports an uncorrectable error (R230). On the receive side the frame in
reception is discarded. On the transmit side a frame of an Ethernet or LIN port leaves its queue only as it starts; the frames a
CAN channel has loaded and is not sending are discarded. (DEDUCED: assumption 29) -/
def fifoReset (d : Dev) (p : Nat) (tx : Bool) : Dev :=
  let d := (d.inc .bqPortFifoReset p).memoryError 15 0 0
  if tx then
    if p < 32 ∨ 80 ≤ p then d
    else
      let c := d.can (p - 32)
      ((c.bufs.filter fun e => !e.2.sched && c.cur != some e.1).map (·.1)).foldl (fun d b =>
        (d.inc .bqPortEccDrop p).canFree (p - 32) b) d
  else { d with bus := { d.bus with rxCut := p :: d.bus.rxCut.filter (· != p) } }

end Dev

end Sys2Proof.Machine
end

