-- ==== Sys2Proof/Machine/Tun.lean ====
section
/-! DEFINITION. Tunnelling over IEEE 1722 (R324 to R329), and the reception of CAN frames that feeds it (R303). -/
namespace Sys2Proof.Machine

def tunDefault (_ : Nat) : TunOpen := {}
def xlDefault (_ : Nat) : XlJoin := {}

/-- The flags of a frame in the internal layout. -/
def busFlag (b : List Byte) (i : Nat) : Nat := if bitAt i (beAt b 1 1) then 1 else 0

/-- `n` zero bytes that complete a quadlet. -/
def padOf (n : Nat) : Nat := (4 - n % 4) % 4

/-- The first quadlet of an ACF message: type, length in quadlets, and its last two bytes. -/
def acfHead (typ quads b2 b3 : Nat) : List Byte := beBytes 2 (typ * 512 + quads % 512) ++ [byteOf b2, byteOf b3]

/-- An ACF CAN or ACF LIN message (R326). (PRESUMED: assumption 33) -/
def acfMessage (bus ts : Nat) (b : List Byte) : List Byte :=
  let data := b.drop 24
  let pad := padOf data.length
  let tail := data ++ List.replicate pad 0
  if beAt b 0 1 % 8 = 4 then
    acfHead 3 ((12 + tail.length) / 4) (pad * 64 + 32 + bus % 32) (busId b % 64) ++ beBytes 8 ts ++ tail
  else
    let fdf := if beAt b 0 1 % 8 = 2 then 1 else 0
    acfHead 1 ((16 + tail.length) / 4)
        (pad * 64 + 32 + busFlag b 1 * 16 + busFlag b 0 * 8 + busFlag b 2 * 4 + fdf * 2 + busFlag b 3) (bus % 32)
      ++ beBytes 8 ts ++ beBytes 4 (busId b) ++ tail

/-- One fragment of the vendor message of a CAN XL frame (R327); `seg` as the table codes it. -/
def xlMessage (typ bus ts : Nat) (b : List Byte) (seg off n : Nat) : List Byte :=
  let part := (b.drop (24 + off)).take n
  let pad := padOf part.length
  beBytes 2 (typ * 512 + (28 + part.length + pad) / 4 % 512) ++ beBytes 2 0x1F3D
    ++ [1, byteOf (pad * 64 + 32 + busFlag b 5 * 16 + busFlag b 6 * 8 + seg * 2), byteOf (bus % 32), byteOf (beAt b 3 1)]
    ++ beBytes 8 ts ++ beBytes 2 (busId b % 2048) ++ [byteOf (beAt b 10 1), 0] ++ beBytes 4 (beAt b 12 4)
    ++ beBytes 2 (beAt b 8 2) ++ beBytes 2 off ++ part ++ List.replicate pad 0

/-- The fragments of a CAN XL frame, each as large as fits in `room` bytes of message (R327). The first argument bounds their
number. -/
def xlFragments (typ bus ts : Nat) (b : List Byte) (room : Nat) : Nat → Nat → List (List Byte)
  | 0, _ => []
  | k + 1, off =>
    let len := beAt b 8 2
    let most := min 2044 room / 4 * 4 - 28
    let n := if len - off ≤ most then len - off else most
    let seg := if off + n < len then (if off = 0 then 1 else 2) else if off = 0 then 0 else 3
    let m := xlMessage typ bus ts b seg off n
    if off + n < len ∧ n ≠ 0 then m :: xlFragments typ bus ts b room k (off + n) else [m]

namespace Dev

def tunOpen (d : Dev) (s : Nat) : TunOpen := Sparse.get tunDefault d.bus.tun s
def setTun (d : Dev) (s : Nat) (x : TunOpen) : Dev :=
  { d with bus := { d.bus with tun := Sparse.set tunDefault d.bus.tun s x } }

/-- The length of a stream's AVTPDU header, and of its Ethernet header. (PRESUMED: assumption 33) -/
def tunHdr (d : Dev) (s : Nat) : Nat := if d.b tunTxStreamCtl_TSCF s then 24 else 12
def tunEth (d : Dev) (s : Nat) : Nat := if d.b tunTxStreamCtl_VLAN_EN s then 18 else 14

/-- The frame of stream `s` with the messages `ms` (R325). -/
def tunFrame (d : Dev) (s : Nat) (x : TunOpen) : List Byte :=
  let port := d.f tunTxStreamCtl_PORT s
  let own := (d.rd .ethMacAddr (port * 2 + 1)).toNat * 2 ^ 32 + (d.rd .ethMacAddr (port * 2)).toNat
  let da := d.f tunTxStreamDaHi_DA_HI s * 2 ^ 32 + d.f tunTxStreamDaLo_DA_LO s
  let id := beBytes 4 (d.rd .tunTxStreamId (2 * s + 1)).toNat ++ beBytes 4 (d.rd .tunTxStreamId (2 * s)).toNat
  let seq := d.f tunTxStreamSeq_SEQ s
  let len := x.bytes.length
  let tag := if d.b tunTxStreamCtl_VLAN_EN s then [0x81, 0x00] ++ beBytes 2 (d.f tunTxStreamDaHi_TCI s) else []
  let head :=
    if d.b tunTxStreamCtl_TSCF s then
      [0x05, 0x81, byteOf seq, 0] ++ id ++ beBytes 4 (x.first % 2 ^ 32) ++ [0, 0, 0, 0] ++ beBytes 2 len ++ [0, 0]
    else [0x82, byteOf (0x80 + len / 256 % 8), byteOf len, byteOf seq] ++ id
  beBytes 6 da ++ beBytes 6 own ++ tag ++ [0x22, 0xF0] ++ head ++ x.bytes

/-- Closing the open AVTPDU of stream `s` (R325): DIRECT admission to PORT and CLASS. -/
def tunClose (d : Dev) (s : Nat) : Dev :=
  let x := d.tunOpen s
  if x.msgs = 0 then d
  else
    let bytes := d.tunFrame s x
    let d := (d.setTun s {}).sf tunTxStreamSeq_SEQ s ((d.f tunTxStreamSeq_SEQ s + 1) % 256)
    let d := (d.inc .tunTxPdus 0).incBy .tunTxMsgs 0 x.msgs
    let fr : Frame := { bytes := bytes, port := x.port, grp := x.grp }
    (d.enqueue (d.f tunTxStreamCtl_PORT s) (d.f tunTxStreamCtl_CLASS s) { f := fr, direct := true }).2

/-- The open AVTPDU of stream `s` closes when the next message, of `n` bytes, would make it too long (R325). -/
def tunRoom (d : Dev) (s n : Nat) : Dev :=
  let x := d.tunOpen s
  if x.msgs ≠ 0 ∧ d.f tunTxStreamAgg_MAX_PDU s < d.tunHdr s + x.bytes.length + n then d.tunClose s else d

/-- One message joins stream `s` (R325); `none` when it finds no free cell. -/
def tunAdd (d : Dev) (s port ts : Nat) (m : List Byte) : Option Dev :=
  let d := d.tunRoom s m.length
  let x := d.tunOpen s
  let k := cellsOf (d.tunEth s + d.tunHdr s + x.bytes.length + m.length)
  let got : Option (Nat × Dev) :=
    if x.msgs = 0 then (match d.alloc k with | (some g, d) => some (g, d) | (none, _) => none)
    else (d.resize x.grp k).map fun d => (x.grp, d)
  got.map fun (g, d) =>
    let x := { x with bytes := x.bytes ++ m, msgs := x.msgs + 1, grp := g,
                      first := if x.msgs = 0 then ts else x.first, port := if x.msgs = 0 then port else x.port }
    let d := d.setTun s x
    if x.msgs < d.f tunTxStreamCtl_MAX_MSGS s ∧ d.f tunTxStreamAgg_AGG_US s ≠ 0 then d else d.tunClose s

/-- The binding that takes a frame of channel port `p` (R324). -/
def tunBinding (d : Dev) (p : Nat) (b : List Byte) : Option Nat :=
  (List.range 64).find? fun k =>
    d.b tunTxBindKey_ENABLE k && d.f tunTxBindDest_CHANNEL k == p
      && (beAt b 0 1 % 8 == 4 || d.f tunTxBindKey_FMT k == busFormat b)
      && (d.f tunTxBindKey_ID k ^^^ busId b) &&& d.f tunTxBindMask_MASK k == 0

/-- The tunnel copy of a frame that channel port `p` commits (R324, R326, R327): whole, or lost and counted once. -/
def tunCopy (d : Dev) (p : Nat) (b : List Byte) (time : Nat) : Dev :=
  match d.tunBinding p b with
  | none => d
  | some k =>
    let s := d.f tunTxBindDest_STREAM k
    let bus := d.f tunTxBindDest_BUS_ID k
    if d.b tunTxStreamCtl_ENABLE s then
      let ts := (d.domTime (d.f tunTxStreamCtl_TD s) time + d.f tunTxStreamPtOff_PT_OFFSET_NS s) % 2 ^ 64
      let ms := if beAt b 0 1 % 8 = 3 then
          xlFragments (d.f tunCfg_XL_TYPE 0) bus ts b (d.f tunTxStreamAgg_MAX_PDU s - d.tunHdr s) 2048 0
        else [acfMessage bus ts b]
      let d := d.tunRoom s (ms.headD []).length
      (ms.foldl (fun (r : Option Dev) m => r.bind fun d => d.tunAdd s p ts m) (some d)).getD (d.inc .tunTxDrop 0)
    else d

/-- A write of a TunTxStream word (R325): ENABLE 0 closes the open AVTPDU; a MAX_PDU out of range is discarded and MAX_MSGS 0 is
stored as 1. `w` numbers the words. (DESIGN CHOICE: assumption 14) -/
def tunStreamWrite (d : Dev) (s w v : Nat) : Dev :=
  match w with
  | 0 =>
    let v := setBits 15 8 (max 1 (bits 15 8 v)) (v &&& 0xFFFEFF00)
    if 19 < bits 25 19 v then d.rejWr uTun
    else if bitAt 31 v then d.wr .tunTxStreamCtl s (BitVec.ofNat 32 v)
    else (d.tunClose s).wr .tunTxStreamCtl s (BitVec.ofNat 32 v)
  | 1 =>
    let m := v % 2 ^ 14
    if m < 128 ∨ 9710 < m then d.rejWr uTun else d.wr .tunTxStreamAgg s (BitVec.ofNat 32 (v &&& 0xFFFF3FFF))
  | 2 => d.wr .tunTxStreamPtOff s (BitVec.ofNat 32 v)
  | 3 => d.wr .tunTxStreamDaLo s (BitVec.ofNat 32 v)
  | 4 => d.wr .tunTxStreamDaHi s (BitVec.ofNat 32 v)
  | 5 => d.wr .tunTxStreamId (2 * s) (BitVec.ofNat 32 v)
  | 6 => d.wr .tunTxStreamId (2 * s + 1) (BitVec.ofNat 32 v)
  | _ => d.rejWr uTun

/-! ### Reception on bus channels -/

/-- Whether a frame of `n` bytes that met `ecc` would commit now (R227, R229). -/
def busCommits (d : Dev) (n : Nat) (ecc : Ecc) : Bool := ecc.failing.isEmpty && ((d.bufEcc ecc).alloc (cellsOf n)).1.isSome

/-- A frame of a bus channel commits for dispatch, its tunnel copy first (R303 steps 4 and 5). It rewinds on an error of its
FIFO or for want of cells (R227, R229), and then makes no copy. -/
def busCommit (d : Dev) (p : Nat) (b : List Byte) (time : Nat) (ecc : Ecc) : Dev :=
  let d := d.bufEcc ecc
  if ecc.failing.isEmpty = false then d.inc .bqPortEccDrop p
  else match d.alloc (cellsOf b.length) with
    | (none, d) => d.inc .bqPortNoCell p
    | (some g, d) => (d.tunCopy p b time).commitRx p { bytes := b, rxTime := time, grp := g }

/-- A CAN frame becomes valid (R303), unless it carries what has woken its segment (R415) or the device is in SLEEP (R413). -/
def canReceive (d : Dev) (n : Nat) (x : CanRx) : Dev :=
  let p := 32 + n
  let st := d.canState n
  let known := x.kind == 1 || (x.kind == 2 && d.b canCtl_FD_EN n) || (x.kind == 3 && d.b canCtl_XL_EN n && decide (32 ≤ n))
  if (st = canActive ∨ st = canPassive) ∧ known ∧ d.portAsleep p = false ∧ d.sleep.power ≠ .sleep
      ∧ (x.stale && d.bus.wakeCut.contains p) = false then
    let rec' := d.f canErr_REC n
    let (back, d) : Nat × Dev :=
      if rec' ≤ 127 then (rec' - 1, d) else let r := d.fresh 4; (119 + r.1 % 9, r.2)
    let d := (d.sf canErr_REC n back).inc .canRxFrames n
    let d := if x.kind = 2 then d.inc .canRxFd n else if x.kind = 3 then d.inc .canRxXl n else d
    let b := busFrame x.kind (x.flags % 128) (0x80 + p) x.sdt x.ident x.vcid x.af 0 x.data
    let d := (d.objReceive p b x.time).canConfine n
    if d.actsAs (uCan n) ≠ stRun ∨ (d.b unitState_DRAINING (uCan n) ∧ x.begun = false) then d.refuse (uCan n)
    else if d.bwServes p = false ∨ d.bwHolds p x.stale = true ∨ d.rxLost p x.stale = true then d
    else d.busCommit p b x.time x.ecc
  else d

/-! ### The split of a received AVTPDU -/

/-- What a split gathers: the frames, the counts, and the fragments joined so far. -/
structure TunSplit where
  frames : List (List Byte) := []
  msgs : Nat := 0
  bad : Nat := 0
  skipped : Nat := 0
  noBus : Nat := 0
  xlDrop : Nat := 0
  join : XlJoin := {}

/-- The channel of bus `k` of receive stream `r` for epoch `e`, when it has a valid mapping. -/
def tunBus (d : Dev) (e r k : Nat) : Option Nat :=
  let byte := bits (8 * (k % 4) + 7) (8 * (k % 4)) (d.rdE e .tunRxStreamBus (8 * r + k / 4)).toNat
  if bitAt 7 byte ∧ 32 ≤ byte % 128 ∧ byte % 128 ≤ 95 then some (byte % 128) else none

/-- KIND and PTIME of a message: a presentation time with PT_EN and mtv (R328). -/
def tunTime (d : Dev) (e r kind : Nat) (mtv : Bool) (ts : Nat) : Nat × Nat :=
  if mtv && d.bE e tunRxStreamCtl_PT_EN r then
    (kind + 128, ((ts : Int) + sext 32 (d.rdE e .tunRxStreamPtAdj r).toNat).toNat % 2 ^ 64)
  else (kind, 0)

/-- One whole frame leaves the split, on the channel of its bus. (PRESUMED: assumption 33) -/
def tunEmit (d : Dev) (e r bus : Nat) (f : Nat → List Byte) (x : TunSplit) : TunSplit :=
  match d.tunBus e r bus with
  | none => { x with noBus := x.noBus + 1 }
  | some ch => { x with frames := x.frames ++ [f (0x80 + ch)] }

/-- A fragment of a CAN XL frame (R328). A frame is dropped and counted once: its later fragments are passed over. -/
def tunXl (d : Dev) (e r : Nat) (m : List Byte) (x : TunSplit) : TunSplit :=
  let fl := beAt m 5 1
  let seg := bits 2 1 fl
  let pad := fl / 64
  let data := (m.drop 28).take (m.length - 28 - pad)
  let off := beAt m 26 2
  let pending := x.join.total ≠ 0
  let emit (head data : List Byte) (x : TunSplit) : TunSplit :=
    let fl := beAt head 5 1
    let (kind, pt) := d.tunTime e r 3 (bitAt 5 fl) (beAt head 8 8)
    d.tunEmit e r (beAt head 6 1 % 32) (fun chan => busFrame kind ((if bitAt 4 fl then 32 else 0) + if bitAt 3 fl then 64 else 0)
      chan (beAt head 7 1) (beAt head 16 2 % 2048) (beAt head 18 1) (beAt head 20 4) pt data) x
  let drop (x : TunSplit) : TunSplit :=
    { x with xlDrop := x.xlDrop + (if x.join.skip then 0 else 1), join := { skip := seg == 1 || seg == 2 } }
  if seg = 0 ∨ seg = 1 then
    let x := { x with xlDrop := x.xlDrop + (if pending then 1 else 0), join := {} }
    if off ≠ 0 then drop x
    else if seg = 0 then (if data.length = beAt m 24 2 then emit m data x else drop x)
    else { x with join := { head := m.take 28, data := data, total := max 1 (beAt m 24 2) } }
  else if pending = false ∨ off ≠ x.join.data.length then drop x
  else
    let all := x.join.data ++ data
    if seg = 2 then { x with join := { x.join with data := all } }
    else if all.length = x.join.total then emit x.join.head all { x with join := {} }
    else drop x

/-- One ACF message of `m` bytes (R328). -/
def tunMessage (d : Dev) (e r : Nat) (m : List Byte) (x : TunSplit) : TunSplit :=
  let typ := beAt m 0 2 / 512
  let b2 := beAt m 2 1
  let pad := b2 / 64
  let can (hdr : Nat) (ts : Nat) (mtv : Bool) : TunSplit :=
    let (kind, pt) := d.tunTime e r (if bitAt 1 b2 then 2 else 1) mtv ts
    let fl := (if bitAt 3 b2 then 1 else 0) + (if bitAt 4 b2 then 2 else 0) + (if bitAt 2 b2 then 4 else 0) + if bitAt 0 b2 then 8 else 0
    d.tunEmit e r (beAt m 3 1 % 32) (fun chan =>
      busFrame kind fl chan 0 (beAt m (hdr - 4) 4) 0 0 pt ((m.drop hdr).take (m.length - hdr - pad))) x
  let short (n : Nat) : Bool := decide (m.length < n + pad)
  if typ = 1 then (if short 16 then { x with bad := x.bad + 1 } else can 16 (beAt m 4 8) (bitAt 5 b2))
  else if typ = 2 then (if short 8 then { x with bad := x.bad + 1 } else can 8 0 false)
  else if typ = 3 then
    if short 12 then { x with bad := x.bad + 1 }
    else
      let (kind, pt) := d.tunTime e r 4 (bitAt 5 b2) (beAt m 4 8)
      d.tunEmit e r (b2 % 32) (fun chan => busFrame kind 16 chan 0 (beAt m 3 1 % 64) 0 0 pt
        ((m.drop 12).take (m.length - 12 - pad))) x
  else if typ = d.fE e tunCfg_XL_TYPE 0 ∧ beAt m 2 2 = 0x1F3D ∧ beAt m 4 1 = 1 then
    if m.length < 28 + beAt m 5 1 / 64 then { x with bad := x.bad + 1 } else d.tunXl e r m x
  else { x with skipped := x.skipped + 1 }

/-- The messages from the head of `b` on (R328). The first argument bounds their number. -/
def tunMessages (d : Dev) (e r : Nat) : Nat → List Byte → TunSplit → TunSplit
  | 0, _, x => x
  | k + 1, b, x =>
    if b.isEmpty then x
    else
      let n := 4 * (beAt b 0 2 % 512)
      if n = 0 ∨ b.length < n then { x with bad := x.bad + 1 }
      else tunMessages d e r k (b.drop n) (d.tunMessage e r (b.take n) { x with msgs := x.msgs + 1 })

/-- The enabled receive stream of a recirculated packet, with the offset of its AVTPDU (R328). -/
def tunStream (d : Dev) (e : Nat) (b : List Byte) : Option (Nat × Nat) :=
  let (o, _, et) := etherType b
  let sub := beAt b o 1
  if et = 0x22F0 ∧ (sub = 0x82 ∨ sub = 0x05) then
    ((List.range 16).find? fun r => d.bE e tunRxStreamCtl_ENABLE r
      && (d.rdE e .tunRxStreamId (2 * r + 1)).toNat == beAt b (o + 4) 4
      && (d.rdE e .tunRxStreamId (2 * r)).toNat == beAt b (o + 8) 4).map fun r => (r, o)
  else none

/-- The frames of a split take the place of the AVTPDU at the order stage: entry `q` becomes one entry for each, in message
order. The number of the k-th is q + 2^32 (k + 1), whose low 32 bits are %frame_seq (R329). (PRESUMED: assumption 33) -/
def orderSplit (d : Dev) (p q k : Nat) : Dev :=
  d.setOrder p ((d.orderOf p).flatMap fun e =>
    if e.1 = q then (List.range k).map fun j => (q + 2 ^ 32 * (j + 1), OrderItem.waiting) else [e])

/-- The frames of a split join the recirculation queue (R329). Of a frame in the internal layout %rx_status says only INJECTED
(R160). -/
def tunFrames (d : Dev) (fr : Frame) (bs : List (List Byte)) : Dev :=
  (List.zip (List.range bs.length) bs).foldl (fun d e =>
    match d.alloc (cellsOf e.2.length) with
    | (none, d) => d.resolve fr.port (fr.seq + 2 ^ 32 * (e.1 + 1)) .dropped
    | (some g, d) =>
      let f := { fr with bytes := e.2, seq := fr.seq + 2 ^ 32 * (e.1 + 1), pass := 1, rxStatus := fr.rxStatus / 2 ^ 31 * 2 ^ 31, grp := g }
      { d with path := { d.path with recircQ := d.path.recircQ ++ [f] } }) d

/-- REDIP of a packet (R176, R328): the tunnel block splits an AVTPDU of an enabled stream, which counts once as accepted
(R177); any other packet recirculates. -/
def redip (d : Dev) (fr : Frame) : Dev :=
  match d.tunStream fr.epoch fr.bytes with
  | none => d.recirculate fr
  | some (r, o) =>
    let b := fr.bytes
    let tscf := beAt b o 1 == 5
    let hdr := if tscf then 24 else 12
    let len := if tscf then beAt b (o + 20) 2 else beAt b (o + 1) 2 % 2048
    let seq := beAt b (o + if tscf then 2 else 3) 1
    let pdu := (b.drop (o + hdr)).take len
    let x := d.tunMessages fr.epoch r 2500 pdu { join := Sparse.get xlDefault d.bus.xl r }
    let k := x.frames.length
    let need := (x.frames.map fun f => cellsOf f.length).sum
    if d.f feRecircCfg_LIMIT 0 < d.recircCount + max 1 k ∨ d.freeCells + cellsOf b.length < need then
      (d.inc .feRecircDrop 0).dropFrame fr
    else
      let d := (d.inc .tunRxPdus 0).incBy .tunRxMsgs 0 k
      let d := if seq = d.f tunRxStreamExp_EXP_SEQ r then d else d.inc .tunRxSeqGap 0
      let d := d.sf tunRxStreamExp_EXP_SEQ r ((seq + 1) % 256)
      let d := ((d.incBy .tunRxBadAcf 0 x.bad).incBy .tunRxSkipped 0 x.skipped).incBy .tunRxNoBus 0 x.noBus
      let d := d.incBy .tunXlReasmDrop 0 x.xlDrop
      let d := { d with bus := { d.bus with xl := Sparse.set xlDefault d.bus.xl r x.join } }
      if k = 0 then d.dropFrame fr
      else (((d.release fr.grp).orderSplit fr.port fr.seq k).tunFrames fr x.frames).inc .feRecircIn 0

end Dev

end Sys2Proof.Machine
end

