-- ==== Sys2Proof/Machine/Lin.lean ====
section
/-! DEFINITION. LIN channels (R318 to R323, R420). -/
namespace Sys2Proof.Machine

/-- Entry types of a schedule (R321). -/
def linEnd : Nat := 6

/-- What an unwritten schedule entry reads as: END, one slot tick (the reset values of LinSchedEntry). -/
def linEntryDefault (_ : Nat) : Nat := 0xC0010000

/-- The protected identifier: the identifier with its two parity bits (ISO 17987). (PRESUMED: assumption 33) -/
def linPid (id : Nat) : Nat :=
  let b (i : Nat) : Nat := id / 2 ^ i % 2
  let p0 := (b 0 + b 1 + b 2 + b 4) % 2
  let p1 := (b 1 + b 3 + b 4 + b 5 + 1) % 2
  id % 64 + p0 * 64 + p1 * 128

/-- The checksum byte of a response: the inverted sum with carries of its data, with the protected identifier before them when
enhanced (ISO 17987). (PRESUMED: assumption 33) -/
def linChecksum (pid : Option Nat) (data : List Byte) : Byte :=
  let add (s x : Nat) : Nat := (s + x) % 256 + (s + x) / 256
  byteOf (255 - data.foldl (fun s b => add s b.toNat) (pid.getD 0))

namespace Dev

/-- The index of identifier `id` of channel `n` in LinFrame. -/
def linIx (n id : Nat) : Nat := 64 * n + id % 64

def linEntry (d : Dev) (n t e : Nat) : Nat := Sparse.get linEntryDefault d.bus.linSched (n * 512 + t * 64 + e)

/-- The LEN bytes of an identifier's data buffer. -/
def linBytes (d : Dev) (n id : Nat) : List Byte :=
  let i := linIx n id
  (leBytes 4 (d.rd .linData (2 * i)).toNat ++ leBytes 4 (d.rd .linData (2 * i + 1)).toNat).take (d.f linFrame_LEN i)

/-- A write of the data buffer (R319): SEQ8 rises and FRESH is set. -/
def linPut (d : Dev) (n id : Nat) (data : List Byte) : Dev :=
  let i := linIx n id
  let old := leBytes 4 (d.rd .linData (2 * i)).toNat ++ leBytes 4 (d.rd .linData (2 * i + 1)).toNat
  let new := splice old 0 (data.take 8)
  let d := (d.wr .linData (2 * i) (BitVec.ofNat 32 (leAt new 0 4))).wr .linData (2 * i + 1) (BitVec.ofNat 32 (leAt new 4 4))
  (d.sf linFrame_SEQ8 i ((d.f linFrame_SEQ8 i + 1) % 256)).sf linFrame_FRESH i 1

/-- Whether a frame of an identifier carries the enhanced checksum: 0x3C and 0x3D never do (R319). -/
def linEnhanced (d : Dev) (n id : Nat) : Bool :=
  d.b linFrame_ENHANCED (linIx n id) && id % 64 != 0x3C && id % 64 != 0x3D

/-- A frame of an identifier is on the bus until its end is seen. (PRESUMED: assumption 33) -/
def linOnBus (d : Dev) (n id : Nat) : Dev := d.setLin n { d.lin n with bus := some id }

/-- The frames of rings that wait for the egress time of an identifier complete (R255, R339). -/
def linStamp (d : Dev) (n id time st : Nat) : Dev :=
  let l := Sparse.get (fun _ => []) (d.lin n).ts (id % 64)
  l.foldl (fun d x => d.txFinish x.1 x.2 time st)
    (d.setLin n { d.lin n with ts := Sparse.set (fun _ => []) (d.lin n).ts (id % 64) [] })

/-- No frame of the channel is to have its egress time any longer. -/
def linStampNone (d : Dev) (n : Nat) : Dev := ((d.lin n).ts.map (·.1)).foldl (fun d id => d.linStamp n id 0 3) d

/-- Publishing an identifier's response to a header whose break field began at raw time `time` (R339), its checksum last (R319):
what the port transmits, for EGRESS sessions too (R240). (PRESUMED: assumption 33) -/
def linPublish (d : Dev) (n id time : Nat) : Dev :=
  let enh := d.linEnhanced n id
  let data := d.linBytes n id
  let d := (d.linStamp n id (time % 2 ^ 64) 0).linOnBus n id
  let d := d.mirrorPort 2 (80 + n) { bytes := busFrame 4 (if enh then 16 else 0) (0x80 + 80 + n) 0 id 0 0 0 data, port := 80 + n }
  ((d.emit (.lin n (linPid id) (data ++ [linChecksum (if enh then some (linPid id) else none) data]))).inc .linTxFrames n).sf
    linFrame_FRESH (linIx n id) 0

/-- A commander sends a header; a published identifier is answered by the channel itself (R319, R321). -/
def linHeader (d : Dev) (n id : Nat) : Dev :=
  if d.f linFrame_DIR (linIx n id) = 1 then d.linPublish n id d.ns else (d.emit (.lin n (linPid id) [])).linOnBus n id

/-- The identifier whose header an entry sends, if any (R321). -/
def linEntryId (d : Dev) (n e : Nat) : Option Nat :=
  let id := e % 64
  match bits 31 29 e with
  | 1 | 2 => some id
  | 3 => if d.f linFrame_DIR (linIx n id) = 1 ∧ d.b linFrame_FRESH (linIx n id) then some id else none
  | 4 => some 0x3C
  | 5 => some 0x3D
  | _ => none

/-- The header of the entry that the status registers name goes out. An EVENT entry leaves its collision table and its place for a
collision of its frame (R321). -/
def linEntrySend (d : Dev) (n id : Nat) : Dev :=
  let t := d.f linSchedStatus_TABLE n
  let k := d.f linSchedStatus_ENTRY n
  let e := d.linEntry n t k
  let ev := bits 31 29 e == 2
  (d.setLin n { d.lin n with own := true, event := if ev then some (bits 28 26 e) else none,
                             eventAt := if ev then some (t, k) else none }).linHeader n id

/-- The go-to-sleep command of a commander, after which its schedule stops (R420). -/
def linGoSleep (d : Dev) (n : Nat) : Dev :=
  let d := d.setLin n { d.lin n with gts := false, slept := true, ticks := 0, back := [], coll := none, late := false, event := none }
  let data : List Byte := 0x00 :: List.replicate 7 0xFF
  ((d.emit (.lin n (linPid 0x3C) (data ++ [linChecksum none data]))).linOnBus n 0x3C).sf linSchedStatus_RUNNING n 0

/-- The entry that the status registers name begins its slot: its header goes out, or follows the frame still on the bus (R321). -/
def linBegin (d : Dev) (n : Nat) : Dev :=
  let t := d.f linSchedStatus_TABLE n
  let e := d.linEntry n t (d.f linSchedStatus_ENTRY n)
  if bits 31 29 e = linEnd then (d.sf linSchedStatus_RUNNING n 0).sf linSchedStatus_COLLISION n 0
  else
    let d := d.setLin n { d.lin n with ticks := max 1 (bits 23 16 e), started := 1, own := false, late := false }
    match d.linEntryId n e with
    | none => d
    | some id => if (d.lin n).bus.isSome then d.setLin n { d.lin n with late := true } else d.linEntrySend n id

/-- The frame on the bus has ended; a header that waited follows it (R321), a go-to-sleep command too (R420). -/
def linBusFree (d : Dev) (n : Nat) : Dev :=
  let x := d.lin n
  let d := d.setLin n { x with bus := none, late := false, event := none }
  if x.late && x.gts then d.linGoSleep n
  else if x.late then
    match d.linEntryId n (d.linEntry n (d.f linSchedStatus_TABLE n) (d.f linSchedStatus_ENTRY n)) with
    | some id => d.linEntrySend n id
    | none => d
  else d

/-- The schedule moves to table `t`, entry `e` (R321, R322). -/
def linGoto (d : Dev) (n t e : Nat) (coll : Bool) : Dev :=
  let d := (d.sf linSchedStatus_RUNNING n 1).sf linSchedStatus_TABLE n t
  ((d.sf linSchedStatus_ENTRY n e).sf linSchedStatus_COLLISION n (if coll then 1 else 0)).linBegin n

/-- The entry after `e` in table `t`: `none` at the end of the table. -/
def linNext (d : Dev) (n t e : Nat) : Option Nat :=
  if e = 63 ∨ bits 31 29 (d.linEntry n t (e + 1)) = linEnd then none else some (e + 1)

/-- Where the schedule goes on when a table has reached its END (R322): after the entry that a collision table interrupted, with the
places to return to after that; without one at the table's first entry. -/
def linReturn (d : Dev) (n t : Nat) : List (Nat × Nat) → Nat × Nat × List (Nat × Nat)
  | [] => (t, 0, [])
  | [x] => (x.1, (d.linNext n x.1 x.2).getD 0, [])
  | x :: rest =>
    match d.linNext n x.1 x.2 with
    | some k => (x.1, k, rest)
    | none => d.linReturn n t rest

/-- The end of a slot (R321, R322), which overruns where the frame of its own header is still on the bus: a go-to-sleep command,
a stop, a requested switch, a collision table, the return from one, or the next entry. A collision table that is empty does not
run, and the interrupted one goes on (R321). (PRESUMED: assumption 33) -/
def linSlotEnd (d : Dev) (n : Nat) : Dev :=
  let x := d.lin n
  let t := d.f linSchedStatus_TABLE n
  let e := d.f linSchedStatus_ENTRY n
  let d := if d.b linSchedStatus_RUNNING n && x.bus.isSome && x.own then d.inc .linSlotOverrun n else d
  let x := { x with own := false }
  if x.gts then
    if x.bus.isSome then d.setLin n { x with late := true } else d.linGoSleep n
  else if d.b linSchedCtl_STOP n then
    let d := d.setLin n { x with ticks := 0, back := [], coll := none, late := false, eventAt := none }
    ((d.sf linSchedCtl_STOP n 0).sf linSchedStatus_RUNNING n 0).sf linSchedStatus_COLLISION n 0
  else if d.b linSchedCtl_REQ n then
    let d := d.setLin n { x with back := [], coll := none, eventAt := none }
    ((d.sf linSchedCtl_REQ n 0).sf linSchedStatus_PENDING n 0).linGoto n (d.f linSchedCtl_REQ_TABLE n) 0 false
  else match x.coll.filter fun c => bits 31 29 (d.linEntry n c 0) != linEnd with
    | some c => (d.setLin n { x with coll := none, back := x.eventAt.getD (t, e) :: x.back }).linGoto n c 0 true
    | none =>
      let x := { x with coll := none }
      let d := d.setLin n x
      match d.linNext n t e with
      | some k => d.linGoto n t k (d.b linSchedStatus_COLLISION n)
      | none =>
        let (bt, be, rest) := d.linReturn n t x.back
        (d.setLin n { x with back := rest }).linGoto n bt be (!rest.isEmpty)

/-- One schedule tick of a commander (R321). Answers whether the tick was taken: a channel whose segment sleeps takes none
(R420). -/
def linTick (d : Dev) (n : Nat) : Bool × Dev :=
  if d.portAsleep (80 + n) then (false, d)
  else if d.b linCfg_ROLE n || !d.admits (uLin n) || !d.bwServes (80 + n) then (true, d)
  else
    let x := d.lin n
    if d.b linSchedStatus_RUNNING n = false then
      if d.b linSchedCtl_REQ n then (true, d.linSlotEnd n) else (true, d)
    else if x.ticks = 0 then (true, d.linBegin n)
    else if x.ticks = 1 ∨ x.coll.isSome then (true, d.linSlotEnd n)
    else (true, d.setLin n { x with ticks := x.ticks - 1 })

/-- A header arrives at a responder (R323), which the BW die serves (R488). -/
def linHeaderIn (d : Dev) (n id : Nat) (x : LinHeader) : Dev :=
  let i := linIx n id
  if d.b linCfg_ROLE n = false ∨ d.portAsleep (80 + n) ∨ d.bwServes (80 + n) = false ∨ d.sleep.power = .sleep then d
  else if x.bad then d.inc .linSyncErr n
  else if d.admits (uLin n) = false then d
  else if d.f linFrame_DIR i = 1 ∧ (d.b linFrame_EVENT i = false ∨ d.b linFrame_FRESH i) then d.linPublish n id x.time
  else d.linOnBus n id

/-- A complete response arrives (R319, R321, R323). A collision of an EVENT frame starts its table at the next tick, with no header
before that; where a switch or STOP has come between, it only counts. (DEDUCED: assumption 33) -/
def linResponse (d : Dev) (n : Nat) (x : LinRx) : Dev :=
  let i := linIx n x.ident
  let ch := d.lin n
  let d :=
    if x.err ≠ 0 then
      let d := if x.err = 1 then d.inc .linChkErr n else if x.err = 2 then d.inc .linBitErr n else d
      match ch.event.filter fun _ => ch.bus == some x.ident with
      | none => d
      | some c =>
        let d := d.inc .linCollision n
        if d.b linSchedStatus_RUNNING n && ch.eventAt.isSome then d.setLin n { ch with coll := some c, late := false } else d
    else if d.f linFrame_DIR i = 2 ∧ x.data.length = d.f linFrame_LEN i ∧ d.portAsleep (80 + n) = false ∧ d.sleep.power ≠ .sleep then
      if d.actsAs (uLin n) ≠ stRun then d.refuse (uLin n)
      else if d.bwServes (80 + n) = false ∨ d.bwHolds (80 + n) x.stale = true ∨ d.rxLost (80 + n) x.stale = true then d
      else
        let enh := d.linEnhanced n x.ident
        let d := d.linPut n x.ident x.data
        let d := if d.busCommits (24 + x.data.length) x.ecc then d.inc .linRxFrames n else d
        d.busCommit (80 + n) (busFrame 4 (if enh then 16 else 0) (0x80 + 80 + n) 0 x.ident 0 0 0 x.data) x.time x.ecc
    else d
  d.linBusFree n

/-- No complete response in time (R323). -/
def linNoResponse (d : Dev) (n : Nat) : Dev :=
  match (d.lin n).bus with
  | none => d
  | some id =>
    let d := if d.b linCfg_ROLE n = false ∧ d.f linFrame_DIR (linIx n id) = 2 then d.inc .linNoResp n else d
    d.linBusFree n

/-- The channel takes a frame from its queues into the data buffer of its identifier (R320); one whose cells fail is dropped
(R229). An egress time is that of the next response of the identifier. (DEDUCED: assumption 33) -/
def linTake (d : Dev) (n : Nat) (ecc : Ecc) : Dev :=
  if !d.admits (uLin n) || !d.bwServes (80 + n) || d.bwHolds (80 + n) (d.lin n).bus.isSome || d.portAsleep (80 + n) then d
  else
    let d := (List.range 8).foldl (fun d c => d.residenceDrop (qNo (80 + n) c)) d
    match [7, 6, 5, 4, 3, 2, 1, 0].find? fun c => !(d.queue (qNo (80 + n) c)).isEmpty with
    | none => d
    | some c =>
      match d.takeHead (qNo (80 + n) c) with
      | (none, d) => d
      | (some x, d) =>
        let b := x.f.bytes
        let id := busId b
        let len := beAt b 8 2
        let ok := beAt b 0 1 % 8 == 4 && decide (id < 64) && d.f linFrame_DIR (linIx n id) == 1
          && len == d.f linFrame_LEN (linIx n id) && b.length == 24 + len
        let d := (d.bufEcc ecc).release x.f.grp
        if ecc.failing.isEmpty = false then (d.inc .bqPortEccDrop (80 + n)).tsMemory x
        else if ok then
          let d := (d.linStamp n id 0 3).linPut n id (b.drop 24)
          match x.ts with
          | some w => d.setLin n { d.lin n with ts := Sparse.set (fun _ => []) (d.lin n).ts id [w] }
          | none => d
        else (d.rejWr (uLin n)).tsDropped x

/-- REQ and STOP (R322). A STOP of a schedule that does not run has nothing to end and clears. -/
def linReq (d : Dev) (n t : Nat) : Dev :=
  ((d.sf linSchedCtl_REQ_TABLE n t).sf linSchedCtl_REQ n 1).sf linSchedStatus_PENDING n 1
def linStop (d : Dev) (n : Nat) : Dev :=
  d.sf linSchedCtl_STOP n (if d.b linSchedStatus_RUNNING n then 1 else 0)

/-- Whether the shown entry may take `v`: no reserved kind, and its table neither running nor requested (R322). -/
def linEntryOk (d : Dev) (n v : Nat) : Bool :=
  let t := d.f linSchedSel_TABLE n
  let run := d.b linSchedStatus_RUNNING n && (d.f linSchedStatus_TABLE n == t || (d.lin n).back.any fun b => b.1 == t)
  let req := d.b linSchedStatus_PENDING n && d.f linSchedCtl_REQ_TABLE n == t
  bits 31 29 v != 7 && !run && !req

/-- A write of LinSchedEntry (R322). -/
def linEntryWrite (d : Dev) (staged : Bool) (n v : Nat) : Dev :=
  if staged = false ∧ d.linEntryOk n v = false then d.rejWr (uLin n)
  else
    let t := d.f linSchedSel_TABLE n
    let v := setBits 23 16 (max 1 (bits 23 16 v)) (v &&& 0xFCFF003F)
    let k := n * 512 + t * 64 + d.f linSchedSel_ENTRY n
    { d with bus := { d.bus with linSched := Sparse.set linEntryDefault d.bus.linSched k v } }

end Dev

end Sys2Proof.Machine
end

