-- ==== Sys2Proof/Machine/KeyStore.lean ====
section
/-! DEFINITION. The key store (R369 to R378, R380): root secret, derived keys, slots, its commands, masks and entropy. -/
namespace Sys2Proof.Machine

def keyDefault (_ : Nat) : KeySlot := {}

/-- Results of a key store command (R375). -/
def ksOk : Nat := 0
def ksPermission : Nat := 1
def ksBadSlot : Nat := 2
def ksBadBlob : Nat := 3
def ksBadArg : Nat := 4
def ksNotExportable : Nat := 5
def ksNoEntropy : Nat := 6
def ksDenied : Nat := 7
def ksNoRoot : Nat := 8

/-- `n` bytes of a number, least significant first, and back. -/
def leOctets (n v : Nat) : List Nat := (leBytes n v).map BitVec.toNat
def ofLeOctets (b : List Nat) : Nat := ofOctets b.reverse

/-- Fields of an attribute word (R373). -/
def atValid (a : Nat) : Bool := bitAt 31 a
def atOwner (a : Nat) : Nat := bits 30 26 a
def atUsage (a : Nat) : Nat := bits 25 24 a
def atExport (a : Nat) : Bool := bitAt 23 a
def atKlen (a : Nat) : Nat := 16 + 8 * bits 22 21 a
def atPools (a : Nat) : Nat := bits 16 13 a
def atGeneral (a : Nat) : Bool := bitAt 17 a
def atCmac (a : Nat) : Bool := bitAt 18 a
def atKdf (a : Nat) : Bool := bitAt 19 a
def atWrap (a : Nat) : Bool := bitAt 20 a
def atGen (a : Nat) : Nat := bits 12 5 a

/-- A key with its length and the generation of its slot, as a token that waits for a core holds it. -/
def packKey (gen : Nat) (k : List Nat) : Nat := ofLeOctets k + k.length * 2 ^ 256 + gen * 2 ^ 264
def unpackKey (k : Nat) : List Nat := leOctets (k / 2 ^ 256 % 2 ^ 8) k
def packedGen (k : Nat) : Nat := k / 2 ^ 264

/-- The word of a command as CxKsCmd holds it. -/
def ksWord (cmd s aux : Nat) : Nat := s * 2 ^ 16 + aux * 2 ^ 4 + cmd

namespace Dev

/-! ### Root secret and derived keys -/

/-- The root secret: the bits of the bank with a valid CHECK, while STATE is PRESENT (R369, R372). -/
def rootSecret (d : Dev) : Option (List Nat) :=
  if d.f ksRoot_STATE 0 = 1 then
    (if d.cx.bankA.check.isSome then d.cx.bankA.bits else d.cx.bankB.bits).map (leOctets 32)
  else none

/-- The wrap key of user `u` at a generation (R371). -/
def wrapKey (d : Dev) (u gen : Nat) : Option (List Nat) :=
  d.rootSecret.map fun r => kdf r (ascii "XZ-WRAP") (u :: beOctets 2 gen) 256

/-- The lifecycle byte of R371; `none` in BLANK and RETIRED. The codes are those of MgLifecycle. -/
def lifecycleByte (d : Dev) : Option Nat :=
  match d.f mgLifecycle_STATE 0 with | 1 => some 1 | 2 => some 2 | _ => none

/-- The two identity seeds (R380). (DEDUCED: assumption 35) -/
def idSeed (d : Dev) (ml : Bool) : List Nat :=
  match d.rootSecret, d.lifecycleByte with
  | some r, some l => kdf r (ascii (if ml then "XZ-ID-ML" else "XZ-ID-ED")) [l] 256
  | _, _ => List.replicate 32 0

/-- `n` bytes of the DRBG: open values (R370). (DEDUCED: assumption 35) -/
def drbgBytes (d : Dev) (n : Nat) : List Nat × Dev :=
  let r := d.fresh (8 * n)
  (leOctets n r.1, r.2)

/-- Programming a bank of antifuses with a fresh root and checking it; `good` says whether the two KCVs agree (R369 steps 2 to
5). -/
def programBank (d : Dev) (good : Bool) (put : FuseBank → Crypto → Crypto) : Dev :=
  let (r, d) := d.drbgBytes 32
  let kcv := ofOctets (kdf r (ascii "XZ-KCV") [] 32)
  if good then
    let d := { d with cx := put { bits := some (ofLeOctets r), check := some kcv } d.cx }
    (d.wr .ksKcv 0 (BitVec.ofNat 32 kcv)).sf ksRoot_STATE 0 1
  else { d with cx := put { bits := some (ofLeOctets r) } d.cx }

/-- The key store has no root secret: its service block is FAULTED (R369). -/
def rootFault (d : Dev) : Dev :=
  (((d.sf ksRoot_STATE 0 3).setState uKs stFaulted).sf unitState_FAULT_CAUSE uKs 2).raise 7 (d.dirIndex uKs) 2

/-- Programming the root secret under its leave: bank A, or bank B once A is spent; `goodA` and `goodB` say whether each bank
programs (R369 steps 4 to 6). -/
def rootBank (d : Dev) (goodA goodB : Bool) : Dev :=
  if d.cx.bankA.bits.isNone then d.programBank goodA fun b c => { c with bankA := b }
  else
    let d := d.programBank goodB fun b c => { c with bankB := b }
    if d.f ksRoot_STATE 0 = 1 then d else d.rootFault

/-! ### Slots -/

def keySlot (d : Dev) (s : Nat) : KeySlot := Sparse.get keyDefault d.cx.keys s
def setKeySlot (d : Dev) (s : Nat) (k : KeySlot) : Dev :=
  { d with cx := { d.cx with keys := Sparse.set keyDefault d.cx.keys s k } }

/-- The attribute word of a slot. -/
def slotAttr (d : Dev) (s : Nat) : Nat := (d.rd .ksSlotAttr s).toNat

/-- The key a slot holds. -/
def slotKey (d : Dev) (s : Nat) : List Nat :=
  let k := d.keySlot s
  leOctets (atKlen (d.slotAttr s)) (k.masked ^^^ k.mask)

/-- Whether a register file has a block in flight under generation `gen` of slot `s` (R377). -/
def RegFile.usesSlot (s gen : Nat) (r : RegFile) : Bool :=
  r.tok.any fun t => t.2.busy && (match t.2.op with | some (.cipher _ _ x key _ _ _) => x == s && packedGen key == gen | _ => false)

/-- Whether any block in flight uses generation `gen` of slot `s`. -/
def slotInUse (d : Dev) (s gen : Nat) : Bool :=
  (d.eng.threads.any fun t => RegFile.usesSlot s gen t.2.rf) || d.eng.mc.any fun c => RegFile.usesSlot s gen c.2.rf

/-- A user's key store data buffer. -/
def ksBuf (d : Dev) (u : Nat) : List Nat := (List.range 16).flatMap fun w => leOctets 4 (d.rd .cxKsData (16 * u + w)).toNat

/-- Filling the data buffer with `b` and zeros; it is cleared after every command (R375). -/
def ksSetBuf (d : Dev) (u : Nat) (b : List Nat) : Dev :=
  (List.range 16).foldl (fun d w => d.wr .cxKsData (16 * u + w) (BitVec.ofNat 32 (ofLeOctets ((b.drop (4 * w)).take 4)))) d

/-- The end of a command: its result and the generation it left. -/
def ksEnd (d : Dev) (u slot res : Nat) (out : List Nat) : Dev :=
  ((d.ksSetBuf u out).sf cxKsStatus_RESULT u res).sf cxKsStatus_GEN u (atGen (d.slotAttr slot))

/-- Whether user `u` may act on slot `s` (R374). -/
def ksMayAct (d : Dev) (u s : Nat) : Bool :=
  u == 0 || u == 16 || decide (d.f ksQuota_BASE u ≤ s ∧ s < d.f ksQuota_BASE u + d.f ksQuota_COUNT u)

/-- Whether user `u` may write an attribute word (R374). -/
def ksMayOwn (u a : Nat) : Bool :=
  u == 16 || atOwner a == u || (u == 0 && atOwner a == 17)

/-- Whether an attribute word is well formed: an OWNER that exists and a key length that exists (R373). -/
def atOk (a : Nat) : Bool := decide (atOwner a ≤ 17) && bits 22 21 a != 3

/-- The switch point (R377): the new attributes and key of slot `s`, one more in GEN. BUSY stays while blocks of the old key are
in flight. -/
def ksSwitch (d : Dev) (u s : Nat) (attr : Nat) (key : Option (List Nat)) : Dev :=
  let old := d.keySlot s
  let now := atGen (d.slotAttr s)
  let used := d.slotInUse s now
  let gen := (now + 1) % 256
  let oldKey := if used then some (packKey now (d.slotKey s)) else none
  let (m, d) : Nat × Dev := match key with
    | some k => let r := d.drbgBytes k.length; (ofLeOctets r.1, r.2)
    | none => (0, d)
  let k := match key with | some k => ofLeOctets k | none => 0
  let d := d.setKeySlot s { masked := k ^^^ m, mask := m, old := if oldKey.isSome then oldKey else old.old,
                             oldAttr := if used then d.slotAttr s else old.oldAttr, erased := key.isNone }
  let word := setBits 12 5 gen (if key.isSome then setBits 31 31 1 attr / 32 * 32 else 0)
  let d := (d.wr .ksSlotAttr s (BitVec.ofNat 32 word)).ksEnd u s ksOk []
  if used then
    { d with cx := { d.cx with switching := (u, s) :: d.cx.switching } }.sf cxKsStatus_BUSY u 1
  else d

/-- Installing a key: the target slot must be empty or already of the attributes' OWNER, and the mask needs the DRBG (R375, R378).
(DEDUCED: assumption 35) -/
def ksInstall (d : Dev) (u s attr : Nat) (key : Dev → Option (List Nat) × Dev) (bad : Nat) : Dev :=
  let now := d.slotAttr s
  if atValid now && atOwner now != atOwner attr then d.ksEnd u s ksBadSlot []
  else if d.cx.drbg = false then d.ksEnd u s ksNoEntropy []
  else match key d with
    | (some k, d) => d.ksSwitch u s attr (some k)
    | (none, d) => d.ksEnd u s bad []

/-- The check that comes first in every command (R374). -/
def ksGuard (d : Dev) (u s : Nat) (go : Dev → Dev) : Dev :=
  if d.ksMayAct u s then go d else d.ksEnd u s ksPermission []

/-- The checks of a command that takes its attributes from CxKsAttr. -/
def ksAttrGuard (d : Dev) (u s : Nat) (go : Nat → Dev → Dev) : Dev :=
  d.ksGuard u s fun d =>
    let a := (d.rd .cxKsAttr u).toNat
    if ksMayOwn u a = false then d.ksEnd u s ksPermission []
    else if atOk a = false then d.ksEnd u s ksBadArg []
    else go a d

/-- LOAD (R376). -/
def ksLoad (d : Dev) (u s : Nat) : Dev :=
  d.ksGuard u s fun d =>
    let b := d.ksBuf u
    let le (o n : Nat) : Nat := ofLeOctets ((b.drop o).take n)
    let gen := le 4 2
    let ct := le 6 2
    if le 0 2 ≠ 0x4B42 ∨ le 2 1 ≠ 1 ∨ (ct ≠ 32 ∧ ct ≠ 40 ∧ ct ≠ 48) then d.ksEnd u s ksBadBlob []
    else if le 3 1 ≠ u ∨ (gen ≠ d.f ksWrapGen_CUR u ∧ gen ≠ d.f ksWrapGen_PREV u) then d.ksEnd u s ksBadBlob []
    else match d.wrapKey u gen with
      | none => d.ksEnd u s ksNoRoot []
      | some k =>
        match kwpUnwrap k ((b.drop 8).take ct) with
        | none => d.ksEnd u s ksBadBlob []
        | some p =>
          let a := ofLeOctets (p.take 4)
          if p.length ≠ 8 + atKlen a ∨ atValid a = false ∨ atGen a ≠ 0 ∨ ofLeOctets ((p.drop 4).take 4) ≠ 0 then d.ksEnd u s ksBadBlob []
          else if ksMayOwn u a = false then d.ksEnd u s ksPermission []
          else if atOk a = false then d.ksEnd u s ksBadBlob []
          else d.ksInstall u s a (fun d => (some (p.drop 8), d)) ksBadBlob

/-- GENERATE (R375). -/
def ksGenerate (d : Dev) (u s : Nat) : Dev :=
  d.ksAttrGuard u s fun a d => d.ksInstall u s a (fun d => let r := d.drbgBytes (atKlen a); (some r.1, r.2)) ksBadArg

/-- IMPORT (R375): only with CLEAR_IMPORT. -/
def ksImport (d : Dev) (u s : Nat) : Dev :=
  d.ksAttrGuard u s fun a d =>
    if d.b cxPageCfg_CLEAR_IMPORT u then d.ksInstall u s a (fun d => (some ((d.ksBuf u).take (atKlen a)), d)) ksBadArg
    else d.ksEnd u s ksPermission []

/-- Whether slot `x` may serve as an input of the page's user: it holds a key of that user, and `use` of its ENGINE is set. -/
def ksInput (d : Dev) (u x : Nat) (use : Nat → Bool) : Bool :=
  let a := d.slotAttr x
  atValid a && atOwner a == u && use a

/-- DERIVE (R371, R375). -/
def ksDerive (d : Dev) (u s aux : Nat) : Dev :=
  d.ksAttrGuard u s fun a d =>
    let b := d.ksBuf u
    let ll := b.getD 0 0
    let cl := b.getD 25 0
    if ll = 0 ∨ 24 < ll ∨ 38 < cl then d.ksEnd u s ksBadArg []
    else if d.ksInput u aux atKdf = false then d.ksEnd u s ksDenied []
    else d.ksInstall u s a (fun d => (some (kdf (d.slotKey aux) ((b.drop 1).take ll) ((b.drop 26).take cl) (atKlen a * 8)), d)) ksBadArg

/-- UNWRAP (R375). -/
def ksUnwrap (d : Dev) (u s aux : Nat) : Dev :=
  d.ksAttrGuard u s fun a d =>
    let b := d.ksBuf u
    let n := b.getD 63 0
    if n < 24 ∨ 48 < n then d.ksEnd u s ksBadArg []
    else if d.ksInput u aux atWrap = false then d.ksEnd u s ksDenied []
    else d.ksInstall u s a (fun d =>
      (match kwpUnwrap (d.slotKey aux) (b.take n) with
        | some k => if k.length = atKlen a then some k else none
        | none => none, d)) ksBadBlob

/-- WRAP_OUT (R375, R376). -/
def ksWrapOut (d : Dev) (u s : Nat) : Dev :=
  d.ksGuard u s fun d =>
    let a := d.slotAttr s
    if atValid a = false then d.ksEnd u s ksBadSlot []
    else if atOwner a ≠ u then d.ksEnd u s ksPermission []
    else if atExport a = false then d.ksEnd u s ksNotExportable []
    else
      let gen := d.f ksWrapGen_CUR u
      match d.wrapKey u gen with
      | none => d.ksEnd u s ksNoRoot []
      | some k =>
        let ct := kwpWrap k (leOctets 4 (setBits 12 5 0 a) ++ [0, 0, 0, 0] ++ d.slotKey s)
        d.ksEnd u s ksOk (leOctets 2 0x4B42 ++ [1, u] ++ leOctets 2 gen ++ leOctets 2 ct.length ++ ct)

/-- ERASE (R377). -/
def ksErase (d : Dev) (u s : Nat) : Dev := d.ksGuard u s fun d => d.ksSwitch u s 0 none

/-- READ_ATTR (R375). -/
def ksReadAttr (d : Dev) (u s : Nat) : Dev := d.ksGuard u s fun d => d.ksEnd u s ksOk (leOctets 4 (d.slotAttr s))

/-- The command of a word, by its code (R375). A code that the table does not have completes with BAD_ARG.
(DESIGN CHOICE: assumption 35) -/
def ksRun (d : Dev) (u v : Nat) : Dev :=
  let s := bits 27 16 v
  let aux := bits 15 4 v
  match v % 16 with
  | 1 => d.ksLoad u s
  | 2 => d.ksGenerate u s
  | 3 => d.ksImport u s
  | 4 => d.ksDerive u s aux
  | 5 => d.ksWrapOut u s
  | 6 => d.ksErase u s
  | 7 => d.ksUnwrap u s aux
  | 8 => d.ksReadAttr u s
  | _ => d.ksEnd u s ksBadArg []

/-- Whether slot `s` has a command that drains or waits (R377, R378). -/
def slotTaken (d : Dev) (s : Nat) : Bool :=
  (d.cx.switching.any fun e => e.2 == s) || d.cx.waiting.any fun e => e.2.1 == s

/-- A page issues a command: BUSY refuses it at the far side (R375), and one on a slot whose earlier command has not ended waits
for it with BUSY set (R378). (DESIGN CHOICE: assumption 14) -/
def ksIssue (d : Dev) (u v : Nat) : Dev :=
  let s := bits 27 16 v
  if d.b cxKsStatus_BUSY u then d
  else if d.slotTaken s ∧ 1 ≤ v % 16 ∧ v % 16 ≤ 8 then
    { d with cx := { d.cx with waiting := d.cx.waiting ++ [(u, s, v)] } }.sf cxKsStatus_BUSY u 1
  else d.ksRun u v

/-- The waiting commands go on in their order, each that no earlier one on its slot holds back. -/
def ksNext (d : Dev) : Dev :=
  let w := d.cx.waiting
  w.foldl (fun d e =>
    if d.slotTaken e.2.1 then { d with cx := { d.cx with waiting := d.cx.waiting ++ [e] } }
    else (d.sf cxKsStatus_BUSY e.1 0).ksRun e.1 e.2.2) { d with cx := { d.cx with waiting := [] } }

/-- The drain of R377 ends for the key command of page `u`, once no block under the old key is in flight: BUSY clears, the old key
is zeroed and a command behind it goes on. -/
def ksDrained (d : Dev) (u : Nat) : Dev :=
  match d.cx.switching.find? fun e => e.1 = u with
  | none => d
  | some (_, s) =>
    if (d.keySlot s).old.any fun k => d.slotInUse s (packedGen k) then d
    else
      let d := d.setKeySlot s { d.keySlot s with old := none }
      ({ d with cx := { d.cx with switching := d.cx.switching.filter fun e => e.1 ≠ u } }.sf cxKsStatus_BUSY u 0).ksNext

/-! ### Masks and entropy -/

/-- A sweep asks for leave (R378). A request that finds no place waits to be made again with the next sweep. -/
def remaskAsk (d : Dev) : Dev :=
  if d.cx.drbg = false then { d with cx := { d.cx with due := true } }
  else match d.paRequest 0 .remask 120 with
    | (some _, d) => { d with cx := { d.cx with sweep := 1, due := false } }
    | (none, d) => { d with cx := { d.cx with due := true } }

/-- PERIOD_MS has passed (R378). (DEDUCED: assumption 35) -/
def remaskDue (d : Dev) : Dev :=
  let d := if d.cx.sweep = 0 ∧ d.cx.due = false then d else (d.inc .ksRemaskLate 0).raise 25 0 0
  if d.cx.sweep = 0 then d.remaskAsk else { d with cx := { d.cx with due := true } }

/-- Leave for a sweep is granted; without random bits the sweep gives it back and waits (R370). -/
def remaskGranted (d : Dev) : Dev :=
  if d.cx.drbg then { d with cx := { d.cx with sweep := 2 } }
  else { d with cx := { d.cx with sweep := 0, due := true } }.paRelease 0 .remask

/-- A sweep completes: every valid slot has a fresh mask (R378). Without random bits it waits (R370). -/
def remaskDone (d : Dev) : Dev :=
  if d.cx.sweep = 2 ∧ d.cx.drbg = true then
    let d := d.cx.keys.foldl (fun d e =>
      if atValid (d.slotAttr e.1) then
        let n := atKlen (d.slotAttr e.1)
        let (m, d) := d.drbgBytes n
        let k := d.keySlot e.1
        d.setKeySlot e.1 { k with masked := k.masked ^^^ k.mask ^^^ ofLeOctets m, mask := ofLeOctets m }
      else d) d
    let d := { d with cx := { d.cx with sweep := 0 } }.paRelease 0 .remask
    if d.cx.due then d.remaskAsk else d
  else d

/-- A continuous health test fails (R370). -/
def entropyFail (d : Dev) : Dev :=
  if d.cx.drbg then ({ d with cx := { d.cx with drbg := false } }.inc .ksEntropyFail 0).raise 24 0 0 else d

/-- The start-up tests repeat (R370). -/
def entropyRetest (d : Dev) (pass : Bool) : Dev :=
  if d.cx.drbg = false ∧ pass then
    let d := { d with cx := { d.cx with drbg := true } }
    if d.cx.due ∧ d.cx.sweep = 0 then d.remaskAsk else d
  else d

/-- Whether KsQuota of user `u` may take `v`: within the slots, and off the range of every other user (R374). -/
def quotaOk (d : Dev) (u v : Nat) : Bool :=
  let b := bits 27 16 v
  let n := v % 2 ^ 13
  let clash := (List.range 18).any fun x => x != u && decide (0 < n) && decide (0 < d.f ksQuota_COUNT x)
    && decide (b < d.f ksQuota_BASE x + d.f ksQuota_COUNT x) && decide (d.f ksQuota_BASE x < b + n)
  decide (b + n ≤ 4096) && !clash

/-- A write of KsQuota (R374). -/
def quotaWrite (d : Dev) (staged : Bool) (u v : Nat) : Dev :=
  if staged = false ∧ d.quotaOk u v = false then d.rejWr uKs
  else d.wr .ksQuota u (BitVec.ofNat 32 (bits 27 16 v * 65536 + v % 2 ^ 13))

/-- A write of KsWrapGen.CUR (R376). -/
def wrapGenWrite (d : Dev) (u v : Nat) : Dev :=
  (d.sf ksWrapGen_PREV u (d.f ksWrapGen_CUR u)).sf ksWrapGen_CUR u (v % 65536)

/-! ### Blocks (R146, R351, R355) -/

/-- The pools that serve user `u`: those of its page, or for pinned blocks of U16 the one of their core (R351, R355).
(DEDUCED: assumption 35) -/
def userPools (d : Dev) (u : Nat) : Nat :=
  if u = 16 ∧ d.b cxPin_EN 0 then 2 ^ d.f cxCoreCfg_POOL (d.f cxPin_CORE 0) else d.f cxPageCfg_POOLS u

/-- The attributes a block issued under: those of its slot, or the ones before the last switch point (R377). -/
def blockAttr (d : Dev) (s key : Nat) : Nat :=
  if packedGen key = atGen (d.slotAttr s) then d.slotAttr s else (d.keySlot s).oldAttr

/-- The cores a block of user `u` under slot attributes `a` may run on, in RUN or not. -/
def blockCores (d : Dev) (u a : Nat) : List Nat :=
  (List.range 12).filter fun n =>
    bitAt (d.f cxCoreCfg_POOL n) (d.userPools u) && bitAt (d.f cxCoreCfg_POOL n) (atPools a)
      && (!(u == 16 && d.b cxPin_EN 0) || d.f cxPin_CORE 0 == n)

/-- The status with which a block is refused at issue, `none` when it may run (R146, R373). `cmacJob` says that the job is of
the CMAC/SecOC class. A slot that was erased answers STALE_KEY (R377); one that never held a key has no attributes that admit a
block. -/
def blockRefused (d : Dev) (u slot gen : Nat) (dec cmacJob : Bool) : Option Nat :=
  let a := d.slotAttr slot
  if gen ≠ atGen a ∨ (atValid a = false ∧ (d.keySlot slot).erased = true) then some 2
  else if atOwner a ≠ u ∨ bitAt (if dec then 1 else 0) (atUsage a) = false ∨ !(atGeneral a || (atCmac a && cmacJob))
      ∨ d.userPools u &&& atPools a = 0 then some 3
  else none

/-- One block under a key. -/
def blockResult (dec : Bool) (key block : Nat) : Nat :=
  let k := unpackKey key
  let b := beOctets 16 block
  ofOctets (if dec then aesDecrypt k b else aesEncrypt k b)

end Dev

end Sys2Proof.Machine
end

