-- ==== Sys2Proof/Machine/CryptoJobs.lean ====
section
/-! DEFINITION. Crypto user pages (R358 to R368): contexts, jobs, chunks, deliveries and completion records. -/
namespace Sys2Proof.Machine

def userDefault (_ : Nat) : CxUser := {}
def ctxDefault (_ : Nat) : CxCtx := {}

/-- Completion STATUS codes (R364). -/
def cxOk : Nat := 0
def cxIntegrity : Nat := 1
def cxStale : Nat := 2
def cxDenied : Nat := 3
def cxBadParam : Nat := 4
def cxBadJob : Nat := 5
def cxDmaError : Nat := 6
def cxDropped : Nat := 7
def cxMemory : Nat := 8
def cxException : Nat := 9
def cxNoPower : Nat := 10
def cxAborted : Nat := 11
def cxLength : Nat := 12
def cxNoService : Nat := 13

/-- Where a cluster's shared data begins in `Engines.cs`: 256 KiB for each. -/
def csBase (c : Nat) : Nat := c * 2 ^ 18

namespace Dev

def user (d : Dev) (u : Nat) : CxUser := Sparse.get userDefault d.cx.users u

/-- Storing a page, with QUEUED (CxJobQ). -/
def setUser (d : Dev) (u : Nat) (x : CxUser) : Dev :=
  { d with cx := { d.cx with users := Sparse.set userDefault d.cx.users u x } }.sf cxJobQ_QUEUED u x.jobs.length

def cxCtx (d : Dev) (u c : Nat) : CxCtx := Sparse.get ctxDefault (d.user u).ctxs c
def setCtx (d : Dev) (u c : Nat) (x : CxCtx) : Dev :=
  d.setUser u { d.user u with ctxs := Sparse.set ctxDefault (d.user u).ctxs c x }

/-- Whether a context is BUSY: a job that names it is not yet complete (R359). -/
def ctxBusy (d : Dev) (u c : Nat) : Bool := (d.user u).jobs.any fun j => j.ctx == c

/-- The job of a page by its number. -/
def cxJob? (d : Dev) (u no : Nat) : Option CxJob := (d.user u).jobs.find? fun j => decide (j.no = no)

def setJob (d : Dev) (u : Nat) (j : CxJob) : Dev :=
  d.setUser u { d.user u with jobs := (d.user u).jobs.map fun x => if x.no = j.no then j else x }

/-- The receive ring of a page's deliveries (R363). -/
def cxRing (u r : Nat) : Nat := 16 * u + r % 16

/-- A job ends: its completion record, counters, leave and vector (R363, R364). -/
def cxEnd (d : Dev) (u : Nat) (j : CxJob) (status detail outLen : Nat) : Dev :=
  let x := d.user u
  let d := d.setUser u { x with
    jobs := x.jobs.filter fun y => y.no ≠ j.no,
    done := x.done ++ [⟨j.id, status, detail, outLen, j.word⟩] }
  let d := d.inc (if status = cxOk then .cxJobsOk else .cxJobsErr) u
  let d := (d.paWithdraw 0 (.crypto u j.no)).paRelease 0 (.crypto u j.no)
  if u < 16 then d.sendVector u (d.f cxPageCfg_VECTOR u) else d

/-- The delivery of a job, where its ring still holds it: in the queue, and claimed. -/
def cxQueued (d : Dev) (u : Nat) (j : CxJob) : Bool :=
  (d.rx (cxRing u j.ring)).queue.any fun x => x.job == some (u, j.no)
def cxClaimed (d : Dev) (u : Nat) (j : CxJob) : Bool :=
  (d.rx (cxRing u j.ring)).claims.any fun x => x.d.job == some (u, j.no)

/-- Changing the delivery of a job. -/
def cxDelivery (d : Dev) (u : Nat) (j : CxJob) (f : Delivery → Delivery) : Dev :=
  let i := cxRing u j.ring
  let x := d.rx i
  let g (y : Delivery) : Delivery := if y.job = some (u, j.no) then f y else y
  d.setRx i { x with queue := x.queue.map g, claims := x.claims.map fun c => { c with d := g c.d } }

/-- The bytes of a delivery whose data so far is `out`. -/
def cxBytes (j : CxJob) : List Byte := slice j.out 0 j.outLen

/-- A job fails or completes with `status` (R363, R365). Before any of its output was claimed it makes no delivery; a claimed
delivery ends first, and the record follows it. (DEDUCED: assumption 26) -/
def cxFinish (d : Dev) (u : Nat) (j : CxJob) (status detail : Nat) : Dev :=
  if j.delivered = false then d.cxEnd u j status detail (if status = cxOk then j.out.length else 0)
  else if status = cxOk ∧ (d.cxQueued u j ∨ d.cxClaimed u j) then
    let d := d.cxDelivery u j fun x => { x with bytes := cxBytes j, ready := true }
    d.setJob u { j with stage := .delivering, status := status, detail := detail }
  else if d.cxClaimed u j then
    let d := d.cxDelivery u j fun x => { x with status := 1, ready := true, wrote := min j.out.length j.outLen }
    d.setJob u { j with stage := .delivering, status := status, detail := detail }
  else
    let i := cxRing u j.ring
    let was := d.cxQueued u j
    let d := d.setRx i { d.rx i with queue := (d.rx i).queue.filter fun x => x.job != some (u, j.no) }
    d.cxEnd u j (if status = cxOk ∧ was = false then cxDropped else status) detail 0

/-- Jobs whose delivery has left its ring: written out, so the job ends as it was to end, or dropped under R245 or R247, so it ends
DELIVERY_DROPPED (R363). -/
def cxSettle (d : Dev) : Dev :=
  (List.range 17).foldl (fun d u =>
    ((d.user u).jobs.filter fun j => j.delivered && !d.cxQueued u j && !d.cxClaimed u j).foldl (fun d j =>
      if j.stage = .delivering then d.cxEnd u j (if j.status = cxOk then cxDropped else j.status) j.detail 0
      else if j.stage = .chunk then d.cxEnd u j cxDropped 0 0
      else d.setJob u { j with status := cxDropped }) d) d

/-- The oldest claim of ring `i` is complete, or a cell failed after `wrote` bytes (R229, R251); a crypto job whose delivery it
was ends with it. While Bus Master of its function is off nothing is written (R447). -/
def rxWritten (d : Dev) (i wrote : Nat) (ecc : Ecc) : Dev :=
  match (d.rx i).claims with
  | [] => d
  | cl :: _ =>
    if cl.d.ready = false ∨ d.dmaGo (i / 16) = false then d
    else
      let mem := if ecc.failing.isEmpty then none else some wrote
      let d := (d.bufEcc ecc).rxComplete i mem
      match cl.d.job with
      | none => d
      | some (u, no) =>
        match d.cxJob? u no with
        | none => d
        | some j =>
          let st := if mem.isSome && j.status == cxOk then cxMemory else j.status
          d.cxEnd u j st j.detail (if st = cxOk then j.out.length else 0)

/-! ### Submission and start -/

/-- A write of CxJobCtl with GO (R360). -/
def cxSubmit (d : Dev) (u v : Nat) : Dev :=
  let x := d.user u
  if 16 ≤ x.jobs.length + x.done.length then d.rejWr (uPage u)
  else
    let j : CxJob := {
      no := x.next, id := v % 65536, ctx := bits 22 20 v, decrypt := bitAt 30 v, init := bitAt 29 v, final := bitAt 28 v,
      ring := bits 27 24 v, src := (d.rd .cxJobSrcHi u).toNat * 2 ^ 32 + (d.rd .cxJobSrcLo u).toNat,
      len := d.f cxJobLen_LEN u, outLen := d.f cxJobOut_OUT_LEN u, tag := d.f cxJobAad_TAG_LEN u, aad := d.f cxJobAad_AAD_LEN u }
    d.setUser u { x with jobs := x.jobs ++ [j], next := x.next + 1 }

/-- The payload length of a job (R360). -/
def cxPayload (j : CxJob) : Nat := if j.decrypt ∧ j.final then j.len - j.tag else j.len

/-- Whether R360 completes a job with BAD_JOB. -/
def cxBad (d : Dev) (u : Nat) (j : CxJob) : Bool :=
  decide (cxPayload j < j.aad) || decide (16 < j.tag) || (j.decrypt && j.final && decide (j.len < j.tag))
    || (decide (0 < j.outLen) && !d.b hrRxCfg_ENABLE (cxRing u j.ring))

/-- The next job that may start: queued, with no earlier job on its context (R360). (DEDUCED: assumption 43) -/
def cxStartable (d : Dev) (u : Nat) : Option CxJob :=
  let js := (d.user u).jobs
  js.find? fun j => decide (j.stage = .queued) && !(js.any fun y => decide (y.no < j.no) && y.ctx == j.ctx)

/-- The cores a job uses, for its leave (R67): those in RUN that are usable for its key and pools at the request.
(DESIGN CHOICE: assumption 52) -/
def cxCores (d : Dev) (u : Nat) (j : CxJob) : Nat :=
  ((d.blockCores u (d.slotAttr ((d.cxCtx u j.ctx).keyref % 4096))).filter fun n => d.admits (uAc n)).length

/-- A job starts (R360, R363): not while its page is QUIESCED (R368), nor in Sepia (R467). -/
def cxStart (d : Dev) (u : Nat) : Dev :=
  if d.admits (uPage u) = false ∨ d.inSepia then d
  else match d.cxStartable u with
    | none => d
    | some j =>
      if d.cxBad u j then d.cxEnd u j cxBadJob 0 0
      else if d.f mdPaCfg_BURST_BLOCKS 0 < cdiv (cxPayload j) 16 then
        match d.paRequest 0 (.crypto u j.no) (90 * d.cxCores u j) with
        | (none, d) => d.cxEnd u j cxNoPower 0 0
        | (some _, d) => d.setJob u { j with stage := .leave }
      else d.setJob u { j with stage := .chunk }

def cxGranted (d : Dev) (u no : Nat) : Dev :=
  match d.cxJob? u no with
  | some j => if j.stage = .leave then d.setJob u { j with stage := .chunk } else d
  | none => d

def cxRefused (d : Dev) (u no : Nat) : Dev :=
  match d.cxJob? u no with
  | some j => if j.stage = .leave then d.cxEnd u j cxNoPower 0 0 else d
  | none => d

/-! ### Chunks -/

/-- Bytes of the next chunk of a job (R361). -/
def cxChunkLen (j : CxJob) : Nat := min 4096 (cxPayload j - j.off)
def cxLastChunk (j : CxJob) : Bool := decide (cxPayload j ≤ j.off + 4096)

/-- Whether a cluster serves crypto jobs (R361). -/
def cxServes (d : Dev) (c : Nat) : Bool :=
  bitAt c (d.f cxSvcCfg_CLUSTERS 0) && d.clusterTakes feEngRole_CRYPTO c && d.f cxSvcCfg_SLOTS 0 != 0

/-- Whether staging slot `i` of cluster `c` is taken. -/
def cxSlotTaken (d : Dev) (c i : Nat) : Bool :=
  (List.range 17).any fun u => (d.user u).jobs.any fun j =>
    (decide (j.stage = .running) || decide (j.stage = .ended)) && j.cluster == c && j.slot == i

/-- The lowest cluster that serves and has a free slot, with the slot (R361). -/
def cxPlace (d : Dev) : Option (Nat × Nat) :=
  (List.range 8).findSome? fun c =>
    if d.cxServes c then
      ((List.range (d.f cxSvcCfg_SLOTS 0)).find? fun i => !d.cxSlotTaken c i).map fun i => (c, i)
    else none

/-- The offset of a staging slot in the cluster's shared data (R362). -/
def cxSlotOff (d : Dev) (i : Nat) : Nat := d.f cxSvcCfg_STAGE_OFF 0 * 256 + 0x1100 * i

/-- The page whose waiting chunk is served next, in ascending page order after the last one served, and that chunk's job (R361). The
chunks of a page whose function has Bus Master off wait, unless their job is to end (R446, R447). -/
def cxNextChunk (d : Dev) : Option (Nat × CxJob) :=
  ((List.range 17).map fun k => (d.cx.rr + 1 + k) % 17).findSome? fun u =>
    ((d.user u).jobs.find? fun j => decide (j.stage = .chunk) && (j.cut || d.dmaGo u)).map fun j => (u, j)

/-- The bytes of a job's next chunk with the received tag after it: as read from host memory, or from the SRAM for page 16 (R361,
R501). -/
def cxBytesIn (d : Dev) (u : Nat) (j : CxJob) (data : List Byte) : List Byte :=
  if u < 16 then data else d.sramGet (j.src + j.off) (cxChunkLen j + j.tag)

/-- The job arguments of a chunk (R362). -/
def cxArgs (d : Dev) (u slot : Nat) (j : CxJob) : List Nat :=
  let n := cxChunkLen j
  let fl (b : Bool) (i : Nat) : Nat := if b then 2 ^ i else 0
  [0x40000 + d.cxSlotOff slot,
   u + j.ctx * 2 ^ 5 + fl (j.init && decide (j.off = 0)) 8 + fl (j.final && cxLastChunk j) 9 + fl j.decrypt 10 + n * 2 ^ 16
     + min n (j.aad - j.off) * 2 ^ 32 + j.tag * 2 ^ 48,
   (d.cxCtx u j.ctx).keyref, j.off]

/-- A chunk is staged: `data` are the bytes read from host memory, `err` that the read failed (R361, R362). A job whose DMA a
Function Level Reset has stopped ends here (R446). -/
def cxStage (d : Dev) (err : Bool) (data : List Byte) : Dev :=
  if d.inSepia then d
  else match d.cxNextChunk with
    | none => d
    | some (u, j) =>
      if j.cut then d.cxFinish u j cxDmaError 0
      else if !((List.range 8).any d.cxServes) then d.cxFinish u j cxNoService 0
      else match d.cxPlace with
        | none => d
        | some (c, i) =>
          let d := { d with cx := { d.cx with rr := u } }
          if err then d.cxFinish u j cxDmaError 0
          else
            let n := cxChunkLen j
            let data := d.cxBytesIn u j data
            let base := csBase c + d.cxSlotOff i
            let fin := j.final && cxLastChunk j
            let cs := memSet d.eng.cs base (leBytes 128 (d.cxCtx u j.ctx).state)
            let cs := memSet cs (base + 0x80) [0]
            let cs := if fin && j.decrypt then memSet cs (base + 0x90) (slice data n j.tag) else cs
            let cs := memSet cs (base + 0x100) (slice data 0 n)
            let d := { d with eng := { d.eng with cs := cs } }
            let d := d.setJob u { j with stage := .running, cluster := c, slot := i, exc := none }
            d.setDispQ c (.crypto u j.no :: d.dispQ c)

/-- The program of a job's chunk ends, with the code of an exception or without one; the device then takes the chunk back.
(DEDUCED: assumption 26) -/
def cxProgramEnd (d : Dev) (u no : Nat) (exc : Option Nat) : Dev :=
  match d.cxJob? u no with
  | some j => d.setJob u { j with stage := .ended, exc := exc }
  | none => d

/-- The status for a nonzero RESULT; RESULT has no meaning above 4, so the status there is open (R362).
(DEDUCED: assumption 35) -/
def cxResultStatus (d : Dev) (r : Nat) : Nat × Dev :=
  match r with
  | 1 => (cxIntegrity, d) | 2 => (cxBadParam, d) | 3 => (cxStale, d) | 4 => (cxDenied, d)
  | _ => d.fresh 8

/-- The output of a chunk joins the job's delivery, which enters its ring with the first bytes (R363, R365). Answers whether the
ring took it. -/
def cxOutput (d : Dev) (u : Nat) (j : CxJob) : Bool × CxJob × Dev :=
  if j.outLen = 0 ∨ j.out.isEmpty = true then (true, j, d)
  else if j.delivered then (true, j, d.cxDelivery u j fun x => { x with bytes := cxBytes j })
  else
    let (ok, d) := d.rxEnqueue (cxRing u j.ring) { bytes := cxBytes j, crypto := true, ready := false, job := some (u, j.no) }
    (ok, { j with delivered := ok }, d)

/-- A chunk of page `u` is taken back after its program (R362, R363). -/
def cxChunkEnd (d : Dev) (u : Nat) (ecc : Ecc) : Dev :=
  match (d.user u).jobs.find? fun j => decide (j.stage = .ended) with
  | none => d
  | some j =>
    let base := csBase j.cluster + d.cxSlotOff j.slot
    let get (o n : Nat) : List Byte := memGet d.eng.cs (base + o) n
    let d := d.incBy .feEccCorr j.cluster ecc.corrected
    if ecc.failing.isEmpty = false then (d.memoryError 12 j.cluster 0).cxFinish u { j with stage := .chunk } cxMemory 0
    else
      let st := leNat (get 0 128)
      let res := leNat (get 0x80 1)
      let n := leNat (get 0x82 2)
      let tag := if j.final && cxLastChunk j && !j.decrypt then get 0x90 j.tag else []
      let j := { j with word := leNat (get 0x84 4), stage := .chunk }
      let d := d.setCtx u j.ctx { d.cxCtx u j.ctx with state := st }
      match j.exc with
      | some code => d.cxFinish u j cxException code
      | none =>
        if res ≠ 0 then
          let (s, d) := d.cxResultStatus res
          d.cxFinish u j s 0
        else if j.status = cxDropped then d.cxEnd u j cxDropped 0 0
        else
          let last := cxLastChunk j
          let j := { j with out := j.out ++ get 0x100 (min n 4096) ++ tag, off := j.off + 4096 }
          match d.cxOutput u j with
          | (false, j, d) => d.cxEnd u j cxDropped 0 0
          | (true, j, d) =>
            if last = false then d.setJob u j
            else d.cxFinish u j (if j.out.length = j.outLen then cxOk else cxLength) 0

/-- POP of the completion FIFO (R364). -/
def cxPop (d : Dev) (u : Nat) : Dev := d.setUser u { d.user u with done := (d.user u).done.drop 1 }

/-- CxDone of a page, word `w`. -/
def cxDoneWord (d : Dev) (u w : Nat) : Nat :=
  match (d.user u).done with
  | [] => 0
  | r :: rest =>
    match w with
    | 0 => 2 ^ 31 + (rest.length + 1) * 2 ^ 16 + r.id
    | 1 => r.detail % 256 * 256 + r.status % 256
    | 2 => r.outLen
    | _ => r.word

/-! ### Context images (R367) -/

def ctxAddr (d : Dev) (u : Nat) : Nat := (d.rd .cxCtxAddrHi u).toNat * 2 ^ 32 + (d.rd .cxCtxAddrLo u).toNat / 8 * 8

/-- A command on the selected context: not while the context is BUSY (R359). (DEDUCED: assumption 35) -/
def ctxGuard (d : Dev) (u : Nat) (go : Nat → Dev → Dev) : Dev :=
  let c := d.f cxCtxSel_CTX u
  if d.ctxBusy u c then d.rejWr (uPage u) else go c d

/-- The clear body of an image. -/
def ctxBody (u : Nat) (x : CxCtx) : List Nat :=
  [x.mode, u, 0, 0] ++ leOctets 4 x.keyref ++ List.replicate 24 0 ++ leOctets 128 x.state

/-- SAVE. Without a root secret a wrapped image cannot be made: BAD_IMAGE. (DEDUCED: assumption 35) -/
def ctxSave (d : Dev) (u : Nat) : Dev :=
  d.ctxGuard u fun c d =>
    let body := ctxBody u (d.cxCtx u c)
    let put (d : Dev) (img : List Nat) : Dev :=
      let bs := img.map byteOf
      (if u < 16 then d.hostDma u (d.ctxAddr u) bs
       else { d with eng := { d.eng with sram := memSet d.eng.sram (d.ctxAddr u % 2 ^ 22) bs } }).sf cxCtxCmd_RESULT u 0
    if d.b cxPageCfg_CLEAR_CTX u then
      put d (leOctets 2 0x4358 ++ [2, 0] ++ leOctets 2 0 ++ leOctets 2 160 ++ List.replicate 8 0 ++ body)
    else match d.wrapKey u (d.f ksWrapGen_CUR u) with
      | none => d.sf cxCtxCmd_RESULT u 3
      | some k =>
        put d (leOctets 2 0x4358 ++ [3, 0] ++ leOctets 2 (d.f ksWrapGen_CUR u) ++ leOctets 2 168 ++ List.replicate 8 0 ++ kwpWrap k body)

/-- The context an image restores, `none` for BAD_IMAGE. -/
def ctxImage (d : Dev) (u : Nat) (img : List Nat) : Option CxCtx :=
  let le (b : List Nat) (o n : Nat) : Nat := ofLeOctets ((b.drop o).take n)
  let fmt := img.getD 2 0
  let gen := le img 4 2
  let body : Option (List Nat) :=
    if le img 0 2 ≠ 0x4358 ∨ fmt / 2 ≠ 1 then none
    else if fmt % 2 = 0 then (if d.b cxPageCfg_CLEAR_CTX u ∧ le img 6 2 = 160 then some ((img.drop 16).take 160) else none)
    else if (gen = d.f ksWrapGen_CUR u ∨ gen = d.f ksWrapGen_PREV u) ∧ le img 6 2 = 168 then
      match d.wrapKey u gen with
      | some k => kwpUnwrap k ((img.drop 16).take 168)
      | none => none
    else none
  match body with
  | some b => if b.getD 1 255 = u then
      some { mode := b.getD 0 0 % 32, keyref := le b 4 4 % 2 ^ 20, state := le b 32 128 } else none
  | none => none

/-- RESTORE from the bytes read, for page 16 from the SRAM (R501); `err` says that the read failed. While Bus Master is off
nothing is read, and the command waits (R447). (DEDUCED: assumption 41) -/
def ctxRestore (d : Dev) (u : Nat) (err : Bool) (img : List Byte) : Dev :=
  d.ctxGuard u fun c d =>
    let img := if u < 16 then img else d.sramGet (d.ctxAddr u) 184
    if !d.dmaGo u then d
    else if err then d.sf cxCtxCmd_RESULT u 2
    else match d.ctxImage u ((slice img 0 184).map BitVec.toNat) with
      | none => d.sf cxCtxCmd_RESULT u 3
      | some x => (d.setCtx u c x).sf cxCtxCmd_RESULT u 0

/-- CLEAR. -/
def ctxClear (d : Dev) (u : Nat) : Dev := d.ctxGuard u fun c d => (d.setCtx u c {}).sf cxCtxCmd_RESULT u 0

/-- A Function Level Reset stops the DMA of page `u` (R446): a job that waits for its next chunk ends, and a running one ends
when it needs another. (DEDUCED: assumption 41) -/
def cxCut (d : Dev) (u : Nat) : Dev :=
  (d.user u).jobs.foldl (fun d j =>
    match j.stage with
    | .chunk | .leave => d.cxFinish u j cxDmaError 0
    | .running | .ended => d.setJob u { j with cut := true }
    | _ => d) d

/-- RESTART of a page (R368). -/
def cxPageRestart (d : Dev) (u : Nat) : Dev :=
  let d := ((d.user u).jobs.filter fun j => decide (j.stage = .queued)).foldl (fun d j => d.cxEnd u j cxAborted 0 0) d
  d.setUser u { d.user u with ctxs := [] }

end Dev

end Sys2Proof.Machine
end

