-- ==== Sys2Proof/Machine/Threads.lean ====
section
/-! DEFINITION. The threads of the frame engines and the management cores as the rest of the device sees them: register files
and tokens (R77, R92), the hand-over of jobs (R71, R72, R167, R168), their ends and exceptions (R95, R99, R100), the drops of a
faulted engine (R39), and the pairs that run as one (R454). -/
namespace Sys2Proof.Machine

/-- (DESIGN CHOICE: assumption 3) -/
def thrDefault (_ : Nat) : Thread := {}
/-- (DESIGN CHOICE: assumption 3) -/
def mcDefault (_ : Nat) : McCore := {}
def setDefault (_ : Nat) : SetImage := {}
def tokDefault (_ : Nat) : Tok := {}

/-- The number of a hart: thread `4n + t` of engine `n`, and 256 + c for a management core. -/
def hartKey : Hart → Nat
  | .fe n t => 4 * n.val + t.val
  | .mc c => 256 + c.val

/-- Exception codes of R98. -/
def excIllegal : Nat := 1
def excAlign : Nat := 2
def excBounds : Nat := 3
def excBranch : Nat := 4
def excBudget : Nat := 5
def excWaitTmo : Nat := 6
def excToken : Nat := 7
def excPort : Nat := 8
def excRedip2 : Nat := 9
def excNoEntry : Nat := 10
def excMemory : Nat := 11
def excTrap : Nat := 12
def excFarside : Nat := 13
def excSvreq : Nat := 14

/-- Token status codes of R94. -/
def tokOk : Nat := 0
def tokMiss : Nat := 1
def tokStaleKey : Nat := 2
def tokKeyDenied : Nat := 3
def tokDenied : Nat := 4
def tokTooFar : Nat := 5
def tokNoObject : Nat := 6
def tokOverwritten : Nat := 7
def tokMemory : Nat := 8

namespace Dev

def thr (d : Dev) (n t : Nat) : Thread := Sparse.get thrDefault d.eng.threads (4 * n + t)

def setThr (d : Dev) (n t : Nat) (x : Thread) : Dev :=
  { d with eng := { d.eng with threads := Sparse.set thrDefault d.eng.threads (4 * n + t) x } }

def mcCore (d : Dev) (c : Nat) : McCore := Sparse.get mcDefault d.eng.mc c

def setMc (d : Dev) (c : Nat) (x : McCore) : Dev :=
  { d with eng := { d.eng with mc := Sparse.set mcDefault d.eng.mc c x } }

def setImg (d : Dev) (c s : Nat) : SetImage := Sparse.get setDefault d.eng.sets (4 * c + s)

/-! ### Interrupt lines and WFI of the management cores (R114, R115, R157) -/

/-- Whether a line of core `c` is pending: lines 0 to 30 from the event controller, line 31 while TD0 is at least ALARM
(R114, R115). (DEDUCED: assumption 20) -/
def mcPends (d : Dev) (c l : Nat) : Bool :=
  if l = 31 then decide ((d.mcCore c).alarm ≤ d.domNow 0) else d.linePending l

/-- The lowest pending line whose IRQMASK bit is 1. (DEDUCED: assumption 20) -/
def mcLine (d : Dev) (c : Nat) : Option Nat :=
  (List.range 32).find? fun l => bitAt l (d.mcCore c).irqMask && d.mcPends c l

/-- Entering the trap handler (R115): `why` is TRAPWHY and `entry` the offset from TRAPBASE. (DESIGN CHOICE: assumption 19) -/
def mcTrap (d : Dev) (c : Nat) (why entry : Nat) : Dev :=
  let x := d.mcCore c
  let kept := x.ctl % 2 * 2 + x.ctl / 16 % 2 * 32
  let r : RegFile := { x.rf with pc := BitVec.ofNat 64 (x.trapBase + entry) }
  d.setMc c { x with trapPc := x.rf.pc.toNat, trapWhy := why, ctl := 16 + kept, st := .ready, held := none, rf := r }

/-- Taking the interrupt of line `l` between two instructions. What TRAPADDR holds after it is open. (DEDUCED: assumption 20) -/
def mcInterrupt (d : Dev) (c l : Nat) : Dev :=
  let (v, d) := d.fresh 32
  (d.setMc c { d.mcCore c with trapAddr := v }).mcTrap c (256 + l) 0x100

/-- A core in WFI: blocked, with no far-side store of its own outstanding. -/
def inWfi (d : Dev) (c : Nat) : Bool := (d.mcCore c).st == .blocked && (d.mcCore c).far.isNone

/-- WFI completes with a line that is pending and unmasked, and with IRQ_ON = 1 the core takes the interrupt before its next
instruction (R115, R157). It is applied before anything that could see the core, or end the line. (DEDUCED: assumption 20) -/
def mcWake (d : Dev) (c : Nat) : Dev :=
  if d.inWfi c then
    match d.mcLine c with
    | some l =>
      let x := d.mcCore c
      let d := d.setMc c { x with st := .ready, rf := { x.rf with pc := x.rf.pc + 4 }, retCount := x.retCount + 1 }
      if bitAt 0 x.ctl then d.mcInterrupt c l else d
    | none => d
  else d

/-- Both cores, before interrupt lines change. -/
def coresWake (d : Dev) : Dev := (d.mcWake 0).mcWake 1

/-! ### Pairs -/

/-- LsPair.STATE codes (R454). -/
def pairSplit : Nat := 0
def pairPaired : Nat := 1
def pairHandover : Nat := 2
def pairFaulted : Nat := 3

/-- Whether pair `k` runs in lockstep: PAIRED, or a split still draining (R458). What its halves share is then held once,
in FE2k or MC0. (DEDUCED: assumption 23) -/
def lockstep (d : Dev) (k : Nat) : Bool :=
  d.f lsPair_STATE k == pairPaired
    || (d.f lsPair_STATE k == pairHandover && Sparse.get (fun _ => 0) d.safe.handover k == 2)

/-- The engine that holds the threads of engine `n`. (DEDUCED: assumption 23) -/
def leadEng (d : Dev) (n : Nat) : Nat := if n % 2 = 1 ∧ d.lockstep (n / 2) then n - 1 else n

/-- Whether engine `n` follows another in lockstep. (DEDUCED: assumption 23) -/
def follows (d : Dev) (n : Nat) : Bool := n % 2 == 1 && d.lockstep (n / 2)

/-- Counting one at an engine, and at the other half of a pair in lockstep. -/
def incEng (d : Dev) (c : Ctr) (n : Nat) : Dev :=
  if n % 2 = 0 ∧ d.lockstep (n / 2) then (d.inc c n).inc c (n + 1) else d.inc c n

/-! ### Register files and tokens -/

/-- The register file of a hart. -/
def rf (d : Dev) : Hart → RegFile
  | .fe n t => (d.thr n.val t.val).rf
  | .mc c => (d.mcCore c.val).rf

def setRf (d : Dev) (h : Hart) (r : RegFile) : Dev :=
  match h with
  | .fe n t => d.setThr n.val t.val { d.thr n.val t.val with rf := r }
  | .mc c => d.setMc c.val { d.mcCore c.val with rf := r }

end Dev

/-- g[n]; g0 reads 0 (R77). -/
def RegFile.get (r : RegFile) (n : Nat) : Word64 := if n = 0 then 0 else Sparse.get (fun _ => 0) r.g n
def RegFile.put (r : RegFile) (n : Nat) (v : Word64) : RegFile :=
  if n = 0 then r else { r with g := Sparse.set (fun _ => 0) r.g n v }

/-- p[n]; p0 reads true (R77). -/
def RegFile.pget (r : RegFile) (n : Nat) : Bool := n == 0 || Sparse.get (fun _ => false) r.p n
def RegFile.pput (r : RegFile) (n : Nat) (v : Bool) : RegFile :=
  if n = 0 then r else { r with p := Sparse.set (fun _ => false) r.p n v }

def RegFile.tokAt (r : RegFile) (k : Nat) : Tok := Sparse.get tokDefault r.tok k
def RegFile.setTok (r : RegFile) (k : Nat) (x : Tok) : RegFile := { r with tok := Sparse.set tokDefault r.tok k x }

/-- Registers written from `n` on. -/
def RegFile.putSpan (r : RegFile) : Nat → List Nat → RegFile
  | _, [] => r
  | n, v :: vs => (r.put n (BitVec.ofNat 64 v)).putSpan (n + 1) vs

/-- The busy tokens in ascending order, with what they stand for. -/
def RegFile.busy (r : RegFile) : List (Nat × TokOp) :=
  r.tok.filterMap fun e => if e.2.busy then e.2.op.map fun o => (e.1, o) else none

/-- The registers a busy token has still to write (R92). -/
def TokOp.results : TokOp → List Nat
  | .ruleSearch rd _ _ | .lookup rd _ _ _ _ | .cipher rd _ _ _ _ _ _ => [rd, rd + 1]
  | .object 0 rd _ _ _ _ => (List.range 9).map (rd + ·)
  | .object _ _ _ _ _ _ => []
  | .leave rd _ => [rd]
  | .alarm _ _ => []

/-- Whether register `n` waits for a busy token (R75, R92). -/
def RegFile.pending (r : RegFile) (n : Nat) : Bool := n != 0 && r.busy.any fun e => e.2.results.contains n

namespace Dev

/-! ### Operations that stand once issued (R95) -/

/-- A lookup of a table and its learn (R143, R144): status and the two result words. `learn` gives %frame_port and the
stamp of %rx_time (R199); `failed` says that it met a failing location, which makes a miss MEMORY (R207). -/
def lookupDo (d : Dev) (table epoch k0 k1 : Nat) (learn : Option (Nat × Nat)) (failed : Bool) : LookupResult × Dev :=
  let (r, d) := d.lookup table epoch k0 k1
  let r := if failed && r.status == 1 then lookupMemory else r
  match learn with
  | some (port, stamp) =>
    if r.status = 1 ∨ (r.status = 0 ∧ r.r0 % 128 ≠ port) then (r, d.learnSubmit (k0 % 2 ^ 60) port stamp) else (r, d)
  | none => (r, d)

/-- The epoch of a hart's job; a management core works in the current one. -/
def hartEpoch (d : Dev) : Hart → Nat
  | .fe n t => (d.thr n.val t.val).epoch
  | .mc _ => d.epoch

/-- Port and learn stamp of a hart's frame. -/
def hartLearn (d : Dev) (h : Hart) (learn : Bool) : Option (Nat × Nat) :=
  match h with
  | .fe n t =>
    let fr := (d.thr n.val t.val).src
    if learn then some (fr.port, bits 41 10 fr.rxTime) else none
  | .mc _ => none

/-- An object operation at its one instant (R148, R149): status and result words, none without an object. Kinds: 0 MOR, 1 MOW,
2 MOACK. -/
def objectDo (d : Dev) (kind chan fmt ident : Nat) (words : List Nat) : Nat × List Nat × Dev :=
  match d.objFind chan fmt ident with
  | none => (tokNoObject, [], d)
  | some o =>
    let x := d.obj o
    match kind with
    | 0 =>
      let data := (List.range 8).map fun i => beAt x.data (8 * i) 8
      (if x.overwritten then tokOverwritten else tokOk, objHeader x :: data, d)
    | 1 =>
      let n := min 64 (words.headD 0 % 128)
      (tokOk, [], d.objUpdate o (((words.drop 1).flatMap (beBytes 8)).take n))
    | _ => (tokOk, [], d.objAck o)

/-- The effects that a half stopped by a debug split would have outside itself are discarded and counted (R460).
(DEDUCED: assumption 22) -/
def shadowed (d : Dev) (h : Hart) : Bool :=
  match h with
  | .fe n t => (d.thr n.val t.val).shadow
  | .mc c => d.safe.discarded.contains (64 + c.val)

def outward (d : Dev) (h : Hart) (f : Dev → Dev) : Dev := if d.shadowed h then d.inc .lsDebugDiscard 0 else f d

/-- A hit counts in the rule's ClsRuleHits (R174). (DEDUCED: assumption 25) -/
def countHit (d : Dev) (h : Hart) (hit : Option Nat) : Dev :=
  match hit with
  | some n => d.outward h fun d => d.inc .clsRuleHits n
  | none => d

/-- A busy operation whose result is discarded: its effects outside the thread stand (R95), the hit of a search (R174) and the
block a core works on (CxCoreBlocks) among them. (DEDUCED: assumption 27) -/
def opSettle (d : Dev) (h : Hart) : TokOp → Dev
  | .ruleSearch _ hit _ => d.countHit h hit
  | .lookup _ table k0 k1 learn => d.outward h fun d => (d.lookupDo table (d.hartEpoch h) k0 k1 (d.hartLearn h learn) false).2
  | .object 0 _ _ _ _ _ => d
  | .object kind _ chan fmt ident words => d.outward h fun d => (d.objectDo kind chan fmt ident words).2.2
  | .cipher _ _ _ _ _ _ (some k) => d.inc .cxCoreBlocks k
  | .cipher _ _ _ _ _ _ none | .leave _ _ | .alarm _ _ => d

/-- Discarding the results of a hart's busy tokens. (DEDUCED: assumption 27) -/
def tokSettle (d : Dev) (h : Hart) : Dev := (d.rf h).busy.foldl (fun d e => d.opSettle h e.2) d

/-! ### Ends of jobs -/

/-- The value FeThrState shows for a thread. -/
def thrCode : ThrState → Nat
  | .idle => 0 | .ready => 1 | .interlock => 2 | .wait => 3 | .blocked => 4 | .halted => 5

/-- FeThrState of an engine: a follower shows its leader. -/
def thrStates (d : Dev) (n : Nat) : Nat :=
  ((List.range 4).map fun t => thrCode (d.thr (d.leadEng n) t).st * 2 ^ (4 * t)).sum

/-- A thread ends its job and is IDLE; local data stay (R73). The job's latency is a sample of source 2 (R470). -/
def jobEnd (d : Dev) (n t : Nat) : Dev :=
  let x := d.thr n t
  let d := d.setThr n t {}
  if x.shadow then d
  else (d.incEng .feEngJobs n).monFeed 2 (fun sel => sel % 256 == x.entry0 && bitAt (n / 8) (sel / 256)) (d.ns - x.start)

/-- The id of thread `t` of engine `n`. -/
def threadId (n t : Nat) : Nat := 4 * n + t

/-- Exception `code` at `pc` in a thread (R99, R100): the output packet rewinds, and a frame goes to the slow path as it stood
at the start of the pass. `tcode` is the code of TRAP. The outputs of a halted half are discarded (R460). -/
def excFe (d : Dev) (n t code pc tcode : Nat) : Dev :=
  let x := d.thr n t
  if x.shadow then (d.inc .lsDebugDiscard 0).jobEnd n t
  else
    let d := (d.inc .feExc code).tokSettle (.fe (Fin.ofNat 64 n) (Fin.ofNat 4 t))
    match x.kind with
    | .frame =>
      let d := d.release x.outGrp
      let trap := code = excTrap
      let q := if trap then bits 11 10 tcode else d.fE x.epoch feSlowCause_EXC 0
      let fr := { x.src with cls := x.cls }
      let rec' := trapRecord (if trap then 3 else 2) code (if trap then tcode else 0) pc (threadId n t) fr
      (d.slowPath q { x.src with cls := x.cls } rec').jobEnd n t
    | .trigger => (d.raise 13 ((x.job.map (·.1)).getD 0) code).jobEnd n t
    | .crypto =>
      (match x.job with
        | some (u, no) => d.cxProgramEnd u no (some code)
        | none => d).jobEnd n t

/-- What is on a thread when its engine enters FAULTED is not executed again (R39). The spec gives no DETAIL for a crypto
job that ends this way. (DEDUCED: assumption 22) -/
def dropThread (d : Dev) (n t : Nat) : Dev :=
  let x := d.thr n t
  if x.st = .idle then d
  else if x.shadow then d.setThr n t {}
  else
    let d := d.tokSettle (.fe (Fin.ofNat 64 n) (Fin.ofNat 4 t))
    match x.kind with
    | .frame => (((d.release x.outGrp).dropFrame x.src).refuse (uEng n)).jobEnd n t
    | .trigger => d.jobEnd n t
    | .crypto =>
      match x.job with
      | some (u, no) =>
        let (v, d) := d.fresh 8
        (d.cxProgramEnd u no (some v)).jobEnd n t
      | none => d.jobEnd n t

def dropThreads (d : Dev) (n : Nat) : Dev := (List.range 4).foldl (fun d t => d.dropThread n t) d

/-- Whether every thread of an engine is IDLE (R544). -/
def engIdle (d : Dev) (n : Nat) : Bool := (List.range 4).all fun t => (d.thr (d.leadEng n) t).st == .idle

/-! ### Local data and program store -/

/-- The places of the engine memories in `Engines.ld`, `cs` and `ps`. -/
def ldKey (n t off : Nat) : Nat := (4 * n + t) * 4096 + off
def csKey (c off : Nat) : Nat := c * 2 ^ 18 + off
def psKey (c off : Nat) : Nat := c * 2 ^ 18 + off

/-- The index in `Engines.bad` of a byte of LD, CS or PS with an uncorrectable error. (DEDUCED: assumption 21) -/
def ldBad (n t off : Nat) : Nat := ldKey n t off
/-- (DEDUCED: assumption 21) -/
def csBad (c off : Nat) : Nat := 2 ^ 22 + csKey c off
/-- (DEDUCED: assumption 21) -/
def psBad (c off : Nat) : Nat := 2 ^ 23 + psKey c off

/-- Zeroing `n` bytes of a memory. (DESIGN CHOICE: assumption 2) -/
def memZero (m : Sparse Byte) (a n : Nat) : Sparse Byte := m.filter fun e => decide (e.1 < a ∨ a + n ≤ e.1)

/-- The four partitions of an engine hold LD_INIT, zeros after it (R46, R108). (DEDUCED: assumption 24) -/
def ldLoad (d : Dev) (n : Nat) (ini : List Byte) : Dev :=
  let ld := memZero d.eng.ld (ldKey n 0 0) 16384
  let ld := (List.range 4).foldl (fun m t => memSet m (ldKey n t 0) ini) ld
  let bad := d.eng.bad.filter fun e => decide (e.1 < ldKey n 0 0 ∨ ldKey n 0 0 + 16384 ≤ e.1)
  { d with eng := { d.eng with ld := ld, bad := bad } }

/-- The engine is reset: threads IDLE, local data from the set that its cluster selects (R46, R546). -/
def engReset (d : Dev) (n : Nat) : Dev :=
  let d := (List.range 4).foldl (fun d t => d.setThr n t {}) d
  d.ldLoad n (d.setImg (n / 8) (d.f feSetSel_SLOT (n / 8))).ldInit

/-- Copying the local data and threads of FE`a` to FE`b`; the copies' outputs are discarded when `shadow` (R458, R460).
(DEDUCED: assumption 23) -/
def engCopy (d : Dev) (a b : Nat) (shadow : Bool) : Dev :=
  let ld := memZero d.eng.ld (ldKey b 0 0) 16384
  let part := d.eng.ld.filter fun e => decide (ldKey a 0 0 ≤ e.1 ∧ e.1 < ldKey a 0 0 + 16384)
  let ld := part.foldl (fun m e => Sparse.set (fun _ => 0) m (e.1 - ldKey a 0 0 + ldKey b 0 0) e.2) ld
  let d := { d with eng := { d.eng with ld := ld } }
  (List.range 4).foldl (fun d t =>
    let x := d.thr a t
    d.setThr b t (if shadow && x.st != .idle then { x with shadow := true, outGrp := 0 } else if shadow then x else {})) d

/-! ### Hand-over of jobs (R167, R168) -/

/-- Whether an engine may be given a job of a role: RUN, the role, not stopped by a debug split, no hand-over of its pair
(R458, R460), and it leads its pair. -/
def engFor (d : Dev) (role : RField) (n : Nat) : Bool :=
  d.engTakes role n && !d.follows n && !d.safe.discarded.contains n && d.f lsPair_STATE (n / 2) != pairHandover
    && d.f lsPair_STATE (n / 2) != pairFaulted

/-- The lowest idle thread of an engine. -/
def idleThread (d : Dev) (n : Nat) : Option Nat := (List.range 4).find? fun t => (d.thr n t).st == .idle

/-- The engine of cluster `c` that is next in turn among those that take a role and have an idle thread (R167). -/
def nextEngine (d : Dev) (c : Nat) (role : RField) (only : Option Nat) : Option (Nat × Nat) :=
  let last := Sparse.get (fun _ => 7) d.path.rr c
  ((List.range 8).map fun i => 8 * c + (last + 1 + i) % 8).findSome? fun n =>
    if d.engFor role n && (match only with | some k => n / 2 == k | none => true) then
      (d.idleThread n).map fun t => (n, t)
    else none

/-- The role a work item needs, and whether Sepia lets it start (R466, R467). -/
def workRole : Work → RField
  | .frame _ => feEngRole_FRAME
  | .trigger _ _ _ => feEngRole_TRIGGER
  | .crypto _ _ => feEngRole_CRYPTO

def workStarts (d : Dev) : Work → Bool
  | .frame _ => true
  | .trigger tt _ _ => !d.inSepia || bitAt tt (d.f lsSepiaTrig_TRIGGERS 0)
  | .crypto _ _ => !d.inSepia

/-- The pair that Sepia leaves the work to. -/
def sepiaOnly (d : Dev) : Option Nat := if d.inSepia then some (d.f lsSepiaCfg_PAIR 0) else none

/-- The place in the queue of the work that goes next, with its engine and thread: queue order, but first and second passes
take turns while both wait (R168). (DEDUCED: assumption 25) -/
def nextWork (d : Dev) (c : Nat) : Option (Nat × Work × Nat × Nat) :=
  let q := d.dispQ c
  let both := q.any (isPass 0) && q.any (isPass 1)
  let turn := if Sparse.get (fun _ => false) d.path.lastRecirc c then 0 else 1
  ((List.range q.length).zip q).findSome? fun (i, w) =>
    let ok := match w with
      | .frame _ => !both || isPass turn w
      | _ => true
    if ok && d.workStarts w then (d.nextEngine c (workRole w) d.sepiaOnly).map fun (n, t) => (i, w, n, t) else none

/-- The entry index of R104 that starts a work item. (DEDUCED: assumption 24) -/
def workEntry (d : Dev) : Work → Nat
  | .frame f => if f.pass = 0 then f.port else 25
  | .trigger tt _ _ => 96 + tt
  | .crypto u no => 192 + (match d.cxJob? u no with | some j => (d.cxCtx u j.ctx).mode % 32 | none => 0)

/-- The slot that runs a job of epoch `e` in cluster `c` (R71, R466). -/
def jobSlot (d : Dev) (c e : Nat) (w : Work) : Nat :=
  match w, d.inSepia with
  | .frame _, true | .trigger _ _ _, true => d.f lsSepiaCfg_SLOT 0
  | _, _ => d.fE e feSetSel_SLOT c

/-- The budget of R97 for an entry word. -/
def jobBudget (d : Dev) (e word : Nat) (img : SetImage) : Nat :=
  if bits 30 16 word ≠ 0 then bits 30 16 word
  else if img.budgetDef ≠ 0 then img.budgetDef else d.fE e feBudgetDef_INSTR 0

/-- The thread state a job starts with (R72, R78). -/
def jobThread (d : Dev) (c : Nat) (w : Work) : Thread × Bool :=
  let e := match w with | .frame f => f.epoch | _ => d.epoch
  let s := d.jobSlot c e w
  let img := d.setImg c s
  let ent := d.workEntry w
  let word := img.entries.getD ent 0
  let x : Thread :=
    { st := .ready, rf := { pc := BitVec.ofNat 64 (word % 65536) }, entry := ent, entry0 := ent, slot := s, epoch := e,
      mode := d.modeOf e, budget := d.jobBudget e word img, start := d.ns }
  let x := match w with
    | .frame f => { x with kind := .frame, src := f, out := f.bytes, cls := f.cls }
    | .trigger tt target args => { x with kind := .trigger, args := args, job := some (tt, target) }
    | .crypto u no =>
      match d.cxJob? u no with
      | some j => { x with kind := .crypto, args := d.cxArgs u j.slot j, user := u, job := some (u, no) }
      | none => { x with kind := .crypto, user := u, job := some (u, no) }
  (x, bitAt 31 word)

/-- The dispatcher of cluster `c` hands the next work item to an idle thread. A job whose entry is not VALID raises
NO_ENTRY (R98). (DEDUCED: assumption 25) -/
def jobHandover (d : Dev) (c : Nat) : Dev :=
  match d.nextWork c with
  | none => d
  | some (i, w, n, t) =>
    let q := d.dispQ c
    let both := q.any (isPass 0) && q.any (isPass 1)
    let d := d.setDispQ c (q.take i ++ q.drop (i + 1))
    let (x, valid) := d.jobThread c w
    let d := { d with path := { d.path with rr := Sparse.set (fun _ => 7) d.path.rr c (n % 8) } }
    let d := match w with
      | .frame f =>
        let last := both && f.pass == 1
        let d := { d with path := { d.path with lastRecirc := Sparse.set (fun _ => false) d.path.lastRecirc c last } }
        d.inc .feDispIn (if f.pass = 0 then f.port else 25)
      | _ => d
    let d := d.setThr n t x
    if valid then d else d.excFe n t excNoEntry x.rf.pc.toNat 0

end Dev

end Sys2Proof.Machine
end

