-- ==== Sys2Proof/Machine/ProgSets.lean ====
section
/-! DEFINITION. Program sets: the image of R103, loading and freeing a slot (R106 to R109), and the states of slots at a
commit. -/
namespace Sys2Proof.Machine

/-- FeSetSlot.STATE codes (R109). -/
def slFree : Nat := 0
def slLoading : Nat := 1
def slLoaded : Nat := 2
def slCurrent : Nat := 3
def slDraining : Nat := 4

/-- The header of an image (R103): everything but the data. -/
structure ImgHead where
  magic : Nat
  format : Nat
  isa : Nat
  setId : Nat
  version : Nat
  layout : Nat
  codeWords : Nat
  constBytes : Nat
  ldBytes : Nat
  csBytes : Nat
  csOff : Nat
  budget : Nat
  rsvOk : Bool
  deriving DecidableEq, Repr

/-- Reading a number from management SRAM. (DESIGN CHOICE: assumption 2; DESIGN CHOICE: assumption 30) -/
def sramNat (m : Sparse Byte) (a n : Nat) : Nat := leNat (memGet m a n)

/-- (DEDUCED: assumption 24) -/
def imgHead (m : Sparse Byte) (a : Nat) : ImgHead where
  magic := sramNat m a 4
  format := sramNat m (a + 4) 2
  isa := sramNat m (a + 6) 2
  setId := sramNat m (a + 8) 2
  version := sramNat m (a + 0xC) 4
  layout := sramNat m (a + 0x10) 4
  codeWords := sramNat m (a + 0x14) 4
  constBytes := sramNat m (a + 0x18) 4
  ldBytes := sramNat m (a + 0x1C) 2
  csBytes := sramNat m (a + 0x20) 4
  csOff := sramNat m (a + 0x24) 4
  budget := sramNat m (a + 0x28) 2
  rsvOk := sramNat m (a + 0xA) 2 == 0 && sramNat m (a + 0x1E) 2 == 0 && sramNat m (a + 0x2A) 22 == 0

/-- Whether an entry word keeps R104. -/
def entryOk (h : ImgHead) (i w : Nat) : Bool := decide (w % 65536 < h.codeWords) && !(decide (224 ≤ i) && bitAt 31 w)

def imgEntries (m : Sparse Byte) (a : Nat) : List Nat := (List.range 256).map fun i => sramNat m (a + 0x40 + 4 * i) 4

/-- Whether an image keeps R103 and R104 (BAD_FORMAT otherwise). -/
def imgOk (h : ImgHead) (es : List Nat) : Bool :=
  h.magic == 0x50534F52 && h.format == 1 && h.rsvOk && decide (1 ≤ h.codeWords) && decide (h.codeWords ≤ 65536)
    && decide (4 * h.codeWords + h.constBytes ≤ 262144) && decide (h.ldBytes ≤ 4096) && decide (h.csBytes ≤ 262144)
    && decide (h.csOff + h.csBytes ≤ 262144) && (h.budget == 0 || (decide (16 ≤ h.budget) && decide (h.budget ≤ 32767)))
    && ((List.range 256).zip es).all fun e => entryOk h e.1 e.2

namespace Dev

def slotState (d : Dev) (c s : Nat) : Nat := d.f feSetSlotState_STATE (4 * c + s)

/-- The lowest start, in KiB, of `n` free KiB of a cluster's program store (R106). -/
def storeFit (d : Dev) (c n : Nat) : Option Nat :=
  let used := ((List.range 4).filter fun s => d.slotState c s != slFree).map fun s =>
    (d.f feSetSlotPlace_BASE_KIB (4 * c + s), d.f feSetSlotPlace_SIZE_KIB (4 * c + s))
  (List.range 257).find? fun b =>
    decide (b + n ≤ 256) && used.all fun u => decide (b + n ≤ u.1 ∨ u.1 + u.2 ≤ b)

/-- Whether a cluster is QUIESCED or OFFLINE (R107, R108). -/
def clusterStopped (d : Dev) (c : Nat) : Bool := d.unlocked (uFc c)

/-- Whether cluster `c` may take an image with a layout tag in slot `s` (R107). -/
def layoutOk (d : Dev) (c s tag : Nat) : Bool :=
  d.f feCsLayout_TAG c == tag
    || (d.clusterStopped c && (List.range 4).all fun i => i == s || d.slotState c i == slFree)

/-- The end of a load or free command: its result and the cluster or slot it names; FAIL_CLUSTER is 0 after one that succeeds.
(DESIGN CHOICE: assumption 53) -/
def loadEnd (d : Dev) (res fail : Nat) (slot : Option Nat) : Dev :=
  let d := (d.sf feLoadStatus_RESULT 0 res).sf feLoadStatus_FAIL_CLUSTER 0 fail
  match slot with
  | some s => d.sf feLoadStatus_SLOT 0 s
  | none => d

/-- The copy into one cluster: store, whose words report no error any more because LOAD writes them as an
UPDATE does (R102), slot, and under R107 and R108 shared and local
data. (DESIGN CHOICE: assumption 54) -/
def loadInto (d : Dev) (h : ImgHead) (es : List Nat) (a s kib : Nat) (c : Nat) : Dev :=
  let base := (d.storeFit c kib).getD 0
  let n := 4 * h.codeWords + h.constBytes
  let m := d.eng.sram
  let ldInit := memGet m (a + 0x440 + n) h.ldBytes
  let ps := memSet (memZero d.eng.ps (psKey c (1024 * base)) (1024 * kib)) (psKey c (1024 * base)) (memGet m (a + 0x440) n)
  let img : SetImage :=
    { entries := es, codeWords := h.codeWords, constBytes := h.constBytes, ldInit := ldInit, budgetDef := h.budget }
  let bad := d.eng.bad.filter fun e => decide (e.1 < psBad c (1024 * base) ∨ psBad c (1024 * (base + kib)) ≤ e.1)
  let d := { d with eng := { d.eng with ps := ps, bad := bad, sets := Sparse.set setDefault d.eng.sets (4 * c + s) img } }
  let d := d.wr .feSetSlotState (4 * c + s) (BitVec.ofNat 32 (slLoading * 2 ^ 16 + h.setId))
  let d := d.wr .feSetSlotPlace (4 * c + s) (BitVec.ofNat 32 (base * 2 ^ 16 + kib))
  let d := d.wr .feSetSlotVersion (4 * c + s) (BitVec.ofNat 32 h.version)
  let d :=
    if d.f feCsLayout_TAG c = h.layout then d
    else
      let cs := memSet (memZero d.eng.cs (csKey c 0) (2 ^ 18)) (csKey c h.csOff)
        (memGet m (a + 0x440 + n + h.ldBytes) h.csBytes)
      let bad := d.eng.bad.filter fun e => decide (e.1 < csBad c 0 ∨ csBad c 0 + 2 ^ 18 ≤ e.1)
      { d with eng := { d.eng with cs := cs, bad := bad } }.sf feCsLayout_TAG c h.layout
  if d.clusterStopped c then (List.range 8).foldl (fun d k => d.ldLoad (8 * c + k) ldInit) d else d

/-- Recording what a report lists of the set in slot `s` of cluster `c` (R502). -/
def setListed (d : Dev) (c s : Nat) (r : RunImage) : Dev :=
  { d with mg := { d.mg with sets := d.mg.sets.filter (fun x => x.1 != 4 * c + s) ++ [(4 * c + s, r)] } }

/-- What a report lists of a set that LOAD took from the SRAM: no container of it is known, so its slot pair, its SVN, its
VERSION and its measurement are open (R502). (DESIGN CHOICE: assumption 47) -/
def setUnknown (d : Dev) (c s : Nat) : Dev :=
  let (slot, d) := d.fresh 5
  let (svn, d) := d.fresh 16
  let (ver, d) := d.fresh 32
  let (meas, d) := d.fresh 512
  d.setListed c s ⟨unitClass (uFc c), c, 2, slot, svn, ver, (leBytes 64 meas).map BitVec.toNat⟩

/-- FeLoadCmd with LOAD of the image at FeLoadSrc (R106). `bad` says that an uncorrectable error was met reading it.
(DEDUCED: assumption 24) -/
def feLoad (d : Dev) (mask : Nat) (bad : Bool) : Dev :=
  let cs := (List.range 8).filter fun c => bitAt c mask
  let first := cs.headD 0
  let a := (d.rd .feLoadSrc 0).toNat / 64 * 64
  let h := imgHead d.eng.sram a
  let es := imgEntries d.eng.sram a
  let kib := cdiv (4 * h.codeWords + h.constBytes) 1024
  let free (cs : List Nat) : Option Nat := (List.range 4).find? fun s => cs.all fun c => d.slotState c s == slFree
  if !imgOk h es then d.loadEnd 1 first none
  else if 1 < h.isa then d.loadEnd 2 first none
  else match free cs with
    | none =>
      d.loadEnd 3 ((cs.find? fun c => (free (cs.filter fun x => decide (x ≤ c))).isNone).getD first) none
    | some s =>
      match cs.find? fun c => (d.storeFit c kib).isNone with
      | some c => d.loadEnd 4 c none
      | none =>
        match cs.find? fun c => !d.layoutOk c s h.layout with
        | some c => d.loadEnd 5 c none
        | none =>
          if bad then d.loadEnd 7 first none
          else
            let d := cs.foldl (fun d c => (d.loadInto h es a s kib c).setUnknown c s) d
            (d.loadEnd 0 0 (some s)).sf feLoadStatus_BUSY 0 1

/-- The copy completes: the loading slots are LOADED (R109). (DEDUCED: assumption 24) -/
def feLoadDone (d : Dev) : Dev :=
  let d := (List.range 32).foldl (fun d i =>
    if d.f feSetSlotState_STATE i = slLoading then d.sf feSetSlotState_STATE i slLoaded else d) d
  d.sf feLoadStatus_BUSY 0 0

/-- Whether the open transaction stages a selection of slot `s` in cluster `c` (R109). -/
def slotStaged (d : Dev) (c s : Nat) : Bool :=
  match d.ep.txn with
  | none => false
  | some t => t.items.any fun it =>
      it.unit == uFc c && it.off == unitBase (uFc c) + 0x60 && it.mask % 4 != 0
        && mergeBits (d.f feSetSel_SLOT c) it.data it.mask % 4 == s

/-- A slot becomes FREE: its store region is released, and the words that show it read 0. (DESIGN CHOICE: assumption 53) -/
def slotFree (d : Dev) (c s : Nat) : Dev :=
  let d := { d with
    eng := { d.eng with sets := Sparse.set setDefault d.eng.sets (4 * c + s) {} }
    mg := { d.mg with sets := d.mg.sets.filter fun x => x.1 != 4 * c + s } }
  [Reg.feSetSlotState, .feSetSlotPlace, .feSetSlotVersion, .feSetSlotEpochs].foldl (fun d r => d.wr r (4 * c + s) 0) d

/-- FeLoadCmd with FREE of slot `s` in the named clusters, all or none (R109, R466). -/
def feFree (d : Dev) (mask s : Nat) : Dev :=
  let cs := (List.range 8).filter fun c => bitAt c mask
  let bad (c : Nat) : Bool :=
    d.slotState c s != slLoaded || d.slotStaged c s
      || (d.b lsSepiaCfg_EN 0 && c == d.sepiaCluster && s == d.f lsSepiaCfg_SLOT 0)
  match cs.find? bad with
  | some c => d.loadEnd 6 c none
  | none => (cs.foldl (fun d c => d.slotFree c s) d).loadEnd 0 0 (some s)

/-- A write of FeLoadCmd (R106, R109): from a host domain, without clusters, or while BUSY, it is discarded. -/
def feLoadCmd (d : Dev) (init v : Nat) (bad : Bool) : Dev :=
  let cmd := v % 16
  let mask := bits 15 8 v
  if init ≠ 16 then d.rejWr uFe
  else if cmd ≠ 1 ∧ cmd ≠ 2 then d
  else if mask = 0 ∨ d.b feLoadStatus_BUSY 0 then d.rejWr uFe
  else if cmd = 1 then d.feLoad mask bad else d.feFree mask (bits 5 4 v)

/-- The slots at a commit that made `e` current, after `old` (R109). (DEDUCED: assumption 24) -/
def slotsCommit (d : Dev) (old e : Nat) : Dev :=
  (List.range 8).foldl (fun d c => (List.range 4).foldl (fun d s =>
    let i := 4 * c + s
    let sel := d.fE e feSetSel_SLOT c == s
    let st := d.f feSetSlotState_STATE i
    if sel && st == slLoaded then (d.sf feSetSlotState_STATE i slCurrent).sf feSetSlotEpochs_FIRST_EPOCH i e
    else if sel && st == slDraining then d.sf feSetSlotState_STATE i slCurrent
    else if !sel && st == slCurrent then (d.sf feSetSlotState_STATE i slDraining).sf feSetSlotEpochs_LAST_EPOCH i old
    else d) d) d

/-- DRAINING slots that no live epoch and no staged entry selects are FREE (R109). -/
def slotsRetire (d : Dev) : Dev :=
  (List.range 8).foldl (fun d c => (List.range 4).foldl (fun d s =>
    if d.slotState c s = slDraining ∧ d.slotStaged c s = false
        ∧ (d.ep.live.all fun e => d.fE e feSetSel_SLOT c != s) then d.slotFree c s else d) d) d

end Dev

end Sys2Proof.Machine
end

