-- ==== Sys2Proof/Machine/Access.lean ====
section
/-! DEFINITION. Which domain may read or write which register (R434, R435), and the offset of a register instance. -/
namespace Sys2Proof.Machine

/-- The offset of flat instance `x` in the dimensions of a layout: what it adds to the base, and what is left for the outer
dimensions. -/
def instOff : List (Nat × Nat) → Nat → Nat × Nat
  | [], x => (0, x)
  | (st, n) :: ds, x =>
    let (o, y) := instOff ds x
    (o + st * (y % n), y / n)

/-- How many instances a layout has. -/
def instCount (ds : List (Nat × Nat)) : Nat := ds.foldl (fun a x => a * x.2) 1

/-- The offset of instance `i` of a layout. -/
def Place.off? {ρ : Type} (p : Place ρ) (i : Nat) : Option Nat :=
  if p.inst0 ≤ i ∧ i < p.inst0 + instCount p.dims then some (p.base + (instOff p.dims (i - p.inst0)).1) else none

/-- The offset of a register instance; instances of header registers are unit numbers (R31). -/
def regOff (r : Reg) (i : Nat) : Option Nat :=
  match hdrRegs.idxOf? r with
  | some k => some (unitBase i + 4 * k)
  | none => regPlaces.findSome? fun p => if p.what = r then p.off? i else none

/-- The unit whose page holds a register instance. -/
def regUnit (r : Reg) (i : Nat) : Option Nat :=
  if hdrRegs.contains r then some i else (regOff r i).bind unitAt

/-- Whether a register is of the unit header. -/
def isHeader (r : Reg) : Bool := hdrRegs.contains r

namespace Dev

/-- The READ and WRITE bits of an offset in a domain's tables (R434). -/
def permBits (d : Dev) (n off : Nat) : Nat :=
  let fine (g : Nat) : Nat := bits (2 * (g % 16) + 1) (2 * (g % 16)) (d.rd .hbPermFine (80 * n + g / 16)).toNat
  if 0x400000 ≤ off ∧ off < 0x410000 then fine ((off - 0x400000) / 256)
  else if 0x140000 ≤ off ∧ off < 0x180000 then fine (256 + (off - 0x140000) / 256)
  else
    let p := off / 4096
    bits (2 * (p % 16) + 1) (2 * (p % 16)) (d.rd .hbPerm (256 * n + p / 16)).toNat

/-- The pages that are always a domain's own (R435). -/
def ownPage (n off : Nat) : Bool :=
  off / 0x1000 == 0x90 + n || off / 0x1000 == 0x390 + n || off / 0x100 == 0x1610 + n

/-- Whether initiator `n` may read an offset (R434, R435); 16 are the management cores. -/
def mayRead (d : Dev) (n off : Nat) : Bool :=
  n == 0 || n == 16 || decide (off < 0x3000) || ownPage n off || off / 0x100 == 0x810 + n || bitAt 0 (d.permBits n off)

/-- Whether initiator `n` may write an offset. In the bridge's block a domain writes its own error records only. -/
def mayWrite (d : Dev) (n off : Nat) : Bool :=
  if n = 0 ∨ n = 16 then true
  else if 0x80000 ≤ off ∧ off < 0x90000 then 
    let x := off % 0x100
    off / 0x100 == 0x810 + n && decide ((x < 0x70 ∧ x % 16 < 12) ∨ (0x80 ≤ x ∧ x < 0x88))
  else ownPage n off || bitAt 1 (d.permBits n off)

/-- Registers of the header that a command in progress and the directory need: a reset of the unit by command leaves them (R28,
R36). -/
def headerStays (r : Reg) : Bool :=
  match r with
  | .unitQuiesceTmo | .unitEpoch | .unitSnap => false
  | _ => isHeader r

/-- Registers of unit `u` at their reset values; of its header all but the state, the command and the image (R28). -/
def unitReset (d : Dev) (u : Nat) : Dev :=
  { d with regs := d.regs.filter fun e =>
      match Reg.all[e.1 % 1024]? with
      | some r => headerStays r || regUnit r (e.1 / 1024) != some u
      | none => true }

/-! ### What waits at the far-side windows (R440 to R443) -/

/-- The pair (domain, window) as an index of its HbFarErr record. -/
def farPair (n w : Nat) : Nat := 7 * n + w

/-- The writes that wait in a far-side window's queue, oldest first (R441). -/
def farQueue (d : Dev) (w : Nat) : List FarWrite := Sparse.get (fun _ => []) d.host.far w

def setFarQueue (d : Dev) (w : Nat) (l : List FarWrite) : Dev :=
  { d with host := { d.host with far := Sparse.set (fun _ => []) d.host.far w l } }

/-- The requests of function `n` that wait in the bridge, oldest first (R438). -/
def heldAccs (d : Dev) (n : Nat) : List HeldAcc := Sparse.get (fun _ => []) d.host.held n
def setHeldAccs (d : Dev) (n : Nat) (l : List HeldAcc) : Dev :=
  { d with host := { d.host with held := Sparse.set (fun _ => []) d.host.held n l } }

/-- Clearing the latch of a (domain, window) pair with its record: of the writes that have reached the bridge none takes effect,
whether it is in the queue or waits for it (R443). -/
def farErrClear (d : Dev) (p : Nat) : Dev :=
  let n := p / 7
  let w := p % 7
  let clear (d : Dev) : Dev := (d.wr .hbFarErrLatch p 0).wr .hbFarErrSeq p 0
  if !d.b hbFarErrLatch_LATCHED p then clear d
  else
    let d := d.setFarQueue w ((d.farQueue w).map fun x => if x.src = .posted ∧ x.dom = n then { x with dead := true } else x)
    let lost (x : HeldAcc) : HeldAcc := match x with
      | .write off v => if farWindow n off = some w then .dead w else .write off v
      | x => x
    clear (d.setHeldAccs n ((d.heldAccs n).map lost))

end Dev

end Sys2Proof.Machine
end

