-- ==== Sys2Proof/Machine/Links.lean ====
section
/-! DEFINITION. The barrier links (R519 to R521), and the steps of segment and device sleep (R416 to R422, R515, R517). -/
namespace Sys2Proof.Machine

/-- The order that acknowledges a message at `Output.link`. (DEDUCED: assumption 38) -/
def ordAck : Nat := 10

/-- The message that carries a far-side write (R440, R519): its value is the offset and the word. (DEDUCED: assumption 38) -/
def ordWrite : Nat := 11

namespace Dev

/-- A barrier link is lost (R520): its messages go, the loss is counted and, but from step 5 of R421 on, declared, the die's
report is void (R384), and its waiting requests are withdrawn (R385). -/
def blLost (d : Dev) (n : Nat) : Dev :=
  let d := (d.sf bwLinkStatus_UP n 0).sf bwLinkStatus_TRAINING n 1
  let d := (d.setLink n { d.link n with sent := [], waiting := [], tries := 0 }).inc .bwLinkDown n
  let d :=
    if n < 3 then
      let d := { d with load := { d.load with reported := Sparse.set (fun _ => false) d.load.reported n false } }
      let d := d.sf pdStatus_LINK n 0
      (d.dieLeaders n).foldl (fun d l => d.ldLinkLost l) d
    else d
  if (d.link n).silent then d else (d.raise 153 n 0).levelOn fcLink n

/-- A link is up again (R520): the event, the class's cause ends, and a loss is declared again. The
numbering of the messages begins anew. The BW die's copy of the raw counter is realigned (R332).
(DEDUCED: assumption 34; DEDUCED: assumption 38) -/
def blUp (d : Dev) (n : Nat) : Dev :=
  let d := (d.sf bwLinkStatus_UP n 1).sf bwLinkStatus_TRAINING n 0
  let d := d.setLink n {}
  let d := if n < 3 then d.sf pdStatus_LINK n 1
    else { d with sleep := { d.sleep with bwRaw := d.ns } }
  ((d.levelOff fcLink n).raise 153 n 1)

/-- Whether the CRC32C that a received message carries is that of its sequence number and payload. (PRESUMED: assumption 38) -/
def blGood (x : BlMessage) : Bool :=
  crcRange crc32c 0xFFFFFFFF (x.seq :: x.payload) ^^^ 0xFFFFFFFF == x.crc

/-- Whether sequence number `q` is one of the 16 before the expected one `e`: the message has come before (R521).
(DESIGN CHOICE: assumption 38) -/
def blSeen (e q : Nat) : Bool :=
  let back := (e + 256 - q) % 256
  decide (1 ≤ back ∧ back ≤ 16)

/-- A message arrives on link `n` (R519): with a bad CRC it is discarded and counted, else it is acknowledged, and it
acknowledges the `acks` oldest messages of ours, which makes room for those that wait. One that has come before delivers nothing
(R521). What it carries takes effect through the row that names it. (DEDUCED: assumption 38) -/
def blMessage (d : Dev) (n : Nat) (x : BlMessage) (acks : Nat) : Dev :=
  if blGood x then
    let l := d.link n
    let l := if acks = 0 then l else { l with sent := l.sent.drop acks, tries := 0 }
    let l := if blSeen l.expect x.seq.toNat then l else { l with expect := (x.seq.toNat + 1) % 256, last := x.payload }
    ((d.setLink n l).linkFill n).emit (.link n ordAck x.seq.toNat)
  else d.inc .bwLinkCrcErr n

/-- The oldest message has had no acknowledgement for 2 µs (R519): it is resent up to three times. Answers the message when it
is lost. (DEDUCED: assumption 38) -/
def blResend (d : Dev) (n : Nat) : Option LinkMsg × Dev :=
  let l := d.link n
  match l.sent with
  | [] => (none, d)
  | m :: rest =>
    if l.tries < 3 then
      (none, ((d.setLink n { l with tries := l.tries + 1 }).inc .bwLinkRetry n).emit (.message n m.seq m.kind m.value))
    else (some m, ((d.setLink n { l with sent := rest, tries := 0 }).linkFill n).inc .bwLinkFail n)

/-- 10 µs without a message: a heartbeat (R519). The first that a power die meets after SLEEP ends its suspension of R407 (R421).
(DEDUCED: assumption 38) -/
def blHeartbeat (d : Dev) (n : Nat) : Dev :=
  if d.b bwLinkStatus_UP n then
    (if n = 3 then { d with sleep := { d.sleep with bwRaw := d.ns } }
      else { d with load := { d.load with asleep := d.load.asleep.filter (· != n) } }).linkSend n ordHeartbeat 0
  else d

/-! ### Segments -/

/-- BwSegCmd SLEEP (R418): only from AWAKE; the detectors are armed first. A commander with GTS_EN
whose schedule runs is to send go-to-sleep in its next slot (R420). -/
def segSleep (d : Dev) (s : Nat) : Dev :=
  if d.segState s ≠ 0 then d
  else
    let d := d.segSet s 1
    let d := if d.b bwSegCfg_GTS_EN s then
        (d.segPorts s).foldl (fun d p =>
          if 80 ≤ p ∧ d.b linCfg_ROLE (p - 80) = false ∧ d.b linSchedStatus_RUNNING (p - 80) then
            d.setLin (p - 80) { d.lin (p - 80) with gts := true }
          else d) d
      else d
    (List.range 8).foldl (fun d i => if bitAt s (d.rd .bwWinSeg i).toNat then d.winLevel i else d) d

/-- Whether a segment's drain is complete: queues and transmit buffers empty, no frame on a bus and no go-to-sleep command to send
(R420). (DEDUCED: assumption 37) -/
def segDrained (d : Dev) (s : Nat) : Bool :=
  (d.segPorts s).all fun p =>
    ((List.range 8).all fun c => (d.queue (qNo p c)).isEmpty)
      && (if 32 ≤ p ∧ p < 80 then (d.can (p - 32)).bufs.isEmpty && (d.can (p - 32)).cur.isNone
          else if 80 ≤ p then (d.lin (p - 80)).bus.isNone && !(d.lin (p - 80)).gts
          else (d.eth p).wire.isNone && (d.eth p).cut.isNone)

/-- CAN channels that sleep read INTEGRATING, but for BUS_OFF and RECOVERING (R420); a STOPPED one stays so.
(DEDUCED: assumption 37) -/
def segCanSleep (d : Dev) (s : Nat) : Dev :=
  (d.segPorts s).foldl (fun d p =>
    let n := p - 32
    if 32 ≤ p ∧ p < 80 ∧ (d.canState n = canActive ∨ d.canState n = canPassive) then d.canSet n canIntegrating else d) d

/-- The transceivers of a DRAINING segment are commanded to sleep; frames still queued count in HELD (R418, R420). -/
def segCommandSleep (d : Dev) (s : Nat) : Dev :=
  if d.segState s = 1 ∧ d.sleep.drained.contains s = false then
    let d := d.linkSend 3 ordSegSleep s
    let d := { d with sleep := { d.sleep with drained := s :: d.sleep.drained } }
    let d := (d.segPorts s).foldl (fun d p =>
      (List.range 8).foldl (fun d c =>
        (d.queue (qNo p c)).foldl (fun d x => if x.held then d else d.heldCount p true) (d.setQueue (qNo p c)
          ((d.queue (qNo p c)).map fun x => { x with held := true }))) d) d
    d.segCanSleep s
  else d

/-- The drain of a segment ends (R420), or DRAIN_MS has elapsed. -/
def segDrainDone (d : Dev) (s : Nat) : Dev := if d.segDrained s then d.segCommandSleep s else d

/-- Every transceiver of the segment is asleep (R418). -/
def segAsleep (d : Dev) (s : Nat) : Dev :=
  if d.segState s = 1 ∧ d.sleep.drained.contains s then
    { d.segSet s 2 with sleep := { d.sleep with drained := d.sleep.drained.filter (· != s) } }
  else d

/-- Bits 12 to 19 and 32 to 95 of a port bitmap, by word (R418). -/
def segPortMask (w : Nat) : Nat := if w = 0 then 0x000FF000 else 0xFFFFFFFF

/-- Whether word `w` of BwSegPorts of segment `s` may take `v` (R418). A 1 in bits 31 to 26 of word 0, which R27 would ignore as
reserved, is a bit outside the bus ports: the write is discarded and counted. -/
def segPortsOk (d : Dev) (s w v : Nat) : Bool :=
  d.segState s == 0 && v == (v &&& segPortMask w)
    && (List.range 32).all fun x => x == s || (v &&& (d.rd .bwSegPorts (3 * x + w)).toNat) == 0

/-- A write of word `w` of BwSegPorts of segment `s` (R418). (DESIGN CHOICE: assumption 54) -/
def segPortsWrite (d : Dev) (staged : Bool) (s w v : Nat) : Dev :=
  if staged = false ∧ d.segPortsOk s w v = false then d.rejWr uBw
  else d.wr .bwSegPorts (3 * s + w) (BitVec.ofNat 32 v)

/-! ### Device sleep (R421) -/

/-- Whether an initiator may write BwSleepCmd: D0 and the management cores (R421). -/
def sleepWriter (init : Nat) : Bool := init == 0 || init == 16

/-- A write of SLEEP by `init` (R421): step 1 begins the sequence, and the detectors are armed (step 2). -/
def sleepCmd (d : Dev) (init : Nat) : Dev :=
  if sleepWriter init = false then d.rejWr uBw
  else if d.b bwSleepStatus_BUSY 0 ∨ d.sleep.power ≠ .active then d
  else
    let d := { d with sleep := { d.sleep with power := .sleepEntry } }
    let d := (d.sf bwSleepStatus_BUSY 0 1).sf bwSleepStatus_STEP 0 2
    (List.range 8).foldl winLevel (d.emit (.link 3 ordArm 0))

/-- A step of the sequence completes and the next begins (R421). Step 3 ends when every segment is
ASLEEP. (DEDUCED: assumption 37) -/
def sleepStepDone (d : Dev) : Dev :=
  if d.sleep.power ≠ .sleepEntry then d
  else match d.f bwSleepStatus_STEP 0 with
    | 2 => (List.range 32).foldl segSleep (d.sf bwSleepStatus_STEP 0 3)
    | 3 =>
      if (List.range 32).all fun s => d.segState s == 2 then
        (d.sf bwSleepStatus_STEP 0 4).emit (.link 3 ordLogFlush 0)
      else d
    | 4 =>
      let d := (d.sf bwSleepStatus_STEP 0 5).ldSleep
      let d := (List.range 4).foldl (fun d n => d.setLink n { d.link n with silent := true }) d
      (List.range 3).foldl (fun d p => d.linkSend p ordDieSleep 0) d
    | 5 => d.sf bwSleepStatus_STEP 0 6
    | 6 =>
      let d := (d.sf bwSleepStatus_STEP 0 0).sf bwSleepStatus_BUSY 0 0
      { d with sleep := { d.sleep with power := .sleep, offTime := true } }.emit (.pin pinPwrEn 0 0)
    | _ => d

/-- The 10 ms off-time ends (R517): a wake latched meanwhile asserts PWR_EN. -/
def offTimeEnd (d : Dev) : Dev :=
  let l := d.sleep.latched
  let d := { d with sleep := { d.sleep with offTime := false, latched := false } }
  if l then d.emit (.pin pinPwrEn 0 1) else d

/-! ### Wake detectors (R415 to R417) -/

/-- Whether a detector on port `p` acts: its segment not AWAKE, or the device on its way to sleep. -/
def detects (d : Dev) (p : Nat) : Bool := d.portArmed p || d.deviceSleepy

/-- The segments a port's wake names. -/
def wakeSegs (d : Dev) (p : Nat) : List Nat := (d.segOf p).toList

/-- A wake by what the frame on CAN port `p` carries: that frame is not received (R415), as a logic side held in reset receives
none. -/
def frameWake (d : Dev) (src p : Nat) : Dev :=
  let e := if d.mg.held then d else { d with bus := { d.bus with wakeCut := p :: d.bus.wakeCut.filter (· != p) } }
  e.wakeBy src p (d.wakeSegs p)

/-- A wake-up pattern on CAN channel `n` (R415); C32 to C47 have no detector. -/
def canWup (d : Dev) (n : Nat) : Dev :=
  if decide (n < 32) && d.b bwCanWake_WUP_EN n && d.detects (32 + n) then d.frameWake 1 (32 + n) else d

/-- A LIN wake (R415). -/
def linWake (d : Dev) (n : Nat) : Dev :=
  if d.b bwLinWake_EN n && d.detects (80 + n) then d.wakeBy 4 (80 + n) (d.wakeSegs (80 + n)) else d

/-- A TC10 wake-up signal at port 12 + m (R415). -/
def t1sWake (d : Dev) (m : Nat) : Dev :=
  if d.b bwT1sWake_EN m && d.detects (12 + m) then d.wakeBy 5 (12 + m) (d.wakeSegs (12 + m)) else d

/-- A classical frame at selective-wake decoder `k`, or an errored one (R416). The decoder counts while it is armed.
(DEDUCED: assumption 37) -/
def swfFrame (d : Dev) (k : Nat) (err ide : Bool) (ident dlc : Nat) (data : List Byte) : Dev :=
  let n := d.f bwSwfCfg_CHANNEL k
  let p := 32 + n
  if !d.b bwSwfCfg_EN k || !d.detects p then d
  else if err then
    if d.b bwSwfCfg_ERR_WAKE k then
      let c := Sparse.get (fun _ => 0) d.sleep.swfErr k + 1
      let d := { d with sleep := { d.sleep with swfErr := Sparse.set (fun _ => 0) d.sleep.swfErr k c } }
      if 31 < c then d.wakeBy 3 p (d.wakeSegs p) else d
    else d
  else
    let d := if d.b bwSwfCfg_ERR_WAKE k then
        { d with sleep := { d.sleep with swfErr := Sparse.upd (fun _ => 0) d.sleep.swfErr k (· - 1) } } else d
    let x := (d.f bwSwfId_ID k ^^^ ident) &&& d.f bwSwfIdMask_ID_MASK k
    let m := (d.rd .bwSwfData (2 * k)).toNat + (d.rd .bwSwfData (2 * k + 1)).toNat * 2 ^ 32
    let want := d.f bwSwfCfg_DLC k
    if ide = d.b bwSwfCfg_IDE k ∧ x = 0 ∧ dlc = want ∧ (want = 0 ∨ (leAt data 0 8 &&& m) ≠ 0) then
      d.frameWake 2 p
    else d

/-- A WAKE input reaches its active level after its filter (R417): masked inputs still report it. -/
def winActive (d : Dev) (i : Nat) : Dev :=
  let d := d.sf bwWinStatus_LEVEL i 1
  if d.winArmed i && !d.winMasked i then d.winWake i else d

/-- A WAKE input goes inactive: the stuck mask ends by itself (R417). -/
def winInactive (d : Dev) (i : Nat) : Dev := (d.sf bwWinStatus_LEVEL i 0).sf bwWinStatus_STUCK_MASKED i 0

/-- A WAKE input has been active for longer than STUCK_S (R417). -/
def winStuck (d : Dev) (i : Nat) : Dev :=
  if d.b bwWinStatus_LEVEL i && d.f bwWinStuck_STUCK_S i != 0 && !d.b bwWinStatus_STUCK_MASKED i then
    (d.sf bwWinStatus_STUCK_MASKED i 1).raise 133 i 0
  else d

/-- VBAT is applied (R412, R515): the always-on controller starts, PWR_EN is asserted with source POWER_ON. -/
def vbatPowerOn (d : Dev) : Dev :=
  match d.sleep.power with
  | .off => ({ d with sleep := { d.sleep with power := .waking }, mg := { d.mg with why := 0 } }.wakeRecord 9 0 0).emit (.pin pinPwrEn 0 1)
  | _ => d

end Dev

end Sys2Proof.Machine
end

