-- ==== Sys2Proof/Machine/Units.lean ====
section
/-! DEFINITION. Unit commands (R33 to R48, R544, R546): acceptance, drains, ends and roll-back, spares and row replacement,
internal faults (R36, R39). BRING_ONLINE opens a transaction and stands with those. -/
namespace Sys2Proof.Machine

/-- Command codes of R35. -/
def cmdNop : Nat := 0
def cmdQuiesce : Nat := 1
def cmdResume : Nat := 2
def cmdUpdate : Nat := 3
def cmdRecal : Nat := 4
def cmdRestart : Nat := 5
def cmdReplace : Nat := 6
def cmdRetire : Nat := 7
def cmdOffline : Nat := 8
def cmdOnline : Nat := 9

/-- Results of UnitCmdStatus. -/
def ucOk : Nat := 0
def ucBadState : Nat := 1
def ucTimeout : Nat := 2
def ucNoSpare : Nat := 3
def ucNoPower : Nat := 4
def ucImage : Nat := 5
def ucUnsupported : Nat := 6
def ucPermission : Nat := 7
def ucCommitFail : Nat := 8

/-- FAULT_CAUSE codes. -/
def fcauseLockstep : Nat := 1
def fcauseMemory : Nat := 2
def fcauseStall : Nat := 3
def fcauseImage : Nat := 4
def fcauseSoftware : Nat := 5
def fcauseLink : Nat := 6
def fcauseNoSpare : Nat := 7

/-- The commands a class accepts besides NOP (R33). -/
def classCmds (cls : Nat) : List Nat :=
  match cls with
  | 0x10 => [1, 2, 4, 5, 8, 9]
  | 0x11 | 0x12 | 0x13 => [1, 2, 5, 8, 9]
  | 0x20 | 0x28 => [1, 2, 3]
  | 0x21 => [1, 2, 3, 8, 9]
  | 0x22 => [1, 2, 3, 4, 5, 6, 7, 8, 9]
  | 0x29 | 0x39 | 0x3A => [1, 2]
  | 0x2A => [1, 2, 5, 6, 7, 8, 9]
  | 0x2B => [1, 2, 5]
  | 0x30 => [6]
  | 0x3B | 0x3D => [1, 2, 3, 4, 5]
  | 0x3C => [5]
  | _ => []

def accepts (u cmd : Nat) : Bool := cmd == 0 || (classCmds (unitClass u)).contains cmd

/-- Whether a leaf in state `st` accepts a command (R35). -/
def stateAccepts (u cmd st : Nat) : Bool :=
  match cmd with
  | 1 => st == Dev.stRun
  | 2 | 3 | 4 => st == Dev.stQuiesced
  | 5 => st == Dev.stQuiesced || st == Dev.stFaulted || (unitClass u == 0x3C && st == Dev.stRun)
  | 6 => st == Dev.stQuiesced || st == Dev.stFaulted || (unitClass u == 0x30 && st == Dev.stRun)
  | 7 => st == Dev.stRun || st == Dev.stQuiesced
  | 8 => st == Dev.stQuiesced || st == Dev.stFaulted
  | 9 => st == Dev.stOffline
  | _ => true

namespace Dev

/-! ### Who takes part -/

/-- A pair in lockstep changes state together (R454), and so does a gang (R383). -/
def withPair (d : Dev) (u : Nat) : List Nat :=
  match unitKind u with
  | .ld => (d.gang (unitInst u)).map uLd
  | .eng => let n := unitInst u
    if d.lockstep (n / 2) then [uEng (n / 2 * 2), uEng (n / 2 * 2 + 1)] else [u]
  | _ => [u]

/-- The clusters that UPDATE of the scheduler acts on (R490). -/
def svcClusters (d : Dev) : List Nat := (List.range 8).filter fun c => bitAt c (d.f cxSvcCfg_CLUSTERS 0)

/-- The leaf units that take part in a command (R42, R490). -/
def parts (d : Dev) (u cmd : Nat) : List Nat :=
  if unitKind u == .cx && cmd == cmdUpdate then d.svcClusters.flatMap fun c => d.children (uFc c)
  else if unitIsGroup u then
    ((d.children u).filter fun c => accepts c cmd).flatMap fun c =>
      if unitIsGroup c then (d.children c).filter fun x => accepts x cmd
      else if unitKind c == .ld then (if d.isLeader (unitInst c) then d.withPair c else []) else [c]
  else d.withPair u

/-! ### Drains (R544) -/

/-- Whether an AES core has a block. -/
def coreBusy (d : Dev) (n : Nat) : Bool :=
  let has (r : RegFile) : Bool :=
    r.busy.any fun e => match e.2 with | .cipher _ _ _ _ _ _ (some k) => k == n | _ => false
  (d.eng.threads.any fun x => has x.2.rf) || d.eng.mc.any fun x => has x.2.rf

/-- Whether a unit's drain waits for the wire or bus, where a frame may be in reception that the model shows only at its end:
the drain of such a unit always ends with QUIESCE_DRAINED (R544). (DESIGN CHOICE: assumption 52) -/
def drainsOnWire (u : Nat) : Bool :=
  match unitKind u with
  | .eth | .can | .lin => true
  | _ => false

/-- Whether the in-flight work that QUIESCE waits for has ended. (DESIGN CHOICE: assumption 52) -/
def drained (d : Dev) (u : Nat) : Bool :=
  let n := unitInst u
  match unitKind u with
  | .eth => (d.eth n).wire.isNone && (d.eth n).cut.isNone
  | .can => (d.can n).cur.isNone
  | .lin => (d.lin n).bus.isNone
  | .hr => (List.range 16).all fun r =>
      (d.rx (16 * n + r)).claims.isEmpty
        && (d.tx (16 * n + r)).cur.isNone
  | .eng => d.engIdle n
  | .ac => !d.coreBusy n
  | .page => (d.user n).jobs.all fun j => j.stage == .queued
  | _ => true

/-! ### Ends of commands -/

/-- A command ends: BUSY falls, TAG and RESULT show it. -/
def cmdEnd (d : Dev) (u tag res : Nat) : Dev :=
  ((d.sf unitCmdStatus_BUSY u 0).sf unitCmdStatus_TAG u tag).sf unitCmdStatus_RESULT u res

/-- What a unit does besides its change of state as it enters `st`. A port that retrains or goes OFFLINE takes its link down
(R260); the link comes back when its PCS reports it (R259). -/
def enterHook (d : Dev) (u st : Nat) : Dev :=
  let n := unitInst u
  match unitKind u with
  | .can =>
    if st = stRun then d.canStart n
    else if st = stOffline ∨ st = stFaulted then d.canStop n else d
  | .eth =>
    if st = stRun then d.stepEstablish n
    else if (st = stUpdating ∨ st = stOffline) ∧ d.b ethLinkStatus_LINK n = true then d.ethLost n else d
  | .bw => if st = stRun then d.bwResume else d
  | _ => d

/-- TAKE_OFFLINE powers the lane of an Ethernet port down, BRING_ONLINE powers it up (R260). -/
def lanePower (d : Dev) (u : Nat) (on : Bool) : Dev :=
  if unitKind u = .eth then d.emit (.ethCtl (unitInst u) ctlLane (if on then 1 else 0)) else d

/-- A leaf takes state `st`. A unit that is STAGED goes between RUN and QUIESCED in the state it will return to (R543); any
other state takes it out of STAGED, so that the transaction loses its target (R53). (DEDUCED: assumption 15) -/
def takeState (d : Dev) (u st : Nat) : Dev :=
  let d := d.sf unitState_DRAINING u 0
  if d.leafState u = st then d
  else if d.leafState u = stStaged ∧ (st = stRun ∨ st = stQuiesced) then (d.sf unitState_PREV_STATE u st).enterHook u st
  else
    let d := d.setState u st
    let d := if st = stFaulted then d else d.sf unitState_FAULT_CAUSE u 0
    d.enterHook u st

/-- A SerDes retrain of a port gives up its leave, or its wait for it (R67, R260). -/
def retrainEnd (d : Dev) (u : Nat) : Dev :=
  if unitKind u = .eth then (d.paWithdraw 0 (.retrain (unitInst u))).paRelease 0 (.retrain (unitInst u)) else d

/-- A leaf enters FAULTED with a cause (R36, R39, EV7). -/
def takeFault (d : Dev) (u cause : Nat) : Dev :=
  let d := ((d.sf unitState_DRAINING u 0).setState u stFaulted).sf unitState_FAULT_CAUSE u cause
  let d := d.raise 7 (d.dirIndex u) cause
  match unitKind u with
  | .eng => d.dropThreads (unitInst u)
  | .can => d.canStop (unitInst u)
  | .eth => (d.retrainEnd u).ethWireLost (unitInst u)
  | _ => d

def setOps (d : Dev) (l : List UnitOp) : Dev := { d with ops := l }

/-- The running command that waits for unit `u`. -/
def opOf (d : Dev) (u : Nat) : Option UnitOp := d.ops.find? fun o => o.wait.contains u

/-- The running command written to unit `u`. -/
def opAt (d : Dev) (u : Nat) : Option UnitOp := d.ops.find? fun o => o.unit == u

def dropOp (d : Dev) (o : UnitOp) : Dev := d.setOps (d.ops.filter fun x => x.unit != o.unit)

/-- Every unit that took part goes back to the state it held (R42). A unit that has faulted meanwhile stays FAULTED (R544). -/
def rollback (d : Dev) (o : UnitOp) : Dev :=
  o.prev.foldl (fun d x =>
    let d := d.retrainEnd x.1
    if d.actsAs x.1 = x.2 then d.sf unitState_DRAINING x.1 0
    else if d.leafState x.1 = stFaulted then d
    else d.takeState x.1 x.2) d

/-- The part of unit `u` in its command ends with a result: a failure rolls a group back and ends the command, and the
command ends when all parts have (R42). -/
def partEnd (d : Dev) (u res : Nat) : Dev :=
  match d.opOf u with
  | none => d
  | some o =>
    if res ≠ ucOk then
      let d := d.dropOp o
      let d := if unitIsGroup o.unit then d.rollback o else d
      d.cmdEnd o.unit o.tag res
    else
      let w := o.wait.filter (· != u)
      if w.isEmpty then (d.dropOp o).cmdEnd o.unit o.tag ucOk
      else d.setOps (d.ops.map fun x => if x.unit = o.unit then { x with wait := w } else x)

/-- The drain of a leaf ends (R36, R544; RETIRE of a core, R353). -/
def drainEnd (d : Dev) (u : Nat) : Dev :=
  match d.opOf u with
  | none => d
  | some o =>
    if d.b unitState_DRAINING u && d.drained u then
      if o.cmd = cmdRetire then (d.takeFault u fcauseSoftware).partEnd u ucOk
      else
        let us := d.withPair u
        us.foldl (fun d x => (d.takeState x stQuiesced).partEnd x ucOk) d
    else d

/-- The deadline of a QUIESCE passes (R36): admission re-opens. -/
def drainTimeout (d : Dev) (u : Nat) : Dev :=
  match d.opOf u with
  | none => d
  | some o =>
    if o.cmd = cmdQuiesce ∧ d.b unitState_DRAINING u then
      let d := (d.withPair u).foldl (fun d x => d.sf unitState_DRAINING x 0) d
      d.partEnd u ucTimeout
    else d

/-! ### Spares (R45 to R48) -/

/-- The lowest set bit of a bitmap held in consecutive registers. -/
def lowestBit (d : Dev) (r : Reg) (words : Nat) : Option Nat :=
  (List.range (32 * words)).find? fun b => bitAt (b % 32) (d.rd r (b / 32)).toNat

/-- Setting a bit of such a bitmap. -/
def putBit (d : Dev) (r : Reg) (b v : Nat) : Dev :=
  d.wr r (b / 32) (BitVec.ofNat 32 (setBits (b % 32) (b % 32) v (d.rd r (b / 32)).toNat))

/-- Mapping the lowest free physical engine or core in place of the unit's own, which is retired; none free answers false. The
management cores record the retirement (R45, R485). -/
def mapSpare (d : Dev) (u : Nat) : Bool × Dev :=
  let n := unitInst u
  match unitKind u with
  | .eng =>
    match d.lowestBit .idFeFree 3 with
    | none => (false, d)
    | some p =>
      let d := (d.putBit .idFeFree p 0).putBit .idFeRetired (d.f idFeMap_PHYS n) 1
      (true, ((d.sf idFeMap_PHYS n p).sf unitState_SPARE_MAPPED u 1).flashOnce .retired)
  | _ =>
    match d.lowestBit .idAcFree 1 with
    | none => (false, d)
    | some p =>
      let d := (d.putBit .idAcFree p 0).putBit .idAcRetired (d.f idAcMap_PHYS n) 1
      (true, ((d.sf idAcMap_PHYS n p).sf unitState_SPARE_MAPPED u 1).flashOnce .retired)

/-! ### Beginning a command -/

/-- The BW die restarts: the Bw block is as after power-on, its segments awake; the always-on controller runs on (R28, R35, R38).
(DEDUCED: assumption 15) -/
def bwRestart (d : Dev) : Dev :=
  { d.unitReset uBw with
    sleep := { d.sleep with drained := [], winWakes := [], swfErr := [] }
    buf := { d.buf with queues := d.buf.queues.map fun q => (q.1, q.2.map fun x => { x with held := false }) } }

/-- What RESTART does to a leaf as it begins: the unit is reset (R28), in the way its chapter states. A power die keeps its
registers, outputs and wire model (R384, R490). (DEDUCED: assumption 15) -/
def restartLeaf (d : Dev) (u : Nat) : Dev :=
  let n := unitInst u
  match unitKind u with
  | .eth => ((d.ethLost n).setEth n {}).unitReset u
  | .can => ((d.canStop n).unitReset u).canSet n canStopped
  | .lin =>
    let d := d.linStampNone n
    let d := { d.setLin n {} with bus := { (d.setLin n {}).bus with
      linSched := d.bus.linSched.filter fun e => e.1 / 512 != n } }
    d.unitReset u
  | .hr => d.ringSetRestart n
  | .ac => d.unitReset u
  | .bw => d.bwRestart
  | .page => d.cxPageRestart n
  | .eng => if d.follows n then d else d.engReset n
  | _ => d

/-- A row of the buffer is asked to be replaced (R48). The unit stays in RUN; out of QUIESCED or FAULTED it is UPDATING until the
row is replaced, and FAULTED where no spare is found (R36). (DEDUCED: assumption 15) -/
def replaceRow (d : Dev) (u tag row : Nat) : Dev :=
  if d.buf.rowOut.isSome then d.cmdEnd u tag ucBadState
  else
    let d := if d.actsAs u = stRun then d else d.takeState u stUpdating
    if d.spareRow.isNone then
      (if d.leafState u = stUpdating then d.takeFault u fcauseNoSpare else d).cmdEnd u tag ucNoSpare
    else d.rowOutStart (row % 1024) true

/-- RESTART of a barrier link retrains it (R520); out of QUIESCED or FAULTED the unit is UPDATING until the link is up (R36). -/
def restartLink (d : Dev) (u : Nat) : Dev :=
  (if d.actsAs u = stRun then d else d.takeState u stUpdating).blLost (unitInst u)

/-- The work that took a unit into UPDATING has ended: it enters QUIESCED (R36). -/
def updatingEnd (d : Dev) (u : Nat) : Dev := if d.leafState u = stUpdating then d.takeState u stQuiesced else d

/-- Beginning a command on one leaf that takes part; the command waits for it, or it ends at once. -/
def beginLeaf (d : Dev) (cmd : Nat) (u : Nat) : Dev :=
  match cmd with
  | 1 =>
    let d := d.sf unitState_DRAINING u 1
    if d.drained u && !drainsOnWire u then (d.takeState u stQuiesced).partEnd u ucOk else d
  | 2 => (d.takeState u stRun).partEnd u ucOk
  | 4 =>
    if unitKind u ≠ .eth then d.takeState u stUpdating
    else if (d.opOf u).isNone then d
    else
      match d.paRequest 0 (.retrain (unitInst u)) 250 with
      | (none, d) => d.partEnd u ucNoPower
      | (some _, d) => d
  | 3 | 6 => d.takeState u stUpdating
  | 5 => (d.restartLeaf u).takeState u stUpdating
  | 7 =>
    if unitKind u = .ac ∧ d.coreBusy (unitInst u) then d.sf unitState_DRAINING u 1
    else (d.takeFault u fcauseSoftware).partEnd u ucOk
  | _ => ((d.takeState u stOffline).lanePower u false).partEnd u ucOk

/-- Whether a leaf can take the command now: its state, and no other command running on it. -/
def leafReady (d : Dev) (cmd u : Nat) : Bool := stateAccepts u cmd (d.actsAs u) && (d.opOf u).isNone

/-- The command after its checks (R35, R36, R42). The first part that cannot take it fails a group's command before any part
moves, which leaves what the roll-back would. -/
def runCmd (d : Dev) (init u cmd arg tag : Nat) : Dev :=
  let ps := d.parts u cmd
  if cmd = cmdNop ∨ ps.isEmpty then d.cmdEnd u tag ucOk
  else if ps.any fun p => !d.leafReady cmd p then d.cmdEnd u tag ucBadState
  else
    let d := (d.sf unitCmdStatus_BUSY u 1)
    let o : UnitOp := ⟨u, cmd, arg, tag, init, ps.map fun p => (p, d.actsAs p), ps⟩
    match unitClass u with
    | 0x30 =>
      let d' := d.replaceRow u tag arg
      if d'.b unitCmdStatus_BUSY u then d'.setOps (d'.ops ++ [o]) else d'
    | 0x3C => (d.setOps (d.ops ++ [o])).restartLink u
    | _ => ps.foldl (fun d p => d.beginLeaf cmd p) (d.setOps (d.ops ++ [o]))

/-- The checks of a command in their order: BUSY (R40), permission (R41), class (R33). `ok` is the permission that its write was
checked for as it reached the bridge (R437), and `go` is what follows. (DEDUCED: assumption 15) -/
def cmdGuard (d : Dev) (ok : Bool) (u cmd tag : Nat) (go : Dev → Dev) : Dev :=
  if d.b unitCmdStatus_BUSY u then d.rejWr u
  else if !ok then d.cmdEnd u tag ucPermission
  else if !accepts u cmd then d.cmdEnd u tag ucUnsupported
  else go d

/-- A unit command but BRING_ONLINE. (DEDUCED: assumption 15) -/
def unitCmd (d : Dev) (ok : Bool) (init u cmd arg tag : Nat) : Dev := d.cmdGuard ok u cmd tag fun d => d.runCmd init u cmd arg tag

/-! ### Work of UPDATING units -/

/-- The clusters whose set an UPDATE replaces. -/
def updClusters (d : Dev) (u : Nat) : List Nat :=
  match unitKind u with
  | .fe => List.range 8
  | .fc => [unitInst u]
  | .cx => d.svcClusters
  | _ => []

/-- The work of a leaf succeeds: spares, local data (R46, R546), QUIESCED. -/
def workLeaf (d : Dev) (cmd u : Nat) : Dev :=
  match unitKind u with
  | .eng =>
    let n := unitInst u
    if cmd = cmdUpdate ∨ cmd = cmdReplace then (if d.follows n then d else d.engReset n).takeState u stQuiesced
    else d.takeState u stQuiesced
  | .pd => { d with load := { d.load with sampled := d.load.sampled.filter (· / 32 != unitInst u) } }.takeState u stQuiesced
  | _ => (d.retrainEnd u).takeState u stQuiesced

/-- The retrain of a port has its leave (R260), and the port enters UPDATING; a leave nothing waits for is given back. -/
def retrainGranted (d : Dev) (p : Nat) : Dev :=
  match d.opOf (uEth p) with
  | some o =>
    if o.cmd = cmdRecal ∧ d.actsAs (uEth p) = stQuiesced then d.takeState (uEth p) stUpdating else d.retrainEnd (uEth p)
  | none => d.retrainEnd (uEth p)

/-- The retrain of a port is denied its leave (R68). -/
def retrainDenied (d : Dev) (p : Nat) : Dev :=
  match d.opOf (uEth p) with
  | some o => if o.cmd = cmdRecal then d.partEnd (uEth p) ucNoPower else d
  | none => d

/-- The work of a command's UPDATING units ends (R36, R42): the image check passed or not; REPLACE finds its spare or not.
(DEDUCED: assumption 15; DESIGN CHOICE: assumption 51) -/
def workComplete (d : Dev) (u : Nat) (imageOk : Bool) : Dev :=
  match d.opAt u with
  | none => d
  | some o =>
    if (d.parts u o.cmd).all fun p => d.actsAs p == stUpdating then
      if o.cmd = cmdReplace then
        match d.mapSpare u with
        | (false, d) => (o.wait.foldl (fun d p => d.takeFault p fcauseNoSpare) (d.dropOp o)).cmdEnd u o.tag ucNoSpare
        | (true, d) => (o.wait.foldl (fun d p => d.workLeaf o.cmd p) (d.dropOp o)).cmdEnd u o.tag ucOk
      else if imageOk = false ∧ unitKind u ≠ .eng then
        let d := d.dropOp o
        (if unitIsGroup u then d.rollback o else d.takeFault u fcauseImage).cmdEnd u o.tag ucImage
      else
        (o.wait.foldl (fun d p => d.workLeaf o.cmd p) (d.dropOp o)).cmdEnd u o.tag ucOk
    else d

/-- Every cell of the row being replaced is free (R48): the lowest free spare row is mapped in, and allocation resumes; a row that
failed meanwhile is replaced next. (DEDUCED: assumption 29) -/
def rowFreed (d : Dev) : Dev :=
  match d.buf.rowOut with
  | none => d
  | some (row, cmd) =>
    let d := { d with buf := { d.buf with rowOut := none, rowDebt := 0 } }.sf bqFree_FREE 0 (d.freeCells + (256 - d.buf.rowDebt))
    let d := match d.spareRow with
      | some n => ((d.sf idRowMap_USED n 1).sf idRowMap_ROW n row).flashOnce .retired
      | none => d
    let d := if cmd then (d.updatingEnd uBq).partEnd uBq ucOk else d.raise 16 row 0
    match d.buf.rowWait with
    | [] => d
    | r :: rs => { d with buf := { d.buf with rowWait := rs } }.rowFailed r

/-- An internal fault of a unit (R36): not from OFFLINE. A QUIESCE still draining, or other work, ends with BAD_STATE. An AES
core does not detect its fault: the core only gives wrong results from now on (R47, R354). -/
def internalFault (d : Dev) (u cause : Nat) : Dev :=
  if unitKind u = .ac then
    let p := d.f idAcMap_PHYS (unitInst u)
    { d with cx := { d.cx with faulty := p :: d.cx.faulty.filter (· != p) } }
  else if unitIsGroup u ∨ d.leafState u = stOffline then d
  else
    let d := (d.withPair u).foldl (fun d x => d.takeFault x cause) d
    d.partEnd u ucBadState

end Dev

end Sys2Proof.Machine
end

