-- ==== Sys2Proof/Machine/RegCheck.lean ====
section
/-! DEFINITION. What a register accepts (R15, R25 to R27 and the field tables): the fields software may write, the values that
discard the whole write, the values stored in place of others, and the Umber rate rule (R63). -/
namespace Sys2Proof.Machine

/-- The bits of a register whose fields have one of the access codes of `accs`. -/
def fieldMask (r : Reg) (accs : List Access) : Nat :=
  r.fields.foldl (fun m f => if accs.contains f.acc then m ||| setBits f.hi f.lo (2 ^ 32 - 1) 0 else m) 0

/-- Those bits of one instance, whose reserved fields take nothing (R27). -/
def instMask (r : Reg) (i : Nat) (accs : List Access) : Nat := fieldMask r accs &&& regBits r i

/-- Whether a register holds a field that software may write (R547). -/
def writable (r : Reg) : Bool := r.fields.any fun f => f.acc != .ro

/-- Port indices that R14 calls invalid. -/
def badPort (p : Nat) : Bool := (decide (26 ≤ p ∧ p ≤ 31)) || decide (96 ≤ p)

/-- The four bytes of a word. -/
def bytes4 (v : Nat) : List Nat := (List.range 4).map fun j => bits (8 * j + 7) (8 * j) v

/-- The bit time of a CAN phase in clock periods, with whether SJW exceeds TSEG2 (R296). -/
def canNomTime (v : Nat) : Nat := (bits 31 27 v + 1) * (3 + bits 26 19 v + bits 18 12 v)
def canDataTime (v : Nat) : Nat := (bits 31 27 v + 1) * (3 + bits 26 22 v + bits 21 18 v)

/-- Whether a MonCfg word names a source and a selection that exist (R470). -/
def monCfgOk (v : Nat) : Bool :=
  let sel := v % 2 ^ 24
  match bits 30 28 v with
  | 1 => !badPort (sel % 128) && emitPort (sel % 128)
  | 5 => decide (sel % 32 < 24)
  | 6 => decide (sel % 128 < 96)
  | 7 => false
  | _ => true

/-- Registers of the management cores and their rings that a host never writes (0x07_0060 to 0x07_0FFF).
(DESIGN CHOICE: assumption 14) -/
def mgClosed (off : Nat) : Bool := decide (0x070060 ≤ off ∧ off < 0x071000)

namespace Dev

/-- The rate of a port under R63, in units of 10 Mb/s: the configured rate, the highest of the interface with autonegotiation, the
ceiling while stepping is enabled; a port without an interface counts nothing. (DEDUCED: assumption 17) -/
def umberUnits (d : Dev) (p : Nat) : Nat :=
  if 12 ≤ p then 1
  else
    let i := d.f ethIntf_INTF p
    if i = 0 then 0
    else if i = 7 ∧ d.b ethStepCfg_STEP_EN p then speedKbps (rateSpeed (d.f ethStepCfg_CEIL p)) / 10000
    else if d.b ethIntf_AN_EN p then ((intfSpeeds i).map fun s => speedKbps s / 10000).foldl max 0
    else speedKbps (d.f ethIntf_SPEED p) / 10000

/-- The sum of R63, as MdUmberRate.SUM shows it. (DEDUCED: assumption 17) -/
def umberSum (d : Dev) : Nat :=
  ((List.range 20).map d.umberUnits).sum + ((List.range 2).map fun h => if d.b hbEp_LINK_UP h then 800 else 0).sum

/-- Whether the device meets R63: E0 to E3 at 10 Gb/s or less, the sum within 60 Gb/s. (DEDUCED: assumption 17) -/
def umberOk (d : Dev) : Bool := decide (d.umberSum ≤ 6000) && (List.range 4).all fun p => decide (d.umberUnits p ≤ 1000)

/-- R63 for a rate change in Umber. -/
def umberAfter (d : Dev) (r : Reg) (i v : Nat) : Bool :=
  d.mode != 0 || (d.wr r i (BitVec.ofNat 32 v)).umberOk

/-- The sum of the idle slopes of the enabled shapers of a port with word `v` in class `c` (R269). -/
def idleSum (d : Dev) (p c v : Nat) : Nat :=
  ((List.range 8).map fun k =>
    let w := if k = c then v else (d.rd .ethCbs (8 * p + k)).toNat
    if bitAt 31 w then w % 2 ^ 25 else 0).sum

/-- Whether two of stepping, LPI and gates would be on at once (R288). (DEDUCED: assumption 16) -/
def twoOn (a b c : Bool) : Bool := (a && b) || (a && c) || (b && c)

/-- CAN timing of channel `n` with the words of its registers (R296, R299). -/
def canTimingOk (n ctl nom data xl pwm : Nat) : Bool :=
  decide (160 ≤ canNomTime nom) && decide (0 < bits 26 19 nom) && decide (bits 11 5 nom ≤ bits 18 12 nom)
    && decide ((if n < 32 ∧ bitAt 29 ctl = false then 32 else 20) ≤ canDataTime data)
    && decide (bits 17 14 data ≤ bits 21 18 data)
    && decide (bits 17 14 xl ≤ bits 21 18 xl) && (decide (n < 32) || decide (8 ≤ canDataTime xl))
    && !(bitAt 31 pwm && bitAt 30 pwm)
    && (!bitAt 31 pwm || decide (bits 23 18 pwm + bits 17 12 pwm = canDataTime xl))

/-- Channels whose gang would change under a new PdGang word (R382). -/
def gangChanges (d : Dev) (p v : Nat) : List Nat :=
  ((List.range 32).filter fun c => gangSizeOf v c ≠ gangSizeOf (d.rd .pdGang p).toNat c).map (32 * p + ·)

/-- Whether a write that leaves `v` in a register is taken at all; the field tables and the rules they cite say which values
discard it. Registers with a row of their own have their own check. (DEDUCED: assumption 16) -/
def regCheck (d : Dev) (r : Reg) (i v : Nat) : Bool :=
  let within (lo hi x : Nat) : Bool := decide (lo ≤ x ∧ x ≤ hi)
  match r with
  | .mdModeReq => v % 4 != 3
  | .mdPaBudget => decide (i < 3) || within 0 6000 (v % 65536)
  | .feRecircCfg => within 16 4096 (v % 2 ^ 13)
  | .tbCmdArg => !badPort (v % 128)
  | .tbL2Cfg => within 0 1000 (bits 31 22 v) && within 0 30000 (v % 2 ^ 15)
  | .bqMirrorCfg =>
    let src := bits 26 20 v
    bits 29 28 v != 3 && within 0 19 (bits 19 13 v) && emitPort src && !(decide (32 ≤ src) && !bitAt 27 v)
  | .bqMirrorSample => within 0 9728 (v % 2 ^ 14)
  | .bqPortCfg => within 0 100 (v % 128)
  | .hrRxCfg => d.rxCfgOk i v && !(decide (i < 256) && d.ethBound (i / 16) && bits 25 24 v == 3)
  | .hrTxCfg => d.txCfgOk i v
  | .hrRxTail => d.tailOk false i v
  | .hrTxTail => d.tailOk true i v
  | .hrRxBaseLo | .hrRxBaseHi => !d.b hrRxCfg_ENABLE i || v == (d.rd r i).toNat
  | .hrTxBaseLo | .hrTxBaseHi => !d.b hrTxCfg_ENABLE i || v == (d.rd r i).toNat
  | .ethMacCfg => within 1514 9728 (bits 29 16 v)
  | .ethIntf => ethIntfOk i v && d.umberAfter .ethIntf i v
  | .ethLinkCfg => within 0 1000 (bits 31 16 v) && within 0 10000 (v % 2 ^ 14)
  | .ethPauseCfg => within 0 10000 (v % 2 ^ 14)
  | .ethStepCfg =>
    !(decide (4 ≤ i ∧ i < 12) && bits 27 26 v == 3) && decide (bits 25 24 v ≤ bits 27 26 v)
      && !twoOn (bitAt 31 v) (d.b ethLpiCfg_LPI_EN i) (d.b ethGateCfg_GATE_EN i) && d.umberAfter .ethStepCfg i v
  | .ethLpiCfg => (!bitAt 31 v || (decide (2 ≤ d.f ethIntf_INTF i ∧ d.f ethIntf_INTF i ≤ 5)))
      && !twoOn (d.b ethStepCfg_STEP_EN i) (bitAt 31 v) (d.b ethGateCfg_GATE_EN i)
  | .ethCbs => decide (d.idleSum (i / 8) (i % 8) v ≤ d.rate (i / 8))
      || decide (d.idleSum (i / 8) (i % 8) v ≤ d.idleSum (i / 8) 8 0)
  | .ethPreempt => within 1 128 (bits 23 16 v)
  | .ethGateCfg => within 1 256 (bits 25 17 v)
      && !twoOn (d.b ethStepCfg_STEP_EN i) (d.b ethLpiCfg_LPI_EN i) (bitAt 31 v)
      && !(d.b ethGateCfg_PENDING i && bits 25 17 v != d.f ethGateCfg_ADMIN_LEN i)
  | .ethGateAdminBase => !d.b ethGateCfg_PENDING (i / 3)
      && (decide (i % 3 ≠ 0) || within 0 999999999 (v % 2 ^ 30))
  | .ethGateAdminCycle | .ethGateAdminExt => !d.b ethGateCfg_PENDING i
  | .ethGateAdminListOp => !d.b ethGateCfg_PENDING (i / 256) && bits 9 8 v != 3
  | .ethGateAdminListInterval => !d.b ethGateCfg_PENDING (i / 256)
  | .tbSgBase => decide (i ≠ 0) || within 0 999999999 (v % 2 ^ 30)
  | .canCtl => canTimingOk i v (d.rd .canBtNom i).toNat (d.rd .canBtData i).toNat (d.rd .canBtXl i).toNat
      (d.rd .canXlPwm i).toNat
  | .canBtNom => canTimingOk i (d.rd .canCtl i).toNat v (d.rd .canBtData i).toNat (d.rd .canBtXl i).toNat
      (d.rd .canXlPwm i).toNat
  | .canBtData => canTimingOk i (d.rd .canCtl i).toNat (d.rd .canBtNom i).toNat v (d.rd .canBtXl i).toNat
      (d.rd .canXlPwm i).toNat
  | .canBtXl => canTimingOk i (d.rd .canCtl i).toNat (d.rd .canBtNom i).toNat (d.rd .canBtData i).toNat v
      (d.rd .canXlPwm i).toNat
  | .canXlPwm => canTimingOk i (d.rd .canCtl i).toNat (d.rd .canBtNom i).toNat (d.rd .canBtData i).toNat
      (d.rd .canBtXl i).toNat v
  | .moWinCfg => !badPort (v % 128) && !(d.obj (d.f moWinSel_OBJ i)).valid
  | .moWinKey => d.objKeyOk i v
  | .linCfg => within 13 26 (bits 28 24 v) && within 1000 20000 (v % 2 ^ 15)
  | .linSchedEntry => d.linEntryOk i v
  | .linFrame => within 1 8 (bits 6 3 v) && v % 4 != 3
  | .tunTxStreamCtl => within 0 19 (bits 25 19 v)
  | .tunTxStreamAgg => within 128 9710 (v % 2 ^ 14)
  | .tunTxBindDest => within 32 95 (v % 128)
  | .tunRxStreamBus => (bytes4 v).all fun b => !badPort (b % 128)
  | .tmCapCfg => bits 30 29 v != 0
  | .tmTtCtl => d.trigCtlOk i v
  | .cxSvcCfg => decide (v % 2 ^ 10 * 256 + bits 20 16 v * 0x1100 ≤ 262144)
  | .cxPin => within 0 11 (v % 16)
  | .cxJobLen | .cxJobOut => within 0 1048576 (v % 2 ^ 21)
  | .ksQuota => d.quotaOk i v
  | .ksMaskCfg => within 4 1024 (v % 2 ^ 11)
  | .ldCfg => bits 31 30 v != 3 && bits 29 28 v != 3 && within 1 50 (bits 17 12 v) && within 2 400 (v % 2 ^ 10)
  | .ldWire => decide (bits 31 28 v < 11)
      && (bits 31 28 v != 0 || (within 10 4000 (bits 27 16 v) && within 1 6000 (v % 2 ^ 13)))
  | .pdLoc => within 10 1000 (v % 2 ^ 10)
  | .pdAggWarn => within 1 40000 (v % 2 ^ 17)
  | .pdAdmit => within 50 1000 (v % 2 ^ 10)
  | .pdAdcSeq => bits 9 8 v != 3 && decide (bits 7 6 v < 2)
  | .pdGang => (d.gangChanges i v).all fun c => (d.ld (d.leader c)).st == ldOff
  | .bwSegPorts => d.segPortsOk (i / 3) (i % 3) v
  | .lsFaultCfg => bits 1 0 v != 3
  | .bwSegRoute => (List.range 16).all fun k => bits (2 * k + 1) (2 * k) v != 3
  | .bwSegCfg => within 0 4096 (bits 31 16 v) && within 0 4000 (v % 2 ^ 12)
  | .bwWinCfg => within 1 4096 (v % 2 ^ 13)
  | .bwWinStorm => within 1 3600 (v % 65536)
  | .bwWinStuck => within 0 3600 (v % 65536)
  | .bwCanWake => within 5 50 (bits 23 16 v) && within 5 50 (v % 64)
  | .bwSwfCfg => within 0 8 (v % 16)
  | .bwLinWake => within 250 5000 (v % 2 ^ 13)
  | .pdProfile => decide (8 ≤ i / 8 % 16)
  | .hbDomBind => i == 0 || d.actsAs (uHr i) == stOffline
  | .hbFarCfg => within 10 1000 (v % 2 ^ 10)
  | .hbEthHostCfg => within 0 19 (v % 128)
      && !(bitAt 31 v && d.b hbEthHostCfg_ENABLE (1 - i) && v % 128 == d.f hbEthHostCfg_PORT (1 - i))
  | .lsDrain => within 5 500 (v % 2 ^ 10)
  | .lsSepiaCfg | .lsSepiaPorts | .lsSepiaTrig => !d.inSepia
  | .lsThermCfg => within 80 135 (v % 256)
  | .monCfg => monCfgOk v
  | .monScale => within 0 31 (v % 64)
  | .monPeriod => within 10 1000000 (v % 2 ^ 20)
  | .evMcRoute => (bytes4 v).all fun b => b % 32 != 31
  | _ => true

/-- What a register stores for a value that is taken: the "stored as" rules of the field tables. -/
def regFix (r : Reg) (v : Nat) : Nat :=
  let up (hi lo m v : Nat) : Nat := setBits hi lo (max m (bits hi lo v)) v
  let down (hi lo m v : Nat) : Nat := setBits hi lo (min m (bits hi lo v)) v
  match r with
  | .unitQuiesceTmo => up 19 0 10 v
  | .feBudgetDef => up 14 0 16 v
  | .feWaitTmo => up 15 0 1 v
  | .feOrderTmo => up 16 0 10 v
  | .tbL2Cfg => up 21 18 1 v
  | .tbL2Hold => up 15 0 1 v
  | .bqReserve | .bqPortLimit | .bqQLimit | .bqQDeLimit | .bqQMark => down 18 0 262144 v
  | .bqQResid => up 16 0 10 (down 16 0 100000 v)
  | .bqMirrorSample => up 31 16 1 (if v % 2 ^ 14 = 0 then v else up 13 0 64 v)
  | .hrRxBaseLo | .hrTxBaseLo => setBits 11 0 0 v
  | .hrRxQ => up 10 0 1 (down 10 0 1024 v)
  | .ethPauseCfg => up 31 16 1 v
  | .ethStepCfg => up 15 0 1 v
  | .ethStepUp => up 18 0 1 v
  | .ethLpiCfg => up 25 16 1 v
  | .ethPlcaCfg => up 15 8 1 v
  | .ethSched => up 6 0 1 v
  | .linSchedEntry => up 23 16 1 v
  | .tunTxStreamCtl => up 15 8 1 v
  | .cxCtxAddrLo => setBits 2 0 0 v
  | .bwSegCfg => up 11 0 1 v
  | .lsWdogCfg => up 15 0 1 v
  | .monScale => up 31 6 1 v
  | _ => v

/-- Whether initiator `n` may write a register whose own rule names its writers: domain 0 and the management cores (R421, R428,
R476), for MgHashCtl the cores alone. -/
def writerOk (r : Reg) (n : Nat) : Bool :=
  match r with
  | .hbDomBind | .evMcStatus | .evPinStatus | .evSwRaise | .bwSleepCmd => n == 0 || n == 16
  | .mgHashCtl => n == 16
  | _ => true

/-- Registers whose fields only a commit sets (R56, R382). -/
def stagedOnly (r : Reg) : Bool :=
  match r with
  | .feSetSel | .clsSetMap | .pdGang => true
  | _ => false

/-- The word that a register holds after `v` is written with the bits of `m`: RW fields take it, RWL fields where `open'`, W1C
bits that are written 1 clear (R25, R27). -/
def regMerge (d : Dev) (r : Reg) (i v m : Nat) (open' : Bool) : Nat :=
  let old := (d.rd r i).toNat
  let st := instMask r i (if open' then [.rw, .rwl] else [.rw]) &&& m
  regFix r (mergeBits (mergeBits old v st) 0 (instMask r i [.w1c] &&& m &&& v))

/-- The word that decides whether a write is taken: every field that software may write has its new value. -/
def regAsked (d : Dev) (r : Reg) (i v m : Nat) : Nat :=
  mergeBits (d.rd r i).toNat v (instMask r i [.rw, .rwl, .w1s, .wo] &&& m)

/-- The bits of a masked write that its unit's state lets pass: the RWL fields of a unit that is not unlocked drop out (R26). -/
def passMask (d : Dev) (r : Reg) (i u m : Nat) : Nat :=
  if d.unlocked u then m else m - (m &&& instMask r i [.rwl])

/-- Whether the fields that a write of unit `u` may still set have values that are taken (R15, R26). -/
def regTaken (d : Dev) (r : Reg) (i u v m : Nat) : Bool :=
  let p := d.passMask r i u m
  p &&& instMask r i [.rw, .rwl, .w1c, .w1s, .wo] == 0 || d.regCheck r i (d.regAsked r i v p)

/-- A write that stores fields (R15, R25, R26), and what follows when it is taken. A locked RWL field counts a lock refusal and the
other fields go on; a value that is not taken discards what is left and counts as rejected. What a commit brings was checked when it
was staged, and every value applies (R54). -/
def storeThen (d : Dev) (staged : Bool) (r : Reg) (i v m : Nat) (go : Dev → Dev) : Dev :=
  match regUnit r i with
  | none => d
  | some u =>
    if staged then go (d.wr r i (BitVec.ofNat 32 (d.regMerge r i v m true)))
    else
      let e := if d.regTaken r i u v m then go (d.wr r i (BitVec.ofNat 32 (d.regMerge r i v (d.passMask r i u m) true))) else d.rejWr u
      if d.passMask r i u m = m then e else e.inc .unitLockRef u

/-- A write from outside a commit that only stores fields. (DESIGN CHOICE: assumption 14) -/
def regStore (d : Dev) (r : Reg) (i v m : Nat) : Dev := d.storeThen false r i v m id

end Dev

end Sys2Proof.Machine
end

