-- ==== Sys2Proof/Machine/Txn.lean ====
section
/-! DEFINITION. Transactions (R52 to R57, R547, R548), the life of epochs (R50), snapshots (R58 to R60), and the mode change as
a transaction (R64, R550), up to the issue of the commit token. -/
namespace Sys2Proof.Machine

/-- PHASE of EpStatus. -/
def phStaging : Nat := 1
def phReady : Nat := 2
def phWaiting : Nat := 3
def phCommitted : Nat := 4
def phAborted : Nat := 5

/-- CAUSE of EpStatus. -/
def epRefused : Nat := 1
def epTimeout : Nat := 2
def epTargetLost : Nat := 3
def epLiveLimit : Nat := 4
def epBusy : Nat := 5
def epLocked : Nat := 6
def epPermission : Nat := 7
def epSoftware : Nat := 8
def epRegulator : Nat := 9

/-- The counter with constructor number `k`. -/
def ctrOf (k : Nat) : Option Ctr :=
  ([Ctr.unitRejWr, .unitLockRef, .unitRefused] ++ ctrPlaces.map fun p => p.what).find? fun c => c.ctorIdx == k

/-- The unit whose page holds the counter with key `k`. -/
def ctrUnit (k : Nat) : Option Nat :=
  match ctrOf (k % 1024) with
  | none => none
  | some c =>
    match c with
    | .unitRejWr | .unitLockRef | .unitRefused => some (k / 1024)
    | _ => (ctrPlaces.findSome? fun p => if p.what = c then p.off? (k / 1024) else none).bind unitAt

/-- The units whose class is `c`. -/
def classUnits (c : Nat) : List Nat := (List.range unitCount).filter fun u => unitClass u == c

/-- The first of each distinct element. -/
def nubNat : List Nat → List Nat
  | [] => []
  | x :: xs => x :: (nubNat xs).filter (· != x)

namespace Dev

def setEp (d : Dev) (x : Epochs) : Dev := { d with ep := x }
def setTxn (d : Dev) (t : Option Txn) : Dev := d.setEp { d.ep with txn := t }
def phase (d : Dev) : Nat := d.f epStatus_PHASE 0

/-! ### Epochs (R50) -/

/-- Whether a frame counts for its epoch: a host frame of DIRECT mode and a mirror copy do not (R50, R183). -/
def qframeEpoch (e : Nat) (x : QFrame) : Bool := x.f.epoch == e && !x.direct && !x.mirror

/-- Whether a delivery still holds its epoch: it has not been delivered to its ring, and came by no slow path or crypto job. -/
def deliveryEpoch (e : Nat) (x : Delivery) : Bool := x.f.epoch == e && !x.mirror && !x.crypto && x.sq.isNone

/-- Whether a frame or a job of epoch `e` is still in the device (R50). -/
def epochUsed (d : Dev) (e : Nat) : Bool :=
  (d.eng.threads.any fun x => x.2.st != .idle && x.2.epoch == e)
    || (d.path.dispQ.any fun q => q.2.any fun w => match w with | .frame f => f.epoch == e | _ => false)
    || (d.path.recircQ.any fun f => f.epoch == e)
    || (d.path.order.any fun q => q.2.any fun x => match x.2 with | .committed f _ => f.epoch == e | _ => false)
    || (d.buf.queues.any fun q => q.2.any (qframeEpoch e))
    || (d.buf.rx.any fun r => (r.2.queue.any (deliveryEpoch e)) || r.2.claims.any fun c => deliveryEpoch e c.d)
    || (d.bus.eth.any fun p => (match p.2.wire with | some x => qframeEpoch e x.1 | none => false)
        || (match p.2.cut with | some x => qframeEpoch e x.1 | none => false))
    || (d.bus.can.any fun c => c.2.bufs.any fun b => !b.2.sched && b.2.f.epoch == e)

/-- EpCur and EpOldest as `ep.live` has them. -/
def epShow (d : Dev) : Dev :=
  (d.sf epCur_LIVE_COUNT 0 d.ep.live.length).sf epOldest_OLDEST_LIVE 0 (d.ep.live.headD d.epoch)

/-! ### The regulator (R61, R64) -/

/-- Whether the regulator is known not to answer (R514). -/
def setMute (d : Dev) (b : Bool) : Dev := { d with ep := { d.ep with mute := b } }

def setVcore (d : Dev) (mv : Nat) : Dev := (d.sf mdVcoreNow_CMD_MV 0 mv).emit (.link 3 ordVcore mv)

/-- A mode change ends with a result; every one but 0 raises the mode-change-failed event (R550). -/
def modeEnd (d : Dev) (res : Nat) : Dev :=
  let d := (d.sf mdModeStatus_CHANGING 0 0).sf mdModeStatus_LAST_RESULT 0 res
  let d := d.sf mdModeStatus_TARGET 0 d.mode
  if res = 0 then d else d.raise 9 0 res

/-- LAST_RESULT of an aborted mode change by its CAUSE (R550). -/
def modeResult (cause : Nat) : Nat :=
  if cause = epLiveLimit then 2 else if cause = epRegulator then 3
  else if cause = epTargetLost ∨ cause = epSoftware then 4 else 1

/-! ### Opening (R52, R53, R57) -/

/-- The units a transaction addresses. -/
def txnTargets (t : Txn) : List Nat :=
  match t.kind with
  | .mode _ => [uMd]
  | .table _ => [uTb]
  | .online _ us => us
  | _ => nubNat (t.items.map (·.unit))

/-- Writing RESULT of the stage entries of EpCmd STAGE that name one of `us`. -/
def entryResults (d : Dev) (t : Txn) (us : List Nat) (f : Nat → Nat) : Dev :=
  match t.kind with
  | .stage => (t.items.filter fun i => us.contains i.unit).foldl (fun d i =>
      d.sf epStageEntryCtl_RESULT i.entry (f (d.f epStageEntryCtl_RESULT i.entry))) d
  | _ => d

/-- Opening a transaction: step 2 of R53. -/
def txnOpen (d : Dev) (t : Txn) : Dev :=
  let w : Nat := (((((0 : Nat) + 2 ^ 31) + t.holder % 32 * 8) + phStaging))
  (d.wr .epStatus 0 (BitVec.ofNat 32 w)).setTxn (some { t with waiting := txnTargets t })

/-- An implicit transaction opens, or waits while another is open (R57). -/
def txnAsk (d : Dev) (t : Txn) : Dev :=
  match d.ep.txn with
  | none => d.txnOpen t
  | some _ => d.setEp { d.ep with waiting := d.ep.waiting ++ [t] }

/-- The next waiting transaction opens. -/
def txnNext (d : Dev) : Dev :=
  match d.ep.waiting with
  | [] => d
  | t :: ts => (d.setEp { d.ep with waiting := ts }).txnOpen t

/-- The BRING_ONLINE at a unit ends. -/
def onlineEnd (d : Dev) (u res : Nat) : Dev :=
  match d.opAt u with
  | none => d
  | some o => (d.dropOp o).cmdEnd u o.tag res

/-- What an implicit transaction leaves when it is aborted or discarded. -/
def txnFailed (d : Dev) (t : Txn) (cause : Nat) : Dev :=
  match t.kind with
  | .online u _ => d.onlineEnd u ucCommitFail
  | .table n => if t.dead then d else d.bgFail n resCommitFail
  | .mode _ =>
    let d := if d.ep.prevMv = 0 then d else (d.setVcore d.ep.prevMv).setEp { d.ep with prevMv := 0, settling := false }
    d.modeEnd (modeResult cause)
  | _ => d

/-- Aborting the open transaction (R54): no target applies any value, each returns to the state it had, and a DRAINING slot that
only it kept is FREE (R109). STAGED_EPOCH keeps its last value, after a commit as well. (DESIGN CHOICE: assumption 52) -/
def txnAbort (d : Dev) (cause fail : Nat) : Dev :=
  match d.ep.txn with
  | none => d
  | some t =>
    let d := (d.setEp { d.ep with txn := none, settling := false })
    let d := (t.staged ++ t.along).foldl (fun d u =>
      if d.leafState u = stStaged ∧ unitIsGroup u = false then d.setState u (d.f unitState_PREV_STATE u) else d) d
    let d := (((d.sf epStatus_PHASE 0 phAborted).sf epStatus_BUSY 0 0).sf epStatus_CAUSE 0 cause).sf epStatus_FAIL_UNIT 0 fail
    (d.txnFailed t cause).slotsRetire.txnNext

/-! ### Commit (R53 steps 5 to 8) -/

/-- Releasing what no live epoch uses any more; a commit that waits for the live limit and a slowing mode change go on with
`txnResume`. -/
def epochRelease (d : Dev) : Dev :=
  let live := d.ep.live.filter fun e => e == d.epoch || d.epochUsed e
  let d := d.setEp { d.ep with
    live := live
    modeOf := d.ep.modeOf.filter fun x => live.contains x.1
    hist := d.ep.hist.filter fun h => live.any fun e => epochBefore e h.1
    slowing := d.ep.slowing.filter live.contains }
  (d.epShow.tbReleaseFrozen).slotsRetire

/-- Step 8 of R53: the epoch is incremented and the commit token goes to every target, for a mode change to every unit
(R550). The new version of a table serves the new epoch from here on (R192). -/
def txnIssue (d : Dev) (t : Txn) : Dev :=
  let e := (d.epoch + 1) % 65536
  let old := d.ep.live
  let toks := match t.kind with | .mode _ => List.range unitCount | _ => txnTargets t
  let d := d.setEp { d.ep with
    live := old ++ [e]
    txn := some { t with issued := true, token := toks } }
  let d := match t.kind with
    | .mode m => d.setEp { d.ep with
        modeOf := Sparse.set (fun _ => 0) d.ep.modeOf e (m + 1)
        slowing := if m < d.mode then old else [] }
    | .table n => if t.dead then d else d.tbCommit n e
    | _ => d
  (d.sf epCur_CURRENT 0 e).epShow

/-- A slowing mode change commands its target once every epoch from before its commit has drained (R64 step 5). -/
def modeResume (d : Dev) : Dev :=
  let busy : Bool := match d.ep.txn with
    | some t => (match t.kind with | .mode _ => true | _ => false)
    | none => false
  if d.b mdModeStatus_CHANGING 0 ∧ d.ep.slowing.isEmpty ∧ busy = false ∧ d.f mdModeStatus_TARGET 0 = d.mode
      ∧ targetMv d.mode < d.f mdVcoreNow_CMD_MV 0 then
    let d := d.setVcore (targetMv d.mode)
    if d.ep.late then (d.setEp { d.ep with late := false }).sf mdModeStatus_CHANGING 0 0 else d.modeEnd 0
  else d

/-- The end of a transaction whose token has reached every target. -/
def txnFinish (d : Dev) (t : Txn) : Dev :=
  let e := d.epoch
  let d := (d.setTxn none).sf epStatus_PHASE 0 phCommitted
  let d := (d.sf epStatus_BUSY 0 0).slotsCommit ((e + 65535) % 65536) e
  let d := match t.kind with
    | .mode m =>
      let d := d.setEp { d.ep with prevMv := 0 }
      if targetMv m < d.f mdVcoreNow_CMD_MV 0 then d else d.modeEnd 0
    | _ => d
  d.epochRelease.modeResume.txnNext

/-- The first staged target that has left STAGED, or whose rebuild has failed (R210); the mode unit is lost to a mode change
when the device enters Sepia (R6). (DESIGN CHOICE: assumption 52) -/
def txnLost? (d : Dev) (t : Txn) : Option Nat :=
  let mode : Bool := match t.kind with | .mode _ => true | _ => false
  t.staged.find? fun u => (!unitIsGroup u && d.leafState u != stStaged) || (mode && d.inSepia) || t.dead

/-- Steps 6 and 7 of R53: a lost target aborts, the live limit waits, else the token is issued. -/
def txnTry (d : Dev) : Dev :=
  match d.ep.txn with
  | none => d
  | some t =>
    match d.txnLost? t with
    | some u => d.txnAbort epTargetLost (d.dirIndex u)
    | none =>
      let d := d.epochRelease
      if 4 ≤ d.ep.live.length then d.sf epStatus_PHASE 0 phWaiting
      else
        let d := d.txnIssue t
        match d.ep.txn with
        | some t' => if t'.token.isEmpty then d.txnFinish t' else d
        | none => d

/-- Every target has answered STAGED (R53 steps 4 and 5). A mode change that goes faster first waits for the regulator (R64
step 3); one that goes slower fails before it commits while the regulator is known not to answer (R514).
(DEDUCED: assumption 17) -/
def txnReady (d : Dev) (t : Txn) : Dev :=
  let d := d.sf epStatus_PHASE 0 phReady
  match t.kind with
  | .stage => if t.keepCommit ∨ d.b epCtl_AUTO_COMMIT 0 then d.txnTry else d
  | .mode m =>
    if d.mode < m then
      (d.setEp { d.ep with settling := true, prevMv := d.f mdVcoreNow_CMD_MV 0 }).setVcore (targetMv m)
    else if d.ep.mute then d.txnAbort epRegulator 0
    else d.txnTry
  | _ => d.txnTry

/-- A waiting commit aborts at once when a target leaves STAGED (R53 step 7). -/
def txnWatch (d : Dev) : Dev :=
  match d.ep.txn with
  | none => d
  | some t =>
    if d.phase = phWaiting then
      match d.txnLost? t with
      | some u => d.txnAbort epTargetLost (d.dirIndex u)
      | none => d
    else d

/-- After epochs were released: a waiting commit goes on, and so does a slowing mode change. -/
def txnResume (d : Dev) : Dev :=
  let d := match d.ep.txn with
    | some t => if d.phase = phWaiting ∧ t.issued = false ∧ d.ep.live.length < 4 then d.txnTry else d
    | none => d
  d.modeResume

/-- Epochs whose last frame or job has left stop being live (R50). -/
def epochRetired (d : Dev) : Dev := d.epochRelease.txnResume

/-! ### Staging (R53 step 3, R547, R55) -/

/-- The registers with the values of the entries of the units that are staged, and of the entries of the same unit that stand before
`it`, for the checks that look at several registers (R343). -/
def withStaged (d : Dev) (t : Txn) (it : StageItem) : Dev :=
  let before := (t.items.takeWhile (· != it)).filter fun i => i.unit == it.unit
  ((t.items.filter fun i => t.staged.contains i.unit) ++ before).foldl (fun d i =>
    match regAt i.off with
    | some (r, k) =>
      let d := d.wr r k (BitVec.ofNat 32 (mergeBits (d.rd r k).toNat i.data i.mask))
      match r with
      | .tmTtCtl => d.setTrig k { d.trig k with kind := d.f tmTtCtl_KIND k, target := (d.rd .tmTtTarget k).toNat }
      | _ => d
    | none => d) d

/-- Whether unit `u` is STAGED only with the gang or pair of another target (R383, R454). -/
def stagedAlong (d : Dev) (u : Nat) : Bool := d.leafState u == stStaged && d.ep.txn.any fun t => t.along.contains u

/-- Whether a unit's state lets it accept an entry: RUN or QUIESCED; a group unit makes no check of its STATE (R53, R545). -/
def stateTakes (d : Dev) (u : Nat) : Bool :=
  unitIsGroup u || d.leafState u == stRun || d.leafState u == stQuiesced || d.stagedAlong u

/-- Whether a staged program set selection names slots that a commit may select (R109, R110): every slot that the word selects
anew is LOADED, CURRENT or DRAINING in its cluster. -/
def slotsStageable (d : Dev) (r : Reg) (c v m : Nat) : Bool :=
  match r with
  | .feSetSel => m % 4 == 0 || [slLoaded, slCurrent, slDraining].contains (d.slotState c (v % 4))
  | _ => true

/-- Why a unit refuses an entry; 0 when it accepts: permission, the field's validity, the unit's state, the RWL rule (R53 step 3).
(DEDUCED: assumption 15) -/
def itemRefusal (d : Dev) (t : Txn) (it : StageItem) : Nat :=
  if (d.mayWrite t.holder it.off && (t.holder == 16 || !mgClosed it.off)) = false then epPermission
  else
    match regAt it.off with
    | none => epRefused
    | some (r, i) =>
      let v := d.regAsked r i it.data it.mask
      if writerOk r t.holder = false then epPermission
      else if unitAt it.off ≠ some it.unit ∨ regRsv r i ∨ writable r = false then epRefused
      else if (d.withStaged t it).regCheck r i v = false ∨ d.slotsStageable r i v it.mask = false ∨ d.stateTakes it.unit = false then epRefused
      else if instMask r i [.rwl] &&& it.mask ≠ 0 ∧ d.unlocked it.unit = false then epLocked
      else 0

/-- Why unit `u` refuses its part of the transaction; 0 when it accepts. The mode unit refuses in Sepia, where the device keeps
its mode (R6). (DEDUCED: assumption 15; DESIGN CHOICE: assumption 52) -/
def targetRefusal (d : Dev) (t : Txn) (u : Nat) : Nat :=
  let items := (t.items.filter fun i => i.unit == u).map (d.itemRefusal t)
  match items.find? (· != 0) with
  | some c => c
  | none =>
    match t.kind with
    | .online _ us => if us.contains u ∧ (d.leafState u = stOffline ∨ d.stagedAlong u = true) then 0 else epRefused
    | .mode m => if d.stateTakes u ∧ d.inSepia = false ∧ (m ≠ 0 ∨ d.umberOk) then 0 else epRefused
    | _ => if d.stateTakes u ∧ t.dead = false then 0 else epRefused

/-- The units that enter STAGED with target `u`: the others of its gang or lockstep pair (R383, R454). -/
def stagedWith (d : Dev) (u : Nat) : List Nat := (d.withPair u).filter fun v => v != u && d.leafState v != stStaged

/-- A target enters STAGED and shows the epoch to come; a group unit only the latter (R36, R545). Its gang or pair enters with
it. -/
def targetStage (d : Dev) (u : Nat) : Dev :=
  let e := d.sf unitEpoch_STAGED_EPOCH u ((d.epoch + 1) % 65536)
  if unitIsGroup u then e
  else (d.stagedWith u).foldl (fun d v => d.setState v stStaged) (if d.leafState u = stStaged then e else e.setState u stStaged)

/-- A target answers (R53 steps 3 and 4). -/
def targetAnswer (d : Dev) (u : Nat) : Dev :=
  match d.ep.txn with
  | none => d
  | some t =>
    if d.phase ≠ phStaging ∨ t.waiting.contains u = false then d
    else
      let c := d.targetRefusal t u
      let left := t.waiting.filter (· != u)
      let t' : Txn := if c = 0 then { t with waiting := left, staged := t.staged ++ [u], along := t.along ++ d.stagedWith u }
        else { t with waiting := left, refused := some (t.refused.getD (u, c)) }
      let d := if c = 0 then d.targetStage u else d
      let d := if c = 0 then
          let pend := (t.items.filter fun i => left.contains i.unit).map (·.entry)
          match t.kind with
          | .stage => (t.items.filter fun i => i.unit == u && !pend.contains i.entry).foldl (fun d i =>
              if d.f epStageEntryCtl_RESULT i.entry = 0 then d.sf epStageEntryCtl_RESULT i.entry 1 else d) d
          | _ => d
        else d.entryResults t [u] fun _ => 2
      let d := d.setTxn (some t')
      if left.isEmpty then
        match t'.refused with
        | some (x, c) => d.txnAbort c (d.dirIndex x)
        | none => d.txnReady t'
      else d

/-- EpStageTmo passes before every target has answered (R53). -/
def stageTimeout (d : Dev) : Dev :=
  match d.ep.txn with
  | none => d
  | some t =>
    if d.phase = phStaging then
      (d.entryResults t t.waiting fun r => if r = 0 then 3 else r).txnAbort epTimeout (d.dirIndex (t.waiting.headD 0))
    else d

/-- EpCommitTmo passes while PHASE is WAITING (R53 step 7). -/
def liveLimitTimeout (d : Dev) : Dev := if d.phase = phWaiting then d.txnAbort epLiveLimit 0 else d

/-! ### EpCmd and EpStageEntry -/

/-- A write of word `w` of stage entry `n` by an initiator (R52). -/
def stageEntryWrite (d : Dev) (init n w v : Nat) : Dev :=
  match d.ep.txn with
  | some _ => d.rejWr uEp
  | none =>
    let d := match w with
      | 0 => d.sf epStageEntryOff_OFFSET n v
      | 1 => d.wr .epStageEntryData n (BitVec.ofNat 32 v)
      | 2 => d.wr .epStageEntryMask n (BitVec.ofNat 32 v)
      | _ => (d.sf epStageEntryCtl_CLASS n (bits 31 24 v)).sf epStageEntryCtl_EXPAND n (bits 8 8 v)
    d.sf epStageEntryCtl_WRITER n init

/-- The items of stage entry `n`: one for its offset, or one for each unit of its class (R53). An offset that names no unit
goes to the root, which refuses it; so does a class without units, or an EXPAND offset in the header. -/
def entryItems (d : Dev) (n : Nat) : List StageItem :=
  let off := d.f epStageEntryOff_OFFSET n
  let data := (d.rd .epStageEntryData n).toNat
  let mask := (d.rd .epStageEntryMask n).toNat
  if d.b epStageEntryCtl_EXPAND n then
    let us := classUnits (d.f epStageEntryCtl_CLASS n)
    if us.isEmpty ∨ off < 0x60 then [⟨0, 1, data, mask, n⟩]
    else us.map fun u => ⟨u, unitBase u + off, data, mask, n⟩
  else [⟨(unitAt off).getD 0, off, data, mask, n⟩]

/-- EpCmd STAGE (R52, R53, R548). -/
def epStage (d : Dev) (init count : Nat) : Dev :=
  if d.ep.txn.isSome ∨ count = 0 ∨ 1024 < count then d.rejWr uEp
  else
    let ns := List.range count
    let d := ns.foldl (fun d n => d.sf epStageEntryCtl_RESULT n 0) d
    if ns.any fun n => d.f epStageEntryCtl_WRITER n != init then
      d.wr .epStatus 0 (BitVec.ofNat 32 (epBusy * 256 + init % 32 * 8 + phAborted))
    else d.txnOpen { kind := .stage, holder := init, items := ns.flatMap d.entryItems }

/-- EpCmd COMMIT (R52, R53, R548). -/
def epCommit (d : Dev) (init : Nat) : Dev :=
  match d.ep.txn with
  | none => d.rejWr uEp
  | some t =>
    if init ≠ t.holder ∨ t.issued ∨ d.ep.settling then d.rejWr uEp
    else if d.phase = phStaging then d.setTxn (some { t with keepCommit := true })
    else if d.phase = phReady then d.txnTry
    else d.rejWr uEp

/-- EpCmd ABORT (R52, R548). -/
def epAbort (d : Dev) (init : Nat) : Dev :=
  match d.ep.txn with
  | none => d.rejWr uEp
  | some t => if (init ≠ t.holder ∧ init ≠ 16) ∨ t.issued then d.rejWr uEp else d.txnAbort epSoftware 0

/-! ### Snapshots (R58 to R60) -/

/-- Unit `u` copies its live counters and gauges into their shadows. -/
def snapCopy (d : Dev) (u : Nat) : Dev :=
  let mine (k : Nat) : Bool := ctrUnit k == some u
  let keep := d.snaps.filter fun x => !mine x.1
  let new := (d.ctrs.filter fun x => mine x.1).foldl (fun m x => Sparse.set (fun _ => 0) m x.1 x.2) keep
  let d := { d with snaps := new }
  (d.sf unitSnap_SNAP_ID u (d.f epSnapStatus_SNAP_ID 0)).sf unitSnap_SNAP_VALID u 1

/-- The last unit has copied: DONE and the snapshot-done event. -/
def snapEnd (d : Dev) : Dev :=
  if d.ep.snapLeft.isEmpty ∧ d.b epSnapStatus_BUSY 0 then
    ((d.sf epSnapStatus_BUSY 0 0).sf epSnapStatus_DONE 0 1).raise 10 0 (d.f epSnapStatus_SNAP_ID 0)
  else d

/-- Whether frames move through a unit: ports and channels, rings, tunnels and objects, the engines, their tables, the buffer. -/
def onFramePath (u : Nat) : Bool :=
  match unitKind u with
  | .eth | .can | .lin | .hr | .mo | .tun | .fe | .fc | .eng | .cls | .tb | .bq => true
  | _ => false

/-- The token passes a unit. The units of the frame path that have not copied pass together, so that every frame is in the
shadows of exactly the units it has reached (R59). (DESIGN CHOICE: assumption 52) -/
def snapPass (d : Dev) (u : Nat) : Dev :=
  if d.ep.snapLeft.contains u then
    let now := if onFramePath u then d.ep.snapLeft.filter onFramePath else [u]
    ((now.foldl snapCopy d).setEp { d.ep with snapLeft := d.ep.snapLeft.filter fun x => !now.contains x }).snapEnd
  else d

/-- Units out of service copy as soon as the token is issued (R58); a STAGED unit acts as its previous state. -/
def snapAtOnce (d : Dev) (u : Nat) : Bool :=
  let s := if unitIsGroup u then (d.ustate u).1 else d.actsAs u
  s == stOffline || s == stQuiesced || s == stUpdating || s == stFaulted

/-- EpCmd SNAP (R58, R60). -/
def epSnap (d : Dev) (init : Nat) : Dev :=
  let other : Bool := match d.ep.txn with | some t => t.holder != init | none => false
  if other ∨ d.b epSnapStatus_BUSY 0 then d.rejWr uEp
  else
    let id := (d.f epSnapStatus_SNAP_ID 0 + 1) % 65536
    let now := (List.range unitCount).filter d.snapAtOnce
    let rest := (List.range unitCount).filter fun u => !d.snapAtOnce u
    let d := d.wr .epSnapStatus 0 (BitVec.ofNat 32 (2 ^ 31 + id))
    ((now.foldl snapCopy d).setEp { d.ep with snapLeft := rest }).snapEnd

/-- A write of EpCmd; other codes are ignored (R548). -/
def epCmdWrite (d : Dev) (init v : Nat) : Dev :=
  match v % 16 with
  | 1 => d.epStage init (bits 26 16 v)
  | 2 => d.epCommit init
  | 3 => d.epAbort init
  | 4 => d.epSnap init
  | _ => d

/-! ### Implicit transactions (R36, R44, R57, R64) -/

/-- BRING_ONLINE (R36): the units that take part stage under one implicit transaction. -/
def bringOnline (d : Dev) (ok : Bool) (init u tag : Nat) : Dev :=
  d.cmdGuard ok u cmdOnline tag fun d =>
    let ps := d.parts u cmdOnline
    if ps.isEmpty then d.cmdEnd u tag ucOk
    else if ps.any fun p => !d.leafReady cmdOnline p then d.cmdEnd u tag ucBadState
    else
      let d := d.sf unitCmdStatus_BUSY u 1
      let d := d.setOps (d.ops ++ [⟨u, cmdOnline, 0, tag, init, ps.map fun p => (p, stOffline), ps⟩])
      d.txnAsk { kind := .online u ps, holder := init }

/-- A permitted write of UnitCmd. A command that takes a STAGED unit away ends a commit that waits (R53 step 7). -/
def unitCmdWrite (d : Dev) (init u v : Nat) : Dev :=
  let cmd := v % 16
  if cmd = cmdOnline then d.bringOnline true init u (bits 15 8 v)
  else (d.unitCmd true init u cmd (bits 31 16 v) (bits 15 8 v)).txnWatch

/-- The channels a window addresses: the members of a group, or every leader and single channel (R404). -/
def windowChans (d : Dev) (u : Nat) : List Nat :=
  match unitKind u with
  | .ldg => d.groupChans (unitInst u)
  | _ => d.allLeaders

/-- A write to a load window at offset 0x60 or above (R44, R404); a window without members opens no transaction.
(DEDUCED: assumption 16; DESIGN CHOICE: assumption 52) -/
def windowWrite (d : Dev) (init u off v : Nat) : Dev :=
  let cs := d.windowChans u
  if cs.isEmpty then d
  else
    let its : List StageItem := cs.map fun n => ⟨uLd n, unitBase (uLd n) + off, v, 2 ^ 32 - 1, 0⟩
    d.txnAsk { kind := .window u, holder := init, items := its }

/-- A waiting implicit transaction that was not staged in time is discarded (R57). A mode change waits on (R64).
(DEDUCED: assumption 16) -/
def txnDiscard (d : Dev) : Dev :=
  let implicit (t : Txn) : Bool := match t.kind with | .mode _ => false | _ => true
  match d.ep.waiting.find? implicit with
  | none => d
  | some t =>
    let d := d.setEp { d.ep with waiting := d.ep.waiting.erase t }
    let d := d.txnFailed t epTimeout
    match t.kind with
    | .window w => d.rejWr w
    | .online u _ => d.rejWr u
    | _ => d

/-- A write of MdModeReq (R5, R64). (DEDUCED: assumption 16; DESIGN CHOICE: assumption 52) -/
def modeRequest (d : Dev) (init m : Nat) : Dev :=
  if d.b mdModeStatus_CHANGING 0 then d.rejWr uMd
  else if 2 < m then d
  else
    let d := d.sf mdModeReq_MODE 0 m
    if m = d.mode then d.sf mdModeStatus_LAST_RESULT 0 0
    else
      ((d.sf mdModeStatus_CHANGING 0 1).sf mdModeStatus_TARGET 0 m).txnAsk { kind := .mode m, holder := init }

/-- The regulator reports that it has settled, at `mv` (R64 step 3). (DESIGN CHOICE: assumption 51) -/
def regulatorSettled (d : Dev) (mv : Nat) : Dev :=
  let d := (d.sf mdVcoreNow_MEAS_MV 0 mv).setMute false
  if d.ep.settling then (d.setEp { d.ep with settling := false }).txnTry else d

/-- A mode change that waits for the regulator fails (R64 step 3). -/
def regulatorFailed (d : Dev) : Dev := if d.ep.settling then d.txnAbort epRegulator 0 else d

/-- The regulator reports a fault (R64): it answers. (DEDUCED: assumption 17) -/
def regulatorFault (d : Dev) : Dev := (d.setMute false).regulatorFailed

/-- The regulator neither settles nor answers within 2 ms (R64). From then on it counts as not answering until it reports again, and
every mode change fails (R514). (DEDUCED: assumption 17) -/
def regulatorSilent (d : Dev) : Dev := (d.setMute true).regulatorFailed

/-- Whether the mode change itself is still a transaction, its token on the way. -/
def modeInTxn (d : Dev) : Bool :=
  match d.ep.txn with
  | some t => (match t.kind with | .mode _ => true | _ => false)
  | none => false

/-- Epochs from before a slowing commit have not drained in time (R64 step 5). -/
def modeDrainTimeout (d : Dev) : Dev :=
  if d.b mdModeStatus_CHANGING 0 ∧ d.ep.slowing.isEmpty = false ∧ d.modeInTxn = false then
    ((d.setEp { d.ep with late := true }).sf mdModeStatus_LAST_RESULT 0 2).raise 9 0 2
  else d

/-! ### Pace monitors (R65, R66) -/

/-- A 1 µs window ends with the readings of the 16 monitors. -/
def paceWindow (d : Dev) (vs : List Nat) : Dev :=
  (List.zip (List.range 16) vs).foldl (fun d x =>
    (d.sf mdPace_PACE x.1 x.2).sf mdPace_MIN_SEEN x.1 (min (x.2 % 65536) (d.f mdPace_MIN_SEEN x.1))) d

def paceFloor (d : Dev) : Nat := d.f mdPaceFloor_FLOOR d.mode
def paces (d : Dev) : List Nat := (List.range 16).map (d.f mdPace_PACE)

/-- Whether a mode change has the regulator: it has commanded a faster mode's target, or holds the target of the one it left
until that mode's epochs have drained (R64 steps 3 to 5). (DEDUCED: assumption 17) -/
def modeHoldsVcore (d : Dev) : Bool :=
  d.ep.settling || d.ep.prevMv != 0 || !d.ep.slowing.isEmpty
    || (d.b mdModeStatus_CHANGING 0 && d.f mdModeStatus_TARGET 0 == d.mode)

/-- The adaptive step of VCORE (R66); a mode change that has the regulator keeps it. (DEDUCED: assumption 17) -/
def avsStep (d : Dev) : Dev :=
  let mv := d.f mdVcoreNow_CMD_MV 0
  let low := d.f mdVcoreBand_LOW_MV d.mode
  let high := d.f mdVcoreBand_HIGH_MV d.mode
  if d.modeHoldsVcore then d
  else if d.paces.any fun p => p * 100 < 102 * d.paceFloor then
    if mv < high then d.setVcore (min high (mv + 5)) else d
  else if d.b mdAvsCtl_ADAPT 0 ∧ low < mv ∧ (d.paces.all fun p => 105 * d.paceFloor ≤ p * 100) then
    d.setVcore (max low (mv - 5))
  else d

end Dev

end Sys2Proof.Machine
end

