-- ==== Sys2Proof/Machine/TimeOps.lean ====
section
/-! DEFINITION. The commands of the time unit (R335 to R338), the triggers (R342 to R348), the capture inputs (R349), and the events
of the power dies (R384 to R408). -/
namespace Sys2Proof.Machine

/-- A 64-bit two's complement number. -/
def signed64 (v : Nat) : Int := if v < 2 ^ 63 then (v : Int) else (v : Int) - 2 ^ 64

namespace Dev

/-- The passing of 1 ns while no command waits: at every 40th an edge of the 25 MHz reference advances the raw counter, between
them the time unit interpolates (R330, R331), and the PLCA coordinators send the beacons that fall due (R290). The BW die's copy
and the time of the HV side go on while the logic side is held in reset (R332, R417). The counter has 96 bits.
(DESIGN CHOICE: assumption 4) -/
def tick (d : Dev) : Dev :=
  let d := { d with sleep := { d.sleep with bwRaw := (d.sleep.bwRaw + 1) % 2 ^ 64, time := d.sleep.time + 1 } }
  if d.mg.held then d
  else
    let d := if d.time.sub < 39 then { d with time := { d.time with sub := d.time.sub + 1 } }
      else { d with raw := (d.raw + 40 * 2 ^ 16) % 2 ^ 96, time := { d.time with sub := 0 } }
    (List.range 8).foldl (fun d k => d.plcaTick (12 + k)) d

/-! ### Domain commands -/

/-- TmLatchCmd.LATCH (R338). -/
def timeLatch (d : Dev) : Dev :=
  let d := (List.range 3).foldl (fun d w => d.wr .tmLatchRaw w (BitVec.ofNat 32 ((d.raw + d.time.sub * 2 ^ 16) / 2 ^ (32 * w)))) d
  (List.range 4).foldl (fun d t => d.wrTime .tmLatchDom (3 * t) (d.domNow t)) d

/-- A write of TmConvCmd (R338). -/
def convWrite (d : Dev) (t : Nat) (go : Bool) : Dev :=
  if d.b tmConvCmd_BUSY 0 then d.rejWr uTm
  else
    let d := d.sf tmConvCmd_TD 0 t
    if go then d.sf tmConvCmd_BUSY 0 1 else d

/-- A conversion completes (R337, R338). -/
def convDone (d : Dev) : Dev :=
  if d.b tmConvCmd_BUSY 0 then
    let r := (d.rd .tmConvIn 1).toNat * 2 ^ 32 + (d.rd .tmConvIn 0).toNat
    let x := d.domTime? (d.f tmConvCmd_TD 0) r
    ((d.wrTime .tmConvOut 0 (x.getD 0)).sf tmConvCmd_STATUS 0 (if x.isSome then 0 else 1)).sf tmConvCmd_BUSY 0 0
  else d

/-- The raw time in ns of the latest edge of the 25 MHz reference (R330). -/
def refEdge (d : Dev) : Nat := d.raw / 2 ^ 16

/-- A write of TmDomCmd (R335, R336): the command keeps the arguments it was written with until the second reference edge after
it. -/
def domCmdWrite (d : Dev) (t cmd : Nat) : Dev :=
  if d.b tmDomCmd_BUSY t then d.rejWr uTm
  else if cmd = 0 ∨ 3 < cmd then d
  else
    let w (k : Nat) : Nat := (d.rd .tmDomArg (3 * t + k)).toNat
    (d.setDom t { d.dom t with cmd := some (cmd, w 0, w 1, w 2), due := d.refEdge + 80 }).sf tmDomCmd_BUSY t 1

/-- A command that completes with RANGE (R336). -/
def domRange (d : Dev) (t : Nat) : Dev :=
  ((d.setDom t { d.dom t with cmd := none }).sf tmDomCmd_BUSY t 0).sf tmDomCmd_RESULT t 1

/-- What a step of domain `t` does besides its triggers: gate schedules restart (R275, R278). -/
def domGates (d : Dev) (t : Nat) : Dev :=
  let d := (List.range 20).foldl (fun d p => if d.f ethGateCfg_GATE_TD p = t then d.gatesRestart p else d) d
  if d.f tbSgCfg_TD 0 = t then d.gateRestartAll else d

/-- A domain command takes effect at its edge, once that has come, and the new set counts from it (R335 to R337). -/
def domApply (d : Dev) (t : Nat) : Dev :=
  let x := d.dom t
  let r := x.due
  if d.ns < r then d
  else
  let d := if x.cmd.isSome then d.coresWake else d
  match x.cmd, d.domSet t r with
  | some (1, w0, w1, _), some p =>
    let inc := w1 % 65536 * 2 ^ 32 + w0
    if inc < 0x27F5C28F5D ∨ 0x280A3D70A3 < inc then d.domRange t
    else d.domPush t { anchor := r, off := p.at r, inc := inc }
  | some (2, w0, w1, _), some p =>
    let off : Int := (p.at r : Int) + signed64 (w1 * 2 ^ 32 + w0) * 2 ^ 32
    if off < 0 then d.domRange t
    else ((d.domPush t { anchor := r, off := off.toNat, inc := p.inc }).domStepped t (p.at r / 2 ^ 32)).domGates t
  | some (3, w0, w1, w2), some p =>
    if 1000000000 ≤ w0 then d.domRange t
    else
      let s := w2 % 65536 * 2 ^ 32 + w1
      ((d.domPush t { anchor := r, off := (s * 1000000000 + w0) * 2 ^ 32, inc := p.inc }).domStepped t (p.at r / 2 ^ 32)).domGates t
  | _, _ => d

/-! ### Triggers -/

/-- The trigger that names output `k`, with whether its pulse is active (R348). -/
def toutTrig (d : Dev) (k : Nat) : Option Nat :=
  (List.range 32).find? fun n => (d.trig n).names && (d.trig n).kind == 5 && (d.trig n).target % 4 == k

/-- The level that output `k` drives (R348). -/
def toutLevel (d : Dev) (k : Nat) : Nat :=
  match d.toutTrig k with
  | none => 0
  | some n =>
    let high := bitAt 2 (d.trig n).target
    if (d.trig n).pulse == high then 1 else 0

/-- Driving the outputs whose level differs from the one before. -/
def toutShow (d before : Dev) : Dev :=
  (List.range 4).foldl (fun d k =>
    if d.toutLevel k = before.toutLevel k then d else d.emit (.pin pinTout k (d.toutLevel k))) d

/-- A write of TmTtStart, TmTtPeriod or TmTtTarget: pending until TmTtCtl is written (R343). -/
def trigWordWrite (d : Dev) (r : Reg) (i n v : Nat) : Dev := (d.wr r i (BitVec.ofNat 32 v)).sf tmTtCtl_PENDING n 1

/-- A write of TmTtCtl applies the pending values (R343, R344, R348). -/
def trigCtlWrite (d : Dev) (staged : Bool) (n v : Nat) : Dev :=
  let en := bitAt 31 v
  let kind := bits 27 25 v
  let start := (d.rd .tmTtStart (2 * n + 1)).toNat * 2 ^ 32 + (d.rd .tmTtStart (2 * n)).toNat
  let period := (d.rd .tmTtPeriod n).toNat
  let target := (d.rd .tmTtTarget n).toNat
  if staged = false ∧ d.trigCtlOk n v = false then d.rejWr uTm
  else
    let x : Trig := {
      start := start, period := period, target := target, kind := kind, td := bits 29 28 v,
      names := en && kind == 5 }
    let d1 := (d.wr .tmTtCtl n (BitVec.ofNat 32 (v &&& 0xBE000000))).setTrig n x
    let d2 := if en && kind == 5 then (List.range 32).foldl (fun d m =>
        if m ≠ n ∧ (d.trig m).names ∧ (d.trig m).target % 4 = target % 4 then
          d.setTrig m { d.trig m with names := false, pulse := false } else d) d1 else d1
    (if en then d2.trigArm n else d2).toutShow d

/-- The firing of trigger `n` whose instant its domain time has reached (R347), when it has `kind`: the instant, the number of the
instant, and the device with the schedule moved on. A one-shot clears EN (R342). -/
def trigFire (d : Dev) (n kind : Nat) : Option (Nat × Nat × Dev) :=
  let x := d.trig n
  match x.next with
  | none => none
  | some t =>
    if d.b tmTtCtl_EN n && x.kind == kind && decide (t ≤ d.domNow x.td) then
      let next := if x.period = 0 then none else some (t + x.period)
      let d := d.setTrig n { x with next := next, count := x.count + 1 }
      some (t, x.count, if x.period = 0 then d.sf tmTtCtl_EN n 0 else d)
    else none

/-- A firing counts as acted on or skipped (R345). -/
def trigCount (d : Dev) (n : Nat) (acted : Bool) : Dev := d.inc (if acted then .tmTtFired else .tmTtSkipped) n

def fireNone (d : Dev) (n : Nat) : Dev :=
  match d.trigFire n 0 with
  | none => d
  | some (_, _, d) => d.trigCount n true

/-- A firing that reaches converter `c` of die `p` (R38, R398). (DEDUCED: assumption 34) -/
def senseStart (d : Dev) (p c : Nat) : Dev :=
  let i := 4 * p + c
  if d.b pdAdcStat_BUSY i ∨ d.admits (uPd p) = false then d.inc .pdAdcOverrun i
  else if d.b pdAdcSeq_VALID (16 * i) then (d.sf pdAdcStat_ENTRY i 0).sf pdAdcStat_BUSY i 1
  else d

/-- (DEDUCED: assumption 34) -/
def fireSense (d : Dev) (n : Nat) : Dev :=
  match d.trigFire n 1 with
  | none => d
  | some (_, _, d) =>
    let t := (d.trig n).target
    ((List.range 4).foldl (fun d c => if bitAt (4 + c) t then d.senseStart (t % 4) c else d) d).trigCount n true

/-- Whether a job of trigger `n` exists (R345). -/
def trigJob (d : Dev) (n : Nat) : Bool :=
  (d.path.dispQ.any fun q => q.2.any fun w => match w with | .trigger m _ _ => m == n | _ => false)
    || d.eng.threads.any fun x => x.2.st != .idle && x.2.kind == .trigger && (match x.2.job with | some j => j.1 == n | none => false)

/-- The cluster that takes a trigger job (R345, R467). -/
def trigCluster (d : Dev) (n mask : Nat) : Option Nat :=
  if d.inSepia then
    let k := d.f lsSepiaCfg_PAIR 0
    if bitAt n (d.f lsSepiaTrig_TRIGGERS 0) && d.engTakes feEngRole_TRIGGER (2 * k) then some (k / 4) else none
  else (List.range 8).find? fun c => bitAt c mask && d.clusterTakes feEngRole_TRIGGER c

/-- (DEDUCED: assumption 34) -/
def fireJob (d : Dev) (n : Nat) : Dev :=
  match d.trigFire n 2 with
  | none => d
  | some (t, k, d) =>
    let x := d.trig n
    match (if d.trigJob n then none else d.trigCluster n x.target) with
    | none => (d.trigCount n false).raise 26 n 0
    | some c =>
      (d.setDispQ c (.trigger n x.target [t, k, bits 31 16 x.target, d.ns] :: d.dispQ c)).trigCount n true

/-- A tick for LIN channels; one of them asleep makes the instant count as skipped (R420), and in that counter alone (R345).
(DEDUCED: assumption 34) -/
def fireLin (d : Dev) (n : Nat) : Dev :=
  match d.trigFire n 3 with
  | none => d
  | some (_, _, d) =>
    let ms := (List.range 16).filter fun m => bitAt m (d.trig n).target
    let asleep := ms.any fun m => d.portAsleep (80 + m)
    (ms.foldl (fun d m => (d.linTick m).2) d).trigCount n (!asleep)

def fireCan (d : Dev) (n : Nat) : Dev :=
  match d.trigFire n 4 with
  | none => d
  | some (_, _, d) =>
    let p := (d.trig n).target % 128
    if d.portAsleep p then d.trigCount n false
    else
      ((List.range 8).foldl (fun d s => if bitAt (8 + s) (d.trig n).target then d.canFire (p - 32) s else d) d).trigCount n true

def fireTout (d : Dev) (n : Nat) : Dev :=
  match d.trigFire n 5 with
  | none => d
  | some (_, _, e) => ((e.setTrig n { e.trig n with pulse := true }).toutShow d).trigCount n true

/-- WIDTH_NS elapses at output `k` (R348). -/
def toutEnd (d : Dev) (k : Nat) : Dev :=
  match d.toutTrig k with
  | none => d
  | some n => (d.setTrig n { d.trig n with pulse := false }).toutShow d

/-! ### Captures (R349) -/

def capFifo (d : Dev) (c : Nat) : List CapRec := Sparse.get (fun _ => []) d.time.cap c

def setCap (d : Dev) (c : Nat) (l : List CapRec) : Dev :=
  let d := { d with time := { d.time with cap := Sparse.set (fun _ => []) d.time.cap c l } }
  (d.sf tmCapStat_COUNT c l.length).sf tmCapStat_RISING c (match l with | x :: _ => if x.rising then 1 else 0 | [] => 0)

/-- Whether a rejected pulse is in progress at input `c`. -/
def capShort (d : Dev) (c : Nat) : Bool := Sparse.get (fun _ => false) d.time.capShort c

def setCapShort (d : Dev) (c : Nat) (b : Bool) : Dev :=
  { d with time := { d.time with capShort := Sparse.set (fun _ => false) d.time.capShort c b } }

/-- An edge that passed the filter of input `c`, at raw time `t`: recorded, or lost (R349). -/
def capRecord (d : Dev) (c : Nat) (rising : Bool) (t : Nat) : Dev :=
  let l := d.capFifo c
  let near : Bool := match Sparse.get (fun _ => none) d.time.capLast c with
    | some last => decide (t < last + 40)
    | none => false
  if 4 ≤ l.length ∨ near then (d.inc .tmCapLost c).sf tmCapStat_OVF c 1
  else
    let d := d.setCap c (l ++ [⟨d.domTime (d.f tmCapCfg_TD c) t, t, rising⟩])
    { d with time := { d.time with capLast := Sparse.set (fun _ => none) d.time.capLast c (some t) } }.raise (142 + c) 0 0

/-- An edge at input `c` after which the level has stood for `held` ns (R349): a pulse shorter than FILTER × 8 ns leaves no
record, nor does the edge that ends it. The record holds the time of the edge itself. (DEDUCED: assumption 34) -/
def capEdge (d : Dev) (c : Nat) (rising : Bool) (held : Nat) : Dev :=
  if d.b tmCapCfg_EN c = false then d
  else if d.capShort c then d.setCapShort c false
  else if held < 8 * d.f tmCapCfg_FILTER c then d.setCapShort c true
  else if bitAt (if rising then 0 else 1) (d.f tmCapCfg_EDGE c) then d.capRecord c rising (d.ns - held)
  else d

def capPop (d : Dev) (c : Nat) : Dev := d.setCap c ((d.capFifo c).drop 1)

/-- TmCapHead word `w`. -/
def capHead (d : Dev) (c w : Nat) : Nat :=
  match d.capFifo c with
  | [] => 0
  | x :: _ => match w with
    | 0 => x.dom % 2 ^ 32
    | 1 => x.dom / 2 ^ 32 % 2 ^ 32
    | 2 => x.raw % 2 ^ 32
    | _ => x.raw / 2 ^ 32 % 2 ^ 32

/-! ### Load channels -/

/-- The slew completes or the last phase ends (R387, R388, R392). -/
def ldRampDone (d : Dev) (l : Nat) : Dev :=
  if (d.ld l).st = ldRamp ∧ (d.ld l).phases.length ≤ (d.ld l).phase + 1 then
    let d := d.ldUpd l fun c => { c with st := ldOn }
    if (d.ld l).windowDone then d.ldRelease l else d
  else d

/-- A profile phase ends and the next starts (R388). -/
def ldPhaseEnd (d : Dev) (l : Nat) : Dev :=
  let c := d.ld l
  if c.st = ldRamp ∧ c.phase + 1 < c.phases.length then d.ldUpd l fun c => { c with phase := c.phase + 1 } else d

/-- WINDOW_MS after RAMP started (R392). A grant that has outlived its turn-on is the first to end. -/
def ldWindowEnd (d : Dev) (l : Nat) : Dev :=
  if 0 < (d.ld l).held then
    (d.paReleaseFirst (1 + l / 32) (.gang l)).ldUpd l fun c => { c with held := c.held - 1 }
  else if (d.ld l).grant then
    if (d.ld l).st = ldRamp then d.ldUpd l fun c => { c with windowDone := true } else d.ldRelease l
  else d

/-- 10 s in ON without a trip (R385). -/
def ldRetryReload (d : Dev) (l : Nat) : Dev :=
  if (d.ld l).st = ldOn then d.ldUpd l fun c => { c with retries := d.f ldCfg_RETRY_MAX l } else d

/-- A junction temperature as the die reads it, in 0.25 °C. -/
def ldTempSet (d : Dev) (n t : Nat) : Dev := d.sf ldTemp_TJ n t

/-- Junction `n` reaches its shutdown point at temperature `t` (R393). -/
def ldThermal (d : Dev) (n t : Nat) : Dev :=
  let d := (d.ldTempSet n t).ldUpd n fun c => { c with tripTemp := some (sext 16 t) }
  d.ldTrip (d.leader n) 1

/-- A channel in COOL whose junctions have cooled turns on again (R385); `ts` are the temperatures of the gang's junctions. -/
def ldCoolDone (d : Dev) (l : Nat) (ts : List Nat) : Dev :=
  let d := (List.zip (d.gang l) ts).foldl (fun d x => d.ldTempSet x.1 x.2) d
  if (d.ld l).st = ldCool ∧ (d.ld l).on ∧ d.ldCooled l then
    let d := (d.gang l).foldl (fun d n => d.ldUpd n fun c => { c with tripTemp := none }) d
    (d.inc .ldOnCnt l).ldTurnOn l true
  else d

/-- Whether power die `p` reboots under UPDATE or RESTART: its outputs, its protection and its wire models hold, and its samples
stop (R490). -/
def dieReboots (d : Dev) (p : Nat) : Bool :=
  d.actsAs (uPd p) == stUpdating && d.ops.any fun o => o.unit == uPd p && (o.cmd == cmdUpdate || o.cmd == cmdRestart)

/-- The 100 µs update of every wire model of die `p` from the currents of its channels in 50 mA (R396).
(DEDUCED: assumption 36) -/
def wireTick (d : Dev) (p : Nat) (is : List Nat) : Dev :=
  if d.dieReboots p then d
  else (d.dieLeaders p).foldl (fun d l => d.wireUpdate l (((d.gang l).map fun n => is.getD (n % 32) 0).sum)) d

/-- VBAT of a die below 5.0 V for 1 ms (R403). -/
def vbatUnder (d : Dev) (p : Nat) : Dev := (d.dieLeaders p).foldl ldUnder (d.sf pdStatus_UV p 1)

/-- VBAT of a die above 5.5 V (R385, R403). (DEDUCED: assumption 36) -/
def vbatRecovered (d : Dev) (p : Nat) : Dev :=
  (d.dieLeaders p).foldl (fun d l =>
    if (d.ld l).st = ldUv then
      if (d.ld l).on then d.ldTurnOn l true else d.ldUpd l fun c => { c with st := ldOff }
    else d) (d.sf pdStatus_UV p 0)

/-- A converter entry completes with a 14-bit code, or VBAT in mV (R398 to R400). A reboot of the die ends the sequence (R490). -/
def adcDone (d : Dev) (p c value : Nat) (sat : Bool) : Dev :=
  let i := 4 * p + c
  if d.dieReboots p then (d.sf pdAdcStat_BUSY i 0).sf pdAdcStat_ENTRY i 0
  else if d.b pdAdcStat_BUSY i then
    let e := d.f pdAdcStat_ENTRY i
    let w := (d.rd .pdAdcSeq (16 * i + e)).toNat
    let d :=
      if bits 7 6 w = 1 then d.sf pdVbat_MV p value
      else
        let n := 32 * p + w % 32
        let fine := match bits 9 8 w with
          | 0 => false
          | 1 => true
          | _ => d.load.sampled.contains n && decide (d.senseScaled n < 45 * 16384)
        let rail := fine && sat
        let code := if rail then 0x3FFF else value % 2 ^ 14
        let d := d.wr .ldSense n (BitVec.ofNat 32 (2 ^ 31 + (if rail then 2 ^ 30 else 0) + (if fine then 2 ^ 28 else 0) + code))
        let d := { d with load := { d.load with sampled := n :: d.load.sampled.filter (· != n) } }
        let d := (d.wr .ldSenseTime (2 * n) (BitVec.ofNat 32 d.ns)).wr .ldSenseTime (2 * n + 1) (BitVec.ofNat 32 (d.ns / 2 ^ 32))
        ((d.senseSums n).openLoadOn n).monFeed 6 (fun s => s % 128 == n) (d.senseScaled n / 16384)
    if e = 15 ∨ d.b pdAdcSeq_VALID (16 * i + e + 1) = false then (d.sf pdAdcStat_BUSY i 0).sf pdAdcStat_ENTRY i 0
    else d.sf pdAdcStat_ENTRY i (e + 1)
  else d

/-- The 1 ms comparison of an OFF channel's output with 3.0 V (R401). -/
def openLoadOff (d : Dev) (l : Nat) (above : Bool) : Dev :=
  if d.b ldCfg_OL_OFF_EN l && (d.ld l).st == ldOff && d.isLeader l && !d.load.asleep.contains (l / 32) then
    let k := if above then min ((d.ld l).olOff + 1) 4 else 0
    let d := d.ldUpd l fun c => { c with olOff := k }
    if k = 3 then ((d.ldUpd l fun c => { c with openOff := true }).inc .ldOpenLoad l).ldEvent l 2 else d
  else d.ldUpd l fun c => { c with olOff := 0 }

/-- The average of PdAgg over 1 s against PdAggWarn (R402): a window of 1 s, and the next begins. Before it is full nothing is
compared. (DEDUCED: assumption 36) -/
def aggCheck (d : Dev) (p : Nat) : Dev :=
  let d := d.aggFeed p
  let x := Sparse.get aggDefault d.load.agg p
  let span := x.seen - x.from'
  if span < 1000000000 then d
  else
    let d := { d with load := { d.load with agg := Sparse.set aggDefault d.load.agg p { x with area := 0, from' := x.seen } } }
    if d.f pdAggWarn_MA p * span < x.area then
      if d.b pdStatus_AGG_OVER p then d else (d.sf pdStatus_AGG_OVER p 1).raise (136 + p) 0 0
    else d.sf pdStatus_AGG_OVER p 0

/-- No heartbeat for LOC_MS at a die (R407); a die that has received SLEEP does not watch for one (R421), and one that reboots
starts its time again from the restart (R490). -/
def locStart (d : Dev) (p : Nat) : Dev :=
  if d.b pdStatus_LOC p ∨ d.load.asleep.contains p ∨ d.dieReboots p then d
  else
    (d.dieLeaders p).foldl (fun d l =>
      (d.ldOrder l (d.f ldCfg_LOC_STATE l)).ldUpd l fun c => { c with loc := true })
      ((d.sf pdStatus_LOC p 1).inc .pdLocCnt p)

/-- The heartbeat returns to a die in loss of control (R408). -/
def locReturn (d : Dev) (p : Nat) : Dev := if d.b pdStatus_LOC p then d.locEnded p else d

/-- A die reports its channels after the link came up (R384): each leader's request is copied into LdCtl, and the conditions
that arose before raise their events (R445). (DESIGN CHOICE: assumption 51) -/
def dieReport (d : Dev) (p : Nat) : Dev :=
  let (mine, rest) := d.load.notes.partition fun x => x.1 / 32 == p
  let d := { d with load := { d.load with
    reported := Sparse.set (fun _ => false) d.load.reported p true, notes := rest } }
  mine.foldl (fun d x => d.ldEvent x.1 x.2) ((d.dieLeaders p).foldl (fun d l => d.ldShow l) d)

/-- A write of 1 to flags of LdStatus clears them at the die (R25). -/
def ldStatusClear (d : Dev) (n v : Nat) : Dev :=
  if d.isLeader n then
    d.ldUpd n fun c => { c with
      openOff := c.openOff && !bitAt 5 v, openOn := c.openOn && !bitAt 4 v, denied := c.denied && !bitAt 3 v,
      wireTrip := c.wireTrip && !bitAt 2 v, ocTrip := c.ocTrip && !bitAt 1 v, thermTrip := c.thermTrip && !bitAt 0 v }
  else d

end Dev

end Sys2Proof.Machine
end

