-- ==== Sys2Proof/Machine/TableCmds.lean ====
section
/-! DEFINITION. The table commands of the two interfaces (R206, R209, R210, R215 to R218, R222, R223). -/
namespace Sys2Proof.Machine

def opRead : Nat := 1
def opWrite : Nat := 2
def opInsert : Nat := 3
def opDelete : Nat := 4
def opSearch : Nat := 5
def opFlush : Nat := 6
def opSweep : Nat := 7
def opRehash : Nat := 8
def opRebuild : Nat := 9
def opRebuildCommit : Nat := 10
def opBgAbort : Nat := 11

/-- The tables each operation acts on (R222). -/
def opTables (op : Nat) : List Nat :=
  match op with
  | 1 | 4 => [0, 1, 2, 3, 4, 5, 6, 7, 8, 9]
  | 2 => [0, 1, 4, 5, 6, 7, 8, 9]
  | 3 | 5 | 11 => [0, 2, 3, 4, 9]
  | 6 => [0, 4]
  | 7 => [0]
  | 8 => [0, 4, 9]
  | 9 | 10 => [2, 3]
  | _ => []

/-- Whether an entry's key may be inserted: LEN and address of a prefix (R215), FMT, identifier and channel of a CAN route
(R218), PORT of an L2 entry (R222). -/
def tbArgOk (t e : Nat) : Bool :=
  match t with
  | 0 => l2PortOk (l2Port e)
  | 4 =>
    let fmt := bits 30 29 e
    let ch := bits 38 32 e
    fmt != 3 && !((fmt == 0 || fmt == 2) && decide (0x7FF < e % 2 ^ 29)) && decide (32 ≤ ch ∧ ch ≤ 79)
  | _ => lpmArgOk t e

/-- Whether table `t` is a prefix trie. -/
def isLpm (t : Nat) : Bool := t == 2 || t == 3

/-- Whether an entry matches TbCmdArg (R223). -/
def flushMatches (t arg e : Nat) : Bool :=
  let port := arg % 128
  e != 0 && (!bitAt 20 arg || (if t = 0 then l2Port e else bits 38 32 e) == port)
    && (!(bitAt 21 arg && t == 0) || l2Fid e == bits 19 8 arg)
    && (t != 0 || bitAt 22 arg || !l2Static e)

/-- A prefix store with one more prefix, at the free index that the open value `n` picks: the index and the store, or why not
(R212). (DEDUCED: assumption 28) -/
def lpmInsert (t n : Nat) (ents : Sparse Nat) (e : Nat) : Nat × Nat × Sparse Nat :=
  let room := tbSize t - ents.length
  if room = 0 then (resNoRoom, 0, ents)
  else
    let k := nthFree ents 0 (n % room)
    let ents' := tbPut ents k e
    if (lpmStages t).all fun s => decide (lpmBlocks t ents' s ≤ lpmPool t) then (resOk, k, ents') else (resNoBlock, 0, ents)

namespace Dev

/-- The entry in TbData of interface `i`, only the bits that a command stores. -/
def tbDataIn (d : Dev) (i t : Nat) : Nat :=
  ((List.range (tbWords t)).map fun w => (d.rd .tbData (16 * i + w)).toNat * 2 ^ (32 * w)).sum &&& tbMask t

/-- Showing an entry in TbData. -/
def tbDataOut (d : Dev) (i t e : Nat) : Dev :=
  (List.range (tbWords t)).foldl (fun d w => d.wr .tbData (16 * i + w) (BitVec.ofNat 32 (e / 2 ^ (32 * w)))) d

/-- A command completes. -/
def tbEnd (d : Dev) (i t loc res : Nat) : Dev :=
  (d.wr .tbCmdStatus i (BitVec.ofNat 32 (t % 16 * 2 ^ 24 + loc % 65536 * 256 + res))).sf tbCmd_BUSY i 0

/-- The checks before an operation: a busy interface discards the command, a table that the operation does not list is
UNSUPPORTED (R222). -/
def tbGuard (d : Dev) (i op t idx : Nat) (go : Dev → Dev) : Dev :=
  if d.b tbCmd_BUSY i then d.rejWr uTb
  else
    let d := (d.sf tbCmd_TABLE i t).sf tbCmd_INDEX i idx
    if (opTables op).contains t then go d else d.tbEnd i t 0 resUnsupported

/-- The alternate version a command with ALT = 1 acts on: the copy held open (R216). -/
def tbOpen (d : Dev) (t : Nat) : Option TbVer :=
  let own := if t = 9 then 3 else t
  if (isLpm t || t == 9) && (d.tb own).stage == 4 then (d.tb t).alt else none

def setAlt (d : Dev) (t : Nat) (v : TbVer) : Dev := d.setTb t { d.tb t with alt := some v }

/-- READ (R207, R222). The other bits of an empty slot of a hashed table or prefix store are open. (DEDUCED: assumption 28) -/
def tbReadCmd (d : Dev) (i t idx : Nat) (ecc : Ecc) : Dev :=
  d.tbGuard i opRead t idx fun d =>
    if tbSize t ≤ idx then d.tbEnd i t 0 resBadArg
    else
      let d := d.tbEcc t { ecc with failing := if ecc.failing.isEmpty then [] else [idx] }
      if d.tbBad t idx then d.tbEnd i t 0 resMemory
      else if t = 1 ∨ (5 ≤ t ∧ t ≤ 8) then (d.tbDataOut i t (d.directView t idx)).tbEnd i t 0 resOk
      else
        let e := tbEnt (d.tbCur t) idx
        if e = 0 then
          let (x, d) := d.fresh 224
          (d.tbDataOut i t (setBits (tbValidBit t) (tbValidBit t) 0 x)).tbEnd i t 0 resOk
        else (d.tbDataOut i t e).tbEnd i t 0 resOk

/-- Whether an entry would bring a fifth length into the host table (R214). -/
def tooManyLens (ents : Sparse Nat) (e : Nat) : Bool :=
  let ls := hostLens ents
  !ls.contains (lpmLen e) && decide (4 ≤ ls.length)

/-- WRITE (R222, R223). (DEDUCED: assumption 28) -/
def tbWriteCmd (d : Dev) (i t idx : Nat) : Dev :=
  d.tbGuard i opWrite t idx fun d =>
    let w := d.tbDataIn i t
    if tbSize t ≤ idx then d.tbEnd i t 0 resBadArg
    else if t = 6 ∧ gateLen w ≠ 0 ∧ 4096 < gateBase w + gateLen w then d.tbEnd i t 0 resBadArg
    else if t = 1 ∨ (5 ≤ t ∧ t ≤ 8) then (d.directWrite t idx w).tbEnd i t idx resOk
    else if bitAt (tbValidBit t) w = false then ((d.tbRemove t idx).setTbBad t idx false).tbEnd i t idx resOk
    else
      let seeds := d.tbSeeds t
      let cur := d.tbCur t
      let here := tbEnt cur idx
      let others := (tbCands t seeds w).any fun l => l != idx && tbEnt cur l != 0 && tbIdent t (tbEnt cur l) == tbIdent t w
      let port := t == 0 && !l2PortOk (l2Port w)
      let badPrefix := t == 9 && !lpmArgOk 9 w
      if (tbCands t seeds w).contains idx = false ∨ others ∨ (here ≠ 0 ∧ tbIdent t here ≠ tbIdent t w) ∨ port ∨ badPrefix
      then d.tbEnd i t 0 resBadArg
      else if t = 9 ∧ tooManyLens (tbPut cur idx 0) w then d.tbEnd i t 0 resNoLength
      else (d.tbRewrite t idx w).tbEnd i t idx resOk

/-- Where a key lies in entries of table `t` built under `seeds`. -/
def tbLocate (t : Nat) (seeds : Nat × Nat) (ents : Sparse Nat) (e : Nat) : Option Nat :=
  if isLpm t then lpmFind ents e else tbFind t seeds ents e

/-- The entry an INSERT stores: VALID is set; table 0 sets HIT and clears AGED and LOCKED (R222). -/
def insertEntry (t w : Nat) : Nat :=
  let e := setBits (tbValidBit t) (tbValidBit t) 1 w
  if t = 0 then setBits 74 72 2 e else e

/-- INSERT into the open copy (R216). -/
def tbInsertAlt (d : Dev) (i t e : Nat) (v : TbVer) : Dev :=
  let seeds := (v.seed0, v.seed1)
  match tbLocate t seeds v.ents e with
  | some l => (d.setAlt t { v with ents := tbPut v.ents l e }).tbEnd i t l resReplaced
  | none =>
    if t = 9 ∧ tooManyLens v.ents e then d.tbEnd i t 0 resNoLength
    else if isLpm t then
      let (n, d) := d.fresh 32
      let (res, l, ents) := lpmInsert t n v.ents e
      (d.setAlt t { v with ents := ents }).tbEnd i t l res
    else
      match tbPlace t seeds d.maxReloc v.ents e with
      | some r => (d.setAlt t { v with ents := r.1 }).tbEnd i t r.2 resOk
      | none => (d.tbNoRoom t).tbEnd i t 0 resNoRoom

/-- INSERT (R196, R208, R212, R214 to R216, R222). -/
def tbInsertCmd (d : Dev) (i t : Nat) : Dev :=
  d.tbGuard i opInsert t (d.f tbCmd_INDEX i) fun d =>
    let w := d.tbDataIn i t
    let e := insertEntry t w
    if tbArgOk t w = false then d.tbEnd i t 0 resBadArg
    else if d.b tbCmdArg_ALT i then
      match d.tbOpen t with
      | none => d.tbEnd i t 0 resBadArg
      | some v => d.tbInsertAlt i t e v
    else
      match tbLocate t (d.tbSeeds t) (d.tbCur t) e with
      | some l =>
        let d := if t = 0 then { d with tab := { d.tab with locks := d.tab.locks.filter (· != tbIdent 0 e) } } else d
        (d.tbRewrite t l e).tbEnd i t l resReplaced
      | none =>
        if t = 9 ∧ tooManyLens (d.tbCur t) e then d.tbEnd i t 0 resNoLength
        else if isLpm t then
          let (n, d) := d.fresh 32
          let (res, l, ents) := lpmInsert t n (d.tbCur t) e
          if res = resOk then ((d.setTbCur t ents l).tbSync t e).tbEnd i t l resOk else d.tbEnd i t 0 res
        else
          match d.tbInsertNew t e with
          | (some l, d) => d.tbEnd i t l resOk
          | (none, d) => d.tbEnd i t 0 resNoRoom

/-- DELETE (R222). -/
def tbDeleteCmd (d : Dev) (i t idx : Nat) : Dev :=
  d.tbGuard i opDelete t idx fun d =>
    if t = 1 ∨ (5 ≤ t ∧ t ≤ 8) then
      if tbSize t ≤ idx then d.tbEnd i t 0 resBadArg
      else
        let v := tbValidBit t
        ((d.setDirect t idx (setBits v v 0 (d.directAt t idx))).setTbBad t idx false).tbEnd i t idx resOk
    else
      let w := d.tbDataIn i t
      let bad := (isLpm t || t == 9) && !lpmArgOk t w
      if bad then d.tbEnd i t 0 resBadArg
      else if d.b tbCmdArg_ALT i then
        match d.tbOpen t with
        | none => d.tbEnd i t 0 resBadArg
        | some v =>
          match tbLocate t (v.seed0, v.seed1) v.ents w with
          | some l => (d.setAlt t { v with ents := tbPut v.ents l 0 }).tbEnd i t l resOk
          | none => d.tbEnd i t 0 resNotFound
      else
        match tbLocate t (d.tbSeeds t) (d.tbCur t) w with
        | some l => (d.tbRemove t l).tbEnd i t l resOk
        | none => d.tbEnd i t 0 resNotFound

/-- SEARCH (R207, R222). -/
def tbSearchCmd (d : Dev) (i t : Nat) (ecc : Ecc) : Dev :=
  d.tbGuard i opSearch t (d.f tbCmd_INDEX i) fun d =>
    let w := d.tbDataIn i t
    let d := d.tbEcc t ecc
    if (isLpm t || t == 9) && !lpmArgOk t w then d.tbEnd i t 0 resBadArg
    else
      let cands := if isLpm t then [] else tbCands t (d.tbSeeds t) w
      match tbLocate t (d.tbSeeds t) (d.tbCur t) w with
      | some l =>
        if d.tbBad t l then d.tbEnd i t 0 resMemory
        else (d.tbDataOut i t (tbEnt (d.tbCur t) l)).tbEnd i t l resOk
      | none => d.tbEnd i t 0 (if cands.any fun l => d.tbBad t l then resMemory else resNotFound)

/-- FLUSH_MATCH (R223). -/
def tbFlushCmd (d : Dev) (i t : Nat) : Dev :=
  d.tbGuard i opFlush t (d.f tbCmd_INDEX i) fun d =>
    let p := d.f tbCmdArg_PORT i
    let q := d.b tbCmdArg_FLUSH_Q i
    if q && !(d.b tbCmdArg_MATCH_PORT i && decide (p ≤ 19) && t == 0) then d.tbEnd i t 0 resBadArg
    else
      let x : Flush := ⟨i, t, 0, 0⟩
      let d : Dev := { d with tab := { d.tab with flushes := d.tab.flushes ++ [x] } }
      let d := d.sf tbCmd_BUSY i 1
      if q then d.portQueueFlush p else d

/-- A visit of the flush of interface `i` (R223). A failing location of table 4 or of a static entry keeps failing (R207). -/
def tbFlushVisit (d : Dev) (i : Nat) : Dev :=
  match d.tab.flushes.find? fun x => x.iface == i with
  | none => d
  | some x =>
    let e := tbEnt (d.tbCur x.table) x.pos
    let gone := flushMatches x.table (d.rd .tbCmdArg i).toNat e
    let stays := d.tbBad x.table x.pos && (x.table != 0 || l2Static e)
    let d := if gone then (d.tbRemove x.table x.pos).setTbBad x.table x.pos stays else d
    let x : Flush := { x with pos := x.pos + 1, removed := x.removed + if gone then 1 else 0 }
    let rest := d.tab.flushes.filter fun y => y.iface != i
    if x.pos < tbSize x.table then { d with tab := { d.tab with flushes := rest ++ [x] } }
    else ({ d with tab := { d.tab with flushes := rest } }.sf tbCmdCount_COUNT i x.removed).tbEnd i x.table 0 resOk

/-- SWEEP_NOW (R206). -/
def tbSweepCmd (d : Dev) (i t : Nat) : Dev :=
  d.tbGuard i opSweep t (d.f tbCmd_INDEX i) fun d =>
    if d.tab.sweep.isSome then d.tbEnd i t 0 resBgBusy else d.sweepStart.tbEnd i t 0 resOk

/-- Whether a background operation of table `t` finds it occupied (R209 step 3); one that still waits for its leave occupies it
too, for the host table also a REBUILD of table 3 that does. (DESIGN CHOICE: assumption 54) -/
def bgTaken (d : Dev) (t : Nat) : Bool :=
  (t == 9 && (d.tb 3).stage != 0) || (bgTables t).any fun k =>
    d.b tbBgStatus_BUSY k || d.b tbBgStatus_OPEN k || d.b tbBgStatus_FROZEN k || (d.tb k).stage != 0

/-- REHASH or REBUILD asks for leave (R209 step 3, R216). -/
def bgAsk (d : Dev) (i t : Nat) (who : PaFor) (cost : Nat) : Dev :=
  if d.bgTaken t then d.tbEnd i t 0 resBgBusy
  else
    match d.paRequest 0 who cost with
    | (none, d) => d.tbEnd i t 0 resNoPower
    | (some _, d) =>
      (d.setTb t { d.tb t with stage := 1, iface := i, hold := d.b tbCmdArg_HOLD i }).sf tbCmd_BUSY i 1

def tbRehashCmd (d : Dev) (i t : Nat) : Dev :=
  d.tbGuard i opRehash t (d.f tbCmd_INDEX i) fun d => d.bgAsk i t (.rehash t) 450

def tbRebuildCmd (d : Dev) (i t : Nat) : Dev :=
  d.tbGuard i opRebuild t (d.f tbCmd_INDEX i) fun d => d.bgAsk i t (.rebuild t) 300

/-- The leave of a background operation is granted (R209 step 4). -/
def bgGranted (d : Dev) (t op : Nat) : Dev :=
  let x := d.tb t
  if x.stage = 1 then
    let d := (d.setTb t { x with stage := 2, hold := op == opRebuild && x.hold }).tbEnd x.iface t 0 resOk
    ((bgTables t).foldl (fun d k => d.sf tbBgStatus_OP k op) d).bgShow t
  else d

/-- The leave is denied (R68). -/
def bgDenied (d : Dev) (t : Nat) : Dev :=
  let x := d.tb t
  if x.stage = 1 then (d.setTb t { x with stage := 0 }).tbEnd x.iface t 0 resNoPower else d

/-- Placing entries one after another into an empty table under new seeds. -/
def placeAll (t : Nat) (seeds : Nat × Nat) (max : Nat) : List (Nat × Nat) → Sparse Nat → Option (Sparse Nat)
  | [], m => some m
  | x :: xs, m =>
    match tbPlace t seeds max m x.2 with
    | some r => placeAll t seeds max xs r.1
    | none => none

/-- The rebuild of a hashed table finishes placing (R209 steps 4 to 6, R210), with the seeds that TbSeedNew holds now; entries of
failing locations are placed whole. (DESIGN CHOICE: assumption 54) -/
def rehashPlaced (d : Dev) (t : Nat) : Dev :=
  let x := d.tb t
  if x.stage = 2 ∧ isLpm t = false then
    let seeds := d.seedPair .tbSeedNew t
    match placeAll t seeds d.maxReloc x.cur.ents [] with
    | none => (d.raise 19 0 t).bgFail t resNoRoom
    | some ents =>
      let d := d.setTb t { x with alt := some { ents := ents, seed0 := seeds.1, seed1 := seeds.2 }, stage := 3 }
      (d.bgShow t).txnAsk { kind := .table t, holder := 16 }
  else d

/-- The rebuild copy is complete (R216). (DEDUCED: assumption 28) -/
def rebuildCopied (d : Dev) (t : Nat) : Dev :=
  let x := d.tb t
  if x.stage = 2 ∧ isLpm t then
    let d := d.setTb t { x with
      alt := some { ents := lpmCompact x.cur.ents }
      stage := if x.hold then 4 else 3 }
    let d := if t = 3 then
        let s := d.tbSeeds 9
        d.setAlt 9 { (d.tb 9).cur with seed0 := s.1, seed1 := s.2 }
      else d
    let d := (d.paRelease 0 (.rebuild t)).bgShow t
    if x.hold then d else d.txnAsk { kind := .table t, holder := 16 }
  else d

/-- REBUILD_COMMIT (R216). -/
def tbRebuildCommitCmd (d : Dev) (i t : Nat) : Dev :=
  d.tbGuard i opRebuildCommit t (d.f tbCmd_INDEX i) fun d =>
    if (d.tb t).stage = 4 then
      ((d.setTb t { d.tb t with stage := 3 }).bgShow t).tbEnd i t 0 resOk |>.txnAsk { kind := .table t, holder := 16 }
    else d.tbEnd i t 0 resBadArg

/-- Ending the commit transaction of a table before its token (R210). -/
def tableTxnEnd (d : Dev) (t : Nat) : Dev :=
  let mine (x : Txn) : Bool := match x.kind with | .table k => k == t | _ => false
  let d := d.setEp { d.ep with waiting := d.ep.waiting.filter fun x => !mine x }
  match d.ep.txn with
  | some x => if mine x then d.txnAbort epSoftware 0 else d
  | none => d

/-- BG_ABORT (R206, R210, R222). (DEDUCED: assumption 28) -/
def tbAbortCmd (d : Dev) (i t : Nat) : Dev :=
  d.tbGuard i opBgAbort t (d.f tbCmd_INDEX i) fun d =>
    let d := if t = 0 ∧ d.tab.sweep.isSome then d.sweepEnd resAborted else d
    let own := if t = 9 ∧ (d.tb 9).stage = 0 then 3 else t
    let issued : Bool := match d.ep.txn with
      | some x => x.issued && (match x.kind with | .table k => k == own | _ => false)
      | none => false
    let d := match (d.tb own).stage with
      | 0 => d
      | 1 =>
        let x := d.tb own
        (((d.paWithdraw 0 (.rehash own)).paWithdraw 0 (.rebuild own)).setTb own { x with stage := 0 }).tbEnd
          x.iface own 0 resAborted
      | 3 => if issued then d else (d.tableTxnEnd own).bgFail own resAborted
      | _ => d.bgFail own resAborted
    d.tbEnd i t 0 resOk

/-- A write of TbCmd (R221). -/
def tbCmdWrite (d : Dev) (i v : Nat) : Dev :=
  let t := bits 27 24 v
  let idx := bits 19 4 v
  match v % 16 with
  | 0 => if d.b tbCmd_BUSY i then d.rejWr uTb else (d.sf tbCmd_TABLE i t).sf tbCmd_INDEX i idx
  | 1 => d.tbReadCmd i t idx {}
  | 2 => d.tbWriteCmd i t idx
  | 3 => (if d.b tbCmd_BUSY i then d else d.sf tbCmd_INDEX i idx).tbInsertCmd i t
  | 4 => d.tbDeleteCmd i t idx
  | 5 => (if d.b tbCmd_BUSY i then d else d.sf tbCmd_INDEX i idx).tbSearchCmd i t {}
  | 6 => (if d.b tbCmd_BUSY i then d else d.sf tbCmd_INDEX i idx).tbFlushCmd i t
  | 7 => (if d.b tbCmd_BUSY i then d else d.sf tbCmd_INDEX i idx).tbSweepCmd i t
  | 8 => (if d.b tbCmd_BUSY i then d else d.sf tbCmd_INDEX i idx).tbRehashCmd i t
  | 9 => (if d.b tbCmd_BUSY i then d else d.sf tbCmd_INDEX i idx).tbRebuildCmd i t
  | 10 => (if d.b tbCmd_BUSY i then d else d.sf tbCmd_INDEX i idx).tbRebuildCommitCmd i t
  | 11 => (if d.b tbCmd_BUSY i then d else d.sf tbCmd_INDEX i idx).tbAbortCmd i t
  | op => d.tbGuard i op t idx fun d => d

end Dev

end Sys2Proof.Machine
end

