-- ==== Sys2Proof/Machine/Pairs.lean ====
section
/-! DEFINITION. Engine and management pairs (R454 to R460), the watchdog (R464), Sepia by command (R465, R468), and the
monitors that sample supplies and temperatures (R470). -/
namespace Sys2Proof.Machine

/-- Codes of LsPair.RESULT. -/
def prOk : Nat := 0
def prBadState : Nat := 1
def prCompareFail : Nat := 2
def prDrainForced : Nat := 3
def prRefusedSepia : Nat := 4

namespace Dev

/-! ### The two halves -/

/-- The request a hand-over of pair `k` carries out: 1 join, 2 split, 0 none. -/
def handoverOf (d : Dev) (k : Nat) : Nat := Sparse.get (fun _ => 0) d.safe.handover k

def setHandover (d : Dev) (k r : Nat) : Dev :=
  { d with safe := { d.safe with handover := Sparse.set (fun _ => 0) d.safe.handover k r } }

/-- The key under which a half of a pair stands in `Safe.discarded`: its engine number, or 64 + c for a core. -/
def halfKey (k i : Nat) : Nat := if k = 32 then 64 + i else 2 * k + i

/-- Forgetting that outputs of a half of pair `k` are discarded. (DEDUCED: assumption 22) -/
def undiscard (d : Dev) (k : Nat) : Dev :=
  let keep (n : Nat) : Bool := n != halfKey k 0 && n != halfKey k 1
  { d with safe := { d.safe with discarded := d.safe.discarded.filter keep } }

/-- A core of the management pair starts from reset at 0x1000_0000 in SUP (R111, R459). -/
def mcReset (d : Dev) (c : Nat) : Dev := d.setMc c {}

/-- A hand-over ends with a result (R458 step 5, EV3). -/
def handoverEnd (d : Dev) (k st res : Nat) : Dev :=
  let d := d.setHandover k 0
  let d := { d with safe := { d.safe with forced := d.safe.forced.filter (· != k) } }
  (((d.sf lsPair_STATE k st).sf lsPair_BUSY k 0).sf lsPair_RESULT k res).raise 3 k res

/-! ### Mismatch (R456) -/

/-- The fault class of a mismatch in pair `k`. -/
def pairClass (d : Dev) (k : Nat) : Nat :=
  if k = 32 then fcMcLockstep else if k = d.f lsSepiaCfg_PAIR 0 then fcSepiaPair else fcFeLockstep

/-- A mismatch in pair `k`: both halves stop, and a hand-over ends with `res`. (DEDUCED: assumption 23) -/
def mismatch (d : Dev) (k : Nat) (res : Option Nat) : Dev :=
  if !d.lockstep k then d
  else
    let hand := d.f lsPair_BUSY k == 1
    let d :=
      if k = 32 then d
      else
        let d := (d.takeFault (uEng (2 * k)) fcauseLockstep).takeFault (uEng (2 * k + 1)) fcauseLockstep
        (d.partEnd (uEng (2 * k)) ucBadState).partEnd (uEng (2 * k + 1)) ucBadState
    let d :=
      if hand then
        let (v, d) := match res with
          | some v => (v, d)
          | none => d.fresh 3
        d.handoverEnd k pairFaulted v
      else d.sf lsPair_STATE k pairFaulted
    ((d.raise (if k = 32 then 1 else 0) k 0).faultRaise (d.pairClass k)).txnWatch

/-! ### Requests (R457, R459) -/

/-- Whether a JOIN finds both halves in RUN or both QUIESCED. -/
def joinable (d : Dev) (k : Nat) : Bool :=
  k == 32
    || (let a := d.actsAs (uEng (2 * k))
        a == d.actsAs (uEng (2 * k + 1)) && (a == stRun || a == stQuiesced))

/-- Both halves start again from reset and run in lockstep (R458 step 4, R459). (DEDUCED: assumption 23) -/
def pairReset (d : Dev) (k : Nat) : Dev :=
  let d := d.undiscard k
  let d :=
    if k = 32 then { (d.mcReset 0).mcReset 1 with mg := { d.mg with restarted := true } }
    else (d.engReset (2 * k)).engReset (2 * k + 1)
  d.sf lsPair_DEBUG_SPLIT k 0

/-- Re-synchronisation of a FAULTED pair (R457). -/
def pairResync (d : Dev) (k : Nat) : Dev :=
  let d := (d.pairReset k).sf lsPair_STATE k pairPaired
  if k = 32 then { d with mg := { d.mg with wdogAt := d.ns } }
  else (d.takeState (uEng (2 * k)) stQuiesced).takeState (uEng (2 * k + 1)) stQuiesced

/-- A request that completes at once. -/
def pairAnswer (d : Dev) (k res : Nat) : Dev := d.sf lsPair_RESULT k res

/-- A hand-over starts: STATE := HANDOVER (R458 step 1). -/
def handoverStart (d : Dev) (k r : Nat) : Dev :=
  ((d.setHandover k r).sf lsPair_STATE k pairHandover).sf lsPair_BUSY k 1

/-- LsPair.REQ JOIN by an initiator. A join of the management pair from SPLIT is its firmware's alone, and its re-synchronisation
D0's and the Darder link's, 16 (R459). -/
def pairJoin (d : Dev) (init k : Nat) : Dev :=
  let st := d.f lsPair_STATE k
  if d.b lsPair_BUSY k then d.rejWr uLs
  else if k = 32 ∧ init ≠ 16 ∧ st = pairSplit then d.rejWr uLs
  else if st = pairFaulted ∧ (k ≠ 32 ∨ init = 16 ∨ init = 0) then (d.pairResync k).pairAnswer k prOk
  else if st = pairSplit ∧ d.joinable k then d.handoverStart k 1
  else d.pairAnswer k prBadState

/-- LsPair.REQ SPLIT by an initiator. -/
def pairSplitReq (d : Dev) (init k : Nat) : Dev :=
  if d.b lsPair_BUSY k then d.rejWr uLs
  else if k = 32 ∧ init ≠ 16 then d.rejWr uLs
  else if d.f lsPair_STATE k ≠ pairPaired then d.pairAnswer k prBadState
  else if d.inSepia ∧ k = d.f lsSepiaCfg_PAIR 0 then d.pairAnswer k prRefusedSepia
  else d.handoverStart k 2

/-- A write of LsPair: REQ 0 and 3 are ignored. (DEDUCED: assumption 23) -/
def pairWrite (d : Dev) (init k v : Nat) : Dev :=
  match v % 4 with
  | 1 => d.pairJoin init k
  | 2 => d.pairSplitReq init k
  | _ => d

/-! ### The end of a hand-over (R458, R459) -/

/-- Whether what a hand-over waits for is done: every thread of the pair IDLE, or every far-side store acknowledged.
(DEDUCED: assumption 23) -/
def handoverReady (d : Dev) (k : Nat) : Bool :=
  if k = 32 then
    (d.handoverOf k == 1) || ((d.mcCore 0).far.isNone && (d.mcCore 1).far.isNone)
  else d.engIdle (2 * k) && d.engIdle (2 * k + 1)

/-- Steps 3 to 5; `differ` says that the halves' data or registers differ at a split. (DEDUCED: assumption 23) -/
def handoverDone (d : Dev) (k : Nat) (differ : Bool) : Dev :=
  if d.f lsPair_STATE k ≠ pairHandover ∨ d.handoverReady k = false then d
  else
    let res := if d.safe.forced.contains k then prDrainForced else prOk
    if d.handoverOf k = 2 then
      if differ then d.mismatch k (some prCompareFail)
      else
        let d := if k = 32 then d.mcReset 1 else d.engCopy (2 * k) (2 * k + 1) false
        d.handoverEnd k pairSplit res
    else (d.pairReset k).handoverEnd k pairPaired res

/-- DRAIN_US expires (R458 step 2): every busy thread raises WAIT_TMO. -/
def handoverTimeout (d : Dev) (k : Nat) : Dev :=
  if d.f lsPair_STATE k ≠ pairHandover ∨ k = 32 then d
  else
    let d := { d with safe := { d.safe with forced := k :: d.safe.forced.filter (· != k) } }
    [2 * k, 2 * k + 1].foldl (fun d n => (List.range 4).foldl (fun d t =>
      let x := d.thr n t
      if x.st = .idle then d else d.excFe n t excWaitTmo x.rf.pc.toNat 0) d) d

/-! ### Debug split (R460) -/

/-- The pair leaves lockstep because half `i` is halted; the other half carries its work alone. (DEDUCED: assumption 22) -/
def debugSplit (d : Dev) (k i : Nat) : Dev :=
  let d :=
    if k = 32 then d.setMc 1 (d.mcCore 0)
    else
      let a := 2 * k
      let d' := d.engCopy a (a + 1) true
      if i = 1 then d'
      else
        (List.range 4).foldl (fun e t =>
          let x := d.thr a t
          (e.setThr (a + 1) t x).setThr a t (if x.st = .idle then x else { x with shadow := true, outGrp := 0 })) d'
  let d := { d with safe := { d.safe with discarded := halfKey k i :: d.safe.discarded } }
  let d := (d.sf lsPair_STATE k pairSplit).sf lsPair_DEBUG_SPLIT k 1
  (d.raise 2 k 0).faultRaise fcDebugSplit

/-! ### Watchdog (R464) -/

/-- A write of LsWdogKick: from a host domain it is discarded. -/
def wdogKick (d : Dev) (init v : Nat) : Dev :=
  if init ≠ 16 then d.rejWr uLs
  else if bitAt 0 v then { d with mg := { d.mg with wdogAt := d.ns } } else d

/-- A write of LsWdogCfg: setting EN begins a period. (DEDUCED: assumption 43) -/
def wdogCfgWrite (d : Dev) (staged : Bool) (v m : Nat) : Dev :=
  let was := d.b lsWdogCfg_EN 0
  d.storeThen staged .lsWdogCfg 0 v m fun d =>
  if was = false ∧ d.b lsWdogCfg_EN 0 = true then { d with mg := { d.mg with wdogAt := d.ns } } else d

/-- A watchdog period ends without a kick. (DEDUCED: assumption 43) -/
def wdogExpiry (d : Dev) : Dev :=
  if d.b lsWdogCfg_EN 0 = true ∧ d.mg.wdogAt + d.f lsWdogCfg_PERIOD_MS 0 * 1000000 ≤ d.ns then
    { d with mg := { d.mg with wdogAt := d.ns } }.faultRaise fcWatchdog
  else d

/-! ### Sepia by command -/

/-- ENTER by D0 or a management core (R465). -/
def sepiaEnterCmd (d : Dev) (init : Nat) : Dev := if init ≠ 0 ∧ init ≠ 16 then d.rejWr uLs else d.sepiaEnter 15

/-- Whether a class whose reaction is SEPIA is ACTIVE. (DEDUCED: assumption 43) -/
def sepiaHeld (d : Dev) : Bool := (List.range 11).any fun c => d.reaction c == 2 && d.b lsFaultStatus_ACTIVE c

/-- EXIT by D0 (R468). Outside Sepia it ends nothing. (DEDUCED: assumption 43) -/
def sepiaExitCmd (d : Dev) (init : Nat) : Dev :=
  if init ≠ 0 ∨ d.sepiaHeld then d.rejWr uLs
  else if d.inSepia then (d.sf lsSepiaCtl_IN_SEPIA 0 0).raise 5 0 (d.f lsSepiaCause_CLASS 0)
  else d

/-- A write of LsSepiaCtl: with both bits, ENTER applies before EXIT (R469). -/
def sepiaCtlWrite (d : Dev) (init v : Nat) : Dev :=
  let d := if bitAt 30 v then d.sepiaEnterCmd init else d
  if bitAt 29 v then d.sepiaExitCmd init else d

/-! ### Supply and temperature monitors (R470) -/

/-- SAMPLE_US elapses at monitor `m`, which takes the sample of its supply or temperature. -/
def monTick (d : Dev) (m v : Nat) : Dev :=
  if d.b monCfg_EN m ∧ (d.f monCfg_SOURCE m = 4 ∨ d.f monCfg_SOURCE m = 5) then d.monSample m v else d

end Dev

end Sys2Proof.Machine
end

