-- ==== Sys2Proof/Machine/Sign.lean ====
section
/-! DEFINITION. The two signature schemes that R380, R482, R502 and R508 name: Ed25519 as RFC 8032 and ML-DSA-65 as FIPS 204 define
them (PRESUMED: the spec names the standards and does not repeat them). Keys, messages and signatures are lists of octets. -/
namespace Sys2Proof.Machine

/-- Octets as a number, least significant first, and back. -/
def ofOctetsLe (b : List Nat) : Nat := ofOctetsBe b.reverse
def toOctetsLe (n v : Nat) : List Nat := (toOctetsBe n v).reverse

/-- `b` to the power `e` modulo `m`, by the low `n` bits of `e`. -/
def powMod (m : Nat) : Nat → Nat → Nat → Nat
  | 0, _, _ => 1 % m
  | n + 1, b, e => let r := powMod m n (b * b % m) (e / 2); if e % 2 = 1 then r * b % m else r

/-! ### Ed25519 -/

/-- The field prime, the order of the base point, and the inverse in the field. -/
def edP : Nat := 2 ^ 255 - 19
def edL : Nat := 2 ^ 252 + 27742317777372353535851937790883648493
def edInv (x : Nat) : Nat := powMod edP 255 x (edP - 2)

def edSub (x y : Nat) : Nat := (x + edP - y % edP) % edP

/-- The constant of the curve. -/
def edD : Nat := edSub 0 (121665 * edInv 121666 % edP)

/-- A point in extended homogeneous coordinates. -/
structure EdPoint where
  x : Nat
  y : Nat
  z : Nat
  t : Nat
  deriving DecidableEq, Repr

def EdPoint.zero : EdPoint := ⟨0, 1, 1, 0⟩

def EdPoint.add (p q : EdPoint) : EdPoint :=
  let a := edSub p.y p.x * edSub q.y q.x % edP
  let b := (p.y + p.x) * (q.y + q.x) % edP
  let c := 2 * p.t * q.t * edD % edP
  let z := 2 * p.z * q.z % edP
  let e := edSub b a
  let f := edSub z c
  let g := z + c
  let h := b + a
  ⟨e * f % edP, g * h % edP, f * g % edP, e * h % edP⟩

/-- The multiple of a point by the low `n` bits of `k`. -/
def EdPoint.mul : Nat → Nat → EdPoint → EdPoint
  | 0, _, _ => .zero
  | n + 1, k, p =>
    let r := EdPoint.mul n (k / 2) (p.add p)
    if k % 2 = 1 then r.add p else r

def EdPoint.same (p q : EdPoint) : Bool :=
  p.x * q.z % edP == q.x * p.z % edP && p.y * q.z % edP == q.y * p.z % edP

/-- The encoding of a point (section 5.1.2), and its decoding (5.1.3). -/
def EdPoint.encode (p : EdPoint) : List Nat :=
  let i := edInv p.z
  toOctetsLe 32 (p.y * i % edP + p.x * i % edP % 2 * 2 ^ 255)

def edDecode (b : List Nat) : Option EdPoint :=
  let v := ofOctetsLe b
  let y := v % 2 ^ 255
  let sign := v / 2 ^ 255
  let x2 := edSub (y * y) 1 * edInv (edD * y * y + 1) % edP
  let x := powMod edP 255 x2 ((edP + 3) / 8)
  let x := if x * x % edP = x2 then x else x * powMod edP 255 2 ((edP - 1) / 4) % edP
  if b.length ≠ 32 ∨ edP ≤ y ∨ x * x % edP ≠ x2 ∨ (x = 0 ∧ sign = 1) then none
  else
    let x := if x % 2 = sign then x else edSub 0 x
    some ⟨x, y, 1, x * y % edP⟩

def edBase : EdPoint := (edDecode (toOctetsLe 32 (4 * edInv 5 % edP))).getD .zero

/-- The scalar of a private key, and the half of its hash that signatures take. -/
def edScalar (seed : List Nat) : Nat × List Nat :=
  let h := sha512 seed
  let a := ofOctetsLe (h.take 32)
  (2 ^ 254 + a % 2 ^ 254 / 8 * 8, h.drop 32)

/-- The public key of a private key (section 5.1.5). (PRESUMED: assumption 55) -/
@[irreducible] def edPublic (seed : List Nat) : List Nat := (edBase.mul 255 (edScalar seed).1).encode

/-- The signature of a message (section 5.1.6). (PRESUMED: assumption 55) -/
@[irreducible] def edSign (seed msg : List Nat) : List Nat :=
  let (a, pre) := edScalar seed
  let r := ofOctetsLe (sha512 (pre ++ msg)) % edL
  let rb := (edBase.mul 255 r).encode
  let k := ofOctetsLe (sha512 (rb ++ edPublic seed ++ msg)) % edL
  rb ++ toOctetsLe 32 ((r + k * a) % edL)

/-- Whether a signature verifies (section 5.1.7, without the cofactor): public key, message, signature.
(PRESUMED: assumption 55) -/
@[irreducible] def edVerify (pk msg sig : List Nat) : Bool :=
  let s := ofOctetsLe (sig.drop 32)
  let k := ofOctetsLe (sha512 (sig.take 32 ++ pk ++ msg)) % edL
  match edDecode pk, edDecode (sig.take 32) with
  | some a, some r => sig.length == 64 && decide (s < edL) && (edBase.mul 255 s).same (r.add (a.mul 255 k))
  | _, _ => false

/-! ### ML-DSA-65 -/

/-- A polynomial: its 256 coefficients, each below `mlQ`. -/
abbrev Poly := List Nat

def mlQ : Nat := 8380417
def mlGamma1 : Nat := 2 ^ 19
def mlGamma2 : Nat := 261888
def mlBeta : Nat := 196
def mlOmega : Nat := 55

/-- The size of a coefficient taken as the nearest number to 0. -/
def mlAbs (x : Nat) : Nat := min x (mlQ - x)
def mlNeg (x : Nat) : Nat := (mlQ - x) % mlQ

def polyAdd (a b : Poly) : Poly := List.zipWith (fun x y => (x + y) % mlQ) a b
def polySub (a b : Poly) : Poly := List.zipWith (fun x y => (x + mlQ - y) % mlQ) a b
def polyMul (a b : Poly) : Poly := List.zipWith (fun x y => x * y % mlQ) a b
def polyNorm (a : Poly) : Nat := (a.map mlAbs).foldl max 0

/-- The eight bits of a number in reverse order. -/
def bitRev8 (m : Nat) : Nat := ((List.range 8).map fun i => m / 2 ^ i % 2 * 2 ^ (7 - i)).sum

/-- The root of unity of node `m` of the transform, and its inverse. -/
def mlZeta (m : Nat) : Nat := powMod mlQ 9 1753 (bitRev8 m)
def mlZetaInv (m : Nat) : Nat := powMod mlQ 10 1753 (512 - bitRev8 m)

/-- The number-theoretic transform of the 2^n coefficients beneath node `m` (algorithm 41), and its inverse but for the factor
of 256 (algorithm 42). -/
def nttNode : Nat → Nat → Poly → Poly
  | 0, _, a => a
  | n + 1, m, a =>
    let hi := (a.drop (2 ^ n)).map fun x => x * mlZeta m % mlQ
    let lo := a.take (2 ^ n)
    nttNode n (2 * m) (polyAdd lo hi) ++ nttNode n (2 * m + 1) (polySub lo hi)

def nttBackNode : Nat → Nat → Poly → Poly
  | 0, _, a => a
  | n + 1, m, a =>
    let lo := nttBackNode n (2 * m) (a.take (2 ^ n))
    let hi := nttBackNode n (2 * m + 1) (a.drop (2 ^ n))
    polyAdd lo hi ++ (polySub lo hi).map fun x => x * mlZetaInv m % mlQ

def ntt (a : Poly) : Poly := nttNode 8 1 a
def nttBack (a : Poly) : Poly := (nttBackNode 8 1 a).map fun x => x * 8347681 % mlQ

def shake128 (out : Nat) (msg : List Nat) : List Nat := keccak 168 31 out msg
def shake256 (out : Nat) (msg : List Nat) : List Nat := keccak 136 31 out msg

/-- Algorithm 30, within the 298 trials of its appendix C. -/
def rejNtt (seed : List Nat) : Poly :=
  (((chunksOf 3 (shake128 894 seed)).map fun b => ofOctetsLe b % 2 ^ 23).filter (· < mlQ)).take 256

/-- Algorithm 31, within the 481 octets of appendix C. -/
def rejBounded (seed : List Nat) : Poly :=
  (((shake256 481 seed).flatMap fun b => [b % 16, b / 16]).filter (· < 9)).map (fun b => (mlQ + 4 - b) % mlQ) |>.take 256

/-- The matrix of a key (algorithm 32), by rows, in transformed form; and a product with it. -/
def expandA (rho : List Nat) : List (List Poly) :=
  (List.range 6).map fun r => (List.range 5).map fun s => rejNtt (rho ++ [s, r])

def matMul (m : List (List Poly)) (v : List Poly) : List Poly :=
  m.map fun row => (List.zipWith polyMul row v).foldl polyAdd (List.replicate 256 0)

/-- Packing numbers of `w` bits, least significant first, and unpacking (algorithms 16 to 19). -/
def bitPack (w : Nat) (l : List Nat) : List Nat :=
  toOctetsLe ((w * l.length + 7) / 8) (l.reverse.foldl (fun a x => a * 2 ^ w + x) 0)
def bitUnpack (w : Nat) (b : List Nat) : List Nat :=
  let v := ofOctetsLe b
  (List.range (8 * b.length / w)).map fun i => v / 2 ^ (w * i) % 2 ^ w

/-- The high and the low part of a coefficient for a public key (algorithm 35) and for a signature (algorithm 36). -/
def power2High (x : Nat) : Nat := (x + 2 ^ 12 - 1) / 2 ^ 13
def mlHigh (x : Nat) : Nat := (x + mlGamma2 - 1) / (2 * mlGamma2) % 16
def mlLow (x : Nat) : Nat := (x + mlQ - mlHigh x * (2 * mlGamma2)) % mlQ

/-- A key pair as signing uses it. -/
structure MlKey where
  pk : List Nat
  rho : List Nat
  k : List Nat
  s1 : List Poly
  s2 : List Poly
  t0 : List Poly

/-- ML-DSA.KeyGen_internal (algorithm 6). -/
def mlKeyGen (xi : List Nat) : MlKey :=
  let h := shake256 128 (xi ++ [6, 5])
  let rho := h.take 32
  let seed := (h.drop 32).take 64
  let s (i : Nat) : Poly := rejBounded (seed ++ [i, 0])
  let s1 := (List.range 5).map s
  let s2 := (List.range 6).map fun i => s (i + 5)
  let t := List.zipWith polyAdd ((matMul (expandA rho) (s1.map ntt)).map nttBack) s2
  let t1 := t.map fun p => p.map power2High
  let t0 := List.zipWith (fun p h => polySub p (h.map (· * 2 ^ 13))) t t1
  ⟨rho ++ t1.flatMap (bitPack 10), rho, h.drop 96, s1, s2, t0⟩

/-- One step of algorithm 29: the place `i` takes the coefficient at `j`, and `j` the sign. -/
def ballStep (i j sign : Nat) (c : Poly) : Poly :=
  (c.set i (c.getD j 0)).set j (if sign = 1 then mlQ - 1 else 1)

/-- The challenge polynomial of a commitment hash (algorithm 29), within the 121 octets of appendix C. -/
def sampleInBall (seed : List Nat) : Poly :=
  let s := shake256 129 seed
  let signs := ofOctetsLe (s.take 8)
  ((List.range 49).foldl (fun (x : Poly × List Nat) k =>
    let i := 207 + k
    let l := x.2.dropWhile fun j => decide (i < j)
    (ballStep i (l.headD 0) (signs / 2 ^ k % 2) x.1, l.drop 1)) (List.replicate 256 0, s.drop 8)).1

/-- The message representative of a message with an empty context (algorithms 2 and 7). -/
def mlMu (pk msg : List Nat) : List Nat := shake256 64 (shake256 64 pk ++ [0, 0] ++ msg)

/-- The octets of the high parts of a commitment (algorithm 28), and its hash. -/
def mlCommit (mu : List Nat) (w1 : List Poly) : List Nat := shake256 48 (mu ++ w1.flatMap (bitPack 4))

/-- The packed hint (algorithm 20), and whether a packed one is in order, with its polynomials (algorithm 21). -/
def hintPack (h : List (List Bool)) : List Nat :=
  let places := h.map fun p => (List.range 256).filter fun i => p.getD i false
  let flat := places.flatMap id
  flat ++ List.replicate (mlOmega - flat.length) 0 ++ (List.range 6).map fun i => ((places.take (i + 1)).map (·.length)).sum

def hintUnpack (b : List Nat) : Option (List (List Nat)) :=
  let ends := b.drop mlOmega
  let part (i : Nat) : List Nat :=
    let a := if i = 0 then 0 else ends.getD (i - 1) 0
    (b.drop a).take (ends.getD i 0 - a)
  let rising (l : List Nat) : Bool := (l.zip (l.drop 1)).all fun e => decide (e.1 < e.2)
  let ok := (ends.zip (ends.drop 1)).all (fun e => decide (e.1 ≤ e.2)) && decide (ends.getLastD 0 ≤ mlOmega)
    && (List.range 6).all (fun i => rising (part i))
    && ((b.take mlOmega).drop (ends.getLastD 0)).all (· == 0)
  if ok then some ((List.range 6).map part) else none

/-- The trials of algorithm 7 from mask counter `kappa` on, at most as many as the first argument says; `none` where all are
rejected. -/
def mlTry (key : MlKey) (a : List (List Poly)) (mu seed : List Nat) : Nat → Nat → Option (List Nat)
  | 0, _ => none
  | n + 1, kappa =>
    let y := (List.range 5).map fun r =>
      (bitUnpack 20 (shake256 640 (seed ++ toOctetsLe 2 (kappa + r)))).map fun z => (mlGamma1 + mlQ - z) % mlQ
    let w := (matMul a (y.map ntt)).map nttBack
    let c := mlCommit mu (w.map fun p => p.map mlHigh)
    let ch := ntt (sampleInBall c)
    let by' (v : List Poly) : List Poly := v.map fun p => nttBack (polyMul ch (ntt p))
    let z := List.zipWith polyAdd y (by' key.s1)
    let r := List.zipWith polySub w (by' key.s2)
    let ct0 := by' key.t0
    let h := List.zipWith (fun x y => List.zipWith (fun x y => mlHigh x != mlHigh ((x + y) % mlQ)) x y) r ct0
    let norm (v : List Poly) : Nat := (v.map polyNorm).foldl max 0
    if mlGamma1 - mlBeta ≤ norm z ∨ mlGamma2 - mlBeta ≤ norm (r.map fun p => p.map mlLow) ∨ mlGamma2 ≤ norm ct0
        ∨ mlOmega < (h.map fun p => (p.filter id).length).sum then
      mlTry key a mu seed n (kappa + 5)
    else
      some (c ++ z.flatMap (fun p => bitPack 20 (p.map fun x => (mlGamma1 + mlQ - x) % mlQ)) ++ hintPack h)

/-- The public key of an identity seed (R380). (PRESUMED: assumption 55) -/
@[irreducible] def mlPublic (xi : List Nat) : List Nat := (mlKeyGen xi).pk

/-- The signature of a message under an identity seed with an empty context, from the 32 octets of randomness that the scheme draws
(algorithms 2 and 7), within the 814 trials of appendix C. (PRESUMED: assumption 55) -/
@[irreducible] def mlSign (xi msg rnd : List Nat) : List Nat :=
  let key := mlKeyGen xi
  let mu := mlMu key.pk msg
  (mlTry key (expandA key.rho) mu (shake256 64 (key.k ++ rnd ++ mu)) 814 0).getD (List.replicate 3309 0)

/-- Whether a signature verifies with an empty context (algorithms 3 and 8): public key, message, signature.
(PRESUMED: assumption 55) -/
@[irreducible] def mlVerify (pk msg sig : List Nat) : Bool :=
  let z := (chunksOf 640 ((sig.drop 48).take 3200)).map fun b => (bitUnpack 20 b).map fun x => (mlGamma1 + mlQ - x) % mlQ
  let t1 := (chunksOf 320 (pk.drop 32)).map fun b => ntt ((bitUnpack 10 b).map (· * 2 ^ 13))
  match hintUnpack (sig.drop 3248) with
  | none => false
  | some h =>
    let mu := mlMu pk msg
    let ch := ntt (sampleInBall (sig.take 48))
    let az := matMul (expandA (pk.take 32)) (z.map ntt)
    let w := List.zipWith (fun x t => nttBack (polySub x (polyMul ch t))) az t1
    let use (hint : Bool) (x : Nat) : Nat :=
      let low := mlLow x
      if !hint then mlHigh x
      else if 0 < low ∧ low ≤ mlGamma2 then (mlHigh x + 1) % 16 else (mlHigh x + 15) % 16
    let w1 := List.zipWith (fun p l => p.zipIdx.map fun e => use (l.contains e.2) e.1) w h
    pk.length == 1952 && sig.length == 3309 && decide ((z.map polyNorm).foldl max 0 < mlGamma1 - mlBeta)
      && sig.take 48 == mlCommit mu w1

end Sys2Proof.Machine
end

