-- ==== Sys2Proof/Machine/Jorasor.lean ====
section
/-! DEFINITION. Key sets and the Jorasor container with its checks (R481 to R483), the slot pairs in flash (R485, R486), and
the image a unit boots with (R487 to R490). -/
namespace Sys2Proof.Machine

def nats (b : List Byte) : List Nat := b.map BitVec.toNat

/-! ### Container fields (R482) -/

def jrKind (c : List Byte) : Nat := leAt c 6 1
def jrKeySet (c : List Byte) : Nat := leAt c 7 1
def jrVersion (c : List Byte) : Nat := leAt c 8 4
def jrSvn (c : List Byte) : Nat := leAt c 0xC 2
def jrStates (c : List Byte) : Nat := leAt c 0xE 1
def jrSerial (c : List Byte) : Nat := leAt c 0x10 8
def jrLen (c : List Byte) : Nat := leAt c 0x18 4
def jrTarget (c : List Byte) : Nat := leAt c 0x1C 4
def jrHeader (c : List Byte) : List Nat := nats (slice c 0 256)
def jrPayload (c : List Byte) : List Byte := slice c 0x1600 (jrLen c)

/-- The longest payload of a KIND (R482). A SETTINGS payload has no limit of its own; LIFECYCLE and KEYSET carry none.
(DEDUCED: assumption 47) -/
def jrLimit (kind : Nat) : Nat :=
  match kind with
  | 1 => 3 * 2 ^ 20
  | 2 => 516 * 1024 + 0x440
  | 3 | 4 => 256 * 1024
  | 5 => 2 ^ 32 - 1
  | _ => 0

/-- Results of the check (R483). -/
def jrOk : Nat := 0
def jrFormat : Nat := 1
def jrKeySetBad : Nat := 2
def jrMismatch : Nat := 3
def jrSigEd : Nat := 4
def jrSigMl : Nat := 5
def jrHash : Nat := 6
/-- (DEDUCED: assumption 47) -/
def jrBinding : Nat := 7
def jrRollback : Nat := 8
def jrReadError : Nat := 9
def jrEmpty : Nat := 10
def jrNotConfirmed : Nat := 11

/-- Check FORMAT: MAGIC, FORMAT, KIND, RSV fields, PAYLOAD_LEN. -/
def jrFormatOk (c : List Byte) : Bool :=
  leAt c 0 4 == 0x5253524A && leAt c 4 2 == 1 && decide (1 ≤ jrKind c) && decide (jrKind c ≤ 7) && leAt c 0xF 1 == 0
    && (slice c 0x80 128).all (· == 0) && (slice c 0x15CD 51).all (· == 0) && decide (jrLen c ≤ jrLimit (jrKind c))
    && decide (0x1600 + jrLen c ≤ c.length)

namespace Dev

def lifecycle (d : Dev) : Nat := d.f mgLifecycle_STATE 0

/-- The device serial. -/
def serial (d : Dev) : Nat := (d.rd .mgSerial 0).toNat + (d.rd .mgSerial 1).toNat * 2 ^ 32

/-- Whether a key set is usable in the lifecycle state (R481). -/
def keySetUsable (d : Dev) (s : Nat) : Bool :=
  match s with
  | 0 => true
  | 1 => decide (d.lifecycle ≤ 1)
  | _ => decide (s ≤ 5) && d.b mgKeySet_PROGRAMMED (s - 2) && !d.b mgKeySet_REVOKED (s - 2)

/-- Whether a key set may sign a KIND: an owner set signs PROG_SET, SETTINGS, LIFECYCLE and KEYSET (R481). -/
def keySetSigns (s kind : Nat) : Bool := decide (s < 2) || kind == 2 || decide (5 ≤ kind)

/-- The digest of a key set. -/
def keySetDigest (d : Dev) (s : Nat) : Nat :=
  if s < 2 then Config.romDigest s % 2 ^ 256 else Sparse.get (fun _ => 0) d.mg.digest (s - 2)

/-- Whether LIFECYCLES names the state in force: BLANK counts as DEVELOP. -/
def statesInclude (d : Dev) (m : Nat) : Bool :=
  match d.lifecycle with
  | 0 | 1 => bitAt 1 m
  | 2 => bitAt 2 m
  | _ => Config.retiredAccepts m

/-- The check of R483 but for its flash results, for a container of slot pair `k` where it has one. -/
def jrCheck (d : Dev) (k : Option Nat) (c : List Byte) : Nat :=
  let s := jrKeySet c
  let pk := slice c 0x60 32 ++ slice c 0x100 1952
  if !jrFormatOk c then jrFormat
  else if !(d.keySetUsable s && keySetSigns s (jrKind c)) then jrKeySetBad
  else if ofLeOctets (sha256 (nats pk)) ≠ d.keySetDigest s then jrMismatch
  else if !edVerify (nats (slice c 0x60 32)) (jrHeader c) (nats (slice c 0x8A0 64)) then jrSigEd
  else if !mlVerify (nats (slice c 0x100 1952)) (jrHeader c) (nats (slice c 0x8E0 3309)) then jrSigMl
  else if sha512 (nats (jrPayload c)) ≠ nats (slice c 0x20 64) then jrHash
  else if !(d.statesInclude (jrStates c) && (jrSerial c == 0 || jrSerial c == d.serial)) then jrBinding
  else match k with
    | some k => if jrSvn c < d.f mgSlotSvn_SVN_MIN k then jrRollback else jrOk
    | none => jrOk

/-! ### Flash (R478, R485) -/

/-- Reading flash; erased flash reads ones. (DESIGN CHOICE: assumption 2) -/
def flashGet (d : Dev) (a n : Nat) : List Byte :=
  (List.range n).map fun i => Sparse.get (fun _ => 0xFF) d.eng.flash (a + i)

def flashPut (d : Dev) (a : Nat) (bs : List Byte) : Dev :=
  let m := ((List.range bs.length).zip bs).foldl (fun m e => Sparse.set (fun _ => 0xFF) m (a + e.1) e.2) d.eng.flash
  { d with eng := { d.eng with flash := m } }

/-- Slot pair `k` of the partition table in use, where the table has it (R485). -/
def partPair (d : Dev) (k : Nat) : PartPair := d.mg.part.pairs.getD k ⟨0, 0, 0, 0⟩

/-- Where half `h` of slot pair `k` lies. -/
def halfAt (d : Dev) (k h : Nat) : Nat := 65536 * (if h = 1 then (d.partPair k).b else (d.partPair k).a).toNat

/-- The container a half holds. -/
def halfBytes (d : Dev) (k h : Nat) : List Byte :=
  let a := d.halfAt k h
  d.flashGet a (0x1600 + min (leNat (d.flashGet (a + 0x18) 4)) (3 * 2 ^ 20))

/-- A half whose first word is erased, or of a slot pair that the table does not name, holds no container.
(DEDUCED: assumption 47) -/
def halfEmpty (d : Dev) (k h : Nat) : Bool :=
  decide (d.mg.part.pairs.length ≤ k) || leNat (d.flashGet (d.halfAt k h) 4) == 2 ^ 32 - 1

/-- The check of a half (R483); `bad` says that reading the flash failed. -/
def halfCheck (d : Dev) (k h : Nat) (bad : Bool) : Nat :=
  if bad then jrReadError else if d.halfEmpty k h then jrEmpty else d.jrCheck (some k) (d.halfBytes k h)

/-- Erasing a half, up to its longest container. -/
def halfErase (d : Dev) (k h : Nat) : Dev :=
  let a := d.halfAt k h
  { d with eng := { d.eng with flash := memZero d.eng.flash a (0x1600 + 3 * 2 ^ 20) } }

/-- VERSION_A and VERSION_B show what the halves hold. -/
def halfShow (d : Dev) (k : Nat) : Dev :=
  let v (h : Nat) : Nat := if d.halfEmpty k h then 0 else leNat (d.flashGet (d.halfAt k h + 8) 4)
  (d.sf mgSlotVerA_VERSION_A k (v 0)).sf mgSlotVerB_VERSION_B k (v 1)

def activeHalf (d : Dev) (k : Nat) : Nat := d.f mgSlotState_ACTIVE_B k

/-! ### The partition table and the state area (R485) -/

/-- The length of a partition table with its CRC-32, which comes last: a header of 16 bytes and 16 for each slot pair.
(DESIGN CHOICE: assumption 45) -/
def tableLen : Nat := 276

/-- Whether the copy of the table at address `a`, with fields `x`, may be used: its CRC-32 verifies, and slot pair 0 is of KIND
FW_MGMT. (DEDUCED: assumption 45) -/
def tableGood (d : Dev) (a : Nat) (x : PartTable) : Bool :=
  crcGood (d.flashGet a tableLen) && x.pairs.head?.any (·.kind == 1)

/-- The table that the ROM uses: the one at 0, or the copy at 0x1000; none where neither may be used. -/
def tableOf (d : Dev) (x : BootInput) : Option PartTable :=
  if d.tableGood 0 x.table then some x.table
  else if d.tableGood 0x1000 x.copy then some x.copy
  else none

/-- Where copy 0 or 1 of the record of slot pair `k` lies, and of the record of field retirements.
(DESIGN CHOICE: assumption 45) -/
def recordAt (d : Dev) (k copy : Nat) : Nat := d.mg.part.state.toNat + 32 * k + 16 * copy
def retiredAt (d : Dev) (copy : Nat) : Nat := d.mg.part.state.toNat + 512 + 512 * copy

/-- ACTIVE_B, PENDING, TRIAL and BOOTED_B of slot pair `k`, as the record of the state area holds them.
(DESIGN CHOICE: assumption 45) -/
def slotBits (d : Dev) (k : Nat) : Nat :=
  d.f mgSlotState_ACTIVE_B k + 2 * d.f mgSlotState_PENDING k + 4 * d.f mgSlotState_TRIAL k + 8 * d.f mgSlotState_BOOTED_B k

def setSlotBits (d : Dev) (k v : Nat) : Dev :=
  (((d.sf mgSlotState_ACTIVE_B k (v % 2)).sf mgSlotState_PENDING k (v / 2 % 2)).sf mgSlotState_TRIAL k (v / 4 % 2)).sf
    mgSlotState_BOOTED_B k (v / 8 % 2)

/-- Writing the record of slot pair `k` twice, each with its CRC-32. -/
def recordPut (d : Dev) (k : Nat) : Dev :=
  let r := withCrc (leBytes 12 (d.slotBits k))
  (d.flashPut (d.recordAt k 0) r).flashPut (d.recordAt k 1) r

/-- The first valid one of two copies of `n` bytes with their CRC-32. -/
def validCopy (d : Dev) (a b n : Nat) : Option (List Byte) := [d.flashGet a n, d.flashGet b n].find? crcGood

/-- Reading the record of slot pair `k`: without a valid copy ACTIVE_B is 0 and nothing is pending. -/
def recordGet (d : Dev) (k : Nat) : Dev :=
  d.setSlotBits k (match d.validCopy (d.recordAt k 0) (d.recordAt k 1) 16 with | some r => leAt r 0 1 | none => 0)

/-- A change `f` of slot pair `k`, whose record is written under leave where it differs (R478). -/
def slotChange (d : Dev) (k : Nat) (f : Dev → Dev) : Dev :=
  let d' := f d
  if d'.slotBits k = d.slotBits k then d' else d'.flashOnce (.record k)

/-- The registers that hold the retirements, with how many of each there are (R45). -/
def retiredRegs : List (Reg × Nat) :=
  [(.idFeMap, 64), (.idFeFree, 3), (.idFeRetired, 3), (.idAcMap, 12), (.idAcFree, 1), (.idAcRetired, 1), (.idRowMap, 16)]

/-- The record of the field retirements: four bytes of each of those registers. (DESIGN CHOICE: assumption 45) -/
def retiredBytes (d : Dev) : List Byte :=
  retiredRegs.flatMap fun x => (List.range x.2).flatMap fun i => leBytes 4 (d.rd x.1 i).toNat

def retiredPut (d : Dev) : Dev :=
  let r := withCrc d.retiredBytes
  (d.flashPut (d.retiredAt 0) r).flashPut (d.retiredAt 1) r

/-- Reapplying the field retirements: of the fuses alone where no copy is valid. -/
def retiredGet (d : Dev) : Dev :=
  let bs := d.validCopy (d.retiredAt 0) (d.retiredAt 1) 404
  let one (d : Dev) (x : (Reg × Nat) × Nat) : Dev :=
    (List.range x.1.2).foldl (fun d i =>
      d.wr x.1.1 i (match bs with
        | some b => BitVec.ofNat 32 (leAt b (x.2 + 4 * i) 4)
        | none => regReset x.1.1 i)) d
  (retiredRegs.zip [0, 256, 268, 280, 328, 332, 336]).foldl one d

/-! ### Images of units (R487, R488, R490) -/

/-- The KIND of the image a unit runs; 0 where it runs none of its own. -/
def imageKind (u : Nat) : Nat :=
  match unitKind u with
  | .fe | .fc | .cx => 2
  | .pd => 3
  | .bw => 4
  | _ => 0

/-- The slot pair that serves a unit: the first of its KIND whose TARGET in the partition table names it. -/
def slotOf (d : Dev) (u : Nat) : Option Nat :=
  (List.range 16).find? fun k =>
    let t := (d.partPair k).target.toNat
    d.f mgSlotState_KIND k == imageKind u
      && match unitKind u with
        | .fc | .fe | .cx => (d.updClusters u).all fun c => bitAt c t
        | .pd => t == unitInst u
        | _ => true

/-- What an attestation report lists of an image that unit `u` runs (R502). -/
def runImageOf (u kind slot : Nat) (c : List Byte) : RunImage :=
  ⟨unitClass u, unitInst u, kind, slot, jrSvn c, jrVersion c, sha512 (jrHeader c)⟩

/-- Recording the image that a unit runs from now on. -/
def setRun (d : Dev) (r : RunImage) : Dev :=
  let rest := d.mg.runs.filter fun x => !(x.cls == r.cls && x.inst == r.inst && x.kind == r.kind)
  { d with mg := { d.mg with runs := rest ++ [r] } }

/-- The image a unit runs. -/
def runOfUnit (d : Dev) (u : Nat) : Option RunImage :=
  d.mg.runs.find? fun r => r.cls == unitClass u && r.inst == unitInst u

/-- The result of a check of slot pair `k` that an update or a boot reports for unit `u` (R487, R490): EV156, and the log
record of a failure. -/
def imageReport (d : Dev) (u k res : Nat) : Dev :=
  let d := (d.sf mgSlotState_LAST_RESULT k res).raise 156 k res
  if res = jrOk then d else d.logPut logImageFail (d.dirIndex u) (res + 256 * k)

/-- A set image put into a cluster's slot from a payload, in place of what the slot held, with what a report lists of it; none
where the image is not one of R103 or does not fit (R106). -/
def setInstall (d : Dev) (payload : List Byte) (c s : Nat) (r : RunImage) : Option Dev :=
  let keep := d.eng.sram
  let d' : Dev := { d with eng := { d.eng with sram := memSet [] 0 payload } }
  let h := imgHead d'.eng.sram 0
  let es := imgEntries d'.eng.sram 0
  let kib := cdiv (4 * h.codeWords + h.constBytes) 1024
  let d' := if d'.slotState c s = slFree then d' else d'.slotFree c s
  if imgOk h es && decide (h.isa ≤ 1) && (d'.storeFit c kib).isSome && d'.layoutOk c s h.layout then
    let d' := d'.loadInto h es 0 s kib c
    some ({ d' with eng := { d'.eng with sram := keep } }.setListed c s r)
  else none

/-- UPDATE installs the set of container `c`, from half `h` of slot pair `k`, in the CURRENT slot of each cluster of unit `u`
(R490); none where one of them cannot take it, so that every child stays as it was. -/
def setUpdate (d : Dev) (u k h : Nat) (c : List Byte) : Option Dev :=
  (d.updClusters u).foldlM (fun d n =>
    let s := d.f feSetSel_SLOT n
    let first := d.f feSetSlotEpochs_FIRST_EPOCH (4 * n + s)
    (d.setInstall (jrPayload c) n s (runImageOf (uFc n) 2 (k + 16 * h) c)).map fun d =>
      ((d.sf feSetSlotState_STATE (4 * n + s) slCurrent).sf feSetSlotEpochs_FIRST_EPOCH (4 * n + s) first).sf
        unitImage_IMAGE_VERSION (uFc n) (jrVersion c)) d

/-- The die of unit `u` takes the image of container `c`, which is sent over its link (R488, R490). -/
def dieImage (d : Dev) (u k h : Nat) (c : List Byte) : Dev :=
  (d.linkSend (if unitKind u = .pd then unitInst u else 3) ordImage k).setRun (runImageOf u (imageKind u) (k + 16 * h) c)

/-- Whether UPDATE or RESTART of a unit checks an image of its own: a restart does so for a die only. -/
def checksImage (u cmd : Nat) : Bool :=
  (cmd == cmdUpdate && imageKind u != 0) || (cmd == cmdRestart && decide (3 ≤ imageKind u))

/-- The work of a unit ends. UPDATE checks the pending half, or the ACTIVE one where none is pending, and RESTART of a die the
ACTIVE one (R490); other work has no image to check. A program set that a cluster cannot take fails as FORMAT.
(DEDUCED: assumption 47) -/
def unitWork (d : Dev) (u : Nat) (bad : Bool) : Dev :=
  match d.opAt u with
  | none => d
  | some o =>
    if !((d.parts u o.cmd).all fun p => d.actsAs p == stUpdating) then d
    else if !checksImage u o.cmd then d.workComplete u true
    else
      match d.slotOf u with
      | none => d.workComplete u false
      | some k =>
        let pending := o.cmd == cmdUpdate && d.b mgSlotState_PENDING k
        let act := d.activeHalf k
        let h := if pending then 1 - act else act
        let res := d.halfCheck k h bad
        let c := d.halfBytes k h
        let die := decide (3 ≤ imageKind u)
        let done := if res ≠ jrOk then none else if die then some (d.dieImage u k h c) else d.setUpdate u k h c
        let d := if pending then d.slotChange k fun d => d.sf mgSlotState_PENDING k 0 else d
        match done with
        | none => (d.imageReport u k (if res = jrOk then jrFormat else res)).workComplete u false
        | some e =>
          let e := (if pending then e.sf mgSlotState_PENDING k 0 else e).imageReport u k jrOk
          let e := e.slotChange k fun d => (d.sf mgSlotState_ACTIVE_B k h).sf mgSlotState_BOOTED_B k h
          let e := if o.cmd = cmdUpdate then e.logPut logUpdate (e.dirIndex u) (jrVersion c) else e
          (e.sf unitImage_IMAGE_VERSION u (jrVersion c)).workComplete u true

end Dev

end Sys2Proof.Machine
end

