-- ==== Sys2Proof/Machine/Mailbox.lean ====
section
/-! DEFINITION. The mailbox commands (R500 to R503), antifuse and flash programming under leave (R478, R484, R503), the flush
of the log (R499), the hash engine (R479) and the sensors (R480, R513, R535). -/
namespace Sys2Proof.Machine

/-- RESULT codes of a mailbox command (R500). -/
def mbOk : Nat := 0
def mbBadCmd : Nat := 1
def mbPermission : Nat := 2
def mbDmaError : Nat := 3
def mbNoPower : Nat := 4
def mbImage : Nat := 5
def mbBadState : Nat := 6
def mbTooSmall : Nat := 7
def mbBadArg : Nat := 8

namespace Dev

/-! ### Mailbox pages -/

/-- A mailbox command of page `n` completes (R500, EV155). -/
def mbEnd (d : Dev) (n res : Nat) : Dev :=
  ((d.sf mgMboxStatus_BUSY n 0).sf mgMboxStatus_RESULT n res).raise 155 n res

def mbData (d : Dev) (n w : Nat) : Nat := (d.rd .mgMboxData (16 * n + w)).toNat
def setMbData (d : Dev) (n w v : Nat) : Dev := d.wr .mgMboxData (16 * n + w) (BitVec.ofNat 32 v)
def mbArg (d : Dev) (n : Nat) : Nat := d.f mgMboxArg_ARG n
def mbLen (d : Dev) (n : Nat) : Nat := d.f mgMboxLen_LEN n
def mbAddr (d : Dev) (n : Nat) : Nat := d.f mgMboxAddrLo_ADDR n + d.f mgMboxAddrHi_ADDR n * 2 ^ 32

/-- A write of MgMboxCmd: with GO it starts the command, and while BUSY it is discarded (R500). Unknown commands and
commands 4 to 10 off page 0 complete at once; the effect of any other is that of its own row. -/
def mbCmdWrite (d : Dev) (n v : Nat) : Dev :=
  let cmd := v % 256
  if d.b mgMboxStatus_BUSY n then d.rejWr uMg
  else if !bitAt 31 v then d.wr .mgMboxCmd n (BitVec.ofNat 32 (v % 65536))
  else
    let d := d.wr .mgMboxCmd n (BitVec.ofNat 32 (v % 65536))
    let d := (d.sf mgMboxStatus_BUSY n 1).sf mgMboxStatus_TAG n (bits 15 8 v)
    if cmd = 0 ∨ 10 < cmd then d.mbEnd n mbBadCmd
    else if 4 ≤ cmd ∧ n ≠ 0 then d.mbEnd n mbPermission
    else d

/-- The effect of command `cmd` on page `n`, when that command has been started there. (DEDUCED: assumption 47) -/
def mbRun (d : Dev) (n cmd : Nat) (go : Dev → Dev) : Dev :=
  if d.b mgMboxStatus_BUSY n && d.f mgMboxCmd_CMD n == cmd then go d else d

/-- Whether a command of page 0 has its arguments and waits for leave. -/
def mbWaits (d : Dev) : Bool :=
  (match d.mg.fuse with | some (.lifecycle s) => s != 1 | some (.root _ _) | none => false | some _ => true)
    || d.mg.flashOps.any fun op => match op with
      | .erase _ _ _ | .chunk _ _ _ _ | .commit _ | .confirm _ => true
      | .lifecycle s => s != 1
      | _ => false

/-- The effect of one of the commands 4 to 9, which page 0 alone runs (R500): once, while it waits for leave. -/
def mbRun0 (d : Dev) (n cmd : Nat) (go : Dev → Dev) : Dev :=
  if n = 0 then (if d.mbWaits then d else d.mbRun 0 cmd go) else d.mbRun n cmd fun d => d.mbEnd n mbPermission

/-- A command whose DMA waits while Bus Master of its function is off (R447). -/
def mbDma (d : Dev) (n cmd : Nat) (go : Dev → Dev) : Dev := if d.dmaGo n then d.mbRun n cmd go else d
def mbDma0 (d : Dev) (n cmd : Nat) (go : Dev → Dev) : Dev := if d.dmaGo n then d.mbRun0 n cmd go else d

/-- VERSION: the ROM's version, then that of the ACTIVE half of each slot pair that MgMboxData has a word for.
(DEDUCED: assumption 47) -/
def mbVersion (d : Dev) (n : Nat) : Dev :=
  d.mbRun n 1 fun d =>
    let d := d.setMbData n 0 Config.romVersion
    let d := (List.range 15).foldl (fun d k =>
      d.setMbData n (k + 1) (if d.activeHalf k = 1 then d.f mgSlotVerB_VERSION_B k else d.f mgSlotVerA_VERSION_A k)) d
    d.mbEnd n mbOk

/-- The entries of an attestation report (R502): the ROM, the firmware, settings, each cluster's CURRENT set, each die image. -/
def reportEntries (d : Dev) : List RunImage :=
  let of (k : Nat) : List RunImage := d.mg.runs.filter fun r => r.kind == k
  let sets := (List.range 8).filterMap fun c =>
    ((List.range 4).find? fun s => d.slotState c s == slCurrent).bind fun s =>
      (d.mg.sets.find? fun x => x.1 == 4 * c + s).map (·.2)
  ⟨unitClass uMg, 0, 0, 0, 0, Config.romVersion % 2 ^ 32, leOctets 64 Config.romHash⟩ :: of 1 ++ of 5 ++ sets ++ of 3 ++ of 4

def entryBytes (r : RunImage) : List Byte :=
  leBytes 1 r.cls ++ leBytes 1 0 ++ leBytes 2 r.inst ++ leBytes 1 r.kind ++ leBytes 1 r.slot ++ leBytes 2 r.svn ++
    leBytes 4 r.ver ++ leBytes 4 0 ++ r.meas.map byteOf

/-- The attestation report (R502); `rnd` is what the ML-DSA signature draws. -/
def report (d : Dev) (nonce : List Byte) (keys : Bool) (rnd : List Nat) : List Byte :=
  let es := d.reportEntries
  let sed := d.idSeed false
  let sml := d.idSeed true
  let body := leBytes 4 0x54415358 ++ leBytes 2 1 ++ leBytes 2 es.length ++ leBytes 8 d.serial ++ leBytes 1 d.lifecycle ++
    leBytes 3 0 ++ leBytes 4 (d.f mgBootStatus_BOOT_COUNT 0) ++ nonce ++ leBytes 8 d.ns ++ es.flatMap entryBytes
  let body := body ++ if keys then (edPublic sed ++ mlPublic sml).map byteOf else []
  body ++ (edSign sed (nats body) ++ mlSign sml (nats body) rnd).map byteOf

/-- ATTEST; `err` says that the host write failed. -/
def mbAttest (d : Dev) (n : Nat) (err : Bool) : Dev :=
  d.mbDma n 2 fun d =>
    if d.lifecycleByte.isNone then d.mbEnd n mbBadState
    else
      let nonce := (List.range 8).flatMap fun w => leBytes 4 (d.mbData n w)
      let (rnd, e) := d.drbgBytes 32
      let r := d.report nonce (bitAt 0 (d.mbArg n)) rnd
      if d.mbLen n < r.length then d.mbEnd n mbTooSmall
      else if err then d.mbEnd n mbDmaError
      else (e.emit (.hostWrite n (d.mbAddr n) r)).mbEnd n mbOk

/-- The place of record SEQ in the flash log area. -/
def logAt (d : Dev) (seq : Nat) : Nat := d.mg.part.log.toNat + 32 * seq

/-- A record by its SEQ: from the ring while it has not been flushed, else from flash. -/
def logGet (d : Dev) (seq : Nat) : List Byte :=
  if d.f mgLogSeq_NEXT 0 ≤ seq + d.f mgLogStatus_UNFLUSHED 0 then memGet d.eng.logSram (32 * (seq % 8192)) 32
  else d.flashGet (d.logAt seq) 32

/-- LOG_READ (R500). -/
def mbLogRead (d : Dev) (n : Nat) (err : Bool) : Dev :=
  d.mbDma n 3 fun d =>
    let first := d.mbArg n
    let k := min (d.f mgLogSeq_NEXT 0 - first) (d.mbLen n / 32)
    if err then d.mbEnd n mbDmaError
    else
      let bs := (List.range k).flatMap fun i => d.logGet (first + i)
      ((d.emit (.hostWrite n (d.mbAddr n) bs)).setMbData n 0 k).mbEnd n mbOk

/-- Flushing the log (R499): every record of the ring that is not in flash goes there, EV157. -/
def logFlushNow (d : Dev) : Dev :=
  let n := d.f mgLogStatus_UNFLUSHED 0
  let next := d.f mgLogSeq_NEXT 0
  let d := (List.range n).foldl (fun d i =>
    let s := next - n + i
    d.flashPut (d.logAt s) (memGet d.eng.logSram (32 * (s % 8192)) 32)) d
  let d := { d with mg := { d.mg with flushed := d.mg.chain } }
  (d.sf mgLogStatus_UNFLUSHED 0 0).raise 157 0 1

/-! ### Programming under leave -/

/-- An antifuse programming does not start for want of leave (R68). What a first start wanted is asked again at the next one.
(DESIGN CHOICE: assumption 47) -/
def fuseNo (d : Dev) : FuseOp → Dev
  | .root _ _ | .lifecycle 1 => d
  | _ => d.mbEnd 0 mbNoPower

/-- Asking for leave to program antifuses (R67, R369, R484, R503): denied at once, or waiting with the operation. -/
def fuseAsk (d : Dev) (op : FuseOp) : Dev :=
  match d.paRequest 0 .antifuse 350 with
  | (none, d) => d.fuseNo op
  | (some _, d) => { d with mg := { d.mg with fuse := some op } }

/-- The wait for an antifuse leave is denied (R68). -/
def fuseDenied (d : Dev) : Dev :=
  match d.mg.fuse with
  | none => d
  | some op => { d with mg := { d.mg with fuse := none } }.fuseNo op

/-- The root secret is created once the entropy source has passed its start-up tests (R369 steps 1 to 3). A device that has one, or
none to expect, goes on to DEVELOP (R503). -/
def rootResume (d : Dev) : Dev :=
  match d.mg.rootWait with
  | none => d
  | some (a, b) =>
    if d.cx.drbg then
      { d with mg := { d.mg with rootWait := none } }.fuseAsk (if d.f ksRoot_STATE 0 = 0 then .root a b else .lifecycle 1)
    else d

/-- The first start in BLANK begins (R369 step 1). -/
def rootBegin (d : Dev) (entropy a b : Bool) : Dev :=
  let d := if entropy then d else d.entropyFail
  { d with mg := { d.mg with rootWait := some (a, b) } }.rootResume

/-- Entry to RETIRED destroys the root secret, every slot and every context (R372). -/
def retire (d : Dev) : Dev :=
  let ones : FuseBank := { bits := some (2 ^ 256 - 1), check := some (2 ^ 32 - 1) }
  let d := (List.range 4096).foldl (fun d s => d.wr .ksSlotAttr s 0) d
  let users := d.cx.users.foldl (fun m e => Sparse.set userDefault m e.1 { e.2 with ctxs := [] }) d.cx.users
  ({ d with cx := { d.cx with bankA := ones, bankB := ones, keys := [], users := users } }.sf ksRoot_STATE 0 2).wr .ksKcv 0 0

/-- A flash erasure or programming does not start for want of leave (R68). A flush and a record are made at their next occasion,
and a recovery waits for another container. (DESIGN CHOICE: assumption 47) -/
def flashNo (d : Dev) : FlashOp → Dev
  | .erase _ _ _ | .chunk _ _ _ _ | .commit _ | .confirm _ => d.mbEnd 0 mbNoPower
  | .lifecycle s => (d.paRelease 0 .antifuse).fuseNo (.lifecycle s)
  | .installErase _ | .install _ | .installed => d.sf mgRecovStatus_BUSY 0 0
  | .log | .record _ | .retired => d

/-- Asking for leave to erase or program flash (R67, R478). -/
def flashAsk (d : Dev) (op : FlashOp) : Dev :=
  match d.flashQueue op with
  | (true, d) => d
  | (false, d) => d.flashNo op

/-- The antifuse leave is granted: the operation is done, and its leave released. The thermometer code of an SVN has 64 steps
(R484), so that a higher one ends at 64. A lifecycle transition first has the log flushed (R499).
(DESIGN CHOICE: assumption 47) -/
def fuseGranted (d : Dev) : Dev :=
  match d.mg.fuse with
  | none => d.paRelease 0 .antifuse
  | some op =>
    let d := { d with mg := { d.mg with fuse := none } }
    match op with
    | .lifecycle s => d.flashAsk (.lifecycle s)
    | .root a b =>
      let d := (d.paRelease 0 .antifuse).rootBank a b
      d.fuseAsk (if d.f ksRoot_STATE 0 = 0 then .root a b else .lifecycle 1)
    | .svn k v =>
      let v := min 64 (max v (d.f mgSlotSvn_SVN_MIN k))
      (((d.paRelease 0 .antifuse).sf mgSlotSvn_SVN_MIN k v).logPut logSvn 0 (v % 65536 + 65536 * k)).mbEnd 0 mbOk
    | .keyset s revoke digest =>
      let d := d.paRelease 0 .antifuse
      (if revoke then d.sf mgKeySet_REVOKED s 1
       else
        { d with mg := { d.mg with digest := Sparse.set (fun _ => 0) d.mg.digest s (ofLeOctets digest) } }.sf
          mgKeySet_PROGRAMMED s 1).mbEnd 0 mbOk

/-- The lifecycle state moves to `s` with its record (R503). -/
def lifecycleMove (d : Dev) (s : Nat) : Dev :=
  let d := (d.logPut logLifecycle 0 (s + 256 * d.lifecycle)).logFlushNow
  let d := if s = 3 then d.retire else d
  ((d.sf mgLifecycle_STATE 0 s).sf dbgLink_LIFECYCLE 0 s).paRelease 0 .antifuse

/-- The half that an accepted container of a recovery is written to: the one that failed its check, or the inactive one (R493).
(DEDUCED: assumption 46) -/
def recovHalf (d : Dev) : Nat := d.mg.failedHalf.getD (1 - d.activeHalf 0)

/-- That half becomes ACTIVE once it is written (R493). (DEDUCED: assumption 46) -/
def recovWrite (d : Dev) (c : List Byte) : Dev :=
  let h := d.recovHalf
  let d := (d.flashPut (d.halfAt 0 h) c).emit (.flash h 0 c)
  ({ d with mg := { d.mg with failedHalf := some (1 - h) } }.setSlotBits 0 (h + 8 * d.f mgSlotState_BOOTED_B 0))

/-- An erasure or a programming of flash, of which a further one may follow under a leave of its own (R478, R490, R493). Answers
whether the device resets after it. -/
def flashDo (d : Dev) : FlashOp → Bool × Dev
  | .erase k h data => (false, ((d.halfErase k h).halfShow k).flashAsk (.chunk k h 0 data))
  | .chunk k h off data =>
    (false, (((d.flashPut (d.halfAt k h + off) data).emit (.flash (2 * k + h) off data)).halfShow k).mbEnd 0 mbOk)
  | .commit k => (false, ((d.sf mgSlotState_PENDING k 1).recordPut k).mbEnd 0 mbOk)
  | .confirm k =>
    let d := (d.sf mgSlotState_ACTIVE_B k (d.f mgSlotState_BOOTED_B k)).sf mgSlotState_TRIAL k 0
    (false, ((if k = 0 then d.sf mgBootStatus_TRIAL 0 0 else d).recordPut k).mbEnd 0 mbOk)
  | .record k => (false, d.recordPut k)
  | .retired => (false, d.retiredPut)
  | .log => (false, d.logFlushNow)
  | .lifecycle s =>
    let d := d.lifecycleMove s
    (true, if s = 1 then d else d.mbEnd 0 mbOk)
  | .installErase c => (false, ((d.halfErase 0 d.recovHalf).halfShow 0).flashAsk (.install c))
  | .install c => (false, (d.recovWrite c).flashAsk .installed)
  | .installed => (true, d.recordPut 0)

/-- The flash leave is granted to the oldest programming that waits. Answers whether the device resets after it. -/
def flashGranted (d : Dev) : Bool × Dev :=
  let d := d.paRelease 0 .flash
  match d.mg.flashOps with
  | [] => (false, d)
  | op :: ops => { d with mg := { d.mg with flashOps := ops } }.flashDo op

/-- The oldest programming that waits is denied. -/
def flashDenied (d : Dev) : Dev :=
  match d.mg.flashOps with
  | [] => d
  | op :: ops => { d with mg := { d.mg with flashOps := ops } }.flashNo op

/-- The 10 s or the 4,096 unflushed records of R499. -/
def logFlushTimer (d : Dev) : Dev := if d.mg.booted then d.flashAsk .log else d

/-! ### Commands of page 0 -/

/-- FLASH_WRITE with the bytes read from the host, `none` when that read failed (R490): into the half that is inactive now. A
write at offset 0 erases it first. -/
def mbFlashWrite (d : Dev) (p : Nat) (data : Option (List Byte)) : Dev :=
  d.mbDma0 p 4 fun d =>
    let n := d.mbLen 0
    if 65536 < n then d.mbEnd 0 mbBadArg
    else match data with
      | none => d.mbEnd 0 mbDmaError
      | some bs =>
        let k := d.mbArg 0 % 16
        let h := 1 - d.activeHalf k
        let off := d.mbData 0 0
        d.flashAsk (if off = 0 then .erase k h (bs.take n) else .chunk k h off (bs.take n))

/-- A Function Level Reset ends a command of page `n` that reads or writes host memory (R446). (DEDUCED: assumption 41) -/
def mbCut (d : Dev) (n : Nat) : Dev :=
  let cmd := d.f mgMboxCmd_CMD n
  if d.b mgMboxStatus_BUSY n && (cmd == 2 || cmd == 3 || ((cmd == 4 || cmd == 8 || cmd == 9) && n == 0 && !d.mbWaits)) then
    d.mbEnd n mbDmaError
  else d

/-- COMMIT (R490): nothing is checked, and the record of the slot pair is written under leave (R478, R485). -/
def mbCommit (d : Dev) (p : Nat) : Dev := d.mbRun0 p 5 fun d => d.flashAsk (.commit (d.mbArg 0 % 16))

/-- CONFIRM (R491): the trial half becomes ACTIVE, with its record. (DEDUCED: assumption 47) -/
def mbConfirm (d : Dev) (p : Nat) : Dev :=
  d.mbRun0 p 6 fun d =>
    let k := d.mbArg 0 % 16
    if !d.b mgSlotState_TRIAL k then d.mbEnd 0 mbBadState else d.flashAsk (.confirm k)

/-- A container fails its check in a mailbox command. -/
def mbImageEnd (d : Dev) (res : Nat) : Dev := (d.setMbData 0 0 res).mbEnd 0 mbImage

/-- SVN_RAISE (R484): the result of the check shows in LAST_RESULT too (R483). -/
def mbSvnRaise (d : Dev) (p : Nat) (bad : Bool) : Dev :=
  d.mbRun0 p 7 fun d =>
    let k := d.mbArg 0 % 16
    let h := d.activeHalf k
    let res := d.halfCheck k h bad
    let d := d.sf mgSlotState_LAST_RESULT k res
    if res ≠ jrOk then d.mbImageEnd res else d.fuseAsk (.svn k (jrSvn (d.halfBytes k h)))

/-- LIFECYCLE with the container read from the host (R503). (DEDUCED: assumption 47) -/
def mbLifecycle (d : Dev) (p : Nat) (data : Option (List Byte)) : Dev :=
  d.mbDma0 p 8 fun d =>
    match data with
    | none => d.mbEnd 0 mbDmaError
    | some bs =>
      let c := bs.take (d.mbLen 0)
      let res := d.jrCheck none c
      let t := jrTarget c
      if res ≠ jrOk then d.mbImageEnd res
      else if jrKind c ≠ 6 then d.mbImageEnd jrFormat
      else if t = 3 ∧ jrSerial c = 0 then d.mbImageEnd jrBinding
      else if (t = 2 ∧ d.lifecycle ≤ 1) ∨ (t = 3 ∧ d.lifecycle ≤ 2) then d.fuseAsk (.lifecycle t)
      else d.mbEnd 0 mbBadState

/-- KEYSET with a container read from the host, or in DEVELOP with a digest in MgMboxData 0 to 7 when LEN is 0 (R503). ARG[2:0]
then names the set, as a container's TARGET does. The spec does not say where a container holds the digest it programs: any
value. (DEDUCED: assumption 47) -/
def mbKeyset (d : Dev) (p : Nat) (data : Option (List Byte)) : Dev :=
  d.mbRun0 p 9 fun d =>
    let change (s : Nat) (revoke : Bool) (digest : List Nat) (d : Dev) : Dev :=
      if s < 2 ∨ 5 < s then d.mbEnd 0 mbBadArg
      else if d.b mgKeySet_REVOKED (s - 2) || (!revoke && d.b mgKeySet_PROGRAMMED (s - 2)) then d.mbEnd 0 mbBadState
      else d.fuseAsk (.keyset (s - 2) revoke digest)
    if d.mbLen 0 = 0 then
      if 1 < d.lifecycle then d.mbEnd 0 mbBadState
      else change (d.mbArg 0 % 8) false ((List.range 8).flatMap fun w => nats (leBytes 4 (d.mbData 0 w))) d
    else if !d.dmaGo 0 then d
    else match data with
      | none => d.mbEnd 0 mbDmaError
      | some bs =>
        let c := bs.take (d.mbLen 0)
        let res := d.jrCheck none c
        if res ≠ jrOk then d.mbImageEnd res
        else if jrKind c ≠ 7 then d.mbImageEnd jrFormat
        else
          let (v, d) := d.fresh 256
          change (jrTarget c % 8) (bitAt 31 (jrTarget c)) (leOctets 32 v) d

/-! ### Hash engine (R479) -/

/-- A byte of the management cores' space that the hash engine reads: SRAM or the flash read view; the spec gives no data
elsewhere. (DEDUCED: assumption 47) -/
def hashByte (d : Dev) (a : Nat) : Nat :=
  (if 0x40000000 ≤ a ∧ a < 0x50000000 then Sparse.get (fun _ => 0xFF) d.eng.flash (a - 0x40000000)
    else if a < 2 ^ 22 then Sparse.get (fun _ => 0) d.eng.sram a
    else Config.freeValue 8 a).toNat

/-- A write of MgHashCtl by a management core: GO starts a hash of MgHashLen bytes at MgHashSrc and
reads 1 until it is done (R25). (DESIGN CHOICE: assumption 47) -/
def hashWrite (d : Dev) (init v : Nat) : Dev :=
  if init ≠ 16 then d.rejWr uMg
  else
    let busy := d.b mgHashCtl_BUSY 0
    let d := d.sf mgHashCtl_ALG 0 (v % 8)
    if !bitAt 3 v || busy then d
    else
      let job := (v % 8, d.f mgHashSrc_ADDR 0, d.f mgHashLen_LEN 0)
      ({ d with mg := { d.mg with hash := some job } }.sf mgHashCtl_BUSY 0 1).sf mgHashCtl_GO 0 1

/-- The hash completes: MgHashOut holds the digest. Words past a shorter digest are left as they were. (DEDUCED: assumption 47) -/
def hashDone (d : Dev) : Dev :=
  match d.mg.hash with
  | none => d
  | some (alg, src, len) =>
    let out := hashAlg alg ((List.range len).map fun i => d.hashByte (src + i))
    let d := { d with mg := { d.mg with hash := none } }
    let d := (List.range (out.length / 4)).foldl (fun d w =>
      d.sf mgHashOut_DIGEST w (ofLeOctets ((out.drop (4 * w)).take 4))) d
    (d.sf mgHashCtl_BUSY 0 0).sf mgHashCtl_GO 0 0

/-! ### Sensors -/

/-- The EV152 limit of a temperature point in °C (R535). -/
def tempLimit (p : Nat) : Nat := if p < 16 then 125 else if p < 20 then 150 else if p < 23 then 115 else 105

/-- VCORE's bands in mV with their margin: of the mode in force, and while a mode change runs also of the mode being entered
and of the one whose band holds the commanded voltage (R513). -/
def vcoreBands (d : Dev) : List (Nat × Nat) :=
  let lo (m : Nat) : Nat := d.f mdVcoreBand_LOW_MV m
  let hi (m : Nat) : Nat := d.f mdVcoreBand_HIGH_MV m
  let m := d.mode
  let t := if d.b mdModeStatus_CHANGING 0 then d.f mdModeStatus_TARGET 0 else m
  let cmd := d.f mdVcoreNow_CMD_MV 0
  let old := if d.b mdModeStatus_CHANGING 0 then
      ([0, 1, 2].find? fun x => decide (lo x ≤ cmd ∧ cmd ≤ hi x)).getD m else m
  [m, t, old].map fun x => (lo x - 25, hi x + 25)

/-- The ranges in mV that supply `i` may be in (R513): for VCORE the union of its bands. (DEDUCED: assumption 47) -/
def supplyRanges (d : Dev) (i : Nat) : List (Nat × Nat) :=
  match i with
  | 0 => d.vcoreBands
  | 1 => [(873, 927)]
  | 2 => [(1710, 1890)]
  | 3 | 4 | 5 | 6 => [(6000, 58000)]
  | _ => if bitAt (i - 7) d.mg.vio33 then [(3135, 3465)] else [(1710, 1890)]

/-- Temperature point `p` reads `t`, signed, in 0.25 °C (R480): EV152 above its limit, and class THERMAL for points 0 to 15
above LsThermCfg.LIMIT. (DEDUCED: assumption 47) -/
def tempSample (d : Dev) (p : Nat) (t : BitVec 16) : Dev :=
  let d := d.sf mgTemp_TEMP p t.toNat
  let d := if 4 * (tempLimit p : Int) < t.toInt then d.raise 152 p 0 else d
  if 16 ≤ p then d
  else if 4 * (d.f lsThermCfg_LIMIT 0 : Int) < t.toInt then d.levelOn fcThermal p else d.levelOff fcThermal p

/-- Supply `i` reads `mv` (R480): outside its limits EV151 and class SUPPLY. (DEDUCED: assumption 47) -/
def supplySample (d : Dev) (i mv : Nat) : Dev :=
  let d := d.sf mgSupply_MV i mv
  if (d.supplyRanges i).any fun r => decide (r.1 ≤ mv ∧ mv ≤ r.2) then d.levelOff fcSupply i
  else (d.raise 151 i 0).levelOn fcSupply i

/-- The 100 µs reading of all points and supplies (R480). -/
def sensorSample (d : Dev) (ts : List (BitVec 16)) (mvs : List Nat) : Dev :=
  let d := (List.range 24).foldl (fun d p => d.tempSample p (ts.getD p 0)) d
  (List.range 16).foldl (fun d i => d.supplySample i (mvs.getD i 0)) d

end Dev

end Sys2Proof.Machine
end

