-- ==== Sys2Proof/Machine/RegRead.lean ====
section
/-! DEFINITION. What a register reads as (R20 to R25, R27, R49): the stored word, or for a register that shows something held
elsewhere the view of it. A read changes nothing (R24). -/
namespace Sys2Proof.Machine

/-- INSTANCE of a unit: its number within its class (R31). Service blocks count in the order of the class table (R33).
(DEDUCED: assumption 15) -/
def instanceNo (u : Nat) : Nat :=
  match unitKind u with
  | .ep => 0 | .md => 1 | .ev => 2 | .tm => 3 | .mon => 4 | .ls => 5 | .mg => 6 | .hb => 7 | .mo => 8 | .tun => 9
  | .cls => 10 | .tb => 11 | .ks => 12 | .dbg => 13
  | _ => unitInst u

/-- A set of physical sets as 16 bits. -/
def setMask (p : Nat → Bool) : Nat := ((List.range 16).map fun s => if p s then 2 ^ s else 0).sum

namespace Dev

/-- CHILD_COUNT of a unit: load group windows show none (R34). -/
def childCount (d : Dev) (u : Nat) : Nat := if unitKind u = .ldg then 0 else (d.children u).length

/-- The object a window shows (R316). -/
def winObj (d : Dev) (w : Nat) : MsgObj := d.obj (d.f moWinSel_OBJ w)

/-- The context a page shows (R359). -/
def shownCtx (d : Dev) (u : Nat) : CxCtx := d.cxCtx u (d.f cxCtxSel_CTX u)

/-- How many entries a table's current version has (TbCount). -/
def entryCount (d : Dev) (t : Nat) : Nat :=
  match t with
  | 2 | 3 => (d.tbCur t).length
  | 0 | 4 | 9 => ((d.tbCur t).filter fun x => bitAt (tbValidBit t) x.2).length
  | _ => ((d.direct t).filter fun x => bitAt (tbValidBit t) x.2).length

/-- What a register holds, for reads and for writes of single bits. KsIdSeed opens to one reader only (R380).
(DEDUCED: assumption 13) -/
def regView (d : Dev) (r : Reg) (i : Nat) : Nat :=
  let w := (d.rd r i).toNat
  if regRsv r i then 0
  else match r with
  | .unitId => unitClass i * 2 ^ 24 + 0x10000 + instanceNo i
  | .unitState =>
    let s := d.ustate i
    let g := unitIsGroup i
    setBits 2 0 s.1 (setBits 8 8 (if g then 1 else 0) (setBits 10 10 (if g && s.2 then 1 else 0) w))
  | .unitTree => d.childCount i * 2 ^ 16 + d.dirIndex (d.parent i)
  | .unitChild => if d.childCount i = 0 then 0 else d.dirIndex i + 1
  | .idDirA => match d.dirUnit i with
    | some u => unitClass u * 2 ^ 24 + unitBase u % 2 ^ 24
    | none => 0
  | .idDirB => match d.dirUnit i with
    | some u => (if unitIsGroup u then 0x2000 else 0) + (d.ustate u).1 * 2 ^ 10 + d.dirIndex (d.parent u)
    | none => 0
  | .mdUmberRate => d.umberSum
  | .ethLinkStatus => if 12 ≤ i ∧ d.plcaFollower i = false then setBits 4 4 1 w else w
  | .feThrState => d.thrStates i
  | .feSlowQDepth => d.slowDepth i
  | .clsSetUse => setMask d.setDraining * 2 ^ 16 + setMask d.setLive
  | .clsRuleWin => ruleWord (d.rule (d.f clsRuleSel_INDEX 0)) i
  | .tbV6Lens => ((List.zip (List.range 4) (hostLens (d.tbCur 9))).map fun x => x.2 * 2 ^ (8 * x.1)).sum
  | .tbL2PortDyn => d.l2Dyn i
  | .tbCount => d.entryCount i
  | .tbLpmBlocks =>
    let t := if i < 2 then 2 else 3
    let n := (lpmStages t).getD (if i < 2 then i else i - 2) 0
    lpmPool t * 2 ^ 16 + lpmBlocks t (d.tbCur t) n
  | .moWinKey => let o := d.winObj i
    (if o.valid then 2 ^ 31 else 0) + o.fmt % 4 * 2 ^ 29 + o.ident % 2 ^ 29
  | .moWinCfg => (d.winObj i).cfg
  | .moWinHdr => objHeader (d.winObj i) % 65536
  | .moWinSeq => (d.winObj i).seq % 2 ^ 32
  | .moWinForeign => (d.winObj i).foreign
  | .moWinTime => (d.winObj (i / 2)).time / 2 ^ (32 * (i % 2)) % 2 ^ 32
  | .moWinData => leAt (d.winObj (i / 16)).data (4 * (i % 16)) 4
  | .linSchedEntry => d.linEntry i (d.f linSchedSel_TABLE i) (d.f linSchedSel_ENTRY i)
  | .tmCapHead => d.capHead (i / 4) (i % 4)
  | .cxCtxMode => let c := d.shownCtx i
    (if d.ctxBusy i (d.f cxCtxSel_CTX i) then 2 ^ 31 else 0) + c.mode % 32 * 2 ^ 24 + c.keyref % 2 ^ 20
  | .cxCtxState => (d.shownCtx (i / 32)).state / 2 ^ (32 * (i % 32)) % 2 ^ 32
  | .cxDone => d.cxDoneWord (i / 4) (i % 4)
  | .ksIdSeed => 0
  | .dbgLink => if d.lifecycle ≤ 1 then setBits 7 0 0xFF w else w
  | .bwSleepCur => d.sleepCurrent
  | .hbDomBind => setBits 31 31 (if d.domEnabled i then 1 else 0) w
  | _ => w

/-- What a read of a register answers: a WO field reads 0 (R25). (DEDUCED: assumption 13) -/
def regRead (d : Dev) (r : Reg) (i : Nat) : Nat :=
  let v := d.regView r i
  v - (v &&& fieldMask r [.wo])

/-- What a read of a counter slot half answers (R22, R23, R32). (DEDUCED: assumption 13) -/
def ctrRead (d : Dev) (c : CtrRef) : Nat :=
  let v := (if c.snap then d.snap c.ctr c.inst else d.ctr c.ctr c.inst).toNat
  if c.high then v / 2 ^ 32 else v % 2 ^ 32

/-- Whether an offset lies in a load window at 0x60 or above (R404). -/
def inWindow (off : Nat) : Bool :=
  match unitAt off with
  | some u => (unitKind u == .ldg || unitKind u == .ldb) && decide (0x60 ≤ off - unitBase u)
  | none => false

/-- A 4-byte read (R20, R23): windows and offsets that hold nothing read 0 (R49, R404). (DEDUCED: assumption 13) -/
def read4 (d : Dev) (off : Nat) : Nat :=
  if inWindow off then 0
  else match regAt off with
    | some (r, i) => d.regRead r i
    | none => match ctrAt off with
      | some c => d.ctrRead c
      | none => 0

/-- An 8-byte read (R22, R432): a counter as one value, else two registers. (DEDUCED: assumption 13) -/
def read8 (d : Dev) (off : Nat) : Nat := d.read4 off + d.read4 (off + 4) * 2 ^ 32

end Dev

end Sys2Proof.Machine
end

