-- ==== Sys2Proof/Machine/RegWrite.lean ====
section
/-! DEFINITION. What a write to a register does, wherever it comes from (R15, R25 to R27, R49, R56): fields are stored by their
access codes; a register whose write has an effect has that effect. Bits outside the mask `m` keep their value (R53). -/
namespace Sys2Proof.Machine

namespace Dev

/-- The word a masked write asks for: written bits of `v`, elsewhere what the register reads as; a bit that acts when
written 1 is not written. -/
def regAskedView (d : Dev) (r : Reg) (i v m : Nat) : Nat :=
  let act := fieldMask r [.w1c, .w1s, .wo]
  let old := d.regView r i
  mergeBits (old - (old &&& act)) v m

/-- A write to HbDomBind (R428). (DEDUCED: assumption 39) -/
def bindWrite (d : Dev) (staged : Bool) (init n v : Nat) : Dev :=
  if n = 0 then d
  else if staged = false ∧ (d.regCheck .hbDomBind n v && writerOk .hbDomBind init) = false then d.rejWr uHb
  else d.sf hbDomBind_BIND n v

/-- A write of a ring's HrRxCfg; an Ethernet-bound domain has no 16 KiB buffers (R452). (DESIGN CHOICE: assumption 30) -/
def ringRxCfg (d : Dev) (staged : Bool) (i v : Nat) : Dev :=
  if staged = false ∧ i < 256 ∧ d.ethBound (i / 16) = true ∧ bits 25 24 v = 3 then d else (d.rxCfgWrite staged i v).cxSettle

/-- A write of the command register of the shown context (R359, R367). RESTORE waits for its image, which a row of its own
brings. -/
def ctxCmdWrite (d : Dev) (u v : Nat) : Dev :=
  match v % 4 with
  | 1 => d.ctxSave u
  | 2 => if d.ctxBusy u (d.f cxCtxSel_CTX u) then d.rejWr (uPage u) else d
  | 3 => d.ctxClear u
  | _ => if d.ctxBusy u (d.f cxCtxSel_CTX u) then d.rejWr (uPage u) else d

/-- A write into the shown context (R359). -/
def ctxFieldWrite (d : Dev) (u : Nat) (g : CxCtx → CxCtx) : Dev :=
  let c := d.f cxCtxSel_CTX u
  if d.ctxBusy u c then d.rejWr (uPage u) else d.setCtx u c (g (d.cxCtx u c))

/-- A write of EthIntf: an automotive step interface begins to train (R282), a port switched Off loses its link (R257), and LPI ends
where the interface has none (R289). -/
def intfWrite (d : Dev) (staged : Bool) (p v m : Nat) : Dev :=
  let was := d.f ethIntf_INTF p
  d.storeThen staged .ethIntf p v m fun d =>
  let d := d.lpiSettle p
  let d := if d.f ethIntf_INTF p = 0 ∧ d.b ethLinkStatus_LINK p then d.ethLost p else d
  if was ≠ 7 ∧ d.f ethIntf_INTF p = 7 ∧ d.actsAs (uEth p) = stRun then d.stepEstablish p else d

/-- A write of EthStepCfg: a CEIL below the current rate steps down at once. -/
def stepCfgWrite (d : Dev) (staged : Bool) (p v m : Nat) : Dev :=
  d.storeThen staged .ethStepCfg p v m fun d =>
  if d.f ethStepCfg_CEIL p < d.f ethStepStatus_RATE p then d.stepEvaluate p else d

/-- A write of EthGateCfg (R272, R273, R275): the fields, the gate states they leave, then CANCEL, then CONFIG_CHANGE. -/
def gateCfgWrite (d : Dev) (staged : Bool) (p v m : Nat) : Dev :=
  let was := d.b ethGateCfg_GATE_EN p
  d.storeThen staged .ethGateCfg p v m fun d =>
    let on := d.b ethGateCfg_GATE_EN p
    let d := if !on then (if was then d.gatesOff p else d) else if was then d.gateShow p else d.gatesRestart p
    let d := if bitAt 29 (v &&& m) then d.gateCancel p else d
    if bitAt 30 (v &&& m) then d.configChange p else d

/-- A write of HbEthHost word 0: setting ENABLE starts the request numbers of the host's domains anew (R451). -/
def ethHostWrite (d : Dev) (staged : Bool) (h v m : Nat) : Dev :=
  let was := d.b hbEthHostCfg_ENABLE h
  d.storeThen staged .hbEthHostCfg h v m fun d =>
  if was = false ∧ d.b hbEthHostCfg_ENABLE h = true then
    ((List.range 16).filter fun n => d.bind n == h + 1).foldl (fun d n =>
      d.setCoe n { d.coeDom n with next := none, replay := [] }) d
  else d

/-- A write of BwSegCmd (R418, R419). -/
def segCmdWrite (d : Dev) (s v : Nat) : Dev :=
  match v % 4 with
  | 1 => if d.segState s = 0 then d.segSleep s else d
  | 2 => d.segWakeCmd s
  | _ => d

/-- A write of EvSwRaise (R476). -/
def swRaise (d : Dev) (init v : Nat) : Dev := if writerOk .evSwRaise init = false then d.rejWr uEv else d.raise (v % 256) 0 0

/-- A write to MgLogGo: the record of MgLogAppend is appended (R499). (DEDUCED: assumption 47) -/
def logGo (d : Dev) : Dev :=
  d.logAppend ((List.range 4).flatMap fun w => leBytes 4 (d.rd .mgLogAppend w).toNat)

/-- A gang register takes its value, with the copies of LdStatus that show who leads and the sums of the samples (R382, R383,
R398). -/
def gangApply (d : Dev) (p v m : Nat) : Dev :=
  let d := d.wr .pdGang p (BitVec.ofNat 32 (d.regMerge .pdGang p v m true))
  ((List.range 32).map (32 * p + ·)).foldl gangSense ((d.dieLeaders p).foldl ldShow d)

/-- A write that reaches register `r`, instance `i`, of unit `u`; `staged` says that a commit makes it. The page of a load
channel accepts none before its die has reported: it is discarded and counted, as R384 has it for LdCtl.
(DEDUCED: assumption 36) -/
def regPut (d : Dev) (staged : Bool) (init u : Nat) (r : Reg) (i v m : Nat) : Dev :=
  let x := d.regAskedView r i v m
  let w := v &&& m
  match r with
  | .unitCmd => if m = 0 then d else d.unitCmdWrite init i w
  | .epStageEntryOff => d.stageEntryWrite init i 0 x
  | .epStageEntryData => d.stageEntryWrite init i 1 x
  | .epStageEntryMask => d.stageEntryWrite init i 2 x
  | .epStageEntryCtl => d.stageEntryWrite init i 3 x
  | .epCmd => d.epCmdWrite init w
  | .mdModeReq => d.modeRequest init (x % 4)
  | .feLoadCmd => d.feLoadCmd init w false
  | .clsRuleWin => d.ruleWrite i x
  | .feSetSel | .clsSetMap =>
    if staged then d.wr r i (BitVec.ofNat 32 (d.regMerge r i v m true)) else d.rejWr u
  | .pdGang => if staged then d.gangApply i v m else d.rejWr u
  | .tbCmd => if d.b tbCmd_BUSY i then d.rejWr uTb else d.tbCmdWrite i x
  | .tbCmdArg => if staged = false ∧ d.b tbCmd_BUSY i = true then d.rejWr uTb else d.storeThen staged r i v m id
  | .tbData => if staged = false ∧ d.b tbCmd_BUSY (i / 16) = true then d.rejWr uTb else d.storeThen staged r i v m id
  | .bqMirrorCfg => d.mirrorCfgWrite i x
  | .bqMirrorSample => d.mirrorSampleWrite i x
  | .hrRxCfg => d.ringRxCfg staged i x
  | .hrTxCfg => d.txCfgWrite staged i x
  | .hrRxTail => d.tailWrite staged false i x
  | .hrTxTail => d.tailWrite staged true i x
  | .ethIntf => d.intfWrite staged i v m
  | .ethStepCfg => d.stepCfgWrite staged i v m
  | .ethMacCfg => d.storeThen staged r i v m fun d => d.stepAdvance i
  | .ethLpiCfg => d.storeThen staged r i v m fun d => d.lpiSettle i
  | .ethCbs => let x := (d.creditUpdate (i / 8)).eth (i / 8); d.storeThen staged r i v m fun d => d.setEth (i / 8) x
  | .ethPreempt =>
    let due := d.b ethPreempt_EN i && !d.b ethPreempt_VERIFY_DIS i
    d.storeThen staged r i v m fun d => d.preemptSet i due
  | .ethGateCfg => d.gateCfgWrite staged i v m
  | .ethTxTsPop => if bitAt 0 w then d.tsPop i else d
  | .tbSgBase | .tbSgCfg => d.storeThen staged r i v m gateRestartAll
  | .canCtl => d.storeThen staged r i v m fun d => if bitAt 27 w then d.canRecover i else d
  | .canSched => d.canSchedWrite (i / 8) (i % 8) x
  | .moWinKey => d.objKeyWrite staged i x
  | .moWinCfg => if staged || d.regCheck r i x then d.objCfgWrite i x else d.rejWr uMo
  | .moWinForeign => if bitAt 31 w then d.objForeignClear i else d
  | .moWinPub => if m = 0 then d else d.objPublish i w
  | .moWinAck => if m = 0 then d else d.objAckWrite i w
  | .linSchedCtl =>
    let d := d.storeThen staged r i v m id
    let d := if bitAt 31 w then d.linReq i (bits 29 27 x) else d
    if bitAt 30 w then d.linStop i else d
  | .linSchedEntry => d.linEntryWrite staged i x
  | .tunTxStreamCtl => d.tunStreamWrite i 0 x
  | .tunTxStreamAgg => d.tunStreamWrite i 1 x
  | .tunTxStreamPtOff => d.tunStreamWrite i 2 x
  | .tunTxStreamDaLo => d.tunStreamWrite i 3 x
  | .tunTxStreamDaHi => d.tunStreamWrite i 4 x
  | .tunTxStreamId => d.tunStreamWrite (i / 2) (5 + i % 2) x
  | .tmLatchCmd => if bitAt 0 w then d.timeLatch else d
  | .tmConvCmd => d.convWrite (bits 3 2 x) (bitAt 0 w)
  | .tmDomCmd => d.domCmdWrite i (w % 16)
  | .tmTtStart => d.trigWordWrite r i (i / 2) x
  | .tmTtPeriod | .tmTtTarget => d.trigWordWrite r i i x
  | .tmTtCtl => d.trigCtlWrite staged i x
  | .tmCapCfg => d.storeThen staged r i v m fun d => if d.b tmCapCfg_EN i then d else d.setCapShort i false
  | .tmCapPop => if bitAt 0 w then d.capPop i else d
  | .cxCtxMode => d.ctxFieldWrite i fun c => { c with mode := bits 28 24 x, keyref := x % 2 ^ 20 }
  | .cxCtxState => d.ctxFieldWrite (i / 32) fun c =>
      { c with state := setBits (32 * (i % 32) + 31) (32 * (i % 32)) x c.state }
  | .cxCtxCmd => d.ctxCmdWrite i w
  | .cxJobCtl => if bitAt 31 w then d.cxSubmit i w else d
  | .cxDonePop => if bitAt 0 w then d.cxPop i else d
  | .cxKsCmd => if m = 0 then d else d.ksIssue i w
  | .cxKsAttr => if staged = false ∧ d.b cxKsStatus_BUSY i = true then d else d.storeThen staged r i v m id
  | .cxKsData => if staged = false ∧ d.b cxKsStatus_BUSY (i / 16) = true then d else d.storeThen staged r i v m id
  | .ksQuota => d.quotaWrite staged i x
  | .ksWrapGen => d.wrapGenWrite i x
  | .ldCtl => d.ldCtlWrite init i (bitAt 31 x) (bitAt 30 w)
  | .ldStatus => if d.ldReported (i / 32) then d.ldStatusClear i w else d.rejWr u
  | .ldCfg | .ldGroups | .ldWire => if staged || d.ldReported (i / 32) then d.storeThen staged r i v m id else d.rejWr u
  | .pdProfile => if i / 8 % 16 < 8 then d else d.storeThen staged r i v m id
  | .bwSleepCmd => if bitAt 0 w || !sleepWriter init then d.sleepCmd init else d
  | .bwSegPorts => d.segPortsWrite staged (i / 3) (i % 3) x
  | .bwSegCmd => d.segCmdWrite i w
  | .bwWinCfg | .bwWinSeg | .bwWinStatus => d.storeThen staged r i v m fun d => d.winLevel i
  | .hbDomBind => d.bindWrite staged init i x
  | .hbEthHostCfg => d.ethHostWrite staged i v m
  | .hbFarErrLatch =>
    if bitAt 31 w then d.farErrClear i else d
  | .hbPerm => if i < 256 then d else d.storeThen staged r i v m id
  | .hbPermFine => if i < 80 then d else d.storeThen staged r i v m id
  | .lsPair => d.pairWrite init i w
  | .lsFaultStatus => if bitAt 31 w then d.faultClear i else d
  | .lsSepiaCtl => d.sepiaCtlWrite init w
  | .lsWdogCfg => d.wdogCfgWrite staged v m
  | .lsWdogKick => d.wdogKick init w
  | .monCtl => if bitAt 0 w then d.monClear i else d
  | .evSwRaise => d.swRaise init w
  | .evMcStatus => if staged = false ∧ writerOk r init = false then d.rejWr uEv else d.coresWake.storeThen staged r i v m id
  | .evPinStatus => if staged = false ∧ writerOk r init = false then d.rejWr uEv else d.storeThen staged r i v m id
  | .evMcRoute => d.coresWake.storeThen staged r i v m id
  | .mgHashCtl => if bitAt 3 w then d.hashWrite init (x ||| 8) else d.hashWrite init x
  | .mgLogGo => if bitAt 0 w then d.logGo else d
  | .mgMboxCmd => d.mbCmdWrite i x
  | _ => d.storeThen staged r i v m id

/-- A write that reaches an aligned offset, after the checks of permission (R436). Offsets that the map does not name count in the
header of the root (R49); reserved pages of the buffer and of the crypto pages count in theirs.
(DEDUCED: assumption 13; DESIGN CHOICE: assumption 14) -/
def regWriteM (d : Dev) (staged : Bool) (init off v m : Nat) : Dev :=
  match unitAt off with
  | none => d.rejWr uId
  | some u =>
    if inWindow off then d.windowWrite init u (off - unitBase u) v
    else if init ≠ 16 ∧ mgClosed off = true then d.rejWr uMg
    else match regAt off with
      | none => if unitKind u = .page ∧ 17 ≤ unitInst u ∧ 0x60 ≤ off - unitBase u then d.rejWr u else d
      | some (r, i) =>
        if regRsv r i then (if u = uBq ∨ unitKind u = .page then d.rejWr u else d)
        else if !writable r then d
        else d.regPut staged init u r i v m

/-- A 4-byte write of an initiator (R20, R25). -/
def regWrite (d : Dev) (init off v : Nat) : Dev := d.regWriteM false init off v (2 ^ 32 - 1)

/-- Whether the far side refuses a write now (R221, R375, R442 cause 1). -/
def farRefuses (d : Dev) (off : Nat) : Bool :=
  match regAt off with
  | some (.tbCmd, i) | some (.tbCmdArg, i) => d.b tbCmd_BUSY i
  | some (.tbData, i) => d.b tbCmd_BUSY (i / 16)
  | some (.cxKsCmd, i) | some (.cxKsAttr, i) => d.b cxKsStatus_BUSY i
  | some (.cxKsData, i) => d.b cxKsStatus_BUSY (i / 16)
  | _ => false

end Dev

end Sys2Proof.Machine
end

