-- ==== Sys2Proof/Machine/Commit.lean ====
section
/-! DEFINITION. The commit token at a unit (R51, R53 step 8, R54, R550): the staged values, the state, the new mode. -/
namespace Sys2Proof.Machine
namespace Dev

/-- The value a committed register of a per-epoch block had, kept for frames and jobs of older epochs (R51).
(DEDUCED: assumption 16) -/
def histKeep (d : Dev) (e off : Nat) : Dev :=
  match regAt off with
  | some (r, i) => d.setEp { d.ep with hist := (e, regKey r i, (d.rd r i).toNat) :: d.ep.hist }
  | none => d

/-- One staged entry takes effect at its unit. -/
def itemApply (d : Dev) (holder e : Nat) (it : StageItem) : Dev :=
  let d := if perEpochUnit it.unit then d.histKeep e it.off else d
  d.regWriteM true holder it.off it.data it.mask

/-- A STAGED unit goes back to the state it left, or from OFFLINE to RUN, where its BRING_ONLINE ends (R36). -/
def leafStageEnd (d : Dev) (u : Nat) : Dev :=
  if unitIsGroup u ∨ d.leafState u ≠ stStaged then d
  else
    let prev := d.f unitState_PREV_STATE u
    if prev = stOffline then
      ((((d.setState u stRun).sf unitState_FAULT_CAUSE u 0).lanePower u true).enterHook u stRun).partEnd u ucOk
    else d.setState u prev

/-- A unit leaves STAGED, and its gang or lockstep pair with it (R383, R454). -/
def stageEnd (d : Dev) (u : Nat) : Dev := (d.withPair u).foldl leafStageEnd d

/-- The mode unit takes the new mode: the account moves to its entry (R70), and frames of older epochs keep theirs (R64). -/
def modeTake (d : Dev) (m : Nat) : Dev :=
  let e := d.epoch
  let old := d.mode
  let keep (s : Sparse Nat) (x : Nat) : Sparse Nat :=
    if x = e ∨ Sparse.get (fun _ => 0) s x ≠ 0 then s else Sparse.set (fun _ => 0) s x (old + 1)
  let modes := Sparse.set (fun _ => 0) (d.ep.live.foldl keep d.ep.modeOf) e 0
  ((d.setEp { d.ep with modeOf := modes }).sf mdModeStatus_MODE 0 m).paShow 0

/-- What the token brings to unit `u` (R54). (DEDUCED: assumption 16) -/
def tokenApply (d : Dev) (t : Txn) (u : Nat) : Dev :=
  let e := d.epoch
  let d := (t.items.filter fun i => i.unit == u).foldl (fun d it => d.itemApply t.holder e it) d
  let d := match t.kind with
    | .mode m => (if u = uMd then d.modeTake m else d).sf unitState_MODE u m
    | _ => d
  (d.stageEnd u).sf unitEpoch_APPLIED_EPOCH u e

/-- The units that apply when the token reaches `u`: the load channels of one power die apply together, and so the members of every
group on it (R51). -/
def tokenWith (t : Txn) (u : Nat) : List Nat :=
  if unitKind u = .ld then t.token.filter fun x => unitKind x == .ld && unitInst x / 32 == unitInst u / 32 else [u]

/-- Unit `u` applies what the token has brought it; the last unit ends the transaction. (DEDUCED: assumption 16) -/
def tokenTake (d : Dev) (t : Txn) (u : Nat) : Dev :=
  let us := tokenWith t u
  let d := us.foldl (fun d x => d.tokenApply t x) d
  let left := t.token.filter fun x => !us.contains x
  let t' := { t with token := left, arrived := t.arrived.filter (· != u) }
  let d := d.setTxn (some t')
  if left.isEmpty then (t.along.foldl leafStageEnd d).txnFinish t' else d

/-- Whether unit `u` is a port or channel with a frame on its wire or bus. -/
def onWire (d : Dev) (u : Nat) : Bool :=
  match unitKind u with
  | .eth => (d.eth (unitInst u)).wire.isSome
  | .can => (d.can (unitInst u)).cur.isSome
  | .lin => (d.lin (unitInst u)).bus.isSome
  | _ => false

/-- The commit token reaches a unit. A port or channel with a frame on its wire keeps it until that frame ends (R51).
(DEDUCED: assumption 16) -/
def tokenArrival (d : Dev) (u : Nat) : Dev :=
  match d.ep.txn with
  | none => d
  | some t =>
    if t.issued = false ∨ t.token.contains u = false then d
    else if d.onWire u then d.setTxn (some { t with arrived := u :: t.arrived.filter (· != u) })
    else d.tokenTake t u

/-- The port of an Ethernet, CAN or LIN unit (R14). -/
def unitPort (u : Nat) : Nat :=
  match unitKind u with
  | .can => 32 + unitInst u
  | .lin => 80 + unitInst u
  | _ => unitInst u

/-- A frame boundary of port or channel `u`: the port of a resumed BW die goes on (R38), and a token that waited there applies
(R51). (DEDUCED: assumption 16) -/
def boundary (d : Dev) (u : Nat) : Dev :=
  let d := if d.onWire u then d else d.bwPassed (unitPort u)
  match d.ep.txn with
  | none => d
  | some t => if t.arrived.contains u ∧ t.token.contains u ∧ d.onWire u = false then d.tokenTake t u else d

end Dev

end Sys2Proof.Machine
end

