-- ==== Sys2Proof/Machine/Flags.lean ====
section
/-! DEFINITION. What Porros computes without reading memory: the conditions that write predicates (R127, R128; Porros has no
flags, R118), shifts and bit fields (R122 to R125), checksums, CRCs and carry-less products (R134 to R137). -/
namespace Sys2Proof.Machine

/-- Condition `cc` of `a` and `b` (R127); codes 0 to 6. -/
def ccHolds (cc : Nat) (a b : Word64) : Bool :=
  match cc with
  | 0 => a == b
  | 1 => a != b
  | 2 => a.slt b
  | 3 => !(a.slt b)
  | 4 => a.ult b
  | 5 => !(a.ult b)
  | _ => (a &&& b) != 0

/-! ### Bits -/

def rolBits (a : Word64) (s : Nat) : Word64 := if s = 0 then a else a <<< s ||| a >>> (64 - s)
def rorBits (a : Word64) (s : Nat) : Word64 := if s = 0 then a else a >>> s ||| a <<< (64 - s)

/-- The number of 1 bits. -/
def popBits (a : Word64) : Nat := ((List.range 64).filter a.getLsbD).length

/-- Leading and trailing zero bits, 64 for 0. -/
def clzBits (a : Word64) : Nat := if a = 0 then 64 else 63 - Nat.log2 a.toNat
def ctzBits (a : Word64) : Nat := ((List.range 64).find? a.getLsbD).getD 64

/-- The bytes of a register in the other order. -/
def swapBytes (a : Word64) : Word64 := BitVec.ofNat 64 (leNat (beBytes 8 a.toNat))

/-- A register of all ones in its `n` low bits, 1 ≤ n ≤ 64. -/
def lowMask (n : Nat) : Word64 := BitVec.ofNat 64 (2 ^ n - 1)

/-- The low `n` bits as a signed value. -/
def sextBits (n : Nat) (a : Word64) : Word64 := BitVec.ofInt 64 (sext n (a.toNat % 2 ^ n))

/-- The field of `len` bits at `pos`. -/
def fieldOf (a : Word64) (pos len : Nat) : Word64 := a >>> pos &&& lowMask len

/-- `old` with the low `len` bits of `a` as its field at `pos`. -/
def fieldPut (old a : Word64) (pos len : Nat) : Word64 :=
  let m := lowMask len <<< pos
  (old &&& ~~~m) ||| (a <<< pos &&& m)

/-- `v` with 16-bit lane `hw` replaced (R124). -/
def lanePut (v : Word64) (hw imm : Nat) : Word64 := fieldPut v (BitVec.ofNat 64 imm) (16 * hw) 16

/-- The carry-less product (R137). -/
def clMul (a b : Word64) : Nat :=
  (List.range 64).foldl (fun c i => if b.getLsbD i then c ^^^ a.toNat * 2 ^ i else c) 0

/-! ### Checksums -/

/-- oc of the reference: the 16-bit ones'-complement sum. -/
def ocSum (a b : Nat) : Nat :=
  let s := a + b
  (s % 65536 + s / 65536) % 65536

/-- The running sum over a byte range (R134). -/
def ocRange : Nat → List Byte → Nat
  | acc, [] => acc
  | acc, [b] => ocSum acc (b.toNat * 256)
  | acc, a :: b :: r => ocRange (ocSum acc (a.toNat * 256 + b.toNat)) r

/-- The complement of 16 bits. -/
def not16 (x : Nat) : Nat := 65535 - x % 65536

/-- The incremental update of a checksum for one changed word (R134). -/
def ocUpdate (sum old new : Nat) : Nat := not16 (ocSum (ocSum (not16 sum) (not16 old)) (new % 65536))

/-- Folding a running sum into the checksum field value (R134). -/
def ocFold (x : Nat) : Nat :=
  not16 (ocSum (ocSum (bits 15 0 x) (bits 31 16 x)) (ocSum (bits 47 32 x) (bits 63 48 x)))

end Sys2Proof.Machine
end

