-- ==== Sys2Proof/Machine/Operands.lean ====
section
/-! DEFINITION. Issuing a Porros instruction: guard, budget, pending registers and the order of exceptions (R75, R84, R97,
R117); taking an exception on a management core (R115); effective addresses and accesses to the memories a hart reaches
(R79 to R81, R102, R113, R114, R131). -/
namespace Sys2Proof.Machine

/-- PWR_GOOD is high: the logic side is not held in reset (R515, R516). (DEDUCED: assumption 10) -/
def Dev.powered (d : Dev) : Dev := { d with mg := { d.mg with held := false } }

/-- A command of the logic side: without effect while the logic side is held in reset (R516). PWR_GOOD is a pin, and no command
of the logic side moves it. (DEDUCED: assumption 10) -/
def State.logic (s : State) (f : Dev → Dev) : Host.Outcome State Fault Refusal :=
  .next (if s.dev.mg.held then s else { s with dev := (f s.dev).powered })

/-- A command of the HV side, which no logic-side reset reaches (R384, R516). (DEDUCED: assumption 10) -/
def State.always (s : State) (f : Dev → Dev) : Host.Outcome State Fault Refusal := .next { s with dev := f s.dev }

/-- Whether a guard lets its instruction execute (R84). -/
def guardTrue (r : RegFile) (g : Guard) : Bool := r.pget g.pg.val != g.pn

/-- The guard of an instruction that has none. -/
def noGuard : Guard := ⟨false, 0⟩

/-- What an instruction adds to PC: a word index on a frame engine, a byte address on a management core (R77, R110). -/
def pcStep : Hart → Nat
  | .fe _ _ => 1
  | .mc _ => 4

/-- CORECTL.LEVEL: whether a core runs in SUP (R111). -/
def McCore.sup (x : McCore) : Bool := bitAt 4 x.ctl

/-- The memories a hart reaches (R79, R113). -/
inductive Spc where
  | fw | ld | cs | ps | sram | rom | log | flash | reg
  deriving DecidableEq, Repr

namespace Dev

/-! ### Memories -/

/-- The program-store offset at which the set of a thread begins. -/
def setBase (d : Dev) (c s : Nat) : Nat := 1024 * d.f feSetSlotPlace_BASE_KIB (4 * c + s)

/-- The set a thread runs. -/
def thrSet (d : Dev) (n t : Nat) : SetImage := d.setImg (n / 8) (d.thr n t).slot

/-- The memory that holds address `ea`, with the offset there (R79, R113). -/
def place (d : Dev) (h : Hart) (ea : Nat) : Option (Spc × Nat) :=
  match h with
  | .fe n t =>
    if ea < 0x200 then (if (d.thr n.val t.val).kind = .frame then some (.fw, ea) else none)
    else if 0x10000 ≤ ea ∧ ea < 0x11000 then some (.ld, ea - 0x10000)
    else if 0x40000 ≤ ea ∧ ea < 0x80000 then some (.cs, ea - 0x40000)
    else if 0x80000 ≤ ea ∧ ea < 0xC0000 then some (.ps, ea - 0x80000)
    else none
  | .mc _ =>
    if ea < 0x400000 then some (.sram, ea)
    else if 0x10000000 ≤ ea ∧ ea < 0x10040000 then some (.rom, ea - 0x10000000)
    else if 0x20000000 ≤ ea ∧ ea < 0x20040000 then some (.log, ea - 0x20000000)
    else if 0x40000000 ≤ ea ∧ ea < 0x50000000 then some (.flash, ea - 0x40000000)
    else if 0xF0000000 ≤ ea ∧ ea < 0xF1000000 then some (.reg, ea - 0xF0000000)
    else none

/-- How many bytes a memory gives a hart: for PS the code and constants of the set (R81), and for the flash view the largest flash
of R478. (DESIGN CHOICE: assumption 53) -/
def spcLen (d : Dev) (h : Hart) (s : Spc) : Nat :=
  match s, h with
  | .fw, _ => 512
  | .ld, _ => 4096
  | .cs, _ => 2 ^ 18
  | .ps, .fe n t => 4 * (d.thrSet n.val t.val).codeWords + (d.thrSet n.val t.val).constBytes
  | .ps, .mc _ => 0
  | .sram, _ => 2 ^ 22
  | .rom, _ => 2 ^ 18
  | .log, _ => 2 ^ 18
  | .flash, _ => 2 ^ 28
  | .reg, _ => 2 ^ 24

/-- Whether the protection windows let a core access `n` bytes at `ea`: bit `p` of WINCFG is 0 read, 1 write, 2 execute (R114).
(DESIGN CHOICE: assumption 19) -/
def windowAllows (x : McCore) (ea n p : Nat) : Bool :=
  (List.range 8).any fun r =>
    let cfg := Sparse.get (fun _ => 0) x.winCfg r
    let base := Sparse.get (fun _ => 0) x.winBase r
    bitAt 3 cfg && bitAt p cfg && decide (base ≤ ea) && decide (ea + n ≤ (bits 31 12 cfg + 1) * 4096)

/-- The exception that an access of `n` bytes at `ea` raises before memory is read, 0 for none: ALIGN before BOUNDS (R117).
`range` says that it is a byte range, which needs no alignment (R133).
(DESIGN CHOICE: assumption 19; DESIGN CHOICE: assumption 53) -/
def accessExc (d : Dev) (h : Hart) (ea n : Nat) (store range : Bool) : Nat :=
  match d.place h ea with
  | none => excBounds
  | some (s, o) =>
    if s = .reg ∧ (range ∨ n < 4 ∨ o % n ≠ 0) then excAlign
    else if s ≠ .fw ∧ range = false ∧ o % n ≠ 0 then excAlign
    else if d.spcLen h s < o + n then excBounds
    else if store ∧ (s = .ps ∨ s = .rom ∨ s = .flash) then excBounds
    else
      match h with
      | .fe n' t =>
        let x := d.thr n'.val t.val
        if store ∧ s = .fw ∧ x.out.length < x.fwBase + o + n then excBounds else 0
      | .mc c =>
        let x := d.mcCore c.val
        if x.sup ∨ windowAllows x ea n (if store then 1 else 0) then 0 else excBounds

/-- What a hart reads of a register: KsIdSeed only in SUP from the ROM (R380). -/
def regLoad (d : Dev) (c o n : Nat) : Nat :=
  let seed (o : Nat) : Option Nat :=
    match regAt o with
    | some (.ksIdSeed, w) =>
      let x := d.mcCore c
      if x.sup ∧ 0x10000000 ≤ x.rf.pc.toNat ∧ x.rf.pc.toNat < 0x10040000 then
        some (ofLeOctets (((d.idSeed false ++ d.idSeed true).drop (4 * w)).take 4))
      else some 0
    | _ => none
  let one (o : Nat) : Nat := (seed o).getD (d.read4 o)
  if n = 8 then (if (seed o).isSome then one o + one (o + 4) * 2 ^ 32 else d.read8 o) else one o

/-- The `n` bytes at offset `o` of a memory. (DEDUCED: assumption 21) -/
def spcRead (d : Dev) (h : Hart) (s : Spc) (o n : Nat) : List Byte :=
  match h with
  | .fe e t =>
    let x := d.thr e.val t.val
    match s with
    | .fw => slice x.out (x.fwBase + o) n
    | .ld => memGet d.eng.ld (ldKey e.val t.val o) n
    | .cs => memGet d.eng.cs (csKey (e.val / 8) o) n
    | .ps => memGet d.eng.ps (psKey (e.val / 8) (d.setBase (e.val / 8) x.slot + o)) n
    | _ => []
  | .mc c =>
    match s with
    | .sram => memGet d.eng.sram o n
    | .rom => (List.range n).map fun i => Config.romByte (o + i)
    | .log => memGet d.eng.logSram o n
    | .flash => d.flashGet o n
    | .reg => leBytes n (d.regLoad c.val o n)
    | _ => []

/-- The index in `Engines.bad` of the 32-bit word that holds offset `o` of a memory with error records. -/
def badWord (d : Dev) (h : Hart) (s : Spc) (o : Nat) : Option Nat :=
  match h, s with
  | .fe n t, .ld => some (ldBad n.val t.val (o / 4 * 4))
  | .fe n _, .cs => some (csBad (n.val / 8) (o / 4 * 4))
  | .fe n t, .ps => some (psBad (n.val / 8) ((d.setBase (n.val / 8) (d.thr n.val t.val).slot + o) / 4 * 4))
  | .mc _, .sram => some (2 ^ 24 + o / 4 * 4)
  | _, _ => none

/-- (DEDUCED: assumption 21) -/
def setBad (d : Dev) (k : Nat) (b : Bool) : Dev :=
  { d with eng := { d.eng with bad := Sparse.set (fun _ => false) d.eng.bad k b } }

/-- The offsets of the 32-bit words that an access touches. (DEDUCED: assumption 21) -/
def wordsOf (o n : Nat) : List Nat := (List.range ((o % 4 + n + 3) / 4)).map fun i => o / 4 * 4 + 4 * i

/-- Reading `n` bytes at offset `o`: none when a word has an uncorrectable error (R102). `ecc.failing` numbers the words of the
access in which the read finds one; they report it until they are written. A frame window reads cells of the buffer, which
counts the error and replaces its row (R229): there `ecc.failing` holds a word number plus 1,024 times the row. -/
def spcLoad (d : Dev) (h : Hart) (s : Spc) (o n : Nat) (ecc : Ecc) : Option (List Byte) × Dev :=
  let ws := wordsOf o n
  let words := if s == .fw then ecc.failing.map (· % 1024) else ecc.failing
  let hit := ((List.range ws.length).zip ws).filter fun e => words.contains e.1
  let d := hit.foldl (fun d e => match d.badWord h s e.2 with | some k => d.setBad k true | none => d) d
  let bad := !hit.isEmpty && s != .rom && s != .flash && s != .reg && s != .log
    || ws.any fun w => match d.badWord h s w with | some k => Sparse.get (fun _ => false) d.eng.bad k | none => false
  let v := d.spcRead h s o n
  match h with
  | .fe e _ =>
    let d := d.incBy .feEccCorr (e.val / 8) ecc.corrected
    let d := if s == .fw then
        d.bufEcc { ecc with failing := (ecc.failing.filter fun f => f % 1024 < ws.length).map (· / 1024 % 1024) }
      else d
    if bad then (none, d.memoryError 12 (e.val / 8) 0) else (some v, d)
  | .mc _ => (if bad then none else some v, d)

/-- Storing bytes into a memory other than FW and the register window; the words written report no error any more (R102).
(DEDUCED: assumption 21) -/
def spcStore (d : Dev) (h : Hart) (s : Spc) (o : Nat) (bs : List Byte) : Dev :=
  let d := (wordsOf o bs.length).foldl (fun d w => match d.badWord h s w with | some k => d.setBad k false | none => d) d
  match h, s with
  | .fe e t, .ld => { d with eng := { d.eng with ld := memSet d.eng.ld (ldKey e.val t.val o) bs } }
  | .fe e _, .cs => { d with eng := { d.eng with cs := memSet d.eng.cs (csKey (e.val / 8) o) bs } }
  | .mc _, .sram => { d with eng := { d.eng with sram := memSet d.eng.sram o bs } }
  | .mc _, .log => { d with eng := { d.eng with logSram := memSet d.eng.logSram o bs } }
  | _, _ => d

/-! ### Exceptions -/

/-- The instruction word at a core's PC, for TRAPADDR of ILLEGAL (R114). -/
def mcWord (d : Dev) (c : Fin 2) : Nat :=
  match d.place (.mc c) (d.mcCore c.val).rf.pc.toNat with
  | some (s, o) => leNat (d.spcRead (.mc c) s o 4)
  | none => 0

/-- Exception `code` on a management core (R115), counted in FeExc (R98), with the faulting address where there is one; what
TRAPADDR holds without one is open. The results of busy tokens are discarded (R95).
(DESIGN CHOICE: assumption 19; DEDUCED: assumption 20) -/
def excMc (d : Dev) (c : Fin 2) (code : Nat) (addr : Option Nat) : Dev :=
  let d := (d.inc .feExc code).tokSettle (.mc c)
  let x := d.mcCore c.val
  let tok := x.rf.tok.map fun e => (e.1, ({ e.2 with busy := false, op := none } : Tok))
  let tok := tok.filter fun e => decide (e.2 ≠ tokDefault e.1)
  let (v, d) : Nat × Dev :=
    match addr with
    | some a => (a, d)
    | none => if code = excIllegal then (d.mcWord c, d) else d.fresh 32
  (d.setMc c.val { x with trapAddr := v, rf := { x.rf with tok := tok } }).mcTrap c.val code 0

/-- Exception `code` of the instruction at a hart's PC. (DEDUCED: assumption 18) -/
def exc (d : Dev) (h : Hart) (code : Nat) (addr : Option Nat := none) : Dev :=
  match h with
  | .fe n t => d.excFe n.val t.val code (d.thr n.val t.val).rf.pc.toNat 0
  | .mc c => d.excMc c code addr

/-! ### Issue -/

/-- The instruction at PC is done: its results, and the next PC (R118). -/
def jump (d : Dev) (h : Hart) (f : RegFile → RegFile) (target : Word64) : Dev :=
  match h with
  | .fe n t =>
    let x := d.thr n.val t.val
    d.setThr n.val t.val { x with rf := { f x.rf with pc := target } }
  | .mc c =>
    let x := d.mcCore c.val
    d.setMc c.val { x with rf := { f x.rf with pc := target }, retCount := x.retCount + 1 }

/-- (DEDUCED: assumption 18) -/
def complete (d : Dev) (h : Hart) (f : RegFile → RegFile) : Dev :=
  d.jump h f ((d.rf h).pc + BitVec.ofNat 64 (pcStep h))

/-- The state of a hart's thread. -/
def hartSt (d : Dev) : Hart → ThrState
  | .fe n t => (d.thr n.val t.val).st
  | .mc c => (d.mcCore c.val).st

/-- A hart waits until registers `needs` are written, before it issues the instruction at its PC (R75).
(DESIGN CHOICE: assumption 9) -/
def interlock (d : Dev) (h : Hart) (needs : List Nat) : Dev :=
  match h with
  | .fe n t => d.setThr n.val t.val { d.thr n.val t.val with st := .interlock, needs := needs }
  | .mc c => d.setMc c.val { d.mcCore c.val with st := .interlock, needs := needs }

/-- A hart stops at an instruction that goes on later. (DEDUCED: assumption 18) -/
def park (d : Dev) (h : Hart) (st : ThrState) (i : Option Instr) : Dev :=
  match h with
  | .fe n t => d.setThr n.val t.val { d.thr n.val t.val with st := st, held := i }
  | .mc c => d.setMc c.val { d.mcCore c.val with st := st, held := i }

/-- Whether a core runs for itself: not the follower of a pair in lockstep, and its pair not stopped (R454, R456). -/
def mcRuns (d : Dev) (c : Nat) : Bool :=
  !(c == 1 && d.lockstep 32) && d.f lsPair_STATE 32 != pairFaulted

/-- The exception that fetching at a core's PC raises, 0 for none (R113).
(DESIGN CHOICE: assumption 19; DESIGN CHOICE: assumption 53) -/
def fetchExc (d : Dev) (c : Fin 2) : Nat :=
  let x := d.mcCore c.val
  let pc := x.rf.pc.toNat
  match d.place (.mc c) pc with
  | some (s, _) =>
    if s = .log ∨ s = .reg then excBounds
    else if pc % 4 ≠ 0 then excAlign
    else if x.sup ∨ windowAllows x pc 4 2 then 0 else excBounds
  | none => excBounds

/-- Counting an issued instruction (R97, R140). (DESIGN CHOICE: assumption 9; DEDUCED: assumption 18) -/
def counted (d : Dev) (n t : Nat) : Dev :=
  let x := d.thr n t
  let d := (d.setThr n t { x with icount := x.icount + 1 }).incEng .feEngInstr n
  { d with eng := { d.eng with lastIssued := Sparse.set (fun _ => 3) d.eng.lastIssued n t } }

/-- Whether the next issue slot of an engine is thread `t`'s: round-robin among the READY threads, starting after the thread
that issued last (R74, R140). (DESIGN CHOICE: assumption 9) -/
def hasSlot (d : Dev) (n t : Nat) : Bool :=
  let last := Sparse.get (fun _ => 3) d.eng.lastIssued n
  ((List.range 4).map fun i => (last + 1 + i) % 4).find? (fun k => (d.thr n k).st == .ready) == some t

/-- Issuing instruction `i` with guard `g` on a hart: `ill` says that its word is ILLEGAL, `tk` the token it takes, `regs` the
general registers it reads or writes, and `body` what it does. An instruction that the hart cannot issue now has no effect.
(DESIGN CHOICE: assumption 9; DEDUCED: assumption 18) -/
def issue (d : Dev) (h : Hart) (g : Guard) (ill : Bool) (tk : Option Nat) (regs : List Nat)
    (body : Dev → Dev) : Dev :=
  match h with
  | .fe n t =>
    let x := d.thr n.val t.val
    if d.follows n.val || x.st != .ready then d
    else if x.held.isSome then body (d.park h .ready none)
    else if d.hasSlot n.val t.val = false then d
    else if x.icount = x.budget then d.exc h excBudget
    else if (d.thrSet n.val t.val).codeWords ≤ x.rf.pc.toNat then d.exc h excBranch
    else if guardTrue x.rf g = false then (d.counted n.val t.val).complete h id
    else if ill then (d.counted n.val t.val).exc h excIllegal
    else if regs.any x.rf.pending then d.interlock h regs
    else if tk.any fun k => (x.rf.tokAt k).busy then (d.counted n.val t.val).exc h excToken
    else body (d.counted n.val t.val)
  | .mc c =>
    if d.mcRuns c.val = false then d
    else
      let d := d.mcWake c.val
      let x := d.mcCore c.val
      if x.st != .ready then d
      else if d.fetchExc c ≠ 0 then d.excMc c (d.fetchExc c) (some x.rf.pc.toNat)
      else if guardTrue x.rf g = false then d.complete h id
      else if ill then d.exc h excIllegal
      else if regs.any x.rf.pending then d.interlock h regs
      else if tk.any fun k => (x.rf.tokAt k).busy then d.exc h excToken
      else body d

/-- An instruction that computes a register from registers (R122 to R126). -/
def alu (d : Dev) (h : Hart) (g : Guard) (ill : Bool) (srcs : List Nat) (rd : Nat) (f : RegFile → Word64) : Dev :=
  d.issue h g ill none (rd :: srcs) fun d => d.complete h fun r => r.put rd (f r)

end Dev

end Sys2Proof.Machine
end

