-- ==== Sys2Proof/Machine/Halt.lean ====
section
/-! DEFINITION. Halting harts for the Darder link (R460, R504, R507, R509): what BKPT, HALT, breakpoints and watchpoints
share. Targets are 0 to 63 for the frame engines, 64 and 65 for the management cores (R506). -/
namespace Sys2Proof.Machine

/-- The reasons STATUS reports (R507). -/
def haltByHalt : Nat := 1
def haltByBkpt : Nat := 2
def haltByWatch : Nat := 3
def haltByStep : Nat := 4
def haltByInstr : Nat := 5

/-- The target number of a hart, and the pair it belongs to with the half. -/
def targetOf : Hart → Nat
  | .fe n _ => n.val
  | .mc c => 64 + c.val

/-- The lifecycle grants of halting one half of a PAIRED pair (R460, R504). -/
def mayHaltHalf (lifecycle grants : Nat) : Bool := lifecycle ≤ 1 || (lifecycle == 2 && bitAt 5 grants)

namespace Dev

/-- The place in `Safe.halt` of a halt that waits for a hand-over to end. -/
def haltWaitKey (tgt : Nat) : Nat := 512 + tgt

def haltWhy (d : Dev) (k : Nat) : Nat := Sparse.get (fun _ => 0) d.safe.halt k

def setHaltWhy (d : Dev) (k why : Nat) : Dev :=
  { d with safe := { d.safe with halt := Sparse.set (fun _ => 0) d.safe.halt k why } }

def isHalted (d : Dev) (tgt : Nat) : Bool := bitAt (tgt % 32) (d.rd .dbgHalted (tgt / 32)).toNat

def showHalted (d : Dev) (tgt : Nat) (on : Bool) : Dev := d.putBit .dbgHalted tgt (if on then 1 else 0)

/-- Stopping every thread of a target (R509), with EV158. A halt ends the hold of WFI (R157): a core held in it stands READY at
the WFI. (DEDUCED: assumption 22) -/
def haltNow (d : Dev) (tgt why : Nat) : Dev :=
  let d := (d.showHalted tgt true).raise 158 0 4
  if tgt < 64 then
    (List.range 4).foldl (fun d t =>
      let x := d.thr tgt t
      let d := d.setHaltWhy (4 * tgt + t) why
      if x.st = .halted then d else d.setThr tgt t { x with st := .halted, halted := some x.st }) d
  else
    let c := tgt - 64
    let d := d.mcWake c
    let st := if d.inWfi c then .ready else (d.mcCore c).st
    let x := d.mcCore c
    let d := d.setHaltWhy (256 + c) why
    if x.st = .halted then d else d.setMc c { x with st := .halted, halted := some st }

/-- Halting a target: one half of a PAIRED pair leaves lockstep first, when the lifecycle state lets it (R460, R504); during a
hand-over the halt waits. `false` when it is refused. (DEDUCED: assumption 22) -/
def haltTarget (d : Dev) (tgt why : Nat) : Bool × Dev :=
  let k := if tgt < 64 then tgt / 2 else 32
  let st := d.f lsPair_STATE k
  if st = pairHandover then (true, d.setHaltWhy (haltWaitKey tgt) why)
  else if st = pairPaired then
    if mayHaltHalf d.lifecycle (d.f dbgLink_GRANTS 0) then (true, (d.debugSplit k (tgt % 2)).haltNow tgt why) else (false, d)
  else (true, d.haltNow tgt why)

/-- A halt that reached a pair during its hand-over takes effect when that ends (R460). -/
def haltWaiting (d : Dev) (k : Nat) : Dev :=
  if d.f lsPair_STATE k = pairHandover then d
  else
    [halfKey k 0, halfKey k 1].foldl (fun d tgt =>
      let why := d.haltWhy (haltWaitKey tgt)
      if why = 0 then d else ((d.setHaltWhy (haltWaitKey tgt) 0).haltTarget tgt why).2) d

/-- Restarting a halted target where it stopped. (DEDUCED: assumption 22) -/
def haltEnd (d : Dev) (tgt : Nat) : Dev :=
  let d := d.showHalted tgt false
  if tgt < 64 then
    (List.range 4).foldl (fun d t =>
      let x := d.thr tgt t
      (d.setHaltWhy (4 * tgt + t) 0).setThr tgt t { x with st := x.halted.getD .idle, halted := none }) d
  else
    let x := d.mcCore (tgt - 64)
    (d.setHaltWhy (256 + (tgt - 64)) 0).setMc (tgt - 64) { x with st := x.halted.getD .ready, halted := none }

/-- Whether the link may halt a target now: in BLANK and DEVELOP, else in an unlock session with the grant (R504, R508).
(DEDUCED: assumption 22) -/
def mayHalt (d : Dev) (tgt : Nat) : Bool :=
  decide (d.lifecycle ≤ 1) || (d.b dbgLink_UNLOCKED 0 && bitAt (if tgt < 64 then 0 else 1) (d.f dbgLink_GRANTS 0))

/-- Whether the Darder link has armed a target for debug: a breakpoint or a watchpoint is enabled on it, and the link may halt it
(R115, R507). (DEDUCED: assumption 22) -/
def armed (d : Dev) (tgt : Nat) : Bool :=
  let on (e : Nat × Nat × Nat × Nat) : Bool := e.1 == tgt && bitAt 15 e.2.2.2
  d.mayHalt tgt && (d.safe.bkpt.any on || d.safe.watch.any on)

/-- The halves whose harts run the instructions of hart `h`: both of a pair in lockstep. -/
def targetsOf (d : Dev) (h : Hart) : List Nat :=
  let k := match h with | .fe n _ => n.val / 2 | .mc _ => 32
  if d.lockstep k then [halfKey k 0, halfKey k 1] else [targetOf h]

end Dev

end Sys2Proof.Machine
end

