-- ==== Sys2Proof/Machine/Memory.lean ====
section
/-! DEFINITION. Loads, stores and atomic operations (R131, R132), and the calculation operations, of which CSUM and the CRCs
read a byte range (R133 to R137). -/
namespace Sys2Proof.Machine

namespace Dev

/-- The effective address of a load or store: the offset counts units of the access size (R131). -/
def effective (d : Dev) (h : Hart) (ra : GReg) (off : BitVec 8) (n : Nat) : Nat :=
  ((d.rf h).get ra.val + BitVec.ofNat 64 (off.toNat * n)).toNat

/-- A load (R131): `f` makes the register from the bytes. -/
def loadOp (d : Dev) (h : Hart) (g : Guard) (rt ra : GReg) (sz : Fin 4) (off : BitVec 8) (ecc : Ecc)
    (f : List Byte → Word64) : Dev :=
  d.issue h g false none [rt.val, ra.val] fun d =>
    let n := 2 ^ sz.val
    let ea := d.effective h ra off n
    let e := d.accessExc h ea n false false
    if e ≠ 0 then d.exc h e (some ea)
    else match d.place h ea with
      | none => d
      | some (s, o) =>
        match d.spcLoad h s o n ecc with
        | (some bs, d) => d.complete h fun r => r.put rt.val (f bs)
        | (none, d) => d.exc h excMemory (some ea)

/-- The output packet of a thread with cells of its own for `len` bytes; none when the buffer has none free (R82, R83).
(DEDUCED: assumption 26) -/
def ownCells (d : Dev) (n t len : Nat) : Option Dev :=
  let x := d.thr n t
  if x.shadow then some d
  else if x.outGrp = 0 then
    match d.alloc (cellsOf len) with
    | (some g, d) => some (d.setThr n t { x with outGrp := g })
    | (none, _) => none
  else d.resize x.outGrp (cellsOf len)

/-- A store into FW at packet offset `o` (R82). -/
def storeFw (d : Dev) (n : Fin 64) (t : Fin 4) (i : Instr) (o : Nat) (bs : List Byte) : Dev :=
  match d.ownCells n.val t.val (d.thr n.val t.val).out.length with
  | none => d.park (.fe n t) .blocked (some i)
  | some d =>
    let x := d.thr n.val t.val
    (d.setThr n.val t.val { x with out := splice x.out o bs }).complete (.fe n t) id

/-- What the link message of a write carries (R519): its offset and its value. (DEDUCED: assumption 38) -/
def farCarried (x : FarWrite) : Nat := x.off + 2 ^ 24 * x.value

/-- A write enters the queue of window `w`, and crosses the barrier link of windows 0 to 3 (R440, R441).
(DEDUCED: assumption 40) -/
def farEnter (d : Dev) (w : Nat) (x : FarWrite) : Dev :=
  let d := d.setFarQueue w (d.farQueue w ++ [x])
  if w < 4 then d.linkSend w ordWrite (farCarried x) else d

/-- Whether the barrier link of window `w` is down (R442 cause 2). -/
def farDown (d : Dev) (w : Nat) : Bool := decide (w < 4) && !d.b bwLinkStatus_UP w

/-- The store of one core ends: done, or FARSIDE at an address (R113). A halted core stays halted. -/
def storeEnd (d : Dev) (c : Fin 2) (fail : Option Nat) : Dev :=
  let halted := (d.mcCore c.val).st == .halted
  let d := d.setMc c.val { d.mcCore c.val with st := .ready, halted := none, far := none }
  let d := match fail with | none => d.complete (.mc c) id | some a => d.exc (.mc c) excFarside (some a)
  if halted then d.setMc c.val { d.mcCore c.val with st := .halted, halted := some .ready } else d

/-- The far-side store of core `c` ends, for it and for a copy of it that waits with it. (DEDUCED: assumption 40) -/
def farStoreEnd (d : Dev) (c : Nat) (fail : Option Nat) : Dev :=
  [0, 1].foldl (fun d k => if (d.mcCore k).far = some c then d.storeEnd (Fin.ofNat 2 k) fail else d) d

/-- Core `c` waits for the outcome of its far-side store. -/
def farStoreWait (d : Dev) (c : Nat) : Dev :=
  let x := d.mcCore c
  if x.far.isSome then d else d.setMc c { x with st := .blocked, far := some c }

/-- The four-byte register writes of a core's store, in order; it completes with the last, and waits at each that enters a
far-side window (R21, R113), where it waits for room in the queue first (R441). A link that is down takes none.
(DEDUCED: assumption 40) -/
def coreWrites (d : Dev) (c : Fin 2) : List (Nat × Nat) → Dev
  | [] => if (d.mcCore c.val).far.isSome then d.farStoreEnd c.val none else d.complete (.mc c) id
  | (o, v) :: rest =>
    match farWindow 16 o with
    | none => (d.regWrite 16 o v).coreWrites c rest
    | some w =>
      let d := d.farStoreWait c.val
      if d.farDown w then d.farStoreEnd c.val (some (0xF0000000 + o))
      else if 32 ≤ (d.farQueue w).length then
        { d with host := { d.host with
          coreWait := (d.host.coreWait.filter fun x => x.1 != c.val) ++ [(c.val, (o, v) :: rest)] } }
      else d.farEnter w { dom := 16, seq := 0, off := o, value := v, src := .core c.val rest }

/-- A store of a management core to the register window (R21, R113): an 8-byte store writes the lower register first. -/
def storeReg (d : Dev) (c : Fin 2) (o : Nat) (bs : List Byte) : Dev :=
  if d.shadowed (.mc c) then (d.inc .lsDebugDiscard 0).complete (.mc c) id
  else d.coreWrites c ((List.range (bs.length / 4)).map fun k => (o + 4 * k, leAt bs (4 * k) 4))

/-- A store (R131): `f` makes the bytes from the register. -/
def storeOp (d : Dev) (h : Hart) (i : Instr) (g : Guard) (rt ra : GReg) (sz : Fin 4) (off : BitVec 8)
    (f : Nat → Nat → List Byte) : Dev :=
  d.issue h g false none [rt.val, ra.val] fun d =>
    let n := 2 ^ sz.val
    let ea := d.effective h ra off n
    let e := d.accessExc h ea n true false
    if e ≠ 0 then d.exc h e (some ea)
    else
      let bs := f n ((d.rf h).get rt.val).toNat
      match d.place h ea, h with
      | some (.fw, o), .fe n t => d.storeFw n t i ((d.thr n.val t.val).fwBase + o) bs
      | some (.reg, o), .mc c => d.storeReg c o bs
      | some (.ld, o), _ => (d.spcStore h .ld o bs).complete h id
      | some (s, o), _ => (d.outward h fun d => d.spcStore h s o bs).complete h id
      | none, _ => d

/-- An atomic operation on cluster shared data (R132): `f` gives what is stored for the old value, `none` for no store.
(DESIGN CHOICE: assumption 19) -/
def amoOp (d : Dev) (h : Hart) (g : Guard) (rd ra rb : GReg) (wide : Bool) (ecc : Ecc)
    (f : Nat → Nat → Nat → Option Nat) : Dev :=
  d.issue h g false none [rd.val, ra.val, rb.val] fun d =>
    let n := if wide then 8 else 4
    let ea := ((d.rf h).get ra.val).toNat
    if ea % n ≠ 0 then d.exc h excAlign (some ea)
    else match d.place h ea with
      | some (.cs, o) =>
        if 2 ^ 18 < o + n then d.exc h excBounds (some ea)
        else match d.spcLoad h .cs o n ecc with
          | (none, d) => d.exc h excMemory (some ea)
          | (some bs, d) =>
            let old := leNat bs
            let m := 2 ^ (8 * n)
            let d := match f old (((d.rf h).get rb.val).toNat % m) (((d.rf h).get rd.val).toNat % m) with
              | some v => d.outward h fun d => d.spcStore h .cs o (leBytes n v)
              | none => d
            d.complete h fun r => r.put rd.val (BitVec.ofNat 64 old)
      | _ => d.exc h excBounds (some ea)

/-- An operation over the byte range of length g[RB] at g[RA] (R133): `f` makes the register from its old value and the bytes.
(DESIGN CHOICE: assumption 19) -/
def rangeOp (d : Dev) (h : Hart) (g : Guard) (rd ra rb : GReg) (ecc : Ecc) (f : Nat → List Byte → Nat) : Dev :=
  d.issue h g false none [rd.val, ra.val, rb.val] fun d =>
    let ea := ((d.rf h).get ra.val).toNat
    let len := ((d.rf h).get rb.val).toNat
    let put (d : Dev) (bs : List Byte) : Dev :=
      d.complete h fun r => r.put rd.val (BitVec.ofNat 64 (f (r.get rd.val).toNat bs))
    if 4096 < len then d.exc h excBounds (some ea)
    else if len = 0 then put d []
    else
      let e := d.accessExc h ea len false true
      if e ≠ 0 then d.exc h e (some ea)
      else match d.place h ea with
        | none => d
        | some (s, o) =>
          match d.spcLoad h s o len ecc with
          | (some bs, d) => put d bs
          | (none, d) => d.exc h excMemory (some ea)

/-- LD (R131). -/
def iLd (d : Dev) (h : Hart) (g : Guard) (rt ra : GReg) (sz : Fin 4) (off : BitVec 8) (ecc : Ecc) : Dev :=
  d.loadOp h g rt ra sz off ecc fun bs => BitVec.ofNat 64 (leNat bs)

/-- LDS (R131). -/
def iLds (d : Dev) (h : Hart) (g : Guard) (rt ra : GReg) (sz : Fin 4) (off : BitVec 8) (ecc : Ecc) : Dev :=
  d.loadOp h g rt ra sz off ecc fun bs => sextBits (8 * 2 ^ sz.val) (BitVec.ofNat 64 (leNat bs))

/-- LDN (R131). -/
def iLdn (d : Dev) (h : Hart) (g : Guard) (rt ra : GReg) (sz : Fin 4) (off : BitVec 8) (ecc : Ecc) : Dev :=
  d.loadOp h g rt ra sz off ecc fun bs => BitVec.ofNat 64 (beNat bs)

/-- LDNS (R131). -/
def iLdns (d : Dev) (h : Hart) (g : Guard) (rt ra : GReg) (sz : Fin 4) (off : BitVec 8) (ecc : Ecc) : Dev :=
  d.loadOp h g rt ra sz off ecc fun bs => sextBits (8 * 2 ^ sz.val) (BitVec.ofNat 64 (beNat bs))

/-- ST (R131). -/
def iSt (d : Dev) (h : Hart) (g : Guard) (rt ra : GReg) (sz : Fin 4) (off : BitVec 8) : Dev :=
  d.storeOp h (.st h g rt ra sz off) g rt ra sz off leBytes

/-- STN (R131). -/
def iStn (d : Dev) (h : Hart) (g : Guard) (rt ra : GReg) (sz : Fin 4) (off : BitVec 8) : Dev :=
  d.storeOp h (.stn h g rt ra sz off) g rt ra sz off beBytes

/-- AMOADD (R132). -/
def iAmoadd (d : Dev) (h : Hart) (g : Guard) (rd ra rb : GReg) (wide : Bool) (ecc : Ecc) : Dev :=
  d.amoOp h g rd ra rb wide ecc fun old b _ => some (old + b)

/-- AMOSWAP (R132). -/
def iAmoswap (d : Dev) (h : Hart) (g : Guard) (rd ra rb : GReg) (wide : Bool) (ecc : Ecc) : Dev :=
  d.amoOp h g rd ra rb wide ecc fun _ b _ => some b

/-- AMOOR (R132). -/
def iAmoor (d : Dev) (h : Hart) (g : Guard) (rd ra rb : GReg) (wide : Bool) (ecc : Ecc) : Dev :=
  d.amoOp h g rd ra rb wide ecc fun old b _ => some (old ||| b)

/-- AMOAND (R132). -/
def iAmoand (d : Dev) (h : Hart) (g : Guard) (rd ra rb : GReg) (wide : Bool) (ecc : Ecc) : Dev :=
  d.amoOp h g rd ra rb wide ecc fun old b _ => some (old &&& b)

/-- AMOCAS (R132). -/
def iAmocas (d : Dev) (h : Hart) (g : Guard) (rd ra rb : GReg) (wide : Bool) (ecc : Ecc) : Dev :=
  d.amoOp h g rd ra rb wide ecc fun old b c => if old = c then some b else none

/-- CSUM leaves the running sum (R134). -/
def iCsum (d : Dev) (h : Hart) (g : Guard) (rd ra rb : GReg) (ecc : Ecc) : Dev :=
  d.rangeOp h g rd ra rb ecc fun acc bs => ocRange (acc % 65536) bs

/-- CRC8 (R135). -/
def iCrc8 (d : Dev) (h : Hart) (g : Guard) (rd ra rb : GReg) (ecc : Ecc) : Dev :=
  d.rangeOp h g rd ra rb ecc (crcRange crc8)

/-- CRC8H (R135). -/
def iCrc8h (d : Dev) (h : Hart) (g : Guard) (rd ra rb : GReg) (ecc : Ecc) : Dev :=
  d.rangeOp h g rd ra rb ecc (crcRange crc8h)

/-- CRC16 (R135). -/
def iCrc16 (d : Dev) (h : Hart) (g : Guard) (rd ra rb : GReg) (ecc : Ecc) : Dev :=
  d.rangeOp h g rd ra rb ecc (crcRange crc16)

/-- CRC32 (R135). -/
def iCrc32 (d : Dev) (h : Hart) (g : Guard) (rd ra rb : GReg) (ecc : Ecc) : Dev :=
  d.rangeOp h g rd ra rb ecc (crcRange crc32)

/-- CRC32C (R135). -/
def iCrc32c (d : Dev) (h : Hart) (g : Guard) (rd ra rb : GReg) (ecc : Ecc) : Dev :=
  d.rangeOp h g rd ra rb ecc (crcRange crc32c)

/-- CRC32P4 (R135). -/
def iCrc32p4 (d : Dev) (h : Hart) (g : Guard) (rd ra rb : GReg) (ecc : Ecc) : Dev :=
  d.rangeOp h g rd ra rb ecc (crcRange crc32p4)

/-- CSUMR (R134). -/
def iCsumr (d : Dev) (h : Hart) (g : Guard) (rd ra rb : GReg) : Dev :=
  d.alu h g false [rd.val, ra.val, rb.val] rd.val fun r =>
    BitVec.ofNat 64 (ocUpdate (r.get rd.val).toNat (r.get ra.val).toNat (r.get rb.val).toNat)

/-- CSUMF (R134). -/
def iCsumf (d : Dev) (h : Hart) (g : Guard) (rd ra : GReg) : Dev :=
  d.alu h g false [ra.val] rd.val fun r => BitVec.ofNat 64 (ocFold (r.get ra.val).toNat)

/-- HMIX (R136). -/
def iHmix (d : Dev) (h : Hart) (g : Guard) (rd ra rb : GReg) : Dev :=
  d.alu h g false [ra.val, rb.val] rd.val fun r =>
    BitVec.ofNat 64 (hmix (r.get ra.val).toNat (r.get rb.val).toNat)

/-- CLMULL (R137). -/
def iClmull (d : Dev) (h : Hart) (g : Guard) (rd ra rb : GReg) : Dev :=
  d.alu h g false [ra.val, rb.val] rd.val fun r =>
    BitVec.ofNat 64 (clMul (r.get ra.val) (r.get rb.val))

/-- CLMULH (R137). -/
def iClmulh (d : Dev) (h : Hart) (g : Guard) (rd ra rb : GReg) : Dev :=
  d.alu h g false [ra.val, rb.val] rd.val fun r =>
    BitVec.ofNat 64 (clMul (r.get ra.val) (r.get rb.val) / 2 ^ 64)

end Dev

/-! ### The commands -/

def execLd (h : Hart) (g : Guard) (rt ra : GReg) (sz : Fin 4) (off : BitVec 8) (ecc : Ecc) (s : State) : Host.Outcome State Fault Refusal :=
  s.logic fun d => d.iLd h g rt ra sz off ecc

def execLds (h : Hart) (g : Guard) (rt ra : GReg) (sz : Fin 4) (off : BitVec 8) (ecc : Ecc) (s : State) : Host.Outcome State Fault Refusal :=
  s.logic fun d => d.iLds h g rt ra sz off ecc

def execLdn (h : Hart) (g : Guard) (rt ra : GReg) (sz : Fin 4) (off : BitVec 8) (ecc : Ecc) (s : State) : Host.Outcome State Fault Refusal :=
  s.logic fun d => d.iLdn h g rt ra sz off ecc

def execLdns (h : Hart) (g : Guard) (rt ra : GReg) (sz : Fin 4) (off : BitVec 8) (ecc : Ecc) (s : State) : Host.Outcome State Fault Refusal :=
  s.logic fun d => d.iLdns h g rt ra sz off ecc

def execSt (h : Hart) (g : Guard) (rt ra : GReg) (sz : Fin 4) (off : BitVec 8) (s : State) : Host.Outcome State Fault Refusal :=
  s.logic fun d => d.iSt h g rt ra sz off

def execStn (h : Hart) (g : Guard) (rt ra : GReg) (sz : Fin 4) (off : BitVec 8) (s : State) : Host.Outcome State Fault Refusal :=
  s.logic fun d => d.iStn h g rt ra sz off

def execAmoadd (h : Hart) (g : Guard) (rd ra rb : GReg) (wide : Bool) (ecc : Ecc) (s : State) : Host.Outcome State Fault Refusal :=
  s.logic fun d => d.iAmoadd h g rd ra rb wide ecc

def execAmoswap (h : Hart) (g : Guard) (rd ra rb : GReg) (wide : Bool) (ecc : Ecc) (s : State) : Host.Outcome State Fault Refusal :=
  s.logic fun d => d.iAmoswap h g rd ra rb wide ecc

def execAmoor (h : Hart) (g : Guard) (rd ra rb : GReg) (wide : Bool) (ecc : Ecc) (s : State) : Host.Outcome State Fault Refusal :=
  s.logic fun d => d.iAmoor h g rd ra rb wide ecc

def execAmoand (h : Hart) (g : Guard) (rd ra rb : GReg) (wide : Bool) (ecc : Ecc) (s : State) : Host.Outcome State Fault Refusal :=
  s.logic fun d => d.iAmoand h g rd ra rb wide ecc

def execAmocas (h : Hart) (g : Guard) (rd ra rb : GReg) (wide : Bool) (ecc : Ecc) (s : State) : Host.Outcome State Fault Refusal :=
  s.logic fun d => d.iAmocas h g rd ra rb wide ecc

def execCsum (h : Hart) (g : Guard) (rd ra rb : GReg) (ecc : Ecc) (s : State) : Host.Outcome State Fault Refusal :=
  s.logic fun d => d.iCsum h g rd ra rb ecc

def execCrc8 (h : Hart) (g : Guard) (rd ra rb : GReg) (ecc : Ecc) (s : State) : Host.Outcome State Fault Refusal :=
  s.logic fun d => d.iCrc8 h g rd ra rb ecc

def execCrc8h (h : Hart) (g : Guard) (rd ra rb : GReg) (ecc : Ecc) (s : State) : Host.Outcome State Fault Refusal :=
  s.logic fun d => d.iCrc8h h g rd ra rb ecc

def execCrc16 (h : Hart) (g : Guard) (rd ra rb : GReg) (ecc : Ecc) (s : State) : Host.Outcome State Fault Refusal :=
  s.logic fun d => d.iCrc16 h g rd ra rb ecc

def execCrc32 (h : Hart) (g : Guard) (rd ra rb : GReg) (ecc : Ecc) (s : State) : Host.Outcome State Fault Refusal :=
  s.logic fun d => d.iCrc32 h g rd ra rb ecc

def execCrc32c (h : Hart) (g : Guard) (rd ra rb : GReg) (ecc : Ecc) (s : State) : Host.Outcome State Fault Refusal :=
  s.logic fun d => d.iCrc32c h g rd ra rb ecc

def execCrc32p4 (h : Hart) (g : Guard) (rd ra rb : GReg) (ecc : Ecc) (s : State) : Host.Outcome State Fault Refusal :=
  s.logic fun d => d.iCrc32p4 h g rd ra rb ecc

def execCsumr (h : Hart) (g : Guard) (rd ra rb : GReg) (s : State) : Host.Outcome State Fault Refusal :=
  s.logic fun d => d.iCsumr h g rd ra rb

def execCsumf (h : Hart) (g : Guard) (rd ra : GReg) (s : State) : Host.Outcome State Fault Refusal :=
  s.logic fun d => d.iCsumf h g rd ra

def execHmix (h : Hart) (g : Guard) (rd ra rb : GReg) (s : State) : Host.Outcome State Fault Refusal :=
  s.logic fun d => d.iHmix h g rd ra rb

def execClmull (h : Hart) (g : Guard) (rd ra rb : GReg) (s : State) : Host.Outcome State Fault Refusal :=
  s.logic fun d => d.iClmull h g rd ra rb

def execClmulh (h : Hart) (g : Guard) (rd ra rb : GReg) (s : State) : Host.Outcome State Fault Refusal :=
  s.logic fun d => d.iClmulh h g rd ra rb

end Sys2Proof.Machine
end

