-- ==== Sys2Proof/Machine/FrameOps.lean ====
section
/-! DEFINITION. The frame operations, the terminal actions and MIRR (R82, R83, R141, R154 to R156), as instructions and as
what rule actions perform (R174). -/
namespace Sys2Proof.Machine
namespace Dev

/-- Whether a hart runs no frame job (R112, R121). -/
def noFrame (d : Dev) : Hart → Bool
  | .fe n t => (d.thr n.val t.val).kind != .frame
  | .mc _ => true

/-- Acting on the thread of a hart. -/
def onThread (d : Dev) (h : Hart) (f : Fin 64 → Fin 4 → Thread → Dev) : Dev :=
  match h with
  | .fe n t => f n t (d.thr n.val t.val)
  | .mc _ => d

/-! ### The output packet -/

/-- A frame operation (R141): the new output packet with its net count and %fw_base, or none for BOUNDS.
(DEDUCED: assumption 26) -/
def frameOp (d : Dev) (h : Hart) (i : Instr) (g : Guard) (ra : GReg) (f : Thread → Word64 → Option Thread) : Dev :=
  d.issue h g (d.noFrame h) none [ra.val] fun d => d.onThread h fun n t x =>
    match f x (x.rf.get ra.val) with
    | none => d.exc h excBounds
    | some y =>
      if y.out = x.out then (d.setThr n.val t.val y).complete h id
      else match d.ownCells n.val t.val y.out.length with
        | none => d.park h .blocked (some i)
        | some d => (d.setThr n.val t.val { y with outGrp := (d.thr n.val t.val).outGrp, held := none }).complete h id

/-- ADJH on a thread. -/
def adjHead (x : Thread) (v : Word64) : Option Thread :=
  let k := v.toInt
  let len := (x.out.length : Int) + k
  if 128 < x.net + k ∨ len < 1 ∨ 9728 < len then none
  else
    let out := if 0 < k then List.replicate k.toNat (0 : Byte) ++ x.out else x.out.drop (-k).toNat
    some { x with out := out, net := x.net + k }

/-- ADJT on a thread. -/
def adjTail (x : Thread) (v : Word64) : Option Thread :=
  let l := v.toNat
  if l < 1 ∨ 9728 < l then none
  else
    let fw := if l < x.out.length ∧ l < x.fwBase + 1 then 0 else x.fwBase
    some { x with out := slice x.out 0 l, fwBase := fw }

/-- WMOV on a thread. -/
def winMove (x : Thread) (v : Word64) : Option Thread :=
  let o := v.toNat
  if o % 64 ≠ 0 ∨ x.out.length ≤ o then none else some { x with fwBase := o }

/-- The output packet as a frame (R154). -/
def packet (x : Thread) : Frame :=
  { x.src with bytes := x.out, cls := x.cls, grp := if x.outGrp = 0 then x.src.grp else x.outGrp }

/-! ### What the actions do -/

/-- The outputs of a half that a debug split stopped are discarded (R460); any other thread acts. -/
def actOut (d : Dev) (n t : Nat) (f : Dev → Thread → Dev) : Dev :=
  let x := d.thr n t
  if x.shadow then (d.inc .lsDebugDiscard 0).jobEnd n t else f d x

/-- The cells of the frame received are free once the output packet, with cells of its own, goes on. -/
def freeSource (d : Dev) (x : Thread) : Dev := if x.outGrp = 0 then d else d.release x.src.grp

/-- Committing the output packet to the order stage (R184). -/
def actCommit (d : Dev) (n t : Nat) (tos : List Release) : Dev :=
  d.actOut n t fun d x => ((d.freeSource x).commitFrame (packet x) tos).jobEnd n t

/-- DROP (R121, R154): the packet rewinds; a trigger job or a crypto service job ends normally. -/
def actDrop (d : Dev) (n t reason : Nat) : Dev :=
  d.actOut n t fun d x =>
    match x.kind with
    | .frame => (((d.release x.outGrp).dropFrame x.src).inc .feDropRsn reason).jobEnd n t
    | .trigger => d.jobEnd n t
    | .crypto =>
      match x.job with
      | some (u, no) => (d.cxProgramEnd u no none).jobEnd n t
      | none => d.jobEnd n t

/-- REDIP with %pass = 0 (R176). -/
def actRedip (d : Dev) (n t : Nat) : Dev := d.actOut n t fun d x => ((d.freeSource x).redip (packet x)).jobEnd n t

/-- A MIRR copy (R156, R242). -/
def actMirror (d : Dev) (h : Hart) (s : Nat) : Dev :=
  d.onThread h fun _ _ x => d.outward h fun d => d.mirrorCandidate s (packet x)

/-- Whether COPYH may name a ring: its domain and the ring are enabled (R154). -/
def copyhOk (d : Dev) (dom ring : Nat) : Bool := d.domEnabled dom && d.b hrRxCfg_ENABLE (16 * dom + ring)

/-! ### Terminal actions -/

/-- A terminal action or MIRR: its operands are checked, then it waits until no token is busy (R95, R154).
(DEDUCED: assumption 18; DEDUCED: assumption 26) -/
def terminal (d : Dev) (h : Hart) (i : Instr) (g : Guard) (ill : Bool) (regs : List Nat) (check : Dev → Nat)
    (act : Dev → Fin 64 → Fin 4 → Thread → Dev) : Dev :=
  d.issue h g ill none regs fun d =>
    if check d ≠ 0 then d.exc h (check d)
    else if (d.rf h).busy.isEmpty then d.onThread h (act d)
    else d.park h .blocked (some i)

/-- The ports of an EMITM set (R17, R154). -/
def portList (set : Nat) : List Nat := (List.range 96).filter fun p => bitAt p set
def portsOk (set : Nat) : Bool := decide (set ≠ 0) && (List.range 96).all fun p => !bitAt p set || emitPort p

/-- The set in g[RA] and the low half of g[RA+1]. -/
def portSetOf (r : RegFile) (ra : Nat) : Nat := (r.get ra).toNat + (r.get (ra + 1)).toNat % 2 ^ 32 * 2 ^ 64

/-- The class an action names, else that of %frame_class. -/
def classOf (cls : Option (Fin 8)) (x : Thread) : Nat :=
  match cls with
  | some c => c.val
  | none => clsClass x.cls

/-- Domain and ring of COPYH: from the instruction, or from g[RA] (R154). -/
def copyhArgs (r : RegFile) (ra : GReg) (dom ring : Fin 16) : Nat × Nat :=
  let v := (r.get ra.val).toNat
  if ra.val = 0 then (dom.val, ring.val) else (bits 11 8 v, bits 7 4 v)

/-- ADJH (R141). -/
def iAdjh (d : Dev) (h : Hart) (g : Guard) (ra : GReg) : Dev :=
  d.frameOp h (.adjh h g ra) g ra adjHead

/-- ADJT (R141). -/
def iAdjt (d : Dev) (h : Hart) (g : Guard) (ra : GReg) : Dev :=
  d.frameOp h (.adjt h g ra) g ra adjTail

/-- WMOV (R141). -/
def iWmov (d : Dev) (h : Hart) (g : Guard) (ra : GReg) : Dev :=
  d.frameOp h (.wmov h g ra) g ra winMove

/-- EMIT (R154). -/
def iEmit (d : Dev) (h : Hart) (g : Guard) (ra : GReg) (cls : Option (Fin 8)) : Dev :=
  let port (d : Dev) : Nat := ((d.rf h).get ra.val).toNat % 128
  d.terminal h (.emit h g ra cls) g (d.noFrame h) [ra.val] (fun d => if emitPort (port d) then 0 else excPort)
    fun d n t x => d.actCommit n.val t.val [.queue (port d) (classOf cls x)]

/-- EMITM: one copy to each port of the set (R154). -/
def iEmitm (d : Dev) (h : Hart) (g : Guard) (ra : GReg) (cls : Option (Fin 8)) : Dev :=
  d.terminal h (.emitm h g ra cls) g (d.noFrame h || ra.val == 31) [ra.val, ra.val + 1]
    (fun d => if portsOk (portSetOf (d.rf h) ra.val) then 0 else excPort)
    fun d n t x => d.actCommit n.val t.val ((portList (portSetOf x.rf ra.val)).map fun p => .queue p (classOf cls x))

/-- DROP (R154). -/
def iDrop (d : Dev) (h : Hart) (g : Guard) (reason : BitVec 8) : Dev :=
  d.terminal h (.drop h g reason) g (match h with | .fe _ _ => false | .mc _ => true) [] (fun _ => 0)
    fun d n t _ => d.actDrop n.val t.val reason.toNat

/-- COPYH: with RA ≠ 0 the immediate must be 0 (R154). -/
def iCopyh (d : Dev) (h : Hart) (g : Guard) (ra : GReg) (dom ring : Fin 16) : Dev :=
  d.terminal h (.copyh h g ra dom ring) g (d.noFrame h || (ra.val != 0 && (dom.val != 0 || ring.val != 0))) [ra.val]
    (fun d => let a := copyhArgs (d.rf h) ra dom ring
      if d.copyhOk a.1 a.2 then 0 else excPort)
    fun d n t x => let a := copyhArgs x.rf ra dom ring
      d.actCommit n.val t.val [.ring a.1 a.2 (clsClass x.cls)]

/-- MIRR, after which the job continues (R156). -/
def iMirr (d : Dev) (h : Hart) (g : Guard) (session : Fin 8) : Dev :=
  d.terminal h (.mirr h g session) g (d.noFrame h) [] (fun d => if d.mirrorRuleOn session.val then 0 else excPort)
    fun d _ _ _ => (d.actMirror h session.val).complete h id

/-- REDIP (R176, R179). -/
def iRedip (d : Dev) (h : Hart) (g : Guard) : Dev :=
  d.terminal h (.redip h g) g (d.noFrame h) []
    (fun d => match h with
      | .fe n t => if (d.thr n.val t.val).src.pass = 1 then excRedip2 else 0
      | .mc _ => 0)
    fun d n t _ => d.actRedip n.val t.val

/-- TRAP (R154, R99, R100). -/
def iTrap (d : Dev) (h : Hart) (g : Guard) (code : BitVec 12) : Dev :=
  d.terminal h (.trap h g code) g (match h with | .fe _ _ => false | .mc _ => true) [] (fun _ => 0)
    fun d n t x => d.excFe n.val t.val excTrap x.rf.pc.toNat code.toNat

end Dev

/-! ### The commands -/

def execAdjh (h : Hart) (g : Guard) (ra : GReg) (s : State) : Host.Outcome State Fault Refusal :=
  s.logic fun d => d.iAdjh h g ra

def execAdjt (h : Hart) (g : Guard) (ra : GReg) (s : State) : Host.Outcome State Fault Refusal :=
  s.logic fun d => d.iAdjt h g ra

def execWmov (h : Hart) (g : Guard) (ra : GReg) (s : State) : Host.Outcome State Fault Refusal :=
  s.logic fun d => d.iWmov h g ra

def execEmit (h : Hart) (g : Guard) (ra : GReg) (cls : Option (Fin 8)) (s : State) : Host.Outcome State Fault Refusal :=
  s.logic fun d => d.iEmit h g ra cls

def execEmitm (h : Hart) (g : Guard) (ra : GReg) (cls : Option (Fin 8)) (s : State) : Host.Outcome State Fault Refusal :=
  s.logic fun d => d.iEmitm h g ra cls

def execDrop (h : Hart) (g : Guard) (reason : BitVec 8) (s : State) : Host.Outcome State Fault Refusal :=
  s.logic fun d => d.iDrop h g reason

def execCopyh (h : Hart) (g : Guard) (ra : GReg) (dom ring : Fin 16) (s : State) : Host.Outcome State Fault Refusal :=
  s.logic fun d => d.iCopyh h g ra dom ring

def execMirr (h : Hart) (g : Guard) (session : Fin 8) (s : State) : Host.Outcome State Fault Refusal :=
  s.logic fun d => d.iMirr h g session

def execRedip (h : Hart) (g : Guard) (s : State) : Host.Outcome State Fault Refusal :=
  s.logic fun d => d.iRedip h g

def execTrap (h : Hart) (g : Guard) (code : BitVec 12) (s : State) : Host.Outcome State Fault Refusal :=
  s.logic fun d => d.iTrap h g code

end Sys2Proof.Machine
end

