-- ==== Sys2Proof/Machine/Async.lean ====
section
/-! DEFINITION. Asynchronous instructions: rule searches and table lookups (R142 to R145, R174), blocks (R146, R351, R355),
message objects (R148, R149), leave (R150), time and waiting (R151 to R153). An asynchronous instruction issues on a token; a
command of its own completes it. -/
namespace Sys2Proof.Machine
namespace Dev

/-- Registers from `r` on, as R120 names a span. -/
def spanRegs (r k : Nat) : List Nat := (List.range k).map (r + ·)

/-- Whether a span runs beyond g31 (R86, R120). -/
def spanBad (r k : Nat) : Bool := decide (32 < r + k)

/-- Token `k` becomes busy with an operation, or is done at once with a status (R92), and the instruction is complete. -/
def tokIssue (d : Dev) (h : Hart) (k : TokId) (o : TokOp) : Dev :=
  d.complete h fun r => r.setTok k.val { busy := true, op := some o }

def tokAtOnce (d : Dev) (h : Hart) (k : TokId) (status : Nat) (f : RegFile → RegFile := id) : Dev :=
  d.complete h fun r => (f r).setTok k.val { status := status }

/-! ### Rules -/

/-- The 512-bit key in eight registers (R142). -/
def matchKeyOf (r : RegFile) (ra : Nat) : Nat := ((List.range 8).map fun i => (r.get (ra + i)).toNat * 2 ^ (64 * i)).sum

/-- The result registers of a search (R142). -/
def matchWords (hit : Option Nat) (action : Nat) : List Nat :=
  match hit with
  | some n => [2 ^ 63 + n, action]
  | none => [0, 0]

/-- The search of logical set `s` for a hart: the rule that wins with its action word. -/
def search (d : Dev) (h : Hart) (s key : Nat) : Option Nat × Nat :=
  let hit := d.ruleMatch (d.physSet (d.hartEpoch h) s) key
  (hit, match hit with | some n => (d.rule n).action | none => 0)

/-- Continuing at rule entry `e` (R105): an entry that is not VALID raises NO_ENTRY. -/
def ruleEntry (d : Dev) (h : Hart) (e rule arg : Nat) : Dev :=
  d.onThread h fun n t x =>
    let word := (d.thrSet n.val t.val).entries.getD (128 + e) 0
    if bitAt 31 word = false then d.exc h excNoEntry
    else
      let rf : RegFile := { x.rf with pc := BitVec.ofNat 64 (word % 65536) }
      d.setThr n.val t.val { x with rf := rf, entry := 128 + e, args := [rule, arg] }

/-- The action of the winning rule in hardware (R174). -/
def ruleAction (d : Dev) (h : Hart) (rule a : Nat) : Dev :=
  let session := bits 26 24 a
  let mirrors := bitAt 27 a || a % 16 == 4
  if mirrors && !d.mirrorRuleOn session then d.exc h excPort
  else
    let d := if bitAt 27 a then d.actMirror h session else d
    d.onThread h fun n t x =>
      let cls := if bitAt 14 a then bits 13 11 a else clsClass x.cls
      match a % 16 with
      | 1 => d.actDrop n.val t.val (bits 47 40 a)
      | 2 => if emitPort (bits 10 4 a) then d.actCommit n.val t.val [.queue (bits 10 4 a) cls] else d.exc h excPort
      | 3 =>
        if d.copyhOk (bits 19 16 a) (bits 23 20 a) then d.actCommit n.val t.val [.ring (bits 19 16 a) (bits 23 20 a) cls]
        else d.exc h excPort
      | 4 => (d.actMirror h session).complete h id
      | 5 => if x.src.pass = 1 then d.exc h excRedip2 else d.actRedip n.val t.val
      | 6 => d.ruleEntry h (bits 33 28 a) rule (bits 63 48 a)
      | _ => d.complete h id

/-- An action that ends the job, or makes a copy, waits until no token is busy (R95, R154). -/
def actionWaits (a : Nat) : Bool := bitAt 27 a || (1 ≤ a % 16 && a % 16 ≤ 5)

/-- Carrying out a rule's action, once the busy tokens let it. -/
def actionDo (d : Dev) (h : Hart) (i : Instr) (rule a : Nat) : Dev :=
  if actionWaits a && !(d.rf h).busy.isEmpty then
    (d.onThread h fun n t x => d.setThr n.val t.val { x with acted := some (rule, a) }).park h .blocked (some i)
  else (d.onThread h fun n t x => d.setThr n.val t.val { x with acted := none }).ruleAction h rule a

/-! ### Completion of tokens -/

/-- A token ends: its results, its status, and the effects it had (R92). -/
def tokEnd (d : Dev) (h : Hart) (k : TokId) (status rd : Nat) (vals : List Nat) : Dev :=
  d.setRf h (((d.rf h).putSpan rd vals).setTok k.val { status := status })

/-- Two results that the spec does not state. -/
def openWords (d : Dev) : List Nat × Dev :=
  let (a, d) := d.fresh 64
  let (b, d) := d.fresh 64
  ([a, b], d)

/-- The operation a busy token stands for. -/
def tokOp (d : Dev) (h : Hart) (k : TokId) : Option TokOp :=
  let x := (d.rf h).tokAt k.val
  if x.busy then x.op else none

/-- A rule search completes (R142); what the result registers hold after an uncorrectable error is open.
(DEDUCED: assumption 25) -/
def matchDone (d : Dev) (h : Hart) (k : TokId) (ecc : Ecc) : Dev :=
  match d.tokOp h k with
  | some (.ruleSearch rd hit action) =>
    if ecc.failing.isEmpty then
      (d.countHit h hit).tokEnd h k (if hit.isSome then tokOk else tokMiss) rd (matchWords hit action)
    else
      let (ws, d) := d.openWords
      d.tokEnd h k tokMemory rd ws
  | _ => d

/-- What the memory checks find while a job of epoch `e` looks up table `t` (R207), in the versions it reads. Of a LKUP of table
3 the locations from 16,384 on are those of the host table (R214). (DEDUCED: assumption 27) -/
def lookupEcc (d : Dev) (t e : Nat) (x : Ecc) : Dev :=
  let frozen (k : Nat) : Bool := [tblL2, tblV4, tblV6, tblCan, tblHost].contains k && (d.tbVersion k e).2.2
  let host (l : Nat) : Bool := t == tblV6 && decide (tbSize tblV6 ≤ l)
  let own := d.tbEccIn t (frozen t) { x with failing := x.failing.filter fun l => !host l }
  own.tbEccIn tblHost (frozen tblHost) { failing := (x.failing.filter host).map (· - tbSize tblV6) }

/-- A table lookup completes, with its effects on the entry and its learn (R143, R144). (DEDUCED: assumption 27) -/
def lkupDone (d : Dev) (h : Hart) (k : TokId) (ecc : Ecc) : Dev :=
  match d.tokOp h k with
  | some (.lookup rd table k0 k1 learn) =>
    let d := d.lookupEcc table (d.hartEpoch h) ecc
    let (r, d') := d.lookupDo table (d.hartEpoch h) k0 k1 (d.hartLearn h learn) (!ecc.failing.isEmpty)
    let d := if d.shadowed h then d.inc .lsDebugDiscard 0 else d'
    if r.status = tokMemory then
      let (ws, d) := d.openWords
      d.tokEnd h k tokMemory rd ws
    else d.tokEnd h k r.status rd [r.r0, r.r1]
  | _ => d

/-! ### Blocks -/

/-- The blocks a core has to return. (DEDUCED: assumption 35) -/
def coreLoad (d : Dev) (n : Nat) : Nat :=
  let count (r : RegFile) : Nat :=
    (r.busy.filter fun e => match e.2 with | .cipher _ _ _ _ _ _ (some k) => k == n | _ => false).length
  ((d.eng.threads.map fun x => count x.2.rf) ++ (d.eng.mc.map fun x => count x.2.rf)).sum

/-- The usable set of a block of user `u` with the key `key` of slot `s` (R351, R355, R377). -/
def usableCores (d : Dev) (u s key : Nat) : List Nat := (d.blockCores u (d.blockAttr s key)).filter fun n => d.admits (uAc n)

/-- The users whose blocks wait for core `n`. -/
def coreWaiters (d : Dev) (n : Nat) : List Nat :=
  let ws (r : RegFile) : List Nat :=
    r.busy.filterMap fun e => match e.2 with
      | .cipher _ u s key _ _ none => if (d.usableCores u s key).contains n then some u else none
      | _ => none
  (d.eng.threads.flatMap fun x => ws x.2.rf) ++ (d.eng.mc.flatMap fun x => ws x.2.rf)

/-- The user whose turn it is at core `n`: ascending page order after the user it served last (R351). (DEDUCED: assumption 27) -/
def coreTurn (d : Dev) (n : Nat) : Option Nat :=
  let last := Sparse.get (fun _ => 17) d.cx.coreRr n
  ((List.range 18).map fun i => (last + 1 + i) % 18).find? (d.coreWaiters n).contains

/-- The core a block goes to: the fewest blocks outstanding, the lowest number on a tie (R351). (DEDUCED: assumption 27) -/
def coreFor (d : Dev) (u s key : Nat) : Option Nat :=
  (d.usableCores u s key).foldl (fun best n =>
    match best with
    | none => some n
    | some m => if d.coreLoad n < d.coreLoad m then some n else best) none

/-- The scheduler gives the waiting block of a token to a core; none of a half whose outputs are discarded (R460). -/
def blockSchedule (d : Dev) (h : Hart) (k : TokId) : Dev :=
  match d.tokOp h k with
  | some (.cipher rd u s key dec block none) =>
    if d.shadowed h then d
    else match d.coreFor u s key with
    | none => d
    | some n =>
      if d.coreTurn n = some u then
        let d := { d with cx := { d.cx with coreRr := Sparse.set (fun _ => 17) d.cx.coreRr n u } }
        d.setRf h ((d.rf h).setTok k.val { busy := true, op := some (.cipher rd u s key dec block (some n)) })
      else d
  | _ => d

/-- A core returns a block (R146); a QUIESCE that waited for the core may end with it (R353). The block of a half stopped by a
debug split is discarded, and what the half then reads is open (R460). (DEDUCED: assumption 22) -/
def blockDone (d : Dev) (h : Hart) (k : TokId) : Dev :=
  match d.tokOp h k with
  | some (.cipher rd _ _ key dec block core) =>
    if d.shadowed h then
      let (v, d) := d.fresh 128
      let d := (d.inc .lsDebugDiscard 0).tokEnd h k tokOk rd [v / 2 ^ 64, v % 2 ^ 64]
      match core with | some n => d.drainEnd (uAc n) | none => d
    else match core with
    | none => d
    | some n =>
    let (v, d) := if d.cx.faulty.contains (d.f idAcMap_PHYS n) then d.fresh 128 else (blockResult dec key block, d)
    ((d.inc .cxCoreBlocks n).tokEnd h k tokOk rd [v / 2 ^ 64, v % 2 ^ 64]).drainEnd (uAc n)
  | _ => d

/-! ### Message objects, alarms -/

/-- A message object operation acts at its one instant (R148, R149). -/
def moDone (d : Dev) (h : Hart) (k : TokId) : Dev :=
  match d.tokOp h k with
  | some (.object kind rd chan fmt ident words) =>
    if d.shadowed h && kind != 0 then (d.inc .lsDebugDiscard 0).tokEnd h k tokOk rd []
    else
      let (st, vals, d) := d.objectDo kind chan fmt ident words
      d.tokEnd h k st rd vals
  | _ => d

/-- The deadline of an armed token is reached in its domain's time, which a step of the domain moves (R96, R152). -/
def alarmExpiry (d : Dev) (h : Hart) (k : TokId) : Dev :=
  match d.tokOp h k with
  | some (.alarm td due) => if due ≤ d.domNow td then d.tokEnd h k tokOk 0 [] else d
  | _ => d

/-! ### Waiting -/

/-- Whether every token of a mask is idle, and whether all of them ended with OK (R93). -/
def maskIdle (r : RegFile) (mask : Nat) : Bool := (List.range 8).all fun k => !bitAt k mask || !(r.tokAt k).busy
def maskOk (r : RegFile) (mask : Nat) : Bool := (List.range 8).all fun k => !bitAt k mask || (r.tokAt k).status == tokOk

/-- WAIT completes: its predicate is written (R93, R153). -/
def waitEnd (d : Dev) (h : Hart) (mask pd : Nat) : Dev := d.complete h fun r => r.pput pd (maskOk r mask)

/-- Holding a hart in WAIT. -/
def waitHold (d : Dev) (h : Hart) (mask pd : Nat) : Dev :=
  match h with
  | .fe n t => d.setThr n.val t.val { d.thr n.val t.val with st := .wait, waitMask := mask, waitPd := pd }
  | .mc c => d.setMc c.val { d.mcCore c.val with st := .wait, waitMask := mask, waitPd := pd }

/-- What a hart in WAIT waits for. -/
def waitArgs (d : Dev) : Hart → Nat × Nat
  | .fe n t => ((d.thr n.val t.val).waitMask, (d.thr n.val t.val).waitPd)
  | .mc c => ((d.mcCore c.val).waitMask, (d.mcCore c.val).waitPd)

/-! ### Leave -/

/-- The handle of a grant as LEAVE returns it: nonzero, 16 bits (R150). (DEDUCED: assumption 26) -/
def leaveHandle (n : Nat) : Nat := (n - 1) % 65535 + 1

/-- Whether an account item is a LEAVE of some token with a handle. -/
def isLeave (handle : Nat) (x : PaItem) : Bool :=
  (match x.who with | .token _ _ => true | _ => false) && leaveHandle x.handle == handle

/-- Releasing the LEAVE grant a handle names, if it is still held (R150). -/
def leaveFree (d : Dev) (handle : Nat) : Dev :=
  [0, 1, 2, 3].foldl (fun d a =>
    let x := d.acct a
    if x.grants.any (isLeave handle) then d.setAcct a { x with grants := x.grants.filter fun i => !isLeave handle i } else d) d

/-- MATCH (R142): a search finds the rules as they stand when it begins (R171). -/
def iMatchKey (d : Dev) (h : Hart) (g : Guard) (rd ra : GReg) (set : Fin 16) (tk : TokId) : Dev :=
  d.issue h g (spanBad ra.val 8 || spanBad rd.val 2) (some tk.val)
    (spanRegs ra.val 8 ++ spanRegs rd.val 2) fun d =>
      let (hit, a) := d.search h set.val (matchKeyOf (d.rf h) ra.val)
      d.tokIssue h tk (.ruleSearch rd.val hit a)

/-- MATCH with ACT (R105, R142, R174): the thread goes on when the result is written. -/
def iMatchAct (d : Dev) (h : Hart) (g : Guard) (rd ra : GReg) (set : Fin 16) (ecc : Ecc) : Dev :=
  d.issue h g (d.noFrame h || spanBad ra.val 8 || spanBad rd.val 2) none
    (spanRegs ra.val 8 ++ spanRegs rd.val 2) fun d => d.onThread h fun _ _ x =>
      match x.acted with
      | some (rule, a) => d.actionDo h (.matchAct h g rd ra set ecc) rule a
      | none =>
        if ecc.failing.isEmpty = false then d.exc h excMemory
        else
          let (hit, a) := d.search h set.val (matchKeyOf x.rf ra.val)
          let d := (d.countHit h hit).setRf h (x.rf.putSpan rd.val (matchWords hit a))
          match hit with
          | some rule => d.actionDo h (.matchAct h g rd ra set ecc) rule a
          | none => d.complete h id

/-- LKUP (R143, R144). (DEDUCED: assumption 27) -/
def iLkup (d : Dev) (h : Hart) (g : Guard) (rd ra : GReg) (table : Fin 16) (learn : Bool) (tk : TokId) : Dev :=
  d.issue h g
    (decide (9 ≤ table.val) || (learn && (table.val != 0 || d.noFrame h)) || spanBad ra.val 2 || spanBad rd.val 2)
    (some tk.val) (spanRegs ra.val 2 ++ spanRegs rd.val 2) fun d =>
      let k0 := ((d.rf h).get ra.val).toNat
      let k1 := ((d.rf h).get (ra.val + 1)).toNat
      let port := bits 38 32 k0
      if table.val = tblCan ∧ (port < 32 ∨ 79 < port) then d.exc h excPort
      else d.tokIssue h tk (.lookup rd.val table.val k0 k1 learn)

/-- The acting user of R146, and whether its job is of the CMAC/SecOC class (R373). -/
def actingUser (d : Dev) : Hart → Nat × Bool
  | .fe n t =>
    let x := d.thr n.val t.val
    if x.kind = .crypto then (x.user, x.entry0 == 197) else (17, true)
  | .mc _ => (16, false)

/-- A block is issued, or refused at once (R146). -/
def blockIssue (d : Dev) (h : Hart) (g : Guard) (rd ra : GReg) (tk : TokId) (dec : Bool) : Dev :=
  d.issue h g (spanBad ra.val 3 || spanBad rd.val 2) (some tk.val) (spanRegs ra.val 3 ++ spanRegs rd.val 2) fun d =>
    let r := d.rf h
    let (u, cmac) := d.actingUser h
    let ref := (r.get (ra.val + 2)).toNat
    let s := bits 11 0 ref
    match d.blockRefused u s (bits 19 12 ref) dec cmac with
    | some st => (d.inc (if st = tokKeyDenied then .ksKeyDenied else .ksStaleKey) 0).tokAtOnce h tk st
    | none =>
      let block := (r.get ra.val).toNat * 2 ^ 64 + (r.get (ra.val + 1)).toNat
      d.tokIssue h tk (.cipher rd.val u s (packKey (atGen (d.slotAttr s)) (d.slotKey s)) dec block none)

/-- AESE (R146). -/
def iAese (d : Dev) (h : Hart) (g : Guard) (rd ra : GReg) (tk : TokId) : Dev :=
  d.blockIssue h g rd ra tk false

/-- AESD (R146). -/
def iAesd (d : Dev) (h : Hart) (g : Guard) (rd ra : GReg) (tk : TokId) : Dev :=
  d.blockIssue h g rd ra tk true

/-- A message object operation is issued (R148): kind 0 MOR, 1 MOW, 2 MOACK. -/
def objectIssue (d : Dev) (h : Hart) (g : Guard) (ill : Bool) (kind : Nat) (rd ra : Nat) (tk : TokId)
    (regs : List Nat) (words : RegFile → List Nat) : Dev :=
  d.issue h g ill (some tk.val) (ra :: regs) fun d =>
    let v := ((d.rf h).get ra).toNat
    let port := bits 38 32 v
    if port < 32 ∨ 79 < port then d.exc h excPort
    else d.tokIssue h tk (.object kind rd port (bits 30 29 v) (bits 28 0 v) (words (d.rf h)))

/-- MOR (R148). -/
def iMor (d : Dev) (h : Hart) (g : Guard) (rd ra : GReg) (tk : TokId) : Dev :=
  d.objectIssue h g (spanBad rd.val 9) 0 rd.val ra.val tk (spanRegs rd.val 9) fun _ => []

/-- MOW (R148). -/
def iMow (d : Dev) (h : Hart) (g : Guard) (rd ra : GReg) (tk : TokId) : Dev :=
  d.objectIssue h g (spanBad rd.val 9) 1 0 ra.val tk (spanRegs rd.val 9) fun r =>
    (spanRegs rd.val 9).map fun n => (r.get n).toNat

/-- MOACK (R148). -/
def iMoack (d : Dev) (h : Hart) (g : Guard) (ra : GReg) (tk : TokId) : Dev :=
  d.objectIssue h g false 2 0 ra.val tk [] fun _ => []

/-- LEAVE (R68, R150): a request that cannot be granted is denied at once, and so is one of a half whose outputs are discarded
(R460). (DEDUCED: assumption 22) -/
def iLeave (d : Dev) (h : Hart) (g : Guard) (rd ra : GReg) (budget : Fin 4) (tk : TokId) : Dev :=
  d.issue h g false (some tk.val) [rd.val, ra.val] fun d =>
    let cost := ((d.rf h).get ra.val).toNat % 65536
    if cost = 0 then d.tokAtOnce h tk tokOk fun r => r.put rd.val 0
    else if d.shadowed h then (d.inc .lsDebugDiscard 0).tokAtOnce h tk tokDenied fun r => r.put rd.val 0
    else match d.paRequest budget.val (.token (hartKey h) tk.val) cost with
      | (some n, d) => d.tokIssue h tk (.leave rd.val n)
      | (none, d) => d.tokAtOnce h tk tokDenied fun r => r.put rd.val 0

/-- LEAVE with REL = 1 (R150). -/
def iLeaveRel (d : Dev) (h : Hart) (g : Guard) (ra : GReg) (tk : TokId) : Dev :=
  d.issue h g false (some tk.val) [ra.val] fun d =>
    (d.outward h fun d => d.leaveFree (((d.rf h).get ra.val).toNat % 65536)).tokAtOnce h tk tokOk

/-- TNOW (R151). -/
def iTnow (d : Dev) (h : Hart) (g : Guard) (rd : GReg) (td : Fin 4) : Dev :=
  d.issue h g false none [rd.val] fun d =>
    d.complete h fun r => r.put rd.val (BitVec.ofNat 64 (d.domNow td.val))

/-- TARM (R96, R152). -/
def iTarm (d : Dev) (h : Hart) (g : Guard) (ra : GReg) (td : Fin 4) (rel : Bool) (tk : TokId) : Dev :=
  d.issue h g false (some tk.val) [ra.val] fun d =>
    let v := ((d.rf h).get ra.val).toNat
    let now := d.domNow td.val
    let due := if rel then (now + v) % 2 ^ 64 else v
    if due ≤ now then d.tokAtOnce h tk tokOk
    else if now + 1000 * d.f feWaitTmo_TMO_US 0 < due then d.tokAtOnce h tk tokTooFar
    else d.tokIssue h tk (.alarm td.val due)

/-- WAIT (R93, R153). -/
def iWait (d : Dev) (h : Hart) (g : Guard) (tmask : BitVec 8) (pd : PReg) : Dev :=
  d.issue h g false none [] fun d =>
    if maskIdle (d.rf h) tmask.toNat then d.waitEnd h tmask.toNat pd.val else d.waitHold h tmask.toNat pd.val

end Dev

/-! ### The commands -/

def execMatchKey (h : Hart) (g : Guard) (rd ra : GReg) (set : Fin 16) (tk : TokId) (s : State) : Host.Outcome State Fault Refusal :=
  s.logic fun d => d.iMatchKey h g rd ra set tk

def execMatchAct (h : Hart) (g : Guard) (rd ra : GReg) (set : Fin 16) (ecc : Ecc) (s : State) : Host.Outcome State Fault Refusal :=
  s.logic fun d => d.iMatchAct h g rd ra set ecc

def execLkup (h : Hart) (g : Guard) (rd ra : GReg) (table : Fin 16) (learn : Bool) (tk : TokId) (s : State) : Host.Outcome State Fault Refusal :=
  s.logic fun d => d.iLkup h g rd ra table learn tk

def execAese (h : Hart) (g : Guard) (rd ra : GReg) (tk : TokId) (s : State) : Host.Outcome State Fault Refusal :=
  s.logic fun d => d.iAese h g rd ra tk

def execAesd (h : Hart) (g : Guard) (rd ra : GReg) (tk : TokId) (s : State) : Host.Outcome State Fault Refusal :=
  s.logic fun d => d.iAesd h g rd ra tk

def execMor (h : Hart) (g : Guard) (rd ra : GReg) (tk : TokId) (s : State) : Host.Outcome State Fault Refusal :=
  s.logic fun d => d.iMor h g rd ra tk

def execMow (h : Hart) (g : Guard) (rd ra : GReg) (tk : TokId) (s : State) : Host.Outcome State Fault Refusal :=
  s.logic fun d => d.iMow h g rd ra tk

def execMoack (h : Hart) (g : Guard) (ra : GReg) (tk : TokId) (s : State) : Host.Outcome State Fault Refusal :=
  s.logic fun d => d.iMoack h g ra tk

def execLeave (h : Hart) (g : Guard) (rd ra : GReg) (budget : Fin 4) (tk : TokId) (s : State) : Host.Outcome State Fault Refusal :=
  s.logic fun d => d.iLeave h g rd ra budget tk

def execLeaveRel (h : Hart) (g : Guard) (ra : GReg) (tk : TokId) (s : State) : Host.Outcome State Fault Refusal :=
  s.logic fun d => d.iLeaveRel h g ra tk

def execTnow (h : Hart) (g : Guard) (rd : GReg) (td : Fin 4) (s : State) : Host.Outcome State Fault Refusal :=
  s.logic fun d => d.iTnow h g rd td

def execTarm (h : Hart) (g : Guard) (ra : GReg) (td : Fin 4) (rel : Bool) (tk : TokId) (s : State) : Host.Outcome State Fault Refusal :=
  s.logic fun d => d.iTarm h g ra td rel tk

def execWait (h : Hart) (g : Guard) (tmask : BitVec 8) (pd : PReg) (s : State) : Host.Outcome State Fault Refusal :=
  s.logic fun d => d.iWait h g tmask pd

end Sys2Proof.Machine
end

