-- ==== Sys2Proof/Machine/Integer.lean ====
section
/-! DEFINITION. The integer operations of Porros, its bit fields, selection, compares, predicate operations and branches
(R122 to R130). Each instruction is an operation of the device, which an instruction held under R75 issues again, and the
command's meaning. -/
namespace Sys2Proof.Machine
namespace Dev

/-- A two-operand integer operation (R122). -/
def alu2 (d : Dev) (h : Hart) (g : Guard) (rd ra rb : GReg) (f : Word64 → Word64 → Word64) : Dev :=
  d.alu h g false [ra.val, rb.val] rd.val fun r => f (r.get ra.val) (r.get rb.val)

/-- A one-operand integer operation (R122, R123). -/
def alu1 (d : Dev) (h : Hart) (g : Guard) (rd ra : GReg) (f : Word64 → Word64) : Dev :=
  d.alu h g false [ra.val] rd.val fun r => f (r.get ra.val)

/-- A predicate operation (R128). -/
def palu (d : Dev) (h : Hart) (g : Guard) (pt pa pb : PReg) (f : Bool → Bool → Bool) : Dev :=
  d.issue h g false none [] fun d => d.complete h fun r => r.pput pt.val (f (r.pget pa.val) (r.pget pb.val))

/-- A compare (R127): the predicate that both results name receives the condition. -/
def compare (d : Dev) (h : Hart) (g : Guard) (pt pf : PReg) (regs : List Nat) (cc : Nat)
    (a b : RegFile → Word64) : Dev :=
  d.issue h g (cc == 7) none regs fun d => d.complete h fun r =>
    let c := ccHolds cc (a r) (b r)
    (r.pput pf.val (!c)).pput pt.val c

/-- Shifts and rotates take the low six bits of the second operand (R122). -/
def shiftBy (f : Word64 → Nat → Word64) (a b : Word64) : Word64 := f a (b.toNat % 64)

/-- A 12-bit immediate, sign-extended and zero-extended (R123). -/
def simm (v : BitVec 12) : Word64 := v.signExtend 64
def zimm (v : BitVec 12) : Word64 := v.zeroExtend 64

/-- ADD (R122). -/
def iAdd (d : Dev) (h : Hart) (g : Guard) (rd ra rb : GReg) : Dev :=
  d.alu2 h g rd ra rb fun a b => a + b

/-- SUB (R122). -/
def iSub (d : Dev) (h : Hart) (g : Guard) (rd ra rb : GReg) : Dev :=
  d.alu2 h g rd ra rb fun a b => a - b

/-- AND (R122). -/
def iAnd (d : Dev) (h : Hart) (g : Guard) (rd ra rb : GReg) : Dev :=
  d.alu2 h g rd ra rb fun a b => a &&& b

/-- OR (R122). -/
def iOr (d : Dev) (h : Hart) (g : Guard) (rd ra rb : GReg) : Dev :=
  d.alu2 h g rd ra rb fun a b => a ||| b

/-- XOR (R122). -/
def iXor (d : Dev) (h : Hart) (g : Guard) (rd ra rb : GReg) : Dev :=
  d.alu2 h g rd ra rb fun a b => a ^^^ b

/-- ANDN (R122). -/
def iAndn (d : Dev) (h : Hart) (g : Guard) (rd ra rb : GReg) : Dev :=
  d.alu2 h g rd ra rb fun a b => a &&& ~~~b

/-- SHL (R122). -/
def iShl (d : Dev) (h : Hart) (g : Guard) (rd ra rb : GReg) : Dev :=
  d.alu2 h g rd ra rb (shiftBy (fun a s => a <<< s))

/-- SHR (R122). -/
def iShr (d : Dev) (h : Hart) (g : Guard) (rd ra rb : GReg) : Dev :=
  d.alu2 h g rd ra rb (shiftBy (fun a s => a >>> s))

/-- SAR (R122). -/
def iSar (d : Dev) (h : Hart) (g : Guard) (rd ra rb : GReg) : Dev :=
  d.alu2 h g rd ra rb (shiftBy (fun a s => a.sshiftRight s))

/-- ROL (R122). -/
def iRol (d : Dev) (h : Hart) (g : Guard) (rd ra rb : GReg) : Dev :=
  d.alu2 h g rd ra rb (shiftBy rolBits)

/-- ROR (R122). -/
def iRor (d : Dev) (h : Hart) (g : Guard) (rd ra rb : GReg) : Dev :=
  d.alu2 h g rd ra rb (shiftBy rorBits)

/-- MUL (R122). -/
def iMul (d : Dev) (h : Hart) (g : Guard) (rd ra rb : GReg) : Dev :=
  d.alu2 h g rd ra rb fun a b => a * b

/-- MULHU (R122). -/
def iMulhu (d : Dev) (h : Hart) (g : Guard) (rd ra rb : GReg) : Dev :=
  d.alu2 h g rd ra rb fun a b => BitVec.ofNat 64 (a.toNat * b.toNat / 2 ^ 64)

/-- MIN (R122). -/
def iMin (d : Dev) (h : Hart) (g : Guard) (rd ra rb : GReg) : Dev :=
  d.alu2 h g rd ra rb fun a b => if a.slt b then a else b

/-- MAX (R122). -/
def iMax (d : Dev) (h : Hart) (g : Guard) (rd ra rb : GReg) : Dev :=
  d.alu2 h g rd ra rb fun a b => if a.slt b then b else a

/-- MINU (R122). -/
def iMinu (d : Dev) (h : Hart) (g : Guard) (rd ra rb : GReg) : Dev :=
  d.alu2 h g rd ra rb fun a b => if a.ult b then a else b

/-- MAXU (R122). -/
def iMaxu (d : Dev) (h : Hart) (g : Guard) (rd ra rb : GReg) : Dev :=
  d.alu2 h g rd ra rb fun a b => if a.ult b then b else a

/-- POPC (R122). -/
def iPopc (d : Dev) (h : Hart) (g : Guard) (rd ra : GReg) : Dev :=
  d.alu1 h g rd ra fun a => BitVec.ofNat 64 (popBits a)

/-- CLZ (R122). -/
def iClz (d : Dev) (h : Hart) (g : Guard) (rd ra : GReg) : Dev :=
  d.alu1 h g rd ra fun a => BitVec.ofNat 64 (clzBits a)

/-- CTZ (R122). -/
def iCtz (d : Dev) (h : Hart) (g : Guard) (rd ra : GReg) : Dev :=
  d.alu1 h g rd ra fun a => BitVec.ofNat 64 (ctzBits a)

/-- BSWAP (R122). -/
def iBswap (d : Dev) (h : Hart) (g : Guard) (rd ra : GReg) : Dev :=
  d.alu1 h g rd ra fun a => swapBytes a

/-- ADDI (R123). -/
def iAddi (d : Dev) (h : Hart) (g : Guard) (rd ra : GReg) (imm : BitVec 12) : Dev :=
  d.alu1 h g rd ra fun a => a + simm imm

/-- ANDI (R123). -/
def iAndi (d : Dev) (h : Hart) (g : Guard) (rd ra : GReg) (imm : BitVec 12) : Dev :=
  d.alu1 h g rd ra fun a => a &&& zimm imm

/-- ORI (R123). -/
def iOri (d : Dev) (h : Hart) (g : Guard) (rd ra : GReg) (imm : BitVec 12) : Dev :=
  d.alu1 h g rd ra fun a => a ||| zimm imm

/-- XORI (R123). -/
def iXori (d : Dev) (h : Hart) (g : Guard) (rd ra : GReg) (imm : BitVec 12) : Dev :=
  d.alu1 h g rd ra fun a => a ^^^ zimm imm

/-- SHLI (R123). -/
def iShli (d : Dev) (h : Hart) (g : Guard) (rd ra : GReg) (amt : Fin 64) : Dev :=
  d.alu1 h g rd ra fun a => a <<< amt.val

/-- SHRI (R123). -/
def iShri (d : Dev) (h : Hart) (g : Guard) (rd ra : GReg) (amt : Fin 64) : Dev :=
  d.alu1 h g rd ra fun a => a >>> amt.val

/-- SARI (R123). -/
def iSari (d : Dev) (h : Hart) (g : Guard) (rd ra : GReg) (amt : Fin 64) : Dev :=
  d.alu1 h g rd ra fun a => a.sshiftRight amt.val

/-- ROLI (R123). -/
def iRoli (d : Dev) (h : Hart) (g : Guard) (rd ra : GReg) (amt : Fin 64) : Dev :=
  d.alu1 h g rd ra fun a => rolBits a amt.val

/-- RORI (R123). -/
def iRori (d : Dev) (h : Hart) (g : Guard) (rd ra : GReg) (amt : Fin 64) : Dev :=
  d.alu1 h g rd ra fun a => rorBits a amt.val

/-- MOVZ, which has no guard (R84, R124). -/
def iMovz (d : Dev) (h : Hart) (rd : GReg) (hw : Fin 4) (imm : BitVec 16) : Dev :=
  d.alu h noGuard false [] rd.val fun _ => lanePut 0 hw.val imm.toNat

/-- MOVK (R124). -/
def iMovk (d : Dev) (h : Hart) (rd : GReg) (hw : Fin 4) (imm : BitVec 16) : Dev :=
  d.alu h noGuard false [rd.val] rd.val fun r => lanePut (r.get rd.val) hw.val imm.toNat

/-- EXTR (R125); a field beyond bit 63 is ILLEGAL (R86). -/
def iExtr (d : Dev) (h : Hart) (g : Guard) (rd ra : GReg) (pos lenm1 : Fin 64) : Dev :=
  d.alu h g (decide (64 < pos.val + lenm1.val + 1)) [ra.val] rd.val fun r => fieldOf (r.get ra.val) pos.val (lenm1.val + 1)

/-- EXTRS (R125). -/
def iExtrs (d : Dev) (h : Hart) (g : Guard) (rd ra : GReg) (pos lenm1 : Fin 64) : Dev :=
  d.alu h g (decide (64 < pos.val + lenm1.val + 1)) [ra.val] rd.val fun r =>
    sextBits (lenm1.val + 1) (fieldOf (r.get ra.val) pos.val (lenm1.val + 1))

/-- INSR (R125). -/
def iInsr (d : Dev) (h : Hart) (g : Guard) (rd ra : GReg) (pos lenm1 : Fin 64) : Dev :=
  d.alu h g (decide (64 < pos.val + lenm1.val + 1)) [ra.val, rd.val] rd.val fun r =>
    fieldPut (r.get rd.val) (r.get ra.val) pos.val (lenm1.val + 1)

/-- SEL (R126). -/
def iSel (d : Dev) (h : Hart) (g : Guard) (rd ra rb : GReg) (ps : PReg) : Dev :=
  d.alu h g false [ra.val, rb.val] rd.val fun r => if r.pget ps.val then r.get ra.val else r.get rb.val

/-- CMP (R127). -/
def iCmp (d : Dev) (h : Hart) (g : Guard) (pt pf : PReg) (ra rb : GReg) (cc : Fin 8) : Dev :=
  d.compare h g pt pf [ra.val, rb.val] cc.val (fun r => r.get ra.val) (fun r => r.get rb.val)

/-- CMPI: the immediate is sign-extended under every condition (R127). -/
def iCmpi (d : Dev) (h : Hart) (g : Guard) (pt pf : PReg) (ra : GReg) (cc : Fin 8) (imm : BitVec 8) : Dev :=
  d.compare h g pt pf [ra.val] cc.val (fun r => r.get ra.val) (fun _ => imm.signExtend 64)

/-- PAND (R128). -/
def iPand (d : Dev) (h : Hart) (g : Guard) (pt pa pb : PReg) : Dev :=
  d.palu h g pt pa pb fun a b => a && b

/-- POR (R128). -/
def iPor (d : Dev) (h : Hart) (g : Guard) (pt pa pb : PReg) : Dev :=
  d.palu h g pt pa pb fun a b => a || b

/-- PXOR (R128). -/
def iPxor (d : Dev) (h : Hart) (g : Guard) (pt pa pb : PReg) : Dev :=
  d.palu h g pt pa pb fun a b => a != b

/-- PANDN (R128). -/
def iPandn (d : Dev) (h : Hart) (g : Guard) (pt pa pb : PReg) : Dev :=
  d.palu h g pt pa pb fun a b => a && !b

/-- The target of a branch: the offset counts instructions (R129). -/
def branchTo (h : Hart) (pc : Word64) (off : BitVec 22) : Word64 := pc + off.signExtend 64 * BitVec.ofNat 64 (pcStep h)

/-- The link of CALL and JR: where the next instruction is (R129, R130). -/
def linkOf (h : Hart) (pc : Word64) : Word64 := pc + BitVec.ofNat 64 (pcStep h)

/-- BR (R129). -/
def iBr (d : Dev) (h : Hart) (g : Guard) (off : BitVec 22) : Dev :=
  d.issue h g false none [] fun d => d.jump h id (branchTo h (d.rf h).pc off)

/-- CALL (R129). -/
def iCall (d : Dev) (h : Hart) (g : Guard) (off : BitVec 22) : Dev :=
  d.issue h g false none [31] fun d =>
    let pc := (d.rf h).pc
    d.jump h (fun r => r.put 31 (linkOf h pc)) (branchTo h pc off)

/-- JR: the target is taken before the link is written (R130). -/
def iJr (d : Dev) (h : Hart) (g : Guard) (rd ra : GReg) (imm : BitVec 12) : Dev :=
  d.issue h g false none [rd.val, ra.val] fun d =>
    let pc := (d.rf h).pc
    d.jump h (fun r => r.put rd.val (linkOf h pc)) ((d.rf h).get ra.val + simm imm * BitVec.ofNat 64 (pcStep h))

end Dev

/-! ### The commands -/

def execAdd (h : Hart) (g : Guard) (rd ra rb : GReg) (s : State) : Host.Outcome State Fault Refusal :=
  s.logic fun d => d.iAdd h g rd ra rb

def execSub (h : Hart) (g : Guard) (rd ra rb : GReg) (s : State) : Host.Outcome State Fault Refusal :=
  s.logic fun d => d.iSub h g rd ra rb

def execAnd (h : Hart) (g : Guard) (rd ra rb : GReg) (s : State) : Host.Outcome State Fault Refusal :=
  s.logic fun d => d.iAnd h g rd ra rb

def execOr (h : Hart) (g : Guard) (rd ra rb : GReg) (s : State) : Host.Outcome State Fault Refusal :=
  s.logic fun d => d.iOr h g rd ra rb

def execXor (h : Hart) (g : Guard) (rd ra rb : GReg) (s : State) : Host.Outcome State Fault Refusal :=
  s.logic fun d => d.iXor h g rd ra rb

def execAndn (h : Hart) (g : Guard) (rd ra rb : GReg) (s : State) : Host.Outcome State Fault Refusal :=
  s.logic fun d => d.iAndn h g rd ra rb

def execShl (h : Hart) (g : Guard) (rd ra rb : GReg) (s : State) : Host.Outcome State Fault Refusal :=
  s.logic fun d => d.iShl h g rd ra rb

def execShr (h : Hart) (g : Guard) (rd ra rb : GReg) (s : State) : Host.Outcome State Fault Refusal :=
  s.logic fun d => d.iShr h g rd ra rb

def execSar (h : Hart) (g : Guard) (rd ra rb : GReg) (s : State) : Host.Outcome State Fault Refusal :=
  s.logic fun d => d.iSar h g rd ra rb

def execRol (h : Hart) (g : Guard) (rd ra rb : GReg) (s : State) : Host.Outcome State Fault Refusal :=
  s.logic fun d => d.iRol h g rd ra rb

def execRor (h : Hart) (g : Guard) (rd ra rb : GReg) (s : State) : Host.Outcome State Fault Refusal :=
  s.logic fun d => d.iRor h g rd ra rb

def execMul (h : Hart) (g : Guard) (rd ra rb : GReg) (s : State) : Host.Outcome State Fault Refusal :=
  s.logic fun d => d.iMul h g rd ra rb

def execMulhu (h : Hart) (g : Guard) (rd ra rb : GReg) (s : State) : Host.Outcome State Fault Refusal :=
  s.logic fun d => d.iMulhu h g rd ra rb

def execMin (h : Hart) (g : Guard) (rd ra rb : GReg) (s : State) : Host.Outcome State Fault Refusal :=
  s.logic fun d => d.iMin h g rd ra rb

def execMax (h : Hart) (g : Guard) (rd ra rb : GReg) (s : State) : Host.Outcome State Fault Refusal :=
  s.logic fun d => d.iMax h g rd ra rb

def execMinu (h : Hart) (g : Guard) (rd ra rb : GReg) (s : State) : Host.Outcome State Fault Refusal :=
  s.logic fun d => d.iMinu h g rd ra rb

def execMaxu (h : Hart) (g : Guard) (rd ra rb : GReg) (s : State) : Host.Outcome State Fault Refusal :=
  s.logic fun d => d.iMaxu h g rd ra rb

def execPopc (h : Hart) (g : Guard) (rd ra : GReg) (s : State) : Host.Outcome State Fault Refusal :=
  s.logic fun d => d.iPopc h g rd ra

def execClz (h : Hart) (g : Guard) (rd ra : GReg) (s : State) : Host.Outcome State Fault Refusal :=
  s.logic fun d => d.iClz h g rd ra

def execCtz (h : Hart) (g : Guard) (rd ra : GReg) (s : State) : Host.Outcome State Fault Refusal :=
  s.logic fun d => d.iCtz h g rd ra

def execBswap (h : Hart) (g : Guard) (rd ra : GReg) (s : State) : Host.Outcome State Fault Refusal :=
  s.logic fun d => d.iBswap h g rd ra

def execAddi (h : Hart) (g : Guard) (rd ra : GReg) (imm : BitVec 12) (s : State) : Host.Outcome State Fault Refusal :=
  s.logic fun d => d.iAddi h g rd ra imm

def execAndi (h : Hart) (g : Guard) (rd ra : GReg) (imm : BitVec 12) (s : State) : Host.Outcome State Fault Refusal :=
  s.logic fun d => d.iAndi h g rd ra imm

def execOri (h : Hart) (g : Guard) (rd ra : GReg) (imm : BitVec 12) (s : State) : Host.Outcome State Fault Refusal :=
  s.logic fun d => d.iOri h g rd ra imm

def execXori (h : Hart) (g : Guard) (rd ra : GReg) (imm : BitVec 12) (s : State) : Host.Outcome State Fault Refusal :=
  s.logic fun d => d.iXori h g rd ra imm

def execShli (h : Hart) (g : Guard) (rd ra : GReg) (amt : Fin 64) (s : State) : Host.Outcome State Fault Refusal :=
  s.logic fun d => d.iShli h g rd ra amt

def execShri (h : Hart) (g : Guard) (rd ra : GReg) (amt : Fin 64) (s : State) : Host.Outcome State Fault Refusal :=
  s.logic fun d => d.iShri h g rd ra amt

def execSari (h : Hart) (g : Guard) (rd ra : GReg) (amt : Fin 64) (s : State) : Host.Outcome State Fault Refusal :=
  s.logic fun d => d.iSari h g rd ra amt

def execRoli (h : Hart) (g : Guard) (rd ra : GReg) (amt : Fin 64) (s : State) : Host.Outcome State Fault Refusal :=
  s.logic fun d => d.iRoli h g rd ra amt

def execRori (h : Hart) (g : Guard) (rd ra : GReg) (amt : Fin 64) (s : State) : Host.Outcome State Fault Refusal :=
  s.logic fun d => d.iRori h g rd ra amt

def execMovz (h : Hart) (rd : GReg) (hw : Fin 4) (imm : BitVec 16) (s : State) : Host.Outcome State Fault Refusal :=
  s.logic fun d => d.iMovz h rd hw imm

def execMovk (h : Hart) (rd : GReg) (hw : Fin 4) (imm : BitVec 16) (s : State) : Host.Outcome State Fault Refusal :=
  s.logic fun d => d.iMovk h rd hw imm

def execExtr (h : Hart) (g : Guard) (rd ra : GReg) (pos lenm1 : Fin 64) (s : State) : Host.Outcome State Fault Refusal :=
  s.logic fun d => d.iExtr h g rd ra pos lenm1

def execExtrs (h : Hart) (g : Guard) (rd ra : GReg) (pos lenm1 : Fin 64) (s : State) : Host.Outcome State Fault Refusal :=
  s.logic fun d => d.iExtrs h g rd ra pos lenm1

def execInsr (h : Hart) (g : Guard) (rd ra : GReg) (pos lenm1 : Fin 64) (s : State) : Host.Outcome State Fault Refusal :=
  s.logic fun d => d.iInsr h g rd ra pos lenm1

def execSel (h : Hart) (g : Guard) (rd ra rb : GReg) (ps : PReg) (s : State) : Host.Outcome State Fault Refusal :=
  s.logic fun d => d.iSel h g rd ra rb ps

def execCmp (h : Hart) (g : Guard) (pt pf : PReg) (ra rb : GReg) (cc : Fin 8) (s : State) : Host.Outcome State Fault Refusal :=
  s.logic fun d => d.iCmp h g pt pf ra rb cc

def execCmpi (h : Hart) (g : Guard) (pt pf : PReg) (ra : GReg) (cc : Fin 8) (imm : BitVec 8) (s : State) : Host.Outcome State Fault Refusal :=
  s.logic fun d => d.iCmpi h g pt pf ra cc imm

def execPand (h : Hart) (g : Guard) (pt pa pb : PReg) (s : State) : Host.Outcome State Fault Refusal :=
  s.logic fun d => d.iPand h g pt pa pb

def execPor (h : Hart) (g : Guard) (pt pa pb : PReg) (s : State) : Host.Outcome State Fault Refusal :=
  s.logic fun d => d.iPor h g pt pa pb

def execPxor (h : Hart) (g : Guard) (pt pa pb : PReg) (s : State) : Host.Outcome State Fault Refusal :=
  s.logic fun d => d.iPxor h g pt pa pb

def execPandn (h : Hart) (g : Guard) (pt pa pb : PReg) (s : State) : Host.Outcome State Fault Refusal :=
  s.logic fun d => d.iPandn h g pt pa pb

def execBr (h : Hart) (g : Guard) (off : BitVec 22) (s : State) : Host.Outcome State Fault Refusal :=
  s.logic fun d => d.iBr h g off

def execCall (h : Hart) (g : Guard) (off : BitVec 22) (s : State) : Host.Outcome State Fault Refusal :=
  s.logic fun d => d.iCall h g off

def execJr (h : Hart) (g : Guard) (rd ra : GReg) (imm : BitVec 12) (s : State) : Host.Outcome State Fault Refusal :=
  s.logic fun d => d.iJr h g rd ra imm

end Sys2Proof.Machine
end

