-- ==== Sys2Proof/Machine/SpecialRegs.lean ====
section
/-! DEFINITION. Special registers, program counters and the system operations (R78, R138 to R140), the privileged instructions
with their system registers (R114, R115, R157), and the interrupts of the management cores. -/
namespace Sys2Proof.Machine
namespace Dev

/-! ### Special registers (R78) -/

def tokBusy (r : RegFile) : Nat := ((List.range 8).map fun k => if (r.tokAt k).busy then 2 ^ k else 0).sum
def tokStats (r : RegFile) : Nat := ((List.range 8).map fun k => (r.tokAt k).status % 16 * 16 ^ k).sum

/-- The special register `num` of a thread; none for a number that is not in the table. (DEDUCED: assumption 18) -/
def feSpecial (d : Dev) (n t num : Nat) : Option Nat :=
  let x := d.thr n t
  let fr (v : Nat) : Option Nat := some (if x.kind = .frame then v else 0)
  match num with
  | 0x000 => some (threadId n t)
  | 0x001 => some (match x.kind with | .frame => 0 | .trigger => 1 | .crypto => 2)
  | 0x002 => fr x.src.pass
  | 0x003 => some x.epoch
  | 0x004 => fr (x.src.seq % 2 ^ 32)
  | 0x005 => fr x.src.port
  | 0x006 => fr x.out.length
  | 0x007 => fr x.fwBase
  | 0x008 => fr x.src.rxTime
  | 0x009 => fr x.src.rxStatus
  | 0x00A => fr x.cls
  | 0x00B => fr x.src.hash
  | 0x00C => some x.entry
  | 0x00D => some (x.budget - x.icount)
  | 0x00E => some x.icount
  | 0x00F => some (tokBusy x.rf)
  | 0x010 => some (tokStats x.rf)
  | 0x011 => some (d.f feSetSlotState_SET_ID (4 * (n / 8) + x.slot))
  | 0x012 => some x.mode
  | 0x020 => some (x.args.getD 0 0)
  | 0x021 => some (x.args.getD 1 0)
  | 0x022 => some (x.args.getD 2 0)
  | 0x023 => some (x.args.getD 3 0)
  | _ => none

/-- The width of a special register whose value on a management core the spec leaves open. (DEDUCED: assumption 20) -/
def mcOpenWidth (num : Nat) : Option Nat :=
  match num with
  | 0x000 => some 8
  | 0x001 => some 2
  | 0x00C => some 8
  | 0x00D => some 15
  | 0x00E => some 15
  | 0x011 => some 16
  | _ => none

/-- The special register `num` of a management core where its value is fixed (R78, R112). (DEDUCED: assumption 20) -/
def mcSpecial (d : Dev) (c num : Nat) : Option Nat :=
  match num with
  | 0x00F => some (tokBusy (d.mcCore c).rf)
  | 0x010 => some (tokStats (d.mcCore c).rf)
  | 0x012 => some d.mode
  | 0x020 => some 0
  | 0x021 => some 0
  | 0x022 => some 0
  | 0x023 => some 0
  | _ => none

/-- What MFS reads; none is ILLEGAL. -/
def special (d : Dev) (h : Hart) (num : Nat) : Option (Nat × Dev) :=
  match h with
  | .fe n t => (d.feSpecial n.val t.val num).map fun v => (v, d)
  | .mc c =>
    match mcOpenWidth num with
    | some w => some (d.fresh w)
    | none => (d.mcSpecial c.val num).map fun v => (v, d)

/-- Whether MTS may write special register `num`: %frame_class in a frame job (R78). On a management core, which has no frame,
it is ILLEGAL as the MFS of a frame register is (R112). (DESIGN CHOICE: assumption 54) -/
def mayMts (d : Dev) (h : Hart) (num : Nat) : Bool :=
  match h with
  | .fe n t => num == 0x00A && (d.thr n.val t.val).kind == .frame
  | .mc _ => false

/-- Writing %frame_class; bits [7:6] of the value are ignored (R138). -/
def setClass (d : Dev) (h : Hart) (v : Nat) : Dev :=
  match h with
  | .fe n t => d.setThr n.val t.val { d.thr n.val t.val with cls := v % 64 }
  | .mc _ => d

/-! ### System registers (R114) -/

/-- IRQPEND: a bit for each line. (DEDUCED: assumption 20) -/
def irqPend (d : Dev) (c : Nat) : Nat := ((List.range 32).map fun l => if d.mcPends c l then 2 ^ l else 0).sum

/-- The system register `num` of a core; none for a number that is not in the table. (DEDUCED: assumption 18) -/
def sysRead (d : Dev) (c num : Nat) : Option Nat :=
  let x := d.mcCore c
  match num with
  | 0x000 => some c
  | 0x001 => some 0x101
  | 0x004 => some x.ctl
  | 0x005 => some x.trapBase
  | 0x006 => some x.trapPc
  | 0x007 => some x.trapWhy
  | 0x008 => some x.trapAddr
  | 0x00C => some x.spare0.toNat
  | 0x00D => some x.spare1.toNat
  | 0x010 => some x.irqMask
  | 0x011 => some (d.irqPend c)
  | 0x018 => some x.alarm
  | 0x01C => some x.retCount.toNat
  | _ =>
    if 0x40 ≤ num ∧ num < 0x50 then
      some (Sparse.get (fun _ => 0) (if num % 2 = 0 then x.winBase else x.winCfg) ((num - 0x40) / 2))
    else none

/-- A core with system register `num` written; none where it is RO or not in the table (R157). The widths of the registers that R114
gives none are the model's. (DESIGN CHOICE: assumption 53) -/
def sysWrite (x : McCore) (num : Nat) (v : Word64) : Option McCore :=
  let w := v.toNat % 2 ^ 32
  match num with
  | 0x004 => some { x with ctl := w &&& 0x33 }
  | 0x005 => some { x with trapBase := w / 512 * 512 }
  | 0x006 => some { x with trapPc := w }
  | 0x00C => some { x with spare0 := v }
  | 0x00D => some { x with spare1 := v }
  | 0x010 => some { x with irqMask := w }
  | 0x018 => some { x with alarm := v.toNat }
  | _ =>
    let r := (num - 0x40) / 2
    if 0x40 ≤ num ∧ num < 0x50 then
      if num % 2 = 0 then some { x with winBase := Sparse.set (fun _ => 0) x.winBase r (w / 4096 * 4096) }
      else some { x with winCfg := Sparse.set (fun _ => 0) x.winCfg r (w &&& 0xFFFFF00F) }
    else none

/-- Whether a privileged instruction is ILLEGAL: on a frame engine, and in USR (R111, R157). -/
def notSup (d : Dev) : Hart → Bool
  | .fe _ _ => true
  | .mc c => !(d.mcCore c.val).sup

/-- Acting on the core of a hart. -/
def onCore (d : Dev) (h : Hart) (f : McCore → McCore) : Dev :=
  match h with
  | .fe _ _ => d
  | .mc c => d.setMc c.val (f (d.mcCore c.val))

/-- CORECTL after ERET (R115, R157). -/
def eretCtl (ctl : Nat) : Nat := setBits 0 0 (bits 1 1 ctl) (setBits 4 4 (bits 5 5 ctl) ctl)

/-- MFS (R138). -/
def iMfs (d : Dev) (h : Hart) (g : Guard) (rd : GReg) (num : BitVec 12) : Dev :=
  d.issue h g (d.special h num.toNat).isNone none [rd.val] fun d =>
    match d.special h num.toNat with
    | some (v, d) => d.complete h fun r => r.put rd.val (BitVec.ofNat 64 v)
    | none => d

/-- MTS (R138). -/
def iMts (d : Dev) (h : Hart) (g : Guard) (ra : GReg) (num : BitVec 12) : Dev :=
  d.issue h g (!d.mayMts h num.toNat) none [ra.val] fun d =>
    (d.setClass h ((d.rf h).get ra.val).toNat).complete h id

/-- CNTADD (R139). (DESIGN CHOICE: assumption 19) -/
def iCntadd (d : Dev) (h : Hart) (g : Guard) (ra rb : GReg) : Dev :=
  d.issue h g false none [ra.val, rb.val] fun d =>
    let n := ((d.rf h).get ra.val).toNat
    if 1024 ≤ n then d.exc h excBounds
    else (d.outward h fun d => d.incBy .feProgCnt n (((d.rf h).get rb.val).toNat % 2 ^ 48)).complete h id

/-- YIELD (R140): the next slot goes to another READY thread because the order is round-robin from the thread that
issued last (R74). -/
def iYield (d : Dev) (h : Hart) (g : Guard) : Dev :=
  d.issue h g false none [] fun d => d.complete h id

/-- FENCE (R76, R140): every earlier store, AMO and far-side store of this model is visible at once. -/
def iFence (d : Dev) (h : Hart) (g : Guard) : Dev :=
  d.issue h g false none [] fun d => d.complete h id

/-- BKPT halts the target that the Darder link has armed, after the BKPT; it is a YIELD where none is armed or the halt is
refused (R115, R460, R507). -/
def iBkpt (d : Dev) (h : Hart) (g : Guard) : Dev :=
  d.issue h g false none [] fun d =>
    let d := d.complete h id
    match (d.targetsOf h).find? d.armed with
    | some tgt => (d.haltTarget tgt haltByInstr).2
    | none => d

/-- SVREQ (R140). -/
def iSvreq (d : Dev) (h : Hart) (g : Guard) : Dev :=
  d.issue h g (match h with | .fe _ _ => true | .mc _ => false) none [] fun d => d.exc h excSvreq

/-- MFSR (R157). -/
def iMfsr (d : Dev) (h : Hart) (g : Guard) (rd : GReg) (num : BitVec 12) : Dev :=
  let c := match h with | .fe _ _ => 0 | .mc c => c.val
  d.issue h g (d.notSup h || (d.sysRead c num.toNat).isNone) none [rd.val] fun d =>
    d.complete h fun r => r.put rd.val (BitVec.ofNat 64 ((d.sysRead c num.toNat).getD 0))

/-- MTSR (R157): the instruction retires before what it writes takes effect. -/
def iMtsr (d : Dev) (h : Hart) (g : Guard) (ra : GReg) (num : BitVec 12) : Dev :=
  d.issue h g (d.notSup h || (sysWrite {} num.toNat 0).isNone) none [ra.val] fun d =>
    let v := (d.rf h).get ra.val
    (d.complete h id).onCore h fun x => (sysWrite x num.toNat v).getD x

/-- ERET (R115, R157). -/
def iEret (d : Dev) (h : Hart) (g : Guard) : Dev :=
  d.issue h g (d.notSup h) none [] fun d =>
    let pc := match h with | .fe _ _ => 0 | .mc c => (d.mcCore c.val).trapPc
    (d.jump h id (BitVec.ofNat 64 pc)).onCore h fun x => { x with ctl := eretCtl x.ctl }

/-- WFI (R157): held, it completes with the first line that is pending and unmasked. -/
def iWfi (d : Dev) (h : Hart) (g : Guard) : Dev :=
  d.issue h g (d.notSup h) none [] fun d =>
    match h with
    | .fe _ _ => d
    | .mc c => if (d.mcLine c.val).isSome then d.complete h id else d.park h .blocked none

/-- The lowest pending unmasked line interrupts a core between instructions while IRQ_ON = 1 (R115). (DEDUCED: assumption 20) -/
def interrupt (d : Dev) (c : Fin 2) : Dev :=
  if d.mcRuns c.val = false then d
  else
    let d := d.mcWake c.val
    let x := d.mcCore c.val
    match d.mcLine c.val with
    | some l => if x.st = .ready ∧ bitAt 0 x.ctl then d.mcInterrupt c.val l else d
    | none => d

/-- TD0 reaches ALARM, and line 31 is pending while it stays there (R114): a core in WFI with the line unmasked goes on.
(DEDUCED: assumption 20) -/
def alarmDue (d : Dev) (c : Fin 2) : Dev := if d.mcRuns c.val then d.mcWake c.val else d

end Dev

/-! ### The commands -/

def execMfs (h : Hart) (g : Guard) (rd : GReg) (num : BitVec 12) (s : State) : Host.Outcome State Fault Refusal :=
  s.logic fun d => d.iMfs h g rd num

def execMts (h : Hart) (g : Guard) (ra : GReg) (num : BitVec 12) (s : State) : Host.Outcome State Fault Refusal :=
  s.logic fun d => d.iMts h g ra num

def execCntadd (h : Hart) (g : Guard) (ra rb : GReg) (s : State) : Host.Outcome State Fault Refusal :=
  s.logic fun d => d.iCntadd h g ra rb

def execYield (h : Hart) (g : Guard) (s : State) : Host.Outcome State Fault Refusal :=
  s.logic fun d => d.iYield h g

def execFence (h : Hart) (g : Guard) (s : State) : Host.Outcome State Fault Refusal :=
  s.logic fun d => d.iFence h g

def execBkpt (h : Hart) (g : Guard) (s : State) : Host.Outcome State Fault Refusal :=
  s.logic fun d => d.iBkpt h g

def execSvreq (h : Hart) (g : Guard) (s : State) : Host.Outcome State Fault Refusal :=
  s.logic fun d => d.iSvreq h g

def execMfsr (h : Hart) (g : Guard) (rd : GReg) (num : BitVec 12) (s : State) : Host.Outcome State Fault Refusal :=
  s.logic fun d => d.iMfsr h g rd num

def execMtsr (h : Hart) (g : Guard) (ra : GReg) (num : BitVec 12) (s : State) : Host.Outcome State Fault Refusal :=
  s.logic fun d => d.iMtsr h g ra num

def execEret (h : Hart) (g : Guard) (s : State) : Host.Outcome State Fault Refusal :=
  s.logic fun d => d.iEret h g

def execWfi (h : Hart) (g : Guard) (s : State) : Host.Outcome State Fault Refusal :=
  s.logic fun d => d.iWfi h g

def execInterruptTaken (c : Fin 2) (s : State) : Host.Outcome State Fault Refusal := s.logic fun d => d.interrupt c

def execAlarmDue (c : Fin 2) (s : State) : Host.Outcome State Fault Refusal := s.logic fun d => d.alarmDue c

end Sys2Proof.Machine
end

