-- ==== Sys2Proof/Machine/Porros.lean ====
section
/-! DEFINITION. Instructions that go on: what a hart does when the register, token or cell it waited for is there (R75, R83, R92,
R95), the completion of tokens, and the time limits of threads (R97, R101, R186). -/
namespace Sys2Proof.Machine
namespace Dev

/-- Issuing a Porros instruction on the hart it names; any other command is none. (DESIGN CHOICE: assumption 9) -/
def porros (d : Dev) (i : Instr) : Dev :=
  match i with
  | .add h g rd ra rb => d.iAdd h g rd ra rb
  | .sub h g rd ra rb => d.iSub h g rd ra rb
  | .and h g rd ra rb => d.iAnd h g rd ra rb
  | .or h g rd ra rb => d.iOr h g rd ra rb
  | .xor h g rd ra rb => d.iXor h g rd ra rb
  | .andn h g rd ra rb => d.iAndn h g rd ra rb
  | .shl h g rd ra rb => d.iShl h g rd ra rb
  | .shr h g rd ra rb => d.iShr h g rd ra rb
  | .sar h g rd ra rb => d.iSar h g rd ra rb
  | .rol h g rd ra rb => d.iRol h g rd ra rb
  | .ror h g rd ra rb => d.iRor h g rd ra rb
  | .mul h g rd ra rb => d.iMul h g rd ra rb
  | .mulhu h g rd ra rb => d.iMulhu h g rd ra rb
  | .min h g rd ra rb => d.iMin h g rd ra rb
  | .max h g rd ra rb => d.iMax h g rd ra rb
  | .minu h g rd ra rb => d.iMinu h g rd ra rb
  | .maxu h g rd ra rb => d.iMaxu h g rd ra rb
  | .popc h g rd ra => d.iPopc h g rd ra
  | .clz h g rd ra => d.iClz h g rd ra
  | .ctz h g rd ra => d.iCtz h g rd ra
  | .bswap h g rd ra => d.iBswap h g rd ra
  | .addi h g rd ra imm => d.iAddi h g rd ra imm
  | .andi h g rd ra imm => d.iAndi h g rd ra imm
  | .ori h g rd ra imm => d.iOri h g rd ra imm
  | .xori h g rd ra imm => d.iXori h g rd ra imm
  | .shli h g rd ra amt => d.iShli h g rd ra amt
  | .shri h g rd ra amt => d.iShri h g rd ra amt
  | .sari h g rd ra amt => d.iSari h g rd ra amt
  | .roli h g rd ra amt => d.iRoli h g rd ra amt
  | .rori h g rd ra amt => d.iRori h g rd ra amt
  | .movz h rd hw imm => d.iMovz h rd hw imm
  | .movk h rd hw imm => d.iMovk h rd hw imm
  | .extr h g rd ra pos lenm1 => d.iExtr h g rd ra pos lenm1
  | .extrs h g rd ra pos lenm1 => d.iExtrs h g rd ra pos lenm1
  | .insr h g rd ra pos lenm1 => d.iInsr h g rd ra pos lenm1
  | .sel h g rd ra rb ps => d.iSel h g rd ra rb ps
  | .cmp h g pt pf ra rb cc => d.iCmp h g pt pf ra rb cc
  | .cmpi h g pt pf ra cc imm => d.iCmpi h g pt pf ra cc imm
  | .pand h g pt pa pb => d.iPand h g pt pa pb
  | .por h g pt pa pb => d.iPor h g pt pa pb
  | .pxor h g pt pa pb => d.iPxor h g pt pa pb
  | .pandn h g pt pa pb => d.iPandn h g pt pa pb
  | .br h g off => d.iBr h g off
  | .call h g off => d.iCall h g off
  | .jr h g rd ra imm => d.iJr h g rd ra imm
  | .ld h g rt ra sz off ecc => d.iLd h g rt ra sz off ecc
  | .lds h g rt ra sz off ecc => d.iLds h g rt ra sz off ecc
  | .ldn h g rt ra sz off ecc => d.iLdn h g rt ra sz off ecc
  | .ldns h g rt ra sz off ecc => d.iLdns h g rt ra sz off ecc
  | .st h g rt ra sz off => d.iSt h g rt ra sz off
  | .stn h g rt ra sz off => d.iStn h g rt ra sz off
  | .amoadd h g rd ra rb wide ecc => d.iAmoadd h g rd ra rb wide ecc
  | .amoswap h g rd ra rb wide ecc => d.iAmoswap h g rd ra rb wide ecc
  | .amoor h g rd ra rb wide ecc => d.iAmoor h g rd ra rb wide ecc
  | .amoand h g rd ra rb wide ecc => d.iAmoand h g rd ra rb wide ecc
  | .amocas h g rd ra rb wide ecc => d.iAmocas h g rd ra rb wide ecc
  | .csum h g rd ra rb ecc => d.iCsum h g rd ra rb ecc
  | .csumr h g rd ra rb => d.iCsumr h g rd ra rb
  | .csumf h g rd ra => d.iCsumf h g rd ra
  | .crc8 h g rd ra rb ecc => d.iCrc8 h g rd ra rb ecc
  | .crc8h h g rd ra rb ecc => d.iCrc8h h g rd ra rb ecc
  | .crc16 h g rd ra rb ecc => d.iCrc16 h g rd ra rb ecc
  | .crc32 h g rd ra rb ecc => d.iCrc32 h g rd ra rb ecc
  | .crc32c h g rd ra rb ecc => d.iCrc32c h g rd ra rb ecc
  | .crc32p4 h g rd ra rb ecc => d.iCrc32p4 h g rd ra rb ecc
  | .hmix h g rd ra rb => d.iHmix h g rd ra rb
  | .clmull h g rd ra rb => d.iClmull h g rd ra rb
  | .clmulh h g rd ra rb => d.iClmulh h g rd ra rb
  | .mfs h g rd num => d.iMfs h g rd num
  | .mts h g ra num => d.iMts h g ra num
  | .cntadd h g ra rb => d.iCntadd h g ra rb
  | .yield h g => d.iYield h g
  | .fence h g => d.iFence h g
  | .bkpt h g => d.iBkpt h g
  | .svreq h g => d.iSvreq h g
  | .adjh h g ra => d.iAdjh h g ra
  | .adjt h g ra => d.iAdjt h g ra
  | .wmov h g ra => d.iWmov h g ra
  | .matchKey h g rd ra set tk => d.iMatchKey h g rd ra set tk
  | .matchAct h g rd ra set ecc => d.iMatchAct h g rd ra set ecc
  | .lkup h g rd ra table learn tk => d.iLkup h g rd ra table learn tk
  | .aese h g rd ra tk => d.iAese h g rd ra tk
  | .aesd h g rd ra tk => d.iAesd h g rd ra tk
  | .mor h g rd ra tk => d.iMor h g rd ra tk
  | .mow h g rd ra tk => d.iMow h g rd ra tk
  | .moack h g ra tk => d.iMoack h g ra tk
  | .leave h g rd ra budget tk => d.iLeave h g rd ra budget tk
  | .leaveRel h g ra tk => d.iLeaveRel h g ra tk
  | .tnow h g rd td => d.iTnow h g rd td
  | .tarm h g ra td rel tk => d.iTarm h g ra td rel tk
  | .wait h g tmask pd => d.iWait h g tmask pd
  | .emit h g ra cls => d.iEmit h g ra cls
  | .emitm h g ra cls => d.iEmitm h g ra cls
  | .drop h g reason => d.iDrop h g reason
  | .copyh h g ra dom ring => d.iCopyh h g ra dom ring
  | .mirr h g session => d.iMirr h g session
  | .redip h g => d.iRedip h g
  | .trap h g code => d.iTrap h g code
  | .mfsr h g rd num => d.iMfsr h g rd num
  | .mtsr h g ra num => d.iMtsr h g ra num
  | .eret h g => d.iEret h g
  | .wfi h g => d.iWfi h g
  | _ => d

/-- The instruction a hart stopped at. (DEDUCED: assumption 18) -/
def heldBy (d : Dev) : Hart → Option Instr
  | .fe n t => (d.thr n.val t.val).held
  | .mc c => (d.mcCore c.val).held

/-- The registers a hart in INTERLOCK waits for (R75). -/
def needsOf (d : Dev) : Hart → List Nat
  | .fe n t => (d.thr n.val t.val).needs
  | .mc c => (d.mcCore c.val).needs

/-- A hart that waits goes on when what it waits for is there: the tokens of WAIT, the busy tokens or the cells of an
instruction that has issued; with the registers of one not yet issued it is READY, and issues it in its turn (R74, R75). -/
def wakeHart (d : Dev) (h : Hart) : Dev :=
  match d.hartSt h, d.heldBy h with
  | .wait, _ =>
    let (m, p) := d.waitArgs h
    if maskIdle (d.rf h) m then (d.park h .ready none).waitEnd h m p else d
  | .interlock, _ => if (d.needsOf h).any (d.rf h).pending then d else d.park h .ready none
  | .blocked, some i => (d.park h .ready (some i)).porros i
  | _, _ => d

/-- A token operation ends, and the hart may go on. -/
def tokenRow (d : Dev) (h : Hart) (f : Dev → Dev) : Dev := (f d).wakeHart h

/-- The instruction count of a thread has reached its budget (R97). -/
def budgetExhausted (d : Dev) (n : Fin 64) (t : Fin 4) : Dev :=
  let x := d.thr n.val t.val
  if x.st = .ready ∧ x.icount = x.budget ∧ d.follows n.val = false then d.exc (.fe n t) excBudget else d

/-- A hart has stayed in WAIT or BLOCKED beyond FeWaitTmo (R101); a core held in WFI waits for no limit (R157). -/
def waitTimeout (d : Dev) (h : Hart) : Dev :=
  match h with
  | .fe n t =>
    let x := d.thr n.val t.val
    if (x.st = .wait ∨ x.st = .blocked) ∧ d.follows n.val = false then d.exc h excWaitTmo else d
  | .mc c => if (d.mcCore c.val).st = .wait ∧ d.mcRuns c.val then d.exc h excWaitTmo else d

/-- The frames of a sequence number unresolved for FeOrderTmo (R186): dropped where they wait, and WAIT_TMO in every thread that
holds one, whatever the thread's state; a halted thread stays HALTED with its registers as they stood (R509).
(DEDUCED: assumption 22) -/
def orderTimeout (d : Dev) (p q : Nat) : Dev :=
  let mine (x : Thread) : Bool := x.st != .idle && x.kind == .frame && ofSeq p q x.src && !x.shadow && x.halted != some .idle
  let d := d.orderExpireWaiting p q
  (d.eng.threads.filter fun e => mine e.2).foldl (fun d e =>
    let (k, x) := e
    let d := (d.inc .feOrderExpired 0).excFe (k / 4) (k % 4) excWaitTmo x.rf.pc.toNat 0
    if x.st = .halted then d.setThr (k / 4) (k % 4) { st := .halted, halted := some .idle, rf := x.rf } else d) d

end Dev

/-! ### The commands -/

def execMatchDone (h : Hart) (tk : TokId) (ecc : Ecc) (s : State) : Host.Outcome State Fault Refusal :=
  s.logic fun d => d.tokenRow h fun d => d.matchDone h tk ecc

def execLkupDone (h : Hart) (tk : TokId) (ecc : Ecc) (s : State) : Host.Outcome State Fault Refusal :=
  s.logic fun d => d.tokenRow h fun d => d.lkupDone h tk ecc

def execAesBlockSchedule (h : Hart) (tk : TokId) (s : State) : Host.Outcome State Fault Refusal :=
  s.logic fun d => d.blockSchedule h tk

def execAesBlockDone (h : Hart) (tk : TokId) (s : State) : Host.Outcome State Fault Refusal :=
  s.logic fun d => d.tokenRow h fun d => d.blockDone h tk

def execMoOpDone (h : Hart) (tk : TokId) (s : State) : Host.Outcome State Fault Refusal :=
  s.logic fun d => d.tokenRow h fun d => d.moDone h tk

def execTarmExpiry (h : Hart) (tk : TokId) (s : State) : Host.Outcome State Fault Refusal :=
  s.logic fun d => d.tokenRow h fun d => d.alarmExpiry h tk

/-- (DESIGN CHOICE: assumption 9) -/
def execBudgetExhausted (n : Fin 64) (t : Fin 4) (s : State) : Host.Outcome State Fault Refusal :=
  s.logic fun d => d.budgetExhausted n t

def execWaitTmo (h : Hart) (s : State) : Host.Outcome State Fault Refusal :=
  s.logic fun d => d.waitTimeout h

def execThreadCellAvailable (n : Fin 64) (t : Fin 4) (s : State) : Host.Outcome State Fault Refusal :=
  s.logic fun d => d.wakeHart (.fe n t)

def execOrderTimeout (p : Fin 96) (seq : Word) (s : State) : Host.Outcome State Fault Refusal :=
  s.logic fun d => d.orderTimeout p.val seq.toNat

end Sys2Proof.Machine
end

