-- ==== Sys2Proof/Machine/Words.lean ====
section
/-! DEFINITION. The instruction words of Porros (R84 to R88, R120, R154): which instruction a word is on a hart, none for a word
that raises ILLEGAL whatever the state. DARDER_STEP reads a word from the memory of a halted hart (R507). -/
namespace Sys2Proof.Machine

/-- The guard of a word that has one (R84). -/
def wordGuard (w : Nat) : Guard := ⟨bitAt 25 w, Fin.ofNat 8 (bits 24 22 w)⟩

/-- A field that names a general register, a predicate or a token. -/
def wordReg (hi lo w : Nat) : GReg := Fin.ofNat 32 (bits hi lo w)
def wordPred (hi lo w : Nat) : PReg := Fin.ofNat 8 (bits hi lo w)

/-- An instruction, provided that its RSV fields are 0 (R86). -/
def ifZero (rsv : List Nat) (i : Instr) : Option Instr := if rsv.all (· == 0) then some i else none

/-- OP 0x01: integer operations by FN (R88, R122). -/
def wordInteger (h : Hart) (g : Guard) (rd ra rb : GReg) (fn : Nat) : Option Instr :=
  match fn with
  | 0x00 => some (.add h g rd ra rb) | 0x01 => some (.sub h g rd ra rb) | 0x02 => some (.and h g rd ra rb)
  | 0x03 => some (.or h g rd ra rb) | 0x04 => some (.xor h g rd ra rb) | 0x05 => some (.andn h g rd ra rb)
  | 0x08 => some (.shl h g rd ra rb) | 0x09 => some (.shr h g rd ra rb) | 0x0A => some (.sar h g rd ra rb)
  | 0x0B => some (.rol h g rd ra rb) | 0x0C => some (.ror h g rd ra rb)
  | 0x10 => some (.mul h g rd ra rb) | 0x11 => some (.mulhu h g rd ra rb)
  | 0x18 => some (.min h g rd ra rb) | 0x19 => some (.max h g rd ra rb)
  | 0x1A => some (.minu h g rd ra rb) | 0x1B => some (.maxu h g rd ra rb)
  | 0x20 => ifZero [rb.val] (.popc h g rd ra) | 0x21 => ifZero [rb.val] (.clz h g rd ra)
  | 0x22 => ifZero [rb.val] (.ctz h g rd ra) | 0x23 => ifZero [rb.val] (.bswap h g rd ra)
  | _ => none

/-- OP 0x18: calculation operations by FN (R88, R134 to R137). -/
def wordCalc (h : Hart) (g : Guard) (rd ra rb : GReg) (fn : Nat) (e : Ecc) : Option Instr :=
  match fn with
  | 0x00 => some (.csum h g rd ra rb e) | 0x01 => some (.csumr h g rd ra rb) | 0x02 => ifZero [rb.val] (.csumf h g rd ra)
  | 0x08 => some (.crc8 h g rd ra rb e) | 0x09 => some (.crc8h h g rd ra rb e) | 0x0A => some (.crc16 h g rd ra rb e)
  | 0x0B => some (.crc32 h g rd ra rb e) | 0x0C => some (.crc32c h g rd ra rb e) | 0x0D => some (.crc32p4 h g rd ra rb e)
  | 0x10 => some (.hmix h g rd ra rb) | 0x18 => some (.clmull h g rd ra rb) | 0x19 => some (.clmulh h g rd ra rb)
  | _ => none

/-- Formats M and A: loads, stores and atomic operations (R85, R87). -/
def wordMemory (h : Hart) (g : Guard) (op w : Nat) (e : Ecc) : Option Instr :=
  let rt := wordReg 21 17 w
  let ra := wordReg 16 12 w
  let rb := wordReg 11 7 w
  let sz : Fin 4 := Fin.ofNat 4 (bits 11 10 w)
  let off : BitVec 8 := BitVec.ofNat 8 w
  match op with
  | 0x14 =>
    match bitAt 9 w, bitAt 8 w with
    | false, false => some (.ld h g rt ra sz off e)
    | false, true => some (.lds h g rt ra sz off e)
    | true, false => some (.ldn h g rt ra sz off e)
    | true, true => some (.ldns h g rt ra sz off e)
  | 0x15 => ifZero [bits 8 8 w] (if bitAt 9 w then .stn h g rt ra sz off else .st h g rt ra sz off)
  | _ =>
    let wide := bitAt 3 w
    match bits 6 4 w with
    | 0 => ifZero [bits 2 0 w] (.amoadd h g rt ra rb wide e)
    | 1 => ifZero [bits 2 0 w] (.amoswap h g rt ra rb wide e)
    | 2 => ifZero [bits 2 0 w] (.amoor h g rt ra rb wide e)
    | 3 => ifZero [bits 2 0 w] (.amoand h g rt ra rb wide e)
    | 4 => ifZero [bits 2 0 w] (.amocas h g rt ra rb wide e)
    | _ => none

/-- Format A and its neighbours: asynchronous instructions (R142 to R153). -/
def wordAsync (h : Hart) (g : Guard) (op w : Nat) (e : Ecc) : Option Instr :=
  let rd := wordReg 21 17 w
  let ra := wordReg 16 12 w
  let tk : TokId := Fin.ofNat 8 (bits 11 9 w)
  let set : Fin 16 := Fin.ofNat 16 (bits 3 0 w)
  let low4 : Fin 4 := Fin.ofNat 4 (bits 1 0 w)
  match op with
  | 0x20 =>
    if bitAt 8 w then ifZero [bits 7 4 w, tk.val] (.matchAct h g rd ra set e)
    else ifZero [bits 7 4 w] (.matchKey h g rd ra set tk)
  | 0x21 => ifZero [bits 3 0 w] (.lkup h g rd ra (Fin.ofNat 16 (bits 8 5 w)) (bitAt 4 w) tk)
  | 0x22 => ifZero [bits 8 0 w] (.aese h g rd ra tk)
  | 0x23 => ifZero [bits 8 0 w] (.aesd h g rd ra tk)
  | 0x24 =>
    match bits 8 7 w with
    | 0 => ifZero [bits 6 0 w] (.mor h g rd ra tk)
    | 1 => ifZero [bits 6 0 w] (.mow h g rd ra tk)
    | 2 => ifZero [bits 6 0 w, rd.val] (.moack h g ra tk)
    | _ => none
  | 0x25 =>
    if bitAt 8 w then ifZero [bits 7 2 w, low4.val, rd.val] (.leaveRel h g ra tk)
    else ifZero [bits 7 2 w] (.leave h g rd ra low4 tk)
  | 0x26 => ifZero [bits 11 2 w, ra.val] (.tnow h g rd low4)
  | 0x27 => ifZero [bits 8 3 w, rd.val] (.tarm h g ra low4 (bitAt 2 w) tk)
  | 0x28 => ifZero [rd.val, bits 6 0 w] (.cntadd h g ra (wordReg 11 7 w))
  | _ => ifZero [bits 10 0 w] (.wait h g (BitVec.ofNat 8 (bits 21 14 w)) (wordPred 13 11 w))

/-- The class an EMIT names (R154). -/
def wordClass (w : Nat) : Option (Fin 8) := if bitAt 3 w then some (Fin.ofNat 8 (bits 2 0 w)) else none

/-- Terminal actions and MIRR (R154). -/
def wordTerminal (h : Hart) (g : Guard) (op w : Nat) : Option Instr :=
  let rd := bits 21 17 w
  let ra := wordReg 16 12 w
  match op with
  | 0x30 =>
    ifZero [rd, bits 10 4 w] (if bitAt 11 w then .emitm h g ra (wordClass w) else .emit h g ra (wordClass w))
  | 0x31 => ifZero [rd, ra.val, bits 11 8 w] (.drop h g (BitVec.ofNat 8 w))
  | 0x32 => ifZero [rd, bits 3 0 w] (.copyh h g ra (Fin.ofNat 16 (bits 11 8 w)) (Fin.ofNat 16 (bits 7 4 w)))
  | 0x33 => ifZero [rd, ra.val, bits 11 3 w] (.mirr h g (Fin.ofNat 8 (bits 2 0 w)))
  | 0x34 => ifZero [rd, ra.val, bits 11 0 w] (.redip h g)
  | _ => ifZero [rd, ra.val] (.trap h g (BitVec.ofNat 12 w))

/-- OP 0x2A and 0x3E: system operations by FN, and 0x1C frame operations (R140, R141, R157). -/
def wordSystem (h : Hart) (g : Guard) (op w : Nat) : Option Instr :=
  let ra := wordReg 16 12 w
  let others := [bits 21 17 w, bits 11 7 w]
  match op, bits 6 0 w with
  | 0x1C, 0 => ifZero others (.adjh h g ra)
  | 0x1C, 1 => ifZero others (.adjt h g ra)
  | 0x1C, 2 => ifZero others (.wmov h g ra)
  | 0x2A, 0 => ifZero (ra.val :: others) (.yield h g)
  | 0x2A, 1 => ifZero (ra.val :: others) (.fence h g)
  | 0x2A, 2 => ifZero (ra.val :: others) (.bkpt h g)
  | 0x2A, 3 => ifZero (ra.val :: others) (.svreq h g)
  | 0x3E, 0 => ifZero (ra.val :: others) (.eret h g)
  | 0x3E, 1 => ifZero (ra.val :: others) (.wfi h g)
  | _, _ => none

/-- Formats I, F, S, C, CI, P and B (R123 to R130, R138). -/
def wordImmediate (h : Hart) (g : Guard) (op w : Nat) : Option Instr :=
  let rd := wordReg 21 17 w
  let ra := wordReg 16 12 w
  let imm : BitVec 12 := BitVec.ofNat 12 w
  let amt : Fin 64 := Fin.ofNat 64 (bits 5 0 w)
  let pos : Fin 64 := Fin.ofNat 64 (bits 11 6 w)
  let pt := wordPred 21 19 w
  let pf := wordPred 18 16 w
  match op with
  | 0x02 => some (.addi h g rd ra imm)
  | 0x03 => some (.andi h g rd ra imm)
  | 0x04 => some (.ori h g rd ra imm)
  | 0x05 => some (.xori h g rd ra imm)
  | 0x06 =>
    match bits 11 9 w with
    | 0 => ifZero [bits 8 6 w] (.shli h g rd ra amt)
    | 1 => ifZero [bits 8 6 w] (.shri h g rd ra amt)
    | 2 => ifZero [bits 8 6 w] (.sari h g rd ra amt)
    | 3 => ifZero [bits 8 6 w] (.roli h g rd ra amt)
    | 4 => ifZero [bits 8 6 w] (.rori h g rd ra amt)
    | _ => none
  | 0x08 => some (.extr h g rd ra pos amt)
  | 0x09 => some (.extrs h g rd ra pos amt)
  | 0x0A => some (.insr h g rd ra pos amt)
  | 0x0B => ifZero [bits 3 0 w] (.sel h g rd ra (wordReg 11 7 w) (wordPred 6 4 w))
  | 0x0C => ifZero [bits 2 0 w] (.cmp h g pt pf (wordReg 15 11 w) (wordReg 10 6 w) (Fin.ofNat 8 (bits 5 3 w)))
  | 0x0D => some (.cmpi h g pt pf (wordReg 15 11 w) (Fin.ofNat 8 (bits 10 8 w)) (BitVec.ofNat 8 w))
  | 0x0E =>
    let pb := wordPred 15 13 w
    match bits 12 11 w with
    | 0 => ifZero [bits 10 0 w] (.pand h g pt pf pb)
    | 1 => ifZero [bits 10 0 w] (.por h g pt pf pb)
    | 2 => ifZero [bits 10 0 w] (.pxor h g pt pf pb)
    | _ => ifZero [bits 10 0 w] (.pandn h g pt pf pb)
  | 0x10 => some (.br h g (BitVec.ofNat 22 w))
  | 0x11 => some (.call h g (BitVec.ofNat 22 w))
  | 0x12 => some (.jr h g rd ra imm)
  | 0x1A => ifZero [ra.val] (.mfs h g rd imm)
  | 0x1B => ifZero [rd.val] (.mts h g ra imm)
  | 0x3C => ifZero [ra.val] (.mfsr h g rd imm)
  | 0x3D => ifZero [rd.val] (.mtsr h g ra imm)
  | _ => none

/-- The instruction that word `w` is on hart `h` (R84 to R88); `e` is what the memory checks report of its accesses. -/
def porrosWord (h : Hart) (w : Nat) (e : Ecc) : Option Instr :=
  let g := wordGuard w
  let op := bits 31 26 w
  let rd := wordReg 21 17 w
  let ra := wordReg 16 12 w
  let rb := wordReg 11 7 w
  if op = 0x01 then wordInteger h g rd ra rb (bits 6 0 w)
  else if op = 0x07 then
    let hw : Fin 4 := Fin.ofNat 4 (bits 20 19 w)
    let imm : BitVec 16 := BitVec.ofNat 16 w
    ifZero [bits 17 16 w] (if bitAt 18 w then .movk h (wordReg 25 21 w) hw imm else .movz h (wordReg 25 21 w) hw imm)
  else if op = 0x18 then wordCalc h g rd ra rb (bits 6 0 w) e
  else if 0x14 ≤ op ∧ op ≤ 0x16 then wordMemory h g op w e
  else if 0x20 ≤ op ∧ op ≤ 0x29 then wordAsync h g op w e
  else if 0x30 ≤ op ∧ op ≤ 0x35 then wordTerminal h g op w
  else if op = 0x1C ∨ op = 0x2A ∨ op = 0x3E then wordSystem h g op w
  else wordImmediate h g op w

namespace Dev

/-- Issuing word `w` on a hart: a word that is no instruction raises ILLEGAL, unless its guard is false (R86, R116). -/
def issueWord (d : Dev) (h : Hart) (w : Nat) (e : Ecc) : Dev :=
  match porrosWord h w e with
  | some i => d.porros i
  | none =>
    let g := if bits 31 26 w = 0x07 then noGuard else wordGuard w
    d.issue h g true none [] id

/-- The word at a hart's PC: in its set's code, or in the memory a core executes from. (DESIGN CHOICE: assumption 9) -/
def wordAtPc (d : Dev) (h : Hart) : Nat :=
  match h with
  | .fe n t =>
    let x := d.thr n.val t.val
    leNat (d.spcRead h .ps (4 * x.rf.pc.toNat) 4)
  | .mc c => d.mcWord c

end Dev

end Sys2Proof.Machine
end

