-- ==== Sys2Proof/Machine/Leaves.lean ====
section
/-! DEFINITION. What a grant, a denial and a lease's end of power admission do to whom they concern (R67 to R69), and the
pace-low limit of the regulator (R66). -/
namespace Sys2Proof.Machine

/-- The hart a key names (`hartKey`). -/
def hartOf (k : Nat) : Hart := if k < 256 then .fe (Fin.ofNat 64 (k / 4)) (Fin.ofNat 4 (k % 4)) else .mc (Fin.ofNat 2 (k % 2))

namespace Dev

/-- A LEAVE that waited has its answer (R150): `rd` takes the value and the token completes. -/
def leaveEnd (d : Dev) (hk tk handle status value : Nat) : Dev :=
  let h := hartOf hk
  let k : TokId := Fin.ofNat 8 tk
  match d.tokOp h k with
  | some (.leave rd x) => if x = handle then (d.tokEnd h k status rd [value]).wakeHart h else d
  | _ => d

/-- What a grant starts (R67). Whether it resets the device (R493, R503). -/
def granted (d : Dev) (x : PaItem) : Bool × Dev :=
  match x.who with
  | .token hk tk => (false, d.leaveEnd hk tk x.handle tokOk (leaveHandle x.handle))
  | .gang l => (false, d.ldGranted l)
  | .rehash t => (false, d.bgGranted t opRehash)
  | .rebuild t => (false, d.bgGranted t opRebuild)
  | .remask => (false, d.remaskGranted)
  | .antifuse => (false, d.fuseGranted)
  | .flash => d.flashGranted
  | .retrain p => (false, (d.retrainGranted p).txnWatch)
  | .rateStep p => (false, d.stepGranted p)
  | .crypto u no => (false, d.cxGranted u no)
  | .held => (false, d)

/-- The request at the head of account `a` is granted when it fits (R68). -/
def paGrant (d : Dev) (a : Nat) : Bool × Dev :=
  match d.paGrantHead a with
  | (some x, d) => d.granted x
  | (none, d) => (false, d)

/-- What a denial after waiting does (R68). -/
def denied (d : Dev) (x : PaItem) : Dev :=
  match x.who with
  | .token hk tk => d.leaveEnd hk tk x.handle tokDenied 0
  | .gang l => d.ldDeniedBy l
  | .rehash t => d.bgDenied t
  | .rebuild t => d.bgDenied t
  | .antifuse => d.fuseDenied
  | .flash => d.flashDenied
  | .retrain p => d.retrainDenied p
  | .rateStep p => d.stepDenied p
  | .crypto u no => d.cxRefused u no
  | .remask | .held => d

/-- The oldest request of account `a` that a deadline can deny has waited MAX_WAIT_MS (R68). -/
def paWaitTimeout (d : Dev) (a : Nat) : Dev :=
  match d.paExpired a with
  | none => d
  | some x =>
    let acc := d.acct a
    ((d.setAcct a { acc with waiting := acc.waiting.filter fun i => i.handle != x.handle }).inc .mdPaDenied 0).denied x

/-- A LEAVE grant has stood for LEASE_MS (R69): the account whose grant is reclaimed is the event's instance. -/
def paLeaseExpiry (d : Dev) (handle : Nat) : Dev :=
  match [0, 1, 2, 3].find? fun a => (d.acct a).grants.any (isLeave handle) with
  | none => d
  | some a => ((d.leaveFree handle).inc .mdPaReclaimed 0).raise 11 (d.paEntry a) 0

/-- A pace monitor has stood below its floor for 10 µs with VCORE at the band's upper limit (R66). -/
def paceLow (d : Dev) : Dev :=
  match d.paces.findIdx? fun p => decide (p < d.paceFloor) with
  | none => d
  | some m =>
    if d.f mdVcoreNow_CMD_MV 0 < d.f mdVcoreBand_HIGH_MV d.mode then d
    else ((d.sf mdModeStatus_GUAR_LOST 0 1).raise 8 m 0).faultRaise fcPace

end Dev

end Sys2Proof.Machine
end

