-- ==== Sys2Proof/Machine/Reset.lean ====
section
/-! DEFINITION. Resets (R384, R515 to R518): what a logic-side reset keeps, the straps, and the resets of the HV dies. -/
namespace Sys2Proof.Machine

/-- Registers of the logic side that fuses, flash or the antifuse array hold: lifecycle and keys, slot pairs, the record number, the
root secret's state, and the retirements (R45, R369, R485, R499). (DEDUCED: assumption 11) -/
def regKept (r : Reg) : Bool :=
  match r with
  | .mgLifecycle | .mgSerial | .mgKeySet | .mgSlotState | .mgSlotSvn | .mgLogSeq | .mgBootStatus | .ksRoot | .ksKcv | .dbgLink
  | .idFeMap | .idFeFree | .idFeRetired | .idAcMap | .idAcFree | .idAcRetired | .idRowMap => true
  | _ => false

/-- Registers of the HV pages that the logic side holds: the state of a unit with its commands, and the link's state. The BW die
keeps the state words of its own header (R413), but not a command that the logic side had in work. (DEDUCED: assumption 11) -/
def regLogicOwn (r : Reg) (i : Nat) : Bool :=
  match r with
  | .unitState | .unitEpoch | .unitSnap => i != uBw
  | .unitCmd | .unitCmdStatus | .bwLinkStatus => true
  | _ => false

/-- Whether an offset lies in the pages of the HV dies: load channels, power dies, the BW die and the barrier links. -/
def hvOffset (off : Nat) : Bool := decide (0x400000 ≤ off ∧ off < 0x480000)

/-- Whether a logic-side reset leaves the register with key `k`. (DEDUCED: assumption 11) -/
def regSurvives (k : Nat) : Bool :=
  match Reg.all[k % 1024]? with
  | none => false
  | some r => regKept r || (!regLogicOwn r (k / 1024) && match regOff r (k / 1024) with | some off => hvOffset off | none => false)

/-- Whether a logic-side reset leaves the counter with key `k`. (DEDUCED: assumption 11) -/
def ctrSurvives (k : Nat) : Bool :=
  match ctrUnit k with
  | some u => hvOffset (unitBase u)
  | none => false

namespace Dev

/-! ### Straps (R518) -/

/-- Sampling the straps into the registers of R518's table. -/
def strapsSet (d : Dev) (x : Straps) : Dev :=
  let one (b : Bool) : Nat := if b then 1 else 0
  let d := { d with mg := { d.mg with straps := x } }
  let d := (d.sf hbEp_SRIS 0 (one x.sris0)).sf hbEp_SRIS 1 (one x.sris1)
  (d.sf hbDomBind_BIND 0 (one x.ethOwner)).sf mdAvsCtl_ADDR 0 (64 + x.avs.val)

/-! ### The logic side -/

/-- SPARE_MAPPED of the engines and cores that a spare serves, as the maps have it (R31, R45). -/
def spareShow (d : Dev) : Dev :=
  let d := (List.range 64).foldl (fun d n => if 64 ≤ d.f idFeMap_PHYS n then d.sf unitState_SPARE_MAPPED (uEng n) 1 else d) d
  (List.range 12).foldl (fun d n => if 12 ≤ d.f idAcMap_PHYS n then d.sf unitState_SPARE_MAPPED (uAc n) 1 else d) d

/-- A key store whose two banks have failed comes out of reset FAULTED (R369). (DEDUCED: assumption 35) -/
def rootShow (d : Dev) : Dev :=
  if d.f ksRoot_STATE 0 = 3 then (d.sf unitState_STATE uKs stFaulted).sf unitState_FAULT_CAUSE uKs fcauseMemory else d

/-- The BW die's unit after a reset of the logic side (R413): a transaction that had it STAGED and a command that kept it
UPDATING are over. (DEDUCED: assumption 11) -/
def bwSettle (d : Dev) (st : Nat) : Dev :=
  let d := d.sf unitState_DRAINING uBw 0
  if d.leafState uBw = stStaged ∨ d.leafState uBw = stUpdating then
    d.sf unitState_STATE uBw (if st = stUpdating then stQuiesced else st)
  else d

/-- Every logic-side unit is reset with REASON `why`; the HV side keeps what it holds (R384, R516). A gang that waits for leave
loses its request with the link (R385). (DEDUCED: assumption 11) -/
def logicReset (d : Dev) (why : Nat) : Dev :=
  let e := (List.range 3).foldl (fun d p => (d.dieLeaders p).foldl (fun d l => d.ldLinkLost l) d) d
  let n : Dev := {
    regs := e.regs.filter fun x => regSurvives x.1
    ctrs := e.ctrs.filter fun x => ctrSurvives x.1
    snaps := e.snaps.filter fun x => ctrSurvives x.1
    free := e.free
    paNext := e.paNext
    outs := d.outs
    eng := { flash := e.eng.flash }
    load := { e.load with reported := [] }
    sleep := e.sleep
    cx := { bankA := e.cx.bankA, bankB := e.cx.bankB, faulty := e.cx.faulty }
    mg := {
      good := e.mg.good
      held := e.mg.held
      why := why
      part := e.mg.part
      vio33 := e.mg.vio33
      digest := e.mg.digest
      chain := e.mg.flushed
      flushed := e.mg.flushed
      runs := e.mg.runs.filter fun r => r.kind == 3 || r.kind == 4 } }
  let n := n.wr .mgBootStatus 0 (BitVec.ofNat 32 (d.f mgBootStatus_BOOT_COUNT 0))
  let n := (List.range 16).foldl (fun n k => n.sf mgSlotState_LAST_RESULT k 0) n
  let n := (List.range 3).foldl (fun n p => n.sf pdStatus_LINK p 0) n
  let n := (List.range 32).foldl (fun n k => n.sf bwSegStatus_HELD k 0) (n.bwSettle (d.actsAs uBw))
  (((n.sf dbgLink_UNLOCKED 0 0).sf dbgLink_GRANTS 0 0).strapsSet d.mg.straps).spareShow.rootShow

/-- An internal reset acts as a RESET_N pulse that samples no strap (R516, R518). -/
def internalReset (d : Dev) : Dev := d.logicReset 2

/-- PWR_GOOD rises: the straps are sampled, and the VIO banks found at 3.3 V (R513, R515). (DEDUCED: assumption 10) -/
def pwrGoodRise (d : Dev) (x : Straps) (vio33 : Nat) : Dev :=
  if d.mg.good then d else { d with mg := { d.mg with good := true, held := false, vio33 := vio33 } }.strapsSet x

/-- PWR_GOOD low holds the logic side in reset (R516). Within the off-time it is the fall that SLEEP itself brings, and the wake
that comes keeps its REASON. (DEDUCED: assumption 10) -/
def pwrGoodFall (d : Dev) : Dev :=
  let d := d.logicReset (if d.sleep.offTime then d.mg.why else 1)
  { d with mg := { d.mg with good := false, held := true } }

/-- A logic supply leaves its range first (R517). Which REASON the next boot reads is not stated: 1 to 3, since 0 stands for the
always-on controller's own reset. (DEDUCED: assumption 11) -/
def supplyReset (d : Dev) : Dev :=
  let (v, d) := d.fresh 2
  d.logicReset (v % 3 + 1)

/-! ### The HV side -/

/-- Taking away every register and counter whose page lies from `lo` up to `hi`. (DEDUCED: assumption 12) -/
def pagesReset (d : Dev) (lo hi : Nat) : Dev :=
  let inside (off : Nat) : Bool := decide (lo ≤ off ∧ off < hi)
  let ctr (x : Nat × Cnt) : Bool := match ctrUnit x.1 with | some u => !inside (unitBase u) | none => true
  { d with
    regs := d.regs.filter fun x =>
      match Reg.all[x.1 % 1024]? with
      | some r => regLogicOwn r (x.1 / 1024) || (match regOff r (x.1 / 1024) with | some off => !inside off | none => true)
      | none => true
    ctrs := d.ctrs.filter ctr
    snaps := d.snaps.filter ctr }

/-- The image that unit `u` runs is gone. -/
def runEnd (d : Dev) (u : Nat) : Dev :=
  { d with mg := { d.mg with runs := d.mg.runs.filter fun r => !(r.cls == unitClass u && r.inst == unitInst u) } }

/-- VBAT_BW falls: the always-on controller and its die reset, and PWR_EN falls with them (R515). The time that other dies measure
by goes on. (DEDUCED: assumption 12) -/
def aocReset (d : Dev) : Dev :=
  (({ d with sleep := { time := d.sleep.time } }.pagesReset 0x440000 0x460000).runEnd uBw).emit (.pin pinPwrEn 0 0)

/-- A power die's VBAT falls: it resets with every output off and runs no image (R488, R515). (DEDUCED: assumption 12) -/
def dieReset (d : Dev) (p : Nat) : Dev :=
  let d := (d.dieLeaders p).foldl (fun d l => (d.paWithdraw (1 + p) (.gang l)).paRelease (1 + p) (.gang l)) d
  let d := (d.pagesReset (0x400000 + 0x2000 * p) (0x402000 + 0x2000 * p)).pagesReset (unitBase (uPd p)) (unitBase (uPd p) + 0x10000)
  let d := { d with load := {
    ch := d.load.ch.filter fun x => x.1 / 32 != p
    reported := Sparse.set (fun _ => false) d.load.reported p false
    asleep := d.load.asleep.filter (· != p)
    down := p :: d.load.down.filter (· != p)
    notes := d.load.notes.filter (·.1 / 32 != p)
    sampled := d.load.sampled.filter (· / 32 != p)
    agg := Sparse.set aggDefault d.load.agg p { from' := d.sleep.time, seen := d.sleep.time } } }
  d.runEnd (uPd p)

/-- A power die leaves its reset, every output off (R515). (DEDUCED: assumption 12) -/
def dieLeavesReset (d : Dev) (p : Nat) : Dev :=
  { d with load := { d.load with down := d.load.down.filter (· != p) } }

/-- PGND is lost: every output goes off (R531). (DEDUCED: assumption 12) -/
def pgndLoss (d : Dev) : Dev :=
  (List.range 96).foldl (fun d l => d.ldUpd l fun c => { c with outOn := false }) d

end Dev

end Sys2Proof.Machine
end

