-- ==== Sys2Proof/Machine/Boot.lean ====
section
/-! DEFINITION. A start of the device (R412, R413, R487 to R492): the ROM selects the firmware or enters recovery; the firmware
brings up the links, applies the settings, loads the images and makes the boot commit. -/
namespace Sys2Proof.Machine
namespace Dev

/-! ### The ROM (R487 steps 1 to 3) -/

/-- The partition table and the state area: KIND of each slot pair, its record, the versions its halves hold, and the field
retirements (R45, R485). Without a table that may be used no slot pair holds anything. (DEDUCED: assumption 45) -/
def bootTable (d : Dev) (x : BootInput) : Dev :=
  let d := { d with mg := { d.mg with part := (d.tableOf x).getD ⟨0, 0, []⟩ } }
  let d := (List.range 16).foldl (fun d k =>
    ((d.sf mgSlotState_KIND k (d.partPair k).kind.toNat).recordGet k).halfShow k) d
  d.retiredGet.spareShow

/-- Whether the flash read of half `h` of slot pair `k` fails. -/
def bootBad (x : BootInput) (k h : Nat) : Bool := x.readErr.any fun e => e.1.val == k && e.2 == (h == 1)

/-- The half of slot pair 0 that a boot of the management firmware selects (R491, R492): the pending half as a trial; the ACTIVE one
after an unconfirmed trial. Answers the results that a ROLLBACK record is due for. (DEDUCED: assumption 45) -/
def fwSelect (d : Dev) : Nat × List Nat × Dev :=
  let a := d.activeHalf 0
  if d.b mgSlotState_TRIAL 0 then
    (a, [jrNotConfirmed], (d.slotChange 0 fun d => d.sf mgSlotState_TRIAL 0 0).sf mgSlotState_LAST_RESULT 0 jrNotConfirmed)
  else if d.b mgSlotState_PENDING 0 then
    (1 - a, [], d.slotChange 0 fun d => (d.sf mgSlotState_PENDING 0 0).sf mgSlotState_TRIAL 0 1)
  else (a, [], d)

/-- The half whose image runs: the selected one, or the other when it fails R483 (R492). `none` when both fail. -/
def fwHalf (d : Dev) (x : BootInput) : Option Nat × List Nat × Dev :=
  let (h, notes, d) := d.fwSelect
  let res := d.halfCheck 0 h (bootBad x 0 h)
  if res = jrOk then (some h, notes, d)
  else
    let d := (d.sf mgSlotState_LAST_RESULT 0 res).slotChange 0 fun d => d.sf mgSlotState_TRIAL 0 0
    let o := 1 - h
    let res' := d.halfCheck 0 o (bootBad x 0 o)
    if res' = jrOk then (some o, notes ++ [res], d)
    else (none, notes ++ [res], { d.sf mgSlotState_LAST_RESULT 0 res' with mg := { d.mg with failedHalf := some o } })

/-- The management cores run the image of half `h` from SRAM address 0, and UnitImage shows its VERSION (R482). -/
def fwStart (d : Dev) (h : Nat) : Dev :=
  let c := d.halfBytes 0 h
  let d := { d with eng := { d.eng with sram := memSet d.eng.sram 0 (jrPayload c) } }
  let run (d : Dev) (i : Nat) : Dev := let m := d.mcCore i; d.setMc i { m with rf := { m.rf with pc := 0 } }
  let d := (run d 0).setRun (runImageOf (uMc 0) 1 (16 * h) c)
  let d := (d.sf unitImage_IMAGE_VERSION (uMc 0) (jrVersion c)).sf unitImage_IMAGE_VERSION (uMc 1) (jrVersion c)
  let d := (d.slotChange 0 fun d => d.sf mgSlotState_BOOTED_B 0 h).sf mgBootStatus_TRIAL 0 (d.f mgSlotState_TRIAL 0)
  { d with mg := { d.mg with booted := true, restarted := false, failedHalf := none } }

/-- The records that a start writes: BOOT, then a ROLLBACK for each result that caused one (R492, R498), also one that ends in
recovery. (DEDUCED: assumption 45) -/
def fwRecords (d : Dev) (notes : List Nat) : Dev :=
  let data := d.f mgBootStatus_REASON 0 + 4 * d.f mgBootStatus_RECOVERY 0 + 8 * d.f mgBootStatus_TRIAL 0
  notes.foldl (fun d r => d.logPut logRollback 0 r) (d.logPut logBoot 0 data)

/-- The ROM enters recovery: E4 runs SGMII with autonegotiation, and nothing else is brought up (R493, R495). -/
def recovEnter (d : Dev) : Dev :=
  let d := { d with mg := { d.mg with restarted := false } }.sf mgBootStatus_RECOVERY 0 1
  ((d.sf ethIntf_INTF 4 5).sf ethIntf_AN_EN 4 1).setState (uEth 4) stRun

/-- The ROM's part of a start with its outcome: whether the firmware runs. (DEDUCED: assumption 45) -/
def romStart (d : Dev) (x : BootInput) : Bool × Dev :=
  if d.mg.straps.recovery then (false, { d with mg := { d.mg with failedHalf := none } }.recovEnter.fwRecords [])
  else
    match d.fwHalf x with
    | (none, notes, d) => (false, d.recovEnter.fwRecords notes)
    | (some h, notes, d) => (true, (d.fwStart h).fwRecords notes)

/-! ### Settings (R413, R489) -/

/-- Settings of the dies and of the Bw block that outlive a logic-side reset: the defaults replace them where no settings block
applies. (DEDUCED: assumption 36) -/
def bootDefaults (d : Dev) (bw : Bool) : Dev :=
  let mine (r : Reg) : Bool :=
    match r with
    | .ldCfg | .ldGroups | .ldWire | .pdLoc | .pdAdmit | .pdAggWarn | .pdAdcSeq | .pdProfile => true
    | .bwSegPorts | .bwSegCfg | .bwSegRoute | .bwWinCfg | .bwWinStorm | .bwWinStuck | .bwWinSeg | .bwCanWake | .bwSwfCfg
    | .bwSwfId | .bwSwfIdMask | .bwSwfData | .bwLinWake | .bwT1sWake => bw
    | _ => false
  { d with regs := d.regs.filter fun e => match Reg.all[e.1 % 1024]? with | some r => !mine r | none => true }

/-- One register of the settings block; those that only a commit writes follow its checks. (DEDUCED: assumption 45) -/
def bootSetting (d : Dev) (bw : Bool) (e : Nat × Nat) : Dev :=
  if !bw && decide (0x440000 ≤ e.1 ∧ e.1 < 0x460000) then d
  else
    match regAt e.1 with
    | some (r, i) =>
      if stagedOnly r then (if d.regCheck r i e.2 then d.regWriteM true 16 e.1 e.2 (2 ^ 32 - 1) else d)
      else d.regWrite 16 e.1 e.2
    | none => d.regWrite 16 e.1 e.2

/-- The settings block, or the defaults with EV156 and a SETTINGS_RESET record: 1 older format, 2 newer, 3 failed check. `bw` says
that the Bw block takes its settings. (DEDUCED: assumption 45) -/
def bootSettings (d : Dev) (x : BootInput) (bw : Bool) : Dev :=
  let refuse (d : Dev) (k code found : Nat) : Dev :=
    ((d.bootDefaults bw).raise 156 k code).logPut logSettingsReset 0 (code + 65536 * found)
  match (List.range 16).find? fun k => d.f mgSlotState_KIND k == 5 with
  | none => refuse d 0 3 0
  | some k =>
    let h := d.activeHalf k
    let c := d.halfBytes k h
    let res := d.halfCheck k h (bootBad x k h)
    let d := d.sf mgSlotState_LAST_RESULT k res
    let found := jrTarget c % 65536
    if res ≠ jrOk then refuse d k 3 (if res = jrReadError ∨ res = jrEmpty then 0 else found)
    else if found < x.expect.toNat then refuse d k 1 found
    else if x.expect.toNat < found then refuse d k 2 found
    else
      let d := (x.settings.map fun e => (e.1.toNat, e.2.toNat)).foldl (fun d e => d.bootSetting bw e) d
      (d.slotChange k fun d => d.sf mgSlotState_BOOTED_B k h).setRun (runImageOf uMg 5 (k + 16 * h) c)

/-! ### Images (R487 step 6, R488) -/

/-- A unit's image fails its check at a start: EV156, the record, and FAULTED with IMAGE. (DEDUCED: assumption 45) -/
def bootFail (d : Dev) (u k res : Nat) (faulted : List Nat) : Dev :=
  let d := (d.raise 156 k res).logPut logImageFail (d.dirIndex u) (res + 256 * k)
  faulted.foldl (fun d x => d.takeFault x fcauseImage) d

/-- The program set of slot pair `k` goes into slot 0 of every cluster its TARGET names. A set that a cluster cannot take fails
there as FORMAT (R106, R487). (DEDUCED: assumption 24; DEDUCED: assumption 45) -/
def bootSet (d : Dev) (x : BootInput) (k : Nat) : Dev :=
  let h := d.activeHalf k
  let c := d.halfBytes k h
  let res := d.halfCheck k h (bootBad x k h)
  let cs := (List.range 8).filter fun n => bitAt n (d.partPair k).target.toNat
  let d := d.sf mgSlotState_LAST_RESULT k res
  if res ≠ jrOk then cs.foldl (fun d n => d.bootFail (uFc n) k res (d.children (uFc n))) d
  else
    let d := cs.foldl (fun d n =>
      match d.setInstall (jrPayload c) n 0 (runImageOf (uFc n) 2 (k + 16 * h) c) with
      | some d => d.sf unitImage_IMAGE_VERSION (uFc n) (jrVersion c)
      | none => d.bootFail (uFc n) k jrFormat (d.children (uFc n))) d
    d.feLoadDone.slotChange k fun d => d.sf mgSlotState_BOOTED_B k h

/-- The image of a die (R488): sent where the die runs none, kept where it runs one, with a record when that is not the one the
ACTIVE half holds. (DEDUCED: assumption 45) -/
def bootDie (d : Dev) (x : BootInput) (bl : Nat) : Dev :=
  let u := if bl < 3 then uPd bl else uBw
  match d.slotOf u with
  | none => d
  | some k =>
    let h := d.activeHalf k
    let c := d.halfBytes k h
    match d.runOfUnit u with
    | some r => if r.meas = sha512 (jrHeader c) then d else d.logPut logMismatch 0 bl
    | none =>
      let res := d.halfCheck k h (bootBad x k h)
      let d := d.sf mgSlotState_LAST_RESULT k res
      if res ≠ jrOk then d.bootFail u k res [u]
      else
        let d := (d.dieImage u k h c).sf unitImage_IMAGE_VERSION u (jrVersion c)
        d.slotChange k fun d => d.sf mgSlotState_BOOTED_B k h

/-! ### The boot commit (R36, R487 step 7) -/

/-- The units that the settings enable go from OFFLINE over STAGED to RUN in one commit. (DEDUCED: assumption 45) -/
def bootCommit (d : Dev) (us : List Nat) : Dev :=
  let us := nubNat (us.filter fun u => !unitIsGroup u && d.leafState u == stOffline)
  if us.isEmpty then d
  else
    let t : Txn := { kind := .online (us.headD 0) us, holder := 16, staged := us }
    let d := us.foldl targetStage (d.txnOpen t)
    us.foldl (fun d u => d.tokenArrival u) (d.txnIssue t)

/-- Logic side booted and BL3 up end WAKING (R412). -/
def wakingEnd (d : Dev) : Dev :=
  if d.sleep.power = .waking ∧ d.mg.booted ∧ d.b bwLinkStatus_UP 3 then
    { d with sleep := { d.sleep with power := .active } }
  else d

/-- Steps 4 to 7: links, settings, images, commit. The Bw block takes its settings once after VBAT power-on (R413). -/
def firmware (d : Dev) (x : BootInput) : Dev :=
  let up := (List.range 4).filter fun n => !d.load.down.contains n && !d.b bwLinkStatus_UP n
  let d := up.foldl (fun d n => d.blUp n) d
  let d := d.bootSettings x (!d.sleep.settled)
  let d := { d with sleep := { d.sleep with settled := true } }
  let d := ((List.range 16).filter fun k => d.f mgSlotState_KIND k == 2).foldl (fun d k => d.bootSet x k) d
  let d := ((List.range 4).filter fun n => !d.load.down.contains n).foldl (fun d n => d.bootDie x n) d
  (d.bootCommit (x.online.map (·.val))).wakingEnd

/-- The count and the REASON of a start (R516). (DEDUCED: assumption 45) -/
def bootCount (d : Dev) : Dev :=
  d.sf mgBootStatus_BOOT_COUNT 0 ((d.f mgBootStatus_BOOT_COUNT 0 + 1) % 65536)

/-- The check of the root secret at a start (R487 step 2): the KCV of the bank that holds it is computed again, and without
agreement there is no root secret (R369). -/
def rootCheck (d : Dev) : Dev :=
  match d.rootSecret with
  | none => if d.f ksRoot_STATE 0 = 1 then d.rootFault else d
  | some r =>
    let kcv := ofOctets (kdf r (ascii "XZ-KCV") [] 32)
    let bank := if d.cx.bankA.check.isSome then d.cx.bankA.check else d.cx.bankB.check
    if bank = some kcv then d.wr .ksKcv 0 (BitVec.ofNat 32 kcv) else d.rootFault

/-- A start of the device, which needs PWR_GOOD (R515). A first start in BLANK begins the creation of the root secret, after
which DEVELOP is programmed and the device resets (R369, R503). After a join of the management pair only the ROM's part runs
(R459, R491). (DEDUCED: assumption 45) -/
def bootStart (d : Dev) (x : BootInput) : Dev :=
  if !d.mg.good then d
  else if d.mg.restarted then (d.bootCount.romStart x).2
  else if d.mg.booted ∨ d.b mgBootStatus_RECOVERY 0 then d
  else
    let d := d.bootCount.sf mgBootStatus_REASON 0 d.mg.why
    if d.lifecycle = 0 then
      if d.mg.fuse.isSome ∨ d.mg.rootWait.isSome ∨ d.mg.flashOps ≠ [] then d
      else d.rootBegin x.entropy x.fuseA x.fuseB
    else
      match (d.rootCheck.bootTable x).romStart x with
      | (true, d) => d.firmware x
      | (false, d) => d

end Dev

end Sys2Proof.Machine
end

