-- ==== Sys2Proof/Machine/Recovery.lean ====
section
/-! DEFINITION. Recovery mode (R493 to R496): the container that arrives over H0, E4 or the Darder link, its check and its
installation. -/
namespace Sys2Proof.Machine

/-- RESULT and STATUS codes of recovery beside those of R483. -/
def recovBusy : Nat := 0x80
def recovOrder : Nat := 0x81

/-- OP codes of the recovery datagrams (R495). -/
def recovInfo : Nat := 2
def recovAck : Nat := 4
def recovResult : Nat := 6

/-- The largest FW_MGMT container (R482). -/
def recovMax : Nat := 0x1600 + 3 * 2 ^ 20

namespace Dev

def inRecovery (d : Dev) : Bool := d.b mgBootStatus_RECOVERY 0

/-- The check of a recovery container (R493): in full, before any flash is written; only FW_MGMT is taken.
(DEDUCED: assumption 46) -/
def recovCheck (d : Dev) (c : List Byte) : Nat :=
  let res := d.jrCheck (some 0) c
  if res = jrOk ∧ jrKind c ≠ 1 then jrFormat else res

/-- An accepted container asks for leave to be written, after which the device resets (R67, R493). MgRecovStatus.BUSY shows it
until it is resolved. (DEDUCED: assumption 46) -/
def recovInstall (d : Dev) (c : List Byte) : Dev := (d.sf mgRecovStatus_BUSY 0 1).flashAsk (.installErase c)

/-- Whether a container has been accepted and is not written yet: every path is refused with BUSY (R493). -/
def recovTaken (d : Dev) : Bool := d.b mgRecovStatus_BUSY 0

/-! ### Over H0 (R494) -/

/-- The staging window's first `n` bytes. -/
def recovWindow (d : Dev) (n : Nat) : List Byte :=
  ((List.range (cdiv n 4)).flatMap fun w => leBytes 4 (d.rd .mgRecovWin w).toNat).take n

/-- A write of MgRecovChunk: chunks come in ascending, contiguous order. (DEDUCED: assumption 46) -/
def recovChunk (d : Dev) (v : Nat) : Dev :=
  let n := v / 65536
  if !d.inRecovery then d
  else if d.recovTaken then d.sf mgRecovStatus_RESULT 0 recovBusy
  else if n = 0 ∨ 128 < n then d.rejWr uMg
  else if v % 65536 * 32768 ≠ d.mg.recovH0.length then d.sf mgRecovStatus_RESULT 0 recovOrder
  else { d with mg := { d.mg with recovH0 := d.mg.recovH0 ++ d.recovWindow (256 * n) } }.sf mgRecovStatus_RESULT 0 0

/-- A write of MgRecovDone: the check of the container. -/
def recovDone (d : Dev) (total : Nat) : Dev :=
  if !d.inRecovery then d
  else if d.recovTaken then d.sf mgRecovStatus_RESULT 0 recovBusy
  else
    let c := d.mg.recovH0.take total
    let res := d.recovCheck c
    let d := { d with mg := { d.mg with recovH0 := [] } }.sf mgRecovStatus_RESULT 0 res
    if res = jrOk then d.recovInstall c else d

/-! ### Over E4 (R495) -/

/-- The addresses of E4 in recovery, and the UDP port (R495). -/
def recovMac (d : Dev) : List Nat := [0x02, 0x1F, 0x3D] ++ beOctets 3 (d.serial % 2 ^ 24)
def recovIp : List Nat := [169, 254, 96, 40]

/-- A frame that arrives at port `p` in recovery: an ARP request at E4 for the ROM's address is answered (R495; the format is that
of RFC 826). (PRESUMED: assumption 46) -/
def recovArp (d : Dev) (p : Nat) (x : EthRx) : Dev :=
  let b := x.bytes
  let mac := d.recovMac.map byteOf
  let ip := recovIp.map byteOf
  if d.inRecovery && p == 4 && !x.fcsBad && !x.codeErr && (b.take 6 == mac || b.take 6 == List.replicate 6 255)
      && beAt b 12 8 == 0x0806000108000604 && beAt b 20 2 == 1 && (b.drop 38).take 4 == ip then
    let asker := (b.drop 22).take 10
    d.emit (.eth p (padded (asker.take 6 ++ mac ++ beBytes 8 0x0806000108000604 ++ beBytes 2 2 ++ mac ++ ip ++ asker)) false)
  else d
def recovPort : Nat := 6976

/-- A datagram to `dest` as the frame that carries it: Ethernet, IPv4 and UDP from port 6976, in the formats of RFC 791 and RFC
768 with no options, a TTL of 64 and no UDP checksum. (PRESUMED: assumption 46) -/
def recovFrame (d : Dev) (dest : RecovPeer) (body : List Byte) : List Byte :=
  let ip (sum : Nat) : List Byte :=
    beBytes 2 0x4500 ++ beBytes 2 (28 + body.length) ++ beBytes 4 0 ++ beBytes 2 0x4011 ++ beBytes 2 sum
      ++ recovIp.map byteOf ++ beBytes 4 dest.ip.toNat
  beBytes 6 dest.mac.toNat ++ d.recovMac.map byteOf ++ beBytes 2 0x0800 ++ ip (not16 (ocRange 0 (ip 0)))
    ++ beBytes 2 recovPort ++ beBytes 2 dest.port.toNat ++ beBytes 2 (8 + body.length) ++ beBytes 2 0 ++ body

/-- Sending a datagram out of E4. -/
def recovSend (d : Dev) (dest : RecovPeer) (op status block : Nat) (payload : List Byte) : Dev :=
  d.emit (.eth 4 (padded (d.recovFrame dest
    (beBytes 2 0x5852 ++ beBytes 1 op ++ beBytes 1 status ++ beBytes 4 block ++ payload))) false)

/-- Whether a datagram of `sender` is one for the ROM: in recovery, to its port. -/
def recovHears (d : Dev) (sender : RecovPeer) : Bool := d.inRecovery && sender.dst.toNat == recovPort

/-- HELLO: opens a session, or is refused while another sender's is open. (DEDUCED: assumption 46) -/
def recovHello (d : Dev) (sender : RecovPeer) : Dev :=
  if !d.recovHears sender then d
  else if d.recovTaken then d.recovSend sender recovResult recovBusy 0 []
  else
    let info := beBytes 8 d.serial ++ beBytes 1 d.lifecycle ++ beBytes 4 recovMax
    let start (d : Dev) : Dev :=
      { d with mg := { d.mg with recovFrom := some sender, recovE4 := [] } }.recovSend sender recovInfo 0 0 info
    match d.mg.recovFrom with
    | none => start d
    | some s => if s = sender then start d else d.recovSend sender recovResult recovBusy 0 []

/-- DATA: the next block is taken, the last one acknowledged is acknowledged again, any other ignored. (DEDUCED: assumption 46) -/
def recovData (d : Dev) (sender : RecovPeer) (block : Nat) (data : List Byte) : Dev :=
  if d.recovHears sender ∧ d.mg.recovFrom = some sender then
    if d.recovTaken then d.recovSend sender recovResult recovBusy 0 []
    else
    let n := d.mg.recovE4.length
    if block = cdiv n 1024 ∧ n % 1024 = 0 ∧ data ≠ [] ∧ data.length ≤ 1024 then
      { d with mg := { d.mg with recovE4 := d.mg.recovE4 ++ data } }.recovSend sender recovAck 0 block []
    else if block + 1 = cdiv n 1024 then d.recovSend sender recovAck 0 block []
    else d
  else d

/-- END: the check, and its RESULT. (DEDUCED: assumption 46) -/
def recovEnd (d : Dev) (sender : RecovPeer) (total : Nat) : Dev :=
  if d.recovHears sender ∧ d.mg.recovFrom = some sender then
    if d.recovTaken then d.recovSend sender recovResult recovBusy 0 []
    else
    let c := d.mg.recovE4.take total
    let res := d.recovCheck c
    let d := { d with mg := { d.mg with recovE4 := [] } }.recovSend sender recovResult res 0 []
    if res = jrOk then d.recovInstall c else d
  else d

/-- 10 s without a datagram end the session. -/
def recovSessionEnd (d : Dev) : Dev :=
  if d.inRecovery then { d with mg := { d.mg with recovFrom := none, recovE4 := [] } } else d

/-! ### Over the Darder link (R496) -/

/-- RECOVER: the check of the container of `n` bytes at SRAM 0x0010_0000. Answers its result. (DEDUCED: assumption 46) -/
def recovDarder (d : Dev) (n : Nat) : Nat × Dev :=
  let c := memGet d.eng.sram 0x100000 n
  let res := d.recovCheck c
  (res, if res = jrOk then d.recovInstall c else d)

end Dev

end Sys2Proof.Machine
end

