-- ==== Sys2Proof/Machine/Darder.lean ====
section
/-! DEFINITION. The Darder link (R505 to R509): lock state and unlock tokens, halting, stepping, breakpoints and watchpoints,
registers and memories, and its way into recovery (R496). -/
namespace Sys2Proof.Machine

/-- The bytes of a request that its CRC covers: all after SYNC (R506). -/
def darderBytes (q : DarderReq) : List Byte :=
  [q.cmd, q.tag, q.target, q.sub] ++ leBytes 2 q.payload.length ++ leBytes 4 q.addr.toNat ++ q.payload

/-- CRC of the Darder link: CRC16 of R135 from 0xFFFF, with no final XOR (R506). -/
def darderCrc (bs : List Byte) : Nat := crcRange crc16 0xFFFF bs

/-- Whether the CRC of a request is good. -/
def darderOk (q : DarderReq) : Bool := q.crc.toNat == darderCrc (darderBytes q)

/-- A response: SYNC, STATUS, TAG, LEN, payload and CRC, which goes out high byte first (R506). -/
def darderPacket (st : Nat) (tag : Byte) (payload : List Byte) : List Byte :=
  let body := [byteOf st, tag] ++ leBytes 2 payload.length ++ payload
  0x5A :: body ++ beBytes 2 (darderCrc body)

/-- STATUS codes (R507). -/
def dkOk : Nat := 0
def dkLocked : Nat := 1
def dkDenied : Nat := 2
def dkBadCrc : Nat := 3
def dkBadCmd : Nat := 4
def dkBadTarget : Nat := 5
def dkNotHalted : Nat := 6
def dkRefusedSafety : Nat := 7
def dkFault : Nat := 8
def dkTokenBad : Nat := 9
def dkBusy : Nat := 10

/-- The length of an unlock token (R508). -/
def tokenLen : Nat := 3437

/-- The hart that a request names: TARGET, and for an engine the thread SUB[1:0] (R506). -/
def reqHart (q : DarderReq) : Hart :=
  let n := q.target.toNat
  if n < 64 then .fe (Fin.ofNat 64 n) (Fin.ofNat 4 q.sub.toNat) else .mc (Fin.ofNat 2 n)

/-- Whether TARGET names an engine or a core. -/
def reqEngine (q : DarderReq) : Bool := decide (q.target.toNat < 66)

/-- The grant that halting a target needs (R507, R508). -/
def haltGrant (q : DarderReq) : Nat := if q.target.toNat < 64 then 0 else 1

namespace Dev

/-! ### Sessions -/

/-- (DEDUCED: assumption 48) -/
def dbgUnlocked (d : Dev) : Bool := d.b dbgLink_UNLOCKED 0

/-- The grants in force: all in DEVELOP and BLANK (R504, DbgLink). (DEDUCED: assumption 48) -/
def dbgGrants (d : Dev) : Nat := if d.lifecycle ≤ 1 then 0xFF else d.f dbgLink_GRANTS 0

/-- The end of a session, with EV158 where there was one (R505, R508). -/
def dbgEnd (d : Dev) : Dev :=
  if d.dbgUnlocked then ((d.sf dbgLink_UNLOCKED 0 0).sf dbgLink_GRANTS 0 0).raise 158 0 2 else d

/-- The response to a request (R506). -/
def dkSay (d : Dev) (q : DarderReq) (st : Nat) (payload : List Byte) : Dev := d.emit (.darder (darderPacket st q.tag payload))

/-- A request of command `code`: a bad CRC is answered BAD_CRC with no effect (R506), and a CMD that is none of R507's, or a LEN
above 1,024, BAD_CMD. A request of another command is none of this row's. (DEDUCED: assumption 48) -/
def dkCmd (d : Dev) (q : DarderReq) (code : Nat) (go : Dev → Dev) : Dev :=
  if !darderOk q then d.dkSay q dkBadCrc []
  else if q.cmd.toNat = 0 ∨ 15 < q.cmd.toNat ∨ 1024 < q.payload.length then d.dkSay q dkBadCmd []
  else if q.cmd.toNat = code then go d
  else d

/-- A request under the lock (R504): answered LOCKED or DENIED, or carried out by `go`. `free` says that PRODUCTION takes the
command without a token, `grant` is the grant bit it needs. (DEDUCED: assumption 48) -/
def dkLocks (d : Dev) (q : DarderReq) (free : Bool) (grant : Option Nat) (go : Dev → Dev) : Dev :=
  if d.lifecycle ≤ 1 ∨ (free ∧ d.lifecycle = 2) then go d
  else if !d.dbgUnlocked then d.dkSay q dkLocked []
  else if grant.any fun b => !bitAt b d.dbgGrants then d.dkSay q dkDenied []
  else go d

/-- A request under the lock, of which `go` gives STATUS and payload. (DEDUCED: assumption 48) -/
def dkRun (d : Dev) (q : DarderReq) (free : Bool) (grant : Option Nat) (go : Dev → Nat × List Byte × Dev) : Dev :=
  d.dkLocks q free grant fun d =>
    let (st, p, d) := go d
    d.dkSay q st p

/-- The lock state as responses show it: UNLOCKED and the grants. (DEDUCED: assumption 48) -/
def dkLock (d : Dev) : List Byte := leBytes 1 (if d.dbgUnlocked then 1 else 0) ++ leBytes 1 d.dbgGrants

/-- IDCODE: part, STEPPING, serial, lifecycle, lock state. It is free in every lifecycle state (R504). (DEDUCED: assumption 48) -/
def dkIdcode (d : Dev) (q : DarderReq) : Dev :=
  d.dkSay q dkOk (leBytes 2 (d.f idChip_PART 0) ++ leBytes 1 (d.f idChip_STEPPING 0) ++ leBytes 8 d.serial
    ++ leBytes 1 d.lifecycle ++ d.dkLock)

/-- CHALLENGE: a fresh one; it ends any session. (DEDUCED: assumption 48) -/
def dkChallenge (d : Dev) (q : DarderReq) : Dev :=
  d.dkRun q true none fun d =>
    let (c, d) := d.dbgEnd.drbgBytes 16
    (dkOk, c.map byteOf, { d with mg := { d.mg with challenge := some (ofLeOctets c), token := [] } })

/-- The token bytes received. (DEDUCED: assumption 48) -/
def tokenBytes (d : Dev) : List Byte := (List.range tokenLen).map fun i => byteOf (Sparse.get (fun _ => 0) d.mg.token i)

/-- The check of a whole token (R508). (DEDUCED: assumption 48) -/
def tokenGood (d : Dev) (t : List Byte) : Bool :=
  let s := leAt t 3 1
  let dig := d.keySetDigest s
  let m := nats (slice t 0 64)
  leAt t 0 2 == 0x4454 && leAt t 2 1 == 1 && d.keySetUsable s && leAt t 4 8 == d.serial
    && d.mg.challenge == some (leAt t 16 16)
    && edVerify (Config.edKeyOf dig) m (nats (slice t 0x40 64))
    && mlVerify (Config.mlKeyOf dig) m (nats (slice t 0x80 3309))

/-- The last byte of a token is there: it is taken, or refused with its challenge spent. (DEDUCED: assumption 48) -/
def tokenCheck (d : Dev) : Nat × Dev :=
  let t := d.tokenBytes
  let ok := d.tokenGood t
  let d : Dev := { d with mg := { d.mg with token := [] } }
  if ok then
    let grants := leAt t 12 4
    let d := (d.sf dbgLink_UNLOCKED 0 1).sf dbgLink_GRANTS 0 (grants % 256)
    (dkOk, (d.logPut logUnlock 0 (grants % 256 + 256 * leAt t 3 1)).raise 158 0 1)
  else (dkTokenBad, { d with mg := { d.mg with challenge := none } })

/-- UNLOCK: token bytes at offset ADDR; bytes beyond a token's length are none of it. (DEDUCED: assumption 48) -/
def dkUnlock (d : Dev) (q : DarderReq) : Dev :=
  d.dkRun q true none fun d =>
    let put (m : Sparse Nat) (e : Nat × Byte) : Sparse Nat :=
      if e.1 < tokenLen then Sparse.set (fun _ => 0) m e.1 (256 + e.2.toNat) else m
    let at' := (List.range q.payload.length).map fun i => q.addr.toNat + i
    let d : Dev := { d with mg := { d.mg with token := (at'.zip q.payload).foldl put d.mg.token } }
    if d.mg.token.length = tokenLen then
      let (st, d) := d.tokenCheck
      (st, [], d)
    else (dkOk, [], d)

/-! ### Halting -/

/-- A request about a halted engine or core. -/
def dkHalted (d : Dev) (q : DarderReq) (go : Dev → Nat × List Byte × Dev) : Nat × List Byte × Dev :=
  if !reqEngine q then (dkBadTarget, [], d)
  else if !d.isHalted q.target.toNat then (dkNotHalted, [], d)
  else go d

/-- HALT (R509). (DEDUCED: assumption 49) -/
def dkHalt (d : Dev) (q : DarderReq) : Dev :=
  d.dkRun q false (some (haltGrant q)) fun d =>
    if !reqEngine q then (dkBadTarget, [], d)
    else
      let (ok, d) := d.haltTarget q.target.toNat haltByHalt
      (if ok then dkOk else dkRefusedSafety, [], d)

/-- The harts of a target. -/
def targetHarts (tgt : Nat) : List Hart :=
  if tgt < 64 then (List.range 4).map fun t => .fe (Fin.ofNat 64 tgt) (Fin.ofNat 4 t) else [.mc (Fin.ofNat 2 tgt)]

/-- RESUME: the threads go on where they stopped. -/
def dkResume (d : Dev) (q : DarderReq) : Dev :=
  d.dkRun q false (some (haltGrant q)) fun d => d.dkHalted q fun d =>
    let tgt := q.target.toNat
    (dkOk, [], (targetHarts tgt).foldl (fun d h => d.wakeHart h) (d.haltEnd tgt))

/-- The reason a hart is halted for lies at this place. -/
def haltKey : Hart → Nat
  | .fe n t => 4 * n.val + t.val
  | .mc c => 256 + c.val

/-- One hart leaves its halt, or goes back into it; a core that a step left in WFI stands READY at the WFI (R157). -/
def hartHalt (d : Dev) (h : Hart) (on : Bool) : Dev :=
  match h with
  | .fe n t =>
    let x := d.thr n.val t.val
    d.setThr n.val t.val
      (if on then { x with st := .halted, halted := some x.st } else { x with st := x.halted.getD .idle, halted := none })
  | .mc c =>
    let x := d.mcCore c.val
    d.setMc c.val
      (if on then { x with st := .halted, halted := some (if d.inWfi c.val then .ready else x.st) }
       else { x with st := x.halted.getD .ready, halted := none })

/-- STEP: one instruction of a halted thread, with reason STEP; a thread that waits goes on only when what it waits for is
there. (DESIGN CHOICE: assumption 9; DEDUCED: assumption 49) -/
def dkStep (d : Dev) (q : DarderReq) (ecc : Ecc) : Dev :=
  d.dkRun q false (some (haltGrant q)) fun d => d.dkHalted q fun d =>
    let h := reqHart q
    let d := d.hartHalt h false
    let d := if d.hartSt h = .interlock then d.wakeHart h else d
    let d := if d.hartSt h = .ready then d.issueWord h (d.wordAtPc h) ecc else d.wakeHart h
    (dkOk, [], (d.hartHalt h true).setHaltWhy (haltKey h) haltByStep)

/-- The breakpoint or watchpoint of a target at an index, replaced. -/
def debugPoint (l : List (Nat × Nat × Nat × Nat)) (e : Nat × Nat × Nat × Nat) : List (Nat × Nat × Nat × Nat) :=
  l.filter (fun x => !(x.1 == e.1 && x.2.1 == e.2.1)) ++ [e]

/-- BKPT and WATCH: the point of index SUB[7:4], of which there are `n`; any other index is no such command.
(DEDUCED: assumption 49) -/
def dkPoint (d : Dev) (q : DarderReq) (n : Nat) (put : Dev → Nat × Nat × Nat × Nat → Dev) : Dev :=
  d.dkRun q false (some (haltGrant q)) fun d =>
    let i := q.sub.toNat / 16
    if !reqEngine q then (dkBadTarget, [], d)
    else if n ≤ i then (dkBadCmd, [], d)
    else (dkOk, [], put d (q.target.toNat, i, q.addr.toNat, leNat (q.payload.take 2)))

def dkBkpt (d : Dev) (q : DarderReq) : Dev :=
  d.dkPoint q 4 fun d e => { d with safe := { d.safe with bkpt := debugPoint d.safe.bkpt e } }

def dkWatch (d : Dev) (q : DarderReq) : Dev :=
  d.dkPoint q 2 fun d e => { d with safe := { d.safe with watch := debugPoint d.safe.watch e } }

/-- The enabled breakpoint or watchpoint `i` of a target. -/
def pointOf (l : List (Nat × Nat × Nat × Nat)) (tgt i : Nat) : Option (Nat × Nat × Nat × Nat) :=
  l.find? fun e => e.1 == tgt && e.2.1 == i && bitAt 15 e.2.2.2

/-- A breakpoint matches: PC is its address. It acts while the link may halt the target. (DEDUCED: assumption 22) -/
def bkptHit (d : Dev) (h : Hart) (i : Nat) : Dev :=
  let hit (tgt : Nat) : Bool := d.mayHalt tgt && (pointOf d.safe.bkpt tgt i).any fun e => e.2.2.1 == (d.rf h).pc.toNat
  match (d.targetsOf h).find? hit with
  | some tgt => if d.isHalted tgt then d else (d.haltTarget tgt haltByBkpt).2
  | none => d

/-- The access that instruction `i` of a hart makes now: its address, how many bytes, whether it reads and whether it writes
(R131 to R133); none for any other, and while its guard is false. -/
def instrAccess (d : Dev) (h : Hart) (i : Instr) : Option (Nat × Nat × Bool × Bool) :=
  let r := d.rf h
  let on (g : Guard) (x : Nat × Nat × Bool × Bool) : Option (Nat × Nat × Bool × Bool) := if guardTrue r g then some x else none
  match i with
  | .ld _ g _ ra sz off _ | .lds _ g _ ra sz off _ | .ldn _ g _ ra sz off _ | .ldns _ g _ ra sz off _ =>
    on g (d.effective h ra off (2 ^ sz.val), 2 ^ sz.val, true, false)
  | .st _ g _ ra sz off | .stn _ g _ ra sz off => on g (d.effective h ra off (2 ^ sz.val), 2 ^ sz.val, false, true)
  | .amoadd _ g _ ra _ wide _ | .amoswap _ g _ ra _ wide _ | .amoor _ g _ ra _ wide _ | .amoand _ g _ ra _ wide _
  | .amocas _ g _ ra _ wide _ => on g ((r.get ra.val).toNat, if wide then 8 else 4, true, true)
  | .csum _ g _ ra rb _ | .crc8 _ g _ ra rb _ | .crc8h _ g _ ra rb _ | .crc16 _ g _ ra rb _ | .crc32 _ g _ ra rb _
  | .crc32c _ g _ ra rb _ | .crc32p4 _ g _ ra rb _ => on g ((r.get ra.val).toNat, (r.get rb.val).toNat, true, false)
  | _ => none

/-- Whether a watchpoint with address `addr` and payload `p` covers an access: payload bits 7..0 are the address bits that it leaves
open, and bits 9 and 8 say whether it takes writes and reads (R507). (DESIGN CHOICE: assumption 49) -/
def watchCovers (addr p : Nat) (x : Nat × Nat × Bool × Bool) : Bool :=
  let open' := bits 7 0 p
  let lo := addr - addr % 256 + bits 7 0 (addr &&& (255 - open'))
  let hit (a : Nat) : Bool := a - a % 256 + bits 7 0 (a &&& (255 - open')) == lo
  ((bitAt 8 p && x.2.2.1) || (bitAt 9 p && x.2.2.2)) && (List.range x.2.1).any fun k => hit (x.1 + k)

/-- The access of the instruction at PC matches watchpoint `i`: the halt comes before it is made. A watchpoint acts while the
link may halt the target. (DEDUCED: assumption 22) -/
def watchHit (d : Dev) (h : Hart) (i : Nat) : Dev :=
  let acc := (porrosWord h (d.wordAtPc h) {}).bind (d.instrAccess h)
  let hit (tgt : Nat) : Bool :=
    d.mayHalt tgt && (pointOf d.safe.watch tgt i).any fun e => acc.any (watchCovers e.2.2.1 e.2.2.2)
  match (d.targetsOf h).find? hit with
  | some tgt => if d.isHalted tgt then d else (d.haltTarget tgt haltByWatch).2
  | none => d

/-! ### Registers and memories -/

/-- What REGR reads at ADDR (R507); none where there is no such register. A core's system registers come before its special
registers of the same number. -/
def dkRegGet (d : Dev) (h : Hart) (a : Nat) : Option (Nat × Dev) :=
  let r := d.rf h
  if a < 0x20 then some ((r.get a).toNat, d)
  else if a < 0x28 then some (if r.pget (a - 0x20) then 1 else 0, d)
  else if a = 0x40 then some (r.pc.toNat, d)
  else if 0x100 ≤ a then
    match h with
    | .mc c =>
      match d.sysRead c.val (a - 0x100) with
      | some v => some (v, d)
      | none => d.special h (a - 0x100)
    | .fe _ _ => d.special h (a - 0x100)
  else none

/-- What REGW writes; none where the hart has no such register to write. -/
def dkRegPut (d : Dev) (h : Hart) (a : Nat) (v : Word64) : Option Dev :=
  let r := d.rf h
  if a < 0x20 then some (d.setRf h (r.put a v))
  else if a < 0x28 then some (d.setRf h (r.pput (a - 0x20) (bitAt 0 v.toNat)))
  else if a = 0x40 then some (d.setRf h { r with pc := v })
  else if 0x100 ≤ a then
    match h with
    | .mc c => (sysWrite (d.mcCore c.val) (a - 0x100) v).map fun x => d.setMc c.val x
    | .fe _ _ => if d.mayMts h (a - 0x100) then some (d.setClass h v.toNat) else none
  else none

/-- The answer to an access that raises an exception. -/
def dkExc (d : Dev) (e : Nat) : Nat × List Byte × Dev := (dkFault, leBytes 1 e, d)

/-- (DEDUCED: assumption 49) -/
def dkRegr (d : Dev) (q : DarderReq) : Dev :=
  d.dkRun q false (some 2) fun d => d.dkHalted q fun d =>
    match d.dkRegGet (reqHart q) q.addr.toNat with
    | some (v, d) => (dkOk, leBytes 8 v, d)
    | none => d.dkExc excIllegal

/-- (DEDUCED: assumption 49) -/
def dkRegw (d : Dev) (q : DarderReq) : Dev :=
  d.dkRun q false (some 4) fun d => d.dkHalted q fun d =>
    match d.dkRegPut (reqHart q) q.addr.toNat (BitVec.ofNat 64 (leNat (q.payload.take 8))) with
    | some d => (dkOk, [], d)
    | none => d.dkExc excIllegal

/-- Whether an access of `n` bytes is one of the sizes of R131; any other is a byte range. -/
def dkRange (n : Nat) : Bool := !(n == 1 || n == 2 || n == 4 || n == 8)

/-- MEMR of as many bytes as the request carries. The register window reads as for a core, but KsIdSeed reads 0. -/
def dkMemGet (d : Dev) (q : DarderReq) (ecc : Ecc) : Nat × List Byte × Dev :=
  let n := q.payload.length
  let a := q.addr.toNat
  let reg (o : Nat) : List Byte := leBytes n (if n = 8 then d.read8 o else d.read4 o)
  if n = 0 then (dkOk, [], d)
  else if q.target = 0xFF then
    if (n ≠ 4 ∧ n ≠ 8) ∨ a % n ≠ 0 then d.dkExc excAlign
    else if 2 ^ 24 < a + n then d.dkExc excBounds
    else (dkOk, reg a, d)
  else if !reqEngine q then (dkBadTarget, [], d)
  else
    let h := reqHart q
    let e := d.accessExc h a n false (dkRange n)
    if e ≠ 0 then d.dkExc e
    else match d.place h a with
      | none => d.dkExc excBounds
      | some (.reg, o) => (dkOk, reg o, d)
      | some (s, o) =>
        match d.spcLoad h s o n ecc with
        | (some bs, d) => (dkOk, bs, d)
        | (none, d) => d.dkExc excMemory

/-- Whether a write of `v` is one of LsPair of the management pair that only firmware on it may make: a split, or a join from SPLIT
(R459). -/
def dkPairRefused (d : Dev) (o v : Nat) : Bool :=
  regAt o == some (.lsPair, 32) && (v % 4 == 2 || (v % 4 == 1 && d.f lsPair_STATE 32 == pairSplit))

/-- The four-byte register writes of a request, in order, as a core makes them; the answer comes with the last. A far-side one
waits for room in its window's queue and for its outcome, and over a link that is down it faults (R113, R441).
(DEDUCED: assumption 40; DEDUCED: assumption 49) -/
def dkWrites (d : Dev) (q : DarderReq) : List (Nat × Nat) → Dev
  | [] => d.dkSay q dkOk []
  | (o, v) :: rest =>
    if d.dkPairRefused o v then (d.rejWr uLs).dkWrites q rest
    else match farWindow 16 o with
      | none => (d.regWrite 16 o v).dkWrites q rest
      | some w =>
        if d.farDown w then d.dkSay q dkFault (leBytes 1 excFarside)
        else if 32 ≤ (d.farQueue w).length then
          { d with host := { d.host with dkWait := d.host.dkWait ++ [(q, (o, v) :: rest)] } }
        else d.farEnter w { dom := 16, seq := 0, off := o, value := v, src := .darder q rest }

/-- Writing the register window as a core does. -/
def dkRegWrite (d : Dev) (q : DarderReq) (o : Nat) (bs : List Byte) : Dev :=
  d.dkWrites q ((List.range (bs.length / 4)).map fun k => (o + 4 * k, leAt bs (4 * k) 4))

/-- MEMW of the payload, with its answer. A write into a packet that still shares its cells needs cells of its own (R82): BUSY
without. (DEDUCED: assumption 49) -/
def dkMemPut (d : Dev) (q : DarderReq) : Dev :=
  let bs := q.payload
  let n := bs.length
  let a := q.addr.toNat
  let fault (d : Dev) (e : Nat) : Dev := d.dkSay q dkFault (leBytes 1 e)
  if n = 0 then d.dkSay q dkOk []
  else if q.target = 0xFF then
    if (n ≠ 4 ∧ n ≠ 8) ∨ a % n ≠ 0 then fault d excAlign
    else if 2 ^ 24 < a + n then fault d excBounds
    else d.dkRegWrite q a bs
  else if !reqEngine q then d.dkSay q dkBadTarget []
  else
    let h := reqHart q
    let e := d.accessExc h a n true (dkRange n)
    if e ≠ 0 then fault d e
    else match d.place h a, h with
      | some (.fw, o), .fe f t =>
        match d.ownCells f.val t.val (d.thr f.val t.val).out.length with
        | none => d.dkSay q dkBusy []
        | some d =>
          let x := d.thr f.val t.val
          (d.setThr f.val t.val { x with out := splice x.out (x.fwBase + o) bs }).dkSay q dkOk []
      | some (.reg, o), _ => d.dkRegWrite q o bs
      | some (s, o), _ => (d.spcStore h s o bs).dkSay q dkOk []
      | none, _ => fault d excBounds

/-- (DEDUCED: assumption 49) -/
def dkMemr (d : Dev) (q : DarderReq) (ecc : Ecc) : Dev := d.dkRun q false (some 2) fun d => d.dkMemGet q ecc

/-- In recovery, a write of the upper SRAM of a management core needs no token (R496). (DEDUCED: assumption 46) -/
def recovStage (d : Dev) (q : DarderReq) : Bool :=
  d.inRecovery && reqEngine q && decide (64 ≤ q.target.toNat) && decide (0x100000 ≤ q.addr.toNat)
    && decide (q.addr.toNat + q.payload.length ≤ 0x400000)

/-- MEMW. The staging of a recovery container is refused while one waits to be written (R493). (DEDUCED: assumption 49) -/
def dkMemw (d : Dev) (q : DarderReq) : Dev :=
  if d.recovStage q then
    if d.recovTaken then d.dkSay q dkBusy []
    else (d.spcStore (reqHart q) .sram q.addr.toNat q.payload).dkSay q dkOk []
  else d.dkLocks q false (some 3) fun d => d.dkMemPut q

/-! ### The device -/

/-- RESET: the answer leaves before the device resets. (DEDUCED: assumption 49) -/
def dkReset (d : Dev) (q : DarderReq) : Dev :=
  if 2 ≤ d.lifecycle ∧ !d.dbgUnlocked then d.dkSay q dkLocked []
  else if !bitAt 7 d.dbgGrants then d.dkSay q dkDenied []
  else (d.dkSay q dkOk []).internalReset

/-- RECOVER: in recovery only, without a token; the payload of the answer is the result of the check (R493, R496), and BUSY
while an accepted container waits to be written. (DEDUCED: assumption 49) -/
def dkRecover (d : Dev) (q : DarderReq) : Dev :=
  if !d.inRecovery then d.dkSay q dkBadCmd []
  else if d.recovTaken then d.dkSay q dkBusy []
  else
    let (res, d) := d.recovDarder q.addr.toNat
    d.dkSay q dkOk (leBytes 1 res)

/-- STATUS: the halt state and the reason of each thread of the target, or the state of every target for the device; lock
state and grants. (DEDUCED: assumption 49) -/
def dkStatus (d : Dev) (q : DarderReq) : Dev :=
  d.dkRun q true none fun d =>
    let tgt := q.target.toNat
    if q.target = 0xFF then
      (dkOk, ((List.range 3).flatMap fun w => leBytes 4 (d.rd .dbgHalted w).toNat) ++ d.dkLock, d)
    else if !reqEngine q then (dkBadTarget, [], d)
    else
      (dkOk, leBytes 1 (if d.isHalted tgt then 1 else 0)
        ++ (targetHarts tgt).flatMap (fun h => leBytes 1 (d.haltWhy (haltKey h))) ++ d.dkLock, d)

/-- A reset of the link ends any session, and its challenge with the token bytes are forgotten (R505, R508).
(DEDUCED: assumption 48) -/
def dkLinkReset (d : Dev) : Dev :=
  { d.dbgEnd with mg := { d.dbgEnd.mg with challenge := none, token := [] } }

end Dev

/-! ### The commands -/

def execDarderIdcode (q : DarderReq) (s : State) : Host.Outcome State Fault Refusal := s.logic fun d => d.dkCmd q 1 fun d => d.dkIdcode q

def execDarderChallenge (q : DarderReq) (s : State) : Host.Outcome State Fault Refusal := s.logic fun d => d.dkCmd q 2 fun d => d.dkChallenge q

def execDarderUnlock (q : DarderReq) (s : State) : Host.Outcome State Fault Refusal := s.logic fun d => d.dkCmd q 3 fun d => d.dkUnlock q

def execDarderHalt (q : DarderReq) (s : State) : Host.Outcome State Fault Refusal := s.logic fun d => d.dkCmd q 4 fun d => d.dkHalt q

def execDarderResume (q : DarderReq) (s : State) : Host.Outcome State Fault Refusal := s.logic fun d => d.dkCmd q 5 fun d => d.dkResume q

def execDarderStep (q : DarderReq) (ecc : Ecc) (s : State) : Host.Outcome State Fault Refusal :=
  s.logic fun d => d.dkCmd q 6 fun d => d.dkStep q ecc

def execDarderBkpt (q : DarderReq) (s : State) : Host.Outcome State Fault Refusal := s.logic fun d => d.dkCmd q 7 fun d => d.dkBkpt q

def execDarderWatch (q : DarderReq) (s : State) : Host.Outcome State Fault Refusal := s.logic fun d => d.dkCmd q 8 fun d => d.dkWatch q

def execDarderRegr (q : DarderReq) (s : State) : Host.Outcome State Fault Refusal := s.logic fun d => d.dkCmd q 9 fun d => d.dkRegr q

def execDarderRegw (q : DarderReq) (s : State) : Host.Outcome State Fault Refusal := s.logic fun d => d.dkCmd q 10 fun d => d.dkRegw q

def execDarderMemr (q : DarderReq) (ecc : Ecc) (s : State) : Host.Outcome State Fault Refusal :=
  s.logic fun d => d.dkCmd q 11 fun d => d.dkMemr q ecc

def execDarderMemw (q : DarderReq) (s : State) : Host.Outcome State Fault Refusal := s.logic fun d => d.dkCmd q 12 fun d => d.dkMemw q

def execDarderReset (q : DarderReq) (s : State) : Host.Outcome State Fault Refusal := s.logic fun d => d.dkCmd q 13 fun d => d.dkReset q

def execDarderRecover (q : DarderReq) (s : State) : Host.Outcome State Fault Refusal := s.logic fun d => d.dkCmd q 14 fun d => d.dkRecover q

def execDarderStatus (q : DarderReq) (s : State) : Host.Outcome State Fault Refusal := s.logic fun d => d.dkCmd q 15 fun d => d.dkStatus q

def execDarderLinkReset (s : State) : Host.Outcome State Fault Refusal := s.logic fun d => d.dkLinkReset

def execDebugBreakpointHit (h : Hart) (i : Fin 4) (s : State) : Host.Outcome State Fault Refusal :=
  s.logic fun d => d.bkptHit h i.val

def execDebugWatchpointHit (h : Hart) (i : Fin 2) (s : State) : Host.Outcome State Fault Refusal :=
  s.logic fun d => d.watchHit h i.val

end Sys2Proof.Machine
end

