-- ==== Sys2Proof/Machine/Host.lean ====
section
/-! DEFINITION. The host bridge (R428 to R447): memory requests to the BARs, permissions, far-side windows, functions. -/
namespace Sys2Proof.Machine

/-- What a BAR2 offset of domain `n` holds (R430). -/
inductive Bar2 where
  | reg (off : Nat)
  | msix (entry word : Nat)
  | pba (word : Nat)
  | rsv
  deriving DecidableEq, Repr

def bar2At (n off : Nat) : Bar2 :=
  if off < 0x1000 then .reg (0x90000 + 0x1000 * n + off)
  else if off < 0x2000 then .reg (0x390000 + 0x1000 * n + (off - 0x1000))
  else if off < 0x2100 then .reg (0x161000 + 0x100 * n + (off - 0x2000))
  else if 0xE000 ≤ off ∧ off < 0xE400 then .msix ((off - 0xE000) / 16) (off % 16 / 4)
  else if 0xF000 ≤ off ∧ off < 0xF008 then .pba (off % 8 / 4)
  else .rsv

/-- Whether a request has a form that is accepted (R432). -/
def reqOk (x : HostReq) : Bool :=
  x.full && (x.size.toNat == 4 || x.size.toNat == 8) && x.off.toNat % x.size.toNat == 0

/-- The offset of a request within its view. -/
def reqAt (x : HostReq) : Nat := if x.bar2 then x.off.toNat % 65536 else x.off.toNat

/-- What recovery maps of BAR0 (R494). (DEDUCED: assumption 41) -/
def recovMaps (off : Nat) : Bool := decide (off < 0x3000 ∨ (0x77000 ≤ off ∧ off < 0x80000))

namespace Dev

/-! ### Functions -/

def setFn (d : Dev) (n : Nat) (x : PciFn) : Dev :=
  { d with host := { d.host with fns := Sparse.set fnDefault d.host.fns n x } }

/-- Whether the function of domain `n` exists (R429). -/
def fnExists (d : Dev) (n : Nat) : Bool :=
  let pf := d.fn (n / 8 * 8)
  n % 8 == 0 || (pf.vfEnable && decide (n % 8 ≤ pf.numVfs) && !d.inRecovery)

/-- What the function of domain `n` reports (R2, R425): a virtual function's own vendor and device fields read all ones, and the
SR-IOV capability gives its identifiers (`vfIdent`). -/
def pciIdent (d : Dev) (n : Nat) : PciIdent :=
  let pf := n % 8 == 0
  { vendor := if pf then 0x1F3D else 0xFFFF
    device := if pf then 0x9640 else 0xFFFF
    revision := 0x01
    classCode := 0x028000
    subVendor := d.f hbSubsys_SUBSYS_VENDOR 0
    subDevice := d.f hbSubsys_SUBSYS_ID 0
    intPin := 0
    serial := d.f mgSerial_SERIAL 0 + 2 ^ 32 * d.f mgSerial_SERIAL 1 }

/-- The vendor of the virtual functions and the VF Device ID of the SR-IOV capability (R425). -/
def vfIdent : Nat × Nat := (0x1F3D, 0x9641)

/-- The capabilities of the function of domain `n` (R426). -/
def pciCaps (n : Nat) : List PciCap :=
  [.powerManagement, .pciExpress, .msix, .advancedErrors, .ari]
    ++ (if n % 8 = 0 then [.sriov, .serialNumber, .secondary, .physical16, .laneMargining] else [])

/-- The options of those capabilities (R426); every DMA address is an untranslated one of 64 bits. -/
def pciOptions : PciOptions :=
  { d3hot := true, maxPayload := 512, maxReadRequest := 4096, extendedTags := true, tenBitTags := true, flr := true,
    timeouts := [.a, .b, .c, .d], aspmL1 := true, aspmL0s := false, msixVectors := 64, msixTable := 0xE000, msixPba := 0xF000,
    ecrcGenerate := true, ecrcCheck := true, vfBar0 := 2 ^ 24, vfBar2 := 2 ^ 16, pageSizeMin := 4096 }

/-- What the SR-IOV capability gives beside `vfIdent`: TotalVFs, InitialVFs, First VF Offset and VF Stride (R425). -/
def vfLayout : Nat × Nat × Nat × Nat := (7, 7, 1, 1)

/-- Whether a function answers memory requests (R428, R447); in recovery the functions of H0 but the physical one are gone, and H1
is not brought up (R493, R494). -/
def fnAnswers (d : Dev) (n : Nat) : Bool :=
  d.fnExists n && d.bind n == 0 && (d.fn n).mse && !(d.fn n).d3 && (n == 0 || !d.inRecovery)

/-- Messages that waited for their vector to be unmasked, or for Bus Master, are sent (R444, R447). (DEDUCED: assumption 39) -/
def msixFlush (d : Dev) (n : Nat) : Dev :=
  (List.range 64).foldl (fun d v =>
    let e := Sparse.get msixDefault d.host.msix (n * 64 + v)
    if Sparse.get (fun _ => false) d.host.pba (n * 64 + v) && (d.fn n).bme && !bitAt 96 e then
      { d with host := { d.host with pba := Sparse.set (fun _ => false) d.host.pba (n * 64 + v) false } }.emit
        (.msix n v (bits 63 0 e) (bits 95 64 e))
    else d) d

/-- Writing a word of the MSI-X table. -/
def msixWrite (d : Dev) (n entry word v : Nat) : Dev :=
  let e := Sparse.get msixDefault d.host.msix (n * 64 + entry)
  let e := setBits (32 * word + 31) (32 * word) v e
  { d with host := { d.host with msix := Sparse.set msixDefault d.host.msix (n * 64 + entry) e } }.msixFlush n

/-! ### Refused and denied accesses (R433, R436) -/

/-- The first refused or denied access of a domain is recorded while no record is held; answers whether it was.
(DEDUCED: assumption 39) -/
def accRecord (d : Dev) (n : Nat) (write view : Bool) (cause off size : Nat) : Bool × Dev :=
  if d.b hbAccErrRec_VALID n then (false, d)
  else
    let one (b : Bool) : Nat := if b then 1 else 0
    let w := 2 ^ 31 + one write * 2 ^ 30 + one view * 2 ^ 29 + cause * 2 ^ 24 + off % 2 ^ 24
    (true, (d.wr .hbAccErrRec n (BitVec.ofNat 32 w)).wr .hbAccErrBytes n (BitVec.ofNat 32 (size % 8192)))

/-- A request of a form that is refused, or a poisoned one, cause 3, which the function reports through AER too: recorded, counted,
announced. (DEDUCED: assumption 39) -/
def accBad (d : Dev) (n : Nat) (write : Bool) (x : HostReq) (cause : Nat) : Dev :=
  let d := ((d.accRecord n write x.bar2 cause (reqAt x) x.size.toNat).2.inc .hbBadSize n).raise 22 n cause
  if cause = 3 then d.emit (.aer n) else d

/-- Whether an access of four bytes is the upper half of an 8-byte access to a counter, which is one access (R22, R432). -/
def ctrHalf (off size : Nat) : Bool := size == 8 && off % 8 == 4 && (ctrAt (off - 4)).isSome

/-- A denied access: counted, and the first one recorded and announced. A write to HbDomBind counts there too (R428).
(DEDUCED: assumption 39) -/
def accDenied (d : Dev) (n : Nat) (write : Bool) (off size : Nat) : Dev :=
  let d := d.inc (if write then .hbDenyWr else .hbDenyRd) n
  let d := match write, regAt off with
    | true, some (.hbDomBind, _) => d.rejWr uHb
    | _, _ => d
  match d.accRecord n write false 2 off size with
  | (true, d) => d.raise 22 n 2
  | (false, d) => d

/-- A write `v` of UnitCmd that was denied: PERMISSION, and while BUSY it is discarded (R40, R41). (DEDUCED: assumption 39) -/
def cmdDenied (d : Dev) (u v : Nat) : Dev := d.cmdGuard false u (v % 16) (bits 15 8 v) id

/-- A denied write that was a unit command completes it with PERMISSION (R41). (DEDUCED: assumption 39) -/
def denyWrite (d : Dev) (n off size v : Nat) : Dev :=
  let d := d.accDenied n true off size
  match regAt off with
  | some (.unitCmd, u) => d.cmdDenied u v
  | _ => d

/-! ### Far-side windows (R440 to R443) -/

/-- A write is discarded because its pair is latched. (DEDUCED: assumption 40) -/
def farDiscard (d : Dev) (n w : Nat) : Dev :=
  let p := farPair n w
  (d.sf hbFarErrSeq_DISCARDED p (min 65535 (d.f hbFarErrSeq_DISCARDED p + 1))).inc .hbFarDiscard n

/-- A far-side write fails (R442, R443): the first failure of its pair latches it. -/
def farFail (d : Dev) (w : Nat) (x : FarWrite) (cause : Nat) : Dev :=
  let p := farPair x.dom w
  if d.b hbFarErrLatch_LATCHED p then d.farDiscard x.dom w
  else
    let d := d.wr .hbFarErrLatch p (BitVec.ofNat 32 (2 ^ 31 + cause * 2 ^ 24 + x.off % 2 ^ 24))
    (d.wr .hbFarErrSeq p (BitVec.ofNat 32 (x.seq * 65536))).raise 23 x.dom w

/-- The next SEQ of a pair, assigned. (DEDUCED: assumption 40) -/
def farSeq (d : Dev) (n w : Nat) : Nat × Dev :=
  let s := d.f hbFarErrNext_SEQ_NEXT (farPair n w)
  (s, d.sf hbFarErrNext_SEQ_NEXT (farPair n w) ((s + 1) % 65536))

/-- A register write as it takes effect: two registers of recovery act beside what they hold (R494). (DEDUCED: assumption 40) -/
def busWrite (d : Dev) (init off v : Nat) : Dev :=
  match regAt off with
  | some (.mgRecovChunk, _) => d.recovChunk v
  | some (.mgRecovDone, _) => d.recovDone v
  | _ => d.regWrite init off v

/-- A checked write of domain `n` reaches its register or its window's queue (R441); `false` when that queue is full.
(DESIGN CHOICE: assumption 30) -/
def hostPut (d : Dev) (n off v : Nat) : Bool × Dev :=
  match farWindow n off with
  | none => (true, d.busWrite n off v)
  | some w =>
    if d.b hbFarErrLatch_LATCHED (farPair n w) then (true, (d.farSeq n w).2.farDiscard n w)
    else if 32 ≤ (d.farQueue w).length then (false, d)
    else
      let (s, d) := d.farSeq n w
      let x : FarWrite := { dom := n, seq := s, off := off, value := v }
      (true, if d.farDown w then d.farFail w x 2 else d.farEnter w x)

/-! ### Requests -/

/-- Four bytes that a host read answers. (DEDUCED: assumption 41) -/
def hostRead4 (d : Dev) (n : Nat) (bar2 : Bool) (off : Nat) : Nat :=
  if bar2 then
    match bar2At n off with
    | .reg o => d.read4 o
    | .msix e w => bits (32 * w + 31) (32 * w) (Sparse.get msixDefault d.host.msix (n * 64 + e))
    | .pba w => ((List.range 32).map fun b => if Sparse.get (fun _ => false) d.host.pba (n * 64 + 32 * w + b) then 2 ^ b else 0).sum
    | .rsv => 0
  else if d.inRecovery && !recovMaps off then 0
  else d.read4 off

/-- Answering a read whose `permitted` halves read their register and the others 0 (R436). -/
def hostAnswer (d : Dev) (n : Nat) (bar2 : Bool) (off size permitted : Nat) : Dev :=
  let half (k : Nat) : Nat := if bitAt k permitted then d.hostRead4 n bar2 (off + 4 * k) else 0
  d.emit (.hostRead n size (some (half 0 + if size = 8 then half 1 * 2 ^ 32 else 0)))

/-- A checked request of function `n` is done; `false` when it waits for room in a far-side window's queue (R438, R441). -/
def accDo (d : Dev) (n : Nat) : HeldAcc → Bool × Dev
  | .write off v => d.hostPut n off v
  | .dead w => (true, (d.farSeq n w).2.farDiscard n w)
  | .msix e w v => (true, d.msixWrite n e w v)
  | .deny u v => (true, d.cmdDenied u v)
  | .read bar2 off size p => (true, d.hostAnswer n bar2 off size p)

/-- A checked request: behind requests of its function that wait, it waits too (R438). -/
def hostAccept (d : Dev) (n : Nat) (x : HeldAcc) : Dev :=
  let wait (d : Dev) : Dev := d.setHeldAccs n (d.heldAccs n ++ [x])
  if (d.heldAccs n).isEmpty then (match d.accDo n x with | (true, d) => d | (false, d) => wait d) else wait d

/-- How many posted writes of function `n` wait in its buffer, each of four bytes (R441). (DEDUCED: assumption 40) -/
def heldWrites (d : Dev) (n : Nat) : Nat := ((d.heldAccs n).filter fun x => match x with | .read .. => false | _ => true).length

/-- Four bytes of a host write. (DEDUCED: assumption 41) -/
def hostWrite4 (d : Dev) (n : Nat) (bar2 : Bool) (off size v : Nat) : Dev :=
  if bar2 then
    match bar2At n off with
    | .reg o => d.hostAccept n (.write o v)
    | .msix e w => d.hostAccept n (.msix e w v)
    | .pba _ | .rsv => d
  else if d.inRecovery && !recovMaps off then d
  else if d.mayWrite n off then d.hostAccept n (.write off v)
  else if ctrHalf off size then d
  else
    let d := d.accDenied n true off size
    match regAt off with
    | some (.unitCmd, u) => d.hostAccept n (.deny u v)
    | _ => d

/-- A host memory write (R432, R433). While the function's buffer of 64 posted writes is full none is taken: it stays with its
sender (R441). (DEDUCED: assumption 40) -/
def hostWrite (d : Dev) (n : Nat) (x : HostReq) (poisoned : Bool) (data : Nat) : Dev :=
  if !d.fnAnswers n || decide (64 ≤ d.heldWrites n) then d
  else if poisoned then d.accBad n true x 3
  else if !reqOk x then d.accBad n true x 1
  else
    let size := x.size.toNat
    let d := d.hostWrite4 n x.bar2 (reqAt x) size (data % 2 ^ 32)
    if size = 8 then d.hostWrite4 n x.bar2 ((reqAt x) + 4) size (data / 2 ^ 32 % 2 ^ 32) else d

/-- The permission of the halves of a read, denials counted; an 8-byte access to a counter is one access (R22, R432). -/
def hostReadCheck (d : Dev) (n : Nat) (x : HostReq) : Nat × Dev :=
  let off := (reqAt x)
  let size := x.size.toNat
  if x.bar2 then (3, d)
  else
    let ok (k : Nat) : Bool := d.mayRead n (off + 4 * k) || (d.inRecovery && !recovMaps (off + 4 * k))
    if size = 4 ∨ (ctrAt off).isSome then (if ok 0 then (3, d) else (0, d.accDenied n false off size))
    else
      let one (d : Dev) (k : Nat) : Dev := if ok k then d else d.accDenied n false (off + 4 * k) size
      ((if ok 0 then 1 else 0) + (if ok 1 then 2 else 0), one (one d 0) 1)

/-- A host memory read (R432, R433, R438). -/
def hostRead (d : Dev) (n : Nat) (x : HostReq) : Dev :=
  let size := x.size.toNat
  if !d.fnAnswers n then d.emit (.hostRead n size none)
  else if !reqOk x then (d.accBad n false x 1).emit (.hostRead n size none)
  else
    let (p, d) := d.hostReadCheck n x
    d.hostAccept n (.read x.bar2 (reqAt x) size p)

/-- The requests of a function that wait go on in their order, as far as the queues have room. -/
def heldRun (d : Dev) (n : Nat) : List HeldAcc → Dev
  | [] => d.setHeldAccs n []
  | x :: rest =>
    match d.accDo n x with
    | (true, d) => d.heldRun n rest
    | (false, d) => d.setHeldAccs n (x :: rest)

/-- A register write of an initiator under the permission tables (R436), where it takes effect. (DEDUCED: assumption 40) -/
def initWrite (d : Dev) (init off v : Nat) : Dev :=
  if d.mayWrite init off then d.busWrite init off v else d.denyWrite init off 4 v

/-! ### Function Level Reset and configuration (R446, R447) -/

/-- The rings of a domain at an FLR: no DMA goes on, and the rings are disabled and empty. (DEDUCED: assumption 41) -/
def flrRing (d : Dev) (i : Nat) : Dev :=
  let d := (d.rx i).claims.foldl (fun d c => d.release c.d.f.grp) d
  let d := (d.setRx i { d.rx i with claims := [] }).rxDropAll i
  let d := match (d.tx i).cur with
    | some x =>
      let d := match x.grp with | some g => d.release g | none => d
      (d.setTx i { d.tx i with cur := none }).txFinish i x 0 7
    | none => d
  let d := ((d.sf hrRxCfg_ENABLE i 0).sf hrRxHead_HEAD i 0).sf hrRxTail_TAIL i 0
  ((d.sf hrTxCfg_ENABLE i 0).sf hrTxHead_HEAD i 0).sf hrTxTail_TAIL i 0

/-- An FLR of the function bound to domain `n`. (DEDUCED: assumption 41) -/
def flrDomain (d : Dev) (n : Nat) : Dev :=
  let d := (List.range 16).foldl (fun d r => d.flrRing (16 * n + r)) d
  let d := (((d.cxCut n).cxPageRestart n).mbCut n).wr .moWinSel n 0
  let d := { d with host := { d.host with dma := d.host.dma.filter fun x => x.1 != n } }
  let mine (k : Nat) : Bool := k / 64 == n
  let d := { d with host := { d.host with
    msix := d.host.msix.filter fun e => !mine e.1
    pba := d.host.pba.filter fun e => !mine e.1 } }
  let d := (List.range 7).foldl (fun d w => d.farErrClear (farPair n w)) d
  let d := (d.wr .hbAccErrRec n 0).wr .hbAccErrBytes n 0
  let d := match d.ep.txn with
    | some t => if t.holder = n ∧ t.issued = false then d.txnAbort epSoftware 0 else d
    | none => d
  d.cxSettle

/-- A Function Level Reset; that of a physical function clears VF Enable and resets its virtual functions too.
(DEDUCED: assumption 41) -/
def flr (d : Dev) (n : Nat) : Dev :=
  if !d.fnExists n then d
  else
    let vfs := if n % 8 = 0 then ((List.range 8).map (n + ·)).filter d.fnExists else [n]
    let d := vfs.foldl (fun d k => if d.bind k = 0 then d.flrDomain k else d) d
    if n % 8 = 0 then (d.setFn n { d.fn n with vfEnable := false }).sf hbEp_NUM_VFS (n / 8) 0 else d

/-- The host writes of domain `n` that waited for Bus Master go out, in their order and before its messages (R439, R447). -/
def dmaFlush (d : Dev) (n : Nat) : Dev :=
  if !d.dmaGo n then d
  else
    let out := d.host.dma.filter fun x => x.1 == n
    let d := { d with host := { d.host with dma := d.host.dma.filter fun x => x.1 != n } }
    out.foldl (fun d x => d.emit (.hostWrite n x.2.1 x.2.2)) d

/-- A configuration write that sets Bus Master, Memory Space, the power state and SR-IOV (R429, R447). -/
def pcieConfig (d : Dev) (n : Nat) (x : PciFn) : Dev :=
  if !d.fnExists n then d
  else if n % 8 = 0 then
    (((d.setFn n x).sf hbEp_NUM_VFS (n / 8) (if x.vfEnable then x.numVfs else 0)).dmaFlush n).msixFlush n
  else ((d.setFn n { x with vfEnable := false, numVfs := 0 }).dmaFlush n).msixFlush n

/-- A PCIe link comes up or goes down (HbEp). -/
def pcieLink (d : Dev) (e : Nat) (up : Bool) (speed width : Nat) : Dev :=
  ((d.sf hbEp_LINK_UP e (if up then 1 else 0)).sf hbEp_SPEED e speed).sf hbEp_WIDTH e width

/-! ### Control over Ethernet (R448 to R452) -/

/-- One register access of a request: its value, or the cause of a far-side failure, with whether it was denied. -/
def coeRead4 (d : Dev) (n off size : Nat) : Nat × Bool × Dev :=
  if d.mayRead n off then (d.read4 off, false, d)
  else (0, true, if ctrHalf off size then d else d.accDenied n false off size)

/-- The reads of a READ: data, whether one was denied. -/
def coeReads (d : Dev) (n size : Nat) : List Nat → List Byte × Bool × Dev
  | [] => ([], false, d)
  | off :: rest =>
    let (v, e, d) := d.coeRead4 n off size
    let (bs, e', d) := d.coeReads n size rest
    (leBytes 4 v ++ bs, e || e', d)

/-- A response goes out and is kept with the last 16 (R451). (DEDUCED: assumption 42) -/
def coeRespond (d : Dev) (n seq typ status detail : Nat) (payload : List Byte) : Dev :=
  let x := d.coeDom n
  let keep := (x.replay ++ [(seq, typ, status, detail, payload)]).reverse.take 16
  (d.setCoe n { x with replay := keep.reverse }).coeSend n typ status seq detail payload

/-- The fields of a READ or WRITE payload: register offset, SIZE, COUNT. (DEDUCED: assumption 42) -/
def coeArgs (p : List Byte) : Nat × Nat × Nat := (beAt p 0 4 % 2 ^ 24, beAt p 4 1, beAt p 5 1)

/-- Whether the accesses of a request have an accepted form (R432). (DEDUCED: assumption 42) -/
def coeForm (off size : Nat) : Bool := (size == 4 || size == 8) && off % size == 0

/-- A READ (R450). (DEDUCED: assumption 42) -/
def coeDoRead (d : Dev) (n seq : Nat) (p : List Byte) : Dev :=
  let (off, size, count) := coeArgs p
  if p.length < 8 ∨ count = 0 ∨ 64 < count then d.coeRespond n seq 2 4 0 []
  else if !coeForm off size then
    (d.accBad n false ⟨false, BitVec.ofNat 24 off, BitVec.ofNat 13 size, true⟩ 1).coeRespond n seq 2 2 0 []
  else
    let (bs, denied, d) := d.coeReads n size ((List.range (count * size / 4)).map fun k => off + 4 * k)
    d.coeRespond n seq 2 (if denied then 1 else 0) 0 bs

/-- The writes of a WRITE one after the other (R450), each with its access number, offset and value; `denied` says that one before
was. A far-side write waits for room in its window's queue and then for its outcome, and over a link that is down it fails at once
(R441, R450). (DEDUCED: assumption 40) -/
def coeWrites (d : Dev) (n seq size : Nat) (denied : Bool) : List (Nat × Nat × Nat) → Dev
  | [] => d.coeRespond n seq 4 (if denied then 1 else 0) 0 []
  | (k, off, v) :: rest =>
    if !d.mayWrite n off then (if ctrHalf off size then d else d.denyWrite n off size v).coeWrites n seq size true rest
    else match farWindow n off with
      | none => (d.busWrite n off v).coeWrites n seq size denied rest
      | some w =>
        if d.farDown w then d.coeRespond n seq 4 3 (2 * 2 ^ 24 + k) []
        else if 32 ≤ (d.farQueue w).length then
          d.setCoe n { d.coeDom n with run := some ⟨seq, size, denied, k, (k, off, v) :: rest, false⟩ }
        else
          let (s, d) := d.farSeq n w
          (d.setCoe n { d.coeDom n with run := some ⟨seq, size, denied, k, rest, true⟩ }).farEnter w
            { dom := n, seq := s, off := off, value := v, src := .coe }

/-- The far-side write that a WRITE of domain `n` waits for ends: a failure stops the request and latches nothing (R450). -/
def coeFarEnd (d : Dev) (n cause : Nat) : Dev :=
  match (d.coeDom n).run with
  | none => d
  | some r =>
    let d := d.setCoe n { d.coeDom n with run := none }
    if cause = 0 then d.coeWrites n r.seq r.size r.denied r.rest
    else d.coeRespond n r.seq 4 3 (cause * 2 ^ 24 + r.access) []

/-- A WRITE of domain `n` that waits for room in a window's queue tries again (R441). -/
def coeRetry (d : Dev) (n : Nat) : Dev :=
  match (d.coeDom n).run with
  | some r =>
    if r.queued then d else (d.setCoe n { d.coeDom n with run := none }).coeWrites n r.seq r.size r.denied r.rest
  | none => d

/-- A window's queue has room again: the functions that wait go on, then the cores, the Darder link, and the requests of control
over Ethernet (R441). (DEDUCED: assumption 40) -/
def heldGo (d : Dev) : Dev :=
  let d := (List.range 16).foldl (fun d n => d.heldRun n (d.heldAccs n)) d
  let cores := d.host.coreWait
  let links := d.host.dkWait
  let d := { d with host := { d.host with coreWait := [], dkWait := [] } }
  let d := cores.foldl (fun d x => if (d.mcCore x.1).far = some x.1 then d.coreWrites (Fin.ofNat 2 x.1) x.2 else d) d
  let d := links.foldl (fun d x => d.dkWrites x.1 x.2) d
  (List.range 16).foldl coeRetry d

/-- A WRITE (R450). (DEDUCED: assumption 42) -/
def coeDoWrite (d : Dev) (n seq : Nat) (p : List Byte) : Dev :=
  let (off, size, count) := coeArgs p
  if p.length < 8 ∨ count = 0 ∨ 64 < count ∨ (p.length < 8 + count * size) then d.coeRespond n seq 4 4 0 []
  else if !coeForm off size then
    (d.accBad n true ⟨false, BitVec.ofNat 24 off, BitVec.ofNat 13 size, true⟩ 1).coeRespond n seq 4 2 0 []
  else
    d.coeWrites n seq size false
      ((List.range (count * size / 4)).map fun k => (4 * k / size, off + 4 * k, leAt p (8 + 4 * k) 4))

/-- The outcome of a far-side write for whoever waits for it: cause 0 when it was stored, else the cause of R442. -/
def farOutcome (d : Dev) (w : Nat) (x : FarWrite) (cause : Nat) : Dev :=
  match x.src with
  | .posted => if cause = 0 then d else d.farFail w x cause
  | .core c rest =>
    if (d.mcCore c).far ≠ some c then d
    else if cause = 0 then d.coreWrites (Fin.ofNat 2 c) rest
    else d.farStoreEnd c (some (0xF0000000 + x.off))
  | .coe => d.coeFarEnd x.dom cause
  | .darder q rest => if cause = 0 then d.dkWrites q rest else d.dkSay q dkFault (leBytes 1 excFarside)

/-- Whether the pair of a posted write is latched, or was since the write reached the bridge, so that the far side refuses it
(R443). -/
def farLatched (d : Dev) (w : Nat) (x : FarWrite) : Bool :=
  x.src == .posted && (x.dead || d.b hbFarErrLatch_LATCHED (farPair x.dom w))

/-- The far side acknowledges the oldest write of a window, or refuses it (R442). Over a link that is down nothing comes back. -/
def farAck (d : Dev) (w : Nat) : Dev :=
  match d.farQueue w with
  | [] => d
  | x :: rest =>
    if d.farDown w then d
    else
      let d := d.setFarQueue w rest
      let d :=
        if d.farLatched w x then d.farDiscard x.dom w
        else (d.busWrite x.dom x.off x.value).farOutcome w x (if d.farRefuses x.off then 1 else 0)
      d.heldGo

/-- No acknowledgement within TMO_US (R442): whether the write took effect is not known. (DEDUCED: assumption 40) -/
def farTimeout (d : Dev) (w : Nat) : Dev :=
  match d.farQueue w with
  | [] => d
  | x :: rest =>
    let d := d.setFarQueue w rest
    let (t, d) := d.fresh 1
    (if d.farLatched w x then d.farDiscard x.dom w
     else (if t = 1 then d.busWrite x.dom x.off x.value else d).farOutcome w x 3).heldGo

/-- A message over the link of window `w` failed on every retry: a write that it carried fails (R442, R519).
(DEDUCED: assumption 38; DEDUCED: assumption 40) -/
def farLinkError (d : Dev) (w : Nat) (m : LinkMsg) : Dev :=
  match (d.farQueue w).find? fun x => m.kind == ordWrite && farCarried x == m.value with
  | none => d
  | some x =>
    let d := d.setFarQueue w ((d.farQueue w).erase x)
    (if d.farLatched w x then d.farDiscard x.dom w else d.farOutcome w x 4).heldGo

/-- A TX (R452): one descriptor with its data. `none` while the ring is busy or has no cells, so that the request waits.
(DEDUCED: assumption 42) -/
def coeDoTx (d : Dev) (n seq : Nat) (p : List Byte) : Option Dev :=
  let r := beAt p 0 1
  let i := 16 * n + r
  let desc := leAt p 4 32
  let bad (d : Dev) : Option Dev := some (d.coeRespond n seq 8 4 0 [])
  if p.length < 36 ∨ 15 < r then bad d
  else if !(d.b hrTxCfg_ENABLE i && !d.b hrTxCfg_HALTED i && d.ringRuns i) then bad d
  else if (d.tx i).cur.isSome then none
  else
    let idx := d.f hrTxHead_HEAD i
    let x := d.coeDom n
    let keep := (x.replay ++ [(seq, 8, 0, 1 + 65536 * r + idx, [])]).reverse.take 16
    let d := d.setCoe n { x with replay := keep.reverse }
    let d := (d.sf hrTxTail_TAIL i ((d.f hrTxTail_TAIL i + 1) % 65536)).txTake i [desc]
    match (d.tx i).cur with
    | none => some d
    | some _ =>
      let d := d.txClaim i
      match (d.tx i).cur with
      | some c => if c.grp.isSome then some (d.txDataDone i false (p.drop 36)) else none
      | none => some d

/-- The request at the head of domain `n`'s requests, when it is of type `typ`: a repeated one is answered from its copy, one out of
order is discarded (R451). -/
def coeRun (d : Dev) (n typ : Nat) (go : Dev → Nat → List Byte → Option Dev) : Dev :=
  match (d.coeDom n).reqs with
  | [] => d
  | m :: rest =>
    if beAt m 1 1 ≠ typ ∨ d.ethBound n = false ∨ (d.coeDom n).run.isSome then d
    else
      let h := d.bind n - 1
      let seq := beAt m 4 2
      let x := d.coeDom n
      let pop := d.setCoe n { x with reqs := rest }
      match x.next, x.replay.find? fun e => e.1 == seq with
      | some _, some (_, t, st, detail, p) =>
        let pop := pop.inc .hbCoeReplay h
        if t = 8 ∧ detail ≠ 0 then pop else pop.coeSend n t st seq detail p
      | next, _ =>
        if next.all (· == seq) then
          let run := (pop.setCoe n { x with reqs := rest, next := some ((seq + 1) % 65536) }).inc .hbCoeReq h
          (go run seq (slice (m.drop 12) 0 (beAt m 6 2))).getD d
        else pop.inc .hbCoeBad h

end Dev

end Sys2Proof.Machine
end

