-- ==== Sys2Proof/Machine/UnitCmds.lean ====
section
/-! DEFINITION. Commands of units, epochs, operating modes, power admission and program sets (R22 to R69, R103 to R109): one meaning
per row, over the operations of Units, Txn, Power and ProgSets. -/
namespace Sys2Proof.Machine
namespace Dev

/-- A command of initiator `n` through register `r`, instance `i`, under the permission tables (R434, R436).
(DEDUCED: assumption 39) -/
def asked (d : Dev) (n : Nat) (r : Reg) (i : Nat) (go : Dev → Dev) : Dev :=
  let off := (regOff r i).getD 0
  if d.mayWrite n off then go d else d.accDenied n true off 4

/-- A command of initiator `n` through UnitCmd of unit `u`: a denied one also ends with PERMISSION (R41, R436).
(DEDUCED: assumption 39) -/
def unitRow (d : Dev) (n u : Nat) (go : Bool → Dev → Dev) : Dev :=
  let off := unitBase u + 8
  if d.mayWrite n off then go true d else go false (d.accDenied n true off 4)

/-- The words of a stage entry (R52). -/
def stageReg (w : Fin 4) : Reg :=
  match w with
  | 0 => .epStageEntryOff
  | 1 => .epStageEntryData
  | 2 => .epStageEntryMask
  | 3 => .epStageEntryCtl

end Dev

/-- REGISTER_WRITE (R25). -/
def execRegisterWrite (init : Initiator) (off : BitVec 24) (v : Word) (s : State) : Host.Outcome State Fault Refusal :=
  s.logic fun d => d.initWrite init.val off.toNat v.toNat

/-- NOP (R33). -/
def execNop (u : Fin 349) (init : Initiator) (arg : BitVec 16) (tag : BitVec 8)
    (s : State) : Host.Outcome State Fault Refusal :=
  s.logic fun d => d.unitRow init.val u.val fun ok d => d.unitCmd ok init.val u.val cmdNop arg.toNat tag.toNat

/-- QUIESCE (R544). -/
def execQuiesce (u : Fin 349) (init : Initiator) (arg : BitVec 16) (tag : BitVec 8)
    (s : State) : Host.Outcome State Fault Refusal :=
  s.logic fun d => d.unitRow init.val u.val fun ok d => d.unitCmd ok init.val u.val cmdQuiesce arg.toNat tag.toNat

/-- QUIESCE_DRAINED (R544). -/
def execQuiesceDrained (u : Fin 349) (s : State) : Host.Outcome State Fault Refusal :=
  s.logic fun d => d.drainEnd u.val

/-- QUIESCE_TIMEOUT (R36). -/
def execQuiesceTimeout (u : Fin 349) (s : State) : Host.Outcome State Fault Refusal :=
  s.logic fun d => d.drainTimeout u.val

/-- RESUME (R35). -/
def execResume (u : Fin 349) (init : Initiator) (arg : BitVec 16) (tag : BitVec 8)
    (s : State) : Host.Outcome State Fault Refusal :=
  s.logic fun d => d.unitRow init.val u.val fun ok d => d.unitCmd ok init.val u.val cmdResume arg.toNat tag.toNat

/-- UPDATE (R35). -/
def execUpdate (u : Fin 349) (init : Initiator) (arg : BitVec 16) (tag : BitVec 8)
    (s : State) : Host.Outcome State Fault Refusal :=
  s.logic fun d => (d.unitRow init.val u.val fun ok d => d.unitCmd ok init.val u.val cmdUpdate arg.toNat tag.toNat).txnWatch

/-- RECAL (R35). -/
def execRecal (u : Fin 349) (init : Initiator) (arg : BitVec 16) (tag : BitVec 8)
    (s : State) : Host.Outcome State Fault Refusal :=
  s.logic fun d => (d.unitRow init.val u.val fun ok d => d.unitCmd ok init.val u.val cmdRecal arg.toNat tag.toNat).txnWatch

/-- RESTART (R35). -/
def execRestart (u : Fin 349) (init : Initiator) (arg : BitVec 16) (tag : BitVec 8)
    (s : State) : Host.Outcome State Fault Refusal :=
  s.logic fun d => (d.unitRow init.val u.val fun ok d => d.unitCmd ok init.val u.val cmdRestart arg.toNat tag.toNat).cxSettle.txnWatch

/-- REPLACE (R46). -/
def execReplace (u : Fin 349) (init : Initiator) (arg : BitVec 16) (tag : BitVec 8)
    (s : State) : Host.Outcome State Fault Refusal :=
  s.logic fun d => (d.unitRow init.val u.val fun ok d => d.unitCmd ok init.val u.val cmdReplace arg.toNat tag.toNat).txnWatch

/-- RETIRE (R35). -/
def execRetire (u : Fin 349) (init : Initiator) (arg : BitVec 16) (tag : BitVec 8)
    (s : State) : Host.Outcome State Fault Refusal :=
  s.logic fun d => (d.unitRow init.val u.val fun ok d => d.unitCmd ok init.val u.val cmdRetire arg.toNat tag.toNat).txnWatch

/-- TAKE_OFFLINE (R35). -/
def execTakeOffline (u : Fin 349) (init : Initiator) (arg : BitVec 16) (tag : BitVec 8)
    (s : State) : Host.Outcome State Fault Refusal :=
  s.logic fun d => (d.unitRow init.val u.val fun ok d => d.unitCmd ok init.val u.val cmdOffline arg.toNat tag.toNat).txnWatch

/-- BRING_ONLINE (R36). -/
def execBringOnline (u : Fin 349) (init : Initiator) (_arg : BitVec 16) (tag : BitVec 8)
    (s : State) : Host.Outcome State Fault Refusal :=
  s.logic fun d => d.unitRow init.val u.val fun ok d => d.bringOnline ok init.val u.val tag.toNat

/-- UNIT_WORK_COMPLETE (R36). -/
def execUnitWorkComplete (u : Fin 349) (readErr : Bool) (s : State) : Host.Outcome State Fault Refusal :=
  s.logic fun d => (d.unitWork u.val readErr).cxSettle

/-- UNIT_INTERNAL_FAULT (R36). -/
def execUnitInternalFault (u : Fin 349) (cause : Fin 16) (s : State) : Host.Outcome State Fault Refusal :=
  s.logic fun d => (d.internalFault u.val cause.val).txnWatch

/-- BUFFER_ROW_FREED (R48). -/
def execBufferRowFreed (s : State) : Host.Outcome State Fault Refusal :=
  s.logic fun d => d.rowFreed

/-- STAGE_ENTRY_WRITE (R52). -/
def execStageEntryWrite (init : Initiator) (n : Fin 1024) (w : Fin 4) (v : Word)
    (s : State) : Host.Outcome State Fault Refusal :=
  s.logic fun d => d.asked init.val (Dev.stageReg w) n.val fun d => d.stageEntryWrite init.val n.val w.val v.toNat

/-- STAGE (R53). -/
def execStage (init : Initiator) (count : BitVec 11) (s : State) : Host.Outcome State Fault Refusal :=
  s.logic fun d => d.asked init.val .epCmd 0 fun d => d.epStage init.val count.toNat

/-- TARGET_STAGE_ANSWER (R53). -/
def execTargetStageAnswer (u : Fin 349) (s : State) : Host.Outcome State Fault Refusal :=
  s.logic fun d => d.targetAnswer u.val

/-- STAGE_TIMEOUT (R53). -/
def execStageTimeout (s : State) : Host.Outcome State Fault Refusal :=
  s.logic fun d => d.stageTimeout

/-- COMMIT (R53). -/
def execCommit (init : Initiator) (s : State) : Host.Outcome State Fault Refusal :=
  s.logic fun d => d.asked init.val .epCmd 0 fun d => d.epCommit init.val

/-- ABORT (R52). -/
def execAbort (init : Initiator) (s : State) : Host.Outcome State Fault Refusal :=
  s.logic fun d => d.asked init.val .epCmd 0 fun d => d.epAbort init.val

/-- LIVE_LIMIT_TIMEOUT (R53). -/
def execLiveLimitTimeout (s : State) : Host.Outcome State Fault Refusal :=
  s.logic fun d => d.liveLimitTimeout

/-- EPOCH_RETIRED (R50). -/
def execEpochRetired (s : State) : Host.Outcome State Fault Refusal :=
  s.logic fun d => d.epochRetired

/-- COMMIT_TOKEN_ARRIVAL (R54). -/
def execCommitTokenArrival (u : Fin 349) (s : State) : Host.Outcome State Fault Refusal :=
  s.logic fun d => d.tokenArrival u.val

/-- IMPLICIT_TXN_DISCARD (R57). -/
def execImplicitTxnDiscard (s : State) : Host.Outcome State Fault Refusal :=
  s.logic fun d => d.txnDiscard

/-- SNAP (R58). -/
def execSnap (init : Initiator) (s : State) : Host.Outcome State Fault Refusal :=
  s.logic fun d => d.asked init.val .epCmd 0 fun d => d.epSnap init.val

/-- SNAP_TOKEN_PASS (R58). -/
def execSnapTokenPass (u : Fin 349) (s : State) : Host.Outcome State Fault Refusal :=
  s.logic fun d => d.snapPass u.val

/-- MODE_REQUEST (R64). -/
def execModeRequest (init : Initiator) (m : Fin 4) (s : State) : Host.Outcome State Fault Refusal :=
  s.logic fun d => d.asked init.val .mdModeReq 0 fun d => d.modeRequest init.val m.val

/-- REGULATOR_SETTLED (R64). -/
def execRegulatorSettled (mv : BitVec 16) (s : State) : Host.Outcome State Fault Refusal :=
  s.logic fun d => d.regulatorSettled mv.toNat

/-- REGULATOR_FAULT (R64). -/
def execRegulatorFault (s : State) : Host.Outcome State Fault Refusal :=
  s.logic fun d => d.regulatorFault

/-- REGULATOR_SETTLE_TIMEOUT (R64). -/
def execRegulatorSettleTimeout (s : State) : Host.Outcome State Fault Refusal :=
  s.logic fun d => d.regulatorSilent

/-- MODE_DRAIN_TIMEOUT (R64). -/
def execModeDrainTimeout (s : State) : Host.Outcome State Fault Refusal :=
  s.logic fun d => d.modeDrainTimeout

/-- PACE_WINDOW (R65). -/
def execPaceWindow (paces : List (BitVec 16)) (s : State) : Host.Outcome State Fault Refusal :=
  s.logic fun d => d.paceWindow (paces.map BitVec.toNat)

/-- AVS_ADAPT_STEP (R66). -/
def execAvsAdaptStep (s : State) : Host.Outcome State Fault Refusal :=
  s.logic fun d => d.avsStep

/-- PACE_LOW_TIMEOUT (R66). -/
def execPaceLowTimeout (s : State) : Host.Outcome State Fault Refusal :=
  s.logic fun d => d.paceLow

/-- PA_GRANT (R68). -/
def execPaGrant (a : Fin 4) (s : State) : Host.Outcome State Fault Refusal :=
  s.logic fun d =>
    let (reset, d) := d.paGrant a.val
    if reset then d.internalReset else d

/-- PA_WAIT_TIMEOUT (R68). -/
def execPaWaitTimeout (a : Fin 4) (s : State) : Host.Outcome State Fault Refusal :=
  s.logic fun d => d.paWaitTimeout a.val

/-- PA_LEASE_EXPIRY (R69). -/
def execPaLeaseExpiry (handle : BitVec 16) (s : State) : Host.Outcome State Fault Refusal :=
  s.logic fun d => d.paLeaseExpiry handle.toNat

/-- FE_LOAD (R106). -/
def execFeLoad (init : Initiator) (clusters : BitVec 8) (ecc : Ecc) (s : State) : Host.Outcome State Fault Refusal :=
  s.logic fun d =>
    d.asked init.val .feLoadCmd 0 fun d =>
      d.feLoadCmd init.val (1 + 256 * clusters.toNat) (!ecc.failing.isEmpty)

/-- FE_LOAD_COPY_DONE (R109). -/
def execFeLoadCopyDone (s : State) : Host.Outcome State Fault Refusal :=
  s.logic fun d => d.feLoadDone

/-- FE_FREE (R109). -/
def execFeFree (init : Initiator) (clusters : BitVec 8) (slot : Fin 4) (s : State) : Host.Outcome State Fault Refusal :=
  s.logic fun d => d.asked init.val .feLoadCmd 0 fun d => d.feLoadCmd init.val (2 + 16 * slot.val + 256 * clusters.toNat) false

end Sys2Proof.Machine
end

