-- ==== Sys2Proof/Machine/BusCmds.lean ====
section
/-! DEFINITION. Commands of the CAN and LIN channels, the message objects and the tunnels (R293 to R331). -/
namespace Sys2Proof.Machine

/-- CAN_FRAME_RECEIVED (R303). -/
def execCanFrameReceived (n : Fin 48) (x : CanRx) (s : State) : Host.Outcome State Fault Refusal :=
  s.logic fun d => (d.canReceive n.val x).rxPassed (32 + n.val)

/-- CAN_RX_ERROR (R301). -/
def execCanRxError (n : Fin 48) (k : Fin 6) (up : Fin 9) (s : State) : Host.Outcome State Fault Refusal :=
  s.logic fun d => (d.canRxErr n.val k.val up.val).rxPassed (32 + n.val)

/-- CAN_TX_LOAD (R305). -/
def execCanTxLoad (x : CanTake) (s : State) : Host.Outcome State Fault Refusal :=
  s.logic fun d => d.canTxLoad x.chan.val x.ecc

/-- CAN_ARBITRATION_START (R306). -/
def execCanArbitrationStart (n : Fin 48) (s : State) : Host.Outcome State Fault Refusal :=
  s.logic fun d => d.canArbStart n.val

/-- CAN_TX_SUCCESS (R304). -/
def execCanTxSuccess (n : Fin 48) (tdcv tdcvXl : Option (BitVec 9)) (s : State) : Host.Outcome State Fault Refusal :=
  s.logic fun d => (d.canTxDone n.val (tdcv.map BitVec.toNat) (tdcvXl.map BitVec.toNat)).boundary (uCan n.val)

/-- CAN_TX_ERROR (R307). -/
def execCanTxError (n : Fin 48) (k : Fin 6) (x : CanTxErr) (s : State) : Host.Outcome State Fault Refusal :=
  s.logic fun d => (d.canTxErr n.val k.val x.exempt (x.tdcv.map BitVec.toNat) (x.tdcvXl.map BitVec.toNat)).boundary (uCan n.val)

/-- CAN_ARB_LOST (R306). -/
def execCanArbLost (n : Fin 48) (s : State) : Host.Outcome State Fault Refusal :=
  s.logic fun d => (d.canArbLose n.val).boundary (uCan n.val)

/-- CAN_INTEGRATION_DONE (R301). -/
def execCanIntegrationDone (n : Fin 48) (s : State) : Host.Outcome State Fault Refusal :=
  s.logic fun d => d.canIntegrated n.val

/-- CAN_BO_DELAY_EXPIRY (R301). -/
def execCanBoDelayExpiry (n : Fin 48) (s : State) : Host.Outcome State Fault Refusal :=
  s.logic fun d => d.canBoDelay n.val

/-- CAN_RECOVER (R301). -/
def execCanRecover (n : Fin 48) (s : State) : Host.Outcome State Fault Refusal :=
  s.logic fun d => d.canRecover n.val

/-- CAN_RECOVERY_DONE (R301). -/
def execCanRecoveryDone (n : Fin 48) (s : State) : Host.Outcome State Fault Refusal :=
  s.logic fun d => d.canRecovered n.val

/-- CAN_PTIME_REACHED (R308). -/
def execCanPtimeReached (n : Fin 48) (b : Fin 64) (s : State) : Host.Outcome State Fault Refusal :=
  s.logic fun d => d.canPtime n.val b.val

/-- CAN_SCHED_WRITE (R310). -/
def execCanSchedWrite (n : Fin 48) (s : Fin 8) (v : Word) (st : State) : Host.Outcome State Fault Refusal :=
  st.logic fun d => d.canSchedWrite n.val s.val v.toNat

/-- MO_KEY_WRITE (R314). -/
def execMoKeyWrite (w : Fin 17) (v : Word) (s : State) : Host.Outcome State Fault Refusal :=
  s.logic fun d => d.objKeyWrite false w.val v.toNat

/-- MO_ACK_WRITE (R316). -/
def execMoAckWrite (w : Fin 17) (v : Word) (s : State) : Host.Outcome State Fault Refusal :=
  s.logic fun d => d.objAckWrite w.val v.toNat

/-- MO_PUBLISH (R316). -/
def execMoPublish (w : Fin 17) (v : Word) (s : State) : Host.Outcome State Fault Refusal :=
  s.logic fun d => d.objPublish w.val v.toNat

/-- MO_FOREIGN_CLEAR (R312). -/
def execMoForeignClear (w : Fin 17) (s : State) : Host.Outcome State Fault Refusal :=
  s.logic fun d => d.objForeignClear w.val

/-- LIN_TICK (R321). -/
def execLinTick (n : Fin 16) (s : State) : Host.Outcome State Fault Refusal :=
  s.logic fun d => (d.linTick n.val).2

/-- LIN_HEADER_RECEIVED (R323). -/
def execLinHeaderReceived (n : Fin 16) (id : Fin 64) (x : LinHeader) (s : State) : Host.Outcome State Fault Refusal :=
  s.logic fun d => d.linHeaderIn n.val id.val x

/-- LIN_RESPONSE_RECEIVED (R319). -/
def execLinResponseReceived (n : Fin 16) (x : LinRx) (s : State) : Host.Outcome State Fault Refusal :=
  s.logic fun d => ((d.linResponse n.val x).rxPassed (80 + n.val)).boundary (uLin n.val)

/-- LIN_NO_RESPONSE (R323). -/
def execLinNoResponse (n : Fin 16) (s : State) : Host.Outcome State Fault Refusal :=
  s.logic fun d => ((d.linNoResponse n.val).rxPassed (80 + n.val)).boundary (uLin n.val)

/-- LIN_TX_TAKE (R320). -/
def execLinTxTake (x : LinTake) (s : State) : Host.Outcome State Fault Refusal :=
  s.logic fun d => d.linTake x.chan.val x.ecc

/-- LIN_SCHED_REQ (R322). -/
def execLinSchedReq (n : Fin 16) (t : Fin 8) (s : State) : Host.Outcome State Fault Refusal :=
  s.logic fun d => d.linReq n.val t.val

/-- LIN_SCHED_STOP (R322). -/
def execLinSchedStop (n : Fin 16) (s : State) : Host.Outcome State Fault Refusal :=
  s.logic fun d => d.linStop n.val

/-- LIN_SCHED_ENTRY_WRITE (R322). -/
def execLinSchedEntryWrite (n : Fin 16) (v : Word) (s : State) : Host.Outcome State Fault Refusal :=
  s.logic fun d => d.linEntryWrite false n.val v.toNat

/-- TUN_AGG_TIMEOUT (R325). -/
def execTunAggTimeout (s : Fin 32) (st : State) : Host.Outcome State Fault Refusal :=
  st.logic fun d => d.tunClose s.val

/-- TUN_STREAM_WRITE (R325). -/
def execTunStreamWrite (s : Fin 32) (w : Fin 8) (v : Word) (st : State) : Host.Outcome State Fault Refusal :=
  st.logic fun d => d.tunStreamWrite s.val w.val v.toNat

end Sys2Proof.Machine
end

