-- ==== Sys2Proof/Machine/CryptoCmds.lean ====
section
/-! DEFINITION. Commands of the crypto pages and the key store (R350 to R380). -/
namespace Sys2Proof.Machine

/-- CRYPTO_JOB_SUBMIT (R360). -/
def execCryptoJobSubmit (u : Fin 17) (v : Word) (s : State) : Host.Outcome State Fault Refusal :=
  s.logic fun d => d.cxSubmit u.val v.toNat

/-- CRYPTO_JOB_START (R360). -/
def execCryptoJobStart (u : Fin 17) (s : State) : Host.Outcome State Fault Refusal :=
  s.logic fun d => d.cxStart u.val

/-- CRYPTO_CHUNK_STAGE (R361). -/
def execCryptoChunkStage (err : Bool) (data : List Byte) (s : State) : Host.Outcome State Fault Refusal :=
  s.logic fun d => d.cxStage err data

/-- CRYPTO_CHUNK_END (R362). -/
def execCryptoChunkEnd (u : Fin 17) (ecc : Ecc) (s : State) : Host.Outcome State Fault Refusal :=
  s.logic fun d => (d.cxChunkEnd u.val ecc).cxSettle

/-- CRYPTO_DONE_POP (R364). -/
def execCryptoDonePop (u : Fin 17) (s : State) : Host.Outcome State Fault Refusal :=
  s.logic fun d => d.cxPop u.val

/-- CTX_SAVE (R367). -/
def execCtxSave (u : Fin 17) (s : State) : Host.Outcome State Fault Refusal :=
  s.logic fun d => d.ctxSave u.val

/-- CTX_RESTORE (R367). -/
def execCtxRestore (u : Fin 17) (err : Bool) (img : List Byte) (s : State) : Host.Outcome State Fault Refusal :=
  s.logic fun d => d.ctxRestore u.val err img

/-- CTX_CLEAR (R367). -/
def execCtxClear (u : Fin 17) (s : State) : Host.Outcome State Fault Refusal :=
  s.logic fun d => d.ctxClear u.val

/-- KS_LOAD (R376). -/
def execKsLoad (u : Fin 17) (slot : BitVec 12) (s : State) : Host.Outcome State Fault Refusal :=
  s.logic fun d => d.ksIssue u.val (ksWord 1 slot.toNat 0)

/-- GENERATE (R375). -/
def execGenerate (u : Fin 17) (slot : BitVec 12) (s : State) : Host.Outcome State Fault Refusal :=
  s.logic fun d => d.ksIssue u.val (ksWord 2 slot.toNat 0)

/-- IMPORT (R375). -/
def execImport (u : Fin 17) (slot : BitVec 12) (s : State) : Host.Outcome State Fault Refusal :=
  s.logic fun d => d.ksIssue u.val (ksWord 3 slot.toNat 0)

/-- DERIVE (R375). -/
def execDerive (u : Fin 17) (slot aux : BitVec 12) (s : State) : Host.Outcome State Fault Refusal :=
  s.logic fun d => d.ksIssue u.val (ksWord 4 slot.toNat aux.toNat)

/-- WRAP_OUT (R375). -/
def execWrapOut (u : Fin 17) (slot : BitVec 12) (s : State) : Host.Outcome State Fault Refusal :=
  s.logic fun d => d.ksIssue u.val (ksWord 5 slot.toNat 0)

/-- ERASE (R377). -/
def execErase (u : Fin 17) (slot : BitVec 12) (s : State) : Host.Outcome State Fault Refusal :=
  s.logic fun d => d.ksIssue u.val (ksWord 6 slot.toNat 0)

/-- UNWRAP (R375). -/
def execUnwrap (u : Fin 17) (slot aux : BitVec 12) (s : State) : Host.Outcome State Fault Refusal :=
  s.logic fun d => d.ksIssue u.val (ksWord 7 slot.toNat aux.toNat)

/-- READ_ATTR (R375). -/
def execReadAttr (u : Fin 17) (slot : BitVec 12) (s : State) : Host.Outcome State Fault Refusal :=
  s.logic fun d => d.ksIssue u.val (ksWord 8 slot.toNat 0)

/-- KEY_SWITCH_DRAINED (R377). -/
def execKeySwitchDrained (u : Fin 17) (s : State) : Host.Outcome State Fault Refusal :=
  s.logic fun d => d.ksDrained u.val

/-- REMASK_SWEEP_DUE (R378). -/
def execRemaskSweepDue (s : State) : Host.Outcome State Fault Refusal :=
  s.logic fun d => d.remaskDue

/-- REMASK_SWEEP_DONE (R378). -/
def execRemaskSweepDone (s : State) : Host.Outcome State Fault Refusal :=
  s.logic fun d => d.remaskDone

/-- ENTROPY_HEALTH_FAIL (R370). -/
def execEntropyHealthFail (s : State) : Host.Outcome State Fault Refusal :=
  s.logic fun d => d.entropyFail

/-- ENTROPY_RETEST (R370). -/
def execEntropyRetest (pass : Bool) (s : State) : Host.Outcome State Fault Refusal :=
  s.logic fun d => (d.entropyRetest pass).rootResume

/-- KS_QUOTA_WRITE (R374). -/
def execKsQuotaWrite (u : Fin 18) (v : Word) (s : State) : Host.Outcome State Fault Refusal :=
  s.logic fun d => d.quotaWrite false u.val v.toNat

/-- WRAP_GEN_WRITE (R376). -/
def execWrapGenWrite (u : Fin 18) (v : Word) (s : State) : Host.Outcome State Fault Refusal :=
  s.logic fun d => d.wrapGenWrite u.val v.toNat

end Sys2Proof.Machine
end

