-- ==== Sys2Proof/Machine/EthCmds.lean ====
section
/-! DEFINITION. Commands of the Ethernet ports (R257 to R292). -/
namespace Sys2Proof.Machine

/-- ETH_TX_SELECT (R268). -/
def execEthTxSelect (p : Fin 20) (x : EthTake) (s : State) : Host.Outcome State Fault Refusal :=
  s.logic fun d => (d.ethSelect p.val x.medium x.ecc).boundary (uEth p.val)

/-- ETH_TX_END (R263). -/
def execEthTxEnd (p : Fin 20) (ecc : Ecc) (s : State) : Host.Outcome State Fault Refusal :=
  s.logic fun d => (d.ethFrameEnd p.val ecc).boundary (uEth p.val)

/-- PAUSE_TIMER_EXPIRY (R266). -/
def execPauseTimerExpiry (p : Fin 20) (c : Fin 8) (s : State) : Host.Outcome State Fault Refusal :=
  s.logic fun d => d.pauseEnd p.val c.val

/-- PAUSE_WATCHDOG_EXPIRY (R267). -/
def execPauseWatchdogExpiry (p : Fin 20) (c : Fin 8) (s : State) : Host.Outcome State Fault Refusal :=
  s.logic fun d => d.pauseWatchdog p.val c.val

/-- PAUSE_HOLDOFF_END (R267). -/
def execPauseHoldoffEnd (p : Fin 20) (c : Fin 8) (s : State) : Host.Outcome State Fault Refusal :=
  s.logic fun d => d.pauseHoldoffEnd p.val c.val

/-- LINK_LOSS_DETECTED (R259). -/
def execLinkLossDetected (p : Fin 20) (s : State) : Host.Outcome State Fault Refusal :=
  s.logic fun d => (d.linkLossDetected p.val).boundary (uEth p.val)

/-- LINK_UP_DETECTED (R259). -/
def execLinkUpDetected (p : Fin 20) (an : Fin 16) (s : State) : Host.Outcome State Fault Refusal :=
  s.logic fun d => d.ethUp p.val an.val

/-- PREEMPT_VERIFY_TIMER (R270). -/
def execPreemptVerifyTimer (p : Fin 20) (s : State) : Host.Outcome State Fault Refusal :=
  s.logic fun d => d.verifyTimer p.val

/-- VERIFY_MPACKET_RECEIVED (R270): a response, or the partner's own verify mPacket. -/
def execVerifyMpacketReceived (x : VerifyMpacket) (s : State) : Host.Outcome State Fault Refusal :=
  s.logic fun d => if x.response then d.verifyResponse x.port.val else d.verifyRequest x.port.val

/-- GATE_ENTRY_START (R272). -/
def execGateEntryStart (p : Fin 20) (i : Fin 256) (s : State) : Host.Outcome State Fault Refusal :=
  s.logic fun d => d.gateEntry p.val i.val

/-- CONFIG_CHANGE (R273). -/
def execConfigChange (p : Fin 20) (s : State) : Host.Outcome State Fault Refusal :=
  s.logic fun d => d.configChange p.val

/-- GATE_CANCEL (R273). -/
def execGateCancel (p : Fin 20) (s : State) : Host.Outcome State Fault Refusal :=
  s.logic fun d => d.gateCancel p.val

/-- GATE_CONFIG_APPLY (R274). -/
def execGateConfigApply (p : Fin 20) (s : State) : Host.Outcome State Fault Refusal :=
  s.logic fun d => d.gateApply p.val

/-- STEP_CAPS_TIMER (R282). -/
def execStepCapsTimer (p : Fin 20) (s : State) : Host.Outcome State Fault Refusal :=
  s.logic fun d => d.stepCapsTimer p.val

/-- STEP_CAPS_RECEIVED (R282). -/
def execStepCapsReceived (p : Fin 20) (ceil floor : BitVec 8) (s : State) : Host.Outcome State Fault Refusal :=
  s.logic fun d => d.stepArrives p.val stpCaps 0 0 ceil.toNat floor.toNat 0

/-- STEP_PEER_TIMEOUT (R282). -/
def execStepPeerTimeout (p : Fin 20) (s : State) : Host.Outcome State Fault Refusal :=
  s.logic fun d => d.stepPeerTimeout p.val

/-- STEP_TRAIN_TIMEOUT (R282). -/
def execStepTrainTimeout (p : Fin 20) (s : State) : Host.Outcome State Fault Refusal :=
  s.logic fun d => d.stepTrainTimeout p.val

/-- STEP_DOWN_WINDOW (R283). -/
def execStepDownWindow (p : Fin 20) (s : State) : Host.Outcome State Fault Refusal :=
  s.logic fun d => d.stepWindow p.val

/-- STEP_REQ_RECEIVED (R286). -/
def execStepReqReceived (p : Fin 20) (txn rate : BitVec 8) (s : State) : Host.Outcome State Fault Refusal :=
  s.logic fun d => d.stepArrives p.val stpReq txn.toNat rate.toNat 0 0 0

/-- STEP_ACK_RECEIVED (R285). -/
def execStepAckReceived (p : Fin 20) (txn rate : BitVec 8) (s : State) : Host.Outcome State Fault Refusal :=
  s.logic fun d => d.stepArrives p.val stpAck txn.toNat rate.toNat 0 0 0

/-- STEP_NAK_RECEIVED (R286). -/
def execStepNakReceived (p : Fin 20) (txn rate reason : BitVec 8) (s : State) : Host.Outcome State Fault Refusal :=
  s.logic fun d => d.stepArrives p.val stpNak txn.toNat rate.toNat 0 0 reason.toNat

/-- STEP_DONE_RECEIVED (R285). -/
def execStepDoneReceived (p : Fin 20) (txn rate : BitVec 8) (s : State) : Host.Outcome State Fault Refusal :=
  s.logic fun d => d.stepArrives p.val stpDone txn.toNat rate.toNat 0 0 0

/-- STEP_ACK_TIMEOUT (R285). -/
def execStepAckTimeout (p : Fin 20) (s : State) : Host.Outcome State Fault Refusal :=
  s.logic fun d => d.stepAckTimeout p.val

/-- STEP_DONE_TIMEOUT (R285). -/
def execStepDoneTimeout (p : Fin 20) (s : State) : Host.Outcome State Fault Refusal :=
  s.logic fun d => d.stepDoneTimeout p.val

/-- STEP_LANE_LOCKED (R285). -/
def execStepLaneLocked (p : Fin 20) (s : State) : Host.Outcome State Fault Refusal :=
  s.logic fun d => d.stepLocked p.val

/-- STEP_LOCK_TIMEOUT (R287). -/
def execStepLockTimeout (p : Fin 20) (s : State) : Host.Outcome State Fault Refusal :=
  s.logic fun d => (d.stepLockTimeout p.val).boundary (uEth p.val)

/-- LPI_IDLE_TIMEOUT (R289). -/
def execLpiIdleTimeout (p : Fin 20) (s : State) : Host.Outcome State Fault Refusal :=
  s.logic fun d => d.lpiIdle p.val

/-- LPI_WAKE_DONE (R289). -/
def execLpiWakeDone (p : Fin 20) (us : Word) (s : State) : Host.Outcome State Fault Refusal :=
  s.logic fun d => d.lpiWakeDone p.val us.toNat

/-- LPI_RX_CHANGE (R264). -/
def execLpiRxChange (p : Fin 20) (on : Bool) (us : Word) (s : State) : Host.Outcome State Fault Refusal :=
  s.logic fun d => d.lpiRx p.val on us.toNat

/-- T1S_COLLISION (R290). -/
def execT1sCollision (p : Fin 20) (late : Bool) (s : State) : Host.Outcome State Fault Refusal :=
  s.logic fun d => (d.t1sCollision p.val late).boundary (uEth p.val)

/-- PLCA_BEACON_LOSS (R291). -/
def execPlcaBeaconLoss (p : Fin 20) (s : State) : Host.Outcome State Fault Refusal :=
  s.logic fun d => (d.plcaLoss p.val).boundary (uEth p.val)

/-- PLCA_BEACON_RETURN (R291). -/
def execPlcaBeaconReturn (p : Fin 20) (s : State) : Host.Outcome State Fault Refusal :=
  s.logic fun d => d.plcaReturn p.val

/-- PCS_LINK_CONDITION_CHANGE (R259). -/
def execPcsLinkConditionChange (p : Fin 20) (lock lf rf an : Bool) (s : State) : Host.Outcome State Fault Refusal :=
  s.logic fun d => (d.pcsChange p.val lock lf rf an).boundary (uEth p.val)

/-- TS_FIFO_POP (R292). -/
def execTsFifoPop (p : Fin 20) (s : State) : Host.Outcome State Fault Refusal :=
  s.logic fun d => d.tsPop p.val

end Sys2Proof.Machine
end

