-- ==== Sys2Proof/Machine/FrameCmds.lean ====
section
/-! DEFINITION. Commands of the frame path, its rules, queues and mirrors (R158 to R187, R225 to R242). -/
namespace Sys2Proof.Machine

/-- ETH_FRAME_RECEIVED (R261). In recovery the ROM answers ARP over E4 (R495). -/
def execEthFrameReceived (p : Fin 20) (x : EthRx) (s : State) : Host.Outcome State Fault Refusal :=
  s.logic fun d => if d.inRecovery then d.recovArp p.val x else (d.ethFrameIn p.val x).rxPassed p.val

/-- DISPATCH (R162). -/
def execDispatch (p : Fin 96) (s : State) : Host.Outcome State Fault Refusal :=
  s.logic fun d => d.dispatch p.val

/-- JOB_HANDOVER (R167). -/
def execJobHandover (c : Fin 8) (s : State) : Host.Outcome State Fault Refusal :=
  s.logic fun d => d.jobHandover c.val

/-- SLOW_BUCKET_REFILL (R181). -/
def execSlowBucketRefill (q : Fin 4) (s : State) : Host.Outcome State Fault Refusal :=
  s.logic fun d => d.slowRefill q.val

/-- RULE_WINDOW_WRITE (R171). -/
def execRuleWindowWrite (w : Fin 35) (v : Word) (s : State) : Host.Outcome State Fault Refusal :=
  s.logic fun d => d.ruleWrite w.val v.toNat

/-- ORDER_RELEASE (R184). -/
def execOrderRelease (p : Fin 96) (s : State) : Host.Outcome State Fault Refusal :=
  s.logic fun d => d.orderRelease p.val

/-- PORT_QUEUE_FLUSH (R239). -/
def execPortQueueFlush (p : Fin 96) (s : State) : Host.Outcome State Fault Refusal :=
  s.logic fun d => d.portQueueFlush p.val

/-- RESIDENCE_SCAN (R235). -/
def execResidenceScan (s : State) : Host.Outcome State Fault Refusal :=
  s.logic fun d => d.residenceScan

/-- A link of any port is lost (R238), which ends the frame on its wire or bus: the Ethernet ports report it, the CAN ports lose
only their state, and no other port has a link to lose (R237). A port whose segment sleeps loses none (R420). -/
def Dev.lossRow (d : Dev) (p : Nat) : Dev :=
  if d.portAsleep p then d
  else if p < 20 then (d.ethLost p).boundary (uEth p)
  else if 32 ≤ p ∧ p < 80 then ((d.linkLost p).canShow (p - 32)).boundary (uCan (p - 32))
  else d

/-- LINK_LOST (R238). -/
def execLinkLost (p : Fin 96) (s : State) : Host.Outcome State Fault Refusal :=
  s.logic fun d => d.lossRow p.val

/-- LINK_HOLD_EXPIRY (R238). -/
def execLinkHoldExpiry (p : Fin 96) (s : State) : Host.Outcome State Fault Refusal :=
  s.logic fun d => d.linkHoldExpired p.val

/-- LINK_RESTORED (R238). -/
def execLinkRestored (p : Fin 96) (an : Fin 16) (s : State) : Host.Outcome State Fault Refusal :=
  s.logic fun d => d.anyRestored p.val an.val

/-- FIFO_POINTER_ECC_ERROR (R230). -/
def execFifoPointerEccError (x : PortFifo) (s : State) : Host.Outcome State Fault Refusal :=
  s.logic fun d => d.fifoReset x.port.val x.tx

/-- MIRROR_SESSION_WRITE (R242). -/
def execMirrorSessionWrite (s : Fin 8) (w : Fin 2) (v : Word) (st : State) : Host.Outcome State Fault Refusal :=
  st.logic fun d => if w = 0 then d.mirrorCfgWrite s.val v.toNat else d.mirrorSampleWrite s.val v.toNat

end Sys2Proof.Machine
end

