-- ==== Sys2Proof/Machine/HostCmds.lean ====
section
/-! DEFINITION. Commands of the host bridge (R424 to R453). -/
namespace Sys2Proof.Machine

/-- HOST_READ (R432). -/
def execHostRead (dom : Fin 16) (x : HostReq) (s : State) : Host.Outcome State Fault Refusal :=
  s.logic fun d => d.hostRead dom.val x

/-- HOST_WRITE (R432). -/
def execHostWrite (dom : Fin 16) (x : HostReq) (poisoned : Bool) (data : BitVec 64)
    (s : State) : Host.Outcome State Fault Refusal :=
  s.logic fun d => d.hostWrite dom.val x poisoned data.toNat

/-- FAR_WRITE_ACK (R441). -/
def execFarWriteAck (w : Fin 7) (s : State) : Host.Outcome State Fault Refusal :=
  s.logic fun d => d.farAck w.val

/-- FAR_WRITE_TIMEOUT (R442). -/
def execFarWriteTimeout (w : Fin 7) (s : State) : Host.Outcome State Fault Refusal :=
  s.logic fun d => d.farTimeout w.val

/-- FAR_LATCH_CLEAR (R443). -/
def execFarLatchClear (init : Initiator) (dom : Fin 16) (w : Fin 7) (s : State) : Host.Outcome State Fault Refusal :=
  s.logic fun d => d.initWrite init.val (0x081000 + 0x100 * dom.val + 0x10 * w.val) (2 ^ 31)

/-- FUNCTION_LEVEL_RESET (R446). -/
def execFunctionLevelReset (dom : Fin 16) (s : State) : Host.Outcome State Fault Refusal :=
  s.logic fun d => d.flr dom.val

/-- PCIE_CONFIG_WRITE (R447). -/
def execPcieConfigWrite (dom : Fin 16) (bme mse d3 vfEnable : Bool) (numVfs : Fin 8)
    (s : State) : Host.Outcome State Fault Refusal :=
  s.logic fun d => d.pcieConfig dom.val ⟨bme, mse, d3, vfEnable, numVfs.val⟩

/-- PCIE_LINK_CHANGE (R424). -/
def execPcieLinkChange (e : Fin 2) (up : Bool) (speed width : Fin 5) (s : State) : Host.Outcome State Fault Refusal :=
  s.logic fun d => d.pcieLink e.val up speed.val width.val

/-- DOM_BIND_WRITE (R428). -/
def execDomBindWrite (init : Initiator) (dom : Fin 16) (v : Word) (s : State) : Host.Outcome State Fault Refusal :=
  s.logic fun d => d.initWrite init.val (0x080080 + 4 * dom.val) v.toNat

/-- COE_READ (R450). -/
def execCoeRead (dom : Fin 16) (s : State) : Host.Outcome State Fault Refusal :=
  s.logic fun d => d.coeRun dom.val 1 fun d seq p => some (d.coeDoRead dom.val seq p)

/-- COE_WRITE (R450). -/
def execCoeWrite (dom : Fin 16) (s : State) : Host.Outcome State Fault Refusal :=
  s.logic fun d => d.coeRun dom.val 3 fun d seq p => some (d.coeDoWrite dom.val seq p)

/-- COE_TX (R452). -/
def execCoeTx (dom : Fin 16) (s : State) : Host.Outcome State Fault Refusal :=
  s.logic fun d => d.coeRun dom.val 7 fun d seq p => d.coeDoTx dom.val seq p

end Sys2Proof.Machine
end

