-- ==== Sys2Proof/Machine/LoadCmds.lean ====
section
/-! DEFINITION. Commands of the load channels and their dies (R381 to R411). A die acts by itself, whatever the logic side does;
while its own reset holds it, nothing happens there (R515). -/
namespace Sys2Proof.Machine
namespace Dev

/-- What happens on die `p`. -/
def onDie (d : Dev) (p : Nat) (go : Dev → Dev) : Dev := if d.load.down.contains p then d else go d

end Dev

/-- LD_CTL_WRITE (R385). -/
def execLdCtlWrite (init : Initiator) (n : Fin 96) (on : Bool) (s : State) : Host.Outcome State Fault Refusal :=
  s.logic fun d => d.asked init.val .ldCtl n.val fun d => d.ldCtlWrite init.val n.val on false

/-- LOAD_CLEAR (R394). -/
def execLoadClear (init : Initiator) (n : Fin 96) (s : State) : Host.Outcome State Fault Refusal :=
  s.logic fun d => d.asked init.val .ldCtl n.val fun d => d.ldCtlWrite init.val n.val (d.ld n.val).on true

/-- LOAD_RAMP_DONE (R387). -/
def execLoadRampDone (n : Fin 96) (s : State) : Host.Outcome State Fault Refusal :=
  s.always fun d => d.onDie (n.val / 32) fun d => d.ldRampDone n.val

/-- LOAD_PHASE_END (R388). -/
def execLoadPhaseEnd (n : Fin 96) (s : State) : Host.Outcome State Fault Refusal :=
  s.always fun d => d.onDie (n.val / 32) fun d => d.ldPhaseEnd n.val

/-- LOAD_THERMAL_TRIP (R393). -/
def execLoadThermalTrip (n : Fin 96) (temp : BitVec 16) (s : State) : Host.Outcome State Fault Refusal :=
  s.always fun d => d.onDie (n.val / 32) fun d => d.ldThermal n.val temp.toNat

/-- LOAD_OC_TRIP (R395). -/
def execLoadOcTrip (n : Fin 96) (s : State) : Host.Outcome State Fault Refusal :=
  s.always fun d => d.onDie (n.val / 32) fun d => d.ldOverCurrent (d.leader n.val)

/-- WIRE_MODEL_UPDATE (R396). -/
def execWireModelUpdate (p : Fin 3) (currents : List (BitVec 16)) (s : State) : Host.Outcome State Fault Refusal :=
  s.always fun d => d.onDie p.val fun d => d.wireTick p.val (currents.map BitVec.toNat)

/-- LOAD_RETRY_RELOAD (R385). -/
def execLoadRetryReload (n : Fin 96) (s : State) : Host.Outcome State Fault Refusal :=
  s.always fun d => d.onDie (n.val / 32) fun d => d.ldRetryReload n.val

/-- LOAD_COOLED (R385). -/
def execLoadCooled (n : Fin 96) (temps : List (BitVec 16)) (s : State) : Host.Outcome State Fault Refusal :=
  s.always fun d => d.onDie (n.val / 32) fun d => d.ldCoolDone n.val (temps.map BitVec.toNat)

/-- LOAD_GRANT_RELEASE (R392). -/
def execLoadGrantRelease (n : Fin 96) (s : State) : Host.Outcome State Fault Refusal :=
  s.always fun d => d.onDie (n.val / 32) fun d => d.ldWindowEnd n.val

/-- VBAT_UNDERVOLTAGE (R403). -/
def execVbatUndervoltage (p : Fin 3) (s : State) : Host.Outcome State Fault Refusal :=
  s.always fun d => d.onDie p.val fun d => d.vbatUnder p.val

/-- VBAT_RECOVERED (R403). -/
def execVbatRecovered (p : Fin 3) (s : State) : Host.Outcome State Fault Refusal :=
  s.always fun d => d.onDie p.val fun d => d.vbatRecovered p.val

/-- ADC_ENTRY_DONE (R398). -/
def execAdcEntryDone (p : Fin 3) (c : Fin 4) (value : BitVec 16) (sat : Bool)
    (s : State) : Host.Outcome State Fault Refusal :=
  s.always fun d => d.onDie p.val fun d => d.adcDone p.val c.val value.toNat sat

/-- OPEN_LOAD_OFF_CHECK (R401). -/
def execOpenLoadOffCheck (n : Fin 96) (above : Bool) (s : State) : Host.Outcome State Fault Refusal :=
  s.always fun d => d.onDie (n.val / 32) fun d => d.openLoadOff n.val above

/-- AGG_AVERAGE_CHECK (R402). -/
def execAggAverageCheck (p : Fin 3) (_ : Unit) (s : State) : Host.Outcome State Fault Refusal :=
  s.always fun d => d.onDie p.val fun d => d.aggCheck p.val

/-- LOSS_OF_CONTROL (R407). -/
def execLossOfControl (p : Fin 3) (s : State) : Host.Outcome State Fault Refusal :=
  s.always fun d => d.onDie p.val fun d => d.locStart p.val

/-- LOC_ENDED (R408). -/
def execLocEnded (p : Fin 3) (s : State) : Host.Outcome State Fault Refusal :=
  s.always fun d => d.onDie p.val fun d => d.locReturn p.val

/-- DIE_STATE_REPORT (R384). -/
def execDieStateReport (p : Fin 3) (s : State) : Host.Outcome State Fault Refusal :=
  s.logic fun d => d.onDie p.val fun d => d.dieReport p.val

end Sys2Proof.Machine
end

