-- ==== Sys2Proof/Machine/MgmtCmds.lean ====
section
/-! DEFINITION. Commands of the management subsystem, of recovery and of reset and supplies (R477 to R503, R513 to R531). -/
namespace Sys2Proof.Machine

/-- BOOT_START (R487). -/
def execBootStart (x : BootInput) (s : State) : Host.Outcome State Fault Refusal :=
  s.logic fun d => d.bootStart x

/-- HASH_GO (R479). -/
def execHashGo (init : Initiator) (v : Word) (s : State) : Host.Outcome State Fault Refusal :=
  s.logic fun d => d.asked init.val .mgHashCtl 0 fun d => d.hashWrite init.val (v.toNat ||| 8)

/-- HASH_DONE (R479). -/
def execHashDone (s : State) : Host.Outcome State Fault Refusal :=
  s.logic fun d => d.hashDone

/-- SENSOR_SAMPLE (R480). -/
def execSensorSample (temps : List (BitVec 16)) (mvs : List (BitVec 16)) (s : State) : Host.Outcome State Fault Refusal :=
  s.logic fun d => d.sensorSample temps (mvs.map BitVec.toNat)

/-- VERSION (R500). -/
def execVersion (n : Fin 16) (s : State) : Host.Outcome State Fault Refusal :=
  s.logic fun d => d.mbVersion n.val

/-- ATTEST (R502). -/
def execAttest (n : Fin 16) (err : Bool) (s : State) : Host.Outcome State Fault Refusal :=
  s.logic fun d => d.mbAttest n.val err

/-- LOG_READ (R500). -/
def execLogRead (n : Fin 16) (err : Bool) (s : State) : Host.Outcome State Fault Refusal :=
  s.logic fun d => d.mbLogRead n.val err

/-- FLASH_WRITE (R490). -/
def execFlashWrite (n : Fin 16) (data : Option (List Byte)) (s : State) : Host.Outcome State Fault Refusal :=
  s.logic fun d => d.mbFlashWrite n.val data

/-- MBOX_COMMIT (R490). -/
def execMboxCommit (n : Fin 16) (s : State) : Host.Outcome State Fault Refusal :=
  s.logic fun d => d.mbCommit n.val

/-- CONFIRM (R491). -/
def execConfirm (n : Fin 16) (s : State) : Host.Outcome State Fault Refusal :=
  s.logic fun d => d.mbConfirm n.val

/-- SVN_RAISE (R484). -/
def execSvnRaise (n : Fin 16) (readErr : Bool) (s : State) : Host.Outcome State Fault Refusal :=
  s.logic fun d => d.mbSvnRaise n.val readErr

/-- LIFECYCLE (R503). -/
def execLifecycle (n : Fin 16) (data : Option (List Byte)) (s : State) : Host.Outcome State Fault Refusal :=
  s.logic fun d => d.mbLifecycle n.val data

/-- KEYSET (R503). -/
def execKeyset (n : Fin 16) (data : Option (List Byte)) (s : State) : Host.Outcome State Fault Refusal :=
  s.logic fun d => d.mbKeyset n.val data

/-- MBOX_RESET (R500). -/
def execMboxReset (n : Fin 16) (s : State) : Host.Outcome State Fault Refusal :=
  s.logic fun d => d.mbRun n.val 10 fun d =>
    if n.val ≠ 0 then d.mbEnd n.val mbPermission
    else if d.mbArg 0 = 0xB007 then d.internalReset else d.mbEnd 0 mbBadArg

/-- LOG_APPEND (R499). -/
def execLogAppend (init : Initiator) (s : State) : Host.Outcome State Fault Refusal :=
  s.logic fun d => d.asked init.val .mgLogGo 0 fun d => if init.val = 16 then d.logGo else d.rejWr uMg

/-- LOG_FLUSH_TIMER (R499). -/
def execLogFlushTimer (s : State) : Host.Outcome State Fault Refusal :=
  s.logic fun d => d.logFlushTimer

/-- RECOV_CHUNK (R494). -/
def execRecovChunk (v : Word) (s : State) : Host.Outcome State Fault Refusal :=
  s.logic fun d => d.recovChunk v.toNat

/-- RECOV_DONE (R494). -/
def execRecovDone (v : Word) (s : State) : Host.Outcome State Fault Refusal :=
  s.logic fun d => d.recovDone v.toNat

/-- RECOV_HELLO (R495). -/
def execRecovHello (sender : RecovPeer) (s : State) : Host.Outcome State Fault Refusal :=
  s.logic fun d => d.recovHello sender

/-- RECOV_DATA (R495). -/
def execRecovData (sender : RecovPeer) (block : Word) (data : List Byte) (s : State) : Host.Outcome State Fault Refusal :=
  s.logic fun d => d.recovData sender block.toNat data

/-- RECOV_END (R495). -/
def execRecovEnd (sender : RecovPeer) (total : Word) (s : State) : Host.Outcome State Fault Refusal :=
  s.logic fun d => d.recovEnd sender total.toNat

/-- RECOV_SESSION_TIMEOUT (R495). -/
def execRecovSessionTimeout (s : State) : Host.Outcome State Fault Refusal :=
  s.logic fun d => d.recovSessionEnd

/-- PWR_GOOD_RISE (R515). -/
def execPwrGoodRise (straps : Straps) (vio33 : BitVec 9) (s : State) : Host.Outcome State Fault Refusal :=
  s.always fun d => d.pwrGoodRise straps vio33.toNat

/-- PWR_GOOD_FALL (R516). -/
def execPwrGoodFall (s : State) : Host.Outcome State Fault Refusal :=
  s.always fun d => d.pwrGoodFall

/-- RESET_N_PULSE (R516). -/
def execResetNPulse (straps : Straps) (s : State) : Host.Outcome State Fault Refusal :=
  s.logic fun d => (d.logicReset 1).strapsSet straps

/-- SUPPLY_OUT_OF_RANGE (R517). -/
def execSupplyOutOfRange (s : State) : Host.Outcome State Fault Refusal :=
  s.logic fun d => d.supplyReset

/-- AOC_POWER_RESET (R515). -/
def execAocPowerReset (s : State) : Host.Outcome State Fault Refusal :=
  s.always fun d => d.aocReset

/-- POWER_DIE_RESET (R515). -/
def execPowerDieReset (p : Fin 3) (s : State) : Host.Outcome State Fault Refusal :=
  s.always fun d => d.dieReset p.val

/-- POWER_DIE_LEAVES_RESET (R515). -/
def execPowerDieLeavesReset (p : Fin 3) (s : State) : Host.Outcome State Fault Refusal :=
  s.always fun d => d.dieLeavesReset p.val

/-- PGND_LOSS (R531). -/
def execPgndLoss (s : State) : Host.Outcome State Fault Refusal :=
  s.always fun d => d.pgndLoss

end Sys2Proof.Machine
end

