-- ==== Sys2Proof/Machine/RingCmds.lean ====
section
/-! DEFINITION. Commands of the host rings (R243 to R256). -/
namespace Sys2Proof.Machine

/-- RX_TAIL_WRITE (R243). -/
def execRxTailWrite (r : Fin 272) (v : Word) (s : State) : Host.Outcome State Fault Refusal :=
  s.logic fun d => d.tailWrite false false r.val v.toNat

/-- RX_RING_CFG_WRITE (R245). -/
def execRxRingCfgWrite (r : Fin 272) (v : Word) (s : State) : Host.Outcome State Fault Refusal :=
  s.logic fun d => d.ringRxCfg false r.val v.toNat

/-- RX_DELIVERY_CLAIM (R246). -/
def execRxDeliveryClaim (r : Fin 272) (bufs : List (BitVec 64)) (s : State) : Host.Outcome State Fault Refusal :=
  s.logic fun d => ((d.rxClaim r.val (bufs.map BitVec.toNat)).rxHoldZero r.val (d.rx r.val).queue.length).cxSettle

/-- RX_DELIVERY_WRITTEN (R248). -/
def execRxDeliveryWritten (r : Fin 272) (x : RxWrite) (s : State) : Host.Outcome State Fault Refusal :=
  s.logic fun d => d.rxWritten r.val x.wrote.toNat x.ecc

/-- RX_HOLD_TIMEOUT (R247). -/
def execRxHoldTimeout (r : Fin 272) (s : State) : Host.Outcome State Fault Refusal :=
  s.logic fun d => if d.rxCanClaim r.val then d else ((d.rxDropHead r.val).rxHoldZero r.val (d.rx r.val).queue.length).cxSettle

/-- RING_IRQ_TIMEOUT (R250). -/
def execRingIrqTimeout (r : Fin 272) (tx : Bool) (s : State) : Host.Outcome State Fault Refusal :=
  s.logic fun d => d.ringIrqTimeout r.val tx

/-- TX_TAIL_WRITE (R253). -/
def execTxTailWrite (r : Fin 272) (v : Word) (s : State) : Host.Outcome State Fault Refusal :=
  s.logic fun d => d.tailWrite false true r.val v.toNat

/-- TX_RING_CFG_WRITE (R254). -/
def execTxRingCfgWrite (r : Fin 272) (v : Word) (s : State) : Host.Outcome State Fault Refusal :=
  s.logic fun d => d.txCfgWrite false r.val v.toNat

/-- TX_FRAME_CHECK (R254). -/
def execTxFrameCheck (r : Fin 272) (descs : List (BitVec 256)) (s : State) : Host.Outcome State Fault Refusal :=
  s.logic fun d => d.txTake r.val (descs.map BitVec.toNat)

/-- TX_CELLS_CLAIMED (R255). -/
def execTxCellsClaimed (r : Fin 272) (s : State) : Host.Outcome State Fault Refusal :=
  s.logic fun d => d.txClaim r.val

/-- TX_DATA_READ_DONE (R255). -/
def execTxDataReadDone (r : Fin 272) (err : Bool) (data : List Byte) (s : State) : Host.Outcome State Fault Refusal :=
  s.logic fun d => d.txDataDone r.val err data

end Sys2Proof.Machine
end

