-- ==== Sys2Proof/Machine/SafetyCmds.lean ====
section
/-! DEFINITION. Commands of the pairs, the fault classes, Sepia, the monitors and the events (R454 to R476). -/
namespace Sys2Proof.Machine

/-- LOCKSTEP_MISMATCH (R456). -/
def execLockstepMismatch (k : Fin 33) (s : State) : Host.Outcome State Fault Refusal :=
  s.logic fun d => d.mismatch k.val none

/-- LOCKSTEP_COPY_TIMEOUT (R456). -/
def execLockstepCopyTimeout (k : Fin 33) (s : State) : Host.Outcome State Fault Refusal :=
  s.logic fun d => d.mismatch k.val none

/-- PAIR_JOIN (R457). -/
def execPairJoin (k : Fin 33) (init : Initiator) (s : State) : Host.Outcome State Fault Refusal :=
  s.logic fun d => d.asked init.val .lsPair k.val fun d => d.pairJoin init.val k.val

/-- PAIR_SPLIT (R457). -/
def execPairSplit (k : Fin 33) (init : Initiator) (s : State) : Host.Outcome State Fault Refusal :=
  s.logic fun d => d.asked init.val .lsPair k.val fun d => d.pairSplitReq init.val k.val

/-- HANDOVER_DRAINED (R458). -/
def execHandoverDrained (k : Fin 33) (differ : Bool) (s : State) : Host.Outcome State Fault Refusal :=
  s.logic fun d => (d.handoverDone k.val differ).haltWaiting k.val

/-- HANDOVER_DRAIN_TIMEOUT (R458). -/
def execHandoverDrainTimeout (k : Fin 33) (s : State) : Host.Outcome State Fault Refusal :=
  s.logic fun d => (d.handoverTimeout k.val).haltWaiting k.val

/-- FAULT_ACTIVE_CLEAR (R462). -/
def execFaultActiveClear (c : Fin 16) (s : State) : Host.Outcome State Fault Refusal :=
  s.logic fun d => d.faultClear c.val

/-- WATCHDOG_KICK (R464). -/
def execWatchdogKick (init : Initiator) (v : Word) (s : State) : Host.Outcome State Fault Refusal :=
  s.logic fun d => d.asked init.val .lsWdogKick 0 fun d => d.wdogKick init.val v.toNat

/-- WATCHDOG_EXPIRY (R464). -/
def execWatchdogExpiry (s : State) : Host.Outcome State Fault Refusal :=
  s.logic fun d => d.wdogExpiry

/-- SEPIA_ENTER (R465). -/
def execSepiaEnter (init : Initiator) (s : State) : Host.Outcome State Fault Refusal :=
  s.logic fun d => d.asked init.val .lsSepiaCtl 0 fun d => d.sepiaEnterCmd init.val

/-- SEPIA_EXIT (R468). -/
def execSepiaExit (init : Initiator) (s : State) : Host.Outcome State Fault Refusal :=
  s.logic fun d => d.asked init.val .lsSepiaCtl 0 fun d => d.sepiaExitCmd init.val

/-- REFCLK_LOSS (R461). -/
def execRefclkLoss (s : State) : Host.Outcome State Fault Refusal :=
  s.logic fun d => d.levelOn fcRefclk 0

/-- REFCLK_RESTORED (R461). -/
def execRefclkRestored (s : State) : Host.Outcome State Fault Refusal :=
  s.logic fun d => d.levelOff fcRefclk 0

/-- MONITOR_SAMPLE_TICK (R470). -/
def execMonitorSampleTick (m : Fin 64) (v : Word) (s : State) : Host.Outcome State Fault Refusal :=
  s.logic fun d => d.monTick m.val v.toNat

/-- MONITOR_CLEAR (R472). -/
def execMonitorClear (m : Fin 64) (s : State) : Host.Outcome State Fault Refusal :=
  s.logic fun d => d.monClear m.val

/-- EV_SW_RAISE (R476). -/
def execEvSwRaise (init : Initiator) (v : Word) (s : State) : Host.Outcome State Fault Refusal :=
  s.logic fun d => d.asked init.val .evSwRaise 0 fun d => d.swRaise init.val v.toNat

/-- EVENT_STATUS_CLEAR (R474). -/
def execEventStatusClear (set : Fin 18) (w : Fin 8) (v : Word) (s : State) : Host.Outcome State Fault Refusal :=
  s.logic fun d =>
    if set.val < 16 then d.regStore .evDomStatus (8 * set.val + w.val) v.toNat (2 ^ 32 - 1)
    else if set.val = 16 then d.coresWake.regStore .evMcStatus w.val v.toNat (2 ^ 32 - 1)
    else d.regStore .evPinStatus w.val v.toNat (2 ^ 32 - 1)

end Sys2Proof.Machine
end

