-- ==== Sys2Proof/Machine/SleepCmds.lean ====
section
/-! DEFINITION. Commands of segment sleep, device sleep, the wake detectors and the barrier links (R412 to R423, R519 to R521).
The detectors belong to the always-on controller. -/
namespace Sys2Proof.Machine

/-- A step of the sleep sequence completes (R421). As step 4 begins, the firmware asks for leave to flush its log, and the step
lasts until that flush (R67, R499). (DEDUCED: assumption 37) -/
def Dev.sleepStep (d : Dev) : Dev :=
  let at4 (d : Dev) : Bool := d.sleep.power == .sleepEntry && d.f bwSleepStatus_STEP 0 == 4
  if at4 d ∧ d.mg.flashOps.contains .log = true then d
  else
    let n := d.sleepStepDone
    if !at4 d && at4 n then n.flashAsk .log else n

/-- SLEEP_CMD (R421). -/
def execSleepCmd (init : Initiator) (s : State) : Host.Outcome State Fault Refusal :=
  s.logic fun d => d.asked init.val .bwSleepCmd 0 fun d => d.sleepCmd init.val

/-- SLEEP_STEP_DONE (R421). -/
def execSleepStepDone (s : State) : Host.Outcome State Fault Refusal :=
  s.logic fun d => d.sleepStep

/-- CAN_WAKE_PATTERN (R415). -/
def execCanWakePattern (n : Fin 48) (s : State) : Host.Outcome State Fault Refusal :=
  s.always fun d => d.canWup n.val

/-- SWF_FRAME_DECODED (R416). -/
def execSwfFrameDecoded (k : Fin 8) (err ide : Bool) (ident : BitVec 29) (dlc : Fin 16) (data : List Byte)
    (s : State) : Host.Outcome State Fault Refusal :=
  s.always fun d => d.swfFrame k.val err ide ident.toNat dlc.val data

/-- LIN_WAKE (R415). -/
def execLinWake (n : Fin 16) (s : State) : Host.Outcome State Fault Refusal :=
  s.always fun d => d.linWake n.val

/-- T1S_WAKE (R415). -/
def execT1sWake (m : Fin 8) (s : State) : Host.Outcome State Fault Refusal :=
  s.always fun d => d.t1sWake m.val

/-- WAKE_INPUT_ACTIVE (R417). -/
def execWakeInputActive (i : Fin 8) (s : State) : Host.Outcome State Fault Refusal :=
  s.always fun d => d.winActive i.val

/-- WAKE_INPUT_INACTIVE (R417). -/
def execWakeInputInactive (i : Fin 8) (s : State) : Host.Outcome State Fault Refusal :=
  s.always fun d => d.winInactive i.val

/-- WAKE_STUCK (R417). -/
def execWakeStuck (i : Fin 8) (s : State) : Host.Outcome State Fault Refusal :=
  s.always fun d => d.winStuck i.val

/-- SEG_SLEEP (R418). -/
def execSegSleep (s : Fin 32) (st : State) : Host.Outcome State Fault Refusal :=
  st.logic fun d => d.segSleep s.val

/-- SEG_WAKE (R418). -/
def execSegWake (s : Fin 32) (st : State) : Host.Outcome State Fault Refusal :=
  st.logic fun d => d.segWakeCmd s.val

/-- SEGMENT_DRAIN_DONE (R420). -/
def execSegmentDrainDone (s : Fin 32) (st : State) : Host.Outcome State Fault Refusal :=
  st.logic fun d => d.segDrainDone s.val

/-- SEGMENT_DRAIN_TIMEOUT (R418). -/
def execSegmentDrainTimeout (s : Fin 32) (st : State) : Host.Outcome State Fault Refusal :=
  st.logic fun d => d.segCommandSleep s.val

/-- SEGMENT_ASLEEP (R418). -/
def execSegmentAsleep (s : Fin 32) (st : State) : Host.Outcome State Fault Refusal :=
  st.logic fun d => d.segAsleep s.val

/-- SEGMENT_PORTS_WRITE (R418). -/
def execSegmentPortsWrite (s : Fin 32) (w : Fin 3) (v : Word) (st : State) : Host.Outcome State Fault Refusal :=
  st.logic fun d => d.segPortsWrite false s.val w.val v.toNat

/-- VBAT_POWER_ON (R412). -/
def execVbatPowerOn (s : State) : Host.Outcome State Fault Refusal :=
  s.always fun d => d.vbatPowerOn

/-- OFF_TIME_END (R517). -/
def execOffTimeEnd (s : State) : Host.Outcome State Fault Refusal :=
  s.always fun d => d.offTimeEnd

/-- BL_MESSAGE_RECEIVED (R519). -/
def execBlMessageReceived (n : Fin 4) (x : BlMessage) (acks : Fin 17) (s : State) : Host.Outcome State Fault Refusal :=
  s.logic fun d => d.blMessage n.val x acks.val

/-- BL_RESEND_TIMEOUT (R519). -/
def execBlResendTimeout (n : Fin 4) (s : State) : Host.Outcome State Fault Refusal :=
  s.logic fun d =>
    let (lost, d) := d.blResend n.val
    match lost with | some m => d.farLinkError n.val m | none => d

/-- BL_HEARTBEAT_DUE (R519). -/
def execBlHeartbeatDue (n : Fin 4) (s : State) : Host.Outcome State Fault Refusal :=
  s.logic fun d => d.blHeartbeat n.val

/-- BL_LINK_LOST (R520). -/
def execBlLinkLost (n : Fin 4) (s : State) : Host.Outcome State Fault Refusal :=
  s.logic fun d => if d.b bwLinkStatus_UP n.val then d.blLost n.val else d

/-- BL_LINK_UP (R520). -/
def execBlLinkUp (n : Fin 4) (s : State) : Host.Outcome State Fault Refusal :=
  s.logic fun d => if d.b bwLinkStatus_UP n.val then d else (((d.blUp n.val).updatingEnd (uBl n.val)).partEnd (uBl n.val) ucOk).wakingEnd

end Sys2Proof.Machine
end

