-- ==== Sys2Proof/Machine/TableCmdRows.lean ====
section
/-! DEFINITION. Commands of the tables, the learn unit, the sweeper and the stream functions (R188 to R224, R276 to R281). -/
namespace Sys2Proof.Machine

/-- TB_READ (R222). -/
def execTbRead (i : Fin 2) (table : Fin 16) (index : BitVec 16) (ecc : Ecc) (s : State) : Host.Outcome State Fault Refusal :=
  s.logic fun d => d.tbReadCmd i.val table.val index.toNat ecc

/-- TB_WRITE (R223). -/
def execTbWrite (i : Fin 2) (table : Fin 16) (index : BitVec 16) (s : State) : Host.Outcome State Fault Refusal :=
  s.logic fun d => d.tbWriteCmd i.val table.val index.toNat

/-- TB_INSERT (R196). -/
def execTbInsert (i : Fin 2) (table : Fin 16) (index : BitVec 16) (s : State) : Host.Outcome State Fault Refusal :=
  s.logic fun d => (if d.b tbCmd_BUSY i.val then d else d.sf tbCmd_INDEX i.val index.toNat).tbInsertCmd i.val table.val

/-- TB_DELETE (R222). -/
def execTbDelete (i : Fin 2) (table : Fin 16) (index : BitVec 16) (s : State) : Host.Outcome State Fault Refusal :=
  s.logic fun d => d.tbDeleteCmd i.val table.val index.toNat

/-- TB_SEARCH (R222). -/
def execTbSearch (i : Fin 2) (table : Fin 16) (index : BitVec 16) (ecc : Ecc)
    (s : State) : Host.Outcome State Fault Refusal :=
  s.logic fun d => (if d.b tbCmd_BUSY i.val then d else d.sf tbCmd_INDEX i.val index.toNat).tbSearchCmd i.val table.val ecc

/-- FLUSH_MATCH (R223). -/
def execFlushMatch (i : Fin 2) (table : Fin 16) (index : BitVec 16) (s : State) : Host.Outcome State Fault Refusal :=
  s.logic fun d => (if d.b tbCmd_BUSY i.val then d else d.sf tbCmd_INDEX i.val index.toNat).tbFlushCmd i.val table.val

/-- FLUSH_VISIT (R223). -/
def execFlushVisit (i : Fin 2) (s : State) : Host.Outcome State Fault Refusal :=
  s.logic fun d => d.tbFlushVisit i.val

/-- SWEEP_NOW (R206). -/
def execSweepNow (i : Fin 2) (table : Fin 16) (index : BitVec 16) (s : State) : Host.Outcome State Fault Refusal :=
  s.logic fun d => (if d.b tbCmd_BUSY i.val then d else d.sf tbCmd_INDEX i.val index.toNat).tbSweepCmd i.val table.val

/-- REHASH (R209). -/
def execRehash (i : Fin 2) (table : Fin 16) (index : BitVec 16) (s : State) : Host.Outcome State Fault Refusal :=
  s.logic fun d => (if d.b tbCmd_BUSY i.val then d else d.sf tbCmd_INDEX i.val index.toNat).tbRehashCmd i.val table.val

/-- REHASH_PLACEMENT_DONE (R209). -/
def execRehashPlacementDone (t : Fin 16) (s : State) : Host.Outcome State Fault Refusal :=
  s.logic fun d => d.rehashPlaced t.val

/-- REBUILD (R216). -/
def execRebuild (i : Fin 2) (table : Fin 16) (index : BitVec 16) (s : State) : Host.Outcome State Fault Refusal :=
  s.logic fun d => (if d.b tbCmd_BUSY i.val then d else d.sf tbCmd_INDEX i.val index.toNat).tbRebuildCmd i.val table.val

/-- REBUILD_COPY_DONE (R216). -/
def execRebuildCopyDone (t : Fin 16) (s : State) : Host.Outcome State Fault Refusal :=
  s.logic fun d => d.rebuildCopied t.val

/-- REBUILD_COMMIT (R216). -/
def execRebuildCommit (i : Fin 2) (table : Fin 16) (index : BitVec 16) (s : State) : Host.Outcome State Fault Refusal :=
  s.logic fun d => (if d.b tbCmd_BUSY i.val then d else d.sf tbCmd_INDEX i.val index.toNat).tbRebuildCommitCmd i.val table.val

/-- BG_ABORT (R222). -/
def execBgAbort (i : Fin 2) (table : Fin 16) (index : BitVec 16) (s : State) : Host.Outcome State Fault Refusal :=
  s.logic fun d => (if d.b tbCmd_BUSY i.val then d else d.sf tbCmd_INDEX i.val index.toNat).tbAbortCmd i.val table.val

/-- LEARN_APPLY (R200). -/
def execLearnApply (s : State) : Host.Outcome State Fault Refusal :=
  s.logic fun d => d.learnNext

/-- LOCK_EXPIRY (R202). -/
def execLockExpiry (key : BitVec 60) (s : State) : Host.Outcome State Fault Refusal :=
  s.logic fun d => d.lockExpire key.toNat

/-- SWEEP_PASS_START (R205). -/
def execSweepPassStart (s : State) : Host.Outcome State Fault Refusal :=
  s.logic fun d => if d.f tbL2Cfg_SWEEP_S 0 = 0 ∨ d.tab.sweep.isSome then d else d.sweepStart

/-- SWEEP_VISIT (R205). -/
def execSweepVisit (ecc : Ecc) (s : State) : Host.Outcome State Fault Refusal :=
  s.logic fun d => d.sweepVisit ecc

/-- STREAM_GATE_ENTRY_START (R278). -/
def execStreamGateEntryStart (g : Fin 1024) (s : State) : Host.Outcome State Fault Refusal :=
  s.logic fun d => d.gateEntryStart g.val

/-- STREAM_GATE_BASE_WRITE (R278). -/
def execStreamGateBaseWrite (w : Fin 4) (v : Word) (s : State) : Host.Outcome State Fault Refusal :=
  s.logic fun d =>
    if w.val < 3 then d.storeThen false .tbSgBase w.val v.toNat (2 ^ 32 - 1) Dev.gateRestartAll
    else d.storeThen false .tbSgCfg 0 v.toNat (2 ^ 32 - 1) Dev.gateRestartAll

/-- SEQ_RECOVERY_RESET (R281). -/
def execSeqRecoveryReset (r : Fin 512) (s : State) : Host.Outcome State Fault Refusal :=
  s.logic fun d => d.seqReset r.val

end Sys2Proof.Machine
end

