-- ==== Sys2Proof/Machine/TimeCmds.lean ====
section
/-! DEFINITION. Commands of the time unit: domains, conversions, triggers, captures (R332 to R349). -/
namespace Sys2Proof.Machine

/-- SET_RATE (R335). -/
def execSetRate (t : Fin 4) (s : State) : Host.Outcome State Fault Refusal :=
  s.logic fun d => d.domCmdWrite t.val 1

/-- DOMAIN_STEP (R335). -/
def execDomainStep (t : Fin 4) (s : State) : Host.Outcome State Fault Refusal :=
  s.logic fun d => d.domCmdWrite t.val 2

/-- SET_TIME (R335). -/
def execSetTime (t : Fin 4) (s : State) : Host.Outcome State Fault Refusal :=
  s.logic fun d => d.domCmdWrite t.val 3

/-- DOMAIN_CMD_APPLY (R335). -/
def execDomainCmdApply (t : Fin 4) (s : State) : Host.Outcome State Fault Refusal :=
  s.logic fun d => d.domApply t.val

/-- LATCH (R338). -/
def execLatch (s : State) : Host.Outcome State Fault Refusal :=
  s.logic fun d => d.timeLatch

/-- CONV_GO (R338). -/
def execConvGo (t : Fin 4) (s : State) : Host.Outcome State Fault Refusal :=
  s.logic fun d => d.convWrite t.val true

/-- CONV_DONE (R338). -/
def execConvDone (s : State) : Host.Outcome State Fault Refusal :=
  s.logic fun d => d.convDone

/-- TT_CTL_WRITE (R343). -/
def execTtCtlWrite (n : Fin 32) (v : Word) (s : State) : Host.Outcome State Fault Refusal :=
  s.logic fun d => d.trigCtlWrite false n.val v.toNat

/-- TT_FIRE_NONE (R342). -/
def execTtFireNone (n : Fin 32) (s : State) : Host.Outcome State Fault Refusal :=
  s.logic fun d => d.fireNone n.val

/-- TT_FIRE_SENSE (R342). -/
def execTtFireSense (n : Fin 32) (s : State) : Host.Outcome State Fault Refusal :=
  s.logic fun d => d.fireSense n.val

/-- TT_FIRE_JOB (R345). -/
def execTtFireJob (n : Fin 32) (s : State) : Host.Outcome State Fault Refusal :=
  s.logic fun d => d.fireJob n.val

/-- TT_FIRE_LIN (R342). -/
def execTtFireLin (n : Fin 32) (s : State) : Host.Outcome State Fault Refusal :=
  s.logic fun d => d.fireLin n.val

/-- TT_FIRE_CAN (R309). -/
def execTtFireCan (n : Fin 32) (s : State) : Host.Outcome State Fault Refusal :=
  s.logic fun d => d.fireCan n.val

/-- TT_FIRE_TOUT (R348). -/
def execTtFireTout (n : Fin 32) (s : State) : Host.Outcome State Fault Refusal :=
  s.logic fun d => d.fireTout n.val

/-- TOUT_PULSE_END (R348). -/
def execToutPulseEnd (k : Fin 4) (s : State) : Host.Outcome State Fault Refusal :=
  s.logic fun d => d.toutEnd k.val

/-- TCAP_EDGE (R349). -/
def execTcapEdge (c : Fin 8) (x : CapEdge) (s : State) : Host.Outcome State Fault Refusal :=
  s.logic fun d => d.capEdge c.val x.rising x.held.toNat

/-- TCAP_POP (R349). -/
def execTcapPop (c : Fin 8) (s : State) : Host.Outcome State Fault Refusal :=
  s.logic fun d => d.capPop c.val

end Sys2Proof.Machine
end

