-- ==== Sys2Proof/Machine/Dispatch.lean ====
section
/-! DEFINITION. One arm per command: a direct call of its meaning. -/
namespace Sys2Proof.Machine

def exec (i : Instr) (s : State) : Host.Outcome State Fault Refusal :=
  match i with
  | .registerWrite init off v => Sys2Proof.Machine.execRegisterWrite init off v s
  | .nop u init arg tag => Sys2Proof.Machine.execNop u init arg tag s
  | .quiesce u init arg tag => Sys2Proof.Machine.execQuiesce u init arg tag s
  | .quiesceDrained u => Sys2Proof.Machine.execQuiesceDrained u s
  | .quiesceTimeout u => Sys2Proof.Machine.execQuiesceTimeout u s
  | .resume u init arg tag => Sys2Proof.Machine.execResume u init arg tag s
  | .update u init arg tag => Sys2Proof.Machine.execUpdate u init arg tag s
  | .recal u init arg tag => Sys2Proof.Machine.execRecal u init arg tag s
  | .restart u init arg tag => Sys2Proof.Machine.execRestart u init arg tag s
  | .replace u init arg tag => Sys2Proof.Machine.execReplace u init arg tag s
  | .retire u init arg tag => Sys2Proof.Machine.execRetire u init arg tag s
  | .takeOffline u init arg tag => Sys2Proof.Machine.execTakeOffline u init arg tag s
  | .bringOnline u init arg tag => Sys2Proof.Machine.execBringOnline u init arg tag s
  | .unitWorkComplete u readErr => Sys2Proof.Machine.execUnitWorkComplete u readErr s
  | .unitInternalFault u cause => Sys2Proof.Machine.execUnitInternalFault u cause s
  | .bufferRowFreed => Sys2Proof.Machine.execBufferRowFreed s
  | .stageEntryWrite init n w v => Sys2Proof.Machine.execStageEntryWrite init n w v s
  | .stage init count => Sys2Proof.Machine.execStage init count s
  | .targetStageAnswer u => Sys2Proof.Machine.execTargetStageAnswer u s
  | .stageTimeout => Sys2Proof.Machine.execStageTimeout s
  | .commit init => Sys2Proof.Machine.execCommit init s
  | .abort init => Sys2Proof.Machine.execAbort init s
  | .liveLimitTimeout => Sys2Proof.Machine.execLiveLimitTimeout s
  | .epochRetired => Sys2Proof.Machine.execEpochRetired s
  | .commitTokenArrival u => Sys2Proof.Machine.execCommitTokenArrival u s
  | .implicitTxnDiscard => Sys2Proof.Machine.execImplicitTxnDiscard s
  | .snap init => Sys2Proof.Machine.execSnap init s
  | .snapTokenPass u => Sys2Proof.Machine.execSnapTokenPass u s
  | .modeRequest init m => Sys2Proof.Machine.execModeRequest init m s
  | .regulatorSettled mv => Sys2Proof.Machine.execRegulatorSettled mv s
  | .regulatorFault => Sys2Proof.Machine.execRegulatorFault s
  | .regulatorSettleTimeout => Sys2Proof.Machine.execRegulatorSettleTimeout s
  | .modeDrainTimeout => Sys2Proof.Machine.execModeDrainTimeout s
  | .paceWindow paces => Sys2Proof.Machine.execPaceWindow paces s
  | .avsAdaptStep => Sys2Proof.Machine.execAvsAdaptStep s
  | .paceLowTimeout => Sys2Proof.Machine.execPaceLowTimeout s
  | .paGrant a => Sys2Proof.Machine.execPaGrant a s
  | .paWaitTimeout a => Sys2Proof.Machine.execPaWaitTimeout a s
  | .paLeaseExpiry handle => Sys2Proof.Machine.execPaLeaseExpiry handle s
  | .add h g rd ra rb => Sys2Proof.Machine.execAdd h g rd ra rb s
  | .sub h g rd ra rb => Sys2Proof.Machine.execSub h g rd ra rb s
  | .and h g rd ra rb => Sys2Proof.Machine.execAnd h g rd ra rb s
  | .or h g rd ra rb => Sys2Proof.Machine.execOr h g rd ra rb s
  | .xor h g rd ra rb => Sys2Proof.Machine.execXor h g rd ra rb s
  | .andn h g rd ra rb => Sys2Proof.Machine.execAndn h g rd ra rb s
  | .shl h g rd ra rb => Sys2Proof.Machine.execShl h g rd ra rb s
  | .shr h g rd ra rb => Sys2Proof.Machine.execShr h g rd ra rb s
  | .sar h g rd ra rb => Sys2Proof.Machine.execSar h g rd ra rb s
  | .rol h g rd ra rb => Sys2Proof.Machine.execRol h g rd ra rb s
  | .ror h g rd ra rb => Sys2Proof.Machine.execRor h g rd ra rb s
  | .mul h g rd ra rb => Sys2Proof.Machine.execMul h g rd ra rb s
  | .mulhu h g rd ra rb => Sys2Proof.Machine.execMulhu h g rd ra rb s
  | .min h g rd ra rb => Sys2Proof.Machine.execMin h g rd ra rb s
  | .max h g rd ra rb => Sys2Proof.Machine.execMax h g rd ra rb s
  | .minu h g rd ra rb => Sys2Proof.Machine.execMinu h g rd ra rb s
  | .maxu h g rd ra rb => Sys2Proof.Machine.execMaxu h g rd ra rb s
  | .popc h g rd ra => Sys2Proof.Machine.execPopc h g rd ra s
  | .clz h g rd ra => Sys2Proof.Machine.execClz h g rd ra s
  | .ctz h g rd ra => Sys2Proof.Machine.execCtz h g rd ra s
  | .bswap h g rd ra => Sys2Proof.Machine.execBswap h g rd ra s
  | .addi h g rd ra imm => Sys2Proof.Machine.execAddi h g rd ra imm s
  | .andi h g rd ra imm => Sys2Proof.Machine.execAndi h g rd ra imm s
  | .ori h g rd ra imm => Sys2Proof.Machine.execOri h g rd ra imm s
  | .xori h g rd ra imm => Sys2Proof.Machine.execXori h g rd ra imm s
  | .shli h g rd ra amt => Sys2Proof.Machine.execShli h g rd ra amt s
  | .shri h g rd ra amt => Sys2Proof.Machine.execShri h g rd ra amt s
  | .sari h g rd ra amt => Sys2Proof.Machine.execSari h g rd ra amt s
  | .roli h g rd ra amt => Sys2Proof.Machine.execRoli h g rd ra amt s
  | .rori h g rd ra amt => Sys2Proof.Machine.execRori h g rd ra amt s
  | .movz h rd hw imm => Sys2Proof.Machine.execMovz h rd hw imm s
  | .movk h rd hw imm => Sys2Proof.Machine.execMovk h rd hw imm s
  | .extr h g rd ra pos lenm1 => Sys2Proof.Machine.execExtr h g rd ra pos lenm1 s
  | .extrs h g rd ra pos lenm1 => Sys2Proof.Machine.execExtrs h g rd ra pos lenm1 s
  | .insr h g rd ra pos lenm1 => Sys2Proof.Machine.execInsr h g rd ra pos lenm1 s
  | .sel h g rd ra rb ps => Sys2Proof.Machine.execSel h g rd ra rb ps s
  | .cmp h g pt pf ra rb cc => Sys2Proof.Machine.execCmp h g pt pf ra rb cc s
  | .cmpi h g pt pf ra cc imm => Sys2Proof.Machine.execCmpi h g pt pf ra cc imm s
  | .pand h g pt pa pb => Sys2Proof.Machine.execPand h g pt pa pb s
  | .por h g pt pa pb => Sys2Proof.Machine.execPor h g pt pa pb s
  | .pxor h g pt pa pb => Sys2Proof.Machine.execPxor h g pt pa pb s
  | .pandn h g pt pa pb => Sys2Proof.Machine.execPandn h g pt pa pb s
  | .br h g off => Sys2Proof.Machine.execBr h g off s
  | .call h g off => Sys2Proof.Machine.execCall h g off s
  | .jr h g rd ra imm => Sys2Proof.Machine.execJr h g rd ra imm s
  | .ld h g rt ra sz off ecc => Sys2Proof.Machine.execLd h g rt ra sz off ecc s
  | .lds h g rt ra sz off ecc => Sys2Proof.Machine.execLds h g rt ra sz off ecc s
  | .ldn h g rt ra sz off ecc => Sys2Proof.Machine.execLdn h g rt ra sz off ecc s
  | .ldns h g rt ra sz off ecc => Sys2Proof.Machine.execLdns h g rt ra sz off ecc s
  | .st h g rt ra sz off => Sys2Proof.Machine.execSt h g rt ra sz off s
  | .stn h g rt ra sz off => Sys2Proof.Machine.execStn h g rt ra sz off s
  | .amoadd h g rd ra rb wide ecc => Sys2Proof.Machine.execAmoadd h g rd ra rb wide ecc s
  | .amoswap h g rd ra rb wide ecc => Sys2Proof.Machine.execAmoswap h g rd ra rb wide ecc s
  | .amoor h g rd ra rb wide ecc => Sys2Proof.Machine.execAmoor h g rd ra rb wide ecc s
  | .amoand h g rd ra rb wide ecc => Sys2Proof.Machine.execAmoand h g rd ra rb wide ecc s
  | .amocas h g rd ra rb wide ecc => Sys2Proof.Machine.execAmocas h g rd ra rb wide ecc s
  | .csum h g rd ra rb ecc => Sys2Proof.Machine.execCsum h g rd ra rb ecc s
  | .csumr h g rd ra rb => Sys2Proof.Machine.execCsumr h g rd ra rb s
  | .csumf h g rd ra => Sys2Proof.Machine.execCsumf h g rd ra s
  | .crc8 h g rd ra rb ecc => Sys2Proof.Machine.execCrc8 h g rd ra rb ecc s
  | .crc8h h g rd ra rb ecc => Sys2Proof.Machine.execCrc8h h g rd ra rb ecc s
  | .crc16 h g rd ra rb ecc => Sys2Proof.Machine.execCrc16 h g rd ra rb ecc s
  | .crc32 h g rd ra rb ecc => Sys2Proof.Machine.execCrc32 h g rd ra rb ecc s
  | .crc32c h g rd ra rb ecc => Sys2Proof.Machine.execCrc32c h g rd ra rb ecc s
  | .crc32p4 h g rd ra rb ecc => Sys2Proof.Machine.execCrc32p4 h g rd ra rb ecc s
  | .hmix h g rd ra rb => Sys2Proof.Machine.execHmix h g rd ra rb s
  | .clmull h g rd ra rb => Sys2Proof.Machine.execClmull h g rd ra rb s
  | .clmulh h g rd ra rb => Sys2Proof.Machine.execClmulh h g rd ra rb s
  | .mfs h g rd num => Sys2Proof.Machine.execMfs h g rd num s
  | .mts h g ra num => Sys2Proof.Machine.execMts h g ra num s
  | .cntadd h g ra rb => Sys2Proof.Machine.execCntadd h g ra rb s
  | .yield h g => Sys2Proof.Machine.execYield h g s
  | .fence h g => Sys2Proof.Machine.execFence h g s
  | .bkpt h g => Sys2Proof.Machine.execBkpt h g s
  | .svreq h g => Sys2Proof.Machine.execSvreq h g s
  | .adjh h g ra => Sys2Proof.Machine.execAdjh h g ra s
  | .adjt h g ra => Sys2Proof.Machine.execAdjt h g ra s
  | .wmov h g ra => Sys2Proof.Machine.execWmov h g ra s
  | .matchKey h g rd ra set tk => Sys2Proof.Machine.execMatchKey h g rd ra set tk s
  | .matchAct h g rd ra set ecc => Sys2Proof.Machine.execMatchAct h g rd ra set ecc s
  | .matchDone h tk ecc => Sys2Proof.Machine.execMatchDone h tk ecc s
  | .lkup h g rd ra table learn tk => Sys2Proof.Machine.execLkup h g rd ra table learn tk s
  | .lkupDone h tk ecc => Sys2Proof.Machine.execLkupDone h tk ecc s
  | .aese h g rd ra tk => Sys2Proof.Machine.execAese h g rd ra tk s
  | .aesd h g rd ra tk => Sys2Proof.Machine.execAesd h g rd ra tk s
  | .aesBlockSchedule h tk => Sys2Proof.Machine.execAesBlockSchedule h tk s
  | .aesBlockDone h tk => Sys2Proof.Machine.execAesBlockDone h tk s
  | .mor h g rd ra tk => Sys2Proof.Machine.execMor h g rd ra tk s
  | .mow h g rd ra tk => Sys2Proof.Machine.execMow h g rd ra tk s
  | .moack h g ra tk => Sys2Proof.Machine.execMoack h g ra tk s
  | .moOpDone h tk => Sys2Proof.Machine.execMoOpDone h tk s
  | .leave h g rd ra budget tk => Sys2Proof.Machine.execLeave h g rd ra budget tk s
  | .leaveRel h g ra tk => Sys2Proof.Machine.execLeaveRel h g ra tk s
  | .tnow h g rd td => Sys2Proof.Machine.execTnow h g rd td s
  | .tarm h g ra td rel tk => Sys2Proof.Machine.execTarm h g ra td rel tk s
  | .tarmExpiry h tk => Sys2Proof.Machine.execTarmExpiry h tk s
  | .wait h g tmask pd => Sys2Proof.Machine.execWait h g tmask pd s
  | .emit h g ra cls => Sys2Proof.Machine.execEmit h g ra cls s
  | .emitm h g ra cls => Sys2Proof.Machine.execEmitm h g ra cls s
  | .drop h g reason => Sys2Proof.Machine.execDrop h g reason s
  | .copyh h g ra dom ring => Sys2Proof.Machine.execCopyh h g ra dom ring s
  | .mirr h g session => Sys2Proof.Machine.execMirr h g session s
  | .redip h g => Sys2Proof.Machine.execRedip h g s
  | .trap h g code => Sys2Proof.Machine.execTrap h g code s
  | .mfsr h g rd num => Sys2Proof.Machine.execMfsr h g rd num s
  | .mtsr h g ra num => Sys2Proof.Machine.execMtsr h g ra num s
  | .eret h g => Sys2Proof.Machine.execEret h g s
  | .wfi h g => Sys2Proof.Machine.execWfi h g s
  | .budgetExhausted n t => Sys2Proof.Machine.execBudgetExhausted n t s
  | .waitTmo h => Sys2Proof.Machine.execWaitTmo h s
  | .threadCellAvailable n t => Sys2Proof.Machine.execThreadCellAvailable n t s
  | .interruptTaken c => Sys2Proof.Machine.execInterruptTaken c s
  | .alarmDue c => Sys2Proof.Machine.execAlarmDue c s
  | .feLoad init clusters ecc => Sys2Proof.Machine.execFeLoad init clusters ecc s
  | .feLoadCopyDone => Sys2Proof.Machine.execFeLoadCopyDone s
  | .feFree init clusters slot => Sys2Proof.Machine.execFeFree init clusters slot s
  | .ethFrameReceived p x => Sys2Proof.Machine.execEthFrameReceived p x s
  | .dispatch p => Sys2Proof.Machine.execDispatch p s
  | .jobHandover c => Sys2Proof.Machine.execJobHandover c s
  | .slowBucketRefill q => Sys2Proof.Machine.execSlowBucketRefill q s
  | .ruleWindowWrite w v => Sys2Proof.Machine.execRuleWindowWrite w v s
  | .orderRelease p => Sys2Proof.Machine.execOrderRelease p s
  | .orderTimeout p seq => Sys2Proof.Machine.execOrderTimeout p seq s
  | .tbRead i' table index ecc => Sys2Proof.Machine.execTbRead i' table index ecc s
  | .tbWrite i' table index => Sys2Proof.Machine.execTbWrite i' table index s
  | .tbInsert i' table index => Sys2Proof.Machine.execTbInsert i' table index s
  | .tbDelete i' table index => Sys2Proof.Machine.execTbDelete i' table index s
  | .tbSearch i' table index ecc => Sys2Proof.Machine.execTbSearch i' table index ecc s
  | .flushMatch i' table index => Sys2Proof.Machine.execFlushMatch i' table index s
  | .flushVisit i' => Sys2Proof.Machine.execFlushVisit i' s
  | .portQueueFlush p => Sys2Proof.Machine.execPortQueueFlush p s
  | .sweepNow i' table index => Sys2Proof.Machine.execSweepNow i' table index s
  | .rehash i' table index => Sys2Proof.Machine.execRehash i' table index s
  | .rehashPlacementDone t => Sys2Proof.Machine.execRehashPlacementDone t s
  | .rebuild i' table index => Sys2Proof.Machine.execRebuild i' table index s
  | .rebuildCopyDone t => Sys2Proof.Machine.execRebuildCopyDone t s
  | .rebuildCommit i' table index => Sys2Proof.Machine.execRebuildCommit i' table index s
  | .bgAbort i' table index => Sys2Proof.Machine.execBgAbort i' table index s
  | .learnApply => Sys2Proof.Machine.execLearnApply s
  | .lockExpiry key => Sys2Proof.Machine.execLockExpiry key s
  | .sweepPassStart => Sys2Proof.Machine.execSweepPassStart s
  | .sweepVisit ecc => Sys2Proof.Machine.execSweepVisit ecc s
  | .streamGateEntryStart g => Sys2Proof.Machine.execStreamGateEntryStart g s
  | .streamGateBaseWrite w v => Sys2Proof.Machine.execStreamGateBaseWrite w v s
  | .seqRecoveryReset r => Sys2Proof.Machine.execSeqRecoveryReset r s
  | .residenceScan => Sys2Proof.Machine.execResidenceScan s
  | .linkLost p => Sys2Proof.Machine.execLinkLost p s
  | .linkHoldExpiry p => Sys2Proof.Machine.execLinkHoldExpiry p s
  | .linkRestored p an => Sys2Proof.Machine.execLinkRestored p an s
  | .fifoPointerEccError x => Sys2Proof.Machine.execFifoPointerEccError x s
  | .mirrorSessionWrite s' w v => Sys2Proof.Machine.execMirrorSessionWrite s' w v s
  | .rxTailWrite r v => Sys2Proof.Machine.execRxTailWrite r v s
  | .rxRingCfgWrite r v => Sys2Proof.Machine.execRxRingCfgWrite r v s
  | .rxDeliveryClaim r bufs => Sys2Proof.Machine.execRxDeliveryClaim r bufs s
  | .rxDeliveryWritten r x => Sys2Proof.Machine.execRxDeliveryWritten r x s
  | .rxHoldTimeout r => Sys2Proof.Machine.execRxHoldTimeout r s
  | .ringIrqTimeout r tx => Sys2Proof.Machine.execRingIrqTimeout r tx s
  | .txTailWrite r v => Sys2Proof.Machine.execTxTailWrite r v s
  | .txRingCfgWrite r v => Sys2Proof.Machine.execTxRingCfgWrite r v s
  | .txFrameCheck r descs => Sys2Proof.Machine.execTxFrameCheck r descs s
  | .txCellsClaimed r => Sys2Proof.Machine.execTxCellsClaimed r s
  | .txDataReadDone r err data => Sys2Proof.Machine.execTxDataReadDone r err data s
  | .ethTxSelect p x => Sys2Proof.Machine.execEthTxSelect p x s
  | .ethTxEnd p ecc => Sys2Proof.Machine.execEthTxEnd p ecc s
  | .pauseTimerExpiry p c => Sys2Proof.Machine.execPauseTimerExpiry p c s
  | .pauseWatchdogExpiry p c => Sys2Proof.Machine.execPauseWatchdogExpiry p c s
  | .pauseHoldoffEnd p c => Sys2Proof.Machine.execPauseHoldoffEnd p c s
  | .linkLossDetected p => Sys2Proof.Machine.execLinkLossDetected p s
  | .linkUpDetected p an => Sys2Proof.Machine.execLinkUpDetected p an s
  | .preemptVerifyTimer p => Sys2Proof.Machine.execPreemptVerifyTimer p s
  | .verifyMpacketReceived x => Sys2Proof.Machine.execVerifyMpacketReceived x s
  | .gateEntryStart p i' => Sys2Proof.Machine.execGateEntryStart p i' s
  | .configChange p => Sys2Proof.Machine.execConfigChange p s
  | .gateCancel p => Sys2Proof.Machine.execGateCancel p s
  | .gateConfigApply p => Sys2Proof.Machine.execGateConfigApply p s
  | .stepCapsTimer p => Sys2Proof.Machine.execStepCapsTimer p s
  | .stepCapsReceived p ceil floor => Sys2Proof.Machine.execStepCapsReceived p ceil floor s
  | .stepPeerTimeout p => Sys2Proof.Machine.execStepPeerTimeout p s
  | .stepTrainTimeout p => Sys2Proof.Machine.execStepTrainTimeout p s
  | .stepDownWindow p => Sys2Proof.Machine.execStepDownWindow p s
  | .stepReqReceived p txn rate => Sys2Proof.Machine.execStepReqReceived p txn rate s
  | .stepAckReceived p txn rate => Sys2Proof.Machine.execStepAckReceived p txn rate s
  | .stepNakReceived p txn rate reason => Sys2Proof.Machine.execStepNakReceived p txn rate reason s
  | .stepDoneReceived p txn rate => Sys2Proof.Machine.execStepDoneReceived p txn rate s
  | .stepAckTimeout p => Sys2Proof.Machine.execStepAckTimeout p s
  | .stepDoneTimeout p => Sys2Proof.Machine.execStepDoneTimeout p s
  | .stepLaneLocked p => Sys2Proof.Machine.execStepLaneLocked p s
  | .stepLockTimeout p => Sys2Proof.Machine.execStepLockTimeout p s
  | .lpiIdleTimeout p => Sys2Proof.Machine.execLpiIdleTimeout p s
  | .lpiWakeDone p us => Sys2Proof.Machine.execLpiWakeDone p us s
  | .t1sCollision p late => Sys2Proof.Machine.execT1sCollision p late s
  | .plcaBeaconLoss p => Sys2Proof.Machine.execPlcaBeaconLoss p s
  | .tsFifoPop p => Sys2Proof.Machine.execTsFifoPop p s
  | .canFrameReceived n x => Sys2Proof.Machine.execCanFrameReceived n x s
  | .canRxError n k up => Sys2Proof.Machine.execCanRxError n k up s
  | .canTxLoad x => Sys2Proof.Machine.execCanTxLoad x s
  | .canArbitrationStart n => Sys2Proof.Machine.execCanArbitrationStart n s
  | .canTxSuccess n tdcv tdcvXl => Sys2Proof.Machine.execCanTxSuccess n tdcv tdcvXl s
  | .canTxError n k x => Sys2Proof.Machine.execCanTxError n k x s
  | .canArbLost n => Sys2Proof.Machine.execCanArbLost n s
  | .canIntegrationDone n => Sys2Proof.Machine.execCanIntegrationDone n s
  | .canBoDelayExpiry n => Sys2Proof.Machine.execCanBoDelayExpiry n s
  | .canRecover n => Sys2Proof.Machine.execCanRecover n s
  | .canRecoveryDone n => Sys2Proof.Machine.execCanRecoveryDone n s
  | .canPtimeReached n b => Sys2Proof.Machine.execCanPtimeReached n b s
  | .canSchedWrite n s' v => Sys2Proof.Machine.execCanSchedWrite n s' v s
  | .moKeyWrite w v => Sys2Proof.Machine.execMoKeyWrite w v s
  | .moAckWrite w v => Sys2Proof.Machine.execMoAckWrite w v s
  | .moPublish w v => Sys2Proof.Machine.execMoPublish w v s
  | .moForeignClear w => Sys2Proof.Machine.execMoForeignClear w s
  | .linTick n => Sys2Proof.Machine.execLinTick n s
  | .linHeaderReceived n id x => Sys2Proof.Machine.execLinHeaderReceived n id x s
  | .linResponseReceived n x => Sys2Proof.Machine.execLinResponseReceived n x s
  | .linNoResponse n => Sys2Proof.Machine.execLinNoResponse n s
  | .linTxTake x => Sys2Proof.Machine.execLinTxTake x s
  | .linSchedReq n t => Sys2Proof.Machine.execLinSchedReq n t s
  | .linSchedStop n => Sys2Proof.Machine.execLinSchedStop n s
  | .linSchedEntryWrite n v => Sys2Proof.Machine.execLinSchedEntryWrite n v s
  | .tunAggTimeout s' => Sys2Proof.Machine.execTunAggTimeout s' s
  | .tunStreamWrite s' w v => Sys2Proof.Machine.execTunStreamWrite s' w v s
  | .setRate t => Sys2Proof.Machine.execSetRate t s
  | .domainStep t => Sys2Proof.Machine.execDomainStep t s
  | .setTime t => Sys2Proof.Machine.execSetTime t s
  | .domainCmdApply t => Sys2Proof.Machine.execDomainCmdApply t s
  | .latch => Sys2Proof.Machine.execLatch s
  | .convGo t => Sys2Proof.Machine.execConvGo t s
  | .convDone => Sys2Proof.Machine.execConvDone s
  | .ttCtlWrite n v => Sys2Proof.Machine.execTtCtlWrite n v s
  | .ttFireNone n => Sys2Proof.Machine.execTtFireNone n s
  | .ttFireSense n => Sys2Proof.Machine.execTtFireSense n s
  | .ttFireJob n => Sys2Proof.Machine.execTtFireJob n s
  | .ttFireLin n => Sys2Proof.Machine.execTtFireLin n s
  | .ttFireCan n => Sys2Proof.Machine.execTtFireCan n s
  | .ttFireTout n => Sys2Proof.Machine.execTtFireTout n s
  | .toutPulseEnd k => Sys2Proof.Machine.execToutPulseEnd k s
  | .tcapEdge c x => Sys2Proof.Machine.execTcapEdge c x s
  | .tcapPop c => Sys2Proof.Machine.execTcapPop c s
  | .cryptoJobSubmit u v => Sys2Proof.Machine.execCryptoJobSubmit u v s
  | .cryptoJobStart u => Sys2Proof.Machine.execCryptoJobStart u s
  | .cryptoChunkStage err data => Sys2Proof.Machine.execCryptoChunkStage err data s
  | .cryptoChunkEnd u ecc => Sys2Proof.Machine.execCryptoChunkEnd u ecc s
  | .cryptoDonePop u => Sys2Proof.Machine.execCryptoDonePop u s
  | .ctxSave u => Sys2Proof.Machine.execCtxSave u s
  | .ctxRestore u err img => Sys2Proof.Machine.execCtxRestore u err img s
  | .ctxClear u => Sys2Proof.Machine.execCtxClear u s
  | .ksLoad u slot => Sys2Proof.Machine.execKsLoad u slot s
  | .generate u slot => Sys2Proof.Machine.execGenerate u slot s
  | .import u slot => Sys2Proof.Machine.execImport u slot s
  | .derive u slot aux => Sys2Proof.Machine.execDerive u slot aux s
  | .wrapOut u slot => Sys2Proof.Machine.execWrapOut u slot s
  | .erase u slot => Sys2Proof.Machine.execErase u slot s
  | .unwrap u slot aux => Sys2Proof.Machine.execUnwrap u slot aux s
  | .readAttr u slot => Sys2Proof.Machine.execReadAttr u slot s
  | .keySwitchDrained u => Sys2Proof.Machine.execKeySwitchDrained u s
  | .remaskSweepDue => Sys2Proof.Machine.execRemaskSweepDue s
  | .remaskSweepDone => Sys2Proof.Machine.execRemaskSweepDone s
  | .entropyHealthFail => Sys2Proof.Machine.execEntropyHealthFail s
  | .entropyRetest pass => Sys2Proof.Machine.execEntropyRetest pass s
  | .ksQuotaWrite u v => Sys2Proof.Machine.execKsQuotaWrite u v s
  | .wrapGenWrite u v => Sys2Proof.Machine.execWrapGenWrite u v s
  | .ldCtlWrite init n on => Sys2Proof.Machine.execLdCtlWrite init n on s
  | .loadClear init n => Sys2Proof.Machine.execLoadClear init n s
  | .loadRampDone n => Sys2Proof.Machine.execLoadRampDone n s
  | .loadPhaseEnd n => Sys2Proof.Machine.execLoadPhaseEnd n s
  | .loadThermalTrip n temp => Sys2Proof.Machine.execLoadThermalTrip n temp s
  | .loadOcTrip n => Sys2Proof.Machine.execLoadOcTrip n s
  | .wireModelUpdate p currents => Sys2Proof.Machine.execWireModelUpdate p currents s
  | .loadRetryReload n => Sys2Proof.Machine.execLoadRetryReload n s
  | .loadCooled n temps => Sys2Proof.Machine.execLoadCooled n temps s
  | .loadGrantRelease n => Sys2Proof.Machine.execLoadGrantRelease n s
  | .vbatUndervoltage p => Sys2Proof.Machine.execVbatUndervoltage p s
  | .vbatRecovered p => Sys2Proof.Machine.execVbatRecovered p s
  | .adcEntryDone p c value sat => Sys2Proof.Machine.execAdcEntryDone p c value sat s
  | .openLoadOffCheck n above => Sys2Proof.Machine.execOpenLoadOffCheck n above s
  | .aggAverageCheck p x => Sys2Proof.Machine.execAggAverageCheck p x s
  | .lossOfControl p => Sys2Proof.Machine.execLossOfControl p s
  | .locEnded p => Sys2Proof.Machine.execLocEnded p s
  | .dieStateReport p => Sys2Proof.Machine.execDieStateReport p s
  | .sleepCmd init => Sys2Proof.Machine.execSleepCmd init s
  | .sleepStepDone => Sys2Proof.Machine.execSleepStepDone s
  | .canWakePattern n => Sys2Proof.Machine.execCanWakePattern n s
  | .swfFrameDecoded k err ide ident dlc data => Sys2Proof.Machine.execSwfFrameDecoded k err ide ident dlc data s
  | .linWake n => Sys2Proof.Machine.execLinWake n s
  | .t1sWake m => Sys2Proof.Machine.execT1sWake m s
  | .wakeInputActive i' => Sys2Proof.Machine.execWakeInputActive i' s
  | .wakeStuck i' => Sys2Proof.Machine.execWakeStuck i' s
  | .segSleep s' => Sys2Proof.Machine.execSegSleep s' s
  | .segWake s' => Sys2Proof.Machine.execSegWake s' s
  | .segmentDrainDone s' => Sys2Proof.Machine.execSegmentDrainDone s' s
  | .segmentDrainTimeout s' => Sys2Proof.Machine.execSegmentDrainTimeout s' s
  | .segmentAsleep s' => Sys2Proof.Machine.execSegmentAsleep s' s
  | .segmentPortsWrite s' w v => Sys2Proof.Machine.execSegmentPortsWrite s' w v s
  | .vbatPowerOn => Sys2Proof.Machine.execVbatPowerOn s
  | .offTimeEnd => Sys2Proof.Machine.execOffTimeEnd s
  | .hostRead dom x => Sys2Proof.Machine.execHostRead dom x s
  | .hostWrite dom x poisoned data => Sys2Proof.Machine.execHostWrite dom x poisoned data s
  | .farWriteAck w => Sys2Proof.Machine.execFarWriteAck w s
  | .farWriteTimeout w => Sys2Proof.Machine.execFarWriteTimeout w s
  | .farLatchClear init dom w => Sys2Proof.Machine.execFarLatchClear init dom w s
  | .functionLevelReset dom => Sys2Proof.Machine.execFunctionLevelReset dom s
  | .pcieConfigWrite dom bme mse d3 vfEnable numVfs => Sys2Proof.Machine.execPcieConfigWrite dom bme mse d3 vfEnable numVfs s
  | .pcieLinkChange e up speed width => Sys2Proof.Machine.execPcieLinkChange e up speed width s
  | .domBindWrite init dom v => Sys2Proof.Machine.execDomBindWrite init dom v s
  | .coeRead dom => Sys2Proof.Machine.execCoeRead dom s
  | .coeWrite dom => Sys2Proof.Machine.execCoeWrite dom s
  | .coeTx dom => Sys2Proof.Machine.execCoeTx dom s
  | .lockstepMismatch k => Sys2Proof.Machine.execLockstepMismatch k s
  | .lockstepCopyTimeout k => Sys2Proof.Machine.execLockstepCopyTimeout k s
  | .pairJoin k init => Sys2Proof.Machine.execPairJoin k init s
  | .pairSplit k init => Sys2Proof.Machine.execPairSplit k init s
  | .handoverDrained k differ => Sys2Proof.Machine.execHandoverDrained k differ s
  | .handoverDrainTimeout k => Sys2Proof.Machine.execHandoverDrainTimeout k s
  | .faultActiveClear c => Sys2Proof.Machine.execFaultActiveClear c s
  | .watchdogKick init v => Sys2Proof.Machine.execWatchdogKick init v s
  | .watchdogExpiry => Sys2Proof.Machine.execWatchdogExpiry s
  | .sepiaEnter init => Sys2Proof.Machine.execSepiaEnter init s
  | .sepiaExit init => Sys2Proof.Machine.execSepiaExit init s
  | .refclkLoss => Sys2Proof.Machine.execRefclkLoss s
  | .monitorSampleTick m v => Sys2Proof.Machine.execMonitorSampleTick m v s
  | .monitorClear m => Sys2Proof.Machine.execMonitorClear m s
  | .evSwRaise init v => Sys2Proof.Machine.execEvSwRaise init v s
  | .eventStatusClear set w v => Sys2Proof.Machine.execEventStatusClear set w v s
  | .bootStart x => Sys2Proof.Machine.execBootStart x s
  | .hashGo init v => Sys2Proof.Machine.execHashGo init v s
  | .hashDone => Sys2Proof.Machine.execHashDone s
  | .sensorSample temps mvs => Sys2Proof.Machine.execSensorSample temps mvs s
  | .version n => Sys2Proof.Machine.execVersion n s
  | .attest n err => Sys2Proof.Machine.execAttest n err s
  | .logRead n err => Sys2Proof.Machine.execLogRead n err s
  | .flashWrite n data => Sys2Proof.Machine.execFlashWrite n data s
  | .mboxCommit n => Sys2Proof.Machine.execMboxCommit n s
  | .confirm n => Sys2Proof.Machine.execConfirm n s
  | .svnRaise n readErr => Sys2Proof.Machine.execSvnRaise n readErr s
  | .lifecycle n data => Sys2Proof.Machine.execLifecycle n data s
  | .keyset n data => Sys2Proof.Machine.execKeyset n data s
  | .mboxReset n => Sys2Proof.Machine.execMboxReset n s
  | .logAppend init => Sys2Proof.Machine.execLogAppend init s
  | .logFlushTimer => Sys2Proof.Machine.execLogFlushTimer s
  | .recovChunk v => Sys2Proof.Machine.execRecovChunk v s
  | .recovDone v => Sys2Proof.Machine.execRecovDone v s
  | .recovHello sender => Sys2Proof.Machine.execRecovHello sender s
  | .recovData sender block data => Sys2Proof.Machine.execRecovData sender block data s
  | .recovEnd sender total => Sys2Proof.Machine.execRecovEnd sender total s
  | .recovSessionTimeout => Sys2Proof.Machine.execRecovSessionTimeout s
  | .darderIdcode q => Sys2Proof.Machine.execDarderIdcode q s
  | .darderChallenge q => Sys2Proof.Machine.execDarderChallenge q s
  | .darderUnlock q => Sys2Proof.Machine.execDarderUnlock q s
  | .darderHalt q => Sys2Proof.Machine.execDarderHalt q s
  | .darderResume q => Sys2Proof.Machine.execDarderResume q s
  | .darderStep q ecc => Sys2Proof.Machine.execDarderStep q ecc s
  | .darderBkpt q => Sys2Proof.Machine.execDarderBkpt q s
  | .darderWatch q => Sys2Proof.Machine.execDarderWatch q s
  | .darderRegr q => Sys2Proof.Machine.execDarderRegr q s
  | .darderRegw q => Sys2Proof.Machine.execDarderRegw q s
  | .darderMemr q ecc => Sys2Proof.Machine.execDarderMemr q ecc s
  | .darderMemw q => Sys2Proof.Machine.execDarderMemw q s
  | .darderReset q => Sys2Proof.Machine.execDarderReset q s
  | .darderRecover q => Sys2Proof.Machine.execDarderRecover q s
  | .darderStatus q => Sys2Proof.Machine.execDarderStatus q s
  | .darderLinkReset => Sys2Proof.Machine.execDarderLinkReset s
  | .debugBreakpointHit h i' => Sys2Proof.Machine.execDebugBreakpointHit h i' s
  | .debugWatchpointHit h i' => Sys2Proof.Machine.execDebugWatchpointHit h i' s
  | .pwrGoodRise straps vio33 => Sys2Proof.Machine.execPwrGoodRise straps vio33 s
  | .pwrGoodFall => Sys2Proof.Machine.execPwrGoodFall s
  | .resetNPulse straps => Sys2Proof.Machine.execResetNPulse straps s
  | .supplyOutOfRange => Sys2Proof.Machine.execSupplyOutOfRange s
  | .aocPowerReset => Sys2Proof.Machine.execAocPowerReset s
  | .powerDieReset p => Sys2Proof.Machine.execPowerDieReset p s
  | .blMessageReceived n x acks => Sys2Proof.Machine.execBlMessageReceived n x acks s
  | .blResendTimeout n => Sys2Proof.Machine.execBlResendTimeout n s
  | .blHeartbeatDue n => Sys2Proof.Machine.execBlHeartbeatDue n s
  | .blLinkLost n => Sys2Proof.Machine.execBlLinkLost n s
  | .blLinkUp n => Sys2Proof.Machine.execBlLinkUp n s
  | .pgndLoss => Sys2Proof.Machine.execPgndLoss s
  | .wakeInputInactive i' => Sys2Proof.Machine.execWakeInputInactive i' s
  | .refclkRestored => Sys2Proof.Machine.execRefclkRestored s
  | .powerDieLeavesReset p => Sys2Proof.Machine.execPowerDieLeavesReset p s
  | .pcsLinkConditionChange p lock lf rf an => Sys2Proof.Machine.execPcsLinkConditionChange p lock lf rf an s
  | .plcaBeaconReturn p => Sys2Proof.Machine.execPlcaBeaconReturn p s
  | .lpiRxChange p on us => Sys2Proof.Machine.execLpiRxChange p on us s

end Sys2Proof.Machine
end

