-- ==== Sys2Proof/Machine/Step.lean ====
section
/-! DEFINITION. One step of the block: the command at the front of the queue, or the passing of time when none waits. -/
namespace Sys2Proof.Machine

/-- The device when a step finds no command: time passes. (DESIGN CHOICE: assumption 4) -/
def idleTick (s : State) : State := { s with dev := s.dev.tick }

/-- One step. The queue's rest stays for the steps after it. (DESIGN CHOICE: assumption 4) -/
def step (s : State) : Host.Outcome State Fault Refusal :=
  match s.pending with
  | [] => .next (idleTick s)
  | i :: rest => exec i { s with pending := rest }

/-- `s` with the command that a table word spells at the front of its queue; unchanged, since no word spells one.
(DEDUCED: assumption 8) -/
def State.withFetchWord (s : State) (nbits w : Nat) : State :=
  match decodeTableWord nbits w with
  | some i => { s with pending := i :: s.pending }
  | none => s

end Sys2Proof.Machine
end

