-- ==== Sys2Proof/Safety.lean ====
section
/-! DEFINITION. The words of the claims: the canonical form of the memories, a logic side that stays in reset while PWR_GOOD is
low, a command that completes with an effect, and what a command leaves alone. -/
namespace Sys2Proof.Machine

/-- The canonical form of every byte memory: the local memories, shared data and program stores of the clusters, the SRAM, the
log SRAM and the external flash (R79, R113). Erased flash reads ones. -/
def Memory.wf (d : Dev) : Bool :=
  Sparse.wf (fun _ => 0) d.eng.ld && Sparse.wf (fun _ => 0) d.eng.cs && Sparse.wf (fun _ => 0) d.eng.ps
    && Sparse.wf (fun _ => 0) d.eng.sram && Sparse.wf (fun _ => 0) d.eng.logSram && Sparse.wf (fun _ => 0xFF) d.eng.flash

/-- The logic side as reset leaves it (R516): no thread, frame, table entry, queue, ring, transaction, command of a unit, time
domain or bus channel holds anything; the external flash keeps its contents. -/
def Dev.logicAtReset (d : Dev) : Prop :=
  d.eng = { flash := d.eng.flash } ∧ d.path = {} ∧ d.tab = {} ∧ d.buf = {} ∧ d.host = {} ∧ d.ep = {} ∧ d.ops = [] ∧ d.time = {}
    ∧ d.bus = {}

/-- While PWR_GOOD is low, the logic side is as reset leaves it (R516). -/
def State.HeldInReset (s : State) : Prop := s.dev.mg.held = true → s.dev.logicAtReset

/-- The logic side is out of reset: PWR_GOOD is high (R516). -/
def State.On (s : State) : Prop := s.dev.mg.held = false

/-- The command `c` completes from `s`: `exec` answers a next state, the commands that wait stay, and `P` holds of the device
it leaves. -/
def Runs (c : Instr) (s : State) (P : Dev → Prop) : Prop := ∃ t, exec c s = .next t ∧ t.pending = s.pending ∧ P t.dev

/-- The parts of the device beside its registers and counters. `logRam` is the log SRAM, `logTail` what the management subsystem
keeps of the log (the last CHAIN and the lost records), `rxFifo` the receive FIFOs before the dispatcher, `pba` the pending-bit
arrays of the domains. -/
inductive Part where
  | snaps | raw | free | ep | ops | pa | paNext | eng | logRam | path | rxFifo | tab | buf | host | pba | load | safe | time | sleep
  | bus | cx | mg | logTail | outs
  deriving DecidableEq, Repr

/-- Whether two devices hold the same in a part. -/
def Part.same (p : Part) (a b : Dev) : Prop :=
  match p with
  | .snaps => b.snaps = a.snaps
  | .raw => b.raw = a.raw
  | .free => b.free = a.free
  | .ep => b.ep = a.ep
  | .ops => b.ops = a.ops
  | .pa => b.pa = a.pa
  | .paNext => b.paNext = a.paNext
  | .eng => { b.eng with logSram := [] } = { a.eng with logSram := [] }
  | .logRam => b.eng.logSram = a.eng.logSram
  | .path => { b.path with rxFifo := [] } = { a.path with rxFifo := [] }
  | .rxFifo => b.path.rxFifo = a.path.rxFifo
  | .tab => b.tab = a.tab
  | .buf => b.buf = a.buf
  | .host => { b.host with pba := [] } = { a.host with pba := [] }
  | .pba => b.host.pba = a.host.pba
  | .load => b.load = a.load
  | .safe => b.safe = a.safe
  | .time => b.time = a.time
  | .sleep => b.sleep = a.sleep
  | .bus => b.bus = a.bus
  | .cx => b.cx = a.cx
  | .mg => { b.mg with chain := 0, lost := 0 } = { a.mg with chain := 0, lost := 0 }
  | .logTail => b.mg.chain = a.mg.chain ∧ b.mg.lost = a.mg.lost
  | .outs => b.outs = a.outs

/-- What a command may change: single registers and counters by instance, whole register arrays and counter arrays, parts; and
`events` when it raises events, which reach the registers of the event unit and of the log, the counter of lost records, the
pending-bit arrays, the messages to Ethernet hosts, the log and the outputs (R448, R473 to R475, R499). -/
structure Foot where
  regs : List (Reg × Nat) := []
  arrays : List Reg := []
  ctrs : List (Ctr × Nat) := []
  ctrArrays : List Ctr := []
  parts : List Part := []
  events : Bool := false

/-- The registers an event reaches. -/
def eventRegs : List Reg := [.evDetail, .evDomStatus, .evMcStatus, .evPinStatus, .mgLogSeq, .mgLogStatus]

/-- The parts an event reaches. -/
def eventParts : List Part := [.logRam, .rxFifo, .pba, .logTail, .outs]

/-- Whether a register instance lies in a footprint. -/
def Foot.hasReg (F : Foot) (r : Reg) (i : Nat) : Prop :=
  (r, i) ∈ F.regs ∨ r ∈ F.arrays ∨ (F.events = true ∧ r ∈ eventRegs)

/-- Whether a counter instance lies in a footprint. -/
def Foot.hasCtr (F : Foot) (c : Ctr) (i : Nat) : Prop :=
  (c, i) ∈ F.ctrs ∨ c ∈ F.ctrArrays ∨ (F.events = true ∧ c = .mgLogLost)

/-- Whether a part lies in a footprint. -/
def Foot.hasPart (F : Foot) (p : Part) : Prop := p ∈ F.parts ∨ (F.events = true ∧ p ∈ eventParts)

/-- Whether the firmware runs and the log holds so many unflushed records that it has asked for leave to flush them (R499). -/
def Dev.logOver (d : Dev) : Bool := d.mg.booted && decide (4096 ≤ d.f mgLogStatus_UNFLUSHED 0)

/-- A footprint up to the request for leave to flush the log that an event's record brings where the log is over that mark: power
admission and the flash's list of programmings (R67, R499). -/
def Foot.upTo (F : Foot) (d : Dev) : Foot :=
  if F.events && d.logOver then { F with
    arrays := [.mdPaBudget, .mdPaWait] ++ F.arrays, ctrArrays := [.mdPaDenied, .mdPaDeferred] ++ F.ctrArrays,
    parts := [.pa, .paNext, .mg] ++ F.parts }
  else F

/-- `b` differs from `a` only inside the footprint `F`: every other register, counter and part holds what it held. -/
structure Dev.Only (a b : Dev) (F : Foot) : Prop where
  reg : ∀ r i, ¬ (F.upTo b).hasReg r i → b.rd r i = a.rd r i
  ctr : ∀ c i, ¬ (F.upTo b).hasCtr c i → b.ctr c i = a.ctr c i
  part : ∀ p, ¬ (F.upTo b).hasPart p → p.same a b

/-! What the statements for the provers say in several places -/

/-- Whether a write of initiator `init` to a register does nothing but store its fields: no rule has it act beside. -/
def Dev.storesOnly (d : Dev) (init : Nat) (r : Reg) (i : Nat) : Bool :=
  match r with
  | .unitCmd | .epStageEntryOff | .epStageEntryData | .epStageEntryMask | .epStageEntryCtl | .epCmd | .mdModeReq | .feLoadCmd
  | .clsRuleWin | .feSetSel | .clsSetMap | .pdGang | .tbCmd | .bqMirrorCfg | .bqMirrorSample | .hrRxCfg | .hrTxCfg | .hrRxTail
  | .hrTxTail | .ethIntf | .ethStepCfg | .ethMacCfg | .ethLpiCfg | .ethCbs | .ethPreempt | .ethGateCfg | .ethTxTsPop | .tbSgBase
  | .tbSgCfg | .canCtl | .canSched | .moWinKey | .moWinCfg | .moWinForeign | .moWinPub | .moWinAck | .linSchedCtl | .linSchedEntry
  | .tunTxStreamCtl | .tunTxStreamAgg | .tunTxStreamPtOff | .tunTxStreamDaLo | .tunTxStreamDaHi | .tunTxStreamId | .tmLatchCmd
  | .tmConvCmd | .tmDomCmd | .tmTtStart | .tmTtPeriod | .tmTtTarget | .tmTtCtl | .tmCapCfg | .tmCapPop | .cxCtxMode | .cxCtxState
  | .cxCtxCmd | .cxJobCtl | .cxDonePop | .cxKsCmd | .ksQuota | .ksWrapGen | .ldCtl | .ldStatus | .bwSleepCmd | .bwSegPorts
  | .bwSegCmd | .bwWinCfg | .bwWinSeg | .bwWinStatus | .hbDomBind | .hbEthHostCfg | .hbFarErrLatch | .lsPair | .lsFaultStatus
  | .lsSepiaCtl | .lsWdogCfg | .lsWdogKick | .monCtl | .evSwRaise | .evMcStatus | .evMcRoute | .mgHashCtl | .mgLogGo | .mgMboxCmd
  | .mgRecovChunk | .mgRecovDone => false
  | .tbCmdArg => !d.b tbCmd_BUSY i
  | .tbData => !d.b tbCmd_BUSY (i / 16)
  | .cxKsAttr => !d.b cxKsStatus_BUSY i
  | .cxKsData => !d.b cxKsStatus_BUSY (i / 16)
  | .ldCfg | .ldGroups | .ldWire => d.ldReported (i / 32)
  | .pdProfile => decide (8 ≤ i / 8 % 16)
  | .hbPerm => decide (256 ≤ i)
  | .hbPermFine => decide (80 ≤ i)
  | .evPinStatus => writerOk r init
  | _ => true

/-- No commit that waits for the live limit has lost a target. -/
def Dev.watchQuiet (d : Dev) : Bool :=
  d.phase != phWaiting || (match d.ep.txn with | some t => (d.txnLost? t).isNone | none => true)

/-- The commands of UnitCmd that move the unit themselves, with their codes (R35). -/
def unitRows (u : Fin 349) (init : Initiator) (arg : BitVec 16) (tag : BitVec 8) : List (Nat × Instr) :=
  [(0, .nop u init arg tag), (1, .quiesce u init arg tag), (2, .resume u init arg tag), (3, .update u init arg tag),
    (4, .recal u init arg tag), (6, .replace u init arg tag), (7, .retire u init arg tag), (8, .takeOffline u init arg tag),
    (9, .bringOnline u init arg tag)]

/-- Registers of which every bit is RW and that no rule checks, rounds or acts on. -/
def plainRegs : List Reg :=
  [.feSlowQRate, .hrRxIrq, .hrTxIrq, .ethTsCorr, .moWinStage, .tmConvIn, .tmDomArg, .bwSwfData, .hbSubsys,
    .hbEthHostPeerLo, .monBase, .monHigh, .monLow, .mgLogAppend, .mgHashSrc, .mgHashLen, .mgMboxLen, .mgMboxArg]

/-- Registers whose stored value a field table rounds. -/
def roundedRegs : List Reg :=
  [.unitQuiesceTmo, .feBudgetDef, .feWaitTmo, .feOrderTmo, .tbL2Cfg, .tbL2Hold, .bqReserve, .bqPortLimit, .bqQLimit, .bqQDeLimit,
    .bqQMark, .bqQResid, .bqMirrorSample, .hrRxBaseLo, .hrTxBaseLo, .hrRxQ, .ethPauseCfg, .ethStepCfg, .ethStepUp,
    .ethLpiCfg, .ethPlcaCfg, .ethSched, .linSchedEntry, .tunTxStreamCtl, .cxCtxAddrLo, .bwSegCfg, .lsWdogCfg, .monScale]

/-- 1 ns passes for the device controller and for the BW die's copy of the raw counter, powered or not. -/
def Dev.controllerNs (d : Dev) : Dev :=
  { d with sleep := { d.sleep with bwRaw := (d.sleep.bwRaw + 1) % 2 ^ 64, time := d.sleep.time + 1 } }

/-- 1 ns passes for the reference: every 40th brings an edge, at which the raw counter gains 40 ns (R330). -/
def Dev.referenceNs (d : Dev) : Dev :=
  if d.time.sub < 39 then { d with time := { d.time with sub := d.time.sub + 1 } }
  else { d with raw := (d.raw + 40 * 2 ^ 16) % 2 ^ 96, time := { d.time with sub := 0 } }

/-- Whether the permission tables let initiator `n` write register `r`, instance `i` (R434). -/
def Dev.may (d : Dev) (n : Nat) (r : Reg) (i : Nat) : Bool := d.mayWrite n ((regOff r i).getD 0)

/-- The transaction that EpCmd STAGE of `count` entries opens (R53): their items, waiting for every unit they name. -/
def Dev.stageTxn (d : Dev) (init count : Nat) : Txn :=
  let its := (List.range count).flatMap d.entryItems
  { kind := .stage, holder := init, items := its, waiting := nubNat (its.map (·.unit)) }

/-- Whether a hart issues an instruction now and the instruction executes: the thread or core is ready and runs for itself, a
thread has the engine's next issue slot, the budget and the code reach it, its guard is true, and neither a register it names
nor its token is pending (R74, R75, R84, R92, R97). -/
def Dev.canIssue (d : Dev) (h : Hart) (g : Guard) (regs : List Nat) (tk : Option Nat) : Bool :=
  let free (r : RegFile) : Bool := guardTrue r g && !regs.any r.pending && !(tk.any fun k => (r.tokAt k).busy)
  match h with
  | .fe n t =>
    let x := d.thr n.val t.val
    !d.follows n.val && x.st == .ready && x.held.isNone && d.hasSlot n.val t.val && x.icount != x.budget
      && decide (x.rf.pc.toNat < (d.thrSet n.val t.val).codeWords) && free x.rf
  | .mc c =>
    let x := d.mcCore c.val
    d.mcRuns c.val && x.st == .ready && d.fetchExc c == 0 && free x.rf

/-- The device once an instruction has issued: a frame engine counts it (R97, R140). -/
def Dev.issued (d : Dev) (h : Hart) : Dev :=
  match h with
  | .fe n t => d.counted n.val t.val
  | .mc _ => d

/-- The integer operations of two registers (R122) with what they compute. -/
def aluRows (h : Hart) (g : Guard) (rd ra rb : GReg) : List (Instr × (Word64 → Word64 → Word64)) :=
  [(.add h g rd ra rb, fun a b => a + b), (.sub h g rd ra rb, fun a b => a - b), (.and h g rd ra rb, fun a b => a &&& b),
    (.or h g rd ra rb, fun a b => a ||| b), (.xor h g rd ra rb, fun a b => a ^^^ b), (.andn h g rd ra rb, fun a b => a &&& ~~~b),
    (.shl h g rd ra rb, fun a b => a <<< (b.toNat % 64)), (.shr h g rd ra rb, fun a b => a >>> (b.toNat % 64)),
    (.sar h g rd ra rb, fun a b => a.sshiftRight (b.toNat % 64)), (.rol h g rd ra rb, fun a b => a.rotateLeft (b.toNat % 64)),
    (.ror h g rd ra rb, fun a b => a.rotateRight (b.toNat % 64)), (.mul h g rd ra rb, fun a b => BitVec.ofNat 64 (a.toNat * b.toNat)),
    (.mulhu h g rd ra rb, fun a b => BitVec.ofNat 64 (a.toNat * b.toNat / 2 ^ 64)),
    (.min h g rd ra rb, fun a b => if a.toInt ≤ b.toInt then a else b), (.max h g rd ra rb, fun a b => if a.toInt ≤ b.toInt then b else a),
    (.minu h g rd ra rb, fun a b => if a.toNat ≤ b.toNat then a else b), (.maxu h g rd ra rb, fun a b => if a.toNat ≤ b.toNat then b else a),
    (.hmix h g rd ra rb, fun a b => BitVec.ofNat 64 (hmix a.toNat b.toNat)),
    (.clmull h g rd ra rb, fun a b => BitVec.ofNat 64 (clMul a b)), (.clmulh h g rd ra rb, fun a b => BitVec.ofNat 64 (clMul a b / 2 ^ 64))]

/-- The operations of one register and an immediate (R122, R123, R134) with what they compute; ADDI sign-extends, the logical ones
zero-extend. -/
def aluImmRows (h : Hart) (g : Guard) (rd ra : GReg) (imm : BitVec 12) (amt : Fin 64) : List (Instr × (Word64 → Word64)) :=
  [(.popc h g rd ra, fun a => BitVec.ofNat 64 (popBits a)), (.clz h g rd ra, fun a => BitVec.ofNat 64 (clzBits a)),
    (.ctz h g rd ra, fun a => BitVec.ofNat 64 (ctzBits a)), (.bswap h g rd ra, swapBytes),
    (.csumf h g rd ra, fun a => BitVec.ofNat 64 (ocFold a.toNat)),
    (.addi h g rd ra imm, fun a => a + BitVec.ofInt 64 imm.toInt), (.andi h g rd ra imm, fun a => a &&& BitVec.ofNat 64 imm.toNat),
    (.ori h g rd ra imm, fun a => a ||| BitVec.ofNat 64 imm.toNat), (.xori h g rd ra imm, fun a => a ^^^ BitVec.ofNat 64 imm.toNat),
    (.shli h g rd ra amt, fun a => a <<< amt.val), (.shri h g rd ra amt, fun a => a >>> amt.val),
    (.sari h g rd ra amt, fun a => a.sshiftRight amt.val), (.roli h g rd ra amt, fun a => a.rotateLeft amt.val),
    (.rori h g rd ra amt, fun a => a.rotateRight amt.val)]

/-- Condition `cc` of a compare (R127). -/
def ccOf (cc : Nat) (a b : Word64) : Bool :=
  [a == b, a != b, decide (a.toInt < b.toInt), decide (b.toInt ≤ a.toInt), decide (a.toNat < b.toNat), decide (b.toNat ≤ a.toNat),
    a &&& b != 0].getD cc false

/-- The loads (R131) with the register they make from the bytes read. -/
def loadRows (h : Hart) (g : Guard) (rt ra : GReg) (sz : Fin 4) (off : BitVec 8) (ecc : Ecc) : List (Instr × (List Byte → Word64)) :=
  [(.ld h g rt ra sz off ecc, fun bs => BitVec.ofNat 64 (leNat bs)),
    (.lds h g rt ra sz off ecc, fun bs => BitVec.ofInt 64 (sext (8 * 2 ^ sz.val) (leNat bs))),
    (.ldn h g rt ra sz off ecc, fun bs => BitVec.ofNat 64 (beNat bs)),
    (.ldns h g rt ra sz off ecc, fun bs => BitVec.ofInt 64 (sext (8 * 2 ^ sz.val) (beNat bs)))]

/-- The atomic operations (R132) with what they store for the old value, g[RB] and g[RD]; none for no store. -/
def amoRows (h : Hart) (g : Guard) (rd ra rb : GReg) (wide : Bool) (ecc : Ecc) : List (Instr × (Nat → Nat → Nat → Option Nat)) :=
  [(.amoadd h g rd ra rb wide ecc, fun old b _ => some (old + b)), (.amoswap h g rd ra rb wide ecc, fun _ b _ => some b),
    (.amoor h g rd ra rb wide ecc, fun old b _ => some (old ||| b)), (.amoand h g rd ra rb wide ecc, fun old b _ => some (old &&& b)),
    (.amocas h g rd ra rb wide ecc, fun old b c => if old = c then some b else none)]

/-- The operations over a byte range (R133 to R135) with the register they make from its old value and the bytes. -/
def rangeRows (h : Hart) (g : Guard) (rd ra rb : GReg) (ecc : Ecc) : List (Instr × (Nat → List Byte → Nat)) :=
  [(.csum h g rd ra rb ecc, fun x bs => ocRange (x % 65536) bs), (.crc8 h g rd ra rb ecc, crcRange crc8),
    (.crc8h h g rd ra rb ecc, crcRange crc8h), (.crc16 h g rd ra rb ecc, crcRange crc16), (.crc32 h g rd ra rb ecc, crcRange crc32),
    (.crc32c h g rd ra rb ecc, crcRange crc32c), (.crc32p4 h g rd ra rb ecc, crcRange crc32p4)]

/-- The header of the image that FeLoadSrc names (R103, R106). -/
def Dev.loadHead (d : Dev) : ImgHead := imgHead d.eng.sram ((d.rd .feLoadSrc 0).toNat / 64 * 64)

/-- Whether the image that FeLoadSrc names keeps R103 and R104 and is of an instruction set the engines run. -/
def Dev.loadFormat (d : Dev) : Bool :=
  imgOk d.loadHead (imgEntries d.eng.sram ((d.rd .feLoadSrc 0).toNat / 64 * 64)) && decide (d.loadHead.isa ≤ 1)

/-- The KiB of program store an image needs (R106). -/
def ImgHead.kib (h : ImgHead) : Nat := cdiv (4 * h.codeWords + h.constBytes) 1024

/-- The table commands of interface `i` for table `t` and index `idx`, with their operation codes. -/
def tbRows (i : Fin 2) (t : Fin 16) (idx : BitVec 16) : List (Nat × Instr) :=
  [(1, .tbRead i t idx {}), (2, .tbWrite i t idx), (3, .tbInsert i t idx), (4, .tbDelete i t idx), (5, .tbSearch i t idx {}),
    (6, .flushMatch i t idx), (7, .sweepNow i t idx), (8, .rehash i t idx), (9, .rebuild i t idx), (10, .rebuildCommit i t idx),
    (11, .bgAbort i t idx)]

/-- What a table command leaves alone but for what it changes in the tables: it writes its interface's registers. -/
def Foot.tbIface (i : Nat) : Foot := { regs := [(.tbCmd, i), (.tbCmdStatus, i)], arrays := [.tbData] }

/-- Interface `i` shows that its command ended: BUSY clear, TABLE, LOCATION and RESULT. -/
abbrev Dev.tbShows (d : Dev) (i t loc res : Nat) : Prop :=
  d.f tbCmd_BUSY i = 0 ∧ d.f tbCmdStatus_TABLE i = t ∧ d.f tbCmdStatus_LOCATION i = loc ∧ d.f tbCmdStatus_RESULT i = res

/-- What counting on an Ethernet port may change (R264, R265). -/
def Foot.ethCount : Foot := { arrays := [.ethCntEvt], ctrArrays := [.ethCnt], events := true }

/-- An Ethernet counter: port, group and index of R264. -/
def Dev.ethCtr (d : Dev) (p g k : Nat) : Cnt := d.ctr .ethCnt ((3 * p + g) * 32 + k)

/-- Whether bit 47 of a counter would not change by one more, so that R265 flags nothing. -/
def Dev.ethQuiet (d : Dev) (p g k : Nat) : Bool := decide ((d.ethCtr p g k).toNat % 2 ^ 47 ≠ 2 ^ 47 - 1)

/-- The CAN channel's machine is on the bus: error active or error passive (R301). -/
def Dev.canOn (d : Dev) (n : Nat) : Bool := d.canState n == 2 || d.canState n == 3

/-- What a key store command changes that ends without a key: its result and its cleared data buffer. -/
def Foot.ksResult (u : Nat) : Foot := { regs := [(.cxKsStatus, u)], arrays := [.cxKsData] }

/-- What a command changes that puts a key into slot `x` or empties it. -/
def Foot.ksSlot (u x : Nat) : Foot := { regs := [(.cxKsStatus, u), (.ksSlotAttr, x)], arrays := [.cxKsData], parts := [.cx, .free] }

/-- Whether initiator `init` may write LdCtl of channel `n` and the write reaches its state machine (R38, R383, R384, R406,
R409). -/
def Dev.ldOpen (d : Dev) (init n : Nat) : Bool :=
  d.may init .ldCtl n && d.ldReported (n / 32) && d.isLeader n && (!d.inSepia || init == 0)
    && d.actsAs (uPd (n / 32)) != stQuiesced && d.actsAs (uLd n) != stQuiesced

/-- Whether channel `n` conducts: RAMP or ON. -/
def Dev.ldConducts (d : Dev) (n : Nat) : Bool := (d.ld n).st == ldRamp || (d.ld n).st == ldOn

/-- What a die's channels show of a change: LdStatus, LdI2t and the ON that LdCtl reads. -/
def Foot.ld : Foot := { arrays := [.ldStatus, .ldI2t, .ldCtl], parts := [.load] }

/-- The same, and an account of power admission. -/
def Foot.ldPa : Foot := { arrays := [.ldStatus, .ldI2t, .ldCtl, .mdPaBudget, .mdPaWait], parts := [.load, .pa] }

/-- The same, with a turn-on and its request, and the events of the channels. -/
def Foot.ldAll : Foot :=
  { arrays := [.ldStatus, .ldI2t, .ldCtl, .mdPaBudget, .mdPaWait],
    ctrArrays := [.ldOnCnt, .ldDenied, .mdPaDenied, .mdPaDeferred, .ldThermTrip, .ldOcTrip, .ldWireTrip, .ldOpenLoad],
    parts := [.load, .pa, .paNext], events := true }

/-- A channel that enters RAMP without a grant, as a single channel. -/
def rampFrom (c : LdCh) (retries : Nat) : LdCh := { c with
  on := true, st := ldRamp, outOn := true, retries := retries, phases := [], phase := 0, grant := false, windowDone := false,
  olOn := 0, olOff := 0 }

/-- A channel that is switched off. -/
def offFrom (c : LdCh) : LdCh := { c with
  on := false, st := ldOff, outOn := false, grant := false, windowDone := false, olOn := 0, olOff := 0 }

/-- What a wake of a segment changes. -/
def Foot.segWake (x : Nat) : Foot :=
  { regs := [(.bwSegStatus, x), (.bwLinkStatus, 3)], arrays := [.linSchedStatus], ctrs := [(.bwSegWakes, x)],
    parts := [.sleep, .outs, .bus, .safe], events := true }

/-- What a wake of segments and of the device changes. -/
def Foot.wake : Foot :=
  { regs := [(.bwLinkStatus, 3), (.bwSleepStatus, 0), (.bwWakeSrc, 0)], arrays := [.bwSegStatus, .linSchedStatus, .pdStatus],
    ctrArrays := [.bwSegWakes], parts := [.sleep, .outs, .bus, .load, .safe, .mg], events := true }

/-- No WAKE input is at its active level. -/
def Dev.winQuiet (d : Dev) : Bool := (List.range 8).all fun i => d.b bwWinStatus_LEVEL i == false

/-- No access waits for room in a window's queue: of a function, a core, the Darder link or control over Ethernet (R441). -/
def Dev.noneWaits (d : Dev) : Bool :=
  d.host.held.isEmpty && d.host.coreWait.isEmpty && d.host.dkWait.isEmpty && (List.range 16).all fun n => (d.coeDom n).run.all (·.queued)

/-- Where an access that is refused or denied is recorded and counted. -/
def Foot.acc (n : Nat) : Foot :=
  { regs := [(.hbAccErrRec, n), (.hbAccErrBytes, n)], ctrs := [(.hbBadSize, n), (.hbDenyRd, n), (.hbDenyWr, n)], events := true }

/-- The first access of domain `n` that is refused or denied is held in its record; a later one leaves it. -/
def Dev.accRecorded (a d : Dev) (n cause off : Nat) : Prop :=
  if a.b hbAccErrRec_VALID n then d.rd .hbAccErrRec n = a.rd .hbAccErrRec n
  else d.f hbAccErrRec_VALID n = 1 ∧ d.f hbAccErrRec_CAUSE n = cause ∧ d.f hbAccErrRec_OFFSET n = off

/-- A request of domain `n` for four bytes of BAR0 or BAR2 in a form that is accepted, outside recovery. -/
def Dev.asks4 (d : Dev) (n : Nat) (x : HostReq) : Bool :=
  d.fnAnswers n && reqOk x && x.size == 4 && (d.heldAccs n).isEmpty && !d.inRecovery

/-- Domain `n` with the control-over-Ethernet request at its head taken: `seq` is executed and the ones in `rest` wait. -/
def Dev.coeTaken (d : Dev) (n seq : Nat) (rest : List (List Byte)) : Dev :=
  (d.setCoe n { d.coeDom n with reqs := rest, next := some ((seq + 1) % 65536) }).inc .hbCoeReq (d.bind n - 1)

/-- No halt waits for the hand-over of pair `k`. -/
def Dev.noHaltWaits (d : Dev) (k : Nat) : Bool :=
  d.haltWhy (haltWaitKey (halfKey k 0)) == 0 && d.haltWhy (haltWaitKey (halfKey k 1)) == 0

/-- The pair is given to a new initiator: who may write LsPair of pair `k` so that it acts (R457). -/
def Dev.pairOpen (d : Dev) (init k : Nat) : Bool :=
  d.may init .lsPair k && d.f lsPair_BUSY k == 0 && (k != 32 || init == 16)

/-- What a fault class's rise changes that does not enter Sepia. -/
def Foot.fault (c : Nat) : Foot := { regs := [(.lsFaultStatus, c)], events := true }

/-- Whether mailbox command `cmd` runs on page `n`. -/
def Dev.mboxRuns (d : Dev) (n cmd : Nat) : Bool := d.b mgMboxStatus_BUSY n && d.f mgMboxCmd_CMD n == cmd

/-- A mailbox command of page `n` is complete with RESULT `res`. -/
def Dev.mboxDone (d : Dev) (n res : Nat) : Prop := d.f mgMboxStatus_BUSY n = 0 ∧ d.f mgMboxStatus_RESULT n = res

/-- What a mailbox command changes that only ends. -/
def Foot.mbox (n : Nat) : Foot := { regs := [(.mgMboxStatus, n)], events := true }

/-- Leave for antifuses or flash can be had at once or after waiting. -/
def Dev.vcoreHas (d : Dev) (cost : Nat) : Bool := decide (cost ≤ d.paBudget 0) && decide ((d.acct 0).waiting.length < 64)

/-- A start that has counted itself, before the ROM selects an image. -/
def Dev.bootCounted (d : Dev) : Dev :=
  d.bootCount.sf mgBootStatus_REASON 0 d.mg.why

/-- Whether a Darder request is carried out without a token: a good CRC in BLANK or DEVELOP (R504). -/
def Dev.dkOpen (d : Dev) (q : DarderReq) : Bool := darderOk q && decide (d.lifecycle ≤ 1)

/-- The pair of a target is neither in lockstep nor in a hand-over. -/
def Dev.targetSplit (d : Dev) (tgt : Nat) : Bool :=
  let st := d.f lsPair_STATE (if tgt < 64 then tgt / 2 else 32)
  st != pairHandover && st != pairPaired

/-- A request of command `code` that a row of that name carries out: its CRC is good, and LEN at most 1,024 (R506, R507). -/
def dkAsks (q : DarderReq) (code : Nat) : Bool :=
  darderOk q && q.cmd.toNat == code && decide (q.payload.length ≤ 1024)

/-- The token bytes held once those of a request stand in their places (R508). -/
def Dev.unlockHeld (d : Dev) (q : DarderReq) : Dev :=
  let at' := (List.range q.payload.length).map fun i => q.addr.toNat + i
  { d with mg := { d.mg with token := (at'.zip q.payload).foldl (fun m e =>
      if e.1 < tokenLen then Sparse.set (fun _ => 0) m e.1 (256 + e.2.toNat) else m) d.mg.token } }

/-- What the straps leave where they are sampled (R518). -/
def Dev.strapped (d : Dev) (x : Straps) : Prop :=
  d.mg.straps = x ∧ d.f hbEp_SRIS 0 = (if x.sris0 then 1 else 0) ∧ d.f hbEp_SRIS 1 = (if x.sris1 then 1 else 0)
    ∧ d.f hbDomBind_BIND 0 = (if x.ethOwner then 1 else 0) ∧ d.f mdAvsCtl_ADDR 0 = 64 + x.avs

/-- What a logic-side reset keeps: the load channels on their dies, the sleep controller, the flash, the lifecycle and the fused
keys (R384, R516). -/
def Dev.keptByReset (a d : Dev) : Prop :=
  d.sleep = a.sleep ∧ d.eng.flash = a.eng.flash ∧ d.rd .mgLifecycle 0 = a.rd .mgLifecycle 0 ∧ d.rd .mgSerial 0 = a.rd .mgSerial 0
    ∧ d.cx.bankA = a.cx.bankA ∧ d.load.down = a.load.down ∧ d.mg.digest = a.mg.digest

/-- A logic-side reset leaves registers and counters of the logic side at their reset values, here a port's state, an event,
a unit's counter and the status of its commands. -/
def Dev.logicCleared (d : Dev) : Prop :=
  (∀ i, d.rd .bqPortCfg i = regReset .bqPortCfg i) ∧ (∀ i, d.rd .evMcStatus i = regReset .evMcStatus i)
    ∧ (∀ i, d.ctr .hbDenyWr i = 0) ∧ (∀ i, d.rd .unitCmdStatus i = regReset .unitCmdStatus i)

/-- Commands of the HV side and of the power supply, which a logic side in reset does not stop: the dies, the wake detectors, the
always-on controller and PWR_GOOD. -/
def onHv : Instr → Bool
  | .loadRampDone _ | .loadPhaseEnd _ | .loadThermalTrip _ _ | .loadOcTrip _ | .wireModelUpdate _ _ | .loadRetryReload _
  | .loadCooled _ _ | .loadGrantRelease _ | .vbatUndervoltage _ | .vbatRecovered _ | .adcEntryDone _ _ _ _ | .openLoadOffCheck _ _
  | .aggAverageCheck _ _ | .lossOfControl _ | .locEnded _ | .canWakePattern _ | .swfFrameDecoded _ _ _ _ _ _ | .linWake _
  | .t1sWake _ | .wakeInputActive _ | .wakeInputInactive _ | .wakeStuck _ | .vbatPowerOn | .offTimeEnd | .pwrGoodRise _ _
  | .pwrGoodFall | .aocPowerReset | .powerDieReset _ | .powerDieLeavesReset _ | .pgndLoss => true
  | _ => false

/-- PWR_GOOD changes. -/
def isPwrGood : Instr → Bool
  | .pwrGoodRise _ _ | .pwrGoodFall => true
  | _ => false

/-- The state that a command of the logic side with effect `f` leaves. -/
def State.after (s : State) (f : Dev → Dev) : State := { s with dev := (f s.dev).powered }

/-- The state that a command of the HV side with effect `f` leaves. -/
def State.afterHv (s : State) (f : Dev → Dev) : State := { s with dev := f s.dev }

end Sys2Proof.Machine
end

