-- ==== Sys2Proof/Certificates/Slice0/Obligations.lean ====
section
/-! DEFINITION. The statements about this model for the provers, from the numbered rules of the spec. -/

open Sys2Proof Sys2Proof.Machine Sys2Proof.Machine.Dev

/-- For every command c, state s and list of commands: a step of s with c at the front of its queue is exec of c on s with the
rest of the queue. With an empty queue 1 ns passes (the model's choice, log entry 4): the controller's time and the BW die's
copy of the raw counter go on; while PWR_GOOD is high and no PLCA coordinator has a beacon due, the time between two edges of
the reference grows by 1 ns, and at every 40th the raw counter gains 40 ns; while PWR_GOOD is low nothing else changes. -/
def Obligations.StepTakesTheFrontCommand : Prop :=
  (∀ (s : State) (c : Instr) (rest : List Instr), step { s with pending := c :: rest } = exec c { s with pending := rest }) ∧
  (∀ (s : State), s.pending = [] → s.On → (List.range 8).all (fun k => !s.dev.plcaLeads (12 + k)) = true →
       step s = .next { s with dev := s.dev.controllerNs.referenceNs }) ∧
  (∀ (s : State), s.pending = [] → s.dev.mg.held = true → step s = .next { s with dev := s.dev.controllerNs })

/-- For every command and every state, exec answers a next state, never a fault or a refusal, and the commands that wait in
the queue are unchanged. -/
def Obligations.EveryCommandCompletes : Prop :=
    ∀ (c : Instr) (s : State), ∃ t, exec c s = .next t ∧ t.pending = s.pending

/-- State.reset has an empty queue; every register instance reads its reset value (those the spec does not state are the
model's choice, named in log entries 1 to 3); every counter and snapshot reads 0; every byte memory has its canonical form;
the logic side satisfies the held-in-reset invariant. -/
def Obligations.ResetLeavesResetValues : Prop :=
  (State.reset.pending = [] ∧ Memory.wf State.reset.dev = true ∧ State.reset.HeldInReset) ∧
  (∀ (r : Reg) (i : Nat), State.reset.dev.rd r i = regReset r i) ∧
  (∀ (c : Ctr) (i : Nat), State.reset.dev.ctr c i = 0 ∧ State.reset.dev.snap c i = 0)

/-- A permitted write to a register whose bits are all RW stores the value there and changes nothing else. A permitted write
to an offset of no unit only counts in UnitRejWr of the root (R49). A write to a register that has no writable field changes
nothing. A write that the permission tables deny counts in HbDenyWr and may record the access and raise its event, and no
other register changes, unless it names a unit command or HbDomBind. -/
def Obligations.RegisterWriteEffects : Prop :=
  ∀ (s : State) (init : Initiator) (off : BitVec 24) (v : Word),
    s.On →
  (∀ (u i : Nat) (r : Reg), unitAt off.toNat = some u → inWindow off.toNat = false →
     regAt off.toNat = some (r, i) → r ∈ plainRegs → regRsv r i = false → init = 16 ∨ mgClosed off.toNat = false →
     s.dev.mayWrite init off.toNat = true → Runs (.registerWrite init off v) s fun d => d = s.dev.wr r i v) ∧
  (unitAt off.toNat = none → s.dev.mayWrite init off.toNat = true →
       Runs (.registerWrite init off v) s fun d => d = s.dev.inc .unitRejWr uId) ∧
  (∀ (u i : Nat) (r : Reg), unitAt off.toNat = some u → inWindow off.toNat = false →
     regAt off.toNat = some (r, i) → writable r = false → regRsv r i = false → unitKind u ≠ .page →
     init = 16 ∨ mgClosed off.toNat = false → s.dev.mayWrite init off.toNat = true →
       Runs (.registerWrite init off v) s fun d => d = s.dev) ∧
  (s.dev.mayWrite init off.toNat = false → (regAt off.toNat).map (·.1) ≠ some .unitCmd →
     (regAt off.toNat).map (·.1) ≠ some .hbDomBind →
       Runs (.registerWrite init off v) s fun d => d.ctr .hbDenyWr init = s.dev.ctr .hbDenyWr init + 1 ∧
       s.dev.Only d { regs := [(.hbAccErrRec, init), (.hbAccErrBytes, init)], ctrs := [(.hbDenyWr, init)], events := true })

/-- When a permitted REGISTER_WRITE is taken by a register that only stores its fields and rounds none, each bit of a field
afterwards is: the old bit where the instance reserves it; else the written bit for RW; the written bit for RWL while the unit
is QUIESCED or OFFLINE and the old bit otherwise; the old bit cleared where 1 is written for W1C; the old bit for RO and WO.
No such register has a W1S field. The W1S bits: a 1 written to LinSchedCtl.REQ sets it, to STOP sets it while a schedule runs,
a management core's to MgHashCtl.GO sets it while no hash runs, and a 0 leaves each as it was; where the action completes at
once, as for CanCtl.RECOVER and MgMboxCmd.GO, the bit reads 0 afterwards. -/
def Obligations.FieldsStoreByAccessCode : Prop :=
  ∀ (s : State) (init : Initiator) (off : BitVec 24) (v : Word),
    s.On →
    s.dev.mayWrite init off.toNat = true →
  (∀ (r : Reg) (i u b : Nat) (x : FieldRow), unitAt off.toNat = some u → inWindow off.toNat = false →
     regAt off.toNat = some (r, i) → regRsv r i = false → writable r = true →
     init = 16 ∨ mgClosed off.toNat = false → s.dev.storesOnly init r i = true →
     s.dev.regTaken r i u v.toNat (2 ^ 32 - 1) = true → r ∉ roundedRegs → x ∈ r.fields → x.lo ≤ b → b ≤ x.hi →
       Runs (.registerWrite init off v) s fun d => bitAt b (d.rd r i).toNat = (if !bitAt b (regBits r i) then bitAt b (s.dev.rd r i).toNat else match x.acc with
       | .rw => bitAt b v.toNat
       | .rwl => if s.dev.unlocked u then bitAt b v.toNat else bitAt b (s.dev.rd r i).toNat
       | .w1c => bitAt b (s.dev.rd r i).toNat && !bitAt b v.toNat
       | .ro | .wo => bitAt b (s.dev.rd r i).toNat
       | .w1s => bitAt b (s.dev.rd r i).toNat || bitAt b v.toNat)) ∧
  (∀ (n : Fin 24), regOff .linSchedCtl n = some off.toNat → Runs (.registerWrite init off v) s fun d =>
       d.f linSchedCtl_REQ n = (if bitAt 31 v.toNat then 1 else s.dev.f linSchedCtl_REQ n) ∧
       d.f linSchedCtl_STOP n = (if bitAt 30 v.toNat then s.dev.f linSchedStatus_RUNNING n else s.dev.f linSchedCtl_STOP n)) ∧
  (regOff .mgHashCtl 0 = some off.toNat → init = 16 → s.dev.f mgHashCtl_BUSY 0 = 0 →
       Runs (.registerWrite init off v) s fun d => d.f mgHashCtl_GO 0 = (if bitAt 3 v.toNat then 1 else s.dev.f mgHashCtl_GO 0)) ∧
  (∀ (n : Fin 48), regOff .canCtl n = some off.toNat → bitAt 27 v.toNat = true →
       Runs (.registerWrite init off v) s fun d => d.f canCtl_RECOVER n = 0) ∧
  (∀ (n : Fin 17), regOff .mgMboxCmd n = some off.toNat → s.dev.f mgMboxStatus_BUSY n = 0 →
       Runs (.registerWrite init off v) s fun d => d.f mgMboxCmd_GO n = 0)

/-- While BUSY is 1 a permitted unit command only counts in UnitRejWr (R40). A command that the class does not accept ends
with TAG and RESULT UNSUPPORTED and changes nothing else (R33). A command that the permission tables deny ends with RESULT
PERMISSION and the unit keeps its state (R41). NOP ends with RESULT OK and changes nothing else. RESTART does the same, before
crypto jobs whose deliveries are gone are settled and a waiting commit looks at its targets; no waiting commit has lost one
before. For a leaf unit alone, with no command running, whose class accepts the command, while no commit waits for the live
limit (what a waiting one does when it loses a target, CommitsAndSnapshots says): QUIESCE in RUN stops admission and, while
work is in flight and always on a port or channel with a wire or bus (log entry 52), keeps RUN with DRAINING and BUSY set and
the command running; when nothing is in flight another unit enters QUIESCED at once. RESUME of a QUIESCED unit enters RUN;
TAKE_OFFLINE of a QUIESCED or FAULTED unit enters OFFLINE; RETIRE of a unit in RUN or QUIESCED that has no block in flight
enters FAULTED with FAULT_CAUSE SOFTWARE. The command that has ended shows BUSY 0, its TAG and RESULT OK, and PREV_STATE shows
the state left. -/
def Obligations.LeafCommandsAndRefusals : Prop :=
  ∀ (s : State),
    s.On →
  (∀ (u : Fin 349) (init : Initiator) (arg : BitVec 16) (tag : BitVec 8), s.dev.watchQuiet = true →
     s.dev.mayWrite init (unitBase u + 8) = true → s.dev.f unitCmdStatus_BUSY u = 1 →
       ∀ e ∈ unitRows u init arg tag, Runs e.2 s fun d => d = s.dev.inc .unitRejWr u) ∧
  (∀ (u : Fin 349) (init : Initiator) (arg : BitVec 16) (tag : BitVec 8), s.dev.watchQuiet = true →
     s.dev.mayWrite init (unitBase u + 8) = true → s.dev.f unitCmdStatus_BUSY u = 0 →
       ∀ e ∈ unitRows u init arg tag, accepts u e.1 = false → Runs e.2 s fun d => d = s.dev.cmdEnd u tag.toNat 6) ∧
  (∀ (u : Fin 349) (init : Initiator) (arg : BitVec 16) (tag : BitVec 8), s.dev.watchQuiet = true →
     s.dev.mayWrite init (unitBase u + 8) = false → s.dev.f unitCmdStatus_BUSY u = 0 →
       ∀ e ∈ unitRows u init arg tag, Runs e.2 s fun d =>
       d.f unitCmdStatus_RESULT u = 7 ∧ d.f unitCmdStatus_TAG u = tag.toNat ∧ d.f unitState_STATE u = s.dev.f unitState_STATE u) ∧
  (∀ (u : Fin 349) (init : Initiator) (arg : BitVec 16) (tag : BitVec 8), s.dev.watchQuiet = true →
     s.dev.mayWrite init (unitBase u + 8) = true → s.dev.f unitCmdStatus_BUSY u = 0 →
       Runs (.nop u init arg tag) s fun d => d = s.dev.cmdEnd u tag.toNat 0) ∧
  (∀ (u : Fin 349) (init : Initiator) (arg : BitVec 16) (tag : BitVec 8), s.dev.watchQuiet = true →
     s.dev.mayWrite init (unitBase u + 8) = true → s.dev.f unitCmdStatus_BUSY u = 0 → accepts u 5 = false →
       Runs (.restart u init arg tag) s fun d => d = (s.dev.cmdEnd u tag.toNat 6).cxSettle.txnWatch) ∧
  (∀ (u : Fin 349) (init : Initiator) (arg : BitVec 16) (tag : BitVec 8),
     s.dev.mayWrite init (unitBase u + 8) = true → s.dev.f unitCmdStatus_BUSY u = 0 → s.dev.phase ≠ phWaiting →
     unitIsGroup u = false → s.dev.withPair u = [u.val] → s.dev.opOf u = none → accepts u 1 = true →
     s.dev.f unitState_STATE u = 2 → s.dev.drained u = false ∨ drainsOnWire u = true →
       Runs (.quiesce u init arg tag) s fun d =>
       d.f unitState_STATE u = 2 ∧ d.f unitState_DRAINING u = 1 ∧ d.f unitCmdStatus_BUSY u = 1 ∧ d.admits u = false ∧
       d.ops = s.dev.ops ++ [⟨u, 1, arg.toNat, tag.toNat, init, [(u.val, 2)], [u.val]⟩] ∧
       s.dev.Only d { regs := [(.unitState, u), (.unitCmdStatus, u)], parts := [.ops] }) ∧
  (∀ (u : Fin 349) (init : Initiator) (arg : BitVec 16) (tag : BitVec 8),
     s.dev.mayWrite init (unitBase u + 8) = true → s.dev.f unitCmdStatus_BUSY u = 0 → s.dev.phase ≠ phWaiting →
     unitIsGroup u = false → s.dev.withPair u = [u.val] → s.dev.opOf u = none → accepts u 1 = true →
     s.dev.f unitState_STATE u = 2 → s.dev.drained u = true → drainsOnWire u = false →
       Runs (.quiesce u init arg tag) s fun d =>
       d.f unitState_STATE u = 3 ∧ d.f unitState_PREV_STATE u = 2 ∧ d.f unitState_DRAINING u = 0 ∧ d.f unitCmdStatus_BUSY u = 0 ∧ d.f unitCmdStatus_TAG u = tag.toNat ∧ d.f unitCmdStatus_RESULT u = 0 ∧
       s.dev.Only d { regs := [(.unitState, u), (.unitCmdStatus, u)], parts := [.ops], events := true }) ∧
  (∀ (u : Fin 349) (init : Initiator) (arg : BitVec 16) (tag : BitVec 8),
     s.dev.mayWrite init (unitBase u + 8) = true → s.dev.f unitCmdStatus_BUSY u = 0 → s.dev.phase ≠ phWaiting →
     unitIsGroup u = false → s.dev.withPair u = [u.val] → s.dev.opOf u = none → accepts u 2 = true →
     s.dev.f unitState_STATE u = 3 → Runs (.resume u init arg tag) s fun d =>
       d.f unitState_STATE u = 2 ∧ d.f unitState_PREV_STATE u = 3 ∧ d.f unitState_FAULT_CAUSE u = 0 ∧ d.f unitCmdStatus_BUSY u = 0 ∧ d.f unitCmdStatus_TAG u = tag.toNat ∧ d.f unitCmdStatus_RESULT u = 0) ∧
  (∀ (u : Fin 349) (init : Initiator) (arg : BitVec 16) (tag : BitVec 8),
     s.dev.mayWrite init (unitBase u + 8) = true → s.dev.f unitCmdStatus_BUSY u = 0 → s.dev.phase ≠ phWaiting →
     unitIsGroup u = false → s.dev.withPair u = [u.val] → s.dev.opOf u = none → accepts u 8 = true →
     s.dev.f unitState_STATE u = 3 ∨ s.dev.f unitState_STATE u = 5 →
       Runs (.takeOffline u init arg tag) s fun d =>
       d.f unitState_STATE u = 0 ∧ d.f unitState_FAULT_CAUSE u = 0 ∧ d.f unitCmdStatus_BUSY u = 0 ∧ d.f unitCmdStatus_TAG u = tag.toNat ∧ d.f unitCmdStatus_RESULT u = 0) ∧
  (∀ (u : Fin 349) (init : Initiator) (arg : BitVec 16) (tag : BitVec 8),
     s.dev.mayWrite init (unitBase u + 8) = true → s.dev.f unitCmdStatus_BUSY u = 0 → s.dev.phase ≠ phWaiting →
     unitIsGroup u = false → s.dev.withPair u = [u.val] → s.dev.opOf u = none → accepts u 7 = true →
     s.dev.f unitState_STATE u = 2 ∨ s.dev.f unitState_STATE u = 3 →
     ¬ (unitKind u = .ac ∧ s.dev.coreBusy (unitInst u) = true) → Runs (.retire u init arg tag) s fun d =>
       d.f unitState_STATE u = 5 ∧ d.f unitState_FAULT_CAUSE u = 5 ∧ d.f unitCmdStatus_BUSY u = 0 ∧ d.f unitCmdStatus_TAG u = tag.toNat ∧ d.f unitCmdStatus_RESULT u = 0)

/-- For a leaf unit alone, with no command running, whose class accepts the command, while no commit waits for the live limit:
UPDATE, REPLACE, and RECAL of all but an Ethernet port, take a QUIESCED unit to UPDATING and the command runs; RECAL of a port
first asks the VCORE account for the 250 mW of a retrain; RESTART takes a QUIESCED or FAULTED unit to UPDATING. REPLACE of the
buffer unit out of QUIESCED or FAULTED takes it to UPDATING with the row named out of service, and RESTART of a barrier link
to UPDATING with the link down. BRING_ONLINE of an OFFLINE unit opens a transaction that waits for the unit's answer, when
none is open, held by the initiator. -/
def Obligations.LeafCommandsStartWork : Prop :=
  ∀ (s : State) (u : Fin 349) (init : Initiator) (arg : BitVec 16) (tag : BitVec 8),
    s.On →
    s.dev.mayWrite init (unitBase u + 8) = true →
    s.dev.f unitCmdStatus_BUSY u = 0 →
    s.dev.phase ≠ phWaiting →
    unitIsGroup u = false →
    s.dev.withPair u = [u.val] →
    s.dev.opOf u = none →
  (unitClass u ≠ 0x30 → s.dev.f unitState_STATE u = 3 →
       ∀ e ∈ [((3 : Nat), Instr.update u init arg tag), (4, .recal u init arg tag), (6, .replace u init arg tag)],
       accepts u e.1 = true → (e.1 = 4 → unitKind u ≠ .eth) → Runs e.2 s fun d =>
       d.f unitState_STATE u = 4 ∧ d.f unitState_PREV_STATE u = 3 ∧ d.f unitCmdStatus_BUSY u = 1 ∧
       s.dev.Only d { regs := [(.unitState, u), (.unitCmdStatus, u)], parts := [.ops], events := true }) ∧
  (unitKind u = .eth → s.dev.f unitState_STATE u = 3 → 250 ≤ s.dev.paBudget 0 →
     (s.dev.acct 0).waiting.length < 64 → Runs (.recal u init arg tag) s fun d =>
       d.f unitState_STATE u = 3 ∧ d.f unitCmdStatus_BUSY u = 1 ∧
       (d.acct 0).waiting = (s.dev.acct 0).waiting ++ [⟨.retrain (unitInst u), 250, s.dev.paNext⟩]) ∧
  (accepts u 5 = true → unitClass u ≠ 0x3C → s.dev.f unitState_STATE u = 3 ∨ s.dev.f unitState_STATE u = 5 →
       Runs (.restart u init arg tag) s fun d => d.f unitState_STATE u = 4 ∧ d.f unitCmdStatus_BUSY u = 1) ∧
  (unitClass u = 0x30 → s.dev.f unitState_STATE u = 3 ∨ s.dev.f unitState_STATE u = 5 → s.dev.buf.rowOut = none →
     s.dev.spareRow ≠ none → Runs (.replace u init arg tag) s fun d =>
       d.f unitState_STATE u = 4 ∧ d.f unitCmdStatus_BUSY u = 1 ∧ d.buf.rowOut = some (arg.toNat % 1024, true)) ∧
  (unitClass u = 0x3C → s.dev.f unitState_STATE u = 3 ∨ s.dev.f unitState_STATE u = 5 →
       Runs (.restart u init arg tag) s fun d => d.f unitState_STATE u = 4 ∧ d.f unitCmdStatus_BUSY u = 1 ∧ d.f bwLinkStatus_UP (unitInst u) = 0) ∧
  (accepts u 9 = true → s.dev.f unitState_STATE u = 0 → s.dev.ep.txn = none → Runs (.bringOnline u init arg tag) s fun d =>
       d.ep.txn = some { kind := .online u [u.val], holder := init, waiting := [u.val] } ∧ d.f epStatus_PHASE 0 = 1 ∧
       d.f epStatus_HOLDER 0 = init ∧ d.f unitState_STATE u = 0 ∧ d.f unitCmdStatus_BUSY u = 1 ∧
       s.dev.Only d { regs := [(.unitCmdStatus, u), (.epStatus, 0)], parts := [.ops, .ep] })

/-- QUIESCE_DRAINED: a draining unit with nothing in flight enters QUIESCED and its command ends with OK. QUIESCE_TIMEOUT:
admission re-opens, the unit keeps RUN and the command ends with TIMEOUT. UNIT_WORK_COMPLETE of work that checks no image and
maps no spare takes the unit to QUIESCED with OK; REPLACE with no free spare engine takes it to FAULTED with NO_SPARE. While
no commit waits for the live limit: UNIT_INTERNAL_FAULT of a leaf alone that is not OFFLINE, is no AES core and runs no
command enters FAULTED with the cause and the state left in PREV_STATE; in OFFLINE, or written to a group, nothing changes; an
AES core only computes wrong results from then on (R354). BUFFER_ROW_FREED, when a row is being replaced and no other waits
for it, maps the lowest free spare row in its place, gives back those of its 256 cells that had been taken out of the pool
and, when the device replaced it by itself, raises event 16; else nothing changes. -/
def Obligations.UnitWorkAndFaults : Prop :=
  ∀ (s : State),
    s.On →
  (∀ (u : Fin 349) (o : UnitOp), unitIsGroup u = false → s.dev.withPair u = [u.val] → s.dev.opOf u = some o →
     o.unit = u → o.wait = [u.val] → o.cmd = 1 → s.dev.f unitState_STATE u = 2 → s.dev.f unitState_DRAINING u = 1 →
     s.dev.drained u = true → Runs (.quiesceDrained u) s fun d =>
       d.f unitState_STATE u = 3 ∧ d.f unitState_PREV_STATE u = 2 ∧ d.f unitState_DRAINING u = 0 ∧ d.f unitCmdStatus_BUSY u = 0 ∧
       d.f unitCmdStatus_RESULT u = 0 ∧ d.f unitCmdStatus_TAG u = o.tag % 256) ∧
  (∀ (u : Fin 349) (o : UnitOp), unitIsGroup u = false → s.dev.withPair u = [u.val] → s.dev.opOf u = some o →
     o.unit = u → o.wait = [u.val] → o.cmd = 1 → s.dev.f unitState_STATE u = 2 → s.dev.f unitState_DRAINING u = 1 →
       Runs (.quiesceTimeout u) s fun d =>
       d.f unitState_STATE u = 2 ∧ d.f unitState_DRAINING u = 0 ∧ d.f unitCmdStatus_BUSY u = 0 ∧ d.f unitCmdStatus_RESULT u = 2 ∧
       s.dev.Only d { regs := [(.unitState, u), (.unitCmdStatus, u)], parts := [.ops] }) ∧
  (∀ (u : Fin 349) (o : UnitOp) (readErr : Bool), unitIsGroup u = false → s.dev.withPair u = [u.val] →
     s.dev.opOf u = some o → o.unit = u → o.wait = [u.val] → checksImage u o.cmd = false → o.cmd ≠ 6 →
     s.dev.opAt u = some o → s.dev.parts u o.cmd = [u.val] → s.dev.f unitState_STATE u = 4 →
       Runs (.unitWorkComplete u readErr) s fun d =>
       d.f unitState_STATE u = 3 ∧ d.f unitState_PREV_STATE u = 4 ∧ d.f unitCmdStatus_BUSY u = 0 ∧ d.f unitCmdStatus_RESULT u = 0) ∧
  (∀ (u : Fin 349) (o : UnitOp) (readErr : Bool), unitIsGroup u = false → s.dev.withPair u = [u.val] →
     s.dev.opOf u = some o → o.unit = u → o.wait = [u.val] → unitKind u = .eng → o.cmd = 6 →
     s.dev.opAt u = some o → s.dev.parts u 6 = [u.val] → s.dev.f unitState_STATE u = 4 →
     s.dev.lowestBit .idFeFree 3 = none → Runs (.unitWorkComplete u readErr) s fun d =>
       d.f unitState_STATE u = 5 ∧ d.f unitState_FAULT_CAUSE u = 7 ∧ d.f unitCmdStatus_BUSY u = 0 ∧ d.f unitCmdStatus_RESULT u = 3) ∧
  (∀ (u : Fin 349) (cause : Fin 16), s.dev.phase ≠ phWaiting → unitKind u ≠ .ac → unitIsGroup u = false →
     s.dev.withPair u = [u.val] → s.dev.f unitState_STATE u ≠ 0 → s.dev.opOf u = none →
       Runs (.unitInternalFault u cause) s fun d =>
       d.f unitState_STATE u = 5 ∧ d.f unitState_FAULT_CAUSE u = cause ∧ d.f unitState_PREV_STATE u = s.dev.f unitState_STATE u) ∧
  (∀ (u : Fin 349) (cause : Fin 16), s.dev.phase ≠ phWaiting → unitKind u ≠ .ac →
     unitIsGroup u = true ∨ s.dev.f unitState_STATE u = 0 →
       Runs (.unitInternalFault u cause) s fun d => d = s.dev) ∧
  (∀ (u : Fin 349) (cause : Fin 16), s.dev.phase ≠ phWaiting → unitKind u = .ac →
       Runs (.unitInternalFault u cause) s fun d => (d.cx.faulty.contains (s.dev.f idAcMap_PHYS (unitInst u))) = true ∧ s.dev.Only d { parts := [.cx] }) ∧
  (∀ (row n : Nat), s.dev.phase ≠ phWaiting → s.dev.buf.rowOut = some (row, false) → s.dev.buf.rowWait = [] →
     row < 1024 → s.dev.spareRow = some n → Runs .bufferRowFreed s fun d =>
       d.f idRowMap_USED n = 1 ∧ d.f idRowMap_ROW n = row ∧ d.buf = { s.dev.buf with rowOut := none, rowDebt := 0 } ∧
       d.f bqFree_FREE 0 = (s.dev.freeCells + (256 - s.dev.buf.rowDebt)) % 2 ^ 19 ∧
       (s.dev.mg.flashOps.contains .retired = false → s.dev.vcoreHas 150 = true → d.mg.flashOps = s.dev.mg.flashOps ++ [.retired]) ∧
       s.dev.Only d { regs := [(.idRowMap, n), (.bqFree, 0)], arrays := [.mdPaBudget, .mdPaWait], ctrArrays := [.mdPaDenied, .mdPaDeferred], parts := [.buf, .pa, .paNext, .mg], events := true }) ∧
  (s.dev.phase ≠ phWaiting → s.dev.buf.rowOut = none → Runs .bufferRowFreed s fun d => d = s.dev)

/-- While no transaction is open a permitted STAGE_ENTRY_WRITE stores OFFSET, DATA, MASK or CLASS and EXPAND and records the
writer; while one is open it only counts in UnitRejWr of the epoch unit. STAGE with no transaction open, 1 to 1,024 entries,
all written by the initiator, clears the RESULT of each, opens a transaction held by the initiator with an item for each
entry, and shows PHASE STAGING, BUSY and HOLDER; with an entry of another writer it ends ABORTED with CAUSE BUSY; with another
count, or while a transaction is open, it only counts as rejected. A target that accepts while others have still to answer
enters STAGED (and with it the rest of its gang or lockstep pair, which is named as staged along), keeps its old state in
PREV_STATE, shows the epoch to come in STAGED_EPOCH and leaves the list of targets waited for. The last target's refusal
aborts the transaction with its cause and FAIL_UNIT. STAGE_TIMEOUT in STAGING aborts with CAUSE TIMEOUT, LIVE_LIMIT_TIMEOUT in
WAITING with LIVE_LIMIT, ABORT by the holder or a management core before the token is issued with SOFTWARE (and, with no
DRAINING slot to free, changes nothing but unit states and the status); an aborted transaction shows PHASE ABORTED and BUSY 0.
ABORT by another initiator only counts as rejected. -/
def Obligations.StagingAndTargets : Prop :=
  ∀ (s : State),
    s.On →
  (∀ (init : Initiator) (n : Fin 1024) (w : Fin 4) (v : Word), s.dev.may init (stageReg w) n = true →
     s.dev.ep.txn ≠ none → Runs (.stageEntryWrite init n w v) s fun d => d = s.dev.inc .unitRejWr uEp) ∧
  (∀ (init : Initiator) (n : Fin 1024) (w : Fin 4) (v : Word), s.dev.may init (stageReg w) n = true →
     s.dev.ep.txn = none → Runs (.stageEntryWrite init n w v) s fun d =>
       d.f epStageEntryCtl_WRITER n = init ∧
       (match w with
       | 0 => d.f epStageEntryOff_OFFSET n = v.toNat % 2 ^ 24
       | 1 => d.rd .epStageEntryData n = v
       | 2 => d.rd .epStageEntryMask n = v
       | 3 => d.f epStageEntryCtl_CLASS n = bits 31 24 v.toNat ∧ d.f epStageEntryCtl_EXPAND n = bits 8 8 v.toNat) ∧
       s.dev.Only d { regs := [(.epStageEntryCtl, n), (stageReg w, n)] }) ∧
  (∀ (init : Initiator) (count : BitVec 11), s.dev.may init .epCmd 0 = true → s.dev.ep.txn = none → count ≠ 0 →
     count.toNat ≤ 1024 →
     (List.range count.toNat).all (fun n => s.dev.f epStageEntryCtl_WRITER n == init.val) = true →
       Runs (.stage init count) s fun d =>
       d.ep = { s.dev.ep with txn := some (s.dev.stageTxn init count.toNat) } ∧
       d.f epStatus_PHASE 0 = 1 ∧ d.f epStatus_BUSY 0 = 1 ∧ d.f epStatus_HOLDER 0 = init ∧
       (∀ n ∈ List.range count.toNat, d.f epStageEntryCtl_RESULT n = 0) ∧
       s.dev.Only d { regs := [(.epStatus, 0)], arrays := [.epStageEntryCtl], parts := [.ep] }) ∧
  (∀ (init : Initiator) (count : BitVec 11), s.dev.may init .epCmd 0 = true → s.dev.ep.txn = none → count ≠ 0 →
     count.toNat ≤ 1024 →
     (List.range count.toNat).any (fun n => s.dev.f epStageEntryCtl_WRITER n != init.val) = true →
       Runs (.stage init count) s fun d =>
       d.f epStatus_PHASE 0 = 5 ∧ d.f epStatus_CAUSE 0 = 5 ∧ d.f epStatus_BUSY 0 = 0 ∧ d.f epStatus_HOLDER 0 = init ∧
       s.dev.Only d { regs := [(.epStatus, 0)], arrays := [.epStageEntryCtl] }) ∧
  (∀ (init : Initiator) (count : BitVec 11), s.dev.may init .epCmd 0 = true →
     s.dev.ep.txn ≠ none ∨ count = 0 ∨ 1024 < count.toNat →
       Runs (.stage init count) s fun d => d = s.dev.inc .unitRejWr uEp) ∧
  (∀ (t : Txn) (u : Fin 349), s.dev.ep.txn = some t → s.dev.stagedWith u = [] → s.dev.f epStatus_PHASE 0 = 1 →
     u.val ∈ t.waiting → t.waiting.filter (· != u.val) ≠ [] → s.dev.targetRefusal t u = 0 → unitIsGroup u = false →
       Runs (.targetStageAnswer u) s fun d =>
       d.f unitState_STATE u = 1 ∧ d.f unitState_PREV_STATE u = s.dev.f unitState_STATE u ∧
       d.f unitEpoch_STAGED_EPOCH u = (s.dev.epoch + 1) % 65536 ∧
       d.ep = { s.dev.ep with txn := some { t with waiting := t.waiting.filter (· != u.val), staged := t.staged ++ [u.val] } } ∧
       s.dev.Only d { regs := [(.unitState, u), (.unitEpoch, u)], arrays := [.epStageEntryCtl], parts := [.ep], events := true }) ∧
  (∀ (t : Txn) (u : Fin 349), s.dev.ep.txn = some t → s.dev.f epStatus_PHASE 0 = 1 → u.val ∈ t.waiting →
     t.waiting.filter (· != u.val) ≠ [] → s.dev.targetRefusal t u = 0 → unitIsGroup u = false →
       Runs (.targetStageAnswer u) s fun d =>
       d.f unitState_STATE u = 1 ∧ (∀ v ∈ s.dev.stagedWith u, d.f unitState_STATE v = 1) ∧
       d.ep = { s.dev.ep with txn := some { t with waiting := t.waiting.filter (· != u.val), staged := t.staged ++ [u.val], along := t.along ++ s.dev.stagedWith u } } ∧
       s.dev.Only d { arrays := [.epStageEntryCtl, .unitState, .unitEpoch], parts := [.ep], events := true }) ∧
  (∀ (t : Txn) (u : Fin 349), s.dev.ep.txn = some t → t.kind = .stage → s.dev.ep.waiting = [] →
     s.dev.f epStatus_PHASE 0 = 1 → t.waiting = [u.val] → t.staged = [] → t.refused = none →
     s.dev.targetRefusal t u ≠ 0 → Runs (.targetStageAnswer u) s fun d =>
       d.f epStatus_PHASE 0 = 5 ∧ d.f epStatus_BUSY 0 = 0 ∧ d.f epStatus_CAUSE 0 = s.dev.targetRefusal t u % 16 ∧
       d.f epStatus_FAIL_UNIT 0 = s.dev.dirIndex u ∧ d.ep = { s.dev.ep with txn := none, settling := false }) ∧
  (∀ (t : Txn), s.dev.ep.txn = some t → t.kind = .stage → s.dev.ep.waiting = [] → s.dev.f epStatus_PHASE 0 = 1 →
       Runs .stageTimeout s fun d =>
       d.f epStatus_PHASE 0 = 5 ∧ d.f epStatus_BUSY 0 = 0 ∧ d.f epStatus_CAUSE 0 = 2 ∧ d.ep.txn = none) ∧
  (∀ (t : Txn), s.dev.ep.txn = some t → t.kind = .stage → s.dev.ep.waiting = [] → s.dev.f epStatus_PHASE 0 = 3 →
       Runs .liveLimitTimeout s fun d =>
       d.f epStatus_PHASE 0 = 5 ∧ d.f epStatus_BUSY 0 = 0 ∧ d.f epStatus_CAUSE 0 = 4 ∧ d.ep.txn = none) ∧
  (∀ (t : Txn) (init : Initiator), s.dev.ep.txn = some t → s.dev.may init .epCmd 0 = true → t.kind = .stage →
     s.dev.ep.waiting = [] → t.issued = false → init.val = t.holder ∨ init = 16 →
     (∀ c ∈ List.range 8, ∀ x ∈ List.range 4, s.dev.slotState c x ≠ slDraining) → Runs (.abort init) s fun d =>
       d.f epStatus_PHASE 0 = 5 ∧ d.f epStatus_BUSY 0 = 0 ∧ d.f epStatus_CAUSE 0 = 8 ∧ d.ep = { s.dev.ep with txn := none, settling := false } ∧
       s.dev.Only d { regs := [(.epStatus, 0)], arrays := [.unitState], parts := [.ep], events := true }) ∧
  (∀ (t : Txn) (init : Initiator), s.dev.ep.txn = some t → s.dev.may init .epCmd 0 = true → init.val ≠ t.holder →
     init ≠ 16 → Runs (.abort init) s fun d => d = s.dev.inc .unitRejWr uEp)

/-- COMMIT by the holder while targets still answer is kept for the end of staging. COMMIT in READY with no target lost and
only the current epoch live increments the epoch, which becomes live beside the old one, and sends the token to every target.
COMMIT with no transaction open, or by another initiator, only counts as rejected. A commit that waits for the live limit
aborts at once with TARGET_LOST when its target takes a fault. COMMIT_TOKEN_ARRIVAL at a leaf that is not the last removes it
from the token's way, shows the epoch in APPLIED_EPOCH, and takes a STAGED unit that came from RUN back to RUN; a port or
channel with a frame on its wire keeps the token until that frame ends. EPOCH_RETIRED, with no transaction open and no mode
change going on, keeps live exactly the current epoch and those a frame or job still uses, and shows their number. SNAP while
no snapshot runs and no other initiator holds a transaction increments SNAP_ID; units out of service copy at once, the others
are still to be reached, and DONE is shown when none is left. While a snapshot runs it only counts as rejected.
SNAP_TOKEN_PASS at a unit still to be reached copies every live counter of the unit into its shadow and shows SNAP_ID and
SNAP_VALID, the units of the frame path together (log entry 52); at another unit it changes nothing. IMPLICIT_TXN_DISCARD
removes a waiting window transaction and counts it in the header of its window. -/
def Obligations.CommitsAndSnapshots : Prop :=
  ∀ (s : State),
    s.On →
  (∀ (init : Initiator) (t : Txn), s.dev.may init .epCmd 0 = true → s.dev.ep.txn = some t → init.val = t.holder →
     t.issued = false → s.dev.ep.settling = false → s.dev.f epStatus_PHASE 0 = 1 →
       Runs (.commit init) s fun d => d = { s.dev with ep := { s.dev.ep with txn := some { t with keepCommit := true } } }) ∧
  (∀ (init : Initiator) (t : Txn), s.dev.may init .epCmd 0 = true → s.dev.ep.txn = some t → t.kind = .stage →
     t.items ≠ [] → init.val = t.holder → t.issued = false → s.dev.ep.settling = false →
     s.dev.f epStatus_PHASE 0 = 2 → s.dev.txnLost? t = none → s.dev.ep.live = [s.dev.epoch] →
       Runs (.commit init) s fun d =>
       d.f epCur_CURRENT 0 = (s.dev.epoch + 1) % 65536 ∧ d.ep.live = [s.dev.epoch, (s.dev.epoch + 1) % 65536] ∧
       d.ep.txn = some { t with issued := true, token := txnTargets t } ∧ d.f epCur_LIVE_COUNT 0 = 2 ∧ d.f epOldest_OLDEST_LIVE 0 = s.dev.epoch) ∧
  (∀ (init : Initiator), s.dev.may init .epCmd 0 = true → s.dev.ep.txn = none →
       Runs (.commit init) s fun d => d = s.dev.inc .unitRejWr uEp) ∧
  (∀ (init : Initiator) (t : Txn), s.dev.may init .epCmd 0 = true → s.dev.ep.txn = some t → init.val ≠ t.holder →
       Runs (.commit init) s fun d => d = s.dev.inc .unitRejWr uEp) ∧
  (∀ (u : Fin 349) (cause : Fin 16) (t : Txn), s.dev.ep.txn = some t → t.kind = .stage → t.staged = [u.val] →
     t.dead = false → s.dev.ep.waiting = [] → s.dev.f epStatus_PHASE 0 = 3 → unitKind u ≠ .ac →
     unitIsGroup u = false → s.dev.withPair u = [u.val] → s.dev.f unitState_STATE u = 1 → s.dev.opOf u = none →
       Runs (.unitInternalFault u cause) s fun d =>
       d.f epStatus_PHASE 0 = 5 ∧ d.f epStatus_BUSY 0 = 0 ∧ d.f epStatus_CAUSE 0 = 3 ∧ d.f epStatus_FAIL_UNIT 0 = s.dev.dirIndex u ∧ d.ep.txn = none ∧ d.f unitState_STATE u = 5) ∧
  (∀ (u : Fin 349) (t : Txn), s.dev.ep.txn = some t → t.kind = .stage → t.issued = true → u.val ∈ t.token →
     t.token.filter (· != u.val) ≠ [] → t.items.filter (fun i => i.unit == u.val) = [] → unitIsGroup u = false →
     s.dev.f unitState_STATE u = 1 → s.dev.f unitState_PREV_STATE u = 2 → s.dev.onWire u = false →
     unitKind u ≠ .ld → Runs (.commitTokenArrival u) s fun d =>
       d.ep = { s.dev.ep with txn := some { t with token := t.token.filter (· != u.val), arrived := t.arrived.filter (· != u.val) } } ∧ d.f unitEpoch_APPLIED_EPOCH u = s.dev.epoch ∧
       d.f unitState_STATE u = 2 ∧ s.dev.Only d { regs := [(.unitState, u), (.unitEpoch, u)], parts := [.ep], events := true }) ∧
  (∀ (u : Fin 349) (t : Txn), s.dev.ep.txn = some t → t.issued = true → u.val ∈ t.token → s.dev.onWire u = true →
       Runs (.commitTokenArrival u) s fun d => d = { s.dev with ep := { s.dev.ep with txn := some { t with arrived := u.val :: t.arrived.filter (· != u.val) } } }) ∧
  (s.dev.ep.txn = none → s.dev.f mdModeStatus_CHANGING 0 = 0 → Runs .epochRetired s fun d =>
       d.ep.live = s.dev.ep.live.filter (fun e => e == s.dev.epoch || s.dev.epochUsed e) ∧ d.f epCur_LIVE_COUNT 0 = d.ep.live.length % 8 ∧
       d.f epCur_CURRENT 0 = s.dev.f epCur_CURRENT 0) ∧
  (∀ (init : Initiator), s.dev.may init .epCmd 0 = true → s.dev.ep.txn = none → s.dev.f epSnapStatus_BUSY 0 = 0 →
       Runs (.snap init) s fun d =>
       d.f epSnapStatus_SNAP_ID 0 = (s.dev.f epSnapStatus_SNAP_ID 0 + 1) % 65536 ∧
       d.ep = { s.dev.ep with snapLeft := (List.range 349).filter fun u => !s.dev.snapAtOnce u } ∧
       d.f epSnapStatus_BUSY 0 = (if d.ep.snapLeft = [] then 0 else 1) ∧ d.f epSnapStatus_DONE 0 = (if d.ep.snapLeft = [] then 1 else 0) ∧
       ∀ c i, d.ctr c i = s.dev.ctr c i ∨ c = .mgLogLost) ∧
  (∀ (init : Initiator), s.dev.may init .epCmd 0 = true → s.dev.f epSnapStatus_BUSY 0 = 1 →
       Runs (.snap init) s fun d => d = s.dev.inc .unitRejWr uEp) ∧
  (∀ (u : Fin 349), u.val ∈ s.dev.ep.snapLeft → Sparse.wf (fun _ => (0 : Cnt)) s.dev.ctrs = true →
     Sparse.wf (fun _ => (0 : Cnt)) s.dev.snaps = true → Runs (.snapTokenPass u) s fun d =>
       d.f unitSnap_SNAP_VALID u = 1 ∧ d.f unitSnap_SNAP_ID u = s.dev.f epSnapStatus_SNAP_ID 0 ∧
       d.ep.snapLeft = s.dev.ep.snapLeft.filter (fun x => !(x == u.val || (onFramePath u && onFramePath x))) ∧
       ∀ c i, ctrUnit (ctrKey c i) = some u.val → d.snap c i = s.dev.ctr c i) ∧
  (∀ (u : Fin 349), u.val ∉ s.dev.ep.snapLeft → Runs (.snapTokenPass u) s fun d => d = s.dev) ∧
  (∀ (w : Nat) (t : Txn), s.dev.ep.waiting = [t] → t.kind = .window w → Runs .implicitTxnDiscard s fun d =>
       d = { s.dev with ep := { s.dev.ep with waiting := [] } }.inc .unitRejWr w)

/-- MODE_REQUEST of the mode in force only stores MODE and shows LAST_RESULT 0; of another mode it shows CHANGING and TARGET
and opens a transaction on the mode unit; while a change is in progress it only counts as rejected, and else of mode 3 it
changes nothing. REGULATOR_SETTLED shows the measured voltage, and when a change waits for it the epoch is incremented.
REGULATOR_FAULT and REGULATOR_SETTLE_TIMEOUT, when a change waits, abort it with CAUSE REGULATOR, show LAST_RESULT 3, end
CHANGING and command the previous target. While none waits, REGULATOR_SETTLED and REGULATOR_FAULT only note that the regulator
answers and REGULATOR_SETTLE_TIMEOUT that it does not (the model's choice, log entry 17); while it does not, a change to a
slower mode fails with CAUSE REGULATOR and LAST_RESULT 3 before it commits (R514). MODE_DRAIN_TIMEOUT while a slowing change
still drains shows LAST_RESULT 2 and holds the old target. -/
def Obligations.ModeChanges : Prop :=
  ∀ (s : State),
    s.On →
  (∀ (init : Initiator) (m : Fin 4), s.dev.may init .mdModeReq 0 = true → m.val = s.dev.mode → m.val ≤ 2 →
     s.dev.f mdModeStatus_CHANGING 0 = 0 →
       Runs (.modeRequest init m) s fun d => d = (s.dev.sf mdModeReq_MODE 0 m).sf mdModeStatus_LAST_RESULT 0 0) ∧
  (∀ (init : Initiator) (m : Fin 4), s.dev.may init .mdModeReq 0 = true → m.val ≠ s.dev.mode → m.val ≤ 2 →
     s.dev.f mdModeStatus_CHANGING 0 = 0 → s.dev.ep.txn = none → Runs (.modeRequest init m) s fun d =>
       d.f mdModeReq_MODE 0 = m ∧ d.f mdModeStatus_CHANGING 0 = 1 ∧ d.f mdModeStatus_TARGET 0 = m ∧ d.mode = s.dev.mode ∧
       d.ep = { s.dev.ep with txn := some { kind := .mode m, holder := init, waiting := [uMd] } } ∧ d.f epStatus_PHASE 0 = 1 ∧
       s.dev.Only d { regs := [(.mdModeReq, 0), (.mdModeStatus, 0), (.epStatus, 0)], parts := [.ep] }) ∧
  (∀ (init : Initiator) (m : Fin 4), s.dev.may init .mdModeReq 0 = true →
     m.val = 3 ∨ s.dev.f mdModeStatus_CHANGING 0 = 1 →
       Runs (.modeRequest init m) s fun d => d = (if s.dev.f mdModeStatus_CHANGING 0 = 1 then s.dev.inc .unitRejWr uMd else s.dev)) ∧
  (∀ (mv : BitVec 16), s.dev.ep.settling = false →
       Runs (.regulatorSettled mv) s fun d => d = (s.dev.sf mdVcoreNow_MEAS_MV 0 mv.toNat).setMute false) ∧
  (∀ (mv : BitVec 16) (t : Txn) (m : Nat), s.dev.ep.settling = true → s.dev.ep.txn = some t → t.kind = .mode m →
     t.dead = false → s.dev.inSepia = false → t.staged = [uMd] → s.dev.f unitState_STATE uMd = 1 →
     s.dev.ep.live = [s.dev.epoch] → Runs (.regulatorSettled mv) s fun d =>
       d.f epCur_CURRENT 0 = (s.dev.epoch + 1) % 65536 ∧ d.ep.settling = false ∧
       d.ep.txn = some { t with issued := true, token := List.range 349 }) ∧
  (∀ (t : Txn) (m : Nat), s.dev.ep.settling = true → s.dev.ep.txn = some t → t.kind = .mode m →
     s.dev.ep.prevMv ≠ 0 → s.dev.ep.waiting = [] →
       ∀ c ∈ [Instr.regulatorFault, .regulatorSettleTimeout], Runs c s fun d =>
       d.f epStatus_PHASE 0 = 5 ∧ d.f epStatus_CAUSE 0 = 9 ∧ d.f mdModeStatus_LAST_RESULT 0 = 3 ∧ d.f mdModeStatus_CHANGING 0 = 0 ∧
       d.f mdVcoreNow_CMD_MV 0 = s.dev.ep.prevMv % 65536 ∧ d.ep.txn = none ∧ d.ep.settling = false) ∧
  (s.dev.ep.settling = false → Runs .regulatorFault s fun d => d = s.dev.setMute false) ∧
  (s.dev.ep.settling = false → Runs .regulatorSettleTimeout s fun d => d = s.dev.setMute true) ∧
  (∀ (u : Fin 349) (t : Txn) (m : Nat), u.val = uMd → s.dev.ep.txn = some t → t.kind = .mode m → m < s.dev.mode →
     t.waiting = [uMd] → t.staged = [] → t.along = [] → t.refused = none → s.dev.f epStatus_PHASE 0 = 1 →
     s.dev.targetRefusal t uMd = 0 → s.dev.ep.mute = true → s.dev.ep.prevMv = 0 → s.dev.ep.waiting = [] →
       Runs (.targetStageAnswer u) s fun d =>
       d.f epStatus_PHASE 0 = 5 ∧ d.f epStatus_CAUSE 0 = 9 ∧ d.f mdModeStatus_LAST_RESULT 0 = 3 ∧ d.f mdModeStatus_CHANGING 0 = 0 ∧
       d.f mdVcoreNow_CMD_MV 0 = s.dev.f mdVcoreNow_CMD_MV 0 ∧ d.mode = s.dev.mode ∧ d.ep.txn = none) ∧
  (s.dev.f mdModeStatus_CHANGING 0 = 1 → s.dev.ep.slowing ≠ [] → s.dev.modeInTxn = false →
       Runs .modeDrainTimeout s fun d =>
       d.f mdModeStatus_LAST_RESULT 0 = 2 ∧ d.f mdModeStatus_CHANGING 0 = 1 ∧ d.ep = { s.dev.ep with late := true } ∧
       s.dev.Only d { regs := [(.mdModeStatus, 0)], parts := [.ep], events := true })

/-- PACE_WINDOW stores the 16 readings in PACE and lowers MIN_SEEN to each smaller one. AVS_ADAPT_STEP, while no mode change
has the regulator, raises the commanded voltage by 5 mV up to the band when a pace stands below 102 % of its floor, lowers it
by 5 mV down to the band when adaptation is on and every pace stands at 105 % or more, and else leaves it. PACE_LOW_TIMEOUT
with a monitor below its floor and the voltage at the upper limit sets GUAR_LOST and fault class PACE; with none below it
changes nothing. PA_GRANT grants the request at the head when it fits beside the grants: it moves from the waiting list to the
grants and IN_USE_MW shows the sum. When nothing waits or the head does not fit, nothing changes: later requests wait behind
it. PA_WAIT_TIMEOUT takes the oldest request a deadline can deny from the list and counts it in MdPaDenied. PA_LEASE_EXPIRY of
a held LEAVE takes its grant back and counts it in MdPaReclaimed; of a handle nobody holds it changes nothing. PA_GRANT of a
request that fits, by asker: a program's LEAVE completes its token with OK and its handle; a gang in ADMIT enters RAMP with
its grant; a REHASH or REBUILD begins to build and its command completes with OK; a re-mask sweep begins, or without random
bits gives its grant back and stays due; an antifuse operation is taken up, here the raise of an SVN, which completes with
RESULT OK; flash programming is done, here a COMMIT, which shows PENDING and completes with OK; a port enters UPDATING for its
retrain; a rate step sends its REQ; a crypto job goes to staging. PA_WAIT_TIMEOUT ends each with NO_POWER in its own terms:
token DENIED with value 0; the gang OFF with LdDenied counted; RESULT NO_POWER of the table command, the mailbox command and
the port's RECAL; LAST 4 of the rate step; a completion record NO_POWER of the job. A re-mask sweep is never denied. -/
def Obligations.VoltageAndPower : Prop :=
  ∀ (s : State),
    s.On →
  (∀ (paces : List (BitVec 16)), paces.length = 16 → Runs (.paceWindow paces) s fun d =>
       (∀ i ∈ List.range 16, d.f mdPace_PACE i = (paces.getD i 0).toNat ∧ d.f mdPace_MIN_SEEN i = min (paces.getD i 0).toNat (s.dev.f mdPace_MIN_SEEN i)) ∧
       s.dev.Only d { arrays := [.mdPace] }) ∧
  (s.dev.modeHoldsVcore = false → s.dev.paces.any (fun p => decide (p * 100 < 102 * s.dev.paceFloor)) = true →
     s.dev.f mdVcoreNow_CMD_MV 0 < s.dev.f mdVcoreBand_HIGH_MV s.dev.mode →
       Runs .avsAdaptStep s fun d => d.f mdVcoreNow_CMD_MV 0 = min (s.dev.f mdVcoreBand_HIGH_MV s.dev.mode) (s.dev.f mdVcoreNow_CMD_MV 0 + 5) ∧
       s.dev.Only d { regs := [(.mdVcoreNow, 0)], parts := [.outs] }) ∧
  (s.dev.modeHoldsVcore = false → s.dev.f mdAvsCtl_ADAPT 0 = 1 → s.dev.paceFloor ≠ 0 →
     s.dev.paces.all (fun p => decide (105 * s.dev.paceFloor ≤ p * 100)) = true →
     s.dev.f mdVcoreBand_LOW_MV s.dev.mode < s.dev.f mdVcoreNow_CMD_MV 0 →
       Runs .avsAdaptStep s fun d => d.f mdVcoreNow_CMD_MV 0 = max (s.dev.f mdVcoreBand_LOW_MV s.dev.mode) (s.dev.f mdVcoreNow_CMD_MV 0 - 5) ∧
       s.dev.Only d { regs := [(.mdVcoreNow, 0)], parts := [.outs] }) ∧
  (s.dev.paces.any (fun p => decide (p * 100 < 102 * s.dev.paceFloor)) = true →
     s.dev.f mdVcoreBand_HIGH_MV s.dev.mode ≤ s.dev.f mdVcoreNow_CMD_MV 0 →
       Runs .avsAdaptStep s fun d => d = s.dev) ∧
  (s.dev.paces.any (fun p => decide (p * 100 < 102 * s.dev.paceFloor)) = false →
     s.dev.f mdAvsCtl_ADAPT 0 = 0 ∨ s.dev.f mdVcoreNow_CMD_MV 0 ≤ s.dev.f mdVcoreBand_LOW_MV s.dev.mode ∨ s.dev.paces.any (fun p => decide (p * 100 < 105 * s.dev.paceFloor)) = true →
       Runs .avsAdaptStep s fun d => d = s.dev) ∧
  (s.dev.modeHoldsVcore = true → Runs .avsAdaptStep s fun d => d = s.dev) ∧
  (∀ (m : Nat), s.dev.paces.findIdx? (fun p => decide (p < s.dev.paceFloor)) = some m →
     s.dev.f mdVcoreBand_HIGH_MV s.dev.mode ≤ s.dev.f mdVcoreNow_CMD_MV 0 → s.dev.reaction fcPace ≠ 2 →
       Runs .paceLowTimeout s fun d =>
       d.f lsFaultStatus_ACTIVE fcPace = 1 ∧ d.f lsFaultStatus_COUNT fcPace = min (s.dev.f lsFaultStatus_COUNT fcPace + 1) 65535 ∧ d.f mdModeStatus_GUAR_LOST 0 = 1 ∧
       s.dev.Only d { regs := [(.mdModeStatus, 0), (.lsFaultStatus, fcPace)], events := true }) ∧
  (s.dev.paces.all (fun p => decide (s.dev.paceFloor ≤ p)) = true → Runs .paceLowTimeout s fun d => d = s.dev) ∧
  (∀ (a : Fin 4) (x : PaItem) (rest : List PaItem), (s.dev.acct a).waiting = x :: rest → x.who = .held →
     s.dev.paInUse a + x.cost ≤ s.dev.paBudget a →
       Runs (.paGrant a) s fun d => d = s.dev.setAcct a { waiting := rest, grants := (s.dev.acct a).grants ++ [x] } ∧
       d.acct a = { waiting := rest, grants := (s.dev.acct a).grants ++ [x] } ∧ d.paInUse a ≤ d.paBudget a) ∧
  (∀ (a : Fin 4),
     (s.dev.acct a).waiting.all (fun x => decide (s.dev.paBudget a < s.dev.paInUse a + x.cost)) = true →
       Runs (.paGrant a) s fun d => d = s.dev) ∧
  (∀ (a : Fin 4) (x : PaItem), (s.dev.acct a).waiting.find? (fun i => decide (i.who ≠ .remask)) = some x →
     x.who = .held →
       Runs (.paWaitTimeout a) s fun d => d = (s.dev.setAcct a { s.dev.acct a with waiting := (s.dev.acct a).waiting.filter fun i => i.handle != x.handle }).inc .mdPaDenied 0) ∧
  (∀ (a : Fin 4) (handle : BitVec 16), (s.dev.acct a).grants.any (isLeave handle.toNat) = true →
       Runs (.paLeaseExpiry handle) s fun d =>
       ((d.acct a).grants.any (isLeave handle.toNat)) = false ∧ (d.acct a).waiting = (s.dev.acct a).waiting ∧ d.ctr .mdPaReclaimed 0 = s.dev.ctr .mdPaReclaimed 0 + 1 ∧
       s.dev.Only d { arrays := [.mdPaBudget, .mdPaWait], ctrs := [(.mdPaReclaimed, 0)], parts := [.pa], events := true }) ∧
  (∀ (handle : BitVec 16), [0, 1, 2, 3].all (fun x => !(s.dev.acct x).grants.any (isLeave handle.toNat)) = true →
       Runs (.paLeaseExpiry handle) s fun d => d = s.dev) ∧
  (∀ (a : Fin 4) (w : PaFor) (m h : Nat) (rest : List PaItem) (hk tk rd : Nat), w = .token hk tk →
     (s.dev.acct a).waiting = ⟨w, m, h⟩ :: rest → s.dev.paInUse a + m ≤ s.dev.paBudget a →
     s.dev.tokOp (hartOf hk) (Fin.ofNat 8 tk) = some (.leave rd h) → s.dev.hartSt (hartOf hk) = .ready →
       Runs (.paGrant a) s fun d => d = (s.dev.setAcct a { waiting := rest, grants := (s.dev.acct a).grants ++ [⟨w, m, h⟩] }).tokEnd (hartOf hk) (Fin.ofNat 8 tk) tokOk rd [leaveHandle h]) ∧
  (∀ (a : Fin 4) (w : PaFor) (m h : Nat) (hk tk rd : Nat), w = .token hk tk →
     (s.dev.acct a).waiting.find? (fun i => decide (i.who ≠ .remask)) = some ⟨w, m, h⟩ →
     s.dev.tokOp (hartOf hk) (Fin.ofNat 8 tk) = some (.leave rd h) → s.dev.hartSt (hartOf hk) = .ready →
       Runs (.paWaitTimeout a) s fun d => d = ((s.dev.setAcct a { s.dev.acct a with waiting := (s.dev.acct a).waiting.filter fun i => i.handle != h }).inc .mdPaDenied 0).tokEnd (hartOf hk) (Fin.ofNat 8 tk) tokDenied rd [0]) ∧
  (∀ (a : Fin 4) (w : PaFor) (m h : Nat) (rest : List PaItem) (l : Nat), w = .gang l →
     (s.dev.acct a).waiting = ⟨w, m, h⟩ :: rest → s.dev.paInUse a + m ≤ s.dev.paBudget a →
     (s.dev.ld l).st = ldAdmit → s.dev.gangSize l < 4 →
       Runs (.paGrant a) s fun d => (d.ld l).st = ldRamp ∧ (d.ld l).grant = true ∧ (d.ld l).outOn = true) ∧
  (∀ (a : Fin 4) (w : PaFor) (m h : Nat) (l : Nat), w = .gang l →
     (s.dev.acct a).waiting.find? (fun i => decide (i.who ≠ .remask)) = some ⟨w, m, h⟩ →
     (s.dev.ld l).st = ldAdmit → l < 96 →
       Runs (.paWaitTimeout a) s fun d => (d.ld l).st = ldOff ∧ (d.ld l).denied = true ∧ d.ctr .ldDenied l = s.dev.ctr .ldDenied l + 1) ∧
  (∀ (a : Fin 4) (w : PaFor) (m h : Nat) (rest : List PaItem) (t : Nat),
     (s.dev.acct a).waiting = ⟨w, m, h⟩ :: rest → s.dev.paInUse a + m ≤ s.dev.paBudget a → t ∈ [0, 2, 3, 4, 9] →
     (s.dev.tb t).stage = 1 →
       (w = .rehash t ∨ w = .rebuild t) → Runs (.paGrant a) s fun d => (d.tb t).stage = 2 ∧ d.f tbCmd_BUSY (s.dev.tb t).iface = 0 ∧ d.f tbCmdStatus_RESULT (s.dev.tb t).iface = 0 ∧ d.f tbBgStatus_BUSY t = 1) ∧
  (∀ (a : Fin 4) (w : PaFor) (m h : Nat) (t : Nat),
     (s.dev.acct a).waiting.find? (fun i => decide (i.who ≠ .remask)) = some ⟨w, m, h⟩ → t ∈ [0, 2, 3, 4, 9] →
     (s.dev.tb t).stage = 1 →
       (w = .rehash t ∨ w = .rebuild t) → Runs (.paWaitTimeout a) s fun d => (d.tb t).stage = 0 ∧ d.f tbCmd_BUSY (s.dev.tb t).iface = 0 ∧ d.f tbCmdStatus_RESULT (s.dev.tb t).iface = resNoPower) ∧
  (∀ (a : Fin 4) (w : PaFor) (m h : Nat) (rest : List PaItem), w = .remask →
     (s.dev.acct a).waiting = ⟨w, m, h⟩ :: rest → s.dev.paInUse a + m ≤ s.dev.paBudget a → s.dev.cx.drbg = true →
       Runs (.paGrant a) s fun d => d = { (s.dev.setAcct a { waiting := rest, grants := (s.dev.acct a).grants ++ [⟨w, m, h⟩] }) with cx := { s.dev.cx with sweep := 2 } }) ∧
  (∀ (a : Fin 4) (w : PaFor) (m h : Nat) (rest : List PaItem), w = .remask →
     (s.dev.acct a).waiting = ⟨w, m, h⟩ :: rest → s.dev.paInUse a + m ≤ s.dev.paBudget a → a.val = 0 →
     s.dev.cx.drbg = false → (s.dev.acct 0).grants.any (fun i => i.who == .remask) = false →
       Runs (.paGrant a) s fun d => d.cx = { s.dev.cx with sweep := 0, due := true } ∧ (d.acct 0).grants = (s.dev.acct 0).grants) ∧
  (∀ (a : Fin 4), (s.dev.acct a).waiting.all (fun i => i.who == .remask) = true →
       Runs (.paWaitTimeout a) s fun d => d = s.dev) ∧
  (∀ (a : Fin 4) (w : PaFor) (m h : Nat) (rest : List PaItem) (k : Fin 16) (v : Nat), w = .antifuse →
     (s.dev.acct a).waiting = ⟨w, m, h⟩ :: rest → s.dev.paInUse a + m ≤ s.dev.paBudget a →
     s.dev.mg.fuse = some (.svn k v) →
       Runs (.paGrant a) s fun d => d.mg.fuse = none ∧ d.f mgSlotSvn_SVN_MIN k = min 64 (max v (s.dev.f mgSlotSvn_SVN_MIN k)) ∧ d.f mgMboxStatus_BUSY 0 = 0 ∧ d.f mgMboxStatus_RESULT 0 = 0) ∧
  (∀ (a : Fin 4) (w : PaFor) (m h : Nat) (k : Fin 16) (v : Nat), w = .antifuse →
     (s.dev.acct a).waiting.find? (fun i => decide (i.who ≠ .remask)) = some ⟨w, m, h⟩ →
     s.dev.mg.fuse = some (.svn k v) →
       Runs (.paWaitTimeout a) s fun d => d.mg.fuse = none ∧ d.f mgMboxStatus_BUSY 0 = 0 ∧ d.f mgMboxStatus_RESULT 0 = mbNoPower) ∧
  (∀ (a : Fin 4) (w : PaFor) (m h : Nat) (rest : List PaItem) (k : Fin 16) (ops : List FlashOp), w = .flash →
     (s.dev.acct a).waiting = ⟨w, m, h⟩ :: rest → s.dev.paInUse a + m ≤ s.dev.paBudget a →
     s.dev.mg.flashOps = .commit k :: ops →
       Runs (.paGrant a) s fun d => d.mg.flashOps = ops ∧ d.f mgSlotState_PENDING k = 1 ∧ d.f mgMboxStatus_BUSY 0 = 0 ∧ d.f mgMboxStatus_RESULT 0 = 0) ∧
  (∀ (a : Fin 4) (w : PaFor) (m h : Nat) (k : Fin 16) (ops : List FlashOp), w = .flash →
     (s.dev.acct a).waiting.find? (fun i => decide (i.who ≠ .remask)) = some ⟨w, m, h⟩ →
     s.dev.mg.flashOps = .commit k :: ops →
       Runs (.paWaitTimeout a) s fun d => d.mg.flashOps = ops ∧ d.f mgSlotState_PENDING k = s.dev.f mgSlotState_PENDING k ∧ d.f mgMboxStatus_BUSY 0 = 0 ∧ d.f mgMboxStatus_RESULT 0 = mbNoPower) ∧
  (∀ (a : Fin 4) (w : PaFor) (m h : Nat) (rest : List PaItem) (p : Fin 20) (o : UnitOp), w = .retrain p →
     (s.dev.acct a).waiting = ⟨w, m, h⟩ :: rest → s.dev.paInUse a + m ≤ s.dev.paBudget a →
     s.dev.opOf (uEth p) = some o → o.cmd = 4 → s.dev.f unitState_STATE (uEth p) = 3 → s.dev.phase ≠ phWaiting →
       Runs (.paGrant a) s fun d => d.f unitState_STATE (uEth p) = 4) ∧
  (∀ (a : Fin 4) (w : PaFor) (m h : Nat) (p : Fin 20) (o : UnitOp), w = .retrain p →
     (s.dev.acct a).waiting.find? (fun i => decide (i.who ≠ .remask)) = some ⟨w, m, h⟩ →
     s.dev.opOf (uEth p) = some o → o.cmd = 4 → o.unit = uEth p → s.dev.f unitState_STATE (uEth p) = 3 →
       Runs (.paWaitTimeout a) s fun d => d.f unitState_STATE (uEth p) = 3 ∧ d.f unitCmdStatus_BUSY (uEth p) = 0 ∧ d.f unitCmdStatus_RESULT (uEth p) = ucNoPower) ∧
  (∀ (a : Fin 4) (w : PaFor) (m h : Nat) (rest : List PaItem) (p : Fin 20) (t : Nat), w = .rateStep p →
     (s.dev.acct a).waiting = ⟨w, m, h⟩ :: rest → s.dev.paInUse a + m ≤ s.dev.paBudget a →
     (s.dev.eth p).step = .wantLeave t →
       Runs (.paGrant a) s fun d => (d.eth p).step = .reqSent (((s.dev.eth p).txn + 1) % 256) t ∧ d.f ethStepStatus_BUSY p = 1) ∧
  (∀ (a : Fin 4) (w : PaFor) (m h : Nat) (p : Fin 20) (t : Nat), w = .rateStep p →
     (s.dev.acct a).waiting.find? (fun i => decide (i.who ≠ .remask)) = some ⟨w, m, h⟩ →
     (s.dev.eth p).step = .wantLeave t →
       Runs (.paWaitTimeout a) s fun d => (d.eth p).step = .none ∧ d.f ethStepStatus_LAST p = 4) ∧
  (∀ (a : Fin 4) (w : PaFor) (m h : Nat) (rest : List PaItem) (u no : Nat) (j : CxJob), w = .crypto u no →
     (s.dev.acct a).waiting = ⟨w, m, h⟩ :: rest → s.dev.paInUse a + m ≤ s.dev.paBudget a →
     s.dev.cxJob? u no = some j → j.stage = .leave →
       Runs (.paGrant a) s fun d => d = (s.dev.setAcct a { waiting := rest, grants := (s.dev.acct a).grants ++ [⟨w, m, h⟩] }).setJob u { j with stage := .chunk }) ∧
  (∀ (a : Fin 4) (w : PaFor) (m h : Nat) (u no : Nat) (j : CxJob), w = .crypto u no →
     (s.dev.acct a).waiting.find? (fun i => decide (i.who ≠ .remask)) = some ⟨w, m, h⟩ →
     s.dev.cxJob? u no = some j → j.stage = .leave → u < 20 →
       Runs (.paWaitTimeout a) s fun d => (d.user u).done = (s.dev.user u).done ++ [⟨j.id, cxNoPower, 0, 0, j.word⟩] ∧ d.cxJob? u no = none)

/-- An instruction that a hart can issue and execute writes the result the rules give to RD (a write to g0 is discarded), goes
to the next instruction, and changes nothing else but the counts of issued instructions: all two-register operations, the one-
register and immediate operations, CSUMR, MOVZ, MOVK, EXTR, EXTRS and INSR with a field inside the register, and SEL. clzBits
of a nonzero register is the number of zero bits above its highest 1 bit, ctzBits the number below its lowest 1 bit, both 64
for 0; swapBytes turns byte i into byte 7 - i and is its own inverse; popBits of a register and of its complement add up to
64. -/
def Obligations.IntegersAndBitCounts : Prop :=
  (∀ (s : State) (h : Hart) (g : Guard) (rd ra rb : GReg), s.On → s.dev.canIssue h g [rd, ra, rb] none = true →
       ∀ e ∈ aluRows h g rd ra rb, Runs e.1 s fun d => d = (s.dev.issued h).complete h fun r => r.put rd (e.2 (r.get ra) (r.get rb))) ∧
  (∀ (s : State) (h : Hart) (g : Guard) (rd ra : GReg) (imm : BitVec 12) (amt : Fin 64), s.On →
     s.dev.canIssue h g [rd, ra] none = true →
       ∀ e ∈ aluImmRows h g rd ra imm amt, Runs e.1 s fun d => d = (s.dev.issued h).complete h fun r => r.put rd (e.2 (r.get ra))) ∧
  (∀ (s : State) (h : Hart) (g : Guard) (rd ra rb : GReg), s.On → s.dev.canIssue h g [rd, ra, rb] none = true →
       Runs (.csumr h g rd ra rb) s fun d => d = (s.dev.issued h).complete h fun r => r.put rd (BitVec.ofNat 64 (ocUpdate (r.get rd).toNat (r.get ra).toNat (r.get rb).toNat))) ∧
  (∀ (s : State) (h : Hart) (rd : GReg) (hw : Fin 4) (imm : BitVec 16), s.On →
     s.dev.canIssue h noGuard [rd] none = true →
       (Runs (.movz h rd hw imm) s fun d => d = (s.dev.issued h).complete h fun r => r.put rd (BitVec.ofNat 64 (imm.toNat * 2 ^ (16 * hw.val)))) ∧
       Runs (.movk h rd hw imm) s fun d => d = (s.dev.issued h).complete h fun r => r.put rd (BitVec.ofNat 64 (setBits (16 * hw.val + 15) (16 * hw.val) imm.toNat (r.get rd).toNat))) ∧
  (∀ (s : State) (h : Hart) (g : Guard) (rd ra : GReg) (pos lenm1 : Fin 64), s.On →
     s.dev.canIssue h g [rd, ra] none = true → pos.val + lenm1.val + 1 ≤ 64 →
       (Runs (.extr h g rd ra pos lenm1) s fun d => d = (s.dev.issued h).complete h fun r => r.put rd (BitVec.ofNat 64 (bits (pos + lenm1) pos (r.get ra).toNat))) ∧
       (Runs (.extrs h g rd ra pos lenm1) s fun d => d = (s.dev.issued h).complete h fun r => r.put rd (BitVec.ofInt 64 (sext (lenm1 + 1) (bits (pos + lenm1) pos (r.get ra).toNat)))) ∧
       Runs (.insr h g rd ra pos lenm1) s fun d => d = (s.dev.issued h).complete h fun r => r.put rd (BitVec.ofNat 64 (setBits (pos + lenm1) pos (r.get ra).toNat (r.get rd).toNat))) ∧
  (∀ (s : State) (h : Hart) (g : Guard) (rd ra rb : GReg) (ps : PReg), s.On →
     s.dev.canIssue h g [rd, ra, rb] none = true →
       Runs (.sel h g rd ra rb ps) s fun d => d = (s.dev.issued h).complete h fun r => r.put rd (if r.pget ps then r.get ra else r.get rb)) ∧
  (clzBits 0 = 64 ∧ ctzBits 0 = 64) ∧
  (∀ (a : Word64), a ≠ 0 → (a.getLsbD (63 - clzBits a) = true ∧ ∀ i, 63 - clzBits a < i → i < 64 → a.getLsbD i = false)) ∧
  (∀ (a : Word64), a ≠ 0 → (a.getLsbD (ctzBits a) = true ∧ ∀ i, i < ctzBits a → a.getLsbD i = false)) ∧
  (∀ (a : Word64), ∀ i, i < 8 → ∀ j, j < 8 → (swapBytes a).getLsbD (8 * i + j) = a.getLsbD (8 * (7 - i) + j)) ∧
  (∀ (a : Word64), popBits a + popBits (~~~a) = 64)

/-- CMP and CMPI with condition 0 to 6 write the condition to PT and its complement to PF (PT last), PAND, POR, PXOR and PANDN
their result to PT. BR goes to the instruction OFF away, counted in instructions; CALL also writes the next instruction to
g31; JR goes to g[RA] plus the immediate in instructions, taken before RD receives the link. A READY thread that has issued
its budget takes BUDGET, a thread in WAIT or BLOCKED beyond the limit takes WAIT_TMO: the exception is counted and the thread
is IDLE. A core in WAIT takes WAIT_TMO. THREAD_CELL_AVAILABLE issues the instruction a BLOCKED thread stopped at again. A
thread in another state is left alone. -/
def Obligations.BranchesAndLimits : Prop :=
  ∀ (s : State),
    s.On →
  (∀ (h : Hart) (g : Guard) (pt pf : PReg) (ra rb : GReg) (cc : Fin 8), s.dev.canIssue h g [ra, rb] none = true →
     cc ≠ 7 → Runs (.cmp h g pt pf ra rb cc) s fun d => d = (s.dev.issued h).complete h fun r =>
       (r.pput pf (!ccOf cc (r.get ra) (r.get rb))).pput pt (ccOf cc (r.get ra) (r.get rb))) ∧
  (∀ (h : Hart) (g : Guard) (pt pf : PReg) (ra : GReg) (cc : Fin 8) (imm : BitVec 8),
     s.dev.canIssue h g [ra] none = true → cc ≠ 7 →
       Runs (.cmpi h g pt pf ra cc imm) s fun d => d = (s.dev.issued h).complete h fun r =>
       (r.pput pf (!ccOf cc (r.get ra) (BitVec.ofInt 64 imm.toInt))).pput pt (ccOf cc (r.get ra) (BitVec.ofInt 64 imm.toInt))) ∧
  (∀ (h : Hart) (g : Guard) (pt pa pb : PReg), s.dev.canIssue h g [] none = true →
       ∀ e ∈ [(Instr.pand h g pt pa pb, fun a b => a && b), (.por h g pt pa pb, fun a b => a || b),
       (.pxor h g pt pa pb, fun a b => a != b), (.pandn h g pt pa pb, fun a b => a && !b)],
       Runs e.1 s fun d => d = (s.dev.issued h).complete h fun r => r.pput pt (e.2 (r.pget pa) (r.pget pb))) ∧
  (∀ (h : Hart) (g : Guard) (off : BitVec 22), s.dev.canIssue h g [] none = true → Runs (.br h g off) s fun d =>
       d = (s.dev.issued h).jump h id ((s.dev.rf h).pc + BitVec.ofInt 64 (off.toInt * pcStep h))) ∧
  (∀ (h : Hart) (g : Guard) (off : BitVec 22), s.dev.canIssue h g [31] none = true → Runs (.call h g off) s fun d =>
       d = (s.dev.issued h).jump h (fun r => r.put 31 ((s.dev.rf h).pc + BitVec.ofNat 64 (pcStep h)))
       ((s.dev.rf h).pc + BitVec.ofInt 64 (off.toInt * pcStep h))) ∧
  (∀ (h : Hart) (g : Guard) (rd ra : GReg) (imm : BitVec 12), s.dev.canIssue h g [rd, ra] none = true →
       Runs (.jr h g rd ra imm) s fun d =>
       d = (s.dev.issued h).jump h (fun r => r.put rd ((s.dev.rf h).pc + BitVec.ofNat 64 (pcStep h)))
       ((s.dev.rf h).get ra + BitVec.ofInt 64 (imm.toInt * pcStep h))) ∧
  (∀ (n : Fin 64) (t : Fin 4), (s.dev.thr n t).st = .ready → (s.dev.thr n t).icount = (s.dev.thr n t).budget →
     s.dev.follows n = false → (s.dev.thr n t).shadow = false → (s.dev.thr n t).kind = .frame →
       Runs (.budgetExhausted n t) s fun d => d = s.dev.exc (.fe n t) 5 ∧ d.ctr .feExc 5 = s.dev.ctr .feExc 5 + 1 ∧ (d.thr n t).st = .idle) ∧
  (∀ (n : Fin 64) (t : Fin 4), (s.dev.thr n t).st ≠ .ready ∨ (s.dev.thr n t).icount ≠ (s.dev.thr n t).budget →
       Runs (.budgetExhausted n t) s fun d => d = s.dev) ∧
  (∀ (n : Fin 64) (t : Fin 4), (s.dev.thr n t).st = .wait ∨ (s.dev.thr n t).st = .blocked →
     s.dev.follows n = false → (s.dev.thr n t).shadow = false → (s.dev.thr n t).kind = .frame →
       Runs (.waitTmo (.fe n t)) s fun d => d = s.dev.exc (.fe n t) 6 ∧ d.ctr .feExc 6 = s.dev.ctr .feExc 6 + 1 ∧ (d.thr n t).st = .idle) ∧
  (∀ (n : Fin 64) (t : Fin 4), (s.dev.thr n t).st ≠ .wait → (s.dev.thr n t).st ≠ .blocked →
       Runs (.waitTmo (.fe n t)) s fun d => d = s.dev) ∧
  (∀ (c : Fin 2), s.dev.mcRuns c = true → (s.dev.mcCore c).st = .wait → Runs (.waitTmo (.mc c)) s fun d =>
       (d.mcCore c).trapPc = (s.dev.mcCore c).rf.pc.toNat ∧ (d.mcCore c).trapWhy = 6 ∧
       (d.mcCore c).rf.pc = BitVec.ofNat 64 ((s.dev.mcCore c).trapBase) ∧ (d.mcCore c).rf.g = (s.dev.mcCore c).rf.g ∧
       (d.mcCore c).ctl = 16 + (s.dev.mcCore c).ctl % 2 * 2 + (s.dev.mcCore c).ctl / 16 % 2 * 32 ∧ (d.mcCore c).st = .ready) ∧
  (∀ (n : Fin 64) (t : Fin 4) (i : Instr), (s.dev.thr n t).st = .blocked → (s.dev.thr n t).held = some i →
       Runs (.threadCellAvailable n t) s fun d => d = (s.dev.setThr n t { (s.dev.thr n t) with st := .ready, held := some i }).porros i)

/-- A load whose address is aligned, inside a memory and permitted, and that meets no uncorrectable error, writes RT from the
bytes in its byte order and extension. A store to local or shared data, management SRAM or the log SRAM puts its bytes there
and nothing else; into the frame window it changes the output packet; into the register window it is a register write of the
core; one that lies behind a far-side window enters its queue, or waits for room where 32 writes stand there, and the core
waits for its outcome. An atomic operation on aligned shared data returns the old value in RD and stores its result. A range
operation of at most 4,096 bytes computes over them. An access that an ALIGN or BOUNDS condition meets takes that exception
instead. For a store of bs at offset o of local data, shared data, management SRAM or log SRAM, with the place at which the
memory begins: byte i of bs reads back at o + i, every other index of that memory reads as before, and the other memories, the
program stores and the flash are unchanged. -/
def Obligations.LoadsStoresAndBytes : Prop :=
  (∀ (s : State) (h : Hart) (g : Guard) (rt ra : GReg) (sz : Fin 4) (off : BitVec 8) (ecc : Ecc) (p : Spc) (o : Nat) (bs : List Byte) (d1 : Dev),
     s.On → s.dev.canIssue h g [rt, ra] none = true →
     (s.dev.issued h).accessExc h ((s.dev.issued h).effective h ra off (2 ^ sz.val)) (2 ^ sz.val) false false = 0 →
     (s.dev.issued h).place h ((s.dev.issued h).effective h ra off (2 ^ sz.val)) = some (p, o) →
     (s.dev.issued h).spcLoad h p o (2 ^ sz.val) ecc = (some bs, d1) →
       ∀ e ∈ loadRows h g rt ra sz off ecc, Runs e.1 s fun d => d = d1.complete h fun r => r.put rt (e.2 bs)) ∧
  (∀ (s : State) (h : Hart) (g : Guard) (rt ra : GReg) (sz : Fin 4) (off : BitVec 8) (ecc : Ecc) (x : Nat), s.On →
     s.dev.canIssue h g [rt, ra] none = true →
     (s.dev.issued h).accessExc h ((s.dev.issued h).effective h ra off (2 ^ sz.val)) (2 ^ sz.val) false false = x →
     x ≠ 0 →
       ∀ e ∈ loadRows h g rt ra sz off ecc, Runs e.1 s fun d => d = (s.dev.issued h).exc h x (some ((s.dev.issued h).effective h ra off (2 ^ sz.val)))) ∧
  (∀ (s : State) (h : Hart) (g : Guard) (rt ra : GReg) (sz : Fin 4) (off : BitVec 8) (p : Spc) (o : Nat), s.On →
     s.dev.canIssue h g [rt, ra] none = true →
     (s.dev.issued h).accessExc h ((s.dev.issued h).effective h ra off (2 ^ sz.val)) (2 ^ sz.val) true false = 0 →
     (s.dev.issued h).place h ((s.dev.issued h).effective h ra off (2 ^ sz.val)) = some (p, o) → p ≠ .fw →
     p ≠ .reg → p = .ld ∨ s.dev.shadowed h = false →
       ∀ e ∈ [(Instr.st h g rt ra sz off, leBytes), (.stn h g rt ra sz off, beBytes)], Runs e.1 s fun d =>
       d = ((s.dev.issued h).spcStore h p o (e.2 (2 ^ sz.val) ((s.dev.rf h).get rt).toNat)).complete h id) ∧
  (∀ (s : State) (h : Hart) (g : Guard) (rt ra : GReg) (sz : Fin 4) (off : BitVec 8) (n : Fin 64) (t : Fin 4) (o : Nat),
     s.On → h = .fe n t → s.dev.canIssue h g [rt, ra] none = true →
     (s.dev.issued h).accessExc h ((s.dev.issued h).effective h ra off (2 ^ sz.val)) (2 ^ sz.val) true false = 0 →
     (s.dev.issued h).place h ((s.dev.issued h).effective h ra off (2 ^ sz.val)) = some (.fw, o) →
     (s.dev.thr n t).shadow = true ∨ ((s.dev.thr n t).outGrp = 0 ∧ cellsOf (s.dev.thr n t).out.length ≤ s.dev.freeCells) →
       ∀ e ∈ [(Instr.st (.fe n t) g rt ra sz off, leBytes), (.stn (.fe n t) g rt ra sz off, beBytes)], Runs e.1 s fun d =>
       (d.thr n t).out = splice (s.dev.thr n t).out ((s.dev.thr n t).fwBase + o) (e.2 (2 ^ sz.val) ((s.dev.thr n t).rf.get rt).toNat) ∧
       (d.thr n t).rf.pc = (s.dev.thr n t).rf.pc + 1 ∧ (d.thr n t).src = (s.dev.thr n t).src) ∧
  (∀ (s : State) (h : Hart) (g : Guard) (rt ra : GReg) (off : BitVec 8) (c : Fin 2) (o : Nat), s.On → h = .mc c →
     s.dev.canIssue h g [rt, ra] none = true → s.dev.accessExc h (s.dev.effective h ra off 4) 4 true false = 0 →
     s.dev.place h (s.dev.effective h ra off 4) = some (.reg, o) → farWindow 16 o = none →
     s.dev.shadowed h = false →
     ((s.dev.regWrite 16 o (((s.dev.rf h).get rt).toNat % 2 ^ 32)).mcCore c).far = none →
       Runs (.st h g rt ra 2 off) s fun d => d = ((s.dev.issued h).regWrite 16 o (((s.dev.rf h).get rt).toNat % 2 ^ 32)).complete h id) ∧
  (∀ (s : State) (h : Hart) (g : Guard) (rt ra : GReg) (off : BitVec 8) (c : Fin 2) (o w : Nat), s.On → h = .mc c →
     (s.dev.farQueue w).length < 32 → s.dev.canIssue h g [rt, ra] none = true →
     s.dev.accessExc h (s.dev.effective h ra off 4) 4 true false = 0 →
     s.dev.place h (s.dev.effective h ra off 4) = some (.reg, o) → farWindow 16 o = some w →
     s.dev.farDown w = false → s.dev.shadowed h = false → (s.dev.mcCore c).far = none →
       Runs (.st h g rt ra 2 off) s fun d => (d.mcCore c).st = .blocked ∧ (d.mcCore c).far = some c.val ∧ (d.mcCore c).rf = (s.dev.mcCore c).rf ∧
       d.farQueue w = s.dev.farQueue w ++ [{ dom := 16, seq := 0, off := o, value := ((s.dev.rf h).get rt).toNat % 2 ^ 32, src := .core c [] }]) ∧
  (∀ (s : State) (h : Hart) (g : Guard) (rt ra : GReg) (off : BitVec 8) (c : Fin 2) (o w : Nat), s.On → h = .mc c →
     32 ≤ (s.dev.farQueue w).length → s.dev.canIssue h g [rt, ra] none = true →
     s.dev.accessExc h (s.dev.effective h ra off 4) 4 true false = 0 →
     s.dev.place h (s.dev.effective h ra off 4) = some (.reg, o) → farWindow 16 o = some w →
     s.dev.farDown w = false → s.dev.shadowed h = false → (s.dev.mcCore c).far = none →
       Runs (.st h g rt ra 2 off) s fun d => (d.mcCore c).st = .blocked ∧ (d.mcCore c).far = some c.val ∧ (d.mcCore c).rf = (s.dev.mcCore c).rf ∧
       d.farQueue w = s.dev.farQueue w ∧ (c.val, [(o, ((s.dev.rf h).get rt).toNat % 2 ^ 32)]) ∈ d.host.coreWait) ∧
  (∀ (s : State) (h : Hart) (g : Guard) (rd ra rb : GReg) (wide : Bool) (ecc : Ecc) (n o : Nat) (bs : List Byte) (d1 : Dev),
     s.On → s.dev.canIssue h g [rd, ra, rb] none = true → n = (if wide then 8 else 4) →
     ((s.dev.rf h).get ra).toNat % n = 0 → (s.dev.issued h).place h ((s.dev.rf h).get ra).toNat = some (.cs, o) →
     o + n ≤ 2 ^ 18 → (s.dev.issued h).spcLoad h .cs o n ecc = (some bs, d1) → d1.shadowed h = false →
       ∀ e ∈ amoRows h g rd ra rb wide ecc, Runs e.1 s fun d =>
       d = (match e.2 (leNat bs) (((s.dev.rf h).get rb).toNat % 2 ^ (8 * n)) (((s.dev.rf h).get rd).toNat % 2 ^ (8 * n)) with
       | some v => d1.spcStore h .cs o (leBytes n v)
       | none => d1).complete h fun r => r.put rd (BitVec.ofNat 64 (leNat bs))) ∧
  (∀ (s : State) (h : Hart) (g : Guard) (rd ra rb : GReg) (ecc : Ecc) (p : Spc) (o : Nat) (bs : List Byte) (d1 : Dev),
     s.On → s.dev.canIssue h g [rd, ra, rb] none = true → ((s.dev.rf h).get rb).toNat ≤ 4096 →
     ((s.dev.rf h).get rb).toNat ≠ 0 →
     (s.dev.issued h).accessExc h ((s.dev.rf h).get ra).toNat ((s.dev.rf h).get rb).toNat false true = 0 →
     (s.dev.issued h).place h ((s.dev.rf h).get ra).toNat = some (p, o) →
     (s.dev.issued h).spcLoad h p o ((s.dev.rf h).get rb).toNat ecc = (some bs, d1) →
       ∀ e ∈ rangeRows h g rd ra rb ecc, Runs e.1 s fun d =>
       d = d1.complete h fun r => r.put rd (BitVec.ofNat 64 (e.2 (r.get rd).toNat bs))) ∧
  (∀ (d : Dev) (h : Hart) (p : Spc) (o base i : Nat) (bs : List Byte) (m m' : Sparse Byte),
     (match h, p with
| .fe e t, .ld => base = ldKey e.val t.val 0 ∧ m = d.eng.ld ∧ m' = (d.spcStore h p o bs).eng.ld
| .fe e _, .cs => base = csKey (e.val / 8) 0 ∧ m = d.eng.cs ∧ m' = (d.spcStore h p o bs).eng.cs
| .mc _, .sram => base = 0 ∧ m = d.eng.sram ∧ m' = (d.spcStore h p o bs).eng.sram
| .mc _, .log => base = 0 ∧ m = d.eng.logSram ∧ m' = (d.spcStore h p o bs).eng.logSram
| _, _ => False) →
       Sparse.get (fun _ => 0) m' (base + i) = (if o ≤ i ∧ i < o + bs.length then bs.getD (i - o) 0 else Sparse.get (fun _ => 0) m (base + i)) ∧
       (∀ k, k < base → Sparse.get (fun _ => 0) m' k = Sparse.get (fun _ => 0) m k) ∧
       (d.spcStore h p o bs).eng.ps = d.eng.ps ∧ (d.spcStore h p o bs).eng.flash = d.eng.flash)

/-- MFS on a thread writes the special register to RD; MTS of %frame_class in a frame job stores bits [5:0]; CNTADD adds g[RB]
to a program counter; YIELD and FENCE, and BKPT where no halt is armed, go on. In SUP on a core, MFSR writes a system register
to RD, MTSR stores one after it retires, ERET goes to TRAPPC with the saved level and interrupt enable, WFI goes on when an
unmasked line is pending and else holds the core. SVREQ on a core raises SVREQ; a terminal action, which is a frame-engine
instruction, raises ILLEGAL there, and so does a privileged instruction in USR. Entering: TRAPPC is the PC of the instruction,
TRAPWHY the code, the core is in SUP with interrupts off, the level and the enable it had are saved, and PC is TRAPBASE.
INTERRUPT_TAKEN with the enable set and a line pending enters with TRAPWHY 0x100 plus the line at TRAPBASE + 0x100. ALARM_DUE
is where TD0 reaches ALARM: a core in WFI that a pending line no longer holds goes on; line 31 is pending while TD0 is at
least ALARM. Exceptions count in FeExc. -/
def Obligations.SystemAndExceptions : Prop :=
  ∀ (s : State),
    s.On →
  (∀ (h : Hart) (g : Guard) (n : Fin 64) (t : Fin 4) (rd : GReg) (num : BitVec 12) (v : Nat), h = .fe n t →
     s.dev.canIssue h g [rd] none = true → (s.dev.issued h).feSpecial n t num.toNat = some v →
       Runs (.mfs h g rd num) s fun d => d = (s.dev.issued h).complete h fun r => r.put rd (BitVec.ofNat 64 v)) ∧
  (∀ (h : Hart) (g : Guard) (n : Fin 64) (t : Fin 4) (ra : GReg), h = .fe n t →
     s.dev.canIssue h g [ra] none = true → (s.dev.thr n t).kind = .frame →
       Runs (.mts h g ra 0x00A) s fun d => d = ((s.dev.issued h).setThr n t { (s.dev.issued h).thr n t with cls := ((s.dev.rf h).get ra).toNat % 64 }).complete h id) ∧
  (∀ (h : Hart) (g : Guard) (ra rb : GReg), s.dev.canIssue h g [ra, rb] none = true →
     ((s.dev.rf h).get ra).toNat < 1024 → s.dev.shadowed h = false →
       Runs (.cntadd h g ra rb) s fun d => d = ((s.dev.issued h).incBy .feProgCnt ((s.dev.rf h).get ra).toNat (((s.dev.rf h).get rb).toNat % 2 ^ 48)).complete h id) ∧
  (∀ (h : Hart) (g : Guard), s.dev.canIssue h g [] none = true →
       ∀ i ∈ [Instr.yield h g, .fence h g], Runs i s fun d => d = (s.dev.issued h).complete h id) ∧
  (∀ (h : Hart) (g : Guard), s.dev.canIssue h g [] none = true → s.dev.safe.bkpt = [] → s.dev.safe.watch = [] →
       Runs (.bkpt h g) s fun d => d = (s.dev.issued h).complete h id) ∧
  (∀ (h : Hart) (g : Guard) (c : Fin 2) (rd : GReg) (num : BitVec 12) (v : Nat), h = .mc c →
     s.dev.canIssue h g [rd] none = true → (s.dev.mcCore c).sup = true → s.dev.sysRead c num.toNat = some v →
       Runs (.mfsr h g rd num) s fun d => d = s.dev.complete h fun r => r.put rd (BitVec.ofNat 64 v)) ∧
  (∀ (h : Hart) (g : Guard) (c : Fin 2) (ra : GReg) (num : BitVec 12) (y : McCore), h = .mc c →
     s.dev.canIssue h g [ra] none = true → (s.dev.mcCore c).sup = true →
     sysWrite ((s.dev.complete h id).mcCore c) num.toNat ((s.dev.rf h).get ra) = some y →
     (sysWrite {} num.toNat 0).isSome = true →
       Runs (.mtsr h g ra num) s fun d => d.mcCore c = y ∧ s.dev.Only d { parts := [.eng] }) ∧
  (∀ (h : Hart) (g : Guard) (c : Fin 2), h = .mc c → s.dev.canIssue h g [] none = true →
     (s.dev.mcCore c).sup = true →
       Runs (.eret h g) s fun d => (d.mcCore c).rf = { (s.dev.mcCore c).rf with pc := BitVec.ofNat 64 (s.dev.mcCore c).trapPc } ∧
       bitAt 4 (d.mcCore c).ctl = bitAt 5 (s.dev.mcCore c).ctl ∧ bitAt 0 (d.mcCore c).ctl = bitAt 1 (s.dev.mcCore c).ctl ∧
       s.dev.Only d { parts := [.eng] }) ∧
  (∀ (h : Hart) (g : Guard) (c : Fin 2), h = .mc c → s.dev.canIssue h g [] none = true →
     (s.dev.mcCore c).sup = true →
       Runs (.wfi h g) s fun d => d = (if (s.dev.mcLine c).isSome then s.dev.complete h id else s.dev.park h .blocked none)) ∧
  (∀ (h : Hart) (g : Guard) (c : Fin 2), h = .mc c → s.dev.canIssue h g [] none = true →
       Runs (.svreq h g) s fun d => d.ctr .feExc 14 = s.dev.ctr .feExc 14 + 1 ∧
       (d.mcCore c).trapPc = (s.dev.mcCore c).rf.pc.toNat ∧ (d.mcCore c).trapWhy = 14 ∧
       (d.mcCore c).rf.pc = BitVec.ofNat 64 ((s.dev.mcCore c).trapBase) ∧ (d.mcCore c).rf.g = (s.dev.mcCore c).rf.g ∧
       (d.mcCore c).ctl = 16 + (s.dev.mcCore c).ctl % 2 * 2 + (s.dev.mcCore c).ctl / 16 % 2 * 32 ∧ (d.mcCore c).st = .ready) ∧
  (∀ (h : Hart) (g : Guard) (c : Fin 2), h = .mc c → s.dev.canIssue h g [] none = true →
       ∀ i ∈ [Instr.trap h g 5, .drop h g 0, .redip h g], Runs i s fun d =>
       (d.mcCore c).trapPc = (s.dev.mcCore c).rf.pc.toNat ∧ (d.mcCore c).trapWhy = 1 ∧
       (d.mcCore c).rf.pc = BitVec.ofNat 64 ((s.dev.mcCore c).trapBase) ∧ (d.mcCore c).rf.g = (s.dev.mcCore c).rf.g ∧
       (d.mcCore c).ctl = 16 + (s.dev.mcCore c).ctl % 2 * 2 + (s.dev.mcCore c).ctl / 16 % 2 * 32 ∧ (d.mcCore c).st = .ready) ∧
  (∀ (h : Hart) (g : Guard) (c : Fin 2), h = .mc c → s.dev.canIssue h g [2] none = true →
     (s.dev.mcCore c).sup = false → ∀ i ∈ [Instr.eret h g, .wfi h g, .mfsr h g 2 1], Runs i s fun d =>
       (d.mcCore c).trapPc = (s.dev.mcCore c).rf.pc.toNat ∧ (d.mcCore c).trapWhy = 1 ∧
       (d.mcCore c).rf.pc = BitVec.ofNat 64 ((s.dev.mcCore c).trapBase) ∧ (d.mcCore c).rf.g = (s.dev.mcCore c).rf.g ∧
       (d.mcCore c).ctl = 16 + (s.dev.mcCore c).ctl % 2 * 2 + (s.dev.mcCore c).ctl / 16 % 2 * 32 ∧ (d.mcCore c).st = .ready) ∧
  (∀ (c : Fin 2) (l : Nat), s.dev.mcRuns c = true → (s.dev.mcCore c).st = .ready →
     bitAt 0 (s.dev.mcCore c).ctl = true → s.dev.mcLine c = some l → Runs (.interruptTaken c) s fun d =>
       (d.mcCore c).trapPc = (s.dev.mcCore c).rf.pc.toNat ∧ (d.mcCore c).trapWhy = 256 + l ∧
       (d.mcCore c).rf.pc = BitVec.ofNat 64 ((s.dev.mcCore c).trapBase + 256) ∧ (d.mcCore c).rf.g = (s.dev.mcCore c).rf.g ∧
       (d.mcCore c).ctl = 16 + (s.dev.mcCore c).ctl % 2 * 2 + (s.dev.mcCore c).ctl / 16 % 2 * 32 ∧ (d.mcCore c).st = .ready) ∧
  (∀ (c : Fin 2), (s.dev.mcCore c).st = .ready → bitAt 0 (s.dev.mcCore c).ctl = false →
       Runs (.interruptTaken c) s fun d => d = s.dev) ∧
  (∀ (c : Fin 2), Runs (.alarmDue c) s fun d => d = (if s.dev.mcRuns c then s.dev.mcWake c else s.dev))

/-- In a frame job: ADJH by k opens k zero bytes at the head or takes -k bytes away, and the net count follows, while the net
count stays at most 128 and the length 1 to 9,728; ADJT cuts or extends the packet with zeros to a length of 1 to 9,728 and
moves a window that is no longer inside to 0; WMOV moves the window to a multiple of 64 inside the packet. The packet received
is unchanged. Otherwise the instruction takes BOUNDS. In a frame job whose tokens are idle: EMIT to a port that may be named
commits the packet to that port and class, EMITM to every port of a set that may be named, COPYH to an enabled ring of an
enabled domain; DROP counts its reason and drops the frame; REDIP in the first pass sends the packet to the second; TRAP takes
its exception; each ends the job and the thread is IDLE. MIRR gives the packet to a session that takes copies and goes on. A
port, ring or session that may not be named takes PORT, REDIP in the second pass REDIP2. -/
def Obligations.PacketsAndTerminals : Prop :=
  ∀ (s : State),
    s.On →
  (∀ (h : Hart) (g : Guard) (n : Fin 64) (t : Fin 4) (ra : GReg) (k : Int), h = .fe n t →
     s.dev.canIssue h g [ra] none = true → (s.dev.thr n t).kind = .frame → ((s.dev.thr n t).rf.get ra).toInt = k →
     (s.dev.thr n t).net + k ≤ 128 → 1 ≤ (s.dev.thr n t).out.length + k → (s.dev.thr n t).out.length + k ≤ 9728 →
     (s.dev.thr n t).shadow = true ∨ ((s.dev.thr n t).outGrp = 0 ∧ cellsOf ((s.dev.thr n t).out.length + k).toNat ≤ s.dev.freeCells) →
       Runs (.adjh h g ra) s fun d =>
       (d.thr n t).out = (if 0 < k then List.replicate k.toNat 0 ++ (s.dev.thr n t).out else (s.dev.thr n t).out.drop (-k).toNat) ∧ (d.thr n t).net = (s.dev.thr n t).net + k ∧
       (d.thr n t).rf = { (s.dev.thr n t).rf with pc := (s.dev.thr n t).rf.pc + 1 } ∧ (d.thr n t).src = (s.dev.thr n t).src ∧ (d.thr n t).fwBase = (s.dev.thr n t).fwBase) ∧
  (∀ (h : Hart) (g : Guard) (n : Fin 64) (t : Fin 4) (ra : GReg) (k : Int), h = .fe n t →
     s.dev.canIssue h g [ra] none = true → (s.dev.thr n t).kind = .frame → ((s.dev.thr n t).rf.get ra).toInt = k →
     128 < (s.dev.thr n t).net + k ∨ (s.dev.thr n t).out.length + k < 1 ∨ 9728 < (s.dev.thr n t).out.length + k →
       Runs (.adjh h g ra) s fun d => d = (s.dev.issued h).exc h 3) ∧
  (∀ (h : Hart) (g : Guard) (n : Fin 64) (t : Fin 4) (ra : GReg) (l : Nat), h = .fe n t →
     s.dev.canIssue h g [ra] none = true → (s.dev.thr n t).kind = .frame → ((s.dev.thr n t).rf.get ra).toNat = l →
     1 ≤ l → l ≤ 9728 →
     (s.dev.thr n t).shadow = true ∨ ((s.dev.thr n t).outGrp = 0 ∧ cellsOf l ≤ s.dev.freeCells) →
       Runs (.adjt h g ra) s fun d =>
       (d.thr n t).out = slice (s.dev.thr n t).out 0 l ∧ (d.thr n t).fwBase = (if l < (s.dev.thr n t).out.length ∧ l < (s.dev.thr n t).fwBase + 1 then 0 else (s.dev.thr n t).fwBase) ∧
       (d.thr n t).rf = { (s.dev.thr n t).rf with pc := (s.dev.thr n t).rf.pc + 1 } ∧ (d.thr n t).src = (s.dev.thr n t).src ∧ (d.thr n t).net = (s.dev.thr n t).net) ∧
  (∀ (h : Hart) (g : Guard) (n : Fin 64) (t : Fin 4) (ra : GReg), h = .fe n t →
     s.dev.canIssue h g [ra] none = true → (s.dev.thr n t).kind = .frame →
     ((s.dev.thr n t).rf.get ra).toNat = 0 ∨ 9728 < ((s.dev.thr n t).rf.get ra).toNat →
       Runs (.adjt h g ra) s fun d => d = (s.dev.issued h).exc h 3) ∧
  (∀ (h : Hart) (g : Guard) (n : Fin 64) (t : Fin 4) (ra : GReg), h = .fe n t →
     s.dev.canIssue h g [ra] none = true → (s.dev.thr n t).kind = .frame →
     ((s.dev.thr n t).rf.get ra).toNat % 64 = 0 → ((s.dev.thr n t).rf.get ra).toNat < (s.dev.thr n t).out.length →
       Runs (.wmov h g ra) s fun d => d = ((s.dev.issued h).setThr n t { (s.dev.issued h).thr n t with fwBase := ((s.dev.thr n t).rf.get ra).toNat }).complete h id) ∧
  (∀ (h : Hart) (g : Guard) (n : Fin 64) (t : Fin 4) (ra : GReg), h = .fe n t →
     s.dev.canIssue h g [ra] none = true → (s.dev.thr n t).kind = .frame →
     ((s.dev.thr n t).rf.get ra).toNat % 64 ≠ 0 ∨ (s.dev.thr n t).out.length ≤ ((s.dev.thr n t).rf.get ra).toNat →
       Runs (.wmov h g ra) s fun d => d = (s.dev.issued h).exc h 3) ∧
  (∀ (h : Hart) (g : Guard) (n : Fin 64) (t : Fin 4) (ra : GReg) (cls : Option (Fin 8)), h = .fe n t →
     (s.dev.thr n t).kind = .frame → (s.dev.rf h).busy = [] → (s.dev.thr n t).shadow = false →
     s.dev.canIssue h g [ra] none = true → emitPort (((s.dev.thr n t).rf.get ra).toNat % 128) = true →
       Runs (.emit h g ra cls) s fun d => d = (s.dev.issued h).actCommit n t [.queue (((s.dev.thr n t).rf.get ra).toNat % 128) (classOf cls (s.dev.thr n t))] ∧ (d.thr n t).st = .idle) ∧
  (∀ (h : Hart) (g : Guard) (n : Fin 64) (t : Fin 4) (ra : GReg) (cls : Option (Fin 8)), h = .fe n t →
     (s.dev.thr n t).kind = .frame → (s.dev.rf h).busy = [] → (s.dev.thr n t).shadow = false →
     s.dev.canIssue h g [ra] none = true → emitPort (((s.dev.thr n t).rf.get ra).toNat % 128) = false →
       Runs (.emit h g ra cls) s fun d => d = (s.dev.issued h).exc h 8) ∧
  (∀ (h : Hart) (g : Guard) (n : Fin 64) (t : Fin 4) (ra : GReg) (cls : Option (Fin 8)), h = .fe n t →
     (s.dev.thr n t).kind = .frame → (s.dev.rf h).busy = [] → (s.dev.thr n t).shadow = false → ra ≠ 31 →
     s.dev.canIssue h g [ra.val, ra.val + 1] none = true → portsOk (portSetOf (s.dev.thr n t).rf ra) = true →
       Runs (.emitm h g ra cls) s fun d => d = (s.dev.issued h).actCommit n t ((portList (portSetOf (s.dev.thr n t).rf ra)).map fun p => .queue p (classOf cls (s.dev.thr n t))) ∧ (d.thr n t).st = .idle) ∧
  (∀ (h : Hart) (g : Guard) (n : Fin 64) (t : Fin 4) (reason : BitVec 8), h = .fe n t →
     (s.dev.thr n t).kind = .frame → (s.dev.rf h).busy = [] → (s.dev.thr n t).shadow = false →
     s.dev.canIssue h g [] none = true →
       Runs (.drop h g reason) s fun d => d.ctr .feDropRsn reason.toNat = s.dev.ctr .feDropRsn reason.toNat + 1 ∧ (d.thr n t).st = .idle ∧
       d = (s.dev.issued h).actDrop n t reason.toNat) ∧
  (∀ (h : Hart) (g : Guard) (n : Fin 64) (t : Fin 4) (ra : GReg) (dom ring : Fin 16), h = .fe n t →
     (s.dev.thr n t).kind = .frame → (s.dev.rf h).busy = [] → (s.dev.thr n t).shadow = false →
     s.dev.canIssue h g [ra] none = true → ra = 0 ∨ (dom = 0 ∧ ring = 0) →
     s.dev.copyhOk (copyhArgs (s.dev.thr n t).rf ra dom ring).1 (copyhArgs (s.dev.thr n t).rf ra dom ring).2 = true →
       Runs (.copyh h g ra dom ring) s fun d => d = (s.dev.issued h).actCommit n t [.ring (copyhArgs (s.dev.thr n t).rf ra dom ring).1 (copyhArgs (s.dev.thr n t).rf ra dom ring).2 (clsClass (s.dev.thr n t).cls)] ∧ (d.thr n t).st = .idle) ∧
  (∀ (h : Hart) (g : Guard) (n : Fin 64) (t : Fin 4) (session : Fin 8), h = .fe n t →
     (s.dev.thr n t).kind = .frame → (s.dev.rf h).busy = [] → (s.dev.thr n t).shadow = false →
     s.dev.canIssue h g [] none = true → s.dev.mirrorRuleOn session = true →
       Runs (.mirr h g session) s fun d => d = ((s.dev.issued h).mirrorCandidate session (packet (s.dev.thr n t))).complete h id) ∧
  (∀ (h : Hart) (g : Guard) (n : Fin 64) (t : Fin 4), h = .fe n t → (s.dev.thr n t).kind = .frame →
     (s.dev.rf h).busy = [] → (s.dev.thr n t).shadow = false → s.dev.canIssue h g [] none = true →
     (s.dev.thr n t).src.pass ≠ 1 →
       Runs (.redip h g) s fun d => d = (s.dev.issued h).actRedip n t ∧ (d.thr n t).st = .idle) ∧
  (∀ (h : Hart) (g : Guard) (n : Fin 64) (t : Fin 4), h = .fe n t → (s.dev.thr n t).kind = .frame →
     (s.dev.rf h).busy = [] → (s.dev.thr n t).shadow = false → s.dev.canIssue h g [] none = true →
     (s.dev.thr n t).src.pass = 1 → Runs (.redip h g) s fun d => d = (s.dev.issued h).exc h 9) ∧
  (∀ (h : Hart) (g : Guard) (n : Fin 64) (t : Fin 4) (code : BitVec 12), h = .fe n t →
     (s.dev.thr n t).kind = .frame → (s.dev.rf h).busy = [] → (s.dev.thr n t).shadow = false →
     s.dev.canIssue h g [] none = true →
       Runs (.trap h g code) s fun d => d.ctr .feExc 12 = s.dev.ctr .feExc 12 + 1 ∧ (d.thr n t).st = .idle ∧ d = (s.dev.issued h).excFe n t 12 (s.dev.thr n t).rf.pc.toNat code.toNat)

/-- MATCH starts a rule search on its token with the 512-bit key of eight registers; with ACT and no rule found it writes 0 to
both result registers and goes on. LKUP starts a lookup in every table, and takes PORT for a CAN key whose port is no CAN
port; AESE and AESD start a block, or count in ksKeyDenied or ksStaleKey and end with the status that refuses it; MOR, MOW and
MOACK start an object operation on a bus port. LEAVE of 0 mW ends with OK and handle 0, a request that a budget can never take
with DENIED and handle 0; one of a half whose outputs are discarded counts in LsDebugDiscard and ends DENIED (log entry 22);
LEAVE with REL frees the grant and ends with OK. TNOW reads a time domain. TARM of a time already reached ends with OK, of one
too far with TOO_FAR, else arms. WAIT for idle tokens writes its predicate and goes on, else holds the hart. -/
def Obligations.AsynchronousInstructions : Prop :=
  ∀ (s : State) (h : Hart) (g : Guard) (tk : TokId),
    s.On →
  (∀ (rd ra : GReg) (set : Fin 16), ra.val + 8 ≤ 32 → rd.val + 2 ≤ 32 →
     s.dev.canIssue h g (spanRegs ra 8 ++ spanRegs rd 2) (some tk) = true →
       Runs (.matchKey h g rd ra set tk) s fun d => d = (s.dev.issued h).tokIssue h tk (.ruleSearch rd (s.dev.search h set (matchKeyOf (s.dev.rf h) ra)).1 (s.dev.search h set (matchKeyOf (s.dev.rf h) ra)).2)) ∧
  (∀ (n : Fin 64) (t : Fin 4) (rd ra : GReg) (set : Fin 16) (ecc : Ecc), h = .fe n t → ecc.failing = [] →
     (s.dev.thr n t).kind = .frame → (s.dev.thr n t).acted = none → ra.val + 8 ≤ 32 → rd.val + 2 ≤ 32 →
     s.dev.canIssue h g (spanRegs ra 8 ++ spanRegs rd 2) none = true →
     (s.dev.search h set (matchKeyOf (s.dev.rf h) ra)).1 = none →
       Runs (.matchAct h g rd ra set ecc) s fun d => d = ((s.dev.issued h).setRf h ((s.dev.rf h).putSpan rd [0, 0])).complete h id) ∧
  (∀ (rd ra : GReg) (table : Fin 16) (learn : Bool), table.val < 9 →
     learn = false ∨ (table = 0 ∧ s.dev.noFrame h = false) → ra.val + 2 ≤ 32 → rd.val + 2 ≤ 32 →
     (table.val = tblCan → 32 ≤ bits 38 32 ((s.dev.rf h).get ra).toNat ∧ bits 38 32 ((s.dev.rf h).get ra).toNat ≤ 79) →
     s.dev.canIssue h g (spanRegs ra 2 ++ spanRegs rd 2) (some tk) = true →
       Runs (.lkup h g rd ra table learn tk) s fun d => d = (s.dev.issued h).tokIssue h tk (.lookup rd table ((s.dev.rf h).get ra).toNat ((s.dev.rf h).get (ra + 1)).toNat learn)) ∧
  (∀ (rd ra : GReg), bits 38 32 ((s.dev.rf h).get ra).toNat < 32 ∨ 79 < bits 38 32 ((s.dev.rf h).get ra).toNat →
     ra.val + 2 ≤ 32 → rd.val + 2 ≤ 32 → s.dev.canIssue h g (spanRegs ra 2 ++ spanRegs rd 2) (some tk) = true →
       Runs (.lkup h g rd ra 4 false tk) s fun d => d = (s.dev.issued h).exc h 8) ∧
  (∀ (rd ra : GReg) (u k gen : Nat) (cmac dec : Bool), (u, cmac) = s.dev.actingUser h →
     k = bits 11 0 ((s.dev.rf h).get (ra + 2)).toNat → gen = bits 19 12 ((s.dev.rf h).get (ra + 2)).toNat →
     s.dev.blockRefused u k gen dec cmac = none → ra.val + 3 ≤ 32 → rd.val + 2 ≤ 32 →
     s.dev.canIssue h g (spanRegs ra 3 ++ spanRegs rd 2) (some tk) = true →
       Runs (if dec then .aesd h g rd ra tk else .aese h g rd ra tk) s fun d => d = (s.dev.issued h).tokIssue h tk
       (.cipher rd u k (packKey (atGen (s.dev.slotAttr k)) (s.dev.slotKey k)) dec (((s.dev.rf h).get ra).toNat * 2 ^ 64 + ((s.dev.rf h).get (ra + 1)).toNat) none)) ∧
  (∀ (rd ra : GReg) (u k gen st : Nat) (cmac dec : Bool), (u, cmac) = s.dev.actingUser h →
     k = bits 11 0 ((s.dev.rf h).get (ra + 2)).toNat → gen = bits 19 12 ((s.dev.rf h).get (ra + 2)).toNat →
     s.dev.blockRefused u k gen dec cmac = some st → ra.val + 3 ≤ 32 → rd.val + 2 ≤ 32 →
     s.dev.canIssue h g (spanRegs ra 3 ++ spanRegs rd 2) (some tk) = true →
       Runs (if dec then .aesd h g rd ra tk else .aese h g rd ra tk) s fun d => d = (if st = 3 then (s.dev.issued h).inc .ksKeyDenied 0 else (s.dev.issued h).inc .ksStaleKey 0).tokAtOnce h tk st) ∧
  (∀ (rd ra : GReg) (v : Nat), v = ((s.dev.rf h).get ra).toNat → 32 ≤ bits 38 32 v → bits 38 32 v ≤ 79 →
     rd.val + 9 ≤ 32 → s.dev.canIssue h g (ra.val :: spanRegs rd 9) (some tk) = true →
       (Runs (.mor h g rd ra tk) s fun d => d = (s.dev.issued h).tokIssue h tk (.object 0 rd (bits 38 32 v) (bits 30 29 v) (bits 28 0 v) [])) ∧
       (Runs (.mow h g rd ra tk) s fun d => d = (s.dev.issued h).tokIssue h tk (.object 1 0 (bits 38 32 v) (bits 30 29 v) (bits 28 0 v) ((spanRegs rd 9).map fun n => ((s.dev.rf h).get n).toNat))) ∧
       Runs (.moack h g ra tk) s fun d => d = (s.dev.issued h).tokIssue h tk (.object 2 0 (bits 38 32 v) (bits 30 29 v) (bits 28 0 v) [])) ∧
  (∀ (rd ra : GReg) (budget : Fin 4), ((s.dev.rf h).get ra).toNat % 65536 = 0 →
     s.dev.canIssue h g [rd, ra] (some tk) = true →
       Runs (.leave h g rd ra budget tk) s fun d => d = (s.dev.issued h).tokAtOnce h tk 0 fun r => r.put rd 0) ∧
  (∀ (rd ra : GReg) (budget : Fin 4), s.dev.shadowed h = false →
     s.dev.paBudget budget < ((s.dev.rf h).get ra).toNat % 65536 → s.dev.canIssue h g [rd, ra] (some tk) = true →
       Runs (.leave h g rd ra budget tk) s fun d => d = ((s.dev.issued h).inc .mdPaDenied 0).tokAtOnce h tk 4 fun r => r.put rd 0) ∧
  (∀ (rd ra : GReg) (budget : Fin 4), s.dev.shadowed h = false → ((s.dev.rf h).get ra).toNat % 65536 ≠ 0 →
     ((s.dev.rf h).get ra).toNat % 65536 ≤ s.dev.paBudget budget → (s.dev.acct budget).waiting.length < 64 →
     s.dev.canIssue h g [rd, ra] (some tk) = true →
       Runs (.leave h g rd ra budget tk) s fun d => d.rf h = { (s.dev.rf h).setTok tk { busy := true, op := some (.leave rd s.dev.paNext) } with pc := (s.dev.rf h).pc + BitVec.ofNat 64 (pcStep h) } ∧
       (d.acct budget).waiting = (s.dev.acct budget).waiting ++ [⟨.token (hartKey h) tk, ((s.dev.rf h).get ra).toNat % 65536, s.dev.paNext⟩] ∧ d.paNext = s.dev.paNext + 1) ∧
  (∀ (rd ra : GReg) (budget : Fin 4), s.dev.shadowed h = true → ((s.dev.rf h).get ra).toNat % 65536 ≠ 0 →
     s.dev.canIssue h g [rd, ra] (some tk) = true →
       Runs (.leave h g rd ra budget tk) s fun d => d = ((s.dev.issued h).inc .lsDebugDiscard 0).tokAtOnce h tk 4 fun r => r.put rd 0) ∧
  (∀ (ra : GReg), s.dev.shadowed h = false → s.dev.canIssue h g [ra] (some tk) = true →
       Runs (.leaveRel h g ra tk) s fun d => d = ((s.dev.issued h).leaveFree (((s.dev.rf h).get ra).toNat % 65536)).tokAtOnce h tk 0) ∧
  (∀ (rd : GReg) (td : Fin 4), s.dev.canIssue h g [rd] none = true →
       Runs (.tnow h g rd td) s fun d => d = (s.dev.issued h).complete h fun r => r.put rd (BitVec.ofNat 64 (s.dev.domNow td))) ∧
  (∀ (ra : GReg) (td : Fin 4) (rel : Bool) (due : Nat),
     due = (if rel then (s.dev.domNow td + ((s.dev.rf h).get ra).toNat) % 2 ^ 64 else ((s.dev.rf h).get ra).toNat) →
     s.dev.canIssue h g [ra] (some tk) = true →
       Runs (.tarm h g ra td rel tk) s fun d => d = (if due ≤ s.dev.domNow td then (s.dev.issued h).tokAtOnce h tk 0
       else if s.dev.domNow td + 1000 * s.dev.f feWaitTmo_TMO_US 0 < due then (s.dev.issued h).tokAtOnce h tk 5 else (s.dev.issued h).tokIssue h tk (.alarm td due))) ∧
  (∀ (tmask : BitVec 8) (pd : PReg), s.dev.canIssue h g [] none = true →
       Runs (.wait h g tmask pd) s fun d => d = (if maskIdle (s.dev.rf h) tmask.toNat then (s.dev.issued h).complete h fun r => r.pput pd (maskOk r tmask.toNat)
       else (s.dev.issued h).waitHold h tmask.toNat pd))

/-- On a hart that is READY: MATCH_DONE counts the rule that was hit, writes the two result words and ends the token with OK
or MISS; LKUP_DONE does the lookup with its learn and writes its words and status; AES_BLOCK_SCHEDULE gives the waiting block
to the usable core with the fewest blocks when it is this user's turn; AES_BLOCK_DONE counts the block of its core, writes the
AES result and ends with OK; MO_OP_DONE acts on the object, with NO_OBJECT when there is none; TARM_EXPIRY ends the armed
token with OK once its domain has reached the deadline, and does nothing before. A block of a core that has failed unseen ends
and counts the same way, whatever its result. -/
def Obligations.TokenCompletions : Prop :=
  ∀ (s : State) (h : Hart) (tk : TokId),
    s.On →
    s.dev.hartSt h = .ready →
  (∀ (ecc : Ecc) (rd n action : Nat), ecc.failing = [] → s.dev.shadowed h = false →
     s.dev.tokOp h tk = some (.ruleSearch rd (some n) action) →
       Runs (.matchDone h tk ecc) s fun d => d = (s.dev.inc .clsRuleHits n).tokEnd h tk 0 rd [2 ^ 63 + n, action]) ∧
  (∀ (ecc : Ecc) (rd action : Nat), ecc.failing = [] → s.dev.tokOp h tk = some (.ruleSearch rd none action) →
       Runs (.matchDone h tk ecc) s fun d => d = s.dev.tokEnd h tk 1 rd [0, 0]) ∧
  (∀ (ecc : Ecc) (rd table k0 k1 : Nat) (learn : Bool) (r : LookupResult) (d1 : Dev), s.dev.shadowed h = false →
     s.dev.tokOp h tk = some (.lookup rd table k0 k1 learn) →
     (s.dev.lookupEcc table (s.dev.hartEpoch h) ecc).lookupDo table (s.dev.hartEpoch h) k0 k1 (s.dev.hartLearn h learn) (!ecc.failing.isEmpty) = (r, d1) →
     r.status ≠ 8 → d1.hartSt h = .ready → d1.rf h = s.dev.rf h →
       Runs (.lkupDone h tk ecc) s fun d => d = d1.tokEnd h tk r.status rd [r.r0, r.r1]) ∧
  (∀ (rd u slot key block n : Nat) (dec : Bool), s.dev.tokOp h tk = some (.cipher rd u slot key dec block none) →
     s.dev.shadowed h = false → s.dev.coreFor u slot key = some n → s.dev.coreTurn n = some u →
       Runs (.aesBlockSchedule h tk) s fun d => d.rf h = (s.dev.rf h).setTok tk { busy := true, op := some (.cipher rd u slot key dec block (some n)) } ∧
       s.dev.Only d { parts := [.eng, .cx] }) ∧
  (∀ (rd u slot key block n : Nat) (dec : Bool), s.dev.shadowed h = false →
     s.dev.tokOp h tk = some (.cipher rd u slot key dec block (some n)) → s.dev.opOf (uAc n) = none →
     s.dev.cx.faulty.contains (s.dev.f idAcMap_PHYS n) = false →
       Runs (.aesBlockDone h tk) s fun d => d = ((s.dev.inc .cxCoreBlocks n).tokEnd h tk 0 rd [blockResult dec key block / 2 ^ 64, blockResult dec key block % 2 ^ 64]).drainEnd (uAc n)) ∧
  (∀ (rd u slot key block n : Nat) (dec : Bool), s.dev.shadowed h = false →
     s.dev.tokOp h tk = some (.cipher rd u slot key dec block (some n)) → s.dev.opOf (uAc n) = none →
     s.dev.cx.faulty.contains (s.dev.f idAcMap_PHYS n) = true →
       Runs (.aesBlockDone h tk) s fun d => d.ctr .cxCoreBlocks n = s.dev.ctr .cxCoreBlocks n + 1 ∧ (d.rf h).tokAt tk = { status := 0 }) ∧
  (∀ (kind rd chan fmt ident : Nat) (words : List Nat), s.dev.shadowed h = false →
     s.dev.tokOp h tk = some (.object kind rd chan fmt ident words) → s.dev.objFind chan fmt ident = none →
       Runs (.moOpDone h tk) s fun d => d = s.dev.tokEnd h tk 6 rd []) ∧
  (∀ (td due : Nat), s.dev.tokOp h tk = some (.alarm td due) → due ≤ s.dev.domNow td →
       Runs (.tarmExpiry h tk) s fun d => d = s.dev.tokEnd h tk 0 0 []) ∧
  (∀ (td due : Nat), s.dev.tokOp h tk = some (.alarm td due) → s.dev.domNow td < due →
       Runs (.tarmExpiry h tk) s fun d => d = s.dev)

/-- A permitted FE_LOAD or FE_FREE from a host domain, of no cluster, or while BUSY is 1 only counts in UnitRejWr of the
frame-engine unit. FE_LOAD of an image with a bad header ends with BAD_FORMAT or BAD_ISA, of a good image when no slot is free
in every named cluster with NO_SLOT, and changes only FeLoadStatus. FE_LOAD of a good image with a slot, a place and a layout
in every named cluster and no error ends with OK, shows BUSY and the slot, and in each named cluster the slot is LOADING with
the set number of the image. FE_LOAD_COPY_DONE makes each LOADING slot LOADED and clears BUSY. FE_FREE of a slot that some
named cluster does not hold LOADED ends with NOT_FREEABLE and that cluster; otherwise the slot is FREE in every named cluster.
-/
def Obligations.ProgramSetsLoadAndFree : Prop :=
  ∀ (s : State),
  (∀ (init : Initiator) (clusters : BitVec 8) (ecc : Ecc), s.On → s.dev.may init .feLoadCmd 0 = true →
     init ≠ 16 ∨ clusters = 0 ∨ s.dev.f feLoadStatus_BUSY 0 = 1 →
       Runs (.feLoad init clusters ecc) s fun d => d = s.dev.inc .unitRejWr uFe) ∧
  (∀ (init : Initiator) (clusters : BitVec 8) (slot : Fin 4), s.On → s.dev.may init .feLoadCmd 0 = true →
     init ≠ 16 ∨ clusters = 0 ∨ s.dev.f feLoadStatus_BUSY 0 = 1 →
       Runs (.feFree init clusters slot) s fun d => d = s.dev.inc .unitRejWr uFe) ∧
  (∀ (clusters : BitVec 8) (ecc : Ecc), s.On → s.dev.may 16 .feLoadCmd 0 = true → clusters ≠ 0 →
     s.dev.f feLoadStatus_BUSY 0 = 0 → s.dev.loadFormat = false → Runs (.feLoad 16 clusters ecc) s fun d =>
       (d.f feLoadStatus_RESULT 0 = 1 ∨ d.f feLoadStatus_RESULT 0 = 2) ∧ s.dev.Only d { regs := [(.feLoadStatus, 0)] }) ∧
  (∀ (clusters : BitVec 8) (ecc : Ecc), s.On → s.dev.may 16 .feLoadCmd 0 = true → clusters ≠ 0 →
     s.dev.f feLoadStatus_BUSY 0 = 0 → s.dev.loadFormat = true →
     (List.range 4).all (fun k => ((List.range 8).filter (fun c => clusters.getLsbD c)).any fun c => s.dev.slotState c k != 0) = true →
       Runs (.feLoad 16 clusters ecc) s fun d =>
       d.f feLoadStatus_RESULT 0 = 3 ∧ s.dev.Only d { regs := [(.feLoadStatus, 0)] }) ∧
  (∀ (clusters : BitVec 8) (ecc : Ecc) (k : Fin 4), s.On → s.dev.may 16 .feLoadCmd 0 = true → clusters ≠ 0 →
     s.dev.f feLoadStatus_BUSY 0 = 0 → ecc.failing = [] → s.dev.loadFormat = true →
     (List.range k).all (fun j => ((List.range 8).filter (fun c => clusters.getLsbD c)).any fun c => s.dev.slotState c j != 0) = true →
     ((List.range 8).filter (fun c => clusters.getLsbD c)).all (fun c => s.dev.slotState c k == 0 && (s.dev.storeFit c s.dev.loadHead.kib).isSome && s.dev.layoutOk c k s.dev.loadHead.layout) = true →
       Runs (.feLoad 16 clusters ecc) s fun d =>
       d.f feLoadStatus_RESULT 0 = 0 ∧ d.f feLoadStatus_SLOT 0 = k ∧ d.f feLoadStatus_BUSY 0 = 1 ∧
       (∀ c ∈ (List.range 8).filter (fun c => clusters.getLsbD c), d.slotState c k = 1 ∧ d.f feSetSlotState_SET_ID (4 * c + k) = s.dev.loadHead.setId) ∧
       s.dev.Only d { regs := [(.feLoadStatus, 0)], arrays := [.feSetSlotState, .feSetSlotPlace, .feSetSlotVersion, .feCsLayout], parts := [.eng, .mg, .free] }) ∧
  (s.On → Runs .feLoadCopyDone s fun d =>
       d.f feLoadStatus_BUSY 0 = 0 ∧ (∀ i ∈ List.range 32, d.f feSetSlotState_STATE i = if s.dev.f feSetSlotState_STATE i = 1 then 2 else s.dev.f feSetSlotState_STATE i) ∧
       s.dev.Only d { regs := [(.feLoadStatus, 0)], arrays := [.feSetSlotState] }) ∧
  (∀ (clusters : BitVec 8) (slot : Fin 4), s.On → s.dev.may 16 .feLoadCmd 0 = true → clusters ≠ 0 →
     s.dev.f feLoadStatus_BUSY 0 = 0 →
     ((List.range 8).filter (fun c => clusters.getLsbD c)).any (fun c => s.dev.slotState c slot != 2) = true →
       Runs (.feFree 16 clusters slot) s fun d =>
       d.f feLoadStatus_RESULT 0 = 6 ∧ s.dev.Only d { regs := [(.feLoadStatus, 0)] }) ∧
  (∀ (clusters : BitVec 8) (slot : Fin 4), s.On → s.dev.may 16 .feLoadCmd 0 = true → clusters ≠ 0 →
     s.dev.f feLoadStatus_BUSY 0 = 0 → s.dev.b lsSepiaCfg_EN 0 = false → s.dev.ep.txn = none →
     ((List.range 8).filter (fun c => clusters.getLsbD c)).all (fun c => s.dev.slotState c slot == 2) = true →
       Runs (.feFree 16 clusters slot) s fun d =>
       d.f feLoadStatus_RESULT 0 = 0 ∧ d.f feLoadStatus_SLOT 0 = slot ∧ (∀ c ∈ (List.range 8).filter (fun c => clusters.getLsbD c), d.slotState c slot = 0) ∧
       s.dev.Only d { regs := [(.feLoadStatus, 0)], arrays := [.feSetSlotState, .feSetSlotPlace, .feSetSlotVersion, .feSetSlotEpochs], parts := [.eng, .mg] })

/-- ETH_FRAME_RECEIVED on a port that does not receive, or in SLEEP, changes nothing; a frame that fails a check of R261
counts only in the counter of that check; a good plain frame is counted, then committed. DISPATCH takes the oldest frame of
the port's FIFO, or of the recirculation queue, and nothing when there is none. JOB_HANDOVER with no work does nothing.
SLOW_BUCKET_REFILL adds one frame to a limited queue's bucket up to BURST. ORDER_RELEASE sends the head of the port's order
list to each destination when it is committed; a head that is not resolved holds every later frame. ORDER_TIMEOUT of frames
that wait in a dispatch or recirculation queue takes each of them out, the several of a tunnel split too, drops it and counts
it in FeOrderExpired; of a frame that nothing holds it does nothing. A clause about a row that ends a frame is of a device
with no open transaction and no port held after RESUME of the BW die: a token that waits for the boundary applies there, and a
held port goes on. -/
def Obligations.FramePathCommands : Prop :=
  ∀ (s : State) (p : Fin 20),
    s.On →
  (∀ (x : EthRx), s.dev.inRecovery = false →
     s.dev.f ethMacCfg_RX_EN p = 0 ∨ s.dev.f ethIntf_INTF p = 0 ∨ s.dev.sleep.power = .sleep →
     s.dev.bus.bwHeld = [] → s.dev.bus.rxCut = [] → s.dev.bus.wakeCut = [] →
       Runs (.ethFrameReceived p x) s fun d => d = s.dev) ∧
  (∀ (x : EthRx) (k : Nat), s.dev.inRecovery = false → s.dev.sleep.power ≠ .sleep → s.dev.f ethMacCfg_RX_EN p = 1 →
     s.dev.f ethIntf_INTF p ≠ 0 → x.ecc = {} → x.frags = 0 → s.dev.ethRxError p x = some k →
     s.dev.bus.bwHeld = [] → s.dev.bus.rxCut = [] → s.dev.bus.wakeCut = [] →
       Runs (.ethFrameReceived p x) s fun d => d = (s.dev.bufEcc {}).ethInc p gRx k) ∧
  (∀ (x : EthRx), s.dev.inRecovery = false → s.dev.sleep.power ≠ .sleep → s.dev.f ethMacCfg_RX_EN p = 1 →
     s.dev.f ethIntf_INTF p ≠ 0 → x.ecc = {} → x.frags = 0 → s.dev.ethRxError p x = none →
     beAt x.bytes 12 2 ≠ 0x8808 → beAt x.bytes 12 2 ≠ 0x88B5 → s.dev.bus.bwHeld = [] → s.dev.bus.rxCut = [] →
     s.dev.bus.wakeCut = [] →
       Runs (.ethFrameReceived p x) s fun d => d = ((s.dev.bufEcc {}).ethRxCount p x.bytes).ethCommit p x) ∧
  (∀ (q : Fin 96) (fr : Frame) (rest : List Frame), q ≠ 25 →
     Sparse.get (fun _ => []) s.dev.path.rxFifo q.val = fr :: rest →
       Runs (.dispatch q) s fun d => d = { s.dev with path := { s.dev.path with rxFifo := Sparse.set (fun _ => []) s.dev.path.rxFifo q rest } }.dispatchFirst q fr) ∧
  (∀ (fr : Frame) (rest : List Frame), s.dev.path.recircQ = fr :: rest →
       Runs (.dispatch 25) s fun d => d = { s.dev with path := { s.dev.path with recircQ := rest } }.dispatchSecond fr) ∧
  (∀ (q : Fin 96), (if q = 25 then s.dev.path.recircQ else Sparse.get (fun _ => []) s.dev.path.rxFifo q.val) = [] →
       Runs (.dispatch q) s fun d => d = s.dev) ∧
  (∀ (c : Fin 8), s.dev.dispQ c = [] → Runs (.jobHandover c) s fun d => d = s.dev) ∧
  (∀ (c : Fin 8) (i : Nat) (w : Work) (n t : Nat), s.dev.nextWork c = some (i, w, n, t) →
     (s.dev.jobThread c w).2 = true → Runs (.jobHandover c) s fun d =>
       d.dispQ c = (s.dev.dispQ c).take i ++ (s.dev.dispQ c).drop (i + 1) ∧ d.thr n t = (s.dev.jobThread c w).1) ∧
  (∀ (q : Fin 4), s.dev.f feSlowQRate_RATE q ≠ 0 →
       Runs (.slowBucketRefill q) s fun d => d = s.dev.setSlowQ q { bucket := min (s.dev.f feSlowQRate_BURST q) ((s.dev.slowQ q).bucket + 1) }) ∧
  (∀ (q : Fin 4), s.dev.f feSlowQRate_RATE q = 0 → Runs (.slowBucketRefill q) s fun d => d = s.dev) ∧
  (∀ (r : Fin 96) (q : Nat) (fr : Frame) (rel : Release) (rest : List (Nat × OrderItem)),
     s.dev.orderOf r = (q, .committed fr [rel]) :: rest →
       Runs (.orderRelease r) s fun d => d = (s.dev.setOrder r (rest.dropWhile fun e => decide (e.2 = .dropped))).releaseTo fr rel) ∧
  (∀ (r : Fin 96) (q : Nat) (rest : List (Nat × OrderItem)),
     s.dev.orderOf r = (q, .waiting) :: rest ∨ s.dev.orderOf r = [] → Runs (.orderRelease r) s fun d => d = s.dev) ∧
  (∀ (r : Fin 96) (q : Word), s.dev.eng.threads = [] →
       Runs (.orderTimeout r q) s fun d => d.ctr .feOrderExpired 0 = s.dev.ctr .feOrderExpired 0 + (s.dev.seqWaiting r q.toNat).length ∧ d.seqWaiting r q.toNat = []) ∧
  (∀ (r : Fin 96) (q : Word) (fr : Frame), s.dev.path.recircQ.filter (ofSeq r q.toNat) = [fr] →
     s.dev.path.dispQ = [] → s.dev.eng.threads = [] →
       Runs (.orderTimeout r q) s fun d => d = ({ s.dev with path := { s.dev.path with recircQ := s.dev.path.recircQ.filter fun x => !ofSeq r q.toNat x } }.inc .feOrderExpired 0).dropFrame fr) ∧
  (∀ (r : Fin 96) (q : Word), s.dev.path.recircQ = [] → s.dev.path.dispQ = [] → s.dev.eng.threads = [] →
       Runs (.orderTimeout r q) s fun d => d = s.dev)

/-- A table command to a busy interface only counts in UnitRejWr; one for a table that its operation does not list ends
UNSUPPORTED. READ shows the entry in TbData. WRITE with VALID clear empties the location. INSERT of a key that the table holds
replaces its entry; INSERT of a new key into a hashed table takes the lowest free slot of its bucket in bank 0. DELETE empties
the key's location or ends NOT_FOUND. SEARCH shows the entry, or ends NOT_FOUND. Every other location holds what it held.
FLUSH_MATCH makes the interface busy; each FLUSH_VISIT removes the entry of its location when it matches, the last shows the
count. -/
def Obligations.TableCommands : Prop :=
  ∀ (s : State) (i : Fin 2) (t : Fin 16) (idx : BitVec 16),
    s.On →
  (s.dev.f tbCmd_BUSY i = 1 → ∀ e ∈ tbRows i t idx, Runs e.2 s fun d => d = s.dev.inc .unitRejWr uTb) ∧
  (s.dev.f tbCmd_BUSY i = 0 →
       ∀ e ∈ tbRows i t idx, (opTables e.1).contains t.val = false → Runs e.2 s fun d => d.tbShows i t 0 5 ∧ s.dev.Only d (Foot.tbIface i)) ∧
  (s.dev.f tbCmd_BUSY i = 0 → t = 1 ∨ t = 5 ∨ t = 6 ∨ t = 7 ∨ t = 8 → idx.toNat < tbSize t →
     s.dev.tbBad t idx.toNat = false → Runs (.tbRead i t idx {}) s fun d =>
       (∀ w ∈ List.range (tbWords t), d.rd .tbData (16 * i + w) = BitVec.ofNat 32 (s.dev.directView t idx.toNat / 2 ^ (32 * w))) ∧
       d.tbShows i t 0 0 ∧ s.dev.Only d (Foot.tbIface i)) ∧
  (s.dev.f tbCmd_BUSY i = 0 → t = 0 ∨ t = 2 ∨ t = 3 ∨ t = 4 ∨ t = 9 → idx.toNat < tbSize t →
     tbEnt (s.dev.tbCur t) idx.toNat ≠ 0 → s.dev.tbBad t idx.toNat = false → Runs (.tbRead i t idx {}) s fun d =>
       (∀ w ∈ List.range (tbWords t), d.rd .tbData (16 * i + w) = BitVec.ofNat 32 (tbEnt (s.dev.tbCur t) idx.toNat / 2 ^ (32 * w))) ∧
       d.tbShows i t 0 0 ∧ s.dev.Only d (Foot.tbIface i)) ∧
  (s.dev.f tbCmd_BUSY i = 0 → t = 0 ∨ t = 4 ∨ t = 9 → idx.toNat < tbSize t →
     bitAt (tbValidBit t) (s.dev.tbDataIn i t) = false → s.dev.tbMirrors t = false →
       Runs (.tbWrite i t idx) s fun d =>
       (∀ l, tbEnt (d.tbCur t) l = if l = idx.toNat then 0 else tbEnt (s.dev.tbCur t) l) ∧ d.tbShows i t idx.toNat 0 ∧ s.dev.Only d { Foot.tbIface i with parts := [.tab] }) ∧
  (∀ (k : Nat), s.dev.f tbCmd_BUSY i = 0 → (opTables 3).contains t.val = true →
     tbArgOk t (s.dev.tbDataIn i t) = true → s.dev.f tbCmdArg_ALT i = 0 →
     tbLocate t (s.dev.tbSeeds t) (s.dev.tbCur t) (insertEntry t (s.dev.tbDataIn i t)) = some k → k < 65536 →
     s.dev.tbMirrors t = false → Runs (.tbInsert i t idx) s fun d =>
       (∀ l, tbEnt (d.tbCur t) l = if l = k then (insertEntry t (s.dev.tbDataIn i t)) else tbEnt (s.dev.tbCur t) l) ∧ d.tbShows i t k 1 ∧ s.dev.Only d { Foot.tbIface i with parts := [.tab] }) ∧
  (∀ (k : Nat), s.dev.f tbCmd_BUSY i = 0 → t = 0 ∨ t = 4 → tbArgOk t (s.dev.tbDataIn i t) = true →
     s.dev.f tbCmdArg_ALT i = 0 →
     tbLocate t (s.dev.tbSeeds t) (s.dev.tbCur t) (insertEntry t (s.dev.tbDataIn i t)) = none →
     tbFree t (s.dev.tbCur t) (tbBucket t (s.dev.tbSeeds t) (insertEntry t (s.dev.tbDataIn i t)) 0) = some k →
     s.dev.tbMirrors t = false → Runs (.tbInsert i t idx) s fun d =>
       (∀ l, tbEnt (d.tbCur t) l = if l = k then (insertEntry t (s.dev.tbDataIn i t)) else tbEnt (s.dev.tbCur t) l) ∧ d.tbShows i t k 0 ∧ s.dev.Only d { Foot.tbIface i with parts := [.tab] }) ∧
  (∀ (k : Nat), s.dev.f tbCmd_BUSY i = 0 → t = 0 ∨ t = 4 → s.dev.f tbCmdArg_ALT i = 0 →
     tbLocate t (s.dev.tbSeeds t) (s.dev.tbCur t) (s.dev.tbDataIn i t) = some k → s.dev.tbMirrors t = false →
       Runs (.tbDelete i t idx) s fun d =>
       (∀ l, tbEnt (d.tbCur t) l = if l = k then 0 else tbEnt (s.dev.tbCur t) l) ∧ d.tbShows i t k 0 ∧ s.dev.Only d { Foot.tbIface i with parts := [.tab] }) ∧
  (s.dev.f tbCmd_BUSY i = 0 → t = 0 ∨ t = 4 → s.dev.f tbCmdArg_ALT i = 0 →
     tbLocate t (s.dev.tbSeeds t) (s.dev.tbCur t) (s.dev.tbDataIn i t) = none →
       Runs (.tbDelete i t idx) s fun d => d.tbShows i t 0 2 ∧ s.dev.Only d (Foot.tbIface i)) ∧
  (∀ (k : Nat), s.dev.f tbCmd_BUSY i = 0 → t = 0 ∨ t = 4 → k < 65536 →
     tbLocate t (s.dev.tbSeeds t) (s.dev.tbCur t) (s.dev.tbDataIn i t) = some k → s.dev.tbBad t k = false →
       Runs (.tbSearch i t idx {}) s fun d =>
       (∀ w ∈ List.range (tbWords t), d.rd .tbData (16 * i + w) = BitVec.ofNat 32 (tbEnt (s.dev.tbCur t) k / 2 ^ (32 * w))) ∧
       d.tbShows i t k 0 ∧ s.dev.Only d (Foot.tbIface i)) ∧
  (s.dev.f tbCmd_BUSY i = 0 → t = 0 ∨ t = 4 →
     tbLocate t (s.dev.tbSeeds t) (s.dev.tbCur t) (s.dev.tbDataIn i t) = none → s.dev.tab.bad = [] →
       Runs (.tbSearch i t idx {}) s fun d => d.tbShows i t 0 2 ∧ s.dev.Only d (Foot.tbIface i)) ∧
  (s.dev.f tbCmd_BUSY i = 0 → t = 0 ∨ t = 4 → s.dev.f tbCmdArg_FLUSH_Q i = 0 → Runs (.flushMatch i t idx) s fun d =>
       d.f tbCmd_BUSY i = 1 ∧ d.tab = { s.dev.tab with flushes := s.dev.tab.flushes ++ [⟨i, t, 0, 0⟩] } ∧ s.dev.Only d { regs := [(.tbCmd, i)], parts := [.tab] }) ∧
  (∀ (x : Flush), s.dev.tab.flushes.find? (fun y => y.iface == i.val) = some x → x.table = 0 ∨ x.table = 4 →
     s.dev.tbMirrors x.table = false → Runs (.flushVisit i) s fun d =>
       (∀ l, tbEnt (d.tbCur x.table) l = if l = x.pos ∧ flushMatches x.table (s.dev.rd .tbCmdArg i).toNat (tbEnt (s.dev.tbCur x.table) x.pos) = true then 0 else tbEnt (s.dev.tbCur x.table) l) ∧
       (x.pos + 1 = tbSize x.table → d.f tbCmd_BUSY i = 0 ∧ d.f tbCmdStatus_RESULT i = 0) ∧
       s.dev.Only d { regs := [(.tbCmd, i), (.tbCmdStatus, i), (.tbCmdCount, i)], parts := [.tab] }) ∧
  (s.dev.tab.flushes = [] → Runs (.flushVisit i) s fun d => d = s.dev)

/-- SWEEP_NOW with no pass running starts a pass at location 0 and ends with OK, while one runs with BG_BUSY. REHASH and
REBUILD with another background operation of the table running end with BG_BUSY; else their request for power goes to the
VCORE account and the interface stays busy, or ends with NO_POWER at once where the budget can never take it or 64 requests
wait, the denial counted. REHASH_PLACEMENT_DONE and REBUILD_COPY_DONE of a table that builds nothing change nothing; of one
that builds, the new version waits for its commit, or is held open. REBUILD_COMMIT of no open copy ends with BAD_ARG, of an
open copy makes it wait for the commit. BG_ABORT with nothing going on ends with OK and changes no table. -/
def Obligations.BackgroundTableWork : Prop :=
  ∀ (s : State) (i : Fin 2) (t : Fin 16) (idx : BitVec 16),
    s.On →
  (s.dev.f tbCmd_BUSY i = 0 → s.dev.tab.sweep = none →
       Runs (.sweepNow i 0 idx) s fun d => d.tbShows i 0 0 0 ∧ d.tab = { s.dev.tab with sweep := some 0 } ∧ d.f tbBgStatus_BUSY 0 = 1) ∧
  (s.dev.f tbCmd_BUSY i = 0 → s.dev.tab.sweep ≠ none →
       Runs (.sweepNow i 0 idx) s fun d => d.tbShows i 0 0 6 ∧ s.dev.Only d (Foot.tbIface i)) ∧
  (s.dev.f tbL2Cfg_SWEEP_S 0 ≠ 0 → s.dev.tab.sweep = none →
       Runs .sweepPassStart s fun d => d.tab = { s.dev.tab with sweep := some 0 } ∧ s.dev.Only d { regs := [(.tbBgStatus, 0)], parts := [.tab] }) ∧
  (s.dev.f tbL2Cfg_SWEEP_S 0 = 0 ∨ s.dev.tab.sweep ≠ none → Runs .sweepPassStart s fun d => d = s.dev) ∧
  (s.dev.f tbCmd_BUSY i = 0 → t = 0 ∨ t = 4 ∨ t = 9 → s.dev.bgTaken t = true →
       Runs (.rehash i t idx) s fun d => d.tbShows i t 0 6 ∧ s.dev.Only d (Foot.tbIface i)) ∧
  (s.dev.f tbCmd_BUSY i = 0 → t = 2 ∨ t = 3 → s.dev.bgTaken t = true →
       Runs (.rebuild i t idx) s fun d => d.tbShows i t 0 6 ∧ s.dev.Only d (Foot.tbIface i)) ∧
  (s.dev.f tbCmd_BUSY i = 0 → t = 0 ∨ t = 4 ∨ t = 9 → s.dev.bgTaken t = false →
     (s.dev.paRequest 0 (.rehash t) 450).1 ≠ none → Runs (.rehash i t idx) s fun d =>
       (d.tb t).stage = 1 ∧ (d.tb t).cur = (s.dev.tb t).cur ∧ d.f tbCmd_BUSY i = 1 ∧ s.dev.Only d { regs := [(.tbCmd, i)], arrays := [.mdPaBudget, .mdPaWait], parts := [.tab, .pa, .paNext] }) ∧
  (s.dev.f tbCmd_BUSY i = 0 → t = 2 ∨ t = 3 → s.dev.bgTaken t = false →
     (s.dev.paRequest 0 (.rebuild t) 300).1 ≠ none → Runs (.rebuild i t idx) s fun d =>
       (d.tb t).stage = 1 ∧ (d.tb t).cur = (s.dev.tb t).cur ∧ d.f tbCmd_BUSY i = 1 ∧ s.dev.Only d { regs := [(.tbCmd, i)], arrays := [.mdPaBudget, .mdPaWait], parts := [.tab, .pa, .paNext] }) ∧
  (s.dev.f tbCmd_BUSY i = 0 → t = 0 ∨ t = 4 ∨ t = 9 → s.dev.bgTaken t = false →
     s.dev.paBudget 0 < 450 ∨ 64 ≤ (s.dev.acct 0).waiting.length →
       Runs (.rehash i t idx) s fun d => d.tbShows i t 0 resNoPower ∧ (d.tb t).stage = 0 ∧ d.ctr .mdPaDenied 0 = s.dev.ctr .mdPaDenied 0 + 1 ∧ s.dev.Only d { Foot.tbIface i with ctrs := [(.mdPaDenied, 0)] }) ∧
  (s.dev.f tbCmd_BUSY i = 0 → t = 2 ∨ t = 3 → s.dev.bgTaken t = false →
     s.dev.paBudget 0 < 300 ∨ 64 ≤ (s.dev.acct 0).waiting.length →
       Runs (.rebuild i t idx) s fun d => d.tbShows i t 0 resNoPower ∧ (d.tb t).stage = 0 ∧ d.ctr .mdPaDenied 0 = s.dev.ctr .mdPaDenied 0 + 1 ∧ s.dev.Only d { Foot.tbIface i with ctrs := [(.mdPaDenied, 0)] }) ∧
  ((s.dev.tb t).stage ≠ 2 ∨ isLpm t = true → Runs (.rehashPlacementDone t) s fun d => d = s.dev) ∧
  (∀ (m : Sparse Nat), t = 0 ∨ t = 4 ∨ t = 9 → (s.dev.tb t).stage = 2 →
     placeAll t (s.dev.seedPair .tbSeedNew t) s.dev.maxReloc (s.dev.tbCur t) [] = some m → s.dev.ep.txn ≠ none →
       Runs (.rehashPlacementDone t) s fun d => (d.tb t).stage = 3 ∧ (d.tb t).cur = (s.dev.tb t).cur ∧
       (d.tb t).alt = some { ents := m, seed0 := (s.dev.seedPair .tbSeedNew t).1, seed1 := (s.dev.seedPair .tbSeedNew t).2 }) ∧
  ((s.dev.tb t).stage ≠ 2 ∨ isLpm t = false → Runs (.rebuildCopyDone t) s fun d => d = s.dev) ∧
  (t = 2 ∨ t = 3 → (s.dev.tb t).stage = 2 → (s.dev.tb t).hold = true →
       Runs (.rebuildCopyDone t) s fun d => (d.tb t).stage = 4 ∧ (d.tb t).cur = (s.dev.tb t).cur ∧ (d.tb t).alt = some { ents := lpmCompact (s.dev.tbCur t) } ∧ d.f tbBgStatus_OPEN t = 1) ∧
  (s.dev.f tbCmd_BUSY i = 0 → t = 2 ∨ t = 3 → (s.dev.tb t).stage ≠ 4 →
       Runs (.rebuildCommit i t idx) s fun d => d.tbShows i t 0 4 ∧ s.dev.Only d (Foot.tbIface i)) ∧
  (s.dev.f tbCmd_BUSY i = 0 → t = 2 ∨ t = 3 → (s.dev.tb t).stage = 4 → s.dev.ep.txn ≠ none →
       Runs (.rebuildCommit i t idx) s fun d => d.tbShows i t 0 0 ∧ (d.tb t).stage = 3 ∧ (d.tb t).alt = (s.dev.tb t).alt ∧ d.f tbBgStatus_OPEN t = 0) ∧
  (s.dev.f tbCmd_BUSY i = 0 → (opTables 11).contains t.val = true → (t = 0 → s.dev.tab.sweep = none) →
     (s.dev.tb t).stage = 0 → (t = 9 → (s.dev.tb 3).stage = 0) →
       Runs (.bgAbort i t idx) s fun d => d.tbShows i t 0 0 ∧ s.dev.Only d (Foot.tbIface i)) ∧
  (s.dev.f tbCmd_BUSY i = 0 → s.dev.tab.sweep ≠ none → (s.dev.tb 0).stage = 0 →
       Runs (.bgAbort i 0 idx) s fun d => d.tbShows i 0 0 0 ∧ d.tab = { s.dev.tab with sweep := none } ∧ d.f tbBgStatus_RESULT 0 = 12)

/-- LEARN_APPLY takes the learn at the head. A new key is inserted with its port and stamp and counted, unless its port is at
its limit. A static entry of another port, a locked entry, and a stamp not later outside the flap window only count. A later
stamp of another port outside the window moves the entry; within the window the entry takes the port of the earlier stamp and
that stamp, is locked with a lock record, and the flap is counted. The same port keeps the earlier stamp. LOCK_EXPIRY unlocks
the entry of its record. A key for which no slot is found counts in TbNoRoom with its event. SWEEP_VISIT removes an aged entry
not hit since and counts it, clears HIT and AGED of one that was hit, sets AGED of one that was not, and goes to the next
location; with no pass running it does nothing. -/
def Obligations.LearnAndAge : Prop :=
  ∀ (s : State) (x : Learn) (q : List Learn),
    s.On →
  (s.dev.tab.learnQ = [] → Runs .learnApply s fun d => d = s.dev) ∧
  (s.dev.tab.learnQ = x :: q → tbFind 0 (s.dev.tbSeeds 0) (s.dev.tbCur 0) x.key = none →
     24 < x.port ∨ s.dev.f tbL2PortCfg_LIMIT x.port = 0 ∨ s.dev.l2Dyn x.port < s.dev.f tbL2PortCfg_LIMIT x.port →
     (tbPlace 0 (s.dev.tbSeeds 0) s.dev.maxReloc (s.dev.tbCur 0) (x.key % 2 ^ 60 + x.port % 128 * 2 ^ 64 + 2 ^ 73 + 2 ^ 79 + x.stamp % 2 ^ 32 * 2 ^ 96)).isSome = true →
       Runs .learnApply s fun d => d = ({ s.dev with tab := { s.dev.tab with learnQ := q } }.tbInsertNew 0 (x.key % 2 ^ 60 + x.port % 128 * 2 ^ 64 + 2 ^ 73 + 2 ^ 79 + x.stamp % 2 ^ 32 * 2 ^ 96)).2.inc .tbLearnNew 0 ∧
       d.ctr .tbLearnNew 0 = s.dev.ctr .tbLearnNew 0 + 1) ∧
  (∀ (r : Sparse Nat × Nat), s.dev.tab.learnQ = x :: q → tbFind 0 (s.dev.tbSeeds 0) (s.dev.tbCur 0) x.key = none →
     24 < x.port ∨ s.dev.f tbL2PortCfg_LIMIT x.port = 0 →
     tbPlace 0 (s.dev.tbSeeds 0) s.dev.maxReloc (s.dev.tbCur 0) (x.key % 2 ^ 60 + x.port % 128 * 2 ^ 64 + 2 ^ 73 + 2 ^ 79 + x.stamp % 2 ^ 32 * 2 ^ 96) = some r →
     Sparse.wf (fun _ => 0) (s.dev.tbCur 0) = true → (s.dev.tb 0).alt = none →
       Runs .learnApply s fun d => d.tbCur 0 = r.1 ∧ tbEnt r.1 r.2 = (x.key % 2 ^ 60 + x.port % 128 * 2 ^ 64 + 2 ^ 73 + 2 ^ 79 + x.stamp % 2 ^ 32 * 2 ^ 96)) ∧
  (s.dev.tab.learnQ = x :: q → tbFind 0 (s.dev.tbSeeds 0) (s.dev.tbCur 0) x.key = none →
     24 < x.port ∨ s.dev.f tbL2PortCfg_LIMIT x.port = 0 →
     tbPlace 0 (s.dev.tbSeeds 0) s.dev.maxReloc (s.dev.tbCur 0) (x.key % 2 ^ 60 + x.port % 128 * 2 ^ 64 + 2 ^ 73 + 2 ^ 79 + x.stamp % 2 ^ 32 * 2 ^ 96) = none →
       Runs .learnApply s fun d => d = { s.dev with tab := { s.dev.tab with learnQ := q } }.tbNoRoom 0 ∧ d.ctr .tbNoRoom 0 = s.dev.ctr .tbNoRoom 0 + 1) ∧
  (s.dev.tab.learnQ = x :: q → tbFind 0 (s.dev.tbSeeds 0) (s.dev.tbCur 0) x.key = none → x.port ≤ 24 →
     s.dev.f tbL2PortCfg_LIMIT x.port ≠ 0 → s.dev.f tbL2PortCfg_LIMIT x.port ≤ s.dev.l2Dyn x.port →
       Runs .learnApply s fun d => d = { s.dev with tab := { s.dev.tab with learnQ := q } }.inc .tbLearnLimit 0) ∧
  (∀ (k : Nat), s.dev.tab.learnQ = x :: q → tbFind 0 (s.dev.tbSeeds 0) (s.dev.tbCur 0) x.key = some k →
     l2Static (tbEnt (s.dev.tbCur 0) k) = true → l2Port (tbEnt (s.dev.tbCur 0) k) ≠ x.port →
       Runs .learnApply s fun d => d = { s.dev with tab := { s.dev.tab with learnQ := q } }.inc .tbLearnStatic 0) ∧
  (∀ (k : Nat), s.dev.tab.learnQ = x :: q → tbFind 0 (s.dev.tbSeeds 0) (s.dev.tbCur 0) x.key = some k →
     l2Static (tbEnt (s.dev.tbCur 0) k) = false → l2Locked (tbEnt (s.dev.tbCur 0) k) = true →
     l2Port (tbEnt (s.dev.tbCur 0) k) ≠ x.port →
       Runs .learnApply s fun d => d = { s.dev with tab := { s.dev.tab with learnQ := q } }.inc .tbLearnLocked 0) ∧
  (∀ (k : Nat), s.dev.tab.learnQ = x :: q → tbFind 0 (s.dev.tbSeeds 0) (s.dev.tbCur 0) x.key = some k →
     (s.dev.tb 0).alt = none → x.port < 128 → x.stamp < 2 ^ 32 → l2Static (tbEnt (s.dev.tbCur 0) k) = false →
     l2Locked (tbEnt (s.dev.tbCur 0) k) = false → l2Port (tbEnt (s.dev.tbCur 0) k) ≠ x.port →
     0 < stampDiff x.stamp (l2Stamp (tbEnt (s.dev.tbCur 0) k)) →
     s.dev.f tbL2Cfg_FLAP_WIN_US 0 * 1000 ≤ (stampDiff x.stamp (l2Stamp (tbEnt (s.dev.tbCur 0) k))).natAbs * 1024 →
       Runs .learnApply s fun d =>
       d.ctr .tbLearnMove 0 = s.dev.ctr .tbLearnMove 0 + 1 ∧ l2Port (tbEnt (d.tbCur 0) k) = x.port ∧ l2Stamp (tbEnt (d.tbCur 0) k) = x.stamp ∧
       s.dev.Only d { ctrs := [(.tbLearnMove, 0)], parts := [.tab] }) ∧
  (∀ (k : Nat), s.dev.tab.learnQ = x :: q → tbFind 0 (s.dev.tbSeeds 0) (s.dev.tbCur 0) x.key = some k →
     l2Static (tbEnt (s.dev.tbCur 0) k) = false → l2Locked (tbEnt (s.dev.tbCur 0) k) = false →
     l2Port (tbEnt (s.dev.tbCur 0) k) ≠ x.port → stampDiff x.stamp (l2Stamp (tbEnt (s.dev.tbCur 0) k)) ≤ 0 →
     s.dev.f tbL2Cfg_FLAP_WIN_US 0 * 1000 ≤ (stampDiff x.stamp (l2Stamp (tbEnt (s.dev.tbCur 0) k))).natAbs * 1024 →
       Runs .learnApply s fun d => d = { s.dev with tab := { s.dev.tab with learnQ := q } }.inc .tbLearnStale 0) ∧
  (∀ (k : Nat), s.dev.tab.learnQ = x :: q → tbFind 0 (s.dev.tbSeeds 0) (s.dev.tbCur 0) x.key = some k →
     (s.dev.tb 0).alt = none → x.stamp < 2 ^ 32 → l2Static (tbEnt (s.dev.tbCur 0) k) = false →
     l2Port (tbEnt (s.dev.tbCur 0) k) = x.port →
       Runs .learnApply s fun d => l2Stamp (tbEnt (d.tbCur 0) k) = (if stampDiff x.stamp (l2Stamp (tbEnt (s.dev.tbCur 0) k)) < 0 then x.stamp else l2Stamp (tbEnt (s.dev.tbCur 0) k)) ∧
       l2Port (tbEnt (d.tbCur 0) k) = x.port ∧ s.dev.Only d { parts := [.tab] }) ∧
  (∀ (k : Nat), s.dev.tab.learnQ = x :: q → tbFind 0 (s.dev.tbSeeds 0) (s.dev.tbCur 0) x.key = some k →
     (s.dev.tb 0).alt = none → x.port < 128 → x.stamp < 2 ^ 32 → s.dev.tab.locks.length < 256 →
     tbIdent 0 (tbEnt (s.dev.tbCur 0) k) = x.key → l2Static (tbEnt (s.dev.tbCur 0) k) = false →
     l2Locked (tbEnt (s.dev.tbCur 0) k) = false → l2Port (tbEnt (s.dev.tbCur 0) k) ≠ x.port →
     (stampDiff x.stamp (l2Stamp (tbEnt (s.dev.tbCur 0) k))).natAbs * 1024 < s.dev.f tbL2Cfg_FLAP_WIN_US 0 * 1000 →
       Runs .learnApply s fun d =>
       d.ctr .tbLearnFlap 0 = s.dev.ctr .tbLearnFlap 0 + 1 ∧ l2Locked (tbEnt (d.tbCur 0) k) = true ∧ d.tab.locks = s.dev.tab.locks ++ [x.key] ∧
       l2Port (tbEnt (d.tbCur 0) k) = (if stampDiff x.stamp (l2Stamp (tbEnt (s.dev.tbCur 0) k)) < 0 then x.port else l2Port (tbEnt (s.dev.tbCur 0) k)) ∧
       l2Stamp (tbEnt (d.tbCur 0) k) = (if stampDiff x.stamp (l2Stamp (tbEnt (s.dev.tbCur 0) k)) < 0 then x.stamp else l2Stamp (tbEnt (s.dev.tbCur 0) k)) ∧
       s.dev.Only d { ctrs := [(.tbLearnFlap, 0)], parts := [.tab], events := true }) ∧
  (∀ (key : BitVec 60), s.dev.tab.locks = [] → Runs (.lockExpiry key) s fun d => d = s.dev) ∧
  (∀ (key : BitVec 60) (k : Nat), key.toNat ∈ s.dev.tab.locks →
     tbFind 0 (s.dev.tbSeeds 0) (s.dev.tbCur 0) key.toNat = some k → (s.dev.tb 0).alt = none →
       Runs (.lockExpiry key) s fun d => l2Locked (tbEnt (d.tbCur 0) k) = false ∧ d.tab.locks = s.dev.tab.locks.filter (· != key.toNat) ∧ s.dev.Only d { parts := [.tab] }) ∧
  (s.dev.tab.sweep = none → Runs (.sweepVisit {}) s fun d => d = s.dev) ∧
  (∀ (k : Nat), s.dev.tab.sweep = some k → k < 65535 → tbEnt (s.dev.tbCur 0) k = 0 → s.dev.tbBad 0 k = false →
       Runs (.sweepVisit {}) s fun d => d.tab = { s.dev.tab with sweep := some (k + 1) } ∧ s.dev.Only d { parts := [.tab] }) ∧
  (∀ (k : Nat), s.dev.tab.sweep = some k → k < 65535 → tbEnt (s.dev.tbCur 0) k ≠ 0 →
     l2Static (tbEnt (s.dev.tbCur 0) k) = false → l2Hit (tbEnt (s.dev.tbCur 0) k) = false →
     l2Aged (tbEnt (s.dev.tbCur 0) k) = true → s.dev.tbBad 0 k = false → (s.dev.tb 0).alt = none →
       Runs (.sweepVisit {}) s fun d =>
       tbEnt (d.tbCur 0) k = 0 ∧ d.ctr .tbAged 0 = s.dev.ctr .tbAged 0 + 1 ∧ d.tab.sweep = some (k + 1) ∧ s.dev.Only d { ctrs := [(.tbAged, 0)], parts := [.tab] }) ∧
  (∀ (k : Nat), s.dev.tab.sweep = some k → k < 65535 → tbEnt (s.dev.tbCur 0) k ≠ 0 →
     l2Static (tbEnt (s.dev.tbCur 0) k) = false →
     l2Hit (tbEnt (s.dev.tbCur 0) k) = true ∨ l2Aged (tbEnt (s.dev.tbCur 0) k) = false → s.dev.tbBad 0 k = false →
     (s.dev.tb 0).alt = none → stampDiff s.dev.stampNow (l2Stamp (tbEnt (s.dev.tbCur 0) k)) ≤ 2 ^ 29 →
     Sparse.wf (fun _ => 0) (s.dev.tbCur 0) = true → Runs (.sweepVisit {}) s fun d =>
       tbEnt (d.tbCur 0) k = (if l2Hit (tbEnt (s.dev.tbCur 0) k) then setBits 74 73 0 (tbEnt (s.dev.tbCur 0) k) else setBits 74 74 1 (tbEnt (s.dev.tbCur 0) k)) ∧ d.tab.sweep = some (k + 1) ∧ s.dev.Only d { parts := [.tab] })

/-- LINK_LOST of an awake CAN port that is up and has no frame on its bus makes it hold its frames while LL_HOLD_MS is not 0,
else down with its queues flushed and the flush counted. LINK_HOLD_EXPIRY takes a holding port of a segment that is awake down
with the same flush. LINK_RESTORED of a CAN port brings STATE to up. A LIN port and the management port lose no link.
PORT_QUEUE_FLUSH removes each frame of the port's eight queues while no frame is on its wire, and waits for the end of the
frame otherwise. RESIDENCE_SCAN of empty queues changes nothing. FIFO_POINTER_ECC_ERROR counts the reset and reports a memory
error. MIRROR_SESSION_WRITE stores a session's word or only counts it as rejected. A clause about a row that ends a frame is
of a device with no open transaction and no port held after RESUME of the BW die: a token that waits for the boundary applies
there, and a held port goes on. -/
def Obligations.LinksAndQueues : Prop :=
  ∀ (s : State) (p : Fin 96),
    s.On →
  (32 ≤ p → p < 80 → s.dev.portAsleep p = false → s.dev.f bqPortCfg_STATE p = 0 → (s.dev.can (p - 32)).cur = none →
     s.dev.f bqPortCfg_LL_HOLD_MS p ≠ 0 → s.dev.ep.txn = none → s.dev.bus.bwHeld = [] →
       Runs (.linkLost p) s fun d => d.f bqPortCfg_STATE p = 1 ∧ s.dev.Only d { regs := [(.bqPortCfg, p)] }) ∧
  (32 ≤ p → p < 80 → s.dev.portAsleep p = false → s.dev.f bqPortCfg_STATE p = 0 → (s.dev.can (p - 32)).cur = none →
     s.dev.f bqPortCfg_LL_HOLD_MS p = 0 → s.dev.ep.txn = none → s.dev.bus.bwHeld = [] →
       Runs (.linkLost p) s fun d => d.f bqPortCfg_STATE p = 2 ∧ d.ctr .bqPortFlushes p = s.dev.ctr .bqPortFlushes p + 1 ∧ (∀ c ∈ List.range 8, d.queue (qNo p c) = [])) ∧
  (80 ≤ p ∨ (20 ≤ p ∧ p < 32) → s.dev.ep.txn = none → s.dev.bus.bwHeld = [] →
       ∀ c ∈ [Instr.linkLost p, .linkRestored p 0], Runs c s fun d => d = s.dev) ∧
  (32 ≤ p → p < 80 → s.dev.portAsleep p = true ∨ s.dev.f bqPortCfg_STATE p ≠ 0 → s.dev.ep.txn = none →
     s.dev.bus.bwHeld = [] → Runs (.linkLost p) s fun d => d = s.dev) ∧
  (s.dev.f bqPortCfg_STATE p = 1 → s.dev.portAsleep p = false →
       Runs (.linkHoldExpiry p) s fun d => d.f bqPortCfg_STATE p = 2 ∧ d.ctr .bqPortFlushes p = s.dev.ctr .bqPortFlushes p + 1 ∧ (∀ c ∈ List.range 8, d.queue (qNo p c) = [])) ∧
  (s.dev.f bqPortCfg_STATE p ≠ 1 ∨ s.dev.portAsleep p = true → Runs (.linkHoldExpiry p) s fun d => d = s.dev) ∧
  (32 ≤ p → p < 80 →
       Runs (.linkRestored p 0) s fun d => d.f bqPortCfg_STATE p = 0 ∧ s.dev.Only d { regs := [(.bqPortCfg, p)] }) ∧
  (s.dev.sending p = false → ((s.dev.queue (qNo p 0)).all fun x => !x.held && x.ts.isNone) = true →
       Runs (.portQueueFlush p) s fun d => (∀ c ∈ List.range 8, d.queue (qNo p c) = []) ∧ d.ctr .bqQCells (qNo p 0) = s.dev.ctr .bqQCells (qNo p 0) - BitVec.ofNat 48 ((s.dev.queue (qNo p 0)).map (·.cells)).sum) ∧
  (s.dev.sending p = true →
       Runs (.portQueueFlush p) s fun d => d = { s.dev with buf := { s.dev.buf with flushAfter := p :: s.dev.buf.flushAfter.filter (· != p.val) } }) ∧
  (s.dev.buf.queues = [] → Runs .residenceScan s fun d => d = s.dev) ∧
  (∀ (x : QFrame), s.dev.buf.queues = [(qNo p 0, [x])] → s.dev.residenceOver (qNo p 0) x = true → x.ts = none →
       Runs .residenceScan s fun d => d.queue (qNo p 0) = [] ∧ d.ctr .bqQResDrop (qNo p 0) = s.dev.ctr .bqQResDrop (qNo p 0) + 1) ∧
  (∀ (tx : Bool), tx = true → p < 32 ∨ 80 ≤ p →
       Runs (.fifoPointerEccError ⟨p, tx⟩) s fun d => d = (s.dev.inc .bqPortFifoReset p).memoryError 15 0 0) ∧
  (
       Runs (.fifoPointerEccError ⟨p, false⟩) s fun d => d.ctr .bqPortFifoReset p = s.dev.ctr .bqPortFifoReset p + 1 ∧ d.bus.rxCut = p.val :: s.dev.bus.rxCut.filter (· != p.val) ∧ d.buf = s.dev.buf) ∧
  (∀ (n : Fin 8) (v : Word),
     bits 29 28 v.toNat = 3 ∨ 19 < bits 19 13 v.toNat ∨ emitPort (bits 26 20 v.toNat) = false →
       Runs (.mirrorSessionWrite n 0 v) s fun d => d = s.dev.inc .unitRejWr uBq) ∧
  (∀ (n : Fin 8) (v : Word), bits 29 28 v.toNat ≠ 3 → bits 19 13 v.toNat ≤ 19 →
     emitPort (bits 26 20 v.toNat) = true → bits 26 20 v.toNat < 32 ∨ v.getLsbD 27 = true →
       Runs (.mirrorSessionWrite n 0 v) s fun d =>
       d.f bqMirrorCfg_ENABLE n = bits 31 31 v.toNat ∧ d.f bqMirrorCfg_SRC_KIND n = bits 29 28 v.toNat ∧ d.f bqMirrorCfg_SRC_PORT n = bits 26 20 v.toNat ∧
       d.f bqMirrorCfg_DEST_PORT n = bits 19 13 v.toNat ∧ s.dev.Only d { regs := [(.bqMirrorCfg, n)], parts := [.buf] }) ∧
  (∀ (n : Fin 8) (v : Word), bits 13 0 v.toNat ≤ 9728 →
       Runs (.mirrorSessionWrite n 1 v) s fun d => d.f bqMirrorSample_SAMPLE_N n = max 1 (bits 31 16 v.toNat) ∧ s.dev.Only d { regs := [(.bqMirrorSample, n)] })

/-- RULE_WINDOW_WRITE of a rule that is not VALID, in a set that no old epoch drains, stores its word: a key word, a mask
word, an action word with its reserved bits 0, or the control word; an action that may not be written only counts as rejected;
while the rule is VALID every word but a control word that clears VALID only counts as rejected. STREAM_GATE_ENTRY_START of a
gate with a list shows the entry's OPEN and octet limit and goes to the next entry; a gate without a list has none.
STREAM_GATE_BASE_WRITE stores the base or its domain and restarts every gate; nanoseconds above 999,999,999 only count as
rejected. SEQ_RECOVERY_RESET of a function with a history takes any next number and counts; without one it does nothing. -/
def Obligations.RulesAndStreams : Prop :=
  ∀ (s : State),
    s.On →
  (∀ (w : Fin 35) (v : Word), (s.dev.rule (s.dev.f clsRuleSel_INDEX 0)).valid = true →
     w ≠ 34 ∨ v.getLsbD 31 = true → Runs (.ruleWindowWrite w v) s fun d => d = s.dev.inc .unitRejWr uCls) ∧
  (∀ (w : Fin 35) (v : Word) (n : Nat), s.dev.f clsRuleSel_INDEX 0 = n → (s.dev.rule n).valid = false →
     s.dev.setDraining (s.dev.rule n).pset = false → w < 32 →
       Runs (.ruleWindowWrite w v) s fun d => (d.rule n).valid = false ∧ ruleWord (d.rule n) w = v.toNat ∧ (∀ k ∈ List.range 35, k ≠ w.val → ruleWord (d.rule n) k = ruleWord (s.dev.rule n) k) ∧ s.dev.Only d { parts := [.path] }) ∧
  (∀ (w : Fin 35) (v : Word) (n : Nat), s.dev.f clsRuleSel_INDEX 0 = n → (s.dev.rule n).valid = false →
     s.dev.setDraining (s.dev.rule n).pset = false → w = 32 ∨ w = 33 → (w = 32 → actionOk v.toNat = true) →
       Runs (.ruleWindowWrite w v) s fun d => (d.rule n).valid = false ∧ ruleWord (d.rule n) w = (v.toNat &&& (if w = 32 then 0xFFFF7FFF else 0xFFFFFF03)) ∧ (∀ k ∈ List.range 35, k ≠ w.val → ruleWord (d.rule n) k = ruleWord (s.dev.rule n) k) ∧ s.dev.Only d { parts := [.path] }) ∧
  (∀ (v : Word), actionOk v.toNat = false → Runs (.ruleWindowWrite 32 v) s fun d => d = s.dev.inc .unitRejWr uCls) ∧
  (∀ (v : Word) (n : Nat), s.dev.f clsRuleSel_INDEX 0 = n → (s.dev.rule n).valid = false →
     s.dev.setDraining (s.dev.rule n).pset = false → s.dev.setDraining (bits 27 24 v.toNat) = false →
       Runs (.ruleWindowWrite 34 v) s fun d => d.rule n = { s.dev.rule n with valid := v.getLsbD 31, pset := bits 27 24 v.toNat, prio := v.toNat % 65536 }) ∧
  (∀ (g : Fin 1024), gateLen (s.dev.directAt 6 g) = 0 → Runs (.streamGateEntryStart g) s fun d => d = s.dev) ∧
  (∀ (g : Fin 1024) (k i : Nat), gateLen (s.dev.directAt 6 g) ≠ 0 →
     Sparse.get (fun _ => 0) s.dev.tab.gatePos g.val % gateLen (s.dev.directAt 6 g) = k →
     gateBase (s.dev.directAt 6 g) + k = i → Runs (.streamGateEntryStart g) s fun d =>
       bitAt 0 (d.directAt 6 g) = s.dev.b tbSgGclCtl_OPEN i ∧ bits 63 32 (d.directAt 6 g) = (if s.dev.f tbSgGclCtl_IOM i = 0 then 0xFFFFFFFF else s.dev.f tbSgGclCtl_IOM i) ∧ Sparse.get (fun _ => 0) d.tab.gatePos g.val = k + 1 ∧ s.dev.Only d { parts := [.tab] }) ∧
  (∀ (v : Word), 999999999 < v.toNat % 2 ^ 30 → Runs (.streamGateBaseWrite 0 v) s fun d => d = s.dev.inc .unitRejWr uTb) ∧
  (∀ (w : Fin 4) (v : Word), w ≠ 3 → (w = 0 → v.toNat % 2 ^ 30 ≤ 999999999) →
       Runs (.streamGateBaseWrite w v) s fun d => ∃ x : Word, d = (s.dev.wr .tbSgBase w x).gateRestartAll ∧ x.toNat &&& regBits .tbSgBase w = v.toNat &&& regBits .tbSgBase w) ∧
  (∀ (v : Word),
       Runs (.streamGateBaseWrite 3 v) s fun d => ∃ x : Word, d = (s.dev.wr .tbSgCfg 0 x).gateRestartAll ∧ x.toNat % 4 = v.toNat % 4) ∧
  (∀ (r : Fin 512), bits 31 16 (s.dev.directAt 8 r) = 0 → Runs (.seqRecoveryReset r) s fun d => d = s.dev) ∧
  (∀ (r : Fin 512), bits 31 16 (s.dev.directAt 8 r) ≠ 0 →
       Runs (.seqRecoveryReset r) s fun d => bitAt 48 (d.directAt 8 r) = true ∧ bits 95 64 (d.directAt 8 r) = 0 ∧ d.ctr .tbSrCnt (6 * r + 5) = s.dev.ctr .tbSrCnt (6 * r + 5) + 1 ∧ s.dev.Only d { ctrs := [(.tbSrCnt, 6 * r + 5)], parts := [.tab] })

/-- A tail within one ring of the head is stored; one beyond it is counted, raises EV21 and is not stored. A configuration
with a size outside 6 to 15 only counts as rejected; a good one is stored. RX_DELIVERY_CLAIM of a head that fits moves it to
the claims with its buffers and advances HEAD by the descriptors it needs; RX_DELIVERY_WRITTEN and RX_HOLD_TIMEOUT of a ring
with nothing to do, the former also while Bus Master is off, change nothing. Buffers, descriptors and data of the rings from
256 on are those in the SRAM. RING_IRQ_TIMEOUT clears the unannounced completions. TX_FRAME_CHECK of the ring whose turn it
is, with a good descriptor, takes the frame and advances HEAD, and with a bad one halts the ring and raises EV21; of another
ring it does nothing. TX_CELLS_CLAIMED takes the cells when they are free. TX_DATA_READ_DONE of an ENGINE frame injects it and
completes it, with a read error it releases the cells and completes with DMA_ERROR. -/
def Obligations.RingCommands : Prop :=
  ∀ (s : State) (r : Fin 272),
    s.On →
  (∀ (v : Word), (v.toNat % 65536 + 65536 - s.dev.f hrRxHead_HEAD r) % 65536 ≤ s.dev.rxN r →
       Runs (.rxTailWrite r v) s fun d => d.f hrRxTail_TAIL r = v.toNat % 65536 ∧ s.dev.Only d { regs := [(.hrRxTail, r)] }) ∧
  (∀ (v : Word), s.dev.rxN r < (v.toNat % 65536 + 65536 - s.dev.f hrRxHead_HEAD r) % 65536 →
       Runs (.rxTailWrite r v) s fun d => d = (s.dev.rejWr (ringUnit r)).raise 21 (r / 16) (r % 16)) ∧
  (∀ (v : Word), (v.toNat % 65536 + 65536 - s.dev.f hrTxHead_HEAD r) % 65536 ≤ s.dev.txN r →
       Runs (.txTailWrite r v) s fun d => d.f hrTxTail_TAIL r = v.toNat % 65536 ∧ s.dev.Only d { regs := [(.hrTxTail, r)] }) ∧
  (∀ (v : Word), s.dev.txN r < (v.toNat % 65536 + 65536 - s.dev.f hrTxHead_HEAD r) % 65536 →
       Runs (.txTailWrite r v) s fun d => d = (s.dev.rejWr (ringUnit r)).raise 21 (r / 16) (r % 16)) ∧
  (∀ (v : Word), bits 23 20 v.toNat < 6 → 256 ≤ r →
       Runs (.rxRingCfgWrite r v) s fun d => d = (s.dev.inc .unitRejWr (ringUnit r)).cxSettle) ∧
  (∀ (v : Word), 256 ≤ r → s.dev.f hrRxCfg_ENABLE r = 0 → v.getLsbD 31 = true → 6 ≤ bits 23 20 v.toNat →
     bits 13 0 v.toNat ≤ 10000 →
       Runs (.rxRingCfgWrite r v) s fun d => d = (s.dev.wr .hrRxCfg r (v &&& 0x83FFFFFF)).cxSettle) ∧
  (∀ (v : Word), s.dev.f hrTxCfg_ENABLE r = 0 → v.getLsbD 31 = true → 6 ≤ bits 23 20 v.toNat →
       Runs (.txRingCfgWrite r v) s fun d => d.f hrTxCfg_HALTED r = 0 ∧ d.f hrTxCfg_ENABLE r = 1 ∧ d.f hrTxCfg_SIZE_LOG2 r = bits 23 20 v.toNat ∧ s.dev.Only d { regs := [(.hrTxCfg, r)] }) ∧
  (∀ (bufs : List (BitVec 64)) (dl : Delivery), (s.dev.rx r).queue = [dl] → s.dev.rxCanClaim r = true →
       Runs (.rxDeliveryClaim r bufs) s fun d => d = ((s.dev.sf hrRxHead_HEAD r ((s.dev.f hrRxHead_HEAD r + s.dev.rxNeed r dl.bytes.length) % 65536)).setRx r
       { s.dev.rx r with queue := [], claims := (s.dev.rx r).claims ++ [⟨dl, s.dev.f hrRxHead_HEAD r, s.dev.rxBufs r (s.dev.f hrRxHead_HEAD r) (s.dev.rxNeed r dl.bytes.length) (bufs.map BitVec.toNat)⟩] }).cxSettle) ∧
  (∀ (wrote : BitVec 16) (ecc : Ecc), (s.dev.rx r).claims = [] ∨ s.dev.dmaGo (r / 16) = false →
       Runs (.rxDeliveryWritten r ⟨wrote, ecc⟩) s fun d => d = s.dev) ∧
  (∀ (cl : Claim) (rest : List Claim) (wrote : BitVec 16), (s.dev.rx r).claims = cl :: rest →
     s.dev.dmaGo (r / 16) = true → cl.d.ready = true → cl.d.job = none → cl.d.status = 0 →
       Runs (.rxDeliveryWritten r ⟨wrote, {}⟩) s fun d => d = (s.dev.bufEcc {}).rxComplete r none ∧ (d.rx r).claims = rest ∧ d.ctr .hrRxFrames r = s.dev.ctr .hrRxFrames r + 1) ∧
  (s.dev.rxCanClaim r = true → Runs (.rxHoldTimeout r) s fun d => d = s.dev) ∧
  (∀ (dl : Delivery), (s.dev.rx r).queue = [dl] → s.dev.rxCanClaim r = false →
       Runs (.rxHoldTimeout r) s fun d => d = (s.dev.rxDropHead r).cxSettle) ∧
  ((s.dev.rx r).unannounced ≠ 0 →
       Runs (.ringIrqTimeout r false) s fun d => (d.rx r).unannounced = 0 ∧ (d.rx r).queue = (s.dev.rx r).queue ∧ (d.rx r).claims = (s.dev.rx r).claims) ∧
  ((s.dev.tx r).unannounced ≠ 0 →
       Runs (.ringIrqTimeout r true) s fun d => (d.tx r).unannounced = 0 ∧ (d.tx r).cur = (s.dev.tx r).cur) ∧
  (∀ (ds : List (BitVec 256)) (x : Nat) (more : List Nat), s.dev.f hrTxCfg_ENABLE r = 1 →
     s.dev.f hrTxCfg_HALTED r = 0 → s.dev.txTurn r = true →
     ((s.dev.txDescs r (ds.map BitVec.toNat)).take 32).take (s.dev.txPosted r) = x :: more → bitAt 253 x = true →
     txCheck (r / 16) [x] = 0 → Runs (.txFrameCheck r ds) s fun d =>
       d.f hrTxHead_HEAD r = (s.dev.f hrTxHead_HEAD r + 1) % 65536 ∧ (d.tx r).cur = some { first := s.dev.f hrTxHead_HEAD r, descs := [x], len := bits 95 80 x, direct := bitAt 252 x, port := bits 103 96 x, cls := bits 111 104 x, ts := bitAt 251 x, time := s.dev.ns } ∧
       s.dev.Only d { regs := [(.hrTxHead, r)], parts := [.buf] }) ∧
  (∀ (ds : List (BitVec 256)) (x : Nat) (more : List Nat), s.dev.txTurn r = true →
     ((s.dev.txDescs r (ds.map BitVec.toNat)).take 32).take (s.dev.txPosted r) = x :: more → bitAt 253 x = true →
     txCheck (r / 16) [x] = 4 →
       Runs (.txFrameCheck r ds) s fun d => d.f hrTxCfg_HALTED r = 1 ∧ d.f hrTxHead_HEAD r = (s.dev.f hrTxHead_HEAD r + 1) % 65536 ∧ d.ctr .hrTxErr r = s.dev.ctr .hrTxErr r + 1) ∧
  (∀ (ds : List (BitVec 256)), s.dev.txTurn r = false → (s.dev.tx r).cur = none ∨ s.dev.ringState r ≠ stRun →
       ∀ c ∈ [Instr.txFrameCheck r ds, .txCellsClaimed r], Runs c s fun d => d = s.dev) ∧
  (∀ (x : TxCur), (s.dev.tx r).cur = some x → x.grp = none → s.dev.ringState r = stRun →
     cellsOf x.len ≤ s.dev.freeCells →
       Runs (.txCellsClaimed r) s fun d => (d.tx r).cur = some { x with grp := some s.dev.buf.nextGrp } ∧ d.f bqFree_FREE 0 = s.dev.f bqFree_FREE 0 - cellsOf x.len) ∧
  (∀ (x : TxCur), (s.dev.tx r).cur = some x → x.grp = none → s.dev.freeCells < cellsOf x.len →
       Runs (.txCellsClaimed r) s fun d => d = s.dev) ∧
  (∀ (data : List Byte) (x : TxCur) (g : Nat), (s.dev.tx r).cur = some x → x.grp = some g → x.direct = false →
       Runs (.txDataReadDone r false data) s fun d => d = ((s.dev.setTx r { s.dev.tx r with cur := none }).inject x.port (if r.val < 256 then x.time else s.dev.ns) g (slice (s.dev.txBytes r x data) 0 x.len)).txFinish r x 0 0) ∧
  (∀ (data : List Byte) (x : TxCur) (g : Nat), (s.dev.tx r).cur = some x → x.grp = some g →
       Runs (.txDataReadDone r true data) s fun d => d = ((s.dev.setTx r { s.dev.tx r with cur := none }).release g).txFinish r x 0 7)

/-- ETH_TX_SELECT of a port that may not send, with nothing on the wire, sends nothing; of one that may, the chosen head frame
goes on the wire. ETH_TX_END with nothing on the wire changes nothing; else it sends the padded frame, counts it and frees the
wire. Pause: a timer expiry clears PAUSED of the class, the watchdog moves a paused class to HOLDOFF, counts and raises the
port's event, the end of hold-off clears HOLDOFF. An idle port with LPI_EN signals LPI and counts; the wake ends; the
partner's LPI is shown and counted. A T1S collision of a CSMA/CD port counts and, late or for the 16th time, drops the frame.
POP takes the oldest timestamp. A clause about a row that ends a frame is of a device with no open transaction and no port
held after RESUME of the BW die: a token that waits for the boundary applies there, and a held port goes on. -/
def Obligations.EthernetTransmission : Prop :=
  ∀ (s : State) (p : Fin 20),
    s.On →
  (∀ (m : Medium), (s.dev.eth p).wire = none → (s.dev.eth p).cut = none →
     (s.dev.creditUpdate p).ethMaySend p = false → s.dev.ep.txn = none → s.dev.bus.bwHeld = [] →
       Runs (.ethTxSelect p ⟨m, {}⟩) s fun d => d = (if (s.dev.creditUpdate p).mediumOpen p m = true ∧ m = .own then (((s.dev.creditUpdate p).stepFlush p).deficitsClear p).setEth p { (((s.dev.creditUpdate p).stepFlush p).deficitsClear p).eth p with burst := 0 } else ((s.dev.creditUpdate p).stepFlush p).deficitsClear p)) ∧
  (∀ (c : Nat) (x : QFrame) (rest : List QFrame), (s.dev.eth p).wire = none → (s.dev.eth p).cut = none →
     (s.dev.creditUpdate p).ethMaySend p = true → s.dev.f ethLinkStatus_LPI_TX p = 0 →
     (((s.dev.creditUpdate p).stepFlush p).deficitsClear p).choose p false = some (c, none) →
     (((s.dev.creditUpdate p).stepFlush p).deficitsClear p).mediumOpen p .other = true →
     s.dev.queue (qNo p c) = x :: rest → s.dev.residenceOver (qNo p c) x = false → s.dev.ep.txn = none →
     s.dev.bus.bwHeld = [] →
       Runs (.ethTxSelect p ⟨.other, {}⟩) s fun d => d = (((s.dev.creditUpdate p).stepFlush p).deficitsClear p).ethStart p c {}) ∧
  ((s.dev.eth p).wire = none → (s.dev.eth p).ctl = [] → (s.dev.eth p).step = .none → s.dev.buf.flushAfter = [] →
     s.dev.ep.txn = none → s.dev.bus.bwHeld = [] → Runs (.ethTxEnd p {}) s fun d => d = s.dev) ∧
  (∀ (w : QFrame) (c : Nat), (s.dev.eth p).wire = some (w, c) → (s.dev.eth p).bad = false →
     (s.dev.eth p).sent = 0 → (s.dev.eth p).ctl = [] → (s.dev.eth p).step = .none → s.dev.buf.flushAfter = [] →
     s.dev.ep.txn = none → s.dev.bus.bwHeld = [] →
       Runs (.ethTxEnd p {}) s fun d => (d.eth p).wire = none ∧ d.outs.getLast? = some (.eth p (padded w.f.bytes) false)) ∧
  (∀ (c : Fin 8), Runs (.pauseTimerExpiry p c) s fun d =>
       bitAt c (d.f ethPauseState_PAUSED p) = false ∧ (∀ k ∈ List.range 8, k ≠ c.val → bitAt k (d.f ethPauseState_PAUSED p) = bitAt k (s.dev.f ethPauseState_PAUSED p)) ∧
       s.dev.Only d { regs := [(.ethPauseState, p)], parts := [.bus] }) ∧
  (∀ (c : Fin 8), bitAt c (s.dev.f ethPauseState_PAUSED p) = false ∨ s.dev.f ethPauseCfg_WDOG_MS p = 0 →
       Runs (.pauseWatchdogExpiry p c) s fun d => d = s.dev) ∧
  (∀ (c : Fin 8), bitAt c (s.dev.f ethPauseState_PAUSED p) = true → s.dev.f ethPauseCfg_WDOG_MS p ≠ 0 →
       Runs (.pauseWatchdogExpiry p c) s fun d =>
       bitAt c (d.f ethPauseState_PAUSED p) = false ∧ bitAt c (d.f ethPauseState_HOLDOFF p) = true ∧ d.ethCtr p 2 1 = s.dev.ethCtr p 2 1 + 1) ∧
  (∀ (c : Fin 8),
       Runs (.pauseHoldoffEnd p c) s fun d => bitAt c (d.f ethPauseState_HOLDOFF p) = false ∧ s.dev.Only d { regs := [(.ethPauseState, p)] }) ∧
  (s.dev.f ethLpiCfg_LPI_EN p = 1 → s.dev.f ethLinkStatus_LPI_TX p = 0 → 2 ≤ s.dev.f ethIntf_INTF p →
     s.dev.f ethIntf_INTF p ≤ 5 → s.dev.queued p = 0 → (s.dev.eth p).wire = none → (s.dev.eth p).cut = none →
       Runs (.lpiIdleTimeout p) s fun d => d.f ethLinkStatus_LPI_TX p = 1 ∧ d.ethCtr p 2 5 = s.dev.ethCtr p 2 5 + 1 ∧ d.outs.getLast? = some (.ethCtl p ctlLpi 1)) ∧
  (s.dev.f ethLpiCfg_LPI_EN p = 0 ∨ s.dev.queued p ≠ 0 ∨ s.dev.f ethIntf_INTF p < 2 ∨ 5 < s.dev.f ethIntf_INTF p →
       Runs (.lpiIdleTimeout p) s fun d => d = s.dev) ∧
  (∀ (us : Word), (s.dev.eth p).lpiWait = true → Runs (.lpiWakeDone p us) s fun d => (d.eth p).lpiWait = false) ∧
  (∀ (us : Word), s.dev.f ethLinkStatus_LPI_RX p = 0 →
       Runs (.lpiRxChange p true us) s fun d => d.f ethLinkStatus_LPI_RX p = 1 ∧ d.ethCtr p 2 6 = s.dev.ethCtr p 2 6 + 1) ∧
  (∀ (late : Bool), (s.dev.eth p).wire = none ∨ s.dev.f ethPlcaCfg_NODE_ID p ≠ 255 → s.dev.ep.txn = none →
     s.dev.bus.bwHeld = [] → Runs (.t1sCollision p late) s fun d => d = s.dev) ∧
  (∀ (late : Bool) (w : QFrame) (c : Nat), (s.dev.eth p).wire = some (w, c) → s.dev.f ethPlcaCfg_NODE_ID p = 255 →
     (s.dev.eth p).coll < 15 → s.dev.ep.txn = none → s.dev.bus.bwHeld = [] →
       Runs (.t1sCollision p late) s fun d => (d.eth p).wire = (if late then none else some (w, c)) ∧ (d.eth p).coll = (if late then 0 else (s.dev.eth p).coll + 1)) ∧
  (
       Runs (.tsFifoPop p) s fun d => (d.eth p).ts = (s.dev.eth p).ts.drop 1 ∧ d.f ethTxTsStat_COUNT p = ((s.dev.eth p).ts.length - 1) % 32 ∧
       s.dev.Only d { regs := [(.ethTxTsStat, p), (.ethTxTsSeq, p), (.ethTxTsInfo, p), (.ethTxTsLo, p), (.ethTxTsHi, p)], parts := [.bus] })

/-- PCS_LINK_CONDITION_CHANGE shows LOCK and the faults, and reports a loss at once only with LOSS_US = 0. LINK_LOSS_DETECTED
of a port that is not stepping reports link down. LINK_UP_DETECTED shows LINK on a port that is neither OFFLINE nor Off. A T1S
follower whose beacons stop shows PLCA_OK 0 and counts, and 1 when they return. Verification: the timer sends the next of at
most three verify mPackets, then fails; a response succeeds and makes preemption active; a port with preemption answers a
verify mPacket (log entry 31); with TX_EN = 0 the timer sends nothing. Gate lists: CONFIG_CHANGE while one is pending only
counts as rejected, with a bad list it counts an error, with a good one it is PENDING with its change time; GATE_CANCEL ends
it; GATE_CONFIG_APPLY copies the administrative values; an entry start shows its gates. A clause about a row that ends a frame
is of a device with no open transaction and no port held after RESUME of the BW die: a token that waits for the boundary
applies there, and a held port goes on. -/
def Obligations.EthernetLinksAndGates : Prop :=
  ∀ (s : State) (p : Fin 20),
    s.On →
  (∀ (lock lf rf an : Bool), s.dev.f ethLinkStatus_LINK p = 0 ∨ s.dev.f ethLinkCfg_LOSS_US p ≠ 0 →
     s.dev.ep.txn = none → s.dev.bus.bwHeld = [] → Runs (.pcsLinkConditionChange p lock lf rf an) s fun d =>
       d.b ethLinkStatus_LOCK p = lock ∧ d.b ethLinkStatus_LOCAL_FAULT p = lf ∧ d.b ethLinkStatus_REMOTE_FAULT p = rf ∧ (d.eth p).anDown = !an ∧
       s.dev.Only d { regs := [(.ethLinkStatus, p)], parts := [.bus] }) ∧
  (s.dev.f ethLinkStatus_STEPPING p = 0 → s.dev.f ethLinkStatus_LINK p = 1 → s.dev.portAsleep p = false →
     (s.dev.eth p).step = .none → s.dev.ep.txn = none → s.dev.bus.bwHeld = [] →
       Runs (.linkLossDetected p) s fun d => d.f ethLinkStatus_LINK p = 0 ∧ d.f bqPortCfg_STATE p ≠ 0) ∧
  (s.dev.lossCounts p = false → s.dev.ep.txn = none → s.dev.bus.bwHeld = [] →
       Runs (.linkLossDetected p) s fun d => d = s.dev) ∧
  (∀ (an : Fin 16), s.dev.f ethIntf_INTF p ≠ 7 → s.dev.f ethIntf_INTF p ≠ 0 → s.dev.leafState (uEth p) ≠ 0 →
       Runs (.linkUpDetected p an) s fun d => d.f ethLinkStatus_LINK p = 1 ∧ d.f ethLinkStatus_SPEED p = s.dev.ethSpeed p an % 8 ∧ d.f bqPortCfg_STATE p = 0) ∧
  (∀ (an : Fin 16) (r : Fin 96), r < 20 → s.dev.f ethIntf_INTF r ≠ 7 → s.dev.f ethIntf_INTF r ≠ 0 →
     s.dev.leafState (uEth r) ≠ 0 →
       Runs (.linkRestored r an) s fun d => d.f ethLinkStatus_LINK r = 1 ∧ d.f bqPortCfg_STATE r = 0) ∧
  (∀ (an : Fin 16), s.dev.leafState (uEth p) = 0 ∨ s.dev.f ethIntf_INTF p = 0 →
       ∀ c ∈ [Instr.linkUpDetected p an], Runs c s fun d => d = s.dev) ∧
  (s.dev.plcaFollower p = true → s.dev.f ethLinkStatus_PLCA_OK p = 1 → s.dev.f ethLinkCfg_LOSS_US p ≠ 0 →
     s.dev.ep.txn = none → s.dev.bus.bwHeld = [] →
       Runs (.plcaBeaconLoss p) s fun d => d.f ethLinkStatus_PLCA_OK p = 0 ∧ d.ethCtr p 2 12 = s.dev.ethCtr p 2 12 + 1) ∧
  (Runs (.plcaBeaconReturn p) s fun d => d.f ethLinkStatus_PLCA_OK p = 1 ∧ s.dev.Only d { regs := [(.ethLinkStatus, p)] }) ∧
  (s.dev.f ethPreempt_EN p = 1 → s.dev.f ethPreempt_VERIFY_DIS p = 0 →
     s.dev.f ethPreempt_VERIFY_STATUS p = 1 ∨ s.dev.f ethPreempt_VERIFY_STATUS p = 2 →
     s.dev.f ethLinkStatus_LINK p = 1 → s.dev.f ethMacCfg_TX_EN p = 1 → (s.dev.eth p).verify < 3 →
       Runs (.preemptVerifyTimer p) s fun d => d.f ethPreempt_VERIFY_STATUS p = 2 ∧ (d.eth p).verify = (s.dev.eth p).verify + 1 ∧ d.outs = s.dev.outs ++ [.ethCtl p ctlVerify ((s.dev.eth p).verify + 1)]) ∧
  (s.dev.f ethPreempt_EN p = 1 → s.dev.f ethPreempt_VERIFY_DIS p = 0 → s.dev.f ethPreempt_VERIFY_STATUS p = 2 →
     s.dev.f ethLinkStatus_LINK p = 1 → s.dev.f ethMacCfg_TX_EN p = 1 → (s.dev.eth p).verify = 3 →
       Runs (.preemptVerifyTimer p) s fun d => d.f ethPreempt_VERIFY_STATUS p = 4) ∧
  (s.dev.f ethPreempt_EN p = 1 → s.dev.f ethPreempt_VERIFY_STATUS p = 2 →
       Runs (.verifyMpacketReceived ⟨p, true⟩) s fun d => d.f ethPreempt_VERIFY_STATUS p = 3 ∧ d.f ethPreempt_ACTIVE p = 1 ∧ s.dev.Only d { regs := [(.ethPreempt, p)] }) ∧
  (s.dev.f ethPreempt_EN p = 1 → s.dev.f ethMacCfg_TX_EN p = 1 → s.dev.f ethLinkStatus_LINK p = 1 →
       Runs (.verifyMpacketReceived ⟨p, false⟩) s fun d => d = s.dev.emit (.ethCtl p ctlRespond 0)) ∧
  (s.dev.f ethMacCfg_TX_EN p = 0 → Runs (.preemptVerifyTimer p) s fun d => d = s.dev) ∧
  (s.dev.f ethGateCfg_PENDING p = 1 → Runs (.configChange p) s fun d => d = s.dev.inc .unitRejWr (uEth p)) ∧
  (s.dev.f ethGateCfg_PENDING p = 0 →
     s.dev.f ethGateCfg_ADMIN_LEN p = 0 ∨ s.dev.f ethGateAdminCycle_CYCLE_NS p < 1000 →
       Runs (.configChange p) s fun d => d.ethCtr p 2 11 = s.dev.ethCtr p 2 11 + 1 ∧ s.dev.Only d Foot.ethCount) ∧
  (s.dev.f ethGateCfg_PENDING p = 0 → s.dev.f ethGateCfg_ADMIN_LEN p = 1 →
     1000 ≤ s.dev.f ethGateAdminCycle_CYCLE_NS p → s.dev.f ethGateAdminListInterval_INTERVAL_NS (256 * p) ≠ 0 →
       Runs (.configChange p) s fun d => d.f ethGateCfg_PENDING p = 1 ∧ (d.eth p).reqAt = s.dev.gateNow p ∧ s.dev.Only d { regs := [(.ethGateCfg, p)], arrays := [.ethGateChange], parts := [.bus] }) ∧
  (Runs (.gateCancel p) s fun d => d.f ethGateCfg_PENDING p = 0 ∧ s.dev.Only d { regs := [(.ethGateCfg, p)] }) ∧
  (s.dev.f ethGateCfg_PENDING p = 0 → Runs (.gateConfigApply p) s fun d => d = s.dev) ∧
  (s.dev.f ethGateCfg_PENDING p = 1 → 1 ≤ s.dev.f ethGateCfg_ADMIN_LEN p → s.dev.f ethGateCfg_ADMIN_LEN p ≤ 256 →
       Runs (.gateConfigApply p) s fun d => d.f ethGateOperCycle_CYCLE_NS p = s.dev.f ethGateAdminCycle_CYCLE_NS p ∧ d.f ethGateOperLen_LEN p = s.dev.f ethGateCfg_ADMIN_LEN p ∧ d.f ethGateCfg_PENDING p = 0 ∧ (d.eth p).running = true ∧
       d.f ethGateStatus_ENTRY p = 0) ∧
  (∀ (i : Fin 256),
     (s.dev.eth p).running = false ∨ s.dev.f ethGateOperLen_LEN p ≤ i ∨ s.dev.gateExtended p = true →
       Runs (.gateEntryStart p i) s fun d => d = s.dev) ∧
  (∀ (i : Fin 256), (s.dev.eth p).running = true → i < s.dev.f ethGateOperLen_LEN p →
     s.dev.f ethGateCfg_GATE_EN p = 1 → s.dev.f ethGateStatus_RESTARTING p = 0 → s.dev.gateExtended p = false →
       Runs (.gateEntryStart p i) s fun d => d.f ethGateStatus_ENTRY p = i ∧ d.f ethGateStatus_GATES p = s.dev.f ethGateOperListOp_GATES (256 * p + i) ∧ d.f ethGateStatus_RESTARTING p = 0)

/-- On a port that steps, the CAPS timer sends CAPS, after the frame on the wire, STEP_CAPS_RECEIVED shows PEER_OK and keeps
the partner's ceiling; STEP_PEER_TIMEOUT clears PEER_OK. STEP_REQ_RECEIVED during another step is answered by NAK BUSY; a port
that has sent its DONE sends nothing until its lane is trained. STEP_ACK_RECEIVED and STEP_NAK_RECEIVED count only for the
request in progress: a NAK ends it with LAST refused. STEP_ACK_TIMEOUT ends it with timeout, STEP_DONE_TIMEOUT ends the
partner's step and counts. STEP_LANE_LOCKED makes the target the rate, STEP_LOCK_TIMEOUT falls back to the old rate and
counts. STEP_TRAIN_TIMEOUT trains at the next lower rate. STEP_DOWN_WINDOW clears the octets of the window and counts a window
below DOWN_PCT. Outside its phase each changes nothing. A clause about a row that ends a frame is of a device with no open
transaction and no port held after RESUME of the BW die: a token that waits for the boundary applies there, and a held port
goes on. -/
def Obligations.RateStepping : Prop :=
  ∀ (s : State) (p : Fin 20),
    s.On →
  (s.dev.stepOn p = false → Runs (.stepCapsTimer p) s fun d => d = s.dev) ∧
  (s.dev.stepOn p = true → stepStopped (s.dev.eth p) = false → s.dev.f ethMacCfg_TX_EN p = 1 →
     s.dev.f ethLinkStatus_LINK p = 1 → (s.dev.eth p).wire = none →
       Runs (.stepCapsTimer p) s fun d => d = s.dev.stepSend p stpCaps 0 (s.dev.f ethStepStatus_RATE p) 0 ∧ d.outs.getLast? = some (.eth p (s.dev.stepBytes p stpCaps 0 (s.dev.f ethStepStatus_RATE p) 0) false)) ∧
  (s.dev.stepOn p = true → stepStopped (s.dev.eth p) = false → s.dev.f ethMacCfg_TX_EN p = 1 →
     s.dev.f ethLinkStatus_LINK p = 1 → (s.dev.eth p).wire ≠ none →
       Runs (.stepCapsTimer p) s fun d => d = s.dev.setEth p { (s.dev.eth p) with ctl := (s.dev.eth p).ctl ++ [s.dev.stepBytes p stpCaps 0 (s.dev.f ethStepStatus_RATE p) 0] }) ∧
  (stepStopped (s.dev.eth p) = true → Runs (.stepCapsTimer p) s fun d => d = s.dev) ∧
  (∀ (ceil floor : BitVec 8), s.dev.f ethMacCfg_RX_EN p = 1 → s.dev.f ethIntf_INTF p = 7 →
       Runs (.stepCapsReceived p ceil floor) s fun d => d.f ethLinkStatus_PEER_OK p = 1 ∧ (d.eth p).peerCeil = ceil.toNat % 4) ∧
  (Runs (.stepPeerTimeout p) s fun d => d.f ethLinkStatus_PEER_OK p = 0 ∧ s.dev.Only d { regs := [(.ethLinkStatus, p)] }) ∧
  (s.dev.stepOn p = true → s.dev.f ethLinkStatus_LINK p = 0 → s.dev.f ethLinkStatus_LOCK p = 0 →
       Runs (.stepTrainTimeout p) s fun d => d.f ethStepStatus_RATE p = (if s.dev.f ethStepStatus_RATE p = 0 then s.dev.f ethStepCfg_CEIL p else s.dev.f ethStepStatus_RATE p - 1) ∧ s.dev.Only d { regs := [(.ethStepStatus, p)], parts := [.outs] }) ∧
  (s.dev.stepActive p = false →
       Runs (.stepDownWindow p) s fun d => (d.eth p).octets = 0 ∧ (d.eth p).low = (if (s.dev.eth p).octets * 800 < s.dev.f ethStepCfg_DOWN_PCT p * s.dev.rate p then (s.dev.eth p).low + 1 else 0)) ∧
  (∀ (txn rate : BitVec 8) (b : List Byte), s.dev.f ethMacCfg_RX_EN p = 1 → s.dev.f ethIntf_INTF p = 7 →
     b = beBytes 6 0x0180C200000E ++ beBytes 6 0 ++ [0x88, 0xB5, 1, 1, byteOf 2, byteOf txn.toNat, byteOf rate.toNat, byteOf 0, byteOf 0, byteOf 0] ++ List.replicate 38 0 →
       Runs (.stepReqReceived p txn rate) s fun d => d = (s.dev.ethRxCount p b).stepReq p txn.toNat (rate.toNat % 4)) ∧
  (∀ (txn rate : BitVec 8) (t old : Nat), s.dev.f ethMacCfg_RX_EN p = 1 → s.dev.f ethIntf_INTF p = 7 →
     (s.dev.eth p).step = .partnerLeave old t → s.dev.f ethMacCfg_TX_EN p = 1 → s.dev.f ethLinkStatus_LINK p = 1 →
     (s.dev.eth p).wire = none →
       Runs (.stepReqReceived p txn rate) s fun d => (d.eth p).step = (s.dev.eth p).step ∧ d.outs.getLast? = some (.eth p (s.dev.stepBytes p stpNak txn.toNat (rate.toNat % 4) 1) false)) ∧
  (∀ (txn rate : BitVec 8) (b : List Byte), s.dev.f ethMacCfg_RX_EN p = 1 → s.dev.f ethIntf_INTF p = 7 →
     stepStopped (s.dev.eth p) = true →
     b = beBytes 6 0x0180C200000E ++ beBytes 6 0 ++ [0x88, 0xB5, 1, 1, byteOf 2, byteOf txn.toNat, byteOf rate.toNat, byteOf 0, byteOf 0, byteOf 0] ++ List.replicate 38 0 →
       Runs (.stepReqReceived p txn rate) s fun d => d = s.dev.ethRxCount p b) ∧
  (∀ (txn rate : BitVec 8) (own t : Nat), s.dev.f ethMacCfg_RX_EN p = 1 → s.dev.f ethIntf_INTF p = 7 →
     (s.dev.eth p).step = .reqSent own t → own ≠ txn.toNat →
       Runs (.stepAckReceived p txn rate) s fun d => (d.eth p).step = (s.dev.eth p).step) ∧
  (∀ (txn rate : BitVec 8) (t : Nat), s.dev.f ethMacCfg_RX_EN p = 1 → s.dev.f ethIntf_INTF p = 7 →
     (s.dev.eth p).step = .reqSent txn.toNat t → (s.dev.eth p).wire ≠ none →
       Runs (.stepAckReceived p txn rate) s fun d => d.f ethLinkStatus_STEPPING p = 1 ∧ d.f ethStepStatus_BUSY p = 1 ∧ (d.eth p).step = .agreed txn.toNat txn.toNat t false false true) ∧
  (∀ (txn rate reason : BitVec 8) (t : Nat), s.dev.f ethMacCfg_RX_EN p = 1 → s.dev.f ethIntf_INTF p = 7 →
     (s.dev.eth p).step = .reqSent txn.toNat t →
       Runs (.stepNakReceived p txn rate reason) s fun d => (d.eth p).step = .none ∧ d.f ethStepStatus_LAST p = 2 ∧ d.f ethStepStatus_BUSY p = 0) ∧
  (∀ (txn rate : BitVec 8) (back t : Nat) (ini : Bool), s.dev.f ethMacCfg_RX_EN p = 1 →
     s.dev.f ethIntf_INTF p = 7 → (s.dev.eth p).step = .agreed txn.toNat back t false false ini →
     (s.dev.eth p).wire ≠ none →
       Runs (.stepDoneReceived p txn rate) s fun d => (d.eth p).step = .agreed txn.toNat back t false true ini) ∧
  (∀ (own t : Nat), (s.dev.eth p).step = .reqSent own t →
       Runs (.stepAckTimeout p) s fun d => (d.eth p).step = .none ∧ d.f ethStepStatus_LAST p = 3 ∧ d.f ethStepStatus_BUSY p = 0) ∧
  (∀ (own back t : Nat) (sent : Bool), (s.dev.eth p).step = .agreed own back t sent false false →
       Runs (.stepDoneTimeout p) s fun d => (d.eth p).step = .none ∧ d.f ethStepStatus_LAST p = 3 ∧ d.ethCtr p 2 4 = s.dev.ethCtr p 2 4 + 1) ∧
  (∀ (t old : Nat), (s.dev.eth p).step = .training t old → t < 4 →
       Runs (.stepLaneLocked p) s fun d => d.f ethStepStatus_RATE p = t ∧ d.f ethLinkStatus_SPEED p = t + 3 ∧ d.f ethStepStatus_LAST p = 1 ∧ (d.eth p).step = .none) ∧
  (∀ (t old : Nat), (s.dev.eth p).step = .training t old → s.dev.ep.txn = none → s.dev.bus.bwHeld = [] →
       Runs (.stepLockTimeout p) s fun d => (d.eth p).step = .falling old ∧ d.f ethStepStatus_LAST p = 5 ∧ d.ethCtr p 2 4 = s.dev.ethCtr p 2 4 + 1 ∧ d.outs.getLast? = some (.ethCtl p ctlTrain old)) ∧
  ((s.dev.eth p).step = .none → s.dev.ep.txn = none → s.dev.bus.bwHeld = [] →
       ∀ c ∈ [Instr.stepAckTimeout p, .stepDoneTimeout p, .stepLaneLocked p, .stepLockTimeout p], Runs c s fun d => d = s.dev)

/-- A frame received on a channel that is not on the bus changes nothing; on one that is, it counts and lowers REC by one, not
below 0, when REC is at most 127. A receive error on the bus shows LEC, counts the kind and raises REC. Arbitration with no
ready buffer starts nothing, else it starts the buffer that ranks first; a loss leaves the buffer and counts. A success lowers
TEC, counts and frees the buffer; an error raises TEC by 8 and counts a retry. An INTEGRATING channel becomes error active, a
BUS_OFF one starts to recover by RECOVER, or after BO_DELAY with AUTO_RECOV, and a recovered one has both counters 0; all of
that stands still while its segment sleeps. CAN_TX_LOAD loads nothing on a channel that is not in service. CAN_PTIME_REACHED
lets a held buffer arbitrate. CAN_SCHED_WRITE stores the slot. A clause about a row that ends a frame is of a device with no
open transaction and no port held after RESUME of the BW die: a token that waits for the boundary applies there, and a held
port goes on. -/
def Obligations.CanChannels : Prop :=
  ∀ (s : State) (n : Fin 48),
    s.On →
  (∀ (x : CanRx), s.dev.canOn n = false → s.dev.bus.bwHeld = [] → s.dev.bus.rxCut = [] → s.dev.bus.wakeCut = [] →
       Runs (.canFrameReceived n x) s fun d => d = s.dev) ∧
  (∀ (x : CanRx), s.dev.canOn n = true → x.kind = 1 → s.dev.portAsleep (32 + n) = false →
     s.dev.sleep.power ≠ .sleep → s.dev.f canErr_REC n ≤ 127 → s.dev.f canErr_TEC n ≤ 255 → s.dev.bus.bwHeld = [] →
     s.dev.bus.rxCut = [] → s.dev.bus.wakeCut = [] →
       Runs (.canFrameReceived n x) s fun d => d.f canErr_REC n = s.dev.f canErr_REC n - 1 ∧ d.ctr .canRxFrames n = s.dev.ctr .canRxFrames n + 1) ∧
  (∀ (k : Fin 6) (up : Fin 9), s.dev.canOn n = false → s.dev.bus.bwHeld = [] → s.dev.bus.rxCut = [] →
     s.dev.bus.wakeCut = [] → Runs (.canRxError n k up) s fun d => d = s.dev) ∧
  (∀ (k : Fin 6) (up : Fin 9), s.dev.canOn n = true → k ≠ 0 → s.dev.f canErr_REC n ≤ 500 →
     s.dev.f canErr_TEC n ≤ 255 → s.dev.bus.bwHeld = [] → s.dev.bus.rxCut = [] → s.dev.bus.wakeCut = [] →
       Runs (.canRxError n k up) s fun d => d.f canErr_LEC n = k ∧ d.f canErr_REC n = s.dev.f canErr_REC n + up ∧ d.ctr (canErrCtr k) n = s.dev.ctr (canErrCtr k) n + 1) ∧
  (∀ (ecc : Ecc), s.dev.canLoads n = false → Runs (.canTxLoad ⟨n, ecc⟩) s fun d => d = s.dev) ∧
  ((s.dev.can n).cur ≠ none ∨ s.dev.canOn n = false ∨ canBest (s.dev.can n).bufs = none →
       Runs (.canArbitrationStart n) s fun d => d = s.dev) ∧
  (∀ (b : Nat) (x : CanBuf), (s.dev.can n).cur = none → s.dev.canOn n = true → s.dev.admits (uCan n) = true →
     s.dev.bwServes (32 + n) = true → s.dev.portAsleep (32 + n) = false → canBest (s.dev.can n).bufs = some b →
     s.dev.canBuf n b = some x →
       Runs (.canArbitrationStart n) s fun d => (d.can n) = { (s.dev.can n) with cur := some b, bufs := Sparse.insert b { x with started := true, ts := none } (Sparse.erase b (s.dev.can n).bufs) } ∧ (x.started = true → x.ts = none → s.dev.Only d { regs := [(.canTxStatus, n)], parts := [.bus, .outs] })) ∧
  (∀ (tdcv tdcvXl : Option (BitVec 9)), (s.dev.can n).cur = none → s.dev.ep.txn = none → s.dev.bus.bwHeld = [] →
       Runs (.canTxSuccess n tdcv tdcvXl) s fun d => d = s.dev) ∧
  (∀ (b : Nat), (s.dev.can n).cur = some b → s.dev.f canErr_TEC n ≤ 255 → s.dev.buf.flushAfter = [] →
     s.dev.ep.txn = none → s.dev.bus.bwHeld = [] →
       Runs (.canTxSuccess n none none) s fun d => (d.can n).bufs = Sparse.erase b (s.dev.can n).bufs ∧ (d.can n).cur = none ∧ d.f canErr_TEC n = s.dev.f canErr_TEC n - 1 ∧ d.ctr .canTxFrames n = s.dev.ctr .canTxFrames n + 1) ∧
  (∀ (k : Fin 6) (exempt : Bool) (tdcv tdcvXl : Option (BitVec 9)), s.dev.canOn n = false → s.dev.ep.txn = none →
     s.dev.bus.bwHeld = [] → Runs (.canTxError n k ⟨exempt, tdcv, tdcvXl⟩) s fun d => d = s.dev) ∧
  (∀ (k : Fin 6) (exempt : Bool) (b : Nat), (s.dev.can n).cur = some b → s.dev.canOn n = true →
     s.dev.f canErr_TEC n ≤ 247 → s.dev.buf.flushAfter = [] → s.dev.ep.txn = none → s.dev.bus.bwHeld = [] →
       Runs (.canTxError n k ⟨exempt, none, none⟩) s fun d => (d.can n).cur = none ∧ d.f canErr_TEC n = s.dev.f canErr_TEC n + (if exempt then 0 else 8) ∧ d.ctr .canTxRetry n = s.dev.ctr .canTxRetry n + 1) ∧
  ((s.dev.can n).cur ≠ none → (s.dev.can n).cur ≠ some 64 → s.dev.buf.flushAfter = [] → s.dev.ep.txn = none →
     s.dev.bus.bwHeld = [] →
       Runs (.canArbLost n) s fun d => (d.can n) = { (s.dev.can n) with cur := none } ∧ d.ctr .canArbLost n = s.dev.ctr .canArbLost n + 1 ∧ s.dev.Only d { regs := [(.canTxStatus, n)], ctrs := [(.canArbLost, n)], parts := [.bus] }) ∧
  (s.dev.canState n = 1 → s.dev.portAsleep (32 + n) = false → s.dev.f canErr_TEC n ≤ 127 →
     s.dev.f canErr_REC n ≤ 127 →
       Runs (.canIntegrationDone n) s fun d => d.canState n = 2 ∧ d.f bqPortCfg_STATE (32 + n) = 0) ∧
  (s.dev.canState n = 0 → ∀ c ∈ [Instr.canIntegrationDone n, .canRecoveryDone n], Runs c s fun d => d = s.dev) ∧
  (s.dev.canState n = 4 → s.dev.portAsleep (32 + n) = false →
       Runs (.canRecover n) s fun d => d.canState n = 5 ∧ d.f canCtl_RECOVER n = 0) ∧
  (s.dev.canState n ≠ 4 ∨ s.dev.portAsleep (32 + n) = true →
       Runs (.canRecover n) s fun d => d = s.dev.sf canCtl_RECOVER n 0) ∧
  (s.dev.f canCtl_AUTO_RECOV n = 0 → Runs (.canBoDelayExpiry n) s fun d => d = s.dev) ∧
  (s.dev.canState n = 4 → s.dev.portAsleep (32 + n) = false → s.dev.f canCtl_AUTO_RECOV n = 1 →
       Runs (.canBoDelayExpiry n) s fun d => d.canState n = 5) ∧
  (s.dev.canState n = 5 → s.dev.portAsleep (32 + n) = false →
       Runs (.canRecoveryDone n) s fun d => d.canState n = 2 ∧ d.f canErr_TEC n = 0 ∧ d.f canErr_REC n = 0 ∧ d.f bqPortCfg_STATE (32 + n) = 0) ∧
  (s.dev.portAsleep (32 + n) = true → ∀ c ∈ [Instr.canIntegrationDone n, .canRecoveryDone n], Runs c s fun d => d = s.dev) ∧
  (∀ (b : Fin 64), s.dev.canBuf n b = none → Runs (.canPtimeReached n b) s fun d => d = s.dev) ∧
  (∀ (b : Fin 64), (s.dev.canBuf n b).map (·.wait) = some true →
       Runs (.canPtimeReached n b) s fun d => (d.canBuf n b).map (·.wait) = some false ∧ s.dev.Only d { regs := [(.canTxStatus, n)], parts := [.bus] }) ∧
  (∀ (k : Fin 8) (v : Word),
       Runs (.canSchedWrite n k v) s fun d => d.rd .canSched (8 * n + k) = (v &&& 0x80003FFF) ∧ s.dev.Only d { regs := [(.canSched, 8 * n + k), (.canTxStatus, n)] })

/-- MO_KEY_WRITE with VALID clear invalidates the object of the window with the new key. With VALID set, of an object that is
not valid, with a CAN channel and a key no valid object has, it makes the object valid, empty, SEQ 0 and acknowledged;
otherwise it only counts as rejected. MO_ACK_WRITE with the object's SEQ acknowledges it, any other only counts. MO_PUBLISH of
a valid object stores the staged bytes, adds one to SEQ and clears ACK. MO_FOREIGN_CLEAR clears the count. No other object
changes. LIN_TICK of a commander in a slot of more than one tick counts the tick down; of a responder it does nothing. A
header with a break, sync or parity error only counts at a responder; one of an identifier to receive makes its response
awaited. A response with an error counts its kind; LIN_NO_RESPONSE with an identifier awaited by a responder counts, and the
bus is free. LIN_TX_TAKE with empty queues takes nothing. REQ shows PENDING with its table; STOP of a schedule that does not
run clears at once. An entry of type 7, of a table that runs or is requested is only counted as rejected. TUN_AGG_TIMEOUT of
an open AVTPDU sends it and counts it; of none it does nothing. A stream's word is stored; a bad port or MAX_PDU is only
counted. A clause about a row that ends a frame is of a device with no open transaction and no port held after RESUME of the
BW die: a token that waits for the boundary applies there, and a held port goes on. -/
def Obligations.ObjectsLinAndTunnels : Prop :=
  ∀ (s : State),
    s.On →
  (∀ (w : Fin 17) (v : Word) (o : Nat), s.dev.f moWinSel_OBJ w = o → v.getLsbD 31 = false →
       Runs (.moKeyWrite w v) s fun d => d.obj o = { (s.dev.obj o) with valid := false, fmt := bits 30 29 v.toNat, ident := v.toNat % 2 ^ 29 } ∧ (∀ k, k ≠ o → d.obj k = s.dev.obj k) ∧ s.dev.Only d { parts := [.bus] }) ∧
  (∀ (w : Fin 17) (v : Word) (o : Nat), s.dev.f moWinSel_OBJ w = o → v.getLsbD 31 = true →
     (s.dev.obj o).valid = false →
     s.dev.objFind (objChan (s.dev.obj o)) (bits 30 29 v.toNat) (v.toNat % 2 ^ 29) = none →
     32 ≤ objChan (s.dev.obj o) → objChan (s.dev.obj o) ≤ 79 →
     bits 30 29 v.toNat = 1 ∨ (bits 30 29 v.toNat ≠ 3 ∧ v.toNat % 2 ^ 29 ≤ 0x7FF) →
       Runs (.moKeyWrite w v) s fun d => (d.obj o).valid = true ∧ (d.obj o).fmt = bits 30 29 v.toNat ∧ (d.obj o).ident = v.toNat % 2 ^ 29 ∧ (d.obj o).data = [] ∧ (d.obj o).seq = 0 ∧ (d.obj o).acked = true ∧
       (∀ k, k ≠ o → d.obj k = s.dev.obj k) ∧ s.dev.Only d { parts := [.bus] }) ∧
  (∀ (w : Fin 17) (v : Word) (o : Nat), s.dev.f moWinSel_OBJ w = o → v.getLsbD 31 = true →
     (s.dev.obj o).valid = true ∨ objChan (s.dev.obj o) < 32 ∨ 79 < objChan (s.dev.obj o) →
       Runs (.moKeyWrite w v) s fun d => d = s.dev.inc .unitRejWr uMo) ∧
  (∀ (w : Fin 17) (v : Word) (o : Nat), s.dev.f moWinSel_OBJ w = o → (s.dev.obj o).valid = true →
     (s.dev.obj o).seq = v.toNat →
       Runs (.moAckWrite w v) s fun d => (d.obj o) = { (s.dev.obj o) with acked := true, overwritten := false } ∧ (∀ k, k ≠ o → d.obj k = s.dev.obj k) ∧ s.dev.Only d { parts := [.bus] }) ∧
  (∀ (w : Fin 17) (v : Word) (o : Nat), s.dev.f moWinSel_OBJ w = o →
     (s.dev.obj o).valid = false ∨ (s.dev.obj o).seq ≠ v.toNat →
       Runs (.moAckWrite w v) s fun d => d = s.dev.inc .moAckStale 0) ∧
  (∀ (w : Fin 17) (v : Word) (o : Nat), s.dev.f moWinSel_OBJ w = o → (s.dev.obj o).valid = true →
       Runs (.moPublish w v) s fun d => (d.obj o).data.length = min 64 (v.toNat % 128) ∧ (d.obj o).seq = ((s.dev.obj o).seq + 1) % 2 ^ 32 ∧ (d.obj o).acked = false ∧ (d.obj o).overwritten = ((s.dev.obj o).overwritten || !(s.dev.obj o).acked) ∧
       (∀ k, k ≠ o → d.obj k = s.dev.obj k) ∧ s.dev.Only d { parts := [.bus] }) ∧
  (∀ (w : Fin 17) (v : Word) (o : Nat), s.dev.f moWinSel_OBJ w = o → (s.dev.obj o).valid = false →
       Runs (.moPublish w v) s fun d => d = s.dev) ∧
  (∀ (w : Fin 17) (o : Nat), s.dev.f moWinSel_OBJ w = o →
       Runs (.moForeignClear w) s fun d => d.obj o = { (s.dev.obj o) with foreign := 0 } ∧ (∀ k, k ≠ o → d.obj k = s.dev.obj k) ∧ s.dev.Only d { parts := [.bus] }) ∧
  (∀ (n : Fin 16), s.dev.admits (uLin n) = true → s.dev.bwServes (80 + n) = true →
     s.dev.portAsleep (80 + n) = false → s.dev.f linCfg_ROLE n = 0 → s.dev.f linSchedStatus_RUNNING n = 1 →
     2 ≤ (s.dev.lin n).ticks → (s.dev.lin n).coll = none →
       Runs (.linTick n) s fun d => d.lin n = { (s.dev.lin n) with ticks := (s.dev.lin n).ticks - 1 } ∧ s.dev.Only d { parts := [.bus] }) ∧
  (∀ (n : Fin 16), s.dev.f linCfg_ROLE n = 1 ∨ s.dev.portAsleep (80 + n) = true → Runs (.linTick n) s fun d => d = s.dev) ∧
  (∀ (n : Fin 16) (ident : Fin 64) (t : Nat), s.dev.f linCfg_ROLE n = 1 → s.dev.portAsleep (80 + n) = false →
     s.dev.bwServes (80 + n) = true → s.dev.sleep.power ≠ .sleep →
       Runs (.linHeaderReceived n ident ⟨true, t⟩) s fun d => d = s.dev.inc .linSyncErr n) ∧
  (∀ (n : Fin 16) (ident : Fin 64) (t : Nat), s.dev.admits (uLin n) = true → s.dev.bwServes (80 + n) = true →
     s.dev.portAsleep (80 + n) = false → s.dev.sleep.power ≠ .sleep → s.dev.f linCfg_ROLE n = 1 →
     s.dev.f linFrame_DIR (linIx n ident) = 2 →
       Runs (.linHeaderReceived n ident ⟨false, t⟩) s fun d => d.lin n = { (s.dev.lin n) with bus := some ident.val } ∧ s.dev.Only d { parts := [.bus] }) ∧
  (∀ (n : Fin 16) (ident : Fin 64) (t : Nat), s.dev.admits (uLin n) = true → s.dev.bwServes (80 + n) = true →
     s.dev.portAsleep (80 + n) = false → s.dev.sleep.power ≠ .sleep → s.dev.f linCfg_ROLE n = 1 →
     s.dev.f linFrame_DIR (linIx n ident) = 1 → s.dev.f linFrame_EVENT (linIx n ident) = 0 →
       Runs (.linHeaderReceived n ident ⟨false, t⟩) s fun d => d = s.dev.linPublish n ident t ∧ d.f linFrame_FRESH (linIx n ident) = 0 ∧ d.ctr .linTxFrames n = s.dev.ctr .linTxFrames n + 1) ∧
  (∀ (n : Fin 16) (x : LinRx), x.err = 1 → (s.dev.lin n).late = false → s.dev.ep.txn = none →
     s.dev.bus.bwHeld = [] → s.dev.bus.rxCut = [] → s.dev.bus.wakeCut = [] →
       Runs (.linResponseReceived n x) s fun d => d.ctr .linChkErr n = s.dev.ctr .linChkErr n + 1 ∧ (d.lin n).bus = none) ∧
  (∀ (n : Fin 16) (x : LinRx), s.dev.admits (uLin n) = true → s.dev.bwServes (80 + n) = true →
     s.dev.portAsleep (80 + n) = false → x.err = 0 → s.dev.sleep.power ≠ .sleep →
     s.dev.busCommits (24 + x.data.length) x.ecc = true → (s.dev.lin n).late = false →
     s.dev.f linFrame_DIR (linIx n x.ident) = 2 → x.data.length = s.dev.f linFrame_LEN (linIx n x.ident) →
     s.dev.ep.txn = none → s.dev.bus.bwHeld = [] → s.dev.bus.rxCut = [] → s.dev.bus.wakeCut = [] →
       Runs (.linResponseReceived n x) s fun d => d.ctr .linRxFrames n = s.dev.ctr .linRxFrames n + 1 ∧ d.f linFrame_FRESH (linIx n x.ident) = 1 ∧ d.f linFrame_SEQ8 (linIx n x.ident) = (s.dev.f linFrame_SEQ8 (linIx n x.ident) + 1) % 256) ∧
  (∀ (n : Fin 16) (ident : Nat), (s.dev.lin n).bus = some ident → (s.dev.lin n).late = false →
     s.dev.f linCfg_ROLE n = 0 → s.dev.f linFrame_DIR (linIx n ident) = 2 → s.dev.ep.txn = none →
     s.dev.bus.bwHeld = [] → s.dev.bus.rxCut = [] → s.dev.bus.wakeCut = [] →
       Runs (.linNoResponse n) s fun d => d.ctr .linNoResp n = s.dev.ctr .linNoResp n + 1 ∧ (d.lin n).bus = none) ∧
  (∀ (n : Fin 16) (ecc : Ecc), s.dev.admits (uLin n) = false ∨ s.dev.buf.queues = [] →
       Runs (.linTxTake ⟨n, ecc⟩) s fun d => d = s.dev) ∧
  (∀ (n : Fin 16) (t : Fin 8),
       Runs (.linSchedReq n t) s fun d => d.f linSchedCtl_REQ n = 1 ∧ d.f linSchedCtl_REQ_TABLE n = t ∧ d.f linSchedStatus_PENDING n = 1 ∧ s.dev.Only d { regs := [(.linSchedCtl, n), (.linSchedStatus, n)] }) ∧
  (∀ (n : Fin 16),
       Runs (.linSchedStop n) s fun d => d.f linSchedCtl_STOP n = s.dev.f linSchedStatus_RUNNING n ∧ s.dev.Only d { regs := [(.linSchedCtl, n)] }) ∧
  (∀ (n : Fin 16) (v : Word), bits 31 29 v.toNat = 7 →
       Runs (.linSchedEntryWrite n v) s fun d => d = s.dev.inc .unitRejWr (uLin n)) ∧
  (∀ (n : Fin 16) (v : Word), bits 31 29 v.toNat ≠ 7 → s.dev.f linSchedStatus_RUNNING n = 0 →
     s.dev.f linSchedStatus_PENDING n = 0 →
       Runs (.linSchedEntryWrite n v) s fun d => d.linEntry n (s.dev.f linSchedSel_TABLE n) (s.dev.f linSchedSel_ENTRY n) = setBits 23 16 (max 1 (bits 23 16 v.toNat)) (v.toNat &&& 0xFCFF003F) ∧
       s.dev.Only d { parts := [.bus] }) ∧
  (∀ (k : Fin 32), (s.dev.tunOpen k).msgs = 0 → Runs (.tunAggTimeout k) s fun d => d = s.dev) ∧
  (∀ (k : Fin 32), (s.dev.tunOpen k).msgs ≠ 0 →
       Runs (.tunAggTimeout k) s fun d => (d.tunOpen k).msgs = 0 ∧ d.ctr .tunTxPdus 0 = s.dev.ctr .tunTxPdus 0 + 1 ∧ d.f tunTxStreamSeq_SEQ k = (s.dev.f tunTxStreamSeq_SEQ k + 1) % 256) ∧
  (∀ (k : Fin 32) (v : Word), 19 < bits 25 19 v.toNat →
       Runs (.tunStreamWrite k 0 v) s fun d => d = s.dev.inc .unitRejWr uTun) ∧
  (∀ (k : Fin 32) (v : Word), bits 25 19 v.toNat ≤ 19 → v.getLsbD 31 = true →
       Runs (.tunStreamWrite k 0 v) s fun d => d.f tunTxStreamCtl_ENABLE k = 1 ∧ d.f tunTxStreamCtl_PORT k = bits 25 19 v.toNat ∧ d.f tunTxStreamCtl_MAX_MSGS k = max 1 (bits 15 8 v.toNat) ∧ s.dev.Only d { regs := [(.tunTxStreamCtl, k)] }) ∧
  (∀ (k : Fin 32) (v : Word),
       Runs (.tunStreamWrite k 1 v) s fun d => d = (if v.toNat % 2 ^ 14 < 128 ∨ 9710 < v.toNat % 2 ^ 14 then s.dev.inc .unitRejWr uTun else s.dev.wr .tunTxStreamAgg k (v &&& 0xFFFF3FFF)))

/-- SET_RATE, DOMAIN_STEP and SET_TIME keep their arguments and show BUSY until their edge; while one waits another only
counts as rejected. Before that edge DOMAIN_CMD_APPLY does nothing. At the edge (the second reference edge after the write) a
rate within 10^-3 starts a new parameter set from the domain's time there, so the time goes on without a step; every rate
outside, a step that makes the time negative, or nanoseconds of 10^9 or more ends with RANGE and changes no set. A step adds
its signed nanoseconds to the time at the edge. LATCH stores the raw counter, interpolated to 1 ns. The clauses at an edge are
of a device with no core in WFI, which a pending line would let go on first. CONV_GO shows BUSY; CONV_DONE shows the domain
time of the raw timestamp and STATUS 0, or STALE. -/
def Obligations.TimeDomains : Prop :=
  ∀ (s : State) (t : Fin 4),
    s.On →
  (s.dev.f tmDomCmd_BUSY t = 0 →
       ∀ e ∈ [(1, Instr.setRate t), (2, .domainStep t), (3, .setTime t)], Runs e.2 s fun d => d.f tmDomCmd_BUSY t = 1 ∧
       (d.dom t) = { (s.dev.dom t) with cmd := some (e.1, (s.dev.rd .tmDomArg (3 * t)).toNat, (s.dev.rd .tmDomArg (3 * t + 1)).toNat, (s.dev.rd .tmDomArg (3 * t + 2)).toNat), due := s.dev.refEdge + 80 } ∧ s.dev.Only d { regs := [(.tmDomCmd, t)], parts := [.time] }) ∧
  (s.dev.f tmDomCmd_BUSY t = 1 →
       ∀ c ∈ [Instr.setRate t, .domainStep t, .setTime t], Runs c s fun d => d = s.dev.inc .unitRejWr uTm) ∧
  ((s.dev.dom t).cmd = none ∨ s.dev.ns < (s.dev.dom t).due → Runs (.domainCmdApply t) s fun d => d = s.dev) ∧
  (∀ (p : DomSet) (w0 w1 w2 r : Nat), s.dev.inWfi 0 = false → s.dev.inWfi 1 = false → (s.dev.dom t).due = r →
     r ≤ s.dev.ns → (s.dev.dom t).cmd = some (1, w0, w1, w2) → s.dev.domSet t r = some p →
     0x27F5C28F5D ≤ w1 % 65536 * 2 ^ 32 + w0 → w1 % 65536 * 2 ^ 32 + w0 ≤ 0x280A3D70A3 →
       Runs (.domainCmdApply t) s fun d =>
       (d.dom t).hist.head? = some { anchor := r, off := p.at r, inc := w1 % 65536 * 2 ^ 32 + w0 } ∧ (d.dom t).cmd = none ∧ d.domTime? t r = s.dev.domTime? t r ∧
       d.f tmDomCmd_BUSY t = 0 ∧ d.f tmDomCmd_RESULT t = 0 ∧ s.dev.Only d { regs := [(.tmDomCmd, t), (.tmDomInc, 2 * t), (.tmDomInc, 2 * t + 1)], parts := [.time] }) ∧
  (∀ (p : DomSet) (w0 w1 w2 r : Nat), s.dev.inWfi 0 = false → s.dev.inWfi 1 = false → (s.dev.dom t).due = r →
     r ≤ s.dev.ns → (s.dev.dom t).cmd = some (1, w0, w1, w2) → s.dev.domSet t r = some p →
     w1 % 65536 * 2 ^ 32 + w0 < 0x27F5C28F5D ∨ 0x280A3D70A3 < w1 % 65536 * 2 ^ 32 + w0 →
       Runs (.domainCmdApply t) s fun d => (d.dom t) = { (s.dev.dom t) with cmd := none } ∧ d.f tmDomCmd_BUSY t = 0 ∧ d.f tmDomCmd_RESULT t = 1 ∧ s.dev.Only d { regs := [(.tmDomCmd, t)], parts := [.time] }) ∧
  (∀ (p : DomSet) (w0 w1 w2 r : Nat), s.dev.inWfi 0 = false → s.dev.inWfi 1 = false → (s.dev.dom t).due = r →
     r ≤ s.dev.ns → (s.dev.dom t).cmd = some (2, w0, w1, w2) → s.dev.domSet t r = some p →
     (p.at r : Int) + signed64 (w1 * 2 ^ 32 + w0) * 2 ^ 32 < 0 →
       Runs (.domainCmdApply t) s fun d => (d.dom t) = { (s.dev.dom t) with cmd := none } ∧ d.f tmDomCmd_BUSY t = 0 ∧ d.f tmDomCmd_RESULT t = 1 ∧ s.dev.Only d { regs := [(.tmDomCmd, t)], parts := [.time] }) ∧
  (∀ (p : DomSet) (w0 w1 w2 r : Nat), s.dev.inWfi 0 = false → s.dev.inWfi 1 = false → (s.dev.dom t).due = r →
     r ≤ s.dev.ns → (s.dev.dom t).cmd = some (3, w0, w1, w2) → s.dev.domSet t r = some p → 10 ^ 9 ≤ w0 →
       Runs (.domainCmdApply t) s fun d => (d.dom t) = { (s.dev.dom t) with cmd := none } ∧ d.f tmDomCmd_BUSY t = 0 ∧ d.f tmDomCmd_RESULT t = 1 ∧ s.dev.Only d { regs := [(.tmDomCmd, t)], parts := [.time] }) ∧
  (∀ (p : DomSet) (w0 w1 w2 o r : Nat), s.dev.inWfi 0 = false → s.dev.inWfi 1 = false → (s.dev.dom t).due = r →
     r ≤ s.dev.ns → (s.dev.dom t).cmd = some (2, w0, w1, w2) → s.dev.domSet t r = some p →
     (p.at r : Int) + signed64 (w1 * 2 ^ 32 + w0) * 2 ^ 32 = o →
       Runs (.domainCmdApply t) s fun d => (d.dom t).hist.head? = some { anchor := r, off := o, inc := p.inc } ∧ (d.dom t).cmd = none ∧ d.f tmDomCmd_RESULT t = 0 ∧ d.f tmDomCmd_STEP_GEN t = (s.dev.f tmDomCmd_STEP_GEN t + 1) % 256) ∧
  (∀ (p : DomSet) (w0 w1 w2 r : Nat), s.dev.inWfi 0 = false → s.dev.inWfi 1 = false → (s.dev.dom t).due = r →
     r ≤ s.dev.ns → (s.dev.dom t).cmd = some (3, w0, w1, w2) → s.dev.domSet t r = some p → w0 < 10 ^ 9 →
       Runs (.domainCmdApply t) s fun d => (d.dom t).hist.head? = some { anchor := r, off := ((w2 % 65536 * 2 ^ 32 + w1) * 10 ^ 9 + w0) * 2 ^ 32, inc := p.inc } ∧ d.f tmDomCmd_STEP_GEN t = (s.dev.f tmDomCmd_STEP_GEN t + 1) % 256) ∧
  (
       Runs .latch s fun d => (∀ w ∈ List.range 3, d.rd .tmLatchRaw w = BitVec.ofNat 32 ((s.dev.raw + s.dev.time.sub * 2 ^ 16) / 2 ^ (32 * w))) ∧ s.dev.Only d { arrays := [.tmLatchRaw, .tmLatchDom] }) ∧
  (s.dev.f tmConvCmd_BUSY 0 = 0 →
       Runs (.convGo t) s fun d => d.f tmConvCmd_BUSY 0 = 1 ∧ d.f tmConvCmd_TD 0 = t ∧ s.dev.Only d { regs := [(.tmConvCmd, 0)] }) ∧
  (s.dev.f tmConvCmd_BUSY 0 = 1 → Runs (.convGo t) s fun d => d = s.dev.inc .unitRejWr uTm) ∧
  (s.dev.f tmConvCmd_BUSY 0 = 0 → Runs .convDone s fun d => d = s.dev) ∧
  (∀ (x : Nat), s.dev.f tmConvCmd_BUSY 0 = 1 →
     s.dev.domTime? (s.dev.f tmConvCmd_TD 0) ((s.dev.rd .tmConvIn 1).toNat * 2 ^ 32 + (s.dev.rd .tmConvIn 0).toNat) = some x →
       Runs .convDone s fun d => d.rdTime .tmConvOut 0 = x ∧ d.f tmConvCmd_STATUS 0 = 0 ∧ d.f tmConvCmd_BUSY 0 = 0 ∧ s.dev.Only d { regs := [(.tmConvCmd, 0)], arrays := [.tmConvOut] }) ∧
  (s.dev.f tmConvCmd_BUSY 0 = 1 →
     s.dev.domTime? (s.dev.f tmConvCmd_TD 0) ((s.dev.rd .tmConvIn 1).toNat * 2 ^ 32 + (s.dev.rd .tmConvIn 0).toNat) = none →
       Runs .convDone s fun d => d.f tmConvCmd_STATUS 0 = 1 ∧ d.f tmConvCmd_BUSY 0 = 0)

/-- TT_CTL_WRITE of values that are not allowed only counts as rejected; of a disabled trigger with allowed values it applies
them. A firing of each kind at a trigger of another kind, or before its instant, changes nothing. A firing of its own kind
whose instant has been reached moves the schedule to the next instant, or clears EN of a one-shot, and counts as fired, or as
skipped when a JOB finds no cluster that takes it or a bus port sleeps. TOUT_PULSE_END of an output no trigger names changes
nothing. TCAP_EDGE of a disabled input changes nothing, with 4 records waiting it counts as lost and shows OVF, a pulse
shorter than the filter leaves no record, else it records the time of the edge, which the level has outlived by as many ns as
the command says, and raises the input's event. TCAP_POP drops the oldest record. -/
def Obligations.TriggersAndCaptures : Prop :=
  ∀ (s : State) (n : Fin 32),
    s.On →
  (∀ (v : Word),
     trigOk (bits 27 25 v.toNat) (s.dev.rd .tmTtPeriod n).toNat (s.dev.rd .tmTtTarget n).toNat = false →
       Runs (.ttCtlWrite n v) s fun d => d = s.dev.inc .unitRejWr uTm) ∧
  (∀ (v : Word), v.getLsbD 31 = false →
     trigOk (bits 27 25 v.toNat) (s.dev.rd .tmTtPeriod n).toNat (s.dev.rd .tmTtTarget n).toNat = true →
       Runs (.ttCtlWrite n v) s fun d => d.f tmTtCtl_EN n = 0 ∧ (d.trig n).kind = bits 27 25 v.toNat ∧ (d.trig n).period = (s.dev.rd .tmTtPeriod n).toNat ∧ (d.trig n).target = (s.dev.rd .tmTtTarget n).toNat ∧ (d.trig n).next = none ∧ (d.trig n).count = 0 ∧
       s.dev.Only d { regs := [(.tmTtCtl, n)], parts := [.time, .outs] }) ∧
  (
       ∀ e ∈ [(0, Instr.ttFireNone n), (1, .ttFireSense n), (2, .ttFireJob n), (3, .ttFireLin n), (4, .ttFireCan n), (5, .ttFireTout n)], (s.dev.trig n).kind ≠ e.1 ∨ (s.dev.trig n).next = none → Runs e.2 s fun d => d = s.dev) ∧
  (∀ (q : Nat), (s.dev.trig n).next = some q → s.dev.domNow (s.dev.trig n).td < q →
       ∀ c ∈ [Instr.ttFireNone n, .ttFireSense n, .ttFireJob n, .ttFireLin n, .ttFireCan n, .ttFireTout n], Runs c s fun d => d = s.dev) ∧
  (∀ (q : Nat), (s.dev.trig n).next = some q → q ≤ s.dev.domNow (s.dev.trig n).td → s.dev.f tmTtCtl_EN n = 1 →
     (s.dev.trig n).kind = 0 →
       Runs (.ttFireNone n) s fun d => (d.trig n).next = (if (s.dev.trig n).period = 0 then none else some (q + (s.dev.trig n).period)) ∧ (d.trig n).count = (s.dev.trig n).count + 1 ∧ d.f tmTtCtl_EN n = (if (s.dev.trig n).period = 0 then 0 else 1) ∧ d.ctr .tmTtFired n = s.dev.ctr .tmTtFired n + 1 ∧ s.dev.Only d { regs := [(.tmTtCtl, n)], ctrs := [(.tmTtFired, n)], parts := [.time] }) ∧
  (∀ (q : Nat), (s.dev.trig n).next = some q → q ≤ s.dev.domNow (s.dev.trig n).td → s.dev.f tmTtCtl_EN n = 1 →
     (s.dev.trig n).kind = 1 →
       Runs (.ttFireSense n) s fun d => (d.trig n).next = (if (s.dev.trig n).period = 0 then none else some (q + (s.dev.trig n).period)) ∧ (d.trig n).count = (s.dev.trig n).count + 1 ∧ d.f tmTtCtl_EN n = (if (s.dev.trig n).period = 0 then 0 else 1) ∧ d.ctr .tmTtFired n = s.dev.ctr .tmTtFired n + 1 ∧ s.dev.Only d { regs := [(.tmTtCtl, n)], arrays := [.pdAdcStat], ctrs := [(.tmTtFired, n)], ctrArrays := [.pdAdcOverrun], parts := [.time] }) ∧
  (∀ (q : Nat), (s.dev.trig n).next = some q → q ≤ s.dev.domNow (s.dev.trig n).td → s.dev.f tmTtCtl_EN n = 1 →
     (s.dev.trig n).kind = 2 → (s.dev.trig n).target % 256 = 0 → s.dev.inSepia = false →
       Runs (.ttFireJob n) s fun d => (d.trig n).next = (if (s.dev.trig n).period = 0 then none else some (q + (s.dev.trig n).period)) ∧ (d.trig n).count = (s.dev.trig n).count + 1 ∧ d.f tmTtCtl_EN n = (if (s.dev.trig n).period = 0 then 0 else 1) ∧ d.ctr .tmTtSkipped n = s.dev.ctr .tmTtSkipped n + 1 ∧ d.path = s.dev.path) ∧
  (∀ (q c : Nat), (s.dev.trig n).next = some q → q ≤ s.dev.domNow (s.dev.trig n).td → s.dev.f tmTtCtl_EN n = 1 →
     (s.dev.trig n).kind = 2 → s.dev.trigJob n = false → s.dev.trigCluster n (s.dev.trig n).target = some c →
       Runs (.ttFireJob n) s fun d => (d.trig n).next = (if (s.dev.trig n).period = 0 then none else some (q + (s.dev.trig n).period)) ∧ (d.trig n).count = (s.dev.trig n).count + 1 ∧ d.f tmTtCtl_EN n = (if (s.dev.trig n).period = 0 then 0 else 1) ∧ d.ctr .tmTtFired n = s.dev.ctr .tmTtFired n + 1 ∧ d.dispQ c = .trigger n (s.dev.trig n).target [q, (s.dev.trig n).count, bits 31 16 (s.dev.trig n).target, s.dev.ns] :: s.dev.dispQ c) ∧
  (∀ (q : Nat), (s.dev.trig n).next = some q → q ≤ s.dev.domNow (s.dev.trig n).td → s.dev.f tmTtCtl_EN n = 1 →
     (s.dev.trig n).kind = 3 → (s.dev.trig n).target % 65536 = 0 →
       Runs (.ttFireLin n) s fun d => (d.trig n).next = (if (s.dev.trig n).period = 0 then none else some (q + (s.dev.trig n).period)) ∧ (d.trig n).count = (s.dev.trig n).count + 1 ∧ d.f tmTtCtl_EN n = (if (s.dev.trig n).period = 0 then 0 else 1) ∧ d.ctr .tmTtFired n = s.dev.ctr .tmTtFired n + 1) ∧
  (∀ (q : Nat) (m : Fin 16), (s.dev.trig n).next = some q → q ≤ s.dev.domNow (s.dev.trig n).td →
     s.dev.f tmTtCtl_EN n = 1 → (s.dev.trig n).kind = 3 → bitAt m (s.dev.trig n).target = true →
     s.dev.portAsleep (80 + m) = true →
       Runs (.ttFireLin n) s fun d => (d.trig n).next = (if (s.dev.trig n).period = 0 then none else some (q + (s.dev.trig n).period)) ∧ (d.trig n).count = (s.dev.trig n).count + 1 ∧ d.f tmTtCtl_EN n = (if (s.dev.trig n).period = 0 then 0 else 1) ∧ d.ctr .tmTtSkipped n = s.dev.ctr .tmTtSkipped n + 1 ∧ d.ctr .tmTtFired n = s.dev.ctr .tmTtFired n) ∧
  (∀ (q : Nat), (s.dev.trig n).next = some q → q ≤ s.dev.domNow (s.dev.trig n).td → s.dev.f tmTtCtl_EN n = 1 →
     (s.dev.trig n).kind = 4 → s.dev.portAsleep ((s.dev.trig n).target % 128) = true →
       Runs (.ttFireCan n) s fun d => (d.trig n).next = (if (s.dev.trig n).period = 0 then none else some (q + (s.dev.trig n).period)) ∧ (d.trig n).count = (s.dev.trig n).count + 1 ∧ d.f tmTtCtl_EN n = (if (s.dev.trig n).period = 0 then 0 else 1) ∧ d.ctr .tmTtSkipped n = s.dev.ctr .tmTtSkipped n + 1) ∧
  (∀ (q : Nat), (s.dev.trig n).next = some q → q ≤ s.dev.domNow (s.dev.trig n).td → s.dev.f tmTtCtl_EN n = 1 →
     (s.dev.trig n).kind = 4 → s.dev.portAsleep ((s.dev.trig n).target % 128) = false →
     bits 15 8 (s.dev.trig n).target = 0 →
       Runs (.ttFireCan n) s fun d => (d.trig n).next = (if (s.dev.trig n).period = 0 then none else some (q + (s.dev.trig n).period)) ∧ (d.trig n).count = (s.dev.trig n).count + 1 ∧ d.f tmTtCtl_EN n = (if (s.dev.trig n).period = 0 then 0 else 1) ∧ d.ctr .tmTtFired n = s.dev.ctr .tmTtFired n + 1) ∧
  (∀ (q : Nat), (s.dev.trig n).next = some q → q ≤ s.dev.domNow (s.dev.trig n).td → s.dev.f tmTtCtl_EN n = 1 →
     (s.dev.trig n).kind = 5 →
       Runs (.ttFireTout n) s fun d => (d.trig n).next = (if (s.dev.trig n).period = 0 then none else some (q + (s.dev.trig n).period)) ∧ (d.trig n).count = (s.dev.trig n).count + 1 ∧ d.f tmTtCtl_EN n = (if (s.dev.trig n).period = 0 then 0 else 1) ∧ (d.trig n).pulse = true ∧ d.ctr .tmTtFired n = s.dev.ctr .tmTtFired n + 1 ∧ s.dev.Only d { regs := [(.tmTtCtl, n)], ctrs := [(.tmTtFired, n)], parts := [.time, .outs] }) ∧
  (∀ (k : Fin 4), s.dev.toutTrig k = none → Runs (.toutPulseEnd k) s fun d => d = s.dev) ∧
  (∀ (k : Fin 4) (m : Nat), s.dev.toutTrig k = some m →
       Runs (.toutPulseEnd k) s fun d => (d.trig m).pulse = false ∧ s.dev.Only d { parts := [.time, .outs] }) ∧
  (∀ (c : Fin 8) (rising : Bool) (held : BitVec 16), s.dev.f tmCapCfg_EN c = 0 →
       Runs (.tcapEdge c ⟨rising, held⟩) s fun d => d = s.dev) ∧
  (∀ (c : Fin 8) (rising : Bool) (held : BitVec 16), s.dev.f tmCapCfg_EN c = 1 → s.dev.capShort c = false →
     8 * s.dev.f tmCapCfg_FILTER c ≤ held.toNat → s.dev.f tmCapCfg_EDGE c = 3 → 4 ≤ (s.dev.capFifo c).length →
       Runs (.tcapEdge c ⟨rising, held⟩) s fun d => d.ctr .tmCapLost c = s.dev.ctr .tmCapLost c + 1 ∧ d.f tmCapStat_OVF c = 1 ∧ d.capFifo c = s.dev.capFifo c) ∧
  (∀ (c : Fin 8) (rising : Bool) (held : BitVec 16), s.dev.f tmCapCfg_EN c = 1 → s.dev.capShort c = false →
     8 * s.dev.f tmCapCfg_FILTER c ≤ held.toNat → s.dev.f tmCapCfg_EDGE c = 3 → s.dev.capFifo c = [] →
     Sparse.get (fun _ => none) s.dev.time.capLast c.val = none →
       Runs (.tcapEdge c ⟨rising, held⟩) s fun d => d.capFifo c = [⟨s.dev.domTime (s.dev.f tmCapCfg_TD c) (s.dev.ns - held.toNat), s.dev.ns - held.toNat, rising⟩] ∧ d.f tmCapStat_COUNT c = 1) ∧
  (∀ (c : Fin 8) (rising : Bool) (held : BitVec 16), s.dev.f tmCapCfg_EN c = 1 →
     s.dev.capShort c = true ∨ held.toNat < 8 * s.dev.f tmCapCfg_FILTER c →
       Runs (.tcapEdge c ⟨rising, held⟩) s fun d => d = s.dev.setCapShort c (!s.dev.capShort c)) ∧
  (∀ (c : Fin 8),
       Runs (.tcapPop c) s fun d => d.capFifo c = (s.dev.capFifo c).drop 1 ∧ s.dev.Only d { regs := [(.tmCapStat, c)], parts := [.time] })

/-- CRYPTO_JOB_SUBMIT with 16 jobs and records only counts as rejected, else it takes a snapshot of the arguments as the
newest job. CRYPTO_JOB_START of a page not in service changes nothing; a job that R360 calls bad ends BAD_JOB with its record;
a short job goes to staging. CRYPTO_CHUNK_STAGE with no job in staging changes nothing; with no cluster that serves, the job
ends NO_SERVICE, and one whose DMA a Function Level Reset has stopped DMA_ERROR. CRYPTO_CHUNK_END of a program that left a
result above 0 ends the job with its status. POP drops the oldest record. A context command of a BUSY context only counts;
CLEAR empties the context, RESTORE with a read error or a bad image changes no context, a clear SAVE writes the image to the
page's host, which waits while Bus Master is off as RESTORE does. -/
def Obligations.CryptoPages : Prop :=
  ∀ (s : State) (u : Fin 17),
    s.On →
  (∀ (v : Word), 16 ≤ (s.dev.user u).jobs.length + (s.dev.user u).done.length →
       Runs (.cryptoJobSubmit u v) s fun d => d = s.dev.inc .unitRejWr (uPage u)) ∧
  (∀ (v : Word), (s.dev.user u).jobs.length + (s.dev.user u).done.length < 16 →
       Runs (.cryptoJobSubmit u v) s fun d => (d.user u).next = (s.dev.user u).next + 1 ∧ (d.user u).jobs.length = (s.dev.user u).jobs.length + 1 ∧ (d.user u).done = (s.dev.user u).done ∧
       (d.user u).jobs.getLast?.map (fun j => (j.no, j.id, j.ctx, j.stage)) = some ((s.dev.user u).next, v.toNat % 65536, bits 22 20 v.toNat, .queued) ∧
       (d.user u).jobs.getLast?.map (fun j => (j.decrypt, j.init, j.final, j.len)) = some (v.getLsbD 30, v.getLsbD 29, v.getLsbD 28, s.dev.f cxJobLen_LEN u) ∧ s.dev.Only d { regs := [(.cxJobQ, u)], parts := [.cx] }) ∧
  (s.dev.admits (uPage u) = false ∨ s.dev.inSepia = true ∨ (s.dev.user u).jobs = [] →
       Runs (.cryptoJobStart u) s fun d => d = s.dev) ∧
  (∀ (j : CxJob), s.dev.admits (uPage u) = true → s.dev.inSepia = false → s.dev.cxStartable u = some j →
     s.dev.cxBad u j = true →
       Runs (.cryptoJobStart u) s fun d => d = s.dev.cxEnd u j 5 0 0 ∧ (d.user u).done = (s.dev.user u).done ++ [⟨j.id, 5, 0, 0, j.word⟩] ∧ d.ctr .cxJobsErr u = s.dev.ctr .cxJobsErr u + 1) ∧
  (∀ (j : CxJob), s.dev.admits (uPage u) = true → s.dev.inSepia = false → s.dev.cxStartable u = some j →
     s.dev.cxBad u j = false → cdiv (cxPayload j) 16 ≤ s.dev.f mdPaCfg_BURST_BLOCKS 0 →
       Runs (.cryptoJobStart u) s fun d => d = s.dev.setJob u { j with stage := .chunk } ∧ s.dev.Only d { regs := [(.cxJobQ, u)], parts := [.cx] }) ∧
  (∀ (err : Bool) (data : List Byte), s.dev.inSepia = true ∨ s.dev.cxNextChunk = none →
       Runs (.cryptoChunkStage err data) s fun d => d = s.dev) ∧
  (∀ (err : Bool) (data : List Byte) (j : CxJob), s.dev.inSepia = false → s.dev.cxNextChunk = some (u.val, j) →
     j.cut = false → j.delivered = false → (List.range 8).any s.dev.cxServes = false →
       Runs (.cryptoChunkStage err data) s fun d => d = s.dev.cxFinish u j 13 0 ∧ (d.user u).done = (s.dev.user u).done ++ [⟨j.id, 13, 0, 0, j.word⟩]) ∧
  (∀ (err : Bool) (data : List Byte) (j : CxJob), s.dev.inSepia = false → s.dev.cxNextChunk = some (u.val, j) →
     j.delivered = false → j.cut = true →
       Runs (.cryptoChunkStage err data) s fun d => d = s.dev.cxFinish u j 6 0 ∧ (d.user u).done = (s.dev.user u).done ++ [⟨j.id, 6, 0, 0, j.word⟩]) ∧
  (∀ (data : List Byte) (j : CxJob) (c k : Nat), s.dev.inSepia = false → s.dev.cxNextChunk = some (u.val, j) →
     s.dev.cxJob? u j.no = some j → j.cut = false → (List.range 8).any s.dev.cxServes = true →
     s.dev.cxPlace = some (c, k) →
       Runs (.cryptoChunkStage false data) s fun d => d.dispQ c = .crypto u j.no :: s.dev.dispQ c ∧ (d.cxJob? u j.no).map (fun x => (x.stage, x.cluster, x.slot)) = some (.running, c, k) ∧ d.cx.rr = u) ∧
  (((s.dev.user u).jobs.find? fun j => decide (j.stage = .ended)) = none →
       Runs (.cryptoChunkEnd u {}) s fun d => d = s.dev.cxSettle) ∧
  (∀ (j : CxJob) (e : Nat × Nat), (s.dev.user u).jobs = [j] → j.stage = .ended → j.exc = none →
     j.delivered = false → e ∈ [(1, 1), (2, 4), (3, 2), (4, 3)] →
     leNat (memGet s.dev.eng.cs (csBase j.cluster + s.dev.cxSlotOff j.slot + 0x80) 1) = e.1 →
       Runs (.cryptoChunkEnd u {}) s fun d => (d.user u).done = (s.dev.user u).done ++ [⟨j.id, e.2, 0, 0, leNat (memGet s.dev.eng.cs (csBase j.cluster + s.dev.cxSlotOff j.slot + 0x84) 4)⟩] ∧ (d.user u).jobs = []) ∧
  (
       Runs (.cryptoDonePop u) s fun d => (d.user u).done = (s.dev.user u).done.drop 1 ∧ (d.user u).jobs = (s.dev.user u).jobs ∧ s.dev.Only d { regs := [(.cxJobQ, u)], parts := [.cx] }) ∧
  (∀ (img : List Byte), s.dev.ctxBusy u (s.dev.f cxCtxSel_CTX u) = true →
       ∀ c ∈ [Instr.ctxSave u, .ctxRestore u false img, .ctxClear u], Runs c s fun d => d = s.dev.inc .unitRejWr (uPage u)) ∧
  (s.dev.ctxBusy u (s.dev.f cxCtxSel_CTX u) = false →
       Runs (.ctxClear u) s fun d => d.cxCtx u (s.dev.f cxCtxSel_CTX u) = {} ∧ d.f cxCtxCmd_RESULT u = 0 ∧ (∀ k, k ≠ (s.dev.f cxCtxSel_CTX u) → d.cxCtx u k = s.dev.cxCtx u k) ∧ s.dev.Only d { regs := [(.cxCtxCmd, u), (.cxJobQ, u)], parts := [.cx] }) ∧
  (∀ (img : List Byte), s.dev.ctxBusy u (s.dev.f cxCtxSel_CTX u) = false → s.dev.dmaGo u = true →
       Runs (.ctxRestore u true img) s fun d => d.f cxCtxCmd_RESULT u = 2 ∧ s.dev.Only d { regs := [(.cxCtxCmd, u)] }) ∧
  (∀ (img : List Byte), s.dev.ctxBusy u (s.dev.f cxCtxSel_CTX u) = false → s.dev.dmaGo u = false →
       ∀ c ∈ [Instr.ctxRestore u true img, .ctxRestore u false img], Runs c s fun d => d = s.dev) ∧
  (∀ (img : List Byte), s.dev.ctxBusy u (s.dev.f cxCtxSel_CTX u) = false → s.dev.dmaGo u = true →
     s.dev.ctxImage u ((slice (if u.val < 16 then img else s.dev.sramGet (s.dev.ctxAddr u) 184) 0 184).map BitVec.toNat) = none →
       Runs (.ctxRestore u false img) s fun d => d.f cxCtxCmd_RESULT u = 3 ∧ s.dev.Only d { regs := [(.cxCtxCmd, u)] }) ∧
  (∀ (img : List Byte) (x : CxCtx), s.dev.ctxBusy u (s.dev.f cxCtxSel_CTX u) = false → s.dev.dmaGo u = true →
     s.dev.ctxImage u ((slice (if u.val < 16 then img else s.dev.sramGet (s.dev.ctxAddr u) 184) 0 184).map BitVec.toNat) = some x →
       Runs (.ctxRestore u false img) s fun d => d.cxCtx u (s.dev.f cxCtxSel_CTX u) = x ∧ d.f cxCtxCmd_RESULT u = 0 ∧ s.dev.Only d { regs := [(.cxCtxCmd, u), (.cxJobQ, u)], parts := [.cx] }) ∧
  (s.dev.ctxBusy u (s.dev.f cxCtxSel_CTX u) = false → u < 16 → s.dev.dmaGo u = true →
     s.dev.f cxPageCfg_CLEAR_CTX u = 1 →
       Runs (.ctxSave u) s fun d => d.f cxCtxCmd_RESULT u = 0 ∧ d.outs = s.dev.outs ++ [.hostWrite u (s.dev.ctxAddr u) ((leOctets 2 0x4358 ++ [2, 0] ++ leOctets 2 0 ++ leOctets 2 160 ++ List.replicate 8 0 ++ ctxBody u (s.dev.cxCtx u (s.dev.f cxCtxSel_CTX u))).map byteOf)] ∧
       s.dev.Only d { regs := [(.cxCtxCmd, u)], parts := [.outs] }) ∧
  (s.dev.ctxBusy u (s.dev.f cxCtxSel_CTX u) = false → u < 16 → s.dev.dmaGo u = false →
     s.dev.f cxPageCfg_CLEAR_CTX u = 1 →
       Runs (.ctxSave u) s fun d => d.f cxCtxCmd_RESULT u = 0 ∧ d.host = { s.dev.host with dma := s.dev.host.dma ++ [(u.val, s.dev.ctxAddr u, (leOctets 2 0x4358 ++ [2, 0] ++ leOctets 2 0 ++ leOctets 2 160 ++ List.replicate 8 0 ++ ctxBody u (s.dev.cxCtx u (s.dev.f cxCtxSel_CTX u))).map byteOf)] } ∧
       s.dev.Only d { regs := [(.cxCtxCmd, u)], parts := [.host] }) ∧
  (s.dev.ctxBusy u (s.dev.f cxCtxSel_CTX u) = false → s.dev.f cxPageCfg_CLEAR_CTX u = 0 →
     s.dev.f ksRoot_STATE 0 ≠ 1 →
       Runs (.ctxSave u) s fun d => d.f cxCtxCmd_RESULT u = 3 ∧ s.dev.Only d { regs := [(.cxCtxCmd, u)] })

/-- A command while BUSY changes nothing. One for a slot that the user may not act on, and one with attributes that the user
may not write, end with PERMISSION, attributes that are not well formed with BAD_ARG, a slot of another owner with BAD_SLOT, a
missing DRBG with NO_ENTROPY: each changes only its result and its cleared data buffer. GENERATE, IMPORT (with CLEAR_IMPORT)
and DERIVE of a free slot make it valid with the attributes and one more in GEN; IMPORT holds the bytes given. DERIVE and
UNWRAP from a slot of the wrong use end with DENIED. LOAD of no blob ends BAD_BLOB. WRAP_OUT of an empty slot ends BAD_SLOT.
ERASE empties the slot. READ_ATTR shows the attributes in the data buffer. -/
def Obligations.KeyStoreCommands : Prop :=
  ∀ (s : State) (u : Fin 17) (slot aux : BitVec 12),
    s.On →
  (s.dev.f cxKsStatus_BUSY u = 1 →
       ∀ c ∈ [Instr.ksLoad u slot, .generate u slot, .import u slot, .derive u slot aux, .wrapOut u slot, .erase u slot, .unwrap u slot aux, .readAttr u slot], Runs c s fun d => d = s.dev) ∧
  (s.dev.f cxKsStatus_BUSY u = 0 → s.dev.slotTaken slot.toNat = false → s.dev.ksMayAct u slot.toNat = false →
       ∀ c ∈ [Instr.ksLoad u slot, .generate u slot, .import u slot, .derive u slot aux, .wrapOut u slot, .erase u slot, .unwrap u slot aux, .readAttr u slot], Runs c s fun d => d.f cxKsStatus_RESULT u = 1 ∧ s.dev.Only d (Foot.ksResult u)) ∧
  (s.dev.f cxKsStatus_BUSY u = 0 → s.dev.slotTaken slot.toNat = false → s.dev.ksMayAct u slot.toNat = true →
     ksMayOwn u (s.dev.rd .cxKsAttr u).toNat = false →
       ∀ c ∈ [Instr.generate u slot, .import u slot, .derive u slot aux, .unwrap u slot aux], Runs c s fun d => d.f cxKsStatus_RESULT u = 1 ∧ s.dev.Only d (Foot.ksResult u)) ∧
  (s.dev.f cxKsStatus_BUSY u = 0 → s.dev.slotTaken slot.toNat = false → s.dev.ksMayAct u slot.toNat = true →
     ksMayOwn u (s.dev.rd .cxKsAttr u).toNat = true → atOk (s.dev.rd .cxKsAttr u).toNat = false →
       ∀ c ∈ [Instr.generate u slot, .import u slot, .derive u slot aux, .unwrap u slot aux], Runs c s fun d => d.f cxKsStatus_RESULT u = 4 ∧ s.dev.Only d (Foot.ksResult u)) ∧
  (s.dev.f cxKsStatus_BUSY u = 0 → s.dev.slotTaken slot.toNat = false → s.dev.ksMayAct u slot.toNat = true →
     ksMayOwn u (s.dev.rd .cxKsAttr u).toNat = true → atOk (s.dev.rd .cxKsAttr u).toNat = true →
     atValid (s.dev.slotAttr slot.toNat) = true →
     atOwner (s.dev.slotAttr slot.toNat) ≠ atOwner (s.dev.rd .cxKsAttr u).toNat →
       Runs (.generate u slot) s fun d => d.f cxKsStatus_RESULT u = 2 ∧ s.dev.Only d (Foot.ksResult u)) ∧
  (s.dev.f cxKsStatus_BUSY u = 0 → s.dev.slotTaken slot.toNat = false → s.dev.ksMayAct u slot.toNat = true →
     ksMayOwn u (s.dev.rd .cxKsAttr u).toNat = true → atOk (s.dev.rd .cxKsAttr u).toNat = true →
     atValid (s.dev.slotAttr slot.toNat) = false → s.dev.cx.drbg = false →
       Runs (.generate u slot) s fun d => d.f cxKsStatus_RESULT u = 6 ∧ s.dev.Only d (Foot.ksResult u)) ∧
  (s.dev.f cxKsStatus_BUSY u = 0 → s.dev.slotTaken slot.toNat = false → s.dev.ksMayAct u slot.toNat = true →
     ksMayOwn u (s.dev.rd .cxKsAttr u).toNat = true → atOk (s.dev.rd .cxKsAttr u).toNat = true →
     atValid (s.dev.slotAttr slot.toNat) = false ∨ atOwner (s.dev.slotAttr slot.toNat) = atOwner (s.dev.rd .cxKsAttr u).toNat →
     s.dev.cx.drbg = true → s.dev.slotInUse slot.toNat (atGen (s.dev.slotAttr slot.toNat)) = false →
       Runs (.generate u slot) s fun d => d.f cxKsStatus_RESULT u = 0 ∧ atValid (d.slotAttr slot.toNat) = true ∧ atOwner (d.slotAttr slot.toNat) = atOwner (s.dev.rd .cxKsAttr u).toNat ∧ atGen (d.slotAttr slot.toNat) = (atGen (s.dev.slotAttr slot.toNat) + 1) % 256 ∧ s.dev.Only d (Foot.ksSlot u slot.toNat)) ∧
  (s.dev.f cxKsStatus_BUSY u = 0 → s.dev.slotTaken slot.toNat = false → s.dev.ksMayAct u slot.toNat = true →
     ksMayOwn u (s.dev.rd .cxKsAttr u).toNat = true → atOk (s.dev.rd .cxKsAttr u).toNat = true →
     atValid (s.dev.slotAttr slot.toNat) = false ∨ atOwner (s.dev.slotAttr slot.toNat) = atOwner (s.dev.rd .cxKsAttr u).toNat →
     s.dev.cx.drbg = true → s.dev.slotInUse slot.toNat (atGen (s.dev.slotAttr slot.toNat)) = false →
     s.dev.f cxPageCfg_CLEAR_IMPORT u = 1 →
       Runs (.import u slot) s fun d => d.f cxKsStatus_RESULT u = 0 ∧ atValid (d.slotAttr slot.toNat) = true ∧ atOwner (d.slotAttr slot.toNat) = atOwner (s.dev.rd .cxKsAttr u).toNat ∧ atGen (d.slotAttr slot.toNat) = (atGen (s.dev.slotAttr slot.toNat) + 1) % 256 ∧ d.slotKey slot.toNat = (s.dev.ksBuf u).take (atKlen (s.dev.rd .cxKsAttr u).toNat) ∧ s.dev.Only d (Foot.ksSlot u slot.toNat)) ∧
  (s.dev.f cxKsStatus_BUSY u = 0 → s.dev.slotTaken slot.toNat = false → s.dev.ksMayAct u slot.toNat = true →
     ksMayOwn u (s.dev.rd .cxKsAttr u).toNat = true → atOk (s.dev.rd .cxKsAttr u).toNat = true →
     s.dev.f cxPageCfg_CLEAR_IMPORT u = 0 →
       Runs (.import u slot) s fun d => d.f cxKsStatus_RESULT u = 1 ∧ s.dev.Only d (Foot.ksResult u)) ∧
  (s.dev.f cxKsStatus_BUSY u = 0 → s.dev.slotTaken slot.toNat = false → s.dev.ksMayAct u slot.toNat = true →
     ksMayOwn u (s.dev.rd .cxKsAttr u).toNat = true → atOk (s.dev.rd .cxKsAttr u).toNat = true →
     atValid (s.dev.slotAttr slot.toNat) = false ∨ atOwner (s.dev.slotAttr slot.toNat) = atOwner (s.dev.rd .cxKsAttr u).toNat →
     s.dev.cx.drbg = true → s.dev.slotInUse slot.toNat (atGen (s.dev.slotAttr slot.toNat)) = false →
     1 ≤ (s.dev.ksBuf u).getD 0 0 → (s.dev.ksBuf u).getD 0 0 ≤ 24 → (s.dev.ksBuf u).getD 25 0 ≤ 38 →
     s.dev.ksInput u aux.toNat atKdf = true →
       Runs (.derive u slot aux) s fun d => d.f cxKsStatus_RESULT u = 0 ∧ atValid (d.slotAttr slot.toNat) = true ∧ atOwner (d.slotAttr slot.toNat) = atOwner (s.dev.rd .cxKsAttr u).toNat ∧ atGen (d.slotAttr slot.toNat) = (atGen (s.dev.slotAttr slot.toNat) + 1) % 256 ∧ s.dev.Only d (Foot.ksSlot u slot.toNat)) ∧
  (s.dev.f cxKsStatus_BUSY u = 0 → s.dev.slotTaken slot.toNat = false → s.dev.ksMayAct u slot.toNat = true →
     ksMayOwn u (s.dev.rd .cxKsAttr u).toNat = true → atOk (s.dev.rd .cxKsAttr u).toNat = true →
     1 ≤ (s.dev.ksBuf u).getD 0 0 → (s.dev.ksBuf u).getD 0 0 ≤ 24 → (s.dev.ksBuf u).getD 25 0 ≤ 38 →
     s.dev.ksInput u aux.toNat atKdf = false →
       Runs (.derive u slot aux) s fun d => d.f cxKsStatus_RESULT u = 7 ∧ s.dev.Only d (Foot.ksResult u)) ∧
  (s.dev.f cxKsStatus_BUSY u = 0 → s.dev.slotTaken slot.toNat = false → s.dev.ksMayAct u slot.toNat = true →
     ksMayOwn u (s.dev.rd .cxKsAttr u).toNat = true → atOk (s.dev.rd .cxKsAttr u).toNat = true →
     24 ≤ (s.dev.ksBuf u).getD 63 0 → (s.dev.ksBuf u).getD 63 0 ≤ 48 → s.dev.ksInput u aux.toNat atWrap = false →
       Runs (.unwrap u slot aux) s fun d => d.f cxKsStatus_RESULT u = 7 ∧ s.dev.Only d (Foot.ksResult u)) ∧
  (∀ (k : List Nat), s.dev.f cxKsStatus_BUSY u = 0 → s.dev.slotTaken slot.toNat = false →
     s.dev.ksMayAct u slot.toNat = true → ksMayOwn u (s.dev.rd .cxKsAttr u).toNat = true →
     atOk (s.dev.rd .cxKsAttr u).toNat = true →
     atValid (s.dev.slotAttr slot.toNat) = false ∨ atOwner (s.dev.slotAttr slot.toNat) = atOwner (s.dev.rd .cxKsAttr u).toNat →
     s.dev.cx.drbg = true → s.dev.slotInUse slot.toNat (atGen (s.dev.slotAttr slot.toNat)) = false →
     24 ≤ (s.dev.ksBuf u).getD 63 0 → (s.dev.ksBuf u).getD 63 0 ≤ 48 → s.dev.ksInput u aux.toNat atWrap = true →
     kwpUnwrap (s.dev.slotKey aux.toNat) ((s.dev.ksBuf u).take ((s.dev.ksBuf u).getD 63 0)) = some k →
     k.length = atKlen (s.dev.rd .cxKsAttr u).toNat →
       Runs (.unwrap u slot aux) s fun d => d.f cxKsStatus_RESULT u = 0 ∧ atValid (d.slotAttr slot.toNat) = true ∧ atOwner (d.slotAttr slot.toNat) = atOwner (s.dev.rd .cxKsAttr u).toNat ∧ atGen (d.slotAttr slot.toNat) = (atGen (s.dev.slotAttr slot.toNat) + 1) % 256 ∧ s.dev.Only d (Foot.ksSlot u slot.toNat)) ∧
  (s.dev.f cxKsStatus_BUSY u = 0 → s.dev.slotTaken slot.toNat = false → s.dev.ksMayAct u slot.toNat = true →
     ofLeOctets ((s.dev.ksBuf u).take 2) ≠ 0x4B42 →
       Runs (.ksLoad u slot) s fun d => d.f cxKsStatus_RESULT u = 3 ∧ s.dev.Only d (Foot.ksResult u)) ∧
  (s.dev.f cxKsStatus_BUSY u = 0 → s.dev.slotTaken slot.toNat = false → s.dev.ksMayAct u slot.toNat = true →
     s.dev.ksBuf u = leOctets 2 0x4B42 ++ [1, u.val] ++ leOctets 2 (s.dev.f ksWrapGen_CUR u) ++ leOctets 2 32 ++ List.replicate 56 0 →
     s.dev.f ksRoot_STATE 0 ≠ 1 →
       Runs (.ksLoad u slot) s fun d => d.f cxKsStatus_RESULT u = 8 ∧ s.dev.Only d (Foot.ksResult u)) ∧
  (s.dev.f cxKsStatus_BUSY u = 0 → s.dev.slotTaken slot.toNat = false → s.dev.ksMayAct u slot.toNat = true →
     atValid (s.dev.slotAttr slot.toNat) = false →
       Runs (.wrapOut u slot) s fun d => d.f cxKsStatus_RESULT u = 2 ∧ s.dev.Only d (Foot.ksResult u)) ∧
  (s.dev.f cxKsStatus_BUSY u = 0 → s.dev.slotTaken slot.toNat = false → s.dev.ksMayAct u slot.toNat = true →
     atValid (s.dev.slotAttr slot.toNat) = true → atOwner (s.dev.slotAttr slot.toNat) = u →
     atExport (s.dev.slotAttr slot.toNat) = false →
       Runs (.wrapOut u slot) s fun d => d.f cxKsStatus_RESULT u = 5 ∧ s.dev.Only d (Foot.ksResult u)) ∧
  (s.dev.f cxKsStatus_BUSY u = 0 → s.dev.slotTaken slot.toNat = false → s.dev.ksMayAct u slot.toNat = true →
     atValid (s.dev.slotAttr slot.toNat) = true → atOwner (s.dev.slotAttr slot.toNat) ≠ u →
       Runs (.wrapOut u slot) s fun d => d.f cxKsStatus_RESULT u = 1 ∧ s.dev.Only d (Foot.ksResult u)) ∧
  (∀ (k : List Nat), s.dev.f cxKsStatus_BUSY u = 0 → s.dev.slotTaken slot.toNat = false →
     s.dev.ksMayAct u slot.toNat = true → atValid (s.dev.slotAttr slot.toNat) = true →
     atOwner (s.dev.slotAttr slot.toNat) = u → atExport (s.dev.slotAttr slot.toNat) = true →
     s.dev.wrapKey u (s.dev.f ksWrapGen_CUR u) = some k →
       Runs (.wrapOut u slot) s fun d => d.f cxKsStatus_RESULT u = 0 ∧ d.slotAttr slot.toNat = (s.dev.slotAttr slot.toNat) ∧ s.dev.Only d (Foot.ksResult u)) ∧
  (s.dev.f cxKsStatus_BUSY u = 0 → s.dev.slotTaken slot.toNat = false → s.dev.ksMayAct u slot.toNat = true →
     s.dev.slotInUse slot.toNat (atGen (s.dev.slotAttr slot.toNat)) = false →
       Runs (.erase u slot) s fun d => d.f cxKsStatus_RESULT u = 0 ∧ atValid (d.slotAttr slot.toNat) = false ∧ atGen (d.slotAttr slot.toNat) = (atGen (s.dev.slotAttr slot.toNat) + 1) % 256 ∧ s.dev.Only d (Foot.ksSlot u slot.toNat)) ∧
  (s.dev.f cxKsStatus_BUSY u = 0 → s.dev.slotTaken slot.toNat = false → s.dev.ksMayAct u slot.toNat = true →
       Runs (.readAttr u slot) s fun d => d.f cxKsStatus_RESULT u = 0 ∧ d.rd .cxKsData (16 * u) = s.dev.rd .ksSlotAttr slot.toNat ∧ s.dev.Only d (Foot.ksResult u))

/-- KEY_SWITCH_DRAINED of a page whose key command waits clears BUSY and the old key; of another page, or while a block under
the old key is in flight, it changes nothing. REMASK_SWEEP_DUE while an earlier sweep is due, waits or runs counts
ksRemaskLate and raises EV25; REMASK_SWEEP_DONE of no running sweep, or while the DRBG is stopped, changes nothing. A health
failure stops the DRBG, counts and raises EV24; a passed retest starts it, and a root secret that waited for it asks for its
leave. KS_QUOTA_WRITE stores BASE and COUNT, or only counts as rejected when the range passes the last slot or meets another
user's. WRAP_GEN_WRITE moves CUR to PREV. -/
def Obligations.KeyStoreUpkeep : Prop :=
  ∀ (s : State),
    s.On →
  (∀ (u : Fin 17), s.dev.cx.switching = [] → Runs (.keySwitchDrained u) s fun d => d = s.dev) ∧
  (∀ (u : Fin 17) (x : Nat), s.dev.cx.switching = [(u.val, x)] → s.dev.cx.waiting = [] →
     (s.dev.keySlot x).old.any (fun k => s.dev.slotInUse x (packedGen k)) = false →
       Runs (.keySwitchDrained u) s fun d => d.f cxKsStatus_BUSY u = 0 ∧ (d.keySlot x).old = none ∧ s.dev.Only d { regs := [(.cxKsStatus, u)], parts := [.cx] }) ∧
  (∀ (u : Fin 17) (x : Nat), s.dev.cx.switching = [(u.val, x)] →
     (s.dev.keySlot x).old.any (fun k => s.dev.slotInUse x (packedGen k)) = true →
       Runs (.keySwitchDrained u) s fun d => d = s.dev) ∧
  (s.dev.cx.sweep ≠ 0 →
       Runs .remaskSweepDue s fun d => d.cx = { s.dev.cx with due := true } ∧ d.ctr .ksRemaskLate 0 = s.dev.ctr .ksRemaskLate 0 + 1 ∧ s.dev.Only d { ctrs := [(.ksRemaskLate, 0)], parts := [.cx], events := true }) ∧
  (s.dev.cx.sweep = 0 → s.dev.cx.due = false → s.dev.cx.drbg = false →
       Runs .remaskSweepDue s fun d => d.cx = { s.dev.cx with due := true } ∧ s.dev.Only d { parts := [.cx] }) ∧
  (s.dev.cx.sweep = 0 → s.dev.cx.due = true → s.dev.cx.drbg = false →
       Runs .remaskSweepDue s fun d => d.cx = s.dev.cx ∧ d.ctr .ksRemaskLate 0 = s.dev.ctr .ksRemaskLate 0 + 1 ∧ s.dev.Only d { ctrs := [(.ksRemaskLate, 0)], parts := [.cx], events := true }) ∧
  (s.dev.cx.sweep ≠ 2 ∨ s.dev.cx.drbg = false → Runs .remaskSweepDone s fun d => d = s.dev) ∧
  (s.dev.cx.sweep = 2 → s.dev.cx.drbg = true → s.dev.cx.due = false → s.dev.cx.keys = [] →
     (s.dev.acct 0).waiting = [] → Runs .remaskSweepDone s fun d => d.cx.sweep = 0 ∧ d.cx.keys = s.dev.cx.keys) ∧
  (s.dev.cx.drbg = true →
       Runs .entropyHealthFail s fun d => d.cx = { s.dev.cx with drbg := false } ∧ d.ctr .ksEntropyFail 0 = s.dev.ctr .ksEntropyFail 0 + 1 ∧ s.dev.Only d { ctrs := [(.ksEntropyFail, 0)], parts := [.cx], events := true }) ∧
  (∀ (pass : Bool), s.dev.cx.due = false → s.dev.mg.rootWait = none →
       Runs (.entropyRetest pass) s fun d => d.cx.drbg = (s.dev.cx.drbg || pass) ∧ s.dev.Only d { parts := [.cx] }) ∧
  (∀ (a b : Bool), s.dev.cx.drbg = false → s.dev.cx.due = false → s.dev.mg.rootWait = some (a, b) →
     s.dev.vcoreHas 350 = true →
       Runs (.entropyRetest true) s fun d => d.cx.drbg = true ∧ d.mg.rootWait = none ∧ d.mg.fuse = some (if s.dev.f ksRoot_STATE 0 = 0 then .root a b else .lifecycle 1)) ∧
  (∀ (u : Fin 18) (v : Word), 4096 < bits 27 16 v.toNat + v.toNat % 2 ^ 13 →
       Runs (.ksQuotaWrite u v) s fun d => d = s.dev.inc .unitRejWr uKs) ∧
  (∀ (u : Fin 18) (v : Word), bits 27 16 v.toNat + v.toNat % 2 ^ 13 ≤ 4096 →
     ((List.range 18).all fun x => x == u.val || s.dev.f ksQuota_COUNT x == 0 || decide (s.dev.f ksQuota_BASE x + s.dev.f ksQuota_COUNT x ≤ bits 27 16 v.toNat) || decide (bits 27 16 v.toNat + v.toNat % 2 ^ 13 ≤ s.dev.f ksQuota_BASE x)) = true →
       Runs (.ksQuotaWrite u v) s fun d => d.f ksQuota_BASE u = bits 27 16 v.toNat ∧ d.f ksQuota_COUNT u = v.toNat % 2 ^ 13 ∧ s.dev.Only d { regs := [(.ksQuota, u)] }) ∧
  (∀ (u : Fin 18) (v : Word),
       Runs (.wrapGenWrite u v) s fun d => d.f ksWrapGen_CUR u = v.toNat % 65536 ∧ d.f ksWrapGen_PREV u = s.dev.f ksWrapGen_CUR u ∧ s.dev.Only d { regs := [(.ksWrapGen, u)] })

/-- A permitted write for a channel that has not been reported, that leads no gang, or in Sepia from another initiator than
the management subsystem only counts as rejected; in QUIESCED it only counts as refused. ON of an OFF single channel enters
RAMP with RETRY_MAX retries and counts a turn-on, and no other channel changes. ON of a gang with a bad profile leaves OFF
with BAD_PROFILE; of one that the account can hold ever, it asks for leave and waits in ADMIT; of one above the whole budget
it is denied. OFF stops a channel that conducts, withdraws its request and releases its grant, but from ON holds the grant to
the end of its window; a LATCHED one stays LATCHED. CLEAR of a LATCHED channel that has cooled, with THETA at most 0.5, leaves
OFF, or turns on again; of another it counts as rejected. -/
def Obligations.LoadSwitching : Prop :=
  ∀ (s : State) (init : Initiator) (n : Fin 96),
    s.On →
  (∀ (on : Bool), s.dev.may init .ldCtl n = true →
     s.dev.ldReported (n / 32) = false ∨ s.dev.isLeader n = false ∨ (s.dev.inSepia = true ∧ init ≠ 0) →
       ∀ c ∈ [Instr.ldCtlWrite init n on, .loadClear init n], Runs c s fun d => d = s.dev.inc .unitRejWr (uLd n)) ∧
  (∀ (on : Bool), s.dev.may init .ldCtl n = true → s.dev.ldReported (n / 32) = true → s.dev.isLeader n = true →
     s.dev.inSepia = false ∨ init = 0 →
     s.dev.actsAs (uPd (n / 32)) = stQuiesced ∨ s.dev.actsAs (uLd n) = stQuiesced →
       ∀ c ∈ [Instr.ldCtlWrite init n on, .loadClear init n], Runs c s fun d => d = s.dev.inc .unitRefused (uLd n)) ∧
  (s.dev.ldOpen init n = true → (s.dev.ld n).st = ldOff → s.dev.dieRuns (n / 32) = true → s.dev.gangSize n = 1 →
       Runs (.ldCtlWrite init n true) s fun d => d.ld n = rampFrom { (s.dev.ld n) with sepia := false, loc := false } (s.dev.f ldCfg_RETRY_MAX n) ∧ d.ctr .ldOnCnt n = s.dev.ctr .ldOnCnt n + 1 ∧ (∀ k, k ≠ n → d.ld k = s.dev.ld k) ∧ s.dev.Only d { Foot.ld with ctrs := [(.ldOnCnt, n)] }) ∧
  (s.dev.ldOpen init n = true → (s.dev.ld n).st ≠ ldOff →
       Runs (.ldCtlWrite init n true) s fun d => d.ld n = { { (s.dev.ld n) with sepia := false, loc := false } with on := true } ∧ s.dev.Only d Foot.ld) ∧
  (s.dev.ldOpen init n = true → (s.dev.ld n).st = ldOff → s.dev.dieRuns (n / 32) = true → 4 ≤ s.dev.gangSize n →
     s.dev.ldPhases (n / 32) (s.dev.f ldCfg_PROFILE n) = none →
       Runs (.ldCtlWrite init n true) s fun d => (d.ld n).st = ldOff ∧ (d.ld n).on = false ∧ (d.ld n).cause = 6 ∧ s.dev.Only d { Foot.ld with ctrs := [(.ldOnCnt, n)], events := true }) ∧
  (∀ (ph : List Nat), s.dev.ldOpen init n = true → (s.dev.ld n).st = ldOff → s.dev.dieRuns (n / 32) = true →
     4 ≤ s.dev.gangSize n → s.dev.ldPhases (n / 32) (s.dev.f ldCfg_PROFILE n) = some ph →
     s.dev.dieLink (n / 32) = true → s.dev.ldCost n ph ≤ s.dev.paBudget (1 + n / 32) →
     (s.dev.acct (1 + n / 32)).waiting.length < 64 →
       Runs (.ldCtlWrite init n true) s fun d => (d.ld n).st = ldAdmit ∧ (d.ld n).on = true ∧ (d.acct (1 + n / 32)).waiting = (s.dev.acct (1 + n / 32)).waiting ++ [⟨.gang n, s.dev.ldCost n ph, s.dev.paNext⟩] ∧ d.paNext = s.dev.paNext + 1 ∧ s.dev.Only d Foot.ldAll) ∧
  (∀ (ph : List Nat), s.dev.ldOpen init n = true → (s.dev.ld n).st = ldOff → s.dev.dieRuns (n / 32) = true →
     4 ≤ s.dev.gangSize n → s.dev.ldPhases (n / 32) (s.dev.f ldCfg_PROFILE n) = some ph →
     s.dev.dieLink (n / 32) = true → s.dev.paBudget (1 + n / 32) < s.dev.ldCost n ph →
       Runs (.ldCtlWrite init n true) s fun d => (d.ld n).st = ldOff ∧ (d.ld n).on = false ∧ (d.ld n).denied = true ∧ (d.ld n).cause = 5 ∧ d.ctr .ldDenied n = s.dev.ctr .ldDenied n + 1 ∧ d.ctr .mdPaDenied 0 = s.dev.ctr .mdPaDenied 0 + 1 ∧ d.pa = s.dev.pa ∧ s.dev.Only d Foot.ldAll) ∧
  (s.dev.ldOpen init n = true → (s.dev.ld n).st ≠ ldOff → (s.dev.ld n).st ≠ ldLatched → (s.dev.ld n).st ≠ ldOn →
     (s.dev.ld n).grant = true →
       Runs (.ldCtlWrite init n false) s fun d => d.ld n = offFrom { (s.dev.ld n) with sepia := false, loc := false } ∧ (d.acct (1 + n / 32)).grants = ((s.dev.acct (1 + n / 32)).grants.reverse.eraseP (·.who == .gang n)).reverse ∧ s.dev.Only d Foot.ldPa) ∧
  (s.dev.ldOpen init n = true → (s.dev.ld n).st = ldOn → (s.dev.ld n).grant = true →
       Runs (.ldCtlWrite init n false) s fun d => d.ld n = { offFrom { (s.dev.ld n) with sepia := false, loc := false } with held := (s.dev.ld n).held + 1 } ∧ (d.acct (1 + n / 32)).grants = (s.dev.acct (1 + n / 32)).grants ∧ s.dev.Only d Foot.ldPa) ∧
  (s.dev.ldOpen init n = true → (s.dev.ld n).st ≠ ldOff → (s.dev.ld n).st ≠ ldLatched →
     (s.dev.ld n).grant = false →
       Runs (.ldCtlWrite init n false) s fun d => d.ld n = { offFrom { (s.dev.ld n) with sepia := false, loc := false } with windowDone := (s.dev.ld n).windowDone } ∧ (d.acct (1 + n / 32)).grants = (s.dev.acct (1 + n / 32)).grants ∧ s.dev.Only d Foot.ldPa) ∧
  (s.dev.ldOpen init n = true → (s.dev.ld n).st = ldOff ∨ (s.dev.ld n).st = ldLatched →
       Runs (.ldCtlWrite init n false) s fun d => d.ld n = { { (s.dev.ld n) with sepia := false, loc := false } with on := false } ∧ s.dev.Only d Foot.ld) ∧
  (s.dev.ldOpen init n = true → (s.dev.ld n).st = ldLatched → (s.dev.ld n).on = false → s.dev.ldCooled n = true →
     (s.dev.ld n).theta / 2 ^ 16 ≤ 2 ^ 15 →
       Runs (.loadClear init n) s fun d => (d.ld n).st = ldOff ∧ (d.ld n).exhausted = false ∧ (d.ld n).tripTemp = none ∧ s.dev.Only d Foot.ld) ∧
  (s.dev.ldOpen init n = true → (s.dev.ld n).st = ldLatched → (s.dev.ld n).on = true → s.dev.ldCooled n = true →
     (s.dev.ld n).theta / 2 ^ 16 ≤ 2 ^ 15 → s.dev.dieRuns (n / 32) = true → s.dev.gangSize n = 1 →
       Runs (.loadClear init n) s fun d => (d.ld n).st = ldRamp ∧ (d.ld n).retries = (s.dev.f ldCfg_RETRY_MAX n) ∧ (d.ld n).exhausted = false ∧ d.ctr .ldOnCnt n = s.dev.ctr .ldOnCnt n + 1 ∧ s.dev.Only d { Foot.ld with ctrs := [(.ldOnCnt, n)] }) ∧
  (s.dev.ldOpen init n = true → (s.dev.ld n).st = ldLatched →
     s.dev.ldCooled n = false ∨ 2 ^ 15 < (s.dev.ld n).theta / 2 ^ 16 →
       Runs (.loadClear init n) s fun d => d.ld n = { (s.dev.ld n) with sepia := false, loc := false } ∧ d.ctr .unitRejWr (uLd n) = s.dev.ctr .unitRejWr (uLd n) + 1 ∧ s.dev.Only d { Foot.ld with ctrs := [(.unitRejWr, uLd n)] })

/-- Nothing happens on a die that its own reset holds. A finished ramp enters ON; the next phase of a profile starts; the
grant is released at the end of its window, or with the ramp when that is later, and one that has outlived its turn-on first.
A trip in RAMP or ON switches the gang off, with its cause, its counter and its event: to COOL with one retry fewer in restart
mode, to LATCHED in latch mode or without retries, with EXHAUSTED set. An overcurrent inside the phases of a profile trips
nothing. Each wire model moves toward the square of the current, but on a die that reboots it holds; at 1.0 a channel that
conducts goes to LATCHED. After 10 s in ON the retries are RETRY_MAX again. A cooled single channel in COOL enters RAMP. -/
def Obligations.LoadProtection : Prop :=
  ∀ (s : State) (n : Fin 96),
  (∀ (p : Fin 3) (k : Fin 4) (t : BitVec 16) (ts : List (BitVec 16)), s.dev.load.down.contains p.val = true →
     n / 32 = p.val →
       ∀ c ∈ [Instr.loadRampDone n, .loadPhaseEnd n, .loadThermalTrip n t, .loadOcTrip n, .wireModelUpdate p ts, .loadRetryReload n, .loadCooled n ts, .loadGrantRelease n, .vbatUndervoltage p, .vbatRecovered p, .adcEntryDone p k t true, .openLoadOffCheck n true, .aggAverageCheck p (), .lossOfControl p, .locEnded p], Runs c s fun d => d = s.dev) ∧
  (s.dev.load.down.contains (n / 32) = false → (s.dev.ld n).st = ldRamp →
     (s.dev.ld n).phases.length ≤ (s.dev.ld n).phase + 1 →
     (s.dev.ld n).windowDone = false ∨ (s.dev.ld n).grant = false →
       Runs (.loadRampDone n) s fun d => d.ld n = { (s.dev.ld n) with st := ldOn } ∧ s.dev.Only d Foot.ld) ∧
  (s.dev.load.down.contains (n / 32) = false → (s.dev.ld n).st = ldRamp →
     (s.dev.ld n).phases.length ≤ (s.dev.ld n).phase + 1 → (s.dev.ld n).windowDone = true →
     (s.dev.ld n).grant = true →
       Runs (.loadRampDone n) s fun d => d.ld n = { (s.dev.ld n) with st := ldOn, grant := false, windowDone := false } ∧ (d.acct (1 + n / 32)).grants = ((s.dev.acct (1 + n / 32)).grants.reverse.eraseP (·.who == .gang n)).reverse ∧ s.dev.Only d Foot.ldPa) ∧
  ((s.dev.ld n).st ≠ ldRamp → ∀ c ∈ [Instr.loadRampDone n, .loadPhaseEnd n], Runs c s fun d => d = s.dev) ∧
  ((s.dev.ld n).phase + 1 < (s.dev.ld n).phases.length → Runs (.loadRampDone n) s fun d => d = s.dev) ∧
  (s.dev.load.down.contains (n / 32) = false → (s.dev.ld n).st = ldRamp →
     (s.dev.ld n).phase + 1 < (s.dev.ld n).phases.length →
       Runs (.loadPhaseEnd n) s fun d => d.ld n = { (s.dev.ld n) with phase := (s.dev.ld n).phase + 1 } ∧ s.dev.Only d Foot.ld) ∧
  (s.dev.load.down.contains (n / 32) = false → (s.dev.ld n).held = 0 → (s.dev.ld n).grant = true →
     (s.dev.ld n).st = ldRamp →
       Runs (.loadGrantRelease n) s fun d => d.ld n = { (s.dev.ld n) with windowDone := true } ∧ s.dev.Only d Foot.ld) ∧
  (s.dev.load.down.contains (n / 32) = false → (s.dev.ld n).held = 0 → (s.dev.ld n).grant = true →
     (s.dev.ld n).st ≠ ldRamp →
       Runs (.loadGrantRelease n) s fun d => d.ld n = { (s.dev.ld n) with grant := false, windowDone := false } ∧ (d.acct (1 + n / 32)).grants = ((s.dev.acct (1 + n / 32)).grants.reverse.eraseP (·.who == .gang n)).reverse ∧ s.dev.Only d Foot.ldPa) ∧
  (s.dev.load.down.contains (n / 32) = false → 0 < (s.dev.ld n).held →
       Runs (.loadGrantRelease n) s fun d => d.ld n = { (s.dev.ld n) with held := (s.dev.ld n).held - 1 } ∧ (d.acct (1 + n / 32)).grants = (s.dev.acct (1 + n / 32)).grants.eraseP (·.who == .gang n) ∧ s.dev.Only d Foot.ldPa) ∧
  (∀ (t : BitVec 16), s.dev.load.down.contains (n / 32) = false → s.dev.ldConducts (s.dev.leader n) = true →
     s.dev.f ldCfg_THERM_MODE (s.dev.leader n) = 0 → 0 < (s.dev.ld (s.dev.leader n)).retries →
       Runs (.loadThermalTrip n t) s fun d => (d.ld (s.dev.leader n)).st = ldCool ∧ (d.ld (s.dev.leader n)).outOn = false ∧ (d.ld (s.dev.leader n)).cause = 1 ∧ (d.ld (s.dev.leader n)).thermTrip = true ∧ (d.ld (s.dev.leader n)).retries = (s.dev.ld (s.dev.leader n)).retries - 1 ∧ (d.ld n).tripTemp = some (sext 16 t.toNat) ∧
       d.f ldTemp_TJ n = t.toNat ∧ d.ctr .ldThermTrip (s.dev.leader n) = s.dev.ctr .ldThermTrip (s.dev.leader n) + 1 ∧ s.dev.Only d { Foot.ldAll with regs := [(.ldTemp, n)] }) ∧
  (∀ (t : BitVec 16), s.dev.load.down.contains (n / 32) = false → s.dev.ldConducts (s.dev.leader n) = true →
     s.dev.f ldCfg_THERM_MODE (s.dev.leader n) = 1 ∨ (s.dev.ld (s.dev.leader n)).retries = 0 →
       Runs (.loadThermalTrip n t) s fun d => (d.ld (s.dev.leader n)).st = ldLatched ∧ (d.ld (s.dev.leader n)).exhausted = (!s.dev.b ldCfg_THERM_MODE (s.dev.leader n) || (s.dev.ld (s.dev.leader n)).exhausted) ∧ (d.ld (s.dev.leader n)).cause = 1 ∧ s.dev.Only d { Foot.ldAll with regs := [(.ldTemp, n)] }) ∧
  (s.dev.load.down.contains (n / 32) = false →
     (s.dev.ld (s.dev.leader n)).st = ldOn ∨ (s.dev.ld (s.dev.leader n)).phases = [] →
     s.dev.ldConducts (s.dev.leader n) = true → s.dev.f ldCfg_THERM_MODE (s.dev.leader n) = 0 →
     0 < (s.dev.ld (s.dev.leader n)).retries →
       Runs (.loadOcTrip n) s fun d => (d.ld (s.dev.leader n)).st = ldCool ∧ (d.ld (s.dev.leader n)).outOn = false ∧ (d.ld (s.dev.leader n)).cause = 2 ∧ (d.ld (s.dev.leader n)).ocTrip = true ∧ d.ctr .ldOcTrip (s.dev.leader n) = s.dev.ctr .ldOcTrip (s.dev.leader n) + 1 ∧ s.dev.Only d Foot.ldAll) ∧
  (
     s.dev.ldConducts (s.dev.leader n) = false ∨ ((s.dev.ld (s.dev.leader n)).st = ldRamp ∧ (s.dev.ld (s.dev.leader n)).phases ≠ []) →
       Runs (.loadOcTrip n) s fun d => d = s.dev) ∧
  (∀ (p : Fin 3) (ts : List (BitVec 16)), s.dev.load.down.contains p.val = false → s.dev.dieReboots p = false →
     s.dev.isLeader n = true → n / 32 = p.val → (s.dev.wireModel n).1 ≠ 0 → (s.dev.wireModel n).2 ≠ 0 →
       Runs (.wireModelUpdate p ts) s fun d => (d.ld n).theta = min (wireStep (s.dev.ld n).theta (((s.dev.gang n).map fun m => (ts.map BitVec.toNat).getD (m % 32) 0).sum) (s.dev.wireModel n).1 (s.dev.wireModel n).2) (2 ^ 34 - 1) ∧
       (s.dev.ldConducts n = true → 2 ^ 32 ≤ (d.ld n).theta → (d.ld n).st = ldLatched ∧ (d.ld n).outOn = false ∧ (d.ld n).cause = 3 ∧ d.ctr .ldWireTrip n = s.dev.ctr .ldWireTrip n + 1) ∧ s.dev.Only d Foot.ldAll) ∧
  (∀ (p : Fin 3) (ts : List (BitVec 16)), s.dev.dieReboots p = true → Runs (.wireModelUpdate p ts) s fun d => d = s.dev) ∧
  (s.dev.load.down.contains (n / 32) = false → (s.dev.ld n).st = ldOn →
       Runs (.loadRetryReload n) s fun d => d.ld n = { (s.dev.ld n) with retries := (s.dev.f ldCfg_RETRY_MAX n) } ∧ s.dev.Only d Foot.ld) ∧
  (∀ (t : BitVec 16), s.dev.load.down.contains (n / 32) = false → (s.dev.ld n).st = ldCool →
     (s.dev.ld n).on = true → s.dev.gangSize n = 1 → s.dev.dieRuns (n / 32) = true →
     sext 16 t.toNat ≤ (s.dev.ld n).tripTemp.getD 680 - 80 →
       Runs (.loadCooled n [t]) s fun d => (d.ld n).st = ldRamp ∧ (d.ld n).tripTemp = none ∧ d.ctr .ldOnCnt n = s.dev.ctr .ldOnCnt n + 1 ∧ d.f ldTemp_TJ n = t.toNat ∧ s.dev.Only d { Foot.ld with regs := [(.ldTemp, n)], ctrs := [(.ldOnCnt, n)] })

/-- Undervoltage sets UV of the die and turns every leader in ADMIT, RAMP, ON or COOL off, into UV, with any grant released;
recovery clears UV, and a channel in UV without ON goes to OFF, a single one with ON to RAMP. A converter entry that completes
with VBAT stores it, one with a channel's current on the low or high range stores its code, its time and its range; the
sequence goes on to its next valid entry or ends; a reboot of the die ends it. The third check above the threshold in OFF sets
OPEN_OFF and counts. The average of PdAgg over 1 s above PdAggWarn sets AGG_OVER, one at or below it clears it; before 1 s
nothing is compared. Loss of control sets LOC, counts, and marks every leader. A report opens the channels of the die and
copies each leader's ON. -/
def Obligations.LoadSupplyAndSampling : Prop :=
  ∀ (s : State) (p : Fin 3) (n : Fin 96),
  (s.dev.load.down.contains p.val = false → n / 32 = p.val → s.dev.isLeader n = true →
     (s.dev.ld n).st = ldAdmit ∨ (s.dev.ld n).st = ldRamp ∨ (s.dev.ld n).st = ldOn ∨ (s.dev.ld n).st = ldCool →
       Runs (.vbatUndervoltage p) s fun d => d.f pdStatus_UV p = 1 ∧ (d.ld n).st = ldUv ∧ (d.ld n).outOn = false ∧ (d.ld n).cause = 4 ∧ (d.ld n).grant = false ∧ (d.ld n).held = 0 ∧ d.paHolds (1 + p) (.gang n) = false ∧ s.dev.Only d { Foot.ldAll with regs := [(.pdStatus, p)] }) ∧
  (s.dev.load.down.contains p.val = false → n / 32 = p.val → s.dev.isLeader n = true → (s.dev.ld n).st = ldUv →
     (s.dev.ld n).on = false → Runs (.vbatRecovered p) s fun d => d.f pdStatus_UV p = 0 ∧ (d.ld n).st = ldOff) ∧
  (s.dev.load.down.contains p.val = false → n / 32 = p.val → s.dev.isLeader n = true → (s.dev.ld n).st = ldUv →
     (s.dev.ld n).on = true → s.dev.gangSize n = 1 → s.dev.dieRuns p = true →
       Runs (.vbatRecovered p) s fun d => d.f pdStatus_UV p = 0 ∧ (d.ld n).st = ldRamp ∧ (d.ld n).outOn = true) ∧
  (∀ (c : Fin 4) (v : BitVec 16) (sat : Bool), s.dev.f pdAdcStat_BUSY (4 * p + c) = 0 →
     s.dev.dieReboots p = false → Runs (.adcEntryDone p c v sat) s fun d => d = s.dev) ∧
  (∀ (c : Fin 4) (v : BitVec 16) (sat : Bool), s.dev.load.down.contains p.val = false →
     s.dev.dieReboots p = false → s.dev.f pdAdcStat_BUSY (4 * p + c) = 1 →
     bits 7 6 (s.dev.rd .pdAdcSeq (16 * (4 * p + c) + (s.dev.f pdAdcStat_ENTRY (4 * p + c)))).toNat = 1 →
       Runs (.adcEntryDone p c v sat) s fun d => d.f pdVbat_MV p = v.toNat ∧ d.f pdAdcStat_ENTRY (4 * p + c) = (if (s.dev.f pdAdcStat_ENTRY (4 * p + c)) = 15 ∨ s.dev.b pdAdcSeq_VALID (16 * (4 * p + c) + (s.dev.f pdAdcStat_ENTRY (4 * p + c)) + 1) = false then 0 else (s.dev.f pdAdcStat_ENTRY (4 * p + c)) + 1) ∧ d.f pdAdcStat_BUSY (4 * p + c) = (if (s.dev.f pdAdcStat_ENTRY (4 * p + c)) = 15 ∨ s.dev.b pdAdcSeq_VALID (16 * (4 * p + c) + (s.dev.f pdAdcStat_ENTRY (4 * p + c)) + 1) = false then 0 else 1) ∧ s.dev.Only d { regs := [(.pdVbat, p), (.pdAdcStat, (4 * p + c))] }) ∧
  (∀ (c : Fin 4) (v : BitVec 16) (sat : Bool) (m : Nat), s.dev.load.down.contains p.val = false →
     s.dev.dieReboots p = false → s.dev.f pdAdcStat_BUSY (4 * p + c) = 1 →
     bits 7 6 (s.dev.rd .pdAdcSeq (16 * (4 * p + c) + (s.dev.f pdAdcStat_ENTRY (4 * p + c)))).toNat = 0 →
     bits 9 8 (s.dev.rd .pdAdcSeq (16 * (4 * p + c) + (s.dev.f pdAdcStat_ENTRY (4 * p + c)))).toNat ≤ 1 →
     m = 32 * p + (s.dev.rd .pdAdcSeq (16 * (4 * p + c) + (s.dev.f pdAdcStat_ENTRY (4 * p + c)))).toNat % 32 →
       Runs (.adcEntryDone p c v sat) s fun d => d.f ldSense_VALID m = 1 ∧ d.f ldSense_CODE m = (if sat = true ∧ bits 9 8 (s.dev.rd .pdAdcSeq (16 * (4 * p + c) + (s.dev.f pdAdcStat_ENTRY (4 * p + c)))).toNat = 1 then 0x3FFF else v.toNat % 2 ^ 14) ∧ d.f ldSense_RANGE m = bits 9 8 (s.dev.rd .pdAdcSeq (16 * (4 * p + c) + (s.dev.f pdAdcStat_ENTRY (4 * p + c)))).toNat ∧ d.f ldSense_SAT m = (if sat = true ∧ bits 9 8 (s.dev.rd .pdAdcSeq (16 * (4 * p + c) + (s.dev.f pdAdcStat_ENTRY (4 * p + c)))).toNat = 1 then 1 else 0) ∧
       d.rd .ldSenseTime (2 * m) = BitVec.ofNat 32 s.dev.ns ∧ d.f pdAdcStat_ENTRY (4 * p + c) = (if (s.dev.f pdAdcStat_ENTRY (4 * p + c)) = 15 ∨ s.dev.b pdAdcSeq_VALID (16 * (4 * p + c) + (s.dev.f pdAdcStat_ENTRY (4 * p + c)) + 1) = false then 0 else (s.dev.f pdAdcStat_ENTRY (4 * p + c)) + 1) ∧ d.f pdAdcStat_BUSY (4 * p + c) = (if (s.dev.f pdAdcStat_ENTRY (4 * p + c)) = 15 ∨ s.dev.b pdAdcSeq_VALID (16 * (4 * p + c) + (s.dev.f pdAdcStat_ENTRY (4 * p + c)) + 1) = false then 0 else 1)) ∧
  (∀ (c : Fin 4) (v : BitVec 16) (sat : Bool), s.dev.load.down.contains p.val = false → s.dev.dieReboots p = true →
       Runs (.adcEntryDone p c v sat) s fun d => d = (s.dev.sf pdAdcStat_BUSY (4 * p + c) 0).sf pdAdcStat_ENTRY (4 * p + c) 0) ∧
  (s.dev.load.down.contains (n / 32) = false → s.dev.b ldCfg_OL_OFF_EN n = true → (s.dev.ld n).st = ldOff →
     s.dev.isLeader n = true → s.dev.load.asleep.contains (n / 32) = false → (s.dev.ld n).olOff = 2 →
       Runs (.openLoadOffCheck n true) s fun d => (d.ld n).openOff = true ∧ d.ctr .ldOpenLoad n = s.dev.ctr .ldOpenLoad n + 1 ∧ (d.ld n).st = ldOff ∧ s.dev.Only d { Foot.ld with ctrs := [(.ldOpenLoad, n)], events := true }) ∧
  (s.dev.load.down.contains (n / 32) = false →
       Runs (.openLoadOffCheck n false) s fun d => d.ld n = { (s.dev.ld n) with olOff := 0 } ∧ s.dev.Only d Foot.ld) ∧
  (∀ (x : AggMean), s.dev.load.down.contains p.val = false → Sparse.get aggDefault s.dev.load.agg p = x →
     s.dev.sleep.time - x.from' < 10 ^ 9 →
       Runs (.aggAverageCheck p ()) s fun d => d = s.dev.aggFeed p ∧ s.dev.Only d { parts := [.load] }) ∧
  (∀ (x : AggMean), s.dev.load.down.contains p.val = false → Sparse.get aggDefault s.dev.load.agg p = x →
     10 ^ 9 ≤ s.dev.sleep.time - x.from' →
       Runs (.aggAverageCheck p ()) s fun d => d.f pdStatus_AGG_OVER p = (if s.dev.f pdAggWarn_MA p * (s.dev.sleep.time - x.from') < x.area + s.dev.f pdAgg_MA p * (s.dev.sleep.time - x.seen) then 1 else 0) ∧
       Sparse.get aggDefault d.load.agg p = ⟨0, s.dev.sleep.time, s.dev.sleep.time⟩ ∧ s.dev.Only d { regs := [(.pdStatus, p)], parts := [.load], events := true }) ∧
  (s.dev.f pdStatus_LOC p = 1 ∨ s.dev.load.asleep.contains p = true ∨ s.dev.dieReboots p = true →
       Runs (.lossOfControl p) s fun d => d = s.dev) ∧
  (s.dev.load.down.contains p.val = false → n / 32 = p.val → s.dev.isLeader n = true → s.dev.f pdStatus_LOC p = 0 →
     s.dev.load.asleep.contains p = false → s.dev.dieReboots p = false →
       Runs (.lossOfControl p) s fun d => d.f pdStatus_LOC p = 1 ∧ d.ctr .pdLocCnt p = s.dev.ctr .pdLocCnt p + 1 ∧ (d.ld n).loc = true ∧ (s.dev.f ldCfg_LOC_STATE n = 0 → (d.ld n).on = false) ∧ (2 ≤ s.dev.f ldCfg_LOC_STATE n → (d.ld n).st = (s.dev.ld n).st ∧ (d.ld n).on = (s.dev.ld n).on)) ∧
  (s.On → s.dev.load.down.contains p.val = false → n / 32 = p.val → s.dev.isLeader n = true →
     (s.dev.ld n).cause < 8 →
       Runs (.dieStateReport p) s fun d => d.ldReported p = true ∧ d.f ldCtl_ON n = (if (s.dev.ld n).on then 1 else 0) ∧ d.f ldStatus_STATE n = (s.dev.ld n).st % 8 ∧ d.load.ch = s.dev.load.ch ∧ s.dev.Only d { Foot.ld with events := true })

/-- SEG_SLEEP of a segment that is not AWAKE changes nothing; of an AWAKE one, with no WAKE input active, it enters DRAINING,
and its LIN commanders whose schedule runs are to send go-to-sleep when GTS_EN is set. The end of the drain, or its timeout,
commands the transceivers to sleep, and frames still queued for its ports are held; then the segment is ASLEEP. SEG_WAKE of an
ASLEEP segment returns it to AWAKE with source 7 and counts a wake; of a DRAINING one, and in the steps before 6 of the
device's sleep, it also sets WAKE_IN_TRANS; while the device wakes it only counts. A port bitmap is stored only for an AWAKE
segment, with ports that exist and belong to no other; else the write counts as rejected. -/
def Obligations.SegmentSleep : Prop :=
  ∀ (s : State) (x : Fin 32),
    s.On →
  (s.dev.f bwSegStatus_STATE x ≠ 0 → Runs (.segSleep x) s fun d => d = s.dev) ∧
  (s.dev.f bwSegStatus_STATE x = 0 → s.dev.winQuiet = true →
       Runs (.segSleep x) s fun d => d.f bwSegStatus_STATE x = 1 ∧ s.dev.Only d { regs := [(.bwSegStatus, x)], parts := [.bus], events := true }) ∧
  (∀ (n : Fin 16), s.dev.f bwSegStatus_STATE x = 0 → s.dev.winQuiet = true → s.dev.f bwSegCfg_GTS_EN x = 1 →
     s.dev.portSet .bwSegPorts (3 * x) (80 + n) = true → s.dev.f linCfg_ROLE n = 0 →
     s.dev.f linSchedStatus_RUNNING n = 1 → Runs (.segSleep x) s fun d => (d.lin n).gts = true) ∧
  (s.dev.segDrained x = false → Runs (.segmentDrainDone x) s fun d => d = s.dev) ∧
  (s.dev.segDrained x = true → s.dev.f bwSegStatus_STATE x = 1 → s.dev.sleep.drained.contains x.val = false →
       ∀ c ∈ [Instr.segmentDrainDone x, .segmentDrainTimeout x], Runs c s fun d => d.sleep = { s.dev.sleep with drained := x.val :: s.dev.sleep.drained } ∧ d.f bwSegStatus_STATE x = 1 ∧ (∀ k, k ≠ x.val → d.f bwSegStatus_STATE k = s.dev.f bwSegStatus_STATE k) ∧ s.dev.Only d { regs := [(.bwLinkStatus, 3)], arrays := [.canErr, .bwSegStatus], parts := [.sleep, .buf, .outs, .safe], events := true }) ∧
  (∀ (p : Fin 96) (c : Fin 8), s.dev.f bwSegStatus_STATE x = 1 → s.dev.sleep.drained.contains x.val = false →
     s.dev.portSet .bwSegPorts (3 * x) p = true →
       Runs (.segmentDrainTimeout x) s fun d => (d.queue (qNo p c)).all (·.held) = true ∧ (d.queue (qNo p c)).map (·.cells) = (s.dev.queue (qNo p c)).map (·.cells)) ∧
  (s.dev.f bwSegStatus_STATE x ≠ 1 → ∀ c ∈ [Instr.segmentDrainTimeout x, .segmentAsleep x], Runs c s fun d => d = s.dev) ∧
  (s.dev.f bwSegStatus_STATE x = 1 → s.dev.sleep.drained.contains x.val = true →
       Runs (.segmentAsleep x) s fun d => d.f bwSegStatus_STATE x = 2 ∧ d.sleep.drained = s.dev.sleep.drained.filter (· != x.val) ∧ s.dev.Only d { regs := [(.bwSegStatus, x)], parts := [.sleep], events := true }) ∧
  (s.dev.f bwSegStatus_STATE x = 0 → Runs (.segWake x) s fun d => d = s.dev) ∧
  (s.dev.sleep.power ≠ .waking → s.dev.f bwSegStatus_STATE x ≠ 0 →
       Runs (.segWake x) s fun d => d.f bwSegStatus_STATE x = 0 ∧ d.f bwSegStatus_LAST_SRC x = 7 ∧ d.f bwSegStatus_LAST_PORT x = 0 ∧ d.ctr .bwSegWakes x = s.dev.ctr .bwSegWakes x + 1 ∧ d.sleep.drained = s.dev.sleep.drained.filter (· != x.val) ∧
       (d.f bwSegStatus_WAKE_IN_TRANS x = if s.dev.f bwSegStatus_STATE x = 1 ∨ (s.dev.sleep.power = .sleepEntry ∧ s.dev.f bwSleepStatus_STEP 0 < 6) then 1 else s.dev.f bwSegStatus_WAKE_IN_TRANS x) ∧ s.dev.Only d Foot.wake ∧ (s.dev.deviceSleepy = false → s.dev.Only d (Foot.segWake x))) ∧
  (s.dev.sleep.power = .waking → s.dev.f bwSegStatus_STATE x ≠ 0 → Runs (.segWake x) s fun d => d = s.dev.inc .bwSegWakes x) ∧
  (∀ (w : Fin 3) (v : Word),
     s.dev.f bwSegStatus_STATE x ≠ 0 ∨ v.toNat ≠ (v.toNat &&& segPortMask w) ∨ ((List.range 32).any fun y => y != x.val && (v.toNat &&& (s.dev.rd .bwSegPorts (3 * y + w)).toNat) != 0) = true →
       Runs (.segmentPortsWrite x w v) s fun d => d = s.dev.inc .unitRejWr uBw) ∧
  (∀ (w : Fin 3) (v : Word), s.dev.f bwSegStatus_STATE x = 0 → v.toNat = (v.toNat &&& segPortMask w) →
     ((List.range 32).any fun y => y != x.val && (v.toNat &&& (s.dev.rd .bwSegPorts (3 * y + w)).toNat) != 0) = false →
       Runs (.segmentPortsWrite x w v) s fun d => d.rd .bwSegPorts (3 * x + w) = v ∧ s.dev.Only d { regs := [(.bwSegPorts, 3 * x + w)] })

/-- SLEEP from another initiator than 0 and 16 counts as rejected; while the sequence runs it changes nothing; else, with no
WAKE input active, it starts the sequence at step 2. Steps 2, 4, 5 and 6 advance when their work is done, step 3 once every
segment is ASLEEP, asking leave to flush the log, and step 4 once that flush is done; step 6 ends in SLEEP with PWR_EN low. A
detector that is enabled wakes the device: from SLEEP to waking with its source and port, from a sequence before step 6 back
to ACTIVE with ABORTED. With its detector off, or with the segment AWAKE and the device awake, it does nothing. A WAKE input
reports its level; going inactive ends its stuck mask; held too long it is masked with an event. VBAT starts the always-on
controller once. The end of the off-time asserts PWR_EN when a wake was latched. -/
def Obligations.DeviceSleepAndWake : Prop :=
  ∀ (s : State),
  (∀ (init : Initiator), s.On → s.dev.may init .bwSleepCmd 0 = true → init ≠ 0 → init ≠ 16 →
       Runs (.sleepCmd init) s fun d => d = s.dev.inc .unitRejWr uBw) ∧
  (∀ (init : Initiator), s.On → s.dev.may init .bwSleepCmd 0 = true → (init = 0 ∨ init = 16) →
     s.dev.f bwSleepStatus_BUSY 0 = 1 ∨ s.dev.sleep.power ≠ .active → Runs (.sleepCmd init) s fun d => d = s.dev) ∧
  (∀ (init : Initiator), s.On → s.dev.may init .bwSleepCmd 0 = true → (init = 0 ∨ init = 16) →
     s.dev.f bwSleepStatus_BUSY 0 = 0 → s.dev.sleep.power = .active → s.dev.winQuiet = true →
       Runs (.sleepCmd init) s fun d => d.sleep = { s.dev.sleep with power := .sleepEntry } ∧ d.f bwSleepStatus_BUSY 0 = 1 ∧ d.f bwSleepStatus_STEP 0 = 2 ∧ d.outs = s.dev.outs ++ [.link 3 ordArm 0] ∧ s.dev.Only d { regs := [(.bwSleepStatus, 0)], parts := [.sleep, .outs] }) ∧
  (s.On →
     s.dev.sleep.power ≠ .sleepEntry ∨ (s.dev.f bwSleepStatus_STEP 0 = 3 ∧ ((List.range 32).any fun x => s.dev.f bwSegStatus_STATE x != 2) = true) →
       Runs .sleepStepDone s fun d => d = s.dev) ∧
  (s.On → s.dev.sleep.power = .sleepEntry → s.dev.f bwSleepStatus_STEP 0 = 2 → s.dev.winQuiet = true →
       Runs .sleepStepDone s fun d => d.f bwSleepStatus_STEP 0 = 3 ∧ (∀ k, k < 32 → s.dev.f bwSegStatus_STATE k = 0 → d.f bwSegStatus_STATE k = 1)) ∧
  (s.On → s.dev.sleep.power = .sleepEntry → s.dev.f bwSleepStatus_STEP 0 = 4 →
     s.dev.mg.flashOps.contains .log = true → Runs .sleepStepDone s fun d => d = s.dev) ∧
  (s.On → s.dev.sleep.power = .sleepEntry → s.dev.f bwSleepStatus_STEP 0 = 3 → 150 ≤ s.dev.paBudget 0 →
     (s.dev.acct 0).waiting.length < 64 → ((List.range 32).all fun x => s.dev.f bwSegStatus_STATE x == 2) = true →
       Runs .sleepStepDone s fun d => d.f bwSleepStatus_STEP 0 = 4 ∧ d.outs = s.dev.outs ++ [.link 3 ordLogFlush 0] ∧ d.mg.flashOps = s.dev.mg.flashOps ++ [.log] ∧ (d.acct 0).waiting = (s.dev.acct 0).waiting ++ [⟨.flash, 150, s.dev.paNext⟩] ∧
       s.dev.Only d { regs := [(.bwSleepStatus, 0)], arrays := [.mdPaBudget, .mdPaWait], ctrs := [(.mdPaDeferred, 0)], parts := [.outs, .pa, .paNext, .mg] }) ∧
  (s.On → s.dev.sleep.power = .sleepEntry → s.dev.f bwSleepStatus_STEP 0 = 4 →
     s.dev.mg.flashOps.contains .log = false →
       Runs .sleepStepDone s fun d => d.f bwSleepStatus_STEP 0 = 5 ∧ d.load.asleep = [0, 1, 2] ∧ (∀ n ∈ List.range 4, (d.link n).silent = true)) ∧
  (s.On → s.dev.sleep.power = .sleepEntry → s.dev.f bwSleepStatus_STEP 0 = 5 →
       Runs .sleepStepDone s fun d => d = s.dev.sf bwSleepStatus_STEP 0 6) ∧
  (s.On → s.dev.sleep.power = .sleepEntry → s.dev.f bwSleepStatus_STEP 0 = 6 →
       Runs .sleepStepDone s fun d => d.sleep = { s.dev.sleep with power := .sleep, offTime := true } ∧ d.f bwSleepStatus_STEP 0 = 0 ∧ d.f bwSleepStatus_BUSY 0 = 0 ∧ d.outs = s.dev.outs ++ [.pin pinPwrEn 0 0] ∧ s.dev.Only d { regs := [(.bwSleepStatus, 0)], parts := [.sleep, .outs] }) ∧
  (∀ (n : Fin 48),
     32 ≤ n.val ∨ s.dev.f bwCanWake_WUP_EN n = 0 ∨ (s.dev.portSleepy (32 + n) = false ∧ s.dev.sleep.power ≠ .sleepEntry ∧ s.dev.sleep.power ≠ .sleep) →
       Runs (.canWakePattern n) s fun d => d = s.dev) ∧
  (∀ (l : Fin 16) (m : Fin 8), s.dev.portSleepy (80 + l) = false → s.dev.portSleepy (12 + m) = false →
     s.dev.sleep.power ≠ .sleepEntry → s.dev.sleep.power ≠ .sleep →
       ∀ c ∈ [Instr.linWake l, .t1sWake m], Runs c s fun d => d = s.dev) ∧
  (∀ (n : Fin 48), n.val < 32 → s.dev.f bwCanWake_WUP_EN n = 1 → s.dev.sleep.power = .sleep →
       Runs (.canWakePattern n) s fun d => d.sleep.power = .waking ∧ d.f bwWakeSrc_SRC 0 = 1 ∧ d.f bwWakeSrc_PORT 0 = 32 + n ∧ d.f bwWakeSrc_IN_TRANS 0 = 1 ∧ d.sleep.latched = s.dev.sleep.offTime ∧ s.dev.Only d Foot.wake) ∧
  (∀ (l : Fin 16), s.dev.f bwLinWake_EN l = 1 → s.dev.sleep.power = .sleep →
       Runs (.linWake l) s fun d => d.sleep.power = .waking ∧ d.f bwWakeSrc_SRC 0 = 4 ∧ d.f bwWakeSrc_PORT 0 = 80 + l ∧ s.dev.Only d Foot.wake) ∧
  (∀ (m : Fin 8), s.dev.f bwT1sWake_EN m = 1 → s.dev.sleep.power = .sleep →
       Runs (.t1sWake m) s fun d => d.sleep.power = .waking ∧ d.f bwWakeSrc_SRC 0 = 5 ∧ d.f bwWakeSrc_PORT 0 = 12 + m ∧ s.dev.Only d Foot.wake) ∧
  (∀ (n : Fin 48), n.val < 32 → s.dev.f bwCanWake_WUP_EN n = 1 → s.dev.sleep.power = .sleepEntry →
     s.dev.f bwSleepStatus_STEP 0 < 6 →
       Runs (.canWakePattern n) s fun d => d.sleep.power = .active ∧ d.f bwSleepStatus_ABORTED 0 = 1 ∧ d.f bwSleepStatus_BUSY 0 = 0 ∧ d.f bwSleepStatus_STEP 0 = 0 ∧ s.dev.Only d Foot.wake) ∧
  (∀ (k : Fin 8) (err ide : Bool) (ident : BitVec 29) (dlc : Fin 16) (data : List Byte),
     s.dev.f bwSwfCfg_EN k = 0 → Runs (.swfFrameDecoded k err ide ident dlc data) s fun d => d = s.dev) ∧
  (∀ (k : Fin 8) (ide : Bool) (ident : BitVec 29) (data : List Byte), s.dev.f bwSwfCfg_EN k = 1 →
     s.dev.sleep.power = .sleep → ide = s.dev.b bwSwfCfg_IDE k →
     ((s.dev.f bwSwfId_ID k ^^^ ident.toNat) &&& s.dev.f bwSwfIdMask_ID_MASK k) = 0 → s.dev.f bwSwfCfg_DLC k = 0 →
       Runs (.swfFrameDecoded k false ide ident 0 data) s fun d => d.sleep.power = .waking ∧ d.f bwWakeSrc_SRC 0 = 2 ∧ d.f bwWakeSrc_PORT 0 = 32 + s.dev.f bwSwfCfg_CHANNEL k) ∧
  (∀ (i : Fin 8), s.dev.winArmed i = false ∨ s.dev.winMasked i = true →
       Runs (.wakeInputActive i) s fun d => d = s.dev.sf bwWinStatus_LEVEL i 1) ∧
  (∀ (i : Fin 8), s.dev.f bwWinCfg_EN i = 1 → s.dev.winMasked i = false → s.dev.sleep.power = .sleep →
       Runs (.wakeInputActive i) s fun d => d.sleep.power = .waking ∧ d.f bwWakeSrc_SRC 0 = 6 ∧ d.f bwWakeSrc_PORT 0 = i ∧ d.f bwWinStatus_LEVEL i = 1 ∧ d.f bwWinStatus_WOKE i = 1 ∧ d.ctr .bwWinWakes i = s.dev.ctr .bwWinWakes i + 1) ∧
  (∀ (i : Fin 8),
       Runs (.wakeInputInactive i) s fun d => d.f bwWinStatus_LEVEL i = 0 ∧ d.f bwWinStatus_STUCK_MASKED i = 0 ∧ s.dev.Only d { regs := [(.bwWinStatus, i)] }) ∧
  (∀ (i : Fin 8), s.dev.f bwWinStatus_LEVEL i = 1 → s.dev.f bwWinStuck_STUCK_S i ≠ 0 →
       Runs (.wakeStuck i) s fun d => d.f bwWinStatus_STUCK_MASKED i = 1 ∧ s.dev.Only d { regs := [(.bwWinStatus, i)], events := true }) ∧
  (s.dev.sleep.power ≠ .off → Runs .vbatPowerOn s fun d => d = s.dev) ∧
  (s.dev.sleep.power = .off →
       Runs .vbatPowerOn s fun d => d.sleep = { s.dev.sleep with power := .waking } ∧ d.mg = { s.dev.mg with why := 0 } ∧ d.f bwWakeSrc_SRC 0 = 9 ∧ d.outs = s.dev.outs ++ [.pin pinPwrEn 0 1] ∧ s.dev.Only d { regs := [(.bwWakeSrc, 0)], parts := [.sleep, .outs, .mg] }) ∧
  (
       Runs .offTimeEnd s fun d => d.sleep = { s.dev.sleep with offTime := false, latched := false } ∧ (d.outs = if s.dev.sleep.latched then s.dev.outs ++ [.pin pinPwrEn 0 1] else s.dev.outs) ∧ s.dev.Only d { parts := [.sleep, .outs] })

/-- A read for a function that does not answer is answered with Unsupported Request and changes nothing else; a write for it
is dropped. A request of another form counts in HbBadSize with its record and answers no data; so does a poisoned write, which
the function reports through AER too; none is taken while 64 writes of the function wait. A permitted read of four bytes
answers the register or counter; a denied one answers 0, counts in HbDenyRd and is recorded. A read in the register page of
BAR2 answers the register of the domain. A permitted write outside the far side takes effect; a denied one counts in HbDenyWr.
A far-side write of a latched pair takes the next number and is discarded; with room it waits at the end of the queue of its
window; with none it waits in the bridge. Without a write that waits, nothing changes. An acknowledged write takes effect, or
is discarded when its pair is latched; a WRITE over Ethernet that waits for one goes on, or stops there; one that the far side
refuses latches its pair with cause 1. A write without acknowledgement may have taken effect or not; it fails with cause 3.
The first failure of a pair records its cause, offset and number. FAR_LATCH_CLEAR by an initiator that may write the record
clears LATCHED and the counts of the pair, and the writes that reached the bridge before take no effect; by another it counts
in HbDenyWr. -/
def Obligations.HostAndFarSide : Prop :=
  ∀ (s : State),
    s.On →
  (∀ (n : Fin 16) (x : HostReq), s.dev.fnAnswers n = false →
       Runs (.hostRead n x) s fun d => d = s.dev.emit (.hostRead n x.size.toNat none)) ∧
  (∀ (n : Fin 16) (x : HostReq) (p : Bool) (v : BitVec 64), s.dev.fnAnswers n = false →
       Runs (.hostWrite n x p v) s fun d => d = s.dev) ∧
  (∀ (n : Fin 16) (x : HostReq), s.dev.fnAnswers n = true → reqOk x = false →
       Runs (.hostRead n x) s fun d => d.ctr .hbBadSize n = s.dev.ctr .hbBadSize n + 1 ∧ s.dev.accRecorded d n 1 (reqAt x) ∧ s.dev.Only d { Foot.acc n with parts := [.outs] }) ∧
  (∀ (n : Fin 16) (x : HostReq) (p : Bool) (v : BitVec 64), 64 ≤ s.dev.heldWrites n →
       Runs (.hostWrite n x p v) s fun d => d = s.dev) ∧
  (∀ (n : Fin 16) (x : HostReq) (p : Bool) (v : BitVec 64), s.dev.fnAnswers n = true → s.dev.heldWrites n < 64 →
     p = true ∨ reqOk x = false →
       Runs (.hostWrite n x p v) s fun d => d.ctr .hbBadSize n = s.dev.ctr .hbBadSize n + 1 ∧ s.dev.accRecorded d n (if p then 3 else 1) (reqAt x) ∧ (p = true → d.outs.getLast? = some (.aer n)) ∧ s.dev.Only d { Foot.acc n with parts := [.outs] }) ∧
  (∀ (n : Fin 16) (x : HostReq), s.dev.asks4 n x = true → x.bar2 = false → s.dev.mayRead n x.off.toNat = true →
       Runs (.hostRead n x) s fun d => d = s.dev.emit (.hostRead n 4 (some (s.dev.read4 x.off.toNat)))) ∧
  (∀ (n : Fin 16) (x : HostReq), s.dev.asks4 n x = true → x.bar2 = false → s.dev.mayRead n x.off.toNat = false →
       Runs (.hostRead n x) s fun d => d.outs.getLast? = some (.hostRead n 4 (some 0)) ∧ d.ctr .hbDenyRd n = s.dev.ctr .hbDenyRd n + 1 ∧ s.dev.accRecorded d n 2 x.off.toNat ∧ s.dev.Only d { Foot.acc n with parts := [.outs] }) ∧
  (∀ (n : Fin 16) (x : HostReq), s.dev.asks4 n x = true → x.bar2 = true → x.off.toNat % 65536 < 0x1000 →
       Runs (.hostRead n x) s fun d => d = s.dev.emit (.hostRead n 4 (some (s.dev.read4 (0x90000 + 0x1000 * n + x.off.toNat % 65536))))) ∧
  (∀ (n : Fin 16) (x : HostReq) (v : BitVec 64), s.dev.asks4 n x = true → x.bar2 = false →
     s.dev.mayWrite n x.off.toNat = true → farWindow n x.off.toNat = none →
       Runs (.hostWrite n x false v) s fun d => d = s.dev.busWrite n x.off.toNat (v.toNat % 2 ^ 32)) ∧
  (∀ (n : Fin 16) (x : HostReq) (v : BitVec 64), s.dev.asks4 n x = true → x.bar2 = false →
     s.dev.mayWrite n x.off.toNat = false → regAt x.off.toNat = none →
       Runs (.hostWrite n x false v) s fun d => d.ctr .hbDenyWr n = s.dev.ctr .hbDenyWr n + 1 ∧ s.dev.accRecorded d n 2 x.off.toNat ∧ s.dev.Only d (Foot.acc n)) ∧
  (∀ (n : Fin 16) (x : HostReq) (v : BitVec 64) (w : Nat), s.dev.asks4 n x = true → x.bar2 = false →
     s.dev.mayWrite n x.off.toNat = true → farWindow n x.off.toNat = some w →
     s.dev.f hbFarErrLatch_LATCHED (farPair n w) = 1 →
       Runs (.hostWrite n x false v) s fun d => d.f hbFarErrNext_SEQ_NEXT (farPair n w) = (s.dev.f hbFarErrNext_SEQ_NEXT (farPair n w) + 1) % 65536 ∧ d.f hbFarErrSeq_DISCARDED (farPair n w) = min 65535 (s.dev.f hbFarErrSeq_DISCARDED (farPair n w) + 1) ∧ d.ctr .hbFarDiscard n = s.dev.ctr .hbFarDiscard n + 1 ∧
       s.dev.Only d { regs := [(.hbFarErrNext, farPair n w), (.hbFarErrSeq, farPair n w)], ctrs := [(.hbFarDiscard, n)] }) ∧
  (∀ (n : Fin 16) (x : HostReq) (v : BitVec 64) (w : Nat), s.dev.asks4 n x = true → x.bar2 = false →
     s.dev.mayWrite n x.off.toNat = true → farWindow n x.off.toNat = some w →
     s.dev.f hbFarErrLatch_LATCHED (farPair n w) = 0 → (s.dev.farQueue w).length < 32 →
     (w < 4 → s.dev.f bwLinkStatus_UP w = 1) →
       Runs (.hostWrite n x false v) s fun d => d.farQueue w = s.dev.farQueue w ++ [⟨n, s.dev.f hbFarErrNext_SEQ_NEXT (farPair n w), x.off.toNat, v.toNat % 2 ^ 32, .posted, false⟩] ∧ d.f hbFarErrNext_SEQ_NEXT (farPair n w) = (s.dev.f hbFarErrNext_SEQ_NEXT (farPair n w) + 1) % 65536 ∧
       s.dev.Only d { regs := [(.hbFarErrNext, farPair n w), (.bwLinkStatus, w)], parts := [.host, .outs, .safe] }) ∧
  (∀ (n : Fin 16) (x : HostReq) (v : BitVec 64) (w : Nat), s.dev.asks4 n x = true → x.bar2 = false →
     s.dev.mayWrite n x.off.toNat = true → farWindow n x.off.toNat = some w →
     s.dev.f hbFarErrLatch_LATCHED (farPair n w) = 0 → 32 ≤ (s.dev.farQueue w).length →
       Runs (.hostWrite n x false v) s fun d => d = s.dev.setHeldAccs n [.write x.off.toNat (v.toNat % 2 ^ 32)]) ∧
  (∀ (w : Fin 7), s.dev.farQueue w = [] → ∀ c ∈ [Instr.farWriteAck w, .farWriteTimeout w], Runs c s fun d => d = s.dev) ∧
  (∀ (w : Fin 7) (x : FarWrite) (rest : List FarWrite), s.dev.farQueue w = x :: rest → x.src = .posted →
     x.dead = false → (w < 4 → s.dev.f bwLinkStatus_UP w = 1) →
     s.dev.f hbFarErrLatch_LATCHED (farPair x.dom w) = 0 → s.dev.farRefuses x.off = false →
       Runs (.farWriteAck w) s fun d => d = ((s.dev.setFarQueue w rest).busWrite x.dom x.off x.value).heldGo) ∧
  (∀ (w : Fin 7) (x : FarWrite) (rest : List FarWrite), s.dev.farQueue w = x :: rest → s.dev.noneWaits = true →
     x.src = .posted → (w < 4 → s.dev.f bwLinkStatus_UP w = 1) →
     x.dead = true ∨ s.dev.f hbFarErrLatch_LATCHED (farPair x.dom w) = 1 →
       Runs (.farWriteAck w) s fun d => d.farQueue w = rest ∧ d.f hbFarErrSeq_DISCARDED (farPair x.dom w) = min 65535 (s.dev.f hbFarErrSeq_DISCARDED (farPair x.dom w) + 1) ∧ d.ctr .hbFarDiscard x.dom = s.dev.ctr .hbFarDiscard x.dom + 1 ∧ s.dev.Only d { regs := [(.hbFarErrSeq, (farPair x.dom w))], ctrs := [(.hbFarDiscard, x.dom)], parts := [.host] }) ∧
  (∀ (w : Fin 7) (x : FarWrite) (rest : List FarWrite), s.dev.farQueue w = x :: rest → w < 4 →
     s.dev.f bwLinkStatus_UP w = 0 → Runs (.farWriteAck w) s fun d => d = s.dev) ∧
  (∀ (w : Fin 7) (x : FarWrite) (rest : List FarWrite), s.dev.farQueue w = x :: rest → x.src = .posted →
     x.dead = false → s.dev.farDown w = false → s.dev.f hbFarErrLatch_LATCHED (farPair x.dom w) = 0 →
     s.dev.farRefuses x.off = true →
       Runs (.farWriteAck w) s fun d => d = ((((s.dev.setFarQueue w rest).busWrite x.dom x.off x.value).farFail w x 1).heldGo)) ∧
  (∀ (w : Fin 7) (x : FarWrite) (rest : List FarWrite), s.dev.farQueue w = x :: rest → x.src = .coe →
     s.dev.farDown w = false →
       Runs (.farWriteAck w) s fun d => d = (((s.dev.setFarQueue w rest).busWrite x.dom x.off x.value).coeFarEnd x.dom (if s.dev.farRefuses x.off then 1 else 0)).heldGo) ∧
  (∀ (w : Fin 7) (x : FarWrite) (rest : List FarWrite), s.dev.farQueue w = x :: rest → x.src = .posted →
     x.dead = false → s.dev.f hbFarErrLatch_LATCHED (farPair x.dom w) = 0 →
       Runs (.farWriteTimeout w) s fun d => ∃ t : Dev, (t = { (s.dev.setFarQueue w rest) with free := s.dev.free + 1 } ∨ t = { (s.dev.setFarQueue w rest) with free := s.dev.free + 1 }.busWrite x.dom x.off x.value) ∧ d = (t.farFail w x 3).heldGo ∧
       (t.f hbFarErrLatch_LATCHED (farPair x.dom w) = 0 → (t.farFail w x 3).f hbFarErrLatch_LATCHED (farPair x.dom w) = 1 ∧ (t.farFail w x 3).f hbFarErrLatch_CAUSE (farPair x.dom w) = 3 ∧ (t.farFail w x 3).f hbFarErrLatch_OFFSET (farPair x.dom w) = x.off % 2 ^ 24 ∧ (t.farFail w x 3).f hbFarErrSeq_SEQ (farPair x.dom w) = x.seq % 65536 ∧ (t.farFail w x 3).f hbFarErrSeq_DISCARDED (farPair x.dom w) = 0)) ∧
  (∀ (w : Fin 7) (x : FarWrite) (rest : List FarWrite) (r : Reg) (i : Nat), s.dev.farQueue w = x :: rest →
     s.dev.noneWaits = true → x.src = .posted → x.dead = false →
     s.dev.f hbFarErrLatch_LATCHED (farPair x.dom w) = 0 → farWindow x.dom x.off = some w.val →
     regAt x.off = some (r, i) → s.dev.storesOnly x.dom r i = true → x.off < 2 ^ 24 → x.seq < 65536 →
       Runs (.farWriteTimeout w) s fun d => d.f hbFarErrLatch_LATCHED (farPair x.dom w) = 1 ∧ d.f hbFarErrLatch_CAUSE (farPair x.dom w) = 3 ∧ d.f hbFarErrLatch_OFFSET (farPair x.dom w) = x.off ∧ d.f hbFarErrSeq_SEQ (farPair x.dom w) = x.seq ∧ d.f hbFarErrSeq_DISCARDED (farPair x.dom w) = 0 ∧ d.farQueue w = rest) ∧
  (∀ (w : Fin 7) (init : Initiator) (n : Fin 16), init = 0 ∨ init = 16 ∨ init.val = n.val →
       Runs (.farLatchClear init n w) s fun d => d.rd .hbFarErrLatch (farPair n w) = 0 ∧ d.rd .hbFarErrSeq (farPair n w) = 0 ∧
       d.farQueue w = (if s.dev.f hbFarErrLatch_LATCHED (farPair n w) = 1 then (s.dev.farQueue w).map (fun x => if x.src = .posted ∧ x.dom = n.val then { x with dead := true } else x) else s.dev.farQueue w) ∧
       s.dev.Only d { regs := [(.hbFarErrLatch, farPair n w), (.hbFarErrSeq, farPair n w)], parts := [.host] }) ∧
  (∀ (w : Fin 7) (init : Initiator) (n : Fin 16), init ≠ 0 → init ≠ 16 → init.val ≠ n.val →
       Runs (.farLatchClear init n w) s fun d => d.ctr .hbDenyWr init = s.dev.ctr .hbDenyWr init + 1 ∧ s.dev.Only d (Foot.acc init))

/-- A function reports the identifiers of its kind. An FLR or a configuration write of a function that does not exist changes
nothing. An FLR of a virtual function bound to PCIe disables its rings and clears its latches and its access record. A
configuration write of a virtual function stores its state. A PCIe link change shows LINK_UP, SPEED and WIDTH. HbDomBind of an
OFFLINE ring set stores BIND; of domain 0 it changes nothing; by another domain it counts as denied and as rejected. A request
of another type, or none, changes nothing. A request out of order counts in HbCoeBad; one already executed is answered again
from its copy. A READ or WRITE of a bad form answers BAD_REQ; a READ of one word that is permitted answers the word; a WRITE
of one word takes effect and answers, one to the far side waits there for its outcome, or for room in its window's queue, and
over a link that is down answers at once; a TX of a bad form answers BAD_REQ. -/
def Obligations.FunctionsAndEthernetControl : Prop :=
  ∀ (s : State) (n : Fin 16),
    s.On →
  (
       (s.dev.pciIdent n).revision = 1 ∧ (s.dev.pciIdent n).classCode = 0x028000 ∧ (if n % 8 = 0 then (s.dev.pciIdent n).vendor = 0x1F3D ∧ (s.dev.pciIdent n).device = 0x9640 else (s.dev.pciIdent n).vendor = 0xFFFF ∧ vfIdent = (0x1F3D, 0x9641))) ∧
  (∀ (bme mse d3 vf : Bool) (k : Fin 8), s.dev.fnExists n = false →
       ∀ c ∈ [Instr.functionLevelReset n, .pcieConfigWrite n bme mse d3 vf k], Runs c s fun d => d = s.dev) ∧
  (∀ (r : Fin 16) (w : Fin 7), n % 8 ≠ 0 → s.dev.fnExists n = true → s.dev.bind n = 0 →
       Runs (.functionLevelReset n) s fun d => d.f hrRxCfg_ENABLE (16 * n + r) = 0 ∧ d.f hrTxCfg_ENABLE (16 * n + r) = 0 ∧ d.rd .hbFarErrLatch (farPair n w) = 0 ∧ d.rd .hbAccErrRec n = 0 ∧ d.rd .moWinSel n = 0) ∧
  (∀ (bme mse d3 vf : Bool) (k : Fin 8), n % 8 ≠ 0 → s.dev.fnExists n = true →
       Runs (.pcieConfigWrite n bme mse d3 vf k) s fun d => d.fn n = ⟨bme, mse, d3, false, 0⟩ ∧ s.dev.Only d { parts := [.host, .pba, .outs] }) ∧
  (∀ (bme mse d3 vf : Bool) (k : Fin 8), n % 8 = 0 →
       Runs (.pcieConfigWrite n bme mse d3 vf k) s fun d => d.fn n = ⟨bme, mse, d3, vf, k⟩ ∧ d.f hbEp_NUM_VFS (n / 8) = (if vf then k.val else 0) ∧ s.dev.Only d { regs := [(.hbEp, n / 8)], parts := [.host, .pba, .outs] }) ∧
  (∀ (e : Fin 2) (up : Bool) (sp wd : Fin 5),
       Runs (.pcieLinkChange e up sp wd) s fun d => d.f hbEp_LINK_UP e = (if up then 1 else 0) ∧ d.f hbEp_SPEED e = sp % 2 ^ (hbEp_SPEED.hi - hbEp_SPEED.lo + 1) ∧ d.f hbEp_WIDTH e = wd % 2 ^ (hbEp_WIDTH.hi - hbEp_WIDTH.lo + 1) ∧ s.dev.Only d { regs := [(.hbEp, e)] }) ∧
  (∀ (init : Initiator) (v : Word), init = 0 ∨ init = 16 → n = 0 → Runs (.domBindWrite init n v) s fun d => d = s.dev) ∧
  (∀ (init : Initiator) (v : Word), init = 0 ∨ init = 16 → n ≠ 0 → s.dev.actsAs (uHr n) = stOffline →
       Runs (.domBindWrite init n v) s fun d => d.f hbDomBind_BIND n = v.toNat % 4 ∧ s.dev.Only d { regs := [(.hbDomBind, n)] }) ∧
  (∀ (init : Initiator) (v : Word), init ≠ 0 → init ≠ 16 →
       Runs (.domBindWrite init n v) s fun d => d.ctr .hbDenyWr init = s.dev.ctr .hbDenyWr init + 1 ∧ d.ctr .unitRejWr uHb = s.dev.ctr .unitRejWr uHb + 1 ∧ d.rd .hbDomBind n = s.dev.rd .hbDomBind n) ∧
  ((s.dev.coeDom n).reqs = [] ∨ s.dev.ethBound n = false ∨ (s.dev.coeDom n).run ≠ none →
       ∀ c ∈ [Instr.coeRead n, .coeWrite n, .coeTx n], Runs c s fun d => d = s.dev) ∧
  (∀ (m : List Byte) (rest : List (List Byte)), (s.dev.coeDom n).reqs = m :: rest →
       ∀ e ∈ [(1, Instr.coeRead n), (3, .coeWrite n), (7, .coeTx n)], Runs e.2 s fun d => beAt m 1 1 ≠ e.1 → d = s.dev) ∧
  (∀ (m : List Byte) (rest : List (List Byte)) (k : Nat),
     s.dev.f hbDomBind_BIND n = 1 ∨ s.dev.f hbDomBind_BIND n = 2 → (s.dev.coeDom n).reqs = m :: rest →
     (s.dev.coeDom n).run = none → beAt m 1 1 = 1 → (s.dev.coeDom n).next = some k → k ≠ beAt m 4 2 →
     ((s.dev.coeDom n).replay.find? fun e => e.1 == beAt m 4 2) = none →
       Runs (.coeRead n) s fun d => d = (s.dev.setCoe n { (s.dev.coeDom n) with reqs := rest }).inc .hbCoeBad (s.dev.bind n - 1)) ∧
  (∀ (m : List Byte) (rest : List (List Byte)) (k q t st det : Nat) (p : List Byte),
     s.dev.f hbDomBind_BIND n = 1 ∨ s.dev.f hbDomBind_BIND n = 2 → (s.dev.coeDom n).reqs = m :: rest →
     (s.dev.coeDom n).run = none → beAt m 1 1 = 1 → (s.dev.coeDom n).next = some k →
     ((s.dev.coeDom n).replay.find? fun e => e.1 == beAt m 4 2) = some (q, t, st, det, p) → t ≠ 8 →
       Runs (.coeRead n) s fun d => d = ((s.dev.setCoe n { (s.dev.coeDom n) with reqs := rest }).inc .hbCoeReplay (s.dev.bind n - 1)).coeSend n t st (beAt m 4 2) det p) ∧
  (∀ (m : List Byte) (rest : List (List Byte)), s.dev.f hbDomBind_BIND n = 1 ∨ s.dev.f hbDomBind_BIND n = 2 →
     (s.dev.coeDom n).reqs = m :: rest → (s.dev.coeDom n).run = none → (s.dev.coeDom n).next = some (beAt m 4 2) →
     ((s.dev.coeDom n).replay.find? fun e => e.1 == beAt m 4 2) = none →
     (slice (m.drop 12) 0 (beAt m 6 2)).length < 8 →
       ∀ e ∈ [(1, Instr.coeRead n), (3, .coeWrite n), (7, .coeTx n)], Runs e.2 s fun d => beAt m 1 1 = e.1 → d = (s.dev.coeTaken n (beAt m 4 2) rest).coeRespond n (beAt m 4 2) (e.1 + 1) 4 0 []) ∧
  (∀ (m : List Byte) (rest : List (List Byte)) (off : Nat),
     s.dev.f hbDomBind_BIND n = 1 ∨ s.dev.f hbDomBind_BIND n = 2 → (s.dev.coeDom n).reqs = m :: rest →
     (s.dev.coeDom n).run = none → (s.dev.coeDom n).next = some (beAt m 4 2) →
     ((s.dev.coeDom n).replay.find? fun e => e.1 == beAt m 4 2) = none → beAt m 1 1 = 1 →
     8 ≤ (slice (m.drop 12) 0 (beAt m 6 2)).length → coeArgs (slice (m.drop 12) 0 (beAt m 6 2)) = (off, 4, 1) →
     off % 4 = 0 → s.dev.mayRead n off = true →
       Runs (.coeRead n) s fun d => d = (s.dev.coeTaken n (beAt m 4 2) rest).coeRespond n (beAt m 4 2) 2 0 0 (leBytes 4 ((s.dev.coeTaken n (beAt m 4 2) rest).read4 off))) ∧
  (∀ (m : List Byte) (rest : List (List Byte)) (off : Nat),
     s.dev.f hbDomBind_BIND n = 1 ∨ s.dev.f hbDomBind_BIND n = 2 → (s.dev.coeDom n).reqs = m :: rest →
     (s.dev.coeDom n).run = none → (s.dev.coeDom n).next = some (beAt m 4 2) →
     ((s.dev.coeDom n).replay.find? fun e => e.1 == beAt m 4 2) = none → beAt m 1 1 = 3 →
     12 ≤ (slice (m.drop 12) 0 (beAt m 6 2)).length → coeArgs (slice (m.drop 12) 0 (beAt m 6 2)) = (off, 4, 1) →
     off % 4 = 0 → s.dev.mayWrite n off = true → farWindow n off = none →
       Runs (.coeWrite n) s fun d => d = ((s.dev.coeTaken n (beAt m 4 2) rest).busWrite n off (leAt (slice (m.drop 12) 0 (beAt m 6 2)) 8 4)).coeRespond n (beAt m 4 2) 4 0 0 []) ∧
  (∀ (m : List Byte) (rest : List (List Byte)) (off w : Nat),
     s.dev.f hbDomBind_BIND n = 1 ∨ s.dev.f hbDomBind_BIND n = 2 → (s.dev.coeDom n).reqs = m :: rest →
     (s.dev.coeDom n).run = none → (s.dev.coeDom n).next = some (beAt m 4 2) →
     ((s.dev.coeDom n).replay.find? fun e => e.1 == beAt m 4 2) = none → beAt m 1 1 = 3 →
     12 ≤ (slice (m.drop 12) 0 (beAt m 6 2)).length → coeArgs (slice (m.drop 12) 0 (beAt m 6 2)) = (off, 4, 1) →
     off % 4 = 0 → s.dev.mayWrite n off = true → farWindow n off = some w → s.dev.farDown w = false →
     (s.dev.farQueue w).length < 32 →
       Runs (.coeWrite n) s fun d => d = (((s.dev.coeTaken n (beAt m 4 2) rest).farSeq n w).2.setCoe n { (s.dev.coeTaken n (beAt m 4 2) rest).coeDom n with run := some ⟨beAt m 4 2, 4, false, 0, [], true⟩ }).farEnter w ⟨n, s.dev.f hbFarErrNext_SEQ_NEXT (farPair n w), off, leAt (slice (m.drop 12) 0 (beAt m 6 2)) 8 4, .coe, false⟩) ∧
  (∀ (m : List Byte) (rest : List (List Byte)) (off w : Nat),
     s.dev.f hbDomBind_BIND n = 1 ∨ s.dev.f hbDomBind_BIND n = 2 → (s.dev.coeDom n).reqs = m :: rest →
     (s.dev.coeDom n).run = none → (s.dev.coeDom n).next = some (beAt m 4 2) →
     ((s.dev.coeDom n).replay.find? fun e => e.1 == beAt m 4 2) = none → beAt m 1 1 = 3 →
     12 ≤ (slice (m.drop 12) 0 (beAt m 6 2)).length → coeArgs (slice (m.drop 12) 0 (beAt m 6 2)) = (off, 4, 1) →
     off % 4 = 0 → s.dev.mayWrite n off = true → farWindow n off = some w → s.dev.farDown w = false →
     32 ≤ (s.dev.farQueue w).length →
       Runs (.coeWrite n) s fun d => d = (s.dev.coeTaken n (beAt m 4 2) rest).setCoe n { (s.dev.coeTaken n (beAt m 4 2) rest).coeDom n with run := some ⟨beAt m 4 2, 4, false, 0, [(0, off, leAt (slice (m.drop 12) 0 (beAt m 6 2)) 8 4)], false⟩ }) ∧
  (∀ (m : List Byte) (rest : List (List Byte)) (off w : Nat),
     s.dev.f hbDomBind_BIND n = 1 ∨ s.dev.f hbDomBind_BIND n = 2 → (s.dev.coeDom n).reqs = m :: rest →
     (s.dev.coeDom n).run = none → (s.dev.coeDom n).next = some (beAt m 4 2) →
     ((s.dev.coeDom n).replay.find? fun e => e.1 == beAt m 4 2) = none → beAt m 1 1 = 3 →
     12 ≤ (slice (m.drop 12) 0 (beAt m 6 2)).length → coeArgs (slice (m.drop 12) 0 (beAt m 6 2)) = (off, 4, 1) →
     off % 4 = 0 → s.dev.mayWrite n off = true → farWindow n off = some w → s.dev.farDown w = true →
       Runs (.coeWrite n) s fun d => d = (s.dev.coeTaken n (beAt m 4 2) rest).coeRespond n (beAt m 4 2) 4 3 (2 * 2 ^ 24) [])

/-- A mismatch of a pair that is not in lockstep changes nothing; of one that is, the pair is FAULTED, its class is ACTIVE and
its event raised, and both engines are FAULTED. A request while BUSY counts as rejected, and so do a SPLIT of the management
pair by another than its firmware and a JOIN of it from SPLIT; another JOIN of it answers BAD_STATE, but D0's of a FAULTED
one. JOIN of a SPLIT pair whose halves are both in RUN or both QUIESCED, and SPLIT of a PAIRED one, start a hand-over; in
another state they answer BAD_STATE, SPLIT of the Sepia pair in Sepia REFUSED_SEPIA; JOIN of a FAULTED pair re-synchronises
it, its engines QUIESCED. When the pair has drained the hand-over ends PAIRED or SPLIT with OK, or DRAIN_FORCED after its
timeout, or FAULTED with COMPARE_FAIL when the halves differ. -/
def Obligations.Pairs : Prop :=
  ∀ (s : State) (k : Fin 33),
    s.On →
  (s.dev.lockstep k = false → ∀ c ∈ [Instr.lockstepMismatch k, .lockstepCopyTimeout k], Runs c s fun d => d = s.dev) ∧
  (s.dev.f lsPair_STATE k = pairPaired →
       ∀ c ∈ [Instr.lockstepMismatch k, .lockstepCopyTimeout k], Runs c s fun d => d.f lsPair_STATE k = pairFaulted ∧ d.f lsFaultStatus_ACTIVE (s.dev.pairClass k) = 1) ∧
  (s.dev.f lsPair_STATE k = pairPaired → k < 32 → s.dev.ops = [] → s.dev.ep.txn = none →
       Runs (.lockstepMismatch k) s fun d => d.f unitState_STATE (uEng (2 * k)) = stFaulted ∧ d.f unitState_STATE (uEng (2 * k + 1)) = stFaulted ∧ d.f unitState_FAULT_CAUSE (uEng (2 * k)) = fcauseLockstep) ∧
  (s.dev.f lsPair_STATE k = pairPaired → k = 32 → s.dev.f lsPair_BUSY k = 0 → s.dev.reaction fcMcLockstep ≠ 2 →
     s.dev.ep.txn = none →
       Runs (.lockstepMismatch k) s fun d => d.f lsPair_STATE k = pairFaulted ∧ s.dev.Only d { Foot.fault fcMcLockstep with regs := [(.lsPair, k), (.lsFaultStatus, fcMcLockstep)] }) ∧
  (∀ (init : Initiator), s.dev.may init .lsPair k = true → s.dev.f lsPair_BUSY k = 1 →
       ∀ c ∈ [Instr.pairJoin k init, .pairSplit k init], Runs c s fun d => d = s.dev.inc .unitRejWr uLs) ∧
  (∀ (init : Initiator), s.dev.may init .lsPair k = true → k = 32 → init ≠ 16 →
       Runs (.pairSplit k init) s fun d => d = s.dev.inc .unitRejWr uLs) ∧
  (∀ (init : Initiator), s.dev.may init .lsPair k = true → k = 32 → init ≠ 16 →
     s.dev.f lsPair_STATE k = pairSplit → Runs (.pairJoin k init) s fun d => d = s.dev.inc .unitRejWr uLs) ∧
  (∀ (init : Initiator), s.dev.may init .lsPair k = true → s.dev.f lsPair_BUSY k = 0 → k = 32 → init ≠ 16 →
     s.dev.f lsPair_STATE k ≠ pairSplit → s.dev.f lsPair_STATE k ≠ pairFaulted ∨ init ≠ 0 →
       Runs (.pairJoin k init) s fun d => d = s.dev.sf lsPair_RESULT k prBadState) ∧
  (∀ (init : Initiator), s.dev.pairOpen init k = true → s.dev.f lsPair_STATE k = pairSplit →
     s.dev.joinable k = true →
       Runs (.pairJoin k init) s fun d => d = s.dev.handoverStart k 1 ∧ d.f lsPair_STATE k = pairHandover ∧ d.f lsPair_BUSY k = 1 ∧ s.dev.Only d { regs := [(.lsPair, k)], parts := [.safe] }) ∧
  (∀ (init : Initiator), s.dev.pairOpen init k = true → s.dev.f lsPair_STATE k ≠ pairFaulted →
     s.dev.f lsPair_STATE k ≠ pairSplit ∨ s.dev.joinable k = false →
       Runs (.pairJoin k init) s fun d => d = s.dev.sf lsPair_RESULT k prBadState) ∧
  (∀ (init : Initiator), s.dev.may init .lsPair k = true → s.dev.f lsPair_BUSY k = 0 →
     k ≠ 32 ∨ init = 16 ∨ init = 0 → s.dev.f lsPair_STATE k = pairFaulted →
       Runs (.pairJoin k init) s fun d => d.f lsPair_STATE k = pairPaired ∧ d.f lsPair_RESULT k = prOk ∧ d.f lsPair_DEBUG_SPLIT k = 0 ∧ (k < 32 → d.actsAs (uEng (2 * k)) = stQuiesced ∧ d.actsAs (uEng (2 * k + 1)) = stQuiesced)) ∧
  (∀ (init : Initiator), s.dev.pairOpen init k = true → s.dev.f lsPair_STATE k = pairPaired →
     s.dev.inSepia = false ∨ k.val ≠ s.dev.f lsSepiaCfg_PAIR 0 →
       Runs (.pairSplit k init) s fun d => d = s.dev.handoverStart k 2) ∧
  (∀ (init : Initiator), s.dev.pairOpen init k = true →
     s.dev.f lsPair_STATE k ≠ pairPaired ∨ (s.dev.inSepia = true ∧ k.val = s.dev.f lsSepiaCfg_PAIR 0) →
       Runs (.pairSplit k init) s fun d => d = s.dev.sf lsPair_RESULT k (if s.dev.f lsPair_STATE k = pairPaired then prRefusedSepia else prBadState)) ∧
  (s.dev.f lsPair_STATE k ≠ pairHandover → s.dev.noHaltWaits k = true →
       ∀ c ∈ [Instr.handoverDrained k true, .handoverDrained k false, .handoverDrainTimeout k], Runs c s fun d => d = s.dev) ∧
  (s.dev.f lsPair_STATE k = pairHandover → s.dev.noHaltWaits k = true → s.dev.handoverReady k = true →
     s.dev.handoverOf k = 1 →
       Runs (.handoverDrained k false) s fun d => d.f lsPair_STATE k = pairPaired ∧ d.f lsPair_BUSY k = 0 ∧ d.f lsPair_RESULT k = (if s.dev.safe.forced.contains k.val then 3 else 0) ∧ d.handoverOf k = 0) ∧
  (s.dev.f lsPair_STATE k = pairHandover → s.dev.noHaltWaits k = true → s.dev.handoverReady k = true →
     s.dev.handoverOf k = 2 →
       Runs (.handoverDrained k false) s fun d => d.f lsPair_STATE k = pairSplit ∧ d.f lsPair_BUSY k = 0 ∧ d.f lsPair_RESULT k = (if s.dev.safe.forced.contains k.val then 3 else 0) ∧ d.handoverOf k = 0) ∧
  (s.dev.f lsPair_STATE k = pairHandover → s.dev.noHaltWaits k = true → s.dev.handoverReady k = true →
     s.dev.handoverOf k = 2 → s.dev.f lsPair_BUSY k = 1 →
       Runs (.handoverDrained k true) s fun d => d.f lsPair_STATE k = pairFaulted ∧ d.f lsPair_BUSY k = 0 ∧ d.f lsPair_RESULT k = 2) ∧
  (s.dev.f lsPair_STATE k = pairHandover → k < 32 →
     ((List.range 4).all fun t => (s.dev.thr (2 * k) t).st == .idle && (s.dev.thr (2 * k + 1) t).st == .idle) = true →
       Runs (.handoverDrainTimeout k) s fun d => d.safe.forced.contains k.val = true ∧ s.dev.Only d { parts := [.safe] })

/-- ACTIVE of a class clears unless a cause of it lasts. Loss of the reference clock raises its class once; its return ends
the cause. SEPIA_ENTER by a domain other than 0, or SEPIA_EXIT by another than 0 or while a class holds Sepia, counts as
rejected; ENTER sets IN_SEPIA with cause 15 and the time; EXIT clears it. A monitor that is enabled on a supply or temperature
counts its sample in the bin and keeps minimum and maximum; CLEAR zeroes its bins. A software event sets its detail. Writing 1
to event bits clears them; a core that waits for an interrupt wakes first. -/
def Obligations.FaultsSepiaAndMonitors : Prop :=
  ∀ (s : State),
    s.On →
  (∀ (c : Fin 16),
       Runs (.faultActiveClear c) s fun d => d.f lsFaultStatus_ACTIVE c = (if s.dev.levelHolds c then s.dev.f lsFaultStatus_ACTIVE c else 0) ∧ s.dev.Only d { regs := [(.lsFaultStatus, c)] }) ∧
  (s.dev.safe.levels.contains (fcRefclk, 0) = true → Runs .refclkLoss s fun d => d = s.dev) ∧
  (s.dev.safe.levels.contains (fcRefclk, 0) = false → s.dev.reaction fcRefclk ≠ 2 →
       Runs .refclkLoss s fun d => d.f lsFaultStatus_ACTIVE fcRefclk = 1 ∧ d.f lsFaultStatus_COUNT fcRefclk = min (s.dev.f lsFaultStatus_COUNT fcRefclk + 1) 65535 ∧ d.levelHolds fcRefclk = true ∧ s.dev.Only d { Foot.fault fcRefclk with parts := [.safe] }) ∧
  (
       Runs .refclkRestored s fun d => d = { s.dev with safe := { s.dev.safe with levels := s.dev.safe.levels.filter fun e => decide (e ≠ (fcRefclk, 0)) } }) ∧
  (∀ (init : Initiator), s.dev.may init .lsSepiaCtl 0 = true → init ≠ 0 → init ≠ 16 →
       Runs (.sepiaEnter init) s fun d => d = s.dev.inc .unitRejWr uLs) ∧
  (∀ (init : Initiator), (init = 0 ∨ init = 16) → s.dev.inSepia = true → Runs (.sepiaEnter init) s fun d => d = s.dev) ∧
  (∀ (init : Initiator), (init = 0 ∨ init = 16) → s.dev.inSepia = false →
       Runs (.sepiaEnter init) s fun d => d.f lsSepiaCtl_IN_SEPIA 0 = 1 ∧ d.f lsSepiaCause_VALID 0 = 1 ∧ d.f lsSepiaCause_CLASS 0 = 15 ∧ d.rd .lsSepiaTime 0 = BitVec.ofNat 32 s.dev.ns ∧ d.rd .lsSepiaTime 1 = BitVec.ofNat 32 (s.dev.ns / 2 ^ 32)) ∧
  (∀ (init : Initiator), s.dev.may init .lsSepiaCtl 0 = true → init ≠ 0 ∨ s.dev.sepiaHeld = true →
       Runs (.sepiaExit init) s fun d => d = s.dev.inc .unitRejWr uLs) ∧
  (s.dev.sepiaHeld = false → s.dev.inSepia = false → Runs (.sepiaExit 0) s fun d => d = s.dev) ∧
  (s.dev.sepiaHeld = false → s.dev.inSepia = true →
       Runs (.sepiaExit 0) s fun d => d.f lsSepiaCtl_IN_SEPIA 0 = 0 ∧ s.dev.Only d { regs := [(.lsSepiaCtl, 0)], events := true }) ∧
  (∀ (m : Fin 64) (v : Word),
     s.dev.f monCfg_EN m = 0 ∨ (s.dev.f monCfg_SOURCE m ≠ 4 ∧ s.dev.f monCfg_SOURCE m ≠ 5) →
       Runs (.monitorSampleTick m v) s fun d => d = s.dev) ∧
  (∀ (m : Fin 64) (v : Word), s.dev.f monCfg_EN m = 1 → s.dev.f monCfg_SOURCE m = 4 ∨ s.dev.f monCfg_SOURCE m = 5 →
       Runs (.monitorSampleTick m v) s fun d => d.ctr .monBin (32 * m + s.dev.monBinOf m v.toNat) = s.dev.ctr .monBin (32 * m + s.dev.monBinOf m v.toNat) + 1 ∧ d.f monMin_VALUE m = min (s.dev.f monMin_VALUE m) v.toNat ∧ d.f monMax_VALUE m = max (s.dev.f monMax_VALUE m) v.toNat ∧
       s.dev.Only d { regs := [(.monMin, m), (.monMax, m), (.monStat, m)], ctrs := [(.monBin, (32 * m + s.dev.monBinOf m v.toNat))], events := true }) ∧
  (∀ (m : Fin 64),
       Runs (.monitorClear m) s fun d => (∀ k, k < 32 → d.ctr .monBin (32 * m + k) = 0) ∧ d.f monMin_VALUE m = 2 ^ 32 - 1 ∧ d.f monMax_VALUE m = 0 ∧ d.f monStat_HIGH_SEEN m = 0 ∧ d.f monStat_LOW_SEEN m = 0) ∧
  (∀ (init : Initiator) (v : Word), s.dev.may init .evSwRaise 0 = true → init ≠ 0 → init ≠ 16 →
       Runs (.evSwRaise init v) s fun d => d = s.dev.inc .unitRejWr uEv) ∧
  (∀ (init : Initiator) (v : Word), (init = 0 ∨ init = 16) →
       Runs (.evSwRaise init v) s fun d => d.rd .evDetail (v.toNat % 256) = 0 ∧ s.dev.Only d { events := true }) ∧
  (∀ (e : Fin 18) (w : Fin 8) (v : Word),
       Runs (.eventStatusClear e w v) s fun d => (e < 16 → d.rd .evDomStatus (8 * e + w) = s.dev.rd .evDomStatus (8 * e + w) &&& ~~~v) ∧ (e = 16 → d.rd .evMcStatus w = s.dev.rd .evMcStatus w &&& ~~~v) ∧ (e = 17 → d.rd .evPinStatus w = s.dev.rd .evPinStatus w &&& ~~~v) ∧
       s.dev.Only d { regs := [if e < 16 then (.evDomStatus, 8 * e.val + w.val) else if e = 16 then (.evMcStatus, w) else (.evPinStatus, w)], parts := if e = 16 then [.eng, .free] else [] })

/-- A command that does not run on its page changes nothing. VERSION puts the ROM's version and those of the ACTIVE halves in
the data words. ATTEST and LOG_READ write the report or the records to the host, or end TOO_SMALL or DMA_ERROR. FLASH_WRITE
above 65,536 bytes ends BAD_ARG, without data DMA_ERROR; else it waits for leave, or ends NO_POWER above the budget. COMMIT
and CONFIRM of a trial wait for leave to write the record of their slot pair, or end NO_POWER above the budget; CONFIRM
without a trial ends BAD_STATE. SVN_RAISE shows its result in LAST_RESULT and waits for leave when the ACTIVE half passes its
check, else it ends IMAGE with the result. Commands 4 to 10 end PERMISSION on another page than 0, and 4 to 9 change nothing
while one of them waits for its leave; the commands with DMA change nothing while Bus Master is off. LIFECYCLE and KEYSET
without data end DMA_ERROR; KEYSET with a digest in DEVELOP waits for leave. RESET with its argument resets the logic side,
else it ends BAD_ARG. -/
def Obligations.MailboxCommands : Prop :=
  ∀ (s : State) (n : Fin 16),
    s.On →
  (∀ (err : Bool) (data : Option (List Byte)), s.dev.f mgMboxStatus_BUSY n = 0 → s.dev.f mgMboxStatus_BUSY 0 = 0 →
       ∀ c ∈ [Instr.version n, .attest n err, .logRead n err, .flashWrite n data, .mboxCommit n, .confirm n, .svnRaise n err, .lifecycle n data, .keyset n data, .mboxReset n], Runs c s fun d => d = s.dev) ∧
  (s.dev.mboxRuns n 1 = true →
       Runs (.version n) s fun d => d.rd .mgMboxData (16 * n) = BitVec.ofNat 32 Config.romVersion ∧ (∀ k, k < 15 → (d.rd .mgMboxData (16 * n + k + 1)).toNat = if s.dev.activeHalf k = 1 then s.dev.f mgSlotVerB_VERSION_B k else s.dev.f mgSlotVerA_VERSION_A k) ∧ d.mboxDone n 0 ∧ s.dev.Only d { Foot.mbox n with arrays := [.mgMboxData] }) ∧
  (∀ (err : Bool), s.dev.mboxRuns n 2 = true → s.dev.dmaGo n = true →
     s.dev.lifecycleByte = none ∨ s.dev.mbLen n < 100 →
       Runs (.attest n err) s fun d => d.mboxDone n (if (s.dev.lifecycleByte).isNone then 6 else 7) ∧ s.dev.Only d (Foot.mbox n)) ∧
  (∀ (err : Bool), s.dev.mboxRuns n 2 = true → s.dev.dmaGo n = true → s.dev.lifecycleByte ≠ none →
       Runs (.attest n err) s fun d => (s.dev.report ((List.range 8).flatMap fun w => leBytes 4 (s.dev.mbData n w)) (bitAt 0 (s.dev.mbArg n)) (s.dev.drbgBytes 32).1).length ≤ s.dev.mbLen n → d.mboxDone n (if err then 3 else 0) ∧ (err = false → d.outs[s.dev.outs.length]? = some (.hostWrite n (s.dev.mbAddr n) (s.dev.report ((List.range 8).flatMap fun w => leBytes 4 (s.dev.mbData n w)) (bitAt 0 (s.dev.mbArg n)) (s.dev.drbgBytes 32).1))) ∧ s.dev.Only d { Foot.mbox n with parts := [.outs, .free] }) ∧
  (∀ (err : Bool) (k : Nat), s.dev.mboxRuns n 3 = true → s.dev.dmaGo n = true →
     k = min (s.dev.f mgLogSeq_NEXT 0 - s.dev.mbArg n) (s.dev.mbLen n / 32) →
       Runs (.logRead n err) s fun d => d.mboxDone n (if err then 3 else 0) ∧ (err = false → d.rd .mgMboxData (16 * n) = BitVec.ofNat 32 k ∧ d.outs[s.dev.outs.length]? = some (.hostWrite n (s.dev.mbAddr n) ((List.range k).flatMap fun i => s.dev.logGet (s.dev.mbArg n + i)))) ∧ s.dev.Only d { Foot.mbox n with regs := [(.mgMboxStatus, n), (.mgMboxData, 16 * n)], parts := [.outs] }) ∧
  (∀ (data : Option (List Byte)), s.dev.mboxRuns 0 4 = true → s.dev.dmaGo 0 = true → s.dev.mbWaits = false →
     65536 < s.dev.f mgMboxLen_LEN 0 ∨ data = none →
       Runs (.flashWrite 0 data) s fun d => d.mboxDone 0 (if 65536 < s.dev.f mgMboxLen_LEN 0 then 8 else 3) ∧ s.dev.Only d (Foot.mbox 0)) ∧
  (∀ (b : List Byte), s.dev.mboxRuns 0 4 = true → s.dev.dmaGo 0 = true → s.dev.mbWaits = false →
     s.dev.f mgMboxLen_LEN 0 ≤ 65536 → s.dev.vcoreHas 150 = true →
       Runs (.flashWrite 0 (some b)) s fun d => d.mg.flashOps = s.dev.mg.flashOps ++ [if s.dev.mbData 0 0 = 0 then .erase (s.dev.f mgMboxArg_ARG 0 % 16) (1 - s.dev.activeHalf (s.dev.f mgMboxArg_ARG 0 % 16)) (b.take (s.dev.f mgMboxLen_LEN 0)) else .chunk (s.dev.f mgMboxArg_ARG 0 % 16) (1 - s.dev.activeHalf (s.dev.f mgMboxArg_ARG 0 % 16)) (s.dev.mbData 0 0) (b.take (s.dev.f mgMboxLen_LEN 0))] ∧ (d.acct 0).waiting = (s.dev.acct 0).waiting ++ [⟨.flash, 150, s.dev.paNext⟩] ∧ d.f mgMboxStatus_BUSY 0 = 1) ∧
  (∀ (b : List Byte), s.dev.mboxRuns 0 4 = true → s.dev.dmaGo 0 = true → s.dev.mbWaits = false →
     s.dev.f mgMboxLen_LEN 0 ≤ 65536 → s.dev.paBudget 0 < 150 →
       Runs (.flashWrite 0 (some b)) s fun d => d.mboxDone 0 4 ∧ d.mg.flashOps = s.dev.mg.flashOps ∧ d.eng.flash = s.dev.eng.flash) ∧
  (s.dev.mboxRuns 0 5 = true → s.dev.mbWaits = false → s.dev.vcoreHas 150 = true →
       Runs (.mboxCommit 0) s fun d => d.mg.flashOps = s.dev.mg.flashOps ++ [.commit (s.dev.f mgMboxArg_ARG 0 % 16)] ∧ (d.acct 0).waiting = (s.dev.acct 0).waiting ++ [⟨.flash, 150, s.dev.paNext⟩] ∧ d.f mgMboxStatus_BUSY 0 = 1) ∧
  (s.dev.mbWaits = false → s.dev.paBudget 0 < 150 →
       ∀ e ∈ [(5, Instr.mboxCommit 0), (6, .confirm 0)], Runs e.2 s fun d => s.dev.mboxRuns 0 e.1 = true → (e.1 = 6 → s.dev.f mgSlotState_TRIAL (s.dev.f mgMboxArg_ARG 0 % 16) = 1) → d.mboxDone 0 4 ∧ d.rd .mgSlotState (s.dev.f mgMboxArg_ARG 0 % 16) = s.dev.rd .mgSlotState (s.dev.f mgMboxArg_ARG 0 % 16) ∧ d.mg.flashOps = s.dev.mg.flashOps ∧ d.eng.flash = s.dev.eng.flash) ∧
  (s.dev.mboxRuns 0 6 = true → s.dev.mbWaits = false →
     s.dev.f mgSlotState_TRIAL (s.dev.f mgMboxArg_ARG 0 % 16) = 0 →
       Runs (.confirm 0) s fun d => d.mboxDone 0 6 ∧ s.dev.Only d (Foot.mbox 0)) ∧
  (s.dev.mboxRuns 0 6 = true → s.dev.mbWaits = false →
     s.dev.f mgSlotState_TRIAL (s.dev.f mgMboxArg_ARG 0 % 16) = 1 → s.dev.vcoreHas 150 = true →
       Runs (.confirm 0) s fun d => d.mg.flashOps = s.dev.mg.flashOps ++ [.confirm (s.dev.f mgMboxArg_ARG 0 % 16)] ∧ (d.acct 0).waiting = (s.dev.acct 0).waiting ++ [⟨.flash, 150, s.dev.paNext⟩] ∧ d.f mgMboxStatus_BUSY 0 = 1) ∧
  (s.dev.mboxRuns 0 7 = true → s.dev.mbWaits = false →
       Runs (.svnRaise 0 true) s fun d => d.mboxDone 0 5 ∧ d.rd .mgMboxData 0 = 9 ∧ d.f mgSlotState_LAST_RESULT (s.dev.f mgMboxArg_ARG 0 % 16) = 9 ∧ s.dev.Only d { Foot.mbox 0 with regs := [(.mgMboxStatus, 0), (.mgMboxData, 0), (.mgSlotState, (s.dev.f mgMboxArg_ARG 0 % 16))] }) ∧
  (s.dev.mboxRuns 0 7 = true → s.dev.mbWaits = false → s.dev.vcoreHas 350 = true →
       Runs (.svnRaise 0 false) s fun d => d.f mgSlotState_LAST_RESULT (s.dev.f mgMboxArg_ARG 0 % 16) = (s.dev.halfCheck (s.dev.f mgMboxArg_ARG 0 % 16) (s.dev.activeHalf (s.dev.f mgMboxArg_ARG 0 % 16)) false) % 16 ∧ ((s.dev.halfCheck (s.dev.f mgMboxArg_ARG 0 % 16) (s.dev.activeHalf (s.dev.f mgMboxArg_ARG 0 % 16)) false) = 0 → d.mg.fuse = some (.svn (s.dev.f mgMboxArg_ARG 0 % 16) (jrSvn (s.dev.halfBytes (s.dev.f mgMboxArg_ARG 0 % 16) (s.dev.activeHalf (s.dev.f mgMboxArg_ARG 0 % 16))))) ∧ (d.acct 0).waiting = (s.dev.acct 0).waiting ++ [⟨.antifuse, 350, s.dev.paNext⟩]) ∧ ((s.dev.halfCheck (s.dev.f mgMboxArg_ARG 0 % 16) (s.dev.activeHalf (s.dev.f mgMboxArg_ARG 0 % 16)) false) ≠ 0 → d.mboxDone 0 5 ∧ d.rd .mgMboxData 0 = BitVec.ofNat 32 (s.dev.halfCheck (s.dev.f mgMboxArg_ARG 0 % 16) (s.dev.activeHalf (s.dev.f mgMboxArg_ARG 0 % 16)) false))) ∧
  (s.dev.f mgMboxLen_LEN 0 ≠ 0 → s.dev.dmaGo 0 = true → s.dev.mbWaits = false →
       ∀ e ∈ [(8, Instr.lifecycle 0 none), (9, .keyset 0 none)], Runs e.2 s fun d => s.dev.mboxRuns 0 e.1 = true → d.mboxDone 0 3 ∧ s.dev.Only d (Foot.mbox 0)) ∧
  (∀ (b : List Byte), s.dev.mboxRuns 0 8 = true → s.dev.dmaGo 0 = true → s.dev.mbWaits = false →
       Runs (.lifecycle 0 (some b)) s fun d => s.dev.jrCheck none (b.take (s.dev.f mgMboxLen_LEN 0)) ≠ 0 → d.mboxDone 0 5 ∧ d.rd .mgMboxData 0 = BitVec.ofNat 32 (s.dev.jrCheck none (b.take (s.dev.f mgMboxLen_LEN 0)))) ∧
  (∀ (b c : List Byte), s.dev.mboxRuns 0 8 = true → s.dev.dmaGo 0 = true → s.dev.mbWaits = false →
     c = b.take (s.dev.f mgMboxLen_LEN 0) → jrTarget c = 2 → s.dev.lifecycle ≤ 1 → s.dev.vcoreHas 350 = true →
       Runs (.lifecycle 0 (some b)) s fun d => s.dev.jrCheck none c = 0 → jrKind c = 6 → d.mg.fuse = some (.lifecycle 2) ∧ (d.acct 0).waiting = (s.dev.acct 0).waiting ++ [⟨.antifuse, 350, s.dev.paNext⟩]) ∧
  (∀ (data : Option (List Byte)), s.dev.mboxRuns 0 9 = true → s.dev.mbWaits = false → s.dev.f mgMboxLen_LEN 0 = 0 →
     s.dev.lifecycle ≤ 1 → 2 ≤ (s.dev.f mgMboxArg_ARG 0 % 8) → (s.dev.f mgMboxArg_ARG 0 % 8) ≤ 5 →
     s.dev.f mgKeySet_REVOKED ((s.dev.f mgMboxArg_ARG 0 % 8) - 2) = 0 →
     s.dev.f mgKeySet_PROGRAMMED ((s.dev.f mgMboxArg_ARG 0 % 8) - 2) = 0 → s.dev.vcoreHas 350 = true →
       Runs (.keyset 0 data) s fun d => d.mg.fuse = some (.keyset ((s.dev.f mgMboxArg_ARG 0 % 8) - 2) false ((List.range 8).flatMap fun w => nats (leBytes 4 (s.dev.mbData 0 w)))) ∧ (d.acct 0).waiting = (s.dev.acct 0).waiting ++ [⟨.antifuse, 350, s.dev.paNext⟩] ∧ d.f mgMboxStatus_BUSY 0 = 1) ∧
  (∀ (data : Option (List Byte)), s.dev.mboxRuns 0 9 = true → s.dev.mbWaits = false → s.dev.f mgMboxLen_LEN 0 = 0 →
     1 < s.dev.lifecycle ∨ (s.dev.f mgMboxArg_ARG 0 % 8) < 2 ∨ 5 < (s.dev.f mgMboxArg_ARG 0 % 8) →
       Runs (.keyset 0 data) s fun d => d.mboxDone 0 (if 1 < s.dev.lifecycle then 6 else 8) ∧ s.dev.Only d (Foot.mbox 0)) ∧
  (s.dev.mboxRuns 0 7 = true → s.dev.mbWaits = false → s.dev.paBudget 0 < 350 →
       Runs (.svnRaise 0 false) s fun d => (s.dev.halfCheck (s.dev.f mgMboxArg_ARG 0 % 16) (s.dev.activeHalf (s.dev.f mgMboxArg_ARG 0 % 16)) false) = 0 → d.mboxDone 0 4 ∧ d.mg.fuse = s.dev.mg.fuse) ∧
  (s.dev.mboxRuns 0 9 = true → s.dev.mbWaits = false → s.dev.f mgMboxLen_LEN 0 = 0 → s.dev.lifecycle ≤ 1 →
     2 ≤ (s.dev.f mgMboxArg_ARG 0 % 8) → (s.dev.f mgMboxArg_ARG 0 % 8) ≤ 5 →
     s.dev.f mgKeySet_REVOKED ((s.dev.f mgMboxArg_ARG 0 % 8) - 2) = 0 →
     s.dev.f mgKeySet_PROGRAMMED ((s.dev.f mgMboxArg_ARG 0 % 8) - 2) = 0 → s.dev.paBudget 0 < 350 →
       Runs (.keyset 0 none) s fun d => d.mboxDone 0 4 ∧ d.mg.fuse = s.dev.mg.fuse) ∧
  (∀ (err : Bool) (data : Option (List Byte)), n.val ≠ 0 → s.dev.dmaGo n = true →
       ∀ e ∈ [(4, Instr.flashWrite n data), (5, .mboxCommit n), (6, .confirm n), (7, .svnRaise n err), (8, .lifecycle n data), (9, .keyset n data), (10, .mboxReset n)], Runs e.2 s fun d => s.dev.mboxRuns n e.1 = true → d.mboxDone n 2 ∧ s.dev.Only d (Foot.mbox n)) ∧
  (∀ (err : Bool) (data : Option (List Byte)), s.dev.mbWaits = true →
       ∀ c ∈ [Instr.flashWrite 0 data, .mboxCommit 0, .confirm 0, .svnRaise 0 err, .lifecycle 0 data, .keyset 0 data], Runs c s fun d => d = s.dev) ∧
  (∀ (err : Bool) (data : Option (List Byte)), s.dev.dmaGo n = false →
       ∀ c ∈ [Instr.attest n err, .logRead n err, .flashWrite n data, .lifecycle n data], Runs c s fun d => d = s.dev) ∧
  (∀ (data : Option (List Byte)), s.dev.dmaGo 0 = false → s.dev.f mgMboxLen_LEN 0 ≠ 0 →
       Runs (.keyset 0 data) s fun d => d = s.dev) ∧
  (s.dev.mboxRuns 0 10 = true → s.dev.mbArg 0 = 0xB007 →
       Runs (.mboxReset 0) s fun d => d = s.dev.internalReset ∧ d.mg.why = 2 ∧ d.logicAtReset) ∧
  (s.dev.mboxRuns 0 10 = true → s.dev.mbArg 0 ≠ 0xB007 →
       Runs (.mboxReset 0) s fun d => d.mboxDone 0 8 ∧ s.dev.Only d (Foot.mbox 0))

/-- BOOT_START of a device whose firmware runs, or in recovery, or without PWR_GOOD, changes nothing. In BLANK it asks for
leave to burn the root secret, or DEVELOP where there is one, once the DRBG runs, and waits for the DRBG before. With the
recovery strap, or with no half that passes its check, the ROM enters recovery and counts the start; with one, the firmware
starts from it and goes on with settings, images and the boot commit. HASH_GO by another initiator than the management
subsystem counts as rejected; else the hash runs, and HASH_DONE stores its digest. A sensor sample shows every temperature and
supply. LOG_APPEND by the management subsystem writes a record with the next number, with a LOST record before it after
losses, or loses it when 8,192 are unflushed; from 4,096 unflushed records on the firmware asks for leave to flush them; by
another initiator that may write, it counts as rejected. The flush timer asks for leave while the firmware runs. -/
def Obligations.StartsHashesSensorsAndLog : Prop :=
  ∀ (s : State),
    s.On →
  (∀ (x : BootInput),
     s.dev.mg.good = false ∨ s.dev.mg.restarted = false ∧ (s.dev.mg.booted = true ∨ s.dev.f mgBootStatus_RECOVERY 0 = 1) →
       Runs (.bootStart x) s fun d => d = s.dev) ∧
  (∀ (x : BootInput), s.dev.mg.good = true → s.dev.mg.restarted = false → s.dev.mg.booted = false →
     s.dev.f mgBootStatus_RECOVERY 0 = 0 → s.dev.lifecycle = 0 → s.dev.mg.fuse = none → s.dev.mg.rootWait = none →
     s.dev.mg.flashOps = [] → x.entropy = true → s.dev.cx.drbg = true → s.dev.vcoreHas 350 = true →
       Runs (.bootStart x) s fun d => d.mg.fuse = some (if s.dev.f ksRoot_STATE 0 = 0 then .root x.fuseA x.fuseB else .lifecycle 1) ∧ (d.acct 0).waiting = (s.dev.acct 0).waiting ++ [⟨.antifuse, 350, s.dev.paNext⟩] ∧ d.f mgBootStatus_BOOT_COUNT 0 = (s.dev.f mgBootStatus_BOOT_COUNT 0 + 1) % 65536 ∧ d.mg.booted = false) ∧
  (∀ (x : BootInput), s.dev.mg.good = true → s.dev.mg.restarted = false → s.dev.mg.booted = false →
     s.dev.f mgBootStatus_RECOVERY 0 = 0 → s.dev.lifecycle = 0 → s.dev.mg.fuse = none → s.dev.mg.rootWait = none →
     s.dev.mg.flashOps = [] → x.entropy = true → s.dev.cx.drbg = false →
       Runs (.bootStart x) s fun d => d.mg.rootWait = some (x.fuseA, x.fuseB) ∧ d.mg.fuse = none ∧ d.f mgBootStatus_BOOT_COUNT 0 = (s.dev.f mgBootStatus_BOOT_COUNT 0 + 1) % 65536 ∧ d.mg.booted = false) ∧
  (∀ (x : BootInput), s.dev.mg.good = true → s.dev.mg.restarted = false → s.dev.mg.booted = false →
     s.dev.f mgBootStatus_RECOVERY 0 = 0 → s.dev.lifecycle ≠ 0 →
     s.dev.mg.straps.recovery = true ∨ ((s.dev.bootCounted.rootCheck.bootTable x).fwHalf x).1 = none →
       Runs (.bootStart x) s fun d => d.f mgBootStatus_RECOVERY 0 = 1 ∧ d.f mgBootStatus_BOOT_COUNT 0 = (s.dev.f mgBootStatus_BOOT_COUNT 0 + 1) % 65536 ∧ d.mg.booted = false ∧ d.f ethIntf_INTF 4 = 5 ∧ d.f ethIntf_AN_EN 4 = 1) ∧
  (∀ (x : BootInput), s.dev.mg.good = true → s.dev.mg.restarted = false → s.dev.mg.booted = false →
     s.dev.f mgBootStatus_RECOVERY 0 = 0 → s.dev.lifecycle ≠ 0 → s.dev.mg.straps.recovery = false →
       Runs (.bootStart x) s fun d => ∀ h notes e, (s.dev.bootCounted.rootCheck.bootTable x).fwHalf x = (some h, notes, e) → (e.fwStart h).mg.booted = true ∧ (e.fwStart h).f mgSlotState_BOOTED_B 0 = h % 2 ∧ d = ((e.fwStart h).fwRecords notes).firmware x) ∧
  (∀ (init : Initiator) (v : Word), s.dev.may init .mgHashCtl 0 = true → init ≠ 16 →
       Runs (.hashGo init v) s fun d => d = s.dev.inc .unitRejWr uMg) ∧
  (∀ (v : Word), s.dev.f mgHashCtl_BUSY 0 = 0 →
       Runs (.hashGo 16 v) s fun d => d.mg = { s.dev.mg with hash := some (v.toNat % 8, s.dev.f mgHashSrc_ADDR 0, s.dev.f mgHashLen_LEN 0) } ∧ d.f mgHashCtl_BUSY 0 = 1 ∧ d.f mgHashCtl_ALG 0 = v.toNat % 8 ∧ s.dev.Only d { regs := [(.mgHashCtl, 0)], parts := [.mg] }) ∧
  (∀ (v : Word), s.dev.f mgHashCtl_BUSY 0 = 1 →
       Runs (.hashGo 16 v) s fun d => d.mg = s.dev.mg ∧ s.dev.Only d { regs := [(.mgHashCtl, 0)] }) ∧
  (s.dev.mg.hash = none → Runs .hashDone s fun d => d = s.dev) ∧
  (∀ (alg src len : Nat), s.dev.mg.hash = some (alg, src, len) →
       Runs .hashDone s fun d => d.f mgHashCtl_BUSY 0 = 0 ∧ d.mg = { s.dev.mg with hash := none } ∧ (∀ k, k < (hashAlg alg ((List.range len).map fun i => s.dev.hashByte (src + i))).length / 4 → d.f mgHashOut_DIGEST k = ofLeOctets (((hashAlg alg ((List.range len).map fun i => s.dev.hashByte (src + i))).drop (4 * k)).take 4)) ∧ s.dev.Only d { regs := [(.mgHashCtl, 0)], arrays := [.mgHashOut], parts := [.mg] }) ∧
  (∀ (ts mvs : List (BitVec 16)) (p : Fin 24) (i : Fin 16),
       Runs (.sensorSample ts mvs) s fun d => d.f mgTemp_TEMP p = (ts.getD p 0).toNat ∧ d.f mgSupply_MV i = (mvs.getD i 0).toNat ∧ (p < 16 → 4 * (s.dev.f lsThermCfg_LIMIT 0 : Int) < (ts.getD p 0).toInt → d.levelHolds fcThermal = true)) ∧
  (∀ (init : Initiator), s.dev.may init .mgLogGo 0 = true → init ≠ 16 →
       Runs (.logAppend init) s fun d => d = s.dev.inc .unitRejWr uMg) ∧
  (s.dev.f mgLogStatus_UNFLUSHED 0 < 8192 → s.dev.mg.lost = 0 → s.dev.f mgLogSeq_NEXT 0 < 2 ^ 32 - 1 →
       Runs (.logAppend 16) s fun d => d = (s.dev.logWrite ((List.range 4).flatMap fun w => leBytes 4 (s.dev.rd .mgLogAppend w).toNat)).logFull ∧ d.f mgLogSeq_NEXT 0 = s.dev.f mgLogSeq_NEXT 0 + 1 ∧ d.f mgLogStatus_UNFLUSHED 0 = s.dev.f mgLogStatus_UNFLUSHED 0 + 1) ∧
  (s.dev.f mgLogStatus_UNFLUSHED 0 < 4095 → s.dev.mg.lost = 0 →
       Runs (.logAppend 16) s fun d => d = s.dev.logWrite ((List.range 4).flatMap fun w => leBytes 4 (s.dev.rd .mgLogAppend w).toNat)) ∧
  (4095 ≤ s.dev.f mgLogStatus_UNFLUSHED 0 → s.dev.f mgLogStatus_UNFLUSHED 0 < 8192 → s.dev.mg.lost = 0 →
     s.dev.mg.booted = true → s.dev.mg.flashOps.contains .log = false → s.dev.vcoreHas 150 = true →
       Runs (.logAppend 16) s fun d => d.mg.flashOps = s.dev.mg.flashOps ++ [.log] ∧ (d.acct 0).waiting = (s.dev.acct 0).waiting ++ [⟨.flash, 150, s.dev.paNext⟩]) ∧
  (s.dev.f mgLogStatus_UNFLUSHED 0 + 2 ≤ 8192 → 0 < s.dev.mg.lost → s.dev.f mgLogSeq_NEXT 0 < 2 ^ 32 - 2 →
       Runs (.logAppend 16) s fun d => d.mg.lost = 0 ∧ d.f mgLogSeq_NEXT 0 = s.dev.f mgLogSeq_NEXT 0 + 2 ∧ d.f mgLogStatus_UNFLUSHED 0 = s.dev.f mgLogStatus_UNFLUSHED 0 + 2) ∧
  (8192 ≤ s.dev.f mgLogStatus_UNFLUSHED 0 →
       Runs (.logAppend 16) s fun d => d.mg.lost = s.dev.mg.lost + 1 ∧ d.ctr .mgLogLost 0 = s.dev.ctr .mgLogLost 0 + 1 ∧ d.eng = s.dev.eng ∧ s.dev.Only d { events := true }) ∧
  (s.dev.mg.booted = false → Runs .logFlushTimer s fun d => d = s.dev) ∧
  (s.dev.mg.booted = true → s.dev.vcoreHas 150 = true →
       Runs .logFlushTimer s fun d => d.mg.flashOps = s.dev.mg.flashOps ++ [.log] ∧ (d.acct 0).waiting = (s.dev.acct 0).waiting ++ [⟨.flash, 150, s.dev.paNext⟩])

/-- Outside recovery no recovery command changes anything. In recovery an ARP request for 169.254.96.40 that reaches E4 by
broadcast is answered with E4's address. While a container that was accepted waits to be written every transfer answers BUSY.
A chunk of 1 to 128 units in its order extends the container with the bytes of the window; one out of order answers ORDER, one
of another length counts as rejected. DONE checks the container and shows the result; one that passes asks for leave to be
written to the flash. A datagram to another UDP port than 6976 changes nothing. HELLO opens a session, or is refused while
another sender's is open. The next block of the session is taken and acknowledged, the last one acknowledged again, any other
ignored. END answers the result of the check. The timeout ends the session. A clause about a row that ends a frame is of a
device with no open transaction and no port held after RESUME of the BW die: a token that waits for the boundary applies
there, and a held port goes on. -/
def Obligations.RecoveryTransfers : Prop :=
  ∀ (s : State),
    s.On →
  (∀ (v : Word) (y : RecovPeer) (b : List Byte), s.dev.f mgBootStatus_RECOVERY 0 = 0 →
       ∀ c ∈ [Instr.recovChunk v, .recovDone v, .recovHello y, .recovData y v b, .recovEnd y v, .recovSessionTimeout], Runs c s fun d => d = s.dev) ∧
  (∀ (m q : List Byte) (t : Nat), s.dev.f mgBootStatus_RECOVERY 0 = 1 →
     s.dev.f ethMacCfg_RX_EN 4 = 0 ∨ s.dev.f ethIntf_INTF 4 = 0 → m.length = 6 → q.length = 4 →
     s.dev.bus.bwHeld = [] → s.dev.bus.rxCut = [] → s.dev.bus.wakeCut = [] →
       Runs (.ethFrameReceived 4 ⟨List.replicate 6 255 ++ m ++ beBytes 8 0x0806000108000604 ++ beBytes 2 1 ++ m ++ q ++ List.replicate 6 0 ++ [169, 254, 96, 40], t, false, false, false, false, false, 0, false, false, {}⟩) s fun d => d = s.dev.emit (.eth 4 (m ++ s.dev.recovMac.map byteOf ++ beBytes 8 0x0806000108000604 ++ beBytes 2 2 ++ s.dev.recovMac.map byteOf ++ [169, 254, 96, 40] ++ m ++ q ++ List.replicate 18 0) false)) ∧
  (∀ (v : Word), s.dev.f mgBootStatus_RECOVERY 0 = 1 → s.dev.recovTaken = false →
     v.toNat / 65536 = 0 ∨ 128 < v.toNat / 65536 → Runs (.recovChunk v) s fun d => d = s.dev.inc .unitRejWr uMg) ∧
  (∀ (v : Word), s.dev.f mgBootStatus_RECOVERY 0 = 1 → s.dev.recovTaken = false → 1 ≤ v.toNat / 65536 →
     v.toNat / 65536 ≤ 128 → v.toNat % 65536 * 32768 ≠ s.dev.mg.recovH0.length →
       Runs (.recovChunk v) s fun d => d = s.dev.sf mgRecovStatus_RESULT 0 0x81) ∧
  (∀ (v : Word), s.dev.f mgBootStatus_RECOVERY 0 = 1 → s.dev.recovTaken = false → 1 ≤ v.toNat / 65536 →
     v.toNat / 65536 ≤ 128 → v.toNat % 65536 * 32768 = s.dev.mg.recovH0.length →
       Runs (.recovChunk v) s fun d => d.mg = { s.dev.mg with recovH0 := s.dev.mg.recovH0 ++ s.dev.recovWindow (256 * (v.toNat / 65536)) } ∧ d.f mgRecovStatus_RESULT 0 = 0 ∧ s.dev.Only d { regs := [(.mgRecovStatus, 0)], parts := [.mg] }) ∧
  (∀ (v : Word), s.dev.f mgBootStatus_RECOVERY 0 = 1 → s.dev.recovTaken = false →
       Runs (.recovDone v) s fun d => s.dev.recovCheck (s.dev.mg.recovH0.take v.toNat) ≠ 0 → d.f mgRecovStatus_RESULT 0 = s.dev.recovCheck (s.dev.mg.recovH0.take v.toNat) ∧ d.mg = { s.dev.mg with recovH0 := [] } ∧ s.dev.Only d { regs := [(.mgRecovStatus, 0)], parts := [.mg] }) ∧
  (∀ (v : Word), s.dev.f mgBootStatus_RECOVERY 0 = 1 → s.dev.recovTaken = false → s.dev.vcoreHas 150 = true →
       Runs (.recovDone v) s fun d => s.dev.recovCheck (s.dev.mg.recovH0.take v.toNat) = 0 → d.f mgRecovStatus_RESULT 0 = 0 ∧ d.f mgRecovStatus_BUSY 0 = 1 ∧ d.mg = { s.dev.mg with recovH0 := [], flashOps := s.dev.mg.flashOps ++ [.installErase (s.dev.mg.recovH0.take v.toNat)] } ∧ (d.acct 0).waiting = (s.dev.acct 0).waiting ++ [⟨.flash, 150, s.dev.paNext⟩]) ∧
  (∀ (y : RecovPeer), s.dev.f mgBootStatus_RECOVERY 0 = 1 → y.dst.toNat = 6976 → s.dev.recovTaken = false →
     s.dev.mg.recovFrom = none ∨ s.dev.mg.recovFrom = some y →
       Runs (.recovHello y) s fun d => d.mg = { s.dev.mg with recovFrom := some y, recovE4 := [] } ∧ d.outs = s.dev.outs ++ [.eth 4 (padded (s.dev.recovFrame y (beBytes 2 0x5852 ++ beBytes 1 2 ++ beBytes 1 0 ++ beBytes 4 0 ++ (beBytes 8 s.dev.serial ++ beBytes 1 s.dev.lifecycle ++ beBytes 4 recovMax)))) false] ∧ s.dev.Only d { parts := [.mg, .outs] }) ∧
  (∀ (y : RecovPeer) (o : RecovPeer), s.dev.f mgBootStatus_RECOVERY 0 = 1 → y.dst.toNat = 6976 →
     s.dev.recovTaken = false → s.dev.mg.recovFrom = some o → o ≠ y →
       Runs (.recovHello y) s fun d => d = s.dev.emit (.eth 4 (padded (s.dev.recovFrame y (beBytes 2 0x5852 ++ beBytes 1 6 ++ beBytes 1 0x80 ++ beBytes 4 0 ++ []))) false)) ∧
  (∀ (y : RecovPeer) (v : Word) (b : List Byte), s.dev.f mgBootStatus_RECOVERY 0 = 1 → y.dst.toNat = 6976 →
     s.dev.recovTaken = false → s.dev.mg.recovFrom = some y → v.toNat * 1024 = s.dev.mg.recovE4.length → b ≠ [] →
     b.length ≤ 1024 →
       Runs (.recovData y v b) s fun d => d.mg = { s.dev.mg with recovE4 := s.dev.mg.recovE4 ++ b } ∧ d.outs = s.dev.outs ++ [.eth 4 (padded (s.dev.recovFrame y (beBytes 2 0x5852 ++ beBytes 1 4 ++ beBytes 1 0 ++ beBytes 4 v.toNat ++ []))) false] ∧ s.dev.Only d { parts := [.mg, .outs] }) ∧
  (∀ (y : RecovPeer) (v : Word) (b : List Byte), s.dev.f mgBootStatus_RECOVERY 0 = 1 → y.dst.toNat = 6976 →
     s.dev.recovTaken = false → s.dev.mg.recovFrom = some y → v.toNat * 1024 < s.dev.mg.recovE4.length →
     s.dev.mg.recovE4.length ≤ v.toNat * 1024 + 1024 →
       Runs (.recovData y v b) s fun d => d = s.dev.emit (.eth 4 (padded (s.dev.recovFrame y (beBytes 2 0x5852 ++ beBytes 1 4 ++ beBytes 1 0 ++ beBytes 4 v.toNat ++ []))) false)) ∧
  (∀ (y : RecovPeer) (v : Word) (b : List Byte), s.dev.f mgBootStatus_RECOVERY 0 = 1 → s.dev.recovTaken = false →
     y.dst.toNat ≠ 6976 ∨ s.dev.mg.recovFrom ≠ some y ∨ s.dev.mg.recovE4.length < v.toNat * 1024 ∨ v.toNat * 1024 + 1024 < s.dev.mg.recovE4.length →
       Runs (.recovData y v b) s fun d => d = s.dev) ∧
  (∀ (y : RecovPeer) (v : Word) (b : List Byte), y.dst.toNat ≠ 6976 →
       ∀ c ∈ [Instr.recovHello y, .recovData y v b, .recovEnd y v], Runs c s fun d => d = s.dev) ∧
  (∀ (y : RecovPeer) (v : Word), s.dev.f mgBootStatus_RECOVERY 0 = 1 → y.dst.toNat = 6976 →
     s.dev.recovTaken = false → s.dev.mg.recovFrom = some y →
       Runs (.recovEnd y v) s fun d => d.outs[s.dev.outs.length]? = some (.eth 4 (padded (s.dev.recovFrame y (beBytes 2 0x5852 ++ beBytes 1 6 ++ beBytes 1 (s.dev.recovCheck (s.dev.mg.recovE4.take v.toNat)) ++ beBytes 4 0 ++ []))) false)) ∧
  (∀ (v : Word), s.dev.f mgBootStatus_RECOVERY 0 = 1 → s.dev.recovTaken = true →
       ∀ c ∈ [Instr.recovChunk v, .recovDone v], Runs c s fun d => d = s.dev.sf mgRecovStatus_RESULT 0 0x80) ∧
  (∀ (y : RecovPeer) (v : Word) (b : List Byte), s.dev.f mgBootStatus_RECOVERY 0 = 1 → y.dst.toNat = 6976 →
     s.dev.recovTaken = true → s.dev.mg.recovFrom = some y →
       ∀ c ∈ [Instr.recovHello y, .recovData y v b, .recovEnd y v], Runs c s fun d => d = s.dev.emit (.eth 4 (padded (s.dev.recovFrame y (beBytes 2 0x5852 ++ beBytes 1 6 ++ beBytes 1 0x80 ++ beBytes 4 0 ++ []))) false)) ∧
  (s.dev.f mgBootStatus_RECOVERY 0 = 1 →
       Runs .recovSessionTimeout s fun d => d = { s.dev with mg := { s.dev.mg with recovFrom := none, recovE4 := [] } })

/-- A request with a bad CRC is answered BAD_CRC and has no effect; one of an unknown CMD, or with more than 1,024 bytes,
BAD_CMD; one of another command is none of the row's. In PRODUCTION and RETIRED a request that needs a token is answered
LOCKED without a session, DENIED without its grant. IDCODE answers part, stepping, serial, lifecycle and lock state. CHALLENGE
answers 16 bytes that become the challenge and ends any session. A token that is good unlocks with its grants, one that is not
answers TOKEN_BAD and spends the challenge. STATUS of the device answers what is halted. RESET answers and resets the logic
side. RECOVER outside recovery answers BAD_CMD, in it the result of the check. A reset of the link ends the session and
forgets the challenge. -/
def Obligations.DarderSessions : Prop :=
  ∀ (s : State) (q : DarderReq),
    s.On →
  (∀ (x : Ecc), darderOk q = false →
       ∀ e ∈ [(1, Instr.darderIdcode q), (2, .darderChallenge q), (3, .darderUnlock q), (4, .darderHalt q), (5, .darderResume q), (6, .darderStep q x), (7, .darderBkpt q), (8, .darderWatch q), (9, .darderRegr q), (10, .darderRegw q), (11, .darderMemr q x), (12, .darderMemw q), (13, .darderReset q), (14, .darderRecover q), (15, .darderStatus q)], Runs e.2 s fun d => d = s.dev.dkSay q 3 []) ∧
  (∀ (x : Ecc), darderOk q = true → q.cmd.toNat = 0 ∨ 15 < q.cmd.toNat ∨ 1024 < q.payload.length →
       ∀ e ∈ [(1, Instr.darderIdcode q), (2, .darderChallenge q), (3, .darderUnlock q), (4, .darderHalt q), (5, .darderResume q), (6, .darderStep q x), (7, .darderBkpt q), (8, .darderWatch q), (9, .darderRegr q), (10, .darderRegw q), (11, .darderMemr q x), (12, .darderMemw q), (13, .darderReset q), (14, .darderRecover q), (15, .darderStatus q)], Runs e.2 s fun d => d = s.dev.dkSay q 4 []) ∧
  (∀ (x : Ecc), darderOk q = true → 1 ≤ q.cmd.toNat → q.cmd.toNat ≤ 15 → q.payload.length ≤ 1024 →
       ∀ e ∈ [(1, Instr.darderIdcode q), (2, .darderChallenge q), (3, .darderUnlock q), (4, .darderHalt q), (5, .darderResume q), (6, .darderStep q x), (7, .darderBkpt q), (8, .darderWatch q), (9, .darderRegr q), (10, .darderRegw q), (11, .darderMemr q x), (12, .darderMemw q), (13, .darderReset q), (14, .darderRecover q), (15, .darderStatus q)], Runs e.2 s fun d => q.cmd.toNat ≠ e.1 → d = s.dev) ∧
  (∀ (x : Ecc), 2 ≤ s.dev.lifecycle → s.dev.f dbgLink_UNLOCKED 0 = 0 → s.dev.f mgBootStatus_RECOVERY 0 = 0 →
       ∀ e ∈ [(4, Instr.darderHalt q), (5, .darderResume q), (6, .darderStep q x), (7, .darderBkpt q), (8, .darderWatch q), (9, .darderRegr q), (10, .darderRegw q), (11, .darderMemr q x), (12, .darderMemw q), (13, .darderReset q)], Runs e.2 s fun d => dkAsks q e.1 = true → d = s.dev.dkSay q 1 []) ∧
  (∀ (x : Ecc), 2 ≤ s.dev.lifecycle → s.dev.f dbgLink_UNLOCKED 0 = 1 → s.dev.f dbgLink_GRANTS 0 = 0 →
     s.dev.f mgBootStatus_RECOVERY 0 = 0 →
       ∀ e ∈ [(4, Instr.darderHalt q), (5, .darderResume q), (6, .darderStep q x), (7, .darderBkpt q), (8, .darderWatch q), (9, .darderRegr q), (10, .darderRegw q), (11, .darderMemr q x), (12, .darderMemw q), (13, .darderReset q)], Runs e.2 s fun d => dkAsks q e.1 = true → d = s.dev.dkSay q 2 []) ∧
  (s.dev.lifecycle = 3 → s.dev.f dbgLink_UNLOCKED 0 = 0 →
       ∀ e ∈ [(2, Instr.darderChallenge q), (3, .darderUnlock q), (15, .darderStatus q)], Runs e.2 s fun d => dkAsks q e.1 = true → d = s.dev.dkSay q 1 []) ∧
  (dkAsks q 1 = true →
       Runs (.darderIdcode q) s fun d => d = s.dev.dkSay q 0 (leBytes 2 (s.dev.f idChip_PART 0) ++ leBytes 1 (s.dev.f idChip_STEPPING 0) ++ leBytes 8 s.dev.serial ++ leBytes 1 s.dev.lifecycle ++ s.dev.dkLock)) ∧
  (dkAsks q 2 = true → s.dev.lifecycle ≤ 2 →
       Runs (.darderChallenge q) s fun d => ∃ b : List Byte, b.length = 16 ∧ d.outs.getLast? = some (.darder (darderPacket 0 q.tag b)) ∧ d.mg.challenge.isSome = true ∧ d.mg.token = [] ∧ d.f dbgLink_UNLOCKED 0 = 0) ∧
  (dkAsks q 3 = true → s.dev.lifecycle ≤ 2 → (s.dev.unlockHeld q).mg.token.length ≠ tokenLen →
       Runs (.darderUnlock q) s fun d => d = (s.dev.unlockHeld q).dkSay q 0 [] ∧ d.f dbgLink_UNLOCKED 0 = s.dev.f dbgLink_UNLOCKED 0 ∧ ∀ i, i < q.payload.length → q.addr.toNat + i < tokenLen → d.tokenBytes[q.addr.toNat + i]? = q.payload[i]?) ∧
  (dkAsks q 3 = true → s.dev.lifecycle ≤ 2 → (s.dev.unlockHeld q).mg.token.length = tokenLen →
       Runs (.darderUnlock q) s fun d => d.mg.token = [] ∧ (s.dev.tokenGood (s.dev.unlockHeld q).tokenBytes = true → d.f dbgLink_UNLOCKED 0 = 1 ∧ d.f dbgLink_GRANTS 0 = leAt (s.dev.unlockHeld q).tokenBytes 12 4 % 256 ∧ d.outs.getLast? = some (.darder (darderPacket 0 q.tag []))) ∧ (s.dev.tokenGood (s.dev.unlockHeld q).tokenBytes = false → d.mg.challenge = none ∧ d.f dbgLink_UNLOCKED 0 = s.dev.f dbgLink_UNLOCKED 0 ∧ d.outs = s.dev.outs ++ [.darder (darderPacket 9 q.tag [])])) ∧
  (dkAsks q 15 = true → s.dev.lifecycle ≤ 2 → q.target = 0xFF →
       Runs (.darderStatus q) s fun d => d = s.dev.dkSay q 0 (((List.range 3).flatMap fun w => leBytes 4 (s.dev.rd .dbgHalted w).toNat) ++ s.dev.dkLock)) ∧
  (dkAsks q 15 = true → s.dev.lifecycle ≤ 2 → reqEngine q = true →
       Runs (.darderStatus q) s fun d => d = s.dev.dkSay q 0 (leBytes 1 (if s.dev.isHalted q.target.toNat then 1 else 0) ++ (targetHarts q.target.toNat).flatMap (fun h => leBytes 1 (s.dev.haltWhy (haltKey h))) ++ s.dev.dkLock)) ∧
  (s.dev.dkOpen q = true → dkAsks q 13 = true →
       Runs (.darderReset q) s fun d => d = (s.dev.dkSay q 0 []).internalReset ∧ d.mg.why = 2 ∧ d.logicAtReset) ∧
  (dkAsks q 14 = true → s.dev.f mgBootStatus_RECOVERY 0 = 0 → Runs (.darderRecover q) s fun d => d = s.dev.dkSay q 4 []) ∧
  (dkAsks q 14 = true → s.dev.f mgBootStatus_RECOVERY 0 = 1 → s.dev.recovTaken = false →
       Runs (.darderRecover q) s fun d => s.dev.recovCheck (memGet s.dev.eng.sram 0x100000 q.addr.toNat) ≠ 0 → d = s.dev.dkSay q 0 (leBytes 1 (s.dev.recovCheck (memGet s.dev.eng.sram 0x100000 q.addr.toNat)))) ∧
  (dkAsks q 14 = true → s.dev.f mgBootStatus_RECOVERY 0 = 1 → s.dev.recovTaken = true →
       Runs (.darderRecover q) s fun d => d = s.dev.dkSay q 10 []) ∧
  (dkAsks q 12 = true → s.dev.recovStage q = true → s.dev.recovTaken = true →
       Runs (.darderMemw q) s fun d => d = s.dev.dkSay q 10 []) ∧
  (dkAsks q 12 = true → s.dev.recovStage q = true → s.dev.recovTaken = false →
       Runs (.darderMemw q) s fun d => d = (s.dev.spcStore (reqHart q) .sram q.addr.toNat q.payload).dkSay q 0 []) ∧
  (
       Runs .darderLinkReset s fun d => d.f dbgLink_UNLOCKED 0 = 0 ∧ d.mg.challenge = none ∧ d.mg.token = [] ∧ s.dev.Only d { regs := [(.dbgLink, 0)], parts := [.mg], events := true })

/-- In BLANK and DEVELOP: a request for a target that is no engine answers BAD_TARGET; one about a target that is not halted
answers NOT_HALTED. HALT of a target whose pair is SPLIT stops it; of a half of a PAIRED pair it first splits the pair; during
a hand-over it waits. RESUME clears its halt bit. STEP leaves the thread halted with reason STEP. BKPT and WATCH with an index
they have set the point, with another answer BAD_CMD. REGR and REGW read and write a general register. MEMR of a device
register answers its value, misaligned FAULT with ALIGN; MEMW writes it as a core does, and bytes of a memory in place. A
write of a far-side register goes through its window's queue and is answered when it is acknowledged, waits for a place in it,
or answers FAULT over a link that is down. A hit of a point that no target has set, or of a target that the link may not halt,
changes nothing; of one that is set, a watchpoint's when it covers the access of the instruction at PC, it halts the target.
-/
def Obligations.DarderDebug : Prop :=
  ∀ (s : State) (q : DarderReq),
    s.On →
  (∀ (x : Ecc), s.dev.dkOpen q = true → reqEngine q = false →
       ∀ e ∈ [(4, Instr.darderHalt q), (5, .darderResume q), (6, .darderStep q x), (7, .darderBkpt q), (8, .darderWatch q), (9, .darderRegr q), (10, .darderRegw q)], Runs e.2 s fun d => dkAsks q e.1 = true → d = s.dev.dkSay q 5 []) ∧
  (∀ (x : Ecc), s.dev.dkOpen q = true → reqEngine q = true → s.dev.isHalted q.target.toNat = false →
       ∀ e ∈ [(5, Instr.darderResume q), (6, .darderStep q x), (9, .darderRegr q), (10, .darderRegw q)], Runs e.2 s fun d => dkAsks q e.1 = true → d = s.dev.dkSay q 6 []) ∧
  (s.dev.dkOpen q = true → dkAsks q 4 = true → reqEngine q = true → s.dev.targetSplit q.target.toNat = true →
       Runs (.darderHalt q) s fun d => d = (s.dev.haltNow q.target.toNat 1).dkSay q 0 [] ∧ d.isHalted q.target.toNat = true) ∧
  (s.dev.dkOpen q = true → dkAsks q 4 = true → q.target.toNat < 64 →
     s.dev.f lsPair_STATE (q.target.toNat / 2) = pairPaired →
       Runs (.darderHalt q) s fun d => d.isHalted q.target.toNat = true ∧ d.f lsPair_STATE (q.target.toNat / 2) = pairSplit ∧ d.f lsPair_DEBUG_SPLIT (q.target.toNat / 2) = 1 ∧ d.f lsFaultStatus_ACTIVE fcDebugSplit = 1) ∧
  (s.dev.dkOpen q = true → dkAsks q 4 = true → q.target.toNat < 64 →
     s.dev.f lsPair_STATE (q.target.toNat / 2) = pairHandover →
       Runs (.darderHalt q) s fun d => d = (s.dev.setHaltWhy (haltWaitKey q.target.toNat) 1).dkSay q 0 []) ∧
  (dkAsks q 4 = true → s.dev.lifecycle = 2 → s.dev.f dbgLink_UNLOCKED 0 = 1 → s.dev.f dbgLink_GRANTS 0 = 1 →
     q.target.toNat < 64 → s.dev.f lsPair_STATE (q.target.toNat / 2) = pairPaired →
       Runs (.darderHalt q) s fun d => d = s.dev.dkSay q 7 []) ∧
  (s.dev.dkOpen q = true → dkAsks q 5 = true → reqEngine q = true → s.dev.isHalted q.target.toNat = true →
       Runs (.darderResume q) s fun d => d.isHalted q.target.toNat = false ∧ d.outs.getLast? = some (.darder (darderPacket 0 q.tag []))) ∧
  (∀ (e : Ecc), s.dev.dkOpen q = true → dkAsks q 6 = true → reqEngine q = true →
     s.dev.isHalted q.target.toNat = true →
       Runs (.darderStep q e) s fun d => d.haltWhy (haltKey (reqHart q)) = 4 ∧ d.hartSt (reqHart q) = .halted ∧ d.outs.getLast? = some (.darder (darderPacket 0 q.tag []))) ∧
  (s.dev.dkOpen q = true → dkAsks q 7 = true → reqEngine q = true → q.sub.toNat / 16 < 4 →
       Runs (.darderBkpt q) s fun d => d = ({ s.dev with safe := { s.dev.safe with bkpt := debugPoint s.dev.safe.bkpt (q.target.toNat, q.sub.toNat / 16, q.addr.toNat, leNat (q.payload.take 2)) } }).dkSay q 0 []) ∧
  (s.dev.dkOpen q = true → dkAsks q 8 = true → reqEngine q = true → q.sub.toNat / 16 < 2 →
       Runs (.darderWatch q) s fun d => d = ({ s.dev with safe := { s.dev.safe with watch := debugPoint s.dev.safe.watch (q.target.toNat, q.sub.toNat / 16, q.addr.toNat, leNat (q.payload.take 2)) } }).dkSay q 0 []) ∧
  (s.dev.dkOpen q = true → dkAsks q 7 = true → reqEngine q = true → 4 ≤ q.sub.toNat / 16 →
       Runs (.darderBkpt q) s fun d => d = s.dev.dkSay q 4 []) ∧
  (s.dev.dkOpen q = true → dkAsks q 8 = true → reqEngine q = true → 2 ≤ q.sub.toNat / 16 →
       Runs (.darderWatch q) s fun d => d = s.dev.dkSay q 4 []) ∧
  (s.dev.dkOpen q = true → dkAsks q 9 = true → reqEngine q = true → s.dev.isHalted q.target.toNat = true →
     q.addr.toNat < 0x20 →
       Runs (.darderRegr q) s fun d => d = s.dev.dkSay q 0 (leBytes 8 ((s.dev.rf (reqHart q)).get q.addr.toNat).toNat)) ∧
  (s.dev.dkOpen q = true → dkAsks q 10 = true → reqEngine q = true → s.dev.isHalted q.target.toNat = true →
     q.addr.toNat < 0x20 →
       Runs (.darderRegw q) s fun d => d = (s.dev.setRf (reqHart q) ((s.dev.rf (reqHart q)).put q.addr.toNat (BitVec.ofNat 64 (leNat (q.payload.take 8))))).dkSay q 0 []) ∧
  (s.dev.dkOpen q = true → reqEngine q = true → s.dev.isHalted q.target.toNat = true → 0x41 ≤ q.addr.toNat →
     q.addr.toNat < 0x100 →
       ∀ e ∈ [(9, Instr.darderRegr q), (10, .darderRegw q)], Runs e.2 s fun d => dkAsks q e.1 = true → d = s.dev.dkSay q 8 (leBytes 1 1)) ∧
  (∀ (e : Ecc), s.dev.dkOpen q = true → dkAsks q 11 = true → q.target = 0xFF → q.payload.length = 4 →
     q.addr.toNat % 4 = 0 → q.addr.toNat < 2 ^ 24 - 3 →
       Runs (.darderMemr q e) s fun d => d = s.dev.dkSay q 0 (leBytes 4 (s.dev.read4 q.addr.toNat))) ∧
  (∀ (x : Ecc), s.dev.dkOpen q = true → q.target = 0xFF → q.payload.length = 4 → q.addr.toNat % 4 ≠ 0 →
     s.dev.f mgBootStatus_RECOVERY 0 = 0 →
       ∀ e ∈ [(11, Instr.darderMemr q x), (12, .darderMemw q)], Runs e.2 s fun d => dkAsks q e.1 = true → d = s.dev.dkSay q 8 (leBytes 1 2)) ∧
  (s.dev.dkOpen q = true → dkAsks q 12 = true → q.target = 0xFF → q.payload.length = 4 → q.addr.toNat % 4 = 0 →
     q.addr.toNat < 2 ^ 24 - 3 → s.dev.f mgBootStatus_RECOVERY 0 = 0 →
     s.dev.dkPairRefused q.addr.toNat (leAt q.payload 0 4) = false → farWindow 16 q.addr.toNat = none →
       Runs (.darderMemw q) s fun d => d = (s.dev.regWrite 16 q.addr.toNat (leAt q.payload 0 4)).dkSay q 0 []) ∧
  (∀ (w : Nat), s.dev.dkOpen q = true → dkAsks q 12 = true → q.target = 0xFF → q.payload.length = 4 →
     q.addr.toNat % 4 = 0 → q.addr.toNat < 2 ^ 24 - 3 → s.dev.f mgBootStatus_RECOVERY 0 = 0 →
     s.dev.dkPairRefused q.addr.toNat (leAt q.payload 0 4) = false → farWindow 16 q.addr.toNat = some w →
     s.dev.farDown w = false → (s.dev.farQueue w).length < 32 →
       Runs (.darderMemw q) s fun d => d = s.dev.farEnter w { dom := 16, seq := 0, off := q.addr.toNat, value := (leAt q.payload 0 4), src := .darder q [] }) ∧
  (∀ (w : Nat), s.dev.dkOpen q = true → dkAsks q 12 = true → q.target = 0xFF → q.payload.length = 4 →
     q.addr.toNat % 4 = 0 → q.addr.toNat < 2 ^ 24 - 3 → s.dev.f mgBootStatus_RECOVERY 0 = 0 →
     s.dev.dkPairRefused q.addr.toNat (leAt q.payload 0 4) = false → farWindow 16 q.addr.toNat = some w →
     s.dev.farDown w = false → 32 ≤ (s.dev.farQueue w).length →
       Runs (.darderMemw q) s fun d => d = { s.dev with host := { s.dev.host with dkWait := s.dev.host.dkWait ++ [(q, [(q.addr.toNat, (leAt q.payload 0 4))])] } }) ∧
  (∀ (w : Nat), s.dev.dkOpen q = true → dkAsks q 12 = true → q.target = 0xFF → q.payload.length = 4 →
     q.addr.toNat % 4 = 0 → q.addr.toNat < 2 ^ 24 - 3 → s.dev.f mgBootStatus_RECOVERY 0 = 0 →
     s.dev.dkPairRefused q.addr.toNat (leAt q.payload 0 4) = false → farWindow 16 q.addr.toNat = some w →
     s.dev.farDown w = true → Runs (.darderMemw q) s fun d => d = s.dev.dkSay q 8 (leBytes 1 excFarside)) ∧
  (s.dev.dkOpen q = true → dkAsks q 12 = true → q.target = 0xFF → q.payload.length = 4 → q.addr.toNat % 4 = 0 →
     q.addr.toNat < 2 ^ 24 - 3 → s.dev.f mgBootStatus_RECOVERY 0 = 0 →
     s.dev.dkPairRefused q.addr.toNat (leAt q.payload 0 4) = true →
       Runs (.darderMemw q) s fun d => d = (s.dev.rejWr uLs).dkSay q 0 []) ∧
  (∀ (o : Nat), s.dev.dkOpen q = true → dkAsks q 12 = true → reqEngine q = true →
     s.dev.f mgBootStatus_RECOVERY 0 = 0 → q.payload ≠ [] →
     s.dev.accessExc (reqHart q) q.addr.toNat q.payload.length true (dkRange q.payload.length) = 0 →
     s.dev.place (reqHart q) q.addr.toNat = some (.sram, o) →
       Runs (.darderMemw q) s fun d => d = (s.dev.spcStore (reqHart q) .sram o q.payload).dkSay q 0 []) ∧
  (∀ (h : Hart) (i : Fin 4), s.dev.safe.bkpt = [] ∨ ((s.dev.targetsOf h).any s.dev.mayHalt) = false →
       Runs (.debugBreakpointHit h i) s fun d => d = s.dev) ∧
  (∀ (h : Hart) (i : Fin 4) (p : Nat), s.dev.safe.bkpt = [(targetOf h, i.val, (s.dev.rf h).pc.toNat, p)] →
     bitAt 15 p = true → s.dev.mayHalt (targetOf h) = true → s.dev.targetSplit (targetOf h) = true →
     s.dev.isHalted (targetOf h) = false →
       Runs (.debugBreakpointHit h i) s fun d => d = s.dev.haltNow (targetOf h) 2 ∧ d.isHalted (targetOf h) = true) ∧
  (∀ (h : Hart) (i : Fin 2), s.dev.safe.watch = [] ∨ ((s.dev.targetsOf h).any s.dev.mayHalt) = false →
       Runs (.debugWatchpointHit h i) s fun d => d = s.dev) ∧
  (∀ (h : Hart) (i : Fin 2) (a p : Nat), s.dev.safe.watch = [(targetOf h, i.val, a, p)] →
     ((porrosWord h (s.dev.wordAtPc h) {}).bind (s.dev.instrAccess h)).any (watchCovers a p) = false →
       Runs (.debugWatchpointHit h i) s fun d => d = s.dev) ∧
  (∀ (h : Hart) (i : Fin 2) (a p : Nat) (acc : Nat × Nat × Bool × Bool),
     s.dev.safe.watch = [(targetOf h, i.val, a, p)] → bitAt 15 p = true →
     (porrosWord h (s.dev.wordAtPc h) {}).bind (s.dev.instrAccess h) = some acc → watchCovers a p acc = true →
     s.dev.mayHalt (targetOf h) = true → s.dev.targetSplit (targetOf h) = true →
     s.dev.isHalted (targetOf h) = false →
       Runs (.debugWatchpointHit h i) s fun d => d = s.dev.haltNow (targetOf h) 3 ∧ d.isHalted (targetOf h) = true)

/-- PWR_GOOD low, and RESET_N, leave the logic side as reset does: nothing waits or runs, registers and counters at their
reset values; the dies, the sleep controller, the flash, lifecycle and fused keys stay. PWR_GOOD low holds the logic side,
which then ignores its commands; PWR_GOOD high samples the straps and ends that, and while it is already high changes nothing.
RESET_N samples the straps too; a supply out of range does the same without. A reset of the always-on controller empties it
and drops PWR_EN. A power die in reset has its channels off and unreported, and counts as down until it leaves. Loss of PGND
turns every output off. A message with a bad CRC only counts; a good one is acknowledged, a new one advances the expected
sequence number, and its acknowledgements take the oldest messages out of UNACKED, which lets waiting ones leave. The resend
timer of a link with nothing unacknowledged changes nothing; else the oldest message is resent up to three times, and the
fourth time counted as lost, with the far write that it carried. A message leaves with the next number while fewer than 16
have no acknowledgement, else it waits. A heartbeat goes out on a link that is up; that of the BW die carries the raw counter.
A loss clears UP, counts, and for a power die voids its report; a link that is down stays. A link that comes up again sets UP
and ends the class's cause. -/
def Obligations.ResetsAndLinks : Prop :=
  (∀ (s : State),
       Runs .pwrGoodFall s fun d => d.mg.held = true ∧ d.logicAtReset ∧ d.logicCleared ∧ s.dev.keptByReset d ∧ d.mg.booted = false ∧ d.mg.good = false ∧ d.mg.why = (if s.dev.sleep.offTime then s.dev.mg.why else 1)) ∧
  (∀ (s : State) (x : Straps) (v : BitVec 9), s.dev.mg.good = false →
       Runs (.pwrGoodRise x v) s fun d => d.mg.good = true ∧ d.mg.held = false ∧ d.strapped x ∧ d.mg.vio33 = v.toNat ∧ d.mg.why = s.dev.mg.why ∧ s.dev.Only d { regs := [(.hbEp, 0), (.hbEp, 1), (.hbDomBind, 0), (.mdAvsCtl, 0)], parts := [.mg] }) ∧
  (∀ (s : State) (x : Straps) (v : BitVec 9), s.dev.mg.good = true → Runs (.pwrGoodRise x v) s fun d => d = s.dev) ∧
  (∀ (s : State) (x : Straps), s.On →
       Runs (.resetNPulse x) s fun d => d.mg.held = false ∧ d.logicAtReset ∧ d.logicCleared ∧ s.dev.keptByReset d ∧ d.strapped x ∧ d.mg.why = 1) ∧
  (∀ (s : State) (x : Straps) (n : Fin 16) (q : HostReq) (init : Initiator) (off : BitVec 24) (v : Word) (b : BootInput),
     s.dev.mg.held = true →
       ∀ c ∈ [Instr.resetNPulse x, .supplyOutOfRange, .hostRead n q, .registerWrite init off v, .bootStart b, .sensorSample [] []], Runs c s fun d => d = s.dev) ∧
  (∀ (s : State), s.On →
       Runs .supplyOutOfRange s fun d => d.logicAtReset ∧ d.logicCleared ∧ s.dev.keptByReset d ∧ d.mg.straps = s.dev.mg.straps ∧ 1 ≤ d.mg.why ∧ d.mg.why ≤ 3) ∧
  (∀ (s : State) (k : Fin 32),
       Runs .aocPowerReset s fun d => d.sleep = {} ∧ d.outs = s.dev.outs ++ [.pin pinPwrEn 0 0] ∧ d.rd .bwSegStatus k = regReset .bwSegStatus k ∧ d.rd .bwSleepStatus 0 = regReset .bwSleepStatus 0 ∧ d.ctr .bwSegWakes k = 0 ∧ d.load = s.dev.load) ∧
  (∀ (s : State) (p : Fin 3) (n : Fin 96),
       Runs (.powerDieReset p) s fun d => d.load.down.contains p.val = true ∧ d.ldReported p = false ∧ (n / 32 = p.val → d.ld n = {}) ∧ d.dieRuns p = false ∧ d.rd .pdStatus p = regReset .pdStatus p) ∧
  (∀ (s : State) (p : Fin 3),
       Runs (.powerDieLeavesReset p) s fun d => d.load = { s.dev.load with down := s.dev.load.down.filter (· != p.val) } ∧ s.dev.Only d { parts := [.load] }) ∧
  (∀ (s : State) (n : Fin 96),
       Runs .pgndLoss s fun d => (d.ld n).outOn = false ∧ (d.ld n).st = (s.dev.ld n).st ∧ s.dev.Only d Foot.ld) ∧
  (∀ (s : State) (n : Fin 4) (x : BlMessage) (k : Fin 17), s.On → blGood x = false →
       Runs (.blMessageReceived n x k) s fun d => d = s.dev.inc .bwLinkCrcErr n) ∧
  (∀ (s : State) (n : Fin 4) (x : BlMessage) (k : Fin 17), s.On → blGood x = true →
     blSeen (s.dev.link n).expect x.seq.toNat = false → (s.dev.link n).waiting = [] →
     (s.dev.link n).sent.length ≤ 16 →
       Runs (.blMessageReceived n x k) s fun d => d.link n = { (s.dev.link n) with sent := (s.dev.link n).sent.drop k, tries := if k = 0 then (s.dev.link n).tries else 0, expect := (x.seq.toNat + 1) % 256, last := x.payload } ∧ d.f bwLinkStatus_UNACKED n = ((s.dev.link n).sent.drop k).length ∧ d.outs = s.dev.outs ++ [.link n ordAck x.seq.toNat] ∧ s.dev.Only d { regs := [(.bwLinkStatus, n)], parts := [.safe, .outs] }) ∧
  (∀ (s : State) (n : Fin 4) (x : BlMessage) (k : Fin 17), s.On → blGood x = true →
     blSeen (s.dev.link n).expect x.seq.toNat = true →
       Runs (.blMessageReceived n x k) s fun d => (d.link n).expect = (s.dev.link n).expect ∧ (d.link n).last = (s.dev.link n).last ∧ (d.link n).sent = (s.dev.link n).sent.drop k ++ (s.dev.link n).waiting.take (16 - ((s.dev.link n).sent.drop k).length) ∧ d.outs.getLast? = some (.link n ordAck x.seq.toNat)) ∧
  (∀ (s : State) (n : Fin 4), s.On → (s.dev.link n).sent = [] → Runs (.blResendTimeout n) s fun d => d = s.dev) ∧
  (∀ (s : State) (n : Fin 4) (m : LinkMsg) (q : List LinkMsg), s.On → (s.dev.link n).sent = m :: q →
     (s.dev.link n).tries < 3 →
       Runs (.blResendTimeout n) s fun d => d.link n = { (s.dev.link n) with tries := (s.dev.link n).tries + 1 } ∧ d.ctr .bwLinkRetry n = s.dev.ctr .bwLinkRetry n + 1 ∧ d.outs = s.dev.outs ++ [.message n m.seq m.kind m.value] ∧ s.dev.Only d { regs := [(.bwLinkStatus, n)], ctrs := [(.bwLinkRetry, n)], parts := [.safe, .outs] }) ∧
  (∀ (s : State) (n : Fin 4) (m : LinkMsg) (q : List LinkMsg), s.On → (s.dev.link n).sent = m :: q →
     3 ≤ (s.dev.link n).tries →
     m.kind ≠ ordWrite ∨ (s.dev.farQueue n).all (fun x => farCarried x != m.value) = true →
       Runs (.blResendTimeout n) s fun d => (d.link n).sent = q ++ (s.dev.link n).waiting.take (16 - q.length) ∧ (d.link n).tries = 0 ∧ d.ctr .bwLinkFail n = s.dev.ctr .bwLinkFail n + 1 ∧ s.dev.Only d { regs := [(.bwLinkStatus, n)], ctrs := [(.bwLinkFail, n)], parts := [.safe, .outs] }) ∧
  (∀ (s : State) (n : Fin 4) (m : LinkMsg) (q : List LinkMsg) (x : FarWrite) (f : List FarWrite), s.On →
     (s.dev.link n).sent = m :: q → 3 ≤ (s.dev.link n).tries → m.kind = ordWrite → s.dev.farQueue n = x :: f →
     farCarried x = m.value → s.dev.farLatched n x = false →
       Runs (.blResendTimeout n) s fun d => d = (((((s.dev.setLink n { (s.dev.link n) with sent := q, tries := 0 }).linkFill n).inc .bwLinkFail n).setFarQueue n f).farOutcome n x 4).heldGo) ∧
  (∀ (s : State) (n : Fin 4), s.On →
       Runs (.blHeartbeatDue n) s fun d => d = (if s.dev.f bwLinkStatus_UP n = 0 then s.dev else (if n = 3 then { s.dev with sleep := { s.dev.sleep with bwRaw := s.dev.ns } } else { s.dev with load := { s.dev.load with asleep := s.dev.load.asleep.filter (· != n.val) } }).linkSend n ordHeartbeat 0)) ∧
  (∀ (s : State) (n : Fin 4), s.On → s.dev.f bwLinkStatus_UP n = 1 → (s.dev.link n).sent.length < 16 →
     (s.dev.link n).waiting = [] →
       Runs (.blHeartbeatDue n) s fun d => d.link n = { (s.dev.link n) with next := ((s.dev.link n).next + 1) % 256, sent := (s.dev.link n).sent ++ [⟨(s.dev.link n).next, ordHeartbeat, 0⟩] } ∧ d.outs = s.dev.outs ++ [.message n (s.dev.link n).next ordHeartbeat 0] ∧ d.f bwLinkStatus_UNACKED n = (s.dev.link n).sent.length + 1) ∧
  (∀ (s : State) (n : Fin 4), s.On → s.dev.f bwLinkStatus_UP n = 1 → (s.dev.link n).sent.length = 16 →
       Runs (.blHeartbeatDue n) s fun d => d.link n = { (s.dev.link n) with next := ((s.dev.link n).next + 1) % 256, waiting := (s.dev.link n).waiting ++ [⟨(s.dev.link n).next, ordHeartbeat, 0⟩] } ∧ d.outs = s.dev.outs ∧ d.f bwLinkStatus_UNACKED n = 16) ∧
  (∀ (s : State) (n : Fin 4), s.On → s.dev.f bwLinkStatus_UP n = 0 → Runs (.blLinkLost n) s fun d => d = s.dev) ∧
  (∀ (s : State) (n : Fin 4), s.On → s.dev.f bwLinkStatus_UP n = 1 →
       Runs (.blLinkLost n) s fun d => d.f bwLinkStatus_UP n = 0 ∧ d.f bwLinkStatus_TRAINING n = 1 ∧ d.f bwLinkStatus_UNACKED n = 0 ∧ d.link n = { (s.dev.link n) with sent := [], waiting := [], tries := 0 } ∧ ((s.dev.link n).silent = true → d.safe.levels = s.dev.safe.levels) ∧ ((s.dev.link n).silent = false → d.safe.levels.contains (fcLink, n.val) = true) ∧ d.ctr .bwLinkDown n = s.dev.ctr .bwLinkDown n + 1 ∧ (n < 3 → d.f pdStatus_LINK n = 0 ∧ d.ldReported n = false)) ∧
  (∀ (s : State) (n : Fin 4), s.On → s.dev.f bwLinkStatus_UP n = 1 → Runs (.blLinkUp n) s fun d => d = s.dev) ∧
  (∀ (s : State) (n : Fin 4), s.On → s.dev.f bwLinkStatus_UP n = 0 →
       Runs (.blLinkUp n) s fun d => d.f bwLinkStatus_UP n = 1 ∧ d.f bwLinkStatus_TRAINING n = 0 ∧ d.link n = {} ∧ d.safe.levels.contains (fcLink, n.val) = false)

/-- For every command that an initiator gives by writing a register (load control, hash, log, pairs, watchdog, Sepia, software
events, sleep, stage entries and commits, modes, program sets): when the permission tables deny that register to the
initiator, the access counts in HbDenyWr of the initiator, the first one is recorded with cause 2 and announced, and nothing
else changes. -/
def Obligations.DeniedCommandsCount : Prop :=
  ∀ (s : State) (init : Initiator),
    s.On →
  (∀ (n : Fin 1024) (w : Fin 4) (v : Word), s.dev.may init (stageReg w) n = false →
       Runs (.stageEntryWrite init n w v) s fun d => d.ctr .hbDenyWr init = s.dev.ctr .hbDenyWr init + 1 ∧ s.dev.accRecorded d init 2 ((regOff (stageReg w) n).getD 0) ∧ s.dev.Only d (Foot.acc init)) ∧
  (∀ (k : BitVec 11), s.dev.may init .epCmd 0 = false →
       ∀ c ∈ [Instr.stage init k, .commit init, .abort init, .snap init], Runs c s fun d => d.ctr .hbDenyWr init = s.dev.ctr .hbDenyWr init + 1 ∧ s.dev.accRecorded d init 2 ((regOff .epCmd 0).getD 0) ∧ s.dev.Only d (Foot.acc init)) ∧
  (∀ (m : Fin 4), s.dev.may init .mdModeReq 0 = false →
       Runs (.modeRequest init m) s fun d => d.ctr .hbDenyWr init = s.dev.ctr .hbDenyWr init + 1 ∧ s.dev.accRecorded d init 2 ((regOff .mdModeReq 0).getD 0) ∧ s.dev.Only d (Foot.acc init)) ∧
  (∀ (b : BitVec 8) (e : Ecc) (k : Fin 4), s.dev.may init .feLoadCmd 0 = false →
       ∀ c ∈ [Instr.feLoad init b e, .feFree init b k], Runs c s fun d => d.ctr .hbDenyWr init = s.dev.ctr .hbDenyWr init + 1 ∧ s.dev.accRecorded d init 2 ((regOff .feLoadCmd 0).getD 0) ∧ s.dev.Only d (Foot.acc init)) ∧
  (∀ (n : Fin 96) (on : Bool), s.dev.may init .ldCtl n = false →
       ∀ c ∈ [Instr.ldCtlWrite init n on, .loadClear init n], Runs c s fun d => d.ctr .hbDenyWr init = s.dev.ctr .hbDenyWr init + 1 ∧ s.dev.accRecorded d init 2 ((regOff .ldCtl n).getD 0) ∧ s.dev.Only d (Foot.acc init)) ∧
  (s.dev.may init .bwSleepCmd 0 = false →
       Runs (.sleepCmd init) s fun d => d.ctr .hbDenyWr init = s.dev.ctr .hbDenyWr init + 1 ∧ s.dev.accRecorded d init 2 ((regOff .bwSleepCmd 0).getD 0) ∧ s.dev.Only d (Foot.acc init)) ∧
  (∀ (k : Fin 33), s.dev.may init .lsPair k = false →
       ∀ c ∈ [Instr.pairJoin k init, .pairSplit k init], Runs c s fun d => d.ctr .hbDenyWr init = s.dev.ctr .hbDenyWr init + 1 ∧ s.dev.accRecorded d init 2 ((regOff .lsPair k).getD 0) ∧ s.dev.Only d (Foot.acc init)) ∧
  (∀ (v : Word), s.dev.may init .lsWdogKick 0 = false →
       Runs (.watchdogKick init v) s fun d => d.ctr .hbDenyWr init = s.dev.ctr .hbDenyWr init + 1 ∧ s.dev.accRecorded d init 2 ((regOff .lsWdogKick 0).getD 0) ∧ s.dev.Only d (Foot.acc init)) ∧
  (s.dev.may init .lsSepiaCtl 0 = false →
       ∀ c ∈ [Instr.sepiaEnter init, .sepiaExit init], Runs c s fun d => d.ctr .hbDenyWr init = s.dev.ctr .hbDenyWr init + 1 ∧ s.dev.accRecorded d init 2 ((regOff .lsSepiaCtl 0).getD 0) ∧ s.dev.Only d (Foot.acc init)) ∧
  (∀ (v : Word), s.dev.may init .evSwRaise 0 = false →
       Runs (.evSwRaise init v) s fun d => d.ctr .hbDenyWr init = s.dev.ctr .hbDenyWr init + 1 ∧ s.dev.accRecorded d init 2 ((regOff .evSwRaise 0).getD 0) ∧ s.dev.Only d (Foot.acc init)) ∧
  (∀ (v : Word), s.dev.may init .mgHashCtl 0 = false →
       Runs (.hashGo init v) s fun d => d.ctr .hbDenyWr init = s.dev.ctr .hbDenyWr init + 1 ∧ s.dev.accRecorded d init 2 ((regOff .mgHashCtl 0).getD 0) ∧ s.dev.Only d (Foot.acc init)) ∧
  (s.dev.may init .mgLogGo 0 = false →
       Runs (.logAppend init) s fun d => d.ctr .hbDenyWr init = s.dev.ctr .hbDenyWr init + 1 ∧ s.dev.accRecorded d init 2 ((regOff .mgLogGo 0).getD 0) ∧ s.dev.Only d (Foot.acc init))

/-- For every state in which a low PWR_GOOD goes with a logic side as reset leaves it (no thread, frame, table entry, queue,
ring, transaction, unit command, time domain or bus channel holds anything), every step that answers a next state leads to
such a state: no command of the dies, the wake detectors, the always-on controller or the supplies reaches the logic side
while it is held, and every other command is without effect. -/
def Obligations.HeldInResetIsKept : Prop :=
    ∀ (s t : State), s.HeldInReset → step s = .next t → t.HeldInReset

/-- For every command that is not one of the HV side or the supplies, and every state in which PWR_GOOD is low, exec answers
the same state. For every command but PWR_GOOD rising and falling, exec leaves whether PWR_GOOD is low as it was. -/
def Obligations.HeldLogicIgnoresCommands : Prop :=
  (∀ (c : Instr) (s : State), onHv c = false → s.dev.mg.held = true → exec c s = .next s) ∧
  (∀ (c : Instr) (s t : State), isPwrGood c = false → exec c s = .next t → t.dev.mg.held = s.dev.mg.held)

/-- For every command of UnitCmd given by its own row, and for a register write of UnitCmd with any value, by an initiator
that may write it while BUSY is 1: the command is discarded, UnitRejWr of the unit gains one, and nothing else changes, so
RESULT and TAG keep their values. RESTART does the same, before crypto jobs whose deliveries are gone are settled. No commit
that waits for the live limit has lost a target. -/
def Obligations.CommandsWhileBusyAreCounted : Prop :=
  ∀ (s : State) (u : Fin 349) (init : Initiator),
    s.On →
    s.dev.may init .unitCmd u = true →
    s.dev.f unitCmdStatus_BUSY u = 1 →
    s.dev.watchQuiet = true →
  (∀ (arg : BitVec 16) (tag : BitVec 8), ∀ e ∈ unitRows u init arg tag, Runs e.2 s fun d => d = s.dev.inc .unitRejWr u) ∧
  (∀ (arg : BitVec 16) (tag : BitVec 8),
       Runs (.restart u init arg tag) s fun d => d = (s.dev.inc .unitRejWr u).cxSettle.txnWatch) ∧
  (∀ (off : BitVec 24) (v : Word), regOff .unitCmd u = some off.toNat →
       Runs (.registerWrite init off v) s fun d => d = s.dev.inc .unitRejWr u ∧ d.rd .unitCmdStatus u = s.dev.rd .unitCmdStatus u)

/-- A kick by the management subsystem with KICK = 1 starts the period anew; one with KICK = 0 changes nothing; one from a
host domain that may write the register is discarded and counted in LsUnitRejWr. While EN is 1, a period that passes without a
kick sets ACTIVE of class WATCHDOG, counts it and starts the next period; with EN 0, or before the period has passed, nothing
changes. -/
def Obligations.WatchdogPeriods : Prop :=
  ∀ (s : State),
    s.On →
  (∀ (init : Initiator) (v : Word), s.dev.may init .lsWdogKick 0 = true → init ≠ 16 →
       Runs (.watchdogKick init v) s fun d => d = s.dev.inc .unitRejWr uLs) ∧
  (∀ (v : Word),
       Runs (.watchdogKick 16 v) s fun d => d = (if v.getLsbD 0 then { s.dev with mg := { s.dev.mg with wdogAt := s.dev.ns } } else s.dev)) ∧
  (s.dev.f lsWdogCfg_EN 0 = 0 ∨ s.dev.ns < s.dev.mg.wdogAt + s.dev.f lsWdogCfg_PERIOD_MS 0 * 1000000 →
       Runs .watchdogExpiry s fun d => d = s.dev) ∧
  (s.dev.f lsWdogCfg_EN 0 = 1 → s.dev.mg.wdogAt + s.dev.f lsWdogCfg_PERIOD_MS 0 * 1000000 ≤ s.dev.ns →
       Runs .watchdogExpiry s fun d => d.mg.wdogAt = s.dev.ns ∧ d.f lsFaultStatus_ACTIVE fcWatchdog = 1 ∧ d.f lsFaultStatus_COUNT fcWatchdog = min (s.dev.f lsFaultStatus_COUNT fcWatchdog + 1) 65535 ∧ (s.dev.reaction fcWatchdog ≠ 2 → s.dev.Only d { Foot.fault fcWatchdog with parts := [.mg] }))

/-- When the heartbeat returns to a die in loss of control: LOC is 0, LOC_SEEN 1, the loss-of-control-ended event of the die
is raised, every channel stays in the state it reached with its LOC_APPLIED, and the report of the die is void until it
reports anew. A write of LdCtl that reaches a channel clears its LOC_APPLIED. A die that is not in loss of control does not
change. -/
def Obligations.LossOfControlEnds : Prop :=
  ∀ (s : State),
  (∀ (p : Fin 3), s.dev.load.down.contains p.val = false → s.dev.f pdStatus_LOC p = 1 →
       Runs (.locEnded p) s fun d => d.f pdStatus_LOC p = 0 ∧ d.f pdStatus_LOC_SEEN p = 1 ∧ d.load.ch = s.dev.load.ch ∧ d.ldReported p = false ∧ (s.On → d.rd .evDetail (139 + p) = 0) ∧ s.dev.Only d { regs := [(.pdStatus, p)], parts := [.load], events := true }) ∧
  (∀ (p : Fin 3), s.dev.f pdStatus_LOC p = 0 → Runs (.locEnded p) s fun d => d = s.dev) ∧
  (∀ (init : Initiator) (n : Fin 96) (on : Bool), s.On → s.dev.ldOpen init n = true →
       Runs (.ldCtlWrite init n on) s fun d => (d.ld n).loc = false)

/-- For each of the first 194 commands of the logic side in the order of the opcode table, from registerWrite to
rxDeliveryWritten, with every operand, and every state in which the logic side is not held in reset: exec answers a next
state, in which the queue of waiting commands is as before and the device is what the effect named for the command makes of
it. No form is left out, and no operand ends in a fault or a refusal. -/
def Obligations.CommandsComplete : Prop :=
  ∀ (s : State),
  (∀ (init : Initiator) (off : BitVec 24) (v : Word), s.On →
       exec (.registerWrite init off v) s = .next (s.after fun d => d.initWrite init.val off.toNat v.toNat)) ∧
  (∀ (u : Fin 349) (init : Initiator) (arg : BitVec 16) (tag : BitVec 8), s.On →
       exec (.nop u init arg tag) s = .next (s.after fun d => d.unitRow init.val u.val fun ok d => d.unitCmd ok init.val u.val cmdNop arg.toNat tag.toNat)) ∧
  (∀ (u : Fin 349) (init : Initiator) (arg : BitVec 16) (tag : BitVec 8), s.On →
       exec (.quiesce u init arg tag) s = .next (s.after fun d => d.unitRow init.val u.val fun ok d => d.unitCmd ok init.val u.val cmdQuiesce arg.toNat tag.toNat)) ∧
  (∀ (u : Fin 349), s.On → exec (.quiesceDrained u) s = .next (s.after fun d => d.drainEnd u.val)) ∧
  (∀ (u : Fin 349), s.On → exec (.quiesceTimeout u) s = .next (s.after fun d => d.drainTimeout u.val)) ∧
  (∀ (u : Fin 349) (init : Initiator) (arg : BitVec 16) (tag : BitVec 8), s.On →
       exec (.resume u init arg tag) s = .next (s.after fun d => d.unitRow init.val u.val fun ok d => d.unitCmd ok init.val u.val cmdResume arg.toNat tag.toNat)) ∧
  (∀ (u : Fin 349) (init : Initiator) (arg : BitVec 16) (tag : BitVec 8), s.On →
       exec (.update u init arg tag) s = .next (s.after fun d => (d.unitRow init.val u.val fun ok d => d.unitCmd ok init.val u.val cmdUpdate arg.toNat tag.toNat).txnWatch)) ∧
  (∀ (u : Fin 349) (init : Initiator) (arg : BitVec 16) (tag : BitVec 8), s.On →
       exec (.recal u init arg tag) s = .next (s.after fun d => (d.unitRow init.val u.val fun ok d => d.unitCmd ok init.val u.val cmdRecal arg.toNat tag.toNat).txnWatch)) ∧
  (∀ (u : Fin 349) (init : Initiator) (arg : BitVec 16) (tag : BitVec 8), s.On →
       exec (.restart u init arg tag) s = .next (s.after fun d => (d.unitRow init.val u.val fun ok d => d.unitCmd ok init.val u.val cmdRestart arg.toNat tag.toNat).cxSettle.txnWatch)) ∧
  (∀ (u : Fin 349) (init : Initiator) (arg : BitVec 16) (tag : BitVec 8), s.On →
       exec (.replace u init arg tag) s = .next (s.after fun d => (d.unitRow init.val u.val fun ok d => d.unitCmd ok init.val u.val cmdReplace arg.toNat tag.toNat).txnWatch)) ∧
  (∀ (u : Fin 349) (init : Initiator) (arg : BitVec 16) (tag : BitVec 8), s.On →
       exec (.retire u init arg tag) s = .next (s.after fun d => (d.unitRow init.val u.val fun ok d => d.unitCmd ok init.val u.val cmdRetire arg.toNat tag.toNat).txnWatch)) ∧
  (∀ (u : Fin 349) (init : Initiator) (arg : BitVec 16) (tag : BitVec 8), s.On →
       exec (.takeOffline u init arg tag) s = .next (s.after fun d => (d.unitRow init.val u.val fun ok d => d.unitCmd ok init.val u.val cmdOffline arg.toNat tag.toNat).txnWatch)) ∧
  (∀ (u : Fin 349) (init : Initiator) (arg : BitVec 16) (tag : BitVec 8), s.On →
       exec (.bringOnline u init arg tag) s = .next (s.after fun d => d.unitRow init.val u.val fun ok d => d.bringOnline ok init.val u.val tag.toNat)) ∧
  (∀ (u : Fin 349) (readErr : Bool), s.On →
       exec (.unitWorkComplete u readErr) s = .next (s.after fun d => (d.unitWork u.val readErr).cxSettle)) ∧
  (∀ (u : Fin 349) (cause : Fin 16), s.On →
       exec (.unitInternalFault u cause) s = .next (s.after fun d => (d.internalFault u.val cause.val).txnWatch)) ∧
  (s.On → exec .bufferRowFreed s = .next (s.after fun d => d.rowFreed)) ∧
  (∀ (init : Initiator) (n : Fin 1024) (w : Fin 4) (v : Word), s.On →
       exec (.stageEntryWrite init n w v) s = .next (s.after fun d => d.asked init.val (Dev.stageReg w) n.val fun d => d.stageEntryWrite init.val n.val w.val v.toNat)) ∧
  (∀ (init : Initiator) (count : BitVec 11), s.On →
       exec (.stage init count) s = .next (s.after fun d => d.asked init.val .epCmd 0 fun d => d.epStage init.val count.toNat)) ∧
  (∀ (u : Fin 349), s.On → exec (.targetStageAnswer u) s = .next (s.after fun d => d.targetAnswer u.val)) ∧
  (s.On → exec .stageTimeout s = .next (s.after fun d => d.stageTimeout)) ∧
  (∀ (init : Initiator), s.On →
       exec (.commit init) s = .next (s.after fun d => d.asked init.val .epCmd 0 fun d => d.epCommit init.val)) ∧
  (∀ (init : Initiator), s.On →
       exec (.abort init) s = .next (s.after fun d => d.asked init.val .epCmd 0 fun d => d.epAbort init.val)) ∧
  (s.On → exec .liveLimitTimeout s = .next (s.after fun d => d.liveLimitTimeout)) ∧
  (s.On → exec .epochRetired s = .next (s.after fun d => d.epochRetired)) ∧
  (∀ (u : Fin 349), s.On → exec (.commitTokenArrival u) s = .next (s.after fun d => d.tokenArrival u.val)) ∧
  (s.On → exec .implicitTxnDiscard s = .next (s.after fun d => d.txnDiscard)) ∧
  (∀ (init : Initiator), s.On →
       exec (.snap init) s = .next (s.after fun d => d.asked init.val .epCmd 0 fun d => d.epSnap init.val)) ∧
  (∀ (u : Fin 349), s.On → exec (.snapTokenPass u) s = .next (s.after fun d => d.snapPass u.val)) ∧
  (∀ (init : Initiator) (m : Fin 4), s.On →
       exec (.modeRequest init m) s = .next (s.after fun d => d.asked init.val .mdModeReq 0 fun d => d.modeRequest init.val m.val)) ∧
  (∀ (mv : BitVec 16), s.On → exec (.regulatorSettled mv) s = .next (s.after fun d => d.regulatorSettled mv.toNat)) ∧
  (s.On → exec .regulatorFault s = .next (s.after fun d => d.regulatorFault)) ∧
  (s.On → exec .regulatorSettleTimeout s = .next (s.after fun d => d.regulatorSilent)) ∧
  (s.On → exec .modeDrainTimeout s = .next (s.after fun d => d.modeDrainTimeout)) ∧
  (∀ (paces : List (BitVec 16)), s.On →
       exec (.paceWindow paces) s = .next (s.after fun d => d.paceWindow (paces.map BitVec.toNat))) ∧
  (s.On → exec .avsAdaptStep s = .next (s.after fun d => d.avsStep)) ∧
  (s.On → exec .paceLowTimeout s = .next (s.after fun d => d.paceLow)) ∧
  (∀ (a : Fin 4), s.On →
       exec (.paGrant a) s = .next (s.after fun d => if (d.paGrant a.val).1 then (d.paGrant a.val).2.internalReset else (d.paGrant a.val).2)) ∧
  (∀ (a : Fin 4), s.On → exec (.paWaitTimeout a) s = .next (s.after fun d => d.paWaitTimeout a.val)) ∧
  (∀ (handle : BitVec 16), s.On → exec (.paLeaseExpiry handle) s = .next (s.after fun d => d.paLeaseExpiry handle.toNat)) ∧
  (∀ (h : Hart) (g : Guard) (rd ra rb : GReg), s.On →
       exec (.add h g rd ra rb) s = .next (s.after fun d => d.iAdd h g rd ra rb)) ∧
  (∀ (h : Hart) (g : Guard) (rd ra rb : GReg), s.On →
       exec (.sub h g rd ra rb) s = .next (s.after fun d => d.iSub h g rd ra rb)) ∧
  (∀ (h : Hart) (g : Guard) (rd ra rb : GReg), s.On →
       exec (.and h g rd ra rb) s = .next (s.after fun d => d.iAnd h g rd ra rb)) ∧
  (∀ (h : Hart) (g : Guard) (rd ra rb : GReg), s.On →
       exec (.or h g rd ra rb) s = .next (s.after fun d => d.iOr h g rd ra rb)) ∧
  (∀ (h : Hart) (g : Guard) (rd ra rb : GReg), s.On →
       exec (.xor h g rd ra rb) s = .next (s.after fun d => d.iXor h g rd ra rb)) ∧
  (∀ (h : Hart) (g : Guard) (rd ra rb : GReg), s.On →
       exec (.andn h g rd ra rb) s = .next (s.after fun d => d.iAndn h g rd ra rb)) ∧
  (∀ (h : Hart) (g : Guard) (rd ra rb : GReg), s.On →
       exec (.shl h g rd ra rb) s = .next (s.after fun d => d.iShl h g rd ra rb)) ∧
  (∀ (h : Hart) (g : Guard) (rd ra rb : GReg), s.On →
       exec (.shr h g rd ra rb) s = .next (s.after fun d => d.iShr h g rd ra rb)) ∧
  (∀ (h : Hart) (g : Guard) (rd ra rb : GReg), s.On →
       exec (.sar h g rd ra rb) s = .next (s.after fun d => d.iSar h g rd ra rb)) ∧
  (∀ (h : Hart) (g : Guard) (rd ra rb : GReg), s.On →
       exec (.rol h g rd ra rb) s = .next (s.after fun d => d.iRol h g rd ra rb)) ∧
  (∀ (h : Hart) (g : Guard) (rd ra rb : GReg), s.On →
       exec (.ror h g rd ra rb) s = .next (s.after fun d => d.iRor h g rd ra rb)) ∧
  (∀ (h : Hart) (g : Guard) (rd ra rb : GReg), s.On →
       exec (.mul h g rd ra rb) s = .next (s.after fun d => d.iMul h g rd ra rb)) ∧
  (∀ (h : Hart) (g : Guard) (rd ra rb : GReg), s.On →
       exec (.mulhu h g rd ra rb) s = .next (s.after fun d => d.iMulhu h g rd ra rb)) ∧
  (∀ (h : Hart) (g : Guard) (rd ra rb : GReg), s.On →
       exec (.min h g rd ra rb) s = .next (s.after fun d => d.iMin h g rd ra rb)) ∧
  (∀ (h : Hart) (g : Guard) (rd ra rb : GReg), s.On →
       exec (.max h g rd ra rb) s = .next (s.after fun d => d.iMax h g rd ra rb)) ∧
  (∀ (h : Hart) (g : Guard) (rd ra rb : GReg), s.On →
       exec (.minu h g rd ra rb) s = .next (s.after fun d => d.iMinu h g rd ra rb)) ∧
  (∀ (h : Hart) (g : Guard) (rd ra rb : GReg), s.On →
       exec (.maxu h g rd ra rb) s = .next (s.after fun d => d.iMaxu h g rd ra rb)) ∧
  (∀ (h : Hart) (g : Guard) (rd ra : GReg), s.On → exec (.popc h g rd ra) s = .next (s.after fun d => d.iPopc h g rd ra)) ∧
  (∀ (h : Hart) (g : Guard) (rd ra : GReg), s.On → exec (.clz h g rd ra) s = .next (s.after fun d => d.iClz h g rd ra)) ∧
  (∀ (h : Hart) (g : Guard) (rd ra : GReg), s.On → exec (.ctz h g rd ra) s = .next (s.after fun d => d.iCtz h g rd ra)) ∧
  (∀ (h : Hart) (g : Guard) (rd ra : GReg), s.On → exec (.bswap h g rd ra) s = .next (s.after fun d => d.iBswap h g rd ra)) ∧
  (∀ (h : Hart) (g : Guard) (rd ra : GReg) (imm : BitVec 12), s.On →
       exec (.addi h g rd ra imm) s = .next (s.after fun d => d.iAddi h g rd ra imm)) ∧
  (∀ (h : Hart) (g : Guard) (rd ra : GReg) (imm : BitVec 12), s.On →
       exec (.andi h g rd ra imm) s = .next (s.after fun d => d.iAndi h g rd ra imm)) ∧
  (∀ (h : Hart) (g : Guard) (rd ra : GReg) (imm : BitVec 12), s.On →
       exec (.ori h g rd ra imm) s = .next (s.after fun d => d.iOri h g rd ra imm)) ∧
  (∀ (h : Hart) (g : Guard) (rd ra : GReg) (imm : BitVec 12), s.On →
       exec (.xori h g rd ra imm) s = .next (s.after fun d => d.iXori h g rd ra imm)) ∧
  (∀ (h : Hart) (g : Guard) (rd ra : GReg) (amt : Fin 64), s.On →
       exec (.shli h g rd ra amt) s = .next (s.after fun d => d.iShli h g rd ra amt)) ∧
  (∀ (h : Hart) (g : Guard) (rd ra : GReg) (amt : Fin 64), s.On →
       exec (.shri h g rd ra amt) s = .next (s.after fun d => d.iShri h g rd ra amt)) ∧
  (∀ (h : Hart) (g : Guard) (rd ra : GReg) (amt : Fin 64), s.On →
       exec (.sari h g rd ra amt) s = .next (s.after fun d => d.iSari h g rd ra amt)) ∧
  (∀ (h : Hart) (g : Guard) (rd ra : GReg) (amt : Fin 64), s.On →
       exec (.roli h g rd ra amt) s = .next (s.after fun d => d.iRoli h g rd ra amt)) ∧
  (∀ (h : Hart) (g : Guard) (rd ra : GReg) (amt : Fin 64), s.On →
       exec (.rori h g rd ra amt) s = .next (s.after fun d => d.iRori h g rd ra amt)) ∧
  (∀ (h : Hart) (rd : GReg) (hw : Fin 4) (imm : BitVec 16), s.On →
       exec (.movz h rd hw imm) s = .next (s.after fun d => d.iMovz h rd hw imm)) ∧
  (∀ (h : Hart) (rd : GReg) (hw : Fin 4) (imm : BitVec 16), s.On →
       exec (.movk h rd hw imm) s = .next (s.after fun d => d.iMovk h rd hw imm)) ∧
  (∀ (h : Hart) (g : Guard) (rd ra : GReg) (pos lenm1 : Fin 64), s.On →
       exec (.extr h g rd ra pos lenm1) s = .next (s.after fun d => d.iExtr h g rd ra pos lenm1)) ∧
  (∀ (h : Hart) (g : Guard) (rd ra : GReg) (pos lenm1 : Fin 64), s.On →
       exec (.extrs h g rd ra pos lenm1) s = .next (s.after fun d => d.iExtrs h g rd ra pos lenm1)) ∧
  (∀ (h : Hart) (g : Guard) (rd ra : GReg) (pos lenm1 : Fin 64), s.On →
       exec (.insr h g rd ra pos lenm1) s = .next (s.after fun d => d.iInsr h g rd ra pos lenm1)) ∧
  (∀ (h : Hart) (g : Guard) (rd ra rb : GReg) (ps : PReg), s.On →
       exec (.sel h g rd ra rb ps) s = .next (s.after fun d => d.iSel h g rd ra rb ps)) ∧
  (∀ (h : Hart) (g : Guard) (pt pf : PReg) (ra rb : GReg) (cc : Fin 8), s.On →
       exec (.cmp h g pt pf ra rb cc) s = .next (s.after fun d => d.iCmp h g pt pf ra rb cc)) ∧
  (∀ (h : Hart) (g : Guard) (pt pf : PReg) (ra : GReg) (cc : Fin 8) (imm : BitVec 8), s.On →
       exec (.cmpi h g pt pf ra cc imm) s = .next (s.after fun d => d.iCmpi h g pt pf ra cc imm)) ∧
  (∀ (h : Hart) (g : Guard) (pt pa pb : PReg), s.On →
       exec (.pand h g pt pa pb) s = .next (s.after fun d => d.iPand h g pt pa pb)) ∧
  (∀ (h : Hart) (g : Guard) (pt pa pb : PReg), s.On →
       exec (.por h g pt pa pb) s = .next (s.after fun d => d.iPor h g pt pa pb)) ∧
  (∀ (h : Hart) (g : Guard) (pt pa pb : PReg), s.On →
       exec (.pxor h g pt pa pb) s = .next (s.after fun d => d.iPxor h g pt pa pb)) ∧
  (∀ (h : Hart) (g : Guard) (pt pa pb : PReg), s.On →
       exec (.pandn h g pt pa pb) s = .next (s.after fun d => d.iPandn h g pt pa pb)) ∧
  (∀ (h : Hart) (g : Guard) (off : BitVec 22), s.On → exec (.br h g off) s = .next (s.after fun d => d.iBr h g off)) ∧
  (∀ (h : Hart) (g : Guard) (off : BitVec 22), s.On → exec (.call h g off) s = .next (s.after fun d => d.iCall h g off)) ∧
  (∀ (h : Hart) (g : Guard) (rd ra : GReg) (imm : BitVec 12), s.On →
       exec (.jr h g rd ra imm) s = .next (s.after fun d => d.iJr h g rd ra imm)) ∧
  (∀ (h : Hart) (g : Guard) (rt ra : GReg) (sz : Fin 4) (off : BitVec 8) (ecc : Ecc), s.On →
       exec (.ld h g rt ra sz off ecc) s = .next (s.after fun d => d.iLd h g rt ra sz off ecc)) ∧
  (∀ (h : Hart) (g : Guard) (rt ra : GReg) (sz : Fin 4) (off : BitVec 8) (ecc : Ecc), s.On →
       exec (.lds h g rt ra sz off ecc) s = .next (s.after fun d => d.iLds h g rt ra sz off ecc)) ∧
  (∀ (h : Hart) (g : Guard) (rt ra : GReg) (sz : Fin 4) (off : BitVec 8) (ecc : Ecc), s.On →
       exec (.ldn h g rt ra sz off ecc) s = .next (s.after fun d => d.iLdn h g rt ra sz off ecc)) ∧
  (∀ (h : Hart) (g : Guard) (rt ra : GReg) (sz : Fin 4) (off : BitVec 8) (ecc : Ecc), s.On →
       exec (.ldns h g rt ra sz off ecc) s = .next (s.after fun d => d.iLdns h g rt ra sz off ecc)) ∧
  (∀ (h : Hart) (g : Guard) (rt ra : GReg) (sz : Fin 4) (off : BitVec 8), s.On →
       exec (.st h g rt ra sz off) s = .next (s.after fun d => d.iSt h g rt ra sz off)) ∧
  (∀ (h : Hart) (g : Guard) (rt ra : GReg) (sz : Fin 4) (off : BitVec 8), s.On →
       exec (.stn h g rt ra sz off) s = .next (s.after fun d => d.iStn h g rt ra sz off)) ∧
  (∀ (h : Hart) (g : Guard) (rd ra rb : GReg) (wide : Bool) (ecc : Ecc), s.On →
       exec (.amoadd h g rd ra rb wide ecc) s = .next (s.after fun d => d.iAmoadd h g rd ra rb wide ecc)) ∧
  (∀ (h : Hart) (g : Guard) (rd ra rb : GReg) (wide : Bool) (ecc : Ecc), s.On →
       exec (.amoswap h g rd ra rb wide ecc) s = .next (s.after fun d => d.iAmoswap h g rd ra rb wide ecc)) ∧
  (∀ (h : Hart) (g : Guard) (rd ra rb : GReg) (wide : Bool) (ecc : Ecc), s.On →
       exec (.amoor h g rd ra rb wide ecc) s = .next (s.after fun d => d.iAmoor h g rd ra rb wide ecc)) ∧
  (∀ (h : Hart) (g : Guard) (rd ra rb : GReg) (wide : Bool) (ecc : Ecc), s.On →
       exec (.amoand h g rd ra rb wide ecc) s = .next (s.after fun d => d.iAmoand h g rd ra rb wide ecc)) ∧
  (∀ (h : Hart) (g : Guard) (rd ra rb : GReg) (wide : Bool) (ecc : Ecc), s.On →
       exec (.amocas h g rd ra rb wide ecc) s = .next (s.after fun d => d.iAmocas h g rd ra rb wide ecc)) ∧
  (∀ (h : Hart) (g : Guard) (rd ra rb : GReg) (ecc : Ecc), s.On →
       exec (.csum h g rd ra rb ecc) s = .next (s.after fun d => d.iCsum h g rd ra rb ecc)) ∧
  (∀ (h : Hart) (g : Guard) (rd ra rb : GReg), s.On →
       exec (.csumr h g rd ra rb) s = .next (s.after fun d => d.iCsumr h g rd ra rb)) ∧
  (∀ (h : Hart) (g : Guard) (rd ra : GReg), s.On → exec (.csumf h g rd ra) s = .next (s.after fun d => d.iCsumf h g rd ra)) ∧
  (∀ (h : Hart) (g : Guard) (rd ra rb : GReg) (ecc : Ecc), s.On →
       exec (.crc8 h g rd ra rb ecc) s = .next (s.after fun d => d.iCrc8 h g rd ra rb ecc)) ∧
  (∀ (h : Hart) (g : Guard) (rd ra rb : GReg) (ecc : Ecc), s.On →
       exec (.crc8h h g rd ra rb ecc) s = .next (s.after fun d => d.iCrc8h h g rd ra rb ecc)) ∧
  (∀ (h : Hart) (g : Guard) (rd ra rb : GReg) (ecc : Ecc), s.On →
       exec (.crc16 h g rd ra rb ecc) s = .next (s.after fun d => d.iCrc16 h g rd ra rb ecc)) ∧
  (∀ (h : Hart) (g : Guard) (rd ra rb : GReg) (ecc : Ecc), s.On →
       exec (.crc32 h g rd ra rb ecc) s = .next (s.after fun d => d.iCrc32 h g rd ra rb ecc)) ∧
  (∀ (h : Hart) (g : Guard) (rd ra rb : GReg) (ecc : Ecc), s.On →
       exec (.crc32c h g rd ra rb ecc) s = .next (s.after fun d => d.iCrc32c h g rd ra rb ecc)) ∧
  (∀ (h : Hart) (g : Guard) (rd ra rb : GReg) (ecc : Ecc), s.On →
       exec (.crc32p4 h g rd ra rb ecc) s = .next (s.after fun d => d.iCrc32p4 h g rd ra rb ecc)) ∧
  (∀ (h : Hart) (g : Guard) (rd ra rb : GReg), s.On →
       exec (.hmix h g rd ra rb) s = .next (s.after fun d => d.iHmix h g rd ra rb)) ∧
  (∀ (h : Hart) (g : Guard) (rd ra rb : GReg), s.On →
       exec (.clmull h g rd ra rb) s = .next (s.after fun d => d.iClmull h g rd ra rb)) ∧
  (∀ (h : Hart) (g : Guard) (rd ra rb : GReg), s.On →
       exec (.clmulh h g rd ra rb) s = .next (s.after fun d => d.iClmulh h g rd ra rb)) ∧
  (∀ (h : Hart) (g : Guard) (rd : GReg) (num : BitVec 12), s.On →
       exec (.mfs h g rd num) s = .next (s.after fun d => d.iMfs h g rd num)) ∧
  (∀ (h : Hart) (g : Guard) (ra : GReg) (num : BitVec 12), s.On →
       exec (.mts h g ra num) s = .next (s.after fun d => d.iMts h g ra num)) ∧
  (∀ (h : Hart) (g : Guard) (ra rb : GReg), s.On →
       exec (.cntadd h g ra rb) s = .next (s.after fun d => d.iCntadd h g ra rb)) ∧
  (∀ (h : Hart) (g : Guard), s.On → exec (.yield h g) s = .next (s.after fun d => d.iYield h g)) ∧
  (∀ (h : Hart) (g : Guard), s.On → exec (.fence h g) s = .next (s.after fun d => d.iFence h g)) ∧
  (∀ (h : Hart) (g : Guard), s.On → exec (.bkpt h g) s = .next (s.after fun d => d.iBkpt h g)) ∧
  (∀ (h : Hart) (g : Guard), s.On → exec (.svreq h g) s = .next (s.after fun d => d.iSvreq h g)) ∧
  (∀ (h : Hart) (g : Guard) (ra : GReg), s.On → exec (.adjh h g ra) s = .next (s.after fun d => d.iAdjh h g ra)) ∧
  (∀ (h : Hart) (g : Guard) (ra : GReg), s.On → exec (.adjt h g ra) s = .next (s.after fun d => d.iAdjt h g ra)) ∧
  (∀ (h : Hart) (g : Guard) (ra : GReg), s.On → exec (.wmov h g ra) s = .next (s.after fun d => d.iWmov h g ra)) ∧
  (∀ (h : Hart) (g : Guard) (rd ra : GReg) (set : Fin 16) (tk : TokId), s.On →
       exec (.matchKey h g rd ra set tk) s = .next (s.after fun d => d.iMatchKey h g rd ra set tk)) ∧
  (∀ (h : Hart) (g : Guard) (rd ra : GReg) (set : Fin 16) (ecc : Ecc), s.On →
       exec (.matchAct h g rd ra set ecc) s = .next (s.after fun d => d.iMatchAct h g rd ra set ecc)) ∧
  (∀ (h : Hart) (tk : TokId) (ecc : Ecc), s.On →
       exec (.matchDone h tk ecc) s = .next (s.after fun d => d.tokenRow h fun d => d.matchDone h tk ecc)) ∧
  (∀ (h : Hart) (g : Guard) (rd ra : GReg) (table : Fin 16) (learn : Bool) (tk : TokId), s.On →
       exec (.lkup h g rd ra table learn tk) s = .next (s.after fun d => d.iLkup h g rd ra table learn tk)) ∧
  (∀ (h : Hart) (tk : TokId) (ecc : Ecc), s.On →
       exec (.lkupDone h tk ecc) s = .next (s.after fun d => d.tokenRow h fun d => d.lkupDone h tk ecc)) ∧
  (∀ (h : Hart) (g : Guard) (rd ra : GReg) (tk : TokId), s.On →
       exec (.aese h g rd ra tk) s = .next (s.after fun d => d.iAese h g rd ra tk)) ∧
  (∀ (h : Hart) (g : Guard) (rd ra : GReg) (tk : TokId), s.On →
       exec (.aesd h g rd ra tk) s = .next (s.after fun d => d.iAesd h g rd ra tk)) ∧
  (∀ (h : Hart) (tk : TokId), s.On → exec (.aesBlockSchedule h tk) s = .next (s.after fun d => d.blockSchedule h tk)) ∧
  (∀ (h : Hart) (tk : TokId), s.On →
       exec (.aesBlockDone h tk) s = .next (s.after fun d => d.tokenRow h fun d => d.blockDone h tk)) ∧
  (∀ (h : Hart) (g : Guard) (rd ra : GReg) (tk : TokId), s.On →
       exec (.mor h g rd ra tk) s = .next (s.after fun d => d.iMor h g rd ra tk)) ∧
  (∀ (h : Hart) (g : Guard) (rd ra : GReg) (tk : TokId), s.On →
       exec (.mow h g rd ra tk) s = .next (s.after fun d => d.iMow h g rd ra tk)) ∧
  (∀ (h : Hart) (g : Guard) (ra : GReg) (tk : TokId), s.On →
       exec (.moack h g ra tk) s = .next (s.after fun d => d.iMoack h g ra tk)) ∧
  (∀ (h : Hart) (tk : TokId), s.On → exec (.moOpDone h tk) s = .next (s.after fun d => d.tokenRow h fun d => d.moDone h tk)) ∧
  (∀ (h : Hart) (g : Guard) (rd ra : GReg) (budget : Fin 4) (tk : TokId), s.On →
       exec (.leave h g rd ra budget tk) s = .next (s.after fun d => d.iLeave h g rd ra budget tk)) ∧
  (∀ (h : Hart) (g : Guard) (ra : GReg) (tk : TokId), s.On →
       exec (.leaveRel h g ra tk) s = .next (s.after fun d => d.iLeaveRel h g ra tk)) ∧
  (∀ (h : Hart) (g : Guard) (rd : GReg) (td : Fin 4), s.On →
       exec (.tnow h g rd td) s = .next (s.after fun d => d.iTnow h g rd td)) ∧
  (∀ (h : Hart) (g : Guard) (ra : GReg) (td : Fin 4) (rel : Bool) (tk : TokId), s.On →
       exec (.tarm h g ra td rel tk) s = .next (s.after fun d => d.iTarm h g ra td rel tk)) ∧
  (∀ (h : Hart) (tk : TokId), s.On →
       exec (.tarmExpiry h tk) s = .next (s.after fun d => d.tokenRow h fun d => d.alarmExpiry h tk)) ∧
  (∀ (h : Hart) (g : Guard) (tmask : BitVec 8) (pd : PReg), s.On →
       exec (.wait h g tmask pd) s = .next (s.after fun d => d.iWait h g tmask pd)) ∧
  (∀ (h : Hart) (g : Guard) (ra : GReg) (cls : Option (Fin 8)), s.On →
       exec (.emit h g ra cls) s = .next (s.after fun d => d.iEmit h g ra cls)) ∧
  (∀ (h : Hart) (g : Guard) (ra : GReg) (cls : Option (Fin 8)), s.On →
       exec (.emitm h g ra cls) s = .next (s.after fun d => d.iEmitm h g ra cls)) ∧
  (∀ (h : Hart) (g : Guard) (reason : BitVec 8), s.On →
       exec (.drop h g reason) s = .next (s.after fun d => d.iDrop h g reason)) ∧
  (∀ (h : Hart) (g : Guard) (ra : GReg) (dom ring : Fin 16), s.On →
       exec (.copyh h g ra dom ring) s = .next (s.after fun d => d.iCopyh h g ra dom ring)) ∧
  (∀ (h : Hart) (g : Guard) (session : Fin 8), s.On →
       exec (.mirr h g session) s = .next (s.after fun d => d.iMirr h g session)) ∧
  (∀ (h : Hart) (g : Guard), s.On → exec (.redip h g) s = .next (s.after fun d => d.iRedip h g)) ∧
  (∀ (h : Hart) (g : Guard) (code : BitVec 12), s.On → exec (.trap h g code) s = .next (s.after fun d => d.iTrap h g code)) ∧
  (∀ (h : Hart) (g : Guard) (rd : GReg) (num : BitVec 12), s.On →
       exec (.mfsr h g rd num) s = .next (s.after fun d => d.iMfsr h g rd num)) ∧
  (∀ (h : Hart) (g : Guard) (ra : GReg) (num : BitVec 12), s.On →
       exec (.mtsr h g ra num) s = .next (s.after fun d => d.iMtsr h g ra num)) ∧
  (∀ (h : Hart) (g : Guard), s.On → exec (.eret h g) s = .next (s.after fun d => d.iEret h g)) ∧
  (∀ (h : Hart) (g : Guard), s.On → exec (.wfi h g) s = .next (s.after fun d => d.iWfi h g)) ∧
  (∀ (n : Fin 64) (t : Fin 4), s.On → exec (.budgetExhausted n t) s = .next (s.after fun d => d.budgetExhausted n t)) ∧
  (∀ (h : Hart), s.On → exec (.waitTmo h) s = .next (s.after fun d => d.waitTimeout h)) ∧
  (∀ (n : Fin 64) (t : Fin 4), s.On → exec (.threadCellAvailable n t) s = .next (s.after fun d => d.wakeHart (.fe n t))) ∧
  (∀ (c : Fin 2), s.On → exec (.interruptTaken c) s = .next (s.after fun d => d.interrupt c)) ∧
  (∀ (c : Fin 2), s.On → exec (.alarmDue c) s = .next (s.after fun d => d.alarmDue c)) ∧
  (∀ (init : Initiator) (clusters : BitVec 8) (ecc : Ecc), s.On →
       exec (.feLoad init clusters ecc) s = .next (s.after fun d => d.asked init.val .feLoadCmd 0 fun d => d.feLoadCmd init.val (1 + 256 * clusters.toNat) (!ecc.failing.isEmpty))) ∧
  (s.On → exec .feLoadCopyDone s = .next (s.after fun d => d.feLoadDone)) ∧
  (∀ (init : Initiator) (clusters : BitVec 8) (slot : Fin 4), s.On →
       exec (.feFree init clusters slot) s = .next (s.after fun d => d.asked init.val .feLoadCmd 0 fun d => d.feLoadCmd init.val (2 + 16 * slot.val + 256 * clusters.toNat) false)) ∧
  (∀ (p : Fin 20) (x : EthRx), s.On →
       exec (.ethFrameReceived p x) s = .next (s.after fun d => if d.inRecovery then d.recovArp p.val x else (d.ethFrameIn p.val x).rxPassed p.val)) ∧
  (∀ (p : Fin 96), s.On → exec (.dispatch p) s = .next (s.after fun d => d.dispatch p.val)) ∧
  (∀ (c : Fin 8), s.On → exec (.jobHandover c) s = .next (s.after fun d => d.jobHandover c.val)) ∧
  (∀ (q : Fin 4), s.On → exec (.slowBucketRefill q) s = .next (s.after fun d => d.slowRefill q.val)) ∧
  (∀ (w : Fin 35) (v : Word), s.On → exec (.ruleWindowWrite w v) s = .next (s.after fun d => d.ruleWrite w.val v.toNat)) ∧
  (∀ (p : Fin 96), s.On → exec (.orderRelease p) s = .next (s.after fun d => d.orderRelease p.val)) ∧
  (∀ (p : Fin 96) (seq : Word), s.On →
       exec (.orderTimeout p seq) s = .next (s.after fun d => d.orderTimeout p.val seq.toNat)) ∧
  (∀ (i : Fin 2) (table : Fin 16) (index : BitVec 16) (ecc : Ecc), s.On →
       exec (.tbRead i table index ecc) s = .next (s.after fun d => d.tbReadCmd i.val table.val index.toNat ecc)) ∧
  (∀ (i : Fin 2) (table : Fin 16) (index : BitVec 16), s.On →
       exec (.tbWrite i table index) s = .next (s.after fun d => d.tbWriteCmd i.val table.val index.toNat)) ∧
  (∀ (i : Fin 2) (table : Fin 16) (index : BitVec 16), s.On →
       exec (.tbInsert i table index) s = .next (s.after fun d => (if d.b tbCmd_BUSY i.val then d else d.sf tbCmd_INDEX i.val index.toNat).tbInsertCmd i.val table.val)) ∧
  (∀ (i : Fin 2) (table : Fin 16) (index : BitVec 16), s.On →
       exec (.tbDelete i table index) s = .next (s.after fun d => d.tbDeleteCmd i.val table.val index.toNat)) ∧
  (∀ (i : Fin 2) (table : Fin 16) (index : BitVec 16) (ecc : Ecc), s.On →
       exec (.tbSearch i table index ecc) s = .next (s.after fun d => (if d.b tbCmd_BUSY i.val then d else d.sf tbCmd_INDEX i.val index.toNat).tbSearchCmd i.val table.val ecc)) ∧
  (∀ (i : Fin 2) (table : Fin 16) (index : BitVec 16), s.On →
       exec (.flushMatch i table index) s = .next (s.after fun d => (if d.b tbCmd_BUSY i.val then d else d.sf tbCmd_INDEX i.val index.toNat).tbFlushCmd i.val table.val)) ∧
  (∀ (i : Fin 2), s.On → exec (.flushVisit i) s = .next (s.after fun d => d.tbFlushVisit i.val)) ∧
  (∀ (p : Fin 96), s.On → exec (.portQueueFlush p) s = .next (s.after fun d => d.portQueueFlush p.val)) ∧
  (∀ (i : Fin 2) (table : Fin 16) (index : BitVec 16), s.On →
       exec (.sweepNow i table index) s = .next (s.after fun d => (if d.b tbCmd_BUSY i.val then d else d.sf tbCmd_INDEX i.val index.toNat).tbSweepCmd i.val table.val)) ∧
  (∀ (i : Fin 2) (table : Fin 16) (index : BitVec 16), s.On →
       exec (.rehash i table index) s = .next (s.after fun d => (if d.b tbCmd_BUSY i.val then d else d.sf tbCmd_INDEX i.val index.toNat).tbRehashCmd i.val table.val)) ∧
  (∀ (t : Fin 16), s.On → exec (.rehashPlacementDone t) s = .next (s.after fun d => d.rehashPlaced t.val)) ∧
  (∀ (i : Fin 2) (table : Fin 16) (index : BitVec 16), s.On →
       exec (.rebuild i table index) s = .next (s.after fun d => (if d.b tbCmd_BUSY i.val then d else d.sf tbCmd_INDEX i.val index.toNat).tbRebuildCmd i.val table.val)) ∧
  (∀ (t : Fin 16), s.On → exec (.rebuildCopyDone t) s = .next (s.after fun d => d.rebuildCopied t.val)) ∧
  (∀ (i : Fin 2) (table : Fin 16) (index : BitVec 16), s.On →
       exec (.rebuildCommit i table index) s = .next (s.after fun d => (if d.b tbCmd_BUSY i.val then d else d.sf tbCmd_INDEX i.val index.toNat).tbRebuildCommitCmd i.val table.val)) ∧
  (∀ (i : Fin 2) (table : Fin 16) (index : BitVec 16), s.On →
       exec (.bgAbort i table index) s = .next (s.after fun d => (if d.b tbCmd_BUSY i.val then d else d.sf tbCmd_INDEX i.val index.toNat).tbAbortCmd i.val table.val)) ∧
  (s.On → exec .learnApply s = .next (s.after fun d => d.learnNext)) ∧
  (∀ (key : BitVec 60), s.On → exec (.lockExpiry key) s = .next (s.after fun d => d.lockExpire key.toNat)) ∧
  (s.On →
       exec .sweepPassStart s = .next (s.after fun d => if d.f tbL2Cfg_SWEEP_S 0 = 0 ∨ d.tab.sweep.isSome then d else d.sweepStart)) ∧
  (∀ (ecc : Ecc), s.On → exec (.sweepVisit ecc) s = .next (s.after fun d => d.sweepVisit ecc)) ∧
  (∀ (g : Fin 1024), s.On → exec (.streamGateEntryStart g) s = .next (s.after fun d => d.gateEntryStart g.val)) ∧
  (∀ (w : Fin 4) (v : Word), s.On →
       exec (.streamGateBaseWrite w v) s = .next (s.after fun d => if w.val < 3 then d.storeThen false .tbSgBase w.val v.toNat (2 ^ 32 - 1) Dev.gateRestartAll else d.storeThen false .tbSgCfg 0 v.toNat (2 ^ 32 - 1) Dev.gateRestartAll)) ∧
  (∀ (r : Fin 512), s.On → exec (.seqRecoveryReset r) s = .next (s.after fun d => d.seqReset r.val)) ∧
  (s.On → exec .residenceScan s = .next (s.after fun d => d.residenceScan)) ∧
  (∀ (p : Fin 96), s.On → exec (.linkLost p) s = .next (s.after fun d => d.lossRow p.val)) ∧
  (∀ (p : Fin 96), s.On → exec (.linkHoldExpiry p) s = .next (s.after fun d => d.linkHoldExpired p.val)) ∧
  (∀ (p : Fin 96) (an : Fin 16), s.On → exec (.linkRestored p an) s = .next (s.after fun d => d.anyRestored p.val an.val)) ∧
  (∀ (x : PortFifo), s.On → exec (.fifoPointerEccError x) s = .next (s.after fun d => d.fifoReset x.port.val x.tx)) ∧
  (∀ (x : Fin 8) (w : Fin 2) (v : Word), s.On →
       exec (.mirrorSessionWrite x w v) s = .next (s.after fun d => if w = 0 then d.mirrorCfgWrite x.val v.toNat else d.mirrorSampleWrite x.val v.toNat)) ∧
  (∀ (r : Fin 272) (v : Word), s.On →
       exec (.rxTailWrite r v) s = .next (s.after fun d => d.tailWrite false false r.val v.toNat)) ∧
  (∀ (r : Fin 272) (v : Word), s.On →
       exec (.rxRingCfgWrite r v) s = .next (s.after fun d => d.ringRxCfg false r.val v.toNat)) ∧
  (∀ (r : Fin 272) (bufs : List (BitVec 64)), s.On →
       exec (.rxDeliveryClaim r bufs) s = .next (s.after fun d => ((d.rxClaim r.val (bufs.map BitVec.toNat)).rxHoldZero r.val (d.rx r.val).queue.length).cxSettle)) ∧
  (∀ (r : Fin 272) (x : RxWrite), s.On →
       exec (.rxDeliveryWritten r x) s = .next (s.after fun d => d.rxWritten r.val x.wrote.toNat x.ecc))

/-- For each of the other commands of the logic side, from rxHoldTimeout to lpiRxChange, with every operand, and every state
in which the logic side is not held in reset, and for each of the 30 commands of the HV side in every state: exec answers a
next state, in which the queue of waiting commands is as before and the device is what the effect named for the command makes
of it. No form is left out, and no operand ends in a fault or a refusal. -/
def Obligations.DeviceCommandsComplete : Prop :=
  ∀ (s : State),
  (∀ (r : Fin 272), s.On →
       exec (.rxHoldTimeout r) s = .next (s.after fun d => if d.rxCanClaim r.val then d else ((d.rxDropHead r.val).rxHoldZero r.val (d.rx r.val).queue.length).cxSettle)) ∧
  (∀ (r : Fin 272) (tx : Bool), s.On → exec (.ringIrqTimeout r tx) s = .next (s.after fun d => d.ringIrqTimeout r.val tx)) ∧
  (∀ (r : Fin 272) (v : Word), s.On →
       exec (.txTailWrite r v) s = .next (s.after fun d => d.tailWrite false true r.val v.toNat)) ∧
  (∀ (r : Fin 272) (v : Word), s.On →
       exec (.txRingCfgWrite r v) s = .next (s.after fun d => d.txCfgWrite false r.val v.toNat)) ∧
  (∀ (r : Fin 272) (descs : List (BitVec 256)), s.On →
       exec (.txFrameCheck r descs) s = .next (s.after fun d => d.txTake r.val (descs.map BitVec.toNat))) ∧
  (∀ (r : Fin 272), s.On → exec (.txCellsClaimed r) s = .next (s.after fun d => d.txClaim r.val)) ∧
  (∀ (r : Fin 272) (err : Bool) (data : List Byte), s.On →
       exec (.txDataReadDone r err data) s = .next (s.after fun d => d.txDataDone r.val err data)) ∧
  (∀ (p : Fin 20) (x : EthTake), s.On →
       exec (.ethTxSelect p x) s = .next (s.after fun d => (d.ethSelect p.val x.medium x.ecc).boundary (uEth p.val))) ∧
  (∀ (p : Fin 20) (ecc : Ecc), s.On →
       exec (.ethTxEnd p ecc) s = .next (s.after fun d => (d.ethFrameEnd p.val ecc).boundary (uEth p.val))) ∧
  (∀ (p : Fin 20) (c : Fin 8), s.On → exec (.pauseTimerExpiry p c) s = .next (s.after fun d => d.pauseEnd p.val c.val)) ∧
  (∀ (p : Fin 20) (c : Fin 8), s.On →
       exec (.pauseWatchdogExpiry p c) s = .next (s.after fun d => d.pauseWatchdog p.val c.val)) ∧
  (∀ (p : Fin 20) (c : Fin 8), s.On →
       exec (.pauseHoldoffEnd p c) s = .next (s.after fun d => d.pauseHoldoffEnd p.val c.val)) ∧
  (∀ (p : Fin 20), s.On →
       exec (.linkLossDetected p) s = .next (s.after fun d => (d.linkLossDetected p.val).boundary (uEth p.val))) ∧
  (∀ (p : Fin 20) (an : Fin 16), s.On → exec (.linkUpDetected p an) s = .next (s.after fun d => d.ethUp p.val an.val)) ∧
  (∀ (p : Fin 20), s.On → exec (.preemptVerifyTimer p) s = .next (s.after fun d => d.verifyTimer p.val)) ∧
  (∀ (x : VerifyMpacket), s.On →
       exec (.verifyMpacketReceived x) s = .next (s.after fun d => if x.response then d.verifyResponse x.port.val else d.verifyRequest x.port.val)) ∧
  (∀ (p : Fin 20) (i : Fin 256), s.On → exec (.gateEntryStart p i) s = .next (s.after fun d => d.gateEntry p.val i.val)) ∧
  (∀ (p : Fin 20), s.On → exec (.configChange p) s = .next (s.after fun d => d.configChange p.val)) ∧
  (∀ (p : Fin 20), s.On → exec (.gateCancel p) s = .next (s.after fun d => d.gateCancel p.val)) ∧
  (∀ (p : Fin 20), s.On → exec (.gateConfigApply p) s = .next (s.after fun d => d.gateApply p.val)) ∧
  (∀ (p : Fin 20), s.On → exec (.stepCapsTimer p) s = .next (s.after fun d => d.stepCapsTimer p.val)) ∧
  (∀ (p : Fin 20) (ceil floor : BitVec 8), s.On →
       exec (.stepCapsReceived p ceil floor) s = .next (s.after fun d => d.stepArrives p.val stpCaps 0 0 ceil.toNat floor.toNat 0)) ∧
  (∀ (p : Fin 20), s.On → exec (.stepPeerTimeout p) s = .next (s.after fun d => d.stepPeerTimeout p.val)) ∧
  (∀ (p : Fin 20), s.On → exec (.stepTrainTimeout p) s = .next (s.after fun d => d.stepTrainTimeout p.val)) ∧
  (∀ (p : Fin 20), s.On → exec (.stepDownWindow p) s = .next (s.after fun d => d.stepWindow p.val)) ∧
  (∀ (p : Fin 20) (txn rate : BitVec 8), s.On →
       exec (.stepReqReceived p txn rate) s = .next (s.after fun d => d.stepArrives p.val stpReq txn.toNat rate.toNat 0 0 0)) ∧
  (∀ (p : Fin 20) (txn rate : BitVec 8), s.On →
       exec (.stepAckReceived p txn rate) s = .next (s.after fun d => d.stepArrives p.val stpAck txn.toNat rate.toNat 0 0 0)) ∧
  (∀ (p : Fin 20) (txn rate reason : BitVec 8), s.On →
       exec (.stepNakReceived p txn rate reason) s = .next (s.after fun d => d.stepArrives p.val stpNak txn.toNat rate.toNat 0 0 reason.toNat)) ∧
  (∀ (p : Fin 20) (txn rate : BitVec 8), s.On →
       exec (.stepDoneReceived p txn rate) s = .next (s.after fun d => d.stepArrives p.val stpDone txn.toNat rate.toNat 0 0 0)) ∧
  (∀ (p : Fin 20), s.On → exec (.stepAckTimeout p) s = .next (s.after fun d => d.stepAckTimeout p.val)) ∧
  (∀ (p : Fin 20), s.On → exec (.stepDoneTimeout p) s = .next (s.after fun d => d.stepDoneTimeout p.val)) ∧
  (∀ (p : Fin 20), s.On → exec (.stepLaneLocked p) s = .next (s.after fun d => d.stepLocked p.val)) ∧
  (∀ (p : Fin 20), s.On →
       exec (.stepLockTimeout p) s = .next (s.after fun d => (d.stepLockTimeout p.val).boundary (uEth p.val))) ∧
  (∀ (p : Fin 20), s.On → exec (.lpiIdleTimeout p) s = .next (s.after fun d => d.lpiIdle p.val)) ∧
  (∀ (p : Fin 20) (us : Word), s.On → exec (.lpiWakeDone p us) s = .next (s.after fun d => d.lpiWakeDone p.val us.toNat)) ∧
  (∀ (p : Fin 20) (late : Bool), s.On →
       exec (.t1sCollision p late) s = .next (s.after fun d => (d.t1sCollision p.val late).boundary (uEth p.val))) ∧
  (∀ (p : Fin 20), s.On → exec (.plcaBeaconLoss p) s = .next (s.after fun d => (d.plcaLoss p.val).boundary (uEth p.val))) ∧
  (∀ (p : Fin 20), s.On → exec (.tsFifoPop p) s = .next (s.after fun d => d.tsPop p.val)) ∧
  (∀ (n : Fin 48) (x : CanRx), s.On →
       exec (.canFrameReceived n x) s = .next (s.after fun d => (d.canReceive n.val x).rxPassed (32 + n.val))) ∧
  (∀ (n : Fin 48) (k : Fin 6) (up : Fin 9), s.On →
       exec (.canRxError n k up) s = .next (s.after fun d => (d.canRxErr n.val k.val up.val).rxPassed (32 + n.val))) ∧
  (∀ (x : CanTake), s.On → exec (.canTxLoad x) s = .next (s.after fun d => d.canTxLoad x.chan.val x.ecc)) ∧
  (∀ (n : Fin 48), s.On → exec (.canArbitrationStart n) s = .next (s.after fun d => d.canArbStart n.val)) ∧
  (∀ (n : Fin 48) (tdcv tdcvXl : Option (BitVec 9)), s.On →
       exec (.canTxSuccess n tdcv tdcvXl) s = .next (s.after fun d => (d.canTxDone n.val (tdcv.map BitVec.toNat) (tdcvXl.map BitVec.toNat)).boundary (uCan n.val))) ∧
  (∀ (n : Fin 48) (k : Fin 6) (x : CanTxErr), s.On →
       exec (.canTxError n k x) s = .next (s.after fun d => (d.canTxErr n.val k.val x.exempt (x.tdcv.map BitVec.toNat) (x.tdcvXl.map BitVec.toNat)).boundary (uCan n.val))) ∧
  (∀ (n : Fin 48), s.On → exec (.canArbLost n) s = .next (s.after fun d => (d.canArbLose n.val).boundary (uCan n.val))) ∧
  (∀ (n : Fin 48), s.On → exec (.canIntegrationDone n) s = .next (s.after fun d => d.canIntegrated n.val)) ∧
  (∀ (n : Fin 48), s.On → exec (.canBoDelayExpiry n) s = .next (s.after fun d => d.canBoDelay n.val)) ∧
  (∀ (n : Fin 48), s.On → exec (.canRecover n) s = .next (s.after fun d => d.canRecover n.val)) ∧
  (∀ (n : Fin 48), s.On → exec (.canRecoveryDone n) s = .next (s.after fun d => d.canRecovered n.val)) ∧
  (∀ (n : Fin 48) (b : Fin 64), s.On → exec (.canPtimeReached n b) s = .next (s.after fun d => d.canPtime n.val b.val)) ∧
  (∀ (n : Fin 48) (x : Fin 8) (v : Word), s.On →
       exec (.canSchedWrite n x v) s = .next (s.after fun d => d.canSchedWrite n.val x.val v.toNat)) ∧
  (∀ (w : Fin 17) (v : Word), s.On → exec (.moKeyWrite w v) s = .next (s.after fun d => d.objKeyWrite false w.val v.toNat)) ∧
  (∀ (w : Fin 17) (v : Word), s.On → exec (.moAckWrite w v) s = .next (s.after fun d => d.objAckWrite w.val v.toNat)) ∧
  (∀ (w : Fin 17) (v : Word), s.On → exec (.moPublish w v) s = .next (s.after fun d => d.objPublish w.val v.toNat)) ∧
  (∀ (w : Fin 17), s.On → exec (.moForeignClear w) s = .next (s.after fun d => d.objForeignClear w.val)) ∧
  (∀ (n : Fin 16), s.On → exec (.linTick n) s = .next (s.after fun d => (d.linTick n.val).2)) ∧
  (∀ (n : Fin 16) (id : Fin 64) (x : LinHeader), s.On →
       exec (.linHeaderReceived n id x) s = .next (s.after fun d => d.linHeaderIn n.val id.val x)) ∧
  (∀ (n : Fin 16) (x : LinRx), s.On →
       exec (.linResponseReceived n x) s = .next (s.after fun d => ((d.linResponse n.val x).rxPassed (80 + n.val)).boundary (uLin n.val))) ∧
  (∀ (n : Fin 16), s.On →
       exec (.linNoResponse n) s = .next (s.after fun d => ((d.linNoResponse n.val).rxPassed (80 + n.val)).boundary (uLin n.val))) ∧
  (∀ (x : LinTake), s.On → exec (.linTxTake x) s = .next (s.after fun d => d.linTake x.chan.val x.ecc)) ∧
  (∀ (n : Fin 16) (t : Fin 8), s.On → exec (.linSchedReq n t) s = .next (s.after fun d => d.linReq n.val t.val)) ∧
  (∀ (n : Fin 16), s.On → exec (.linSchedStop n) s = .next (s.after fun d => d.linStop n.val)) ∧
  (∀ (n : Fin 16) (v : Word), s.On →
       exec (.linSchedEntryWrite n v) s = .next (s.after fun d => d.linEntryWrite false n.val v.toNat)) ∧
  (∀ (x : Fin 32), s.On → exec (.tunAggTimeout x) s = .next (s.after fun d => d.tunClose x.val)) ∧
  (∀ (x : Fin 32) (w : Fin 8) (v : Word), s.On →
       exec (.tunStreamWrite x w v) s = .next (s.after fun d => d.tunStreamWrite x.val w.val v.toNat)) ∧
  (∀ (t : Fin 4), s.On → exec (.setRate t) s = .next (s.after fun d => d.domCmdWrite t.val 1)) ∧
  (∀ (t : Fin 4), s.On → exec (.domainStep t) s = .next (s.after fun d => d.domCmdWrite t.val 2)) ∧
  (∀ (t : Fin 4), s.On → exec (.setTime t) s = .next (s.after fun d => d.domCmdWrite t.val 3)) ∧
  (∀ (t : Fin 4), s.On → exec (.domainCmdApply t) s = .next (s.after fun d => d.domApply t.val)) ∧
  (s.On → exec .latch s = .next (s.after fun d => d.timeLatch)) ∧
  (∀ (t : Fin 4), s.On → exec (.convGo t) s = .next (s.after fun d => d.convWrite t.val true)) ∧
  (s.On → exec .convDone s = .next (s.after fun d => d.convDone)) ∧
  (∀ (n : Fin 32) (v : Word), s.On → exec (.ttCtlWrite n v) s = .next (s.after fun d => d.trigCtlWrite false n.val v.toNat)) ∧
  (∀ (n : Fin 32), s.On → exec (.ttFireNone n) s = .next (s.after fun d => d.fireNone n.val)) ∧
  (∀ (n : Fin 32), s.On → exec (.ttFireSense n) s = .next (s.after fun d => d.fireSense n.val)) ∧
  (∀ (n : Fin 32), s.On → exec (.ttFireJob n) s = .next (s.after fun d => d.fireJob n.val)) ∧
  (∀ (n : Fin 32), s.On → exec (.ttFireLin n) s = .next (s.after fun d => d.fireLin n.val)) ∧
  (∀ (n : Fin 32), s.On → exec (.ttFireCan n) s = .next (s.after fun d => d.fireCan n.val)) ∧
  (∀ (n : Fin 32), s.On → exec (.ttFireTout n) s = .next (s.after fun d => d.fireTout n.val)) ∧
  (∀ (k : Fin 4), s.On → exec (.toutPulseEnd k) s = .next (s.after fun d => d.toutEnd k.val)) ∧
  (∀ (c : Fin 8) (x : CapEdge), s.On →
       exec (.tcapEdge c x) s = .next (s.after fun d => d.capEdge c.val x.rising x.held.toNat)) ∧
  (∀ (c : Fin 8), s.On → exec (.tcapPop c) s = .next (s.after fun d => d.capPop c.val)) ∧
  (∀ (u : Fin 17) (v : Word), s.On → exec (.cryptoJobSubmit u v) s = .next (s.after fun d => d.cxSubmit u.val v.toNat)) ∧
  (∀ (u : Fin 17), s.On → exec (.cryptoJobStart u) s = .next (s.after fun d => d.cxStart u.val)) ∧
  (∀ (err : Bool) (data : List Byte), s.On →
       exec (.cryptoChunkStage err data) s = .next (s.after fun d => d.cxStage err data)) ∧
  (∀ (u : Fin 17) (ecc : Ecc), s.On →
       exec (.cryptoChunkEnd u ecc) s = .next (s.after fun d => (d.cxChunkEnd u.val ecc).cxSettle)) ∧
  (∀ (u : Fin 17), s.On → exec (.cryptoDonePop u) s = .next (s.after fun d => d.cxPop u.val)) ∧
  (∀ (u : Fin 17), s.On → exec (.ctxSave u) s = .next (s.after fun d => d.ctxSave u.val)) ∧
  (∀ (u : Fin 17) (err : Bool) (img : List Byte), s.On →
       exec (.ctxRestore u err img) s = .next (s.after fun d => d.ctxRestore u.val err img)) ∧
  (∀ (u : Fin 17), s.On → exec (.ctxClear u) s = .next (s.after fun d => d.ctxClear u.val)) ∧
  (∀ (u : Fin 17) (slot : BitVec 12), s.On →
       exec (.ksLoad u slot) s = .next (s.after fun d => d.ksIssue u.val (ksWord 1 slot.toNat 0))) ∧
  (∀ (u : Fin 17) (slot : BitVec 12), s.On →
       exec (.generate u slot) s = .next (s.after fun d => d.ksIssue u.val (ksWord 2 slot.toNat 0))) ∧
  (∀ (u : Fin 17) (slot : BitVec 12), s.On →
       exec (.import u slot) s = .next (s.after fun d => d.ksIssue u.val (ksWord 3 slot.toNat 0))) ∧
  (∀ (u : Fin 17) (slot aux : BitVec 12), s.On →
       exec (.derive u slot aux) s = .next (s.after fun d => d.ksIssue u.val (ksWord 4 slot.toNat aux.toNat))) ∧
  (∀ (u : Fin 17) (slot : BitVec 12), s.On →
       exec (.wrapOut u slot) s = .next (s.after fun d => d.ksIssue u.val (ksWord 5 slot.toNat 0))) ∧
  (∀ (u : Fin 17) (slot : BitVec 12), s.On →
       exec (.erase u slot) s = .next (s.after fun d => d.ksIssue u.val (ksWord 6 slot.toNat 0))) ∧
  (∀ (u : Fin 17) (slot aux : BitVec 12), s.On →
       exec (.unwrap u slot aux) s = .next (s.after fun d => d.ksIssue u.val (ksWord 7 slot.toNat aux.toNat))) ∧
  (∀ (u : Fin 17) (slot : BitVec 12), s.On →
       exec (.readAttr u slot) s = .next (s.after fun d => d.ksIssue u.val (ksWord 8 slot.toNat 0))) ∧
  (∀ (u : Fin 17), s.On → exec (.keySwitchDrained u) s = .next (s.after fun d => d.ksDrained u.val)) ∧
  (s.On → exec .remaskSweepDue s = .next (s.after fun d => d.remaskDue)) ∧
  (s.On → exec .remaskSweepDone s = .next (s.after fun d => d.remaskDone)) ∧
  (s.On → exec .entropyHealthFail s = .next (s.after fun d => d.entropyFail)) ∧
  (∀ (pass : Bool), s.On → exec (.entropyRetest pass) s = .next (s.after fun d => (d.entropyRetest pass).rootResume)) ∧
  (∀ (u : Fin 18) (v : Word), s.On → exec (.ksQuotaWrite u v) s = .next (s.after fun d => d.quotaWrite false u.val v.toNat)) ∧
  (∀ (u : Fin 18) (v : Word), s.On → exec (.wrapGenWrite u v) s = .next (s.after fun d => d.wrapGenWrite u.val v.toNat)) ∧
  (∀ (init : Initiator) (n : Fin 96) (on : Bool), s.On →
       exec (.ldCtlWrite init n on) s = .next (s.after fun d => d.asked init.val .ldCtl n.val fun d => d.ldCtlWrite init.val n.val on false)) ∧
  (∀ (init : Initiator) (n : Fin 96), s.On →
       exec (.loadClear init n) s = .next (s.after fun d => d.asked init.val .ldCtl n.val fun d => d.ldCtlWrite init.val n.val (d.ld n.val).on true)) ∧
  (∀ (p : Fin 3), s.On → exec (.dieStateReport p) s = .next (s.after fun d => d.onDie p.val fun d => d.dieReport p.val)) ∧
  (∀ (init : Initiator), s.On →
       exec (.sleepCmd init) s = .next (s.after fun d => d.asked init.val .bwSleepCmd 0 fun d => d.sleepCmd init.val)) ∧
  (s.On → exec .sleepStepDone s = .next (s.after fun d => d.sleepStep)) ∧
  (∀ (x : Fin 32), s.On → exec (.segSleep x) s = .next (s.after fun d => d.segSleep x.val)) ∧
  (∀ (x : Fin 32), s.On → exec (.segWake x) s = .next (s.after fun d => d.segWakeCmd x.val)) ∧
  (∀ (x : Fin 32), s.On → exec (.segmentDrainDone x) s = .next (s.after fun d => d.segDrainDone x.val)) ∧
  (∀ (x : Fin 32), s.On → exec (.segmentDrainTimeout x) s = .next (s.after fun d => d.segCommandSleep x.val)) ∧
  (∀ (x : Fin 32), s.On → exec (.segmentAsleep x) s = .next (s.after fun d => d.segAsleep x.val)) ∧
  (∀ (x : Fin 32) (w : Fin 3) (v : Word), s.On →
       exec (.segmentPortsWrite x w v) s = .next (s.after fun d => d.segPortsWrite false x.val w.val v.toNat)) ∧
  (∀ (dom : Fin 16) (x : HostReq), s.On → exec (.hostRead dom x) s = .next (s.after fun d => d.hostRead dom.val x)) ∧
  (∀ (dom : Fin 16) (x : HostReq) (poisoned : Bool) (data : BitVec 64), s.On →
       exec (.hostWrite dom x poisoned data) s = .next (s.after fun d => d.hostWrite dom.val x poisoned data.toNat)) ∧
  (∀ (w : Fin 7), s.On → exec (.farWriteAck w) s = .next (s.after fun d => d.farAck w.val)) ∧
  (∀ (w : Fin 7), s.On → exec (.farWriteTimeout w) s = .next (s.after fun d => d.farTimeout w.val)) ∧
  (∀ (init : Initiator) (dom : Fin 16) (w : Fin 7), s.On →
       exec (.farLatchClear init dom w) s = .next (s.after fun d => d.initWrite init.val (0x081000 + 0x100 * dom.val + 0x10 * w.val) (2 ^ 31))) ∧
  (∀ (dom : Fin 16), s.On → exec (.functionLevelReset dom) s = .next (s.after fun d => d.flr dom.val)) ∧
  (∀ (dom : Fin 16) (bme mse d3 vfEnable : Bool) (numVfs : Fin 8), s.On →
       exec (.pcieConfigWrite dom bme mse d3 vfEnable numVfs) s = .next (s.after fun d => d.pcieConfig dom.val ⟨bme, mse, d3, vfEnable, numVfs.val⟩)) ∧
  (∀ (e : Fin 2) (up : Bool) (speed width : Fin 5), s.On →
       exec (.pcieLinkChange e up speed width) s = .next (s.after fun d => d.pcieLink e.val up speed.val width.val)) ∧
  (∀ (init : Initiator) (dom : Fin 16) (v : Word), s.On →
       exec (.domBindWrite init dom v) s = .next (s.after fun d => d.initWrite init.val (0x080080 + 4 * dom.val) v.toNat)) ∧
  (∀ (dom : Fin 16), s.On →
       exec (.coeRead dom) s = .next (s.after fun d => d.coeRun dom.val 1 fun d seq p => some (d.coeDoRead dom.val seq p))) ∧
  (∀ (dom : Fin 16), s.On →
       exec (.coeWrite dom) s = .next (s.after fun d => d.coeRun dom.val 3 fun d seq p => some (d.coeDoWrite dom.val seq p))) ∧
  (∀ (dom : Fin 16), s.On →
       exec (.coeTx dom) s = .next (s.after fun d => d.coeRun dom.val 7 fun d seq p => d.coeDoTx dom.val seq p)) ∧
  (∀ (k : Fin 33), s.On → exec (.lockstepMismatch k) s = .next (s.after fun d => d.mismatch k.val none)) ∧
  (∀ (k : Fin 33), s.On → exec (.lockstepCopyTimeout k) s = .next (s.after fun d => d.mismatch k.val none)) ∧
  (∀ (k : Fin 33) (init : Initiator), s.On →
       exec (.pairJoin k init) s = .next (s.after fun d => d.asked init.val .lsPair k.val fun d => d.pairJoin init.val k.val)) ∧
  (∀ (k : Fin 33) (init : Initiator), s.On →
       exec (.pairSplit k init) s = .next (s.after fun d => d.asked init.val .lsPair k.val fun d => d.pairSplitReq init.val k.val)) ∧
  (∀ (k : Fin 33) (differ : Bool), s.On →
       exec (.handoverDrained k differ) s = .next (s.after fun d => (d.handoverDone k.val differ).haltWaiting k.val)) ∧
  (∀ (k : Fin 33), s.On →
       exec (.handoverDrainTimeout k) s = .next (s.after fun d => (d.handoverTimeout k.val).haltWaiting k.val)) ∧
  (∀ (c : Fin 16), s.On → exec (.faultActiveClear c) s = .next (s.after fun d => d.faultClear c.val)) ∧
  (∀ (init : Initiator) (v : Word), s.On →
       exec (.watchdogKick init v) s = .next (s.after fun d => d.asked init.val .lsWdogKick 0 fun d => d.wdogKick init.val v.toNat)) ∧
  (s.On → exec .watchdogExpiry s = .next (s.after fun d => d.wdogExpiry)) ∧
  (∀ (init : Initiator), s.On →
       exec (.sepiaEnter init) s = .next (s.after fun d => d.asked init.val .lsSepiaCtl 0 fun d => d.sepiaEnterCmd init.val)) ∧
  (∀ (init : Initiator), s.On →
       exec (.sepiaExit init) s = .next (s.after fun d => d.asked init.val .lsSepiaCtl 0 fun d => d.sepiaExitCmd init.val)) ∧
  (s.On → exec .refclkLoss s = .next (s.after fun d => d.levelOn fcRefclk 0)) ∧
  (∀ (m : Fin 64) (v : Word), s.On → exec (.monitorSampleTick m v) s = .next (s.after fun d => d.monTick m.val v.toNat)) ∧
  (∀ (m : Fin 64), s.On → exec (.monitorClear m) s = .next (s.after fun d => d.monClear m.val)) ∧
  (∀ (init : Initiator) (v : Word), s.On →
       exec (.evSwRaise init v) s = .next (s.after fun d => d.asked init.val .evSwRaise 0 fun d => d.swRaise init.val v.toNat)) ∧
  (∀ (set : Fin 18) (w : Fin 8) (v : Word), s.On →
       exec (.eventStatusClear set w v) s = .next (s.after fun d => if set.val < 16 then d.regStore .evDomStatus (8 * set.val + w.val) v.toNat (2 ^ 32 - 1) else if set.val = 16 then d.coresWake.regStore .evMcStatus w.val v.toNat (2 ^ 32 - 1) else d.regStore .evPinStatus w.val v.toNat (2 ^ 32 - 1))) ∧
  (∀ (x : BootInput), s.On → exec (.bootStart x) s = .next (s.after fun d => d.bootStart x)) ∧
  (∀ (init : Initiator) (v : Word), s.On →
       exec (.hashGo init v) s = .next (s.after fun d => d.asked init.val .mgHashCtl 0 fun d => d.hashWrite init.val (v.toNat ||| 8))) ∧
  (s.On → exec .hashDone s = .next (s.after fun d => d.hashDone)) ∧
  (∀ (temps : List (BitVec 16)) (mvs : List (BitVec 16)), s.On →
       exec (.sensorSample temps mvs) s = .next (s.after fun d => d.sensorSample temps (mvs.map BitVec.toNat))) ∧
  (∀ (n : Fin 16), s.On → exec (.version n) s = .next (s.after fun d => d.mbVersion n.val)) ∧
  (∀ (n : Fin 16) (err : Bool), s.On → exec (.attest n err) s = .next (s.after fun d => d.mbAttest n.val err)) ∧
  (∀ (n : Fin 16) (err : Bool), s.On → exec (.logRead n err) s = .next (s.after fun d => d.mbLogRead n.val err)) ∧
  (∀ (n : Fin 16) (data : Option (List Byte)), s.On →
       exec (.flashWrite n data) s = .next (s.after fun d => d.mbFlashWrite n.val data)) ∧
  (∀ (n : Fin 16), s.On → exec (.mboxCommit n) s = .next (s.after fun d => d.mbCommit n.val)) ∧
  (∀ (n : Fin 16), s.On → exec (.confirm n) s = .next (s.after fun d => d.mbConfirm n.val)) ∧
  (∀ (n : Fin 16) (readErr : Bool), s.On →
       exec (.svnRaise n readErr) s = .next (s.after fun d => d.mbSvnRaise n.val readErr)) ∧
  (∀ (n : Fin 16) (data : Option (List Byte)), s.On →
       exec (.lifecycle n data) s = .next (s.after fun d => d.mbLifecycle n.val data)) ∧
  (∀ (n : Fin 16) (data : Option (List Byte)), s.On →
       exec (.keyset n data) s = .next (s.after fun d => d.mbKeyset n.val data)) ∧
  (∀ (n : Fin 16), s.On →
       exec (.mboxReset n) s = .next (s.after fun d => d.mbRun n.val 10 fun d => if n.val ≠ 0 then d.mbEnd n.val mbPermission else if d.mbArg 0 = 0xB007 then d.internalReset else d.mbEnd 0 mbBadArg)) ∧
  (∀ (init : Initiator), s.On →
       exec (.logAppend init) s = .next (s.after fun d => d.asked init.val .mgLogGo 0 fun d => if init.val = 16 then d.logGo else d.rejWr uMg)) ∧
  (s.On → exec .logFlushTimer s = .next (s.after fun d => d.logFlushTimer)) ∧
  (∀ (v : Word), s.On → exec (.recovChunk v) s = .next (s.after fun d => d.recovChunk v.toNat)) ∧
  (∀ (v : Word), s.On → exec (.recovDone v) s = .next (s.after fun d => d.recovDone v.toNat)) ∧
  (∀ (sender : RecovPeer), s.On → exec (.recovHello sender) s = .next (s.after fun d => d.recovHello sender)) ∧
  (∀ (sender : RecovPeer) (block : Word) (data : List Byte), s.On →
       exec (.recovData sender block data) s = .next (s.after fun d => d.recovData sender block.toNat data)) ∧
  (∀ (sender : RecovPeer) (total : Word), s.On →
       exec (.recovEnd sender total) s = .next (s.after fun d => d.recovEnd sender total.toNat)) ∧
  (s.On → exec .recovSessionTimeout s = .next (s.after fun d => d.recovSessionEnd)) ∧
  (∀ (q : DarderReq), s.On → exec (.darderIdcode q) s = .next (s.after fun d => d.dkCmd q 1 fun d => d.dkIdcode q)) ∧
  (∀ (q : DarderReq), s.On → exec (.darderChallenge q) s = .next (s.after fun d => d.dkCmd q 2 fun d => d.dkChallenge q)) ∧
  (∀ (q : DarderReq), s.On → exec (.darderUnlock q) s = .next (s.after fun d => d.dkCmd q 3 fun d => d.dkUnlock q)) ∧
  (∀ (q : DarderReq), s.On → exec (.darderHalt q) s = .next (s.after fun d => d.dkCmd q 4 fun d => d.dkHalt q)) ∧
  (∀ (q : DarderReq), s.On → exec (.darderResume q) s = .next (s.after fun d => d.dkCmd q 5 fun d => d.dkResume q)) ∧
  (∀ (q : DarderReq) (ecc : Ecc), s.On →
       exec (.darderStep q ecc) s = .next (s.after fun d => d.dkCmd q 6 fun d => d.dkStep q ecc)) ∧
  (∀ (q : DarderReq), s.On → exec (.darderBkpt q) s = .next (s.after fun d => d.dkCmd q 7 fun d => d.dkBkpt q)) ∧
  (∀ (q : DarderReq), s.On → exec (.darderWatch q) s = .next (s.after fun d => d.dkCmd q 8 fun d => d.dkWatch q)) ∧
  (∀ (q : DarderReq), s.On → exec (.darderRegr q) s = .next (s.after fun d => d.dkCmd q 9 fun d => d.dkRegr q)) ∧
  (∀ (q : DarderReq), s.On → exec (.darderRegw q) s = .next (s.after fun d => d.dkCmd q 10 fun d => d.dkRegw q)) ∧
  (∀ (q : DarderReq) (ecc : Ecc), s.On →
       exec (.darderMemr q ecc) s = .next (s.after fun d => d.dkCmd q 11 fun d => d.dkMemr q ecc)) ∧
  (∀ (q : DarderReq), s.On → exec (.darderMemw q) s = .next (s.after fun d => d.dkCmd q 12 fun d => d.dkMemw q)) ∧
  (∀ (q : DarderReq), s.On → exec (.darderReset q) s = .next (s.after fun d => d.dkCmd q 13 fun d => d.dkReset q)) ∧
  (∀ (q : DarderReq), s.On → exec (.darderRecover q) s = .next (s.after fun d => d.dkCmd q 14 fun d => d.dkRecover q)) ∧
  (∀ (q : DarderReq), s.On → exec (.darderStatus q) s = .next (s.after fun d => d.dkCmd q 15 fun d => d.dkStatus q)) ∧
  (s.On → exec .darderLinkReset s = .next (s.after fun d => d.dkLinkReset)) ∧
  (∀ (h : Hart) (i : Fin 4), s.On → exec (.debugBreakpointHit h i) s = .next (s.after fun d => d.bkptHit h i.val)) ∧
  (∀ (h : Hart) (i : Fin 2), s.On → exec (.debugWatchpointHit h i) s = .next (s.after fun d => d.watchHit h i.val)) ∧
  (∀ (straps : Straps), s.On → exec (.resetNPulse straps) s = .next (s.after fun d => (d.logicReset 1).strapsSet straps)) ∧
  (s.On → exec .supplyOutOfRange s = .next (s.after fun d => d.supplyReset)) ∧
  (∀ (n : Fin 4) (x : BlMessage) (acks : Fin 17), s.On →
       exec (.blMessageReceived n x acks) s = .next (s.after fun d => d.blMessage n.val x acks.val)) ∧
  (∀ (n : Fin 4), s.On →
       exec (.blResendTimeout n) s = .next (s.after fun d => match (d.blResend n.val).1 with | some m => (d.blResend n.val).2.farLinkError n.val m | none => (d.blResend n.val).2)) ∧
  (∀ (n : Fin 4), s.On → exec (.blHeartbeatDue n) s = .next (s.after fun d => d.blHeartbeat n.val)) ∧
  (∀ (n : Fin 4), s.On →
       exec (.blLinkLost n) s = .next (s.after fun d => if d.b bwLinkStatus_UP n.val then d.blLost n.val else d)) ∧
  (∀ (n : Fin 4), s.On →
       exec (.blLinkUp n) s = .next (s.after fun d => if d.b bwLinkStatus_UP n.val then d else (((d.blUp n.val).updatingEnd (uBl n.val)).partEnd (uBl n.val) ucOk).wakingEnd)) ∧
  (s.On → exec .refclkRestored s = .next (s.after fun d => d.levelOff fcRefclk 0)) ∧
  (∀ (p : Fin 20) (lock lf rf an : Bool), s.On →
       exec (.pcsLinkConditionChange p lock lf rf an) s = .next (s.after fun d => (d.pcsChange p.val lock lf rf an).boundary (uEth p.val))) ∧
  (∀ (p : Fin 20), s.On → exec (.plcaBeaconReturn p) s = .next (s.after fun d => d.plcaReturn p.val)) ∧
  (∀ (p : Fin 20) (on : Bool) (us : Word), s.On →
       exec (.lpiRxChange p on us) s = .next (s.after fun d => d.lpiRx p.val on us.toNat)) ∧
  (∀ (n : Fin 96), exec (.loadRampDone n) s = .next (s.afterHv fun d => d.onDie (n.val / 32) fun d => d.ldRampDone n.val)) ∧
  (∀ (n : Fin 96), exec (.loadPhaseEnd n) s = .next (s.afterHv fun d => d.onDie (n.val / 32) fun d => d.ldPhaseEnd n.val)) ∧
  (∀ (n : Fin 96) (temp : BitVec 16),
       exec (.loadThermalTrip n temp) s = .next (s.afterHv fun d => d.onDie (n.val / 32) fun d => d.ldThermal n.val temp.toNat)) ∧
  (∀ (n : Fin 96),
       exec (.loadOcTrip n) s = .next (s.afterHv fun d => d.onDie (n.val / 32) fun d => d.ldOverCurrent (d.leader n.val))) ∧
  (∀ (p : Fin 3) (currents : List (BitVec 16)),
       exec (.wireModelUpdate p currents) s = .next (s.afterHv fun d => d.onDie p.val fun d => d.wireTick p.val (currents.map BitVec.toNat))) ∧
  (∀ (n : Fin 96),
       exec (.loadRetryReload n) s = .next (s.afterHv fun d => d.onDie (n.val / 32) fun d => d.ldRetryReload n.val)) ∧
  (∀ (n : Fin 96) (temps : List (BitVec 16)),
       exec (.loadCooled n temps) s = .next (s.afterHv fun d => d.onDie (n.val / 32) fun d => d.ldCoolDone n.val (temps.map BitVec.toNat))) ∧
  (∀ (n : Fin 96),
       exec (.loadGrantRelease n) s = .next (s.afterHv fun d => d.onDie (n.val / 32) fun d => d.ldWindowEnd n.val)) ∧
  (∀ (p : Fin 3), exec (.vbatUndervoltage p) s = .next (s.afterHv fun d => d.onDie p.val fun d => d.vbatUnder p.val)) ∧
  (∀ (p : Fin 3), exec (.vbatRecovered p) s = .next (s.afterHv fun d => d.onDie p.val fun d => d.vbatRecovered p.val)) ∧
  (∀ (p : Fin 3) (c : Fin 4) (value : BitVec 16) (sat : Bool),
       exec (.adcEntryDone p c value sat) s = .next (s.afterHv fun d => d.onDie p.val fun d => d.adcDone p.val c.val value.toNat sat)) ∧
  (∀ (n : Fin 96) (above : Bool),
       exec (.openLoadOffCheck n above) s = .next (s.afterHv fun d => d.onDie (n.val / 32) fun d => d.openLoadOff n.val above)) ∧
  (∀ (p : Fin 3), exec (.aggAverageCheck p ()) s = .next (s.afterHv fun d => d.onDie p.val fun d => d.aggCheck p.val)) ∧
  (∀ (p : Fin 3), exec (.lossOfControl p) s = .next (s.afterHv fun d => d.onDie p.val fun d => d.locStart p.val)) ∧
  (∀ (p : Fin 3), exec (.locEnded p) s = .next (s.afterHv fun d => d.onDie p.val fun d => d.locReturn p.val)) ∧
  (∀ (n : Fin 48), exec (.canWakePattern n) s = .next (s.afterHv fun d => d.canWup n.val)) ∧
  (∀ (k : Fin 8) (err ide : Bool) (ident : BitVec 29) (dlc : Fin 16) (data : List Byte),
       exec (.swfFrameDecoded k err ide ident dlc data) s = .next (s.afterHv fun d => d.swfFrame k.val err ide ident.toNat dlc.val data)) ∧
  (∀ (n : Fin 16), exec (.linWake n) s = .next (s.afterHv fun d => d.linWake n.val)) ∧
  (∀ (m : Fin 8), exec (.t1sWake m) s = .next (s.afterHv fun d => d.t1sWake m.val)) ∧
  (∀ (i : Fin 8), exec (.wakeInputActive i) s = .next (s.afterHv fun d => d.winActive i.val)) ∧
  (∀ (i : Fin 8), exec (.wakeStuck i) s = .next (s.afterHv fun d => d.winStuck i.val)) ∧
  (exec .vbatPowerOn s = .next (s.afterHv fun d => d.vbatPowerOn)) ∧
  (exec .offTimeEnd s = .next (s.afterHv fun d => d.offTimeEnd)) ∧
  (∀ (straps : Straps) (vio33 : BitVec 9),
       exec (.pwrGoodRise straps vio33) s = .next (s.afterHv fun d => d.pwrGoodRise straps vio33.toNat)) ∧
  (exec .pwrGoodFall s = .next (s.afterHv fun d => d.pwrGoodFall)) ∧
  (exec .aocPowerReset s = .next (s.afterHv fun d => d.aocReset)) ∧
  (∀ (p : Fin 3), exec (.powerDieReset p) s = .next (s.afterHv fun d => d.dieReset p.val)) ∧
  (exec .pgndLoss s = .next (s.afterHv fun d => d.pgndLoss)) ∧
  (∀ (i : Fin 8), exec (.wakeInputInactive i) s = .next (s.afterHv fun d => d.winInactive i.val)) ∧
  (∀ (p : Fin 3), exec (.powerDieLeavesReset p) s = .next (s.afterHv fun d => d.dieLeavesReset p.val))
end

