-- ==== Sys2Proof/Laws/Aes.lean ====
section
/-! SUPPORT. The tables of the cipher are what FIPS 197 defines them by: the affine map of the inverse in GF(2^8). -/
namespace Sys2Proof.Machine

/-- The byte whose affine map is `x` (FIPS 197, 5.3.2). -/
def unaffine (x : Nat) : Nat :=
  let rot (k : Nat) : Nat := x * 2 ^ k % 256 + x / 2 ^ (8 - k)
  rot 1 ^^^ rot 3 ^^^ rot 6 ^^^ 0x05

theorem sbox_zero : unaffine (sbox 0) = 0 := by decide

/-- SubBytes of every other byte is the affine map of its inverse in the field. -/
theorem sbox_inverse : ∀ a ∈ (List.range 256).drop 1, gfMulBits 8 a (unaffine (sbox a)) = 1 := by decide +kernel

theorem sboxInv_sbox : ∀ a ∈ List.range 256, sboxInv (sbox a) = a := by decide +kernel

end Sys2Proof.Machine
end

