-- ==== Sys2Proof/Laws/Sparse.lean ====
section
/-! SUPPORT. The laws of sparse arrays: reading after writing, writing leaves other indices alone, and every operation keeps the
canonical form, for the arrays and for the memories made of them. -/
namespace Sys2Proof.Machine

theorem Sparse.get_erase_same {α : Type} (d : Nat → α) (k : Nat) (m : Sparse α) : Sparse.get d (Sparse.erase k m) k = d k := by
  induction m with
  | nil => rfl
  | cons e m ih =>
    obtain ⟨j, v⟩ := e
    simp only [Sparse.erase]
    split
    · exact ih
    · simp only [Sparse.get, if_neg ‹_›]
      exact ih

theorem Sparse.get_erase_ne {α : Type} (d : Nat → α) {k k' : Nat} (h : k ≠ k') (m : Sparse α) :
    Sparse.get d (Sparse.erase k m) k' = Sparse.get d m k' := by
  induction m with
  | nil => rfl
  | cons e m ih =>
    obtain ⟨j, v⟩ := e
    simp only [Sparse.erase]
    split
    · subst_vars
      simp only [Sparse.get, if_neg h]
      exact ih
    · simp only [Sparse.get]
      split
      · rfl
      · exact ih

theorem Sparse.get_insert_ne {α : Type} (d : Nat → α) {k k' : Nat} (h : k ≠ k') (v : α) (m : Sparse α) :
    Sparse.get d (Sparse.insert k v m) k' = Sparse.get d m k' := by
  induction m with
  | nil => simp only [Sparse.insert, Sparse.get, if_neg h]
  | cons e m ih =>
    obtain ⟨j, w⟩ := e
    simp only [Sparse.insert]
    split
    · simp only [Sparse.get, if_neg h]
    · simp only [Sparse.get]
      split
      · rfl
      · exact ih

theorem Sparse.get_insert_same {α : Type} (d : Nat → α) (k : Nat) (v : α) (m : Sparse α) :
    Sparse.get d (Sparse.insert k v (Sparse.erase k m)) k = v := by
  induction m with
  | nil => simp [Sparse.erase, Sparse.insert, Sparse.get]
  | cons e m ih =>
    obtain ⟨j, w⟩ := e
    simp only [Sparse.erase]
    split
    · exact ih
    · simp only [Sparse.insert]
      split
      · simp [Sparse.get]
      · simp only [Sparse.get, if_neg ‹¬j = k›]
        exact ih

/-- A read after a write to the same index gives the value written. -/
theorem Sparse.get_set_same {α : Type} [DecidableEq α] (d : Nat → α) (m : Sparse α) (k : Nat) (v : α) :
    Sparse.get d (Sparse.set d m k v) k = v := by
  simp only [Sparse.set]
  split
  · rw [Sparse.get_erase_same]
    exact Eq.symm ‹_›
  · exact Sparse.get_insert_same d k v m

/-- A write leaves every other index alone. -/
theorem Sparse.get_set_ne {α : Type} [DecidableEq α] (d : Nat → α) (m : Sparse α) {k k' : Nat} (h : k ≠ k') (v : α) :
    Sparse.get d (Sparse.set d m k v) k' = Sparse.get d m k' := by
  simp only [Sparse.set]
  split
  · exact Sparse.get_erase_ne d h m
  · rw [Sparse.get_insert_ne d h, Sparse.get_erase_ne d h]

theorem Sparse.get_set {α : Type} [DecidableEq α] (d : Nat → α) (m : Sparse α) (k k' : Nat) (v : α) :
    Sparse.get d (Sparse.set d m k v) k' = if k = k' then v else Sparse.get d m k' := by
  split
  · subst_vars; exact Sparse.get_set_same d m _ v
  · exact Sparse.get_set_ne d m ‹_› v

theorem Sparse.all_erase {α : Type} {p : Nat × α → Bool} {m : Sparse α} (k : Nat) (h : m.all p = true) :
    (Sparse.erase k m).all p = true := by
  induction m with
  | nil => rfl
  | cons e m ih =>
    simp only [List.all_cons, Bool.and_eq_true] at h
    simp only [Sparse.erase]
    split
    · exact ih h.2
    · simp only [List.all_cons, Bool.and_eq_true]
      exact ⟨h.1, ih h.2⟩

theorem Sparse.erase_ne {α : Type} (k : Nat) (m : Sparse α) : (Sparse.erase k m).all (fun e => decide (e.1 ≠ k)) = true := by
  induction m with
  | nil => rfl
  | cons e m ih =>
    simp only [Sparse.erase]
    split
    · exact ih
    · simp only [List.all_cons, Bool.and_eq_true, decide_eq_true_eq]
      exact ⟨‹_›, ih⟩

theorem Sparse.wf_erase {α : Type} [DecidableEq α] (d : Nat → α) (k : Nat) {m : Sparse α} (h : Sparse.wf d m = true) :
    Sparse.wf d (Sparse.erase k m) = true := by
  induction m with
  | nil => rfl
  | cons e m ih =>
    obtain ⟨j, v⟩ := e
    simp only [Sparse.wf, Bool.and_eq_true] at h
    simp only [Sparse.erase]
    split
    · exact ih h.2
    · simp only [Sparse.wf, Bool.and_eq_true]
      exact ⟨⟨h.1.1, Sparse.all_erase k h.1.2⟩, ih h.2⟩

theorem Sparse.all_insert {α : Type} {p : Nat × α → Bool} {m : Sparse α} {k : Nat} {v : α} (hk : p (k, v) = true)
    (h : m.all p = true) : (Sparse.insert k v m).all p = true := by
  induction m with
  | nil => simpa [Sparse.insert] using hk
  | cons e m ih =>
    obtain ⟨j, w⟩ := e
    simp only [List.all_cons, Bool.and_eq_true] at h
    simp only [Sparse.insert]
    split
    · simp only [List.all_cons, Bool.and_eq_true]
      exact ⟨hk, h.1, h.2⟩
    · simp only [List.all_cons, Bool.and_eq_true]
      exact ⟨h.1, ih h.2⟩

theorem Sparse.wf_insert {α : Type} [DecidableEq α] (d : Nat → α) {k : Nat} {v : α} (hv : v ≠ d k) {m : Sparse α}
    (hk : m.all (fun e => decide (e.1 ≠ k)) = true) (h : Sparse.wf d m = true) : Sparse.wf d (Sparse.insert k v m) = true := by
  induction m with
  | nil => simp [Sparse.insert, Sparse.wf, hv]
  | cons e m ih =>
    obtain ⟨j, w⟩ := e
    simp only [Sparse.wf, Bool.and_eq_true] at h
    simp only [List.all_cons, Bool.and_eq_true, decide_eq_true_eq] at hk
    simp only [Sparse.insert]
    split
    · rename_i hlt
      have hall : m.all (fun e => decide (k < e.1)) = true := by
        rw [List.all_eq_true] at h ⊢
        intro x hx
        have := h.1.2 x hx
        simp only [decide_eq_true_eq] at this ⊢
        omega
      simp only [Sparse.wf, List.all_cons, Bool.and_eq_true, decide_eq_true_eq]
      exact ⟨⟨hv, hlt, hall⟩, ⟨by simpa using h.1.1, h.1.2⟩, h.2⟩
    · have hj : j < k := by omega
      simp only [Sparse.wf, Bool.and_eq_true]
      exact ⟨⟨h.1.1, Sparse.all_insert (by simpa using hj) h.1.2⟩, ih hk.2 h.2⟩

/-- A write keeps the canonical form. -/
theorem Sparse.wf_set {α : Type} [DecidableEq α] (d : Nat → α) {m : Sparse α} (k : Nat) (v : α) (h : Sparse.wf d m = true) :
    Sparse.wf d (Sparse.set d m k v) = true := by
  simp only [Sparse.set]
  split
  · exact Sparse.wf_erase d k h
  · exact Sparse.wf_insert d ‹_› (Sparse.erase_ne k m) (Sparse.wf_erase d k h)

theorem Sparse.all_filter {α : Type} {p q : Nat × α → Bool} {m : Sparse α} (h : m.all p = true) : (m.filter q).all p = true := by
  rw [List.all_eq_true] at h ⊢
  intro x hx
  exact h x (List.mem_filter.mp hx).1

/-- Taking entries away keeps the canonical form. -/
theorem Sparse.wf_filter {α : Type} [DecidableEq α] (d : Nat → α) (q : Nat × α → Bool) {m : Sparse α}
    (h : Sparse.wf d m = true) : Sparse.wf d (m.filter q) = true := by
  induction m with
  | nil => rfl
  | cons e m ih =>
    obtain ⟨j, v⟩ := e
    simp only [Sparse.wf, Bool.and_eq_true] at h
    simp only [List.filter_cons]
    split
    · simp only [Sparse.wf, Bool.and_eq_true]
      exact ⟨⟨h.1.1, Sparse.all_filter h.1.2⟩, ih h.2⟩
    · exact ih h.2

end Sys2Proof.Machine
end

