-- ==== Sys2Proof/Laws/Memory.lean ====
section
/-! SUPPORT. The memories: every operation on one keeps its canonical form, and reset has it; a byte reads as it was last
written. -/
namespace Sys2Proof.Machine
open Dev

theorem foldl_keeps {α β : Type} (P : α → Prop) (f : α → β → α) (hf : ∀ a b, P a → P (f a b)) (l : List β) :
    ∀ {a : α}, P a → P (l.foldl f a) := by
  induction l with
  | nil => intro a h; exact h
  | cons x l ih => intro a h; exact ih (hf a x h)

theorem memSet_wf {m : Sparse Byte} (a : Nat) (bs : List Byte) (h : Sparse.wf (fun _ => 0) m = true) :
    Sparse.wf (fun _ => 0) (memSet m a bs) = true :=
  foldl_keeps (fun m => Sparse.wf (fun _ => 0) m = true) _ (fun _ e hm => Sparse.wf_set _ (a + e.1) e.2 hm) _ h

theorem memZero_wf (d : Nat → Byte) {m : Sparse Byte} (a n : Nat) (h : Sparse.wf d m = true) :
    Sparse.wf d (memZero m a n) = true := Sparse.wf_filter d _ h

theorem flashPut_wf {d : Dev} (a : Nat) (bs : List Byte) (h : Sparse.wf (fun _ => 0xFF) d.eng.flash = true) :
    Sparse.wf (fun _ => 0xFF) (d.flashPut a bs).eng.flash = true :=
  foldl_keeps (fun m => Sparse.wf (fun _ => 0xFF) m = true) _ (fun _ e hm => Sparse.wf_set _ (a + e.1) e.2 hm) _ h

theorem halfErase_wf {d : Dev} (k h : Nat) (hw : Sparse.wf (fun _ => 0xFF) d.eng.flash = true) :
    Sparse.wf (fun _ => 0xFF) (d.halfErase k h).eng.flash = true := memZero_wf _ _ _ hw

theorem setBad_eng (d : Dev) (k : Nat) (b : Bool) :
    (d.setBad k b).eng = { d.eng with bad := (d.setBad k b).eng.bad } := rfl

/-- A store of a hart keeps every memory's canonical form (R79, R113). -/
theorem spcStore_wf {d : Dev} (h : Hart) (s : Spc) (o : Nat) (bs : List Byte) (hw : Memory.wf d = true) :
    Memory.wf (d.spcStore h s o bs) = true := by
  unfold Dev.spcStore
  have key : Memory.wf ((wordsOf o bs.length).foldl
      (fun d w => match d.badWord h s w with | some k => d.setBad k false | none => d) d) = true := by
    refine foldl_keeps (fun d => Memory.wf d = true) _ (fun e w he => ?_) _ hw
    split
    · exact he
    · exact he
  revert key
  generalize List.foldl _ d (wordsOf o bs.length) = e
  intro key
  simp only [Memory.wf, Bool.and_eq_true] at key
  obtain ⟨⟨⟨⟨⟨h1, h2⟩, h3⟩, h4⟩, h5⟩, h6⟩ := key
  split <;> simp only [Memory.wf, Bool.and_eq_true]
  · exact ⟨⟨⟨⟨⟨memSet_wf _ _ h1, h2⟩, h3⟩, h4⟩, h5⟩, h6⟩
  · exact ⟨⟨⟨⟨⟨h1, memSet_wf _ _ h2⟩, h3⟩, h4⟩, h5⟩, h6⟩
  · exact ⟨⟨⟨⟨⟨h1, h2⟩, h3⟩, memSet_wf _ _ h4⟩, h5⟩, h6⟩
  · exact ⟨⟨⟨⟨⟨h1, h2⟩, h3⟩, h4⟩, memSet_wf _ _ h5⟩, h6⟩
  · exact ⟨⟨⟨⟨⟨h1, h2⟩, h3⟩, h4⟩, h5⟩, h6⟩

theorem reset_memory_wf : Memory.wf State.reset.dev = true := by decide

theorem memSet_cons (m : Sparse Byte) (a : Nat) (b : Byte) (bs : List Byte) :
    memSet m a (b :: bs) = memSet (Sparse.set (fun _ => 0) m a b) (a + 1) bs := by
  simp only [memSet, List.length_cons, List.range_succ_eq_map, List.zip_cons_cons, List.foldl_cons, Nat.add_zero,
    List.zip_map_left, List.foldl_map, Prod.map_fst, Prod.map_snd, id_eq]
  congr 1
  funext m e
  congr 1
  omega

/-- Bytes outside those written read as before. -/
theorem memSet_outside (m : Sparse Byte) (a : Nat) (bs : List Byte) (k : Nat) (h : k < a ∨ a + bs.length ≤ k) :
    Sparse.get (fun _ => 0) (memSet m a bs) k = Sparse.get (fun _ => 0) m k := by
  induction bs generalizing m a with
  | nil => rfl
  | cons b bs ih =>
    simp only [List.length_cons] at h
    rw [memSet_cons, ih _ _ (by omega), Sparse.get_set_ne _ _ (by omega)]

/-- The bytes written read back. -/
theorem memSet_inside (m : Sparse Byte) (a : Nat) (bs : List Byte) (k : Nat) (h : k < bs.length) :
    Sparse.get (fun _ => 0) (memSet m a bs) (a + k) = bs.getD k 0 := by
  induction bs generalizing m a k with
  | nil => simp at h
  | cons b bs ih =>
    rw [memSet_cons]
    cases k with
    | zero => rw [memSet_outside _ _ _ _ (by omega), Nat.add_zero, Sparse.get_set_same]; rfl
    | succ k =>
      have : a + (k + 1) = a + 1 + k := by omega
      rw [this, ih _ _ _ (by simpa using h)]
      rfl

end Sys2Proof.Machine
end

