-- ==== Sys2Proof/Laws/Registers.lean ====
section
/-! SUPPORT. Registers, fields and counters: reading after writing, and what a write leaves alone. -/
namespace Sys2Proof.Machine

theorem Reg.ctorIdx_lt (r : Reg) : r.ctorIdx < 1024 := by cases r <;> decide

theorem Reg.ctorIdx_inj {a b : Reg} (h : a.ctorIdx = b.ctorIdx) : a = b := by
  have e := congrArg Reg.ofNat h
  rwa [Reg.ofNat_ctorIdx, Reg.ofNat_ctorIdx] at e

theorem Ctr.ctorIdx_lt (c : Ctr) : c.ctorIdx < 1024 := by cases c <;> decide

theorem Ctr.ctorIdx_inj {a b : Ctr} (h : a.ctorIdx = b.ctorIdx) : a = b := by
  have e := congrArg Ctr.ofNat h
  rwa [Ctr.ofNat_ctorIdx, Ctr.ofNat_ctorIdx] at e

/-- Different register instances have different places. -/
theorem regKey_inj {r r' : Reg} {i i' : Nat} (h : regKey r i = regKey r' i') : r = r' ∧ i = i' := by
  have a := Reg.ctorIdx_lt r
  have b := Reg.ctorIdx_lt r'
  simp only [regKey] at h
  exact ⟨Reg.ctorIdx_inj (by omega), by omega⟩

theorem ctrKey_inj {c c' : Ctr} {i i' : Nat} (h : ctrKey c i = ctrKey c' i') : c = c' ∧ i = i' := by
  have a := Ctr.ctorIdx_lt c
  have b := Ctr.ctorIdx_lt c'
  simp only [ctrKey] at h
  exact ⟨Ctr.ctorIdx_inj (by omega), by omega⟩

namespace Dev

theorem rd_wr_same (d : Dev) (r : Reg) (i : Nat) (v : Word) : (d.wr r i v).rd r i = v := Sparse.get_set_same _ _ _ _

theorem rd_wr_ne (d : Dev) {r r' : Reg} {i i' : Nat} (h : r ≠ r' ∨ i ≠ i') (v : Word) : (d.wr r i v).rd r' i' = d.rd r' i' :=
  Sparse.get_set_ne _ _ (fun e => by rcases regKey_inj e with ⟨rfl, rfl⟩; simp at h) _

theorem rd_wr (d : Dev) (r r' : Reg) (i i' : Nat) (v : Word) :
    (d.wr r i v).rd r' i' = if r = r' ∧ i = i' then v else d.rd r' i' := by
  split
  · obtain ⟨rfl, rfl⟩ := ‹_ ∧ _›; exact d.rd_wr_same r i v
  · exact d.rd_wr_ne (by simp only [not_and_or] at *; assumption) v

theorem rd_sf_ne (d : Dev) {F : RField} {r : Reg} {i i' : Nat} (h : F.reg ≠ r ∨ i ≠ i') (v : Nat) :
    (d.sf F i v).rd r i' = d.rd r i' := d.rd_wr_ne h _

/-- A field of another register, or of another instance, is left alone. -/
theorem f_sf_ne (d : Dev) {F G : RField} {i i' : Nat} (h : F.reg ≠ G.reg ∨ i ≠ i') (v : Nat) :
    (d.sf F i v).f G i' = d.f G i' := by simp only [f, d.rd_sf_ne h]

end Dev

theorem setBits_lt {hi lo v x n : Nat} (h : lo ≤ hi) (hn : hi < n) (hx : x < 2 ^ n) : setBits hi lo v x < 2 ^ n := by
  simp only [setBits]
  have e1 : 2 ^ (hi + 1) = 2 ^ (hi + 1 - lo) * 2 ^ lo := by rw [← Nat.pow_add]; congr 1; omega
  have e2 : 2 ^ n = 2 ^ (n - (hi + 1)) * 2 ^ (hi + 1) := by rw [← Nat.pow_add]; congr 1; omega
  have p1 : x % 2 ^ lo < 2 ^ lo := Nat.mod_lt _ (by positivity)
  have p2 : v % 2 ^ (hi + 1 - lo) + 1 ≤ 2 ^ (hi + 1 - lo) := Nat.mod_lt _ (by positivity)
  have p3 : x / 2 ^ (hi + 1) + 1 ≤ 2 ^ (n - (hi + 1)) := by
    rw [e2] at hx
    exact Nat.div_lt_of_lt_mul (by rwa [Nat.mul_comm])
  have q2 : v % 2 ^ (hi + 1 - lo) * 2 ^ lo + 2 ^ lo ≤ 2 ^ (hi + 1) := by
    rw [e1]
    calc v % 2 ^ (hi + 1 - lo) * 2 ^ lo + 2 ^ lo = (v % 2 ^ (hi + 1 - lo) + 1) * 2 ^ lo := by ring
      _ ≤ 2 ^ (hi + 1 - lo) * 2 ^ lo := Nat.mul_le_mul_right _ p2
  have q3 : x / 2 ^ (hi + 1) * 2 ^ (hi + 1) + 2 ^ (hi + 1) ≤ 2 ^ n := by
    rw [e2]
    calc x / 2 ^ (hi + 1) * 2 ^ (hi + 1) + 2 ^ (hi + 1) = (x / 2 ^ (hi + 1) + 1) * 2 ^ (hi + 1) := by ring
      _ ≤ 2 ^ (n - (hi + 1)) * 2 ^ (hi + 1) := Nat.mul_le_mul_right _ p3
  omega

/-- The bits written read back. -/
theorem bits_setBits {hi lo v x : Nat} (h : lo ≤ hi) : bits hi lo (setBits hi lo v x) = v % 2 ^ (hi + 1 - lo) := by
  simp only [bits, setBits]
  have e1 : 2 ^ (hi + 1) = 2 ^ lo * 2 ^ (hi + 1 - lo) := by rw [← Nat.pow_add]; congr 1; omega
  have p1 : x % 2 ^ lo < 2 ^ lo := Nat.mod_lt _ (by positivity)
  have e2 : x % 2 ^ lo + v % 2 ^ (hi + 1 - lo) * 2 ^ lo + x / 2 ^ (hi + 1) * 2 ^ (hi + 1)
      = x % 2 ^ lo + 2 ^ lo * (v % 2 ^ (hi + 1 - lo) + 2 ^ (hi + 1 - lo) * (x / 2 ^ (hi + 1))) := by rw [e1]; ring
  rw [e2, Nat.add_mul_div_left _ _ (by positivity), Nat.div_eq_of_lt p1, Nat.zero_add, Nat.add_mul_mod_self_left, Nat.mod_mod]

/-- Bits above and below those written are left alone. -/
theorem bits_setBits_above {hi lo v x hi' lo' : Nat} (h : lo ≤ hi) (ha : hi < lo') :
    bits hi' lo' (setBits hi lo v x) = bits hi' lo' x := by
  have e1 : 2 ^ (hi + 1) = 2 ^ lo * 2 ^ (hi + 1 - lo) := by rw [← Nat.pow_add]; congr 1; omega
  have e3 : 2 ^ lo' = 2 ^ (hi + 1) * 2 ^ (lo' - (hi + 1)) := by rw [← Nat.pow_add]; congr 1; omega
  have key : setBits hi lo v x / 2 ^ (hi + 1) = x / 2 ^ (hi + 1) := by
    simp only [setBits]
    have p1 : x % 2 ^ lo < 2 ^ lo := Nat.mod_lt _ (by positivity)
    have p2 : v % 2 ^ (hi + 1 - lo) + 1 ≤ 2 ^ (hi + 1 - lo) := Nat.mod_lt _ (by positivity)
    have q : x % 2 ^ lo + v % 2 ^ (hi + 1 - lo) * 2 ^ lo < 2 ^ (hi + 1) := by
      rw [e1]
      calc x % 2 ^ lo + v % 2 ^ (hi + 1 - lo) * 2 ^ lo < 2 ^ lo + v % 2 ^ (hi + 1 - lo) * 2 ^ lo := by omega
        _ = 2 ^ lo * (v % 2 ^ (hi + 1 - lo) + 1) := by ring
        _ ≤ 2 ^ lo * 2 ^ (hi + 1 - lo) := Nat.mul_le_mul_left _ p2
    rw [Nat.add_mul_div_right _ _ (by positivity), Nat.div_eq_of_lt q, Nat.zero_add]
  simp only [bits, e3, ← Nat.div_div_eq_div_mul, key]

theorem bits_setBits_below {hi lo v x hi' lo' : Nat} (h : lo ≤ hi) (hl : lo' ≤ hi') (hb : hi' < lo) :
    bits hi' lo' (setBits hi lo v x) = bits hi' lo' x := by
  have e1 : 2 ^ (hi + 1) = 2 ^ lo * 2 ^ (hi + 1 - lo) := by rw [← Nat.pow_add]; congr 1; omega
  have key : setBits hi lo v x % 2 ^ lo = x % 2 ^ lo := by
    simp only [setBits, e1]
    rw [show x % 2 ^ lo + v % 2 ^ (hi + 1 - lo) * 2 ^ lo + x / (2 ^ lo * 2 ^ (hi + 1 - lo)) * (2 ^ lo * 2 ^ (hi + 1 - lo))
      = x % 2 ^ lo + 2 ^ lo * (v % 2 ^ (hi + 1 - lo) + x / (2 ^ lo * 2 ^ (hi + 1 - lo)) * 2 ^ (hi + 1 - lo)) by ring,
      Nat.add_mul_mod_self_left, Nat.mod_mod]
  have cut : ∀ y : Nat, y / 2 ^ lo' % 2 ^ (hi' + 1 - lo') = y % 2 ^ lo / 2 ^ lo' % 2 ^ (hi' + 1 - lo') := by
    intro y
    have e3 : 2 ^ lo = 2 ^ lo' * 2 ^ (lo - lo') := by rw [← Nat.pow_add]; congr 1; omega
    rw [e3, Nat.mod_mul_right_div_self]
    exact (Nat.mod_mod_of_dvd _ (Nat.pow_dvd_pow 2 (by omega))).symm
  simp only [bits]
  rw [cut, key, ← cut]

namespace Dev

/-- A field that fits in its word reads back what was stored, modulo its width. -/
theorem f_sf_same (d : Dev) {F : RField} (h : F.lo ≤ F.hi) (h' : F.hi < 32) (i v : Nat) :
    (d.sf F i v).f F i = v % 2 ^ (F.hi + 1 - F.lo) := by
  simp only [f, sf, rd_wr_same, BitVec.toNat_ofNat]
  rw [Nat.mod_eq_of_lt (setBits_lt h h' (d.rd F.reg i).isLt), bits_setBits h]

/-- Another field of the same register is left alone. -/
theorem f_sf_apart (d : Dev) {F G : RField} (hF : F.lo ≤ F.hi) (hF' : F.hi < 32) (hG : G.lo ≤ G.hi)
    (h : F.hi < G.lo ∨ G.hi < F.lo) (i v : Nat) : (d.sf F i v).f G i = d.f G i := by
  by_cases hr : F.reg = G.reg
  · simp only [f, sf]
    rw [← hr, rd_wr_same, BitVec.toNat_ofNat, Nat.mod_eq_of_lt (setBits_lt hF hF' (d.rd F.reg i).isLt)]
    rcases h with h | h
    · exact bits_setBits_above hF h
    · exact bits_setBits_below hF hG h
  · exact d.f_sf_ne (.inl hr) v

/-- A counter reads what was stored. -/
theorem ctr_setCtr_same (d : Dev) (c : Ctr) (i : Nat) (v : Cnt) : (d.setCtr c i v).ctr c i = v := Sparse.get_set_same _ _ _ _

theorem ctr_setCtr_ne (d : Dev) {c c' : Ctr} {i i' : Nat} (h : c ≠ c' ∨ i ≠ i') (v : Cnt) :
    (d.setCtr c i v).ctr c' i' = d.ctr c' i' :=
  Sparse.get_set_ne _ _ (fun e => by rcases ctrKey_inj e with ⟨rfl, rfl⟩; simp at h) _

/-- Counting adds one, modulo 2^48. -/
theorem ctr_inc_same (d : Dev) (c : Ctr) (i : Nat) : (d.inc c i).ctr c i = d.ctr c i + 1 := by
  simp only [inc, incBy, ctr_setCtr_same]
  rfl

theorem ctr_inc_ne (d : Dev) {c c' : Ctr} {i i' : Nat} (h : c ≠ c' ∨ i ≠ i') : (d.inc c i).ctr c' i' = d.ctr c' i' :=
  d.ctr_setCtr_ne h _

end Dev

end Sys2Proof.Machine
end

