-- ==== Sys2Proof/Laws/State.lean ====
section
/-! SUPPORT. One lemma for each field of the device and each primitive update: the update leaves the field alone. -/
namespace Sys2Proof.Machine
namespace Dev

@[simp] theorem wr_ctrs (d : Dev) (r : Reg) (i : Nat) (v : Word) : (d.wr r i v).ctrs = d.ctrs := by simp only [wr]
@[simp] theorem wr_snaps (d : Dev) (r : Reg) (i : Nat) (v : Word) : (d.wr r i v).snaps = d.snaps := by simp only [wr]
@[simp] theorem wr_raw (d : Dev) (r : Reg) (i : Nat) (v : Word) : (d.wr r i v).raw = d.raw := by simp only [wr]
@[simp] theorem wr_free (d : Dev) (r : Reg) (i : Nat) (v : Word) : (d.wr r i v).free = d.free := by simp only [wr]
@[simp] theorem wr_ep (d : Dev) (r : Reg) (i : Nat) (v : Word) : (d.wr r i v).ep = d.ep := by simp only [wr]
@[simp] theorem wr_ops (d : Dev) (r : Reg) (i : Nat) (v : Word) : (d.wr r i v).ops = d.ops := by simp only [wr]
@[simp] theorem wr_pa (d : Dev) (r : Reg) (i : Nat) (v : Word) : (d.wr r i v).pa = d.pa := by simp only [wr]
@[simp] theorem wr_paNext (d : Dev) (r : Reg) (i : Nat) (v : Word) : (d.wr r i v).paNext = d.paNext := by simp only [wr]
@[simp] theorem wr_eng (d : Dev) (r : Reg) (i : Nat) (v : Word) : (d.wr r i v).eng = d.eng := by simp only [wr]
@[simp] theorem wr_path (d : Dev) (r : Reg) (i : Nat) (v : Word) : (d.wr r i v).path = d.path := by simp only [wr]
@[simp] theorem wr_tab (d : Dev) (r : Reg) (i : Nat) (v : Word) : (d.wr r i v).tab = d.tab := by simp only [wr]
@[simp] theorem wr_buf (d : Dev) (r : Reg) (i : Nat) (v : Word) : (d.wr r i v).buf = d.buf := by simp only [wr]
@[simp] theorem wr_host (d : Dev) (r : Reg) (i : Nat) (v : Word) : (d.wr r i v).host = d.host := by simp only [wr]
@[simp] theorem wr_load (d : Dev) (r : Reg) (i : Nat) (v : Word) : (d.wr r i v).load = d.load := by simp only [wr]
@[simp] theorem wr_safe (d : Dev) (r : Reg) (i : Nat) (v : Word) : (d.wr r i v).safe = d.safe := by simp only [wr]
@[simp] theorem wr_time (d : Dev) (r : Reg) (i : Nat) (v : Word) : (d.wr r i v).time = d.time := by simp only [wr]
@[simp] theorem wr_sleep (d : Dev) (r : Reg) (i : Nat) (v : Word) : (d.wr r i v).sleep = d.sleep := by simp only [wr]
@[simp] theorem wr_bus (d : Dev) (r : Reg) (i : Nat) (v : Word) : (d.wr r i v).bus = d.bus := by simp only [wr]
@[simp] theorem wr_cx (d : Dev) (r : Reg) (i : Nat) (v : Word) : (d.wr r i v).cx = d.cx := by simp only [wr]
@[simp] theorem wr_mg (d : Dev) (r : Reg) (i : Nat) (v : Word) : (d.wr r i v).mg = d.mg := by simp only [wr]
@[simp] theorem wr_outs (d : Dev) (r : Reg) (i : Nat) (v : Word) : (d.wr r i v).outs = d.outs := by simp only [wr]

@[simp] theorem sf_ctrs (d : Dev) (F : RField) (i v : Nat) : (d.sf F i v).ctrs = d.ctrs := by simp only [sf, wr_ctrs]
@[simp] theorem sf_snaps (d : Dev) (F : RField) (i v : Nat) : (d.sf F i v).snaps = d.snaps := by simp only [sf, wr_snaps]
@[simp] theorem sf_raw (d : Dev) (F : RField) (i v : Nat) : (d.sf F i v).raw = d.raw := by simp only [sf, wr_raw]
@[simp] theorem sf_free (d : Dev) (F : RField) (i v : Nat) : (d.sf F i v).free = d.free := by simp only [sf, wr_free]
@[simp] theorem sf_ep (d : Dev) (F : RField) (i v : Nat) : (d.sf F i v).ep = d.ep := by simp only [sf, wr_ep]
@[simp] theorem sf_ops (d : Dev) (F : RField) (i v : Nat) : (d.sf F i v).ops = d.ops := by simp only [sf, wr_ops]
@[simp] theorem sf_pa (d : Dev) (F : RField) (i v : Nat) : (d.sf F i v).pa = d.pa := by simp only [sf, wr_pa]
@[simp] theorem sf_paNext (d : Dev) (F : RField) (i v : Nat) : (d.sf F i v).paNext = d.paNext := by simp only [sf, wr_paNext]
@[simp] theorem sf_eng (d : Dev) (F : RField) (i v : Nat) : (d.sf F i v).eng = d.eng := by simp only [sf, wr_eng]
@[simp] theorem sf_path (d : Dev) (F : RField) (i v : Nat) : (d.sf F i v).path = d.path := by simp only [sf, wr_path]
@[simp] theorem sf_tab (d : Dev) (F : RField) (i v : Nat) : (d.sf F i v).tab = d.tab := by simp only [sf, wr_tab]
@[simp] theorem sf_buf (d : Dev) (F : RField) (i v : Nat) : (d.sf F i v).buf = d.buf := by simp only [sf, wr_buf]
@[simp] theorem sf_host (d : Dev) (F : RField) (i v : Nat) : (d.sf F i v).host = d.host := by simp only [sf, wr_host]
@[simp] theorem sf_load (d : Dev) (F : RField) (i v : Nat) : (d.sf F i v).load = d.load := by simp only [sf, wr_load]
@[simp] theorem sf_safe (d : Dev) (F : RField) (i v : Nat) : (d.sf F i v).safe = d.safe := by simp only [sf, wr_safe]
@[simp] theorem sf_time (d : Dev) (F : RField) (i v : Nat) : (d.sf F i v).time = d.time := by simp only [sf, wr_time]
@[simp] theorem sf_sleep (d : Dev) (F : RField) (i v : Nat) : (d.sf F i v).sleep = d.sleep := by simp only [sf, wr_sleep]
@[simp] theorem sf_bus (d : Dev) (F : RField) (i v : Nat) : (d.sf F i v).bus = d.bus := by simp only [sf, wr_bus]
@[simp] theorem sf_cx (d : Dev) (F : RField) (i v : Nat) : (d.sf F i v).cx = d.cx := by simp only [sf, wr_cx]
@[simp] theorem sf_mg (d : Dev) (F : RField) (i v : Nat) : (d.sf F i v).mg = d.mg := by simp only [sf, wr_mg]
@[simp] theorem sf_outs (d : Dev) (F : RField) (i v : Nat) : (d.sf F i v).outs = d.outs := by simp only [sf, wr_outs]

@[simp] theorem setCtr_regs (d : Dev) (c : Ctr) (i : Nat) (v : Cnt) : (d.setCtr c i v).regs = d.regs := by simp only [setCtr]
@[simp] theorem setCtr_snaps (d : Dev) (c : Ctr) (i : Nat) (v : Cnt) : (d.setCtr c i v).snaps = d.snaps := by simp only [setCtr]
@[simp] theorem setCtr_raw (d : Dev) (c : Ctr) (i : Nat) (v : Cnt) : (d.setCtr c i v).raw = d.raw := by simp only [setCtr]
@[simp] theorem setCtr_free (d : Dev) (c : Ctr) (i : Nat) (v : Cnt) : (d.setCtr c i v).free = d.free := by simp only [setCtr]
@[simp] theorem setCtr_ep (d : Dev) (c : Ctr) (i : Nat) (v : Cnt) : (d.setCtr c i v).ep = d.ep := by simp only [setCtr]
@[simp] theorem setCtr_ops (d : Dev) (c : Ctr) (i : Nat) (v : Cnt) : (d.setCtr c i v).ops = d.ops := by simp only [setCtr]
@[simp] theorem setCtr_pa (d : Dev) (c : Ctr) (i : Nat) (v : Cnt) : (d.setCtr c i v).pa = d.pa := by simp only [setCtr]
@[simp] theorem setCtr_paNext (d : Dev) (c : Ctr) (i : Nat) (v : Cnt) : (d.setCtr c i v).paNext = d.paNext := by simp only [setCtr]
@[simp] theorem setCtr_eng (d : Dev) (c : Ctr) (i : Nat) (v : Cnt) : (d.setCtr c i v).eng = d.eng := by simp only [setCtr]
@[simp] theorem setCtr_path (d : Dev) (c : Ctr) (i : Nat) (v : Cnt) : (d.setCtr c i v).path = d.path := by simp only [setCtr]
@[simp] theorem setCtr_tab (d : Dev) (c : Ctr) (i : Nat) (v : Cnt) : (d.setCtr c i v).tab = d.tab := by simp only [setCtr]
@[simp] theorem setCtr_buf (d : Dev) (c : Ctr) (i : Nat) (v : Cnt) : (d.setCtr c i v).buf = d.buf := by simp only [setCtr]
@[simp] theorem setCtr_host (d : Dev) (c : Ctr) (i : Nat) (v : Cnt) : (d.setCtr c i v).host = d.host := by simp only [setCtr]
@[simp] theorem setCtr_load (d : Dev) (c : Ctr) (i : Nat) (v : Cnt) : (d.setCtr c i v).load = d.load := by simp only [setCtr]
@[simp] theorem setCtr_safe (d : Dev) (c : Ctr) (i : Nat) (v : Cnt) : (d.setCtr c i v).safe = d.safe := by simp only [setCtr]
@[simp] theorem setCtr_time (d : Dev) (c : Ctr) (i : Nat) (v : Cnt) : (d.setCtr c i v).time = d.time := by simp only [setCtr]
@[simp] theorem setCtr_sleep (d : Dev) (c : Ctr) (i : Nat) (v : Cnt) : (d.setCtr c i v).sleep = d.sleep := by simp only [setCtr]
@[simp] theorem setCtr_bus (d : Dev) (c : Ctr) (i : Nat) (v : Cnt) : (d.setCtr c i v).bus = d.bus := by simp only [setCtr]
@[simp] theorem setCtr_cx (d : Dev) (c : Ctr) (i : Nat) (v : Cnt) : (d.setCtr c i v).cx = d.cx := by simp only [setCtr]
@[simp] theorem setCtr_mg (d : Dev) (c : Ctr) (i : Nat) (v : Cnt) : (d.setCtr c i v).mg = d.mg := by simp only [setCtr]
@[simp] theorem setCtr_outs (d : Dev) (c : Ctr) (i : Nat) (v : Cnt) : (d.setCtr c i v).outs = d.outs := by simp only [setCtr]

@[simp] theorem incBy_regs (d : Dev) (c : Ctr) (i n : Nat) : (d.incBy c i n).regs = d.regs := by simp only [incBy, setCtr_regs]
@[simp] theorem incBy_snaps (d : Dev) (c : Ctr) (i n : Nat) : (d.incBy c i n).snaps = d.snaps := by simp only [incBy, setCtr_snaps]
@[simp] theorem incBy_raw (d : Dev) (c : Ctr) (i n : Nat) : (d.incBy c i n).raw = d.raw := by simp only [incBy, setCtr_raw]
@[simp] theorem incBy_free (d : Dev) (c : Ctr) (i n : Nat) : (d.incBy c i n).free = d.free := by simp only [incBy, setCtr_free]
@[simp] theorem incBy_ep (d : Dev) (c : Ctr) (i n : Nat) : (d.incBy c i n).ep = d.ep := by simp only [incBy, setCtr_ep]
@[simp] theorem incBy_ops (d : Dev) (c : Ctr) (i n : Nat) : (d.incBy c i n).ops = d.ops := by simp only [incBy, setCtr_ops]
@[simp] theorem incBy_pa (d : Dev) (c : Ctr) (i n : Nat) : (d.incBy c i n).pa = d.pa := by simp only [incBy, setCtr_pa]
@[simp] theorem incBy_paNext (d : Dev) (c : Ctr) (i n : Nat) : (d.incBy c i n).paNext = d.paNext := by simp only [incBy, setCtr_paNext]
@[simp] theorem incBy_eng (d : Dev) (c : Ctr) (i n : Nat) : (d.incBy c i n).eng = d.eng := by simp only [incBy, setCtr_eng]
@[simp] theorem incBy_path (d : Dev) (c : Ctr) (i n : Nat) : (d.incBy c i n).path = d.path := by simp only [incBy, setCtr_path]
@[simp] theorem incBy_tab (d : Dev) (c : Ctr) (i n : Nat) : (d.incBy c i n).tab = d.tab := by simp only [incBy, setCtr_tab]
@[simp] theorem incBy_buf (d : Dev) (c : Ctr) (i n : Nat) : (d.incBy c i n).buf = d.buf := by simp only [incBy, setCtr_buf]
@[simp] theorem incBy_host (d : Dev) (c : Ctr) (i n : Nat) : (d.incBy c i n).host = d.host := by simp only [incBy, setCtr_host]
@[simp] theorem incBy_load (d : Dev) (c : Ctr) (i n : Nat) : (d.incBy c i n).load = d.load := by simp only [incBy, setCtr_load]
@[simp] theorem incBy_safe (d : Dev) (c : Ctr) (i n : Nat) : (d.incBy c i n).safe = d.safe := by simp only [incBy, setCtr_safe]
@[simp] theorem incBy_time (d : Dev) (c : Ctr) (i n : Nat) : (d.incBy c i n).time = d.time := by simp only [incBy, setCtr_time]
@[simp] theorem incBy_sleep (d : Dev) (c : Ctr) (i n : Nat) : (d.incBy c i n).sleep = d.sleep := by simp only [incBy, setCtr_sleep]
@[simp] theorem incBy_bus (d : Dev) (c : Ctr) (i n : Nat) : (d.incBy c i n).bus = d.bus := by simp only [incBy, setCtr_bus]
@[simp] theorem incBy_cx (d : Dev) (c : Ctr) (i n : Nat) : (d.incBy c i n).cx = d.cx := by simp only [incBy, setCtr_cx]
@[simp] theorem incBy_mg (d : Dev) (c : Ctr) (i n : Nat) : (d.incBy c i n).mg = d.mg := by simp only [incBy, setCtr_mg]
@[simp] theorem incBy_outs (d : Dev) (c : Ctr) (i n : Nat) : (d.incBy c i n).outs = d.outs := by simp only [incBy, setCtr_outs]

@[simp] theorem inc_regs (d : Dev) (c : Ctr) (i : Nat) : (d.inc c i).regs = d.regs := by simp only [inc, incBy_regs]
@[simp] theorem inc_snaps (d : Dev) (c : Ctr) (i : Nat) : (d.inc c i).snaps = d.snaps := by simp only [inc, incBy_snaps]
@[simp] theorem inc_raw (d : Dev) (c : Ctr) (i : Nat) : (d.inc c i).raw = d.raw := by simp only [inc, incBy_raw]
@[simp] theorem inc_free (d : Dev) (c : Ctr) (i : Nat) : (d.inc c i).free = d.free := by simp only [inc, incBy_free]
@[simp] theorem inc_ep (d : Dev) (c : Ctr) (i : Nat) : (d.inc c i).ep = d.ep := by simp only [inc, incBy_ep]
@[simp] theorem inc_ops (d : Dev) (c : Ctr) (i : Nat) : (d.inc c i).ops = d.ops := by simp only [inc, incBy_ops]
@[simp] theorem inc_pa (d : Dev) (c : Ctr) (i : Nat) : (d.inc c i).pa = d.pa := by simp only [inc, incBy_pa]
@[simp] theorem inc_paNext (d : Dev) (c : Ctr) (i : Nat) : (d.inc c i).paNext = d.paNext := by simp only [inc, incBy_paNext]
@[simp] theorem inc_eng (d : Dev) (c : Ctr) (i : Nat) : (d.inc c i).eng = d.eng := by simp only [inc, incBy_eng]
@[simp] theorem inc_path (d : Dev) (c : Ctr) (i : Nat) : (d.inc c i).path = d.path := by simp only [inc, incBy_path]
@[simp] theorem inc_tab (d : Dev) (c : Ctr) (i : Nat) : (d.inc c i).tab = d.tab := by simp only [inc, incBy_tab]
@[simp] theorem inc_buf (d : Dev) (c : Ctr) (i : Nat) : (d.inc c i).buf = d.buf := by simp only [inc, incBy_buf]
@[simp] theorem inc_host (d : Dev) (c : Ctr) (i : Nat) : (d.inc c i).host = d.host := by simp only [inc, incBy_host]
@[simp] theorem inc_load (d : Dev) (c : Ctr) (i : Nat) : (d.inc c i).load = d.load := by simp only [inc, incBy_load]
@[simp] theorem inc_safe (d : Dev) (c : Ctr) (i : Nat) : (d.inc c i).safe = d.safe := by simp only [inc, incBy_safe]
@[simp] theorem inc_time (d : Dev) (c : Ctr) (i : Nat) : (d.inc c i).time = d.time := by simp only [inc, incBy_time]
@[simp] theorem inc_sleep (d : Dev) (c : Ctr) (i : Nat) : (d.inc c i).sleep = d.sleep := by simp only [inc, incBy_sleep]
@[simp] theorem inc_bus (d : Dev) (c : Ctr) (i : Nat) : (d.inc c i).bus = d.bus := by simp only [inc, incBy_bus]
@[simp] theorem inc_cx (d : Dev) (c : Ctr) (i : Nat) : (d.inc c i).cx = d.cx := by simp only [inc, incBy_cx]
@[simp] theorem inc_mg (d : Dev) (c : Ctr) (i : Nat) : (d.inc c i).mg = d.mg := by simp only [inc, incBy_mg]
@[simp] theorem inc_outs (d : Dev) (c : Ctr) (i : Nat) : (d.inc c i).outs = d.outs := by simp only [inc, incBy_outs]

@[simp] theorem rejWr_regs (d : Dev) (u : Nat) : (d.rejWr u).regs = d.regs := by simp only [rejWr, inc_regs]
@[simp] theorem rejWr_snaps (d : Dev) (u : Nat) : (d.rejWr u).snaps = d.snaps := by simp only [rejWr, inc_snaps]
@[simp] theorem rejWr_raw (d : Dev) (u : Nat) : (d.rejWr u).raw = d.raw := by simp only [rejWr, inc_raw]
@[simp] theorem rejWr_free (d : Dev) (u : Nat) : (d.rejWr u).free = d.free := by simp only [rejWr, inc_free]
@[simp] theorem rejWr_ep (d : Dev) (u : Nat) : (d.rejWr u).ep = d.ep := by simp only [rejWr, inc_ep]
@[simp] theorem rejWr_ops (d : Dev) (u : Nat) : (d.rejWr u).ops = d.ops := by simp only [rejWr, inc_ops]
@[simp] theorem rejWr_pa (d : Dev) (u : Nat) : (d.rejWr u).pa = d.pa := by simp only [rejWr, inc_pa]
@[simp] theorem rejWr_paNext (d : Dev) (u : Nat) : (d.rejWr u).paNext = d.paNext := by simp only [rejWr, inc_paNext]
@[simp] theorem rejWr_eng (d : Dev) (u : Nat) : (d.rejWr u).eng = d.eng := by simp only [rejWr, inc_eng]
@[simp] theorem rejWr_path (d : Dev) (u : Nat) : (d.rejWr u).path = d.path := by simp only [rejWr, inc_path]
@[simp] theorem rejWr_tab (d : Dev) (u : Nat) : (d.rejWr u).tab = d.tab := by simp only [rejWr, inc_tab]
@[simp] theorem rejWr_buf (d : Dev) (u : Nat) : (d.rejWr u).buf = d.buf := by simp only [rejWr, inc_buf]
@[simp] theorem rejWr_host (d : Dev) (u : Nat) : (d.rejWr u).host = d.host := by simp only [rejWr, inc_host]
@[simp] theorem rejWr_load (d : Dev) (u : Nat) : (d.rejWr u).load = d.load := by simp only [rejWr, inc_load]
@[simp] theorem rejWr_safe (d : Dev) (u : Nat) : (d.rejWr u).safe = d.safe := by simp only [rejWr, inc_safe]
@[simp] theorem rejWr_time (d : Dev) (u : Nat) : (d.rejWr u).time = d.time := by simp only [rejWr, inc_time]
@[simp] theorem rejWr_sleep (d : Dev) (u : Nat) : (d.rejWr u).sleep = d.sleep := by simp only [rejWr, inc_sleep]
@[simp] theorem rejWr_bus (d : Dev) (u : Nat) : (d.rejWr u).bus = d.bus := by simp only [rejWr, inc_bus]
@[simp] theorem rejWr_cx (d : Dev) (u : Nat) : (d.rejWr u).cx = d.cx := by simp only [rejWr, inc_cx]
@[simp] theorem rejWr_mg (d : Dev) (u : Nat) : (d.rejWr u).mg = d.mg := by simp only [rejWr, inc_mg]
@[simp] theorem rejWr_outs (d : Dev) (u : Nat) : (d.rejWr u).outs = d.outs := by simp only [rejWr, inc_outs]

@[simp] theorem refuse_regs (d : Dev) (u : Nat) : (d.refuse u).regs = d.regs := by simp only [refuse, inc_regs]
@[simp] theorem refuse_snaps (d : Dev) (u : Nat) : (d.refuse u).snaps = d.snaps := by simp only [refuse, inc_snaps]
@[simp] theorem refuse_raw (d : Dev) (u : Nat) : (d.refuse u).raw = d.raw := by simp only [refuse, inc_raw]
@[simp] theorem refuse_free (d : Dev) (u : Nat) : (d.refuse u).free = d.free := by simp only [refuse, inc_free]
@[simp] theorem refuse_ep (d : Dev) (u : Nat) : (d.refuse u).ep = d.ep := by simp only [refuse, inc_ep]
@[simp] theorem refuse_ops (d : Dev) (u : Nat) : (d.refuse u).ops = d.ops := by simp only [refuse, inc_ops]
@[simp] theorem refuse_pa (d : Dev) (u : Nat) : (d.refuse u).pa = d.pa := by simp only [refuse, inc_pa]
@[simp] theorem refuse_paNext (d : Dev) (u : Nat) : (d.refuse u).paNext = d.paNext := by simp only [refuse, inc_paNext]
@[simp] theorem refuse_eng (d : Dev) (u : Nat) : (d.refuse u).eng = d.eng := by simp only [refuse, inc_eng]
@[simp] theorem refuse_path (d : Dev) (u : Nat) : (d.refuse u).path = d.path := by simp only [refuse, inc_path]
@[simp] theorem refuse_tab (d : Dev) (u : Nat) : (d.refuse u).tab = d.tab := by simp only [refuse, inc_tab]
@[simp] theorem refuse_buf (d : Dev) (u : Nat) : (d.refuse u).buf = d.buf := by simp only [refuse, inc_buf]
@[simp] theorem refuse_host (d : Dev) (u : Nat) : (d.refuse u).host = d.host := by simp only [refuse, inc_host]
@[simp] theorem refuse_load (d : Dev) (u : Nat) : (d.refuse u).load = d.load := by simp only [refuse, inc_load]
@[simp] theorem refuse_safe (d : Dev) (u : Nat) : (d.refuse u).safe = d.safe := by simp only [refuse, inc_safe]
@[simp] theorem refuse_time (d : Dev) (u : Nat) : (d.refuse u).time = d.time := by simp only [refuse, inc_time]
@[simp] theorem refuse_sleep (d : Dev) (u : Nat) : (d.refuse u).sleep = d.sleep := by simp only [refuse, inc_sleep]
@[simp] theorem refuse_bus (d : Dev) (u : Nat) : (d.refuse u).bus = d.bus := by simp only [refuse, inc_bus]
@[simp] theorem refuse_cx (d : Dev) (u : Nat) : (d.refuse u).cx = d.cx := by simp only [refuse, inc_cx]
@[simp] theorem refuse_mg (d : Dev) (u : Nat) : (d.refuse u).mg = d.mg := by simp only [refuse, inc_mg]
@[simp] theorem refuse_outs (d : Dev) (u : Nat) : (d.refuse u).outs = d.outs := by simp only [refuse, inc_outs]

@[simp] theorem emit_regs (d : Dev) (o : Output) : (d.emit o).regs = d.regs := by simp only [emit]
@[simp] theorem emit_ctrs (d : Dev) (o : Output) : (d.emit o).ctrs = d.ctrs := by simp only [emit]
@[simp] theorem emit_snaps (d : Dev) (o : Output) : (d.emit o).snaps = d.snaps := by simp only [emit]
@[simp] theorem emit_raw (d : Dev) (o : Output) : (d.emit o).raw = d.raw := by simp only [emit]
@[simp] theorem emit_free (d : Dev) (o : Output) : (d.emit o).free = d.free := by simp only [emit]
@[simp] theorem emit_ep (d : Dev) (o : Output) : (d.emit o).ep = d.ep := by simp only [emit]
@[simp] theorem emit_ops (d : Dev) (o : Output) : (d.emit o).ops = d.ops := by simp only [emit]
@[simp] theorem emit_pa (d : Dev) (o : Output) : (d.emit o).pa = d.pa := by simp only [emit]
@[simp] theorem emit_paNext (d : Dev) (o : Output) : (d.emit o).paNext = d.paNext := by simp only [emit]
@[simp] theorem emit_eng (d : Dev) (o : Output) : (d.emit o).eng = d.eng := by simp only [emit]
@[simp] theorem emit_path (d : Dev) (o : Output) : (d.emit o).path = d.path := by simp only [emit]
@[simp] theorem emit_tab (d : Dev) (o : Output) : (d.emit o).tab = d.tab := by simp only [emit]
@[simp] theorem emit_buf (d : Dev) (o : Output) : (d.emit o).buf = d.buf := by simp only [emit]
@[simp] theorem emit_host (d : Dev) (o : Output) : (d.emit o).host = d.host := by simp only [emit]
@[simp] theorem emit_load (d : Dev) (o : Output) : (d.emit o).load = d.load := by simp only [emit]
@[simp] theorem emit_safe (d : Dev) (o : Output) : (d.emit o).safe = d.safe := by simp only [emit]
@[simp] theorem emit_time (d : Dev) (o : Output) : (d.emit o).time = d.time := by simp only [emit]
@[simp] theorem emit_sleep (d : Dev) (o : Output) : (d.emit o).sleep = d.sleep := by simp only [emit]
@[simp] theorem emit_bus (d : Dev) (o : Output) : (d.emit o).bus = d.bus := by simp only [emit]
@[simp] theorem emit_cx (d : Dev) (o : Output) : (d.emit o).cx = d.cx := by simp only [emit]
@[simp] theorem emit_mg (d : Dev) (o : Output) : (d.emit o).mg = d.mg := by simp only [emit]

@[simp] theorem emits_regs (d : Dev) (l : List Output) : (d.emits l).regs = d.regs := by simp only [emits]
@[simp] theorem emits_ctrs (d : Dev) (l : List Output) : (d.emits l).ctrs = d.ctrs := by simp only [emits]
@[simp] theorem emits_snaps (d : Dev) (l : List Output) : (d.emits l).snaps = d.snaps := by simp only [emits]
@[simp] theorem emits_raw (d : Dev) (l : List Output) : (d.emits l).raw = d.raw := by simp only [emits]
@[simp] theorem emits_free (d : Dev) (l : List Output) : (d.emits l).free = d.free := by simp only [emits]
@[simp] theorem emits_ep (d : Dev) (l : List Output) : (d.emits l).ep = d.ep := by simp only [emits]
@[simp] theorem emits_ops (d : Dev) (l : List Output) : (d.emits l).ops = d.ops := by simp only [emits]
@[simp] theorem emits_pa (d : Dev) (l : List Output) : (d.emits l).pa = d.pa := by simp only [emits]
@[simp] theorem emits_paNext (d : Dev) (l : List Output) : (d.emits l).paNext = d.paNext := by simp only [emits]
@[simp] theorem emits_eng (d : Dev) (l : List Output) : (d.emits l).eng = d.eng := by simp only [emits]
@[simp] theorem emits_path (d : Dev) (l : List Output) : (d.emits l).path = d.path := by simp only [emits]
@[simp] theorem emits_tab (d : Dev) (l : List Output) : (d.emits l).tab = d.tab := by simp only [emits]
@[simp] theorem emits_buf (d : Dev) (l : List Output) : (d.emits l).buf = d.buf := by simp only [emits]
@[simp] theorem emits_host (d : Dev) (l : List Output) : (d.emits l).host = d.host := by simp only [emits]
@[simp] theorem emits_load (d : Dev) (l : List Output) : (d.emits l).load = d.load := by simp only [emits]
@[simp] theorem emits_safe (d : Dev) (l : List Output) : (d.emits l).safe = d.safe := by simp only [emits]
@[simp] theorem emits_time (d : Dev) (l : List Output) : (d.emits l).time = d.time := by simp only [emits]
@[simp] theorem emits_sleep (d : Dev) (l : List Output) : (d.emits l).sleep = d.sleep := by simp only [emits]
@[simp] theorem emits_bus (d : Dev) (l : List Output) : (d.emits l).bus = d.bus := by simp only [emits]
@[simp] theorem emits_cx (d : Dev) (l : List Output) : (d.emits l).cx = d.cx := by simp only [emits]
@[simp] theorem emits_mg (d : Dev) (l : List Output) : (d.emits l).mg = d.mg := by simp only [emits]

@[simp] theorem setLink_ctrs (d : Dev) (n : Nat) (x : LinkEnd) : (d.setLink n x).ctrs = d.ctrs := by simp only [setLink, sf_ctrs]
@[simp] theorem setLink_snaps (d : Dev) (n : Nat) (x : LinkEnd) : (d.setLink n x).snaps = d.snaps := by simp only [setLink, sf_snaps]
@[simp] theorem setLink_raw (d : Dev) (n : Nat) (x : LinkEnd) : (d.setLink n x).raw = d.raw := by simp only [setLink, sf_raw]
@[simp] theorem setLink_free (d : Dev) (n : Nat) (x : LinkEnd) : (d.setLink n x).free = d.free := by simp only [setLink, sf_free]
@[simp] theorem setLink_ep (d : Dev) (n : Nat) (x : LinkEnd) : (d.setLink n x).ep = d.ep := by simp only [setLink, sf_ep]
@[simp] theorem setLink_ops (d : Dev) (n : Nat) (x : LinkEnd) : (d.setLink n x).ops = d.ops := by simp only [setLink, sf_ops]
@[simp] theorem setLink_pa (d : Dev) (n : Nat) (x : LinkEnd) : (d.setLink n x).pa = d.pa := by simp only [setLink, sf_pa]
@[simp] theorem setLink_paNext (d : Dev) (n : Nat) (x : LinkEnd) : (d.setLink n x).paNext = d.paNext := by simp only [setLink, sf_paNext]
@[simp] theorem setLink_eng (d : Dev) (n : Nat) (x : LinkEnd) : (d.setLink n x).eng = d.eng := by simp only [setLink, sf_eng]
@[simp] theorem setLink_path (d : Dev) (n : Nat) (x : LinkEnd) : (d.setLink n x).path = d.path := by simp only [setLink, sf_path]
@[simp] theorem setLink_tab (d : Dev) (n : Nat) (x : LinkEnd) : (d.setLink n x).tab = d.tab := by simp only [setLink, sf_tab]
@[simp] theorem setLink_buf (d : Dev) (n : Nat) (x : LinkEnd) : (d.setLink n x).buf = d.buf := by simp only [setLink, sf_buf]
@[simp] theorem setLink_host (d : Dev) (n : Nat) (x : LinkEnd) : (d.setLink n x).host = d.host := by simp only [setLink, sf_host]
@[simp] theorem setLink_load (d : Dev) (n : Nat) (x : LinkEnd) : (d.setLink n x).load = d.load := by simp only [setLink, sf_load]
@[simp] theorem setLink_time (d : Dev) (n : Nat) (x : LinkEnd) : (d.setLink n x).time = d.time := by simp only [setLink, sf_time]
@[simp] theorem setLink_sleep (d : Dev) (n : Nat) (x : LinkEnd) : (d.setLink n x).sleep = d.sleep := by simp only [setLink, sf_sleep]
@[simp] theorem setLink_bus (d : Dev) (n : Nat) (x : LinkEnd) : (d.setLink n x).bus = d.bus := by simp only [setLink, sf_bus]
@[simp] theorem setLink_cx (d : Dev) (n : Nat) (x : LinkEnd) : (d.setLink n x).cx = d.cx := by simp only [setLink, sf_cx]
@[simp] theorem setLink_mg (d : Dev) (n : Nat) (x : LinkEnd) : (d.setLink n x).mg = d.mg := by simp only [setLink, sf_mg]
@[simp] theorem setLink_outs (d : Dev) (n : Nat) (x : LinkEnd) : (d.setLink n x).outs = d.outs := by simp only [setLink, sf_outs]

@[simp] theorem linkFill_ctrs (d : Dev) (n : Nat) : (d.linkFill n).ctrs = d.ctrs := by simp only [linkFill, emits_ctrs, setLink_ctrs]
@[simp] theorem linkFill_snaps (d : Dev) (n : Nat) : (d.linkFill n).snaps = d.snaps := by simp only [linkFill, emits_snaps, setLink_snaps]
@[simp] theorem linkFill_raw (d : Dev) (n : Nat) : (d.linkFill n).raw = d.raw := by simp only [linkFill, emits_raw, setLink_raw]
@[simp] theorem linkFill_free (d : Dev) (n : Nat) : (d.linkFill n).free = d.free := by simp only [linkFill, emits_free, setLink_free]
@[simp] theorem linkFill_ep (d : Dev) (n : Nat) : (d.linkFill n).ep = d.ep := by simp only [linkFill, emits_ep, setLink_ep]
@[simp] theorem linkFill_ops (d : Dev) (n : Nat) : (d.linkFill n).ops = d.ops := by simp only [linkFill, emits_ops, setLink_ops]
@[simp] theorem linkFill_pa (d : Dev) (n : Nat) : (d.linkFill n).pa = d.pa := by simp only [linkFill, emits_pa, setLink_pa]
@[simp] theorem linkFill_paNext (d : Dev) (n : Nat) : (d.linkFill n).paNext = d.paNext := by simp only [linkFill, emits_paNext, setLink_paNext]
@[simp] theorem linkFill_eng (d : Dev) (n : Nat) : (d.linkFill n).eng = d.eng := by simp only [linkFill, emits_eng, setLink_eng]
@[simp] theorem linkFill_path (d : Dev) (n : Nat) : (d.linkFill n).path = d.path := by simp only [linkFill, emits_path, setLink_path]
@[simp] theorem linkFill_tab (d : Dev) (n : Nat) : (d.linkFill n).tab = d.tab := by simp only [linkFill, emits_tab, setLink_tab]
@[simp] theorem linkFill_buf (d : Dev) (n : Nat) : (d.linkFill n).buf = d.buf := by simp only [linkFill, emits_buf, setLink_buf]
@[simp] theorem linkFill_host (d : Dev) (n : Nat) : (d.linkFill n).host = d.host := by simp only [linkFill, emits_host, setLink_host]
@[simp] theorem linkFill_load (d : Dev) (n : Nat) : (d.linkFill n).load = d.load := by simp only [linkFill, emits_load, setLink_load]
@[simp] theorem linkFill_time (d : Dev) (n : Nat) : (d.linkFill n).time = d.time := by simp only [linkFill, emits_time, setLink_time]
@[simp] theorem linkFill_sleep (d : Dev) (n : Nat) : (d.linkFill n).sleep = d.sleep := by simp only [linkFill, emits_sleep, setLink_sleep]
@[simp] theorem linkFill_bus (d : Dev) (n : Nat) : (d.linkFill n).bus = d.bus := by simp only [linkFill, emits_bus, setLink_bus]
@[simp] theorem linkFill_cx (d : Dev) (n : Nat) : (d.linkFill n).cx = d.cx := by simp only [linkFill, emits_cx, setLink_cx]
@[simp] theorem linkFill_mg (d : Dev) (n : Nat) : (d.linkFill n).mg = d.mg := by simp only [linkFill, emits_mg, setLink_mg]

@[simp] theorem linkSend_ctrs (d : Dev) (n kind v : Nat) : (d.linkSend n kind v).ctrs = d.ctrs := by simp only [linkSend, linkFill_ctrs, setLink_ctrs]
@[simp] theorem linkSend_snaps (d : Dev) (n kind v : Nat) : (d.linkSend n kind v).snaps = d.snaps := by simp only [linkSend, linkFill_snaps, setLink_snaps]
@[simp] theorem linkSend_raw (d : Dev) (n kind v : Nat) : (d.linkSend n kind v).raw = d.raw := by simp only [linkSend, linkFill_raw, setLink_raw]
@[simp] theorem linkSend_free (d : Dev) (n kind v : Nat) : (d.linkSend n kind v).free = d.free := by simp only [linkSend, linkFill_free, setLink_free]
@[simp] theorem linkSend_ep (d : Dev) (n kind v : Nat) : (d.linkSend n kind v).ep = d.ep := by simp only [linkSend, linkFill_ep, setLink_ep]
@[simp] theorem linkSend_ops (d : Dev) (n kind v : Nat) : (d.linkSend n kind v).ops = d.ops := by simp only [linkSend, linkFill_ops, setLink_ops]
@[simp] theorem linkSend_pa (d : Dev) (n kind v : Nat) : (d.linkSend n kind v).pa = d.pa := by simp only [linkSend, linkFill_pa, setLink_pa]
@[simp] theorem linkSend_paNext (d : Dev) (n kind v : Nat) : (d.linkSend n kind v).paNext = d.paNext := by simp only [linkSend, linkFill_paNext, setLink_paNext]
@[simp] theorem linkSend_eng (d : Dev) (n kind v : Nat) : (d.linkSend n kind v).eng = d.eng := by simp only [linkSend, linkFill_eng, setLink_eng]
@[simp] theorem linkSend_path (d : Dev) (n kind v : Nat) : (d.linkSend n kind v).path = d.path := by simp only [linkSend, linkFill_path, setLink_path]
@[simp] theorem linkSend_tab (d : Dev) (n kind v : Nat) : (d.linkSend n kind v).tab = d.tab := by simp only [linkSend, linkFill_tab, setLink_tab]
@[simp] theorem linkSend_buf (d : Dev) (n kind v : Nat) : (d.linkSend n kind v).buf = d.buf := by simp only [linkSend, linkFill_buf, setLink_buf]
@[simp] theorem linkSend_host (d : Dev) (n kind v : Nat) : (d.linkSend n kind v).host = d.host := by simp only [linkSend, linkFill_host, setLink_host]
@[simp] theorem linkSend_load (d : Dev) (n kind v : Nat) : (d.linkSend n kind v).load = d.load := by simp only [linkSend, linkFill_load, setLink_load]
@[simp] theorem linkSend_time (d : Dev) (n kind v : Nat) : (d.linkSend n kind v).time = d.time := by simp only [linkSend, linkFill_time, setLink_time]
@[simp] theorem linkSend_sleep (d : Dev) (n kind v : Nat) : (d.linkSend n kind v).sleep = d.sleep := by simp only [linkSend, linkFill_sleep, setLink_sleep]
@[simp] theorem linkSend_bus (d : Dev) (n kind v : Nat) : (d.linkSend n kind v).bus = d.bus := by simp only [linkSend, linkFill_bus, setLink_bus]
@[simp] theorem linkSend_cx (d : Dev) (n kind v : Nat) : (d.linkSend n kind v).cx = d.cx := by simp only [linkSend, linkFill_cx, setLink_cx]
@[simp] theorem linkSend_mg (d : Dev) (n kind v : Nat) : (d.linkSend n kind v).mg = d.mg := by simp only [linkSend, linkFill_mg, setLink_mg]

@[simp] theorem pushRx_regs (d : Dev) (p : Nat) (x : Frame) : (d.pushRx p x).regs = d.regs := by simp only [pushRx]
@[simp] theorem pushRx_ctrs (d : Dev) (p : Nat) (x : Frame) : (d.pushRx p x).ctrs = d.ctrs := by simp only [pushRx]
@[simp] theorem pushRx_snaps (d : Dev) (p : Nat) (x : Frame) : (d.pushRx p x).snaps = d.snaps := by simp only [pushRx]
@[simp] theorem pushRx_raw (d : Dev) (p : Nat) (x : Frame) : (d.pushRx p x).raw = d.raw := by simp only [pushRx]
@[simp] theorem pushRx_free (d : Dev) (p : Nat) (x : Frame) : (d.pushRx p x).free = d.free := by simp only [pushRx]
@[simp] theorem pushRx_ep (d : Dev) (p : Nat) (x : Frame) : (d.pushRx p x).ep = d.ep := by simp only [pushRx]
@[simp] theorem pushRx_ops (d : Dev) (p : Nat) (x : Frame) : (d.pushRx p x).ops = d.ops := by simp only [pushRx]
@[simp] theorem pushRx_pa (d : Dev) (p : Nat) (x : Frame) : (d.pushRx p x).pa = d.pa := by simp only [pushRx]
@[simp] theorem pushRx_paNext (d : Dev) (p : Nat) (x : Frame) : (d.pushRx p x).paNext = d.paNext := by simp only [pushRx]
@[simp] theorem pushRx_eng (d : Dev) (p : Nat) (x : Frame) : (d.pushRx p x).eng = d.eng := by simp only [pushRx]
@[simp] theorem pushRx_tab (d : Dev) (p : Nat) (x : Frame) : (d.pushRx p x).tab = d.tab := by simp only [pushRx]
@[simp] theorem pushRx_buf (d : Dev) (p : Nat) (x : Frame) : (d.pushRx p x).buf = d.buf := by simp only [pushRx]
@[simp] theorem pushRx_host (d : Dev) (p : Nat) (x : Frame) : (d.pushRx p x).host = d.host := by simp only [pushRx]
@[simp] theorem pushRx_load (d : Dev) (p : Nat) (x : Frame) : (d.pushRx p x).load = d.load := by simp only [pushRx]
@[simp] theorem pushRx_safe (d : Dev) (p : Nat) (x : Frame) : (d.pushRx p x).safe = d.safe := by simp only [pushRx]
@[simp] theorem pushRx_time (d : Dev) (p : Nat) (x : Frame) : (d.pushRx p x).time = d.time := by simp only [pushRx]
@[simp] theorem pushRx_sleep (d : Dev) (p : Nat) (x : Frame) : (d.pushRx p x).sleep = d.sleep := by simp only [pushRx]
@[simp] theorem pushRx_bus (d : Dev) (p : Nat) (x : Frame) : (d.pushRx p x).bus = d.bus := by simp only [pushRx]
@[simp] theorem pushRx_cx (d : Dev) (p : Nat) (x : Frame) : (d.pushRx p x).cx = d.cx := by simp only [pushRx]
@[simp] theorem pushRx_mg (d : Dev) (p : Nat) (x : Frame) : (d.pushRx p x).mg = d.mg := by simp only [pushRx]
@[simp] theorem pushRx_outs (d : Dev) (p : Nat) (x : Frame) : (d.pushRx p x).outs = d.outs := by simp only [pushRx]

@[simp] theorem powered_regs (d : Dev) : (d.powered).regs = d.regs := by simp only [powered]
@[simp] theorem powered_ctrs (d : Dev) : (d.powered).ctrs = d.ctrs := by simp only [powered]
@[simp] theorem powered_snaps (d : Dev) : (d.powered).snaps = d.snaps := by simp only [powered]
@[simp] theorem powered_raw (d : Dev) : (d.powered).raw = d.raw := by simp only [powered]
@[simp] theorem powered_free (d : Dev) : (d.powered).free = d.free := by simp only [powered]
@[simp] theorem powered_ep (d : Dev) : (d.powered).ep = d.ep := by simp only [powered]
@[simp] theorem powered_ops (d : Dev) : (d.powered).ops = d.ops := by simp only [powered]
@[simp] theorem powered_pa (d : Dev) : (d.powered).pa = d.pa := by simp only [powered]
@[simp] theorem powered_paNext (d : Dev) : (d.powered).paNext = d.paNext := by simp only [powered]
@[simp] theorem powered_eng (d : Dev) : (d.powered).eng = d.eng := by simp only [powered]
@[simp] theorem powered_path (d : Dev) : (d.powered).path = d.path := by simp only [powered]
@[simp] theorem powered_tab (d : Dev) : (d.powered).tab = d.tab := by simp only [powered]
@[simp] theorem powered_buf (d : Dev) : (d.powered).buf = d.buf := by simp only [powered]
@[simp] theorem powered_host (d : Dev) : (d.powered).host = d.host := by simp only [powered]
@[simp] theorem powered_load (d : Dev) : (d.powered).load = d.load := by simp only [powered]
@[simp] theorem powered_safe (d : Dev) : (d.powered).safe = d.safe := by simp only [powered]
@[simp] theorem powered_time (d : Dev) : (d.powered).time = d.time := by simp only [powered]
@[simp] theorem powered_sleep (d : Dev) : (d.powered).sleep = d.sleep := by simp only [powered]
@[simp] theorem powered_bus (d : Dev) : (d.powered).bus = d.bus := by simp only [powered]
@[simp] theorem powered_cx (d : Dev) : (d.powered).cx = d.cx := by simp only [powered]
@[simp] theorem powered_outs (d : Dev) : (d.powered).outs = d.outs := by simp only [powered]

@[simp] theorem setOps_regs (d : Dev) (l : List UnitOp) : (d.setOps l).regs = d.regs := by simp only [setOps]
@[simp] theorem setOps_ctrs (d : Dev) (l : List UnitOp) : (d.setOps l).ctrs = d.ctrs := by simp only [setOps]
@[simp] theorem setOps_snaps (d : Dev) (l : List UnitOp) : (d.setOps l).snaps = d.snaps := by simp only [setOps]
@[simp] theorem setOps_raw (d : Dev) (l : List UnitOp) : (d.setOps l).raw = d.raw := by simp only [setOps]
@[simp] theorem setOps_free (d : Dev) (l : List UnitOp) : (d.setOps l).free = d.free := by simp only [setOps]
@[simp] theorem setOps_ep (d : Dev) (l : List UnitOp) : (d.setOps l).ep = d.ep := by simp only [setOps]
@[simp] theorem setOps_pa (d : Dev) (l : List UnitOp) : (d.setOps l).pa = d.pa := by simp only [setOps]
@[simp] theorem setOps_paNext (d : Dev) (l : List UnitOp) : (d.setOps l).paNext = d.paNext := by simp only [setOps]
@[simp] theorem setOps_eng (d : Dev) (l : List UnitOp) : (d.setOps l).eng = d.eng := by simp only [setOps]
@[simp] theorem setOps_path (d : Dev) (l : List UnitOp) : (d.setOps l).path = d.path := by simp only [setOps]
@[simp] theorem setOps_tab (d : Dev) (l : List UnitOp) : (d.setOps l).tab = d.tab := by simp only [setOps]
@[simp] theorem setOps_buf (d : Dev) (l : List UnitOp) : (d.setOps l).buf = d.buf := by simp only [setOps]
@[simp] theorem setOps_host (d : Dev) (l : List UnitOp) : (d.setOps l).host = d.host := by simp only [setOps]
@[simp] theorem setOps_load (d : Dev) (l : List UnitOp) : (d.setOps l).load = d.load := by simp only [setOps]
@[simp] theorem setOps_safe (d : Dev) (l : List UnitOp) : (d.setOps l).safe = d.safe := by simp only [setOps]
@[simp] theorem setOps_time (d : Dev) (l : List UnitOp) : (d.setOps l).time = d.time := by simp only [setOps]
@[simp] theorem setOps_sleep (d : Dev) (l : List UnitOp) : (d.setOps l).sleep = d.sleep := by simp only [setOps]
@[simp] theorem setOps_bus (d : Dev) (l : List UnitOp) : (d.setOps l).bus = d.bus := by simp only [setOps]
@[simp] theorem setOps_cx (d : Dev) (l : List UnitOp) : (d.setOps l).cx = d.cx := by simp only [setOps]
@[simp] theorem setOps_mg (d : Dev) (l : List UnitOp) : (d.setOps l).mg = d.mg := by simp only [setOps]
@[simp] theorem setOps_outs (d : Dev) (l : List UnitOp) : (d.setOps l).outs = d.outs := by simp only [setOps]

@[simp] theorem setEp_regs (d : Dev) (x : Epochs) : (d.setEp x).regs = d.regs := by simp only [setEp]
@[simp] theorem setEp_ctrs (d : Dev) (x : Epochs) : (d.setEp x).ctrs = d.ctrs := by simp only [setEp]
@[simp] theorem setEp_snaps (d : Dev) (x : Epochs) : (d.setEp x).snaps = d.snaps := by simp only [setEp]
@[simp] theorem setEp_raw (d : Dev) (x : Epochs) : (d.setEp x).raw = d.raw := by simp only [setEp]
@[simp] theorem setEp_free (d : Dev) (x : Epochs) : (d.setEp x).free = d.free := by simp only [setEp]
@[simp] theorem setEp_ops (d : Dev) (x : Epochs) : (d.setEp x).ops = d.ops := by simp only [setEp]
@[simp] theorem setEp_pa (d : Dev) (x : Epochs) : (d.setEp x).pa = d.pa := by simp only [setEp]
@[simp] theorem setEp_paNext (d : Dev) (x : Epochs) : (d.setEp x).paNext = d.paNext := by simp only [setEp]
@[simp] theorem setEp_eng (d : Dev) (x : Epochs) : (d.setEp x).eng = d.eng := by simp only [setEp]
@[simp] theorem setEp_path (d : Dev) (x : Epochs) : (d.setEp x).path = d.path := by simp only [setEp]
@[simp] theorem setEp_tab (d : Dev) (x : Epochs) : (d.setEp x).tab = d.tab := by simp only [setEp]
@[simp] theorem setEp_buf (d : Dev) (x : Epochs) : (d.setEp x).buf = d.buf := by simp only [setEp]
@[simp] theorem setEp_host (d : Dev) (x : Epochs) : (d.setEp x).host = d.host := by simp only [setEp]
@[simp] theorem setEp_load (d : Dev) (x : Epochs) : (d.setEp x).load = d.load := by simp only [setEp]
@[simp] theorem setEp_safe (d : Dev) (x : Epochs) : (d.setEp x).safe = d.safe := by simp only [setEp]
@[simp] theorem setEp_time (d : Dev) (x : Epochs) : (d.setEp x).time = d.time := by simp only [setEp]
@[simp] theorem setEp_sleep (d : Dev) (x : Epochs) : (d.setEp x).sleep = d.sleep := by simp only [setEp]
@[simp] theorem setEp_bus (d : Dev) (x : Epochs) : (d.setEp x).bus = d.bus := by simp only [setEp]
@[simp] theorem setEp_cx (d : Dev) (x : Epochs) : (d.setEp x).cx = d.cx := by simp only [setEp]
@[simp] theorem setEp_mg (d : Dev) (x : Epochs) : (d.setEp x).mg = d.mg := by simp only [setEp]
@[simp] theorem setEp_outs (d : Dev) (x : Epochs) : (d.setEp x).outs = d.outs := by simp only [setEp]

@[simp] theorem setTxn_regs (d : Dev) (t : Option Txn) : (d.setTxn t).regs = d.regs := by simp only [setTxn, setEp_regs]
@[simp] theorem setTxn_ctrs (d : Dev) (t : Option Txn) : (d.setTxn t).ctrs = d.ctrs := by simp only [setTxn, setEp_ctrs]
@[simp] theorem setTxn_snaps (d : Dev) (t : Option Txn) : (d.setTxn t).snaps = d.snaps := by simp only [setTxn, setEp_snaps]
@[simp] theorem setTxn_raw (d : Dev) (t : Option Txn) : (d.setTxn t).raw = d.raw := by simp only [setTxn, setEp_raw]
@[simp] theorem setTxn_free (d : Dev) (t : Option Txn) : (d.setTxn t).free = d.free := by simp only [setTxn, setEp_free]
@[simp] theorem setTxn_ops (d : Dev) (t : Option Txn) : (d.setTxn t).ops = d.ops := by simp only [setTxn, setEp_ops]
@[simp] theorem setTxn_pa (d : Dev) (t : Option Txn) : (d.setTxn t).pa = d.pa := by simp only [setTxn, setEp_pa]
@[simp] theorem setTxn_paNext (d : Dev) (t : Option Txn) : (d.setTxn t).paNext = d.paNext := by simp only [setTxn, setEp_paNext]
@[simp] theorem setTxn_eng (d : Dev) (t : Option Txn) : (d.setTxn t).eng = d.eng := by simp only [setTxn, setEp_eng]
@[simp] theorem setTxn_path (d : Dev) (t : Option Txn) : (d.setTxn t).path = d.path := by simp only [setTxn, setEp_path]
@[simp] theorem setTxn_tab (d : Dev) (t : Option Txn) : (d.setTxn t).tab = d.tab := by simp only [setTxn, setEp_tab]
@[simp] theorem setTxn_buf (d : Dev) (t : Option Txn) : (d.setTxn t).buf = d.buf := by simp only [setTxn, setEp_buf]
@[simp] theorem setTxn_host (d : Dev) (t : Option Txn) : (d.setTxn t).host = d.host := by simp only [setTxn, setEp_host]
@[simp] theorem setTxn_load (d : Dev) (t : Option Txn) : (d.setTxn t).load = d.load := by simp only [setTxn, setEp_load]
@[simp] theorem setTxn_safe (d : Dev) (t : Option Txn) : (d.setTxn t).safe = d.safe := by simp only [setTxn, setEp_safe]
@[simp] theorem setTxn_time (d : Dev) (t : Option Txn) : (d.setTxn t).time = d.time := by simp only [setTxn, setEp_time]
@[simp] theorem setTxn_sleep (d : Dev) (t : Option Txn) : (d.setTxn t).sleep = d.sleep := by simp only [setTxn, setEp_sleep]
@[simp] theorem setTxn_bus (d : Dev) (t : Option Txn) : (d.setTxn t).bus = d.bus := by simp only [setTxn, setEp_bus]
@[simp] theorem setTxn_cx (d : Dev) (t : Option Txn) : (d.setTxn t).cx = d.cx := by simp only [setTxn, setEp_cx]
@[simp] theorem setTxn_mg (d : Dev) (t : Option Txn) : (d.setTxn t).mg = d.mg := by simp only [setTxn, setEp_mg]
@[simp] theorem setTxn_outs (d : Dev) (t : Option Txn) : (d.setTxn t).outs = d.outs := by simp only [setTxn, setEp_outs]

@[simp] theorem cmdEnd_ctrs (d : Dev) (u tag res : Nat) : (d.cmdEnd u tag res).ctrs = d.ctrs := by simp only [cmdEnd, sf_ctrs]
@[simp] theorem cmdEnd_snaps (d : Dev) (u tag res : Nat) : (d.cmdEnd u tag res).snaps = d.snaps := by simp only [cmdEnd, sf_snaps]
@[simp] theorem cmdEnd_raw (d : Dev) (u tag res : Nat) : (d.cmdEnd u tag res).raw = d.raw := by simp only [cmdEnd, sf_raw]
@[simp] theorem cmdEnd_free (d : Dev) (u tag res : Nat) : (d.cmdEnd u tag res).free = d.free := by simp only [cmdEnd, sf_free]
@[simp] theorem cmdEnd_ep (d : Dev) (u tag res : Nat) : (d.cmdEnd u tag res).ep = d.ep := by simp only [cmdEnd, sf_ep]
@[simp] theorem cmdEnd_ops (d : Dev) (u tag res : Nat) : (d.cmdEnd u tag res).ops = d.ops := by simp only [cmdEnd, sf_ops]
@[simp] theorem cmdEnd_pa (d : Dev) (u tag res : Nat) : (d.cmdEnd u tag res).pa = d.pa := by simp only [cmdEnd, sf_pa]
@[simp] theorem cmdEnd_paNext (d : Dev) (u tag res : Nat) : (d.cmdEnd u tag res).paNext = d.paNext := by simp only [cmdEnd, sf_paNext]
@[simp] theorem cmdEnd_eng (d : Dev) (u tag res : Nat) : (d.cmdEnd u tag res).eng = d.eng := by simp only [cmdEnd, sf_eng]
@[simp] theorem cmdEnd_path (d : Dev) (u tag res : Nat) : (d.cmdEnd u tag res).path = d.path := by simp only [cmdEnd, sf_path]
@[simp] theorem cmdEnd_tab (d : Dev) (u tag res : Nat) : (d.cmdEnd u tag res).tab = d.tab := by simp only [cmdEnd, sf_tab]
@[simp] theorem cmdEnd_buf (d : Dev) (u tag res : Nat) : (d.cmdEnd u tag res).buf = d.buf := by simp only [cmdEnd, sf_buf]
@[simp] theorem cmdEnd_host (d : Dev) (u tag res : Nat) : (d.cmdEnd u tag res).host = d.host := by simp only [cmdEnd, sf_host]
@[simp] theorem cmdEnd_load (d : Dev) (u tag res : Nat) : (d.cmdEnd u tag res).load = d.load := by simp only [cmdEnd, sf_load]
@[simp] theorem cmdEnd_safe (d : Dev) (u tag res : Nat) : (d.cmdEnd u tag res).safe = d.safe := by simp only [cmdEnd, sf_safe]
@[simp] theorem cmdEnd_time (d : Dev) (u tag res : Nat) : (d.cmdEnd u tag res).time = d.time := by simp only [cmdEnd, sf_time]
@[simp] theorem cmdEnd_sleep (d : Dev) (u tag res : Nat) : (d.cmdEnd u tag res).sleep = d.sleep := by simp only [cmdEnd, sf_sleep]
@[simp] theorem cmdEnd_bus (d : Dev) (u tag res : Nat) : (d.cmdEnd u tag res).bus = d.bus := by simp only [cmdEnd, sf_bus]
@[simp] theorem cmdEnd_cx (d : Dev) (u tag res : Nat) : (d.cmdEnd u tag res).cx = d.cx := by simp only [cmdEnd, sf_cx]
@[simp] theorem cmdEnd_mg (d : Dev) (u tag res : Nat) : (d.cmdEnd u tag res).mg = d.mg := by simp only [cmdEnd, sf_mg]
@[simp] theorem cmdEnd_outs (d : Dev) (u tag res : Nat) : (d.cmdEnd u tag res).outs = d.outs := by simp only [cmdEnd, sf_outs]

end Dev
end Sys2Proof.Machine
end

