-- ==== Sys2Proof/Laws/Only.lean ====
section
/-! SUPPORT. Footprints: they compose, and each shared operation has one. `Dev.Within` is `Dev.Only` without the request for
leave that an event's record may bring; it composes freely. -/
namespace Sys2Proof.Machine

/-- Two footprints together. -/
def Foot.or (F G : Foot) : Foot :=
  { regs := F.regs ++ G.regs, arrays := F.arrays ++ G.arrays, ctrs := F.ctrs ++ G.ctrs,
    ctrArrays := F.ctrArrays ++ G.ctrArrays, parts := F.parts ++ G.parts, events := F.events || G.events }

theorem Foot.or_reg (F G : Foot) (r : Reg) (i : Nat) : (F.or G).hasReg r i ↔ F.hasReg r i ∨ G.hasReg r i := by
  simp only [Foot.hasReg, Foot.or, List.mem_append, Bool.or_eq_true]; tauto

theorem Foot.or_ctr (F G : Foot) (c : Ctr) (i : Nat) : (F.or G).hasCtr c i ↔ F.hasCtr c i ∨ G.hasCtr c i := by
  simp only [Foot.hasCtr, Foot.or, List.mem_append, Bool.or_eq_true]; tauto

theorem Foot.or_part (F G : Foot) (p : Part) : (F.or G).hasPart p ↔ F.hasPart p ∨ G.hasPart p := by
  simp only [Foot.hasPart, Foot.or, List.mem_append, Bool.or_eq_true]; tauto

theorem Part.same_refl (p : Part) (a : Dev) : p.same a a := by cases p <;> simp [Part.same]

theorem Part.same_trans {p : Part} {a b c : Dev} (h : p.same a b) (k : p.same b c) : p.same a c := by
  cases p <;> simp only [Part.same] at * <;> first | exact k.trans h | exact ⟨k.1.trans h.1, k.2.trans h.2⟩

/-- A larger footprint. -/
def Foot.le (F G : Foot) : Prop :=
  (∀ r i, F.hasReg r i → G.hasReg r i) ∧ (∀ c i, F.hasCtr c i → G.hasCtr c i) ∧ ∀ p, F.hasPart p → G.hasPart p

theorem Foot.le_refl (F : Foot) : F.le F := ⟨fun _ _ h => h, fun _ _ h => h, fun _ h => h⟩

theorem Foot.le_upTo (F : Foot) (d : Dev) : F.le (F.upTo d) := by
  unfold Foot.upTo
  split
  · refine ⟨fun r i h => ?_, fun c i h => ?_, fun p h => ?_⟩
    · simp only [Foot.hasReg, List.mem_append] at *; tauto
    · simp only [Foot.hasCtr, List.mem_append] at *; tauto
    · simp only [Foot.hasPart, List.mem_append] at *; tauto
  · exact F.le_refl

/-- A footprint up to the request, at a device whose log is over the mark wherever the other's is. -/
theorem Foot.upTo_le {F : Foot} {b c : Dev} (h : b.logOver = true → c.logOver = true) : (F.upTo b).le (F.upTo c) := by
  by_cases x : b.logOver = true
  · simp only [Foot.upTo, x, h x]; exact Foot.le_refl _
  · rw [Foot.upTo, if_neg (by simp [x])]; exact F.le_upTo c

namespace Dev

/-- `b` differs from `a` only inside the footprint itself. -/
structure Within (a b : Dev) (F : Foot) : Prop where
  reg : ∀ r i, ¬ F.hasReg r i → b.rd r i = a.rd r i
  ctr : ∀ c i, ¬ F.hasCtr c i → b.ctr c i = a.ctr c i
  part : ∀ p, ¬ F.hasPart p → p.same a b

namespace Within

theorem refl (a : Dev) (F : Foot) : a.Within a F := ⟨fun _ _ _ => rfl, fun _ _ _ => rfl, fun p _ => p.same_refl a⟩

theorem mono {a b : Dev} {F G : Foot} (h : a.Within b F) (l : F.le G) : a.Within b G :=
  ⟨fun r i n => h.reg r i fun x => n (l.1 r i x), fun c i n => h.ctr c i fun x => n (l.2.1 c i x),
    fun p n => h.part p fun x => n (l.2.2 p x)⟩

/-- Two changes inside one footprint. -/
theorem trans {a b c : Dev} {F : Foot} (h : a.Within b F) (k : b.Within c F) : a.Within c F :=
  ⟨fun r i n => (k.reg r i n).trans (h.reg r i n), fun r i n => (k.ctr r i n).trans (h.ctr r i n),
    fun p n => Part.same_trans (h.part p n) (k.part p n)⟩

theorem foldl {β : Type} {F : Foot} (f : Dev → β → Dev) (l : List β) :
    (∀ (d : Dev) (x : β), x ∈ l → d.Within (f d x) F) → ∀ a : Dev, a.Within (l.foldl f a) F := by
  induction l with
  | nil => intro _ a; exact refl a F
  | cons x l ih =>
    intro h a
    exact (h a x (by simp)).trans (ih (fun d y hy => h d y (by simp [hy])) _)

theorem wr (d : Dev) {F : Foot} {r : Reg} {i : Nat} (h : F.hasReg r i) (v : Word) : d.Within (d.wr r i v) F := by
  refine ⟨fun r' i' n => d.rd_wr_ne ?_ v, fun c k _ => by simp only [Dev.ctr, wr_ctrs], fun p _ => ?_⟩
  · by_contra x
    simp only [not_or, not_not] at x
    exact n (x.1 ▸ x.2 ▸ h)
  · cases p <;> simp [Part.same]

theorem sf (d : Dev) {F : Foot} {f : RField} {i : Nat} (h : F.hasReg f.reg i) (v : Nat) : d.Within (d.sf f i v) F := wr d h _

theorem setCtr (d : Dev) {F : Foot} {c : Ctr} {i : Nat} (h : F.hasCtr c i) (v : Cnt) : d.Within (d.setCtr c i v) F := by
  refine ⟨fun r k _ => by simp only [Dev.rd, setCtr_regs], fun c' i' n => d.ctr_setCtr_ne ?_ v, fun p _ => ?_⟩
  · by_contra x
    simp only [not_or, not_not] at x
    exact n (x.1 ▸ x.2 ▸ h)
  · cases p <;> simp [Part.same]

theorem inc (d : Dev) {F : Foot} {c : Ctr} {i : Nat} (h : F.hasCtr c i) : d.Within (d.inc c i) F := setCtr d h _

theorem incBy (d : Dev) {F : Foot} {c : Ctr} {i : Nat} (h : F.hasCtr c i) (n : Nat) : d.Within (d.incBy c i n) F := setCtr d h _

/-- Only parts differ: registers and counters stay, and so does every part outside the footprint. -/
theorem parts {a b : Dev} {F : Foot} (hr : b.regs = a.regs) (hc : b.ctrs = a.ctrs) (h : ∀ p, ¬ F.hasPart p → p.same a b) :
    a.Within b F :=
  ⟨fun r i _ => by simp only [Dev.rd, hr], fun c i _ => by simp only [Dev.ctr, hc], h⟩

theorem emit (d : Dev) {F : Foot} (h : F.hasPart .outs) (o : Output) : d.Within (d.emit o) F :=
  parts (emit_regs d o) (emit_ctrs d o) fun p n => by cases p <;> simp_all [Part.same]

/-- Leaving reset as it stands changes nothing. -/
theorem powered (d : Dev) (h : d.mg.held = false) : d.powered = d := by
  simp only [Dev.powered, ← h]

end Within

theorem Within.only {a b : Dev} {F : Foot} (h : a.Within b F) : a.Only b F :=
  let k := h.mono (F.le_upTo b)
  ⟨k.reg, k.ctr, k.part⟩

theorem only_iff {a b : Dev} {F : Foot} : a.Only b F ↔ a.Within b (F.upTo b) :=
  ⟨fun h => ⟨h.reg, h.ctr, h.part⟩, fun h => ⟨h.reg, h.ctr, h.part⟩⟩

/-- Two changes inside one footprint, the second of which leaves the log over its mark if the first has. -/
theorem Only.trans {a b c : Dev} {F : Foot} (h : a.Only b F) (k : b.Only c F) (l : b.logOver = true → c.logOver = true) :
    a.Only c F :=
  only_iff.2 (((only_iff.1 h).mono (Foot.upTo_le l)).trans (only_iff.1 k))

/-- What comes after a change inside the footprint, up to the request of its own end. -/
theorem Within.thenOnly {a b c : Dev} {F : Foot} (h : a.Within b F) (k : b.Only c F) : a.Only c F :=
  only_iff.2 ((h.mono (F.le_upTo c)).trans (only_iff.1 k))

/-- A larger footprint, which raises events if the smaller does. -/
theorem Only.mono {a b : Dev} {F G : Foot} (h : a.Only b F) (l : F.le G) (e : F.events = true → G.events = true) :
    a.Only b G := by
  refine only_iff.2 ((only_iff.1 h).mono ?_)
  by_cases x : F.events = true ∧ b.logOver = true
  · rw [Foot.upTo, Foot.upTo, if_pos (by simp [x]), if_pos (by simp [e x.1, x.2])]
    obtain ⟨r, c, p⟩ := l
    simp only [Foot.hasReg, Foot.hasCtr, Foot.hasPart, Foot.le, List.mem_append] at *
    exact ⟨fun q i y => by have := r q i; tauto, fun q i y => by have := c q i; tauto, fun q y => by have := p q; tauto⟩
  · rw [Foot.upTo, if_neg (by simpa using x)]
    exact ⟨fun r i y => (G.le_upTo b).1 r i (l.1 r i y), fun c i y => (G.le_upTo b).2.1 c i (l.2.1 c i y),
      fun p y => (G.le_upTo b).2.2 p (l.2.2 p y)⟩

/-! ### Events -/

/-- A footprint that raises events. -/
def evFoot : Foot := { events := true }

theorem ev_reg {r : Reg} {i : Nat} (h : r ∈ eventRegs) : evFoot.hasReg r i := .inr (.inr ⟨rfl, h⟩)

theorem ev_part {p : Part} (h : p ∈ eventParts) : evFoot.hasPart p := .inr ⟨rfl, h⟩

theorem within_pushRx (d : Dev) (p : Nat) (x : Frame) : d.Within (d.pushRx p x) evFoot :=
  .parts (pushRx_regs d p x) (pushRx_ctrs d p x) fun q n => by
    cases q <;> first | exact (n (ev_part (by decide))).elim | simp [Part.same, pushRx]

theorem within_sendVector (d : Dev) (n v : Nat) : d.Within (d.sendVector n v) evFoot := by
  unfold sendVector
  split
  · dsimp only
    split
    · exact .emit d (ev_part (by decide)) _
    · exact .parts rfl rfl fun q n => by
        cases q <;> first | exact (n (ev_part (by decide))).elim | simp [Part.same]
  · exact .refl d _
  · exact within_pushRx d _ _

theorem within_raiseDom (d : Dev) (s n : Nat) : d.Within (d.raiseDom s n) evFoot := by
  unfold raiseDom
  dsimp only
  split
  · split
    · exact .refl d _
    · exact (Within.wr d (ev_reg (by decide)) _).trans (within_sendVector _ _ _)
  · exact .refl d _

theorem within_raiseSet (d : Dev) (r : Reg) (s : Nat) (h : r ∈ eventRegs) : d.Within (d.raiseSet r s) evFoot :=
  .wr d (ev_reg h) _

theorem within_raiseEvent (d : Dev) (s inst info : Nat) : d.Within (d.raiseEvent s inst info) evFoot := by
  unfold raiseEvent
  extract_lets d1 d2 d3
  refine (Within.wr d (ev_reg (r := .evDetail) (i := s) (by decide)) _ : d.Within d1 evFoot).trans ?_
  refine (Within.foldl _ _ (fun d x _ => within_raiseDom d s x) _ : d1.Within d2 evFoot).trans ?_
  have key : d2.Within d3 evFoot := by
    unfold d3
    split
    · exact within_raiseSet d2 _ s (by decide)
    · exact .refl d2 _
  refine key.trans ?_
  split
  · exact within_raiseSet d3 _ s (by decide)
  · exact .refl d3 _

theorem within_logWrite (d : Dev) (b : List Byte) : d.Within (d.logWrite b) evFoot := by
  unfold logWrite
  dsimp only
  refine .trans ?_ ((Within.sf _ (ev_reg (by decide)) _).trans (Within.sf _ (ev_reg (by decide)) _))
  exact .parts rfl rfl fun q n => by
    cases q <;> first | exact (n (ev_part (by decide))).elim | simp [Part.same]

/-- What asking for leave to flush the log changes: the whole device's admission account and the list of programmings. -/
def flushFoot : Foot :=
  { arrays := [.mdPaBudget, .mdPaWait], ctrArrays := [.mdPaDenied, .mdPaDeferred], parts := [.pa, .paNext, .mg] }

theorem within_paShow (d : Dev) (a : Nat) : d.Within (d.paShow a) flushFoot := by
  have r : ∀ {r : Reg} {i : Nat}, r ∈ [Reg.mdPaBudget, .mdPaWait] → flushFoot.hasReg r i := fun h => .inr (.inl h)
  have three : ∀ (d : Dev) (i x y z : Nat),
      d.Within (((d.sf mdPaBudget_IN_USE_MW i x).sf mdPaWait_HEAD_MW i y).sf mdPaWait_DEPTH i z) flushFoot := fun d i x y z =>
    ((Within.sf d (r (by decide)) x).trans (Within.sf _ (r (by decide)) y)).trans (Within.sf _ (r (by decide)) z)
  unfold paShow
  dsimp only
  refine Within.trans ?_ (three _ _ _ _ _)
  split
  · exact Within.foldl _ _ (fun d i _ => three d i 0 0 0) d
  · exact .refl d _

theorem within_paRequest (d : Dev) (a : Nat) (who : PaFor) (cost : Nat) : d.Within (d.paRequest a who cost).2 flushFoot := by
  have c : ∀ {c : Ctr} {i : Nat}, c ∈ [Ctr.mdPaDenied, .mdPaDeferred] → flushFoot.hasCtr c i := fun h => .inr (.inl h)
  unfold paRequest
  dsimp only
  split
  · exact Within.inc d (c (by decide))
  · have k : d.Within (setAcct { d with paNext := d.paNext + 1 } a
        { d.acct a with waiting := (d.acct a).waiting ++ [⟨who, cost, d.paNext⟩] }) flushFoot := by
      unfold setAcct
      refine Within.trans (b := { d with paNext := d.paNext + 1, pa := _ }) ?_ (within_paShow _ _)
      exact .parts rfl rfl fun q n => by
        cases q <;> first | exact (n (.inl (by decide))).elim | simp [Part.same]
    dsimp only
    split
    · exact k.trans (Within.inc _ (c (by decide)))
    · exact k

theorem paShow_mg (d : Dev) (a : Nat) : (d.paShow a).mg = d.mg := by
  unfold paShow
  simp only [sf_mg]
  split <;> simp

theorem paRequest_mg (d : Dev) (a : Nat) (who : PaFor) (cost : Nat) : (d.paRequest a who cost).2.mg = d.mg := by
  unfold paRequest setAcct inc
  dsimp only
  split
  · exact setCtr_mg d _ _ _
  · split
    · exact (setCtr_mg _ _ _ _).trans (paShow_mg _ _)
    · exact paShow_mg _ _

theorem within_flashOnce (d : Dev) (op : FlashOp) : d.Within (d.flashOnce op) flushFoot := by
  unfold flashOnce flashQueue
  split
  · exact .refl d _
  · have k := within_paRequest d 0 .flash 150
    cases h : d.paRequest 0 .flash 150 with
    | mk o e =>
      rw [h] at k
      cases o with
      | none => exact k
      | some _ =>
        refine k.trans (.parts rfl rfl fun q n => ?_)
        cases q <;> first | exact (n (.inl (by decide))).elim | simp [Part.same]

theorem flush_le {d : Dev} (h : d.logOver = true) : flushFoot.le (evFoot.upTo d) := by
  rw [Foot.upTo, if_pos (by simp [evFoot, h])]
  exact ⟨fun r i x => by simp_all [Foot.hasReg, flushFoot, evFoot], fun c i x => by simp_all [Foot.hasCtr, flushFoot, evFoot],
    fun p x => by simp_all [Foot.hasPart, flushFoot, evFoot]⟩

/-- A request for leave to flush the log leaves the number of unflushed records alone. -/
theorem logOver_flashOnce (d : Dev) (op : FlashOp) : (d.flashOnce op).logOver = d.logOver := by
  have k := within_flashOnce d op
  have r : (d.flashOnce op).f mgLogStatus_UNFLUSHED 0 = d.f mgLogStatus_UNFLUSHED 0 := by
    simp only [Dev.f, k.reg _ _ (show ¬ flushFoot.hasReg mgLogStatus_UNFLUSHED.reg 0 by
      simp [Foot.hasReg, flushFoot, mgLogStatus_UNFLUSHED])]
  have b : (d.flashOnce op).mg.booted = d.mg.booted := by
    unfold flashOnce flashQueue
    split
    · rfl
    · have q := paRequest_mg d 0 .flash 150
      revert q
      cases d.paRequest 0 .flash 150 with
      | mk o e =>
        cases o <;> exact fun q : e.mg = d.mg => (show e.mg.booted = d.mg.booted from congrArg Mgmt.booted q)
  simp only [logOver, r, b]

/-- The firmware's look at the log asks for leave only where the log is over its mark. -/
theorem only_logFull (d : Dev) : d.Only d.logFull evFoot := by
  unfold logFull
  split
  · next h =>
    have o : d.logOver = true := by simp [logOver, h.1, h.2]
    exact only_iff.2 ((within_flashOnce d .log).mono (flush_le (by rw [logOver_flashOnce, o])))
  · exact (Within.refl d _).only

theorem only_logAppend (d : Dev) (b : List Byte) : d.Only (d.logAppend b) evFoot := by
  have lostK : ∀ (d : Dev) (k : Nat), d.Within { d with mg := { d.mg with lost := k } } evFoot := fun d k =>
    .parts rfl rfl fun q n => by
      cases q <;> first | exact (n (ev_part (by decide))).elim | simp [Part.same]
  have full : ∀ {a b : Dev}, a.Within b evFoot → a.Only b.logFull evFoot := fun {_ b} h => h.thenOnly (only_logFull b)
  unfold logAppend
  extract_lets n
  by_cases h : 8192 < d.f mgLogStatus_UNFLUSHED 0 + (if n = 0 then 1 else 2)
  · rw [if_pos h]
    exact (Within.trans (lostK d _) (.trans (Within.inc _ (.inr (.inr ⟨rfl, rfl⟩))) (within_raiseEvent _ _ _ _))).only
  · rw [if_neg h]
    split
    · exact full (within_logWrite d b)
    · exact full (.trans (lostK d _) (.trans (within_logWrite _ _) (within_logWrite _ _)))

/-- Raising an event changes only what events reach. -/
theorem only_raise (d : Dev) (s inst info : Nat) : d.Only (d.raise s inst info) evFoot := by
  unfold raise
  split
  · exact (Within.refl d _).only
  · dsimp only
    have k : d.Within (d.raiseEvent s inst info) evFoot := within_raiseEvent d s inst info
    split
    · exact k.only
    · split <;> first | exact k.thenOnly (only_logAppend _ _) | exact k.only

end Dev

end Sys2Proof.Machine
end

