-- ==== Sys2Proof/WellFormed.lean ====
section
/-! DEFINITION. Which terms of `Instr` stand for something that can happen. The types of the operands hold most bounds; what they
cannot hold is checked here. The meanings do not rest on it: they answer for every term. -/
namespace Sys2Proof

/-- A frame on a CAN bus (R293): its kind, and the identifier and data its kind allows. -/
def CanRx.wf (x : CanRx) : Bool :=
  match x.kind with
  | 1 => decide (x.ident < 2 ^ 29) && decide (x.data.length ≤ 8)
  | 2 => decide (x.ident < 2 ^ 29) && decide (x.data.length ≤ 64)
  | 3 => decide (x.ident < 2 ^ 11) && decide (1 ≤ x.data.length) && decide (x.data.length ≤ 2048)
      && decide (x.sdt < 256) && decide (x.vcid < 256) && decide (x.af < 2 ^ 32)
  | _ => false

/-- A response on a LIN bus (R319). -/
def LinRx.wf (x : LinRx) : Bool :=
  decide (x.ident < 64) && decide (1 ≤ x.data.length) && decide (x.data.length ≤ 8) && decide (x.err ≤ 3)

/-- A PCIe memory request has at least one byte. -/
def HostReq.wf (x : HostReq) : Bool := decide (1 ≤ x.size.toNat)

/-- LEN of a Darder request is at most 1,024 (R506). -/
def DarderReq.wf (q : DarderReq) : Bool := decide (q.payload.length ≤ 1024)

/-- A partition table names up to 16 slot pairs (R485). -/
def BootInput.wf (x : BootInput) : Bool := decide (x.table.pairs.length ≤ 16) && decide (x.copy.pairs.length ≤ 16)

/-- A message carries up to 64 bytes (R519). -/
def BlMessage.wf (x : BlMessage) : Bool := decide (x.payload.length ≤ 64)

/-- Well-formed commands. -/
def Instr.wf : Instr → Bool
  | .canFrameReceived _ x => x.wf
  | .linResponseReceived _ x => x.wf
  | .hostRead _ x => x.wf
  | .hostWrite _ x _ _ => x.wf
  | .darderIdcode q | .darderChallenge q | .darderUnlock q | .darderHalt q | .darderResume q | .darderStep q _
  | .darderBkpt q | .darderWatch q | .darderRegr q | .darderRegw q | .darderMemr q _ | .darderMemw q | .darderReset q
  | .darderRecover q | .darderStatus q => q.wf
  | .bootStart x => x.wf
  | .blMessageReceived _ x _ => x.wf
  | .paceWindow vs => decide (vs.length = 16)
  | .wireModelUpdate _ is => decide (is.length = 32)
  | .sensorSample ts mvs => decide (ts.length = 24) && decide (mvs.length = 16)
  | .recovData _ _ data => decide (1 ≤ data.length) && decide (data.length ≤ 1024)
  | .rxDeliveryClaim _ bufs => decide (1 ≤ bufs.length)
  | .txFrameCheck _ descs => decide (1 ≤ descs.length)
  | .swfFrameDecoded _ _ ide ident dlc data => (ide || decide (ident.toNat < 2 ^ 11)) && decide (data.length = if dlc.val ≤ 8 then dlc.val else 8)
  | _ => true

end Sys2Proof
end

