-- ==== Sys2Proof/Tests/Slice0.lean ====
section
/-! SUPPORT. Tests: for every statement with hypotheses a state and operands that meet them, clause by clause; and well-formedness
checks with an ill-formed operand for each. -/

set_option linter.unusedVariables false
set_option Elab.async false

open Sys2Proof Sys2Proof.Machine Sys2Proof.Machine.Dev

namespace Sys2Proof.Tests

def wit (f : Dev → Dev) : State := { dev := f {} }

/-- Unit `u` in state `st`. -/
def witUnit (u st : Nat) : State := wit fun d => d.sf unitState_STATE u st

/-- Unit `u` in state `st` with its command `cmd` running. -/
def witOp (u st cmd : Nat) : State :=
  wit fun d => ((d.sf unitState_STATE u st).sf unitCmdStatus_BUSY u 1).setOps [⟨u, cmd, 0, 7, 0, [(u, st)], [u]⟩]

/-- Transaction `t` is open in phase `ph`. -/
def witTxn (t : Txn) (ph : Nat) (f : Dev → Dev := id) : State :=
  wit fun d => f ((d.setTxn (some t)).wr .epStatus 0 (BitVec.ofNat 32 (2 ^ 31 + ph)))

/-- Account `a` holds `x`. -/
def witAcct (a : Nat) (x : PaAcct) (mw : Nat) : State := wit fun d => ((d.sf mdPaBudget_BUDGET_MW (d.paEntry a) mw).setAcct a x)

/-- A thread of engine 0 that runs set slot 0 with registers `r`. -/
def witThr (r : RegFile) (f : Dev → Dev := id) : State :=
  wit fun d => f (({ d with eng := { d.eng with sets := Sparse.set setDefault d.eng.sets 0 { codeWords := 64, entries := List.replicate 256 (2 ^ 31 + 5) } } }).setThr 0 0
    { st := .ready, budget := 100, rf := r, out := List.replicate 100 7, fwBase := 0, src := { bytes := List.replicate 100 7 } })

/-- Registers 2, 3 and 4 hold values. -/
def witRegs (a b c : Word64) : RegFile := ((({} : RegFile).put 2 a).put 3 b).put 4 c

/-- Key slot 0 valid, of the device itself, for both directions of the general class on every pool. -/
def witKey (d : Dev) : Dev :=
  (List.range 12).foldl (fun d n => d.sf unitState_STATE (uAc n) 2)
    ((d.wr .ksSlotAttr 0 (BitVec.ofNat 32 (2 ^ 31 + 17 * 2 ^ 26 + 3 * 2 ^ 24 + 2 ^ 17 + 15 * 2 ^ 13))).sf cxPageCfg_POOLS 17 15)

/-- Core 0 at the start of its ROM, with `f` applied to it. -/
def witMc (f : McCore → McCore) : State := wit fun d => d.setMc 0 (f (d.mcCore 0))

/-- Thread 0 of engine 0 is ready with token 1 busy with `o`. -/
def witTok (o : TokOp) (f : Dev → Dev := id) : State := witThr (({} : RegFile).setTok 1 { busy := true, op := some o }) f

/-- The SRAM holds at 0 the image of a set of one word of code, number 9, version 3. -/
def witImg (f : Dev → Dev := id) : State :=
  wit fun d =>
    let m := memSet [] 0 (leBytes 4 0x50534F52 ++ leBytes 2 1 ++ leBytes 2 1 ++ leBytes 2 9 ++ leBytes 2 0 ++ leBytes 4 3)
    f { d with eng := { d.eng with sram := memSet m 0x14 (leBytes 4 1) } }

/-- A frame of 60 zeros. -/
def witFrame : Frame := { bytes := List.replicate 60 0 }

/-- TbData of interface 0 holds `e`, and table `t` the entries `ents`. -/
def witTb (t e : Nat) (ents : Sparse Nat) (f : Dev → Dev := id) : State :=
  wit fun d => f ((d.tbDataOut 0 t e).setTb t { (d.tb t) with cur := { ents := ents } })

/-- Queue 0 of port 33 holds one frame of one cell, group 5. -/
def witQ (f : Dev → Dev := id) : State :=
  wit fun d => f ((d.setGrp 5 ⟨1, 1⟩).setQueue (qNo 33 0) [{ f := { witFrame with grp := 5 }, cells := 1 }])

/-- Ring 256 (of the management cores) is enabled with 64 descriptors, 16 of each kind posted, and holds `x` and `y`. -/
def witRing (x : RxRing := {}) (y : TxRing := {}) (f : Dev → Dev := id) : State :=
  wit fun d => f ((((((d.wr .hrRxCfg 256 0x80600000).wr .hrTxCfg 256 0x80600000).sf hrRxTail_TAIL 256 16).sf hrTxTail_TAIL 256 16).setRx 256 x).setTx 256 y)

/-- Port 2 has its link up and holds `x` beside its registers. -/
def witEth (x : EthPort) (f : Dev → Dev := id) : State :=
  wit fun d => f ((((d.sf ethMacCfg_TX_EN 2 1).sf ethMacCfg_RX_EN 2 1).sf ethLinkStatus_LINK 2 1).setEth 2 x)

/-- The BW die in RUN with an image and its link up. -/
def witBw (d : Dev) : Dev :=
  let d := (d.sf unitState_STATE uBw 2).sf bwLinkStatus_UP 3 1
  { d with mg := { d.mg with runs := [⟨unitClass uBw, 0, 4, 0, 0, 0, []⟩] } }

/-- CAN channel 3 in protocol state `st`, holding `x`. -/
def witCan (st : Nat) (x : CanChan := {}) (f : Dev → Dev := id) : State :=
  wit fun d => f ({ d with bus := { d.bus with can := Sparse.set canDefault d.bus.can 3 x } }.sf canErr_STATE 3 st)

/-- LIN channel 2 in service, holding `x`. -/
def witLin (x : LinChan) (f : Dev → Dev := id) : State :=
  wit fun d => f ((witBw (d.sf unitState_STATE (uLin 2) 2)).setLin 2 x)

/-- Trigger 5, enabled, holds `x`. -/
def witTrig (x : Trig) (f : Dev → Dev := id) : State := wit fun d => f ((d.setTrig 5 x).sf tmTtCtl_EN 5 1)

/-- Page 3 in service, holding `x`. -/
def witPage (x : CxUser) (f : Dev → Dev := id) : State :=
  wit fun d => f ((d.sf unitState_STATE (uPage 3) 2).setUser 3 x)
/-- A job of 16 bytes. -/
def witJob : CxJob :=
  { no := 0, id := 7, ctx := 0, decrypt := false, init := true, final := true, ring := 0, src := 0, len := 16, outLen := 0, tag := 0, aad := 0 }

/-- Die 0 runs its image and has reported; channel `n` holds `c`. -/
def witLoad (n : Nat) (c : LdCh) (f : Dev → Dev := id) : State :=
  wit fun d => f { d with
    load := { d.load with ch := Sparse.set ldDefault [] n c, reported := Sparse.set (fun _ => false) [] 0 true },
    mg := { d.mg with runs := [⟨0x3B, 0, 0, 0, 0, 0, []⟩] } }
/-- A gang of four on channels 4 to 7, with a profile of one phase, an account and a supply. -/
def witGang (c : LdCh) (f : Dev → Dev := id) : State :=
  witLoad 4 c fun d => f ((((((d.wr .pdGang 0 0x00020000).sf ldCfg_PROFILE 4 0).wr .pdProfile 0 0x04018032).sf pdVbat_MV 0 12000).sf pdAdmit_WINDOW_MS 0 100).sf pdStatus_LINK 0 1)

/-- Initiator `n` may read and write the pages that the tests below use. -/
def witPermOf (n : Nat) (d : Dev) : Dev :=
  [0, 3, 6, 0x44].foldl (fun d k => d.wr .hbPerm (256 * n + k) 0xFFFFFFFF) d
def witPerm : Dev → Dev := witPermOf 5
def witPerm8 : Dev → Dev := witPermOf 8

/-- Domain 8, bound to PCIe, answers requests. -/
def witHost (f : Dev → Dev := id) : State := wit fun d => f (d.setFn 8 { mse := true })
/-- Four bytes at an offset of BAR0. -/
def witAt (off : BitVec 24) (bar2 : Bool := false) : HostReq := { bar2 := bar2, off := off, size := 4, full := true }
/-- Window `w` holds one write of domain 8. -/
def witFar (w off : Nat) (f : Dev → Dev := id) : State := witHost fun d => f (d.setFarQueue w [⟨8, 3, off, 9, .posted, false⟩])
/-- Domain 8, bound to Ethernet host 0, holds a request of type `typ` with number `seq`. -/
def witCoe (typ seq : Nat) (p : List Byte) (f : Dev → Dev := id) : State :=
  wit fun d => f ((d.sf hbDomBind_BIND 8 1).setCoe 8 {
    reqs := [[1, byteOf typ, 8, 0] ++ beBytes 2 seq ++ beBytes 2 p.length ++ [0, 0, 0, 0] ++ p], next := some 4 })

/-- Pair `k` in state `st`. -/
def witPair (k st : Nat) (f : Dev → Dev := id) : State := wit fun d => f (d.sf lsPair_STATE k st)

/-- Command `cmd` runs on mailbox page `n`. -/
def witMbox (n cmd : Nat) (f : Dev → Dev := id) : State := wit fun d => f ((d.sf mgMboxStatus_BUSY n 1).sf mgMboxCmd_CMD n cmd)
/-- Bus Master of function `n` is on. -/
def bindOn (n : Nat) (d : Dev) : Dev := d.setFn n { d.fn n with bme := true }
/-- ATTEST runs on page 3 with room for the report. -/
def witAttest : State := witMbox 3 2 fun d => bindOn 3 ((d.sf mgMboxLen_LEN 3 65536).sf mgLifecycle_STATE 0 1)
/-- A boot with nothing in its partition table. -/
def witBoot : BootInput :=
  { table := ⟨0, 0, []⟩, copy := ⟨0, 0, []⟩, readErr := [], settings := [], expect := 0, online := [], entropy := true, fuseA := true, fuseB := true }
/-- A recovery station, which sends to the ROM's port. -/
def witPeer : RecovPeer := ⟨0x021F3D000009, 0xA9FE0009, 5000, 6976⟩
/-- The device in recovery. -/
def witRecov (f : Dev → Dev := id) : State := wit fun d => f (d.sf mgBootStatus_RECOVERY 0 1)

/-- A request of command `cmd` for target `tgt`. -/
def witReq (tgt : Nat) (sub : Nat := 0) (addr : Word := 0) (p : List Byte := []) (ok : Bool := true) (cmd : Nat := 4) : DarderReq :=
  let q : DarderReq :=
    { cmd := BitVec.ofNat 8 cmd, tag := 7, target := BitVec.ofNat 8 tgt, sub := BitVec.ofNat 8 sub, addr := addr, payload := p, crc := 0 }
  { q with crc := BitVec.ofNat 16 (darderCrc (darderBytes q) + if ok then 0 else 1) }
/-- Pair 1 is SPLIT and engine 2 halted. -/
def witHalt (f : Dev → Dev := id) : State := wit fun d => f ((d.sf lsPair_STATE 1 0).haltNow 2 1)

/-- A message with sequence number 3. -/
def witMessage : BlMessage := { seq := 3, payload := [1, 2], crc := BitVec.ofNat 32 (crcRange crc32c 0xFFFFFFFF [3, 1, 2] ^^^ 0xFFFFFFFF) }
/-- A far write of domain 3. -/
def witFarLost : FarWrite := { dom := 3, seq := 0, off := (regOff .ldWire 70).getD 0, value := 5 }
def witStraps : Straps := { recovery := true, sris0 := true, sris1 := false, ethOwner := true, avs := 2 }
/-- PWR_GOOD is low. -/
def witHeld : State := wit fun d => d.pwrGoodFall

/-- The request of `who` waits at the head of account `a`. -/
def witAsk (a : Nat) (who : PaFor) (cost : Nat) (f : Dev → Dev := id) : State :=
  wit fun d => f ((d.sf mdPaBudget_BUDGET_MW (d.paEntry a) 900).setAcct a { waiting := [⟨who, cost, 5⟩] })
/-- A thread that waits for a LEAVE with handle 5 in its token 2. -/
def witLeave : State :=
  witAsk 1 (.token 12 2) 30 fun d => (d.setThr 3 0 { d.thr 3 0 with st := .ready }).setRf (hartOf 12) ((d.rf (hartOf 12)).setTok 2 { busy := true, op := some (.leave 7 5) })

/-- The hypotheses of StepTakesTheFrontCommand are met, clause by clause. -/
theorem test_hyps_StepTakesTheFrontCommand :
    (∃ (s : State), (s.pending = []) ∧ s.On ∧ ((List.range 8).all (fun k => !s.dev.plcaLeads (12 + k)) = true)) ∧
    (∃ (s : State), (s.pending = []) ∧ s.dev.mg.held = true) :=
  ⟨⟨(State.reset : State), by decide +kernel, by rfl, by decide +kernel⟩,
   ⟨(wit fun d => { d with mg := { d.mg with held := true } } : State), by decide +kernel⟩⟩

/-- The hypotheses of RegisterWriteEffects are met, clause by clause. -/
theorem test_hyps_RegisterWriteEffects :
    (∃ (s : State) (init : Initiator) (off : BitVec 24) (u : Nat) (i : Nat) (r : Reg), s.On ∧ unitAt off.toNat = some u ∧ inWindow off.toNat = false ∧ regAt off.toNat = some (r, i) ∧ (r ∈ plainRegs) ∧ regRsv r i = false ∧ (init = 16 ∨ mgClosed off.toNat = false) ∧ s.dev.mayWrite init off.toNat = true) ∧
    (∃ (s : State) (init : Initiator) (off : BitVec 24), s.On ∧ unitAt off.toNat = none ∧ s.dev.mayWrite init off.toNat = true) ∧
    (∃ (s : State) (init : Initiator) (off : BitVec 24) (u : Nat) (i : Nat) (r : Reg), s.On ∧ unitAt off.toNat = some u ∧ inWindow off.toNat = false ∧ regAt off.toNat = some (r, i) ∧ writable r = false ∧ regRsv r i = false ∧ unitKind u ≠ .page ∧ (init = 16 ∨ mgClosed off.toNat = false) ∧ s.dev.mayWrite init off.toNat = true) ∧
    (∃ (s : State) (init : Initiator) (off : BitVec 24), s.On ∧ s.dev.mayWrite init off.toNat = false ∧ ((regAt off.toNat).map (·.1) ≠ some .unitCmd) ∧ ((regAt off.toNat).map (·.1) ≠ some .hbDomBind)) :=
  ⟨⟨(State.reset : State), (0 : Initiator), (BitVec.ofNat 24 ((regOff .tmDomArg 3).getD 0) : BitVec 24), (uTm : Nat), (3 : Nat), (.tmDomArg : Reg), by rfl, by decide +kernel⟩,
   ⟨(State.reset : State), (0 : Initiator), (0x0FF000 : BitVec 24), by rfl, by decide +kernel⟩,
   ⟨(State.reset : State), (16 : Initiator), (BitVec.ofNat 24 ((regOff .epCur 0).getD 0) : BitVec 24), (uEp : Nat), (0 : Nat), (.epCur : Reg), by rfl, by decide +kernel⟩,
   ⟨(State.reset : State), (3 : Initiator), (BitVec.ofNat 24 ((regOff .epCtl 0).getD 0) : BitVec 24), by rfl, by decide +kernel⟩⟩

/-- The hypotheses of FieldsStoreByAccessCode are met, clause by clause. -/
theorem test_hyps_FieldsStoreByAccessCode :
    (∃ (s : State) (init : Initiator) (off : BitVec 24) (v : Word) (r : Reg) (i : Nat) (u : Nat) (b : Nat) (x : FieldRow), s.On ∧ s.dev.mayWrite init off.toNat = true ∧ unitAt off.toNat = some u ∧ inWindow off.toNat = false ∧ regAt off.toNat = some (r, i) ∧ regRsv r i = false ∧ writable r = true ∧ (init = 16 ∨ mgClosed off.toNat = false) ∧ s.dev.storesOnly init r i = true ∧ (s.dev.regTaken r i u v.toNat (2 ^ 32 - 1) = true) ∧ (r ∉ roundedRegs) ∧ (x ∈ r.fields) ∧ x.lo ≤ b ∧ b ≤ x.hi) ∧
    (∃ (s : State) (init : Initiator) (off : BitVec 24) (n : Fin 24), s.On ∧ s.dev.mayWrite init off.toNat = true ∧ regOff .linSchedCtl n = some off.toNat) ∧
    (∃ (s : State) (init : Initiator) (off : BitVec 24), s.On ∧ s.dev.mayWrite init off.toNat = true ∧ regOff .mgHashCtl 0 = some off.toNat ∧ init = 16 ∧ s.dev.f mgHashCtl_BUSY 0 = 0) ∧
    (∃ (s : State) (init : Initiator) (off : BitVec 24) (v : Word) (n : Fin 48), s.On ∧ s.dev.mayWrite init off.toNat = true ∧ regOff .canCtl n = some off.toNat ∧ bitAt 27 v.toNat = true) ∧
    (∃ (s : State) (init : Initiator) (off : BitVec 24) (n : Fin 17), s.On ∧ s.dev.mayWrite init off.toNat = true ∧ regOff .mgMboxCmd n = some off.toNat ∧ s.dev.f mgMboxStatus_BUSY n = 0) :=
  ⟨⟨(wit fun d => d.wr .evPinStatus 3 0xFFFFFFFF : State), (0 : Initiator), (BitVec.ofNat 24 ((regOff .evPinStatus 3).getD 0) : BitVec 24), (BitVec.ofNat 32 (2 ^ 32 - 1 - 2 ^ 29) : Word), (.evPinStatus : Reg), (3 : Nat), (uEv : Nat), (29 : Nat), (⟨31, 0, .w1c, 0⟩ : FieldRow), by rfl, by decide +kernel⟩,
   ⟨(wit fun d => d.sf linSchedStatus_RUNNING 3 1 : State), (0 : Initiator), (BitVec.ofNat 24 ((regOff .linSchedCtl 3).getD 0) : BitVec 24), (3 : Fin 24), by rfl, by decide +kernel⟩,
   ⟨(State.reset : State), (16 : Initiator), (BitVec.ofNat 24 ((regOff .mgHashCtl 0).getD 0) : BitVec 24), by rfl, by decide +kernel⟩,
   ⟨(State.reset : State), (0 : Initiator), (BitVec.ofNat 24 ((regOff .canCtl 3).getD 0) : BitVec 24), (0x08000000 : Word), (3 : Fin 48), by rfl, by decide +kernel⟩,
   ⟨(State.reset : State), (16 : Initiator), (BitVec.ofNat 24 ((regOff .mgMboxCmd 3).getD 0) : BitVec 24), (3 : Fin 17), by rfl, by decide +kernel⟩⟩

/-- The hypotheses of LeafCommandsAndRefusals are met, clause by clause. -/
theorem test_hyps_LeafCommandsAndRefusals :
    (∃ (s : State) (u : Fin 349) (init : Initiator), s.On ∧ s.dev.watchQuiet = true ∧ s.dev.mayWrite init (unitBase u + 8) = true ∧ s.dev.f unitCmdStatus_BUSY u = 1) ∧
    (∃ (s : State) (u : Fin 349) (init : Initiator), s.On ∧ s.dev.watchQuiet = true ∧ s.dev.mayWrite init (unitBase u + 8) = true ∧ s.dev.f unitCmdStatus_BUSY u = 0) ∧
    (∃ (s : State) (u : Fin 349) (init : Initiator), s.On ∧ s.dev.watchQuiet = true ∧ s.dev.mayWrite init (unitBase u + 8) = false ∧ s.dev.f unitCmdStatus_BUSY u = 0) ∧
    (∃ (s : State) (u : Fin 349) (init : Initiator), s.On ∧ s.dev.watchQuiet = true ∧ s.dev.mayWrite init (unitBase u + 8) = true ∧ s.dev.f unitCmdStatus_BUSY u = 0 ∧ accepts u 5 = false) ∧
    (∃ (s : State) (u : Fin 349) (init : Initiator), s.On ∧ s.dev.mayWrite init (unitBase u + 8) = true ∧ s.dev.f unitCmdStatus_BUSY u = 0 ∧ s.dev.phase ≠ phWaiting ∧ unitIsGroup u = false ∧ (s.dev.withPair u = [u.val]) ∧ s.dev.opOf u = none ∧ accepts u 1 = true ∧ s.dev.f unitState_STATE u = 2 ∧ (s.dev.drained u = false ∨ drainsOnWire u = true)) ∧
    (∃ (s : State) (u : Fin 349) (init : Initiator), s.On ∧ s.dev.mayWrite init (unitBase u + 8) = true ∧ s.dev.f unitCmdStatus_BUSY u = 0 ∧ s.dev.phase ≠ phWaiting ∧ unitIsGroup u = false ∧ (s.dev.withPair u = [u.val]) ∧ s.dev.opOf u = none ∧ accepts u 1 = true ∧ s.dev.f unitState_STATE u = 2 ∧ s.dev.drained u = true ∧ drainsOnWire u = false) ∧
    (∃ (s : State) (u : Fin 349) (init : Initiator), s.On ∧ s.dev.mayWrite init (unitBase u + 8) = true ∧ s.dev.f unitCmdStatus_BUSY u = 0 ∧ s.dev.phase ≠ phWaiting ∧ unitIsGroup u = false ∧ (s.dev.withPair u = [u.val]) ∧ s.dev.opOf u = none ∧ accepts u 2 = true ∧ s.dev.f unitState_STATE u = 3) ∧
    (∃ (s : State) (u : Fin 349) (init : Initiator), s.On ∧ s.dev.mayWrite init (unitBase u + 8) = true ∧ s.dev.f unitCmdStatus_BUSY u = 0 ∧ s.dev.phase ≠ phWaiting ∧ unitIsGroup u = false ∧ (s.dev.withPair u = [u.val]) ∧ s.dev.opOf u = none ∧ accepts u 8 = true ∧ (s.dev.f unitState_STATE u = 3 ∨ s.dev.f unitState_STATE u = 5)) ∧
    (∃ (s : State) (u : Fin 349) (init : Initiator), s.On ∧ s.dev.mayWrite init (unitBase u + 8) = true ∧ s.dev.f unitCmdStatus_BUSY u = 0 ∧ s.dev.phase ≠ phWaiting ∧ unitIsGroup u = false ∧ (s.dev.withPair u = [u.val]) ∧ s.dev.opOf u = none ∧ accepts u 7 = true ∧ (s.dev.f unitState_STATE u = 2 ∨ s.dev.f unitState_STATE u = 3) ∧ (¬ (unitKind u = .ac ∧ s.dev.coreBusy (unitInst u) = true))) :=
  ⟨⟨(witOp 25 2 1 : State), (25 : Fin 349), (0 : Initiator), by rfl, by decide +kernel⟩,
   ⟨(State.reset : State), (25 : Fin 349), (0 : Initiator), by rfl, by decide +kernel⟩,
   ⟨(State.reset : State), (25 : Fin 349), (3 : Initiator), by rfl, by decide +kernel⟩,
   ⟨(State.reset : State), (7 : Fin 349), (0 : Initiator), by rfl, by decide +kernel⟩,
   ⟨(wit fun d => (d.sf unitState_STATE 45 2).setCan 0 { cur := some 1 } : State), (45 : Fin 349), (0 : Initiator), by rfl, by decide +kernel⟩,
   ⟨(witUnit 120 2 : State), (120 : Fin 349), (0 : Initiator), by rfl, by decide +kernel⟩,
   ⟨(witUnit 25 3 : State), (25 : Fin 349), (0 : Initiator), by rfl, by decide +kernel⟩,
   ⟨(witUnit 25 5 : State), (25 : Fin 349), (0 : Initiator), by rfl, by decide +kernel⟩,
   ⟨(witUnit 120 3 : State), (120 : Fin 349), (0 : Initiator), by rfl, by decide +kernel⟩⟩

/-- The hypotheses of LeafCommandsStartWork are met, clause by clause. -/
theorem test_hyps_LeafCommandsStartWork :
    (∃ (s : State) (u : Fin 349) (init : Initiator), s.On ∧ s.dev.mayWrite init (unitBase u + 8) = true ∧ s.dev.f unitCmdStatus_BUSY u = 0 ∧ s.dev.phase ≠ phWaiting ∧ unitIsGroup u = false ∧ (s.dev.withPair u = [u.val]) ∧ s.dev.opOf u = none ∧ unitClass u ≠ 0x30 ∧ s.dev.f unitState_STATE u = 3) ∧
    (∃ (s : State) (u : Fin 349) (init : Initiator), s.On ∧ s.dev.mayWrite init (unitBase u + 8) = true ∧ s.dev.f unitCmdStatus_BUSY u = 0 ∧ s.dev.phase ≠ phWaiting ∧ unitIsGroup u = false ∧ (s.dev.withPair u = [u.val]) ∧ s.dev.opOf u = none ∧ unitKind u = .eth ∧ s.dev.f unitState_STATE u = 3 ∧ 250 ≤ s.dev.paBudget 0 ∧ (s.dev.acct 0).waiting.length < 64) ∧
    (∃ (s : State) (u : Fin 349) (init : Initiator), s.On ∧ s.dev.mayWrite init (unitBase u + 8) = true ∧ s.dev.f unitCmdStatus_BUSY u = 0 ∧ s.dev.phase ≠ phWaiting ∧ unitIsGroup u = false ∧ (s.dev.withPair u = [u.val]) ∧ s.dev.opOf u = none ∧ accepts u 5 = true ∧ unitClass u ≠ 0x3C ∧ (s.dev.f unitState_STATE u = 3 ∨ s.dev.f unitState_STATE u = 5)) ∧
    (∃ (s : State) (u : Fin 349) (init : Initiator), s.On ∧ s.dev.mayWrite init (unitBase u + 8) = true ∧ s.dev.f unitCmdStatus_BUSY u = 0 ∧ s.dev.phase ≠ phWaiting ∧ unitIsGroup u = false ∧ (s.dev.withPair u = [u.val]) ∧ s.dev.opOf u = none ∧ unitClass u = 0x30 ∧ (s.dev.f unitState_STATE u = 3 ∨ s.dev.f unitState_STATE u = 5) ∧ s.dev.buf.rowOut = none ∧ s.dev.spareRow ≠ none) ∧
    (∃ (s : State) (u : Fin 349) (init : Initiator), s.On ∧ s.dev.mayWrite init (unitBase u + 8) = true ∧ s.dev.f unitCmdStatus_BUSY u = 0 ∧ s.dev.phase ≠ phWaiting ∧ unitIsGroup u = false ∧ (s.dev.withPair u = [u.val]) ∧ s.dev.opOf u = none ∧ unitClass u = 0x3C ∧ (s.dev.f unitState_STATE u = 3 ∨ s.dev.f unitState_STATE u = 5)) ∧
    (∃ (s : State) (u : Fin 349) (init : Initiator), s.On ∧ s.dev.mayWrite init (unitBase u + 8) = true ∧ s.dev.f unitCmdStatus_BUSY u = 0 ∧ s.dev.phase ≠ phWaiting ∧ unitIsGroup u = false ∧ (s.dev.withPair u = [u.val]) ∧ s.dev.opOf u = none ∧ accepts u 9 = true ∧ s.dev.f unitState_STATE u = 0 ∧ s.dev.ep.txn = none) :=
  ⟨⟨(witUnit 120 3 : State), (120 : Fin 349), (0 : Initiator), by rfl, by decide +kernel⟩,
   ⟨(wit fun d => (d.sf unitState_STATE 25 3).sf mdPaBudget_BUDGET_MW 0 900 : State), (25 : Fin 349), (0 : Initiator), by rfl, by decide +kernel⟩,
   ⟨(witUnit 25 3 : State), (25 : Fin 349), (0 : Initiator), by rfl, by decide +kernel⟩,
   ⟨(witUnit 186 5 : State), (186 : Fin 349), (0 : Initiator), by rfl, by decide +kernel⟩,
   ⟨(witUnit 342 5 : State), (342 : Fin 349), (0 : Initiator), by rfl, by decide +kernel⟩,
   ⟨(State.reset : State), (25 : Fin 349), (0 : Initiator), by rfl, by decide +kernel⟩⟩

/-- The hypotheses of UnitWorkAndFaults are met, clause by clause. -/
theorem test_hyps_UnitWorkAndFaults :
    (∃ (s : State) (u : Fin 349) (o : UnitOp), s.On ∧ unitIsGroup u = false ∧ (s.dev.withPair u = [u.val]) ∧ s.dev.opOf u = some o ∧ o.unit = u ∧ (o.wait = [u.val]) ∧ o.cmd = 1 ∧ s.dev.f unitState_STATE u = 2 ∧ s.dev.f unitState_DRAINING u = 1 ∧ s.dev.drained u = true) ∧
    (∃ (s : State) (u : Fin 349) (o : UnitOp), s.On ∧ unitIsGroup u = false ∧ (s.dev.withPair u = [u.val]) ∧ s.dev.opOf u = some o ∧ o.unit = u ∧ (o.wait = [u.val]) ∧ o.cmd = 1 ∧ s.dev.f unitState_STATE u = 2 ∧ s.dev.f unitState_DRAINING u = 1) ∧
    (∃ (s : State) (u : Fin 349) (o : UnitOp), s.On ∧ unitIsGroup u = false ∧ (s.dev.withPair u = [u.val]) ∧ s.dev.opOf u = some o ∧ o.unit = u ∧ (o.wait = [u.val]) ∧ checksImage u o.cmd = false ∧ o.cmd ≠ 6 ∧ s.dev.opAt u = some o ∧ (s.dev.parts u o.cmd = [u.val]) ∧ s.dev.f unitState_STATE u = 4) ∧
    (∃ (s : State) (u : Fin 349) (o : UnitOp), s.On ∧ unitIsGroup u = false ∧ (s.dev.withPair u = [u.val]) ∧ s.dev.opOf u = some o ∧ o.unit = u ∧ (o.wait = [u.val]) ∧ unitKind u = .eng ∧ o.cmd = 6 ∧ s.dev.opAt u = some o ∧ (s.dev.parts u 6 = [u.val]) ∧ s.dev.f unitState_STATE u = 4 ∧ s.dev.lowestBit .idFeFree 3 = none) ∧
    (∃ (s : State) (u : Fin 349), s.On ∧ s.dev.phase ≠ phWaiting ∧ unitKind u ≠ .ac ∧ unitIsGroup u = false ∧ (s.dev.withPair u = [u.val]) ∧ s.dev.f unitState_STATE u ≠ 0 ∧ s.dev.opOf u = none) ∧
    (∃ (s : State) (u : Fin 349), s.On ∧ s.dev.phase ≠ phWaiting ∧ unitKind u ≠ .ac ∧ (unitIsGroup u = true ∨ s.dev.f unitState_STATE u = 0)) ∧
    (∃ (s : State) (u : Fin 349), s.On ∧ s.dev.phase ≠ phWaiting ∧ unitKind u = .ac) ∧
    (∃ (s : State) (row : Nat) (n : Nat), s.On ∧ s.dev.phase ≠ phWaiting ∧ s.dev.buf.rowOut = some (row, false) ∧ (s.dev.buf.rowWait = []) ∧ row < 1024 ∧ s.dev.spareRow = some n) ∧
    (∃ (s : State), s.On ∧ s.dev.phase ≠ phWaiting ∧ s.dev.buf.rowOut = none) :=
  ⟨⟨(wit fun d => (((d.sf unitState_STATE 25 2).sf unitState_DRAINING 25 1).sf unitCmdStatus_BUSY 25 1).setOps [⟨25, 1, 0, 7, 0, [(25, 2)], [25]⟩] : State), (25 : Fin 349), (⟨25, 1, 0, 7, 0, [(25, 2)], [25]⟩ : UnitOp), by rfl, by decide +kernel⟩,
   ⟨(wit fun d => (((d.sf unitState_STATE 25 2).sf unitState_DRAINING 25 1).sf unitCmdStatus_BUSY 25 1).setOps [⟨25, 1, 0, 7, 0, [(25, 2)], [25]⟩] : State), (25 : Fin 349), (⟨25, 1, 0, 7, 0, [(25, 2)], [25]⟩ : UnitOp), by rfl, by decide +kernel⟩,
   ⟨(witOp 25 4 4 : State), (25 : Fin 349), (⟨25, 4, 0, 7, 0, [(25, 4)], [25]⟩ : UnitOp), by rfl, by decide +kernel⟩,
   ⟨(wit fun d => (((((d.sf unitState_STATE 120 4).wr .idFeFree 0 0).wr .idFeFree 1 0).wr .idFeFree 2 0).sf unitCmdStatus_BUSY 120 1).setOps [⟨120, 6, 0, 7, 0, [(120, 3)], [120]⟩] : State), (120 : Fin 349), (⟨120, 6, 0, 7, 0, [(120, 3)], [120]⟩ : UnitOp), by rfl, by decide +kernel⟩,
   ⟨(witUnit 120 2 : State), (120 : Fin 349), by rfl, by decide +kernel⟩,
   ⟨(State.reset : State), (120 : Fin 349), by rfl, by decide +kernel⟩,
   ⟨(State.reset : State), (195 : Fin 349), by rfl, by decide +kernel⟩,
   ⟨(wit fun d => d.rowOutStart 5 false : State), (5 : Nat), (0 : Nat), by rfl, by decide +kernel⟩,
   ⟨(State.reset : State), by rfl, by decide +kernel⟩⟩

/-- The hypotheses of StagingAndTargets are met, clause by clause (part 1). -/
theorem test_hyps_StagingAndTargets_1 :
    (∃ (s : State) (init : Initiator) (n : Fin 1024) (w : Fin 4), s.On ∧ s.dev.may init (stageReg w) n = true ∧ s.dev.ep.txn ≠ none) ∧
    (∃ (s : State) (init : Initiator) (n : Fin 1024) (w : Fin 4), s.On ∧ s.dev.may init (stageReg w) n = true ∧ s.dev.ep.txn = none) ∧
    (∃ (s : State) (init : Initiator) (count : BitVec 11), s.On ∧ s.dev.may init .epCmd 0 = true ∧ s.dev.ep.txn = none ∧ count ≠ 0 ∧ count.toNat ≤ 1024 ∧ ((List.range count.toNat).all (fun n => s.dev.f epStageEntryCtl_WRITER n == init.val) = true)) ∧
    (∃ (s : State) (init : Initiator) (count : BitVec 11), s.On ∧ s.dev.may init .epCmd 0 = true ∧ s.dev.ep.txn = none ∧ count ≠ 0 ∧ count.toNat ≤ 1024 ∧ ((List.range count.toNat).any (fun n => s.dev.f epStageEntryCtl_WRITER n != init.val) = true)) ∧
    (∃ (s : State) (init : Initiator) (count : BitVec 11), s.On ∧ s.dev.may init .epCmd 0 = true ∧ (s.dev.ep.txn ≠ none ∨ count = 0 ∨ 1024 < count.toNat)) ∧
    (∃ (s : State) (t : Txn) (u : Fin 349), s.On ∧ s.dev.ep.txn = some t ∧ (s.dev.stagedWith u = []) ∧ s.dev.f epStatus_PHASE 0 = 1 ∧ (u.val ∈ t.waiting) ∧ (t.waiting.filter (· != u.val) ≠ []) ∧ s.dev.targetRefusal t u = 0 ∧ unitIsGroup u = false) :=
  ⟨⟨(witTxn { kind := .stage, holder := 0 } 1 : State), (0 : Initiator), (5 : Fin 1024), (1 : Fin 4), by rfl, by decide +kernel⟩,
   ⟨(State.reset : State), (0 : Initiator), (5 : Fin 1024), (3 : Fin 4), by rfl, by decide +kernel⟩,
   ⟨(wit fun d => (d.wr .epStageEntryMask 0 7) : State), (0 : Initiator), (1 : BitVec 11), by rfl, by decide +kernel⟩,
   ⟨(State.reset : State), (16 : Initiator), (2 : BitVec 11), by rfl, by decide +kernel⟩,
   ⟨(State.reset : State), (0 : Initiator), (0 : BitVec 11), by rfl, by decide +kernel⟩,
   ⟨(witTxn { waiting := [25, 26] } 1 fun d => d.sf unitState_STATE 25 2 : State), ({ waiting := [25, 26] } : Txn), (25 : Fin 349), by rfl, by decide +kernel⟩⟩

/-- The hypotheses of StagingAndTargets are met, clause by clause (part 2). -/
theorem test_hyps_StagingAndTargets_2 :
    (∃ (s : State) (t : Txn) (u : Fin 349), s.On ∧ s.dev.ep.txn = some t ∧ s.dev.f epStatus_PHASE 0 = 1 ∧ (u.val ∈ t.waiting) ∧ (t.waiting.filter (· != u.val) ≠ []) ∧ s.dev.targetRefusal t u = 0 ∧ unitIsGroup u = false) ∧
    (∃ (s : State) (t : Txn) (u : Fin 349), s.On ∧ s.dev.ep.txn = some t ∧ t.kind = .stage ∧ (s.dev.ep.waiting = []) ∧ s.dev.f epStatus_PHASE 0 = 1 ∧ (t.waiting = [u.val]) ∧ (t.staged = []) ∧ t.refused = none ∧ s.dev.targetRefusal t u ≠ 0) ∧
    (∃ (s : State) (t : Txn), s.On ∧ s.dev.ep.txn = some t ∧ t.kind = .stage ∧ (s.dev.ep.waiting = []) ∧ s.dev.f epStatus_PHASE 0 = 1) ∧
    (∃ (s : State) (t : Txn), s.On ∧ s.dev.ep.txn = some t ∧ t.kind = .stage ∧ (s.dev.ep.waiting = []) ∧ s.dev.f epStatus_PHASE 0 = 3) ∧
    (∃ (s : State) (t : Txn) (init : Initiator), s.On ∧ s.dev.ep.txn = some t ∧ s.dev.may init .epCmd 0 = true ∧ t.kind = .stage ∧ (s.dev.ep.waiting = []) ∧ t.issued = false ∧ (init.val = t.holder ∨ init = 16) ∧ ((∀ c ∈ List.range 8, ∀ x ∈ List.range 4, s.dev.slotState c x ≠ slDraining))) ∧
    (∃ (s : State) (t : Txn) (init : Initiator), s.On ∧ s.dev.ep.txn = some t ∧ s.dev.may init .epCmd 0 = true ∧ init.val ≠ t.holder ∧ init ≠ 16) :=
  ⟨⟨(witTxn { waiting := [uEng 4, 26] } 1 fun d => ((d.sf unitState_STATE (uEng 4) 2).sf unitState_STATE (uEng 5) 2).sf lsPair_STATE 2 pairPaired : State), ({ waiting := [uEng 4, 26] } : Txn), (⟨uEng 4, by decide⟩ : Fin 349), by rfl, by decide +kernel⟩,
   ⟨(witTxn { waiting := [25] } 1 : State), ({ waiting := [25] } : Txn), (25 : Fin 349), by rfl, by decide +kernel⟩,
   ⟨(witTxn { waiting := [25] } 1 : State), ({ waiting := [25] } : Txn), by rfl, by decide +kernel⟩,
   ⟨(witTxn { staged := [25] } 3 : State), ({ staged := [25] } : Txn), by rfl, by decide +kernel⟩,
   ⟨(witTxn { staged := [25] } 2 fun d => d.sf unitState_STATE 25 1 : State), ({ staged := [25] } : Txn), (16 : Initiator), by rfl, by decide +kernel⟩,
   ⟨(witTxn { holder := 16 } 2 : State), ({ holder := 16 } : Txn), (0 : Initiator), by rfl, by decide +kernel⟩⟩

/-- The hypotheses of CommitsAndSnapshots are met, clause by clause (part 1). -/
theorem test_hyps_CommitsAndSnapshots_1 :
    (∃ (s : State) (init : Initiator) (t : Txn), s.On ∧ s.dev.may init .epCmd 0 = true ∧ s.dev.ep.txn = some t ∧ init.val = t.holder ∧ t.issued = false ∧ s.dev.ep.settling = false ∧ s.dev.f epStatus_PHASE 0 = 1) ∧
    (∃ (s : State) (init : Initiator) (t : Txn), s.On ∧ s.dev.may init .epCmd 0 = true ∧ s.dev.ep.txn = some t ∧ t.kind = .stage ∧ (t.items ≠ []) ∧ init.val = t.holder ∧ t.issued = false ∧ s.dev.ep.settling = false ∧ s.dev.f epStatus_PHASE 0 = 2 ∧ (s.dev.txnLost? t = none) ∧ (s.dev.ep.live = [s.dev.epoch])) ∧
    (∃ (s : State) (init : Initiator), s.On ∧ s.dev.may init .epCmd 0 = true ∧ s.dev.ep.txn = none) ∧
    (∃ (s : State) (init : Initiator) (t : Txn), s.On ∧ s.dev.may init .epCmd 0 = true ∧ s.dev.ep.txn = some t ∧ init.val ≠ t.holder) ∧
    (∃ (s : State) (u : Fin 349) (t : Txn), s.On ∧ s.dev.ep.txn = some t ∧ t.kind = .stage ∧ (t.staged = [u.val]) ∧ t.dead = false ∧ (s.dev.ep.waiting = []) ∧ s.dev.f epStatus_PHASE 0 = 3 ∧ unitKind u ≠ .ac ∧ unitIsGroup u = false ∧ (s.dev.withPair u = [u.val]) ∧ s.dev.f unitState_STATE u = 1 ∧ s.dev.opOf u = none) ∧
    (∃ (s : State) (u : Fin 349) (t : Txn), s.On ∧ s.dev.ep.txn = some t ∧ t.kind = .stage ∧ t.issued = true ∧ (u.val ∈ t.token) ∧ (t.token.filter (· != u.val) ≠ []) ∧ (t.items.filter (fun i => i.unit == u.val) = []) ∧ unitIsGroup u = false ∧ s.dev.f unitState_STATE u = 1 ∧ s.dev.f unitState_PREV_STATE u = 2 ∧ s.dev.onWire u = false ∧ unitKind u ≠ .ld) ∧
    (∃ (s : State) (u : Fin 349) (t : Txn), s.On ∧ s.dev.ep.txn = some t ∧ t.issued = true ∧ (u.val ∈ t.token) ∧ s.dev.onWire u = true) :=
  ⟨⟨(witTxn { waiting := [25] } 1 : State), (0 : Initiator), ({ waiting := [25] } : Txn), by rfl, by decide +kernel⟩,
   ⟨(witTxn { items := [⟨1, 0x1070, 5, 7, 0⟩], staged := [1] } 2 fun d => d.sf unitState_STATE 1 1 : State), (0 : Initiator), ({ items := [⟨1, 0x1070, 5, 7, 0⟩], staged := [1] } : Txn), by rfl, by decide +kernel⟩,
   ⟨(State.reset : State), (0 : Initiator), by rfl, by decide +kernel⟩,
   ⟨(witTxn {} 2 : State), (16 : Initiator), ({} : Txn), by rfl, by decide +kernel⟩,
   ⟨(witTxn { staged := [25] } 3 fun d => d.sf unitState_STATE 25 1 : State), (25 : Fin 349), ({ staged := [25] } : Txn), by rfl, by decide +kernel⟩,
   ⟨(witTxn { issued := true, token := [25, 26] } 2 fun d => (d.sf unitState_STATE 25 1).sf unitState_PREV_STATE 25 2 : State), (25 : Fin 349), ({ issued := true, token := [25, 26] } : Txn), by rfl, by decide +kernel⟩,
   ⟨(witTxn { issued := true, token := [25, 26] } 2 fun d => d.setEth 0 { wire := some ({}, 0) } : State), (25 : Fin 349), ({ issued := true, token := [25, 26] } : Txn), by rfl, by decide +kernel⟩⟩

/-- The hypotheses of CommitsAndSnapshots are met, clause by clause (part 2). -/
theorem test_hyps_CommitsAndSnapshots_2 :
    (∃ (s : State), s.On ∧ s.dev.ep.txn = none ∧ s.dev.f mdModeStatus_CHANGING 0 = 0) ∧
    (∃ (s : State) (init : Initiator), s.On ∧ s.dev.may init .epCmd 0 = true ∧ s.dev.ep.txn = none ∧ s.dev.f epSnapStatus_BUSY 0 = 0) ∧
    (∃ (s : State) (init : Initiator), s.On ∧ s.dev.may init .epCmd 0 = true ∧ s.dev.f epSnapStatus_BUSY 0 = 1) ∧
    (∃ (s : State) (u : Fin 349), s.On ∧ (u.val ∈ s.dev.ep.snapLeft) ∧ (Sparse.wf (fun _ => (0 : Cnt)) s.dev.ctrs = true) ∧ (Sparse.wf (fun _ => (0 : Cnt)) s.dev.snaps = true)) ∧
    (∃ (s : State) (u : Fin 349), s.On ∧ (u.val ∉ s.dev.ep.snapLeft)) ∧
    (∃ (s : State) (w : Nat) (t : Txn), s.On ∧ (s.dev.ep.waiting = [t]) ∧ t.kind = .window w) :=
  ⟨⟨(State.reset : State), by rfl, by decide +kernel⟩,
   ⟨(witUnit 25 2 : State), (0 : Initiator), by rfl, by decide +kernel⟩,
   ⟨(wit fun d => d.sf epSnapStatus_BUSY 0 1 : State), (0 : Initiator), by rfl, by decide +kernel⟩,
   ⟨(wit fun d => (d.setEp { d.ep with snapLeft := [9] }).inc .hrRxFrames 0 : State), (9 : Fin 349), by rfl, by decide +kernel⟩,
   ⟨(State.reset : State), (25 : Fin 349), by rfl, by decide +kernel⟩,
   ⟨(wit fun d => d.setEp { d.ep with waiting := [{ kind := .window 225 }] } : State), (225 : Nat), ({ kind := .window 225 } : Txn), by rfl, by decide +kernel⟩⟩

/-- The hypotheses of ModeChanges are met, clause by clause. -/
theorem test_hyps_ModeChanges :
    (∃ (s : State) (init : Initiator) (m : Fin 4), s.On ∧ s.dev.may init .mdModeReq 0 = true ∧ m.val = s.dev.mode ∧ m.val ≤ 2 ∧ s.dev.f mdModeStatus_CHANGING 0 = 0) ∧
    (∃ (s : State) (init : Initiator) (m : Fin 4), s.On ∧ s.dev.may init .mdModeReq 0 = true ∧ m.val ≠ s.dev.mode ∧ m.val ≤ 2 ∧ s.dev.f mdModeStatus_CHANGING 0 = 0 ∧ s.dev.ep.txn = none) ∧
    (∃ (s : State) (init : Initiator) (m : Fin 4), s.On ∧ s.dev.may init .mdModeReq 0 = true ∧ (m.val = 3 ∨ s.dev.f mdModeStatus_CHANGING 0 = 1)) ∧
    (∃ (s : State), s.On ∧ s.dev.ep.settling = false) ∧
    (∃ (s : State) (t : Txn) (m : Nat), s.On ∧ s.dev.ep.settling = true ∧ s.dev.ep.txn = some t ∧ t.kind = .mode m ∧ t.dead = false ∧ s.dev.inSepia = false ∧ (t.staged = [uMd]) ∧ s.dev.f unitState_STATE uMd = 1 ∧ (s.dev.ep.live = [s.dev.epoch])) ∧
    (∃ (s : State) (t : Txn) (m : Nat), s.On ∧ s.dev.ep.settling = true ∧ s.dev.ep.txn = some t ∧ t.kind = .mode m ∧ s.dev.ep.prevMv ≠ 0 ∧ (s.dev.ep.waiting = [])) ∧
    (∃ (s : State) (u : Fin 349) (t : Txn) (m : Nat), s.On ∧ u.val = uMd ∧ s.dev.ep.txn = some t ∧ t.kind = .mode m ∧ m < s.dev.mode ∧ (t.waiting = [uMd]) ∧ (t.staged = []) ∧ (t.along = []) ∧ t.refused = none ∧ s.dev.f epStatus_PHASE 0 = 1 ∧ s.dev.targetRefusal t uMd = 0 ∧ s.dev.ep.mute = true ∧ s.dev.ep.prevMv = 0 ∧ (s.dev.ep.waiting = [])) ∧
    (∃ (s : State), s.On ∧ s.dev.f mdModeStatus_CHANGING 0 = 1 ∧ (s.dev.ep.slowing ≠ []) ∧ s.dev.modeInTxn = false) :=
  ⟨⟨(State.reset : State), (0 : Initiator), (1 : Fin 4), by rfl, by decide +kernel⟩,
   ⟨(State.reset : State), (0 : Initiator), (0 : Fin 4), by rfl, by decide +kernel⟩,
   ⟨(State.reset : State), (0 : Initiator), (3 : Fin 4), by rfl, by decide +kernel⟩,
   ⟨(State.reset : State), by rfl, by decide +kernel⟩,
   ⟨(witTxn { kind := .mode 1, staged := [uMd] } 2 fun d => (d.setEp { d.ep with settling := true }).sf unitState_STATE uMd 1 : State), ({ kind := .mode 1, staged := [uMd] } : Txn), (1 : Nat), by rfl, by decide +kernel⟩,
   ⟨(witTxn { kind := .mode 1, staged := [uMd] } 2 fun d => (d.setEp { d.ep with settling := true, prevMv := 600 }) : State), ({ kind := .mode 1, staged := [uMd] } : Txn), (1 : Nat), by rfl, by decide +kernel⟩,
   ⟨(witTxn { kind := .mode 0, waiting := [uMd] } 1 fun d => (d.setMute true).sf unitState_STATE uMd 2 : State), (⟨uMd, by decide⟩ : Fin 349), ({ kind := .mode 0, waiting := [uMd] } : Txn), (0 : Nat), by rfl, by decide +kernel⟩,
   ⟨(wit fun d => (d.setEp { d.ep with slowing := [3] }).sf mdModeStatus_CHANGING 0 1 : State), by rfl, by decide +kernel⟩⟩

/-- The hypotheses of VoltageAndPower are met, clause by clause (part 1). -/
theorem test_hyps_VoltageAndPower_1 :
    (∃ (s : State) (paces : List (BitVec 16)), s.On ∧ paces.length = 16) ∧
    (∃ (s : State), s.On ∧ s.dev.modeHoldsVcore = false ∧ (s.dev.paces.any (fun p => decide (p * 100 < 102 * s.dev.paceFloor)) = true) ∧ s.dev.f mdVcoreNow_CMD_MV 0 < s.dev.f mdVcoreBand_HIGH_MV s.dev.mode) ∧
    (∃ (s : State), s.On ∧ s.dev.modeHoldsVcore = false ∧ s.dev.f mdAvsCtl_ADAPT 0 = 1 ∧ s.dev.paceFloor ≠ 0 ∧ (s.dev.paces.all (fun p => decide (105 * s.dev.paceFloor ≤ p * 100)) = true) ∧ s.dev.f mdVcoreBand_LOW_MV s.dev.mode < s.dev.f mdVcoreNow_CMD_MV 0) ∧
    (∃ (s : State), s.On ∧ (s.dev.paces.any (fun p => decide (p * 100 < 102 * s.dev.paceFloor)) = true) ∧ s.dev.f mdVcoreBand_HIGH_MV s.dev.mode ≤ s.dev.f mdVcoreNow_CMD_MV 0) ∧
    (∃ (s : State), s.On ∧ (s.dev.paces.any (fun p => decide (p * 100 < 102 * s.dev.paceFloor)) = false) ∧ (s.dev.f mdAvsCtl_ADAPT 0 = 0 ∨ s.dev.f mdVcoreNow_CMD_MV 0 ≤ s.dev.f mdVcoreBand_LOW_MV s.dev.mode ∨ s.dev.paces.any (fun p => decide (p * 100 < 105 * s.dev.paceFloor)) = true)) ∧
    (∃ (s : State), s.On ∧ s.dev.modeHoldsVcore = true) ∧
    (∃ (s : State) (m : Nat), s.On ∧ (s.dev.paces.findIdx? (fun p => decide (p < s.dev.paceFloor)) = some m) ∧ s.dev.f mdVcoreBand_HIGH_MV s.dev.mode ≤ s.dev.f mdVcoreNow_CMD_MV 0 ∧ s.dev.reaction fcPace ≠ 2) ∧
    (∃ (s : State), s.On ∧ (s.dev.paces.all (fun p => decide (s.dev.paceFloor ≤ p)) = true)) ∧
    (∃ (s : State) (a : Fin 4) (x : PaItem) (rest : List PaItem), s.On ∧ ((s.dev.acct a).waiting = x :: rest) ∧ x.who = .held ∧ s.dev.paInUse a + x.cost ≤ s.dev.paBudget a) ∧
    (∃ (s : State) (a : Fin 4), s.On ∧ ((s.dev.acct a).waiting.all (fun x => decide (s.dev.paBudget a < s.dev.paInUse a + x.cost)) = true)) ∧
    (∃ (s : State) (a : Fin 4) (x : PaItem), s.On ∧ ((s.dev.acct a).waiting.find? (fun i => decide (i.who ≠ .remask)) = some x) ∧ x.who = .held) :=
  ⟨⟨(State.reset : State), (List.replicate 16 90 : List (BitVec 16)), by rfl, by decide +kernel⟩,
   ⟨(wit fun d => (((d.sf mdPaceFloor_FLOOR 1 50).sf mdVcoreBand_HIGH_MV 1 700).sf mdVcoreNow_CMD_MV 0 600).sf mdPace_PACE 3 10 : State), by rfl, by decide +kernel⟩,
   ⟨(wit fun d => (List.range 16).foldl (fun d i => d.sf mdPace_PACE i 200) (((d.sf mdPaceFloor_FLOOR 1 50).sf mdAvsCtl_ADAPT 0 1).sf mdVcoreNow_CMD_MV 0 800) : State), by rfl, by decide +kernel⟩,
   ⟨(wit fun d => ((d.sf mdPaceFloor_FLOOR 1 50).sf mdPace_PACE 3 10).sf mdVcoreNow_CMD_MV 0 900 : State), by rfl, by decide +kernel⟩,
   ⟨(wit fun d => (d.sf mdAvsCtl_ADAPT 0 0).sf mdPaceFloor_FLOOR 1 0 : State), by rfl, by decide +kernel⟩,
   ⟨(wit fun d => d.setEp { d.ep with settling := true } : State), by rfl, by decide +kernel⟩,
   ⟨(wit fun d => ((d.sf mdPaceFloor_FLOOR 1 50).sf mdPace_PACE 3 10).sf mdVcoreNow_CMD_MV 0 900 : State), (0 : Nat), by rfl, by decide +kernel⟩,
   ⟨(wit fun d => d.sf mdPaceFloor_FLOOR 1 0 : State), by rfl, by decide +kernel⟩,
   ⟨(witAcct 1 { waiting := [⟨.held, 30, 5⟩, ⟨.held, 20, 6⟩] } 100 : State), (1 : Fin 4), (⟨.held, 30, 5⟩ : PaItem), ([⟨.held, 20, 6⟩] : List PaItem), by rfl, by decide +kernel⟩,
   ⟨(State.reset : State), (0 : Fin 4), by rfl, by decide +kernel⟩,
   ⟨(witAcct 1 { waiting := [⟨.remask, 30, 4⟩, ⟨.held, 30, 5⟩] } 100 : State), (1 : Fin 4), (⟨.held, 30, 5⟩ : PaItem), by rfl, by decide +kernel⟩⟩

/-- The hypotheses of VoltageAndPower are met, clause by clause (part 2). -/
theorem test_hyps_VoltageAndPower_2 :
    (∃ (s : State) (a : Fin 4) (handle : BitVec 16), s.On ∧ (s.dev.acct a).grants.any (isLeave handle.toNat) = true) ∧
    (∃ (s : State) (handle : BitVec 16), s.On ∧ ([0, 1, 2, 3].all (fun x => !(s.dev.acct x).grants.any (isLeave handle.toNat)) = true)) ∧
    (∃ (s : State) (a : Fin 4) (w : PaFor) (m : Nat) (h : Nat) (rest : List PaItem) (hk : Nat) (tk : Nat) (rd : Nat), s.On ∧ w = .token hk tk ∧ ((s.dev.acct a).waiting = ⟨w, m, h⟩ :: rest) ∧ s.dev.paInUse a + m ≤ s.dev.paBudget a ∧ s.dev.tokOp (hartOf hk) (Fin.ofNat 8 tk) = some (.leave rd h) ∧ s.dev.hartSt (hartOf hk) = .ready) ∧
    (∃ (s : State) (a : Fin 4) (w : PaFor) (m : Nat) (h : Nat) (hk : Nat) (tk : Nat) (rd : Nat), s.On ∧ w = .token hk tk ∧ ((s.dev.acct a).waiting.find? (fun i => decide (i.who ≠ .remask)) = some ⟨w, m, h⟩) ∧ s.dev.tokOp (hartOf hk) (Fin.ofNat 8 tk) = some (.leave rd h) ∧ s.dev.hartSt (hartOf hk) = .ready) ∧
    (∃ (s : State) (a : Fin 4) (w : PaFor) (m : Nat) (h : Nat) (rest : List PaItem) (l : Nat), s.On ∧ w = .gang l ∧ ((s.dev.acct a).waiting = ⟨w, m, h⟩ :: rest) ∧ s.dev.paInUse a + m ≤ s.dev.paBudget a ∧ (s.dev.ld l).st = ldAdmit ∧ s.dev.gangSize l < 4) ∧
    (∃ (s : State) (a : Fin 4) (w : PaFor) (m : Nat) (h : Nat) (l : Nat), s.On ∧ w = .gang l ∧ ((s.dev.acct a).waiting.find? (fun i => decide (i.who ≠ .remask)) = some ⟨w, m, h⟩) ∧ (s.dev.ld l).st = ldAdmit ∧ l < 96) ∧
    (∃ (s : State) (a : Fin 4) (w : PaFor) (m : Nat) (h : Nat) (rest : List PaItem) (t : Nat), s.On ∧ ((s.dev.acct a).waiting = ⟨w, m, h⟩ :: rest) ∧ s.dev.paInUse a + m ≤ s.dev.paBudget a ∧ (t ∈ [0, 2, 3, 4, 9]) ∧ (s.dev.tb t).stage = 1) ∧
    (∃ (s : State) (a : Fin 4) (w : PaFor) (m : Nat) (h : Nat) (t : Nat), s.On ∧ ((s.dev.acct a).waiting.find? (fun i => decide (i.who ≠ .remask)) = some ⟨w, m, h⟩) ∧ (t ∈ [0, 2, 3, 4, 9]) ∧ (s.dev.tb t).stage = 1) ∧
    (∃ (s : State) (a : Fin 4) (w : PaFor) (m : Nat) (h : Nat) (rest : List PaItem), s.On ∧ w = .remask ∧ ((s.dev.acct a).waiting = ⟨w, m, h⟩ :: rest) ∧ s.dev.paInUse a + m ≤ s.dev.paBudget a ∧ s.dev.cx.drbg = true) ∧
    (∃ (s : State) (a : Fin 4) (w : PaFor) (m : Nat) (h : Nat) (rest : List PaItem), s.On ∧ w = .remask ∧ ((s.dev.acct a).waiting = ⟨w, m, h⟩ :: rest) ∧ s.dev.paInUse a + m ≤ s.dev.paBudget a ∧ a.val = 0 ∧ s.dev.cx.drbg = false ∧ ((s.dev.acct 0).grants.any (fun i => i.who == .remask) = false)) ∧
    (∃ (s : State) (a : Fin 4), s.On ∧ ((s.dev.acct a).waiting.all (fun i => i.who == .remask) = true)) :=
  ⟨⟨(witAcct 1 { grants := [⟨.token 3 1, 30, 5⟩] } 100 : State), (1 : Fin 4), (5 : BitVec 16), by rfl, by decide +kernel⟩,
   ⟨(State.reset : State), (5 : BitVec 16), by rfl, by decide +kernel⟩,
   ⟨(witLeave : State), (1 : Fin 4), (.token 12 2 : PaFor), (30 : Nat), (5 : Nat), ([] : List PaItem), (12 : Nat), (2 : Nat), (7 : Nat), by rfl, by decide +kernel⟩,
   ⟨(witLeave : State), (1 : Fin 4), (.token 12 2 : PaFor), (30 : Nat), (5 : Nat), (12 : Nat), (2 : Nat), (7 : Nat), by rfl, by decide +kernel⟩,
   ⟨(witAsk 1 (.gang 5) 30 fun d => d.ldUpd 5 fun c => { c with st := ldAdmit } : State), (1 : Fin 4), (.gang 5 : PaFor), (30 : Nat), (5 : Nat), ([] : List PaItem), (5 : Nat), by rfl, by decide +kernel⟩,
   ⟨(witAsk 1 (.gang 5) 30 fun d => d.ldUpd 5 fun c => { c with st := ldAdmit } : State), (1 : Fin 4), (.gang 5 : PaFor), (30 : Nat), (5 : Nat), (5 : Nat), by rfl, by decide +kernel⟩,
   ⟨(witAsk 0 (.rehash 2) 450 fun d => d.setTb 2 { d.tb 2 with stage := 1, iface := 3 } : State), (0 : Fin 4), (.rehash 2 : PaFor), (450 : Nat), (5 : Nat), ([] : List PaItem), (2 : Nat), by rfl, by decide +kernel⟩,
   ⟨(witAsk 0 (.rehash 2) 450 fun d => d.setTb 2 { d.tb 2 with stage := 1, iface := 3 } : State), (0 : Fin 4), (.rehash 2 : PaFor), (450 : Nat), (5 : Nat), (2 : Nat), by rfl, by decide +kernel⟩,
   ⟨(witAsk 0 (.remask) 120 fun d => { d with cx := { d.cx with drbg := true } } : State), (0 : Fin 4), (.remask : PaFor), (120 : Nat), (5 : Nat), ([] : List PaItem), by rfl, by decide +kernel⟩,
   ⟨(witAsk 0 (.remask) 120 fun d => { d with cx := { d.cx with drbg := false } } : State), (0 : Fin 4), (.remask : PaFor), (120 : Nat), (5 : Nat), ([] : List PaItem), by rfl, by decide +kernel⟩,
   ⟨(witAsk 0 (.remask) 120 : State), (0 : Fin 4), by rfl, by decide +kernel⟩⟩

/-- The hypotheses of VoltageAndPower are met, clause by clause (part 3). -/
theorem test_hyps_VoltageAndPower_3 :
    (∃ (s : State) (a : Fin 4) (w : PaFor) (m : Nat) (h : Nat) (rest : List PaItem) (k : Fin 16) (v : Nat), s.On ∧ w = .antifuse ∧ ((s.dev.acct a).waiting = ⟨w, m, h⟩ :: rest) ∧ s.dev.paInUse a + m ≤ s.dev.paBudget a ∧ s.dev.mg.fuse = some (.svn k v)) ∧
    (∃ (s : State) (a : Fin 4) (w : PaFor) (m : Nat) (h : Nat) (k : Fin 16) (v : Nat), s.On ∧ w = .antifuse ∧ ((s.dev.acct a).waiting.find? (fun i => decide (i.who ≠ .remask)) = some ⟨w, m, h⟩) ∧ s.dev.mg.fuse = some (.svn k v)) ∧
    (∃ (s : State) (a : Fin 4) (w : PaFor) (m : Nat) (h : Nat) (rest : List PaItem) (k : Fin 16) (ops : List FlashOp), s.On ∧ w = .flash ∧ ((s.dev.acct a).waiting = ⟨w, m, h⟩ :: rest) ∧ s.dev.paInUse a + m ≤ s.dev.paBudget a ∧ (s.dev.mg.flashOps = .commit k :: ops)) ∧
    (∃ (s : State) (a : Fin 4) (w : PaFor) (m : Nat) (h : Nat) (k : Fin 16) (ops : List FlashOp), s.On ∧ w = .flash ∧ ((s.dev.acct a).waiting.find? (fun i => decide (i.who ≠ .remask)) = some ⟨w, m, h⟩) ∧ (s.dev.mg.flashOps = .commit k :: ops)) ∧
    (∃ (s : State) (a : Fin 4) (w : PaFor) (m : Nat) (h : Nat) (rest : List PaItem) (p : Fin 20) (o : UnitOp), s.On ∧ w = .retrain p ∧ ((s.dev.acct a).waiting = ⟨w, m, h⟩ :: rest) ∧ s.dev.paInUse a + m ≤ s.dev.paBudget a ∧ s.dev.opOf (uEth p) = some o ∧ o.cmd = 4 ∧ s.dev.f unitState_STATE (uEth p) = 3 ∧ s.dev.phase ≠ phWaiting) ∧
    (∃ (s : State) (a : Fin 4) (w : PaFor) (m : Nat) (h : Nat) (p : Fin 20) (o : UnitOp), s.On ∧ w = .retrain p ∧ ((s.dev.acct a).waiting.find? (fun i => decide (i.who ≠ .remask)) = some ⟨w, m, h⟩) ∧ s.dev.opOf (uEth p) = some o ∧ o.cmd = 4 ∧ o.unit = uEth p ∧ s.dev.f unitState_STATE (uEth p) = 3) ∧
    (∃ (s : State) (a : Fin 4) (w : PaFor) (m : Nat) (h : Nat) (rest : List PaItem) (p : Fin 20) (t : Nat), s.On ∧ w = .rateStep p ∧ ((s.dev.acct a).waiting = ⟨w, m, h⟩ :: rest) ∧ s.dev.paInUse a + m ≤ s.dev.paBudget a ∧ (s.dev.eth p).step = .wantLeave t) ∧
    (∃ (s : State) (a : Fin 4) (w : PaFor) (m : Nat) (h : Nat) (p : Fin 20) (t : Nat), s.On ∧ w = .rateStep p ∧ ((s.dev.acct a).waiting.find? (fun i => decide (i.who ≠ .remask)) = some ⟨w, m, h⟩) ∧ (s.dev.eth p).step = .wantLeave t) ∧
    (∃ (s : State) (a : Fin 4) (w : PaFor) (m : Nat) (h : Nat) (rest : List PaItem) (u : Nat) (no : Nat) (j : CxJob), s.On ∧ w = .crypto u no ∧ ((s.dev.acct a).waiting = ⟨w, m, h⟩ :: rest) ∧ s.dev.paInUse a + m ≤ s.dev.paBudget a ∧ (s.dev.cxJob? u no = some j) ∧ j.stage = .leave) ∧
    (∃ (s : State) (a : Fin 4) (w : PaFor) (m : Nat) (h : Nat) (u : Nat) (no : Nat) (j : CxJob), s.On ∧ w = .crypto u no ∧ ((s.dev.acct a).waiting.find? (fun i => decide (i.who ≠ .remask)) = some ⟨w, m, h⟩) ∧ (s.dev.cxJob? u no = some j) ∧ j.stage = .leave ∧ u < 20) :=
  ⟨⟨(witAsk 0 (.antifuse) 350 fun d => { d with mg := { d.mg with fuse := some (.svn 3 70) } } : State), (0 : Fin 4), (.antifuse : PaFor), (350 : Nat), (5 : Nat), ([] : List PaItem), (3 : Fin 16), (70 : Nat), by rfl, by decide +kernel⟩,
   ⟨(witAsk 0 (.antifuse) 350 fun d => { d with mg := { d.mg with fuse := some (.svn 3 70) } } : State), (0 : Fin 4), (.antifuse : PaFor), (350 : Nat), (5 : Nat), (3 : Fin 16), (70 : Nat), by rfl, by decide +kernel⟩,
   ⟨(witAsk 0 (.flash) 150 fun d => { d with mg := { d.mg with flashOps := [.commit 3] } } : State), (0 : Fin 4), (.flash : PaFor), (150 : Nat), (5 : Nat), ([] : List PaItem), (3 : Fin 16), ([] : List FlashOp), by rfl, by decide +kernel⟩,
   ⟨(witAsk 0 (.flash) 150 fun d => { d with mg := { d.mg with flashOps := [.commit 3] } } : State), (0 : Fin 4), (.flash : PaFor), (150 : Nat), (5 : Nat), (3 : Fin 16), ([] : List FlashOp), by rfl, by decide +kernel⟩,
   ⟨(witAsk 0 (.retrain 2) 250 fun d => (d.sf unitState_STATE (uEth 2) 3).setOps [⟨uEth 2, 4, 0, 7, 0, [(uEth 2, 3)], [uEth 2]⟩] : State), (0 : Fin 4), (.retrain 2 : PaFor), (250 : Nat), (5 : Nat), ([] : List PaItem), (2 : Fin 20), (⟨uEth 2, 4, 0, 7, 0, [(uEth 2, 3)], [uEth 2]⟩ : UnitOp), by rfl, by decide +kernel⟩,
   ⟨(witAsk 0 (.retrain 2) 250 fun d => (d.sf unitState_STATE (uEth 2) 3).setOps [⟨uEth 2, 4, 0, 7, 0, [(uEth 2, 3)], [uEth 2]⟩] : State), (0 : Fin 4), (.retrain 2 : PaFor), (250 : Nat), (5 : Nat), (2 : Fin 20), (⟨uEth 2, 4, 0, 7, 0, [(uEth 2, 3)], [uEth 2]⟩ : UnitOp), by rfl, by decide +kernel⟩,
   ⟨(witAsk 0 (.rateStep 2) 180 fun d => d.setEth 2 { step := .wantLeave 1 } : State), (0 : Fin 4), (.rateStep 2 : PaFor), (180 : Nat), (5 : Nat), ([] : List PaItem), (2 : Fin 20), (1 : Nat), by rfl, by decide +kernel⟩,
   ⟨(witAsk 0 (.rateStep 2) 180 fun d => d.setEth 2 { step := .wantLeave 1 } : State), (0 : Fin 4), (.rateStep 2 : PaFor), (180 : Nat), (5 : Nat), (2 : Fin 20), (1 : Nat), by rfl, by decide +kernel⟩,
   ⟨(witAsk 0 (.crypto 3 0) 90 fun d => d.setUser 3 { jobs := [{ witJob with stage := .leave }] } : State), (0 : Fin 4), (.crypto 3 0 : PaFor), (90 : Nat), (5 : Nat), ([] : List PaItem), (3 : Nat), (0 : Nat), ({ witJob with stage := .leave } : CxJob), by rfl, by decide +kernel⟩,
   ⟨(witAsk 0 (.crypto 3 0) 90 fun d => d.setUser 3 { jobs := [{ witJob with stage := .leave }] } : State), (0 : Fin 4), (.crypto 3 0 : PaFor), (90 : Nat), (5 : Nat), (3 : Nat), (0 : Nat), ({ witJob with stage := .leave } : CxJob), by rfl, by decide +kernel⟩⟩

/-- The hypotheses of IntegersAndBitCounts are met, clause by clause. -/
theorem test_hyps_IntegersAndBitCounts :
    (∃ (s : State) (h : Hart) (g : Guard) (rd : GReg) (ra : GReg) (rb : GReg), s.On ∧ (s.dev.canIssue h g [rd, ra, rb] none = true)) ∧
    (∃ (s : State) (h : Hart) (g : Guard) (rd : GReg) (ra : GReg), s.On ∧ (s.dev.canIssue h g [rd, ra] none = true)) ∧
    (∃ (s : State) (h : Hart) (rd : GReg), s.On ∧ (s.dev.canIssue h noGuard [rd] none = true)) ∧
    (∃ (s : State) (h : Hart) (g : Guard) (rd : GReg) (ra : GReg) (pos : Fin 64) (lenm1 : Fin 64), s.On ∧ (s.dev.canIssue h g [rd, ra] none = true) ∧ pos.val + lenm1.val + 1 ≤ 64) :=
  ⟨⟨(witThr (witRegs 7 9 11) : State), (.fe 0 0 : Hart), (noGuard : Guard), (2 : GReg), (3 : GReg), (4 : GReg), by rfl, by decide +kernel⟩,
   ⟨(witThr (witRegs 7 9 11) : State), (.fe 0 0 : Hart), (noGuard : Guard), (2 : GReg), (3 : GReg), by rfl, by decide +kernel⟩,
   ⟨(witThr (witRegs 7 9 11) : State), (.fe 0 0 : Hart), (2 : GReg), by rfl, by decide +kernel⟩,
   ⟨(witThr (witRegs 7 9 11) : State), (.fe 0 0 : Hart), (noGuard : Guard), (2 : GReg), (3 : GReg), (3 : Fin 64), (60 : Fin 64), by rfl, by decide +kernel⟩⟩

/-- The hypotheses of BranchesAndLimits are met, clause by clause. -/
theorem test_hyps_BranchesAndLimits :
    (∃ (s : State) (h : Hart) (g : Guard) (ra : GReg) (rb : GReg) (cc : Fin 8), s.On ∧ (s.dev.canIssue h g [ra, rb] none = true) ∧ cc ≠ 7) ∧
    (∃ (s : State) (h : Hart) (g : Guard) (ra : GReg) (cc : Fin 8), s.On ∧ (s.dev.canIssue h g [ra] none = true) ∧ cc ≠ 7) ∧
    (∃ (s : State) (h : Hart) (g : Guard), s.On ∧ (s.dev.canIssue h g [] none = true)) ∧
    (∃ (s : State) (h : Hart) (g : Guard), s.On ∧ (s.dev.canIssue h g [31] none = true)) ∧
    (∃ (s : State) (h : Hart) (g : Guard) (rd : GReg) (ra : GReg), s.On ∧ (s.dev.canIssue h g [rd, ra] none = true)) ∧
    (∃ (s : State) (n : Fin 64) (t : Fin 4), s.On ∧ (s.dev.thr n t).st = .ready ∧ (s.dev.thr n t).icount = (s.dev.thr n t).budget ∧ s.dev.follows n = false ∧ (s.dev.thr n t).shadow = false ∧ (s.dev.thr n t).kind = .frame) ∧
    (∃ (s : State) (n : Fin 64) (t : Fin 4), s.On ∧ ((s.dev.thr n t).st ≠ .ready ∨ (s.dev.thr n t).icount ≠ (s.dev.thr n t).budget)) ∧
    (∃ (s : State) (n : Fin 64) (t : Fin 4), s.On ∧ ((s.dev.thr n t).st = .wait ∨ (s.dev.thr n t).st = .blocked) ∧ s.dev.follows n = false ∧ (s.dev.thr n t).shadow = false ∧ (s.dev.thr n t).kind = .frame) ∧
    (∃ (s : State) (n : Fin 64) (t : Fin 4), s.On ∧ (s.dev.thr n t).st ≠ .wait ∧ (s.dev.thr n t).st ≠ .blocked) ∧
    (∃ (s : State) (c : Fin 2), s.On ∧ s.dev.mcRuns c = true ∧ (s.dev.mcCore c).st = .wait) ∧
    (∃ (s : State) (n : Fin 64) (t : Fin 4) (i : Instr), s.On ∧ (s.dev.thr n t).st = .blocked ∧ (s.dev.thr n t).held = some i) :=
  ⟨⟨(witThr (witRegs 7 9 11) : State), (.fe 0 0 : Hart), (noGuard : Guard), (3 : GReg), (4 : GReg), (2 : Fin 8), by rfl, by decide +kernel⟩,
   ⟨(witThr (witRegs 7 9 11) : State), (.fe 0 0 : Hart), (noGuard : Guard), (3 : GReg), (4 : Fin 8), by rfl, by decide +kernel⟩,
   ⟨(witThr (witRegs 7 9 11) : State), (.fe 0 0 : Hart), (noGuard : Guard), by rfl, by decide +kernel⟩,
   ⟨(witThr (witRegs 7 9 11) : State), (.fe 0 0 : Hart), (noGuard : Guard), by rfl, by decide +kernel⟩,
   ⟨(witThr (witRegs 7 9 11) : State), (.fe 0 0 : Hart), (noGuard : Guard), (2 : GReg), (3 : GReg), by rfl, by decide +kernel⟩,
   ⟨(witThr {} fun d => d.setThr 0 0 { d.thr 0 0 with icount := 100 } : State), (0 : Fin 64), (0 : Fin 4), by rfl, by decide +kernel⟩,
   ⟨(State.reset : State), (0 : Fin 64), (0 : Fin 4), by rfl, by decide +kernel⟩,
   ⟨(witThr {} fun d => d.setThr 0 0 { d.thr 0 0 with st := .wait } : State), (0 : Fin 64), (0 : Fin 4), by rfl, by decide +kernel⟩,
   ⟨(State.reset : State), (0 : Fin 64), (0 : Fin 4), by rfl, by decide +kernel⟩,
   ⟨(witMc fun x => { x with st := .wait, ctl := 0x10 } : State), (0 : Fin 2), by rfl, by decide +kernel⟩,
   ⟨(witThr (witRegs 7 5 11) fun d => (d.sf bqFree_FREE 0 100).setThr 0 0 { d.thr 0 0 with st := .blocked, held := some (.adjh (.fe 0 0) noGuard 3) } : State), (0 : Fin 64), (0 : Fin 4), (.adjh (.fe 0 0) noGuard 3 : Instr), by rfl, by decide +kernel⟩⟩

/-- The hypotheses of LoadsStoresAndBytes are met, clause by clause. -/
theorem test_hyps_LoadsStoresAndBytes :
    (∃ (s : State) (h : Hart) (g : Guard) (rt : GReg) (ra : GReg) (sz : Fin 4) (off : BitVec 8) (ecc : Ecc) (p : Spc) (o : Nat) (bs : List Byte) (d1 : Dev), s.On ∧ (s.dev.canIssue h g [rt, ra] none = true) ∧ ((s.dev.issued h).accessExc h ((s.dev.issued h).effective h ra off (2 ^ sz.val)) (2 ^ sz.val) false false = 0) ∧ ((s.dev.issued h).place h ((s.dev.issued h).effective h ra off (2 ^ sz.val)) = some (p, o)) ∧ ((s.dev.issued h).spcLoad h p o (2 ^ sz.val) ecc = (some bs, d1))) ∧
    (∃ (s : State) (h : Hart) (g : Guard) (rt : GReg) (ra : GReg) (sz : Fin 4) (off : BitVec 8) (x : Nat), s.On ∧ (s.dev.canIssue h g [rt, ra] none = true) ∧ ((s.dev.issued h).accessExc h ((s.dev.issued h).effective h ra off (2 ^ sz.val)) (2 ^ sz.val) false false = x) ∧ x ≠ 0) ∧
    (∃ (s : State) (h : Hart) (g : Guard) (rt : GReg) (ra : GReg) (sz : Fin 4) (off : BitVec 8) (p : Spc) (o : Nat), s.On ∧ (s.dev.canIssue h g [rt, ra] none = true) ∧ ((s.dev.issued h).accessExc h ((s.dev.issued h).effective h ra off (2 ^ sz.val)) (2 ^ sz.val) true false = 0) ∧ ((s.dev.issued h).place h ((s.dev.issued h).effective h ra off (2 ^ sz.val)) = some (p, o)) ∧ p ≠ .fw ∧ p ≠ .reg ∧ (p = .ld ∨ s.dev.shadowed h = false)) ∧
    (∃ (s : State) (h : Hart) (g : Guard) (rt : GReg) (ra : GReg) (sz : Fin 4) (off : BitVec 8) (n : Fin 64) (t : Fin 4) (o : Nat), s.On ∧ h = .fe n t ∧ (s.dev.canIssue h g [rt, ra] none = true) ∧ ((s.dev.issued h).accessExc h ((s.dev.issued h).effective h ra off (2 ^ sz.val)) (2 ^ sz.val) true false = 0) ∧ ((s.dev.issued h).place h ((s.dev.issued h).effective h ra off (2 ^ sz.val)) = some (.fw, o)) ∧ ((s.dev.thr n t).shadow = true ∨ ((s.dev.thr n t).outGrp = 0 ∧ cellsOf (s.dev.thr n t).out.length ≤ s.dev.freeCells))) ∧
    (∃ (s : State) (h : Hart) (g : Guard) (rt : GReg) (ra : GReg) (off : BitVec 8) (c : Fin 2) (o : Nat), s.On ∧ h = .mc c ∧ (s.dev.canIssue h g [rt, ra] none = true) ∧ s.dev.accessExc h (s.dev.effective h ra off 4) 4 true false = 0 ∧ s.dev.place h (s.dev.effective h ra off 4) = some (.reg, o) ∧ farWindow 16 o = none ∧ s.dev.shadowed h = false ∧ (((s.dev.regWrite 16 o (((s.dev.rf h).get rt).toNat % 2 ^ 32)).mcCore c).far = none)) ∧
    (∃ (s : State) (h : Hart) (g : Guard) (rt : GReg) (ra : GReg) (off : BitVec 8) (c : Fin 2) (o : Nat) (w : Nat), s.On ∧ h = .mc c ∧ (s.dev.farQueue w).length < 32 ∧ (s.dev.canIssue h g [rt, ra] none = true) ∧ s.dev.accessExc h (s.dev.effective h ra off 4) 4 true false = 0 ∧ s.dev.place h (s.dev.effective h ra off 4) = some (.reg, o) ∧ farWindow 16 o = some w ∧ s.dev.farDown w = false ∧ s.dev.shadowed h = false ∧ (s.dev.mcCore c).far = none) ∧
    (∃ (s : State) (h : Hart) (g : Guard) (rt : GReg) (ra : GReg) (off : BitVec 8) (c : Fin 2) (o : Nat) (w : Nat), s.On ∧ h = .mc c ∧ 32 ≤ (s.dev.farQueue w).length ∧ (s.dev.canIssue h g [rt, ra] none = true) ∧ s.dev.accessExc h (s.dev.effective h ra off 4) 4 true false = 0 ∧ s.dev.place h (s.dev.effective h ra off 4) = some (.reg, o) ∧ farWindow 16 o = some w ∧ s.dev.farDown w = false ∧ s.dev.shadowed h = false ∧ (s.dev.mcCore c).far = none) ∧
    (∃ (s : State) (h : Hart) (g : Guard) (rd : GReg) (ra : GReg) (rb : GReg) (wide : Bool) (ecc : Ecc) (n : Nat) (o : Nat) (bs : List Byte) (d1 : Dev), s.On ∧ (s.dev.canIssue h g [rd, ra, rb] none = true) ∧ n = (if wide then 8 else 4) ∧ (((s.dev.rf h).get ra).toNat % n = 0) ∧ (s.dev.issued h).place h ((s.dev.rf h).get ra).toNat = some (.cs, o) ∧ (o + n ≤ 2 ^ 18) ∧ (s.dev.issued h).spcLoad h .cs o n ecc = (some bs, d1) ∧ d1.shadowed h = false) ∧
    (∃ (s : State) (h : Hart) (g : Guard) (rd : GReg) (ra : GReg) (rb : GReg) (ecc : Ecc) (p : Spc) (o : Nat) (bs : List Byte) (d1 : Dev), s.On ∧ (s.dev.canIssue h g [rd, ra, rb] none = true) ∧ ((s.dev.rf h).get rb).toNat ≤ 4096 ∧ ((s.dev.rf h).get rb).toNat ≠ 0 ∧ (s.dev.issued h).accessExc h ((s.dev.rf h).get ra).toNat ((s.dev.rf h).get rb).toNat false true = 0 ∧ (s.dev.issued h).place h ((s.dev.rf h).get ra).toNat = some (p, o) ∧ (s.dev.issued h).spcLoad h p o ((s.dev.rf h).get rb).toNat ecc = (some bs, d1)) ∧
    (∃ (d : Dev) (h : Hart) (p : Spc) (o : Nat) (base : Nat) (bs : List Byte) (m : Sparse Byte) (m' : Sparse Byte), ((match h, p with
| .fe e t, .ld => base = ldKey e.val t.val 0 ∧ m = d.eng.ld ∧ m' = (d.spcStore h p o bs).eng.ld
| .fe e _, .cs => base = csKey (e.val / 8) 0 ∧ m = d.eng.cs ∧ m' = (d.spcStore h p o bs).eng.cs
| .mc _, .sram => base = 0 ∧ m = d.eng.sram ∧ m' = (d.spcStore h p o bs).eng.sram
| .mc _, .log => base = 0 ∧ m = d.eng.logSram ∧ m' = (d.spcStore h p o bs).eng.logSram
| _, _ => False))) :=
  ⟨⟨(witThr (witRegs 7 0x10000 11) : State), (.fe 0 0 : Hart), (noGuard : Guard), (2 : GReg), (3 : GReg), (2 : Fin 4), (3 : BitVec 8), ({} : Ecc), (.ld : Spc), (12 : Nat), ([0, 0, 0, 0] : List Byte), (((witThr (witRegs 7 0x10000 11)).dev.issued (.fe 0 0)).incBy .feEccCorr 0 0 : Dev), by rfl, by decide +kernel⟩,
   ⟨(witThr (witRegs 7 0x10001 11) : State), (.fe 0 0 : Hart), (noGuard : Guard), (2 : GReg), (3 : GReg), (2 : Fin 4), (3 : BitVec 8), (2 : Nat), by rfl, by decide +kernel⟩,
   ⟨(witThr (witRegs 7 0x40000 11) : State), (.fe 0 0 : Hart), (noGuard : Guard), (2 : GReg), (3 : GReg), (2 : Fin 4), (3 : BitVec 8), (.cs : Spc), (12 : Nat), by rfl, by decide +kernel⟩,
   ⟨(witThr (witRegs 7 0x20 11) fun d => d.sf bqFree_FREE 0 5000 : State), (.fe 0 0 : Hart), (noGuard : Guard), (2 : GReg), (3 : GReg), (1 : Fin 4), (3 : BitVec 8), (0 : Fin 64), (0 : Fin 4), (38 : Nat), by rfl, by decide +kernel⟩,
   ⟨(wit fun d => d.setMc 0 { (d.mcCore 0) with rf := ((d.mcCore 0).rf.put 2 5).put 3 0xF0001070 } : State), (.mc 0 : Hart), (noGuard : Guard), (2 : GReg), (3 : GReg), (0 : BitVec 8), (0 : Fin 2), (0x1070 : Nat), by rfl, by decide +kernel⟩,
   ⟨(wit fun d => d.setMc 0 { (d.mcCore 0) with rf := ((d.mcCore 0).rf.put 2 5).put 3 0xF0440000 } |>.sf bwLinkStatus_UP 3 1 : State), (.mc 0 : Hart), (noGuard : Guard), (2 : GReg), (3 : GReg), (0 : BitVec 8), (0 : Fin 2), (0x440000 : Nat), (3 : Nat), by rfl, by decide +kernel⟩,
   ⟨(wit fun d => (d.setMc 0 { (d.mcCore 0) with rf := ((d.mcCore 0).rf.put 2 5).put 3 0xF0440000 } |>.sf bwLinkStatus_UP 3 1).setFarQueue 3 (List.replicate 32 ⟨16, 0, 0x440000, 1, .posted, false⟩) : State), (.mc 0 : Hart), (noGuard : Guard), (2 : GReg), (3 : GReg), (0 : BitVec 8), (0 : Fin 2), (0x440000 : Nat), (3 : Nat), by rfl, by decide +kernel⟩,
   ⟨(witThr (witRegs 7 0x40010 11) : State), (.fe 0 0 : Hart), (noGuard : Guard), (2 : GReg), (3 : GReg), (4 : GReg), (false : Bool), ({} : Ecc), (4 : Nat), (16 : Nat), ([0, 0, 0, 0] : List Byte), (((witThr (witRegs 7 0x40010 11)).dev.issued (.fe 0 0)).incBy .feEccCorr 0 0 : Dev), by rfl, by decide +kernel⟩,
   ⟨(witThr (witRegs 7 0x10001 3) : State), (.fe 0 0 : Hart), (noGuard : Guard), (2 : GReg), (3 : GReg), (4 : GReg), ({} : Ecc), (.ld : Spc), (1 : Nat), ([0, 0, 0] : List Byte), (((witThr (witRegs 7 0x10001 3)).dev.issued (.fe 0 0)).incBy .feEccCorr 0 0 : Dev), by rfl, by decide +kernel⟩,
   ⟨({} : Dev), (.mc 0 : Hart), (.sram : Spc), (16 : Nat), (0 : Nat), ([1, 2] : List Byte), ([] : Sparse Byte), ((({} : Dev).spcStore (.mc 0) .sram 16 [1, 2]).eng.sram : Sparse Byte), by decide +kernel⟩⟩

/-- The hypotheses of SystemAndExceptions are met, clause by clause (part 1). -/
theorem test_hyps_SystemAndExceptions_1 :
    (∃ (s : State) (h : Hart) (g : Guard) (n : Fin 64) (t : Fin 4) (rd : GReg) (num : BitVec 12) (v : Nat), s.On ∧ h = .fe n t ∧ (s.dev.canIssue h g [rd] none = true) ∧ (s.dev.issued h).feSpecial n t num.toNat = some v) ∧
    (∃ (s : State) (h : Hart) (g : Guard) (n : Fin 64) (t : Fin 4) (ra : GReg), s.On ∧ h = .fe n t ∧ (s.dev.canIssue h g [ra] none = true) ∧ (s.dev.thr n t).kind = .frame) ∧
    (∃ (s : State) (h : Hart) (g : Guard) (ra : GReg) (rb : GReg), s.On ∧ (s.dev.canIssue h g [ra, rb] none = true) ∧ ((s.dev.rf h).get ra).toNat < 1024 ∧ s.dev.shadowed h = false) ∧
    (∃ (s : State) (h : Hart) (g : Guard), s.On ∧ (s.dev.canIssue h g [] none = true)) ∧
    (∃ (s : State) (h : Hart) (g : Guard), s.On ∧ (s.dev.canIssue h g [] none = true) ∧ (s.dev.safe.bkpt = []) ∧ (s.dev.safe.watch = [])) ∧
    (∃ (s : State) (h : Hart) (g : Guard) (c : Fin 2) (rd : GReg) (num : BitVec 12) (v : Nat), s.On ∧ h = .mc c ∧ (s.dev.canIssue h g [rd] none = true) ∧ (s.dev.mcCore c).sup = true ∧ s.dev.sysRead c num.toNat = some v) ∧
    (∃ (s : State) (h : Hart) (g : Guard) (c : Fin 2) (ra : GReg) (num : BitVec 12) (y : McCore), s.On ∧ h = .mc c ∧ (s.dev.canIssue h g [ra] none = true) ∧ (s.dev.mcCore c).sup = true ∧ sysWrite ((s.dev.complete h id).mcCore c) num.toNat ((s.dev.rf h).get ra) = some y ∧ ((sysWrite {} num.toNat 0).isSome = true)) :=
  ⟨⟨(witThr (witRegs 7 9 11) : State), (.fe 0 0 : Hart), (noGuard : Guard), (0 : Fin 64), (0 : Fin 4), (2 : GReg), (0x006 : BitVec 12), (100 : Nat), by rfl, by decide +kernel⟩,
   ⟨(witThr (witRegs 7 9 11) : State), (.fe 0 0 : Hart), (noGuard : Guard), (0 : Fin 64), (0 : Fin 4), (3 : GReg), by rfl, by decide +kernel⟩,
   ⟨(witThr (witRegs 7 9 11) : State), (.fe 0 0 : Hart), (noGuard : Guard), (3 : GReg), (4 : GReg), by rfl, by decide +kernel⟩,
   ⟨(witThr (witRegs 7 9 11) : State), (.fe 0 0 : Hart), (noGuard : Guard), by rfl, by decide +kernel⟩,
   ⟨(witThr (witRegs 7 9 11) : State), (.fe 0 0 : Hart), (noGuard : Guard), by rfl, by decide +kernel⟩,
   ⟨(State.reset : State), (.mc 0 : Hart), (noGuard : Guard), (0 : Fin 2), (2 : GReg), (1 : BitVec 12), (0x101 : Nat), by rfl, by decide +kernel⟩,
   ⟨(witMc fun x => { x with rf := x.rf.put 3 0x1234567 } : State), (.mc 0 : Hart), (noGuard : Guard), (0 : Fin 2), (3 : GReg), (5 : BitVec 12), (let x := ((witMc fun x => { x with rf := x.rf.put 3 0x1234567 }).dev.complete (.mc 0) id).mcCore 0; { x with trapBase := 0x1234567 / 512 * 512 } : McCore), by rfl, by decide +kernel⟩⟩

/-- The hypotheses of SystemAndExceptions are met, clause by clause (part 2). -/
theorem test_hyps_SystemAndExceptions_2 :
    (∃ (s : State) (h : Hart) (g : Guard) (c : Fin 2), s.On ∧ h = .mc c ∧ (s.dev.canIssue h g [] none = true) ∧ (s.dev.mcCore c).sup = true) ∧
    (∃ (s : State) (h : Hart) (g : Guard) (c : Fin 2), s.On ∧ h = .mc c ∧ (s.dev.canIssue h g [] none = true)) ∧
    (∃ (s : State) (h : Hart) (g : Guard) (c : Fin 2), s.On ∧ h = .mc c ∧ (s.dev.canIssue h g [2] none = true) ∧ (s.dev.mcCore c).sup = false) ∧
    (∃ (s : State) (c : Fin 2) (l : Nat), s.On ∧ s.dev.mcRuns c = true ∧ (s.dev.mcCore c).st = .ready ∧ bitAt 0 (s.dev.mcCore c).ctl = true ∧ s.dev.mcLine c = some l) ∧
    (∃ (s : State) (c : Fin 2), s.On ∧ (s.dev.mcCore c).st = .ready ∧ bitAt 0 (s.dev.mcCore c).ctl = false) ∧
    (∃ (s : State), s.On) :=
  ⟨⟨(State.reset : State), (.mc 0 : Hart), (noGuard : Guard), (0 : Fin 2), by rfl, by decide +kernel⟩,
   ⟨(witMc fun x => { x with ctl := 0x11, trapBase := 0x200 } : State), (.mc 0 : Hart), (noGuard : Guard), (0 : Fin 2), by rfl, by decide +kernel⟩,
   ⟨(witMc fun x => { x with ctl := 0x1, trapBase := 0x200, winCfg := [(0, 0xFFFFF00F)] } : State), (.mc 0 : Hart), (noGuard : Guard), (0 : Fin 2), by rfl, by decide +kernel⟩,
   ⟨(witMc fun x => { x with ctl := 0x11, trapBase := 0x200, irqMask := 2 ^ 31, alarm := 0 } : State), (0 : Fin 2), (31 : Nat), by rfl, by decide +kernel⟩,
   ⟨(State.reset : State), (0 : Fin 2), by rfl, by decide +kernel⟩,
   ⟨(State.reset : State), by rfl⟩⟩

/-- The hypotheses of PacketsAndTerminals are met, clause by clause (part 1). -/
theorem test_hyps_PacketsAndTerminals_1 :
    (∃ (s : State) (h : Hart) (g : Guard) (n : Fin 64) (t : Fin 4) (ra : GReg) (k : Int), s.On ∧ h = .fe n t ∧ (s.dev.canIssue h g [ra] none = true) ∧ (s.dev.thr n t).kind = .frame ∧ ((s.dev.thr n t).rf.get ra).toInt = k ∧ (s.dev.thr n t).net + k ≤ 128 ∧ 1 ≤ (s.dev.thr n t).out.length + k ∧ (s.dev.thr n t).out.length + k ≤ 9728 ∧ ((s.dev.thr n t).shadow = true ∨ ((s.dev.thr n t).outGrp = 0 ∧ cellsOf ((s.dev.thr n t).out.length + k).toNat ≤ s.dev.freeCells))) ∧
    (∃ (s : State) (h : Hart) (g : Guard) (n : Fin 64) (t : Fin 4) (ra : GReg) (k : Int), s.On ∧ h = .fe n t ∧ (s.dev.canIssue h g [ra] none = true) ∧ (s.dev.thr n t).kind = .frame ∧ ((s.dev.thr n t).rf.get ra).toInt = k ∧ (128 < (s.dev.thr n t).net + k ∨ (s.dev.thr n t).out.length + k < 1 ∨ 9728 < (s.dev.thr n t).out.length + k)) ∧
    (∃ (s : State) (h : Hart) (g : Guard) (n : Fin 64) (t : Fin 4) (ra : GReg) (l : Nat), s.On ∧ h = .fe n t ∧ (s.dev.canIssue h g [ra] none = true) ∧ (s.dev.thr n t).kind = .frame ∧ ((s.dev.thr n t).rf.get ra).toNat = l ∧ 1 ≤ l ∧ l ≤ 9728 ∧ ((s.dev.thr n t).shadow = true ∨ ((s.dev.thr n t).outGrp = 0 ∧ cellsOf l ≤ s.dev.freeCells))) ∧
    (∃ (s : State) (h : Hart) (g : Guard) (n : Fin 64) (t : Fin 4) (ra : GReg), s.On ∧ h = .fe n t ∧ (s.dev.canIssue h g [ra] none = true) ∧ (s.dev.thr n t).kind = .frame ∧ (((s.dev.thr n t).rf.get ra).toNat = 0 ∨ 9728 < ((s.dev.thr n t).rf.get ra).toNat)) ∧
    (∃ (s : State) (h : Hart) (g : Guard) (n : Fin 64) (t : Fin 4) (ra : GReg), s.On ∧ h = .fe n t ∧ (s.dev.canIssue h g [ra] none = true) ∧ (s.dev.thr n t).kind = .frame ∧ (((s.dev.thr n t).rf.get ra).toNat % 64 = 0) ∧ ((s.dev.thr n t).rf.get ra).toNat < (s.dev.thr n t).out.length) ∧
    (∃ (s : State) (h : Hart) (g : Guard) (n : Fin 64) (t : Fin 4) (ra : GReg), s.On ∧ h = .fe n t ∧ (s.dev.canIssue h g [ra] none = true) ∧ (s.dev.thr n t).kind = .frame ∧ (((s.dev.thr n t).rf.get ra).toNat % 64 ≠ 0 ∨ (s.dev.thr n t).out.length ≤ ((s.dev.thr n t).rf.get ra).toNat)) ∧
    (∃ (s : State) (h : Hart) (g : Guard) (n : Fin 64) (t : Fin 4) (ra : GReg), s.On ∧ h = .fe n t ∧ (s.dev.thr n t).kind = .frame ∧ ((s.dev.rf h).busy = []) ∧ (s.dev.thr n t).shadow = false ∧ (s.dev.canIssue h g [ra] none = true) ∧ (emitPort (((s.dev.thr n t).rf.get ra).toNat % 128) = true)) :=
  ⟨⟨(witThr (witRegs 7 0xFFFFFFFFFFFFFFFC 11) fun d => d.sf bqFree_FREE 0 5000 : State), (.fe 0 0 : Hart), (noGuard : Guard), (0 : Fin 64), (0 : Fin 4), (3 : GReg), (-4 : Int), by rfl, by decide +kernel⟩,
   ⟨(witThr (witRegs 7 129 11) : State), (.fe 0 0 : Hart), (noGuard : Guard), (0 : Fin 64), (0 : Fin 4), (3 : GReg), (129 : Int), by rfl, by decide +kernel⟩,
   ⟨(witThr (witRegs 7 64 11) fun d => d.sf bqFree_FREE 0 5000 : State), (.fe 0 0 : Hart), (noGuard : Guard), (0 : Fin 64), (0 : Fin 4), (3 : GReg), (64 : Nat), by rfl, by decide +kernel⟩,
   ⟨(witThr (witRegs 7 0 11) : State), (.fe 0 0 : Hart), (noGuard : Guard), (0 : Fin 64), (0 : Fin 4), (3 : GReg), by rfl, by decide +kernel⟩,
   ⟨(witThr (witRegs 7 64 11) : State), (.fe 0 0 : Hart), (noGuard : Guard), (0 : Fin 64), (0 : Fin 4), (3 : GReg), by rfl, by decide +kernel⟩,
   ⟨(witThr (witRegs 7 128 11) : State), (.fe 0 0 : Hart), (noGuard : Guard), (0 : Fin 64), (0 : Fin 4), (3 : GReg), by rfl, by decide +kernel⟩,
   ⟨(witThr (witRegs 7 9 11) : State), (.fe 0 0 : Hart), (noGuard : Guard), (0 : Fin 64), (0 : Fin 4), (3 : GReg), by rfl, by decide +kernel⟩⟩

/-- The hypotheses of PacketsAndTerminals are met, clause by clause (part 2). -/
theorem test_hyps_PacketsAndTerminals_2 :
    (∃ (s : State) (h : Hart) (g : Guard) (n : Fin 64) (t : Fin 4) (ra : GReg), s.On ∧ h = .fe n t ∧ (s.dev.thr n t).kind = .frame ∧ ((s.dev.rf h).busy = []) ∧ (s.dev.thr n t).shadow = false ∧ (s.dev.canIssue h g [ra] none = true) ∧ (emitPort (((s.dev.thr n t).rf.get ra).toNat % 128) = false)) ∧
    (∃ (s : State) (h : Hart) (g : Guard) (n : Fin 64) (t : Fin 4) (ra : GReg), s.On ∧ h = .fe n t ∧ (s.dev.thr n t).kind = .frame ∧ ((s.dev.rf h).busy = []) ∧ (s.dev.thr n t).shadow = false ∧ ra ≠ 31 ∧ (s.dev.canIssue h g [ra.val, ra.val + 1] none = true) ∧ portsOk (portSetOf (s.dev.thr n t).rf ra) = true) ∧
    (∃ (s : State) (h : Hart) (g : Guard) (n : Fin 64) (t : Fin 4), s.On ∧ h = .fe n t ∧ (s.dev.thr n t).kind = .frame ∧ ((s.dev.rf h).busy = []) ∧ (s.dev.thr n t).shadow = false ∧ (s.dev.canIssue h g [] none = true)) ∧
    (∃ (s : State) (h : Hart) (g : Guard) (n : Fin 64) (t : Fin 4) (ra : GReg) (dom : Fin 16) (ring : Fin 16), s.On ∧ h = .fe n t ∧ (s.dev.thr n t).kind = .frame ∧ ((s.dev.rf h).busy = []) ∧ (s.dev.thr n t).shadow = false ∧ (s.dev.canIssue h g [ra] none = true) ∧ (ra = 0 ∨ (dom = 0 ∧ ring = 0)) ∧ s.dev.copyhOk (copyhArgs (s.dev.thr n t).rf ra dom ring).1 (copyhArgs (s.dev.thr n t).rf ra dom ring).2 = true) ∧
    (∃ (s : State) (h : Hart) (g : Guard) (n : Fin 64) (t : Fin 4) (session : Fin 8), s.On ∧ h = .fe n t ∧ (s.dev.thr n t).kind = .frame ∧ ((s.dev.rf h).busy = []) ∧ (s.dev.thr n t).shadow = false ∧ (s.dev.canIssue h g [] none = true) ∧ s.dev.mirrorRuleOn session = true) ∧
    (∃ (s : State) (h : Hart) (g : Guard) (n : Fin 64) (t : Fin 4), s.On ∧ h = .fe n t ∧ (s.dev.thr n t).kind = .frame ∧ ((s.dev.rf h).busy = []) ∧ (s.dev.thr n t).shadow = false ∧ (s.dev.canIssue h g [] none = true) ∧ (s.dev.thr n t).src.pass ≠ 1) ∧
    (∃ (s : State) (h : Hart) (g : Guard) (n : Fin 64) (t : Fin 4), s.On ∧ h = .fe n t ∧ (s.dev.thr n t).kind = .frame ∧ ((s.dev.rf h).busy = []) ∧ (s.dev.thr n t).shadow = false ∧ (s.dev.canIssue h g [] none = true) ∧ (s.dev.thr n t).src.pass = 1) :=
  ⟨⟨(witThr (witRegs 1 30 3) : State), (.fe 0 0 : Hart), (noGuard : Guard), (0 : Fin 64), (0 : Fin 4), (3 : GReg), by rfl, by decide +kernel⟩,
   ⟨(witThr (witRegs 1 6 0) : State), (.fe 0 0 : Hart), (noGuard : Guard), (0 : Fin 64), (0 : Fin 4), (3 : GReg), by rfl, by decide +kernel⟩,
   ⟨(witThr (witRegs 7 9 11) : State), (.fe 0 0 : Hart), (noGuard : Guard), (0 : Fin 64), (0 : Fin 4), by rfl, by decide +kernel⟩,
   ⟨(witThr (witRegs 1 6 0) fun d => d.sf hrRxCfg_ENABLE 2 1 : State), (.fe 0 0 : Hart), (noGuard : Guard), (0 : Fin 64), (0 : Fin 4), (0 : GReg), (0 : Fin 16), (2 : Fin 16), by rfl, by decide +kernel⟩,
   ⟨(witThr (witRegs 1 6 0) fun d => d.sf bqMirrorCfg_ENABLE 1 1 : State), (.fe 0 0 : Hart), (noGuard : Guard), (0 : Fin 64), (0 : Fin 4), (1 : Fin 8), by rfl, by decide +kernel⟩,
   ⟨(witThr (witRegs 7 9 11) : State), (.fe 0 0 : Hart), (noGuard : Guard), (0 : Fin 64), (0 : Fin 4), by rfl, by decide +kernel⟩,
   ⟨(witThr (witRegs 1 6 0) fun d => d.setThr 0 0 { d.thr 0 0 with src := { pass := 1 } } : State), (.fe 0 0 : Hart), (noGuard : Guard), (0 : Fin 64), (0 : Fin 4), by rfl, by decide +kernel⟩⟩

/-- The hypotheses of AsynchronousInstructions are met, clause by clause (part 1). -/
theorem test_hyps_AsynchronousInstructions_1 :
    (∃ (s : State) (h : Hart) (g : Guard) (tk : TokId) (rd : GReg) (ra : GReg), s.On ∧ ra.val + 8 ≤ 32 ∧ rd.val + 2 ≤ 32 ∧ s.dev.canIssue h g (spanRegs ra 8 ++ spanRegs rd 2) (some tk) = true) ∧
    (∃ (s : State) (h : Hart) (g : Guard) (n : Fin 64) (t : Fin 4) (rd : GReg) (ra : GReg) (set : Fin 16) (ecc : Ecc), s.On ∧ h = .fe n t ∧ (ecc.failing = []) ∧ (s.dev.thr n t).kind = .frame ∧ (s.dev.thr n t).acted = none ∧ ra.val + 8 ≤ 32 ∧ rd.val + 2 ≤ 32 ∧ s.dev.canIssue h g (spanRegs ra 8 ++ spanRegs rd 2) none = true ∧ (s.dev.search h set (matchKeyOf (s.dev.rf h) ra)).1 = none) ∧
    (∃ (s : State) (h : Hart) (g : Guard) (tk : TokId) (rd : GReg) (ra : GReg) (table : Fin 16) (learn : Bool), s.On ∧ table.val < 9 ∧ (learn = false ∨ (table = 0 ∧ s.dev.noFrame h = false)) ∧ ra.val + 2 ≤ 32 ∧ rd.val + 2 ≤ 32 ∧ ((table.val = tblCan → 32 ≤ bits 38 32 ((s.dev.rf h).get ra).toNat ∧ bits 38 32 ((s.dev.rf h).get ra).toNat ≤ 79)) ∧ s.dev.canIssue h g (spanRegs ra 2 ++ spanRegs rd 2) (some tk) = true) ∧
    (∃ (s : State) (h : Hart) (g : Guard) (tk : TokId) (rd : GReg) (ra : GReg), s.On ∧ (bits 38 32 ((s.dev.rf h).get ra).toNat < 32 ∨ 79 < bits 38 32 ((s.dev.rf h).get ra).toNat) ∧ ra.val + 2 ≤ 32 ∧ rd.val + 2 ≤ 32 ∧ s.dev.canIssue h g (spanRegs ra 2 ++ spanRegs rd 2) (some tk) = true) ∧
    (∃ (s : State) (h : Hart) (g : Guard) (tk : TokId) (rd : GReg) (ra : GReg) (u : Nat) (k : Nat) (gen : Nat) (cmac : Bool) (dec : Bool), s.On ∧ (u, cmac) = s.dev.actingUser h ∧ k = bits 11 0 ((s.dev.rf h).get (ra + 2)).toNat ∧ gen = bits 19 12 ((s.dev.rf h).get (ra + 2)).toNat ∧ s.dev.blockRefused u k gen dec cmac = none ∧ ra.val + 3 ≤ 32 ∧ rd.val + 2 ≤ 32 ∧ s.dev.canIssue h g (spanRegs ra 3 ++ spanRegs rd 2) (some tk) = true) ∧
    (∃ (s : State) (h : Hart) (g : Guard) (tk : TokId) (rd : GReg) (ra : GReg) (u : Nat) (k : Nat) (gen : Nat) (st : Nat) (cmac : Bool) (dec : Bool), s.On ∧ (u, cmac) = s.dev.actingUser h ∧ k = bits 11 0 ((s.dev.rf h).get (ra + 2)).toNat ∧ gen = bits 19 12 ((s.dev.rf h).get (ra + 2)).toNat ∧ s.dev.blockRefused u k gen dec cmac = some st ∧ ra.val + 3 ≤ 32 ∧ rd.val + 2 ≤ 32 ∧ s.dev.canIssue h g (spanRegs ra 3 ++ spanRegs rd 2) (some tk) = true) ∧
    (∃ (s : State) (h : Hart) (g : Guard) (tk : TokId) (rd : GReg) (ra : GReg) (v : Nat), s.On ∧ v = ((s.dev.rf h).get ra).toNat ∧ 32 ≤ bits 38 32 v ∧ bits 38 32 v ≤ 79 ∧ rd.val + 9 ≤ 32 ∧ (s.dev.canIssue h g (ra.val :: spanRegs rd 9) (some tk) = true)) ∧
    (∃ (s : State) (h : Hart) (g : Guard) (tk : TokId) (rd : GReg) (ra : GReg), s.On ∧ (((s.dev.rf h).get ra).toNat % 65536 = 0) ∧ (s.dev.canIssue h g [rd, ra] (some tk) = true)) :=
  ⟨⟨(witThr (witRegs 7 9 11) : State), (.fe 0 0 : Hart), (noGuard : Guard), (1 : TokId), (2 : GReg), (8 : GReg), by rfl, by decide +kernel⟩,
   ⟨(witThr (witRegs 7 9 11) : State), (.fe 0 0 : Hart), (noGuard : Guard), (0 : Fin 64), (0 : Fin 4), (2 : GReg), (8 : GReg), (1 : Fin 16), ({} : Ecc), by rfl, by decide +kernel⟩,
   ⟨(witThr (witRegs 7 9 11) : State), (.fe 0 0 : Hart), (noGuard : Guard), (1 : TokId), (2 : GReg), (3 : GReg), (0 : Fin 16), (true : Bool), by rfl, by decide +kernel⟩,
   ⟨(witThr (witRegs 7 9 11) : State), (.fe 0 0 : Hart), (noGuard : Guard), (1 : TokId), (2 : GReg), (3 : GReg), by rfl, by decide +kernel⟩,
   ⟨(witThr (witRegs 1 3 0) witKey : State), (.fe 0 0 : Hart), (noGuard : Guard), (1 : TokId), (2 : GReg), (3 : GReg), (17 : Nat), (0 : Nat), (0 : Nat), (true : Bool), (true : Bool), by rfl, by decide +kernel⟩,
   ⟨(witThr (witRegs 1 3 0) : State), (.fe 0 0 : Hart), (noGuard : Guard), (1 : TokId), (2 : GReg), (3 : GReg), (17 : Nat), (0 : Nat), (0 : Nat), (3 : Nat), (true : Bool), (false : Bool), by rfl, by decide +kernel⟩,
   ⟨(witThr (witRegs 1 0x2100000005 3) : State), (.fe 0 0 : Hart), (noGuard : Guard), (1 : TokId), (2 : GReg), (3 : GReg), (0x2100000005 : Nat), by rfl, by decide +kernel⟩,
   ⟨(witThr (witRegs 1 0x10000 3) : State), (.fe 0 0 : Hart), (noGuard : Guard), (1 : TokId), (2 : GReg), (3 : GReg), by rfl, by decide +kernel⟩⟩

/-- The hypotheses of AsynchronousInstructions are met, clause by clause (part 2). -/
theorem test_hyps_AsynchronousInstructions_2 :
    (∃ (s : State) (h : Hart) (g : Guard) (tk : TokId) (rd : GReg) (ra : GReg) (budget : Fin 4), s.On ∧ s.dev.shadowed h = false ∧ (s.dev.paBudget budget < ((s.dev.rf h).get ra).toNat % 65536) ∧ (s.dev.canIssue h g [rd, ra] (some tk) = true)) ∧
    (∃ (s : State) (h : Hart) (g : Guard) (tk : TokId) (rd : GReg) (ra : GReg) (budget : Fin 4), s.On ∧ s.dev.shadowed h = false ∧ (((s.dev.rf h).get ra).toNat % 65536 ≠ 0) ∧ (((s.dev.rf h).get ra).toNat % 65536 ≤ s.dev.paBudget budget) ∧ (s.dev.acct budget).waiting.length < 64 ∧ (s.dev.canIssue h g [rd, ra] (some tk) = true)) ∧
    (∃ (s : State) (h : Hart) (g : Guard) (tk : TokId) (rd : GReg) (ra : GReg), s.On ∧ s.dev.shadowed h = true ∧ (((s.dev.rf h).get ra).toNat % 65536 ≠ 0) ∧ (s.dev.canIssue h g [rd, ra] (some tk) = true)) ∧
    (∃ (s : State) (h : Hart) (g : Guard) (tk : TokId) (ra : GReg), s.On ∧ s.dev.shadowed h = false ∧ (s.dev.canIssue h g [ra] (some tk) = true)) ∧
    (∃ (s : State) (h : Hart) (g : Guard) (rd : GReg), s.On ∧ (s.dev.canIssue h g [rd] none = true)) ∧
    (∃ (s : State) (h : Hart) (g : Guard) (tk : TokId) (ra : GReg) (td : Fin 4) (rel : Bool) (due : Nat), s.On ∧ (due = (if rel then (s.dev.domNow td + ((s.dev.rf h).get ra).toNat) % 2 ^ 64 else ((s.dev.rf h).get ra).toNat)) ∧ (s.dev.canIssue h g [ra] (some tk) = true)) ∧
    (∃ (s : State) (h : Hart) (g : Guard), s.On ∧ (s.dev.canIssue h g [] none = true)) :=
  ⟨⟨(witThr (witRegs 1 0xFFFF 3) : State), (.fe 0 0 : Hart), (noGuard : Guard), (1 : TokId), (2 : GReg), (3 : GReg), (0 : Fin 4), by rfl, by decide +kernel⟩,
   ⟨(witThr (witRegs 1 30 3) fun d => d.sf mdPaBudget_BUDGET_MW 3 100 : State), (.fe 0 0 : Hart), (noGuard : Guard), (1 : TokId), (2 : GReg), (3 : GReg), (1 : Fin 4), by rfl, by decide +kernel⟩,
   ⟨(witThr (witRegs 1 30 3) fun d => d.setThr 0 0 { d.thr 0 0 with shadow := true } : State), (.fe 0 0 : Hart), (noGuard : Guard), (1 : TokId), (2 : GReg), (3 : GReg), by rfl, by decide +kernel⟩,
   ⟨(witThr (witRegs 7 9 11) : State), (.fe 0 0 : Hart), (noGuard : Guard), (1 : TokId), (3 : GReg), by rfl, by decide +kernel⟩,
   ⟨(witThr (witRegs 7 9 11) : State), (.fe 0 0 : Hart), (noGuard : Guard), (2 : GReg), by rfl, by decide +kernel⟩,
   ⟨(witThr (witRegs 7 9 11) : State), (.fe 0 0 : Hart), (noGuard : Guard), (1 : TokId), (3 : GReg), (0 : Fin 4), (true : Bool), (9 : Nat), by rfl, by decide +kernel⟩,
   ⟨(witThr (witRegs 7 9 11) : State), (.fe 0 0 : Hart), (noGuard : Guard), by rfl, by decide +kernel⟩⟩

/-- The hypotheses of TokenCompletions are met, clause by clause. -/
theorem test_hyps_TokenCompletions :
    (∃ (s : State) (h : Hart) (tk : TokId) (ecc : Ecc) (rd : Nat) (n : Nat) (action : Nat), s.On ∧ s.dev.hartSt h = .ready ∧ (ecc.failing = []) ∧ s.dev.shadowed h = false ∧ s.dev.tokOp h tk = some (.ruleSearch rd (some n) action)) ∧
    (∃ (s : State) (h : Hart) (tk : TokId) (ecc : Ecc) (rd : Nat) (action : Nat), s.On ∧ s.dev.hartSt h = .ready ∧ (ecc.failing = []) ∧ s.dev.tokOp h tk = some (.ruleSearch rd none action)) ∧
    (∃ (s : State) (h : Hart) (tk : TokId) (ecc : Ecc) (rd : Nat) (table : Nat) (k0 : Nat) (k1 : Nat) (learn : Bool) (r : LookupResult) (d1 : Dev), s.On ∧ s.dev.hartSt h = .ready ∧ s.dev.shadowed h = false ∧ s.dev.tokOp h tk = some (.lookup rd table k0 k1 learn) ∧ (s.dev.lookupEcc table (s.dev.hartEpoch h) ecc).lookupDo table (s.dev.hartEpoch h) k0 k1 (s.dev.hartLearn h learn) (!ecc.failing.isEmpty) = (r, d1) ∧ r.status ≠ 8 ∧ d1.hartSt h = .ready ∧ d1.rf h = s.dev.rf h) ∧
    (∃ (s : State) (h : Hart) (tk : TokId) (rd : Nat) (u : Nat) (slot : Nat) (key : Nat) (block : Nat) (n : Nat) (dec : Bool), s.On ∧ s.dev.hartSt h = .ready ∧ s.dev.tokOp h tk = some (.cipher rd u slot key dec block none) ∧ s.dev.shadowed h = false ∧ s.dev.coreFor u slot key = some n ∧ s.dev.coreTurn n = some u) ∧
    (∃ (s : State) (h : Hart) (tk : TokId) (rd : Nat) (u : Nat) (slot : Nat) (key : Nat) (block : Nat) (n : Nat) (dec : Bool), s.On ∧ s.dev.hartSt h = .ready ∧ s.dev.shadowed h = false ∧ s.dev.tokOp h tk = some (.cipher rd u slot key dec block (some n)) ∧ s.dev.opOf (uAc n) = none ∧ s.dev.cx.faulty.contains (s.dev.f idAcMap_PHYS n) = false) ∧
    (∃ (s : State) (h : Hart) (tk : TokId) (rd : Nat) (u : Nat) (slot : Nat) (key : Nat) (block : Nat) (n : Nat) (dec : Bool), s.On ∧ s.dev.hartSt h = .ready ∧ s.dev.shadowed h = false ∧ s.dev.tokOp h tk = some (.cipher rd u slot key dec block (some n)) ∧ s.dev.opOf (uAc n) = none ∧ s.dev.cx.faulty.contains (s.dev.f idAcMap_PHYS n) = true) ∧
    (∃ (s : State) (h : Hart) (tk : TokId) (kind : Nat) (rd : Nat) (chan : Nat) (fmt : Nat) (ident : Nat) (words : List Nat), s.On ∧ s.dev.hartSt h = .ready ∧ s.dev.shadowed h = false ∧ s.dev.tokOp h tk = some (.object kind rd chan fmt ident words) ∧ s.dev.objFind chan fmt ident = none) ∧
    (∃ (s : State) (h : Hart) (tk : TokId) (td : Nat) (due : Nat), s.On ∧ s.dev.hartSt h = .ready ∧ s.dev.tokOp h tk = some (.alarm td due) ∧ due ≤ s.dev.domNow td) ∧
    (∃ (s : State) (h : Hart) (tk : TokId) (td : Nat) (due : Nat), s.On ∧ s.dev.hartSt h = .ready ∧ s.dev.tokOp h tk = some (.alarm td due) ∧ s.dev.domNow td < due) :=
  ⟨⟨(witTok (.ruleSearch 4 (some 9) 0x77) : State), (.fe 0 0 : Hart), (1 : TokId), ({} : Ecc), (4 : Nat), (9 : Nat), (0x77 : Nat), by rfl, by decide +kernel⟩,
   ⟨(witTok (.ruleSearch 4 none 0) : State), (.fe 0 0 : Hart), (1 : TokId), ({} : Ecc), (4 : Nat), (0 : Nat), by rfl, by decide +kernel⟩,
   ⟨(witTok (.lookup 4 0 5 6 false) : State), (.fe 0 0 : Hart), (1 : TokId), ({} : Ecc), (4 : Nat), (0 : Nat), (5 : Nat), (6 : Nat), (false : Bool), (((witTok (.lookup 4 0 5 6 false)).dev.lookupDo 0 0 5 6 none false).1 : LookupResult), (((witTok (.lookup 4 0 5 6 false)).dev.lookupDo 0 0 5 6 none false).2 : Dev), by rfl, by decide +kernel⟩,
   ⟨(witTok (.cipher 4 17 0 5 false 6 none) witKey : State), (.fe 0 0 : Hart), (1 : TokId), (4 : Nat), (17 : Nat), (0 : Nat), (5 : Nat), (6 : Nat), (((witTok (.cipher 4 17 0 5 false 6 none) witKey).dev.coreFor 17 0 5).getD 99 : Nat), (false : Bool), by rfl, by decide +kernel⟩,
   ⟨(witTok (.cipher 4 17 0 5 false 6 (some 3)) : State), (.fe 0 0 : Hart), (1 : TokId), (4 : Nat), (17 : Nat), (0 : Nat), (5 : Nat), (6 : Nat), (3 : Nat), (false : Bool), by rfl, by decide +kernel⟩,
   ⟨(witTok (.cipher 4 17 0 5 false 6 (some 3)) fun d => { d with cx := { d.cx with faulty := [3] } } : State), (.fe 0 0 : Hart), (1 : TokId), (4 : Nat), (17 : Nat), (0 : Nat), (5 : Nat), (6 : Nat), (3 : Nat), (false : Bool), by rfl, by decide +kernel⟩,
   ⟨(witTok (.object 0 4 33 0 5 []) : State), (.fe 0 0 : Hart), (1 : TokId), (0 : Nat), (4 : Nat), (33 : Nat), (0 : Nat), (5 : Nat), ([] : List Nat), by rfl, by decide +kernel⟩,
   ⟨(witTok (.alarm 0 0) : State), (.fe 0 0 : Hart), (1 : TokId), (0 : Nat), (0 : Nat), by rfl, by decide +kernel⟩,
   ⟨(witTok (.alarm 0 9) : State), (.fe 0 0 : Hart), (1 : TokId), (0 : Nat), (9 : Nat), by rfl, by decide +kernel⟩⟩

/-- The hypotheses of ProgramSetsLoadAndFree are met, clause by clause. -/
theorem test_hyps_ProgramSetsLoadAndFree :
    (∃ (s : State) (init : Initiator) (clusters : BitVec 8), s.On ∧ s.dev.may init .feLoadCmd 0 = true ∧ (init ≠ 16 ∨ clusters = 0 ∨ s.dev.f feLoadStatus_BUSY 0 = 1)) ∧
    (∃ (s : State) (clusters : BitVec 8), s.On ∧ s.dev.may 16 .feLoadCmd 0 = true ∧ clusters ≠ 0 ∧ s.dev.f feLoadStatus_BUSY 0 = 0 ∧ s.dev.loadFormat = false) ∧
    (∃ (s : State) (clusters : BitVec 8), s.On ∧ s.dev.may 16 .feLoadCmd 0 = true ∧ clusters ≠ 0 ∧ s.dev.f feLoadStatus_BUSY 0 = 0 ∧ s.dev.loadFormat = true ∧ ((List.range 4).all (fun k => ((List.range 8).filter (fun c => clusters.getLsbD c)).any fun c => s.dev.slotState c k != 0) = true)) ∧
    (∃ (s : State) (clusters : BitVec 8) (ecc : Ecc) (k : Fin 4), s.On ∧ s.dev.may 16 .feLoadCmd 0 = true ∧ clusters ≠ 0 ∧ s.dev.f feLoadStatus_BUSY 0 = 0 ∧ (ecc.failing = []) ∧ s.dev.loadFormat = true ∧ ((List.range k).all (fun j => ((List.range 8).filter (fun c => clusters.getLsbD c)).any fun c => s.dev.slotState c j != 0) = true) ∧ (((List.range 8).filter (fun c => clusters.getLsbD c)).all (fun c => s.dev.slotState c k == 0 && (s.dev.storeFit c s.dev.loadHead.kib).isSome && s.dev.layoutOk c k s.dev.loadHead.layout) = true)) ∧
    (∃ (s : State), s.On) ∧
    (∃ (s : State) (clusters : BitVec 8) (slot : Fin 4), s.On ∧ s.dev.may 16 .feLoadCmd 0 = true ∧ clusters ≠ 0 ∧ s.dev.f feLoadStatus_BUSY 0 = 0 ∧ (((List.range 8).filter (fun c => clusters.getLsbD c)).any (fun c => s.dev.slotState c slot != 2) = true)) ∧
    (∃ (s : State) (clusters : BitVec 8) (slot : Fin 4), s.On ∧ s.dev.may 16 .feLoadCmd 0 = true ∧ clusters ≠ 0 ∧ s.dev.f feLoadStatus_BUSY 0 = 0 ∧ s.dev.b lsSepiaCfg_EN 0 = false ∧ s.dev.ep.txn = none ∧ (((List.range 8).filter (fun c => clusters.getLsbD c)).all (fun c => s.dev.slotState c slot == 2) = true)) :=
  ⟨⟨(State.reset : State), (16 : Initiator), (0 : BitVec 8), by rfl, by decide +kernel⟩,
   ⟨(State.reset : State), (3 : BitVec 8), by rfl, by decide +kernel⟩,
   ⟨(witImg fun d => (List.range 4).foldl (fun d k => d.sf feSetSlotState_STATE k 2) d : State), (1 : BitVec 8), by rfl, by decide +kernel⟩,
   ⟨(witImg : State), (5 : BitVec 8), ({} : Ecc), (0 : Fin 4), by rfl, by decide +kernel⟩,
   ⟨(wit fun d => (d.sf feSetSlotState_STATE 5 1).sf feLoadStatus_BUSY 0 1 : State), by rfl⟩,
   ⟨(State.reset : State), (3 : BitVec 8), (1 : Fin 4), by rfl, by decide +kernel⟩,
   ⟨(wit fun d => d.sf feSetSlotState_STATE 5 2 : State), (2 : BitVec 8), (1 : Fin 4), by rfl, by decide +kernel⟩⟩

/-- The hypotheses of FramePathCommands are met, clause by clause (part 1). -/
theorem test_hyps_FramePathCommands_1 :
    (∃ (s : State) (p : Fin 20), s.On ∧ s.dev.inRecovery = false ∧ (s.dev.f ethMacCfg_RX_EN p = 0 ∨ s.dev.f ethIntf_INTF p = 0 ∨ s.dev.sleep.power = .sleep) ∧ (s.dev.bus.bwHeld = []) ∧ (s.dev.bus.rxCut = []) ∧ (s.dev.bus.wakeCut = [])) ∧
    (∃ (s : State) (p : Fin 20) (x : EthRx) (k : Nat), s.On ∧ s.dev.inRecovery = false ∧ s.dev.sleep.power ≠ .sleep ∧ s.dev.f ethMacCfg_RX_EN p = 1 ∧ s.dev.f ethIntf_INTF p ≠ 0 ∧ (x.ecc = {}) ∧ x.frags = 0 ∧ s.dev.ethRxError p x = some k ∧ (s.dev.bus.bwHeld = []) ∧ (s.dev.bus.rxCut = []) ∧ (s.dev.bus.wakeCut = [])) ∧
    (∃ (s : State) (p : Fin 20) (x : EthRx), s.On ∧ s.dev.inRecovery = false ∧ s.dev.sleep.power ≠ .sleep ∧ s.dev.f ethMacCfg_RX_EN p = 1 ∧ s.dev.f ethIntf_INTF p ≠ 0 ∧ (x.ecc = {}) ∧ x.frags = 0 ∧ s.dev.ethRxError p x = none ∧ beAt x.bytes 12 2 ≠ 0x8808 ∧ beAt x.bytes 12 2 ≠ 0x88B5 ∧ (s.dev.bus.bwHeld = []) ∧ (s.dev.bus.rxCut = []) ∧ (s.dev.bus.wakeCut = [])) ∧
    (∃ (s : State) (q : Fin 96) (fr : Frame) (rest : List Frame), s.On ∧ q ≠ 25 ∧ (Sparse.get (fun _ => []) s.dev.path.rxFifo q.val = fr :: rest)) ∧
    (∃ (s : State) (fr : Frame) (rest : List Frame), s.On ∧ (s.dev.path.recircQ = fr :: rest)) ∧
    (∃ (s : State) (q : Fin 96), s.On ∧ ((if q = 25 then s.dev.path.recircQ else Sparse.get (fun _ => []) s.dev.path.rxFifo q.val) = [])) ∧
    (∃ (s : State) (c : Fin 8), s.On ∧ (s.dev.dispQ c = [])) ∧
    (∃ (s : State) (c : Fin 8) (i : Nat) (w : Work) (n : Nat) (t : Nat), s.On ∧ s.dev.nextWork c = some (i, w, n, t) ∧ (s.dev.jobThread c w).2 = true) :=
  ⟨⟨(State.reset : State), (0 : Fin 20), by rfl, by decide +kernel⟩,
   ⟨(wit fun d => (d.sf ethMacCfg_RX_EN 3 1).sf ethIntf_INTF 3 1 : State), (3 : Fin 20), ({ bytes := [], time := 0 } : EthRx), (17 : Nat), by rfl, by decide +kernel⟩,
   ⟨(wit fun d => ((d.sf ethMacCfg_RX_EN 3 1).sf ethIntf_INTF 3 1).sf ethMacCfg_MAX_LEN 3 1518 : State), (3 : Fin 20), ({ bytes := List.replicate 60 0, time := 0 } : EthRx), by rfl, by decide +kernel⟩,
   ⟨(wit fun d => d.pushRx 4 witFrame : State), (4 : Fin 96), (witFrame : Frame), ([] : List Frame), by rfl, by decide +kernel⟩,
   ⟨(wit fun d => { d with path := { d.path with recircQ := [witFrame] } } : State), (witFrame : Frame), ([] : List Frame), by rfl, by decide +kernel⟩,
   ⟨(State.reset : State), (4 : Fin 96), by rfl, by decide +kernel⟩,
   ⟨(State.reset : State), (0 : Fin 8), by rfl, by decide +kernel⟩,
   ⟨(wit fun d => ((({ d with eng := { d.eng with sets := Sparse.set setDefault d.eng.sets 0 { codeWords := 64, entries := List.replicate 256 (2 ^ 31 + 5) } } }).sf unitState_STATE (uEng 2) 2).sf feEngRole_FRAME 2 1).setDispQ 0 [.frame witFrame] : State), (0 : Fin 8), (0 : Nat), (.frame witFrame : Work), (2 : Nat), (0 : Nat), by rfl, by decide +kernel⟩⟩

/-- The hypotheses of FramePathCommands are met, clause by clause (part 2). -/
theorem test_hyps_FramePathCommands_2 :
    (∃ (s : State) (q : Fin 4), s.On ∧ s.dev.f feSlowQRate_RATE q ≠ 0) ∧
    (∃ (s : State) (q : Fin 4), s.On ∧ s.dev.f feSlowQRate_RATE q = 0) ∧
    (∃ (s : State) (r : Fin 96) (q : Nat) (fr : Frame) (rel : Release) (rest : List (Nat × OrderItem)), s.On ∧ (s.dev.orderOf r = (q, .committed fr [rel]) :: rest)) ∧
    (∃ (s : State) (r : Fin 96) (q : Nat) (rest : List (Nat × OrderItem)), s.On ∧ (s.dev.orderOf r = (q, .waiting) :: rest ∨ s.dev.orderOf r = [])) ∧
    (∃ (s : State), s.On ∧ (s.dev.eng.threads = [])) ∧
    (∃ (s : State) (r : Fin 96) (q : Word) (fr : Frame), s.On ∧ (s.dev.path.recircQ.filter (ofSeq r q.toNat) = [fr]) ∧ (s.dev.path.dispQ = []) ∧ (s.dev.eng.threads = [])) ∧
    (∃ (s : State), s.On ∧ (s.dev.path.recircQ = []) ∧ (s.dev.path.dispQ = []) ∧ (s.dev.eng.threads = [])) :=
  ⟨⟨(wit fun d => (d.sf feSlowQRate_RATE 2 7).sf feSlowQRate_BURST 2 9 : State), (2 : Fin 4), by rfl, by decide +kernel⟩,
   ⟨(wit fun d => d.sf feSlowQRate_RATE 2 0 : State), (2 : Fin 4), by rfl, by decide +kernel⟩,
   ⟨(wit fun d => d.setOrder 4 [(7, .committed witFrame [.queue 3 0])] : State), (4 : Fin 96), (7 : Nat), (witFrame : Frame), (.queue 3 0 : Release), ([] : List (Nat × OrderItem)), by rfl, by decide +kernel⟩,
   ⟨(State.reset : State), (4 : Fin 96), (0 : Nat), ([] : List (Nat × OrderItem)), by rfl, by decide +kernel⟩,
   ⟨(wit fun d => { d with path := { d.path with recircQ := [witFrame, witFrame] } } : State), by rfl, by decide +kernel⟩,
   ⟨(wit fun d => { d with path := { d.path with recircQ := [witFrame] } } : State), (0 : Fin 96), (0 : Word), (witFrame : Frame), by rfl, by decide +kernel⟩,
   ⟨(State.reset : State), by rfl, by decide +kernel⟩⟩

/-- The hypotheses of TableCommands are met, clause by clause (part 1). -/
theorem test_hyps_TableCommands_1 :
    (∃ (s : State) (i : Fin 2), s.On ∧ s.dev.f tbCmd_BUSY i = 1) ∧
    (∃ (s : State) (i : Fin 2), s.On ∧ s.dev.f tbCmd_BUSY i = 0) ∧
    (∃ (s : State) (i : Fin 2) (t : Fin 16) (idx : BitVec 16), s.On ∧ s.dev.f tbCmd_BUSY i = 0 ∧ (t = 1 ∨ t = 5 ∨ t = 6 ∨ t = 7 ∨ t = 8) ∧ idx.toNat < tbSize t ∧ s.dev.tbBad t idx.toNat = false) ∧
    (∃ (s : State) (i : Fin 2) (t : Fin 16) (idx : BitVec 16), s.On ∧ s.dev.f tbCmd_BUSY i = 0 ∧ (t = 0 ∨ t = 2 ∨ t = 3 ∨ t = 4 ∨ t = 9) ∧ idx.toNat < tbSize t ∧ tbEnt (s.dev.tbCur t) idx.toNat ≠ 0 ∧ s.dev.tbBad t idx.toNat = false) ∧
    (∃ (s : State) (i : Fin 2) (t : Fin 16) (idx : BitVec 16), s.On ∧ s.dev.f tbCmd_BUSY i = 0 ∧ (t = 0 ∨ t = 4 ∨ t = 9) ∧ idx.toNat < tbSize t ∧ bitAt (tbValidBit t) (s.dev.tbDataIn i t) = false ∧ s.dev.tbMirrors t = false) ∧
    (∃ (s : State) (i : Fin 2) (t : Fin 16) (k : Nat), s.On ∧ s.dev.f tbCmd_BUSY i = 0 ∧ (opTables 3).contains t.val = true ∧ tbArgOk t (s.dev.tbDataIn i t) = true ∧ s.dev.f tbCmdArg_ALT i = 0 ∧ tbLocate t (s.dev.tbSeeds t) (s.dev.tbCur t) (insertEntry t (s.dev.tbDataIn i t)) = some k ∧ k < 65536 ∧ s.dev.tbMirrors t = false) ∧
    (∃ (s : State) (i : Fin 2) (t : Fin 16) (k : Nat), s.On ∧ s.dev.f tbCmd_BUSY i = 0 ∧ (t = 0 ∨ t = 4) ∧ tbArgOk t (s.dev.tbDataIn i t) = true ∧ s.dev.f tbCmdArg_ALT i = 0 ∧ tbLocate t (s.dev.tbSeeds t) (s.dev.tbCur t) (insertEntry t (s.dev.tbDataIn i t)) = none ∧ tbFree t (s.dev.tbCur t) (tbBucket t (s.dev.tbSeeds t) (insertEntry t (s.dev.tbDataIn i t)) 0) = some k ∧ s.dev.tbMirrors t = false) :=
  ⟨⟨(wit fun d => d.sf tbCmd_BUSY 0 1 : State), (0 : Fin 2), by rfl, by decide +kernel⟩,
   ⟨(State.reset : State), (0 : Fin 2), by rfl, by decide +kernel⟩,
   ⟨(State.reset : State), (0 : Fin 2), (1 : Fin 16), (5 : BitVec 16), by rfl, by decide +kernel⟩,
   ⟨(witTb 4 0 [(5, (2 ^ 47 + 35 * 2 ^ 32 + 0x123))] : State), (0 : Fin 2), (4 : Fin 16), (5 : BitVec 16), by rfl, by decide +kernel⟩,
   ⟨(witTb 4 0 [(5, (2 ^ 47 + 35 * 2 ^ 32 + 0x123))] : State), (0 : Fin 2), (4 : Fin 16), (5 : BitVec 16), by rfl, by decide +kernel⟩,
   ⟨(witTb 2 (24 * 2 ^ 128 + 0x0A000100) [(5, 24 * 2 ^ 128 + 0x0A000100)] : State), (0 : Fin 2), (2 : Fin 16), (5 : Nat), by rfl, by decide +kernel⟩,
   ⟨(witTb 4 (2 ^ 47 + 35 * 2 ^ 32 + 0x123) [] : State), (0 : Fin 2), (4 : Fin 16), (tbBucket 4 (State.reset.dev.tbSeeds 4) (2 ^ 47 + 35 * 2 ^ 32 + 0x123) 0 : Nat), by rfl, by decide +kernel⟩⟩

/-- The hypotheses of TableCommands are met, clause by clause (part 2). -/
theorem test_hyps_TableCommands_2 :
    (∃ (s : State) (i : Fin 2) (t : Fin 16) (k : Nat), s.On ∧ s.dev.f tbCmd_BUSY i = 0 ∧ (t = 0 ∨ t = 4) ∧ s.dev.f tbCmdArg_ALT i = 0 ∧ tbLocate t (s.dev.tbSeeds t) (s.dev.tbCur t) (s.dev.tbDataIn i t) = some k ∧ s.dev.tbMirrors t = false) ∧
    (∃ (s : State) (i : Fin 2) (t : Fin 16), s.On ∧ s.dev.f tbCmd_BUSY i = 0 ∧ (t = 0 ∨ t = 4) ∧ s.dev.f tbCmdArg_ALT i = 0 ∧ tbLocate t (s.dev.tbSeeds t) (s.dev.tbCur t) (s.dev.tbDataIn i t) = none) ∧
    (∃ (s : State) (i : Fin 2) (t : Fin 16) (k : Nat), s.On ∧ s.dev.f tbCmd_BUSY i = 0 ∧ (t = 0 ∨ t = 4) ∧ k < 65536 ∧ tbLocate t (s.dev.tbSeeds t) (s.dev.tbCur t) (s.dev.tbDataIn i t) = some k ∧ s.dev.tbBad t k = false) ∧
    (∃ (s : State) (i : Fin 2) (t : Fin 16), s.On ∧ s.dev.f tbCmd_BUSY i = 0 ∧ (t = 0 ∨ t = 4) ∧ tbLocate t (s.dev.tbSeeds t) (s.dev.tbCur t) (s.dev.tbDataIn i t) = none ∧ (s.dev.tab.bad = [])) ∧
    (∃ (s : State) (i : Fin 2) (t : Fin 16), s.On ∧ s.dev.f tbCmd_BUSY i = 0 ∧ (t = 0 ∨ t = 4) ∧ s.dev.f tbCmdArg_FLUSH_Q i = 0) ∧
    (∃ (s : State) (i : Fin 2) (x : Flush), s.On ∧ (s.dev.tab.flushes.find? (fun y => y.iface == i.val) = some x) ∧ (x.table = 0 ∨ x.table = 4) ∧ s.dev.tbMirrors x.table = false) ∧
    (∃ (s : State), s.On ∧ (s.dev.tab.flushes = [])) :=
  ⟨⟨(witTb 4 (2 ^ 47 + 35 * 2 ^ 32 + 0x123) [(tbBucket 4 (State.reset.dev.tbSeeds 4) (2 ^ 47 + 35 * 2 ^ 32 + 0x123) 1 + 2, (2 ^ 47 + 35 * 2 ^ 32 + 0x123))] : State), (0 : Fin 2), (4 : Fin 16), (tbBucket 4 (State.reset.dev.tbSeeds 4) (2 ^ 47 + 35 * 2 ^ 32 + 0x123) 1 + 2 : Nat), by rfl, by decide +kernel⟩,
   ⟨(State.reset : State), (0 : Fin 2), (4 : Fin 16), by rfl, by decide +kernel⟩,
   ⟨(witTb 4 (2 ^ 47 + 35 * 2 ^ 32 + 0x123) [(tbBucket 4 (State.reset.dev.tbSeeds 4) (2 ^ 47 + 35 * 2 ^ 32 + 0x123) 1 + 2, (2 ^ 47 + 35 * 2 ^ 32 + 0x123))] : State), (0 : Fin 2), (4 : Fin 16), (tbBucket 4 (State.reset.dev.tbSeeds 4) (2 ^ 47 + 35 * 2 ^ 32 + 0x123) 1 + 2 : Nat), by rfl, by decide +kernel⟩,
   ⟨(State.reset : State), (0 : Fin 2), (4 : Fin 16), by rfl, by decide +kernel⟩,
   ⟨(State.reset : State), (0 : Fin 2), (0 : Fin 16), by rfl, by decide +kernel⟩,
   ⟨(witTb 4 0 [(32767, (2 ^ 47 + 35 * 2 ^ 32 + 0x123))] fun d => ({ d with tab := { d.tab with flushes := [⟨0, 4, 32767, 3⟩] } }.sf tbCmd_BUSY 0 1) : State), (0 : Fin 2), (⟨0, 4, 32767, 3⟩ : Flush), by rfl, by decide +kernel⟩,
   ⟨(State.reset : State), by rfl, by decide +kernel⟩⟩

/-- The hypotheses of BackgroundTableWork are met, clause by clause (part 1). -/
theorem test_hyps_BackgroundTableWork_1 :
    (∃ (s : State) (i : Fin 2), s.On ∧ s.dev.f tbCmd_BUSY i = 0 ∧ s.dev.tab.sweep = none) ∧
    (∃ (s : State) (i : Fin 2), s.On ∧ s.dev.f tbCmd_BUSY i = 0 ∧ s.dev.tab.sweep ≠ none) ∧
    (∃ (s : State), s.On ∧ s.dev.f tbL2Cfg_SWEEP_S 0 ≠ 0 ∧ s.dev.tab.sweep = none) ∧
    (∃ (s : State), s.On ∧ (s.dev.f tbL2Cfg_SWEEP_S 0 = 0 ∨ s.dev.tab.sweep ≠ none)) ∧
    (∃ (s : State) (i : Fin 2) (t : Fin 16), s.On ∧ s.dev.f tbCmd_BUSY i = 0 ∧ (t = 0 ∨ t = 4 ∨ t = 9) ∧ s.dev.bgTaken t = true) ∧
    (∃ (s : State) (i : Fin 2) (t : Fin 16), s.On ∧ s.dev.f tbCmd_BUSY i = 0 ∧ (t = 2 ∨ t = 3) ∧ s.dev.bgTaken t = true) ∧
    (∃ (s : State) (i : Fin 2) (t : Fin 16), s.On ∧ s.dev.f tbCmd_BUSY i = 0 ∧ (t = 0 ∨ t = 4 ∨ t = 9) ∧ s.dev.bgTaken t = false ∧ (s.dev.paRequest 0 (.rehash t) 450).1 ≠ none) ∧
    (∃ (s : State) (i : Fin 2) (t : Fin 16), s.On ∧ s.dev.f tbCmd_BUSY i = 0 ∧ (t = 2 ∨ t = 3) ∧ s.dev.bgTaken t = false ∧ (s.dev.paRequest 0 (.rebuild t) 300).1 ≠ none) ∧
    (∃ (s : State) (i : Fin 2) (t : Fin 16), s.On ∧ s.dev.f tbCmd_BUSY i = 0 ∧ (t = 0 ∨ t = 4 ∨ t = 9) ∧ s.dev.bgTaken t = false ∧ (s.dev.paBudget 0 < 450 ∨ 64 ≤ (s.dev.acct 0).waiting.length)) :=
  ⟨⟨(State.reset : State), (0 : Fin 2), by rfl, by decide +kernel⟩,
   ⟨(wit fun d => { d with tab := { d.tab with sweep := some 3 } } : State), (0 : Fin 2), by rfl, by decide +kernel⟩,
   ⟨(wit fun d => d.sf tbL2Cfg_SWEEP_S 0 60 : State), by rfl, by decide +kernel⟩,
   ⟨(wit fun d => { d with tab := { d.tab with sweep := some 3 } } : State), by rfl, by decide +kernel⟩,
   ⟨(wit fun d => d.setTb 4 { (d.tb 4) with stage := 2 } : State), (0 : Fin 2), (4 : Fin 16), by rfl, by decide +kernel⟩,
   ⟨(wit fun d => d.setTb 2 { (d.tb 2) with stage := 2 } : State), (0 : Fin 2), (2 : Fin 16), by rfl, by decide +kernel⟩,
   ⟨(wit fun d => d.sf mdPaBudget_BUDGET_MW (d.paEntry 0) 900 : State), (0 : Fin 2), (4 : Fin 16), by rfl, by decide +kernel⟩,
   ⟨(wit fun d => d.sf mdPaBudget_BUDGET_MW (d.paEntry 0) 900 : State), (0 : Fin 2), (2 : Fin 16), by rfl, by decide +kernel⟩,
   ⟨(wit fun d => d.sf mdPaBudget_BUDGET_MW (d.paEntry 0) 400 : State), (0 : Fin 2), (4 : Fin 16), by rfl, by decide +kernel⟩⟩

/-- The hypotheses of BackgroundTableWork are met, clause by clause (part 2). -/
theorem test_hyps_BackgroundTableWork_2 :
    (∃ (s : State) (i : Fin 2) (t : Fin 16), s.On ∧ s.dev.f tbCmd_BUSY i = 0 ∧ (t = 2 ∨ t = 3) ∧ s.dev.bgTaken t = false ∧ (s.dev.paBudget 0 < 300 ∨ 64 ≤ (s.dev.acct 0).waiting.length)) ∧
    (∃ (s : State) (t : Fin 16), s.On ∧ ((s.dev.tb t).stage ≠ 2 ∨ isLpm t = true)) ∧
    (∃ (s : State) (t : Fin 16) (m : Sparse Nat), s.On ∧ (t = 0 ∨ t = 4 ∨ t = 9) ∧ (s.dev.tb t).stage = 2 ∧ (placeAll t (s.dev.seedPair .tbSeedNew t) s.dev.maxReloc (s.dev.tbCur t) [] = some m) ∧ s.dev.ep.txn ≠ none) ∧
    (∃ (s : State) (t : Fin 16), s.On ∧ ((s.dev.tb t).stage ≠ 2 ∨ isLpm t = false)) ∧
    (∃ (s : State) (t : Fin 16), s.On ∧ (t = 2 ∨ t = 3) ∧ (s.dev.tb t).stage = 2 ∧ (s.dev.tb t).hold = true) ∧
    (∃ (s : State) (i : Fin 2) (t : Fin 16), s.On ∧ s.dev.f tbCmd_BUSY i = 0 ∧ (t = 2 ∨ t = 3) ∧ (s.dev.tb t).stage ≠ 4) ∧
    (∃ (s : State) (i : Fin 2) (t : Fin 16), s.On ∧ s.dev.f tbCmd_BUSY i = 0 ∧ (t = 2 ∨ t = 3) ∧ (s.dev.tb t).stage = 4 ∧ s.dev.ep.txn ≠ none) ∧
    (∃ (s : State) (i : Fin 2) (t : Fin 16), s.On ∧ s.dev.f tbCmd_BUSY i = 0 ∧ (opTables 11).contains t.val = true ∧ ((t = 0 → s.dev.tab.sweep = none)) ∧ (s.dev.tb t).stage = 0 ∧ ((t = 9 → (s.dev.tb 3).stage = 0))) ∧
    (∃ (s : State) (i : Fin 2), s.On ∧ s.dev.f tbCmd_BUSY i = 0 ∧ s.dev.tab.sweep ≠ none ∧ (s.dev.tb 0).stage = 0) :=
  ⟨⟨(wit fun d => d.sf mdPaBudget_BUDGET_MW (d.paEntry 0) 200 : State), (0 : Fin 2), (3 : Fin 16), by rfl, by decide +kernel⟩,
   ⟨(State.reset : State), (0 : Fin 16), by rfl, by decide +kernel⟩,
   ⟨(witTxn {} 1 fun d => d.setTb 4 { (d.tb 4) with stage := 2 } : State), (4 : Fin 16), ([] : Sparse Nat), by rfl, by decide +kernel⟩,
   ⟨(State.reset : State), (0 : Fin 16), by rfl, by decide +kernel⟩,
   ⟨(wit fun d => d.setTb 2 { (d.tb 2) with stage := 2, hold := true } : State), (2 : Fin 16), by rfl, by decide +kernel⟩,
   ⟨(State.reset : State), (0 : Fin 2), (2 : Fin 16), by rfl, by decide +kernel⟩,
   ⟨(witTxn {} 1 fun d => d.setTb 2 { (d.tb 2) with stage := 4 } : State), (0 : Fin 2), (2 : Fin 16), by rfl, by decide +kernel⟩,
   ⟨(State.reset : State), (0 : Fin 2), (4 : Fin 16), by rfl, by decide +kernel⟩,
   ⟨(wit fun d => { d with tab := { d.tab with sweep := some 3 } } : State), (0 : Fin 2), by rfl, by decide +kernel⟩⟩

/-- The hypotheses of LearnAndAge are met, clause by clause (part 1). -/
theorem test_hyps_LearnAndAge_1 :
    (∃ (s : State), s.On ∧ (s.dev.tab.learnQ = [])) ∧
    (∃ (s : State) (x : Learn) (q : List Learn), s.On ∧ (s.dev.tab.learnQ = x :: q) ∧ tbFind 0 (s.dev.tbSeeds 0) (s.dev.tbCur 0) x.key = none ∧ (24 < x.port ∨ s.dev.f tbL2PortCfg_LIMIT x.port = 0 ∨ s.dev.l2Dyn x.port < s.dev.f tbL2PortCfg_LIMIT x.port) ∧ ((tbPlace 0 (s.dev.tbSeeds 0) s.dev.maxReloc (s.dev.tbCur 0) (x.key % 2 ^ 60 + x.port % 128 * 2 ^ 64 + 2 ^ 73 + 2 ^ 79 + x.stamp % 2 ^ 32 * 2 ^ 96)).isSome = true)) ∧
    (∃ (s : State) (x : Learn) (q : List Learn) (r : Sparse Nat × Nat), s.On ∧ (s.dev.tab.learnQ = x :: q) ∧ tbFind 0 (s.dev.tbSeeds 0) (s.dev.tbCur 0) x.key = none ∧ (24 < x.port ∨ s.dev.f tbL2PortCfg_LIMIT x.port = 0) ∧ (tbPlace 0 (s.dev.tbSeeds 0) s.dev.maxReloc (s.dev.tbCur 0) (x.key % 2 ^ 60 + x.port % 128 * 2 ^ 64 + 2 ^ 73 + 2 ^ 79 + x.stamp % 2 ^ 32 * 2 ^ 96) = some r) ∧ (Sparse.wf (fun _ => 0) (s.dev.tbCur 0) = true) ∧ (s.dev.tb 0).alt = none) ∧
    (∃ (s : State) (x : Learn) (q : List Learn), s.On ∧ (s.dev.tab.learnQ = x :: q) ∧ tbFind 0 (s.dev.tbSeeds 0) (s.dev.tbCur 0) x.key = none ∧ (24 < x.port ∨ s.dev.f tbL2PortCfg_LIMIT x.port = 0) ∧ (tbPlace 0 (s.dev.tbSeeds 0) s.dev.maxReloc (s.dev.tbCur 0) (x.key % 2 ^ 60 + x.port % 128 * 2 ^ 64 + 2 ^ 73 + 2 ^ 79 + x.stamp % 2 ^ 32 * 2 ^ 96) = none)) ∧
    (∃ (s : State) (x : Learn) (q : List Learn), s.On ∧ (s.dev.tab.learnQ = x :: q) ∧ tbFind 0 (s.dev.tbSeeds 0) (s.dev.tbCur 0) x.key = none ∧ x.port ≤ 24 ∧ s.dev.f tbL2PortCfg_LIMIT x.port ≠ 0 ∧ s.dev.f tbL2PortCfg_LIMIT x.port ≤ s.dev.l2Dyn x.port) ∧
    (∃ (s : State) (x : Learn) (q : List Learn) (k : Nat), s.On ∧ (s.dev.tab.learnQ = x :: q) ∧ tbFind 0 (s.dev.tbSeeds 0) (s.dev.tbCur 0) x.key = some k ∧ l2Static (tbEnt (s.dev.tbCur 0) k) = true ∧ l2Port (tbEnt (s.dev.tbCur 0) k) ≠ x.port) ∧
    (∃ (s : State) (x : Learn) (q : List Learn) (k : Nat), s.On ∧ (s.dev.tab.learnQ = x :: q) ∧ tbFind 0 (s.dev.tbSeeds 0) (s.dev.tbCur 0) x.key = some k ∧ l2Static (tbEnt (s.dev.tbCur 0) k) = false ∧ l2Locked (tbEnt (s.dev.tbCur 0) k) = true ∧ l2Port (tbEnt (s.dev.tbCur 0) k) ≠ x.port) ∧
    (∃ (s : State) (x : Learn) (q : List Learn) (k : Nat), s.On ∧ (s.dev.tab.learnQ = x :: q) ∧ tbFind 0 (s.dev.tbSeeds 0) (s.dev.tbCur 0) x.key = some k ∧ (s.dev.tb 0).alt = none ∧ x.port < 128 ∧ (x.stamp < 2 ^ 32) ∧ l2Static (tbEnt (s.dev.tbCur 0) k) = false ∧ l2Locked (tbEnt (s.dev.tbCur 0) k) = false ∧ l2Port (tbEnt (s.dev.tbCur 0) k) ≠ x.port ∧ 0 < stampDiff x.stamp (l2Stamp (tbEnt (s.dev.tbCur 0) k)) ∧ s.dev.f tbL2Cfg_FLAP_WIN_US 0 * 1000 ≤ (stampDiff x.stamp (l2Stamp (tbEnt (s.dev.tbCur 0) k))).natAbs * 1024) ∧
    (∃ (s : State) (x : Learn) (q : List Learn) (k : Nat), s.On ∧ (s.dev.tab.learnQ = x :: q) ∧ tbFind 0 (s.dev.tbSeeds 0) (s.dev.tbCur 0) x.key = some k ∧ l2Static (tbEnt (s.dev.tbCur 0) k) = false ∧ l2Locked (tbEnt (s.dev.tbCur 0) k) = false ∧ l2Port (tbEnt (s.dev.tbCur 0) k) ≠ x.port ∧ stampDiff x.stamp (l2Stamp (tbEnt (s.dev.tbCur 0) k)) ≤ 0 ∧ s.dev.f tbL2Cfg_FLAP_WIN_US 0 * 1000 ≤ (stampDiff x.stamp (l2Stamp (tbEnt (s.dev.tbCur 0) k))).natAbs * 1024) :=
  ⟨⟨(State.reset : State), by rfl, by decide +kernel⟩,
   ⟨(wit fun d => { d with tab := { d.tab with learnQ := [⟨77, 3, 9⟩] } } : State), (⟨77, 3, 9⟩ : Learn), ([] : List Learn), by rfl, by decide +kernel⟩,
   ⟨(wit fun d => { d with tab := { d.tab with learnQ := [⟨77, 3, 9⟩] } } : State), (⟨77, 3, 9⟩ : Learn), ([] : List Learn), ((tbPlace 0 (State.reset.dev.tbSeeds 0) State.reset.dev.maxReloc [] (77 + 3 * 2 ^ 64 + 2 ^ 73 + 2 ^ 79 + 9 * 2 ^ 96)).get! : Sparse Nat × Nat), by rfl, by decide +kernel⟩,
   ⟨(wit fun d => ({ d with tab := { d.tab with learnQ := [⟨77, 3, 9⟩] } }.sf tbL2Cfg_MAX_RELOC 0 0).setTb 0 { (d.tb 0) with cur := { ents := ((List.range 8).map fun i => (tbBucket 0 (State.reset.dev.tbSeeds 0) 77 0 + i, 2 ^ 79 + 1000 + i)) ++ (List.range 8).map fun i => (tbBucket 0 (State.reset.dev.tbSeeds 0) 77 1 + i, 2 ^ 79 + 2000 + i) } } : State), (⟨77, 3, 9⟩ : Learn), ([] : List Learn), by rfl, by decide +kernel⟩,
   ⟨(witTb 0 0 [(9, (2 ^ 79 + 2 ^ 73 + 3 * 2 ^ 64 + 77))] fun d => { d with tab := { d.tab with learnQ := [⟨78, 3, 9⟩] } }.sf tbL2PortCfg_LIMIT 3 1 : State), (⟨78, 3, 9⟩ : Learn), ([] : List Learn), by rfl, by decide +kernel⟩,
   ⟨(witTb 0 0 [((tbBucket 0 (State.reset.dev.tbSeeds 0) 77 0), (2 ^ 79 + 2 ^ 73 + 3 * 2 ^ 64 + 77) + 2 ^ 71)] fun d => { d with tab := { d.tab with learnQ := [⟨77, 5, 9⟩] } } : State), (⟨77, 5, 9⟩ : Learn), ([] : List Learn), ((tbBucket 0 (State.reset.dev.tbSeeds 0) 77 0) : Nat), by rfl, by decide +kernel⟩,
   ⟨(witTb 0 0 [((tbBucket 0 (State.reset.dev.tbSeeds 0) 77 0), (2 ^ 79 + 2 ^ 73 + 3 * 2 ^ 64 + 77) + 2 ^ 72)] fun d => { d with tab := { d.tab with learnQ := [⟨77, 5, 9⟩] } } : State), (⟨77, 5, 9⟩ : Learn), ([] : List Learn), ((tbBucket 0 (State.reset.dev.tbSeeds 0) 77 0) : Nat), by rfl, by decide +kernel⟩,
   ⟨(witTb 0 0 [((tbBucket 0 (State.reset.dev.tbSeeds 0) 77 0), (2 ^ 79 + 2 ^ 73 + 3 * 2 ^ 64 + 77))] fun d => { d with tab := { d.tab with learnQ := [⟨77, 5, 900000000⟩] } } : State), (⟨77, 5, 900000000⟩ : Learn), ([] : List Learn), ((tbBucket 0 (State.reset.dev.tbSeeds 0) 77 0) : Nat), by rfl, by decide +kernel⟩,
   ⟨(witTb 0 0 [((tbBucket 0 (State.reset.dev.tbSeeds 0) 77 0), (2 ^ 79 + 2 ^ 73 + 3 * 2 ^ 64 + 77) + 900000000 * 2 ^ 96)] fun d => { d with tab := { d.tab with learnQ := [⟨77, 5, 9⟩] } } : State), (⟨77, 5, 9⟩ : Learn), ([] : List Learn), ((tbBucket 0 (State.reset.dev.tbSeeds 0) 77 0) : Nat), by rfl, by decide +kernel⟩⟩

/-- The hypotheses of LearnAndAge are met, clause by clause (part 2). -/
theorem test_hyps_LearnAndAge_2 :
    (∃ (s : State) (x : Learn) (q : List Learn) (k : Nat), s.On ∧ (s.dev.tab.learnQ = x :: q) ∧ tbFind 0 (s.dev.tbSeeds 0) (s.dev.tbCur 0) x.key = some k ∧ (s.dev.tb 0).alt = none ∧ (x.stamp < 2 ^ 32) ∧ l2Static (tbEnt (s.dev.tbCur 0) k) = false ∧ l2Port (tbEnt (s.dev.tbCur 0) k) = x.port) ∧
    (∃ (s : State) (x : Learn) (q : List Learn) (k : Nat), s.On ∧ (s.dev.tab.learnQ = x :: q) ∧ tbFind 0 (s.dev.tbSeeds 0) (s.dev.tbCur 0) x.key = some k ∧ (s.dev.tb 0).alt = none ∧ x.port < 128 ∧ (x.stamp < 2 ^ 32) ∧ s.dev.tab.locks.length < 256 ∧ tbIdent 0 (tbEnt (s.dev.tbCur 0) k) = x.key ∧ l2Static (tbEnt (s.dev.tbCur 0) k) = false ∧ l2Locked (tbEnt (s.dev.tbCur 0) k) = false ∧ l2Port (tbEnt (s.dev.tbCur 0) k) ≠ x.port ∧ (stampDiff x.stamp (l2Stamp (tbEnt (s.dev.tbCur 0) k))).natAbs * 1024 < s.dev.f tbL2Cfg_FLAP_WIN_US 0 * 1000) ∧
    (∃ (s : State), s.On ∧ (s.dev.tab.locks = [])) ∧
    (∃ (s : State) (key : BitVec 60) (k : Nat), s.On ∧ (key.toNat ∈ s.dev.tab.locks) ∧ tbFind 0 (s.dev.tbSeeds 0) (s.dev.tbCur 0) key.toNat = some k ∧ (s.dev.tb 0).alt = none) ∧
    (∃ (s : State), s.On ∧ s.dev.tab.sweep = none) ∧
    (∃ (s : State) (k : Nat), s.On ∧ s.dev.tab.sweep = some k ∧ k < 65535 ∧ tbEnt (s.dev.tbCur 0) k = 0 ∧ s.dev.tbBad 0 k = false) ∧
    (∃ (s : State) (k : Nat), s.On ∧ s.dev.tab.sweep = some k ∧ k < 65535 ∧ tbEnt (s.dev.tbCur 0) k ≠ 0 ∧ l2Static (tbEnt (s.dev.tbCur 0) k) = false ∧ l2Hit (tbEnt (s.dev.tbCur 0) k) = false ∧ l2Aged (tbEnt (s.dev.tbCur 0) k) = true ∧ s.dev.tbBad 0 k = false ∧ (s.dev.tb 0).alt = none) ∧
    (∃ (s : State) (k : Nat), s.On ∧ s.dev.tab.sweep = some k ∧ k < 65535 ∧ tbEnt (s.dev.tbCur 0) k ≠ 0 ∧ l2Static (tbEnt (s.dev.tbCur 0) k) = false ∧ (l2Hit (tbEnt (s.dev.tbCur 0) k) = true ∨ l2Aged (tbEnt (s.dev.tbCur 0) k) = false) ∧ s.dev.tbBad 0 k = false ∧ (s.dev.tb 0).alt = none ∧ (stampDiff s.dev.stampNow (l2Stamp (tbEnt (s.dev.tbCur 0) k)) ≤ 2 ^ 29) ∧ (Sparse.wf (fun _ => 0) (s.dev.tbCur 0) = true)) :=
  ⟨⟨(witTb 0 0 [((tbBucket 0 (State.reset.dev.tbSeeds 0) 77 0), (2 ^ 79 + 2 ^ 73 + 3 * 2 ^ 64 + 77) + 900000000 * 2 ^ 96)] fun d => { d with tab := { d.tab with learnQ := [⟨77, 3, 9⟩] } } : State), (⟨77, 3, 9⟩ : Learn), ([] : List Learn), ((tbBucket 0 (State.reset.dev.tbSeeds 0) 77 0) : Nat), by rfl, by decide +kernel⟩,
   ⟨(witTb 0 0 [((tbBucket 0 (State.reset.dev.tbSeeds 0) 77 0), (2 ^ 79 + 2 ^ 73 + 3 * 2 ^ 64 + 77) + 12 * 2 ^ 96)] fun d => { d with tab := { d.tab with learnQ := [⟨77, 5, 9⟩] } }.sf tbL2Cfg_FLAP_WIN_US 0 1000 : State), (⟨77, 5, 9⟩ : Learn), ([] : List Learn), ((tbBucket 0 (State.reset.dev.tbSeeds 0) 77 0) : Nat), by rfl, by decide +kernel⟩,
   ⟨(State.reset : State), by rfl, by decide +kernel⟩,
   ⟨(witTb 0 0 [((tbBucket 0 (State.reset.dev.tbSeeds 0) 77 0), (2 ^ 79 + 2 ^ 73 + 3 * 2 ^ 64 + 77) + 2 ^ 72)] fun d => { d with tab := { d.tab with locks := [77] } } : State), (77 : BitVec 60), ((tbBucket 0 (State.reset.dev.tbSeeds 0) 77 0) : Nat), by rfl, by decide +kernel⟩,
   ⟨(State.reset : State), by rfl, by decide +kernel⟩,
   ⟨(wit fun d => { d with tab := { d.tab with sweep := some 3 } } : State), (3 : Nat), by rfl, by decide +kernel⟩,
   ⟨(witTb 0 0 [(3, 2 ^ 79 + 2 ^ 74 + 3 * 2 ^ 64 + 77)] fun d => { d with tab := { d.tab with sweep := some 3 } } : State), (3 : Nat), by rfl, by decide +kernel⟩,
   ⟨(witTb 0 0 [(3, 2 ^ 79 + 2 ^ 73 + 3 * 2 ^ 64 + 77)] fun d => { d with tab := { d.tab with sweep := some 3 } } : State), (3 : Nat), by rfl, by decide +kernel⟩⟩

/-- The hypotheses of LinksAndQueues are met, clause by clause (part 1). -/
theorem test_hyps_LinksAndQueues_1 :
    (∃ (s : State) (p : Fin 96), s.On ∧ 32 ≤ p ∧ p < 80 ∧ s.dev.portAsleep p = false ∧ s.dev.f bqPortCfg_STATE p = 0 ∧ (s.dev.can (p - 32)).cur = none ∧ s.dev.f bqPortCfg_LL_HOLD_MS p ≠ 0 ∧ s.dev.ep.txn = none ∧ (s.dev.bus.bwHeld = [])) ∧
    (∃ (s : State) (p : Fin 96), s.On ∧ 32 ≤ p ∧ p < 80 ∧ s.dev.portAsleep p = false ∧ s.dev.f bqPortCfg_STATE p = 0 ∧ (s.dev.can (p - 32)).cur = none ∧ s.dev.f bqPortCfg_LL_HOLD_MS p = 0 ∧ s.dev.ep.txn = none ∧ (s.dev.bus.bwHeld = [])) ∧
    (∃ (s : State) (p : Fin 96), s.On ∧ (80 ≤ p ∨ (20 ≤ p ∧ p < 32)) ∧ s.dev.ep.txn = none ∧ (s.dev.bus.bwHeld = [])) ∧
    (∃ (s : State) (p : Fin 96), s.On ∧ 32 ≤ p ∧ p < 80 ∧ (s.dev.portAsleep p = true ∨ s.dev.f bqPortCfg_STATE p ≠ 0) ∧ s.dev.ep.txn = none ∧ (s.dev.bus.bwHeld = [])) ∧
    (∃ (s : State) (p : Fin 96), s.On ∧ s.dev.f bqPortCfg_STATE p = 1 ∧ s.dev.portAsleep p = false) ∧
    (∃ (s : State) (p : Fin 96), s.On ∧ (s.dev.f bqPortCfg_STATE p ≠ 1 ∨ s.dev.portAsleep p = true)) ∧
    (∃ (s : State) (p : Fin 96), s.On ∧ 32 ≤ p ∧ p < 80) ∧
    (∃ (s : State) (p : Fin 96), s.On ∧ s.dev.sending p = false ∧ (((s.dev.queue (qNo p 0)).all fun x => !x.held && x.ts.isNone) = true)) :=
  ⟨⟨(wit fun d => d.sf bqPortCfg_LL_HOLD_MS 33 20 : State), (33 : Fin 96), by rfl, by decide +kernel⟩,
   ⟨(witQ fun d => d.sf bqPortCfg_LL_HOLD_MS 33 0 : State), (33 : Fin 96), by rfl, by decide +kernel⟩,
   ⟨(State.reset : State), (81 : Fin 96), by rfl, by decide +kernel⟩,
   ⟨(wit fun d => d.sf bqPortCfg_STATE 33 1 : State), (33 : Fin 96), by rfl, by decide +kernel⟩,
   ⟨(witQ fun d => d.sf bqPortCfg_STATE 33 1 : State), (33 : Fin 96), by rfl, by decide +kernel⟩,
   ⟨(State.reset : State), (33 : Fin 96), by rfl, by decide +kernel⟩,
   ⟨(wit fun d => d.sf bqPortCfg_STATE 33 2 : State), (33 : Fin 96), by rfl, by decide +kernel⟩,
   ⟨(witQ : State), (33 : Fin 96), by rfl, by decide +kernel⟩⟩

/-- The hypotheses of LinksAndQueues are met, clause by clause (part 2). -/
theorem test_hyps_LinksAndQueues_2 :
    (∃ (s : State) (p : Fin 96), s.On ∧ s.dev.sending p = true) ∧
    (∃ (s : State), s.On ∧ (s.dev.buf.queues = [])) ∧
    (∃ (s : State) (p : Fin 96) (x : QFrame), s.On ∧ (s.dev.buf.queues = [(qNo p 0, [x])]) ∧ s.dev.residenceOver (qNo p 0) x = true ∧ x.ts = none) ∧
    (∃ (s : State) (p : Fin 96) (tx : Bool), s.On ∧ tx = true ∧ (p < 32 ∨ 80 ≤ p)) ∧
    (∃ (s : State), s.On) ∧
    (∃ (s : State) (v : Word), s.On ∧ (bits 29 28 v.toNat = 3 ∨ 19 < bits 19 13 v.toNat ∨ emitPort (bits 26 20 v.toNat) = false)) ∧
    (∃ (s : State) (v : Word), s.On ∧ bits 29 28 v.toNat ≠ 3 ∧ bits 19 13 v.toNat ≤ 19 ∧ emitPort (bits 26 20 v.toNat) = true ∧ (bits 26 20 v.toNat < 32 ∨ v.getLsbD 27 = true)) ∧
    (∃ (s : State) (v : Word), s.On ∧ bits 13 0 v.toNat ≤ 9728) :=
  ⟨⟨(wit fun d => d.setEth 2 { (d.eth 2) with wire := some ({}, 0) } : State), (2 : Fin 96), by rfl, by decide +kernel⟩,
   ⟨(State.reset : State), by rfl, by decide +kernel⟩,
   ⟨({ (witQ fun d => (d.sf bqQResid_MAX_RES_US (qNo 33 0) 1)) with dev := { (witQ fun d => (d.sf bqQResid_MAX_RES_US (qNo 33 0) 1)).dev with raw := 2 ^ 40 } } : State), (33 : Fin 96), ({ f := { witFrame with grp := 5 }, cells := 1 } : QFrame), by rfl, by decide +kernel⟩,
   ⟨(State.reset : State), (2 : Fin 96), (true : Bool), by rfl, by decide +kernel⟩,
   ⟨(State.reset : State), by rfl⟩,
   ⟨(State.reset : State), (0x30000000 : Word), by rfl, by decide +kernel⟩,
   ⟨(State.reset : State), (0x90304000 : Word), by rfl, by decide +kernel⟩,
   ⟨(State.reset : State), (0x00050040 : Word), by rfl, by decide +kernel⟩⟩

/-- The hypotheses of RulesAndStreams are met, clause by clause (part 1). -/
theorem test_hyps_RulesAndStreams_1 :
    (∃ (s : State) (w : Fin 35) (v : Word), s.On ∧ (s.dev.rule (s.dev.f clsRuleSel_INDEX 0)).valid = true ∧ (w ≠ 34 ∨ v.getLsbD 31 = true)) ∧
    (∃ (s : State) (w : Fin 35) (n : Nat), s.On ∧ s.dev.f clsRuleSel_INDEX 0 = n ∧ (s.dev.rule n).valid = false ∧ s.dev.setDraining (s.dev.rule n).pset = false ∧ w < 32) ∧
    (∃ (s : State) (w : Fin 35) (v : Word) (n : Nat), s.On ∧ s.dev.f clsRuleSel_INDEX 0 = n ∧ (s.dev.rule n).valid = false ∧ s.dev.setDraining (s.dev.rule n).pset = false ∧ (w = 32 ∨ w = 33) ∧ ((w = 32 → actionOk v.toNat = true))) ∧
    (∃ (s : State) (v : Word), s.On ∧ actionOk v.toNat = false) ∧
    (∃ (s : State) (v : Word) (n : Nat), s.On ∧ s.dev.f clsRuleSel_INDEX 0 = n ∧ (s.dev.rule n).valid = false ∧ s.dev.setDraining (s.dev.rule n).pset = false ∧ s.dev.setDraining (bits 27 24 v.toNat) = false) ∧
    (∃ (s : State) (g : Fin 1024), s.On ∧ gateLen (s.dev.directAt 6 g) = 0) :=
  ⟨⟨(wit fun d => { d with path := { d.path with rules := [(0, { valid := true })] } } : State), (3 : Fin 35), (7 : Word), by rfl, by decide +kernel⟩,
   ⟨(State.reset : State), (3 : Fin 35), (0 : Nat), by rfl, by decide +kernel⟩,
   ⟨(State.reset : State), (32 : Fin 35), (0x12 : Word), (0 : Nat), by rfl, by decide +kernel⟩,
   ⟨(State.reset : State), (0xF : Word), by rfl, by decide +kernel⟩,
   ⟨(State.reset : State), (0x81000007 : Word), (0 : Nat), by rfl, by decide +kernel⟩,
   ⟨(State.reset : State), (3 : Fin 1024), by rfl, by decide +kernel⟩⟩

/-- The hypotheses of RulesAndStreams are met, clause by clause (part 2). -/
theorem test_hyps_RulesAndStreams_2 :
    (∃ (s : State) (g : Fin 1024) (k : Nat) (i : Nat), s.On ∧ gateLen (s.dev.directAt 6 g) ≠ 0 ∧ (Sparse.get (fun _ => 0) s.dev.tab.gatePos g.val % gateLen (s.dev.directAt 6 g) = k) ∧ gateBase (s.dev.directAt 6 g) + k = i) ∧
    (∃ (s : State) (v : Word), s.On ∧ (999999999 < v.toNat % 2 ^ 30)) ∧
    (∃ (s : State) (w : Fin 4) (v : Word), s.On ∧ w ≠ 3 ∧ ((w = 0 → v.toNat % 2 ^ 30 ≤ 999999999))) ∧
    (∃ (s : State), s.On) ∧
    (∃ (s : State) (r : Fin 512), s.On ∧ bits 31 16 (s.dev.directAt 8 r) = 0) ∧
    (∃ (s : State) (r : Fin 512), s.On ∧ bits 31 16 (s.dev.directAt 8 r) ≠ 0) :=
  ⟨⟨(wit fun d => (d.setDirect 6 3 (2 * 2 ^ 80 + 4 * 2 ^ 64)).sf tbSgGclCtl_OPEN 4 1 : State), (3 : Fin 1024), (0 : Nat), (4 : Nat), by rfl, by decide +kernel⟩,
   ⟨(State.reset : State), (999999999 + 1 : Word), by rfl, by decide +kernel⟩,
   ⟨(State.reset : State), (0 : Fin 4), (0x80000009 : Word), by rfl, by decide +kernel⟩,
   ⟨(State.reset : State), by rfl⟩,
   ⟨(State.reset : State), (3 : Fin 512), by rfl, by decide +kernel⟩,
   ⟨(wit fun d => d.setDirect 8 3 0xFFFF0001 : State), (3 : Fin 512), by rfl, by decide +kernel⟩⟩

/-- The hypotheses of RingCommands are met, clause by clause (part 1). -/
theorem test_hyps_RingCommands_1 :
    (∃ (s : State) (r : Fin 272) (v : Word), s.On ∧ ((v.toNat % 65536 + 65536 - s.dev.f hrRxHead_HEAD r) % 65536 ≤ s.dev.rxN r)) ∧
    (∃ (s : State) (r : Fin 272) (v : Word), s.On ∧ (s.dev.rxN r < (v.toNat % 65536 + 65536 - s.dev.f hrRxHead_HEAD r) % 65536)) ∧
    (∃ (s : State) (r : Fin 272) (v : Word), s.On ∧ ((v.toNat % 65536 + 65536 - s.dev.f hrTxHead_HEAD r) % 65536 ≤ s.dev.txN r)) ∧
    (∃ (s : State) (r : Fin 272) (v : Word), s.On ∧ (s.dev.txN r < (v.toNat % 65536 + 65536 - s.dev.f hrTxHead_HEAD r) % 65536)) ∧
    (∃ (s : State) (r : Fin 272) (v : Word), s.On ∧ bits 23 20 v.toNat < 6 ∧ 256 ≤ r) ∧
    (∃ (s : State) (r : Fin 272) (v : Word), s.On ∧ 256 ≤ r ∧ s.dev.f hrRxCfg_ENABLE r = 0 ∧ v.getLsbD 31 = true ∧ 6 ≤ bits 23 20 v.toNat ∧ bits 13 0 v.toNat ≤ 10000) ∧
    (∃ (s : State) (r : Fin 272) (v : Word), s.On ∧ s.dev.f hrTxCfg_ENABLE r = 0 ∧ v.getLsbD 31 = true ∧ 6 ≤ bits 23 20 v.toNat) ∧
    (∃ (s : State) (r : Fin 272) (dl : Delivery), s.On ∧ ((s.dev.rx r).queue = [dl]) ∧ s.dev.rxCanClaim r = true) ∧
    (∃ (s : State) (r : Fin 272), s.On ∧ ((s.dev.rx r).claims = [] ∨ s.dev.dmaGo (r / 16) = false)) ∧
    (∃ (s : State) (r : Fin 272) (cl : Claim) (rest : List Claim), s.On ∧ ((s.dev.rx r).claims = cl :: rest) ∧ (s.dev.dmaGo (r / 16) = true) ∧ cl.d.ready = true ∧ cl.d.job = none ∧ cl.d.status = 0) ∧
    (∃ (s : State) (r : Fin 272), s.On ∧ s.dev.rxCanClaim r = true) :=
  ⟨⟨(witRing : State), (256 : Fin 272), (32 : Word), by rfl, by decide +kernel⟩,
   ⟨(witRing : State), (256 : Fin 272), (900 : Word), by rfl, by decide +kernel⟩,
   ⟨(witRing : State), (256 : Fin 272), (32 : Word), by rfl, by decide +kernel⟩,
   ⟨(witRing : State), (256 : Fin 272), (900 : Word), by rfl, by decide +kernel⟩,
   ⟨(witRing : State), (256 : Fin 272), (0 : Word), by rfl, by decide +kernel⟩,
   ⟨(witRing {} {} fun d => d.wr .hrRxCfg 256 0 : State), (256 : Fin 272), (0x80700000 : Word), by rfl, by decide +kernel⟩,
   ⟨(witRing {} {} fun d => d.wr .hrTxCfg 256 0x40000000 : State), (256 : Fin 272), (0x80700000 : Word), by rfl, by decide +kernel⟩,
   ⟨(witRing { queue := [{ f := witFrame, bytes := List.replicate 60 0 }] } : State), (256 : Fin 272), ({ f := witFrame, bytes := List.replicate 60 0 } : Delivery), by rfl, by decide +kernel⟩,
   ⟨(witRing : State), (256 : Fin 272), by rfl, by decide +kernel⟩,
   ⟨(witRing { claims := [⟨{ f := witFrame, bytes := List.replicate 60 0 }, 0, [64]⟩] } : State), (256 : Fin 272), (⟨{ f := witFrame, bytes := List.replicate 60 0 }, 0, [64]⟩ : Claim), ([] : List Claim), by rfl, by decide +kernel⟩,
   ⟨(witRing { queue := [{ f := witFrame, bytes := List.replicate 60 0 }] } : State), (256 : Fin 272), by rfl, by decide +kernel⟩⟩

/-- The hypotheses of RingCommands are met, clause by clause (part 2). -/
theorem test_hyps_RingCommands_2 :
    (∃ (s : State) (r : Fin 272) (dl : Delivery), s.On ∧ ((s.dev.rx r).queue = [dl]) ∧ s.dev.rxCanClaim r = false) ∧
    (∃ (s : State) (r : Fin 272), s.On ∧ (s.dev.rx r).unannounced ≠ 0) ∧
    (∃ (s : State) (r : Fin 272), s.On ∧ (s.dev.tx r).unannounced ≠ 0) ∧
    (∃ (s : State) (r : Fin 272) (ds : List (BitVec 256)) (x : Nat) (more : List Nat), s.On ∧ s.dev.f hrTxCfg_ENABLE r = 1 ∧ s.dev.f hrTxCfg_HALTED r = 0 ∧ s.dev.txTurn r = true ∧ (((s.dev.txDescs r (ds.map BitVec.toNat)).take 32).take (s.dev.txPosted r) = x :: more) ∧ bitAt 253 x = true ∧ (txCheck (r / 16) [x] = 0)) ∧
    (∃ (s : State) (r : Fin 272) (ds : List (BitVec 256)) (x : Nat) (more : List Nat), s.On ∧ s.dev.txTurn r = true ∧ (((s.dev.txDescs r (ds.map BitVec.toNat)).take 32).take (s.dev.txPosted r) = x :: more) ∧ bitAt 253 x = true ∧ (txCheck (r / 16) [x] = 4)) ∧
    (∃ (s : State) (r : Fin 272), s.On ∧ s.dev.txTurn r = false ∧ ((s.dev.tx r).cur = none ∨ s.dev.ringState r ≠ stRun)) ∧
    (∃ (s : State) (r : Fin 272) (x : TxCur), s.On ∧ (s.dev.tx r).cur = some x ∧ x.grp = none ∧ s.dev.ringState r = stRun ∧ cellsOf x.len ≤ s.dev.freeCells) ∧
    (∃ (s : State) (r : Fin 272) (x : TxCur), s.On ∧ (s.dev.tx r).cur = some x ∧ x.grp = none ∧ s.dev.freeCells < cellsOf x.len) ∧
    (∃ (s : State) (r : Fin 272) (x : TxCur) (g : Nat), s.On ∧ (s.dev.tx r).cur = some x ∧ x.grp = some g ∧ x.direct = false) ∧
    (∃ (s : State) (r : Fin 272) (x : TxCur) (g : Nat), s.On ∧ (s.dev.tx r).cur = some x ∧ x.grp = some g) :=
  ⟨⟨(witRing { queue := [{ f := witFrame, bytes := List.replicate 60 0 }] } {} fun d => d.sf hrRxTail_TAIL 256 0 : State), (256 : Fin 272), ({ f := witFrame, bytes := List.replicate 60 0 } : Delivery), by rfl, by decide +kernel⟩,
   ⟨(witRing { unannounced := 3 } : State), (256 : Fin 272), by rfl, by decide +kernel⟩,
   ⟨(witRing {} { unannounced := 3 } : State), (256 : Fin 272), by rfl, by decide +kernel⟩,
   ⟨((witRing {} {} fun d => { d with eng := { d.eng with sram := memSet d.eng.sram 0 (leBytes 32 (3 * 2 ^ 253 + 60 * 2 ^ 80 + 60 * 2 ^ 64)) } }) : State), (256 : Fin 272), ([] : List (BitVec 256)), (3 * 2 ^ 253 + 60 * 2 ^ 80 + 60 * 2 ^ 64 : Nat), (((((witRing {} {} fun d => { d with eng := { d.eng with sram := memSet d.eng.sram 0 (leBytes 32 (3 * 2 ^ 253 + 60 * 2 ^ 80 + 60 * 2 ^ 64)) } }).dev.txDescs 256 []).take 32).take ((witRing {} {} fun d => { d with eng := { d.eng with sram := memSet d.eng.sram 0 (leBytes 32 (3 * 2 ^ 253 + 60 * 2 ^ 80 + 60 * 2 ^ 64)) } }).dev.txPosted 256)).drop 1 : List Nat), by rfl, by decide +kernel⟩,
   ⟨((witRing {} {} fun d => { d with eng := { d.eng with sram := memSet d.eng.sram 0 (leBytes 32 (2 ^ 253)) } }) : State), (256 : Fin 272), ([] : List (BitVec 256)), (2 ^ 253 : Nat), (((((witRing {} {} fun d => { d with eng := { d.eng with sram := memSet d.eng.sram 0 (leBytes 32 (2 ^ 253)) } }).dev.txDescs 256 []).take 32).take ((witRing {} {} fun d => { d with eng := { d.eng with sram := memSet d.eng.sram 0 (leBytes 32 (2 ^ 253)) } }).dev.txPosted 256)).drop 1 : List Nat), by rfl, by decide +kernel⟩,
   ⟨(State.reset : State), (5 : Fin 272), by rfl, by decide +kernel⟩,
   ⟨(witRing {} { cur := some { len := 60 } } fun d => d.sf bqFree_FREE 0 100 : State), (256 : Fin 272), ({ len := 60 } : TxCur), by rfl, by decide +kernel⟩,
   ⟨(witRing {} { cur := some { len := 60 } } fun d => d.sf bqFree_FREE 0 0 : State), (256 : Fin 272), ({ len := 60 } : TxCur), by rfl, by decide +kernel⟩,
   ⟨(witRing {} { cur := some { len := 60, grp := some 7 } } : State), (256 : Fin 272), ({ len := 60, grp := some 7 } : TxCur), (7 : Nat), by rfl, by decide +kernel⟩,
   ⟨(witRing {} { cur := some { len := 60, grp := some 7 } } : State), (256 : Fin 272), ({ len := 60, grp := some 7 } : TxCur), (7 : Nat), by rfl, by decide +kernel⟩⟩

/-- The hypotheses of EthernetTransmission are met, clause by clause (part 1). -/
theorem test_hyps_EthernetTransmission_1 :
    (∃ (s : State) (p : Fin 20), s.On ∧ (s.dev.eth p).wire = none ∧ (s.dev.eth p).cut = none ∧ (s.dev.creditUpdate p).ethMaySend p = false ∧ s.dev.ep.txn = none ∧ (s.dev.bus.bwHeld = [])) ∧
    (∃ (s : State) (p : Fin 20) (c : Nat) (x : QFrame) (rest : List QFrame), s.On ∧ (s.dev.eth p).wire = none ∧ (s.dev.eth p).cut = none ∧ (s.dev.creditUpdate p).ethMaySend p = true ∧ s.dev.f ethLinkStatus_LPI_TX p = 0 ∧ (((s.dev.creditUpdate p).stepFlush p).deficitsClear p).choose p false = some (c, none) ∧ (((s.dev.creditUpdate p).stepFlush p).deficitsClear p).mediumOpen p .other = true ∧ (s.dev.queue (qNo p c) = x :: rest) ∧ s.dev.residenceOver (qNo p c) x = false ∧ s.dev.ep.txn = none ∧ (s.dev.bus.bwHeld = [])) ∧
    (∃ (s : State) (p : Fin 20), s.On ∧ (s.dev.eth p).wire = none ∧ ((s.dev.eth p).ctl = []) ∧ (s.dev.eth p).step = .none ∧ (s.dev.buf.flushAfter = []) ∧ s.dev.ep.txn = none ∧ (s.dev.bus.bwHeld = [])) ∧
    (∃ (s : State) (p : Fin 20) (w : QFrame) (c : Nat), s.On ∧ (s.dev.eth p).wire = some (w, c) ∧ (s.dev.eth p).bad = false ∧ (s.dev.eth p).sent = 0 ∧ ((s.dev.eth p).ctl = []) ∧ (s.dev.eth p).step = .none ∧ (s.dev.buf.flushAfter = []) ∧ s.dev.ep.txn = none ∧ (s.dev.bus.bwHeld = [])) ∧
    (∃ (s : State), s.On) ∧
    (∃ (s : State) (p : Fin 20) (c : Fin 8), s.On ∧ (bitAt c (s.dev.f ethPauseState_PAUSED p) = false ∨ s.dev.f ethPauseCfg_WDOG_MS p = 0)) ∧
    (∃ (s : State) (p : Fin 20) (c : Fin 8), s.On ∧ bitAt c (s.dev.f ethPauseState_PAUSED p) = true ∧ s.dev.f ethPauseCfg_WDOG_MS p ≠ 0) :=
  ⟨⟨(witEth {} : State), (2 : Fin 20), by rfl, by decide +kernel⟩,
   ⟨(witEth {} fun d => (((d.sf ethIntf_INTF 2 2).sf unitState_STATE (uEth 2) 2).sf ethGateStatus_GATES 2 255).setQueue (qNo 2 3) [{ f := witFrame, cells := 1 }] : State), (2 : Fin 20), (3 : Nat), ({ f := witFrame, cells := 1 } : QFrame), ([] : List QFrame), by rfl, by decide +kernel⟩,
   ⟨(witEth {} : State), (2 : Fin 20), by rfl, by decide +kernel⟩,
   ⟨(witEth { wire := some ({ f := witFrame }, 3) } : State), (2 : Fin 20), ({ f := witFrame } : QFrame), (3 : Nat), by rfl, by decide +kernel⟩,
   ⟨(witEth { ts := [⟨1, 2, 3, 4⟩, ⟨5, 6, 7, 8⟩] } : State), by rfl⟩,
   ⟨(witEth {} : State), (2 : Fin 20), (3 : Fin 8), by rfl, by decide +kernel⟩,
   ⟨(wit fun d => (d.sf ethPauseState_PAUSED 2 255).sf ethPauseCfg_WDOG_MS 2 5 : State), (2 : Fin 20), (3 : Fin 8), by rfl, by decide +kernel⟩⟩

/-- The hypotheses of EthernetTransmission are met, clause by clause (part 2). -/
theorem test_hyps_EthernetTransmission_2 :
    (∃ (s : State) (p : Fin 20), s.On ∧ s.dev.f ethLpiCfg_LPI_EN p = 1 ∧ s.dev.f ethLinkStatus_LPI_TX p = 0 ∧ 2 ≤ s.dev.f ethIntf_INTF p ∧ s.dev.f ethIntf_INTF p ≤ 5 ∧ s.dev.queued p = 0 ∧ (s.dev.eth p).wire = none ∧ (s.dev.eth p).cut = none) ∧
    (∃ (s : State) (p : Fin 20), s.On ∧ (s.dev.f ethLpiCfg_LPI_EN p = 0 ∨ s.dev.queued p ≠ 0 ∨ s.dev.f ethIntf_INTF p < 2 ∨ 5 < s.dev.f ethIntf_INTF p)) ∧
    (∃ (s : State) (p : Fin 20), s.On ∧ (s.dev.eth p).lpiWait = true) ∧
    (∃ (s : State) (p : Fin 20), s.On ∧ s.dev.f ethLinkStatus_LPI_RX p = 0) ∧
    (∃ (s : State) (p : Fin 20), s.On ∧ ((s.dev.eth p).wire = none ∨ s.dev.f ethPlcaCfg_NODE_ID p ≠ 255) ∧ s.dev.ep.txn = none ∧ (s.dev.bus.bwHeld = [])) ∧
    (∃ (s : State) (p : Fin 20) (w : QFrame) (c : Nat), s.On ∧ (s.dev.eth p).wire = some (w, c) ∧ s.dev.f ethPlcaCfg_NODE_ID p = 255 ∧ (s.dev.eth p).coll < 15 ∧ s.dev.ep.txn = none ∧ (s.dev.bus.bwHeld = [])) :=
  ⟨⟨(witEth {} fun d => (d.sf ethLpiCfg_LPI_EN 2 1).sf ethIntf_INTF 2 3 : State), (2 : Fin 20), by rfl, by decide +kernel⟩,
   ⟨(witEth {} : State), (2 : Fin 20), by rfl, by decide +kernel⟩,
   ⟨(witEth { lpiWait := true } : State), (2 : Fin 20), by rfl, by decide +kernel⟩,
   ⟨(witEth {} : State), (2 : Fin 20), by rfl, by decide +kernel⟩,
   ⟨(witEth {} : State), (2 : Fin 20), by rfl, by decide +kernel⟩,
   ⟨(witEth { wire := some ({ f := witFrame }, 3) } fun d => d.sf ethPlcaCfg_NODE_ID 2 255 : State), (2 : Fin 20), ({ f := witFrame } : QFrame), (3 : Nat), by rfl, by decide +kernel⟩⟩

/-- The hypotheses of EthernetLinksAndGates are met, clause by clause (part 1). -/
theorem test_hyps_EthernetLinksAndGates_1 :
    (∃ (s : State) (p : Fin 20), s.On ∧ (s.dev.f ethLinkStatus_LINK p = 0 ∨ s.dev.f ethLinkCfg_LOSS_US p ≠ 0) ∧ s.dev.ep.txn = none ∧ (s.dev.bus.bwHeld = [])) ∧
    (∃ (s : State) (p : Fin 20), s.On ∧ s.dev.f ethLinkStatus_STEPPING p = 0 ∧ s.dev.f ethLinkStatus_LINK p = 1 ∧ s.dev.portAsleep p = false ∧ (s.dev.eth p).step = .none ∧ s.dev.ep.txn = none ∧ (s.dev.bus.bwHeld = [])) ∧
    (∃ (s : State) (p : Fin 20), s.On ∧ s.dev.lossCounts p = false ∧ s.dev.ep.txn = none ∧ (s.dev.bus.bwHeld = [])) ∧
    (∃ (s : State) (p : Fin 20), s.On ∧ s.dev.f ethIntf_INTF p ≠ 7 ∧ s.dev.f ethIntf_INTF p ≠ 0 ∧ s.dev.leafState (uEth p) ≠ 0) ∧
    (∃ (s : State) (r : Fin 96), s.On ∧ r < 20 ∧ s.dev.f ethIntf_INTF r ≠ 7 ∧ s.dev.f ethIntf_INTF r ≠ 0 ∧ s.dev.leafState (uEth r) ≠ 0) ∧
    (∃ (s : State) (p : Fin 20), s.On ∧ (s.dev.leafState (uEth p) = 0 ∨ s.dev.f ethIntf_INTF p = 0)) ∧
    (∃ (s : State) (p : Fin 20), s.On ∧ s.dev.plcaFollower p = true ∧ s.dev.f ethLinkStatus_PLCA_OK p = 1 ∧ s.dev.f ethLinkCfg_LOSS_US p ≠ 0 ∧ s.dev.ep.txn = none ∧ (s.dev.bus.bwHeld = [])) ∧
    (∃ (s : State), s.On) ∧
    (∃ (s : State) (p : Fin 20), s.On ∧ s.dev.f ethPreempt_EN p = 1 ∧ s.dev.f ethPreempt_VERIFY_DIS p = 0 ∧ (s.dev.f ethPreempt_VERIFY_STATUS p = 1 ∨ s.dev.f ethPreempt_VERIFY_STATUS p = 2) ∧ s.dev.f ethLinkStatus_LINK p = 1 ∧ s.dev.f ethMacCfg_TX_EN p = 1 ∧ (s.dev.eth p).verify < 3) ∧
    (∃ (s : State) (p : Fin 20), s.On ∧ s.dev.f ethPreempt_EN p = 1 ∧ s.dev.f ethPreempt_VERIFY_DIS p = 0 ∧ s.dev.f ethPreempt_VERIFY_STATUS p = 2 ∧ s.dev.f ethLinkStatus_LINK p = 1 ∧ s.dev.f ethMacCfg_TX_EN p = 1 ∧ (s.dev.eth p).verify = 3) :=
  ⟨⟨(witEth {} fun d => d.sf ethLinkCfg_LOSS_US 2 9 : State), (2 : Fin 20), by rfl, by decide +kernel⟩,
   ⟨(witEth {} : State), (2 : Fin 20), by rfl, by decide +kernel⟩,
   ⟨(witEth {} fun d => d.sf ethLinkStatus_STEPPING 2 1 : State), (2 : Fin 20), by rfl, by decide +kernel⟩,
   ⟨(wit fun d => ((d.sf unitState_STATE (uEth 2) 2).sf ethIntf_INTF 2 1).sf ethIntf_SPEED 2 6 : State), (2 : Fin 20), by rfl, by decide +kernel⟩,
   ⟨(wit fun d => ((d.sf unitState_STATE (uEth 2) 2).sf ethIntf_INTF 2 1).sf ethIntf_SPEED 2 6 : State), (2 : Fin 96), by rfl, by decide +kernel⟩,
   ⟨(State.reset : State), (2 : Fin 20), by rfl, by decide +kernel⟩,
   ⟨(wit fun d => ((d.sf ethPlcaCfg_NODE_ID 12 3).sf ethLinkStatus_PLCA_OK 12 1).sf ethLinkCfg_LOSS_US 12 9 : State), (12 : Fin 20), by rfl, by decide +kernel⟩,
   ⟨(witEth {} : State), by rfl⟩,
   ⟨(witEth {} fun d => ((d.sf ethPreempt_EN 2 1).sf ethPreempt_VERIFY_DIS 2 0).sf ethPreempt_VERIFY_STATUS 2 1 : State), (2 : Fin 20), by rfl, by decide +kernel⟩,
   ⟨(witEth { verify := 3 } fun d => ((d.sf ethPreempt_EN 2 1).sf ethPreempt_VERIFY_DIS 2 0).sf ethPreempt_VERIFY_STATUS 2 2 : State), (2 : Fin 20), by rfl, by decide +kernel⟩⟩

/-- The hypotheses of EthernetLinksAndGates are met, clause by clause (part 2). -/
theorem test_hyps_EthernetLinksAndGates_2 :
    (∃ (s : State) (p : Fin 20), s.On ∧ s.dev.f ethPreempt_EN p = 1 ∧ s.dev.f ethPreempt_VERIFY_STATUS p = 2) ∧
    (∃ (s : State) (p : Fin 20), s.On ∧ s.dev.f ethPreempt_EN p = 1 ∧ s.dev.f ethMacCfg_TX_EN p = 1 ∧ s.dev.f ethLinkStatus_LINK p = 1) ∧
    (∃ (s : State) (p : Fin 20), s.On ∧ s.dev.f ethMacCfg_TX_EN p = 0) ∧
    (∃ (s : State) (p : Fin 20), s.On ∧ s.dev.f ethGateCfg_PENDING p = 1) ∧
    (∃ (s : State) (p : Fin 20), s.On ∧ s.dev.f ethGateCfg_PENDING p = 0 ∧ (s.dev.f ethGateCfg_ADMIN_LEN p = 0 ∨ s.dev.f ethGateAdminCycle_CYCLE_NS p < 1000)) ∧
    (∃ (s : State) (p : Fin 20), s.On ∧ s.dev.f ethGateCfg_PENDING p = 0 ∧ s.dev.f ethGateCfg_ADMIN_LEN p = 1 ∧ 1000 ≤ s.dev.f ethGateAdminCycle_CYCLE_NS p ∧ s.dev.f ethGateAdminListInterval_INTERVAL_NS (256 * p) ≠ 0) ∧
    (∃ (s : State) (p : Fin 20), s.On ∧ s.dev.f ethGateCfg_PENDING p = 0) ∧
    (∃ (s : State) (p : Fin 20), s.On ∧ s.dev.f ethGateCfg_PENDING p = 1 ∧ 1 ≤ s.dev.f ethGateCfg_ADMIN_LEN p ∧ s.dev.f ethGateCfg_ADMIN_LEN p ≤ 256) ∧
    (∃ (s : State) (p : Fin 20) (i : Fin 256), s.On ∧ ((s.dev.eth p).running = false ∨ s.dev.f ethGateOperLen_LEN p ≤ i ∨ s.dev.gateExtended p = true)) ∧
    (∃ (s : State) (p : Fin 20) (i : Fin 256), s.On ∧ (s.dev.eth p).running = true ∧ i < s.dev.f ethGateOperLen_LEN p ∧ s.dev.f ethGateCfg_GATE_EN p = 1 ∧ s.dev.f ethGateStatus_RESTARTING p = 0 ∧ s.dev.gateExtended p = false) :=
  ⟨⟨(witEth {} fun d => (d.sf ethPreempt_EN 2 1).sf ethPreempt_VERIFY_STATUS 2 2 : State), (2 : Fin 20), by rfl, by decide +kernel⟩,
   ⟨(witEth {} fun d => d.sf ethPreempt_EN 2 1 : State), (2 : Fin 20), by rfl, by decide +kernel⟩,
   ⟨(wit fun d => d.sf ethMacCfg_TX_EN 2 0 : State), (2 : Fin 20), by rfl, by decide +kernel⟩,
   ⟨(wit fun d => d.sf ethGateCfg_PENDING 2 1 : State), (2 : Fin 20), by rfl, by decide +kernel⟩,
   ⟨(witEth {} : State), (2 : Fin 20), by rfl, by decide +kernel⟩,
   ⟨(wit fun d => ((d.sf ethGateCfg_ADMIN_LEN 2 1).sf ethGateAdminCycle_CYCLE_NS 2 5000).sf ethGateAdminListInterval_INTERVAL_NS 512 900 : State), (2 : Fin 20), by rfl, by decide +kernel⟩,
   ⟨(witEth {} : State), (2 : Fin 20), by rfl, by decide +kernel⟩,
   ⟨(wit fun d => ((d.sf ethGateCfg_ADMIN_LEN 2 1).sf ethGateAdminCycle_CYCLE_NS 2 5000).sf ethGateCfg_PENDING 2 1 : State), (2 : Fin 20), by rfl, by decide +kernel⟩,
   ⟨(witEth {} : State), (2 : Fin 20), (0 : Fin 256), by rfl, by decide +kernel⟩,
   ⟨(witEth { running := true } fun d => (((d.sf ethGateOperLen_LEN 2 4).sf ethGateCfg_GATE_EN 2 1).sf ethGateOperListOp_GATES 515 0x5A) : State), (2 : Fin 20), (3 : Fin 256), by rfl, by decide +kernel⟩⟩

/-- The hypotheses of RateStepping are met, clause by clause (part 1). -/
theorem test_hyps_RateStepping_1 :
    (∃ (s : State) (p : Fin 20), s.On ∧ s.dev.stepOn p = false) ∧
    (∃ (s : State) (p : Fin 20), s.On ∧ s.dev.stepOn p = true ∧ stepStopped (s.dev.eth p) = false ∧ s.dev.f ethMacCfg_TX_EN p = 1 ∧ s.dev.f ethLinkStatus_LINK p = 1 ∧ (s.dev.eth p).wire = none) ∧
    (∃ (s : State) (p : Fin 20), s.On ∧ s.dev.stepOn p = true ∧ stepStopped (s.dev.eth p) = false ∧ s.dev.f ethMacCfg_TX_EN p = 1 ∧ s.dev.f ethLinkStatus_LINK p = 1 ∧ (s.dev.eth p).wire ≠ none) ∧
    (∃ (s : State) (p : Fin 20), s.On ∧ stepStopped (s.dev.eth p) = true) ∧
    (∃ (s : State) (p : Fin 20), s.On ∧ s.dev.f ethMacCfg_RX_EN p = 1 ∧ s.dev.f ethIntf_INTF p = 7) ∧
    (∃ (s : State), s.On) ∧
    (∃ (s : State) (p : Fin 20), s.On ∧ s.dev.stepOn p = true ∧ s.dev.f ethLinkStatus_LINK p = 0 ∧ s.dev.f ethLinkStatus_LOCK p = 0) ∧
    (∃ (s : State) (p : Fin 20), s.On ∧ s.dev.stepActive p = false) ∧
    (∃ (s : State) (p : Fin 20) (txn : BitVec 8) (rate : BitVec 8) (b : List Byte), s.On ∧ s.dev.f ethMacCfg_RX_EN p = 1 ∧ s.dev.f ethIntf_INTF p = 7 ∧ (b = beBytes 6 0x0180C200000E ++ beBytes 6 0 ++ [0x88, 0xB5, 1, 1, byteOf 2, byteOf txn.toNat, byteOf rate.toNat, byteOf 0, byteOf 0, byteOf 0] ++ List.replicate 38 0)) ∧
    (∃ (s : State) (p : Fin 20) (t : Nat) (old : Nat), s.On ∧ s.dev.f ethMacCfg_RX_EN p = 1 ∧ s.dev.f ethIntf_INTF p = 7 ∧ (s.dev.eth p).step = .partnerLeave old t ∧ s.dev.f ethMacCfg_TX_EN p = 1 ∧ s.dev.f ethLinkStatus_LINK p = 1 ∧ (s.dev.eth p).wire = none) :=
  ⟨⟨(State.reset : State), (2 : Fin 20), by rfl, by decide +kernel⟩,
   ⟨(witEth {} fun d => (d.sf ethIntf_INTF 2 7).sf ethStepCfg_STEP_EN 2 1 : State), (2 : Fin 20), by rfl, by decide +kernel⟩,
   ⟨(witEth { wire := some ({}, 0) } fun d => (d.sf ethIntf_INTF 2 7).sf ethStepCfg_STEP_EN 2 1 : State), (2 : Fin 20), by rfl, by decide +kernel⟩,
   ⟨(witEth { step := .training 2 1 } fun d => (d.sf ethIntf_INTF 2 7).sf ethStepCfg_STEP_EN 2 1 : State), (2 : Fin 20), by rfl, by decide +kernel⟩,
   ⟨(witEth {} fun d => (d.sf ethIntf_INTF 2 7).sf ethStepCfg_STEP_EN 2 1 : State), (2 : Fin 20), by rfl, by decide +kernel⟩,
   ⟨(witEth {} fun d => (d.sf ethIntf_INTF 2 7).sf ethStepCfg_STEP_EN 2 1 : State), by rfl⟩,
   ⟨(wit fun d => ((d.sf ethIntf_INTF 2 7).sf ethStepCfg_STEP_EN 2 1).sf ethStepStatus_RATE 2 2 : State), (2 : Fin 20), by rfl, by decide +kernel⟩,
   ⟨(State.reset : State), (2 : Fin 20), by rfl, by decide +kernel⟩,
   ⟨(witEth {} fun d => (d.sf ethIntf_INTF 2 7).sf ethStepCfg_STEP_EN 2 1 : State), (2 : Fin 20), (9 : BitVec 8), (2 : BitVec 8), (beBytes 6 0x0180C200000E ++ beBytes 6 0 ++ [0x88, 0xB5, 1, 1, byteOf 2, byteOf 9, byteOf 2, byteOf 0, byteOf 0, byteOf 0] ++ List.replicate 38 0 : List Byte), by rfl, by decide +kernel⟩,
   ⟨(witEth { step := .partnerLeave 4 1 } fun d => (d.sf ethIntf_INTF 2 7).sf ethStepCfg_STEP_EN 2 1 : State), (2 : Fin 20), (1 : Nat), (4 : Nat), by rfl, by decide +kernel⟩⟩

/-- The hypotheses of RateStepping are met, clause by clause (part 2). -/
theorem test_hyps_RateStepping_2 :
    (∃ (s : State) (p : Fin 20) (txn : BitVec 8) (rate : BitVec 8) (b : List Byte), s.On ∧ s.dev.f ethMacCfg_RX_EN p = 1 ∧ s.dev.f ethIntf_INTF p = 7 ∧ stepStopped (s.dev.eth p) = true ∧ (b = beBytes 6 0x0180C200000E ++ beBytes 6 0 ++ [0x88, 0xB5, 1, 1, byteOf 2, byteOf txn.toNat, byteOf rate.toNat, byteOf 0, byteOf 0, byteOf 0] ++ List.replicate 38 0)) ∧
    (∃ (s : State) (p : Fin 20) (txn : BitVec 8) (own : Nat) (t : Nat), s.On ∧ s.dev.f ethMacCfg_RX_EN p = 1 ∧ s.dev.f ethIntf_INTF p = 7 ∧ (s.dev.eth p).step = .reqSent own t ∧ own ≠ txn.toNat) ∧
    (∃ (s : State) (p : Fin 20) (txn : BitVec 8) (t : Nat), s.On ∧ s.dev.f ethMacCfg_RX_EN p = 1 ∧ s.dev.f ethIntf_INTF p = 7 ∧ (s.dev.eth p).step = .reqSent txn.toNat t ∧ (s.dev.eth p).wire ≠ none) ∧
    (∃ (s : State) (p : Fin 20) (txn : BitVec 8) (t : Nat), s.On ∧ s.dev.f ethMacCfg_RX_EN p = 1 ∧ s.dev.f ethIntf_INTF p = 7 ∧ (s.dev.eth p).step = .reqSent txn.toNat t) ∧
    (∃ (s : State) (p : Fin 20) (txn : BitVec 8) (back : Nat) (t : Nat) (ini : Bool), s.On ∧ s.dev.f ethMacCfg_RX_EN p = 1 ∧ s.dev.f ethIntf_INTF p = 7 ∧ (s.dev.eth p).step = .agreed txn.toNat back t false false ini ∧ (s.dev.eth p).wire ≠ none) ∧
    (∃ (s : State) (p : Fin 20) (own : Nat) (t : Nat), s.On ∧ (s.dev.eth p).step = .reqSent own t) ∧
    (∃ (s : State) (p : Fin 20) (own : Nat) (back : Nat) (t : Nat) (sent : Bool), s.On ∧ (s.dev.eth p).step = .agreed own back t sent false false) ∧
    (∃ (s : State) (p : Fin 20) (t : Nat) (old : Nat), s.On ∧ (s.dev.eth p).step = .training t old ∧ t < 4) ∧
    (∃ (s : State) (p : Fin 20) (t : Nat) (old : Nat), s.On ∧ (s.dev.eth p).step = .training t old ∧ s.dev.ep.txn = none ∧ (s.dev.bus.bwHeld = [])) ∧
    (∃ (s : State) (p : Fin 20), s.On ∧ (s.dev.eth p).step = .none ∧ s.dev.ep.txn = none ∧ (s.dev.bus.bwHeld = [])) :=
  ⟨⟨(witEth { step := .training 2 1 } fun d => (d.sf ethIntf_INTF 2 7).sf ethStepCfg_STEP_EN 2 1 : State), (2 : Fin 20), (9 : BitVec 8), (2 : BitVec 8), (beBytes 6 0x0180C200000E ++ beBytes 6 0 ++ [0x88, 0xB5, 1, 1, byteOf 2, byteOf 9, byteOf 2, byteOf 0, byteOf 0, byteOf 0] ++ List.replicate 38 0 : List Byte), by rfl, by decide +kernel⟩,
   ⟨(witEth { step := .reqSent 4 1 } fun d => (d.sf ethIntf_INTF 2 7).sf ethStepCfg_STEP_EN 2 1 : State), (2 : Fin 20), (9 : BitVec 8), (4 : Nat), (1 : Nat), by rfl, by decide +kernel⟩,
   ⟨(witEth { step := .reqSent 9 1, wire := some ({}, 0) } fun d => (d.sf ethIntf_INTF 2 7).sf ethStepCfg_STEP_EN 2 1 : State), (2 : Fin 20), (9 : BitVec 8), (1 : Nat), by rfl, by decide +kernel⟩,
   ⟨(witEth { step := .reqSent 9 1 } fun d => (d.sf ethIntf_INTF 2 7).sf ethStepCfg_STEP_EN 2 1 : State), (2 : Fin 20), (9 : BitVec 8), (1 : Nat), by rfl, by decide +kernel⟩,
   ⟨(witEth { step := .agreed 9 9 1 false false true, wire := some ({}, 0) } fun d => (d.sf ethIntf_INTF 2 7).sf ethStepCfg_STEP_EN 2 1 : State), (2 : Fin 20), (9 : BitVec 8), (9 : Nat), (1 : Nat), (true : Bool), by rfl, by decide +kernel⟩,
   ⟨(witEth { step := .reqSent 4 1 } : State), (2 : Fin 20), (4 : Nat), (1 : Nat), by rfl, by decide +kernel⟩,
   ⟨(witEth { step := .agreed 9 9 1 true false false } : State), (2 : Fin 20), (9 : Nat), (9 : Nat), (1 : Nat), (true : Bool), by rfl, by decide +kernel⟩,
   ⟨(witEth { step := .training 2 1 } : State), (2 : Fin 20), (2 : Nat), (1 : Nat), by rfl, by decide +kernel⟩,
   ⟨(witEth { step := .training 2 1 } : State), (2 : Fin 20), (2 : Nat), (1 : Nat), by rfl, by decide +kernel⟩,
   ⟨(witEth {} fun d => (d.sf ethIntf_INTF 2 7).sf ethStepCfg_STEP_EN 2 1 : State), (2 : Fin 20), by rfl, by decide +kernel⟩⟩

/-- The hypotheses of CanChannels are met, clause by clause (part 1). -/
theorem test_hyps_CanChannels_1 :
    (∃ (s : State) (n : Fin 48), s.On ∧ s.dev.canOn n = false ∧ (s.dev.bus.bwHeld = []) ∧ (s.dev.bus.rxCut = []) ∧ (s.dev.bus.wakeCut = [])) ∧
    (∃ (s : State) (n : Fin 48) (x : CanRx), s.On ∧ s.dev.canOn n = true ∧ x.kind = 1 ∧ s.dev.portAsleep (32 + n) = false ∧ s.dev.sleep.power ≠ .sleep ∧ s.dev.f canErr_REC n ≤ 127 ∧ s.dev.f canErr_TEC n ≤ 255 ∧ (s.dev.bus.bwHeld = []) ∧ (s.dev.bus.rxCut = []) ∧ (s.dev.bus.wakeCut = [])) ∧
    (∃ (s : State) (n : Fin 48) (k : Fin 6), s.On ∧ s.dev.canOn n = true ∧ k ≠ 0 ∧ s.dev.f canErr_REC n ≤ 500 ∧ s.dev.f canErr_TEC n ≤ 255 ∧ (s.dev.bus.bwHeld = []) ∧ (s.dev.bus.rxCut = []) ∧ (s.dev.bus.wakeCut = [])) ∧
    (∃ (s : State) (n : Fin 48), s.On ∧ s.dev.canLoads n = false) ∧
    (∃ (s : State) (n : Fin 48), s.On ∧ ((s.dev.can n).cur ≠ none ∨ s.dev.canOn n = false ∨ canBest (s.dev.can n).bufs = none)) ∧
    (∃ (s : State) (n : Fin 48) (b : Nat) (x : CanBuf), s.On ∧ (s.dev.can n).cur = none ∧ s.dev.canOn n = true ∧ s.dev.admits (uCan n) = true ∧ s.dev.bwServes (32 + n) = true ∧ s.dev.portAsleep (32 + n) = false ∧ canBest (s.dev.can n).bufs = some b ∧ s.dev.canBuf n b = some x) ∧
    (∃ (s : State) (n : Fin 48), s.On ∧ (s.dev.can n).cur = none ∧ s.dev.ep.txn = none ∧ (s.dev.bus.bwHeld = [])) ∧
    (∃ (s : State) (n : Fin 48) (b : Nat), s.On ∧ (s.dev.can n).cur = some b ∧ s.dev.f canErr_TEC n ≤ 255 ∧ (s.dev.buf.flushAfter = []) ∧ s.dev.ep.txn = none ∧ (s.dev.bus.bwHeld = [])) ∧
    (∃ (s : State) (n : Fin 48), s.On ∧ s.dev.canOn n = false ∧ s.dev.ep.txn = none ∧ (s.dev.bus.bwHeld = [])) ∧
    (∃ (s : State) (n : Fin 48) (b : Nat), s.On ∧ (s.dev.can n).cur = some b ∧ s.dev.canOn n = true ∧ s.dev.f canErr_TEC n ≤ 247 ∧ (s.dev.buf.flushAfter = []) ∧ s.dev.ep.txn = none ∧ (s.dev.bus.bwHeld = [])) ∧
    (∃ (s : State) (n : Fin 48), s.On ∧ (s.dev.can n).cur ≠ none ∧ (s.dev.can n).cur ≠ some 64 ∧ (s.dev.buf.flushAfter = []) ∧ s.dev.ep.txn = none ∧ (s.dev.bus.bwHeld = [])) :=
  ⟨⟨(State.reset : State), (3 : Fin 48), by rfl, by decide +kernel⟩,
   ⟨(witCan 2 {} fun d => d.sf canErr_REC 3 7 : State), (3 : Fin 48), (⟨1, 0, 5, [], 0, 0, 0, 0, true, false, {}⟩ : CanRx), by rfl, by decide +kernel⟩,
   ⟨(witCan 2 : State), (3 : Fin 48), (1 : Fin 6), by rfl, by decide +kernel⟩,
   ⟨(State.reset : State), (3 : Fin 48), by rfl, by decide +kernel⟩,
   ⟨(State.reset : State), (3 : Fin 48), by rfl, by decide +kernel⟩,
   ⟨(witCan 2 { bufs := [(4, { f := { bytes := [1, 0, 0, 0, 0, 0, 0, 5, 0, 0, 0, 0, 0, 0, 0, 0, 0, 0, 0, 0, 0, 0, 0, 0] } })] } fun d => witBw (d.sf unitState_STATE (uCan 3) 2) : State), (3 : Fin 48), (4 : Nat), ({ f := { bytes := [1, 0, 0, 0, 0, 0, 0, 5, 0, 0, 0, 0, 0, 0, 0, 0, 0, 0, 0, 0, 0, 0, 0, 0] } } : CanBuf), by rfl, by decide +kernel⟩,
   ⟨(State.reset : State), (3 : Fin 48), by rfl, by decide +kernel⟩,
   ⟨(witCan 2 { bufs := [(4, { f := { bytes := [1, 0, 0, 0, 0, 0, 0, 5, 0, 0, 0, 0, 0, 0, 0, 0, 0, 0, 0, 0, 0, 0, 0, 0] } })], cur := some 4 } fun d => d.sf canErr_TEC 3 9 : State), (3 : Fin 48), (4 : Nat), by rfl, by decide +kernel⟩,
   ⟨(State.reset : State), (3 : Fin 48), by rfl, by decide +kernel⟩,
   ⟨(witCan 2 { bufs := [(4, { f := { bytes := [1, 0, 0, 0, 0, 0, 0, 5, 0, 0, 0, 0, 0, 0, 0, 0, 0, 0, 0, 0, 0, 0, 0, 0] } })], cur := some 4 } fun d => d.sf canErr_TEC 3 9 : State), (3 : Fin 48), (4 : Nat), by rfl, by decide +kernel⟩,
   ⟨(witCan 2 { bufs := [(4, { f := { bytes := [1, 0, 0, 0, 0, 0, 0, 5, 0, 0, 0, 0, 0, 0, 0, 0, 0, 0, 0, 0, 0, 0, 0, 0] } })], cur := some 4 } : State), (3 : Fin 48), by rfl, by decide +kernel⟩⟩

/-- The hypotheses of CanChannels are met, clause by clause (part 2). -/
theorem test_hyps_CanChannels_2 :
    (∃ (s : State) (n : Fin 48), s.On ∧ s.dev.canState n = 1 ∧ s.dev.portAsleep (32 + n) = false ∧ s.dev.f canErr_TEC n ≤ 127 ∧ s.dev.f canErr_REC n ≤ 127) ∧
    (∃ (s : State) (n : Fin 48), s.On ∧ s.dev.canState n = 0) ∧
    (∃ (s : State) (n : Fin 48), s.On ∧ s.dev.canState n = 4 ∧ s.dev.portAsleep (32 + n) = false) ∧
    (∃ (s : State) (n : Fin 48), s.On ∧ (s.dev.canState n ≠ 4 ∨ s.dev.portAsleep (32 + n) = true)) ∧
    (∃ (s : State) (n : Fin 48), s.On ∧ s.dev.f canCtl_AUTO_RECOV n = 0) ∧
    (∃ (s : State) (n : Fin 48), s.On ∧ s.dev.canState n = 4 ∧ s.dev.portAsleep (32 + n) = false ∧ s.dev.f canCtl_AUTO_RECOV n = 1) ∧
    (∃ (s : State) (n : Fin 48), s.On ∧ s.dev.canState n = 5 ∧ s.dev.portAsleep (32 + n) = false) ∧
    (∃ (s : State) (n : Fin 48), s.On ∧ s.dev.portAsleep (32 + n) = true) ∧
    (∃ (s : State) (n : Fin 48) (b : Fin 64), s.On ∧ s.dev.canBuf n b = none) ∧
    (∃ (s : State) (n : Fin 48) (b : Fin 64), s.On ∧ ((s.dev.canBuf n b).map (·.wait) = some true)) ∧
    (∃ (s : State), s.On) :=
  ⟨⟨(witCan 1 : State), (3 : Fin 48), by rfl, by decide +kernel⟩,
   ⟨(State.reset : State), (3 : Fin 48), by rfl, by decide +kernel⟩,
   ⟨(witCan 4 : State), (3 : Fin 48), by rfl, by decide +kernel⟩,
   ⟨(State.reset : State), (3 : Fin 48), by rfl, by decide +kernel⟩,
   ⟨(witCan 4 {} fun d => d.sf canCtl_AUTO_RECOV 3 0 : State), (3 : Fin 48), by rfl, by decide +kernel⟩,
   ⟨(witCan 4 {} fun d => d.sf canCtl_AUTO_RECOV 3 1 : State), (3 : Fin 48), by rfl, by decide +kernel⟩,
   ⟨(witCan 5 : State), (3 : Fin 48), by rfl, by decide +kernel⟩,
   ⟨(wit fun d => (d.wr .bwSegPorts 1 8).sf bwSegStatus_STATE 0 2 : State), (3 : Fin 48), by rfl, by decide +kernel⟩,
   ⟨(State.reset : State), (3 : Fin 48), (4 : Fin 64), by rfl, by decide +kernel⟩,
   ⟨(witCan 2 { bufs := [(4, { wait := true })] } : State), (3 : Fin 48), (4 : Fin 64), by rfl, by decide +kernel⟩,
   ⟨(State.reset : State), by rfl⟩⟩

/-- The hypotheses of ObjectsLinAndTunnels are met, clause by clause (part 1). -/
theorem test_hyps_ObjectsLinAndTunnels_1 :
    (∃ (s : State) (w : Fin 17) (v : Word) (o : Nat), s.On ∧ s.dev.f moWinSel_OBJ w = o ∧ v.getLsbD 31 = false) ∧
    (∃ (s : State) (w : Fin 17) (v : Word) (o : Nat), s.On ∧ s.dev.f moWinSel_OBJ w = o ∧ v.getLsbD 31 = true ∧ (s.dev.obj o).valid = false ∧ (s.dev.objFind (objChan (s.dev.obj o)) (bits 30 29 v.toNat) (v.toNat % 2 ^ 29) = none) ∧ 32 ≤ objChan (s.dev.obj o) ∧ objChan (s.dev.obj o) ≤ 79 ∧ (bits 30 29 v.toNat = 1 ∨ (bits 30 29 v.toNat ≠ 3 ∧ v.toNat % 2 ^ 29 ≤ 0x7FF))) ∧
    (∃ (s : State) (w : Fin 17) (v : Word) (o : Nat), s.On ∧ s.dev.f moWinSel_OBJ w = o ∧ v.getLsbD 31 = true ∧ ((s.dev.obj o).valid = true ∨ objChan (s.dev.obj o) < 32 ∨ 79 < objChan (s.dev.obj o))) ∧
    (∃ (s : State) (w : Fin 17) (v : Word) (o : Nat), s.On ∧ s.dev.f moWinSel_OBJ w = o ∧ (s.dev.obj o).valid = true ∧ (s.dev.obj o).seq = v.toNat) ∧
    (∃ (s : State) (w : Fin 17) (v : Word) (o : Nat), s.On ∧ s.dev.f moWinSel_OBJ w = o ∧ ((s.dev.obj o).valid = false ∨ (s.dev.obj o).seq ≠ v.toNat)) ∧
    (∃ (s : State) (w : Fin 17) (o : Nat), s.On ∧ s.dev.f moWinSel_OBJ w = o ∧ (s.dev.obj o).valid = true) ∧
    (∃ (s : State) (w : Fin 17) (o : Nat), s.On ∧ s.dev.f moWinSel_OBJ w = o ∧ (s.dev.obj o).valid = false) ∧
    (∃ (s : State) (w : Fin 17) (o : Nat), s.On ∧ s.dev.f moWinSel_OBJ w = o) :=
  ⟨⟨(State.reset : State), (0 : Fin 17), (0x123 : Word), (0 : Nat), by rfl, by decide +kernel⟩,
   ⟨(wit fun d => d.setObj 0 { cfg := 40 } : State), (0 : Fin 17), (0x80000123 : Word), (0 : Nat), by rfl, by decide +kernel⟩,
   ⟨(State.reset : State), (0 : Fin 17), (0x80000123 : Word), (0 : Nat), by rfl, by decide +kernel⟩,
   ⟨(wit fun d => d.setObj 0 { valid := true, seq := 7 } : State), (0 : Fin 17), (7 : Word), (0 : Nat), by rfl, by decide +kernel⟩,
   ⟨(State.reset : State), (0 : Fin 17), (0x80000123 : Word), (0 : Nat), by rfl, by decide +kernel⟩,
   ⟨(wit fun d => d.setObj 0 { valid := true, seq := 7 } : State), (0 : Fin 17), (0 : Nat), by rfl, by decide +kernel⟩,
   ⟨(State.reset : State), (0 : Fin 17), (0 : Nat), by rfl, by decide +kernel⟩,
   ⟨(State.reset : State), (0 : Fin 17), (0 : Nat), by rfl, by decide +kernel⟩⟩

/-- The hypotheses of ObjectsLinAndTunnels are met, clause by clause (part 2). -/
theorem test_hyps_ObjectsLinAndTunnels_2 :
    (∃ (s : State) (n : Fin 16), s.On ∧ s.dev.admits (uLin n) = true ∧ s.dev.bwServes (80 + n) = true ∧ s.dev.portAsleep (80 + n) = false ∧ s.dev.f linCfg_ROLE n = 0 ∧ s.dev.f linSchedStatus_RUNNING n = 1 ∧ 2 ≤ (s.dev.lin n).ticks ∧ (s.dev.lin n).coll = none) ∧
    (∃ (s : State) (n : Fin 16), s.On ∧ (s.dev.f linCfg_ROLE n = 1 ∨ s.dev.portAsleep (80 + n) = true)) ∧
    (∃ (s : State) (n : Fin 16), s.On ∧ s.dev.f linCfg_ROLE n = 1 ∧ s.dev.portAsleep (80 + n) = false ∧ s.dev.bwServes (80 + n) = true ∧ s.dev.sleep.power ≠ .sleep) ∧
    (∃ (s : State) (n : Fin 16) (ident : Fin 64), s.On ∧ s.dev.admits (uLin n) = true ∧ s.dev.bwServes (80 + n) = true ∧ s.dev.portAsleep (80 + n) = false ∧ s.dev.sleep.power ≠ .sleep ∧ s.dev.f linCfg_ROLE n = 1 ∧ s.dev.f linFrame_DIR (linIx n ident) = 2) ∧
    (∃ (s : State) (n : Fin 16) (ident : Fin 64), s.On ∧ s.dev.admits (uLin n) = true ∧ s.dev.bwServes (80 + n) = true ∧ s.dev.portAsleep (80 + n) = false ∧ s.dev.sleep.power ≠ .sleep ∧ s.dev.f linCfg_ROLE n = 1 ∧ s.dev.f linFrame_DIR (linIx n ident) = 1 ∧ s.dev.f linFrame_EVENT (linIx n ident) = 0) ∧
    (∃ (s : State) (n : Fin 16) (x : LinRx), s.On ∧ x.err = 1 ∧ (s.dev.lin n).late = false ∧ s.dev.ep.txn = none ∧ (s.dev.bus.bwHeld = []) ∧ (s.dev.bus.rxCut = []) ∧ (s.dev.bus.wakeCut = [])) ∧
    (∃ (s : State) (n : Fin 16) (x : LinRx), s.On ∧ s.dev.admits (uLin n) = true ∧ s.dev.bwServes (80 + n) = true ∧ s.dev.portAsleep (80 + n) = false ∧ x.err = 0 ∧ s.dev.sleep.power ≠ .sleep ∧ s.dev.busCommits (24 + x.data.length) x.ecc = true ∧ (s.dev.lin n).late = false ∧ s.dev.f linFrame_DIR (linIx n x.ident) = 2 ∧ x.data.length = s.dev.f linFrame_LEN (linIx n x.ident) ∧ s.dev.ep.txn = none ∧ (s.dev.bus.bwHeld = []) ∧ (s.dev.bus.rxCut = []) ∧ (s.dev.bus.wakeCut = [])) ∧
    (∃ (s : State) (n : Fin 16) (ident : Nat), s.On ∧ (s.dev.lin n).bus = some ident ∧ (s.dev.lin n).late = false ∧ s.dev.f linCfg_ROLE n = 0 ∧ s.dev.f linFrame_DIR (linIx n ident) = 2 ∧ s.dev.ep.txn = none ∧ (s.dev.bus.bwHeld = []) ∧ (s.dev.bus.rxCut = []) ∧ (s.dev.bus.wakeCut = [])) :=
  ⟨⟨(witLin { ticks := 5 } fun d => d.sf linSchedStatus_RUNNING 2 1 : State), (2 : Fin 16), by rfl, by decide +kernel⟩,
   ⟨(witLin {} fun d => d.sf linCfg_ROLE 2 1 : State), (2 : Fin 16), by rfl, by decide +kernel⟩,
   ⟨(witLin {} fun d => d.sf linCfg_ROLE 2 1 : State), (2 : Fin 16), by rfl, by decide +kernel⟩,
   ⟨(witLin {} fun d => (d.sf linCfg_ROLE 2 1).sf linFrame_DIR (linIx 2 5) 2 : State), (2 : Fin 16), (5 : Fin 64), by rfl, by decide +kernel⟩,
   ⟨(witLin {} fun d => (d.sf linCfg_ROLE 2 1).sf linFrame_DIR (linIx 2 5) 1 : State), (2 : Fin 16), (5 : Fin 64), by rfl, by decide +kernel⟩,
   ⟨(witLin { bus := some 5 } : State), (2 : Fin 16), (⟨5, [], 1, 0, false, {}⟩ : LinRx), by rfl, by decide +kernel⟩,
   ⟨(witLin { bus := some 5 } fun d => (d.sf linFrame_DIR (linIx 2 5) 2).sf linFrame_LEN (linIx 2 5) 2 : State), (2 : Fin 16), (⟨5, [1, 2], 0, 0, false, {}⟩ : LinRx), by rfl, by decide +kernel⟩,
   ⟨(witLin { bus := some 5 } fun d => d.sf linFrame_DIR (linIx 2 5) 2 : State), (2 : Fin 16), (5 : Nat), by rfl, by decide +kernel⟩⟩

/-- The hypotheses of ObjectsLinAndTunnels are met, clause by clause (part 3). -/
theorem test_hyps_ObjectsLinAndTunnels_3 :
    (∃ (s : State) (n : Fin 16), s.On ∧ (s.dev.admits (uLin n) = false ∨ s.dev.buf.queues = [])) ∧
    (∃ (s : State), s.On) ∧
    (∃ (s : State) (v : Word), s.On ∧ bits 31 29 v.toNat = 7) ∧
    (∃ (s : State) (n : Fin 16) (v : Word), s.On ∧ bits 31 29 v.toNat ≠ 7 ∧ s.dev.f linSchedStatus_RUNNING n = 0 ∧ s.dev.f linSchedStatus_PENDING n = 0) ∧
    (∃ (s : State) (k : Fin 32), s.On ∧ (s.dev.tunOpen k).msgs = 0) ∧
    (∃ (s : State) (k : Fin 32), s.On ∧ (s.dev.tunOpen k).msgs ≠ 0) ∧
    (∃ (s : State) (v : Word), s.On ∧ 19 < bits 25 19 v.toNat) ∧
    (∃ (s : State) (v : Word), s.On ∧ bits 25 19 v.toNat ≤ 19 ∧ v.getLsbD 31 = true) :=
  ⟨⟨(State.reset : State), (2 : Fin 16), by rfl, by decide +kernel⟩,
   ⟨(State.reset : State), by rfl⟩,
   ⟨(State.reset : State), (0xE0000000 : Word), by rfl, by decide +kernel⟩,
   ⟨(State.reset : State), (2 : Fin 16), (0x20050012 : Word), by rfl, by decide +kernel⟩,
   ⟨(State.reset : State), (3 : Fin 32), by rfl, by decide +kernel⟩,
   ⟨(wit fun d => d.setTun 3 { bytes := [1, 2], msgs := 1 } : State), (3 : Fin 32), by rfl, by decide +kernel⟩,
   ⟨(State.reset : State), (0x83F80000 : Word), by rfl, by decide +kernel⟩,
   ⟨(State.reset : State), (0x80280500 : Word), by rfl, by decide +kernel⟩⟩

/-- The hypotheses of TimeDomains are met, clause by clause (part 1). -/
theorem test_hyps_TimeDomains_1 :
    (∃ (s : State) (t : Fin 4), s.On ∧ s.dev.f tmDomCmd_BUSY t = 0) ∧
    (∃ (s : State) (t : Fin 4), s.On ∧ s.dev.f tmDomCmd_BUSY t = 1) ∧
    (∃ (s : State) (t : Fin 4), s.On ∧ ((s.dev.dom t).cmd = none ∨ s.dev.ns < (s.dev.dom t).due)) ∧
    (∃ (s : State) (t : Fin 4) (p : DomSet) (w0 : Nat) (w1 : Nat) (w2 : Nat) (r : Nat), s.On ∧ s.dev.inWfi 0 = false ∧ s.dev.inWfi 1 = false ∧ (s.dev.dom t).due = r ∧ r ≤ s.dev.ns ∧ (s.dev.dom t).cmd = some (1, w0, w1, w2) ∧ s.dev.domSet t r = some p ∧ (0x27F5C28F5D ≤ w1 % 65536 * 2 ^ 32 + w0) ∧ (w1 % 65536 * 2 ^ 32 + w0 ≤ 0x280A3D70A3)) ∧
    (∃ (s : State) (t : Fin 4) (p : DomSet) (w0 : Nat) (w1 : Nat) (w2 : Nat) (r : Nat), s.On ∧ s.dev.inWfi 0 = false ∧ s.dev.inWfi 1 = false ∧ (s.dev.dom t).due = r ∧ r ≤ s.dev.ns ∧ (s.dev.dom t).cmd = some (1, w0, w1, w2) ∧ s.dev.domSet t r = some p ∧ (w1 % 65536 * 2 ^ 32 + w0 < 0x27F5C28F5D ∨ 0x280A3D70A3 < w1 % 65536 * 2 ^ 32 + w0)) ∧
    (∃ (s : State) (t : Fin 4) (p : DomSet) (w0 : Nat) (w1 : Nat) (w2 : Nat) (r : Nat), s.On ∧ s.dev.inWfi 0 = false ∧ s.dev.inWfi 1 = false ∧ (s.dev.dom t).due = r ∧ r ≤ s.dev.ns ∧ (s.dev.dom t).cmd = some (2, w0, w1, w2) ∧ s.dev.domSet t r = some p ∧ ((p.at r : Int) + signed64 (w1 * 2 ^ 32 + w0) * 2 ^ 32 < 0)) ∧
    (∃ (s : State) (t : Fin 4) (p : DomSet) (w0 : Nat) (w1 : Nat) (w2 : Nat) (r : Nat), s.On ∧ s.dev.inWfi 0 = false ∧ s.dev.inWfi 1 = false ∧ (s.dev.dom t).due = r ∧ r ≤ s.dev.ns ∧ (s.dev.dom t).cmd = some (3, w0, w1, w2) ∧ s.dev.domSet t r = some p ∧ (10 ^ 9 ≤ w0)) :=
  ⟨⟨(State.reset : State), (2 : Fin 4), by rfl, by decide +kernel⟩,
   ⟨(wit fun d => d.sf tmDomCmd_BUSY 2 1 : State), (2 : Fin 4), by rfl, by decide +kernel⟩,
   ⟨(State.reset : State), (2 : Fin 4), by rfl, by decide +kernel⟩,
   ⟨(wit fun d => { d.setDom 2 { cmd := some (1, 5, 0x28, 0) } with raw := 2 ^ 40 } : State), (2 : Fin 4), ({} : DomSet), (5 : Nat), (0x28 : Nat), (0 : Nat), (0 : Nat), by rfl, by decide +kernel⟩,
   ⟨(wit fun d => d.setDom 2 { cmd := some (1, 0, 0x29, 0) } : State), (2 : Fin 4), ({} : DomSet), (0 : Nat), (0x29 : Nat), (0 : Nat), (0 : Nat), by rfl, by decide +kernel⟩,
   ⟨(wit fun d => d.setDom 2 { cmd := some (2, 0xFFFFFFFF, 0xFFFFFFFF, 0) } : State), (2 : Fin 4), ({} : DomSet), (0xFFFFFFFF : Nat), (0xFFFFFFFF : Nat), (0 : Nat), (0 : Nat), by rfl, by decide +kernel⟩,
   ⟨(wit fun d => d.setDom 2 { cmd := some (3, 1000000000, 0, 0) } : State), (2 : Fin 4), ({} : DomSet), (1000000000 : Nat), (0 : Nat), (0 : Nat), (0 : Nat), by rfl, by decide +kernel⟩⟩

/-- The hypotheses of TimeDomains are met, clause by clause (part 2). -/
theorem test_hyps_TimeDomains_2 :
    (∃ (s : State) (t : Fin 4) (p : DomSet) (w0 : Nat) (w1 : Nat) (w2 : Nat) (o : Nat) (r : Nat), s.On ∧ s.dev.inWfi 0 = false ∧ s.dev.inWfi 1 = false ∧ (s.dev.dom t).due = r ∧ r ≤ s.dev.ns ∧ (s.dev.dom t).cmd = some (2, w0, w1, w2) ∧ s.dev.domSet t r = some p ∧ ((p.at r : Int) + signed64 (w1 * 2 ^ 32 + w0) * 2 ^ 32 = o)) ∧
    (∃ (s : State) (t : Fin 4) (p : DomSet) (w0 : Nat) (w1 : Nat) (w2 : Nat) (r : Nat), s.On ∧ s.dev.inWfi 0 = false ∧ s.dev.inWfi 1 = false ∧ (s.dev.dom t).due = r ∧ r ≤ s.dev.ns ∧ (s.dev.dom t).cmd = some (3, w0, w1, w2) ∧ s.dev.domSet t r = some p ∧ (w0 < 10 ^ 9)) ∧
    (∃ (s : State), s.On) ∧
    (∃ (s : State), s.On ∧ s.dev.f tmConvCmd_BUSY 0 = 0) ∧
    (∃ (s : State), s.On ∧ s.dev.f tmConvCmd_BUSY 0 = 1) ∧
    (∃ (s : State) (x : Nat), s.On ∧ s.dev.f tmConvCmd_BUSY 0 = 1 ∧ (s.dev.domTime? (s.dev.f tmConvCmd_TD 0) ((s.dev.rd .tmConvIn 1).toNat * 2 ^ 32 + (s.dev.rd .tmConvIn 0).toNat) = some x)) ∧
    (∃ (s : State), s.On ∧ s.dev.f tmConvCmd_BUSY 0 = 1 ∧ (s.dev.domTime? (s.dev.f tmConvCmd_TD 0) ((s.dev.rd .tmConvIn 1).toNat * 2 ^ 32 + (s.dev.rd .tmConvIn 0).toNat) = none)) :=
  ⟨⟨(wit fun d => d.setDom 2 { cmd := some (2, 7, 0, 0) } : State), (2 : Fin 4), ({} : DomSet), (7 : Nat), (0 : Nat), (0 : Nat), (7 * 2 ^ 32 : Nat), (0 : Nat), by rfl, by decide +kernel⟩,
   ⟨(wit fun d => d.setDom 2 { cmd := some (3, 7, 8, 9) } : State), (2 : Fin 4), ({} : DomSet), (7 : Nat), (8 : Nat), (9 : Nat), (0 : Nat), by rfl, by decide +kernel⟩,
   ⟨(wit fun d => { d with raw := 2 ^ 40, time := { d.time with sub := 7 } } : State), by rfl⟩,
   ⟨(State.reset : State), by rfl, by decide +kernel⟩,
   ⟨(wit fun d => d.sf tmConvCmd_BUSY 0 1 : State), by rfl, by decide +kernel⟩,
   ⟨(wit fun d => (d.sf tmConvCmd_BUSY 0 1).wr .tmConvIn 0 77 : State), (77 : Nat), by rfl, by decide +kernel⟩,
   ⟨(wit fun d => (d.setDom 0 { hist := [⟨100, 0, 5⟩] }).sf tmConvCmd_BUSY 0 1 : State), by rfl, by decide +kernel⟩⟩

/-- The hypotheses of TriggersAndCaptures are met, clause by clause (part 1). -/
theorem test_hyps_TriggersAndCaptures_1 :
    (∃ (s : State) (n : Fin 32) (v : Word), s.On ∧ trigOk (bits 27 25 v.toNat) (s.dev.rd .tmTtPeriod n).toNat (s.dev.rd .tmTtTarget n).toNat = false) ∧
    (∃ (s : State) (n : Fin 32) (v : Word), s.On ∧ v.getLsbD 31 = false ∧ trigOk (bits 27 25 v.toNat) (s.dev.rd .tmTtPeriod n).toNat (s.dev.rd .tmTtTarget n).toNat = true) ∧
    (∃ (s : State), s.On) ∧
    (∃ (s : State) (n : Fin 32) (q : Nat), s.On ∧ (s.dev.trig n).next = some q ∧ s.dev.domNow (s.dev.trig n).td < q) ∧
    (∃ (s : State) (n : Fin 32) (q : Nat), s.On ∧ (s.dev.trig n).next = some q ∧ q ≤ s.dev.domNow (s.dev.trig n).td ∧ s.dev.f tmTtCtl_EN n = 1 ∧ (s.dev.trig n).kind = 0) ∧
    (∃ (s : State) (n : Fin 32) (q : Nat), s.On ∧ (s.dev.trig n).next = some q ∧ q ≤ s.dev.domNow (s.dev.trig n).td ∧ s.dev.f tmTtCtl_EN n = 1 ∧ (s.dev.trig n).kind = 1) ∧
    (∃ (s : State) (n : Fin 32) (q : Nat), s.On ∧ (s.dev.trig n).next = some q ∧ q ≤ s.dev.domNow (s.dev.trig n).td ∧ s.dev.f tmTtCtl_EN n = 1 ∧ (s.dev.trig n).kind = 2 ∧ ((s.dev.trig n).target % 256 = 0) ∧ s.dev.inSepia = false) ∧
    (∃ (s : State) (n : Fin 32) (q : Nat) (c : Nat), s.On ∧ (s.dev.trig n).next = some q ∧ q ≤ s.dev.domNow (s.dev.trig n).td ∧ s.dev.f tmTtCtl_EN n = 1 ∧ (s.dev.trig n).kind = 2 ∧ s.dev.trigJob n = false ∧ s.dev.trigCluster n (s.dev.trig n).target = some c) ∧
    (∃ (s : State) (n : Fin 32) (q : Nat), s.On ∧ (s.dev.trig n).next = some q ∧ q ≤ s.dev.domNow (s.dev.trig n).td ∧ s.dev.f tmTtCtl_EN n = 1 ∧ (s.dev.trig n).kind = 3 ∧ ((s.dev.trig n).target % 65536 = 0)) ∧
    (∃ (s : State) (n : Fin 32) (q : Nat) (m : Fin 16), s.On ∧ (s.dev.trig n).next = some q ∧ q ≤ s.dev.domNow (s.dev.trig n).td ∧ s.dev.f tmTtCtl_EN n = 1 ∧ (s.dev.trig n).kind = 3 ∧ bitAt m (s.dev.trig n).target = true ∧ s.dev.portAsleep (80 + m) = true) :=
  ⟨⟨(State.reset : State), (5 : Fin 32), (0x0E000000 : Word), by rfl, by decide +kernel⟩,
   ⟨(State.reset : State), (5 : Fin 32), (0 : Word), by rfl, by decide +kernel⟩,
   ⟨(wit fun d => d.setCap 1 [⟨0, 1, true⟩, ⟨0, 2, true⟩] : State), by rfl⟩,
   ⟨(witTrig { next := some 9000 } : State), (5 : Fin 32), (9000 : Nat), by rfl, by decide +kernel⟩,
   ⟨(witTrig { next := some 0, period := 5000 } : State), (5 : Fin 32), (0 : Nat), by rfl, by decide +kernel⟩,
   ⟨(witTrig { next := some 0, kind := 1, target := 0x10 } : State), (5 : Fin 32), (0 : Nat), by rfl, by decide +kernel⟩,
   ⟨(witTrig { next := some 0, kind := 2, target := 0x300 } : State), (5 : Fin 32), (0 : Nat), by rfl, by decide +kernel⟩,
   ⟨(witTrig { next := some 0, kind := 2, target := 0x50001 } fun d => ((List.range 8).foldl (fun d k => d.sf unitState_STATE (uEng k) 2) d).sf feEngRole_TRIGGER 2 1 : State), (5 : Fin 32), (0 : Nat), (0 : Nat), by rfl, by decide +kernel⟩,
   ⟨(witTrig { next := some 0, kind := 3, target := 0 } : State), (5 : Fin 32), (0 : Nat), by rfl, by decide +kernel⟩,
   ⟨(witTrig { next := some 0, kind := 3, target := 4 } fun d => (d.wr .bwSegPorts 2 262144).sf bwSegStatus_STATE 0 2 : State), (5 : Fin 32), (0 : Nat), (2 : Fin 16), by rfl, by decide +kernel⟩⟩

/-- The hypotheses of TriggersAndCaptures are met, clause by clause (part 2). -/
theorem test_hyps_TriggersAndCaptures_2 :
    (∃ (s : State) (n : Fin 32) (q : Nat), s.On ∧ (s.dev.trig n).next = some q ∧ q ≤ s.dev.domNow (s.dev.trig n).td ∧ s.dev.f tmTtCtl_EN n = 1 ∧ (s.dev.trig n).kind = 4 ∧ (s.dev.portAsleep ((s.dev.trig n).target % 128) = true)) ∧
    (∃ (s : State) (n : Fin 32) (q : Nat), s.On ∧ (s.dev.trig n).next = some q ∧ q ≤ s.dev.domNow (s.dev.trig n).td ∧ s.dev.f tmTtCtl_EN n = 1 ∧ (s.dev.trig n).kind = 4 ∧ (s.dev.portAsleep ((s.dev.trig n).target % 128) = false) ∧ bits 15 8 (s.dev.trig n).target = 0) ∧
    (∃ (s : State) (n : Fin 32) (q : Nat), s.On ∧ (s.dev.trig n).next = some q ∧ q ≤ s.dev.domNow (s.dev.trig n).td ∧ s.dev.f tmTtCtl_EN n = 1 ∧ (s.dev.trig n).kind = 5) ∧
    (∃ (s : State) (k : Fin 4), s.On ∧ s.dev.toutTrig k = none) ∧
    (∃ (s : State) (k : Fin 4) (m : Nat), s.On ∧ s.dev.toutTrig k = some m) ∧
    (∃ (s : State) (c : Fin 8), s.On ∧ s.dev.f tmCapCfg_EN c = 0) ∧
    (∃ (s : State) (c : Fin 8) (held : BitVec 16), s.On ∧ s.dev.f tmCapCfg_EN c = 1 ∧ s.dev.capShort c = false ∧ 8 * s.dev.f tmCapCfg_FILTER c ≤ held.toNat ∧ s.dev.f tmCapCfg_EDGE c = 3 ∧ 4 ≤ (s.dev.capFifo c).length) ∧
    (∃ (s : State) (c : Fin 8) (held : BitVec 16), s.On ∧ s.dev.f tmCapCfg_EN c = 1 ∧ s.dev.capShort c = false ∧ 8 * s.dev.f tmCapCfg_FILTER c ≤ held.toNat ∧ s.dev.f tmCapCfg_EDGE c = 3 ∧ (s.dev.capFifo c = []) ∧ (Sparse.get (fun _ => none) s.dev.time.capLast c.val = none)) ∧
    (∃ (s : State) (c : Fin 8) (held : BitVec 16), s.On ∧ s.dev.f tmCapCfg_EN c = 1 ∧ (s.dev.capShort c = true ∨ held.toNat < 8 * s.dev.f tmCapCfg_FILTER c)) :=
  ⟨⟨(witTrig { next := some 0, kind := 4, target := 40 } fun d => (d.wr .bwSegPorts 1 256).sf bwSegStatus_STATE 0 2 : State), (5 : Fin 32), (0 : Nat), by rfl, by decide +kernel⟩,
   ⟨(witTrig { next := some 0, kind := 4, target := 40 } : State), (5 : Fin 32), (0 : Nat), by rfl, by decide +kernel⟩,
   ⟨(witTrig { next := some 0, kind := 5, names := true } : State), (5 : Fin 32), (0 : Nat), by rfl, by decide +kernel⟩,
   ⟨(State.reset : State), (1 : Fin 4), by rfl, by decide +kernel⟩,
   ⟨(witTrig { kind := 5, names := true, pulse := true, target := 1 } : State), (1 : Fin 4), (5 : Nat), by rfl, by decide +kernel⟩,
   ⟨(State.reset : State), (1 : Fin 8), by rfl, by decide +kernel⟩,
   ⟨(wit fun d => ((d.sf tmCapCfg_EN 1 1).sf tmCapCfg_EDGE 1 3).setCap 1 [⟨0, 1, true⟩, ⟨0, 2, true⟩, ⟨0, 3, true⟩, ⟨0, 4, true⟩] : State), (1 : Fin 8), (40 : BitVec 16), by rfl, by decide +kernel⟩,
   ⟨(wit fun d => { ((d.sf tmCapCfg_EN 1 1).sf tmCapCfg_EDGE 1 3) with raw := 100 * 2 ^ 16 } : State), (1 : Fin 8), (40 : BitVec 16), by rfl, by decide +kernel⟩,
   ⟨(wit fun d => (d.sf tmCapCfg_EN 1 1).sf tmCapCfg_FILTER 1 6 : State), (1 : Fin 8), (40 : BitVec 16), by rfl, by decide +kernel⟩⟩

/-- The hypotheses of CryptoPages are met, clause by clause (part 1). -/
theorem test_hyps_CryptoPages_1 :
    (∃ (s : State) (u : Fin 17), s.On ∧ 16 ≤ (s.dev.user u).jobs.length + (s.dev.user u).done.length) ∧
    (∃ (s : State) (u : Fin 17), s.On ∧ (s.dev.user u).jobs.length + (s.dev.user u).done.length < 16) ∧
    (∃ (s : State) (u : Fin 17), s.On ∧ (s.dev.admits (uPage u) = false ∨ s.dev.inSepia = true ∨ (s.dev.user u).jobs = [])) ∧
    (∃ (s : State) (u : Fin 17) (j : CxJob), s.On ∧ s.dev.admits (uPage u) = true ∧ s.dev.inSepia = false ∧ s.dev.cxStartable u = some j ∧ s.dev.cxBad u j = true) ∧
    (∃ (s : State) (u : Fin 17) (j : CxJob), s.On ∧ s.dev.admits (uPage u) = true ∧ s.dev.inSepia = false ∧ s.dev.cxStartable u = some j ∧ s.dev.cxBad u j = false ∧ cdiv (cxPayload j) 16 ≤ s.dev.f mdPaCfg_BURST_BLOCKS 0) ∧
    (∃ (s : State), s.On ∧ (s.dev.inSepia = true ∨ s.dev.cxNextChunk = none)) ∧
    (∃ (s : State) (u : Fin 17) (j : CxJob), s.On ∧ s.dev.inSepia = false ∧ s.dev.cxNextChunk = some (u.val, j) ∧ j.cut = false ∧ j.delivered = false ∧ (List.range 8).any s.dev.cxServes = false) ∧
    (∃ (s : State) (u : Fin 17) (j : CxJob), s.On ∧ s.dev.inSepia = false ∧ s.dev.cxNextChunk = some (u.val, j) ∧ j.delivered = false ∧ j.cut = true) ∧
    (∃ (s : State) (u : Fin 17) (j : CxJob) (c : Nat) (k : Nat), s.On ∧ s.dev.inSepia = false ∧ s.dev.cxNextChunk = some (u.val, j) ∧ (s.dev.cxJob? u j.no = some j) ∧ j.cut = false ∧ (List.range 8).any s.dev.cxServes = true ∧ s.dev.cxPlace = some (c, k)) ∧
    (∃ (s : State) (u : Fin 17), s.On ∧ (((s.dev.user u).jobs.find? fun j => decide (j.stage = .ended)) = none)) ∧
    (∃ (s : State) (u : Fin 17) (j : CxJob) (e : Nat × Nat), s.On ∧ ((s.dev.user u).jobs = [j]) ∧ j.stage = .ended ∧ j.exc = none ∧ j.delivered = false ∧ (e ∈ [(1, 1), (2, 4), (3, 2), (4, 3)]) ∧ leNat (memGet s.dev.eng.cs (csBase j.cluster + s.dev.cxSlotOff j.slot + 0x80) 1) = e.1) :=
  ⟨⟨(witPage { done := List.replicate 16 ⟨0, 0, 0, 0, 0⟩ } : State), (3 : Fin 17), by rfl, by decide +kernel⟩,
   ⟨(witPage {} : State), (3 : Fin 17), by rfl, by decide +kernel⟩,
   ⟨(witPage {} : State), (3 : Fin 17), by rfl, by decide +kernel⟩,
   ⟨(witPage { jobs := [{ witJob with tag := 17 }], next := 1 } : State), (3 : Fin 17), ({ witJob with tag := 17 } : CxJob), by rfl, by decide +kernel⟩,
   ⟨(witPage { jobs := [witJob], next := 1 } fun d => d.sf mdPaCfg_BURST_BLOCKS 0 4 : State), (3 : Fin 17), (witJob : CxJob), by rfl, by decide +kernel⟩,
   ⟨(State.reset : State), by rfl, by decide +kernel⟩,
   ⟨(witPage { jobs := [{ witJob with stage := .chunk }], next := 1 } (bindOn 3) : State), (3 : Fin 17), ({ witJob with stage := .chunk } : CxJob), by rfl, by decide +kernel⟩,
   ⟨(witPage { jobs := [{ witJob with stage := .chunk, cut := true }], next := 1 } : State), (3 : Fin 17), ({ witJob with stage := .chunk, cut := true } : CxJob), by rfl, by decide +kernel⟩,
   ⟨(witPage { jobs := [{ witJob with stage := .chunk }], next := 1 } fun d => (((List.range 8).foldl (fun d k => d.sf unitState_STATE (uEng k) 2) (((bindOn 3 d).sf cxSvcCfg_CLUSTERS 0 1).sf cxSvcCfg_SLOTS 0 2))).sf feEngRole_CRYPTO 2 1 : State), (3 : Fin 17), ({ witJob with stage := .chunk } : CxJob), (0 : Nat), (0 : Nat), by rfl, by decide +kernel⟩,
   ⟨(State.reset : State), (3 : Fin 17), by rfl, by decide +kernel⟩,
   ⟨(witPage { jobs := [{ witJob with stage := .ended }], next := 1 } fun d => { d with eng := { d.eng with cs := memSet d.eng.cs (csBase 0 + d.cxSlotOff 0 + 0x80) [3] } } : State), (3 : Fin 17), ({ witJob with stage := .ended } : CxJob), ((3, 2) : Nat × Nat), by rfl, by decide +kernel⟩⟩

/-- The hypotheses of CryptoPages are met, clause by clause (part 2). -/
theorem test_hyps_CryptoPages_2 :
    (∃ (s : State), s.On) ∧
    (∃ (s : State) (u : Fin 17), s.On ∧ s.dev.ctxBusy u (s.dev.f cxCtxSel_CTX u) = true) ∧
    (∃ (s : State) (u : Fin 17), s.On ∧ s.dev.ctxBusy u (s.dev.f cxCtxSel_CTX u) = false) ∧
    (∃ (s : State) (u : Fin 17), s.On ∧ s.dev.ctxBusy u (s.dev.f cxCtxSel_CTX u) = false ∧ s.dev.dmaGo u = true) ∧
    (∃ (s : State) (u : Fin 17), s.On ∧ s.dev.ctxBusy u (s.dev.f cxCtxSel_CTX u) = false ∧ s.dev.dmaGo u = false) ∧
    (∃ (s : State) (u : Fin 17) (img : List Byte), s.On ∧ s.dev.ctxBusy u (s.dev.f cxCtxSel_CTX u) = false ∧ s.dev.dmaGo u = true ∧ s.dev.ctxImage u ((slice (if u.val < 16 then img else s.dev.sramGet (s.dev.ctxAddr u) 184) 0 184).map BitVec.toNat) = none) ∧
    (∃ (s : State) (u : Fin 17) (img : List Byte) (x : CxCtx), s.On ∧ s.dev.ctxBusy u (s.dev.f cxCtxSel_CTX u) = false ∧ s.dev.dmaGo u = true ∧ s.dev.ctxImage u ((slice (if u.val < 16 then img else s.dev.sramGet (s.dev.ctxAddr u) 184) 0 184).map BitVec.toNat) = some x) ∧
    (∃ (s : State) (u : Fin 17), s.On ∧ s.dev.ctxBusy u (s.dev.f cxCtxSel_CTX u) = false ∧ u < 16 ∧ s.dev.dmaGo u = true ∧ s.dev.f cxPageCfg_CLEAR_CTX u = 1) ∧
    (∃ (s : State) (u : Fin 17), s.On ∧ s.dev.ctxBusy u (s.dev.f cxCtxSel_CTX u) = false ∧ u < 16 ∧ s.dev.dmaGo u = false ∧ s.dev.f cxPageCfg_CLEAR_CTX u = 1) ∧
    (∃ (s : State) (u : Fin 17), s.On ∧ s.dev.ctxBusy u (s.dev.f cxCtxSel_CTX u) = false ∧ s.dev.f cxPageCfg_CLEAR_CTX u = 0 ∧ s.dev.f ksRoot_STATE 0 ≠ 1) :=
  ⟨⟨(witPage { done := [⟨1, 2, 3, 4, 5⟩, ⟨6, 7, 8, 9, 10⟩] } : State), by rfl⟩,
   ⟨(witPage { jobs := [witJob], next := 1 } : State), (3 : Fin 17), by rfl, by decide +kernel⟩,
   ⟨(witPage { ctxs := [(0, { mode := 3 })] } : State), (3 : Fin 17), by rfl, by decide +kernel⟩,
   ⟨(witPage { } fun d => d.setFn 3 { d.fn 3 with bme := true } : State), (3 : Fin 17), by rfl, by decide +kernel⟩,
   ⟨(witPage {} : State), (3 : Fin 17), by rfl, by decide +kernel⟩,
   ⟨(witPage { } fun d => d.setFn 3 { d.fn 3 with bme := true } : State), (3 : Fin 17), ([] : List Byte), by rfl, by decide +kernel⟩,
   ⟨(witPage {} fun d => (d.setFn 3 { d.fn 3 with bme := true }).sf cxPageCfg_CLEAR_CTX 3 1 : State), (3 : Fin 17), (([0x58, 0x43, 2, 0, 0, 0, 160, 0] ++ List.replicate 8 0 ++ [5, 3] ++ List.replicate 158 0).map (BitVec.ofNat 8) : List Byte), ({ mode := 5 } : CxCtx), by rfl, by decide +kernel⟩,
   ⟨(witPage {} fun d => (d.setFn 3 { d.fn 3 with bme := true }).sf cxPageCfg_CLEAR_CTX 3 1 : State), (3 : Fin 17), by rfl, by decide +kernel⟩,
   ⟨(witPage {} fun d => d.sf cxPageCfg_CLEAR_CTX 3 1 : State), (3 : Fin 17), by rfl, by decide +kernel⟩,
   ⟨(witPage {} fun d => (d.sf cxPageCfg_CLEAR_CTX 3 0).sf ksRoot_STATE 0 0 : State), (3 : Fin 17), by rfl, by decide +kernel⟩⟩

/-- The hypotheses of KeyStoreCommands are met, clause by clause (part 1). -/
theorem test_hyps_KeyStoreCommands_1 :
    (∃ (s : State) (u : Fin 17), s.On ∧ s.dev.f cxKsStatus_BUSY u = 1) ∧
    (∃ (s : State) (u : Fin 17) (slot : BitVec 12), s.On ∧ s.dev.f cxKsStatus_BUSY u = 0 ∧ s.dev.slotTaken slot.toNat = false ∧ s.dev.ksMayAct u slot.toNat = false) ∧
    (∃ (s : State) (u : Fin 17) (slot : BitVec 12), s.On ∧ s.dev.f cxKsStatus_BUSY u = 0 ∧ s.dev.slotTaken slot.toNat = false ∧ s.dev.ksMayAct u slot.toNat = true ∧ ksMayOwn u (s.dev.rd .cxKsAttr u).toNat = false) ∧
    (∃ (s : State) (u : Fin 17) (slot : BitVec 12), s.On ∧ s.dev.f cxKsStatus_BUSY u = 0 ∧ s.dev.slotTaken slot.toNat = false ∧ s.dev.ksMayAct u slot.toNat = true ∧ ksMayOwn u (s.dev.rd .cxKsAttr u).toNat = true ∧ atOk (s.dev.rd .cxKsAttr u).toNat = false) ∧
    (∃ (s : State) (u : Fin 17) (slot : BitVec 12), s.On ∧ s.dev.f cxKsStatus_BUSY u = 0 ∧ s.dev.slotTaken slot.toNat = false ∧ s.dev.ksMayAct u slot.toNat = true ∧ ksMayOwn u (s.dev.rd .cxKsAttr u).toNat = true ∧ atOk (s.dev.rd .cxKsAttr u).toNat = true ∧ atValid (s.dev.slotAttr slot.toNat) = true ∧ atOwner (s.dev.slotAttr slot.toNat) ≠ atOwner (s.dev.rd .cxKsAttr u).toNat) ∧
    (∃ (s : State) (u : Fin 17) (slot : BitVec 12), s.On ∧ s.dev.f cxKsStatus_BUSY u = 0 ∧ s.dev.slotTaken slot.toNat = false ∧ s.dev.ksMayAct u slot.toNat = true ∧ ksMayOwn u (s.dev.rd .cxKsAttr u).toNat = true ∧ atOk (s.dev.rd .cxKsAttr u).toNat = true ∧ atValid (s.dev.slotAttr slot.toNat) = false ∧ s.dev.cx.drbg = false) ∧
    (∃ (s : State) (u : Fin 17) (slot : BitVec 12), s.On ∧ s.dev.f cxKsStatus_BUSY u = 0 ∧ s.dev.slotTaken slot.toNat = false ∧ s.dev.ksMayAct u slot.toNat = true ∧ ksMayOwn u (s.dev.rd .cxKsAttr u).toNat = true ∧ atOk (s.dev.rd .cxKsAttr u).toNat = true ∧ (atValid (s.dev.slotAttr slot.toNat) = false ∨ atOwner (s.dev.slotAttr slot.toNat) = atOwner (s.dev.rd .cxKsAttr u).toNat) ∧ s.dev.cx.drbg = true ∧ s.dev.slotInUse slot.toNat (atGen (s.dev.slotAttr slot.toNat)) = false) ∧
    (∃ (s : State) (u : Fin 17) (slot : BitVec 12), s.On ∧ s.dev.f cxKsStatus_BUSY u = 0 ∧ s.dev.slotTaken slot.toNat = false ∧ s.dev.ksMayAct u slot.toNat = true ∧ ksMayOwn u (s.dev.rd .cxKsAttr u).toNat = true ∧ atOk (s.dev.rd .cxKsAttr u).toNat = true ∧ (atValid (s.dev.slotAttr slot.toNat) = false ∨ atOwner (s.dev.slotAttr slot.toNat) = atOwner (s.dev.rd .cxKsAttr u).toNat) ∧ s.dev.cx.drbg = true ∧ s.dev.slotInUse slot.toNat (atGen (s.dev.slotAttr slot.toNat)) = false ∧ s.dev.f cxPageCfg_CLEAR_IMPORT u = 1) ∧
    (∃ (s : State) (u : Fin 17) (slot : BitVec 12), s.On ∧ s.dev.f cxKsStatus_BUSY u = 0 ∧ s.dev.slotTaken slot.toNat = false ∧ s.dev.ksMayAct u slot.toNat = true ∧ ksMayOwn u (s.dev.rd .cxKsAttr u).toNat = true ∧ atOk (s.dev.rd .cxKsAttr u).toNat = true ∧ s.dev.f cxPageCfg_CLEAR_IMPORT u = 0) ∧
    (∃ (s : State) (u : Fin 17) (slot : BitVec 12) (aux : BitVec 12), s.On ∧ s.dev.f cxKsStatus_BUSY u = 0 ∧ s.dev.slotTaken slot.toNat = false ∧ s.dev.ksMayAct u slot.toNat = true ∧ ksMayOwn u (s.dev.rd .cxKsAttr u).toNat = true ∧ atOk (s.dev.rd .cxKsAttr u).toNat = true ∧ (atValid (s.dev.slotAttr slot.toNat) = false ∨ atOwner (s.dev.slotAttr slot.toNat) = atOwner (s.dev.rd .cxKsAttr u).toNat) ∧ s.dev.cx.drbg = true ∧ s.dev.slotInUse slot.toNat (atGen (s.dev.slotAttr slot.toNat)) = false ∧ 1 ≤ (s.dev.ksBuf u).getD 0 0 ∧ (s.dev.ksBuf u).getD 0 0 ≤ 24 ∧ (s.dev.ksBuf u).getD 25 0 ≤ 38 ∧ s.dev.ksInput u aux.toNat atKdf = true) ∧
    (∃ (s : State) (u : Fin 17) (slot : BitVec 12) (aux : BitVec 12), s.On ∧ s.dev.f cxKsStatus_BUSY u = 0 ∧ s.dev.slotTaken slot.toNat = false ∧ s.dev.ksMayAct u slot.toNat = true ∧ ksMayOwn u (s.dev.rd .cxKsAttr u).toNat = true ∧ atOk (s.dev.rd .cxKsAttr u).toNat = true ∧ 1 ≤ (s.dev.ksBuf u).getD 0 0 ∧ (s.dev.ksBuf u).getD 0 0 ≤ 24 ∧ (s.dev.ksBuf u).getD 25 0 ≤ 38 ∧ s.dev.ksInput u aux.toNat atKdf = false) :=
  ⟨⟨(wit fun d => d.sf cxKsStatus_BUSY 3 1 : State), (3 : Fin 17), by rfl, by decide +kernel⟩,
   ⟨(State.reset : State), (3 : Fin 17), (5 : BitVec 12), by rfl, by decide +kernel⟩,
   ⟨(wit fun d => d.wr .cxKsAttr 0 0x0C000000 : State), (0 : Fin 17), (5 : BitVec 12), by rfl, by decide +kernel⟩,
   ⟨(wit fun d => d.wr .cxKsAttr 0 0x00600000 : State), (0 : Fin 17), (5 : BitVec 12), by rfl, by decide +kernel⟩,
   ⟨(wit fun d => d.wr .ksSlotAttr 5 0x84000000 : State), (0 : Fin 17), (5 : BitVec 12), by rfl, by decide +kernel⟩,
   ⟨(wit fun d => { d with cx := { d.cx with drbg := false } } : State), (0 : Fin 17), (5 : BitVec 12), by rfl, by decide +kernel⟩,
   ⟨(State.reset : State), (0 : Fin 17), (5 : BitVec 12), by rfl, by decide +kernel⟩,
   ⟨(wit fun d => (d.sf cxPageCfg_CLEAR_IMPORT 0 1).wr .cxKsData 0 0x12345678 : State), (0 : Fin 17), (5 : BitVec 12), by rfl, by decide +kernel⟩,
   ⟨(wit fun d => d.sf cxPageCfg_CLEAR_IMPORT 0 0 : State), (0 : Fin 17), (5 : BitVec 12), by rfl, by decide +kernel⟩,
   ⟨(wit fun d => (d.wr .cxKsData 0 1).wr .ksSlotAttr 6 (BitVec.ofNat 32 (2 ^ 31 + 2 ^ 19)) : State), (0 : Fin 17), (5 : BitVec 12), (6 : BitVec 12), by rfl, by decide +kernel⟩,
   ⟨(wit fun d => d.wr .cxKsData 0 1 : State), (0 : Fin 17), (5 : BitVec 12), (6 : BitVec 12), by rfl, by decide +kernel⟩⟩

/-- The hypotheses of KeyStoreCommands are met, clause by clause (part 2). -/
theorem test_hyps_KeyStoreCommands_2 :
    (∃ (s : State) (u : Fin 17) (slot : BitVec 12) (aux : BitVec 12), s.On ∧ s.dev.f cxKsStatus_BUSY u = 0 ∧ s.dev.slotTaken slot.toNat = false ∧ s.dev.ksMayAct u slot.toNat = true ∧ ksMayOwn u (s.dev.rd .cxKsAttr u).toNat = true ∧ atOk (s.dev.rd .cxKsAttr u).toNat = true ∧ 24 ≤ (s.dev.ksBuf u).getD 63 0 ∧ (s.dev.ksBuf u).getD 63 0 ≤ 48 ∧ s.dev.ksInput u aux.toNat atWrap = false) ∧
    (∃ (s : State) (u : Fin 17) (slot : BitVec 12) (aux : BitVec 12) (k : List Nat), s.On ∧ s.dev.f cxKsStatus_BUSY u = 0 ∧ s.dev.slotTaken slot.toNat = false ∧ s.dev.ksMayAct u slot.toNat = true ∧ ksMayOwn u (s.dev.rd .cxKsAttr u).toNat = true ∧ atOk (s.dev.rd .cxKsAttr u).toNat = true ∧ (atValid (s.dev.slotAttr slot.toNat) = false ∨ atOwner (s.dev.slotAttr slot.toNat) = atOwner (s.dev.rd .cxKsAttr u).toNat) ∧ s.dev.cx.drbg = true ∧ s.dev.slotInUse slot.toNat (atGen (s.dev.slotAttr slot.toNat)) = false ∧ 24 ≤ (s.dev.ksBuf u).getD 63 0 ∧ (s.dev.ksBuf u).getD 63 0 ≤ 48 ∧ s.dev.ksInput u aux.toNat atWrap = true ∧ kwpUnwrap (s.dev.slotKey aux.toNat) ((s.dev.ksBuf u).take ((s.dev.ksBuf u).getD 63 0)) = some k ∧ k.length = atKlen (s.dev.rd .cxKsAttr u).toNat) ∧
    (∃ (s : State) (u : Fin 17) (slot : BitVec 12), s.On ∧ s.dev.f cxKsStatus_BUSY u = 0 ∧ s.dev.slotTaken slot.toNat = false ∧ s.dev.ksMayAct u slot.toNat = true ∧ ofLeOctets ((s.dev.ksBuf u).take 2) ≠ 0x4B42) ∧
    (∃ (s : State) (u : Fin 17) (slot : BitVec 12), s.On ∧ s.dev.f cxKsStatus_BUSY u = 0 ∧ s.dev.slotTaken slot.toNat = false ∧ s.dev.ksMayAct u slot.toNat = true ∧ (s.dev.ksBuf u = leOctets 2 0x4B42 ++ [1, u.val] ++ leOctets 2 (s.dev.f ksWrapGen_CUR u) ++ leOctets 2 32 ++ List.replicate 56 0) ∧ s.dev.f ksRoot_STATE 0 ≠ 1) ∧
    (∃ (s : State) (u : Fin 17) (slot : BitVec 12), s.On ∧ s.dev.f cxKsStatus_BUSY u = 0 ∧ s.dev.slotTaken slot.toNat = false ∧ s.dev.ksMayAct u slot.toNat = true ∧ atValid (s.dev.slotAttr slot.toNat) = false) ∧
    (∃ (s : State) (u : Fin 17) (slot : BitVec 12), s.On ∧ s.dev.f cxKsStatus_BUSY u = 0 ∧ s.dev.slotTaken slot.toNat = false ∧ s.dev.ksMayAct u slot.toNat = true ∧ atValid (s.dev.slotAttr slot.toNat) = true ∧ atOwner (s.dev.slotAttr slot.toNat) = u ∧ atExport (s.dev.slotAttr slot.toNat) = false) ∧
    (∃ (s : State) (u : Fin 17) (slot : BitVec 12), s.On ∧ s.dev.f cxKsStatus_BUSY u = 0 ∧ s.dev.slotTaken slot.toNat = false ∧ s.dev.ksMayAct u slot.toNat = true ∧ atValid (s.dev.slotAttr slot.toNat) = true ∧ atOwner (s.dev.slotAttr slot.toNat) ≠ u) ∧
    (∃ (s : State) (u : Fin 17) (slot : BitVec 12) (k : List Nat), s.On ∧ s.dev.f cxKsStatus_BUSY u = 0 ∧ s.dev.slotTaken slot.toNat = false ∧ s.dev.ksMayAct u slot.toNat = true ∧ atValid (s.dev.slotAttr slot.toNat) = true ∧ atOwner (s.dev.slotAttr slot.toNat) = u ∧ atExport (s.dev.slotAttr slot.toNat) = true ∧ s.dev.wrapKey u (s.dev.f ksWrapGen_CUR u) = some k) ∧
    (∃ (s : State) (u : Fin 17) (slot : BitVec 12), s.On ∧ s.dev.f cxKsStatus_BUSY u = 0 ∧ s.dev.slotTaken slot.toNat = false ∧ s.dev.ksMayAct u slot.toNat = true ∧ s.dev.slotInUse slot.toNat (atGen (s.dev.slotAttr slot.toNat)) = false) ∧
    (∃ (s : State) (u : Fin 17) (slot : BitVec 12), s.On ∧ s.dev.f cxKsStatus_BUSY u = 0 ∧ s.dev.slotTaken slot.toNat = false ∧ s.dev.ksMayAct u slot.toNat = true) :=
  ⟨⟨(wit fun d => d.wr .cxKsData 15 0x18000000 : State), (0 : Fin 17), (5 : BitVec 12), (6 : BitVec 12), by rfl, by decide +kernel⟩,
   ⟨(wit fun d => ((d.ksSetBuf 0 ([188, 155, 123, 150, 175, 216, 230, 52, 118, 192, 61, 42, 49, 179, 102, 173, 159, 84, 82, 54, 128, 73, 158, 141] ++ List.replicate 39 0 ++ [24])).wr .ksSlotAttr 6 (BitVec.ofNat 32 (2 ^ 31 + 2 ^ 20))) : State), (0 : Fin 17), (5 : BitVec 12), (6 : BitVec 12), (List.replicate 16 9 : List Nat), by rfl, by decide +kernel⟩,
   ⟨(State.reset : State), (0 : Fin 17), (5 : BitVec 12), by rfl, by decide +kernel⟩,
   ⟨(wit fun d => (((d.sf ksWrapGen_CUR 0 0).sf ksRoot_STATE 0 0).wr .cxKsData 0 0x00014B42).wr .cxKsData 1 0x00200000 : State), (0 : Fin 17), (5 : BitVec 12), by rfl, by decide +kernel⟩,
   ⟨(State.reset : State), (0 : Fin 17), (5 : BitVec 12), by rfl, by decide +kernel⟩,
   ⟨(wit fun d => d.wr .ksSlotAttr 5 0x80000000 : State), (0 : Fin 17), (5 : BitVec 12), by rfl, by decide +kernel⟩,
   ⟨(wit fun d => d.wr .ksSlotAttr 5 0x84000000 : State), (0 : Fin 17), (5 : BitVec 12), by rfl, by decide +kernel⟩,
   ⟨(wit fun d => { (d.wr .ksSlotAttr 5 0x80800000).sf ksRoot_STATE 0 1 with cx := { d.cx with bankA := { bits := some 5, check := some 0 } } } : State), (0 : Fin 17), (5 : BitVec 12), ((({ ((({} : Dev).wr .ksSlotAttr 5 0x80800000).sf ksRoot_STATE 0 1) with cx := { bankA := { bits := some 5, check := some 0 } } } : Dev).wrapKey 0 (({} : Dev).f ksWrapGen_CUR 0)).getD [] : List Nat), by rfl, by decide +kernel⟩,
   ⟨(wit fun d => d.wr .ksSlotAttr 5 0x80000000 : State), (0 : Fin 17), (5 : BitVec 12), by rfl, by decide +kernel⟩,
   ⟨(wit fun d => d.wr .ksSlotAttr 5 0x84000020 : State), (0 : Fin 17), (5 : BitVec 12), by rfl, by decide +kernel⟩⟩

/-- The hypotheses of KeyStoreUpkeep are met, clause by clause (part 1). -/
theorem test_hyps_KeyStoreUpkeep_1 :
    (∃ (s : State), s.On ∧ (s.dev.cx.switching = [])) ∧
    (∃ (s : State) (u : Fin 17) (x : Nat), s.On ∧ (s.dev.cx.switching = [(u.val, x)]) ∧ (s.dev.cx.waiting = []) ∧ ((s.dev.keySlot x).old.any (fun k => s.dev.slotInUse x (packedGen k)) = false)) ∧
    (∃ (s : State) (u : Fin 17) (x : Nat), s.On ∧ (s.dev.cx.switching = [(u.val, x)]) ∧ ((s.dev.keySlot x).old.any (fun k => s.dev.slotInUse x (packedGen k)) = true)) ∧
    (∃ (s : State), s.On ∧ s.dev.cx.sweep ≠ 0) ∧
    (∃ (s : State), s.On ∧ s.dev.cx.sweep = 0 ∧ s.dev.cx.due = false ∧ s.dev.cx.drbg = false) ∧
    (∃ (s : State), s.On ∧ s.dev.cx.sweep = 0 ∧ s.dev.cx.due = true ∧ s.dev.cx.drbg = false) ∧
    (∃ (s : State), s.On ∧ (s.dev.cx.sweep ≠ 2 ∨ s.dev.cx.drbg = false)) :=
  ⟨⟨(State.reset : State), by rfl, by decide +kernel⟩,
   ⟨(wit fun d => { d.setKeySlot 5 { old := some 3 } with cx := { (d.setKeySlot 5 { old := some 3 }).cx with switching := [(3, 5)] } } : State), (3 : Fin 17), (5 : Nat), by rfl, by decide +kernel⟩,
   ⟨(witTok (.cipher 4 17 5 (packKey 2 [1]) false 6 (some 3)) fun d => let e := d.setKeySlot 5 { old := some (packKey 2 [1]) }; { e with cx := { e.cx with switching := [(3, 5)] } } : State), (3 : Fin 17), (5 : Nat), by rfl, by decide +kernel⟩,
   ⟨(wit fun d => { d with cx := { d.cx with sweep := 2 } } : State), by rfl, by decide +kernel⟩,
   ⟨(wit fun d => { d with cx := { d.cx with drbg := false } } : State), by rfl, by decide +kernel⟩,
   ⟨(wit fun d => { d with cx := { d.cx with drbg := false, due := true } } : State), by rfl, by decide +kernel⟩,
   ⟨(State.reset : State), by rfl, by decide +kernel⟩⟩

/-- The hypotheses of KeyStoreUpkeep are met, clause by clause (part 2). -/
theorem test_hyps_KeyStoreUpkeep_2 :
    (∃ (s : State), s.On ∧ s.dev.cx.sweep = 2 ∧ s.dev.cx.drbg = true ∧ s.dev.cx.due = false ∧ (s.dev.cx.keys = []) ∧ ((s.dev.acct 0).waiting = [])) ∧
    (∃ (s : State), s.On ∧ s.dev.cx.drbg = true) ∧
    (∃ (s : State), s.On ∧ s.dev.cx.due = false ∧ s.dev.mg.rootWait = none) ∧
    (∃ (s : State) (a : Bool) (b : Bool), s.On ∧ s.dev.cx.drbg = false ∧ s.dev.cx.due = false ∧ s.dev.mg.rootWait = some (a, b) ∧ s.dev.vcoreHas 350 = true) ∧
    (∃ (s : State) (v : Word), s.On ∧ (4096 < bits 27 16 v.toNat + v.toNat % 2 ^ 13)) ∧
    (∃ (s : State) (u : Fin 18) (v : Word), s.On ∧ (bits 27 16 v.toNat + v.toNat % 2 ^ 13 ≤ 4096) ∧ (((List.range 18).all fun x => x == u.val || s.dev.f ksQuota_COUNT x == 0 || decide (s.dev.f ksQuota_BASE x + s.dev.f ksQuota_COUNT x ≤ bits 27 16 v.toNat) || decide (bits 27 16 v.toNat + v.toNat % 2 ^ 13 ≤ s.dev.f ksQuota_BASE x)) = true)) ∧
    (∃ (s : State), s.On) :=
  ⟨⟨(wit fun d => { d with cx := { d.cx with sweep := 2 } } : State), by rfl, by decide +kernel⟩,
   ⟨(State.reset : State), by rfl, by decide +kernel⟩,
   ⟨(wit fun d => { d with cx := { d.cx with drbg := false } } : State), by rfl, by decide +kernel⟩,
   ⟨(wit fun d => let d := d.sf mdPaBudget_BUDGET_MW 1 5000; { d with cx := { d.cx with drbg := false }, mg := { d.mg with rootWait := some (true, false) } } : State), (true : Bool), (false : Bool), by rfl, by decide +kernel⟩,
   ⟨(State.reset : State), (0x0FFF0002 : Word), by rfl, by decide +kernel⟩,
   ⟨(wit fun d => (List.range 18).foldl (fun d x => d.wr .ksQuota x 0) d : State), (3 : Fin 18), (0x01000010 : Word), by rfl, by decide +kernel⟩,
   ⟨(State.reset : State), by rfl⟩⟩

/-- The hypotheses of LoadSwitching are met, clause by clause (part 1). -/
theorem test_hyps_LoadSwitching_1 :
    (∃ (s : State) (init : Initiator) (n : Fin 96), s.On ∧ s.dev.may init .ldCtl n = true ∧ (s.dev.ldReported (n / 32) = false ∨ s.dev.isLeader n = false ∨ (s.dev.inSepia = true ∧ init ≠ 0))) ∧
    (∃ (s : State) (init : Initiator) (n : Fin 96), s.On ∧ s.dev.may init .ldCtl n = true ∧ (s.dev.ldReported (n / 32) = true) ∧ s.dev.isLeader n = true ∧ (s.dev.inSepia = false ∨ init = 0) ∧ (s.dev.actsAs (uPd (n / 32)) = stQuiesced ∨ s.dev.actsAs (uLd n) = stQuiesced)) ∧
    (∃ (s : State) (init : Initiator) (n : Fin 96), s.On ∧ s.dev.ldOpen init n = true ∧ (s.dev.ld n).st = ldOff ∧ (s.dev.dieRuns (n / 32) = true) ∧ s.dev.gangSize n = 1) ∧
    (∃ (s : State) (init : Initiator) (n : Fin 96), s.On ∧ s.dev.ldOpen init n = true ∧ (s.dev.ld n).st ≠ ldOff) ∧
    (∃ (s : State) (init : Initiator) (n : Fin 96), s.On ∧ s.dev.ldOpen init n = true ∧ (s.dev.ld n).st = ldOff ∧ (s.dev.dieRuns (n / 32) = true) ∧ 4 ≤ s.dev.gangSize n ∧ (s.dev.ldPhases (n / 32) (s.dev.f ldCfg_PROFILE n) = none)) ∧
    (∃ (s : State) (init : Initiator) (n : Fin 96) (ph : List Nat), s.On ∧ s.dev.ldOpen init n = true ∧ (s.dev.ld n).st = ldOff ∧ (s.dev.dieRuns (n / 32) = true) ∧ 4 ≤ s.dev.gangSize n ∧ (s.dev.ldPhases (n / 32) (s.dev.f ldCfg_PROFILE n) = some ph) ∧ (s.dev.dieLink (n / 32) = true) ∧ (s.dev.ldCost n ph ≤ s.dev.paBudget (1 + n / 32)) ∧ ((s.dev.acct (1 + n / 32)).waiting.length < 64)) ∧
    (∃ (s : State) (init : Initiator) (n : Fin 96) (ph : List Nat), s.On ∧ s.dev.ldOpen init n = true ∧ (s.dev.ld n).st = ldOff ∧ (s.dev.dieRuns (n / 32) = true) ∧ 4 ≤ s.dev.gangSize n ∧ (s.dev.ldPhases (n / 32) (s.dev.f ldCfg_PROFILE n) = some ph) ∧ (s.dev.dieLink (n / 32) = true) ∧ (s.dev.paBudget (1 + n / 32) < s.dev.ldCost n ph)) :=
  ⟨⟨(State.reset : State), (0 : Initiator), (5 : Fin 96), by rfl, by decide +kernel⟩,
   ⟨(witLoad 5 {} fun d => (d.wr .pdGang 0 0).sf unitState_STATE (uLd 5) 3 : State), (0 : Initiator), (5 : Fin 96), by rfl, by decide +kernel⟩,
   ⟨(witLoad 5 {} fun d => d.wr .pdGang 0 0 : State), (0 : Initiator), (5 : Fin 96), by rfl, by decide +kernel⟩,
   ⟨(witLoad 5 { st := ldLatched } fun d => d.wr .pdGang 0 0 : State), (0 : Initiator), (5 : Fin 96), by rfl, by decide +kernel⟩,
   ⟨(witGang {} fun d => d.wr .pdProfile 0 0 : State), (0 : Initiator), (4 : Fin 96), by rfl, by decide +kernel⟩,
   ⟨(witGang {} fun d => d.sf mdPaBudget_BUDGET_MW 3 1000000 : State), (0 : Initiator), (4 : Fin 96), ([0x04018032] : List Nat), by rfl, by decide +kernel⟩,
   ⟨(witGang {} fun d => d.sf mdPaBudget_BUDGET_MW 3 0 : State), (0 : Initiator), (4 : Fin 96), ([0x04018032] : List Nat), by rfl, by decide +kernel⟩⟩

/-- The hypotheses of LoadSwitching are met, clause by clause (part 2). -/
theorem test_hyps_LoadSwitching_2 :
    (∃ (s : State) (init : Initiator) (n : Fin 96), s.On ∧ s.dev.ldOpen init n = true ∧ (s.dev.ld n).st ≠ ldOff ∧ (s.dev.ld n).st ≠ ldLatched ∧ (s.dev.ld n).st ≠ ldOn ∧ (s.dev.ld n).grant = true) ∧
    (∃ (s : State) (init : Initiator) (n : Fin 96), s.On ∧ s.dev.ldOpen init n = true ∧ (s.dev.ld n).st = ldOn ∧ (s.dev.ld n).grant = true) ∧
    (∃ (s : State) (init : Initiator) (n : Fin 96), s.On ∧ s.dev.ldOpen init n = true ∧ (s.dev.ld n).st ≠ ldOff ∧ (s.dev.ld n).st ≠ ldLatched ∧ (s.dev.ld n).grant = false) ∧
    (∃ (s : State) (init : Initiator) (n : Fin 96), s.On ∧ s.dev.ldOpen init n = true ∧ ((s.dev.ld n).st = ldOff ∨ (s.dev.ld n).st = ldLatched)) ∧
    (∃ (s : State) (init : Initiator) (n : Fin 96), s.On ∧ s.dev.ldOpen init n = true ∧ (s.dev.ld n).st = ldLatched ∧ (s.dev.ld n).on = false ∧ s.dev.ldCooled n = true ∧ ((s.dev.ld n).theta / 2 ^ 16 ≤ 2 ^ 15)) ∧
    (∃ (s : State) (init : Initiator) (n : Fin 96), s.On ∧ s.dev.ldOpen init n = true ∧ (s.dev.ld n).st = ldLatched ∧ (s.dev.ld n).on = true ∧ s.dev.ldCooled n = true ∧ ((s.dev.ld n).theta / 2 ^ 16 ≤ 2 ^ 15) ∧ (s.dev.dieRuns (n / 32) = true) ∧ s.dev.gangSize n = 1) ∧
    (∃ (s : State) (init : Initiator) (n : Fin 96), s.On ∧ s.dev.ldOpen init n = true ∧ (s.dev.ld n).st = ldLatched ∧ (s.dev.ldCooled n = false ∨ 2 ^ 15 < (s.dev.ld n).theta / 2 ^ 16)) :=
  ⟨⟨(witLoad 5 { st := ldRamp, on := true, outOn := true, grant := true } fun d => d.wr .pdGang 0 0 : State), (0 : Initiator), (5 : Fin 96), by rfl, by decide +kernel⟩,
   ⟨(witLoad 5 { st := ldOn, on := true, outOn := true, grant := true } fun d => d.wr .pdGang 0 0 : State), (0 : Initiator), (5 : Fin 96), by rfl, by decide +kernel⟩,
   ⟨(witLoad 5 { st := ldOn, on := true, outOn := true } fun d => d.wr .pdGang 0 0 : State), (0 : Initiator), (5 : Fin 96), by rfl, by decide +kernel⟩,
   ⟨(witLoad 5 { st := ldLatched, on := true } fun d => d.wr .pdGang 0 0 : State), (0 : Initiator), (5 : Fin 96), by rfl, by decide +kernel⟩,
   ⟨(witLoad 5 { st := ldLatched, exhausted := true, tripTemp := some 700 } fun d => (d.wr .pdGang 0 0).sf ldTemp_TJ 5 500 : State), (0 : Initiator), (5 : Fin 96), by rfl, by decide +kernel⟩,
   ⟨(witLoad 5 { st := ldLatched, on := true, exhausted := true, tripTemp := some 700 } fun d => (d.wr .pdGang 0 0).sf ldTemp_TJ 5 500 : State), (0 : Initiator), (5 : Fin 96), by rfl, by decide +kernel⟩,
   ⟨(witLoad 5 { st := ldLatched, theta := 2 ^ 31 + 2 ^ 16 } fun d => d.wr .pdGang 0 0 : State), (0 : Initiator), (5 : Fin 96), by rfl, by decide +kernel⟩⟩

/-- The hypotheses of LoadProtection are met, clause by clause (part 1). -/
theorem test_hyps_LoadProtection_1 :
    (∃ (s : State) (n : Fin 96) (p : Fin 3), s.dev.load.down.contains p.val = true ∧ (n / 32 = p.val)) ∧
    (∃ (s : State) (n : Fin 96), (s.dev.load.down.contains (n / 32) = false) ∧ (s.dev.ld n).st = ldRamp ∧ (s.dev.ld n).phases.length ≤ (s.dev.ld n).phase + 1 ∧ ((s.dev.ld n).windowDone = false ∨ (s.dev.ld n).grant = false)) ∧
    (∃ (s : State) (n : Fin 96), (s.dev.load.down.contains (n / 32) = false) ∧ (s.dev.ld n).st = ldRamp ∧ (s.dev.ld n).phases.length ≤ (s.dev.ld n).phase + 1 ∧ (s.dev.ld n).windowDone = true ∧ (s.dev.ld n).grant = true) ∧
    (∃ (s : State) (n : Fin 96), (s.dev.ld n).st ≠ ldRamp) ∧
    (∃ (s : State) (n : Fin 96), (s.dev.ld n).phase + 1 < (s.dev.ld n).phases.length) ∧
    (∃ (s : State) (n : Fin 96), (s.dev.load.down.contains (n / 32) = false) ∧ (s.dev.ld n).st = ldRamp ∧ (s.dev.ld n).phase + 1 < (s.dev.ld n).phases.length) ∧
    (∃ (s : State) (n : Fin 96), (s.dev.load.down.contains (n / 32) = false) ∧ (s.dev.ld n).held = 0 ∧ (s.dev.ld n).grant = true ∧ (s.dev.ld n).st = ldRamp) ∧
    (∃ (s : State) (n : Fin 96), (s.dev.load.down.contains (n / 32) = false) ∧ (s.dev.ld n).held = 0 ∧ (s.dev.ld n).grant = true ∧ (s.dev.ld n).st ≠ ldRamp) ∧
    (∃ (s : State) (n : Fin 96), (s.dev.load.down.contains (n / 32) = false) ∧ 0 < (s.dev.ld n).held) :=
  ⟨⟨(wit fun d => { d with load := { d.load with down := [0] } } : State), (5 : Fin 96), (0 : Fin 3), by decide +kernel⟩,
   ⟨(witLoad 5 { st := ldRamp } : State), (5 : Fin 96), by decide +kernel⟩,
   ⟨(witLoad 5 { st := ldRamp, grant := true, windowDone := true } : State), (5 : Fin 96), by decide +kernel⟩,
   ⟨(State.reset : State), (5 : Fin 96), by decide +kernel⟩,
   ⟨(witLoad 5 { st := ldRamp, phases := [1, 2] } : State), (5 : Fin 96), by decide +kernel⟩,
   ⟨(witLoad 5 { st := ldRamp, phases := [1, 2] } : State), (5 : Fin 96), by decide +kernel⟩,
   ⟨(witLoad 5 { st := ldRamp, grant := true } : State), (5 : Fin 96), by decide +kernel⟩,
   ⟨(witLoad 5 { st := ldOn, grant := true } : State), (5 : Fin 96), by decide +kernel⟩,
   ⟨(witLoad 5 { st := ldOff, held := 1 } : State), (5 : Fin 96), by decide +kernel⟩⟩

/-- The hypotheses of LoadProtection are met, clause by clause (part 2). -/
theorem test_hyps_LoadProtection_2 :
    (∃ (s : State) (n : Fin 96), (s.dev.load.down.contains (n / 32) = false) ∧ s.dev.ldConducts (s.dev.leader n) = true ∧ s.dev.f ldCfg_THERM_MODE (s.dev.leader n) = 0 ∧ 0 < (s.dev.ld (s.dev.leader n)).retries) ∧
    (∃ (s : State) (n : Fin 96), (s.dev.load.down.contains (n / 32) = false) ∧ s.dev.ldConducts (s.dev.leader n) = true ∧ (s.dev.f ldCfg_THERM_MODE (s.dev.leader n) = 1 ∨ (s.dev.ld (s.dev.leader n)).retries = 0)) ∧
    (∃ (s : State) (n : Fin 96), (s.dev.load.down.contains (n / 32) = false) ∧ ((s.dev.ld (s.dev.leader n)).st = ldOn ∨ (s.dev.ld (s.dev.leader n)).phases = []) ∧ s.dev.ldConducts (s.dev.leader n) = true ∧ s.dev.f ldCfg_THERM_MODE (s.dev.leader n) = 0 ∧ 0 < (s.dev.ld (s.dev.leader n)).retries) ∧
    (∃ (s : State) (n : Fin 96), (s.dev.ldConducts (s.dev.leader n) = false ∨ ((s.dev.ld (s.dev.leader n)).st = ldRamp ∧ (s.dev.ld (s.dev.leader n)).phases ≠ []))) ∧
    (∃ (s : State) (n : Fin 96) (p : Fin 3), s.dev.load.down.contains p.val = false ∧ s.dev.dieReboots p = false ∧ s.dev.isLeader n = true ∧ (n / 32 = p.val) ∧ (s.dev.wireModel n).1 ≠ 0 ∧ (s.dev.wireModel n).2 ≠ 0) ∧
    (∃ (s : State) (p : Fin 3), s.dev.dieReboots p = true) ∧
    (∃ (s : State) (n : Fin 96), (s.dev.load.down.contains (n / 32) = false) ∧ (s.dev.ld n).st = ldOn) ∧
    (∃ (s : State) (n : Fin 96) (t : BitVec 16), (s.dev.load.down.contains (n / 32) = false) ∧ (s.dev.ld n).st = ldCool ∧ (s.dev.ld n).on = true ∧ s.dev.gangSize n = 1 ∧ (s.dev.dieRuns (n / 32) = true) ∧ sext 16 t.toNat ≤ (s.dev.ld n).tripTemp.getD 680 - 80) :=
  ⟨⟨(witLoad 4 { st := ldOn, retries := 2, outOn := true } fun d => d.wr .pdGang 0 0x00020000 : State), (6 : Fin 96), by decide +kernel⟩,
   ⟨(witLoad 5 { st := ldOn } fun d => d.wr .pdGang 0 0 : State), (5 : Fin 96), by decide +kernel⟩,
   ⟨(witLoad 5 { st := ldRamp, retries := 2 } fun d => d.wr .pdGang 0 0 : State), (5 : Fin 96), by decide +kernel⟩,
   ⟨(State.reset : State), (5 : Fin 96), by decide +kernel⟩,
   ⟨(witLoad 5 { st := ldOn, theta := 2 ^ 31 } fun d => (d.wr .pdGang 0 0).wr .ldWire 5 0x40000000 : State), (5 : Fin 96), (0 : Fin 3), by decide +kernel⟩,
   ⟨(wit fun d => { (d.wr .unitState (uPd 0) 4#32) with ops := [⟨uPd 0, cmdUpdate, 0, 0, 0, [], []⟩] } : State), (0 : Fin 3), by decide +kernel⟩,
   ⟨(witLoad 5 { st := ldOn } : State), (5 : Fin 96), by decide +kernel⟩,
   ⟨(witLoad 5 { st := ldCool, on := true, retries := 2, tripTemp := some 700 } fun d => d.wr .pdGang 0 0 : State), (5 : Fin 96), (600 : BitVec 16), by decide +kernel⟩⟩

/-- The hypotheses of LoadSupplyAndSampling are met, clause by clause (part 1). -/
theorem test_hyps_LoadSupplyAndSampling_1 :
    (∃ (s : State) (p : Fin 3) (n : Fin 96), s.dev.load.down.contains p.val = false ∧ (n / 32 = p.val) ∧ s.dev.isLeader n = true ∧ ((s.dev.ld n).st = ldAdmit ∨ (s.dev.ld n).st = ldRamp ∨ (s.dev.ld n).st = ldOn ∨ (s.dev.ld n).st = ldCool)) ∧
    (∃ (s : State) (p : Fin 3) (n : Fin 96), s.dev.load.down.contains p.val = false ∧ (n / 32 = p.val) ∧ s.dev.isLeader n = true ∧ (s.dev.ld n).st = ldUv ∧ (s.dev.ld n).on = false) ∧
    (∃ (s : State) (p : Fin 3) (n : Fin 96), s.dev.load.down.contains p.val = false ∧ (n / 32 = p.val) ∧ s.dev.isLeader n = true ∧ (s.dev.ld n).st = ldUv ∧ (s.dev.ld n).on = true ∧ s.dev.gangSize n = 1 ∧ s.dev.dieRuns p = true) ∧
    (∃ (s : State) (p : Fin 3) (c : Fin 4), s.dev.f pdAdcStat_BUSY (4 * p + c) = 0 ∧ s.dev.dieReboots p = false) ∧
    (∃ (s : State) (p : Fin 3) (c : Fin 4), s.dev.load.down.contains p.val = false ∧ s.dev.dieReboots p = false ∧ s.dev.f pdAdcStat_BUSY (4 * p + c) = 1 ∧ bits 7 6 (s.dev.rd .pdAdcSeq (16 * (4 * p + c) + (s.dev.f pdAdcStat_ENTRY (4 * p + c)))).toNat = 1) ∧
    (∃ (s : State) (p : Fin 3) (c : Fin 4) (m : Nat), s.dev.load.down.contains p.val = false ∧ s.dev.dieReboots p = false ∧ s.dev.f pdAdcStat_BUSY (4 * p + c) = 1 ∧ bits 7 6 (s.dev.rd .pdAdcSeq (16 * (4 * p + c) + (s.dev.f pdAdcStat_ENTRY (4 * p + c)))).toNat = 0 ∧ bits 9 8 (s.dev.rd .pdAdcSeq (16 * (4 * p + c) + (s.dev.f pdAdcStat_ENTRY (4 * p + c)))).toNat ≤ 1 ∧ (m = 32 * p + (s.dev.rd .pdAdcSeq (16 * (4 * p + c) + (s.dev.f pdAdcStat_ENTRY (4 * p + c)))).toNat % 32)) ∧
    (∃ (s : State) (p : Fin 3), s.dev.load.down.contains p.val = false ∧ s.dev.dieReboots p = true) :=
  ⟨⟨(witLoad 5 { st := ldCool } fun d => d.wr .pdGang 0 0 : State), (0 : Fin 3), (5 : Fin 96), by decide +kernel⟩,
   ⟨(witLoad 5 { st := ldUv } fun d => d.wr .pdGang 0 0 : State), (0 : Fin 3), (5 : Fin 96), by decide +kernel⟩,
   ⟨(witLoad 5 { st := ldUv, on := true } fun d => d.wr .pdGang 0 0 : State), (0 : Fin 3), (5 : Fin 96), by decide +kernel⟩,
   ⟨(State.reset : State), (0 : Fin 3), (1 : Fin 4), by decide +kernel⟩,
   ⟨(wit fun d => (d.sf pdAdcStat_BUSY 1 1).wr .pdAdcSeq 16 0x80000040 : State), (0 : Fin 3), (1 : Fin 4), by decide +kernel⟩,
   ⟨(wit fun d => (d.sf pdAdcStat_BUSY 1 1).wr .pdAdcSeq 16 0x80000105 : State), (0 : Fin 3), (1 : Fin 4), (5 : Nat), by decide +kernel⟩,
   ⟨(wit fun d => { (d.wr .unitState (uPd 0) 4#32).sf pdAdcStat_BUSY 1 1 with ops := [⟨uPd 0, cmdUpdate, 0, 0, 0, [], []⟩] } : State), (0 : Fin 3), by decide +kernel⟩⟩

/-- The hypotheses of LoadSupplyAndSampling are met, clause by clause (part 2). -/
theorem test_hyps_LoadSupplyAndSampling_2 :
    (∃ (s : State) (n : Fin 96), (s.dev.load.down.contains (n / 32) = false) ∧ s.dev.b ldCfg_OL_OFF_EN n = true ∧ (s.dev.ld n).st = ldOff ∧ s.dev.isLeader n = true ∧ (s.dev.load.asleep.contains (n / 32) = false) ∧ (s.dev.ld n).olOff = 2) ∧
    (∃ (s : State) (n : Fin 96), (s.dev.load.down.contains (n / 32) = false)) ∧
    (∃ (s : State) (p : Fin 3) (x : AggMean), s.dev.load.down.contains p.val = false ∧ Sparse.get aggDefault s.dev.load.agg p = x ∧ (s.dev.sleep.time - x.from' < 10 ^ 9)) ∧
    (∃ (s : State) (p : Fin 3) (x : AggMean), s.dev.load.down.contains p.val = false ∧ Sparse.get aggDefault s.dev.load.agg p = x ∧ (10 ^ 9 ≤ s.dev.sleep.time - x.from')) ∧
    (∃ (s : State) (p : Fin 3), (s.dev.f pdStatus_LOC p = 1 ∨ s.dev.load.asleep.contains p = true ∨ s.dev.dieReboots p = true)) ∧
    (∃ (s : State) (p : Fin 3) (n : Fin 96), s.dev.load.down.contains p.val = false ∧ (n / 32 = p.val) ∧ s.dev.isLeader n = true ∧ s.dev.f pdStatus_LOC p = 0 ∧ s.dev.load.asleep.contains p = false ∧ s.dev.dieReboots p = false) ∧
    (∃ (s : State) (p : Fin 3) (n : Fin 96), s.On ∧ s.dev.load.down.contains p.val = false ∧ (n / 32 = p.val) ∧ s.dev.isLeader n = true ∧ (s.dev.ld n).cause < 8) :=
  ⟨⟨(witLoad 5 { olOff := 2 } fun d => (d.wr .pdGang 0 0).sf ldCfg_OL_OFF_EN 5 1 : State), (5 : Fin 96), by decide +kernel⟩,
   ⟨(witLoad 5 { olOff := 2 } fun d => (d.wr .pdGang 0 0).sf ldCfg_OL_OFF_EN 5 1 : State), (5 : Fin 96), by decide +kernel⟩,
   ⟨(State.reset : State), (0 : Fin 3), ({} : AggMean), by decide +kernel⟩,
   ⟨(wit fun d => { d.sf pdAgg_MA 0 200000 with sleep := { d.sleep with time := 2000000000 } } : State), (0 : Fin 3), ({} : AggMean), by decide +kernel⟩,
   ⟨(wit fun d => d.sf pdStatus_LOC 0 1 : State), (0 : Fin 3), by decide +kernel⟩,
   ⟨(witLoad 5 { on := true, st := ldOn } fun d => d.wr .pdGang 0 0 : State), (0 : Fin 3), (5 : Fin 96), by decide +kernel⟩,
   ⟨(wit fun d => { (d.wr .pdGang 0 0) with load := { d.load with ch := Sparse.set ldDefault [] 5 { on := true, st := 3 } } } : State), (0 : Fin 3), (5 : Fin 96), by rfl, by decide +kernel⟩⟩

/-- The hypotheses of SegmentSleep are met, clause by clause (part 1). -/
theorem test_hyps_SegmentSleep_1 :
    (∃ (s : State) (x : Fin 32), s.On ∧ s.dev.f bwSegStatus_STATE x ≠ 0) ∧
    (∃ (s : State) (x : Fin 32), s.On ∧ s.dev.f bwSegStatus_STATE x = 0 ∧ s.dev.winQuiet = true) ∧
    (∃ (s : State) (x : Fin 32) (n : Fin 16), s.On ∧ s.dev.f bwSegStatus_STATE x = 0 ∧ s.dev.winQuiet = true ∧ s.dev.f bwSegCfg_GTS_EN x = 1 ∧ s.dev.portSet .bwSegPorts (3 * x) (80 + n) = true ∧ s.dev.f linCfg_ROLE n = 0 ∧ s.dev.f linSchedStatus_RUNNING n = 1) ∧
    (∃ (s : State) (x : Fin 32), s.On ∧ s.dev.segDrained x = false) ∧
    (∃ (s : State) (x : Fin 32), s.On ∧ s.dev.segDrained x = true ∧ s.dev.f bwSegStatus_STATE x = 1 ∧ s.dev.sleep.drained.contains x.val = false) ∧
    (∃ (s : State) (x : Fin 32) (p : Fin 96), s.On ∧ s.dev.f bwSegStatus_STATE x = 1 ∧ s.dev.sleep.drained.contains x.val = false ∧ s.dev.portSet .bwSegPorts (3 * x) p = true) ∧
    (∃ (s : State) (x : Fin 32), s.On ∧ s.dev.f bwSegStatus_STATE x ≠ 1) :=
  ⟨⟨(wit fun d => d.sf bwSegStatus_STATE 3 1 : State), (3 : Fin 32), by rfl, by decide +kernel⟩,
   ⟨(State.reset : State), (3 : Fin 32), by rfl, by decide +kernel⟩,
   ⟨(wit fun d => (((d.sf bwSegCfg_GTS_EN 3 1).wr .bwSegPorts 11 0x00040000).sf linCfg_ROLE 2 0).sf linSchedStatus_RUNNING 2 1 : State), (3 : Fin 32), (2 : Fin 16), by rfl, by decide +kernel⟩,
   ⟨(witQ fun d => d.wr .bwSegPorts 10 2 : State), (3 : Fin 32), by rfl, by decide +kernel⟩,
   ⟨(wit fun d => d.sf bwSegStatus_STATE 3 1 : State), (3 : Fin 32), by rfl, by decide +kernel⟩,
   ⟨(witQ fun d => (d.sf bwSegStatus_STATE 3 1).wr .bwSegPorts 10 2 : State), (3 : Fin 32), (33 : Fin 96), by rfl, by decide +kernel⟩,
   ⟨(State.reset : State), (3 : Fin 32), by rfl, by decide +kernel⟩⟩

/-- The hypotheses of SegmentSleep are met, clause by clause (part 2). -/
theorem test_hyps_SegmentSleep_2 :
    (∃ (s : State) (x : Fin 32), s.On ∧ s.dev.f bwSegStatus_STATE x = 1 ∧ s.dev.sleep.drained.contains x.val = true) ∧
    (∃ (s : State) (x : Fin 32), s.On ∧ s.dev.f bwSegStatus_STATE x = 0) ∧
    (∃ (s : State) (x : Fin 32), s.On ∧ s.dev.sleep.power ≠ .waking ∧ s.dev.f bwSegStatus_STATE x ≠ 0) ∧
    (∃ (s : State) (x : Fin 32), s.On ∧ s.dev.sleep.power = .waking ∧ s.dev.f bwSegStatus_STATE x ≠ 0) ∧
    (∃ (s : State) (x : Fin 32) (w : Fin 3) (v : Word), s.On ∧ (s.dev.f bwSegStatus_STATE x ≠ 0 ∨ v.toNat ≠ (v.toNat &&& segPortMask w) ∨ ((List.range 32).any fun y => y != x.val && (v.toNat &&& (s.dev.rd .bwSegPorts (3 * y + w)).toNat) != 0) = true)) ∧
    (∃ (s : State) (x : Fin 32) (w : Fin 3) (v : Word), s.On ∧ s.dev.f bwSegStatus_STATE x = 0 ∧ (v.toNat = (v.toNat &&& segPortMask w)) ∧ (((List.range 32).any fun y => y != x.val && (v.toNat &&& (s.dev.rd .bwSegPorts (3 * y + w)).toNat) != 0) = false)) :=
  ⟨⟨(wit fun d => { (d.sf bwSegStatus_STATE 3 1) with sleep := { d.sleep with drained := [3, 4] } } : State), (3 : Fin 32), by rfl, by decide +kernel⟩,
   ⟨(State.reset : State), (3 : Fin 32), by rfl, by decide +kernel⟩,
   ⟨(wit fun d => (d.sf bwSegStatus_STATE 3 2).wr .bwSegPorts 11 0x00040000 : State), (3 : Fin 32), by rfl, by decide +kernel⟩,
   ⟨(wit fun d => let e := d.sf bwSegStatus_STATE 3 2; { e with sleep := { e.sleep with power := .waking } } : State), (3 : Fin 32), by rfl, by decide +kernel⟩,
   ⟨(State.reset : State), (3 : Fin 32), (0 : Fin 3), (1 : Word), by rfl, by decide +kernel⟩,
   ⟨(State.reset : State), (3 : Fin 32), (1 : Fin 3), (0x10 : Word), by rfl, by decide +kernel⟩⟩

/-- The hypotheses of DeviceSleepAndWake are met, clause by clause (part 1). -/
theorem test_hyps_DeviceSleepAndWake_1 :
    (∃ (s : State) (init : Initiator), s.On ∧ s.dev.may init .bwSleepCmd 0 = true ∧ init ≠ 0 ∧ init ≠ 16) ∧
    (∃ (s : State) (init : Initiator), s.On ∧ s.dev.may init .bwSleepCmd 0 = true ∧ ((init = 0 ∨ init = 16)) ∧ (s.dev.f bwSleepStatus_BUSY 0 = 1 ∨ s.dev.sleep.power ≠ .active)) ∧
    (∃ (s : State) (init : Initiator), s.On ∧ s.dev.may init .bwSleepCmd 0 = true ∧ ((init = 0 ∨ init = 16)) ∧ s.dev.f bwSleepStatus_BUSY 0 = 0 ∧ s.dev.sleep.power = .active ∧ s.dev.winQuiet = true) ∧
    (∃ (s : State), s.On ∧ (s.dev.sleep.power ≠ .sleepEntry ∨ (s.dev.f bwSleepStatus_STEP 0 = 3 ∧ ((List.range 32).any fun x => s.dev.f bwSegStatus_STATE x != 2) = true))) ∧
    (∃ (s : State), s.On ∧ s.dev.sleep.power = .sleepEntry ∧ s.dev.f bwSleepStatus_STEP 0 = 2 ∧ s.dev.winQuiet = true) ∧
    (∃ (s : State), s.On ∧ s.dev.sleep.power = .sleepEntry ∧ s.dev.f bwSleepStatus_STEP 0 = 4 ∧ s.dev.mg.flashOps.contains .log = true) ∧
    (∃ (s : State), s.On ∧ s.dev.sleep.power = .sleepEntry ∧ s.dev.f bwSleepStatus_STEP 0 = 3 ∧ 150 ≤ s.dev.paBudget 0 ∧ (s.dev.acct 0).waiting.length < 64 ∧ (((List.range 32).all fun x => s.dev.f bwSegStatus_STATE x == 2) = true)) ∧
    (∃ (s : State), s.On ∧ s.dev.sleep.power = .sleepEntry ∧ s.dev.f bwSleepStatus_STEP 0 = 4 ∧ s.dev.mg.flashOps.contains .log = false) :=
  ⟨⟨(wit witPerm : State), (5 : Initiator), by rfl, by decide +kernel⟩,
   ⟨(State.reset : State), (0 : Initiator), by rfl, by decide +kernel⟩,
   ⟨(wit fun d => { d with sleep := { d.sleep with power := .active } } : State), (0 : Initiator), by rfl, by decide +kernel⟩,
   ⟨(wit fun d => { d.sf bwSleepStatus_STEP 0 3 with sleep := { d.sleep with power := .sleepEntry } } : State), by rfl, by decide +kernel⟩,
   ⟨(wit fun d => { d.sf bwSleepStatus_STEP 0 2 with sleep := { d.sleep with power := .sleepEntry } } : State), by rfl, by decide +kernel⟩,
   ⟨(wit fun d => { d.sf bwSleepStatus_STEP 0 4 with sleep := { d.sleep with power := .sleepEntry } , mg := { d.mg with flashOps := [.log] } } : State), by rfl, by decide +kernel⟩,
   ⟨(wit fun d => { (List.range 32).foldl (fun d x => d.sf bwSegStatus_STATE x 2) (d.sf bwSleepStatus_STEP 0 3) with sleep := { d.sleep with power := .sleepEntry } } : State), by rfl, by decide +kernel⟩,
   ⟨(wit fun d => { d.sf bwSleepStatus_STEP 0 4 with sleep := { d.sleep with power := .sleepEntry } } : State), by rfl, by decide +kernel⟩⟩

/-- The hypotheses of DeviceSleepAndWake are met, clause by clause (part 2). -/
theorem test_hyps_DeviceSleepAndWake_2 :
    (∃ (s : State), s.On ∧ s.dev.sleep.power = .sleepEntry ∧ s.dev.f bwSleepStatus_STEP 0 = 5) ∧
    (∃ (s : State), s.On ∧ s.dev.sleep.power = .sleepEntry ∧ s.dev.f bwSleepStatus_STEP 0 = 6) ∧
    (∃ (s : State) (n : Fin 48), (32 ≤ n.val ∨ s.dev.f bwCanWake_WUP_EN n = 0 ∨ (s.dev.portSleepy (32 + n) = false ∧ s.dev.sleep.power ≠ .sleepEntry ∧ s.dev.sleep.power ≠ .sleep))) ∧
    (∃ (s : State) (l : Fin 16) (m : Fin 8), s.dev.portSleepy (80 + l) = false ∧ s.dev.portSleepy (12 + m) = false ∧ s.dev.sleep.power ≠ .sleepEntry ∧ s.dev.sleep.power ≠ .sleep) ∧
    (∃ (s : State) (n : Fin 48), n.val < 32 ∧ s.dev.f bwCanWake_WUP_EN n = 1 ∧ s.dev.sleep.power = .sleep) ∧
    (∃ (s : State) (l : Fin 16), s.dev.f bwLinWake_EN l = 1 ∧ s.dev.sleep.power = .sleep) ∧
    (∃ (s : State) (m : Fin 8), s.dev.f bwT1sWake_EN m = 1 ∧ s.dev.sleep.power = .sleep) ∧
    (∃ (s : State) (n : Fin 48), n.val < 32 ∧ s.dev.f bwCanWake_WUP_EN n = 1 ∧ s.dev.sleep.power = .sleepEntry ∧ s.dev.f bwSleepStatus_STEP 0 < 6) :=
  ⟨⟨(wit fun d => { d.sf bwSleepStatus_STEP 0 5 with sleep := { d.sleep with power := .sleepEntry } } : State), by rfl, by decide +kernel⟩,
   ⟨(wit fun d => { d.sf bwSleepStatus_STEP 0 6 with sleep := { d.sleep with power := .sleepEntry } } : State), by rfl, by decide +kernel⟩,
   ⟨(State.reset : State), (3 : Fin 48), by decide +kernel⟩,
   ⟨(State.reset : State), (3 : Fin 16), (3 : Fin 8), by decide +kernel⟩,
   ⟨(wit fun d => { d.sf bwCanWake_WUP_EN 3 1 with sleep := { d.sleep with power := .sleep } } : State), (3 : Fin 48), by decide +kernel⟩,
   ⟨(wit fun d => { d.sf bwLinWake_EN 3 1 with sleep := { d.sleep with power := .sleep } } : State), (3 : Fin 16), by decide +kernel⟩,
   ⟨(wit fun d => { d.sf bwT1sWake_EN 3 1 with sleep := { d.sleep with power := .sleep } } : State), (3 : Fin 8), by decide +kernel⟩,
   ⟨(wit fun d => { d.sf bwCanWake_WUP_EN 3 1 with sleep := { d.sleep with power := .sleepEntry } } : State), (3 : Fin 48), by decide +kernel⟩⟩

/-- The hypotheses of DeviceSleepAndWake are met, clause by clause (part 3). -/
theorem test_hyps_DeviceSleepAndWake_3 :
    (∃ (s : State) (k : Fin 8), s.dev.f bwSwfCfg_EN k = 0) ∧
    (∃ (s : State) (k : Fin 8) (ide : Bool) (ident : BitVec 29), s.dev.f bwSwfCfg_EN k = 1 ∧ s.dev.sleep.power = .sleep ∧ ide = s.dev.b bwSwfCfg_IDE k ∧ (((s.dev.f bwSwfId_ID k ^^^ ident.toNat) &&& s.dev.f bwSwfIdMask_ID_MASK k) = 0) ∧ s.dev.f bwSwfCfg_DLC k = 0) ∧
    (∃ (s : State) (i : Fin 8), (s.dev.winArmed i = false ∨ s.dev.winMasked i = true)) ∧
    (∃ (s : State) (i : Fin 8), s.dev.f bwWinCfg_EN i = 1 ∧ s.dev.winMasked i = false ∧ s.dev.sleep.power = .sleep) ∧
    (∃ (s : State) (i : Fin 8), s.dev.f bwWinStatus_LEVEL i = 1 ∧ s.dev.f bwWinStuck_STUCK_S i ≠ 0) ∧
    (∃ (s : State), s.dev.sleep.power ≠ .off) ∧
    (∃ (s : State), s.dev.sleep.power = .off) :=
  ⟨⟨(State.reset : State), (1 : Fin 8), by decide +kernel⟩,
   ⟨(wit fun d => { d.sf bwSwfCfg_EN 1 1 with sleep := { d.sleep with power := .sleep } } : State), (1 : Fin 8), (false : Bool), (0 : BitVec 29), by decide +kernel⟩,
   ⟨(State.reset : State), (2 : Fin 8), by decide +kernel⟩,
   ⟨(wit fun d => { d.sf bwWinCfg_EN 2 1 with sleep := { d.sleep with power := .sleep } } : State), (2 : Fin 8), by decide +kernel⟩,
   ⟨(wit fun d => (d.sf bwWinStatus_LEVEL 2 1).sf bwWinStuck_STUCK_S 2 5 : State), (2 : Fin 8), by decide +kernel⟩,
   ⟨(wit fun d => { d with sleep := { d.sleep with power := .sleep } } : State), by decide +kernel⟩,
   ⟨(State.reset : State), by decide +kernel⟩⟩

/-- The hypotheses of HostAndFarSide are met, clause by clause (part 1). -/
theorem test_hyps_HostAndFarSide_1 :
    (∃ (s : State) (n : Fin 16), s.On ∧ s.dev.fnAnswers n = false) ∧
    (∃ (s : State) (n : Fin 16) (x : HostReq), s.On ∧ s.dev.fnAnswers n = true ∧ reqOk x = false) ∧
    (∃ (s : State) (n : Fin 16), s.On ∧ 64 ≤ s.dev.heldWrites n) ∧
    (∃ (s : State) (n : Fin 16) (x : HostReq) (p : Bool), s.On ∧ s.dev.fnAnswers n = true ∧ s.dev.heldWrites n < 64 ∧ (p = true ∨ reqOk x = false)) ∧
    (∃ (s : State) (n : Fin 16) (x : HostReq), s.On ∧ s.dev.asks4 n x = true ∧ x.bar2 = false ∧ s.dev.mayRead n x.off.toNat = true) ∧
    (∃ (s : State) (n : Fin 16) (x : HostReq), s.On ∧ s.dev.asks4 n x = true ∧ x.bar2 = false ∧ s.dev.mayRead n x.off.toNat = false) ∧
    (∃ (s : State) (n : Fin 16) (x : HostReq), s.On ∧ s.dev.asks4 n x = true ∧ x.bar2 = true ∧ (x.off.toNat % 65536 < 0x1000)) ∧
    (∃ (s : State) (n : Fin 16) (x : HostReq), s.On ∧ s.dev.asks4 n x = true ∧ x.bar2 = false ∧ s.dev.mayWrite n x.off.toNat = true ∧ farWindow n x.off.toNat = none) ∧
    (∃ (s : State) (n : Fin 16) (x : HostReq), s.On ∧ s.dev.asks4 n x = true ∧ x.bar2 = false ∧ s.dev.mayWrite n x.off.toNat = false ∧ regAt x.off.toNat = none) ∧
    (∃ (s : State) (n : Fin 16) (x : HostReq) (w : Nat), s.On ∧ s.dev.asks4 n x = true ∧ x.bar2 = false ∧ s.dev.mayWrite n x.off.toNat = true ∧ farWindow n x.off.toNat = some w ∧ s.dev.f hbFarErrLatch_LATCHED (farPair n w) = 1) ∧
    (∃ (s : State) (n : Fin 16) (x : HostReq) (w : Nat), s.On ∧ s.dev.asks4 n x = true ∧ x.bar2 = false ∧ s.dev.mayWrite n x.off.toNat = true ∧ farWindow n x.off.toNat = some w ∧ s.dev.f hbFarErrLatch_LATCHED (farPair n w) = 0 ∧ (s.dev.farQueue w).length < 32 ∧ ((w < 4 → s.dev.f bwLinkStatus_UP w = 1))) :=
  ⟨⟨(State.reset : State), (8 : Fin 16), by rfl, by decide +kernel⟩,
   ⟨(witHost : State), (8 : Fin 16), ({ bar2 := false, off := 0x26, size := 4, full := true } : HostReq), by rfl, by decide +kernel⟩,
   ⟨(witHost fun d => d.setHeldAccs 8 (List.replicate 64 (.write 0x440000 9)) : State), (8 : Fin 16), by rfl, by decide +kernel⟩,
   ⟨(witHost : State), (8 : Fin 16), (witAt 0x20 : HostReq), (true : Bool), by rfl, by decide +kernel⟩,
   ⟨(witHost witPerm8 : State), (8 : Fin 16), (witAt 0x20 : HostReq), by rfl, by decide +kernel⟩,
   ⟨(witHost : State), (8 : Fin 16), (witAt 0x3000 : HostReq), by rfl, by decide +kernel⟩,
   ⟨(witHost : State), (8 : Fin 16), (witAt 0x20 true : HostReq), by rfl, by decide +kernel⟩,
   ⟨(witHost witPerm8 : State), (8 : Fin 16), (witAt 0x3000 : HostReq), by rfl, by decide +kernel⟩,
   ⟨(witHost : State), (8 : Fin 16), (witAt 0x3FFC : HostReq), by rfl, by decide +kernel⟩,
   ⟨(witHost fun d => (witPerm8 d).sf hbFarErrLatch_LATCHED (farPair 8 3) 1 : State), (8 : Fin 16), (witAt 0x440000 : HostReq), (3 : Nat), by rfl, by decide +kernel⟩,
   ⟨(witHost fun d => (witPerm8 d).sf bwLinkStatus_UP 3 1 : State), (8 : Fin 16), (witAt 0x440000 : HostReq), (3 : Nat), by rfl, by decide +kernel⟩⟩

/-- The hypotheses of HostAndFarSide are met, clause by clause (part 2). -/
theorem test_hyps_HostAndFarSide_2 :
    (∃ (s : State) (n : Fin 16) (x : HostReq) (w : Nat), s.On ∧ s.dev.asks4 n x = true ∧ x.bar2 = false ∧ s.dev.mayWrite n x.off.toNat = true ∧ farWindow n x.off.toNat = some w ∧ s.dev.f hbFarErrLatch_LATCHED (farPair n w) = 0 ∧ 32 ≤ (s.dev.farQueue w).length) ∧
    (∃ (s : State) (w : Fin 7), s.On ∧ (s.dev.farQueue w = [])) ∧
    (∃ (s : State) (w : Fin 7) (x : FarWrite) (rest : List FarWrite), s.On ∧ (s.dev.farQueue w = x :: rest) ∧ x.src = .posted ∧ x.dead = false ∧ ((w < 4 → s.dev.f bwLinkStatus_UP w = 1)) ∧ s.dev.f hbFarErrLatch_LATCHED (farPair x.dom w) = 0 ∧ s.dev.farRefuses x.off = false) ∧
    (∃ (s : State) (w : Fin 7) (x : FarWrite) (rest : List FarWrite), s.On ∧ (s.dev.farQueue w = x :: rest) ∧ s.dev.noneWaits = true ∧ x.src = .posted ∧ ((w < 4 → s.dev.f bwLinkStatus_UP w = 1)) ∧ (x.dead = true ∨ s.dev.f hbFarErrLatch_LATCHED (farPair x.dom w) = 1)) ∧
    (∃ (s : State) (w : Fin 7) (x : FarWrite) (rest : List FarWrite), s.On ∧ (s.dev.farQueue w = x :: rest) ∧ w < 4 ∧ s.dev.f bwLinkStatus_UP w = 0) ∧
    (∃ (s : State) (w : Fin 7) (x : FarWrite) (rest : List FarWrite), s.On ∧ (s.dev.farQueue w = x :: rest) ∧ x.src = .posted ∧ x.dead = false ∧ s.dev.farDown w = false ∧ s.dev.f hbFarErrLatch_LATCHED (farPair x.dom w) = 0 ∧ s.dev.farRefuses x.off = true) ∧
    (∃ (s : State) (w : Fin 7) (x : FarWrite) (rest : List FarWrite), s.On ∧ (s.dev.farQueue w = x :: rest) ∧ x.src = .coe ∧ s.dev.farDown w = false) ∧
    (∃ (s : State) (w : Fin 7) (x : FarWrite) (rest : List FarWrite), s.On ∧ (s.dev.farQueue w = x :: rest) ∧ x.src = .posted ∧ x.dead = false ∧ s.dev.f hbFarErrLatch_LATCHED (farPair x.dom w) = 0) ∧
    (∃ (s : State) (w : Fin 7) (x : FarWrite) (rest : List FarWrite) (r : Reg) (i : Nat), s.On ∧ (s.dev.farQueue w = x :: rest) ∧ s.dev.noneWaits = true ∧ x.src = .posted ∧ x.dead = false ∧ s.dev.f hbFarErrLatch_LATCHED (farPair x.dom w) = 0 ∧ farWindow x.dom x.off = some w.val ∧ regAt x.off = some (r, i) ∧ s.dev.storesOnly x.dom r i = true ∧ (x.off < 2 ^ 24) ∧ x.seq < 65536) ∧
    (∃ (s : State) (init : Initiator) (n : Fin 16), s.On ∧ (init = 0 ∨ init = 16 ∨ init.val = n.val)) ∧
    (∃ (s : State) (init : Initiator) (n : Fin 16), s.On ∧ init ≠ 0 ∧ init ≠ 16 ∧ init.val ≠ n.val) :=
  ⟨⟨(witHost fun d => (witPerm8 d).setFarQueue 3 (List.replicate 32 ⟨8, 3, 0x440000, 9, .posted, false⟩) : State), (8 : Fin 16), (witAt 0x440000 : HostReq), (3 : Nat), by rfl, by decide +kernel⟩,
   ⟨(State.reset : State), (3 : Fin 7), by rfl, by decide +kernel⟩,
   ⟨(witFar 3 0x440000 fun d => d.sf bwLinkStatus_UP 3 1 : State), (3 : Fin 7), (⟨8, 3, 0x440000, 9, .posted, false⟩ : FarWrite), ([] : List FarWrite), by rfl, by decide +kernel⟩,
   ⟨(witFar 3 0x440000 fun d => (d.sf bwLinkStatus_UP 3 1).sf hbFarErrLatch_LATCHED (farPair 8 3) 1 : State), (3 : Fin 7), (⟨8, 3, 0x440000, 9, .posted, false⟩ : FarWrite), ([] : List FarWrite), by rfl, by decide +kernel⟩,
   ⟨(witFar 3 0x440000 fun d => d.sf bwLinkStatus_UP 3 0 : State), (3 : Fin 7), (⟨8, 3, 0x440000, 9, .posted, false⟩ : FarWrite), ([] : List FarWrite), by rfl, by decide +kernel⟩,
   ⟨(witFar 4 ((regOff .cxKsCmd 8).getD 0) fun d => d.sf cxKsStatus_BUSY 8 1 : State), (4 : Fin 7), (⟨8, 3, (regOff .cxKsCmd 8).getD 0, 9, .posted, false⟩ : FarWrite), ([] : List FarWrite), by rfl, by decide +kernel⟩,
   ⟨(witHost fun d => (d.setFarQueue 3 [⟨8, 3, 0x440000, 9, .coe, false⟩]).sf bwLinkStatus_UP 3 1 : State), (3 : Fin 7), (⟨8, 3, 0x440000, 9, .coe, false⟩ : FarWrite), ([] : List FarWrite), by rfl, by decide +kernel⟩,
   ⟨(witFar 3 0x440000 : State), (3 : Fin 7), (⟨8, 3, 0x440000, 9, .posted, false⟩ : FarWrite), ([] : List FarWrite), by rfl, by decide +kernel⟩,
   ⟨(witFar 0 ((regOff .ldWire 5).getD 0) fun d => { d with load := { d.load with reported := [(0, true)] } } : State), (0 : Fin 7), (⟨8, 3, (regOff .ldWire 5).getD 0, 9, .posted, false⟩ : FarWrite), ([] : List FarWrite), (.ldWire : Reg), (5 : Nat), by rfl, by decide +kernel⟩,
   ⟨(witFar 3 0x440000 fun d => d.wr .hbFarErrLatch (farPair 8 3) 0x83440000 : State), (8 : Initiator), (8 : Fin 16), by rfl, by decide +kernel⟩,
   ⟨(State.reset : State), (5 : Initiator), (8 : Fin 16), by rfl, by decide +kernel⟩⟩

/-- The hypotheses of FunctionsAndEthernetControl are met, clause by clause (part 1). -/
theorem test_hyps_FunctionsAndEthernetControl_1 :
    (∃ (s : State), s.On) ∧
    (∃ (s : State) (n : Fin 16), s.On ∧ s.dev.fnExists n = false) ∧
    (∃ (s : State) (n : Fin 16), s.On ∧ (n % 8 ≠ 0) ∧ s.dev.fnExists n = true ∧ s.dev.bind n = 0) ∧
    (∃ (s : State) (n : Fin 16), s.On ∧ (n % 8 ≠ 0) ∧ s.dev.fnExists n = true) ∧
    (∃ (s : State) (n : Fin 16), s.On ∧ (n % 8 = 0)) ∧
    (∃ (s : State) (n : Fin 16) (init : Initiator), s.On ∧ (init = 0 ∨ init = 16) ∧ n = 0) ∧
    (∃ (s : State) (n : Fin 16) (init : Initiator), s.On ∧ (init = 0 ∨ init = 16) ∧ n ≠ 0 ∧ s.dev.actsAs (uHr n) = stOffline) ∧
    (∃ (s : State) (init : Initiator), s.On ∧ init ≠ 0 ∧ init ≠ 16) ∧
    (∃ (s : State) (n : Fin 16), s.On ∧ ((s.dev.coeDom n).reqs = [] ∨ s.dev.ethBound n = false ∨ (s.dev.coeDom n).run ≠ none)) :=
  ⟨⟨(State.reset : State), by rfl⟩,
   ⟨(State.reset : State), (3 : Fin 16), by rfl, by decide +kernel⟩,
   ⟨(wit fun d => (((d.setFn 0 { vfEnable := true, numVfs := 5 }).sf hrRxCfg_ENABLE 50 1).sf hrTxCfg_ENABLE 50 1).wr .hbFarErrLatch (farPair 3 2) 0x81000000 : State), (3 : Fin 16), by rfl, by decide +kernel⟩,
   ⟨(wit fun d => (d.setFn 0 { vfEnable := true, numVfs := 5 }) : State), (3 : Fin 16), by rfl, by decide +kernel⟩,
   ⟨(State.reset : State), (8 : Fin 16), by rfl, by decide +kernel⟩,
   ⟨(State.reset : State), (0 : Fin 16), (0 : Initiator), by rfl, by decide +kernel⟩,
   ⟨(State.reset : State), (8 : Fin 16), (0 : Initiator), by rfl, by decide +kernel⟩,
   ⟨(State.reset : State), (5 : Initiator), by rfl, by decide +kernel⟩,
   ⟨(State.reset : State), (8 : Fin 16), by rfl, by decide +kernel⟩⟩

/-- The hypotheses of FunctionsAndEthernetControl are met, clause by clause (part 2). -/
theorem test_hyps_FunctionsAndEthernetControl_2 :
    (∃ (s : State) (n : Fin 16) (m : List Byte) (rest : List (List Byte)), s.On ∧ ((s.dev.coeDom n).reqs = m :: rest)) ∧
    (∃ (s : State) (n : Fin 16) (m : List Byte) (rest : List (List Byte)) (k : Nat), s.On ∧ (s.dev.f hbDomBind_BIND n = 1 ∨ s.dev.f hbDomBind_BIND n = 2) ∧ ((s.dev.coeDom n).reqs = m :: rest) ∧ (s.dev.coeDom n).run = none ∧ beAt m 1 1 = 1 ∧ (s.dev.coeDom n).next = some k ∧ k ≠ beAt m 4 2 ∧ (((s.dev.coeDom n).replay.find? fun e => e.1 == beAt m 4 2) = none)) ∧
    (∃ (s : State) (n : Fin 16) (m : List Byte) (rest : List (List Byte)) (k : Nat) (q : Nat) (t : Nat) (st : Nat) (det : Nat) (p : List Byte), s.On ∧ (s.dev.f hbDomBind_BIND n = 1 ∨ s.dev.f hbDomBind_BIND n = 2) ∧ ((s.dev.coeDom n).reqs = m :: rest) ∧ (s.dev.coeDom n).run = none ∧ beAt m 1 1 = 1 ∧ (s.dev.coeDom n).next = some k ∧ (((s.dev.coeDom n).replay.find? fun e => e.1 == beAt m 4 2) = some (q, t, st, det, p)) ∧ t ≠ 8) ∧
    (∃ (s : State) (n : Fin 16) (m : List Byte) (rest : List (List Byte)), s.On ∧ (s.dev.f hbDomBind_BIND n = 1 ∨ s.dev.f hbDomBind_BIND n = 2) ∧ ((s.dev.coeDom n).reqs = m :: rest) ∧ (s.dev.coeDom n).run = none ∧ (s.dev.coeDom n).next = some (beAt m 4 2) ∧ (((s.dev.coeDom n).replay.find? fun e => e.1 == beAt m 4 2) = none) ∧ (slice (m.drop 12) 0 (beAt m 6 2)).length < 8) ∧
    (∃ (s : State) (n : Fin 16) (m : List Byte) (rest : List (List Byte)) (off : Nat), s.On ∧ (s.dev.f hbDomBind_BIND n = 1 ∨ s.dev.f hbDomBind_BIND n = 2) ∧ ((s.dev.coeDom n).reqs = m :: rest) ∧ (s.dev.coeDom n).run = none ∧ (s.dev.coeDom n).next = some (beAt m 4 2) ∧ (((s.dev.coeDom n).replay.find? fun e => e.1 == beAt m 4 2) = none) ∧ beAt m 1 1 = 1 ∧ 8 ≤ (slice (m.drop 12) 0 (beAt m 6 2)).length ∧ coeArgs (slice (m.drop 12) 0 (beAt m 6 2)) = (off, 4, 1) ∧ (off % 4 = 0) ∧ s.dev.mayRead n off = true) ∧
    (∃ (s : State) (n : Fin 16) (m : List Byte) (rest : List (List Byte)) (off : Nat), s.On ∧ (s.dev.f hbDomBind_BIND n = 1 ∨ s.dev.f hbDomBind_BIND n = 2) ∧ ((s.dev.coeDom n).reqs = m :: rest) ∧ (s.dev.coeDom n).run = none ∧ (s.dev.coeDom n).next = some (beAt m 4 2) ∧ (((s.dev.coeDom n).replay.find? fun e => e.1 == beAt m 4 2) = none) ∧ beAt m 1 1 = 3 ∧ 12 ≤ (slice (m.drop 12) 0 (beAt m 6 2)).length ∧ coeArgs (slice (m.drop 12) 0 (beAt m 6 2)) = (off, 4, 1) ∧ (off % 4 = 0) ∧ s.dev.mayWrite n off = true ∧ farWindow n off = none) ∧
    (∃ (s : State) (n : Fin 16) (m : List Byte) (rest : List (List Byte)) (off : Nat) (w : Nat), s.On ∧ (s.dev.f hbDomBind_BIND n = 1 ∨ s.dev.f hbDomBind_BIND n = 2) ∧ ((s.dev.coeDom n).reqs = m :: rest) ∧ (s.dev.coeDom n).run = none ∧ (s.dev.coeDom n).next = some (beAt m 4 2) ∧ (((s.dev.coeDom n).replay.find? fun e => e.1 == beAt m 4 2) = none) ∧ beAt m 1 1 = 3 ∧ 12 ≤ (slice (m.drop 12) 0 (beAt m 6 2)).length ∧ coeArgs (slice (m.drop 12) 0 (beAt m 6 2)) = (off, 4, 1) ∧ (off % 4 = 0) ∧ s.dev.mayWrite n off = true ∧ farWindow n off = some w ∧ s.dev.farDown w = false ∧ (s.dev.farQueue w).length < 32) ∧
    (∃ (s : State) (n : Fin 16) (m : List Byte) (rest : List (List Byte)) (off : Nat) (w : Nat), s.On ∧ (s.dev.f hbDomBind_BIND n = 1 ∨ s.dev.f hbDomBind_BIND n = 2) ∧ ((s.dev.coeDom n).reqs = m :: rest) ∧ (s.dev.coeDom n).run = none ∧ (s.dev.coeDom n).next = some (beAt m 4 2) ∧ (((s.dev.coeDom n).replay.find? fun e => e.1 == beAt m 4 2) = none) ∧ beAt m 1 1 = 3 ∧ 12 ≤ (slice (m.drop 12) 0 (beAt m 6 2)).length ∧ coeArgs (slice (m.drop 12) 0 (beAt m 6 2)) = (off, 4, 1) ∧ (off % 4 = 0) ∧ s.dev.mayWrite n off = true ∧ farWindow n off = some w ∧ s.dev.farDown w = false ∧ 32 ≤ (s.dev.farQueue w).length) ∧
    (∃ (s : State) (n : Fin 16) (m : List Byte) (rest : List (List Byte)) (off : Nat) (w : Nat), s.On ∧ (s.dev.f hbDomBind_BIND n = 1 ∨ s.dev.f hbDomBind_BIND n = 2) ∧ ((s.dev.coeDom n).reqs = m :: rest) ∧ (s.dev.coeDom n).run = none ∧ (s.dev.coeDom n).next = some (beAt m 4 2) ∧ (((s.dev.coeDom n).replay.find? fun e => e.1 == beAt m 4 2) = none) ∧ beAt m 1 1 = 3 ∧ 12 ≤ (slice (m.drop 12) 0 (beAt m 6 2)).length ∧ coeArgs (slice (m.drop 12) 0 (beAt m 6 2)) = (off, 4, 1) ∧ (off % 4 = 0) ∧ s.dev.mayWrite n off = true ∧ farWindow n off = some w ∧ s.dev.farDown w = true) :=
  ⟨⟨(witCoe 7 4 ([1, 2, 3]) : State), (8 : Fin 16), ([1, 7, 8, 0] ++ beBytes 2 4 ++ beBytes 2 ([1, 2, 3]).length ++ [0, 0, 0, 0] ++ ([1, 2, 3]) : List Byte), ([] : List (List Byte)), by rfl, by decide +kernel⟩,
   ⟨(witCoe 1 9 ([1, 2, 3]) : State), (8 : Fin 16), ([1, 1, 8, 0] ++ beBytes 2 9 ++ beBytes 2 ([1, 2, 3]).length ++ [0, 0, 0, 0] ++ ([1, 2, 3]) : List Byte), ([] : List (List Byte)), (4 : Nat), by rfl, by decide +kernel⟩,
   ⟨(witCoe 1 3 ([1, 2, 3]) fun d => d.setCoe 8 { d.coeDom 8 with replay := [(3, 2, 0, 0, [9])] } : State), (8 : Fin 16), ([1, 1, 8, 0] ++ beBytes 2 3 ++ beBytes 2 ([1, 2, 3]).length ++ [0, 0, 0, 0] ++ ([1, 2, 3]) : List Byte), ([] : List (List Byte)), (4 : Nat), (3 : Nat), (2 : Nat), (0 : Nat), (0 : Nat), ([9] : List Byte), by rfl, by decide +kernel⟩,
   ⟨(witCoe 7 4 ([1, 2, 3]) : State), (8 : Fin 16), ([1, 7, 8, 0] ++ beBytes 2 4 ++ beBytes 2 ([1, 2, 3]).length ++ [0, 0, 0, 0] ++ ([1, 2, 3]) : List Byte), ([] : List (List Byte)), by rfl, by decide +kernel⟩,
   ⟨(witCoe 1 4 ([0, 0, 0, 0x20, 4, 1, 0, 0]) witPerm8 : State), (8 : Fin 16), ([1, 1, 8, 0] ++ beBytes 2 4 ++ beBytes 2 ([0, 0, 0, 0x20, 4, 1, 0, 0]).length ++ [0, 0, 0, 0] ++ ([0, 0, 0, 0x20, 4, 1, 0, 0]) : List Byte), ([] : List (List Byte)), (0x20 : Nat), by rfl, by decide +kernel⟩,
   ⟨(witCoe 3 4 ([0, 0, 0x30, 0, 4, 1, 0, 0, 7, 0, 0, 0]) witPerm8 : State), (8 : Fin 16), ([1, 3, 8, 0] ++ beBytes 2 4 ++ beBytes 2 ([0, 0, 0x30, 0, 4, 1, 0, 0, 7, 0, 0, 0]).length ++ [0, 0, 0, 0] ++ ([0, 0, 0x30, 0, 4, 1, 0, 0, 7, 0, 0, 0]) : List Byte), ([] : List (List Byte)), (0x3000 : Nat), by rfl, by decide +kernel⟩,
   ⟨(witCoe 3 4 ([0, 0x44, 0, 0, 4, 1, 0, 0, 7, 0, 0, 0]) fun d => (witPerm8 d).sf bwLinkStatus_UP 3 1 : State), (8 : Fin 16), ([1, 3, 8, 0] ++ beBytes 2 4 ++ beBytes 2 ([0, 0x44, 0, 0, 4, 1, 0, 0, 7, 0, 0, 0]).length ++ [0, 0, 0, 0] ++ ([0, 0x44, 0, 0, 4, 1, 0, 0, 7, 0, 0, 0]) : List Byte), ([] : List (List Byte)), (0x440000 : Nat), (3 : Nat), by rfl, by decide +kernel⟩,
   ⟨(witCoe 3 4 ([0, 0x44, 0, 0, 4, 1, 0, 0, 7, 0, 0, 0]) fun d => ((witPerm8 d).sf bwLinkStatus_UP 3 1).setFarQueue 3 (List.replicate 32 ⟨8, 3, 0x440000, 9, .posted, false⟩) : State), (8 : Fin 16), ([1, 3, 8, 0] ++ beBytes 2 4 ++ beBytes 2 ([0, 0x44, 0, 0, 4, 1, 0, 0, 7, 0, 0, 0]).length ++ [0, 0, 0, 0] ++ ([0, 0x44, 0, 0, 4, 1, 0, 0, 7, 0, 0, 0]) : List Byte), ([] : List (List Byte)), (0x440000 : Nat), (3 : Nat), by rfl, by decide +kernel⟩,
   ⟨(witCoe 3 4 ([0, 0x44, 0, 0, 4, 1, 0, 0, 7, 0, 0, 0]) fun d => (witPerm8 d).sf bwLinkStatus_UP 3 0 : State), (8 : Fin 16), ([1, 3, 8, 0] ++ beBytes 2 4 ++ beBytes 2 ([0, 0x44, 0, 0, 4, 1, 0, 0, 7, 0, 0, 0]).length ++ [0, 0, 0, 0] ++ ([0, 0x44, 0, 0, 4, 1, 0, 0, 7, 0, 0, 0]) : List Byte), ([] : List (List Byte)), (0x440000 : Nat), (3 : Nat), by rfl, by decide +kernel⟩⟩

/-- The hypotheses of Pairs are met, clause by clause (part 1). -/
theorem test_hyps_Pairs_1 :
    (∃ (s : State) (k : Fin 33), s.On ∧ s.dev.lockstep k = false) ∧
    (∃ (s : State) (k : Fin 33), s.On ∧ s.dev.f lsPair_STATE k = pairPaired) ∧
    (∃ (s : State) (k : Fin 33), s.On ∧ s.dev.f lsPair_STATE k = pairPaired ∧ k < 32 ∧ (s.dev.ops = []) ∧ s.dev.ep.txn = none) ∧
    (∃ (s : State) (k : Fin 33), s.On ∧ s.dev.f lsPair_STATE k = pairPaired ∧ k = 32 ∧ s.dev.f lsPair_BUSY k = 0 ∧ s.dev.reaction fcMcLockstep ≠ 2 ∧ s.dev.ep.txn = none) ∧
    (∃ (s : State) (k : Fin 33) (init : Initiator), s.On ∧ s.dev.may init .lsPair k = true ∧ s.dev.f lsPair_BUSY k = 1) ∧
    (∃ (s : State) (k : Fin 33) (init : Initiator), s.On ∧ s.dev.may init .lsPair k = true ∧ k = 32 ∧ init ≠ 16) ∧
    (∃ (s : State) (k : Fin 33) (init : Initiator), s.On ∧ s.dev.may init .lsPair k = true ∧ k = 32 ∧ init ≠ 16 ∧ s.dev.f lsPair_STATE k = pairSplit) ∧
    (∃ (s : State) (k : Fin 33) (init : Initiator), s.On ∧ s.dev.may init .lsPair k = true ∧ s.dev.f lsPair_BUSY k = 0 ∧ k = 32 ∧ init ≠ 16 ∧ s.dev.f lsPair_STATE k ≠ pairSplit ∧ (s.dev.f lsPair_STATE k ≠ pairFaulted ∨ init ≠ 0)) ∧
    (∃ (s : State) (k : Fin 33) (init : Initiator), s.On ∧ s.dev.pairOpen init k = true ∧ s.dev.f lsPair_STATE k = pairSplit ∧ s.dev.joinable k = true) :=
  ⟨⟨(witPair 3 0 : State), (3 : Fin 33), by rfl, by decide +kernel⟩,
   ⟨(witPair 3 1 : State), (3 : Fin 33), by rfl, by decide +kernel⟩,
   ⟨(witPair 3 1 : State), (3 : Fin 33), by rfl, by decide +kernel⟩,
   ⟨(witPair 32 1 fun d => d.sf lsFaultCfg_REACTION 1 0 : State), (32 : Fin 33), by rfl, by decide +kernel⟩,
   ⟨(wit fun d => d.sf lsPair_BUSY 3 1 : State), (3 : Fin 33), (16 : Initiator), by rfl, by decide +kernel⟩,
   ⟨(witPair 32 1 : State), (32 : Fin 33), (0 : Initiator), by rfl, by decide +kernel⟩,
   ⟨(witPair 32 0 : State), (32 : Fin 33), (0 : Initiator), by rfl, by decide +kernel⟩,
   ⟨(witPair 32 1 : State), (32 : Fin 33), (0 : Initiator), by rfl, by decide +kernel⟩,
   ⟨(witPair 3 0 fun d => (d.sf unitState_STATE (uEng 6) 2).sf unitState_STATE (uEng 7) 2 : State), (3 : Fin 33), (0 : Initiator), by rfl, by decide +kernel⟩⟩

/-- The hypotheses of Pairs are met, clause by clause (part 2). -/
theorem test_hyps_Pairs_2 :
    (∃ (s : State) (k : Fin 33) (init : Initiator), s.On ∧ s.dev.pairOpen init k = true ∧ s.dev.f lsPair_STATE k ≠ pairFaulted ∧ (s.dev.f lsPair_STATE k ≠ pairSplit ∨ s.dev.joinable k = false)) ∧
    (∃ (s : State) (k : Fin 33) (init : Initiator), s.On ∧ s.dev.may init .lsPair k = true ∧ s.dev.f lsPair_BUSY k = 0 ∧ (k ≠ 32 ∨ init = 16 ∨ init = 0) ∧ s.dev.f lsPair_STATE k = pairFaulted) ∧
    (∃ (s : State) (k : Fin 33) (init : Initiator), s.On ∧ s.dev.pairOpen init k = true ∧ s.dev.f lsPair_STATE k = pairPaired ∧ (s.dev.inSepia = false ∨ k.val ≠ s.dev.f lsSepiaCfg_PAIR 0)) ∧
    (∃ (s : State) (k : Fin 33) (init : Initiator), s.On ∧ s.dev.pairOpen init k = true ∧ (s.dev.f lsPair_STATE k ≠ pairPaired ∨ (s.dev.inSepia = true ∧ k.val = s.dev.f lsSepiaCfg_PAIR 0))) ∧
    (∃ (s : State) (k : Fin 33), s.On ∧ s.dev.f lsPair_STATE k ≠ pairHandover ∧ s.dev.noHaltWaits k = true) ∧
    (∃ (s : State) (k : Fin 33), s.On ∧ s.dev.f lsPair_STATE k = pairHandover ∧ s.dev.noHaltWaits k = true ∧ s.dev.handoverReady k = true ∧ s.dev.handoverOf k = 1) ∧
    (∃ (s : State) (k : Fin 33), s.On ∧ s.dev.f lsPair_STATE k = pairHandover ∧ s.dev.noHaltWaits k = true ∧ s.dev.handoverReady k = true ∧ s.dev.handoverOf k = 2) ∧
    (∃ (s : State) (k : Fin 33), s.On ∧ s.dev.f lsPair_STATE k = pairHandover ∧ s.dev.noHaltWaits k = true ∧ s.dev.handoverReady k = true ∧ s.dev.handoverOf k = 2 ∧ s.dev.f lsPair_BUSY k = 1) ∧
    (∃ (s : State) (k : Fin 33), s.On ∧ s.dev.f lsPair_STATE k = pairHandover ∧ k < 32 ∧ (((List.range 4).all fun t => (s.dev.thr (2 * k) t).st == .idle && (s.dev.thr (2 * k + 1) t).st == .idle) = true)) :=
  ⟨⟨(witPair 3 1 : State), (3 : Fin 33), (0 : Initiator), by rfl, by decide +kernel⟩,
   ⟨(witPair 3 3 : State), (3 : Fin 33), (0 : Initiator), by rfl, by decide +kernel⟩,
   ⟨(witPair 3 1 : State), (3 : Fin 33), (0 : Initiator), by rfl, by decide +kernel⟩,
   ⟨(witPair 3 0 : State), (3 : Fin 33), (0 : Initiator), by rfl, by decide +kernel⟩,
   ⟨(witPair 3 0 : State), (3 : Fin 33), by rfl, by decide +kernel⟩,
   ⟨(witPair 3 2 fun d => (d.setHandover 3 1).sf lsPair_BUSY 3 1 : State), (3 : Fin 33), by rfl, by decide +kernel⟩,
   ⟨(witPair 3 2 fun d => (d.setHandover 3 2).sf lsPair_BUSY 3 1 : State), (3 : Fin 33), by rfl, by decide +kernel⟩,
   ⟨(witPair 3 2 fun d => (d.setHandover 3 2).sf lsPair_BUSY 3 1 : State), (3 : Fin 33), by rfl, by decide +kernel⟩,
   ⟨(witPair 3 2 : State), (3 : Fin 33), by rfl, by decide +kernel⟩⟩

/-- The hypotheses of FaultsSepiaAndMonitors are met, clause by clause (part 1). -/
theorem test_hyps_FaultsSepiaAndMonitors_1 :
    (∃ (s : State), s.On) ∧
    (∃ (s : State), s.On ∧ s.dev.safe.levels.contains (fcRefclk, 0) = true) ∧
    (∃ (s : State), s.On ∧ s.dev.safe.levels.contains (fcRefclk, 0) = false ∧ s.dev.reaction fcRefclk ≠ 2) ∧
    (∃ (s : State) (init : Initiator), s.On ∧ s.dev.may init .lsSepiaCtl 0 = true ∧ init ≠ 0 ∧ init ≠ 16) ∧
    (∃ (s : State) (init : Initiator), s.On ∧ ((init = 0 ∨ init = 16)) ∧ s.dev.inSepia = true) ∧
    (∃ (s : State) (init : Initiator), s.On ∧ ((init = 0 ∨ init = 16)) ∧ s.dev.inSepia = false) ∧
    (∃ (s : State) (init : Initiator), s.On ∧ s.dev.may init .lsSepiaCtl 0 = true ∧ (init ≠ 0 ∨ s.dev.sepiaHeld = true)) :=
  ⟨⟨(wit fun d => d.wr .evDomStatus 19 0xFF : State), by rfl⟩,
   ⟨(wit fun d => { d with safe := { d.safe with levels := [(8, 0)] } } : State), by rfl, by decide +kernel⟩,
   ⟨(wit fun d => d.sf lsFaultCfg_REACTION 8 0 : State), by rfl, by decide +kernel⟩,
   ⟨(wit witPerm : State), (5 : Initiator), by rfl, by decide +kernel⟩,
   ⟨(wit fun d => d.sf lsSepiaCtl_IN_SEPIA 0 1 : State), (0 : Initiator), by rfl, by decide +kernel⟩,
   ⟨(State.reset : State), (0 : Initiator), by rfl, by decide +kernel⟩,
   ⟨(State.reset : State), (16 : Initiator), by rfl, by decide +kernel⟩⟩

/-- The hypotheses of FaultsSepiaAndMonitors are met, clause by clause (part 2). -/
theorem test_hyps_FaultsSepiaAndMonitors_2 :
    (∃ (s : State), s.On ∧ s.dev.sepiaHeld = false ∧ s.dev.inSepia = false) ∧
    (∃ (s : State), s.On ∧ s.dev.sepiaHeld = false ∧ s.dev.inSepia = true) ∧
    (∃ (s : State) (m : Fin 64), s.On ∧ (s.dev.f monCfg_EN m = 0 ∨ (s.dev.f monCfg_SOURCE m ≠ 4 ∧ s.dev.f monCfg_SOURCE m ≠ 5))) ∧
    (∃ (s : State) (m : Fin 64), s.On ∧ s.dev.f monCfg_EN m = 1 ∧ (s.dev.f monCfg_SOURCE m = 4 ∨ s.dev.f monCfg_SOURCE m = 5)) ∧
    (∃ (s : State) (init : Initiator), s.On ∧ s.dev.may init .evSwRaise 0 = true ∧ init ≠ 0 ∧ init ≠ 16) ∧
    (∃ (s : State) (init : Initiator), s.On ∧ ((init = 0 ∨ init = 16))) :=
  ⟨⟨(State.reset : State), by rfl, by decide +kernel⟩,
   ⟨(wit fun d => d.sf lsSepiaCtl_IN_SEPIA 0 1 : State), by rfl, by decide +kernel⟩,
   ⟨(State.reset : State), (3 : Fin 64), by rfl, by decide +kernel⟩,
   ⟨(wit fun d => ((d.sf monCfg_EN 3 1).sf monCfg_SOURCE 3 4).sf monScale_WIDTH 3 2 : State), (3 : Fin 64), by rfl, by decide +kernel⟩,
   ⟨(wit witPerm : State), (5 : Initiator), by rfl, by decide +kernel⟩,
   ⟨(wit fun d => d.wr .evDetail 9 7 : State), (0 : Initiator), by rfl, by decide +kernel⟩⟩

/-- The hypotheses of MailboxCommands are met, clause by clause (part 1). -/
theorem test_hyps_MailboxCommands_1 :
    (∃ (s : State) (n : Fin 16), s.On ∧ s.dev.f mgMboxStatus_BUSY n = 0 ∧ s.dev.f mgMboxStatus_BUSY 0 = 0) ∧
    (∃ (s : State) (n : Fin 16), s.On ∧ s.dev.mboxRuns n 1 = true) ∧
    (∃ (s : State) (n : Fin 16), s.On ∧ s.dev.mboxRuns n 2 = true ∧ s.dev.dmaGo n = true ∧ (s.dev.lifecycleByte = none ∨ s.dev.mbLen n < 100)) ∧
    (∃ (s : State) (n : Fin 16), s.On ∧ s.dev.mboxRuns n 2 = true ∧ s.dev.dmaGo n = true ∧ s.dev.lifecycleByte ≠ none) ∧
    (∃ (s : State) (n : Fin 16) (k : Nat), s.On ∧ s.dev.mboxRuns n 3 = true ∧ s.dev.dmaGo n = true ∧ (k = min (s.dev.f mgLogSeq_NEXT 0 - s.dev.mbArg n) (s.dev.mbLen n / 32))) ∧
    (∃ (s : State) (data : Option (List Byte)), s.On ∧ s.dev.mboxRuns 0 4 = true ∧ s.dev.dmaGo 0 = true ∧ s.dev.mbWaits = false ∧ (65536 < s.dev.f mgMboxLen_LEN 0 ∨ data = none)) ∧
    (∃ (s : State), s.On ∧ s.dev.mboxRuns 0 4 = true ∧ s.dev.dmaGo 0 = true ∧ s.dev.mbWaits = false ∧ s.dev.f mgMboxLen_LEN 0 ≤ 65536 ∧ s.dev.vcoreHas 150 = true) ∧
    (∃ (s : State), s.On ∧ s.dev.mboxRuns 0 4 = true ∧ s.dev.dmaGo 0 = true ∧ s.dev.mbWaits = false ∧ s.dev.f mgMboxLen_LEN 0 ≤ 65536 ∧ s.dev.paBudget 0 < 150) ∧
    (∃ (s : State), s.On ∧ s.dev.mboxRuns 0 5 = true ∧ s.dev.mbWaits = false ∧ s.dev.vcoreHas 150 = true) :=
  ⟨⟨(State.reset : State), (3 : Fin 16), by rfl, by decide +kernel⟩,
   ⟨(witMbox 3 1 fun d => d.wr .mgSlotVerA 2 77 : State), (3 : Fin 16), by rfl, by decide +kernel⟩,
   ⟨(witMbox 3 2 fun d => bindOn 3 (d.sf mgMboxLen_LEN 3 9) : State), (3 : Fin 16), by rfl, by decide +kernel⟩,
   ⟨(witAttest : State), (3 : Fin 16), by rfl, by decide +kernel⟩,
   ⟨(witMbox 3 3 fun d => bindOn 3 (((d.sf mgLogSeq_NEXT 0 4).sf mgLogStatus_UNFLUSHED 0 4).sf mgMboxLen_LEN 3 70) : State), (3 : Fin 16), (2 : Nat), by rfl, by decide +kernel⟩,
   ⟨(witMbox 0 4 (bindOn 0) : State), (none : Option (List Byte)), by rfl, by decide +kernel⟩,
   ⟨(witMbox 0 4 fun d => ((bindOn 0 d).sf mgMboxLen_LEN 0 2).sf mdPaBudget_BUDGET_MW 1 5000 : State), by rfl, by decide +kernel⟩,
   ⟨(witMbox 0 4 fun d => (bindOn 0 d).sf mdPaBudget_BUDGET_MW 1 0 : State), by rfl, by decide +kernel⟩,
   ⟨(witMbox 0 5 fun d => (d.sf mgMboxArg_ARG 0 2).sf mdPaBudget_BUDGET_MW 1 5000 : State), by rfl, by decide +kernel⟩⟩

/-- The hypotheses of MailboxCommands are met, clause by clause (part 2). -/
theorem test_hyps_MailboxCommands_2 :
    (∃ (s : State), s.On ∧ s.dev.mbWaits = false ∧ s.dev.paBudget 0 < 150) ∧
    (∃ (s : State), s.On ∧ s.dev.mboxRuns 0 6 = true ∧ s.dev.mbWaits = false ∧ (s.dev.f mgSlotState_TRIAL (s.dev.f mgMboxArg_ARG 0 % 16) = 0)) ∧
    (∃ (s : State), s.On ∧ s.dev.mboxRuns 0 6 = true ∧ s.dev.mbWaits = false ∧ (s.dev.f mgSlotState_TRIAL (s.dev.f mgMboxArg_ARG 0 % 16) = 1) ∧ s.dev.vcoreHas 150 = true) ∧
    (∃ (s : State), s.On ∧ s.dev.mboxRuns 0 7 = true ∧ s.dev.mbWaits = false) ∧
    (∃ (s : State), s.On ∧ s.dev.mboxRuns 0 7 = true ∧ s.dev.mbWaits = false ∧ s.dev.vcoreHas 350 = true) ∧
    (∃ (s : State), s.On ∧ s.dev.f mgMboxLen_LEN 0 ≠ 0 ∧ s.dev.dmaGo 0 = true ∧ s.dev.mbWaits = false) ∧
    (∃ (s : State), s.On ∧ s.dev.mboxRuns 0 8 = true ∧ s.dev.dmaGo 0 = true ∧ s.dev.mbWaits = false) ∧
    (∃ (s : State) (b : List Byte) (c : List Byte), s.On ∧ s.dev.mboxRuns 0 8 = true ∧ s.dev.dmaGo 0 = true ∧ s.dev.mbWaits = false ∧ c = b.take (s.dev.f mgMboxLen_LEN 0) ∧ jrTarget c = 2 ∧ s.dev.lifecycle ≤ 1 ∧ s.dev.vcoreHas 350 = true) ∧
    (∃ (s : State), s.On ∧ s.dev.mboxRuns 0 9 = true ∧ s.dev.mbWaits = false ∧ s.dev.f mgMboxLen_LEN 0 = 0 ∧ s.dev.lifecycle ≤ 1 ∧ (2 ≤ (s.dev.f mgMboxArg_ARG 0 % 8)) ∧ ((s.dev.f mgMboxArg_ARG 0 % 8) ≤ 5) ∧ (s.dev.f mgKeySet_REVOKED ((s.dev.f mgMboxArg_ARG 0 % 8) - 2) = 0) ∧ (s.dev.f mgKeySet_PROGRAMMED ((s.dev.f mgMboxArg_ARG 0 % 8) - 2) = 0) ∧ s.dev.vcoreHas 350 = true) :=
  ⟨⟨(witMbox 0 6 fun d => (d.sf mgSlotState_TRIAL 0 1).sf mdPaBudget_BUDGET_MW 1 0 : State), by rfl, by decide +kernel⟩,
   ⟨(witMbox 0 6 : State), by rfl, by decide +kernel⟩,
   ⟨(witMbox 0 6 fun d => ((d.sf mgSlotState_TRIAL 0 1).sf mgSlotState_BOOTED_B 0 1).sf mdPaBudget_BUDGET_MW 1 5000 : State), by rfl, by decide +kernel⟩,
   ⟨(witMbox 0 7 : State), by rfl, by decide +kernel⟩,
   ⟨(witMbox 0 7 fun d => d.sf mdPaBudget_BUDGET_MW 1 5000 : State), by rfl, by decide +kernel⟩,
   ⟨(witMbox 0 8 fun d => (bindOn 0 d).sf mgMboxLen_LEN 0 5 : State), by rfl, by decide +kernel⟩,
   ⟨(witMbox 0 8 (bindOn 0) : State), by rfl, by decide +kernel⟩,
   ⟨(witMbox 0 8 fun d => ((bindOn 0 d).sf mgMboxLen_LEN 0 40).sf mdPaBudget_BUDGET_MW 1 5000 : State), (List.replicate 28 0 ++ [2, 0, 0, 0] : List Byte), (List.replicate 28 0 ++ [2, 0, 0, 0] : List Byte), by rfl, by decide +kernel⟩,
   ⟨(witMbox 0 9 fun d => (d.sf mgMboxArg_ARG 0 3).sf mdPaBudget_BUDGET_MW 1 5000 : State), by rfl, by decide +kernel⟩⟩

/-- The hypotheses of MailboxCommands are met, clause by clause (part 3). -/
theorem test_hyps_MailboxCommands_3 :
    (∃ (s : State), s.On ∧ s.dev.mboxRuns 0 9 = true ∧ s.dev.mbWaits = false ∧ s.dev.f mgMboxLen_LEN 0 = 0 ∧ (1 < s.dev.lifecycle ∨ (s.dev.f mgMboxArg_ARG 0 % 8) < 2 ∨ 5 < (s.dev.f mgMboxArg_ARG 0 % 8))) ∧
    (∃ (s : State), s.On ∧ s.dev.mboxRuns 0 7 = true ∧ s.dev.mbWaits = false ∧ s.dev.paBudget 0 < 350) ∧
    (∃ (s : State), s.On ∧ s.dev.mboxRuns 0 9 = true ∧ s.dev.mbWaits = false ∧ s.dev.f mgMboxLen_LEN 0 = 0 ∧ s.dev.lifecycle ≤ 1 ∧ (2 ≤ (s.dev.f mgMboxArg_ARG 0 % 8)) ∧ ((s.dev.f mgMboxArg_ARG 0 % 8) ≤ 5) ∧ (s.dev.f mgKeySet_REVOKED ((s.dev.f mgMboxArg_ARG 0 % 8) - 2) = 0) ∧ (s.dev.f mgKeySet_PROGRAMMED ((s.dev.f mgMboxArg_ARG 0 % 8) - 2) = 0) ∧ s.dev.paBudget 0 < 350) ∧
    (∃ (s : State) (n : Fin 16), s.On ∧ n.val ≠ 0 ∧ s.dev.dmaGo n = true) ∧
    (∃ (s : State), s.On ∧ s.dev.mbWaits = true) ∧
    (∃ (s : State) (n : Fin 16), s.On ∧ s.dev.dmaGo n = false) ∧
    (∃ (s : State), s.On ∧ s.dev.dmaGo 0 = false ∧ s.dev.f mgMboxLen_LEN 0 ≠ 0) ∧
    (∃ (s : State), s.On ∧ s.dev.mboxRuns 0 10 = true ∧ s.dev.mbArg 0 = 0xB007) ∧
    (∃ (s : State), s.On ∧ s.dev.mboxRuns 0 10 = true ∧ s.dev.mbArg 0 ≠ 0xB007) :=
  ⟨⟨(witMbox 0 9 : State), by rfl, by decide +kernel⟩,
   ⟨(witMbox 0 7 fun d => d.sf mdPaBudget_BUDGET_MW 1 0 : State), by rfl, by decide +kernel⟩,
   ⟨(witMbox 0 9 fun d => (d.sf mgMboxArg_ARG 0 3).sf mdPaBudget_BUDGET_MW 1 0 : State), by rfl, by decide +kernel⟩,
   ⟨(witMbox 3 8 (bindOn 3) : State), (3 : Fin 16), by rfl, by decide +kernel⟩,
   ⟨(witMbox 0 5 fun d => { bindOn 0 d with mg := { d.mg with flashOps := [.commit 2] } } : State), by rfl, by decide +kernel⟩,
   ⟨(witMbox 3 2 : State), (3 : Fin 16), by rfl, by decide +kernel⟩,
   ⟨(witMbox 0 9 fun d => d.sf mgMboxLen_LEN 0 40 : State), by rfl, by decide +kernel⟩,
   ⟨(witMbox 0 10 fun d => d.sf mgMboxArg_ARG 0 0xB007 : State), by rfl, by decide +kernel⟩,
   ⟨(witMbox 0 10 : State), by rfl, by decide +kernel⟩⟩

/-- The hypotheses of StartsHashesSensorsAndLog are met, clause by clause (part 1). -/
theorem test_hyps_StartsHashesSensorsAndLog_1 :
    (∃ (s : State), s.On ∧ (s.dev.mg.good = false ∨ s.dev.mg.restarted = false ∧ (s.dev.mg.booted = true ∨ s.dev.f mgBootStatus_RECOVERY 0 = 1))) ∧
    (∃ (s : State) (x : BootInput), s.On ∧ s.dev.mg.good = true ∧ s.dev.mg.restarted = false ∧ s.dev.mg.booted = false ∧ s.dev.f mgBootStatus_RECOVERY 0 = 0 ∧ s.dev.lifecycle = 0 ∧ s.dev.mg.fuse = none ∧ s.dev.mg.rootWait = none ∧ (s.dev.mg.flashOps = []) ∧ x.entropy = true ∧ s.dev.cx.drbg = true ∧ s.dev.vcoreHas 350 = true) ∧
    (∃ (s : State) (x : BootInput), s.On ∧ s.dev.mg.good = true ∧ s.dev.mg.restarted = false ∧ s.dev.mg.booted = false ∧ s.dev.f mgBootStatus_RECOVERY 0 = 0 ∧ s.dev.lifecycle = 0 ∧ s.dev.mg.fuse = none ∧ s.dev.mg.rootWait = none ∧ (s.dev.mg.flashOps = []) ∧ x.entropy = true ∧ s.dev.cx.drbg = false) ∧
    (∃ (s : State) (x : BootInput), s.On ∧ s.dev.mg.good = true ∧ s.dev.mg.restarted = false ∧ s.dev.mg.booted = false ∧ s.dev.f mgBootStatus_RECOVERY 0 = 0 ∧ s.dev.lifecycle ≠ 0 ∧ (s.dev.mg.straps.recovery = true ∨ ((s.dev.bootCounted.rootCheck.bootTable x).fwHalf x).1 = none)) ∧
    (∃ (s : State), s.On ∧ s.dev.mg.good = true ∧ s.dev.mg.restarted = false ∧ s.dev.mg.booted = false ∧ s.dev.f mgBootStatus_RECOVERY 0 = 0 ∧ s.dev.lifecycle ≠ 0 ∧ s.dev.mg.straps.recovery = false) ∧
    (∃ (s : State) (init : Initiator), s.On ∧ s.dev.may init .mgHashCtl 0 = true ∧ init ≠ 16) ∧
    (∃ (s : State), s.On ∧ s.dev.f mgHashCtl_BUSY 0 = 0) ∧
    (∃ (s : State), s.On ∧ s.dev.f mgHashCtl_BUSY 0 = 1) ∧
    (∃ (s : State), s.On ∧ s.dev.mg.hash = none) ∧
    (∃ (s : State) (alg : Nat) (src : Nat) (len : Nat), s.On ∧ s.dev.mg.hash = some (alg, src, len)) :=
  ⟨⟨(witRecov : State), by rfl, by decide +kernel⟩,
   ⟨(wit fun d => let d := (d.sf mgLifecycle_STATE 0 0).sf mdPaBudget_BUDGET_MW 1 5000; { d with cx := { d.cx with drbg := true }, mg := { d.mg with good := true } } : State), (witBoot : BootInput), by rfl, by decide +kernel⟩,
   ⟨(wit fun d => { (d.sf mgLifecycle_STATE 0 0) with cx := { d.cx with drbg := false }, mg := { d.mg with good := true } } : State), (witBoot : BootInput), by rfl, by decide +kernel⟩,
   ⟨(wit fun d => { (d.sf mgLifecycle_STATE 0 1) with mg := { d.mg with good := true, straps := { d.mg.straps with recovery := true } } } : State), (witBoot : BootInput), by rfl, by decide +kernel⟩,
   ⟨(wit fun d => { d.sf mgLifecycle_STATE 0 1 with mg := { d.mg with good := true } } : State), by rfl, by decide +kernel⟩,
   ⟨(State.reset : State), (0 : Initiator), by rfl, by decide +kernel⟩,
   ⟨(State.reset : State), by rfl, by decide +kernel⟩,
   ⟨(wit fun d => d.sf mgHashCtl_BUSY 0 1 : State), by rfl, by decide +kernel⟩,
   ⟨(State.reset : State), by rfl, by decide +kernel⟩,
   ⟨(wit fun d => { d with mg := { d.mg with hash := some (0, 0, 3) } } : State), (0 : Nat), (0 : Nat), (3 : Nat), by rfl, by decide +kernel⟩⟩

/-- The hypotheses of StartsHashesSensorsAndLog are met, clause by clause (part 2). -/
theorem test_hyps_StartsHashesSensorsAndLog_2 :
    (∃ (s : State), s.On) ∧
    (∃ (s : State) (init : Initiator), s.On ∧ s.dev.may init .mgLogGo 0 = true ∧ init ≠ 16) ∧
    (∃ (s : State), s.On ∧ s.dev.f mgLogStatus_UNFLUSHED 0 < 8192 ∧ s.dev.mg.lost = 0 ∧ (s.dev.f mgLogSeq_NEXT 0 < 2 ^ 32 - 1)) ∧
    (∃ (s : State), s.On ∧ s.dev.f mgLogStatus_UNFLUSHED 0 < 4095 ∧ s.dev.mg.lost = 0) ∧
    (∃ (s : State), s.On ∧ 4095 ≤ s.dev.f mgLogStatus_UNFLUSHED 0 ∧ s.dev.f mgLogStatus_UNFLUSHED 0 < 8192 ∧ s.dev.mg.lost = 0 ∧ s.dev.mg.booted = true ∧ s.dev.mg.flashOps.contains .log = false ∧ s.dev.vcoreHas 150 = true) ∧
    (∃ (s : State), s.On ∧ s.dev.f mgLogStatus_UNFLUSHED 0 + 2 ≤ 8192 ∧ 0 < s.dev.mg.lost ∧ (s.dev.f mgLogSeq_NEXT 0 < 2 ^ 32 - 2)) ∧
    (∃ (s : State), s.On ∧ 8192 ≤ s.dev.f mgLogStatus_UNFLUSHED 0) ∧
    (∃ (s : State), s.On ∧ s.dev.mg.booted = false) ∧
    (∃ (s : State), s.On ∧ s.dev.mg.booted = true ∧ s.dev.vcoreHas 150 = true) :=
  ⟨⟨(State.reset : State), by rfl⟩,
   ⟨(State.reset : State), (0 : Initiator), by rfl, by decide +kernel⟩,
   ⟨(State.reset : State), by rfl, by decide +kernel⟩,
   ⟨(State.reset : State), by rfl, by decide +kernel⟩,
   ⟨(wit fun d => { ((d.sf mdPaBudget_BUDGET_MW 1 5000).sf mgLogStatus_UNFLUSHED 0 4095) with mg := { d.mg with booted := true } } : State), by rfl, by decide +kernel⟩,
   ⟨(wit fun d => { d with mg := { d.mg with lost := 3 } } : State), by rfl, by decide +kernel⟩,
   ⟨(wit fun d => d.sf mgLogStatus_UNFLUSHED 0 8192 : State), by rfl, by decide +kernel⟩,
   ⟨(State.reset : State), by rfl, by decide +kernel⟩,
   ⟨(wit fun d => { (d.sf mdPaBudget_BUDGET_MW 1 5000) with mg := { d.mg with booted := true } } : State), by rfl, by decide +kernel⟩⟩

/-- The hypotheses of RecoveryTransfers are met, clause by clause (part 1). -/
theorem test_hyps_RecoveryTransfers_1 :
    (∃ (s : State), s.On ∧ s.dev.f mgBootStatus_RECOVERY 0 = 0) ∧
    (∃ (s : State) (m : List Byte) (q : List Byte), s.On ∧ s.dev.f mgBootStatus_RECOVERY 0 = 1 ∧ (s.dev.f ethMacCfg_RX_EN 4 = 0 ∨ s.dev.f ethIntf_INTF 4 = 0) ∧ m.length = 6 ∧ q.length = 4 ∧ (s.dev.bus.bwHeld = []) ∧ (s.dev.bus.rxCut = []) ∧ (s.dev.bus.wakeCut = [])) ∧
    (∃ (s : State) (v : Word), s.On ∧ s.dev.f mgBootStatus_RECOVERY 0 = 1 ∧ s.dev.recovTaken = false ∧ (v.toNat / 65536 = 0 ∨ 128 < v.toNat / 65536)) ∧
    (∃ (s : State) (v : Word), s.On ∧ s.dev.f mgBootStatus_RECOVERY 0 = 1 ∧ s.dev.recovTaken = false ∧ (1 ≤ v.toNat / 65536) ∧ (v.toNat / 65536 ≤ 128) ∧ (v.toNat % 65536 * 32768 ≠ s.dev.mg.recovH0.length)) ∧
    (∃ (s : State) (v : Word), s.On ∧ s.dev.f mgBootStatus_RECOVERY 0 = 1 ∧ s.dev.recovTaken = false ∧ (1 ≤ v.toNat / 65536) ∧ (v.toNat / 65536 ≤ 128) ∧ (v.toNat % 65536 * 32768 = s.dev.mg.recovH0.length)) ∧
    (∃ (s : State), s.On ∧ s.dev.f mgBootStatus_RECOVERY 0 = 1 ∧ s.dev.recovTaken = false) ∧
    (∃ (s : State), s.On ∧ s.dev.f mgBootStatus_RECOVERY 0 = 1 ∧ s.dev.recovTaken = false ∧ s.dev.vcoreHas 150 = true) ∧
    (∃ (s : State) (y : RecovPeer), s.On ∧ s.dev.f mgBootStatus_RECOVERY 0 = 1 ∧ y.dst.toNat = 6976 ∧ s.dev.recovTaken = false ∧ (s.dev.mg.recovFrom = none ∨ s.dev.mg.recovFrom = some y)) ∧
    (∃ (s : State) (y : RecovPeer) (o : RecovPeer), s.On ∧ s.dev.f mgBootStatus_RECOVERY 0 = 1 ∧ y.dst.toNat = 6976 ∧ s.dev.recovTaken = false ∧ s.dev.mg.recovFrom = some o ∧ o ≠ y) :=
  ⟨⟨(State.reset : State), by rfl, by decide +kernel⟩,
   ⟨(witRecov : State), ([2, 1, 2, 3, 4, 5] : List Byte), ([169, 254, 0, 9] : List Byte), by rfl, by decide +kernel⟩,
   ⟨(witRecov : State), (5 : Word), by rfl, by decide +kernel⟩,
   ⟨(witRecov : State), (0x10005 : Word), by rfl, by decide +kernel⟩,
   ⟨(witRecov : State), (0x10000 : Word), by rfl, by decide +kernel⟩,
   ⟨(witRecov : State), by rfl, by decide +kernel⟩,
   ⟨(witRecov : State), by rfl, by decide +kernel⟩,
   ⟨(witRecov : State), (witPeer : RecovPeer), by rfl, by decide +kernel⟩,
   ⟨(witRecov fun d => { d with mg := { d.mg with recovFrom := some { witPeer with port := 5 } } } : State), (witPeer : RecovPeer), ({ witPeer with port := 5 } : RecovPeer), by rfl, by decide +kernel⟩⟩

/-- The hypotheses of RecoveryTransfers are met, clause by clause (part 2). -/
theorem test_hyps_RecoveryTransfers_2 :
    (∃ (s : State) (y : RecovPeer) (v : Word) (b : List Byte), s.On ∧ s.dev.f mgBootStatus_RECOVERY 0 = 1 ∧ y.dst.toNat = 6976 ∧ s.dev.recovTaken = false ∧ s.dev.mg.recovFrom = some y ∧ v.toNat * 1024 = s.dev.mg.recovE4.length ∧ (b ≠ []) ∧ b.length ≤ 1024) ∧
    (∃ (s : State) (y : RecovPeer) (v : Word), s.On ∧ s.dev.f mgBootStatus_RECOVERY 0 = 1 ∧ y.dst.toNat = 6976 ∧ s.dev.recovTaken = false ∧ s.dev.mg.recovFrom = some y ∧ v.toNat * 1024 < s.dev.mg.recovE4.length ∧ s.dev.mg.recovE4.length ≤ v.toNat * 1024 + 1024) ∧
    (∃ (s : State) (y : RecovPeer) (v : Word), s.On ∧ s.dev.f mgBootStatus_RECOVERY 0 = 1 ∧ s.dev.recovTaken = false ∧ (y.dst.toNat ≠ 6976 ∨ s.dev.mg.recovFrom ≠ some y ∨ s.dev.mg.recovE4.length < v.toNat * 1024 ∨ v.toNat * 1024 + 1024 < s.dev.mg.recovE4.length)) ∧
    (∃ (s : State) (y : RecovPeer), s.On ∧ y.dst.toNat ≠ 6976) ∧
    (∃ (s : State) (y : RecovPeer), s.On ∧ s.dev.f mgBootStatus_RECOVERY 0 = 1 ∧ y.dst.toNat = 6976 ∧ s.dev.recovTaken = false ∧ s.dev.mg.recovFrom = some y) ∧
    (∃ (s : State), s.On ∧ s.dev.f mgBootStatus_RECOVERY 0 = 1 ∧ s.dev.recovTaken = true) ∧
    (∃ (s : State) (y : RecovPeer), s.On ∧ s.dev.f mgBootStatus_RECOVERY 0 = 1 ∧ y.dst.toNat = 6976 ∧ s.dev.recovTaken = true ∧ s.dev.mg.recovFrom = some y) ∧
    (∃ (s : State), s.On ∧ s.dev.f mgBootStatus_RECOVERY 0 = 1) :=
  ⟨⟨(witRecov fun d => { d with mg := { d.mg with recovFrom := some witPeer } } : State), (witPeer : RecovPeer), (0 : Word), ([1, 2] : List Byte), by rfl, by decide +kernel⟩,
   ⟨(witRecov fun d => { d with mg := { d.mg with recovFrom := some witPeer, recovE4 := [1] } } : State), (witPeer : RecovPeer), (0 : Word), by rfl, by decide +kernel⟩,
   ⟨(witRecov : State), (witPeer : RecovPeer), (3 : Word), by rfl, by decide +kernel⟩,
   ⟨(witRecov : State), ({ witPeer with dst := 7 } : RecovPeer), by rfl, by decide +kernel⟩,
   ⟨(witRecov fun d => { d with mg := { d.mg with recovFrom := some witPeer } } : State), (witPeer : RecovPeer), by rfl, by decide +kernel⟩,
   ⟨(witRecov fun d => { (d.sf mgRecovStatus_BUSY 0 1) with mg := { d.mg with recovFrom := some witPeer, flashOps := [.install []] } } : State), by rfl, by decide +kernel⟩,
   ⟨(witRecov fun d => { (d.sf mgRecovStatus_BUSY 0 1) with mg := { d.mg with recovFrom := some witPeer, flashOps := [.install []] } } : State), (witPeer : RecovPeer), by rfl, by decide +kernel⟩,
   ⟨(witRecov fun d => { d with mg := { d.mg with recovFrom := some witPeer } } : State), by rfl, by decide +kernel⟩⟩

/-- The hypotheses of DarderSessions are met, clause by clause (part 1). -/
theorem test_hyps_DarderSessions_1 :
    (∃ (s : State) (q : DarderReq), s.On ∧ darderOk q = false) ∧
    (∃ (s : State) (q : DarderReq), s.On ∧ darderOk q = true ∧ (q.cmd.toNat = 0 ∨ 15 < q.cmd.toNat ∨ 1024 < q.payload.length)) ∧
    (∃ (s : State) (q : DarderReq), s.On ∧ darderOk q = true ∧ 1 ≤ q.cmd.toNat ∧ q.cmd.toNat ≤ 15 ∧ q.payload.length ≤ 1024) ∧
    (∃ (s : State), s.On ∧ 2 ≤ s.dev.lifecycle ∧ s.dev.f dbgLink_UNLOCKED 0 = 0 ∧ s.dev.f mgBootStatus_RECOVERY 0 = 0) ∧
    (∃ (s : State), s.On ∧ 2 ≤ s.dev.lifecycle ∧ s.dev.f dbgLink_UNLOCKED 0 = 1 ∧ s.dev.f dbgLink_GRANTS 0 = 0 ∧ s.dev.f mgBootStatus_RECOVERY 0 = 0) ∧
    (∃ (s : State), s.On ∧ s.dev.lifecycle = 3 ∧ s.dev.f dbgLink_UNLOCKED 0 = 0) ∧
    (∃ (s : State) (q : DarderReq), s.On ∧ dkAsks q 1 = true) ∧
    (∃ (s : State) (q : DarderReq), s.On ∧ dkAsks q 2 = true ∧ s.dev.lifecycle ≤ 2) ∧
    (∃ (s : State) (q : DarderReq), s.On ∧ dkAsks q 3 = true ∧ s.dev.lifecycle ≤ 2 ∧ (s.dev.unlockHeld q).mg.token.length ≠ tokenLen) ∧
    (∃ (s : State) (q : DarderReq), s.On ∧ dkAsks q 3 = true ∧ s.dev.lifecycle ≤ 2 ∧ (s.dev.unlockHeld q).mg.token.length = tokenLen) :=
  ⟨⟨(wit fun d => d.sf mgLifecycle_STATE 0 1 : State), (witReq 2 0 0 [] false : DarderReq), by rfl, by decide +kernel⟩,
   ⟨(wit fun d => d.sf mgLifecycle_STATE 0 1 : State), (witReq 2 (cmd := 16) : DarderReq), by rfl, by decide +kernel⟩,
   ⟨(wit fun d => d.sf mgLifecycle_STATE 0 1 : State), (witReq 2 (cmd := 15) : DarderReq), by rfl, by decide +kernel⟩,
   ⟨(wit fun d => d.sf mgLifecycle_STATE 0 2 : State), by rfl, by decide +kernel⟩,
   ⟨(wit fun d => ((d.sf mgLifecycle_STATE 0 2).sf dbgLink_UNLOCKED 0 1).sf dbgLink_GRANTS 0 0 : State), by rfl, by decide +kernel⟩,
   ⟨(wit fun d => d.sf mgLifecycle_STATE 0 3 : State), by rfl, by decide +kernel⟩,
   ⟨(wit fun d => d.sf mgLifecycle_STATE 0 1 : State), (witReq 2 (cmd := 1) : DarderReq), by rfl, by decide +kernel⟩,
   ⟨(wit fun d => { d with mg := { d.mg with token := [(1, 1)] } } : State), (witReq 2 (cmd := 2) : DarderReq), by rfl, by decide +kernel⟩,
   ⟨(wit fun d => d.sf mgLifecycle_STATE 0 1 : State), (witReq 255 0 4 [1, 2] (cmd := 3) : DarderReq), by rfl, by decide +kernel⟩,
   ⟨(wit fun d => { d with mg := { d.mg with token := (List.range 3435).map fun i => (i + 2, 257) } } : State), (witReq 255 0 0 [1, 2] (cmd := 3) : DarderReq), by rfl, by decide +kernel⟩⟩

/-- The hypotheses of DarderSessions are met, clause by clause (part 2). -/
theorem test_hyps_DarderSessions_2 :
    (∃ (s : State) (q : DarderReq), s.On ∧ dkAsks q 15 = true ∧ s.dev.lifecycle ≤ 2 ∧ q.target = 0xFF) ∧
    (∃ (s : State) (q : DarderReq), s.On ∧ dkAsks q 15 = true ∧ s.dev.lifecycle ≤ 2 ∧ reqEngine q = true) ∧
    (∃ (s : State) (q : DarderReq), s.On ∧ s.dev.dkOpen q = true ∧ dkAsks q 13 = true) ∧
    (∃ (s : State) (q : DarderReq), s.On ∧ dkAsks q 14 = true ∧ s.dev.f mgBootStatus_RECOVERY 0 = 0) ∧
    (∃ (s : State) (q : DarderReq), s.On ∧ dkAsks q 14 = true ∧ s.dev.f mgBootStatus_RECOVERY 0 = 1 ∧ s.dev.recovTaken = false) ∧
    (∃ (s : State) (q : DarderReq), s.On ∧ dkAsks q 14 = true ∧ s.dev.f mgBootStatus_RECOVERY 0 = 1 ∧ s.dev.recovTaken = true) ∧
    (∃ (s : State) (q : DarderReq), s.On ∧ dkAsks q 12 = true ∧ s.dev.recovStage q = true ∧ s.dev.recovTaken = true) ∧
    (∃ (s : State) (q : DarderReq), s.On ∧ dkAsks q 12 = true ∧ s.dev.recovStage q = true ∧ s.dev.recovTaken = false) ∧
    (∃ (s : State), s.On) :=
  ⟨⟨(wit fun d => d.sf mgLifecycle_STATE 0 1 : State), (witReq 255 (cmd := 15) : DarderReq), by rfl, by decide +kernel⟩,
   ⟨(wit fun d => d.sf mgLifecycle_STATE 0 1 : State), (witReq 2 (cmd := 15) : DarderReq), by rfl, by decide +kernel⟩,
   ⟨(wit fun d => d.sf mgLifecycle_STATE 0 1 : State), (witReq 2 (cmd := 13) : DarderReq), by rfl, by decide +kernel⟩,
   ⟨(wit fun d => d.sf mgLifecycle_STATE 0 1 : State), (witReq 2 (cmd := 14) : DarderReq), by rfl, by decide +kernel⟩,
   ⟨(witRecov : State), (witReq 64 0 5 (cmd := 14) : DarderReq), by rfl, by decide +kernel⟩,
   ⟨(witRecov fun d => d.sf mgRecovStatus_BUSY 0 1 : State), (witReq 64 (cmd := 14) : DarderReq), by rfl, by decide +kernel⟩,
   ⟨(witRecov fun d => d.sf mgRecovStatus_BUSY 0 1 : State), (witReq 64 0 0x100000 [1] (cmd := 12) : DarderReq), by rfl, by decide +kernel⟩,
   ⟨(witRecov : State), (witReq 64 0 0x100000 [1] (cmd := 12) : DarderReq), by rfl, by decide +kernel⟩,
   ⟨(wit fun d => d.sf dbgLink_UNLOCKED 0 1 : State), by rfl⟩⟩

/-- The hypotheses of DarderDebug are met, clause by clause (part 1). -/
theorem test_hyps_DarderDebug_1 :
    (∃ (s : State) (q : DarderReq), s.On ∧ s.dev.dkOpen q = true ∧ reqEngine q = false) ∧
    (∃ (s : State) (q : DarderReq), s.On ∧ s.dev.dkOpen q = true ∧ reqEngine q = true ∧ s.dev.isHalted q.target.toNat = false) ∧
    (∃ (s : State) (q : DarderReq), s.On ∧ s.dev.dkOpen q = true ∧ dkAsks q 4 = true ∧ reqEngine q = true ∧ s.dev.targetSplit q.target.toNat = true) ∧
    (∃ (s : State) (q : DarderReq), s.On ∧ s.dev.dkOpen q = true ∧ dkAsks q 4 = true ∧ q.target.toNat < 64 ∧ (s.dev.f lsPair_STATE (q.target.toNat / 2) = pairPaired)) ∧
    (∃ (s : State) (q : DarderReq), s.On ∧ s.dev.dkOpen q = true ∧ dkAsks q 4 = true ∧ q.target.toNat < 64 ∧ (s.dev.f lsPair_STATE (q.target.toNat / 2) = pairHandover)) ∧
    (∃ (s : State) (q : DarderReq), s.On ∧ dkAsks q 4 = true ∧ s.dev.lifecycle = 2 ∧ s.dev.f dbgLink_UNLOCKED 0 = 1 ∧ s.dev.f dbgLink_GRANTS 0 = 1 ∧ q.target.toNat < 64 ∧ (s.dev.f lsPair_STATE (q.target.toNat / 2) = pairPaired)) ∧
    (∃ (s : State) (q : DarderReq), s.On ∧ s.dev.dkOpen q = true ∧ dkAsks q 5 = true ∧ reqEngine q = true ∧ s.dev.isHalted q.target.toNat = true) ∧
    (∃ (s : State) (q : DarderReq), s.On ∧ s.dev.dkOpen q = true ∧ dkAsks q 6 = true ∧ reqEngine q = true ∧ s.dev.isHalted q.target.toNat = true) ∧
    (∃ (s : State) (q : DarderReq), s.On ∧ s.dev.dkOpen q = true ∧ dkAsks q 7 = true ∧ reqEngine q = true ∧ (q.sub.toNat / 16 < 4)) ∧
    (∃ (s : State) (q : DarderReq), s.On ∧ s.dev.dkOpen q = true ∧ dkAsks q 8 = true ∧ reqEngine q = true ∧ (q.sub.toNat / 16 < 2)) :=
  ⟨⟨(wit fun d => d.sf mgLifecycle_STATE 0 1 : State), (witReq 80 : DarderReq), by rfl, by decide +kernel⟩,
   ⟨(wit fun d => d.sf mgLifecycle_STATE 0 1 : State), (witReq 2 : DarderReq), by rfl, by decide +kernel⟩,
   ⟨(wit fun d => (d.sf mgLifecycle_STATE 0 1).sf lsPair_STATE 1 0 : State), (witReq 2 (cmd := 4) : DarderReq), by rfl, by decide +kernel⟩,
   ⟨(wit fun d => (d.sf mgLifecycle_STATE 0 1).sf lsPair_STATE 1 1 : State), (witReq 2 (cmd := 4) : DarderReq), by rfl, by decide +kernel⟩,
   ⟨(wit fun d => (d.sf mgLifecycle_STATE 0 1).sf lsPair_STATE 1 2 : State), (witReq 2 (cmd := 4) : DarderReq), by rfl, by decide +kernel⟩,
   ⟨(wit fun d => (((d.sf mgLifecycle_STATE 0 2).sf dbgLink_UNLOCKED 0 1).sf dbgLink_GRANTS 0 1).sf lsPair_STATE 1 1 : State), (witReq 2 (cmd := 4) : DarderReq), by rfl, by decide +kernel⟩,
   ⟨(witHalt : State), (witReq 2 (cmd := 5) : DarderReq), (by unfold State.On; decide +kernel), by decide +kernel⟩,
   ⟨(witHalt : State), (witReq 2 (cmd := 6) : DarderReq), (by unfold State.On; decide +kernel), by decide +kernel⟩,
   ⟨(wit fun d => d.sf mgLifecycle_STATE 0 1 : State), (witReq 2 0x10 0x40 [0, 0x80] (cmd := 7) : DarderReq), by rfl, by decide +kernel⟩,
   ⟨(wit fun d => d.sf mgLifecycle_STATE 0 1 : State), (witReq 2 0x10 0x40 [0, 0x80] (cmd := 8) : DarderReq), by rfl, by decide +kernel⟩⟩

/-- The hypotheses of DarderDebug are met, clause by clause (part 2). -/
theorem test_hyps_DarderDebug_2 :
    (∃ (s : State) (q : DarderReq), s.On ∧ s.dev.dkOpen q = true ∧ dkAsks q 7 = true ∧ reqEngine q = true ∧ (4 ≤ q.sub.toNat / 16)) ∧
    (∃ (s : State) (q : DarderReq), s.On ∧ s.dev.dkOpen q = true ∧ dkAsks q 8 = true ∧ reqEngine q = true ∧ (2 ≤ q.sub.toNat / 16)) ∧
    (∃ (s : State) (q : DarderReq), s.On ∧ s.dev.dkOpen q = true ∧ dkAsks q 9 = true ∧ reqEngine q = true ∧ s.dev.isHalted q.target.toNat = true ∧ q.addr.toNat < 0x20) ∧
    (∃ (s : State) (q : DarderReq), s.On ∧ s.dev.dkOpen q = true ∧ dkAsks q 10 = true ∧ reqEngine q = true ∧ s.dev.isHalted q.target.toNat = true ∧ q.addr.toNat < 0x20) ∧
    (∃ (s : State) (q : DarderReq), s.On ∧ s.dev.dkOpen q = true ∧ reqEngine q = true ∧ s.dev.isHalted q.target.toNat = true ∧ 0x41 ≤ q.addr.toNat ∧ q.addr.toNat < 0x100) ∧
    (∃ (s : State) (q : DarderReq), s.On ∧ s.dev.dkOpen q = true ∧ dkAsks q 11 = true ∧ q.target = 0xFF ∧ q.payload.length = 4 ∧ (q.addr.toNat % 4 = 0) ∧ (q.addr.toNat < 2 ^ 24 - 3)) ∧
    (∃ (s : State) (q : DarderReq), s.On ∧ s.dev.dkOpen q = true ∧ q.target = 0xFF ∧ q.payload.length = 4 ∧ (q.addr.toNat % 4 ≠ 0) ∧ s.dev.f mgBootStatus_RECOVERY 0 = 0) ∧
    (∃ (s : State) (q : DarderReq), s.On ∧ s.dev.dkOpen q = true ∧ dkAsks q 12 = true ∧ q.target = 0xFF ∧ q.payload.length = 4 ∧ (q.addr.toNat % 4 = 0) ∧ (q.addr.toNat < 2 ^ 24 - 3) ∧ s.dev.f mgBootStatus_RECOVERY 0 = 0 ∧ s.dev.dkPairRefused q.addr.toNat (leAt q.payload 0 4) = false ∧ farWindow 16 q.addr.toNat = none) ∧
    (∃ (s : State) (q : DarderReq) (w : Nat), s.On ∧ s.dev.dkOpen q = true ∧ dkAsks q 12 = true ∧ q.target = 0xFF ∧ q.payload.length = 4 ∧ (q.addr.toNat % 4 = 0) ∧ (q.addr.toNat < 2 ^ 24 - 3) ∧ s.dev.f mgBootStatus_RECOVERY 0 = 0 ∧ s.dev.dkPairRefused q.addr.toNat (leAt q.payload 0 4) = false ∧ farWindow 16 q.addr.toNat = some w ∧ s.dev.farDown w = false ∧ (s.dev.farQueue w).length < 32) ∧
    (∃ (s : State) (q : DarderReq) (w : Nat), s.On ∧ s.dev.dkOpen q = true ∧ dkAsks q 12 = true ∧ q.target = 0xFF ∧ q.payload.length = 4 ∧ (q.addr.toNat % 4 = 0) ∧ (q.addr.toNat < 2 ^ 24 - 3) ∧ s.dev.f mgBootStatus_RECOVERY 0 = 0 ∧ s.dev.dkPairRefused q.addr.toNat (leAt q.payload 0 4) = false ∧ farWindow 16 q.addr.toNat = some w ∧ s.dev.farDown w = false ∧ 32 ≤ (s.dev.farQueue w).length) :=
  ⟨⟨(wit fun d => d.sf mgLifecycle_STATE 0 1 : State), (witReq 2 0x50 (cmd := 7) : DarderReq), by rfl, by decide +kernel⟩,
   ⟨(wit fun d => d.sf mgLifecycle_STATE 0 1 : State), (witReq 2 0x50 (cmd := 8) : DarderReq), by rfl, by decide +kernel⟩,
   ⟨(witHalt : State), (witReq 2 1 5 (cmd := 9) : DarderReq), (by unfold State.On; decide +kernel), by decide +kernel⟩,
   ⟨(witHalt : State), (witReq 2 1 5 [1, 2, 3, 4, 5, 6, 7, 8] (cmd := 10) : DarderReq), (by unfold State.On; decide +kernel), by decide +kernel⟩,
   ⟨(witHalt : State), (witReq 2 1 0x50 [1] : DarderReq), (by unfold State.On; decide +kernel), by decide +kernel⟩,
   ⟨(wit fun d => d.sf mgLifecycle_STATE 0 1 : State), (witReq 255 0 0 [0, 0, 0, 0] (cmd := 11) : DarderReq), by rfl, by decide +kernel⟩,
   ⟨(wit fun d => d.sf mgLifecycle_STATE 0 1 : State), (witReq 255 0 2 [0, 0, 0, 0] : DarderReq), by rfl, by decide +kernel⟩,
   ⟨(wit fun d => d.sf mgLifecycle_STATE 0 1 : State), (witReq 255 0 0x3000 [9, 0, 0, 0] (cmd := 12) : DarderReq), by rfl, by decide +kernel⟩,
   ⟨(wit fun d => d.sf bwLinkStatus_UP 0 1 : State), (witReq 255 0 (BitVec.ofNat 32 ((regOff .ldWire 5).getD 0)) [9, 0, 0, 0] (cmd := 12) : DarderReq), (0 : Nat), by rfl, by decide +kernel⟩,
   ⟨(wit fun d => (d.sf bwLinkStatus_UP 0 1).setFarQueue 0 (List.replicate 32 { dom := 3, seq := 0, off := 0, value := 0 }) : State), (witReq 255 0 (BitVec.ofNat 32 ((regOff .ldWire 5).getD 0)) [9, 0, 0, 0] (cmd := 12) : DarderReq), (0 : Nat), by rfl, by decide +kernel⟩⟩

/-- The hypotheses of DarderDebug are met, clause by clause (part 3). -/
theorem test_hyps_DarderDebug_3 :
    (∃ (s : State) (q : DarderReq) (w : Nat), s.On ∧ s.dev.dkOpen q = true ∧ dkAsks q 12 = true ∧ q.target = 0xFF ∧ q.payload.length = 4 ∧ (q.addr.toNat % 4 = 0) ∧ (q.addr.toNat < 2 ^ 24 - 3) ∧ s.dev.f mgBootStatus_RECOVERY 0 = 0 ∧ s.dev.dkPairRefused q.addr.toNat (leAt q.payload 0 4) = false ∧ farWindow 16 q.addr.toNat = some w ∧ s.dev.farDown w = true) ∧
    (∃ (s : State) (q : DarderReq), s.On ∧ s.dev.dkOpen q = true ∧ dkAsks q 12 = true ∧ q.target = 0xFF ∧ q.payload.length = 4 ∧ (q.addr.toNat % 4 = 0) ∧ (q.addr.toNat < 2 ^ 24 - 3) ∧ s.dev.f mgBootStatus_RECOVERY 0 = 0 ∧ s.dev.dkPairRefused q.addr.toNat (leAt q.payload 0 4) = true) ∧
    (∃ (s : State) (q : DarderReq) (o : Nat), s.On ∧ s.dev.dkOpen q = true ∧ dkAsks q 12 = true ∧ reqEngine q = true ∧ s.dev.f mgBootStatus_RECOVERY 0 = 0 ∧ (q.payload ≠ []) ∧ s.dev.accessExc (reqHart q) q.addr.toNat q.payload.length true (dkRange q.payload.length) = 0 ∧ s.dev.place (reqHart q) q.addr.toNat = some (.sram, o)) ∧
    (∃ (s : State) (h : Hart), s.On ∧ (s.dev.safe.bkpt = [] ∨ ((s.dev.targetsOf h).any s.dev.mayHalt) = false)) ∧
    (∃ (s : State) (h : Hart) (i : Fin 4) (p : Nat), s.On ∧ (s.dev.safe.bkpt = [(targetOf h, i.val, (s.dev.rf h).pc.toNat, p)]) ∧ bitAt 15 p = true ∧ s.dev.mayHalt (targetOf h) = true ∧ s.dev.targetSplit (targetOf h) = true ∧ s.dev.isHalted (targetOf h) = false) ∧
    (∃ (s : State) (h : Hart), s.On ∧ (s.dev.safe.watch = [] ∨ ((s.dev.targetsOf h).any s.dev.mayHalt) = false)) ∧
    (∃ (s : State) (h : Hart) (i : Fin 2) (a : Nat) (p : Nat), s.On ∧ (s.dev.safe.watch = [(targetOf h, i.val, a, p)]) ∧ (((porrosWord h (s.dev.wordAtPc h) {}).bind (s.dev.instrAccess h)).any (watchCovers a p) = false)) ∧
    (∃ (s : State) (h : Hart) (i : Fin 2) (a : Nat) (p : Nat) (acc : Nat × Nat × Bool × Bool), s.On ∧ (s.dev.safe.watch = [(targetOf h, i.val, a, p)]) ∧ bitAt 15 p = true ∧ ((porrosWord h (s.dev.wordAtPc h) {}).bind (s.dev.instrAccess h) = some acc) ∧ watchCovers a p acc = true ∧ s.dev.mayHalt (targetOf h) = true ∧ s.dev.targetSplit (targetOf h) = true ∧ s.dev.isHalted (targetOf h) = false) :=
  ⟨⟨(wit fun d => d.sf bwLinkStatus_UP 0 0 : State), (witReq 255 0 (BitVec.ofNat 32 ((regOff .ldWire 5).getD 0)) [9, 0, 0, 0] (cmd := 12) : DarderReq), (0 : Nat), by rfl, by decide +kernel⟩,
   ⟨(wit fun d => d.sf mgLifecycle_STATE 0 1 : State), (witReq 255 0 (BitVec.ofNat 32 ((regOff .lsPair 32).getD 0)) [2, 0, 0, 0] (cmd := 12) : DarderReq), by rfl, by decide +kernel⟩,
   ⟨(wit fun d => d.sf mgLifecycle_STATE 0 1 : State), (witReq 64 0 0x40 [1, 2, 3, 4] (cmd := 12) : DarderReq), (0x40 : Nat), by rfl, by decide +kernel⟩,
   ⟨(wit fun d => d.sf mgLifecycle_STATE 0 1 : State), (.fe 2 1 : Hart), by rfl, by decide +kernel⟩,
   ⟨(wit fun d => { (d.sf lsPair_STATE 1 0) with safe := { d.safe with bkpt := [(2, 1, 0, 0x8000)] } } : State), (.fe 2 1 : Hart), (1 : Fin 4), (0x8000 : Nat), by rfl, by decide +kernel⟩,
   ⟨(wit fun d => d.sf mgLifecycle_STATE 0 1 : State), (.fe 2 1 : Hart), by rfl, by decide +kernel⟩,
   ⟨(wit fun d => { (d.sf lsPair_STATE 1 0) with safe := { d.safe with watch := [(2, 1, 9, 0x8300)] } } : State), (.fe 2 1 : Hart), (1 : Fin 2), (9 : Nat), (0x8300 : Nat), by rfl, by decide +kernel⟩,
   ⟨(wit fun d => { (d.sf lsPair_STATE 32 0) with eng := { d.eng with sram := memSet d.eng.sram 0 (leBytes 4 0x50000C00) }, safe := { d.safe with watch := [(64, 1, 5, 0x8100)] } }.setMc 0 { d.mcCore 0 with rf := { (d.mcCore 0).rf with pc := 0 } } : State), (.mc 0 : Hart), (1 : Fin 2), (5 : Nat), (0x8100 : Nat), ((0, 8, true, false) : Nat × Nat × Bool × Bool), by rfl, by decide +kernel⟩⟩

/-- The hypotheses of ResetsAndLinks are met, clause by clause (part 1). -/
theorem test_hyps_ResetsAndLinks_1 :
    (∃ (s : State), s.dev.mg.good = false) ∧
    (∃ (s : State), s.dev.mg.good = true) ∧
    (∃ (s : State), s.On) ∧
    (∃ (s : State), s.dev.mg.held = true) ∧
    (∃ (s : State) (x : BlMessage), s.On ∧ blGood x = false) ∧
    (∃ (s : State) (n : Fin 4) (x : BlMessage), s.On ∧ blGood x = true ∧ blSeen (s.dev.link n).expect x.seq.toNat = false ∧ ((s.dev.link n).waiting = []) ∧ (s.dev.link n).sent.length ≤ 16) ∧
    (∃ (s : State) (n : Fin 4) (x : BlMessage), s.On ∧ blGood x = true ∧ blSeen (s.dev.link n).expect x.seq.toNat = true) ∧
    (∃ (s : State) (n : Fin 4), s.On ∧ ((s.dev.link n).sent = [])) :=
  ⟨⟨(witHeld : State), by decide +kernel⟩,
   ⟨(wit fun d => { d with mg := { d.mg with good := true } } : State), by decide +kernel⟩,
   ⟨(wit fun d => d.sf bwLinkStatus_UP 2 1 : State), by rfl⟩,
   ⟨(witHeld : State), by decide +kernel⟩,
   ⟨(State.reset : State), ({ seq := 3, payload := [1, 2], crc := 0 } : BlMessage), by rfl, by decide +kernel⟩,
   ⟨(wit fun d => (d).setLink 2 { d.link 2 with sent := [⟨0, 2, 0⟩, ⟨1, 2, 0⟩, ⟨2, 2, 0⟩, ⟨3, 2, 0⟩] } : State), (2 : Fin 4), (witMessage : BlMessage), by rfl, by decide +kernel⟩,
   ⟨(wit fun d => (d).setLink 2 { d.link 2 with expect := 4, sent := [⟨0, 2, 0⟩], waiting := [⟨1, 2, 0⟩] } : State), (2 : Fin 4), (witMessage : BlMessage), by rfl, by decide +kernel⟩,
   ⟨(State.reset : State), (2 : Fin 4), by rfl, by decide +kernel⟩⟩

/-- The hypotheses of ResetsAndLinks are met, clause by clause (part 2). -/
theorem test_hyps_ResetsAndLinks_2 :
    (∃ (s : State) (n : Fin 4) (m : LinkMsg) (q : List LinkMsg), s.On ∧ ((s.dev.link n).sent = m :: q) ∧ (s.dev.link n).tries < 3) ∧
    (∃ (s : State) (n : Fin 4) (m : LinkMsg) (q : List LinkMsg), s.On ∧ ((s.dev.link n).sent = m :: q) ∧ 3 ≤ (s.dev.link n).tries ∧ (m.kind ≠ ordWrite ∨ (s.dev.farQueue n).all (fun x => farCarried x != m.value) = true)) ∧
    (∃ (s : State) (n : Fin 4) (m : LinkMsg) (q : List LinkMsg) (x : FarWrite) (f : List FarWrite), s.On ∧ ((s.dev.link n).sent = m :: q) ∧ 3 ≤ (s.dev.link n).tries ∧ m.kind = ordWrite ∧ (s.dev.farQueue n = x :: f) ∧ farCarried x = m.value ∧ s.dev.farLatched n x = false) ∧
    (∃ (s : State) (n : Fin 4), s.On ∧ s.dev.f bwLinkStatus_UP n = 1 ∧ (s.dev.link n).sent.length < 16 ∧ ((s.dev.link n).waiting = [])) ∧
    (∃ (s : State) (n : Fin 4), s.On ∧ s.dev.f bwLinkStatus_UP n = 1 ∧ (s.dev.link n).sent.length = 16) ∧
    (∃ (s : State) (n : Fin 4), s.On ∧ s.dev.f bwLinkStatus_UP n = 0) ∧
    (∃ (s : State) (n : Fin 4), s.On ∧ s.dev.f bwLinkStatus_UP n = 1) :=
  ⟨⟨(wit fun d => (d).setLink 2 { d.link 2 with sent := [⟨0, 2, 9⟩] } : State), (2 : Fin 4), (⟨0, 2, 9⟩ : LinkMsg), ([] : List LinkMsg), by rfl, by decide +kernel⟩,
   ⟨(wit fun d => (d).setLink 2 { d.link 2 with sent := [⟨0, 2, 9⟩, ⟨1, 2, 9⟩], tries := 3 } : State), (2 : Fin 4), (⟨0, 2, 9⟩ : LinkMsg), ([⟨1, 2, 9⟩] : List LinkMsg), by rfl, by decide +kernel⟩,
   ⟨(wit fun d => (d.setLink 2 { d.link 2 with sent := [⟨0, ordWrite, farCarried witFarLost⟩], tries := 3 }).setFarQueue 2 [witFarLost] : State), (2 : Fin 4), (⟨0, ordWrite, farCarried witFarLost⟩ : LinkMsg), ([] : List LinkMsg), (witFarLost : FarWrite), ([] : List FarWrite), by rfl, by decide +kernel⟩,
   ⟨(wit fun d => d.sf bwLinkStatus_UP 2 1 : State), (2 : Fin 4), by rfl, by decide +kernel⟩,
   ⟨(wit fun d => (d.sf bwLinkStatus_UP 2 1).setLink 2 { d.link 2 with sent := List.replicate 16 ⟨1, 2, 0⟩ } : State), (2 : Fin 4), by rfl, by decide +kernel⟩,
   ⟨(wit fun d => { (d.sf bwLinkStatus_UP 2 0) with safe := { d.safe with levels := [(4, 2)] } } : State), (2 : Fin 4), by rfl, by decide +kernel⟩,
   ⟨(wit fun d => d.sf bwLinkStatus_UP 2 1 : State), (2 : Fin 4), by rfl, by decide +kernel⟩⟩

/-- The hypotheses of DeniedCommandsCount are met, clause by clause (part 1). -/
theorem test_hyps_DeniedCommandsCount_1 :
    (∃ (s : State) (init : Initiator) (n : Fin 1024) (w : Fin 4), s.On ∧ s.dev.may init (stageReg w) n = false) ∧
    (∃ (s : State) (init : Initiator), s.On ∧ s.dev.may init .epCmd 0 = false) ∧
    (∃ (s : State) (init : Initiator), s.On ∧ s.dev.may init .mdModeReq 0 = false) ∧
    (∃ (s : State) (init : Initiator), s.On ∧ s.dev.may init .feLoadCmd 0 = false) ∧
    (∃ (s : State) (init : Initiator) (n : Fin 96), s.On ∧ s.dev.may init .ldCtl n = false) ∧
    (∃ (s : State) (init : Initiator), s.On ∧ s.dev.may init .bwSleepCmd 0 = false) :=
  ⟨⟨(State.reset : State), (5 : Initiator), (5 : Fin 1024), (1 : Fin 4), by rfl, by decide +kernel⟩,
   ⟨(State.reset : State), (5 : Initiator), by rfl, by decide +kernel⟩,
   ⟨(State.reset : State), (5 : Initiator), by rfl, by decide +kernel⟩,
   ⟨(State.reset : State), (5 : Initiator), by rfl, by decide +kernel⟩,
   ⟨(State.reset : State), (5 : Initiator), (5 : Fin 96), by rfl, by decide +kernel⟩,
   ⟨(State.reset : State), (5 : Initiator), by rfl, by decide +kernel⟩⟩

/-- The hypotheses of DeniedCommandsCount are met, clause by clause (part 2). -/
theorem test_hyps_DeniedCommandsCount_2 :
    (∃ (s : State) (init : Initiator) (k : Fin 33), s.On ∧ s.dev.may init .lsPair k = false) ∧
    (∃ (s : State) (init : Initiator), s.On ∧ s.dev.may init .lsWdogKick 0 = false) ∧
    (∃ (s : State) (init : Initiator), s.On ∧ s.dev.may init .lsSepiaCtl 0 = false) ∧
    (∃ (s : State) (init : Initiator), s.On ∧ s.dev.may init .evSwRaise 0 = false) ∧
    (∃ (s : State) (init : Initiator), s.On ∧ s.dev.may init .mgHashCtl 0 = false) ∧
    (∃ (s : State) (init : Initiator), s.On ∧ s.dev.may init .mgLogGo 0 = false) :=
  ⟨⟨(State.reset : State), (5 : Initiator), (5 : Fin 33), by rfl, by decide +kernel⟩,
   ⟨(State.reset : State), (5 : Initiator), by rfl, by decide +kernel⟩,
   ⟨(State.reset : State), (5 : Initiator), by rfl, by decide +kernel⟩,
   ⟨(State.reset : State), (5 : Initiator), by rfl, by decide +kernel⟩,
   ⟨(State.reset : State), (5 : Initiator), by rfl, by decide +kernel⟩,
   ⟨(State.reset : State), (5 : Initiator), by rfl, by decide +kernel⟩⟩

/-- The hypotheses of HeldInResetIsKept are met, clause by clause. -/
theorem test_hyps_HeldInResetIsKept :
    ∃ (s : State) (t : State), s.HeldInReset ∧ step s = .next t :=
  ⟨(witHeld : State), (idleTick witHeld : State), (fun _ => by unfold Dev.logicAtReset; decide +kernel), rfl⟩

/-- The hypotheses of HeldLogicIgnoresCommands are met, clause by clause. -/
theorem test_hyps_HeldLogicIgnoresCommands :
    (∃ (c : Instr) (s : State), onHv c = false ∧ s.dev.mg.held = true) ∧
    (∃ (c : Instr) (s : State) (t : State), isPwrGood c = false ∧ exec c s = .next t) :=
  ⟨⟨(.commit 0 : Instr), (witHeld : State), by decide +kernel⟩,
   ⟨(.commit 0 : Instr), (witHeld : State), (witHeld : State), by decide +kernel, congrArg Host.Outcome.next (if_pos rfl)⟩⟩

/-- The hypotheses of CommandsWhileBusyAreCounted are met, clause by clause. -/
theorem test_hyps_CommandsWhileBusyAreCounted :
    (∃ (s : State) (u : Fin 349) (init : Initiator), s.On ∧ s.dev.may init .unitCmd u = true ∧ s.dev.f unitCmdStatus_BUSY u = 1 ∧ s.dev.watchQuiet = true) ∧
    (∃ (s : State) (u : Fin 349) (init : Initiator) (off : BitVec 24), s.On ∧ s.dev.may init .unitCmd u = true ∧ s.dev.f unitCmdStatus_BUSY u = 1 ∧ s.dev.watchQuiet = true ∧ regOff .unitCmd u = some off.toNat) :=
  ⟨⟨(witOp 25 2 1 : State), (25 : Fin 349), (0 : Initiator), by rfl, by decide +kernel⟩,
   ⟨(witOp 25 2 1 : State), (25 : Fin 349), (0 : Initiator), (BitVec.ofNat 24 ((regOff .unitCmd 25).getD 0) : BitVec 24), by rfl, by decide +kernel⟩⟩

/-- The hypotheses of WatchdogPeriods are met, clause by clause. -/
theorem test_hyps_WatchdogPeriods :
    (∃ (s : State) (init : Initiator), s.On ∧ s.dev.may init .lsWdogKick 0 = true ∧ init ≠ 16) ∧
    (∃ (s : State), s.On) ∧
    (∃ (s : State), s.On ∧ (s.dev.f lsWdogCfg_EN 0 = 0 ∨ s.dev.ns < s.dev.mg.wdogAt + s.dev.f lsWdogCfg_PERIOD_MS 0 * 1000000)) ∧
    (∃ (s : State), s.On ∧ s.dev.f lsWdogCfg_EN 0 = 1 ∧ s.dev.mg.wdogAt + s.dev.f lsWdogCfg_PERIOD_MS 0 * 1000000 ≤ s.dev.ns) :=
  ⟨⟨(State.reset : State), (0 : Initiator), by rfl, by decide +kernel⟩,
   ⟨(State.reset : State), by rfl⟩,
   ⟨(wit fun d => d.sf lsWdogCfg_EN 0 0 : State), by rfl, by decide +kernel⟩,
   ⟨(wit fun d => ((d.sf lsWdogCfg_EN 0 1).sf lsWdogCfg_PERIOD_MS 0 0).sf lsFaultCfg_REACTION 9 0 : State), by rfl, by decide +kernel⟩⟩

/-- The hypotheses of LossOfControlEnds are met, clause by clause. -/
theorem test_hyps_LossOfControlEnds :
    (∃ (s : State) (p : Fin 3), s.dev.load.down.contains p.val = false ∧ s.dev.f pdStatus_LOC p = 1) ∧
    (∃ (s : State) (p : Fin 3), s.dev.f pdStatus_LOC p = 0) ∧
    (∃ (s : State) (init : Initiator) (n : Fin 96), s.On ∧ s.dev.ldOpen init n = true) :=
  ⟨⟨(wit fun d => (d.sf pdStatus_LOC 0 1).wr .evDetail 139 5 : State), (0 : Fin 3), by decide +kernel⟩,
   ⟨(wit fun d => d.sf pdStatus_LOC 0 0 : State), (0 : Fin 3), by decide +kernel⟩,
   ⟨(witLoad 5 { loc := true } fun d => d.wr .pdGang 0 0 : State), (0 : Initiator), (5 : Fin 96), by rfl, by decide +kernel⟩⟩

/-- The hypotheses of CommandsComplete are met, clause by clause. -/
theorem test_hyps_CommandsComplete :
    ∃ (s : State), s.On :=
  ⟨(State.reset : State), by rfl⟩

/-- The hypotheses of DeviceCommandsComplete are met, clause by clause. -/
theorem test_hyps_DeviceCommandsComplete :
    ∃ (s : State), s.On :=
  ⟨(State.reset : State), by rfl⟩

/-! ### Well-formedness: an ill-formed operand for each check, and well-formed ones -/

def wfCan : CanRx := { kind := 1, flags := 0, ident := 5, data := [1, 2], sdt := 0, vcid := 0, af := 0, time := 0, begun := false }
def wfReq : DarderReq := { cmd := 12, tag := 0, target := 0, sub := 0, addr := 0, payload := [], crc := 0 }

theorem test_wf_can_kind : (Instr.canFrameReceived 0 { wfCan with kind := 0 }).wf = false := by decide
theorem test_wf_can_cc : (Instr.canFrameReceived 0 { wfCan with data := List.replicate 9 0 }).wf = false
    ∧ (Instr.canFrameReceived 0 { wfCan with ident := 2 ^ 29 }).wf = false := by decide
theorem test_wf_can_fd : (Instr.canFrameReceived 0 { wfCan with kind := 2, data := List.replicate 65 0 }).wf = false
    ∧ (Instr.canFrameReceived 0 { wfCan with kind := 2, ident := 2 ^ 29 }).wf = false := by decide
theorem test_wf_can_xl : (Instr.canFrameReceived 0 { wfCan with kind := 3, ident := 2 ^ 11 }).wf = false
    ∧ (Instr.canFrameReceived 0 { wfCan with kind := 3, data := [] }).wf = false
    ∧ (Instr.canFrameReceived 0 { wfCan with kind := 3, sdt := 256 }).wf = false
    ∧ (Instr.canFrameReceived 0 { wfCan with kind := 3, vcid := 256 }).wf = false
    ∧ (Instr.canFrameReceived 0 { wfCan with kind := 3, af := 2 ^ 32 }).wf = false
    ∧ (Instr.canFrameReceived 0 { wfCan with kind := 3 }).wf = true := by decide
theorem test_wf_lin : (Instr.linResponseReceived 0 ⟨64, [1], 0, 0, false, {}⟩).wf = false ∧ (Instr.linResponseReceived 0 ⟨3, [], 0, 0, false, {}⟩).wf = false
    ∧ (Instr.linResponseReceived 0 ⟨3, List.replicate 9 0, 0, 0, false, {}⟩).wf = false ∧ (Instr.linResponseReceived 0 ⟨3, [1], 4, 0, false, {}⟩).wf = false
    ∧ (Instr.linResponseReceived 0 ⟨3, [1], 3, 0, false, {}⟩).wf = true := by decide
theorem test_wf_host : (Instr.hostRead 0 ⟨false, 0, 0, true⟩).wf = false ∧ (Instr.hostWrite 0 ⟨false, 0, 0, true⟩ false 0).wf = false
    ∧ (Instr.hostRead 0 ⟨false, 0, 4, true⟩).wf = true := by decide
theorem test_wf_darder : (Instr.darderMemw { wfReq with payload := List.replicate 1025 0 }).wf = false
    ∧ (Instr.darderMemw wfReq).wf = true := by decide +kernel
theorem test_wf_boot : (Instr.bootStart { witBoot with table := ⟨0, 0, List.replicate 17 ⟨0, 0, 0, 0⟩⟩ }).wf = false
    ∧ (Instr.bootStart { witBoot with copy := ⟨0, 0, List.replicate 17 ⟨0, 0, 0, 0⟩⟩ }).wf = false
    ∧ (Instr.bootStart { witBoot with table := ⟨0, 0, List.replicate 16 ⟨0, 0, 0, 0⟩⟩ }).wf = true := by decide
theorem test_wf_lists : (Instr.paceWindow []).wf = false ∧ (Instr.wireModelUpdate 0 []).wf = false
    ∧ (Instr.sensorSample [] (List.replicate 16 0)).wf = false ∧ (Instr.sensorSample (List.replicate 24 0) []).wf = false
    ∧ (Instr.recovData ⟨0, 0, 0, 0⟩ 0 []).wf = false ∧ (Instr.rxDeliveryClaim 0 []).wf = false
    ∧ (Instr.txFrameCheck 0 []).wf = false := by decide
theorem test_wf_swf : (Instr.swfFrameDecoded 0 false false 2048 1 [7]).wf = false
    ∧ (Instr.swfFrameDecoded 0 false true 2048 1 []).wf = false
    ∧ (Instr.swfFrameDecoded 0 false true 2048 1 [7]).wf = true := by decide

/-! ### Worked examples from outside the model -/

/-- The ASCII digits 1 to 9. -/
def nineDigits : List Byte := [0x31, 0x32, 0x33, 0x34, 0x35, 0x36, 0x37, 0x38, 0x39]

/-- The check values that R135 gives with its CRCs. -/
theorem test_crc_checks : crcRange crc8 0xFF nineDigits ^^^ 0xFF = 0x4B ∧ crcRange crc8h 0xFF nineDigits ^^^ 0xFF = 0xDF
    ∧ crcRange crc16 0xFFFF nineDigits = 0x29B1 ∧ crcRange crc32 0xFFFFFFFF nineDigits ^^^ 0xFFFFFFFF = 0xCBF43926
    ∧ crcRange crc32c 0xFFFFFFFF nineDigits ^^^ 0xFFFFFFFF = 0xE3069283
    ∧ crcRange crc32p4 0xFFFFFFFF nineDigits ^^^ 0xFFFFFFFF = 0x1697D06A := by decide +kernel

/-- The first example of FIPS 197, appendix C. -/
theorem test_aes_fips197 :
    ofOctets (aesEncrypt (beOctets 16 0x000102030405060708090a0b0c0d0e0f) (beOctets 16 0x00112233445566778899aabbccddeeff))
      = 0x69c4e0d86a7b0430d8cdb78070b4c55a := by decide +kernel

/-- The digest of the three octets "abc" under SHA-256 (FIPS 180-4). -/
theorem test_sha256_abc : ofOctetsBe (sha256 [0x61, 0x62, 0x63])
    = 0xba7816bf8f01cfea414140de5dae2223b00361a396177a9cb410ff61f20015ad := by decide +kernel

/-- The first key pair of RFC 8032, section 7.1. -/
theorem test_ed25519_rfc8032 : edPublic (beOctets 32 0x9d61b19deffd5a60ba844af492ec2cc44449c5697b326919703bac031cae7f60)
    = beOctets 32 0xd75a980182b10ab7d54bfed3c964073a0ee172f3daa62325af021a68f707511a := by decide +kernel

/-- The example after R338: the step at raw 3,000,000,080 ns, and a frame stamped at 3,001,000,080 ns. -/
theorem test_domain_example :
    let old : DomSet := { anchor := 2000000000, off := 1700000100 * 10 ^ 9 * 2 ^ 32, inc := 0x2800000000 }
    let new : DomSet := { anchor := 3000000080, off := old.at 3000000080, inc := 0x280020C49C }
    old.at 3000000080 / 2 ^ 32 = 1700000101 * 10 ^ 9 + 80 ∧ old.at 2999999500 / 2 ^ 32 = 1700000100 * 10 ^ 9 + 999999500
      ∧ new.at 3001000080 / 2 ^ 32 = 1700000101 * 10 ^ 9 + 1000092 := by decide

/-- No word of the table spells a command. -/
theorem test_decode_none : ∀ n ∈ List.range 8, ∀ w ∈ List.range 8, decodeTableWord n w = none := by decide


end Sys2Proof.Tests
end

section
/-! ### How a command runs -/
namespace Sys2Proof.Machine
open Dev

/-- Every command is one change of the device, made under `State.always` on the HV side and under `State.logic` elsewhere. -/
theorem exec_eq_logic_or_always (c : Instr) (s : State) :
    ∃ f : Dev → Dev, exec c s = bif onHv c then s.always f else s.logic f := by
  unfold exec
  cases c <;> exact ⟨_, rfl⟩

theorem logic_completes (s : State) (f : Dev → Dev) : ∃ t, s.logic f = .next t ∧ t.pending = s.pending := by
  refine ⟨_, rfl, ?_⟩
  split <;> rfl

/-- Settles O2: a command of either side ends in `.next`, and neither side's frame touches the queue. -/
theorem everyCommandCompletes : Obligations.EveryCommandCompletes := by
  unfold Obligations.EveryCommandCompletes
  intro c s
  obtain ⟨f, hf⟩ := exec_eq_logic_or_always c s
  rw [hf]
  cases onHv c with
  | false => exact logic_completes s f
  | true => exact ⟨_, rfl, rfl⟩

/-- While PWR_GOOD is high, a command of the logic side leaves what its change makes of the device. -/
theorem runs_logic_iff {c : Instr} {s : State} {f : Dev → Dev} {P : Dev → Prop} (on : s.On) (hc : exec c s = s.logic f) :
    Runs c s P ↔ P (f s.dev).powered := by
  have e : s.logic f = .next { s with dev := (f s.dev).powered } := by
    rw [State.logic, if_neg (by rw [on]; decide)]
  rw [Runs, hc, e]
  constructor
  · rintro ⟨t, ht, -, hp⟩
    cases ht
    exact hp
  · exact fun hp => ⟨_, rfl, rfl, hp⟩

/-- The same where the change keeps the logic side out of reset, so that nothing is left for `powered` to do. -/
theorem runs_logic_of_held {c : Instr} {s : State} {f : Dev → Dev} {P : Dev → Prop} (on : s.On) (hc : exec c s = s.logic f)
    (held : (f s.dev).mg.held = s.dev.mg.held) (hp : P (f s.dev)) : Runs c s P := by
  rw [runs_logic_iff on hc, Within.powered _ (held.trans on)]
  exact hp

theorem exec_registerWrite (init : Initiator) (off : BitVec 24) (v : Word) (s : State) :
    exec (.registerWrite init off v) s = s.logic fun d => d.initWrite init off.toNat v.toNat := rfl

/-! ### Reset -/

theorem Reg.all_ctorIdx (r : Reg) : Reg.all[r.ctorIdx]? = some r := by cases r <;> rfl

/-- A register not listed reads its reset value. -/
theorem regDefault_regKey (r : Reg) (i : Nat) : regDefault (regKey r i) = regReset r i := by
  have lt := Reg.ctorIdx_lt r
  have hm : regKey r i % 1024 = r.ctorIdx := by simp only [regKey]; omega
  have hd : regKey r i / 1024 = i := by simp only [regKey]; omega
  rw [regDefault, hm, hd, Reg.all_ctorIdx]

/-- Settles O3: the reset state lists no register, counter or snapshot, so each reads its default. -/
theorem resetLeavesResetValues : Obligations.ResetLeavesResetValues := by
  unfold Obligations.ResetLeavesResetValues
  refine ⟨⟨rfl, reset_memory_wf, fun held => ?_⟩, fun r i => regDefault_regKey r i, fun c i => ⟨rfl, rfl⟩⟩
  exact absurd held (by decide)

/-! ### Counterexamples -/

/-- A CAN channel whose CanCtl holds RECOVER while its nominal bit timing is one outside R296. -/
def recoverUnderBadTiming : State := { dev := (({} : Dev).wr .canCtl 3 0x08000000).wr .canBtNom 3 0 }

/-- Refutes O5: a write of RECOVER that the CAN timing check turns away is discarded whole, so a RECOVER that the state holds
stays 1. -/
theorem not_fieldsStoreByAccessCode : ¬ Obligations.FieldsStoreByAccessCode := by
  unfold Obligations.FieldsStoreByAccessCode
  intro h
  have on : recoverUnderBadTiming.On := rfl
  obtain ⟨-, -, -, recover, -⟩ := h recoverUnderBadTiming 0 0x141860 0x08000000 on rfl
  have cleared := (runs_logic_iff on (exec_registerWrite ..)).1 (recover 3 (by decide +kernel) (by decide))
  exact absurd cleared (by decide +kernel)

/-- A change to mode 1 that waits for the regulator, with a previous target of 1024 mV, which CMD_MV's ten bits cannot hold. -/
def settlingFromWideTarget : State :=
  { dev := ({} : Dev).setEp { txn := some { kind := .mode 1 }, settling := true, prevMv := 1024 } }

/-- Refutes O11: the aborted change commands its previous target through CMD_MV, a field of ten bits, so that a target of 1024 mV
shows 0 and not itself modulo 2^16. -/
theorem not_modeChanges : ¬ Obligations.ModeChanges := by
  unfold Obligations.ModeChanges
  intro h
  have on : settlingFromWideTarget.On := rfl
  obtain ⟨-, -, -, -, -, abort, -⟩ := h settlingFromWideTarget on
  have aborted := abort { kind := .mode 1 } 1 rfl rfl rfl (by decide) rfl .regulatorFault (by simp)
  obtain ⟨-, -, -, -, cmdMv, -⟩ := (runs_logic_iff on rfl).1 aborted
  exact absurd cmdMv (by decide +kernel)

end Sys2Proof.Machine
end
section
/-! ### The address map: an offset and the register found there name each other (R49) -/
namespace Sys2Proof.Machine
open Dev

/-- `instOff` undoes `flatInst`: the offset of what is found at distance `x`, with the bytes left over, is `x`. -/
theorem instOff_flatInst {ds : List (Nat × Nat)} {acc x k b : Nat} (h : flatInst ds acc x = some (k, b)) :
    (instOff ds k).1 + b = x ∧ (instOff ds k).2 = acc := by
  induction ds generalizing acc x with
  | nil =>
    simp only [flatInst, Option.some.injEq, Prod.mk.injEq] at h
    simp [instOff, h]
  | cons e ds ih =>
    obtain ⟨st, n⟩ := e
    simp only [flatInst] at h
    split at h
    · next hn =>
      obtain ⟨h1, h2⟩ := ih h
      have dm := Nat.div_add_mod x st
      have digit : (acc * n + x / st) % n = x / st := by
        rw [Nat.mul_comm, Nat.mul_add_mod, Nat.mod_eq_of_lt hn]
      have outer : (acc * n + x / st) / n = acc := by
        rw [Nat.mul_comm, Nat.mul_add_div (by omega), Nat.div_eq_of_lt hn, Nat.add_zero]
      simp only [instOff, h2, digit, outer, and_true]
      omega
    · cases h

theorem foldl_mul_mono (ds : List (Nat × Nat)) {a b : Nat} (h : a ≤ b) :
    ds.foldl (fun a x => a * x.2) a ≤ ds.foldl (fun a x => a * x.2) b := by
  induction ds generalizing a b with
  | nil => exact h
  | cons e ds ih => exact ih (Nat.mul_le_mul_right _ h)

/-- The index found is one the layout has. -/
theorem flatInst_lt {ds : List (Nat × Nat)} {acc x k b : Nat} (h : flatInst ds acc x = some (k, b)) :
    k < ds.foldl (fun a x => a * x.2) (acc + 1) := by
  induction ds generalizing acc x with
  | nil =>
    simp only [flatInst, Option.some.injEq, Prod.mk.injEq] at h
    simp [← h.1]
  | cons e ds ih =>
    obtain ⟨st, n⟩ := e
    simp only [flatInst] at h
    split at h
    · next hn =>
      refine (ih h).trans_le (foldl_mul_mono ds ?_)
      dsimp only
      rw [Nat.add_mul]
      omega
    · cases h

theorem Place.off?_of_at? {ρ : Type} {p : Place ρ} {off i : Nat} (h : p.at? off = some (i, 0)) : p.off? i = some off := by
  unfold Place.at? at h
  split at h
  · cases h
  · next hb =>
    obtain ⟨⟨k, b⟩, hk, he⟩ := Option.map_eq_some_iff.1 h
    cases he
    have lt := flatInst_lt hk
    obtain ⟨ho, -⟩ := instOff_flatInst hk
    rw [Nat.zero_add] at lt
    rw [Place.off?, if_pos ⟨by omega, by simpa [instCount] using lt⟩]
    simp only [Nat.add_sub_cancel_left]
    congr 1
    omega

/-- Two places of one layout hold different instances, those of the later place the higher. -/
theorem regPlaces_apart : regPlaces.Pairwise fun p q => p.what = q.what → p.inst0 + instCount p.dims ≤ q.inst0 := by
  decide +kernel

theorem regPlaces_not_header : ∀ p ∈ regPlaces, hdrRegs.idxOf? p.what = none := by decide +kernel

theorem findSome?_place {r : Reg} {i off : Nat} {l : List (Place Reg)}
    (apart : l.Pairwise fun p q => p.what = q.what → p.inst0 + instCount p.dims ≤ q.inst0)
    {p : Place Reg} (hp : p ∈ l) (hr : p.what = r) (ho : p.off? i = some off) :
    l.findSome? (fun p => if p.what = r then p.off? i else none) = some off := by
  induction l with
  | nil => cases hp
  | cons q l ih =>
    rcases List.mem_cons.1 hp with rfl | hl
    · rw [List.findSome?_cons, if_pos hr, ho]
    · obtain ⟨far, apart⟩ := List.pairwise_cons.1 apart
      have no : (if q.what = r then q.off? i else none) = none := by
        split
        · next hq =>
          have := far p hl (hq.trans hr.symm)
          unfold Place.off? at ho ⊢
          split at ho
          · exact if_neg (by omega)
          · cases ho
        · rfl
      rw [List.findSome?_cons, no]
      exact ih apart hl

/-- The register found at an offset is of the unit header, or stands there in one of the blocks' places. -/
theorem regAt_cases {off i u : Nat} {r : Reg} (h : regAt off = some (r, i)) (hu : unitAt off = some u) :
    (r ∈ hdrRegs ∧ i = u) ∨ ∃ p ∈ regPlaces, p.what = r ∧ p.at? off = some (i, 0) := by
  simp only [regAt, hu] at h
  split at h
  · split at h
    · split at h
      · next hk =>
        cases h
        exact .inl ⟨List.mem_of_getElem? hk, rfl⟩
      · cases h
    · split at h
      · cases h
      · obtain ⟨p, hp, hv⟩ := List.exists_of_findSome?_eq_some h
        split at hv
        · next hat =>
          cases hv
          exact .inr ⟨p, hp, rfl, hat⟩
        · cases hv
  · cases h

/-- A register belongs to the unit of the offset at which it is found. -/
theorem regUnit_of_regAt {off i u : Nat} {r : Reg} (h : regAt off = some (r, i)) (hu : unitAt off = some u) :
    regUnit r i = some u := by
  rcases regAt_cases h hu with ⟨hh, rfl⟩ | ⟨p, hp, rfl, hat⟩
  · rw [regUnit, if_pos (List.contains_iff_mem.2 hh)]
  · have nh := regPlaces_not_header p hp
    have off : regOff p.what i = some off := by
      simp only [regOff, nh]
      exact findSome?_place regPlaces_apart hp rfl (Place.off?_of_at? hat)
    rw [regUnit, if_neg, off, Option.bind_some, hu]
    rw [List.contains_iff_mem, ← List.idxOf?_eq_none_iff]
    exact nh

theorem regAt_of_unitAt_none {off : Nat} (h : unitAt off = none) : regAt off = none := by
  simp only [regAt, h, ite_self]

end Sys2Proof.Machine
end
section
/-! ### Writes of registers (R25, R49, R436) -/
namespace Sys2Proof.Machine
open Dev

theorem mergeBits_full {old v : Nat} (hv : v < 2 ^ 32) : mergeBits old v (2 ^ 32 - 1) = v := by
  have hm : v &&& (2 ^ 32 - 1) = v := by rw [Nat.and_two_pow_sub_one_eq_mod, Nat.mod_eq_of_lt hv]
  rw [mergeBits, hm]
  simp

theorem mergeBits_none {old v : Nat} (ho : old < 2 ^ 32) : mergeBits old v 0 = old := by
  have hm : old &&& 0xFFFFFFFF = old := by
    rw [show 0xFFFFFFFF = 2 ^ 32 - 1 from rfl, Nat.and_two_pow_sub_one_eq_mod, Nat.mod_eq_of_lt ho]
  simp [mergeBits, hm]

namespace Dev

theorem initWrite_permitted {d : Dev} {init off : Nat} (h : d.mayWrite init off = true) (v : Nat) :
    d.initWrite init off v = d.busWrite init off v := if_pos h

theorem initWrite_denied {d : Dev} {init off : Nat} (h : d.mayWrite init off = false) (v : Nat) :
    d.initWrite init off v = d.denyWrite init off 4 v := if_neg (by simp [h])

/-- All but the two registers of recovery are written as any register is. -/
theorem busWrite_eq_regWrite {d : Dev} {off : Nat} (h : ∀ i, regAt off ≠ some (.mgRecovChunk, i))
    (h' : ∀ i, regAt off ≠ some (.mgRecovDone, i)) (init v : Nat) : d.busWrite init off v = d.regWrite init off v := by
  unfold busWrite
  split
  · exact absurd ‹_› (h _)
  · exact absurd ‹_› (h' _)
  · rfl

theorem regWrite_unmapped {d : Dev} {off : Nat} (h : unitAt off = none) (init v : Nat) :
    d.regWrite init off v = d.rejWr uId := by
  simp only [regWrite, regWriteM, h]

/-- A write that no page turns away reaches the register at its offset, or stops where nothing there can be written. -/
theorem regWrite_of_regAt {d : Dev} {init off u i : Nat} {r : Reg} (hu : unitAt off = some u) (hw : inWindow off = false)
    (hm : init = 16 ∨ mgClosed off = false) (hr : regAt off = some (r, i)) (hv : regRsv r i = false) (v : Nat) :
    d.regWrite init off v = if writable r then d.regPut false init u r i v (2 ^ 32 - 1) else d := by
  have open' : ¬ (init ≠ 16 ∧ mgClosed off = true) := by
    rintro ⟨h1, h2⟩
    rcases hm with h | h
    · exact h1 h
    · rw [h] at h2
      cases h2
  simp only [regWrite, regWriteM, hu, hw, Bool.false_eq_true, if_false, if_neg open', hr, hv]
  cases writable r <;> rfl

end Dev

/-! ### Registers of which every bit is RW -/

theorem writable_of_plain {r : Reg} (h : r ∈ plainRegs) : writable r = true := by
  revert r; decide

theorem plain_masks {r : Reg} (h : r ∈ plainRegs) : fieldMask r [.rw, .rwl] = 2 ^ 32 - 1 ∧ fieldMask r [.rwl] = 0
    ∧ fieldMask r [.w1c] = 0 := by
  revert r; decide

/-- Nothing acts on a write of a plain register, no value of it is turned away or replaced, and none of its bits is reserved. -/
theorem plain_rules {r : Reg} (h : r ∈ plainRegs) (d : Dev) (init u i v m : Nat) :
    d.regPut false init u r i v m = d.storeThen false r i v m id ∧ d.regCheck r i v = true ∧ regFix r v = v
      ∧ regBits r i = 2 ^ 32 - 1 := by
  fin_cases h <;> exact ⟨rfl, rfl, rfl, rfl⟩

/-- A write of a plain register stores the word. -/
theorem storeThen_plain {r : Reg} (h : r ∈ plainRegs) {i u : Nat} (hu : regUnit r i = some u) (d : Dev) (v : Word) :
    d.storeThen false r i v.toNat (2 ^ 32 - 1) id = d.wr r i v := by
  obtain ⟨rw', rwl, w1c⟩ := plain_masks h
  have bits : regBits r i = 2 ^ 32 - 1 := (plain_rules h d 0 0 i 0 0).2.2.2
  have pass : d.passMask r i u (2 ^ 32 - 1) = 2 ^ 32 - 1 := by
    simp [passMask, instMask, rwl]
  have taken : d.regTaken r i u v.toNat (2 ^ 32 - 1) = true := by
    rw [regTaken, (plain_rules h d 0 0 i _ 0).2.1, Bool.or_true]
  have merged : d.regMerge r i v.toNat (2 ^ 32 - 1) true = v.toNat := by
    simp only [regMerge, instMask, if_true, rw', w1c, bits, Nat.and_self, Nat.zero_and, mergeBits_full v.isLt,
      mergeBits_none v.isLt, (plain_rules h d 0 0 i _ 0).2.2.1]
  simp only [storeThen, hu, Bool.false_eq_true, if_false, taken, if_true, pass, merged, BitVec.ofNat_toNat,
    BitVec.setWidth_eq, id]

end Sys2Proof.Machine
end
section
/-! ### What an event leaves alone, and denied writes (R436) -/
namespace Sys2Proof.Machine
open Dev
namespace Dev

theorem evFoot_le {F : Foot} (h : F.events = true) : evFoot.le F :=
  ⟨fun r i x => by simp_all [Foot.hasReg, evFoot], fun c i x => by simp_all [Foot.hasCtr, evFoot],
    fun p x => by simp_all [Foot.hasPart, evFoot]⟩

/-- The registers an event can change, with those that a request for leave to flush the log shows. -/
def raiseRegs : List Reg := [.mdPaBudget, .mdPaWait] ++ eventRegs

/-- The counters an event can change. -/
def raiseCtrs : List Ctr := [.mdPaDenied, .mdPaDeferred, .mgLogLost]

/-- The parts an event can change. -/
def raiseParts : List Part := [.pa, .paNext, .mg] ++ eventParts

theorem rd_raise {r : Reg} (h : r ∉ raiseRegs) (d : Dev) (s inst info i : Nat) : (d.raise s inst info).rd r i = d.rd r i := by
  refine (only_raise d s inst info).reg r i fun x => h ?_
  unfold Foot.upTo at x
  split at x <;> simp_all [Foot.hasReg, evFoot, raiseRegs]

theorem ctr_raise {c : Ctr} (h : c ∉ raiseCtrs) (d : Dev) (s inst info i : Nat) :
    (d.raise s inst info).ctr c i = d.ctr c i := by
  refine (only_raise d s inst info).ctr c i fun x => h ?_
  unfold Foot.upTo at x
  split at x <;> simp_all [Foot.hasCtr, evFoot, raiseCtrs]

theorem part_raise {p : Part} (h : p ∉ raiseParts) (d : Dev) (s inst info : Nat) : p.same d (d.raise s inst info) := by
  refine (only_raise d s inst info).part p fun x => h ?_
  unfold Foot.upTo at x
  split at x <;> simp_all [Foot.hasPart, evFoot, raiseParts]

/-- Raising an event changes nothing outside a footprint that raises events. -/
theorem only_raise_of_events {F : Foot} (h : F.events = true) (d : Dev) (s inst info : Nat) :
    d.Only (d.raise s inst info) F := (only_raise d s inst info).mono (evFoot_le h) fun _ => h

/-- What a denied write of initiator `n` changes, of any register but UnitCmd and HbDomBind. -/
def denyFoot (n : Nat) : Foot :=
  { regs := [(.hbAccErrRec, n), (.hbAccErrBytes, n)], ctrs := [(.hbDenyWr, n)], events := true }

theorem within_accRecord (d : Dev) (n : Nat) (write view : Bool) (cause off size : Nat) {F : Foot}
    (h : F.hasReg .hbAccErrRec n) (h' : F.hasReg .hbAccErrBytes n) :
    d.Within (d.accRecord n write view cause off size).2 F := by
  unfold accRecord
  split
  · exact .refl d F
  · exact (Within.wr d h _).trans (Within.wr _ h' _)

@[simp] theorem ctr_accRecord (d : Dev) (n : Nat) (write view : Bool) (cause off size : Nat) (c : Ctr) (i : Nat) :
    (d.accRecord n write view cause off size).2.ctr c i = d.ctr c i := by
  unfold accRecord
  split
  · rfl
  · simp only [Dev.ctr, wr_ctrs]

/-- A denied write counts and is recorded while no record is held; a record made raises its event. -/
theorem accDenied_write {d : Dev} {off : Nat} (h : ∀ i, regAt off ≠ some (.hbDomBind, i)) (n size : Nat) :
    d.accDenied n true off size =
      if ((d.inc .hbDenyWr n).accRecord n true false 2 off size).1
      then ((d.inc .hbDenyWr n).accRecord n true false 2 off size).2.raise 22 n 2
      else ((d.inc .hbDenyWr n).accRecord n true false 2 off size).2 := by
  simp only [accDenied, if_true]
  split
  all_goals
    next recorded =>
      split at recorded
      · exact absurd ‹_› (h _)
      · simp [recorded]

theorem only_accDenied_write {d : Dev} {off : Nat} (h : ∀ i, regAt off ≠ some (.hbDomBind, i)) (n size : Nat) :
    d.Only (d.accDenied n true off size) (denyFoot n) := by
  have counted : d.Within (d.inc .hbDenyWr n) (denyFoot n) := Within.inc d (.inl (by simp [denyFoot]))
  have recorded := within_accRecord (d.inc .hbDenyWr n) n true false 2 off size (F := denyFoot n)
    (.inl (by simp [denyFoot])) (.inl (by simp [denyFoot]))
  rw [accDenied_write h]
  split
  · exact (counted.trans recorded).thenOnly (only_raise_of_events rfl _ _ _ _)
  · exact (counted.trans recorded).only

theorem ctr_accDenied_write {d : Dev} {off : Nat} (h : ∀ i, regAt off ≠ some (.hbDomBind, i)) (n size : Nat) :
    (d.accDenied n true off size).ctr .hbDenyWr n = d.ctr .hbDenyWr n + 1 := by
  have recorded := ctr_accRecord (d.inc .hbDenyWr n) n true false 2 off size .hbDenyWr n
  rw [ctr_inc_same] at recorded
  rw [accDenied_write h]
  split
  · rw [ctr_raise (by decide), recorded]
  · exact recorded

/-- A denied write of anything but UnitCmd is no command that could end. -/
theorem denyWrite_eq_accDenied {off : Nat} (h : ∀ u, regAt off ≠ some (.unitCmd, u)) (d : Dev) (n size v : Nat) :
    d.denyWrite n off size v = d.accDenied n true off size := by
  unfold denyWrite
  dsimp only
  split
  · exact absurd ‹_› (h _)
  · rfl

end Dev

theorem regAt_ne_of_map_ne {off : Nat} {r : Reg} (h : (regAt off).map (·.1) ≠ some r) (i : Nat) :
    regAt off ≠ some (r, i) := fun e => h (by rw [e]; rfl)

theorem Dev.Only.powered {a b : Dev} {F : Foot} (h : a.Only b F) (ha : a.mg.held = false) : a.Only b.powered F := by
  have up : F.upTo b.powered = F.upTo b := rfl
  refine only_iff.2 ⟨fun r i n => ?_, fun c i n => ?_, fun p n => ?_⟩
  · exact h.reg r i (up ▸ n)
  · exact h.ctr c i (up ▸ n)
  · have k := h.part p (up ▸ n)
    cases p
    case mg =>
      simp only [Part.same, Dev.powered] at k ⊢
      rw [Mgmt.mk.injEq] at k ⊢
      simp_all
    all_goals exact k

/-- Settles O4: a write takes the way of its offset (no unit, no writable field, a plain register, a denial), and each way is one
lemma about the write. -/
theorem registerWriteEffects : Obligations.RegisterWriteEffects := by
  unfold Obligations.RegisterWriteEffects
  intro s init off v on
  refine ⟨?plain, ?unmapped, ?readOnly, ?denied⟩
  case plain =>
    intro u i r hu hw hr hp hv hm may
    have noRecov : r ≠ .mgRecovChunk ∧ r ≠ .mgRecovDone := by
      constructor <;> rintro rfl <;> exact absurd hp (by decide)
    have stored : s.dev.initWrite init off.toNat v.toNat = s.dev.wr r i v := by
      rw [initWrite_permitted may, busWrite_eq_regWrite (by simp [hr, noRecov]) (by simp [hr, noRecov]),
        regWrite_of_regAt hu hw (hm.imp_left (congrArg Fin.val)) hr hv, if_pos (writable_of_plain hp), (plain_rules hp ..).1,
        storeThen_plain hp (regUnit_of_regAt hr hu)]
    exact runs_logic_of_held on (exec_registerWrite ..) (by rw [stored, wr_mg]) stored
  case unmapped =>
    intro hu may
    have no := regAt_of_unitAt_none hu
    have counted : s.dev.initWrite init off.toNat v.toNat = s.dev.inc .unitRejWr uId := by
      rw [initWrite_permitted may, busWrite_eq_regWrite (by simp [no]) (by simp [no]), regWrite_unmapped hu]
      rfl
    exact runs_logic_of_held on (exec_registerWrite ..) (by rw [counted, inc_mg]) counted
  case readOnly =>
    intro u i r hu hw hr hro hv _ hm may
    have noRecov : r ≠ .mgRecovChunk ∧ r ≠ .mgRecovDone := by
      constructor <;> rintro rfl <;> exact absurd hro (by decide)
    have kept : s.dev.initWrite init off.toNat v.toNat = s.dev := by
      rw [initWrite_permitted may, busWrite_eq_regWrite (by simp [hr, noRecov]) (by simp [hr, noRecov]),
        regWrite_of_regAt hu hw (hm.imp_left (congrArg Fin.val)) hr hv, if_neg (by simp [hro])]
    exact runs_logic_of_held on (exec_registerWrite ..) (by rw [kept]) kept
  case denied =>
    intro may hc hb
    have noBind := regAt_ne_of_map_ne hb
    have denied : s.dev.initWrite init off.toNat v.toNat = s.dev.accDenied init true off.toNat 4 := by
      rw [initWrite_denied may, denyWrite_eq_accDenied (regAt_ne_of_map_ne hc)]
    rw [runs_logic_iff on (exec_registerWrite ..), denied]
    exact ⟨ctr_accDenied_write noBind init 4, (only_accDenied_write noBind init 4).powered on⟩

end Sys2Proof.Machine
end
section
/-! ### No write takes the logic side into reset or out of it: `held` follows PWR_GOOD alone (R516) -/
namespace Sys2Proof.Machine
namespace Dev

@[simp] theorem held_ite (c : Prop) [Decidable c] (a b : Dev) :
    (if c then a else b).mg.held = if c then a.mg.held else b.mg.held := apply_ite (fun d : Dev => d.mg.held) c a b

@[simp] theorem held_foldl {β : Type} {f : Dev → β → Dev} (h : ∀ d x, (f d x).mg.held = d.mg.held) (l : List β) (d : Dev) :
    (l.foldl f d).mg.held = d.mg.held :=
  foldl_keeps (fun e => e.mg.held = d.mg.held) f (fun e x k => (h e x).trans k) l rfl

/-! #### Ops -/

@[simp] theorem fresh_held (d : Dev) (w : Nat) : (d.fresh w).2.mg.held = d.mg.held := by simp [fresh]
@[simp] theorem coeSend_held (d : Dev) (n typ status seq detail : Nat) (payload : List Byte) :
    (d.coeSend n typ status seq detail payload).mg.held = d.mg.held := by simp [coeSend]
@[simp] theorem sendVector_held (d : Dev) (n v : Nat) : (d.sendVector n v).mg.held = d.mg.held := by
  unfold sendVector
  split <;> simp
@[simp] theorem raiseDom_held (d : Dev) (s n : Nat) : (d.raiseDom s n).mg.held = d.mg.held := by simp [raiseDom]
@[simp] theorem raiseSet_held (d : Dev) (r : Reg) (s : Nat) : (d.raiseSet r s).mg.held = d.mg.held := by simp [raiseSet]
@[simp] theorem raiseEvent_held (d : Dev) (s inst info : Nat) : (d.raiseEvent s inst info).mg.held = d.mg.held := by
  simp [raiseEvent]
@[simp] theorem paShow_held (d : Dev) (a : Nat) : (d.paShow a).mg.held = d.mg.held := by rw [paShow_mg]
@[simp] theorem setAcct_held (d : Dev) (a : Nat) (x : PaAcct) : (d.setAcct a x).mg.held = d.mg.held := by simp [setAcct]
@[simp] theorem paRequest_held (d : Dev) (a : Nat) (who : PaFor) (cost : Nat) :
    (d.paRequest a who cost).2.mg.held = d.mg.held := by rw [paRequest_mg]
@[simp] theorem flashQueue_held (d : Dev) (op : FlashOp) : (d.flashQueue op).2.mg.held = d.mg.held := by
  have asked := paRequest_held d 0 .flash 150
  unfold flashQueue
  dsimp only
  repeat' split
  all_goals simp_all
@[simp] theorem flashOnce_held (d : Dev) (op : FlashOp) : (d.flashOnce op).mg.held = d.mg.held := by simp [flashOnce]
@[simp] theorem logWrite_held (d : Dev) (body : List Byte) : (d.logWrite body).mg.held = d.mg.held := by simp [logWrite]
@[simp] theorem logFull_held (d : Dev) : d.logFull.mg.held = d.mg.held := by simp [logFull]
@[simp] theorem logAppend_held (d : Dev) (body : List Byte) : (d.logAppend body).mg.held = d.mg.held := by simp [logAppend]
@[simp] theorem logPut_held (d : Dev) (code unit data : Nat) :
    (d.logPut code unit data).mg.held = d.mg.held := by simp [logPut]
@[simp] theorem raise_held (d : Dev) (s inst info : Nat) : (d.raise s inst info).mg.held = d.mg.held := by
  unfold raise
  repeat' split
  all_goals simp
@[simp] theorem setState_held (d : Dev) (u s : Nat) : (d.setState u s).mg.held = d.mg.held := by simp [setState]

/-! #### Power -/

@[simp] theorem paWithdraw_held (d : Dev) (a : Nat) (who : PaFor) : (d.paWithdraw a who).mg.held = d.mg.held := by
  simp [paWithdraw]
@[simp] theorem paReleaseLast_held (d : Dev) (a : Nat) (who : PaFor) : (d.paReleaseLast a who).mg.held = d.mg.held := by
  simp [paReleaseLast]
@[simp] theorem paRelease_held (d : Dev) (a : Nat) (who : PaFor) : (d.paRelease a who).mg.held = d.mg.held := by
  simp [paRelease]

/-! #### Load -/

@[simp] theorem ldShow_held (d : Dev) (l : Nat) : (d.ldShow l).mg.held = d.mg.held := by
  unfold ldShow
  split
  · refine held_foldl (fun e n => ?_) _ d
    simp
  · rfl
@[simp] theorem ldUpd_held (d : Dev) (l : Nat) (g : LdCh → LdCh) : (d.ldUpd l g).mg.held = d.mg.held := by simp [ldUpd]
@[simp] theorem ldEvent_held (d : Dev) (l what : Nat) : (d.ldEvent l what).mg.held = d.mg.held := by simp [ldEvent]
@[simp] theorem ldFault_held (d : Dev) (l : Nat) : (d.ldFault l).mg.held = d.mg.held := by simp [ldFault]
@[simp] theorem ldRelease_held (d : Dev) (l : Nat) : (d.ldRelease l).mg.held = d.mg.held := by simp [ldRelease]
@[simp] theorem ldLeave_held (d : Dev) (l : Nat) : (d.ldLeave l).mg.held = d.mg.held := by simp [ldLeave]
@[simp] theorem ldStartRamp_held (d : Dev) (l : Nat) (grant : Bool) : (d.ldStartRamp l grant).mg.held = d.mg.held := by
  simp [ldStartRamp]
@[simp] theorem ldBadProfile_held (d : Dev) (l : Nat) : (d.ldBadProfile l).mg.held = d.mg.held := by simp [ldBadProfile]
@[simp] theorem ldTurnOn_held (d : Dev) (l : Nat) (leave : Bool) : (d.ldTurnOn l leave).mg.held = d.mg.held := by
  have asked := paRequest_held d (1 + l / 32) (.gang l) (d.ldCost l ((d.ldPhases (l / 32) (d.f ldCfg_PROFILE l)).getD []))
  unfold ldTurnOn
  dsimp only
  repeat' split
  all_goals simp_all
@[simp] theorem ldSwitchOff_held (d : Dev) (l : Nat) : (d.ldSwitchOff l).mg.held = d.mg.held := by simp [ldSwitchOff]
@[simp] theorem ldSwitchOn_held (d : Dev) (l : Nat) (leave : Bool) : (d.ldSwitchOn l leave).mg.held = d.mg.held := by
  simp [ldSwitchOn]
@[simp] theorem ldClear_held (d : Dev) (l : Nat) : (d.ldClear l).mg.held = d.mg.held := by simp [ldClear]
@[simp] theorem ldCtlGate_held (d : Dev) (init n : Nat) : (d.ldCtlGate init n).2.mg.held = d.mg.held := by
  unfold ldCtlGate
  repeat' split
  all_goals simp
@[simp] theorem ldCtlWrite_held (d : Dev) (init n : Nat) (on clear : Bool) :
    (d.ldCtlWrite init n on clear).mg.held = d.mg.held := by
  have asked := ldCtlGate_held d init n
  unfold ldCtlWrite
  dsimp only
  repeat' split
  all_goals simp_all
@[simp] theorem ldOrder_held (d : Dev) (l what : Nat) : (d.ldOrder l what).mg.held = d.mg.held := by
  unfold ldOrder
  split <;> simp
@[simp] theorem ldSepia_held (d : Dev) : d.ldSepia.mg.held = d.mg.held := by simp [ldSepia]
@[simp] theorem ldLinkLost_held (d : Dev) (l : Nat) : (d.ldLinkLost l).mg.held = d.mg.held := by simp [ldLinkLost]
@[simp] theorem gangSense_held (d : Dev) (n : Nat) : (d.gangSense n).mg.held = d.mg.held := by simp [gangSense]

/-! #### Cells -/

@[simp] theorem setGrp_held (d : Dev) (g : Nat) (c : CellGrp) : (d.setGrp g c).mg.held = d.mg.held := by simp [setGrp]
@[simp] theorem giveCells_held (d : Dev) (k : Nat) : (d.giveCells k).mg.held = d.mg.held := by simp [giveCells]
@[simp] theorem release_held (d : Dev) (g : Nat) : (d.release g).mg.held = d.mg.held := by simp [release]
@[simp] theorem setOrder_held (d : Dev) (p : Nat) (l : List (Nat × OrderItem)) : (d.setOrder p l).mg.held = d.mg.held := by
  simp [setOrder]
@[simp] theorem resolve_held (d : Dev) (p q : Nat) (o : OrderItem) :
    (d.resolve p q o).mg.held = d.mg.held := by simp [resolve]
@[simp] theorem dropFrame_held (d : Dev) (fr : Frame) : (d.dropFrame fr).mg.held = d.mg.held := by simp [dropFrame]
@[simp] theorem setDispQ_held (d : Dev) (c : Nat) (l : List Work) : (d.setDispQ c l).mg.held = d.mg.held := by simp [setDispQ]

/-! #### Faults -/

@[simp] theorem sepiaPurge_held (d : Dev) : (d.sepiaPurge).mg.held = d.mg.held := by
  unfold sepiaPurge
  refine held_foldl (fun e c => ?_) _ d
  dsimp only
  rw [held_foldl fun e w => ?_]
  · simp
  · split <;> simp
@[simp] theorem sepiaEnter_held (d : Dev) (cls : Nat) : (d.sepiaEnter cls).mg.held = d.mg.held := by simp [sepiaEnter]
@[simp] theorem faultRaise_held (d : Dev) (c : Nat) : (d.faultRaise c).mg.held = d.mg.held := by simp [faultRaise]
@[simp] theorem levelOn_held (d : Dev) (c i : Nat) : (d.levelOn c i).mg.held = d.mg.held := by simp [levelOn]
@[simp] theorem faultClear_held (d : Dev) (c : Nat) : (d.faultClear c).mg.held = d.mg.held := by simp [faultClear]
@[simp] theorem memoryError_held (d : Dev) (ev inst info : Nat) : (d.memoryError ev inst info).mg.held = d.mg.held := by
  simp [memoryError]
@[simp] theorem monSample_held (d : Dev) (m v : Nat) : (d.monSample m v).mg.held = d.mg.held := by simp [monSample]
@[simp] theorem monFeed_held (d : Dev) (src : Nat) (fits : Nat → Bool) (v : Nat) :
    (d.monFeed src fits v).mg.held = d.mg.held := by simp [monFeed]
@[simp] theorem monClear_held (d : Dev) (m : Nat) : (d.monClear m).mg.held = d.mg.held := by simp [monClear]

/-! #### Time -/

@[simp] theorem setDom_held (d : Dev) (t : Nat) (x : Domain) : (d.setDom t x).mg.held = d.mg.held := by simp [setDom]
@[simp] theorem wrTime_held (d : Dev) (r : Reg) (i x : Nat) : (d.wrTime r i x).mg.held = d.mg.held := by simp [wrTime]
@[simp] theorem setTrig_held (d : Dev) (n : Nat) (x : Trig) : (d.setTrig n x).mg.held = d.mg.held := by simp [setTrig]
@[simp] theorem trigArm_held (d : Dev) (n : Nat) : (d.trigArm n).mg.held = d.mg.held := by
  unfold trigArm
  dsimp only
  repeat' split
  all_goals simp_all

/-! #### Rings -/

@[simp] theorem setRx_held (d : Dev) (i : Nat) (x : RxRing) : (d.setRx i x).mg.held = d.mg.held := by simp [setRx]
@[simp] theorem setTx_held (d : Dev) (i : Nat) (x : TxRing) : (d.setTx i x).mg.held = d.mg.held := by simp [setTx]
@[simp] theorem setCoe_held (d : Dev) (n : Nat) (x : CoeDom) : (d.setCoe n x).mg.held = d.mg.held := by simp [setCoe]
@[simp] theorem hostDma_held (d : Dev) (n addr : Nat) (bs : List Byte) : (d.hostDma n addr bs).mg.held = d.mg.held := by
  simp [hostDma]
@[simp] theorem ringWrite_held (d : Dev) (i addr : Nat) (bs : List Byte) : (d.ringWrite i addr bs).mg.held = d.mg.held := by
  simp [ringWrite]
@[simp] theorem ringVector_held (d : Dev) (i v : Nat) : (d.ringVector i v).mg.held = d.mg.held := by simp [ringVector]
@[simp] theorem txIrq_held (d : Dev) (i : Nat) : (d.txIrq i).mg.held = d.mg.held := by simp [txIrq]
@[simp] theorem rxDropAll_held (d : Dev) (i : Nat) : (d.rxDropAll i).mg.held = d.mg.held := by simp [rxDropAll]
@[simp] theorem coeTxDone_held (d : Dev) (n ring idx : Nat) (payload : List Byte) :
    (d.coeTxDone n ring idx payload).mg.held = d.mg.held := by
  unfold coeTxDone
  dsimp only
  repeat' split
  all_goals simp_all
@[simp] theorem txFinish_held (d : Dev) (i : Nat) (x : TxCur) (time st : Nat) :
    (d.txFinish i x time st).mg.held = d.mg.held := by simp [txFinish]

/-! #### SleepOps -/

@[simp] theorem setLin_held (d : Dev) (n : Nat) (x : LinChan) : (d.setLin n x).mg.held = d.mg.held := by simp [setLin]
@[simp] theorem segSet_held (d : Dev) (s st : Nat) : (d.segSet s st).mg.held = d.mg.held := by simp [segSet]
@[simp] theorem linWakeUp_held (d : Dev) (n : Nat) : (d.linWakeUp n).mg.held = d.mg.held := by simp [linWakeUp]
@[simp] theorem segPortsWake_held (d : Dev) (s : Nat) : (d.segPortsWake s).mg.held = d.mg.held := by simp [segPortsWake]
@[simp] theorem segDrainStop_held (d : Dev) (s : Nat) : (d.segDrainStop s).mg.held = d.mg.held := by simp [segDrainStop]
@[simp] theorem segWake_held (d : Dev) (src port s : Nat) : (d.segWake src port s).mg.held = d.mg.held := by simp [segWake]
@[simp] theorem wakeRecord_held (d : Dev) (src port trans : Nat) : (d.wakeRecord src port trans).mg.held = d.mg.held := by
  simp [wakeRecord]
@[simp] theorem locEnded_held (d : Dev) (p : Nat) : (d.locEnded p).mg.held = d.mg.held := by simp [locEnded]
@[simp] theorem deviceWake_held (d : Dev) (src port seg : Nat) : (d.deviceWake src port seg).mg.held = d.mg.held := by
  unfold deviceWake
  split <;> simp
@[simp] theorem wakeBy_held (d : Dev) (src port : Nat) (segs : List Nat) : (d.wakeBy src port segs).mg.held = d.mg.held := by
  simp [wakeBy]
@[simp] theorem winWake_held (d : Dev) (i : Nat) : (d.winWake i).mg.held = d.mg.held := by simp [winWake]
@[simp] theorem segWakeCmd_held (d : Dev) (s : Nat) : (d.segWakeCmd s).mg.held = d.mg.held := by simp [segWakeCmd]
@[simp] theorem winLevel_held (d : Dev) (i : Nat) : (d.winLevel i).mg.held = d.mg.held := by simp [winLevel]

/-! #### Tables -/

@[simp] theorem setTb_held (d : Dev) (t : Nat) (x : TbTable) : (d.setTb t x).mg.held = d.mg.held := by simp [setTb]
@[simp] theorem setTbBad_held (d : Dev) (t l : Nat) (b : Bool) : (d.setTbBad t l b).mg.held = d.mg.held := by simp [setTbBad]
@[simp] theorem tbEccIn_held (d : Dev) (t : Nat) (frozen : Bool) (e : Ecc) : (d.tbEccIn t frozen e).mg.held = d.mg.held := by
  simp [tbEccIn]
@[simp] theorem tbEcc_held (d : Dev) (t : Nat) (e : Ecc) : (d.tbEcc t e).mg.held = d.mg.held := by simp [tbEcc]
@[simp] theorem setTbCur_held (d : Dev) (t : Nat) (ents : Sparse Nat) (l : Nat) :
    (d.setTbCur t ents l).mg.held = d.mg.held := by simp [setTbCur]
@[simp] theorem bgShow_held (d : Dev) (t : Nat) : (d.bgShow t).mg.held = d.mg.held := by simp [bgShow]
@[simp] theorem bgClear_held (d : Dev) (t : Nat) : (d.bgClear t).mg.held = d.mg.held := by simp [bgClear]
@[simp] theorem bgFail_held (d : Dev) (t res : Nat) : (d.bgFail t res).mg.held = d.mg.held := by simp [bgFail]
@[simp] theorem tbCommit_held (d : Dev) (t e : Nat) : (d.tbCommit t e).mg.held = d.mg.held := by
  unfold tbCommit
  rw [bgShow_held, paRelease_held, paRelease_held, bgClear_held]
  refine held_foldl (fun e k => ?_) _ d
  dsimp only
  repeat' split
  all_goals simp
@[simp] theorem tbReleaseFrozen_held (d : Dev) : (d.tbReleaseFrozen).mg.held = d.mg.held := by
  unfold tbReleaseFrozen
  refine held_foldl (fun e t => ?_) _ d
  dsimp only
  split <;> simp
@[simp] theorem tbNoRoom_held (d : Dev) (t : Nat) : (d.tbNoRoom t).mg.held = d.mg.held := by simp [tbNoRoom]
@[simp] theorem tableTxnDrop_held (d : Dev) (t : Nat) : (d.tableTxnDrop t).mg.held = d.mg.held := by simp [tableTxnDrop]
@[simp] theorem tbSync_held (d : Dev) (t e : Nat) : (d.tbSync t e).mg.held = d.mg.held := by
  unfold tbSync
  dsimp only
  repeat' split
  all_goals simp_all
@[simp] theorem tbRemove_held (d : Dev) (t l : Nat) : (d.tbRemove t l).mg.held = d.mg.held := by simp [tbRemove]
@[simp] theorem tbRewrite_held (d : Dev) (t l e : Nat) : (d.tbRewrite t l e).mg.held = d.mg.held := by simp [tbRewrite]
@[simp] theorem tbMoved_held (d : Dev) (t : Nat) (ents : Sparse Nat) : (d.tbMoved t ents).mg.held = d.mg.held := by
  simp [tbMoved]
@[simp] theorem tbInsertNew_held (d : Dev) (t e : Nat) : (d.tbInsertNew t e).2.mg.held = d.mg.held := by
  unfold tbInsertNew
  split <;> simp
@[simp] theorem learnSubmit_held (d : Dev) (key port stamp : Nat) : (d.learnSubmit key port stamp).mg.held = d.mg.held := by
  simp [learnSubmit]
@[simp] theorem l2FlushPort_held (d : Dev) (p : Nat) : (d.l2FlushPort p).mg.held = d.mg.held := by simp [l2FlushPort]
@[simp] theorem sweepStart_held (d : Dev) : d.sweepStart.mg.held = d.mg.held := by simp [sweepStart]
@[simp] theorem sweepEnd_held (d : Dev) (res : Nat) : (d.sweepEnd res).mg.held = d.mg.held := by simp [sweepEnd]

/-! #### Tsn -/

@[simp] theorem setDirect_held (d : Dev) (t k e : Nat) : (d.setDirect t k e).mg.held = d.mg.held := by simp [setDirect]
@[simp] theorem gateSet_held (d : Dev) (g : Nat) (opn : Bool) (iom : Nat) : (d.gateSet g opn iom).mg.held = d.mg.held := by
  simp [gateSet]
@[simp] theorem setGatePos_held (d : Dev) (g p : Nat) : (d.setGatePos g p).mg.held = d.mg.held := by simp [setGatePos]
@[simp] theorem gateRestart_held (d : Dev) (g : Nat) : (d.gateRestart g).mg.held = d.mg.held := by simp [gateRestart]
@[simp] theorem gateRestartAll_held (d : Dev) : d.gateRestartAll.mg.held = d.mg.held := by simp [gateRestartAll]
@[simp] theorem directWrite_held (d : Dev) (t k w : Nat) : (d.directWrite t k w).mg.held = d.mg.held := by
  unfold directWrite
  split <;> simp
@[simp] theorem filterLookup_held (d : Dev) (k k1 : Nat) : (d.filterLookup k k1).2.mg.held = d.mg.held := by
  unfold filterLookup
  dsimp only
  repeat' split
  all_goals simp_all
@[simp] theorem gateLookup_held (d : Dev) (g len : Nat) : (d.gateLookup g len).2.mg.held = d.mg.held := by
  unfold gateLookup
  dsimp only
  repeat' split
  all_goals simp_all
theorem held_withTab (d : Dev) (t : Tables) : ({ d with tab := t } : Dev).mg.held = d.mg.held := rfl

@[simp] theorem meterLookup_held (d : Dev) (m len : Nat) : (d.meterLookup m len).2.mg.held = d.mg.held := by
  unfold meterLookup
  extract_lets e
  split
  · rfl
  · simp only [held_ite, inc_mg, ite_self]
    exact (held_withTab _ _).trans (setDirect_held _ _ _ _)
@[simp] theorem seqLookup_held (d : Dev) (r s0 : Nat) : (d.seqLookup r s0).2.mg.held = d.mg.held := by
  unfold seqLookup
  dsimp only
  repeat' split
  all_goals simp_all
@[simp] theorem l2SetHit_held (d : Dev) (l e : Nat) (frozen : Bool) : (d.l2SetHit l e frozen).mg.held = d.mg.held := by
  unfold l2SetHit
  dsimp only
  repeat' split
  all_goals simp_all
@[simp] theorem lookup_held (d : Dev) (t epoch k0 k1 : Nat) : (d.lookup t epoch k0 k1).2.mg.held = d.mg.held := by
  unfold lookup
  split
  case h_1 => split <;> simp only [l2SetHit_held]
  case h_3 => rfl
  case h_6 =>
    repeat' split
    all_goals simp only [filterLookup_held, gateLookup_held, meterLookup_held, seqLookup_held]
  all_goals
    dsimp only
    repeat' split
    all_goals rfl

/-! #### Queues -/

@[simp] theorem setEth_held (d : Dev) (p : Nat) (x : EthPort) : (d.setEth p x).mg.held = d.mg.held := by simp [setEth]
@[simp] theorem putQueue_held (d : Dev) (q : Nat) (l : List QFrame) :
    (d.putQueue q l).mg.held = d.mg.held := by simp [putQueue]
@[simp] theorem creditUpdate_held (d : Dev) (p : Nat) : (d.creditUpdate p).mg.held = d.mg.held := by simp [creditUpdate]
@[simp] theorem deficitClear_held (d : Dev) (p c : Nat) : (d.deficitClear p c).mg.held = d.mg.held := by simp [deficitClear]
@[simp] theorem queueEmptied_held (d : Dev) (p c : Nat) : (d.queueEmptied p c).mg.held = d.mg.held := by simp [queueEmptied]
@[simp] theorem setQueue_held (d : Dev) (q : Nat) (l : List QFrame) :
    (d.setQueue q l).mg.held = d.mg.held := by simp [setQueue]
@[simp] theorem gauge_held (d : Dev) (c : Ctr) (i : Nat) (up : Bool) (n : Nat) : (d.gauge c i up n).mg.held = d.mg.held := by
  simp [gauge]
@[simp] theorem charge_held (d : Dev) (q : Nat) (up : Bool) (k : Nat) : (d.charge q up k).mg.held = d.mg.held := by
  simp [charge]
@[simp] theorem heldCount_held (d : Dev) (p : Nat) (up : Bool) : (d.heldCount p up).mg.held = d.mg.held := by
  unfold heldCount
  split <;> simp
@[simp] theorem unqueue_held (d : Dev) (q : Nat) (x : QFrame) : (d.unqueue q x).mg.held = d.mg.held := by simp [unqueue]
@[simp] theorem tsEnd_held (d : Dev) (x : QFrame) (st : Nat) : (d.tsEnd x st).mg.held = d.mg.held := by
  unfold tsEnd
  split <;> simp
@[simp] theorem tsDropped_held (d : Dev) (x : QFrame) : (d.tsDropped x).mg.held = d.mg.held := by simp [tsDropped]
@[simp] theorem removeFrame_held (d : Dev) (q : Nat) (c : Ctr) (x : QFrame) : (d.removeFrame q c x).mg.held = d.mg.held := by
  simp [removeFrame]
@[simp] theorem enqueue_held (d : Dev) (p c : Nat) (x : QFrame) : (d.enqueue p c x).2.mg.held = d.mg.held := by
  unfold enqueue
  dsimp only
  repeat' split
  all_goals simp_all
@[simp] theorem flushQueues_held (d : Dev) (p : Nat) : (d.flushQueues p).mg.held = d.mg.held := by simp [flushQueues]
@[simp] theorem portFlush_held (d : Dev) (p : Nat) : (d.portFlush p).mg.held = d.mg.held := by simp [portFlush]
@[simp] theorem lostOnWire_held (d : Dev) (q : Nat) (x : QFrame) : (d.lostOnWire q x).mg.held = d.mg.held := by
  simp [lostOnWire]
@[simp] theorem mirrorCfgWrite_held (d : Dev) (s v : Nat) : (d.mirrorCfgWrite s v).mg.held = d.mg.held := by
  simp [mirrorCfgWrite]
@[simp] theorem mirrorSampleWrite_held (d : Dev) (s v : Nat) : (d.mirrorSampleWrite s v).mg.held = d.mg.held := by
  simp [mirrorSampleWrite]
@[simp] theorem tailWrite_held (d : Dev) (staged tx : Bool) (i v : Nat) :
    (d.tailWrite staged tx i v).mg.held = d.mg.held := by
  simp [tailWrite]
@[simp] theorem rxCfgWrite_held (d : Dev) (staged : Bool) (i v : Nat) : (d.rxCfgWrite staged i v).mg.held = d.mg.held := by
  simp [rxCfgWrite]
@[simp] theorem txCfgWrite_held (d : Dev) (staged : Bool) (i v : Nat) : (d.txCfgWrite staged i v).mg.held = d.mg.held := by
  simp [txCfgWrite]
@[simp] theorem ringSetRestart_held (d : Dev) (n : Nat) : (d.ringSetRestart n).mg.held = d.mg.held := by
  unfold ringSetRestart
  refine held_foldl (fun e r => ?_) _ d
  dsimp only
  repeat' split
  all_goals simp

/-! #### Path -/

@[simp] theorem ruleWrite_held (d : Dev) (w v : Nat) : (d.ruleWrite w v).mg.held = d.mg.held := by simp [ruleWrite]

/-! #### Eth -/

@[simp] theorem ethAdd_held (d : Dev) (p g k n : Nat) : (d.ethAdd p g k n).mg.held = d.mg.held := by simp [ethAdd]
@[simp] theorem ethInc_held (d : Dev) (p g k : Nat) : (d.ethInc p g k).mg.held = d.mg.held := by simp [ethInc]
@[simp] theorem rowOutStart_held (d : Dev) (row : Nat) (cmd : Bool) : (d.rowOutStart row cmd).mg.held = d.mg.held := by
  simp [rowOutStart]
@[simp] theorem bwResume_held (d : Dev) : d.bwResume.mg.held = d.mg.held := by simp [bwResume]
@[simp] theorem verifyRestart_held (d : Dev) (p : Nat) : (d.verifyRestart p).mg.held = d.mg.held := by simp [verifyRestart]
@[simp] theorem ethLinkDown_held (d : Dev) (p : Nat) : (d.ethLinkDown p).mg.held = d.mg.held := by simp [ethLinkDown]
@[simp] theorem flushNow_held (d : Dev) (p : Nat) : (d.flushNow p).mg.held = d.mg.held := by simp [flushNow]
@[simp] theorem flushDue_held (d : Dev) (p : Nat) : (d.flushDue p).mg.held = d.mg.held := by simp [flushDue]
@[simp] theorem portQueueFlush_held (d : Dev) (p : Nat) : (d.portQueueFlush p).mg.held = d.mg.held := by simp [portQueueFlush]
@[simp] theorem ethWireLost_held (d : Dev) (p : Nat) : (d.ethWireLost p).mg.held = d.mg.held := by
  unfold ethWireLost
  dsimp only
  repeat' split
  all_goals simp_all
@[simp] theorem canWireLost_held (d : Dev) (p : Nat) : (d.canWireLost p).mg.held = d.mg.held := by
  unfold canWireLost
  dsimp only
  repeat' split
  all_goals simp_all
@[simp] theorem linkLost_held (d : Dev) (p : Nat) : (d.linkLost p).mg.held = d.mg.held := by simp [linkLost]
@[simp] theorem preemptWire_held (d : Dev) (p : Nat) : (d.preemptWire p).mg.held = d.mg.held := by
  unfold preemptWire
  dsimp only
  repeat' split
  all_goals simp_all
@[simp] theorem gateCut_held (d : Dev) (p : Nat) : (d.gateCut p).mg.held = d.mg.held := by
  unfold gateCut
  dsimp only
  repeat' split
  all_goals simp_all
@[simp] theorem gateShow_held (d : Dev) (p : Nat) : (d.gateShow p).mg.held = d.mg.held := by simp [gateShow]
@[simp] theorem gatesRestart_held (d : Dev) (p : Nat) : (d.gatesRestart p).mg.held = d.mg.held := by simp [gatesRestart]
@[simp] theorem gatesOff_held (d : Dev) (p : Nat) : (d.gatesOff p).mg.held = d.mg.held := by simp [gatesOff]

/-! #### EthTx -/

@[simp] theorem configChange_held (d : Dev) (p : Nat) : (d.configChange p).mg.held = d.mg.held := by simp [configChange]
@[simp] theorem gateCancel_held (d : Dev) (p : Nat) : (d.gateCancel p).mg.held = d.mg.held := by simp [gateCancel]
@[simp] theorem tsShow_held (d : Dev) (p : Nat) : (d.tsShow p).mg.held = d.mg.held := by simp [tsShow]
@[simp] theorem ethTxCount_held (d : Dev) (p : Nat) (b : List Byte) : (d.ethTxCount p b).mg.held = d.mg.held := by
  simp [ethTxCount]
@[simp] theorem stepEmit_held (d : Dev) (p : Nat) (b : List Byte) : (d.stepEmit p b).mg.held = d.mg.held := by simp [stepEmit]
@[simp] theorem stepFlush_held (d : Dev) (p : Nat) : (d.stepFlush p).mg.held = d.mg.held := by simp [stepFlush]
@[simp] theorem stepSend_held (d : Dev) (p typ txn rate reason : Nat) :
    (d.stepSend p typ txn rate reason).mg.held = d.mg.held := by simp [stepSend]
@[simp] theorem tsPop_held (d : Dev) (p : Nat) : (d.tsPop p).mg.held = d.mg.held := by simp [tsPop]
@[simp] theorem preemptSet_held (d : Dev) (p : Nat) (due : Bool) : (d.preemptSet p due).mg.held = d.mg.held := by
  simp [preemptSet]
@[simp] theorem lpiSettle_held (d : Dev) (p : Nat) : (d.lpiSettle p).mg.held = d.mg.held := by simp [lpiSettle]

/-! #### EthStep -/

@[simp] theorem setStep_held (d : Dev) (p : Nat) (x : StepPhase) : (d.setStep p x).mg.held = d.mg.held := by simp [setStep]
@[simp] theorem stepEnd_held (d : Dev) (p last : Nat) : (d.stepEnd p last).mg.held = d.mg.held := by simp [stepEnd]
@[simp] theorem stepRequest_held (d : Dev) (p t : Nat) : (d.stepRequest p t).mg.held = d.mg.held := by
  have asked := paRequest_held d 0 (.rateStep p) stepMw
  unfold stepRequest
  split <;> simp_all
@[simp] theorem stepEvaluate_held (d : Dev) (p : Nat) : (d.stepEvaluate p).mg.held = d.mg.held := by
  unfold stepEvaluate
  repeat' split
  all_goals simp
@[simp] theorem stepAdvance_held (d : Dev) (p : Nat) : (d.stepAdvance p).mg.held = d.mg.held := by
  unfold stepAdvance
  split <;> simp
@[simp] theorem stepEstablish_held (d : Dev) (p : Nat) : (d.stepEstablish p).mg.held = d.mg.held := by simp [stepEstablish]
@[simp] theorem ethLost_held (d : Dev) (p : Nat) : (d.ethLost p).mg.held = d.mg.held := by
  unfold ethLost
  extract_lets e up f
  have kept : e.mg.held = d.mg.held := by
    unfold e
    split <;> simp
  simp [f, kept]

/-! #### Can -/

@[simp] theorem canShow_held (d : Dev) (n : Nat) : (d.canShow n).mg.held = d.mg.held := by simp [canShow]
@[simp] theorem setCan_held (d : Dev) (n : Nat) (x : CanChan) : (d.setCan n x).mg.held = d.mg.held := by simp [setCan]
@[simp] theorem canFree_held (d : Dev) (n b : Nat) : (d.canFree n b).mg.held = d.mg.held := by
  unfold canFree
  dsimp only
  repeat' split
  all_goals simp_all
@[simp] theorem canSet_held (d : Dev) (n st : Nat) : (d.canSet n st).mg.held = d.mg.held := by simp [canSet]
@[simp] theorem canDiscard_held (d : Dev) (n : Nat) : (d.canDiscard n).mg.held = d.mg.held := by simp [canDiscard]
@[simp] theorem canStart_held (d : Dev) (n : Nat) : (d.canStart n).mg.held = d.mg.held := by simp [canStart]
@[simp] theorem canStop_held (d : Dev) (n : Nat) : (d.canStop n).mg.held = d.mg.held := by simp [canStop]
@[simp] theorem canRecover_held (d : Dev) (n : Nat) : (d.canRecover n).mg.held = d.mg.held := by simp [canRecover]
@[simp] theorem setObj_held (d : Dev) (o : Nat) (x : MsgObj) : (d.setObj o x).mg.held = d.mg.held := by simp [setObj]
@[simp] theorem objUpdate_held (d : Dev) (o : Nat) (data : List Byte) : (d.objUpdate o data).mg.held = d.mg.held := by
  simp [objUpdate]
@[simp] theorem objAck_held (d : Dev) (o : Nat) : (d.objAck o).mg.held = d.mg.held := by simp [objAck]
@[simp] theorem objKeyWrite_held (d : Dev) (staged : Bool) (w v : Nat) : (d.objKeyWrite staged w v).mg.held = d.mg.held := by
  simp [objKeyWrite]
@[simp] theorem objCfgWrite_held (d : Dev) (w v : Nat) : (d.objCfgWrite w v).mg.held = d.mg.held := by simp [objCfgWrite]
@[simp] theorem objAckWrite_held (d : Dev) (w v : Nat) : (d.objAckWrite w v).mg.held = d.mg.held := by simp [objAckWrite]
@[simp] theorem objPublish_held (d : Dev) (w v : Nat) : (d.objPublish w v).mg.held = d.mg.held := by simp [objPublish]
@[simp] theorem objForeignClear_held (d : Dev) (w : Nat) : (d.objForeignClear w).mg.held = d.mg.held := by
  simp [objForeignClear]
@[simp] theorem canSchedWrite_held (d : Dev) (n s v : Nat) : (d.canSchedWrite n s v).mg.held = d.mg.held := by
  simp [canSchedWrite]

/-! #### Tun -/

@[simp] theorem setTun_held (d : Dev) (s : Nat) (x : TunOpen) : (d.setTun s x).mg.held = d.mg.held := by simp [setTun]
@[simp] theorem tunClose_held (d : Dev) (s : Nat) : (d.tunClose s).mg.held = d.mg.held := by simp [tunClose]
@[simp] theorem tunStreamWrite_held (d : Dev) (s w v : Nat) : (d.tunStreamWrite s w v).mg.held = d.mg.held := by
  unfold tunStreamWrite
  split <;> simp

/-! #### Lin -/

@[simp] theorem linStamp_held (d : Dev) (n id time st : Nat) : (d.linStamp n id time st).mg.held = d.mg.held := by
  simp [linStamp]
@[simp] theorem linStampNone_held (d : Dev) (n : Nat) : (d.linStampNone n).mg.held = d.mg.held := by simp [linStampNone]
@[simp] theorem linReq_held (d : Dev) (n t : Nat) : (d.linReq n t).mg.held = d.mg.held := by simp [linReq]
@[simp] theorem linStop_held (d : Dev) (n : Nat) : (d.linStop n).mg.held = d.mg.held := by simp [linStop]
@[simp] theorem linEntryWrite_held (d : Dev) (staged : Bool) (n v : Nat) :
    (d.linEntryWrite staged n v).mg.held = d.mg.held := by simp [linEntryWrite]

/-! #### KeyStore -/

@[simp] theorem drbgBytes_held (d : Dev) (n : Nat) : (d.drbgBytes n).2.mg.held = d.mg.held := by simp [drbgBytes]
@[simp] theorem setKeySlot_held (d : Dev) (s : Nat) (k : KeySlot) : (d.setKeySlot s k).mg.held = d.mg.held := by
  simp [setKeySlot]
@[simp] theorem ksSetBuf_held (d : Dev) (u : Nat) (b : List Nat) : (d.ksSetBuf u b).mg.held = d.mg.held := by simp [ksSetBuf]
@[simp] theorem ksEnd_held (d : Dev) (u slot res : Nat) (out : List Nat) : (d.ksEnd u slot res out).mg.held = d.mg.held := by
  simp [ksEnd]
@[simp] theorem ksSwitch_held (d : Dev) (u s attr : Nat) (key : Option (List Nat)) :
    (d.ksSwitch u s attr key).mg.held = d.mg.held := by
  unfold ksSwitch
  dsimp only
  repeat' split
  all_goals simp_all
@[simp] theorem ksInstall_held (d : Dev) (u s attr : Nat) {key : Dev → Option (List Nat) × Dev} (bad : Nat)
    (h : ∀ e : Dev, (key e).2.mg.held = e.mg.held) : (d.ksInstall u s attr key bad).mg.held = d.mg.held := by
  have made := h d
  unfold ksInstall
  dsimp only
  repeat' split
  all_goals simp_all
@[simp] theorem ksGuard_held (d : Dev) (u s : Nat) {go : Dev → Dev} (h : ∀ e : Dev, (go e).mg.held = e.mg.held) :
    (d.ksGuard u s go).mg.held = d.mg.held := by simp [ksGuard, h]
@[simp] theorem ksAttrGuard_held (d : Dev) (u s : Nat)
    {go : Nat → Dev → Dev} (h : ∀ (c : Nat) (e : Dev), (go c e).mg.held = e.mg.held) :
    (d.ksAttrGuard u s go).mg.held = d.mg.held := by simp [ksAttrGuard, h]
@[simp] theorem ksLoad_held (d : Dev) (u s : Nat) : (d.ksLoad u s).mg.held = d.mg.held := by
  refine ksGuard_held d u s fun e => ?_
  dsimp only
  repeat' split
  all_goals simp
@[simp] theorem ksGenerate_held (d : Dev) (u s : Nat) : (d.ksGenerate u s).mg.held = d.mg.held := by simp [ksGenerate]
@[simp] theorem ksImport_held (d : Dev) (u s : Nat) : (d.ksImport u s).mg.held = d.mg.held := by simp [ksImport]
@[simp] theorem ksDerive_held (d : Dev) (u s aux : Nat) : (d.ksDerive u s aux).mg.held = d.mg.held := by simp [ksDerive]
@[simp] theorem ksUnwrap_held (d : Dev) (u s aux : Nat) : (d.ksUnwrap u s aux).mg.held = d.mg.held := by simp [ksUnwrap]
@[simp] theorem ksWrapOut_held (d : Dev) (u s : Nat) : (d.ksWrapOut u s).mg.held = d.mg.held := by
  refine ksGuard_held d u s fun e => ?_
  dsimp only
  repeat' split
  all_goals simp
@[simp] theorem ksErase_held (d : Dev) (u s : Nat) : (d.ksErase u s).mg.held = d.mg.held := by simp [ksErase]
@[simp] theorem ksReadAttr_held (d : Dev) (u s : Nat) : (d.ksReadAttr u s).mg.held = d.mg.held := by simp [ksReadAttr]
@[simp] theorem ksRun_held (d : Dev) (u v : Nat) : (d.ksRun u v).mg.held = d.mg.held := by
  unfold ksRun
  split <;> simp
@[simp] theorem ksIssue_held (d : Dev) (u v : Nat) : (d.ksIssue u v).mg.held = d.mg.held := by simp [ksIssue]
@[simp] theorem quotaWrite_held (d : Dev) (staged : Bool) (u v : Nat) : (d.quotaWrite staged u v).mg.held = d.mg.held := by
  simp [quotaWrite]
@[simp] theorem wrapGenWrite_held (d : Dev) (u v : Nat) : (d.wrapGenWrite u v).mg.held = d.mg.held := by simp [wrapGenWrite]

/-! #### CryptoJobs -/

@[simp] theorem setUser_held (d : Dev) (u : Nat) (x : CxUser) : (d.setUser u x).mg.held = d.mg.held := by simp [setUser]
@[simp] theorem setCtx_held (d : Dev) (u c : Nat) (x : CxCtx) : (d.setCtx u c x).mg.held = d.mg.held := by simp [setCtx]
@[simp] theorem setJob_held (d : Dev) (u : Nat) (j : CxJob) : (d.setJob u j).mg.held = d.mg.held := by simp [setJob]
@[simp] theorem cxEnd_held (d : Dev) (u : Nat) (j : CxJob) (status detail outLen : Nat) :
    (d.cxEnd u j status detail outLen).mg.held = d.mg.held := by simp [cxEnd]
@[simp] theorem cxSettle_held (d : Dev) : d.cxSettle.mg.held = d.mg.held := by simp [cxSettle]
@[simp] theorem cxSubmit_held (d : Dev) (u v : Nat) : (d.cxSubmit u v).mg.held = d.mg.held := by simp [cxSubmit]
@[simp] theorem cxProgramEnd_held (d : Dev) (u no : Nat) (exc : Option Nat) :
    (d.cxProgramEnd u no exc).mg.held = d.mg.held := by
  unfold cxProgramEnd
  split <;> simp
@[simp] theorem cxPop_held (d : Dev) (u : Nat) : (d.cxPop u).mg.held = d.mg.held := by simp [cxPop]
@[simp] theorem ctxGuard_held (d : Dev) (u : Nat)
    {go : Nat → Dev → Dev} (h : ∀ (c : Nat) (e : Dev), (go c e).mg.held = e.mg.held) :
    (d.ctxGuard u go).mg.held = d.mg.held := by simp [ctxGuard, h]
@[simp] theorem ctxSave_held (d : Dev) (u : Nat) : (d.ctxSave u).mg.held = d.mg.held := by
  refine ctxGuard_held d u fun c e => ?_
  dsimp only
  repeat' split
  all_goals simp
@[simp] theorem ctxClear_held (d : Dev) (u : Nat) : (d.ctxClear u).mg.held = d.mg.held := by simp [ctxClear]
@[simp] theorem cxPageRestart_held (d : Dev) (u : Nat) : (d.cxPageRestart u).mg.held = d.mg.held := by simp [cxPageRestart]

/-! #### Threads -/

@[simp] theorem setThr_held (d : Dev) (n t : Nat) (x : Thread) : (d.setThr n t x).mg.held = d.mg.held := by simp [setThr]
@[simp] theorem setMc_held (d : Dev) (c : Nat) (x : McCore) : (d.setMc c x).mg.held = d.mg.held := by simp [setMc]
@[simp] theorem mcTrap_held (d : Dev) (c why entry : Nat) : (d.mcTrap c why entry).mg.held = d.mg.held := by simp [mcTrap]
@[simp] theorem mcInterrupt_held (d : Dev) (c l : Nat) : (d.mcInterrupt c l).mg.held = d.mg.held := by simp [mcInterrupt]
@[simp] theorem mcWake_held (d : Dev) (c : Nat) : (d.mcWake c).mg.held = d.mg.held := by
  unfold mcWake
  repeat' split
  all_goals simp
@[simp] theorem coresWake_held (d : Dev) : d.coresWake.mg.held = d.mg.held := by simp [coresWake]
@[simp] theorem incEng_held (d : Dev) (c : Ctr) (n : Nat) : (d.incEng c n).mg.held = d.mg.held := by simp [incEng]
@[simp] theorem lookupDo_held (d : Dev) (table epoch k0 k1 : Nat) (learn : Option (Nat × Nat)) (failed : Bool) :
    (d.lookupDo table epoch k0 k1 learn failed).2.mg.held = d.mg.held := by
  unfold lookupDo
  dsimp only
  repeat' split
  all_goals simp_all
@[simp] theorem objectDo_held (d : Dev) (kind chan fmt ident : Nat) (words : List Nat) :
    (d.objectDo kind chan fmt ident words).2.2.mg.held = d.mg.held := by
  unfold objectDo
  repeat' split
  all_goals simp
@[simp] theorem outward_held (d : Dev) (k : Hart) {go : Dev → Dev} (h : ∀ e : Dev, (go e).mg.held = e.mg.held) :
    (d.outward k go).mg.held = d.mg.held := by simp [outward, h]
@[simp] theorem countHit_held (d : Dev) (h : Hart) (hit : Option Nat) : (d.countHit h hit).mg.held = d.mg.held := by
  unfold countHit
  split <;> simp
@[simp] theorem opSettle_held (d : Dev) (h : Hart) (op : TokOp) : (d.opSettle h op).mg.held = d.mg.held := by
  unfold opSettle
  split <;> simp
@[simp] theorem tokSettle_held (d : Dev) (h : Hart) : (d.tokSettle h).mg.held = d.mg.held := by simp [tokSettle]
@[simp] theorem jobEnd_held (d : Dev) (n t : Nat) : (d.jobEnd n t).mg.held = d.mg.held := by simp [jobEnd]
@[simp] theorem dropThread_held (d : Dev) (n t : Nat) : (d.dropThread n t).mg.held = d.mg.held := by
  unfold dropThread
  dsimp only
  repeat' split
  all_goals simp_all
@[simp] theorem dropThreads_held (d : Dev) (n : Nat) : (d.dropThreads n).mg.held = d.mg.held := by simp [dropThreads]
@[simp] theorem ldLoad_held (d : Dev) (n : Nat) (ini : List Byte) : (d.ldLoad n ini).mg.held = d.mg.held := by simp [ldLoad]
@[simp] theorem engReset_held (d : Dev) (n : Nat) : (d.engReset n).mg.held = d.mg.held := by simp [engReset]

/-! #### ProgSets -/

@[simp] theorem loadEnd_held (d : Dev) (res fail : Nat) (slot : Option Nat) :
    (d.loadEnd res fail slot).mg.held = d.mg.held := by
  unfold loadEnd
  split <;> simp
@[simp] theorem loadInto_held (d : Dev) (h : ImgHead) (es : List Nat) (a s kib c : Nat) :
    (d.loadInto h es a s kib c).mg.held = d.mg.held := by simp [loadInto]
@[simp] theorem setListed_held (d : Dev) (c s : Nat) (r : RunImage) : (d.setListed c s r).mg.held = d.mg.held := by
  simp [setListed]
@[simp] theorem setUnknown_held (d : Dev) (c s : Nat) : (d.setUnknown c s).mg.held = d.mg.held := by simp [setUnknown]
@[simp] theorem feLoad_held (d : Dev) (mask : Nat) (bad : Bool) : (d.feLoad mask bad).mg.held = d.mg.held := by
  unfold feLoad
  dsimp only
  repeat' split
  all_goals simp_all
@[simp] theorem slotFree_held (d : Dev) (c s : Nat) : (d.slotFree c s).mg.held = d.mg.held := by simp [slotFree]
@[simp] theorem feFree_held (d : Dev) (mask s : Nat) : (d.feFree mask s).mg.held = d.mg.held := by
  unfold feFree
  dsimp only
  repeat' split
  all_goals simp_all
@[simp] theorem feLoadCmd_held (d : Dev) (init v : Nat) (bad : Bool) : (d.feLoadCmd init v bad).mg.held = d.mg.held := by
  simp [feLoadCmd]
@[simp] theorem slotsCommit_held (d : Dev) (old e : Nat) : (d.slotsCommit old e).mg.held = d.mg.held := by simp [slotsCommit]
@[simp] theorem slotsRetire_held (d : Dev) : d.slotsRetire.mg.held = d.mg.held := by simp [slotsRetire]

/-! #### Access -/

@[simp] theorem unitReset_held (d : Dev) (u : Nat) : (d.unitReset u).mg.held = d.mg.held := by simp [unitReset]
@[simp] theorem setFarQueue_held (d : Dev) (w : Nat) (l : List FarWrite) : (d.setFarQueue w l).mg.held = d.mg.held := by
  simp [setFarQueue]
@[simp] theorem setHeldAccs_held (d : Dev) (n : Nat) (l : List HeldAcc) : (d.setHeldAccs n l).mg.held = d.mg.held := by
  simp [setHeldAccs]
@[simp] theorem farErrClear_held (d : Dev) (p : Nat) : (d.farErrClear p).mg.held = d.mg.held := by simp [farErrClear]

/-! #### Links -/

@[simp] theorem blLost_held (d : Dev) (n : Nat) : (d.blLost n).mg.held = d.mg.held := by simp [blLost]
@[simp] theorem segSleep_held (d : Dev) (s : Nat) : (d.segSleep s).mg.held = d.mg.held := by simp [segSleep]
@[simp] theorem segPortsWrite_held (d : Dev) (staged : Bool) (s w v : Nat) :
    (d.segPortsWrite staged s w v).mg.held = d.mg.held := by simp [segPortsWrite]
@[simp] theorem sleepCmd_held (d : Dev) (init : Nat) : (d.sleepCmd init).mg.held = d.mg.held := by simp [sleepCmd]

/-! #### Units -/

@[simp] theorem enterHook_held (d : Dev) (u st : Nat) : (d.enterHook u st).mg.held = d.mg.held := by
  unfold enterHook
  split <;> simp
@[simp] theorem lanePower_held (d : Dev) (u : Nat) (on : Bool) : (d.lanePower u on).mg.held = d.mg.held := by simp [lanePower]
@[simp] theorem takeState_held (d : Dev) (u st : Nat) : (d.takeState u st).mg.held = d.mg.held := by simp [takeState]
@[simp] theorem retrainEnd_held (d : Dev) (u : Nat) : (d.retrainEnd u).mg.held = d.mg.held := by simp [retrainEnd]
@[simp] theorem takeFault_held (d : Dev) (u cause : Nat) : (d.takeFault u cause).mg.held = d.mg.held := by
  unfold takeFault
  split <;> simp
@[simp] theorem dropOp_held (d : Dev) (o : UnitOp) : (d.dropOp o).mg.held = d.mg.held := by simp [dropOp]
@[simp] theorem rollback_held (d : Dev) (o : UnitOp) : (d.rollback o).mg.held = d.mg.held := by simp [rollback]
@[simp] theorem partEnd_held (d : Dev) (u res : Nat) : (d.partEnd u res).mg.held = d.mg.held := by
  unfold partEnd
  split <;> simp
@[simp] theorem bwRestart_held (d : Dev) : d.bwRestart.mg.held = d.mg.held := by simp [bwRestart]
@[simp] theorem restartLeaf_held (d : Dev) (u : Nat) : (d.restartLeaf u).mg.held = d.mg.held := by
  unfold restartLeaf
  split <;> simp
@[simp] theorem replaceRow_held (d : Dev) (u tag row : Nat) : (d.replaceRow u tag row).mg.held = d.mg.held := by
  simp [replaceRow]
@[simp] theorem restartLink_held (d : Dev) (u : Nat) : (d.restartLink u).mg.held = d.mg.held := by simp [restartLink]
@[simp] theorem beginLeaf_held (d : Dev) (cmd u : Nat) : (d.beginLeaf cmd u).mg.held = d.mg.held := by
  have asked := paRequest_held d 0 (.retrain (unitInst u)) 250
  unfold beginLeaf
  dsimp only
  repeat' split
  all_goals simp_all
@[simp] theorem runCmd_held (d : Dev) (init u cmd arg tag : Nat) : (d.runCmd init u cmd arg tag).mg.held = d.mg.held := by
  unfold runCmd
  split <;> simp
@[simp] theorem cmdGuard_held (d : Dev) (ok : Bool) (u cmd tag : Nat)
    {go : Dev → Dev} (h : ∀ e : Dev, (go e).mg.held = e.mg.held) :
    (d.cmdGuard ok u cmd tag go).mg.held = d.mg.held := by simp [cmdGuard, h]
@[simp] theorem unitCmd_held (d : Dev) (ok : Bool) (init u cmd arg tag : Nat) :
    (d.unitCmd ok init u cmd arg tag).mg.held = d.mg.held := by simp [unitCmd]

/-! #### RegCheck -/

@[simp] theorem storeThen_held (d : Dev) (staged : Bool) (r : Reg) (i v m : Nat)
    {go : Dev → Dev} (h : ∀ e : Dev, (go e).mg.held = e.mg.held) :
    (d.storeThen staged r i v m go).mg.held = d.mg.held := by
  unfold storeThen
  split <;> simp [h]

/-! #### Txn -/

@[simp] theorem epShow_held (d : Dev) : d.epShow.mg.held = d.mg.held := by simp [epShow]
@[simp] theorem setVcore_held (d : Dev) (mv : Nat) : (d.setVcore mv).mg.held = d.mg.held := by simp [setVcore]
@[simp] theorem modeEnd_held (d : Dev) (res : Nat) : (d.modeEnd res).mg.held = d.mg.held := by simp [modeEnd]
@[simp] theorem txnOpen_held (d : Dev) (t : Txn) : (d.txnOpen t).mg.held = d.mg.held := by simp [txnOpen]
@[simp] theorem txnAsk_held (d : Dev) (t : Txn) : (d.txnAsk t).mg.held = d.mg.held := by
  unfold txnAsk
  split <;> simp
@[simp] theorem txnNext_held (d : Dev) : d.txnNext.mg.held = d.mg.held := by
  unfold txnNext
  split <;> simp
@[simp] theorem onlineEnd_held (d : Dev) (u res : Nat) : (d.onlineEnd u res).mg.held = d.mg.held := by
  unfold onlineEnd
  split <;> simp
@[simp] theorem txnFailed_held (d : Dev) (t : Txn) (cause : Nat) : (d.txnFailed t cause).mg.held = d.mg.held := by
  unfold txnFailed
  split <;> simp
@[simp] theorem txnAbort_held (d : Dev) (cause fail : Nat) : (d.txnAbort cause fail).mg.held = d.mg.held := by
  unfold txnAbort
  split <;> simp
@[simp] theorem epochRelease_held (d : Dev) : d.epochRelease.mg.held = d.mg.held := by simp [epochRelease]
@[simp] theorem txnIssue_held (d : Dev) (t : Txn) : (d.txnIssue t).mg.held = d.mg.held := by
  unfold txnIssue
  repeat' split
  all_goals simp
@[simp] theorem modeResume_held (d : Dev) : d.modeResume.mg.held = d.mg.held := by simp [modeResume]
@[simp] theorem txnFinish_held (d : Dev) (t : Txn) : (d.txnFinish t).mg.held = d.mg.held := by
  unfold txnFinish
  split <;> simp
@[simp] theorem txnTry_held (d : Dev) : d.txnTry.mg.held = d.mg.held := by
  unfold txnTry
  dsimp only
  repeat' split
  all_goals simp_all
@[simp] theorem txnWatch_held (d : Dev) : d.txnWatch.mg.held = d.mg.held := by
  unfold txnWatch
  repeat' split
  all_goals simp
@[simp] theorem stageEntryWrite_held (d : Dev) (init n w v : Nat) : (d.stageEntryWrite init n w v).mg.held = d.mg.held := by
  unfold stageEntryWrite
  repeat' split
  all_goals simp
@[simp] theorem epStage_held (d : Dev) (init count : Nat) : (d.epStage init count).mg.held = d.mg.held := by simp [epStage]
@[simp] theorem epCommit_held (d : Dev) (init : Nat) : (d.epCommit init).mg.held = d.mg.held := by
  unfold epCommit
  split <;> simp
@[simp] theorem epAbort_held (d : Dev) (init : Nat) : (d.epAbort init).mg.held = d.mg.held := by
  unfold epAbort
  split <;> simp
@[simp] theorem snapCopy_held (d : Dev) (u : Nat) : (d.snapCopy u).mg.held = d.mg.held := by simp [snapCopy]
@[simp] theorem snapEnd_held (d : Dev) : d.snapEnd.mg.held = d.mg.held := by simp [snapEnd]
@[simp] theorem epSnap_held (d : Dev) (init : Nat) : (d.epSnap init).mg.held = d.mg.held := by simp [epSnap]
@[simp] theorem epCmdWrite_held (d : Dev) (init v : Nat) : (d.epCmdWrite init v).mg.held = d.mg.held := by
  unfold epCmdWrite
  split <;> simp
@[simp] theorem bringOnline_held (d : Dev) (ok : Bool) (init u tag : Nat) :
    (d.bringOnline ok init u tag).mg.held = d.mg.held := by simp [bringOnline]
@[simp] theorem unitCmdWrite_held (d : Dev) (init u v : Nat) : (d.unitCmdWrite init u v).mg.held = d.mg.held := by
  simp [unitCmdWrite]
@[simp] theorem windowWrite_held (d : Dev) (init u off v : Nat) : (d.windowWrite init u off v).mg.held = d.mg.held := by
  simp [windowWrite]
@[simp] theorem modeRequest_held (d : Dev) (init m : Nat) :
    (d.modeRequest init m).mg.held = d.mg.held := by simp [modeRequest]

/-! #### TimeOps -/

@[simp] theorem timeLatch_held (d : Dev) : d.timeLatch.mg.held = d.mg.held := by simp [timeLatch]
@[simp] theorem convWrite_held (d : Dev) (t : Nat) (go : Bool) : (d.convWrite t go).mg.held = d.mg.held := by simp [convWrite]
@[simp] theorem domCmdWrite_held (d : Dev) (t cmd : Nat) : (d.domCmdWrite t cmd).mg.held = d.mg.held := by simp [domCmdWrite]
@[simp] theorem toutShow_held (d : Dev) (before : Dev) : (d.toutShow before).mg.held = d.mg.held := by simp [toutShow]
@[simp] theorem trigWordWrite_held (d : Dev) (r : Reg) (i n v : Nat) : (d.trigWordWrite r i n v).mg.held = d.mg.held := by
  simp [trigWordWrite]
@[simp] theorem trigCtlWrite_held (d : Dev) (staged : Bool) (n v : Nat) :
    (d.trigCtlWrite staged n v).mg.held = d.mg.held := by
  simp [trigCtlWrite]
@[simp] theorem setCap_held (d : Dev) (c : Nat) (l : List CapRec) : (d.setCap c l).mg.held = d.mg.held := by simp [setCap]
@[simp] theorem setCapShort_held (d : Dev) (c : Nat) (b : Bool) : (d.setCapShort c b).mg.held = d.mg.held := by
  simp [setCapShort]
@[simp] theorem capPop_held (d : Dev) (c : Nat) : (d.capPop c).mg.held = d.mg.held := by simp [capPop]
@[simp] theorem ldStatusClear_held (d : Dev) (n v : Nat) :
    (d.ldStatusClear n v).mg.held = d.mg.held := by simp [ldStatusClear]

/-! #### TableCmds -/

@[simp] theorem tbDataOut_held (d : Dev) (i t e : Nat) : (d.tbDataOut i t e).mg.held = d.mg.held := by simp [tbDataOut]
@[simp] theorem tbEnd_held (d : Dev) (i t loc res : Nat) : (d.tbEnd i t loc res).mg.held = d.mg.held := by simp [tbEnd]
@[simp] theorem tbGuard_held (d : Dev) (i op t idx : Nat) {go : Dev → Dev} (h : ∀ e : Dev, (go e).mg.held = e.mg.held) :
    (d.tbGuard i op t idx go).mg.held = d.mg.held := by simp [tbGuard, h]
@[simp] theorem setAlt_held (d : Dev) (t : Nat) (v : TbVer) : (d.setAlt t v).mg.held = d.mg.held := by simp [setAlt]
@[simp] theorem tbReadCmd_held (d : Dev) (i t idx : Nat) (ecc : Ecc) : (d.tbReadCmd i t idx ecc).mg.held = d.mg.held := by
  simp [tbReadCmd]
@[simp] theorem tbWriteCmd_held (d : Dev) (i t idx : Nat) : (d.tbWriteCmd i t idx).mg.held = d.mg.held := by simp [tbWriteCmd]
@[simp] theorem tbInsertAlt_held (d : Dev) (i t e : Nat) (v : TbVer) : (d.tbInsertAlt i t e v).mg.held = d.mg.held := by
  unfold tbInsertAlt
  dsimp only
  repeat' split
  all_goals simp_all
@[simp] theorem tbInsertCmd_held (d : Dev) (i t : Nat) : (d.tbInsertCmd i t).mg.held = d.mg.held := by
  refine tbGuard_held d i opInsert t _ fun e => ?_
  have new := tbInsertNew_held e t (insertEntry t (e.tbDataIn i t))
  dsimp only
  repeat' split
  all_goals simp_all
@[simp] theorem tbDeleteCmd_held (d : Dev) (i t idx : Nat) : (d.tbDeleteCmd i t idx).mg.held = d.mg.held := by
  refine tbGuard_held d i opDelete t _ fun e => ?_
  dsimp only
  repeat' split
  all_goals simp
@[simp] theorem tbSearchCmd_held (d : Dev) (i t : Nat) (ecc : Ecc) : (d.tbSearchCmd i t ecc).mg.held = d.mg.held := by
  refine tbGuard_held d i opSearch t _ fun e => ?_
  dsimp only
  repeat' split
  all_goals simp
@[simp] theorem tbFlushCmd_held (d : Dev) (i t : Nat) : (d.tbFlushCmd i t).mg.held = d.mg.held := by simp [tbFlushCmd]
@[simp] theorem tbSweepCmd_held (d : Dev) (i t : Nat) : (d.tbSweepCmd i t).mg.held = d.mg.held := by simp [tbSweepCmd]
@[simp] theorem bgAsk_held (d : Dev) (i t : Nat) (who : PaFor) (cost : Nat) : (d.bgAsk i t who cost).mg.held = d.mg.held := by
  have asked := paRequest_held d 0 who cost
  unfold bgAsk
  dsimp only
  repeat' split
  all_goals simp_all
@[simp] theorem tbRehashCmd_held (d : Dev) (i t : Nat) : (d.tbRehashCmd i t).mg.held = d.mg.held := by simp [tbRehashCmd]
@[simp] theorem tbRebuildCmd_held (d : Dev) (i t : Nat) : (d.tbRebuildCmd i t).mg.held = d.mg.held := by simp [tbRebuildCmd]
@[simp] theorem tbRebuildCommitCmd_held (d : Dev) (i t : Nat) : (d.tbRebuildCommitCmd i t).mg.held = d.mg.held := by
  simp [tbRebuildCommitCmd]
@[simp] theorem tableTxnEnd_held (d : Dev) (t : Nat) : (d.tableTxnEnd t).mg.held = d.mg.held := by
  unfold tableTxnEnd
  dsimp only
  repeat' split
  all_goals simp_all
@[simp] theorem tbAbortCmd_held (d : Dev) (i t : Nat) : (d.tbAbortCmd i t).mg.held = d.mg.held := by
  refine tbGuard_held d i opBgAbort t _ fun e => ?_
  dsimp only
  rw [tbEnd_held]
  split <;> simp
@[simp] theorem tbCmdWrite_held (d : Dev) (i v : Nat) : (d.tbCmdWrite i v).mg.held = d.mg.held := by
  unfold tbCmdWrite
  split <;> simp

/-! #### Pairs -/

@[simp] theorem setHandover_held (d : Dev) (k r : Nat) : (d.setHandover k r).mg.held = d.mg.held := by simp [setHandover]
@[simp] theorem undiscard_held (d : Dev) (k : Nat) : (d.undiscard k).mg.held = d.mg.held := by simp [undiscard]
@[simp] theorem mcReset_held (d : Dev) (c : Nat) : (d.mcReset c).mg.held = d.mg.held := by simp [mcReset]
@[simp] theorem pairReset_held (d : Dev) (k : Nat) : (d.pairReset k).mg.held = d.mg.held := by simp [pairReset]
theorem held_withWdogAt (d : Dev) (t : Nat) :
    ({ d with mg := { d.mg with wdogAt := t } } : Dev).mg.held = d.mg.held := rfl

@[simp] theorem pairResync_held (d : Dev) (k : Nat) : (d.pairResync k).mg.held = d.mg.held := by
  unfold pairResync
  extract_lets e
  have kept : e.mg.held = d.mg.held := by simp [e]
  split
  · exact (held_withWdogAt e e.ns).trans kept
  · simp [kept]
@[simp] theorem pairAnswer_held (d : Dev) (k res : Nat) : (d.pairAnswer k res).mg.held = d.mg.held := by simp [pairAnswer]
@[simp] theorem handoverStart_held (d : Dev) (k r : Nat) :
    (d.handoverStart k r).mg.held = d.mg.held := by simp [handoverStart]
@[simp] theorem pairJoin_held (d : Dev) (init k : Nat) : (d.pairJoin init k).mg.held = d.mg.held := by simp [pairJoin]
@[simp] theorem pairSplitReq_held (d : Dev) (init k : Nat) : (d.pairSplitReq init k).mg.held = d.mg.held := by
  simp [pairSplitReq]
@[simp] theorem pairWrite_held (d : Dev) (init k v : Nat) : (d.pairWrite init k v).mg.held = d.mg.held := by
  unfold pairWrite
  split <;> simp
@[simp] theorem wdogKick_held (d : Dev) (init v : Nat) : (d.wdogKick init v).mg.held = d.mg.held := by simp [wdogKick]
@[simp] theorem wdogCfgWrite_held (d : Dev) (staged : Bool) (v m : Nat) :
    (d.wdogCfgWrite staged v m).mg.held = d.mg.held := by
  simp [wdogCfgWrite]
@[simp] theorem sepiaEnterCmd_held (d : Dev) (init : Nat) : (d.sepiaEnterCmd init).mg.held = d.mg.held := by
  simp [sepiaEnterCmd]
@[simp] theorem sepiaExitCmd_held (d : Dev) (init : Nat) : (d.sepiaExitCmd init).mg.held = d.mg.held := by simp [sepiaExitCmd]
@[simp] theorem sepiaCtlWrite_held (d : Dev) (init v : Nat) : (d.sepiaCtlWrite init v).mg.held = d.mg.held := by
  simp [sepiaCtlWrite]

/-! #### Mailbox -/

@[simp] theorem mbEnd_held (d : Dev) (n res : Nat) : (d.mbEnd n res).mg.held = d.mg.held := by simp [mbEnd]
@[simp] theorem mbCmdWrite_held (d : Dev) (n v : Nat) : (d.mbCmdWrite n v).mg.held = d.mg.held := by simp [mbCmdWrite]
@[simp] theorem fuseNo_held (d : Dev) (op : FuseOp) : (d.fuseNo op).mg.held = d.mg.held := by
  unfold fuseNo
  split <;> simp
@[simp] theorem flashNo_held (d : Dev) (op : FlashOp) : (d.flashNo op).mg.held = d.mg.held := by
  cases op <;> simp [flashNo]
@[simp] theorem flashAsk_held (d : Dev) (op : FlashOp) : (d.flashAsk op).mg.held = d.mg.held := by
  have asked := flashQueue_held d op
  unfold flashAsk
  split <;> simp_all
@[simp] theorem hashWrite_held (d : Dev) (init v : Nat) : (d.hashWrite init v).mg.held = d.mg.held := by simp [hashWrite]

/-! #### RegWrite -/

@[simp] theorem bindWrite_held (d : Dev) (staged : Bool) (init n v : Nat) :
    (d.bindWrite staged init n v).mg.held = d.mg.held := by simp [bindWrite]
@[simp] theorem ringRxCfg_held (d : Dev) (staged : Bool) (i v : Nat) : (d.ringRxCfg staged i v).mg.held = d.mg.held := by
  simp [ringRxCfg]
@[simp] theorem ctxCmdWrite_held (d : Dev) (u v : Nat) : (d.ctxCmdWrite u v).mg.held = d.mg.held := by
  unfold ctxCmdWrite
  split <;> simp
@[simp] theorem ctxFieldWrite_held (d : Dev) (u : Nat) (g : CxCtx → CxCtx) : (d.ctxFieldWrite u g).mg.held = d.mg.held := by
  simp [ctxFieldWrite]
@[simp] theorem intfWrite_held (d : Dev) (staged : Bool) (p v m : Nat) : (d.intfWrite staged p v m).mg.held = d.mg.held := by
  simp [intfWrite]
@[simp] theorem stepCfgWrite_held (d : Dev) (staged : Bool) (p v m : Nat) :
    (d.stepCfgWrite staged p v m).mg.held = d.mg.held := by simp [stepCfgWrite]
@[simp] theorem gateCfgWrite_held (d : Dev) (staged : Bool) (p v m : Nat) :
    (d.gateCfgWrite staged p v m).mg.held = d.mg.held := by simp [gateCfgWrite]
@[simp] theorem ethHostWrite_held (d : Dev) (staged : Bool) (h v m : Nat) :
    (d.ethHostWrite staged h v m).mg.held = d.mg.held := by simp [ethHostWrite]
@[simp] theorem segCmdWrite_held (d : Dev) (s v : Nat) : (d.segCmdWrite s v).mg.held = d.mg.held := by
  unfold segCmdWrite
  split <;> simp
@[simp] theorem swRaise_held (d : Dev) (init v : Nat) : (d.swRaise init v).mg.held = d.mg.held := by simp [swRaise]
@[simp] theorem logGo_held (d : Dev) : d.logGo.mg.held = d.mg.held := by simp [logGo]
@[simp] theorem gangApply_held (d : Dev) (p v m : Nat) : (d.gangApply p v m).mg.held = d.mg.held := by simp [gangApply]
@[simp] theorem regPut_held (d : Dev) (staged : Bool) (init u : Nat) (r : Reg) (i v m : Nat) :
    (d.regPut staged init u r i v m).mg.held = d.mg.held := by
  unfold regPut
  extract_lets +onlyGivenNames x w
  split <;> simp
@[simp] theorem regWriteM_held (d : Dev) (staged : Bool) (init off v m : Nat) :
    (d.regWriteM staged init off v m).mg.held = d.mg.held := by
  unfold regWriteM
  repeat' split
  all_goals simp
@[simp] theorem regWrite_held (d : Dev) (init off v : Nat) : (d.regWrite init off v).mg.held = d.mg.held := by simp [regWrite]

/-! #### Recovery -/

@[simp] theorem recovInstall_held (d : Dev) (c : List Byte) : (d.recovInstall c).mg.held = d.mg.held := by simp [recovInstall]
@[simp] theorem recovChunk_held (d : Dev) (v : Nat) : (d.recovChunk v).mg.held = d.mg.held := by simp [recovChunk]
@[simp] theorem recovDone_held (d : Dev) (total : Nat) : (d.recovDone total).mg.held = d.mg.held := by simp [recovDone]

/-! #### Host -/

@[simp] theorem busWrite_held (d : Dev) (init off v : Nat) : (d.busWrite init off v).mg.held = d.mg.held := by
  unfold busWrite
  split <;> simp

end Dev
end Sys2Proof.Machine
end
section
/-! ### A function level reset: what its later steps leave alone (R424) -/
namespace Sys2Proof.Machine
namespace Dev

/-- The registers in which a function level reset leaves what R424 asks. -/
def flrSeen : Reg → Bool
  | .hrRxCfg | .hrTxCfg | .hbFarErrLatch | .hbAccErrRec | .moWinSel => true
  | _ => false

/-- What the registers of `flrSeen` hold in a register file. -/
def flrView (g : Sparse Word) (r : Reg) (i : Nat) : Word := if flrSeen r then Sparse.get regDefault g (regKey r i) else 0

theorem rd_of_flrView {d e : Dev} (h : flrView e.regs = flrView d.regs) {r : Reg} (hr : flrSeen r = true) (i : Nat) :
    e.rd r i = d.rd r i := by simpa [flrView, hr, rd] using congrFun (congrFun h r) i

theorem flrView_of_rd {d e : Dev} (h : ∀ r i, flrSeen r = true → e.rd r i = d.rd r i) : flrView e.regs = flrView d.regs := by
  funext r i
  by_cases hr : flrSeen r = true
  · simpa [flrView, hr, rd] using h r i hr
  · simp [flrView, hr]

@[simp] theorem wr_flrView {r : Reg} (h : flrSeen r = false) (d : Dev) (i : Nat) (v : Word) :
    flrView (d.wr r i v).regs = flrView d.regs :=
  flrView_of_rd fun x k hx => rd_wr_ne d (.inl (by rintro rfl; simp_all)) v

@[simp] theorem sf_flrView {F : RField} (h : flrSeen F.reg = false) (d : Dev) (i v : Nat) :
    flrView (d.sf F i v).regs = flrView d.regs := wr_flrView h _ _ _

theorem not_mem_raiseRegs_of_flrSeen {r : Reg} (h : flrSeen r = true) : r ∉ raiseRegs := by
  intro hr
  simp only [raiseRegs, eventRegs, List.cons_append, List.nil_append, List.mem_cons, List.not_mem_nil, or_false] at hr
  rcases hr with rfl | rfl | rfl | rfl | rfl | rfl | rfl | rfl <;> simp [flrSeen] at h

@[simp] theorem raise_flrView (d : Dev) (s inst info : Nat) : flrView (d.raise s inst info).regs = flrView d.regs :=
  flrView_of_rd fun _ i hr => rd_raise (not_mem_raiseRegs_of_flrSeen hr) d s inst info i

@[simp] theorem flrView_ite (c : Prop) [Decidable c] (a b : Dev) :
    flrView (if c then a else b).regs = if c then flrView a.regs else flrView b.regs :=
  apply_ite (fun d : Dev => flrView d.regs) c a b

@[simp] theorem flrView_foldl {β : Type} {f : Dev → β → Dev}
    (h : ∀ d x, flrView (f d x).regs = flrView d.regs) (l : List β) (d : Dev) :
    flrView (l.foldl f d).regs = flrView d.regs :=
  foldl_keeps (fun e => flrView e.regs = flrView d.regs) f (fun e x k => (h e x).trans k) l rfl

@[simp] theorem giveCells_flrView (d : Dev) (k : Nat) :
    flrView (d.giveCells k).regs = flrView d.regs := by simp +decide [giveCells]
@[simp] theorem setGrp_flrView (d : Dev) (g : Nat) (c : CellGrp) : flrView (d.setGrp g c).regs = flrView d.regs := rfl
@[simp] theorem release_flrView (d : Dev) (g : Nat) : flrView (d.release g).regs = flrView d.regs := by simp +decide [release]
@[simp] theorem setRx_flrView (d : Dev) (i : Nat) (x : RxRing) :
    flrView (d.setRx i x).regs = flrView d.regs := by simp +decide [setRx]
@[simp] theorem rxDropAll_flrView (d : Dev) (i : Nat) :
    flrView (d.rxDropAll i).regs = flrView d.regs := by simp +decide [rxDropAll]
@[simp] theorem coeSend_flrView (d : Dev) (n typ status seq detail : Nat) (payload : List Byte) :
    flrView (d.coeSend n typ status seq detail payload).regs = flrView d.regs := by simp +decide [coeSend]
@[simp] theorem setCoe_flrView (d : Dev) (n : Nat) (x : CoeDom) : flrView (d.setCoe n x).regs = flrView d.regs := rfl
@[simp] theorem coeTxDone_flrView (d : Dev) (n ring idx : Nat) (payload : List Byte) :
    flrView (d.coeTxDone n ring idx payload).regs = flrView d.regs := by
  unfold coeTxDone
  dsimp only
  split <;> simp
@[simp] theorem hostDma_flrView (d : Dev) (n addr : Nat) (bs : List Byte) :
    flrView (d.hostDma n addr bs).regs = flrView d.regs := by
  unfold hostDma
  split <;> simp +decide
@[simp] theorem ringWrite_flrView (d : Dev) (i addr : Nat) (bs : List Byte) :
    flrView (d.ringWrite i addr bs).regs = flrView d.regs := by simp +decide [ringWrite]
@[simp] theorem sendVector_flrView (d : Dev) (n v : Nat) : flrView (d.sendVector n v).regs = flrView d.regs := by
  unfold sendVector
  split <;> simp +decide
@[simp] theorem ringVector_flrView (d : Dev) (i v : Nat) :
    flrView (d.ringVector i v).regs = flrView d.regs := by simp +decide [ringVector]
@[simp] theorem setTx_flrView (d : Dev) (i : Nat) (x : TxRing) : flrView (d.setTx i x).regs = flrView d.regs := rfl
@[simp] theorem txIrq_flrView (d : Dev) (i : Nat) : flrView (d.txIrq i).regs = flrView d.regs := by simp +decide [txIrq]
@[simp] theorem txFinish_flrView (d : Dev) (i : Nat) (x : TxCur) (time st : Nat) :
    flrView (d.txFinish i x time st).regs = flrView d.regs := by simp +decide [txFinish]
@[simp] theorem paShow_flrView (d : Dev) (a : Nat) : flrView (d.paShow a).regs = flrView d.regs := by simp +decide [paShow]
@[simp] theorem setAcct_flrView (d : Dev) (a : Nat) (x : PaAcct) :
    flrView (d.setAcct a x).regs = flrView d.regs := by simp +decide [setAcct]
@[simp] theorem mbEnd_flrView (d : Dev) (n res : Nat) :
    flrView (d.mbEnd n res).regs = flrView d.regs := by simp +decide [mbEnd]
@[simp] theorem mbCut_flrView (d : Dev) (n : Nat) : flrView (d.mbCut n).regs = flrView d.regs := by simp +decide [mbCut]
@[simp] theorem setUser_flrView (d : Dev) (u : Nat) (x : CxUser) :
    flrView (d.setUser u x).regs = flrView d.regs := by simp +decide [setUser]
@[simp] theorem paRelease_flrView (d : Dev) (a : Nat) (who : PaFor) :
    flrView (d.paRelease a who).regs = flrView d.regs := by simp +decide [paRelease]
@[simp] theorem paWithdraw_flrView (d : Dev) (a : Nat) (who : PaFor) :
    flrView (d.paWithdraw a who).regs = flrView d.regs := by simp +decide [paWithdraw]
@[simp] theorem cxEnd_flrView (d : Dev) (u : Nat) (j : CxJob) (status detail outLen : Nat) :
    flrView (d.cxEnd u j status detail outLen).regs = flrView d.regs := by simp +decide [cxEnd]
@[simp] theorem cxPageRestart_flrView (d : Dev) (u : Nat) :
    flrView (d.cxPageRestart u).regs = flrView d.regs := by simp +decide [cxPageRestart]
@[simp] theorem cxDelivery_flrView (d : Dev) (u : Nat) (j : CxJob) (f : Delivery → Delivery) :
    flrView (d.cxDelivery u j f).regs = flrView d.regs := setRx_flrView ..
@[simp] theorem setJob_flrView (d : Dev) (u : Nat) (j : CxJob) :
    flrView (d.setJob u j).regs = flrView d.regs := by simp +decide [setJob]
@[simp] theorem cxFinish_flrView (d : Dev) (u : Nat) (j : CxJob) (status detail : Nat) :
    flrView (d.cxFinish u j status detail).regs = flrView d.regs := by simp +decide [cxFinish]
@[simp] theorem cxCut_flrView (d : Dev) (u : Nat) : flrView (d.cxCut u).regs = flrView d.regs := by
  unfold cxCut
  refine flrView_foldl (fun e j => ?_) _ d
  split <;> simp +decide
@[simp] theorem setFarQueue_flrView (d : Dev) (w : Nat) (l : List FarWrite) :
    flrView (d.setFarQueue w l).regs = flrView d.regs := rfl
@[simp] theorem setHeldAccs_flrView (d : Dev) (n : Nat) (l : List HeldAcc) :
    flrView (d.setHeldAccs n l).regs = flrView d.regs := rfl
@[simp] theorem setState_flrView (d : Dev) (u s : Nat) :
    flrView (d.setState u s).regs = flrView d.regs := by simp +decide [setState]
@[simp] theorem txnOpen_flrView (d : Dev) (t : Txn) : flrView (d.txnOpen t).regs = flrView d.regs := by simp +decide [txnOpen]
@[simp] theorem txnNext_flrView (d : Dev) : flrView d.txnNext.regs = flrView d.regs := by
  unfold txnNext
  split <;> simp +decide
@[simp] theorem slotFree_flrView (d : Dev) (c s : Nat) :
    flrView (d.slotFree c s).regs = flrView d.regs := by simp +decide [slotFree]
@[simp] theorem slotsRetire_flrView (d : Dev) : flrView d.slotsRetire.regs = flrView d.regs := by simp +decide [slotsRetire]
@[simp] theorem cmdEnd_flrView (d : Dev) (u tag res : Nat) :
    flrView (d.cmdEnd u tag res).regs = flrView d.regs := by simp +decide [cmdEnd]
@[simp] theorem dropOp_flrView (d : Dev) (o : UnitOp) : flrView (d.dropOp o).regs = flrView d.regs := by simp +decide [dropOp]
@[simp] theorem onlineEnd_flrView (d : Dev) (u res : Nat) : flrView (d.onlineEnd u res).regs = flrView d.regs := by
  unfold onlineEnd
  split <;> simp +decide
@[simp] theorem setTb_flrView (d : Dev) (t : Nat) (x : TbTable) : flrView (d.setTb t x).regs = flrView d.regs := rfl
@[simp] theorem bgClear_flrView (d : Dev) (t : Nat) : flrView (d.bgClear t).regs = flrView d.regs := by simp +decide [bgClear]
@[simp] theorem bgShow_flrView (d : Dev) (t : Nat) : flrView (d.bgShow t).regs = flrView d.regs := by simp +decide [bgShow]
@[simp] theorem bgFail_flrView (d : Dev) (t res : Nat) :
    flrView (d.bgFail t res).regs = flrView d.regs := by simp +decide [bgFail]
@[simp] theorem setVcore_flrView (d : Dev) (mv : Nat) :
    flrView (d.setVcore mv).regs = flrView d.regs := by simp +decide [setVcore]
@[simp] theorem modeEnd_flrView (d : Dev) (res : Nat) :
    flrView (d.modeEnd res).regs = flrView d.regs := by simp +decide [modeEnd]
@[simp] theorem txnFailed_flrView (d : Dev) (t : Txn) (cause : Nat) :
    flrView (d.txnFailed t cause).regs = flrView d.regs := by
  unfold txnFailed
  split <;> simp +decide
@[simp] theorem txnAbort_flrView (d : Dev) (cause fail : Nat) : flrView (d.txnAbort cause fail).regs = flrView d.regs := by
  unfold txnAbort
  split <;> simp +decide
@[simp] theorem cxSettle_flrView (d : Dev) : flrView d.cxSettle.regs = flrView d.regs := by simp +decide [cxSettle]

theorem f_of_flrView {d e : Dev} (h : flrView e.regs = flrView d.regs) {F : RField} (hF : flrSeen F.reg = true) (i : Nat) :
    e.f F i = d.f F i := by rw [f, rd_of_flrView h hF, f]

/-! #### The rings -/

/-- What a ring's reset does before it writes the ring's registers shows in none of them. -/
theorem exists_flrRing (d : Dev) (i : Nat) : ∃ e : Dev, flrView e.regs = flrView d.regs ∧ d.flrRing i =
    (((((e.sf hrRxCfg_ENABLE i 0).sf hrRxHead_HEAD i 0).sf hrRxTail_TAIL i 0).sf hrTxCfg_ENABLE i 0).sf hrTxHead_HEAD i 0).sf
      hrTxTail_TAIL i 0 := by
  refine ⟨_, ?_, rfl⟩
  split <;> try split
  all_goals simp

/-- A ring's reset disables the ring and no other ring. -/
theorem rxEnable_flrRing (d : Dev) (i j : Nat) :
    (d.flrRing i).f hrRxCfg_ENABLE j = if j = i then 0 else d.f hrRxCfg_ENABLE j := by
  obtain ⟨e, kept, eq⟩ := exists_flrRing d i
  rw [eq, f_sf_ne _ (.inl (by decide)), f_sf_ne _ (.inl (by decide)), f_sf_ne _ (.inl (by decide)),
    f_sf_ne _ (.inl (by decide)), f_sf_ne _ (.inl (by decide))]
  split
  case isTrue h => subst h; rw [f_sf_same _ (by decide) (by decide), Nat.zero_mod]
  case isFalse h => rw [f_sf_ne _ (.inr (Ne.symm h)), f_of_flrView kept rfl]

theorem txEnable_flrRing (d : Dev) (i j : Nat) :
    (d.flrRing i).f hrTxCfg_ENABLE j = if j = i then 0 else d.f hrTxCfg_ENABLE j := by
  obtain ⟨e, kept, eq⟩ := exists_flrRing d i
  rw [eq, f_sf_ne _ (.inl (by decide)), f_sf_ne _ (.inl (by decide))]
  split
  case isTrue h => subst h; rw [f_sf_same _ (by decide) (by decide), Nat.zero_mod]
  case isFalse h =>
    rw [f_sf_ne _ (.inr (Ne.symm h)), f_sf_ne _ (.inl (by decide)), f_sf_ne _ (.inl (by decide)),
      f_sf_ne _ (.inl (by decide)), f_of_flrView kept rfl]

/-- A property that one step of a fold establishes and every step keeps holds at its end. -/
theorem foldl_reaches {α β : Type} (P : α → Prop) (f : α → β → α) {l : List β} {x : β} (hx : x ∈ l)
    (reach : ∀ a, P (f a x)) (keep : ∀ a b, P a → P (f a b)) (a : α) : P (l.foldl f a) := by
  obtain ⟨l₁, l₂, rfl⟩ := List.append_of_mem hx
  rw [List.foldl_append, List.foldl_cons]
  exact foldl_keeps P f keep l₂ (reach _)

theorem rings_disabled (d : Dev) (n : Nat) {r : Nat} (hr : r < 16) :
    ((List.range 16).foldl (fun d r => d.flrRing (16 * n + r)) d).f hrRxCfg_ENABLE (16 * n + r) = 0 ∧
      ((List.range 16).foldl (fun d r => d.flrRing (16 * n + r)) d).f hrTxCfg_ENABLE (16 * n + r) = 0 :=
  foldl_reaches (fun e : Dev => e.f hrRxCfg_ENABLE (16 * n + r) = 0 ∧ e.f hrTxCfg_ENABLE (16 * n + r) = 0) _
    (List.mem_range.2 hr) (fun e => by simp [rxEnable_flrRing, txEnable_flrRing])
    (fun e k h => by simp [rxEnable_flrRing, txEnable_flrRing, h]) d

/-! #### The latches -/

/-- Clearing a latch writes its two registers, and only them. -/
theorem exists_farErrClear (d : Dev) (p : Nat) : ∃ e : Dev, flrView e.regs = flrView d.regs ∧
    d.farErrClear p = (e.wr .hbFarErrLatch p 0).wr .hbFarErrSeq p 0 := by
  unfold farErrClear
  dsimp only
  split
  · exact ⟨d, rfl, rfl⟩
  · exact ⟨_, by simp, rfl⟩

theorem rd_farErrClear (d : Dev) (p q : Nat) {r : Reg} (hr : flrSeen r = true) :
    (d.farErrClear p).rd r q = if r = .hbFarErrLatch ∧ q = p then 0 else d.rd r q := by
  obtain ⟨e, kept, eq⟩ := exists_farErrClear d p
  rw [eq, rd_wr_ne _ (.inl (by rintro rfl; cases hr)), rd_wr, rd_of_flrView kept hr]
  simp only [eq_comm]

theorem latches_cleared (d : Dev) (n : Nat) {w : Nat} (hw : w < 7) :
    ((List.range 7).foldl (fun d w => d.farErrClear (farPair n w)) d).rd .hbFarErrLatch (farPair n w) = 0 :=
  foldl_reaches (fun e : Dev => e.rd .hbFarErrLatch (farPair n w) = 0) _ (List.mem_range.2 hw)
    (fun e => by rw [rd_farErrClear _ _ _ rfl]; simp)
    (fun e k h => by rw [rd_farErrClear _ _ _ rfl]; simp [h]) d

theorem rd_latches_cleared (d : Dev) (n i : Nat) {r : Reg} (hr : flrSeen r = true) (hl : r ≠ .hbFarErrLatch) :
    ((List.range 7).foldl (fun d w => d.farErrClear (farPair n w)) d).rd r i = d.rd r i :=
  foldl_keeps (fun e : Dev => e.rd r i = d.rd r i) _ (fun e w h => by simp [rd_farErrClear e _ _ hr, hl, h]) _ rfl

/-! #### The reset of a function's domain -/

/-- The rings are reset first, then MO_WIN_SEL is cleared, then the latches, then the access record; nothing between or after
these shows in the registers of `flrSeen`. -/
theorem exists_flrDomain (d : Dev) (n : Nat) : ∃ a b : Dev,
    flrView a.regs = flrView ((List.range 16).foldl (fun d r => d.flrRing (16 * n + r)) d).regs ∧
    b.regs = (a.wr .moWinSel n 0).regs ∧
    flrView (d.flrDomain n).regs =
      flrView (((List.range 7).foldl (fun d w => d.farErrClear (farPair n w)) b).wr .hbAccErrRec n 0).regs := by
  unfold flrDomain
  extract_lets d1 d2 h2 d3 mine h3 d4 d5 d6 d7
  refine ⟨((d1.cxCut n).cxPageRestart n).mbCut n, d4, by simp [d1], rfl, ?_⟩
  have aborted : flrView d7.regs = flrView d6.regs := by
    unfold d7
    split
    · split <;> simp
    · rfl
  rw [cxSettle_flrView, aborted]
  exact wr_flrView rfl ..

theorem rd_hbAccErrRec_flrDomain (d : Dev) (n : Nat) : (d.flrDomain n).rd .hbAccErrRec n = 0 := by
  obtain ⟨a, b, rings, sel, latches⟩ := exists_flrDomain d n
  rw [rd_of_flrView latches rfl, rd_wr_same]

theorem rd_hbFarErrLatch_flrDomain (d : Dev) (n : Nat) {w : Nat} (hw : w < 7) :
    (d.flrDomain n).rd .hbFarErrLatch (farPair n w) = 0 := by
  obtain ⟨a, b, rings, sel, latches⟩ := exists_flrDomain d n
  rw [rd_of_flrView latches rfl, rd_wr_ne _ (.inl (by decide)), latches_cleared b n hw]

theorem rd_moWinSel_flrDomain (d : Dev) (n : Nat) : (d.flrDomain n).rd .moWinSel n = 0 := by
  obtain ⟨a, b, rings, sel, latches⟩ := exists_flrDomain d n
  rw [rd_of_flrView latches rfl, rd_wr_ne _ (.inl (by decide)), rd_latches_cleared b n n rfl (by decide), rd, sel, ← rd,
    rd_wr_same]

/-- What becomes of the rings' registers after the rings' own resets: nothing. -/
theorem f_ring_flrDomain (d : Dev) (n i : Nat) {F : RField} (hF : F.reg = .hrRxCfg ∨ F.reg = .hrTxCfg) :
    (d.flrDomain n).f F i = ((List.range 16).foldl (fun d r => d.flrRing (16 * n + r)) d).f F i := by
  obtain ⟨a, b, rings, sel, latches⟩ := exists_flrDomain d n
  have seen : flrSeen F.reg = true := by rcases hF with h | h <;> rw [h] <;> rfl
  obtain ⟨notRec, notLatch, notSel⟩ : F.reg ≠ .hbAccErrRec ∧ F.reg ≠ .hbFarErrLatch ∧ F.reg ≠ .moWinSel := by
    rcases hF with h | h <;> rw [h] <;> decide
  rw [f_of_flrView latches seen, f, rd_wr_ne _ (.inl notRec.symm), rd_latches_cleared b n i seen notLatch, rd, sel, ← rd,
    rd_wr_ne _ (.inl notSel.symm), rd_of_flrView rings seen, f]

theorem enable_flrDomain (d : Dev) (n : Nat) {r : Nat} (hr : r < 16) :
    (d.flrDomain n).f hrRxCfg_ENABLE (16 * n + r) = 0 ∧ (d.flrDomain n).f hrTxCfg_ENABLE (16 * n + r) = 0 := by
  rw [f_ring_flrDomain d n _ (.inl rfl), f_ring_flrDomain d n _ (.inr rfl)]
  exact rings_disabled d n hr

end Dev
end Sys2Proof.Machine
end
section
/-! ### Control over Ethernet: how a request is taken, and what each kind answers (R450 to R452) -/
namespace Sys2Proof.Machine

theorem Sparse.erase_erase {α : Type} (k : Nat) (m : Sparse α) : Sparse.erase k (Sparse.erase k m) = Sparse.erase k m := by
  induction m with
  | nil => rfl
  | cons e m ih =>
    by_cases h : e.1 = k
    · simp [Sparse.erase, h, ih]
    · simp [Sparse.erase, h, ih]

theorem Sparse.erase_insert {α : Type} (k : Nat) (v : α) (m : Sparse α) :
    Sparse.erase k (Sparse.insert k v m) = Sparse.erase k m := by
  induction m with
  | nil => simp [Sparse.erase, Sparse.insert]
  | cons e m ih =>
    by_cases h : k < e.1
    · simp [Sparse.insert, Sparse.erase, h]
    · simp [Sparse.insert, Sparse.erase, h, ih]

/-- The later of two writes at one index stands. -/
theorem Sparse.set_set {α : Type} [DecidableEq α] (d : Nat → α) (m : Sparse α) (k : Nat) (v w : α) :
    Sparse.set d (Sparse.set d m k v) k w = Sparse.set d m k w := by
  have erased : Sparse.erase k (Sparse.set d m k v) = Sparse.erase k m := by
    unfold Sparse.set
    split
    · exact Sparse.erase_erase k m
    · rw [Sparse.erase_insert, Sparse.erase_erase]
  rw [Sparse.set, erased, ← Sparse.set]

namespace Dev

theorem setCoe_setCoe (d : Dev) (n : Nat) (x y : CoeDom) : (d.setCoe n x).setCoe n y = d.setCoe n y := by
  simp only [setCoe, Sparse.set_set]

theorem coeTaken_eq (d : Dev) (n seq : Nat) (rest : List (List Byte)) :
    d.coeTaken n seq rest =
      (d.setCoe n { d.coeDom n with reqs := rest, next := some ((seq + 1) % 65536) }).inc .hbCoeReq (d.bind n - 1) := rfl

@[simp] theorem coeTaken_held (d : Dev) (n seq : Nat) (rest : List (List Byte)) : (d.coeTaken n seq rest).mg.held = d.mg.held := by
  rw [coeTaken_eq, inc_mg, setCoe_held]

theorem mayRead_coeTaken (d : Dev) (n seq : Nat) (rest : List (List Byte)) (k off : Nat) :
    (d.coeTaken n seq rest).mayRead k off = d.mayRead k off := rfl

theorem mayWrite_coeTaken (d : Dev) (n seq : Nat) (rest : List (List Byte)) (k off : Nat) :
    (d.coeTaken n seq rest).mayWrite k off = d.mayWrite k off := rfl

theorem farDown_coeTaken (d : Dev) (n seq : Nat) (rest : List (List Byte)) (w : Nat) :
    (d.coeTaken n seq rest).farDown w = d.farDown w := rfl

theorem farQueue_coeTaken (d : Dev) (n seq : Nat) (rest : List (List Byte)) (w : Nat) :
    (d.coeTaken n seq rest).farQueue w = d.farQueue w := rfl

theorem ethBound_iff {d : Dev} {n : Nat} (hn : n < 16) :
    d.ethBound n = true ↔ d.f hbDomBind_BIND n = 1 ∨ d.f hbDomBind_BIND n = 2 := by
  simp [ethBound, bind, hn]

/-! #### Taking a request -/

/-- A request that is not there, or that is of another type, or comes while the domain is not bound to Ethernet or still runs one,
leaves all as it is. -/
theorem coeRun_idle {d : Dev} {n typ : Nat} (go : Dev → Nat → List Byte → Option Dev)
    (h : (d.coeDom n).reqs = [] ∨ d.ethBound n = false ∨ (d.coeDom n).run ≠ none ∨
      ∃ m rest, (d.coeDom n).reqs = m :: rest ∧ beAt m 1 1 ≠ typ) : d.coeRun n typ go = d := by
  unfold coeRun
  split
  · rfl
  case h_2 m rest head =>
    refine if_pos ?_
    rcases h with h | h | h | ⟨m', rest', h, other⟩
    · simp [h] at head
    · exact .inr (.inl h)
    · exact .inr (.inr (Option.isSome_iff_ne_none.2 h))
    · rw [head] at h
      exact .inl (by rw [(List.cons.inj h).1]; exact other)

section Taken
variable {d : Dev} {n typ : Nat} {m : List Byte} {rest : List (List Byte)} (bound : d.ethBound n = true)
  (head : (d.coeDom n).reqs = m :: rest) (idle : (d.coeDom n).run = none) (type : beAt m 1 1 = typ)
include bound head idle type

/-- A request in its turn is executed on the device with the request taken. -/
theorem coeRun_inTurn (next : (d.coeDom n).next = some (beAt m 4 2))
    (new : ((d.coeDom n).replay.find? fun e => e.1 == beAt m 4 2) = none) (go : Dev → Nat → List Byte → Option Dev) :
    d.coeRun n typ go = (go (d.coeTaken n (beAt m 4 2) rest) (beAt m 4 2) (slice (m.drop 12) 0 (beAt m 6 2))).getD d := by
  simp only [coeRun, head, type, bound, idle, next, new, setCoe_setCoe, coeTaken_eq, ne_eq, not_true_eq_false, Option.isSome_none,
    Bool.true_eq_false, Bool.false_eq_true, or_self, if_false, Option.all_some, beq_self_eq_true, if_true]

/-- A request out of its turn is dropped and counted. -/
theorem coeRun_outOfTurn {k : Nat} (next : (d.coeDom n).next = some k) (other : k ≠ beAt m 4 2)
    (new : ((d.coeDom n).replay.find? fun e => e.1 == beAt m 4 2) = none) (go : Dev → Nat → List Byte → Option Dev) :
    d.coeRun n typ go = (d.setCoe n { d.coeDom n with reqs := rest }).inc .hbCoeBad (d.bind n - 1) := by
  have turn : (k == beAt m 4 2) = false := beq_false_of_ne other
  simp only [coeRun, head, type, bound, idle, next, new, ne_eq, not_true_eq_false, Option.isSome_none,
    Bool.true_eq_false, Bool.false_eq_true, or_self, if_false, Option.all_some, turn]

/-- A request already executed is answered from its copy. -/
theorem coeRun_again {k q t st det : Nat} {p : List Byte} (next : (d.coeDom n).next = some k)
    (old : ((d.coeDom n).replay.find? fun e => e.1 == beAt m 4 2) = some (q, t, st, det, p)) (ht : t ≠ 8)
    (go : Dev → Nat → List Byte → Option Dev) :
    d.coeRun n typ go =
      ((d.setCoe n { d.coeDom n with reqs := rest }).inc .hbCoeReplay (d.bind n - 1)).coeSend n t st (beAt m 4 2) det p := by
  simp only [coeRun, head, type, bound, idle, next, old, ne_eq, not_true_eq_false, Option.isSome_none,
    Bool.true_eq_false, Bool.false_eq_true, or_self, if_false, ht, false_and]

end Taken

/-! #### READ, WRITE and TX -/

theorem coeDoRead_short {p : List Byte} (h : p.length < 8) (d : Dev) (n seq : Nat) :
    d.coeDoRead n seq p = d.coeRespond n seq 2 4 0 [] := if_pos (.inl h)

theorem coeDoWrite_short {p : List Byte} (h : p.length < 8) (d : Dev) (n seq : Nat) :
    d.coeDoWrite n seq p = d.coeRespond n seq 4 4 0 [] := if_pos (.inl h)

theorem coeDoTx_short {p : List Byte} (h : p.length < 8) (d : Dev) (n seq : Nat) :
    d.coeDoTx n seq p = some (d.coeRespond n seq 8 4 0 []) := if_pos (.inl (by omega))

theorem coeDoRead_word {d : Dev} {n off : Nat} {p : List Byte} (len : 8 ≤ p.length) (args : coeArgs p = (off, 4, 1))
    (aligned : off % 4 = 0) (may : d.mayRead n off = true) (seq : Nat) :
    d.coeDoRead n seq p = d.coeRespond n seq 2 0 0 (leBytes 4 (d.read4 off)) := by
  have long : ¬ p.length < 8 := by omega
  simp [coeDoRead, args, long, coeForm, aligned, coeReads, coeRead4, may]

/-- A WRITE of one word is one write of its domain. -/
theorem coeDoWrite_word {d : Dev} {n off : Nat} {p : List Byte} (len : 12 ≤ p.length) (args : coeArgs p = (off, 4, 1))
    (aligned : off % 4 = 0) (seq : Nat) :
    d.coeDoWrite n seq p = d.coeWrites n seq 4 false [(0, off, leAt p 8 4)] := by
  have long : ¬ (p.length < 8 ∨ p.length < 12) := by omega
  simp [coeDoWrite, args, long, coeForm, aligned]

section OneWrite
variable {d : Dev} {n off : Nat} (may : d.mayWrite n off = true)
include may

theorem coeWrites_near (near : farWindow n off = none) (seq k v : Nat) :
    d.coeWrites n seq 4 false [(k, off, v)] = (d.busWrite n off v).coeRespond n seq 4 0 0 [] := by
  simp [coeWrites, may, near]

theorem coeWrites_down {w : Nat} (far : farWindow n off = some w) (down : d.farDown w = true) (seq k v : Nat) :
    d.coeWrites n seq 4 false [(k, off, v)] = d.coeRespond n seq 4 3 (2 * 2 ^ 24 + k) [] := by
  simp [coeWrites, may, far, down]

theorem coeWrites_full {w : Nat} (far : farWindow n off = some w) (up : d.farDown w = false) (full : 32 ≤ (d.farQueue w).length)
    (seq k v : Nat) : d.coeWrites n seq 4 false [(k, off, v)] =
      d.setCoe n { d.coeDom n with run := some ⟨seq, 4, false, k, [(k, off, v)], false⟩ } := by
  simp [coeWrites, may, far, up, full]

theorem coeWrites_queued {w : Nat} (far : farWindow n off = some w) (up : d.farDown w = false) (room : (d.farQueue w).length < 32)
    (seq k v : Nat) : d.coeWrites n seq 4 false [(k, off, v)] =
      ((d.farSeq n w).2.setCoe n { d.coeDom n with run := some ⟨seq, 4, false, k, [], true⟩ }).farEnter w
        ⟨n, (d.farSeq n w).1, off, v, .coe, false⟩ := by
  have same : (d.farSeq n w).2.coeDom n = d.coeDom n := by rw [farSeq, coeDom, sf_host, coeDom]
  simp [coeWrites, may, far, up, room, same]

end OneWrite

/-! #### No request takes the logic side into reset or out of it -/

@[simp] theorem coeRespond_held (d : Dev) (n seq typ status detail : Nat) (p : List Byte) :
    (d.coeRespond n seq typ status detail p).mg.held = d.mg.held := by simp [coeRespond]

@[simp] theorem farEnter_held (d : Dev) (w : Nat) (x : FarWrite) : (d.farEnter w x).mg.held = d.mg.held := by simp [farEnter]

@[simp] theorem farSeq_held (d : Dev) (n w : Nat) : (d.farSeq n w).2.mg.held = d.mg.held := by simp [farSeq]

end Dev
end Sys2Proof.Machine
end
section
/-! ### Functions: reset, configuration, link and binding (R424 to R429, R446, R447) -/
namespace Sys2Proof.Machine
open Dev
namespace Dev

/-! #### Configuration -/

section HostFoot
variable {F : Foot} (host : F.hasPart .host) (pba : F.hasPart .pba) (outs : F.hasPart .outs)
include host pba

theorem within_withHost (d : Dev) (x : Bridge) : d.Within { d with host := x } F := by
  refine .parts rfl rfl fun p n => ?_
  cases p
  case host => exact absurd host n
  case pba => exact absurd pba n
  all_goals simp [Part.same]

theorem within_setFn (d : Dev) (n : Nat) (x : PciFn) : d.Within (d.setFn n x) F := within_withHost host pba d _

include outs

theorem within_dmaFlush (d : Dev) (n : Nat) : d.Within (d.dmaFlush n) F := by
  unfold dmaFlush
  split
  · exact .refl d F
  · exact (within_withHost host pba d _).trans (Within.foldl _ _ (fun e _ _ => .emit e outs _) _)

theorem within_msixFlush (d : Dev) (n : Nat) : d.Within (d.msixFlush n) F := by
  refine Within.foldl _ _ (fun e v _ => ?_) d
  dsimp only
  split
  · exact (within_withHost host pba e _).trans (.emit _ outs _)
  · exact .refl e F

end HostFoot

theorem fn_setFn_same (d : Dev) (n : Nat) (x : PciFn) : (d.setFn n x).fn n = x := Sparse.get_set_same ..

theorem fns_dmaFlush (d : Dev) (n : Nat) : (d.dmaFlush n).host.fns = d.host.fns := by
  unfold dmaFlush
  split
  · rfl
  · exact foldl_keeps (fun e : Dev => e.host.fns = d.host.fns) _ (fun e x h => by rw [emit_host, h]) _ rfl

theorem fns_msixFlush (d : Dev) (n : Nat) : (d.msixFlush n).host.fns = d.host.fns := by
  unfold msixFlush
  apply foldl_keeps (fun e : Dev => e.host.fns = d.host.fns) _ _ _ (Eq.refl d.host.fns)
  intro e v h
  dsimp only
  split
  · rw [emit_host, ← h]
  · exact h

/-- What waited for Bus Master goes out without a change of any function's state. -/
theorem fn_flushed (d : Dev) (n k : Nat) : ((d.dmaFlush n).msixFlush n).fn k = d.fn k := by
  simp only [fn, fns_msixFlush, fns_dmaFlush]

/-- What the state of a PCIe function, and the messages that go out with it, may change. -/
def fnFoot : Foot := { parts := [.host, .pba, .outs] }

theorem within_flushed {F : Foot} (host : F.hasPart .host) (pba : F.hasPart .pba) (outs : F.hasPart .outs) (d : Dev) (n : Nat) :
    d.Within ((d.dmaFlush n).msixFlush n) F :=
  (within_dmaFlush host pba outs d n).trans (within_msixFlush host pba outs _ n)

theorem f_flushed (d : Dev) (n : Nat) (G : RField) (i : Nat) : ((d.dmaFlush n).msixFlush n).f G i = d.f G i := by
  have kept := (within_flushed (F := fnFoot) (.inl (by decide)) (.inl (by decide)) (.inl (by decide)) d n).reg G.reg i
    (by rintro (h | h | ⟨h, -⟩) <;> cases h)
  exact congrArg (fun w : Word => bits G.hi G.lo w.toNat) kept

theorem pcieConfig_virtual {d : Dev} {n : Nat} (there : d.fnExists n = true) (virtual : n % 8 ≠ 0) (x : PciFn) :
    d.pcieConfig n x = ((d.setFn n { x with vfEnable := false, numVfs := 0 }).dmaFlush n).msixFlush n := by
  rw [pcieConfig, if_neg (by simp [there]), if_neg virtual]

theorem pcieConfig_physical {n : Nat} (physical : n % 8 = 0) (d : Dev) (x : PciFn) :
    d.pcieConfig n x =
      (((d.setFn n x).sf hbEp_NUM_VFS (n / 8) (if x.vfEnable then x.numVfs else 0)).dmaFlush n).msixFlush n := by
  have there : d.fnExists n = true := by simp [fnExists, physical]
  rw [pcieConfig, if_neg (by simp [there]), if_pos physical]

theorem pcieConfig_absent {d : Dev} {n : Nat} (absent : d.fnExists n = false) (x : PciFn) : d.pcieConfig n x = d := by
  rw [pcieConfig, if_pos (by simp [absent])]

theorem flr_absent {d : Dev} {n : Nat} (absent : d.fnExists n = false) : d.flr n = d := by
  rw [flr, if_pos (by simp [absent])]

/-- A reset of a virtual function bound to PCIe is the reset of its domain. -/
theorem flr_virtual {d : Dev} {n : Nat} (there : d.fnExists n = true) (virtual : n % 8 ≠ 0) (pcie : d.bind n = 0) :
    d.flr n = d.flrDomain n := by
  simp [flr, there, virtual, pcie]

/-- The configuration of a virtual function: its state, and no bit of SR-IOV. -/
theorem pcieConfig_virtual_spec {d : Dev} {n : Nat} (there : d.fnExists n = true) (virtual : n % 8 ≠ 0) (x : PciFn) :
    (d.pcieConfig n x).fn n = { x with vfEnable := false, numVfs := 0 } ∧ d.Within (d.pcieConfig n x) fnFoot := by
  rw [pcieConfig_virtual there virtual]
  refine ⟨by rw [fn_flushed, fn_setFn_same], ?_⟩
  exact (within_setFn (.inl (by decide)) (.inl (by decide)) d n _).trans
    (within_flushed (.inl (by decide)) (.inl (by decide)) (.inl (by decide)) _ n)

theorem pcieConfig_physical_spec {n : Nat} (physical : n % 8 = 0) (d : Dev) (x : PciFn) (few : x.numVfs < 8) :
    (d.pcieConfig n x).fn n = x ∧ (d.pcieConfig n x).f hbEp_NUM_VFS (n / 8) = (if x.vfEnable then x.numVfs else 0) ∧
      d.Within (d.pcieConfig n x) { fnFoot with regs := [(.hbEp, n / 8)] } := by
  rw [pcieConfig_physical physical]
  refine ⟨?_, ?_, ?_⟩
  · rw [fn_flushed, fn, sf_host]
    exact fn_setFn_same d n x
  · rw [f_flushed, f_sf_same _ (by decide) (by decide)]
    refine Nat.mod_eq_of_lt ?_
    rw [show 2 ^ (hbEp_NUM_VFS.hi + 1 - hbEp_NUM_VFS.lo) = 16 from rfl]
    split <;> omega
  · have host : Foot.hasPart { fnFoot with regs := [(.hbEp, n / 8)] } .host := .inl (by simp [fnFoot])
    have pba : Foot.hasPart { fnFoot with regs := [(.hbEp, n / 8)] } .pba := .inl (by simp [fnFoot])
    have written : (d.setFn n x).Within ((d.setFn n x).sf hbEp_NUM_VFS (n / 8) (if x.vfEnable then x.numVfs else 0))
        { fnFoot with regs := [(.hbEp, n / 8)] } := .sf _ (.inl (by simp)) _
    exact ((within_setFn host pba d n x).trans written).trans (within_flushed host pba (.inl (by simp [fnFoot])) _ n)

/-! #### The link -/

theorem pcieLink_spec (d : Dev) (e : Nat) (up : Bool) (speed width : Nat) :
    (d.pcieLink e up speed width).f hbEp_LINK_UP e = (if up then 1 else 0) ∧
      (d.pcieLink e up speed width).f hbEp_SPEED e = speed % 2 ^ (hbEp_SPEED.hi - hbEp_SPEED.lo + 1) ∧
      (d.pcieLink e up speed width).f hbEp_WIDTH e = width % 2 ^ (hbEp_WIDTH.hi - hbEp_WIDTH.lo + 1) ∧
      d.Within (d.pcieLink e up speed width) { regs := [(.hbEp, e)] } := by
  unfold pcieLink
  refine ⟨?_, ?_, f_sf_same _ (by decide) (by decide) e _, ?_⟩
  · rw [f_sf_apart _ (by decide) (by decide) (by decide) (by decide), f_sf_apart _ (by decide) (by decide) (by decide) (by decide),
      f_sf_same _ (by decide) (by decide)]
    cases up <;> rfl
  · rw [f_sf_apart _ (by decide) (by decide) (by decide) (by decide)]
    exact f_sf_same _ (by decide) (by decide) e _
  · exact ((Within.sf d (.inl (by simp)) _).trans (.sf _ (.inl (by simp)) _)).trans (.sf _ (.inl (by simp)) _)

/-! #### The binding of a ring set -/

/-- Where HbDomBind of each domain stands. -/
theorem domBind_place : ∀ n : Fin 16, unitAt (0x080080 + 4 * n.val) = some uHb ∧ inWindow (0x080080 + 4 * n.val) = false ∧
    mgClosed (0x080080 + 4 * n.val) = false ∧ regAt (0x080080 + 4 * n.val) = some (.hbDomBind, n.val) := by
  decide +kernel

theorem mayWrite_of_owner {d : Dev} {init : Nat} (may : init = 0 ∨ init = 16) (off : Nat) : d.mayWrite init off = true := by
  rw [mayWrite, if_pos may]

/-- No domain's page holds HbDomBind. -/
theorem not_mayWrite_domBind {d : Dev} {init : Nat} (h : ¬ (init = 0 ∨ init = 16)) (n : Fin 16) :
    d.mayWrite init (0x080080 + 4 * n.val) = false := by
  have page : (0x080080 + 4 * n.val) / 0x100 = 0x800 := by omega
  have apart : (0x800 == 0x810 + init) = false := beq_false_of_ne (by omega)
  rw [mayWrite, if_neg h, if_pos (by omega)]
  dsimp only
  rw [page, apart, Bool.false_and]

/-- A permitted write of HbDomBind is a write of its binding. -/
theorem initWrite_domBind {d : Dev} {init : Nat} (may : init = 0 ∨ init = 16) (n : Fin 16) (v : Word) :
    d.initWrite init (0x080080 + 4 * n.val) v.toNat = d.bindWrite false init n v.toNat := by
  obtain ⟨hu, hw, hm, hr⟩ := domBind_place n
  rw [initWrite_permitted (mayWrite_of_owner may _), busWrite_eq_regWrite (by simp [hr]) (by simp [hr]),
    regWrite_of_regAt hu hw (.inr hm) hr rfl, if_pos (by decide)]
  show d.bindWrite false init n (d.regAskedView .hbDomBind n v.toNat (2 ^ 32 - 1)) = _
  rw [regAskedView, mergeBits_full v.isLt]

theorem bindWrite_zero (d : Dev) (staged : Bool) (init v : Nat) : d.bindWrite staged init 0 v = d := if_pos rfl

theorem bindWrite_offline {d : Dev} {init n : Nat} (may : init = 0 ∨ init = 16) (hn : n ≠ 0) (off : d.actsAs (uHr n) = stOffline)
    (v : Nat) : d.bindWrite false init n v = d.sf hbDomBind_BIND n v := by
  have ok : d.regCheck .hbDomBind n v = true := by simp [regCheck, off]
  have writer : writerOk .hbDomBind init = true := by simpa [writerOk] using may
  rw [bindWrite, if_neg hn, if_neg (by simp [ok, writer])]

/-- A denied write of HbDomBind counts as denied and as rejected, and is recorded as any denied access is. -/
theorem accDenied_domBind {off i : Nat} (h : regAt off = some (.hbDomBind, i)) (d : Dev) (n size : Nat) :
    d.accDenied n true off size =
      if (((d.inc .hbDenyWr n).rejWr uHb).accRecord n true false 2 off size).1
      then (((d.inc .hbDenyWr n).rejWr uHb).accRecord n true false 2 off size).2.raise 22 n 2
      else (((d.inc .hbDenyWr n).rejWr uHb).accRecord n true false 2 off size).2 := by
  simp only [accDenied, h, if_true]
  split <;> simp_all

theorem ctr_accDenied_domBind {off i : Nat} (h : regAt off = some (.hbDomBind, i)) (d : Dev) (n size : Nat) {c : Ctr} {k : Nat}
    (quiet : c ∉ raiseCtrs) :
    (d.accDenied n true off size).ctr c k = ((d.inc .hbDenyWr n).rejWr uHb).ctr c k := by
  rw [accDenied_domBind h]
  split
  · rw [ctr_raise quiet, ctr_accRecord]
  · rw [ctr_accRecord]

theorem denied_domBind_spec {off i : Nat} (h : regAt off = some (.hbDomBind, i)) (d : Dev) (n size : Nat) :
    (d.accDenied n true off size).ctr .hbDenyWr n = d.ctr .hbDenyWr n + 1 ∧
      (d.accDenied n true off size).ctr .unitRejWr uHb = d.ctr .unitRejWr uHb + 1 ∧
      (d.accDenied n true off size).rd .hbDomBind i = d.rd .hbDomBind i := by
  refine ⟨?_, ?_, ?_⟩
  · rw [ctr_accDenied_domBind h d n size (by decide), rejWr, ctr_inc_ne _ (.inl (by decide)), ctr_inc_same]
  · rw [ctr_accDenied_domBind h d n size (by decide), rejWr, ctr_inc_same, ctr_inc_ne _ (.inl (by decide))]
  · have recorded := (within_accRecord ((d.inc .hbDenyWr n).rejWr uHb) n true false 2 off size (F := denyFoot n)
      (.inl (by simp [denyFoot])) (.inl (by simp [denyFoot]))).reg .hbDomBind i (by simp [Foot.hasReg, denyFoot, eventRegs])
    have counted : ((d.inc .hbDenyWr n).rejWr uHb).rd .hbDomBind i = d.rd .hbDomBind i := by
      rw [rd, rejWr, inc_regs, inc_regs, ← rd]
    rw [accDenied_domBind h]
    split
    · rw [rd_raise (by decide), recorded, counted]
    · rw [recorded, counted]

end Dev
end Sys2Proof.Machine
end
section
/-! ### O44: functions and control over Ethernet -/
namespace Sys2Proof.Machine
open Dev

theorem exec_functionLevelReset (n : Fin 16) (s : State) : exec (.functionLevelReset n) s = s.logic fun d => d.flr n := rfl

theorem exec_pcieConfigWrite (n : Fin 16) (bme mse d3 vf : Bool) (k : Fin 8) (s : State) :
    exec (.pcieConfigWrite n bme mse d3 vf k) s = s.logic fun d => d.pcieConfig n ⟨bme, mse, d3, vf, k⟩ := rfl

theorem exec_pcieLinkChange (e : Fin 2) (up : Bool) (speed width : Fin 5) (s : State) :
    exec (.pcieLinkChange e up speed width) s = s.logic fun d => d.pcieLink e up speed width := rfl

theorem exec_domBindWrite (init : Initiator) (n : Fin 16) (v : Word) (s : State) :
    exec (.domBindWrite init n v) s = s.logic fun d => d.initWrite init (0x080080 + 4 * n.val) v.toNat := rfl

theorem exec_coeRead (n : Fin 16) (s : State) :
    exec (.coeRead n) s = s.logic fun d => d.coeRun n 1 fun d seq p => some (d.coeDoRead n seq p) := rfl

theorem exec_coeWrite (n : Fin 16) (s : State) :
    exec (.coeWrite n) s = s.logic fun d => d.coeRun n 3 fun d seq p => some (d.coeDoWrite n seq p) := rfl

theorem exec_coeTx (n : Fin 16) (s : State) :
    exec (.coeTx n) s = s.logic fun d => d.coeRun n 7 fun d seq p => d.coeDoTx n seq p := rfl

/-- A command of the logic side that takes a device out of reset to `d`, itself out of reset, runs to `d`. -/
theorem runs_logic_to {c : Instr} {s : State} {f : Dev → Dev} {d : Dev} {P : Dev → Prop} (on : s.On) (hc : exec c s = s.logic f)
    (hf : f s.dev = d) (held : d.mg.held = s.dev.mg.held) (hp : P d) : Runs c s P :=
  runs_logic_of_held on hc (by rw [hf, held]) (by rw [hf]; exact hp)

theorem rd_powered (d : Dev) (r : Reg) (i : Nat) : d.powered.rd r i = d.rd r i := rfl

theorem f_powered (d : Dev) (F : RField) (i : Nat) : d.powered.f F i = d.f F i := rfl

/-- A change outside the management subsystem's part leaves the logic side in or out of reset. -/
theorem Dev.Within.held {a b : Dev} {F : Foot} (h : a.Within b F) (mg : ¬ F.hasPart .mg) : b.mg.held = a.mg.held := by
  have same : ({ b.mg with chain := 0, lost := 0 } : Mgmt) = { a.mg with chain := 0, lost := 0 } := h.part .mg mg
  have held := congrArg (fun m : Mgmt => m.held) same
  exact held

/-- What a command of the logic side does under a premise it does where the premise holds. -/
theorem runs_logic_imp {c : Instr} {s : State} {f : Dev → Dev} {p : Prop} {P : Dev → Prop} (on : s.On)
    (hc : exec c s = s.logic f) (h : p → Runs c s P) : Runs c s fun d => p → P d :=
  (runs_logic_iff on hc).2 fun hp => (runs_logic_iff on hc).1 (h hp)

/-! #### Requests over Ethernet -/

section Requests
variable {c : Instr} {s : State} {n typ : Nat} {go : Dev → Nat → List Byte → Option Dev} (on : s.On)
  (hc : exec c s = s.logic fun d => d.coeRun n typ go)
include on hc

theorem runs_coe_idle (h : (s.dev.coeDom n).reqs = [] ∨ s.dev.ethBound n = false ∨ (s.dev.coeDom n).run ≠ none) :
    Runs c s fun d => d = s.dev :=
  runs_logic_to on hc (coeRun_idle go (by tauto)) rfl rfl

theorem runs_coe_other {m : List Byte} {rest : List (List Byte)} (head : (s.dev.coeDom n).reqs = m :: rest) :
    Runs c s fun d => beAt m 1 1 ≠ typ → d = s.dev :=
  runs_logic_imp on hc fun other => runs_logic_to on hc (coeRun_idle go (.inr (.inr (.inr ⟨m, rest, head, other⟩)))) rfl rfl

theorem runs_coe_inTurn {m : List Byte} {rest : List (List Byte)} {d : Dev} (bound : s.dev.ethBound n = true)
    (head : (s.dev.coeDom n).reqs = m :: rest) (idle : (s.dev.coeDom n).run = none)
    (next : (s.dev.coeDom n).next = some (beAt m 4 2))
    (new : ((s.dev.coeDom n).replay.find? fun e => e.1 == beAt m 4 2) = none) (type : beAt m 1 1 = typ)
    (hgo : go (s.dev.coeTaken n (beAt m 4 2) rest) (beAt m 4 2) (slice (m.drop 12) 0 (beAt m 6 2)) = some d)
    (held : d.mg.held = s.dev.mg.held) : Runs c s fun e => e = d :=
  runs_logic_to on hc (by rw [coeRun_inTurn bound head idle type next new, hgo, Option.getD_some]) held rfl

end Requests

/-- Settles O44. Each clause is the effect of one command, stated as a lemma about it; what a WRITE over Ethernet answers is on a
device out of reset, because no write of a register takes the logic side into reset. -/
theorem functionsAndEthernetControl : Obligations.FunctionsAndEthernetControl := by
  unfold Obligations.FunctionsAndEthernetControl
  intro s n on
  have bound (h : s.dev.f hbDomBind_BIND n = 1 ∨ s.dev.f hbDomBind_BIND n = 2) : s.dev.ethBound n = true :=
    (ethBound_iff n.isLt).2 h
  have virtual (h : n % 8 ≠ 0) : n.val % 8 ≠ 0 := fun e => h (Fin.ext e)
  refine ⟨?ident, ?absent, ?reset, ?configVirtual, ?configPhysical, ?link, ?bindZero, ?bindOffline, ?bindDenied, ?none, ?otherType,
    ?outOfTurn, ?again, ?short, ?read, ?writeNear, ?writeQueued, ?writeFull, ?writeDown⟩
  case ident =>
    refine ⟨rfl, rfl, ?_⟩
    split
    case isTrue h =>
      have physical : n.val % 8 = 0 := congrArg Fin.val h
      simp [pciIdent, physical]
    case isFalse h => simp [pciIdent, virtual h, vfIdent]
  case absent =>
    intro bme mse d3 vf k absent c hc
    simp only [List.mem_cons, List.not_mem_nil, or_false] at hc
    rcases hc with rfl | rfl
    · exact runs_logic_to on (exec_functionLevelReset ..) (flr_absent absent) rfl rfl
    · exact runs_logic_to on (exec_pcieConfigWrite ..) (pcieConfig_absent absent _) rfl rfl
  case reset =>
    intro r w hn there pcie
    rw [runs_logic_iff on (exec_functionLevelReset ..), flr_virtual there (virtual hn) pcie]
    obtain ⟨rx, tx⟩ := enable_flrDomain s.dev n r.isLt
    simp only [f_powered, rd_powered]
    exact ⟨rx, tx, rd_hbFarErrLatch_flrDomain s.dev n w.isLt, rd_hbAccErrRec_flrDomain s.dev n, rd_moWinSel_flrDomain s.dev n⟩
  case configVirtual =>
    intro bme mse d3 vf k hn there
    obtain ⟨state, within⟩ := pcieConfig_virtual_spec there (virtual hn) ⟨bme, mse, d3, vf, k⟩
    exact runs_logic_of_held on (exec_pcieConfigWrite ..) (within.held (by simp [Foot.hasPart, fnFoot])) ⟨state, within.only⟩
  case configPhysical =>
    intro bme mse d3 vf k hn
    obtain ⟨state, vfs, within⟩ := pcieConfig_physical_spec (congrArg Fin.val hn) s.dev ⟨bme, mse, d3, vf, k⟩ k.isLt
    exact runs_logic_of_held on (exec_pcieConfigWrite ..) (within.held (by simp [Foot.hasPart, fnFoot]))
      ⟨state, vfs, within.only⟩
  case link =>
    intro e up speed width
    obtain ⟨hUp, hSpeed, hWidth, within⟩ := pcieLink_spec s.dev e up speed width
    exact runs_logic_of_held on (exec_pcieLinkChange ..) (within.held (by simp [Foot.hasPart]))
      ⟨hUp, hSpeed, hWidth, within.only⟩
  case bindZero =>
    intro init v may hn
    subst hn
    exact runs_logic_to on (exec_domBindWrite ..)
      ((initWrite_domBind (may.imp (congrArg Fin.val) (congrArg Fin.val)) 0 v).trans (bindWrite_zero ..)) rfl rfl
  case bindOffline =>
    intro init v may hn off
    have owner := may.imp (congrArg Fin.val) (congrArg Fin.val)
    refine runs_logic_to on (exec_domBindWrite ..)
      ((initWrite_domBind owner n v).trans (bindWrite_offline owner (fun e => hn (Fin.ext e)) off _)) (by rw [sf_mg]) ⟨?_, ?_⟩
    · exact f_sf_same _ (by decide) (by decide) _ _
    · exact (Within.sf _ (.inl (by simp)) _).only
  case bindDenied =>
    intro init v h0 h16
    obtain ⟨-, -, -, place⟩ := domBind_place n
    have denied : s.dev.initWrite init (0x080080 + 4 * n.val) v.toNat = s.dev.accDenied init true (0x080080 + 4 * n.val) 4 := by
      rw [initWrite_denied (not_mayWrite_domBind (by rintro (e | e); exacts [h0 (Fin.ext e), h16 (Fin.ext e)]) n),
        denyWrite_eq_accDenied (by simp [place])]
    rw [runs_logic_iff on (exec_domBindWrite ..), denied]
    exact denied_domBind_spec place s.dev init 4
  case none =>
    intro h c hc
    simp only [List.mem_cons, List.not_mem_nil, or_false] at hc
    rcases hc with rfl | rfl | rfl
    · exact runs_coe_idle on (exec_coeRead n s) h
    · exact runs_coe_idle on (exec_coeWrite n s) h
    · exact runs_coe_idle on (exec_coeTx n s) h
  case otherType =>
    intro m rest head e he
    simp only [List.mem_cons, List.not_mem_nil, or_false] at he
    rcases he with rfl | rfl | rfl
    · exact runs_coe_other on (exec_coeRead n s) head
    · exact runs_coe_other on (exec_coeWrite n s) head
    · exact runs_coe_other on (exec_coeTx n s) head
  case outOfTurn =>
    intro m rest k bind head idle type next other new
    exact runs_logic_to on (exec_coeRead ..) (coeRun_outOfTurn (bound bind) head idle type next other new _) (by simp) rfl
  case again =>
    intro m rest k q t st det p bind head idle type next old ht
    exact runs_logic_to on (exec_coeRead ..) (coeRun_again (bound bind) head idle type next old ht _) (by simp) rfl
  case short =>
    intro m rest bind head idle next new short e he
    simp only [List.mem_cons, List.not_mem_nil, or_false] at he
    rcases he with rfl | rfl | rfl
    · exact runs_logic_imp on (exec_coeRead n s) fun type => runs_coe_inTurn on (exec_coeRead n s) (bound bind) head idle next new
        type (congrArg some (coeDoRead_short short _ _ _)) (by simp)
    · exact runs_logic_imp on (exec_coeWrite n s) fun type => runs_coe_inTurn on (exec_coeWrite n s) (bound bind) head idle next
        new type (congrArg some (coeDoWrite_short short _ _ _)) (by simp)
    · exact runs_logic_imp on (exec_coeTx n s) fun type => runs_coe_inTurn on (exec_coeTx n s) (bound bind) head idle next new
        type (coeDoTx_short short _ _ _) (by simp)
  case read =>
    intro m rest off bind head idle next new type len args aligned may
    exact runs_coe_inTurn on (exec_coeRead n s) (bound bind) head idle next new type
      (congrArg some (coeDoRead_word len args aligned ((mayRead_coeTaken ..).trans may) _)) (by simp)
  case writeNear =>
    intro m rest off bind head idle next new type len args aligned may near
    exact runs_coe_inTurn on (exec_coeWrite n s) (bound bind) head idle next new type (congrArg some
      ((coeDoWrite_word len args aligned _).trans (coeWrites_near ((mayWrite_coeTaken ..).trans may) near _ _ _))) (by simp)
  case writeQueued =>
    intro m rest off w bind head idle next new type len args aligned may far up room
    exact runs_coe_inTurn on (exec_coeWrite n s) (bound bind) head idle next new type (congrArg some
      ((coeDoWrite_word len args aligned _).trans (coeWrites_queued ((mayWrite_coeTaken ..).trans may) far
        ((farDown_coeTaken ..).trans up) (by rwa [farQueue_coeTaken]) _ _ _))) (by simp)
  case writeFull =>
    intro m rest off w bind head idle next new type len args aligned may far up full
    exact runs_coe_inTurn on (exec_coeWrite n s) (bound bind) head idle next new type (congrArg some
      ((coeDoWrite_word len args aligned _).trans (coeWrites_full ((mayWrite_coeTaken ..).trans may) far
        ((farDown_coeTaken ..).trans up) (by rwa [farQueue_coeTaken]) _ _ _))) (by simp)
  case writeDown =>
    intro m rest off w bind head idle next new type len args aligned may far down
    exact runs_coe_inTurn on (exec_coeWrite n s) (bound bind) head idle next new type (congrArg some
      ((coeDoWrite_word len args aligned _).trans (coeWrites_down ((mayWrite_coeTaken ..).trans may) far
        ((farDown_coeTaken ..).trans down) _ _ _))) (by simp)

end Sys2Proof.Machine
end

section
/-! ### How a command of the logic side completes -/
namespace Sys2Proof.Machine
open Dev

theorem logic_eq_after {s : State} (on : s.On) (f : Dev → Dev) : s.logic f = .next (s.after f) := by
  rw [State.logic, if_neg (by rw [on]; decide), State.after]

/-- A command that is one change of the logic side completes with that change as its effect. -/
theorem exec_eq_after {c : Instr} {s : State} (f : Dev → Dev) (hc : exec c s = s.logic f) (on : s.On) :
    exec c s = .next (s.after f) := hc.trans (logic_eq_after on f)

/-- Settles O59: each of the commands is `State.logic` of the effect that the statement names. -/
theorem commandsComplete : Obligations.CommandsComplete := by
  unfold Obligations.CommandsComplete
  intro s
  and_intros
  all_goals
    intros
    exact exec_eq_after _ rfl ‹s.On›

end Sys2Proof.Machine
end

section
/-! ### Counterexamples of lockstep: a target that is staged or applied with its pair (R454) -/
namespace Sys2Proof.Machine
open Dev

theorem exec_targetStageAnswer (u : Fin 349) (s : State) : exec (.targetStageAnswer u) s = s.logic fun d => d.targetAnswer u := rfl

theorem exec_commitTokenArrival (u : Fin 349) (s : State) : exec (.commitTokenArrival u) s = s.logic fun d => d.tokenArrival u := rfl

/-- Engines 0 and 1 in lockstep, both STAGED out of RUN. -/
def lockstepStaged : Dev :=
  (((((({} : Dev).sf lsPair_STATE 0 pairPaired).sf unitState_STATE (uEng 0) stStaged).sf unitState_PREV_STATE (uEng 0) stRun).sf
    unitState_STATE (uEng 1) stStaged).sf unitState_PREV_STATE (uEng 1) stRun)

/-- The transaction in which engine 0 has answered and taken engine 1 into STAGED along with it, while engines 1 and 2 have still
to answer. -/
def stagedAlongTxn : Txn :=
  { waiting := [uEng 1, uEng 2], staged := [uEng 0], along := [uEng 1] }

/-- The device in which that transaction stages. -/
def stagedAlong : State := { dev := (lockstepStaged.sf epStatus_PHASE 0 phStaging).setTxn (some stagedAlongTxn) }

/-- Refutes O9: a target that its lockstep partner took into STAGED along with it accepts without leaving the state it is in, so that
its PREV_STATE stays RUN and does not become the STAGED it held before it answered. -/
theorem not_stagingAndTargets : ¬ Obligations.StagingAndTargets := by
  unfold Obligations.StagingAndTargets
  intro h
  have on : stagedAlong.On := rfl
  obtain ⟨-, -, -, -, -, accepts, -⟩ := h stagedAlong on
  have accepted := accepts stagedAlongTxn 121 (by decide +kernel) (by decide +kernel) (by decide +kernel) (by decide +kernel)
    (by decide +kernel) (by decide +kernel) (by decide +kernel)
  obtain ⟨-, prev, -⟩ := (runs_logic_iff on (exec_targetStageAnswer ..)).1 accepted
  exact absurd prev (by decide +kernel)

/-- The same engines with a commit token on its way to both. -/
def tokenAtPairTxn : Txn := { staged := [uEng 0, uEng 1], issued := true, token := [uEng 0, uEng 1] }

/-- The device in which the token is under way. -/
def tokenAtPair : State := { dev := lockstepStaged.setTxn (some tokenAtPairTxn) }

/-- Refutes O10: the commit token at an engine in lockstep takes both engines of the pair out of STAGED, so that a register of
another unit than the one it reaches changes. -/
theorem not_commitsAndSnapshots : ¬ Obligations.CommitsAndSnapshots := by
  unfold Obligations.CommitsAndSnapshots
  intro h
  have on : tokenAtPair.On := rfl
  obtain ⟨-, -, -, -, -, token, -⟩ := h tokenAtPair on
  have arrived := token 120 tokenAtPairTxn rfl rfl rfl (by decide +kernel) (by decide +kernel) rfl (by decide +kernel)
    (by decide +kernel) (by decide +kernel) (by decide +kernel) (by decide +kernel)
  obtain ⟨-, -, -, only⟩ := (runs_logic_iff on (exec_commitTokenArrival ..)).1 arrived
  have partner := only.reg .unitState (uEng 1) (by
    unfold Foot.upTo
    split <;> simp [Foot.hasReg, eventRegs, uEng])
  exact absurd partner (by decide +kernel)

end Sys2Proof.Machine
end

section
/-! ### What a command of one unit leaves alone in the units: their states and commands, the phase, the links -/
namespace Sys2Proof.Machine
namespace Dev

/-- The registers that show the units' states and commands, the phase of the transaction and the barrier links. -/
def unitSeen : Reg → Bool
  | .unitState | .unitCmdStatus | .epStatus | .bwLinkStatus => true
  | _ => false

/-- What the registers of `unitSeen` hold in a register file. -/
def unitView (g : Sparse Word) (r : Reg) (i : Nat) : Word := if unitSeen r then Sparse.get regDefault g (regKey r i) else 0

theorem rd_of_unitView {d e : Dev} (h : unitView e.regs = unitView d.regs) {r : Reg} (hr : unitSeen r = true) (i : Nat) :
    e.rd r i = d.rd r i := by simpa [unitView, hr, rd] using congrFun (congrFun h r) i

theorem unitView_of_rd {d e : Dev} (h : ∀ r i, unitSeen r = true → e.rd r i = d.rd r i) : unitView e.regs = unitView d.regs := by
  funext r i
  by_cases hr : unitSeen r = true
  · simpa [unitView, hr, rd] using h r i hr
  · simp [unitView, hr]

theorem f_of_unitView {d e : Dev} (h : unitView e.regs = unitView d.regs) {F : RField} (hF : unitSeen F.reg = true) (i : Nat) :
    e.f F i = d.f F i := by rw [f, rd_of_unitView h hF, f]

@[simp] theorem wr_unitView {r : Reg} (h : unitSeen r = false) (d : Dev) (i : Nat) (v : Word) :
    unitView (d.wr r i v).regs = unitView d.regs :=
  unitView_of_rd fun x k hx => rd_wr_ne d (.inl (by rintro rfl; simp_all)) v

@[simp] theorem sf_unitView {F : RField} (h : unitSeen F.reg = false) (d : Dev) (i v : Nat) :
    unitView (d.sf F i v).regs = unitView d.regs := wr_unitView h _ _ _

@[simp] theorem raise_unitView (d : Dev) (s inst info : Nat) :
    unitView (d.raise s inst info).regs = unitView d.regs ∧ (d.raise s inst info).ops = d.ops := by
  refine ⟨unitView_of_rd fun r i hr => rd_raise ?_ d s inst info i, part_raise (p := .ops) (by decide) d s inst info⟩
  intro hm
  revert hr
  revert hm r
  decide

@[simp] theorem unitView_ite (c : Prop) [Decidable c] (a b : Dev) :
    unitView (if c then a else b).regs = if c then unitView a.regs else unitView b.regs :=
  apply_ite (fun d : Dev => unitView d.regs) c a b

@[simp] theorem ops_ite (c : Prop) [Decidable c] (a b : Dev) : (if c then a else b).ops = if c then a.ops else b.ops :=
  apply_ite (fun d : Dev => d.ops) c a b

@[simp] theorem unitView_foldl {β : Type} {f : Dev → β → Dev}
    (h : ∀ d x, unitView (f d x).regs = unitView d.regs ∧ (f d x).ops = d.ops) (l : List β) (d : Dev) :
    unitView (l.foldl f d).regs = unitView d.regs ∧ (l.foldl f d).ops = d.ops :=
  foldl_keeps (fun e => unitView e.regs = unitView d.regs ∧ e.ops = d.ops) f
    (fun e x k => ⟨(h e x).1.trans k.1, (h e x).2.trans k.2⟩) l ⟨rfl, rfl⟩

@[simp] theorem fresh_unitView (d : Dev) (w : Nat) :
    unitView (d.fresh w).2.regs = unitView d.regs ∧ (d.fresh w).2.ops = d.ops := by simp +decide [fresh]
@[simp] theorem coeSend_unitView (d : Dev) (n typ status seq detail : Nat) (payload : List Byte) :
    unitView (d.coeSend n typ status seq detail payload).regs = unitView d.regs ∧
      (d.coeSend n typ status seq detail payload).ops = d.ops := by simp +decide [coeSend]
@[simp] theorem sendVector_unitView (d : Dev) (n v : Nat) :
    unitView (d.sendVector n v).regs = unitView d.regs ∧ (d.sendVector n v).ops = d.ops := by
  unfold sendVector
  split <;> simp +decide
@[simp] theorem paShow_unitView (d : Dev) (a : Nat) :
    unitView (d.paShow a).regs = unitView d.regs ∧ (d.paShow a).ops = d.ops := by simp +decide [paShow]
@[simp] theorem setAcct_unitView (d : Dev) (a : Nat) (x : PaAcct) :
    unitView (d.setAcct a x).regs = unitView d.regs ∧ (d.setAcct a x).ops = d.ops := by simp +decide [setAcct]
@[simp] theorem paRequest_unitView (d : Dev) (a : Nat) (who : PaFor) (cost : Nat) :
    unitView (d.paRequest a who cost).2.regs = unitView d.regs ∧ (d.paRequest a who cost).2.ops = d.ops := by
  unfold paRequest
  dsimp only
  split <;> simp
@[simp] theorem paWithdraw_unitView (d : Dev) (a : Nat) (who : PaFor) :
    unitView (d.paWithdraw a who).regs = unitView d.regs ∧ (d.paWithdraw a who).ops = d.ops := by
  simp +decide [paWithdraw]
@[simp] theorem paReleaseLast_unitView (d : Dev) (a : Nat) (who : PaFor) :
    unitView (d.paReleaseLast a who).regs = unitView d.regs ∧ (d.paReleaseLast a who).ops = d.ops := by
  simp +decide [paReleaseLast]
@[simp] theorem paRelease_unitView (d : Dev) (a : Nat) (who : PaFor) :
    unitView (d.paRelease a who).regs = unitView d.regs ∧ (d.paRelease a who).ops = d.ops := by
  simp +decide [paRelease]
@[simp] theorem ldShow_unitView (d : Dev) (l : Nat) :
    unitView (d.ldShow l).regs = unitView d.regs ∧ (d.ldShow l).ops = d.ops := by
  unfold ldShow
  split
  · refine unitView_foldl (fun e n => ?_) _ d
    simp +decide
  · exact ⟨rfl, rfl⟩
@[simp] theorem ldUpd_unitView (d : Dev) (l : Nat) (g : LdCh → LdCh) :
    unitView (d.ldUpd l g).regs = unitView d.regs ∧ (d.ldUpd l g).ops = d.ops := by simp +decide [ldUpd]
@[simp] theorem ldEvent_unitView (d : Dev) (l what : Nat) :
    unitView (d.ldEvent l what).regs = unitView d.regs ∧ (d.ldEvent l what).ops = d.ops := by simp +decide [ldEvent]
@[simp] theorem ldFault_unitView (d : Dev) (l : Nat) :
    unitView (d.ldFault l).regs = unitView d.regs ∧ (d.ldFault l).ops = d.ops := by simp +decide [ldFault]
@[simp] theorem ldRelease_unitView (d : Dev) (l : Nat) :
    unitView (d.ldRelease l).regs = unitView d.regs ∧ (d.ldRelease l).ops = d.ops := by simp +decide [ldRelease]
@[simp] theorem ldLeave_unitView (d : Dev) (l : Nat) :
    unitView (d.ldLeave l).regs = unitView d.regs ∧ (d.ldLeave l).ops = d.ops := by simp +decide [ldLeave]
@[simp] theorem ldStartRamp_unitView (d : Dev) (l : Nat) (grant : Bool) :
    unitView (d.ldStartRamp l grant).regs = unitView d.regs ∧ (d.ldStartRamp l grant).ops = d.ops := by
  simp +decide [ldStartRamp]
@[simp] theorem ldBadProfile_unitView (d : Dev) (l : Nat) :
    unitView (d.ldBadProfile l).regs = unitView d.regs ∧ (d.ldBadProfile l).ops = d.ops := by simp +decide [ldBadProfile]
@[simp] theorem ldTurnOn_unitView (d : Dev) (l : Nat) (leave : Bool) :
    unitView (d.ldTurnOn l leave).regs = unitView d.regs ∧ (d.ldTurnOn l leave).ops = d.ops := by
  have asked := paRequest_unitView d (1 + l / 32) (.gang l) (d.ldCost l ((d.ldPhases (l / 32) (d.f ldCfg_PROFILE l)).getD []))
  unfold ldTurnOn
  dsimp only
  repeat' split
  all_goals simp_all +decide
@[simp] theorem ldSwitchOff_unitView (d : Dev) (l : Nat) :
    unitView (d.ldSwitchOff l).regs = unitView d.regs ∧ (d.ldSwitchOff l).ops = d.ops := by simp +decide [ldSwitchOff]
@[simp] theorem ldSwitchOn_unitView (d : Dev) (l : Nat) (leave : Bool) :
    unitView (d.ldSwitchOn l leave).regs = unitView d.regs ∧ (d.ldSwitchOn l leave).ops = d.ops := by
  simp +decide [ldSwitchOn]
@[simp] theorem ldOrder_unitView (d : Dev) (l what : Nat) :
    unitView (d.ldOrder l what).regs = unitView d.regs ∧ (d.ldOrder l what).ops = d.ops := by
  unfold ldOrder
  split <;> simp +decide
@[simp] theorem ldSepia_unitView (d : Dev) :
    unitView d.ldSepia.regs = unitView d.regs ∧ d.ldSepia.ops = d.ops := by simp +decide [ldSepia]
@[simp] theorem ldLinkLost_unitView (d : Dev) (l : Nat) :
    unitView (d.ldLinkLost l).regs = unitView d.regs ∧ (d.ldLinkLost l).ops = d.ops := by simp +decide [ldLinkLost]
@[simp] theorem setGrp_unitView (d : Dev) (g : Nat) (c : CellGrp) :
    unitView (d.setGrp g c).regs = unitView d.regs ∧ (d.setGrp g c).ops = d.ops := by simp +decide [setGrp]
@[simp] theorem giveCells_unitView (d : Dev) (k : Nat) :
    unitView (d.giveCells k).regs = unitView d.regs ∧ (d.giveCells k).ops = d.ops := by simp +decide [giveCells]
@[simp] theorem release_unitView (d : Dev) (g : Nat) :
    unitView (d.release g).regs = unitView d.regs ∧ (d.release g).ops = d.ops := by simp +decide [release]
@[simp] theorem setOrder_unitView (d : Dev) (p : Nat) (l : List (Nat × OrderItem)) :
    unitView (d.setOrder p l).regs = unitView d.regs ∧ (d.setOrder p l).ops = d.ops := by
  simp +decide [setOrder]
@[simp] theorem resolve_unitView (d : Dev) (p q : Nat) (o : OrderItem) :
    unitView (d.resolve p q o).regs = unitView d.regs ∧ (d.resolve p q o).ops = d.ops := by simp +decide [resolve]
@[simp] theorem dropFrame_unitView (d : Dev) (fr : Frame) :
    unitView (d.dropFrame fr).regs = unitView d.regs ∧ (d.dropFrame fr).ops = d.ops := by simp +decide [dropFrame]
@[simp] theorem setDispQ_unitView (d : Dev) (c : Nat) (l : List Work) :
    unitView (d.setDispQ c l).regs = unitView d.regs ∧ (d.setDispQ c l).ops = d.ops := by simp +decide [setDispQ]
@[simp] theorem sepiaPurge_unitView (d : Dev) :
    unitView (d.sepiaPurge).regs = unitView d.regs ∧ (d.sepiaPurge).ops = d.ops := by
  unfold sepiaPurge
  refine unitView_foldl (fun e c => ?_) _ d
  refine (unitView_foldl (fun e w => ?_) _ _).imp (·.trans (by simp)) (·.trans (by simp))
  split <;> simp
@[simp] theorem sepiaEnter_unitView (d : Dev) (cls : Nat) :
    unitView (d.sepiaEnter cls).regs = unitView d.regs ∧ (d.sepiaEnter cls).ops = d.ops := by simp +decide [sepiaEnter]
@[simp] theorem faultRaise_unitView (d : Dev) (c : Nat) :
    unitView (d.faultRaise c).regs = unitView d.regs ∧ (d.faultRaise c).ops = d.ops := by simp +decide [faultRaise]
@[simp] theorem levelOn_unitView (d : Dev) (c i : Nat) :
    unitView (d.levelOn c i).regs = unitView d.regs ∧ (d.levelOn c i).ops = d.ops := by simp +decide [levelOn]
@[simp] theorem monSample_unitView (d : Dev) (m v : Nat) :
    unitView (d.monSample m v).regs = unitView d.regs ∧ (d.monSample m v).ops = d.ops := by simp +decide [monSample]
@[simp] theorem monFeed_unitView (d : Dev) (src : Nat) (fits : Nat → Bool) (v : Nat) :
    unitView (d.monFeed src fits v).regs = unitView d.regs ∧ (d.monFeed src fits v).ops = d.ops := by simp +decide [monFeed]
@[simp] theorem setRx_unitView (d : Dev) (i : Nat) (x : RxRing) :
    unitView (d.setRx i x).regs = unitView d.regs ∧ (d.setRx i x).ops = d.ops := by simp +decide [setRx]
@[simp] theorem setTx_unitView (d : Dev) (i : Nat) (x : TxRing) :
    unitView (d.setTx i x).regs = unitView d.regs ∧ (d.setTx i x).ops = d.ops := by simp +decide [setTx]
@[simp] theorem setCoe_unitView (d : Dev) (n : Nat) (x : CoeDom) :
    unitView (d.setCoe n x).regs = unitView d.regs ∧ (d.setCoe n x).ops = d.ops := by simp +decide [setCoe]
@[simp] theorem hostDma_unitView (d : Dev) (n addr : Nat) (bs : List Byte) :
    unitView (d.hostDma n addr bs).regs = unitView d.regs ∧ (d.hostDma n addr bs).ops = d.ops := by
  simp +decide [hostDma]
@[simp] theorem ringWrite_unitView (d : Dev) (i addr : Nat) (bs : List Byte) :
    unitView (d.ringWrite i addr bs).regs = unitView d.regs ∧ (d.ringWrite i addr bs).ops = d.ops := by
  simp +decide [ringWrite]
@[simp] theorem ringVector_unitView (d : Dev) (i v : Nat) :
    unitView (d.ringVector i v).regs = unitView d.regs ∧ (d.ringVector i v).ops = d.ops := by simp +decide [ringVector]
@[simp] theorem txIrq_unitView (d : Dev) (i : Nat) :
    unitView (d.txIrq i).regs = unitView d.regs ∧ (d.txIrq i).ops = d.ops := by simp +decide [txIrq]
@[simp] theorem rxDropAll_unitView (d : Dev) (i : Nat) :
    unitView (d.rxDropAll i).regs = unitView d.regs ∧ (d.rxDropAll i).ops = d.ops := by simp +decide [rxDropAll]
@[simp] theorem coeTxDone_unitView (d : Dev) (n ring idx : Nat) (payload : List Byte) :
    unitView (d.coeTxDone n ring idx payload).regs = unitView d.regs ∧ (d.coeTxDone n ring idx payload).ops = d.ops := by
  unfold coeTxDone
  dsimp only
  repeat' split
  all_goals simp_all +decide
@[simp] theorem txFinish_unitView (d : Dev) (i : Nat) (x : TxCur) (time st : Nat) :
    unitView (d.txFinish i x time st).regs = unitView d.regs ∧ (d.txFinish i x time st).ops = d.ops := by simp +decide [txFinish]
@[simp] theorem setLin_unitView (d : Dev) (n : Nat) (x : LinChan) :
    unitView (d.setLin n x).regs = unitView d.regs ∧ (d.setLin n x).ops = d.ops := by simp +decide [setLin]
@[simp] theorem setTb_unitView (d : Dev) (t : Nat) (x : TbTable) :
    unitView (d.setTb t x).regs = unitView d.regs ∧ (d.setTb t x).ops = d.ops := by simp +decide [setTb]
@[simp] theorem setTbBad_unitView (d : Dev) (t l : Nat) (b : Bool) :
    unitView (d.setTbBad t l b).regs = unitView d.regs ∧ (d.setTbBad t l b).ops = d.ops := by simp +decide [setTbBad]
@[simp] theorem setTbCur_unitView (d : Dev) (t : Nat) (ents : Sparse Nat) (l : Nat) :
    unitView (d.setTbCur t ents l).regs = unitView d.regs ∧ (d.setTbCur t ents l).ops = d.ops := by simp +decide [setTbCur]
@[simp] theorem bgShow_unitView (d : Dev) (t : Nat) :
    unitView (d.bgShow t).regs = unitView d.regs ∧ (d.bgShow t).ops = d.ops := by simp +decide [bgShow]
@[simp] theorem bgClear_unitView (d : Dev) (t : Nat) :
    unitView (d.bgClear t).regs = unitView d.regs ∧ (d.bgClear t).ops = d.ops := by simp +decide [bgClear]
@[simp] theorem bgFail_unitView (d : Dev) (t res : Nat) :
    unitView (d.bgFail t res).regs = unitView d.regs ∧ (d.bgFail t res).ops = d.ops := by simp +decide [bgFail]
@[simp] theorem tableTxnDrop_unitView (d : Dev) (t : Nat) :
    unitView (d.tableTxnDrop t).regs = unitView d.regs ∧ (d.tableTxnDrop t).ops = d.ops := by simp +decide [tableTxnDrop]
@[simp] theorem tbSync_unitView (d : Dev) (t e : Nat) :
    unitView (d.tbSync t e).regs = unitView d.regs ∧ (d.tbSync t e).ops = d.ops := by
  unfold tbSync
  dsimp only
  repeat' split
  all_goals simp_all +decide
@[simp] theorem tbRemove_unitView (d : Dev) (t l : Nat) :
    unitView (d.tbRemove t l).regs = unitView d.regs ∧ (d.tbRemove t l).ops = d.ops := by simp +decide [tbRemove]
@[simp] theorem learnSubmit_unitView (d : Dev) (key port stamp : Nat) :
    unitView (d.learnSubmit key port stamp).regs = unitView d.regs ∧ (d.learnSubmit key port stamp).ops = d.ops := by
  simp +decide [learnSubmit]
@[simp] theorem l2FlushPort_unitView (d : Dev) (p : Nat) :
    unitView (d.l2FlushPort p).regs = unitView d.regs ∧ (d.l2FlushPort p).ops = d.ops := by simp +decide [l2FlushPort]
@[simp] theorem setDirect_unitView (d : Dev) (t k e : Nat) :
    unitView (d.setDirect t k e).regs = unitView d.regs ∧ (d.setDirect t k e).ops = d.ops := by simp +decide [setDirect]
@[simp] theorem filterLookup_unitView (d : Dev) (k k1 : Nat) :
    unitView (d.filterLookup k k1).2.regs = unitView d.regs ∧ (d.filterLookup k k1).2.ops = d.ops := by
  unfold filterLookup
  dsimp only
  repeat' split
  all_goals simp_all +decide
@[simp] theorem gateLookup_unitView (d : Dev) (g len : Nat) :
    unitView (d.gateLookup g len).2.regs = unitView d.regs ∧ (d.gateLookup g len).2.ops = d.ops := by
  unfold gateLookup
  dsimp only
  repeat' split
  all_goals simp_all +decide
@[simp] theorem meterLookup_unitView (d : Dev) (m len : Nat) :
    unitView (d.meterLookup m len).2.regs = unitView d.regs ∧ (d.meterLookup m len).2.ops = d.ops := by
  unfold meterLookup
  simp only [apply_ite Prod.snd, unitView_ite, ops_ite, inc_regs, inc_ops, ite_self, setDirect_unitView, and_self]
@[simp] theorem seqLookup_unitView (d : Dev) (r s0 : Nat) :
    unitView (d.seqLookup r s0).2.regs = unitView d.regs ∧ (d.seqLookup r s0).2.ops = d.ops := by
  unfold seqLookup
  dsimp only
  repeat' split
  all_goals simp_all +decide
@[simp] theorem l2SetHit_unitView (d : Dev) (l e : Nat) (frozen : Bool) :
    unitView (d.l2SetHit l e frozen).regs = unitView d.regs ∧ (d.l2SetHit l e frozen).ops = d.ops := by
  unfold l2SetHit
  dsimp only
  repeat' split
  all_goals simp_all +decide
@[simp] theorem lookup_unitView (d : Dev) (t epoch k0 k1 : Nat) :
    unitView (d.lookup t epoch k0 k1).2.regs = unitView d.regs ∧ (d.lookup t epoch k0 k1).2.ops = d.ops := by
  unfold lookup
  dsimp only
  repeat' split
  all_goals simp
@[simp] theorem setEth_unitView (d : Dev) (p : Nat) (x : EthPort) :
    unitView (d.setEth p x).regs = unitView d.regs ∧ (d.setEth p x).ops = d.ops := by simp +decide [setEth]
@[simp] theorem putQueue_unitView (d : Dev) (q : Nat) (l : List QFrame) :
    unitView (d.putQueue q l).regs = unitView d.regs ∧ (d.putQueue q l).ops = d.ops := by simp +decide [putQueue]
@[simp] theorem creditUpdate_unitView (d : Dev) (p : Nat) :
    unitView (d.creditUpdate p).regs = unitView d.regs ∧ (d.creditUpdate p).ops = d.ops := by simp +decide [creditUpdate]
@[simp] theorem deficitClear_unitView (d : Dev) (p c : Nat) :
    unitView (d.deficitClear p c).regs = unitView d.regs ∧ (d.deficitClear p c).ops = d.ops := by simp +decide [deficitClear]
@[simp] theorem queueEmptied_unitView (d : Dev) (p c : Nat) :
    unitView (d.queueEmptied p c).regs = unitView d.regs ∧ (d.queueEmptied p c).ops = d.ops := by simp +decide [queueEmptied]
@[simp] theorem setQueue_unitView (d : Dev) (q : Nat) (l : List QFrame) :
    unitView (d.setQueue q l).regs = unitView d.regs ∧ (d.setQueue q l).ops = d.ops := by simp +decide [setQueue]
@[simp] theorem gauge_unitView (d : Dev) (c : Ctr) (i : Nat) (up : Bool) (n : Nat) :
    unitView (d.gauge c i up n).regs = unitView d.regs ∧ (d.gauge c i up n).ops = d.ops := by
  simp +decide [gauge]
@[simp] theorem charge_unitView (d : Dev) (q : Nat) (up : Bool) (k : Nat) :
    unitView (d.charge q up k).regs = unitView d.regs ∧ (d.charge q up k).ops = d.ops := by
  simp +decide [charge]
@[simp] theorem heldCount_unitView (d : Dev) (p : Nat) (up : Bool) :
    unitView (d.heldCount p up).regs = unitView d.regs ∧ (d.heldCount p up).ops = d.ops := by
  unfold heldCount
  split <;> simp +decide
@[simp] theorem unqueue_unitView (d : Dev) (q : Nat) (x : QFrame) :
    unitView (d.unqueue q x).regs = unitView d.regs ∧ (d.unqueue q x).ops = d.ops := by simp +decide [unqueue]
@[simp] theorem tsEnd_unitView (d : Dev) (x : QFrame) (st : Nat) :
    unitView (d.tsEnd x st).regs = unitView d.regs ∧ (d.tsEnd x st).ops = d.ops := by
  unfold tsEnd
  split <;> simp +decide
@[simp] theorem tsDropped_unitView (d : Dev) (x : QFrame) :
    unitView (d.tsDropped x).regs = unitView d.regs ∧ (d.tsDropped x).ops = d.ops := by simp +decide [tsDropped]
@[simp] theorem removeFrame_unitView (d : Dev) (q : Nat) (c : Ctr) (x : QFrame) :
    unitView (d.removeFrame q c x).regs = unitView d.regs ∧ (d.removeFrame q c x).ops = d.ops := by
  simp +decide [removeFrame]
@[simp] theorem flushQueues_unitView (d : Dev) (p : Nat) :
    unitView (d.flushQueues p).regs = unitView d.regs ∧ (d.flushQueues p).ops = d.ops := by simp +decide [flushQueues]
@[simp] theorem portFlush_unitView (d : Dev) (p : Nat) :
    unitView (d.portFlush p).regs = unitView d.regs ∧ (d.portFlush p).ops = d.ops := by simp +decide [portFlush]
@[simp] theorem lostOnWire_unitView (d : Dev) (q : Nat) (x : QFrame) :
    unitView (d.lostOnWire q x).regs = unitView d.regs ∧ (d.lostOnWire q x).ops = d.ops := by
  simp +decide [lostOnWire]
@[simp] theorem ringSetRestart_unitView (d : Dev) (n : Nat) :
    unitView (d.ringSetRestart n).regs = unitView d.regs ∧ (d.ringSetRestart n).ops = d.ops := by
  unfold ringSetRestart
  refine unitView_foldl (fun e r => ?_) _ d
  dsimp only
  repeat' split
  all_goals simp +decide
@[simp] theorem ethAdd_unitView (d : Dev) (p g k n : Nat) :
    unitView (d.ethAdd p g k n).regs = unitView d.regs ∧ (d.ethAdd p g k n).ops = d.ops := by simp +decide [ethAdd]
@[simp] theorem ethInc_unitView (d : Dev) (p g k : Nat) :
    unitView (d.ethInc p g k).regs = unitView d.regs ∧ (d.ethInc p g k).ops = d.ops := by simp +decide [ethInc]
@[simp] theorem bwResume_unitView (d : Dev) :
    unitView d.bwResume.regs = unitView d.regs ∧ d.bwResume.ops = d.ops := by simp +decide [bwResume]
@[simp] theorem verifyRestart_unitView (d : Dev) (p : Nat) :
    unitView (d.verifyRestart p).regs = unitView d.regs ∧ (d.verifyRestart p).ops = d.ops := by simp +decide [verifyRestart]
@[simp] theorem ethLinkDown_unitView (d : Dev) (p : Nat) :
    unitView (d.ethLinkDown p).regs = unitView d.regs ∧ (d.ethLinkDown p).ops = d.ops := by simp +decide [ethLinkDown]
@[simp] theorem flushNow_unitView (d : Dev) (p : Nat) :
    unitView (d.flushNow p).regs = unitView d.regs ∧ (d.flushNow p).ops = d.ops := by simp +decide [flushNow]
@[simp] theorem flushDue_unitView (d : Dev) (p : Nat) :
    unitView (d.flushDue p).regs = unitView d.regs ∧ (d.flushDue p).ops = d.ops := by simp +decide [flushDue]
@[simp] theorem ethWireLost_unitView (d : Dev) (p : Nat) :
    unitView (d.ethWireLost p).regs = unitView d.regs ∧ (d.ethWireLost p).ops = d.ops := by
  unfold ethWireLost
  dsimp only
  repeat' split
  all_goals simp_all +decide
@[simp] theorem canWireLost_unitView (d : Dev) (p : Nat) :
    unitView (d.canWireLost p).regs = unitView d.regs ∧ (d.canWireLost p).ops = d.ops := by
  unfold canWireLost
  dsimp only
  repeat' split
  all_goals simp_all +decide
@[simp] theorem linkLost_unitView (d : Dev) (p : Nat) :
    unitView (d.linkLost p).regs = unitView d.regs ∧ (d.linkLost p).ops = d.ops := by simp +decide [linkLost]
@[simp] theorem setStep_unitView (d : Dev) (p : Nat) (x : StepPhase) :
    unitView (d.setStep p x).regs = unitView d.regs ∧ (d.setStep p x).ops = d.ops := by simp +decide [setStep]
@[simp] theorem stepEnd_unitView (d : Dev) (p last : Nat) :
    unitView (d.stepEnd p last).regs = unitView d.regs ∧ (d.stepEnd p last).ops = d.ops := by simp +decide [stepEnd]
@[simp] theorem stepEstablish_unitView (d : Dev) (p : Nat) :
    unitView (d.stepEstablish p).regs = unitView d.regs ∧ (d.stepEstablish p).ops = d.ops := by simp +decide [stepEstablish]
@[simp] theorem ethLost_unitView (d : Dev) (p : Nat) :
    unitView (d.ethLost p).regs = unitView d.regs ∧ (d.ethLost p).ops = d.ops := by
  unfold ethLost
  extract_lets e up f
  have kept : unitView e.regs = unitView d.regs ∧ e.ops = d.ops := by
    unfold e
    split <;> simp
  simp [f, kept]
@[simp] theorem canShow_unitView (d : Dev) (n : Nat) :
    unitView (d.canShow n).regs = unitView d.regs ∧ (d.canShow n).ops = d.ops := by simp +decide [canShow]
@[simp] theorem setCan_unitView (d : Dev) (n : Nat) (x : CanChan) :
    unitView (d.setCan n x).regs = unitView d.regs ∧ (d.setCan n x).ops = d.ops := by simp +decide [setCan]
@[simp] theorem canFree_unitView (d : Dev) (n b : Nat) :
    unitView (d.canFree n b).regs = unitView d.regs ∧ (d.canFree n b).ops = d.ops := by
  unfold canFree
  dsimp only
  repeat' split
  all_goals simp_all +decide
@[simp] theorem canSet_unitView (d : Dev) (n st : Nat) :
    unitView (d.canSet n st).regs = unitView d.regs ∧ (d.canSet n st).ops = d.ops := by simp +decide [canSet]
@[simp] theorem canDiscard_unitView (d : Dev) (n : Nat) :
    unitView (d.canDiscard n).regs = unitView d.regs ∧ (d.canDiscard n).ops = d.ops := by simp +decide [canDiscard]
@[simp] theorem canStart_unitView (d : Dev) (n : Nat) :
    unitView (d.canStart n).regs = unitView d.regs ∧ (d.canStart n).ops = d.ops := by simp +decide [canStart]
@[simp] theorem canStop_unitView (d : Dev) (n : Nat) :
    unitView (d.canStop n).regs = unitView d.regs ∧ (d.canStop n).ops = d.ops := by simp +decide [canStop]
@[simp] theorem setObj_unitView (d : Dev) (o : Nat) (x : MsgObj) :
    unitView (d.setObj o x).regs = unitView d.regs ∧ (d.setObj o x).ops = d.ops := by simp +decide [setObj]
@[simp] theorem objUpdate_unitView (d : Dev) (o : Nat) (data : List Byte) :
    unitView (d.objUpdate o data).regs = unitView d.regs ∧ (d.objUpdate o data).ops = d.ops := by
  simp +decide [objUpdate]
@[simp] theorem objAck_unitView (d : Dev) (o : Nat) :
    unitView (d.objAck o).regs = unitView d.regs ∧ (d.objAck o).ops = d.ops := by simp +decide [objAck]
@[simp] theorem linStamp_unitView (d : Dev) (n id time st : Nat) :
    unitView (d.linStamp n id time st).regs = unitView d.regs ∧ (d.linStamp n id time st).ops = d.ops := by
  simp +decide [linStamp]
@[simp] theorem linStampNone_unitView (d : Dev) (n : Nat) :
    unitView (d.linStampNone n).regs = unitView d.regs ∧ (d.linStampNone n).ops = d.ops := by simp +decide [linStampNone]
@[simp] theorem setUser_unitView (d : Dev) (u : Nat) (x : CxUser) :
    unitView (d.setUser u x).regs = unitView d.regs ∧ (d.setUser u x).ops = d.ops := by simp +decide [setUser]
@[simp] theorem setJob_unitView (d : Dev) (u : Nat) (j : CxJob) :
    unitView (d.setJob u j).regs = unitView d.regs ∧ (d.setJob u j).ops = d.ops := by simp +decide [setJob]
@[simp] theorem cxEnd_unitView (d : Dev) (u : Nat) (j : CxJob) (status detail outLen : Nat) :
    unitView (d.cxEnd u j status detail outLen).regs = unitView d.regs ∧
      (d.cxEnd u j status detail outLen).ops = d.ops := by simp +decide [cxEnd]
@[simp] theorem cxSettle_unitView (d : Dev) :
    unitView d.cxSettle.regs = unitView d.regs ∧ d.cxSettle.ops = d.ops := by simp +decide [cxSettle]
@[simp] theorem cxProgramEnd_unitView (d : Dev) (u no : Nat) (exc : Option Nat) :
    unitView (d.cxProgramEnd u no exc).regs = unitView d.regs ∧ (d.cxProgramEnd u no exc).ops = d.ops := by
  unfold cxProgramEnd
  split <;> simp +decide
@[simp] theorem cxPageRestart_unitView (d : Dev) (u : Nat) :
    unitView (d.cxPageRestart u).regs = unitView d.regs ∧ (d.cxPageRestart u).ops = d.ops := by simp +decide [cxPageRestart]
@[simp] theorem setThr_unitView (d : Dev) (n t : Nat) (x : Thread) :
    unitView (d.setThr n t x).regs = unitView d.regs ∧ (d.setThr n t x).ops = d.ops := by simp +decide [setThr]
@[simp] theorem incEng_unitView (d : Dev) (c : Ctr) (n : Nat) :
    unitView (d.incEng c n).regs = unitView d.regs ∧ (d.incEng c n).ops = d.ops := by simp +decide [incEng]
@[simp] theorem lookupDo_unitView (d : Dev) (table epoch k0 k1 : Nat) (learn : Option (Nat × Nat)) (failed : Bool) :
    unitView (d.lookupDo table epoch k0 k1 learn failed).2.regs = unitView d.regs ∧
      (d.lookupDo table epoch k0 k1 learn failed).2.ops = d.ops := by
  unfold lookupDo
  dsimp only
  repeat' split
  all_goals simp_all +decide
@[simp] theorem objectDo_unitView (d : Dev) (kind chan fmt ident : Nat) (words : List Nat) :
    unitView (d.objectDo kind chan fmt ident words).2.2.regs = unitView d.regs ∧
      (d.objectDo kind chan fmt ident words).2.2.ops = d.ops := by
  unfold objectDo
  repeat' split
  all_goals simp +decide
@[simp] theorem outward_unitView (d : Dev) (k : Hart) {go : Dev → Dev}
    (h : ∀ e : Dev, unitView (go e).regs = unitView e.regs ∧ (go e).ops = e.ops) :
    unitView (d.outward k go).regs = unitView d.regs ∧ (d.outward k go).ops = d.ops := by simp +decide [outward, h]
@[simp] theorem countHit_unitView (d : Dev) (h : Hart) (hit : Option Nat) :
    unitView (d.countHit h hit).regs = unitView d.regs ∧ (d.countHit h hit).ops = d.ops := by
  unfold countHit
  split <;> simp +decide
@[simp] theorem opSettle_unitView (d : Dev) (h : Hart) (op : TokOp) :
    unitView (d.opSettle h op).regs = unitView d.regs ∧ (d.opSettle h op).ops = d.ops := by
  unfold opSettle
  split <;> simp +decide
@[simp] theorem tokSettle_unitView (d : Dev) (h : Hart) :
    unitView (d.tokSettle h).regs = unitView d.regs ∧ (d.tokSettle h).ops = d.ops := by simp +decide [tokSettle]
@[simp] theorem jobEnd_unitView (d : Dev) (n t : Nat) :
    unitView (d.jobEnd n t).regs = unitView d.regs ∧ (d.jobEnd n t).ops = d.ops := by simp +decide [jobEnd]
@[simp] theorem dropThread_unitView (d : Dev) (n t : Nat) :
    unitView (d.dropThread n t).regs = unitView d.regs ∧ (d.dropThread n t).ops = d.ops := by
  unfold dropThread
  dsimp only
  repeat' split
  all_goals simp_all +decide
@[simp] theorem dropThreads_unitView (d : Dev) (n : Nat) :
    unitView (d.dropThreads n).regs = unitView d.regs ∧ (d.dropThreads n).ops = d.ops := by simp +decide [dropThreads]
@[simp] theorem ldLoad_unitView (d : Dev) (n : Nat) (ini : List Byte) :
    unitView (d.ldLoad n ini).regs = unitView d.regs ∧ (d.ldLoad n ini).ops = d.ops := by simp +decide [ldLoad]
@[simp] theorem engReset_unitView (d : Dev) (n : Nat) :
    unitView (d.engReset n).regs = unitView d.regs ∧ (d.engReset n).ops = d.ops := by simp +decide [engReset]
@[simp] theorem retrainEnd_unitView (d : Dev) (u : Nat) :
    unitView (d.retrainEnd u).regs = unitView d.regs ∧ (d.retrainEnd u).ops = d.ops := by simp +decide [retrainEnd]

end Dev
end Sys2Proof.Machine
end

section
/-! ### Unit commands: what their operations do to the units' registers and to the running commands (R33 to R44) -/
namespace Sys2Proof.Machine

/-- Two fields of which a write of one leaves the other: of different registers, or without a common bit. -/
def RField.apart (F G : RField) : Bool :=
  F.reg != G.reg || decide (F.lo ≤ F.hi ∧ F.hi < 32 ∧ G.lo ≤ G.hi ∧ (F.hi < G.lo ∨ G.hi < F.lo))

namespace Dev

/-! #### Fields -/

theorem f_lt (d : Dev) (F : RField) (i : Nat) : d.f F i < 2 ^ (F.hi + 1 - F.lo) := Nat.mod_lt _ (by positivity)

theorem f_of_rd {d e : Dev} {F : RField} {i : Nat} (h : e.rd F.reg i = d.rd F.reg i) : e.f F i = d.f F i := by
  simp only [f, h]

/-- A field that is apart from the one written is left alone, at every index. -/
theorem f_sf_of_apart {F G : RField} (h : F.apart G = true) (d : Dev) (i j v : Nat) : (d.sf F i v).f G j = d.f G j := by
  simp only [RField.apart, Bool.or_eq_true, bne_iff_ne, decide_eq_true_eq] at h
  rcases h with h | ⟨hF, hF', hG, h⟩
  · exact f_sf_ne d (.inl h) v
  · by_cases e : i = j
    · subst e
      exact f_sf_apart d hF hF' hG h i v
    · exact f_sf_ne d (.inr e) v

/-- A value that fits its field reads back. -/
theorem f_sf_fits {F : RField} (h : F.lo ≤ F.hi) (h' : F.hi < 32) {v : Nat} (fits : v < 2 ^ (F.hi + 1 - F.lo)) (d : Dev) (i : Nat) :
    (d.sf F i v).f F i = v := by
  rw [f_sf_same d h h', Nat.mod_eq_of_lt fits]

theorem logOver_congr {d e : Dev} (h : e.rd .mgLogStatus 0 = d.rd .mgLogStatus 0) (h' : e.mg.booted = d.mg.booted) :
    e.logOver = d.logOver := by rw [logOver, logOver, h', f_of_rd h]

/-- A change inside a footprint, then a write inside it of a register other than the log's. -/
theorem Only.wr {a b : Dev} {F : Foot} (h : a.Only b F) {r : Reg} {i : Nat} (hr : F.hasReg r i) (hl : r ≠ .mgLogStatus) (v : Word) :
    a.Only (b.wr r i v) F :=
  h.trans (Within.wr b hr v).only fun k => by rwa [logOver_congr (b.rd_wr_ne (.inl hl) v) (by rw [wr_mg])]

theorem Only.sf {a b : Dev} {F : Foot} (h : a.Only b F) {G : RField} {i : Nat} (hr : F.hasReg G.reg i) (hl : G.reg ≠ .mgLogStatus)
    (v : Nat) : a.Only (b.sf G i v) F := h.wr hr hl _

theorem within_setOps {F : Foot} (hp : F.hasPart .ops) (d : Dev) (l : List UnitOp) : d.Within (d.setOps l) F := by
  refine .parts rfl rfl fun p n => ?_
  cases p
  case ops => exact absurd hp n
  all_goals simp [Part.same, Dev.setOps]

theorem Only.setOps {a b : Dev} {F : Foot} (h : a.Only b F) (hp : F.hasPart .ops) (l : List UnitOp) : a.Only (b.setOps l) F :=
  h.trans (within_setOps hp b l).only id

theorem Only.cmdEnd {a b : Dev} {F : Foot} (h : a.Only b F) {u : Nat} (hr : F.hasReg .unitCmdStatus u) (tag res : Nat) :
    a.Only (b.cmdEnd u tag res) F :=
  ((h.sf hr (by decide) _).sf hr (by decide) _).sf hr (by decide) _

/-! #### What leaves the commands alone -/

/-- What commands run, what they show and the phase of the transaction are as before. -/
structure SparesCommands (a b : Dev) : Prop where
  status : ∀ i, b.rd .unitCmdStatus i = a.rd .unitCmdStatus i
  phase : b.phase = a.phase
  ops : b.ops = a.ops

namespace SparesCommands

theorem trans {a b c : Dev} (h : a.SparesCommands b) (k : b.SparesCommands c) : a.SparesCommands c :=
  ⟨fun i => (k.status i).trans (h.status i), k.phase.trans h.phase, k.ops.trans h.ops⟩

theorem of_unitView {a b : Dev} (h : unitView b.regs = unitView a.regs ∧ b.ops = a.ops) : a.SparesCommands b :=
  ⟨rd_of_unitView h.1 rfl, f_of_unitView h.1 rfl 0, h.2⟩

theorem sf (d : Dev) {F : RField} (h : F.reg = .unitState) (i v : Nat) : d.SparesCommands (d.sf F i v) :=
  ⟨fun k => d.rd_sf_ne (.inl (by rw [h]; decide)) v, d.f_sf_ne (.inl (by rw [h]; decide)) v, sf_ops ..⟩

end SparesCommands

/-! #### A unit's change of state (R36) -/

section SetState
variable (d : Dev) (u s : Nat)

theorem rd_setState {r : Reg} (h : r ≠ .unitState) (h' : r ∉ raiseRegs) (i : Nat) : (d.setState u s).rd r i = d.rd r i := by
  rw [setState, rd_raise h', rd_sf_ne _ (.inl h.symm), rd_sf_ne _ (.inl h.symm)]

theorem f_setState {F : RField} (h : F.reg ∉ raiseRegs) (hs : unitState_STATE.apart F = true)
    (hp : unitState_PREV_STATE.apart F = true) (i : Nat) : (d.setState u s).f F i = d.f F i := by
  rw [setState, f_of_rd (rd_raise h ..), f_sf_of_apart hs, f_sf_of_apart hp]

theorem state_setState (small : s < 8) : (d.setState u s).f unitState_STATE u = s := by
  rw [setState, f_of_rd (rd_raise (by decide) ..), f_sf_fits (by decide) (by decide) small]

theorem prev_setState : (d.setState u s).f unitState_PREV_STATE u = d.f unitState_STATE u := by
  rw [setState, f_of_rd (rd_raise (by decide) ..), f_sf_of_apart (by decide)]
  exact f_sf_fits (F := unitState_PREV_STATE) (by decide) (by decide) (d.f_lt unitState_STATE u) d u

@[simp] theorem ops_setState : (d.setState u s).ops = d.ops := by
  rw [setState, (raise_unitView ..).2, sf_ops, sf_ops]

theorem SparesCommands.setState : d.SparesCommands (d.setState u s) :=
  ⟨rd_setState d u s (by decide) (by decide), f_of_rd (rd_setState d u s (by decide) (by decide) 0), ops_setState ..⟩

theorem only_setState {F : Foot} (h : F.hasReg .unitState u) (events : F.events = true) : d.Only (d.setState u s) F :=
  ((Within.sf d h _).trans (Within.sf _ h _)).thenOnly (only_raise_of_events events _ _ _ _)

end SetState

/-- What a unit shows once it has taken a state. -/
structure Shows (d : Dev) (u st prev cause : Nat) : Prop where
  state : d.f unitState_STATE u = st
  prev : d.f unitState_PREV_STATE u = prev
  cause : d.f unitState_FAULT_CAUSE u = cause
  draining : d.f unitState_DRAINING u = 0

theorem Shows.of_rd {d e : Dev} {u st prev cause : Nat} (h : d.Shows u st prev cause)
    (v : e.rd .unitState u = d.rd .unitState u) : e.Shows u st prev cause :=
  ⟨(f_of_rd v).trans h.state, (f_of_rd v).trans h.prev, (f_of_rd v).trans h.cause, (f_of_rd v).trans h.draining⟩

/-- A unit that stops draining, moves and shows a cause. -/
def moved (d : Dev) (u st cause : Nat) : Dev :=
  ((d.sf unitState_DRAINING u 0).setState u st).sf unitState_FAULT_CAUSE u cause

section Moved
variable (d : Dev) (u st cause : Nat)

theorem moved_shows (small : st < 8) (few : cause < 16) : (d.moved u st cause).Shows u st (d.f unitState_STATE u) cause := by
  refine ⟨?_, ?_, f_sf_fits (by decide) (by decide) few _ u, ?_⟩
  · rw [moved, f_sf_of_apart (by decide), state_setState _ _ _ small]
  · rw [moved, f_sf_of_apart (by decide), prev_setState, f_sf_of_apart (by decide)]
  · rw [moved, f_sf_of_apart (by decide), f_setState _ _ _ (by decide) (by decide) (by decide), f_sf_fits (by decide) (by decide)]
    decide

theorem moved_sparesCommands : d.SparesCommands (d.moved u st cause) :=
  ((SparesCommands.sf d rfl u 0).trans (.setState _ u st)).trans (.sf _ rfl u cause)

theorem only_moved {F : Foot} (h : F.hasReg .unitState u) (events : F.events = true) : d.Only (d.moved u st cause) F :=
  ((Within.sf d h 0).thenOnly (only_setState _ u st h events)).sf h (by decide) cause

end Moved

/-! #### What a unit does besides as it enters a state -/

@[simp] theorem enterHook_unitView (d : Dev) (u st : Nat) :
    unitView (d.enterHook u st).regs = unitView d.regs ∧ (d.enterHook u st).ops = d.ops := by
  unfold enterHook
  split <;> simp

@[simp] theorem lanePower_unitView (d : Dev) (u : Nat) (on : Bool) :
    unitView (d.lanePower u on).regs = unitView d.regs ∧ (d.lanePower u on).ops = d.ops := by
  simp [lanePower]

theorem enterHook_quiesced (d : Dev) (u : Nat) : d.enterHook u stQuiesced = d := by
  unfold enterHook
  split <;> simp [stQuiesced, stRun, stOffline, stFaulted, stUpdating]

/-- No unit but an Ethernet port does anything besides as it enters UPDATING. -/
theorem enterHook_updating {u : Nat} (h : unitKind u ≠ .eth) (d : Dev) : d.enterHook u stUpdating = d := by
  unfold enterHook
  split <;> simp_all [stRun, stOffline, stFaulted, stUpdating]

/-- A unit that is neither in the state it takes nor STAGED moves to it. -/
theorem takeState_eq {d : Dev} {u st : Nat} (moves : d.leafState u ≠ st) (plain : d.leafState u ≠ stStaged)
    (calm : st ≠ stFaulted) : d.takeState u st = (d.moved u st 0).enterHook u st := by
  have same : (d.sf unitState_DRAINING u 0).leafState u = d.leafState u := f_sf_of_apart (by decide) ..
  simp only [takeState, same, if_neg moves, plain, false_and, if_false, if_neg calm, moved]

section TakeState
variable {d : Dev} {u st : Nat} (moves : d.leafState u ≠ st) (plain : d.leafState u ≠ stStaged) (calm : st ≠ stFaulted)
include moves plain calm

theorem takeState_shows (small : st < 8) : (d.takeState u st).Shows u st (d.f unitState_STATE u) 0 := by
  rw [takeState_eq moves plain calm]
  exact (moved_shows d u st 0 small (by decide)).of_rd (rd_of_unitView (enterHook_unitView ..).1 rfl u)

theorem takeState_sparesCommands : d.SparesCommands (d.takeState u st) := by
  rw [takeState_eq moves plain calm]
  exact (moved_sparesCommands d u st 0).trans (.of_unitView (enterHook_unitView ..))

end TakeState

/-- A leaf that faults moves to FAULTED; the threads, frames and requests it drops show in no unit's state or command. -/
theorem takeFault_unitView (d : Dev) (u cause : Nat) :
    unitView (d.takeFault u cause).regs = unitView (d.moved u stFaulted cause).regs ∧
      (d.takeFault u cause).ops = (d.moved u stFaulted cause).ops := by
  unfold takeFault
  dsimp only
  split <;> simp [moved]

theorem takeFault_shows (d : Dev) (u : Nat) {cause : Nat} (few : cause < 16) :
    (d.takeFault u cause).Shows u stFaulted (d.f unitState_STATE u) cause :=
  (moved_shows d u stFaulted cause (by decide) few).of_rd (rd_of_unitView (takeFault_unitView d u cause).1 rfl u)

theorem takeFault_sparesCommands (d : Dev) (u cause : Nat) : d.SparesCommands (d.takeFault u cause) :=
  (moved_sparesCommands d u stFaulted cause).trans (.of_unitView (takeFault_unitView d u cause))

/-! #### The end of a command -/

/-- The command of a unit has ended: BUSY is 0, and its TAG and RESULT are shown. -/
structure Ended (d : Dev) (u tag res : Nat) : Prop where
  busy : d.f unitCmdStatus_BUSY u = 0
  tag : d.f unitCmdStatus_TAG u = tag
  result : d.f unitCmdStatus_RESULT u = res

theorem cmdEnd_ended (d : Dev) (u tag : Nat) {res : Nat} (small : res < 16) : (d.cmdEnd u tag res).Ended u (tag % 256) res := by
  refine ⟨?_, ?_, f_sf_fits (by decide) (by decide) small _ u⟩
  · rw [cmdEnd, f_sf_of_apart (by decide), f_sf_of_apart (by decide), f_sf_fits (by decide) (by decide)]
    decide
  · rw [cmdEnd, f_sf_of_apart (by decide)]
    exact f_sf_same _ (by decide) (by decide) u tag

theorem rd_cmdEnd {r : Reg} (h : r ≠ .unitCmdStatus) (d : Dev) (u tag res i : Nat) : (d.cmdEnd u tag res).rd r i = d.rd r i := by
  rw [cmdEnd, rd_sf_ne _ (.inl h.symm), rd_sf_ne _ (.inl h.symm), rd_sf_ne _ (.inl h.symm)]

theorem rd_setOps (d : Dev) (l : List UnitOp) (r : Reg) (i : Nat) : (d.setOps l).rd r i = d.rd r i := rfl

theorem eng_setOps (d : Dev) (l : List UnitOp) : (d.setOps l).eng = d.eng := rfl

theorem opOf_congr {d e : Dev} (h : e.ops = d.ops) (u : Nat) : e.opOf u = d.opOf u := by rw [opOf, opOf, h]

/-- The end of the only part of a leaf's command ends the command. -/
theorem partEnd_last {d : Dev} {u : Nat} {o : UnitOp} (leaf : unitIsGroup u = false) (running : d.opOf u = some o) (mine : o.unit = u)
    (alone : o.wait = [u]) (res : Nat) : d.partEnd u res = (d.dropOp o).cmdEnd u o.tag res := by
  subst mine
  simp only [partEnd, running, leaf, alone]
  by_cases ok : res = ucOk
  · simp [ok]
  · simp [ok]

theorem partEnd_idle {d : Dev} {u : Nat} (idle : d.opOf u = none) (res : Nat) : d.partEnd u res = d := by
  simp only [partEnd, idle]

theorem Only.partEnd {a b : Dev} {F : Foot} (h : a.Only b F) {u : Nat} {o : UnitOp} (leaf : unitIsGroup u = false)
    (running : b.opOf u = some o) (mine : o.unit = u) (alone : o.wait = [u]) (res : Nat) (hr : F.hasReg .unitCmdStatus u)
    (hp : F.hasPart .ops) : a.Only (b.partEnd u res) F := by
  rw [partEnd_last leaf running mine alone]
  exact (h.setOps hp _).cmdEnd hr o.tag res

end Dev
end Sys2Proof.Machine
end

section
/-! ### Unit commands: how a row reaches its unit, and what a command of a leaf alone begins (R33 to R44) -/
namespace Sys2Proof.Machine
namespace Dev

/-! #### A commit that waits -/

/-- No commit that waits has lost a target: nothing in what decides that has changed. -/
theorem watchQuiet_congr {d e : Dev} (ep : e.ep = d.ep) (phase : e.rd .epStatus 0 = d.rd .epStatus 0)
    (state : ∀ u, e.rd .unitState u = d.rd .unitState u) (sepia : e.rd .lsSepiaCtl 0 = d.rd .lsSepiaCtl 0) :
    e.watchQuiet = d.watchQuiet := by
  have lost (t : Txn) : e.txnLost? t = d.txnLost? t := by
    simp only [txnLost?, leafState, inSepia, b, f, state, sepia]
  simp only [watchQuiet, Dev.phase, f, phase, ep, lost]

theorem txnWatch_of_watchQuiet {d : Dev} (h : d.watchQuiet = true) : d.txnWatch = d := by
  unfold txnWatch
  split
  · rfl
  · next t ht =>
    split
    · next waiting =>
      simp only [watchQuiet, waiting, bne_self_eq_false, Bool.false_or, ht, Option.isNone_iff_eq_none] at h
      rw [h]
    · rfl

theorem txnWatch_of_not_waiting {d : Dev} (h : d.phase ≠ phWaiting) : d.txnWatch = d :=
  txnWatch_of_watchQuiet (by simp [watchQuiet, h])

/-! #### The checks of a command in their order -/

section Guard
variable {d : Dev} {u cmd tag : Nat} (go : Dev → Dev)

theorem cmdGuard_busy (busy : d.f unitCmdStatus_BUSY u = 1) (ok : Bool) : d.cmdGuard ok u cmd tag go = d.inc .unitRejWr u :=
  if_pos (by simp [b, busy])

variable (free : d.f unitCmdStatus_BUSY u = 0)
include free

theorem cmdGuard_denied : d.cmdGuard false u cmd tag go = d.cmdEnd u tag ucPermission := by
  simp [cmdGuard, b, free]

theorem cmdGuard_unsupported (no : accepts u cmd = false) : d.cmdGuard true u cmd tag go = d.cmdEnd u tag ucUnsupported := by
  simp [cmdGuard, b, free, no]

theorem cmdGuard_go (takes : accepts u cmd = true) : d.cmdGuard true u cmd tag go = go d := by
  simp [cmdGuard, b, free, takes]

end Guard

theorem unitRow_permitted {d : Dev} {n u : Nat} (may : d.mayWrite n (unitBase u + 8) = true) (go : Bool → Dev → Dev) :
    d.unitRow n u go = go true d := if_pos may

theorem unitRow_denied {d : Dev} {n u : Nat} (not : d.mayWrite n (unitBase u + 8) = false) (go : Bool → Dev → Dev) :
    d.unitRow n u go = go false (d.accDenied n true (unitBase u + 8) 4) := if_neg (by simp [not])

/-- A denied access counts, then makes its record, then raises an event if it made one: what these keep, it keeps. -/
theorem accDenied_keeps (P : Dev → Prop) (d : Dev) (n : Nat) (write : Bool) (off size : Nat) (start : P d)
    (counted : ∀ e c i, P e → P (e.inc c i))
    (recorded : ∀ e v w, P e → P ((e.wr .hbAccErrRec n v).wr .hbAccErrBytes n w))
    (raised : ∀ e, P e → P (e.raise 22 n 2)) : P (d.accDenied n write off size) := by
  unfold accDenied
  extract_lets e e'
  have counted' : P e' := by
    unfold e'
    split
    · exact counted _ _ _ (counted _ _ _ start)
    · exact counted _ _ _ start
  have made : P (e'.accRecord n write false 2 off size).2 := by
    unfold accRecord
    split
    · exact counted'
    · exact recorded _ _ _ counted'
  split
  all_goals
    rename_i shown
    rw [shown] at made
  · exact raised _ made
  · exact made

@[simp] theorem accDenied_held (d : Dev) (n : Nat) (write : Bool) (off size : Nat) :
    (d.accDenied n write off size).mg.held = d.mg.held :=
  accDenied_keeps (fun e => e.mg.held = d.mg.held) d n write off size rfl (fun _ _ _ k => k)
    (fun e v w k => by rwa [wr_mg, wr_mg]) (fun e k => by simpa using k)

/-- What a denied access writes beside what its event reaches: its record. -/
theorem rd_accDenied {r : Reg} (quiet : r ∉ raiseRegs) (h : r ≠ .hbAccErrRec) (h' : r ≠ .hbAccErrBytes) (d : Dev) (n : Nat)
    (write : Bool) (off size i : Nat) : (d.accDenied n write off size).rd r i = d.rd r i :=
  accDenied_keeps (fun e => e.rd r i = d.rd r i) d n write off size rfl (fun _ _ _ k => k)
    (fun e v w k => by rwa [rd_wr_ne _ (.inl h'.symm), rd_wr_ne _ (.inl h.symm)]) (fun e k => by rwa [rd_raise quiet])

theorem ep_accDenied (d : Dev) (n : Nat) (write : Bool) (off size : Nat) : (d.accDenied n write off size).ep = d.ep :=
  accDenied_keeps (fun e => e.ep = d.ep) d n write off size rfl (fun _ _ _ k => k) (fun _ _ _ k => k)
    (fun e k => (part_raise (p := .ep) (by decide) e _ _ _).trans k)

theorem unitRow_held (d : Dev) (n u : Nat) {go : Bool → Dev → Dev} (h : ∀ ok e, (go ok e).mg.held = e.mg.held) :
    (d.unitRow n u go).mg.held = d.mg.held := by simp [unitRow, h]

/-! #### A command of a leaf alone begins -/

/-- A leaf alone, BUSY with a command that waits for it. -/
def startCmd (d : Dev) (init u cmd arg tag : Nat) : Dev :=
  (d.sf unitCmdStatus_BUSY u 1).setOps (d.ops ++ [⟨u, cmd, arg, tag, init, [(u, d.actsAs u)], [u]⟩])

section Start
variable (d : Dev) (init u cmd arg tag : Nat)

theorem rd_startCmd {r : Reg} (h : r ≠ .unitCmdStatus) (i : Nat) : (d.startCmd init u cmd arg tag).rd r i = d.rd r i := by
  rw [startCmd, rd_setOps, rd_sf_ne _ (.inl h.symm)]

theorem busy_startCmd : (d.startCmd init u cmd arg tag).f unitCmdStatus_BUSY u = 1 := by
  rw [startCmd, f_of_rd (rd_setOps ..), f_sf_fits (by decide) (by decide) (by decide)]

theorem opOf_startCmd (idle : d.opOf u = none) :
    (d.startCmd init u cmd arg tag).opOf u = some ⟨u, cmd, arg, tag, init, [(u, d.actsAs u)], [u]⟩ := by
  rw [opOf] at idle ⊢
  change (d.ops ++ [_]).find? _ = _
  simp only [List.find?_append, idle]
  simp

theorem within_startCmd {F : Foot} (h : F.hasReg .unitCmdStatus u) (h' : F.hasPart .ops) :
    d.Within (d.startCmd init u cmd arg tag) F :=
  (Within.sf (f := unitCmdStatus_BUSY) d h 1).trans (within_setOps h' _ _)

theorem startCmd_eng : (d.startCmd init u cmd arg tag).eng = d.eng := by
  rw [startCmd, eng_setOps, sf_eng]

end Start

end Dev
end Sys2Proof.Machine
end

section
/-! ### Unit commands of a leaf alone: the row's effect (R33 to R44) -/
namespace Sys2Proof.Machine

/-! #### The runs of units -/

/-- What holds of every run of units, and of the one an unknown number reads, holds of the run of a unit. -/
theorem runOf_all {P : URun → Prop} (h : ∀ r ∈ uRuns, P r) (other : P ⟨.id, 0, 0, 0, 1, 0x10000, 0x01, true, 0⟩) (u : Nat) :
    P (runOf u) := by
  rw [runOf]
  cases found : uRuns.find? fun r => decide (r.first ≤ u ∧ u < r.first + r.count) with
  | none => exact other
  | some r => exact h r (List.mem_of_find?_eq_some found)

/-- The crypto unit is a group. -/
theorem unitKind_ne_cx {u : Nat} (leaf : unitIsGroup u = false) : unitKind u ≠ .cx := by
  have grouped := runOf_all (P := fun r => r.group = false → r.kind ≠ .cx) (by decide) (by decide) u
  exact grouped leaf

/-- The buffer unit accepts REPLACE alone. -/
theorem accepts_of_buffer {u cmd : Nat} (h : unitClass u = 0x30) (takes : accepts u cmd = true) : cmd = 0 ∨ cmd = 6 := by
  simpa [accepts, h, classCmds] using takes

/-- A barrier link accepts RESTART alone. -/
theorem accepts_of_link {u cmd : Nat} (h : unitClass u = 0x3C) (takes : accepts u cmd = true) : cmd = 0 ∨ cmd = 5 := by
  simpa [accepts, h, classCmds] using takes

namespace Dev

/-! #### A leaf alone -/

/-- A leaf unit alone, with no command running. -/
structure LeafFree (d : Dev) (u : Nat) : Prop where
  free : d.f unitCmdStatus_BUSY u = 0
  leaf : unitIsGroup u = false
  alone : d.withPair u = [u]
  idle : d.opOf u = none

theorem parts_leaf {d : Dev} {u : Nat} (leaf : unitIsGroup u = false) (alone : d.withPair u = [u]) (cmd : Nat) :
    d.parts u cmd = [u] := by
  simp [parts, unitKind_ne_cx leaf, leaf, alone]

theorem actsAs_of_plain {d : Dev} {u : Nat} (plain : d.f unitState_STATE u ≠ stStaged) : d.actsAs u = d.f unitState_STATE u :=
  if_neg plain

theorem actsAs_of_rd {d e : Dev} {u : Nat} (h : e.rd .unitState u = d.rd .unitState u) : e.actsAs u = d.actsAs u := by
  rw [actsAs, actsAs, leafState, leafState, f_of_rd (F := unitState_STATE) h, f_of_rd (F := unitState_PREV_STATE) h]

section Leaf
variable {d : Dev} {u cmd : Nat} (l : d.LeafFree u) (ready : stateAccepts u cmd (d.actsAs u) = true)
include l ready

/-- A leaf alone that may begin a command begins it, by its class. -/
theorem runCmd_ready (real : cmd ≠ cmdNop) (init arg tag : Nat) {e : Dev}
    (row : unitClass u = 0x30 →
      (if ((d.sf unitCmdStatus_BUSY u 1).replaceRow u tag arg).b unitCmdStatus_BUSY u
        then ((d.sf unitCmdStatus_BUSY u 1).replaceRow u tag arg).setOps
          (((d.sf unitCmdStatus_BUSY u 1).replaceRow u tag arg).ops ++ [⟨u, cmd, arg, tag, init, [(u, d.actsAs u)], [u]⟩])
        else (d.sf unitCmdStatus_BUSY u 1).replaceRow u tag arg) = e)
    (link : unitClass u = 0x3C → (d.startCmd init u cmd arg tag).restartLink u = e)
    (other : unitClass u ≠ 0x30 → unitClass u ≠ 0x3C → (d.startCmd init u cmd arg tag).beginLeaf cmd u = e) :
    d.runCmd init u cmd arg tag = e := by
  have acts : (d.sf unitCmdStatus_BUSY u 1).actsAs u = d.actsAs u := actsAs_of_rd (rd_sf_ne _ (.inl (by decide)) 1)
  have status : (d.sf unitCmdStatus_BUSY u 1).ops = d.ops := sf_ops ..
  simp only [runCmd, parts_leaf l.leaf l.alone, real, List.isEmpty_cons, Bool.false_eq_true, or_self, if_false, List.any_cons,
    List.any_nil, leafReady, ready, l.idle, Option.isNone_none, Bool.and_self, Bool.not_true, List.map_cons, List.map_nil, acts,
    List.foldl_cons, List.foldl_nil, status, Bool.or_self]
  split
  · next h => exact row h
  · next h => exact link h
  · next h h' => exact other h h'

theorem runCmd_leaf (real : cmd ≠ cmdNop) (takes : accepts u cmd = true) (row : unitClass u = 0x30 → cmd ≠ 6)
    (link : unitClass u = 0x3C → cmd ≠ 5) (init arg tag : Nat) :
    d.runCmd init u cmd arg tag = (d.startCmd init u cmd arg tag).beginLeaf cmd u :=
  runCmd_ready l ready real init arg tag (fun h => ((accepts_of_buffer h takes).elim real (row h)).elim)
    (fun h => ((accepts_of_link h takes).elim real (link h)).elim) fun _ _ => rfl

/-- A permitted command of a leaf alone that may begin it. -/
theorem unitRow_leaf {n : Nat} (may : d.mayWrite n (unitBase u + 8) = true) (real : cmd ≠ cmdNop) (takes : accepts u cmd = true)
    (row : unitClass u = 0x30 → cmd ≠ 6) (link : unitClass u = 0x3C → cmd ≠ 5) (arg tag : Nat) :
    (d.unitRow n u fun ok e => e.unitCmd ok n u cmd arg tag) = (d.startCmd n u cmd arg tag).beginLeaf cmd u := by
  rw [unitRow_permitted may, unitCmd, cmdGuard_go _ l.free takes, runCmd_leaf l ready real takes row link]

end Leaf

/-! #### What drains -/

/-- Whether a unit has drained is read outside the units' headers and the running commands. -/
theorem drained_of_regs {d : Dev} {g : Sparse Word} {l : List UnitOp}
    (pair : ∀ k, { d with regs := g, ops := l }.f lsPair_STATE k = d.f lsPair_STATE k) (u : Nat) :
    { d with regs := g, ops := l }.drained u = d.drained u := by
  have step (k : Nat) : { d with regs := g, ops := l }.lockstep k = d.lockstep k := by
    rw [lockstep, lockstep, pair]
  unfold drained
  dsimp only
  cases unitKind u <;> try rfl
  simp only [engIdle, leadEng, step]
  rfl

theorem drained_sf {F : RField} (h : F.reg ≠ .lsPair) (d : Dev) (i v u : Nat) : (d.sf F i v).drained u = d.drained u := by
  have pair (k : Nat) : (d.sf F i v).f lsPair_STATE k = d.f lsPair_STATE k := d.f_sf_ne (.inl h) v
  rw [sf, wr] at pair ⊢
  exact drained_of_regs (l := d.ops) pair u

theorem drained_setOps (d : Dev) (l : List UnitOp) (u : Nat) : (d.setOps l).drained u = d.drained u :=
  drained_of_regs (g := d.regs) (fun _ => rfl) u

theorem drained_startCmd (d : Dev) (init u cmd arg tag : Nat) : (d.startCmd init u cmd arg tag).drained u = d.drained u := by
  rw [startCmd, drained_setOps, drained_sf (by decide)]

end Dev

/-! ### How the rows of a unit's commands run -/

open Dev

/-- Every command of `unitRows` is its own work after the common checks, and then perhaps a look of a waiting commit. -/
theorem exec_unitRows {u : Fin 349} {init : Initiator} {arg : BitVec 16} {tag : BitVec 8} {e : Nat × Instr}
    (he : e ∈ unitRows u init arg tag) (s : State) :
    ∃ go : Dev → Dev,
      (exec e.2 s = s.logic fun d => d.unitRow init u fun ok x => x.cmdGuard ok u e.1 tag.toNat go) ∨
      (exec e.2 s = s.logic fun d => (d.unitRow init u fun ok x => x.cmdGuard ok u e.1 tag.toNat go).txnWatch) := by
  simp only [unitRows, List.mem_cons, List.not_mem_nil, or_false] at he
  rcases he with rfl | rfl | rfl | rfl | rfl | rfl | rfl | rfl | rfl
  · exact ⟨_, .inl rfl⟩
  · exact ⟨_, .inl rfl⟩
  · exact ⟨_, .inl rfl⟩
  · exact ⟨_, .inr rfl⟩
  · exact ⟨_, .inr rfl⟩
  · exact ⟨_, .inr rfl⟩
  · exact ⟨_, .inr rfl⟩
  · exact ⟨_, .inr rfl⟩
  · exact ⟨_, .inl rfl⟩

/-- A command of `unitRows` that the common checks answer, whatever its own work, runs to their answer. -/
theorem runs_unitRows {u : Fin 349} {init : Initiator} {arg : BitVec 16} {tag : BitVec 8} {e : Nat × Instr}
    (he : e ∈ unitRows u init arg tag) {s : State} (on : s.On) {d : Dev} {P : Dev → Prop}
    (answer : ∀ go, (s.dev.unitRow init u fun ok x => x.cmdGuard ok u e.1 tag.toNat go) = d) (quiet : d.watchQuiet = true)
    (held : d.mg.held = s.dev.mg.held) (hp : P d) : Runs e.2 s P := by
  obtain ⟨go, h | h⟩ := exec_unitRows he s
  · exact runs_logic_to on h (answer go) held hp
  · exact runs_logic_to on h (by rw [answer go, txnWatch_of_watchQuiet quiet]) held hp

end Sys2Proof.Machine
end

section
/-! ### Unit commands of a leaf: refused, counted, and those that move it at once or after its drain (R33 to R44) -/
namespace Sys2Proof.Machine
namespace Dev

theorem opOf_started {d e : Dev} {init u cmd arg tag : Nat} (l : d.LeafFree u)
    (spares : (d.startCmd init u cmd arg tag).SparesCommands e) :
    e.opOf u = some ⟨u, cmd, arg, tag, init, [(u, d.actsAs u)], [u]⟩ :=
  (opOf_congr spares.ops u).trans (opOf_startCmd d init u cmd arg tag l.idle)

/-- The end of the only part of a leaf's command: the command shows its result, the unit what it showed before. -/
theorem partEnd_ends {e : Dev} {u st prev cause res : Nat} {o : UnitOp} (leaf : unitIsGroup u = false) (running : e.opOf u = some o)
    (mine : o.unit = u) (alone : o.wait = [u]) (small : res < 16) (shows : e.Shows u st prev cause) :
    (e.partEnd u res).Ended u (o.tag % 256) res ∧ (e.partEnd u res).Shows u st prev cause ∧ (e.partEnd u res).phase = e.phase := by
  rw [partEnd_last leaf running mine alone]
  exact ⟨cmdEnd_ended _ _ _ small, shows.of_rd (rd_cmdEnd (by decide) ..), f_of_rd (rd_cmdEnd (by decide) ..)⟩

/-- The command a leaf alone began, which ran to its end, shows OK; the unit shows what it showed before the end. -/
theorem partEnd_started {d e : Dev} {init u cmd arg tag st prev cause : Nat} (l : d.LeafFree u)
    (spares : (d.startCmd init u cmd arg tag).SparesCommands e) (shows : e.Shows u st prev cause) :
    (e.partEnd u ucOk).Ended u (tag % 256) 0 ∧ (e.partEnd u ucOk).Shows u st prev cause ∧ (e.partEnd u ucOk).phase = d.phase := by
  obtain ⟨done, shows, phase⟩ := partEnd_ends l.leaf (opOf_started l spares) rfl rfl (res := ucOk) (by decide) shows
  have began : (d.startCmd init u cmd arg tag).phase = d.phase := f_of_rd (rd_startCmd _ _ _ _ _ _ (by decide) 0)
  exact ⟨done, shows, phase.trans (spares.phase.trans began)⟩

theorem beginLeaf_resume (d : Dev) (u : Nat) : d.beginLeaf 2 u = (d.takeState u stRun).partEnd u ucOk := rfl

theorem beginLeaf_offline (d : Dev) (u : Nat) :
    d.beginLeaf 8 u = ((d.takeState u stOffline).lanePower u false).partEnd u ucOk := rfl

theorem beginLeaf_quiesce (d : Dev) (u : Nat) :
    d.beginLeaf 1 u =
      if (d.sf unitState_DRAINING u 1).drained u && !drainsOnWire u
      then ((d.sf unitState_DRAINING u 1).takeState u stQuiesced).partEnd u ucOk else d.sf unitState_DRAINING u 1 := rfl

section Begin
variable {d : Dev} {init u arg tag : Nat}

theorem quiesce_drains {cmd : Nat} (inFlight : d.drained u = false ∨ drainsOnWire u = true) :
    (d.startCmd init u cmd arg tag).beginLeaf 1 u = (d.startCmd init u cmd arg tag).sf unitState_DRAINING u 1 := by
  rw [beginLeaf_quiesce, drained_sf (by decide), drained_startCmd, if_neg]
  rcases inFlight with h | h <;> simp [h]

theorem quiesce_at_once {cmd : Nat} (empty : d.drained u = true) (off : drainsOnWire u = false) :
    (d.startCmd init u cmd arg tag).beginLeaf 1 u =
      (((d.startCmd init u cmd arg tag).sf unitState_DRAINING u 1).takeState u stQuiesced).partEnd u ucOk := by
  rw [beginLeaf_quiesce, drained_sf (by decide), drained_startCmd, if_pos (by simp [empty, off])]

end Begin

/-- RETIRE of a unit with no block in flight. -/
theorem beginLeaf_retire {d : Dev} {u : Nat} (calm : ¬ (unitKind u = .ac ∧ d.coreBusy (unitInst u) = true)) :
    d.beginLeaf 7 u = (d.takeFault u fcauseSoftware).partEnd u ucOk := if_neg calm

theorem coreBusy_congr {d e : Dev} (h : e.eng = d.eng) (n : Nat) : e.coreBusy n = d.coreBusy n := by
  rw [coreBusy, coreBusy, h]

end Dev

open Dev

section Rows
variable {c : Instr} {s : State} {n u cmd arg tag : Nat} {P : Dev → Prop} (on : s.On) (l : s.dev.LeafFree u)
  (may : s.dev.mayWrite n (unitBase u + 8) = true) (ready : stateAccepts u cmd (s.dev.actsAs u) = true) (real : cmd ≠ cmdNop)
  (takes : accepts u cmd = true) (row : unitClass u = 0x30 → cmd ≠ 6) (link : unitClass u = 0x3C → cmd ≠ 5)
include on l may ready real takes row link

/-- A row of a leaf alone that may begin its command runs to what the command begins. -/
theorem runs_leaf (hc : exec c s = s.logic fun d => d.unitRow n u fun ok e => e.unitCmd ok n u cmd arg tag)
    (hp : P ((s.dev.startCmd n u cmd arg tag).beginLeaf cmd u)) : Runs c s P := by
  refine runs_logic_of_held on hc ?_ ?_
  · exact unitRow_held _ _ _ fun _ _ => unitCmd_held ..
  · rwa [unitRow_leaf l ready may real takes row link]

/-- The same for a row after which a commit that waits looks at its targets, where none waits. -/
theorem runs_leaf_watched (hc : exec c s = s.logic fun d => (d.unitRow n u fun ok e => e.unitCmd ok n u cmd arg tag).txnWatch)
    (still : ((s.dev.startCmd n u cmd arg tag).beginLeaf cmd u).phase ≠ phWaiting)
    (hp : P ((s.dev.startCmd n u cmd arg tag).beginLeaf cmd u)) : Runs c s P := by
  refine runs_logic_of_held on hc ?_ ?_
  · exact (txnWatch_held _).trans (unitRow_held _ _ _ fun _ _ => unitCmd_held ..)
  · rwa [unitRow_leaf l ready may real takes row link, txnWatch_of_not_waiting still]

end Rows

/-! ### The rows -/

section Exec
variable (u : Fin 349) (init : Initiator) (arg : BitVec 16) (tag : BitVec 8) (s : State)

theorem exec_nop : exec (.nop u init arg tag) s =
    s.logic fun d => d.unitRow init u fun ok e => e.unitCmd ok init u cmdNop arg.toNat tag.toNat := rfl

theorem exec_quiesce : exec (.quiesce u init arg tag) s =
    s.logic fun d => d.unitRow init u fun ok e => e.unitCmd ok init u 1 arg.toNat tag.toNat := rfl

theorem exec_resume : exec (.resume u init arg tag) s =
    s.logic fun d => d.unitRow init u fun ok e => e.unitCmd ok init u 2 arg.toNat tag.toNat := rfl

theorem exec_retire : exec (.retire u init arg tag) s =
    s.logic fun d => (d.unitRow init u fun ok e => e.unitCmd ok init u 7 arg.toNat tag.toNat).txnWatch := rfl

theorem exec_takeOffline : exec (.takeOffline u init arg tag) s =
    s.logic fun d => (d.unitRow init u fun ok e => e.unitCmd ok init u 8 arg.toNat tag.toNat).txnWatch := rfl

theorem exec_restart : exec (.restart u init arg tag) s =
    s.logic fun d => (d.unitRow init u fun ok e => e.unitCmd ok init u 5 arg.toNat tag.toNat).cxSettle.txnWatch := rfl

end Exec

namespace Dev

@[simp] theorem watchQuiet_cmdEnd (d : Dev) (u tag res : Nat) : (d.cmdEnd u tag res).watchQuiet = d.watchQuiet :=
  watchQuiet_congr (cmdEnd_ep ..) (rd_cmdEnd (by decide) ..) (fun _ => rd_cmdEnd (by decide) ..) (rd_cmdEnd (by decide) ..)

@[simp] theorem watchQuiet_accDenied (d : Dev) (n : Nat) (write : Bool) (off size : Nat) :
    (d.accDenied n write off size).watchQuiet = d.watchQuiet :=
  watchQuiet_congr (ep_accDenied ..) (rd_accDenied (by decide) (by decide) (by decide) ..)
    (fun _ => rd_accDenied (by decide) (by decide) (by decide) ..) (rd_accDenied (by decide) (by decide) (by decide) ..)

end Dev

/-! ### The common checks -/

section Checks
variable {s : State} (on : s.On) {u : Fin 349} {init : Initiator} {arg : BitVec 16} {tag : BitVec 8}
  (quiet : s.dev.watchQuiet = true) {e : Nat × Instr} (he : e ∈ unitRows u init arg tag)
include on quiet he

theorem runs_busy (may : s.dev.mayWrite init (unitBase u + 8) = true) (busy : s.dev.f unitCmdStatus_BUSY u = 1) :
    Runs e.2 s fun d => d = s.dev.inc .unitRejWr u :=
  runs_unitRows he on (fun go => (unitRow_permitted may _).trans (cmdGuard_busy go busy _))
    ((watchQuiet_congr rfl rfl (fun _ => rfl) rfl).trans quiet) rfl rfl

variable (free : s.dev.f unitCmdStatus_BUSY u = 0)
include free

theorem runs_unsupported (may : s.dev.mayWrite init (unitBase u + 8) = true) (no : accepts u e.1 = false) :
    Runs e.2 s fun d => d = s.dev.cmdEnd u tag.toNat 6 :=
  runs_unitRows he on (fun go => (unitRow_permitted may _).trans (cmdGuard_unsupported go free no))
    ((watchQuiet_cmdEnd ..).trans quiet) (by rw [cmdEnd_mg]) rfl

/-- A denied command ends with PERMISSION; the record and the event of the denial show in no unit's state. -/
theorem runs_denied (not : s.dev.mayWrite init (unitBase u + 8) = false) : Runs e.2 s fun d =>
    d.f unitCmdStatus_RESULT u = 7 ∧ d.f unitCmdStatus_TAG u = tag.toNat ∧ d.f unitState_STATE u = s.dev.f unitState_STATE u := by
  have recorded {r : Reg} (q : r ∉ raiseRegs) (h : r ≠ .hbAccErrRec) (h' : r ≠ .hbAccErrBytes) (i : Nat) :
      (s.dev.accDenied init true (unitBase u + 8) 4).rd r i = s.dev.rd r i := rd_accDenied q h h' ..
  have free' := (f_of_rd (F := unitCmdStatus_BUSY) (recorded (by decide) (by decide) (by decide) u)).trans free
  have done := cmdEnd_ended (s.dev.accDenied init true (unitBase u + 8) 4) u tag.toNat (res := ucPermission) (by decide)
  refine runs_unitRows he on (fun go => (unitRow_denied not _).trans (cmdGuard_denied go free'))
    ?_ ?_ ⟨done.result, done.tag.trans (Nat.mod_eq_of_lt tag.isLt), ?_⟩
  · rw [watchQuiet_cmdEnd, watchQuiet_accDenied, quiet]
  · rw [cmdEnd_mg, accDenied_held]
  · exact (f_of_rd (rd_cmdEnd (by decide) ..)).trans (f_of_rd (recorded (by decide) (by decide) (by decide) u))

end Checks

theorem runs_nop {s : State} (on : s.On) {u : Fin 349} {init : Initiator} (may : s.dev.mayWrite init (unitBase u + 8) = true)
    (free : s.dev.f unitCmdStatus_BUSY u = 0) (arg : BitVec 16) (tag : BitVec 8) :
    Runs (.nop u init arg tag) s fun d => d = s.dev.cmdEnd u tag.toNat 0 :=
  runs_logic_to on (exec_nop ..) ((unitRow_permitted may _).trans (cmdGuard_go _ free rfl)) (by simp [runCmd]) (by simp [runCmd, ucOk])

theorem runs_restart_unsupported {s : State} (on : s.On) {u : Fin 349} {init : Initiator}
    (may : s.dev.mayWrite init (unitBase u + 8) = true) (free : s.dev.f unitCmdStatus_BUSY u = 0) (no : accepts u 5 = false)
    (arg : BitVec 16) (tag : BitVec 8) :
    Runs (.restart u init arg tag) s fun d => d = (s.dev.cmdEnd u tag.toNat 6).cxSettle.txnWatch := by
  refine runs_logic_to on (exec_restart ..) (d := (s.dev.cmdEnd u tag.toNat 6).cxSettle.txnWatch) ?_ ?_ rfl
  · rw [unitRow_permitted may, unitCmd, cmdGuard_unsupported _ free no, ucUnsupported]
  · rw [txnWatch_held, cxSettle_held, cmdEnd_mg]

/-! ### Commands of a leaf alone -/

section Leaf
variable {s : State} (on : s.On) {u : Fin 349} {init : Initiator} (arg : BitVec 16) (tag : BitVec 8)
  (may : s.dev.mayWrite init (unitBase u + 8) = true) (l : s.dev.LeafFree u)
include on may l

theorem runs_quiesce_drains (takes : accepts u 1 = true) (run : s.dev.f unitState_STATE u = 2)
    (inFlight : s.dev.drained u = false ∨ drainsOnWire u = true) : Runs (.quiesce u init arg tag) s fun d =>
      d.f unitState_STATE u = 2 ∧ d.f unitState_DRAINING u = 1 ∧ d.f unitCmdStatus_BUSY u = 1 ∧ d.admits u = false ∧
      d.ops = s.dev.ops ++ [⟨u, 1, arg.toNat, tag.toNat, init, [(u.val, 2)], [u.val]⟩] ∧
      s.dev.Only d { regs := [(.unitState, u), (.unitCmdStatus, u)], parts := [.ops] } := by
  have acts : s.dev.actsAs u = 2 := (actsAs_of_plain (by rw [run]; decide)).trans run
  have drains : ((s.dev.startCmd init u 1 arg.toNat tag.toNat).sf unitState_DRAINING u 1).f unitState_DRAINING u = 1 :=
    f_sf_fits (by decide) (by decide) (by decide) ..
  refine runs_leaf on l may (by rw [acts]; rfl) (by decide) takes (fun _ => by decide) (fun _ => by decide) (exec_quiesce ..) ?_
  rw [quiesce_drains inFlight]
  refine ⟨?_, drains, ?_, by simp [admits, b, drains], ?_, ?_⟩
  · rw [f_sf_of_apart (by decide), f_of_rd (rd_startCmd _ _ _ _ _ _ (by decide) _), run]
  · rw [f_sf_of_apart (by decide), busy_startCmd]
  · rw [sf_ops, ← acts]
    rfl
  · exact ((within_startCmd _ _ _ _ _ _ (by simp [Foot.hasReg]) (by simp [Foot.hasPart])).trans (.sf _ (by simp [Foot.hasReg]) 1)).only

theorem runs_quiesce_at_once (takes : accepts u 1 = true) (run : s.dev.f unitState_STATE u = 2)
    (empty : s.dev.drained u = true) (off : drainsOnWire u = false) : Runs (.quiesce u init arg tag) s fun d =>
      d.f unitState_STATE u = 3 ∧ d.f unitState_PREV_STATE u = 2 ∧ d.f unitState_DRAINING u = 0 ∧ d.f unitCmdStatus_BUSY u = 0 ∧
      d.f unitCmdStatus_TAG u = tag.toNat ∧ d.f unitCmdStatus_RESULT u = 0 ∧
      s.dev.Only d { regs := [(.unitState, u), (.unitCmdStatus, u)], parts := [.ops], events := true } := by
  have acts : s.dev.actsAs u = 2 := (actsAs_of_plain (by rw [run]; decide)).trans run
  have runs : ((s.dev.startCmd init u 1 arg.toNat tag.toNat).sf unitState_DRAINING u 1).f unitState_STATE u = 2 := by
    rw [f_sf_of_apart (by decide), f_of_rd (rd_startCmd _ _ _ _ _ _ (by decide) _), run]
  have took := takeState_eq (d := (s.dev.startCmd init u 1 arg.toNat tag.toNat).sf unitState_DRAINING u 1) (u := u) (st := stQuiesced)
    (by rw [leafState, runs]; decide) (by rw [leafState, runs]; decide) (by decide)
  rw [enterHook_quiesced] at took
  refine runs_leaf on l may (by rw [acts]; rfl) (by decide) takes (fun _ => by decide) (fun _ => by decide) (exec_quiesce ..) ?_
  rw [quiesce_at_once empty off, took]
  have spares := (SparesCommands.sf (s.dev.startCmd init u 1 arg.toNat tag.toNat) (F := unitState_DRAINING) rfl u 1).trans
    (moved_sparesCommands _ u stQuiesced 0)
  obtain ⟨done, shows, -⟩ := partEnd_started l spares (moved_shows _ u stQuiesced 0 (by decide) (by decide))
  refine ⟨shows.state, shows.prev.trans runs, shows.draining, done.busy, done.tag.trans (Nat.mod_eq_of_lt tag.isLt), done.result, ?_⟩
  have began := within_startCmd (F := { regs := [(.unitState, u), (.unitCmdStatus, u)], parts := [.ops], events := true }) s.dev init u 1
    arg.toNat tag.toNat (by simp [Foot.hasReg]) (by simp [Foot.hasPart])
  exact ((began.trans (.sf _ (by simp [Foot.hasReg]) 1)).thenOnly (only_moved _ u stQuiesced 0 (by simp [Foot.hasReg]) rfl)).partEnd
    l.leaf (opOf_started l spares) rfl rfl ucOk (by simp [Foot.hasReg]) (by simp [Foot.hasPart])

theorem runs_resume (takes : accepts u 2 = true) (quiesced : s.dev.f unitState_STATE u = 3) : Runs (.resume u init arg tag) s fun d =>
    d.f unitState_STATE u = 2 ∧ d.f unitState_PREV_STATE u = 3 ∧ d.f unitState_FAULT_CAUSE u = 0 ∧ d.f unitCmdStatus_BUSY u = 0 ∧
    d.f unitCmdStatus_TAG u = tag.toNat ∧ d.f unitCmdStatus_RESULT u = 0 := by
  have acts : s.dev.actsAs u = 3 := (actsAs_of_plain (by rw [quiesced]; decide)).trans quiesced
  have still : (s.dev.startCmd init u 2 arg.toNat tag.toNat).f unitState_STATE u = 3 := by
    rw [f_of_rd (rd_startCmd _ _ _ _ _ _ (by decide) _), quiesced]
  have moves : (s.dev.startCmd init u 2 arg.toNat tag.toNat).leafState u ≠ stRun := by rw [leafState, still]; decide
  have plain : (s.dev.startCmd init u 2 arg.toNat tag.toNat).leafState u ≠ stStaged := by rw [leafState, still]; decide
  refine runs_leaf on l may (by rw [acts]; rfl) (by decide) takes (fun _ => by decide) (fun _ => by decide) (exec_resume ..) ?_
  rw [beginLeaf_resume]
  obtain ⟨done, shows, -⟩ := partEnd_started l (takeState_sparesCommands moves plain (by decide))
    (takeState_shows moves plain (by decide) (by decide))
  exact ⟨shows.state, shows.prev.trans still, shows.cause, done.busy, done.tag.trans (Nat.mod_eq_of_lt tag.isLt), done.result⟩

/-- The command of a leaf out of QUIESCED or FAULTED. -/
theorem runs_takeOffline (still : s.dev.phase ≠ phWaiting) (takes : accepts u 8 = true)
    (rest : s.dev.f unitState_STATE u = 3 ∨ s.dev.f unitState_STATE u = 5) : Runs (.takeOffline u init arg tag) s fun d =>
      d.f unitState_STATE u = 0 ∧ d.f unitState_FAULT_CAUSE u = 0 ∧ d.f unitCmdStatus_BUSY u = 0 ∧
      d.f unitCmdStatus_TAG u = tag.toNat ∧ d.f unitCmdStatus_RESULT u = 0 := by
  have kept : (s.dev.startCmd init u 8 arg.toNat tag.toNat).f unitState_STATE u = s.dev.f unitState_STATE u :=
    f_of_rd (rd_startCmd _ _ _ _ _ _ (by decide) _)
  have plain : s.dev.f unitState_STATE u ≠ stStaged := by rcases rest with h | h <;> rw [h] <;> decide
  have moves : (s.dev.startCmd init u 8 arg.toNat tag.toNat).leafState u ≠ stOffline := by
    rw [leafState, kept]
    rcases rest with h | h <;> rw [h] <;> decide
  have ready : stateAccepts u 8 (s.dev.actsAs u) = true := by
    rw [actsAs_of_plain plain]
    rcases rest with h | h <;> rw [h] <;> rfl
  obtain ⟨done, shows, phase⟩ := partEnd_started l
    ((takeState_sparesCommands moves (by rwa [leafState, kept]) (by decide)).trans (.of_unitView (lanePower_unitView _ u false)))
    ((takeState_shows moves (by rwa [leafState, kept]) (by decide) (by decide)).of_rd
      (rd_of_unitView (lanePower_unitView _ u false).1 rfl u))
  refine runs_leaf_watched on l may ready (by decide) takes (fun _ => by decide) (fun _ => by decide) (exec_takeOffline ..)
    (by rw [beginLeaf_offline]; exact phase.trans_ne still) ?_
  rw [beginLeaf_offline]
  exact ⟨shows.state, shows.cause, done.busy, done.tag.trans (Nat.mod_eq_of_lt tag.isLt), done.result⟩

/-- The command of a leaf in service with no block in flight. -/
theorem runs_retire (still : s.dev.phase ≠ phWaiting) (takes : accepts u 7 = true)
    (live : s.dev.f unitState_STATE u = 2 ∨ s.dev.f unitState_STATE u = 3)
    (calm : ¬ (unitKind u = .ac ∧ s.dev.coreBusy (unitInst u) = true)) : Runs (.retire u init arg tag) s fun d =>
      d.f unitState_STATE u = 5 ∧ d.f unitState_FAULT_CAUSE u = 5 ∧ d.f unitCmdStatus_BUSY u = 0 ∧
      d.f unitCmdStatus_TAG u = tag.toNat ∧ d.f unitCmdStatus_RESULT u = 0 := by
  have ready : stateAccepts u 7 (s.dev.actsAs u) = true := by
    rw [actsAs_of_plain (by rcases live with h | h <;> rw [h] <;> decide)]
    rcases live with h | h <;> rw [h] <;> rfl
  have begins : (s.dev.startCmd init u 7 arg.toNat tag.toNat).beginLeaf 7 u = _ :=
    beginLeaf_retire (by rwa [coreBusy_congr (startCmd_eng ..)])
  obtain ⟨done, shows, phase⟩ := partEnd_started l (takeFault_sparesCommands (s.dev.startCmd init u 7 arg.toNat tag.toNat) u fcauseSoftware)
    (takeFault_shows _ u (by decide))
  refine runs_leaf_watched on l may ready (by decide) takes (fun _ => by decide) (fun _ => by decide) (exec_retire ..)
    (by rw [begins]; exact phase.trans_ne still) ?_
  rw [begins]
  exact ⟨shows.state, shows.cause, done.busy, done.tag.trans (Nat.mod_eq_of_lt tag.isLt), done.result⟩

end Leaf

/-- Settles O6: the common checks answer the refusals; a leaf alone begins its command, and `takeState` or `takeFault` moves it. -/
theorem leafCommandsAndRefusals : Obligations.LeafCommandsAndRefusals := by
  unfold Obligations.LeafCommandsAndRefusals
  intro s on
  refine ⟨?_, ?_, ?_, ?_, ?_, ?_, ?_, ?_, ?_, ?_⟩
  · exact fun u init arg tag quiet may busy e he => runs_busy on quiet he may busy
  · exact fun u init arg tag quiet may free e he no => runs_unsupported on quiet he free may no
  · exact fun u init arg tag quiet not free e he => runs_denied on quiet he free not
  · exact fun u init arg tag _ may free => runs_nop on may free arg tag
  · exact fun u init arg tag _ may free no => runs_restart_unsupported on may free no arg tag
  · exact fun u init arg tag may free _ leaf alone idle takes run inFlight =>
      runs_quiesce_drains on arg tag may ⟨free, leaf, alone, idle⟩ takes run inFlight
  · exact fun u init arg tag may free _ leaf alone idle takes run empty off =>
      runs_quiesce_at_once on arg tag may ⟨free, leaf, alone, idle⟩ takes run empty off
  · exact fun u init arg tag may free _ leaf alone idle takes quiesced =>
      runs_resume on arg tag may ⟨free, leaf, alone, idle⟩ takes quiesced
  · exact fun u init arg tag may free still leaf alone idle takes rest =>
      runs_takeOffline on arg tag may ⟨free, leaf, alone, idle⟩ still takes rest
  · exact fun u init arg tag may free still leaf alone idle takes live calm =>
      runs_retire on arg tag may ⟨free, leaf, alone, idle⟩ still takes live calm

end Sys2Proof.Machine
end

section
/-! ### What RESTART resets in a leaf, and the row of the buffer and the barrier link that go out of service (R36, R46, R260) -/
namespace Sys2Proof.Machine

/-- An index whose entries a filter keeps reads as before. -/
theorem Sparse.get_filter {α : Type} (d : Nat → α) {p : Nat × α → Bool} {k : Nat} (h : ∀ v, p (k, v) = true) (m : Sparse α) :
    Sparse.get d (m.filter p) k = Sparse.get d m k := by
  induction m with
  | nil => rfl
  | cons x m ih =>
    obtain ⟨j, v⟩ := x
    by_cases e : j = k
    · subst e
      rw [List.filter_cons, if_pos (h v), Sparse.get, Sparse.get, if_pos rfl, if_pos rfl]
    · rw [List.filter_cons, Sparse.get, if_neg e, ← ih]
      split
      · rw [Sparse.get, if_neg e]
      · rfl

/-- Every Ethernet port is of the class of R33 that neither updates nor replaces. -/
theorem unitClass_eth {u : Nat} (h : unitKind u = .eth) : unitClass u = 0x10 := by
  have ports := runOf_all (P := fun r => r.kind = .eth → r.cls = 0x10) (by decide) (by decide) u
  exact ports h

/-- The epoch unit is of no kind that RESTART resets. -/
theorem unitKind_ep : unitKind uEp = .ep := by decide

/-- The buffer unit and the barrier links are no Ethernet ports. -/
theorem unitKind_ne_eth {u : Nat} (h : unitClass u ≠ 0x10) : unitKind u ≠ .eth := fun e => h (unitClass_eth e)

namespace Dev

/-- A header register that a reset of the unit leaves, or a register of another unit, reads as before. -/
theorem rd_unitReset {r : Reg} {i u : Nat} (h : headerStays r = true ∨ regUnit r i ≠ some u) (d : Dev) :
    (d.unitReset u).rd r i = d.rd r i := by
  have lt := Reg.ctorIdx_lt r
  have index : regKey r i % 1024 = r.ctorIdx := by simp only [regKey]; omega
  have inst : regKey r i / 1024 = i := by simp only [regKey]; omega
  refine Sparse.get_filter _ (fun v => ?_) _
  simp only [index, inst, Reg.all_ctorIdx, Bool.or_eq_true, bne_iff_ne]
  exact h

theorem unitReset_spares {u : Nat} (h : u ≠ uEp) (d : Dev) :
    d.SparesCommands (d.unitReset u) ∧ ∀ i, (d.unitReset u).rd .unitState i = d.rd .unitState i := by
  have other : regUnit .epStatus 0 ≠ some u := by
    rw [show regUnit .epStatus 0 = some uEp by decide]
    simpa using h.symm
  exact ⟨⟨fun i => rd_unitReset (.inl rfl) d, f_of_rd (rd_unitReset (.inr other) d), rfl⟩, fun i => rd_unitReset (.inl rfl) d⟩

/-- What RESTART resets in a leaf shows in no unit's state or command. -/
theorem restartLeaf_spares (d : Dev) (u : Nat) :
    d.SparesCommands (d.restartLeaf u) ∧ (d.restartLeaf u).rd .unitState u = d.rd .unitState u := by
  have seen {e : Dev} (h : unitView e.regs = unitView d.regs ∧ e.ops = d.ops) :
      d.SparesCommands e ∧ e.rd .unitState u = d.rd .unitState u := ⟨.of_unitView h, rd_of_unitView h.1 rfl u⟩
  have reset (e : Dev) {e' : Dev} {w : Nat} (h : unitView e.regs = unitView d.regs ∧ e.ops = d.ops) (other : w ≠ uEp)
      (after : unitView e'.regs = unitView (e.unitReset w).regs ∧ e'.ops = (e.unitReset w).ops) :
      d.SparesCommands e' ∧ e'.rd .unitState u = d.rd .unitState u := by
    obtain ⟨spares, state⟩ := unitReset_spares other e
    exact ⟨((SparesCommands.of_unitView h).trans spares).trans (.of_unitView after),
      (rd_of_unitView after.1 rfl u).trans ((state u).trans (rd_of_unitView h.1 rfl u))⟩
  have other {k : UKind} (h : unitKind u = k) (hk : k ≠ .ep) : u ≠ uEp := by
    rintro rfl
    exact hk (h.symm.trans unitKind_ep)
  unfold restartLeaf
  dsimp only
  split
  · next k => exact reset ((d.ethLost (unitInst u)).setEth (unitInst u) {}) (by simp) (other k (by decide)) ⟨rfl, rfl⟩
  · next k => exact reset (d.canStop (unitInst u)) (by simp) (other k (by decide)) (by simp)
  · next k =>
    refine reset _ ?_ (other k (by decide)) ⟨rfl, rfl⟩
    exact linStampNone_unitView d (unitInst u)
  · exact seen (by simp)
  · next k => exact reset d ⟨rfl, rfl⟩ (other k (by decide)) ⟨rfl, rfl⟩
  · exact reset d (w := uBw) ⟨rfl, rfl⟩ (by decide) ⟨rfl, rfl⟩
  · exact seen (by simp)
  · exact seen (by simp)
  · exact seen ⟨rfl, rfl⟩

end Dev
end Sys2Proof.Machine
end

section
/-! ### Unit commands that start the work of a leaf, and the transaction that BRING_ONLINE opens (R36, R46, R67, R260) -/
namespace Sys2Proof.Machine

section Exec
variable (u : Fin 349) (init : Initiator) (arg : BitVec 16) (tag : BitVec 8) (s : State)

theorem exec_update : exec (.update u init arg tag) s =
    s.logic fun d => (d.unitRow init u fun ok e => e.unitCmd ok init u 3 arg.toNat tag.toNat).txnWatch := rfl

theorem exec_recal : exec (.recal u init arg tag) s =
    s.logic fun d => (d.unitRow init u fun ok e => e.unitCmd ok init u 4 arg.toNat tag.toNat).txnWatch := rfl

theorem exec_replace : exec (.replace u init arg tag) s =
    s.logic fun d => (d.unitRow init u fun ok e => e.unitCmd ok init u 6 arg.toNat tag.toNat).txnWatch := rfl

theorem exec_bringOnline : exec (.bringOnline u init arg tag) s =
    s.logic fun d => d.unitRow init u fun ok e => e.bringOnline ok init u tag.toNat := rfl

end Exec

namespace Dev

/-! #### UPDATING -/

/-- The commands that take a leaf to UPDATING with nothing else. -/
theorem beginLeaf_updating {cmd u : Nat} (h : cmd = 3 ∨ cmd = 4 ∨ cmd = 6) (calm : cmd = 4 → unitKind u ≠ .eth) (d : Dev) :
    d.beginLeaf cmd u = d.takeState u stUpdating := by
  rcases h with rfl | rfl | rfl
  · rfl
  · exact if_pos (calm rfl)
  · rfl

theorem beginLeaf_restart (d : Dev) (u : Nat) : d.beginLeaf 5 u = (d.restartLeaf u).takeState u stUpdating := rfl

/-- A unit that is no port, and neither STAGED nor UPDATING, moves to UPDATING and does nothing besides. -/
theorem takeState_updating {d : Dev} {u : Nat} (off : unitKind u ≠ .eth) (moves : d.leafState u ≠ stUpdating)
    (plain : d.leafState u ≠ stStaged) : d.takeState u stUpdating = d.moved u stUpdating 0 := by
  rw [takeState_eq moves plain (by decide), enterHook_updating off]

/-- A unit in QUIESCED or FAULTED may take UPDATING. -/
theorem rests {d : Dev} {u : Nat} (h : d.f unitState_STATE u = 3 ∨ d.f unitState_STATE u = 5) :
    d.leafState u ≠ stUpdating ∧ d.leafState u ≠ stStaged ∧ d.actsAs u ≠ stRun := by
  rw [actsAs_of_plain (by rcases h with h | h <;> rw [h] <;> decide), leafState]
  rcases h with h | h <;> rw [h] <;> decide

/-- A command that has begun, and what left the commands alone: the unit is BUSY, and no commit waits that did not. -/
theorem busy_started {d e : Dev} {init u cmd arg tag : Nat} (spares : (d.startCmd init u cmd arg tag).SparesCommands e) :
    e.f unitCmdStatus_BUSY u = 1 ∧ e.phase = d.phase :=
  ⟨(f_of_rd (spares.status u)).trans (busy_startCmd ..), spares.phase.trans (f_of_rd (rd_startCmd _ _ _ _ _ _ (by decide) 0))⟩

/-! #### The buffer's row -/

/-- A row goes out of service: the buffer names it, and the pool's count changes. -/
theorem rowOutStart_unitView (d : Dev) (row : Nat) (cmd : Bool) :
    unitView (d.rowOutStart row cmd).regs = unitView d.regs ∧ (d.rowOutStart row cmd).ops = d.ops :=
  ⟨sf_unitView (F := bqFree_FREE) rfl { d with buf := _ } 0 _, sf_ops ..⟩

theorem rowOutStart_rowOut (d : Dev) (row : Nat) (cmd : Bool) : (d.rowOutStart row cmd).buf.rowOut = some (row, cmd) := by
  rw [rowOutStart, sf_buf]

/-- A unit's move leaves every register that is neither its state nor reached by an event. -/
theorem rd_moved {r : Reg} (h : r ≠ .unitState) (h' : r ∉ raiseRegs) (d : Dev) (u st cause i : Nat) :
    (d.moved u st cause).rd r i = d.rd r i := by
  rw [moved, rd_sf_ne _ (.inl h.symm), rd_setState _ _ _ h h', rd_sf_ne _ (.inl h.symm)]

theorem spareRow_of_rd {d e : Dev} (h : ∀ i, e.rd .idRowMap i = d.rd .idRowMap i) : e.spareRow = d.spareRow := by
  simp only [spareRow, b, f_of_rd (F := idRowMap_USED) (h _)]

/-- REPLACE of the buffer unit out of QUIESCED or FAULTED, with a spare row and none out of service. -/
theorem replaceRow_rests {d : Dev} {u : Nat} (row : unitClass u = 0x30) (rest : d.f unitState_STATE u = 3 ∨ d.f unitState_STATE u = 5)
    (noneOut : d.buf.rowOut = none) (spare : d.spareRow ≠ none) (tag arg : Nat) :
    d.replaceRow u tag arg = (d.moved u stUpdating 0).rowOutStart (arg % 1024) true := by
  obtain ⟨moves, plain, rested⟩ := rests rest
  have spare' : (d.moved u stUpdating 0).spareRow.isNone = false := by
    rw [spareRow_of_rd (rd_moved (by decide) (by decide) d u stUpdating 0)]
    simpa [Option.isSome_iff_ne_none] using spare
  simp only [replaceRow, noneOut, Option.isSome_none, Bool.false_eq_true, if_false, if_neg rested,
    takeState_updating (unitKind_ne_eth (by rw [row]; decide)) moves plain, spare']

/-! #### The barrier link -/

theorem rd_setLink {r : Reg} (h : r ≠ .bwLinkStatus) (d : Dev) (n : Nat) (x : LinkEnd) (i : Nat) : (d.setLink n x).rd r i = d.rd r i :=
  rd_sf_ne _ (.inl h.symm) _

/-- What is sent and not acknowledged says nothing about whether a link is up. -/
theorem up_setLink (d : Dev) (n : Nat) (x : LinkEnd) : (d.setLink n x).f bwLinkStatus_UP n = d.f bwLinkStatus_UP n := by
  rw [setLink, f_sf_of_apart (by decide)]
  rfl

theorem ops_setLink (d : Dev) (n : Nat) (x : LinkEnd) : (d.setLink n x).ops = d.ops := by rw [setLink, sf_ops]

/-- A link that goes down: it trains, and what it had sent is lost. -/
def linkDown (d : Dev) (n : Nat) : Dev :=
  ((d.sf bwLinkStatus_UP n 0).sf bwLinkStatus_TRAINING n 1).setLink n
    { ((d.sf bwLinkStatus_UP n 0).sf bwLinkStatus_TRAINING n 1).link n with sent := [], waiting := [], tries := 0 }

theorem linkDown_spares (d : Dev) (n u : Nat) :
    d.SparesCommands (d.linkDown n) ∧ (d.linkDown n).rd .unitState u = d.rd .unitState u ∧ (d.linkDown n).f bwLinkStatus_UP n = 0 := by
  have kept {r : Reg} (h : r ≠ .bwLinkStatus) (i : Nat) : (d.linkDown n).rd r i = d.rd r i := by
    rw [linkDown, rd_setLink h, rd_sf_ne _ (.inl h.symm), rd_sf_ne _ (.inl h.symm)]
  refine ⟨⟨kept (by decide), f_of_rd (kept (by decide) 0), ?_⟩, kept (by decide) u, ?_⟩
  · rw [linkDown, ops_setLink, sf_ops, sf_ops]
  · rw [linkDown, up_setLink, f_sf_of_apart (by decide), f_sf_fits (by decide) (by decide) (by decide)]

/-- What the loss of a link does besides (R260): the load die loses its reports, and an event and a fault are raised. -/
theorem blLost_unitView (d : Dev) (n : Nat) :
    unitView (d.blLost n).regs = unitView (d.linkDown n).regs ∧ (d.blLost n).ops = (d.linkDown n).ops := by
  rw [blLost, ← linkDown]
  dsimp only
  repeat' split
  all_goals simp +decide

/-- A lost link shows in no unit's state or command, and it is down. -/
theorem blLost_spares (d : Dev) (n u : Nat) :
    d.SparesCommands (d.blLost n) ∧ (d.blLost n).rd .unitState u = d.rd .unitState u ∧ (d.blLost n).f bwLinkStatus_UP n = 0 := by
  obtain ⟨spares, state, down⟩ := linkDown_spares d n u
  obtain ⟨regs, ops⟩ := blLost_unitView d n
  exact ⟨spares.trans (.of_unitView ⟨regs, ops⟩), (rd_of_unitView regs rfl u).trans state, (f_of_unitView regs rfl n).trans down⟩

/-! #### The request of a retrain -/

theorem pa_setOps (d : Dev) (l : List UnitOp) : (d.setOps l).pa = d.pa ∧ (d.setOps l).paNext = d.paNext := ⟨rfl, rfl⟩

theorem startCmd_pa (d : Dev) (init u cmd arg tag : Nat) :
    (d.startCmd init u cmd arg tag).pa = d.pa ∧ (d.startCmd init u cmd arg tag).paNext = d.paNext := by
  rw [startCmd, (pa_setOps ..).1, (pa_setOps ..).2, sf_pa, sf_paNext]
  exact ⟨rfl, rfl⟩

theorem paBudget_startCmd (d : Dev) (init u cmd arg tag a : Nat) : (d.startCmd init u cmd arg tag).paBudget a = d.paBudget a := by
  have kept {F : RField} (h : F.reg ≠ .unitCmdStatus) (i : Nat) : (d.startCmd init u cmd arg tag).f F i = d.f F i :=
    f_of_rd (rd_startCmd _ _ _ _ _ _ h i)
  rw [paBudget, paBudget, paEntry, paEntry, mode, mode, kept (by decide), kept (by decide)]

theorem acct_of_pa {d e : Dev} (h : e.pa = d.pa) (a : Nat) : e.acct a = d.acct a := by rw [acct, acct, h]

theorem pa_paShow (d : Dev) (a : Nat) : (d.paShow a).pa = d.pa := by
  unfold paShow
  split <;> simp

/-- A request that the budget bears and the list of waiting ones has room for is placed behind them. -/
theorem paRequest_waits {d : Dev} {a cost : Nat} (bears : cost ≤ d.paBudget a) (room : (d.acct a).waiting.length < 64) (who : PaFor) :
    (d.paRequest a who cost).1 = some d.paNext ∧
      ((d.paRequest a who cost).2.acct a).waiting = (d.acct a).waiting ++ [⟨who, cost, d.paNext⟩] := by
  have shown (e : Dev) (x : PaAcct) : (e.setAcct a x).acct a = x := by
    rw [setAcct, acct, pa_paShow]
    exact Sparse.get_set_same ..
  rw [paRequest, if_neg (by simp [Nat.not_lt.2 bears, Nat.not_le.2 room])]
  refine ⟨rfl, ?_⟩
  dsimp only
  split
  · rw [acct_of_pa (inc_pa ..), shown]
  · rw [shown]

/-- RECAL of a port whose command runs asks the VCORE account for the retrain's 250 mW (R67). -/
theorem beginLeaf_retrain {d : Dev} {u : Nat} (port : unitKind u = .eth) {o : UnitOp} (running : d.opOf u = some o)
    (bears : 250 ≤ d.paBudget 0) (room : (d.acct 0).waiting.length < 64) :
    d.beginLeaf 4 u = (d.paRequest 0 (.retrain (unitInst u)) 250).2 := by
  have granted := (paRequest_waits bears room (.retrain (unitInst u))).1
  simp only [beginLeaf, port, ne_eq, not_true_eq_false, if_false, running, Option.isNone_some, Bool.false_eq_true]
  split
  · next h => simp [h] at granted
  · next h => rw [h]

/-! #### The transaction of BRING_ONLINE -/

theorem ep_setOps (d : Dev) (l : List UnitOp) : (d.setOps l).ep = d.ep := rfl

theorem rd_setTxn (d : Dev) (t : Option Txn) (r : Reg) (i : Nat) : (d.setTxn t).rd r i = d.rd r i := rfl

/-- An opened transaction shows STAGING and its holder. -/
theorem txnOpen_shows (d : Dev) (t : Txn) {init : Initiator} (h : t.holder = init) :
    (d.txnOpen t).f epStatus_PHASE 0 = 1 ∧ (d.txnOpen t).f epStatus_HOLDER 0 = init := by
  have shown (n : Initiator) : bits 2 0 (BitVec.ofNat 32 (0 + 2 ^ 31 + n % 32 * 8 + phStaging)).toNat = 1 ∧
      bits 7 3 (BitVec.ofNat 32 (0 + 2 ^ 31 + n % 32 * 8 + phStaging)).toNat = n := by
    revert n
    decide
  rw [f, f, txnOpen, rd_setTxn, rd_wr_same, h]
  exact shown init

/-- BRING_ONLINE of an OFFLINE leaf alone begins its command and, where no transaction is open, opens one that waits for it. -/
theorem bringOnline_leaf {d : Dev} {u : Nat} (l : d.LeafFree u) (takes : accepts u cmdOnline = true)
    (offline : d.f unitState_STATE u = 0) (none : d.ep.txn = none) (init tag : Nat) :
    d.bringOnline true init u tag = (d.startCmd init u cmdOnline 0 tag).txnOpen { kind := .online u [u], holder := init } := by
  have acts : d.actsAs u = 0 := (actsAs_of_plain (by rw [offline]; decide)).trans offline
  have free : (d.startCmd init u cmdOnline 0 tag).ep.txn = Option.none := by
    rw [startCmd, ep_setOps, sf_ep, none]
  have started : (d.sf unitCmdStatus_BUSY u 1).setOps
      ((d.sf unitCmdStatus_BUSY u 1).ops ++ [⟨u, cmdOnline, 0, tag, init, [(u, stOffline)], [u]⟩]) =
        d.startCmd init u cmdOnline 0 tag := by
    rw [startCmd, acts, sf_ops, stOffline]
  rw [bringOnline, cmdGuard_go _ l.free takes]
  simp only [parts_leaf l.leaf l.alone, List.isEmpty_cons, Bool.false_eq_true, if_false, List.any_cons, List.any_nil, leafReady, acts,
    l.idle, List.map_cons, List.map_nil, started, txnAsk, free]
  rfl

theorem within_setTxn {F : Foot} (h : F.hasPart .ep) (d : Dev) (t : Option Txn) : d.Within (d.setTxn t) F := by
  refine .parts rfl rfl fun p n => ?_
  cases p
  case ep => exact absurd h n
  all_goals simp [Part.same, setTxn, setEp]

/-- An opened transaction changes the status of the epoch unit and the transaction. -/
theorem within_txnOpen {F : Foot} (h : F.hasReg .epStatus 0) (h' : F.hasPart .ep) (d : Dev) (t : Txn) : d.Within (d.txnOpen t) F :=
  (Within.wr d h _).trans (within_setTxn h' _ _)

end Dev

open Dev

/-! ### The rows -/

section Leaf
variable {s : State} (on : s.On) {u : Fin 349} {init : Initiator} (arg : BitVec 16) (tag : BitVec 8)
  (may : s.dev.mayWrite init (unitBase u + 8) = true) (still : s.dev.phase ≠ phWaiting) (l : s.dev.LeafFree u)
include on may still l

/-- UPDATE, RECAL and REPLACE of a QUIESCED leaf that is neither the buffer unit nor, for RECAL, a port. -/
theorem runs_updating (other : unitClass u ≠ 0x30) (quiesced : s.dev.f unitState_STATE u = 3) {e : Nat × Instr}
    (he : e ∈ [((3 : Nat), Instr.update u init arg tag), (4, .recal u init arg tag), (6, .replace u init arg tag)])
    (takes : accepts u e.1 = true) (calm : e.1 = 4 → unitKind u ≠ .eth) : Runs e.2 s fun d =>
      d.f unitState_STATE u = 4 ∧ d.f unitState_PREV_STATE u = 3 ∧ d.f unitCmdStatus_BUSY u = 1 ∧
      s.dev.Only d { regs := [(.unitState, u), (.unitCmdStatus, u)], parts := [.ops], events := true } := by
  obtain ⟨cmd, code, row, hc⟩ : ∃ cmd, e.1 = cmd ∧ (cmd = 3 ∨ cmd = 4 ∨ cmd = 6) ∧
      exec e.2 s = s.logic fun d => (d.unitRow init u fun ok x => x.unitCmd ok init u cmd arg.toNat tag.toNat).txnWatch := by
    simp only [List.mem_cons, List.not_mem_nil, or_false] at he
    rcases he with rfl | rfl | rfl
    · exact ⟨3, rfl, by decide, exec_update ..⟩
    · exact ⟨4, rfl, by decide, exec_recal ..⟩
    · exact ⟨6, rfl, by decide, exec_replace ..⟩
  rw [code] at takes calm
  have off : unitKind u ≠ .eth := fun port => by
    have known := unitClass_eth port
    rcases row with rfl | rfl | rfl
    · simp [accepts, known, classCmds] at takes
    · exact calm rfl port
    · simp [accepts, known, classCmds] at takes
  have acts : s.dev.actsAs u = 3 := (actsAs_of_plain (by rw [quiesced]; decide)).trans quiesced
  let x := s.dev.startCmd init u cmd arg.toNat tag.toNat
  have kept : x.f unitState_STATE u = 3 := (f_of_rd (rd_startCmd _ _ _ _ _ _ (by decide) _)).trans quiesced
  have begins : x.beginLeaf cmd u = x.moved u stUpdating 0 :=
    (beginLeaf_updating row (fun _ => off) x).trans
      (takeState_updating off (by rw [leafState, kept]; decide) (by rw [leafState, kept]; decide))
  obtain ⟨busy, phase⟩ := busy_started (moved_sparesCommands x u stUpdating 0)
  have shows := moved_shows x u stUpdating 0 (by decide) (by decide)
  refine runs_leaf_watched on l may (by rw [acts]; rcases row with rfl | rfl | rfl <;> rfl)
    (by rcases row with rfl | rfl | rfl <;> decide) takes (fun h => absurd h other)
    (fun _ => by rcases row with rfl | rfl | rfl <;> decide) hc (by rw [begins]; exact phase.trans_ne still) ?_
  rw [begins]
  refine ⟨shows.state, shows.prev.trans kept, busy, ?_⟩
  exact (within_startCmd _ _ _ _ _ _ (by simp [Foot.hasReg]) (by simp [Foot.hasPart])).thenOnly
    (only_moved x u stUpdating 0 (by simp [Foot.hasReg]) rfl)

/-- RECAL of a QUIESCED port stays there while the grant of its retrain is waited for. -/
theorem runs_retrain (port : unitKind u = .eth) (quiesced : s.dev.f unitState_STATE u = 3) (bears : 250 ≤ s.dev.paBudget 0)
    (room : (s.dev.acct 0).waiting.length < 64) : Runs (.recal u init arg tag) s fun d =>
      d.f unitState_STATE u = 3 ∧ d.f unitCmdStatus_BUSY u = 1 ∧
      (d.acct 0).waiting = (s.dev.acct 0).waiting ++ [⟨.retrain (unitInst u), 250, s.dev.paNext⟩] := by
  have acts : s.dev.actsAs u = 3 := (actsAs_of_plain (by rw [quiesced]; decide)).trans quiesced
  have takes : accepts u 4 = true := by simp [accepts, unitClass_eth port, classCmds]
  let x := s.dev.startCmd init u 4 arg.toNat tag.toNat
  obtain ⟨pa, next⟩ := startCmd_pa s.dev init u 4 arg.toNat tag.toNat
  have bears' : 250 ≤ x.paBudget 0 := by rwa [paBudget_startCmd]
  have room' : (x.acct 0).waiting.length < 64 := by rwa [acct_of_pa pa]
  have asked := (paRequest_waits bears' room' (.retrain (unitInst u))).2
  have begins := beginLeaf_retrain port (opOf_startCmd s.dev init u 4 arg.toNat tag.toNat l.idle) bears' room'
  have view := paRequest_unitView x 0 (.retrain (unitInst u)) 250
  obtain ⟨busy, phase⟩ := busy_started (SparesCommands.of_unitView view)
  refine runs_leaf_watched on l may (by rw [acts]; rfl) (by decide) takes (fun _ => by decide) (fun _ => by decide) (exec_recal ..)
    (by rw [begins]; exact phase.trans_ne still) ?_
  rw [begins]
  refine ⟨?_, busy, ?_⟩
  · rw [f_of_unitView view.1 rfl, f_of_rd (rd_startCmd _ _ _ _ _ _ (by decide) _), quiesced]
  · rw [asked, acct_of_pa pa, next]

/-- RESTART of a leaf that is no barrier link: what it resets is gone, and the unit is in UPDATING. -/
theorem runs_restart (takes : accepts u 5 = true) (noLink : unitClass u ≠ 0x3C)
    (rest : s.dev.f unitState_STATE u = 3 ∨ s.dev.f unitState_STATE u = 5) :
    Runs (.restart u init arg tag) s fun d => d.f unitState_STATE u = 4 ∧ d.f unitCmdStatus_BUSY u = 1 := by
  have plain : s.dev.f unitState_STATE u ≠ stStaged := (rests rest).2.1
  have ready : stateAccepts u 5 (s.dev.actsAs u) = true := by
    rw [actsAs_of_plain plain]
    rcases rest with h | h <;> rw [h] <;> rfl
  let x := s.dev.startCmd init u 5 arg.toNat tag.toNat
  obtain ⟨spares, state⟩ := restartLeaf_spares x u
  have kept : (x.restartLeaf u).f unitState_STATE u = s.dev.f unitState_STATE u :=
    (f_of_rd state).trans (f_of_rd (rd_startCmd _ _ _ _ _ _ (by decide) _))
  obtain ⟨moves, plain', -⟩ := rests (d := x.restartLeaf u) (by rwa [kept])
  have shows := takeState_shows moves plain' (by decide) (by decide)
  have settled := cxSettle_unitView ((x.restartLeaf u).takeState u stUpdating)
  obtain ⟨busy, phase⟩ := busy_started
    ((spares.trans (takeState_sparesCommands moves plain' (by decide))).trans (.of_unitView settled))
  refine runs_logic_of_held on (exec_restart ..) ?_ ?_
  · exact (txnWatch_held _).trans ((cxSettle_held _).trans (unitRow_held _ _ _ fun _ _ => unitCmd_held ..))
  rw [unitRow_leaf l ready may (by decide) takes (fun _ => by decide) (fun h => absurd h noLink), beginLeaf_restart,
    txnWatch_of_not_waiting (phase.trans_ne still)]
  exact ⟨(f_of_unitView settled.1 rfl u).trans shows.state, busy⟩

/-- REPLACE of the buffer unit names the row out of service. -/
theorem runs_replaceRow (row : unitClass u = 0x30) (rest : s.dev.f unitState_STATE u = 3 ∨ s.dev.f unitState_STATE u = 5)
    (noneOut : s.dev.buf.rowOut = none) (spare : s.dev.spareRow ≠ none) : Runs (.replace u init arg tag) s fun d =>
      d.f unitState_STATE u = 4 ∧ d.f unitCmdStatus_BUSY u = 1 ∧ d.buf.rowOut = some (arg.toNat % 1024, true) := by
  have ready : stateAccepts u 6 (s.dev.actsAs u) = true := by
    rw [actsAs_of_plain (rests rest).2.1]
    rcases rest with h | h <;> rw [h] <;> rfl
  have takes : accepts u 6 = true := by simp [accepts, row, classCmds]
  let x := s.dev.sf unitCmdStatus_BUSY u 1
  have kept {r : Reg} (h : r ≠ .unitCmdStatus) (i : Nat) : x.rd r i = s.dev.rd r i := rd_sf_ne _ (.inl h.symm) _
  have begins : x.replaceRow u tag.toNat arg.toNat = (x.moved u stUpdating 0).rowOutStart (arg.toNat % 1024) true :=
    replaceRow_rests row (by rwa [f_of_rd (kept (by decide) u)]) (by rw [sf_buf, noneOut])
      (by rwa [spareRow_of_rd (kept (by decide))]) ..
  let y := (x.moved u stUpdating 0).rowOutStart (arg.toNat % 1024) true
  have spares : x.SparesCommands y := (moved_sparesCommands x u stUpdating 0).trans (.of_unitView (rowOutStart_unitView ..))
  have state : y.f unitState_STATE u = 4 :=
    (f_of_unitView (rowOutStart_unitView ..).1 rfl u).trans (moved_shows x u stUpdating 0 (by decide) (by decide)).state
  have busy : y.f unitCmdStatus_BUSY u = 1 :=
    (f_of_rd (spares.status u)).trans (f_sf_fits (F := unitCmdStatus_BUSY) (by decide) (by decide) (by decide) s.dev u)
  have phase : y.phase = s.dev.phase := spares.phase.trans (f_of_rd (kept (by decide) 0))
  let z := y.setOps (y.ops ++ [⟨u, 6, arg.toNat, tag.toNat, init, [(u.val, s.dev.actsAs u)], [u.val]⟩])
  have runs : s.dev.runCmd init u 6 arg.toNat tag.toNat = z :=
    runCmd_ready l ready (by decide) _ _ _ (fun _ => by rw [begins, if_pos (by simp [b, y, busy])])
      (fun link => absurd (row.symm.trans link) (by decide)) (fun other => absurd row other)
  refine runs_logic_of_held on (exec_replace ..) ?_ ?_
  · exact (txnWatch_held _).trans (unitRow_held _ _ _ fun _ _ => unitCmd_held ..)
  rw [unitRow_permitted may, unitCmd, cmdGuard_go _ l.free takes, runs, txnWatch_of_not_waiting (d := z) (phase.trans_ne still)]
  exact ⟨state, busy, rowOutStart_rowOut ..⟩

/-- RESTART of a barrier link takes it down. -/
theorem runs_restartLink (link : unitClass u = 0x3C) (rest : s.dev.f unitState_STATE u = 3 ∨ s.dev.f unitState_STATE u = 5) :
    Runs (.restart u init arg tag) s fun d =>
      d.f unitState_STATE u = 4 ∧ d.f unitCmdStatus_BUSY u = 1 ∧ d.f bwLinkStatus_UP (unitInst u) = 0 := by
  have ready : stateAccepts u 5 (s.dev.actsAs u) = true := by
    rw [actsAs_of_plain (rests rest).2.1]
    rcases rest with h | h <;> rw [h] <;> rfl
  have takes : accepts u 5 = true := by simp [accepts, link, classCmds]
  let x := s.dev.startCmd init u 5 arg.toNat tag.toNat
  have kept : x.f unitState_STATE u = s.dev.f unitState_STATE u := f_of_rd (rd_startCmd _ _ _ _ _ _ (by decide) _)
  obtain ⟨moves, plain, rested⟩ := rests (d := x) (by rwa [kept])
  let y := x.moved u stUpdating 0
  have begins : x.restartLink u = y.blLost (unitInst u) := by
    rw [restartLink, if_neg rested, takeState_updating (unitKind_ne_eth (by rw [link]; decide)) moves plain]
  have runs : s.dev.runCmd init u 5 arg.toNat tag.toNat = y.blLost (unitInst u) :=
    runCmd_ready l ready (by decide) _ _ _ (fun row => absurd (link.symm.trans row) (by decide)) (fun _ => begins)
      (fun _ other => absurd link other)
  obtain ⟨spares, state, down⟩ := blLost_spares y (unitInst u) u
  have settled := cxSettle_unitView (y.blLost (unitInst u))
  obtain ⟨busy, phase⟩ := busy_started
    (((moved_sparesCommands x u stUpdating 0).trans spares).trans (.of_unitView settled))
  refine runs_logic_of_held on (exec_restart ..) ?_ ?_
  · exact (txnWatch_held _).trans ((cxSettle_held _).trans (unitRow_held _ _ _ fun _ _ => unitCmd_held ..))
  rw [unitRow_permitted may, unitCmd, cmdGuard_go _ l.free takes, runs, txnWatch_of_not_waiting (phase.trans_ne still)]
  refine ⟨?_, busy, (f_of_unitView settled.1 rfl _).trans down⟩
  exact (f_of_unitView settled.1 rfl u).trans ((f_of_rd state).trans (moved_shows x u stUpdating 0 (by decide) (by decide)).state)

omit still in
theorem runs_bringOnline (takes : accepts u 9 = true) (offline : s.dev.f unitState_STATE u = 0) (free : s.dev.ep.txn = none) :
    Runs (.bringOnline u init arg tag) s fun d =>
      d.ep.txn = some { kind := .online u [u.val], holder := init, waiting := [u.val] } ∧ d.f epStatus_PHASE 0 = 1 ∧
      d.f epStatus_HOLDER 0 = init ∧ d.f unitState_STATE u = 0 ∧ d.f unitCmdStatus_BUSY u = 1 ∧
      s.dev.Only d { regs := [(.unitCmdStatus, u), (.epStatus, 0)], parts := [.ops, .ep] } := by
  let x := s.dev.startCmd init u cmdOnline 0 tag.toNat
  let t : Txn := { kind := .online u [u.val], holder := init }
  obtain ⟨phase, holder⟩ := txnOpen_shows x t (init := init) rfl
  have kept {r : Reg} (h : r ≠ .epStatus) (i : Nat) : (x.txnOpen t).rd r i = x.rd r i := by
    rw [txnOpen, rd_setTxn, rd_wr_ne _ (.inl h.symm)]
  refine runs_logic_of_held on (exec_bringOnline ..) (unitRow_held _ _ _ fun _ _ => bringOnline_held ..) ?_
  rw [unitRow_permitted may, bringOnline_leaf l takes offline free]
  refine ⟨rfl, phase, holder, ?_, ?_, ?_⟩
  · rw [f_of_rd (kept (by decide) _), f_of_rd (rd_startCmd _ _ _ _ _ _ (by decide) _), offline]
  · rw [f_of_rd (kept (by decide) _), busy_startCmd]
  · exact ((within_startCmd _ _ _ _ _ _ (by simp [Foot.hasReg]) (by simp [Foot.hasPart])).trans
      (within_txnOpen (by simp [Foot.hasReg]) (by simp [Foot.hasPart]) x t)).only

end Leaf

/-- Settles O7: each command of a leaf alone begins as `beginLeaf`, `replaceRow`, `restartLink` or `bringOnline` has it. -/
theorem leafCommandsStartWork : Obligations.LeafCommandsStartWork := by
  unfold Obligations.LeafCommandsStartWork
  intro s u init arg tag on may free still leaf alone idle
  have l : s.dev.LeafFree u := ⟨free, leaf, alone, idle⟩
  refine ⟨?_, ?_, ?_, ?_, ?_, ?_⟩
  · exact fun other quiesced e he takes calm => runs_updating on arg tag may still l other quiesced he takes calm
  · exact fun port quiesced bears room => runs_retrain on arg tag may still l port quiesced bears room
  · exact fun takes noLink rest => runs_restart on arg tag may still l takes noLink rest
  · exact fun row rest noneOut spare => runs_replaceRow on arg tag may still l row rest noneOut spare
  · exact fun link rest => runs_restartLink on arg tag may still l link rest
  · exact fun takes offline free => runs_bringOnline on arg tag may l takes offline free

end Sys2Proof.Machine
end

section
/-! ### The end of a drain and of work, internal faults, and a row that is mapped in again (R36, R46, R48, R354) -/
namespace Sys2Proof.Machine

section Exec
variable (u : Fin 349) (s : State)

theorem exec_quiesceDrained : exec (.quiesceDrained u) s = s.logic fun d => d.drainEnd u := rfl

theorem exec_quiesceTimeout : exec (.quiesceTimeout u) s = s.logic fun d => d.drainTimeout u := rfl

theorem exec_unitWorkComplete (readErr : Bool) : exec (.unitWorkComplete u readErr) s =
    s.logic fun d => (d.unitWork u readErr).cxSettle := rfl

theorem exec_unitInternalFault (cause : Fin 16) : exec (.unitInternalFault u cause) s =
    s.logic fun d => (d.internalFault u cause).txnWatch := rfl

theorem exec_bufferRowFreed : exec .bufferRowFreed s = s.logic fun d => d.rowFreed := rfl

end Exec

namespace Dev

/-! #### Work -/

/-- The work of a leaf's own command, whose unit is in UPDATING and which checks no image. -/
theorem unitWork_eq {d : Dev} {u : Nat} {o : UnitOp} (mine : d.opAt u = some o) (parts : d.parts u o.cmd = [u])
    (updating : d.f unitState_STATE u = 4) (noImage : checksImage u o.cmd = false) (bad : Bool) :
    d.unitWork u bad = d.workComplete u true := by
  have acts : d.actsAs u = 4 := (actsAs_of_plain (by rw [updating]; decide)).trans updating
  simp [unitWork, mine, parts, acts, noImage, stUpdating]

theorem workComplete_eq {d : Dev} {u : Nat} {o : UnitOp} (mine : d.opAt u = some o) (parts : d.parts u o.cmd = [u])
    (alone : o.wait = [u]) (updating : d.f unitState_STATE u = 4) (plain : o.cmd ≠ 6) :
    d.workComplete u true = ((d.dropOp o).workLeaf o.cmd u).cmdEnd u o.tag ucOk := by
  have acts : d.actsAs u = 4 := (actsAs_of_plain (by rw [updating]; decide)).trans updating
  simp [workComplete, mine, parts, acts, stUpdating, cmdReplace, plain, alone]

/-- REPLACE of an engine with no spare left. -/
theorem workComplete_noSpare {d : Dev} {u : Nat} {o : UnitOp} (mine : d.opAt u = some o) (parts : d.parts u o.cmd = [u])
    (alone : o.wait = [u]) (updating : d.f unitState_STATE u = 4) (replace : o.cmd = 6) (engine : unitKind u = .eng)
    (noneFree : d.lowestBit .idFeFree 3 = none) (imageOk : Bool) :
    d.workComplete u imageOk = ((d.dropOp o).takeFault u fcauseNoSpare).cmdEnd u o.tag ucNoSpare := by
  have acts : d.actsAs u = 4 := (actsAs_of_plain (by rw [updating]; decide)).trans updating
  rw [replace] at parts
  simp [workComplete, mine, parts, acts, stUpdating, cmdReplace, replace, alone, mapSpare, engine, noneFree]

/-- The work of a leaf ends in QUIESCED; what it resets shows in no unit's state or command. -/
theorem workLeaf_eq (d : Dev) (cmd u : Nat) :
    ∃ e : Dev, d.workLeaf cmd u = e.takeState u stQuiesced ∧ unitView e.regs = unitView d.regs ∧ e.ops = d.ops ∧ e.mg.held = d.mg.held := by
  unfold workLeaf
  dsimp only
  split
  · split
    · refine ⟨_, rfl, ?_⟩
      split <;> simp
    · exact ⟨d, rfl, rfl, rfl, rfl⟩
  · exact ⟨_, rfl, rfl, rfl, rfl⟩
  · exact ⟨_, rfl, by simp⟩

end Dev

open Dev

section Ends
variable {s : State} (on : s.On) {u : Fin 349} {o : UnitOp} (leaf : unitIsGroup u = false) (alone : s.dev.withPair u = [u.val])
  (running : s.dev.opOf u = some o) (mine : o.unit = u) (wait : o.wait = [u.val])
include on leaf alone running mine wait

/-- QUIESCE_DRAINED of a leaf alone with nothing in flight. -/
theorem runs_quiesceDrained (quiesce : o.cmd = 1) (run : s.dev.f unitState_STATE u = 2) (drains : s.dev.f unitState_DRAINING u = 1)
    (empty : s.dev.drained u = true) : Runs (.quiesceDrained u) s fun d =>
      d.f unitState_STATE u = 3 ∧ d.f unitState_PREV_STATE u = 2 ∧ d.f unitState_DRAINING u = 0 ∧ d.f unitCmdStatus_BUSY u = 0 ∧
      d.f unitCmdStatus_RESULT u = 0 ∧ d.f unitCmdStatus_TAG u = o.tag % 256 := by
  have moves : s.dev.leafState u ≠ stQuiesced := by rw [leafState, run]; decide
  have plain : s.dev.leafState u ≠ stStaged := by rw [leafState, run]; decide
  have ends : s.dev.drainEnd u = (s.dev.takeState u stQuiesced).partEnd u ucOk := by
    simp [drainEnd, running, b, drains, empty, quiesce, cmdRetire, alone]
  have spares := takeState_sparesCommands moves plain (by decide)
  obtain ⟨done, shows, -⟩ := partEnd_ends leaf ((opOf_congr spares.ops u).trans running) mine wait (res := ucOk) (by decide)
    (takeState_shows moves plain (by decide) (by decide))
  refine runs_logic_to on (exec_quiesceDrained u s) ends (by simp) ?_
  exact ⟨shows.state, shows.prev.trans run, shows.draining, done.busy, done.result, done.tag⟩

/-- QUIESCE_TIMEOUT of a leaf alone: admission is open again. -/
theorem runs_quiesceTimeout (quiesce : o.cmd = 1) (run : s.dev.f unitState_STATE u = 2) (drains : s.dev.f unitState_DRAINING u = 1) :
    Runs (.quiesceTimeout u) s fun d =>
      d.f unitState_STATE u = 2 ∧ d.f unitState_DRAINING u = 0 ∧ d.f unitCmdStatus_BUSY u = 0 ∧ d.f unitCmdStatus_RESULT u = 2 ∧
      s.dev.Only d { regs := [(.unitState, u), (.unitCmdStatus, u)], parts := [.ops] } := by
  have ends : s.dev.drainTimeout u = (s.dev.sf unitState_DRAINING u 0).partEnd u ucTimeout := by
    simp [drainTimeout, running, b, drains, quiesce, cmdQuiesce, alone]
  have running' : (s.dev.sf unitState_DRAINING u 0).opOf u = some o := (opOf_congr (sf_ops ..) u).trans running
  have last := partEnd_last leaf running' mine wait ucTimeout
  have done := cmdEnd_ended ((s.dev.sf unitState_DRAINING u 0).dropOp o) u o.tag (res := ucTimeout) (by decide)
  refine runs_logic_to on (exec_quiesceTimeout u s) ends (by simp) ?_
  have wrote := (Within.sf (f := unitState_DRAINING) (F := { regs := [(.unitState, u), (.unitCmdStatus, u)], parts := [.ops] })
    s.dev (i := u) (by simp [Foot.hasReg]) 0).only
  have only := wrote.partEnd leaf running' mine wait ucTimeout (by simp [Foot.hasReg]) (by simp [Foot.hasPart])
  rw [last] at only ⊢
  refine ⟨?_, ?_, done.busy, done.result, only⟩
  · rw [f_of_rd (rd_cmdEnd (by decide) ..), dropOp, f_of_rd (rd_setOps ..), f_sf_of_apart (by decide), run]
  · rw [f_of_rd (rd_cmdEnd (by decide) ..), dropOp, f_of_rd (rd_setOps ..), f_sf_fits (by decide) (by decide) (by decide)]

omit leaf alone running mine in
/-- UNIT_WORK_COMPLETE of work that checks no image and maps no spare. -/
theorem runs_workComplete (readErr : Bool) (noImage : checksImage u o.cmd = false) (plain : o.cmd ≠ 6) (own : s.dev.opAt u = some o)
    (parts : s.dev.parts u o.cmd = [u.val]) (updating : s.dev.f unitState_STATE u = 4) :
    Runs (.unitWorkComplete u readErr) s fun d =>
      d.f unitState_STATE u = 3 ∧ d.f unitState_PREV_STATE u = 4 ∧ d.f unitCmdStatus_BUSY u = 0 ∧ d.f unitCmdStatus_RESULT u = 0 := by
  obtain ⟨e, work, view, ops, held⟩ := workLeaf_eq (s.dev.dropOp o) o.cmd u
  have ends : s.dev.unitWork u readErr = (e.takeState u stQuiesced).cmdEnd u o.tag ucOk := by
    rw [unitWork_eq own parts updating noImage, workComplete_eq own parts wait updating plain, work]
  have kept : e.f unitState_STATE u = 4 :=
    (f_of_unitView view rfl u).trans ((f_of_rd (rd_setOps ..)).trans updating)
  have shows := takeState_shows (d := e) (u := u) (st := stQuiesced) (by rw [leafState, kept]; decide)
    (by rw [leafState, kept]; decide) (by decide) (by decide)
  have done := cmdEnd_ended (e.takeState u stQuiesced) u o.tag (res := ucOk) (by decide)
  have settled := cxSettle_unitView ((e.takeState u stQuiesced).cmdEnd u o.tag ucOk)
  have shown := shows.of_rd (rd_cmdEnd (by decide) (e.takeState u stQuiesced) u o.tag ucOk u)
  refine runs_logic_to on (exec_unitWorkComplete u s readErr) (congrArg cxSettle ends) (by simp [held]) ?_
  exact ⟨(f_of_unitView settled.1 rfl u).trans shown.state, (f_of_unitView settled.1 rfl u).trans (shown.prev.trans kept),
    (f_of_unitView settled.1 rfl u).trans done.busy, (f_of_unitView settled.1 rfl u).trans done.result⟩

omit leaf alone running mine in
/-- REPLACE of an engine ends in FAULTED where no spare is left. -/
theorem runs_replaceNoSpare (readErr : Bool) (engine : unitKind u = .eng) (replace : o.cmd = 6) (own : s.dev.opAt u = some o)
    (parts : s.dev.parts u 6 = [u.val]) (updating : s.dev.f unitState_STATE u = 4) (noneFree : s.dev.lowestBit .idFeFree 3 = none) :
    Runs (.unitWorkComplete u readErr) s fun d =>
      d.f unitState_STATE u = 5 ∧ d.f unitState_FAULT_CAUSE u = 7 ∧ d.f unitCmdStatus_BUSY u = 0 ∧ d.f unitCmdStatus_RESULT u = 3 := by
  have parts' : s.dev.parts u o.cmd = [u.val] := by rwa [replace]
  have noImage : checksImage u o.cmd = false := by rw [replace]; rfl
  have ends : s.dev.unitWork u readErr = ((s.dev.dropOp o).takeFault u fcauseNoSpare).cmdEnd u o.tag ucNoSpare := by
    rw [unitWork_eq own parts' updating noImage, workComplete_noSpare own parts' wait updating replace engine noneFree]
  have shows := takeFault_shows (s.dev.dropOp o) u (cause := fcauseNoSpare) (by decide)
  have done := cmdEnd_ended ((s.dev.dropOp o).takeFault u fcauseNoSpare) u o.tag (res := ucNoSpare) (by decide)
  have shown := shows.of_rd (rd_cmdEnd (by decide) ((s.dev.dropOp o).takeFault u fcauseNoSpare) u o.tag ucNoSpare u)
  have settled := cxSettle_unitView (((s.dev.dropOp o).takeFault u fcauseNoSpare).cmdEnd u o.tag ucNoSpare)
  refine runs_logic_to on (exec_unitWorkComplete u s readErr) (congrArg cxSettle ends) (by simp) ?_
  exact ⟨(f_of_unitView settled.1 rfl u).trans shown.state, (f_of_unitView settled.1 rfl u).trans shown.cause,
    (f_of_unitView settled.1 rfl u).trans done.busy, (f_of_unitView settled.1 rfl u).trans done.result⟩

end Ends

/-! ### Internal faults -/

section Faults
variable {s : State} (on : s.On) (still : s.dev.phase ≠ phWaiting) {u : Fin 349} (cause : Fin 16)
include on still

theorem runs_internalFault (noCore : unitKind u ≠ .ac) (leaf : unitIsGroup u = false) (alone : s.dev.withPair u = [u.val])
    (inService : s.dev.f unitState_STATE u ≠ 0) (idle : s.dev.opOf u = none) : Runs (.unitInternalFault u cause) s fun d =>
      d.f unitState_STATE u = 5 ∧ d.f unitState_FAULT_CAUSE u = cause ∧ d.f unitState_PREV_STATE u = s.dev.f unitState_STATE u := by
  have spares := takeFault_sparesCommands s.dev u cause
  have shows := takeFault_shows s.dev u cause.isLt
  have faults : s.dev.internalFault u cause = s.dev.takeFault u cause := by
    simp only [internalFault, noCore, if_false, leaf, leafState, stOffline, inService, Bool.false_eq_true, or_self, alone,
      List.foldl_cons, List.foldl_nil]
    exact partEnd_idle ((opOf_congr spares.ops u).trans idle) _
  refine runs_logic_to on (exec_unitInternalFault u s cause) ?_ (takeFault_held s.dev u cause) ⟨shows.state, shows.cause, shows.prev⟩
  rw [faults, txnWatch_of_not_waiting (spares.phase.trans_ne still)]

theorem runs_internalFault_nothing (noCore : unitKind u ≠ .ac) (out : unitIsGroup u = true ∨ s.dev.f unitState_STATE u = 0) :
    Runs (.unitInternalFault u cause) s fun d => d = s.dev := by
  refine runs_logic_to on (exec_unitInternalFault u s cause) ?_ rfl rfl
  rw [internalFault, if_neg noCore, if_pos (by exact out), txnWatch_of_not_waiting still]

/-- An AES core does not detect its fault (R354): only its results are wrong from now on. -/
theorem runs_internalFault_core (core : unitKind u = .ac) : Runs (.unitInternalFault u cause) s fun d =>
    (d.cx.faulty.contains (s.dev.f idAcMap_PHYS (unitInst u))) = true ∧ s.dev.Only d { parts := [.cx] } := by
  let e : Dev := { s.dev with cx := { s.dev.cx with
    faulty := s.dev.f idAcMap_PHYS (unitInst u) :: s.dev.cx.faulty.filter (· != s.dev.f idAcMap_PHYS (unitInst u)) } }
  refine runs_logic_to on (exec_unitInternalFault u s cause) (d := e) ?_ rfl ⟨by simp [e], ?_⟩
  · rw [internalFault, if_pos core, txnWatch_of_not_waiting (d := e) still]
  · refine (Within.parts (a := s.dev) (b := e) rfl rfl fun p n => ?_).only
    cases p
    case cx => exact absurd (.inl (by simp)) n
    all_goals simp [Part.same, e]

end Faults

end Sys2Proof.Machine
end

section
/-! ### A row that was out of service is mapped in again (R48) -/
namespace Sys2Proof.Machine
namespace Dev

/-- What a queued flash operation reaches, in a footprint that has the power account and the management part. -/
theorem flushFoot_le {F : Foot} (regs : ∀ r ∈ flushFoot.arrays, r ∈ F.arrays) (ctrs : ∀ c ∈ flushFoot.ctrArrays, c ∈ F.ctrArrays)
    (parts : ∀ p ∈ flushFoot.parts, p ∈ F.parts) : flushFoot.le F := by
  refine ⟨fun r i h => ?_, fun c i h => ?_, fun p h => ?_⟩
  · exact .inr (.inl (regs r (by simpa [Foot.hasReg, flushFoot] using h)))
  · exact .inr (.inl (ctrs c (by simpa [Foot.hasCtr, flushFoot] using h)))
  · exact .inl (parts p (by simpa [Foot.hasPart, flushFoot] using h))

theorem buf_flashOnce (d : Dev) (op : FlashOp) : (d.flashOnce op).buf = d.buf :=
  (within_flashOnce d op).part .buf (by simp [Foot.hasPart, flushFoot])

theorem rd_flashOnce {r : Reg} (h : r ≠ .mdPaBudget) (h' : r ≠ .mdPaWait) (d : Dev) (op : FlashOp) (i : Nat) :
    (d.flashOnce op).rd r i = d.rd r i :=
  (within_flashOnce d op).reg r i (by simp [Foot.hasReg, flushFoot, h, h'])

/-- An operation that is not queued is queued where the VCORE account takes its request. -/
theorem flashOps_flashOnce {d : Dev} {op : FlashOp} (fresh : d.mg.flashOps.contains op = false) (has : d.vcoreHas 150 = true) :
    (d.flashOnce op).mg.flashOps = d.mg.flashOps ++ [op] := by
  obtain ⟨bears, room⟩ : 150 ≤ d.paBudget 0 ∧ (d.acct 0).waiting.length < 64 := by simpa [vcoreHas] using has
  have granted := (paRequest_waits bears room .flash).1
  rw [flashOnce, if_neg (by simp only [fresh]; decide), flashQueue]
  split
  · next h => simp [h] at granted
  · next h => rw [← paRequest_mg d 0 .flash 150, h]

/-- The account's answer is read from the mode, the budget and the account. -/
theorem vcoreHas_congr {d e : Dev} (budget : ∀ i, e.rd .mdPaBudget i = d.rd .mdPaBudget i)
    (shown : e.rd .mdModeStatus 0 = d.rd .mdModeStatus 0) (pa : e.pa = d.pa) (cost : Nat) : e.vcoreHas cost = d.vcoreHas cost := by
  have bears : e.paBudget 0 = d.paBudget 0 := by
    rw [paBudget, paBudget, paEntry, paEntry, mode, mode, f_of_rd (F := mdModeStatus_MODE) shown,
      f_of_rd (F := mdPaBudget_BUDGET_MW) (budget _)]
  rw [vcoreHas, vcoreHas, bears, acct_of_pa pa]

/-- An event that starts no line of the log raises itself and no more. -/
theorem raise_row {d : Dev} (on : d.mg.held = false) (row : Nat) : d.raise 16 row 0 = d.raiseEvent 16 row 0 := by
  simp [raise, on]

/-- A change outside the management subsystem's part leaves the flash operations. -/
theorem Within.flashOps {a b : Dev} {F : Foot} (h : a.Within b F) (mg : ¬ F.hasPart .mg) : b.mg.flashOps = a.mg.flashOps := by
  have same : ({ b.mg with chain := 0, lost := 0 } : Mgmt) = { a.mg with chain := 0, lost := 0 } := h.part .mg mg
  have kept := congrArg (fun m : Mgmt => m.flashOps) same
  exact kept

theorem flashOps_raise_row {d : Dev} (on : d.mg.held = false) (row : Nat) : (d.raise 16 row 0).mg.flashOps = d.mg.flashOps := by
  rw [raise_row on]
  exact (within_raiseEvent d 16 row 0).flashOps (by simp [Foot.hasPart, evFoot, eventParts])

/-- The cells that had been taken out of the pool are back, and row `n` stands in the place of `row`. -/
def rowMapped (d : Dev) (row n : Nat) : Dev :=
  (({ d with buf := { d.buf with rowOut := none, rowDebt := 0 } }.sf bqFree_FREE 0 (d.freeCells + (256 - d.buf.rowDebt))).sf
    idRowMap_USED n 1).sf idRowMap_ROW n row

section Mapped
variable (d : Dev) (row n : Nat)

theorem buf_rowMapped : (d.rowMapped row n).buf = { d.buf with rowOut := none, rowDebt := 0 } := by
  rw [rowMapped, sf_buf, sf_buf, sf_buf]

theorem mg_rowMapped : (d.rowMapped row n).mg = d.mg := by
  rw [rowMapped, sf_mg, sf_mg, sf_mg]

theorem pa_rowMapped : (d.rowMapped row n).pa = d.pa := by
  rw [rowMapped, sf_pa, sf_pa, sf_pa]

theorem rd_rowMapped {r : Reg} (h : r ≠ .idRowMap) (h' : r ≠ .bqFree) (i : Nat) : (d.rowMapped row n).rd r i = d.rd r i := by
  rw [rowMapped, rd_sf_ne _ (.inl h.symm), rd_sf_ne _ (.inl h.symm), rd_sf_ne _ (.inl h'.symm)]
  rfl

theorem used_rowMapped : (d.rowMapped row n).f idRowMap_USED n = 1 := by
  rw [rowMapped, f_sf_of_apart (by decide), f_sf_fits (by decide) (by decide) (by decide)]

theorem row_rowMapped {row : Nat} (fits : row < 1024) : (d.rowMapped row n).f idRowMap_ROW n = row := by
  rw [rowMapped, f_sf_fits (by decide) (by decide) fits]

theorem free_rowMapped : (d.rowMapped row n).f bqFree_FREE 0 = (d.freeCells + (256 - d.buf.rowDebt)) % 2 ^ 19 := by
  rw [rowMapped, f_sf_of_apart (by decide), f_sf_of_apart (by decide), f_sf_same _ (by decide) (by decide)]
  rfl

theorem within_rowMapped {F : Foot} (map : F.hasReg .idRowMap n) (free : F.hasReg .bqFree 0) (buf : F.hasPart .buf) :
    d.Within (d.rowMapped row n) F := by
  have named : d.Within { d with buf := { d.buf with rowOut := none, rowDebt := 0 } } F := by
    refine .parts rfl rfl fun p h => ?_
    cases p
    case buf => exact absurd buf h
    all_goals simp [Part.same]
  exact ((named.trans (.sf _ free _)).trans (.sf _ map _)).trans (.sf _ map _)

end Mapped

/-- BUFFER_ROW_FREED of a row that the device replaced by itself, with a spare row and none that waits. -/
theorem rowFreed_mapped {d : Dev} {row n : Nat} (out : d.buf.rowOut = some (row, false)) (wait : d.buf.rowWait = [])
    (spare : d.spareRow = some n) : d.rowFreed = ((d.rowMapped row n).flashOnce .retired).raise 16 row 0 := by
  have spare' : ({ d with buf := { d.buf with rowOut := none, rowDebt := 0 } }.sf bqFree_FREE 0
      (d.freeCells + (256 - d.buf.rowDebt))).spareRow = some n :=
    (spareRow_of_rd fun _ => rd_sf_ne _ (.inl (by decide)) _).trans spare
  have none' : (((d.rowMapped row n).flashOnce .retired).raise 16 row 0).buf.rowWait = [] := by
    rw [show _ = _ from part_raise (p := .buf) (by decide) .., buf_flashOnce, buf_rowMapped, wait]
  rw [rowMapped] at none' ⊢
  simp only [rowFreed, out, spare', Bool.false_eq_true, if_false]
  split
  · rfl
  · next h => simp [none'] at h

end Dev

open Dev

/-- What a row that is mapped in again may change: its entry and the free cells, a flash operation and its power, an event. -/
def rowFoot (n : Nat) : Foot where
  regs := [(.idRowMap, n), (.bqFree, 0)]
  arrays := [.mdPaBudget, .mdPaWait]
  ctrArrays := [.mdPaDenied, .mdPaDeferred]
  parts := [.buf, .pa, .paNext, .mg]
  events := true

theorem runs_rowFreed {s : State} (on : s.On) {row n : Nat} (out : s.dev.buf.rowOut = some (row, false))
    (wait : s.dev.buf.rowWait = []) (fits : row < 1024) (spare : s.dev.spareRow = some n) : Runs .bufferRowFreed s fun d =>
      d.f idRowMap_USED n = 1 ∧ d.f idRowMap_ROW n = row ∧ d.buf = { s.dev.buf with rowOut := none, rowDebt := 0 } ∧
      d.f bqFree_FREE 0 = (s.dev.freeCells + (256 - s.dev.buf.rowDebt)) % 2 ^ 19 ∧
      (s.dev.mg.flashOps.contains .retired = false → s.dev.vcoreHas 150 = true → d.mg.flashOps = s.dev.mg.flashOps ++ [.retired]) ∧
      s.dev.Only d (rowFoot n) := by
  let x := s.dev.rowMapped row n
  let y := x.flashOnce .retired
  have held : y.mg.held = s.dev.mg.held := by rw [flashOnce_held, mg_rowMapped]
  have kept {r : Reg} (q : r ∉ raiseRegs) (h : r ≠ .mdPaBudget) (h' : r ≠ .mdPaWait) (i : Nat) : (y.raise 16 row 0).rd r i = x.rd r i := by
    rw [rd_raise q, rd_flashOnce h h']
  refine runs_logic_to on (exec_bufferRowFreed s) (rowFreed_mapped out wait spare) (by simp [mg_rowMapped]) ⟨?_, ?_, ?_, ?_, ?_, ?_⟩
  · rw [f_of_rd (kept (by decide) (by decide) (by decide) n), used_rowMapped]
  · rw [f_of_rd (kept (by decide) (by decide) (by decide) n), row_rowMapped _ _ fits]
  · rw [show _ = _ from part_raise (p := .buf) (by decide) .., buf_flashOnce, buf_rowMapped]
  · rw [f_of_rd (kept (by decide) (by decide) (by decide) 0), free_rowMapped]
  · intro fresh has
    have has' : x.vcoreHas 150 = true :=
      (vcoreHas_congr (rd_rowMapped _ _ _ (by decide) (by decide)) (rd_rowMapped _ _ _ (by decide) (by decide) 0)
        (pa_rowMapped ..) 150).trans has
    rw [flashOps_raise_row (held.trans on), flashOps_flashOnce (by rwa [mg_rowMapped]) has', mg_rowMapped]
  · have flash := (within_flashOnce x .retired).mono (flushFoot_le (F := rowFoot n) (by simp [flushFoot, rowFoot])
      (by simp [flushFoot, rowFoot]) (by simp [flushFoot, rowFoot]))
    have mapped := within_rowMapped (F := rowFoot n) s.dev row n (by simp [Foot.hasReg, rowFoot]) (by simp [Foot.hasReg, rowFoot])
      (by simp [Foot.hasPart, rowFoot])
    exact (mapped.trans flash).thenOnly (only_raise_of_events rfl _ _ _ _)

theorem runs_rowFreed_nothing {s : State} (on : s.On) (none : s.dev.buf.rowOut = none) : Runs .bufferRowFreed s fun d => d = s.dev := by
  refine runs_logic_to on (exec_bufferRowFreed s) ?_ rfl rfl
  simp only [rowFreed, none]

/-- Settles O8: a leaf's drain, work and fault end in one change of its state; a freed row's spare is `rowMapped`. -/
theorem unitWorkAndFaults : Obligations.UnitWorkAndFaults := by
  unfold Obligations.UnitWorkAndFaults
  intro s on
  refine ⟨?_, ?_, ?_, ?_, ?_, ?_, ?_, ?_, ?_⟩
  · exact fun u o leaf alone running mine wait quiesce run drains empty =>
      runs_quiesceDrained on leaf alone running mine wait quiesce run drains empty
  · exact fun u o leaf alone running mine wait quiesce run drains =>
      runs_quiesceTimeout on leaf alone running mine wait quiesce run drains
  · exact fun u o readErr _ _ _ _ wait noImage plain own parts updating =>
      runs_workComplete on wait readErr noImage plain own parts updating
  · exact fun u o readErr _ _ _ _ wait engine replace own parts updating noneFree =>
      runs_replaceNoSpare on wait readErr engine replace own parts updating noneFree
  · exact fun u cause still noCore leaf alone inService idle =>
      runs_internalFault on still cause noCore leaf alone inService idle
  · exact fun u cause still noCore out => runs_internalFault_nothing on still cause noCore out
  · exact fun u cause still core => runs_internalFault_core on still cause core
  · exact fun row n _ out wait fits spare => runs_rowFreed on out wait fits spare
  · exact fun _ none => runs_rowFreed_nothing on none

end Sys2Proof.Machine
end

section
/-! ### Issuing an instruction: where a hart can issue it, its body runs on the device that has counted it (R75, R97) -/
namespace Sys2Proof.Machine
open Dev
namespace Dev

/-- A core that is not blocked is not held in WFI, so that nothing wakes it. -/
theorem mcWake_of_ready {d : Dev} {c : Nat} (h : (d.mcCore c).st = .ready) : d.mcWake c = d := by
  rw [mcWake, if_neg (by simp [inWfi, h])]

theorem thr_setThr_same (d : Dev) (n t : Nat) (x : Thread) : (d.setThr n t x).thr n t = x := Sparse.get_set_same ..

theorem mcCore_setMc_same (d : Dev) (c : Nat) (x : McCore) : (d.setMc c x).mcCore c = x := Sparse.get_set_same ..

/-- Counting at an engine, and at its follower, changes counters alone. -/
theorem incEng_eq (d : Dev) (c : Ctr) (n : Nat) : d.incEng c n = { d with ctrs := (d.incEng c n).ctrs } := by
  unfold incEng
  split <;> rfl

theorem counted_eq (d : Dev) (n t : Nat) : d.counted n t = { d with
    ctrs := (d.counted n t).ctrs
    eng := { (d.setThr n t { d.thr n t with icount := (d.thr n t).icount + 1 }).eng with
      lastIssued := (d.counted n t).eng.lastIssued } } := by
  simp only [counted]
  rw [incEng_eq]
  rfl

/-- Counting an issued instruction changes counters, and of the harts a count and the order of the slots. -/
theorem issued_eq (d : Dev) (h : Hart) : d.issued h = { d with
    ctrs := (d.issued h).ctrs
    eng := { d.eng with threads := (d.issued h).eng.threads, lastIssued := (d.issued h).eng.lastIssued } } := by
  cases h with
  | fe n t =>
    simp only [issued]
    rw [counted_eq]
    rfl
  | mc c => rfl

theorem thr_counted_same (d : Dev) (n t : Nat) : (d.counted n t).thr n t = { d.thr n t with icount := (d.thr n t).icount + 1 } := by
  rw [counted_eq]
  exact thr_setThr_same ..

@[simp] theorem rf_issued (d : Dev) (h : Hart) : (d.issued h).rf h = d.rf h := by
  cases h with
  | fe n t => simp only [issued, rf, thr_counted_same]
  | mc c => rfl

@[simp] theorem issued_held (d : Dev) (h : Hart) : (d.issued h).mg.held = d.mg.held := by
  rw [issued_eq]

/-- An instruction that can be issued, is not ILLEGAL, and names no register and no token but those that are free. -/
theorem issue_eq {d : Dev} {h : Hart} {g : Guard} {regs : List Nat} {tk : Option Nat} (can : d.canIssue h g regs tk = true)
    (body : Dev → Dev) : d.issue h g false tk regs body = body (d.issued h) := by
  cases h with
  | fe n t =>
    simp only [canIssue, Bool.and_eq_true, Bool.not_eq_true', beq_iff_eq, bne_iff_ne, Option.isNone_iff_eq_none,
      decide_eq_true_eq] at can
    obtain ⟨⟨⟨⟨⟨⟨leads, ready⟩, fresh⟩, slot⟩, budget⟩, code⟩, ⟨guard, regsFree⟩, tokFree⟩ := can
    simp [issue, issued, leads, ready, fresh, slot, budget, guard, regsFree, tokFree, Nat.not_le.2 code]
  | mc c =>
    simp only [canIssue, Bool.and_eq_true, Bool.not_eq_true', beq_iff_eq] at can
    obtain ⟨⟨⟨runs, ready⟩, fetch⟩, ⟨guard, regsFree⟩, tokFree⟩ := can
    simp [issue, issued, runs, mcWake_of_ready ready, ready, fetch, guard, regsFree, tokFree]

/-- The same for an instruction that is ILLEGAL where it stands: it takes that exception. -/
theorem issue_illegal {d : Dev} {h : Hart} {g : Guard} {regs : List Nat} {tk : Option Nat} (can : d.canIssue h g regs tk = true)
    (tk' : Option Nat) (regs' : List Nat) (body : Dev → Dev) :
    d.issue h g true tk' regs' body = (d.issued h).exc h excIllegal := by
  cases h with
  | fe n t =>
    simp only [canIssue, Bool.and_eq_true, Bool.not_eq_true', beq_iff_eq, bne_iff_ne, Option.isNone_iff_eq_none,
      decide_eq_true_eq] at can
    obtain ⟨⟨⟨⟨⟨⟨leads, ready⟩, fresh⟩, slot⟩, budget⟩, code⟩, ⟨guard, -⟩, -⟩ := can
    simp [issue, issued, leads, ready, fresh, slot, budget, guard, Nat.not_le.2 code]
  | mc c =>
    simp only [canIssue, Bool.and_eq_true, Bool.not_eq_true', beq_iff_eq] at can
    obtain ⟨⟨⟨runs, ready⟩, fetch⟩, ⟨guard, -⟩, -⟩ := can
    simp [issue, issued, runs, mcWake_of_ready ready, ready, fetch, guard]

/-- Fewer registers to wait for. -/
theorem canIssue_mono {d : Dev} {h : Hart} {g : Guard} {regs regs' : List Nat} {tk : Option Nat}
    (can : d.canIssue h g regs tk = true) (sub : regs' ⊆ regs) : d.canIssue h g regs' tk = true := by
  have free : ∀ r : RegFile, (!regs.any r.pending) = true → (!regs'.any r.pending) = true := by
    intro r
    simp only [Bool.not_eq_true', List.any_eq_false]
    exact fun f x hx => f x (sub hx)
  cases h <;>
    simp only [canIssue, Bool.and_eq_true] at can ⊢ <;>
    obtain ⟨able, ⟨guard, regsFree⟩, tokFree⟩ := can <;>
    exact ⟨able, ⟨guard, free _ regsFree⟩, tokFree⟩

@[simp] theorem jump_held (d : Dev) (h : Hart) (f : RegFile → RegFile) (pc : Word64) : (d.jump h f pc).mg.held = d.mg.held := by
  cases h <;> simp [jump]

@[simp] theorem complete_held (d : Dev) (h : Hart) (f : RegFile → RegFile) : (d.complete h f).mg.held = d.mg.held := by
  simp [complete]

end Dev

/-- An instruction that a hart can issue leaves what its body makes of the device that has counted it. -/
theorem runs_issued {c : Instr} {s : State} {h : Hart} {g : Guard} {regs regs' : List Nat} {tk : Option Nat} {body : Dev → Dev}
    {d : Dev} {P : Dev → Prop} (on : s.On) (can : s.dev.canIssue h g regs tk = true) (sub : regs' ⊆ regs)
    (hc : exec c s = s.logic fun d => d.issue h g false tk regs' body) (hb : body (s.dev.issued h) = d)
    (held : d.mg.held = s.dev.mg.held) (hp : P d) : Runs c s P :=
  runs_logic_to on hc ((issue_eq (canIssue_mono can sub) body).trans hb) held hp

end Sys2Proof.Machine
end

section
/-! ### The integer operations: what they compute, bit by bit (R122 to R126) -/
namespace Sys2Proof.Machine
open Dev

theorem testBit_bits {hi lo : Nat} (h : lo ≤ hi) (x i : Nat) :
    (bits hi lo x).testBit i = (decide (i ≤ hi - lo) && x.testBit (lo + i)) := by
  rw [bits, Nat.testBit_mod_two_pow, Nat.testBit_div_two_pow, Nat.add_comm i]
  congr 1
  simp only [decide_eq_decide]
  omega

theorem testBit_setBits {hi lo : Nat} (h : lo ≤ hi) (v x i : Nat) :
    (setBits hi lo v x).testBit i = if lo ≤ i ∧ i ≤ hi then v.testBit (i - lo) else x.testBit i := by
  have cut : setBits hi lo v x
      = 2 ^ lo * (2 ^ (hi + 1 - lo) * (x / 2 ^ (hi + 1)) + v % 2 ^ (hi + 1 - lo)) + x % 2 ^ lo := by
    have whole : 2 ^ (hi + 1) = 2 ^ lo * 2 ^ (hi + 1 - lo) := by rw [← Nat.pow_add]; congr 1; omega
    simp only [setBits]
    rw [whole]
    ring
  rw [cut, Nat.testBit_two_pow_mul_add _ (Nat.mod_lt _ (by positivity)),
    Nat.testBit_two_pow_mul_add _ (Nat.mod_lt _ (by positivity))]
  by_cases below : i < lo
  · simp [below, Nat.not_le.2 below]
  · by_cases inside : i - lo < hi + 1 - lo
    · simp [below, inside, show lo ≤ i ∧ i ≤ hi by omega]
    · have above : i - lo - (hi + 1 - lo) + (hi + 1) = i := by omega
      simp [below, inside, show ¬ (lo ≤ i ∧ i ≤ hi) by omega, Nat.testBit_div_two_pow, above]

theorem lowMask_getLsbD (n i : Nat) : (lowMask n).getLsbD i = (decide (i < 64) && decide (i < n)) := by
  rw [lowMask, BitVec.getLsbD_ofNat, Nat.testBit_two_pow_sub_one]

theorem fieldOf_eq_bits {pos len : Nat} (a : Word64) : fieldOf a pos (len + 1) = BitVec.ofNat 64 (bits (pos + len) pos a.toNat) := by
  refine BitVec.eq_of_getLsbD_eq fun i hi => ?_
  rw [fieldOf, BitVec.getLsbD_and, BitVec.getLsbD_ushiftRight, lowMask_getLsbD, BitVec.getLsbD_ofNat, testBit_bits (by omega),
    BitVec.testBit_toNat, Bool.and_comm]
  simp [hi, show i < len + 1 ↔ i ≤ len by omega]

theorem fieldPut_eq_setBits {pos len : Nat} (old a : Word64) :
    fieldPut old a pos (len + 1) = BitVec.ofNat 64 (setBits (pos + len) pos a.toNat old.toNat) := by
  refine BitVec.eq_of_getLsbD_eq fun i hi => ?_
  simp only [fieldPut, BitVec.getLsbD_or, BitVec.getLsbD_and, BitVec.getLsbD_not, BitVec.getLsbD_shiftLeft, lowMask_getLsbD,
    BitVec.getLsbD_ofNat, testBit_setBits (show pos ≤ pos + len by omega), BitVec.testBit_toNat]
  by_cases inside : pos ≤ i ∧ i ≤ pos + len
  · simp [hi, inside, show ¬ i < pos by omega, show i - pos < 64 by omega, show i - pos < len + 1 by omega]
  · by_cases below : i < pos
    · simp [hi, inside, below]
    · simp [hi, inside, show ¬ i - pos < len + 1 by omega]

/-- A field of at most 64 bits is the signed value that its bits have. -/
theorem sextBits_ofNat {n x : Nat} (fits : x < 2 ^ n) (narrow : n ≤ 64) :
    sextBits n (BitVec.ofNat 64 x) = BitVec.ofInt 64 (sext n x) := by
  have word : x < 2 ^ 64 := fits.trans_le (Nat.pow_le_pow_right (by decide) narrow)
  rw [sextBits, BitVec.toNat_ofNat, Nat.mod_eq_of_lt word, Nat.mod_eq_of_lt fits]

theorem lanePut_zero (hw imm : Nat) (small : imm < 2 ^ 16) : lanePut 0 hw imm = BitVec.ofNat 64 (imm * 2 ^ (16 * hw)) := by
  refine BitVec.eq_of_getLsbD_eq fun i hi => ?_
  rw [lanePut, fieldPut_eq_setBits (len := 15), BitVec.getLsbD_ofNat, BitVec.getLsbD_ofNat, testBit_setBits (by omega),
    Nat.testBit_mul_two_pow, BitVec.toNat_ofNat, Nat.mod_eq_of_lt (show imm < 2 ^ 64 by omega)]
  by_cases inside : 16 * hw ≤ i ∧ i ≤ 16 * hw + 15
  · simp [inside]
  · by_cases below : 16 * hw ≤ i
    · have zero : imm.testBit (i - 16 * hw) = false :=
        Nat.testBit_lt_two_pow (small.trans_le (Nat.pow_le_pow_right (by decide) (by omega)))
      simp [inside, zero]
    · simp [below]

theorem lanePut_eq (v : Word64) (hw imm : Nat) (small : imm < 2 ^ 16) :
    lanePut v hw imm = BitVec.ofNat 64 (setBits (16 * hw + 15) (16 * hw) imm v.toNat) := by
  rw [lanePut, fieldPut_eq_setBits (len := 15), BitVec.toNat_ofNat, Nat.mod_eq_of_lt (show imm < 2 ^ 64 by omega)]

theorem rolBits_eq {s : Nat} (h : s < 64) (a : Word64) : rolBits a s = a.rotateLeft s := by
  rw [rolBits, BitVec.rotateLeft_def, Nat.mod_eq_of_lt h]
  split
  · next zero =>
    subst zero
    refine BitVec.eq_of_getLsbD_eq fun i _ => ?_
    simp [BitVec.getLsbD_of_ge]
  · rfl

theorem rorBits_eq {s : Nat} (h : s < 64) (a : Word64) : rorBits a s = a.rotateRight s := by
  rw [rorBits, BitVec.rotateRight_def, Nat.mod_eq_of_lt h]
  split
  · next zero =>
    subst zero
    simp
  · rfl

/-- The lesser and the greater of two signed numbers; of two equal ones either. -/
theorem ite_slt_eq {α : Type} (f : Word64 → Word64 → α) (g : Word64 → Word64 → α) (same : ∀ a, f a a = g a a) (a b : Word64) :
    (if a.slt b then f a b else g a b) = if a.toInt ≤ b.toInt then f a b else g a b := by
  rcases lt_trichotomy a.toInt b.toInt with lt | eq | gt
  · simp [BitVec.slt_eq_decide, lt, lt.le]
  · rw [BitVec.toInt_inj] at eq
    subst eq
    simp [BitVec.slt_eq_decide, same]
  · simp [BitVec.slt_eq_decide, gt.not_gt, gt.not_ge]

theorem ite_ult_eq {α : Type} (f : Word64 → Word64 → α) (g : Word64 → Word64 → α) (same : ∀ a, f a a = g a a) (a b : Word64) :
    (if a.ult b then f a b else g a b) = if a.toNat ≤ b.toNat then f a b else g a b := by
  rcases lt_trichotomy a.toNat b.toNat with lt | eq | gt
  · simp [BitVec.ult_eq_decide, lt, lt.le]
  · rw [BitVec.toNat_inj] at eq
    subst eq
    simp [BitVec.ult_eq_decide, same]
  · simp [BitVec.ult_eq_decide, gt.not_gt, gt.not_ge]

/-! #### Counts of bits, and the other byte order -/

theorem toNat_ne_zero {a : Word64} (h : a ≠ 0) : a.toNat ≠ 0 := fun e => h (BitVec.eq_of_toNat_eq e)

theorem clzBits_spec {a : Word64} (h : a ≠ 0) :
    a.getLsbD (63 - clzBits a) = true ∧ ∀ i, 63 - clzBits a < i → i < 64 → a.getLsbD i = false := by
  have pos := toNat_ne_zero h
  have high : a.toNat.log2 < 64 := (Nat.log2_lt pos).2 a.isLt
  have at' : 63 - clzBits a = a.toNat.log2 := by
    rw [clzBits, if_neg h]
    omega
  rw [at']
  refine ⟨Nat.testBit_log2 pos, fun i above _ => ?_⟩
  exact Nat.testBit_lt_two_pow (Nat.lt_log2_self.trans_le (Nat.pow_le_pow_right (by decide) above))

theorem ctzBits_spec {a : Word64} (h : a ≠ 0) :
    a.getLsbD (ctzBits a) = true ∧ ∀ i, i < ctzBits a → a.getLsbD i = false := by
  cases found : (List.range 64).find? a.getLsbD with
  | none =>
    refine absurd (BitVec.eq_of_getLsbD_eq fun i hi => ?_) h
    simpa using List.find?_eq_none.1 found i (List.mem_range.2 hi)
  | some k =>
    obtain ⟨here, -, below⟩ := List.find?_range_eq_some.1 found
    have at' : ctzBits a = k := by rw [ctzBits, found, Option.getD_some]
    rw [at']
    exact ⟨here, fun i hi => by simpa using below i hi⟩

theorem popBits_not (a : Word64) : popBits a + popBits (~~~a) = 64 := by
  have flip : (List.range 64).filter (~~~a).getLsbD = (List.range 64).filter fun i => !a.getLsbD i := by
    refine List.filter_congr fun i hi => ?_
    simp [List.mem_range.1 hi]
  rw [popBits, popBits, flip, ← List.length_eq_length_filter_add, List.length_range]

/-- Bit `j` of byte `i` of a number made of bytes. -/
theorem testBit_leNat (bs : List Byte) {j : Nat} (hj : j < 8) (i : Nat) :
    (leNat bs).testBit (8 * i + j) = (bs.getD i 0).getLsbD j := by
  induction bs generalizing i with
  | nil => simp [leNat]
  | cons b bs ih =>
    have low : b.toNat < 2 ^ 8 := b.isLt
    rw [leNat, Nat.add_comm, show (256 : Nat) = 2 ^ 8 from rfl, Nat.testBit_two_pow_mul_add _ low]
    cases i with
    | zero => simp only [Nat.mul_zero, Nat.zero_add, if_pos hj, BitVec.testBit_toNat, List.getD_cons_zero]
    | succ i =>
      rw [if_neg (by omega), show 8 * (i + 1) + j - 8 = 8 * i + j by omega, ih]
      rfl

theorem leBytes_length (n v : Nat) : (leBytes n v).length = n := by
  induction n generalizing v with
  | zero => rfl
  | succ n ih => rw [leBytes, List.length_cons, ih]

theorem leBytes_getLsbD {n i j : Nat} (hi : i < n) (hj : j < 8) (v : Nat) :
    ((leBytes n v).getD i 0).getLsbD j = v.testBit (8 * i + j) := by
  induction n generalizing i v with
  | zero => omega
  | succ n ih =>
    cases i with
    | zero => simp only [leBytes, byteOf, List.getD_cons_zero, BitVec.getLsbD_ofNat, hj, Nat.mul_zero, Nat.zero_add, decide_true,
        Bool.true_and]
    | succ i =>
      have rest := ih (i := i) (by omega) (v / 256)
      rw [show (256 : Nat) = 2 ^ 8 from rfl, Nat.testBit_div_two_pow, show 8 * i + j + 8 = 8 * (i + 1) + j by omega] at rest
      exact rest

/-- Byte `i` becomes byte `7 - i`. -/
theorem swapBytes_getLsbD (a : Word64) {i j : Nat} (hi : i < 8) (hj : j < 8) :
    (swapBytes a).getLsbD (8 * i + j) = a.getLsbD (8 * (7 - i) + j) := by
  have turned : (beBytes 8 a.toNat).getD i 0 = (leBytes 8 a.toNat).getD (7 - i) 0 := by
    rw [beBytes, List.getD_eq_getElem?_getD, List.getD_eq_getElem?_getD, List.getElem?_reverse (by rw [leBytes_length]; exact hi),
      leBytes_length]
  rw [swapBytes, BitVec.getLsbD_ofNat, testBit_leNat _ hj, turned, leBytes_getLsbD (by omega) hj]
  rw [BitVec.testBit_toNat, decide_eq_true (show 8 * i + j < 64 by omega), Bool.true_and]

end Sys2Proof.Machine
end

section
/-! ### O13: the integer operations -/
namespace Sys2Proof.Machine
open Dev

/-- Each operation of two registers computes what its row says. -/
theorem exec_aluRows (h : Hart) (g : Guard) (rd ra rb : GReg) (s : State) :
    ∀ e ∈ aluRows h g rd ra rb, exec e.1 s = s.logic fun d => d.alu2 h g rd ra rb e.2 := by
  have computes {f f' : Word64 → Word64 → Word64} (same : ∀ a b, f a b = f' a b) :
      (s.logic fun d => d.alu2 h g rd ra rb f) = s.logic fun d => d.alu2 h g rd ra rb f' := by
    rw [funext fun a => funext (same a)]
  have six (b : Word64) : b.toNat % 64 < 64 := Nat.mod_lt _ (by decide)
  simp only [aluRows, List.forall_mem_cons]
  refine ⟨?add, ?sub, ?and, ?or, ?xor, ?andn, ?shl, ?shr, ?sar, ?rol, ?ror, ?mul, ?mulhu, ?min, ?max, ?minu, ?maxu, ?hmix,
    ?clmull, ?clmulh, by simp⟩
  case rol => exact computes fun a b => rolBits_eq (six b) a
  case ror => exact computes fun a b => rorBits_eq (six b) a
  case mul => exact computes fun a b => BitVec.eq_of_toNat_eq (by simp)
  case min => exact computes (ite_slt_eq (fun a _ => a) (fun _ b => b) fun _ => rfl)
  case max => exact computes (ite_slt_eq (fun _ b => b) (fun a _ => a) fun _ => rfl)
  case minu => exact computes (ite_ult_eq (fun a _ => a) (fun _ b => b) fun _ => rfl)
  case maxu => exact computes (ite_ult_eq (fun _ b => b) (fun a _ => a) fun _ => rfl)
  all_goals rfl

/-- Each operation of one register and an immediate computes what its row says. -/
theorem exec_aluImmRows (h : Hart) (g : Guard) (rd ra : GReg) (imm : BitVec 12) (amt : Fin 64) (s : State) :
    ∀ e ∈ aluImmRows h g rd ra imm amt, exec e.1 s = s.logic fun d => d.alu1 h g rd ra e.2 := by
  have computes {f f' : Word64 → Word64} (same : ∀ a, f a = f' a) :
      (s.logic fun d => d.alu1 h g rd ra f) = s.logic fun d => d.alu1 h g rd ra f' := by
    rw [funext same]
  have zero : zimm imm = BitVec.ofNat 64 imm.toNat := (BitVec.ofNat_toNat 64 imm).symm
  simp only [aluImmRows, List.forall_mem_cons]
  refine ⟨?popc, ?clz, ?ctz, ?bswap, ?csumf, ?addi, ?andi, ?ori, ?xori, ?shli, ?shri, ?sari, ?roli, ?rori, by simp⟩
  case andi | ori | xori => exact computes fun a => by rw [zero]
  case roli => exact computes (rolBits_eq amt.isLt)
  case rori => exact computes (rorBits_eq amt.isLt)
  all_goals rfl

section Integer
variable {c : Instr} {s : State} {h : Hart} {g : Guard} {rd ra rb : GReg} {regs : List Nat} (on : s.On)
include on

/-- An operation that computes a register from registers. -/
theorem runs_alu {ill : Bool} {srcs : List Nat} {f f' : RegFile → Word64} (can : s.dev.canIssue h g regs none = true)
    (legal : ill = false) (sub : rd.val :: srcs ⊆ regs) (hc : exec c s = s.logic fun d => d.alu h g ill srcs rd.val f)
    (same : ∀ r, f r = f' r) : Runs c s fun d => d = (s.dev.issued h).complete h fun r => r.put rd.val (f' r) := by
  subst legal
  obtain rfl : f = f' := funext same
  exact runs_issued on can sub hc rfl (by simp) rfl

theorem runs_aluRows (can : s.dev.canIssue h g [rd.val, ra.val, rb.val] none = true) :
    ∀ e ∈ aluRows h g rd ra rb,
      Runs e.1 s fun d => d = (s.dev.issued h).complete h fun r => r.put rd.val (e.2 (r.get ra.val) (r.get rb.val)) :=
  fun e he => runs_alu on can rfl (List.Subset.refl _) (exec_aluRows h g rd ra rb s e he) fun _ => rfl

theorem runs_aluImmRows {imm : BitVec 12} {amt : Fin 64} (can : s.dev.canIssue h g [rd.val, ra.val] none = true) :
    ∀ e ∈ aluImmRows h g rd ra imm amt,
      Runs e.1 s fun d => d = (s.dev.issued h).complete h fun r => r.put rd.val (e.2 (r.get ra.val)) :=
  fun e he => runs_alu on can rfl (List.Subset.refl _) (exec_aluImmRows h g rd ra imm amt s e he) fun _ => rfl

/-- The bit fields, where the field lies inside the register. -/
theorem runs_fields {pos lenm1 : Fin 64} (can : s.dev.canIssue h g [rd.val, ra.val] none = true)
    (inside : pos.val + lenm1.val + 1 ≤ 64) :
    (Runs (.extr h g rd ra pos lenm1) s fun d => d = (s.dev.issued h).complete h fun r =>
      r.put rd.val (BitVec.ofNat 64 (bits (pos.val + lenm1.val) pos.val (r.get ra.val).toNat))) ∧
    (Runs (.extrs h g rd ra pos lenm1) s fun d => d = (s.dev.issued h).complete h fun r =>
      r.put rd.val (BitVec.ofInt 64 (sext (lenm1.val + 1) (bits (pos.val + lenm1.val) pos.val (r.get ra.val).toNat)))) ∧
    Runs (.insr h g rd ra pos lenm1) s fun d => d = (s.dev.issued h).complete h fun r =>
      r.put rd.val (BitVec.ofNat 64 (setBits (pos.val + lenm1.val) pos.val (r.get ra.val).toNat (r.get rd.val).toNat)) := by
  have legal : decide (64 < pos.val + lenm1.val + 1) = false := decide_eq_false (Nat.not_lt.2 inside)
  have fits (a : Word64) : bits (pos.val + lenm1.val) pos.val a.toNat < 2 ^ (lenm1.val + 1) := by
    rw [bits, show pos.val + lenm1.val + 1 - pos.val = lenm1.val + 1 by omega]
    exact Nat.mod_lt _ (by positivity)
  refine ⟨runs_alu on can legal (List.Subset.refl _) rfl fun r => fieldOf_eq_bits _,
    runs_alu on can legal (List.Subset.refl _) rfl fun r => ?_,
    runs_alu on can legal (by simp) rfl fun r => fieldPut_eq_setBits _ _⟩
  rw [fieldOf_eq_bits, sextBits_ofNat (fits _) (by omega)]

end Integer

/-- Settles O13: an operation computes its register from registers (`runs_alu`), and the bits of what it computes are those the
rules name. -/
theorem integersAndBitCounts : Obligations.IntegersAndBitCounts := by
  unfold Obligations.IntegersAndBitCounts
  refine ⟨?two, ?one, ?csumr, ?move, ?field, ?sel, ⟨rfl, rfl⟩, ?clz, ?ctz, ?bswap, popBits_not⟩
  case two => exact fun s h g rd ra rb on can => runs_aluRows on can
  case one => exact fun s h g rd ra imm amt on can => runs_aluImmRows on can
  case csumr => exact fun s h g rd ra rb on can => runs_alu on can rfl (by simp) rfl fun _ => rfl
  case move =>
    exact fun s h rd hw imm on can =>
      ⟨runs_alu on can rfl (by simp) rfl fun _ => lanePut_zero _ _ imm.isLt,
        runs_alu on can rfl (by simp) rfl fun _ => lanePut_eq _ _ _ imm.isLt⟩
  case field => exact fun s h g rd ra pos lenm1 on can inside => runs_fields on can inside
  case sel => exact fun s h g rd ra rb ps on can => runs_alu on can rfl (List.Subset.refl _) rfl fun _ => rfl
  case clz => exact fun a => clzBits_spec
  case ctz => exact fun a => ctzBits_spec
  case bswap => exact fun a i hi j hj => swapBytes_getLsbD a hi hj

end Sys2Proof.Machine
end

section
/-! ### No instruction of a hart takes the logic side into reset or out of it (R516) -/
namespace Sys2Proof.Machine
namespace Dev

/-! #### Rings and the slow path -/

@[simp] theorem setSlowQ_held (d : Dev) (q : Nat) (x : SlowQ) : (d.setSlowQ q x).mg.held = d.mg.held := rfl
@[simp] theorem rxDropHead_held (d : Dev) (i : Nat) : (d.rxDropHead i).mg.held = d.mg.held := by
  unfold rxDropHead
  split <;> simp
@[simp] theorem rxHoldZero_held (d : Dev) (i k : Nat) : (d.rxHoldZero i k).mg.held = d.mg.held := by
  induction k generalizing d with
  | zero => rfl
  | succ k ih => simp [rxHoldZero, ih]
@[simp] theorem rxEnqueue_held (d : Dev) (i : Nat) (x : Delivery) : (d.rxEnqueue i x).2.mg.held = d.mg.held := by
  unfold rxEnqueue
  dsimp only
  repeat' split
  all_goals simp
@[simp] theorem slowPath_held (d : Dev) (q : Nat) (fr : Frame) (rec' : List Byte) :
    (d.slowPath q fr rec').mg.held = d.mg.held := by simp [slowPath]

/-! #### Exceptions -/

@[simp] theorem excFe_held (d : Dev) (n t code pc tcode : Nat) : (d.excFe n t code pc tcode).mg.held = d.mg.held := by
  unfold excFe
  dsimp only
  repeat' split
  all_goals simp
@[simp] theorem excMc_held (d : Dev) (c : Fin 2) (code : Nat) (addr : Option Nat) :
    (d.excMc c code addr).mg.held = d.mg.held := by
  unfold excMc
  dsimp only
  repeat' split
  all_goals simp_all
@[simp] theorem exc_held (d : Dev) (h : Hart) (code : Nat) (addr : Option Nat) : (d.exc h code addr).mg.held = d.mg.held := by
  cases h <;> simp [exc]

/-! #### Issuing -/

@[simp] theorem interlock_held (d : Dev) (h : Hart) (needs : List Nat) : (d.interlock h needs).mg.held = d.mg.held := by
  cases h <;> simp [interlock]
@[simp] theorem park_held (d : Dev) (h : Hart) (st : ThrState) (i : Option Instr) : (d.park h st i).mg.held = d.mg.held := by
  cases h <;> simp [park]
@[simp] theorem counted_held (d : Dev) (n t : Nat) : (d.counted n t).mg.held = d.mg.held := by simp [counted]
theorem issue_held {body : Dev → Dev} (keeps : ∀ e, (body e).mg.held = e.mg.held) (d : Dev) (h : Hart) (g : Guard) (ill : Bool)
    (tk : Option Nat) (regs : List Nat) : (d.issue h g ill tk regs body).mg.held = d.mg.held := by
  cases h <;> simp [issue, keeps]
@[simp] theorem alu_held (d : Dev) (h : Hart) (g : Guard) (ill : Bool) (srcs : List Nat) (rd : Nat) (f : RegFile → Word64) :
    (d.alu h g ill srcs rd f).mg.held = d.mg.held := issue_held (fun e => complete_held e h _) ..
@[simp] theorem alu2_held (d : Dev) (h : Hart) (g : Guard) (rd ra rb : GReg) (f : Word64 → Word64 → Word64) :
    (d.alu2 h g rd ra rb f).mg.held = d.mg.held := alu_held ..
@[simp] theorem alu1_held (d : Dev) (h : Hart) (g : Guard) (rd ra : GReg) (f : Word64 → Word64) :
    (d.alu1 h g rd ra f).mg.held = d.mg.held := alu_held ..
@[simp] theorem compare_held (d : Dev) (h : Hart) (g : Guard) (pt pf : PReg) (regs : List Nat) (cc : Nat) (a b : RegFile → Word64) :
    (d.compare h g pt pf regs cc a b).mg.held = d.mg.held := issue_held (fun e => complete_held e h _) ..
@[simp] theorem palu_held (d : Dev) (h : Hart) (g : Guard) (pt pa pb : PReg) (f : Bool → Bool → Bool) :
    (d.palu h g pt pa pb f).mg.held = d.mg.held := issue_held (fun e => complete_held e h _) ..

/-! #### Loads and stores -/

@[simp] theorem setBad_held (d : Dev) (k : Nat) (b : Bool) : (d.setBad k b).mg.held = d.mg.held := rfl
@[simp] theorem rowFailed_held (d : Dev) (row : Nat) : (d.rowFailed row).mg.held = d.mg.held := by
  unfold rowFailed
  repeat' split
  all_goals simp
@[simp] theorem bufEcc_held (d : Dev) (e : Ecc) : (d.bufEcc e).mg.held = d.mg.held := by simp [bufEcc]
theorem foldl_setBad_held (d : Dev) (h : Hart) (s : Spc) {β : Type} (o : β → Nat) (b : Bool) (l : List β) :
    (l.foldl (fun d x => match d.badWord h s (o x) with | some k => d.setBad k b | none => d) d).mg.held = d.mg.held := by
  refine held_foldl (fun e x => ?_) l d
  split <;> rfl
@[simp] theorem spcLoad_held (d : Dev) (h : Hart) (s : Spc) (o n : Nat) (ecc : Ecc) :
    (d.spcLoad h s o n ecc).2.mg.held = d.mg.held := by
  unfold spcLoad
  extract_lets ws words hit e bad v
  have marked : e.mg.held = d.mg.held := foldl_setBad_held d h s (fun e : Nat × Nat => e.2) true hit
  clear_value e bad v
  rw [← marked]
  split
  · dsimp only
    repeat' split
    all_goals simp
  · rfl
theorem held_of_spcLoad {d d1 : Dev} {h : Hart} {s : Spc} {o n : Nat} {ecc : Ecc} {r : Option (List Byte)}
    (read : d.spcLoad h s o n ecc = (r, d1)) : d1.mg.held = d.mg.held := by
  rw [← spcLoad_held d h s o n ecc, read]
@[simp] theorem spcStore_held (d : Dev) (h : Hart) (s : Spc) (o : Nat) (bs : List Byte) :
    (d.spcStore h s o bs).mg.held = d.mg.held := by
  have marked := foldl_setBad_held d h s (fun w : Nat => w) false
  simp only [spcStore]
  split <;> exact marked _
@[simp] theorem loadOp_held (d : Dev) (h : Hart) (g : Guard) (rt ra : GReg) (sz : Fin 4) (off : BitVec 8) (ecc : Ecc)
    (f : List Byte → Word64) : (d.loadOp h g rt ra sz off ecc f).mg.held = d.mg.held := by
  refine issue_held (fun e => ?_) ..
  dsimp only
  split
  · exact exc_held ..
  · split
    · rfl
    · split
      · next read => exact (complete_held ..).trans (held_of_spcLoad read)
      · next read => exact (exc_held ..).trans (held_of_spcLoad read)
theorem alloc_held (d : Dev) (k : Nat) : (d.alloc k).2.mg.held = d.mg.held := by
  unfold alloc
  split <;> simp
theorem held_of_alloc {d e : Dev} {k : Nat} {g : Option Nat} (h : d.alloc k = (g, e)) : e.mg.held = d.mg.held := by
  rw [← alloc_held d k, h]
theorem held_of_resize {d e : Dev} {g k : Nat} (h : d.resize g k = some e) : e.mg.held = d.mg.held := by
  unfold resize at h
  dsimp only at h
  repeat' split at h
  all_goals cases h
  all_goals simp
theorem held_of_ownCells {d e : Dev} {n t len : Nat} (h : d.ownCells n t len = some e) : e.mg.held = d.mg.held := by
  unfold ownCells at h
  dsimp only at h
  split at h
  · cases h
    rfl
  · split at h
    · split at h
      · next got =>
        cases h
        exact (setThr_held ..).trans (held_of_alloc got)
      · cases h
    · exact held_of_resize h
@[simp] theorem storeFw_held (d : Dev) (n : Fin 64) (t : Fin 4) (i : Instr) (o : Nat) (bs : List Byte) :
    (d.storeFw n t i o bs).mg.held = d.mg.held := by
  unfold storeFw
  split
  · exact park_held ..
  · next own => exact (complete_held ..).trans ((setThr_held ..).trans (held_of_ownCells own))
@[simp] theorem storeEnd_held (d : Dev) (c : Fin 2) (fail : Option Nat) : (d.storeEnd c fail).mg.held = d.mg.held := by
  unfold storeEnd
  dsimp only
  cases fail <;> split <;> simp
@[simp] theorem farStoreEnd_held (d : Dev) (c : Nat) (fail : Option Nat) : (d.farStoreEnd c fail).mg.held = d.mg.held := by
  refine held_foldl (fun e k => ?_) _ d
  split <;> simp
@[simp] theorem farStoreWait_held (d : Dev) (c : Nat) : (d.farStoreWait c).mg.held = d.mg.held := by simp [farStoreWait]
@[simp] theorem coreWrites_held (d : Dev) (c : Fin 2) (ws : List (Nat × Nat)) : (d.coreWrites c ws).mg.held = d.mg.held := by
  induction ws generalizing d with
  | nil =>
    unfold coreWrites
    split <;> simp
  | cons w ws ih =>
    obtain ⟨o, v⟩ := w
    unfold coreWrites
    dsimp only
    split
    · rw [ih, regWrite_held]
    · repeat' split
      all_goals simp
@[simp] theorem storeReg_held (d : Dev) (c : Fin 2) (o : Nat) (bs : List Byte) : (d.storeReg c o bs).mg.held = d.mg.held := by
  simp [storeReg]
@[simp] theorem storeOp_held (d : Dev) (h : Hart) (i : Instr) (g : Guard) (rt ra : GReg) (sz : Fin 4) (off : BitVec 8)
    (f : Nat → Nat → List Byte) : (d.storeOp h i g rt ra sz off f).mg.held = d.mg.held := by
  refine issue_held (fun e => ?_) ..
  dsimp only
  repeat' split
  all_goals simp
@[simp] theorem amoOp_held (d : Dev) (h : Hart) (g : Guard) (rd ra rb : GReg) (wide : Bool) (ecc : Ecc)
    (f : Nat → Nat → Nat → Option Nat) : (d.amoOp h g rd ra rb wide ecc f).mg.held = d.mg.held := by
  refine issue_held (fun e => ?_) ..
  dsimp only
  generalize (if wide then 8 else 4) = k
  split
  · exact exc_held ..
  · split
    · split
      · exact exc_held ..
      · split
        · next read => exact (exc_held ..).trans (held_of_spcLoad read)
        · next read =>
          refine (complete_held ..).trans (Eq.trans ?_ (held_of_spcLoad read))
          split <;> simp
    · exact exc_held ..
@[simp] theorem rangeOp_held (d : Dev) (h : Hart) (g : Guard) (rd ra rb : GReg) (ecc : Ecc) (f : Nat → List Byte → Nat) :
    (d.rangeOp h g rd ra rb ecc f).mg.held = d.mg.held := by
  refine issue_held (fun e => ?_) ..
  dsimp only
  split
  · exact exc_held ..
  · split
    · exact complete_held ..
    · split
      · exact exc_held ..
      · split
        · rfl
        · split
          · next read => exact (complete_held ..).trans (held_of_spcLoad read)
          · next read => exact (exc_held ..).trans (held_of_spcLoad read)

/-! #### Frames and actions -/

theorem onThread_held {f : Dev → Fin 64 → Fin 4 → Thread → Dev} (keeps : ∀ e n t x, (f e n t x).mg.held = e.mg.held) (d : Dev)
    (h : Hart) : (d.onThread h (f d)).mg.held = d.mg.held := by
  cases h with
  | fe n t => exact keeps ..
  | mc c => rfl
@[simp] theorem frameOp_held (d : Dev) (h : Hart) (i : Instr) (g : Guard) (ra : GReg) (f : Thread → Word64 → Option Thread) :
    (d.frameOp h i g ra f).mg.held = d.mg.held := by
  refine issue_held (fun e => ?_) ..
  cases h with
  | mc c => rfl
  | fe n t =>
    dsimp only [onThread]
    split
    · exact exc_held ..
    · split
      · exact complete_held ..
      · split
        · exact park_held ..
        · next own => exact (complete_held ..).trans ((setThr_held ..).trans (held_of_ownCells own))
@[simp] theorem freeSource_held (d : Dev) (x : Thread) : (d.freeSource x).mg.held = d.mg.held := by simp [freeSource]
@[simp] theorem commitFrame_held (d : Dev) (fr : Frame) (tos : List Release) : (d.commitFrame fr tos).mg.held = d.mg.held := by
  simp [commitFrame]
theorem actOut_held {f : Dev → Thread → Dev} (keeps : ∀ e x, (f e x).mg.held = e.mg.held) (d : Dev) (n t : Nat) :
    (d.actOut n t f).mg.held = d.mg.held := by simp [actOut, keeps]
@[simp] theorem actCommit_held (d : Dev) (n t : Nat) (tos : List Release) : (d.actCommit n t tos).mg.held = d.mg.held :=
  actOut_held (fun e x => by simp) ..
@[simp] theorem actDrop_held (d : Dev) (n t reason : Nat) : (d.actDrop n t reason).mg.held = d.mg.held := by
  refine actOut_held (fun e x => ?_) ..
  repeat' split
  all_goals simp
@[simp] theorem recirculate_held (d : Dev) (fr : Frame) : (d.recirculate fr).mg.held = d.mg.held := by
  unfold recirculate
  split <;> simp
@[simp] theorem orderSplit_held (d : Dev) (p q k : Nat) : (d.orderSplit p q k).mg.held = d.mg.held := by simp [orderSplit]
@[simp] theorem tunFrames_held (d : Dev) (fr : Frame) (bs : List (List Byte)) : (d.tunFrames fr bs).mg.held = d.mg.held := by
  refine held_foldl (fun e x => ?_) _ d
  split
  · next none => exact (resolve_held ..).trans (held_of_alloc none)
  · next got =>
    rw [← held_of_alloc got]
@[simp] theorem redip_held (d : Dev) (fr : Frame) : (d.redip fr).mg.held = d.mg.held := by
  unfold redip
  split
  · exact recirculate_held ..
  · dsimp only
    repeat' split
    all_goals simp
@[simp] theorem actRedip_held (d : Dev) (n t : Nat) : (d.actRedip n t).mg.held = d.mg.held := actOut_held (fun e x => by simp) ..
@[simp] theorem mirrorCopy_held (d : Dev) (s : Nat) (fr : Frame) : (d.mirrorCopy s fr).mg.held = d.mg.held := by
  unfold mirrorCopy
  dsimp only
  split
  · next none => exact (congrArg Mgmt.held (inc_mg ..)).trans (held_of_alloc none)
  · next got =>
    refine (congrArg Mgmt.held (inc_mg ..)).trans (Eq.trans ?_ (held_of_alloc got))
    split <;> simp
@[simp] theorem mirrorCandidate_held (d : Dev) (s : Nat) (fr : Frame) : (d.mirrorCandidate s fr).mg.held = d.mg.held := by
  unfold mirrorCandidate
  dsimp only
  split <;> simp
@[simp] theorem actMirror_held (d : Dev) (h : Hart) (s : Nat) : (d.actMirror h s).mg.held = d.mg.held :=
  onThread_held (f := fun d _ _ x => d.outward h fun d => d.mirrorCandidate s (packet x)) (fun e n t x => by simp) ..
theorem terminal_held {act : Dev → Fin 64 → Fin 4 → Thread → Dev} (keeps : ∀ e n t x, (act e n t x).mg.held = e.mg.held) (d : Dev)
    (h : Hart) (i : Instr) (g : Guard) (ill : Bool) (regs : List Nat) (check : Dev → Nat) :
    (d.terminal h i g ill regs check act).mg.held = d.mg.held := by
  refine issue_held (fun e => ?_) ..
  split
  · exact exc_held ..
  · split
    · exact onThread_held keeps e h
    · exact park_held ..

/-! #### Asynchronous instructions -/

@[simp] theorem tokIssue_held (d : Dev) (h : Hart) (k : TokId) (o : TokOp) : (d.tokIssue h k o).mg.held = d.mg.held :=
  complete_held ..
@[simp] theorem tokAtOnce_held (d : Dev) (h : Hart) (k : TokId) (status : Nat) (f : RegFile → RegFile) :
    (d.tokAtOnce h k status f).mg.held = d.mg.held := complete_held ..
@[simp] theorem setRf_held (d : Dev) (h : Hart) (r : RegFile) : (d.setRf h r).mg.held = d.mg.held := by cases h <;> simp [setRf]
@[simp] theorem ruleEntry_held (d : Dev) (h : Hart) (e rule arg : Nat) : (d.ruleEntry h e rule arg).mg.held = d.mg.held := by
  cases h with
  | mc c => rfl
  | fe n t =>
    dsimp only [ruleEntry, onThread]
    split <;> simp
@[simp] theorem ruleAction_held (d : Dev) (h : Hart) (rule a : Nat) : (d.ruleAction h rule a).mg.held = d.mg.held := by
  unfold ruleAction
  dsimp only
  split
  · exact exc_held ..
  · cases h with
    | mc c => dsimp only [onThread]; split <;> simp
    | fe n t =>
      dsimp only [onThread]
      repeat' split
      all_goals simp
@[simp] theorem actionDo_held (d : Dev) (h : Hart) (i : Instr) (rule a : Nat) : (d.actionDo h i rule a).mg.held = d.mg.held := by
  cases h <;> simp [actionDo, onThread]

@[simp] theorem openWords_held (d : Dev) : d.openWords.2.mg.held = d.mg.held := by simp [openWords]
@[simp] theorem waitEnd_held (d : Dev) (h : Hart) (m p : Nat) : (d.waitEnd h m p).mg.held = d.mg.held := complete_held ..
@[simp] theorem waitHold_held (d : Dev) (h : Hart) (m p : Nat) : (d.waitHold h m p).mg.held = d.mg.held := by
  cases h <;> simp [waitHold]
@[simp] theorem leaveFree_held (d : Dev) (k : Nat) : (d.leaveFree k).mg.held = d.mg.held := by
  refine held_foldl (fun e a => ?_) _ d
  dsimp only
  split <;> simp
@[simp] theorem iMatchKey_held (d : Dev) (h : Hart) (g : Guard) (rd ra : GReg) (set : Fin 16) (tk : TokId) :
    (d.iMatchKey h g rd ra set tk).mg.held = d.mg.held := issue_held (fun _ => tokIssue_held ..) ..
@[simp] theorem iMatchAct_held (d : Dev) (h : Hart) (g : Guard) (rd ra : GReg) (set : Fin 16) (ecc : Ecc) :
    (d.iMatchAct h g rd ra set ecc).mg.held = d.mg.held := by
  refine issue_held (fun e => ?_) ..
  cases h with
  | mc c => rfl
  | fe n t =>
    dsimp only [onThread]
    repeat' split
    all_goals simp
@[simp] theorem iLkup_held (d : Dev) (h : Hart) (g : Guard) (rd ra : GReg) (table : Fin 16) (learn : Bool) (tk : TokId) :
    (d.iLkup h g rd ra table learn tk).mg.held = d.mg.held := by
  refine issue_held (fun e => ?_) ..
  dsimp only
  split <;> simp
@[simp] theorem blockIssue_held (d : Dev) (h : Hart) (g : Guard) (rd ra : GReg) (tk : TokId) (dec : Bool) :
    (d.blockIssue h g rd ra tk dec).mg.held = d.mg.held := by
  refine issue_held (fun e => ?_) ..
  dsimp only
  split <;> simp
@[simp] theorem objectIssue_held (d : Dev) (h : Hart) (g : Guard) (ill : Bool) (kind rd ra : Nat) (tk : TokId) (regs : List Nat)
    (words : RegFile → List Nat) : (d.objectIssue h g ill kind rd ra tk regs words).mg.held = d.mg.held := by
  refine issue_held (fun e => ?_) ..
  dsimp only
  split <;> simp
@[simp] theorem iLeave_held (d : Dev) (h : Hart) (g : Guard) (rd ra : GReg) (budget : Fin 4) (tk : TokId) :
    (d.iLeave h g rd ra budget tk).mg.held = d.mg.held := by
  refine issue_held (fun e => ?_) ..
  have asked (cost : Nat) := paRequest_held e budget.val (.token (hartKey h) tk.val) cost
  dsimp only
  split
  · simp
  · split
    · simp
    · split
      all_goals
        next got =>
          rw [← asked, got]
          simp
@[simp] theorem iLeaveRel_held (d : Dev) (h : Hart) (g : Guard) (ra : GReg) (tk : TokId) :
    (d.iLeaveRel h g ra tk).mg.held = d.mg.held := issue_held (fun e => by simp) ..
@[simp] theorem iTnow_held (d : Dev) (h : Hart) (g : Guard) (rd : GReg) (td : Fin 4) : (d.iTnow h g rd td).mg.held = d.mg.held :=
  issue_held (fun _ => complete_held ..) ..
@[simp] theorem iTarm_held (d : Dev) (h : Hart) (g : Guard) (ra : GReg) (td : Fin 4) (rel : Bool) (tk : TokId) :
    (d.iTarm h g ra td rel tk).mg.held = d.mg.held := by
  refine issue_held (fun e => ?_) ..
  dsimp only
  repeat' split
  all_goals simp
@[simp] theorem iWait_held (d : Dev) (h : Hart) (g : Guard) (tmask : BitVec 8) (pd : PReg) :
    (d.iWait h g tmask pd).mg.held = d.mg.held := by
  refine issue_held (fun e => ?_) ..
  split <;> simp

/-! #### Special registers and the system operations -/

@[simp] theorem setClass_held (d : Dev) (h : Hart) (v : Nat) : (d.setClass h v).mg.held = d.mg.held := by cases h <;> simp [setClass]
@[simp] theorem onCore_held (d : Dev) (h : Hart) (f : McCore → McCore) : (d.onCore h f).mg.held = d.mg.held := by
  cases h <;> simp [onCore]
theorem special_held {d e : Dev} {h : Hart} {num v : Nat} (got : d.special h num = some (v, e)) : e.mg.held = d.mg.held := by
  have same {r : Option Nat} (got : r.map (fun v => (v, d)) = some (v, e)) : e = d := by
    obtain ⟨w, -, hw⟩ := Option.map_eq_some_iff.1 got
    cases hw
    rfl
  cases h with
  | fe n t => rw [same got]
  | mc c =>
    cases width : mcOpenWidth num with
    | none =>
      simp only [special, width] at got
      rw [same got]
    | some w =>
      simp only [special, width, Option.some.injEq] at got
      rw [← fresh_held d w, got]
@[simp] theorem iMfs_held (d : Dev) (h : Hart) (g : Guard) (rd : GReg) (num : BitVec 12) : (d.iMfs h g rd num).mg.held = d.mg.held := by
  refine issue_held (fun e => ?_) ..
  split
  · next got => exact (complete_held ..).trans (special_held got)
  · rfl
@[simp] theorem setHaltWhy_held (d : Dev) (k why : Nat) : (d.setHaltWhy k why).mg.held = d.mg.held := rfl
@[simp] theorem showHalted_held (d : Dev) (tgt : Nat) (on : Bool) : (d.showHalted tgt on).mg.held = d.mg.held := by
  simp [showHalted, putBit]
@[simp] theorem haltNow_held (d : Dev) (tgt why : Nat) : (d.haltNow tgt why).mg.held = d.mg.held := by
  unfold haltNow
  dsimp only
  split
  · refine (held_foldl (fun e t => ?_) _ _).trans (by simp)
    split <;> simp
  · split <;> simp
@[simp] theorem engCopy_held (d : Dev) (a b : Nat) (shadow : Bool) : (d.engCopy a b shadow).mg.held = d.mg.held :=
  held_foldl (fun _ _ => setThr_held ..) _ _
@[simp] theorem debugSplit_held (d : Dev) (k i : Nat) : (d.debugSplit k i).mg.held = d.mg.held := by
  have halves (e : Dev) (a : Nat) : ((List.range 4).foldl (fun e t =>
      (e.setThr (a + 1) t (d.thr a t)).setThr a t
        (if (d.thr a t).st = .idle then d.thr a t else { d.thr a t with shadow := true, outGrp := 0 })) e).mg.held = e.mg.held :=
    held_foldl (fun e t => by simp) _ e
  unfold debugSplit
  dsimp only
  split
  · simp
  · split
    · simp
    · simp only [faultRaise_held, raise_held, sf_mg]
      exact (halves ..).trans (engCopy_held ..)
@[simp] theorem haltTarget_held (d : Dev) (tgt why : Nat) : (d.haltTarget tgt why).2.mg.held = d.mg.held := by
  unfold haltTarget
  dsimp only
  repeat' split
  all_goals simp
@[simp] theorem iBkpt_held (d : Dev) (h : Hart) (g : Guard) : (d.iBkpt h g).mg.held = d.mg.held := by
  refine issue_held (fun e => ?_) ..
  dsimp only
  split <;> simp
@[simp] theorem iWfi_held (d : Dev) (h : Hart) (g : Guard) : (d.iWfi h g).mg.held = d.mg.held := by
  refine issue_held (fun e => ?_) ..
  split
  · rfl
  · split <;> simp
@[simp] theorem iCntadd_held (d : Dev) (h : Hart) (g : Guard) (ra rb : GReg) : (d.iCntadd h g ra rb).mg.held = d.mg.held := by
  refine issue_held (fun e => ?_) ..
  dsimp only
  split <;> simp
@[simp] theorem iMtsr_held (d : Dev) (h : Hart) (g : Guard) (ra : GReg) (num : BitVec 12) :
    (d.iMtsr h g ra num).mg.held = d.mg.held := issue_held (fun _ => (onCore_held ..).trans (complete_held ..)) ..
@[simp] theorem iEret_held (d : Dev) (h : Hart) (g : Guard) : (d.iEret h g).mg.held = d.mg.held :=
  issue_held (fun _ => (onCore_held ..).trans (jump_held ..)) ..
@[simp] theorem iMfsr_held (d : Dev) (h : Hart) (g : Guard) (rd : GReg) (num : BitVec 12) :
    (d.iMfsr h g rd num).mg.held = d.mg.held := by
  unfold iMfsr
  exact issue_held (fun _ => complete_held ..) ..
@[simp] theorem iSvreq_held (d : Dev) (h : Hart) (g : Guard) : (d.iSvreq h g).mg.held = d.mg.held := issue_held (fun _ => exc_held ..) ..
@[simp] theorem iYield_held (d : Dev) (h : Hart) (g : Guard) : (d.iYield h g).mg.held = d.mg.held := issue_held (fun _ => complete_held ..) ..
@[simp] theorem iFence_held (d : Dev) (h : Hart) (g : Guard) : (d.iFence h g).mg.held = d.mg.held := issue_held (fun _ => complete_held ..) ..
@[simp] theorem iMts_held (d : Dev) (h : Hart) (g : Guard) (ra : GReg) (num : BitVec 12) : (d.iMts h g ra num).mg.held = d.mg.held :=
  issue_held (fun _ => (complete_held ..).trans (setClass_held ..)) ..

/-! #### Branches and terminal actions -/

@[simp] theorem iBr_held (d : Dev) (h : Hart) (g : Guard) (off : BitVec 22) : (d.iBr h g off).mg.held = d.mg.held :=
  issue_held (fun _ => jump_held ..) ..
@[simp] theorem iCall_held (d : Dev) (h : Hart) (g : Guard) (off : BitVec 22) : (d.iCall h g off).mg.held = d.mg.held :=
  issue_held (fun _ => jump_held ..) ..
@[simp] theorem iJr_held (d : Dev) (h : Hart) (g : Guard) (rd ra : GReg) (imm : BitVec 12) : (d.iJr h g rd ra imm).mg.held = d.mg.held :=
  issue_held (fun _ => jump_held ..) ..
@[simp] theorem iEmit_held (d : Dev) (h : Hart) (g : Guard) (ra : GReg) (cls : Option (Fin 8)) :
    (d.iEmit h g ra cls).mg.held = d.mg.held := terminal_held (fun _ _ _ _ => actCommit_held ..) ..
@[simp] theorem iEmitm_held (d : Dev) (h : Hart) (g : Guard) (ra : GReg) (cls : Option (Fin 8)) :
    (d.iEmitm h g ra cls).mg.held = d.mg.held := terminal_held (fun _ _ _ _ => actCommit_held ..) ..
@[simp] theorem iDrop_held (d : Dev) (h : Hart) (g : Guard) (reason : BitVec 8) : (d.iDrop h g reason).mg.held = d.mg.held :=
  terminal_held (fun _ _ _ _ => actDrop_held ..) ..
@[simp] theorem iCopyh_held (d : Dev) (h : Hart) (g : Guard) (ra : GReg) (dom ring : Fin 16) :
    (d.iCopyh h g ra dom ring).mg.held = d.mg.held := terminal_held (fun _ _ _ _ => actCommit_held ..) ..
@[simp] theorem iMirr_held (d : Dev) (h : Hart) (g : Guard) (session : Fin 8) : (d.iMirr h g session).mg.held = d.mg.held :=
  terminal_held (fun _ _ _ _ => (complete_held ..).trans (actMirror_held ..)) ..
@[simp] theorem iRedip_held (d : Dev) (h : Hart) (g : Guard) : (d.iRedip h g).mg.held = d.mg.held :=
  terminal_held (fun _ _ _ _ => actRedip_held ..) ..
@[simp] theorem iTrap_held (d : Dev) (h : Hart) (g : Guard) (code : BitVec 12) : (d.iTrap h g code).mg.held = d.mg.held :=
  terminal_held (fun _ _ _ _ => excFe_held ..) ..

/-! #### Every instruction -/

/-- An instruction that a hart issues leaves the logic side in reset or out of it, as it was. -/
theorem porros_held (d : Dev) (i : Instr) : (d.porros i).mg.held = d.mg.held := by
  unfold porros
  split
  all_goals simp [iAdd, iSub, iAnd, iOr, iXor, iAndn, iShl, iShr, iSar, iRol, iRor, iMul, iMulhu, iMin, iMax, iMinu, iMaxu,
    iPopc, iClz, iCtz, iBswap, iAddi, iAndi, iOri, iXori, iShli, iShri, iSari, iRoli, iRori, iMovz, iMovk, iExtr, iExtrs,
    iInsr, iSel, iCmp, iCmpi, iPand, iPor, iPxor, iPandn, iLd, iLds, iLdn, iLdns, iSt, iStn, iAmoadd, iAmoswap, iAmoor,
    iAmoand, iAmocas, iCsum, iCsumr, iCsumf, iCrc8, iCrc8h, iCrc16, iCrc32, iCrc32c, iCrc32p4, iHmix, iClmull, iClmulh,
    iAdjh, iAdjt, iWmov, iAese, iAesd, iMor, iMow, iMoack]

end Dev
end Sys2Proof.Machine
end

section
/-! ### What the end of an operation, a job or a frame leaves of the harts -/
namespace Sys2Proof.Machine

/-- What a hart runs on: the threads, the cores, the halves whose outputs are discarded, the epoch, the counts of exceptions. -/
structure Harts where
  threads : Sparse Thread
  mc : Sparse McCore
  discarded : List Nat
  epoch : Nat
  feExc : Nat → Cnt

def Dev.harts (d : Dev) : Harts := ⟨d.eng.threads, d.eng.mc, d.safe.discarded, d.epoch, fun i => d.ctr .feExc i⟩

namespace Dev

theorem thr_of_harts {d e : Dev} (h : e.harts = d.harts) (n t : Nat) : e.thr n t = d.thr n t :=
  congrArg (fun x : Harts => Sparse.get thrDefault x.threads (4 * n + t)) h
theorem mcCore_of_harts {d e : Dev} (h : e.harts = d.harts) (c : Nat) : e.mcCore c = d.mcCore c :=
  congrArg (fun x : Harts => Sparse.get mcDefault x.mc c) h
theorem feExc_of_harts {d e : Dev} (h : e.harts = d.harts) (i : Nat) : e.ctr .feExc i = d.ctr .feExc i :=
  congrArg (fun x : Harts => x.feExc i) h
theorem epoch_of_harts {d e : Dev} (h : e.harts = d.harts) : e.epoch = d.epoch := congrArg Harts.epoch h
theorem shadowed_of_harts {d e : Dev} (h : e.harts = d.harts) (k : Hart) : e.shadowed k = d.shadowed k := by
  cases k with
  | fe n t => simp only [shadowed, thr_of_harts h]
  | mc c => exact congrArg (fun x : Harts => x.discarded.contains (64 + c.val)) h
theorem rf_of_harts {d e : Dev} (h : e.harts = d.harts) (k : Hart) : e.rf k = d.rf k := by
  cases k with
  | fe n t => simp only [rf, thr_of_harts h]
  | mc c => simp only [rf, mcCore_of_harts h]
theorem hartSt_of_harts {d e : Dev} (h : e.harts = d.harts) (k : Hart) : e.hartSt k = d.hartSt k := by
  cases k with
  | fe n t => simp only [hartSt, thr_of_harts h]
  | mc c => simp only [hartSt, mcCore_of_harts h]
theorem hartEpoch_of_harts {d e : Dev} (h : e.harts = d.harts) (k : Hart) : e.hartEpoch k = d.hartEpoch k := by
  cases k with
  | fe n t => simp only [hartEpoch, thr_of_harts h]
  | mc c => exact epoch_of_harts h
theorem hartLearn_of_harts {d e : Dev} (h : e.harts = d.harts) (k : Hart) (learn : Bool) : e.hartLearn k learn = d.hartLearn k learn := by
  cases k with
  | fe n t => simp only [hartLearn, thr_of_harts h]
  | mc c => rfl

theorem harts_of_parts {d e : Dev} (eng : e.eng = d.eng) (safe : e.safe = d.safe) (regs : e.regs = d.regs) (ctrs : e.ctrs = d.ctrs) :
    e.harts = d.harts := by simp only [harts, epoch, f, rd, ctr, eng, safe, regs, ctrs]
@[simp] theorem harts_ite (c : Prop) [Decidable c] (a b : Dev) : (if c then a else b).harts = if c then a.harts else b.harts :=
  apply_ite (fun d : Dev => d.harts) c a b
@[simp] theorem harts_foldl {β : Type} {f : Dev → β → Dev} (h : ∀ d x, (f d x).harts = d.harts) (l : List β) (d : Dev) :
    (l.foldl f d).harts = d.harts :=
  foldl_keeps (fun e => e.harts = d.harts) f (fun e x k => (h e x).trans k) l rfl

@[simp] theorem wr_harts (d : Dev) {r : Reg} (h : r ≠ .epCur) (i : Nat) (v : Word) : (d.wr r i v).harts = d.harts := by
  simp only [harts, epoch, f, ctr, wr_eng, wr_safe, wr_ctrs, rd_wr_ne d (r' := epCur_CURRENT.reg) (i' := 0) (.inl h)]
@[simp] theorem sf_harts (d : Dev) {F : RField} (h : F.reg ≠ .epCur) (i v : Nat) : (d.sf F i v).harts = d.harts := wr_harts d h ..
theorem setCtr_harts (d : Dev) {c : Ctr} (h : c ≠ .feExc) (i : Nat) (v : Cnt) : (d.setCtr c i v).harts = d.harts := by
  simp only [harts, epoch, f, rd, setCtr_eng, setCtr_safe, setCtr_regs, d.ctr_setCtr_ne (.inl h)]
@[simp] theorem inc_harts (d : Dev) {c : Ctr} (h : c ≠ .feExc) (i : Nat) : (d.inc c i).harts = d.harts := setCtr_harts d h ..
@[simp] theorem incBy_harts (d : Dev) {c : Ctr} (h : c ≠ .feExc) (i n : Nat) : (d.incBy c i n).harts = d.harts := setCtr_harts d h ..
@[simp] theorem raise_harts (d : Dev) (s inst info : Nat) : (d.raise s inst info).harts = d.harts := by
  have eng := part_raise (p := .eng) (by decide) d s inst info
  have safe := part_raise (p := .safe) (by decide) d s inst info
  simp only [Part.same] at eng safe
  have threads := congrArg Engines.threads eng
  have mc := congrArg Engines.mc eng
  dsimp only at threads mc
  simp only [harts, epoch, f, safe, ctr_raise (c := .feExc) (by decide), rd_raise (r := epCur_CURRENT.reg) (by decide), threads, mc]
@[simp] theorem fresh_harts (d : Dev) (w : Nat) : (d.fresh w).2.harts = d.harts := harts_of_parts rfl rfl rfl rfl

/-! #### Cells and frames -/

@[simp] theorem setGrp_harts (d : Dev) (g : Nat) (c : CellGrp) : (d.setGrp g c).harts = d.harts := harts_of_parts rfl rfl rfl rfl
@[simp] theorem giveCells_harts (d : Dev) (k : Nat) : (d.giveCells k).harts = d.harts := by
  unfold giveCells
  dsimp only
  split
  · exact sf_harts _ (by decide) ..
  · exact (sf_harts _ (by decide) ..).trans (harts_of_parts rfl rfl rfl rfl)
@[simp] theorem release_harts (d : Dev) (g : Nat) : (d.release g).harts = d.harts := by simp [release]
@[simp] theorem resolve_harts (d : Dev) (p q : Nat) (o : OrderItem) : (d.resolve p q o).harts = d.harts := harts_of_parts rfl rfl rfl rfl
@[simp] theorem dropFrame_harts (d : Dev) (fr : Frame) : (d.dropFrame fr).harts = d.harts := by simp [dropFrame]
@[simp] theorem setSlowQ_harts (d : Dev) (q : Nat) (x : SlowQ) : (d.setSlowQ q x).harts = d.harts := harts_of_parts rfl rfl rfl rfl
@[simp] theorem setRx_harts (d : Dev) (i : Nat) (x : RxRing) : (d.setRx i x).harts = d.harts :=
  (sf_harts _ (by decide) ..).trans (harts_of_parts rfl rfl rfl rfl)
@[simp] theorem setCoe_harts (d : Dev) (n : Nat) (x : CoeDom) : (d.setCoe n x).harts = d.harts := harts_of_parts rfl rfl rfl rfl
@[simp] theorem rxDropHead_harts (d : Dev) (i : Nat) : (d.rxDropHead i).harts = d.harts := by
  unfold rxDropHead
  split <;> simp
@[simp] theorem rxHoldZero_harts (d : Dev) (i k : Nat) : (d.rxHoldZero i k).harts = d.harts := by
  induction k generalizing d with
  | zero => rfl
  | succ k ih => simp [rxHoldZero, ih]
@[simp] theorem rxEnqueue_harts (d : Dev) (i : Nat) (x : Delivery) : (d.rxEnqueue i x).2.harts = d.harts := by
  unfold rxEnqueue
  dsimp only
  repeat' split
  all_goals simp
@[simp] theorem slowPath_harts (d : Dev) (q : Nat) (fr : Frame) (rec' : List Byte) : (d.slowPath q fr rec').harts = d.harts := by
  simp [slowPath]

/-! #### Tables -/

@[simp] theorem setTb_harts (d : Dev) (t : Nat) (x : TbTable) : (d.setTb t x).harts = d.harts := harts_of_parts rfl rfl rfl rfl
@[simp] theorem setDirect_harts (d : Dev) (t k e : Nat) : (d.setDirect t k e).harts = d.harts := harts_of_parts rfl rfl rfl rfl
@[simp] theorem l2SetHit_harts (d : Dev) (l e : Nat) (frozen : Bool) : (d.l2SetHit l e frozen).harts = d.harts := by
  unfold l2SetHit
  dsimp only
  repeat' split
  all_goals simp
@[simp] theorem filterLookup_harts (d : Dev) (k k1 : Nat) : (d.filterLookup k k1).2.harts = d.harts := by
  unfold filterLookup
  dsimp only
  repeat' split
  all_goals simp
@[simp] theorem gateLookup_harts (d : Dev) (g len : Nat) : (d.gateLookup g len).2.harts = d.harts := by
  unfold gateLookup
  dsimp only
  repeat' split
  all_goals simp
theorem harts_withTab (d : Dev) (t : Tables) : ({ d with tab := t } : Dev).harts = d.harts := harts_of_parts rfl rfl rfl rfl
@[simp] theorem meterLookup_harts (d : Dev) (m len : Nat) : (d.meterLookup m len).2.harts = d.harts := by
  unfold meterLookup
  extract_lets e
  split
  · rfl
  · simp only [harts_ite, inc_harts _ (show Ctr.tbMtrRed ≠ .feExc by decide), ite_self]
    exact (harts_withTab _ _).trans (setDirect_harts ..)
@[simp] theorem seqLookup_harts (d : Dev) (r s0 : Nat) : (d.seqLookup r s0).2.harts = d.harts := by
  unfold seqLookup
  dsimp only
  repeat' split
  all_goals simp
@[simp] theorem lookup_harts (d : Dev) (t epoch k0 k1 : Nat) : (d.lookup t epoch k0 k1).2.harts = d.harts := by
  unfold lookup
  split
  case h_1 => split <;> simp only [l2SetHit_harts]
  case h_3 => rfl
  case h_6 =>
    repeat' split
    all_goals simp only [filterLookup_harts, gateLookup_harts, meterLookup_harts, seqLookup_harts]
  all_goals
    dsimp only
    repeat' split
    all_goals rfl
@[simp] theorem learnSubmit_harts (d : Dev) (key port stamp : Nat) : (d.learnSubmit key port stamp).harts = d.harts := by
  unfold learnSubmit
  split
  · simp
  · rfl
@[simp] theorem lookupDo_harts (d : Dev) (table epoch k0 k1 : Nat) (learn : Option (Nat × Nat)) (failed : Bool) :
    (d.lookupDo table epoch k0 k1 learn failed).2.harts = d.harts := by
  unfold lookupDo
  dsimp only
  repeat' split
  all_goals simp

/-! #### Operations of tokens -/

@[simp] theorem objUpdate_harts (d : Dev) (o : Nat) (data : List Byte) : (d.objUpdate o data).harts = d.harts := harts_of_parts rfl rfl rfl rfl
@[simp] theorem objAck_harts (d : Dev) (o : Nat) : (d.objAck o).harts = d.harts := harts_of_parts rfl rfl rfl rfl
@[simp] theorem objectDo_harts (d : Dev) (kind chan fmt ident : Nat) (words : List Nat) :
    (d.objectDo kind chan fmt ident words).2.2.harts = d.harts := by
  unfold objectDo
  repeat' split
  all_goals simp
theorem outward_harts (d : Dev) (k : Hart) {go : Dev → Dev} (h : ∀ e : Dev, (go e).harts = e.harts) :
    (d.outward k go).harts = d.harts := by simp [outward, h]
@[simp] theorem countHit_harts (d : Dev) (h : Hart) (hit : Option Nat) : (d.countHit h hit).harts = d.harts := by
  unfold countHit
  split
  · exact outward_harts _ _ fun e => by simp
  · rfl
@[simp] theorem opSettle_harts (d : Dev) (h : Hart) (op : TokOp) : (d.opSettle h op).harts = d.harts := by
  unfold opSettle
  split
  · simp
  · exact outward_harts _ _ fun e => lookupDo_harts ..
  · rfl
  · exact outward_harts _ _ fun e => objectDo_harts ..
  · exact inc_harts _ (by decide) _
  all_goals rfl
@[simp] theorem tokSettle_harts (d : Dev) (h : Hart) : (d.tokSettle h).harts = d.harts := by simp [tokSettle]

/-! #### Ends of jobs -/

@[simp] theorem incEng_harts (d : Dev) {c : Ctr} (h : c ≠ .feExc) (n : Nat) : (d.incEng c n).harts = d.harts := by
  unfold incEng
  split <;> simp [h]
@[simp] theorem monSample_harts (d : Dev) (m v : Nat) : (d.monSample m v).harts = d.harts := by simp [monSample]
@[simp] theorem monFeed_harts (d : Dev) (src : Nat) (fits : Nat → Bool) (v : Nat) : (d.monFeed src fits v).harts = d.harts := by
  simp [monFeed]
theorem jobEnd_harts (d : Dev) (n t : Nat) : (d.jobEnd n t).harts = (d.setThr n t {}).harts := by
  simp [jobEnd]

end Dev
end Sys2Proof.Machine
end

section
/-! ### Exceptions and traps, predicates and branches, and what bounds a thread's stay (R97 to R101, R127 to R130) -/
namespace Sys2Proof.Machine
open Dev
namespace Dev

/-! #### Exceptions of threads (R99) -/

theorem jobEnd_idle (d : Dev) (n t : Nat) : (d.jobEnd n t).thr n t = {} := by
  rw [thr_of_harts (jobEnd_harts d n t), thr_setThr_same]

theorem jobEnd_feExc (d : Dev) (n t i : Nat) : (d.jobEnd n t).ctr .feExc i = d.ctr .feExc i := feExc_of_harts (jobEnd_harts d n t) i

/-- An exception in a frame job ends the job. -/
theorem excFe_idle {d : Dev} {n t : Nat} (frame : (d.thr n t).kind = .frame) (code pc tcode : Nat) :
    (d.excFe n t code pc tcode).thr n t = {} := by
  unfold excFe
  dsimp only
  split
  · exact jobEnd_idle ..
  · simp only [frame]
    exact jobEnd_idle ..

/-- An exception in a frame job whose outputs are not discarded is counted. -/
theorem excFe_counts {d : Dev} {n t : Nat} (frame : (d.thr n t).kind = .frame) (shows : (d.thr n t).shadow = false)
    (code pc tcode : Nat) : (d.excFe n t code pc tcode).ctr .feExc code = d.ctr .feExc code + 1 := by
  simp only [excFe, frame, shows, Bool.false_eq_true, if_false, jobEnd_feExc]
  have kept (e : Dev) (k : Hart) (g q : Nat) (fr : Frame) (r : List Byte) :
      (((e.tokSettle k).release g).slowPath q fr r).harts = e.harts := by simp
  rw [feExc_of_harts (kept ..), ctr_inc_same]

/-! #### Exceptions of cores (R115) -/

/-- A core that enters its trap code at `entry` beyond TRAPBASE. -/
theorem mcTrap_enters (d : Dev) (c why entry : Nat) :
    ((d.mcTrap c why entry).mcCore c).trapPc = (d.mcCore c).rf.pc.toNat ∧ ((d.mcTrap c why entry).mcCore c).trapWhy = why ∧
    ((d.mcTrap c why entry).mcCore c).rf.pc = BitVec.ofNat 64 ((d.mcCore c).trapBase + entry) ∧
    ((d.mcTrap c why entry).mcCore c).rf.g = (d.mcCore c).rf.g ∧
    ((d.mcTrap c why entry).mcCore c).ctl = 16 + (d.mcCore c).ctl % 2 * 2 + (d.mcCore c).ctl / 16 % 2 * 32 ∧
    ((d.mcTrap c why entry).mcCore c).st = .ready := by
  simp only [mcTrap, mcCore_setMc_same, true_and, and_true]
  omega

/-- What an exception of a core does: it counts, and the core, without its busy tokens, enters its trap code. -/
theorem excMc_shape (d : Dev) (c : Fin 2) (code : Nat) (addr : Option Nat) : ∃ (e : Dev) (v : Nat) (tok : Sparse Tok),
    d.excMc c code addr = (e.setMc c { d.mcCore c with trapAddr := v, rf := { (d.mcCore c).rf with tok := tok } }).mcTrap c code 0 ∧
      e.ctr .feExc code = d.ctr .feExc code + 1 := by
  have core : ((d.inc .feExc code).tokSettle (.mc c)).mcCore c = d.mcCore c := mcCore_of_harts (tokSettle_harts ..) c
  have count : ((d.inc .feExc code).tokSettle (.mc c)).ctr .feExc code = d.ctr .feExc code + 1 := by
    rw [feExc_of_harts (tokSettle_harts ..), ctr_inc_same]
  unfold excMc
  simp only [core]
  cases addr with
  | some a => exact ⟨_, _, _, rfl, count⟩
  | none =>
    dsimp only
    split
    · exact ⟨_, _, _, rfl, count⟩
    · exact ⟨_, _, _, rfl, count⟩

/-- An exception of a core enters its trap code at TRAPBASE. -/
theorem excMc_enters (d : Dev) (c : Fin 2) (code : Nat) (addr : Option Nat) :
    ((d.excMc c code addr).mcCore c).trapPc = (d.mcCore c).rf.pc.toNat ∧ ((d.excMc c code addr).mcCore c).trapWhy = code ∧
    ((d.excMc c code addr).mcCore c).rf.pc = BitVec.ofNat 64 (d.mcCore c).trapBase ∧
    ((d.excMc c code addr).mcCore c).rf.g = (d.mcCore c).rf.g ∧
    ((d.excMc c code addr).mcCore c).ctl = 16 + (d.mcCore c).ctl % 2 * 2 + (d.mcCore c).ctl / 16 % 2 * 32 ∧
    ((d.excMc c code addr).mcCore c).st = .ready := by
  obtain ⟨e, v, tok, shape, -⟩ := excMc_shape d c code addr
  have enters := mcTrap_enters (e.setMc c { d.mcCore c with trapAddr := v, rf := { (d.mcCore c).rf with tok := tok } }) c code 0
  rw [← shape, mcCore_setMc_same] at enters
  exact enters

/-- An exception of a core is counted. -/
theorem excMc_counts (d : Dev) (c : Fin 2) (code : Nat) (addr : Option Nat) :
    (d.excMc c code addr).ctr .feExc code = d.ctr .feExc code + 1 := by
  obtain ⟨e, v, tok, shape, count⟩ := excMc_shape d c code addr
  rw [shape, ← count]
  rfl

end Dev

/-! #### Compares and branches -/

theorem ccHolds_eq_ccOf {cc : Fin 8} (named : cc ≠ 7) (a b : Word64) : ccHolds cc a b = ccOf cc a b := by
  have slt : a.slt b = decide (a.toInt < b.toInt) := rfl
  have ult : a.ult b = decide (a.toNat < b.toNat) := rfl
  match cc with
  | 0 | 1 | 4 | 6 => rfl
  | 2 => rfl
  | 3 => simp [ccHolds, ccOf, slt, ← decide_not]
  | 5 => simp [ccHolds, ccOf, ult, ← decide_not]
  | 7 => exact absurd rfl named

theorem signExtend_mul_ofNat {n : Nat} (v : BitVec n) (k : Nat) :
    v.signExtend 64 * BitVec.ofNat 64 k = BitVec.ofInt 64 (v.toInt * k) := by
  rw [BitVec.ofInt_mul, BitVec.ofInt_natCast]
  rfl

theorem branchTo_eq (h : Hart) (pc : Word64) (off : BitVec 22) : branchTo h pc off = pc + BitVec.ofInt 64 (off.toInt * pcStep h) :=
  congrArg (pc + ·) (signExtend_mul_ofNat off (pcStep h))

section Exec
variable (s : State) (h : Hart) (g : Guard)

theorem exec_cmp (pt pf : PReg) (ra rb : GReg) (cc : Fin 8) : exec (.cmp h g pt pf ra rb cc) s = s.logic fun d =>
    d.issue h g (cc.val == 7) none [ra.val, rb.val] fun d => d.complete h fun r =>
      (r.pput pf (!ccHolds cc (r.get ra) (r.get rb))).pput pt (ccHolds cc (r.get ra) (r.get rb)) := rfl
theorem exec_cmpi (pt pf : PReg) (ra : GReg) (cc : Fin 8) (imm : BitVec 8) : exec (.cmpi h g pt pf ra cc imm) s = s.logic fun d =>
    d.issue h g (cc.val == 7) none [ra.val] fun d => d.complete h fun r =>
      (r.pput pf (!ccHolds cc (r.get ra) (BitVec.ofInt 64 imm.toInt))).pput pt (ccHolds cc (r.get ra) (BitVec.ofInt 64 imm.toInt)) := rfl
theorem exec_br (off : BitVec 22) : exec (.br h g off) s = s.logic fun d =>
    d.issue h g false none [] fun d => d.jump h id (branchTo h (d.rf h).pc off) := rfl
theorem exec_call (off : BitVec 22) : exec (.call h g off) s = s.logic fun d =>
    d.issue h g false none [31] fun d => d.jump h (fun r => r.put 31 (linkOf h (d.rf h).pc)) (branchTo h (d.rf h).pc off) := rfl
theorem exec_jr (rd ra : GReg) (imm : BitVec 12) : exec (.jr h g rd ra imm) s = s.logic fun d =>
    d.issue h g false none [rd.val, ra.val] fun d =>
      d.jump h (fun r => r.put rd.val (linkOf h (d.rf h).pc))
        ((d.rf h).get ra.val + imm.signExtend 64 * BitVec.ofNat 64 (pcStep h)) := rfl
theorem exec_budgetExhausted (n : Fin 64) (t : Fin 4) : exec (.budgetExhausted n t) s = s.logic fun d => d.budgetExhausted n t := rfl
theorem exec_waitTmo : exec (.waitTmo h) s = s.logic fun d => d.waitTimeout h := rfl
theorem exec_threadCellAvailable (n : Fin 64) (t : Fin 4) :
    exec (.threadCellAvailable n t) s = s.logic fun d => d.wakeHart (.fe n t) := rfl

end Exec

section Limits
variable {s : State} (on : s.On)
include on

/-- The four operations on predicates (R128). -/
theorem runs_predicates {h : Hart} {g : Guard} (can : s.dev.canIssue h g [] none = true) (pt pa pb : PReg) :
    ∀ e ∈ [(Instr.pand h g pt pa pb, fun a b => a && b), (.por h g pt pa pb, fun a b => a || b),
      (.pxor h g pt pa pb, fun a b => a != b), (.pandn h g pt pa pb, fun a b => a && !b)],
      Runs e.1 s fun d => d = (s.dev.issued h).complete h fun r => r.pput pt (e.2 (r.pget pa) (r.pget pb)) := by
  have row (i : Instr) (f : Bool → Bool → Bool) (hc : exec i s = s.logic fun d => d.palu h g pt pa pb f) :
      Runs i s fun d => d = (s.dev.issued h).complete h fun r => r.pput pt (f (r.pget pa) (r.pget pb)) :=
    runs_issued on can (by simp) hc rfl (by simp) rfl
  simp only [List.forall_mem_cons, List.not_mem_nil, false_imp_iff, implies_true, and_true]
  exact ⟨row _ _ rfl, row _ _ rfl, row _ _ rfl, row _ (fun a b => a && !b) rfl⟩

/-- What exception `code` of a frame job comes to: it is counted, and the thread is IDLE. -/
theorem runs_excFe {c : Instr} {f : Dev → Dev} {n : Fin 64} {t : Fin 4} {code : Nat} (hc : exec c s = s.logic f)
    (hf : f s.dev = s.dev.exc (.fe n t) code) (shows : (s.dev.thr n t).shadow = false) (frame : (s.dev.thr n t).kind = .frame) :
    Runs c s fun d => d = s.dev.exc (.fe n t) code ∧ d.ctr .feExc code = s.dev.ctr .feExc code + 1 ∧ (d.thr n t).st = .idle :=
  runs_logic_to on hc hf (by simp) ⟨rfl, excFe_counts frame shows .., congrArg Thread.st (excFe_idle frame ..)⟩

/-- A thread that has issued its budget (R97). -/
theorem runs_budgetExhausted {n : Fin 64} {t : Fin 4} (ready : (s.dev.thr n t).st = .ready)
    (spent : (s.dev.thr n t).icount = (s.dev.thr n t).budget) (leads : s.dev.follows n = false)
    (shows : (s.dev.thr n t).shadow = false) (frame : (s.dev.thr n t).kind = .frame) :
    Runs (.budgetExhausted n t) s fun d =>
      d = s.dev.exc (.fe n t) 5 ∧ d.ctr .feExc 5 = s.dev.ctr .feExc 5 + 1 ∧ (d.thr n t).st = .idle :=
  runs_excFe on (exec_budgetExhausted ..) (if_pos ⟨ready, spent, leads⟩) shows frame

/-- A thread that has waited beyond the limit (R101). -/
theorem runs_waitTmo_fe {n : Fin 64} {t : Fin 4} (waits : (s.dev.thr n t).st = .wait ∨ (s.dev.thr n t).st = .blocked)
    (leads : s.dev.follows n = false) (shows : (s.dev.thr n t).shadow = false) (frame : (s.dev.thr n t).kind = .frame) :
    Runs (.waitTmo (.fe n t)) s fun d =>
      d = s.dev.exc (.fe n t) 6 ∧ d.ctr .feExc 6 = s.dev.ctr .feExc 6 + 1 ∧ (d.thr n t).st = .idle :=
  runs_excFe on (exec_waitTmo ..) (if_pos ⟨waits, leads⟩) shows frame

/-- A core that has waited beyond the limit. -/
theorem runs_waitTmo_mc {c : Fin 2} (runs : s.dev.mcRuns c = true) (waits : (s.dev.mcCore c).st = .wait)
    {P : Dev → Prop} (hp : P (s.dev.excMc c 6 none)) : Runs (.waitTmo (.mc c)) s P :=
  runs_logic_to on (exec_waitTmo ..) (if_pos ⟨waits, runs⟩) (by simp) hp

/-- A thread that stopped at an instruction issues it again where what it waited for is there. -/
theorem runs_threadCellAvailable {n : Fin 64} {t : Fin 4} {i : Instr} (blocked : (s.dev.thr n t).st = .blocked)
    (held : (s.dev.thr n t).held = some i) : Runs (.threadCellAvailable n t) s fun d =>
      d = (s.dev.setThr n t { s.dev.thr n t with st := .ready, held := some i }).porros i := by
  refine runs_logic_to on (exec_threadCellAvailable ..) ?_ ((porros_held ..).trans (setThr_held ..)) rfl
  simp only [wakeHart, hartSt, heldBy, blocked, held, park]

end Limits

/-- Settles O14: each instruction by what its body does on the device that has counted it; each limit by the exception it takes. -/
theorem branchesAndLimits : Obligations.BranchesAndLimits := by
  intro s on
  refine ⟨fun h g pt pf ra rb cc can named => ?_, fun h g pt pf ra cc imm can named => ?_,
    fun h g pt pa pb can => runs_predicates on can pt pa pb, fun h g off can => ?_, fun h g off can => ?_,
    fun h g rd ra imm can => ?_, fun n t ready spent leads shows frame => runs_budgetExhausted on ready spent leads shows frame,
    fun n t other => ?_, fun n t waits leads shows frame => runs_waitTmo_fe on waits leads shows frame,
    fun n t awake free => ?_, fun c runs waits => ?_, fun n t i blocked held => runs_threadCellAvailable on blocked held⟩
  · have legal : (cc.val == 7) = false := by simpa [Fin.ext_iff] using named
    refine runs_issued on can (List.Subset.refl _) (by rw [exec_cmp, legal]) rfl (by simp) ?_
    simp only [ccHolds_eq_ccOf named]
  · have legal : (cc.val == 7) = false := by simpa [Fin.ext_iff] using named
    refine runs_issued on can (List.Subset.refl _) (by rw [exec_cmpi, legal]) rfl (by simp) ?_
    simp only [ccHolds_eq_ccOf named]
  · exact runs_issued on can (List.Subset.refl _) (exec_br ..) rfl (by simp) (by rw [rf_issued, branchTo_eq])
  · exact runs_issued on can (List.Subset.refl _) (exec_call ..) rfl (by simp) (by rw [rf_issued, branchTo_eq]; rfl)
  · exact runs_issued on can (List.Subset.refl _) (exec_jr ..) rfl (by simp) (by rw [rf_issued, signExtend_mul_ofNat]; rfl)
  · exact runs_logic_to on (exec_budgetExhausted ..) (if_neg (by tauto)) rfl rfl
  · exact runs_logic_to on (exec_waitTmo ..) (if_neg (by tauto)) rfl rfl
  · exact runs_waitTmo_mc on runs waits (excMc_enters ..)

end Sys2Proof.Machine
end

section
/-! ### Asynchronous instructions (R92, R93, R142 to R153) -/
namespace Sys2Proof.Machine
open Dev
namespace Dev

/-! #### What a count of issued instructions leaves as it was -/

theorem thr_issued (d : Dev) (n : Fin 64) (t : Fin 4) :
    (d.issued (.fe n t)).thr n t = { d.thr n t with icount := (d.thr n t).icount + 1 } := thr_counted_same ..
@[simp] theorem mcCore_issued (d : Dev) (h : Hart) (c : Nat) : (d.issued h).mcCore c = d.mcCore c := by
  rw [issued_eq]
  rfl
@[simp] theorem hartEpoch_issued (d : Dev) (h : Hart) : (d.issued h).hartEpoch h = d.hartEpoch h := by
  cases h with
  | fe n t => rw [hartEpoch, thr_issued]; rfl
  | mc c => rfl
@[simp] theorem noFrame_issued (d : Dev) (h : Hart) : (d.issued h).noFrame h = d.noFrame h := by
  cases h with
  | fe n t => rw [noFrame, thr_issued]; rfl
  | mc c => rfl
@[simp] theorem shadowed_issued (d : Dev) (h : Hart) : (d.issued h).shadowed h = d.shadowed h := by
  cases h with
  | fe n t => rw [shadowed, thr_issued]; rfl
  | mc c => rfl
@[simp] theorem actingUser_issued (d : Dev) (h : Hart) : (d.issued h).actingUser h = d.actingUser h := by
  cases h with
  | fe n t => rw [actingUser, thr_issued]; rfl
  | mc c => rfl
@[simp] theorem physSet_issued (d : Dev) (h : Hart) (e k : Nat) : (d.issued h).physSet e k = d.physSet e k := by
  rw [issued_eq]
  rfl
@[simp] theorem search_issued (d : Dev) (h : Hart) (set key : Nat) : (d.issued h).search h set key = d.search h set key := by
  have rules (k : Nat) : (d.issued h).ruleMatch k key = d.ruleMatch k key := by rw [issued_eq]; rfl
  have rule (k : Nat) : (d.issued h).rule k = d.rule k := by rw [issued_eq]; rfl
  simp only [search, hartEpoch_issued, physSet_issued, rules, rule]
@[simp] theorem blockRefused_issued (d : Dev) (h : Hart) (u slot gen : Nat) (dec cmac : Bool) :
    (d.issued h).blockRefused u slot gen dec cmac = d.blockRefused u slot gen dec cmac := by
  rw [issued_eq]
  rfl
@[simp] theorem slotAttr_issued (d : Dev) (h : Hart) (k : Nat) : (d.issued h).slotAttr k = d.slotAttr k := by
  rw [issued_eq]
  rfl
@[simp] theorem slotKey_issued (d : Dev) (h : Hart) (k : Nat) : (d.issued h).slotKey k = d.slotKey k := by
  rw [issued_eq]
  rfl
@[simp] theorem paBudget_issued (d : Dev) (h : Hart) (a : Nat) : (d.issued h).paBudget a = d.paBudget a := by
  rw [issued_eq]
  rfl
@[simp] theorem acct_issued (d : Dev) (h : Hart) (a : Nat) : (d.issued h).acct a = d.acct a := by
  rw [issued_eq]
  rfl
@[simp] theorem paNext_issued (d : Dev) (h : Hart) : (d.issued h).paNext = d.paNext := by rw [issued_eq]
@[simp] theorem domNow_issued (d : Dev) (h : Hart) (t : Nat) : (d.issued h).domNow t = d.domNow t := by
  rw [issued_eq]
  rfl
@[simp] theorem f_issued (d : Dev) (h : Hart) (F : RField) (i : Nat) : (d.issued h).f F i = d.f F i := by
  rw [issued_eq]
  rfl

/-! #### Completing -/

@[simp] theorem rf_jump (d : Dev) (h : Hart) (f : RegFile → RegFile) (pc : Word64) :
    (d.jump h f pc).rf h = { f (d.rf h) with pc := pc } := by
  cases h with
  | fe n t => simp only [jump, rf, thr_setThr_same]
  | mc c => simp only [jump, rf, mcCore_setMc_same]

/-! #### Refusals of LEAVE -/

theorem paRequest_denied {d : Dev} {a cost : Nat} (exceeds : d.paBudget a < cost) (who : PaFor) :
    d.paRequest a who cost = (none, d.inc .mdPaDenied 0) := if_pos (by simp [exceeds])

theorem paShow_paNext (d : Dev) (a : Nat) : (d.paShow a).paNext = d.paNext := by
  unfold paShow
  split <;> simp
theorem paRequest_eng (d : Dev) (a : Nat) (who : PaFor) (cost : Nat) : (d.paRequest a who cost).2.eng = d.eng := by
  have shown (e : Dev) : (e.paShow a).eng = e.eng := by
    unfold paShow
    split <;> simp
  unfold paRequest setAcct
  dsimp only
  split
  · exact inc_eng ..
  · split
    · exact (inc_eng ..).trans (shown _)
    · exact shown _
theorem rf_of_eng {d e : Dev} (eng : e.eng = d.eng) (h : Hart) : e.rf h = d.rf h := by
  cases h <;> simp only [rf, thr, mcCore, eng]
theorem tokIssue_pa (d : Dev) (h : Hart) (k : TokId) (o : TokOp) : (d.tokIssue h k o).pa = d.pa := by cases h <;> rfl
theorem tokIssue_paNext (d : Dev) (h : Hart) (k : TokId) (o : TokOp) : (d.tokIssue h k o).paNext = d.paNext := by cases h <;> rfl
/-- The number that a request which is placed takes. -/
theorem paRequest_paNext {d : Dev} {a cost : Nat} (bears : cost ≤ d.paBudget a) (room : (d.acct a).waiting.length < 64) (who : PaFor) :
    (d.paRequest a who cost).2.paNext = d.paNext + 1 := by
  rw [paRequest, if_neg (by simp [Nat.not_lt.2 bears, Nat.not_le.2 room])]
  dsimp only
  split
  · exact (inc_paNext ..).trans (paShow_paNext ..)
  · exact paShow_paNext ..

/-- Every register of a span that ends at g31 or before. -/
theorem spanBad_eq_false {r k : Nat} (fits : r + k ≤ 32) : spanBad r k = false := decide_eq_false (Nat.not_lt.2 fits)

/-! #### Blocks and LEAVE where they can be issued -/

section Issued
variable {d : Dev} {h : Hart} {g : Guard} {tk : TokId} {rd ra : GReg}

section Block
variable {u k gen : Nat} {cmac dec : Bool} (user : (u, cmac) = d.actingUser h) (slot : k = bits 11 0 ((d.rf h).get (ra + 2)).toNat)
  (generation : gen = bits 19 12 ((d.rf h).get (ra + 2)).toNat) (key : ra.val + 3 ≤ 32) (res : rd.val + 2 ≤ 32)
  (can : d.canIssue h g (spanRegs ra 3 ++ spanRegs rd 2) (some tk) = true)
include user slot generation key res can

/-- A block that the rules of its key slot allow. -/
theorem blockIssue_admitted (admits : d.blockRefused u k gen dec cmac = none) : d.blockIssue h g rd ra tk dec =
    (d.issued h).tokIssue h tk (.cipher rd u k (packKey (atGen (d.slotAttr k)) (d.slotKey k)) dec
      (((d.rf h).get ra).toNat * 2 ^ 64 + ((d.rf h).get (ra + 1)).toNat) none) := by
  rw [blockIssue, spanBad_eq_false key, spanBad_eq_false res, Bool.or_self, issue_eq can]
  simp only [rf_issued, actingUser_issued, ← user, ← slot, ← generation, blockRefused_issued, slotAttr_issued, slotKey_issued, admits]

/-- A block that they refuse with status `st`. -/
theorem blockIssue_refused {st : Nat} (refuses : d.blockRefused u k gen dec cmac = some st) : d.blockIssue h g rd ra tk dec =
    (if st = 3 then (d.issued h).inc .ksKeyDenied 0 else (d.issued h).inc .ksStaleKey 0).tokAtOnce h tk st := by
  rw [blockIssue, spanBad_eq_false key, spanBad_eq_false res, Bool.or_self, issue_eq can]
  simp only [rf_issued, actingUser_issued, ← user, ← slot, ← generation, blockRefused_issued, refuses]
  exact congrArg (fun e : Dev => e.tokAtOnce h tk st) (apply_ite (fun c => (d.issued h).inc c 0) ..)

end Block

section Leave
variable {budget : Fin 4} (can : d.canIssue h g [rd, ra] (some tk) = true)
include can

/-- LEAVE of 0 mW. -/
theorem iLeave_zero (zero : ((d.rf h).get ra).toNat % 65536 = 0) :
    d.iLeave h g rd ra budget tk = (d.issued h).tokAtOnce h tk tokOk fun r => r.put rd 0 := by
  rw [iLeave, issue_eq can]
  simp only [rf_issued, zero, if_true]

/-- LEAVE of a half whose outputs are discarded (R460). -/
theorem iLeave_discarded (asks : ((d.rf h).get ra).toNat % 65536 ≠ 0) (discards : d.shadowed h = true) :
    d.iLeave h g rd ra budget tk = ((d.issued h).inc .lsDebugDiscard 0).tokAtOnce h tk tokDenied fun r => r.put rd 0 := by
  rw [iLeave, issue_eq can]
  simp only [rf_issued, shadowed_issued, asks, discards, if_true, if_false]

/-- LEAVE whose request is denied at once. -/
theorem iLeave_denied {e : Dev} (asks : ((d.rf h).get ra).toNat % 65536 ≠ 0) (shows : d.shadowed h = false)
    (request : (d.issued h).paRequest budget (.token (hartKey h) tk) (((d.rf h).get ra).toNat % 65536) = (none, e)) :
    d.iLeave h g rd ra budget tk = e.tokAtOnce h tk tokDenied fun r => r.put rd 0 := by
  rw [iLeave, issue_eq can]
  simp only [rf_issued, shadowed_issued, asks, shows, Bool.false_eq_true, if_false, request]

/-- LEAVE whose request is placed. -/
theorem iLeave_placed {e : Dev} {n : Nat} (asks : ((d.rf h).get ra).toNat % 65536 ≠ 0) (shows : d.shadowed h = false)
    (request : (d.issued h).paRequest budget (.token (hartKey h) tk) (((d.rf h).get ra).toNat % 65536) = (some n, e)) :
    d.iLeave h g rd ra budget tk = e.tokIssue h tk (.leave rd n) := by
  rw [iLeave, issue_eq can]
  simp only [rf_issued, shadowed_issued, asks, shows, Bool.false_eq_true, if_false, request]

end Leave

end Issued

end Dev

/-- As `runs_issued`, for an instruction whose ILLEGAL condition is read off the device. -/
theorem runs_issues {c : Instr} {s : State} {h : Hart} {g : Guard} {regs regs' : List Nat} {tk : Option Nat} {ill : Bool}
    {f body : Dev → Dev} {d : Dev} {P : Dev → Prop} (on : s.On) (can : s.dev.canIssue h g regs tk = true) (sub : regs' ⊆ regs)
    (hc : exec c s = s.logic f) (hf : f s.dev = s.dev.issue h g ill tk regs' body) (legal : ill = false)
    (hb : body (s.dev.issued h) = d) (held : d.mg.held = s.dev.mg.held) (hp : P d) : Runs c s P := by
  subst legal
  exact runs_logic_to on hc (hf.trans ((issue_eq (canIssue_mono can sub) body).trans hb)) held hp

section Exec
variable (s : State) (h : Hart) (g : Guard) (tk : TokId)

theorem exec_matchKey (rd ra : GReg) (set : Fin 16) :
    exec (.matchKey h g rd ra set tk) s = s.logic fun d => d.iMatchKey h g rd ra set tk := rfl
theorem exec_matchAct (rd ra : GReg) (set : Fin 16) (ecc : Ecc) :
    exec (.matchAct h g rd ra set ecc) s = s.logic fun d => d.iMatchAct h g rd ra set ecc := rfl
theorem exec_lkup (rd ra : GReg) (table : Fin 16) (learn : Bool) :
    exec (.lkup h g rd ra table learn tk) s = s.logic fun d => d.iLkup h g rd ra table learn tk := rfl
theorem exec_aes (rd ra : GReg) (dec : Bool) : exec (if dec then .aesd h g rd ra tk else .aese h g rd ra tk) s =
    s.logic fun d => d.blockIssue h g rd ra tk dec := by cases dec <;> rfl
theorem exec_leave (rd ra : GReg) (budget : Fin 4) :
    exec (.leave h g rd ra budget tk) s = s.logic fun d => d.iLeave h g rd ra budget tk := rfl
theorem exec_leaveRel (ra : GReg) : exec (.leaveRel h g ra tk) s = s.logic fun d => d.iLeaveRel h g ra tk := rfl
theorem exec_tnow (rd : GReg) (td : Fin 4) : exec (.tnow h g rd td) s = s.logic fun d => d.iTnow h g rd td := rfl
theorem exec_tarm (ra : GReg) (td : Fin 4) (rel : Bool) :
    exec (.tarm h g ra td rel tk) s = s.logic fun d => d.iTarm h g ra td rel tk := rfl
theorem exec_wait (tmask : BitVec 8) (pd : PReg) : exec (.wait h g tmask pd) s = s.logic fun d => d.iWait h g tmask pd := rfl
theorem exec_mor (rd ra : GReg) : exec (.mor h g rd ra tk) s = s.logic fun d => d.iMor h g rd ra tk := rfl
theorem exec_mow (rd ra : GReg) : exec (.mow h g rd ra tk) s = s.logic fun d => d.iMow h g rd ra tk := rfl
theorem exec_moack (ra : GReg) : exec (.moack h g ra tk) s = s.logic fun d => d.iMoack h g ra tk := rfl

end Exec

section Starts
variable {s : State} {h : Hart} {g : Guard} {tk : TokId} (on : s.On)
include on

/-! #### Rules -/

theorem runs_matchKey {rd ra : GReg} {set : Fin 16} (key : ra.val + 8 ≤ 32) (res : rd.val + 2 ≤ 32)
    (can : s.dev.canIssue h g (spanRegs ra 8 ++ spanRegs rd 2) (some tk) = true) :
    Runs (.matchKey h g rd ra set tk) s fun d => d = (s.dev.issued h).tokIssue h tk
      (.ruleSearch rd (s.dev.search h set (matchKeyOf (s.dev.rf h) ra)).1 (s.dev.search h set (matchKeyOf (s.dev.rf h) ra)).2) := by
  have legal : (spanBad ra.val 8 || spanBad rd.val 2) = false := by simp only [spanBad_eq_false key, spanBad_eq_false res, Bool.or_self]
  refine runs_issues on can (List.Subset.refl _) (exec_matchKey ..) rfl legal rfl (by simp) ?_
  simp only [rf_issued, search_issued]

theorem runs_matchAct_miss {n : Fin 64} {t : Fin 4} {rd ra : GReg} {set : Fin 16} {ecc : Ecc} (fe : h = .fe n t)
    (clean : ecc.failing = []) (frame : (s.dev.thr n t).kind = .frame) (first : (s.dev.thr n t).acted = none)
    (key : ra.val + 8 ≤ 32) (res : rd.val + 2 ≤ 32) (can : s.dev.canIssue h g (spanRegs ra 8 ++ spanRegs rd 2) none = true)
    (miss : (s.dev.search h set (matchKeyOf (s.dev.rf h) ra)).1 = none) :
    Runs (.matchAct h g rd ra set ecc) s fun d =>
      d = ((s.dev.issued h).setRf h ((s.dev.rf h).putSpan rd [0, 0])).complete h id := by
  subst fe
  have legal : (s.dev.noFrame (.fe n t) || spanBad ra.val 8 || spanBad rd.val 2) = false := by
    simp [noFrame, frame, spanBad_eq_false key, spanBad_eq_false res]
  have rf : ((s.dev.issued (.fe n t)).thr n t).rf = s.dev.rf (.fe n t) := by rw [thr_issued]; rfl
  have acted : ((s.dev.issued (.fe n t)).thr n t).acted = none := by rw [thr_issued]; exact first
  refine runs_issues on can (List.Subset.refl _) (exec_matchAct ..) rfl legal ?_ (by simp) rfl
  simp only [onThread, acted, rf, clean, search_issued, miss, List.isEmpty_nil, Bool.true_eq_false, if_false, countHit, matchWords]

/-! #### Tables and blocks -/

theorem runs_lkup {rd ra : GReg} {table : Fin 16} {learn : Bool} (known : table.val < 9)
    (learns : learn = false ∨ (table = 0 ∧ s.dev.noFrame h = false)) (key : ra.val + 2 ≤ 32) (res : rd.val + 2 ≤ 32)
    (can : s.dev.canIssue h g (spanRegs ra 2 ++ spanRegs rd 2) (some tk) = true) {P : Dev → Prop}
    (hp : P (if table.val = tblCan ∧ (bits 38 32 ((s.dev.rf h).get ra).toNat < 32 ∨ 79 < bits 38 32 ((s.dev.rf h).get ra).toNat) then
      (s.dev.issued h).exc h 8
      else (s.dev.issued h).tokIssue h tk
        (.lookup rd table ((s.dev.rf h).get ra).toNat ((s.dev.rf h).get (ra + 1)).toNat learn))) :
    Runs (.lkup h g rd ra table learn tk) s P := by
  have legal : (decide (9 ≤ table.val) || (learn && (table.val != 0 || s.dev.noFrame h)) || spanBad ra.val 2 || spanBad rd.val 2)
      = false := by
    rcases learns with rfl | ⟨rfl, framed⟩
    · simp [known, spanBad_eq_false key, spanBad_eq_false res]
    · simp [framed, spanBad_eq_false key, spanBad_eq_false res]
  refine runs_issues on can (List.Subset.refl _) (exec_lkup ..) rfl legal rfl ?_ ?_
  · dsimp only
    split <;> simp
  · simp only [rf_issued]
    exact hp

/-! #### Message objects -/

theorem runs_object {c : Instr} {regs : List Nat} {ill : Bool} {kind rd v : Nat} {ra : GReg} {words : RegFile → List Nat}
    (hc : exec c s = s.logic fun d => d.objectIssue h g ill kind rd ra tk regs words) (legal : ill = false)
    (operand : v = ((s.dev.rf h).get ra).toNat) (low : 32 ≤ bits 38 32 v) (high : bits 38 32 v ≤ 79)
    (can : s.dev.canIssue h g (ra.val :: regs) (some tk) = true) :
    Runs c s fun d => d = (s.dev.issued h).tokIssue h tk
      (.object kind rd (bits 38 32 v) (bits 30 29 v) (bits 28 0 v) (words (s.dev.rf h))) := by
  subst operand
  refine runs_issues on can (List.Subset.refl _) hc rfl legal ?_ (by simp) rfl
  simp only [rf_issued]
  exact if_neg (by omega)

/-! #### Leave -/

theorem runs_leave_placed {rd ra : GReg} {budget : Fin 4} (shows : s.dev.shadowed h = false)
    (asks : ((s.dev.rf h).get ra).toNat % 65536 ≠ 0) (bears : ((s.dev.rf h).get ra).toNat % 65536 ≤ s.dev.paBudget budget)
    (room : (s.dev.acct budget).waiting.length < 64) (can : s.dev.canIssue h g [rd, ra] (some tk) = true) :
    Runs (.leave h g rd ra budget tk) s fun d =>
      d.rf h = { (s.dev.rf h).setTok tk { busy := true, op := some (.leave rd s.dev.paNext) } with
        pc := (s.dev.rf h).pc + BitVec.ofNat 64 (pcStep h) } ∧
      (d.acct budget).waiting = (s.dev.acct budget).waiting ++
        [⟨.token (hartKey h) tk, ((s.dev.rf h).get ra).toNat % 65536, s.dev.paNext⟩] ∧ d.paNext = s.dev.paNext + 1 := by
  rw [← acct_issued s.dev h] at room
  rw [← paBudget_issued s.dev h] at bears
  obtain ⟨handle, queue⟩ := paRequest_waits bears room (.token (hartKey h) tk)
  have next := paRequest_paNext bears room (.token (hartKey h) tk)
  have eng := paRequest_eng (s.dev.issued h) budget (.token (hartKey h) tk) (((s.dev.rf h).get ra).toNat % 65536)
  generalize request : (s.dev.issued h).paRequest budget (.token (hartKey h) tk) (((s.dev.rf h).get ra).toNat % 65536) = r at *
  obtain ⟨n, e⟩ := r
  subst handle
  have rf : e.rf h = s.dev.rf h := (rf_of_eng eng h).trans (rf_issued ..)
  refine runs_logic_of_held on (exec_leave ..) (iLeave_held ..) ?_
  rw [iLeave_placed can asks shows request]
  refine ⟨?_, ?_, ?_⟩
  · rw [tokIssue, complete, rf_jump, rf, paNext_issued]
  · rw [acct_of_pa (tokIssue_pa ..), queue, acct_issued, paNext_issued]
  · rw [tokIssue_paNext, next, paNext_issued]

/-! #### Time and waiting -/

theorem runs_tarm {ra : GReg} {td : Fin 4} {rel : Bool} {due : Nat}
    (deadline : due = if rel then (s.dev.domNow td + ((s.dev.rf h).get ra).toNat) % 2 ^ 64 else ((s.dev.rf h).get ra).toNat)
    (can : s.dev.canIssue h g [ra] (some tk) = true) : Runs (.tarm h g ra td rel tk) s fun d =>
      d = if due ≤ s.dev.domNow td then (s.dev.issued h).tokAtOnce h tk 0
        else if s.dev.domNow td + 1000 * s.dev.f feWaitTmo_TMO_US 0 < due then (s.dev.issued h).tokAtOnce h tk 5
        else (s.dev.issued h).tokIssue h tk (.alarm td due) := by
  refine runs_logic_of_held on (exec_tarm ..) (iTarm_held ..) ?_
  rw [iTarm, issue_eq can]
  simp only [rf_issued, domNow_issued, f_issued, ← deadline]
  rfl

theorem runs_wait {tmask : BitVec 8} {pd : PReg} (can : s.dev.canIssue h g [] none = true) :
    Runs (.wait h g tmask pd) s fun d =>
      d = if maskIdle (s.dev.rf h) tmask.toNat then (s.dev.issued h).complete h fun r => r.pput pd (maskOk r tmask.toNat)
        else (s.dev.issued h).waitHold h tmask.toNat pd := by
  refine runs_logic_of_held on (exec_wait ..) (iWait_held ..) ?_
  rw [iWait, issue_eq can, rf_issued]
  rfl

end Starts

/-- Settles O18: each instruction by its body on the device that has counted it, with the operands read off it. -/
theorem asynchronousInstructions : Obligations.AsynchronousInstructions := by
  intro s h g tk on
  refine ⟨fun rd ra set key res can => runs_matchKey on key res can,
    fun n t rd ra set ecc fe clean frame first key res can miss => runs_matchAct_miss on fe clean frame first key res can miss,
    fun rd ra table learn known learns key res port can => ?_, fun rd ra port key res can => ?_,
    fun rd ra u k gen cmac dec user slot generation admits key res can => ?_,
    fun rd ra u k gen st cmac dec user slot generation refuses key res can => ?_,
    fun rd ra v operand low high fits can => ⟨?_, ?_, ?_⟩,
    fun rd ra budget zero can => ?_, fun rd ra budget shows exceeds can => ?_, fun rd ra budget shows asks bears room can => ?_,
    fun rd ra budget discards asks can => ?_, fun ra shows can => ?_, fun rd td can => ?_, fun ra td rel due deadline can => ?_,
    fun tmask pd can => ?_⟩
  · exact runs_lkup on known learns key res can (if_neg fun bad => by have := port bad.1; omega)
  · exact runs_lkup on (by decide) (.inl rfl) key res can (if_pos ⟨rfl, port⟩)
  · exact runs_logic_of_held on (exec_aes ..) (blockIssue_held ..) (blockIssue_admitted user slot generation key res can admits)
  · exact runs_logic_of_held on (exec_aes ..) (blockIssue_held ..) (blockIssue_refused user slot generation key res can refuses)
  · exact runs_object on (exec_mor ..) (spanBad_eq_false fits) operand low high can
  · exact runs_object on (exec_mow ..) (spanBad_eq_false fits) operand low high can
  · exact runs_object on (exec_moack ..) rfl operand low high (canIssue_mono can (by simp))
  · exact runs_logic_of_held on (exec_leave ..) (iLeave_held ..) (iLeave_zero can zero)
  · refine runs_logic_of_held on (exec_leave ..) (iLeave_held ..)
      (iLeave_denied can (by omega) shows (paRequest_denied (by rwa [paBudget_issued]) _))
  · exact runs_leave_placed on shows asks bears room can
  · exact runs_logic_of_held on (exec_leave ..) (iLeave_held ..) (iLeave_discarded can asks discards)
  · refine runs_logic_of_held on (exec_leaveRel ..) (iLeaveRel_held ..) ?_
    rw [iLeaveRel, issue_eq can, outward, shadowed_issued, shows, rf_issued]
    rfl
  · exact runs_issued on can (List.Subset.refl _) (exec_tnow ..) rfl (by simp) (by rw [domNow_issued])
  · exact runs_tarm on deadline can
  · exact runs_wait on can

end Sys2Proof.Machine
end

section
/-! ### The completions of tokens (R92, R142 to R152, R351) -/
namespace Sys2Proof.Machine
open Dev
namespace Dev

/-! #### A memory error, and what it may bring of Sepia, leave the harts as they are (R207, R461, R465) -/

@[simp] theorem paShow_harts (d : Dev) (a : Nat) : (d.paShow a).harts = d.harts := by simp [paShow]
@[simp] theorem setAcct_harts (d : Dev) (a : Nat) (x : PaAcct) : (d.setAcct a x).harts = d.harts :=
  (paShow_harts ..).trans (harts_of_parts rfl rfl rfl rfl)
@[simp] theorem paRequest_harts (d : Dev) (a : Nat) (who : PaFor) (cost : Nat) : (d.paRequest a who cost).2.harts = d.harts := by
  have numbered : ({ d with paNext := d.paNext + 1 } : Dev).harts = d.harts := harts_of_parts rfl rfl rfl rfl
  unfold paRequest
  dsimp only
  repeat' split
  all_goals simp [numbered]
@[simp] theorem paWithdraw_harts (d : Dev) (a : Nat) (who : PaFor) : (d.paWithdraw a who).harts = d.harts := by simp [paWithdraw]
@[simp] theorem paReleaseLast_harts (d : Dev) (a : Nat) (who : PaFor) : (d.paReleaseLast a who).harts = d.harts := by
  simp [paReleaseLast]
@[simp] theorem ldShow_harts (d : Dev) (l : Nat) : (d.ldShow l).harts = d.harts := by
  unfold ldShow
  split
  · refine harts_foldl (fun e n => ?_) _ d
    simp
  · rfl
@[simp] theorem ldUpd_harts (d : Dev) (l : Nat) (g : LdCh → LdCh) : (d.ldUpd l g).harts = d.harts :=
  (ldShow_harts ..).trans (harts_of_parts rfl rfl rfl rfl)
@[simp] theorem ldEvent_harts (d : Dev) (l what : Nat) : (d.ldEvent l what).harts = d.harts := by
  unfold ldEvent
  split
  · simp
  · exact harts_of_parts rfl rfl rfl rfl
@[simp] theorem ldFault_harts (d : Dev) (l : Nat) : (d.ldFault l).harts = d.harts := by simp [ldFault]
@[simp] theorem ldRelease_harts (d : Dev) (l : Nat) : (d.ldRelease l).harts = d.harts := by simp [ldRelease]
@[simp] theorem ldLeave_harts (d : Dev) (l : Nat) : (d.ldLeave l).harts = d.harts := by simp [ldLeave]
@[simp] theorem ldStartRamp_harts (d : Dev) (l : Nat) (grant : Bool) : (d.ldStartRamp l grant).harts = d.harts := by
  simp [ldStartRamp]
@[simp] theorem ldBadProfile_harts (d : Dev) (l : Nat) : (d.ldBadProfile l).harts = d.harts := by simp [ldBadProfile]
@[simp] theorem ldTurnOn_harts (d : Dev) (l : Nat) (leave : Bool) : (d.ldTurnOn l leave).harts = d.harts := by
  have asked := paRequest_harts d (1 + l / 32) (.gang l) (d.ldCost l ((d.ldPhases (l / 32) (d.f ldCfg_PROFILE l)).getD []))
  unfold ldTurnOn
  dsimp only
  repeat' split
  all_goals simp_all
@[simp] theorem ldSwitchOff_harts (d : Dev) (l : Nat) : (d.ldSwitchOff l).harts = d.harts := by simp [ldSwitchOff]
@[simp] theorem ldSwitchOn_harts (d : Dev) (l : Nat) (leave : Bool) : (d.ldSwitchOn l leave).harts = d.harts := by simp [ldSwitchOn]
@[simp] theorem ldOrder_harts (d : Dev) (l what : Nat) : (d.ldOrder l what).harts = d.harts := by
  unfold ldOrder
  split <;> simp
@[simp] theorem ldSepia_harts (d : Dev) : d.ldSepia.harts = d.harts := by simp [ldSepia]
@[simp] theorem setDispQ_harts (d : Dev) (c : Nat) (l : List Work) : (d.setDispQ c l).harts = d.harts := harts_of_parts rfl rfl rfl rfl
@[simp] theorem sepiaPurge_harts (d : Dev) : d.sepiaPurge.harts = d.harts := by
  refine harts_foldl (fun e c => ?_) _ d
  dsimp only
  refine (harts_foldl (fun e w => ?_) _ _).trans (setDispQ_harts ..)
  split <;> simp
@[simp] theorem sepiaEnter_harts (d : Dev) (cls : Nat) : (d.sepiaEnter cls).harts = d.harts := by simp [sepiaEnter]
@[simp] theorem faultRaise_harts (d : Dev) (c : Nat) : (d.faultRaise c).harts = d.harts := by simp [faultRaise]
@[simp] theorem memoryError_harts (d : Dev) (ev inst info : Nat) : (d.memoryError ev inst info).harts = d.harts := by
  simp [memoryError]
@[simp] theorem setTbBad_harts (d : Dev) (t l : Nat) (b : Bool) : (d.setTbBad t l b).harts = d.harts := harts_of_parts rfl rfl rfl rfl
@[simp] theorem tbEccIn_harts (d : Dev) (t : Nat) (frozen : Bool) (e : Ecc) : (d.tbEccIn t frozen e).harts = d.harts := by
  simp [tbEccIn]
@[simp] theorem lookupEcc_harts (d : Dev) (t e : Nat) (x : Ecc) : (d.lookupEcc t e x).harts = d.harts := by simp [lookupEcc]
@[simp] theorem lookupEcc_held (d : Dev) (t e : Nat) (x : Ecc) : (d.lookupEcc t e x).mg.held = d.mg.held := by simp [lookupEcc]

/-! #### The end of a token -/

@[simp] theorem tokEnd_held (d : Dev) (h : Hart) (k : TokId) (status rd : Nat) (vals : List Nat) :
    (d.tokEnd h k status rd vals).mg.held = d.mg.held := setRf_held ..
theorem hartSt_setRf (d : Dev) (h : Hart) (r : RegFile) : (d.setRf h r).hartSt h = d.hartSt h := by
  cases h with
  | fe n t => simp only [setRf, hartSt, thr_setThr_same]
  | mc c => simp only [setRf, hartSt, mcCore_setMc_same]
@[simp] theorem rf_setRf (d : Dev) (h : Hart) (r : RegFile) : (d.setRf h r).rf h = r := by
  cases h with
  | fe n t => simp only [setRf, rf, thr_setThr_same]
  | mc c => simp only [setRf, rf, mcCore_setMc_same]
@[simp] theorem hartSt_tokEnd (d : Dev) (h : Hart) (k : TokId) (status rd : Nat) (vals : List Nat) :
    (d.tokEnd h k status rd vals).hartSt h = d.hartSt h := hartSt_setRf ..
theorem tokAt_tokEnd (d : Dev) (h : Hart) (k : TokId) (status rd : Nat) (vals : List Nat) :
    ((d.tokEnd h k status rd vals).rf h).tokAt k = { status := status } := by
  rw [tokEnd, rf_setRf]
  exact Sparse.get_set_same ..
theorem ctrs_tokEnd (d : Dev) (h : Hart) (k : TokId) (status rd : Nat) (vals : List Nat) :
    (d.tokEnd h k status rd vals).ctrs = d.ctrs := by cases h <;> rfl
theorem opOf_tokEnd (d : Dev) (h : Hart) (k : TokId) (status rd : Nat) (vals : List Nat) (u : Nat) :
    (d.tokEnd h k status rd vals).opOf u = d.opOf u := by cases h <;> rfl
theorem within_setRf_cx (d : Dev) (x : Crypto) (h : Hart) (r : RegFile) :
    d.Within ({ d with cx := x }.setRf h r) { parts := [.eng, .cx] } := by
  cases h <;> exact .parts rfl rfl fun p n => by cases p <;> simp_all [Part.same, Foot.hasPart, setRf, setThr, setMc]

/-- A hart that is READY waits for nothing. -/
theorem wakeHart_of_ready {d : Dev} {h : Hart} (ready : d.hartSt h = .ready) : d.wakeHart h = d := by
  simp only [wakeHart, ready]

theorem drainEnd_of_opOf_none {d : Dev} {u : Nat} (idle : d.opOf u = none) : d.drainEnd u = d := by
  simp only [drainEnd, idle]

/-- A core that no command drains. -/
theorem blockEnd_drained {d : Dev} {n : Nat} (idle : d.opOf (uAc n) = none) (h : Hart) (k : TokId) (status rd : Nat) (vals : List Nat) :
    ((d.inc .cxCoreBlocks n).tokEnd h k status rd vals).drainEnd (uAc n) = (d.inc .cxCoreBlocks n).tokEnd h k status rd vals :=
  drainEnd_of_opOf_none ((opOf_tokEnd ..).trans idle)

section Done
variable {d : Dev} {h : Hart} {tk : TokId} {rd : Nat}

theorem matchDone_clean {ecc : Ecc} {hit : Option Nat} {action : Nat} (clean : ecc.failing = [])
    (op : d.tokOp h tk = some (.ruleSearch rd hit action)) : d.matchDone h tk ecc =
      (d.countHit h hit).tokEnd h tk (if hit.isSome then tokOk else tokMiss) rd (matchWords hit action) := by
  simp only [matchDone, op, clean, List.isEmpty_nil, if_true]

theorem lkupDone_of_lookupDo {ecc : Ecc} {table k0 k1 : Nat} {learn : Bool} {r : LookupResult} {e : Dev}
    (shows : d.shadowed h = false) (op : d.tokOp h tk = some (.lookup rd table k0 k1 learn))
    (found : (d.lookupEcc table (d.hartEpoch h) ecc).lookupDo table (d.hartEpoch h) k0 k1 (d.hartLearn h learn)
      (!ecc.failing.isEmpty) = (r, e)) (known : r.status ≠ 8) :
    d.lkupDone h tk ecc = e.tokEnd h tk r.status rd [r.r0, r.r1] := by
  have kept := lookupEcc_harts d table (d.hartEpoch h) ecc
  simp only [lkupDone, op, hartEpoch_of_harts kept, hartLearn_of_harts kept, shadowed_of_harts kept, shows, found,
    Bool.false_eq_true, if_false]
  exact if_neg known

/-- A core that works returns the AES result of its block (R146). -/
theorem blockDone_of_core {u slot key block n : Nat} {dec : Bool} (shows : d.shadowed h = false)
    (op : d.tokOp h tk = some (.cipher rd u slot key dec block (some n)))
    (works : d.cx.faulty.contains (d.f idAcMap_PHYS n) = false) : d.blockDone h tk =
      ((d.inc .cxCoreBlocks n).tokEnd h tk tokOk rd
        [blockResult dec key block / 2 ^ 64, blockResult dec key block % 2 ^ 64]).drainEnd (uAc n) := by
  simp only [blockDone, op, shows, works, Bool.false_eq_true, if_false]

/-- A core that has failed unseen returns any result (R354). -/
theorem blockDone_of_faulty {u slot key block n : Nat} {dec : Bool} (shows : d.shadowed h = false)
    (op : d.tokOp h tk = some (.cipher rd u slot key dec block (some n)))
    (faulty : d.cx.faulty.contains (d.f idAcMap_PHYS n) = true) : ∃ vals,
      d.blockDone h tk = ((((d.fresh 128).2.inc .cxCoreBlocks n)).tokEnd h tk tokOk rd vals).drainEnd (uAc n) := by
  refine ⟨[(d.fresh 128).1 / 2 ^ 64, (d.fresh 128).1 % 2 ^ 64], ?_⟩
  simp only [blockDone, op, shows, faulty, Bool.false_eq_true, if_false, if_true]

theorem blockSchedule_of_turn {u slot key block n : Nat} {dec : Bool} (shows : d.shadowed h = false)
    (op : d.tokOp h tk = some (.cipher rd u slot key dec block none)) (core : d.coreFor u slot key = some n)
    (turn : d.coreTurn n = some u) : ∃ x, d.blockSchedule h tk = { d with cx := x }.setRf h
      ((d.rf h).setTok tk { busy := true, op := some (.cipher rd u slot key dec block (some n)) }) := by
  refine ⟨{ d.cx with coreRr := Sparse.set (fun _ => 17) d.cx.coreRr n u }, ?_⟩
  have same : ({ d with cx := { d.cx with coreRr := Sparse.set (fun _ => 17) d.cx.coreRr n u } } : Dev).rf h = d.rf h := by
    cases h <;> rfl
  simp only [blockSchedule, op, shows, core, turn, Bool.false_eq_true, if_false, if_true, same]

theorem moDone_of_no_object {kind chan fmt ident : Nat} {words : List Nat} (shows : d.shadowed h = false)
    (op : d.tokOp h tk = some (.object kind rd chan fmt ident words)) (missing : d.objFind chan fmt ident = none) :
    d.moDone h tk = d.tokEnd h tk tokNoObject rd [] := by
  simp only [moDone, op, shows, Bool.false_and, Bool.false_eq_true, if_false, objectDo, missing]

theorem alarmExpiry_eq {td due : Nat} (op : d.tokOp h tk = some (.alarm td due)) :
    d.alarmExpiry h tk = if due ≤ d.domNow td then d.tokEnd h tk tokOk 0 [] else d := by
  simp only [alarmExpiry, op]

end Done

end Dev

section Exec
variable (s : State) (h : Hart) (tk : TokId)

theorem exec_matchDone (ecc : Ecc) : exec (.matchDone h tk ecc) s = s.logic fun d => d.tokenRow h fun d => d.matchDone h tk ecc := rfl
theorem exec_lkupDone (ecc : Ecc) : exec (.lkupDone h tk ecc) s = s.logic fun d => d.tokenRow h fun d => d.lkupDone h tk ecc := rfl
theorem exec_aesBlockSchedule : exec (.aesBlockSchedule h tk) s = s.logic fun d => d.blockSchedule h tk := rfl
theorem exec_aesBlockDone : exec (.aesBlockDone h tk) s = s.logic fun d => d.tokenRow h fun d => d.blockDone h tk := rfl
theorem exec_moOpDone : exec (.moOpDone h tk) s = s.logic fun d => d.tokenRow h fun d => d.moDone h tk := rfl
theorem exec_tarmExpiry : exec (.tarmExpiry h tk) s = s.logic fun d => d.tokenRow h fun d => d.alarmExpiry h tk := rfl

end Exec

/-- The completion of a token on a hart that is READY after it. -/
theorem runs_tokenRow {c : Instr} {s : State} {h : Hart} {f : Dev → Dev} {d : Dev} {P : Dev → Prop} (on : s.On)
    (hc : exec c s = s.logic fun d => d.tokenRow h f) (hf : f s.dev = d) (ready : d.hartSt h = .ready)
    (held : d.mg.held = s.dev.mg.held) (hp : P d) : Runs c s P :=
  runs_logic_to on hc (by rw [tokenRow, hf, wakeHart_of_ready ready]) held hp

/-- The end of a block: it is counted at its core, and its token ends with OK. -/
theorem runs_aesBlockDone {s : State} {h : Hart} {tk : TokId} {d : Dev} {rd n : Nat} {vals : List Nat} {P : Dev → Prop} (on : s.On)
    (idle : d.opOf (uAc n) = none) (ready : d.hartSt h = .ready) (held : d.mg.held = s.dev.mg.held)
    (done : s.dev.blockDone h tk = ((d.inc .cxCoreBlocks n).tokEnd h tk tokOk rd vals).drainEnd (uAc n))
    (hp : P ((d.inc .cxCoreBlocks n).tokEnd h tk tokOk rd vals)) : Runs (.aesBlockDone h tk) s P := by
  have stays : (d.inc .cxCoreBlocks n).hartSt h = d.hartSt h := by cases h <;> rfl
  rw [blockEnd_drained idle] at done
  exact runs_tokenRow on (exec_aesBlockDone ..) done (by rw [hartSt_tokEnd, stays, ready]) (by simp [held]) hp

/-- Settles O19: each completion by what it does where the hart runs on, which nothing then wakes. -/
theorem tokenCompletions : Obligations.TokenCompletions := by
  intro s h tk on ready
  refine ⟨fun ecc rd n action clean shows op => ?_, fun ecc rd action clean op => ?_,
    fun ecc rd table k0 k1 learn r d1 shows op found known ready1 _ => ?_, fun rd u slot key block n dec op shows core turn => ?_,
    fun rd u slot key block n dec shows op idle works => ?_, fun rd u slot key block n dec shows op idle faulty => ?_,
    fun kind rd chan fmt ident words shows op missing => ?_, fun td due op reached => ?_, fun td due op before => ?_⟩
  · have counted : s.dev.countHit h (some n) = s.dev.inc .clsRuleHits n := by
      simp only [countHit, outward, shows, Bool.false_eq_true, if_false]
    have stays : (s.dev.inc .clsRuleHits n).hartSt h = s.dev.hartSt h := by cases h <;> rfl
    refine runs_tokenRow on (exec_matchDone ..) (matchDone_clean clean op) ?_ (by simp) ?_
    · rw [hartSt_tokEnd, counted, stays, ready]
    · rw [counted]
      rfl
  · exact runs_tokenRow on (exec_matchDone ..) (matchDone_clean clean op) ((hartSt_tokEnd ..).trans ready) (by simp) rfl
  · have held : d1.mg.held = s.dev.mg.held := by
      have kept := lookupDo_held (s.dev.lookupEcc table (s.dev.hartEpoch h) ecc) table (s.dev.hartEpoch h) k0 k1
        (s.dev.hartLearn h learn) (!ecc.failing.isEmpty)
      rw [found, lookupEcc_held] at kept
      exact kept
    exact runs_tokenRow on (exec_lkupDone ..) (lkupDone_of_lookupDo shows op found known) ((hartSt_tokEnd ..).trans ready1)
      ((tokEnd_held ..).trans held) rfl
  · obtain ⟨x, taken⟩ := blockSchedule_of_turn shows op core turn
    refine runs_logic_to on (exec_aesBlockSchedule ..) taken (setRf_held ..) ⟨rf_setRf .., (within_setRf_cx ..).only⟩
  · exact runs_aesBlockDone on idle ready rfl (blockDone_of_core shows op works)
      (blockEnd_drained idle ..).symm
  · obtain ⟨vals, done⟩ := blockDone_of_faulty shows op faulty
    have stays : (s.dev.fresh 128).2.hartSt h = s.dev.hartSt h := by cases h <;> rfl
    refine runs_aesBlockDone (d := (s.dev.fresh 128).2) on idle (stays.trans ready) (fresh_held ..) done ⟨?_, tokAt_tokEnd ..⟩
    rw [ctr, ctrs_tokEnd]
    exact ctr_inc_same ..
  · exact runs_tokenRow on (exec_moOpDone ..) (moDone_of_no_object shows op missing) ((hartSt_tokEnd ..).trans ready) (by simp) rfl
  · exact runs_tokenRow on (exec_tarmExpiry ..) ((alarmExpiry_eq op).trans (if_pos reached)) ((hartSt_tokEnd ..).trans ready) (by simp) rfl
  · exact runs_tokenRow on (exec_tarmExpiry ..) ((alarmExpiry_eq op).trans (if_neg (Nat.not_le.2 before))) ready rfl rfl

end Sys2Proof.Machine
end

section
/-! ### Special and system registers, and how a core enters and leaves its trap code (R78, R111 to R115, R138 to R140, R157) -/
namespace Sys2Proof.Machine
open Dev

theorem bitAt_eq_testBit (i v : Nat) : bitAt i v = v.testBit i := by
  rw [bitAt, Nat.testBit_eq_decide_div_mod_eq]
  rfl

/-- ERET gives the core the level and the interrupt enable that were saved. -/
theorem bitAt_eretCtl (ctl : Nat) : bitAt 4 (eretCtl ctl) = bitAt 5 ctl ∧ bitAt 0 (eretCtl ctl) = bitAt 1 ctl := by
  simp [bitAt_eq_testBit, eretCtl, testBit_setBits, testBit_bits, -Nat.testBit_zero]

namespace Dev

/-- Which special registers a thread has does not hang on its state. -/
theorem feSpecial_isSome (d e : Dev) (n t num : Nat) : (d.feSpecial n t num).isSome = (e.feSpecial n t num).isSome := by
  unfold feSpecial
  split <;> simp only [Option.isSome]

/-- No target is armed where no breakpoint and no watchpoint is set. -/
theorem armed_of_none {d : Dev} (bkpt : d.safe.bkpt = []) (watch : d.safe.watch = []) (tgt : Nat) : d.armed tgt = false := by
  simp [armed, bkpt, watch]

theorem complete_safe (d : Dev) (h : Hart) (f : RegFile → RegFile) : (d.complete h f).safe = d.safe := by cases h <;> rfl
theorem issued_safe (d : Dev) (h : Hart) : (d.issued h).safe = d.safe := by rw [issued_eq]

theorem iMfsr_mc (d : Dev) (c : Fin 2) (g : Guard) (rd : GReg) (num : BitVec 12) : d.iMfsr (.mc c) g rd num =
    d.issue (.mc c) g (d.notSup (.mc c) || (d.sysRead c num.toNat).isNone) none [rd.val] fun d =>
      d.complete (.mc c) fun r => r.put rd.val (BitVec.ofNat 64 ((d.sysRead c num.toNat).getD 0)) := by simp only [iMfsr]

/-- A terminal action, which no core has. -/
theorem terminal_illegal {d : Dev} {c : Fin 2} {g : Guard} (can : d.canIssue (.mc c) g [] none = true) (i : Instr) (regs : List Nat)
    (check : Dev → Nat) (act : Dev → Fin 64 → Fin 4 → Thread → Dev) :
    d.terminal (.mc c) i g true regs check act = d.excMc c 1 none := issue_illegal can ..

/-- What a core does to itself changes the engines alone. -/
theorem within_setMc (d : Dev) (c : Nat) (x : McCore) : d.Within (d.setMc c x) { parts := [.eng] } :=
  .parts rfl rfl fun p n => by cases p <;> simp_all [Part.same, Foot.hasPart, setMc]

end Dev

section Exec
variable (s : State) (h : Hart) (g : Guard)

theorem exec_mfs (rd : GReg) (num : BitVec 12) : exec (.mfs h g rd num) s = s.logic fun d => d.iMfs h g rd num := rfl
theorem exec_mts (ra : GReg) (num : BitVec 12) : exec (.mts h g ra num) s = s.logic fun d => d.iMts h g ra num := rfl
theorem exec_cntadd (ra rb : GReg) : exec (.cntadd h g ra rb) s = s.logic fun d => d.iCntadd h g ra rb := rfl
theorem exec_yield : exec (.yield h g) s = s.logic fun d => d.iYield h g := rfl
theorem exec_fence : exec (.fence h g) s = s.logic fun d => d.iFence h g := rfl
theorem exec_bkpt : exec (.bkpt h g) s = s.logic fun d => d.iBkpt h g := rfl
theorem exec_svreq : exec (.svreq h g) s = s.logic fun d => d.iSvreq h g := rfl
theorem exec_trap (code : BitVec 12) : exec (.trap h g code) s = s.logic fun d => d.iTrap h g code := rfl
theorem exec_drop (reason : BitVec 8) : exec (.drop h g reason) s = s.logic fun d => d.iDrop h g reason := rfl
theorem exec_redip : exec (.redip h g) s = s.logic fun d => d.iRedip h g := rfl
theorem exec_mfsr (rd : GReg) (num : BitVec 12) : exec (.mfsr h g rd num) s = s.logic fun d => d.iMfsr h g rd num := rfl
theorem exec_mtsr (ra : GReg) (num : BitVec 12) : exec (.mtsr h g ra num) s = s.logic fun d => d.iMtsr h g ra num := rfl
theorem exec_eret : exec (.eret h g) s = s.logic fun d => d.iEret h g := rfl
theorem exec_wfi : exec (.wfi h g) s = s.logic fun d => d.iWfi h g := rfl
theorem exec_interruptTaken (c : Fin 2) : exec (.interruptTaken c) s = s.logic fun d => d.interrupt c := rfl
theorem exec_alarmDue (c : Fin 2) : exec (.alarmDue c) s = s.logic fun d => d.alarmDue c := rfl

end Exec

section System
variable {s : State} {g : Guard} (on : s.On)
include on

/-! #### Special registers of threads -/

theorem runs_mfs {n : Fin 64} {t : Fin 4} {rd : GReg} {num : BitVec 12} {v : Nat} (can : s.dev.canIssue (.fe n t) g [rd] none = true)
    (reads : (s.dev.issued (.fe n t)).feSpecial n t num.toNat = some v) : Runs (.mfs (.fe n t) g rd num) s fun d =>
      d = (s.dev.issued (.fe n t)).complete (.fe n t) fun r => r.put rd (BitVec.ofNat 64 v) := by
  have legal : (s.dev.special (.fe n t) num.toNat).isNone = false := by
    have same := feSpecial_isSome s.dev (s.dev.issued (.fe n t)) n t num.toNat
    rw [reads] at same
    simpa [special] using same
  have read : (s.dev.issued (.fe n t)).special (.fe n t) num.toNat = some (v, s.dev.issued (.fe n t)) := by simp [special, reads]
  exact runs_issues on can (List.Subset.refl _) (exec_mfs ..) rfl legal (by simp only [read]) (by simp) rfl

theorem runs_mts_class {n : Fin 64} {t : Fin 4} {ra : GReg} (can : s.dev.canIssue (.fe n t) g [ra] none = true)
    (frame : (s.dev.thr n t).kind = .frame) : Runs (.mts (.fe n t) g ra 0x00A) s fun d =>
      d = ((s.dev.issued (.fe n t)).setThr n t { (s.dev.issued (.fe n t)).thr n t with
        cls := ((s.dev.rf (.fe n t)).get ra).toNat % 64 }).complete (.fe n t) id := by
  have legal : (!s.dev.mayMts (.fe n t) (0x00A : BitVec 12).toNat) = false := by simp [mayMts, frame]
  refine runs_issues on can (List.Subset.refl _) (exec_mts ..) rfl legal rfl (by simp) ?_
  rw [rf_issued]
  rfl

/-! #### Counters, and the operations that only go on -/

theorem runs_cntadd {h : Hart} {ra rb : GReg} (can : s.dev.canIssue h g [ra, rb] none = true)
    (known : ((s.dev.rf h).get ra).toNat < 1024) (shows : s.dev.shadowed h = false) : Runs (.cntadd h g ra rb) s fun d =>
      d = ((s.dev.issued h).incBy .feProgCnt ((s.dev.rf h).get ra).toNat (((s.dev.rf h).get rb).toNat % 2 ^ 48)).complete h id := by
  refine runs_issues on can (List.Subset.refl _) (exec_cntadd ..) rfl rfl ?_ (by simp) rfl
  simp only [rf_issued, Nat.not_le.2 known, outward, shadowed_issued, shows, Bool.false_eq_true, if_false]

theorem runs_bkpt_unarmed {h : Hart} (can : s.dev.canIssue h g [] none = true) (bkpt : s.dev.safe.bkpt = [])
    (watch : s.dev.safe.watch = []) : Runs (.bkpt h g) s fun d => d = (s.dev.issued h).complete h id := by
  have safe : ((s.dev.issued h).complete h id).safe = s.dev.safe := (complete_safe ..).trans (issued_safe ..)
  have none : ((((s.dev.issued h).complete h id).targetsOf h).find? ((s.dev.issued h).complete h id).armed) = none := by
    rw [List.find?_eq_none]
    intro tgt _
    rw [armed_of_none (by rw [safe, bkpt]) (by rw [safe, watch])]
    exact Bool.false_ne_true
  exact runs_issues on can (List.Subset.refl _) (exec_bkpt ..) rfl rfl (by simp only [none]) (by simp) rfl

/-! #### Privileged instructions in SUP -/

theorem runs_mfsr {c : Fin 2} {rd : GReg} {num : BitVec 12} {v : Nat} (can : s.dev.canIssue (.mc c) g [rd] none = true)
    (sup : (s.dev.mcCore c).sup = true) (reads : s.dev.sysRead c num.toNat = some v) : Runs (.mfsr (.mc c) g rd num) s fun d =>
      d = s.dev.complete (.mc c) fun r => r.put rd (BitVec.ofNat 64 v) := by
  have legal : (s.dev.notSup (.mc c) || (s.dev.sysRead c num.toNat).isNone) = false := by simp [notSup, sup, reads]
  refine runs_issues on can (List.Subset.refl _) (exec_mfsr ..) (iMfsr_mc ..) legal rfl (by simp) ?_
  rw [show (s.dev.issued (.mc c)).sysRead c num.toNat = some v from reads]
  rfl

theorem runs_mtsr {c : Fin 2} {ra : GReg} {num : BitVec 12} {y : McCore} (can : s.dev.canIssue (.mc c) g [ra] none = true)
    (sup : (s.dev.mcCore c).sup = true)
    (writes : sysWrite ((s.dev.complete (.mc c) id).mcCore c) num.toNat ((s.dev.rf (.mc c)).get ra) = some y)
    (known : (sysWrite {} num.toNat 0).isSome = true) : Runs (.mtsr (.mc c) g ra num) s fun d =>
      d.mcCore c = y ∧ s.dev.Only d { parts := [.eng] } := by
  have legal : (s.dev.notSup (.mc c) || (sysWrite {} num.toNat 0).isNone) = false := by
    rw [Bool.or_eq_false_iff, Option.isNone_eq_false_iff]
    exact ⟨by simp [notSup, sup], known⟩
  refine runs_issues on can (List.Subset.refl _) (exec_mtsr ..) rfl legal rfl (by simp) ⟨?_, ?_⟩
  · simp only [onCore, mcCore_setMc_same]
    exact congrArg (fun o : Option McCore => o.getD _) writes
  · exact ((within_setMc s.dev c _).trans (within_setMc _ c _)).only

theorem runs_eret {c : Fin 2} (can : s.dev.canIssue (.mc c) g [] none = true) (sup : (s.dev.mcCore c).sup = true) :
    Runs (.eret (.mc c) g) s fun d =>
      (d.mcCore c).rf = { (s.dev.mcCore c).rf with pc := BitVec.ofNat 64 (s.dev.mcCore c).trapPc } ∧
      bitAt 4 (d.mcCore c).ctl = bitAt 5 (s.dev.mcCore c).ctl ∧ bitAt 0 (d.mcCore c).ctl = bitAt 1 (s.dev.mcCore c).ctl ∧
      s.dev.Only d { parts := [.eng] } := by
  have legal : s.dev.notSup (.mc c) = false := by simp [notSup, sup]
  obtain ⟨level, enable⟩ := bitAt_eretCtl (s.dev.mcCore c).ctl
  refine runs_issues on can (List.Subset.refl _) (exec_eret ..) rfl legal rfl (by simp) ⟨?_, ?_, ?_, ?_⟩
  · simp only [onCore, jump, mcCore_setMc_same]
    rfl
  · simp only [onCore, jump, mcCore_setMc_same]
    exact level
  · simp only [onCore, jump, mcCore_setMc_same]
    exact enable
  · exact ((within_setMc s.dev c _).trans (within_setMc _ c _)).only

theorem runs_wfi {c : Fin 2} (can : s.dev.canIssue (.mc c) g [] none = true) (sup : (s.dev.mcCore c).sup = true) :
    Runs (.wfi (.mc c) g) s fun d =>
      d = if (s.dev.mcLine c).isSome then s.dev.complete (.mc c) id else s.dev.park (.mc c) .blocked none := by
  have legal : s.dev.notSup (.mc c) = false := by simp [notSup, sup]
  refine runs_issues on can (List.Subset.refl _) (exec_wfi ..) rfl legal rfl ?_ rfl
  dsimp only
  split <;> simp

/-! #### Exceptions and interrupts -/

/-- An instruction that is ILLEGAL on a core enters its trap code with TRAPWHY 1. -/
theorem runs_illegal {i : Instr} {c : Fin 2} {f body : Dev → Dev} {ill : Bool} {tk tk' : Option Nat} {regs regs' : List Nat}
    {P : Dev → Prop} (can : s.dev.canIssue (.mc c) g regs tk = true) (hc : exec i s = s.logic f)
    (hf : f s.dev = s.dev.issue (.mc c) g ill tk' regs' body) (illegal : ill = true) (hp : P (s.dev.excMc c 1 none)) : Runs i s P := by
  subst illegal
  exact runs_logic_to on hc (hf.trans (issue_illegal can tk' regs' body)) (exc_held ..) hp

theorem runs_svreq {c : Fin 2} {P : Dev → Prop} (can : s.dev.canIssue (.mc c) g [] none = true) (hp : P (s.dev.excMc c 14 none)) :
    Runs (.svreq (.mc c) g) s P :=
  runs_issues on can (List.Subset.refl _) (exec_svreq ..) rfl rfl rfl (exc_held ..) hp

theorem runs_interrupt {c : Fin 2} {l : Nat} (runs : s.dev.mcRuns c = true) (ready : (s.dev.mcCore c).st = .ready)
    (enabled : bitAt 0 (s.dev.mcCore c).ctl = true) (line : s.dev.mcLine c = some l) {P : Dev → Prop}
    (hp : P (s.dev.mcInterrupt c l)) : Runs (.interruptTaken c) s P := by
  refine runs_logic_to on (exec_interruptTaken ..) ?_ (mcInterrupt_held ..) hp
  simp only [interrupt, runs, Bool.true_eq_false, if_false, mcWake_of_ready ready, line, ready, enabled, and_self, if_true]

theorem runs_interrupt_off {c : Fin 2} (ready : (s.dev.mcCore c).st = .ready) (disabled : bitAt 0 (s.dev.mcCore c).ctl = false) :
    Runs (.interruptTaken c) s fun d => d = s.dev := by
  refine runs_logic_to on (exec_interruptTaken ..) ?_ rfl rfl
  simp only [interrupt, mcWake_of_ready ready, disabled, Bool.false_eq_true, and_false, if_false]
  split
  · rfl
  · split <;> rfl

end System

/-- An interrupt of line `l` enters the trap code of a core at TRAPBASE + 0x100. -/
theorem mcInterrupt_enters (d : Dev) (c : Fin 2) (l : Nat) :
    ((d.mcInterrupt c l).mcCore c).trapPc = (d.mcCore c).rf.pc.toNat ∧ ((d.mcInterrupt c l).mcCore c).trapWhy = 256 + l ∧
    ((d.mcInterrupt c l).mcCore c).rf.pc = BitVec.ofNat 64 ((d.mcCore c).trapBase + 256) ∧
    ((d.mcInterrupt c l).mcCore c).rf.g = (d.mcCore c).rf.g ∧
    ((d.mcInterrupt c l).mcCore c).ctl = 16 + (d.mcCore c).ctl % 2 * 2 + (d.mcCore c).ctl / 16 % 2 * 32 ∧
    ((d.mcInterrupt c l).mcCore c).st = .ready := by
  have enters := mcTrap_enters ((d.fresh 32).2.setMc c { d.mcCore c with trapAddr := (d.fresh 32).1 }) c (256 + l) 0x100
  rw [mcCore_setMc_same] at enters
  exact enters

/-- Settles O16: each instruction by its body where it may be issued, each exception and interrupt by what entering comes to. -/
theorem systemAndExceptions : Obligations.SystemAndExceptions := by
  intro s on
  refine ⟨?_, ?_, fun h g ra rb can known shows => runs_cntadd on can known shows, fun h g can => ?_,
    fun h g can bkpt watch => runs_bkpt_unarmed on can bkpt watch, ?_, ?_, ?_, ?_, ?_, ?_, ?_,
    fun c l runs ready enabled line => runs_interrupt on runs ready enabled line (mcInterrupt_enters ..),
    fun c ready disabled => runs_interrupt_off on ready disabled, fun c => ?_⟩
  · rintro _ g n t rd num v rfl can reads
    exact runs_mfs on can reads
  · rintro _ g n t ra rfl can frame
    exact runs_mts_class on can frame
  · simp only [List.forall_mem_cons, List.not_mem_nil, false_imp_iff, implies_true, and_true]
    exact ⟨runs_issues on can (List.Subset.refl _) (exec_yield ..) rfl rfl rfl (by simp) rfl,
      runs_issues on can (List.Subset.refl _) (exec_fence ..) rfl rfl rfl (by simp) rfl⟩
  · rintro _ g c rd num v rfl can sup reads
    exact runs_mfsr on can sup reads
  · rintro _ g c ra num y rfl can sup writes known
    exact runs_mtsr on can sup writes known
  · rintro _ g c rfl can sup
    exact runs_eret on can sup
  · rintro _ g c rfl can sup
    exact runs_wfi on can sup
  · rintro _ g c rfl can
    exact runs_svreq on can ⟨excMc_counts .., excMc_enters ..⟩
  · rintro _ g c rfl can
    simp only [List.forall_mem_cons, List.not_mem_nil, false_imp_iff, implies_true, and_true]
    exact ⟨runs_logic_to on (exec_trap ..) (terminal_illegal can ..) (excMc_held ..) (excMc_enters ..),
      runs_logic_to on (exec_drop ..) (terminal_illegal can ..) (excMc_held ..) (excMc_enters ..),
      runs_logic_to on (exec_redip ..) (terminal_illegal can ..) (excMc_held ..) (excMc_enters ..)⟩
  · rintro _ g c rfl can usr
    have illegal : s.dev.notSup (.mc c) = true := by simp [notSup, usr]
    simp only [List.forall_mem_cons, List.not_mem_nil, false_imp_iff, implies_true, and_true]
    exact ⟨runs_illegal on can (exec_eret ..) rfl illegal (excMc_enters ..),
      runs_illegal on can (exec_wfi ..) rfl illegal (excMc_enters ..),
      runs_illegal on can (exec_mfsr ..) (iMfsr_mc ..) (by rw [illegal, Bool.true_or]) (excMc_enters ..)⟩
  · refine runs_logic_to on (exec_alarmDue ..) rfl ?_ rfl
    unfold alarmDue
    split <;> simp

end Sys2Proof.Machine
end

section
/-! ### Loading and freeing program sets (R103 to R109) -/
namespace Sys2Proof.Machine
open Dev

/-! #### What the commands name -/

/-- The clusters a command names, in ascending order. -/
def namedClusters (clusters : BitVec 8) : List Nat := (List.range 8).filter fun c => clusters.getLsbD c

theorem filter_bitAt_eq_namedClusters (clusters : BitVec 8) :
    ((List.range 8).filter fun c => bitAt c clusters.toNat) = namedClusters clusters :=
  congrArg (fun p => (List.range 8).filter p) (funext fun c => bitAt_eq_testBit c _)

theorem leNat_lt (bs : List Byte) : leNat bs < 2 ^ (8 * bs.length) := by
  induction bs with
  | nil => decide
  | cons b bs ih =>
    have low := b.isLt
    have split : 2 ^ (8 * (b :: bs).length) = 256 * 2 ^ (8 * bs.length) := by rw [List.length_cons, Nat.mul_succ, Nat.pow_add]; omega
    rw [leNat, split]
    omega

theorem memGet_length (m : Sparse Byte) (a n : Nat) : (memGet m a n).length = n := by simp [memGet]

theorem sramNat_lt (m : Sparse Byte) (a n : Nat) : sramNat m a n < 2 ^ (8 * n) := by
  have bound := leNat_lt (memGet m a n)
  rwa [memGet_length] at bound

/-- Only registers and parts inside the footprint of loading are written. -/
def loadFoot : Foot :=
  { regs := [(.feLoadStatus, 0)], arrays := [.feSetSlotState, .feSetSlotPlace, .feSetSlotVersion, .feCsLayout]
    parts := [.eng, .mg, .free] }

/-- What placing an image writes after its slot shows LOADING. -/
def layoutFoot : Foot := { arrays := [.feSetSlotPlace, .feSetSlotVersion, .feCsLayout], parts := [.eng] }

theorem layoutFoot_le : layoutFoot.le loadFoot := by
  refine ⟨fun r i h => ?_, fun c i h => ?_, fun p h => ?_⟩
  all_goals
    simp only [Foot.hasReg, Foot.hasCtr, Foot.hasPart, layoutFoot, loadFoot, List.mem_cons, List.not_mem_nil] at h ⊢
    tauto

/-- What freeing writes. -/
def freeFoot : Foot :=
  { regs := [(.feLoadStatus, 0)], arrays := [.feSetSlotState, .feSetSlotPlace, .feSetSlotVersion, .feSetSlotEpochs]
    parts := [.eng, .mg] }

namespace Dev

/-! #### The answer of a command -/

theorem loadEnd_result (d : Dev) {res : Nat} (known : res < 16) (fail : Nat) (slot : Option Nat) :
    (d.loadEnd res fail slot).f feLoadStatus_RESULT 0 = res := by
  have answered : ((d.sf feLoadStatus_RESULT 0 res).sf feLoadStatus_FAIL_CLUSTER 0 fail).f feLoadStatus_RESULT 0 = res := by
    rw [f_sf_of_apart (by decide), f_sf_fits (by decide) (by decide) known]
  cases slot with
  | none => exact answered
  | some s => exact (f_sf_of_apart (by decide) ..).trans answered

theorem loadEnd_slot (d : Dev) (res fail : Nat) (s : Fin 4) : (d.loadEnd res fail (some s)).f feLoadStatus_SLOT 0 = s :=
  f_sf_fits (by decide) (by decide) s.isLt ..

theorem within_loadEnd {F : Foot} (status : F.hasReg .feLoadStatus 0) (d : Dev) (res fail : Nat) (slot : Option Nat) :
    d.Within (d.loadEnd res fail slot) F := by
  have answered : d.Within ((d.sf feLoadStatus_RESULT 0 res).sf feLoadStatus_FAIL_CLUSTER 0 fail) F :=
    (Within.sf d status res).trans (Within.sf _ status fail)
  cases slot with
  | none => exact answered
  | some s => exact answered.trans (Within.sf _ status s)

theorem loadEnd_rd {r : Reg} (other : r ≠ .feLoadStatus) (d : Dev) (res fail : Nat) (slot : Option Nat) (i : Nat) :
    (d.loadEnd res fail slot).rd r i = d.rd r i :=
  (within_loadEnd (F := { regs := [(.feLoadStatus, 0)] }) (by simp [Foot.hasReg]) d res fail slot).reg r i
    (by simp [Foot.hasReg, other])

/-! #### A slot in one cluster -/

/-- The word that shows a slot which loads set `h` (R106). -/
def loadingWord (h : ImgHead) : Word := BitVec.ofNat 32 (slLoading * 2 ^ 16 + h.setId)

theorem within_withEng {F : Foot} (eng : F.hasPart .eng) (d : Dev) (x : Engines) (log : x.logSram = d.eng.logSram) :
    d.Within { d with eng := x } F :=
  .parts rfl rfl fun p n => by cases p <;> simp_all [Part.same]

theorem within_ldLoad {F : Foot} (eng : F.hasPart .eng) (d : Dev) (n : Nat) (ini : List Byte) : d.Within (d.ldLoad n ini) F :=
  within_withEng eng d _ rfl

/-- Placing an image in slot `k` of cluster `c`: the slot shows LOADING, and what follows leaves the slots' states alone. -/
theorem loadInto_shape (d : Dev) (h : ImgHead) (es : List Nat) (a k kib c : Nat) : ∃ x : Engines, x.logSram = d.eng.logSram ∧
    (({ d with eng := x } : Dev).wr .feSetSlotState (4 * c + k) (loadingWord h)).Within (d.loadInto h es a k kib c) layoutFoot := by
  have eng : layoutFoot.hasPart .eng := .inl (by decide)
  have arr {r : Reg} (hr : r ∈ layoutFoot.arrays) (i : Nat) : layoutFoot.hasReg r i := .inr (.inl hr)
  unfold loadInto
  extract_lets base n m ini ps img bad src e e1 e2 e3 cs bad' src' e4
  refine ⟨e.eng, rfl, ?_⟩
  have place : e1.Within e2 layoutFoot := Within.wr e1 (arr (r := .feSetSlotPlace) (by decide) _) _
  have version : e2.Within e3 layoutFoot := Within.wr e2 (arr (r := .feSetSlotVersion) (by decide) _) _
  have laid : e3.Within e4 layoutFoot := by
    unfold e4
    split
    · exact .refl ..
    · exact (within_withEng eng e3 { e3.eng with cs := cs, bad := bad' } rfl).trans
        (Within.sf _ (arr (r := .feCsLayout) (by decide) _) _)
  refine ((place.trans version).trans laid).trans ?_
  clear_value e4
  split
  · exact Within.foldl _ _ (fun e x _ => within_ldLoad eng e _ ini) e4
  · exact .refl ..

theorem within_loadInto (d : Dev) (h : ImgHead) (es : List Nat) (a k kib c : Nat) : d.Within (d.loadInto h es a k kib c) loadFoot := by
  obtain ⟨x, log, after⟩ := loadInto_shape d h es a k kib c
  exact ((within_withEng (.inl (by decide)) d x log).trans (Within.wr _ (.inr (.inl (by decide))) _)).trans (after.mono layoutFoot_le)

theorem rd_loadInto (d : Dev) (h : ImgHead) (es : List Nat) (a k kib c i : Nat) : (d.loadInto h es a k kib c).rd .feSetSlotState i =
    if 4 * c + k = i then loadingWord h else d.rd .feSetSlotState i := by
  obtain ⟨x, -, after⟩ := loadInto_shape d h es a k kib c
  rw [after.reg _ _ (by simp [Foot.hasReg, layoutFoot]), rd_wr]
  simp only [true_and]
  rfl

theorem within_setUnknown (d : Dev) (c k : Nat) : d.Within (d.setUnknown c k) loadFoot :=
  .parts rfl rfl fun p n => by cases p <;> simp_all [Part.same, Foot.hasPart, loadFoot, setUnknown, setListed, fresh]

theorem rd_setUnknown (d : Dev) (c k : Nat) (r : Reg) (i : Nat) : (d.setUnknown c k).rd r i = d.rd r i := rfl

end Dev

section Named
variable (clusters : BitVec 8)

/-- The images of FE_LOAD in the clusters it names. -/
def loadAll (d : Dev) (h : ImgHead) (es : List Nat) (a k kib : Nat) : Dev :=
  (namedClusters clusters).foldl (fun d c => (d.loadInto h es a k kib c).setUnknown c k) d

theorem within_loadAll (d : Dev) (h : ImgHead) (es : List Nat) (a k kib : Nat) :
    d.Within (loadAll clusters d h es a k kib) loadFoot :=
  Within.foldl _ _ (fun _ _ _ => (within_loadInto ..).trans (within_setUnknown ..)) d

theorem rd_loadAll (d : Dev) (h : ImgHead) (es : List Nat) (a k kib : Nat) {c : Nat} (named : c ∈ namedClusters clusters) :
    (loadAll clusters d h es a k kib).rd .feSetSlotState (4 * c + k) = loadingWord h := by
  refine foldl_reaches (fun e : Dev => e.rd .feSetSlotState (4 * c + k) = loadingWord h) _ named (fun e => ?_) (fun e x kept => ?_) d
  · rw [rd_setUnknown, rd_loadInto, if_pos rfl]
  · rw [rd_setUnknown, rd_loadInto, kept, ite_self]

/-- A slot in every cluster that FE_FREE names, made free. -/
def freeAll (d : Dev) (k : Nat) : Dev := (namedClusters clusters).foldl (fun d c => d.slotFree c k) d

theorem rd_slotFree (d : Dev) (c k i : Nat) :
    (d.slotFree c k).rd .feSetSlotState i = if 4 * c + k = i then 0 else d.rd .feSetSlotState i := by
  simp only [slotFree, List.foldl_cons, List.foldl_nil]
  rw [rd_wr_ne _ (.inl (by decide)), rd_wr_ne _ (.inl (by decide)), rd_wr_ne _ (.inl (by decide)), rd_wr]
  simp only [true_and]
  rfl

theorem within_slotFree (d : Dev) (c k : Nat) : d.Within (d.slotFree c k) freeFoot := by
  refine Within.trans (b := { d with
    eng := { d.eng with sets := Sparse.set setDefault d.eng.sets (4 * c + k) {} }
    mg := { d.mg with sets := d.mg.sets.filter fun x => x.1 != 4 * c + k } }) ?_ ?_
  · exact .parts rfl rfl fun p n => by cases p <;> simp_all [Part.same, Foot.hasPart, freeFoot]
  · refine Within.foldl _ _ (fun e r hr => Within.wr e (.inr (.inl ?_)) 0) _
    exact hr

theorem within_freeAll (d : Dev) (k : Nat) : d.Within (freeAll clusters d k) freeFoot :=
  Within.foldl _ _ (fun _ _ _ => within_slotFree ..) d

theorem rd_freeAll (d : Dev) (k : Nat) {c : Nat} (named : c ∈ namedClusters clusters) :
    (freeAll clusters d k).rd .feSetSlotState (4 * c + k) = 0 := by
  refine foldl_reaches (fun e : Dev => e.rd .feSetSlotState (4 * c + k) = 0) _ named (fun e => ?_) (fun e x kept => ?_) d
  · rw [rd_slotFree, if_pos rfl]
  · rw [rd_slotFree, kept, ite_self]

end Named

/-! #### The commands -/

section Commands
variable {d : Dev} {clusters : BitVec 8} {bad : Bool}

theorem feLoadCmd_load (given : clusters ≠ 0) (idle : d.f feLoadStatus_BUSY 0 = 0) :
    d.feLoadCmd 16 (1 + 256 * clusters.toNat) bad = d.feLoad clusters.toNat bad := by
  have bound := clusters.isLt
  have cmd : (1 + 256 * clusters.toNat) % 16 = 1 := by omega
  have mask : bits 15 8 (1 + 256 * clusters.toNat) = clusters.toNat := by simp only [bits]; omega
  have named : clusters.toNat ≠ 0 := fun h => given (BitVec.eq_of_toNat_eq h)
  simp [feLoadCmd, cmd, mask, named, b, idle]

theorem feLoadCmd_free {slot : Fin 4} (given : clusters ≠ 0) (idle : d.f feLoadStatus_BUSY 0 = 0) :
    d.feLoadCmd 16 (2 + 16 * slot.val + 256 * clusters.toNat) bad = d.feFree clusters.toNat slot := by
  have bound := clusters.isLt
  have cmd : (2 + 16 * slot.val + 256 * clusters.toNat) % 16 = 2 := by omega
  have mask : bits 15 8 (2 + 16 * slot.val + 256 * clusters.toNat) = clusters.toNat := by simp only [bits]; omega
  have place : bits 5 4 (2 + 16 * slot.val + 256 * clusters.toNat) = slot.val := by simp only [bits]; omega
  have named : clusters.toNat ≠ 0 := fun h => given (BitVec.eq_of_toNat_eq h)
  simp [feLoadCmd, cmd, mask, place, named, b, idle]

/-- A LOAD or FREE from a host domain, of no cluster, or while one is busy. -/
theorem feLoadCmd_rejected {init : Initiator} {v : Nat} (known : v % 16 = 1 ∨ v % 16 = 2) (mask : bits 15 8 v = clusters.toNat)
    (wrong : init ≠ 16 ∨ clusters = 0 ∨ d.f feLoadStatus_BUSY 0 = 1) : d.feLoadCmd init v bad = d.inc .unitRejWr uFe := by
  by_cases management : init = 16
  · have refused : clusters.toNat = 0 ∨ d.b feLoadStatus_BUSY 0 = true := by
      rcases wrong with host | rfl | busy
      · exact absurd management host
      · exact .inl rfl
      · exact .inr (by simp [b, busy])
    subst management
    simp only [feLoadCmd, mask]
    rw [if_neg (by decide), if_neg (by omega), if_pos refused]
    rfl
  · have host : init.val ≠ 16 := fun h => management (Fin.ext h)
    simp only [feLoadCmd]
    rw [if_pos host]
    rfl

/-- LOAD of an image whose header or instruction set is wrong. -/
theorem feLoad_badFormat (wrong : d.loadFormat = false) :
    ∃ res fail, (res = 1 ∨ res = 2) ∧ d.feLoad clusters.toNat bad = d.loadEnd res fail none := by
  rw [loadFormat, loadHead, Bool.and_eq_false_iff] at wrong
  by_cases format : imgOk (imgHead d.eng.sram ((d.rd .feLoadSrc 0).toNat / 64 * 64))
      (imgEntries d.eng.sram ((d.rd .feLoadSrc 0).toNat / 64 * 64)) = true
  · have isa := Nat.lt_of_not_le (of_decide_eq_false (wrong.resolve_left (by simp [format])))
    exact ⟨2, _, .inr rfl, by simp only [feLoad, format, isa, Bool.not_true, Bool.false_eq_true, if_false, if_true]; rfl⟩
  · rw [Bool.not_eq_true] at format
    exact ⟨1, _, .inl rfl, by simp only [feLoad, format, Bool.not_false, if_true]; rfl⟩

/-- The slot of a LOAD: the lowest that is free in every cluster of a list. -/
def freeSlot (d : Dev) (cs : List Nat) : Option Nat := (List.range 4).find? fun k => cs.all fun c => d.slotState c k == slFree

theorem freeSlot_eq_none {cs : List Nat} (full : (List.range 4).all (fun k => cs.any fun c => d.slotState c k != 0) = true) :
    freeSlot d cs = none := by
  rw [freeSlot, List.find?_eq_none]
  intro k hk
  have taken := List.all_eq_true.1 full k hk
  simpa [slFree] using taken

theorem freeSlot_eq_some {cs : List Nat} {k : Fin 4} (free : ∀ c ∈ cs, d.slotState c k = 0)
    (lowest : (List.range k).all (fun j => cs.any fun c => d.slotState c j != 0) = true) : freeSlot d cs = some k.val := by
  rw [freeSlot, List.find?_range_eq_some]
  refine ⟨by simpa [slFree] using free, List.mem_range.2 k.isLt, fun j hj => ?_⟩
  have taken := List.all_eq_true.1 lowest j (List.mem_range.2 hj)
  simpa [slFree] using taken

theorem loadFormat_iff : d.loadFormat = true ↔
    imgOk d.loadHead (imgEntries d.eng.sram ((d.rd .feLoadSrc 0).toNat / 64 * 64)) = true ∧ ¬ 1 < d.loadHead.isa := by
  simp [loadFormat]

/-- LOAD of a good image where no slot is free in every cluster named. -/
theorem feLoad_noSlot (good : d.loadFormat = true) (full : freeSlot d (namedClusters clusters) = none) :
    ∃ fail, d.feLoad clusters.toNat bad = d.loadEnd 3 fail none := by
  obtain ⟨format, isa⟩ := loadFormat_iff.1 good
  rw [loadHead] at format isa
  rw [freeSlot] at full
  exact ⟨_, by
    simp only [feLoad, filter_bitAt_eq_namedClusters, format, isa, full, Bool.not_true, Bool.false_eq_true, if_false]
    rfl⟩

/-- LOAD of a good image with a slot, a place and a layout in every cluster named. -/
theorem feLoad_places {k : Fin 4} (good : d.loadFormat = true) (slot : freeSlot d (namedClusters clusters) = some k.val)
    (place : ∀ c ∈ namedClusters clusters, (d.storeFit c d.loadHead.kib).isSome = true)
    (layout : ∀ c ∈ namedClusters clusters, d.layoutOk c k d.loadHead.layout = true) :
    d.feLoad clusters.toNat false = ((loadAll clusters d d.loadHead (imgEntries d.eng.sram ((d.rd .feLoadSrc 0).toNat / 64 * 64))
      ((d.rd .feLoadSrc 0).toNat / 64 * 64) k d.loadHead.kib).loadEnd 0 0 (some k.val)).sf feLoadStatus_BUSY 0 1 := by
  obtain ⟨format, isa⟩ := loadFormat_iff.1 good
  have fits : ((namedClusters clusters).find? fun c => (d.storeFit c d.loadHead.kib).isNone) = none := by
    rw [List.find?_eq_none]
    exact fun c hc => by rw [← Option.not_isSome, place c hc]; decide
  have laid : ((namedClusters clusters).find? fun c => !d.layoutOk c k d.loadHead.layout) = none := by
    rw [List.find?_eq_none]
    exact fun c hc => by rw [layout c hc]; decide
  rw [loadHead] at format isa fits laid
  rw [ImgHead.kib] at fits
  rw [freeSlot] at slot
  simp only [feLoad, filter_bitAt_eq_namedClusters, format, isa, slot, fits, laid, Bool.not_true, Bool.false_eq_true, if_false]
  rfl

/-- FREE of a slot that some cluster named does not hold LOADED. -/
theorem feFree_refused {k : Fin 4} (other : (namedClusters clusters).any (fun c => d.slotState c k != 2) = true) :
    ∃ c, d.feFree clusters.toNat k = d.loadEnd 6 c none := by
  obtain ⟨c, hc, unloaded⟩ := List.any_eq_true.1 other
  simp only [feFree, filter_bitAt_eq_namedClusters]
  split
  · next c _ => exact ⟨c, rfl⟩
  · next none => exact absurd (List.find?_eq_none.1 none c hc) (by simp_all [slLoaded])

/-- FREE of a slot that every cluster named holds LOADED, which nothing else wants. -/
theorem feFree_frees {k : Fin 4} (sepia : d.b lsSepiaCfg_EN 0 = false) (quiet : d.ep.txn = none)
    (loaded : (namedClusters clusters).all (fun c => d.slotState c k == 2) = true) :
    d.feFree clusters.toNat k = (freeAll clusters d k).loadEnd 0 0 (some k.val) := by
  simp only [feFree, filter_bitAt_eq_namedClusters]
  split
  · next c found =>
    have wanted := List.find?_some found
    have here := List.all_eq_true.1 loaded c (List.mem_of_find?_eq_some found)
    simp_all [slotStaged, slLoaded]
  · rfl

end Commands

/-! #### The end of a copy -/

/-- What the end of the copies makes of the state of a slot. -/
def copied (st : Nat) : Nat := if st = slLoading then slLoaded else st

/-- The slots that load, made LOADED. -/
def loadedAll (l : List Nat) (d : Dev) : Dev :=
  l.foldl (fun d i => if d.f feSetSlotState_STATE i = slLoading then d.sf feSetSlotState_STATE i slLoaded else d) d

theorem f_loadedAll (l : List Nat) (d : Dev) (i : Nat) :
    (loadedAll l d).f feSetSlotState_STATE i = if i ∈ l then copied (d.f feSetSlotState_STATE i) else d.f feSetSlotState_STATE i := by
  have step (d : Dev) (j : Nat) : (if d.f feSetSlotState_STATE j = slLoading then d.sf feSetSlotState_STATE j slLoaded else d).f
      feSetSlotState_STATE i = if i = j then copied (d.f feSetSlotState_STATE i) else d.f feSetSlotState_STATE i := by
    by_cases same : i = j
    · subst same
      rw [if_pos rfl, copied]
      split
      · rw [f_sf_fits (by decide) (by decide) (by decide)]
      · rfl
    · rw [if_neg same]
      split
      · exact f_sf_ne _ (.inr (Ne.symm same)) _
      · rfl
  have twice (v : Nat) : copied (copied v) = copied v := by
    unfold copied
    split
    · decide
    · rfl
  induction l generalizing d with
  | nil => simp [loadedAll]
  | cons j l ih =>
    rw [loadedAll, List.foldl_cons, ← loadedAll, ih, step]
    by_cases same : i = j
    · subst same
      simp [twice]
    · simp [same]

theorem within_loadedAll {F : Foot} (h : ∀ i, F.hasReg .feSetSlotState i) (l : List Nat) (d : Dev) : d.Within (loadedAll l d) F := by
  refine Within.foldl _ _ (fun e i _ => ?_) d
  split
  · exact Within.sf e (h i) _
  · exact .refl ..

theorem feLoadDone_eq (d : Dev) : d.feLoadDone = (loadedAll (List.range 32) d).sf feLoadStatus_BUSY 0 0 := rfl

section Exec
variable (s : State)

theorem asked_of_may {d : Dev} {n : Nat} {r : Reg} {i : Nat} (may : d.may n r i = true) (go : Dev → Dev) : d.asked n r i go = go d :=
  if_pos may

theorem exec_feLoad (init : Initiator) (clusters : BitVec 8) (ecc : Ecc) : exec (.feLoad init clusters ecc) s = s.logic fun d =>
    d.asked init .feLoadCmd 0 fun d => d.feLoadCmd init (1 + 256 * clusters.toNat) (!ecc.failing.isEmpty) := rfl
theorem exec_feFree (init : Initiator) (clusters : BitVec 8) (slot : Fin 4) : exec (.feFree init clusters slot) s = s.logic fun d =>
    d.asked init .feLoadCmd 0 fun d => d.feLoadCmd init (2 + 16 * slot.val + 256 * clusters.toNat) false := rfl
theorem exec_feLoadCopyDone : exec .feLoadCopyDone s = s.logic fun d => d.feLoadDone := rfl

end Exec

section Runs
variable {s : State} (on : s.On)
include on

/-- A permitted LOAD of clusters while none is busy. -/
theorem runs_feLoad {clusters : BitVec 8} {ecc : Ecc} (may : s.dev.may 16 .feLoadCmd 0 = true) (given : clusters ≠ 0)
    (idle : s.dev.f feLoadStatus_BUSY 0 = 0) {P : Dev → Prop} (hp : P (s.dev.feLoad clusters.toNat (!ecc.failing.isEmpty))) :
    Runs (.feLoad 16 clusters ecc) s P :=
  runs_logic_to on (exec_feLoad ..) ((asked_of_may may _).trans (feLoadCmd_load given idle)) (feLoad_held ..) hp

/-- A permitted FREE. -/
theorem runs_feFree {clusters : BitVec 8} {slot : Fin 4} (may : s.dev.may 16 .feLoadCmd 0 = true) (given : clusters ≠ 0)
    (idle : s.dev.f feLoadStatus_BUSY 0 = 0) {P : Dev → Prop} (hp : P (s.dev.feFree clusters.toNat slot)) :
    Runs (.feFree 16 clusters slot) s P :=
  runs_logic_to on (exec_feFree ..) ((asked_of_may may _).trans (feLoadCmd_free given idle)) (feFree_held ..) hp

theorem runs_feLoadCopyDone : Runs .feLoadCopyDone s fun d =>
    d.f feLoadStatus_BUSY 0 = 0 ∧
    (∀ i ∈ List.range 32, d.f feSetSlotState_STATE i = copied (s.dev.f feSetSlotState_STATE i)) ∧
    s.dev.Only d { regs := [(.feLoadStatus, 0)], arrays := [.feSetSlotState] } := by
  have held : (loadedAll (List.range 32) s.dev).mg.held = s.dev.mg.held :=
    (within_loadedAll (F := { arrays := [.feSetSlotState] }) (fun _ => .inr (.inl (by decide))) _ s.dev).held (by simp [Foot.hasPart])
  refine runs_logic_to on (exec_feLoadCopyDone ..) (feLoadDone_eq ..) ((congrArg Mgmt.held (sf_mg ..)).trans held) ⟨?_, fun i hi => ?_, Within.only ?_⟩
  · exact f_sf_fits (by decide) (by decide) (by decide) ..
  · rw [f_sf_of_apart (by decide), f_loadedAll, if_pos hi]
  · exact (within_loadedAll (fun _ => .inr (.inl (by decide))) _ _).trans (Within.sf _ (.inl (by decide)) 0)

end Runs

/-- The state and the set number that the word of a slot which loads shows. -/
theorem loadingWord_fields {h : ImgHead} (fits : h.setId < 2 ^ 16) :
    bits 18 16 (loadingWord h).toNat = 1 ∧ bits 15 0 (loadingWord h).toNat = h.setId := by
  simp only [loadingWord, slLoading, bits, BitVec.toNat_ofNat]
  omega

theorem loadHead_setId_lt (d : Dev) : d.loadHead.setId < 2 ^ 16 := sramNat_lt ..

/-- Settles O20: what each command comes to is one answer, in FeLoadStatus, on top of what it does in the clusters it names. -/
theorem programSetsLoadAndFree : Obligations.ProgramSetsLoadAndFree := by
  intro s
  refine ⟨fun init clusters ecc on may wrong => ?_, fun init clusters slot on may wrong => ?_,
    fun clusters ecc on may given idle wrong => runs_feLoad on may given idle ?_,
    fun clusters ecc on may given idle good full => runs_feLoad on may given idle ?_,
    fun clusters ecc k on may given idle clean good lowest fits => runs_feLoad on may given idle ?_, fun on => runs_feLoadCopyDone on,
    fun clusters slot on may given idle other => runs_feFree on may given idle ?_,
    fun clusters slot on may given idle sepia quiet loaded => runs_feFree on may given idle ?_⟩
  · have bound := clusters.isLt
    exact runs_logic_to on (exec_feLoad ..)
      ((asked_of_may may _).trans (feLoadCmd_rejected (.inl (by omega)) (by simp only [bits]; omega) wrong)) (by simp) rfl
  · have bound := clusters.isLt
    exact runs_logic_to on (exec_feFree ..)
      ((asked_of_may may _).trans (feLoadCmd_rejected (.inr (by omega)) (by simp only [bits]; omega) wrong)) (by simp) rfl
  · obtain ⟨res, fail, which, eq⟩ := feLoad_badFormat (clusters := clusters) (bad := !ecc.failing.isEmpty) wrong
    rw [eq, loadEnd_result _ (by omega)]
    exact ⟨which, (within_loadEnd (by simp [Foot.hasReg]) ..).only⟩
  · obtain ⟨fail, eq⟩ := feLoad_noSlot (clusters := clusters) (bad := !ecc.failing.isEmpty) good (freeSlot_eq_none full)
    rw [eq, loadEnd_result _ (by omega)]
    exact ⟨rfl, (within_loadEnd (by simp [Foot.hasReg]) ..).only⟩
  · have free : ∀ c ∈ namedClusters clusters, s.dev.slotState c k = 0 ∧ (s.dev.storeFit c s.dev.loadHead.kib).isSome = true ∧
        s.dev.layoutOk c k s.dev.loadHead.layout = true := by
      intro c hc
      have ok := List.all_eq_true.1 fits c hc
      simpa [and_assoc] using ok
    have eq := feLoad_places good (freeSlot_eq_some (fun c hc => (free c hc).1) lowest) (fun c hc => (free c hc).2.1)
      (fun c hc => (free c hc).2.2)
    rw [clean, List.isEmpty_nil, Bool.not_true, eq]
    refine ⟨?_, ?_, ?_, fun c hc => ?_, Within.only ?_⟩
    · rw [f_sf_of_apart (by decide), loadEnd_result _ (by decide)]
    · rw [f_sf_of_apart (by decide), loadEnd_slot]
    · exact f_sf_fits (by decide) (by decide) (by decide) ..
    · have word : (((loadAll clusters s.dev s.dev.loadHead (imgEntries s.dev.eng.sram ((s.dev.rd .feLoadSrc 0).toNat / 64 * 64))
          ((s.dev.rd .feLoadSrc 0).toNat / 64 * 64) k s.dev.loadHead.kib).loadEnd 0 0 (some k.val)).sf feLoadStatus_BUSY 0 1).rd
          .feSetSlotState (4 * c + k) = loadingWord s.dev.loadHead := by
        rw [rd_sf_ne _ (.inl (by decide)), loadEnd_rd (by decide), rd_loadAll clusters _ _ _ _ _ _ hc]
      have shown := loadingWord_fields (loadHead_setId_lt s.dev)
      rw [slotState, f, f, word]
      exact shown
    · exact ((within_loadAll ..).trans (within_loadEnd (by simp [Foot.hasReg, loadFoot]) ..)).trans
        (Within.sf _ (by simp [Foot.hasReg, loadFoot]) 1)
  · obtain ⟨c, eq⟩ := feFree_refused other
    rw [eq, loadEnd_result _ (by omega)]
    exact ⟨rfl, (within_loadEnd (by simp [Foot.hasReg]) ..).only⟩
  · rw [feFree_frees sepia quiet loaded]
    refine ⟨loadEnd_result _ (by decide) .., loadEnd_slot .., fun c hc => ?_, Within.only ?_⟩
    · rw [slotState, f, loadEnd_rd (by decide), rd_freeAll clusters _ _ hc]
      rfl
    · exact (within_freeAll ..).trans (within_loadEnd (by simp [Foot.hasReg, freeFoot]) ..)

end Sys2Proof.Machine
end

section
/-! ### Loads, stores, atomic and range operations (R79 to R82, R113, R117, R131 to R135, R440) -/
namespace Sys2Proof.Machine
open Dev

/-! #### Memories -/

/-- A byte of a memory after a store: what was stored there, else what it was. -/
theorem get_memSet (m : Sparse Byte) (a : Nat) (bs : List Byte) (k : Nat) : Sparse.get (fun _ => 0) (memSet m a bs) k =
    if a ≤ k ∧ k < a + bs.length then bs.getD (k - a) 0 else Sparse.get (fun _ => 0) m k := by
  split
  · next inside =>
    have place := memSet_inside m a bs (k - a) (by omega)
    rwa [Nat.add_sub_cancel' inside.1] at place
  · next outside => exact memSet_outside m a bs k (by omega)

/-- The laws of a store of `bs` at offset `o` of a memory that begins at `base`. -/
theorem memSet_laws (m : Sparse Byte) (base o i : Nat) (bs : List Byte) :
    Sparse.get (fun _ => 0) (memSet m (base + o) bs) (base + i) =
      (if o ≤ i ∧ i < o + bs.length then bs.getD (i - o) 0 else Sparse.get (fun _ => 0) m (base + i)) ∧
    ∀ k, k < base → Sparse.get (fun _ => 0) (memSet m (base + o) bs) k = Sparse.get (fun _ => 0) m k := by
  refine ⟨?_, fun k hk => memSet_outside _ _ _ _ (by omega)⟩
  rw [get_memSet, Nat.add_sub_add_left]
  simp only [Nat.add_le_add_iff_left, Nat.add_assoc, Nat.add_lt_add_iff_left]

namespace Dev

/-- Clearing the error records of the words written changes the error records alone. -/
theorem clearBad_eng (d : Dev) (h : Hart) (p : Spc) (ws : List Nat) : ∃ bad,
    (ws.foldl (fun d w => match d.badWord h p w with | some k => d.setBad k false | none => d) d).eng = { d.eng with bad := bad } := by
  refine foldl_keeps (fun e : Dev => ∃ bad, e.eng = { d.eng with bad := bad }) _ (fun e w kept => ?_) ws ⟨d.eng.bad, rfl⟩
  obtain ⟨bad, eq⟩ := kept
  split
  · exact ⟨_, by rw [setBad_eng, eq]⟩
  · exact ⟨bad, eq⟩

theorem spcStore_ld (d : Dev) (e : Fin 64) (t : Fin 4) (o : Nat) (bs : List Byte) : ∃ bad,
    (d.spcStore (.fe e t) .ld o bs).eng = { d.eng with ld := memSet d.eng.ld (ldKey e t o) bs, bad := bad } := by
  obtain ⟨bad, eq⟩ := clearBad_eng d (.fe e t) .ld (wordsOf o bs.length)
  exact ⟨bad, congrArg (fun x : Engines => { x with ld := memSet x.ld (ldKey e t o) bs }) eq⟩
theorem spcStore_cs (d : Dev) (e : Fin 64) (t : Fin 4) (o : Nat) (bs : List Byte) : ∃ bad,
    (d.spcStore (.fe e t) .cs o bs).eng = { d.eng with cs := memSet d.eng.cs (csKey (e / 8) o) bs, bad := bad } := by
  obtain ⟨bad, eq⟩ := clearBad_eng d (.fe e t) .cs (wordsOf o bs.length)
  exact ⟨bad, congrArg (fun x : Engines => { x with cs := memSet x.cs (csKey (e / 8) o) bs }) eq⟩
theorem spcStore_sram (d : Dev) (c : Fin 2) (o : Nat) (bs : List Byte) : ∃ bad,
    (d.spcStore (.mc c) .sram o bs).eng = { d.eng with sram := memSet d.eng.sram o bs, bad := bad } := by
  obtain ⟨bad, eq⟩ := clearBad_eng d (.mc c) .sram (wordsOf o bs.length)
  exact ⟨bad, congrArg (fun x : Engines => { x with sram := memSet x.sram o bs }) eq⟩
theorem spcStore_log (d : Dev) (c : Fin 2) (o : Nat) (bs : List Byte) : ∃ bad,
    (d.spcStore (.mc c) .log o bs).eng = { d.eng with logSram := memSet d.eng.logSram o bs, bad := bad } := by
  obtain ⟨bad, eq⟩ := clearBad_eng d (.mc c) .log (wordsOf o bs.length)
  exact ⟨bad, congrArg (fun x : Engines => { x with logSram := memSet x.logSram o bs }) eq⟩

/-! #### What a load reads -/

theorem spcRead_length (d : Dev) (h : Hart) (p : Spc) (o n : Nat) : (d.spcRead h p o n).length ≤ n := by
  cases h <;> cases p <;> simp [spcRead, memGet_length, slice, flashGet, leBytes_length]

/-- A load that reports no error gives the bytes of its memory. -/
theorem spcLoad_length {d e : Dev} {h : Hart} {p : Spc} {o n : Nat} {ecc : Ecc} {bs : List Byte}
    (read : d.spcLoad h p o n ecc = (some bs, e)) : bs.length ≤ n := by
  unfold spcLoad at read
  extract_lets ws words hit marked bad v at read
  have fits : v.length ≤ n := spcRead_length marked h p o n
  clear_value bad v
  split at read
  · dsimp only at read
    repeat' split at read
    all_goals simp_all
  · split at read
    all_goals simp_all

/-- A load of shared data leaves the harts as they are. -/
theorem spcLoad_cs_harts {d e : Dev} {h : Hart} {o n : Nat} {ecc : Ecc} {r : Option (List Byte)}
    (read : d.spcLoad h .cs o n ecc = (r, e)) : e.harts = d.harts := by
  unfold spcLoad at read
  extract_lets ws words hit marked bad v at read
  have kept : marked.harts = d.harts := by
    refine harts_foldl (fun e x => ?_) _ d
    split <;> rfl
  clear_value marked bad v
  rw [← kept]
  split at read
  · dsimp only at read
    split at read
    all_goals
      cases read
      simp
  · cases read
    rfl

/-! #### The operations where the access is permitted -/

section Ops
variable {d d1 : Dev} {h : Hart} {g : Guard} {rt ra rd rb : GReg} {sz : Fin 4} {off : BitVec 8} {ecc : Ecc} {p : Spc} {o : Nat}
  {bs : List Byte}

section Load
variable (can : d.canIssue h g [rt, ra] none = true)
include can

theorem loadOp_reads
    (permitted : (d.issued h).accessExc h ((d.issued h).effective h ra off (2 ^ sz.val)) (2 ^ sz.val) false false = 0)
    (held : (d.issued h).place h ((d.issued h).effective h ra off (2 ^ sz.val)) = some (p, o))
    (read : (d.issued h).spcLoad h p o (2 ^ sz.val) ecc = (some bs, d1)) (f : List Byte → Word64) :
    d.loadOp h g rt ra sz off ecc f = d1.complete h fun r => r.put rt (f bs) := by
  rw [loadOp, issue_eq can]
  simp only [permitted, held, read, ne_eq, not_true_eq_false, if_false]

theorem loadOp_excepts
    (raises : (d.issued h).accessExc h ((d.issued h).effective h ra off (2 ^ sz.val)) (2 ^ sz.val) false false ≠ 0)
    (f : List Byte → Word64) :
    d.loadOp h g rt ra sz off ecc f = (d.issued h).exc h
      ((d.issued h).accessExc h ((d.issued h).effective h ra off (2 ^ sz.val)) (2 ^ sz.val) false false)
      (some ((d.issued h).effective h ra off (2 ^ sz.val))) := by
  rw [loadOp, issue_eq can]
  exact if_pos raises

end Load

section Store
variable (f : Nat → Nat → List Byte) (i : Instr) (can : d.canIssue h g [rt, ra] none = true)
  (permitted : (d.issued h).accessExc h ((d.issued h).effective h ra off (2 ^ sz.val)) (2 ^ sz.val) true false = 0)
include can permitted

theorem storeOp_memory (held : (d.issued h).place h ((d.issued h).effective h ra off (2 ^ sz.val)) = some (p, o)) (fw : p ≠ .fw)
    (reg : p ≠ .reg) (shows : p = .ld ∨ d.shadowed h = false) : d.storeOp h i g rt ra sz off f =
      ((d.issued h).spcStore h p o (f (2 ^ sz.val) ((d.rf h).get rt).toNat)).complete h id := by
  rw [storeOp, issue_eq can]
  simp only [permitted, held, rf_issued, ne_eq, not_true_eq_false, if_false]
  by_cases own : p = .ld
  · subst own
    rfl
  · have outside : (d.issued h).shadowed h = false := by rw [shadowed_issued]; exact shows.resolve_left own
    cases p with
    | fw => exact absurd rfl fw
    | reg => exact absurd rfl reg
    | ld => exact absurd rfl own
    | _ => simp only [outward, outside, Bool.false_eq_true, if_false]

theorem storeOp_window {n : Fin 64} {t : Fin 4} (fe : h = .fe n t)
    (held : (d.issued h).place h ((d.issued h).effective h ra off (2 ^ sz.val)) = some (.fw, o)) : d.storeOp h i g rt ra sz off f =
      (d.issued h).storeFw n t i ((d.thr n t).fwBase + o) (f (2 ^ sz.val) ((d.rf h).get rt).toNat) := by
  rw [storeOp, issue_eq can]
  subst fe
  simp only [permitted, held, rf_issued, ne_eq, not_true_eq_false, if_false, thr_issued]

theorem storeOp_register {c : Fin 2} (mc : h = .mc c)
    (held : (d.issued h).place h ((d.issued h).effective h ra off (2 ^ sz.val)) = some (.reg, o)) : d.storeOp h i g rt ra sz off f =
      d.storeReg c o (f (2 ^ sz.val) ((d.rf h).get rt).toNat) := by
  rw [storeOp, issue_eq can]
  subst mc
  simp only [permitted, held, rf_issued, ne_eq, not_true_eq_false, if_false]
  rfl

end Store

theorem amoOp_done {n : Nat} {wide : Bool} {f : Nat → Nat → Nat → Option Nat} (can : d.canIssue h g [rd, ra, rb] none = true)
    (size : n = if wide then 8 else 4) (aligned : ((d.rf h).get ra).toNat % n = 0)
    (held : (d.issued h).place h ((d.rf h).get ra).toNat = some (.cs, o)) (inside : o + n ≤ 2 ^ 18)
    (read : (d.issued h).spcLoad h .cs o n ecc = (some bs, d1)) (shows : d1.shadowed h = false) :
    d.amoOp h g rd ra rb wide ecc f =
      ((f (leNat bs) (((d.rf h).get rb).toNat % 2 ^ (8 * n)) (((d.rf h).get rd).toNat % 2 ^ (8 * n))).elim d1
        fun v => d1.spcStore h .cs o (leBytes n v)).complete h fun r => r.put rd (BitVec.ofNat 64 (leNat bs)) := by
  have kept : d1.rf h = d.rf h := (rf_of_harts (spcLoad_cs_harts read) h).trans (rf_issued d h)
  rw [amoOp, issue_eq can]
  dsimp only
  rw [← size]
  simp only [rf_issued, aligned, held, read, kept, Nat.not_lt.2 inside, ne_eq, not_true_eq_false, if_false]
  cases f (leNat bs) (((d.rf h).get rb).toNat % 2 ^ (8 * n)) (((d.rf h).get rd).toNat % 2 ^ (8 * n)) with
  | none => rfl
  | some v => simp only [outward, shows, Bool.false_eq_true, if_false, Option.elim]

theorem rangeOp_reads (can : d.canIssue h g [rd, ra, rb] none = true) (short : ((d.rf h).get rb).toNat ≤ 4096)
    (asks : ((d.rf h).get rb).toNat ≠ 0)
    (permitted : (d.issued h).accessExc h ((d.rf h).get ra).toNat ((d.rf h).get rb).toNat false true = 0)
    (held : (d.issued h).place h ((d.rf h).get ra).toNat = some (p, o))
    (read : (d.issued h).spcLoad h p o ((d.rf h).get rb).toNat ecc = (some bs, d1)) (f : Nat → List Byte → Nat) :
    d.rangeOp h g rd ra rb ecc f = d1.complete h fun r => r.put rd (BitVec.ofNat 64 (f (r.get rd).toNat bs)) := by
  rw [rangeOp, issue_eq can]
  simp only [rf_issued, Nat.not_lt.2 short, asks, permitted, held, read, ne_eq, not_true_eq_false, if_false]

end Ops

/-! #### Stores into the frame window -/

theorem thr_complete (d : Dev) (n : Fin 64) (t : Fin 4) (f : RegFile → RegFile) : (d.complete (.fe n t) f).thr n t =
    { d.thr n t with rf := { f (d.thr n t).rf with pc := (d.thr n t).rf.pc + 1 } } := thr_setThr_same ..

/-- A thread that has cells of its own, or for whose packet cells are free, keeps all but the number of its cells. -/
theorem ownCells_thr {d : Dev} {n t : Nat} {len : Nat}
    (room : (d.thr n t).shadow = true ∨ ((d.thr n t).outGrp = 0 ∧ cellsOf len ≤ d.freeCells)) :
    ∃ e k, d.ownCells n t len = some e ∧ e.thr n t = { d.thr n t with outGrp := k } := by
  unfold ownCells
  by_cases shadow : (d.thr n t).shadow = true
  · exact ⟨d, _, if_pos shadow, rfl⟩
  · obtain ⟨unheld, free⟩ := room.resolve_left shadow
    refine ⟨(d.alloc (cellsOf len)).2.setThr n t { d.thr n t with outGrp := d.buf.nextGrp }, d.buf.nextGrp, ?_, thr_setThr_same ..⟩
    simp only [shadow, unheld, alloc, free, if_true, if_false, Bool.false_eq_true]

/-- A store into the frame window puts its bytes into the output packet and goes on. -/
theorem storeFw_thr {d : Dev} {n : Fin 64} {t : Fin 4} (room : (d.thr n t).shadow = true ∨
    ((d.thr n t).outGrp = 0 ∧ cellsOf (d.thr n t).out.length ≤ d.freeCells)) (i : Instr) (o : Nat) (bs : List Byte) :
    ∃ k, (d.storeFw n t i o bs).thr n t = { d.thr n t with
      outGrp := k, out := splice (d.thr n t).out o bs, rf := { (d.thr n t).rf with pc := (d.thr n t).rf.pc + 1 } } := by
  obtain ⟨e, k, own, kept⟩ := ownCells_thr room
  refine ⟨k, ?_⟩
  simp only [storeFw, own, thr_complete, thr_setThr_same, kept, id]

/-! #### Stores into the register window -/

theorem leNat_leBytes (n v : Nat) : leNat (leBytes n v) = v % 2 ^ (8 * n) := by
  induction n generalizing v with
  | zero => simp [leBytes, leNat, Nat.mod_one]
  | succ n ih =>
    rw [leBytes, leNat, ih, byteOf, BitVec.toNat_ofNat, Nat.mul_succ, Nat.pow_add, Nat.mul_comm (2 ^ (8 * n)), Nat.mod_mul]

/-- A store of four bytes is one register write. -/
theorem storeReg_word {d : Dev} {c : Fin 2} (shows : d.shadowed (.mc c) = false) (o v : Nat) :
    d.storeReg c o (leBytes 4 v) = d.coreWrites c [(o, v % 2 ^ 32)] := by
  have word : leAt (leBytes 4 v) 0 4 = v % 2 ^ 32 := leNat_leBytes 4 v
  have writes : (List.range ((leBytes 4 v).length / 4)).map (fun k => (o + 4 * k, leAt (leBytes 4 v) (4 * k) 4)) =
      [(o, v % 2 ^ 32)] := by simp [leBytes_length, List.range_succ, word]
  rw [storeReg, if_neg (by simp [shows]), writes]

theorem farStoreWait_farDown (d : Dev) (c w : Nat) : (d.farStoreWait c).farDown w = d.farDown w := by
  unfold farStoreWait
  dsimp only
  split <;> rfl

theorem farStoreWait_farQueue (d : Dev) (c w : Nat) : (d.farStoreWait c).farQueue w = d.farQueue w := by
  unfold farStoreWait
  dsimp only
  split <;> rfl

section Writes
variable {d : Dev} {c : Fin 2} {o v w : Nat}

theorem coreWrites_near (near : farWindow 16 o = none) (done : ((d.regWrite 16 o v).mcCore c).far = none) :
    d.coreWrites c [(o, v)] = (d.regWrite 16 o v).complete (.mc c) id := by
  simp only [coreWrites, near, done, Option.isSome_none, Bool.false_eq_true, if_false]

variable (far : farWindow 16 o = some w) (up : d.farDown w = false)
include far up

theorem coreWrites_enters (room : (d.farQueue w).length < 32) : d.coreWrites c [(o, v)] =
    (d.farStoreWait c).farEnter w { dom := 16, seq := 0, off := o, value := v, src := .core c [] } := by
  simp only [coreWrites, far, farStoreWait_farDown, farStoreWait_farQueue, up, Nat.not_le.2 room, Bool.false_eq_true, if_false]

theorem coreWrites_waits (full : 32 ≤ (d.farQueue w).length) : d.coreWrites c [(o, v)] =
    { d.farStoreWait c with host := { (d.farStoreWait c).host with
      coreWait := ((d.farStoreWait c).host.coreWait.filter fun x => x.1 != c.val) ++ [(c.val, [(o, v)])] } } := by
  simp only [coreWrites, far, farStoreWait_farDown, farStoreWait_farQueue, up, full, Bool.false_eq_true, if_true, if_false]

end Writes

theorem farStoreWait_eq {d : Dev} {c : Nat} (free : (d.mcCore c).far = none) :
    d.farStoreWait c = d.setMc c { d.mcCore c with st := .blocked, far := some c } := by
  simp only [farStoreWait, free, Option.isSome_none, Bool.false_eq_true, if_false]

theorem farEnter_eng (d : Dev) (w : Nat) (x : FarWrite) : (d.farEnter w x).eng = d.eng := by
  unfold farEnter
  split
  · exact linkSend_eng ..
  · rfl

theorem farEnter_farQueue (d : Dev) (w : Nat) (x : FarWrite) : (d.farEnter w x).farQueue w = d.farQueue w ++ [x] := by
  have placed : (d.setFarQueue w (d.farQueue w ++ [x])).farQueue w = d.farQueue w ++ [x] := Sparse.get_set_same ..
  unfold farEnter
  dsimp only
  split
  · rw [farQueue, linkSend_host]
    exact placed
  · exact placed

/-- A store of four bytes of a core to the register window. -/
theorem storeOp_word {d : Dev} {c : Fin 2} {g : Guard} {rt ra : GReg} {off : BitVec 8} {o : Nat} (i : Instr)
    (can : d.canIssue (.mc c) g [rt, ra] none = true)
    (permitted : d.accessExc (.mc c) (d.effective (.mc c) ra off 4) 4 true false = 0)
    (held : d.place (.mc c) (d.effective (.mc c) ra off 4) = some (.reg, o)) (shows : d.shadowed (.mc c) = false) :
    d.storeOp (.mc c) i g rt ra 2 off leBytes = d.coreWrites c [(o, ((d.rf (.mc c)).get rt).toNat % 2 ^ 32)] := by
  have size : 2 ^ (2 : Fin 4).val = 4 := rfl
  have same : d.issued (.mc c) = d := rfl
  rw [storeOp_register leBytes i can (by rw [same, size]; exact permitted) rfl (by rw [same, size]; exact held), size]
  exact storeReg_word shows o _

end Dev

/-! #### The commands -/

section Exec
variable (s : State) (h : Hart) (g : Guard) (rt rd ra rb : GReg) (sz : Fin 4) (off : BitVec 8) (wide : Bool) (ecc : Ecc)

theorem exec_st : exec (.st h g rt ra sz off) s = s.logic fun d => d.storeOp h (.st h g rt ra sz off) g rt ra sz off leBytes := rfl

theorem accessBits_le (sz : Fin 4) : 8 * 2 ^ sz.val ≤ 64 :=
  Nat.mul_le_mul_left 8 (Nat.pow_le_pow_right (by decide) (Nat.le_of_lt_succ sz.isLt) : 2 ^ sz.val ≤ 2 ^ 3)

theorem sext_leNat {sz : Fin 4} {bs : List Byte} (short : bs.length ≤ 2 ^ sz.val) :
    sextBits (8 * 2 ^ sz.val) (BitVec.ofNat 64 (leNat bs)) = BitVec.ofInt 64 (sext (8 * 2 ^ sz.val) (leNat bs)) :=
  sextBits_ofNat ((leNat_lt bs).trans_le (Nat.pow_le_pow_right (by decide) (Nat.mul_le_mul_left 8 short))) (accessBits_le sz)

/-- Every load is a `loadOp` that makes the register of its row from the bytes. -/
theorem exec_loadRows : ∀ e ∈ loadRows h g rt ra sz off ecc, ∃ f : List Byte → Word64,
    exec e.1 s = s.logic (fun d => d.loadOp h g rt ra sz off ecc f) ∧ ∀ bs : List Byte, bs.length ≤ 2 ^ sz.val → f bs = e.2 bs := by
  simp only [loadRows, List.forall_mem_cons, List.not_mem_nil, false_imp_iff, implies_true, and_true]
  exact ⟨⟨_, rfl, fun _ _ => rfl⟩, ⟨_, rfl, fun _ short => sext_leNat short⟩, ⟨_, rfl, fun _ _ => rfl⟩,
    ⟨_, rfl, fun bs short => sext_leNat (bs := bs.reverse) (by rwa [List.length_reverse])⟩⟩

/-- Every atomic operation is an `amoOp` with the value of its row. -/
theorem exec_amoRows : ∀ e ∈ amoRows h g rd ra rb wide ecc,
    exec e.1 s = s.logic fun d => d.amoOp h g rd ra rb wide ecc e.2 := by
  simp only [amoRows, List.forall_mem_cons, List.not_mem_nil, false_imp_iff, implies_true, and_true]
  exact ⟨rfl, rfl, rfl, rfl, rfl⟩

/-- Every range operation is a `rangeOp` with the function of its row. -/
theorem exec_rangeRows : ∀ e ∈ rangeRows h g rd ra rb ecc,
    exec e.1 s = s.logic fun d => d.rangeOp h g rd ra rb ecc e.2 := by
  simp only [rangeRows, List.forall_mem_cons, List.not_mem_nil, false_imp_iff, implies_true, and_true]
  exact ⟨rfl, rfl, rfl, rfl, rfl, rfl, rfl⟩

/-- Both stores are a `storeOp` with the bytes of their row. -/
theorem exec_storeRows : ∀ e ∈ [(Instr.st h g rt ra sz off, leBytes), (.stn h g rt ra sz off, beBytes)],
    exec e.1 s = s.logic fun d => d.storeOp h e.1 g rt ra sz off e.2 := by
  simp only [List.forall_mem_cons, List.not_mem_nil, false_imp_iff, implies_true, and_true]
  exact ⟨rfl, rfl⟩

end Exec

/-! #### Stores of cores behind a far-side window -/

section Far
variable {s : State} {g : Guard} {rt ra : GReg} {off : BitVec 8} {c : Fin 2} {o w : Nat} (on : s.On)
  (can : s.dev.canIssue (.mc c) g [rt, ra] none = true)
  (permitted : s.dev.accessExc (.mc c) (s.dev.effective (.mc c) ra off 4) 4 true false = 0)
  (held : s.dev.place (.mc c) (s.dev.effective (.mc c) ra off 4) = some (.reg, o)) (far : farWindow 16 o = some w)
  (up : s.dev.farDown w = false) (shows : s.dev.shadowed (.mc c) = false) (free : (s.dev.mcCore c).far = none)
include on can permitted held far up shows free

theorem runs_farStore (room : (s.dev.farQueue w).length < 32) : Runs (.st (.mc c) g rt ra 2 off) s fun d =>
    (d.mcCore c).st = .blocked ∧ (d.mcCore c).far = some c.val ∧ (d.mcCore c).rf = (s.dev.mcCore c).rf ∧
    d.farQueue w = s.dev.farQueue w ++
      [{ dom := 16, seq := 0, off := o, value := ((s.dev.rf (.mc c)).get rt).toNat % 2 ^ 32, src := .core c [] }] := by
  refine runs_logic_of_held on (exec_st ..) (storeOp_held ..) ?_
  rw [storeOp_word _ can permitted held shows, coreWrites_enters far up room, farStoreWait_eq free]
  have core (e : Dev) (x : FarWrite) : (e.farEnter w x).mcCore c = e.mcCore c := by rw [mcCore, farEnter_eng, mcCore]
  rw [core, mcCore_setMc_same, farEnter_farQueue]
  exact ⟨rfl, rfl, rfl, rfl⟩

theorem runs_farStore_full (full : 32 ≤ (s.dev.farQueue w).length) : Runs (.st (.mc c) g rt ra 2 off) s fun d =>
    (d.mcCore c).st = .blocked ∧ (d.mcCore c).far = some c.val ∧ (d.mcCore c).rf = (s.dev.mcCore c).rf ∧
    d.farQueue w = s.dev.farQueue w ∧ (c.val, [(o, ((s.dev.rf (.mc c)).get rt).toNat % 2 ^ 32)]) ∈ d.host.coreWait := by
  refine runs_logic_of_held on (exec_st ..) (storeOp_held ..) ?_
  rw [storeOp_word _ can permitted held shows, coreWrites_waits far up full, farStoreWait_eq free]
  have core : (s.dev.setMc c { s.dev.mcCore c with st := .blocked, far := some c.val }).mcCore c =
      { s.dev.mcCore c with st := .blocked, far := some c.val } := mcCore_setMc_same ..
  exact ⟨(congrArg McCore.st core :), (congrArg McCore.far core :), (congrArg McCore.rf core :), rfl, by simp⟩

end Far

theorem ldKey_eq_add (n t o : Nat) : ldKey n t o = ldKey n t 0 + o := by rw [ldKey, ldKey, Nat.add_zero]
theorem csKey_eq_add (c o : Nat) : csKey c o = csKey c 0 + o := by rw [csKey, csKey, Nat.add_zero]

/-- The laws of a store at `base + o`, for what the device holds after it. -/
theorem stored_laws {base o i : Nat} {bs : List Byte} {m m' : Sparse Byte} {x y : Engines} (stored : m' = memSet m (base + o) bs)
    (ps : y.ps = x.ps) (flash : y.flash = x.flash) :
    Sparse.get (fun _ => 0) m' (base + i) =
      (if o ≤ i ∧ i < o + bs.length then bs.getD (i - o) 0 else Sparse.get (fun _ => 0) m (base + i)) ∧
    (∀ k, k < base → Sparse.get (fun _ => 0) m' k = Sparse.get (fun _ => 0) m k) ∧ y.ps = x.ps ∧ y.flash = x.flash := by
  obtain ⟨bytes, below⟩ := stored ▸ memSet_laws m base o i bs
  exact ⟨bytes, below, ps, flash⟩

/-- Settles O15: each access goes through the operation of its row; what it reads and writes follows from the rules of the
memories, and a store changes one memory and the error records alone. -/
theorem loadsStoresAndBytes : Obligations.LoadsStoresAndBytes := by
  refine ⟨?_, ?_, ?_, ?_, ?_, ?_, ?_, ?_, ?_, ?_⟩
  · intro s h g rt ra sz off ecc p o bs d1 on can permitted held read e row
    obtain ⟨f, hc, makes⟩ := exec_loadRows s h g rt ra sz off ecc e row
    refine runs_logic_of_held on hc (loadOp_held ..) ?_
    rw [loadOp_reads can permitted held read, makes bs (spcLoad_length read)]
  · rintro s h g rt ra sz off ecc _ on can rfl raises e row
    obtain ⟨f, hc, -⟩ := exec_loadRows s h g rt ra sz off ecc e row
    exact runs_logic_of_held on hc (loadOp_held ..) (loadOp_excepts can raises f)
  · intro s h g rt ra sz off p o on can permitted held fw reg shows e row
    exact runs_logic_of_held on (exec_storeRows s h g rt ra sz off e row) (storeOp_held ..)
      (storeOp_memory e.2 e.1 can permitted held fw reg shows)
  · rintro s _ g rt ra sz off n t o on rfl can permitted held room e row
    refine runs_logic_of_held on (exec_storeRows s _ g rt ra sz off e row) (storeOp_held ..) ?_
    have room' : ((s.dev.issued (.fe n t)).thr n t).shadow = true ∨ (((s.dev.issued (.fe n t)).thr n t).outGrp = 0 ∧
        cellsOf ((s.dev.issued (.fe n t)).thr n t).out.length ≤ (s.dev.issued (.fe n t)).freeCells) := by
      rw [thr_issued, freeCells, f_issued]
      exact room
    obtain ⟨k, thr⟩ := storeFw_thr room' e.1 ((s.dev.thr n t).fwBase + o) (e.2 (2 ^ sz.val) ((s.dev.rf (.fe n t)).get rt).toNat)
    rw [storeOp_window e.2 e.1 can permitted rfl held, thr, thr_issued]
    exact ⟨rfl, rfl, rfl⟩
  · rintro s _ g rt ra off c o on rfl can permitted held near shows done
    refine runs_logic_of_held on (exec_st ..) (storeOp_held ..) ?_
    rw [storeOp_word _ can permitted held shows, coreWrites_near near done]
    rfl
  · rintro s _ g rt ra off c o w on rfl room can permitted held far up shows free
    exact runs_farStore on can permitted held far up shows free room
  · rintro s _ g rt ra off c o w on rfl full can permitted held far up shows free
    exact runs_farStore_full on can permitted held far up shows free full
  · intro s h g rd ra rb wide ecc n o bs d1 on can size aligned held inside read shows e row
    refine runs_logic_of_held on (exec_amoRows s h g rd ra rb wide ecc e row) (amoOp_held ..) ?_
    rw [amoOp_done can size aligned held inside read shows]
    cases e.2 (leNat bs) (((s.dev.rf h).get rb).toNat % 2 ^ (8 * n)) (((s.dev.rf h).get rd).toNat % 2 ^ (8 * n)) <;> rfl
  · intro s h g rd ra rb ecc p o bs d1 on can short asks permitted held read e row
    exact runs_logic_of_held on (exec_rangeRows s h g rd ra rb ecc e row) (rangeOp_held ..)
      (rangeOp_reads can short asks permitted held read e.2)
  · intro d h p o base i bs m m' memory
    cases h with
    | fe e t =>
      cases p with
      | ld =>
        obtain ⟨rfl, rfl, rfl⟩ := memory
        obtain ⟨bad, eng⟩ := spcStore_ld d e t o bs
        exact stored_laws (by rw [eng, ← ldKey_eq_add]) (by rw [eng]) (by rw [eng])
      | cs =>
        obtain ⟨rfl, rfl, rfl⟩ := memory
        obtain ⟨bad, eng⟩ := spcStore_cs d e t o bs
        exact stored_laws (by rw [eng, ← csKey_eq_add]) (by rw [eng]) (by rw [eng])
      | _ => exact memory.elim
    | mc c =>
      cases p with
      | sram =>
        obtain ⟨rfl, rfl, rfl⟩ := memory
        obtain ⟨bad, eng⟩ := spcStore_sram d c o bs
        exact stored_laws (by rw [eng, Nat.zero_add]) (by rw [eng]) (by rw [eng])
      | log =>
        obtain ⟨rfl, rfl, rfl⟩ := memory
        obtain ⟨bad, eng⟩ := spcStore_log d c o bs
        exact stored_laws (by rw [eng, Nat.zero_add]) (by rw [eng]) (by rw [eng])
      | _ => exact memory.elim

end Sys2Proof.Machine
end
section
/-! ### Frames received at the coordinator of a PLCA segment (R261, R290) -/
namespace Sys2Proof.Machine
open Dev

namespace Dev

/-- A port that does not receive only takes note of how long the frame has held its segment. -/
theorem ethFrameIn_of_not_receiving {d : Dev} {p : Nat} (deaf : d.f ethMacCfg_RX_EN p = 0) (x : EthRx) :
    d.ethFrameIn p x = d.plcaExtend p (x.bytes.length + 24) := by
  simp [ethFrameIn, ethReceive, b, deaf]

theorem eth_setEth_same (d : Dev) (p : Nat) (x : EthPort) : (d.setEth p x).eth p = x := Sparse.get_set_same _ _ _ _

/-- A frame on the segment puts off the coordinator's next beacon. -/
theorem beaconAt_plcaExtend {d : Dev} {p : Nat} (leads : d.plcaLeads p = true) (n : Nat) :
    ((d.plcaExtend p n).eth p).beaconAt = max (d.eth p).beaconAt d.ns + n * 800 := by
  rw [plcaExtend, if_pos leads, eth_setEth_same]

end Dev

theorem exec_ethFrameReceived (p : Fin 20) (x : EthRx) (s : State) : exec (.ethFrameReceived p x) s = s.logic fun d =>
    if d.inRecovery then d.recovArp p x else (d.ethFrameIn p x).rxPassed p := rfl

theorem runs_ethFrameReceived_of_not_receiving {s : State} {p : Fin 20} {x : EthRx} {P : Dev → Prop} (on : s.On)
    (normal : s.dev.inRecovery = false) (deaf : s.dev.f ethMacCfg_RX_EN p = 0) :
    Runs (.ethFrameReceived p x) s P ↔ P ((s.dev.plcaExtend p (x.bytes.length + 24)).rxPassed p).powered := by
  rw [runs_logic_iff on (exec_ethFrameReceived ..), normal, if_neg Bool.false_ne_true, ethFrameIn_of_not_receiving deaf]

/-- Port E12 in RUN behind a running BW die, the coordinator of its 10BASE-T1S segment: node 0, transmitting, reception off. -/
def deafCoordinator : State where
  dev := ((((({ mg := { runs := [⟨unitClass uBw, 0, 0, 0, 0, 0, []⟩] } } : Dev).sf unitState_STATE uBw stRun).sf unitState_STATE
    (uEth 12) stRun).sf ethMacCfg_RX_EN 12 0).sf ethMacCfg_TX_EN 12 1).sf ethPlcaCfg_NODE_ID 12 0

theorem plcaLeads_deafCoordinator : deafCoordinator.dev.plcaLeads 12 = true := by decide +kernel

/-- Refutes O21: at a PLCA coordinator with reception off, a frame on the segment puts off the next beacon, where the first
clause has nothing change. -/
theorem not_framePathCommands : ¬ Obligations.FramePathCommands := by
  unfold Obligations.FramePathCommands
  intro h
  have on : deafCoordinator.On := rfl
  have normal : deafCoordinator.dev.inRecovery = false := by decide +kernel
  have deaf : deafCoordinator.dev.f ethMacCfg_RX_EN (12 : Fin 20) = 0 := by decide +kernel
  obtain ⟨ignored, -⟩ := h deafCoordinator 12 on
  have unchanged := (runs_ethFrameReceived_of_not_receiving on normal deaf).1
    (ignored { bytes := [], time := 0 } normal (.inl deaf) rfl rfl rfl)
  have beacon : ((deafCoordinator.dev.plcaExtend 12 24).eth 12).beaconAt = (deafCoordinator.dev.eth 12).beaconAt :=
    congrArg (fun d : Dev => (d.eth 12).beaconAt) unchanged
  rw [beaconAt_plcaExtend plcaLeads_deafCoordinator] at beacon
  omega

end Sys2Proof.Machine
end
section
/-! ### Writes of the rule window (R171) -/
namespace Sys2Proof.Machine
open Dev

/-- Of the 32-bit words of a number, numbered from `lo`, the one that is written takes the value and each other one stays. -/
theorem word_setWord {lo w k v : Nat} (hw : lo ≤ w) (hk : lo ≤ k) (fits : v < 2 ^ 32) (x : Nat) :
    bits (32 * (k - lo) + 31) (32 * (k - lo)) (setBits (32 * (w - lo) + 31) (32 * (w - lo)) v x) =
      if k = w then v else bits (32 * (k - lo) + 31) (32 * (k - lo)) x := by
  rcases Nat.lt_trichotomy k w with below | rfl | above
  · rw [if_neg below.ne, bits_setBits_below (by omega) (by omega) (by omega)]
  · rw [if_pos rfl, bits_setBits (by omega), show 32 * (k - lo) + 31 + 1 - 32 * (k - lo) = 32 by omega, Nat.mod_eq_of_lt fits]
  · rw [if_neg above.ne', bits_setBits_above (by omega) (by omega)]

/-- What a word of the rule window stores: the reserved bits of an action read 0. -/
def ruleStored (w v : Nat) : Nat := if w = 32 then v &&& 0xFFFF7FFF else if w = 33 then v &&& 0xFFFFFF03 else v

/-- A rule after one of its key, mask and action words is written. -/
def ruleSetWord (r : Rule) (w v : Nat) : Rule :=
  if w < 16 then { r with key := setBits (32 * w + 31) (32 * w) (ruleStored w v) r.key }
  else if w < 32 then { r with mask := setBits (32 * (w - 16) + 31) (32 * (w - 16)) (ruleStored w v) r.mask }
  else { r with action := setBits (32 * (w - 32) + 31) (32 * (w - 32)) (ruleStored w v) r.action }

theorem ruleSetWord_valid (r : Rule) (w v : Nat) : (ruleSetWord r w v).valid = r.valid := by
  unfold ruleSetWord
  split_ifs <;> rfl

theorem ruleStored_plain {w : Nat} (plain : w < 32) (v : Nat) : ruleStored w v = v := by
  rw [ruleStored, if_neg (by omega), if_neg (by omega)]

theorem ruleStored_lt {v : Nat} (w : Nat) (fits : v < 2 ^ 32) : ruleStored w v < 2 ^ 32 := by
  unfold ruleStored
  split_ifs
  · exact Nat.and_lt_two_pow _ (by decide)
  · exact Nat.and_lt_two_pow _ (by decide)
  · exact fits

theorem ruleWord_withKey (r : Rule) (x k : Nat) :
    ruleWord { r with key := x } k = if k < 16 then bits (32 * k + 31) (32 * k) x else ruleWord r k := by
  unfold ruleWord
  split_ifs <;> rfl

theorem ruleWord_withMask (r : Rule) (x k : Nat) : ruleWord { r with mask := x } k =
    if 16 ≤ k ∧ k < 32 then bits (32 * (k - 16) + 31) (32 * (k - 16)) x else ruleWord r k := by
  by_cases part : 16 ≤ k ∧ k < 32
  · rw [if_pos part, ruleWord, if_neg (by omega), if_pos part.2]
  · rw [if_neg part]
    unfold ruleWord
    split_ifs with key mask
    · rfl
    · exact absurd ⟨Nat.not_lt.1 key, mask⟩ part
    · rfl
    · rfl

theorem ruleWord_withAction (r : Rule) (x k : Nat) : ruleWord { r with action := x } k =
    if 32 ≤ k ∧ k < 34 then bits (32 * (k - 32) + 31) (32 * (k - 32)) x else ruleWord r k := by
  by_cases part : 32 ≤ k ∧ k < 34
  · rw [if_pos part, ruleWord, if_neg (by omega), if_neg (by omega), if_pos part.2]
  · rw [if_neg part]
    unfold ruleWord
    split_ifs with key mask action
    · rfl
    · rfl
    · exact absurd ⟨Nat.not_lt.1 mask, action⟩ part
    · rfl

/-- The window shows the word that was written, and every other word as it was. -/
theorem ruleWord_ruleSetWord (r : Rule) {w v : Nat} (word : w < 34) (fits : v < 2 ^ 32) (k : Nat) :
    ruleWord (ruleSetWord r w v) k = if k = w then ruleStored w v else ruleWord r k := by
  have stored := ruleStored_lt w fits
  by_cases key : w < 16
  · have was : ruleWord r k = _ := ruleWord_withKey r r.key k
    rw [ruleSetWord, if_pos key, ruleWord_withKey]
    by_cases part : k < 16
    · rw [if_pos part, was, if_pos part]
      exact word_setWord (Nat.zero_le w) (Nat.zero_le k) stored r.key
    · rw [if_neg part, if_neg (by omega)]
  · by_cases mask : w < 32
    · have was : ruleWord r k = _ := ruleWord_withMask r r.mask k
      rw [ruleSetWord, if_neg key, if_pos mask, ruleWord_withMask]
      by_cases part : 16 ≤ k ∧ k < 32
      · rw [if_pos part, was, if_pos part, word_setWord (by omega) part.1 stored]
      · rw [if_neg part, if_neg (by omega)]
    · have was : ruleWord r k = _ := ruleWord_withAction r r.action k
      rw [ruleSetWord, if_neg key, if_neg mask, ruleWord_withAction]
      by_cases part : 32 ≤ k ∧ k < 34
      · rw [if_pos part, was, if_pos part, word_setWord (by omega) part.1 stored]
      · rw [if_neg part, if_neg (by omega)]

namespace Dev

/-- The device with rule `n` replaced. -/
def setRule (d : Dev) (n : Nat) (r : Rule) : Dev :=
  { d with path := { d.path with rules := Sparse.set ruleDefault d.path.rules n r } }

@[simp] theorem rule_setRule_same (d : Dev) (n : Nat) (r : Rule) : (d.setRule n r).rule n = r := Sparse.get_set_same _ _ _ _

theorem only_setRule (d : Dev) (n : Nat) (r : Rule) : d.Only (d.setRule n r) { parts := [.path] } :=
  Within.only <| .parts rfl rfl fun p out => by cases p <;> simp_all [Part.same, setRule, Foot.hasPart]

/-- A write that the window turns away: of a VALID rule, but for clearing VALID, or of an action that may not be written. -/
theorem ruleWrite_rejected {d : Dev} {w v : Nat}
    (bad : (d.rule (d.f clsRuleSel_INDEX 0)).valid = true ∧ (w ≠ 34 ∨ bitAt 31 v = true) ∨ w = 32 ∧ actionOk v = false) :
    d.ruleWrite w v = d.rejWr uCls := by
  rw [ruleWrite, if_pos]
  rcases bad with ⟨valid, other | set⟩ | ⟨rfl, wrong⟩
  · simp [valid, other]
  · simp [valid, set]
  · simp [wrong]

section Writable
variable {d : Dev} {n : Nat} (sel : d.f clsRuleSel_INDEX 0 = n) (invalid : (d.rule n).valid = false)
  (free : d.setDraining (d.rule n).pset = false)
include sel invalid free

/-- A key, mask or action word of a rule that is open to writes is stored. -/
theorem ruleWrite_word {w v : Nat} (word : w < 34) (ok : w = 32 → actionOk v = true) :
    d.ruleWrite w v = d.setRule n (ruleSetWord (d.rule n) w v) := by
  have good : ¬ (w = 32 ∧ actionOk v = false) := by
    rintro ⟨action, wrong⟩
    exact absurd (ok action) (by simp [wrong])
  rw [ruleWrite, sel, if_neg]
  · refine congrArg (d.setRule n) ?_
    by_cases key : w < 16
    · rw [if_pos key, ruleSetWord, if_pos key, ruleStored_plain (by omega)]
    · by_cases mask : w < 32
      · rw [if_neg key, if_pos mask, ruleSetWord, if_neg key, if_pos mask, ruleStored_plain mask]
      · obtain rfl | rfl : w = 32 ∨ w = 33 := by omega
        · rw [if_neg key, if_neg mask, if_pos rfl, ruleSetWord, if_neg key, if_neg mask, ruleStored, if_pos rfl]
        · rw [if_neg key, if_neg mask, if_neg (by decide), if_pos rfl, ruleSetWord, if_neg key, if_neg mask, ruleStored,
            if_neg (by decide), if_pos rfl]
  · simpa [invalid, free, word.ne] using good

/-- The control word of a rule that is open to writes, of a set that no old epoch drains, is stored. -/
theorem ruleWrite_control {v : Nat} (free' : d.setDraining (bits 27 24 v) = false) : d.ruleWrite 34 v =
    d.setRule n { d.rule n with valid := bitAt 31 v, pset := bits 27 24 v, prio := v % 65536 } := by
  rw [ruleWrite, sel]
  simp [invalid, free, free', setRule]

end Writable
end Dev
end Sys2Proof.Machine
end
section
/-! ### Stream gates and sequence recovery (R278, R281) -/
namespace Sys2Proof.Machine
open Dev

theorem bitAt_setBits_same (i v x : Nat) : bitAt i (setBits i i v x) = bitAt 0 v := by
  rw [bitAt_eq_testBit, bitAt_eq_testBit, testBit_setBits le_rfl, if_pos ⟨le_rfl, le_rfl⟩, Nat.sub_self]

theorem bitAt_setBits_below {hi lo i : Nat} (h : lo ≤ hi) (below : i < lo) (v x : Nat) :
    bitAt i (setBits hi lo v x) = bitAt i x := by
  rw [bitAt_eq_testBit, bitAt_eq_testBit, testBit_setBits h, if_neg (by omega)]

namespace Dev

theorem directAt_setDirect_gate (d : Dev) (g e : Nat) : (d.setDirect 6 g e).directAt 6 g = e := Sparse.get_set_same _ _ _ _

theorem directAt_setDirect_recovery (d : Dev) (r e : Nat) : (d.setDirect 8 r e).directAt 8 r = e := Sparse.get_set_same _ _ _ _

theorem within_withTab {F : Foot} (tab : F.hasPart .tab) (d : Dev) (x : Tables) : d.Within { d with tab := x } F :=
  .parts rfl rfl fun p n => by cases p <;> simp_all [Part.same]

/-! #### Gates -/

/-- What a gate shows once it is set: OPEN, and the octet limit, where 0 is none. -/
theorem directAt_gateSet (d : Dev) (g : Nat) (opn : Bool) {iom : Nat} (fits : iom < 2 ^ 32) :
    bitAt 0 ((d.gateSet g opn iom).directAt 6 g) = opn ∧
      bits 63 32 ((d.gateSet g opn iom).directAt 6 g) = if iom = 0 then 0xFFFFFFFF else iom := by
  rw [gateSet, directAt_setDirect_gate]
  constructor
  · rw [bitAt_setBits_below (by decide) (by decide), bitAt_setBits_same]
    cases opn <;> rfl
  · rw [bits_setBits (by decide)]
    split_ifs
    · rfl
    · exact Nat.mod_eq_of_lt fits

theorem gateEntryStart_held (d : Dev) (g : Nat) : (d.gateEntryStart g).mg.held = d.mg.held := by simp [gateEntryStart]

theorem gateEntryStart_none {d : Dev} {g : Nat} (empty : gateLen (d.directAt 6 g) = 0) : d.gateEntryStart g = d := by
  simp only [gateEntryStart, empty, if_true]

theorem gateEntryStart_next {d : Dev} {g k i : Nat} (list : gateLen (d.directAt 6 g) ≠ 0)
    (entry : Sparse.get (fun _ => 0) d.tab.gatePos g % gateLen (d.directAt 6 g) = k) (place : gateBase (d.directAt 6 g) + k = i) :
    d.gateEntryStart g = (d.setGatePos g (k + 1)).gateSet g (d.b tbSgGclCtl_OPEN i) (d.f tbSgGclCtl_IOM i) := by
  simp only [gateEntryStart, if_neg list, entry, place]

theorem gatePos_gateSet (d : Dev) (g : Nat) (opn : Bool) (iom : Nat) : (d.gateSet g opn iom).tab.gatePos = d.tab.gatePos := by
  simp only [gateSet, setDirect]

theorem gatePos_setGatePos (d : Dev) (g p : Nat) : Sparse.get (fun _ => 0) (d.setGatePos g p).tab.gatePos g = p :=
  Sparse.get_set_same _ _ _ _

/-! #### Recovery functions -/

theorem seqReset_held (d : Dev) (r : Nat) : (d.seqReset r).mg.held = d.mg.held := by simp [seqReset]

theorem seqReset_none {d : Dev} {r : Nat} (empty : bits 31 16 (d.directAt 8 r) = 0) : d.seqReset r = d := by
  simp only [seqReset, empty, if_true]

theorem seqReset_any {d : Dev} {r : Nat} (used : bits 31 16 (d.directAt 8 r) ≠ 0) : d.seqReset r =
    (d.setDirect 8 r (setBits 48 48 1 (setBits 95 64 0 (d.directAt 8 r)))).inc .tbSrCnt (6 * r + 5) := by
  simp only [seqReset, if_neg used]

theorem ctr_setDirect (d : Dev) (t k e : Nat) (c : Ctr) (i : Nat) : (d.setDirect t k e).ctr c i = d.ctr c i := rfl

theorem directAt_inc (d : Dev) (c : Ctr) (i t k : Nat) : (d.inc c i).directAt t k = d.directAt t k := rfl

end Dev

end Sys2Proof.Machine
end
section
/-! ### Writes of registers whose fields are RW (R25) -/
namespace Sys2Proof.Machine
open Dev

theorem testBit_mergeBits {old v m i : Nat} (hi : i < 32) :
    (mergeBits old v m).testBit i = if m.testBit i then v.testBit i else old.testBit i := by
  have low : m % 2 ^ 32 < 2 ^ 32 := Nat.mod_lt _ (by decide)
  have flip : (0xFFFFFFFF - m % 2 ^ 32).testBit i = !m.testBit i := by
    rw [show 0xFFFFFFFF - m % 2 ^ 32 = 2 ^ 32 - (m % 2 ^ 32 + 1) by omega, Nat.testBit_two_pow_sub_succ low, decide_eq_true hi,
      Bool.true_and, Nat.testBit_mod_two_pow, decide_eq_true hi, Bool.true_and]
  rw [mergeBits, Nat.testBit_or, Nat.testBit_and, Nat.testBit_and, flip]
  cases m.testBit i <;> simp

/-- Two numbers agree on a word's mask when each bit of it is the same in both. -/
theorem and_eq_and {a b m : Nat} (fits : m < 2 ^ 32) (same : ∀ i < 32, m.testBit i = true → a.testBit i = b.testBit i) :
    a &&& m = b &&& m := by
  refine Nat.eq_of_testBit_eq fun i => ?_
  rw [Nat.testBit_and, Nat.testBit_and]
  cases mask : m.testBit i with
  | false => rw [Bool.and_false, Bool.and_false]
  | true =>
    have inside : i < 32 := by
      by_contra out
      have clear := Nat.testBit_lt_two_pow (fits.trans_le (Nat.pow_le_pow_right (by decide) (Nat.not_lt.1 out)))
      exact absurd mask (by simp [clear])
    rw [same i inside mask]

/-- The bits that a merge names hold what is written. -/
theorem mergeBits_and {old v m : Nat} (fits : m < 2 ^ 32) : mergeBits old v m &&& m = v &&& m :=
  and_eq_and fits fun _ inside mask => by rw [testBit_mergeBits inside, if_pos mask]

theorem mergeBits_nothing_and {old v m : Nat} (fits : m < 2 ^ 32) : mergeBits old v 0 &&& m = old &&& m :=
  and_eq_and fits fun _ inside _ => by rw [testBit_mergeBits inside, if_neg (by simp)]

theorem toNat_ofNat_and {m : Nat} (fits : m < 2 ^ 32) (x : Nat) : (BitVec.ofNat 32 x).toNat &&& m = x &&& m :=
  and_eq_and fits fun _ inside _ => by rw [BitVec.testBit_toNat, BitVec.getLsbD_ofNat, decide_eq_true inside, Bool.true_and]

/-- A register of which the bits of `mask` are RW and no other bit takes anything, which no unit's state locks and whose value is
stored as it is written. -/
structure RwRegister (r : Reg) (i u mask : Nat) : Prop where
  unit : regUnit r i = some u
  fields : ∀ accs ∈ [[Access.rw, .rwl], [.rw, .rwl, .w1s, .wo], [.rw, .rwl, .w1c, .w1s, .wo]], instMask r i accs = mask
  unlocked : instMask r i [.rwl] = 0
  sticky : instMask r i [.w1c] = 0
  fixed : ∀ v, regFix r v = v
  fits : mask < 2 ^ 32

namespace RwRegister
variable {r : Reg} {i u mask : Nat}

theorem passMask_eq (h : RwRegister r i u mask) (d : Dev) (m : Nat) : d.passMask r i u m = m := by
  rw [passMask, h.unlocked, Nat.and_zero, Nat.sub_zero, ite_self]

theorem mask_and (h : RwRegister r i u mask) : mask &&& (2 ^ 32 - 1) = mask := by
  rw [Nat.and_two_pow_sub_one_eq_mod, Nat.mod_eq_of_lt h.fits]

/-- A value that is taken is stored, and what follows the write comes. -/
theorem storeThen_taken (h : RwRegister r i u mask) {d : Dev} {v : Nat}
    (taken : d.regCheck r i (d.regAsked r i v (2 ^ 32 - 1)) = true) (go : Dev → Dev) : ∃ x : Word,
    d.storeThen false r i v (2 ^ 32 - 1) go = go (d.wr r i x) ∧ x.toNat &&& mask = v &&& mask := by
  refine ⟨BitVec.ofNat 32 (d.regMerge r i v (2 ^ 32 - 1) true), ?_, ?_⟩
  · simp only [storeThen, h.unit, regTaken, h.passMask_eq, taken, Bool.or_true, if_true, Bool.false_eq_true, if_false]
  · rw [toNat_ofNat_and h.fits, regMerge, h.fixed, h.sticky, Nat.zero_and, Nat.zero_and, mergeBits_nothing_and h.fits, if_pos rfl,
      h.fields _ (by simp), h.mask_and, mergeBits_and h.fits]

/-- A value that is not taken only counts as rejected. -/
theorem storeThen_rejected (h : RwRegister r i u mask) {d : Dev} {v : Nat} (nonzero : mask ≠ 0)
    (wrong : d.regCheck r i (d.regAsked r i v (2 ^ 32 - 1)) = false) (go : Dev → Dev) :
    d.storeThen false r i v (2 ^ 32 - 1) go = d.rejWr u := by
  have writable : (2 ^ 32 - 1 &&& instMask r i [.rw, .rwl, .w1c, .w1s, .wo] == 0) = false := by
    rw [h.fields _ (by simp), Nat.and_comm, h.mask_and]
    exact beq_eq_false_iff_ne.2 nonzero
  simp only [storeThen, h.unit, regTaken, h.passMask_eq, writable, wrong, Bool.or_false, Bool.false_eq_true, if_false, if_true]

/-- The value that the checks see has the bits that are written. -/
theorem regAsked_and (h : RwRegister r i u mask) (d : Dev) (v : Nat) :
    d.regAsked r i v (2 ^ 32 - 1) &&& mask = v &&& mask := by
  rw [regAsked, h.fields _ (by simp), h.mask_and, mergeBits_and h.fits]

end RwRegister

theorem rwRegister_tbSgCfg : RwRegister .tbSgCfg 0 uTb 3 where
  unit := by decide
  fields := by decide
  unlocked := by decide
  sticky := by decide
  fixed _ := rfl
  fits := by decide

theorem rwRegister_tbSgBase {w : Fin 4} (word : w ≠ 3) : RwRegister .tbSgBase w uTb (regBits .tbSgBase w) where
  unit := by revert w; decide
  fields := by revert w; decide
  unlocked := by revert w; decide
  sticky := by revert w; decide
  fixed _ := rfl
  fits := by revert w; decide

theorem regCheck_tbSgCfg (d : Dev) (i v : Nat) : d.regCheck .tbSgCfg i v = true := rfl

theorem regCheck_tbSgBase (d : Dev) (i v : Nat) :
    d.regCheck .tbSgBase i v = (decide (i ≠ 0) || decide (v % 2 ^ 30 ≤ 999999999)) := by
  simp [regCheck]

/-- The nanoseconds that the check of the base's first word sees are those written. -/
theorem regAsked_tbSgBase_ns (d : Dev) (v : Nat) : d.regAsked .tbSgBase 0 v (2 ^ 32 - 1) % 2 ^ 30 = v % 2 ^ 30 := by
  have low := (rwRegister_tbSgBase (w := 0) (by decide)).regAsked_and d v
  rwa [show regBits .tbSgBase (0 : Fin 4) = 2 ^ 30 - 1 from rfl, Nat.and_two_pow_sub_one_eq_mod,
    Nat.and_two_pow_sub_one_eq_mod] at low

end Sys2Proof.Machine
end
section
/-! ### The rule window, the stream gates and the recovery functions as commands -/
namespace Sys2Proof.Machine
open Dev

section Exec
variable {s : State}

theorem exec_ruleWindowWrite (w : Fin 35) (v : Word) : exec (.ruleWindowWrite w v) s = s.logic fun d => d.ruleWrite w v.toNat := rfl
theorem exec_streamGateEntryStart (g : Fin 1024) : exec (.streamGateEntryStart g) s = s.logic fun d => d.gateEntryStart g := rfl
theorem exec_streamGateBaseWrite (w : Fin 4) (v : Word) : exec (.streamGateBaseWrite w v) s = s.logic fun d =>
    if w.val < 3 then d.storeThen false .tbSgBase w v.toNat (2 ^ 32 - 1) gateRestartAll
    else d.storeThen false .tbSgCfg 0 v.toNat (2 ^ 32 - 1) gateRestartAll := rfl
theorem exec_seqRecoveryReset (r : Fin 512) : exec (.seqRecoveryReset r) s = s.logic fun d => d.seqReset r := rfl

end Exec

section Runs
variable {s : State} (on : s.On) {P : Dev → Prop}
include on

theorem runs_ruleWindowWrite {w : Fin 35} {v : Word} {e : Dev} (does : s.dev.ruleWrite w v.toNat = e) (hp : P e) :
    Runs (.ruleWindowWrite w v) s P :=
  runs_logic_of_held on (exec_ruleWindowWrite ..) (ruleWrite_held ..) (by rwa [does])

/-- A key, mask or action word of a rule that is open to writes: what the window shows afterwards, and what stays. -/
theorem runs_ruleWindowWrite_word {w : Fin 35} {v : Word} {n : Nat} (sel : s.dev.f clsRuleSel_INDEX 0 = n)
    (invalid : (s.dev.rule n).valid = false) (free : s.dev.setDraining (s.dev.rule n).pset = false) (word : w.val < 34)
    (ok : w.val = 32 → actionOk v.toNat = true) : Runs (.ruleWindowWrite w v) s fun d => (d.rule n).valid = false ∧
      ruleWord (d.rule n) w = ruleStored w v.toNat ∧
      (∀ k ∈ List.range 35, k ≠ w.val → ruleWord (d.rule n) k = ruleWord (s.dev.rule n) k) ∧
      s.dev.Only d { parts := [.path] } := by
  refine runs_ruleWindowWrite on (ruleWrite_word sel invalid free word ok) ⟨?_, ?_, fun k _ other => ?_, only_setRule ..⟩
  · rw [rule_setRule_same, ruleSetWord_valid, invalid]
  · rw [rule_setRule_same, ruleWord_ruleSetWord _ word v.isLt, if_pos rfl]
  · rw [rule_setRule_same, ruleWord_ruleSetWord _ word v.isLt, if_neg other]

theorem runs_streamGateEntryStart {g : Fin 1024} {e : Dev} (does : s.dev.gateEntryStart g = e) (hp : P e) :
    Runs (.streamGateEntryStart g) s P :=
  runs_logic_of_held on (exec_streamGateEntryStart ..) (gateEntryStart_held ..) (by rwa [does])

/-- The next entry of a gate's list: the gate shows it, and its place in the list goes on. -/
theorem runs_streamGateEntryStart_next {g : Fin 1024} {k i : Nat} (list : gateLen (s.dev.directAt 6 g) ≠ 0)
    (entry : Sparse.get (fun _ => 0) s.dev.tab.gatePos g.val % gateLen (s.dev.directAt 6 g) = k)
    (place : gateBase (s.dev.directAt 6 g) + k = i) : Runs (.streamGateEntryStart g) s fun d =>
      bitAt 0 (d.directAt 6 g) = s.dev.b tbSgGclCtl_OPEN i ∧
      bits 63 32 (d.directAt 6 g) = (if s.dev.f tbSgGclCtl_IOM i = 0 then 0xFFFFFFFF else s.dev.f tbSgGclCtl_IOM i) ∧
      Sparse.get (fun _ => 0) d.tab.gatePos g.val = k + 1 ∧ s.dev.Only d { parts := [.tab] } := by
  have fits : s.dev.f tbSgGclCtl_IOM i < 2 ^ 32 := (Nat.mod_lt _ (by decide)).trans_le (by decide)
  obtain ⟨opn, iom⟩ := directAt_gateSet (s.dev.setGatePos g (k + 1)) g (s.dev.b tbSgGclCtl_OPEN i) fits
  refine runs_streamGateEntryStart on (gateEntryStart_next list entry place) ⟨opn, iom, ?_, ?_⟩
  · rw [gatePos_gateSet, gatePos_setGatePos]
  · exact ((within_withTab (.inl (by decide)) _ _).trans (within_withTab (.inl (by decide)) _ _)).only

theorem runs_streamGateBaseWrite {w : Fin 4} {v : Word} {e : Dev} (word : w ≠ 3)
    (does : s.dev.storeThen false .tbSgBase w v.toNat (2 ^ 32 - 1) gateRestartAll = e) (hp : P e) :
    Runs (.streamGateBaseWrite w v) s P := by
  refine runs_logic_of_held on (exec_streamGateBaseWrite ..) ?_ ?_ <;> rw [if_pos (by omega)]
  · exact storeThen_held _ _ _ _ _ _ gateRestartAll_held
  · rwa [does]

theorem runs_streamGateBaseWrite_domain {v : Word} {e : Dev}
    (does : s.dev.storeThen false .tbSgCfg 0 v.toNat (2 ^ 32 - 1) gateRestartAll = e) (hp : P e) :
    Runs (.streamGateBaseWrite 3 v) s P := by
  refine runs_logic_of_held on (exec_streamGateBaseWrite ..) ?_ ?_ <;> rw [if_neg (by decide)]
  · exact storeThen_held _ _ _ _ _ _ gateRestartAll_held
  · rwa [does]

theorem runs_seqRecoveryReset {r : Fin 512} {e : Dev} (does : s.dev.seqReset r = e) (hp : P e) :
    Runs (.seqRecoveryReset r) s P :=
  runs_logic_of_held on (exec_seqRecoveryReset ..) (seqReset_held ..) (by rwa [does])

end Runs

/-- Settles O26: each command is one operation, whose outcomes are the clauses. -/
theorem rulesAndStreams : Obligations.RulesAndStreams := by
  unfold Obligations.RulesAndStreams
  intro s on
  refine ⟨fun w v valid other => ?_, fun w v n sel invalid free word => ?_, fun w v n sel invalid free word ok => ?_,
    fun v wrong => ?_, fun v n sel invalid free free' => ?_, fun g empty => ?_, fun g k i list entry place => ?_,
    fun v wrong => ?_, fun w v word ok => ?_, fun v => ?_, fun r empty => ?_, fun r used => ?_⟩
  · refine runs_ruleWindowWrite on (ruleWrite_rejected (.inl ⟨valid, other.imp ?_ ?_⟩)) rfl
    · exact fun control same => control (Fin.ext same)
    · rw [bitAt_eq_testBit, BitVec.testBit_toNat]
      exact id
  · have low : w.val < 32 := word
    have runs := runs_ruleWindowWrite_word (w := w) (v := v) on sel invalid free (by omega) fun same => absurd same (by omega)
    rwa [ruleStored_plain low] at runs
  · have action : ruleStored w v.toNat = v.toNat &&& (if w = 32 then 0xFFFF7FFF else 0xFFFFFF03) := by
      rcases word with rfl | rfl <;> simp [ruleStored]
    have part : w.val < 34 := by rcases word with rfl | rfl <;> decide
    have runs := runs_ruleWindowWrite_word (v := v) on sel invalid free part fun same => ok (Fin.ext same)
    rwa [action] at runs
  · exact runs_ruleWindowWrite on (ruleWrite_rejected (.inr ⟨rfl, wrong⟩)) rfl
  · refine runs_ruleWindowWrite on (ruleWrite_control sel invalid free free') ?_
    rw [rule_setRule_same, bitAt_eq_testBit, BitVec.testBit_toNat]
  · exact runs_streamGateEntryStart on (gateEntryStart_none empty) rfl
  · exact runs_streamGateEntryStart_next on list entry place
  · have reject : s.dev.regCheck .tbSgBase 0 (s.dev.regAsked .tbSgBase 0 v.toNat (2 ^ 32 - 1)) = false := by
      rw [regCheck_tbSgBase, regAsked_tbSgBase_ns]
      simpa using wrong
    exact runs_streamGateBaseWrite on (by decide)
      ((rwRegister_tbSgBase (w := 0) (by decide)).storeThen_rejected (by decide) reject _) rfl
  · have taken : s.dev.regCheck .tbSgBase w (s.dev.regAsked .tbSgBase w v.toNat (2 ^ 32 - 1)) = true := by
      rw [regCheck_tbSgBase]
      by_cases first : w = 0
      · rw [first, Fin.val_zero, regAsked_tbSgBase_ns]
        simpa using ok first
      · simp [first]
    obtain ⟨x, does, same⟩ := (rwRegister_tbSgBase word).storeThen_taken taken gateRestartAll
    exact runs_streamGateBaseWrite on word does ⟨x, rfl, same⟩
  · obtain ⟨x, does, same⟩ :=
      rwRegister_tbSgCfg.storeThen_taken (d := s.dev) (v := v.toNat) (regCheck_tbSgCfg ..) gateRestartAll
    refine runs_streamGateBaseWrite_domain on does ⟨x, rfl, ?_⟩
    rwa [show 3 = 2 ^ 2 - 1 from rfl, Nat.and_two_pow_sub_one_eq_mod, Nat.and_two_pow_sub_one_eq_mod] at same
  · exact runs_seqRecoveryReset on (seqReset_none empty) rfl
  · refine runs_seqRecoveryReset on (seqReset_any used) ⟨?_, ?_, ?_, ?_⟩
    · rw [directAt_inc, directAt_setDirect_recovery, bitAt_setBits_same]
      rfl
    · rw [directAt_inc, directAt_setDirect_recovery, bits_setBits_above (by decide) (by decide), bits_setBits (by decide),
        Nat.zero_mod]
    · rw [ctr_inc_same, ctr_setDirect]
    · exact ((within_withTab (.inl List.mem_cons_self) _ _).trans (.inc _ (.inl List.mem_cons_self))).only

end Sys2Proof.Machine
end
section
/-! ### A counterexample of background table work: a request for power that waits is counted as deferred (R68, R209) -/
namespace Sys2Proof.Machine
open Dev

theorem exec_rehash (i : Fin 2) (t : Fin 16) (idx : BitVec 16) (s : State) : exec (.rehash i t idx) s = s.logic fun d =>
    (if d.b tbCmd_BUSY i.val then d else d.sf tbCmd_INDEX i.val idx.toNat).tbRehashCmd i.val t.val := rfl

/-- The VCORE account with 2100 of its 2500 mW granted to a LEAVE: a REHASH's 450 mW fit the budget, but not beside the grant. -/
def vcorePartlyGranted : State where
  dev := { pa := [(0, { grants := [⟨.token 0 0, 2100, 1⟩] })], paNext := 2 }

/-- Refutes O23: a REHASH whose request for power has to wait counts in MdPaDeferred, a counter that the seventh clause leaves
alone. -/
theorem not_backgroundTableWork : ¬ Obligations.BackgroundTableWork := by
  unfold Obligations.BackgroundTableWork
  intro h
  have on : vcorePartlyGranted.On := rfl
  obtain ⟨-, -, -, -, -, -, rehash, -⟩ := h vcorePartlyGranted 0 4 0 on
  have asked := rehash (by decide +kernel) (.inr (.inl rfl)) (by decide +kernel) (by decide +kernel)
  obtain ⟨-, -, -, only⟩ := (runs_logic_iff on (exec_rehash ..)).1 asked
  have uncounted := only.ctr .mdPaDeferred 0 (by simp [Foot.upTo, Foot.hasCtr])
  exact absurd uncounted (by decide +kernel)

end Sys2Proof.Machine
end
section
/-! ### Entries of the L2 table, and where an insertion puts one (R196, R199) -/
namespace Sys2Proof.Machine

theorem tbEnt_tbPut_same (ents : Sparse Nat) (l e : Nat) : tbEnt (tbPut ents l e) l = e := Sparse.get_set_same _ _ _ _

theorem tbEnt_tbPut_ne (ents : Sparse Nat) {l k : Nat} (h : l ≠ k) (e : Nat) : tbEnt (tbPut ents l e) k = tbEnt ents k :=
  Sparse.get_set_ne _ _ h _

/-! #### Fields of an entry -/

theorem l2Port_setPort {p : Nat} (fits : p < 128) (e : Nat) : l2Port (setBits 70 64 p e) = p :=
  (bits_setBits (by decide)).trans (Nat.mod_eq_of_lt fits)

theorem l2Stamp_setStamp {n : Nat} (fits : n < 2 ^ 32) (e : Nat) : l2Stamp (setBits 127 96 n e) = n :=
  (bits_setBits (by decide)).trans (Nat.mod_eq_of_lt fits)

theorem l2Stamp_setBits {hi lo : Nat} (h : lo ≤ hi) (below : hi < 96) (v e : Nat) : l2Stamp (setBits hi lo v e) = l2Stamp e :=
  bits_setBits_above h below

theorem l2Port_setBits {hi lo : Nat} (h : lo ≤ hi) (above : 70 < lo) (v e : Nat) : l2Port (setBits hi lo v e) = l2Port e :=
  bits_setBits_below h (by decide) above

theorem l2Locked_setLocked (v e : Nat) : l2Locked (setBits 72 72 v e) = bitAt 0 v := bitAt_setBits_same 72 v e

theorem tbIdent_l2 (e : Nat) : tbIdent 0 e = bits 59 0 e := by simp [tbIdent, bits]

theorem tbIdent_l2_setBits {hi lo : Nat} (h : lo ≤ hi) (above : 59 < lo) (v e : Nat) :
    tbIdent 0 (setBits hi lo v e) = tbIdent 0 e := by
  rw [tbIdent_l2, tbIdent_l2, bits_setBits_below h (by decide) above]

/-! #### Relocation -/

section Place
variable {t : Nat} {seeds : Nat × Nat} {ents : Sparse Nat}

theorem tbEnt_tbFree {l k : Nat} (h : tbFree t ents l = some k) : tbEnt ents k = 0 := by
  simpa using List.find?_some h

theorem tbEnt_tbOther {l k : Nat} (h : tbOther t seeds ents l = some k) : tbEnt ents k = 0 := tbEnt_tbFree h

/-- A relocation chain leaves alone an entry that an earlier step of it placed: it takes no slot of `placed`, and the slot that
takes the last occupant is free. -/
theorem tbChain_keeps {n k b e l : Nat} {placed : List Nat} {r : Sparse Nat × Nat}
    (h : tbChain t seeds n k b e ents placed = some r) (mine : l ∈ placed) (used : tbEnt ents l ≠ 0) :
    tbEnt r.1 l = tbEnt ents l := by
  induction n generalizing k b e ents placed r with
  | zero => simp [tbChain] at h
  | succ n ih =>
    rw [tbChain] at h
    split at h
    next x found =>
      obtain ⟨fresh, y, other⟩ : x ∉ placed ∧ ∃ y, tbOther t seeds ents x = some y := by
        simpa [Option.isSome_iff_exists] using List.find?_some found
      have apart : y ≠ l := fun same => used (same ▸ tbEnt_tbOther other)
      cases h
      rw [other, Option.getD_some, tbEnt_tbPut_ne _ (ne_of_mem_of_not_mem mine fresh).symm, tbEnt_tbPut_ne _ apart]
    next =>
      split at h
      · exact absurd h (by simp)
      next x found =>
        have fresh : x ∉ placed := by simpa using List.find?_some found
        have kept : tbEnt (tbPut ents x e) l = tbEnt ents l := tbEnt_tbPut_ne _ (ne_of_mem_of_not_mem mine fresh).symm e
        obtain ⟨r', chain, rfl⟩ := Option.map_eq_some_iff.1 h
        exact (ih chain (List.mem_cons_of_mem _ mine) (by rwa [kept])).trans kept

/-- The slot that a chain answers holds the entry it had to place. -/
theorem tbEnt_tbChain {n k b e : Nat} {placed : List Nat} {r : Sparse Nat × Nat} (used : e ≠ 0)
    (h : tbChain t seeds n k b e ents placed = some r) : tbEnt r.1 r.2 = e := by
  cases n with
  | zero => simp [tbChain] at h
  | succ n =>
    rw [tbChain] at h
    split at h
    next =>
      cases h
      exact tbEnt_tbPut_same ..
    next =>
      split at h
      · exact absurd h (by simp)
      next x _ =>
        obtain ⟨r', chain, rfl⟩ := Option.map_eq_some_iff.1 h
        have put := tbEnt_tbPut_same ents x e
        exact (tbChain_keeps chain List.mem_cons_self (by rwa [put])).trans put

/-- The slot that an insertion answers holds the entry. -/
theorem tbEnt_tbPlace {max e : Nat} {r : Sparse Nat × Nat} (used : e ≠ 0) (h : tbPlace t seeds max ents e = some r) :
    tbEnt r.1 r.2 = e := by
  unfold tbPlace at h
  dsimp only at h
  split at h
  next =>
    cases h
    exact tbEnt_tbPut_same ..
  next =>
    split at h
    next =>
      cases h
      exact tbEnt_tbPut_same ..
    next =>
      split at h
      next chain =>
        cases h
        exact tbEnt_tbChain used chain
      next => exact tbEnt_tbChain used h

end Place

end Sys2Proof.Machine
end
section
/-! ### Changes of the L2 table while it has no alternate version (R192, R209) -/
namespace Sys2Proof.Machine
namespace Dev

/-- Without an alternate version there is nothing to bring in line with the current one. -/
theorem tbSync_of_no_alt {d : Dev} {t : Nat} (alone : (d.tb t).alt = none) (e : Nat) : d.tbSync t e = d := by
  simp [tbSync, tbMirrors, alone]

theorem tbCur_inc (d : Dev) (c : Ctr) (i t : Nat) : (d.inc c i).tbCur t = d.tbCur t := by
  simp only [tbCur, tb, inc_tab]

theorem tbCur_setTbCur_l2 (d : Dev) (ents : Sparse Nat) (l : Nat) : (d.setTbCur 0 ents l).tbCur 0 = ents := rfl

/-- The tables with other lock records. -/
def withLocks (d : Dev) (x : List Nat) : Dev := { d with tab := { d.tab with locks := x } }

theorem within_withLocks {F : Foot} (tab : F.hasPart .tab) (d : Dev) (x : List Nat) : d.Within (d.withLocks x) F := within_withTab tab d _

theorem tbCur_withLocks (d : Dev) (x : List Nat) (t : Nat) : (d.withLocks x).tbCur t = d.tbCur t := rfl

section
variable {d : Dev} (alone : (d.tb 0).alt = none)
include alone

theorem tbSync_setTbCur_l2 (ents : Sparse Nat) (l e : Nat) : (d.setTbCur 0 ents l).tbSync 0 e = d.setTbCur 0 ents l :=
  tbSync_of_no_alt (d := d.setTbCur 0 ents l) (t := 0) alone e

theorem tbRewrite_l2 (l e : Nat) : d.tbRewrite 0 l e = d.setTbCur 0 (tbPut (d.tbCur 0) l e) l :=
  tbSync_setTbCur_l2 alone _ _ _

theorem tbEnt_tbRewrite_l2 (l e : Nat) : tbEnt ((d.tbRewrite 0 l e).tbCur 0) l = e := by
  rw [tbRewrite_l2 alone, tbCur_setTbCur_l2, tbEnt_tbPut_same]

theorem within_tbRewrite_l2 {F : Foot} (tab : F.hasPart .tab) (l e : Nat) : d.Within (d.tbRewrite 0 l e) F := by
  rw [tbRewrite_l2 alone]
  exact within_withTab tab d _

theorem locks_tbRewrite_l2 (l e : Nat) : (d.tbRewrite 0 l e).tab.locks = d.tab.locks := by
  rw [tbRewrite_l2 alone]
  rfl

/-- Emptying a location changes the version, and where it releases a lock the records. -/
theorem tbRemove_l2 (l : Nat) : ∃ x, d.tbRemove 0 l = (d.setTbCur 0 (tbPut (d.tbCur 0) l 0) l).withLocks x := by
  unfold tbRemove
  dsimp only
  rw [tbSync_of_no_alt (by split_ifs <;> exact alone)]
  split_ifs
  · exact ⟨_, rfl⟩
  · exact ⟨d.tab.locks, rfl⟩

theorem tbEnt_tbRemove_l2 (l : Nat) : tbEnt ((d.tbRemove 0 l).tbCur 0) l = 0 := by
  obtain ⟨x, does⟩ := tbRemove_l2 alone l
  rw [does, tbCur_withLocks, tbCur_setTbCur_l2, tbEnt_tbPut_same]

theorem within_tbRemove_l2 {F : Foot} (tab : F.hasPart .tab) (l : Nat) : d.Within (d.tbRemove 0 l) F := by
  obtain ⟨x, does⟩ := tbRemove_l2 alone l
  rw [does]
  exact within_withTab tab d _

/-- A new key in a slot that is found: the version that the insertion makes becomes the current one. -/
theorem tbCur_tbInsertNew_l2 {e : Nat} {r : Sparse Nat × Nat} (slot : tbPlace 0 (d.tbSeeds 0) d.maxReloc (d.tbCur 0) e = some r) :
    (d.tbInsertNew 0 e).2.tbCur 0 = r.1 := by
  rw [tbInsertNew, slot]
  dsimp only
  rw [tbSync_setTbCur_l2 (d := d.tbMoved 0 r.1) alone, tbCur_setTbCur_l2]

end
end Dev
end Sys2Proof.Machine
end
section
/-! ### The learn unit: what it does with a learn, and the expiry of a lock (R200, R202) -/
namespace Sys2Proof.Machine
namespace Dev

/-! #### A change of a table counts nothing of the learn unit -/

theorem ctrs_paShow (d : Dev) (a : Nat) : (d.paShow a).ctrs = d.ctrs := by
  unfold paShow
  split <;> simp

theorem ctrs_paRelease (d : Dev) (a : Nat) (who : PaFor) : (d.paRelease a who).ctrs = d.ctrs := ctrs_paShow _ a

theorem ctrs_bgShow (d : Dev) (t : Nat) : (d.bgShow t).ctrs = d.ctrs :=
  foldl_keeps (fun e : Dev => e.ctrs = d.ctrs) _ (fun e k same => by simpa using same) _ rfl

theorem ctrs_bgClear (d : Dev) (t : Nat) : (d.bgClear t).ctrs = d.ctrs := by
  unfold bgClear
  split <;> rfl

theorem ctrs_bgFail (d : Dev) (t res : Nat) : (d.bgFail t res).ctrs = d.ctrs := by
  rw [bgFail, sf_ctrs, ctrs_bgShow, ctrs_paRelease, ctrs_paRelease, ctrs_bgClear]

/-- Bringing the alternate version in line counts at most the power and the log that its event brings. -/
theorem ctr_tbSync {c : Ctr} (h : c ∉ raiseCtrs) (d : Dev) (t e i : Nat) : (d.tbSync t e).ctr c i = d.ctr c i := by
  have failed (own : Nat) : (((d.raise 19 0 t).tableTxnDrop own).bgFail own resNoRoom).ctr c i = d.ctr c i := by
    rw [ctr, ctrs_bgFail]
    exact ctr_raise h d 19 0 t i
  unfold tbSync
  dsimp only
  split
  · split
    · rfl
    · split
      · rfl
      · rfl
      · rfl
      · split
        · rfl
        · split
          · rfl
          · exact failed _
  · rfl

theorem ctr_tbRewrite {c : Ctr} (h : c ∉ raiseCtrs) (d : Dev) (t l e i : Nat) : (d.tbRewrite t l e).ctr c i = d.ctr c i :=
  ctr_tbSync h (d.setTbCur t (tbPut (d.tbCur t) l e) l) t e i

theorem ctr_tbRemove {c : Ctr} (h : c ∉ raiseCtrs) (d : Dev) (t l i : Nat) : (d.tbRemove t l).ctr c i = d.ctr c i := by
  unfold tbRemove
  dsimp only
  rw [ctr_tbSync h]
  split_ifs <;> rfl

theorem ctr_tbInsertNew {t e : Nat} {r : Sparse Nat × Nat} {d : Dev}
    (slot : tbPlace t (d.tbSeeds t) d.maxReloc (d.tbCur t) e = some r) {c : Ctr} (h : c ∉ raiseCtrs) (i : Nat) :
    (d.tbInsertNew t e).2.ctr c i = d.ctr c i := by
  rw [tbInsertNew, slot]
  exact ctr_tbSync h ..

theorem tab_raise (d : Dev) (s inst info : Nat) : (d.raise s inst info).tab = d.tab := part_raise (p := .tab) (by decide) d s inst info

theorem tbCur_raise (d : Dev) (s inst info t : Nat) : (d.raise s inst info).tbCur t = d.tbCur t := by
  simp only [tbCur, tb, tab_raise]

theorem ctr_tbNoRoom (d : Dev) (t : Nat) : (d.tbNoRoom t).ctr .tbNoRoom 0 = d.ctr .tbNoRoom 0 + 1 := by
  rw [tbNoRoom, ctr_raise (by decide), ctr_inc_same]

/-- The device with other learns waiting. -/
def withLearns (d : Dev) (q : List Learn) : Dev := { d with tab := { d.tab with learnQ := q } }

theorem within_withLearns {F : Foot} (tab : F.hasPart .tab) (d : Dev) (q : List Learn) : d.Within (d.withLearns q) F :=
  within_withTab tab d _

theorem learnNext_cons {d : Dev} {x : Learn} {q : List Learn} (queue : d.tab.learnQ = x :: q) :
    d.learnNext = (d.withLearns q).learnApply x := by
  rw [learnNext, queue]
  rfl

/-! #### A new key -/

/-- The entry that a new key gets: valid, HIT, with the port and the stamp of the learn. -/
def learnEntry (x : Learn) : Nat := x.key % 2 ^ 60 + x.port % 128 * 2 ^ 64 + 2 ^ 73 + 2 ^ 79 + x.stamp % 2 ^ 32 * 2 ^ 96

theorem learnEntry_ne_zero (x : Learn) : learnEntry x ≠ 0 := by
  unfold learnEntry
  omega

section New
variable {d : Dev} {x : Learn} (new : tbFind 0 (d.tbSeeds 0) (d.tbCur 0) x.key = none)
include new

theorem learnApply_limit (low : x.port ≤ 24) (limited : d.f tbL2PortCfg_LIMIT x.port ≠ 0)
    (full : d.f tbL2PortCfg_LIMIT x.port ≤ d.l2Dyn x.port) : d.learnApply x = d.inc .tbLearnLimit 0 := by
  simp only [learnApply, new]
  exact if_pos ⟨low, limited, full⟩

variable (room : 24 < x.port ∨ d.f tbL2PortCfg_LIMIT x.port = 0 ∨ d.l2Dyn x.port < d.f tbL2PortCfg_LIMIT x.port)
include room

theorem learnApply_inserts {r : Sparse Nat × Nat} (slot : tbPlace 0 (d.tbSeeds 0) d.maxReloc (d.tbCur 0) (learnEntry x) = some r) :
    d.learnApply x = (d.tbInsertNew 0 (learnEntry x)).2.inc .tbLearnNew 0 := by
  simp only [learnApply, new]
  rw [if_neg (by omega)]
  simp only [learnEntry] at slot
  simp only [learnEntry, tbInsertNew, slot]

theorem learnApply_noRoom (full : tbPlace 0 (d.tbSeeds 0) d.maxReloc (d.tbCur 0) (learnEntry x) = none) :
    d.learnApply x = d.tbNoRoom 0 := by
  simp only [learnApply, new]
  rw [if_neg (by omega)]
  simp only [learnEntry] at full
  simp only [tbInsertNew, full]

end New

/-! #### A key that the table holds -/

section Known
variable {d : Dev} {x : Learn} {k e : Nat} (known : tbFind 0 (d.tbSeeds 0) (d.tbCur 0) x.key = some k)
  (entry : tbEnt (d.tbCur 0) k = e)
include known entry

theorem learnApply_static (static : l2Static e = true) (other : l2Port e ≠ x.port) : d.learnApply x = d.inc .tbLearnStatic 0 := by
  simp [learnApply, known, entry, static, other]

theorem learnApply_earlier (dynamic : l2Static e = false) (same : l2Port e = x.port)
    (earlier : stampDiff x.stamp (l2Stamp e) < 0) : d.learnApply x = d.tbRewrite 0 k (setBits 127 96 x.stamp e) := by
  simp [learnApply, known, entry, dynamic, same, earlier]

theorem learnApply_keeps (dynamic : l2Static e = false) (same : l2Port e = x.port)
    (notEarlier : ¬ stampDiff x.stamp (l2Stamp e) < 0) : d.learnApply x = d := by
  simp [learnApply, known, entry, dynamic, same, notEarlier]

variable (dynamic : l2Static e = false) (other : l2Port e ≠ x.port)
include dynamic other

theorem learnApply_locked (locked : l2Locked e = true) : d.learnApply x = d.inc .tbLearnLocked 0 := by
  simp [learnApply, known, entry, dynamic, other, locked]

variable (free : l2Locked e = false)
include free

theorem learnApply_flap
    (inside : (stampDiff x.stamp (l2Stamp e)).natAbs * 1024 < d.f tbL2Cfg_FLAP_WIN_US 0 * 1000) :
    d.learnApply x = d.learnFlap k e x := by
  simp [learnApply, known, entry, dynamic, other, free, inside]

variable (outside : d.f tbL2Cfg_FLAP_WIN_US 0 * 1000 ≤ (stampDiff x.stamp (l2Stamp e)).natAbs * 1024)
include outside

theorem learnApply_move (later : 0 < stampDiff x.stamp (l2Stamp e)) : d.learnApply x =
    (d.tbRewrite 0 k (setBits 70 64 x.port (setBits 127 96 x.stamp (setBits 74 74 0 e)))).inc .tbLearnMove 0 := by
  simp [learnApply, known, entry, dynamic, other, free, Nat.not_lt.2 outside, later]

theorem learnApply_stale (notLater : stampDiff x.stamp (l2Stamp e) ≤ 0) : d.learnApply x = d.inc .tbLearnStale 0 := by
  simp [learnApply, known, entry, dynamic, other, free, Nat.not_lt.2 outside, Int.not_lt.2 notLater]

end Known

/-- What a move leaves: the entry with the port and the stamp of the learn, the move counted. -/
theorem learnApply_move_laws {d : Dev} {x : Learn} (alone : (d.tb 0).alt = none) (port : x.port < 128) (stamp : x.stamp < 2 ^ 32)
    (k e : Nat) {d' : Dev}
    (moved : d' = (d.tbRewrite 0 k (setBits 70 64 x.port (setBits 127 96 x.stamp (setBits 74 74 0 e)))).inc .tbLearnMove 0) :
    d'.ctr .tbLearnMove 0 = d.ctr .tbLearnMove 0 + 1 ∧ l2Port (tbEnt (d'.tbCur 0) k) = x.port ∧
      l2Stamp (tbEnt (d'.tbCur 0) k) = x.stamp ∧ d.Within d' { ctrs := [(.tbLearnMove, 0)], parts := [.tab] } := by
  rw [moved, tbCur_inc, tbEnt_tbRewrite_l2 alone, l2Port_setPort port, l2Stamp_setBits (by decide) (by decide),
    l2Stamp_setStamp stamp, ctr_inc_same, ctr_tbRewrite (by decide)]
  exact ⟨rfl, rfl, rfl, (within_tbRewrite_l2 alone (.inl List.mem_cons_self) _ _).trans (.inc _ (.inl List.mem_cons_self))⟩

/-- The entry that a flap leaves before its lock: that of the earlier stamp. -/
def flapEntry (e : Nat) (x : Learn) : Nat :=
  if stampDiff x.stamp (l2Stamp e) < 0 then setBits 70 64 x.port (setBits 127 96 x.stamp e) else e

theorem tbIdent_flapEntry (e : Nat) (x : Learn) : tbIdent 0 (flapEntry e x) = tbIdent 0 e := by
  unfold flapEntry
  split_ifs
  · rw [tbIdent_l2_setBits (by decide) (by decide), tbIdent_l2_setBits (by decide) (by decide)]
  · rfl

theorem l2Port_flapEntry {x : Learn} (fits : x.port < 128) (e : Nat) :
    l2Port (flapEntry e x) = if stampDiff x.stamp (l2Stamp e) < 0 then x.port else l2Port e := by
  rw [flapEntry, apply_ite l2Port, l2Port_setPort fits]

theorem l2Stamp_flapEntry {x : Learn} (fits : x.stamp < 2 ^ 32) (e : Nat) :
    l2Stamp (flapEntry e x) = if stampDiff x.stamp (l2Stamp e) < 0 then x.stamp else l2Stamp e := by
  rw [flapEntry, apply_ite l2Stamp, l2Stamp_setBits (by decide) (by decide), l2Stamp_setStamp fits]

/-- A flap where a lock record is free. -/
theorem learnFlap_locks {d : Dev} (free : d.tab.locks.length < 256) (k e : Nat) (x : Learn) : d.learnFlap k e x =
    (((d.withLocks (d.tab.locks ++ [tbIdent 0 e])).tbRewrite 0 k (setBits 72 72 1 (flapEntry e x))).inc .tbLearnFlap 0).raise 18 0 0 := by
  rw [← tbIdent_flapEntry e x]
  simp [learnFlap, flapEntry, withLocks, free]

/-- What a flap leaves: the entry of the earlier stamp, locked, with a record; the flap counted and raised. -/
theorem learnFlap_laws {d : Dev} {x : Learn} (alone : (d.tb 0).alt = none) (free : d.tab.locks.length < 256) (port : x.port < 128)
    (stamp : x.stamp < 2 ^ 32) (k e : Nat) :
    (d.learnFlap k e x).ctr .tbLearnFlap 0 = d.ctr .tbLearnFlap 0 + 1 ∧ l2Locked (tbEnt ((d.learnFlap k e x).tbCur 0) k) = true ∧
      (d.learnFlap k e x).tab.locks = d.tab.locks ++ [tbIdent 0 e] ∧
      l2Port (tbEnt ((d.learnFlap k e x).tbCur 0) k) = (if stampDiff x.stamp (l2Stamp e) < 0 then x.port else l2Port e) ∧
      l2Stamp (tbEnt ((d.learnFlap k e x).tbCur 0) k) = (if stampDiff x.stamp (l2Stamp e) < 0 then x.stamp else l2Stamp e) ∧
      d.Only (d.learnFlap k e x) { ctrs := [(.tbLearnFlap, 0)], parts := [.tab], events := true } := by
  rw [learnFlap_locks free]
  have alone : ((d.withLocks (d.tab.locks ++ [tbIdent 0 e])).tb 0).alt = none := alone
  have now := tbEnt_tbRewrite_l2 alone k (setBits 72 72 1 (flapEntry e x))
  rw [tbCur_raise, tab_raise, tbCur_inc, now, inc_tab, locks_tbRewrite_l2 alone]
  refine ⟨?_, l2Locked_setLocked 1 _, rfl, ?_, ?_, ?_⟩
  · rw [ctr_raise (by decide), ctr_inc_same, ctr_tbRewrite (by decide)]
    rfl
  · rw [l2Port_setBits (by decide) (by decide), l2Port_flapEntry port]
  · rw [l2Stamp_setBits (by decide) (by decide), l2Stamp_flapEntry stamp]
  · exact (((within_withLocks (.inl List.mem_cons_self) _ _).trans (within_tbRewrite_l2 alone (.inl List.mem_cons_self) _ _)).trans
      (.inc _ (.inl List.mem_cons_self))).thenOnly (only_raise_of_events rfl ..)

/-- The record that expires goes, and its entry is unlocked. -/
theorem lockExpire_unlocks {d : Dev} {key k : Nat} (held : key ∈ d.tab.locks)
    (known : tbFind 0 (d.tbSeeds 0) (d.tbCur 0) key = some k) : d.lockExpire key =
      (d.withLocks (d.tab.locks.filter (· != key))).tbRewrite 0 k (setBits 72 72 0 (tbEnt (d.tbCur 0) k)) := by
  unfold lockExpire
  rw [if_pos (by simpa using held)]
  dsimp only
  split
  next l found =>
    obtain rfl : k = l := Option.some.inj (known.symm.trans found)
    rfl
  next found => exact absurd (known.symm.trans found) (by simp)

/-- What an expiry leaves: the entry unlocked, its record gone. -/
theorem lockExpire_laws {d : Dev} {key k : Nat} (held : key ∈ d.tab.locks)
    (known : tbFind 0 (d.tbSeeds 0) (d.tbCur 0) key = some k) (alone : (d.tb 0).alt = none) :
    l2Locked (tbEnt ((d.lockExpire key).tbCur 0) k) = false ∧ (d.lockExpire key).tab.locks = d.tab.locks.filter (· != key) ∧
      d.Within (d.lockExpire key) { parts := [.tab] } := by
  rw [lockExpire_unlocks held known]
  have alone : ((d.withLocks (d.tab.locks.filter (· != key))).tb 0).alt = none := alone
  refine ⟨?_, ?_, ?_⟩
  · rw [tbEnt_tbRewrite_l2 alone, l2Locked_setLocked]
    rfl
  · rw [locks_tbRewrite_l2 alone]
    rfl
  · exact (within_withLocks (.inl List.mem_cons_self) _ _).trans (within_tbRewrite_l2 alone (.inl List.mem_cons_self) _ _)

theorem lockExpire_none {d : Dev} (empty : d.tab.locks = []) (key : Nat) : d.lockExpire key = d := by
  simp [lockExpire, empty]

/-! #### The logic side stays out of reset -/

theorem learnFlap_held (d : Dev) (l e : Nat) (x : Learn) : (d.learnFlap l e x).mg.held = d.mg.held := by
  unfold learnFlap
  dsimp only
  split_ifs <;> simp

theorem learnApply_held (d : Dev) (x : Learn) : (d.learnApply x).mg.held = d.mg.held := by
  unfold learnApply
  split
  · dsimp only
    split
    · simp
    · split
      next inserted => rw [inc_mg, ← tbInsertNew_held d 0, inserted]
      next inserted => rw [← tbInsertNew_held d 0, inserted]
  · dsimp only
    split_ifs <;> simp [learnFlap_held]

theorem learnNext_held (d : Dev) : d.learnNext.mg.held = d.mg.held := by
  unfold learnNext
  split
  · rfl
  · exact learnApply_held ..

theorem lockExpire_held (d : Dev) (key : Nat) : (d.lockExpire key).mg.held = d.mg.held := by
  unfold lockExpire
  dsimp only
  repeat' split
  all_goals simp

end Dev
end Sys2Proof.Machine
end
section
/-! ### The sweeper: a visit whose memory check finds nothing (R205) -/
namespace Sys2Proof.Machine
namespace Dev

/-! #### Counting nothing -/

theorem ctr_incBy_zero (d : Dev) (c c' : Ctr) (i i' : Nat) : (d.incBy c i 0).ctr c' i' = d.ctr c' i' := by
  by_cases same : c = c' ∧ i = i'
  · obtain ⟨rfl, rfl⟩ := same
    simp [incBy, ctr_setCtr_same]
  · exact ctr_setCtr_ne d (by tauto) _

theorem within_incBy_zero (d : Dev) (c : Ctr) (i : Nat) (F : Foot) : d.Within (d.incBy c i 0) F :=
  ⟨fun _ _ _ => by simp only [rd, incBy_regs], fun c' i' _ => ctr_incBy_zero d c c' i i', fun p _ => by cases p <;> simp [Part.same]⟩

@[simp] theorem tbCur_incBy (d : Dev) (c : Ctr) (i n t : Nat) : (d.incBy c i n).tbCur t = d.tbCur t := by
  simp only [tbCur, tb, incBy_tab]

@[simp] theorem tbBad_incBy (d : Dev) (c : Ctr) (i n t l : Nat) : (d.incBy c i n).tbBad t l = d.tbBad t l := by
  simp only [tbBad, incBy_tab]

@[simp] theorem stampNow_incBy (d : Dev) (c : Ctr) (i n : Nat) : (d.incBy c i n).stampNow = d.stampNow := by
  simp only [stampNow, ns, incBy_raw, incBy_time]

/-! #### A visit -/

/-- The device with the sweeper at location `l`. -/
def withSweep (d : Dev) (l : Nat) : Dev := { d with tab := { d.tab with sweep := some l } }

theorem within_withSweep {F : Foot} (tab : F.hasPart .tab) (d : Dev) (l : Nat) : d.Within (d.withSweep l) F := within_withTab tab d _

theorem ctr_withSweep (d : Dev) (l : Nat) (c : Ctr) (i : Nat) : (d.withSweep l).ctr c i = d.ctr c i := rfl

theorem tbCur_withSweep (d : Dev) (l t : Nat) : (d.withSweep l).tbCur t = d.tbCur t := rfl

/-- The entry that a visit leaves in place: HIT and AGED clear, or AGED set where it was not hit. -/
def sweptEntry (e : Nat) : Nat := if l2Hit e then setBits 74 73 0 e else setBits 74 74 1 e

theorem l2Stamp_sweptEntry (e : Nat) : l2Stamp (sweptEntry e) = l2Stamp e := by
  unfold sweptEntry
  split_ifs <;> exact l2Stamp_setBits (by decide) (by decide) ..

theorem sweepVisit_none {d : Dev} (idle : d.tab.sweep = none) (ecc : Ecc) : d.sweepVisit ecc = d := by
  simp only [sweepVisit, idle]

section Visit
variable {d : Dev} {k e : Nat} (pass : d.tab.sweep = some k) (more : k < 65535) (entry : tbEnt (d.tbCur 0) k = e)
  (good : d.tbBad 0 k = false)
include pass more entry good

theorem sweepVisit_empty (empty : e = 0) : d.sweepVisit {} = (d.incBy .tbEccCorr 0 0).withSweep (k + 1) := by
  simp [sweepVisit, tbEcc, tbEccIn, pass, more, entry, good, empty, withSweep]

variable (used : e ≠ 0) (dynamic : l2Static e = false)
include used dynamic

theorem sweepVisit_removes (hit : l2Hit e = false) (aged : l2Aged e = true) :
    d.sweepVisit {} = (((d.incBy .tbEccCorr 0 0).tbRemove 0 k).inc .tbAged 0).withSweep (k + 1) := by
  simp [sweepVisit, tbEcc, tbEccIn, pass, more, entry, good, used, dynamic, hit, aged, withSweep]

theorem sweepVisit_marks (stays : l2Hit e = true ∨ l2Aged e = false)
    (recent : stampDiff d.stampNow (l2Stamp e) ≤ 2 ^ 29) : d.sweepVisit {} =
      (if sweptEntry e = e then d.incBy .tbEccCorr 0 0
        else (d.incBy .tbEccCorr 0 0).tbRewrite 0 k (sweptEntry e)).withSweep (k + 1) := by
  have stamp : ¬ (536870912 : ℤ) < stampDiff d.stampNow (l2Stamp e) := by omega
  have keeps : ¬ (l2Hit e = false ∧ l2Aged e = true) := by
    rcases stays with h | h <;> simp [h]
  have swept : (if l2Hit e = true then setBits 74 73 0 e else setBits 74 74 1 e) = sweptEntry e := rfl
  by_cases same : sweptEntry e = e <;>
    simp [sweepVisit, tbEcc, tbEccIn, pass, more, entry, good, used, dynamic, keeps, swept, l2Stamp_sweptEntry, stamp, same, withSweep]

end Visit

/-- What a visit leaves that removes the entry of its location. -/
theorem sweepVisit_removes_laws {d : Dev} (alone : (d.tb 0).alt = none) (k : Nat) {d' : Dev}
    (removed : d' = (((d.incBy .tbEccCorr 0 0).tbRemove 0 k).inc .tbAged 0).withSweep (k + 1)) :
    tbEnt (d'.tbCur 0) k = 0 ∧ d'.ctr .tbAged 0 = d.ctr .tbAged 0 + 1 ∧ d'.tab.sweep = some (k + 1) ∧
      d.Within d' { ctrs := [(.tbAged, 0)], parts := [.tab] } := by
  have alone : ((d.incBy .tbEccCorr 0 0).tb 0).alt = none := alone
  have mine : ({ ctrs := [(.tbAged, 0)], parts := [.tab] } : Foot).hasPart .tab := .inl List.mem_cons_self
  rw [removed, tbCur_withSweep, tbCur_inc, tbEnt_tbRemove_l2 alone, ctr_withSweep, ctr_inc_same, ctr_tbRemove (by decide),
    ctr_incBy_zero]
  exact ⟨rfl, rfl, rfl, (((within_incBy_zero ..).trans (within_tbRemove_l2 alone mine k)).trans
    (.inc _ (.inl List.mem_cons_self))).trans (within_withSweep mine ..)⟩

/-- What a visit leaves that keeps the entry of its location. -/
theorem sweepVisit_marks_laws {d : Dev} {k e : Nat} (alone : (d.tb 0).alt = none) (entry : tbEnt (d.tbCur 0) k = e) {d' : Dev}
    (marked : d' = (if sweptEntry e = e then d.incBy .tbEccCorr 0 0
      else (d.incBy .tbEccCorr 0 0).tbRewrite 0 k (sweptEntry e)).withSweep (k + 1)) :
    tbEnt (d'.tbCur 0) k = sweptEntry e ∧ d'.tab.sweep = some (k + 1) ∧ d.Within d' { parts := [.tab] } := by
  have alone : ((d.incBy .tbEccCorr 0 0).tb 0).alt = none := alone
  have mine : ({ parts := [.tab] } : Foot).hasPart .tab := .inl List.mem_cons_self
  have looked := within_incBy_zero d .tbEccCorr 0 { parts := [.tab] }
  rw [marked, tbCur_withSweep]
  split_ifs with same
  · rw [tbCur_incBy, entry]
    exact ⟨same.symm, rfl, looked.trans (within_withSweep mine ..)⟩
  · rw [tbEnt_tbRewrite_l2 alone]
    exact ⟨rfl, rfl, (looked.trans (within_tbRewrite_l2 alone mine ..)).trans (within_withSweep mine ..)⟩

theorem sweepVisit_held (d : Dev) (ecc : Ecc) : (d.sweepVisit ecc).mg.held = d.mg.held := by
  unfold sweepVisit
  dsimp only
  repeat' split
  all_goals simp

end Dev
end Sys2Proof.Machine
end
section
/-! ### The learn unit, the locks and the sweeper as commands -/
namespace Sys2Proof.Machine
open Dev

section Exec
variable (s : State)

theorem exec_learnApply : exec .learnApply s = s.logic fun d => d.learnNext := rfl
theorem exec_lockExpiry (key : BitVec 60) : exec (.lockExpiry key) s = s.logic fun d => d.lockExpire key.toNat := rfl
theorem exec_sweepVisit (ecc : Ecc) : exec (.sweepVisit ecc) s = s.logic fun d => d.sweepVisit ecc := rfl

end Exec

section Runs
variable {s : State} (on : s.On) {P : Dev → Prop} {e : Dev}
include on

/-- LEARN_APPLY takes the learn at the head and does with it what the learn unit does. -/
theorem runs_learnApply {x : Learn} {q : List Learn} (queue : s.dev.tab.learnQ = x :: q)
    (does : (s.dev.withLearns q).learnApply x = e) (hp : P e) : Runs .learnApply s P :=
  runs_logic_of_held on (exec_learnApply s) (learnNext_held _) (by rwa [learnNext_cons queue, does])

theorem runs_lockExpiry {key : BitVec 60} (does : s.dev.lockExpire key.toNat = e) (hp : P e) : Runs (.lockExpiry key) s P :=
  runs_logic_of_held on (exec_lockExpiry s key) (lockExpire_held ..) (by rwa [does])

theorem runs_sweepVisit {ecc : Ecc} (does : s.dev.sweepVisit ecc = e) (hp : P e) : Runs (.sweepVisit ecc) s P :=
  runs_logic_of_held on (exec_sweepVisit s ecc) (sweepVisit_held ..) (by rwa [does])

end Runs

/-- Settles O24: each learn by the case of the learn unit that it meets, each visit by what the sweeper finds at its location. -/
theorem learnAndAge : Obligations.LearnAndAge := by
  unfold Obligations.LearnAndAge
  intro s x q on
  have taken (F : Foot) (mine : F.hasPart .tab) : s.dev.Within (s.dev.withLearns q) F := within_withLearns mine _ _
  refine ⟨fun empty => ?_, fun queue new room slot => ?_, fun r queue new room slot _ alone => ?_,
    fun queue new room full => ?_, fun queue new low limited full => ?_, fun k queue known static other => ?_,
    fun k queue known dynamic locked other => ?_, fun k queue known alone port stamp dynamic free other later outside => ?_,
    fun k queue known dynamic free other notLater outside => ?_, fun k queue known alone stamp dynamic same => ?_,
    fun k queue known alone port stamp records ident dynamic free other inside => ?_, fun key none => ?_,
    fun key k held known alone => ?_, fun idle => ?_, fun k pass more empty good => ?_,
    fun k pass more used dynamic hit aged good alone => ?_, fun k pass more used dynamic stays good alone recent _ => ?_⟩
  · exact runs_logic_of_held on (exec_learnApply s) (learnNext_held _) (by rw [learnNext, empty])
  · obtain ⟨r, slot⟩ := Option.isSome_iff_exists.1 slot
    refine runs_learnApply on queue (learnApply_inserts new room slot) ⟨rfl, ?_⟩
    rw [ctr_inc_same, ctr_tbInsertNew (d := s.dev.withLearns q) (e := learnEntry x) slot (by decide)]
    rfl
  · refine runs_learnApply on queue (learnApply_inserts new (room.imp_right .inl) slot) ⟨?_, ?_⟩
    · exact tbCur_tbInsertNew_l2 (d := s.dev.withLearns q) alone slot
    · exact tbEnt_tbPlace (learnEntry_ne_zero x) slot
  · refine runs_learnApply on queue (learnApply_noRoom new (room.imp_right .inl) full) ⟨rfl, ?_⟩
    exact ctr_tbNoRoom ..
  · exact runs_learnApply on queue (learnApply_limit new low limited full) rfl
  · exact runs_learnApply on queue (learnApply_static known rfl static other) rfl
  · exact runs_learnApply on queue (learnApply_locked known rfl dynamic other locked) rfl
  · obtain ⟨counted, newPort, newStamp, within⟩ := learnApply_move_laws (d := s.dev.withLearns q) alone port stamp k _
      (learnApply_move known rfl dynamic other free outside later)
    exact runs_learnApply on queue rfl ⟨counted, newPort, newStamp, ((taken _ (.inl List.mem_cons_self)).trans within).only⟩
  · exact runs_learnApply on queue (learnApply_stale known rfl dynamic other free outside notLater) rfl
  · have began := taken { parts := [.tab] } (.inl List.mem_cons_self)
    by_cases earlier : stampDiff x.stamp (l2Stamp (tbEnt (s.dev.tbCur 0) k)) < 0
    · refine runs_learnApply on queue (learnApply_earlier known rfl dynamic same earlier) ?_
      have alone : ((s.dev.withLearns q).tb 0).alt = none := alone
      rw [if_pos earlier, tbEnt_tbRewrite_l2 alone, l2Stamp_setStamp stamp, l2Port_setBits (by decide) (by decide)]
      exact ⟨rfl, same, (began.trans (within_tbRewrite_l2 alone (.inl List.mem_cons_self) _ _)).only⟩
    · refine runs_learnApply on queue (learnApply_keeps known rfl dynamic same earlier) ?_
      rw [if_neg earlier]
      exact ⟨rfl, same, began.only⟩
  · obtain ⟨counted, locked, lock, newPort, newStamp, only⟩ := learnFlap_laws (d := s.dev.withLearns q) alone records port stamp k
      (tbEnt (s.dev.tbCur 0) k)
    refine runs_learnApply on queue (learnApply_flap known rfl dynamic other free inside) ⟨counted, locked, ?_, newPort, newStamp,
      (taken _ (.inl List.mem_cons_self)).thenOnly only⟩
    rwa [ident] at lock
  · exact runs_lockExpiry on (lockExpire_none none _) rfl
  · obtain ⟨unlocked, gone, within⟩ := lockExpire_laws held known alone
    exact runs_lockExpiry on rfl ⟨unlocked, gone, within.only⟩
  · exact runs_sweepVisit on (sweepVisit_none idle _) rfl
  · refine runs_sweepVisit on (sweepVisit_empty pass more rfl good empty) ⟨rfl, ?_⟩
    exact ((within_incBy_zero ..).trans (within_withSweep (.inl List.mem_cons_self) ..)).only
  · obtain ⟨gone, counted, next, within⟩ := sweepVisit_removes_laws alone k (sweepVisit_removes pass more rfl good used dynamic hit aged)
    exact runs_sweepVisit on rfl ⟨gone, counted, next, within.only⟩
  · obtain ⟨entry, next, within⟩ := sweepVisit_marks_laws alone rfl (sweepVisit_marks pass more rfl good used dynamic stays recent)
    exact runs_sweepVisit on rfl ⟨entry, next, within.only⟩

end Sys2Proof.Machine
end
section
/-! ### A counterexample of the FIFO errors: a memory error that brings Sepia discards frames that wait for an engine (R230, R461,
R466) -/
namespace Sys2Proof.Machine
open Dev

theorem exec_fifoPointerEccError (x : PortFifo) (s : State) :
    exec (.fifoPointerEccError x) s = s.logic fun d => d.fifoReset x.port.val x.tx := rfl

/-- A device whose memory errors bring Sepia (REACTION 2), with a frame of one cell in the dispatch queue of cluster 0. -/
def frameBeforeSepia : State where
  dev := ((({ buf := { nextGrp := 2 } } : Dev).setGrp 1 ⟨1, 1⟩).setDispQ 0 [.frame { grp := 1 }]).sf lsFaultCfg_REACTION fcMemory 2

/-- Refutes O25: where class MEMORY enters Sepia, a FIFO error on the receive side also drops the frame that waits in a dispatch
queue, whose cells go back to the packet buffer, where the clause has the buffer stay as it was. -/
theorem not_linksAndQueues : ¬ Obligations.LinksAndQueues := by
  unfold Obligations.LinksAndQueues
  intro h
  have on : frameBeforeSepia.On := rfl
  obtain ⟨-, -, -, -, -, -, -, -, -, -, -, -, reset, -⟩ := h frameBeforeSepia 0 on
  obtain ⟨-, -, kept⟩ := (runs_logic_iff on (exec_fifoPointerEccError ..)).1 reset
  have holders := congrArg (fun b : Buf => (Sparse.get grpDefault b.grps 1).refs) kept
  exact absurd holders (by decide +kernel)

end Sys2Proof.Machine
end
section
/-! ### Host rings: what their messages and their writes to memory leave alone (R248, R250, R256, R447) -/
namespace Sys2Proof.Machine
namespace Dev

theorem rd_of_regs {d e : Dev} (h : e.regs = d.regs) (r : Reg) (i : Nat) : e.rd r i = d.rd r i := by rw [rd, h, rd]

theorem rx_of_buf {d e : Dev} (h : e.buf = d.buf) (i : Nat) : e.rx i = d.rx i := by rw [rx, h, rx]

theorem tx_of_buf {d e : Dev} (h : e.buf = d.buf) (i : Nat) : e.tx i = d.tx i := by rw [tx, h, tx]

theorem rx_setRx_same (d : Dev) (i : Nat) (x : RxRing) : (d.setRx i x).rx i = x :=
  (rx_of_buf (sf_buf ..) i).trans (Sparse.get_set_same ..)

theorem tx_setTx_same (d : Dev) (i : Nat) (x : TxRing) : (d.setTx i x).tx i = x := Sparse.get_set_same ..

theorem f_setTx (d : Dev) (i : Nat) (x : TxRing) (F : RField) (k : Nat) : (d.setTx i x).f F k = d.f F k := rfl

theorem within_withBuf {F : Foot} (buf : F.hasPart .buf) (d : Dev) (x : Buf) : d.Within { d with buf := x } F :=
  .parts rfl rfl fun p n => by cases p <;> simp_all [Part.same]

theorem within_setTx {F : Foot} (buf : F.hasPart .buf) (d : Dev) (i : Nat) (x : TxRing) : d.Within (d.setTx i x) F :=
  within_withBuf buf d _

/-- What the messages of a ring and its writes to memory may change: what waits at the host bridge, the SRAM, and what an event of an
Ethernet-bound domain reaches. -/
def ringFoot : Foot := { parts := [.host, .eng], events := true }

section RingFoot
variable {d e : Dev} (h : d.Within e ringFoot)
include h

theorem Within.ring_buf : e.buf = d.buf := h.part .buf (by simp [Foot.hasPart, ringFoot, eventParts])

theorem Within.ring_rd {r : Reg} (other : r ∉ eventRegs) (i : Nat) : e.rd r i = d.rd r i :=
  h.reg r i (by simpa [Foot.hasReg, ringFoot] using other)

theorem Within.ring_ctr {c : Ctr} (other : c ≠ .mgLogLost) (i : Nat) : e.ctr c i = d.ctr c i :=
  h.ctr c i (by simpa [Foot.hasCtr, ringFoot] using other)

end RingFoot

theorem within_withHost_ring (d : Dev) (x : Bridge) : d.Within { d with host := x } ringFoot :=
  within_withHost (.inl (by decide)) (.inr ⟨rfl, by decide⟩) d x

theorem within_coeSend (d : Dev) (n typ status seq detail : Nat) (payload : List Byte) :
    d.Within (d.coeSend n typ status seq detail payload) ringFoot := (within_pushRx ..).mono (evFoot_le rfl)

theorem within_coeTxDone (d : Dev) (n ring idx : Nat) (payload : List Byte) :
    d.Within (d.coeTxDone n ring idx payload) ringFoot := by
  unfold coeTxDone
  dsimp only
  split
  · exact (within_withHost_ring d _).trans (within_coeSend ..)
  · exact within_coeSend ..

theorem within_hostDma (d : Dev) (n addr : Nat) (bs : List Byte) : d.Within (d.hostDma n addr bs) ringFoot := by
  unfold hostDma
  split
  · exact .emit d (.inr ⟨rfl, by decide⟩) _
  · exact within_withHost_ring d _

theorem within_ringWrite (d : Dev) (i addr : Nat) (bs : List Byte) : d.Within (d.ringWrite i addr bs) ringFoot := by
  unfold ringWrite
  split
  · exact within_hostDma ..
  · exact within_withEng (.inl (by decide)) d _ rfl

theorem within_ringVector (d : Dev) (i v : Nat) : d.Within (d.ringVector i v) ringFoot := by
  unfold ringVector
  split
  · exact (within_sendVector ..).mono (evFoot_le rfl)
  · exact .refl d _

theorem within_rxData (d : Dev) (i : Nat) (bufs : List Nat) (data : List Byte) : d.Within (d.rxData i bufs data) ringFoot :=
  Within.foldl _ _ (fun e x _ => by
    dsimp only
    split
    · exact .refl e _
    · exact within_ringWrite ..) d

/-! #### Completions -/

/-- The completion of a transmit frame is written or sent, counted, and announced. -/
theorem exists_txFinish (d : Dev) (i : Nat) (x : TxCur) (time st : Nat) : ∃ e, d.Within e ringFoot ∧ d.txFinish i x time st =
    (e.inc (if st = 0 then .hrTxFrames else if st = 3 then .hrTxDropped else .hrTxErr) i).txIrq i := by
  refine ⟨_, Within.foldl _ _ (fun e x _ => ?_) d, rfl⟩
  dsimp only
  split
  · exact within_coeTxDone ..
  · exact (within_ringWrite ..).trans (within_ringWrite ..)

theorem rd_txIrq {r : Reg} (other : r ∉ eventRegs) (d : Dev) (i k : Nat) : (d.txIrq i).rd r k = d.rd r k := by
  unfold txIrq
  dsimp only
  split
  · exact (within_ringVector ..).ring_rd other k
  · rfl

theorem ctr_txIrq {c : Ctr} (other : c ≠ .mgLogLost) (d : Dev) (i k : Nat) : (d.txIrq i).ctr c k = d.ctr c k := by
  unfold txIrq
  dsimp only
  split
  · exact (within_ringVector ..).ring_ctr other k
  · rfl

theorem rd_txFinish {r : Reg} (other : r ∉ eventRegs) (d : Dev) (i : Nat) (x : TxCur) (time st k : Nat) :
    (d.txFinish i x time st).rd r k = d.rd r k := by
  obtain ⟨e, wrote, does⟩ := exists_txFinish d i x time st
  rw [does, rd_txIrq other, rd, inc_regs, ← rd, wrote.ring_rd other]

/-- A frame that is completed with an error other than DROPPED is counted as one. -/
theorem ctr_txFinish_err {st : Nat} (bad : st ≠ 0) (kept : st ≠ 3) (d : Dev) (i : Nat) (x : TxCur) (time : Nat) :
    (d.txFinish i x time st).ctr .hrTxErr i = d.ctr .hrTxErr i + 1 := by
  obtain ⟨e, wrote, does⟩ := exists_txFinish d i x time st
  rw [does, if_neg bad, if_neg kept, ctr_txIrq (by decide), ctr_inc_same, wrote.ring_ctr (by decide)]

theorem claims_rxIrq (d : Dev) (i : Nat) : ((d.rxIrq i).rx i).claims = (d.rx i).claims := by
  unfold rxIrq
  dsimp only
  split
  · rw [rx_of_buf (within_ringVector ..).ring_buf, rx_setRx_same]
  · rw [rx_setRx_same]

theorem ctr_setRx (d : Dev) (i : Nat) (x : RxRing) (c : Ctr) (k : Nat) : (d.setRx i x).ctr c k = d.ctr c k := by
  rw [ctr, setRx, sf_ctrs]
  rfl

theorem ctr_rxIrq {c : Ctr} (other : c ≠ .mgLogLost) (d : Dev) (i k : Nat) : (d.rxIrq i).ctr c k = d.ctr c k := by
  unfold rxIrq
  dsimp only
  split
  · rw [(within_ringVector ..).ring_ctr other, ctr_setRx]
  · rw [ctr_setRx]

theorem rx_giveCells (d : Dev) (k i : Nat) : (d.giveCells k).rx i = d.rx i := by
  rw [giveCells, rx_of_buf (sf_buf ..)]
  dsimp only
  split <;> rfl

theorem rx_release (d : Dev) (g i : Nat) : (d.release g).rx i = d.rx i := by
  unfold release
  dsimp only
  split_ifs
  · rfl
  · exact rx_giveCells ..
  · rfl

theorem ctrs_release (d : Dev) (g : Nat) : (d.release g).ctrs = d.ctrs := by
  unfold release giveCells
  dsimp only
  split_ifs <;> simp [setGrp]

/-- The oldest claim of a ring is completed without an error: its data and descriptors are written or sent, it is counted, its cells
are released, and it is announced. -/
theorem exists_rxComplete {d : Dev} {i : Nat} {cl : Claim} {rest : List Claim} (head : (d.rx i).claims = cl :: rest)
    (good : cl.d.status = 0) : ∃ e, (d.setRx i { d.rx i with claims := rest }).Within e ringFoot ∧
      d.rxComplete i none = ((e.inc .hrRxFrames i).release cl.d.f.grp).rxIrq i := by
  unfold rxComplete
  rw [head]
  simp only [good, Option.isSome_none, Bool.false_eq_true, if_false, if_true]
  refine ⟨_, ?_, rfl⟩
  split_ifs
  · exact Within.foldl _ _ (fun e x _ => within_coeSend ..) _
  · exact (within_rxData ..).trans (Within.foldl _ _ (fun e x _ => (within_ringWrite ..).trans (within_ringWrite ..)) _)

theorem claims_rxComplete {d : Dev} {i : Nat} {cl : Claim} {rest : List Claim} (head : (d.rx i).claims = cl :: rest)
    (good : cl.d.status = 0) : ((d.rxComplete i none).rx i).claims = rest := by
  obtain ⟨e, wrote, does⟩ := exists_rxComplete head good
  rw [does, claims_rxIrq, rx_release, rx_of_buf (inc_buf ..), rx_of_buf wrote.ring_buf, rx_setRx_same]

theorem ctr_rxComplete {d : Dev} {i : Nat} {cl : Claim} {rest : List Claim} (head : (d.rx i).claims = cl :: rest)
    (good : cl.d.status = 0) : (d.rxComplete i none).ctr .hrRxFrames i = d.ctr .hrRxFrames i + 1 := by
  obtain ⟨e, wrote, does⟩ := exists_rxComplete head good
  rw [does, ctr_rxIrq (by decide), ctr, ctrs_release, ← ctr, ctr_inc_same, wrote.ring_ctr (by decide), ctr_setRx]

end Dev
end Sys2Proof.Machine
end
section
/-! ### Host rings: tails and configuration (R243, R245, R253, R254) -/
namespace Sys2Proof.Machine

theorem bits_self (i v : Nat) : bits i i v = if bitAt i v then 1 else 0 := by
  rw [bits, Nat.add_sub_cancel_left, bitAt]
  rcases Nat.mod_two_eq_zero_or_one (v / 2 ^ i) with low | high
  · simp [low]
  · simp [high]

theorem bits_and {hi lo : Nat} (h : lo ≤ hi) (a b : Nat) : bits hi lo (a &&& b) = bits hi lo a &&& bits hi lo b :=
  Nat.eq_of_testBit_eq fun i => by
    rw [Nat.testBit_and, testBit_bits h, testBit_bits h, testBit_bits h, Nat.testBit_and]
    cases decide (i ≤ hi - lo) <;> simp

/-- A field that a mask takes whole. -/
theorem bits_and_of_full {hi lo m : Nat} (h : lo ≤ hi) (full : bits hi lo m = 2 ^ (hi + 1 - lo) - 1) (v : Nat) :
    bits hi lo (v &&& m) = bits hi lo v := by
  rw [bits_and h, full, Nat.and_two_pow_sub_one_eq_mod]
  exact Nat.mod_mod ..

/-- A field that a mask takes nothing of. -/
theorem bits_and_of_none {hi lo m : Nat} (h : lo ≤ hi) (none : bits hi lo m = 0) (v : Nat) : bits hi lo (v &&& m) = 0 := by
  rw [bits_and h, none, Nat.and_zero]

theorem ofNat_and_toNat (v : Word) {m : Nat} (fits : m < 2 ^ 32) :
    BitVec.ofNat 32 (v.toNat &&& m) = v &&& BitVec.ofNat 32 m := by
  refine BitVec.eq_of_toNat_eq ?_
  rw [BitVec.toNat_and, BitVec.toNat_ofNat, BitVec.toNat_ofNat, Nat.mod_eq_of_lt fits,
    Nat.mod_eq_of_lt (Nat.and_lt_two_pow _ fits)]

namespace Dev

/-! #### Tails -/

theorem tailWrite_rx_taken {d : Dev} {i v : Nat} (near : (v % 65536 + 65536 - d.f hrRxHead_HEAD i) % 65536 ≤ d.rxN i) :
    d.tailWrite false false i v = d.sf hrRxTail_TAIL i (v % 65536) := by simp [tailWrite, tailOk, near]

theorem tailWrite_tx_taken {d : Dev} {i v : Nat} (near : (v % 65536 + 65536 - d.f hrTxHead_HEAD i) % 65536 ≤ d.txN i) :
    d.tailWrite false true i v = d.sf hrTxTail_TAIL i (v % 65536) := by simp [tailWrite, tailOk, near]

theorem tailWrite_rejected {d : Dev} {tx : Bool} {i v : Nat} (far : d.tailOk tx i v = false) :
    d.tailWrite false tx i v = (d.rejWr (ringUnit i)).raise 21 (i / 16) (i % 16) := by simp [tailWrite, far, ringDom]

theorem tailOk_rx_far {d : Dev} {i v : Nat} (far : d.rxN i < (v % 65536 + 65536 - d.f hrRxHead_HEAD i) % 65536) :
    d.tailOk false i v = false := by simpa [tailOk] using far

theorem tailOk_tx_far {d : Dev} {i v : Nat} (far : d.txN i < (v % 65536 + 65536 - d.f hrTxHead_HEAD i) % 65536) :
    d.tailOk true i v = false := by simpa [tailOk] using far

/-! #### Configuration -/

/-- A ring of the management cores has no domain whose bytes bound its buffers. -/
theorem ringRxCfg_sram {i : Nat} (sram : 256 ≤ i) (d : Dev) (v : Nat) : d.ringRxCfg false i v = (d.rxCfgWrite false i v).cxSettle := by
  rw [ringRxCfg, if_neg (by omega)]

theorem rxCfgWrite_rejected {d : Dev} {i v : Nat} (small : bits 23 20 v < 6) : d.rxCfgWrite false i v = d.rejWr (ringUnit i) := by
  have wrong : d.rxCfgOk i v = false := by simp [rxCfgOk, Nat.not_le.2 small]
  rw [rxCfgWrite, if_pos ⟨rfl, wrong⟩]

theorem size_le (v : Nat) : bits 23 20 v ≤ 15 := Nat.le_of_lt_succ (Nat.mod_lt _ (by decide))

theorem rxCfgWrite_enables {d : Dev} {i : Nat} {v : Word} (off : d.f hrRxCfg_ENABLE i = 0) (on : bitAt 31 v.toNat = true)
    (size : 6 ≤ bits 23 20 v.toNat) (fill : bits 13 0 v.toNat ≤ 10000) :
    d.rxCfgWrite false i v.toNat = d.wr .hrRxCfg i (v &&& 0x83FFFFFF) := by
  have off' : bitAt 31 (d.rd .hrRxCfg i).toNat = false := by simpa [f, bits_self] using off
  have good : d.rxCfgOk i v.toNat = true := by simp [rxCfgOk, size, fill, off', size_le]
  rw [rxCfgWrite, if_neg (by simp [good]), if_pos on, ofNat_and_toNat v (by decide)]
  rfl

/-- What a transmit ring's configuration stores as the ring is enabled. -/
theorem txCfgWrite_enables {d : Dev} {i : Nat} {v : Word} (off : d.f hrTxCfg_ENABLE i = 0) (on : bitAt 31 v.toNat = true)
    (size : 6 ≤ bits 23 20 v.toNat) : d.txCfgWrite false i v.toNat = d.wr .hrTxCfg i (v &&& 0x80FFC000) := by
  have off' : bitAt 31 (d.rd .hrTxCfg i).toNat = false := by simpa [f, bits_self] using off
  have good : d.txCfgOk i v.toNat = true := by simp [txCfgOk, size, off', size_le]
  rw [txCfgWrite, if_neg (by simp [good])]
  simp only [on, off', Bool.not_false, Bool.and_self, Bool.not_true, Bool.and_false, Bool.false_eq_true, if_false, Nat.add_zero]
  rw [ofNat_and_toNat v (by decide)]
  rfl

theorem f_wr_same (d : Dev) (F : RField) (i : Nat) (v : Word) : (d.wr F.reg i v).f F i = bits F.hi F.lo v.toNat := by
  rw [f, rd_wr_same]

end Dev
end Sys2Proof.Machine
end
section
/-! ### Host rings: a claim, a frame that is taken, and its cells and data (R246, R247, R253 to R255) -/
namespace Sys2Proof.Machine
namespace Dev

/-! #### Receive -/

/-- Where a ring's buffers lie does not depend on its HEAD. -/
theorem rxBufs_head (d : Dev) (i v h c : Nat) (bufs : List Nat) :
    (d.sf hrRxHead_HEAD i v).rxBufs i h c bufs = d.rxBufs i h c bufs := by
  simp only [rxBufs, sramGet, sf_eng, rxBase, rxN, f_sf_of_apart (F := hrRxHead_HEAD) (G := hrRxCfg_SIZE_LOG2) (by decide),
    rd_sf_ne d (F := hrRxHead_HEAD) (r := .hrRxBaseHi) (.inl (by decide)),
    rd_sf_ne d (F := hrRxHead_HEAD) (r := .hrRxBaseLo) (.inl (by decide))]

/-- The only delivery `dl` of ring `i` has claimed its descriptors. -/
def rxClaimed (d : Dev) (i : Nat) (dl : Delivery) (bufs : List Nat) : Dev :=
  (d.sf hrRxHead_HEAD i ((d.f hrRxHead_HEAD i + d.rxNeed i dl.bytes.length) % 65536)).setRx i
    { d.rx i with queue := [], claims := (d.rx i).claims ++ [⟨dl, d.f hrRxHead_HEAD i,
      d.rxBufs i (d.f hrRxHead_HEAD i) (d.rxNeed i dl.bytes.length) bufs⟩] }

/-- The only delivery of a ring claims its descriptors; nothing is left that could wait. -/
theorem rxClaim_single {d : Dev} {i : Nat} {dl : Delivery} (only : (d.rx i).queue = [dl]) (can : d.rxCanClaim i = true)
    (bufs : List Nat) : (d.rxClaim i bufs).rxHoldZero i (d.rx i).queue.length = d.rxClaimed i dl bufs := by
  have claimed : d.rxClaim i bufs = d.rxClaimed i dl bufs := by
    unfold rxClaim
    rw [only]
    dsimp only
    rw [if_pos can, rx_of_buf (sf_buf ..), rxBufs_head, rxClaimed]
  rw [claimed, only, List.length_singleton, rxHoldZero, rxClaimed, rx_setRx_same]
  rfl

/-- The only delivery of a ring is dropped; nothing is left that could wait. -/
theorem rxDropHead_single {d : Dev} {i : Nat} {dl : Delivery} (only : (d.rx i).queue = [dl]) :
    (d.rxDropHead i).rxHoldZero i (d.rx i).queue.length = d.rxDropHead i := by
  have empty : ((d.rxDropHead i).rx i).queue = [] := by
    rw [rxDropHead, only]
    dsimp only
    rw [rx_release, rx_of_buf (inc_buf ..), rx_setRx_same]
  rw [only, List.length_singleton, rxHoldZero, empty]
  rfl

/-! #### Transmit -/

/-- The turn of a domain's rings, taken by ring `i`. -/
def txServed (d : Dev) (i : Nat) : Dev :=
  { d with buf := { d.buf with txLast := Sparse.set (fun _ => 15) d.buf.txLast (i / 16) (i % 16) } }

/-- Ring `i` in its turn, its HEAD past one descriptor. -/
def txTook (d : Dev) (i : Nat) : Dev := (d.txServed i).sf hrTxHead_HEAD i (((d.txServed i).f hrTxHead_HEAD i + 1) % 65536)

/-- The frame of the single descriptor `x` that ring `i` takes. -/
def txSingle (d : Dev) (i x : Nat) : TxCur :=
  { first := d.f hrTxHead_HEAD i, descs := [x], len := bits 95 80 x, direct := bitAt 252 x, port := bits 103 96 x,
    cls := bits 111 104 x, ts := bitAt 251 x, time := d.ns }

theorem f_txServed (d : Dev) (i : Nat) (F : RField) (k : Nat) : (d.txServed i).f F k = d.f F k := f_of_rd (rd_of_regs rfl ..)

theorem head_txTook (d : Dev) (i : Nat) : (d.txTook i).f hrTxHead_HEAD i = (d.f hrTxHead_HEAD i + 1) % 65536 := by
  rw [txTook, f_sf_same _ (by decide) (by decide), f_txServed]
  exact Nat.mod_mod _ 65536

theorem within_txTook {F : Foot} {i : Nat} (head : F.hasReg .hrTxHead i) (buf : F.hasPart .buf) (d : Dev) : d.Within (d.txTook i) F :=
  (within_withBuf buf d _).trans (.sf _ head _)

theorem ns_txTook (d : Dev) (i : Nat) : (d.txTook i).ns = d.ns := by
  rw [ns, txTook, sf_raw, sf_time, ns]
  rfl

theorem txSingle_took (d : Dev) (i x : Nat) : d.txSingle i x =
    { d.txSingle i x with first := (d.txServed i).f hrTxHead_HEAD i, time := (d.txTook i).ns } := by
  rw [f_txServed, ns_txTook]
  rfl

theorem txFrameOf_single {x : Nat} (last : bitAt 253 x = true) (more : List Nat) : txFrameOf (x :: more) = [x] := by
  simp [txFrameOf, List.findIdx?_cons, last]

section Take
variable {d : Dev} {i x : Nat} {ds more : List Nat} (turn : d.txTurn i = true)
  (head : ((d.txDescs i ds).take 32).take (d.txPosted i) = x :: more) (last : bitAt 253 x = true)
include turn head last

/-- A frame of one good descriptor is taken. -/
theorem txTake_good (good : txCheck (i / 16) [x] = 0) :
    d.txTake i ds = (d.txTook i).setTx i { (d.txTook i).tx i with cur := some (d.txSingle i x) } := by
  rw [txSingle_took]
  simp only [txTake, turn, head, txFrameOf_single last, List.any_cons, last, good, List.length_singleton, List.headD_cons,
    List.isEmpty_cons, Bool.not_true, Bool.not_false, Bool.true_or, Bool.true_and, Bool.false_eq_true, if_false, if_true]
  rfl

/-- A frame of one descriptor that is not well formed halts its ring. -/
theorem txTake_halts (bad : txCheck (i / 16) [x] = 4) : d.txTake i ds =
    (((d.txTook i).txFinish i (d.txSingle i x) 0 4).sf hrTxCfg_HALTED i 1).raise 21 (i / 16) (i % 16) := by
  rw [txSingle_took]
  simp only [txTake, turn, head, txFrameOf_single last, List.any_cons, last, bad, List.length_singleton, List.headD_cons,
    List.isEmpty_cons, Bool.not_true, Bool.not_false, Bool.true_or, Bool.true_and, Bool.false_eq_true, if_false, if_true]
  rfl

end Take

theorem txTake_notTurn {d : Dev} {i : Nat} (turn : d.txTurn i = false) (ds : List Nat) : d.txTake i ds = d := by
  simp [txTake, turn]

theorem txClaim_none {d : Dev} {i : Nat} (idle : (d.tx i).cur = none) : d.txClaim i = d := by
  simp only [txClaim, idle]

theorem txClaim_stopped {d : Dev} {i : Nat} (stopped : d.ringState i ≠ stRun) : d.txClaim i = d := by
  unfold txClaim
  split
  · rw [if_pos (.inr stopped)]
  · rfl

/-- The device with `k` of its free cells taken by a new group. -/
def cellsTaken (d : Dev) (k : Nat) : Dev :=
  let e := d.sf bqFree_FREE 0 (d.freeCells - k)
  ({ e with buf := { e.buf with nextGrp := d.buf.nextGrp + 1 } } : Dev).setGrp d.buf.nextGrp ⟨k, 1⟩

theorem alloc_fits {d : Dev} {k : Nat} (fits : k ≤ d.freeCells) : d.alloc k = (some d.buf.nextGrp, d.cellsTaken k) := by
  rw [alloc, if_pos fits]
  rfl

theorem free_cellsTaken (d : Dev) (k : Nat) : (d.cellsTaken k).f bqFree_FREE 0 = d.f bqFree_FREE 0 - k := by
  have taken : (d.cellsTaken k).regs = (d.sf bqFree_FREE 0 (d.freeCells - k)).regs := rfl
  rw [f_of_rd (rd_of_regs taken ..)]
  exact f_sf_fits (by decide) (by decide) ((Nat.sub_le ..).trans_lt (f_lt d bqFree_FREE 0)) d 0

theorem cellsTaken_held (d : Dev) (k : Nat) : (d.cellsTaken k).mg.held = d.mg.held := by simp [cellsTaken]

theorem alloc_full {d : Dev} {k : Nat} (full : d.freeCells < k) : d.alloc k = (none, d) := if_neg (Nat.not_le.2 full)

section Cells
variable {d : Dev} {i : Nat} {x : TxCur} (cur : (d.tx i).cur = some x) (bare : x.grp = none)
include cur

theorem txClaim_full (full : d.freeCells < cellsOf x.len) : d.txClaim i = d := by
  unfold txClaim
  rw [cur]
  dsimp only
  rw [alloc_full full]
  exact ite_self _

include bare

theorem txClaim_fits (runs : d.ringState i = stRun) (fits : cellsOf x.len ≤ d.freeCells) : d.txClaim i =
    (d.cellsTaken (cellsOf x.len)).setTx i
      { (d.cellsTaken (cellsOf x.len)).tx i with cur := some { x with grp := some d.buf.nextGrp } } := by
  unfold txClaim
  rw [cur]
  dsimp only
  rw [if_neg (by simp [bare, runs]), alloc_fits fits]

end Cells

section Data
variable {d : Dev} {i g : Nat} {x : TxCur} (cur : (d.tx i).cur = some x) (cells : x.grp = some g) (data : List Byte)
include cur cells

/-- The data of an ENGINE frame: the frame is injected and completed. -/
theorem txDataDone_engine (engine : x.direct = false) : d.txDataDone i false data =
    ((d.setTx i { d.tx i with cur := none }).inject x.port (if i < 256 then x.time else d.ns) g
      (slice (d.txBytes i x data) 0 x.len)).txFinish i x 0 0 := by
  simp only [txDataDone, cur, cells, engine]
  rfl

/-- A read error: the cells are released, and the frame completes with DMA_ERROR. -/
theorem txDataDone_error : d.txDataDone i true data =
    ((d.setTx i { d.tx i with cur := none }).release g).txFinish i x 0 7 := by
  simp only [txDataDone, cur, cells, if_true]

end Data

theorem dispJoin_held (d : Dev) (cp c : Nat) (fr : Frame) : (d.dispJoin cp c fr).mg.held = d.mg.held := by simp [dispJoin]

theorem toCluster_held (d : Dev) (cp : Nat) (fr : Frame) : (d.toCluster cp fr).mg.held = d.mg.held := by
  unfold toCluster
  dsimp only
  repeat' split
  all_goals simp [dispJoin_held]

theorem inject_held (d : Dev) (p time g : Nat) (data : List Byte) : (d.inject p time g data).mg.held = d.mg.held := by
  unfold inject dispatchFirst
  dsimp only
  repeat' split
  all_goals simp [toCluster_held]

end Dev
end Sys2Proof.Machine
end
section
/-! ### The host rings as commands (R243 to R256) -/
namespace Sys2Proof.Machine
open Dev

section Exec
variable (r : Fin 272) (s : State)

theorem exec_rxTailWrite (v : Word) : exec (.rxTailWrite r v) s = s.logic fun d => d.tailWrite false false r.val v.toNat := rfl
theorem exec_txTailWrite (v : Word) : exec (.txTailWrite r v) s = s.logic fun d => d.tailWrite false true r.val v.toNat := rfl
theorem exec_rxRingCfgWrite (v : Word) : exec (.rxRingCfgWrite r v) s = s.logic fun d => d.ringRxCfg false r.val v.toNat := rfl
theorem exec_txRingCfgWrite (v : Word) : exec (.txRingCfgWrite r v) s = s.logic fun d => d.txCfgWrite false r.val v.toNat := rfl
theorem exec_rxDeliveryClaim (bufs : List (BitVec 64)) : exec (.rxDeliveryClaim r bufs) s = s.logic fun d =>
    ((d.rxClaim r.val (bufs.map BitVec.toNat)).rxHoldZero r.val (d.rx r.val).queue.length).cxSettle := rfl
theorem exec_rxDeliveryWritten (x : RxWrite) :
    exec (.rxDeliveryWritten r x) s = s.logic fun d => d.rxWritten r.val x.wrote.toNat x.ecc := rfl
theorem exec_rxHoldTimeout : exec (.rxHoldTimeout r) s = s.logic fun d =>
    if d.rxCanClaim r.val then d else ((d.rxDropHead r.val).rxHoldZero r.val (d.rx r.val).queue.length).cxSettle := rfl
theorem exec_ringIrqTimeout (tx : Bool) : exec (.ringIrqTimeout r tx) s = s.logic fun d => d.ringIrqTimeout r.val tx := rfl
theorem exec_txFrameCheck (ds : List (BitVec 256)) :
    exec (.txFrameCheck r ds) s = s.logic fun d => d.txTake r.val (ds.map BitVec.toNat) := rfl
theorem exec_txCellsClaimed : exec (.txCellsClaimed r) s = s.logic fun d => d.txClaim r.val := rfl
theorem exec_txDataReadDone (err : Bool) (data : List Byte) :
    exec (.txDataReadDone r err data) s = s.logic fun d => d.txDataDone r.val err data := rfl

end Exec

namespace Dev

theorem rxWritten_idle {d : Dev} {i : Nat} (idle : (d.rx i).claims = [] ∨ d.dmaGo (i / 16) = false) (wrote : Nat) (ecc : Ecc) :
    d.rxWritten i wrote ecc = d := by
  unfold rxWritten
  split
  · rfl
  · next head => rw [if_pos (.inr (idle.resolve_left (by simp [head])))]

theorem rxWritten_frame {d : Dev} {i : Nat} {cl : Claim} {rest : List Claim} (head : (d.rx i).claims = cl :: rest)
    (go : d.dmaGo (i / 16) = true) (ready : cl.d.ready = true) (frame : cl.d.job = none) (wrote : Nat) :
    d.rxWritten i wrote {} = (d.bufEcc {}).rxComplete i none := by
  simp only [rxWritten, head, go, ready, frame, List.isEmpty_nil, Bool.true_eq_false, or_self, if_false, if_true]

theorem rx_bufEcc_none (d : Dev) (i : Nat) : (d.bufEcc {}).rx i = d.rx i := rfl

theorem ctr_bufEcc_none {c : Ctr} (other : c ≠ .bqEccCorr) (d : Dev) (i : Nat) : (d.bufEcc {}).ctr c i = d.ctr c i :=
  d.ctr_setCtr_ne (.inl other.symm) _

theorem rxComplete_held {d : Dev} {i : Nat} {cl : Claim} {rest : List Claim} (head : (d.rx i).claims = cl :: rest)
    (good : cl.d.status = 0) : (d.rxComplete i none).mg.held = d.mg.held := by
  obtain ⟨e, wrote, does⟩ := exists_rxComplete head good
  have kept := wrote.held (by simp [Foot.hasPart, ringFoot, eventParts])
  rw [does]
  simp [rxIrq, kept]

/-- Completions that wait are announced, and none is left to be. -/
theorem ringIrqTimeout_rx {d : Dev} {i : Nat} (some : (d.rx i).unannounced ≠ 0) :
    (d.ringIrqTimeout i false).rx i = { d.rx i with unannounced := 0 } := by
  simp only [ringIrqTimeout, some, Bool.false_eq_true, if_false]
  rw [rx_of_buf (within_ringVector ..).ring_buf, rx_setRx_same]

theorem ringIrqTimeout_tx {d : Dev} {i : Nat} (some : (d.tx i).unannounced ≠ 0) :
    (d.ringIrqTimeout i true).tx i = { d.tx i with unannounced := 0 } := by
  simp only [ringIrqTimeout, some, if_false, if_true]
  rw [tx_of_buf (within_ringVector ..).ring_buf, tx_setTx_same]

theorem ringIrqTimeout_held (d : Dev) (i : Nat) (tx : Bool) : (d.ringIrqTimeout i tx).mg.held = d.mg.held := by
  simp [ringIrqTimeout]

theorem txTook_held (d : Dev) (i : Nat) : (d.txTook i).mg.held = d.mg.held := by simp [txTook, txServed]

end Dev

section Commands
variable {s : State} (on : s.On) {r : Fin 272}
include on

theorem runs_txFrameCheck_good {ds : List (BitVec 256)} {x : Nat} {more : List Nat} (turn : s.dev.txTurn r = true)
    (head : ((s.dev.txDescs r (ds.map BitVec.toNat)).take 32).take (s.dev.txPosted r) = x :: more) (last : bitAt 253 x = true)
    (good : txCheck (r / 16) [x] = 0) : Runs (.txFrameCheck r ds) s fun d =>
      d.f hrTxHead_HEAD r = (s.dev.f hrTxHead_HEAD r + 1) % 65536 ∧ (d.tx r).cur = some (s.dev.txSingle r x) ∧
      s.dev.Only d { regs := [(.hrTxHead, r)], parts := [.buf] } := by
  refine runs_logic_to on (exec_txFrameCheck ..) (txTake_good turn head last good) (by simp [txTook_held]) ⟨?_, ?_, ?_⟩
  · rw [f_setTx, head_txTook]
  · rw [tx_setTx_same]
  · exact ((within_txTook (.inl (by simp)) (.inl (by simp)) _).trans (within_setTx (.inl (by simp)) _ _ _)).only

theorem runs_txFrameCheck_halts {ds : List (BitVec 256)} {x : Nat} {more : List Nat} (turn : s.dev.txTurn r = true)
    (head : ((s.dev.txDescs r (ds.map BitVec.toNat)).take 32).take (s.dev.txPosted r) = x :: more) (last : bitAt 253 x = true)
    (bad : txCheck (r / 16) [x] = 4) : Runs (.txFrameCheck r ds) s fun d => d.f hrTxCfg_HALTED r = 1 ∧
      d.f hrTxHead_HEAD r = (s.dev.f hrTxHead_HEAD r + 1) % 65536 ∧ d.ctr .hrTxErr r = s.dev.ctr .hrTxErr r + 1 := by
  refine runs_logic_to on (exec_txFrameCheck ..) (txTake_halts turn head last bad) (by simp [txTook_held]) ⟨?_, ?_, ?_⟩
  · rw [f_of_rd (rd_raise (by decide) ..), f_sf_fits (by decide) (by decide) (by decide)]
  · rw [f_of_rd (rd_raise (by decide) ..), f_sf_of_apart (by decide), f_of_rd (rd_txFinish (by decide) ..), head_txTook]
  · rw [ctr_raise (by decide), ctr, sf_ctrs, ← ctr, ctr_txFinish_err (by decide) (by decide), ctr, txTook, sf_ctrs]
    rfl

theorem runs_txDataReadDone {err : Bool} {data : List Byte} {e : Dev} (does : s.dev.txDataDone r err data = e)
    (held : e.mg.held = s.dev.mg.held) : Runs (.txDataReadDone r err data) s fun d => d = e :=
  runs_logic_to on (exec_txDataReadDone ..) does held rfl

end Commands

/-- Settles O27: each command by the operation of its row, in each case that the clauses tell apart. -/
theorem ringCommands : Obligations.RingCommands := by
  unfold Obligations.RingCommands
  intro s r on
  refine ⟨fun v near => ?_, fun v far => ?_, fun v near => ?_, fun v far => ?_, fun v small sram => ?_,
    fun v sram off enable size fill => ?_, fun v off enable size => ?_, fun bufs dl only can => ?_, fun wrote ecc idle => ?_,
    fun cl rest wrote head go ready frame good => ?_, fun can => ?_, fun dl only cannot => ?_, fun waiting => ?_, fun waiting => ?_,
    fun ds x more _ _ turn head last good => runs_txFrameCheck_good on turn head last good,
    fun ds x more turn head last bad => runs_txFrameCheck_halts on turn head last bad, fun ds turn idle => ?_,
    fun x cur bare runs fits => ?_, fun x cur bare full => ?_, fun data x g cur cells engine => ?_, fun data x g cur cells => ?_⟩
  · refine runs_logic_to on (exec_rxTailWrite ..) (tailWrite_rx_taken near) (by simp) ⟨?_, (Within.sf _ (.inl (by simp)) _).only⟩
    exact (f_sf_same _ (by decide) (by decide) ..).trans (Nat.mod_mod ..)
  · exact runs_logic_to on (exec_rxTailWrite ..) (tailWrite_rejected (tailOk_rx_far far)) (by simp [rejWr]) rfl
  · refine runs_logic_to on (exec_txTailWrite ..) (tailWrite_tx_taken near) (by simp) ⟨?_, (Within.sf _ (.inl (by simp)) _).only⟩
    exact (f_sf_same _ (by decide) (by decide) ..).trans (Nat.mod_mod ..)
  · exact runs_logic_to on (exec_txTailWrite ..) (tailWrite_rejected (tailOk_tx_far far)) (by simp [rejWr]) rfl
  · refine runs_logic_to on (exec_rxRingCfgWrite ..) ((ringRxCfg_sram sram ..).trans ?_) (by simp) rfl
    rw [rxCfgWrite_rejected small, rejWr]
  · refine runs_logic_to on (exec_rxRingCfgWrite ..) ((ringRxCfg_sram sram ..).trans ?_) (by simp) rfl
    rw [rxCfgWrite_enables off (by rwa [bitAt_eq_testBit, BitVec.testBit_toNat]) size fill]
  · have enabled : bitAt 31 v.toNat = true := by rwa [bitAt_eq_testBit, BitVec.testBit_toNat]
    have stored : (v &&& 0x80FFC000).toNat = v.toNat &&& 0x80FFC000 := BitVec.toNat_and ..
    refine runs_logic_to on (exec_txRingCfgWrite ..) (txCfgWrite_enables off enabled size) (by simp) ⟨?_, ?_, ?_, ?_⟩
    · exact (f_wr_same _ hrTxCfg_HALTED ..).trans (by rw [stored, bits_and_of_none (by decide) (by decide)])
    · refine (f_wr_same _ hrTxCfg_ENABLE ..).trans ?_
      rw [stored, bits_and_of_full (by decide) (by decide), bits_self, if_pos enabled]
    · exact (f_wr_same _ hrTxCfg_SIZE_LOG2 ..).trans (by rw [stored, bits_and_of_full (by decide) (by decide)])
    · exact (Within.wr _ (.inl (by simp)) _).only
  · exact runs_logic_to on (exec_rxDeliveryClaim ..) (congrArg cxSettle (rxClaim_single only can _)) (by simp [rxClaimed]) rfl
  · exact runs_logic_to on (exec_rxDeliveryWritten ..) (rxWritten_idle idle ..) rfl rfl
  · have head' : ((s.dev.bufEcc {}).rx r).claims = cl :: rest := by rw [rx_bufEcc_none, head]
    refine runs_logic_to on (exec_rxDeliveryWritten ..) (rxWritten_frame head go ready frame _)
      (by rw [rxComplete_held head' good, bufEcc_held]) ⟨rfl, claims_rxComplete head' good, ?_⟩
    rw [ctr_rxComplete head' good, ctr_bufEcc_none (by decide)]
  · exact runs_logic_to on (exec_rxHoldTimeout ..) (if_pos can) rfl rfl
  · refine runs_logic_to on (exec_rxHoldTimeout ..) ((if_neg (by simp [cannot])).trans ?_) (by simp) rfl
    rw [rxDropHead_single only]
  · have ring := ringIrqTimeout_rx waiting
    exact runs_logic_of_held on (exec_ringIrqTimeout ..) (ringIrqTimeout_held ..) (by rw [ring]; exact ⟨rfl, rfl, rfl⟩)
  · have ring := ringIrqTimeout_tx waiting
    exact runs_logic_of_held on (exec_ringIrqTimeout ..) (ringIrqTimeout_held ..) (by rw [ring]; exact ⟨rfl, rfl⟩)
  · rintro c (_ | ⟨_, _ | ⟨_, _ | _⟩⟩)
    · exact runs_logic_to on (exec_txFrameCheck ..) (txTake_notTurn turn _) rfl rfl
    · exact runs_logic_to on (exec_txCellsClaimed ..) (idle.elim txClaim_none txClaim_stopped) rfl rfl
  · refine runs_logic_to on (exec_txCellsClaimed ..) (txClaim_fits cur bare runs fits) (by simp [cellsTaken_held]) ⟨?_, ?_⟩
    · rw [tx_setTx_same]
    · rw [f_setTx, free_cellsTaken]
  · exact runs_logic_to on (exec_txCellsClaimed ..) (txClaim_full cur full) rfl rfl
  · exact runs_txDataReadDone on (txDataDone_engine cur cells data engine) (by simp [inject_held])
  · exact runs_txDataReadDone on (txDataDone_error cur cells data) (by simp)

end Sys2Proof.Machine
end
section
/-! ### What the work on a port's link leaves alone (R238, R239, R259, R265, R270, R272) -/
namespace Sys2Proof.Machine
namespace Dev

theorem eth_of_bus {d e : Dev} (h : e.bus = d.bus) (p : Nat) : e.eth p = d.eth p := by rw [eth, h, eth]

/-- `e` holds what `d` holds in every register but those of `L`, in the states of the segments, in the sleep controller and in which
gate lists run, and no transaction where `d` holds none. -/
structure Keeps (L : List Reg) (d e : Dev) : Prop where
  rd : ∀ {r : Reg}, r ∉ L → ∀ i : Nat, e.rd r i = d.rd r i
  seg : ∀ i : Nat, e.segState i = d.segState i
  sleep : e.sleep = d.sleep
  txn : d.ep.txn = none → e.ep.txn = none
  running : ∀ p : Nat, (e.eth p).running = (d.eth p).running

namespace Keeps
variable {L M : List Reg} {d e g : Dev}

theorem refl (d : Dev) : d.Keeps L d := ⟨fun _ _ => rfl, fun _ => rfl, rfl, id, fun _ => rfl⟩

theorem trans (h : d.Keeps L e) (k : e.Keeps L g) : d.Keeps L g :=
  ⟨fun n i => (k.rd n i).trans (h.rd n i), fun i => (k.seg i).trans (h.seg i), k.sleep.trans h.sleep, fun t => k.txn (h.txn t),
    fun p => (k.running p).trans (h.running p)⟩

theorem mono (h : d.Keeps L e) (sub : L ⊆ M) : d.Keeps M e := ⟨fun n => h.rd fun m => n (sub m), h.seg, h.sleep, h.txn, h.running⟩

theorem foldl {β : Type} {f : Dev → β → Dev} (step : ∀ (x : Dev) (b : β), x.Keeps L (f x b)) (l : List β) (d : Dev) :
    d.Keeps L (l.foldl f d) := foldl_keeps (d.Keeps L) f (fun x b k => k.trans (step x b)) l (.refl d)

/-- Nothing but counters, outputs and parts apart from the epochs, the buses and the sleep controller differs. -/
theorem of_parts (regs : e.regs = d.regs) (sleep : e.sleep = d.sleep) (ep : e.ep = d.ep) (bus : e.bus = d.bus) : d.Keeps L e :=
  ⟨fun _ i => rd_of_regs regs _ i, fun i => f_of_rd (rd_of_regs regs _ i), sleep, fun t => by rw [ep, t],
    fun p => congrArg EthPort.running (eth_of_bus bus p)⟩

theorem wr {r : Reg} (listed : r ∈ L) (other : r ≠ .bwSegStatus) (d : Dev) (i : Nat) (v : Word) : d.Keeps L (d.wr r i v) :=
  ⟨fun n k => rd_wr_ne d (.inl fun same => n (by rwa [← same])) v, fun k => f_of_rd (rd_wr_ne d (.inl other) v), by simp,
    fun t => by simpa using t, fun p => congrArg EthPort.running (eth_of_bus (by simp) p)⟩

theorem sf {F : RField} (listed : F.reg ∈ L) (apart : F.apart bwSegStatus_STATE = true) (d : Dev) (i v : Nat) :
    d.Keeps L (d.sf F i v) :=
  ⟨fun n k => rd_sf_ne d (.inl fun same => n (by rwa [← same])) v, fun k => f_sf_of_apart apart d i k v, by simp,
    fun t => by simpa using t, fun p => congrArg EthPort.running (eth_of_bus (by simp) p)⟩

theorem inc (d : Dev) (c : Ctr) (i : Nat) : d.Keeps L (d.inc c i) := of_parts (by simp) (by simp) (by simp) (by simp)

theorem incBy (d : Dev) (c : Ctr) (i n : Nat) : d.Keeps L (d.incBy c i n) := of_parts rfl rfl rfl rfl

theorem emit (d : Dev) (o : Output) : d.Keeps L (d.emit o) := of_parts rfl rfl rfl rfl

theorem withBuf (d : Dev) (x : Buf) : d.Keeps L { d with buf := x } := of_parts rfl rfl rfl rfl

theorem withTab (d : Dev) (x : Tables) : d.Keeps L { d with tab := x } := of_parts rfl rfl rfl rfl

/-- The state of an Ethernet port beside its gate list. -/
theorem setEth (d : Dev) (p : Nat) {x : EthPort} (same : x.running = (d.eth p).running) : d.Keeps L (d.setEth p x) := by
  refine ⟨fun _ _ => rfl, fun _ => rfl, rfl, id, fun q => ?_⟩
  by_cases mine : q = p
  · rw [mine, eth_setEth_same, same]
  · exact congrArg EthPort.running (Sparse.get_set_ne _ _ (Ne.symm mine) _)

theorem raise (listed : raiseRegs ⊆ L) (d : Dev) (s inst info : Nat) : d.Keeps L (d.raise s inst info) :=
  ⟨fun n i => rd_raise (fun m => n (listed m)) d s inst info i, fun i => f_of_rd (rd_raise (by decide) d s inst info i),
    part_raise (p := .sleep) (by decide) d s inst info,
    fun t => by rw [show (d.raise s inst info).ep = d.ep from part_raise (p := .ep) (by decide) d s inst info, t],
    fun p => congrArg EthPort.running (eth_of_bus (part_raise (p := .bus) (by decide) d s inst info) p)⟩

theorem f (h : d.Keeps L e) {F : RField} (other : F.reg ∉ L) (i : Nat) : e.f F i = d.f F i := f_of_rd (h.rd other i)

theorem b (h : d.Keeps L e) {F : RField} (other : F.reg ∉ L) (i : Nat) : e.b F i = d.b F i := by rw [Dev.b, h.f other, Dev.b]

/-- A segment sleeps as before where its ports are the same. -/
theorem portAsleep (h : d.Keeps L e) (other : Reg.bwSegPorts ∉ L) (p : Nat) : e.portAsleep p = d.portAsleep p := by
  have ports : ∀ s, e.portSet .bwSegPorts (3 * s) p = d.portSet .bwSegPorts (3 * s) p := fun s => by
    simp only [portSet, h.rd other]
  have seg : e.segOf p = d.segOf p := by simp only [segOf, ports]
  simp only [Dev.portAsleep, seg, h.seg, h.sleep]

end Keeps
end Dev
end Sys2Proof.Machine
end
section
/-! ### The work on a port's link: its queues, its table entries, its counters and its gates (R203, R226, R238, R265, R268 to R275) -/
namespace Sys2Proof.Machine
namespace Dev

/-- The registers that counting a frame of an Ethernet port reaches (R265). -/
def countRegs : List Reg := .ethCntEvt :: raiseRegs

/-- The registers that the work on a port's link reaches beside EthLinkStatus and BqPortCfg. -/
def linkRegs : List Reg := [.bqFree, .bwSegStatus, .tbBgStatus, .ethPreempt, .ethStepStatus, .ethGateStatus] ++ countRegs

/-! #### Cells, completions and queues -/

theorem keeps_release (d : Dev) (g : Nat) : d.Keeps linkRegs (d.release g) := by
  have give (x : Dev) (k : Nat) : x.Keeps linkRegs (x.giveCells k) := by
    refine .trans ?_ (.sf (by decide) (by decide) _ _ _)
    split
    · exact .refl x
    · exact .withBuf x _
  unfold release
  dsimp only
  split
  · exact .refl d
  · split
    · exact .trans (.withBuf d _) (give _ _)
    · exact .withBuf d _

theorem Keeps.of_ring {d e : Dev} {L : List Reg} (listed : eventRegs ⊆ L) (h : d.Within e ringFoot) : d.Keeps L e := by
  have ep : e.ep = d.ep := h.part .ep (by simp [Foot.hasPart, ringFoot, eventParts])
  exact ⟨fun n i => h.ring_rd (fun m => n (listed m)) i, fun i => f_of_rd (h.ring_rd (by decide) i),
    h.part .sleep (by simp [Foot.hasPart, ringFoot, eventParts]), fun t => by rw [ep, t],
    fun p => congrArg EthPort.running (eth_of_bus (h.part .bus (by simp [Foot.hasPart, ringFoot, eventParts])) p)⟩

theorem keeps_txFinish (d : Dev) (i : Nat) (x : TxCur) (time st : Nat) : d.Keeps linkRegs (d.txFinish i x time st) := by
  have announce (e : Dev) : e.Keeps linkRegs (e.txIrq i) := by
    unfold txIrq
    dsimp only
    split
    · exact .trans (.withBuf e _) (.of_ring (by decide) (within_ringVector ..))
    · exact .withBuf e _
  obtain ⟨e, wrote, does⟩ := exists_txFinish d i x time st
  rw [does]
  exact .trans (.of_ring (by decide) wrote) (.trans (.inc e _ _) (announce _))

theorem keeps_tsDropped (d : Dev) (x : QFrame) : d.Keeps linkRegs (d.tsDropped x) := by
  unfold tsDropped tsEnd
  split
  · exact keeps_txFinish ..
  · exact .refl d

theorem keeps_gauge (d : Dev) (c : Ctr) (i : Nat) (up : Bool) (n : Nat) : d.Keeps linkRegs (d.gauge c i up n) :=
  .of_parts rfl rfl rfl rfl

theorem keeps_unqueue (d : Dev) (q : Nat) (x : QFrame) : d.Keeps linkRegs (d.unqueue q x) := by
  have held (e : Dev) : e.Keeps linkRegs (e.heldCount (q / 8) false) := by
    unfold heldCount
    split
    · exact .sf (by decide) (by decide) e _ _
    · exact .refl e
  have charged : d.Keeps linkRegs (d.charge q false x.cells) :=
    (keeps_gauge d .bqQCells q false x.cells).trans ((keeps_gauge _ .bqPortCells (q / 8) false x.cells).trans
      (keeps_gauge _ .bqQFrames q false 1))
  unfold unqueue
  dsimp only
  split
  · exact charged.trans (held _)
  · exact charged

theorem keeps_removeFrame (d : Dev) (q : Nat) (c : Ctr) (x : QFrame) : d.Keeps linkRegs (d.removeFrame q c x) :=
  .trans (keeps_unqueue d q x) (.trans (.inc _ _ _) (.trans (keeps_release _ _) (keeps_tsDropped _ x)))

theorem keeps_lostOnWire (d : Dev) (q : Nat) (x : QFrame) : d.Keeps linkRegs (d.lostOnWire q x) :=
  .trans (keeps_gauge ..) (.trans (.inc _ _ _) (.trans (keeps_release _ _) (keeps_tsDropped _ x)))

/-! #### Shapers -/

theorem running_creditStep (d : Dev) (p c : Nat) (x : EthPort) : (d.creditStep p c x).running = x.running := by
  unfold creditStep
  split <;> rfl

theorem keeps_creditUpdate {L : List Reg} (d : Dev) (p : Nat) : d.Keeps L (d.creditUpdate p) :=
  .setEth d p (foldl_keeps (fun x : EthPort => x.running = (d.eth p).running) _
    (fun x c same => (running_creditStep d p c x).trans same) _ rfl)

theorem keeps_deficitClear {L : List Reg} (d : Dev) (p c : Nat) : d.Keeps L (d.deficitClear p c) := by
  unfold deficitClear
  split
  · exact .refl d
  · exact .setEth d p rfl

theorem keeps_setQueue {L : List Reg} (d : Dev) (q : Nat) (l : List QFrame) : d.Keeps L (d.setQueue q l) := by
  have emptied (p c : Nat) : d.Keeps L (d.queueEmptied p c) := by
    have cleared : d.Keeps L ((if d.b ethCbs_EN (8 * p + c) then d.creditUpdate p else d).deficitClear p c) := by
      refine .trans ?_ (keeps_deficitClear _ _ _)
      split
      · exact keeps_creditUpdate d p
      · exact .refl d
    unfold queueEmptied
    extract_lets
    split
    · refine cleared.trans (.setEth _ _ ?_)
      rfl
    · exact cleared
  unfold setQueue
  refine .trans ?_ (.withBuf _ _)
  split
  · exact emptied _ _
  · exact .refl d

/-! #### Flushes -/

theorem keeps_flushQueues (d : Dev) (p : Nat) : d.Keeps linkRegs (d.flushQueues p) := by
  refine .foldl (fun x c => ?_) _ d
  refine .trans (keeps_setQueue x (qNo p c) []) (.foldl (fun y f => ?_) _ _)
  exact keeps_removeFrame y (qNo p c) .bqQFlush f

theorem keeps_flushDue (d : Dev) (p : Nat) : d.Keeps linkRegs (d.flushDue p) := by
  unfold flushDue
  split
  · unfold flushNow
    exact .trans (.withBuf d _) (keeps_flushQueues _ p)
  · exact .refl d

theorem keeps_paShow (d : Dev) : d.Keeps linkRegs (d.paShow 0) := by
  have shown (e : Dev) (i x y z : Nat) : e.Keeps linkRegs
      (((e.sf mdPaBudget_IN_USE_MW i x).sf mdPaWait_HEAD_MW i y).sf mdPaWait_DEPTH i z) :=
    .trans (.sf (by decide) (by decide) e _ _) (.trans (.sf (by decide) (by decide) _ _ _) (.sf (by decide) (by decide) _ _ _))
  unfold paShow
  extract_lets i e
  have cleared : d.Keeps linkRegs e := by
    unfold e
    rw [if_pos rfl]
    exact .foldl (fun x k => shown x k 0 0 0) _ d
  exact cleared.trans (shown e i _ _ _)

theorem keeps_paRelease (d : Dev) (who : PaFor) : d.Keeps linkRegs (d.paRelease 0 who) := by
  unfold paRelease setAcct
  refine .trans ?_ (keeps_paShow _)
  exact .of_parts rfl rfl rfl rfl

theorem keeps_bgShow (d : Dev) (t : Nat) : d.Keeps linkRegs (d.bgShow t) :=
  .foldl (fun e k => .trans (.sf (by decide) (by decide) e _ _)
    (.trans (.sf (by decide) (by decide) _ _ _) (.sf (by decide) (by decide) _ _ _))) _ d

theorem keeps_bgFail (d : Dev) (t res : Nat) : d.Keeps linkRegs (d.bgFail t res) := by
  have cleared : d.Keeps linkRegs (d.bgClear t) := by
    unfold bgClear
    split
    · exact .trans (.withTab d _) (.withTab _ _)
    · exact .withTab d _
  exact cleared.trans (.trans (keeps_paRelease _ _) (.trans (keeps_paRelease _ _)
    (.trans (keeps_bgShow _ t) (.sf (by decide) (by decide) _ _ _))))

theorem keeps_tableTxnDrop (d : Dev) (t : Nat) : d.Keeps linkRegs (d.tableTxnDrop t) :=
  ⟨fun _ _ => rfl, fun _ => rfl, rfl, fun closed => by rw [tableTxnDrop, closed, Option.map_none], fun _ => rfl⟩

theorem keeps_tbSync (d : Dev) (t e : Nat) : d.Keeps linkRegs (d.tbSync t e) := by
  have failed (own : Nat) : d.Keeps linkRegs (((d.raise 19 0 t).tableTxnDrop own).bgFail own resNoRoom) :=
    .trans (.raise (by decide) d 19 0 t) (.trans (keeps_tableTxnDrop _ own) (keeps_bgFail _ own _))
  unfold tbSync
  dsimp only
  split
  · split
    · exact .refl d
    · split
      · exact .refl d
      · exact .withTab d _
      · exact .withTab d _
      · split
        · exact .withTab d _
        · split
          · exact .withTab d _
          · exact failed _
  · exact .refl d

theorem keeps_tbRemove (d : Dev) (t l : Nat) : d.Keeps linkRegs (d.tbRemove t l) := by
  have emptied : d.Keeps linkRegs (d.setTbCur t (tbPut (d.tbCur t) l 0) l) := .withTab d _
  unfold tbRemove
  refine .trans ?_ (keeps_tbSync _ t _)
  split
  · exact emptied.trans (.withTab _ _)
  · exact emptied

theorem keeps_portFlush (d : Dev) (p : Nat) : d.Keeps linkRegs (d.portFlush p) := by
  have entries (e : Dev) : e.Keeps linkRegs (e.l2FlushPort p) := by
    unfold l2FlushPort
    split
    · refine .foldl (fun x y => ?_) _ e
      exact .trans (keeps_tbRemove x 0 y.1) (.inc _ .tbPortFlushed 0)
    · exact .refl e
  exact .trans (keeps_flushQueues d p) (.trans (entries _) (.inc _ _ _))

/-! #### Counters of a port -/

theorem keeps_ethAdd {L : List Reg} (listed : countRegs ⊆ L) (d : Dev) (p g k n : Nat) : d.Keeps L (d.ethAdd p g k n) := by
  unfold ethAdd
  dsimp only
  split
  · exact .incBy d _ _ _
  · exact .trans (.incBy d _ _ _) (.trans (.wr (listed (by decide)) (by decide) _ _ _)
      (.raise (fun _ m => listed (List.mem_cons_of_mem _ m)) _ _ _ _))

theorem keeps_ethInc {L : List Reg} (listed : countRegs ⊆ L) (d : Dev) (p g k : Nat) : d.Keeps L (d.ethInc p g k) :=
  keeps_ethAdd listed d p g k 1

theorem ethCtr_ethInc (d : Dev) (p g k : Nat) : (d.ethInc p g k).ethCtr p g k = d.ethCtr p g k + 1 := by
  unfold ethInc ethAdd
  dsimp only
  split
  · exact ctr_inc_same d _ _
  · exact (ctr_raise (by decide) _ _ _ _ _).trans (ctr_inc_same d _ _)

theorem only_ethInc (d : Dev) (p g k : Nat) : d.Only (d.ethInc p g k) Foot.ethCount := by
  have counted : d.Within (d.inc .ethCnt ((3 * p + g) * 32 + k)) Foot.ethCount := .inc d (.inr (.inl (by decide)))
  unfold ethInc ethAdd
  dsimp only
  split
  · exact counted.only
  · exact (counted.trans (.wr _ (.inr (.inl (by decide))) _)).thenOnly (only_raise_of_events rfl _ _ _ _)

/-! #### Gates -/

theorem keeps_gateCut {L : List Reg} (listed : countRegs ⊆ L) (d : Dev) (p : Nat) : d.Keeps L (d.gateCut p) := by
  have cut : d.Keeps L (d.preemptWire p) := by
    unfold preemptWire
    dsimp only
    split
    · split
      · refine .trans (.setEth d p ?_) (keeps_ethInc listed _ _ _ _)
        rfl
      · exact .refl d
    · exact .refl d
  unfold gateCut
  dsimp only
  split
  · split
    · exact cut
    · exact .refl d
  · exact .refl d

/-- The gates that a port shows (R272, R275). -/
def gatesNow (d : Dev) (p : Nat) : Nat :=
  if d.b ethGateCfg_GATE_EN p = false then 0xFF
  else if d.b ethGateStatus_RESTARTING p then d.f ethGateCfg_RESTART_GATES p
  else d.f ethGateOperListOp_GATES (256 * p + d.f ethGateStatus_ENTRY p)

/-- Showing the gates writes GATES; what else it does to the port changes counts and credits. -/
theorem gateShow_after_sf (d : Dev) (p : Nat) :
    ((d.creditUpdate p).sf ethGateStatus_GATES p (d.gatesNow p)).Keeps countRegs (d.gateShow p) := by
  refine .trans (.foldl (fun e c => ?_) _ _) (keeps_gateCut (List.Subset.refl _) _ p)
  change e.Keeps countRegs (if bitAt c (d.gatesNow p) then e else e.deficitClear p c)
  split
  · exact .refl e
  · exact keeps_deficitClear e p c

theorem keeps_gateShow (d : Dev) (p : Nat) : d.Keeps linkRegs (d.gateShow p) :=
  .trans (keeps_creditUpdate d p) (.trans (.sf (by decide) (by decide) _ _ _) ((gateShow_after_sf d p).mono (by decide)))

theorem f_gateShow_gates (d : Dev) (p : Nat) : (d.gateShow p).f ethGateStatus_GATES p = d.gatesNow p % 256 := by
  rw [(gateShow_after_sf d p).f (by decide), f_sf_same _ (by decide) (by decide)]
  rfl

theorem f_gateShow {F : RField} (other : F.reg ∉ countRegs) (apart : ethGateStatus_GATES.apart F = true) (d : Dev) (p i : Nat) :
    (d.gateShow p).f F i = d.f F i := by
  rw [(gateShow_after_sf d p).f other, f_sf_of_apart apart]
  rfl

theorem keeps_gatesRestart (d : Dev) (p : Nat) : d.Keeps linkRegs (d.gatesRestart p) := by
  unfold gatesRestart
  split
  · refine .trans (.setEth d p ?_) (.trans (.sf (by decide) (by decide) _ _ _) (keeps_gateShow _ p))
    rfl
  · exact .refl d

end Dev
end Sys2Proof.Machine
end
section
/-! ### Links, verification and gate lists of the Ethernet ports (R238, R259, R270, R272 to R275, R291) -/
namespace Sys2Proof.Machine
namespace Dev

/-! #### Frame boundaries while no transaction is open (R38, R51) -/

section Boundary
variable {d : Dev} (closed : d.ep.txn = none)
include closed

/-- Without a transaction a boundary only lets a port of a resumed die go on. -/
theorem boundary_of_no_txn (u : Nat) : d.boundary u = if d.onWire u then d else d.bwPassed (unitPort u) := by
  have still : (if d.onWire u then d else d.bwPassed (unitPort u)).ep.txn = none := by
    split
    · exact closed
    · exact closed
  unfold boundary
  dsimp only
  rw [still]

theorem boundary_regs (u : Nat) : (d.boundary u).regs = d.regs := by
  rw [boundary_of_no_txn closed]
  split <;> rfl

theorem boundary_ctrs (u : Nat) : (d.boundary u).ctrs = d.ctrs := by
  rw [boundary_of_no_txn closed]
  split <;> rfl

theorem boundary_held_of_no_txn (u : Nat) : (d.boundary u).mg.held = d.mg.held := by
  rw [boundary_of_no_txn closed]
  split <;> rfl

/-- With no port held either, it changes nothing. -/
theorem boundary_quiet (free : d.bus.bwHeld = []) (u : Nat) : d.boundary u = d := by
  have passed (p : Nat) : d.bwPassed p = d := by
    simp only [bwPassed, free, List.filter_nil]
    rw [← free]
  rw [boundary_of_no_txn closed, passed, ite_self]

end Boundary

/-! #### Conditions and losses -/

/-- The conditions of the PCS as the port's registers show them. -/
def pcsRegs (d : Dev) (p : Nat) (lock lf rf : Bool) : Dev :=
  ((d.sf ethLinkStatus_LOCK p (if lock then 1 else 0)).sf ethLinkStatus_LOCAL_FAULT p (if lf then 1 else 0)).sf
    ethLinkStatus_REMOTE_FAULT p (if rf then 1 else 0)

/-- The conditions of the PCS, before a loss that they bring is reported. -/
def pcsShown (d : Dev) (p : Nat) (lock lf rf an : Bool) : Dev :=
  (d.pcsRegs p lock lf rf).setEth p { (d.pcsRegs p lock lf rf).eth p with anDown := !an }

theorem f_setEth (d : Dev) (p : Nat) (x : EthPort) (F : RField) (i : Nat) : (d.setEth p x).f F i = d.f F i := rfl

section Pcs
variable {d : Dev} {p : Nat} (lock lf rf an : Bool)

theorem f_pcsShown {F : RField} (h1 : ethLinkStatus_LOCK.apart F = true) (h2 : ethLinkStatus_LOCAL_FAULT.apart F = true)
    (h3 : ethLinkStatus_REMOTE_FAULT.apart F = true) (i : Nat) : (d.pcsShown p lock lf rf an).f F i = d.f F i := by
  rw [pcsShown, f_setEth, pcsRegs, f_sf_of_apart h3, f_sf_of_apart h2, f_sf_of_apart h1]

/-- A port that has no link, or waits LOSS_US, takes no loss from its conditions at once. -/
theorem pcsChange_no_loss (calm : d.f ethLinkStatus_LINK p = 0 ∨ d.f ethLinkCfg_LOSS_US p ≠ 0) :
    d.pcsChange p lock lf rf an = d.pcsShown p lock lf rf an := by
  have link := f_pcsShown (d := d) (p := p) lock lf rf an (F := ethLinkStatus_LINK) (by decide) (by decide) (by decide) p
  have wait := f_pcsShown (d := d) (p := p) lock lf rf an (F := ethLinkCfg_LOSS_US) (by decide) (by decide) (by decide) p
  refine if_neg (c := ((d.pcsShown p lock lf rf an).ethLossNow p && (d.pcsShown p lock lf rf an).b ethLinkStatus_LINK p
    && (d.pcsShown p lock lf rf an).f ethLinkCfg_LOSS_US p == 0) = true) ?_
  rcases calm with down | waits
  · simp [b, link, down]
  · simp [wait, waits]

theorem b_sf_flag {F : RField} (one : F.lo = F.hi) (h : F.hi < 32) (d : Dev) (i : Nat) (v : Bool) :
    (d.sf F i (if v then 1 else 0)).b F i = v := by
  rw [b, f_sf_fits one.le h (by rw [one, Nat.add_sub_cancel_left]; cases v <;> decide)]
  cases v <;> rfl

theorem b_pcsShown : (d.pcsShown p lock lf rf an).b ethLinkStatus_LOCK p = lock ∧
    (d.pcsShown p lock lf rf an).b ethLinkStatus_LOCAL_FAULT p = lf ∧
    (d.pcsShown p lock lf rf an).b ethLinkStatus_REMOTE_FAULT p = rf := by
  refine ⟨?_, ?_, ?_⟩
  · rw [b, pcsShown, f_setEth, pcsRegs, f_sf_of_apart (by decide), f_sf_of_apart (by decide), ← b, b_sf_flag (by decide) (by decide)]
  · rw [b, pcsShown, f_setEth, pcsRegs, f_sf_of_apart (by decide), ← b, b_sf_flag (by decide) (by decide)]
  · rw [b, pcsShown, f_setEth, pcsRegs, ← b, b_sf_flag (by decide) (by decide)]

theorem within_setEth {F : Foot} (bus : F.hasPart .bus) (d : Dev) (p : Nat) (x : EthPort) : d.Within (d.setEth p x) F :=
  .parts rfl rfl fun q n => by cases q <;> simp_all [Part.same, setEth]

theorem within_pcsShown {F : Foot} (status : F.hasReg .ethLinkStatus p) (bus : F.hasPart .bus) :
    d.Within (d.pcsShown p lock lf rf an) F :=
  (((Within.sf d status _).trans (.sf _ status _)).trans (.sf _ status _)).trans (within_setEth bus _ _ _)

end Pcs

theorem keeps_verifyRestart (d : Dev) (p : Nat) : d.Keeps linkRegs (d.verifyRestart p) := by
  unfold verifyRestart
  split
  · refine .trans (.setEth d p ?_) (.trans (.sf (by decide) (by decide) _ _ _) (.sf (by decide) (by decide) _ _ _))
    rfl
  · exact .refl d

/-- Reporting link down clears LINK. -/
theorem ethLinkDown_after_sf {d : Dev} {p : Nat} (up : d.f ethLinkStatus_LINK p = 1) :
    (d.sf ethLinkStatus_LINK p 0).Keeps linkRegs (d.ethLinkDown p) := by
  rw [ethLinkDown, if_pos (by rw [b, up]; rfl)]
  exact .trans (keeps_ethInc (by decide) _ p gMisc 0) (.trans (keeps_verifyRestart _ p) (.raise (by decide) _ _ _ _))

theorem keeps_ethWireLost (d : Dev) (p : Nat) : d.Keeps linkRegs (d.ethWireLost p) := by
  unfold ethWireLost
  extract_lets e x y z
  have freed : d.Keeps linkRegs y := by
    refine (keeps_creditUpdate d p).trans (.setEth e p ?_)
    rfl
  have sent : d.Keeps linkRegs z := by
    unfold z
    split
    · exact freed.trans (keeps_lostOnWire y _ _)
    · exact freed
  refine .trans ?_ (keeps_flushDue _ p)
  split
  · exact sent.trans (keeps_lostOnWire z _ _)
  · exact sent

/-- The link of an Ethernet port whose segment is awake is lost: the port is down or holds its frames. -/
theorem exists_linkLost {d : Dev} {p : Nat} (eth : p < 20) (awake : d.portAsleep p = false) (up : d.f bqPortCfg_STATE p = 0) :
    ∃ (e : Dev) (n : Nat), (n = 1 ∨ n = 2) ∧ d.Keeps linkRegs e ∧ (e.sf bqPortCfg_STATE p n).Keeps linkRegs (d.linkLost p) := by
  unfold linkLost
  rw [if_neg (by simp [awake, up]), if_pos eth]
  extract_lets e
  split
  · exact ⟨e, 2, .inr rfl, keeps_ethWireLost d p, keeps_portFlush _ p⟩
  · exact ⟨e, 1, .inl rfl, keeps_ethWireLost d p, .refl _⟩

theorem linkLost_of_not_up {d : Dev} {p : Nat} (off : d.f bqPortCfg_STATE p ≠ 0) : d.linkLost p = d := by
  rw [linkLost, if_pos (by simp [off])]

theorem keeps_stepEstablish (d : Dev) (p : Nat) : d.Keeps linkRegs (d.stepEstablish p) := by
  unfold stepEstablish
  split
  · exact .trans (.sf (by decide) (by decide) d _ _) (.emit _ _)
  · exact .refl d

/-- A lost link is down, and its port neither up nor in a transaction it was not in. -/
theorem linkLossDetected_down {d : Dev} {p : Nat} (eth : p < 20) (stable : d.f ethLinkStatus_STEPPING p = 0)
    (up : d.f ethLinkStatus_LINK p = 1) (awake : d.portAsleep p = false) (idle : (d.eth p).step = .none) :
    (d.linkLossDetected p).f ethLinkStatus_LINK p = 0 ∧ (d.linkLossDetected p).f bqPortCfg_STATE p ≠ 0 ∧
      (d.ep.txn = none → (d.linkLossDetected p).ep.txn = none) := by
  have counts : d.lossCounts p = true := by simp [lossCounts, awake, b, stable]
  have does : d.linkLossDetected p = ((d.ethLinkDown p).linkLost p).stepEstablish p := by
    rw [linkLossDetected, if_pos counts, ethLost, idle]
    exact if_pos (by rw [b, up]; rfl)
  have down := ethLinkDown_after_sf up
  have cleared : (d.ethLinkDown p).f ethLinkStatus_LINK p = 0 := by
    rw [down.f (by decide), f_sf_fits (by decide) (by decide) (by decide)]
  have closed (was : d.ep.txn = none) : (d.ethLinkDown p).ep.txn = none := down.txn (by rw [sf_ep, was])
  have awake' : (d.ethLinkDown p).portAsleep p = false := by
    have unlinked : d.Keeps [.ethLinkStatus] (d.sf ethLinkStatus_LINK p 0) := .sf (by decide) (by decide) d _ _
    rw [down.portAsleep (by decide), unlinked.portAsleep (by decide), awake]
  have trains := keeps_stepEstablish ((d.ethLinkDown p).linkLost p) p
  rw [does]
  by_cases off : (d.ethLinkDown p).f bqPortCfg_STATE p = 0
  · obtain ⟨e, n, code, before, after⟩ := exists_linkLost eth awake' off
    have lost := after.trans trains
    refine ⟨?_, ?_, fun was => lost.txn (by rw [sf_ep]; exact before.txn (closed was))⟩
    · rw [lost.f (by decide), f_sf_of_apart (by decide), before.f (by decide), cleared]
    · rw [lost.f (by decide), f_sf_fits (by decide) (by decide) (by rcases code with rfl | rfl <;> decide)]
      rcases code with rfl | rfl <;> decide
  · rw [linkLost_of_not_up off] at trains ⊢
    exact ⟨by rw [trains.f (by decide), cleared], by rwa [trains.f (by decide)], fun was => trains.txn (closed was)⟩

/-! #### Links that come up -/

/-- A restored link of a port: its state is up. -/
theorem exists_linkRestored (d : Dev) (p : Nat) : ∃ e, (e = d ∧ d.f bqPortCfg_STATE p = 0 ∨ e = d.sf bqPortCfg_STATE p 0) ∧
    e.Keeps linkRegs (d.linkRestored p) := by
  have restart (e : Dev) (c : Prop) [Decidable c] : e.Keeps linkRegs (if c then e.gatesRestart p else e) := by
    split
    · exact keeps_gatesRestart e p
    · exact .refl e
  unfold linkRestored
  extract_lets st e
  refine ⟨e, ?_, restart e _⟩
  unfold e
  split
  · exact .inl ⟨rfl, ‹_›⟩
  · exact .inr rfl

theorem f_linkRestored_state (d : Dev) (p : Nat) : (d.linkRestored p).f bqPortCfg_STATE p = 0 := by
  obtain ⟨e, before, after⟩ := exists_linkRestored d p
  rw [after.f (by decide)]
  rcases before with ⟨rfl, up⟩ | rfl
  · exact up
  · exact f_sf_fits (by decide) (by decide) (by decide) _ _

theorem f_linkRestored {F : RField} (other : F.reg ∉ linkRegs) (apart : bqPortCfg_STATE.apart F = true) (d : Dev) (p i : Nat) :
    (d.linkRestored p).f F i = d.f F i := by
  obtain ⟨e, before, after⟩ := exists_linkRestored d p
  rw [after.f other]
  rcases before with ⟨rfl, -⟩ | rfl
  · rfl
  · exact f_sf_of_apart apart ..

/-- A port without stepping that comes up shows LINK at its rate, and is up. -/
theorem ethUp_shows {d : Dev} {p : Nat} (fixed : d.f ethIntf_INTF p ≠ 7) (on : d.f ethIntf_INTF p ≠ 0)
    (online : d.leafState (uEth p) ≠ 0) (an : Nat) : (d.ethUp p an).f ethLinkStatus_LINK p = 1 ∧
      (d.ethUp p an).f ethLinkStatus_SPEED p = d.ethSpeed p an % 8 ∧ (d.ethUp p an).f bqPortCfg_STATE p = 0 := by
  have linked (x y : Dev) (c : Prop) [Decidable c] (h : x.Keeps linkRegs y) : x.Keeps linkRegs (if c then x else y) := by
    split
    · exact .refl x
    · exact h
  unfold ethUp
  rw [if_neg (by simp [stOffline, online, on])]
  extract_lets was x y z
  have told : x.Keeps linkRegs y := linked x _ _ (.raise (by decide) x _ _ _)
  have intf : z.f ethIntf_INTF p = d.f ethIntf_INTF p := by
    unfold z
    rw [f_linkRestored (by decide) (by decide), told.f (by decide), f_sf_of_apart (by decide), f_sf_of_apart (by decide)]
  rw [if_neg (by simp [stepOn, intf, fixed])]
  refine ⟨?_, ?_, f_linkRestored_state y p⟩
  · unfold z
    rw [f_linkRestored (by decide) (by decide), told.f (by decide), f_sf_of_apart (by decide),
      f_sf_fits (by decide) (by decide) (by decide)]
  · unfold z
    rw [f_linkRestored (by decide) (by decide), told.f (by decide), f_sf_same _ (by decide) (by decide)]
    rfl

theorem ethUp_off {d : Dev} {p : Nat} (off : d.leafState (uEth p) = 0 ∨ d.f ethIntf_INTF p = 0) (an : Nat) : d.ethUp p an = d :=
  if_pos off

theorem linkRestored_held (d : Dev) (p : Nat) : (d.linkRestored p).mg.held = d.mg.held := by simp [linkRestored]

theorem ethUp_held (d : Dev) (p an : Nat) : (d.ethUp p an).mg.held = d.mg.held := by simp [ethUp, linkRestored_held]

/-! #### PLCA (R291) -/

/-- A follower that waits LOSS_US loses its beacons: PLCA_OK clears and the loss counts. -/
theorem plcaLoss_waits {d : Dev} {p : Nat} (follows : d.plcaFollower p = true) (ok : d.f ethLinkStatus_PLCA_OK p = 1)
    (waits : d.f ethLinkCfg_LOSS_US p ≠ 0) : d.plcaLoss p = (d.sf ethLinkStatus_PLCA_OK p 0).ethInc p gMisc 12 := by
  have counted := keeps_ethInc (L := linkRegs) (by decide) (d.sf ethLinkStatus_PLCA_OK p 0) p gMisc 12
  rw [plcaLoss, if_pos (by simp [follows, b, ok])]
  exact if_neg (by rwa [counted.f (by decide), f_sf_of_apart (by decide)])

/-! #### Verification (R270) -/

section Verify
variable {d : Dev} {p : Nat}

/-- The next verify mPacket is sent. -/
def verifySent (d : Dev) (p : Nat) : Dev :=
  ((d.setEth p { d.eth p with verify := (d.eth p).verify + 1 }).sf ethPreempt_VERIFY_STATUS p 2).emit
    (.ethCtl p ctlVerify ((d.eth p).verify + 1))

theorem verify_verifySent (d : Dev) (p : Nat) : ((d.verifySent p).eth p).verify = (d.eth p).verify + 1 := by
  have same : (d.verifySent p).bus = (d.setEth p { d.eth p with verify := (d.eth p).verify + 1 }).bus := by simp [verifySent]
  rw [eth_of_bus same, eth_setEth_same]

theorem verifyTimer_sends (en : d.f ethPreempt_EN p = 1) (due : d.f ethPreempt_VERIFY_DIS p = 0)
    (runs : d.f ethPreempt_VERIFY_STATUS p = 1 ∨ d.f ethPreempt_VERIFY_STATUS p = 2) (link : d.f ethLinkStatus_LINK p = 1)
    (tx : d.f ethMacCfg_TX_EN p = 1) (more : (d.eth p).verify < 3) : d.verifyTimer p = d.verifySent p := by
  unfold verifyTimer
  rw [if_neg (by rcases runs with h | h <;> simp [b, en, due, link, tx, h]), if_pos more]
  dsimp only
  rw [eth_setEth_same, verifySent]

theorem verifyTimer_fails (en : d.f ethPreempt_EN p = 1) (due : d.f ethPreempt_VERIFY_DIS p = 0)
    (runs : d.f ethPreempt_VERIFY_STATUS p = 2) (link : d.f ethLinkStatus_LINK p = 1)
    (tx : d.f ethMacCfg_TX_EN p = 1) (all : (d.eth p).verify = 3) : d.verifyTimer p = d.sf ethPreempt_VERIFY_STATUS p 4 := by
  unfold verifyTimer
  rw [if_neg (by simp [b, en, due, link, tx, runs]), if_neg (by omega)]

theorem verifyTimer_silent (tx : d.f ethMacCfg_TX_EN p = 0) : d.verifyTimer p = d := if_pos (by simp [b, tx])

theorem verifyResponse_succeeds (en : d.f ethPreempt_EN p = 1) (runs : d.f ethPreempt_VERIFY_STATUS p = 2) :
    d.verifyResponse p = (d.sf ethPreempt_VERIFY_STATUS p 3).sf ethPreempt_ACTIVE p 1 := if_pos ⟨by rw [b, en]; rfl, runs⟩

theorem verifyRequest_answers (en : d.f ethPreempt_EN p = 1) (tx : d.f ethMacCfg_TX_EN p = 1)
    (link : d.f ethLinkStatus_LINK p = 1) : d.verifyRequest p = d.emit (.ethCtl p ctlRespond 0) :=
  if_pos (by simp [b, en, tx, link])

end Verify

/-! #### Gate lists (R272 to R275) -/

section Gates
variable {d : Dev} {p : Nat}

theorem configChange_pending (waits : d.f ethGateCfg_PENDING p = 1) : d.configChange p = d.inc .unitRejWr (uEth p) :=
  if_pos (by rw [b, waits]; rfl)

theorem configChange_bad (idle : d.f ethGateCfg_PENDING p = 0)
    (bad : d.f ethGateCfg_ADMIN_LEN p = 0 ∨ d.f ethGateAdminCycle_CYCLE_NS p < 1000) : d.configChange p = d.ethInc p gMisc 11 := by
  unfold configChange
  rw [if_neg (by simp [b, idle])]
  exact if_pos (bad.imp_right .inl)

/-- A good list waits for its change time. -/
def gatePending (d : Dev) (p t : Nat) : Dev :=
  ((d.setEth p { d.eth p with reqAt := d.gateNow p }).wrTime .ethGateChange (3 * p) t).sf ethGateCfg_PENDING p 1

theorem configChange_single (idle : d.f ethGateCfg_PENDING p = 0) (one : d.f ethGateCfg_ADMIN_LEN p = 1)
    (cycle : 1000 ≤ d.f ethGateAdminCycle_CYCLE_NS p) (entry : d.f ethGateAdminListInterval_INTERVAL_NS (256 * p) ≠ 0) :
    ∃ t, d.configChange p = d.gatePending p t := by
  unfold configChange
  rw [if_neg (by simp [b, idle])]
  exact ⟨_, if_neg (by simp [one, entry, cycle])⟩

theorem within_wrTime {F : Foot} {r : Reg} (array : r ∈ F.arrays) (d : Dev) (i x : Nat) : d.Within (d.wrTime r i x) F :=
  ((Within.wr d (.inr (.inl array)) _).trans (.wr _ (.inr (.inl array)) _)).trans (.wr _ (.inr (.inl array)) _)

theorem within_gatePending {F : Foot} (bus : F.hasPart .bus) (change : .ethGateChange ∈ F.arrays) (cfg : F.hasReg .ethGateCfg p)
    (t : Nat) : d.Within (d.gatePending p t) F :=
  ((within_setEth bus d p _).trans (within_wrTime change _ _ _)).trans (.sf _ cfg _)

theorem reqAt_gatePending (t : Nat) : ((d.gatePending p t).eth p).reqAt = d.gateNow p := by
  have same : (d.gatePending p t).bus = (d.setEth p { d.eth p with reqAt := d.gateNow p }).bus := by simp [gatePending, wrTime]
  rw [eth_of_bus same, eth_setEth_same]

theorem gatePending_held (t : Nat) : (d.gatePending p t).mg.held = d.mg.held := by simp [gatePending]

theorem gateExtended_of_not_pending (idle : d.f ethGateCfg_PENDING p = 0) : d.gateExtended p = false := by
  simp [gateExtended, cycleOmitted, b, idle]

theorem gateEntry_idle {i : Nat} (idle : (d.eth p).running = false ∨ d.f ethGateOperLen_LEN p ≤ i ∨ d.gateExtended p = true) :
    d.gateEntry p i = d :=
  if_pos (idle.imp_right (·.imp_right .inr))

/-- An entry that starts: it is shown, and with it its gates. -/
theorem exists_gateEntry {i : Nat} (runs : (d.eth p).running = true) (listed : i < d.f ethGateOperLen_LEN p)
    (starts : d.f ethGateStatus_RESTARTING p = 0 ∨ i = 0) (due : d.gateExtended p = false) :
    ∃ e, (((d.creditUpdate p).sf ethGateStatus_RESTARTING p 0).sf ethGateStatus_ENTRY p i).Keeps countRegs e ∧
      d.gateEntry p i = e.gateShow p := by
  unfold gateEntry
  rw [if_neg (by rcases starts with h | h <;> simp [runs, due, b, h] <;> omega)]
  extract_lets x y op act port z
  refine ⟨z, ?_, rfl⟩
  unfold z
  split
  · refine .trans (.setEth y p ?_) (.trans (keeps_ethInc (List.Subset.refl _) _ p gTx 17) (.emit _ _))
    rfl
  · split
    · refine .trans (.setEth y p ?_) (.emit _ _)
      rfl
    · exact .refl y

section Started
variable {i : Nat} (runs : (d.eth p).running = true) (listed : i < d.f ethGateOperLen_LEN p)
  (starts : d.f ethGateStatus_RESTARTING p = 0 ∨ i = 0) (due : d.gateExtended p = false)
include runs listed starts due

theorem f_gateEntry_entry (small : i < 256) : (d.gateEntry p i).f ethGateStatus_ENTRY p = i := by
  obtain ⟨e, kept, does⟩ := exists_gateEntry runs listed starts due
  rw [does, f_gateShow (by decide) (by decide), kept.f (by decide), f_sf_fits (by decide) (by decide) (Nat.lt_trans small (by decide))]

theorem f_gateEntry_restarting : (d.gateEntry p i).f ethGateStatus_RESTARTING p = 0 := by
  obtain ⟨e, kept, does⟩ := exists_gateEntry runs listed starts due
  rw [does, f_gateShow (by decide) (by decide), kept.f (by decide), f_sf_of_apart (by decide),
    f_sf_fits (by decide) (by decide) (by decide)]

theorem f_gateEntry_gates (small : i < 256) (on : d.f ethGateCfg_GATE_EN p = 1) :
    (d.gateEntry p i).f ethGateStatus_GATES p = d.f ethGateOperListOp_GATES (256 * p + i) := by
  obtain ⟨e, kept, does⟩ := exists_gateEntry runs listed starts due
  have shown {F : RField} (other : F.reg ≠ .ethGateStatus) (quiet : F.reg ∉ countRegs) (k : Nat) : e.f F k = d.f F k := by
    rw [kept.f quiet, f_of_rd (rd_sf_ne _ (.inl other.symm) _), f_of_rd (rd_sf_ne _ (.inl other.symm) _),
      creditUpdate, f_setEth]
  have entry : e.f ethGateStatus_ENTRY p = i := by
    rw [kept.f (by decide), f_sf_fits (by decide) (by decide) (Nat.lt_trans small (by decide))]
  have restarting : e.f ethGateStatus_RESTARTING p = 0 := by
    rw [kept.f (by decide), f_sf_of_apart (by decide), f_sf_fits (by decide) (by decide) (by decide)]
  have gates : e.gatesNow p = d.f ethGateOperListOp_GATES (256 * p + i) := by
    simp only [gatesNow, b, shown (F := ethGateCfg_GATE_EN) (by decide) (by decide), on, restarting, entry,
      shown (F := ethGateOperListOp_GATES) (by decide) (by decide)]
    rfl
  rw [does, f_gateShow_gates, gates, Nat.mod_eq_of_lt (show _ < 256 from f_lt d ethGateOperListOp_GATES _)]

theorem keeps_gateEntry : d.Keeps linkRegs (d.gateEntry p i) := by
  obtain ⟨e, kept, does⟩ := exists_gateEntry runs listed starts due
  rw [does]
  exact .trans (keeps_creditUpdate d p) (.trans (.sf (by decide) (by decide) _ _ _) (.trans (.sf (by decide) (by decide) _ _ _)
    ((kept.mono (by decide)).trans (keeps_gateShow e p))))

end Started

theorem gateEntry_held (d : Dev) (p i : Nat) : (d.gateEntry p i).mg.held = d.mg.held := by simp [gateEntry]

/-- The registers that hold the entries and the base of a list once it is operational. -/
def operRegs : List Reg := [.ethGateOperListOp, .ethGateOperListInterval, .ethGateOperBase]

/-- The rest of a list of `n` entries becomes operational, and with it the list runs (R274). -/
def gateTaken (d : Dev) (p n : Nat) : Dev :=
  let x := d.sf ethGateOperCycle_CYCLE_NS p (d.f ethGateAdminCycle_CYCLE_NS p)
  let x := x.sf ethGateOperExt_EXT_NS p (x.f ethGateAdminExt_EXT_NS p)
  let x := (x.sf ethGateOperLen_LEN p n).sf ethGateCfg_PENDING p 0
  (x.setEth p { x.eth p with running := true }).ethInc p gMisc 10

theorem gateTaken_shows (d : Dev) (p : Nat) {n : Nat} (fits : n < 512) :
    (d.gateTaken p n).f ethGateOperCycle_CYCLE_NS p = d.f ethGateAdminCycle_CYCLE_NS p ∧
      (d.gateTaken p n).f ethGateOperLen_LEN p = n ∧ (d.gateTaken p n).f ethGateCfg_PENDING p = 0 ∧
      ((d.gateTaken p n).eth p).running = true := by
  unfold gateTaken
  extract_lets x y z port
  have counted := keeps_ethInc (L := countRegs) (List.Subset.refl _) (z.setEth p { port with running := true }) p gMisc 10
  refine ⟨?_, ?_, ?_, ?_⟩
  · rw [counted.f (by decide), f_setEth, f_sf_of_apart (by decide), f_sf_of_apart (by decide), f_sf_of_apart (by decide),
      f_sf_same _ (by decide) (by decide), Nat.mod_eq_of_lt (f_lt d ethGateAdminCycle_CYCLE_NS p)]
  · rw [counted.f (by decide), f_setEth, f_sf_of_apart (by decide), f_sf_fits (by decide) (by decide) fits]
  · rw [counted.f (by decide), f_setEth, f_sf_fits (by decide) (by decide) (by decide)]
  · rw [counted.running, eth_setEth_same]

theorem gateApply_idle (idle : d.f ethGateCfg_PENDING p = 0) : d.gateApply p = d := if_neg (by simp [b, idle])

theorem exists_gateApply (waits : d.f ethGateCfg_PENDING p = 1) : ∃ e, d.Keeps operRegs e ∧
    d.gateApply p = (e.gateTaken p (d.f ethGateCfg_ADMIN_LEN p)).gateEntry p 0 := by
  unfold gateApply
  rw [if_pos (by rw [b, waits]; rfl)]
  extract_lets n e x
  have copied : d.Keeps operRegs e := by
    refine .foldl (fun y i => ?_) _ d
    split
    · exact .trans (.wr (by decide) (by decide) y _ _) (.wr (by decide) (by decide) _ _ _)
    · exact .refl y
  refine ⟨x, copied.trans (.trans (.wr (by decide) (by decide) e _ _)
    (.trans (.wr (by decide) (by decide) _ _ _) (.wr (by decide) (by decide) _ _ _))), rfl⟩

/-- A list that is applied runs from its entry 0. -/
theorem gateApply_runs (waits : d.f ethGateCfg_PENDING p = 1) (some : 1 ≤ d.f ethGateCfg_ADMIN_LEN p)
    (fits : d.f ethGateCfg_ADMIN_LEN p ≤ 256) :
    (d.gateApply p).f ethGateOperCycle_CYCLE_NS p = d.f ethGateAdminCycle_CYCLE_NS p ∧
      (d.gateApply p).f ethGateOperLen_LEN p = d.f ethGateCfg_ADMIN_LEN p ∧ (d.gateApply p).f ethGateCfg_PENDING p = 0 ∧
      ((d.gateApply p).eth p).running = true ∧ (d.gateApply p).f ethGateStatus_ENTRY p = 0 := by
  obtain ⟨e, copied, does⟩ := exists_gateApply waits
  obtain ⟨cycle, len, idle, runs⟩ := gateTaken_shows e p (lt_of_le_of_lt fits (by decide))
  rw [copied.f (by decide)] at cycle
  have starts : 0 < (e.gateTaken p (d.f ethGateCfg_ADMIN_LEN p)).f ethGateOperLen_LEN p := by rwa [len]
  have due := gateExtended_of_not_pending idle
  have entered := keeps_gateEntry runs starts (.inr rfl) due
  rw [does]
  refine ⟨?_, ?_, ?_, ?_, f_gateEntry_entry runs starts (.inr rfl) due (by decide)⟩
  · rw [entered.f (by decide), cycle]
  · rw [entered.f (by decide), len]
  · rw [entered.f (by decide), idle]
  · rw [entered.running, runs]

theorem gateApply_held (d : Dev) (p : Nat) : (d.gateApply p).mg.held = d.mg.held := by simp [gateApply, gateEntry_held]

end Gates

end Dev
end Sys2Proof.Machine
end
section
/-! ### Ethernet links and gate lists as commands (R238, R259, R270 to R275, R291) -/
namespace Sys2Proof.Machine
open Dev

section Exec
variable (p : Fin 20) (s : State)

theorem exec_pcsLinkConditionChange (lock lf rf an : Bool) : exec (.pcsLinkConditionChange p lock lf rf an) s =
    s.logic fun d => (d.pcsChange p.val lock lf rf an).boundary (uEth p.val) := rfl
theorem exec_linkLossDetected :
    exec (.linkLossDetected p) s = s.logic fun d => (d.linkLossDetected p.val).boundary (uEth p.val) := rfl
theorem exec_linkUpDetected (an : Fin 16) : exec (.linkUpDetected p an) s = s.logic fun d => d.ethUp p.val an.val := rfl
theorem exec_linkRestored (r : Fin 96) (an : Fin 16) :
    exec (.linkRestored r an) s = s.logic fun d => d.anyRestored r.val an.val := rfl
theorem exec_plcaBeaconLoss :
    exec (.plcaBeaconLoss p) s = s.logic fun d => (d.plcaLoss p.val).boundary (uEth p.val) := rfl
theorem exec_plcaBeaconReturn : exec (.plcaBeaconReturn p) s = s.logic fun d => d.plcaReturn p.val := rfl
theorem exec_preemptVerifyTimer : exec (.preemptVerifyTimer p) s = s.logic fun d => d.verifyTimer p.val := rfl
theorem exec_verifyMpacketReceived (x : VerifyMpacket) : exec (.verifyMpacketReceived x) s = s.logic fun d =>
    if x.response then d.verifyResponse x.port.val else d.verifyRequest x.port.val := rfl
theorem exec_configChange : exec (.configChange p) s = s.logic fun d => d.configChange p.val := rfl
theorem exec_gateCancel : exec (.gateCancel p) s = s.logic fun d => d.gateCancel p.val := rfl
theorem exec_gateConfigApply : exec (.gateConfigApply p) s = s.logic fun d => d.gateApply p.val := rfl
theorem exec_gateEntryStart (i : Fin 256) : exec (.gateEntryStart p i) s = s.logic fun d => d.gateEntry p.val i.val := rfl

end Exec

section Commands
variable {s : State} (on : s.On) {p : Fin 20}
include on

theorem runs_pcsLinkConditionChange_no_loss (lock lf rf an : Bool)
    (calm : s.dev.f ethLinkStatus_LINK p = 0 ∨ s.dev.f ethLinkCfg_LOSS_US p ≠ 0) (closed : s.dev.ep.txn = none)
    (free : s.dev.bus.bwHeld = []) : Runs (.pcsLinkConditionChange p lock lf rf an) s fun d =>
      d.b ethLinkStatus_LOCK p = lock ∧ d.b ethLinkStatus_LOCAL_FAULT p = lf ∧ d.b ethLinkStatus_REMOTE_FAULT p = rf ∧
      (d.eth p).anDown = !an ∧ s.dev.Only d { regs := [(.ethLinkStatus, p)], parts := [.bus] } := by
  have does : (s.dev.pcsChange p lock lf rf an).boundary (uEth p) = s.dev.pcsShown p lock lf rf an := by
    rw [pcsChange_no_loss lock lf rf an calm]
    exact boundary_quiet (by simp [pcsShown, pcsRegs, setEth, closed]) (by simp [pcsShown, pcsRegs, setEth, free]) _
  obtain ⟨locked, localFault, remote⟩ := b_pcsShown (d := s.dev) (p := p) lock lf rf an
  refine runs_logic_to on (exec_pcsLinkConditionChange ..) does (by simp [pcsShown, pcsRegs])
    ⟨locked, localFault, remote, ?_, (within_pcsShown lock lf rf an (.inl (by simp)) (.inl (by simp))).only⟩
  rw [pcsShown, eth_setEth_same]

theorem runs_linkLossDetected_down (stable : s.dev.f ethLinkStatus_STEPPING p = 0) (up : s.dev.f ethLinkStatus_LINK p = 1)
    (awake : s.dev.portAsleep p = false) (idle : (s.dev.eth p).step = .none) (closed : s.dev.ep.txn = none) :
    Runs (.linkLossDetected p) s fun d => d.f ethLinkStatus_LINK p = 0 ∧ d.f bqPortCfg_STATE p ≠ 0 := by
  obtain ⟨down, off, quiet⟩ := linkLossDetected_down p.isLt stable up awake idle
  have regs := rd_of_regs (boundary_regs (quiet closed) (uEth p))
  refine runs_logic_of_held on (exec_linkLossDetected ..) ?_ ⟨?_, ?_⟩
  · rw [boundary_held_of_no_txn (quiet closed)]
    unfold linkLossDetected
    split <;> simp
  · rw [f_of_rd (regs _ _), down]
  · rwa [f_of_rd (regs _ _)]

theorem runs_plcaBeaconLoss_waits (follows : s.dev.plcaFollower p = true) (ok : s.dev.f ethLinkStatus_PLCA_OK p = 1)
    (waits : s.dev.f ethLinkCfg_LOSS_US p ≠ 0) (closed : s.dev.ep.txn = none) : Runs (.plcaBeaconLoss p) s fun d =>
      d.f ethLinkStatus_PLCA_OK p = 0 ∧ d.ethCtr p 2 12 = s.dev.ethCtr p 2 12 + 1 := by
  have counted := keeps_ethInc (L := countRegs) (List.Subset.refl _) (s.dev.sf ethLinkStatus_PLCA_OK p 0) p gMisc 12
  have quiet := counted.txn (by rw [sf_ep, closed])
  refine runs_logic_to on (exec_plcaBeaconLoss ..) (congrArg (boundary · (uEth p)) (plcaLoss_waits follows ok waits)) ?_ ⟨?_, ?_⟩
  · rw [boundary_held_of_no_txn quiet]
    simp
  · rw [f_of_rd (rd_of_regs (boundary_regs quiet _) _ _), counted.f (by decide), f_sf_fits (by decide) (by decide) (by decide)]
  · rw [ethCtr, ctr, boundary_ctrs quiet, ← ctr, ← ethCtr, ← gMisc, ethCtr_ethInc, ethCtr, ctr, sf_ctrs]
    rfl

theorem runs_gateEntryStart_shows {i : Fin 256} (runs : (s.dev.eth p).running = true) (listed : i < s.dev.f ethGateOperLen_LEN p)
    (en : s.dev.f ethGateCfg_GATE_EN p = 1) (steady : s.dev.f ethGateStatus_RESTARTING p = 0)
    (due : s.dev.gateExtended p = false) : Runs (.gateEntryStart p i) s fun d => d.f ethGateStatus_ENTRY p = i ∧
      d.f ethGateStatus_GATES p = s.dev.f ethGateOperListOp_GATES (256 * p + i) ∧ d.f ethGateStatus_RESTARTING p = 0 :=
  runs_logic_of_held on (exec_gateEntryStart ..) (gateEntry_held ..)
    ⟨f_gateEntry_entry runs listed (.inl steady) due i.isLt, f_gateEntry_gates runs listed (.inl steady) due i.isLt en,
      f_gateEntry_restarting runs listed (.inl steady) due⟩

end Commands

/-- Settles O29: each command by the operation of its row, in each case that the clauses tell apart. -/
theorem ethernetLinksAndGates : Obligations.EthernetLinksAndGates := by
  unfold Obligations.EthernetLinksAndGates
  intro s p on
  refine ⟨fun lock lf rf an calm closed free => runs_pcsLinkConditionChange_no_loss on lock lf rf an calm closed free,
    fun stable up awake idle closed _ => runs_linkLossDetected_down on stable up awake idle closed, fun ignored closed free => ?_,
    fun an fixed intf online => ?_, fun an r port fixed intf online => ?_, fun an off => ?_,
    fun follows ok waits closed _ => runs_plcaBeaconLoss_waits on follows ok waits closed, ?_,
    fun en due runs link tx more => ?_, fun en due runs link tx all => ?_, fun en runs => ?_, fun en tx link => ?_, fun tx => ?_,
    fun waits => ?_, fun idle bad => ?_, fun idle one cycle entry => ?_, ?_, fun idle => ?_, fun waits some fits => ?_,
    fun i idle => ?_, fun i runs listed en steady due => runs_gateEntryStart_shows on runs listed en steady due⟩
  · have does : (s.dev.linkLossDetected p).boundary (uEth p) = s.dev := by
      rw [linkLossDetected, ignored]
      exact boundary_quiet closed free _
    exact runs_logic_to on (exec_linkLossDetected ..) does rfl rfl
  · exact runs_logic_of_held on (exec_linkUpDetected ..) (ethUp_held ..) (ethUp_shows fixed intf online an)
  · obtain ⟨link, -, up⟩ := ethUp_shows fixed intf online an
    exact runs_logic_to on (exec_linkRestored ..) (if_pos port) (ethUp_held ..) ⟨link, up⟩
  · rintro c (_ | ⟨_, _ | _⟩)
    exact runs_logic_to on (exec_linkUpDetected ..) (ethUp_off off _) rfl rfl
  · exact runs_logic_of_held on (exec_plcaBeaconReturn ..) (by simp [plcaReturn])
      ⟨f_sf_fits (by decide) (by decide) (by decide) _ _, (Within.sf _ (.inl (by simp)) _).only⟩
  · refine runs_logic_to on (exec_preemptVerifyTimer ..) (verifyTimer_sends en due runs link tx more) (by simp [verifySent])
      ⟨?_, verify_verifySent .., ?_⟩
    · exact (f_of_rd (rd_of_regs rfl _ _)).trans (f_sf_fits (by decide) (by decide) (by decide) _ _)
    · simp [verifySent, emit, setEth]
  · exact runs_logic_to on (exec_preemptVerifyTimer ..) (verifyTimer_fails en due runs link tx all) (by simp)
      (f_sf_fits (by decide) (by decide) (by decide) _ _)
  · refine runs_logic_to on (exec_verifyMpacketReceived ..) (verifyResponse_succeeds en runs) (by simp)
      ⟨?_, f_sf_fits (by decide) (by decide) (by decide) _ _, ((Within.sf _ (.inl (by simp)) _).trans (.sf _ (.inl (by simp)) _)).only⟩
    rw [f_sf_of_apart (by decide), f_sf_fits (by decide) (by decide) (by decide)]
  · exact runs_logic_to on (exec_verifyMpacketReceived ..) (verifyRequest_answers en tx link) (by simp) rfl
  · exact runs_logic_to on (exec_preemptVerifyTimer ..) (verifyTimer_silent tx) rfl rfl
  · exact runs_logic_to on (exec_configChange ..) (configChange_pending waits) (by simp) rfl
  · exact runs_logic_to on (exec_configChange ..) (configChange_bad idle bad) (by simp) ⟨ethCtr_ethInc .., only_ethInc ..⟩
  · obtain ⟨t, does⟩ := configChange_single idle one cycle entry
    exact runs_logic_to on (exec_configChange ..) does (gatePending_held t)
      ⟨f_sf_fits (by decide) (by decide) (by decide) _ _, reqAt_gatePending t,
        (within_gatePending (.inl (by simp)) (by simp) (.inl (by simp)) t).only⟩
  · exact runs_logic_of_held on (exec_gateCancel ..) (by simp)
      ⟨f_sf_fits (by decide) (by decide) (by decide) _ _, (Within.sf _ (.inl (by simp)) _).only⟩
  · exact runs_logic_to on (exec_gateConfigApply ..) (gateApply_idle idle) rfl rfl
  · exact runs_logic_of_held on (exec_gateConfigApply ..) (gateApply_held ..) (gateApply_runs waits some fits)
  · exact runs_logic_to on (exec_gateEntryStart ..) (gateEntry_idle idle) rfl rfl

end Sys2Proof.Machine
end
section
/-! ### How the commands of the HV side complete, and those of ports, buses and the other parts (R384, R516) -/
namespace Sys2Proof.Machine
open Dev

/-- A command that is one change of the HV side completes with that change as its effect, in every state. -/
theorem exec_eq_afterHv {c : Instr} {s : State} (f : Dev → Dev) (hc : exec c s = s.always f) : exec c s = .next (s.afterHv f) := hc

/-- Settles O60: each command of the logic side is `State.logic`, each of the HV side `State.always`, of the effect named. -/
theorem deviceCommandsComplete : Obligations.DeviceCommandsComplete := by
  unfold Obligations.DeviceCommandsComplete
  intro s
  and_intros
  all_goals intros
  any_goals
    rename s.On => on
    exact exec_eq_after _ rfl on
  all_goals exact exec_eq_afterHv _ rfl

end Sys2Proof.Machine
end
section
/-! ### Step frames: their bytes, and how a port sends and receives them (R262, R263, R284) -/
namespace Sys2Proof.Machine
namespace Dev

/-! #### Counting a frame leaves the ports as they are -/

@[simp] theorem bus_ethAdd (d : Dev) (p g k n : Nat) : (d.ethAdd p g k n).bus = d.bus := by
  unfold ethAdd
  dsimp only
  split
  · rfl
  · exact (part_raise (p := .bus) (by decide) _ _ _ _).trans (by simp [incBy])

@[simp] theorem bus_ethInc (d : Dev) (p g k : Nat) : (d.ethInc p g k).bus = d.bus := bus_ethAdd ..

@[simp] theorem bus_ethTxCount (d : Dev) (p : Nat) (b : List Byte) : (d.ethTxCount p b).bus = d.bus := by
  unfold ethTxCount
  dsimp only
  split <;> simp

theorem keeps_ethRxCount (d : Dev) (p : Nat) (b : List Byte) : d.Keeps countRegs (d.ethRxCount p b) :=
  have inc (x : Dev) (k : Nat) : x.Keeps countRegs (x.ethInc p gRx k) := keeps_ethInc (List.Subset.refl _) x p gRx k
  .trans (inc d 1) (.trans (keeps_ethAdd (List.Subset.refl _) _ p gRx 0 _) (.trans (inc _ _) (inc _ _)))

theorem eth_ethRxCount (d : Dev) (p : Nat) (b : List Byte) (q : Nat) : (d.ethRxCount p b).eth q = d.eth q :=
  eth_of_bus (by simp [ethRxCount]) q

@[simp] theorem ethRxCount_held (d : Dev) (p : Nat) (b : List Byte) : (d.ethRxCount p b).mg.held = d.mg.held := by
  simp [ethRxCount]

/-! #### Reception -/

/-- The bytes of a step frame as its row receives it, from a partner of address 0 (R284). -/
def stepMsg (typ txn rate ceil floor reason : Nat) : List Byte :=
  beBytes 6 0x0180C200000E ++ beBytes 6 0 ++ [0x88, 0xB5, 1, 1, byteOf typ, byteOf txn, byteOf rate, byteOf ceil, byteOf floor,
    byteOf reason] ++ List.replicate 38 0

section Frame
variable (d : Dev) (p txn rate ceil floor reason : Nat)

theorem stepFrame_caps :
    d.stepFrame p (stepMsg stpCaps txn rate ceil floor reason) = d.stepCaps p (ceil % 2 ^ 8 % 4) := rfl
theorem stepFrame_req :
    d.stepFrame p (stepMsg stpReq txn rate ceil floor reason) = d.stepReq p (txn % 2 ^ 8) (rate % 2 ^ 8 % 4) := rfl
theorem stepFrame_ack : d.stepFrame p (stepMsg stpAck txn rate ceil floor reason) = d.stepAck p (txn % 2 ^ 8) := rfl
theorem stepFrame_nak : d.stepFrame p (stepMsg stpNak txn rate ceil floor reason) = d.stepNak p (txn % 2 ^ 8) := rfl
theorem stepFrame_done : d.stepFrame p (stepMsg stpDone txn rate ceil floor reason) = d.stepDone p (txn % 2 ^ 8) := rfl

end Frame

section Arrives
variable {d : Dev} {p : Nat} (rx : d.f ethMacCfg_RX_EN p = 1) (intf : d.f ethIntf_INTF p = 7)
include rx intf

/-- A receiving XSTEP port counts the frame and acts on its type. -/
theorem stepArrives_receiving (typ txn rate ceil floor reason : Nat) : d.stepArrives p typ txn rate ceil floor reason =
    (d.ethRxCount p (stepMsg typ txn rate ceil floor reason)).stepFrame p (stepMsg typ txn rate ceil floor reason) :=
  if_neg (by simp [b, rx, intf])

theorem stepArrives_caps (ceil floor : Byte) : d.stepArrives p stpCaps 0 0 ceil.toNat floor.toNat 0 =
    (d.ethRxCount p (stepMsg stpCaps 0 0 ceil.toNat floor.toNat 0)).stepCaps p (ceil.toNat % 4) := by
  rw [stepArrives_receiving rx intf, stepFrame_caps, BitVec.toNat_mod_cancel]

theorem stepArrives_req (txn rate : Byte) : d.stepArrives p stpReq txn.toNat rate.toNat 0 0 0 =
    (d.ethRxCount p (stepMsg stpReq txn.toNat rate.toNat 0 0 0)).stepReq p txn.toNat (rate.toNat % 4) := by
  rw [stepArrives_receiving rx intf, stepFrame_req, BitVec.toNat_mod_cancel, BitVec.toNat_mod_cancel]

theorem stepArrives_ack (txn rate : Byte) : d.stepArrives p stpAck txn.toNat rate.toNat 0 0 0 =
    (d.ethRxCount p (stepMsg stpAck txn.toNat rate.toNat 0 0 0)).stepAck p txn.toNat := by
  rw [stepArrives_receiving rx intf, stepFrame_ack, BitVec.toNat_mod_cancel]

theorem stepArrives_nak (txn rate reason : Byte) : d.stepArrives p stpNak txn.toNat rate.toNat 0 0 reason.toNat =
    (d.ethRxCount p (stepMsg stpNak txn.toNat rate.toNat 0 0 reason.toNat)).stepNak p txn.toNat := by
  rw [stepArrives_receiving rx intf, stepFrame_nak, BitVec.toNat_mod_cancel]

theorem stepArrives_done (txn rate : Byte) : d.stepArrives p stpDone txn.toNat rate.toNat 0 0 0 =
    (d.ethRxCount p (stepMsg stpDone txn.toNat rate.toNat 0 0 0)).stepDone p txn.toNat := by
  rw [stepArrives_receiving rx intf, stepFrame_done, BitVec.toNat_mod_cancel]

end Arrives

/-! #### Sending -/

/-- A step frame joins those that wait for the frame on the wire. -/
def stepQueued (d : Dev) (p : Nat) (b : List Byte) : Dev := d.setEth p { d.eth p with ctl := (d.eth p).ctl ++ [b] }

theorem eth_stepQueued (d : Dev) (p : Nat) (b : List Byte) :
    (d.stepQueued p b).eth p = { d.eth p with ctl := (d.eth p).ctl ++ [b] } := eth_setEth_same ..

theorem step_stepEmit (d : Dev) (p : Nat) (b : List Byte) : ((d.stepEmit p b).eth p).step = (d.eth p).step := by
  have bus : (d.stepEmit p b).bus = (d.setEth p { d.eth p with octets := (d.eth p).octets + wireLen b.length + 20 }).bus := by
    simp [stepEmit]
  rw [eth_of_bus bus, eth_setEth_same]

theorem outs_stepEmit (d : Dev) (p : Nat) (b : List Byte) : (d.stepEmit p b).outs.getLast? = some (.eth p b false) :=
  List.getLast?_concat

/-- The step frames that waited are taken to be sent. -/
def stepTaken (d : Dev) (p : Nat) : Dev := d.setEth p { d.eth p with ctl := [] }

theorem stepFlush_sends {d : Dev} {p : Nat} (tx : d.f ethMacCfg_TX_EN p = 1) (link : d.f ethLinkStatus_LINK p = 1)
    (idle : (d.eth p).wire = none) (waiting : (d.eth p).ctl ≠ []) :
    d.stepFlush p = (d.eth p).ctl.foldl (fun x c => x.stepEmit p c) (d.stepTaken p) := by
  have sends : ((d.stepTaken p).b ethMacCfg_TX_EN p && (d.stepTaken p).b ethLinkStatus_LINK p) = true := by
    simp [stepTaken, b, f_setEth, tx, link]
  rw [stepFlush, if_neg (by simp [idle, waiting])]
  exact if_pos sends

/-- A port that has sent its DONE sends nothing until its lane is trained (R285). -/
theorem stepSend_stopped {d : Dev} {p : Nat} (stopped : stepStopped (d.eth p) = true) (typ txn rate reason : Nat) :
    d.stepSend p typ txn rate reason = d := if_neg (by simp [stopped])

section Send
variable {d : Dev} {p : Nat} (talks : stepStopped (d.eth p) = false) (tx : d.f ethMacCfg_TX_EN p = 1)
  (link : d.f ethLinkStatus_LINK p = 1)
include talks tx link

theorem stepSend_talking (typ txn rate reason : Nat) :
    d.stepSend p typ txn rate reason = (d.stepQueued p (d.stepBytes p typ txn rate reason)).stepFlush p :=
  if_pos (by simp [b, talks, tx, link])

theorem stepSend_waits (busy : (d.eth p).wire ≠ none) (typ txn rate reason : Nat) :
    d.stepSend p typ txn rate reason = d.stepQueued p (d.stepBytes p typ txn rate reason) := by
  rw [stepSend_talking talks tx link]
  exact if_pos (by simp [eth_stepQueued, Option.isSome_iff_ne_none, busy])

/-- With no frame on the wire it goes out last, after those that waited. -/
theorem exists_stepSend (idle : (d.eth p).wire = none) (typ txn rate reason : Nat) :
    ∃ e : Dev, (e.eth p).step = (d.eth p).step ∧
      d.stepSend p typ txn rate reason = e.stepEmit p (d.stepBytes p typ txn rate reason) := by
  rw [stepSend_talking talks tx link]
  generalize d.stepBytes p typ txn rate reason = m
  have waiting : ((d.stepQueued p m).eth p).ctl = (d.eth p).ctl ++ [m] := congrArg EthPort.ctl (eth_stepQueued d p m)
  refine ⟨(d.eth p).ctl.foldl (fun x c => x.stepEmit p c) ((d.stepQueued p m).stepTaken p), ?_, ?_⟩
  · refine foldl_keeps (fun x : Dev => (x.eth p).step = (d.eth p).step) _ (fun x c same => (step_stepEmit x p c).trans same) _ ?_
    rw [stepTaken, eth_setEth_same, eth_stepQueued]
  · rw [stepFlush_sends (d := d.stepQueued p m) tx link (by rw [eth_stepQueued, idle]) (by simp [waiting]), waiting,
      List.foldl_append, List.foldl_cons, List.foldl_nil]

theorem outs_stepSend (idle : (d.eth p).wire = none) (typ txn rate reason : Nat) :
    (d.stepSend p typ txn rate reason).outs.getLast? = some (.eth p (d.stepBytes p typ txn rate reason) false) := by
  obtain ⟨e, -, sent⟩ := exists_stepSend talks tx link idle typ txn rate reason
  rw [sent, outs_stepEmit]

theorem step_stepSend (idle : (d.eth p).wire = none) (typ txn rate reason : Nat) :
    ((d.stepSend p typ txn rate reason).eth p).step = (d.eth p).step := by
  obtain ⟨e, same, sent⟩ := exists_stepSend talks tx link idle typ txn rate reason
  rw [sent, step_stepEmit, same]

end Send

/-- Counting a received frame changes nothing of the frames that the port sends. -/
theorem stepBytes_ethRxCount (d : Dev) (p : Nat) (m : List Byte) (typ txn rate reason : Nat) :
    (d.ethRxCount p m).stepBytes p typ txn rate reason = d.stepBytes p typ txn rate reason := by
  have counted := keeps_ethRxCount d p m
  simp only [stepBytes, counted.rd (r := .ethMacAddr) (by decide), counted.f (F := ethStepCfg_CEIL) (by decide),
    counted.f (F := ethStepCfg_FLOOR) (by decide)]

end Dev
end Sys2Proof.Machine
end
section
/-! ### Rate steps: how a port takes each message and timer (R282, R283, R285 to R287) -/
namespace Sys2Proof.Machine
namespace Dev

/-! #### The end of a step -/

theorem within_setAcct (d : Dev) (a : Nat) (x : PaAcct) : d.Within (d.setAcct a x) flushFoot :=
  have stored : d.Within { d with pa := Sparse.set paDefault d.pa a x } flushFoot :=
    .parts rfl rfl fun q n => by cases q <;> simp_all [Part.same, Foot.hasPart, flushFoot]
  stored.trans (within_paShow _ a)

/-- A step that ends gives its leave back, clears STEPPING and BUSY and shows how it ended. -/
theorem exists_stepEnd (d : Dev) (p last : Nat) : ∃ e, d.Within e flushFoot ∧ d.stepEnd p last =
    (((e.sf ethLinkStatus_STEPPING p 0).sf ethStepStatus_BUSY p 0).sf ethStepStatus_LAST p last).setStep p .none :=
  ⟨_, (within_setAcct d 0 _).trans (within_setAcct _ 0 _), rfl⟩

theorem f_setStep (d : Dev) (p : Nat) (x : StepPhase) (F : RField) (i : Nat) : (d.setStep p x).f F i = d.f F i := rfl

theorem eth_setStep (d : Dev) (p : Nat) (x : StepPhase) : (d.setStep p x).eth p = { d.eth p with step := x } :=
  eth_setEth_same ..

theorem step_stepEnd (d : Dev) (p last : Nat) : ((d.stepEnd p last).eth p).step = .none := by
  obtain ⟨e, -, does⟩ := exists_stepEnd d p last
  rw [does, eth_setStep]

theorem f_stepEnd_busy (d : Dev) (p last : Nat) : (d.stepEnd p last).f ethStepStatus_BUSY p = 0 := by
  obtain ⟨e, -, does⟩ := exists_stepEnd d p last
  rw [does, f_setStep, f_sf_of_apart (by decide), f_sf_fits (by decide) (by decide) (by decide)]

theorem f_stepEnd_last (d : Dev) (p : Nat) {last : Nat} (code : last < 16) : (d.stepEnd p last).f ethStepStatus_LAST p = last := by
  obtain ⟨e, -, does⟩ := exists_stepEnd d p last
  rw [does, f_setStep, f_sf_fits (by decide) (by decide) code]

theorem f_stepEnd {F : RField} (leave : F.reg ∉ [Reg.mdPaBudget, .mdPaWait]) (stepping : ethLinkStatus_STEPPING.apart F = true)
    (busy : ethStepStatus_BUSY.apart F = true) (ended : ethStepStatus_LAST.apart F = true) (d : Dev) (p last i : Nat) :
    (d.stepEnd p last).f F i = d.f F i := by
  obtain ⟨e, freed, does⟩ := exists_stepEnd d p last
  rw [does, f_setStep, f_sf_of_apart ended, f_sf_of_apart busy, f_sf_of_apart stepping]
  exact f_of_rd (freed.reg _ i (by simpa [Foot.hasReg, flushFoot] using leave))

theorem ethCtr_stepEnd (d : Dev) (p last q g k : Nat) : (d.stepEnd p last).ethCtr q g k = d.ethCtr q g k := by
  obtain ⟨e, freed, does⟩ := exists_stepEnd d p last
  have same : (d.stepEnd p last).ctrs = e.ctrs := by
    rw [does]
    simp [setStep, setEth]
  rw [ethCtr, ctr, same]
  exact freed.ctr .ethCnt _ (by simp [Foot.hasCtr, flushFoot])

section Phases
variable {d : Dev} {p : Nat}

/-! #### CAPS, training and the window -/

theorem stepCapsTimer_off (off : d.stepOn p = false) : d.stepCapsTimer p = d := if_neg (by simp [off])

theorem stepCapsTimer_on (on : d.stepOn p = true) :
    d.stepCapsTimer p = d.stepSend p stpCaps 0 (d.f ethStepStatus_RATE p) 0 := if_pos on

theorem stepCapsTimer_stopped (stopped : stepStopped (d.eth p) = true) : d.stepCapsTimer p = d := by
  unfold stepCapsTimer
  rw [stepSend_stopped stopped, ite_self]

theorem stepCaps_shows (d : Dev) (p ceil : Nat) :
    (d.stepCaps p ceil).f ethLinkStatus_PEER_OK p = 1 ∧ ((d.stepCaps p ceil).eth p).peerCeil = ceil := by
  have bus : (d.stepCaps p ceil).bus = (d.setEth p { d.eth p with peerCeil := ceil }).bus := sf_bus ..
  refine ⟨f_sf_fits (by decide) (by decide) (by decide) _ _, ?_⟩
  rw [eth_of_bus bus, eth_setEth_same]

/-- A lane that does not lock as the link comes up is trained at rate `n` (R282). -/
def stepTrainAt (d : Dev) (p n : Nat) : Dev := (d.sf ethStepStatus_RATE p n).emit (.ethCtl p ctlTrain n)

theorem stepTrainTimeout_trains (on : d.stepOn p = true) (down : d.f ethLinkStatus_LINK p = 0)
    (lock : d.f ethLinkStatus_LOCK p = 0) : d.stepTrainTimeout p = d.stepTrainAt p
      (if d.f ethStepStatus_RATE p = 0 then d.f ethStepCfg_CEIL p else d.f ethStepStatus_RATE p - 1) :=
  if_pos (by simp [b, on, down, lock])

/-- The next rate down from the one shown is a code of RATE. -/
theorem stepTrain_fits (d : Dev) (p : Nat) :
    (if d.f ethStepStatus_RATE p = 0 then d.f ethStepCfg_CEIL p else d.f ethStepStatus_RATE p - 1) < 4 := by
  have rate : d.f ethStepStatus_RATE p < 4 := f_lt d ethStepStatus_RATE p
  have ceil : d.f ethStepCfg_CEIL p < 4 := f_lt d ethStepCfg_CEIL p
  split <;> omega

/-- A port that is not stepping with a partner asks for no step. -/
theorem stepEvaluate_inactive (idle : d.stepActive p = false) : d.stepEvaluate p = d := if_neg (by simp [idle])

theorem eth_stepWindow (idle : d.stepActive p = false) : (d.stepWindow p).eth p = { d.eth p with
    octets := 0
    low := if (d.eth p).octets * 800 < d.f ethStepCfg_DOWN_PCT p * d.rate p then (d.eth p).low + 1 else 0 } := by
  unfold stepWindow
  extract_lets x low
  have inactive : (d.setEth p { x with octets := 0, low := if low then x.low + 1 else 0 }).stepActive p = false := idle
  rw [stepEvaluate_inactive inactive, eth_setEth_same]
  simp only [low, x, decide_eq_true_eq]

/-! #### Requests and their answers -/

/-- A REQ while the leave of another is awaited is answered by NAK BUSY (R286). -/
theorem stepReq_partnerLeave {old t : Nat} (other : (d.eth p).step = .partnerLeave old t) (txn rate : Nat) :
    d.stepReq p txn rate = d.stepSend p stpNak txn rate 1 := by
  rw [stepReq, other]

theorem stepReq_stopped (stopped : stepStopped (d.eth p) = true) (txn rate : Nat) : d.stepReq p txn rate = d := by
  have silent := stepSend_stopped stopped stpNak txn rate 1
  cases phase : (d.eth p).step with
  | agreed | training | falling =>
    rw [stepReq, phase]
    exact silent
  | none | wantLeave | reqSent | partnerLeave => simp [stepStopped, phase] at stopped

@[simp] theorem stepAgree_held (d : Dev) (p txn back t : Nat) (ini : Bool) :
    (d.stepAgree p txn back t ini).mg.held = d.mg.held := by
  simp [stepAgree]

@[simp] theorem stepReq_held (d : Dev) (p txn t : Nat) : (d.stepReq p txn t).mg.held = d.mg.held := by
  have asked := paRequest_held d 0 (.rateStep p) stepMw
  unfold stepReq
  repeat' split
  all_goals simp_all

/-- While a frame is on the wire, a port that has not sent its DONE waits for the end of that frame. -/
theorem stepAdvance_busy {txn back t : Nat} {received ini : Bool} (agreed : (d.eth p).step = .agreed txn back t false received ini)
    (busy : (d.eth p).wire ≠ none) : d.stepAdvance p = d := by
  have sending : (d.eth p).wire.isNone = false := by simpa [Option.isNone_eq_false_iff, Option.isSome_iff_ne_none] using busy
  simp [stepAdvance, agreed, sending]

/-- Both ends agree while a frame is on the wire: the step is shown, and its DONE waits. -/
theorem stepAgree_busy (busy : (d.eth p).wire ≠ none) (txn back t : Nat) (ini : Bool) : d.stepAgree p txn back t ini =
    ((d.sf ethLinkStatus_STEPPING p 1).sf ethStepStatus_BUSY p 1).setStep p (.agreed txn back t false false ini) := by
  refine stepAdvance_busy (by rw [eth_setStep]) ?_
  rw [eth_setStep, eth_of_bus (by simp : _ = d.bus)]
  exact busy

theorem stepAck_other {own t txn : Nat} (sent : (d.eth p).step = .reqSent own t) (other : own ≠ txn) : d.stepAck p txn = d := by
  rw [stepAck, sent]
  exact if_neg other

theorem stepAck_own {t txn : Nat} (sent : (d.eth p).step = .reqSent txn t) : d.stepAck p txn = d.stepAgree p txn txn t true := by
  rw [stepAck, sent]
  exact if_pos rfl

theorem stepNak_own {t txn : Nat} (sent : (d.eth p).step = .reqSent txn t) : d.stepNak p txn = d.stepEnd p 2 := by
  rw [stepNak, sent]
  exact if_pos rfl

theorem stepDone_busy {txn back t : Nat} {ini : Bool} (agreed : (d.eth p).step = .agreed txn back t false false ini)
    (busy : (d.eth p).wire ≠ none) : d.stepDone p txn = d.setStep p (.agreed txn back t false true ini) := by
  rw [stepDone, agreed]
  dsimp only
  rw [if_pos rfl]
  exact stepAdvance_busy (by rw [eth_setStep]) (by rwa [eth_setStep])

theorem stepAckTimeout_sent {own t : Nat} (sent : (d.eth p).step = .reqSent own t) : d.stepAckTimeout p = d.stepEnd p 3 := by
  rw [stepAckTimeout, sent]

theorem stepDoneTimeout_partner {own back t : Nat} {sent : Bool} (agreed : (d.eth p).step = .agreed own back t sent false false) :
    d.stepDoneTimeout p = (d.ethInc p gMisc 4).stepEnd p 3 := by
  rw [stepDoneTimeout, agreed]

/-! #### The lane -/

/-- A lane that has locked at rate `t`, from rate `old`. -/
def stepLockedAt (d : Dev) (p t old : Nat) : Dev :=
  ((d.sf ethStepStatus_RATE p t).sf ethLinkStatus_SPEED p (rateSpeed t)).ethInc p gMisc (if old < t then 2 else 3)

theorem stepLocked_training {t old : Nat} (training : (d.eth p).step = .training t old) : d.stepLocked p =
    ((d.stepLockedAt p t old).setEth p { (d.stepLockedAt p t old).eth p with low := 0, octets := 0 }).stepEnd p 1 := by
  rw [stepLocked, training]
  rfl

theorem stepLocked_shows {t old : Nat} (training : (d.eth p).step = .training t old) (code : t < 4) :
    (d.stepLocked p).f ethStepStatus_RATE p = t ∧ (d.stepLocked p).f ethLinkStatus_SPEED p = t + 3 := by
  have counted := keeps_ethInc (L := countRegs) (List.Subset.refl _)
    ((d.sf ethStepStatus_RATE p t).sf ethLinkStatus_SPEED p (rateSpeed t)) p gMisc (if old < t then 2 else 3)
  have speed : rateSpeed t < 8 := by
    rw [rateSpeed]
    omega
  rw [stepLocked_training training]
  constructor
  · rw [f_stepEnd (by decide) (by decide) (by decide) (by decide), f_setEth, stepLockedAt, counted.f (by decide),
      f_sf_of_apart (by decide), f_sf_fits (by decide) (by decide) code]
  · rw [f_stepEnd (by decide) (by decide) (by decide) (by decide), f_setEth, stepLockedAt, counted.f (by decide),
      f_sf_fits (by decide) (by decide) speed, rateSpeed]

/-- The lane that does not lock at its target is trained back at rate `old` (R287). -/
def stepFellBack (d : Dev) (p old : Nat) : Dev :=
  (((d.ethInc p gMisc 4).sf ethStepStatus_LAST p 5).setStep p (.falling old)).emit (.ethCtl p ctlTrain old)

theorem stepLockTimeout_training {t old : Nat} (training : (d.eth p).step = .training t old) :
    d.stepLockTimeout p = d.stepFellBack p old := by
  rw [stepLockTimeout, training]
  rfl

theorem stepFellBack_shows (d : Dev) (p old : Nat) : ((d.stepFellBack p old).eth p).step = .falling old ∧
    (d.stepFellBack p old).f ethStepStatus_LAST p = 5 ∧ (d.stepFellBack p old).ethCtr p 2 4 = d.ethCtr p 2 4 + 1 ∧
    (d.stepFellBack p old).outs.getLast? = some (.ethCtl p ctlTrain old) := by
  let e := (d.ethInc p gMisc 4).sf ethStepStatus_LAST p 5
  have bus : (d.stepFellBack p old).bus = (e.setStep p (.falling old)).bus := emit_bus ..
  have regs : (d.stepFellBack p old).regs = e.regs := emit_regs ..
  have ctrs : (d.stepFellBack p old).ctrs = (d.ethInc p gMisc 4).ctrs := by simp [stepFellBack, setStep, setEth]
  refine ⟨?_, ?_, ?_, List.getLast?_concat⟩
  · rw [eth_of_bus bus, eth_setStep]
  · rw [f_of_rd (rd_of_regs regs _ p), f_sf_fits (by decide) (by decide) (by decide)]
  · rw [ethCtr, ctr, ctrs]
    exact ethCtr_ethInc d p gMisc 4

/-- Outside every phase of a step its timers and its lane change nothing. -/
theorem step_timers_idle (idle : (d.eth p).step = .none) :
    d.stepAckTimeout p = d ∧ d.stepDoneTimeout p = d ∧ d.stepLocked p = d ∧ d.stepLockTimeout p = d := by
  simp only [stepAckTimeout, stepDoneTimeout, stepLocked, stepLockTimeout, idle, and_self]

end Phases
end Dev
end Sys2Proof.Machine
end
section
/-! ### Rate steps of XSTEP ports as commands (R282 to R287) -/
namespace Sys2Proof.Machine
open Dev

section Exec
variable (p : Fin 20) (s : State)

theorem exec_stepCapsTimer : exec (.stepCapsTimer p) s = s.logic fun d => d.stepCapsTimer p.val := rfl
theorem exec_stepCapsReceived (ceil floor : Byte) : exec (.stepCapsReceived p ceil floor) s =
    s.logic fun d => d.stepArrives p.val stpCaps 0 0 ceil.toNat floor.toNat 0 := rfl
theorem exec_stepPeerTimeout : exec (.stepPeerTimeout p) s = s.logic fun d => d.stepPeerTimeout p.val := rfl
theorem exec_stepTrainTimeout : exec (.stepTrainTimeout p) s = s.logic fun d => d.stepTrainTimeout p.val := rfl
theorem exec_stepDownWindow : exec (.stepDownWindow p) s = s.logic fun d => d.stepWindow p.val := rfl
theorem exec_stepReqReceived (txn rate : Byte) : exec (.stepReqReceived p txn rate) s =
    s.logic fun d => d.stepArrives p.val stpReq txn.toNat rate.toNat 0 0 0 := rfl
theorem exec_stepAckReceived (txn rate : Byte) : exec (.stepAckReceived p txn rate) s =
    s.logic fun d => d.stepArrives p.val stpAck txn.toNat rate.toNat 0 0 0 := rfl
theorem exec_stepNakReceived (txn rate reason : Byte) : exec (.stepNakReceived p txn rate reason) s =
    s.logic fun d => d.stepArrives p.val stpNak txn.toNat rate.toNat 0 0 reason.toNat := rfl
theorem exec_stepDoneReceived (txn rate : Byte) : exec (.stepDoneReceived p txn rate) s =
    s.logic fun d => d.stepArrives p.val stpDone txn.toNat rate.toNat 0 0 0 := rfl
theorem exec_stepAckTimeout : exec (.stepAckTimeout p) s = s.logic fun d => d.stepAckTimeout p.val := rfl
theorem exec_stepDoneTimeout : exec (.stepDoneTimeout p) s = s.logic fun d => d.stepDoneTimeout p.val := rfl
theorem exec_stepLaneLocked : exec (.stepLaneLocked p) s = s.logic fun d => d.stepLocked p.val := rfl
theorem exec_stepLockTimeout :
    exec (.stepLockTimeout p) s = s.logic fun d => (d.stepLockTimeout p.val).boundary (uEth p.val) := rfl

end Exec

section Commands
variable {s : State} (on : s.On) {p : Fin 20}
include on

section Messages
variable (rx : s.dev.f ethMacCfg_RX_EN p = 1) (intf : s.dev.f ethIntf_INTF p = 7)
include rx intf

theorem runs_stepCapsReceived (ceil floor : Byte) : Runs (.stepCapsReceived p ceil floor) s fun d =>
    d.f ethLinkStatus_PEER_OK p = 1 ∧ (d.eth p).peerCeil = ceil.toNat % 4 :=
  runs_logic_to on (exec_stepCapsReceived ..) (stepArrives_caps rx intf ceil floor) (by simp [stepCaps]) (stepCaps_shows ..)

theorem runs_stepReqReceived (txn rate : Byte) : Runs (.stepReqReceived p txn rate) s fun d =>
    d = (s.dev.ethRxCount p (stepMsg stpReq txn.toNat rate.toNat 0 0 0)).stepReq p txn.toNat (rate.toNat % 4) :=
  runs_logic_to on (exec_stepReqReceived ..) (stepArrives_req rx intf txn rate) (by simp) rfl

theorem runs_stepReqReceived_busy {t old : Nat} (other : (s.dev.eth p).step = .partnerLeave old t)
    (tx : s.dev.f ethMacCfg_TX_EN p = 1) (link : s.dev.f ethLinkStatus_LINK p = 1) (idle : (s.dev.eth p).wire = none)
    (txn rate : Byte) : Runs (.stepReqReceived p txn rate) s fun d => (d.eth p).step = (s.dev.eth p).step ∧
      d.outs.getLast? = some (.eth p (s.dev.stepBytes p stpNak txn.toNat (rate.toNat % 4) 1) false) := by
  let m := stepMsg stpReq txn.toNat rate.toNat 0 0 0
  have counted := keeps_ethRxCount s.dev p m
  have same := eth_ethRxCount s.dev p m p
  have talks : stepStopped ((s.dev.ethRxCount p m).eth p) = false := by rw [same, stepStopped, other]
  rw [← counted.f (by decide)] at tx link
  rw [← same] at other idle
  have does := (stepArrives_req rx intf txn rate).trans (stepReq_partnerLeave other ..)
  refine runs_logic_to on (exec_stepReqReceived ..) does (by simp) ⟨?_, ?_⟩
  · rw [step_stepSend talks tx link idle, same]
  · rw [outs_stepSend talks tx link idle, stepBytes_ethRxCount]

theorem runs_stepReqReceived_stopped (stopped : stepStopped (s.dev.eth p) = true) (txn rate : Byte) :
    Runs (.stepReqReceived p txn rate) s fun d => d = s.dev.ethRxCount p (stepMsg stpReq txn.toNat rate.toNat 0 0 0) := by
  rw [← eth_ethRxCount s.dev p (stepMsg stpReq txn.toNat rate.toNat 0 0 0)] at stopped
  have does := (stepArrives_req rx intf txn rate).trans (stepReq_stopped stopped ..)
  exact runs_logic_to on (exec_stepReqReceived ..) does (by simp) rfl

theorem runs_stepAckReceived_other {own t : Nat} {txn : Byte} (sent : (s.dev.eth p).step = .reqSent own t)
    (other : own ≠ txn.toNat) (rate : Byte) : Runs (.stepAckReceived p txn rate) s fun d => (d.eth p).step = (s.dev.eth p).step := by
  rw [← eth_ethRxCount s.dev p (stepMsg stpAck txn.toNat rate.toNat 0 0 0)] at sent
  have does := (stepArrives_ack rx intf txn rate).trans (stepAck_other sent other)
  exact runs_logic_to on (exec_stepAckReceived ..) does (by simp) (by rw [eth_ethRxCount])

theorem runs_stepAckReceived_own {t : Nat} {txn : Byte} (sent : (s.dev.eth p).step = .reqSent txn.toNat t)
    (busy : (s.dev.eth p).wire ≠ none) (rate : Byte) : Runs (.stepAckReceived p txn rate) s fun d =>
      d.f ethLinkStatus_STEPPING p = 1 ∧ d.f ethStepStatus_BUSY p = 1 ∧
        (d.eth p).step = .agreed txn.toNat txn.toNat t false false true := by
  rw [← eth_ethRxCount s.dev p (stepMsg stpAck txn.toNat rate.toNat 0 0 0)] at sent busy
  have does := (stepArrives_ack rx intf txn rate).trans ((stepAck_own sent).trans (stepAgree_busy busy ..))
  refine runs_logic_to on (exec_stepAckReceived ..) does (by simp) ⟨?_, ?_, ?_⟩
  · rw [f_setStep, f_sf_of_apart (by decide), f_sf_fits (by decide) (by decide) (by decide)]
  · rw [f_setStep, f_sf_fits (by decide) (by decide) (by decide)]
  · rw [eth_setStep]

theorem runs_stepNakReceived_own {t : Nat} {txn : Byte} (sent : (s.dev.eth p).step = .reqSent txn.toNat t) (rate reason : Byte) :
    Runs (.stepNakReceived p txn rate reason) s fun d =>
      (d.eth p).step = .none ∧ d.f ethStepStatus_LAST p = 2 ∧ d.f ethStepStatus_BUSY p = 0 := by
  rw [← eth_ethRxCount s.dev p (stepMsg stpNak txn.toNat rate.toNat 0 0 reason.toNat)] at sent
  have does := (stepArrives_nak rx intf txn rate reason).trans (stepNak_own sent)
  exact runs_logic_to on (exec_stepNakReceived ..) does (by simp)
    ⟨step_stepEnd .., f_stepEnd_last _ _ (by decide), f_stepEnd_busy ..⟩

theorem runs_stepDoneReceived {back t : Nat} {ini : Bool} {txn : Byte}
    (agreed : (s.dev.eth p).step = .agreed txn.toNat back t false false ini) (busy : (s.dev.eth p).wire ≠ none) (rate : Byte) :
    Runs (.stepDoneReceived p txn rate) s fun d => (d.eth p).step = .agreed txn.toNat back t false true ini := by
  rw [← eth_ethRxCount s.dev p (stepMsg stpDone txn.toNat rate.toNat 0 0 0)] at agreed busy
  have does := (stepArrives_done rx intf txn rate).trans (stepDone_busy agreed busy)
  exact runs_logic_to on (exec_stepDoneReceived ..) does (by simp) (by rw [eth_setStep])

end Messages

theorem runs_stepTrainTimeout (steps : s.dev.stepOn p = true) (down : s.dev.f ethLinkStatus_LINK p = 0)
    (lock : s.dev.f ethLinkStatus_LOCK p = 0) : Runs (.stepTrainTimeout p) s fun d => d.f ethStepStatus_RATE p =
        (if s.dev.f ethStepStatus_RATE p = 0 then s.dev.f ethStepCfg_CEIL p else s.dev.f ethStepStatus_RATE p - 1) ∧
      s.dev.Only d { regs := [(.ethStepStatus, p)], parts := [.outs] } :=
  runs_logic_to on (exec_stepTrainTimeout ..) (stepTrainTimeout_trains steps down lock) (by simp [stepTrainAt])
    ⟨f_sf_fits (by decide) (by decide) (stepTrain_fits s.dev p) _ _,
      ((Within.sf _ (.inl (by simp)) _).trans (.emit _ (.inl (by simp)) _)).only⟩

theorem runs_stepDoneTimeout {own back t : Nat} {sent : Bool} (agreed : (s.dev.eth p).step = .agreed own back t sent false false) :
    Runs (.stepDoneTimeout p) s fun d => (d.eth p).step = .none ∧ d.f ethStepStatus_LAST p = 3 ∧
      d.ethCtr p 2 4 = s.dev.ethCtr p 2 4 + 1 :=
  runs_logic_to on (exec_stepDoneTimeout ..) (stepDoneTimeout_partner agreed) (by simp)
    ⟨step_stepEnd .., f_stepEnd_last _ _ (by decide), (ethCtr_stepEnd ..).trans (ethCtr_ethInc _ _ gMisc 4)⟩

theorem runs_stepLaneLocked {t old : Nat} (training : (s.dev.eth p).step = .training t old) (code : t < 4) :
    Runs (.stepLaneLocked p) s fun d => d.f ethStepStatus_RATE p = t ∧ d.f ethLinkStatus_SPEED p = t + 3 ∧
      d.f ethStepStatus_LAST p = 1 ∧ (d.eth p).step = .none := by
  obtain ⟨rate, speed⟩ := stepLocked_shows training code
  have does := stepLocked_training training
  rw [does] at rate speed
  exact runs_logic_to on (exec_stepLaneLocked ..) does (by simp [stepLockedAt])
    ⟨rate, speed, f_stepEnd_last _ _ (by decide), step_stepEnd ..⟩

theorem runs_stepLockTimeout {t old : Nat} (training : (s.dev.eth p).step = .training t old) (closed : s.dev.ep.txn = none)
    (free : s.dev.bus.bwHeld = []) : Runs (.stepLockTimeout p) s fun d => (d.eth p).step = .falling old ∧
      d.f ethStepStatus_LAST p = 5 ∧ d.ethCtr p 2 4 = s.dev.ethCtr p 2 4 + 1 ∧
        d.outs.getLast? = some (.ethCtl p ctlTrain old) := by
  have counted := keeps_ethInc (L := countRegs) (List.Subset.refl _) s.dev p gMisc 4
  have quiet : (s.dev.stepFellBack p old).ep.txn = none := by simp [stepFellBack, setStep, setEth, counted.txn closed]
  have none_held : (s.dev.stepFellBack p old).bus.bwHeld = [] := by simp [stepFellBack, setStep, setEth, free]
  have does := (congrArg (boundary · (uEth p)) (stepLockTimeout_training training)).trans (boundary_quiet quiet none_held _)
  exact runs_logic_to on (exec_stepLockTimeout ..) does (by simp [stepFellBack]) (stepFellBack_shows ..)

theorem runs_step_timers_idle (idle : (s.dev.eth p).step = .none) (closed : s.dev.ep.txn = none) (free : s.dev.bus.bwHeld = []) :
    ∀ c ∈ [Instr.stepAckTimeout p, .stepDoneTimeout p, .stepLaneLocked p, .stepLockTimeout p],
      Runs c s fun d => d = s.dev := by
  obtain ⟨ack, done, lane, lock⟩ := step_timers_idle idle
  have boundary := (congrArg (boundary · (uEth p)) lock).trans (boundary_quiet closed free _)
  simp only [List.forall_mem_cons, List.not_mem_nil, false_imp_iff, implies_true, and_true]
  exact ⟨runs_logic_to on (exec_stepAckTimeout ..) ack rfl rfl, runs_logic_to on (exec_stepDoneTimeout ..) done rfl rfl,
    runs_logic_to on (exec_stepLaneLocked ..) lane rfl rfl, runs_logic_to on (exec_stepLockTimeout ..) boundary rfl rfl⟩

end Commands

/-- Settles O30: each message and each timer by the operation of its row, in each phase that the clauses tell apart. -/
theorem rateStepping : Obligations.RateStepping := by
  unfold Obligations.RateStepping
  intro s p on
  refine ⟨fun off => ?_, fun steps talks tx link idle => ?_, fun steps talks tx link busy => ?_, fun stopped => ?_,
    fun ceil floor rx intf => runs_stepCapsReceived on rx intf ceil floor, ?_,
    fun steps down lock => runs_stepTrainTimeout on steps down lock, fun idle => ?_,
    fun txn rate b rx intf bytes => bytes ▸ runs_stepReqReceived on rx intf txn rate,
    fun txn rate t old rx intf other tx link idle => runs_stepReqReceived_busy on rx intf other tx link idle txn rate,
    fun txn rate b rx intf stopped bytes => bytes ▸ runs_stepReqReceived_stopped on rx intf stopped txn rate,
    fun txn rate own t rx intf sent other => runs_stepAckReceived_other on rx intf sent other rate,
    fun txn rate t rx intf sent busy => runs_stepAckReceived_own on rx intf sent busy rate,
    fun txn rate reason t rx intf sent => runs_stepNakReceived_own on rx intf sent rate reason,
    fun txn rate back t ini rx intf agreed busy => runs_stepDoneReceived on rx intf agreed busy rate, fun own t sent => ?_,
    fun own back t sent agreed => runs_stepDoneTimeout on agreed, fun t old training code => runs_stepLaneLocked on training code,
    fun t old training closed free => runs_stepLockTimeout on training closed free,
    fun idle closed free => runs_step_timers_idle on idle closed free⟩
  · exact runs_logic_to on (exec_stepCapsTimer ..) (stepCapsTimer_off off) rfl rfl
  · exact runs_logic_to on (exec_stepCapsTimer ..) (stepCapsTimer_on steps) (by simp)
      ⟨rfl, outs_stepSend talks tx link idle ..⟩
  · have does := (stepCapsTimer_on steps).trans (stepSend_waits talks tx link busy ..)
    exact runs_logic_to on (exec_stepCapsTimer ..) does (by simp [stepQueued]) rfl
  · exact runs_logic_to on (exec_stepCapsTimer ..) (stepCapsTimer_stopped stopped) rfl rfl
  · exact runs_logic_of_held on (exec_stepPeerTimeout ..) (by simp [stepPeerTimeout])
      ⟨f_sf_fits (by decide) (by decide) (by decide) _ _, (Within.sf _ (.inl (by simp)) _).only⟩
  · have window := eth_stepWindow idle
    exact runs_logic_of_held on (exec_stepDownWindow ..) (by simp [stepWindow]) ⟨by rw [window], by rw [window]⟩
  · exact runs_logic_to on (exec_stepAckTimeout ..) (stepAckTimeout_sent sent) (by simp)
      ⟨step_stepEnd .., f_stepEnd_last _ _ (by decide), f_stepEnd_busy ..⟩

end Sys2Proof.Machine
end

section
/-! ### What the rest of the device does leaves the CAN channels as they are: their error counters, what counts their frames, their
buffers (R301 to R311) -/
namespace Sys2Proof.Machine
namespace Dev

/-- The fields of CanErr beside the protocol state. -/
def canErrFields : List RField := [canErr_TEC, canErr_REC, canErr_LEC]

/-- What the fields of `canErrFields` hold in a register file. -/
def canErrs (g : Sparse Word) (F : RField) (n : Nat) : Nat :=
  if F ∈ canErrFields then bits F.hi F.lo (Sparse.get regDefault g (regKey F.reg n)).toNat else 0

/-- The counters of what ends on a CAN channel: frames received and sent, retries and errors. -/
def canEnds : List Ctr := [.canRxFrames, .canTxFrames, .canTxRetry, .canErrStuff, .canErrForm, .canErrAck, .canErrBit, .canErrCrc]

/-- What the counters of `canEnds` hold. -/
def canCounts (m : Sparse Cnt) (c : Ctr) (i : Nat) : Cnt := if c ∈ canEnds then Sparse.get (fun _ => 0) m (ctrKey c i) else 0

/-- `e` shows the error counters, counts what ends on the CAN channels and holds their buffers as `d` does, and the same epochs and
transaction. -/
abbrev KeepsCan (d e : Dev) : Prop :=
  canErrs e.regs = canErrs d.regs ∧ canCounts e.ctrs = canCounts d.ctrs ∧ e.bus.can = d.bus.can ∧ e.ep = d.ep

theorem f_of_canErrs {d e : Dev} (h : canErrs e.regs = canErrs d.regs) {F : RField} (hF : F ∈ canErrFields) (n : Nat) :
    e.f F n = d.f F n := by simpa [canErrs, hF, f, rd] using congrFun (congrFun h F) n

theorem canErrs_of_f {d e : Dev} (h : ∀ F ∈ canErrFields, ∀ n, e.f F n = d.f F n) : canErrs e.regs = canErrs d.regs := by
  funext F n
  by_cases hF : F ∈ canErrFields
  · simpa [canErrs, hF, f, rd] using h F hF n
  · simp [canErrs, hF]

theorem ctr_of_canCounts {d e : Dev} (h : canCounts e.ctrs = canCounts d.ctrs) {c : Ctr} (hc : c ∈ canEnds) (i : Nat) :
    e.ctr c i = d.ctr c i := by simpa [canCounts, hc, ctr] using congrFun (congrFun h c) i

theorem canCounts_of_ctr {d e : Dev} (h : ∀ c ∈ canEnds, ∀ i, e.ctr c i = d.ctr c i) : canCounts e.ctrs = canCounts d.ctrs := by
  funext c i
  by_cases hc : c ∈ canEnds
  · simpa [canCounts, hc, ctr] using h c hc i
  · simp [canCounts, hc]

namespace KeepsCan
variable {d e g : Dev}

theorem refl (d : Dev) : d.KeepsCan d := ⟨rfl, rfl, rfl, rfl⟩

theorem ite {c : Prop} [Decidable c] (h : d.KeepsCan e) (k : d.KeepsCan g) : d.KeepsCan (if c then e else g) := by
  split
  · exact h
  · exact k

theorem trans (h : d.KeepsCan e) (k : e.KeepsCan g) : d.KeepsCan g :=
  ⟨k.1.trans h.1, k.2.1.trans h.2.1, k.2.2.1.trans h.2.2.1, k.2.2.2.trans h.2.2.2⟩

theorem foldl {β : Type} {f : Dev → β → Dev} (step : ∀ (x : Dev) (b : β), x.KeepsCan (f x b)) (l : List β) (d : Dev) :
    d.KeepsCan (l.foldl f d) := foldl_keeps (d.KeepsCan) f (fun x b k => k.trans (step x b)) l ⟨rfl, rfl, rfl, rfl⟩

end KeepsCan

@[simp] theorem wr_canErrs {r : Reg} (h : r ≠ .canErr) (d : Dev) (i : Nat) (v : Word) :
    canErrs (d.wr r i v).regs = canErrs d.regs :=
  canErrs_of_f fun F hF n => f_of_rd (rd_wr_ne d (.inl fun same => by subst same; fin_cases hF <;> exact h rfl) v)

@[simp] theorem sf_canErrs {F : RField} (h : F.reg ≠ .canErr) (d : Dev) (i v : Nat) :
    canErrs (d.sf F i v).regs = canErrs d.regs := wr_canErrs h ..

@[simp] theorem setCtr_canCounts {c : Ctr} (h : c ∉ canEnds) (d : Dev) (i : Nat) (v : Cnt) :
    canCounts (d.setCtr c i v).ctrs = canCounts d.ctrs :=
  canCounts_of_ctr fun c' hc k => ctr_setCtr_ne d (.inl (by rintro rfl; exact h hc)) v

@[simp] theorem inc_canCounts {c : Ctr} (h : c ∉ canEnds) (d : Dev) (i : Nat) :
    canCounts (d.inc c i).ctrs = canCounts d.ctrs := setCtr_canCounts h ..

@[simp] theorem incBy_canCounts {c : Ctr} (h : c ∉ canEnds) (d : Dev) (i n : Nat) :
    canCounts (d.incBy c i n).ctrs = canCounts d.ctrs := setCtr_canCounts h ..

@[simp] theorem raise_can (d : Dev) (s inst info : Nat) : d.KeepsCan (d.raise s inst info) :=
  have bus : (d.raise s inst info).bus = d.bus := part_raise (p := .bus) (by decide) d s inst info
  ⟨canErrs_of_f fun F hF n => f_of_rd (rd_raise (by fin_cases hF <;> decide) d s inst info n),
    canCounts_of_ctr fun c hc i => ctr_raise (by fin_cases hc <;> decide) d s inst info i,
    congrArg Buses.can bus, part_raise (p := .ep) (by decide) d s inst info⟩

theorem KeepsCan.of_ring {d e : Dev} (h : d.Within e ringFoot) : d.KeepsCan e :=
  ⟨canErrs_of_f fun F hF n => f_of_rd (h.ring_rd (by fin_cases hF <;> decide) n),
    canCounts_of_ctr fun c hc i => h.ring_ctr (by rintro rfl; exact absurd hc (by decide)) i,
    congrArg Buses.can (h.part .bus (by simp [Foot.hasPart, ringFoot, eventParts])),
    h.part .ep (by simp [Foot.hasPart, ringFoot, eventParts])⟩

@[simp] theorem canErrs_ite (c : Prop) [Decidable c] (a b : Dev) :
    canErrs (if c then a else b).regs = if c then canErrs a.regs else canErrs b.regs := apply_ite (fun d : Dev => canErrs d.regs) c a b
@[simp] theorem canCounts_ite (c : Prop) [Decidable c] (a b : Dev) :
    canCounts (if c then a else b).ctrs = if c then canCounts a.ctrs else canCounts b.ctrs :=
  apply_ite (fun d : Dev => canCounts d.ctrs) c a b
@[simp] theorem busCan_ite (c : Prop) [Decidable c] (a b : Dev) :
    (if c then a else b).bus.can = if c then a.bus.can else b.bus.can := apply_ite (fun d : Dev => d.bus.can) c a b
@[simp] theorem ep_ite (c : Prop) [Decidable c] (a b : Dev) : (if c then a else b).ep = if c then a.ep else b.ep :=
  apply_ite (fun d : Dev => d.ep) c a b

/-! #### Cells and rings -/

@[simp] theorem giveCells_can (d : Dev) (k : Nat) : d.KeepsCan (d.giveCells k) := by simp +decide [KeepsCan, giveCells]
@[simp] theorem release_can (d : Dev) (g : Nat) : d.KeepsCan (d.release g) := by simp +decide [KeepsCan, release, setGrp]
@[simp] theorem dropFrame_can (d : Dev) (fr : Frame) : d.KeepsCan (d.dropFrame fr) := by
  simp +decide [KeepsCan, dropFrame, resolve, setOrder]

@[simp] theorem resize_can {d e : Dev} {g k : Nat} (h : d.resize g k = some e) : d.KeepsCan e := by
  unfold resize at h
  dsimp only at h
  repeat' split at h
  all_goals cases h
  all_goals simp +decide [KeepsCan, setGrp]
@[simp] theorem alloc_can (d : Dev) (k : Nat) : d.KeepsCan (d.alloc k).2 := by
  unfold alloc
  split <;> simp +decide [KeepsCan, setGrp]
@[simp] theorem setRx_can (d : Dev) (i : Nat) (x : RxRing) : d.KeepsCan (d.setRx i x) := by simp +decide [KeepsCan, setRx]
@[simp] theorem rxDropHead_can (d : Dev) (i : Nat) : d.KeepsCan (d.rxDropHead i) := by
  unfold rxDropHead
  split <;> simp +decide [KeepsCan]
@[simp] theorem rxHoldZero_can (d : Dev) (i k : Nat) : d.KeepsCan (d.rxHoldZero i k) := by
  induction k generalizing d with
  | zero => exact ⟨rfl, rfl, rfl, rfl⟩
  | succ k ih =>
    unfold rxHoldZero
    split <;> simp +decide [KeepsCan, ih]
@[simp] theorem rxEnqueue_can (d : Dev) (i : Nat) (x : Delivery) : d.KeepsCan (d.rxEnqueue i x).2 := by
  unfold rxEnqueue
  dsimp only
  repeat' split
  all_goals simp +decide [KeepsCan, setCoe]
@[simp] theorem txFinish_can (d : Dev) (i : Nat) (x : TxCur) (time st : Nat) : d.KeepsCan (d.txFinish i x time st) := by
  have counted (e : Dev) : e.KeepsCan (e.inc (if st = 0 then .hrTxFrames else if st = 3 then .hrTxDropped else .hrTxErr) i) := by
    split_ifs <;> simp +decide [KeepsCan]
  have announced (e : Dev) : e.KeepsCan (e.txIrq i) := by
    unfold txIrq
    dsimp only
    split
    · exact .trans (e := e.setTx i { e.tx i with unannounced := 0 }) ⟨rfl, rfl, rfl, rfl⟩ (.of_ring (within_ringVector ..))
    · exact ⟨rfl, rfl, rfl, rfl⟩
  obtain ⟨e, wrote, does⟩ := exists_txFinish d i x time st
  rw [does]
  exact .trans (.of_ring wrote) (.trans (counted e) (announced _))

/-! #### Queues -/

@[simp] theorem heldCount_can (d : Dev) (p : Nat) (up : Bool) : d.KeepsCan (d.heldCount p up) := by
  unfold heldCount
  split <;> simp +decide [KeepsCan]
@[simp] theorem gauge_can (d : Dev) {c : Ctr} (h : c ∉ canEnds) (i : Nat) (up : Bool) (n : Nat) : d.KeepsCan (d.gauge c i up n) :=
  ⟨rfl, setCtr_canCounts h .., rfl, rfl⟩
@[simp] theorem charge_can (d : Dev) (q : Nat) (up : Bool) (k : Nat) : d.KeepsCan (d.charge q up k) := by
  simp +decide [KeepsCan, charge]
@[simp] theorem setEth_can (d : Dev) (p : Nat) (x : EthPort) : d.KeepsCan (d.setEth p x) := ⟨rfl, rfl, rfl, rfl⟩
@[simp] theorem deficitClear_can (d : Dev) (p c : Nat) : d.KeepsCan (d.deficitClear p c) := by
  unfold deficitClear
  split
  · exact .refl d
  · exact setEth_can ..
@[simp] theorem queueEmptied_can (d : Dev) (p c : Nat) : d.KeepsCan (d.queueEmptied p c) := by
  unfold queueEmptied
  extract_lets e
  have cleared : d.KeepsCan e := .trans (.ite (setEth_can ..) (.refl d)) (deficitClear_can _ p c)
  exact .ite (cleared.trans (setEth_can ..)) cleared
@[simp] theorem setQueue_can (d : Dev) (q : Nat) (l : List QFrame) : d.KeepsCan (d.setQueue q l) :=
  .trans (.ite (queueEmptied_can ..) (.refl d)) ⟨rfl, rfl, rfl, rfl⟩
@[simp] theorem tsDropped_can (d : Dev) (x : QFrame) : d.KeepsCan (d.tsDropped x) := by
  unfold tsDropped tsEnd
  split <;> simp [KeepsCan]
@[simp] theorem removeFrame_can (d : Dev) (q : Nat) {c : Ctr} (h : c ∉ canEnds) (x : QFrame) : d.KeepsCan (d.removeFrame q c x) := by
  have unqueued : d.KeepsCan (d.unqueue q x) := by
    unfold unqueue
    dsimp only
    split <;> simp [KeepsCan]
  have counted (e : Dev) : e.KeepsCan (e.inc c q) := ⟨by simp, inc_canCounts h .., by simp, by simp⟩
  unfold removeFrame
  exact unqueued.trans ((counted _).trans ((release_can ..).trans (tsDropped_can ..)))
theorem withBuf_can (d : Dev) (x : Buf) : d.KeepsCan { d with buf := x } := ⟨rfl, rfl, rfl, rfl⟩
@[simp] theorem flushDue_can (d : Dev) (p : Nat) : d.KeepsCan (d.flushDue p) := by
  have flushed (e : Dev) : e.KeepsCan (e.flushQueues p) := by
    unfold flushQueues
    refine .foldl (fun x c => ?_) _ e
    refine (setQueue_can x (qNo p c) []).trans (.foldl (fun y f => ?_) _ _)
    exact removeFrame_can y _ (by decide) f
  unfold flushDue flushNow
  split
  · exact (withBuf_can d _).trans (flushed _)
  · exact .refl d

/-! #### Wakes (R415, R418 to R423) -/

@[simp] theorem linkSend_can (d : Dev) (n kind v : Nat) : d.KeepsCan (d.linkSend n kind v) := by
  simp +decide [KeepsCan, linkSend, linkFill, setLink]
@[simp] theorem segSet_can (d : Dev) (s st : Nat) : d.KeepsCan (d.segSet s st) := by simp +decide [KeepsCan, segSet]
@[simp] theorem setLin_can (d : Dev) (n : Nat) (x : LinChan) : d.KeepsCan (d.setLin n x) := ⟨rfl, rfl, rfl, rfl⟩
@[simp] theorem linWakeUp_can (d : Dev) (n : Nat) : d.KeepsCan (d.linWakeUp n) := by simp +decide [KeepsCan, linWakeUp]
@[simp] theorem segPortsWake_can (d : Dev) (s : Nat) : d.KeepsCan (d.segPortsWake s) :=
  .foldl (fun x p => by
    split_ifs <;> simp [KeepsCan]) _ d
@[simp] theorem segDrainStop_can (d : Dev) (s : Nat) : d.KeepsCan (d.segDrainStop s) :=
  .foldl (fun x p => by
    dsimp only
    split_ifs <;> simp [KeepsCan]) _ d
@[simp] theorem segWake_can (d : Dev) (src port s : Nat) : d.KeepsCan (d.segWake src port s) := by
  simp +decide [KeepsCan, segWake]
@[simp] theorem wakeRecord_can (d : Dev) (src port trans : Nat) : d.KeepsCan (d.wakeRecord src port trans) := by
  simp +decide [KeepsCan, wakeRecord]
@[simp] theorem locEnded_can (d : Dev) (p : Nat) : d.KeepsCan (d.locEnded p) := by simp +decide [KeepsCan, locEnded]
@[simp] theorem deviceWake_can (d : Dev) (src port seg : Nat) : d.KeepsCan (d.deviceWake src port seg) := by
  have ended (l : List Nat) (e : Dev) : e.KeepsCan (l.foldl (fun d p => d.locEnded p) e) := .foldl locEnded_can l e
  unfold deviceWake
  split <;> simp +decide [KeepsCan, ended]
@[simp] theorem wakeBy_can (d : Dev) (src port : Nat) (segs : List Nat) : d.KeepsCan (d.wakeBy src port segs) := by
  unfold wakeBy
  split
  · refine .foldl (fun x s => ?_) _ d
    split <;> simp +decide [KeepsCan]
  · exact .trans (.foldl (fun x s => segWake_can x src port s) _ d) (deviceWake_can ..)
theorem foldl_inc_can {cs : List (Ctr × Nat)} (d : Dev) (h : ∀ x ∈ cs, x.1 ∉ canEnds) :
    d.KeepsCan (cs.foldl (fun d x => d.inc x.1 x.2) d) := by
  induction cs generalizing d with
  | nil => exact .refl d
  | cons x cs ih =>
    have counted : d.KeepsCan (d.inc x.1 x.2) := ⟨by simp, inc_canCounts (h x (by simp)) .., by simp, by simp⟩
    exact counted.trans (ih _ fun y hy => h y (by simp [hy]))

/-- What admission to a queue counts for a frame that it drops is not of the CAN channels (R232). -/
theorem admitDrop_canEnds {d : Dev} {q k : Nat} {de : Bool} {cs : List (Ctr × Nat)} (h : d.admitDrop q k de = some cs) :
    ∀ x ∈ cs, x.1 ∉ canEnds := by
  unfold admitDrop at h
  dsimp only at h
  split_ifs at h
  all_goals
    cases h
    simp +decide

@[simp] theorem enqueue_can (d : Dev) (p c : Nat) (x : QFrame) : d.KeepsCan (d.enqueue p c x).2 := by
  have dropped {cs : List (Ctr × Nat)} (h : d.admitDrop (qNo p c) (cellsOf x.f.bytes.length) x.de = some cs) :
      d.KeepsCan (cs.foldl (fun d y => d.inc y.1 y.2) d) := foldl_inc_can d (admitDrop_canEnds h)
  unfold enqueue
  dsimp only
  repeat' split
  all_goals simp_all +decide [KeepsCan]

/-! #### A memory error, and what it may bring of Sepia (R229, R461, R465) -/

@[simp] theorem setAcct_can (d : Dev) (a : Nat) (x : PaAcct) : d.KeepsCan (d.setAcct a x) := by
  have shown (e : Dev) (i x y z : Nat) :
      e.KeepsCan (((e.sf mdPaBudget_IN_USE_MW i x).sf mdPaWait_HEAD_MW i y).sf mdPaWait_DEPTH i z) := by
    simp +decide [KeepsCan]
  have numbered (e : Dev) : e.KeepsCan (e.paShow a) := by
    unfold paShow
    extract_lets i g
    have cleared : e.KeepsCan g := .ite (.foldl (fun x k => shown x k 0 0 0) _ e) (.refl e)
    exact cleared.trans (shown g i _ _ _)
  refine .trans ?_ (numbered _)
  exact ⟨rfl, rfl, rfl, rfl⟩
@[simp] theorem paRequest_can (d : Dev) (a : Nat) (who : PaFor) (cost : Nat) : d.KeepsCan (d.paRequest a who cost).2 := by
  unfold paRequest
  dsimp only
  repeat' split
  all_goals simp +decide [KeepsCan]
@[simp] theorem paReleaseLast_can (d : Dev) (a : Nat) (who : PaFor) : d.KeepsCan (d.paReleaseLast a who) := by
  simp [KeepsCan, paReleaseLast]
@[simp] theorem paWithdraw_can (d : Dev) (a : Nat) (who : PaFor) : d.KeepsCan (d.paWithdraw a who) := by
  simp [KeepsCan, paWithdraw]
@[simp] theorem ldUpd_can (d : Dev) (l : Nat) (g : LdCh → LdCh) : d.KeepsCan (d.ldUpd l g) := by
  have shown (e : Dev) : e.KeepsCan (e.ldShow l) := by
    unfold ldShow
    split
    · refine .foldl (fun x n => ?_) _ e
      simp +decide [KeepsCan]
    · exact .refl e
  exact .trans ⟨rfl, rfl, rfl, rfl⟩ (shown _)
@[simp] theorem ldFault_can (d : Dev) (l : Nat) : d.KeepsCan (d.ldFault l) := by simp [KeepsCan, ldFault, ldEvent]
@[simp] theorem ldLeave_can (d : Dev) (l : Nat) : d.KeepsCan (d.ldLeave l) := by simp [KeepsCan, ldLeave, ldRelease]
@[simp] theorem ldTurnOn_can (d : Dev) (l : Nat) (leave : Bool) : d.KeepsCan (d.ldTurnOn l leave) := by
  have asked := paRequest_can d (1 + l / 32) (.gang l) (d.ldCost l ((d.ldPhases (l / 32) (d.f ldCfg_PROFILE l)).getD []))
  unfold ldTurnOn
  dsimp only
  repeat' split
  all_goals simp_all +decide [KeepsCan, ldBadProfile, ldStartRamp]
@[simp] theorem ldSwitchOff_can (d : Dev) (l : Nat) : d.KeepsCan (d.ldSwitchOff l) := by simp [KeepsCan, ldSwitchOff]
@[simp] theorem ldSwitchOn_can (d : Dev) (l : Nat) (leave : Bool) : d.KeepsCan (d.ldSwitchOn l leave) := by
  simp +decide [KeepsCan, ldSwitchOn]
@[simp] theorem ldSepia_can (d : Dev) : d.KeepsCan d.ldSepia := by
  have ordered (e : Dev) (l what : Nat) : e.KeepsCan (e.ldOrder l what) := by
    unfold ldOrder
    split <;> simp [KeepsCan]
  exact .foldl (fun e l => (ordered e l _).trans (ldUpd_can ..)) _ d
@[simp] theorem sepiaPurge_can (d : Dev) : d.KeepsCan d.sepiaPurge := by
  unfold sepiaPurge
  refine .foldl (fun e c => ?_) _ d
  have kept : e.KeepsCan (e.setDispQ c ((e.dispQ c).filter (e.sepiaKeeps c))) := ⟨rfl, rfl, rfl, rfl⟩
  refine kept.trans (.foldl (fun g w => ?_) _ _)
  split <;> simp +decide [KeepsCan]
@[simp] theorem sepiaEnter_can (d : Dev) (cls : Nat) : d.KeepsCan (d.sepiaEnter cls) := by simp +decide [KeepsCan, sepiaEnter]
@[simp] theorem memoryError_can (d : Dev) (ev inst info : Nat) : d.KeepsCan (d.memoryError ev inst info) := by
  simp +decide [KeepsCan, memoryError, faultRaise]
@[simp] theorem rowFailed_can (d : Dev) (row : Nat) : d.KeepsCan (d.rowFailed row) := by
  unfold rowFailed
  repeat' split
  all_goals simp +decide [KeepsCan, rowOutStart]
@[simp] theorem bufEcc_can (d : Dev) (e : Ecc) : d.KeepsCan (d.bufEcc e) := by
  unfold bufEcc
  refine .trans (e := d.incBy .bqEccCorr 0 e.corrected) ?_ (.foldl (fun x r => ?_) _ _)
  all_goals simp +decide [KeepsCan]

/-! #### Copies of a frame (R240 to R242), and its commit (R303) -/

@[simp] theorem mirrorCopy_can (d : Dev) (s : Nat) (fr : Frame) : d.KeepsCan (d.mirrorCopy s fr) := by
  have claimed := alloc_can d (cellsOf (if d.f bqMirrorSample_TRUNC s = 0 then fr.bytes
    else fr.bytes.take (d.f bqMirrorSample_TRUNC s)).length)
  have counted {e : Dev} (ok : Bool) (h : d.KeepsCan e) : d.KeepsCan (e.inc (if ok then .bqMirCopies else .bqMirDrop) s) := by
    split <;> simp_all +decide [KeepsCan]
  unfold mirrorCopy
  dsimp only
  split
  · next none => exact counted false (by rwa [none] at claimed)
  · next got =>
    rw [got] at claimed
    refine counted _ (claimed.trans ?_)
    split <;> simp [KeepsCan]
@[simp] theorem mirrorPort_can (d : Dev) (kind p : Nat) (fr : Frame) : d.KeepsCan (d.mirrorPort kind p fr) := by
  have candidate (e : Dev) (s : Nat) : e.KeepsCan (e.mirrorCandidate s fr) := by
    unfold mirrorCandidate
    dsimp only
    split <;> simp +decide [KeepsCan]
  exact .foldl (fun e s => .ite (candidate e s) (.refl e)) _ d
@[simp] theorem commitRx_can (d : Dev) (p : Nat) (fr : Frame) : d.KeepsCan (d.commitRx p fr) := by
  simp [KeepsCan, commitRx]
@[simp] theorem tunClose_can (d : Dev) (s : Nat) : d.KeepsCan (d.tunClose s) := by
  simp +decide [KeepsCan, tunClose, setTun]
@[simp] theorem tunRoom_can (d : Dev) (s n : Nat) : d.KeepsCan (d.tunRoom s n) := .ite (tunClose_can ..) (.refl d)
theorem tunAdd_can {d e : Dev} {s port ts : Nat} {m : List Byte} (h : d.tunAdd s port ts m = some e) : d.KeepsCan e := by
  have joined (x : Dev) (y : TunOpen) (c : Prop) [Decidable c] :
      x.KeepsCan (if c then x.setTun s y else (x.setTun s y).tunClose s) := by simp [KeepsCan, setTun]
  have room := tunRoom_can d s m.length
  unfold tunAdd at h
  dsimp only at h
  rw [Option.map_eq_some_iff] at h
  obtain ⟨⟨g, x⟩, got, rfl⟩ := h
  refine .trans (.trans room ?_) (joined x _ _)
  split at got
  · have claimed := alloc_can (d.tunRoom s m.length) (cellsOf ((d.tunRoom s m.length).tunEth s + (d.tunRoom s m.length).tunHdr s
      + ((d.tunRoom s m.length).tunOpen s).bytes.length + m.length))
    split at got
    · next has =>
      cases got
      rwa [has] at claimed
    · cases got
  · rw [Option.map_eq_some_iff] at got
    obtain ⟨y, grown, same⟩ := got
    cases same
    exact resize_can grown
@[simp] theorem tunCopy_can (d : Dev) (p : Nat) (b : List Byte) (time : Nat) : d.KeepsCan (d.tunCopy p b time) := by
  have joined (x : Dev) (k port ts : Nat) (l : List (List Byte)) :
      ∀ e ∈ l.foldl (fun (r : Option Dev) m => r.bind fun d => d.tunAdd k port ts m) (some x), x.KeepsCan e := by
    refine foldl_keeps (fun r : Option Dev => ∀ e ∈ r, x.KeepsCan e) _ (fun r m kept e he => ?_) l ?_
    · obtain ⟨y, hy, has⟩ := Option.bind_eq_some_iff.1 he
      exact (kept y hy).trans (tunAdd_can has)
    · rintro e ⟨⟩
      exact .refl x
  have lost (x : Dev) : x.KeepsCan (x.inc .tunTxDrop 0) := by simp +decide [KeepsCan]
  have copied (x : Dev) (k port ts : Nat) (l : List (List Byte)) : x.KeepsCan
      ((l.foldl (fun (r : Option Dev) m => r.bind fun d => d.tunAdd k port ts m) (some x)).getD (x.inc .tunTxDrop 0)) := by
    have all := joined x k port ts l
    revert all
    generalize l.foldl _ _ = r
    cases r with
    | none => exact fun _ => lost x
    | some e => exact fun all => all e rfl
  unfold tunCopy
  split
  · exact .refl d
  · dsimp only
    split
    · exact (tunRoom_can ..).trans (copied ..)
    · exact .refl d
@[simp] theorem monSample_can (d : Dev) (m v : Nat) : d.KeepsCan (d.monSample m v) := by simp +decide [KeepsCan, monSample]

@[simp] theorem setObj_can (d : Dev) (o : Nat) (x : MsgObj) : d.KeepsCan (d.setObj o x) := ⟨rfl, rfl, rfl, rfl⟩
@[simp] theorem objReceive_can (d : Dev) (p : Nat) (b : List Byte) (time : Nat) : d.KeepsCan (d.objReceive p b time) := by
  unfold objReceive
  split
  · exact .refl d
  · extract_lets x n data rtr used freed updated was e m g
    have stored : d.KeepsCan e := by
      unfold e
      split_ifs <;> simp +decide [KeepsCan, used, updated, freed, objUpdate]
    have sampled : e.KeepsCan g := by
      unfold g
      split
      · split <;> simp [KeepsCan]
      · exact .refl e
    exact stored.trans (sampled.trans (setObj_can ..))
@[simp] theorem busCommit_can (d : Dev) (p : Nat) (b : List Byte) (time : Nat) (ecc : Ecc) :
    d.KeepsCan (d.busCommit p b time ecc) := by
  have claimed := alloc_can (d.bufEcc ecc) (cellsOf b.length)
  have dropped (x : Dev) {c : Ctr} (h : c ∉ canEnds) : x.KeepsCan (x.inc c p) := ⟨by simp, inc_canCounts h .., by simp, by simp⟩
  unfold busCommit
  dsimp only
  refine (bufEcc_can d ecc).trans ?_
  split
  · exact dropped _ (by decide)
  · split
    · next none => exact .trans (by rwa [none] at claimed) (dropped _ (by decide))
    · next got =>
      rw [got] at claimed
      exact claimed.trans ((tunCopy_can ..).trans (commitRx_can ..))

end Dev
end Sys2Proof.Machine
end

section
/-! ### The channels themselves: their buffers, protocol states and error counters (R301 to R311) -/
namespace Sys2Proof.Machine
namespace Dev

/-! #### Buffers -/

theorem can_of_bus {d e : Dev} (h : e.bus.can = d.bus.can) (n : Nat) : e.can n = d.can n := by rw [can, h, can]

theorem can_setCan_same (d : Dev) (n : Nat) (x : CanChan) : (d.setCan n x).can n = x := by
  simp only [can, setCan, canShow, sf_bus]
  exact Sparse.get_set_same ..

theorem within_canShow {F : Foot} {n : Nat} (status : F.hasReg .canTxStatus n) (d : Dev) : d.Within (d.canShow n) F :=
  .trans (.trans (.sf d status _) (.sf _ status _)) (.sf _ status _)

theorem within_setCan {F : Foot} {n : Nat} (status : F.hasReg .canTxStatus n) (bus : F.hasPart .bus) (d : Dev) (x : CanChan) :
    d.Within (d.setCan n x) F := by
  refine .trans ?_ (within_canShow status _)
  exact .parts rfl rfl fun p outside => by cases p <;> simp_all [Part.same]

/-- `e` shows the error counters, counts what ends on the CAN channels and holds the transaction as `d` does, whatever its
channels hold. -/
structure KeepsEnds (d e : Dev) : Prop where
  errs : canErrs e.regs = canErrs d.regs
  counts : canCounts e.ctrs = canCounts d.ctrs
  ep : e.ep = d.ep

namespace KeepsEnds
variable {d e g : Dev}

theorem trans (h : d.KeepsEnds e) (k : e.KeepsEnds g) : d.KeepsEnds g :=
  ⟨k.errs.trans h.errs, k.counts.trans h.counts, k.ep.trans h.ep⟩

theorem of_can (h : d.KeepsCan e) : d.KeepsEnds e := ⟨h.1, h.2.1, h.2.2.2⟩

theorem f (h : d.KeepsEnds e) {F : RField} (hF : F ∈ canErrFields) (n : Nat) : e.f F n = d.f F n := f_of_canErrs h.errs hF n

theorem ctr (h : d.KeepsEnds e) {c : Ctr} (hc : c ∈ canEnds) (i : Nat) : e.ctr c i = d.ctr c i := ctr_of_canCounts h.counts hc i

end KeepsEnds

theorem setCan_ends (d : Dev) (n : Nat) (x : CanChan) : d.KeepsEnds (d.setCan n x) := by
  constructor <;> simp +decide [setCan, canShow]

theorem find?_insert_erase (bufs : Sparse CanBuf) (b : Nat) (x : CanBuf) :
    (Sparse.insert b x (Sparse.erase b bufs)).find? (fun e => decide (e.1 = b)) = some (b, x) := by
  induction bufs with
  | nil => simp [Sparse.erase, Sparse.insert]
  | cons e bufs ih =>
    obtain ⟨k, y⟩ := e
    simp only [Sparse.erase]
    split
    · exact ih
    · next other =>
      simp only [Sparse.insert]
      split
      · simp
      · simp [other, ih]

theorem canBuf_setCan_same (d : Dev) (n b : Nat) (c : CanChan) (x : CanBuf) :
    (d.setCan n { c with bufs := Sparse.insert b x (Sparse.erase b c.bufs) }).canBuf n b = some x := by
  rw [canBuf, can_setCan_same, find?_insert_erase, Option.map_some]

/-- The channel with buffer `b` free. -/
def canFreed (d : Dev) (n b : Nat) : CanChan :=
  { d.can n with bufs := Sparse.erase b (d.can n).bufs, cur := if (d.can n).cur = some b then none else (d.can n).cur }

/-- What follows the freeing of a buffer leaves the channels alone. -/
theorem canFree_after_setCan (d : Dev) (n b : Nat) : (d.setCan n (d.canFreed n b)).KeepsCan (d.canFree n b) := by
  unfold canFree
  extract_lets c x e g
  have timed : e.KeepsCan g := by
    unfold g
    split
    · exact txFinish_can ..
    · exact .refl e
  exact timed.trans (.trans (.ite (heldCount_can ..) (.refl g)) (release_can ..))

theorem can_canFree (d : Dev) (n b : Nat) : (d.canFree n b).can n = d.canFreed n b := by
  rw [can_of_bus (canFree_after_setCan d n b).2.2.1, can_setCan_same]

theorem canFree_ends (d : Dev) (n b : Nat) : d.KeepsEnds (d.canFree n b) :=
  (setCan_ends ..).trans (.of_can (canFree_after_setCan d n b))

/-! #### Protocol states (R301) -/

theorem canSet_can (d : Dev) (n st : Nat) : d.KeepsCan (d.canSet n st) := by
  have stored : d.KeepsCan (d.sf canErr_STATE n st) :=
    ⟨canErrs_of_f fun F hF k => f_sf_of_apart (by fin_cases hF <;> decide) d n k st, by simp, by simp, by simp⟩
  exact .ite (.refl d) (stored.trans (raise_can ..))

theorem canState_canSet {st : Nat} (code : st < 8) (d : Dev) (n : Nat) : (d.canSet n st).canState n = st := by
  unfold canSet
  split
  · assumption
  · rw [canState, f_of_rd (rd_raise (by decide) ..), f_sf_fits (by decide) (by decide) code]

theorem f_canSet {F : RField} (other : F.reg ∉ raiseRegs) (apart : canErr_STATE.apart F = true) (d : Dev) (n st i : Nat) :
    (d.canSet n st).f F i = d.f F i := by
  unfold canSet
  split
  · rfl
  · rw [f_of_rd (rd_raise other ..), f_sf_of_apart apart]

/-- Below the bus-off limit the error counters decide between active and passive only. -/
theorem canConfine_can {d : Dev} {n : Nat} (low : d.f canErr_TEC n ≤ 255) : d.KeepsCan (d.canConfine n) := by
  unfold canConfine
  rw [if_neg (show ¬ 255 < d.f canErr_TEC n by omega)]
  exact .ite (.refl d) (canSet_can ..)

theorem canConfine_of_active {d : Dev} {n : Nat} (active : d.canState n = canActive) (tec : d.f canErr_TEC n ≤ 127)
    (rec : d.f canErr_REC n ≤ 127) : d.canConfine n = d := by
  unfold canConfine
  simp only [active]
  rw [if_neg (by decide), if_neg (by omega), if_neg (by omega), canSet, if_pos active]

theorem canOn_iff (d : Dev) (n : Nat) : d.canOn n = true ↔ d.canState n = canActive ∨ d.canState n = canPassive := by
  simp [canOn, canActive, canPassive]

theorem canOff_iff (d : Dev) (n : Nat) : d.canOn n = false ↔ d.canState n ≠ canActive ∧ d.canState n ≠ canPassive := by
  simp [canOn, canActive, canPassive]

/-! #### Errors (R301) -/

theorem f_inc (d : Dev) (c : Ctr) (i : Nat) (F : RField) (k : Nat) : (d.inc c i).f F k = d.f F k := rfl

theorem ctr_sf (d : Dev) (F : RField) (i v : Nat) (c : Ctr) (k : Nat) : (d.sf F i v).ctr c k = d.ctr c k := rfl

section Seen
variable {k : Nat} (code : k ≠ 0) (small : k ≤ 5) (d : Dev) (n : Nat)
include code small

theorem canErrSeen_eq : d.canErrSeen n k = (d.sf canErr_LEC n k).inc (canErrCtr k) n := by
  rw [canErrSeen, if_neg (by omega)]

theorem lec_canErrSeen : (d.canErrSeen n k).f canErr_LEC n = k := by
  rw [canErrSeen_eq code small, f_inc, f_sf_fits (by decide) (by decide) (by simp; omega)]

theorem ctr_canErrSeen : (d.canErrSeen n k).ctr (canErrCtr k) n = d.ctr (canErrCtr k) n + 1 := by
  rw [canErrSeen_eq code small, ctr_inc_same, ctr_sf]

end Seen

theorem canErrCtr_ends (k : Nat) : canErrCtr k ∈ canEnds := by
  unfold canErrCtr
  split <;> decide

theorem f_canErrSeen {F : RField} (apart : canErr_LEC.apart F = true) (d : Dev) (n k i : Nat) : (d.canErrSeen n k).f F i = d.f F i := by
  unfold canErrSeen
  split
  · rfl
  · rw [f_inc, f_sf_of_apart apart]

theorem bus_canErrSeen (d : Dev) (n k : Nat) : (d.canErrSeen n k).bus = d.bus := by
  unfold canErrSeen
  split <;> simp

section ErrAdd
variable (d : Dev) (n tec rec : Nat)

theorem f_canErrAdd_tec : (d.canErrAdd n tec rec).f canErr_TEC n = min 511 (d.f canErr_TEC n + tec) := by
  rw [canErrAdd, f_sf_of_apart (by decide), f_sf_fits (by decide) (by decide) (by simp)]

theorem f_canErrAdd_rec : (d.canErrAdd n tec rec).f canErr_REC n = min 511 (d.f canErr_REC n + rec) := by
  rw [canErrAdd, f_sf_fits (by decide) (by decide) (by simp)]

theorem f_canErrAdd_lec : (d.canErrAdd n tec rec).f canErr_LEC n = d.f canErr_LEC n := by
  rw [canErrAdd, f_sf_of_apart (by decide), f_sf_of_apart (by decide)]

theorem ctr_canErrAdd (c : Ctr) (i : Nat) : (d.canErrAdd n tec rec).ctr c i = d.ctr c i := by
  rw [canErrAdd, ctr_sf, ctr_sf]

theorem bus_canErrAdd : (d.canErrAdd n tec rec).bus = d.bus := by simp [canErrAdd]

end ErrAdd

/-! #### Frame boundaries -/

theorem rxPassed_quiet {d : Dev} (held : d.bus.bwHeld = []) (rx : d.bus.rxCut = []) (wake : d.bus.wakeCut = []) (p : Nat) :
    d.rxPassed p = d := by
  have kept {l : List Nat} (empty : l = []) : l.filter (· != p) = l := by rw [empty, List.filter_nil]
  simp only [rxPassed, bwPassed, kept held, kept rx, kept wake]

theorem flushDue_quiet {d : Dev} (none_due : d.buf.flushAfter = []) (p : Nat) : d.flushDue p = d := by
  simp [flushDue, none_due]

theorem boundary_can {d : Dev} (closed : d.ep.txn = none) (u : Nat) : d.KeepsCan (d.boundary u) := by
  rw [boundary_of_no_txn closed]
  split
  · exact .refl d
  · exact ⟨rfl, rfl, rfl, rfl⟩

end Dev
end Sys2Proof.Machine
end

section
/-! ### What each row of a CAN channel does (R301, R303 to R308, R310) -/
namespace Sys2Proof.Machine
namespace Dev

/-! #### Reception -/

theorem canReceive_off {d : Dev} {n : Nat} (off : d.canOn n = false) (x : CanRx) : d.canReceive n x = d := by
  obtain ⟨active, passive⟩ := (canOff_iff d n).1 off
  rw [canReceive]
  exact if_neg (by simp [active, passive])

/-- A frame of channel `n` has become valid while REC is at most 127: REC and the count of frames. -/
def canHeard (d : Dev) (n : Nat) : Dev := (d.sf canErr_REC n (d.f canErr_REC n - 1)).inc .canRxFrames n

theorem canHeard_tec (d : Dev) (n : Nat) : (d.canHeard n).f canErr_TEC n = d.f canErr_TEC n := by
  rw [canHeard, f_inc, f_sf_of_apart (by decide)]

theorem canHeard_rec (d : Dev) (n : Nat) : (d.canHeard n).f canErr_REC n = d.f canErr_REC n - 1 := by
  have small := f_lt d canErr_REC n
  rw [canHeard, f_inc, f_sf_fits (by decide) (by decide) (by omega)]

theorem canHeard_frames (d : Dev) (n : Nat) : (d.canHeard n).ctr .canRxFrames n = d.ctr .canRxFrames n + 1 := by
  rw [canHeard, ctr_inc_same, ctr_sf]

section Heard
variable {d : Dev} {n : Nat} {x : CanRx} (on : d.canOn n = true) (kind : x.kind = 1) (awake : d.portAsleep (32 + n) = false)
  (power : d.sleep.power ≠ .sleep) (wake : d.bus.wakeCut = []) (rec : d.f canErr_REC n ≤ 127) (tec : d.f canErr_TEC n ≤ 255)
include on kind awake power wake rec tec

/-- What follows the count of a frame (the object, the confinement, the commit) leaves the error counters and the count alone. -/
theorem canReceive_after_heard : (d.canHeard n).KeepsCan (d.canReceive n x) := by
  have serves : (d.canState n = canActive ∨ d.canState n = canPassive) ∧ (x.kind == 1 || (x.kind == 2 && d.b canCtl_FD_EN n)
      || (x.kind == 3 && d.b canCtl_XL_EN n && decide (32 ≤ n))) ∧ d.portAsleep (32 + n) = false ∧ d.sleep.power ≠ .sleep
      ∧ (x.stale && d.bus.wakeCut.contains (32 + n)) = false :=
    ⟨(canOn_iff d n).1 on, by simp [kind], awake, power, by simp [wake]⟩
  have confined (b : List Byte) : (d.canHeard n).KeepsCan (((d.canHeard n).objReceive (32 + n) b x.time).canConfine n) := by
    have object := objReceive_can (d.canHeard n) (32 + n) b x.time
    refine object.trans (canConfine_can ?_)
    rwa [f_of_canErrs object.1 (by decide), canHeard_tec]
  have refused (e : Dev) (u : Nat) : e.KeepsCan (e.refuse u) := by simp +decide [KeepsCan, refuse]
  unfold canReceive
  dsimp only
  rw [if_pos serves, if_pos rec]
  simp only [if_neg (show ¬ x.kind = 2 by omega), if_neg (show ¬ x.kind = 3 by omega)]
  change (d.canHeard n).KeepsCan (if _ then Dev.refuse (Dev.canConfine (Dev.objReceive (d.canHeard n) ..) _) _ else _)
  split
  · exact (confined _).trans (refused _ _)
  · split
    · exact confined _
    · exact (confined _).trans (busCommit_can ..)

theorem canReceive_counts : (d.canReceive n x).f canErr_REC n = d.f canErr_REC n - 1 ∧
    (d.canReceive n x).ctr .canRxFrames n = d.ctr .canRxFrames n + 1 := by
  obtain ⟨errs, counts, -, -⟩ := canReceive_after_heard on kind awake power wake rec tec
  exact ⟨(f_of_canErrs errs (by decide) n).trans (canHeard_rec d n), (ctr_of_canCounts counts (by decide) n).trans (canHeard_frames d n)⟩

end Heard

theorem canRxErr_off {d : Dev} {n : Nat} (off : d.canOn n = false) (k up : Nat) : d.canRxErr n k up = d := by
  obtain ⟨active, passive⟩ := (canOff_iff d n).1 off
  exact if_neg (by simp [active, passive])

theorem canRxErr_counts {d : Dev} {n k up : Nat} (on : d.canOn n = true) (code : k ≠ 0) (small : k ≤ 5)
    (tec : d.f canErr_TEC n ≤ 255) (rec : d.f canErr_REC n + up ≤ 511) : (d.canRxErr n k up).f canErr_LEC n = k ∧
      (d.canRxErr n k up).f canErr_REC n = d.f canErr_REC n + up ∧
      (d.canRxErr n k up).ctr (canErrCtr k) n = d.ctr (canErrCtr k) n + 1 := by
  have does : d.canRxErr n k up = ((d.canErrSeen n k).canErrAdd n 0 up).canConfine n := if_pos ((canOn_iff d n).1 on)
  have kept : ((d.canErrSeen n k).canErrAdd n 0 up).KeepsCan (((d.canErrSeen n k).canErrAdd n 0 up).canConfine n) :=
    canConfine_can (by rw [f_canErrAdd_tec, f_canErrSeen (by decide)]; omega)
  obtain ⟨errs, counts, -, -⟩ := kept
  rw [does]
  refine ⟨?_, ?_, ?_⟩
  · rw [f_of_canErrs errs (by decide), f_canErrAdd_lec, lec_canErrSeen code small]
  · rw [f_of_canErrs errs (by decide), f_canErrAdd_rec, f_canErrSeen (by decide)]
    omega
  · rw [ctr_of_canCounts counts (canErrCtr_ends k), ctr_canErrAdd, ctr_canErrSeen code small]

/-! #### Arbitration (R306) -/

theorem canTxLoad_off {d : Dev} {n : Nat} (off : d.canLoads n = false) (ecc : Ecc) : d.canTxLoad n ecc = d :=
  if_neg (by simp [off])

theorem canArbStart_idle {d : Dev} {n : Nat}
    (idle : (d.can n).cur ≠ none ∨ d.canOn n = false ∨ canBest (d.can n).bufs = none) : d.canArbStart n = d := by
  unfold canArbStart
  dsimp only
  split
  · next starts =>
    simp only [Bool.and_eq_true, Bool.or_eq_true, beq_iff_eq, Option.isNone_iff_eq_none] at starts
    obtain ⟨⟨⟨⟨free, on⟩, -⟩, -⟩, -⟩ := starts
    rcases idle with busy | off | empty
    · exact absurd free busy
    · rw [(canOn_iff d n).2 on] at off
      cases off
    · rw [empty]
  · rfl

/-- The channel with buffer `b` on the bus. -/
def canBegun (d : Dev) (n b : Nat) (x : CanBuf) : CanChan :=
  { d.can n with cur := some b, bufs := Sparse.insert b { x with started := true, ts := none } (Sparse.erase b (d.can n).bufs) }

section Starts
variable {d : Dev} {n b : Nat} {x : CanBuf} (free : (d.can n).cur = none) (on : d.canOn n = true) (admits : d.admits (uCan n) = true)
  (serves : d.bwServes (32 + n) = true) (awake : d.portAsleep (32 + n) = false) (best : canBest (d.can n).bufs = some b)
  (buf : d.canBuf n b = some x)
include free on admits serves awake best buf

/-- The egress time and the mirror copies of a start leave the channels alone, and nothing of them is due to a frame that has
started before and waits for no time. -/
theorem exists_canArbStart : ∃ (e : Dev) (o : Output), d.canArbStart n = e.emit o ∧ (d.setCan n (d.canBegun n b x)).KeepsCan e ∧
    (x.started = true → x.ts = none → e = d.setCan n (d.canBegun n b x)) := by
  have starts : ((d.can n).cur.isNone && (d.canState n == canActive || d.canState n == canPassive) && d.admits (uCan n)
      && d.bwServes (32 + n) && !d.portAsleep (32 + n)) = true := by
    simpa [free, admits, serves, awake] using (canOn_iff d n).1 on
  unfold canArbStart
  dsimp only
  rw [if_pos starts, best]
  dsimp only
  rw [buf]
  refine ⟨_, _, rfl, ?_, fun started untimed => ?_⟩
  · refine .trans ?_ (.ite (.refl _) (mirrorPort_can ..))
    split
    · exact txFinish_can ..
    · exact .refl _
  · simp only [Option.getD_some, untimed, started, if_true]
    rfl

end Starts

/-! #### The end of a transmission (R304, R306, R307) -/

theorem canTxDone_idle {d : Dev} {n : Nat} (free : (d.can n).cur = none) (tdcv tdcvXl : Option Nat) :
    d.canTxDone n tdcv tdcvXl = d := by rw [canTxDone, free]

/-- Channel `n` has sent a frame: TEC and the count of frames. -/
def canSent (d : Dev) (n : Nat) : Dev := (d.inc .canTxFrames n).sf canErr_TEC n (d.f canErr_TEC n - 1)

theorem canSent_tec (d : Dev) (n : Nat) : (d.canSent n).f canErr_TEC n = d.f canErr_TEC n - 1 := by
  have small := f_lt d canErr_TEC n
  rw [canSent, f_sf_fits (by decide) (by decide) (by omega)]

theorem canSent_frames (d : Dev) (n : Nat) : (d.canSent n).ctr .canTxFrames n = d.ctr .canTxFrames n + 1 := by
  rw [canSent, ctr_sf, ctr_inc_same]

section Done
variable {d : Dev} {n b : Nat} (busy : (d.can n).cur = some b)
include busy

theorem canTxDone_after_canFree (tec : d.f canErr_TEC n ≤ 255) :
    ((d.canSent n).canFree n b).KeepsCan (d.canTxDone n none none) := by
  have untimed : d.canDelay n none none = d := rfl
  have does : d.canTxDone n none none = (((d.canSent n).canFree n b).canConfine n).flushDue (32 + n) := by
    rw [canTxDone, busy]
    dsimp only
    rw [untimed]
    rfl
  rw [does]
  refine (canConfine_can ?_).trans (flushDue_can ..)
  rw [(canFree_ends ..).f (by decide), canSent_tec]
  omega

/-- A success frees the buffer, and counts it in TEC and in the frames; the boundary that follows leaves that alone. -/
theorem canTxDone_shows (tec : d.f canErr_TEC n ≤ 255) (closed : d.ep.txn = none) (u : Nat) :
    (((d.canTxDone n none none).boundary u).can n).bufs = Sparse.erase b (d.can n).bufs ∧
      (((d.canTxDone n none none).boundary u).can n).cur = none ∧
      ((d.canTxDone n none none).boundary u).f canErr_TEC n = d.f canErr_TEC n - 1 ∧
      ((d.canTxDone n none none).boundary u).ctr .canTxFrames n = d.ctr .canTxFrames n + 1 := by
  have freed := canFree_ends (d.canSent n) n b
  have done := canTxDone_after_canFree busy tec
  have ep : (d.canSent n).ep = d.ep := by simp [canSent]
  have quiet : (d.canTxDone n none none).ep.txn = none := by rw [done.2.2.2, freed.ep, ep, closed]
  have all := done.trans (boundary_can quiet u)
  have ends := freed.trans (.of_can all)
  have same : (d.canSent n).can n = d.can n := can_of_bus (by simp [canSent]) n
  rw [can_of_bus all.2.2.1, can_canFree, canFreed, same, busy, ends.f (by decide), canSent_tec, ends.ctr (by decide), canSent_frames]
  exact ⟨rfl, if_pos rfl, rfl, rfl⟩

end Done

/-- A retry leaves nothing on the bus, and the error counters and counts as they were. -/
theorem canRetry_shows (d : Dev) (n b : Nat) : ((d.canRetry n b).can n).cur = none ∧ d.KeepsEnds (d.canRetry n b) := by
  have freed (e : Dev) (free : (e.can n).cur = none) : ((e.canFree n b).can n).cur = none := by
    rw [can_canFree, canFreed, free]
    rfl
  unfold canRetry
  extract_lets c e
  have idle : (e.can n).cur = none := by unfold e; rw [can_setCan_same]
  have ends : d.KeepsEnds e := setCan_ends ..
  split
  · exact ⟨idle, ends⟩
  · split_ifs
    · exact ⟨freed e idle, ends.trans (canFree_ends ..)⟩
    · have dropped : e.KeepsEnds (e.inc .canTxRetryDrop n) := by constructor <;> simp +decide
      exact ⟨freed _ (by rwa [can_of_bus (d := e) (by simp)]), ends.trans (dropped.trans (canFree_ends ..))⟩
    · exact ⟨by rw [can_setCan_same], ends.trans (setCan_ends ..)⟩

theorem canTxErr_off {d : Dev} {n : Nat} (off : d.canOn n = false) (k : Nat) (exempt : Bool) (tdcv tdcvXl : Option Nat) :
    d.canTxErr n k exempt tdcv tdcvXl = d := if_pos ((canOff_iff d n).1 off)

/-- Channel `n` has seen error `k` of its own frame: TEC, the count of the kind and the count of retries. -/
def canFailed (d : Dev) (n k : Nat) (exempt : Bool) : Dev :=
  ((d.canErrSeen n k).canErrAdd n (if exempt then 0 else 8) 0).inc .canTxRetry n

theorem canFailed_tec (d : Dev) (n k : Nat) (exempt : Bool) :
    (d.canFailed n k exempt).f canErr_TEC n = min 511 (d.f canErr_TEC n + if exempt then 0 else 8) := by
  rw [canFailed, f_inc, f_canErrAdd_tec, f_canErrSeen (by decide)]

theorem canErrSeen_retries (d : Dev) (n k : Nat) : (d.canErrSeen n k).ctr .canTxRetry n = d.ctr .canTxRetry n := by
  unfold canErrSeen
  split
  · rfl
  · refine (ctr_inc_ne _ (.inl ?_)).trans (ctr_sf ..)
    unfold canErrCtr
    split <;> decide

theorem canFailed_retries (d : Dev) (n k : Nat) (exempt : Bool) :
    (d.canFailed n k exempt).ctr .canTxRetry n = d.ctr .canTxRetry n + 1 := by
  rw [canFailed, ctr_inc_same, ctr_canErrAdd, canErrSeen_retries]

theorem canFailed_ep (d : Dev) (n k : Nat) (exempt : Bool) : (d.canFailed n k exempt).ep = d.ep := by
  unfold canFailed canErrAdd canErrSeen
  split <;> simp

/-- An error below the bus-off limit takes the frame off the bus, and counts in TEC and in the retries; the boundary that follows
leaves that alone. -/
theorem canTxErr_shows {d : Dev} {n b : Nat} (busy : (d.can n).cur = some b) (on : d.canOn n = true) (tec : d.f canErr_TEC n ≤ 247)
    (closed : d.ep.txn = none) (k : Nat) (exempt : Bool) (u : Nat) :
    (((d.canTxErr n k exempt none none).boundary u).can n).cur = none ∧
      ((d.canTxErr n k exempt none none).boundary u).f canErr_TEC n = d.f canErr_TEC n + (if exempt then 0 else 8) ∧
      ((d.canTxErr n k exempt none none).boundary u).ctr .canTxRetry n = d.ctr .canTxRetry n + 1 := by
  have limit : (if exempt then 0 else 8) ≤ 8 := by split <;> omega
  have low := canFailed_tec d n k exempt
  rw [Nat.min_eq_right (by omega)] at low
  obtain ⟨idle, retried⟩ := canRetry_shows (d.canFailed n k exempt) n b
  have does : d.canTxErr n k exempt none none = (((d.canFailed n k exempt).canRetry n b).canConfine n).flushDue (32 + n) := by
    have cur : (((d.canErrSeen n k).canErrAdd n (if exempt then 0 else 8) 0).can n).cur = some b := by
      rw [can_of_bus (d := d) (by rw [bus_canErrAdd, bus_canErrSeen]), busy]
    have untimed (e : Dev) : e.canDelay n none none = e := rfl
    unfold canTxErr
    dsimp only
    rw [if_neg (by simpa [imp_iff_not_or, or_comm] using (canOn_iff d n).1 on), cur]
    dsimp only
    rw [untimed, ← canFailed, if_neg (by omega)]
  have after : ((d.canFailed n k exempt).canRetry n b).KeepsCan (d.canTxErr n k exempt none none) := by
    rw [does]
    refine (canConfine_can ?_).trans (flushDue_can ..)
    rw [retried.f (by decide)]
    omega
  have quiet : (d.canTxErr n k exempt none none).ep.txn = none := by rw [after.2.2.2, retried.ep, canFailed_ep, closed]
  have all := after.trans (boundary_can quiet u)
  have ends := retried.trans (.of_can all)
  rw [can_of_bus all.2.2.1, ends.f (by decide), ends.ctr (by decide), low, canFailed_retries]
  exact ⟨idle, rfl, rfl⟩

theorem canArbLose_leaves {d : Dev} {n b : Nat} (busy : (d.can n).cur = some b) (own : b ≠ 64) (none_due : d.buf.flushAfter = []) :
    d.canArbLose n = (d.inc .canArbLost n).setCan n { d.can n with cur := none } := by
  rw [canArbLose, busy]
  dsimp only
  rw [if_neg own]
  exact flushDue_quiet (by simpa [setCan, canShow] using none_due) _

/-! #### Protocol states (R301) -/

theorem canIntegrated_idle {d : Dev} {n : Nat} (idle : d.canState n ≠ canIntegrating ∨ d.portAsleep (32 + n) = true) :
    d.canIntegrated n = d := if_neg (by rcases idle with state | asleep <;> simp [*])

theorem canRecovered_idle {d : Dev} {n : Nat} (idle : d.canState n ≠ canRecovering ∨ d.portAsleep (32 + n) = true) :
    d.canRecovered n = d := if_neg (by rcases idle with state | asleep <;> simp [*])

/-- A channel that has integrated is error active on a restored link. -/
theorem canIntegrated_shows {d : Dev} {n : Nat} (state : d.canState n = canIntegrating) (awake : d.portAsleep (32 + n) = false)
    (tec : d.f canErr_TEC n ≤ 127) (rec : d.f canErr_REC n ≤ 127) :
    (d.canIntegrated n).canState n = canActive ∧ (d.canIntegrated n).f bqPortCfg_STATE (32 + n) = 0 := by
  have kept {F : RField} (hF : F.reg = .canErr) (apart : canErr_STATE.apart F = true) :
      ((d.canSet n canActive).linkRestored (32 + n)).f F n = d.f F n := by
    rw [f_linkRestored (by rw [hF]; decide) (by simp [RField.apart, hF]), f_canSet (by rw [hF]; decide) apart]
  have active : ((d.canSet n canActive).linkRestored (32 + n)).canState n = canActive := by
    rw [canState, f_linkRestored (by decide) (by decide)]
    exact canState_canSet (by decide) d n
  have does : d.canIntegrated n = (d.canSet n canActive).linkRestored (32 + n) := by
    rw [canIntegrated, if_pos ⟨state, awake⟩,
      canConfine_of_active active (by rwa [kept rfl (by decide)]) (by rwa [kept rfl (by decide)])]
  rw [does]
  exact ⟨active, f_linkRestored_state ..⟩

/-- A recovered channel is error active with both counters 0, on a restored link. -/
theorem canRecovered_shows {d : Dev} {n : Nat} (state : d.canState n = canRecovering) (awake : d.portAsleep (32 + n) = false) :
    (d.canRecovered n).canState n = canActive ∧ (d.canRecovered n).f canErr_TEC n = 0 ∧ (d.canRecovered n).f canErr_REC n = 0 ∧
      (d.canRecovered n).f bqPortCfg_STATE (32 + n) = 0 := by
  rw [canRecovered, if_pos ⟨state, awake⟩]
  refine ⟨?_, ?_, ?_, f_linkRestored_state ..⟩
  · rw [canState, f_linkRestored (by decide) (by decide)]
    exact canState_canSet (by decide) _ n
  · rw [f_linkRestored (by decide) (by decide), f_canSet (by decide) (by decide), f_sf_of_apart (by decide),
      f_sf_fits (by decide) (by decide) (by decide)]
  · rw [f_linkRestored (by decide) (by decide), f_canSet (by decide) (by decide), f_sf_fits (by decide) (by decide) (by decide)]

section Recover
variable {d : Dev} {n : Nat}

/-- RECOVER clears before the state is looked at, and the write leaves the state and the segment alone. -/
theorem canRecover_eq (d : Dev) (n : Nat) : d.canRecover n =
    if d.canState n = canBusOff ∧ d.portAsleep (32 + n) = false then (d.sf canCtl_RECOVER n 0).canSet n canRecovering
    else d.sf canCtl_RECOVER n 0 := by
  have written : d.Keeps [.canCtl] (d.sf canCtl_RECOVER n 0) := .sf (by decide) (by decide) d _ _
  have state : (d.sf canCtl_RECOVER n 0).canState n = d.canState n := written.f (by decide) n
  unfold canRecover
  dsimp only
  rw [state, written.portAsleep (by decide)]

theorem canRecover_clears (idle : d.canState n ≠ canBusOff ∨ d.portAsleep (32 + n) = true) :
    d.canRecover n = d.sf canCtl_RECOVER n 0 := by
  rw [canRecover_eq]
  exact if_neg (by rcases idle with state | asleep <;> simp [*])

theorem canRecover_starts (state : d.canState n = canBusOff) (awake : d.portAsleep (32 + n) = false) :
    (d.canRecover n).canState n = canRecovering ∧ (d.canRecover n).f canCtl_RECOVER n = 0 := by
  rw [canRecover_eq, if_pos ⟨state, awake⟩]
  refine ⟨canState_canSet (by decide) _ n, ?_⟩
  rw [f_canSet (by decide) (by decide), f_sf_fits (by decide) (by decide) (by decide)]

theorem canBoDelay_off (off : d.f canCtl_AUTO_RECOV n = 0) : d.canBoDelay n = d := if_neg (by simp [b, off])

theorem canBoDelay_on (auto : d.f canCtl_AUTO_RECOV n = 1) : d.canBoDelay n = d.canRecover n := if_pos (by simp [b, auto])

end Recover

/-! #### Held frames and the schedule (R308, R310) -/

theorem canPtime_free {d : Dev} {n b : Nat} (free : d.canBuf n b = none) : d.canPtime n b = d := by rw [canPtime, free]

theorem canPtime_releases {d : Dev} {n b : Nat} (waits : (d.canBuf n b).map (·.wait) = some true) :
    ((d.canPtime n b).canBuf n b).map (·.wait) = some false ∧
      d.Within (d.canPtime n b) { regs := [(.canTxStatus, n)], parts := [.bus] } := by
  obtain ⟨x, buf, -⟩ := Option.map_eq_some_iff.1 waits
  rw [canPtime, buf]
  exact ⟨by rw [canBuf_setCan_same]; rfl, within_setCan (.inl (by simp)) (.inl (by simp)) _ _⟩

theorem canSchedWrite_stores (d : Dev) (n k : Nat) (v : Word) :
    (d.canSchedWrite n k v.toNat).rd .canSched (8 * n + k) = (v &&& 0x80003FFF) ∧
      d.Within (d.canSchedWrite n k v.toNat) { regs := [(.canSched, 8 * n + k), (.canTxStatus, n)] } := by
  have shown (e : Dev) : e.Within (e.canShow n) { regs := [(.canTxStatus, n)] } := within_canShow (.inl (by simp)) e
  refine ⟨?_, .trans (.wr d (.inl (by simp)) _) (within_canShow (.inl (by simp)) _)⟩
  rw [canSchedWrite, (shown _).reg _ _ (by simp [Foot.hasReg]), rd_wr_same]
  exact ofNat_and_toNat v (by decide)

end Dev
end Sys2Proof.Machine
end

section
/-! ### CAN channels as commands (R301, R303 to R308, R310, R311) -/
namespace Sys2Proof.Machine
open Dev

section Exec
variable (n : Fin 48) (s : State)

theorem exec_canFrameReceived (x : CanRx) :
    exec (.canFrameReceived n x) s = s.logic fun d => (d.canReceive n.val x).rxPassed (32 + n.val) := rfl
theorem exec_canRxError (k : Fin 6) (up : Fin 9) :
    exec (.canRxError n k up) s = s.logic fun d => (d.canRxErr n.val k.val up.val).rxPassed (32 + n.val) := rfl
theorem exec_canTxLoad (ecc : Ecc) : exec (.canTxLoad ⟨n, ecc⟩) s = s.logic fun d => d.canTxLoad n.val ecc := rfl
theorem exec_canArbitrationStart : exec (.canArbitrationStart n) s = s.logic fun d => d.canArbStart n.val := rfl
theorem exec_canTxSuccess (tdcv tdcvXl : Option (BitVec 9)) : exec (.canTxSuccess n tdcv tdcvXl) s = s.logic fun d =>
    (d.canTxDone n.val (tdcv.map BitVec.toNat) (tdcvXl.map BitVec.toNat)).boundary (uCan n.val) := rfl
theorem exec_canTxError (k : Fin 6) (x : CanTxErr) : exec (.canTxError n k x) s = s.logic fun d =>
    (d.canTxErr n.val k.val x.exempt (x.tdcv.map BitVec.toNat) (x.tdcvXl.map BitVec.toNat)).boundary (uCan n.val) := rfl
theorem exec_canArbLost : exec (.canArbLost n) s = s.logic fun d => (d.canArbLose n.val).boundary (uCan n.val) := rfl
theorem exec_canIntegrationDone : exec (.canIntegrationDone n) s = s.logic fun d => d.canIntegrated n.val := rfl
theorem exec_canBoDelayExpiry : exec (.canBoDelayExpiry n) s = s.logic fun d => d.canBoDelay n.val := rfl
theorem exec_canRecover : exec (.canRecover n) s = s.logic fun d => d.canRecover n.val := rfl
theorem exec_canRecoveryDone : exec (.canRecoveryDone n) s = s.logic fun d => d.canRecovered n.val := rfl
theorem exec_canPtimeReached (b : Fin 64) : exec (.canPtimeReached n b) s = s.logic fun d => d.canPtime n.val b.val := rfl
theorem exec_canSchedWrite (k : Fin 8) (v : Word) :
    exec (.canSchedWrite n k v) s = s.logic fun d => d.canSchedWrite n.val k.val v.toNat := rfl

end Exec

theorem ctr_powered (d : Dev) (c : Ctr) (i : Nat) : d.powered.ctr c i = d.ctr c i := rfl

theorem can_powered (d : Dev) (k : Nat) : d.powered.can k = d.can k := rfl

theorem canState_powered (d : Dev) (k : Nat) : d.powered.canState k = d.canState k := rfl

theorem f_rxPassed (d : Dev) (p : Nat) (F : RField) (i : Nat) : (d.rxPassed p).f F i = d.f F i := rfl

theorem ctr_rxPassed (d : Dev) (p : Nat) (c : Ctr) (i : Nat) : (d.rxPassed p).ctr c i = d.ctr c i := rfl

section Commands
variable {s : State} {n : Fin 48} (on : s.On)
include on

section Reception
variable (held : s.dev.bus.bwHeld = []) (rx : s.dev.bus.rxCut = []) (wake : s.dev.bus.wakeCut = [])
include held rx wake

theorem runs_canFrameReceived_off (off : s.dev.canOn n = false) (x : CanRx) : Runs (.canFrameReceived n x) s fun d => d = s.dev :=
  runs_logic_to on (exec_canFrameReceived ..) (by rw [canReceive_off off, rxPassed_quiet held rx wake]) rfl rfl

theorem runs_canRxError_off (off : s.dev.canOn n = false) (k : Fin 6) (up : Fin 9) :
    Runs (.canRxError n k up) s fun d => d = s.dev :=
  runs_logic_to on (exec_canRxError ..) (by rw [canRxErr_off off, rxPassed_quiet held rx wake]) rfl rfl

end Reception

theorem runs_canFrameReceived {x : CanRx} (active : s.dev.canOn n = true) (kind : x.kind = 1)
    (awake : s.dev.portAsleep (32 + n) = false) (power : s.dev.sleep.power ≠ .sleep) (rec : s.dev.f canErr_REC n ≤ 127)
    (tec : s.dev.f canErr_TEC n ≤ 255) (wake : s.dev.bus.wakeCut = []) : Runs (.canFrameReceived n x) s fun d =>
      d.f canErr_REC n = s.dev.f canErr_REC n - 1 ∧ d.ctr .canRxFrames n = s.dev.ctr .canRxFrames n + 1 := by
  refine (runs_logic_iff on (exec_canFrameReceived ..)).2 ?_
  obtain ⟨lowered, counted⟩ := canReceive_counts active kind awake power wake rec tec
  rw [f_powered, ctr_powered, f_rxPassed, ctr_rxPassed]
  exact ⟨lowered, counted⟩

theorem runs_canRxError {k : Fin 6} {up : Fin 9} (active : s.dev.canOn n = true) (code : k ≠ 0) (rec : s.dev.f canErr_REC n ≤ 500)
    (tec : s.dev.f canErr_TEC n ≤ 255) : Runs (.canRxError n k up) s fun d => d.f canErr_LEC n = k ∧
      d.f canErr_REC n = s.dev.f canErr_REC n + up ∧ d.ctr (canErrCtr k) n = s.dev.ctr (canErrCtr k) n + 1 := by
  refine (runs_logic_iff on (exec_canRxError ..)).2 ?_
  obtain ⟨seen, raised, counted⟩ := canRxErr_counts (k := k) (up := up) active (fun zero => code (Fin.ext zero))
    (Nat.le_of_lt_succ k.isLt) tec (Nat.add_le_add rec (Nat.le_of_lt_succ up.isLt) |>.trans (by decide))
  rw [f_powered, f_powered, ctr_powered, f_rxPassed, f_rxPassed, ctr_rxPassed]
  exact ⟨seen, raised, counted⟩

theorem runs_canArbitrationStart {b : Nat} {x : CanBuf} (free : (s.dev.can n).cur = none) (active : s.dev.canOn n = true)
    (admits : s.dev.admits (uCan n) = true) (serves : s.dev.bwServes (32 + n) = true) (awake : s.dev.portAsleep (32 + n) = false)
    (best : canBest (s.dev.can n).bufs = some b) (buf : s.dev.canBuf n b = some x) : Runs (.canArbitrationStart n) s fun d =>
      d.can n = s.dev.canBegun n b x ∧
        (x.started = true → x.ts = none → s.dev.Only d { regs := [(.canTxStatus, n.val)], parts := [.bus, .outs] }) := by
  obtain ⟨e, o, does, kept, plain⟩ := exists_canArbStart free active admits serves awake best buf
  refine (runs_logic_iff on (exec_canArbitrationStart ..)).2 ⟨?_, fun started untimed => ?_⟩
  · rw [does]
    exact (can_of_bus kept.2.2.1 n).trans (can_setCan_same ..)
  · rw [does, plain started untimed]
    exact ((within_setCan (.inl (by simp)) (.inl (by simp)) _ _).trans (.emit _ (.inl (by simp)) o)).only.powered on

theorem runs_canArbLost (busy : (s.dev.can n).cur ≠ none) (own : (s.dev.can n).cur ≠ some 64)
    (none_due : s.dev.buf.flushAfter = []) (closed : s.dev.ep.txn = none) (held : s.dev.bus.bwHeld = []) :
    Runs (.canArbLost n) s fun d => d.can n = { s.dev.can n with cur := none } ∧
      d.ctr .canArbLost n = s.dev.ctr .canArbLost n + 1 ∧
      s.dev.Only d { regs := [(.canTxStatus, n.val)], ctrs := [(.canArbLost, n.val)], parts := [.bus] } := by
  obtain ⟨b, cur⟩ := Option.ne_none_iff_exists'.1 busy
  have leaves := canArbLose_leaves cur (by rintro rfl; exact own cur) none_due
  have quiet := boundary_quiet (d := (s.dev.inc .canArbLost n).setCan n { s.dev.can n with cur := none })
    (by simpa [setCan, canShow] using closed) (by simpa [setCan, canShow] using held) (uCan n)
  refine runs_logic_to on (exec_canArbLost ..) ((congrArg (boundary · _) leaves).trans quiet) (by simp) ⟨?_, ?_, ?_⟩
  · rw [can_setCan_same]
  · rw [ctr, setCan, canShow, sf_ctrs, sf_ctrs, sf_ctrs]
    exact ctr_inc_same ..
  · exact ((Within.inc _ (.inl (by simp))).trans (within_setCan (.inl (by simp)) (.inl (by simp)) _ _)).only

theorem runs_canTxSuccess_idle {tdcv tdcvXl : Option (BitVec 9)} (free : (s.dev.can n).cur = none) (closed : s.dev.ep.txn = none)
    (held : s.dev.bus.bwHeld = []) : Runs (.canTxSuccess n tdcv tdcvXl) s fun d => d = s.dev :=
  runs_logic_to on (exec_canTxSuccess ..) (by rw [canTxDone_idle free, boundary_quiet closed held]) rfl rfl

theorem runs_canTxSuccess {b : Nat} (busy : (s.dev.can n).cur = some b) (tec : s.dev.f canErr_TEC n ≤ 255)
    (closed : s.dev.ep.txn = none) : Runs (.canTxSuccess n none none) s fun d =>
      (d.can n).bufs = Sparse.erase b (s.dev.can n).bufs ∧ (d.can n).cur = none ∧
        d.f canErr_TEC n = s.dev.f canErr_TEC n - 1 ∧ d.ctr .canTxFrames n = s.dev.ctr .canTxFrames n + 1 := by
  refine (runs_logic_iff on (exec_canTxSuccess ..)).2 ?_
  rw [can_powered, f_powered, ctr_powered]
  exact canTxDone_shows busy tec closed _

theorem runs_canTxError_off {k : Fin 6} {x : CanTxErr} (off : s.dev.canOn n = false) (closed : s.dev.ep.txn = none)
    (held : s.dev.bus.bwHeld = []) : Runs (.canTxError n k x) s fun d => d = s.dev :=
  runs_logic_to on (exec_canTxError ..) (by rw [canTxErr_off off, boundary_quiet closed held]) rfl rfl

theorem runs_canTxError {k : Fin 6} {exempt : Bool} {b : Nat} (busy : (s.dev.can n).cur = some b) (active : s.dev.canOn n = true)
    (tec : s.dev.f canErr_TEC n ≤ 247) (closed : s.dev.ep.txn = none) : Runs (.canTxError n k ⟨exempt, none, none⟩) s fun d =>
      (d.can n).cur = none ∧ d.f canErr_TEC n = s.dev.f canErr_TEC n + (if exempt then 0 else 8) ∧
        d.ctr .canTxRetry n = s.dev.ctr .canTxRetry n + 1 := by
  refine (runs_logic_iff on (exec_canTxError ..)).2 ?_
  rw [can_powered, f_powered, ctr_powered]
  exact canTxErr_shows busy active tec closed k exempt _

theorem runs_canIntegrationDone (state : s.dev.canState n = canIntegrating) (awake : s.dev.portAsleep (32 + n) = false)
    (tec : s.dev.f canErr_TEC n ≤ 127) (rec : s.dev.f canErr_REC n ≤ 127) : Runs (.canIntegrationDone n) s fun d =>
      d.canState n = canActive ∧ d.f bqPortCfg_STATE (32 + n) = 0 := by
  refine (runs_logic_iff on (exec_canIntegrationDone ..)).2 ?_
  rw [canState_powered, f_powered]
  exact canIntegrated_shows state awake tec rec

theorem runs_canRecoveryDone (state : s.dev.canState n = canRecovering) (awake : s.dev.portAsleep (32 + n) = false) :
    Runs (.canRecoveryDone n) s fun d => d.canState n = canActive ∧ d.f canErr_TEC n = 0 ∧ d.f canErr_REC n = 0 ∧
      d.f bqPortCfg_STATE (32 + n) = 0 := by
  refine (runs_logic_iff on (exec_canRecoveryDone ..)).2 ?_
  rw [canState_powered, f_powered, f_powered, f_powered]
  exact canRecovered_shows state awake

/-- The ends of integration and of recovery pass over a channel that is in neither, or whose segment sleeps. -/
theorem runs_canDone_idle (idle : (s.dev.canState n ≠ canIntegrating ∧ s.dev.canState n ≠ canRecovering) ∨
    s.dev.portAsleep (32 + n) = true) : ∀ c ∈ [Instr.canIntegrationDone n, .canRecoveryDone n], Runs c s fun d => d = s.dev := by
  simp only [List.forall_mem_cons, List.not_mem_nil, false_imp_iff, implies_true, and_true]
  exact ⟨runs_logic_to on (exec_canIntegrationDone ..) (canIntegrated_idle (idle.imp_left And.left)) rfl rfl,
    runs_logic_to on (exec_canRecoveryDone ..) (canRecovered_idle (idle.imp_left And.right)) rfl rfl⟩

theorem runs_canRecover (state : s.dev.canState n = canBusOff) (awake : s.dev.portAsleep (32 + n) = false) :
    Runs (.canRecover n) s fun d => d.canState n = canRecovering ∧ d.f canCtl_RECOVER n = 0 := by
  refine (runs_logic_iff on (exec_canRecover ..)).2 ?_
  rw [canState_powered, f_powered]
  exact canRecover_starts state awake

theorem runs_canRecover_idle (idle : s.dev.canState n ≠ canBusOff ∨ s.dev.portAsleep (32 + n) = true) :
    Runs (.canRecover n) s fun d => d = s.dev.sf canCtl_RECOVER n 0 :=
  runs_logic_to on (exec_canRecover ..) (canRecover_clears idle) (by simp) rfl

theorem runs_canBoDelayExpiry_off (off : s.dev.f canCtl_AUTO_RECOV n = 0) : Runs (.canBoDelayExpiry n) s fun d => d = s.dev :=
  runs_logic_to on (exec_canBoDelayExpiry ..) (canBoDelay_off off) rfl rfl

theorem runs_canBoDelayExpiry (state : s.dev.canState n = canBusOff) (awake : s.dev.portAsleep (32 + n) = false)
    (auto : s.dev.f canCtl_AUTO_RECOV n = 1) : Runs (.canBoDelayExpiry n) s fun d => d.canState n = canRecovering := by
  refine (runs_logic_iff on (exec_canBoDelayExpiry ..)).2 ?_
  rw [canState_powered, canBoDelay_on auto]
  exact (canRecover_starts state awake).1

theorem runs_canPtimeReached {b : Fin 64} (waits : (s.dev.canBuf n b).map (·.wait) = some true) :
    Runs (.canPtimeReached n b) s fun d => (d.canBuf n b).map (·.wait) = some false ∧
      s.dev.Only d { regs := [(.canTxStatus, n.val)], parts := [.bus] } := by
  obtain ⟨released, within⟩ := canPtime_releases waits
  exact runs_logic_of_held on (exec_canPtimeReached ..) (within.held (by simp [Foot.hasPart])) ⟨released, within.only⟩

theorem runs_canSchedWrite (k : Fin 8) (v : Word) : Runs (.canSchedWrite n k v) s fun d =>
    d.rd .canSched (8 * n + k) = (v &&& 0x80003FFF) ∧
      s.dev.Only d { regs := [(.canSched, 8 * n + k), (.canTxStatus, n.val)] } := by
  obtain ⟨stored, within⟩ := canSchedWrite_stores s.dev n k v
  exact runs_logic_of_held on (exec_canSchedWrite ..) (within.held (by simp [Foot.hasPart])) ⟨stored, within.only⟩

end Commands

/-- Settles O31: each row by what its operation does to the channel, and what follows it there (the object and the commit of a
frame received, the egress time and the mirror copies of one that starts, the cells of a buffer that is freed, the restored link)
leaves the error counters, the counts and the buffers alone. -/
theorem canChannels : Obligations.CanChannels := by
  unfold Obligations.CanChannels
  intro s n on
  refine ⟨fun x off held rx wake => runs_canFrameReceived_off on held rx wake off x,
    fun x active kind awake power rec tec _ _ wake => runs_canFrameReceived on active kind awake power rec tec wake,
    fun k up off held rx wake => runs_canRxError_off on held rx wake off k up,
    fun k up active code rec tec _ _ _ => runs_canRxError on active code rec tec,
    fun ecc off => runs_logic_to on (exec_canTxLoad ..) (canTxLoad_off off ecc) rfl rfl,
    fun idle => runs_logic_to on (exec_canArbitrationStart ..) (canArbStart_idle idle) rfl rfl,
    fun b x free active admits serves awake best buf => runs_canArbitrationStart on free active admits serves awake best buf,
    fun tdcv tdcvXl free closed held => runs_canTxSuccess_idle on free closed held,
    fun b busy tec _ closed _ => runs_canTxSuccess on busy tec closed,
    fun k exempt tdcv tdcvXl off closed held => runs_canTxError_off on off closed held,
    fun k exempt b busy active tec _ closed _ => runs_canTxError on busy active tec closed,
    fun busy own none_due closed held => runs_canArbLost on busy own none_due closed held,
    fun state awake tec rec => runs_canIntegrationDone on state awake tec rec,
    fun stopped => runs_canDone_idle on (.inl ?_),
    fun state awake => runs_canRecover on state awake, fun idle => runs_canRecover_idle on idle,
    fun off => runs_canBoDelayExpiry_off on off, fun state awake auto => runs_canBoDelayExpiry on state awake auto,
    fun state awake => runs_canRecoveryDone on state awake, fun asleep => runs_canDone_idle on (.inr asleep),
    fun b free => runs_logic_to on (exec_canPtimeReached ..) (canPtime_free free) rfl rfl,
    fun b waits => runs_canPtimeReached on waits, fun k v => runs_canSchedWrite on k v⟩
  rw [stopped]
  decide

end Sys2Proof.Machine
end
section
/-! ### A step: the front command, or the passing of time (R330, R516) -/
namespace Sys2Proof.Machine
open Dev
namespace Dev

/-- A port that sends no beacons lets the time pass. -/
theorem plcaTick_of_not_leads {d : Dev} {p : Nat} (other : d.plcaLeads p = false) : d.plcaTick p = d := by
  rw [plcaTick, if_neg (by simp [other])]

theorem plcaTicks_of_none {d : Dev} (none : (List.range 8).all (fun k => !d.plcaLeads (12 + k)) = true) :
    (List.range 8).foldl (fun d k => d.plcaTick (12 + k)) d = d := by
  refine List.foldlRecOn (motive := (· = d)) (List.range 8) _ rfl fun e same k mem => ?_
  rw [same]
  exact plcaTick_of_not_leads (by simpa using List.all_eq_true.1 none k mem)

/-- Whether a port sends beacons is in the registers and in what the management subsystem runs. -/
theorem plcaLeads_congr {d e : Dev} (regs : e.regs = d.regs) (mg : e.mg = d.mg) (p : Nat) : e.plcaLeads p = d.plcaLeads p := by
  simp only [plcaLeads, ethPhyUp, bwRuns, b, f, rd_of_regs regs, mg, actsAs_of_rd (rd_of_regs regs .unitState _)]

theorem plcaLeads_ns (d : Dev) (p : Nat) : d.controllerNs.referenceNs.plcaLeads p = d.plcaLeads p := by
  obtain ⟨regs, mg⟩ : d.controllerNs.referenceNs.regs = d.regs ∧ d.controllerNs.referenceNs.mg = d.mg := by
    unfold referenceNs
    split <;> exact ⟨rfl, rfl⟩
  exact plcaLeads_congr regs mg p

theorem tick_held {d : Dev} (held : d.mg.held = true) : d.tick = d.controllerNs := if_pos held

theorem tick_on {d : Dev} (on : d.mg.held = false) (none : (List.range 8).all (fun k => !d.plcaLeads (12 + k)) = true) :
    d.tick = d.controllerNs.referenceNs := by
  have passes : d.tick = (List.range 8).foldl (fun d k => d.plcaTick (12 + k)) d.controllerNs.referenceNs :=
    if_neg (by rw [on]; decide)
  rw [passes]
  refine plcaTicks_of_none ?_
  simpa only [plcaLeads_ns] using none

end Dev

theorem step_idle {s : State} (empty : s.pending = []) : step s = .next { s with dev := s.dev.tick } := by
  simp only [step, empty, idleTick]

/-- Settles O1: the front command is what `step` matches on; a tick is 1 ns for the controller and the reference, and the ports that
send no beacon add nothing. -/
theorem stepTakesTheFrontCommand : Obligations.StepTakesTheFrontCommand := by
  unfold Obligations.StepTakesTheFrontCommand
  refine ⟨fun s c rest => rfl, fun s empty on none => ?_, fun s empty held => ?_⟩
  · rw [step_idle empty, tick_on on none]
  · rw [step_idle empty, tick_held held]

end Sys2Proof.Machine
end
section
/-! ### A counterexample of the triggers: a skipped job that an Ethernet host is told of (R345, R449, R475) -/
namespace Sys2Proof.Machine
open Dev

theorem exec_ttFireJob (n : Fin 32) (s : State) : exec (.ttFireJob n) s = s.logic fun d => d.fireJob n.val := rfl

/-- Trigger 0 is due with a JOB that names no cluster, and domain 0, bound to the first Ethernet host, has the trigger-skip event
(26) routed to it. -/
def skipToldToHost : State where
  dev := ((((({} : Dev).setTrig 0 { kind := 2, next := some 0 }).sf tmTtCtl_EN 0 1).sf hbDomBind_BIND 0 1).sf
    hbEthHostCfg_ENABLE 0 1).wr .evRoute 6 0x00800000

/-- Refutes O34: the trigger-skip event of a JOB that no cluster takes reaches an Ethernet host as a frame in the receive FIFO of its
port, which is a part of the frame path that the seventh clause has stay as it was. -/
theorem not_triggersAndCaptures : ¬ Obligations.TriggersAndCaptures := by
  unfold Obligations.TriggersAndCaptures
  intro h
  have on : skipToldToHost.On := rfl
  obtain ⟨-, -, -, -, -, -, job, -⟩ := h skipToldToHost 0 on
  have fired := job 0 (by decide +kernel) (by decide +kernel) (by decide +kernel) (by decide +kernel) (by decide +kernel)
    (by decide +kernel)
  obtain ⟨-, -, -, -, kept⟩ := (runs_logic_iff on (exec_ttFireJob ..)).1 fired
  have waiting := congrArg (fun p : Path => (Sparse.get (fun _ => []) p.rxFifo 22).length) kept
  exact absurd waiting (by decide +kernel)

end Sys2Proof.Machine
end
section
/-! ### What an event, the triggers and the gates leave of the time domains (R275, R278, R335 to R337, R346) -/
namespace Sys2Proof.Machine
namespace Dev

/-- The domains and the registers TmDomCmd of `e` are those of `d`. -/
structure SparesDomains (d e : Dev) : Prop where
  doms : e.time.dom = d.time.dom
  cmd : ∀ t, e.rd .tmDomCmd t = d.rd .tmDomCmd t

theorem dom_of_time {d e : Dev} (h : e.time.dom = d.time.dom) (t : Nat) : e.dom t = d.dom t := by rw [dom, h, dom]

theorem dom_sf (d : Dev) (F : RField) (i v t : Nat) : (d.sf F i v).dom t = d.dom t := dom_of_time (by rw [sf_time]) t

namespace SparesDomains
variable {d e g : Dev}

theorem refl (d : Dev) : d.SparesDomains d := ⟨rfl, fun _ => rfl⟩

theorem trans (h : d.SparesDomains e) (k : e.SparesDomains g) : d.SparesDomains g :=
  ⟨k.doms.trans h.doms, fun t => (k.cmd t).trans (h.cmd t)⟩

theorem foldl {β : Type} {f : Dev → β → Dev} (step : ∀ (x : Dev) (b : β), x.SparesDomains (f x b)) (l : List β) (d : Dev) :
    d.SparesDomains (l.foldl f d) := foldl_keeps (d.SparesDomains) f (fun x b k => k.trans (step x b)) l (.refl d)

theorem of_parts (regs : e.regs = d.regs) (doms : e.time.dom = d.time.dom) : d.SparesDomains e := ⟨doms, rd_of_regs regs _⟩

theorem setEth (d : Dev) (p : Nat) (x : EthPort) : d.SparesDomains (d.setEth p x) := of_parts rfl rfl

theorem setTrig (d : Dev) (n : Nat) (x : Trig) : d.SparesDomains (d.setTrig n x) := of_parts rfl rfl

theorem incBy (d : Dev) (c : Ctr) (i n : Nat) : d.SparesDomains (d.incBy c i n) := of_parts rfl rfl

theorem withTab (d : Dev) (x : Tables) : d.SparesDomains { d with tab := x } := of_parts rfl rfl

theorem wr {r : Reg} (other : r ≠ .tmDomCmd) (d : Dev) (i : Nat) (v : Word) : d.SparesDomains (d.wr r i v) :=
  ⟨by rw [wr_time], fun _ => rd_wr_ne d (.inl other) v⟩

theorem sf {F : RField} (other : F.reg ≠ .tmDomCmd) (d : Dev) (i v : Nat) : d.SparesDomains (d.sf F i v) := wr other d i _

theorem raise (d : Dev) (s inst info : Nat) : d.SparesDomains (d.raise s inst info) :=
  ⟨congrArg TimeUnit.dom (part_raise (p := .time) (by decide) d s inst info), rd_raise (by decide) d s inst info⟩

theorem dom (h : d.SparesDomains e) (t : Nat) : e.dom t = d.dom t := dom_of_time h.doms t

theorem f (h : d.SparesDomains e) {F : RField} (of : F.reg = .tmDomCmd) (t : Nat) : e.f F t = d.f F t :=
  f_of_rd (by rw [of, h.cmd])

end SparesDomains

/-! #### Triggers -/

theorem sparesDomains_trigArm (d : Dev) (n : Nat) : d.SparesDomains (d.trigArm n) := by
  unfold trigArm
  extract_lets
  split
  · exact .setTrig d n _
  · exact .trans (.setTrig d n _) (.trans (.sf (by decide) _ _ _) (.incBy _ _ _ _))

theorem sparesDomains_trigStep (d : Dev) (n was : Nat) : d.SparesDomains (d.trigStep n was) := by
  unfold trigStep
  extract_lets
  split
  · exact .refl d
  · exact .trans (.incBy d _ _ _) (.trans (.setTrig _ n _) (sparesDomains_trigArm _ n))

/-! #### Gates of ports -/

theorem sparesDomains_ethInc (d : Dev) (p g k : Nat) : d.SparesDomains (d.ethInc p g k) := by
  unfold ethInc ethAdd
  extract_lets
  split
  · exact .incBy d _ _ _
  · exact .trans (.incBy d _ _ _) (.trans (.wr (by decide) _ _ _) (.raise _ _ _ _))

theorem sparesDomains_gateCut (d : Dev) (p : Nat) : d.SparesDomains (d.gateCut p) := by
  have cut : d.SparesDomains (d.preemptWire p) := by
    unfold preemptWire
    extract_lets
    split
    · split
      · exact .trans (.setEth d p _) (sparesDomains_ethInc _ _ _ _)
      · exact .refl d
    · exact .refl d
  unfold gateCut
  extract_lets
  split
  · split
    · exact cut
    · exact .refl d
  · exact .refl d

theorem sparesDomains_gateShow (d : Dev) (p : Nat) : d.SparesDomains (d.gateShow p) := by
  have cleared (e : Dev) (c : Nat) : e.SparesDomains (e.deficitClear p c) := by
    unfold deficitClear
    split
    · exact .refl e
    · exact .setEth e p _
  unfold gateShow
  extract_lets g e
  have shown : d.SparesDomains e := .trans (.setEth d p _) (.sf (by decide) _ _ _)
  refine .trans shown (.trans (.foldl (fun x c => ?_) _ _) (sparesDomains_gateCut _ p))
  split
  · exact .refl x
  · exact cleared x c

theorem sparesDomains_gatesRestart (d : Dev) (p : Nat) : d.SparesDomains (d.gatesRestart p) := by
  unfold gatesRestart
  split
  · exact .trans (.setEth d p _) (.trans (.sf (by decide) _ _ _) (sparesDomains_gateShow _ p))
  · exact .refl d

/-! #### Stream gates, and a step as a whole -/

theorem sparesDomains_gateRestart (d : Dev) (g : Nat) : d.SparesDomains (d.gateRestart g) := by
  have placed : d.SparesDomains (d.setGatePos g 0) := .withTab d _
  unfold gateRestart
  extract_lets
  split
  · exact placed
  · exact placed.trans (.withTab _ _)

theorem sparesDomains_domGates (d : Dev) (t : Nat) : d.SparesDomains (d.domGates t) := by
  unfold domGates
  extract_lets e
  have ports : d.SparesDomains e := by
    refine .foldl (fun x p => ?_) _ d
    split
    · exact sparesDomains_gatesRestart x p
    · exact .refl x
  split
  · exact ports.trans (.foldl sparesDomains_gateRestart _ e)
  · exact ports

/-- A step advances the domain's STEP_GEN; its event, the triggers and the gates leave the domains as they are. -/
theorem sparesDomains_domStepped (d : Dev) (t was : Nat) :
    (d.sf tmDomCmd_STEP_GEN t ((d.f tmDomCmd_STEP_GEN t + 1) % 256)).SparesDomains (d.domStepped t was) := by
  refine .trans (.raise _ _ _ _) (.foldl (fun x n => ?_) _ _)
  split
  · exact sparesDomains_trigStep x n was
  · exact .refl x

end Dev
end Sys2Proof.Machine
end
section
/-! ### The commands of the time domains: how one is taken and what each does at its edge (R335 to R337) -/
namespace Sys2Proof.Machine
namespace Dev

theorem b_of_zero {d : Dev} {F : RField} {i : Nat} (zero : d.f F i = 0) : d.b F i = false := by rw [b, zero]; rfl

theorem b_of_one {d : Dev} {F : RField} {i : Nat} (one : d.f F i = 1) : d.b F i = true := by rw [b, one]; rfl

theorem dom_setDom_same (d : Dev) (t : Nat) (x : Domain) : (d.setDom t x).dom t = x := Sparse.get_set_same ..

theorem within_withTime {F : Foot} (time : F.hasPart .time) (d : Dev) (x : TimeUnit) : d.Within { d with time := x } F :=
  .parts rfl rfl fun p n => by cases p <;> simp_all [Part.same]

theorem within_setDom {F : Foot} (time : F.hasPart .time) (d : Dev) (t : Nat) (x : Domain) : d.Within (d.setDom t x) F :=
  within_withTime time d _

/-! #### Taking a command -/

theorem domCmdWrite_busy {d : Dev} {t : Nat} (busy : d.f tmDomCmd_BUSY t = 1) (cmd : Nat) :
    d.domCmdWrite t cmd = d.inc .unitRejWr uTm := if_pos (b_of_one busy)

/-- A command that is taken waits with its arguments for the second edge, and shows BUSY. -/
theorem domCmdWrite_takes {d : Dev} {t cmd : Nat} (idle : d.f tmDomCmd_BUSY t = 0) (code : ¬ (cmd = 0 ∨ 3 < cmd)) :
    (d.domCmdWrite t cmd).f tmDomCmd_BUSY t = 1 ∧
      (d.domCmdWrite t cmd).dom t = { d.dom t with
        cmd := some (cmd, (d.rd .tmDomArg (3 * t)).toNat, (d.rd .tmDomArg (3 * t + 1)).toNat, (d.rd .tmDomArg (3 * t + 2)).toNat)
        due := d.refEdge + 80 } ∧
      d.Within (d.domCmdWrite t cmd) { regs := [(.tmDomCmd, t)], parts := [.time] } := by
  rw [domCmdWrite, if_neg (by simp [b_of_zero idle]), if_neg code]
  refine ⟨f_sf_fits (by decide) (by decide) (by decide) _ _, ?_, ?_⟩
  · exact (dom_sf ..).trans (dom_setDom_same ..)
  · exact (within_setDom (.inl (by simp)) d t _).trans (.sf _ (.inl (by simp)) _)

/-! #### The end of a command -/

/-- A command that is out of range ends with RANGE, and leaves the domain's sets as they are. -/
theorem domRange_spec (d : Dev) (t : Nat) : (d.domRange t).dom t = { d.dom t with cmd := none } ∧
    (d.domRange t).f tmDomCmd_BUSY t = 0 ∧ (d.domRange t).f tmDomCmd_RESULT t = 1 ∧
    d.Within (d.domRange t) { regs := [(.tmDomCmd, t)], parts := [.time] } := by
  unfold domRange
  refine ⟨?_, ?_, f_sf_fits (by decide) (by decide) (by decide) _ _, ?_⟩
  · exact (dom_sf ..).trans ((dom_sf ..).trans (dom_setDom_same ..))
  · rw [f_sf_of_apart (by decide), f_sf_fits (by decide) (by decide) (by decide)]
  · exact ((within_setDom (.inl (by simp)) d t _).trans (.sf _ (.inl (by simp)) _)).trans (.sf _ (.inl (by simp)) _)

theorem dom_domPush (d : Dev) (t : Nat) (p : DomSet) :
    (d.domPush t p).dom t = { d.dom t with hist := p :: (d.dom t).hist.take 7, cmd := none } :=
  (dom_of_time (by simp only [domPush, sf_time, wr_time]; rfl) t).trans (dom_setDom_same d t _)

theorem domPush_result (d : Dev) (t : Nat) (p : DomSet) : (d.domPush t p).f tmDomCmd_RESULT t = 0 :=
  f_sf_fits (by decide) (by decide) (by decide) _ _

theorem domPush_busy (d : Dev) (t : Nat) (p : DomSet) : (d.domPush t p).f tmDomCmd_BUSY t = 0 := by
  unfold domPush
  rw [f_sf_of_apart (by decide), f_sf_fits (by decide) (by decide) (by decide)]

theorem domPush_stepGen (d : Dev) (t : Nat) (p : DomSet) :
    (d.domPush t p).f tmDomCmd_STEP_GEN t = d.f tmDomCmd_STEP_GEN t := by
  unfold domPush
  rw [f_sf_of_apart (by decide), f_sf_of_apart (by decide), f_of_rd (rd_wr_ne _ (.inl (by decide)) _),
    f_of_rd (rd_wr_ne _ (.inl (by decide)) _)]
  rfl

theorem within_domPush (d : Dev) (t : Nat) (p : DomSet) : d.Within (d.domPush t p)
    { regs := [(.tmDomCmd, t), (.tmDomInc, 2 * t), (.tmDomInc, 2 * t + 1)], parts := [.time] } :=
  ((((within_setDom (.inl (by simp)) d t _).trans (.wr _ (.inl (by simp)) _)).trans (.wr _ (.inl (by simp)) _)).trans
    (.sf _ (.inl (by simp)) _)).trans (.sf _ (.inl (by simp)) _)

theorem domSet_domPush {p : DomSet} {r : Nat} (anchor : p.anchor = r) (d : Dev) (t : Nat) :
    (d.domPush t p).domSet t r = some p := by
  simp [domSet, dom_domPush, anchor]

/-- A set that starts from the domain's time at its ANCHOR lets the time there stand. -/
theorem domTime?_domPush {d : Dev} {t r : Nat} {p : DomSet} (set : d.domSet t r = some p) (inc : Nat) :
    (d.domPush t { anchor := r, off := p.at r, inc := inc }).domTime? t r = d.domTime? t r := by
  have same : DomSet.at { anchor := r, off := p.at r, inc := inc } r = p.at r := by
    rw [DomSet.at, Nat.sub_self, Nat.zero_mul, Nat.zero_div, Nat.add_zero]
  rw [domTime?, domTime?, set, domSet_domPush rfl, Option.map_some, Option.map_some, same]

/-- A step that is in range, from the domain's time `was` to the set `p`. -/
def stepTo (d : Dev) (t was : Nat) (p : DomSet) : Dev := ((d.domPush t p).domStepped t was).domGates t

/-- The set of a step is the one in force, and STEP_GEN advances. -/
theorem stepTo_spec (d : Dev) (t was : Nat) (p : DomSet) : ((d.stepTo t was p).dom t).hist.head? = some p ∧
    ((d.stepTo t was p).dom t).cmd = none ∧ (d.stepTo t was p).f tmDomCmd_RESULT t = 0 ∧
    (d.stepTo t was p).f tmDomCmd_STEP_GEN t = (d.f tmDomCmd_STEP_GEN t + 1) % 256 := by
  have spares := (sparesDomains_domStepped (d.domPush t p) t was).trans (sparesDomains_domGates _ t)
  have dom : (d.stepTo t was p).dom t = (d.domPush t p).dom t := (spares.dom t).trans (dom_sf ..)
  refine ⟨by rw [dom, dom_domPush]; rfl, by rw [dom, dom_domPush], ?_, ?_⟩
  · rw [stepTo, spares.f rfl, f_sf_of_apart (by decide), domPush_result]
  · rw [stepTo, spares.f rfl, domPush_stepGen]
    exact f_sf_fits (by decide) (by decide) (Nat.mod_lt _ (by decide)) _ _

/-! #### The edge -/

theorem domApply_early {d : Dev} {t : Nat} (early : d.ns < (d.dom t).due) : d.domApply t = d := if_pos early

theorem domApply_none {d : Dev} {t : Nat} (none : (d.dom t).cmd = none) : d.domApply t = d := by
  simp [domApply, none]

/-- No core in WFI is woken. -/
theorem coresWake_of_none {d : Dev} (core0 : d.inWfi 0 = false) (core1 : d.inWfi 1 = false) : d.coresWake = d := by
  have first : d.mcWake 0 = d := if_neg (by simp [core0])
  rw [coresWake, first]
  exact if_neg (by simp [core1])

section Edge
variable {d : Dev} {t r w0 w1 w2 : Nat} {p : DomSet} (core0 : d.inWfi 0 = false) (core1 : d.inWfi 1 = false)
  (due : (d.dom t).due = r) (reached : r ≤ d.ns) (set : d.domSet t r = some p)
include core0 core1 due reached set

theorem domApply_rate (cmd : (d.dom t).cmd = some (1, w0, w1, w2)) : d.domApply t =
    if w1 % 65536 * 2 ^ 32 + w0 < 0x27F5C28F5D ∨ 0x280A3D70A3 < w1 % 65536 * 2 ^ 32 + w0 then d.domRange t
    else d.domPush t { anchor := r, off := p.at r, inc := w1 % 65536 * 2 ^ 32 + w0 } := by
  simp only [domApply, due, if_neg (Nat.not_lt.2 reached), cmd, Option.isSome_some, if_true,
    coresWake_of_none core0 core1, set]

theorem domApply_step (cmd : (d.dom t).cmd = some (2, w0, w1, w2)) : d.domApply t =
    if (p.at r : Int) + signed64 (w1 * 2 ^ 32 + w0) * 2 ^ 32 < 0 then d.domRange t
    else d.stepTo t (p.at r / 2 ^ 32)
      { anchor := r, off := ((p.at r : Int) + signed64 (w1 * 2 ^ 32 + w0) * 2 ^ 32).toNat, inc := p.inc } := by
  simp only [stepTo, domApply, due, if_neg (Nat.not_lt.2 reached), cmd, Option.isSome_some, if_true,
    coresWake_of_none core0 core1, set]

theorem domApply_setTime (cmd : (d.dom t).cmd = some (3, w0, w1, w2)) : d.domApply t =
    if 10 ^ 9 ≤ w0 then d.domRange t
    else d.stepTo t (p.at r / 2 ^ 32)
      { anchor := r, off := ((w2 % 65536 * 2 ^ 32 + w1) * 10 ^ 9 + w0) * 2 ^ 32, inc := p.inc } := by
  simp only [stepTo, domApply, due, if_neg (Nat.not_lt.2 reached), cmd, Option.isSome_some, if_true,
    coresWake_of_none core0 core1, set]
  rfl

end Edge
end Dev
end Sys2Proof.Machine
end
section
/-! ### The latch and the conversion of timestamps (R338) -/
namespace Sys2Proof.Machine
namespace Dev

/-! #### The latch -/

/-- What the latch stores of the raw counter. -/
def rawLatched (d : Dev) : Dev :=
  (List.range 3).foldl (fun d w => d.wr .tmLatchRaw w (BitVec.ofNat 32 ((d.raw + d.time.sub * 2 ^ 16) / 2 ^ (32 * w)))) d

theorem within_rawLatched (d : Dev) : d.Within d.rawLatched { arrays := [.tmLatchRaw, .tmLatchDom] } :=
  .foldl _ _ (fun e _ _ => .wr e (.inr (.inl (by simp))) _) d

theorem rd_rawLatched {w : Nat} (word : w ∈ List.range 3) (d : Dev) :
    d.rawLatched.rd .tmLatchRaw w = BitVec.ofNat 32 ((d.raw + d.time.sub * 2 ^ 16) / 2 ^ (32 * w)) := by
  have three : List.range 3 = [0, 1, 2] := rfl
  rw [three] at word
  simp only [rawLatched, three, List.foldl_cons, List.foldl_nil, wr_raw, wr_time, rd_wr, true_and]
  fin_cases word <;> rfl

/-- The domain times that the latch stores after it. -/
theorem within_timeLatch {F : Foot} (listed : .tmLatchDom ∈ F.arrays) (d : Dev) : d.rawLatched.Within d.timeLatch F :=
  .foldl _ _ (fun e _ _ => within_wrTime listed e _ _) _

/-! #### Conversions -/

theorem convWrite_busy {d : Dev} (busy : d.f tmConvCmd_BUSY 0 = 1) (t : Nat) (go : Bool) :
    d.convWrite t go = d.inc .unitRejWr uTm := if_pos (b_of_one busy)

theorem convWrite_go {d : Dev} (idle : d.f tmConvCmd_BUSY 0 = 0) (t : Nat) :
    d.convWrite t true = (d.sf tmConvCmd_TD 0 t).sf tmConvCmd_BUSY 0 1 := by
  rw [convWrite, if_neg (by simp [b_of_zero idle])]
  rfl

theorem convDone_idle {d : Dev} (idle : d.f tmConvCmd_BUSY 0 = 0) : d.convDone = d := if_neg (by simp [b_of_zero idle])

/-- The raw timestamp in TmConvIn. -/
def convIn (d : Dev) : Nat := (d.rd .tmConvIn 1).toNat * 2 ^ 32 + (d.rd .tmConvIn 0).toNat

theorem domTime?_lt {d : Dev} {t r x : Nat} (time : d.domTime? t r = some x) : x < 2 ^ 64 := by
  obtain ⟨p, -, rfl⟩ := Option.map_eq_some_iff.1 time
  exact Nat.mod_lt _ (by decide)

theorem rdTime_sf {F : RField} {r : Reg} (other : F.reg ≠ r) (d : Dev) (i j v : Nat) :
    (d.sf F i v).rdTime r j = d.rdTime r j := by
  simp only [rdTime, rd_sf_ne d (.inl other)]

/-- A time of 64 bits written as NS, SEC_LO and SEC_HI reads back. -/
theorem rdTime_wrTime {x : Nat} (fits : x < 2 ^ 64) (d : Dev) (r : Reg) (i : Nat) : (d.wrTime r i x).rdTime r i = x := by
  simp [rdTime, wrTime, rd_wr]
  omega

/-- A conversion stores the domain time, 0 where it is STALE, and shows which of the two it is. -/
theorem convDone_spec {d : Dev} (busy : d.f tmConvCmd_BUSY 0 = 1) {x : Option Nat}
    (time : d.domTime? (d.f tmConvCmd_TD 0) d.convIn = x) :
    d.convDone.rdTime .tmConvOut 0 = x.getD 0 ∧ d.convDone.f tmConvCmd_STATUS 0 = (if x.isSome then 0 else 1) ∧
      d.convDone.f tmConvCmd_BUSY 0 = 0 ∧ d.Within d.convDone { regs := [(.tmConvCmd, 0)], arrays := [.tmConvOut] } := by
  have does : d.convDone =
      ((d.wrTime .tmConvOut 0 (x.getD 0)).sf tmConvCmd_STATUS 0 (if x.isSome then 0 else 1)).sf tmConvCmd_BUSY 0 0 := by
    rw [convDone, if_pos (b_of_one busy), ← time]
    rfl
  have fits : x.getD 0 < 2 ^ 64 := by
    cases x with
    | none => decide
    | some x => exact domTime?_lt time
  rw [does]
  refine ⟨?_, ?_, f_sf_fits (by decide) (by decide) (by decide) _ _, ?_⟩
  · rw [rdTime_sf (by decide), rdTime_sf (by decide), rdTime_wrTime fits]
  · rw [f_sf_of_apart (by decide)]
    split <;> exact f_sf_fits (by decide) (by decide) (by decide) _ _
  · exact ((within_wrTime (by simp) d _ _).trans (.sf _ (.inl (by simp)) _)).trans (.sf _ (.inl (by simp)) _)

end Dev
end Sys2Proof.Machine
end
section
/-! ### The time domains as commands (R335 to R338) -/
namespace Sys2Proof.Machine
open Dev

section Exec
variable (t : Fin 4) (s : State)

theorem exec_setRate : exec (.setRate t) s = s.logic fun d => d.domCmdWrite t.val 1 := rfl
theorem exec_domainStep : exec (.domainStep t) s = s.logic fun d => d.domCmdWrite t.val 2 := rfl
theorem exec_setTime : exec (.setTime t) s = s.logic fun d => d.domCmdWrite t.val 3 := rfl
theorem exec_domainCmdApply : exec (.domainCmdApply t) s = s.logic fun d => d.domApply t.val := rfl
theorem exec_latch : exec .latch s = s.logic fun d => d.timeLatch := rfl
theorem exec_convGo : exec (.convGo t) s = s.logic fun d => d.convWrite t.val true := rfl
theorem exec_convDone : exec .convDone s = s.logic fun d => d.convDone := rfl

end Exec

/-- The three commands of a domain with their codes (R335). -/
theorem exec_domainCommand {t : Fin 4} {e : Nat × Instr}
    (command : e ∈ [(1, Instr.setRate t), (2, .domainStep t), (3, .setTime t)]) :
    (1 ≤ e.1 ∧ e.1 ≤ 3) ∧ ∀ s, exec e.2 s = s.logic fun d => d.domCmdWrite t.val e.1 := by
  simp only [List.mem_cons, List.not_mem_nil, or_false] at command
  rcases command with rfl | rfl | rfl
  · exact ⟨by simp, exec_setRate t⟩
  · exact ⟨by simp, exec_domainStep t⟩
  · exact ⟨by simp, exec_setTime t⟩

section Commands
variable {s : State} {t : Fin 4} (on : s.On)
include on

theorem runs_domainCommand {e : Nat × Instr} (command : e ∈ [(1, Instr.setRate t), (2, .domainStep t), (3, .setTime t)])
    (idle : s.dev.f tmDomCmd_BUSY t = 0) : Runs e.2 s fun d => d.f tmDomCmd_BUSY t = 1 ∧
      d.dom t = { s.dev.dom t with
        cmd := some (e.1, (s.dev.rd .tmDomArg (3 * t)).toNat, (s.dev.rd .tmDomArg (3 * t + 1)).toNat,
          (s.dev.rd .tmDomArg (3 * t + 2)).toNat)
        due := s.dev.refEdge + 80 } ∧ s.dev.Only d { regs := [(.tmDomCmd, t.val)], parts := [.time] } := by
  obtain ⟨code, does⟩ := exec_domainCommand command
  obtain ⟨busy, waits, within⟩ := domCmdWrite_takes idle (cmd := e.1) (by omega)
  exact runs_logic_of_held on (does s) (by simp) ⟨busy, waits, within.only⟩

theorem runs_domainCommand_busy {c : Instr} (command : c ∈ [Instr.setRate t, .domainStep t, .setTime t])
    (busy : s.dev.f tmDomCmd_BUSY t = 1) : Runs c s fun d => d = s.dev.inc .unitRejWr uTm := by
  obtain ⟨e, listed, rfl⟩ : ∃ e ∈ [(1, Instr.setRate t), (2, .domainStep t), (3, .setTime t)], e.2 = c := by
    simpa [eq_comm] using command
  exact runs_logic_to on ((exec_domainCommand listed).2 s) (domCmdWrite_busy busy _) (by simp) rfl

theorem runs_domainCmdApply_idle (waits : (s.dev.dom t).cmd = none ∨ s.dev.ns < (s.dev.dom t).due) :
    Runs (.domainCmdApply t) s fun d => d = s.dev :=
  runs_logic_to on (exec_domainCmdApply ..) (waits.elim domApply_none domApply_early) rfl rfl

/-- A command that is out of range. -/
theorem runs_domainCmdApply_range (range : s.dev.domApply t = s.dev.domRange t) : Runs (.domainCmdApply t) s fun d =>
    d.dom t = { s.dev.dom t with cmd := none } ∧ d.f tmDomCmd_BUSY t = 0 ∧ d.f tmDomCmd_RESULT t = 1 ∧
      s.dev.Only d { regs := [(.tmDomCmd, t.val)], parts := [.time] } := by
  obtain ⟨ended, idle, result, within⟩ := domRange_spec s.dev t
  exact runs_logic_to on (exec_domainCmdApply ..) range (within.held (by simp [Foot.hasPart])) ⟨ended, idle, result, within.only⟩

theorem runs_domainCmdApply_rate {p : DomSet} {r inc : Nat} (set : s.dev.domSet t r = some p)
    (rate : s.dev.domApply t = s.dev.domPush t { anchor := r, off := p.at r, inc := inc }) : Runs (.domainCmdApply t) s fun d =>
      (d.dom t).hist.head? = some { anchor := r, off := p.at r, inc := inc } ∧ (d.dom t).cmd = none ∧
        d.domTime? t r = s.dev.domTime? t r ∧ d.f tmDomCmd_BUSY t = 0 ∧ d.f tmDomCmd_RESULT t = 0 ∧
        s.dev.Only d { regs := [(.tmDomCmd, t.val), (.tmDomInc, 2 * t), (.tmDomInc, 2 * t + 1)], parts := [.time] } := by
  have within := within_domPush s.dev t { anchor := r, off := p.at r, inc := inc }
  refine runs_logic_to on (exec_domainCmdApply ..) rate (within.held (by simp [Foot.hasPart])) ⟨?_, ?_, ?_⟩
  · rw [dom_domPush]
    rfl
  · rw [dom_domPush]
  · exact ⟨domTime?_domPush set inc, domPush_busy .., domPush_result .., within.only⟩

theorem runs_domainCmdApply_step {p : DomSet} {was : Nat} (step : s.dev.domApply t = s.dev.stepTo t was p) :
    Runs (.domainCmdApply t) s fun d => (d.dom t).hist.head? = some p ∧ (d.dom t).cmd = none ∧ d.f tmDomCmd_RESULT t = 0 ∧
      d.f tmDomCmd_STEP_GEN t = (s.dev.f tmDomCmd_STEP_GEN t + 1) % 256 := by
  refine (runs_logic_iff on (exec_domainCmdApply ..)).2 ?_
  rw [step]
  exact stepTo_spec s.dev t was p

theorem runs_latch : Runs .latch s fun d =>
    (∀ w ∈ List.range 3, d.rd .tmLatchRaw w = BitVec.ofNat 32 ((s.dev.raw + s.dev.time.sub * 2 ^ 16) / 2 ^ (32 * w))) ∧
      s.dev.Only d { arrays := [.tmLatchRaw, .tmLatchDom] } := by
  refine runs_logic_of_held on (exec_latch ..) (by simp) ⟨fun w word => ?_, ?_⟩
  · have kept := (within_timeLatch (F := { arrays := [.tmLatchDom] }) (by simp) s.dev).reg .tmLatchRaw w (by simp [Foot.hasReg])
    rw [kept, rd_rawLatched word]
  · exact ((within_rawLatched s.dev).trans (within_timeLatch (by simp) s.dev)).only

theorem runs_convGo (idle : s.dev.f tmConvCmd_BUSY 0 = 0) : Runs (.convGo t) s fun d =>
    d.f tmConvCmd_BUSY 0 = 1 ∧ d.f tmConvCmd_TD 0 = t ∧ s.dev.Only d { regs := [(.tmConvCmd, 0)] } := by
  refine runs_logic_to on (exec_convGo ..) (convWrite_go idle t) (by simp) ⟨?_, ?_, ?_⟩
  · exact f_sf_fits (by decide) (by decide) (by decide) _ _
  · rw [f_sf_of_apart (by decide)]
    exact f_sf_fits (by decide) (by decide) t.isLt _ _
  · exact ((Within.sf _ (.inl (by simp)) _).trans (.sf _ (.inl (by simp)) _)).only

theorem runs_convDone {x : Option Nat} (busy : s.dev.f tmConvCmd_BUSY 0 = 1)
    (time : s.dev.domTime? (s.dev.f tmConvCmd_TD 0) s.dev.convIn = x) : Runs .convDone s fun d =>
      d.rdTime .tmConvOut 0 = x.getD 0 ∧ d.f tmConvCmd_STATUS 0 = (if x.isSome then 0 else 1) ∧ d.f tmConvCmd_BUSY 0 = 0 ∧
        s.dev.Only d { regs := [(.tmConvCmd, 0)], arrays := [.tmConvOut] } := by
  obtain ⟨out, status, idle, within⟩ := convDone_spec busy time
  exact runs_logic_of_held on (exec_convDone ..) (within.held (by simp [Foot.hasPart])) ⟨out, status, idle, within.only⟩

end Commands

/-- Settles O33: a command waits with its arguments; at its edge it is one change of the domain's sets, which a step's event, the
triggers and the gates leave alone; the latch and the conversion are writes of their registers. -/
theorem timeDomains : Obligations.TimeDomains := by
  unfold Obligations.TimeDomains
  intro s t on
  refine ⟨fun idle e command => runs_domainCommand on command idle,
    fun busy c command => runs_domainCommand_busy on command busy, fun waits => runs_domainCmdApply_idle on waits,
    ?rate, ?rateRange, ?stepRange, ?timeRange, ?step, ?setTime, runs_latch on, fun idle => runs_convGo on idle,
    fun busy => runs_logic_to on (exec_convGo ..) (convWrite_busy busy t true) (by simp) rfl,
    fun idle => runs_logic_to on (exec_convDone ..) (convDone_idle idle) rfl rfl, fun x busy time => ?converted,
    fun busy stale => ?stale⟩
  case rate =>
    intro p w0 w1 w2 r core0 core1 due reached cmd set low high
    refine runs_domainCmdApply_rate on set ?_
    rw [domApply_rate core0 core1 due reached set cmd, if_neg (by omega)]
  case rateRange =>
    intro p w0 w1 w2 r core0 core1 due reached cmd set outside
    refine runs_domainCmdApply_range on ?_
    rw [domApply_rate core0 core1 due reached set cmd, if_pos outside]
  case stepRange =>
    intro p w0 w1 w2 r core0 core1 due reached cmd set negative
    refine runs_domainCmdApply_range on ?_
    rw [domApply_step core0 core1 due reached set cmd, if_pos negative]
  case timeRange =>
    intro p w0 w1 w2 r core0 core1 due reached cmd set large
    refine runs_domainCmdApply_range on ?_
    rw [domApply_setTime core0 core1 due reached set cmd, if_pos large]
  case step =>
    intro p w0 w1 w2 o r core0 core1 due reached cmd set sum
    refine runs_domainCmdApply_step on (was := p.at r / 2 ^ 32) ?_
    rw [domApply_step core0 core1 due reached set cmd, sum, if_neg (by omega), Int.toNat_natCast]
  case setTime =>
    intro p w0 w1 w2 r core0 core1 due reached cmd set small
    obtain ⟨u, ran, queue, head, -, -, gen⟩ := runs_domainCmdApply_step on (by
      rw [domApply_setTime core0 core1 due reached set cmd, if_neg (by omega)])
    exact ⟨u, ran, queue, head, gen⟩
  case converted =>
    exact runs_convDone on busy time
  case stale =>
    obtain ⟨u, ran, queue, -, status, idle, -⟩ := runs_convDone on busy stale
    exact ⟨u, ran, queue, status, idle⟩

end Sys2Proof.Machine
end
